-- ==== Sys2Proof/Word.lean ====
section
/-! DEFINITION. The plain numbers of the model: register fields and counters are `Nat` values that are cut to their
width wherever they are stored; a 72-bit word is a `Nat` below 2^72; `Tab` is the sparse table all storage uses. -/

namespace Sys2Proof

/-- Storage by key: key and value pairs in one canonical form (`Machine.Tab.wf`): keys strictly rising, no entry equal
to what an absent key reads as. -/
abbrev Tab (α : Type) := List (Nat × α)

/-- A 72-bit word. -/
def word72 (v : Nat) : Nat := v % 2 ^ 72

end Sys2Proof
end

