-- ==== Sys2Proof/Units.lean ====
section
/-! DEFINITION. Operands of commands that have parts: what a tile's design asks of its block's hardened units (R248), and what the
environment does to a link unit, a ledger line and the device without power. -/

namespace Sys2Proof

/-- R248: one use of a hardened unit of a block. -/
inductive UnitOp where
  /-- Multiply-accumulate unit `u`: A and B, each signed or not, and the operation: 0 ACC = P, 1 ACC = ACC + P,
  2 ACC = ACC - P. -/
  | mac (u a b : Nat) (sa sb : Bool) (op : Nat)
  /-- CRC mode: width, polynomial, initial value, input and output reflection, final XOR, and the input bytes. -/
  | crc (width poly init : Nat) (refIn refOut : Bool) (xorOut : Nat) (input : List Nat)
  /-- BCH syndrome mode: t, the bits of the codeword and its bytes. -/
  | bch (t n : Nat) (input : List Nat)
  deriving DecidableEq, Repr

/-- R316: unit `u` of a packet is received with the error bits `e`, and, where it is replayed, again with `e2`. -/
structure LinkErr where
  u : Nat
  e : Nat
  e2 : Nat
  deriving DecidableEq, Repr

/-- R229, R245: the line that a full ledger cache gives up, with an error of class `up`; `lost` says that a SITE field of it cannot
be read. -/
structure Victim where
  line : Nat
  up : Nat
  lost : Nat
  deriving DecidableEq, Repr

/-- R421, R423, R388: what an instruction of a steward, or its debug module, does with the steward's registers and with memory. -/
inductive StwAct where
  /-- Register x`n` takes `v`: the result of an instruction, or a write by the debugger. -/
  | setX (n v : Nat)
  /-- The debug module reads register x`n`. -/
  | getX (n : Nat)
  /-- A Zicsr instruction at `pc` on register `a`: `op` 0 reads, 1 writes, 2 sets and 3 clears the bits `v`; x`rd` takes what was read. -/
  | csr (pc a op v rd : Nat)
  /-- The debug module reads the word at `a` of memory or a register. -/
  | load (a : Nat)
  /-- The debug module writes `v` to the word at `a`. -/
  | store (a v : Nat)
  deriving DecidableEq, Repr

/-- R267, R337, R507: what a loss of power leaves: `res` of the code word being programmed (0 programmed, 1 not blank,
2 uncorrectable), `torn` the blocks whose COMMIT is cut, `worn` the planes, block and plane, of which a frame fails its CRC from
then on (R266). -/
structure PowerCut where
  res : Nat
  torn : List Nat
  worn : List (Nat × Nat)
  deriving DecidableEq, Repr

end Sys2Proof
end

