-- ==== Sys2Proof/Syntax.lean ====
section
/-! DEFINITION. The commands of the block: one constructor per row of spec/opcode_table.json. -/

namespace Sys2Proof

/-- The commands (spec/opcode_table.json), in the table's order. Operands name cells 0 to 255, caravans by their lead
cell, blocks 0 to 31, regions 0 to 3 and lanes 0 to 3; `mask` gives the bits that a register write writes (R7). -/
inductive Instr where
  /-- REGISTER_WRITE (R7). A write to a register field that has no row of its own sets, clears or ignores its bits by field type, and sets WR_IGN where a rule ignores it. -/
  | registerWrite (m : Nat) (a : Nat) (n : Nat) (v : Nat)
  /-- READ_CLEAR (R9). A read that returns a whole RC field clears it and keeps any increment made in the same cycle. -/
  | readClear (a : Nat) (n : Nat)
  /-- REQUEST_ISSUE (R302). An initiator interface checks address, domain, grant, berth and response slot, then issues the waiting request or answers it locally. -/
  | requestIssue (i : Nat) (tag : Nat) (subid : Nat) (kind : Nat) (addr : Nat) (len : Nat) (bytes : Nat) (data : List Nat) (fetch : Bool)
  /-- RD (R300). A target serves a read of 1 to 8 full words and returns RSP_DATA or RSP_ERR. -/
  | rd (i : Nat) (tag : Nat) (up : Nat) (dev : Nat)
  /-- WR (R4). A target writes 1 to 8 full words, recomputes check bits and returns RSP_ACK or RSP_ERR. -/
  | wr (i : Nat) (tag : Nat) (up : Nat) (dev : Nat)
  /-- RDP (R300). A target reads the bytes of one word selected by BYTE_EN. -/
  | rdp (i : Nat) (tag : Nat) (up : Nat) (dev : Nat)
  /-- WRP (R4). A target merges the bytes of one word selected by BYTE_EN by read-modify-write, refusing the merge over an uncorrectable word. -/
  | wrp (i : Nat) (tag : Nat) (up : Nat) (dev : Nat)
  /-- RSP_DATA (R301). A data response reaches its initiator, completing the request and returning its berth. -/
  | rspData (i : Nat) (tag : Nat) (lat : Nat)
  /-- RSP_ACK (R301). A write acknowledgement reaches its initiator and returns the berth. -/
  | rspAck (i : Nat) (tag : Nat) (lat : Nat)
  /-- RSP_ERR (R276). An error response reaches its initiator, which takes an access fault, stops its DMA or reports ERR. -/
  | rspErr (i : Nat) (tag : Nat) (lat : Nat)
  /-- RESPONSE_TIMEOUT (R319). A request with no response after RSP_TIMEOUT completes at its interface with RSP_ERR TIMEOUT. -/
  | responseTimeout (i : Nat) (tag : Nat)
  /-- LINK_REPLAY (R316). A link unit with an uncorrectable error is NAKed and replayed once from the failed unit. -/
  | linkReplay (k : Nat) (i : Nat) (tag : Nat) (how : LinkErr)
  /-- RECFG_CLOSE (R310). A steward closes the routers to affected waybills and starts the drain. -/
  | recfgClose
  /-- DRAINED (R310). Every affected packet has left the routers; RT_ACT takes RT_STAGE and DRAINED_EVT sets. -/
  | drained (cyc : Nat)
  /-- RECFG_OPEN (R313). Waiting waybills are routed under RT_ACT, and disabled routes are answered NO_ROUTE. -/
  | recfgOpen
  /-- BERTH_GRANT_WRITE (R304). A steward lowers or raises a berth grant, a raise being ignored when the class's places would be exceeded. -/
  | berthGrantWrite (m : Nat) (i : Nat) (c : Nat) (mask : Nat) (v : Nat)
  /-- TOLL_CLEAR (R309). TOLL_CTRL.CLEAR clears every toll counter together. -/
  | tollClear
  /-- COMPAT_WAKE_TIMEOUT (R315). A request waiting for a domain in compatibility mode completes with TIMEOUT after 200 µs. -/
  | compatWakeTimeout (i : Nat) (tag : Nat)
  /-- FETCH (R78). The sequencer reads the next word from port A or the ring and corrects it, or halts with FETCH_ECC. -/
  | fetch (l : Nat) (ups : List (Nat × Nat))
  /-- UNDERRUN_HOLD (R85). A short member makes the lead issue an underrun hold stride, which counts and may void the run under HOLD. -/
  | underrunHold (l : Nat)
  /-- SC_LIMIT (R95). The stride counter reaching SC_LIMIT halts the caravan and clears EN. -/
  | scLimit (l : Nat)
  /-- RESOLVE (R217). Comparator results form the 32 fail bits, update FAIL and FAILS and form a fail record when FC is set. -/
  | resolve (l : Nat) (obs : List (Nat × Nat)) (dual : List Nat)
  /-- VEC (R44). A literal vector stride drives and compares the four lanes from its payload. -/
  | vec (l : Nat) (env : Nat × List (Nat × Int))
  /-- VEX (R46). A sourced vector stride resolves lanes through the Pin Source Map and steps the caravan's APG. -/
  | vex (l : Nat) (env : Nat × List (Nat × Int))
  /-- NOP (R33). A hold stride with no other effect. -/
  | nop (l : Nat)
  /-- HALT (R91). After its stride the caravan halts with cause HALTED and HCODE. -/
  | halt (l : Nat)
  /-- JMP (R56). The next PC becomes TARGET. -/
  | jmp (l : Nat)
  /-- JCC (R52). A branch on a caravan, lead, APG or fabric condition. -/
  | jcc (l : Nat)
  /-- CALL (R56). Pushes PC + 1 and jumps, or halts with STACK_OVER. -/
  | call (l : Nat)
  /-- RET (R56). Pops the return stack into PC, or halts with STACK_UNDER. -/
  | ret (l : Nat)
  /-- LOOP_OPEN (R57). Activates the next loop level with COUNT and its top. -/
  | loopOpen (l : Nat)
  /-- LOOP_CLOSE (R57). Closes the innermost loop as LE does, at the cost of its own stride. -/
  | loopClose (l : Nat)
  /-- LOOP_DROP (R57). Makes the innermost loop inactive without branching. -/
  | loopDrop (l : Nat)
  /-- MATCH (R60). Issues the template stride repeatedly until it passes, setting MATCH and MTO. -/
  | matchWord (l : Nat)
  /-- MATCH_COUNT_EXPIRY (R60). COUNT template strides pass without success and the drain begins, ending with MTO = 1. -/
  | matchCountExpiry (l : Nat)
  /-- MATCH_DRAIN_END (R60). The Lc further template or drain strides end and the next word executes. -/
  | matchDrainEnd (l : Nat)
  /-- WAIT_TIME (R62). Begins COUNT hold strides. -/
  | waitTime (l : Nat) (n : Nat)
  /-- WAIT_COND (R63). Issues hold strides until a fabric or EVT condition reads 1, clearing EVT on success. -/
  | waitCond (l : Nat) (n : Nat)
  /-- WAIT_COUNT_EXPIRY (R63). A WAIT's COUNT strides pass, ending a timed wait or a conditional wait with MTO = 1. -/
  | waitCountExpiry (l : Nat)
  /-- SYNC (R64). The caravan arrives at its sync group and issues hold strides until release. -/
  | sync (l : Nat) (n : Nat)
  /-- SYNC_RELEASE (R115). A complete group releases its caravans at a stride boundary, consuming NEXT_PC and starting an armed swap. -/
  | syncRelease (n : Nat)
  /-- APG (R65). Loads an APG register from a G register and applies a step. -/
  | apg (l : Nat)
  /-- MODE (R43). Writes LMODE and LMODE_ALT from the next stride. -/
  | mode (l : Nat)
  /-- TSET (R66). Schedules copies of timing-table entries into slots. -/
  | tset (l : Nat)
  /-- TSET_APPLY (R66). Three strides after a TSET its slot copies take effect. -/
  | tsetApply (c : Nat)
  /-- EVENT (R67). Appends a code to the lead's event queue and pulses its event source. -/
  | event (l : Nat)
  /-- STREAM (R68). Starts execution of COUNT words from each member's ring. -/
  | stream (l : Nat)
  /-- LEDGER_TAG (R219). Later records carry VALUE as their ledger tag. -/
  | ledgerTag (l : Nat)
  /-- LEDGER_ACCT (R219). Later records carry VALUE as their account and AV = 1. -/
  | ledgerAcct (l : Nat)
  /-- LEDGER_MARK (R222). Inserts a drain marker behind all earlier records of each member. -/
  | ledgerMark (l : Nat)
  /-- LEDGER_ALLOC (R222). Inserts an ALLOC marker that starts the allocation pass when its drain completes. -/
  | ledgerAlloc (l : Nat)
  /-- BOND (R70). Makes the following NSTR vector strides bonded strides fed from the open session. -/
  | bond (l : Nat)
  /-- ADD (R73). G[D] = G[A] + b modulo 2^72. -/
  | add (l : Nat)
  /-- SUB (R73). G[D] = G[A] − b modulo 2^72. -/
  | sub (l : Nat)
  /-- AND (R73). Bitwise AND into G[D]. -/
  | and (l : Nat)
  /-- OR (R73). Bitwise OR into G[D]. -/
  | or (l : Nat)
  /-- XOR (R73). Bitwise XOR into G[D]. -/
  | xor (l : Nat)
  /-- SHL (R73). Shifts G[A] left by b into G[D]. -/
  | shl (l : Nat)
  /-- SHR (R73). Shifts G[A] logically right by b into G[D]. -/
  | shr (l : Nat)
  /-- CMP (R73). Sets EQ and LT from G[A] and b. -/
  | cmp (l : Nat)
  /-- MOVI (R73). Writes a 36-bit immediate into one half of G[D]. -/
  | movi (l : Nat)
  /-- BRK (R91). After its stride the caravan halts with cause BREAK and may trigger freeze. -/
  | brk (l : Nat)
  /-- TLOAD (R203). Copies N timing-table entries from the scratchpad in extra strides. -/
  | tload (l : Nat)
  /-- STRM_PRIME (R82). A program makes an armed descriptor active and starts the stream DMA. -/
  | strmPrime (l : Nat)
  /-- STRM_FLUSH (R82). A program discards the ring, stops the DMA and disarms all descriptors. -/
  | strmFlush (l : Nat)
  /-- CVC_VOID (R94). A program marks the caravan's run void with REASON. -/
  | cvcVoid (l : Nat)
  /-- CVC_FLAG (R467). A program sets the caravan's two sequencer flag outputs. -/
  | cvcFlag (l : Nat)
  /-- START (R100). The lead begins a run at START_PC after the clears of R99, or arms for a Convoy START. -/
  | start (c : Nat) (convoy : Bool)
  /-- STOP (R101). Halts the caravan at the next stride boundary with cause STOPPED. -/
  | stop (c : Nat)
  /-- RESUME (R98). Continues a halted caravan at PC with all state kept. -/
  | resume (c : Nat)
  /-- STEP (R98). Executes one word and halts with cause STEPPED. -/
  | step (c : Nat)
  /-- ABORT (R98). Stops the caravan and puts every member pin in the safe state, setting ABORTED. -/
  | abort (c : Nat)
  /-- VOID (R98). Marks the run void with cause STEWARD. -/
  | void (c : Nat)
  /-- PRIME (R82). A steward makes descriptor DESC active and starts filling the ring. -/
  | prime (c : Nat) (desc : Nat)
  /-- FLUSH (R82). A steward discards the ring, stops the DMA and disarms all descriptors. -/
  | flush (c : Nat)
  /-- NEXT_PC_WRITE (R103). A write to SEQ.NEXT_PC arms or replaces the switch pointer. -/
  | nextPcWrite (c : Nat) (v : Nat)
  /-- EVT_SET (R55). A write to SEQ.EVT sets EVT in the lead, or is ignored in any other cell. -/
  | evtSet (c : Nat) (v : Nat)
  /-- EVQ_READ (R67). A read of SEQ.EVQ returns and removes the oldest event code. -/
  | evqRead (c : Nat)
  /-- ARM_DESCRIPTOR (R82). Writing SDn_CTRL.ARM arms a stream descriptor unless LEN is 0 or the ring is off. -/
  | armDescriptor (c : Nat) (n : Nat)
  /-- RING_WRITE (R81). A change of SEQ.RING.EN or HALF acts as FLUSH, or is ignored while running or over a window. -/
  | ringWrite (c : Nat) (mask : Nat) (v : Nat)
  /-- PSM_WRITE (R50). A Pin Source Map register write takes effect at one stride boundary. -/
  | psmWrite (c : Nat) (n : Nat) (mask : Nat) (v : Nat)
  /-- STREAM_DMA_REFILL (R83). With 64 free ring words the stream DMA requests a refill of up to 64 words from the active descriptor. -/
  | streamDmaRefill (c : Nat) (n : Nat) (up : Nat) (dev : Nat) (lat : Nat)
  /-- CEL_CARAVAN_WRITE (R105). A write to CEL.CARAVAN changes membership or site, making affected caravans IDLE, or is ignored. -/
  | celCaravanWrite (c : Nat) (mask : Nat) (v : Nat)
  /-- GANG_WRITE (R110). A write to RGN.GANG regroups block stride clocks, or is ignored while caravans run. -/
  | gangWrite (r : Nat) (mask : Nat) (v : Nat)
  /-- CLOCK_SOURCE_SWITCH (R110). A block whose gang source changed gates its clocks at a stride boundary and resumes on the new source. -/
  | clockSourceSwitch (b : Nat)
  /-- APG_OWN_WRITE (R111). A write to RGN.APG_OWN changes the holders of block APGs, or is ignored. -/
  | apgOwnWrite (r : Nat) (mask : Nat) (v : Nat)
  /-- SGRP_WRITE (R118). A write to RGN.SGRPn changes a group's mask and judges the group again. -/
  | sgrpWrite (r : Nat) (n : Nat) (mask : Nat) (v : Nat)
  /-- APG_WRITE (R139). A steward write to the APG window takes effect, or is ignored while the holder runs. -/
  | apgWrite (b : Nat) (off : Nat) (mask : Nat) (value : Nat)
  /-- LANE_ENABLE (R163). A write of EN = 1 takes a lane out of the safe state when every condition holds. -/
  | laneEnable (c : Nat) (n : Nat) (mask : Nat) (v : Nat)
  /-- LANE_DISABLE (R161). A write of EN = 0 puts the lane in the safe state with cause DISABLED, or is ignored while running. -/
  | laneDisable (c : Nat) (n : Nat) (mask : Nat) (v : Nat)
  /-- STATIC_DRIVE (R160). Setting STAT_EN makes an idle lane drive STAT. -/
  | staticDrive (c : Nat) (n : Nat) (mask : Nat) (v : Nat)
  /-- LEVEL_SET_WRITE (R146). A change to the level set in use or LSEL moves the DACs and sets LS_BUSY. -/
  | levelSetWrite (c : Nat) (n : Nat) (m : Nat) (which : Nat) (mask : Nat) (v : Nat)
  /-- LS_SETTLED (R146). The settling time after a level change passes and LS_BUSY clears. -/
  | lsSettled (c : Nat) (n : Nat)
  /-- PMU_WRITE (R153). A write to PIN.PMUn changes the PPMU mode, range or force, or is ignored. -/
  | pmuWrite (c : Nat) (n : Nat) (mask : Nat) (v : Nat)
  /-- MEAS_GO (R156). A write of PIN.MEASn.GO clears the result and queues a measurement request. -/
  | measGo (c : Nat) (n : Nat) (mask : Nat) (v : Nat)
  /-- MEAS_DELAY_EXPIRY (R156). A request's DELAY elapses and it competes for the block ADC. -/
  | measDelayExpiry (c : Nat) (n : Nat)
  /-- CONVERSION_DONE (R156). An ADC conversion ends, and after 2^NAVG conversions the result and VALID are written. -/
  | conversionDone (b : Nat) (code : Int) (clamp : Bool) (sat : Bool)
  /-- SAFE_STATE_DONE (R162). Safe-state entry completes: SAFE = 1 and EN, STAT_EN and MODE clear. -/
  | safeStateDone (c : Nat) (n : Nat)
  /-- HEARTBEAT_LOSS (R161). A pin die without heartbeat for 1 µs puts all its lanes safe with cause BRIDGE. -/
  | heartbeatLoss (r : Nat)
  /-- DCHK_INTERVAL (R150). A 16-FIO-cycle interval without a stride boundary ends and drive check evaluates the lane. -/
  | dchkInterval (c : Nat) (n : Nat) (held : Bool) (pin : Int)
  /-- TRIM_WRITE (R169). A write to PIN.TRIMn_k under SERVICE replaces a trim and sets CAL_SRC = 3. -/
  | trimWrite (c : Nat) (n : Nat) (k : Nat) (mask : Nat) (v : Nat)
  /-- CAL_LOAD (R168). CHIP.CAL_CTRL.LOAD starts the calibration loader. -/
  | calLoad
  /-- CAL_LOAD_DONE (R167). The loader finishes, loading the valid bank with the larger SEQ or none. -/
  | calLoadDone (a : Nat) (b : Nat)
  /-- TIM_TAB_WRITE (R204). A steward write to a timing-table word takes effect or is ignored for a reserved FMT. -/
  | timTabWrite (c : Nat) (e : Nat) (w : Nat) (mask : Nat) (v : Nat)
  /-- OFS_WRITE (R213). A write to TIM.OFSn moves a lane's edges from a stride boundary. -/
  | ofsWrite (c : Nat) (n : Nat) (mask : Nat) (v : Nat)
  /-- PLL_SET (R179). SET applies the staged PLL configuration through a relock. -/
  | pllSet (b : Nat)
  /-- PLL_STEP (R184). STEP ramps a DP-mode PLL to the staged N and FRAC without relock. -/
  | pllStep (b : Nat)
  /-- RAMP_END (R184). A STEP ramp reaches its target and completes with OK. -/
  | rampEnd (b : Nat)
  /-- PLL_RELOCK (R181). RELOCK relocks a LOST, FAIL or OFF PLL with its active configuration. -/
  | pllRelock (b : Nat)
  /-- PLL_OFF (R179). OFF gates both clocks and powers the PLL down. -/
  | pllOff (b : Nat)
  /-- RELOCK_GATE (R181). At the next stride boundary the clocks are gated and acquisition begins. -/
  | relockGate (b : Nat)
  /-- LOCK_INDICATED (R181). The PLL indicates lock and the 2 µs stability timer starts. -/
  | lockIndicated (b : Nat)
  /-- RELOCK_COMPLETE (R181). After 2 µs of stable lock the clocks run, STATE = LOCKED, and the command completes. -/
  | relockComplete (b : Nat)
  /-- RELOCK_TIMEOUT (R180). Without stable lock 200 µs after the gate, SET or RELOCK completes with TIMEOUT and STATE = FAIL. -/
  | relockTimeout (b : Nat)
  /-- PLL_CLAMP (R186). The DP oscillator code hits FMAX_CLAMP, setting CLAMPED and counting microseconds clamped. -/
  | pllClamp (b : Nat) (us : Nat) (on : Bool)
  /-- REF_WINDOW (R173). A 1 µs reference-monitor window ends and a bad count raises a reference fault. -/
  | refWindow (ref : Nat) (n : Nat)
  /-- LOCK_SUSPICION (R189). At an excursion's onset a suspicion reaches the stride domain and each cell latches SC. -/
  | lockSuspicion (b : Nat)
  /-- SUSPICION_CLEAR (R221). An excursion returns before declaration and held records leave without VOIDF. -/
  | suspicionClear (b : Nat)
  /-- LOSS_OF_LOCK (R188). The lock monitor declares loss of lock, STATE = LOST, and the fault hub is told. -/
  | lossOfLock (b : Nat) (cause : Nat) (det : Nat)
  /-- LOCK_LOST_GATE (R189). At the next stride boundary the clocks gate, caravans halt with LOCK_LOST and LAST_GOOD is fixed. -/
  | lockLostGate (b : Nat)
  /-- CHIP_PLL_FALLBACK (R195). The chip PLL loses lock and steward and Trunk clocks fall back to the FIO. -/
  | chipPllFallback
  /-- CHIP_PLL_LOCK (R195). The chip PLL reacquires and PLL_LOCK sets after 2 µs of stable lock. -/
  | chipPllLock
  /-- USE_PLL (R195). A write of USE_PLL moves steward and Trunk to the chip PLL, or is ignored. -/
  | usePll
  /-- FAB_WRITE (R258). Objor's WRITE starts the Plane Writer on the inactive plane. -/
  | fabWrite (b : Nat) (m : Nat) (key : Nat) (err : Nat × Nat)
  /-- PW_FRAME (R258). One frame record is read, checked, programmed and verified. -/
  | pwFrame (b : Nat) (err : Nat × Nat) (fail : Bool)
  /-- PW_COMPLETE (R258). The writer checks digest and tag and marks the plane VALID, or BAD with a failure result. -/
  | pwComplete (b : Nat) (err : Nat × Nat × Nat)
  /-- ARM (R260). ARM arms a swap to the VALID inactive plane, or is ignored. -/
  | arm (b : Nat)
  /-- DISARM (R260). DISARM clears ARMED unless a swap is in progress or waiting. -/
  | disarm (b : Nat)
  /-- SWAP (R262). The steward SWAP command schedules a plane swap at the next stride boundary. -/
  | swap (b : Nat)
  /-- PLANE_SWAP (R263). A swap starts at its boundary: outputs hold, fabric clock gates and the inactive plane is sensed. -/
  | planeSwap (b : Nat) (bad : Bool)
  /-- SWAP_COMPLETE (R263). 200 ns after the boundary the fabric clock resumes with the new design and ACTIVE toggles. -/
  | swapComplete (b : Nat)
  /-- COMMIT (R267). COMMIT marks the active plane as boot plane with a new GEN. -/
  | commit (b : Nat)
  /-- LATCH_PARITY_ERROR (R265). The latch scanner finds a parity error in a frame and requests its reload. -/
  | latchParityError (b : Nat) (fa : Nat)
  /-- FRAME_RELOAD (R265). The frame is sensed again from the active plane, CRC-checked and rewritten. -/
  | frameReload (b : Nat) (fa : Nat) (bad : Bool)
  /-- FABRIC_PUSH (R250). A tile pushes a word into its lane-source queue, or the push is ignored when full. -/
  | fabricPush (c : Nat) (v : Nat × List UnitOp)
  /-- TAP_TAKE (R251). A tile takes the oldest entry of its tap queue. -/
  | tapTake (c : Nat)
  /-- PORT_B_ACCESS (R252). A tile reads or writes a scratchpad word through port B. -/
  | portBAccess (c : Nat) (a : Nat) (v : Nat) (coll : Nat) (up : Nat) (write : Bool)
  /-- FAB_CONDITION (R54). A tile changes FAB0 to FAB3, seen by sequencer decisions after synchronisation. -/
  | fabCondition (c : Nat) (k : Nat) (v : Bool)
  /-- MPR_WRITE (R275). A write to a region register takes effect for later accesses, or is ignored when locked or unauthorised. -/
  | mprWrite (m : Nat) (t : Nat) (n : Nat) (which : Nat) (mask : Nat) (v : Nat)
  /-- DDR_TRAIN (R289). TRAIN starts DDR5 training from OFF or FAILED. -/
  | ddrTrain (r : Nat)
  /-- TRAINING_DONE (R289). Training ends and the channel becomes READY or FAILED. -/
  | trainingDone (r : Nat) (why : Nat)
  /-- DDR_REFRESH (R290). The refresh interval expires and the controller issues refresh. -/
  | ddrRefresh (r : Nat)
  /-- PATROL_SCRUB (R290). The patrol scrubber reads and corrects the next burst in an idle cycle. -/
  | patrolScrub (r : Nat) (up : Nat) (dev : Nat)
  /-- DDR_TEMP_POLL (R290). Every 16 ms the DRAM temperature is polled and the refresh interval set. -/
  | ddrTempPoll (r : Nat) (hot : Bool)
  /-- DDR_LINK_ERROR (R291). A device reports a write-CRC or parity error, which is retried or makes the channel FAILED. -/
  | ddrLinkError (r : Nat) (kind : Nat) (n : Nat)
  /-- FAIL_QUEUE_RELEASE (R221). A record leaves the cell fail queue once SC has passed its stride count by 16 or the caravan stops. -/
  | failQueueRelease (c : Nat)
  /-- MERGER_TAKE (R223). A block merger takes one record or marker from a cell queue, round-robin. -/
  | mergerTake (b : Nat)
  /-- ENGINE_APPLY (R224). The region engine takes a record and sends a ledger update and account update as configured. -/
  | engineApply (r : Nat)
  /-- LUPD (R228). The home applies a ledger update to its bucket, or spills the record. -/
  | lupd (h : Nat) (victim : Victim) (up : Nat) (dev : Nat) (lost : Nat)
  /-- ACCOUNT_UPDATE (R235). A NEW record updates its repair account's row and column tables. -/
  | accountUpdate (r : Nat) (up : Nat)
  /-- DRAIN (R222). A steward drain request inserts a marker into each member's cell queue. -/
  | drain (l : Nat)
  /-- DRAIN_COMPLETE (R238). All markers and earlier records are applied; DRAIN_DONE sets and an ALLOC marker starts its pass. -/
  | drainComplete (l : Nat)
  /-- ALLOC (R237). A steward request starts an allocation pass over the caravan's accounts. -/
  | alloc (l : Nat)
  /-- ALLOCATE_ACCOUNT (R236). An allocator finishes one account and writes its repair solution. -/
  | allocateAccount (l : Nat) (up : Nat)
  /-- ALLOCATION_PASS_END (R237). A pass ends, ALLOC_DONE sets with counts, and a held request starts. -/
  | allocationPassEnd (l : Nat)
  /-- CLEAR (R231). Writing CLEAR advances the site's epoch, or is ignored. -/
  | clear (n : Nat)
  /-- SCRUB_BUCKET (R232). The ledger scrubber invalidates non-live entries of the next bucket. -/
  | scrubBucket (h : Nat) (up : Nat × Nat) (dev : Nat)
  /-- SCRUB_PASS_END (R232). A scrub pass completes and frees epochs retired before it began. -/
  | scrubPassEnd (h : Nat)
  /-- LDG_FLUSH (R243). FLUSH.GO starts write-back of every dirty ledger cache line. -/
  | ldgFlush (r : Nat)
  /-- LDG_FLUSH_DONE (R243). The write-back ends and BUSY clears. -/
  | ldgFlushDone (r : Nat × List (Nat × Nat × Nat))
  /-- LOOKUP (R244). LK_KEY.GO sends a key lookup to its home. -/
  | lookup (r : Nat) (key : Nat)
  /-- LOOKUP_DONE (R244). The lookup result arrives with FOUND and the entry. -/
  | lookupDone (r : Nat) (victim : Victim) (up : Nat) (dev : Nat) (lost : Nat)
  /-- DIGEST (R241). DIG_CTRL.GO starts the ledger digest of a caravan, or is ignored. -/
  | digest (r : Nat) (i : Nat)
  /-- DIGEST_DONE (R241). LD and the dropped count are ready and DIG_DONE sets. -/
  | digestDone (r : Nat × List (Nat × Nat))
  /-- SPILL_HEAD_WRITE (R230). A steward advances SPILL_HEAD, or the write is ignored when out of range. -/
  | spillHeadWrite (h : Nat) (v : Nat)
  /-- LDG_CTRL_WRITE (R246). A write to LDG.CTRL enables the ledger or sets SALT, or is ignored. -/
  | ldgCtrlWrite (mask : Nat) (v : Nat)
  /-- READ_MARGIN (R326). Reads a Store code word at a chosen margin into RBUF. -/
  | readMargin (obj : Bool) (k : Nat) (margin : Nat) (e : Nat)
  /-- PROGRAM (R327). Starts programming PBUF into an erased code word. -/
  | program (obj : Bool) (k : Nat) (e : Nat)
  /-- PROGRAM_DONE (R327). Programming and verify end with OK or FAULT, and waiting reads are served. -/
  | programDone (res : Nat) (es : List Nat)
  /-- ERASE (R334). Starts a journaled erase of a sector. -/
  | erase (obj : Bool) (index : Nat)
  /-- ERASE_DONE (R334). The erase verifies and is journaled COMPLETE, or leaves the sector torn with FAULT. -/
  | eraseDone (bad : List Nat) (es : List Nat)
  /-- RAW_READ (R338). Returns a code word's 320 physical bits uncorrected. -/
  | rawRead (obj : Bool) (k : Nat) (flip : Nat)
  /-- RAW_PROGRAM (R338). Programs PBUF and PBUF_CHK as given, with no blank check. -/
  | rawProgram (obj : Bool) (k : Nat)
  /-- JOURNAL_ROLLOVER (R335). With fewer than 8 free entries the Store starts a journal rollover into the other half. -/
  | journalRollover
  /-- ROLLOVER_PERIOD_END (R335). A rollover busy period ends: the new half committed, or the old half erased. -/
  | rolloverPeriodEnd (es : List Nat)
  /-- GET_IDENTITY_READ (R349). Returns the unit ID, a fresh mailbox nonce and the certificate. -/
  | getIdentityRead (m : Nat)
  /-- GENERATE (R342). Creates and stores the identity key pair in TEST. -/
  | generate (m : Nat) (bad : Bool)
  /-- SET_CERT (R342). Stores a vendor-verified certificate for the identity key. -/
  | setCert (m : Nat) (bad : Bool)
  /-- INSTALL_MANIFEST (R357). Authenticates a manifest in pass 1 and installs it in pass 2. -/
  | installManifest (m : Nat)
  /-- INSTALL_DONE (R359). Pass 2 ends with the slot INSTALLED, or undone with FAULT. -/
  | installDone (bad : Nat) (bads : List Bool)
  /-- OPEN_BONDED (R362). Decrypts a BOND section into a session bound to a caravan. -/
  | openBonded (m : Nat)
  /-- CLOSE_BONDED (R363). Closes and zeroes the caravan's bonded session. -/
  | closeBonded (m : Nat)
  /-- ISSUE_SEAL (R365). Checks policy and starts a seal by computing the ledger digest. -/
  | issueSeal (m : Nat)
  /-- SEAL_WRITE (R368). After the digest the seal is signed, verified, logged and written, and counts advance. -/
  | sealWrite (bad : Bool) (bads : List Bool)
  /-- LC_REQUEST (R381). A signed life-cycle transition is journaled, wiped if needed and programmed. -/
  | lcRequest (m : Nat) (fail : Nat) (k : Nat) (spoil : Bool)
  /-- ROLL_FORWARD (R385). Completes a journaled transition left open by a power loss. -/
  | rollForward (m : Nat) (fail : Nat) (k : Nat) (spoil : Bool)
  /-- NONCE (R350). Returns the unit ID and a fresh mailbox nonce, also in LOCKED. -/
  | nonce (m : Nat)
  /-- DEBUG_AUTH (R387). An accepted token ORs its permissions into DBG.AUTH. -/
  | debugAuth (m : Nat)
  /-- ADD_OWNER (R369). A vendor-signed request adds an owner key. -/
  | addOwner (m : Nat) (bad : Bool)
  /-- REMOVE_OWNER (R369). A vendor-signed request removes an owner key. -/
  | removeOwner (m : Nat) (bad : Bool)
  /-- ADD_FLEET (R369). An owner with FLEET adds a wrapped fleet key. -/
  | addFleet (m : Nat) (bad : Bool)
  /-- REMOVE_FLEET (R369). An owner with FLEET removes a fleet key. -/
  | removeFleet (m : Nat) (bad : Bool)
  /-- KAT_STATUS (R344). Returns the self-test results. -/
  | katStatus (m : Nat)
  /-- KAT_RERUN (R344). Repeats the pre-operational self-tests. -/
  | katRerun (m : Nat) (pass : Nat)
  /-- ZEROISE (R370). Erases a slot's content and sets it EMPTY. -/
  | zeroise (m : Nat × Bool)
  /-- ZEROISE_ALL (R370). Zeroises every slot, the owner and fleet tables, and reseeds the DRBG. -/
  | zeroiseAll (m : Nat × Bool)
  /-- SELF_TEST_COMPLETE (R344). Objor's pre-operational tests end with READY or ERROR. -/
  | selfTestComplete (pass : Nat) (bad : Bool × Bool)
  /-- SELF_TEST_FAILURE (R345). A conditional test fails and Objor enters its error state. -/
  | selfTestFailure
  /-- FREEZE_PIN (R391). A falling edge on FREEZE_N triggers freeze. -/
  | freezePin
  /-- FREEZE_REGISTER (R391). A write of FRZ_CTRL.FREEZE triggers freeze. -/
  | freezeRegister
  /-- FREEZE_ENTERED (R392). The last frozen domain stops and FROZEN sets. -/
  | freezeEntered (fio : Nat)
  /-- THAW (R396). Ends freeze: DDR5 leaves self-refresh and frozen domains restart. -/
  | thaw
  /-- READOUT (R395). A BAR4 aperture read returns frozen state or zero. -/
  | readout (off : Nat) (n : Nat)
  /-- DBGACC (R395). The TAP DBGACC instruction reads the debug space. -/
  | dbgacc (a : Nat × Nat) (read : Bool)
  /-- SCAN (R390). The TAP SCAN instruction is granted or refused. -/
  | scan
  /-- TAP_RESET (R503). TRST_N or five TMS-high cycles reset the TAP controller. -/
  | tapReset
  /-- SET_LEVEL (R403). Starts a performance level change in the safe order of frequency and voltage. -/
  | setLevel (level : Nat)
  /-- LEVEL_PLL_LOCK (R403). The chip PLL is stable at the new level and the domains return to it. -/
  | levelPllLock
  /-- LEVEL_TIMEOUT (R405). The chip PLL does not lock within 200 µs and SET_LEVEL completes with TIMEOUT. -/
  | levelTimeout
  /-- PMBUS_DONE (R404). The VCORE change over PMBus completes or fails. -/
  | pmbusDone (ok : Bool)
  /-- POWER_OFF (R418). Starts powering down a block or region domain. -/
  | powerOff (d : Nat)
  /-- POWER_ON (R418). Starts powering up and restoring a domain. -/
  | powerOn (d : Nat)
  /-- POWER_ON_DONE (R418). The domain is restored and POWER_ON completes. -/
  | powerOnDone
  /-- SLEEP_CANCEL (R407). REQ = 0 cancels a pending sleep request. -/
  | sleepCancel
  /-- SLEEP_IDLE (R406). A request for IDLE gates steward and Trunk clocks after the refusers pass. -/
  | sleepIdle
  /-- SLEEP_DOZE (R410). A request for DOZE is latched and its entry begins. -/
  | sleepDoze
  /-- SLEEP_DORMANT (R410). A request for DORMANT is latched and its entry begins. -/
  | sleepDormant
  /-- AUTO_SLEEP (R407). The chip idle timer expires and requests AUTO.STATE. -/
  | autoSleep
  /-- QUIESCE_DONE (R410). Berths are revoked and drained; abort point A1 is judged. -/
  | quiesceDone
  /-- CLOCKS_STOPPED (R410). The domains' clocks stop; abort point A2 is judged. -/
  | clocksStopped
  /-- SAVE_DONE (R410). Registers are saved into Oasis RAM; abort point A3 is judged. -/
  | saveDone
  /-- ISOLATE (R410). Lanes go safe, sessions close, and the domains isolate and lose power. -/
  | isolate
  /-- WAKE (R413). An enabled wake source fires and is recorded in LAST_WAKE. -/
  | wake (fired : List (Nat × Nat)) (t : Nat)
  /-- OTIMER_EXPIRY (R413). OTIME reaches OTIMER.CMP, firing the timer wake source. -/
  | otimerExpiry
  /-- WAKE_RESTORE (R415). A native wake powers and restores the domains and sets WOKE. -/
  | wakeRestore
  /-- IDLE_EXIT (R413). An event or Trunk request ends IDLE and counts IDLE_EXITS. -/
  | idleExit
  /-- LEGACY_WAKE_REQUEST (R416). A request to an off domain in compatibility mode powers it up. -/
  | legacyWakeRequest (d : Nat)
  /-- BLOCK_AUTO_OFF (R419). A block idle for BLK_AUTO.US is powered off as POWER_OFF. -/
  | blockAutoOff (b : Nat)
  /-- SOURCE_INPUT (R426). An event source changes level or pulses and becomes pending by its sense. -/
  | sourceInput (n : Nat) (merge : Bool)
  /-- SET_PEND (R426). A write to SET_PEND fires a source. -/
  | setPend (n : Nat)
  /-- CLR_PEND (R426). A write to CLR_PEND clears a source's pending state. -/
  | clrPend (n : Nat)
  /-- DOORBELL (R424). A write to EVC.DOORBELL pulses doorbell sources. -/
  | doorbell (v : Nat)
  /-- SRC_CONFIG_WRITE (R438). A write to SRCn_CFG or SRCn_VEC reconfigures a source at the next arbitration. -/
  | srcConfigWrite (n : Nat) (vec : Bool) (mask : Nat) (v : Nat)
  /-- DELIVERY (R429). The controller chooses a candidate steward for the highest pending source. -/
  | delivery (mie : Nat)
  /-- ACKNOWLEDGE (R431). The steward acknowledges and enters the normal or fast handler. -/
  | acknowledge (w : Nat) (pc : Nat) (acts : Bool × List StwAct) (machine : Bool)
  /-- RECALL (R430). An unacknowledged choice is recalled and arbitrated again. -/
  | recall (w : Nat)
  /-- HOLDOFF_EXPIRY (R434). A source's holdoff time ends and it may be delivered again. -/
  | holdoffExpiry (n : Nat) (host : Bool)
  /-- EOI (R427). A steward completes a source through STWs_EOI, or the completion is stray. -/
  | eoi (m : Nat) (w : Nat) (n : Nat)
  /-- HOST_EOI (R437). The host clears a source's host-pending bit. -/
  | hostEoi (n : Nat)
  /-- MSIX_SEND (R451). A host-pending source sends its MSI-X message, or sets its PBA bit while blocked. -/
  | msixSend (n : Nat)
  /-- MRET (R431). Return from a fast or normal handler restores level, privilege and bank. -/
  | mret (w : Nat) (pc : Nat)
  /-- WFI (R423). A steward waits for an event, idle or asleep when DEEP is set. -/
  | wfi (w : Nat) (pc : Nat) (acts : Bool × List StwAct)
  /-- STEWARD_EXCEPTION (R432). A synchronous exception enters mtvec, or at level 3 raises a steward fault. -/
  | stewardException (w : Nat) (pc : Nat) (cause : Nat) (tval : Nat) (acts : List StwAct)
  /-- HOST_READ (R445). A host read TLP is split into accesses and completes whole or with Completer Abort. -/
  | hostRead (bar : Nat) (off : Nat) (n : Nat) (up : Nat) (dev : Nat) (lat : Nat)
  /-- HOST_WRITE (R444). A host write TLP is split into ordered accesses. -/
  | hostWrite (bar : Nat) (off : Nat) (data : List Nat) (poisoned : Bool) (up : Nat) (dev : Nat) (lat : Nat)
  /-- PERST_ASSERT (R446). PERST# resets the PCIe core, PCI and DMA registers and the MSI-X table. -/
  | perstAssert (parts : List (Nat × Nat × List Nat × List Nat))
  /-- PERST_DEASSERT (R512). PERST# release starts link training and configuration service. -/
  | perstDeassert
  /-- D3HOT (R446). Entry to D3hot stops BAR decoding and ends running DMA channels. -/
  | d3hot (parts : List (Nat × Nat × List Nat × List Nat))
  /-- LINK_DOWN (R446). The PCIe link goes down, LINK_EVT sets and DMA channels end. -/
  | linkDown (parts : List (Nat × Nat × List Nat × List Nat))
  /-- DMA_START (R449). A host DMA channel starts at CHk_DESC. -/
  | dmaStart (k : Nat)
  /-- DMA_STOP (R449). A running channel stops between network requests. -/
  | dmaStop (k : Nat) (n : Nat) (desc : List Nat) (data : List Nat)
  /-- DESCRIPTOR_DONE (R450). A descriptor completes, writes DONE and continues or ends the run. -/
  | descriptorDone (k : Nat) (desc : List Nat) (data : List Nat) (ok : Bool) (up : Nat) (dev : Nat) (lat : Nat)
  /-- CONVOY_FRAME (R454). A complete command frame arrives, is forwarded with HOP + 1 and is scheduled to act. -/
  | convoyFrame (cmd : Nat) (hop : Nat) (crc : Nat) (behind : Bool)
  /-- CONVOY_START (R119). At its acting instant a Convoy START starts every ARMED caravan. -/
  | convoyStart
  /-- CONVOY_STOP (R120). At its acting instant a Convoy STOP stops Convoy-started and ARMED caravans. -/
  | convoyStop
  /-- CONVOY_ALIGN (R456). An ALIGN frame sets the device's position and ALIGNED. -/
  | convoyAlign (hop : Nat)
  /-- CONVOY_SYNC (R121). At its acting instant a Convoy SYNC releases waiting groups, or counts as stray. -/
  | convoySync
  /-- CONVOY_FREEZE (R391). At its acting instant a Convoy FREEZE triggers freeze. -/
  | convoyFreeze
  /-- TX_START (R454). The head originates a START frame. -/
  | txStart
  /-- TX_STOP (R454). The head originates a STOP frame. -/
  | txStop
  /-- TX_ALIGN (R454). The head originates an ALIGN frame. -/
  | txAlign
  /-- TX_SYNC (R459). The head originates a SYNC frame. -/
  | txSync
  /-- TX_FREEZE (R454). The head originates a FREEZE frame. -/
  | txFreeze
  /-- TX_WAKE (R460). The head sends the Convoy wake pattern. -/
  | txWake
  /-- AUTO_SYNC (R459). A head device sends SYNC by itself once the flag and guard time allow. -/
  | autoSync
  /-- CONVOY_WAKE_PATTERN (R460). The wake pattern arrives on CVY_IN and wakes a sleeping device. -/
  | convoyWakePattern (t : Nat)
  /-- SYMBOL_LOCK_LOSS (R461). Loss of symbol lock clears RX_LOCK and ALIGNED and discards a partial frame. -/
  | symbolLockLoss
  /-- CVY_CFG_WRITE (R458). A write to CVY.CFG takes effect for later frames, or is ignored while a group waits. -/
  | cvyCfgWrite (mask : Nat) (v : Nat)
  /-- FUNC_WRITE (R468). A change of a pin's FUNC or SEL starts a 2-cycle hold. -/
  | funcWrite (n : Nat) (mask : Nat) (v : Nat)
  /-- FUNC_HOLD_END (R468). The hold ends and the new function drives the pin. -/
  | funcHoldEnd (n : Nat)
  /-- OUT_SET (R469). Sets output bits of a bank written with 1. -/
  | outSet (k : Nat) (v : Nat)
  /-- OUT_CLR (R469). Clears output bits of a bank written with 1. -/
  | outClr (k : Nat) (v : Nat)
  /-- PATTERN_MATCH (R470). A debounced pattern condition changes and updates the unit's output or HIT. -/
  | patternMatch (k : Nat) (c : Bool)
  /-- SOT (R472). A debounced SOT_N fall sets SOT and cuts a running end sequence. -/
  | sot
  /-- EOT (R472). A steward starts the end-of-test sequence by driving BIN. -/
  | eot
  /-- BIN_SETUP_END (R472). SETUP_US passes, or RDY_N arrives, and BINSTB_N goes low. -/
  | binSetupEnd
  /-- STROBE_END (R472). PULSE_US passes and EOT_N is driven low. -/
  | strobeEnd
  /-- RDY_TIMEOUT (R472). 100 ms without RDY_N ends the sequence without strobe. -/
  | rdyTimeout
  /-- PMB_ALERT (R473). ALERT_N low sets PMB_ALERT. -/
  | pmbAlert
  /-- SERIAL_GO (R474). A GO starts an I2C or SPI transfer. -/
  | serialGo (i : Nat) (len : Nat)
  /-- TRANSFER_END (R474). A serial transfer ends, or a clock stretch times out. -/
  | transferEnd (i : Nat) (sent : Nat) (got : List Nat) (err : Bool)
  /-- UART_RX (R474). A UART receives a byte or detects an error. -/
  | uartRx (i : Nat) (v : Nat) (err : Bool)
  /-- TIMER_PERIOD_END (R475). A PWM count reaches PERIOD and restarts with new settings. -/
  | timerPeriodEnd (k : Nat)
  /-- CAPTURE (R475). A rising input edge captures the count as CAP and restarts it. -/
  | capture (k : Nat) (n : Nat)
  /-- CHECK_POINT (R480). A caravan's check point compares SC and C with the block shadow and the lead. -/
  | checkPoint (l : Nat) (shadow : List (Nat × Nat))
  /-- SHADOW_MISMATCH (R482). A control copy fails parity and is rewritten, or the copies differ and raise SHADOW. -/
  | shadowMismatch (u : Nat) (parity : Bool)
  /-- FIO_WINDOW (R483). A 1 µs FIO window ends and a count out of range raises fault FIO. -/
  | fioWindow (n : Nat)
  /-- SUPPLY_EXCURSION (R483). A rail out of range for 500 ns raises fault SUPPLY, or is recorded in sleep. -/
  | supplyExcursion (rail : Nat)
  /-- TEMP_SAMPLE (R483). Every 10 µs the sensors are sampled, raising TEMP or SENSOR. -/
  | tempSample (temps : List Int)
  /-- LOCKSTEP_MISMATCH (R422). Steward or Objor cores diverge and both stop with a fault. -/
  | lockstepMismatch (u : Nat) (present : Bool)
  /-- FAULT_REPORT (R484). The fault hub logs a report and sends containment to its scope. -/
  | faultReport (t : Nat × List (Nat × Nat))
  /-- CONTAINMENT_HALT (R486). At the next stride boundary contained caravans halt and their runs are void. -/
  | containmentHalt (id : Nat)
  /-- CONTAINMENT_CONFIRM (R486). The scope confirms, FLT.STATUS.EVT sets and freeze may trigger. -/
  | containmentConfirm (id : Nat)
  /-- ESCALATION (R487). An unconfirmed scope is escalated to the next wider one. -/
  | escalation (id : Nat)
  /-- FAULT_INJECT (R500). FLT.INJECT raises a fault at its detector. -/
  | faultInject (code : Nat) (unit : Nat)
  /-- LOG_POP (R500). Removes the oldest fault log record. -/
  | logPop
  /-- STEWARD_RESTART (R490). FLT.STW.RESTART restarts a faulted steward at WAKE_VEC. -/
  | stewardRestart (v : Nat)
  /-- SLICE_GO (R494). BST.RUN.GO starts a self-test slice, or ends it NOT_RUN. -/
  | sliceGo (k : Nat) (target : Nat) (lane : Nat)
  /-- SLICE_STEP (R497). A slice step completes and its record enters the signature. -/
  | sliceStep (pass : Bool) (meas : Nat)
  /-- SLICE_COMPLETE (R497). A slice reaches its completion path and RESULT is set. -/
  | sliceComplete (t : Nat)
  /-- SLICE_OVERTIME (R495). A slice 50 µs old ends with OVERTIME and restores its resources. -/
  | sliceOvertime
  /-- SCHEDULER_OFFER (R498). Every GAP_US the scheduler offers the next enabled slice. -/
  | schedulerOffer
  /-- AGE_LATE (R498). LIMIT_S seconds without PASS sets BST.EVT.LATE. -/
  | ageLate (j : Nat) (t : Nat)
  /-- POWER_ON_RESET (R503). VAUX rising resets every domain including Oasis. -/
  | powerOnReset (gone : List Nat) (bad : List Nat) (res : PowerCut)
  /-- PWR_OK_RELEASE (R502). PWR_OK high and rails in range for 100 µs release the device from reset. -/
  | pwrOkRelease
  /-- PWR_OK_FALL (R502). PWR_OK falling returns the device to power-on reset. -/
  | pwrOkFall (gone : List Nat) (bad : List Nat) (res : PowerCut)
  /-- RESET_N (R503). RESET_N low for 1 µs starts a device reset. -/
  | resetN
  /-- CHIP_RESET (R515). Writing the key to CHIP.RESET schedules a device reset 1 µs later. -/
  | chipReset (key : Nat)
  /-- DEVICE_RESET (R506). A device reset resets chip, steward, region and block domains and keeps the link. -/
  | deviceReset (gone : List Nat) (bad : List Nat) (res : Nat × List (Nat × Nat))
  /-- SYMBOL_LOCK (R461). The Convoy receiver gains symbol lock on CVY_IN and RX_LOCK sets, so frames can be acted on again. -/
  | symbolLock
  /-- LINK_UP (R446). PCIe link training completes and the link enters L0, setting PCI.STATUS.LINK_UP. -/
  | linkUp (lstate : Nat) (speed : Nat) (width : Nat)
  /-- D3HOT_EXIT (R446). The host returns the function from D3hot to D0 and BAR decoding resumes. -/
  | d3hotExit
  /-- MSIX_UNMASK (R451). The end of a vector mask, function mask, MSI-X Enable or Bus Master Enable block sends the messages whose PBA bits are set. -/
  | msixUnmask (kind : Nat) (v : Nat)
  /-- DEBUG_HALT (R388). A steward's debug module halts the steward, which becomes held and is no candidate for events. -/
  | debugHalt (w : Nat) (pc : Nat × List StwAct)
  /-- DEBUG_RESUME (R388). A steward's debug module resumes or single-steps a halted steward, which stops being held. -/
  | debugResume (w : Nat) (pc : Nat × List StwAct) (detach : Bool)
  /-- POWER_LOSS (R503). VAUX and the other rails are removed, losing all volatile state, leaving torn erases, partly programmed code words, INSTALLING slots and skipped … -/
  | powerLoss (gone : List Nat) (bad : List Nat) (res : PowerCut)
  /-- UI_STALE (R215). Once no stride boundary has come for 1 µs of FIO time, TIM.UI reads 0. -/
  | uiStale (b : Nat)
  /-- RECOVERY_ERASE_DONE (R509). The re-erase of the inactive journal half during recovery ends and the waiting Store reads are served. -/
  | recoveryEraseDone (es : List Nat)
  deriving DecidableEq, Repr

end Sys2Proof
end

