-- ==== Sys2Proof/Config.lean ====
section
/-! DEFINITION. What one unit fixes and the spec leaves open: free values (no body, nothing can evaluate them) and the
cryptographic and coding functions whose tables the spec does not print. -/

namespace Sys2Proof.Config

/-- The free values: `freeValue n` is the n-th value that the spec leaves open in a run (log 1). -/
opaque freeValue : Nat → Nat

/-- R465: the supply that a GPIO bank senses: 0 absent, 1 for 1.8 V, 2 for 3.3 V (modulo 3; the board fixes it). -/
opaque bankSupply : Nat → Nat
/-- R483: the sensor that neighbours a temperature sensor (the floor plan is not given). -/
opaque neighbour : Nat → Nat

/-- DBG.TQ_PTR.COUNT: the number of transit queues (the spec gives none). -/
opaque transitQueues : Nat
/-- R399: the source and destination domains of a transit queue (the spec gives no list). -/
opaque transitEnds : Nat → Nat
/-- R392: the captured write and read pointers of a transit queue: capture, queue. -/
opaque transitPointers : Nat → Nat → Nat
/-- R392, R399, R389: the 64 bits that DBG.TQ_DATAk shows: capture, queue, k. Hidden data shows as zero in it. -/
opaque transitData : Nat → Nat → Nat → Nat
/-- R390: what a scan leaves in the registers: addresses and values. -/
opaque scanned : Nat → List (Nat × Nat)

/-- Check bits of a 72-bit on-chip word (the SECDED code is not given; R285). -/
opaque checkBits : Nat → Nat
/-- What an on-chip word with the given stored check bits is: 0 good, 1 correctable, otherwise uncorrectable. -/
opaque checkClass : Nat → Nat → Nat
/-- The corrected word of an on-chip word that is correctable with the given stored check bits. -/
opaque checkFix : Nat → Nat → Nat
/-- R285: the 80 physical bits that an error leaves at a word address: address, error class (1 or 2), the word's own 80 bits. -/
opaque upsetBits : Nat → Nat → Nat → Nat
/-- R321: the 32 check bits of a Store code word of four words (the BCH generator is not given). -/
opaque bchCheck : List Nat → Nat
/-- R321: the 32 check bits of an erased code word. -/
opaque bchErased : Nat
/-- R321: bits in error of a code word with the given check bits: 0 to 3 are corrected, more are uncorrectable. -/
opaque bchErrors : List Nat → Nat → Nat
/-- R321: the corrected payload of a code word with the given check bits. -/
opaque bchCorrect : List Nat → Nat → List Nat
/-- What the block ADC's sum of corrected codes over `n` conversions is worth: 10 µV or 10 pA, by kind (0 voltage, 1
current) and current range (R157; the scale of the codes is not given). -/
opaque adcValue : Nat → Nat → Int → Int
/-- The initial values of the flip-flops of a frame, from its opaque payload (spec/10, Image container). -/
opaque flopInit : Nat → Nat
/-- R248: the primitive polynomial of GF(2^14) of the BCH syndrome mode, below x^14 (the spec gives none). -/
opaque bchField : Nat
/-- R247: the block of its region whose tiles drive a fabric master (initiators 45 to 60): the image decides (log 118). -/
opaque masterBlock : Nat → Nat
/-- R297: the 8 check bits of the SECDED code over bits [74:0] of a narrow unit (the code is not given). -/
opaque linkCheck : Nat → Nat
/-- R297: the 10 check bits of code `j` of a wide unit (the code is not given). -/
opaque wideCheck : Nat → Nat → Nat
/-- The 32 bytes of SHA-256 of a byte string, the first byte lowest (R241). -/
opaque sha256Bits : List Nat → BitVec 256
/-- The same as a number. -/
def sha256 (l : List Nat) : Nat := (sha256Bits l).toNat
/-- The 48 bytes of SHA-384 of a byte string, the first byte lowest. -/
opaque sha384Bits : List Nat → BitVec 384
/-- The same as a number. -/
def sha384 (l : List Nat) : Nat := (sha384Bits l).toNat
/-- AES-256-GCM decryption: key, IV, additional data, ciphertext bytes; plaintext bytes and tag. -/
opaque gcmOpen : Nat → Nat → List Nat → List Nat → List Nat × Nat
/-- ECDSA P-384 verification with SHA-384: public key and signature as numbers (first byte lowest), message bytes. -/
opaque ecdsaVerify : Nat → List Nat → Nat → Bool
/-- ML-DSA-65 verification: public key bytes, message bytes, signature bytes. -/
opaque mldsaVerify : List Nat → List Nat → List Nat → Bool
/-- A P-384 signature under a private key: 96 bytes as a number. -/
opaque ecdsaSign : Nat → List Nat → Nat
/-- The 97-byte public key of a private key. -/
opaque publicKey : Nat → Nat
/-- ECDH P-384: private key, public key. -/
opaque ecdh : Nat → Nat → Nat
/-- KDF in counter mode (SP 800-108): key, label, context; the first output byte is the lowest. -/
opaque kdf : Nat → List Nat → List Nat → Nat
/-- AES-256 key unwrap (SP 800-38F): key-encryption key, wrapped bytes; none when the integrity check fails. -/
opaque kwUnwrap : Nat → List Nat → Option Nat
/-- Objor's random bit generator: how often it has been seeded, how many outputs it has given since. -/
opaque drbg : Nat → Nat → Nat
/-- The vendor root public key in Objor's ROM. -/
opaque romKey : Nat
/-- The certificate's signature verifies under the ROM root key and its subject key is the given public key (R342). -/
opaque certValid : List Nat → Nat → Bool

end Sys2Proof.Config
end

