-- ==== Sys2Proof/Machine/Bits.lean ====
section
/-! DEFINITION. Bit fields of a word, saturating counters, byte order, and the operations of the sparse tables. -/

namespace Sys2Proof.Machine

/-- Bits [lsb+w-1 : lsb] of `v`. -/
def bits (v lsb w : Nat) : Nat := v / 2 ^ lsb % 2 ^ w

/-- Bit `i` of `v`. -/
def bitOf (v i : Nat) : Bool := v / 2 ^ i % 2 == 1

/-- A Boolean as the bit it stands for. -/
def b2n (b : Bool) : Nat := if b then 1 else 0

/-- `v` with bit `i` set. -/
def setBit (v i : Nat) : Nat := if bitOf v i then v else v + 2 ^ i

/-- `v` with bit `i` cleared. -/
def clearBit (v i : Nat) : Nat := if bitOf v i then v - 2 ^ i else v

/-- `v` with bit `i` made `b`. -/
def putBit (v i : Nat) (b : Bool) : Nat := if b then setBit v i else clearBit v i

/-- The positions below `n` that are 1 in `v`, lowest first. -/
def onesBelow (v n : Nat) : List Nat := (List.range n).filter (bitOf v)

/-- How many bits of `v` below `n` are 1. -/
def popCount (v n : Nat) : Nat := (onesBelow v n).length

/-- `v` with its `w` bits from `lsb` up replaced by `n`. -/
def setField (v lsb w n : Nat) : Nat := v - bits v lsb w * 2 ^ lsb + n % 2 ^ w * 2 ^ lsb

/-- A counter of `w` bits that saturates, after `n` more counts. -/
def satAdd (w v n : Nat) : Nat := min (v + n) (2 ^ w - 1)

/-- The two's complement reading of a `w`-bit field. -/
def sext (v w : Nat) : Int := if bitOf v (w - 1) then (v : Int) - 2 ^ w else v

/-- The low `w` bits of an integer in two's complement. -/
def wrapInt (z : Int) (w : Nat) : Nat := (z % (2 ^ w : Nat)).toNat

/-- Bitwise complement in `w` bits. -/
def notW (v w : Nat) : Nat := 2 ^ w - 1 - v % 2 ^ w

/-- The number that a list of bytes spells, lowest byte first. -/
def ofBytes : List Nat → Nat
  | [] => 0
  | x :: t => x % 256 + 256 * ofBytes t

/-- The `n` low bytes of a number, lowest byte first. -/
def toBytes : Nat → Nat → List Nat
  | 0, _ => []
  | n + 1, v => v % 256 :: toBytes n (v / 256)

namespace Tab

/-- The value at key `k`; `d` where no entry has the key. -/
def get {α : Type} (d : α) : Tab α → Nat → α
  | [], _ => d
  | (a, v) :: t, k => if a = k then v else get d t k

/-- The table with key `k` removed. -/
def erase {α : Type} : Tab α → Nat → Tab α
  | [], _ => []
  | (a, v) :: t, k => if a = k then erase t k else (a, v) :: erase t k

/-- The table with `v` at key `k`, whatever `v` is. -/
def insert {α : Type} : Tab α → Nat → α → Tab α
  | [], k, v => [(k, v)]
  | (a, w) :: t, k, v => if a < k then (a, w) :: insert t k v else if a = k then (k, v) :: t else (k, v) :: (a, w) :: t

/-- The table with `v` at key `k`: an entry equal to what an absent key reads as is removed. -/
def set {α : Type} [DecidableEq α] (d : α) (t : Tab α) (k : Nat) (v : α) : Tab α :=
  if v = d then erase t k else insert t k v

/-- The canonical form: keys strictly rising from `lo`, no entry equal to `d`. -/
def wfFrom {α : Type} [DecidableEq α] (d : α) : Nat → Tab α → Bool
  | _, [] => true
  | lo, (a, v) :: t => decide (lo ≤ a) && decide (v ≠ d) && wfFrom d (a + 1) t

/-- The canonical form of a table. -/
def wf {α : Type} [DecidableEq α] (d : α) (t : Tab α) : Bool := wfFrom d 0 t

/-- The entries whose keys lie outside [lo, hi). -/
def drop {α : Type} (t : Tab α) (lo hi : Nat) : Tab α := t.filter fun e => decide (e.1 < lo) || decide (hi ≤ e.1)

end Tab

end Sys2Proof.Machine
end

