-- ==== Sys2Proof/Machine/Addr.lean ====
section
/-! DEFINITION. Where the units lie (R16, R271, R534, R535), and the reset values of registers that depend on their
index. -/

namespace Sys2Proof.Machine

/-- R535: the register window of cell `c`. -/
abbrev cellBase (c : Nat) : Nat := 0x2000000 + 0x10000 * c
/-- R535: the register window of block `b`. -/
abbrev blockBase (b : Nat) : Nat := 0x1000000 + 0x80000 * b
/-- R535: the register window of region `r`. -/
abbrev regionBase (r : Nat) : Nat := 0x3000000 + 0x100000 * r

/-- R16: the block of a cell. -/
abbrev blockOf (c : Nat) : Nat := c / 8
/-- R16: the region of a cell. -/
abbrev regionOf (c : Nat) : Nat := c / 64
/-- R16: the region of a block. -/
abbrev regionOfBlock (b : Nat) : Nat := b / 8

/-- R271: the scratchpad of cell `c`. -/
abbrev padBase (c : Nat) : Nat := 0x40000000 + 0x20000 * c
/-- R271: the depot of block `b`. -/
abbrev depotBase (b : Nat) : Nat := 0x44000000 + 0x100000 * b
/-- R271: the accounts. -/
abbrev accountsBase : Nat := 0x48000000
/-- R271: the Store's word view. -/
abbrev storeBase : Nat := 0x10000000
/-- R271: the Store's code view. -/
abbrev codeBase : Nat := 0x18000000
/-- R271: steward memory. -/
abbrev stewardBase : Nat := 0x20000000
/-- R271: Oasis RAM. -/
abbrev oasisBase : Nat := 0x21000000
/-- R271, R287: DDR5 channel `r`. -/
abbrev ddrBase (r : Nat) : Nat := 0x1000000000 + 0x4000000000 * r

/-- R275: region 0 of the stewards and of Objor is enabled at reset. -/
def mprReset (m n : Nat) : Nat := if n = 0 ∧ (m < 4 ∨ m = 61) then 1 else 0

/-- R308: the reset weight of port `p` of a region Waystation. -/
def regionPortWeight (p : Nat) : Nat := if p = 8 then 53 else if p = 9 then 4 else 1

/-- R308: the reset weight of port `p` of the Trunk. -/
def trunkPortWeight (p : Nat) : Nat := if p < 4 then 13 else if p = 4 then 4 else if p = 5 then 9 else 1

/-- R303: the places of one instance of berth class `k`. -/
def classSlots (k : Nat) : Nat :=
  ([16, 8, 16, 8, 512, 512, 512, 512, 32, 16, 256, 32, 64, 16, 32] : List Nat).getD k 0

/-- R304: the grants at reset of the chip domain. -/
def grantReset (i k : Nat) : Nat :=
  if k = 10 then (if 64 ≤ i ∧ i < 68 then 64 else 0) else if i < 5 ∨ i = 61 then 1 else 0

/-- R402: the reset VOUT code of performance level `k`. -/
def levelVout (k : Nat) : Nat := ([0x0D9A, 0x0CCD, 0x0C00, 0x0A66] : List Nat).getD k 0

/-- R438: the sources that are fast at reset. -/
def fastReset (n : Nat) : Nat :=
  if (1024 ≤ n ∧ n < 1152 ∧ n % 4 = 0) ∨ n = 1168 ∨ n = 1174 then 1 else 0

end Sys2Proof.Machine
end

