-- ==== Sys2Proof/Machine/State.lean ====
section
/-! DEFINITION. The state of the package as plain data, the reasons a step can stop, and the state after reset.

Registers live in one sparse store: a field `Fld` is a place (device address and lowest bit), a width and a reset
value, and the store holds, for each field that differs from its reset value, the difference (exclusive or). The files
`RegsCell`, `RegsBlock`, `RegsRegion` and `RegsChip` name every field of the spec's register tables. What the spec
gives the machine behind its registers (queues, counters, phases of running operations, the contents of arrays) is
held in the records below, one sparse table per kind of unit. -/

namespace Sys2Proof.Machine

/-- A register field: device byte address of its register, lowest bit, width, reset value. -/
structure Fld where
  addr : Nat
  lsb : Nat
  width : Nat
  reset : Nat
  deriving DecidableEq, Repr

/-- R9: the types of register fields. -/
inductive FTy where
  | ro | rw | w1c | w1s | wo | rc | rwl
  deriving DecidableEq, Repr

/-- A field as a register table gives it: its type, whether it is marked (H) (R102), whether only Objor writes it. -/
structure FInfo where
  fld : Fld
  ty : FTy
  h : Bool
  objorOnly : Bool
  deriving DecidableEq, Repr

/-- A register heading: offset, the two index dimensions (count and stride, the larger stride first), its fields. -/
structure RegDesc where
  off : Nat
  n0 : Nat
  st0 : Nat
  n1 : Nat
  st1 : Nat
  fields : Nat → Nat → List FInfo

/-- R40: the privilege of a fetched word. -/
inductive Priv where
  | opn | service | xo | xoSys
  deriving DecidableEq, Repr

/-- A word in the pipeline of a cell (R75): it has no effect until its EXECUTE stride. -/
structure Fetched where
  word : Nat
  addr : Nat
  ring : Bool
  priv : Priv
  mslot : Nat
  deriving DecidableEq, Repr

/-- R219: a fail record. -/
structure FailRec where
  sc : Nat
  site : Nat
  cell : Nat
  voidf : Bool
  bfail : Bool
  rv : Bool
  av : Bool
  spill : Bool
  fbits : Nat
  tag : Nat
  acct : Nat
  x : Nat
  y : Nat
  z : Nat
  member : Nat
  epoch : Nat
  deriving DecidableEq, Repr

/-- R222: a marker: the drains (`Drain.id`) that it answers. -/
structure Marker where
  ids : List Nat
  deriving DecidableEq, Repr

/-- An item of the cell fail queue and of the block merger. -/
inductive QItem where
  | record (r : FailRec)
  | mark (cell : Nat) (m : Marker)
  deriving DecidableEq, Repr

/-- R66: a slot copy that waits for its stride. -/
structure SlotLoad where
  due : Nat
  slot : Nat
  w0 : Nat
  w1 : Nat
  deriving DecidableEq, Repr

/-- R54: a change of a fabric condition that synchronisers may not have carried yet: decisions before stride `from_` see
the old value, from stride `till` on the new one, between them either. -/
structure FabChange where
  k : Nat
  old : Bool
  from_ : Nat
  till : Nat
  deriving DecidableEq, Repr

/-- R251: a compare tap entry. -/
structure TapE where
  fbits : Nat
  sc : Nat
  fc : Bool
  tmpl : Bool
  lost : Bool
  deriving DecidableEq, Repr

/-- R209: an edge placed on a lane: its time from the start of the next stride in the stride's time unit
(`State.unitDen`), and what the driver does at it: 0, 1, or 3 for off. -/
structure Edge where
  lane : Nat
  time : Int
  drv : Nat
  deriving DecidableEq, Repr

/-- R209: an edge that a stride has commanded on a lane: its time and its UI, from the start of the next stride, its
kind (0 DZ, 1 D0, 2 D1) and what the driver does at it: 0, 1, or 3 for off. -/
structure Planned where
  lane : Nat
  time : Int
  ui : Int
  kind : Nat
  drv : Nat
  deriving DecidableEq, Repr

/-- R97: a pending SEQ command: OP, DESC and CONVOY, and whether a steward gave it (R361). -/
structure SeqPend where
  op : Nat
  desc : Nat
  convoy : Bool
  touch : Bool
  deriving DecidableEq, Repr

/-- What a cell holds behind its registers. -/
structure CellX where
  /-- The word fetched for the next stride. -/
  word : Option Fetched
  /-- FAIL (R44). -/
  fail : Bool
  /-- R67: the event code queue, oldest first. -/
  evq : List Nat
  /-- The cell fail queue (R220, R222), oldest first. -/
  failQ : List QItem
  /-- R221: items at the front of the queue that may leave it. -/
  released : Nat
  /-- R66: pending slot copies. -/
  loads : List SlotLoad
  /-- R42: the retained drive state, two bits a lane; 3 is drive off. -/
  drive : Nat
  /-- What each lane's driver drives, two bits a lane: 0, 1, or 3 for off. -/
  level : Nat
  /-- R209: the edges placed in the course of the last stride. -/
  edges : List Edge
  /-- R209: the time of the last edge on each lane, from the start of the next stride; none when it is long past. -/
  lastEdge : List (Option Int)
  /-- R209, R210: the edges commanded and not yet placed, those of one lane in order. -/
  plan : List Planned
  /-- R206: the lane modes of the last stride. -/
  modes : Nat
  /-- R49, R250: the lane-source queue, oldest first. -/
  laneQ : List Nat
  /-- R251: the tap queue, oldest first. -/
  tapQ : List TapE
  /-- A tap has been dropped since the last entry was queued (R251). -/
  tapLost : Bool
  /-- FAB0 to FAB3 as the tile drives them. -/
  fab : Nat
  /-- R54: changes of FAB0 to FAB3 that may not have crossed yet. -/
  fabOld : List FabChange
  /-- User event outputs of the tile, bit k (R424). -/
  userEvt : Nat
  /-- R162: lanes in safe-state entry, bit per lane. -/
  entering : Nat
  /-- R70, R71: lanes and next bit of the bonded run. -/
  bondLanes : Nat
  bondOff : Nat
  /-- R480: the check value C. -/
  chk : Nat
  /-- R97: the SEQ command that waits for the clock. -/
  seqCmd : Option SeqPend
  /-- R82: words the DMA has read of each descriptor, and words the sequencer has consumed of it. -/
  sdRead : List Nat
  sdUsed : List Nat
  /-- R82: descriptors that have been active since they were last armed, bit n. -/
  sdSpent : Nat
  /-- R83: the descriptors of the words in the ring, head first, with their counts. -/
  ringDesc : List (Nat × Nat)
  /-- R96: the fail threshold has pulsed in this run. -/
  threshHit : Bool
  /-- R81, R360: the XO windows' manifests are in CEL.XOWn; suspicion latch S of R189 (the SC it latched). -/
  suspectSC : Option Nat
  deriving DecidableEq, Repr

/-- A cell after reset of its domain. -/
def CellX.reset : CellX :=
  { word := none, fail := false, evq := [], failQ := [], released := 0, loads := [], drive := 0xFF, level := 0xFF, edges := [],
    lastEdge := [], plan := [], modes := 0,
    laneQ := [], tapQ := [], tapLost := false, fab := 0, fabOld := [], userEvt := 0, entering := 0, bondLanes := 0,
    bondOff := 0, chk := 0xFFFF, seqCmd := none, sdRead := [], sdUsed := [], sdSpent := 0, ringDesc := [],
    threshHit := false, suspectSC := none }

/-- Where a caravan stands in a composite word. -/
inductive Phase where
  | ready
  /-- R60: `issued` templates of `count`; `pass` is the index of the first that passed, 0 while none has. -/
  | matching (count issued : Nat) (any : Bool) (pass : Nat)
  /-- R60: COUNT templates have been issued and the drain of Lc hold strides follows. -/
  | draining (any : Bool) (pass : Nat)
  /-- R62: hold strides left of a WAIT TIME. -/
  | waitTime (left : Nat)
  /-- R63: hold strides left of a conditional WAIT, and its COND. -/
  | waitCond (left cond : Nat)
  /-- R64: at the barrier of a group. -/
  | atSync (group : Nat) (convoy switch swap arrived : Bool)
  /-- R115, R261: released from a SYNC: the hold strides left until the word at `next` executes, and whether it waits for
  the swapped tiles too. -/
  | released (next left : Nat) (swap : Bool)
  deriving DecidableEq, Repr

/-- One member's part of a stride whose comparators have not resolved yet. -/
structure CellStride where
  cell : Nat
  nui : Nat
  fc : Bool
  /-- Expect codes, two bits for lane L, UI u at 16L + 2u; mask where nothing is compared. -/
  expect : Nat
  /-- R208: UIs judged over a window, bit 8L + u; the others are judged at C0. -/
  windows : Nat
  /-- R210: the strides, four bits for lane L, UI u at 4(8L + u), from the start of this one until the last compare edge of
  that UI has passed; 0 once the clock has run on for all of them. -/
  due : Nat
  /-- R71: lanes that carry bonded data. -/
  bonded : Nat
  x : Nat
  y : Nat
  z : Nat
  deriving DecidableEq, Repr

/-- A vector stride on the pins. -/
structure Stride where
  sn : Nat
  sc : Nat
  tmpl : Nat
  isBond : Bool
  tag : Nat
  acct : Nat
  av : Bool
  cells : List CellStride
  deriving DecidableEq, Repr

/-- R51, R52: what the caravan's aggregates were after a resolved vector stride other than a template. -/
structure Outcome where
  sn : Nat
  failAny : Bool
  failAll : Bool
  matchAny : Bool
  matchAll : Bool
  fails : Bool
  bfails : Bool
  deriving DecidableEq, Repr

/-- What the lead of a caravan holds about its run. -/
structure Run where
  /-- Strides issued since START. -/
  sn : Nat
  phase : Phase
  /-- R52: newest first. -/
  hist : List Outcome
  unresolved : List Stride
  /-- R53: steps of the APG whose END a JCC may not see yet, oldest first: the stride from which it does, and END as it
  stood before the step. -/
  ends : List (Nat × Bool)
  /-- R109: the site taken at the last START; none until one. -/
  site : Option Nat
  tag : Nat
  acct : Nat
  av : Bool
  /-- R84: the policy of the STREAM, its address, words not yet fetched are STREAM_LEFT. -/
  pause : Bool
  /-- R71: bonded strides left. -/
  bondLeft : Nat
  /-- R92: a bonded run was ended by a halt. -/
  bondBroken : Bool
  /-- R98: the run is a STEP; the next stepped word halts. -/
  stepping : Bool
  /-- R95: the first word after RESUME or STEP never triggers a breakpoint. -/
  skipBkpt : Bool
  /-- R120: the run began at a Convoy START. -/
  convoyRun : Bool
  /-- R119, R120: a Convoy START, or STOP, that waits for a stride boundary of a stopped clock. -/
  convoyGo : Bool
  convoyHalt : Bool
  /-- CVC FLAG outputs. -/
  flags : Nat
  /-- R85, R87: for each stride issued while streaming, newest first: some member was short; some member held less
  than the PAUSE policy asks. -/
  lvlHist : List (Bool × Bool)
  /-- The last stride was an underrun hold stride. -/
  inUnder : Bool
  /-- R222: LEDGER MARK (false) and ALLOC (true) words that wait for the strides before them to resolve. -/
  marks : List (Nat × Bool)
  /-- R364: provenance of the run: slot of its manifest (16: none), confined, intervened. -/
  provSlot : Nat
  confined : Bool
  intervened : Bool
  /-- R94: a CVC VOID has recorded its REASON in this run. -/
  cvcVoided : Bool
  /-- R86: an underrun under HOLD has voided this run. -/
  underVoided : Bool
  /-- R489: sealed since the last START. -/
  sealed : Bool
  deriving DecidableEq, Repr

/-- A lead before its first START. -/
def Run.reset : Run :=
  { sn := 0, phase := .ready, hist := [], unresolved := [], ends := [], site := none, tag := 0, acct := 0, av := false,
    pause := false, bondLeft := 0, bondBroken := false, stepping := false, skipBkpt := false, convoyRun := false, convoyGo := false, convoyHalt := false,
    flags := 0, lvlHist := [], inUnder := false, marks := [], provSlot := 16, confined := false, intervened := false,
    cvcVoided := false, underVoided := false, sealed := false }

/-- R156: a measurement request of a lane. -/
structure AdcReq where
  pin : Nat
  src : Nat
  navg : Nat
  elapsed : Bool
  /-- The ADC has taken the request. -/
  taken : Bool
  done : Nat
  sum : Int
  clamp : Bool
  saturated : Bool
  disturb : Bool
  /-- R364: a conversion was taken while the lane was bonded. -/
  bonded : Bool
  deriving DecidableEq, Repr

/-- R224, R227: a record on its way from the engine of `region` to its home, or to its account. `acct` says that the
caravan's settings let it update its account (R234, the first two conditions), `fresh` that the home answered NEW. -/
structure Upd where
  eid : Nat
  region : Nat
  r : FailRec
  acct : Bool
  fresh : Bool
  deriving DecidableEq, Repr

/-- R238: a drain in progress: cells whose marker has not reached the engine, whether it is an ALLOC, and the updates
that the engine took before the markers. -/
structure Drain where
  id : Nat
  lead : Nat
  waiting : List Nat
  alloc : Bool
  eids : List Nat
  deriving DecidableEq, Repr

/-- R237: an allocation pass. -/
structure AllocPass where
  lead : Nat
  next : Nat
  stop : Nat
  site : Nat
  rep : Nat
  unrep : Nat
  held : Bool
  deriving DecidableEq, Repr

/-- R229: a line of a home's ledger cache: the bucket's 8 words. -/
structure Line where
  words : List Nat
  dirty : Bool
  deriving DecidableEq, Repr

/-- A PLL configuration (R174). -/
structure PllCfg where
  mode : Nat
  ref : Nat
  rdiv : Nat
  n : Nat
  sdiv : Nat
  fdiv : Nat
  bw : Nat
  frac : Nat
  deriving DecidableEq, Repr

/-- Where a relock stands (R181): before the gate, acquiring, with the stability timer running. -/
inductive Relock where
  | none | toGate | acquiring | stable
  deriving DecidableEq, Repr

/-- R253, R254: what a plane holds beyond the fields that FAB.PLANEp and FAB.PIMGp show. A frame is its payload of
16 words (bit 1152 is RETAIN); an absent frame is blank. -/
structure Plane where
  fmax : Nat
  bootPll : Nat
  bpv : Bool
  frames : Tab Nat
  /-- A header left torn by a power loss during COMMIT (R267). -/
  torn : Bool
  /-- A frame fails its CRC twice whenever it is sensed (R266). -/
  worn : Bool
  deriving DecidableEq, Repr

/-- A blank plane. -/
def Plane.blank : Plane := { fmax := 0, bootPll := 0, bpv := false, frames := [], torn := false, worn := false }

/-- R258: a running plane write. -/
structure PwRun where
  src : Nat
  nframes : Nat
  done : Nat
  lastFa : Option Nat
  header : List Nat
  stored : List Nat
  frames : Tab Nat
  key : Nat
  deriving DecidableEq, Repr

/-- R261, R263: where a swap stands. -/
inductive SwapPhase where
  | none | scheduled | waiting | running
  deriving DecidableEq, Repr

/-- R248: a multiply-accumulate unit: its 64-bit accumulator, and OVF. -/
structure Mac where
  acc : Nat
  ovf : Bool
  deriving DecidableEq, Repr

/-- A unit after reset. -/
def Mac.reset : Mac := { acc := 0, ovf := false }

/-- What a block holds behind its registers. -/
structure BlockX where
  /-- R156: measurement requests in the order of their GO. -/
  adcQ : List AdcReq
  /-- R166: gain, offset and bandgap reference of the block's ADC, as loaded. -/
  adcG : Nat
  adcO : Nat
  bgref : Nat
  /-- The configuration of an accepted SET or RELOCK, while `relock` runs. -/
  pll : Option PllCfg
  relock : Relock
  /-- R184: N + FRAC / 2^24 of this block's oscillator as it stands, times 2^24, while a STEP ramps; else 0. -/
  rampMult : Nat
  /-- R189: a declared loss of lock whose gate has not come. -/
  lossPending : Bool
  /-- R189: suspicion present. -/
  suspicion : Bool
  /-- R110: the block's clock source changes at the next boundary. -/
  srcSwitch : Option Nat
  /-- R192: the block left a gang and has not locked its own PLL since. -/
  needSet : Bool
  /-- The latches hold a configuration. -/
  loaded : Bool
  planeA : Plane
  planeB : Plane
  /-- R263: flip-flops by frame; a blank frame has none. -/
  flops : Tab Nat
  pw : Option PwRun
  swap : SwapPhase
  /-- R261: leads released with SWAP = 1 that hold for the swap. -/
  swapLeads : List Nat
  /-- A frame waits for its reload (R265). -/
  reload : List Nat
  merger : List QItem
  mergerRR : Nat
  /-- R131: the leads of the holders whose depot-mode data is corrupt from the first stride that takes it, until their
  containment; and the depot words reported, each with its holder's lead. -/
  apgBad : List Nat
  apgSeen : List (Nat × Nat)
  /-- R269: plane that was active when the domain went down. -/
  lastActive : Nat
  /-- R248: the multiply-accumulate units, 0 to 3. -/
  macs : Tab Mac
  /-- R467: user I/O of the block's tiles: levels in bits 2 to 0, output enables in bits 5 to 3. -/
  userIo : Nat
  /-- R267: the last command to the planes was COMMIT: a loss of power may cut its header write (log 13). -/
  committing : Bool
  deriving DecidableEq, Repr

/-- A block after reset. -/
def BlockX.reset : BlockX :=
  { adcQ := [], adcG := 0, adcO := 0, bgref := 0, pll := none, relock := .none, rampMult := 0, lossPending := false,
    suspicion := false, srcSwitch := none,
    needSet := false, loaded := false, planeA := Plane.blank, planeB := Plane.blank, flops := [], pw := none, swap := .none,
    swapLeads := [], reload := [], merger := [], mergerRR := 0, apgBad := [], apgSeen := [],
    lastActive := 0, macs := [], userIo := 0, committing := false }

/-- R232: an epoch value that CLEAR moved past; per home: 0 the pass in progress began before, 1 began after, 2 done. -/
structure Retired where
  site : Nat
  epoch : Nat
  homes : List Nat
  deriving DecidableEq, Repr

/-- What a region holds behind its registers. -/
structure RegionX where
  /-- R114, R121: leads that arrived with CONVOY = 1, by group. -/
  cvArrived : List (Nat × Nat)
  /-- Numbers given to updates and drains. -/
  nextEid : Nat
  /-- R224, R228: the updates that this region's engine has issued to their homes and that are not answered yet. -/
  sent : List Upd
  /-- Account updates waiting in this region's engine (R235). -/
  acctQ : List Upd
  engineRR : Nat
  cache : Tab Line
  scrubPos : Nat
  drains : List Drain
  passes : List AllocPass
  /-- R244: the key of the lookup in progress. -/
  lookup : Option Nat
  /-- R241: the lead of the digest in progress. -/
  digest : Option Nat
  /-- R243: the cached buckets that the flush in progress still has to write back. -/
  flush : Option (List Nat)
  /-- R290: patrol position of the channel. -/
  patrol : Nat
  refreshes : Nat
  deriving DecidableEq, Repr

/-- A region after reset. -/
def RegionX.reset : RegionX :=
  { cvArrived := [], nextEid := 0, sent := [], acctQ := [], engineRR := 0, cache := [], scrubPos := 0, drains := [],
    passes := [], lookup := none, digest := none, flush := none, patrol := 0, refreshes := 0 }

/-- R301: kinds of network request. -/
inductive ReqKind where
  | rd | wr | rdp | wrp | lupd
  deriving DecidableEq, Repr

/-- R302: a request of an initiator. -/
structure Req where
  init : Nat
  tag : Nat
  /-- R298: SUBID; a stream DMA puts the cell's index in its block there (log 23). -/
  subid : Nat
  kind : ReqKind
  addr : Nat
  len : Nat
  bytes : Nat
  data : List Nat
  fetch : Bool
  /-- R298, R306: the tariff that the interface copied into the waybill. -/
  tariff : Nat := 1
  /-- R306: the arbitrated outputs that the packet has passed on its path. -/
  hop : Nat := 0
  deriving DecidableEq, Repr

/-- R306, R307: the round of an arbitrated output: the port whose offer is being used, the packets that it has passed, and
the weights as they stood when the round began. -/
structure Round where
  port : Nat
  used : Nat
  weights : List Nat
  deriving DecidableEq, Repr

/-- An output that has begun no round. -/
def Round.none : Round := ⟨0, 0, []⟩

/-- R306: the initiator whose turn it is among those that share an input port, and the packets that it has passed. -/
structure Turn where
  init : Nat
  used : Nat
  deriving DecidableEq, Repr

/-- A response on its way to its initiator: the request, the status code (R11), the data, the latency so far is the
arrival command's. -/
structure Rsp where
  req : Req
  status : Nat
  data : List Nat
  deriving DecidableEq, Repr

/-- What the network holds. -/
structure NetX where
  /-- Requests waiting at their interface (R302 check 4, R315 compatibility mode). -/
  waiting : List Req
  /-- Requests in flight to their targets, in issue order. -/
  flight : List Req
  /-- Responses on their way. -/
  rsps : List Rsp
  /-- R319: requests that timed out; their responses are discarded. -/
  dead : List Req
  /-- Requests held by RECFG.CLOSE (R310). -/
  held : List Req
  /-- R318: requests whose packet, or whose response, was lost to an uncorrectable waybill; they await their timeout. -/
  lost : List Req
  /-- R318, R319: those of them that have timed out; their berths stay held. -/
  gone : List Req
  /-- R263: requests of fabric masters that were outstanding when their tiles were swapped; their responses are discarded. -/
  orphans : List Req
  /-- R310: the entries that differed between RT_ACT and RT_STAGE at the last CLOSE, as a mask of 44 bits. -/
  affected : Nat
  /-- R306: the rounds of the arbitrated outputs (`outRegion`, `outTrunk`). -/
  rounds : Tab Round
  /-- R306: the turns at an output and one of its ports: key 16 times the output, plus the port. -/
  turns : Tab Turn
  deriving DecidableEq, Repr

/-- The network after reset. -/
def NetX.reset : NetX :=
  { waiting := [], flight := [], rsps := [], dead := [], held := [], lost := [], gone := [], orphans := [], affected := 0, rounds := [],
    turns := [] }

/-- R325 to R338: the operation that runs in the Store. `obj` says that it came through Objor's private port. -/
inductive StoreOp where
  | program (obj : Bool) (k : Nat) (words : List Nat)
  | erase (obj : Bool) (sector seq : Nat)
  /-- R335: the first or the second busy period of a rollover. -/
  | rollover (second : Bool)
  /-- R336 step 4: the inactive journal half is erased again. -/
  | recovery
  deriving DecidableEq, Repr

/-- What the Store holds beside its words (which stand in the memory at their word-view addresses). -/
structure StoreX where
  /-- Condition of each code word: 0 erased, 1 programmed, 2 uncorrectable. -/
  cw : Tab Nat
  /-- R338: check bits given by RAW_PROGRAM, plus 1; 0 where the Store computed them. -/
  chk : Tab Nat
  op : Option StoreOp
  /-- R332: view reads that wait, in order of arrival. -/
  waiting : List Req
  deriving DecidableEq, Repr

/-- An erased Store. -/
def StoreX.reset : StoreX := { cw := [], chk := [], op := none, waiting := [] }

/-- R168: a run of the calibration loader: the whole device, or one block. -/
inductive CalRun where
  | full
  | block (b : Nat)
  deriving DecidableEq, Repr

/-- R355: a section of a manifest. -/
structure Sect where
  type : Nat
  flags : Nat
  off : Nat
  len : Nat
  target : Nat
  iv : Nat
  tag : Nat
  digest : Nat
  deriving DecidableEq, Repr

/-- R360, R368: what Objor keeps of an installed manifest beyond the fields of OBJ.SLOTn. The content of its other
sections lies at their targets. -/
structure SlotX where
  slot : Nat
  hash : Nat
  siteMask : Nat
  useLimit : Nat
  scwLo : Nat
  scwHi : Nat
  sects : List Sect
  /-- R354, R362: the manifest's bytes before its section entries, and its BOND sections by index, encrypted as they are stored. -/
  head : List Nat
  bonds : List (Nat × List Nat)
  deriving DecidableEq, Repr

/-- R369: an owner key beyond the fields of OBJ.OWNERi; `key` is the 97-byte public key, first byte lowest. -/
structure OwnerX where
  index : Nat
  key : Nat
  mldsa : List Nat
  deriving DecidableEq, Repr

/-- R359: an install between its passes: mailbox, slot, manifest address, the manifest's bytes as pass 1 read them. -/
structure InstallRun where
  mb : Nat
  slot : Nat
  addr : Nat
  bytes : List Nat
  deriving DecidableEq, Repr

/-- R365: a seal between its ledger digest and its writing. -/
structure SealRun where
  mb : Nat
  lead : Nat
  buf : Nat
  context : List Nat
  /-- The digest has been started for this seal. -/
  digested : Bool
  /-- R365 steps 1 and 2: the digest of this seal and the dropped-record count with it. -/
  digest : Option (Nat × Nat)
  /-- R365: the caravan has left HALTED since the command was accepted. -/
  left : Bool
  deriving DecidableEq, Repr

/-- What Objor holds behind its registers. -/
structure ObjorX where
  /-- The unit identity private key (Store sector 2). -/
  ident : Option Nat
  /-- The identity certificate. -/
  cert : List Nat
  slots : List SlotX
  owners : List OwnerX
  /-- Fleet keys by index. -/
  fleets : List (Nat × Nat)
  nonce0 : Option Nat
  nonce1 : Option Nat
  /-- The generator's seedings and its outputs since. -/
  seeds : Nat
  draws : Nat
  install : Option InstallRun
  sealRun : Option SealRun
  /-- R347: accepted commands that wait: mailbox and OP. -/
  queue : List (Nat × Nat)
  /-- R345: the error state, which only a reset leaves. -/
  error : Bool
  /-- R346: a debug token that grants internal scan has been accepted since reset. -/
  scanToken : Bool
  deriving DecidableEq, Repr

/-- Objor of a unit that has no identity key, no owner and no manifest (log 14). -/
def ObjorX.reset : ObjorX :=
  { ident := none, cert := [], slots := [], owners := [], fleets := [], nonce0 := none, nonce1 := none,
    seeds := 0, draws := 0, install := none, sealRun := none, queue := [], error := false, scanToken := false }

/-- R493 to R498: what the self-test hardware holds behind its registers. -/
structure BstX where
  /-- The running slice: SLICE, TARGET, LANE. -/
  run : Option (Nat × Nat × Nat)
  /-- R498: the next scheduler entry to offer. -/
  next : Nat
  /-- R498: for each slice, the LIMIT_S intervals without PASS that have set LATE since its last PASS. -/
  late : List Nat
  deriving DecidableEq, Repr

/-- The self-test hardware after reset. -/
def BstX.reset : BstX := { run := none, next := 0, late := [] }

/-- R454 to R461: what the Convoy link holds behind its registers. -/
structure CvyX where
  /-- R456, R457: commands that wait for their acting instants, in order, each with its wait W in picoseconds. -/
  acts : List (Nat × Nat)
  /-- R453: the last symbols sent on CVY_OUT, none for idle: a data byte, 256 and the code of a K symbol, or 1024 for the PRBS-31
  sequence. -/
  out : List Nat
  deriving DecidableEq, Repr

/-- The Convoy link after reset. -/
def CvyX.reset : CvyX := { acts := [], out := [] }

/-- R421 to R432: a steward. Its instructions run outside the commands of the table; what the event controller, the fault
hub and its debug module read or write of it is here. -/
structure Steward where
  pc : Nat
  /-- x1 to x31, and the shadow bank of x1 to x15 (R423). -/
  x : List Nat
  shadow : List Nat
  /-- x1 to x15 are those of the shadow bank. -/
  fastBank : Bool
  /-- The privilege is machine. -/
  machine : Bool
  mie : Bool
  mpie : Bool
  /-- MPP is machine. -/
  mpp : Bool
  mepc : Nat
  mcause : Nat
  mtval : Nat
  mtvec : Nat
  mscratch : Nat
  pmpcfg : List Nat
  pmpaddr : List Nat
  mcycle : Nat
  minstret : Nat
  /-- Source of the innermost active handler, and whether it is fast. -/
  evsrc : Nat
  evfast : Bool
  fepc : Nat
  /-- Interrupted level, privilege and MIE of FSTATUS. -/
  flevel : Nat
  fmachine : Bool
  fmie : Bool
  /-- The steward executes WFI. -/
  wfi : Bool
  /-- Its clock is stopped by WFI with DEEP = 1. -/
  deep : Bool
  inReset : Bool
  /-- Stopped by its checker or by an exception at level 3 (R422, R432). -/
  stopped : Bool
  /-- A debugger is attached to its debug module. -/
  attached : Bool
  deriving DecidableEq, Repr

/-- A steward held in reset. Its general registers read zero (DESIGN CHOICE, log 2). -/
def Steward.reset : Steward :=
  { pc := 0, x := List.replicate 31 0, shadow := List.replicate 15 0, fastBank := false, machine := true, mie := false, mpie := false, mpp := false,
    mepc := 0, mcause := 0, mtval := 0, mtvec := 0, mscratch := 0, pmpcfg := List.replicate 16 0, pmpaddr := List.replicate 16 0, mcycle := 0,
    minstret := 0, evsrc := 0, evfast := false, fepc := 0, flevel := 0, fmachine := false, fmie := false, wfi := false,
    deep := false, inReset := true, stopped := false, attached := false }

/-- R426 to R437: an event source. -/
structure SrcX where
  /-- The synchronised input. -/
  inp : Bool
  /-- A selected edge, or SET_PEND, waits for its delivery. -/
  lat : Bool
  /-- The steward on which it is active. -/
  active : Option Nat
  /-- Firings since the previous delivery (R434). -/
  count : Nat
  /-- The holdoff since the previous delivery runs. -/
  hold : Bool
  hpend : Bool
  /-- It became pending and moderation has kept it from the host. -/
  hwait : Bool
  hcount : Nat
  hhold : Bool
  /-- Its MSI-X message has not been sent. -/
  hsend : Bool
  deriving DecidableEq, Repr

/-- A source after reset. -/
def SrcX.reset : SrcX :=
  { inp := false, lat := false, active := none, count := 0, hold := false, hpend := false, hwait := false, hcount := 0,
    hhold := false, hsend := false }

/-- R430, R438: a choice that is presented to a steward: source and steward, and the class and vector of the arbitration that made it. -/
structure Choice where
  src : Nat
  stw : Nat
  fast : Bool
  vec : Nat
  deriving DecidableEq, Repr

/-- What the event controller holds behind its registers. -/
structure EvcX where
  srcs : Tab SrcX
  /-- R430: choices presented and not yet acknowledged. -/
  choices : List Choice
  /-- R429: the stewards that last received a normal and a fast delivery. -/
  lastN : Nat
  lastF : Nat
  deriving DecidableEq, Repr

/-- The event controller after reset. -/
def EvcX.reset : EvcX := { srcs := [], choices := [], lastN := 3, lastF := 3 }

/-- R403: a level change: the new level, whether it raises, and whether it waits for the chip PLL (or for PMBus). -/
structure LevelRun where
  level : Nat
  raising : Bool
  atPll : Bool
  deriving DecidableEq, Repr

/-- R410: an entry in progress: 2 DOZE, 3 DORMANT, 0 POWER_OFF; the domain of a POWER_OFF; the blocks and regions that
go off (masks); the step it waits for (2 to 5); whether R419 began it. -/
structure Entry where
  kind : Nat
  dom : Nat
  blocks : Nat
  regions : Nat
  stage : Nat
  auto : Bool
  deriving DecidableEq, Repr

/-- What the power controller holds behind its registers. -/
structure PowerX where
  /-- The sleep state: 0 awake, 1 IDLE, 2 DOZE, 3 DORMANT. -/
  sleep : Nat
  /-- R407: the pending sleep request. -/
  request : Option Nat
  entry : Option Entry
  levelRun : Option LevelRun
  /-- R403, R404: a SET_LEVEL to the level in force that repeats step 5 alone. -/
  redo : Bool
  /-- R403, R418: a PWR command that waits for a transition to end: operation and argument. -/
  cmdWait : Option (Nat × Nat)
  /-- Domains being powered on (R418 numbering), and the one a POWER_ON command names. -/
  rising : List Nat
  risingCmd : Option Nat
  /-- Domains that were on before the entry. -/
  wasBlocks : Nat
  wasRegions : Nat
  /-- Wake sources (code, index) that have fired and that no wake has consumed. -/
  wakes : List (Nat × Nat)
  /-- R404: the regulator is at the voltage of this level. -/
  voltLevel : Nat
  /-- R403 step 5: the regulator's address, the PAGE and the VOUT_COMMAND code of the last transfer that succeeded. -/
  vout : Option (Nat × Nat × Nat)
  deriving DecidableEq, Repr

/-- The power controller after power-on. -/
def PowerX.reset : PowerX :=
  { sleep := 0, request := none, entry := none, levelRun := none, redo := false, cmdWait := none, rising := [], risingCmd := none,
    wasBlocks := 0, wasRegions := 0, wakes := [], voltLevel := 0, vout := none }

/-- R440 to R451: the endpoint behind its registers. -/
structure HostX where
  perst : Bool
  /-- R414: WAKE# is driven low. -/
  wakeN : Bool
  busMaster : Bool
  msixOn : Bool
  fmask : Bool
  /-- The MSI-X messages that were sent last: address and data. -/
  sent : List (Nat × Nat)
  /-- What was written last to host memory: byte address and bytes. -/
  wrote : List (Nat × List Nat)
  /-- R445: AER: a Completer Abort, as an advisory non-fatal error, and the logged header: write, BAR, offset and bytes of the TLP. -/
  aerCa : Bool
  aerHeader : List Nat
  deriving DecidableEq, Repr

/-- The endpoint while PERST# is asserted. -/
def HostX.reset : HostX :=
  { perst := true, wakeN := false, busMaster := false, msixOn := false, fmask := false, sent := [], wrote := [], aerCa := false,
    aerHeader := [] }

/-- R468: a hold of a pin: its output level and enable, the input that its peripheral sees, and its old FUNC and SEL. -/
structure PinHold where
  pin : Nat
  func : Nat
  sel : Nat
  level : Nat
  oe : Nat
  inp : Nat
  deriving DecidableEq, Repr

/-- R474: a serial controller: FIFOs, and the bytes of the transfer in progress. -/
structure SerialX where
  tx : List Nat
  rx : List Nat
  left : Option Nat
  deriving DecidableEq, Repr

/-- An idle serial controller. -/
def SerialX.reset : SerialX := { tx := [], rx := [], left := none }

/-- Where the end-of-test sequence of R472 stands. -/
inductive HpiPhase where
  | idle
  /-- BIN is driven; SETUP_US, or RDY_N, is awaited. -/
  | setup
  /-- BINSTB_N is low. -/
  | strobe
  deriving DecidableEq, Repr

/-- What the general-purpose pins hold behind their registers. -/
structure GpioX where
  holds : List PinHold
  hpi : HpiPhase
  /-- BIN as driven (all ones while it is high), and EOT_N low. -/
  bin : Nat
  eotLow : Bool
  /-- Serial controllers: I2C 0 to 3, SPI 4 and 5, UART 6 and 7. -/
  serial : Tab SerialX
  /-- R475: PERIOD and DUTY in force for the present period, by timer. -/
  pwm : Tab (Nat × Nat)
  /-- R471: output enables and levels that the pads hold while the device sleeps; none when it does not. -/
  pads : List (Bool × Bool)
  /-- R467: pulses that GP89 and GP90 have given at acting instants of SYNC and START. -/
  auxSync : Nat
  auxStart : Nat
  deriving DecidableEq, Repr

/-- The pins after reset. -/
def GpioX.reset : GpioX := { holds := [], hpi := .idle, bin := 0xFF, eotLow := false, serial := [], pwm := [], pads := [], auxSync := 0, auxStart := 0 }

/-- R484: a record of the fault log. -/
structure FltRec where
  id : Nat
  code : Nat
  scope : Nat
  unit : Nat
  inj : Bool
  esc : Bool
  time : Nat
  deriving DecidableEq, Repr

/-- R486: a containment in progress: its record, the scope contained now, the unit, the leads that it names, whether the
caravans have halted. -/
structure Contain where
  id : Nat
  code : Nat
  scope : Nat
  unit : Nat
  leads : List Nat
  halted : Bool
  deriving DecidableEq, Repr

/-- What the fault hub holds behind its registers. -/
structure HubX where
  log : List FltRec
  nextId : Nat
  contains : List Contain
  deriving DecidableEq, Repr

/-- The fault hub after reset. -/
def HubX.reset : HubX := { log := [], nextId := 0, contains := [] }

/-- Resets in progress and the test access port. -/
structure RstX where
  /-- The device is held in reset until its release (R502). -/
  held : Bool
  /-- R381, R515: a device reset is due: bit of CHIP.RST_CAUSE. -/
  due : Option Nat
  /-- R514: PWR_OK fell, or a rail failed, since the last reset. -/
  supply : Bool
  /-- R395: the instruction of the test access port. -/
  ir : Nat
  /-- R390: a scan has begun; only a reset leaves it. -/
  scanning : Bool
  /-- R392: the capture of the transit queues that the freeze in force has made. -/
  capture : Option Nat
  deriving DecidableEq, Repr

/-- The device in power-on reset. -/
def RstX.reset : RstX := { held := true, due := none, supply := false, ir := 1, scanning := false, capture := none }

/-- R484: a fault that a detector reports to the fault hub. -/
structure FaultRep where
  code : Nat
  unit : Nat
  inj : Bool
  /-- The scope that the reporter found, where the table leaves it to the rule (R265, R482, R18); 7 means the table's. -/
  scope : Nat
  /-- Leads that the reporter names (R245, R265, R291), where the scope is not a unit. -/
  leads : List Nat
  deriving DecidableEq, Repr

/-- R362: an open bonded session: its index in OBJ.BONDk, the lead, the manifest slot, section, data and length in
bits. -/
structure BondSession where
  k : Nat
  lead : Nat
  slot : Nat
  section_ : Nat
  data : Nat
  len : Nat
  deriving DecidableEq, Repr

/-- Who raises a fault, and whether stopping there is safe. -/
inductive Fault where
  /-- Raised by no meaning: the spec gives every command of the table an effect. Safe. -/
  | none_
  deriving DecidableEq, Repr

/-- Why a command has no meaning. -/
inductive Refusal where
  /-- Raised by an arm of `exec` whose command is not modelled yet. Safe: the machine stops. -/
  | notModelled (mnemonic : String)
  deriving DecidableEq, Repr

/-- R1, R2: the two grades. -/
inductive Grade where
  | g48
  | g32
  deriving DecidableEq, Repr

/-- R2: the grade as CHIP.ID.GRADE reads. -/
def Grade.code : Grade → Nat
  | .g48 => 0x48
  | .g32 => 0x32

/-- The state of the package. -/
structure State where
  /-- R1: the part's grade, which no command changes. -/
  grade : Grade
  /-- Register fields: key 64 * address + lowest bit; value = present value xor reset value. -/
  regs : Tab Nat
  /-- Memory bytes by device address (R271), word-view layout (R3). -/
  mem : List Host.Cell
  /-- Stored errors of memory words by word address: 1 correctable, 2 uncorrectable, 3 uncorrectable by an error that arose after
  a raw write (R285). -/
  ecc : Tab Nat
  /-- Check bits stored as given in raw mode (R285), plus 1, by word address. -/
  rawChk : Tab Nat
  cells : Tab CellX
  runs : Tab Run
  blocks : Tab BlockX
  regions : Tab RegionX
  net : NetX
  store : StoreX
  /-- R168: runs of the calibration loader that are not finished. -/
  cal : List CalRun
  objor : ObjorX
  /-- R362: open bonded sessions. -/
  bonds : List BondSession
  bst : BstX
  cvy : CvyX
  stewards : Tab Steward
  evc : EvcX
  power : PowerX
  host : HostX
  gpio : GpioX
  hub : HubX
  rst : RstX
  /-- R241: set sums, key 256 * home + site. -/
  esum : Tab Nat
  retired : List Retired
  /-- Pulse sources that have fired and not reached the event controller (R425). -/
  pulses : List Nat
  /-- Faults that detectors have reported and the hub has not taken. -/
  faultQ : List FaultRep
  /-- What the last reading command returned to its sender. -/
  answer : List Nat
  /-- The model's own: how many free values have been drawn (log 1). -/
  freeCtr : Nat
  /-- Commands that wait, first in, first out. -/
  pending : List Instr
  deriving DecidableEq, Repr

/-- R503: the machine in power-on reset with VAUX present, before its release: every register at its reset value (log 2),
nothing in any memory, the Store and the planes erased, no owner, no manifest, no command waiting. The part is of the -48 grade
(R1); `State.resetOf` gives either. -/
def State.reset : State :=
  { grade := .g48, regs := [], mem := [], ecc := [], rawChk := [], cells := [], runs := [], blocks := [], regions := [],
    net := NetX.reset, store := StoreX.reset, cal := [], objor := ObjorX.reset, bonds := [], bst := BstX.reset,
    cvy := CvyX.reset, stewards := [], evc := EvcX.reset, power := PowerX.reset, host := HostX.reset,
    gpio := GpioX.reset, hub := HubX.reset, rst := RstX.reset, esum := [], retired := [], pulses := [], faultQ := [],
    answer := [], freeCtr := 0, pending := [] }

/-- R1, R2: the machine right after reset, of a grade. -/
def State.resetOf (g : Grade) : State := { State.reset with grade := g }

end Sys2Proof.Machine
end

