-- ==== Sys2Proof/Machine/RegsBlock.lean ====
section
/-! DEFINITION. The register fields of one block: BLK, PLL, APG, FAB and DEP. -/

namespace Sys2Proof.Machine

/-! ### BLK (spec/23_register_index.md) -/

/-! BLK.ID, offset 0x0 (R536). -/
abbrev BLK.ID_BLOCK (b : Nat) : Fld := ⟨blockBase b + 0x0, 0, 5, b⟩
abbrev BLK.ID_REGION (b : Nat) : Fld := ⟨blockBase b + 0x0, 8, 2, (b / 8)⟩
abbrev BLK.ID_INDEX (b : Nat) : Fld := ⟨blockBase b + 0x0, 16, 3, (b % 8)⟩

/-- Registers of BLK by offset, part 0. -/
def BLK.regTable0 (b : Nat) : List RegDesc := [
  ⟨0x0, 1, 0x8, 1, 0x8, fun _ _ => [⟨(BLK.ID_BLOCK b), .ro, false, false⟩, ⟨(BLK.ID_REGION b), .ro, false, false⟩, ⟨(BLK.ID_INDEX b), .ro, false, false⟩]⟩]

/-- Registers of BLK by offset. -/
def BLK.regTable (b : Nat) : List RegDesc :=
  BLK.regTable0 b

/-! ### PLL (spec/07_clocks_and_plls.md) -/

/-! PLL.CMD, offset 0x8000 (R198). -/
abbrev PLL.CMD_OP (b : Nat) : Fld := ⟨blockBase b + 0x8000, 0, 4, 0⟩

/-! PLL.CMD_STATUS, offset 0x8008 (R198). -/
abbrev PLL.CMD_STATUS_STATUS (b : Nat) : Fld := ⟨blockBase b + 0x8008, 0, 8, 0⟩
abbrev PLL.CMD_STATUS_OP (b : Nat) : Fld := ⟨blockBase b + 0x8008, 8, 4, 0⟩
abbrev PLL.CMD_STATUS_PEND (b : Nat) : Fld := ⟨blockBase b + 0x8008, 16, 1, 0⟩

/-! PLL.CFG, offset 0x8010 (R198). -/
abbrev PLL.CFG_MODE (b : Nat) : Fld := ⟨blockBase b + 0x8010, 0, 1, 0⟩
abbrev PLL.CFG_REF (b : Nat) : Fld := ⟨blockBase b + 0x8010, 1, 1, 0⟩
abbrev PLL.CFG_RDIV (b : Nat) : Fld := ⟨blockBase b + 0x8010, 2, 2, 0⟩
abbrev PLL.CFG_N (b : Nat) : Fld := ⟨blockBase b + 0x8010, 4, 9, 64⟩
abbrev PLL.CFG_SDIV (b : Nat) : Fld := ⟨blockBase b + 0x8010, 16, 12, 32⟩
abbrev PLL.CFG_FDIV (b : Nat) : Fld := ⟨blockBase b + 0x8010, 32, 12, 32⟩
abbrev PLL.CFG_BW (b : Nat) : Fld := ⟨blockBase b + 0x8010, 48, 2, 3⟩

/-! PLL.ACT_CFG, offset 0x8028 (R198). -/
abbrev PLL.ACT_CFG_MODE (b : Nat) : Fld := ⟨blockBase b + 0x8028, 0, 1, 0⟩
abbrev PLL.ACT_CFG_REF (b : Nat) : Fld := ⟨blockBase b + 0x8028, 1, 1, 0⟩
abbrev PLL.ACT_CFG_RDIV (b : Nat) : Fld := ⟨blockBase b + 0x8028, 2, 2, 0⟩
abbrev PLL.ACT_CFG_N (b : Nat) : Fld := ⟨blockBase b + 0x8028, 4, 9, 64⟩
abbrev PLL.ACT_CFG_SDIV (b : Nat) : Fld := ⟨blockBase b + 0x8028, 16, 12, 32⟩
abbrev PLL.ACT_CFG_FDIV (b : Nat) : Fld := ⟨blockBase b + 0x8028, 32, 12, 32⟩
abbrev PLL.ACT_CFG_BW (b : Nat) : Fld := ⟨blockBase b + 0x8028, 48, 2, 3⟩

/-! PLL.FRAC, offset 0x8018 (R198). -/
abbrev PLL.FRAC_FRAC (b : Nat) : Fld := ⟨blockBase b + 0x8018, 0, 24, 0⟩

/-! PLL.ACT_FRAC, offset 0x8030 (R198). -/
abbrev PLL.ACT_FRAC_FRAC (b : Nat) : Fld := ⟨blockBase b + 0x8030, 0, 24, 0⟩

/-! PLL.TRACK, offset 0x8020 (R198). -/
abbrev PLL.TRACK_RAMP (b : Nat) : Fld := ⟨blockBase b + 0x8020, 0, 10, 1000⟩
abbrev PLL.TRACK_CLAMP_PPM (b : Nat) : Fld := ⟨blockBase b + 0x8020, 16, 16, 5000⟩

/-! PLL.STATUS, offset 0x8038 (R198). -/
abbrev PLL.STATUS_STATE (b : Nat) : Fld := ⟨blockBase b + 0x8038, 0, 3, 0⟩
abbrev PLL.STATUS_CLK_RUN (b : Nat) : Fld := ⟨blockBase b + 0x8038, 3, 1, 0⟩
abbrev PLL.STATUS_CLAMPED (b : Nat) : Fld := ⟨blockBase b + 0x8038, 4, 1, 0⟩
abbrev PLL.STATUS_REF_OK (b : Nat) : Fld := ⟨blockBase b + 0x8038, 5, 1, 0⟩
abbrev PLL.STATUS_GANGED (b : Nat) : Fld := ⟨blockBase b + 0x8038, 6, 1, 0⟩
abbrev PLL.STATUS_SRC_BLOCK (b : Nat) : Fld := ⟨blockBase b + 0x8038, 8, 5, b⟩

/-! PLL.EVENT, offset 0x8040 (R198). -/
abbrev PLL.EVENT_LOL (b : Nat) : Fld := ⟨blockBase b + 0x8040, 0, 1, 0⟩
abbrev PLL.EVENT_DONE (b : Nat) : Fld := ⟨blockBase b + 0x8040, 1, 1, 0⟩
abbrev PLL.EVENT_CLAMP (b : Nat) : Fld := ⟨blockBase b + 0x8040, 2, 1, 0⟩

/-! PLL.EVENT_EN, offset 0x8048 (R198). -/
abbrev PLL.EVENT_EN_DONE_EN (b : Nat) : Fld := ⟨blockBase b + 0x8048, 1, 1, 0⟩
abbrev PLL.EVENT_EN_CLAMP_EN (b : Nat) : Fld := ⟨blockBase b + 0x8048, 2, 1, 0⟩

/-! PLL.FMEAS, offset 0x8050 (R198). -/
abbrev PLL.FMEAS_STRIDE_KHZ (b : Nat) : Fld := ⟨blockBase b + 0x8050, 0, 32, 0⟩

/-! PLL.LIMIT, offset 0x8058 (R198). -/
abbrev PLL.LIMIT_LIMIT_KHZ (b : Nat) : Fld := ⟨blockBase b + 0x8058, 0, 32, 600000⟩
abbrev PLL.LIMIT_CLAMP_KHZ (b : Nat) : Fld := ⟨blockBase b + 0x8058, 32, 32, 0⟩

/-! PLL.LOL, offset 0x8060 (R198). -/
abbrev PLL.LOL_COUNT (b : Nat) : Fld := ⟨blockBase b + 0x8060, 0, 32, 0⟩
abbrev PLL.LOL_CAUSE (b : Nat) : Fld := ⟨blockBase b + 0x8060, 32, 4, 0⟩
abbrev PLL.LOL_DET (b : Nat) : Fld := ⟨blockBase b + 0x8060, 48, 12, 0⟩

/-! PLL.CLAMP_CNT, offset 0x8068 (R198). -/
abbrev PLL.CLAMP_CNT_US (b : Nat) : Fld := ⟨blockBase b + 0x8068, 0, 32, 0⟩

/-! PLL.REJECT, offset 0x8070 (R198). -/
abbrev PLL.REJECT_COUNT (b : Nat) : Fld := ⟨blockBase b + 0x8070, 0, 32, 0⟩

/-! PLL.LAST_REJECT, offset 0x8078 (R198). -/
abbrev PLL.LAST_REJECT_CODE (b : Nat) : Fld := ⟨blockBase b + 0x8078, 0, 8, 0⟩
abbrev PLL.LAST_REJECT_STATUS (b : Nat) : Fld := ⟨blockBase b + 0x8078, 8, 8, 0⟩

/-! PLL.LGOOD, offset 0x8080 (R198). -/
abbrev PLL.LGOOD_SC (b k : Nat) : Fld := ⟨blockBase b + 0x8080 + 0x8 * k, 0, 48, 0⟩
abbrev PLL.LGOOD_NONE (b k : Nat) : Fld := ⟨blockBase b + 0x8080 + 0x8 * k, 48, 1, 0⟩
abbrev PLL.LGOOD_VALID (b k : Nat) : Fld := ⟨blockBase b + 0x8080 + 0x8 * k, 49, 1, 0⟩

/-- Registers of PLL by offset, part 0. -/
def PLL.regTable0 (b : Nat) : List RegDesc := [
  ⟨0x8000, 1, 0x8, 1, 0x8, fun _ _ => [⟨(PLL.CMD_OP b), .wo, false, false⟩]⟩,
  ⟨0x8008, 1, 0x8, 1, 0x8, fun _ _ => [⟨(PLL.CMD_STATUS_STATUS b), .ro, false, false⟩, ⟨(PLL.CMD_STATUS_OP b), .ro, false, false⟩, ⟨(PLL.CMD_STATUS_PEND b), .ro, false, false⟩]⟩,
  ⟨0x8010, 1, 0x8, 1, 0x8, fun _ _ => [⟨(PLL.CFG_MODE b), .rw, false, false⟩, ⟨(PLL.CFG_REF b), .rw, false, false⟩, ⟨(PLL.CFG_RDIV b), .rw, false, false⟩, ⟨(PLL.CFG_N b), .rw, false, false⟩, ⟨(PLL.CFG_SDIV b), .rw, false, false⟩, ⟨(PLL.CFG_FDIV b), .rw, false, false⟩, ⟨(PLL.CFG_BW b), .rw, false, false⟩]⟩,
  ⟨0x8028, 1, 0x8, 1, 0x8, fun _ _ => [⟨(PLL.ACT_CFG_MODE b), .ro, false, false⟩, ⟨(PLL.ACT_CFG_REF b), .ro, false, false⟩, ⟨(PLL.ACT_CFG_RDIV b), .ro, false, false⟩, ⟨(PLL.ACT_CFG_N b), .ro, false, false⟩, ⟨(PLL.ACT_CFG_SDIV b), .ro, false, false⟩, ⟨(PLL.ACT_CFG_FDIV b), .ro, false, false⟩, ⟨(PLL.ACT_CFG_BW b), .ro, false, false⟩]⟩,
  ⟨0x8018, 1, 0x8, 1, 0x8, fun _ _ => [⟨(PLL.FRAC_FRAC b), .rw, false, false⟩]⟩,
  ⟨0x8030, 1, 0x8, 1, 0x8, fun _ _ => [⟨(PLL.ACT_FRAC_FRAC b), .ro, false, false⟩]⟩,
  ⟨0x8020, 1, 0x8, 1, 0x8, fun _ _ => [⟨(PLL.TRACK_RAMP b), .rw, false, false⟩, ⟨(PLL.TRACK_CLAMP_PPM b), .rw, false, false⟩]⟩,
  ⟨0x8038, 1, 0x8, 1, 0x8, fun _ _ => [⟨(PLL.STATUS_STATE b), .ro, false, false⟩, ⟨(PLL.STATUS_CLK_RUN b), .ro, false, false⟩, ⟨(PLL.STATUS_CLAMPED b), .ro, false, false⟩, ⟨(PLL.STATUS_REF_OK b), .ro, false, false⟩, ⟨(PLL.STATUS_GANGED b), .ro, false, false⟩, ⟨(PLL.STATUS_SRC_BLOCK b), .ro, false, false⟩]⟩,
  ⟨0x8040, 1, 0x8, 1, 0x8, fun _ _ => [⟨(PLL.EVENT_LOL b), .w1c, false, false⟩, ⟨(PLL.EVENT_DONE b), .w1c, false, false⟩, ⟨(PLL.EVENT_CLAMP b), .w1c, false, false⟩]⟩,
  ⟨0x8048, 1, 0x8, 1, 0x8, fun _ _ => [⟨(PLL.EVENT_EN_DONE_EN b), .rw, false, false⟩, ⟨(PLL.EVENT_EN_CLAMP_EN b), .rw, false, false⟩]⟩,
  ⟨0x8050, 1, 0x8, 1, 0x8, fun _ _ => [⟨(PLL.FMEAS_STRIDE_KHZ b), .ro, false, false⟩]⟩,
  ⟨0x8058, 1, 0x8, 1, 0x8, fun _ _ => [⟨(PLL.LIMIT_LIMIT_KHZ b), .ro, false, false⟩, ⟨(PLL.LIMIT_CLAMP_KHZ b), .ro, false, false⟩]⟩]

/-- Registers of PLL by offset, part 1. -/
def PLL.regTable1 (b : Nat) : List RegDesc := [
  ⟨0x8060, 1, 0x8, 1, 0x8, fun _ _ => [⟨(PLL.LOL_COUNT b), .rc, false, false⟩, ⟨(PLL.LOL_CAUSE b), .ro, false, false⟩, ⟨(PLL.LOL_DET b), .ro, false, false⟩]⟩,
  ⟨0x8068, 1, 0x8, 1, 0x8, fun _ _ => [⟨(PLL.CLAMP_CNT_US b), .rc, false, false⟩]⟩,
  ⟨0x8070, 1, 0x8, 1, 0x8, fun _ _ => [⟨(PLL.REJECT_COUNT b), .rc, false, false⟩]⟩,
  ⟨0x8078, 1, 0x8, 1, 0x8, fun _ _ => [⟨(PLL.LAST_REJECT_CODE b), .ro, false, false⟩, ⟨(PLL.LAST_REJECT_STATUS b), .ro, false, false⟩]⟩,
  ⟨0x8080, 8, 0x8, 1, 0x8, fun k _ => [⟨(PLL.LGOOD_SC b k), .ro, false, false⟩, ⟨(PLL.LGOOD_NONE b k), .ro, false, false⟩, ⟨(PLL.LGOOD_VALID b k), .w1c, false, false⟩]⟩]

/-- Registers of PLL by offset. -/
def PLL.regTable (b : Nat) : List RegDesc :=
  PLL.regTable0 b ++ PLL.regTable1 b

/-! ### APG (spec/05_algorithmic_pattern_generator.md) -/

/-! APG.STATUS, offset 0x10000 (R141). -/
abbrev APG.STATUS_WR_IGN (b : Nat) : Fld := ⟨blockBase b + 0x10000, 0, 1, 0⟩
abbrev APG.STATUS_END (b : Nat) : Fld := ⟨blockBase b + 0x10000, 1, 1, 0⟩
abbrev APG.STATUS_XW (b : Nat) : Fld := ⟨blockBase b + 0x10000, 2, 1, 0⟩
abbrev APG.STATUS_YW (b : Nat) : Fld := ⟨blockBase b + 0x10000, 3, 1, 0⟩
abbrev APG.STATUS_ZW (b : Nat) : Fld := ⟨blockBase b + 0x10000, 4, 1, 0⟩
abbrev APG.STATUS_DW (b : Nat) : Fld := ⟨blockBase b + 0x10000, 5, 1, 0⟩
abbrev APG.STATUS_PHASE (b : Nat) : Fld := ⟨blockBase b + 0x10000, 6, 1, 0⟩

/-! APG.STEPS, offset 0x10008 (R141). -/
abbrev APG.STEPS_COUNT (b : Nat) : Fld := ⟨blockBase b + 0x10008, 0, 48, 0⟩

/-! APG.HOLDER, offset 0x10010 (R141). -/
abbrev APG.HOLDER_CELL (b : Nat) : Fld := ⟨blockBase b + 0x10010, 0, 8, 0⟩
abbrev APG.HOLDER_VALID (b : Nat) : Fld := ⟨blockBase b + 0x10010, 8, 1, 0⟩

/-! APG.PERM, offset 0x10040 (R141). -/
abbrev APG.PERM_SEL0 (b k : Nat) : Fld := ⟨blockBase b + 0x10040 + 0x8 * k, 0, 6, (8 * k + 0)⟩
abbrev APG.PERM_SEL1 (b k : Nat) : Fld := ⟨blockBase b + 0x10040 + 0x8 * k, 8, 6, (8 * k + 1)⟩
abbrev APG.PERM_SEL2 (b k : Nat) : Fld := ⟨blockBase b + 0x10040 + 0x8 * k, 16, 6, (8 * k + 2)⟩
abbrev APG.PERM_SEL3 (b k : Nat) : Fld := ⟨blockBase b + 0x10040 + 0x8 * k, 24, 6, (8 * k + 3)⟩
abbrev APG.PERM_SEL4 (b k : Nat) : Fld := ⟨blockBase b + 0x10040 + 0x8 * k, 32, 6, (8 * k + 4)⟩
abbrev APG.PERM_SEL5 (b k : Nat) : Fld := ⟨blockBase b + 0x10040 + 0x8 * k, 40, 6, (8 * k + 5)⟩
abbrev APG.PERM_SEL6 (b k : Nat) : Fld := ⟨blockBase b + 0x10040 + 0x8 * k, 48, 6, (8 * k + 6)⟩
abbrev APG.PERM_SEL7 (b k : Nat) : Fld := ⟨blockBase b + 0x10040 + 0x8 * k, 56, 6, (8 * k + 7)⟩

/-! APG.XSEL, offset 0x10080 (R141). -/
abbrev APG.XSEL_SEL0 (b k : Nat) : Fld := ⟨blockBase b + 0x10080 + 0x8 * k, 0, 6, 62⟩
abbrev APG.XSEL_SEL1 (b k : Nat) : Fld := ⟨blockBase b + 0x10080 + 0x8 * k, 8, 6, 62⟩
abbrev APG.XSEL_SEL2 (b k : Nat) : Fld := ⟨blockBase b + 0x10080 + 0x8 * k, 16, 6, 62⟩
abbrev APG.XSEL_SEL3 (b k : Nat) : Fld := ⟨blockBase b + 0x10080 + 0x8 * k, 24, 6, 62⟩
abbrev APG.XSEL_SEL4 (b k : Nat) : Fld := ⟨blockBase b + 0x10080 + 0x8 * k, 32, 6, 62⟩
abbrev APG.XSEL_SEL5 (b k : Nat) : Fld := ⟨blockBase b + 0x10080 + 0x8 * k, 40, 6, 62⟩
abbrev APG.XSEL_SEL6 (b k : Nat) : Fld := ⟨blockBase b + 0x10080 + 0x8 * k, 48, 6, 62⟩
abbrev APG.XSEL_SEL7 (b k : Nat) : Fld := ⟨blockBase b + 0x10080 + 0x8 * k, 56, 6, 62⟩

/-! APG.CFG, offset 0x10400 (R141). -/
abbrev APG.CFG_DMODE (b : Nat) : Fld := ⟨blockBase b + 0x10400, 0, 1, 0⟩
abbrev APG.CFG_AFUNC (b : Nat) : Fld := ⟨blockBase b + 0x10400, 1, 3, 0⟩
abbrev APG.CFG_DW (b : Nat) : Fld := ⟨blockBase b + 0x10400, 4, 5, 0⟩
abbrev APG.CFG_END_SEL (b : Nat) : Fld := ⟨blockBase b + 0x10400, 9, 2, 0⟩
abbrev APG.CFG_XEN (b : Nat) : Fld := ⟨blockBase b + 0x10400, 11, 1, 0⟩
abbrev APG.CFG_CX (b : Nat) : Fld := ⟨blockBase b + 0x10400, 12, 2, 0⟩
abbrev APG.CFG_CY (b : Nat) : Fld := ⟨blockBase b + 0x10400, 14, 2, 0⟩
abbrev APG.CFG_CZ (b : Nat) : Fld := ⟨blockBase b + 0x10400, 16, 2, 0⟩

/-! APG.DSTATE, offset 0x10340 (R141). -/
abbrev APG.DSTATE_BGSEL (b : Nat) : Fld := ⟨blockBase b + 0x10340, 0, 2, 0⟩
abbrev APG.DSTATE_INV (b : Nat) : Fld := ⟨blockBase b + 0x10340, 2, 1, 0⟩

/-! APG.XTAB, offset 0x18000 (R141). -/
abbrev APG.XTAB_MASK (b n : Nat) : Fld := ⟨blockBase b + 0x18000 + 0x8 * n, 0, 42, 0⟩

/-! APG.X_BASE, offset 0x10200 (R141). -/
abbrev APG.X_BASE_VALUE (b : Nat) : Fld := ⟨blockBase b + 0x10200, 0, 20, 0⟩

/-! APG.X_IDX, offset 0x10210 (R141). -/
abbrev APG.X_IDX_VALUE (b : Nat) : Fld := ⟨blockBase b + 0x10210, 0, 20, 0⟩

/-! APG.X_LIM, offset 0x10220 (R141). -/
abbrev APG.X_LIM_VALUE (b : Nat) : Fld := ⟨blockBase b + 0x10220, 0, 20, 1048575⟩

/-! APG.Y_BASE, offset 0x10240 (R141). -/
abbrev APG.Y_BASE_VALUE (b : Nat) : Fld := ⟨blockBase b + 0x10240, 0, 16, 0⟩

/-! APG.Y_IDX, offset 0x10250 (R141). -/
abbrev APG.Y_IDX_VALUE (b : Nat) : Fld := ⟨blockBase b + 0x10250, 0, 16, 0⟩

/-! APG.Y_LIM, offset 0x10260 (R141). -/
abbrev APG.Y_LIM_VALUE (b : Nat) : Fld := ⟨blockBase b + 0x10260, 0, 16, 65535⟩

/-! APG.Z_BASE, offset 0x10280 (R141). -/
abbrev APG.Z_BASE_VALUE (b : Nat) : Fld := ⟨blockBase b + 0x10280, 0, 6, 0⟩

/-! APG.Z_IDX, offset 0x10290 (R141). -/
abbrev APG.Z_IDX_VALUE (b : Nat) : Fld := ⟨blockBase b + 0x10290, 0, 6, 0⟩

/-! APG.Z_LIM, offset 0x102A0 (R141). -/
abbrev APG.Z_LIM_VALUE (b : Nat) : Fld := ⟨blockBase b + 0x102A0, 0, 6, 63⟩

/-! APG.X_SAVE, offset 0x102C0 (R141). -/
abbrev APG.X_SAVE_VALUE (b : Nat) : Fld := ⟨blockBase b + 0x102C0, 0, 20, 0⟩

/-! APG.Y_SAVE, offset 0x102D0 (R141). -/
abbrev APG.Y_SAVE_VALUE (b : Nat) : Fld := ⟨blockBase b + 0x102D0, 0, 16, 0⟩

/-! APG.Z_SAVE, offset 0x102E0 (R141). -/
abbrev APG.Z_SAVE_VALUE (b : Nat) : Fld := ⟨blockBase b + 0x102E0, 0, 6, 0⟩

/-! APG.DPTR, offset 0x10380 (R141). -/
abbrev APG.DPTR_VALUE (b : Nat) : Fld := ⟨blockBase b + 0x10380, 0, 16, 0⟩

/-! APG.DBASE, offset 0x10390 (R141). -/
abbrev APG.DBASE_VALUE (b : Nat) : Fld := ⟨blockBase b + 0x10390, 0, 16, 0⟩

/-! APG.DLIM, offset 0x103A0 (R141). -/
abbrev APG.DLIM_VALUE (b : Nat) : Fld := ⟨blockBase b + 0x103A0, 0, 16, 65535⟩

/-! APG.TMASK, offset 0x103C0 (R141). -/
abbrev APG.TMASK_VALUE (b : Nat) : Fld := ⟨blockBase b + 0x103C0, 0, 42, 0⟩

/-! APG.BG_LO, offset 0x10300 (R141). -/
abbrev APG.BG_LO_VALUE (b n : Nat) : Fld := ⟨blockBase b + 0x10300 + 0x10 * n, 0, 64, 0⟩

/-! APG.BG_HI, offset 0x10308 (R141). -/
abbrev APG.BG_HI_VALUE (b n : Nat) : Fld := ⟨blockBase b + 0x10308 + 0x10 * n, 0, 8, 0⟩

/-- Registers of APG by offset, part 0. -/
def APG.regTable0 (b : Nat) : List RegDesc := [
  ⟨0x10000, 1, 0x8, 1, 0x8, fun _ _ => [⟨(APG.STATUS_WR_IGN b), .w1c, false, false⟩, ⟨(APG.STATUS_END b), .ro, false, false⟩, ⟨(APG.STATUS_XW b), .ro, false, false⟩, ⟨(APG.STATUS_YW b), .ro, false, false⟩, ⟨(APG.STATUS_ZW b), .ro, false, false⟩, ⟨(APG.STATUS_DW b), .ro, false, false⟩, ⟨(APG.STATUS_PHASE b), .ro, false, false⟩]⟩,
  ⟨0x10008, 1, 0x8, 1, 0x8, fun _ _ => [⟨(APG.STEPS_COUNT b), .rc, false, false⟩]⟩,
  ⟨0x10010, 1, 0x8, 1, 0x8, fun _ _ => [⟨(APG.HOLDER_CELL b), .ro, false, false⟩, ⟨(APG.HOLDER_VALID b), .ro, false, false⟩]⟩,
  ⟨0x10040, 6, 0x8, 1, 0x8, fun k _ => if k = 5 then [⟨(APG.PERM_SEL0 b k), .rw, false, false⟩, ⟨(APG.PERM_SEL1 b k), .rw, false, false⟩] else [⟨(APG.PERM_SEL0 b k), .rw, false, false⟩, ⟨(APG.PERM_SEL1 b k), .rw, false, false⟩, ⟨(APG.PERM_SEL2 b k), .rw, false, false⟩, ⟨(APG.PERM_SEL3 b k), .rw, false, false⟩, ⟨(APG.PERM_SEL4 b k), .rw, false, false⟩, ⟨(APG.PERM_SEL5 b k), .rw, false, false⟩, ⟨(APG.PERM_SEL6 b k), .rw, false, false⟩, ⟨(APG.PERM_SEL7 b k), .rw, false, false⟩]⟩,
  ⟨0x10080, 2, 0x8, 1, 0x8, fun k _ => if k = 1 then [⟨(APG.XSEL_SEL0 b k), .rw, false, false⟩, ⟨(APG.XSEL_SEL1 b k), .rw, false, false⟩, ⟨(APG.XSEL_SEL2 b k), .rw, false, false⟩, ⟨(APG.XSEL_SEL3 b k), .rw, false, false⟩] else [⟨(APG.XSEL_SEL0 b k), .rw, false, false⟩, ⟨(APG.XSEL_SEL1 b k), .rw, false, false⟩, ⟨(APG.XSEL_SEL2 b k), .rw, false, false⟩, ⟨(APG.XSEL_SEL3 b k), .rw, false, false⟩, ⟨(APG.XSEL_SEL4 b k), .rw, false, false⟩, ⟨(APG.XSEL_SEL5 b k), .rw, false, false⟩, ⟨(APG.XSEL_SEL6 b k), .rw, false, false⟩, ⟨(APG.XSEL_SEL7 b k), .rw, false, false⟩]⟩,
  ⟨0x10400, 1, 0x8, 1, 0x8, fun _ _ => [⟨(APG.CFG_DMODE b), .rw, false, false⟩, ⟨(APG.CFG_AFUNC b), .rw, false, false⟩, ⟨(APG.CFG_DW b), .rw, false, false⟩, ⟨(APG.CFG_END_SEL b), .rw, false, false⟩, ⟨(APG.CFG_XEN b), .rw, false, false⟩, ⟨(APG.CFG_CX b), .rw, false, false⟩, ⟨(APG.CFG_CY b), .rw, false, false⟩, ⟨(APG.CFG_CZ b), .rw, false, false⟩]⟩,
  ⟨0x10340, 1, 0x8, 1, 0x8, fun _ _ => [⟨(APG.DSTATE_BGSEL b), .rw, false, false⟩, ⟨(APG.DSTATE_INV b), .rw, false, false⟩]⟩,
  ⟨0x18000, 4096, 0x8, 1, 0x8, fun n _ => [⟨(APG.XTAB_MASK b n), .rw, false, false⟩]⟩,
  ⟨0x10200, 1, 0x8, 1, 0x8, fun _ _ => [⟨(APG.X_BASE_VALUE b), .rw, false, false⟩]⟩,
  ⟨0x10210, 1, 0x8, 1, 0x8, fun _ _ => [⟨(APG.X_IDX_VALUE b), .rw, false, false⟩]⟩,
  ⟨0x10220, 1, 0x8, 1, 0x8, fun _ _ => [⟨(APG.X_LIM_VALUE b), .rw, false, false⟩]⟩,
  ⟨0x10240, 1, 0x8, 1, 0x8, fun _ _ => [⟨(APG.Y_BASE_VALUE b), .rw, false, false⟩]⟩]

/-- Registers of APG by offset, part 1. -/
def APG.regTable1 (b : Nat) : List RegDesc := [
  ⟨0x10250, 1, 0x8, 1, 0x8, fun _ _ => [⟨(APG.Y_IDX_VALUE b), .rw, false, false⟩]⟩,
  ⟨0x10260, 1, 0x8, 1, 0x8, fun _ _ => [⟨(APG.Y_LIM_VALUE b), .rw, false, false⟩]⟩,
  ⟨0x10280, 1, 0x8, 1, 0x8, fun _ _ => [⟨(APG.Z_BASE_VALUE b), .rw, false, false⟩]⟩,
  ⟨0x10290, 1, 0x8, 1, 0x8, fun _ _ => [⟨(APG.Z_IDX_VALUE b), .rw, false, false⟩]⟩,
  ⟨0x102A0, 1, 0x8, 1, 0x8, fun _ _ => [⟨(APG.Z_LIM_VALUE b), .rw, false, false⟩]⟩,
  ⟨0x102C0, 1, 0x8, 1, 0x8, fun _ _ => [⟨(APG.X_SAVE_VALUE b), .rw, false, false⟩]⟩,
  ⟨0x102D0, 1, 0x8, 1, 0x8, fun _ _ => [⟨(APG.Y_SAVE_VALUE b), .rw, false, false⟩]⟩,
  ⟨0x102E0, 1, 0x8, 1, 0x8, fun _ _ => [⟨(APG.Z_SAVE_VALUE b), .rw, false, false⟩]⟩,
  ⟨0x10380, 1, 0x8, 1, 0x8, fun _ _ => [⟨(APG.DPTR_VALUE b), .rw, false, false⟩]⟩,
  ⟨0x10390, 1, 0x8, 1, 0x8, fun _ _ => [⟨(APG.DBASE_VALUE b), .rw, false, false⟩]⟩,
  ⟨0x103A0, 1, 0x8, 1, 0x8, fun _ _ => [⟨(APG.DLIM_VALUE b), .rw, false, false⟩]⟩,
  ⟨0x103C0, 1, 0x8, 1, 0x8, fun _ _ => [⟨(APG.TMASK_VALUE b), .rw, false, false⟩]⟩]

/-- Registers of APG by offset, part 2. -/
def APG.regTable2 (b : Nat) : List RegDesc := [
  ⟨0x10300, 4, 0x10, 1, 0x8, fun n _ => [⟨(APG.BG_LO_VALUE b n), .rw, false, false⟩]⟩,
  ⟨0x10308, 4, 0x10, 1, 0x8, fun n _ => [⟨(APG.BG_HI_VALUE b n), .rw, false, false⟩]⟩]

/-- Registers of APG by offset. -/
def APG.regTable (b : Nat) : List RegDesc :=
  APG.regTable0 b ++ APG.regTable1 b ++ APG.regTable2 b

/-! ### FAB (spec/10_fabric_and_planes.md) -/

/-! FAB.CMD, offset 0x20000 (R270). -/
abbrev FAB.CMD_OP (b : Nat) : Fld := ⟨blockBase b + 0x20000, 0, 4, 0⟩

/-! FAB.STATUS, offset 0x20008 (R270). -/
abbrev FAB.STATUS_ACTIVE (b : Nat) : Fld := ⟨blockBase b + 0x20008, 0, 1, 0⟩
abbrev FAB.STATUS_RUN (b : Nat) : Fld := ⟨blockBase b + 0x20008, 1, 1, 0⟩
abbrev FAB.STATUS_ARMED (b : Nat) : Fld := ⟨blockBase b + 0x20008, 2, 1, 0⟩
abbrev FAB.STATUS_SWAP_WAIT (b : Nat) : Fld := ⟨blockBase b + 0x20008, 3, 1, 0⟩
abbrev FAB.STATUS_OVERCLK (b : Nat) : Fld := ⟨blockBase b + 0x20008, 4, 1, 0⟩
abbrev FAB.STATUS_PLANE_ERR (b : Nat) : Fld := ⟨blockBase b + 0x20008, 5, 1, 0⟩
abbrev FAB.STATUS_UNCONF (b : Nat) : Fld := ⟨blockBase b + 0x20008, 6, 1, 0⟩
abbrev FAB.STATUS_BUSY (b : Nat) : Fld := ⟨blockBase b + 0x20008, 7, 1, 0⟩
abbrev FAB.STATUS_WR_IGN (b : Nat) : Fld := ⟨blockBase b + 0x20008, 8, 1, 0⟩
abbrev FAB.STATUS_IGN_WHY (b : Nat) : Fld := ⟨blockBase b + 0x20008, 12, 4, 0⟩

/-! FAB.PLANE, offset 0x20010 (R270). -/
abbrev FAB.PLANE_STATE (b p : Nat) : Fld := ⟨blockBase b + 0x20010 + 0x8 * p, 0, 2, 0⟩
abbrev FAB.PLANE_BOOT (b p : Nat) : Fld := ⟨blockBase b + 0x20010 + 0x8 * p, 2, 1, 0⟩
abbrev FAB.PLANE_XO (b p : Nat) : Fld := ⟨blockBase b + 0x20010 + 0x8 * p, 3, 1, 0⟩
abbrev FAB.PLANE_MSLOT (b p : Nat) : Fld := ⟨blockBase b + 0x20010 + 0x8 * p, 8, 4, 0⟩
abbrev FAB.PLANE_TILE_USED (b p : Nat) : Fld := ⟨blockBase b + 0x20010 + 0x8 * p, 16, 8, 0⟩
abbrev FAB.PLANE_GEN (b p : Nat) : Fld := ⟨blockBase b + 0x20010 + 0x8 * p, 32, 32, 0⟩

/-! FAB.PIMG, offset 0x20020 (R270). -/
abbrev FAB.PIMG_IMAGE_ID (b p : Nat) : Fld := ⟨blockBase b + 0x20020 + 0x8 * p, 0, 64, 0⟩

/-! FAB.FMAX, offset 0x20030 (R270). -/
abbrev FAB.FMAX_IMG_KHZ (b : Nat) : Fld := ⟨blockBase b + 0x20030, 0, 32, 0⟩
abbrev FAB.FMAX_FCLK_KHZ (b : Nat) : Fld := ⟨blockBase b + 0x20030, 32, 32, 0⟩

/-! FAB.PW_SRC, offset 0x20040 (R270). -/
abbrev FAB.PW_SRC_ADDR (b : Nat) : Fld := ⟨blockBase b + 0x20040, 4, 44, 0⟩

/-! FAB.PW_LEN, offset 0x20048 (R270). -/
abbrev FAB.PW_LEN_WORDS (b : Nat) : Fld := ⟨blockBase b + 0x20048, 0, 16, 0⟩

/-! FAB.PW_CTRL, offset 0x20050 (R270). -/
abbrev FAB.PW_CTRL_RATE (b : Nat) : Fld := ⟨blockBase b + 0x20050, 0, 8, 64⟩
abbrev FAB.PW_CTRL_MSLOT (b : Nat) : Fld := ⟨blockBase b + 0x20050, 12, 4, 0⟩

/-! FAB.PW_STATUS, offset 0x20058 (R270). -/
abbrev FAB.PW_STATUS_BUSY (b : Nat) : Fld := ⟨blockBase b + 0x20058, 0, 1, 0⟩
abbrev FAB.PW_STATUS_RESULT (b : Nat) : Fld := ⟨blockBase b + 0x20058, 4, 4, 0⟩
abbrev FAB.PW_STATUS_FA (b : Nat) : Fld := ⟨blockBase b + 0x20058, 16, 11, 0⟩
abbrev FAB.PW_STATUS_FRAMES (b : Nat) : Fld := ⟨blockBase b + 0x20058, 32, 12, 0⟩

/-! FAB.PW_DIG, offset 0x20060 (R270). -/
abbrev FAB.PW_DIG_DIG (b n : Nat) : Fld := ⟨blockBase b + 0x20060 + 0x8 * n, 0, 64, 0⟩

/-! FAB.LATCH, offset 0x20090 (R270). -/
abbrev FAB.LATCH_CORR (b : Nat) : Fld := ⟨blockBase b + 0x20090, 0, 32, 0⟩
abbrev FAB.LATCH_UNCORR (b : Nat) : Fld := ⟨blockBase b + 0x20090, 32, 16, 0⟩
abbrev FAB.LATCH_LAST_FA (b : Nat) : Fld := ⟨blockBase b + 0x20090, 48, 11, 0⟩

/-! FAB.SCAN, offset 0x20098 (R270). -/
abbrev FAB.SCAN_PASSES (b : Nat) : Fld := ⟨blockBase b + 0x20098, 0, 48, 0⟩

/-! FAB.TILE, offset 0x20100 (R270). -/
abbrev FAB.TILE_QLEVEL (b t : Nat) : Fld := ⟨blockBase b + 0x20100 + 0x8 * t, 0, 5, 0⟩
abbrev FAB.TILE_TAP_LOST (b t : Nat) : Fld := ⟨blockBase b + 0x20100 + 0x8 * t, 5, 1, 0⟩
abbrev FAB.TILE_XO_HIT (b t : Nat) : Fld := ⟨blockBase b + 0x20100 + 0x8 * t, 6, 1, 0⟩
abbrev FAB.TILE_RING_HIT (b t : Nat) : Fld := ⟨blockBase b + 0x20100 + 0x8 * t, 7, 1, 0⟩
abbrev FAB.TILE_TAP_DROP (b t : Nat) : Fld := ⟨blockBase b + 0x20100 + 0x8 * t, 16, 32, 0⟩

/-- Registers of FAB by offset, part 0. -/
def FAB.regTable0 (b : Nat) : List RegDesc := [
  ⟨0x20000, 1, 0x8, 1, 0x8, fun _ _ => [⟨(FAB.CMD_OP b), .wo, false, false⟩]⟩,
  ⟨0x20008, 1, 0x8, 1, 0x8, fun _ _ => [⟨(FAB.STATUS_ACTIVE b), .ro, false, false⟩, ⟨(FAB.STATUS_RUN b), .ro, false, false⟩, ⟨(FAB.STATUS_ARMED b), .ro, false, false⟩, ⟨(FAB.STATUS_SWAP_WAIT b), .ro, false, false⟩, ⟨(FAB.STATUS_OVERCLK b), .ro, false, false⟩, ⟨(FAB.STATUS_PLANE_ERR b), .w1c, false, false⟩, ⟨(FAB.STATUS_UNCONF b), .ro, false, false⟩, ⟨(FAB.STATUS_BUSY b), .ro, false, false⟩, ⟨(FAB.STATUS_WR_IGN b), .w1c, false, false⟩, ⟨(FAB.STATUS_IGN_WHY b), .ro, false, false⟩]⟩,
  ⟨0x20010, 2, 0x8, 1, 0x8, fun p _ => [⟨(FAB.PLANE_STATE b p), .ro, false, false⟩, ⟨(FAB.PLANE_BOOT b p), .ro, false, false⟩, ⟨(FAB.PLANE_XO b p), .ro, false, false⟩, ⟨(FAB.PLANE_MSLOT b p), .ro, false, false⟩, ⟨(FAB.PLANE_TILE_USED b p), .ro, false, false⟩, ⟨(FAB.PLANE_GEN b p), .ro, false, false⟩]⟩,
  ⟨0x20020, 2, 0x8, 1, 0x8, fun p _ => [⟨(FAB.PIMG_IMAGE_ID b p), .ro, false, false⟩]⟩,
  ⟨0x20030, 1, 0x8, 1, 0x8, fun _ _ => [⟨(FAB.FMAX_IMG_KHZ b), .ro, false, false⟩, ⟨(FAB.FMAX_FCLK_KHZ b), .ro, false, false⟩]⟩,
  ⟨0x20040, 1, 0x8, 1, 0x8, fun _ _ => [⟨(FAB.PW_SRC_ADDR b), .rw, false, true⟩]⟩,
  ⟨0x20048, 1, 0x8, 1, 0x8, fun _ _ => [⟨(FAB.PW_LEN_WORDS b), .rw, false, true⟩]⟩,
  ⟨0x20050, 1, 0x8, 1, 0x8, fun _ _ => [⟨(FAB.PW_CTRL_RATE b), .rw, false, false⟩, ⟨(FAB.PW_CTRL_MSLOT b), .rw, false, true⟩]⟩,
  ⟨0x20058, 1, 0x8, 1, 0x8, fun _ _ => [⟨(FAB.PW_STATUS_BUSY b), .ro, false, false⟩, ⟨(FAB.PW_STATUS_RESULT b), .ro, false, false⟩, ⟨(FAB.PW_STATUS_FA b), .ro, false, false⟩, ⟨(FAB.PW_STATUS_FRAMES b), .ro, false, false⟩]⟩,
  ⟨0x20060, 6, 0x8, 1, 0x8, fun n _ => [⟨(FAB.PW_DIG_DIG b n), .wo, false, true⟩]⟩,
  ⟨0x20090, 1, 0x8, 1, 0x8, fun _ _ => [⟨(FAB.LATCH_CORR b), .rc, false, false⟩, ⟨(FAB.LATCH_UNCORR b), .rc, false, false⟩, ⟨(FAB.LATCH_LAST_FA b), .ro, false, false⟩]⟩,
  ⟨0x20098, 1, 0x8, 1, 0x8, fun _ _ => [⟨(FAB.SCAN_PASSES b), .ro, false, false⟩]⟩]

/-- Registers of FAB by offset, part 1. -/
def FAB.regTable1 (b : Nat) : List RegDesc := [
  ⟨0x20100, 8, 0x8, 1, 0x8, fun t _ => [⟨(FAB.TILE_QLEVEL b t), .ro, false, false⟩, ⟨(FAB.TILE_TAP_LOST b t), .w1c, false, false⟩, ⟨(FAB.TILE_XO_HIT b t), .w1c, false, false⟩, ⟨(FAB.TILE_RING_HIT b t), .w1c, false, false⟩, ⟨(FAB.TILE_TAP_DROP b t), .rc, false, false⟩]⟩]

/-- Registers of FAB by offset. -/
def FAB.regTable (b : Nat) : List RegDesc :=
  FAB.regTable0 b ++ FAB.regTable1 b

/-! ### DEP (spec/11_memories_and_ddr5.md) -/

/-! DEP.ECC, offset 0x30000 (R292). -/
abbrev DEP.ECC_CORR (b : Nat) : Fld := ⟨blockBase b + 0x30000, 0, 32, 0⟩
abbrev DEP.ECC_UNCORR (b : Nat) : Fld := ⟨blockBase b + 0x30000, 32, 32, 0⟩

/-! DEP.ECC_ADDR, offset 0x30008 (R292). -/
abbrev DEP.ECC_ADDR_ADDR (b : Nat) : Fld := ⟨blockBase b + 0x30008, 0, 16, 0⟩
abbrev DEP.ECC_ADDR_APG (b : Nat) : Fld := ⟨blockBase b + 0x30008, 16, 1, 0⟩
abbrev DEP.ECC_ADDR_VALID (b : Nat) : Fld := ⟨blockBase b + 0x30008, 17, 1, 0⟩

/-! DEP.RAW, offset 0x30010 (R292). -/
abbrev DEP.RAW_BYPASS (b : Nat) : Fld := ⟨blockBase b + 0x30010, 0, 1, 0⟩

/-- Registers of DEP by offset, part 0. -/
def DEP.regTable0 (b : Nat) : List RegDesc := [
  ⟨0x30000, 1, 0x8, 1, 0x8, fun _ _ => [⟨(DEP.ECC_CORR b), .rc, false, false⟩, ⟨(DEP.ECC_UNCORR b), .rc, false, false⟩]⟩,
  ⟨0x30008, 1, 0x8, 1, 0x8, fun _ _ => [⟨(DEP.ECC_ADDR_ADDR b), .ro, false, false⟩, ⟨(DEP.ECC_ADDR_APG b), .ro, false, false⟩, ⟨(DEP.ECC_ADDR_VALID b), .w1c, false, false⟩]⟩,
  ⟨0x30010, 1, 0x8, 1, 0x8, fun _ _ => [⟨(DEP.RAW_BYPASS b), .rw, false, false⟩]⟩]

/-- Registers of DEP by offset. -/
def DEP.regTable (b : Nat) : List RegDesc :=
  DEP.regTable0 b

end Sys2Proof.Machine
end

