-- ==== Sys2Proof/Machine/RegsCell.lean ====
section
/-! DEFINITION. The register fields of one cell: CEL, SEQ, PIN and TIM. -/

namespace Sys2Proof.Machine

/-! ### CEL (spec/03_sequencer_operation.md) -/

/-! CEL.ID, offset 0x0 (R102). -/
abbrev CEL.ID_CELL (c : Nat) : Fld := ⟨cellBase c + 0x0, 0, 8, c⟩
abbrev CEL.ID_BLOCK (c : Nat) : Fld := ⟨cellBase c + 0x0, 8, 5, (c / 8)⟩
abbrev CEL.ID_REGION (c : Nat) : Fld := ⟨cellBase c + 0x0, 16, 2, (c / 64)⟩
abbrev CEL.ID_INDEX (c : Nat) : Fld := ⟨cellBase c + 0x0, 20, 3, (c % 8)⟩

/-! CEL.CARAVAN, offset 0x8 (R102). -/
abbrev CEL.CARAVAN_CID (c : Nat) : Fld := ⟨cellBase c + 0x8, 0, 8, 0⟩
abbrev CEL.CARAVAN_SITE (c : Nat) : Fld := ⟨cellBase c + 0x8, 8, 8, 0⟩
abbrev CEL.CARAVAN_EN (c : Nat) : Fld := ⟨cellBase c + 0x8, 16, 1, 0⟩
abbrev CEL.CARAVAN_LEAD (c : Nat) : Fld := ⟨cellBase c + 0x8, 24, 8, c⟩
abbrev CEL.CARAVAN_IS_LEAD (c : Nat) : Fld := ⟨cellBase c + 0x8, 32, 1, 1⟩
abbrev CEL.CARAVAN_SPAN (c : Nat) : Fld := ⟨cellBase c + 0x8, 33, 1, 0⟩
abbrev CEL.CARAVAN_MEMBERS (c : Nat) : Fld := ⟨cellBase c + 0x8, 40, 7, 1⟩

/-! CEL.ECC, offset 0x10 (R102). -/
abbrev CEL.ECC_CORR (c : Nat) : Fld := ⟨cellBase c + 0x10, 0, 32, 0⟩
abbrev CEL.ECC_UNCORR (c : Nat) : Fld := ⟨cellBase c + 0x10, 32, 32, 0⟩

/-! CEL.ECC_ADDR, offset 0x18 (R102). -/
abbrev CEL.ECC_ADDR_ADDR (c : Nat) : Fld := ⟨cellBase c + 0x18, 0, 13, 0⟩
abbrev CEL.ECC_ADDR_PORT (c : Nat) : Fld := ⟨cellBase c + 0x18, 16, 1, 0⟩
abbrev CEL.ECC_ADDR_VALID (c : Nat) : Fld := ⟨cellBase c + 0x18, 17, 1, 0⟩

/-! CEL.COLLIDE, offset 0x20 (R102). -/
abbrev CEL.COLLIDE_COLLIDE (c : Nat) : Fld := ⟨cellBase c + 0x20, 0, 1, 0⟩
abbrev CEL.COLLIDE_A_BUSY (c : Nat) : Fld := ⟨cellBase c + 0x20, 1, 1, 0⟩
abbrev CEL.COLLIDE_COUNT (c : Nat) : Fld := ⟨cellBase c + 0x20, 32, 32, 0⟩

/-! CEL.RAW, offset 0x28 (R102). -/
abbrev CEL.RAW_BYPASS (c : Nat) : Fld := ⟨cellBase c + 0x28, 0, 1, 0⟩

/-! CEL.FQ, offset 0x30 (R102). -/
abbrev CEL.FQ_LEVEL (c : Nat) : Fld := ⟨cellBase c + 0x30, 0, 9, 0⟩
abbrev CEL.FQ_DROPS (c : Nat) : Fld := ⟨cellBase c + 0x30, 32, 32, 0⟩

/-! CEL.XOW, offset 0x40 (R102). -/
abbrev CEL.XOW_BASE (c n : Nat) : Fld := ⟨cellBase c + 0x40 + 0x8 * n, 0, 13, 0⟩
abbrev CEL.XOW_LIMIT (c n : Nat) : Fld := ⟨cellBase c + 0x40 + 0x8 * n, 16, 13, 0⟩
abbrev CEL.XOW_VALID (c n : Nat) : Fld := ⟨cellBase c + 0x40 + 0x8 * n, 32, 1, 0⟩
abbrev CEL.XOW_SYS (c n : Nat) : Fld := ⟨cellBase c + 0x40 + 0x8 * n, 33, 1, 0⟩
abbrev CEL.XOW_MSLOT (c n : Nat) : Fld := ⟨cellBase c + 0x40 + 0x8 * n, 36, 4, 0⟩

/-- Registers of CEL by offset, part 0. -/
def CEL.regTable0 (c : Nat) : List RegDesc := [
  ⟨0x0, 1, 0x8, 1, 0x8, fun _ _ => [⟨(CEL.ID_CELL c), .ro, false, false⟩, ⟨(CEL.ID_BLOCK c), .ro, false, false⟩, ⟨(CEL.ID_REGION c), .ro, false, false⟩, ⟨(CEL.ID_INDEX c), .ro, false, false⟩]⟩,
  ⟨0x8, 1, 0x8, 1, 0x8, fun _ _ => [⟨(CEL.CARAVAN_CID c), .rw, true, false⟩, ⟨(CEL.CARAVAN_SITE c), .rw, true, false⟩, ⟨(CEL.CARAVAN_EN c), .rw, true, false⟩, ⟨(CEL.CARAVAN_LEAD c), .ro, false, false⟩, ⟨(CEL.CARAVAN_IS_LEAD c), .ro, false, false⟩, ⟨(CEL.CARAVAN_SPAN c), .ro, false, false⟩, ⟨(CEL.CARAVAN_MEMBERS c), .ro, false, false⟩]⟩,
  ⟨0x10, 1, 0x8, 1, 0x8, fun _ _ => [⟨(CEL.ECC_CORR c), .rc, false, false⟩, ⟨(CEL.ECC_UNCORR c), .rc, false, false⟩]⟩,
  ⟨0x18, 1, 0x8, 1, 0x8, fun _ _ => [⟨(CEL.ECC_ADDR_ADDR c), .ro, false, false⟩, ⟨(CEL.ECC_ADDR_PORT c), .ro, false, false⟩, ⟨(CEL.ECC_ADDR_VALID c), .w1c, false, false⟩]⟩,
  ⟨0x20, 1, 0x8, 1, 0x8, fun _ _ => [⟨(CEL.COLLIDE_COLLIDE c), .w1c, false, false⟩, ⟨(CEL.COLLIDE_A_BUSY c), .ro, false, false⟩, ⟨(CEL.COLLIDE_COUNT c), .rc, false, false⟩]⟩,
  ⟨0x28, 1, 0x8, 1, 0x8, fun _ _ => [⟨(CEL.RAW_BYPASS c), .rw, false, false⟩]⟩,
  ⟨0x30, 1, 0x8, 1, 0x8, fun _ _ => [⟨(CEL.FQ_LEVEL c), .ro, false, false⟩, ⟨(CEL.FQ_DROPS c), .ro, false, false⟩]⟩,
  ⟨0x40, 4, 0x8, 1, 0x8, fun n _ => [⟨(CEL.XOW_BASE c n), .ro, false, false⟩, ⟨(CEL.XOW_LIMIT c n), .ro, false, false⟩, ⟨(CEL.XOW_VALID c n), .ro, false, false⟩, ⟨(CEL.XOW_SYS c n), .ro, false, false⟩, ⟨(CEL.XOW_MSLOT c n), .ro, false, false⟩]⟩]

/-- Registers of CEL by offset. -/
def CEL.regTable (c : Nat) : List RegDesc :=
  CEL.regTable0 c

/-! ### SEQ (spec/03_sequencer_operation.md) -/

/-! SEQ.CMD, offset 0x1000 (R102). -/
abbrev SEQ.CMD_OP (c : Nat) : Fld := ⟨cellBase c + 0x1000, 0, 4, 0⟩
abbrev SEQ.CMD_DESC (c : Nat) : Fld := ⟨cellBase c + 0x1000, 4, 2, 0⟩
abbrev SEQ.CMD_CONVOY (c : Nat) : Fld := ⟨cellBase c + 0x1000, 8, 1, 0⟩

/-! SEQ.CMD_STATUS, offset 0x1008 (R102). -/
abbrev SEQ.CMD_STATUS_STATUS (c : Nat) : Fld := ⟨cellBase c + 0x1008, 0, 8, 0⟩
abbrev SEQ.CMD_STATUS_OP (c : Nat) : Fld := ⟨cellBase c + 0x1008, 8, 4, 0⟩
abbrev SEQ.CMD_STATUS_PEND (c : Nat) : Fld := ⟨cellBase c + 0x1008, 16, 1, 0⟩

/-! SEQ.CFG, offset 0x1010 (R102). -/
abbrev SEQ.CFG_STRIDE_UI (c : Nat) : Fld := ⟨cellBase c + 0x1010, 0, 4, 8⟩
abbrev SEQ.CFG_FRZ_BRK (c : Nat) : Fld := ⟨cellBase c + 0x1010, 4, 1, 0⟩

/-! SEQ.CTRL, offset 0x1018 (R102). -/
abbrev SEQ.CTRL_SERVICE (c : Nat) : Fld := ⟨cellBase c + 0x1018, 0, 1, 0⟩

/-! SEQ.STATUS, offset 0x1020 (R102). -/
abbrev SEQ.STATUS_STATE (c : Nat) : Fld := ⟨cellBase c + 0x1020, 0, 3, 0⟩
abbrev SEQ.STATUS_STREAMING (c : Nat) : Fld := ⟨cellBase c + 0x1020, 3, 1, 0⟩
abbrev SEQ.STATUS_SHORT (c : Nat) : Fld := ⟨cellBase c + 0x1020, 4, 1, 0⟩
abbrev SEQ.STATUS_RING_LOW (c : Nat) : Fld := ⟨cellBase c + 0x1020, 5, 1, 0⟩
abbrev SEQ.STATUS_HALT_PEND (c : Nat) : Fld := ⟨cellBase c + 0x1020, 6, 1, 0⟩
abbrev SEQ.STATUS_FAB_EMPTY (c : Nat) : Fld := ⟨cellBase c + 0x1020, 7, 1, 0⟩
abbrev SEQ.STATUS_EVQ_DROP (c : Nat) : Fld := ⟨cellBase c + 0x1020, 8, 1, 0⟩
abbrev SEQ.STATUS_WR_IGN (c : Nat) : Fld := ⟨cellBase c + 0x1020, 9, 1, 0⟩
abbrev SEQ.STATUS_VOID (c : Nat) : Fld := ⟨cellBase c + 0x1020, 10, 1, 0⟩
abbrev SEQ.STATUS_FAILS (c : Nat) : Fld := ⟨cellBase c + 0x1020, 11, 1, 0⟩
abbrev SEQ.STATUS_BFAILS (c : Nat) : Fld := ⟨cellBase c + 0x1020, 12, 1, 0⟩
abbrev SEQ.STATUS_MATCH (c : Nat) : Fld := ⟨cellBase c + 0x1020, 13, 1, 0⟩
abbrev SEQ.STATUS_MTO (c : Nat) : Fld := ⟨cellBase c + 0x1020, 14, 1, 0⟩
abbrev SEQ.STATUS_EQ (c : Nat) : Fld := ⟨cellBase c + 0x1020, 15, 1, 0⟩
abbrev SEQ.STATUS_LT (c : Nat) : Fld := ⟨cellBase c + 0x1020, 16, 1, 0⟩
abbrev SEQ.STATUS_EVT (c : Nat) : Fld := ⟨cellBase c + 0x1020, 17, 1, 0⟩
abbrev SEQ.STATUS_IN_XO (c : Nat) : Fld := ⟨cellBase c + 0x1020, 18, 1, 0⟩
abbrev SEQ.STATUS_ABORTED (c : Nat) : Fld := ⟨cellBase c + 0x1020, 19, 1, 0⟩
abbrev SEQ.STATUS_CAUSE (c : Nat) : Fld := ⟨cellBase c + 0x1020, 32, 8, 0⟩
abbrev SEQ.STATUS_HCODE (c : Nat) : Fld := ⟨cellBase c + 0x1020, 40, 8, 0⟩
abbrev SEQ.STATUS_ORIGIN (c : Nat) : Fld := ⟨cellBase c + 0x1020, 48, 8, 0⟩
abbrev SEQ.STATUS_CCAUSE (c : Nat) : Fld := ⟨cellBase c + 0x1020, 56, 8, 0⟩

/-! SEQ.PC, offset 0x1028 (R102). -/
abbrev SEQ.PC_PC (c : Nat) : Fld := ⟨cellBase c + 0x1028, 0, 13, 0⟩

/-! SEQ.START_PC, offset 0x1030 (R102). -/
abbrev SEQ.START_PC_ADDR (c : Nat) : Fld := ⟨cellBase c + 0x1030, 0, 13, 0⟩

/-! SEQ.NEXT_PC, offset 0x1038 (R102). -/
abbrev SEQ.NEXT_PC_ADDR (c : Nat) : Fld := ⟨cellBase c + 0x1038, 0, 13, 0⟩
abbrev SEQ.NEXT_PC_ARMED (c : Nat) : Fld := ⟨cellBase c + 0x1038, 63, 1, 0⟩

/-! SEQ.SC, offset 0x1040 (R102). -/
abbrev SEQ.SC_SC (c : Nat) : Fld := ⟨cellBase c + 0x1040, 0, 48, 0⟩

/-! SEQ.SC_LIMIT, offset 0x1048 (R102). -/
abbrev SEQ.SC_LIMIT_LIMIT (c : Nat) : Fld := ⟨cellBase c + 0x1048, 0, 48, 0⟩
abbrev SEQ.SC_LIMIT_EN (c : Nat) : Fld := ⟨cellBase c + 0x1048, 63, 1, 0⟩

/-! SEQ.BKPT, offset 0x1050 (R102). -/
abbrev SEQ.BKPT_ADDR (c n : Nat) : Fld := ⟨cellBase c + 0x1050 + 0x8 * n, 0, 13, 0⟩
abbrev SEQ.BKPT_EN (c n : Nat) : Fld := ⟨cellBase c + 0x1050 + 0x8 * n, 63, 1, 0⟩

/-! SEQ.EVT, offset 0x1060 (R102). -/
abbrev SEQ.EVT_SET (c : Nat) : Fld := ⟨cellBase c + 0x1060, 0, 1, 0⟩

/-! SEQ.EVQ, offset 0x1068 (R102). -/
abbrev SEQ.EVQ_CODE (c : Nat) : Fld := ⟨cellBase c + 0x1068, 0, 16, 0⟩
abbrev SEQ.EVQ_LEVEL (c : Nat) : Fld := ⟨cellBase c + 0x1068, 16, 4, 0⟩
abbrev SEQ.EVQ_VALID (c : Nat) : Fld := ⟨cellBase c + 0x1068, 31, 1, 0⟩

/-! SEQ.EVQ_DROP, offset 0x1070 (R102). -/
abbrev SEQ.EVQ_DROP_COUNT (c : Nat) : Fld := ⟨cellBase c + 0x1070, 0, 16, 0⟩

/-! SEQ.FAIL_THRESH, offset 0x1078 (R102). -/
abbrev SEQ.FAIL_THRESH_THRESH (c : Nat) : Fld := ⟨cellBase c + 0x1078, 0, 32, 0⟩

/-! SEQ.FAIL_COUNT, offset 0x1080 (R102). -/
abbrev SEQ.FAIL_COUNT_COUNT (c : Nat) : Fld := ⟨cellBase c + 0x1080, 0, 32, 0⟩

/-! SEQ.VOID, offset 0x1088 (R102). -/
abbrev SEQ.VOID_VOID (c : Nat) : Fld := ⟨cellBase c + 0x1088, 0, 1, 0⟩
abbrev SEQ.VOID_FIRST (c : Nat) : Fld := ⟨cellBase c + 0x1088, 8, 4, 0⟩
abbrev SEQ.VOID_REASON (c : Nat) : Fld := ⟨cellBase c + 0x1088, 16, 8, 0⟩
abbrev SEQ.VOID_COUNT (c : Nat) : Fld := ⟨cellBase c + 0x1088, 32, 16, 0⟩

/-! SEQ.REJECT, offset 0x1090 (R102). -/
abbrev SEQ.REJECT_COUNT (c : Nat) : Fld := ⟨cellBase c + 0x1090, 0, 32, 0⟩

/-! SEQ.LAST_REJECT, offset 0x1098 (R102). -/
abbrev SEQ.LAST_REJECT_CODE (c : Nat) : Fld := ⟨cellBase c + 0x1098, 0, 8, 0⟩
abbrev SEQ.LAST_REJECT_STATUS (c : Nat) : Fld := ⟨cellBase c + 0x1098, 8, 8, 0⟩
abbrev SEQ.LAST_REJECT_SRC (c : Nat) : Fld := ⟨cellBase c + 0x1098, 16, 1, 0⟩

/-! SEQ.LMODE, offset 0x10A0 (R102). -/
abbrev SEQ.LMODE_LMODE (c : Nat) : Fld := ⟨cellBase c + 0x10A0, 0, 4, 0⟩
abbrev SEQ.LMODE_ALT (c : Nat) : Fld := ⟨cellBase c + 0x10A0, 4, 4, 0⟩

/-! SEQ.RSP, offset 0x10A8 (R102). -/
abbrev SEQ.RSP_DEPTH (c : Nat) : Fld := ⟨cellBase c + 0x10A8, 0, 4, 0⟩

/-! SEQ.L, offset 0x10C0 (R102). -/
abbrev SEQ.L_COUNT (c n : Nat) : Fld := ⟨cellBase c + 0x10C0 + 0x8 * n, 0, 32, 0⟩
abbrev SEQ.L_TOP (c n : Nat) : Fld := ⟨cellBase c + 0x10C0 + 0x8 * n, 32, 13, 0⟩
abbrev SEQ.L_ACTIVE (c n : Nat) : Fld := ⟨cellBase c + 0x10C0 + 0x8 * n, 63, 1, 0⟩

/-! SEQ.RS, offset 0x10E0 (R102). -/
abbrev SEQ.RS_ADDR (c n : Nat) : Fld := ⟨cellBase c + 0x10E0 + 0x8 * n, 0, 13, 0⟩

/-! SEQ.G_LO, offset 0x1200 (R102). -/
abbrev SEQ.G_LO_LO (c n : Nat) : Fld := ⟨cellBase c + 0x1200 + 0x10 * n, 0, 64, 0⟩

/-! SEQ.G_HI, offset 0x1208 (R102). -/
abbrev SEQ.G_HI_HI (c n : Nat) : Fld := ⟨cellBase c + 0x1208 + 0x10 * n, 0, 8, 0⟩

/-! SEQ.RING, offset 0x1300 (R102). -/
abbrev SEQ.RING_EN (c : Nat) : Fld := ⟨cellBase c + 0x1300, 0, 1, 0⟩
abbrev SEQ.RING_HALF (c : Nat) : Fld := ⟨cellBase c + 0x1300, 1, 1, 1⟩
abbrev SEQ.RING_WARN_LEVEL (c : Nat) : Fld := ⟨cellBase c + 0x1300, 16, 13, 1024⟩
abbrev SEQ.RING_PAUSE_LEVEL (c : Nat) : Fld := ⟨cellBase c + 0x1300, 32, 13, 256⟩

/-! SEQ.RING_STATUS, offset 0x1308 (R102). -/
abbrev SEQ.RING_STATUS_LEVEL (c : Nat) : Fld := ⟨cellBase c + 0x1308, 0, 13, 0⟩
abbrev SEQ.RING_STATUS_RD (c : Nat) : Fld := ⟨cellBase c + 0x1308, 16, 12, 0⟩
abbrev SEQ.RING_STATUS_WR (c : Nat) : Fld := ⟨cellBase c + 0x1308, 32, 12, 0⟩
abbrev SEQ.RING_STATUS_HEAD_DESC (c : Nat) : Fld := ⟨cellBase c + 0x1308, 48, 2, 0⟩
abbrev SEQ.RING_STATUS_DMA_ACTIVE (c : Nat) : Fld := ⟨cellBase c + 0x1308, 50, 1, 0⟩
abbrev SEQ.RING_STATUS_DMA_DESC (c : Nat) : Fld := ⟨cellBase c + 0x1308, 52, 2, 0⟩

/-! SEQ.STREAM_LEFT, offset 0x1310 (R102). -/
abbrev SEQ.STREAM_LEFT_WORDS (c : Nat) : Fld := ⟨cellBase c + 0x1310, 0, 40, 0⟩

/-! SEQ.UNDERRUN, offset 0x1318 (R102). -/
abbrev SEQ.UNDERRUN_STRIDES (c : Nat) : Fld := ⟨cellBase c + 0x1318, 0, 32, 0⟩

/-! SEQ.SD_ADDR, offset 0x1340 (R102). -/
abbrev SEQ.SD_ADDR_ADDR (c n : Nat) : Fld := ⟨cellBase c + 0x1340 + 0x20 * n, 4, 44, 0⟩

/-! SEQ.SD_LEN, offset 0x1348 (R102). -/
abbrev SEQ.SD_LEN_LEN (c n : Nat) : Fld := ⟨cellBase c + 0x1348 + 0x20 * n, 0, 40, 0⟩

/-! SEQ.SD_CTRL, offset 0x1350 (R102). -/
abbrev SEQ.SD_CTRL_ARM (c n : Nat) : Fld := ⟨cellBase c + 0x1350 + 0x20 * n, 0, 1, 0⟩
abbrev SEQ.SD_CTRL_CHAIN_EN (c n : Nat) : Fld := ⟨cellBase c + 0x1350 + 0x20 * n, 1, 1, 0⟩
abbrev SEQ.SD_CTRL_CHAIN (c n : Nat) : Fld := ⟨cellBase c + 0x1350 + 0x20 * n, 2, 2, 0⟩
abbrev SEQ.SD_CTRL_ARMED (c n : Nat) : Fld := ⟨cellBase c + 0x1350 + 0x20 * n, 8, 1, 0⟩
abbrev SEQ.SD_CTRL_ACTIVE (c n : Nat) : Fld := ⟨cellBase c + 0x1350 + 0x20 * n, 9, 1, 0⟩
abbrev SEQ.SD_CTRL_ERR (c n : Nat) : Fld := ⟨cellBase c + 0x1350 + 0x20 * n, 10, 1, 0⟩

/-! SEQ.PSM, offset 0x1400 (R102). -/
abbrev SEQ.PSM_ENTRIES (c n : Nat) : Fld := ⟨cellBase c + 0x1400 + 0x8 * n, 0, 64, 0⟩

/-- Registers of SEQ by offset, part 0. -/
def SEQ.regTable0 (c : Nat) : List RegDesc := [
  ⟨0x1000, 1, 0x8, 1, 0x8, fun _ _ => [⟨(SEQ.CMD_OP c), .wo, false, false⟩, ⟨(SEQ.CMD_DESC c), .wo, false, false⟩, ⟨(SEQ.CMD_CONVOY c), .wo, false, false⟩]⟩,
  ⟨0x1008, 1, 0x8, 1, 0x8, fun _ _ => [⟨(SEQ.CMD_STATUS_STATUS c), .ro, false, false⟩, ⟨(SEQ.CMD_STATUS_OP c), .ro, false, false⟩, ⟨(SEQ.CMD_STATUS_PEND c), .ro, false, false⟩]⟩,
  ⟨0x1010, 1, 0x8, 1, 0x8, fun _ _ => [⟨(SEQ.CFG_STRIDE_UI c), .rw, true, false⟩, ⟨(SEQ.CFG_FRZ_BRK c), .rw, false, false⟩]⟩,
  ⟨0x1018, 1, 0x8, 1, 0x8, fun _ _ => [⟨(SEQ.CTRL_SERVICE c), .rw, true, false⟩]⟩,
  ⟨0x1020, 1, 0x8, 1, 0x8, fun _ _ => [⟨(SEQ.STATUS_STATE c), .ro, false, false⟩, ⟨(SEQ.STATUS_STREAMING c), .ro, false, false⟩, ⟨(SEQ.STATUS_SHORT c), .ro, false, false⟩, ⟨(SEQ.STATUS_RING_LOW c), .ro, false, false⟩, ⟨(SEQ.STATUS_HALT_PEND c), .w1c, false, false⟩, ⟨(SEQ.STATUS_FAB_EMPTY c), .w1c, false, false⟩, ⟨(SEQ.STATUS_EVQ_DROP c), .w1c, false, false⟩, ⟨(SEQ.STATUS_WR_IGN c), .w1c, false, false⟩, ⟨(SEQ.STATUS_VOID c), .ro, false, false⟩, ⟨(SEQ.STATUS_FAILS c), .ro, false, false⟩, ⟨(SEQ.STATUS_BFAILS c), .ro, false, false⟩, ⟨(SEQ.STATUS_MATCH c), .ro, false, false⟩, ⟨(SEQ.STATUS_MTO c), .ro, false, false⟩, ⟨(SEQ.STATUS_EQ c), .ro, false, false⟩, ⟨(SEQ.STATUS_LT c), .ro, false, false⟩, ⟨(SEQ.STATUS_EVT c), .ro, false, false⟩, ⟨(SEQ.STATUS_IN_XO c), .ro, false, false⟩, ⟨(SEQ.STATUS_ABORTED c), .ro, false, false⟩, ⟨(SEQ.STATUS_CAUSE c), .ro, false, false⟩, ⟨(SEQ.STATUS_HCODE c), .ro, false, false⟩, ⟨(SEQ.STATUS_ORIGIN c), .ro, false, false⟩, ⟨(SEQ.STATUS_CCAUSE c), .ro, false, false⟩]⟩,
  ⟨0x1028, 1, 0x8, 1, 0x8, fun _ _ => [⟨(SEQ.PC_PC c), .ro, false, false⟩]⟩,
  ⟨0x1030, 1, 0x8, 1, 0x8, fun _ _ => [⟨(SEQ.START_PC_ADDR c), .rw, false, false⟩]⟩,
  ⟨0x1038, 1, 0x8, 1, 0x8, fun _ _ => [⟨(SEQ.NEXT_PC_ADDR c), .rw, false, false⟩, ⟨(SEQ.NEXT_PC_ARMED c), .ro, false, false⟩]⟩,
  ⟨0x1040, 1, 0x8, 1, 0x8, fun _ _ => [⟨(SEQ.SC_SC c), .ro, false, false⟩]⟩,
  ⟨0x1048, 1, 0x8, 1, 0x8, fun _ _ => [⟨(SEQ.SC_LIMIT_LIMIT c), .rw, false, false⟩, ⟨(SEQ.SC_LIMIT_EN c), .rw, false, false⟩]⟩,
  ⟨0x1050, 2, 0x8, 1, 0x8, fun n _ => [⟨(SEQ.BKPT_ADDR c n), .rw, false, false⟩, ⟨(SEQ.BKPT_EN c n), .rw, false, false⟩]⟩,
  ⟨0x1060, 1, 0x8, 1, 0x8, fun _ _ => [⟨(SEQ.EVT_SET c), .wo, false, false⟩]⟩]

/-- Registers of SEQ by offset, part 1. -/
def SEQ.regTable1 (c : Nat) : List RegDesc := [
  ⟨0x1068, 1, 0x8, 1, 0x8, fun _ _ => [⟨(SEQ.EVQ_CODE c), .rc, false, false⟩, ⟨(SEQ.EVQ_LEVEL c), .rc, false, false⟩, ⟨(SEQ.EVQ_VALID c), .rc, false, false⟩]⟩,
  ⟨0x1070, 1, 0x8, 1, 0x8, fun _ _ => [⟨(SEQ.EVQ_DROP_COUNT c), .rc, false, false⟩]⟩,
  ⟨0x1078, 1, 0x8, 1, 0x8, fun _ _ => [⟨(SEQ.FAIL_THRESH_THRESH c), .rw, false, false⟩]⟩,
  ⟨0x1080, 1, 0x8, 1, 0x8, fun _ _ => [⟨(SEQ.FAIL_COUNT_COUNT c), .ro, false, false⟩]⟩,
  ⟨0x1088, 1, 0x8, 1, 0x8, fun _ _ => [⟨(SEQ.VOID_VOID c), .ro, false, false⟩, ⟨(SEQ.VOID_FIRST c), .ro, false, false⟩, ⟨(SEQ.VOID_REASON c), .ro, false, false⟩, ⟨(SEQ.VOID_COUNT c), .ro, false, false⟩]⟩,
  ⟨0x1090, 1, 0x8, 1, 0x8, fun _ _ => [⟨(SEQ.REJECT_COUNT c), .rc, false, false⟩]⟩,
  ⟨0x1098, 1, 0x8, 1, 0x8, fun _ _ => [⟨(SEQ.LAST_REJECT_CODE c), .ro, false, false⟩, ⟨(SEQ.LAST_REJECT_STATUS c), .ro, false, false⟩, ⟨(SEQ.LAST_REJECT_SRC c), .ro, false, false⟩]⟩,
  ⟨0x10A0, 1, 0x8, 1, 0x8, fun _ _ => [⟨(SEQ.LMODE_LMODE c), .rw, true, false⟩, ⟨(SEQ.LMODE_ALT c), .rw, true, false⟩]⟩,
  ⟨0x10A8, 1, 0x8, 1, 0x8, fun _ _ => [⟨(SEQ.RSP_DEPTH c), .ro, false, false⟩]⟩,
  ⟨0x10C0, 4, 0x8, 1, 0x8, fun n _ => [⟨(SEQ.L_COUNT c n), .ro, false, false⟩, ⟨(SEQ.L_TOP c n), .ro, false, false⟩, ⟨(SEQ.L_ACTIVE c n), .ro, false, false⟩]⟩,
  ⟨0x10E0, 8, 0x8, 1, 0x8, fun n _ => [⟨(SEQ.RS_ADDR c n), .ro, false, false⟩]⟩,
  ⟨0x1200, 8, 0x10, 1, 0x8, fun n _ => [⟨(SEQ.G_LO_LO c n), .rw, true, false⟩]⟩]

/-- Registers of SEQ by offset, part 2. -/
def SEQ.regTable2 (c : Nat) : List RegDesc := [
  ⟨0x1208, 8, 0x10, 1, 0x8, fun n _ => [⟨(SEQ.G_HI_HI c n), .rw, true, false⟩]⟩,
  ⟨0x1300, 1, 0x8, 1, 0x8, fun _ _ => [⟨(SEQ.RING_EN c), .rw, true, false⟩, ⟨(SEQ.RING_HALF c), .rw, true, false⟩, ⟨(SEQ.RING_WARN_LEVEL c), .rw, false, false⟩, ⟨(SEQ.RING_PAUSE_LEVEL c), .rw, false, false⟩]⟩,
  ⟨0x1308, 1, 0x8, 1, 0x8, fun _ _ => [⟨(SEQ.RING_STATUS_LEVEL c), .ro, false, false⟩, ⟨(SEQ.RING_STATUS_RD c), .ro, false, false⟩, ⟨(SEQ.RING_STATUS_WR c), .ro, false, false⟩, ⟨(SEQ.RING_STATUS_HEAD_DESC c), .ro, false, false⟩, ⟨(SEQ.RING_STATUS_DMA_ACTIVE c), .ro, false, false⟩, ⟨(SEQ.RING_STATUS_DMA_DESC c), .ro, false, false⟩]⟩,
  ⟨0x1310, 1, 0x8, 1, 0x8, fun _ _ => [⟨(SEQ.STREAM_LEFT_WORDS c), .ro, false, false⟩]⟩,
  ⟨0x1318, 1, 0x8, 1, 0x8, fun _ _ => [⟨(SEQ.UNDERRUN_STRIDES c), .ro, false, false⟩]⟩,
  ⟨0x1340, 4, 0x20, 1, 0x8, fun n _ => [⟨(SEQ.SD_ADDR_ADDR c n), .rw, false, false⟩]⟩,
  ⟨0x1348, 4, 0x20, 1, 0x8, fun n _ => [⟨(SEQ.SD_LEN_LEN c n), .rw, false, false⟩]⟩,
  ⟨0x1350, 4, 0x20, 1, 0x8, fun n _ => [⟨(SEQ.SD_CTRL_ARM c n), .w1s, false, false⟩, ⟨(SEQ.SD_CTRL_CHAIN_EN c n), .rw, false, false⟩, ⟨(SEQ.SD_CTRL_CHAIN c n), .rw, false, false⟩, ⟨(SEQ.SD_CTRL_ARMED c n), .ro, false, false⟩, ⟨(SEQ.SD_CTRL_ACTIVE c n), .ro, false, false⟩, ⟨(SEQ.SD_CTRL_ERR c n), .w1c, false, false⟩]⟩,
  ⟨0x1400, 64, 0x8, 1, 0x8, fun n _ => [⟨(SEQ.PSM_ENTRIES c n), .rw, false, false⟩]⟩]

/-- Registers of SEQ by offset. -/
def SEQ.regTable (c : Nat) : List RegDesc :=
  SEQ.regTable0 c ++ SEQ.regTable1 c ++ SEQ.regTable2 c

/-! ### PIN (spec/06_pin_electronics.md) -/

/-! PIN.STATUS, offset 0x4000 (R171). -/
abbrev PIN.STATUS_WR_IGN (c : Nat) : Fld := ⟨cellBase c + 0x4000, 0, 1, 0⟩

/-! PIN.DCHK_CFG, offset 0x4008 (R171). -/
abbrev PIN.DCHK_CFG_N (c : Nat) : Fld := ⟨cellBase c + 0x4008, 0, 8, 16⟩

/-! PIN.CTRL, offset 0x4040 (R171). -/
abbrev PIN.CTRL_EN (c n : Nat) : Fld := ⟨cellBase c + 0x4040 + 0x8 * n, 0, 1, 0⟩
abbrev PIN.CTRL_UNUSED (c n : Nat) : Fld := ⟨cellBase c + 0x4040 + 0x8 * n, 1, 1, 0⟩
abbrev PIN.CTRL_UNCAL (c n : Nat) : Fld := ⟨cellBase c + 0x4040 + 0x8 * n, 2, 1, 0⟩
abbrev PIN.CTRL_LSEL (c n : Nat) : Fld := ⟨cellBase c + 0x4040 + 0x8 * n, 3, 1, 0⟩
abbrev PIN.CTRL_TERM (c n : Nat) : Fld := ⟨cellBase c + 0x4040 + 0x8 * n, 4, 2, 0⟩
abbrev PIN.CTRL_STAT_EN (c n : Nat) : Fld := ⟨cellBase c + 0x4040 + 0x8 * n, 6, 1, 0⟩
abbrev PIN.CTRL_STAT (c n : Nat) : Fld := ⟨cellBase c + 0x4040 + 0x8 * n, 8, 2, 3⟩

/-! PIN.STATE, offset 0x4060 (R171). -/
abbrev PIN.STATE_SAFE (c n : Nat) : Fld := ⟨cellBase c + 0x4060 + 0x8 * n, 0, 1, 1⟩
abbrev PIN.STATE_SAFE_CAUSE (c n : Nat) : Fld := ⟨cellBase c + 0x4060 + 0x8 * n, 4, 4, 0⟩
abbrev PIN.STATE_LS_BUSY (c n : Nat) : Fld := ⟨cellBase c + 0x4060 + 0x8 * n, 8, 1, 0⟩
abbrev PIN.STATE_CH (c n : Nat) : Fld := ⟨cellBase c + 0x4060 + 0x8 * n, 9, 1, 0⟩
abbrev PIN.STATE_CL (c n : Nat) : Fld := ⟨cellBase c + 0x4060 + 0x8 * n, 10, 1, 0⟩
abbrev PIN.STATE_PPMU_ON (c n : Nat) : Fld := ⟨cellBase c + 0x4060 + 0x8 * n, 11, 1, 0⟩
abbrev PIN.STATE_CAL_SRC (c n : Nat) : Fld := ⟨cellBase c + 0x4060 + 0x8 * n, 12, 2, 0⟩
abbrev PIN.STATE_DCHK_ACT (c n : Nat) : Fld := ⟨cellBase c + 0x4060 + 0x8 * n, 14, 1, 0⟩

/-! PIN.LSA, offset 0x4100 (R171). -/
abbrev PIN.LSA_VIH (c n m : Nat) : Fld := ⟨cellBase c + 0x4100 + 0x20 * n + 0x10 * m, 0, 16, 5000⟩
abbrev PIN.LSA_VIL (c n m : Nat) : Fld := ⟨cellBase c + 0x4100 + 0x20 * n + 0x10 * m, 16, 16, 5000⟩
abbrev PIN.LSA_VOH (c n m : Nat) : Fld := ⟨cellBase c + 0x4100 + 0x20 * n + 0x10 * m, 32, 16, 5000⟩
abbrev PIN.LSA_VOL (c n m : Nat) : Fld := ⟨cellBase c + 0x4100 + 0x20 * n + 0x10 * m, 48, 16, 5000⟩

/-! PIN.LSB, offset 0x4108 (R171). -/
abbrev PIN.LSB_VTT (c n m : Nat) : Fld := ⟨cellBase c + 0x4108 + 0x20 * n + 0x10 * m, 0, 16, 5000⟩

/-! PIN.PMU, offset 0x4200 (R171). -/
abbrev PIN.PMU_MODE (c n : Nat) : Fld := ⟨cellBase c + 0x4200 + 0x8 * n, 0, 2, 0⟩
abbrev PIN.PMU_RANGE (c n : Nat) : Fld := ⟨cellBase c + 0x4200 + 0x8 * n, 2, 2, 0⟩
abbrev PIN.PMU_FORCE (c n : Nat) : Fld := ⟨cellBase c + 0x4200 + 0x8 * n, 16, 16, 0⟩
abbrev PIN.PMU_VCLH (c n : Nat) : Fld := ⟨cellBase c + 0x4200 + 0x8 * n, 32, 16, 41000⟩
abbrev PIN.PMU_VCLL (c n : Nat) : Fld := ⟨cellBase c + 0x4200 + 0x8 * n, 48, 16, 0⟩

/-! PIN.MEAS, offset 0x4240 (R171). -/
abbrev PIN.MEAS_GO (c n : Nat) : Fld := ⟨cellBase c + 0x4240 + 0x8 * n, 0, 1, 0⟩
abbrev PIN.MEAS_SRC (c n : Nat) : Fld := ⟨cellBase c + 0x4240 + 0x8 * n, 1, 1, 0⟩
abbrev PIN.MEAS_NAVG (c n : Nat) : Fld := ⟨cellBase c + 0x4240 + 0x8 * n, 2, 3, 0⟩
abbrev PIN.MEAS_DELAY (c n : Nat) : Fld := ⟨cellBase c + 0x4240 + 0x8 * n, 8, 8, 0⟩
abbrev PIN.MEAS_PEND (c n : Nat) : Fld := ⟨cellBase c + 0x4240 + 0x8 * n, 16, 1, 0⟩

/-! PIN.RESULT, offset 0x4260 (R171). -/
abbrev PIN.RESULT_VALUE (c n : Nat) : Fld := ⟨cellBase c + 0x4260 + 0x8 * n, 0, 32, 0⟩
abbrev PIN.RESULT_VALID (c n : Nat) : Fld := ⟨cellBase c + 0x4260 + 0x8 * n, 32, 1, 0⟩
abbrev PIN.RESULT_KIND (c n : Nat) : Fld := ⟨cellBase c + 0x4260 + 0x8 * n, 33, 1, 0⟩
abbrev PIN.RESULT_CLAMP (c n : Nat) : Fld := ⟨cellBase c + 0x4260 + 0x8 * n, 34, 1, 0⟩
abbrev PIN.RESULT_OVER (c n : Nat) : Fld := ⟨cellBase c + 0x4260 + 0x8 * n, 35, 1, 0⟩
abbrev PIN.RESULT_DISTURB (c n : Nat) : Fld := ⟨cellBase c + 0x4260 + 0x8 * n, 36, 1, 0⟩
abbrev PIN.RESULT_ABORTED (c n : Nat) : Fld := ⟨cellBase c + 0x4260 + 0x8 * n, 37, 1, 0⟩

/-! PIN.DCHK, offset 0x4280 (R171). -/
abbrev PIN.DCHK_MISMATCH (c n : Nat) : Fld := ⟨cellBase c + 0x4280 + 0x8 * n, 0, 32, 0⟩
abbrev PIN.DCHK_RUN (c n : Nat) : Fld := ⟨cellBase c + 0x4280 + 0x8 * n, 32, 8, 0⟩
abbrev PIN.DCHK_TRIP (c n : Nat) : Fld := ⟨cellBase c + 0x4280 + 0x8 * n, 40, 1, 0⟩

/-! PIN.TRIM, offset 0x4400 (R171). -/
abbrev PIN.TRIM_WORD (c n k : Nat) : Fld := ⟨cellBase c + 0x4400 + 0x40 * n + 0x8 * k, 0, 64, 0⟩

/-- Registers of PIN by offset, part 0. -/
def PIN.regTable0 (c : Nat) : List RegDesc := [
  ⟨0x4000, 1, 0x8, 1, 0x8, fun _ _ => [⟨(PIN.STATUS_WR_IGN c), .w1c, false, false⟩]⟩,
  ⟨0x4008, 1, 0x8, 1, 0x8, fun _ _ => [⟨(PIN.DCHK_CFG_N c), .rw, false, false⟩]⟩,
  ⟨0x4040, 4, 0x8, 1, 0x8, fun n _ => [⟨(PIN.CTRL_EN c n), .rw, false, false⟩, ⟨(PIN.CTRL_UNUSED c n), .rw, true, false⟩, ⟨(PIN.CTRL_UNCAL c n), .rw, false, false⟩, ⟨(PIN.CTRL_LSEL c n), .rw, false, false⟩, ⟨(PIN.CTRL_TERM c n), .rw, false, false⟩, ⟨(PIN.CTRL_STAT_EN c n), .rw, false, false⟩, ⟨(PIN.CTRL_STAT c n), .rw, false, false⟩]⟩,
  ⟨0x4060, 4, 0x8, 1, 0x8, fun n _ => [⟨(PIN.STATE_SAFE c n), .ro, false, false⟩, ⟨(PIN.STATE_SAFE_CAUSE c n), .ro, false, false⟩, ⟨(PIN.STATE_LS_BUSY c n), .ro, false, false⟩, ⟨(PIN.STATE_CH c n), .ro, false, false⟩, ⟨(PIN.STATE_CL c n), .ro, false, false⟩, ⟨(PIN.STATE_PPMU_ON c n), .ro, false, false⟩, ⟨(PIN.STATE_CAL_SRC c n), .ro, false, false⟩, ⟨(PIN.STATE_DCHK_ACT c n), .ro, false, false⟩]⟩,
  ⟨0x4100, 4, 0x20, 2, 0x10, fun n m => [⟨(PIN.LSA_VIH c n m), .rw, false, false⟩, ⟨(PIN.LSA_VIL c n m), .rw, false, false⟩, ⟨(PIN.LSA_VOH c n m), .rw, false, false⟩, ⟨(PIN.LSA_VOL c n m), .rw, false, false⟩]⟩,
  ⟨0x4108, 4, 0x20, 2, 0x10, fun n m => [⟨(PIN.LSB_VTT c n m), .rw, false, false⟩]⟩,
  ⟨0x4200, 4, 0x8, 1, 0x8, fun n _ => [⟨(PIN.PMU_MODE c n), .rw, false, false⟩, ⟨(PIN.PMU_RANGE c n), .rw, false, false⟩, ⟨(PIN.PMU_FORCE c n), .rw, false, false⟩, ⟨(PIN.PMU_VCLH c n), .rw, false, false⟩, ⟨(PIN.PMU_VCLL c n), .rw, false, false⟩]⟩,
  ⟨0x4240, 4, 0x8, 1, 0x8, fun n _ => [⟨(PIN.MEAS_GO c n), .w1s, false, false⟩, ⟨(PIN.MEAS_SRC c n), .rw, false, false⟩, ⟨(PIN.MEAS_NAVG c n), .rw, false, false⟩, ⟨(PIN.MEAS_DELAY c n), .rw, false, false⟩, ⟨(PIN.MEAS_PEND c n), .ro, false, false⟩]⟩,
  ⟨0x4260, 4, 0x8, 1, 0x8, fun n _ => [⟨(PIN.RESULT_VALUE c n), .ro, false, false⟩, ⟨(PIN.RESULT_VALID c n), .ro, false, false⟩, ⟨(PIN.RESULT_KIND c n), .ro, false, false⟩, ⟨(PIN.RESULT_CLAMP c n), .ro, false, false⟩, ⟨(PIN.RESULT_OVER c n), .ro, false, false⟩, ⟨(PIN.RESULT_DISTURB c n), .ro, false, false⟩, ⟨(PIN.RESULT_ABORTED c n), .ro, false, false⟩]⟩,
  ⟨0x4280, 4, 0x8, 1, 0x8, fun n _ => [⟨(PIN.DCHK_MISMATCH c n), .rc, false, false⟩, ⟨(PIN.DCHK_RUN c n), .ro, false, false⟩, ⟨(PIN.DCHK_TRIP c n), .w1c, false, false⟩]⟩,
  ⟨0x4400, 4, 0x40, 8, 0x8, fun n k => [⟨(PIN.TRIM_WORD c n k), .rw, false, false⟩]⟩]

/-- Registers of PIN by offset. -/
def PIN.regTable (c : Nat) : List RegDesc :=
  PIN.regTable0 c

/-! ### TIM (spec/08_edge_timing.md) -/

/-! TIM.STATUS, offset 0x8000 (R215). -/
abbrev TIM.STATUS_WR_IGN (c : Nat) : Fld := ⟨cellBase c + 0x8000, 0, 1, 0⟩
abbrev TIM.STATUS_CROWD (c : Nat) : Fld := ⟨cellBase c + 0x8000, 1, 1, 0⟩
abbrev TIM.STATUS_CLIP (c : Nat) : Fld := ⟨cellBase c + 0x8000, 2, 1, 0⟩
abbrev TIM.STATUS_OFS_CLIP (c : Nat) : Fld := ⟨cellBase c + 0x8000, 3, 1, 0⟩
abbrev TIM.STATUS_RSV (c : Nat) : Fld := ⟨cellBase c + 0x8000, 4, 1, 0⟩

/-! TIM.CROWD_CNT, offset 0x8008 (R215). -/
abbrev TIM.CROWD_CNT_COUNT (c : Nat) : Fld := ⟨cellBase c + 0x8008, 0, 32, 0⟩

/-! TIM.UI, offset 0x8010 (R215). -/
abbrev TIM.UI_UI (c : Nat) : Fld := ⟨cellBase c + 0x8010, 0, 20, 0⟩

/-! TIM.OFS, offset 0x8040 (R215). -/
abbrev TIM.OFS_DRV (c n : Nat) : Fld := ⟨cellBase c + 0x8040 + 0x8 * n, 0, 16, 0⟩
abbrev TIM.OFS_CMP (c n : Nat) : Fld := ⟨cellBase c + 0x8040 + 0x8 * n, 16, 16, 0⟩

/-! TIM.SLOT_W0, offset 0x8100 (R215). -/
abbrev TIM.SLOT_W0_WORD (c k : Nat) : Fld := ⟨cellBase c + 0x8100 + 0x10 * k, 0, 64, 0⟩

/-! TIM.SLOT_W1, offset 0x8108 (R215). -/
abbrev TIM.SLOT_W1_WORD (c k : Nat) : Fld := ⟨cellBase c + 0x8108 + 0x10 * k, 0, 64, 0⟩

/-! TIM.TAB_W0, offset 0x8400 (R215). -/
abbrev TIM.TAB_W0_WORD (c e : Nat) : Fld := ⟨cellBase c + 0x8400 + 0x10 * e, 0, 64, 0⟩

/-! TIM.TAB_W1, offset 0x8408 (R215). -/
abbrev TIM.TAB_W1_WORD (c e : Nat) : Fld := ⟨cellBase c + 0x8408 + 0x10 * e, 0, 64, 0⟩

/-- Registers of TIM by offset, part 0. -/
def TIM.regTable0 (c : Nat) : List RegDesc := [
  ⟨0x8000, 1, 0x8, 1, 0x8, fun _ _ => [⟨(TIM.STATUS_WR_IGN c), .w1c, false, false⟩, ⟨(TIM.STATUS_CROWD c), .w1c, false, false⟩, ⟨(TIM.STATUS_CLIP c), .w1c, false, false⟩, ⟨(TIM.STATUS_OFS_CLIP c), .w1c, false, false⟩, ⟨(TIM.STATUS_RSV c), .w1c, false, false⟩]⟩,
  ⟨0x8008, 1, 0x8, 1, 0x8, fun _ _ => [⟨(TIM.CROWD_CNT_COUNT c), .rc, false, false⟩]⟩,
  ⟨0x8010, 1, 0x8, 1, 0x8, fun _ _ => [⟨(TIM.UI_UI c), .ro, false, false⟩]⟩,
  ⟨0x8040, 4, 0x8, 1, 0x8, fun n _ => [⟨(TIM.OFS_DRV c n), .rw, false, false⟩, ⟨(TIM.OFS_CMP c n), .rw, false, false⟩]⟩,
  ⟨0x8100, 8, 0x10, 1, 0x8, fun k _ => [⟨(TIM.SLOT_W0_WORD c k), .ro, false, false⟩]⟩,
  ⟨0x8108, 8, 0x10, 1, 0x8, fun k _ => [⟨(TIM.SLOT_W1_WORD c k), .ro, false, false⟩]⟩,
  ⟨0x8400, 64, 0x10, 1, 0x8, fun e _ => [⟨(TIM.TAB_W0_WORD c e), .rw, false, false⟩]⟩,
  ⟨0x8408, 64, 0x10, 1, 0x8, fun e _ => [⟨(TIM.TAB_W1_WORD c e), .rw, false, false⟩]⟩]

/-- Registers of TIM by offset. -/
def TIM.regTable (c : Nat) : List RegDesc :=
  TIM.regTable0 c

end Sys2Proof.Machine
end

