-- ==== Sys2Proof/Machine/RegsChip.lean ====
section
/-! DEFINITION. The register fields of the chip units. -/

namespace Sys2Proof.Machine

/-! ### CHIP (spec/06_pin_electronics.md) -/

/-! CHIP.CAL_CTRL, offset 0x100 (R171). -/
abbrev CHIP.CAL_CTRL_LOAD : Fld := ⟨0x100, 0, 1, 0⟩

/-! CHIP.CAL_STATUS, offset 0x108 (R171). -/
abbrev CHIP.CAL_STATUS_BUSY : Fld := ⟨0x108, 0, 1, 0⟩
abbrev CHIP.CAL_STATUS_BANK : Fld := ⟨0x108, 1, 2, 0⟩
abbrev CHIP.CAL_STATUS_A_VALID : Fld := ⟨0x108, 3, 1, 0⟩
abbrev CHIP.CAL_STATUS_B_VALID : Fld := ⟨0x108, 4, 1, 0⟩
abbrev CHIP.CAL_STATUS_WR_IGN : Fld := ⟨0x108, 5, 1, 0⟩
abbrev CHIP.CAL_STATUS_A_WHY : Fld := ⟨0x108, 8, 4, 0⟩
abbrev CHIP.CAL_STATUS_B_WHY : Fld := ⟨0x108, 12, 4, 0⟩
abbrev CHIP.CAL_STATUS_SEQ : Fld := ⟨0x108, 32, 32, 0⟩

/-! CHIP.CLK_CTRL, offset 0x200 (R198). -/
abbrev CHIP.CLK_CTRL_USE_PLL : Fld := ⟨0x200, 0, 1, 0⟩
abbrev CHIP.CLK_CTRL_REF : Fld := ⟨0x200, 1, 1, 0⟩

/-! CHIP.CLK_STATUS, offset 0x208 (R198). -/
abbrev CHIP.CLK_STATUS_ON_PLL : Fld := ⟨0x208, 0, 1, 0⟩
abbrev CHIP.CLK_STATUS_PLL_LOCK : Fld := ⟨0x208, 1, 1, 0⟩
abbrev CHIP.CLK_STATUS_FALLBACK : Fld := ⟨0x208, 2, 1, 0⟩
abbrev CHIP.CLK_STATUS_TREF_OK : Fld := ⟨0x208, 3, 1, 0⟩
abbrev CHIP.CLK_STATUS_CVYREF_OK : Fld := ⟨0x208, 4, 1, 0⟩
abbrev CHIP.CLK_STATUS_REF_FAULT : Fld := ⟨0x208, 5, 1, 0⟩
abbrev CHIP.CLK_STATUS_WR_IGN : Fld := ⟨0x208, 6, 1, 0⟩
abbrev CHIP.CLK_STATUS_FIO_KHZ : Fld := ⟨0x208, 32, 32, 0⟩

/-! CHIP.CLK_FALLBACKS, offset 0x210 (R198). -/
abbrev CHIP.CLK_FALLBACKS_COUNT : Fld := ⟨0x210, 0, 32, 0⟩

/-! CHIP.MEM_ECC, offset 0x300 (R292). -/
abbrev CHIP.MEM_ECC_SM_CORR : Fld := ⟨0x300, 0, 16, 0⟩
abbrev CHIP.MEM_ECC_SM_UNCORR : Fld := ⟨0x300, 16, 16, 0⟩
abbrev CHIP.MEM_ECC_OR_CORR : Fld := ⟨0x300, 32, 16, 0⟩
abbrev CHIP.MEM_ECC_OR_UNCORR : Fld := ⟨0x300, 48, 16, 0⟩

/-! CHIP.ID, offset 0x0 (R515). -/
abbrev CHIP.ID_PART : Fld := ⟨0x0, 0, 16, 4132⟩
abbrev CHIP.ID_GRADE : Fld := ⟨0x0, 16, 8, 0x48⟩
abbrev CHIP.ID_STEPPING : Fld := ⟨0x0, 24, 8, 17⟩

/-! CHIP.RESET, offset 0x10 (R515). -/
abbrev CHIP.RESET_KEY : Fld := ⟨0x10, 0, 16, 0⟩

/-! CHIP.RST_CAUSE, offset 0x18 (R515). -/
abbrev CHIP.RST_CAUSE_POR : Fld := ⟨0x18, 0, 1, 1⟩
abbrev CHIP.RST_CAUSE_COLD : Fld := ⟨0x18, 1, 1, 0⟩
abbrev CHIP.RST_CAUSE_PIN : Fld := ⟨0x18, 2, 1, 0⟩
abbrev CHIP.RST_CAUSE_SOFT : Fld := ⟨0x18, 3, 1, 0⟩
abbrev CHIP.RST_CAUSE_LC : Fld := ⟨0x18, 4, 1, 0⟩
abbrev CHIP.RST_CAUSE_SUPPLY : Fld := ⟨0x18, 5, 1, 0⟩

/-! CHIP.BOOT_VEC, offset 0x20 (R515). -/
abbrev CHIP.BOOT_VEC_ADDR : Fld := ⟨0x20, 1, 47, 201981952⟩

/-! CHIP.START, offset 0x28 (R515). -/
abbrev CHIP.START_STORE_DONE : Fld := ⟨0x28, 0, 1, 0⟩
abbrev CHIP.START_LC_DONE : Fld := ⟨0x28, 1, 1, 0⟩
abbrev CHIP.START_STW_REL : Fld := ⟨0x28, 2, 1, 0⟩
abbrev CHIP.START_CAL_DONE : Fld := ⟨0x28, 3, 1, 0⟩
abbrev CHIP.START_MEM_INIT : Fld := ⟨0x28, 4, 1, 0⟩
abbrev CHIP.START_JRNL_ERASE : Fld := ⟨0x28, 5, 1, 0⟩
abbrev CHIP.START_REL_US : Fld := ⟨0x28, 32, 32, 0⟩

/-- Registers of CHIP by offset, part 0. -/
def CHIP.regTable0 : List RegDesc := [
  ⟨0x100, 1, 0x8, 1, 0x8, fun _ _ => [⟨CHIP.CAL_CTRL_LOAD, .wo, false, false⟩]⟩,
  ⟨0x108, 1, 0x8, 1, 0x8, fun _ _ => [⟨CHIP.CAL_STATUS_BUSY, .ro, false, false⟩, ⟨CHIP.CAL_STATUS_BANK, .ro, false, false⟩, ⟨CHIP.CAL_STATUS_A_VALID, .ro, false, false⟩, ⟨CHIP.CAL_STATUS_B_VALID, .ro, false, false⟩, ⟨CHIP.CAL_STATUS_WR_IGN, .w1c, false, false⟩, ⟨CHIP.CAL_STATUS_A_WHY, .ro, false, false⟩, ⟨CHIP.CAL_STATUS_B_WHY, .ro, false, false⟩, ⟨CHIP.CAL_STATUS_SEQ, .ro, false, false⟩]⟩,
  ⟨0x200, 1, 0x8, 1, 0x8, fun _ _ => [⟨CHIP.CLK_CTRL_USE_PLL, .w1s, false, false⟩, ⟨CHIP.CLK_CTRL_REF, .rw, false, false⟩]⟩,
  ⟨0x208, 1, 0x8, 1, 0x8, fun _ _ => [⟨CHIP.CLK_STATUS_ON_PLL, .ro, false, false⟩, ⟨CHIP.CLK_STATUS_PLL_LOCK, .ro, false, false⟩, ⟨CHIP.CLK_STATUS_FALLBACK, .w1c, false, false⟩, ⟨CHIP.CLK_STATUS_TREF_OK, .ro, false, false⟩, ⟨CHIP.CLK_STATUS_CVYREF_OK, .ro, false, false⟩, ⟨CHIP.CLK_STATUS_REF_FAULT, .w1c, false, false⟩, ⟨CHIP.CLK_STATUS_WR_IGN, .w1c, false, false⟩, ⟨CHIP.CLK_STATUS_FIO_KHZ, .ro, false, false⟩]⟩,
  ⟨0x210, 1, 0x8, 1, 0x8, fun _ _ => [⟨CHIP.CLK_FALLBACKS_COUNT, .rc, false, false⟩]⟩,
  ⟨0x300, 1, 0x8, 1, 0x8, fun _ _ => [⟨CHIP.MEM_ECC_SM_CORR, .rc, false, false⟩, ⟨CHIP.MEM_ECC_SM_UNCORR, .rc, false, false⟩, ⟨CHIP.MEM_ECC_OR_CORR, .rc, false, false⟩, ⟨CHIP.MEM_ECC_OR_UNCORR, .rc, false, false⟩]⟩,
  ⟨0x0, 1, 0x8, 1, 0x8, fun _ _ => [⟨CHIP.ID_PART, .ro, false, false⟩, ⟨CHIP.ID_GRADE, .ro, false, false⟩, ⟨CHIP.ID_STEPPING, .ro, false, false⟩]⟩,
  ⟨0x10, 1, 0x8, 1, 0x8, fun _ _ => [⟨CHIP.RESET_KEY, .wo, false, false⟩]⟩,
  ⟨0x18, 1, 0x8, 1, 0x8, fun _ _ => [⟨CHIP.RST_CAUSE_POR, .w1c, false, false⟩, ⟨CHIP.RST_CAUSE_COLD, .w1c, false, false⟩, ⟨CHIP.RST_CAUSE_PIN, .w1c, false, false⟩, ⟨CHIP.RST_CAUSE_SOFT, .w1c, false, false⟩, ⟨CHIP.RST_CAUSE_LC, .w1c, false, false⟩, ⟨CHIP.RST_CAUSE_SUPPLY, .w1c, false, false⟩]⟩,
  ⟨0x20, 1, 0x8, 1, 0x8, fun _ _ => [⟨CHIP.BOOT_VEC_ADDR, .rw, false, false⟩]⟩,
  ⟨0x28, 1, 0x8, 1, 0x8, fun _ _ => [⟨CHIP.START_STORE_DONE, .ro, false, false⟩, ⟨CHIP.START_LC_DONE, .ro, false, false⟩, ⟨CHIP.START_STW_REL, .ro, false, false⟩, ⟨CHIP.START_CAL_DONE, .ro, false, false⟩, ⟨CHIP.START_MEM_INIT, .ro, false, false⟩, ⟨CHIP.START_JRNL_ERASE, .ro, false, false⟩, ⟨CHIP.START_REL_US, .ro, false, false⟩]⟩]

/-- Registers of CHIP by offset. -/
def CHIP.regTable : List RegDesc :=
  CHIP.regTable0

/-! ### OBJ (spec/14_objor_security.md) -/

/-! OBJ.STATUS, offset 0x0 (R371). -/
abbrev OBJ.STATUS_READY : Fld := ⟨0x100000, 0, 1, 0⟩
abbrev OBJ.STATUS_ERROR : Fld := ⟨0x100000, 1, 1, 0⟩
abbrev OBJ.STATUS_APPROVED : Fld := ⟨0x100000, 2, 1, 0⟩
abbrev OBJ.STATUS_BUSY : Fld := ⟨0x100000, 3, 1, 0⟩
abbrev OBJ.STATUS_IDENT : Fld := ⟨0x100000, 4, 1, 0⟩
abbrev OBJ.STATUS_WR_IGN : Fld := ⟨0x100000, 5, 1, 0⟩

/-! OBJ.EVT, offset 0x8 (R371). -/
abbrev OBJ.EVT_DONE0 : Fld := ⟨0x100008, 0, 1, 0⟩
abbrev OBJ.EVT_DONE1 : Fld := ⟨0x100008, 1, 1, 0⟩
abbrev OBJ.EVT_ERROR : Fld := ⟨0x100008, 2, 1, 0⟩
abbrev OBJ.EVT_DONE_EN : Fld := ⟨0x100008, 8, 1, 0⟩

/-! OBJ.REJECT, offset 0x10 (R371). -/
abbrev OBJ.REJECT_COUNT : Fld := ⟨0x100010, 0, 32, 0⟩

/-! OBJ.LAST_REJECT, offset 0x18 (R371). -/
abbrev OBJ.LAST_REJECT_CODE : Fld := ⟨0x100018, 0, 8, 0⟩
abbrev OBJ.LAST_REJECT_STATUS : Fld := ⟨0x100018, 8, 8, 0⟩
abbrev OBJ.LAST_REJECT_MB : Fld := ⟨0x100018, 16, 1, 0⟩

/-! OBJ.KAT, offset 0x20 (R371). -/
abbrev OBJ.KAT_PASS : Fld := ⟨0x100020, 0, 10, 0⟩
abbrev OBJ.KAT_DONE : Fld := ⟨0x100020, 16, 1, 0⟩

/-! OBJ.SEAL_CNT, offset 0x28 (R371). -/
abbrev OBJ.SEAL_CNT_NEXT : Fld := ⟨0x100028, 0, 64, 1⟩

/-! OBJ.MB_CMD, offset 0x100 (R371). -/
abbrev OBJ.MB_CMD_OP (m : Nat) : Fld := ⟨0x100100 + 0x100 * m, 0, 8, 0⟩

/-! OBJ.MB_STATUS, offset 0x108 (R371). -/
abbrev OBJ.MB_STATUS_STATUS (m : Nat) : Fld := ⟨0x100108 + 0x100 * m, 0, 8, 0⟩
abbrev OBJ.MB_STATUS_OP (m : Nat) : Fld := ⟨0x100108 + 0x100 * m, 8, 8, 0⟩
abbrev OBJ.MB_STATUS_PEND (m : Nat) : Fld := ⟨0x100108 + 0x100 * m, 16, 1, 0⟩
abbrev OBJ.MB_STATUS_DETAIL (m : Nat) : Fld := ⟨0x100108 + 0x100 * m, 24, 8, 0⟩

/-! OBJ.MB_ARG, offset 0x140 (R371). -/
abbrev OBJ.MB_ARG_ARG (m n : Nat) : Fld := ⟨0x100140 + 0x100 * m + 0x8 * n, 0, 64, 0⟩

/-! OBJ.MB_RES, offset 0x180 (R371). -/
abbrev OBJ.MB_RES_RES (m n : Nat) : Fld := ⟨0x100180 + 0x100 * m + 0x8 * n, 0, 64, 0⟩

/-! OBJ.SLOT_A, offset 0x400 (R371). -/
abbrev OBJ.SLOT_A_STATE (n : Nat) : Fld := ⟨0x100400 + 0x10 * n, 0, 2, 0⟩
abbrev OBJ.SLOT_A_OWNER (n : Nat) : Fld := ⟨0x100400 + 0x10 * n, 4, 4, 0⟩
abbrev OBJ.SLOT_A_ENC (n : Nat) : Fld := ⟨0x100400 + 0x10 * n, 8, 1, 0⟩
abbrev OBJ.SLOT_A_GRANT_SYS (n : Nat) : Fld := ⟨0x100400 + 0x10 * n, 9, 1, 0⟩
abbrev OBJ.SLOT_A_MLDSA (n : Nat) : Fld := ⟨0x100400 + 0x10 * n, 10, 1, 0⟩
abbrev OBJ.SLOT_A_USES (n : Nat) : Fld := ⟨0x100400 + 0x10 * n, 32, 32, 0⟩

/-! OBJ.SLOT_B, offset 0x408 (R371). -/
abbrev OBJ.SLOT_B_MANIFEST_ID (n : Nat) : Fld := ⟨0x100408 + 0x10 * n, 0, 64, 0⟩

/-! OBJ.BOND, offset 0x600 (R371). -/
abbrev OBJ.BOND_OPEN (k : Nat) : Fld := ⟨0x100600 + 0x8 * k, 0, 1, 0⟩
abbrev OBJ.BOND_LEAD (k : Nat) : Fld := ⟨0x100600 + 0x8 * k, 8, 8, 0⟩
abbrev OBJ.BOND_SLOT (k : Nat) : Fld := ⟨0x100600 + 0x8 * k, 16, 4, 0⟩
abbrev OBJ.BOND_SECTION (k : Nat) : Fld := ⟨0x100600 + 0x8 * k, 20, 10, 0⟩
abbrev OBJ.BOND_BITS (k : Nat) : Fld := ⟨0x100600 + 0x8 * k, 32, 17, 0⟩

/-! OBJ.OWNER_A, offset 0x800 (R371). -/
abbrev OBJ.OWNER_A_VALID (i : Nat) : Fld := ⟨0x100800 + 0x10 * i, 0, 1, 0⟩
abbrev OBJ.OWNER_A_PERM (i : Nat) : Fld := ⟨0x100800 + 0x10 * i, 1, 4, 0⟩
abbrev OBJ.OWNER_A_MLDSA (i : Nat) : Fld := ⟨0x100800 + 0x10 * i, 5, 1, 0⟩

/-! OBJ.OWNER_B, offset 0x808 (R371). -/
abbrev OBJ.OWNER_B_KEY_ID (i : Nat) : Fld := ⟨0x100808 + 0x10 * i, 0, 64, 0⟩

/-! OBJ.FLEET, offset 0xA00 (R371). -/
abbrev OBJ.FLEET_VALID (j : Nat) : Fld := ⟨0x100A00 + 0x8 * j, 0, 1, 0⟩
abbrev OBJ.FLEET_OWNER (j : Nat) : Fld := ⟨0x100A00 + 0x8 * j, 4, 4, 0⟩
abbrev OBJ.FLEET_GROUP (j : Nat) : Fld := ⟨0x100A00 + 0x8 * j, 32, 32, 0⟩

/-- Registers of OBJ by offset, part 0. -/
def OBJ.regTable0 : List RegDesc := [
  ⟨0x0, 1, 0x8, 1, 0x8, fun _ _ => [⟨OBJ.STATUS_READY, .ro, false, false⟩, ⟨OBJ.STATUS_ERROR, .ro, false, false⟩, ⟨OBJ.STATUS_APPROVED, .ro, false, false⟩, ⟨OBJ.STATUS_BUSY, .ro, false, false⟩, ⟨OBJ.STATUS_IDENT, .ro, false, false⟩, ⟨OBJ.STATUS_WR_IGN, .w1c, false, false⟩]⟩,
  ⟨0x8, 1, 0x8, 1, 0x8, fun _ _ => [⟨OBJ.EVT_DONE0, .w1c, false, false⟩, ⟨OBJ.EVT_DONE1, .w1c, false, false⟩, ⟨OBJ.EVT_ERROR, .w1c, false, false⟩, ⟨OBJ.EVT_DONE_EN, .rw, false, false⟩]⟩,
  ⟨0x10, 1, 0x8, 1, 0x8, fun _ _ => [⟨OBJ.REJECT_COUNT, .rc, false, false⟩]⟩,
  ⟨0x18, 1, 0x8, 1, 0x8, fun _ _ => [⟨OBJ.LAST_REJECT_CODE, .ro, false, false⟩, ⟨OBJ.LAST_REJECT_STATUS, .ro, false, false⟩, ⟨OBJ.LAST_REJECT_MB, .ro, false, false⟩]⟩,
  ⟨0x20, 1, 0x8, 1, 0x8, fun _ _ => [⟨OBJ.KAT_PASS, .ro, false, false⟩, ⟨OBJ.KAT_DONE, .ro, false, false⟩]⟩,
  ⟨0x28, 1, 0x8, 1, 0x8, fun _ _ => [⟨OBJ.SEAL_CNT_NEXT, .ro, false, false⟩]⟩,
  ⟨0x100, 2, 0x100, 1, 0x8, fun m _ => [⟨(OBJ.MB_CMD_OP m), .wo, false, false⟩]⟩,
  ⟨0x108, 2, 0x100, 1, 0x8, fun m _ => [⟨(OBJ.MB_STATUS_STATUS m), .ro, false, false⟩, ⟨(OBJ.MB_STATUS_OP m), .ro, false, false⟩, ⟨(OBJ.MB_STATUS_PEND m), .ro, false, false⟩, ⟨(OBJ.MB_STATUS_DETAIL m), .ro, false, false⟩]⟩,
  ⟨0x140, 2, 0x100, 8, 0x8, fun m n => [⟨(OBJ.MB_ARG_ARG m n), .rw, false, false⟩]⟩,
  ⟨0x180, 2, 0x100, 8, 0x8, fun m n => [⟨(OBJ.MB_RES_RES m n), .ro, false, false⟩]⟩,
  ⟨0x400, 16, 0x10, 1, 0x8, fun n _ => [⟨(OBJ.SLOT_A_STATE n), .ro, false, false⟩, ⟨(OBJ.SLOT_A_OWNER n), .ro, false, false⟩, ⟨(OBJ.SLOT_A_ENC n), .ro, false, false⟩, ⟨(OBJ.SLOT_A_GRANT_SYS n), .ro, false, false⟩, ⟨(OBJ.SLOT_A_MLDSA n), .ro, false, false⟩, ⟨(OBJ.SLOT_A_USES n), .ro, false, false⟩]⟩,
  ⟨0x408, 16, 0x10, 1, 0x8, fun n _ => [⟨(OBJ.SLOT_B_MANIFEST_ID n), .ro, false, false⟩]⟩]

/-- Registers of OBJ by offset, part 1. -/
def OBJ.regTable1 : List RegDesc := [
  ⟨0x600, 32, 0x8, 1, 0x8, fun k _ => [⟨(OBJ.BOND_OPEN k), .ro, false, false⟩, ⟨(OBJ.BOND_LEAD k), .ro, false, false⟩, ⟨(OBJ.BOND_SLOT k), .ro, false, false⟩, ⟨(OBJ.BOND_SECTION k), .ro, false, false⟩, ⟨(OBJ.BOND_BITS k), .ro, false, false⟩]⟩,
  ⟨0x800, 16, 0x10, 1, 0x8, fun i _ => [⟨(OBJ.OWNER_A_VALID i), .ro, false, false⟩, ⟨(OBJ.OWNER_A_PERM i), .ro, false, false⟩, ⟨(OBJ.OWNER_A_MLDSA i), .ro, false, false⟩]⟩,
  ⟨0x808, 16, 0x10, 1, 0x8, fun i _ => [⟨(OBJ.OWNER_B_KEY_ID i), .ro, false, false⟩]⟩,
  ⟨0xA00, 8, 0x8, 1, 0x8, fun j _ => [⟨(OBJ.FLEET_VALID j), .ro, false, false⟩, ⟨(OBJ.FLEET_OWNER j), .ro, false, false⟩, ⟨(OBJ.FLEET_GROUP j), .ro, false, false⟩]⟩]

/-- Registers of OBJ by offset. -/
def OBJ.regTable : List RegDesc :=
  OBJ.regTable0 ++ OBJ.regTable1

/-! ### LC (spec/15_life_cycle_debug_and_freeze.md) -/

/-! LC.STATE, offset 0x0 (R399). -/
abbrev LC.STATE_STATE : Fld := ⟨0x200000, 0, 3, 0⟩
abbrev LC.STATE_TEST_MODES : Fld := ⟨0x200000, 3, 1, 0⟩
abbrev LC.STATE_DEBUG_OPEN : Fld := ⟨0x200000, 4, 1, 0⟩
abbrev LC.STATE_JRNL_OPEN : Fld := ⟨0x200000, 5, 1, 0⟩
abbrev LC.STATE_JRNL_LOST : Fld := ⟨0x200000, 6, 1, 0⟩
abbrev LC.STATE_COPY0 : Fld := ⟨0x200000, 8, 3, 0⟩
abbrev LC.STATE_UID0 : Fld := ⟨0x200000, 11, 1, 0⟩
abbrev LC.STATE_COPY1 : Fld := ⟨0x200000, 16, 3, 0⟩
abbrev LC.STATE_UID1 : Fld := ⟨0x200000, 19, 1, 0⟩
abbrev LC.STATE_COPY2 : Fld := ⟨0x200000, 24, 3, 0⟩
abbrev LC.STATE_UID2 : Fld := ⟨0x200000, 27, 1, 0⟩

/-! LC.UNIT_ID0, offset 0x8 (R399). -/
abbrev LC.UNIT_ID0_ID : Fld := ⟨0x200008, 0, 64, 0⟩

/-! LC.UNIT_ID1, offset 0x10 (R399). -/
abbrev LC.UNIT_ID1_ID : Fld := ⟨0x200010, 0, 64, 0⟩

/-! LC.SLOTS, offset 0x18 (R399). -/
abbrev LC.SLOTS_S0_1 : Fld := ⟨0x200018, 0, 2, 0⟩
abbrev LC.SLOTS_S0_2 : Fld := ⟨0x200018, 2, 2, 0⟩
abbrev LC.SLOTS_S0_3 : Fld := ⟨0x200018, 4, 2, 0⟩
abbrev LC.SLOTS_S1_1 : Fld := ⟨0x200018, 8, 2, 0⟩
abbrev LC.SLOTS_S1_2 : Fld := ⟨0x200018, 10, 2, 0⟩
abbrev LC.SLOTS_S1_3 : Fld := ⟨0x200018, 12, 2, 0⟩
abbrev LC.SLOTS_S2_1 : Fld := ⟨0x200018, 16, 2, 0⟩
abbrev LC.SLOTS_S2_2 : Fld := ⟨0x200018, 18, 2, 0⟩
abbrev LC.SLOTS_S2_3 : Fld := ⟨0x200018, 20, 2, 0⟩

/-! LC.PROGRESS, offset 0x20 (R399). -/
abbrev LC.PROGRESS_PHASE : Fld := ⟨0x200020, 0, 4, 0⟩
abbrev LC.PROGRESS_TARGET : Fld := ⟨0x200020, 4, 2, 0⟩
abbrev LC.PROGRESS_ITEM : Fld := ⟨0x200020, 8, 8, 0⟩
abbrev LC.PROGRESS_DDR_SKIPPED : Fld := ⟨0x200020, 16, 1, 0⟩
abbrev LC.PROGRESS_SEQ : Fld := ⟨0x200020, 32, 32, 0⟩

/-- Registers of LC by offset, part 0. -/
def LC.regTable0 : List RegDesc := [
  ⟨0x0, 1, 0x8, 1, 0x8, fun _ _ => [⟨LC.STATE_STATE, .ro, false, false⟩, ⟨LC.STATE_TEST_MODES, .ro, false, false⟩, ⟨LC.STATE_DEBUG_OPEN, .ro, false, false⟩, ⟨LC.STATE_JRNL_OPEN, .ro, false, false⟩, ⟨LC.STATE_JRNL_LOST, .ro, false, false⟩, ⟨LC.STATE_COPY0, .ro, false, false⟩, ⟨LC.STATE_UID0, .ro, false, false⟩, ⟨LC.STATE_COPY1, .ro, false, false⟩, ⟨LC.STATE_UID1, .ro, false, false⟩, ⟨LC.STATE_COPY2, .ro, false, false⟩, ⟨LC.STATE_UID2, .ro, false, false⟩]⟩,
  ⟨0x8, 1, 0x8, 1, 0x8, fun _ _ => [⟨LC.UNIT_ID0_ID, .ro, false, false⟩]⟩,
  ⟨0x10, 1, 0x8, 1, 0x8, fun _ _ => [⟨LC.UNIT_ID1_ID, .ro, false, false⟩]⟩,
  ⟨0x18, 1, 0x8, 1, 0x8, fun _ _ => [⟨LC.SLOTS_S0_1, .ro, false, false⟩, ⟨LC.SLOTS_S0_2, .ro, false, false⟩, ⟨LC.SLOTS_S0_3, .ro, false, false⟩, ⟨LC.SLOTS_S1_1, .ro, false, false⟩, ⟨LC.SLOTS_S1_2, .ro, false, false⟩, ⟨LC.SLOTS_S1_3, .ro, false, false⟩, ⟨LC.SLOTS_S2_1, .ro, false, false⟩, ⟨LC.SLOTS_S2_2, .ro, false, false⟩, ⟨LC.SLOTS_S2_3, .ro, false, false⟩]⟩,
  ⟨0x20, 1, 0x8, 1, 0x8, fun _ _ => [⟨LC.PROGRESS_PHASE, .ro, false, false⟩, ⟨LC.PROGRESS_TARGET, .ro, false, false⟩, ⟨LC.PROGRESS_ITEM, .ro, false, false⟩, ⟨LC.PROGRESS_DDR_SKIPPED, .ro, false, false⟩, ⟨LC.PROGRESS_SEQ, .ro, false, false⟩]⟩]

/-- Registers of LC by offset. -/
def LC.regTable : List RegDesc :=
  LC.regTable0

/-! ### PWR (spec/16_power_states.md) -/

/-! PWR.CTRL, offset 0x0 (R420). -/
abbrev PWR.CTRL_LEGACY_WAKE : Fld := ⟨0x300000, 0, 1, 0⟩

/-! PWR.CMD, offset 0x8 (R420). -/
abbrev PWR.CMD_OP : Fld := ⟨0x300008, 0, 4, 0⟩
abbrev PWR.CMD_LEVEL : Fld := ⟨0x300008, 8, 2, 0⟩
abbrev PWR.CMD_D : Fld := ⟨0x300008, 16, 6, 0⟩

/-! PWR.CMD_STATUS, offset 0x10 (R420). -/
abbrev PWR.CMD_STATUS_STATUS : Fld := ⟨0x300010, 0, 8, 0⟩
abbrev PWR.CMD_STATUS_OP : Fld := ⟨0x300010, 8, 4, 0⟩
abbrev PWR.CMD_STATUS_PEND : Fld := ⟨0x300010, 16, 1, 0⟩
abbrev PWR.CMD_STATUS_ABORTED : Fld := ⟨0x300010, 17, 1, 0⟩

/-! PWR.STATUS, offset 0x18 (R420). -/
abbrev PWR.STATUS_LEVEL : Fld := ⟨0x300018, 0, 2, 0⟩
abbrev PWR.STATUS_VOLT_LAG : Fld := ⟨0x300018, 2, 1, 0⟩
abbrev PWR.STATUS_ENTERING : Fld := ⟨0x300018, 3, 1, 0⟩
abbrev PWR.STATUS_SLEEP_SUPPLY : Fld := ⟨0x300018, 4, 1, 0⟩

/-! PWR.DOMAINS, offset 0x20 (R420). -/
abbrev PWR.DOMAINS_BLK_ON : Fld := ⟨0x300020, 0, 32, 4294967295⟩
abbrev PWR.DOMAINS_RGN_ON : Fld := ⟨0x300020, 32, 4, 15⟩

/-! PWR.EVT, offset 0x28 (R420). -/
abbrev PWR.EVT_LEVEL_DONE : Fld := ⟨0x300028, 0, 1, 0⟩
abbrev PWR.EVT_DOMAIN_DONE : Fld := ⟨0x300028, 1, 1, 0⟩
abbrev PWR.EVT_WOKE : Fld := ⟨0x300028, 2, 1, 0⟩

/-! PWR.SLEEP, offset 0x30 (R420). -/
abbrev PWR.SLEEP_REQ : Fld := ⟨0x300030, 0, 2, 0⟩
abbrev PWR.SLEEP_PEND : Fld := ⟨0x300030, 8, 1, 0⟩

/-! PWR.SLEEP_STATUS, offset 0x38 (R420). -/
abbrev PWR.SLEEP_STATUS_OUTCOME : Fld := ⟨0x300038, 0, 3, 0⟩
abbrev PWR.SLEEP_STATUS_STATE : Fld := ⟨0x300038, 4, 2, 0⟩
abbrev PWR.SLEEP_STATUS_POINT : Fld := ⟨0x300038, 8, 2, 0⟩

/-! PWR.WAKE_VEC, offset 0x40 (R420). -/
abbrev PWR.WAKE_VEC_ADDR : Fld := ⟨0x300040, 1, 47, 201981952⟩

/-! PWR.AUTO, offset 0x48 (R420). -/
abbrev PWR.AUTO_EN : Fld := ⟨0x300048, 0, 1, 0⟩
abbrev PWR.AUTO_STATE : Fld := ⟨0x300048, 1, 2, 1⟩
abbrev PWR.AUTO_IDLE_US : Fld := ⟨0x300048, 32, 32, 1000⟩

/-! PWR.BLK_AUTO, offset 0x50 (R420). -/
abbrev PWR.BLK_AUTO_US : Fld := ⟨0x300050, 0, 32, 0⟩

/-! PWR.BLK_AUTO_EN, offset 0x58 (R420). -/
abbrev PWR.BLK_AUTO_EN_EN : Fld := ⟨0x300058, 0, 32, 0⟩

/-! PWR.WAKE_EN, offset 0x60 (R420). -/
abbrev PWR.WAKE_EN_EN : Fld := ⟨0x300060, 1, 6, 4⟩

/-! PWR.LAST_WAKE, offset 0x68 (R420). -/
abbrev PWR.LAST_WAKE_SRC : Fld := ⟨0x300068, 0, 4, 0⟩
abbrev PWR.LAST_WAKE_INDEX : Fld := ⟨0x300068, 8, 5, 0⟩
abbrev PWR.LAST_WAKE_TIME : Fld := ⟨0x300068, 16, 48, 0⟩

/-! PWR.WAKE_SRCS, offset 0x70 (R420). -/
abbrev PWR.WAKE_SRCS_FIRED : Fld := ⟨0x300070, 1, 6, 0⟩

/-! PWR.IDLE_EXITS, offset 0x78 (R420). -/
abbrev PWR.IDLE_EXITS_COUNT : Fld := ⟨0x300078, 0, 32, 0⟩

/-! PWR.OTIME, offset 0x80 (R420). -/
abbrev PWR.OTIME_TICKS : Fld := ⟨0x300080, 0, 48, 0⟩

/-! PWR.OTIMER, offset 0x88 (R420). -/
abbrev PWR.OTIMER_CMP : Fld := ⟨0x300088, 0, 48, 0⟩
abbrev PWR.OTIMER_EN : Fld := ⟨0x300088, 63, 1, 0⟩

/-! PWR.RESTORE, offset 0x90 (R420). -/
abbrev PWR.RESTORE_BLK : Fld := ⟨0x300090, 0, 32, 0⟩
abbrev PWR.RESTORE_RGN : Fld := ⟨0x300090, 32, 4, 0⟩
abbrev PWR.RESTORE_CHIP : Fld := ⟨0x300090, 36, 1, 0⟩

/-! PWR.WATCH, offset 0x100 (R420). -/
abbrev PWR.WATCH_SRC (n : Nat) : Fld := ⟨0x300100 + 0x8 * n, 0, 11, 0⟩
abbrev PWR.WATCH_EN (n : Nat) : Fld := ⟨0x300100 + 0x8 * n, 15, 1, 0⟩

/-! PWR.REFUSE, offset 0x200 (R420). -/
abbrev PWR.REFUSE_COUNT (k : Nat) : Fld := ⟨0x300200 + 0x8 * k, 0, 32, 0⟩

/-! PWR.LAST_REFUSE, offset 0x240 (R420). -/
abbrev PWR.LAST_REFUSE_REFUSER : Fld := ⟨0x300240, 0, 3, 0⟩
abbrev PWR.LAST_REFUSE_STATE : Fld := ⟨0x300240, 4, 2, 0⟩
abbrev PWR.LAST_REFUSE_POINT : Fld := ⟨0x300240, 8, 2, 0⟩

/-! PWR.REJECT, offset 0x248 (R420). -/
abbrev PWR.REJECT_COUNT : Fld := ⟨0x300248, 0, 32, 0⟩

/-! PWR.LAST_REJECT, offset 0x250 (R420). -/
abbrev PWR.LAST_REJECT_CODE : Fld := ⟨0x300250, 0, 8, 0⟩
abbrev PWR.LAST_REJECT_STATUS : Fld := ⟨0x300250, 8, 8, 0⟩

/-! PWR.PMB, offset 0x300 (R420). -/
abbrev PWR.PMB_EN : Fld := ⟨0x300300, 0, 1, 0⟩
abbrev PWR.PMB_ADDR : Fld := ⟨0x300300, 1, 7, 64⟩
abbrev PWR.PMB_PAGE : Fld := ⟨0x300300, 8, 8, 0⟩
abbrev PWR.PMB_SETTLE_US : Fld := ⟨0x300300, 16, 16, 50⟩
abbrev PWR.PMB_TIMEOUT_US : Fld := ⟨0x300300, 32, 16, 1000⟩

/-! PWR.VLEVEL, offset 0x310 (R420). -/
abbrev PWR.VLEVEL_VOUT (k : Nat) : Fld := ⟨0x300310 + 0x8 * k, 0, 16, (levelVout k)⟩

/-- Registers of PWR by offset, part 0. -/
def PWR.regTable0 : List RegDesc := [
  ⟨0x0, 1, 0x8, 1, 0x8, fun _ _ => [⟨PWR.CTRL_LEGACY_WAKE, .rw, false, false⟩]⟩,
  ⟨0x8, 1, 0x8, 1, 0x8, fun _ _ => [⟨PWR.CMD_OP, .wo, false, false⟩, ⟨PWR.CMD_LEVEL, .wo, false, false⟩, ⟨PWR.CMD_D, .wo, false, false⟩]⟩,
  ⟨0x10, 1, 0x8, 1, 0x8, fun _ _ => [⟨PWR.CMD_STATUS_STATUS, .ro, false, false⟩, ⟨PWR.CMD_STATUS_OP, .ro, false, false⟩, ⟨PWR.CMD_STATUS_PEND, .ro, false, false⟩, ⟨PWR.CMD_STATUS_ABORTED, .ro, false, false⟩]⟩,
  ⟨0x18, 1, 0x8, 1, 0x8, fun _ _ => [⟨PWR.STATUS_LEVEL, .ro, false, false⟩, ⟨PWR.STATUS_VOLT_LAG, .ro, false, false⟩, ⟨PWR.STATUS_ENTERING, .ro, false, false⟩, ⟨PWR.STATUS_SLEEP_SUPPLY, .w1c, false, false⟩]⟩,
  ⟨0x20, 1, 0x8, 1, 0x8, fun _ _ => [⟨PWR.DOMAINS_BLK_ON, .ro, false, false⟩, ⟨PWR.DOMAINS_RGN_ON, .ro, false, false⟩]⟩,
  ⟨0x28, 1, 0x8, 1, 0x8, fun _ _ => [⟨PWR.EVT_LEVEL_DONE, .w1c, false, false⟩, ⟨PWR.EVT_DOMAIN_DONE, .w1c, false, false⟩, ⟨PWR.EVT_WOKE, .w1c, false, false⟩]⟩,
  ⟨0x30, 1, 0x8, 1, 0x8, fun _ _ => [⟨PWR.SLEEP_REQ, .wo, false, false⟩, ⟨PWR.SLEEP_PEND, .ro, false, false⟩]⟩,
  ⟨0x38, 1, 0x8, 1, 0x8, fun _ _ => [⟨PWR.SLEEP_STATUS_OUTCOME, .ro, false, false⟩, ⟨PWR.SLEEP_STATUS_STATE, .ro, false, false⟩, ⟨PWR.SLEEP_STATUS_POINT, .ro, false, false⟩]⟩,
  ⟨0x40, 1, 0x8, 1, 0x8, fun _ _ => [⟨PWR.WAKE_VEC_ADDR, .rw, false, false⟩]⟩,
  ⟨0x48, 1, 0x8, 1, 0x8, fun _ _ => [⟨PWR.AUTO_EN, .rw, false, false⟩, ⟨PWR.AUTO_STATE, .rw, false, false⟩, ⟨PWR.AUTO_IDLE_US, .rw, false, false⟩]⟩,
  ⟨0x50, 1, 0x8, 1, 0x8, fun _ _ => [⟨PWR.BLK_AUTO_US, .rw, false, false⟩]⟩,
  ⟨0x58, 1, 0x8, 1, 0x8, fun _ _ => [⟨PWR.BLK_AUTO_EN_EN, .rw, false, false⟩]⟩]

/-- Registers of PWR by offset, part 1. -/
def PWR.regTable1 : List RegDesc := [
  ⟨0x60, 1, 0x8, 1, 0x8, fun _ _ => [⟨PWR.WAKE_EN_EN, .rw, false, false⟩]⟩,
  ⟨0x68, 1, 0x8, 1, 0x8, fun _ _ => [⟨PWR.LAST_WAKE_SRC, .ro, false, false⟩, ⟨PWR.LAST_WAKE_INDEX, .ro, false, false⟩, ⟨PWR.LAST_WAKE_TIME, .ro, false, false⟩]⟩,
  ⟨0x70, 1, 0x8, 1, 0x8, fun _ _ => [⟨PWR.WAKE_SRCS_FIRED, .w1c, false, false⟩]⟩,
  ⟨0x78, 1, 0x8, 1, 0x8, fun _ _ => [⟨PWR.IDLE_EXITS_COUNT, .rc, false, false⟩]⟩,
  ⟨0x80, 1, 0x8, 1, 0x8, fun _ _ => [⟨PWR.OTIME_TICKS, .ro, false, false⟩]⟩,
  ⟨0x88, 1, 0x8, 1, 0x8, fun _ _ => [⟨PWR.OTIMER_CMP, .rw, false, false⟩, ⟨PWR.OTIMER_EN, .rw, false, false⟩]⟩,
  ⟨0x90, 1, 0x8, 1, 0x8, fun _ _ => [⟨PWR.RESTORE_BLK, .w1c, false, false⟩, ⟨PWR.RESTORE_RGN, .w1c, false, false⟩, ⟨PWR.RESTORE_CHIP, .w1c, false, false⟩]⟩,
  ⟨0x100, 32, 0x8, 1, 0x8, fun n _ => [⟨(PWR.WATCH_SRC n), .rw, false, false⟩, ⟨(PWR.WATCH_EN n), .rw, false, false⟩]⟩,
  ⟨0x200, 8, 0x8, 1, 0x8, fun k _ => [⟨(PWR.REFUSE_COUNT k), .rc, false, false⟩]⟩,
  ⟨0x240, 1, 0x8, 1, 0x8, fun _ _ => [⟨PWR.LAST_REFUSE_REFUSER, .ro, false, false⟩, ⟨PWR.LAST_REFUSE_STATE, .ro, false, false⟩, ⟨PWR.LAST_REFUSE_POINT, .ro, false, false⟩]⟩,
  ⟨0x248, 1, 0x8, 1, 0x8, fun _ _ => [⟨PWR.REJECT_COUNT, .rc, false, false⟩]⟩,
  ⟨0x250, 1, 0x8, 1, 0x8, fun _ _ => [⟨PWR.LAST_REJECT_CODE, .ro, false, false⟩, ⟨PWR.LAST_REJECT_STATUS, .ro, false, false⟩]⟩]

/-- Registers of PWR by offset, part 2. -/
def PWR.regTable2 : List RegDesc := [
  ⟨0x300, 1, 0x8, 1, 0x8, fun _ _ => [⟨PWR.PMB_EN, .rw, false, false⟩, ⟨PWR.PMB_ADDR, .rw, false, false⟩, ⟨PWR.PMB_PAGE, .rw, false, false⟩, ⟨PWR.PMB_SETTLE_US, .rw, false, false⟩, ⟨PWR.PMB_TIMEOUT_US, .rw, false, false⟩]⟩,
  ⟨0x310, 4, 0x8, 1, 0x8, fun k _ => [⟨(PWR.VLEVEL_VOUT k), .rw, false, false⟩]⟩]

/-- Registers of PWR by offset. -/
def PWR.regTable : List RegDesc :=
  PWR.regTable0 ++ PWR.regTable1 ++ PWR.regTable2

/-! ### EVC (spec/17_events_and_stewards.md) -/

/-! EVC.STATUS, offset 0x0 (R438). -/
abbrev EVC.STATUS_WR_IGN : Fld := ⟨0x400000, 0, 1, 0⟩

/-! EVC.SET_PEND, offset 0x8 (R438). -/
abbrev EVC.SET_PEND_SRC : Fld := ⟨0x400008, 0, 11, 0⟩

/-! EVC.CLR_PEND, offset 0x10 (R438). -/
abbrev EVC.CLR_PEND_SRC : Fld := ⟨0x400010, 0, 11, 0⟩

/-! EVC.HOST_EOI, offset 0x18 (R438). -/
abbrev EVC.HOST_EOI_SRC : Fld := ⟨0x400018, 0, 11, 0⟩

/-! EVC.STRAY_EOI, offset 0x20 (R438). -/
abbrev EVC.STRAY_EOI_COUNT : Fld := ⟨0x400020, 0, 32, 0⟩
abbrev EVC.STRAY_EOI_LAST : Fld := ⟨0x400020, 32, 11, 0⟩
abbrev EVC.STRAY_EOI_STW : Fld := ⟨0x400020, 44, 3, 0⟩

/-! EVC.RECALLS, offset 0x28 (R438). -/
abbrev EVC.RECALLS_COUNT : Fld := ⟨0x400028, 0, 32, 0⟩

/-! EVC.DOORBELL, offset 0x30 (R438). -/
abbrev EVC.DOORBELL_RING : Fld := ⟨0x400030, 0, 4, 0⟩

/-! EVC.STW_STATE, offset 0x100 (R438). -/
abbrev EVC.STW_STATE_LEVEL (s : Nat) : Fld := ⟨0x400100 + 0x40 * s, 0, 2, 1⟩
abbrev EVC.STW_STATE_ASLEEP (s : Nat) : Fld := ⟨0x400100 + 0x40 * s, 2, 1, 0⟩
abbrev EVC.STW_STATE_HELD (s : Nat) : Fld := ⟨0x400100 + 0x40 * s, 3, 1, 0⟩
abbrev EVC.STW_STATE_DEEP (s : Nat) : Fld := ⟨0x400100 + 0x40 * s, 4, 1, 0⟩
abbrev EVC.STW_STATE_NSRC (s : Nat) : Fld := ⟨0x400100 + 0x40 * s, 8, 11, 0⟩
abbrev EVC.STW_STATE_NACT (s : Nat) : Fld := ⟨0x400100 + 0x40 * s, 19, 1, 0⟩
abbrev EVC.STW_STATE_FSRC (s : Nat) : Fld := ⟨0x400100 + 0x40 * s, 20, 11, 0⟩
abbrev EVC.STW_STATE_FACT (s : Nat) : Fld := ⟨0x400100 + 0x40 * s, 31, 1, 0⟩

/-! EVC.STW_EOI, offset 0x108 (R438). -/
abbrev EVC.STW_EOI_SRC (s : Nat) : Fld := ⟨0x400108 + 0x40 * s, 0, 11, 0⟩

/-! EVC.STW_DELIV, offset 0x110 (R438). -/
abbrev EVC.STW_DELIV_NORMAL (s : Nat) : Fld := ⟨0x400110 + 0x40 * s, 0, 32, 0⟩
abbrev EVC.STW_DELIV_FAST (s : Nat) : Fld := ⟨0x400110 + 0x40 * s, 32, 32, 0⟩

/-! EVC.IN, offset 0x1000 (R438). -/
abbrev EVC.IN_IN (k : Nat) : Fld := ⟨0x401000 + 0x8 * k, 0, 64, 0⟩

/-! EVC.PEND, offset 0x1100 (R438). -/
abbrev EVC.PEND_PEND (k : Nat) : Fld := ⟨0x401100 + 0x8 * k, 0, 64, 0⟩

/-! EVC.ACTIVE, offset 0x1200 (R438). -/
abbrev EVC.ACTIVE_ACTIVE (k : Nat) : Fld := ⟨0x401200 + 0x8 * k, 0, 64, 0⟩

/-! EVC.HPEND, offset 0x1300 (R438). -/
abbrev EVC.HPEND_HPEND (k : Nat) : Fld := ⟨0x401300 + 0x8 * k, 0, 64, 0⟩

/-! EVC.SRC_CFG, offset 0x10000 (R438). -/
abbrev EVC.SRC_CFG_EN (n : Nat) : Fld := ⟨0x410000 + 0x10 * n, 0, 1, 0⟩
abbrev EVC.SRC_CFG_SENSE (n : Nat) : Fld := ⟨0x410000 + 0x10 * n, 1, 3, 0⟩
abbrev EVC.SRC_CFG_FAST (n : Nat) : Fld := ⟨0x410000 + 0x10 * n, 4, 1, (fastReset n)⟩
abbrev EVC.SRC_CFG_TARGET (n : Nat) : Fld := ⟨0x410000 + 0x10 * n, 8, 4, 0⟩
abbrev EVC.SRC_CFG_MOD (n : Nat) : Fld := ⟨0x410000 + 0x10 * n, 12, 2, 0⟩
abbrev EVC.SRC_CFG_MODVAL (n : Nat) : Fld := ⟨0x410000 + 0x10 * n, 16, 16, 0⟩
abbrev EVC.SRC_CFG_HOST (n : Nat) : Fld := ⟨0x410000 + 0x10 * n, 32, 1, 0⟩
abbrev EVC.SRC_CFG_MSIX (n : Nat) : Fld := ⟨0x410000 + 0x10 * n, 33, 6, 0⟩

/-! EVC.SRC_VEC, offset 0x10008 (R438). -/
abbrev EVC.SRC_VEC_ADDR (n : Nat) : Fld := ⟨0x410008 + 0x10 * n, 1, 47, 0⟩

/-- Registers of EVC by offset, part 0. -/
def EVC.regTable0 : List RegDesc := [
  ⟨0x0, 1, 0x8, 1, 0x8, fun _ _ => [⟨EVC.STATUS_WR_IGN, .w1c, false, false⟩]⟩,
  ⟨0x8, 1, 0x8, 1, 0x8, fun _ _ => [⟨EVC.SET_PEND_SRC, .wo, false, false⟩]⟩,
  ⟨0x10, 1, 0x8, 1, 0x8, fun _ _ => [⟨EVC.CLR_PEND_SRC, .wo, false, false⟩]⟩,
  ⟨0x18, 1, 0x8, 1, 0x8, fun _ _ => [⟨EVC.HOST_EOI_SRC, .wo, false, false⟩]⟩,
  ⟨0x20, 1, 0x8, 1, 0x8, fun _ _ => [⟨EVC.STRAY_EOI_COUNT, .rc, false, false⟩, ⟨EVC.STRAY_EOI_LAST, .ro, false, false⟩, ⟨EVC.STRAY_EOI_STW, .ro, false, false⟩]⟩,
  ⟨0x28, 1, 0x8, 1, 0x8, fun _ _ => [⟨EVC.RECALLS_COUNT, .rc, false, false⟩]⟩,
  ⟨0x30, 1, 0x8, 1, 0x8, fun _ _ => [⟨EVC.DOORBELL_RING, .wo, false, false⟩]⟩,
  ⟨0x100, 4, 0x40, 1, 0x8, fun s _ => [⟨(EVC.STW_STATE_LEVEL s), .ro, false, false⟩, ⟨(EVC.STW_STATE_ASLEEP s), .ro, false, false⟩, ⟨(EVC.STW_STATE_HELD s), .ro, false, false⟩, ⟨(EVC.STW_STATE_DEEP s), .rw, false, false⟩, ⟨(EVC.STW_STATE_NSRC s), .ro, false, false⟩, ⟨(EVC.STW_STATE_NACT s), .ro, false, false⟩, ⟨(EVC.STW_STATE_FSRC s), .ro, false, false⟩, ⟨(EVC.STW_STATE_FACT s), .ro, false, false⟩]⟩,
  ⟨0x108, 4, 0x40, 1, 0x8, fun s _ => [⟨(EVC.STW_EOI_SRC s), .wo, false, false⟩]⟩,
  ⟨0x110, 4, 0x40, 1, 0x8, fun s _ => [⟨(EVC.STW_DELIV_NORMAL s), .rc, false, false⟩, ⟨(EVC.STW_DELIV_FAST s), .rc, false, false⟩]⟩,
  ⟨0x1000, 32, 0x8, 1, 0x8, fun k _ => [⟨(EVC.IN_IN k), .ro, false, false⟩]⟩,
  ⟨0x1100, 32, 0x8, 1, 0x8, fun k _ => [⟨(EVC.PEND_PEND k), .ro, false, false⟩]⟩]

/-- Registers of EVC by offset, part 1. -/
def EVC.regTable1 : List RegDesc := [
  ⟨0x1200, 32, 0x8, 1, 0x8, fun k _ => [⟨(EVC.ACTIVE_ACTIVE k), .ro, false, false⟩]⟩,
  ⟨0x1300, 32, 0x8, 1, 0x8, fun k _ => [⟨(EVC.HPEND_HPEND k), .ro, false, false⟩]⟩,
  ⟨0x10000, 2048, 0x10, 1, 0x8, fun n _ => [⟨(EVC.SRC_CFG_EN n), .rw, false, false⟩, ⟨(EVC.SRC_CFG_SENSE n), .rw, false, false⟩, ⟨(EVC.SRC_CFG_FAST n), .rw, false, false⟩, ⟨(EVC.SRC_CFG_TARGET n), .rw, false, false⟩, ⟨(EVC.SRC_CFG_MOD n), .rw, false, false⟩, ⟨(EVC.SRC_CFG_MODVAL n), .rw, false, false⟩, ⟨(EVC.SRC_CFG_HOST n), .rw, false, false⟩, ⟨(EVC.SRC_CFG_MSIX n), .rw, false, false⟩]⟩,
  ⟨0x10008, 2048, 0x10, 1, 0x8, fun n _ => [⟨(EVC.SRC_VEC_ADDR n), .rw, false, false⟩]⟩]

/-- Registers of EVC by offset. -/
def EVC.regTable : List RegDesc :=
  EVC.regTable0 ++ EVC.regTable1

/-! ### STO (spec/13_store.md) -/

/-! STO.CMD, offset 0x0 (R339). -/
abbrev STO.CMD_OP : Fld := ⟨0x500000, 0, 4, 0⟩
abbrev STO.CMD_MARGIN : Fld := ⟨0x500000, 4, 2, 0⟩
abbrev STO.CMD_INDEX : Fld := ⟨0x500000, 32, 21, 0⟩

/-! STO.CMD_STATUS, offset 0x8 (R339). -/
abbrev STO.CMD_STATUS_STATUS : Fld := ⟨0x500008, 0, 8, 0⟩
abbrev STO.CMD_STATUS_OP : Fld := ⟨0x500008, 8, 4, 0⟩
abbrev STO.CMD_STATUS_PEND : Fld := ⟨0x500008, 16, 1, 0⟩

/-! STO.STATUS, offset 0x10 (R339). -/
abbrev STO.STATUS_BUSY : Fld := ⟨0x500010, 0, 1, 0⟩
abbrev STO.STATUS_INTERNAL : Fld := ⟨0x500010, 1, 1, 0⟩
abbrev STO.STATUS_WR_IGN : Fld := ⟨0x500010, 2, 1, 0⟩
abbrev STO.STATUS_WV_WR : Fld := ⟨0x500010, 3, 1, 0⟩
abbrev STO.STATUS_JRNL_LOST : Fld := ⟨0x500010, 4, 1, 0⟩

/-! STO.PBUF_LO, offset 0x40 (R339). -/
abbrev STO.PBUF_LO_LO (n : Nat) : Fld := ⟨0x500040 + 0x10 * n, 0, 64, 0⟩

/-! STO.PBUF_HI, offset 0x48 (R339). -/
abbrev STO.PBUF_HI_HI (n : Nat) : Fld := ⟨0x500048 + 0x10 * n, 0, 8, 0⟩

/-! STO.PBUF_CHK, offset 0x80 (R339). -/
abbrev STO.PBUF_CHK_CHK : Fld := ⟨0x500080, 0, 32, 0⟩

/-! STO.RBUF_LO, offset 0x90 (R339). -/
abbrev STO.RBUF_LO_LO (n : Nat) : Fld := ⟨0x500090 + 0x10 * n, 0, 64, 0⟩

/-! STO.RBUF_HI, offset 0x98 (R339). -/
abbrev STO.RBUF_HI_HI (n : Nat) : Fld := ⟨0x500098 + 0x10 * n, 0, 8, 0⟩

/-! STO.RBUF_CHK, offset 0xD0 (R339). -/
abbrev STO.RBUF_CHK_CHK : Fld := ⟨0x5000D0, 0, 32, 0⟩

/-! STO.RRES, offset 0xD8 (R339). -/
abbrev STO.RRES_CORR : Fld := ⟨0x5000D8, 0, 2, 0⟩
abbrev STO.RRES_BLANK : Fld := ⟨0x5000D8, 2, 1, 0⟩
abbrev STO.RRES_TORN : Fld := ⟨0x5000D8, 3, 1, 0⟩
abbrev STO.RRES_UNCORR : Fld := ⟨0x5000D8, 4, 1, 0⟩

/-! STO.ECC, offset 0xE0 (R339). -/
abbrev STO.ECC_CORR : Fld := ⟨0x5000E0, 0, 32, 0⟩
abbrev STO.ECC_UNCORR : Fld := ⟨0x5000E0, 32, 32, 0⟩

/-! STO.ERR_ADDR, offset 0xE8 (R339). -/
abbrev STO.ERR_ADDR_CW : Fld := ⟨0x5000E8, 0, 21, 0⟩
abbrev STO.ERR_ADDR_KIND : Fld := ⟨0x5000E8, 21, 2, 0⟩
abbrev STO.ERR_ADDR_VALID : Fld := ⟨0x5000E8, 23, 1, 0⟩

/-! STO.HITS, offset 0xF0 (R339). -/
abbrev STO.HITS_TORN_RD : Fld := ⟨0x5000F0, 0, 32, 0⟩
abbrev STO.HITS_XO_HITS : Fld := ⟨0x5000F0, 32, 32, 0⟩

/-! STO.EVT, offset 0xF8 (R339). -/
abbrev STO.EVT_DONE : Fld := ⟨0x5000F8, 0, 1, 0⟩
abbrev STO.EVT_UNCORR : Fld := ⟨0x5000F8, 1, 1, 0⟩
abbrev STO.EVT_TORN_FOUND : Fld := ⟨0x5000F8, 2, 1, 0⟩
abbrev STO.EVT_XO_HIT : Fld := ⟨0x5000F8, 3, 1, 0⟩
abbrev STO.EVT_DONE_EN : Fld := ⟨0x5000F8, 8, 1, 0⟩

/-! STO.REJECT, offset 0x100 (R339). -/
abbrev STO.REJECT_COUNT : Fld := ⟨0x500100, 0, 32, 0⟩

/-! STO.LAST_REJECT, offset 0x108 (R339). -/
abbrev STO.LAST_REJECT_CODE : Fld := ⟨0x500108, 0, 8, 0⟩
abbrev STO.LAST_REJECT_STATUS : Fld := ⟨0x500108, 8, 8, 0⟩

/-! STO.JSEQ, offset 0x110 (R339). -/
abbrev STO.JSEQ_SEQ : Fld := ⟨0x500110, 0, 32, 0⟩
abbrev STO.JSEQ_HALF : Fld := ⟨0x500110, 32, 1, 0⟩
abbrev STO.JSEQ_FREE : Fld := ⟨0x500110, 33, 11, 0⟩

/-! STO.TRIM, offset 0x118 (R339). -/
abbrev STO.TRIM_REF : Fld := ⟨0x500118, 0, 16, 0⟩

/-! STO.TORN, offset 0x140 (R339). -/
abbrev STO.TORN_SECTORS (k : Nat) : Fld := ⟨0x500140 + 0x8 * k, 0, 64, 0⟩

/-! STO.XO, offset 0x200 (R339). -/
abbrev STO.XO_BASE (n : Nat) : Fld := ⟨0x500200 + 0x8 * n, 0, 14, 0⟩
abbrev STO.XO_LIMIT (n : Nat) : Fld := ⟨0x500200 + 0x8 * n, 16, 14, 0⟩
abbrev STO.XO_VALID (n : Nat) : Fld := ⟨0x500200 + 0x8 * n, 32, 1, 0⟩
abbrev STO.XO_MSLOT (n : Nat) : Fld := ⟨0x500200 + 0x8 * n, 36, 4, 0⟩

/-- Registers of STO by offset, part 0. -/
def STO.regTable0 : List RegDesc := [
  ⟨0x0, 1, 0x8, 1, 0x8, fun _ _ => [⟨STO.CMD_OP, .wo, false, false⟩, ⟨STO.CMD_MARGIN, .wo, false, false⟩, ⟨STO.CMD_INDEX, .wo, false, false⟩]⟩,
  ⟨0x8, 1, 0x8, 1, 0x8, fun _ _ => [⟨STO.CMD_STATUS_STATUS, .ro, false, false⟩, ⟨STO.CMD_STATUS_OP, .ro, false, false⟩, ⟨STO.CMD_STATUS_PEND, .ro, false, false⟩]⟩,
  ⟨0x10, 1, 0x8, 1, 0x8, fun _ _ => [⟨STO.STATUS_BUSY, .ro, false, false⟩, ⟨STO.STATUS_INTERNAL, .ro, false, false⟩, ⟨STO.STATUS_WR_IGN, .w1c, false, false⟩, ⟨STO.STATUS_WV_WR, .w1c, false, false⟩, ⟨STO.STATUS_JRNL_LOST, .w1c, false, false⟩]⟩,
  ⟨0x40, 4, 0x10, 1, 0x8, fun n _ => [⟨(STO.PBUF_LO_LO n), .rw, false, false⟩]⟩,
  ⟨0x48, 4, 0x10, 1, 0x8, fun n _ => [⟨(STO.PBUF_HI_HI n), .rw, false, false⟩]⟩,
  ⟨0x80, 1, 0x8, 1, 0x8, fun _ _ => [⟨STO.PBUF_CHK_CHK, .rw, false, false⟩]⟩,
  ⟨0x90, 4, 0x10, 1, 0x8, fun n _ => [⟨(STO.RBUF_LO_LO n), .ro, false, false⟩]⟩,
  ⟨0x98, 4, 0x10, 1, 0x8, fun n _ => [⟨(STO.RBUF_HI_HI n), .ro, false, false⟩]⟩,
  ⟨0xD0, 1, 0x8, 1, 0x8, fun _ _ => [⟨STO.RBUF_CHK_CHK, .ro, false, false⟩]⟩,
  ⟨0xD8, 1, 0x8, 1, 0x8, fun _ _ => [⟨STO.RRES_CORR, .ro, false, false⟩, ⟨STO.RRES_BLANK, .ro, false, false⟩, ⟨STO.RRES_TORN, .ro, false, false⟩, ⟨STO.RRES_UNCORR, .ro, false, false⟩]⟩,
  ⟨0xE0, 1, 0x8, 1, 0x8, fun _ _ => [⟨STO.ECC_CORR, .rc, false, false⟩, ⟨STO.ECC_UNCORR, .rc, false, false⟩]⟩,
  ⟨0xE8, 1, 0x8, 1, 0x8, fun _ _ => [⟨STO.ERR_ADDR_CW, .ro, false, false⟩, ⟨STO.ERR_ADDR_KIND, .ro, false, false⟩, ⟨STO.ERR_ADDR_VALID, .w1c, false, false⟩]⟩]

/-- Registers of STO by offset, part 1. -/
def STO.regTable1 : List RegDesc := [
  ⟨0xF0, 1, 0x8, 1, 0x8, fun _ _ => [⟨STO.HITS_TORN_RD, .rc, false, false⟩, ⟨STO.HITS_XO_HITS, .rc, false, false⟩]⟩,
  ⟨0xF8, 1, 0x8, 1, 0x8, fun _ _ => [⟨STO.EVT_DONE, .w1c, false, false⟩, ⟨STO.EVT_UNCORR, .w1c, false, false⟩, ⟨STO.EVT_TORN_FOUND, .w1c, false, false⟩, ⟨STO.EVT_XO_HIT, .w1c, false, false⟩, ⟨STO.EVT_DONE_EN, .rw, false, false⟩]⟩,
  ⟨0x100, 1, 0x8, 1, 0x8, fun _ _ => [⟨STO.REJECT_COUNT, .rc, false, false⟩]⟩,
  ⟨0x108, 1, 0x8, 1, 0x8, fun _ _ => [⟨STO.LAST_REJECT_CODE, .ro, false, false⟩, ⟨STO.LAST_REJECT_STATUS, .ro, false, false⟩]⟩,
  ⟨0x110, 1, 0x8, 1, 0x8, fun _ _ => [⟨STO.JSEQ_SEQ, .ro, false, false⟩, ⟨STO.JSEQ_HALF, .ro, false, false⟩, ⟨STO.JSEQ_FREE, .ro, false, false⟩]⟩,
  ⟨0x118, 1, 0x8, 1, 0x8, fun _ _ => [⟨STO.TRIM_REF, .rw, false, false⟩]⟩,
  ⟨0x140, 8, 0x8, 1, 0x8, fun k _ => [⟨(STO.TORN_SECTORS k), .ro, false, false⟩]⟩,
  ⟨0x200, 16, 0x8, 1, 0x8, fun n _ => [⟨(STO.XO_BASE n), .rw, false, true⟩, ⟨(STO.XO_LIMIT n), .rw, false, true⟩, ⟨(STO.XO_VALID n), .rw, false, true⟩, ⟨(STO.XO_MSLOT n), .rw, false, true⟩]⟩]

/-- Registers of STO by offset. -/
def STO.regTable : List RegDesc :=
  STO.regTable0 ++ STO.regTable1

/-! ### NOC (spec/12_waystation_network.md) -/

/-! NOC.STATUS, offset 0x0 (R320). -/
abbrev NOC.STATUS_WR_IGN : Fld := ⟨0x600000, 0, 1, 0⟩
abbrev NOC.STATUS_LINK_EVT : Fld := ⟨0x600000, 1, 1, 0⟩

/-! NOC.RECFG, offset 0x8 (R320). -/
abbrev NOC.RECFG_CLOSE : Fld := ⟨0x600008, 0, 1, 0⟩
abbrev NOC.RECFG_OPEN : Fld := ⟨0x600008, 1, 1, 0⟩
abbrev NOC.RECFG_STATE : Fld := ⟨0x600008, 4, 2, 0⟩
abbrev NOC.RECFG_DRAINED_EVT : Fld := ⟨0x600008, 6, 1, 0⟩
abbrev NOC.RECFG_DRAIN_CYC : Fld := ⟨0x600008, 32, 16, 0⟩

/-! NOC.RT_STAGE, offset 0x10 (R320). -/
abbrev NOC.RT_STAGE_BLK : Fld := ⟨0x600010, 0, 32, 4294967295⟩
abbrev NOC.RT_STAGE_RUNIT : Fld := ⟨0x600010, 32, 12, 4095⟩

/-! NOC.RT_ACT, offset 0x18 (R320). -/
abbrev NOC.RT_ACT_V : Fld := ⟨0x600018, 0, 44, 17592186044415⟩

/-! NOC.RSP_TIMEOUT, offset 0x20 (R320). -/
abbrev NOC.RSP_TIMEOUT_US : Fld := ⟨0x600020, 0, 32, 1000⟩

/-! NOC.REVOKE, offset 0x28 (R320). -/
abbrev NOC.REVOKE_BLK : Fld := ⟨0x600028, 0, 32, 0⟩
abbrev NOC.REVOKE_RGN : Fld := ⟨0x600028, 32, 4, 0⟩

/-! NOC.TOLL_CTRL, offset 0x30 (R320). -/
abbrev NOC.TOLL_CTRL_CLEAR : Fld := ⟨0x600030, 0, 1, 0⟩

/-! NOC.LINK, offset 0x100 (R320). -/
abbrev NOC.LINK_CORR (k : Nat) : Fld := ⟨0x600100 + 0x8 * k, 0, 16, 0⟩
abbrev NOC.LINK_RETRY (k : Nat) : Fld := ⟨0x600100 + 0x8 * k, 16, 16, 0⟩
abbrev NOC.LINK_POISON (k : Nat) : Fld := ⟨0x600100 + 0x8 * k, 32, 16, 0⟩
abbrev NOC.LINK_EVT (k : Nat) : Fld := ⟨0x600100 + 0x8 * k, 48, 1, 0⟩

/-! NOC.TRF_R, offset 0xC00 (R320). -/
abbrev NOC.TRF_R_W (q p : Nat) : Fld := ⟨0x600C00 + 0x80 * q + 0x8 * p, 0, 8, (regionPortWeight p)⟩

/-! NOC.TRF_T, offset 0xE00 (R320). -/
abbrev NOC.TRF_T_W (p : Nat) : Fld := ⟨0x600E00 + 0x8 * p, 0, 8, (trunkPortWeight p)⟩

/-! NOC.ITARIFF, offset 0x1000 (R320). -/
abbrev NOC.ITARIFF_T (i : Nat) : Fld := ⟨0x601000 + 0x8 * i, 0, 4, 1⟩

/-! NOC.SLOTS, offset 0x1800 (R320). -/
abbrev NOC.SLOTS_SLOTS (k : Nat) : Fld := ⟨0x601800 + 0x8 * k, 0, 10, (classSlots k)⟩
abbrev NOC.SLOTS_FREE (k : Nat) : Fld := ⟨0x601800 + 0x8 * k, 16, 10, 0⟩

/-! NOC.BERTH, offset 0x2000 (R320). -/
abbrev NOC.BERTH_GRANT (i k : Nat) : Fld := ⟨0x602000 + 0x80 * i + 0x8 * k, 0, 10, (grantReset i k)⟩
abbrev NOC.BERTH_HELD (i k : Nat) : Fld := ⟨0x602000 + 0x80 * i + 0x8 * k, 16, 10, 0⟩

/-! NOC.TOLL_A, offset 0x10000 (R320). -/
abbrev NOC.TOLL_A_BYTES (i : Nat) : Fld := ⟨0x610000 + 0x100 * i, 0, 48, 0⟩

/-! NOC.TOLL_B, offset 0x10008 (R320). -/
abbrev NOC.TOLL_B_PACKETS (i : Nat) : Fld := ⟨0x610008 + 0x100 * i, 0, 48, 0⟩

/-! NOC.TOLL_C, offset 0x10010 (R320). -/
abbrev NOC.TOLL_C_MAXLAT (i : Nat) : Fld := ⟨0x610010 + 0x100 * i, 0, 32, 0⟩

/-! NOC.TOLL_D, offset 0x10018 (R320). -/
abbrev NOC.TOLL_D_DOMAIN_OFF (i : Nat) : Fld := ⟨0x610018 + 0x100 * i, 0, 16, 0⟩
abbrev NOC.TOLL_D_NO_ROUTE (i : Nat) : Fld := ⟨0x610018 + 0x100 * i, 16, 16, 0⟩
abbrev NOC.TOLL_D_DENIED (i : Nat) : Fld := ⟨0x610018 + 0x100 * i, 32, 16, 0⟩
abbrev NOC.TOLL_D_FAULT (i : Nat) : Fld := ⟨0x610018 + 0x100 * i, 48, 16, 0⟩

/-! NOC.TOLL_E, offset 0x10020 (R320). -/
abbrev NOC.TOLL_E_LOST (i : Nat) : Fld := ⟨0x610020 + 0x100 * i, 0, 16, 0⟩

/-! NOC.TOLL_H, offset 0x10040 (R320). -/
abbrev NOC.TOLL_H_HIST (i k : Nat) : Fld := ⟨0x610040 + 0x100 * i + 0x8 * k, 0, 32, 0⟩

/-- Registers of NOC by offset, part 0. -/
def NOC.regTable0 : List RegDesc := [
  ⟨0x0, 1, 0x8, 1, 0x8, fun _ _ => [⟨NOC.STATUS_WR_IGN, .w1c, false, false⟩, ⟨NOC.STATUS_LINK_EVT, .ro, false, false⟩]⟩,
  ⟨0x8, 1, 0x8, 1, 0x8, fun _ _ => [⟨NOC.RECFG_CLOSE, .wo, false, false⟩, ⟨NOC.RECFG_OPEN, .wo, false, false⟩, ⟨NOC.RECFG_STATE, .ro, false, false⟩, ⟨NOC.RECFG_DRAINED_EVT, .w1c, false, false⟩, ⟨NOC.RECFG_DRAIN_CYC, .ro, false, false⟩]⟩,
  ⟨0x10, 1, 0x8, 1, 0x8, fun _ _ => [⟨NOC.RT_STAGE_BLK, .rw, false, false⟩, ⟨NOC.RT_STAGE_RUNIT, .rw, false, false⟩]⟩,
  ⟨0x18, 1, 0x8, 1, 0x8, fun _ _ => [⟨NOC.RT_ACT_V, .ro, false, false⟩]⟩,
  ⟨0x20, 1, 0x8, 1, 0x8, fun _ _ => [⟨NOC.RSP_TIMEOUT_US, .rw, false, false⟩]⟩,
  ⟨0x28, 1, 0x8, 1, 0x8, fun _ _ => [⟨NOC.REVOKE_BLK, .ro, false, false⟩, ⟨NOC.REVOKE_RGN, .ro, false, false⟩]⟩,
  ⟨0x30, 1, 0x8, 1, 0x8, fun _ _ => [⟨NOC.TOLL_CTRL_CLEAR, .wo, false, false⟩]⟩,
  ⟨0x100, 292, 0x8, 1, 0x8, fun k _ => [⟨(NOC.LINK_CORR k), .rc, false, false⟩, ⟨(NOC.LINK_RETRY k), .rc, false, false⟩, ⟨(NOC.LINK_POISON k), .rc, false, false⟩, ⟨(NOC.LINK_EVT k), .w1c, false, false⟩]⟩,
  ⟨0xC00, 4, 0x80, 11, 0x8, fun q p => [⟨(NOC.TRF_R_W q p), .rw, false, false⟩]⟩,
  ⟨0xE00, 7, 0x8, 1, 0x8, fun p _ => [⟨(NOC.TRF_T_W p), .rw, false, false⟩]⟩,
  ⟨0x1000, 68, 0x8, 1, 0x8, fun i _ => if i = 62 ∨ i = 63 then [] else [⟨(NOC.ITARIFF_T i), .rw, false, false⟩]⟩,
  ⟨0x1800, 15, 0x8, 1, 0x8, fun k _ => [⟨(NOC.SLOTS_SLOTS k), .ro, false, false⟩, ⟨(NOC.SLOTS_FREE k), .ro, false, false⟩]⟩]

/-- Registers of NOC by offset, part 1. -/
def NOC.regTable1 : List RegDesc := [
  ⟨0x2000, 68, 0x80, 15, 0x8, fun i k => [⟨(NOC.BERTH_GRANT i k), (if k = 10 then .ro else .rw), false, false⟩, ⟨(NOC.BERTH_HELD i k), .ro, false, false⟩]⟩,
  ⟨0x10000, 68, 0x100, 1, 0x8, fun i _ => [⟨(NOC.TOLL_A_BYTES i), .rc, false, false⟩]⟩,
  ⟨0x10008, 68, 0x100, 1, 0x8, fun i _ => [⟨(NOC.TOLL_B_PACKETS i), .rc, false, false⟩]⟩,
  ⟨0x10010, 68, 0x100, 1, 0x8, fun i _ => [⟨(NOC.TOLL_C_MAXLAT i), .rc, false, false⟩]⟩,
  ⟨0x10018, 68, 0x100, 1, 0x8, fun i _ => [⟨(NOC.TOLL_D_DOMAIN_OFF i), .rc, false, false⟩, ⟨(NOC.TOLL_D_NO_ROUTE i), .rc, false, false⟩, ⟨(NOC.TOLL_D_DENIED i), .rc, false, false⟩, ⟨(NOC.TOLL_D_FAULT i), .rc, false, false⟩]⟩,
  ⟨0x10020, 68, 0x100, 1, 0x8, fun i _ => [⟨(NOC.TOLL_E_LOST i), .rc, false, false⟩]⟩,
  ⟨0x10040, 68, 0x100, 16, 0x8, fun i k => [⟨(NOC.TOLL_H_HIST i k), .rc, false, false⟩]⟩]

/-- Registers of NOC by offset. -/
def NOC.regTable : List RegDesc :=
  NOC.regTable0 ++ NOC.regTable1

/-! ### MPR (spec/11_memories_and_ddr5.md) -/

/-! MPR.BASE, offset 0x80000 (R292). -/
abbrev MPR.BASE_BASE (m n : Nat) : Fld := ⟨0x680000 + 0x100 * m + 0x10 * n, 12, 36, 0⟩
abbrev MPR.BASE_EN (m n : Nat) : Fld := ⟨0x680000 + 0x100 * m + 0x10 * n, 0, 1, (mprReset m n)⟩
abbrev MPR.BASE_R (m n : Nat) : Fld := ⟨0x680000 + 0x100 * m + 0x10 * n, 1, 1, (mprReset m n)⟩
abbrev MPR.BASE_W (m n : Nat) : Fld := ⟨0x680000 + 0x100 * m + 0x10 * n, 2, 1, (mprReset m n)⟩
abbrev MPR.BASE_X (m n : Nat) : Fld := ⟨0x680000 + 0x100 * m + 0x10 * n, 3, 1, (mprReset m n)⟩
abbrev MPR.BASE_XO (m n : Nat) : Fld := ⟨0x680000 + 0x100 * m + 0x10 * n, 4, 1, 0⟩
abbrev MPR.BASE_LOCK (m n : Nat) : Fld := ⟨0x680000 + 0x100 * m + 0x10 * n, 5, 1, 0⟩

/-! MPR.LIMIT, offset 0x80008 (R292). -/
abbrev MPR.LIMIT_LIMIT (m n : Nat) : Fld := ⟨0x680008 + 0x100 * m + 0x10 * n, 12, 36, (if mprReset m n = 1 then 0xFFFFFFFFF else 0)⟩

/-! MPR.STATUS, offset 0x84000 (R292). -/
abbrev MPR.STATUS_WR_IGN : Fld := ⟨0x684000, 0, 1, 0⟩

/-! MPR.VIOL_INFO, offset 0x84008 (R292). -/
abbrev MPR.VIOL_INFO_MASTER : Fld := ⟨0x684008, 0, 6, 0⟩
abbrev MPR.VIOL_INFO_KIND : Fld := ⟨0x684008, 8, 2, 0⟩
abbrev MPR.VIOL_INFO_REASON : Fld := ⟨0x684008, 12, 3, 0⟩
abbrev MPR.VIOL_INFO_VALID : Fld := ⟨0x684008, 16, 1, 0⟩

/-! MPR.VIOL_ADDR, offset 0x84010 (R292). -/
abbrev MPR.VIOL_ADDR_ADDR : Fld := ⟨0x684010, 0, 48, 0⟩

/-! MPR.VIOL_COUNT, offset 0x84018 (R292). -/
abbrev MPR.VIOL_COUNT_COUNT : Fld := ⟨0x684018, 0, 32, 0⟩

/-- Registers of MPR by offset, part 0. -/
def MPR.regTable0 : List RegDesc := [
  ⟨0x80000, 62, 0x100, 16, 0x10, fun m n => [⟨(MPR.BASE_BASE m n), .rw, false, false⟩, ⟨(MPR.BASE_EN m n), .rw, false, false⟩, ⟨(MPR.BASE_R m n), .rw, false, false⟩, ⟨(MPR.BASE_W m n), .rw, false, false⟩, ⟨(MPR.BASE_X m n), .rw, false, false⟩, ⟨(MPR.BASE_XO m n), .rw, false, false⟩, ⟨(MPR.BASE_LOCK m n), .rwl, false, false⟩]⟩,
  ⟨0x80008, 62, 0x100, 16, 0x10, fun m n => [⟨(MPR.LIMIT_LIMIT m n), .rw, false, false⟩]⟩,
  ⟨0x84000, 1, 0x8, 1, 0x8, fun _ _ => [⟨MPR.STATUS_WR_IGN, .w1c, false, false⟩]⟩,
  ⟨0x84008, 1, 0x8, 1, 0x8, fun _ _ => [⟨MPR.VIOL_INFO_MASTER, .ro, false, false⟩, ⟨MPR.VIOL_INFO_KIND, .ro, false, false⟩, ⟨MPR.VIOL_INFO_REASON, .ro, false, false⟩, ⟨MPR.VIOL_INFO_VALID, .w1c, false, false⟩]⟩,
  ⟨0x84010, 1, 0x8, 1, 0x8, fun _ _ => [⟨MPR.VIOL_ADDR_ADDR, .ro, false, false⟩]⟩,
  ⟨0x84018, 1, 0x8, 1, 0x8, fun _ _ => [⟨MPR.VIOL_COUNT_COUNT, .rc, false, false⟩]⟩]

/-- Registers of MPR by offset. -/
def MPR.regTable : List RegDesc :=
  MPR.regTable0

/-! ### GPIO (spec/19_gpio.md) -/

/-! GPIO.STATUS, offset 0x0 (R476). -/
abbrev GPIO.STATUS_WR_IGN : Fld := ⟨0x700000, 0, 1, 0⟩
abbrev GPIO.STATUS_VS_A : Fld := ⟨0x700000, 4, 2, 0⟩
abbrev GPIO.STATUS_VS_B : Fld := ⟨0x700000, 8, 2, 0⟩
abbrev GPIO.STATUS_VS_C : Fld := ⟨0x700000, 12, 2, 0⟩

/-! GPIO.PERIPH_EVT, offset 0x8 (R476). -/
abbrev GPIO.PERIPH_EVT_I2C : Fld := ⟨0x700008, 0, 4, 0⟩
abbrev GPIO.PERIPH_EVT_SPI : Fld := ⟨0x700008, 4, 2, 0⟩
abbrev GPIO.PERIPH_EVT_UART : Fld := ⟨0x700008, 6, 2, 0⟩
abbrev GPIO.PERIPH_EVT_PMB_ALERT : Fld := ⟨0x700008, 8, 1, 0⟩
abbrev GPIO.PERIPH_EVT_HPI : Fld := ⟨0x700008, 9, 1, 0⟩
abbrev GPIO.PERIPH_EVT_CAP_EVT : Fld := ⟨0x700008, 10, 8, 0⟩
abbrev GPIO.PERIPH_EVT_EN : Fld := ⟨0x700008, 32, 32, 0⟩

/-! GPIO.IN, offset 0x100 (R476). -/
abbrev GPIO.IN_IN (k : Nat) : Fld := ⟨0x700100 + 0x40 * k, 0, 32, 0⟩

/-! GPIO.OUT, offset 0x108 (R476). -/
abbrev GPIO.OUT_OUT (k : Nat) : Fld := ⟨0x700108 + 0x40 * k, 0, 32, 0⟩

/-! GPIO.OUT_SET, offset 0x110 (R476). -/
abbrev GPIO.OUT_SET_OUT (k : Nat) : Fld := ⟨0x700110 + 0x40 * k, 0, 32, 0⟩

/-! GPIO.OUT_CLR, offset 0x118 (R476). -/
abbrev GPIO.OUT_CLR_OUT (k : Nat) : Fld := ⟨0x700118 + 0x40 * k, 0, 32, 0⟩

/-! GPIO.OE, offset 0x120 (R476). -/
abbrev GPIO.OE_OE (k : Nat) : Fld := ⟨0x700120 + 0x40 * k, 0, 32, 0⟩

/-! GPIO.PIN, offset 0x400 (R476). -/
abbrev GPIO.PIN_FUNC (n : Nat) : Fld := ⟨0x700400 + 0x8 * n, 0, 4, 0⟩
abbrev GPIO.PIN_SEL (n : Nat) : Fld := ⟨0x700400 + 0x8 * n, 4, 9, 0⟩
abbrev GPIO.PIN_DRIVE (n : Nat) : Fld := ⟨0x700400 + 0x8 * n, 16, 2, 1⟩
abbrev GPIO.PIN_PULL (n : Nat) : Fld := ⟨0x700400 + 0x8 * n, 18, 2, 2⟩
abbrev GPIO.PIN_SLOW (n : Nat) : Fld := ⟨0x700400 + 0x8 * n, 20, 1, 0⟩
abbrev GPIO.PIN_OD (n : Nat) : Fld := ⟨0x700400 + 0x8 * n, 21, 1, 0⟩
abbrev GPIO.PIN_SCHMITT (n : Nat) : Fld := ⟨0x700400 + 0x8 * n, 22, 1, 1⟩
abbrev GPIO.PIN_HOLD (n : Nat) : Fld := ⟨0x700400 + 0x8 * n, 24, 1, 0⟩

/-! GPIO.PM_CFG, offset 0x800 (R476). -/
abbrev GPIO.PM_CFG_BASE (k : Nat) : Fld := ⟨0x700800 + 0x10 * k, 0, 7, 0⟩
abbrev GPIO.PM_CFG_MODE (k : Nat) : Fld := ⟨0x700800 + 0x10 * k, 8, 2, 0⟩
abbrev GPIO.PM_CFG_EN (k : Nat) : Fld := ⟨0x700800 + 0x10 * k, 10, 1, 0⟩
abbrev GPIO.PM_CFG_DEBOUNCE (k : Nat) : Fld := ⟨0x700800 + 0x10 * k, 16, 16, 0⟩
abbrev GPIO.PM_CFG_MASK (k : Nat) : Fld := ⟨0x700800 + 0x10 * k, 32, 16, 0⟩
abbrev GPIO.PM_CFG_VALUE (k : Nat) : Fld := ⟨0x700800 + 0x10 * k, 48, 16, 0⟩

/-! GPIO.PM_STATUS, offset 0x808 (R476). -/
abbrev GPIO.PM_STATUS_D (k : Nat) : Fld := ⟨0x700808 + 0x10 * k, 0, 1, 0⟩
abbrev GPIO.PM_STATUS_HIT (k : Nat) : Fld := ⟨0x700808 + 0x10 * k, 1, 1, 0⟩

/-! GPIO.HPI_CTRL, offset 0x900 (R476). -/
abbrev GPIO.HPI_CTRL_EOT : Fld := ⟨0x700900, 0, 1, 0⟩
abbrev GPIO.HPI_CTRL_WAIT_RDY : Fld := ⟨0x700900, 1, 1, 0⟩
abbrev GPIO.HPI_CTRL_BIN : Fld := ⟨0x700900, 8, 8, 0⟩
abbrev GPIO.HPI_CTRL_DEBOUNCE : Fld := ⟨0x700900, 16, 16, 100⟩
abbrev GPIO.HPI_CTRL_SETUP_US : Fld := ⟨0x700900, 32, 16, 1⟩
abbrev GPIO.HPI_CTRL_PULSE_US : Fld := ⟨0x700900, 48, 16, 10⟩

/-! GPIO.HPI_STATUS, offset 0x908 (R476). -/
abbrev GPIO.HPI_STATUS_SOT : Fld := ⟨0x700908, 0, 1, 0⟩
abbrev GPIO.HPI_STATUS_DONE : Fld := ⟨0x700908, 1, 1, 0⟩
abbrev GPIO.HPI_STATUS_RDY_TO : Fld := ⟨0x700908, 2, 1, 0⟩
abbrev GPIO.HPI_STATUS_CUT : Fld := ⟨0x700908, 3, 1, 0⟩
abbrev GPIO.HPI_STATUS_BUSY : Fld := ⟨0x700908, 4, 1, 0⟩

/-! GPIO.I2C_CTRL, offset 0x1000 (R476). -/
abbrev GPIO.I2C_CTRL_DIV (i : Nat) : Fld := ⟨0x701000 + 0x40 * i, 0, 16, 0⟩
abbrev GPIO.I2C_CTRL_MODE (i : Nat) : Fld := ⟨0x701000 + 0x40 * i, 16, 4, 0⟩

/-! GPIO.I2C_DATA, offset 0x1008 (R476). -/
abbrev GPIO.I2C_DATA_DATA (i : Nat) : Fld := ⟨0x701008 + 0x40 * i, 0, 8, 0⟩
abbrev GPIO.I2C_DATA_ADDR (i : Nat) : Fld := ⟨0x701008 + 0x40 * i, 8, 7, 0⟩

/-! GPIO.I2C_STATUS, offset 0x1010 (R476). -/
abbrev GPIO.I2C_STATUS_TXLVL (i : Nat) : Fld := ⟨0x701010 + 0x40 * i, 0, 5, 0⟩
abbrev GPIO.I2C_STATUS_RXLVL (i : Nat) : Fld := ⟨0x701010 + 0x40 * i, 8, 5, 0⟩
abbrev GPIO.I2C_STATUS_ERR (i : Nat) : Fld := ⟨0x701010 + 0x40 * i, 16, 1, 0⟩

/-! GPIO.I2C_GO, offset 0x1018 (R476). -/
abbrev GPIO.I2C_GO_LEN (i : Nat) : Fld := ⟨0x701018 + 0x40 * i, 0, 8, 0⟩

/-! GPIO.SPI_CTRL, offset 0x1200 (R476). -/
abbrev GPIO.SPI_CTRL_DIV (i : Nat) : Fld := ⟨0x701200 + 0x40 * i, 0, 16, 0⟩
abbrev GPIO.SPI_CTRL_MODE (i : Nat) : Fld := ⟨0x701200 + 0x40 * i, 16, 4, 0⟩

/-! GPIO.SPI_DATA, offset 0x1208 (R476). -/
abbrev GPIO.SPI_DATA_DATA (i : Nat) : Fld := ⟨0x701208 + 0x40 * i, 0, 8, 0⟩
abbrev GPIO.SPI_DATA_ADDR (i : Nat) : Fld := ⟨0x701208 + 0x40 * i, 8, 7, 0⟩

/-! GPIO.SPI_STATUS, offset 0x1210 (R476). -/
abbrev GPIO.SPI_STATUS_TXLVL (i : Nat) : Fld := ⟨0x701210 + 0x40 * i, 0, 5, 0⟩
abbrev GPIO.SPI_STATUS_RXLVL (i : Nat) : Fld := ⟨0x701210 + 0x40 * i, 8, 5, 0⟩
abbrev GPIO.SPI_STATUS_ERR (i : Nat) : Fld := ⟨0x701210 + 0x40 * i, 16, 1, 0⟩

/-! GPIO.SPI_GO, offset 0x1218 (R476). -/
abbrev GPIO.SPI_GO_LEN (i : Nat) : Fld := ⟨0x701218 + 0x40 * i, 0, 8, 0⟩

/-! GPIO.UART_CTRL, offset 0x1300 (R476). -/
abbrev GPIO.UART_CTRL_DIV (i : Nat) : Fld := ⟨0x701300 + 0x40 * i, 0, 16, 0⟩
abbrev GPIO.UART_CTRL_MODE (i : Nat) : Fld := ⟨0x701300 + 0x40 * i, 16, 4, 0⟩

/-! GPIO.UART_DATA, offset 0x1308 (R476). -/
abbrev GPIO.UART_DATA_DATA (i : Nat) : Fld := ⟨0x701308 + 0x40 * i, 0, 8, 0⟩
abbrev GPIO.UART_DATA_ADDR (i : Nat) : Fld := ⟨0x701308 + 0x40 * i, 8, 7, 0⟩

/-! GPIO.UART_STATUS, offset 0x1310 (R476). -/
abbrev GPIO.UART_STATUS_TXLVL (i : Nat) : Fld := ⟨0x701310 + 0x40 * i, 0, 5, 0⟩
abbrev GPIO.UART_STATUS_RXLVL (i : Nat) : Fld := ⟨0x701310 + 0x40 * i, 8, 5, 0⟩
abbrev GPIO.UART_STATUS_ERR (i : Nat) : Fld := ⟨0x701310 + 0x40 * i, 16, 1, 0⟩

/-! GPIO.UART_GO, offset 0x1318 (R476). -/
abbrev GPIO.UART_GO_LEN (i : Nat) : Fld := ⟨0x701318 + 0x40 * i, 0, 8, 0⟩

/-! GPIO.TMR, offset 0xA00 (R476). -/
abbrev GPIO.TMR_PERIOD (k : Nat) : Fld := ⟨0x700A00 + 0x10 * k, 0, 32, 0⟩
abbrev GPIO.TMR_DUTY (k : Nat) : Fld := ⟨0x700A00 + 0x10 * k, 32, 32, 0⟩

/-! GPIO.TMRC, offset 0xA08 (R476). -/
abbrev GPIO.TMRC_CAP (k : Nat) : Fld := ⟨0x700A08 + 0x10 * k, 0, 32, 0⟩
abbrev GPIO.TMRC_CAPTURE (k : Nat) : Fld := ⟨0x700A08 + 0x10 * k, 32, 1, 0⟩

/-! GPIO.TRACE, offset 0xB00 (R476). -/
abbrev GPIO.TRACE_SRC0 (j : Nat) : Fld := ⟨0x700B00 + 0x8 * j, 0, 11, 0⟩
abbrev GPIO.TRACE_SRC1 (j : Nat) : Fld := ⟨0x700B00 + 0x8 * j, 16, 11, 0⟩
abbrev GPIO.TRACE_SRC2 (j : Nat) : Fld := ⟨0x700B00 + 0x8 * j, 32, 11, 0⟩
abbrev GPIO.TRACE_SRC3 (j : Nat) : Fld := ⟨0x700B00 + 0x8 * j, 48, 11, 0⟩

/-- Registers of GPIO by offset, part 0. -/
def GPIO.regTable0 : List RegDesc := [
  ⟨0x0, 1, 0x8, 1, 0x8, fun _ _ => [⟨GPIO.STATUS_WR_IGN, .w1c, false, false⟩, ⟨GPIO.STATUS_VS_A, .ro, false, false⟩, ⟨GPIO.STATUS_VS_B, .ro, false, false⟩, ⟨GPIO.STATUS_VS_C, .ro, false, false⟩]⟩,
  ⟨0x8, 1, 0x8, 1, 0x8, fun _ _ => [⟨GPIO.PERIPH_EVT_I2C, .w1c, false, false⟩, ⟨GPIO.PERIPH_EVT_SPI, .w1c, false, false⟩, ⟨GPIO.PERIPH_EVT_UART, .w1c, false, false⟩, ⟨GPIO.PERIPH_EVT_PMB_ALERT, .w1c, false, false⟩, ⟨GPIO.PERIPH_EVT_HPI, .ro, false, false⟩, ⟨GPIO.PERIPH_EVT_CAP_EVT, .w1c, false, false⟩, ⟨GPIO.PERIPH_EVT_EN, .rw, false, false⟩]⟩,
  ⟨0x100, 3, 0x40, 1, 0x8, fun k _ => [⟨(GPIO.IN_IN k), .ro, false, false⟩]⟩,
  ⟨0x108, 3, 0x40, 1, 0x8, fun k _ => [⟨(GPIO.OUT_OUT k), .rw, false, false⟩]⟩,
  ⟨0x110, 3, 0x40, 1, 0x8, fun k _ => [⟨(GPIO.OUT_SET_OUT k), .w1s, false, false⟩]⟩,
  ⟨0x118, 3, 0x40, 1, 0x8, fun k _ => [⟨(GPIO.OUT_CLR_OUT k), .w1c, false, false⟩]⟩,
  ⟨0x120, 3, 0x40, 1, 0x8, fun k _ => [⟨(GPIO.OE_OE k), .rw, false, false⟩]⟩,
  ⟨0x400, 96, 0x8, 1, 0x8, fun n _ => [⟨(GPIO.PIN_FUNC n), .rw, false, false⟩, ⟨(GPIO.PIN_SEL n), .rw, false, false⟩, ⟨(GPIO.PIN_DRIVE n), .rw, false, false⟩, ⟨(GPIO.PIN_PULL n), .rw, false, false⟩, ⟨(GPIO.PIN_SLOW n), .rw, false, false⟩, ⟨(GPIO.PIN_OD n), .rw, false, false⟩, ⟨(GPIO.PIN_SCHMITT n), .rw, false, false⟩, ⟨(GPIO.PIN_HOLD n), .ro, false, false⟩]⟩,
  ⟨0x800, 4, 0x10, 1, 0x8, fun k _ => [⟨(GPIO.PM_CFG_BASE k), .rw, false, false⟩, ⟨(GPIO.PM_CFG_MODE k), .rw, false, false⟩, ⟨(GPIO.PM_CFG_EN k), .rw, false, false⟩, ⟨(GPIO.PM_CFG_DEBOUNCE k), .rw, false, false⟩, ⟨(GPIO.PM_CFG_MASK k), .rw, false, false⟩, ⟨(GPIO.PM_CFG_VALUE k), .rw, false, false⟩]⟩,
  ⟨0x808, 4, 0x10, 1, 0x8, fun k _ => [⟨(GPIO.PM_STATUS_D k), .ro, false, false⟩, ⟨(GPIO.PM_STATUS_HIT k), .w1c, false, false⟩]⟩,
  ⟨0x900, 1, 0x8, 1, 0x8, fun _ _ => [⟨GPIO.HPI_CTRL_EOT, .wo, false, false⟩, ⟨GPIO.HPI_CTRL_WAIT_RDY, .rw, false, false⟩, ⟨GPIO.HPI_CTRL_BIN, .rw, false, false⟩, ⟨GPIO.HPI_CTRL_DEBOUNCE, .rw, false, false⟩, ⟨GPIO.HPI_CTRL_SETUP_US, .rw, false, false⟩, ⟨GPIO.HPI_CTRL_PULSE_US, .rw, false, false⟩]⟩,
  ⟨0x908, 1, 0x8, 1, 0x8, fun _ _ => [⟨GPIO.HPI_STATUS_SOT, .w1c, false, false⟩, ⟨GPIO.HPI_STATUS_DONE, .w1c, false, false⟩, ⟨GPIO.HPI_STATUS_RDY_TO, .w1c, false, false⟩, ⟨GPIO.HPI_STATUS_CUT, .w1c, false, false⟩, ⟨GPIO.HPI_STATUS_BUSY, .ro, false, false⟩]⟩]

/-- Registers of GPIO by offset, part 1. -/
def GPIO.regTable1 : List RegDesc := [
  ⟨0x1000, 4, 0x40, 1, 0x8, fun i _ => [⟨(GPIO.I2C_CTRL_DIV i), .rw, false, false⟩, ⟨(GPIO.I2C_CTRL_MODE i), .rw, false, false⟩]⟩,
  ⟨0x1008, 4, 0x40, 1, 0x8, fun i _ => [⟨(GPIO.I2C_DATA_DATA i), .rw, false, false⟩, ⟨(GPIO.I2C_DATA_ADDR i), .rw, false, false⟩]⟩,
  ⟨0x1010, 4, 0x40, 1, 0x8, fun i _ => [⟨(GPIO.I2C_STATUS_TXLVL i), .ro, false, false⟩, ⟨(GPIO.I2C_STATUS_RXLVL i), .ro, false, false⟩, ⟨(GPIO.I2C_STATUS_ERR i), .w1c, false, false⟩]⟩,
  ⟨0x1018, 4, 0x40, 1, 0x8, fun i _ => [⟨(GPIO.I2C_GO_LEN i), .wo, false, false⟩]⟩,
  ⟨0x1200, 2, 0x40, 1, 0x8, fun i _ => [⟨(GPIO.SPI_CTRL_DIV i), .rw, false, false⟩, ⟨(GPIO.SPI_CTRL_MODE i), .rw, false, false⟩]⟩,
  ⟨0x1208, 2, 0x40, 1, 0x8, fun i _ => [⟨(GPIO.SPI_DATA_DATA i), .rw, false, false⟩, ⟨(GPIO.SPI_DATA_ADDR i), .rw, false, false⟩]⟩,
  ⟨0x1210, 2, 0x40, 1, 0x8, fun i _ => [⟨(GPIO.SPI_STATUS_TXLVL i), .ro, false, false⟩, ⟨(GPIO.SPI_STATUS_RXLVL i), .ro, false, false⟩, ⟨(GPIO.SPI_STATUS_ERR i), .w1c, false, false⟩]⟩,
  ⟨0x1218, 2, 0x40, 1, 0x8, fun i _ => [⟨(GPIO.SPI_GO_LEN i), .wo, false, false⟩]⟩,
  ⟨0x1300, 2, 0x40, 1, 0x8, fun i _ => [⟨(GPIO.UART_CTRL_DIV i), .rw, false, false⟩, ⟨(GPIO.UART_CTRL_MODE i), .rw, false, false⟩]⟩,
  ⟨0x1308, 2, 0x40, 1, 0x8, fun i _ => [⟨(GPIO.UART_DATA_DATA i), .rw, false, false⟩, ⟨(GPIO.UART_DATA_ADDR i), .rw, false, false⟩]⟩,
  ⟨0x1310, 2, 0x40, 1, 0x8, fun i _ => [⟨(GPIO.UART_STATUS_TXLVL i), .ro, false, false⟩, ⟨(GPIO.UART_STATUS_RXLVL i), .ro, false, false⟩, ⟨(GPIO.UART_STATUS_ERR i), .w1c, false, false⟩]⟩,
  ⟨0x1318, 2, 0x40, 1, 0x8, fun i _ => [⟨(GPIO.UART_GO_LEN i), .wo, false, false⟩]⟩]

/-- Registers of GPIO by offset, part 2. -/
def GPIO.regTable2 : List RegDesc := [
  ⟨0xA00, 8, 0x10, 1, 0x8, fun k _ => [⟨(GPIO.TMR_PERIOD k), .rw, false, false⟩, ⟨(GPIO.TMR_DUTY k), .rw, false, false⟩]⟩,
  ⟨0xA08, 8, 0x10, 1, 0x8, fun k _ => [⟨(GPIO.TMRC_CAP k), .ro, false, false⟩, ⟨(GPIO.TMRC_CAPTURE k), .rw, false, false⟩]⟩,
  ⟨0xB00, 4, 0x8, 1, 0x8, fun j _ => [⟨(GPIO.TRACE_SRC0 j), .rw, false, false⟩, ⟨(GPIO.TRACE_SRC1 j), .rw, false, false⟩, ⟨(GPIO.TRACE_SRC2 j), .rw, false, false⟩, ⟨(GPIO.TRACE_SRC3 j), .rw, false, false⟩]⟩]

/-- Registers of GPIO by offset. -/
def GPIO.regTable : List RegDesc :=
  GPIO.regTable0 ++ GPIO.regTable1 ++ GPIO.regTable2

/-! ### CVY (spec/18_host_and_convoy_links.md) -/

/-! CVY.CFG, offset 0x0 (R443). -/
abbrev CVY.CFG_HEAD : Fld := ⟨0x800000, 0, 1, 0⟩
abbrev CVY.CFG_START_EN : Fld := ⟨0x800000, 1, 1, 0⟩
abbrev CVY.CFG_SYNC_EN : Fld := ⟨0x800000, 2, 1, 0⟩
abbrev CVY.CFG_AUTO_SYNC : Fld := ⟨0x800000, 3, 1, 0⟩
abbrev CVY.CFG_KMAX : Fld := ⟨0x800000, 8, 6, 63⟩
abbrev CVY.CFG_ARRIVE_PS : Fld := ⟨0x800000, 16, 24, 0⟩
abbrev CVY.CFG_BUDGET_PS : Fld := ⟨0x800000, 40, 24, 0⟩

/-! CVY.TX, offset 0x8 (R443). -/
abbrev CVY.TX_CMD : Fld := ⟨0x800008, 0, 3, 0⟩

/-! CVY.STATUS, offset 0x10 (R443). -/
abbrev CVY.STATUS_RX_LOCK : Fld := ⟨0x800010, 0, 1, 0⟩
abbrev CVY.STATUS_ALIGNED : Fld := ⟨0x800010, 1, 1, 0⟩
abbrev CVY.STATUS_ALIGN_ERR : Fld := ⟨0x800010, 2, 1, 0⟩
abbrev CVY.STATUS_WR_IGN : Fld := ⟨0x800010, 3, 1, 0⟩
abbrev CVY.STATUS_LOCK_LOST : Fld := ⟨0x800010, 4, 1, 0⟩
abbrev CVY.STATUS_FLAG_IN : Fld := ⟨0x800010, 5, 1, 0⟩
abbrev CVY.STATUS_FLAG_OUT : Fld := ⟨0x800010, 6, 1, 0⟩
abbrev CVY.STATUS_ARRIVED : Fld := ⟨0x800010, 7, 1, 0⟩
abbrev CVY.STATUS_REF_TREF : Fld := ⟨0x800010, 8, 1, 0⟩
abbrev CVY.STATUS_BAD_EVT : Fld := ⟨0x800010, 9, 1, 0⟩
abbrev CVY.STATUS_POS : Fld := ⟨0x800010, 16, 6, 0⟩

/-! CVY.COUNT, offset 0x18 (R443). -/
abbrev CVY.COUNT_BAD : Fld := ⟨0x800018, 0, 16, 0⟩
abbrev CVY.COUNT_LATE : Fld := ⟨0x800018, 16, 16, 0⟩
abbrev CVY.COUNT_STRAY_SYNC : Fld := ⟨0x800018, 32, 16, 0⟩
abbrev CVY.COUNT_FRAMES : Fld := ⟨0x800018, 48, 16, 0⟩

/-! CVY.LAST, offset 0x20 (R443). -/
abbrev CVY.LAST_CMD : Fld := ⟨0x800020, 0, 3, 0⟩
abbrev CVY.LAST_HOP : Fld := ⟨0x800020, 8, 8, 0⟩

/-! CVY.DIAG, offset 0x40 (R443). -/
abbrev CVY.DIAG_PRBS_EN : Fld := ⟨0x800040, 0, 1, 0⟩
abbrev CVY.DIAG_LOOP : Fld := ⟨0x800040, 1, 1, 0⟩
abbrev CVY.DIAG_ERRS : Fld := ⟨0x800040, 32, 32, 0⟩

/-- Registers of CVY by offset, part 0. -/
def CVY.regTable0 : List RegDesc := [
  ⟨0x0, 1, 0x8, 1, 0x8, fun _ _ => [⟨CVY.CFG_HEAD, .rw, false, false⟩, ⟨CVY.CFG_START_EN, .rw, false, false⟩, ⟨CVY.CFG_SYNC_EN, .rw, false, false⟩, ⟨CVY.CFG_AUTO_SYNC, .rw, false, false⟩, ⟨CVY.CFG_KMAX, .rw, false, false⟩, ⟨CVY.CFG_ARRIVE_PS, .rw, false, false⟩, ⟨CVY.CFG_BUDGET_PS, .rw, false, false⟩]⟩,
  ⟨0x8, 1, 0x8, 1, 0x8, fun _ _ => [⟨CVY.TX_CMD, .wo, false, false⟩]⟩,
  ⟨0x10, 1, 0x8, 1, 0x8, fun _ _ => [⟨CVY.STATUS_RX_LOCK, .ro, false, false⟩, ⟨CVY.STATUS_ALIGNED, .ro, false, false⟩, ⟨CVY.STATUS_ALIGN_ERR, .w1c, false, false⟩, ⟨CVY.STATUS_WR_IGN, .w1c, false, false⟩, ⟨CVY.STATUS_LOCK_LOST, .w1c, false, false⟩, ⟨CVY.STATUS_FLAG_IN, .ro, false, false⟩, ⟨CVY.STATUS_FLAG_OUT, .ro, false, false⟩, ⟨CVY.STATUS_ARRIVED, .ro, false, false⟩, ⟨CVY.STATUS_REF_TREF, .ro, false, false⟩, ⟨CVY.STATUS_BAD_EVT, .w1c, false, false⟩, ⟨CVY.STATUS_POS, .ro, false, false⟩]⟩,
  ⟨0x18, 1, 0x8, 1, 0x8, fun _ _ => [⟨CVY.COUNT_BAD, .rc, false, false⟩, ⟨CVY.COUNT_LATE, .rc, false, false⟩, ⟨CVY.COUNT_STRAY_SYNC, .rc, false, false⟩, ⟨CVY.COUNT_FRAMES, .rc, false, false⟩]⟩,
  ⟨0x20, 1, 0x8, 1, 0x8, fun _ _ => [⟨CVY.LAST_CMD, .ro, false, false⟩, ⟨CVY.LAST_HOP, .ro, false, false⟩]⟩,
  ⟨0x40, 1, 0x8, 1, 0x8, fun _ _ => [⟨CVY.DIAG_PRBS_EN, .rw, false, false⟩, ⟨CVY.DIAG_LOOP, .rw, false, false⟩, ⟨CVY.DIAG_ERRS, .rc, false, false⟩]⟩]

/-- Registers of CVY by offset. -/
def CVY.regTable : List RegDesc :=
  CVY.regTable0

/-! ### PCI (spec/18_host_and_convoy_links.md) -/

/-! PCI.STATUS, offset 0x0 (R443). -/
abbrev PCI.STATUS_LINK_UP : Fld := ⟨0x900000, 0, 1, 0⟩
abbrev PCI.STATUS_LSTATE : Fld := ⟨0x900000, 1, 3, 0⟩
abbrev PCI.STATUS_SPEED : Fld := ⟨0x900000, 4, 3, 0⟩
abbrev PCI.STATUS_WIDTH : Fld := ⟨0x900000, 8, 3, 0⟩
abbrev PCI.STATUS_DSTATE : Fld := ⟨0x900000, 12, 2, 0⟩
abbrev PCI.STATUS_LINK_EVT : Fld := ⟨0x900000, 16, 1, 0⟩
abbrev PCI.STATUS_ERR_EVT : Fld := ⟨0x900000, 17, 1, 0⟩

/-! PCI.WIN, offset 0x8 (R443). -/
abbrev PCI.WIN_BASE : Fld := ⟨0x900008, 36, 12, 0⟩

/-! PCI.ERR, offset 0x10 (R443). -/
abbrev PCI.ERR_CA : Fld := ⟨0x900010, 0, 32, 0⟩
abbrev PCI.ERR_POISONED : Fld := ⟨0x900010, 32, 16, 0⟩
abbrev PCI.ERR_VALID : Fld := ⟨0x900010, 48, 1, 0⟩

/-! PCI.ERR_ADDR, offset 0x18 (R443). -/
abbrev PCI.ERR_ADDR_ADDR : Fld := ⟨0x900018, 0, 48, 0⟩
abbrev PCI.ERR_ADDR_STATUS : Fld := ⟨0x900018, 56, 8, 0⟩

/-- Registers of PCI by offset, part 0. -/
def PCI.regTable0 : List RegDesc := [
  ⟨0x0, 1, 0x8, 1, 0x8, fun _ _ => [⟨PCI.STATUS_LINK_UP, .ro, false, false⟩, ⟨PCI.STATUS_LSTATE, .ro, false, false⟩, ⟨PCI.STATUS_SPEED, .ro, false, false⟩, ⟨PCI.STATUS_WIDTH, .ro, false, false⟩, ⟨PCI.STATUS_DSTATE, .ro, false, false⟩, ⟨PCI.STATUS_LINK_EVT, .w1c, false, false⟩, ⟨PCI.STATUS_ERR_EVT, .w1c, false, false⟩]⟩,
  ⟨0x8, 1, 0x8, 1, 0x8, fun _ _ => [⟨PCI.WIN_BASE, .rw, false, false⟩]⟩,
  ⟨0x10, 1, 0x8, 1, 0x8, fun _ _ => [⟨PCI.ERR_CA, .rc, false, false⟩, ⟨PCI.ERR_POISONED, .rc, false, false⟩, ⟨PCI.ERR_VALID, .w1c, false, false⟩]⟩,
  ⟨0x18, 1, 0x8, 1, 0x8, fun _ _ => [⟨PCI.ERR_ADDR_ADDR, .ro, false, false⟩, ⟨PCI.ERR_ADDR_STATUS, .ro, false, false⟩]⟩]

/-- Registers of PCI by offset. -/
def PCI.regTable : List RegDesc :=
  PCI.regTable0

/-! ### MSIX (spec/18_host_and_convoy_links.md) -/

/-! MSIX.ADDR, offset 0x0 (R443). -/
abbrev MSIX.ADDR_ADDR (n : Nat) : Fld := ⟨0x910000 + 0x10 * n, 0, 64, 0⟩

/-! MSIX.DATA, offset 0x8 (R443). -/
abbrev MSIX.DATA_DATA (n : Nat) : Fld := ⟨0x910008 + 0x10 * n, 0, 32, 0⟩
abbrev MSIX.DATA_MASK (n : Nat) : Fld := ⟨0x910008 + 0x10 * n, 32, 1, 1⟩

/-! MSIX.PBA, offset 0x800 (R443). -/
abbrev MSIX.PBA_PEND : Fld := ⟨0x910800, 0, 64, 0⟩

/-- Registers of MSIX by offset, part 0. -/
def MSIX.regTable0 : List RegDesc := [
  ⟨0x0, 64, 0x10, 1, 0x8, fun n _ => [⟨(MSIX.ADDR_ADDR n), .rw, false, false⟩]⟩,
  ⟨0x8, 64, 0x10, 1, 0x8, fun n _ => [⟨(MSIX.DATA_DATA n), .rw, false, false⟩, ⟨(MSIX.DATA_MASK n), .rw, false, false⟩]⟩,
  ⟨0x800, 1, 0x8, 1, 0x8, fun _ _ => [⟨MSIX.PBA_PEND, .ro, false, false⟩]⟩]

/-- Registers of MSIX by offset. -/
def MSIX.regTable : List RegDesc :=
  MSIX.regTable0

/-! ### DMA (spec/18_host_and_convoy_links.md) -/

/-! DMA.CMD, offset 0x0 (R443). -/
abbrev DMA.CMD_OP (k : Nat) : Fld := ⟨0x980000 + 0x40 * k, 0, 4, 0⟩

/-! DMA.DESC, offset 0x8 (R443). -/
abbrev DMA.DESC_ADDR (k : Nat) : Fld := ⟨0x980008 + 0x40 * k, 0, 64, 0⟩

/-! DMA.STATUS, offset 0x10 (R443). -/
abbrev DMA.STATUS_STATUS (k : Nat) : Fld := ⟨0x980010 + 0x40 * k, 0, 8, 0⟩
abbrev DMA.STATUS_OP (k : Nat) : Fld := ⟨0x980010 + 0x40 * k, 8, 4, 0⟩
abbrev DMA.STATUS_PEND (k : Nat) : Fld := ⟨0x980010 + 0x40 * k, 16, 1, 0⟩
abbrev DMA.STATUS_STOPPED (k : Nat) : Fld := ⟨0x980010 + 0x40 * k, 17, 1, 0⟩
abbrev DMA.STATUS_EVT (k : Nat) : Fld := ⟨0x980010 + 0x40 * k, 18, 1, 0⟩
abbrev DMA.STATUS_KIND (k : Nat) : Fld := ⟨0x980010 + 0x40 * k, 20, 4, 0⟩
abbrev DMA.STATUS_DONE (k : Nat) : Fld := ⟨0x980010 + 0x40 * k, 32, 32, 0⟩

/-! DMA.CUR, offset 0x18 (R443). -/
abbrev DMA.CUR_ADDR (k : Nat) : Fld := ⟨0x980018 + 0x40 * k, 0, 64, 0⟩

/-! DMA.REJECT, offset 0x20 (R443). -/
abbrev DMA.REJECT_COUNT (k : Nat) : Fld := ⟨0x980020 + 0x40 * k, 0, 32, 0⟩

/-! DMA.LAST_REJECT, offset 0x28 (R443). -/
abbrev DMA.LAST_REJECT_CODE (k : Nat) : Fld := ⟨0x980028 + 0x40 * k, 0, 8, 0⟩
abbrev DMA.LAST_REJECT_STATUS (k : Nat) : Fld := ⟨0x980028 + 0x40 * k, 8, 8, 0⟩

/-- Registers of DMA by offset, part 0. -/
def DMA.regTable0 : List RegDesc := [
  ⟨0x0, 8, 0x40, 1, 0x8, fun k _ => [⟨(DMA.CMD_OP k), .wo, false, false⟩]⟩,
  ⟨0x8, 8, 0x40, 1, 0x8, fun k _ => [⟨(DMA.DESC_ADDR k), .rw, false, false⟩]⟩,
  ⟨0x10, 8, 0x40, 1, 0x8, fun k _ => [⟨(DMA.STATUS_STATUS k), .ro, false, false⟩, ⟨(DMA.STATUS_OP k), .ro, false, false⟩, ⟨(DMA.STATUS_PEND k), .ro, false, false⟩, ⟨(DMA.STATUS_STOPPED k), .ro, false, false⟩, ⟨(DMA.STATUS_EVT k), .w1c, false, false⟩, ⟨(DMA.STATUS_KIND k), .ro, false, false⟩, ⟨(DMA.STATUS_DONE k), .rc, false, false⟩]⟩,
  ⟨0x18, 8, 0x40, 1, 0x8, fun k _ => [⟨(DMA.CUR_ADDR k), .ro, false, false⟩]⟩,
  ⟨0x20, 8, 0x40, 1, 0x8, fun k _ => [⟨(DMA.REJECT_COUNT k), .rc, false, false⟩]⟩,
  ⟨0x28, 8, 0x40, 1, 0x8, fun k _ => [⟨(DMA.LAST_REJECT_CODE k), .ro, false, false⟩, ⟨(DMA.LAST_REJECT_STATUS k), .ro, false, false⟩]⟩]

/-- Registers of DMA by offset. -/
def DMA.regTable : List RegDesc :=
  DMA.regTable0

/-! ### DBG (spec/15_life_cycle_debug_and_freeze.md) -/

/-! DBG.AUTH, offset 0x0 (R399). -/
abbrev DBG.AUTH_PERM : Fld := ⟨0xA00000, 0, 4, 0⟩
abbrev DBG.AUTH_OPEN : Fld := ⟨0xA00000, 8, 1, 0⟩
abbrev DBG.AUTH_TOKENS : Fld := ⟨0xA00000, 12, 4, 0⟩

/-! DBG.FRZ_CTRL, offset 0x8 (R399). -/
abbrev DBG.FRZ_CTRL_FREEZE : Fld := ⟨0xA00008, 0, 1, 0⟩
abbrev DBG.FRZ_CTRL_THAW : Fld := ⟨0xA00008, 1, 1, 0⟩
abbrev DBG.FRZ_CTRL_PIN_EN : Fld := ⟨0xA00008, 4, 1, 0⟩
abbrev DBG.FRZ_CTRL_CVY_EN : Fld := ⟨0xA00008, 5, 1, 0⟩
abbrev DBG.FRZ_CTRL_BRK_EN : Fld := ⟨0xA00008, 6, 1, 0⟩
abbrev DBG.FRZ_CTRL_FAULT_EN : Fld := ⟨0xA00008, 7, 1, 0⟩
abbrev DBG.FRZ_CTRL_DRIVE : Fld := ⟨0xA00008, 8, 1, 0⟩
abbrev DBG.FRZ_CTRL_CVY_OUT : Fld := ⟨0xA00008, 9, 1, 0⟩

/-! DBG.FRZ_STATUS, offset 0x10 (R399). -/
abbrev DBG.FRZ_STATUS_FROZEN : Fld := ⟨0xA00010, 0, 1, 0⟩
abbrev DBG.FRZ_STATUS_ENTERING : Fld := ⟨0xA00010, 1, 1, 0⟩
abbrev DBG.FRZ_STATUS_OFF_HIT : Fld := ⟨0xA00010, 2, 1, 0⟩
abbrev DBG.FRZ_STATUS_WR_IGN : Fld := ⟨0xA00010, 3, 1, 0⟩
abbrev DBG.FRZ_STATUS_CAUSE : Fld := ⟨0xA00010, 4, 4, 0⟩
abbrev DBG.FRZ_STATUS_CELL : Fld := ⟨0xA00010, 8, 8, 0⟩
abbrev DBG.FRZ_STATUS_ENTRY_FIO : Fld := ⟨0xA00010, 32, 16, 0⟩

/-! DBG.FRZ_COUNT, offset 0x18 (R399). -/
abbrev DBG.FRZ_COUNT_FREEZES : Fld := ⟨0xA00018, 0, 32, 0⟩
abbrev DBG.FRZ_COUNT_RETRIG : Fld := ⟨0xA00018, 32, 32, 0⟩

/-! DBG.WIN_BASE, offset 0x20 (R399). -/
abbrev DBG.WIN_BASE_BASE : Fld := ⟨0xA00020, 16, 32, 0⟩

/-! DBG.REFUSED, offset 0x28 (R399). -/
abbrev DBG.REFUSED_HOST : Fld := ⟨0xA00028, 0, 32, 0⟩
abbrev DBG.REFUSED_READOUT : Fld := ⟨0xA00028, 32, 32, 0⟩

/-! DBG.TQ_SEL, offset 0x30 (R399). -/
abbrev DBG.TQ_SEL_QUEUE : Fld := ⟨0xA00030, 0, 12, 0⟩

/-! DBG.TQ_PTR, offset 0x38 (R399). -/
abbrev DBG.TQ_PTR_WR : Fld := ⟨0xA00038, 0, 16, 0⟩
abbrev DBG.TQ_PTR_RD : Fld := ⟨0xA00038, 16, 16, 0⟩
abbrev DBG.TQ_PTR_SRC : Fld := ⟨0xA00038, 32, 8, 0⟩
abbrev DBG.TQ_PTR_DST : Fld := ⟨0xA00038, 40, 8, 0⟩
abbrev DBG.TQ_PTR_COUNT : Fld := ⟨0xA00038, 48, 12, 0⟩
abbrev DBG.TQ_PTR_VALID : Fld := ⟨0xA00038, 63, 1, 0⟩

/-! DBG.TQ_DATA, offset 0x100 (R399). -/
abbrev DBG.TQ_DATA_DATA (k : Nat) : Fld := ⟨0xA00100 + 0x8 * k, 0, 64, 0⟩

/-- Registers of DBG by offset, part 0. -/
def DBG.regTable0 : List RegDesc := [
  ⟨0x0, 1, 0x8, 1, 0x8, fun _ _ => [⟨DBG.AUTH_PERM, .ro, false, false⟩, ⟨DBG.AUTH_OPEN, .ro, false, false⟩, ⟨DBG.AUTH_TOKENS, .ro, false, false⟩]⟩,
  ⟨0x8, 1, 0x8, 1, 0x8, fun _ _ => [⟨DBG.FRZ_CTRL_FREEZE, .wo, false, false⟩, ⟨DBG.FRZ_CTRL_THAW, .wo, false, false⟩, ⟨DBG.FRZ_CTRL_PIN_EN, .rw, false, false⟩, ⟨DBG.FRZ_CTRL_CVY_EN, .rw, false, false⟩, ⟨DBG.FRZ_CTRL_BRK_EN, .rw, false, false⟩, ⟨DBG.FRZ_CTRL_FAULT_EN, .rw, false, false⟩, ⟨DBG.FRZ_CTRL_DRIVE, .rw, false, false⟩, ⟨DBG.FRZ_CTRL_CVY_OUT, .rw, false, false⟩]⟩,
  ⟨0x10, 1, 0x8, 1, 0x8, fun _ _ => [⟨DBG.FRZ_STATUS_FROZEN, .ro, false, false⟩, ⟨DBG.FRZ_STATUS_ENTERING, .ro, false, false⟩, ⟨DBG.FRZ_STATUS_OFF_HIT, .w1c, false, false⟩, ⟨DBG.FRZ_STATUS_WR_IGN, .w1c, false, false⟩, ⟨DBG.FRZ_STATUS_CAUSE, .ro, false, false⟩, ⟨DBG.FRZ_STATUS_CELL, .ro, false, false⟩, ⟨DBG.FRZ_STATUS_ENTRY_FIO, .ro, false, false⟩]⟩,
  ⟨0x18, 1, 0x8, 1, 0x8, fun _ _ => [⟨DBG.FRZ_COUNT_FREEZES, .rc, false, false⟩, ⟨DBG.FRZ_COUNT_RETRIG, .rc, false, false⟩]⟩,
  ⟨0x20, 1, 0x8, 1, 0x8, fun _ _ => [⟨DBG.WIN_BASE_BASE, .rw, false, false⟩]⟩,
  ⟨0x28, 1, 0x8, 1, 0x8, fun _ _ => [⟨DBG.REFUSED_HOST, .rc, false, false⟩, ⟨DBG.REFUSED_READOUT, .rc, false, false⟩]⟩,
  ⟨0x30, 1, 0x8, 1, 0x8, fun _ _ => [⟨DBG.TQ_SEL_QUEUE, .rw, false, false⟩]⟩,
  ⟨0x38, 1, 0x8, 1, 0x8, fun _ _ => [⟨DBG.TQ_PTR_WR, .ro, false, false⟩, ⟨DBG.TQ_PTR_RD, .ro, false, false⟩, ⟨DBG.TQ_PTR_SRC, .ro, false, false⟩, ⟨DBG.TQ_PTR_DST, .ro, false, false⟩, ⟨DBG.TQ_PTR_COUNT, .ro, false, false⟩, ⟨DBG.TQ_PTR_VALID, .ro, false, false⟩]⟩,
  ⟨0x100, 64, 0x8, 1, 0x8, fun k _ => [⟨(DBG.TQ_DATA_DATA k), .ro, false, false⟩]⟩]

/-- Registers of DBG by offset. -/
def DBG.regTable : List RegDesc :=
  DBG.regTable0

/-! ### BST (spec/20_self_test_and_fault_handling.md) -/

/-! BST.RUN, offset 0x0 (R500). -/
abbrev BST.RUN_SLICE : Fld := ⟨0xB00000, 0, 3, 0⟩
abbrev BST.RUN_TARGET : Fld := ⟨0xB00000, 8, 5, 0⟩
abbrev BST.RUN_LANE : Fld := ⟨0xB00000, 16, 5, 0⟩
abbrev BST.RUN_GO : Fld := ⟨0xB00000, 63, 1, 0⟩

/-! BST.RESULT, offset 0x8 (R500). -/
abbrev BST.RESULT_RESULT : Fld := ⟨0xB00008, 0, 4, 0⟩
abbrev BST.RESULT_DONE : Fld := ⟨0xB00008, 4, 1, 0⟩
abbrev BST.RESULT_STEPS : Fld := ⟨0xB00008, 16, 13, 0⟩
abbrev BST.RESULT_EXPECT : Fld := ⟨0xB00008, 32, 13, 0⟩
abbrev BST.RESULT_SLICE : Fld := ⟨0xB00008, 48, 3, 0⟩

/-! BST.SIG, offset 0x10 (R500). -/
abbrev BST.SIG_SIG : Fld := ⟨0xB00010, 0, 64, 0⟩

/-! BST.DIAG, offset 0x18 (R500). -/
abbrev BST.DIAG_FAIL_STEP : Fld := ⟨0xB00018, 0, 13, 0⟩
abbrev BST.DIAG_FAIL_VALID : Fld := ⟨0xB00018, 13, 1, 0⟩
abbrev BST.DIAG_MEAS : Fld := ⟨0xB00018, 32, 32, 0⟩

/-! BST.EVT, offset 0x20 (R500). -/
abbrev BST.EVT_DONE : Fld := ⟨0xB00020, 0, 1, 0⟩
abbrev BST.EVT_ABORTED : Fld := ⟨0xB00020, 1, 1, 0⟩
abbrev BST.EVT_LATE : Fld := ⟨0xB00020, 2, 1, 0⟩
abbrev BST.EVT_WR_IGN : Fld := ⟨0xB00020, 3, 1, 0⟩
abbrev BST.EVT_DONE_EN : Fld := ⟨0xB00020, 8, 1, 0⟩

/-! BST.COUNT, offset 0x28 (R500). -/
abbrev BST.COUNT_RUNS : Fld := ⟨0xB00028, 0, 16, 0⟩
abbrev BST.COUNT_ABORTS : Fld := ⟨0xB00028, 16, 16, 0⟩
abbrev BST.COUNT_SKIPS : Fld := ⟨0xB00028, 32, 16, 0⟩
abbrev BST.COUNT_OVERTIME : Fld := ⟨0xB00028, 48, 16, 0⟩

/-! BST.SCHED_CTRL, offset 0x30 (R500). -/
abbrev BST.SCHED_CTRL_EN : Fld := ⟨0xB00030, 0, 1, 0⟩
abbrev BST.SCHED_CTRL_GAP_US : Fld := ⟨0xB00030, 16, 16, 1000⟩

/-! BST.SCHED, offset 0x100 (R500). -/
abbrev BST.SCHED_SLICE (k : Nat) : Fld := ⟨0xB00100 + 0x8 * k, 0, 3, 0⟩
abbrev BST.SCHED_TARGET (k : Nat) : Fld := ⟨0xB00100 + 0x8 * k, 8, 5, 0⟩
abbrev BST.SCHED_LANE (k : Nat) : Fld := ⟨0xB00100 + 0x8 * k, 16, 5, 0⟩
abbrev BST.SCHED_EN (k : Nat) : Fld := ⟨0xB00100 + 0x8 * k, 31, 1, 0⟩

/-! BST.AGE, offset 0x200 (R500). -/
abbrev BST.AGE_LAST (j : Nat) : Fld := ⟨0xB00200 + 0x8 * j, 0, 48, 0⟩
abbrev BST.AGE_LIMIT_S (j : Nat) : Fld := ⟨0xB00200 + 0x8 * j, 48, 16, 0⟩

/-- Registers of BST by offset, part 0. -/
def BST.regTable0 : List RegDesc := [
  ⟨0x0, 1, 0x8, 1, 0x8, fun _ _ => [⟨BST.RUN_SLICE, .rw, false, false⟩, ⟨BST.RUN_TARGET, .rw, false, false⟩, ⟨BST.RUN_LANE, .rw, false, false⟩, ⟨BST.RUN_GO, .w1s, false, false⟩]⟩,
  ⟨0x8, 1, 0x8, 1, 0x8, fun _ _ => [⟨BST.RESULT_RESULT, .ro, false, false⟩, ⟨BST.RESULT_DONE, .ro, false, false⟩, ⟨BST.RESULT_STEPS, .ro, false, false⟩, ⟨BST.RESULT_EXPECT, .ro, false, false⟩, ⟨BST.RESULT_SLICE, .ro, false, false⟩]⟩,
  ⟨0x10, 1, 0x8, 1, 0x8, fun _ _ => [⟨BST.SIG_SIG, .ro, false, false⟩]⟩,
  ⟨0x18, 1, 0x8, 1, 0x8, fun _ _ => [⟨BST.DIAG_FAIL_STEP, .ro, false, false⟩, ⟨BST.DIAG_FAIL_VALID, .ro, false, false⟩, ⟨BST.DIAG_MEAS, .ro, false, false⟩]⟩,
  ⟨0x20, 1, 0x8, 1, 0x8, fun _ _ => [⟨BST.EVT_DONE, .w1c, false, false⟩, ⟨BST.EVT_ABORTED, .w1c, false, false⟩, ⟨BST.EVT_LATE, .w1c, false, false⟩, ⟨BST.EVT_WR_IGN, .w1c, false, false⟩, ⟨BST.EVT_DONE_EN, .rw, false, false⟩]⟩,
  ⟨0x28, 1, 0x8, 1, 0x8, fun _ _ => [⟨BST.COUNT_RUNS, .rc, false, false⟩, ⟨BST.COUNT_ABORTS, .rc, false, false⟩, ⟨BST.COUNT_SKIPS, .rc, false, false⟩, ⟨BST.COUNT_OVERTIME, .rc, false, false⟩]⟩,
  ⟨0x30, 1, 0x8, 1, 0x8, fun _ _ => [⟨BST.SCHED_CTRL_EN, .rw, false, false⟩, ⟨BST.SCHED_CTRL_GAP_US, .rw, false, false⟩]⟩,
  ⟨0x100, 16, 0x8, 1, 0x8, fun k _ => [⟨(BST.SCHED_SLICE k), .rw, false, false⟩, ⟨(BST.SCHED_TARGET k), .rw, false, false⟩, ⟨(BST.SCHED_LANE k), .rw, false, false⟩, ⟨(BST.SCHED_EN k), .rw, false, false⟩]⟩,
  ⟨0x200, 8, 0x8, 1, 0x8, fun j _ => [⟨(BST.AGE_LAST j), .ro, false, false⟩, ⟨(BST.AGE_LIMIT_S j), .rw, false, false⟩]⟩]

/-- Registers of BST by offset. -/
def BST.regTable : List RegDesc :=
  BST.regTable0

/-! ### FLT (spec/20_self_test_and_fault_handling.md) -/

/-! FLT.STATUS, offset 0x0 (R500). -/
abbrev FLT.STATUS_EVT : Fld := ⟨0xC00000, 0, 1, 0⟩
abbrev FLT.STATUS_OVF : Fld := ⟨0xC00000, 1, 1, 0⟩
abbrev FLT.STATUS_FIO_UNCHECKED : Fld := ⟨0xC00000, 2, 1, 0⟩
abbrev FLT.STATUS_WR_IGN : Fld := ⟨0xC00000, 3, 1, 0⟩
abbrev FLT.STATUS_LEVEL : Fld := ⟨0xC00000, 8, 7, 0⟩

/-! FLT.LOG_A, offset 0x8 (R500). -/
abbrev FLT.LOG_A_CODE : Fld := ⟨0xC00008, 0, 8, 0⟩
abbrev FLT.LOG_A_SCOPE : Fld := ⟨0xC00008, 8, 3, 0⟩
abbrev FLT.LOG_A_UNIT : Fld := ⟨0xC00008, 12, 12, 0⟩
abbrev FLT.LOG_A_INJ : Fld := ⟨0xC00008, 24, 1, 0⟩
abbrev FLT.LOG_A_ESC : Fld := ⟨0xC00008, 25, 1, 0⟩
abbrev FLT.LOG_A_VALID : Fld := ⟨0xC00008, 26, 1, 0⟩

/-! FLT.LOG_B, offset 0x10 (R500). -/
abbrev FLT.LOG_B_TIME : Fld := ⟨0xC00010, 0, 48, 0⟩

/-! FLT.LOG_POP, offset 0x18 (R500). -/
abbrev FLT.LOG_POP_POP : Fld := ⟨0xC00018, 0, 1, 0⟩

/-! FLT.TIME, offset 0x20 (R500). -/
abbrev FLT.TIME_FIO : Fld := ⟨0xC00020, 0, 48, 0⟩

/-! FLT.FRZ_SEL, offset 0x28 (R500). -/
abbrev FLT.FRZ_SEL_SCOPE : Fld := ⟨0xC00028, 0, 7, 0⟩

/-! FLT.STW, offset 0x30 (R500). -/
abbrev FLT.STW_FAULTED : Fld := ⟨0xC00030, 0, 4, 0⟩
abbrev FLT.STW_RESTART : Fld := ⟨0xC00030, 4, 4, 0⟩
abbrev FLT.STW_PRESENT : Fld := ⟨0xC00030, 8, 4, 0⟩

/-! FLT.ESC, offset 0x38 (R500). -/
abbrev FLT.ESC_ESC : Fld := ⟨0xC00038, 0, 16, 0⟩
abbrev FLT.ESC_SHADOW_CORR : Fld := ⟨0xC00038, 16, 32, 0⟩

/-! FLT.CNT, offset 0x40 (R500). -/
abbrev FLT.CNT_COUNT (k : Nat) : Fld := ⟨0xC00040 + 0x8 * k, 0, 32, 0⟩

/-! FLT.INJECT, offset 0x80 (R500). -/
abbrev FLT.INJECT_CODE : Fld := ⟨0xC00080, 0, 8, 0⟩
abbrev FLT.INJECT_UNIT : Fld := ⟨0xC00080, 8, 12, 0⟩
abbrev FLT.INJECT_GO : Fld := ⟨0xC00080, 63, 1, 0⟩

/-- Registers of FLT by offset, part 0. -/
def FLT.regTable0 : List RegDesc := [
  ⟨0x0, 1, 0x8, 1, 0x8, fun _ _ => [⟨FLT.STATUS_EVT, .w1c, false, false⟩, ⟨FLT.STATUS_OVF, .w1c, false, false⟩, ⟨FLT.STATUS_FIO_UNCHECKED, .ro, false, false⟩, ⟨FLT.STATUS_WR_IGN, .w1c, false, false⟩, ⟨FLT.STATUS_LEVEL, .ro, false, false⟩]⟩,
  ⟨0x8, 1, 0x8, 1, 0x8, fun _ _ => [⟨FLT.LOG_A_CODE, .ro, false, false⟩, ⟨FLT.LOG_A_SCOPE, .ro, false, false⟩, ⟨FLT.LOG_A_UNIT, .ro, false, false⟩, ⟨FLT.LOG_A_INJ, .ro, false, false⟩, ⟨FLT.LOG_A_ESC, .ro, false, false⟩, ⟨FLT.LOG_A_VALID, .ro, false, false⟩]⟩,
  ⟨0x10, 1, 0x8, 1, 0x8, fun _ _ => [⟨FLT.LOG_B_TIME, .ro, false, false⟩]⟩,
  ⟨0x18, 1, 0x8, 1, 0x8, fun _ _ => [⟨FLT.LOG_POP_POP, .wo, false, false⟩]⟩,
  ⟨0x20, 1, 0x8, 1, 0x8, fun _ _ => [⟨FLT.TIME_FIO, .ro, false, false⟩]⟩,
  ⟨0x28, 1, 0x8, 1, 0x8, fun _ _ => [⟨FLT.FRZ_SEL_SCOPE, .rw, false, false⟩]⟩,
  ⟨0x30, 1, 0x8, 1, 0x8, fun _ _ => [⟨FLT.STW_FAULTED, .ro, false, false⟩, ⟨FLT.STW_RESTART, .wo, false, false⟩, ⟨FLT.STW_PRESENT, .ro, false, false⟩]⟩,
  ⟨0x38, 1, 0x8, 1, 0x8, fun _ _ => [⟨FLT.ESC_ESC, .rc, false, false⟩, ⟨FLT.ESC_SHADOW_CORR, .rc, false, false⟩]⟩,
  ⟨0x40, 7, 0x8, 1, 0x8, fun k _ => [⟨(FLT.CNT_COUNT k), .rc, false, false⟩]⟩,
  ⟨0x80, 1, 0x8, 1, 0x8, fun _ _ => [⟨FLT.INJECT_CODE, .wo, false, false⟩, ⟨FLT.INJECT_UNIT, .wo, false, false⟩, ⟨FLT.INJECT_GO, .wo, false, false⟩]⟩]

/-- Registers of FLT by offset. -/
def FLT.regTable : List RegDesc :=
  FLT.regTable0

end Sys2Proof.Machine
end

