-- ==== Sys2Proof/Machine/RegsRegion.lean ====
section
/-! DEFINITION. The register fields of one region: RGN, DDR and LDG. -/

namespace Sys2Proof.Machine

/-! ### RGN (spec/04_caravans_and_sites.md) -/

/-! RGN.GANG, offset 0x1000 (R122). -/
abbrev RGN.GANG_GID0 (r : Nat) : Fld := ⟨regionBase r + 0x1000, 0, 3, 0⟩
abbrev RGN.GANG_GID1 (r : Nat) : Fld := ⟨regionBase r + 0x1000, 3, 3, 1⟩
abbrev RGN.GANG_GID2 (r : Nat) : Fld := ⟨regionBase r + 0x1000, 6, 3, 2⟩
abbrev RGN.GANG_GID3 (r : Nat) : Fld := ⟨regionBase r + 0x1000, 9, 3, 3⟩
abbrev RGN.GANG_GID4 (r : Nat) : Fld := ⟨regionBase r + 0x1000, 12, 3, 4⟩
abbrev RGN.GANG_GID5 (r : Nat) : Fld := ⟨regionBase r + 0x1000, 15, 3, 5⟩
abbrev RGN.GANG_GID6 (r : Nat) : Fld := ⟨regionBase r + 0x1000, 18, 3, 6⟩
abbrev RGN.GANG_GID7 (r : Nat) : Fld := ⟨regionBase r + 0x1000, 21, 3, 7⟩

/-! RGN.APG_OWN, offset 0x1008 (R122). -/
abbrev RGN.APG_OWN_LEAD0 (r : Nat) : Fld := ⟨regionBase r + 0x1008, 0, 6, 0⟩
abbrev RGN.APG_OWN_V0 (r : Nat) : Fld := ⟨regionBase r + 0x1008, 7, 1, 0⟩
abbrev RGN.APG_OWN_LEAD1 (r : Nat) : Fld := ⟨regionBase r + 0x1008, 8, 6, 0⟩
abbrev RGN.APG_OWN_V1 (r : Nat) : Fld := ⟨regionBase r + 0x1008, 15, 1, 0⟩
abbrev RGN.APG_OWN_LEAD2 (r : Nat) : Fld := ⟨regionBase r + 0x1008, 16, 6, 0⟩
abbrev RGN.APG_OWN_V2 (r : Nat) : Fld := ⟨regionBase r + 0x1008, 23, 1, 0⟩
abbrev RGN.APG_OWN_LEAD3 (r : Nat) : Fld := ⟨regionBase r + 0x1008, 24, 6, 0⟩
abbrev RGN.APG_OWN_V3 (r : Nat) : Fld := ⟨regionBase r + 0x1008, 31, 1, 0⟩
abbrev RGN.APG_OWN_LEAD4 (r : Nat) : Fld := ⟨regionBase r + 0x1008, 32, 6, 0⟩
abbrev RGN.APG_OWN_V4 (r : Nat) : Fld := ⟨regionBase r + 0x1008, 39, 1, 0⟩
abbrev RGN.APG_OWN_LEAD5 (r : Nat) : Fld := ⟨regionBase r + 0x1008, 40, 6, 0⟩
abbrev RGN.APG_OWN_V5 (r : Nat) : Fld := ⟨regionBase r + 0x1008, 47, 1, 0⟩
abbrev RGN.APG_OWN_LEAD6 (r : Nat) : Fld := ⟨regionBase r + 0x1008, 48, 6, 0⟩
abbrev RGN.APG_OWN_V6 (r : Nat) : Fld := ⟨regionBase r + 0x1008, 55, 1, 0⟩
abbrev RGN.APG_OWN_LEAD7 (r : Nat) : Fld := ⟨regionBase r + 0x1008, 56, 6, 0⟩
abbrev RGN.APG_OWN_V7 (r : Nat) : Fld := ⟨regionBase r + 0x1008, 63, 1, 0⟩

/-! RGN.LEADS, offset 0x1010 (R122). -/
abbrev RGN.LEADS_LEADS (r : Nat) : Fld := ⟨regionBase r + 0x1010, 0, 64, 0⟩

/-! RGN.CV_STATUS, offset 0x1018 (R122). -/
abbrev RGN.CV_STATUS_WR_IGN (r : Nat) : Fld := ⟨regionBase r + 0x1018, 0, 1, 0⟩
abbrev RGN.CV_STATUS_CVY_WAIT (r : Nat) : Fld := ⟨regionBase r + 0x1018, 1, 1, 0⟩

/-! RGN.SGRP, offset 0x2000 (R122). -/
abbrev RGN.SGRP_MASK (r n : Nat) : Fld := ⟨regionBase r + 0x2000 + 0x8 * n, 0, 64, 0⟩

/-! RGN.SGARR, offset 0x2800 (R122). -/
abbrev RGN.SGARR_ARRIVED (r n : Nat) : Fld := ⟨regionBase r + 0x2800 + 0x8 * n, 0, 64, 0⟩

/-! RGN.ID, offset 0x0 (R536). -/
abbrev RGN.ID_REGION (r : Nat) : Fld := ⟨regionBase r + 0x0, 0, 2, r⟩
abbrev RGN.ID_FIRST_CELL (r : Nat) : Fld := ⟨regionBase r + 0x0, 8, 8, (64 * r)⟩

/-- Registers of RGN by offset, part 0. -/
def RGN.regTable0 (r : Nat) : List RegDesc := [
  ⟨0x1000, 1, 0x8, 1, 0x8, fun _ _ => [⟨(RGN.GANG_GID0 r), .rw, false, false⟩, ⟨(RGN.GANG_GID1 r), .rw, false, false⟩, ⟨(RGN.GANG_GID2 r), .rw, false, false⟩, ⟨(RGN.GANG_GID3 r), .rw, false, false⟩, ⟨(RGN.GANG_GID4 r), .rw, false, false⟩, ⟨(RGN.GANG_GID5 r), .rw, false, false⟩, ⟨(RGN.GANG_GID6 r), .rw, false, false⟩, ⟨(RGN.GANG_GID7 r), .rw, false, false⟩]⟩,
  ⟨0x1008, 1, 0x8, 1, 0x8, fun _ _ => [⟨(RGN.APG_OWN_LEAD0 r), .rw, false, false⟩, ⟨(RGN.APG_OWN_V0 r), .rw, false, false⟩, ⟨(RGN.APG_OWN_LEAD1 r), .rw, false, false⟩, ⟨(RGN.APG_OWN_V1 r), .rw, false, false⟩, ⟨(RGN.APG_OWN_LEAD2 r), .rw, false, false⟩, ⟨(RGN.APG_OWN_V2 r), .rw, false, false⟩, ⟨(RGN.APG_OWN_LEAD3 r), .rw, false, false⟩, ⟨(RGN.APG_OWN_V3 r), .rw, false, false⟩, ⟨(RGN.APG_OWN_LEAD4 r), .rw, false, false⟩, ⟨(RGN.APG_OWN_V4 r), .rw, false, false⟩, ⟨(RGN.APG_OWN_LEAD5 r), .rw, false, false⟩, ⟨(RGN.APG_OWN_V5 r), .rw, false, false⟩, ⟨(RGN.APG_OWN_LEAD6 r), .rw, false, false⟩, ⟨(RGN.APG_OWN_V6 r), .rw, false, false⟩, ⟨(RGN.APG_OWN_LEAD7 r), .rw, false, false⟩, ⟨(RGN.APG_OWN_V7 r), .rw, false, false⟩]⟩,
  ⟨0x1010, 1, 0x8, 1, 0x8, fun _ _ => [⟨(RGN.LEADS_LEADS r), .ro, false, false⟩]⟩,
  ⟨0x1018, 1, 0x8, 1, 0x8, fun _ _ => [⟨(RGN.CV_STATUS_WR_IGN r), .w1c, false, false⟩, ⟨(RGN.CV_STATUS_CVY_WAIT r), .ro, false, false⟩]⟩,
  ⟨0x2000, 256, 0x8, 1, 0x8, fun n _ => [⟨(RGN.SGRP_MASK r n), .rw, false, false⟩]⟩,
  ⟨0x2800, 256, 0x8, 1, 0x8, fun n _ => [⟨(RGN.SGARR_ARRIVED r n), .ro, false, false⟩]⟩,
  ⟨0x0, 1, 0x8, 1, 0x8, fun _ _ => [⟨(RGN.ID_REGION r), .ro, false, false⟩, ⟨(RGN.ID_FIRST_CELL r), .ro, false, false⟩]⟩]

/-- Registers of RGN by offset. -/
def RGN.regTable (r : Nat) : List RegDesc :=
  RGN.regTable0 r

/-! ### DDR (spec/11_memories_and_ddr5.md) -/

/-! DDR.CFG, offset 0x40000 (R292). -/
abbrev DDR.CFG_RATE (r : Nat) : Fld := ⟨regionBase r + 0x40000, 0, 2, 2⟩
abbrev DDR.CFG_DENSITY (r : Nat) : Fld := ⟨regionBase r + 0x40000, 2, 2, 2⟩
abbrev DDR.CFG_RANKS (r : Nat) : Fld := ⟨regionBase r + 0x40000, 4, 1, 1⟩

/-! DDR.CTRL, offset 0x40008 (R292). -/
abbrev DDR.CTRL_TRAIN (r : Nat) : Fld := ⟨regionBase r + 0x40008, 0, 1, 0⟩

/-! DDR.STATUS, offset 0x40010 (R292). -/
abbrev DDR.STATUS_STATE (r : Nat) : Fld := ⟨regionBase r + 0x40010, 0, 3, 0⟩
abbrev DDR.STATUS_WR_IGN (r : Nat) : Fld := ⟨regionBase r + 0x40010, 3, 1, 0⟩
abbrev DDR.STATUS_TEMP_HI (r : Nat) : Fld := ⟨regionBase r + 0x40010, 4, 1, 0⟩
abbrev DDR.STATUS_EVT (r : Nat) : Fld := ⟨regionBase r + 0x40010, 5, 1, 0⟩
abbrev DDR.STATUS_WHY (r : Nat) : Fld := ⟨regionBase r + 0x40010, 8, 4, 0⟩

/-! DDR.CAP, offset 0x40018 (R292). -/
abbrev DDR.CAP_WORDS (r : Nat) : Fld := ⟨regionBase r + 0x40018, 0, 36, 0⟩

/-! DDR.ECC, offset 0x40020 (R292). -/
abbrev DDR.ECC_CORR (r : Nat) : Fld := ⟨regionBase r + 0x40020, 0, 32, 0⟩
abbrev DDR.ECC_UNCORR (r : Nat) : Fld := ⟨regionBase r + 0x40020, 32, 32, 0⟩

/-! DDR.ECC_ADDR, offset 0x40028 (R292). -/
abbrev DDR.ECC_ADDR_WORD (r : Nat) : Fld := ⟨regionBase r + 0x40028, 0, 36, 0⟩
abbrev DDR.ECC_ADDR_DEVICE (r : Nat) : Fld := ⟨regionBase r + 0x40028, 36, 4, 0⟩
abbrev DDR.ECC_ADDR_KIND (r : Nat) : Fld := ⟨regionBase r + 0x40028, 40, 1, 0⟩
abbrev DDR.ECC_ADDR_VALID (r : Nat) : Fld := ⟨regionBase r + 0x40028, 41, 1, 0⟩

/-! DDR.RETRY, offset 0x40030 (R292). -/
abbrev DDR.RETRY_WCRC (r : Nat) : Fld := ⟨regionBase r + 0x40030, 0, 32, 0⟩
abbrev DDR.RETRY_CAPAR (r : Nat) : Fld := ⟨regionBase r + 0x40030, 32, 32, 0⟩

/-! DDR.SCRUB, offset 0x40038 (R292). -/
abbrev DDR.SCRUB_HOURS (r : Nat) : Fld := ⟨regionBase r + 0x40038, 0, 8, 24⟩
abbrev DDR.SCRUB_PASSES (r : Nat) : Fld := ⟨regionBase r + 0x40038, 16, 32, 0⟩

/-! DDR.EVT_CFG, offset 0x40040 (R292). -/
abbrev DDR.EVT_CFG_CORR_THRESH (r : Nat) : Fld := ⟨regionBase r + 0x40040, 0, 32, 0⟩

/-- Registers of DDR by offset, part 0. -/
def DDR.regTable0 (r : Nat) : List RegDesc := [
  ⟨0x40000, 1, 0x8, 1, 0x8, fun _ _ => [⟨(DDR.CFG_RATE r), .rw, false, false⟩, ⟨(DDR.CFG_DENSITY r), .rw, false, false⟩, ⟨(DDR.CFG_RANKS r), .rw, false, false⟩]⟩,
  ⟨0x40008, 1, 0x8, 1, 0x8, fun _ _ => [⟨(DDR.CTRL_TRAIN r), .w1s, false, false⟩]⟩,
  ⟨0x40010, 1, 0x8, 1, 0x8, fun _ _ => [⟨(DDR.STATUS_STATE r), .ro, false, false⟩, ⟨(DDR.STATUS_WR_IGN r), .w1c, false, false⟩, ⟨(DDR.STATUS_TEMP_HI r), .ro, false, false⟩, ⟨(DDR.STATUS_EVT r), .w1c, false, false⟩, ⟨(DDR.STATUS_WHY r), .ro, false, false⟩]⟩,
  ⟨0x40018, 1, 0x8, 1, 0x8, fun _ _ => [⟨(DDR.CAP_WORDS r), .ro, false, false⟩]⟩,
  ⟨0x40020, 1, 0x8, 1, 0x8, fun _ _ => [⟨(DDR.ECC_CORR r), .rc, false, false⟩, ⟨(DDR.ECC_UNCORR r), .rc, false, false⟩]⟩,
  ⟨0x40028, 1, 0x8, 1, 0x8, fun _ _ => [⟨(DDR.ECC_ADDR_WORD r), .ro, false, false⟩, ⟨(DDR.ECC_ADDR_DEVICE r), .ro, false, false⟩, ⟨(DDR.ECC_ADDR_KIND r), .ro, false, false⟩, ⟨(DDR.ECC_ADDR_VALID r), .w1c, false, false⟩]⟩,
  ⟨0x40030, 1, 0x8, 1, 0x8, fun _ _ => [⟨(DDR.RETRY_WCRC r), .rc, false, false⟩, ⟨(DDR.RETRY_CAPAR r), .rc, false, false⟩]⟩,
  ⟨0x40038, 1, 0x8, 1, 0x8, fun _ _ => [⟨(DDR.SCRUB_HOURS r), .rw, false, false⟩, ⟨(DDR.SCRUB_PASSES r), .ro, false, false⟩]⟩,
  ⟨0x40040, 1, 0x8, 1, 0x8, fun _ _ => [⟨(DDR.EVT_CFG_CORR_THRESH r), .rw, false, false⟩]⟩]

/-- Registers of DDR by offset. -/
def DDR.regTable (r : Nat) : List RegDesc :=
  DDR.regTable0 r

/-! ### LDG (spec/09_fail_ledger.md) -/

/-! LDG.CTRL, offset 0x80000 (R246). -/
abbrev LDG.CTRL_EN (r : Nat) : Fld := ⟨regionBase r + 0x80000, 0, 1, 0⟩
abbrev LDG.CTRL_SALT (r : Nat) : Fld := ⟨regionBase r + 0x80000, 8, 22, 0⟩

/-! LDG.STATUS, offset 0x80008 (R246). -/
abbrev LDG.STATUS_WR_IGN (r : Nat) : Fld := ⟨regionBase r + 0x80008, 0, 1, 0⟩
abbrev LDG.STATUS_SPILLED (r : Nat) : Fld := ⟨regionBase r + 0x80008, 1, 1, 0⟩
abbrev LDG.STATUS_SPILL_FULL (r : Nat) : Fld := ⟨regionBase r + 0x80008, 2, 1, 0⟩
abbrev LDG.STATUS_DIG_DONE (r : Nat) : Fld := ⟨regionBase r + 0x80008, 3, 1, 0⟩
abbrev LDG.STATUS_DIG_BUSY (r : Nat) : Fld := ⟨regionBase r + 0x80008, 4, 1, 0⟩

/-! LDG.TBL_BASE, offset 0x80010 (R246). -/
abbrev LDG.TBL_BASE_WORD (r : Nat) : Fld := ⟨regionBase r + 0x80010, 0, 36, 0⟩

/-! LDG.SPILL_BASE, offset 0x80018 (R246). -/
abbrev LDG.SPILL_BASE_WORD (r : Nat) : Fld := ⟨regionBase r + 0x80018, 0, 36, 0⟩

/-! LDG.SPILL_HEAD, offset 0x80020 (R246). -/
abbrev LDG.SPILL_HEAD_COUNT (r : Nat) : Fld := ⟨regionBase r + 0x80020, 0, 32, 0⟩

/-! LDG.SPILL_TAIL, offset 0x80028 (R246). -/
abbrev LDG.SPILL_TAIL_COUNT (r : Nat) : Fld := ⟨regionBase r + 0x80028, 0, 32, 0⟩

/-! LDG.SCRUB, offset 0x80030 (R246). -/
abbrev LDG.SCRUB_RATE (r : Nat) : Fld := ⟨regionBase r + 0x80030, 0, 8, 16⟩
abbrev LDG.SCRUB_PASSES (r : Nat) : Fld := ⟨regionBase r + 0x80030, 16, 32, 0⟩

/-! LDG.FLUSH, offset 0x80038 (R246). -/
abbrev LDG.FLUSH_GO (r : Nat) : Fld := ⟨regionBase r + 0x80038, 0, 1, 0⟩

/-! LDG.CACHE_HIT, offset 0x80040 (R246). -/
abbrev LDG.CACHE_HIT_COUNT (r : Nat) : Fld := ⟨regionBase r + 0x80040, 0, 48, 0⟩

/-! LDG.CACHE_MISS, offset 0x80048 (R246). -/
abbrev LDG.CACHE_MISS_COUNT (r : Nat) : Fld := ⟨regionBase r + 0x80048, 0, 48, 0⟩

/-! LDG.UPDATES, offset 0x80050 (R246). -/
abbrev LDG.UPDATES_COUNT (r : Nat) : Fld := ⟨regionBase r + 0x80050, 0, 48, 0⟩

/-! LDG.RECORDS, offset 0x80058 (R246). -/
abbrev LDG.RECORDS_COUNT (r : Nat) : Fld := ⟨regionBase r + 0x80058, 0, 48, 0⟩

/-! LDG.ECC, offset 0x80060 (R246). -/
abbrev LDG.ECC_CORR (r : Nat) : Fld := ⟨regionBase r + 0x80060, 0, 32, 0⟩
abbrev LDG.ECC_UNCORR (r : Nat) : Fld := ⟨regionBase r + 0x80060, 32, 32, 0⟩

/-! LDG.ACCT_MISS, offset 0x80068 (R246). -/
abbrev LDG.ACCT_MISS_COUNT (r : Nat) : Fld := ⟨regionBase r + 0x80068, 0, 32, 0⟩

/-! LDG.LK_KEY, offset 0x80080 (R246). -/
abbrev LDG.LK_KEY_KEY (r : Nat) : Fld := ⟨regionBase r + 0x80080, 0, 56, 0⟩
abbrev LDG.LK_KEY_GO (r : Nat) : Fld := ⟨regionBase r + 0x80080, 63, 1, 0⟩

/-! LDG.LK_W0, offset 0x80088 (R246). -/
abbrev LDG.LK_W0_W0 (r : Nat) : Fld := ⟨regionBase r + 0x80088, 0, 64, 0⟩

/-! LDG.LK_W1, offset 0x80090 (R246). -/
abbrev LDG.LK_W1_W1 (r : Nat) : Fld := ⟨regionBase r + 0x80090, 0, 64, 0⟩

/-! LDG.LK_HI, offset 0x80098 (R246). -/
abbrev LDG.LK_HI_W0_HI (r : Nat) : Fld := ⟨regionBase r + 0x80098, 0, 8, 0⟩
abbrev LDG.LK_HI_W1_HI (r : Nat) : Fld := ⟨regionBase r + 0x80098, 8, 8, 0⟩
abbrev LDG.LK_HI_FOUND (r : Nat) : Fld := ⟨regionBase r + 0x80098, 16, 1, 0⟩
abbrev LDG.LK_HI_BUSY (r : Nat) : Fld := ⟨regionBase r + 0x80098, 17, 1, 0⟩

/-! LDG.DIG_CTRL, offset 0x800C0 (R246). -/
abbrev LDG.DIG_CTRL_LEAD (r : Nat) : Fld := ⟨regionBase r + 0x800C0, 0, 6, 0⟩
abbrev LDG.DIG_CTRL_GO (r : Nat) : Fld := ⟨regionBase r + 0x800C0, 8, 1, 0⟩

/-! LDG.DIG, offset 0x800C8 (R246). -/
abbrev LDG.DIG_LD (r n : Nat) : Fld := ⟨regionBase r + 0x800C8 + 0x8 * n, 0, 64, 0⟩

/-! LDG.DIG_DROPS, offset 0x800E8 (R246). -/
abbrev LDG.DIG_DROPS_COUNT (r : Nat) : Fld := ⟨regionBase r + 0x800E8, 0, 32, 0⟩

/-! LDG.CVCFG, offset 0x81000 (R246). -/
abbrev LDG.CVCFG_ADDR_SRC (r i : Nat) : Fld := ⟨regionBase r + 0x81000 + 0x8 * i, 0, 2, 0⟩
abbrev LDG.CVCFG_LEN (r i : Nat) : Fld := ⟨regionBase r + 0x81000 + 0x8 * i, 2, 1, 0⟩
abbrev LDG.CVCFG_AEN (r i : Nat) : Fld := ⟨regionBase r + 0x81000 + 0x8 * i, 3, 1, 0⟩
abbrev LDG.CVCFG_ACCT_BASE (r i : Nat) : Fld := ⟨regionBase r + 0x81000 + 0x8 * i, 16, 16, 0⟩
abbrev LDG.CVCFG_ACCT_N (r i : Nat) : Fld := ⟨regionBase r + 0x81000 + 0x8 * i, 32, 17, 0⟩

/-! LDG.CVST, offset 0x81200 (R246). -/
abbrev LDG.CVST_DRAIN_DONE (r i : Nat) : Fld := ⟨regionBase r + 0x81200 + 0x8 * i, 0, 1, 0⟩
abbrev LDG.CVST_ALLOC_DONE (r i : Nat) : Fld := ⟨regionBase r + 0x81200 + 0x8 * i, 1, 1, 0⟩
abbrev LDG.CVST_DRAIN (r i : Nat) : Fld := ⟨regionBase r + 0x81200 + 0x8 * i, 2, 1, 0⟩
abbrev LDG.CVST_ALLOC (r i : Nat) : Fld := ⟨regionBase r + 0x81200 + 0x8 * i, 3, 1, 0⟩
abbrev LDG.CVST_ALLOC_BUSY (r i : Nat) : Fld := ⟨regionBase r + 0x81200 + 0x8 * i, 4, 1, 0⟩
abbrev LDG.CVST_ALLOC_REP (r i : Nat) : Fld := ⟨regionBase r + 0x81200 + 0x8 * i, 16, 16, 0⟩
abbrev LDG.CVST_ALLOC_UNREP (r i : Nat) : Fld := ⟨regionBase r + 0x81200 + 0x8 * i, 32, 16, 0⟩

/-! LDG.SITE, offset 0x82000 (R246). -/
abbrev LDG.SITE_EPOCH (r s : Nat) : Fld := ⟨regionBase r + 0x82000 + 0x8 * s, 0, 8, 0⟩
abbrev LDG.SITE_CLEAR (r s : Nat) : Fld := ⟨regionBase r + 0x82000 + 0x8 * s, 8, 1, 0⟩
abbrev LDG.SITE_EPOCH_WAIT (r s : Nat) : Fld := ⟨regionBase r + 0x82000 + 0x8 * s, 9, 1, 0⟩
abbrev LDG.SITE_SPILL_DROP (r s : Nat) : Fld := ⟨regionBase r + 0x82000 + 0x8 * s, 32, 32, 0⟩

/-- Registers of LDG by offset, part 0. -/
def LDG.regTable0 (r : Nat) : List RegDesc := [
  ⟨0x80000, 1, 0x8, 1, 0x8, fun _ _ => [⟨(LDG.CTRL_EN r), .rw, false, false⟩, ⟨(LDG.CTRL_SALT r), .rw, false, false⟩]⟩,
  ⟨0x80008, 1, 0x8, 1, 0x8, fun _ _ => [⟨(LDG.STATUS_WR_IGN r), .w1c, false, false⟩, ⟨(LDG.STATUS_SPILLED r), .w1c, false, false⟩, ⟨(LDG.STATUS_SPILL_FULL r), .ro, false, false⟩, ⟨(LDG.STATUS_DIG_DONE r), .w1c, false, false⟩, ⟨(LDG.STATUS_DIG_BUSY r), .ro, false, false⟩]⟩,
  ⟨0x80010, 1, 0x8, 1, 0x8, fun _ _ => [⟨(LDG.TBL_BASE_WORD r), .rw, false, false⟩]⟩,
  ⟨0x80018, 1, 0x8, 1, 0x8, fun _ _ => [⟨(LDG.SPILL_BASE_WORD r), .rw, false, false⟩]⟩,
  ⟨0x80020, 1, 0x8, 1, 0x8, fun _ _ => [⟨(LDG.SPILL_HEAD_COUNT r), .rw, false, false⟩]⟩,
  ⟨0x80028, 1, 0x8, 1, 0x8, fun _ _ => [⟨(LDG.SPILL_TAIL_COUNT r), .ro, false, false⟩]⟩,
  ⟨0x80030, 1, 0x8, 1, 0x8, fun _ _ => [⟨(LDG.SCRUB_RATE r), .rw, false, false⟩, ⟨(LDG.SCRUB_PASSES r), .ro, false, false⟩]⟩,
  ⟨0x80038, 1, 0x8, 1, 0x8, fun _ _ => [⟨(LDG.FLUSH_GO r), .w1s, false, false⟩]⟩,
  ⟨0x80040, 1, 0x8, 1, 0x8, fun _ _ => [⟨(LDG.CACHE_HIT_COUNT r), .rc, false, false⟩]⟩,
  ⟨0x80048, 1, 0x8, 1, 0x8, fun _ _ => [⟨(LDG.CACHE_MISS_COUNT r), .rc, false, false⟩]⟩,
  ⟨0x80050, 1, 0x8, 1, 0x8, fun _ _ => [⟨(LDG.UPDATES_COUNT r), .rc, false, false⟩]⟩,
  ⟨0x80058, 1, 0x8, 1, 0x8, fun _ _ => [⟨(LDG.RECORDS_COUNT r), .rc, false, false⟩]⟩]

/-- Registers of LDG by offset, part 1. -/
def LDG.regTable1 (r : Nat) : List RegDesc := [
  ⟨0x80060, 1, 0x8, 1, 0x8, fun _ _ => [⟨(LDG.ECC_CORR r), .rc, false, false⟩, ⟨(LDG.ECC_UNCORR r), .rc, false, false⟩]⟩,
  ⟨0x80068, 1, 0x8, 1, 0x8, fun _ _ => [⟨(LDG.ACCT_MISS_COUNT r), .rc, false, false⟩]⟩,
  ⟨0x80080, 1, 0x8, 1, 0x8, fun _ _ => [⟨(LDG.LK_KEY_KEY r), .rw, false, false⟩, ⟨(LDG.LK_KEY_GO r), .w1s, false, false⟩]⟩,
  ⟨0x80088, 1, 0x8, 1, 0x8, fun _ _ => [⟨(LDG.LK_W0_W0 r), .ro, false, false⟩]⟩,
  ⟨0x80090, 1, 0x8, 1, 0x8, fun _ _ => [⟨(LDG.LK_W1_W1 r), .ro, false, false⟩]⟩,
  ⟨0x80098, 1, 0x8, 1, 0x8, fun _ _ => [⟨(LDG.LK_HI_W0_HI r), .ro, false, false⟩, ⟨(LDG.LK_HI_W1_HI r), .ro, false, false⟩, ⟨(LDG.LK_HI_FOUND r), .ro, false, false⟩, ⟨(LDG.LK_HI_BUSY r), .ro, false, false⟩]⟩,
  ⟨0x800C0, 1, 0x8, 1, 0x8, fun _ _ => [⟨(LDG.DIG_CTRL_LEAD r), .rw, false, false⟩, ⟨(LDG.DIG_CTRL_GO r), .w1s, false, false⟩]⟩,
  ⟨0x800C8, 4, 0x8, 1, 0x8, fun n _ => [⟨(LDG.DIG_LD r n), .ro, false, false⟩]⟩,
  ⟨0x800E8, 1, 0x8, 1, 0x8, fun _ _ => [⟨(LDG.DIG_DROPS_COUNT r), .ro, false, false⟩]⟩,
  ⟨0x81000, 64, 0x8, 1, 0x8, fun i _ => [⟨(LDG.CVCFG_ADDR_SRC r i), .rw, false, false⟩, ⟨(LDG.CVCFG_LEN r i), .rw, false, false⟩, ⟨(LDG.CVCFG_AEN r i), .rw, false, false⟩, ⟨(LDG.CVCFG_ACCT_BASE r i), .rw, false, false⟩, ⟨(LDG.CVCFG_ACCT_N r i), .rw, false, false⟩]⟩,
  ⟨0x81200, 64, 0x8, 1, 0x8, fun i _ => [⟨(LDG.CVST_DRAIN_DONE r i), .w1c, false, false⟩, ⟨(LDG.CVST_ALLOC_DONE r i), .w1c, false, false⟩, ⟨(LDG.CVST_DRAIN r i), .w1s, false, false⟩, ⟨(LDG.CVST_ALLOC r i), .w1s, false, false⟩, ⟨(LDG.CVST_ALLOC_BUSY r i), .ro, false, false⟩, ⟨(LDG.CVST_ALLOC_REP r i), .ro, false, false⟩, ⟨(LDG.CVST_ALLOC_UNREP r i), .ro, false, false⟩]⟩,
  ⟨0x82000, 256, 0x8, 1, 0x8, fun s _ => [⟨(LDG.SITE_EPOCH r s), .ro, false, false⟩, ⟨(LDG.SITE_CLEAR r s), .w1s, false, false⟩, ⟨(LDG.SITE_EPOCH_WAIT r s), .ro, false, false⟩, ⟨(LDG.SITE_SPILL_DROP r s), .ro, false, false⟩]⟩]

/-- Registers of LDG by offset. -/
def LDG.regTable (r : Nat) : List RegDesc :=
  LDG.regTable0 r ++ LDG.regTable1 r

end Sys2Proof.Machine
end

