-- ==== Sys2Proof/Machine/Ops.lean ====
section
/-! DEFINITION. The named operations that every meaning uses: registers, memory, the records of the units, free
values, event pulses, fault reports, safe-state entry, halts and void marks. -/

namespace Sys2Proof.Machine

/-- The key of a field in the register store. -/
def Fld.key (f : Fld) : Nat := 64 * f.addr + f.lsb

/-- The present value of a register field. -/
def State.rd (s : State) (f : Fld) : Nat := (Nat.xor (Tab.get 0 s.regs f.key) f.reset) % 2 ^ f.width

/-- The state with a register field written; higher bits of `v` are cut. -/
def State.wr (s : State) (f : Fld) (v : Nat) : State :=
  { s with regs := Tab.set 0 s.regs f.key (Nat.xor (v % 2 ^ f.width) f.reset) }

/-- A one-bit field as a Boolean. -/
def State.flag (s : State) (f : Fld) : Bool := s.rd f == 1

/-- Write a Boolean into a one-bit field. -/
def State.wrB (s : State) (f : Fld) (b : Bool) : State := s.wr f (b2n b)

/-- Several field writes, in order. -/
def State.wrs (s : State) : List (Fld × Nat) → State
  | [] => s
  | (f, v) :: t => (s.wr f v).wrs t

/-- A saturating counter field counts `n` more. -/
def State.count (s : State) (f : Fld) (n : Nat) : State := s.wr f (satAdd f.width (s.rd f) n)

/-- The record of cell `c`. -/
def State.cell (s : State) (c : Nat) : CellX := Tab.get CellX.reset s.cells c
/-- Replace the record of cell `c`. -/
def State.setCell (s : State) (c : Nat) (x : CellX) : State := { s with cells := Tab.set CellX.reset s.cells c x }
/-- Change the record of cell `c`. -/
def State.modCell (s : State) (c : Nat) (f : CellX → CellX) : State := s.setCell c (f (s.cell c))

/-- The run record of the caravan led by cell `l`. -/
def State.run (s : State) (l : Nat) : Run := Tab.get Run.reset s.runs l
/-- Replace a run record. -/
def State.setRun (s : State) (l : Nat) (x : Run) : State := { s with runs := Tab.set Run.reset s.runs l x }
/-- Change a run record. -/
def State.modRun (s : State) (l : Nat) (f : Run → Run) : State := s.setRun l (f (s.run l))

/-- The record of block `b`. -/
def State.block (s : State) (b : Nat) : BlockX := Tab.get BlockX.reset s.blocks b
/-- Replace the record of block `b`. -/
def State.setBlock (s : State) (b : Nat) (x : BlockX) : State := { s with blocks := Tab.set BlockX.reset s.blocks b x }
/-- Change the record of block `b`. -/
def State.modBlock (s : State) (b : Nat) (f : BlockX → BlockX) : State := s.setBlock b (f (s.block b))

/-- The record of region `r`. -/
def State.region (s : State) (r : Nat) : RegionX := Tab.get RegionX.reset s.regions r
/-- Replace the record of region `r`. -/
def State.setRegion (s : State) (r : Nat) (x : RegionX) : State :=
  { s with regions := Tab.set RegionX.reset s.regions r x }
/-- Change the record of region `r`. -/
def State.modRegion (s : State) (r : Nat) (f : RegionX → RegionX) : State := s.setRegion r (f (s.region r))

/-- A free value of `w` bits (log 1): the next draw, which nothing constrains. -/
def State.freeVal (s : State) (w : Nat) : Nat := Config.freeValue s.freeCtr % 2 ^ w
/-- The state after a draw. -/
def State.drawn (s : State) : State := { s with freeCtr := s.freeCtr + 1 }

/-- R425: pulse source `n` fires once. -/
def State.pulse (s : State) (n : Nat) : State := { s with pulses := s.pulses ++ [n] }

/-- R479: a detector reports a fault whose scope the table of R484 gives. -/
def State.report (s : State) (code unit : Nat) : State :=
  { s with faultQ := s.faultQ ++ [⟨code, unit, false, 7, []⟩] }

/-- R9, R21: the counter `f` of a clock has reached `t`; it never goes back. -/
def State.reached (s : State) (f : Fld) (t : Nat) : State := s.wr f (max (s.rd f) t)

/-- R9, R21: the clock of the counter `f` has counted on, by a number that nothing constrains but its width. -/
def State.counted (s : State) (f : Fld) : State :=
  { s.wr f (s.rd f + s.freeVal 64 % (2 ^ f.width - s.rd f)) with freeCtr := s.freeCtr + 1 }

/-- R479: a detector reports a fault with the scope or the caravans that its own rule finds. -/
def State.reportAs (s : State) (code unit scope : Nat) (leads : List Nat) : State :=
  { s with faultQ := s.faultQ ++ [⟨code, unit, false, scope, leads⟩] }

/-! ### Memory -/

/-- What a byte that nothing has written reads as: 0 (R508, R510; DESIGN CHOICE for DDR5, log 4). -/
def memDefault : BitVec 8 := 0

/-- One byte of memory. -/
def State.readByte (s : State) (a : Nat) : Nat := (Tab.get memDefault s.mem a).toNat
/-- Write one byte of memory. -/
def State.writeByte (s : State) (a v : Nat) : State := { s with mem := Tab.set memDefault s.mem a (BitVec.ofNat 8 v) }

/-- `n` bytes from address `a` up. -/
def State.readBytes (s : State) (a : Nat) : Nat → List Nat
  | 0 => []
  | n + 1 => s.readByte a :: s.readBytes (a + 1) n
/-- Write bytes from address `a` up. -/
def State.writeBytes (s : State) (a : Nat) : List Nat → State
  | [] => s
  | v :: t => (s.writeByte a v).writeBytes (a + 1) t

/-- R3: the 72-bit word in the slot at `a`. -/
def State.readWord (s : State) (a : Nat) : Nat := ofBytes (s.readBytes a 9)
/-- R4, R5: a whole word is replaced with fresh check bits. -/
def State.writeWord (s : State) (a v : Nat) : State :=
  let t := s.writeBytes a (toBytes 9 v)
  { t with ecc := Tab.set 0 t.ecc a 0, rawChk := Tab.set 0 t.rawChk a 0 }

/-- `n` words, one a slot, from address `a` up. -/
def State.readWords (s : State) (a : Nat) : Nat → List Nat
  | 0 => []
  | n + 1 => s.readWord a :: s.readWords (a + 16) n
/-- Write words, one a slot. -/
def State.writeWords (s : State) (a : Nat) : List Nat → State
  | [] => s
  | v :: t => (s.writeWord a v).writeWords (a + 16) t

/-- A 64-bit word of a byte-addressed memory. -/
def State.read64 (s : State) (a : Nat) : Nat := ofBytes (s.readBytes a 8)
/-- Write a 64-bit word of a byte-addressed memory. -/
def State.write64 (s : State) (a v : Nat) : State :=
  let t := s.writeBytes a (toBytes 8 v)
  { t with ecc := Tab.set 0 t.ecc a 0 }

/-- Memory of an address range returns to what an unwritten byte reads as. -/
def State.clearMem (s : State) (lo hi : Nat) : State :=
  { s with mem := Tab.drop s.mem lo hi, ecc := Tab.drop s.ecc lo hi, rawChk := Tab.drop s.rawChk lo hi }

/-- Registers of an address range return to their reset values. -/
def State.resetRegs (s : State) (lo hi : Nat) : State := { s with regs := Tab.drop s.regs (64 * lo) (64 * hi) }

/-- R78, R284: the error class of a stored word, an upset of the present read included: 0 good, 1 corrected,
otherwise uncorrectable. -/
def State.eccOf (s : State) (a upset : Nat) : Nat := max (Tab.get 0 s.ecc a) upset

/-- R284, R285: the word at `a` as a read through its code returns it: one stored raw with a correctable error is corrected. -/
def State.readFixed (s : State) (a : Nat) : Nat :=
  let c := Tab.get 0 s.rawChk a
  if c ≠ 0 ∧ Tab.get 0 s.ecc a = 1 ∧ Config.checkClass (s.readWord a) (c - 1) = 1 then Config.checkFix (s.readWord a) (c - 1) % 2 ^ 72 else s.readWord a

/-- R284: what a read leaves stored: a corrected word is written back, an uncorrectable one stays, 3 where an error has arisen
since it was written. -/
def State.eccAfter (s : State) (a upset : Nat) : State :=
  if 2 ≤ s.eccOf a upset then { s with ecc := Tab.set 0 s.ecc a (if upset = 0 then Tab.get 0 s.ecc a else 3) }
  else if Tab.get 0 s.rawChk a ≠ 0 ∧ Tab.get 0 s.ecc a = 1 then s.writeWord a (s.readFixed a)
  else { s with ecc := Tab.set 0 s.ecc a 0 }

/-! ### Caravans (R105, R107) -/

/-- The cells of a region. -/
def regionCells (r : Nat) : List Nat := (List.range 64).map (64 * r + ·)
/-- The cells of a block. -/
def blockCells (b : Nat) : List Nat := (List.range 8).map (8 * b + ·)

/-- R105: cell `c` belongs to an enabled caravan. -/
def State.enabled (s : State) (c : Nat) : Bool := s.flag (CEL.CARAVAN_EN c)
/-- R107: the lead that cell `c` names. -/
def State.leadOf (s : State) (c : Nat) : Nat := s.rd (CEL.CARAVAN_LEAD c)
/-- R107: cell `c` is the lead of an enabled caravan. -/
def State.isLead (s : State) (c : Nat) : Bool := s.enabled c && s.leadOf c == c
/-- R105: the members of the caravan led by `l`, lowest first. -/
def State.members (s : State) (l : Nat) : List Nat :=
  (regionCells (regionOf l)).filter fun c => s.enabled c && s.leadOf c == l
/-- The leads of the enabled caravans of a region. -/
def State.leadsOf (s : State) (r : Nat) : List Nat := (regionCells r).filter s.isLead
/-- The leads of all enabled caravans. -/
def State.allLeads (s : State) : List Nat := (List.range 256).filter s.isLead
/-- Leads of the caravans with a member in block `b`. -/
def State.leadsInBlock (s : State) (b : Nat) : List Nat :=
  ((blockCells b).filter s.enabled).map s.leadOf |>.eraseDups

/-- Caravan states of SEQ.STATUS.STATE. -/
abbrev stIdle : Nat := 0
abbrev stArmed : Nat := 1
abbrev stRunning : Nat := 2
abbrev stHalted : Nat := 3

/-- The state of the caravan of cell `c`. -/
def State.cvState (s : State) (c : Nat) : Nat := s.rd (SEQ.STATUS_STATE c)
/-- The caravan of cell `c` is ARMED or RUNNING. -/
def State.busy (s : State) (c : Nat) : Bool := s.cvState c == stArmed || s.cvState c == stRunning
/-- The caravan of cell `c`, when it belongs to one, is ARMED or RUNNING. -/
def State.cellBusy (s : State) (c : Nat) : Bool := s.enabled c && s.busy (s.leadOf c)
/-- A caravan with a member in block `b` is ARMED or RUNNING. -/
def State.blockBusy (s : State) (b : Nat) : Bool := (s.leadsInBlock b).any s.busy

/-- A field write in every cell of a list. -/
def State.wrAll (s : State) (cs : List Nat) (f : Nat → Fld) (v : Nat) : State :=
  cs.foldl (fun t c => t.wr (f c) v) s

/-- The caravan state, shown by every member. -/
def State.setCv (s : State) (l v : Nat) : State := s.wrAll (s.members l) SEQ.STATUS_STATE v

/-- R109: the site of the caravan led by `l`: that of its last START, before one the lead's SITE. -/
def State.siteOf (s : State) (l : Nat) : Nat := (s.run l).site.getD (s.rd (CEL.CARAVAN_SITE l))

/-- R51: the condition latency. -/
def State.latency (s : State) (l : Nat) : Nat := if s.flag (CEL.CARAVAN_SPAN l) then 10 else 6

/-- R112: the equalisation delay E of the caravan led by `l`, in strides. -/
def State.equalise (s : State) (l : Nat) : Nat := if s.flag (CEL.CARAVAN_SPAN l) then 3 else 1

/-- R54: changes of fabric conditions after a pause of the run at stride `sn`: at least `gap` strides of the clock pass
before stride `sn'`, which is the next. -/
def rebaseFab (sn sn' gap : Nat) (q : List FabChange) : List FabChange :=
  (q.map fun e => { e with from_ := 0, till := sn' + (e.till - sn) - gap }).filter fun e => decide (sn' < e.till)

/-- R110: the block whose PLL is the source of block `b`'s gang. -/
def State.gangSource (s : State) (b : Nat) : Nat :=
  let r := regionOfBlock b
  let gid k := bits (s.rd (RGN.GANG_GID0 r) + 8 * s.rd (RGN.GANG_GID1 r) + 64 * s.rd (RGN.GANG_GID2 r)
    + 512 * s.rd (RGN.GANG_GID3 r) + 4096 * s.rd (RGN.GANG_GID4 r) + 32768 * s.rd (RGN.GANG_GID5 r)
    + 262144 * s.rd (RGN.GANG_GID6 r) + 2097152 * s.rd (RGN.GANG_GID7 r)) (3 * k) 3
  8 * r + (((List.range 8).find? fun k => gid k == gid (b % 8)).getD (b % 8))

/-- R110: the blocks that the source PLL of block `b` clocks. -/
def State.gangBlocks (s : State) (b : Nat) : List Nat :=
  ((List.range 8).map (8 * regionOfBlock b + ·)).filter fun k => s.gangSource k == s.gangSource b

/-- States of PLL.STATUS.STATE. -/
abbrev pllOff : Nat := 0
abbrev pllAcquiring : Nat := 1
abbrev pllLocked : Nat := 2
abbrev pllRamping : Nat := 3
abbrev pllLost : Nat := 4
abbrev pllFail : Nat := 5

/-- The state of the PLL that clocks block `b`. -/
def State.pllState (s : State) (b : Nat) : Nat := s.rd (PLL.STATUS_STATE (s.gangSource b))

/-- R98: the PLL that clocks block `b` is LOCKED or RAMPING. -/
def State.pllGood (s : State) (b : Nat) : Bool := s.pllState b == pllLocked || s.pllState b == pllRamping

/-- R391: the device is frozen or entering freeze. -/
def State.frozen (s : State) : Bool := s.flag DBG.FRZ_STATUS_FROZEN || s.flag DBG.FRZ_STATUS_ENTERING

/-- R410 step 3: an entry has stopped the clocks of block `b`. -/
def State.entryStopped (s : State) (b : Nat) : Bool := s.power.entry.any fun e => decide (4 ≤ e.stage) && bitOf e.blocks b

/-- R182, R391, R410: the stride and fabric clocks of block `b` run. -/
def State.clockRuns (s : State) (b : Nat) : Bool := s.flag (PLL.STATUS_CLK_RUN b) && !s.frozen && !s.entryStopped b

/-- R272, R400: block domain `b` is powered. -/
def State.blockOn (s : State) (b : Nat) : Bool := bitOf (s.rd PWR.DOMAINS_BLK_ON) b
/-- Region domain `r` is powered. -/
def State.regionOn (s : State) (r : Nat) : Bool := bitOf (s.rd PWR.DOMAINS_RGN_ON) r

/-- R176, R403: the performance level whose limits are in force: during a level change the new one, but for a raise that
still waits for its voltage. -/
def State.limitLevel (s : State) : Nat :=
  match s.power.levelRun with
  | some r => if r.raising && !r.atPll then s.rd PWR.STATUS_LEVEL else r.level
  | none => s.rd PWR.STATUS_LEVEL

/-! ### Safe state (R161, R162) -/

/-- R156: a free ADC takes, of the requests whose DELAY has elapsed, the one whose GO came first. -/
def takeNext (q : List AdcReq) : List AdcReq :=
  if q.any (·.taken) then q
  else match q.find? (·.elapsed) with
    | none => q
    | some r => q.map fun e => if e.pin = r.pin then { e with taken := true } else e

/-- R161: cause `cause` reaches lane `n` of cell `c`: the first cause is kept; the entry's first step switches the
driver off; a pending measurement ends without a result (R158). -/
def State.enterSafe (s : State) (c n cause : Nat) : State :=
  if s.flag (PIN.STATE_SAFE c n) || bitOf (s.cell c).entering n then s
  else
    let s := (s.modCell c fun x =>
      { x with
        entering := setBit x.entering n, level := setField x.level (2 * n) 2 3
        plan := x.plan.filter fun e => e.lane != n }).wr
      (PIN.STATE_SAFE_CAUSE c n) cause
    if s.flag (PIN.MEAS_PEND c n) then
      ((s.modBlock (blockOf c) fun x => { x with adcQ := takeNext (x.adcQ.filter fun q => q.pin ≠ 4 * c + n) }).wrs
        [(PIN.MEAS_PEND c n, 0), (PIN.RESULT_VALID c n, 0), (PIN.RESULT_ABORTED c n, 1)]).pulse (1024 + 4 * blockOf c + 2)
    else s

/-- Every lane of a cell enters the safe state. -/
def State.safeCell (s : State) (cause c : Nat) : State :=
  (List.range 4).foldl (fun t n => t.enterSafe c n cause) s

/-- Every lane of the cells enters the safe state. -/
def State.safeCells (s : State) (cause : Nat) (cs : List Nat) : State := cs.foldl (fun t c => t.safeCell cause c) s

/-! ### Self-test slices (R493 to R497) -/

/-- R493: EXPECT of slice `k`. -/
def sliceExpect (k : Nat) : Nat := ([256, 4, 2, 3, 4096, 24, 512, 1024] : List Nat).getD k 0

/-- The running slice holds lane `n` of cell `c`. -/
def State.sliceLane (s : State) (c n : Nat) : Bool :=
  s.bst.run.any fun r => (r.1 == 0 && blockOf c == r.2.1) ||
    (decide (1 ≤ r.1 ∧ r.1 ≤ 3) && blockOf c == r.2.1 && 4 * (c % 8) + n == r.2.2)
/-- The running slice holds the ADC of block `b`. -/
def State.sliceAdc (s : State) (b : Nat) : Bool := s.bst.run.any fun r => decide (1 ≤ r.1 ∧ r.1 ≤ 3) && r.2.1 == b
/-- The running slice measures the PLL of block `b`. -/
def State.slicePll (s : State) (b : Nat) : Bool := s.bst.run.any fun r => r.1 == 4 && r.2.1 == b
/-- The running slice holds a resource of block `b`. -/
def State.sliceBlock (s : State) (b : Nat) : Bool := s.bst.run.any fun r => decide (r.1 ≤ 4) && r.2.1 == b
/-- The running slice holds the channel of region `r`. -/
def State.sliceRegion (s : State) (r : Nat) : Bool := s.bst.run.any fun x => x.1 == 6 && x.2.1 == r

/-- R495 to R497: the running slice ends with RESULT `res`; its resources are restored as they were before it. -/
def State.endSlice (s : State) (res : Nat) (done : Bool) : State :=
  ({ s with bst := { s.bst with run := none } }).wrs
    [(BST.RUN_GO, 0), (BST.RESULT_RESULT, res), (BST.RESULT_DONE, b2n done), (BST.EVT_DONE, 1)]

/-- R496, SLICE_ABORT: where `hit` holds, a service request ends the running slice with INCOMPLETE; the request then
proceeds. -/
def State.abortSlice (s : State) (hit : Bool) : State :=
  if hit && s.bst.run.isSome then ((s.endSlice 3 false).wr BST.EVT_ABORTED 1).count BST.COUNT_ABORTS 1 else s

/-! ### Freeze triggers (R391) -/

/-- R457, R458, R391: the device acts on a frame that carries command `cmd`, as it stands when the frame arrives
(log 35). -/
def State.actsOn (s : State) (cmd : Nat) : Bool :=
  if cmd = 1 ∨ cmd = 2 then s.flag CVY.CFG_START_EN else if cmd = 4 then s.flag CVY.CFG_SYNC_EN
  else if cmd = 5 then s.flag DBG.FRZ_CTRL_CVY_EN else false

/-- R456: the wait W of a device that is aligned, in picoseconds. -/
def State.convoyW (s : State) : Nat :=
  (s.rd CVY.CFG_KMAX - s.rd CVY.STATUS_POS) * 24000 + s.rd CVY.CFG_BUDGET_PS - s.rd CVY.CFG_ARRIVE_PS

/-- R453, R456, R457: a good frame is received: it is counted and recorded, ALIGN sets the position, and a command that
the device acts on waits for its acting instant. A frame of another CMD has no action. -/
def State.receiveFrame (s : State) (cmd hop : Nat) : State :=
  let late := bitOf hop 7
  let s1 := (s.count CVY.COUNT_FRAMES 1).wrs [(CVY.LAST_CMD, cmd), (CVY.LAST_HOP, hop)]
  let s2 := if late then s1.count CVY.COUNT_LATE 1 else s1
  let s3 := if cmd = 3 then s2.wrs [(CVY.STATUS_POS, hop % 64), (CVY.STATUS_ALIGNED, 1)] else s2
  if cmd != 3 && !s3.actsOn cmd then s3
  else
    let miss := hop % 128 != s3.rd CVY.STATUS_POS
    let bad := !s3.flag CVY.STATUS_ALIGNED || late || decide (s3.rd CVY.CFG_KMAX < s3.rd CVY.STATUS_POS) ||
      decide (s3.rd CVY.CFG_BUDGET_PS < s3.rd CVY.CFG_ARRIVE_PS) || miss
    let s4 := if bad then s3.wr CVY.STATUS_ALIGN_ERR 1 else s3
    let s5 := if miss then s4.wr CVY.STATUS_ALIGNED 0 else s4
    if cmd = 3 then s5
    else { s5 with cvy := { s5.cvy with acts := s5.cvy.acts ++ [(cmd, if bad then 0 else s3.convoyW)] } }

/-- R453: one bit of CRC-8 with polynomial 0x07. -/
def crc8Step (c : Nat) : Nat := if 128 ≤ c then Nat.xor (2 * c % 256) 7 else 2 * c

/-- R453: CRC-8 of bytes, from `c`, without reflection. -/
def crc8 (c : Nat) : List Nat → Nat
  | [] => c
  | b :: bs => crc8 (crc8Step (crc8Step (crc8Step (crc8Step (crc8Step (crc8Step (crc8Step (crc8Step (Nat.xor c b))))))))) bs

/-- R453: a command frame: K27.7, CMD, HOP, CRC, K29.7. -/
def frameSyms (cmd hop : Nat) : List Nat := [256 + 0xFB, cmd, hop, crc8 0 [cmd, hop], 256 + 0xFD]

/-- R454: a frame whose incoming CRC is bad, as it goes on: K30.7 from the CRC's place on (log 149). -/
def deadFrame (cmd hop : Nat) : List Nat := [256 + 0xFB, cmd, hop, 256 + 0xFE, 256 + 0xFE]

/-- The symbols `syms` leave on CVY_OUT. -/
def State.cvyOut (s : State) (syms : List Nat) : State := { s with cvy := { s.cvy with out := syms } }

/-- R453: the wake pattern: K28.5 and four data bytes. -/
def wakeSyms : List Nat := [256 + 0xBC, 0xA5, 0x5A, 0xC3, 0x3C]

/-- R454: this device sends a frame of its own: HOP is the position of the device that receives it. The head treats the
frame as received at position 0. R461: under the PRBS test no frame is sent; under the internal loopback a frame that is not the head's
comes back to the receiver (log 150). -/
def State.sendFrame (s : State) (cmd : Nat) : State :=
  let hop := s.rd CVY.STATUS_POS + 1
  if s.flag CVY.DIAG_PRBS_EN then s
  else if s.flag CVY.CFG_HEAD then (s.cvyOut (frameSyms cmd 1)).receiveFrame cmd 0
  else if s.flag CVY.DIAG_LOOP then (s.cvyOut (frameSyms cmd hop)).receiveFrame cmd hop
  else s.cvyOut (frameSyms cmd hop)

/-- R391: a trigger latches freeze with its cause, or counts as a further trigger; LOCKED (R391) and a running
transition (R383) ignore it. A running slice gives way (R496); with CVY_OUT set, a trigger other than the Convoy's sends
FREEZE. -/
def State.triggerFreeze (s : State) (cause cell : Nat) : State :=
  if s.rd LC.STATE_STATE = 7 ∨ s.rd LC.PROGRESS_PHASE ≠ 0 then s
  else if s.frozen then s.count DBG.FRZ_COUNT_RETRIG 1
  else
    let t := (s.abortSlice true).wrs
      [(DBG.FRZ_STATUS_ENTERING, 1), (DBG.FRZ_STATUS_CAUSE, cause), (DBG.FRZ_STATUS_CELL, cell)]
    if s.flag DBG.FRZ_CTRL_CVY_OUT && cause != 5 then t.sendFrame 5 else t

/-- R391: a breakpoint of lead `l` triggers freeze where both enables are set. -/
def State.breakFreeze (s : State) (l : Nat) : State :=
  if s.flag (SEQ.CFG_FRZ_BRK l) && s.flag DBG.FRZ_CTRL_BRK_EN then s.triggerFreeze 3 l else s

/-! ### Halts and void marks (R91 to R96) -/

/-- Halt causes (R74, R90). -/
abbrev cHalted : Nat := 0x01
abbrev cBreak : Nat := 0x02
abbrev cIllegal : Nat := 0x03
abbrev cBadInstr : Nat := 0x04
abbrev cStackOver : Nat := 0x05
abbrev cStackUnder : Nat := 0x06
abbrev cDiverge : Nat := 0x07
abbrev cMember : Nat := 0x08
abbrev cStopped : Nat := 0x09
abbrev cAddrBreak : Nat := 0x0A
abbrev cScLimit : Nat := 0x0B
abbrev cStepped : Nat := 0x0C
abbrev cStreamDry : Nat := 0x0D
abbrev cFetchEcc : Nat := 0x0E
abbrev cLockLost : Nat := 0x0F
abbrev cContained : Nat := 0x10

/-- R93: the rank of a cause, lowest first. -/
def causeRank (c : Nat) : Nat :=
  if c = cContained then 1 else if c = cLockLost then 2 else if c = cFetchEcc then 3
  else if 1 ≤ c ∧ c ≤ 7 then 4 else if c = cAddrBreak then 5 else if c = cScLimit then 6
  else if c = cStreamDry then 7 else if c = cStepped then 8 else if c = cStopped then 9 else 10

/-- The first of two causes in the order of R93. -/
def betterCause (a b : Nat) : Nat := if causeRank b < causeRank a then b else a

/-- R93: the cause that cell `c` records of the causes raised, MEMBER when it raised none. -/
def ownCause (causes : List (Nat × Nat)) (c : Nat) : Nat :=
  (causes.filter fun e => e.1 == c).foldl (fun a e => betterCause a e.2) cMember

/-- R93: the caravan's cause. -/
def topCause (causes : List (Nat × Nat)) : Nat := causes.foldl (fun a e => betterCause a e.2) cMember

/-- R93: the lowest-numbered cell that raised the caravan's cause. -/
def originOf (causes : List (Nat × Nat)) : Nat :=
  ((causes.filter fun e => causeRank e.2 == causeRank (topCause causes)).map (·.1)).foldl min 255

/-- R94: a void event of the caravan led by `l`; the first one names the cause, and the first CVC VOID the REASON. -/
def State.voidRun (s : State) (l cause reason : Nat) : State :=
  let s1 := s.count (SEQ.VOID_COUNT l) 1
  let s2 := if cause = 1 ∧ (s.flag (SEQ.VOID_VOID l) = false ∨ (s.run l).cvcVoided = false) then
      (s1.wr (SEQ.VOID_REASON l) reason).modRun l fun x => { x with cvcVoided := true }
    else s1
  if s.flag (SEQ.VOID_VOID l) then s2
  else (s2.wrs [(SEQ.VOID_VOID l, 1), (SEQ.VOID_FIRST l, cause)]).wrAll (s.members l) SEQ.STATUS_VOID 1

/-- R117: the caravan led by `l` withdraws its arrival at a barrier. -/
def State.withdraw (s : State) (l : Nat) : State :=
  match (s.run l).phase with
  | .atSync g _ _ _ true =>
    let r := regionOf l
    (s.wr (RGN.SGARR_ARRIVED r g) (clearBit (s.rd (RGN.SGARR_ARRIVED r g)) (l % 64))).modRegion r fun x =>
      { x with cvArrived := x.cvArrived.filter fun e => e ≠ (g, l) }
  | _ => s

/-! ### Edges of the lanes (R205, R209, R210) -/

/-- R174, R184: N + FRAC / 2^24 of the PLL that clocks block `b`, times 2^24, as its oscillator stands. -/
def State.multOf (s : State) (b : Nat) : Nat :=
  let p := s.gangSource b
  let m := (s.block p).rampMult
  if m = 0 then s.rd (PLL.ACT_CFG_N p) * 2 ^ 24 + s.rd (PLL.ACT_FRAC_FRAC p) else m

/-- R32: N_UI of cell `c`. -/
def State.nui (s : State) (c : Nat) : Nat := s.rd (SEQ.CFG_STRIDE_UI c)

/-- The time units in half a picosecond, for cell `c`: T_UI is then a whole number of units. -/
def State.unitDen (s : State) (c : Nat) : Nat := s.multOf (blockOf c) * s.nui c

/-- R209: order of time; at one instant the later UI, and within a UI the later kind, is applied later. -/
def Planned.before (a b : Planned) : Bool :=
  decide (a.time < b.time) || (a.time == b.time && (decide (a.ui < b.ui) || (a.ui == b.ui && decide (a.kind ≤ b.kind))))

/-- Insert an edge into a list in order. -/
def insertEdge (e : Planned) : List Planned → List Planned
  | [] => [e]
  | h :: t => if h.before e then h :: insertEdge e t else e :: h :: t

/-- What placing the edges of a lane gives: the placed edges, the driver's last level, the last edge's time, how many
were moved. -/
structure Placed where
  edges : List Edge
  level : Nat
  last : Option Int
  moved : Nat
  deriving DecidableEq, Repr

/-- R205, R209: edges in order; of edges at one instant the last one alone acts; a transition to the present level places
none; an edge less than 150 ps (300 half picoseconds) after the previous one is placed 150 ps after it. -/
def placeEdges (lane den : Nat) : List Planned → Placed → Placed
  | [], p => p
  | e :: t, p =>
    if (t.head?.any fun g => g.time == e.time) = true ∨ e.drv = p.level then placeEdges lane den t p
    else
      let lim := p.last.map (· + 300 * (den : Int))
      let near := lim.any fun z => decide (e.time < z)
      let at_ := if near then lim.getD e.time else e.time
      placeEdges lane den t
        { edges := p.edges ++ [⟨lane, at_, e.drv⟩], level := e.drv, last := some at_,
          moved := p.moved + b2n near }

/-- R142: the lane takes part in strides. -/
def State.laneLive (s : State) (c n : Nat) : Bool :=
  s.flag (PIN.CTRL_EN c n) && !s.flag (PIN.STATE_SAFE c n) && !bitOf (s.cell c).entering n &&
    s.rd (PIN.PMU_MODE c n) == 0

/-- R209: the edges of lane `n` that are still to be placed. -/
def CellX.planOf (x : CellX) (n : Nat) : List Planned := x.plan.filter fun e => e.lane == n

/-- What lane `n` drives once every edge commanded is placed. -/
def CellX.driven (x : CellX) (n : Nat) : Nat := ((x.planOf n).getLast?.map (·.drv)).getD (bits x.level (2 * n) 2)

/-- R206: the edge at which a lane whose driver may be on turns it off at the start of a stride; no skew applies to it (log 136). -/
def CellX.offEdge (x : CellX) (n : Nat) : List Planned :=
  if bits x.level (2 * n) 2 = 3 ∧ x.planOf n = [] then [] else [⟨n, 0, 0, 0, 3⟩]

/-- R209: `k` edges of cell `c` were moved. -/
def State.crowded (s : State) (c k : Nat) : State :=
  if k = 0 then s else (s.wr (TIM.STATUS_CROWD c) 1).count (TIM.CROWD_CNT_COUNT c) k

/-- R210: strides of cell `c` cease on a running clock: every edge commanded is placed. -/
def State.flushEdges (s : State) (c : Nat) : State :=
  let x := s.cell c
  let ls := (List.range 4).map fun n =>
    placeEdges n (s.unitDen c) (if s.laneLive c n then x.planOf n else []) ⟨[], bits x.level (2 * n) 2, x.lastEdge.getD n none, 0⟩
  (s.modCell c fun x =>
    { x with
      level := (List.range 4).foldl (fun v n => setField v (2 * n) 2 ((ls.map (·.level)).getD n 3)) x.level
      edges := ls.flatMap (·.edges), lastEdge := [], plan := [] }).crowded c (ls.map (·.moved)).sum

/-- R209: what lane `n` of cell `c` gives when the edges due before the next stride's start have been placed. -/
def State.placedNow (s : State) (c n : Nat) : Placed :=
  let x := s.cell c
  placeEdges n (s.unitDen c) ((x.planOf n).filter fun e => decide (e.time < 0))
    ⟨[], bits x.level (2 * n) 2, x.lastEdge.getD n none, 0⟩

/-- What the driver of lane `n` of cell `c` drives at the present stride boundary: 0, 1, or 3 for off. -/
def State.levelNow (s : State) (c n : Nat) : Nat := (s.placedNow c n).level

/-- R150: at the present stride boundary the driver of lane `n` of cell `c` has held its state for 2 ns (4,000 half picoseconds). -/
def State.heldNow (s : State) (c n : Nat) : Bool :=
  (s.placedNow c n).last.all fun z => decide (z + 4000 * (s.unitDen c : Int) ≤ 0)

/-- R210: the clock of cell `c` is gated at a stride boundary: the edges due before it are placed, those still to come are
discarded. -/
def State.dropEdges (s : State) (c : Nat) : State :=
  let ls := (List.range 4).map (s.placedNow c)
  (s.modCell c fun x =>
    { x with
      level := (List.range 4).foldl (fun v n => setField v (2 * n) 2 ((ls.map (·.level)).getD n 3)) x.level
      lastEdge := [], plan := [] }).crowded c (ls.map (·.moved)).sum

/-! ### Halts -/

/-- R365: the caravan led by `l` leaves HALTED; a seal of it that has not been written fails. -/
def State.leavesHalted (s : State) (l : Nat) : State :=
  { s with objor := { s.objor with sealRun := s.objor.sealRun.map fun x => { x with left := x.left || x.lead == l } } }

/-- R91, R93, R96: the caravan led by `l` halts with the causes raised (cell, cause); PC stands as the caller left it. -/
def State.haltCaravan (s : State) (l : Nat) (causes : List (Nat × Nat)) : State :=
  let ms := s.members l
  let s1 := ms.foldl State.flushEdges (s.withdraw l)
  let s2 := ms.foldl (fun t c =>
    let k := ownCause causes c
    let t1 := (t.wr (SEQ.STATUS_CAUSE c) k).modCell c fun x => { x with word := none }
    if k = cMember then t1 else t1.wr (SEQ.STATUS_HALT_PEND c) 1) s1
  let s3 := s2.wrs [(SEQ.STATUS_HALT_PEND l, 1), (SEQ.STATUS_CCAUSE l, topCause causes),
    (SEQ.STATUS_ORIGIN l, originOf causes)]
  let s4 := (s3.setCv l stHalted).wrAll ms SEQ.STATUS_STREAMING 0
  s4.modRun l fun x =>
    { x with
      phase := .ready, stepping := false, bondLeft := 0, convoyGo := false, convoyHalt := false,
      bondBroken := x.bondBroken || decide (0 < x.bondLeft) }

/-- R13: a refused command of a command interface with a REJECT and a LAST_REJECT register. -/
def State.reject (s : State) (cnt code status : Fld) (op st : Nat) : State :=
  (s.count cnt 1).wrs [(code, op), (status, st)]

/-- R36: the refused word of cell `c` is counted and recorded. -/
def State.rejectWord (s : State) (c w st : Nat) : State :=
  (s.reject (SEQ.REJECT_COUNT c) (SEQ.LAST_REJECT_CODE c) (SEQ.LAST_REJECT_STATUS c) (bits w 64 8) st).wr
    (SEQ.LAST_REJECT_SRC c) 0

/-- An ignored write of a cell's CEL or SEQ registers (R102). -/
def State.seqIgnored (s : State) (c : Nat) : State := s.wr (SEQ.STATUS_WR_IGN c) 1
/-- An ignored write of a cell's PIN registers. -/
def State.pinIgnored (s : State) (c : Nat) : State := s.wr (PIN.STATUS_WR_IGN c) 1
/-- An ignored write of a region's caravan registers. -/
def State.rgnIgnored (s : State) (r : Nat) : State := s.wr (RGN.CV_STATUS_WR_IGN r) 1
/-- An ignored write of a region's ledger registers. -/
def State.ldgIgnored (s : State) (r : Nat) : State := s.wr (LDG.STATUS_WR_IGN r) 1

/-! ### Execute-only windows (R40, R81) -/

/-- R40: the valid execute-only window of cell `c` that holds address `a`. -/
def State.xowOf (s : State) (c a : Nat) : Option Nat :=
  (List.range 4).find? fun n => s.flag (CEL.XOW_VALID c n) && decide (s.rd (CEL.XOW_BASE c n) ≤ a)
    && decide (a ≤ s.rd (CEL.XOW_LIMIT c n))

/-- Some execute-only window of cell `c` is valid. -/
def State.anyXow (s : State) (c : Nat) : Bool := (List.range 4).any fun n => s.flag (CEL.XOW_VALID c n)

/-- R81: address `a` lies in the ring half of cell `c` while the ring is enabled. -/
def State.inRing (s : State) (c a : Nat) : Bool := s.flag (SEQ.RING_EN c) && a / 4096 == s.rd (SEQ.RING_HALF c)

/-- R40: the privilege of the word that cell `c` fetches by PC from address `a`. -/
def State.privAt (s : State) (c a : Nat) : Priv × Nat :=
  match s.xowOf c a with
  | some n => (if s.flag (CEL.XOW_SYS c n) then .xoSys else .xo, s.rd (CEL.XOW_MSLOT c n))
  | none => (if s.flag (SEQ.CTRL_SERVICE c) then .service else .opn, 16)

/-- G register `n` of cell `c`. -/
def State.greg (s : State) (c n : Nat) : Nat := s.rd (SEQ.G_LO_LO c n) + 2 ^ 64 * s.rd (SEQ.G_HI_HI c n)
/-- Write G register `n` of cell `c`. -/
def State.setGreg (s : State) (c n v : Nat) : State :=
  s.wrs [(SEQ.G_LO_LO c n, v % 2 ^ 64), (SEQ.G_HI_HI c n, v / 2 ^ 64)]

end Sys2Proof.Machine
end

