-- ==== Sys2Proof/Machine/Steward.lean ====
section
/-! DEFINITION. The stewards' registers (R421, R423) and their physical memory protection (R421). What the RISC-V standard, not
spec/17, says of a register is PRESUMED (log 147). -/

namespace Sys2Proof.Machine

/-- Steward `w`. -/
def State.steward (s : State) (w : Nat) : Steward := Tab.get Steward.reset s.stewards w
/-- Change steward `w`. -/
def State.modSteward (s : State) (w : Nat) (f : Steward → Steward) : State :=
  { s with stewards := Tab.set Steward.reset s.stewards w (f (s.steward w)) }

/-- R423: register `n` of x0 to x31, in the bank in force. -/
def Steward.getX (x : Steward) (n : Nat) : Nat :=
  if n = 0 then 0 else if x.fastBank && decide (n < 16) then x.shadow.getD (n - 1) 0 else x.x.getD (n - 1) 0

/-- R423: register `n` of x0 to x31, in the bank in force, takes `v`. -/
def Steward.setX (x : Steward) (n v : Nat) : Steward :=
  if n = 0 then x
  else if x.fastBank && decide (n < 16) then { x with shadow := x.shadow.set (n - 1) (v % 2 ^ 64) }
  else { x with x := x.x.set (n - 1) (v % 2 ^ 64) }

/-! ### Physical memory protection (R421; 16 entries of the RISC-V standard, granularity 8 bytes) -/

/-- The address bits [55:2] of entry `i`. -/
def Steward.pmpAddr (x : Steward) (i : Nat) : Nat := x.pmpaddr.getD i 0
/-- The configuration byte of entry `i`: R, W, X, A in [4:3], L in [7]. -/
def Steward.pmpCfg (x : Steward) (i : Nat) : Nat := x.pmpcfg.getD i 0

/-- The bytes [lo, hi) that entry `i` covers: A = 1 up to its address, A = 3 a naturally aligned power of two. -/
def Steward.pmpRange (x : Steward) (i : Nat) : Option (Nat × Nat) :=
  match bits (x.pmpCfg i) 3 2 with
  | 1 => some (if i = 0 then 0 else 8 * (x.pmpAddr (i - 1) / 2), 8 * (x.pmpAddr i / 2))
  | 3 =>
    let k := ((List.range 54).find? fun j => !bitOf (x.pmpAddr i) j).getD 54
    let size := 2 ^ (k + 3)
    some (4 * x.pmpAddr i / size * size, 4 * x.pmpAddr i / size * size + size)
  | _ => none

/-- An access (`kind` 0 read, 1 write, 2 fetch) to the bytes `a` to `z` passes: the first entry that holds a byte of it decides;
machine mode passes an entry that is not locked, and an access that no entry holds. -/
def Steward.pmpPasses (x : Steward) (kind a z : Nat) : Bool :=
  match (List.range 16).findSome? fun i => (x.pmpRange i).bind fun e =>
      if a < e.2 ∧ e.1 ≤ z then some (i, e) else none with
  | none => x.machine
  | some (i, lo, hi) => decide (lo ≤ a) && decide (z < hi) && ((x.machine && !bitOf (x.pmpCfg i) 7) || bitOf (x.pmpCfg i) kind)

/-- R421: the access of master `m` is one that a steward's own protection stops. It does not leave the steward. -/
def State.pmpStops (s : State) (m kind a z : Nat) : Bool := decide (m < 4) && !(s.steward m).pmpPasses kind a z

/-- A write of byte `v` to the configuration of an entry. A locked entry keeps it; so does a write of a reserved setting (W without R) or of A = 2,
which the granularity excludes (PRESUMED, log 147). -/
def pmpCfgByte (old v : Nat) : Nat :=
  if bitOf old 7 || bits v 3 2 == 2 || (bitOf v 1 && !bitOf v 0) then old else Nat.land v 0x9F

/-- A write of `v` to the 8 configuration bytes from entry `i` up. -/
def Steward.writePmpCfg (x : Steward) (i v : Nat) : Steward :=
  { x with pmpcfg := (List.range 8).foldl (fun l k => l.set (i + k) (pmpCfgByte (l.getD (i + k) 0) (bits v (8 * k) 8))) x.pmpcfg }

/-- A write of `v` to the address of entry `i`, which a locked entry, or a locked range that ends at the next one, keeps. -/
def Steward.writePmpAddr (x : Steward) (i v : Nat) : Steward :=
  if bitOf (x.pmpCfg i) 7 || (bitOf (x.pmpCfg (i + 1)) 7 && bits (x.pmpCfg (i + 1)) 3 2 == 1) then x
  else { x with pmpaddr := x.pmpaddr.set i (v % 2 ^ 54) }

/-! ### Control and status registers (R421, R423) -/

/-- mstatus: MIE, MPIE, MPP; UXL reads 2. -/
def Steward.mstatus (x : Steward) : Nat := 8 * b2n x.mie + 128 * b2n x.mpie + 6144 * b2n x.mpp + 2 ^ 33

/-- The control and status register `a` of steward `w`, at level `lvl`; `fresh` is a free value that counters have counted on by. None
where no such register is. -/
def Steward.csr (x : Steward) (w lvl fresh a : Nat) : Option Nat :=
  if a = 0x300 then some x.mstatus
  else if a = 0x301 then some 0x8000000000101105
  else if a = 0x304 ∨ a = 0x344 ∨ a = 0x306 ∨ a = 0x320 ∨ (0xF11 ≤ a ∧ a < 0xF14) ∨ a = 0xF15 then some 0
  else if a = 0x305 then some x.mtvec
  else if a = 0x340 then some x.mscratch
  else if a = 0x341 then some x.mepc
  else if a = 0x342 then some x.mcause
  else if a = 0x343 then some x.mtval
  else if a = 0x3A0 ∨ a = 0x3A2 then some ((List.range 8).map fun k => 2 ^ (8 * k) * x.pmpCfg (4 * (a - 0x3A0) + k)).sum
  else if 0x3B0 ≤ a ∧ a < 0x3C0 then
    let v := x.pmpAddr (a - 0x3B0)
    some (if bitOf (x.pmpCfg (a - 0x3B0)) 4 then v else v / 2 * 2)
  else if a = 0xB00 then some ((x.mcycle + fresh) % 2 ^ 64)
  else if a = 0xB02 then some ((x.minstret + fresh) % 2 ^ 64)
  else if a = 0xF14 then some w
  else if a = 0x7C0 then some (x.evsrc + 2 ^ 63 * b2n x.evfast)
  else if a = 0x7C1 then some lvl
  else if a = 0x7C2 then some x.fepc
  else if a = 0x7C3 then some (x.flevel + 12 * b2n x.fmachine + 16 * b2n x.fmie)
  else none

/-- A write of `v` to the control and status register `a`. mie and mip stay zero; EVSRC and EVLVL, which tell what the event
controller has done, keep what they hold (DESIGN CHOICE, log 147). -/
def Steward.writeCsr (x : Steward) (a v : Nat) : Steward :=
  if a = 0x300 then { x with mie := bitOf v 3, mpie := bitOf v 7, mpp := if bits v 11 2 = 0 then false else if bits v 11 2 = 3 then true else x.mpp }
  else if a = 0x305 then { x with mtvec := if bits v 0 2 < 2 then v else v - bits v 0 2 + bits x.mtvec 0 2 }
  else if a = 0x340 then { x with mscratch := v }
  else if a = 0x341 then { x with mepc := v / 2 * 2 }
  else if a = 0x342 then { x with mcause := v }
  else if a = 0x343 then { x with mtval := v }
  else if a = 0x3A0 ∨ a = 0x3A2 then x.writePmpCfg (4 * (a - 0x3A0)) v
  else if 0x3B0 ≤ a ∧ a < 0x3C0 then x.writePmpAddr (a - 0x3B0) v
  else if a = 0xB00 then { x with mcycle := v }
  else if a = 0xB02 then { x with minstret := v }
  else if a = 0x7C2 then { x with fepc := v }
  else if a = 0x7C3 then { x with flevel := bits v 0 2, fmachine := bitOf v 2, fmie := bitOf v 4 }
  else x

end Sys2Proof.Machine
end

