-- ==== Sys2Proof/Machine/Access.lean ====
section
/-! DEFINITION. What an address names (spec/11, spec/12), and what stands between a command that accesses a register and the
register: the life-cycle state, the sleep state, the power of its domain. -/

namespace Sys2Proof.Machine

/-! ### Targets (R271, R272, R299, R303) -/

/-- What an address names. -/
inductive Target where
  | cellRegs (c : Nat) | blockRegs (b : Nat) | regionRegs (r : Nat) | chipRegs
  | pad (c : Nat) | depot (b : Nat) | accounts (r : Nat) | store | code | stewardMem | oasis | ddr (r : Nat) | home (r : Nat)
  | nowhere
  deriving DecidableEq, Repr

/-- The target of a device address (R271, R272, R535). -/
def targetOf (a : Nat) : Target :=
  if a < 0x1000000 then .chipRegs
  else if a < 0x2000000 then .blockRegs ((a - 0x1000000) / 0x80000)
  else if a < 0x3000000 then .cellRegs ((a - 0x2000000) / 0x10000)
  else if a < 0x3400000 then .regionRegs ((a - 0x3000000) / 0x100000)
  else if a < 0x4000000 then .chipRegs
  else if a < 0x10000000 then .nowhere
  else if a < 0x18000000 then .store
  else if a < 0x1C000000 then .code
  else if a < 0x20000000 then .nowhere
  else if a < 0x20400000 then .stewardMem
  else if a < 0x21000000 then .nowhere
  else if a < 0x21040000 then .oasis
  else if a < 0x40000000 then .nowhere
  else if a < 0x42000000 then .pad ((a - 0x40000000) / 0x20000)
  else if a < 0x44000000 then .nowhere
  else if a < 0x46000000 then .depot ((a - 0x44000000) / 0x100000)
  else if a < 0x48000000 then .nowhere
  else if a < 0x4A000000 then .accounts ((a - 0x48000000) / 0x800000)
  else if a < 0x1000000000 then .nowhere
  else if a < 0x11000000000 then .ddr ((a - 0x1000000000) / 0x4000000000)
  else .nowhere

/-- R3, R272: the target is register space. -/
def Target.isRegs : Target → Bool
  | .cellRegs _ => true
  | .blockRegs _ => true
  | .regionRegs _ => true
  | .chipRegs => true
  | _ => false

/-- R3, R300: bytes of address that a packet word spans: a slot of 16 in the word view, else 8. -/
def Target.slot : Target → Nat
  | .pad _ => 16
  | .depot _ => 16
  | .accounts _ => 16
  | .store => 16
  | .ddr _ => 16
  | .home _ => 16
  | _ => 8

/-- R314, R400: the block domain and the region domain of a target. -/
def Target.domains : Target → Option Nat × Option Nat
  | .pad c => (some (blockOf c), some (regionOf c))
  | .cellRegs c => (some (blockOf c), some (regionOf c))
  | .depot b => (some b, some (regionOfBlock b))
  | .blockRegs b => (some b, some (regionOfBlock b))
  | .ddr r => (none, some r)
  | .accounts r => (none, some r)
  | .regionRegs r => (none, some r)
  | .home r => (none, some r)
  | _ => (none, none)

/-- R315: the target's domain is off or revoked. -/
def State.domainOff (s : State) (t : Target) : Bool :=
  (t.domains.1.any fun b => !s.blockOn b || bitOf (s.rd NOC.REVOKE_BLK) b) ||
    (t.domains.2.any fun r => !s.regionOn r || bitOf (s.rd NOC.REVOKE_RGN) r)

/-- Two requests are the same, wherever their packets are. -/
def Req.same (a b : Req) : Bool := { a with hop := 0, tariff := 0 } == { b with hop := 0, tariff := 0 }

/-- R302, R315: the request waits at its interface. -/
def State.waits (s : State) (q : Req) : State :=
  if s.net.waiting.any q.same then s else { s with net := { s.net with waiting := s.net.waiting ++ [q] } }

/-- The request waits at its interface no longer. -/
def State.waitsNot (s : State) (q : Req) : State :=
  if s.net.waiting.any q.same then { s with net := { s.net with waiting := s.net.waiting.filter fun e => !q.same e } } else s

/-- R378, R383, R515: in LOCKED, and from the acceptance of a life-cycle transition to its reset, only some units are
served; `m` is the master and `t` what the address `a` names. -/
def State.lcOpen (s : State) (m : Nat) (t : Target) (a : Nat) : Bool :=
  let k := a / 0x100000
  let base := decide (a < 0x1000000) && (k == 1 || k == 2 || k == 9 || k == 10)
  if s.rd LC.PROGRESS_PHASE ≠ 0 then base
  else s.rd LC.STATE_STATE != 7 || base || (t == .chipRegs && a / 8 == 2) || ((m == 4 || m == 61) && t == .stewardMem)

/-! ### The end of IDLE, and accesses of registers -/

/-- R407: the pending request is cancelled. -/
def State.cancelSleep (s : State) : State :=
  if s.power.request.isNone then s
  else ({ s with power := { s.power with request := none } }).wrs [(PWR.SLEEP_PEND, 0), (PWR.SLEEP_STATUS_OUTCOME, 4),
    (PWR.SLEEP_STATUS_POINT, 0)]

/-- R407, R413: IDLE ends by an event for a steward or by a request that reaches the Trunk; that is a wake, which cancels a
pending sleep request. -/
def State.endIdle (s : State) : State :=
  if s.power.sleep = 1 then
    ((({ s with power := { s.power with sleep := 0 } }).wrs [(PWR.SLEEP_STATUS_OUTCOME, 1), (PWR.SLEEP_STATUS_POINT, 0)]).count
      PWR.IDLE_EXITS_COUNT 1).cancelSleep
  else s

/-- The access of master `m` to the register at `a`, as it waits at the interface (log 131). -/
def regReq (m a : Nat) : Req :=
  { init := m, tag := 256, subid := 0, kind := .wr, addr := a / 8 * 8, len := 1, bytes := 0, data := [], fetch := false }

/-- R315, R378, R406, R421: an access of master `m` to the register at `a`, a write (`k` 1) or a read (0), is served at once. -/
def State.regOpen (s : State) (m a : Nat) (k : Nat := 1) : Bool :=
  !s.pmpStops m k a (a + 7) && decide (s.power.sleep = 0) && s.lcOpen m (targetOf a) a && !s.domainOff (targetOf a) && !s.net.waiting.any (regReq m a).same

/-- R23, R315, R378, R400, R406, R413: master `m` accesses the register at `a`, and `act` is what the access does. An access that a
steward's own protection stops does not leave it (R421). IDLE ends with it. A unit
that is not served answers DENIED (4), a domain that is off DOMAIN_OFF (9), which counts in the toll of `m` (R309); in the
compatibility mode the access waits for the domain. In DOZE and DORMANT no access acts (log 131). -/
def State.atReg (s : State) (m a : Nat) (act : State → State) (k : Nat := 1) : State :=
  let t := s.endIdle
  if s.pmpStops m k a (a + 7) then { s with answer := [4] }
  else if !t.lcOpen m (targetOf a) a then { t with answer := [4] }
  else if 2 ≤ t.power.sleep then { t with answer := [9] }
  else if t.domainOff (targetOf a) then
    if t.flag PWR.CTRL_LEGACY_WAKE then t.waits (regReq m a) else { t.count (NOC.TOLL_D_DOMAIN_OFF m) 1 with answer := [9] }
  else act (t.waitsNot (regReq m a))

/-- An access that is served at once acts. -/
theorem State.atReg_open {s : State} {m a k : Nat} (act : State → State) (h : s.regOpen m a k = true) :
    s.atReg m a act k = act s := by
  simp only [State.regOpen, Bool.and_eq_true, decide_eq_true_eq, Bool.not_eq_true'] at h
  obtain ⟨⟨⟨⟨h0, h1⟩, h2⟩, h3⟩, h4⟩ := h
  simp [State.atReg, State.endIdle, State.waitsNot, h0, h1, h2, h3, h4]

end Sys2Proof.Machine
end

