-- ==== Sys2Proof/Machine/Apg.lean ====
section
/-! DEFINITION. The algorithmic pattern generator (spec/05): its state read from and written to its registers, the
address and data operations of a step, its outputs, and the steward's writes. -/

namespace Sys2Proof.Machine

/-- R111: LEADk of RGN.APG_OWN. -/
def apgLeadF (r k : Nat) : Fld := ⟨regionBase r + 0x1008, 8 * k, 6, 0⟩
/-- R111: Vk of RGN.APG_OWN. -/
def apgValidF (r k : Nat) : Fld := ⟨regionBase r + 0x1008, 8 * k + 7, 1, 0⟩
/-- R132: PERM[j] of block `b`. -/
def apgPermF (b j : Nat) : Fld := ⟨blockBase b + 0x10040 + 8 * (j / 8), 8 * (j % 8), 6, j⟩
/-- R132: XSEL[i] of block `b`. -/
def apgXselF (b i : Nat) : Fld := ⟨blockBase b + 0x10080 + 8 * (i / 8), 8 * (i % 8), 6, 62⟩

/-- R111: the lead of the caravan that holds the APG of block `b`. -/
def State.apgHolder (s : State) (b : Nat) : Option Nat :=
  let r := regionOfBlock b
  let l := 64 * r + s.rd (apgLeadF r (b % 8))
  if s.flag (apgValidF r (b % 8)) && s.isLead l && decide (blockOf l = b) then some l else none

/-- R48: the caravan led by `l` holds the APG of its lead's block. -/
def State.holdsApg (s : State) (l : Nat) : Bool := s.apgHolder (blockOf l) == some l

/-- R131: what the APG read of corrupt words for the caravan led by `l` is past: a new run, or a containment that halts it. -/
def State.apgClean (s : State) (l : Nat) : State :=
  s.modBlock (blockOf l) fun x =>
    { x with apgBad := x.apgBad.filter (· != l), apgSeen := x.apgSeen.filter (·.1 != l) }

/-- One generator: lower bound, present value, upper bound, width. -/
structure Gen where
  base : Nat
  idx : Nat
  lim : Nat
  w : Nat
  deriving DecidableEq, Repr

/-- The APG state that a step reads and writes (the table before R123). -/
structure ApgS where
  x : Gen
  y : Gen
  z : Gen
  sx : Nat
  sy : Nat
  sz : Nat
  bg : List Nat
  bgsel : Nat
  inv : Bool
  dptr : Gen
  tmask : Nat
  dmode : Bool
  afunc : Nat
  dw : Nat
  endSel : Nat
  xen : Bool
  cx : Nat
  cy : Nat
  cz : Nat
  wx : Bool
  wy : Bool
  wz : Bool
  wd : Bool
  fin : Bool
  phase : Bool
  deriving DecidableEq, Repr

/-- The APG state of block `b`. -/
def State.apg (s : State) (b : Nat) : ApgS :=
  { x := ⟨s.rd (APG.X_BASE_VALUE b), s.rd (APG.X_IDX_VALUE b), s.rd (APG.X_LIM_VALUE b), 20⟩,
    y := ⟨s.rd (APG.Y_BASE_VALUE b), s.rd (APG.Y_IDX_VALUE b), s.rd (APG.Y_LIM_VALUE b), 16⟩,
    z := ⟨s.rd (APG.Z_BASE_VALUE b), s.rd (APG.Z_IDX_VALUE b), s.rd (APG.Z_LIM_VALUE b), 6⟩,
    sx := s.rd (APG.X_SAVE_VALUE b), sy := s.rd (APG.Y_SAVE_VALUE b), sz := s.rd (APG.Z_SAVE_VALUE b),
    bg := (List.range 4).map fun n => s.rd (APG.BG_LO_VALUE b n) + 2 ^ 64 * s.rd (APG.BG_HI_VALUE b n),
    bgsel := s.rd (APG.DSTATE_BGSEL b), inv := s.flag (APG.DSTATE_INV b),
    dptr := ⟨s.rd (APG.DBASE_VALUE b), s.rd (APG.DPTR_VALUE b), s.rd (APG.DLIM_VALUE b), 16⟩,
    tmask := s.rd (APG.TMASK_VALUE b), dmode := s.flag (APG.CFG_DMODE b), afunc := s.rd (APG.CFG_AFUNC b),
    dw := s.rd (APG.CFG_DW b), endSel := s.rd (APG.CFG_END_SEL b), xen := s.flag (APG.CFG_XEN b),
    cx := s.rd (APG.CFG_CX b), cy := s.rd (APG.CFG_CY b), cz := s.rd (APG.CFG_CZ b),
    wx := s.flag (APG.STATUS_XW b), wy := s.flag (APG.STATUS_YW b), wz := s.flag (APG.STATUS_ZW b),
    wd := s.flag (APG.STATUS_DW b), fin := s.flag (APG.STATUS_END b), phase := s.flag (APG.STATUS_PHASE b) }

/-- Write back what a step can change. -/
def State.putApg (s : State) (b : Nat) (a : ApgS) : State :=
  ((List.range 4).foldl (fun t n =>
      t.wrs [(APG.BG_LO_VALUE b n, a.bg.getD n 0 % 2 ^ 64), (APG.BG_HI_VALUE b n, a.bg.getD n 0 / 2 ^ 64)]) s).wrs
    [(APG.X_IDX_VALUE b, a.x.idx), (APG.Y_IDX_VALUE b, a.y.idx), (APG.Z_IDX_VALUE b, a.z.idx),
     (APG.X_SAVE_VALUE b, a.sx), (APG.Y_SAVE_VALUE b, a.sy), (APG.Z_SAVE_VALUE b, a.sz),
     (APG.DSTATE_BGSEL b, a.bgsel), (APG.DSTATE_INV b, b2n a.inv), (APG.DPTR_VALUE b, a.dptr.idx),
     (APG.STATUS_XW b, b2n a.wx), (APG.STATUS_YW b, b2n a.wy), (APG.STATUS_ZW b, b2n a.wz),
     (APG.STATUS_DW b, b2n a.wd), (APG.STATUS_END b, b2n a.fin), (APG.STATUS_PHASE b, b2n a.phase)]

/-- R124: INC; the Boolean is the wrap. -/
def Gen.inc (g : Gen) : Gen × Bool :=
  if g.idx = g.lim then ({ g with idx := g.base }, true) else ({ g with idx := (g.idx + 1) % 2 ^ g.w }, false)
/-- R124: DEC; the Boolean is the wrap. -/
def Gen.dec (g : Gen) : Gen × Bool :=
  if g.idx = g.base then ({ g with idx := g.lim }, true)
  else ({ g with idx := (g.idx + 2 ^ g.w - 1) % 2 ^ g.w }, false)
/-- R124: INC or DEC. -/
def Gen.move (g : Gen) (up : Bool) : Gen × Bool := if up then g.inc else g.dec

/-- R125: the carry target of generator `g` (0 X, 1 Y, 2 Z); 3 for none. -/
def ApgS.carry (a : ApgS) (g : Nat) : Nat :=
  if g = 0 then (if a.cx = 1 then 1 else if a.cx = 2 then 2 else 3)
  else if g = 1 then (if a.cy = 1 then 0 else if a.cy = 2 then 2 else 3)
  else if a.cz = 1 then 0 else if a.cz = 2 then 1 else 3

/-- R124, R125: generator `g` steps and a wrap carries; a chain without a cycle visits at most three generators. -/
def ApgS.stepGen : Nat → ApgS → Nat → Bool → ApgS
  | 0, a, _, _ => a
  | k + 1, a, g, up =>
    if g = 0 then
      let (n, w) := a.x.move up
      if w then ApgS.stepGen k { a with x := n, wx := true } (a.carry 0) up else { a with x := n }
    else if g = 1 then
      let (n, w) := a.y.move up
      if w then ApgS.stepGen k { a with y := n, wy := true } (a.carry 1) up else { a with y := n }
    else if g = 2 then
      let (n, w) := a.z.move up
      if w then ApgS.stepGen k { a with z := n, wz := true } (a.carry 2) up else { a with z := n }
    else a

/-- R126: X and Y step together, no carry. -/
def ApgS.stepXY (a : ApgS) (up : Bool) : ApgS :=
  let (nx, wx) := a.x.move up
  let (ny, wy) := a.y.move up
  { a with x := nx, y := ny, wx := a.wx || wx, wy := a.wy || wy }

/-- R127: set the values of the three generators. -/
def ApgS.setIdx (a : ApgS) (x y z : Nat) : ApgS :=
  { a with x := { a.x with idx := x }, y := { a.y with idx := y }, z := { a.z with idx := z } }

/-- R134: the address operations. -/
def ApgS.addrOp (a : ApgS) (op : Nat) : ApgS :=
  match op with
  | 0x01 => a.stepGen 3 0 true
  | 0x02 => a.stepGen 3 0 false
  | 0x03 => a.stepGen 3 1 true
  | 0x04 => a.stepGen 3 1 false
  | 0x05 => a.stepGen 3 2 true
  | 0x06 => a.stepGen 3 2 false
  | 0x07 => a.stepXY true
  | 0x08 => a.stepXY false
  | 0x09 => a.setIdx a.x.base a.y.idx a.z.idx
  | 0x0A => a.setIdx a.x.lim a.y.idx a.z.idx
  | 0x0B => a.setIdx a.x.idx a.y.base a.z.idx
  | 0x0C => a.setIdx a.x.idx a.y.lim a.z.idx
  | 0x0D => a.setIdx a.x.idx a.y.idx a.z.base
  | 0x0E => a.setIdx a.x.idx a.y.idx a.z.lim
  | 0x0F => a.setIdx a.x.base a.y.base a.z.base
  | 0x10 => a.setIdx a.x.lim a.y.lim a.z.lim
  | 0x11 => { a with sx := a.x.idx, sy := a.y.idx, sz := a.z.idx }
  | 0x12 => { a.setIdx a.sx a.sy a.sz with sx := a.x.idx, sy := a.y.idx, sz := a.z.idx }
  | _ => a

/-- R130: rotate a 72-bit word left by one. -/
def rotl72 (v : Nat) : Nat := v * 2 % 2 ^ 72 + v / 2 ^ 71 % 2

/-- R130: the data operations. -/
def ApgS.dataOp (a : ApgS) (op : Nat) : ApgS :=
  match op with
  | 1 => { a with inv := !a.inv }
  | 2 => { a with bg := a.bg.set a.bgsel (rotl72 (a.bg.getD a.bgsel 0)) }
  | 3 => let (n, w) := a.dptr.inc; { a with dptr := n, wd := w }
  | 4 => { a with bgsel := (a.bgsel + 1) % 4 }
  | 5 => { a with inv := false }
  | 6 => { a with bgsel := 0, inv := false }
  | _ => a

/-- R134: a step code with no reserved field. -/
def stepOk (code : Nat) : Bool := decide (bits code 0 5 ≤ 0x12) && decide (bits code 5 3 ≤ 6)

/-- R136, R137: one step; code 0 leaves everything unchanged. The two operations act on disjoint parts of the state. -/
def ApgS.step (a : ApgS) (code : Nat) : ApgS :=
  if code = 0 then a
  else
    let c := ({ a with wx := false, wy := false, wz := false, wd := false }.addrOp (bits code 0 5)).dataOp (bits code 5 3)
    { c with
      phase := !a.phase
      fin := if c.endSel = 0 then c.wx else if c.endSel = 1 then c.wy else if c.endSel = 2 then c.wz else c.wd }

/-- R132: the logical address L. -/
def ApgS.logical (a : ApgS) : Nat := a.x.idx + 2 ^ 20 * a.y.idx + 2 ^ 36 * a.z.idx

/-- R128: parity of the low 42 bits. -/
def parity42 (v : Nat) : Bool := popCount v 42 % 2 == 1

/-- R128: TOPO. -/
def ApgS.topo (a : ApgS) : Bool := parity42 (Nat.land a.logical a.tmask)

/-- R129: the width of DIAGONAL. -/
def ApgS.diagW (a : ApgS) : Nat := if a.dw = 0 ∨ 16 < a.dw then 16 else a.dw

/-- R129: AFUNC. -/
def ApgS.afuncV (a : ApgS) : Bool :=
  let x := a.x.idx
  let y := a.y.idx
  match a.afunc with
  | 1 => bitOf x 0 != bitOf y 0
  | 2 => bitOf x 0
  | 3 => bitOf y 0
  | 4 => x % 2 ^ a.diagW == y % 2 ^ a.diagW
  | 5 => bitOf x 1 != bitOf y 1
  | 6 => bitOf x 1
  | 7 => bitOf y 1
  | _ => false

/-- R128: the data output, from the depot word that DPTR names in depot mode. -/
def ApgS.dataOut (a : ApgS) (depotWord : Nat) : Nat :=
  let v := if a.dmode then word72 depotWord else word72 (a.bg.getD a.bgsel 0)
  if (a.afuncV != a.topo) != a.inv then notW v 72 else v

/-- R132: one selected bit of the logical address. -/
def selBit (l v : Nat) : Bool := if v ≤ 41 then bitOf l v else v != 62

/-- The number whose bit `j` is `f j`, for j below n. -/
def fromBits (f : Nat → Bool) : Nat → Nat
  | 0 => 0
  | n + 1 => fromBits f n + (if f n then 2 ^ n else 0)

/-- R132, R133: the scrambled address of block `b`. -/
def State.scrambled (s : State) (b : Nat) (a : ApgS) : Nat :=
  let l := a.logical
  let p := fromBits (fun j => selBit l (s.rd (apgPermF b j))) 42
  let i := fromBits (fun k => selBit l (s.rd (apgXselF b k))) 12
  if a.xen then Nat.xor p (s.rd (APG.XTAB_MASK b i)) else p

/-- R138: the control bits. -/
def ApgS.control (a : ApgS) (i : Nat) : Bool :=
  match i with
  | 0 => a.fin
  | 1 => a.wx
  | 2 => a.wy
  | 3 => a.wz
  | 4 => a.inv
  | 5 => a.afuncV
  | 6 => a.topo
  | _ => a.phase

/-- The depot word address that DPTR of block `b` names (R128). -/
def State.dptrAddr (s : State) (b : Nat) : Nat := depotBase b + 16 * s.rd (APG.DPTR_VALUE b)

/-- R135, R137, R140: the APG of the caravan's lead block takes a step in the stride numbered `sn`. -/
def State.stepApg (s : State) (l code : Nat) : State :=
  if code = 0 then s
  else
    let b := blockOf l
    let a := (s.apg b).step code
    ((s.putApg b a).count (APG.STEPS_COUNT b) 1).modRun l fun x =>
      { x with ends := (x.ends.filter fun e => decide (x.sn < e.1)) ++ [(x.sn + 2, s.flag (APG.STATUS_END b))] }

/-- R123: the width of loadable register `n`; 0 where the index is unassigned. -/
def aregWidth (n : Nat) : Nat :=
  match n with
  | 0x00 => 20 | 0x01 => 20 | 0x02 => 20
  | 0x04 => 16 | 0x05 => 16 | 0x06 => 16
  | 0x08 => 6 | 0x09 => 6 | 0x0A => 6
  | 0x0C => 20 | 0x0D => 16 | 0x0E => 6
  | 0x10 => 72 | 0x11 => 72 | 0x12 => 72 | 0x13 => 72
  | 0x14 => 3 | 0x18 => 16 | 0x19 => 16 | 0x1A => 16 | 0x1C => 42 | 0x20 => 18
  | _ => 0

/-- R125: a CFG value whose carry fields hold no reserved value and form no cycle. -/
def cfgOk (v : Nat) : Bool :=
  let cx := bits v 12 2
  let cy := bits v 14 2
  let cz := bits v 16 2
  let tgt (g : Nat) : Nat := if g = 0 then (if cx = 1 then 1 else if cx = 2 then 2 else 3)
    else if g = 1 then (if cy = 1 then 0 else if cy = 2 then 2 else 3)
    else if g = 2 then (if cz = 1 then 0 else if cz = 2 then 1 else 3) else 3
  decide (cx < 3) && decide (cy < 3) && decide (cz < 3) &&
    (List.range 3).all fun g => tgt g != g && tgt (tgt g) != g && tgt (tgt (tgt g)) != g

/-- R123: the fields of loadable register `n` of block `b`, lowest bit of the value first, with their widths. -/
def aregFields (b n : Nat) : List Fld :=
  match n with
  | 0x14 => [APG.DSTATE_BGSEL b, APG.DSTATE_INV b]
  | 0x20 => [APG.CFG_DMODE b, APG.CFG_AFUNC b, APG.CFG_DW b, APG.CFG_END_SEL b, APG.CFG_XEN b, APG.CFG_CX b,
      APG.CFG_CY b, APG.CFG_CZ b]
  | 0x00 => [APG.X_BASE_VALUE b] | 0x01 => [APG.X_IDX_VALUE b] | 0x02 => [APG.X_LIM_VALUE b]
  | 0x04 => [APG.Y_BASE_VALUE b] | 0x05 => [APG.Y_IDX_VALUE b] | 0x06 => [APG.Y_LIM_VALUE b]
  | 0x08 => [APG.Z_BASE_VALUE b] | 0x09 => [APG.Z_IDX_VALUE b] | 0x0A => [APG.Z_LIM_VALUE b]
  | 0x0C => [APG.X_SAVE_VALUE b] | 0x0D => [APG.Y_SAVE_VALUE b] | 0x0E => [APG.Z_SAVE_VALUE b]
  | 0x10 => [APG.BG_LO_VALUE b 0, APG.BG_HI_VALUE b 0] | 0x11 => [APG.BG_LO_VALUE b 1, APG.BG_HI_VALUE b 1]
  | 0x12 => [APG.BG_LO_VALUE b 2, APG.BG_HI_VALUE b 2] | 0x13 => [APG.BG_LO_VALUE b 3, APG.BG_HI_VALUE b 3]
  | 0x18 => [APG.DPTR_VALUE b] | 0x19 => [APG.DBASE_VALUE b] | 0x1A => [APG.DLIM_VALUE b] | 0x1C => [APG.TMASK_VALUE b]
  | _ => []

/-- Write the low bits of a value into a list of fields, lowest first. -/
def State.spread (s : State) : List Fld → Nat → State
  | [], _ => s
  | f :: t, v => (s.wr f v).spread t (v / 2 ^ f.width)

/-- R65, R123: load register `n` of block `b` from the low bits of a word. -/
def State.loadAreg (s : State) (b n v : Nat) : State := s.spread (aregFields b n) (v % 2 ^ aregWidth n)

/-- R139, R125, R132: the steward writes the register at offset `off` of the APG window of block `b`, bits `mask`. -/
def apgWindowWrite (s : State) (b off mask value : Nat) : State :=
  let ignored := s.wr (APG.STATUS_WR_IGN b) 1
  if off = 0 then (if bitOf (Nat.land value mask) 0 then s.wr (APG.STATUS_WR_IGN b) 0 else s)
  else if (s.apgHolder b).any s.busy then ignored
  else
    let descs := APG.regTable b
    let hit := descs.find? fun d =>
      decide (0x10000 + off ≥ d.off) && decide ((0x10000 + off - d.off) / d.st0 < d.n0)
        && decide ((0x10000 + off - d.off) % d.st0 / d.st1 < d.n1) && (0x10000 + off - d.off) % d.st0 % d.st1 == 0
    match hit with
    | none => s
    | some d =>
      let fs := (d.fields ((0x10000 + off - d.off) / d.st0) ((0x10000 + off - d.off) % d.st0 / d.st1)).filter
        (fun f => f.ty == .rw)
      let newOf (f : Fld) : Nat := Nat.lor (Nat.land (s.rd f) (notW (bits mask f.lsb f.width) f.width))
        (Nat.land (bits value f.lsb f.width) (bits mask f.lsb f.width))
      let whole := (fs.map fun f => newOf f.fld * 2 ^ f.fld.lsb).sum
      let bad :=
        (off == 0x400 && !cfgOk whole) ||
        (decide (0x40 ≤ off ∧ off < 0x90) &&
          fs.any fun f => decide (41 < newOf f.fld ∧ newOf f.fld < 62))
      if bad then ignored else fs.foldl (fun t f => t.wr f.fld (newOf f.fld)) s

/-- APG_WRITE (R139): a steward write of the APG window of block `b`. -/
def execApgWrite (b off mask value : Nat) (s : State) : Host.Outcome State Fault Refusal :=
  .next (s.atReg 0 (blockBase b + 0x10000 + off) fun s => apgWindowWrite s b off mask value)

end Sys2Proof.Machine
end

