-- ==== Sys2Proof/Machine/Timing.lean ====
section
/-! DEFINITION. Edge timing and formats (spec/08): the unit interval, edge positions, the drive formats and the order
of the edges of a stride, with exact arithmetic: one half picosecond is `unitDen` units. -/

namespace Sys2Proof.Machine

/-- R32, R174: T_UI of cell `c` in units: 10 ns of the reference is 20,000 half picoseconds. -/
def State.tUi (s : State) (c : Nat) : Nat :=
  let p := s.gangSource (blockOf c)
  20000 * s.rd (PLL.ACT_CFG_SDIV p) * (s.rd (PLL.ACT_CFG_RDIV p) + 1) * 2 ^ 24

/-- R215: T_UI in half picoseconds, as TIM.UI shows it. -/
def State.tUiHalfPs (s : State) (c : Nat) : Nat :=
  if s.unitDen c = 0 then 0 else s.tUi c / s.unitDen c

/-- R215: the cells of block `b` show the unit interval of a running clock. -/
def State.showUi (s : State) (b : Nat) : State :=
  if s.clockRuns b then (blockCells b).foldl (fun t c => t.wr (TIM.UI_UI c) (t.tUiHalfPs c)) s else s

/-- R209, R211: the times of the edges of cell `c` still to come, in units of a stride in which half a picosecond has `den`
of them, are stated in the units of the present period. -/
def State.rescale (s : State) (c den : Nat) : State :=
  let new := s.unitDen c
  if new = den ∨ den = 0 then s
  else s.modCell c fun x =>
    { x with
      plan := x.plan.map fun e => { e with time := e.time * new / den }
      lastEdge := x.lastEdge.map fun o => o.map fun z => z * new / den }

/-- R110, R197: the powered blocks that the PLL of block `p` clocks. -/
def State.clocked (s : State) (p : Nat) : List Nat := (s.gangBlocks p).filter fun k => s.gangSource k == p && s.blockOn k

/-- R184, R211: the oscillator of block `p`'s PLL stands at the multiplier `m` (0: at the configuration in force); planned
edges keep their times, and TIM.UI follows. -/
def State.setMult (s : State) (p m : Nat) : State :=
  let cs := (s.clocked p).flatMap blockCells
  let t := s.modBlock p fun x => { x with rampMult := m }
  (s.clocked p).foldl State.showUi (cs.foldl (fun u c => u.rescale c (s.unitDen c)) t)

/-- R184: a stride of the caravan led by `l` begins: while a STEP ramps, its period lies between the last one and the target
(a free value between them). -/
def State.rampStride (s : State) (l : Nat) : State :=
  let p := s.gangSource (blockOf l)
  let now := (s.block p).rampMult
  if now = 0 then s
  else
    let target := s.rd (PLL.ACT_CFG_N p) * 2 ^ 24 + s.rd (PLL.ACT_FRAC_FRAC p)
    let free := s.freeVal 64
    s.drawn.setMult p (if now ≤ target then now + free % (target - now + 1) else now - free % (now - target + 1))

/-- R199, R200: the position of an edge field in a UI of `t` units with `den` units to half a picosecond, and whether
it was clipped; none when the edge is disabled. -/
def edgePos (field t den : Nat) : Option (Nat × Bool) :=
  let coarse := bits field 19 2
  if coarse = 3 then none
  else
    let p := coarse * t + bits field 0 19 * den
    if 2 * t < p then some (2 * t, true) else some (p, false)

/-- R212: DSK + OFS in half picoseconds, limited to 10,000 ps, and whether it was. -/
def skew (dsk ofs : Nat) : Int × Bool :=
  let z := sext dsk 16 + sext ofs 16
  if z < -20000 then (-20000, true) else if 20000 < z then (20000, true) else (z, false)

/-- R212: DSK_D + OFS_D of lane `n` of cell `c`. -/
def State.driveSkew (s : State) (c n : Nat) : Int × Bool :=
  skew (bits (s.rd (PIN.TRIM_WORD c n 7)) 32 16) (s.rd (TIM.OFS_DRV c n))
/-- R212: DSK_C + OFS_C of lane `n` of cell `c`. -/
def State.compareSkew (s : State) (c n : Nat) : Int × Bool :=
  skew (bits (s.rd (PIN.TRIM_WORD c n 7)) 48 16) (s.rd (TIM.OFS_CMP c n))

/-- R201: fields of a slot. -/
structure Slot where
  d0 : Nat
  d1 : Nat
  dz : Nat
  c0 : Nat
  c1 : Nat
  fmts : Nat
  cmodes : Nat
  deriving DecidableEq, Repr

/-- Slot `k` of cell `c`, as strides use it. -/
def State.slot (s : State) (c k : Nat) : Slot :=
  let w0 := s.rd (TIM.SLOT_W0_WORD c k)
  let w1 := s.rd (TIM.SLOT_W1_WORD c k)
  { d0 := bits w0 0 21, d1 := bits w0 21 21, dz := bits w0 42 21, c0 := bits w1 0 21, c1 := bits w1 21 21,
    fmts := bits w1 42 12, cmodes := bits w1 54 4 }

/-- R205: what a drive format does in one UI for the resolved state `b` (0, 1, or 3 for off): edge kind (0 DZ, 1 D0,
2 D1) and the state it drives. Reserved formats act as NRZ (R202). -/
def formatEdges (fmt b : Nat) : List (Nat × Nat) :=
  if b = 3 then [(0, 3)]
  else match fmt with
    | 1 => [(1, b), (2, 0)]
    | 2 => [(1, b), (2, 1)]
    | 3 => [(0, 1 - b), (1, b), (2, 1 - b)]
    | 4 => if b = 1 then [(1, 1)] else [(2, 0)]
    | _ => [(1, b)]

/-- The drive edges that lane `n` of a cell plans in a stride: `states` gives the resolved state of each UI. A clipped edge counts
though the driver may have its level already (R200, log 138). -/
def planEdges (n : Nat) (sl : Slot) (fmt t den nui : Nat) (off : Int) (states : Nat → Nat) : List Planned × Bool :=
  (List.range nui).foldl (fun acc u =>
    (formatEdges fmt (states u)).foldl (fun acc e =>
      let field := if e.1 = 0 then sl.dz else if e.1 = 1 then sl.d0 else sl.d1
      match edgePos field t den with
      | none => acc
      | some (p, clipped) =>
        (acc.1 ++ [⟨n, (u * t + p : Nat) + off * (den : Int), u, e.1, e.2⟩], acc.2 || clipped)) acc) ([], false)

/-- R209, R212, R213: half picoseconds before the start of a stride at which its earliest edge can fall, whatever skew the lane
has by then. -/
def edgeReach : Nat := 20000

/-- R209, R210: what lane `n` of cell `c` places when `t` units pass that begin with a stride commanding the edges `new`:
every edge due before an edge of a later stride can be, and the edges still to come. -/
def State.advanceLane (s : State) (c n t : Nat) (new : List Planned) : Placed × List Planned :=
  let x := s.cell c
  let den := s.unitDen c
  let all := if s.laneLive c n then
      (new.foldl (fun q e => insertEdge e q) (x.planOf n)).map fun e => { e with time := e.time - t, ui := e.ui - s.nui c }
    else []
  let till : Int := -((edgeReach * den : Nat) : Int)
  (placeEdges n den (all.filter fun e => decide (e.time < till))
    ⟨[], bits x.level (2 * n) 2, (x.lastEdge.getD n none).map (· - (t : Int)), 0⟩, all.filter fun e => decide (till ≤ e.time))

/-- R209, R210: `t` units pass in cell `c` that begin with a stride commanding the edges that `new` gives its lanes. -/
def State.advance (s : State) (c t : Nat) (new : Nat → List Planned) : State :=
  let ls := (List.range 4).map fun n => s.advanceLane c n t (new n)
  (s.modCell c fun x =>
    { x with
      level := (List.range 4).foldl (fun v n => setField v (2 * n) 2 ((ls.map (·.1.level)).getD n 3)) x.level
      edges := ls.flatMap (·.1.edges)
      lastEdge := ls.map fun q => q.1.last.bind fun z => if z < -(((edgeReach + 300) * s.unitDen c : Nat) : Int) then none else some z
      plan := ls.flatMap (·.2)
      modes := s.rd (SEQ.LMODE_LMODE c) }).crowded c (ls.map (·.1.moved)).sum

/-- R208: a compare UI is judged at all only with C0 enabled. -/
def Slot.compares (sl : Slot) : Bool := bits sl.c0 19 2 != 3

/-- R208: a lane in window mode is judged from C0 to C1 only when C1 is enabled and later than C0. -/
def Slot.opens (sl : Slot) (t den : Nat) (window : Bool) : Bool :=
  match edgePos sl.c0 t den, edgePos sl.c1 t den with
  | some a, some z => window && decide (a.1 < z.1)
  | _, _ => false

/-- R208, R212: the times of the compare edges of UI `u`, from the start of the stride in units, for UIs of `t` units and a
skew of `off` half picoseconds: the strobe or the opening of the window, and its last instant. None when nothing is
compared. -/
def Slot.compareTimes (sl : Slot) (t den : Nat) (window : Bool) (off : Int) (u : Nat) : Option (Int × Int) :=
  (edgePos sl.c0 t den).map fun a =>
    let at_ (p : Nat) : Int := ((u * t + p : Nat) : Int) + off * (den : Int)
    (at_ a.1, if sl.opens t den window then at_ (((edgePos sl.c1 t den).map (·.1)).getD a.1) else at_ a.1)

/-- R210: the strides of `nui` UIs of `t` units, from the start of its own, until the last compare edge of UI `u` has
passed. -/
def Slot.dueAfter (sl : Slot) (t den nui : Nat) (window : Bool) (off : Int) (u : Nat) : Nat :=
  match sl.compareTimes t den window off u with
  | none => 0
  | some (_, z) => if t * nui = 0 then 0 else min 15 ((z.toNat + t * nui - 1) / (t * nui))

/-- R200: C0 or C1 is clipped in UIs of `t` units. -/
def Slot.compareClips (sl : Slot) (t den : Nat) (window : Bool) : Bool :=
  ((edgePos sl.c0 t den).any (·.2)) || (window && (edgePos sl.c1 t den).any (·.2))

/-! ### Drive check (R150 to R152) -/

/-- R151: the swing of a lane is large enough for drive check. -/
def State.dchkActive (s : State) (c n : Nat) : Bool :=
  let m := s.rd (PIN.CTRL_LSEL c n)
  let h := s.rd (PIN.LSA_VIH c n m)
  let l := s.rd (PIN.LSA_VIL c n m)
  decide (2000 ≤ (h - l) + (l - h))

/-- R151: the pin, in level codes, is off the level that the lane drives. -/
def State.dchkMiss (s : State) (c n : Nat) (pin : Int) : Bool :=
  let m := s.rd (PIN.CTRL_LSEL c n)
  let h : Int := s.rd (PIN.LSA_VIH c n m)
  let l : Int := s.rd (PIN.LSA_VIL c n m)
  if s.levelNow c n = 1 then decide (4 * pin < 3 * l + h) else decide (3 * h + l < 4 * pin)

/-- R150, R151: an evaluation of lane `n` is made; `held` says that its driver has held its state for 2 ns. -/
def State.dchkMade (s : State) (c n : Nat) (held : Bool) : Bool :=
  s.flag (PIN.CTRL_EN c n) && !s.flag (PIN.STATE_SAFE c n) && !bitOf (s.cell c).entering n && s.rd (PIN.PMU_MODE c n) == 0 &&
    decide (s.levelNow c n ≤ 1) && held && s.dchkActive c n && !s.sliceLane c n

/-- R150 to R152: one evaluation of lane `n`, whose pin is at `pin`. -/
def State.driveCheck (s : State) (c n : Nat) (held : Bool) (pin : Int) : State :=
  if !s.dchkMade c n held then s
  else if !s.dchkMiss c n pin then s.wr (PIN.DCHK_RUN c n) 0
  else
    let s1 := (s.count (PIN.DCHK_MISMATCH c n) 1).count (PIN.DCHK_RUN c n) 1
    if s1.rd (PIN.DCHK_RUN c n) < max 1 (s.rd (PIN.DCHK_CFG_N c)) then s1
    else ((s1.wr (PIN.DCHK_TRIP c n) 1).enterSafe c n 3).report 0x02 c

/-- R150: the evaluation of lane `n` of cell `c` at a stride boundary. `pins` gives the levels, in level codes, of the pins
4c + n; that of a pin which it leaves out is free (log 6). -/
def State.checkLane (s : State) (pins : List (Nat × Int)) (c n : Nat) : State :=
  if !s.dchkMade c n (s.heldNow c n) then s
  else match pins.find? fun e => e.1 == 4 * c + n with
    | some e => s.driveCheck c n true e.2
    | none => s.drawn.driveCheck c n true ((s.freeVal 18 : Int) - 131072)

/-- R150: a stride boundary is an evaluation instant of every lane of the cells `cs`. -/
def State.boundaryCheck (s : State) (cs : List Nat) (pins : List (Nat × Int)) : State :=
  cs.foldl (fun t c => (List.range 4).foldl (fun u n => u.checkLane pins c n) t) s

end Sys2Proof.Machine
end

