-- ==== Sys2Proof/Machine/Operands.lean ====
section
/-! DEFINITION. The operand forms of Bilcy words (spec/02): classes, opcodes, the fields each opcode names, the
resolution of lane states from the payload, the Pin Source Map, the APG, the fabric queue and the bonded stream. -/

namespace Sys2Proof.Machine

/-- The class group of a word (R38): vector, CTL or SYS. -/
inductive Group where
  | vector | ctl | sys
  deriving DecidableEq, Repr

/-- Bits [71:70]. -/
def wClass (w : Nat) : Nat := bits w 70 2
/-- Bits [69:64]. -/
def wOp (w : Nat) : Nat := bits w 64 6
/-- The class group of a word. -/
def wGroup (w : Nat) : Group := if wClass w ≤ 1 then .vector else if wClass w = 2 then .ctl else .sys
/-- A word is a vector word. -/
def isVector (w : Nat) : Bool := decide (wClass w ≤ 1)
/-- A word is the CTL word with opcode `op`. -/
def isCtl (w op : Nat) : Bool := wClass w == 2 && wOp w == op
/-- A word is the SYS word with operation `op`. -/
def isSys (w op : Nat) : Bool := wClass w == 3 && wOp w == op

/-- TSEL. -/
def wTsel (w : Nat) : Nat := bits w 67 3
/-- LE. -/
def wLe (w : Nat) : Bool := bitOf w 66
/-- FC. -/
def wFc (w : Nat) : Bool := bitOf w 65
/-- MF. -/
def wMf (w : Nat) : Bool := bitOf w 64
/-- PSET of a VEX. -/
def wPset (w : Nat) : Nat := bits w 61 3
/-- STEP of a VEX. -/
def wStep (w : Nat) : Nat := bits w 53 8

/-- The scope of a CTL or SYS word whose lead's operands decide (R37). -/
def caravanScoped (w : Nat) : Bool :=
  if wClass w = 2 then (decide (1 ≤ wOp w ∧ wOp w ≤ 0x0A)) || (decide (0x0D ≤ wOp w ∧ wOp w ≤ 0x10))
  else if wClass w = 3 then wOp w == 0x00 || wOp w == 0x03 else false

/-- The operand bits that a CTL opcode names; other bits of [63:0] are reserved. -/
def ctlMask (op : Nat) : Nat :=
  match op with
  | 0x00 => 0
  | 0x01 => 0xFF
  | 0x02 => 0x1FFF
  | 0x03 => 0x3F1FFF
  | 0x04 => 0x1FFF
  | 0x05 => 0
  | 0x06 => 0xFFFFFFFF00000003
  | 0x07 => 0x1FFFFFFFF
  | 0x08 => 0xFFFFFFFFF
  | 0x09 => 0x7FF
  | 0x0A => 0x3F71FF
  | 0x0B => 0x3FF
  | 0x0C => 0x873F873F873F873F
  | 0x0D => 0xFFFF
  | 0x0E => 0x7FFFFFFFFFF
  | 0x0F => 0xFFFF0003
  | 0x10 => 0xFFFFFFFFF
  | 0x28 => 0xFFFFFFFFF000000F
  | _ => if 0x20 ≤ op ∧ op ≤ 0x27 then 0xFFFFFFFF000003FF else 0

/-- A CTL opcode is assigned. -/
def ctlAssigned (op : Nat) : Bool := decide (op ≤ 0x10) || decide (0x20 ≤ op ∧ op ≤ 0x28)

/-- The operand bits that a SYS operation names. -/
def sysMask (op : Nat) : Nat :=
  match op with
  | 0x00 => 0xFF
  | 0x01 => 0x73F1FFF
  | 0x02 => 0x33
  | 0x03 => 0xFFF03
  | _ => 0

/-- A reserved operand bit is set. -/
def reservedSet (w mask : Nat) : Bool := Nat.land (bits w 0 64) (notW mask 64) != 0

/-- R65: the APG word's own rules; `g` is the value of its G register in the lead. -/
def apgWordBad (w g : Nat) : Bool :=
  !stepOk (bits w 0 8) ||
  (if bitOf w 8 then aregWidth (bits w 16 6) == 0 || (bits w 16 6 == 0x20 && !cfgOk (g % 2 ^ 18))
   else bits w 12 3 != 0 || bits w 16 6 != 0)

/-- R34: a word that its own bits make malformed; `lead` says whether the lead's operands are judged (R37), the reserved bits of a
caravan-scoped word among them (log 140). A reserved step
code makes a CTL APG malformed in whichever member it appears (R134). -/
def malformed (w g : Nat) (lead : Bool) : Bool :=
  if wClass w = 2 then
    let op := wOp w
    if !ctlAssigned op then true
    else if caravanScoped w && !lead then op == 0x0A && !stepOk (bits w 0 8)
    else
      reservedSet w (ctlMask op) ||
      (match op with
       | 0x03 => decide (0x10 ≤ bits w 16 5)
       | 0x06 => bits w 0 2 == 3 || (bits w 0 2 != 0 && bits w 32 32 != 0)
       | 0x08 => decide (6 ≤ bits w 32 4)
       | 0x0A => apgWordBad w g
       | 0x0E => bits w 0 40 == 0
       | 0x27 => bits w 0 3 != 0 || (bitOf w 9 && bits w 6 3 != 0)
       | _ => decide (0x20 ≤ op ∧ op ≤ 0x26) && bitOf w 9 && bits w 6 3 != 0)
  else if wClass w = 3 then
    let op := wOp w
    if 4 ≤ op then true
    else if caravanScoped w && !lead then false
    else
      reservedSet w (sysMask op) ||
      (match op with
       | 0x01 => decide (64 < bits w 16 6 + bits w 24 3 + 1)
       | 0x02 => decide (2 ≤ bits w 0 2)
       | 0x03 => decide (2 ≤ bits w 0 2)
       | _ => false)
  else false

/-! ### Pin Source Map (R46, R47) -/

/-- Entry `e` of set `set` of cell `c`. -/
def State.psmEntry (s : State) (c set e : Nat) : Nat := bits (s.rd (SEQ.PSM_ENTRIES c (8 * set + e / 4))) (16 * (e % 4)) 16

/-- A reserved source number. -/
def srcReserved (v : Nat) : Bool :=
  decide (3 ≤ v ∧ v ≤ 7) || decide (0x5A ≤ v ∧ v ≤ 0x5F) || decide (0xA8 ≤ v)
/-- A fabric source. -/
def srcFabric (v : Nat) : Bool := decide (0x10 ≤ v ∧ v ≤ 0x2F)
/-- An APG source. -/
def srcApg (v : Nat) : Bool := decide (8 ≤ v ∧ v ≤ 0x0F) || decide (0x30 ≤ v ∧ v ≤ 0x59) || decide (0x60 ≤ v ∧ v ≤ 0xA7)

/-- The entries of a set that a stride of `nui` UIs uses, in ascending e, as (e, entry). -/
def State.usedEntries (s : State) (c set nui : Nat) : List (Nat × Nat) :=
  ((List.range 32).filter fun e => decide (e % 8 < nui)).map fun e => (e, s.psmEntry c set e)

/-- R46, R134: a VEX that is BAD_INSTR. -/
def State.vexBad (s : State) (c w : Nat) : Bool :=
  bitOf w 52 || !stepOk (wStep w) ||
  (s.usedEntries c (wPset w) (s.nui c)).any fun e => bits e.2 9 7 != 0 || srcReserved (bits e.2 0 8)

/-- R48: a VEX that needs the caravan's APG. -/
def State.vexNeedsApg (s : State) (c w : Nat) : Bool :=
  wStep w != 0 || (s.usedEntries c (wPset w) (s.nui c)).any fun e => srcApg (bits e.2 0 8)

/-- R131: a VEX that takes APG data. -/
def State.vexData (s : State) (c w : Nat) : Bool :=
  (s.usedEntries c (wPset w) (s.nui c)).any fun e => decide (0x60 ≤ bits e.2 0 8 ∧ bits e.2 0 8 ≤ 0xA7)

/-- R49: a VEX that takes a fabric word. -/
def State.vexFabric (s : State) (c w : Nat) : Bool :=
  (s.usedEntries c (wPset w) (s.nui c)).any fun e => srcFabric (bits e.2 0 8)

/-- What the APG of a caravan puts out before the word's step (R48). -/
structure ApgOut where
  ctl : Nat
  addr : Nat
  data : Nat
  bad : Bool
  deriving DecidableEq, Repr

/-- The outputs of the APG of block `b`. A depot word that has been written since is used as it stands now (R131, log 106). -/
def State.apgOut (s : State) (b : Nat) : ApgOut :=
  let a := s.apg b
  { ctl := fromBits a.control 8, addr := s.scrambled b a, data := a.dataOut (s.readWord (s.dptrAddr b)),
    bad := (s.apgHolder b).any (s.block b).apgBad.contains }

/-- R46, R49, R131: the code of a sourced lane; `fab` is the queue's word, none when the queue is empty. -/
def sourceCode (o : ApgOut) (fab : Option Nat) (entry : Nat) : Nat :=
  let src := bits entry 0 8
  let b : Option Bool :=
    if src = 1 then some false
    else if src = 2 then some true
    else if src ≤ 0x0F then some (bitOf o.ctl (src - 8))
    else if src ≤ 0x2F then fab.map (bitOf · (src - 0x10))
    else if src ≤ 0x59 then some (bitOf o.addr (src - 0x30))
    else if o.bad then none else some (bitOf o.data (src - 0x60))
  match b with
  | none => 2
  | some v => b2n (v != bitOf entry 8)

/-- R46, R47: the payload that a VEX gives, in the layout of a VEC payload; `k` counts literals. -/
def vexPayload (o : ApgOut) (fab : Option Nat) (lit : Nat) : List (Nat × Nat) → Nat → Nat → Nat
  | [], _, acc => acc
  | (e, entry) :: t, k, acc =>
    if bits entry 0 8 = 0 then
      vexPayload o fab lit t (k + 1) (acc + (if k ≤ 25 then bits lit (2 * k) 2 else 2) * 4 ^ e)
    else vexPayload o fab lit t k (acc + sourceCode o fab entry * 4 ^ e)

/-- The code of lane `l`, UI `u` in a payload: position e = 8L + u. -/
def laneCode (p l u : Nat) : Nat := bits p (16 * l + 2 * u) 2

/-- The payload of cell `c`'s vector word (R41, R46). -/
def State.payloadOf (s : State) (c w : Nat) (o : ApgOut) : Nat :=
  if wClass w = 0 then bits w 0 64
  else vexPayload o ((s.cell c).laneQ.head?) (bits w 0 52) (s.usedEntries c (wPset w) (s.nui c)) 0 0

/-- R71: the bonded session of the caravan led by `l`. -/
def State.bondOf (s : State) (l : Nat) : Option BondSession := s.bonds.find? fun x => x.lead == l

/-- R71: the payload with the bonded lanes taken from the session's bits, UI by UI, lanes ascending. -/
def bondPayload (data nui lanes off p : Nat) : Nat :=
  ((List.range nui).flatMap fun u => (onesBelow lanes 4).map fun l => (l, u)).foldl
    (fun acc lu => (setField acc.1 (16 * lu.1 + 2 * lu.2) 2 (b2n (bitOf data acc.2)), acc.2 + 1)) (p, off) |>.1

/-- Resolve the drive states of a lane over the UIs of a stride from its retained state (R42): the state of each UI,
and the retained state after the stride. -/
def resolveDrive (p l : Nat) : List Nat → Nat → List Nat × Nat
  | [], ret => ([], ret)
  | u :: t, ret =>
    let k := laneCode p l u
    let st := if k = 2 then ret else k
    let r := resolveDrive p l t st
    (st :: r.1, r.2)

end Sys2Proof.Machine
end

