-- ==== Sys2Proof/Machine/Flags.lean ====
section
/-! DEFINITION. The flags and conditions of spec/02: fail bits, FAIL and FAILS, the caravan's aggregates, the ALU's
comparison flags, and what a JCC or a WAIT reads. -/

namespace Sys2Proof.Machine

/-- R41, R147: a compare code met by what the two comparators showed: bit 0 of `obs` says that the pin was below VOL, bit 1 that it
was above VOH. With VOL above VOH a pin can be both. Expect low (0) asks for the first, expect high (1) for the second,
mid-band (3) for neither. -/
def expectMet (code obs : Nat) : Bool :=
  if code = 0 then bitOf obs 0 else if code = 1 then bitOf obs 1 else if code = 3 then obs % 4 == 0 else true

/-- R208: the expectation was met at every instant of a window; bit k of `seen` says that the comparators showed k, as
`expectMet` reads it, at some instant. -/
def windowMet (code seen : Nat) : Bool := (List.range 4).all fun k => !bitOf seen k || expectMet code k

/-- R208: UI `i` = 8L + u passes. `obs` holds for it what the comparators showed at C0, two bits at 2i, and what they showed from C0
to C1, four bits at 64 + 4i. -/
def uiPasses (expect windows obs i : Nat) : Bool :=
  expectMet (bits expect (2 * i) 2) (bits obs (2 * i) 2) &&
    (!bitOf windows i || windowMet (bits expect (2 * i) 2) (bits obs (64 + 4 * i) 4))

/-- R44, R208: the fail bits of a cell's stride from the codes, the UIs judged over a window and the observations. -/
def failBits (expect windows obs : Nat) : Nat := fromBits (fun i => !uiPasses expect windows obs i) 32

/-- R51: the stride has an unmasked compare. -/
def hasCompare (expect : Nat) : Bool := (List.range 32).any fun i => bits expect (2 * i) 2 != 2

/-- R51: an unmasked compare passed. -/
def anyPass (expect windows obs : Nat) : Bool :=
  (List.range 32).any fun i => bits expect (2 * i) 2 != 2 && uiPasses expect windows obs i

/-- The fail bits of the lanes in `lanes`. -/
def laneBits (lanes : Nat) : Nat := fromBits (fun i => bitOf lanes (i / 8)) 32

/-- R51: one member's part in the caravan's aggregates. -/
structure MemberResult where
  f : Bool
  compares : Bool
  passAny : Bool
  deriving DecidableEq, Repr

/-- R51: FAIL_ANY, FAIL_ALL, MATCH_ALL, MATCH_ANY. -/
def failAny (ms : List MemberResult) : Bool := ms.any (·.f)
def failAll (ms : List MemberResult) : Bool := (ms.any (·.compares)) && ms.all fun m => !m.compares || m.f
def matchAll (ms : List MemberResult) : Bool := ms.all fun m => !m.f
def matchAny (ms : List MemberResult) : Bool := ms.any (·.passAny)

/-- R52: the last outcome at or before stride `t`. -/
def lastOutcome (h : List Outcome) (t : Int) : Option Outcome := h.find? fun o => decide ((o.sn : Int) ≤ t)

/-- R53: END as a JCC at stride `t` sees it, where `now` is END as the last step left it. -/
def endSeen (h : List (Nat × Bool)) (now : Bool) (t : Nat) : Bool := ((h.find? fun e => decide (t < e.1)).map (·.2)).getD now

/-- R54: FABk of cell `c` as a decision at stride `t` of its caravan sees it: the old value for less than 2 strides
after a change, the new one from 2 fabric cycles plus 3 strides on, either in between. -/
def State.fabSeen (s : State) (c k t : Nat) : Bool × State :=
  let x := s.cell c
  match x.fabOld.find? fun e => e.k == k && decide (t < e.till) with
  | none => (bitOf x.fab k, s)
  | some e =>
    if t < e.from_ then (e.old, s)
    else (s.freeVal 1 == 1, s.drawn)

/-- R52, R53: the condition of a JCC of lead `l` at stride `t`; the second part is the state after free values drawn. With no vector
stride at or before the one that is seen, a FAIL condition is 0 and a MATCH condition is free (log 139). -/
def State.condition (s : State) (l cond t : Nat) : Bool × State :=
  let r := s.run l
  let seen := lastOutcome r.hist ((t : Int) - (s.latency l : Int))
  match cond with
  | 0 => ((seen.map (·.failAny)).getD false, s)
  | 1 => ((seen.map (·.failAll)).getD false, s)
  | 2 => match seen with
    | some o => (o.matchAny, s)
    | none => (s.freeVal 1 == 1, s.drawn)
  | 3 => match seen with
    | some o => (o.matchAll, s)
    | none => (s.freeVal 1 == 1, s.drawn)
  | 4 => ((seen.map (·.fails)).getD false, s)
  | 5 => ((seen.map (·.bfails)).getD false, s)
  | 6 => (s.flag (SEQ.STATUS_MATCH l), s)
  | 7 => (s.flag (SEQ.STATUS_MTO l), s)
  | 8 => (s.flag (SEQ.STATUS_EQ l), s)
  | 9 => (s.flag (SEQ.STATUS_LT l), s)
  | 10 => (s.flag (SEQ.STATUS_EVT l), s)
  | 11 => (endSeen r.ends (s.flag (APG.STATUS_END (blockOf l))) t, s)
  | n => s.fabSeen l (n - 12) t

/-- The second operand of an ALU word of cell `c`. -/
def State.aluB (s : State) (c w : Nat) : Nat := if bitOf w 9 then bits w 32 32 else s.greg c (bits w 6 3)

/-- R73: the value that an ALU operation gives. -/
def aluValue (op a b : Nat) : Nat :=
  match op with
  | 0x20 => word72 (a + b)
  | 0x21 => word72 (a + 2 ^ 72 - b % 2 ^ 72)
  | 0x22 => Nat.land a b
  | 0x23 => Nat.lor a b
  | 0x24 => Nat.xor a b
  | 0x25 => if 72 ≤ b % 128 then 0 else word72 (a * 2 ^ (b % 128))
  | 0x26 => if 72 ≤ b % 128 then 0 else a / 2 ^ (b % 128)
  | _ => a

end Sys2Proof.Machine
end

