-- ==== Sys2Proof/Machine/Stride.lean ====
section
/-! DEFINITION. One stride of a caravan (spec/02, spec/03): the streaming ring and its descriptors, the causes that a
word raises before its stride, what every stride does (SC, the check value, slot copies, held pins), and the end of a
word. -/

namespace Sys2Proof.Machine

/-! ### Loops (R45, R57) -/

/-- The innermost active loop level of lead `l`. -/
def State.innermost (s : State) (l : Nat) : Option Nat := ([3, 2, 1, 0] : List Nat).find? fun k => s.flag (SEQ.L_ACTIVE l k)

/-- R45, R57: close the innermost loop; the next PC is the loop top or `pc`. Members hold copies (spec/03, Loops). -/
def State.closeLoop (s : State) (l pc : Nat) : State × Nat :=
  match s.innermost l with
  | none => (s, pc)
  | some k =>
    let n := (s.rd (SEQ.L_COUNT l k) + 2 ^ 32 - 1) % 2 ^ 32
    let s1 := s.wrAll (s.members l) (fun c => SEQ.L_COUNT c k) n
    if n = 0 then (s1.wrAll (s.members l) (fun c => SEQ.L_ACTIVE c k) 0, pc) else (s1, s.rd (SEQ.L_TOP l k))

/-! ### The ring and its descriptors (R81 to R89) -/

/-- Words in the ring of cell `c`. -/
def State.ringLevel (s : State) (c : Nat) : Nat := s.rd (SEQ.RING_STATUS_LEVEL c)

/-- R82: words that descriptor `n` of cell `c` has not written yet. -/
def State.descLeft (s : State) (c n : Nat) : Nat := s.rd (SEQ.SD_LEN_LEN c n) - (s.cell c).sdRead.getD n 0

/-- R83: the head descriptor of cell `c`. -/
def State.headDesc (s : State) (c : Nat) : Option Nat :=
  match (s.cell c).ringDesc with
  | (n, _) :: _ => some n
  | [] => if s.flag (SEQ.RING_STATUS_DMA_ACTIVE c) then some (s.rd (SEQ.RING_STATUS_DMA_DESC c)) else none

/-- R82: descriptor `n` of cell `c` becomes active. -/
def State.setActive (s : State) (c n : Nat) : State :=
  (((List.range 4).foldl (fun t k => t.wr (SEQ.SD_CTRL_ACTIVE c k) (b2n (k == n))) s).wrs
    [(SEQ.RING_STATUS_DMA_ACTIVE c, 1), (SEQ.RING_STATUS_DMA_DESC c, n)]).modCell c fun x =>
      { x with sdSpent := setBit x.sdSpent n }

/-- R82, R88: the stream DMA of cell `c` stops. -/
def State.stopDma (s : State) (c : Nat) : State :=
  ((List.range 4).foldl (fun t k => t.wr (SEQ.SD_CTRL_ACTIVE c k) 0) s).wrs
    [(SEQ.RING_STATUS_DMA_ACTIVE c, 0), (SEQ.RING_STATUS_DMA_DESC c, 0)]

/-- R82, DESCRIPTOR_CHAIN: an active descriptor with no word left gives way to its chain, or the DMA stops. A chain
is followed at most four times at once: each descriptor is started once per arming. -/
def State.chainDma (s : State) (c : Nat) : Nat → State
  | 0 => s
  | k + 1 =>
    if !s.flag (SEQ.RING_STATUS_DMA_ACTIVE c) then s
    else
      let n := s.rd (SEQ.RING_STATUS_DMA_DESC c)
      if s.descLeft c n ≠ 0 then s
      else
        let m := s.rd (SEQ.SD_CTRL_CHAIN c n)
        if s.flag (SEQ.SD_CTRL_CHAIN_EN c n) && s.flag (SEQ.SD_CTRL_ARMED c m) && !bitOf (s.cell c).sdSpent m then
          (s.setActive c m).chainDma c k
        else s.stopDma c

/-- R82: FLUSH: the ring is discarded, the DMA stops, all descriptors are disarmed. -/
def State.flushRing (s : State) (c : Nat) : State :=
  (((List.range 4).foldl (fun t k => t.wr (SEQ.SD_CTRL_ARMED c k) 0) (s.stopDma c)).wrs
    [(SEQ.RING_STATUS_LEVEL c, 0), (SEQ.RING_STATUS_RD c, s.rd (SEQ.RING_STATUS_WR c))]).modCell c fun x =>
      { x with ringDesc := [], sdRead := [], sdUsed := [], sdSpent := 0 }

/-- R82: PRIME of descriptor `n` is refused: it is not armed, or another one is active with words left to write. -/
def State.primeBad (s : State) (c n : Nat) : Bool :=
  !s.flag (SEQ.SD_CTRL_ARMED c n) ||
  (s.flag (SEQ.RING_STATUS_DMA_ACTIVE c) && s.rd (SEQ.RING_STATUS_DMA_DESC c) != n &&
    s.descLeft c (s.rd (SEQ.RING_STATUS_DMA_DESC c)) != 0)

/-- R82: PRIME makes descriptor `n` active. -/
def State.primeRing (s : State) (c n : Nat) : State := (s.setActive c n).chainDma c 4

/-- R88: the DMA of cell `c` has nothing further to write. -/
def State.dmaDone (s : State) (c : Nat) : Bool :=
  !s.flag (SEQ.RING_STATUS_DMA_ACTIVE c) ||
  (let n := s.rd (SEQ.RING_STATUS_DMA_DESC c)
   let m := s.rd (SEQ.SD_CTRL_CHAIN c n)
   s.descLeft c n == 0 &&
    !(s.flag (SEQ.SD_CTRL_CHAIN_EN c n) && s.flag (SEQ.SD_CTRL_ARMED c m) && !bitOf (s.cell c).sdSpent m))

/-- Take `k` words from a list of (descriptor, words), and count what each descriptor gives up. -/
def takeRing : List (Nat × Nat) → Nat → List (Nat × Nat) × List Nat
  | [], _ => ([], [])
  | (n, q) :: t, k =>
    if k = 0 then ((n, q) :: t, [])
    else if k < q then ((n, q - k) :: t, List.replicate k n)
    else let r := takeRing t (k - q); (r.1, List.replicate q n ++ r.2)

/-- R82: a word of descriptor `n` has been consumed; the last one disarms it. -/
def State.useDesc (s : State) (c n : Nat) : State :=
  let used := (s.cell c).sdUsed.getD n 0 + 1
  let s1 := s.modCell c fun x =>
    { x with sdUsed := (List.range 4).map fun k => if k = n then used else x.sdUsed.getD k 0 }
  if used = s.rd (SEQ.SD_LEN_LEN c n) then s1.wr (SEQ.SD_CTRL_ARMED c n) 0 else s1

/-- The sequencer of cell `c` consumes `k` ring words. -/
def State.consume (s : State) (c k : Nat) : State :=
  let r := takeRing (s.cell c).ringDesc k
  let s1 := (s.modCell c fun x => { x with ringDesc := r.1 }).wrs
    [(SEQ.RING_STATUS_LEVEL c, s.ringLevel c - k), (SEQ.RING_STATUS_RD c, (s.rd (SEQ.RING_STATUS_RD c) + k) % 4096)]
  r.2.foldl (fun t n => t.useDesc c n) s1

/-- The scratchpad address of the word at ring index `i` of cell `c`. -/
def State.ringAddr (s : State) (c i : Nat) : Nat := 4096 * s.rd (SEQ.RING_HALF c) + i % 4096

/-- The caravan of lead `l` is streaming. -/
def State.streaming (s : State) (l : Nat) : Bool := s.flag (SEQ.STATUS_STREAMING l)

/-- R85: cell `c` of the caravan led by `l` is short of its reserve. -/
def State.isShort (s : State) (l c : Nat) : Bool :=
  s.streaming l && decide (s.ringLevel c < min (s.latency l + 3) (s.rd (SEQ.STREAM_LEFT_WORDS l)))

/-- R87: cell `c` holds less than the PAUSE policy asks before streamed words resume, by its own PAUSE_LEVEL (log 103). -/
def State.belowPause (s : State) (l c : Nat) : Bool :=
  s.streaming l &&
  decide (s.ringLevel c < min (max (min 4096 (s.rd (SEQ.RING_PAUSE_LEVEL c))) (s.latency l + 3))
    (s.rd (SEQ.STREAM_LEFT_WORDS l)))

/-- Ring words that a member must hold for the next fetch: the word at its head, or after a MATCH, which stays there until it
ends, the template behind it (R69). -/
def State.ringNeed (s : State) (l : Nat) : Nat :=
  match (s.run l).phase with
  | .matching _ _ _ _ => 2
  | _ => 1

/-- R88: a member is dry at the next streamed word. -/
def State.dryMembers (s : State) (l : Nat) : List Nat :=
  (s.members l).filter fun c => decide (s.ringLevel c < s.ringNeed l) && s.dmaDone c

/-- R85, R87: the next stride of a streaming caravan is an underrun hold stride. A MATCH that repeats its template is
not interrupted; its first template waits until every member holds it. -/
def State.underrunNow (s : State) (l : Nat) : Bool :=
  let r := s.run l
  let past := (r.lvlHist[s.latency l - 1]?).getD (false, false)
  let empty := (s.members l).any fun c => decide (s.ringLevel c < s.ringNeed l)
  s.streaming l &&
    (match r.phase with
     | .ready => empty || past.1 || (r.pause && r.inUnder && past.2)
     | .matching _ _ _ _ => empty && (s.cell l).word.isNone
     | _ => false)

/-! ### Causes before a stride (R34 to R40, R65, R68 to R71) -/

/-- R69: words that are ILLEGAL_STATE when they come from the ring. -/
def ringForbidden (w : Nat) : Bool :=
  if isVector w then wLe w
  else if wClass w = 3 then true
  else decide ((1 ≤ wOp w ∧ wOp w ≤ 6) ∨ wOp w = 0x09 ∨ wOp w = 0x0E ∨ wOp w = 0x10)

/-- R68, R84: descriptor `n` of member `c` does not permit a STREAM. -/
def State.streamBad (s : State) (c n : Nat) : Bool := !s.flag (SEQ.SD_CTRL_ARMED c n) || s.headDesc c != some n

/-- R70: the BOND word `f` of member `c` is not permitted; `w` is the lead's word, which gives NSTR. -/
def State.bondBad (s : State) (l c w : Nat) (f : Fetched) : Bool :=
  match s.bondOf l with
  | none => true
  | some b =>
    let n := if bits w 20 16 = 0 then 65536 else bits w 20 16
    !(f.priv == .xo || f.priv == .xoSys) || f.mslot != b.slot ||
      decide (b.len < bits f.word 4 16 + n * s.nui c * popCount (bits f.word 0 4) 4)

/-- The word of member `c` is well formed but not permitted now; `wl` is the lead's word. A member's STREAM, BOND or MATCH is judged
where the lead's word is one that each member executes by itself, too (log 102). -/
def State.notPermitted (s : State) (l c wl : Nat) (f : Fetched) : Bool :=
  let w := f.word
  (f.ring && ringForbidden w) || (!f.ring && s.inRing c f.addr) ||
  (isVector w && wLe w && c == l && (s.innermost l).isNone) || (decide (0 < (s.run l).bondLeft) && !isVector w) ||
  (match wGroup w with
   | .vector => wClass w == 1 && s.vexNeedsApg c w && !s.holdsApg l
   | .ctl =>
     (isCtl w 0x06 && c == l && (bits w 0 2 == 1 || bits w 0 2 == 2) && (s.innermost l).isNone) ||
     (isCtl w 0x09 && c == l && !bitOf (s.rd (RGN.SGRP_MASK (regionOf l) (bits w 0 8))) (l % 64)) ||
     (isCtl w 0x0A && c == l && !s.holdsApg l) ||
     (isCtl w 0x0E && (s.streaming l || s.streamBad c (bits w 40 2))) ||
     (isCtl w 0x10 && s.bondBad l c wl f)
   | .sys =>
     !(f.priv == .xoSys || f.priv == .service) ||
     (isSys w 0x02 && ((bits w 0 2 == 0 && s.primeBad c (bits w 4 2)) || (bits w 0 2 == 1 && s.streaming l))))

/-- R58: the word after a MATCH is no template. -/
def notTemplate (w : Nat) : Bool := !isVector w || wLe w || wMf w || wFc w

/-- The scratchpad word index of the template of a MATCH that member `c` executes from `f`. -/
def State.templateAddr (s : State) (c : Nat) (f : Fetched) : Nat :=
  if f.ring then s.ringAddr c (s.rd (SEQ.RING_STATUS_RD c) + 1) else (f.addr + 1) % 8192

/-- The word of member `c` is malformed (R34, R46, R58, R65). -/
def State.badWord (s : State) (l c : Nat) (f : Fetched) : Bool :=
  let w := f.word
  malformed w (s.greg c (bits w 12 3)) (c == l) || (wClass w == 1 && s.vexBad c w) ||
  (match (s.run l).phase with
   | .ready => isCtl w 0x07 && (!f.ring || decide (2 ≤ s.ringLevel c)) &&
      (let a := padBase c + 16 * s.templateAddr c f
       s.eccOf a 0 != 2 && notTemplate (s.readFixed a))
   | .matching _ _ _ _ => notTemplate w
   | _ => false)

/-- R38: the word of a member differs from the lead's. -/
def diverges (wl w : Nat) : Bool :=
  wGroup wl != wGroup w || (caravanScoped wl && wOp wl != wOp w) || (isVector wl && wLe wl != wLe w)

/-- R34, R36, R38, R56, R57: the cause that the word of member `c` raises. -/
def State.wordCause (s : State) (l c : Nat) : Option Nat :=
  match (s.cell l).word, (s.cell c).word with
  | some fl, some f =>
    let wl := fl.word
    let w := f.word
    if c ≠ l ∧ diverges wl w = true then some cDiverge
    else if s.notPermitted l c wl f then some cIllegal
    else if s.badWord l c f then some cBadInstr
    else if c ≠ l then none
    else if isCtl w 0x04 && s.rd (SEQ.RSP_DEPTH l) == 8 then some cStackOver
    else if isCtl w 0x05 && s.rd (SEQ.RSP_DEPTH l) == 0 then some cStackUnder
    else if isCtl w 0x06 && bits w 0 2 == 0 && s.innermost l == some 3 then some cStackOver
    else none
  | _, _ => none

/-- The causes that the words of a caravan raise. -/
def State.wordCauses (s : State) (l : Nat) : List (Nat × Nat) :=
  (s.members l).filterMap fun c => (s.wordCause l c).map (c, ·)

/-- R95: the next stride is the one that the stride limit names. -/
def State.atScLimit (s : State) (l : Nat) : Bool :=
  s.flag (SEQ.SC_LIMIT_EN l) && s.rd (SEQ.SC_SC l) == s.rd (SEQ.SC_LIMIT_LIMIT l)

/-- R95: the stride limit's cause. -/
def State.limitCauses (s : State) (l : Nat) : List (Nat × Nat) := if s.atScLimit l then [(l, cScLimit)] else []

/-- R95: an address breakpoint of lead `l` matches the word `f`. -/
def State.breakHit (s : State) (l : Nat) (f : Fetched) : Bool :=
  !f.ring && (s.xowOf l f.addr).isNone && !(s.run l).skipBkpt &&
    (List.range 2).any fun n => s.flag (SEQ.BKPT_EN l n) && s.rd (SEQ.BKPT_ADDR l n) == f.addr

/-- R36, R78, R91 to R95: the caravan halts before its next stride with the causes raised. -/
def State.haltBefore (s : State) (l : Nat) (causes : List (Nat × Nat)) : State :=
  let s1 := causes.foldl (fun t e =>
    if e.2 = cBadInstr then t.rejectWord e.1 (((t.cell e.1).word.map (·.word)).getD 0) 2
    else if e.2 = cIllegal then t.rejectWord e.1 (((t.cell e.1).word.map (·.word)).getD 0) 3 else t) s
  let s2 := if s.atScLimit l then s1.wr (SEQ.SC_LIMIT_EN l) 0 else s1
  let s3 := if causes.any (fun e => e.2 == cFetchEcc) then s2.voidRun l 4 0 else s2
  let s4 := s3.haltCaravan l causes
  if causes.any (fun e => e.2 == cAddrBreak) then s4.breakFreeze l else s4

/-! ### What every stride does -/

/-- The caravan led by `l` can issue a stride: it is RUNNING on a running clock, and no vector stride is older than
the RESOLVE stage allows (spec/03, The stride pipeline). -/
def State.canStride (s : State) (l : Nat) : Bool :=
  s.isLead l && s.cvState l == stRunning && s.clockRuns (blockOf l) &&
    (s.run l).unresolved.all fun v => decide ((s.run l).sn ≤ v.sn + 2)

/-- R66: the slot copies of cell `c` that are due at stride `sn` take effect, in the order of their TSETs. -/
def State.applyLoads (s : State) (sn c : Nat) : State :=
  let x := s.cell c
  let due := x.loads.filter fun e => decide (e.due ≤ sn)
  due.foldl (fun t e => t.wrs [(TIM.SLOT_W0_WORD c (e.slot % 8), e.w0), (TIM.SLOT_W1_WORD c (e.slot % 8), e.w1)])
    (if due.isEmpty then s else s.setCell c { x with loads := x.loads.filter fun e => decide (sn < e.due) })

/-- R480: one bit of the CRC-16 with polynomial 0x1021 (most significant bit first, log 9). -/
def crcBit (crc : Nat) (b : Bool) : Nat :=
  if bitOf crc 15 != b then Nat.xor (crc * 2 % 65536) 0x1021 else crc * 2 % 65536

/-- R480: the check value after one more 16-bit token. -/
def crcToken (crc tok : Nat) : Nat := ((List.range 16).map (15 - ·)).foldl (fun a i => crcBit a (bitOf tok i)) crc

/-- R480: the token of the lead's word: its address, or the ring flag with the ring word's index. -/
def State.tokenOf (s : State) (l : Nat) : Nat :=
  match (s.cell l).word with
  | some f => if f.ring then 0x8000 + f.addr % 4096 else f.addr
  | none => s.rd (SEQ.PC_PC l)

/-- A stride of the caravan led by `l` passes: SC (R33), the run's stride number, the check values (R480), the unit interval
(R215); at its boundary drive check evaluates the lanes (R150), whose pins are at `pins`. -/
def State.passStride (s : State) (l : Nat) (pins : List (Nat × Int)) : State :=
  let ms := s.members l
  let tok := s.tokenOf l
  let s1 := s.wrAll ms SEQ.SC_SC ((s.rd (SEQ.SC_SC l) + 1) % 2 ^ 48)
  let s2 := (ms.foldl (fun t c =>
    (t.modCell c fun x => { x with chk := crcToken x.chk tok }).wr (TIM.UI_UI c) (t.tUiHalfPs c)) s1)
  let short := (ms.any (s2.isShort l), ms.any (s2.belowPause l))
  (s2.modRun l fun x =>
    { x with sn := x.sn + 1, lvlHist := if s.streaming l then (short :: x.lvlHist).take 10 else [] }).boundaryCheck ms pins

/-- R33, R206: a hold stride of cell `c` commands no edge but the end of drive of a lane that is in C mode or was. -/
def State.holdPins (s : State) (c : Nat) : State :=
  let x := s.cell c
  s.advance c (s.tUi c * s.nui c) fun k =>
    if (if bitOf (s.rd (SEQ.LMODE_LMODE c)) k then x.driven k != 3 else bitOf x.modes k) then x.offEdge k else []

/-- A hold stride of the caravan led by `l`. -/
def State.holdStride (s : State) (l : Nat) : State :=
  ((s.members l).foldl (fun t c => (t.applyLoads (s.run l).sn c).holdPins c) (s.rampStride l)).passStride l []

/-- `n` hold strides of the caravan led by `l`. -/
def State.holdStrides (s : State) (l : Nat) : Nat → State
  | 0 => s
  | n + 1 => (s.holdStride l).holdStrides l n

/-- R95: how many of `n` strides can be issued before the stride limit. -/
def State.stridesAllowed (s : State) (l n : Nat) : Nat :=
  if s.flag (SEQ.SC_LIMIT_EN l) then
    min n ((s.rd (SEQ.SC_LIMIT_LIMIT l) + 2 ^ 48 - s.rd (SEQ.SC_SC l)) % 2 ^ 48)
  else n

/-- R361: CONFINED clears when a member executes a word fetched by PC outside the windows of PROV_SLOT. -/
def State.confine (s : State) (l : Nat) : State :=
  let out := (s.members l).any fun c =>
    ((s.cell c).word.any fun f => !f.ring && !((f.priv == .xo || f.priv == .xoSys) && f.mslot == (s.run l).provSlot))
  if out && (s.run l).confined then s.modRun l fun x => { x with confined := false } else s

/-- The value that a list of (key, value) pairs gives for a key; 0 where it gives none. -/
def look (t : List (Nat × Nat)) (k : Nat) : Nat := ((t.find? fun e => e.1 == k).map (·.2)).getD 0

/-! ### FETCH (R75 to R78, R81, R88, R95) -/

/-- R283: an access of port A or B collides with one of the other port. -/
def State.collide (s : State) (c : Nat) : State :=
  (s.wr (CEL.COLLIDE_COLLIDE c) 1).count (CEL.COLLIDE_COUNT c) 1

/-- R78, R284: a read of scratchpad word `a` of cell `c` through port `port`, with an error of class `up` arising at
it: the counts, the recorded address and what stays stored. -/
def State.padErrors (s : State) (c a port up : Nat) : State :=
  let adr := padBase c + 16 * a
  let e := s.eccOf adr up
  let s1 := s.eccAfter adr up
  if e = 0 then s1
  else if e = 1 then s1.count (CEL.ECC_CORR c) 1
  else (s1.count (CEL.ECC_UNCORR c) 1).wrs
    [(CEL.ECC_ADDR_ADDR c, a), (CEL.ECC_ADDR_PORT c, port), (CEL.ECC_ADDR_VALID c, 1)]

/-- R77, R78: cell `c` reads scratchpad word `a` as its next word. In `up`: 1 or 2 an error class that arises at the
read, 4 a collision with port B (retried at no cost), 8 that port A was warned. -/
def State.fetchCell (s : State) (c a : Nat) (ring : Bool) (up : Nat) : State :=
  let pr := if ring then (Priv.opn, 16) else s.privAt c a
  let s1 := if bitOf up 2 then s.collide c else s
  ((s1.wr (CEL.COLLIDE_A_BUSY c) (up / 8)).padErrors c a 0 (up % 4)).modCell c fun x =>
    { x with word := some ⟨s.readFixed (padBase c + 16 * a), a, ring, pr.1, pr.2⟩ }

/-- The scratchpad word that member `c` of the caravan led by `l` fetches next: the word at PC or at the ring head, or
the template after a MATCH (R58, R69). -/
def State.fetchAddr (s : State) (l c : Nat) : Nat :=
  let k := match (s.run l).phase with
    | .matching _ _ _ _ => 1
    | _ => 0
  if s.streaming l then s.ringAddr c (s.rd (SEQ.RING_STATUS_RD c) + k) else (s.rd (SEQ.PC_PC l) + k) % 8192

/-- Every member fetches its word. -/
def State.fetchAll (s : State) (l : Nat) (ups : List (Nat × Nat)) : State :=
  (s.members l).foldl (fun t c => t.fetchCell c (s.fetchAddr l c) (s.streaming l) (look ups c)) s

/-- R78: the members whose fetch met an uncorrectable word. -/
def State.fetchBad (s : State) (l : Nat) (ups : List (Nat × Nat)) : List (Nat × Nat) :=
  ((s.members l).filter fun c => decide (2 ≤ s.eccOf (padBase c + 16 * s.fetchAddr l c) (look ups c % 4))).map
    (·, cFetchEcc)

/-- R93: the causes of the words fetched, but for cells whose word is uncorrectable. -/
def State.readableCauses (s : State) (l : Nat) (bad : List (Nat × Nat)) : List (Nat × Nat) :=
  (s.wordCauses l).filter fun e => !bad.any (·.1 == e.1)

/-- R95: the address breakpoint's cause for the word that the lead has fetched. -/
def State.breakCauses (s : State) (l : Nat) : List (Nat × Nat) :=
  if (s.cell l).word.any (s.breakHit l) then [(l, cAddrBreak)] else []

/-- The caravan led by `l` fetches a word before its next stride, and has not fetched it yet. -/
def State.fetchDue (s : State) (l : Nat) : Bool :=
  (s.cell l).word.isNone &&
    (match (s.run l).phase with
     | .ready => true
     | .matching _ _ _ _ => true
     | _ => false)

/-- R78, R88, R93, R95: the words of the next stride of the caravan led by `l` are fetched, no new error arising; and the causes
that they raise. No word is fetched for an underrun hold stride. -/
def State.fetchNext (s : State) (l : Nat) : State × List (Nat × Nat) :=
  let dry := if s.streaming l then s.dryMembers l else []
  if !dry.isEmpty then (s, dry.map (·, cStreamDry))
  else if s.underrunNow l then (s, [])
  else
    let bad := s.fetchBad l []
    let t := s.fetchAll l []
    (t, bad ++ t.breakCauses l ++ t.readableCauses l bad)

/-- R93, R101: the causes of a halt that takes effect at the next stride boundary of the caravan led by `l` anyway: those of
the words of the next stride, which are fetched by then, a dry member, the stride limit. -/
def State.boundaryCauses (s : State) (l : Nat) : State × List (Nat × Nat) :=
  let r := if s.fetchDue l then s.fetchNext l
    else (s, match (s.run l).phase with
      | .ready => s.wordCauses l
      | .matching _ _ _ _ => s.wordCauses l
      | _ => [])
  (r.1, r.2 ++ r.1.limitCauses l)

/-- R93, R101: the caravan led by `l` halts at the next stride boundary with the causes raised and those due there anyway. -/
def State.haltAtBoundary (s : State) (l : Nat) (causes : List (Nat × Nat)) : State :=
  let r := s.boundaryCauses l
  r.1.haltBefore l (causes ++ r.2)

/-- R93, R95: the caravan led by `l` halts after a stride with a cause of its lead; the stride limit that meets it at the same
boundary is judged with it, and its EN clears (log 104). -/
def State.haltAfter (s : State) (l cause : Nat) : State :=
  (if s.atScLimit l then s.wr (SEQ.SC_LIMIT_EN l) 0 else s).haltCaravan l ((l, cause) :: s.limitCauses l)

/-- The word of the caravan led by `l` ends: the ring words it used are consumed and STREAM_LEFT counts (R84), or the
PC moves to `pc`; the caravan halts with `cause`, or, after a STEP (R98), with STEPPED or a cause of the next word that
precedes it (R93). A MATCH that is the last word of COUNT takes
its template from beyond it, and the count stops at 0 (log 101). -/
def State.endWord (s : State) (l pc : Nat) (cause : Option Nat) : State :=
  let ms := s.members l
  let ring := (s.cell l).word.any (·.ring)
  let used := match (s.run l).phase with
    | .matching _ _ _ _ => 2
    | .draining _ _ => 2
    | _ => 1
  let s1 := s.confine l
  let s2 :=
    if ring then
      let left := s.rd (SEQ.STREAM_LEFT_WORDS l) - used
      let t := (ms.foldl (fun t c => t.consume c used) s1).wrAll ms SEQ.STREAM_LEFT_WORDS left
      if left = 0 then (t.wrAll ms SEQ.STATUS_STREAMING 0).wr (SEQ.PC_PC l) ((s.rd (SEQ.PC_PC l) + 1) % 8192) else t
    else s1.wr (SEQ.PC_PC l) (pc % 8192)
  let s3 := (ms.foldl (fun t c => t.modCell c fun x => { x with word := none }) s2).modRun l fun x =>
    { x with phase := .ready, skipBkpt := false, inUnder := false }
  match cause with
  | some k => s3.haltAfter l k
  | none => if (s.run l).stepping then s3.haltAtBoundary l [(l, cStepped)] else s3

/-- One hold stride that begins the lead's word, which `ok` accepts: the causes first (R34, R93), then the stride, then
`fin`, which gives the state after the word's effects. -/
def State.holdThen (s : State) (l : Nat) (ok : Nat → Bool) (fin : State → Nat → State) : State :=
  match (s.cell l).word with
  | none => s
  | some f =>
    if !(s.canStride l && (s.run l).phase == .ready && ok f.word) then s
    else
      let causes := s.wordCauses l ++ s.limitCauses l
      if !causes.isEmpty then s.haltBefore l causes else fin (s.holdStrides l 1) f.word

/-- One hold stride that carries out the lead's word whole: `eff` gives the state after the word's effects, the next PC
and the cause of a halt after it. -/
def State.holdWord (s : State) (l : Nat) (ok : Nat → Bool) (eff : State → Nat → State × Nat × Option Nat) : State :=
  s.holdThen l ok fun t w => let r := eff t w; r.1.endWord l r.2.1 r.2.2

/-- The address after the lead's word. -/
def State.nextPc (s : State) (l : Nat) : Nat := (s.rd (SEQ.PC_PC l) + 1) % 8192

end Sys2Proof.Machine
end

