-- ==== Sys2Proof/Machine/Vector.lean ====
section
/-! DEFINITION. Fetching a word, vector strides and their results (spec/02, spec/03, spec/08, spec/09): FETCH,
UNDERRUN_HOLD, SC_LIMIT, VEC, VEX and RESOLVE. -/

namespace Sys2Proof.Machine

/-- The lead can fetch: its caravan is RUNNING on a running clock, and no word waits. -/
def State.canFetch (s : State) (l : Nat) : Bool :=
  s.isLead l && s.cvState l == stRunning && s.clockRuns (blockOf l) && s.fetchDue l

/-- FETCH (R78): the caravan led by `l` fetches its next words; `ups` gives by cell what arises at the read. The
caravan halts before the stride where a word is uncorrectable, a breakpoint matches, or a member is dry. -/
def execFetch (l : Nat) (ups : List (Nat × Nat)) (s : State) : Host.Outcome State Fault Refusal :=
  .next (
    if !s.canFetch l then s
    else if s.streaming l && !(s.dryMembers l).isEmpty then
      s.haltBefore l ((s.dryMembers l).map (·, cStreamDry) ++ s.limitCauses l)
    else if s.underrunNow l then s
    else
      let bad := s.fetchBad l ups
      let t := s.fetchAll l ups
      let first := bad ++ t.breakCauses l
      if first.isEmpty then t else t.haltBefore l (first ++ t.readableCauses l bad ++ t.limitCauses l))

/-- UNDERRUN_HOLD (R85 to R87): one underrun hold stride of the caravan led by `l`. -/
def execUnderrunHold (l : Nat) (s : State) : Host.Outcome State Fault Refusal :=
  .next (
    if !(s.canStride l && (s.cell l).word.isNone && (s.dryMembers l).isEmpty && s.underrunNow l) then s
    else if s.atScLimit l then s.haltBefore l (s.limitCauses l)
    else
      let first := !(s.run l).underVoided || !s.flag (SEQ.VOID_VOID l)
      let s1 := (s.members l).foldl (fun t c => t.count (SEQ.UNDERRUN_STRIDES c) 1) (s.holdStrides l 1)
      let s2 := s1.modRun l fun x => { x with inUnder := true }
      if first && !(s.run l).pause then (s2.voidRun l 2 0).modRun l fun x => { x with underVoided := true } else s2)

/-- SC_LIMIT (R95): the stride counter has reached the limit; the word's own causes are judged with it (R93). -/
def execScLimit (l : Nat) (s : State) : Host.Outcome State Fault Refusal :=
  .next (
    if !(s.isLead l && s.cvState l == stRunning && s.clockRuns (blockOf l) && s.atScLimit l) then s
    else s.haltAtBoundary l [])

/-! ### Vector strides (R41 to R49, R71, R142, R199 to R212) -/

/-- What one lane of a cell gives in a vector stride. -/
structure LaneStride where
  plan : List Planned
  ret : Nat
  expect : Nat
  windows : Nat
  due : Nat
  clip : Bool
  ofsClip : Bool
  rsv : Bool
  deriving DecidableEq, Repr

/-- R205, R209, R212: lane `n` of cell `c` in D mode; OFS_CLIP sets as the lane is used (log 137). -/
def State.driveLane (s : State) (c n : Nat) (sl : Slot) (p : Nat) : LaneStride :=
  let x := s.cell c
  let fmt := bits sl.fmts (3 * n) 3
  let r := resolveDrive p n (List.range (s.nui c)) (bits x.drive (2 * n) 2)
  let sk := s.driveSkew c n
  let plan := planEdges n sl fmt (s.tUi c) (s.unitDen c) (s.nui c) sk.1 fun u => r.1.getD u 3
  { plan := (if bitOf x.modes n then x.offEdge n else []) ++ plan.1, ret := r.2, expect := 0xAAAA, windows := 0, due := 0,
    clip := plan.2, ofsClip := sk.2, rsv := decide (5 ≤ fmt) }

/-- R206, R208, R212: lane `n` of cell `c` in C mode: the driver turns off, at the start of UI 0 without skew where DZ is disabled
(log 136), and the UIs that are compared keep their codes. OFS_CLIP sets as the lane is used (log 137). -/
def State.compareLane (s : State) (c n : Nat) (sl : Slot) (p : Nat) : LaneStride :=
  let x := s.cell c
  let lev := x.driven n
  let off : Option (Nat × Bool) := edgePos sl.dz (s.tUi c) (s.unitDen c)
  let at_ : Int := (off.map fun e => (e.1 : Int) + (s.driveSkew c n).1 * (s.unitDen c : Int)).getD 0
  let codes := fromBits (fun i =>
    if i / 2 < s.nui c ∧ sl.compares = true then bitOf p (16 * n + i) else i % 2 == 1) 16
  let used := (List.range 8).any fun u => bits codes (2 * u) 2 != 2
  let window := bitOf sl.cmodes n
  let sk := s.compareSkew c n
  { plan := if lev = 3 then [] else [⟨n, at_, 0, 0, 3⟩], ret := bits x.drive (2 * n) 2,
    expect := codes,
    windows := if sl.opens (s.tUi c) (s.unitDen c) window then 255 else 0,
    due := (List.range 8).foldl (fun v u =>
      setField v (4 * u) 4 (sl.dueAfter (s.tUi c) (s.unitDen c) (s.nui c) window sk.1 u)) 0,
    clip := (lev != 3 && off.any (·.2)) || (used && sl.compareClips (s.tUi c) (s.unitDen c) window),
    ofsClip := (used && sk.2) || (lev != 3 && off.isSome && (s.driveSkew c n).2), rsv := false }

/-- R142, R155: a lane that takes no part keeps its retained state and compares nothing. -/
def State.idleLane (s : State) (c n : Nat) : LaneStride :=
  let x := s.cell c
  { plan := [], ret := bits x.drive (2 * n) 2, expect := 0xAAAA, windows := 0, due := 0, clip := false, ofsClip := false,
    rsv := false }

/-- What lane `n` of cell `c` does in a stride with payload `p`, timing slot `sl` and lane modes `lm`. -/
def State.laneStride (s : State) (c n lm : Nat) (sl : Slot) (p : Nat) : LaneStride :=
  if !s.laneLive c n then s.idleLane c n
  else if bitOf lm n then s.compareLane c n sl p else s.driveLane c n sl p

/-- R218: X, Y and Z of a record of member `c`. -/
def State.recordXyz (s : State) (l c : Nat) (o : ApgOut) : Nat × Nat × Nat :=
  let src := s.rd (LDG.CVCFG_ADDR_SRC (regionOf l) (l % 64))
  let v := if src = 2 then s.greg c 7 else if !s.holdsApg l then 0
    else if src = 0 then (s.apg (blockOf l)).logical else o.addr
  (bits v 0 20, bits v 20 16, bits v 36 6)

/-- One member's part of a vector stride: the state with its lanes driven, and what its comparators are asked. The Pin Source Map
entries of bonded lanes keep all they ask for, though their data is replaced (log 100). -/
def State.memberVector (s : State) (l c : Nat) (w : Nat) (o : ApgOut) : State × CellStride :=
  let s1 := if wMf w then
      s.wrs [(SEQ.LMODE_LMODE c, s.rd (SEQ.LMODE_ALT c)), (SEQ.LMODE_ALT c, s.rd (SEQ.LMODE_LMODE c))]
    else s
  let lm := s1.rd (SEQ.LMODE_LMODE c)
  let nu := s1.nui c
  let p0 := s1.payloadOf c w o
  let bonded := if 0 < (s.run l).bondLeft then (s.cell c).bondLanes else 0
  let p := if bonded = 0 then p0
    else bondPayload ((s.bondOf l).map (·.data) |>.getD 0) nu bonded (s.cell c).bondOff p0
  let sl := s1.slot c (wTsel w)
  let ls := (List.range 4).map fun n => s1.laneStride c n lm sl p
  let fab := wClass w == 1 && s1.vexFabric c w
  let empty := fab && (s.cell c).laneQ.isEmpty
  let s2 := s1.modCell c fun x =>
    { x with
      laneQ := if fab then x.laneQ.drop 1 else x.laneQ
      bondOff := x.bondOff + nu * popCount bonded 4
      drive := (List.range 4).foldl (fun v n => setField v (2 * n) 2 ((ls.map (·.ret)).getD n 3)) x.drive }
  let flagIf (u : State) (f : Fld) (b : Bool) : State := if b then u.wr f 1 else u
  let s3 := flagIf (flagIf (flagIf (flagIf s2 (TIM.STATUS_CLIP c) (ls.any (·.clip)))
    (TIM.STATUS_OFS_CLIP c) (ls.any (·.ofsClip))) (TIM.STATUS_RSV c) (ls.any (·.rsv))) (SEQ.STATUS_FAB_EMPTY c) empty
  let s4 := s3.advance c (s1.tUi c * nu) fun n => (ls.map (·.plan)).getD n []
  let xyz := s.recordXyz l c o
  (s4, { cell := c, nui := nu, fc := wFc w,
         expect := (List.range 4).foldl (fun v n => setField v (16 * n) 16 ((ls.map (·.expect)).getD n 0xAAAA)) 0,
         windows := (List.range 4).foldl (fun v n => setField v (8 * n) 8 ((ls.map (·.windows)).getD n 0)) 0,
         due := (List.range 4).foldl (fun v n => setField v (32 * n) 32 ((ls.map (·.due)).getD n 0)) 0,
         bonded := bonded, x := xyz.1, y := xyz.2.1, z := xyz.2.2 })

/-- R131, R284: the APG of block `b` reads its depot word, with an error of class `up` arising at the read; `takes` says that
the stride takes data of it. An uncorrectable word is reported, once for each of its addresses until the containment halts
the holder; data are masked from the first stride that would take them. -/
def State.depotRead (s : State) (b up : Nat) (takes : Bool) : State :=
  let adr := s.dptrAddr b
  let e := s.eccOf adr up
  let s1 := s.eccAfter adr up
  if e = 0 then s1
  else if e = 1 then s1.count (DEP.ECC_CORR b) 1
  else
    let s2 := (s1.count (DEP.ECC_UNCORR b) 1).wrs
      [(DEP.ECC_ADDR_ADDR b, s.rd (APG.DPTR_VALUE b)), (DEP.ECC_ADDR_APG b, 1), (DEP.ECC_ADDR_VALID b, 1)]
    let l := (s.apgHolder b).getD 0
    let s3 := s2.modBlock b fun x => { x with apgBad := if takes then l :: x.apgBad else x.apgBad, apgSeen := (l, adr) :: x.apgSeen }
    if (s.block b).apgSeen.contains (l, adr) then s3 else s3.report 0x08 l

/-- R37, R49: all members' parts of a vector stride. -/
def State.memberVectors (s : State) (l : Nat) (o : ApgOut) : List Nat → State × List CellStride
  | [] => (s, [])
  | c :: t =>
    let r := s.memberVector l c (((s.cell c).word.map (·.word)).getD 0) o
    let q := r.1.memberVectors l o t
    (q.1, r.2 :: q.2)

/-- R60: the index of the template to issue next, 0 for a word that is no template; none when the caravan may issue
no further template. -/
def State.templateIndex (s : State) (l : Nat) : Option Nat :=
  match (s.run l).phase with
  | .ready => some 0
  | .matching n k _ p => if k < (if p = 0 then n else min n (p + s.latency l)) then some (k + 1) else none
  | _ => none

/-- R34: a word whose opcode is unassigned. It has no command of its own; VEC refuses it (R36). -/
def unassigned (w : Nat) : Bool := (wClass w == 2 && !ctlAssigned (wOp w)) || (wClass w == 3 && decide (4 ≤ wOp w))

/-- A vector stride of the caravan led by `l`, whose lead's word is of class `cls`. -/
def State.vectorStride (s : State) (l cls up : Nat) (pins : List (Nat × Int)) : State :=
  match (s.cell l).word, s.templateIndex l with
  | some f, some k =>
    let w := f.word
    if !(s.canStride l && (wClass w == cls || (cls == 0 && unassigned w))) then s
    else
      let causes := s.wordCauses l ++ s.limitCauses l
      if !causes.isEmpty then s.haltBefore l causes
      else
        let ms := s.members l
        let run := s.run l
        let b := blockOf l
        let takes := ms.any fun c => (s.cell c).word.any fun g => wClass g.word == 1 && s.vexData c g.word
        let s00 := s.rampStride l
        let s0 := if s.holdsApg l && s.flag (APG.CFG_DMODE b) then s00.depotRead b up takes else s00
        let s1 := ms.foldl (fun t c => t.applyLoads run.sn c) s0
        let o := s1.apgOut b
        let empty := ms.filter fun c => (s.cell c).laneQ.isEmpty && ((s.cell c).word.any fun g =>
          wClass g.word == 1 && s.vexFabric c g.word)
        let r := s1.memberVectors l o ms
        let s2 := empty.foldl (fun t _ => t.voidRun l 3 0) r.1
        let s3 := if cls = 1 then s2.stepApg l (wStep w) else s2
        let s4 := (s3.passStride l pins).modRun l fun x =>
          { x with
            unresolved := x.unresolved ++
              [⟨run.sn, s.rd (SEQ.SC_SC l), k, decide (0 < run.bondLeft), run.tag, run.acct, run.av, r.2⟩]
            bondLeft := x.bondLeft - 1 }
        if k = 0 then
          let q := if wLe w then s4.closeLoop l (s.nextPc l) else (s4, s.nextPc l)
          q.1.endWord l q.2 none
        else
          (s4.confine l).modRun l fun x =>
            { x with
              skipBkpt := false
              phase := match x.phase with
                | .matching n i a p => .matching n (i + 1) a p
                | ph => ph }
  | _, _ => s

/-- VEC (R44): a literal vector stride of the caravan led by `l`; `env` is an error that arises at the APG's depot read, and
what drive check senses at the boundary that ends the stride. -/
def execVec (l : Nat) (env : Nat × List (Nat × Int)) (s : State) : Host.Outcome State Fault Refusal :=
  .next (s.vectorStride l 0 env.1 env.2)

/-- VEX (R46): a sourced vector stride of the caravan led by `l`. -/
def execVex (l : Nat) (env : Nat × List (Nat × Int)) (s : State) : Host.Outcome State Fault Refusal :=
  .next (s.vectorStride l 1 env.1 env.2)

/-! ### RESOLVE (R44, R51, R72, R96, R217 to R220, R251, R481) -/

/-- R251: a tap entry goes to the tile of cell `c`, or is dropped when the tap queue holds 32. -/
def State.sendTap (s : State) (c : Nat) (fbits sc : Nat) (fc tmpl : Bool) : State :=
  let x := s.cell c
  if x.tapQ.length < 32 then
    s.setCell c { x with tapQ := x.tapQ ++ [⟨fbits, sc % 65536, fc, tmpl, x.tapLost⟩], tapLost := false }
  else
    ((s.setCell c { x with tapLost := true }).count (FAB.TILE_TAP_DROP (blockOf c) (c % 8)) 1).wr
      (FAB.TILE_TAP_LOST (blockOf c) (c % 8)) 1

/-- Records in a queue. -/
def recordCount (q : List QItem) : Nat := (q.filter fun i => match i with
  | .record _ => true
  | .mark _ _ => false).length

/-- R220: a record enters the cell fail queue, or is dropped and counted when it holds 256. -/
def State.pushRecord (s : State) (c : Nat) (r : FailRec) : State :=
  if recordCount (s.cell c).failQ < 256 then s.modCell c fun x => { x with failQ := x.failQ ++ [.record r] }
  else s.count (CEL.FQ_DROPS c) 1

/-- R147: what the comparators of cell `c` can have shown: where VOL lies above VOH, no pin is between them, and one that is not
below VOL alone or above VOH alone is both. -/
def State.compared (s : State) (c obs : Nat) : Nat :=
  let flip (n : Nat) : Bool :=
    let m := s.rd (PIN.CTRL_LSEL c n)
    decide (s.rd (PIN.LSA_VOH c n m) < s.rd (PIN.LSA_VOL c n m))
  (List.range 32).foldl (fun v i =>
    if flip (i / 8) then
      let u := if bits v (2 * i) 2 = 0 then setField v (2 * i) 2 3 else v
      let w := bits u (64 + 4 * i) 4
      setField u (64 + 4 * i) 4 (setField (w / 2 * 2) 3 1 (if bitOf w 0 || bitOf w 3 then 1 else 0))
    else v) obs

/-- One member's results of stride `v`: `obs` holds what each lane and UI showed; `dual` says that two compare latches
disagreed (R481). -/
def State.resolveCell (s : State) (l : Nat) (v : Stride) (m : CellStride) (obs : Nat) (dual : Bool) : State :=
  let c := m.cell
  let fb := failBits m.expect m.windows (s.compared c obs)
  let hidden := Nat.land fb (laneBits m.bonded)
  let shown := fb - hidden
  let s1 := s.sendTap c shown v.sc m.fc (decide (0 < v.tmpl))
  let s2 := if dual then s1.report 0x03 c else s1
  if 0 < v.tmpl then s2
  else
    let s3 := s2.modCell c fun x => { x with fail := fb != 0 }
    if fb = 0 then s3
    else
      let s4 := (s3.wr (SEQ.STATUS_FAILS c) 1).count (SEQ.FAIL_COUNT_COUNT c) 1
      let s5 := if hidden = 0 then s4 else s4.wr (SEQ.STATUS_BFAILS c) 1
      let th := s.rd (SEQ.FAIL_THRESH_THRESH c)
      let s6 := if th ≠ 0 ∧ s5.rd (SEQ.FAIL_COUNT_COUNT c) = th ∧ (s.cell c).threshHit = false then
          (s5.modCell c fun x => { x with threshHit := true }).pulse (4 * c + 2)
        else s5
      if m.fc && !dual then
        s6.pushRecord c
          { sc := v.sc, site := (s.run l).site.getD 0, cell := c, voidf := false, bfail := hidden != 0,
            rv := s.flag (SEQ.VOID_VOID l), av := v.av, spill := false, fbits := shown, tag := v.tag, acct := v.acct,
            x := m.x, y := m.y, z := m.z, member := c - l, epoch := 0 }
      else s6

/-- R60: the caravan learns that template `k` passed. -/
def State.templatePassed (s : State) (l k : Nat) (rs : List MemberResult) : State :=
  s.modRun l fun x =>
    { x with
      phase := match x.phase with
        | .matching n i a p => .matching n i a (if p = 0 ∧ (if a then matchAny rs else matchAll rs) = true then k else p)
        | .draining a p => .draining a (if p = 0 ∧ (if a then matchAny rs else matchAll rs) = true then k else p)
        | ph => ph }

/-- The place of the marker in a cell fail queue. -/
def markerAt (q : List QItem) : Option Nat := q.findIdx? fun i => match i with
  | .mark _ _ => true
  | .record _ => false

/-- The drains that the marker of a cell fail queue answers. -/
def markerIds (q : List QItem) : List Nat := (q.findSome? fun i => match i with
  | .mark _ m => some m.ids
  | .record _ => none).getD []

/-- R222: a marker of drain `id` enters the queue of cell `c`, coalescing with one that is still there. -/
def State.markCell (s : State) (id c : Nat) : State :=
  s.modCell c fun x =>
    { x with
      released := match markerAt x.failQ with
        | some k => if k < x.released then x.released - 1 else x.released
        | none => x.released
      failQ := (x.failQ.filter fun i => match i with
        | .record _ => true
        | .mark _ _ => false) ++ [.mark c ⟨markerIds x.failQ ++ [id]⟩] }

/-- R222: a marker of the caravan led by `l` enters the queue of each member; a drain waits for them. -/
def State.mark (s : State) (l : Nat) (alloc : Bool) : State :=
  let r := regionOf l
  let id := (s.region r).nextEid
  (s.members l).foldl (fun t c => t.markCell id c) (s.modRegion r fun x =>
    { x with nextEid := id + 1, drains := x.drains ++ [⟨id, l, s.members l, alloc, []⟩] })

/-- R222: the LEDGER markers of lead `l` whose earlier strides have all resolved enter the queues. -/
def State.placeMarks (s : State) (l : Nat) : State :=
  let r := s.run l
  let ready := r.marks.filter fun m => r.unresolved.all fun v => decide (m.1 < v.sn)
  if ready.isEmpty then s
  else ready.foldl (fun t m => t.mark l m.2) (s.setRun l
    { r with marks := r.marks.filter fun m => r.unresolved.any fun v => decide (v.sn ≤ m.1) })

/-- The oldest unresolved stride of the caravan led by `l` resolves. -/
def State.resolveOne (s : State) (l : Nat) (obs : List (Nat × Nat)) (dual : List Nat) : State :=
  match (s.run l).unresolved with
  | [] => s
  | v :: rest =>
    let cs := v.cells.filter fun m => decide (m.cell < 256)
    let s1 := cs.foldl (fun t m => t.resolveCell l v m (look obs m.cell) (dual.contains m.cell)) s
    let rs := cs.map fun m =>
      let o := s.compared m.cell (look obs m.cell)
      { f := failBits m.expect m.windows o != 0, compares := hasCompare m.expect, passAny := anyPass m.expect m.windows o : MemberResult }
    let s2 := (s1.modRun l fun x => { x with unresolved := rest }).placeMarks l
    if 0 < v.tmpl then s2.templatePassed l v.tmpl rs
    else
      let ms := s.members l
      s2.modRun l fun x =>
        { x with
          hist := (⟨v.sn, failAny rs, failAll rs, matchAny rs, matchAll rs,
            ms.any (fun c => s2.flag (SEQ.STATUS_FAILS c)), ms.any (fun c => s2.flag (SEQ.STATUS_BFAILS c))⟩ ::
              x.hist).take 16 }

/-- RESOLVE (R217): comparator results of the oldest unresolved stride of the caravan led by `l`. `obs` gives by cell
what the comparators of each lane showed in each UI, as `uiPasses` reads it. `dual` names the cells whose compare latches
disagreed. -/
def execResolve (l : Nat) (obs : List (Nat × Nat)) (dual : List Nat) (s : State) : Host.Outcome State Fault Refusal :=
  .next (if s.frozen then s else s.resolveOne l obs dual)

end Sys2Proof.Machine
end

