-- ==== Sys2Proof/Machine/Control.lean ====
section
/-! DEFINITION. The CTL and SYS words (spec/02): flow, loops, MATCH, WAIT, SYNC, APG, MODE, TSET, EVENT, STREAM, LEDGER,
BOND, the ALU, and the privileged words. Each command below carries out the word that the lead has fetched, where that
word is the one the command names; on any other word it has no effect. -/

namespace Sys2Proof.Machine

/-! ### Member-scoped words -/

/-- R73: an ALU word of cell `c`. -/
def State.aluWord (s : State) (c w : Nat) : State :=
  s.setGreg c (bits w 0 3) (aluValue (wOp w) (s.greg c (bits w 3 3)) (s.aluB c w))

/-- R73: a CMP of cell `c`. -/
def State.cmpWord (s : State) (c w : Nat) : State :=
  let a := s.greg c (bits w 3 3)
  let b := s.aluB c w
  s.wrs [(SEQ.STATUS_EQ c, b2n (a == b)), (SEQ.STATUS_LT c, b2n (decide (a < b)))]

/-- R73: a MOVI of cell `c`. -/
def State.moviWord (s : State) (c w : Nat) : State :=
  s.setGreg c (bits w 0 3) (setField (s.greg c (bits w 0 3)) (if bitOf w 3 then 36 else 0) 36 (bits w 28 36))

/-- R43: a MODE of cell `c`, for the strides after it. -/
def State.modeWord (s : State) (c w : Nat) : State :=
  let s1 := if bitOf w 8 then s.wr (SEQ.LMODE_LMODE c) (bits w 0 4) else s
  if bitOf w 9 then s1.wr (SEQ.LMODE_ALT c) (bits w 4 4) else s1

/-- R66: the slot copies that a TSET schedules; the stride after the TSET is numbered `sn`. -/
def State.tsetWord (s : State) (sn c w : Nat) : State :=
  let new := ((List.range 4).filter fun k => bitOf w (16 * k + 15)).map fun k =>
    let e := bits w (16 * k) 6
    (⟨sn + 2, bits w (16 * k + 8) 3, s.rd (TIM.TAB_W0_WORD c e), s.rd (TIM.TAB_W1_WORD c e)⟩ : SlotLoad)
  s.modCell c fun x => { x with loads := x.loads ++ new }

/-- STRM (R82) of cell `c`: PRIME or FLUSH. -/
def State.strmWord (s : State) (c w : Nat) : State :=
  if bits w 0 2 = 0 then s.primeRing c (bits w 4 2) else s.flushRing c

/-- R37: what the member-scoped word of cell `c` does in its own stride; vector words and caravan-scoped words do
nothing here. The stride after it is numbered `sn`. -/
def State.memberWord (s : State) (sn c : Nat) : State :=
  match (s.cell c).word with
  | none => s
  | some f =>
    let w := f.word
    if wClass w = 2 then
      if wOp w = 0x0B then s.modeWord c w
      else if wOp w = 0x0C then s.tsetWord sn c w
      else if 0x20 ≤ wOp w ∧ wOp w ≤ 0x26 then s.aluWord c w
      else if wOp w = 0x27 then s.cmpWord c w
      else if wOp w = 0x28 then s.moviWord c w
      else s
    else if isSys w 0x02 then s.strmWord c w
    else s

/-- Entries that the TLOAD of cell `c` copies; 0 for another word. -/
def State.tloadN (s : State) (c : Nat) : Nat :=
  ((s.cell c).word.map fun f => if isSys f.word 0x01 then bits f.word 24 3 + 1 else 0).getD 0

/-- R203: the scratchpad words that the TLOAD word `w` names for its entry `j`. -/
def tloadSrc (w j : Nat) : Nat × Nat :=
  let src := bits w 0 13 / 2 * 2
  ((src + 2 * j) % 8192, (src + 2 * j + 1) % 8192)

/-- R78, R284: the TLOAD of cell `c` reads the words of its entry `j`. -/
def State.tloadRead (s : State) (c j : Nat) : State :=
  match (s.cell c).word with
  | none => s
  | some f => (s.padErrors c (tloadSrc f.word j).1 0 0).padErrors c (tloadSrc f.word j).2 0 0

/-- R203: the TLOAD of cell `c` copies its first `n` entries. -/
def State.tloadWord (s : State) (c n : Nat) : State :=
  match (s.cell c).word with
  | none => s
  | some f =>
    let w := f.word
    (List.range (min n (s.tloadN c))).foldl (fun t j =>
      let a := tloadSrc w j
      (t.tloadRead c j).wrs
        [(TIM.TAB_W0_WORD c (bits w 16 6 + j), s.readFixed (padBase c + 16 * a.1) % 2 ^ 64),
         (TIM.TAB_W1_WORD c (bits w 16 6 + j), s.readFixed (padBase c + 16 * a.2) % 2 ^ 64)]) s

/-- R78: the first extra stride (from 0) of the TLOAD of cell `c` that reads an uncorrectable word. -/
def State.tloadBad (s : State) (c : Nat) : Option Nat :=
  match (s.cell c).word with
  | none => none
  | some f =>
    (List.range (s.tloadN c)).find? fun j =>
      decide (2 ≤ s.eccOf (padBase c + 16 * (tloadSrc f.word j).1) 0) ||
        decide (2 ≤ s.eccOf (padBase c + 16 * (tloadSrc f.word j).2) 0)

/-- Every member carries out its own word of the stride that has passed; then the extra strides of TLOAD words (R203),
which the stride limit or an uncorrectable source word ends with the PC at the word (log 7). -/
def State.memberWords (s : State) (l : Nat) : State :=
  let ms := s.members l
  let s1 := ms.foldl (fun t c => t.memberWord (s.run l).sn c) s
  let n := (ms.map s1.tloadN).foldl max 0
  let bad := ms.filterMap fun c => (s1.tloadBad c).map (c, ·)
  let n1 := (bad.map (·.2)).foldl min n
  let n2 := s1.stridesAllowed l n1
  let s2 := ((ms.foldl (fun t c => t.tloadWord c n2) s1).holdStrides l n2)
  if n2 < n1 then (s2.confine l).haltBefore l (s2.limitCauses l)
  else if n1 < n then
    let hit := bad.filter fun e => e.2 == n1
    ((hit.foldl (fun t e => t.tloadRead e.1 n1) s2).confine l).haltBefore l (hit.map fun e => (e.1, cFetchEcc))
  else s2.endWord l (s.nextPc l) none

/-- A stride whose lead's word is member-scoped and passes `ok`. -/
def State.memberStride (s : State) (l : Nat) (ok : Nat → Bool) : State :=
  s.holdThen l ok fun t _ => t.memberWords l

/-- NOP (R33). -/
def execNop (l : Nat) (s : State) : Host.Outcome State Fault Refusal := .next (s.memberStride l fun w => isCtl w 0x00)
/-- MODE (R43). -/
def execMode (l : Nat) (s : State) : Host.Outcome State Fault Refusal := .next (s.memberStride l fun w => isCtl w 0x0B)
/-- TSET (R66). -/
def execTset (l : Nat) (s : State) : Host.Outcome State Fault Refusal := .next (s.memberStride l fun w => isCtl w 0x0C)
/-- ADD (R73). -/
def execAdd (l : Nat) (s : State) : Host.Outcome State Fault Refusal := .next (s.memberStride l fun w => isCtl w 0x20)
/-- SUB (R73). -/
def execSub (l : Nat) (s : State) : Host.Outcome State Fault Refusal := .next (s.memberStride l fun w => isCtl w 0x21)
/-- AND (R73). -/
def execAnd (l : Nat) (s : State) : Host.Outcome State Fault Refusal := .next (s.memberStride l fun w => isCtl w 0x22)
/-- OR (R73). -/
def execOr (l : Nat) (s : State) : Host.Outcome State Fault Refusal := .next (s.memberStride l fun w => isCtl w 0x23)
/-- XOR (R73). -/
def execXor (l : Nat) (s : State) : Host.Outcome State Fault Refusal := .next (s.memberStride l fun w => isCtl w 0x24)
/-- SHL (R73). -/
def execShl (l : Nat) (s : State) : Host.Outcome State Fault Refusal := .next (s.memberStride l fun w => isCtl w 0x25)
/-- SHR (R73). -/
def execShr (l : Nat) (s : State) : Host.Outcome State Fault Refusal := .next (s.memberStride l fun w => isCtl w 0x26)
/-- CMP (R73). -/
def execCmp (l : Nat) (s : State) : Host.Outcome State Fault Refusal := .next (s.memberStride l fun w => isCtl w 0x27)
/-- MOVI (R73). -/
def execMovi (l : Nat) (s : State) : Host.Outcome State Fault Refusal := .next (s.memberStride l fun w => isCtl w 0x28)
/-- TLOAD (R203). -/
def execTload (l : Nat) (s : State) : Host.Outcome State Fault Refusal := .next (s.memberStride l fun w => isSys w 0x01)
/-- STRM PRIME (R82). -/
def execStrmPrime (l : Nat) (s : State) : Host.Outcome State Fault Refusal :=
  .next (s.memberStride l fun w => isSys w 0x02 && bits w 0 2 != 1)
/-- STRM FLUSH (R82). -/
def execStrmFlush (l : Nat) (s : State) : Host.Outcome State Fault Refusal :=
  .next (s.memberStride l fun w => isSys w 0x02 && bits w 0 2 == 1)

/-- TSET_APPLY (R66): the slot copies of cell `c` that are due at its caravan's next stride take effect. -/
def execTsetApply (c : Nat) (s : State) : Host.Outcome State Fault Refusal :=
  .next (if s.enabled c && s.cvState c == stRunning && s.clockRuns (blockOf c) then
    s.applyLoads (s.run (s.leadOf c)).sn c else s)

/-! ### Flow (R56, R57) -/

/-- HALT (R91): the caravan halts after the stride, PC at the HALT, CODE in HCODE. -/
def execHalt (l : Nat) (s : State) : Host.Outcome State Fault Refusal :=
  .next (s.holdWord l (fun w => isCtl w 0x01) fun t w => (t.wr (SEQ.STATUS_HCODE l) (bits w 0 8), s.rd (SEQ.PC_PC l), some cHalted))

/-- JMP (R56). -/
def execJmp (l : Nat) (s : State) : Host.Outcome State Fault Refusal :=
  .next (s.holdWord l (fun w => isCtl w 0x02) fun t w => (t, bits w 0 13, none))

/-- JCC (R52, R53). -/
def execJcc (l : Nat) (s : State) : Host.Outcome State Fault Refusal :=
  .next (s.holdWord l (fun w => isCtl w 0x03) fun t w =>
    let r := t.condition l (bits w 16 5) ((t.run l).sn - 1)
    (r.2, if r.1 != bitOf w 21 then bits w 0 13 else s.nextPc l, none))

/-- CALL (R56). -/
def execCall (l : Nat) (s : State) : Host.Outcome State Fault Refusal :=
  .next (s.holdWord l (fun w => isCtl w 0x04) fun t w =>
    let d := t.rd (SEQ.RSP_DEPTH l)
    ((t.wrAll (t.members l) (fun c => SEQ.RS_ADDR c d) (s.nextPc l)).wrAll (t.members l) SEQ.RSP_DEPTH (d + 1),
      bits w 0 13, none))

/-- RET (R56). -/
def execRet (l : Nat) (s : State) : Host.Outcome State Fault Refusal :=
  .next (s.holdWord l (fun w => isCtl w 0x05) fun t _ =>
    let d := t.rd (SEQ.RSP_DEPTH l) - 1
    (t.wrAll (t.members l) SEQ.RSP_DEPTH d, t.rd (SEQ.RS_ADDR l d), none))

/-- LOOP OPEN (R57). -/
def execLoopOpen (l : Nat) (s : State) : Host.Outcome State Fault Refusal :=
  .next (s.holdWord l (fun w => isCtl w 0x06 && (bits w 0 2 == 0 || bits w 0 2 == 3)) fun t w =>
    let k := ((t.innermost l).map (· + 1)).getD 0
    let ms := t.members l
    (((t.wrAll ms (fun c => SEQ.L_COUNT c k) (bits w 32 32)).wrAll ms (fun c => SEQ.L_TOP c k) (s.nextPc l)).wrAll ms
      (fun c => SEQ.L_ACTIVE c k) 1, s.nextPc l, none))

/-- LOOP CLOSE (R57). -/
def execLoopClose (l : Nat) (s : State) : Host.Outcome State Fault Refusal :=
  .next (s.holdWord l (fun w => isCtl w 0x06 && bits w 0 2 == 1) fun t _ =>
    let r := t.closeLoop l (s.nextPc l)
    (r.1, r.2, none))

/-- LOOP DROP (R57). -/
def execLoopDrop (l : Nat) (s : State) : Host.Outcome State Fault Refusal :=
  .next (s.holdWord l (fun w => isCtl w 0x06 && bits w 0 2 == 2) fun t _ =>
    match t.innermost l with
    | none => (t, s.nextPc l, none)
    | some k => (t.wrAll (t.members l) (fun c => SEQ.L_ACTIVE c k) 0, s.nextPc l, none))

/-! ### MATCH and WAIT (R58 to R63) -/

/-- COUNT of MATCH, WAIT and LOOP: 0 means 2^32. -/
def count32 (n : Nat) : Nat := if n = 0 then 2 ^ 32 else n

/-- The members' words are given up, so that the next fetch follows. -/
def State.clearWords (s : State) (l : Nat) : State :=
  (s.members l).foldl (fun t c => t.modCell c fun x => { x with word := none }) s

/-- MATCH (R58 to R60): the MATCH's own stride; the caravan then fetches and issues its template. -/
def execMatch (l : Nat) (s : State) : Host.Outcome State Fault Refusal :=
  .next (s.holdThen l (fun w => isCtl w 0x07) fun t w =>
    ((t.confine l).clearWords l).modRun l fun x =>
      { x with phase := .matching (count32 (bits w 0 32)) 0 (bitOf w 32) 0, skipBkpt := false })

/-- R60: MATCH and MTO as a MATCH or conditional WAIT leaves them. -/
def State.setMatch (s : State) (l : Nat) (ok : Bool) : State :=
  s.wrs [(SEQ.STATUS_MATCH l, b2n ok), (SEQ.STATUS_MTO l, b2n (!ok))]

/-- R60: the word after the template is next. -/
def State.endMatch (s : State) (l : Nat) (ok : Bool) : State := (s.setMatch l ok).endWord l (s.rd (SEQ.PC_PC l) + 2) none

/-- MATCH_COUNT_EXPIRY (R60): COUNT templates have been issued and no success within the limit is known; the drain
begins. -/
def execMatchCountExpiry (l : Nat) (s : State) : Host.Outcome State Fault Refusal :=
  .next (
    match (s.run l).phase with
    | .matching n k a p =>
      if s.canStride l && decide (n ≤ k) && (p == 0 || decide (n < p + s.latency l)) then
        s.modRun l fun x => { x with phase := .draining a p }
      else s
    | _ => s)

/-- MATCH_DRAIN_END (R60): the Lc further templates have been issued, or the Lc drain strides pass; MATCH ends. -/
def execMatchDrainEnd (l : Nat) (s : State) : Host.Outcome State Fault Refusal :=
  .next (
    match (s.run l).phase with
    | .matching n k _ p =>
      if s.canStride l && p != 0 && decide (p + s.latency l ≤ n) && k == p + s.latency l then s.endMatch l true else s
    | .draining _ p =>
      if s.canStride l && (s.run l).unresolved.isEmpty then
        let n := s.stridesAllowed l (s.latency l)
        let t := s.holdStrides l n
        if n < s.latency l then t.haltBefore l (t.limitCauses l) else t.endMatch l (p != 0)
      else s
    | _ => s)

/-- R62: up to `n` more strides of a timed WAIT, as many as the stride limit allows. -/
def State.waitMore (s : State) (l left n : Nat) : State :=
  let k := s.stridesAllowed l (min n left)
  let t := (s.holdStrides l k).modRun l fun x => { x with phase := .waitTime (left - k) }
  if k < min n left then t.haltBefore l (t.limitCauses l) else t

/-- WAIT_TIME (R62): the WAIT's own stride and further ones, `n` in all; or, in a WAIT that has begun, `n` more. -/
def execWaitTime (l n : Nat) (s : State) : Host.Outcome State Fault Refusal :=
  .next (
    match (s.run l).phase with
    | .ready => s.holdThen l (fun w => isCtl w 0x08 && bits w 32 4 == 0) fun t w =>
        ((t.confine l).modRun l fun x => { x with skipBkpt := false }).waitMore l (count32 (bits w 0 32) - 1) (n - 1)
    | .waitTime left => if s.canStride l then s.waitMore l left n else s
    | _ => s)

/-- R54, R63: the condition of a WAIT of lead `l` at stride `t`. -/
def State.waitSees (s : State) (l cond t : Nat) : Bool × State :=
  if cond = 5 then (s.flag (SEQ.STATUS_EVT l), s) else s.fabSeen l (cond - 1) t

/-- R63: a conditional WAIT ends with the condition seen; a wait on EVT clears it. -/
def State.endWait (s : State) (l cond : Nat) : State :=
  let t := if cond = 5 then s.wr (SEQ.STATUS_EVT l) 0 else s
  (t.setMatch l true).endWord l (s.nextPc l) none

/-- R63: up to `k` more strides of a conditional WAIT with `left` strides left. -/
def State.waitSteps (s : State) (l cond : Nat) : Nat → Nat → State
  | 0, left => s.modRun l fun x => { x with phase := .waitCond left cond }
  | _ + 1, 0 => s.modRun l fun x => { x with phase := .waitCond 0 cond }
  | k + 1, left + 1 =>
    if s.atScLimit l then (s.modRun l fun x => { x with phase := .waitCond (left + 1) cond }).haltBefore l (s.limitCauses l)
    else
      let r := s.waitSees l cond (s.run l).sn
      let t := r.2.holdStrides l 1
      if r.1 then t.endWait l cond else t.waitSteps l cond k left

/-- WAIT_COND (R63): strides of a conditional WAIT, its own included, `n` in all at most; or `n` more of one that has
begun. -/
def execWaitCond (l n : Nat) (s : State) : Host.Outcome State Fault Refusal :=
  .next (
    match (s.run l).phase with
    | .ready => s.holdThen l (fun w => isCtl w 0x08 && bits w 32 4 != 0) fun t w =>
        let cond := bits w 32 4
        let t0 := (t.confine l).modRun l fun x => { x with skipBkpt := false }
        let r := t0.waitSees l cond ((t.run l).sn - 1)
        if r.1 then r.2.endWait l cond else r.2.waitSteps l cond (n - 1) (count32 (bits w 0 32) - 1)
    | .waitCond left cond => if s.canStride l then s.waitSteps l cond n left else s
    | _ => s)

/-- WAIT_COUNT_EXPIRY (R62, R63): the remaining strides of a WAIT pass and it ends, a conditional one with MTO = 1
unless its condition is seen first. -/
def execWaitCountExpiry (l : Nat) (s : State) : Host.Outcome State Fault Refusal :=
  .next (
    if !s.canStride l then s
    else match (s.run l).phase with
    | .waitTime left =>
      let t := s.waitMore l left left
      if (t.run l).phase == .waitTime 0 then t.endWord l (s.nextPc l) none else t
    | .waitCond left cond =>
      let t := s.waitSteps l cond left left
      if (t.run l).phase == .waitCond 0 cond then (t.setMatch l false).endWord l (s.nextPc l) none else t
    | _ => s)

/-! ### SYNC (R64, R114, R117, R121, R261) -/

/-- R64, R114, R261: the caravan led by `l` takes part in the round of its barrier: with SWITCH, NEXT_PC is armed; with
SWAP, every block that holds a member has a swap armed. -/
def State.mayArrive (s : State) (l : Nat) (switch swap : Bool) : Bool :=
  (!switch || s.flag (SEQ.NEXT_PC_ARMED l)) &&
  (!swap || (s.members l).all fun c => s.flag (FAB.STATUS_ARMED (blockOf c)))

/-- R114: the caravan led by `l` arrives at its group. -/
def State.arrive (s : State) (l : Nat) : State :=
  match (s.run l).phase with
  | .atSync g convoy sw sp false =>
    if s.mayArrive l sw sp then
      let r := regionOf l
      ((s.wr (RGN.SGARR_ARRIVED r g) (setBit (s.rd (RGN.SGARR_ARRIVED r g)) (l % 64))).modRegion r fun x =>
        { x with cvArrived := if convoy then x.cvArrived ++ [(g, l)] else x.cvArrived }).modRun l fun x =>
          { x with phase := .atSync g convoy sw sp true }
    else s
  | _ => s

/-- The SYNC of lead `l` ends and the caravan continues at `next`; the run's provenance is not judged again. -/
def State.endSync (s : State) (l next : Nat) : State :=
  let r := s.run l
  (s.endWord l next none).modRun l fun x =>
    { x with provSlot := r.provSlot, confined := r.confined, intervened := r.intervened }

/-- R112, R115: up to `n` hold strides after a release, as many as the stride limit allows; the last one ends the SYNC where
no swap is awaited. -/
def State.releasedMore (s : State) (l n : Nat) : State :=
  match (s.run l).phase with
  | .released next left swap =>
    let want := if swap then n else min n left
    let k := s.stridesAllowed l want
    let t := (s.holdStrides l k).modRun l fun x => { x with phase := .released next (left - k) swap }
    if k < want then t.haltBefore l (t.limitCauses l)
    else if left ≤ k ∧ swap = false then t.endSync l next else t
  | _ => s

/-- Up to `n` hold strides at a barrier, as many as the stride limit allows. -/
def State.syncMore (s : State) (l n : Nat) : State :=
  let k := s.stridesAllowed l n
  let t := (s.arrive l).holdStrides l k
  if k < n then t.haltBefore l (t.limitCauses l) else t

/-- SYNC (R64, R114, R115): the first stride of a SYNC and further ones, `n` in all; or `n` more hold strides at the
barrier; or, after the release, up to `n` of the strides until the next word executes or the swapped tiles are valid. -/
def execSync (l n : Nat) (s : State) : Host.Outcome State Fault Refusal :=
  .next (
    match (s.run l).phase with
    | .ready => s.holdThen l (fun w => isCtl w 0x09) fun t w =>
        ((t.confine l).modRun l fun x =>
          { x with phase := .atSync (bits w 0 8) (bitOf w 8) (bitOf w 9) (bitOf w 10) false, skipBkpt := false }).syncMore l
            (n - 1)
    | .atSync _ _ _ _ _ => if s.canStride l then s.syncMore l n else s
    | .released _ _ _ => if s.canStride l then s.releasedMore l n else s
    | _ => s)

/-! ### APG, EVENT, STREAM, LEDGER, BOND -/

/-- APG (R65): a load, then a step, of the caravan's APG. -/
def execApg (l : Nat) (s : State) : Host.Outcome State Fault Refusal :=
  .next (s.holdThen l (fun w => isCtl w 0x0A) fun t w =>
    let t1 := if bitOf w 8 then t.loadAreg (blockOf l) (bits w 16 6) (t.greg l (bits w 12 3)) else t
    let t2 := (t1.modRun l fun x => { x with sn := x.sn - 1 }).stepApg l (bits w 0 8)
    (t2.modRun l fun x => { x with sn := x.sn + 1 }).endWord l (s.nextPc l) none)

/-- R67: a code enters the event queue of lead `l`, or is dropped and counted; the EVENT source pulses. -/
def State.pushEvent (s : State) (l code : Nat) : State :=
  let s1 := if (s.cell l).evq.length < 8 then s.modCell l fun x => { x with evq := x.evq ++ [code] }
    else (s.wr (SEQ.STATUS_EVQ_DROP l) 1).count (SEQ.EVQ_DROP_COUNT l) 1
  s1.pulse (4 * l + 1)

/-- EVENT (R67). -/
def execEvent (l : Nat) (s : State) : Host.Outcome State Fault Refusal :=
  .next (s.holdWord l (fun w => isCtl w 0x0D) fun t w => (t.pushEvent l (bits w 0 16), s.nextPc l, none))

/-- STREAM (R68, R84): the caravan executes COUNT words from its rings from the next stride; PC stays at the STREAM. -/
def execStream (l : Nat) (s : State) : Host.Outcome State Fault Refusal :=
  .next (s.holdWord l (fun w => isCtl w 0x0E) fun t w =>
    let ms := t.members l
    (((t.wrAll ms SEQ.STREAM_LEFT_WORDS (bits w 0 40)).wrAll ms SEQ.STATUS_STREAMING 1).modRun l fun x =>
      { x with pause := bitOf w 42, lvlHist := [], inUnder := false }, s.rd (SEQ.PC_PC l), none))

/-- LEDGER TAG (R219). -/
def execLedgerTag (l : Nat) (s : State) : Host.Outcome State Fault Refusal :=
  .next (s.holdWord l (fun w => isCtl w 0x0F && bits w 0 2 == 0) fun t w =>
    (t.modRun l fun x => { x with tag := bits w 16 16 }, s.nextPc l, none))

/-- LEDGER ACCT (R219). -/
def execLedgerAcct (l : Nat) (s : State) : Host.Outcome State Fault Refusal :=
  .next (s.holdWord l (fun w => isCtl w 0x0F && bits w 0 2 == 1) fun t w =>
    (t.modRun l fun x => { x with acct := bits w 16 16, av := true }, s.nextPc l, none))

/-- R222: a marker word; the marker enters the queues behind the records of all earlier strides. -/
def State.markWord (s : State) (l : Nat) (alloc : Bool) : State :=
  (s.modRun l fun x => { x with marks := x.marks ++ [(x.sn - 1, alloc)] }).placeMarks l

/-- LEDGER MARK (R222). -/
def execLedgerMark (l : Nat) (s : State) : Host.Outcome State Fault Refusal :=
  .next (s.holdWord l (fun w => isCtl w 0x0F && bits w 0 2 == 2) fun t _ => (t.markWord l false, s.nextPc l, none))

/-- LEDGER ALLOC (R222). -/
def execLedgerAlloc (l : Nat) (s : State) : Host.Outcome State Fault Refusal :=
  .next (s.holdWord l (fun w => isCtl w 0x0F && bits w 0 2 == 3) fun t _ => (t.markWord l true, s.nextPc l, none))

/-- BOND (R70, R71): the next NSTR strides are bonded strides; LANES and OFFSET are each member's own. -/
def execBond (l : Nat) (s : State) : Host.Outcome State Fault Refusal :=
  .next (s.holdWord l (fun w => isCtl w 0x10) fun t w =>
    let t1 := (t.members l).foldl (fun u c => u.modCell c fun x =>
      { x with bondLanes := (x.word.map fun f => bits f.word 0 4).getD 0, bondOff := (x.word.map fun f => bits f.word 4 16).getD 0 }) t
    (t1.modRun l fun x => { x with bondLeft := if bits w 20 16 = 0 then 65536 else bits w 20 16 }, s.nextPc l, none))

/-! ### SYS words -/

/-- BRK (R91): the caravan halts after the stride with cause BREAK, TAG in HCODE; freeze may trigger (R391). -/
def execBrk (l : Nat) (s : State) : Host.Outcome State Fault Refusal :=
  .next (s.holdThen l (fun w => isSys w 0x00) fun t w =>
    ((t.wr (SEQ.STATUS_HCODE l) (bits w 0 8)).endWord l (s.nextPc l) (some cBreak)).breakFreeze l)

/-- CVC VOID (R94): the run is void with cause PROGRAM. -/
def execCvcVoid (l : Nat) (s : State) : Host.Outcome State Fault Refusal :=
  .next (s.holdWord l (fun w => isSys w 0x03 && bits w 0 2 != 1) fun t w => (t.voidRun l 1 (bits w 8 8), s.nextPc l, none))

/-- CVC FLAG (R467): the two sequencer flag outputs. -/
def execCvcFlag (l : Nat) (s : State) : Host.Outcome State Fault Refusal :=
  .next (s.holdWord l (fun w => isSys w 0x03 && bits w 0 2 == 1) fun t w =>
    (t.modRun l fun x =>
      { x with flags := (List.range 2).foldl (fun v k => if bitOf w (18 + k) then putBit v k (bitOf w (16 + k)) else v) x.flags },
      s.nextPc l, none))

end Sys2Proof.Machine
end

