-- ==== Sys2Proof/Machine/SeqCmd.lean ====
section
/-! DEFINITION. The sequencer's command interface and its registers with effects of their own (spec/03): START to FLUSH,
NEXT_PC, EVT, EVQ, stream descriptors, the ring and the Pin Source Map. -/

namespace Sys2Proof.Machine

/-- R361: a steward write to the SEQ window of a member marks the run of its caravan (log 128). -/
def State.seqTouch (s : State) (c : Nat) : State :=
  if s.enabled c && !(s.run (s.leadOf c)).intervened then
    s.modRun (s.leadOf c) fun x => { x with intervened := true }
  else s

/-- Free observations for the cells of a stride. -/
def State.freeObs (s : State) : List CellStride → State × List (Nat × Nat)
  | [] => (s, [])
  | m :: t => let r := s.drawn.freeObs t; (r.1, (m.cell, s.freeVal 192) :: r.2)

/-- Strides of lead `l` that are still unresolved resolve, each against free observations (log 6). -/
def State.settle (s : State) (l : Nat) : Nat → State
  | 0 => s
  | k + 1 =>
    match (s.run l).unresolved with
    | [] => s
    | v :: _ => let r := s.freeObs v.cells; (r.1.resolveOne l r.2 []).settle l k

/-- At most three strides are unresolved at once. -/
def State.settleAll (s : State) (l : Nat) : State := s.settle l (s.run l).unresolved.length

/-- R98: a member of the caravan led by `l` has a pin in the safe state that is not marked unused. -/
def State.safePins (s : State) (l : Nat) : Bool :=
  (s.members l).any fun c => (List.range 4).any fun n => s.flag (PIN.STATE_SAFE c n) && !s.flag (PIN.CTRL_UNUSED c n)

/-- R98: why START of cell `c` is refused; 0 when it is not. -/
def State.startStatus (s : State) (c : Nat) : Nat :=
  let ms := s.members c
  if !s.isLead c || s.busy c || ms.any (fun m => !s.pllGood (blockOf m)) || s.safePins c then 3
  else if s.nui c < 1 ∨ 8 < s.nui c ∨ (ms.any fun m => s.nui m != s.nui c) = true then 2
  else if ms.any fun m => s.inRing m (s.rd (SEQ.START_PC_ADDR c)) then 2
  else 0

/-- R361: the provenance of a run that starts at word `a` of lead `l`: slot and confinement. -/
def State.provenance (s : State) (l a : Nat) : Nat × Bool :=
  match (List.range 4).find? fun n => s.flag (CEL.XOW_VALID l n) && s.rd (CEL.XOW_BASE l n) == a with
  | some n => (s.rd (CEL.XOW_MSLOT l n), true)
  | none => (0, false)

/-- R99, R160: the clears of START in one member. -/
def State.startCell (s : State) (c : Nat) : State :=
  let s1 := s.wrs ([(SEQ.SC_SC c, 0), (SEQ.STATUS_FAILS c, 0), (SEQ.STATUS_BFAILS c, 0), (SEQ.STATUS_MATCH c, 0),
    (SEQ.STATUS_MTO c, 0), (SEQ.STATUS_EQ c, 0), (SEQ.STATUS_LT c, 0), (SEQ.STATUS_EVT c, 0), (SEQ.RSP_DEPTH c, 0),
    (SEQ.VOID_VOID c, 0), (SEQ.VOID_FIRST c, 0), (SEQ.VOID_REASON c, 0), (SEQ.VOID_COUNT c, 0), (SEQ.STATUS_VOID c, 0),
    (SEQ.UNDERRUN_STRIDES c, 0), (SEQ.FAIL_COUNT_COUNT c, 0), (SEQ.STREAM_LEFT_WORDS c, 0), (SEQ.STATUS_CAUSE c, 0),
    (SEQ.STATUS_CCAUSE c, 0), (SEQ.STATUS_HCODE c, 0), (SEQ.STATUS_ABORTED c, 0), (CEL.FQ_DROPS c, 0)]
    ++ (List.range 4).flatMap (fun k => [(SEQ.L_ACTIVE c k, 0), (SEQ.L_COUNT c k, 0), (SEQ.L_TOP c k, 0)])
    ++ (List.range 8).map (fun k => (SEQ.RS_ADDR c k, 0)) ++ (List.range 4).map (fun n => (PIN.CTRL_STAT_EN c n, 0)))
  s1.modCell c fun x =>
    { x with
      word := none, fail := false, evq := [], drive := 0xFF, level := 0xFF, edges := [], lastEdge := [], plan := []
      chk := 0xFFFF, threshHit := false }

/-- R54, R66, R100, R112: what the at least 2 + E strides from the acceptance of a START to its first stride bring in a
member: every slot copy takes effect, changes of fabric conditions come nearer. Both are dated by the strides of their caravan
(log 111). -/
def State.startPipe (s : State) (l c : Nat) : State :=
  (s.applyLoads ((s.run l).sn + 2) c).modCell c fun x =>
    { x with fabOld := rebaseFab (s.run l).sn 0 (2 + s.equalise l) x.fabOld }

/-- R99, R100, R109, R119, R361: an accepted START of lead `l`: steps 1 and 2, the caravan RUNNING or, with CONVOY,
ARMED. -/
def State.startRun (s : State) (l : Nat) (convoy : Bool) : State :=
  let s0 := s.settleAll l
  let pv := s0.provenance l (s0.rd (SEQ.START_PC_ADDR l))
  let s1 := (s0.members l).foldl (fun t c => (t.startPipe l c).startCell c) s0
  let s2 := s1.setRun l
    { Run.reset with
      site := some (s0.rd (CEL.CARAVAN_SITE l)), flags := (s0.run l).flags, provSlot := pv.1, confined := pv.2 }
  let s3 := s2.wr (SEQ.PC_PC l) (s0.rd (SEQ.START_PC_ADDR l))
  ((s3.apgClean l).leavesHalted l).setCv l (if convoy then stArmed else stRunning)

/-- R54, R119, R120: at a Convoy START the ARMED caravan led by `l` leaves ARMED; its first stride comes 2 + E strides later. -/
def State.convoyGoRun (s : State) (l : Nat) : State :=
  let t := (s.members l).foldl (fun t c => t.modCell c fun x =>
    { x with fabOld := rebaseFab (s.run l).sn (s.run l).sn (2 + s.equalise l) x.fabOld }) s
  (t.modRun l fun x => { x with convoyRun := true, convoyGo := false }).setCv l stRunning

/-- R91, R92, R97, R98: RESUME of cell `c` is refused. -/
def State.resumeBad (s : State) (c : Nat) : Bool :=
  !s.isLead c || s.cvState c != stHalted || s.rd (SEQ.STATUS_CCAUSE c) == cLockLost ||
  s.rd (SEQ.STATUS_CCAUSE c) == cContained || (s.run c).bondBroken || s.flag (SEQ.STATUS_ABORTED c) || s.safePins c ||
  !s.pllGood (blockOf c)

/-- R92, R98, R361: the caravan led by `l` continues at PC. The levels of the rings before it do not count any more (log 129). -/
def State.resumeRun (s : State) (l : Nat) (step : Bool) : State :=
  let s1 := (s.leavesHalted l).setCv l stRunning
  let s2 := if 0 < s.rd (SEQ.STREAM_LEFT_WORDS l) then s1.wrAll (s.members l) SEQ.STATUS_STREAMING 1 else s1
  let s3 := s2.modRun l fun x =>
    { x with skipBkpt := true, stepping := step, intervened := true, lvlHist := [], inUnder := false, ends := [] }
  (s3.members l).foldl (fun t c => t.modCell c fun x =>
    { x with fabOld := rebaseFab (s.run l).sn (s.run l).sn (2 + s.equalise l) x.fabOld }) s3

/-- R101: the caravan led by `l` halts at the next stride boundary with cause STOPPED, or with the cause of another halt that
takes effect there. -/
def State.stopRun (s : State) (l : Nat) : State :=
  if s.cvState l == stRunning then s.haltAtBoundary l [(l, cStopped)] else s.haltCaravan l [(l, cStopped)]

/-- R98: ABORT of the caravan led by `l`. -/
def State.abortRun (s : State) (l : Nat) : State :=
  let s1 := if s.busy l then s.stopRun l else s
  (s1.safeCells 1 (s.members l)).wr (SEQ.STATUS_ABORTED l) 1

/-- R98: judge a SEQ command of cell `c`: the state after it and its status. Codes not listed are BAD_ARG. A STEP is refused by the
execute-only windows of the lead alone (log 130). -/
def State.judgeSeq (s : State) (c op desc : Nat) (convoy : Bool) : State × Nat :=
  let st := s.cvState c
  match op with
  | 1 =>
    let t := s.abortSlice ((s.members c).any fun m => (List.range 4).any (s.sliceLane m))
    let k := t.startStatus c
    if k = 0 then (t.startRun c convoy, 0) else (t, k)
  | 2 => if !s.isLead c || st == stIdle || st == stHalted then (s, 3) else (s.stopRun c, 0)
  | 3 =>
    let t := s.abortSlice ((s.members c).any fun m => (List.range 4).any (s.sliceLane m))
    if t.resumeBad c then (t, 3) else (t.resumeRun c false, 0)
  | 4 =>
    let t := s.abortSlice ((s.members c).any fun m => (List.range 4).any (s.sliceLane m))
    if t.resumeBad c || (t.xowOf c (t.rd (SEQ.PC_PC c))).isSome then (t, 3) else (t.resumeRun c true, 0)
  | 5 => if !s.isLead c || st == stIdle then (s, 3) else (s.abortRun c, 0)
  | 6 => if !s.isLead c || st == stIdle then (s, 3) else (s.voidRun c 7 0, 0)
  | 7 => if s.primeBad c desc then (s, 3) else (s.primeRing c desc, 0)
  | 8 => if s.enabled c && s.streaming (s.leadOf c) then (s, 3) else (s.flushRing c, 0)
  | _ => (s, 2)

/-- R13: a refused SEQ command is counted and recorded. -/
def State.rejectSeq (s : State) (c op st : Nat) : State :=
  (s.reject (SEQ.REJECT_COUNT c) (SEQ.LAST_REJECT_CODE c) (SEQ.LAST_REJECT_STATUS c) op st).wr (SEQ.LAST_REJECT_SRC c) 1

/-- R97, R98: a SEQ command of cell `c` is judged and completes. One that is accepted is a write that marks the run, `touch` saying
that a steward gave it (R361); a refused one leaves the run as it is (R13, R100; log 128). -/
def State.runSeq (s : State) (c op desc : Nat) (convoy touch : Bool) : State :=
  let r := s.judgeSeq c op desc convoy
  let t := if r.2 = 0 ∧ touch = true then ((s.seqTouch c).judgeSeq c op desc convoy).1 else r.1
  let u := t.wrs [(SEQ.CMD_STATUS_STATUS c, r.2), (SEQ.CMD_STATUS_OP c, op), (SEQ.CMD_STATUS_PEND c, 0)]
  if r.2 = 0 then u else u.rejectSeq c op r.2

/-- R97: the stride clock of block `b` is stopped in a way that ends without a further command: its PLL is ACQUIRING, or the
device is frozen with a PLL that is not OFF, LOST or FAIL. -/
def State.clockPaused (s : State) (b : Nat) : Bool := s.pllState b == pllAcquiring || (s.frozen && s.pllGood b)

/-- R97: a write of SEQ.CMD in cell `c`, by a steward where `touch` holds: refused with BUSY while a command is pending, kept
while the clock is paused, otherwise judged. -/
def State.seqCommand (s : State) (c op desc : Nat) (convoy touch : Bool) : State :=
  if s.flag (SEQ.CMD_STATUS_PEND c) then s.rejectSeq c op 1
  else if s.clockPaused (blockOf c) then
    (s.wr (SEQ.CMD_STATUS_PEND c) 1).modCell c fun x => { x with seqCmd := some ⟨op, desc, convoy, touch⟩ }
  else s.runSeq c op desc convoy touch

/-- R97: the pending commands of block `b` are judged where its clock has run again or stopped for good. -/
def State.judgePending (s : State) (b : Nat) : State :=
  if s.clockPaused b then s
  else (blockCells b).foldl (fun t c =>
    match (t.cell c).seqCmd with
    | none => t
    | some q => (t.modCell c fun x => { x with seqCmd := none }).runSeq c q.op q.desc q.convoy q.touch) s

/-- START (R98 to R100) written to cell `c`. -/
def execStart (c : Nat) (convoy : Bool) (s : State) : Host.Outcome State Fault Refusal :=
  .next (s.atReg 0 (SEQ.CMD_OP c).addr fun s => s.seqCommand c 1 0 convoy true)
/-- STOP (R98, R101). -/
def execStop (c : Nat) (s : State) : Host.Outcome State Fault Refusal :=
  .next (s.atReg 0 (SEQ.CMD_OP c).addr fun s => s.seqCommand c 2 0 false true)
/-- RESUME (R92, R98). -/
def execResume (c : Nat) (s : State) : Host.Outcome State Fault Refusal :=
  .next (s.atReg 0 (SEQ.CMD_OP c).addr fun s => s.seqCommand c 3 0 false true)
/-- STEP (R98). -/
def execStep (c : Nat) (s : State) : Host.Outcome State Fault Refusal :=
  .next (s.atReg 0 (SEQ.CMD_OP c).addr fun s => s.seqCommand c 4 0 false true)
/-- ABORT (R98, R162). -/
def execAbort (c : Nat) (s : State) : Host.Outcome State Fault Refusal :=
  .next (s.atReg 0 (SEQ.CMD_OP c).addr fun s => s.seqCommand c 5 0 false true)
/-- VOID (R94, R98). -/
def execVoid (c : Nat) (s : State) : Host.Outcome State Fault Refusal :=
  .next (s.atReg 0 (SEQ.CMD_OP c).addr fun s => s.seqCommand c 6 0 false true)
/-- PRIME (R82, R98). -/
def execPrime (c desc : Nat) (s : State) : Host.Outcome State Fault Refusal :=
  .next (s.atReg 0 (SEQ.CMD_OP c).addr fun s => s.seqCommand c 7 desc false true)
/-- FLUSH (R82, R98). -/
def execFlush (c : Nat) (s : State) : Host.Outcome State Fault Refusal :=
  .next (s.atReg 0 (SEQ.CMD_OP c).addr fun s => s.seqCommand c 8 0 false true)

/-! ### Registers of the cell with effects of their own -/

/-- R103: a write of SEQ.NEXT_PC arms the pointer. -/
def State.writeNextPc (s : State) (c v : Nat) : State :=
  s.wrs [(SEQ.NEXT_PC_ADDR c, v), (SEQ.NEXT_PC_ARMED c, 1)]

/-- NEXT_PC_WRITE (R103). -/
def execNextPcWrite (c v : Nat) (s : State) : Host.Outcome State Fault Refusal :=
  .next (s.atReg 0 (SEQ.NEXT_PC_ADDR c).addr fun s => (s.seqTouch c).writeNextPc c v)

/-- R55: a write of SEQ.EVT. -/
def State.writeEvt (s : State) (c v : Nat) : State :=
  if !bitOf v 0 then s else if s.isLead c then s.wr (SEQ.STATUS_EVT c) 1 else s.seqIgnored c

/-- EVT_SET (R55). -/
def execEvtSet (c v : Nat) (s : State) : Host.Outcome State Fault Refusal :=
  .next (s.atReg 0 (SEQ.EVT_SET c).addr fun s => (s.seqTouch c).writeEvt c v)

/-- R67: what SEQ.EVQ reads as. -/
def State.evqView (s : State) (c : Nat) : Nat :=
  match (s.cell c).evq with
  | [] => 0
  | v :: t => v + 2 ^ 16 * (t.length + 1) + 2 ^ 31

/-- R67: a read of SEQ.EVQ removes the oldest code. -/
def State.popEvq (s : State) (c : Nat) : State := s.modCell c fun x => { x with evq := x.evq.drop 1 }

/-- EVQ_READ (R67). -/
def execEvqRead (c : Nat) (s : State) : Host.Outcome State Fault Refusal :=
  .next (s.atReg 0 (SEQ.EVQ_CODE c).addr fun s => { s.popEvq c with answer := [s.evqView c] })

/-- R82: a write of SDn_CTRL.ARM = 1. -/
def State.armDesc (s : State) (c n : Nat) : State :=
  if s.rd (SEQ.SD_LEN_LEN c n) = 0 ∨ s.flag (SEQ.RING_EN c) = false then s.seqIgnored c
  else if s.flag (SEQ.SD_CTRL_ARMED c n) then s
  else
    (s.wr (SEQ.SD_CTRL_ARMED c n) 1).modCell c fun x =>
      { x with
        sdSpent := clearBit x.sdSpent n
        sdRead := (List.range 4).map fun k => if k = n then 0 else x.sdRead.getD k 0
        sdUsed := (List.range 4).map fun k => if k = n then 0 else x.sdUsed.getD k 0 }

/-- ARM_DESCRIPTOR (R82). -/
def execArmDescriptor (c n : Nat) (s : State) : Host.Outcome State Fault Refusal :=
  .next (s.atReg 0 (SEQ.SD_CTRL_ARMED c n).addr fun s => (s.seqTouch c).armDesc c n)

/-- R360: a valid execute-only window of cell `c` reaches into scratchpad half `h`. -/
def State.windowInHalf (s : State) (c h : Nat) : Bool :=
  (List.range 4).any fun n => s.flag (CEL.XOW_VALID c n) && decide (s.rd (CEL.XOW_BASE c n) / 4096 ≤ h) &&
    decide (h ≤ s.rd (CEL.XOW_LIMIT c n) / 4096)

/-- A field after a write of the bits of `mask`. -/
def State.merged (s : State) (f : Fld) (mask v : Nat) : Nat :=
  Nat.lor (Nat.land (s.rd f) (notW (bits mask f.lsb f.width) f.width)) (Nat.land (bits v f.lsb f.width) (bits mask f.lsb f.width))

/-- R81, R89, R102, R360: a write of SEQ.RING. -/
def State.writeRing (s : State) (c mask v : Nat) : State :=
  let en := s.merged (SEQ.RING_EN c) mask v
  let half := s.merged (SEQ.RING_HALF c) mask v
  let change := en != s.rd (SEQ.RING_EN c) || half != s.rd (SEQ.RING_HALF c)
  if change && en == 1 && s.windowInHalf c half then s.seqIgnored c
  else
    let t1 := s.wrs [(SEQ.RING_WARN_LEVEL c, s.merged (SEQ.RING_WARN_LEVEL c) mask v),
      (SEQ.RING_PAUSE_LEVEL c, s.merged (SEQ.RING_PAUSE_LEVEL c) mask v)]
    if !change then t1
    else if s.cellBusy c then t1.seqIgnored c
    else (t1.flushRing c).wrs [(SEQ.RING_EN c, en), (SEQ.RING_HALF c, half)]

/-- RING_WRITE (R81): a write of the bits `mask` of SEQ.RING. -/
def execRingWrite (c mask v : Nat) (s : State) : Host.Outcome State Fault Refusal :=
  .next (s.atReg 0 (SEQ.RING_EN c).addr fun s => (s.seqTouch c).writeRing c mask v)

/-- R50: a write of a Pin Source Map register. -/
def State.writePsm (s : State) (c n mask v : Nat) : State :=
  s.wr (SEQ.PSM_ENTRIES c n) (s.merged (SEQ.PSM_ENTRIES c n) mask v)

/-- PSM_WRITE (R50). -/
def execPsmWrite (c n mask v : Nat) (s : State) : Host.Outcome State Fault Refusal :=
  .next (s.atReg 0 (SEQ.PSM_ENTRIES c n).addr fun s => (s.seqTouch c).writePsm c n mask v)

end Sys2Proof.Machine
end

