-- ==== Sys2Proof/Machine/Caravan.lean ====
section
/-! DEFINITION. Caravans (spec/04): the release of sync groups, membership, gangs, APG ownership, group masks. -/

namespace Sys2Proof.Machine

/-! ### Releases (R114 to R118, R121, R261) -/

/-- R114: every caravan of group `n` has arrived, and the group has members. -/
def State.groupComplete (s : State) (n : Nat) : Bool :=
  ((List.range 4).all fun r => Nat.land (s.rd (RGN.SGRP_MASK r n)) (s.rd (RGN.SGARR_ARRIVED r n)) == s.rd (RGN.SGRP_MASK r n)) &&
    ((List.range 4).any fun r => s.rd (RGN.SGRP_MASK r n) != 0)

/-- R121: group `n` holds an arrival with CONVOY = 1. -/
def State.groupConvoy (s : State) (n : Nat) : Bool :=
  (List.range 4).any fun r => (s.region r).cvArrived.any fun e => e.1 == n

/-- R121: the groups that hold an arrival with CONVOY = 1. -/
def State.convoyGroups (s : State) : List Nat :=
  ((List.range 4).flatMap fun r => (s.region r).cvArrived.map (·.1)).eraseDups

/-- R121: the groups that wait for the Convoy release. -/
def State.convoyWaiting (s : State) : List Nat := s.convoyGroups.filter s.groupComplete

/-- R117: the caravan led by `l` has been released from its group, but its stride clock stood still. -/
def State.releasePending (s : State) (l : Nat) : Bool :=
  match (s.run l).phase with
  | .atSync g _ _ _ true => !bitOf (s.rd (RGN.SGARR_ARRIVED (regionOf l) g)) (l % 64)
  | _ => false

/-- R361: a SYNC SWITCH to NEXT_PC restarts the record by the rule for START. -/
def State.restartProvenance (s : State) (l next : Nat) : State :=
  let p := s.provenance l next
  s.modRun l fun x => { x with provSlot := p.1, confined := p.2, intervened := false }

/-- R261: a caravan with a member in block `b` is ARMED or RUNNING and does not hold for a swap. -/
def State.swapDeferred (s : State) (b : Nat) : Bool :=
  (s.leadsInBlock b).any fun l => s.busy l && (match (s.run l).phase with
    | .released _ _ true => false
    | _ => true)

/-- The blocks in which the caravan led by `l` has members. -/
def State.blocksOf (s : State) (l : Nat) : List Nat := ((s.members l).map blockOf).eraseDups

/-- R103, R115, R117, R261: the release reaches the caravan led by `l` at a stride boundary R: the word at `next` executes
2 + E strides later, which are hold strides. A halt at R (the stride limit) takes effect instead of the release; one in the course
of those strides leaves the SYNC to be executed again (log 110). -/
def State.takeRelease (s : State) (l : Nat) : State :=
  match (s.run l).phase with
  | .atSync _ _ sw sp _ =>
    if s.atScLimit l then s.haltBefore l (s.limitCauses l)
    else
      let next := if sw then s.rd (SEQ.NEXT_PC_ADDR l) else s.nextPc l
      let s1 := if sw then (s.wr (SEQ.NEXT_PC_ARMED l) 0).restartProvenance l next else s
      let s2 := s1.modRun l fun x => { x with phase := .released next (2 + s.equalise l) sp }
      if sp then
        (s.blocksOf l).foldl (fun t b => t.modBlock b fun x =>
          { x with swap := .scheduled, swapLeads := x.swapLeads ++ [l] }) s2
      else s2
  | _ => s

/-- R114: the leads recorded as arrived at group `n`. -/
def State.arrivedAt (s : State) (n : Nat) : List Nat :=
  (List.range 4).flatMap fun r => (onesBelow (s.rd (RGN.SGARR_ARRIVED r n)) 64).map (64 * r + ·)

/-- R261: a swap that is deferred waits. -/
def State.showSwapWait (s : State) (b : Nat) : State :=
  if (s.block b).swap == .scheduled && s.swapDeferred b then
    (s.modBlock b fun x => { x with swap := .waiting }).wr (FAB.STATUS_SWAP_WAIT b) 1
  else s

/-- R114 to R117: group `n` releases: its arrival bits clear, and every caravan whose clock runs is released; the
others are when their clock runs again. -/
def State.releaseGroup (s : State) (n : Nat) : State :=
  let ls := s.arrivedAt n
  let s1 := (List.range 4).foldl (fun t r => (t.wr (RGN.SGARR_ARRIVED r n) 0).modRegion r fun x =>
    { x with cvArrived := x.cvArrived.filter fun e => e.1 != n }) s
  let s2 := ls.foldl (fun t l => if t.clockRuns (blockOf l) then t.takeRelease l else t) s1
  ((ls.flatMap s.blocksOf).eraseDups).foldl State.showSwapWait s2

/-- R114: group `n` is judged: it releases when it is complete and does not wait for the Convoy link. -/
def State.judgeGroup (s : State) (n : Nat) : State :=
  if s.groupComplete n && !s.groupConvoy n then s.releaseGroup n else s

/-- R121: one Convoy release frees every group that waits for it. -/
def State.convoyRelease (s : State) : State := s.convoyWaiting.foldl State.releaseGroup s

/-- R121, R458: the device signals its Convoy arrival: some group holds an arrival with CONVOY = 1, and every such group
is complete. CVY_FLAG_N is released. -/
def State.signalArrival (s : State) : State :=
  if s.flag CVY.STATUS_FLAG_OUT && !s.convoyGroups.isEmpty && s.convoyGroups.all s.groupComplete then
    s.wrs [(CVY.STATUS_FLAG_OUT, 0), (CVY.STATUS_ARRIVED, 1)]
  else s

/-- SYNC_RELEASE (R115): group `n` is judged and releases, and the Convoy arrival is signalled; a caravan of it that was
released while its clock stood still continues. -/
def execSyncRelease (n : Nat) (s : State) : Host.Outcome State Fault Refusal :=
  .next ((s.allLeads.filter fun l => s.releasePending l && s.clockRuns (blockOf l)).foldl State.takeRelease
    (s.judgeGroup n).signalArrival)

/-! ### The stride clock of a block starts again -/

/-- R119, R120: a Convoy START or STOP that came while the stride clock of lead `l` stood still takes effect. -/
def State.convoyPending (s : State) (l : Nat) : State :=
  let r := s.run l
  if r.convoyHalt && s.busy l then s.stopRun l
  else if r.convoyGo && s.cvState l == stArmed then s.convoyGoRun l
  else s

/-- R97, R117: the clocks of block `b` run again: at the first stride boundary the pending SEQ commands and Convoy
commands are judged, and releases that came meanwhile take effect where the caravan has not halted. -/
def State.clockStarted (s : State) (b : Nat) : State :=
  let t := s.judgePending b
  let on := (s.leadsInBlock b).filter fun l => s.clockRuns (blockOf l)
  on.foldl (fun u l => let v := u.convoyPending l; if v.releasePending l then v.takeRelease l else v) t

/-! ### Membership (R105 to R109) -/

/-- R105: the cells that an enabled cell of region `r` with identifier `cid` shares a caravan with, but for `c`. -/
def State.sharing (s : State) (r cid c : Nat) : List Nat :=
  (regionCells r).filter fun k => k != c && s.enabled k && s.rd (CEL.CARAVAN_CID k) == cid

/-- R105: CID `cid` is enabled in a region other than `r`. The cells of a block that is powered off are not in the directory
(log 105). -/
def State.cidElsewhere (s : State) (r cid : Nat) : Bool :=
  (List.range 4).any fun q => q != r && !(s.sharing q cid 256).isEmpty

/-- R107: the derived fields of a caravan's cells. -/
def State.deriveCells (s : State) (cs : List Nat) : State :=
  let l := cs.foldl min 255
  let span := b2n (decide (1 < (cs.map blockOf).eraseDups.length))
  cs.foldl (fun t c => t.wrs <| [(CEL.CARAVAN_LEAD c, l), (CEL.CARAVAN_IS_LEAD c, b2n (c == l)), (CEL.CARAVAN_SPAN c, span),
    (CEL.CARAVAN_MEMBERS c, cs.length), (SEQ.STATUS_STATE c, stIdle),
    (SEQ.STATUS_VOID c, s.rd (SEQ.VOID_VOID l))]
    ++ (if c = l then [] else [(SEQ.STATUS_MATCH c, 0), (SEQ.STATUS_MTO c, 0), (SEQ.STATUS_EVT c, 0), (SEQ.STATUS_ABORTED c, 0),
      (SEQ.STATUS_ORIGIN c, 0), (SEQ.STATUS_CCAUSE c, 0)])) s

/-- R108, R363: a caravan that gains or loses a cell: its run ends, its bonded session closes. -/
def State.endMembership (s : State) (l : Nat) : State :=
  let t := (s.settleAll l).leavesHalted l
  let sn := (s.run l).sn
  let u := ((s.members l).foldl (fun v c => v.modCell c fun x =>
      { x with fabOld := rebaseFab sn 0 0 x.fabOld, loads := x.loads.map fun e => { e with due := e.due - sn } }) t).setRun l
    { Run.reset with flags := (t.run l).flags }
  let open_ := u.bonds.filter fun b => b.lead == l
  open_.foldl (fun v b => v.wrs [(OBJ.BOND_OPEN b.k, 0), (OBJ.BOND_LEAD b.k, 0), (OBJ.BOND_SLOT b.k, 0), (OBJ.BOND_SECTION b.k, 0),
    (OBJ.BOND_BITS b.k, 0)]) { u with bonds := u.bonds.filter fun b => b.lead != l }

/-- RGN.LEADS of region `r`. -/
def State.deriveLeads (s : State) (r : Nat) : State :=
  s.wr (RGN.LEADS_LEADS r) ((List.range 64).foldl (fun v i => putBit v i (s.isLead (64 * r + i))) 0)

/-- R107, R108: the caravans of region `r` with the identifiers `cids` are formed anew, those that still have cells: they are
IDLE. Their runs ended before (`State.endMembership`). -/
def State.reform (s : State) (r : Nat) (cids : List Nat) : State :=
  let cells (t : State) (k : Nat) : List Nat := (regionCells r).filter fun c => t.enabled c && t.rd (CEL.CARAVAN_CID c) == k
  let t := cids.foldl (fun u k => u.deriveCells (cells u k)) s
  (((cids.map (cells t)).filter (!·.isEmpty)).foldl (fun u cs =>
    u.setRun (cs.foldl min 255) { Run.reset with flags := (u.run (cs.foldl min 255)).flags }) t).deriveLeads r

/-- The identifiers of the enabled cells of block `b`. -/
def State.cidsOf (s : State) (b : Nat) : List Nat :=
  (((blockCells b).filter s.enabled).map fun c => s.rd (CEL.CARAVAN_CID c)).eraseDups

/-- The leads of the caravans of region `r` with the identifiers `cids`. -/
def State.leadsWith (s : State) (r : Nat) (cids : List Nat) : List Nat :=
  (s.leadsOf r).filter fun l => cids.contains (s.rd (CEL.CARAVAN_CID l))

/-- R105 to R109: a write of the bits `mask` of CEL.CARAVAN of cell `c`. -/
def State.writeCaravan (s : State) (c mask v : Nat) : State :=
  let r := regionOf c
  let cid := s.merged (CEL.CARAVAN_CID c) mask v
  let site := s.merged (CEL.CARAVAN_SITE c) mask v
  let en := s.merged (CEL.CARAVAN_EN c) mask v
  let oldCid := s.rd (CEL.CARAVAN_CID c)
  let wasOn := s.enabled c
  if cid = oldCid ∧ en = s.rd (CEL.CARAVAN_EN c) then
    if site = s.rd (CEL.CARAVAN_SITE c) then s
    else if s.cellBusy c then s.seqIgnored c else s.wr (CEL.CARAVAN_SITE c) site
  else
    let joined := if en = 1 then s.sharing r cid c else []
    let left := if wasOn then s.sharing r oldCid c else []
    if (en == 1 && s.cidElsewhere r cid) || s.cellBusy c || joined.any s.cellBusy ||
        joined.any (fun k => s.gangSource (blockOf k) != s.gangSource (blockOf c)) then s.seqIgnored c
    else
      let oldLeads := ((c :: joined ++ left).map s.leadOf).eraseDups
      let s1 := oldLeads.foldl State.endMembership s
      let s2 := s1.wrs [(CEL.CARAVAN_CID c, cid), (CEL.CARAVAN_SITE c, site), (CEL.CARAVAN_EN c, en)]
      let stays := wasOn && en == 1 && cid == oldCid
      let s3 := (s2.deriveCells (c :: joined))
      let s4 := if left.isEmpty || stays then s3 else s3.deriveCells left
      let newLeads := ((c :: joined ++ left).map s4.leadOf).eraseDups
      (newLeads.foldl (fun t l => t.setRun l { Run.reset with flags := (t.run l).flags }) s4).deriveLeads r

/-- CEL_CARAVAN_WRITE (R105): a write of the bits `mask` of CEL.CARAVAN of cell `c`. -/
def execCelCaravanWrite (c mask v : Nat) (s : State) : Host.Outcome State Fault Refusal :=
  .next (s.atReg 0 (CEL.CARAVAN_CID c).addr fun s => s.writeCaravan c mask v)

/-! ### Gangs (R110, R192) -/

/-- R110: GIDk of RGN.GANG. -/
def gidF (r k : Nat) : Fld := ⟨regionBase r + 0x1000, 3 * k, 3, k⟩

/-- R110: the source of block `k` of region `r` under the gang fields `g`. -/
def sourceUnder (g : List Nat) (r k : Nat) : Nat :=
  8 * r + (((List.range 8).find? fun j => g.getD j 0 == g.getD k 0).getD k)

/-- R192: block `b` joins a gang under another source: its own PLL becomes OFF; a STEP in progress completes with
FAULT (log 21). -/
def State.joinGang (s : State) (b src : Nat) : State :=
  let s1 := s.wrs [(PLL.STATUS_GANGED b, 1), (PLL.STATUS_SRC_BLOCK b, src)]
  let s2 := if s.rd (PLL.STATUS_STATE b) = pllRamping then
      s1.wrs [(PLL.CMD_STATUS_STATUS b, 6), (PLL.CMD_STATUS_PEND b, 0), (PLL.EVENT_DONE b, 1)]
    else s1
  (s2.wrs [(PLL.STATUS_STATE b, pllOff), (PLL.STATUS_CLAMPED b, 0)]).modBlock b fun x => { x with rampMult := 0 }

/-- R110, R192: block `b` changes its clock source to `src`. -/
def State.changeSource (s : State) (b src : Nat) : State :=
  let s1 := s.modBlock b fun x => { x with srcSwitch := some src, needSet := src == b }
  if src = b then s1.wrs [(PLL.STATUS_GANGED b, 0), (PLL.STATUS_SRC_BLOCK b, b)]
  else s1.joinGang b src

/-- R110: a write of the bits `mask` of RGN.GANG of region `r`. -/
def State.writeGang (s : State) (r mask v : Nat) : State :=
  let new := (List.range 8).map fun k => s.merged (gidF r k) mask v
  let changed := (List.range 8).filter fun k => sourceUnder new r k != s.gangSource (8 * r + k)
  let split := (s.leadsOf r).any fun l =>
    (s.members l).any fun c => sourceUnder new r (blockOf c % 8) != sourceUnder new r (blockOf l % 8)
  if changed.any (fun k => s.blockBusy (8 * r + k)) || split then s.rgnIgnored r
  else
    let s1 := s.wrs ((List.range 8).map fun k => (gidF r k, new.getD k 0))
    changed.foldl (fun t k => t.changeSource (8 * r + k) (sourceUnder new r k)) s1

/-- GANG_WRITE (R110). -/
def execGangWrite (r mask v : Nat) (s : State) : Host.Outcome State Fault Refusal :=
  .next (s.atReg 0 (RGN.GANG_GID0 r).addr fun s => s.writeGang r mask v)

/-! ### APG ownership and group masks -/

/-- R111: a write of the bits `mask` of RGN.APG_OWN of region `r`. A field with V = 0 names no cell. -/
def State.writeApgOwn (s : State) (r mask v : Nat) : State :=
  let lead k := s.merged (apgLeadF r k) mask v
  let valid k := s.merged (apgValidF r k) mask v
  let changed := (List.range 8).filter fun k => lead k != s.rd (apgLeadF r k) || valid k != s.rd (apgValidF r k)
  let bad := changed.any fun k =>
    ((s.apgHolder (8 * r + k)).any s.busy) || (valid k == 1 && s.isLead (64 * r + lead k) && s.busy (64 * r + lead k))
  if bad then s.rgnIgnored r
  else changed.foldl (fun t k => t.wrs [(apgLeadF r k, lead k), (apgValidF r k, valid k)]) s

/-- APG_OWN_WRITE (R111). -/
def execApgOwnWrite (r mask v : Nat) (s : State) : Host.Outcome State Fault Refusal :=
  .next (s.atReg 0 (apgLeadF r 0).addr fun s => s.writeApgOwn r mask v)

/-- R118: the caravan led by `l` waits at group `n`. -/
def State.waitsAt (s : State) (l n : Nat) : Bool :=
  s.isLead l && s.cvState l == stRunning && !s.releasePending l && (match (s.run l).phase with
    | .atSync g _ _ _ _ => g == n
    | _ => false)

/-- R118: a write of the bits `mask` of RGN.SGRPn of region `r`. -/
def State.writeSgrp (s : State) (r n mask v : Nat) : State :=
  let old := s.rd (RGN.SGRP_MASK r n)
  let new := s.merged (RGN.SGRP_MASK r n) mask v
  if (List.range 64).any fun i => bitOf old i && !bitOf new i && s.waitsAt (64 * r + i) n then s.rgnIgnored r
  else ((s.wr (RGN.SGRP_MASK r n) new).judgeGroup n).signalArrival

/-- SGRP_WRITE (R118). -/
def execSgrpWrite (r n mask v : Nat) (s : State) : Host.Outcome State Fault Refusal :=
  .next (s.atReg 0 (RGN.SGRP_MASK r n).addr fun s => s.writeSgrp r n mask v)

end Sys2Proof.Machine
end

