-- ==== Sys2Proof/Machine/Pins.lean ====
section
/-! DEFINITION. Pin electronics (spec/06) and the steward's writes of the timing registers (spec/08). -/

namespace Sys2Proof.Machine

/-- Lane `n` of cell `c` is in C mode. -/
def State.cMode (s : State) (c n : Nat) : Bool := bitOf (s.rd (SEQ.LMODE_LMODE c)) n

/-- The retained drive state of a lane. -/
def State.setDrive (s : State) (c n v : Nat) : State := s.modCell c fun x => { x with drive := setField x.drive (2 * n) 2 v }
/-- What a lane's driver drives. -/
def State.setLevel (s : State) (c n v : Nat) : State :=
  s.modCell c fun x => { x with level := setField x.level (2 * n) 2 v, plan := x.plan.filter fun e => e.lane != n }

/-- R157: a change disturbs the pending measurement of a lane. -/
def State.disturb (s : State) (c n : Nat) : State :=
  s.modBlock (blockOf c) fun x => { x with adcQ := x.adcQ.map fun q => if q.pin = 4 * c + n then { q with disturb := true } else q }

/-- R146: a level in use of a lane changes. -/
def State.levelsMove (s : State) (c n : Nat) : State := (s.disturb c n).wr (PIN.STATE_LS_BUSY c n) 1

/-- R142, R160: what the driver of an enabled lane drives outside strides: STAT under static drive, else the retained
drive state in D mode, else nothing. -/
def State.restLevel (s : State) (c n : Nat) : Nat :=
  if bitOf (s.cell c).entering n then 3
  else if s.flag (PIN.CTRL_STAT_EN c n) then s.rd (PIN.CTRL_STAT c n)
  else if s.cMode c n then 3 else bits (s.cell c).drive (2 * n) 2

/-- R160: static drive of a lane that is enabled, not in the PPMU state and not entering the safe state (R162). -/
def State.staticDrive (s : State) (c n : Nat) : State :=
  if s.flag (PIN.CTRL_STAT_EN c n) && s.flag (PIN.CTRL_EN c n) && s.rd (PIN.PMU_MODE c n) == 0 && !s.cellBusy c &&
      !bitOf (s.cell c).entering n then
    (s.setDrive c n (s.rd (PIN.CTRL_STAT c n))).setLevel c n (s.rd (PIN.CTRL_STAT c n))
  else s

/-- R163, R168, R378: a lane may be enabled; `unused` and `uncal` are as the write leaves them. Its block is powered, and no
reload of the block's calibration runs. -/
def State.mayEnable (s : State) (c n unused uncal : Nat) : Bool :=
  let src := s.rd (PIN.STATE_CAL_SRC c n)
  s.flag (PIN.STATE_SAFE c n) && !s.cellBusy c && unused == 0 && s.rd LC.STATE_STATE != 7 && s.blockOn (blockOf c) &&
    !s.cal.contains (.block (blockOf c)) &&
    (src == 1 || src == 2 || (uncal == 1 && s.flag (SEQ.CTRL_SERVICE c)))

/-- R163: an accepted enable. -/
def State.enableLane (s : State) (c n : Nat) : State :=
  let s1 := (s.wrs [(PIN.CTRL_EN c n, 1), (PIN.STATE_SAFE c n, 0)]).modCell c fun x => { x with entering := clearBit x.entering n }
  if s.cMode c n then s1.setLevel c n 3 else (s1.setDrive c n 3).setLevel c n 3

/-- R143, R145, R146, R160, R161, R163: a write of the bits `mask` of PIN.CTRLn. -/
def State.writePinCtrl (s0 : State) (c n mask v : Nat) : State :=
  let s := s0.abortSlice (s0.sliceLane c n)
  let new f := s.merged f mask v
  let busy := s.cellBusy c
  let en := new (PIN.CTRL_EN c n)
  let on := s.flag (PIN.CTRL_EN c n)
  let sen := new (PIN.CTRL_STAT_EN c n)
  let held := busy && new (PIN.CTRL_UNUSED c n) != s.rd (PIN.CTRL_UNUSED c n)
  let unused := if held then s.rd (PIN.CTRL_UNUSED c n) else new (PIN.CTRL_UNUSED c n)
  if new (PIN.CTRL_TERM c n) = 3 ∨ new (PIN.CTRL_STAT c n) = 2 ∨ (busy = true ∧ sen = 1) ∨
      (en = 1 ∧ on = false ∧ s.mayEnable c n unused (new (PIN.CTRL_UNCAL c n)) = false) ∨
      (en = 0 ∧ on = true ∧ busy = true) then s.pinIgnored c
  else
    let moves := new (PIN.CTRL_LSEL c n) != s.rd (PIN.CTRL_LSEL c n)
    let ended := s.flag (PIN.CTRL_STAT_EN c n) && sen == 0
    let s1 := s.wrs [(PIN.CTRL_UNUSED c n, unused), (PIN.CTRL_UNCAL c n, new (PIN.CTRL_UNCAL c n)),
      (PIN.CTRL_LSEL c n, new (PIN.CTRL_LSEL c n)), (PIN.CTRL_TERM c n, new (PIN.CTRL_TERM c n)),
      (PIN.CTRL_STAT_EN c n, sen), (PIN.CTRL_STAT c n, new (PIN.CTRL_STAT c n))]
    let s2 := if held then s1.pinIgnored c else s1
    let s3 := if moves then s2.levelsMove c n else s2
    let s4 := if en = 1 ∧ on = false then s3.enableLane c n
      else if en = 0 ∧ on = true then (s3.enterSafe c n 4).wr (PIN.CTRL_EN c n) 0
      else if unused = 1 then (s3.enterSafe c n (s3.freeVal 4)).drawn
      else if ended && on && s3.rd (PIN.PMU_MODE c n) == 0 && s3.cMode c n then s3.setLevel c n 3
      else s3
    s4.staticDrive c n

/-- LANE_ENABLE (R163): a write of PIN.CTRLn with EN = 1. -/
def execLaneEnable (c n mask v : Nat) (s : State) : Host.Outcome State Fault Refusal :=
  .next (s.atReg 0 (PIN.CTRL_EN c n).addr fun s => s.writePinCtrl c n (setBit mask 0) (setBit v 0))

/-- LANE_DISABLE (R161): a write of PIN.CTRLn with EN = 0. -/
def execLaneDisable (c n mask v : Nat) (s : State) : Host.Outcome State Fault Refusal :=
  .next (s.atReg 0 (PIN.CTRL_EN c n).addr fun s => s.writePinCtrl c n (setBit mask 0) (clearBit v 0))

/-- STATIC_DRIVE (R160): a write of PIN.CTRLn with STAT_EN = 1. -/
def execStaticDrive (c n mask v : Nat) (s : State) : Host.Outcome State Fault Refusal :=
  .next (s.atReg 0 (PIN.CTRL_EN c n).addr fun s => s.writePinCtrl c n (setBit mask 6) (setBit v 6))

/-- R144: the largest level code. -/
abbrev maxCode : Nat := 41000

/-- The level fields of PIN.LSAn_m (0) or PIN.LSBn_m (1). -/
def levelFields (c n m which : Nat) : List Fld :=
  if which = 0 then [PIN.LSA_VIH c n m, PIN.LSA_VIL c n m, PIN.LSA_VOH c n m, PIN.LSA_VOL c n m] else [PIN.LSB_VTT c n m]

/-- R144 to R146: a write of the bits `mask` of a level register. -/
def State.writeLevels (s0 : State) (c n m which mask v : Nat) : State :=
  let s := s0.abortSlice (s0.sliceLane c n)
  let fs := levelFields c n m which
  if fs.any fun f => decide (maxCode < s.merged f mask v) then s.pinIgnored c
  else
    let change := fs.any fun f => s.merged f mask v != s.rd f
    let s1 := s.wrs (fs.map fun f => (f, s.merged f mask v))
    if change && m == s.rd (PIN.CTRL_LSEL c n) then s1.levelsMove c n else s1

/-- LEVEL_SET_WRITE (R146): `which` is 0 for PIN.LSAn_m, 1 for PIN.LSBn_m, 2 for the LSEL bit of PIN.CTRLn. -/
def execLevelSetWrite (c n m which mask v : Nat) (s : State) : Host.Outcome State Fault Refusal :=
  .next (s.atReg 0 (PIN.LSA_VOH c n m).addr fun s => if which = 2 then s.writePinCtrl c n (Nat.land mask 8) v else s.writeLevels c n m which mask v)

/-- LS_SETTLED (R146): the settling time of lane `n` has passed. -/
def execLsSettled (c n : Nat) (s : State) : Host.Outcome State Fault Refusal := .next (s.wr (PIN.STATE_LS_BUSY c n) 0)

/-! ### PPMU and the block ADC (R153 to R158) -/

/-- R144, R153: a write of the bits `mask` of PIN.PMUn. -/
def State.writePmu (s0 : State) (c n mask v : Nat) : State :=
  let s := s0.abortSlice (s0.sliceLane c n)
  let new f := s.merged f mask v
  let mode := new (PIN.PMU_MODE c n)
  let changes := mode != s.rd (PIN.PMU_MODE c n) || new (PIN.PMU_RANGE c n) != s.rd (PIN.PMU_RANGE c n)
  if mode = 3 ∨ maxCode < new (PIN.PMU_VCLH c n) ∨ maxCode < new (PIN.PMU_VCLL c n) ∨
      (mode = 1 ∧ maxCode < new (PIN.PMU_FORCE c n)) ∨
      (changes = true ∧ (s.cellBusy c = true ∨ s.flag (PIN.CTRL_EN c n) = false ∨ s.flag (PIN.CTRL_UNUSED c n) = true)) then
    s.pinIgnored c
  else
    let moved := ([PIN.PMU_RANGE c n, PIN.PMU_FORCE c n, PIN.PMU_VCLH c n, PIN.PMU_VCLL c n]).any fun f => new f != s.rd f
    let s1 := s.wrs (([PIN.PMU_MODE c n, PIN.PMU_RANGE c n, PIN.PMU_FORCE c n, PIN.PMU_VCLH c n, PIN.PMU_VCLL c n]).map
      fun f => (f, new f))
    let s2 := if moved then s1.disturb c n else s1
    if mode = s.rd (PIN.PMU_MODE c n) then s2
    else if mode = 0 then (s2.setLevel c n (s2.restLevel c n)).staticDrive c n
    else s2.setLevel c n 3

/-- PMU_WRITE (R153). -/
def execPmuWrite (c n mask v : Nat) (s : State) : Host.Outcome State Fault Refusal :=
  .next (s.atReg 0 (PIN.PMU_MODE c n).addr fun s => s.writePmu c n mask v)

/-- The event source of the measurements of block `b`. -/
def adcSource (b : Nat) : Nat := 1024 + 4 * b + 2

/-- The fields of RESULTn with the values given: VALUE, VALID, KIND, CLAMP, OVER, DISTURB, ABORTED. -/
def resultFields (c n : Nat) (l : List Nat) : List (Fld × Nat) :=
  [PIN.RESULT_VALUE c n, PIN.RESULT_VALID c n, PIN.RESULT_KIND c n, PIN.RESULT_CLAMP c n, PIN.RESULT_OVER c n,
    PIN.RESULT_DISTURB c n, PIN.RESULT_ABORTED c n].zip l

/-- R156, R158: a write of the bits `mask` of PIN.MEASn; GO when bit 0 of the write is 1. While PEND is 1, GO alone is ignored
(log 134). -/
def State.writeMeas (s0 : State) (c n mask v : Nat) : State :=
  let go := bitOf mask 0 && bitOf v 0
  let b := blockOf c
  let s := s0.abortSlice (s0.sliceLane c n || (go && s0.sliceAdc b))
  let s1 := s.wrs (([PIN.MEAS_SRC c n, PIN.MEAS_NAVG c n, PIN.MEAS_DELAY c n]).map fun f => (f, s.merged f mask v))
  if !go then s1
  else if s.flag (PIN.MEAS_PEND c n) then s1.pinIgnored c
  else
    let s2 := s1.wrs (resultFields c n [0, 0, 0, 0, 0, 0, 0])
    if s2.rd (PIN.MEAS_SRC c n) = 0 ∧ s2.rd (PIN.PMU_MODE c n) = 0 then (s2.wr (PIN.RESULT_VALID c n) 1).pulse (adcSource b)
    else
      (s2.wr (PIN.MEAS_PEND c n) 1).modBlock b fun x =>
        { x with adcQ := x.adcQ ++ [{ pin := 4 * c + n, src := s2.rd (PIN.MEAS_SRC c n), navg := s2.rd (PIN.MEAS_NAVG c n),
                                      elapsed := false, taken := false, done := 0, sum := 0, clamp := false,
                                      saturated := false, disturb := false, bonded := false }] }

/-- MEAS_GO (R156): a write of the bits `mask` of PIN.MEASn with GO = 1. -/
def execMeasGo (c n mask v : Nat) (s : State) : Host.Outcome State Fault Refusal :=
  .next (s.atReg 0 (PIN.MEAS_GO c n).addr fun s => s.writeMeas c n (setBit mask 0) (setBit v 0))

/-- MEAS_DELAY_EXPIRY (R156, R158): the DELAY of a lane's request elapses. -/
def execMeasDelayExpiry (c n : Nat) (s : State) : Host.Outcome State Fault Refusal :=
  let b := blockOf c
  let t := s.abortSlice (s.sliceAdc b && s.flag (PIN.MEAS_PEND c n))
  .next (t.modBlock b fun x =>
    { x with adcQ := takeNext (x.adcQ.map fun q => if q.pin = 4 * c + n then { q with elapsed := true } else q) })

/-- R166: round to the nearest integer, a half away from zero: `z / 2^k`. -/
def roundDiv (z : Int) (k : Nat) : Int :=
  let h : Int := 2 ^ k
  if 0 ≤ z then (2 * z + h) / (2 * h) else -((2 * (-z) + h) / (2 * h))

/-- R166: a code corrected by a gain and an offset, limited to [lo, hi], and whether it was limited. -/
def correct (lo hi code : Int) (g o : Nat) : Int × Bool :=
  let z := code + roundDiv (code * sext g 16) 20 + roundDiv (sext o 16) 4
  if z < lo then (lo, true) else if hi < z then (hi, true) else (z, false)

/-- R166: bits [16i + 15 : 16i] of word `k` of a lane's record. -/
def State.trim (s : State) (c n k i : Nat) : Nat := bits (s.rd (PIN.TRIM_WORD c n k)) (16 * i) 16

/-- R145, R166: the code that a level DAC of lane `n` takes for the level code `code`: corrected by the trims at halves `i` and
`i + 1` of word `k` of the lane's record, within the legal codes. -/
def State.levelDac (s : State) (c n k i code : Nat) : Nat := (correct 0 41000 code (s.trim c n k i) (s.trim c n k (i + 1))).1.toNat

/-- What the DACs of a lane put out, in level codes (R144); `fi` is the code of the force-current DAC. -/
structure LaneDacs where
  vih : Nat
  vil : Nat
  voh : Nat
  vol : Nat
  vtt : Nat
  fv : Nat
  fi : Int
  deriving DecidableEq, Repr

/-- R145, R154, R162, R166: the DACs of lane `n` of cell `c`: the level set in use, and FORCE as a voltage and as a current, each
through the lane's trims. In the safe state, and from its entry on, the force source is zero: 0 V and no current. -/
def State.laneDacs (s : State) (c n : Nat) : LaneDacs :=
  let zero := s.flag (PIN.STATE_SAFE c n) || bitOf (s.cell c).entering n
  let m := s.rd (PIN.CTRL_LSEL c n)
  let r := s.rd (PIN.PMU_RANGE c n)
  { vih := s.levelDac c n 0 0 (s.rd (PIN.LSA_VIH c n m)), vil := s.levelDac c n 0 2 (s.rd (PIN.LSA_VIL c n m)),
    voh := s.levelDac c n 1 0 (s.rd (PIN.LSA_VOH c n m)), vol := s.levelDac c n 1 2 (s.rd (PIN.LSA_VOL c n m)),
    vtt := s.levelDac c n 2 0 (s.rd (PIN.LSB_VTT c n m)), fv := s.levelDac c n 2 2 (if zero then 5000 else s.rd (PIN.PMU_FORCE c n)),
    fi := (correct (-32768) 32767 (if zero then 0 else sext (s.rd (PIN.PMU_FORCE c n)) 16) (s.trim c n 3 r) (s.trim c n 4 r)).1 }

/-- R144: a level code in microvolts. -/
def levelMicrovolts (code : Nat) : Int := 100 * (code : Int) - 500000

/-- R153: a current range in nanoamperes. -/
def rangeNano (r : Nat) : Nat := ([40000, 400000, 4000000, 8000000] : List Nat).getD r 0

/-- R154: the current that lane `n` forces in FIMV is this many nanoamperes over 32,768: FORCE times the range. -/
def State.forcedCurrent (s : State) (c n : Nat) : Int := sext (s.rd (PIN.PMU_FORCE c n)) 16 * (rangeNano (s.rd (PIN.PMU_RANGE c n)) : Int)

/-- R154: the clamps of lane `n` are the wrong way round in FIMV: every result carries CLAMP. -/
def State.clampCrossed (s : State) (c n : Nat) : Bool :=
  s.rd (PIN.PMU_MODE c n) == 2 && decide (s.rd (PIN.PMU_VCLH c n) < s.rd (PIN.PMU_VCLL c n))

/-! ### The connections of a lane (R142, R143) -/

/-- R142: the states of a lane. -/
inductive LaneState where
  | safe | ppmu | drive | driveOff | compare
  deriving DecidableEq, Repr

/-- R160: static drive applies to lane `n`. -/
def State.isStatic (s : State) (c n : Nat) : Bool := s.flag (PIN.CTRL_STAT_EN c n) && !s.cellBusy c

/-- R43, R206: lane `n` is in C mode as it stands: in a run by the mode of the last stride, else by LMODE. -/
def State.comparing (s : State) (c n : Nat) : Bool :=
  if s.cellBusy c then bitOf (s.cell c).modes n else s.cMode c n

/-- R142, R160, R162: the state of lane `n` of cell `c`. A lane that enters the safe state is shown as SAFE from the first step
on (log 113). -/
def State.laneState (s : State) (c n : Nat) : LaneState :=
  if s.flag (PIN.STATE_SAFE c n) || bitOf (s.cell c).entering n || !s.flag (PIN.CTRL_EN c n) then .safe
  else if s.rd (PIN.PMU_MODE c n) != 0 then .ppmu
  else if decide (s.levelNow c n ≤ 1) then .drive
  else if s.isStatic c n then .driveOff
  else if s.comparing c n then .compare else .driveOff

/-- R142, R143, R160, R205, R206: the 50 Ω termination of lane `n` to VTT is connected. It follows the driver's edges, since the
state of the lane does. -/
def State.terminated (s : State) (c n : Nat) : Bool :=
  match s.laneState c n with
  | .driveOff => s.rd (PIN.CTRL_TERM c n) == 1
  | .compare => s.rd (PIN.CTRL_TERM c n) == 1 || s.rd (PIN.CTRL_TERM c n) == 2
  | _ => false

/-- R142: the driver of lane `n` is on, and the level code that it drives. -/
def State.driverCode (s : State) (c n : Nat) : Option Nat :=
  if s.laneState c n = .drive then
    some (if s.levelNow c n = 1 then (s.laneDacs c n).vih else (s.laneDacs c n).vil)
  else none

/-- R142, R155: the PPMU is connected to lane `n`. -/
def State.ppmuOn (s : State) (c n : Nat) : Bool := s.laneState c n == .ppmu

/-- R157, R166: an ADC code of a request of lane `n`, corrected by the block's and then by the lane's trims, each within the
ADC's range (log 108). -/
def State.adcCode (s : State) (c n kind : Nat) (code : Int) : Int × Bool :=
  let x := s.block (blockOf c)
  let a := correct (-32768) 32767 code x.adcG x.adcO
  let r := s.rd (PIN.PMU_RANGE c n)
  let m := if kind = 1 then correct (-32768) 32767 a.1 (s.trim c n 5 r) (s.trim c n 6 r)
    else correct (-32768) 32767 a.1 (s.trim c n 7 0) (s.trim c n 7 1)
  (m.1, a.2 || m.2)

/-- R364: a lane is bonded in a run of its caravan. -/
def State.bondedLane (s : State) (c n : Nat) : Bool :=
  s.enabled c && decide (0 < (s.run (s.leadOf c)).bondLeft) && bitOf (s.cell c).bondLanes n

/-- R156, R157, R364: one conversion of block `b`'s ADC ends with the code `code`; `clamp` and `sat` say that the clamp
acted and that the ADC saturated. A pin-sense request with a conversion on a bonded lane gives no result. Each conversion is taken with the MODE and RANGE in force as it ends, and KIND is that of the
last one (log 109). VALUE is the mean, to the nearest unit (log 109). -/
def State.conversion (s : State) (b : Nat) (code : Int) (clamp sat : Bool) : State :=
  match (s.block b).adcQ.find? (·.taken) with
  | none => s
  | some q =>
    let c := q.pin / 4
    let n := q.pin % 4
    let mode := s.rd (PIN.PMU_MODE c n)
    let kind := if q.src = 0 ∧ mode = 1 then 1 else 0
    let z := s.adcCode c n kind code
    let q1 : AdcReq := { q with done := q.done + 1, sum := q.sum + Config.adcValue kind (s.rd (PIN.PMU_RANGE c n)) z.1,
                                clamp := q.clamp || clamp || s.clampCrossed c n, saturated := q.saturated || sat || z.2,
                                bonded := q.bonded || s.bondedLane c n }
    if q1.done < 2 ^ q.navg then
      s.modBlock b fun x => { x with adcQ := x.adcQ.map fun e => if e.pin = q.pin then q1 else e }
    else
      let s1 := s.modBlock b fun x => { x with adcQ := takeNext (x.adcQ.filter fun e => e.pin != q.pin) }
      let hidden := q1.src == 1 && q1.bonded
      let value := wrapInt (roundDiv q1.sum q.navg) 32
      let res := if hidden then [0, 0, 0, 0, 0, 0, 1]
        else [value, 1, kind, b2n q1.clamp, b2n q1.saturated, b2n q1.disturb, 0]
      (s1.wrs ((PIN.MEAS_PEND c n, 0) :: resultFields c n res)).pulse (adcSource b)

/-- CONVERSION_DONE (R156). -/
def execConversionDone (b : Nat) (code : Int) (clamp sat : Bool) (s : State) : Host.Outcome State Fault Refusal :=
  .next (s.conversion b code clamp sat)

/-! ### Safe state, drive check -/

/-- R162: safe-state entry of lane `n` is complete. -/
def State.finishSafe (s : State) (c n : Nat) : State :=
  if bitOf (s.cell c).entering n then
    (s.wrs [(PIN.STATE_SAFE c n, 1), (PIN.CTRL_EN c n, 0), (PIN.CTRL_STAT_EN c n, 0), (PIN.PMU_MODE c n, 0)]).modCell c fun x =>
      { x with entering := clearBit x.entering n }
  else s

/-- SAFE_STATE_DONE (R162). -/
def execSafeStateDone (c n : Nat) (s : State) : Host.Outcome State Fault Refusal := .next (s.finishSafe c n)

/-- HEARTBEAT_LOSS (R18, R161): the pin die of region `r` has received no heartbeat for 1 µs. -/
def execHeartbeatLoss (r : Nat) (s : State) : Host.Outcome State Fault Refusal :=
  .next ((s.safeCells 5 (regionCells r)).report 0x12 (288 + r))

/-- DCHK_INTERVAL (R150): an evaluation instant of lane `n` of cell `c`, with the pin's level in level codes: the end of an
interval of 16 FIO cycles, or a stride boundary at which no stride of the cell's caravan ends (every stride evaluates at its
own; log 112). -/
def execDchkInterval (c n : Nat) (held : Bool) (pin : Int) (s : State) : Host.Outcome State Fault Refusal :=
  .next (s.driveCheck c n held pin)

/-! ### Trims, timing table, offsets -/

/-- R169: a write of the bits `mask` of PIN.TRIMn_k. -/
def State.writeTrim (s0 : State) (c n k mask v : Nat) : State :=
  let s := s0.abortSlice (s0.sliceLane c n)
  if s.flag (SEQ.CTRL_SERVICE c) && !s.flag CHIP.CAL_STATUS_BUSY then
    s.wrs [(PIN.TRIM_WORD c n k, s.merged (PIN.TRIM_WORD c n k) mask v), (PIN.STATE_CAL_SRC c n, 3)]
  else s.pinIgnored c

/-- TRIM_WRITE (R169). -/
def execTrimWrite (c n k mask v : Nat) (s : State) : Host.Outcome State Fault Refusal :=
  .next (s.atReg 0 (PIN.TRIM_WORD c n k).addr fun s => s.writeTrim c n k mask v)

/-- R202: a timing-table word as TLOAD or a manifest install stores it, unchanged. -/
def State.putTab (s : State) (c e w v : Nat) : State :=
  s.wr (if w = 0 then TIM.TAB_W0_WORD c e else TIM.TAB_W1_WORD c e) (bits v 0 64)

/-- R202, R204: a write of the bits `mask` of word `w` of timing-table entry `e`. -/
def State.writeTab (s : State) (c e w mask v : Nat) : State :=
  let f := if w = 0 then TIM.TAB_W0_WORD c e else TIM.TAB_W1_WORD c e
  let new := s.merged f mask v
  if w ≠ 0 ∧ ((List.range 4).any fun n => bits mask (42 + 3 * n) 3 != 0 && decide (5 ≤ bits new (42 + 3 * n) 3)) = true then
    s.wr (TIM.STATUS_WR_IGN c) 1
  else s.wr f new

/-- TIM_TAB_WRITE (R204). -/
def execTimTabWrite (c e w mask v : Nat) (s : State) : Host.Outcome State Fault Refusal :=
  .next (s.atReg 0 (TIM.TAB_W0_WORD c e).addr fun s => s.writeTab c e w mask v)

/-- R213: a write of the bits `mask` of TIM.OFSn. -/
def State.writeOfs (s : State) (c n mask v : Nat) : State :=
  s.wrs [(TIM.OFS_DRV c n, s.merged (TIM.OFS_DRV c n) mask v), (TIM.OFS_CMP c n, s.merged (TIM.OFS_CMP c n) mask v)]

/-- OFS_WRITE (R213). -/
def execOfsWrite (c n mask v : Nat) (s : State) : Host.Outcome State Fault Refusal :=
  .next (s.atReg 0 (TIM.OFS_DRV c n).addr fun s => s.writeOfs c n mask v)

/-- UI_STALE (R215): no stride boundary of block `b` has come for 1 µs: TIM.UI of its cells reads 0. -/
def execUiStale (b : Nat) (s : State) : Host.Outcome State Fault Refusal :=
  .next (if s.clockRuns b then s else s.wrAll (blockCells b) TIM.UI_UI 0)

end Sys2Proof.Machine
end

