-- ==== Sys2Proof/Machine/Pll.lean ====
section
/-! DEFINITION. Block PLLs, loss of lock, the reference monitor and the chip PLL (spec/07). -/

namespace Sys2Proof.Machine

/-! ### Configurations and limits (R174 to R177, R185) -/

/-- PLL.CFG and PLL.FRAC of block `b`. -/
def State.pllStaged (s : State) (b : Nat) : PllCfg :=
  { mode := s.rd (PLL.CFG_MODE b), ref := s.rd (PLL.CFG_REF b), rdiv := s.rd (PLL.CFG_RDIV b), n := s.rd (PLL.CFG_N b),
    sdiv := s.rd (PLL.CFG_SDIV b), fdiv := s.rd (PLL.CFG_FDIV b), bw := s.rd (PLL.CFG_BW b), frac := s.rd (PLL.FRAC_FRAC b) }

/-- PLL.ACT_CFG and PLL.ACT_FRAC of block `b`. -/
def State.pllActive (s : State) (b : Nat) : PllCfg :=
  { mode := s.rd (PLL.ACT_CFG_MODE b), ref := s.rd (PLL.ACT_CFG_REF b), rdiv := s.rd (PLL.ACT_CFG_RDIV b),
    n := s.rd (PLL.ACT_CFG_N b), sdiv := s.rd (PLL.ACT_CFG_SDIV b), fdiv := s.rd (PLL.ACT_CFG_FDIV b),
    bw := s.rd (PLL.ACT_CFG_BW b), frac := s.rd (PLL.ACT_FRAC_FRAC b) }

/-- A configuration comes into force. -/
def State.setActivePll (s : State) (b : Nat) (c : PllCfg) : State :=
  s.wrs [(PLL.ACT_CFG_MODE b, c.mode), (PLL.ACT_CFG_REF b, c.ref), (PLL.ACT_CFG_RDIV b, c.rdiv), (PLL.ACT_CFG_N b, c.n),
    (PLL.ACT_CFG_SDIV b, c.sdiv), (PLL.ACT_CFG_FDIV b, c.fdiv), (PLL.ACT_CFG_BW b, c.bw), (PLL.ACT_FRAC_FRAC b, c.frac)]

/-- N + FRAC / 2^24, times 2^24. -/
def PllCfg.mult (c : PllCfg) : Nat := c.n * 2 ^ 24 + c.frac

/-- R174: the frequency in kHz of an output with divider `div` is `num / den`. -/
def PllCfg.num (c : PllCfg) : Nat := 100000 * c.mult
def PllCfg.den (c : PllCfg) (div : Nat) : Nat := (c.rdiv + 1) * 2 ^ 24 * div

/-- The frequency of an output exceeds `khz`. -/
def PllCfg.above (c : PllCfg) (div khz : Nat) : Bool := decide (khz * c.den div < c.num)

/-- A quotient rounded to the nearest integer. -/
def nearest (a b : Nat) : Nat := if b = 0 then 0 else (2 * a + b) / (2 * b)

/-- The frequency of an output in kHz, to the nearest. -/
def PllCfg.khz (c : PllCfg) (div : Nat) : Nat := nearest c.num (c.den div)

/-- R174, R175: the configuration is out of range. -/
def PllCfg.bad (c : PllCfg) : Bool :=
  let rd := c.rdiv + 1
  decide (c.n < 1) || decide (c.mult < 48 * rd * 2 ^ 24) || decide (96 * rd * 2 ^ 24 < c.mult) ||
  decide (c.sdiv < 8) || decide (2048 < c.sdiv) || decide (c.fdiv < 12) || decide (2048 < c.fdiv) ||
  (c.mode == 0 && (c.frac != 0 || decide (100 < 2 ^ c.bw * rd * 10)))

/-- R176: the stride limit of a performance level and grade, in kHz. -/
def strideLimit (grade level : Nat) : Nat :=
  if grade = 0x32 then ([400000, 400000, 400000, 200000] : List Nat).getD level 0
  else ([600000, 500000, 400000, 200000] : List Nat).getD level 0
/-- R176: the fabric limit of a performance level, in kHz. -/
def fabricLimit (level : Nat) : Nat := ([400000, 350000, 300000, 150000] : List Nat).getD level 0

/-- R176: the configuration's stride or fabric clock exceeds the limits of a performance level. -/
def State.overLimit (s : State) (c : PllCfg) (level : Nat) : Bool :=
  c.above c.sdiv (strideLimit s.grade.code level) || c.above c.fdiv (fabricLimit level)

/-- R185: f_clamp in kHz for the larger of two frequencies. -/
def State.clampKhz (s : State) (b : Nat) (a c : PllCfg) : Nat :=
  let hi := if a.num * c.den c.sdiv < c.num * a.den a.sdiv then c else a
  let ppm := min 50000 (s.rd (PLL.TRACK_CLAMP_PPM b))
  min (nearest (hi.num * (1000000 + ppm)) (hi.den hi.sdiv * 1000000))
    (strideLimit s.grade.code s.limitLevel)

/-- R184: the configuration of block `b`'s PLL with its oscillator as it stands. -/
def State.pllStands (s : State) (b : Nat) : PllCfg :=
  let m := (s.block b).rampMult
  if m = 0 then s.pllActive b else { s.pllActive b with n := m / 2 ^ 24, frac := m % 2 ^ 24 }

/-- R178, R185: the target of block `b`'s PLL: that of a SET or RELOCK that has been accepted and not completed, else the
configuration in force. -/
def State.pllTarget (s : State) (b : Nat) : PllCfg := (s.block b).pll.getD (s.pllActive b)

/-- R185: f_clamp of block `b`'s PLL is recomputed for the target `c`. While a STEP ramps, the active frequency is that of the
oscillator as it stands (log 133). -/
def State.reclamp (s : State) (b : Nat) (c : PllCfg) : State := s.wr (PLL.LIMIT_CLAMP_KHZ b) (s.clampKhz b (s.pllStands b) c)

/-- R183, R185: the configuration in force can be locked: its stride output does not exceed f_clamp, which lies below it only where
the level's limit does. -/
def State.canLock (s : State) (b : Nat) : Bool :=
  !(s.pllActive b).above (s.pllActive b).sdiv (strideLimit s.grade.code s.limitLevel)

/-! ### The clocks of a block stop and start (R182, R264, R269) -/

/-- FAB.STATUS.RUN follows the fabric clock and the loaded plane. -/
def State.showFabRun (s : State) (b : Nat) : State :=
  s.wr (FAB.STATUS_RUN b) (b2n (s.flag (PLL.STATUS_CLK_RUN b) && (s.block b).loaded))

/-- R264: OVERCLK of block `b` for the configuration `c`. -/
def State.showOverclk (s : State) (b : Nat) (c : PllCfg) : State :=
  s.wr (FAB.STATUS_OVERCLK b) (b2n ((s.block b).loaded && c.above c.fdiv (s.rd (FAB.FMAX_IMG_KHZ b))))

/-- R210: the UIs of a stride that began `k` strides before its clock was gated: those with a compare edge after the gate
produce fail bits of 0. -/
def CellStride.gated (m : CellStride) (k : Nat) : CellStride :=
  { m with expect := (List.range 32).foldl (fun v i => if k < bits m.due (4 * i) 4 then setField v (2 * i) 2 2 else v) m.expect }

/-- R210: the clocks of the caravan led by `l` are gated: edges still to come are discarded, compare edges that had passed are
judged (log 114). -/
def State.dropUnresolved (s : State) (l : Nat) : State :=
  let sn := (s.run l).sn
  (s.members l).foldl State.dropEdges ((s.modRun l fun x => { x with unresolved := x.unresolved.map fun v =>
    { v with cells := v.cells.map fun m => m.gated (sn - v.sn) } }).settleAll l)

/-- R182, R210: the stride and fabric clocks of block `b` are gated: the strides and edges of its caravans that are not halted by
it end as R210 says. -/
def State.gateBlock (s : State) (b : Nat) : State :=
  (((s.leadsInBlock b).foldl State.dropUnresolved s).wrs [(PLL.STATUS_CLK_RUN b, 0), (PLL.FMEAS_STRIDE_KHZ b, 0),
    (FAB.FMAX_FCLK_KHZ b, 0), (FAB.STATUS_OVERCLK b, 0)]).modBlock b (fun x => { x with srcSwitch := none }) |>.showFabRun b

/-- R183: the clocks of block `b` run with a full first cycle. -/
def State.runBlock (s : State) (b : Nat) : State :=
  let c := s.pllActive (s.gangSource b)
  let s1 := ((s.wrs [(PLL.STATUS_CLK_RUN b, 1), (PLL.FMEAS_STRIDE_KHZ b, c.khz c.sdiv), (FAB.FMAX_FCLK_KHZ b, c.khz c.fdiv)]).showFabRun
    b).showOverclk b c
  (s1.showUi b).clockStarted b

/-- R110, R192, R537: block `b` gates its clocks and switches to its new source; they resume when that source is LOCKED
or RAMPING. -/
def State.switchClock (s : State) (b : Nat) : State :=
  match (s.block b).srcSwitch with
  | none => s
  | some _ =>
    let s1 := s.gateBlock b
    if s1.pllGood b && !(s1.block b).needSet then s1.runBlock b else s1.judgePending b

/-- CLOCK_SOURCE_SWITCH (R110). -/
def execClockSourceSwitch (b : Nat) (s : State) : Host.Outcome State Fault Refusal :=
  .next (if s.frozen then s else s.switchClock b)

/-! ### Commands (R179, R180) -/

/-- R179: a caravan with a member in a block of the gang of `b` is ARMED or RUNNING. -/
def State.gangBusy (s : State) (b : Nat) : Bool := (b :: s.gangBlocks b).any s.blockBusy

/-- R180: a PLL command completes. -/
def State.pllDone (s : State) (b op st : Nat) : State :=
  s.wrs [(PLL.CMD_STATUS_STATUS b, st), (PLL.CMD_STATUS_OP b, op), (PLL.CMD_STATUS_PEND b, 0), (PLL.EVENT_DONE b, 1)]

/-- R13: a PLL command is refused. -/
def State.pllReject (s : State) (b op st : Nat) : State :=
  let t := s.reject (PLL.REJECT_COUNT b) (PLL.LAST_REJECT_CODE b) (PLL.LAST_REJECT_STATUS b) op st
  if st = 1 then t.wr (PLL.EVENT_DONE b) 1 else t.pllDone b op st

/-- R181: a relock to the configuration `c` begins. -/
def State.startRelock (s : State) (b op : Nat) (c : PllCfg) : State :=
  ((s.reclamp b c).wrs [(PLL.CMD_STATUS_OP b, op), (PLL.CMD_STATUS_PEND b, 1)]).modBlock b fun x =>
    { x with pll := some c, relock := .toGate }

/-- R179: the changes that a STEP may not make, and its limits. -/
def stepBad (a c : PllCfg) (ramp : Nat) : Bool :=
  c.mode != a.mode || c.ref != a.ref || c.rdiv != a.rdiv || c.sdiv != a.sdiv || c.fdiv != a.fdiv || c.bad ||
  decide (2000 * a.mult < ((c.mult - a.mult) + (a.mult - c.mult)) * 1000000) || ramp == 0 || decide (1000 < ramp)

/-- R179: PLL.CMD of block `b` is written with `op`. -/
def State.pllCommand (s0 : State) (b op : Nat) : State :=
  let s := s0.abortSlice (s0.slicePll b)
  let staged := s.pllStaged b
  let act := s.pllActive b
  let st := s.rd (PLL.STATUS_STATE b)
  let level := s.limitLevel
  let ganged := s.flag (PLL.STATUS_GANGED b)
  if !s.blockOn b then s0
  else if s.flag (PLL.CMD_STATUS_PEND b) then s.pllReject b op 1
  else match op with
    | 1 =>
      if ganged || s.gangBusy b || (!staged.bad && s.overLimit staged level) then s.pllReject b op 3
      else if staged.bad then s.pllReject b op 2
      else s.startRelock b op staged
    | 2 =>
      let bad := stepBad act staged (s.rd (PLL.TRACK_RAMP b))
      if ganged || act.mode == 0 || st != pllLocked || (!bad && s.overLimit staged level) then s.pllReject b op 3
      else if bad then s.pllReject b op 2
      else
        let s1 := (((s.reclamp b staged).setActivePll b { act with n := staged.n, frac := staged.frac }).wrs
          [(PLL.CMD_STATUS_OP b, op), (PLL.CMD_STATUS_PEND b, 1), (PLL.STATUS_STATE b, pllRamping)]).modBlock b fun x =>
            { x with rampMult := act.mult }
        (s.clocked b).foldl (fun t k => if staged.above staged.fdiv (t.rd (FAB.FMAX_IMG_KHZ k)) then t.showOverclk k staged else t) s1
    | 3 =>
      if ganged || !(st == pllLost || st == pllFail || st == pllOff) then s.pllReject b op 3 else s.startRelock b op act
    | 4 =>
      if ganged || s.gangBusy b then s.pllReject b op 3
      else
        let s1 := ((s.clocked b).foldl State.gateBlock (s.reclamp b act)).wrs [(PLL.STATUS_STATE b, pllOff), (PLL.STATUS_CLAMPED b, 0)]
        let s2 := s1.modBlock b fun x => { x with relock := .none, pll := none, suspicion := false, lossPending := false, rampMult := 0 }
        ((s.clocked b).foldl State.judgePending s2).pllDone b op 0
    | _ => s.pllReject b op 2

/-- PLL_SET (R179). -/
def execPllSet (b : Nat) (s : State) : Host.Outcome State Fault Refusal :=
  .next (s.atReg 0 (PLL.CMD_OP b).addr fun s => s.pllCommand b 1)
/-- PLL_STEP (R184). -/
def execPllStep (b : Nat) (s : State) : Host.Outcome State Fault Refusal :=
  .next (s.atReg 0 (PLL.CMD_OP b).addr fun s => s.pllCommand b 2)
/-- PLL_RELOCK (R181). -/
def execPllRelock (b : Nat) (s : State) : Host.Outcome State Fault Refusal :=
  .next (s.atReg 0 (PLL.CMD_OP b).addr fun s => s.pllCommand b 3)
/-- PLL_OFF (R179). -/
def execPllOff (b : Nat) (s : State) : Host.Outcome State Fault Refusal :=
  .next (s.atReg 0 (PLL.CMD_OP b).addr fun s => s.pllCommand b 4)

/-! ### The steps of a relock (R181) and of a ramp (R184) -/

/-- The reference that a PLL selects was good in its last window. -/
def State.refGood (s : State) (ref : Nat) : Nat :=
  if ref = 0 then s.rd CHIP.CLK_STATUS_TREF_OK else s.rd CHIP.CLK_STATUS_CVYREF_OK

/-- R181 steps 3 and 4: the clocks are gated, the new configuration applies, acquisition begins. The PLL of a block that has
joined a gang meanwhile stays OFF (R192), and the command ends with TIMEOUT (log 21). -/
def State.relockGate (s : State) (b : Nat) : State :=
  match (s.block b).relock, (s.block b).pll with
  | .toGate, some c =>
    if s.flag (PLL.STATUS_GANGED b) then (s.setActivePll b c).modBlock b fun x => { x with relock := .acquiring }
    else
      let s1 := (s.clocked b).foldl State.gateBlock s
      (((s1.setActivePll b c).wrs [(PLL.STATUS_STATE b, pllAcquiring), (PLL.STATUS_REF_OK b, s.refGood c.ref),
        (PLL.STATUS_CLAMPED b, 0)]).modBlock b fun x => { x with relock := .acquiring })
  | _, _ => s

/-- RELOCK_GATE (R181). -/
def execRelockGate (b : Nat) (s : State) : Host.Outcome State Fault Refusal := .next (s.relockGate b)

/-- LOCK_INDICATED (R181, R183): the stability timer starts. A PLL that its clamp holds below its frequency is not in lock. -/
def execLockIndicated (b : Nat) (s : State) : Host.Outcome State Fault Refusal :=
  .next (if (s.block b).relock == .acquiring && !s.flag (PLL.STATUS_GANGED b) && s.canLock b then
    s.modBlock b fun x => { x with relock := .stable } else s)

/-- R181 steps 6 and 7, R192: the clocks run; a block that left a gang waits for a SET. -/
def State.relockDone (s : State) (b : Nat) : State :=
  if (s.block b).relock != .stable || s.flag (PLL.STATUS_GANGED b) || !s.canLock b then s
  else
    let pend := s.flag (PLL.CMD_STATUS_PEND b)
    let set := !pend || s.rd (PLL.CMD_STATUS_OP b) == 1
    let s1 := ((s.reclamp b (s.pllActive b)).wr (PLL.STATUS_STATE b) pllLocked).modBlock b fun x =>
      { x with relock := .none, pll := none, needSet := x.needSet && !set }
    let s2 := if pend then s1.pllDone b (s1.rd (PLL.CMD_STATUS_OP b)) 0 else s1
    (s2.clocked b).foldl (fun t k =>
      if (t.block k).srcSwitch.isSome || (t.block k).needSet then t else t.runBlock k) s2

/-- RELOCK_COMPLETE (R181). -/
def execRelockComplete (b : Nat) (s : State) : Host.Outcome State Fault Refusal := .next (s.relockDone b)

/-- R180: 200 µs after the gate the PLL has not held stable lock. -/
def State.relockTimeout (s : State) (b : Nat) : State :=
  let x := s.block b
  if x.relock != .acquiring && x.relock != .stable then s
  else
    let s1 := (s.modBlock b fun y => { y with relock := .none, pll := none }).wr (PLL.STATUS_STATE b)
      (if s.flag (PLL.STATUS_GANGED b) then pllOff else pllFail)
    let s2 := if s.flag (PLL.CMD_STATUS_PEND b) then s1.pllDone b (s.rd (PLL.CMD_STATUS_OP b)) 5 else s1
    (s2.clocked b).foldl State.judgePending s2

/-- RELOCK_TIMEOUT (R180). -/
def execRelockTimeout (b : Nat) (s : State) : Host.Outcome State Fault Refusal := .next (s.relockTimeout b)

/-- R184: the ramp of a STEP ends. -/
def State.rampEnd (s : State) (b : Nat) : State :=
  if s.rd (PLL.STATUS_STATE b) ≠ pllRamping then s
  else
    let c := s.pllActive b
    let s1 := ((s.wr (PLL.STATUS_STATE b) pllLocked).pllDone b 2 0).setMult b 0
    (s1.clocked b).foldl (fun t k =>
      (t.wrs [(PLL.FMEAS_STRIDE_KHZ k, c.khz c.sdiv), (FAB.FMAX_FCLK_KHZ k, c.khz c.fdiv)]).showOverclk k c) s1

/-- RAMP_END (R184). -/
def execRampEnd (b : Nat) (s : State) : Host.Outcome State Fault Refusal := .next (s.rampEnd b)

/-- PLL_CLAMP (R186): the clamp of block `b`'s PLL acts, or releases, `us` further microseconds having been clamped. An oscillator
that is off has none. -/
def execPllClamp (b us : Nat) (on : Bool) (s : State) : Host.Outcome State Fault Refusal :=
  .next (if s.rd (PLL.ACT_CFG_MODE b) = 1 ∧ s.rd (PLL.STATUS_STATE b) ≠ pllOff then
    let t := (s.wr (PLL.STATUS_CLAMPED b) (b2n on)).count (PLL.CLAMP_CNT_US b) us
    if on || 0 < us then t.wr (PLL.EVENT_CLAMP b) 1 else t
  else s)

/-! ### Loss of lock (R188 to R191) -/

/-- R189 step 1: a suspicion reaches the stride domains of the gang; each cell latches its caravan's SC. -/
def State.suspect (s : State) (b : Nat) : State :=
  let st := s.rd (PLL.STATUS_STATE b)
  if st ≠ pllLocked ∧ st ≠ pllRamping then s
  else (s.clocked b).foldl (fun t k =>
    (blockCells k).foldl (fun u c =>
      if (u.cell c).suspectSC.isNone then u.modCell c fun x => { x with suspectSC := some (u.rd (SEQ.SC_SC c)) } else u)
      (t.modBlock k fun x => { x with suspicion := true })) s

/-- LOCK_SUSPICION (R189). -/
def execLockSuspicion (b : Nat) (s : State) : Host.Outcome State Fault Refusal := .next (s.suspect b)

/-- R221: the suspicion of a gang ends. -/
def State.unsuspect (s : State) (ks : List Nat) : State :=
  ks.foldl (fun t k => (blockCells k).foldl (fun u c => u.modCell c fun x => { x with suspectSC := none })
    (t.modBlock k fun x => { x with suspicion := false })) s

/-- SUSPICION_CLEAR (R188, R221): the excursion returns before a declaration. -/
def execSuspicionClear (b : Nat) (s : State) : Host.Outcome State Fault Refusal :=
  .next (if (s.block b).lossPending then s else s.unsuspect (s.clocked b))

/-- R189 steps 2 and 3, R191: loss of lock of the PLL of block `b` is declared, with its cause and detection time. -/
def State.declareLoss (s : State) (b cause det : Nat) : State :=
  let st := s.rd (PLL.STATUS_STATE b)
  if st ≠ pllLocked ∧ st ≠ pllRamping then s
  else
    let s0 := s.abortSlice (s.slicePll b)
    let s1 := s0.wr (PLL.STATUS_STATE b) pllLost
    let s2 := if st = pllRamping then s1.pllDone b 2 6 else s1
    (s2.clocked b).foldl (fun t k =>
      (((t.wrs [(PLL.EVENT_LOL k, 1), (PLL.LOL_CAUSE k, if k = b then cause else 4), (PLL.LOL_DET k, det)]).count
        (PLL.LOL_COUNT k) 1).modBlock k fun x => { x with lossPending := true }).report 0x0C (256 + k)) s2

/-- LOSS_OF_LOCK (R188): `cause` is 1 phase, 2 over-frequency, 3 under-frequency, 5 reference; `det` is the time from
onset to declaration in FIO cycles. -/
def execLossOfLock (b cause det : Nat) (s : State) : Host.Outcome State Fault Refusal := .next (s.declareLoss b cause det)

/-- R221: VOIDF of the records of a queue whose stride count is above LAST_GOOD. -/
def voidRecords (good : Option Nat) (q : List QItem) : List QItem :=
  q.map fun i => match i with
    | .record r => .record (if good.all fun g => decide (g < r.sc) then { r with voidf := true } else r)
    | .mark c m => .mark c m

/-- R190: LAST_GOOD of the caravan led by `l`; none when no stride of the run is good. -/
def State.lastGood (s : State) (l : Nat) : Option Nat :=
  let sc := s.rd (SEQ.SC_SC l)
  match (s.cell l).suspectSC with
  | some v => if v < 16 then none else some (v - 16)
  | none => if sc < 17 then none else some (sc - 17)

/-- R189, R190: the caravan led by `l` is halted with LOCK_LOST; its run is void. -/
def State.lockLost (s : State) (l : Nat) : State :=
  let b := blockOf l
  let k := l % 8
  let armed := s.cvState l == stArmed
  let s1 := s.dropUnresolved l
  let good := if armed then none else s1.lastGood l
  let s2 := s1.haltCaravan l ((s1.members l).map (·, cLockLost))
  let s3 := (s2.voidRun l 5 0).wrs [(PLL.LGOOD_SC b k, good.getD 0), (PLL.LGOOD_NONE b k, b2n good.isNone),
    (PLL.LGOOD_VALID b k, 1)]
  (s3.members l).foldl (fun t c => t.modCell c fun x => { x with failQ := voidRecords good x.failQ }) s3

/-- R189 steps 4 and 5: the clocks of the gang of `b` are gated and its caravans halt. -/
def State.lossGate (s : State) (b : Nat) : State :=
  if !(s.block b).lossPending then s
  else
    let ks := s.clocked b
    let ls := ((ks.flatMap s.leadsInBlock).eraseDups).filter s.busy
    let s1 := ls.foldl State.lockLost s
    let s2 := ks.foldl State.gateBlock s1
    let s3 := (ks.foldl (fun t k => t.modBlock k fun x => { x with lossPending := false, rampMult := 0 }) s2).unsuspect ks
    ks.foldl State.judgePending s3

/-- LOCK_LOST_GATE (R189). -/
def execLockLostGate (b : Nat) (s : State) : Host.Outcome State Fault Refusal := .next (s.lossGate b)

/-! ### References and the chip PLL (R173, R193 to R195) -/

/-- R194, R195: steward and Trunk fall back to the FIO, when they ran on the chip PLL; it is no longer in lock. -/
def State.fallback (s : State) : State :=
  let s1 := s.wr CHIP.CLK_STATUS_PLL_LOCK 0
  if s.flag CHIP.CLK_STATUS_ON_PLL then
    (s1.wrs [(CHIP.CLK_STATUS_ON_PLL, 0), (CHIP.CLK_CTRL_USE_PLL, 0), (CHIP.CLK_STATUS_FALLBACK, 1)]).count
      CHIP.CLK_FALLBACKS_COUNT 1
  else s1

/-- CHIP_PLL_FALLBACK (R195). -/
def execChipPllFallback (s : State) : Host.Outcome State Fault Refusal := .next s.fallback

/-- CHIP_PLL_LOCK (R195): the chip PLL has been stable in lock for 2 µs. -/
def execChipPllLock (s : State) : Host.Outcome State Fault Refusal := .next (s.wr CHIP.CLK_STATUS_PLL_LOCK 1)

/-- R195: a write of CLK_CTRL.USE_PLL = 1. -/
def State.usePll (s : State) : State :=
  if s.flag CHIP.CLK_STATUS_PLL_LOCK then s.wrs [(CHIP.CLK_CTRL_USE_PLL, 1), (CHIP.CLK_STATUS_ON_PLL, 1)]
  else s.wr CHIP.CLK_STATUS_WR_IGN 1

/-- USE_PLL (R195). -/
def execUsePll (s : State) : Host.Outcome State Fault Refusal :=
  .next (s.atReg 0 CHIP.CLK_CTRL_USE_PLL.addr fun s => s.usePll)

/-- R173: a window of the reference monitor ends; `n` edges of reference `ref` (0 TREF, 1 CVY_REF) were counted. -/
def State.refWindow (s : State) (ref n : Nat) : State :=
  let good := decide (90 ≤ n ∧ n ≤ 110)
  let s0 := s.wr (if ref = 0 then CHIP.CLK_STATUS_TREF_OK else CHIP.CLK_STATUS_CVYREF_OK) (b2n good)
  let s1 := if ref = 0 then s0 else s0.wrB CVY.STATUS_REF_TREF !good
  let users := (List.range 32).filter fun b => s.rd (PLL.ACT_CFG_REF b) == ref && s.blockOn b
  let s2 := users.foldl (fun t b => t.wr (PLL.STATUS_REF_OK b) (b2n good)) s1
  if good then s2
  else
    let s3 := users.foldl (fun t b => t.declareLoss b 5 400) (s2.wr CHIP.CLK_STATUS_REF_FAULT 1)
    if s.rd CHIP.CLK_CTRL_REF = ref ∧ s.flag CHIP.CLK_STATUS_PLL_LOCK then s3.fallback else s3

/-- REF_WINDOW (R173). -/
def execRefWindow (ref n : Nat) (s : State) : Host.Outcome State Fault Refusal := .next (s.refWindow ref n)

end Sys2Proof.Machine
end

