-- ==== Sys2Proof/Machine/Units.lean ====
section
/-! DEFINITION. The hardened units of a block: four multiply-accumulate units and the BCH/CRC codec (R247, R248). -/

namespace Sys2Proof.Machine

/-- R248: an operand of 27 bits, signed or unsigned. -/
def macOperand (signed : Bool) (v : Nat) : Int := if signed then sext (v % 2 ^ 27) 27 else ((v % 2 ^ 27 : Nat) : Int)

/-- R248: one operation of a multiply-accumulate unit; the accumulator wraps modulo 2^64, and OVF stays set from a signed
overflow until the next ACC = P. -/
def Mac.apply (m : Mac) (op : Nat) (p : Int) : Mac :=
  if op = 0 then { acc := wrapInt p 64, ovf := false }
  else
    let z := sext m.acc 64 + (if op = 1 then p else -p)
    { acc := wrapInt z 64, ovf := m.ovf || decide (z < -2 ^ 63 ∨ 2 ^ 63 ≤ z) }

/-- The `w` bits of `v` in reversed order. -/
def reflect (v w : Nat) : Nat := fromBits (fun i => bitOf v (w - 1 - i)) w

/-- R248: a CRC register of `w` bits takes one input bit, the polynomial being `poly` without its highest term. -/
def crcStep (w poly crc : Nat) (b : Bool) : Nat :=
  let top := bitOf crc (w - 1)
  let sh := 2 * crc % 2 ^ w
  if top != b then Nat.xor sh poly else sh

/-- The bits of a byte in the order in which a CRC takes them: with input reflection the lowest first (log 117). -/
def byteBits (refIn : Bool) (v : Nat) : List Bool := (List.range 8).map fun i => bitOf v (if refIn then i else 7 - i)

/-- R248: the CRC of a byte string. -/
def crcOf (w poly init : Nat) (refIn refOut : Bool) (xorOut : Nat) (input : List Nat) : Nat :=
  let r := (input.flatMap (byteBits refIn)).foldl (crcStep w poly) (init % 2 ^ w)
  Nat.xor (if refOut then reflect r w else r) xorOut % 2 ^ w

/-- R248: the product of an element of GF(2^14) by the element x. -/
def gfDouble (v : Nat) : Nat := if bitOf v 13 then Nat.xor (2 * v % 2 ^ 14) (Config.bchField % 2 ^ 14) else 2 * v % 2 ^ 14

/-- The product of two elements of GF(2^14): the bits of `a`, the highest first. -/
def gfMul (a b : Nat) : Nat :=
  (List.range 14).foldl (fun r i => let d := gfDouble r; if bitOf a (13 - i) then Nat.xor d b else d) 0

/-- The power `n` of the primitive element x. -/
def gfPow : Nat → Nat
  | 0 => 1
  | n + 1 => gfDouble (gfPow n)

/-- R248: the syndrome S_j of a codeword of `n` bits: the received polynomial at the power j of the primitive element, its
first bit being the highest term (log 117). -/
def bchSyndrome (j n : Nat) (input : List Nat) : Nat :=
  ((input.flatMap (byteBits false)).take n).foldl (fun r b => Nat.xor (gfMul r (gfPow j)) (b2n b)) 0

/-- R248: the odd syndromes S1, S3 to S(2t - 1). -/
def bchSyndromes (t n : Nat) (input : List Nat) : List Nat := (List.range t).map fun i => bchSyndrome (2 * i + 1) n input

/-- R248: the tiles of block `b` use a hardened unit: what the unit gives them, and the state. A multiply-accumulate unit gives
its accumulator and OVF. -/
def State.useUnit (s : State) (b : Nat) : UnitOp → List Nat × State
  | .mac u x y sx sy op =>
    let m := (Tab.get Mac.reset (s.block b).macs (u % 4)).apply op (macOperand sx x * macOperand sy y)
    ([m.acc, b2n m.ovf], s.modBlock b fun z => { z with macs := Tab.set Mac.reset z.macs (u % 4) m })
  | .crc w poly init refIn refOut xorOut input => ([crcOf w poly init refIn refOut xorOut input], s)
  | .bch t n input => (bchSyndromes t n input, s)

/-- Uses of the units one after the other. -/
def State.useUnits (s : State) (b : Nat) : List UnitOp → List Nat × State
  | [] => ([], s)
  | o :: t =>
    let r := s.useUnit b o
    let q := r.2.useUnits b t
    (r.1 ++ q.1, q.2)

end Sys2Proof.Machine
end

