-- ==== Sys2Proof/Machine/Fabric.lean ====
section
/-! DEFINITION. Fabric and configuration planes (spec/10): the Plane Writer, arming and swapping, boot planes, the latch
scanner, and the hooks of a tile. -/

namespace Sys2Proof.Machine

/-- Why a FAB command was ignored (FAB.STATUS.IGN_WHY). -/
abbrev ignDenied : Nat := 1
abbrev ignNotValid : Nat := 2
abbrev ignFmax : Nat := 3
abbrev ignPwBusy : Nat := 4
abbrev ignArmed : Nat := 5
abbrev ignCaravanBusy : Nat := 6
abbrev ignSwapBusy : Nat := 7
abbrev ignNotArmed : Nat := 8

/-- States of a plane header. -/
abbrev planeWriting : Nat := 1
abbrev planeValid : Nat := 2
abbrev planeBad : Nat := 3

/-- A FAB write or command is ignored. -/
def State.fabIgnored (s : State) (b why : Nat) : State := s.wrs [(FAB.STATUS_WR_IGN b, 1), (FAB.STATUS_IGN_WHY b, why)]

/-- Plane `p` of block `b`. -/
def State.plane (s : State) (b p : Nat) : Plane := if p = 0 then (s.block b).planeA else (s.block b).planeB
/-- Replace a plane. -/
def State.setPlane (s : State) (b p : Nat) (x : Plane) : State :=
  s.modBlock b fun y => if p = 0 then { y with planeA := x } else { y with planeB := x }

/-- The active plane of block `b`. -/
def State.activePlane (s : State) (b : Nat) : Nat := s.rd (FAB.STATUS_ACTIVE b)
/-- The inactive plane of block `b`. -/
def State.inactivePlane (s : State) (b : Nat) : Nat := 1 - s.activePlane b

/-- R425: the completion of a WRITE, a swap or a COMMIT of block `b`. -/
def fabSource (b : Nat) : Nat := 1024 + 4 * b + 1

/-! ### The Plane Writer (R254 to R259) -/

/-- R255: CRC-32C of one more byte, reflected. -/
def crc32Byte (crc v : Nat) : Nat :=
  (List.range 8).foldl (fun a _ => if a % 2 = 1 then Nat.xor (a / 2) 0x82F63B78 else a / 2) (Nat.xor crc (v % 256))

/-- R255: CRC-32C of a byte string. -/
def crc32c (l : List Nat) : Nat := Nat.xor (l.foldl crc32Byte 0xFFFFFFFF) 0xFFFFFFFF

/-- R256: the 9 bytes of each word, bits [7:0] first. -/
def wordBytes (l : List Nat) : List Nat := l.flatMap (toBytes 9)

/-- R256: words packed from bytes, 9 a word. -/
def bytesWords : Nat → List Nat → List Nat
  | 0, _ => []
  | n + 1, l => ofBytes (l.take 9) :: bytesWords n (l.drop 9)

/-- R258, R259: a plane write ends with a result and the frame of a failure. -/
def State.pwEnd (s : State) (b res fa : Nat) : State :=
  ((s.wrs [(FAB.PW_STATUS_BUSY b, 0), (FAB.PW_STATUS_RESULT b, res), (FAB.PW_STATUS_FA b, fa)]).modBlock b fun x =>
    { x with pw := none }).pulse (fabSource b)

/-- R259: a failure after step 2 makes the inactive plane BAD. -/
def State.pwFail (s : State) (b res fa : Nat) : State := (s.wr (FAB.PLANE_STATE b (s.inactivePlane b)) planeBad).pwEnd b res fa

/-! ### ARM, DISARM, SWAP, COMMIT (R260, R262, R267) -/

/-- R260: ARM. -/
def State.fabArm (s : State) (b : Nat) : State :=
  let p := s.inactivePlane b
  let c := s.pllActive (s.gangSource b)
  if !s.blockOn b || s.flag (FAB.STATUS_ARMED b) then s
  else if s.rd (FAB.PLANE_STATE b p) ≠ planeValid then s.fabIgnored b ignNotValid
  else if s.flag (FAB.PW_STATUS_BUSY b) then s.fabIgnored b ignPwBusy
  else if c.above c.fdiv (s.plane b p).fmax then s.fabIgnored b ignFmax
  else s.wr (FAB.STATUS_ARMED b) 1

/-- ARM (R260). -/
def execArm (b : Nat) (s : State) : Host.Outcome State Fault Refusal :=
  .next (s.atReg 0 (FAB.CMD_OP b).addr fun s => s.fabArm b)

/-- R260: DISARM. -/
def State.fabDisarm (s : State) (b : Nat) : State :=
  if !s.blockOn b then s
  else if (s.block b).swap != .none then s.fabIgnored b ignSwapBusy else s.wr (FAB.STATUS_ARMED b) 0

/-- DISARM (R260). -/
def execDisarm (b : Nat) (s : State) : Host.Outcome State Fault Refusal :=
  .next (s.atReg 0 (FAB.CMD_OP b).addr fun s => s.fabDisarm b)

/-- R262: the steward command SWAP. -/
def State.fabSwap (s : State) (b : Nat) : State :=
  if !s.blockOn b then s
  else if !s.flag (FAB.STATUS_ARMED b) then s.fabIgnored b ignNotArmed
  else if s.blockBusy b then s.fabIgnored b ignCaravanBusy
  else if (s.block b).swap != .none then s.fabIgnored b ignSwapBusy
  else s.modBlock b fun x => { x with swap := .scheduled }

/-- SWAP (R262). -/
def execSwap (b : Nat) (s : State) : Host.Outcome State Fault Refusal :=
  .next (s.atReg 0 (FAB.CMD_OP b).addr fun s => s.fabSwap b)

/-- R267: COMMIT. Until another command of the block's planes, a loss of power may cut its header write, and BUSY may show it
(log 13). -/
def State.fabCommit (s : State) (b : Nat) : State :=
  let p := s.activePlane b
  if !s.blockOn b then s
  else if s.flag (FAB.PW_STATUS_BUSY b) then s.fabIgnored b ignPwBusy
  else if s.flag (FAB.STATUS_ARMED b) then s.fabIgnored b ignArmed
  else ((s.wrs [(FAB.PLANE_BOOT b p, 1),
    (FAB.PLANE_GEN b p, max (s.rd (FAB.PLANE_GEN b 0)) (s.rd (FAB.PLANE_GEN b 1)) + 1)]).modBlock b fun x =>
      { x with committing := true }).pulse (fabSource b)

/-- COMMIT (R267). -/
def execCommit (b : Nat) (s : State) : Host.Outcome State Fault Refusal :=
  .next (s.atReg 0 (FAB.CMD_OP b).addr fun s => s.fabCommit b)

/-- R253, R267: power is lost during COMMIT of block `b`: the header is torn and its plane BAD. -/
def State.tearHeader (s : State) (b : Nat) : State :=
  if !(s.block b).committing then s
  else
    let p := s.activePlane b
    (s.setPlane b p { s.plane b p with torn := true }).wr (FAB.PLANE_STATE b p) planeBad

/-! ### Plane errors and swaps (R261, R263, R266) -/

/-- R54: the change of FABk of cell `c` from `old`, which the strides to come may see late: 2 strides at the earliest, 2
fabric cycles plus 3 strides at the latest. -/
def State.fabChange (s : State) (c k : Nat) (old : Bool) : FabChange :=
  let p := s.gangSource (blockOf c)
  let sn := (s.run (s.leadOf c)).sn
  ⟨k, old, sn + 2, sn + 3 + (2 * s.rd (PLL.ACT_CFG_FDIV p) + s.rd (PLL.ACT_CFG_SDIV p) - 1) / s.rd (PLL.ACT_CFG_SDIV p)⟩

/-- R54: the tile of cell `c` drives FAB0 to FAB3 with `v`. -/
def State.driveFab (s : State) (c v : Nat) : State :=
  let x := s.cell c
  let sn := (s.run (s.leadOf c)).sn
  s.setCell c
    { x with
      fab := v % 16
      fabOld := (((List.range 4).filter fun k => bitOf x.fab k != bitOf v k).map fun k => s.fabChange c k (bitOf x.fab k)) ++
        x.fabOld.filter fun e => decide (sn < e.till) }

/-- R266: what the tiles of an unconfigured block drive: all outputs 0. -/
def State.blankOutputs (s : State) (b : Nat) : State :=
  ((blockCells b).foldl (fun t c => (t.driveFab c 0).modCell c fun x => { x with userEvt := 0 }) s).modBlock b fun x =>
    { x with userIo := 0 }

/-- R266: an uncorrectable error of plane `p` of block `b`. -/
def State.planeError (s : State) (b p : Nat) : State :=
  let s1 := (s.count (FAB.LATCH_UNCORR b) 1).wrs
    [(FAB.STATUS_PLANE_ERR b, 1), (FAB.PLANE_STATE b p, planeBad), (FAB.STATUS_UNCONF b, 1)]
  (((s1.modBlock b fun x => { x with loaded := false }).showFabRun b).blankOutputs b).report 0x0A (256 + b)

/-- R247: the block whose tiles drive the fabric master `i` (initiators 45 to 60, 4 per region). -/
def masterBlock (i : Nat) : Nat := 8 * ((i - 45) / 4 % 4) + Config.masterBlock i % 8

/-- Initiator `i` is a fabric master that the tiles of block `b` drive. -/
def isMasterOf (i b : Nat) : Bool := decide (45 ≤ i ∧ i < 61) && masterBlock i == b

/-- R263: the requests of block `b`'s fabric masters that are at their interfaces, on their way or at their targets are orphaned:
they complete there, and their responses will be discarded. -/
def State.orphan (s : State) (b : Nat) : State :=
  { s with net := { s.net with
      orphans := s.net.orphans ++
        ((s.net.waiting ++ s.net.flight ++ s.net.held ++ s.net.rsps.map (·.req) ++ s.store.waiting).filter fun q => isMasterOf q.init b) } }

/-- R263 steps 1 to 3: a swap starts; `bad` says that a frame of the inactive plane has failed its CRC twice. A swap
that is deferred waits (R261). -/
def State.planeSwap (s : State) (b : Nat) (bad : Bool) : State :=
  let x := s.block b
  if x.swap != .scheduled && x.swap != .waiting then s
  else if s.swapDeferred b then (s.modBlock b fun y => { y with swap := .waiting }).wr (FAB.STATUS_SWAP_WAIT b) 1
  else
    let s1 := ((s.modBlock b fun y => { y with swap := .running, reload := [], committing := false }).wrs
      [(FAB.STATUS_SWAP_WAIT b, 0), (FAB.STATUS_BUSY b, 1), (FAB.STATUS_RUN b, 0)]).orphan b
    let s2 := (blockCells b).foldl (fun t c => t.modCell c fun y => { y with laneQ := [], tapQ := [] }) s1
    if bad || (s.plane b (s.inactivePlane b)).worn then s2.planeError b (s.inactivePlane b) else s2

/-- PLANE_SWAP (R263). -/
def execPlaneSwap (b : Nat) (bad : Bool) (s : State) : Host.Outcome State Fault Refusal :=
  .next (if s.frozen then s else s.planeSwap b bad)

/-- R263 step 4: flip-flops in frames with RETAIN = 0 take their initial values. -/
def initFlops (all : Bool) (old frames : Tab Nat) : Tab Nat :=
  frames.foldl (fun t e =>
    Tab.set 0 t e.1 (if bitOf e.2 1152 && !all then Tab.get 0 old e.1 else Config.flopInit (e.2 % 2 ^ 1152))) []

/-- Plane `p` of block `b` comes into the latches. -/
def State.loadPlane (s : State) (b p : Nat) (all : Bool) : State :=
  let pl := s.plane b p
  let good := s.rd (FAB.PLANE_STATE b p) == planeValid
  let s1 := (s.modBlock b fun x =>
    { x with loaded := good, flops := if good then initFlops all x.flops pl.frames else [] }).wrs
      [(FAB.STATUS_ACTIVE b, p), (FAB.STATUS_UNCONF b, b2n !good), (FAB.FMAX_IMG_KHZ b, pl.fmax), (FAB.STATUS_OVERCLK b, 0)]
  let s2 := s1.showFabRun b
  if s2.flag (PLL.STATUS_CLK_RUN b) then s2.showOverclk b (s2.pllActive (s2.gangSource b)) else s2

/-- R261: the caravan led by `l` holds for no swap any more. -/
def State.endSwapHold (s : State) (l : Nat) : State :=
  match (s.run l).phase with
  | .released next left true =>
    if (s.blocksOf l).all fun b => (s.block b).swap == .none then
      (if left = 0 then s.endSync l next else s.modRun l fun x => { x with phase := .released next left false })
    else s
  | _ => s

/-- R263 steps 4 and 5: the swap is complete. -/
def State.swapComplete (s : State) (b : Nat) : State :=
  if (s.block b).swap != .running then s
  else
    let ls := (s.block b).swapLeads
    let s1 := (s.loadPlane b (s.inactivePlane b) false).wrs [(FAB.STATUS_ARMED b, 0), (FAB.STATUS_BUSY b, 0)]
    let s2 := s1.modBlock b fun x => { x with swap := .none, swapLeads := [] }
    (ls.foldl State.endSwapHold s2).pulse (fabSource b)

/-- SWAP_COMPLETE (R263). -/
def execSwapComplete (b : Nat) (s : State) : Host.Outcome State Fault Refusal := .next (if s.frozen then s else s.swapComplete b)

/-! ### Boot planes (R267, R269) -/

/-- R267: the boot plane of block `b`. -/
def State.bootPlane (s : State) (b : Nat) : Option Nat :=
  let ok p := s.rd (FAB.PLANE_STATE b p) == planeValid && s.flag (FAB.PLANE_BOOT b p) && !(s.plane b p).torn
  if ok 0 && ok 1 then some (if s.rd (FAB.PLANE_GEN b 0) < s.rd (FAB.PLANE_GEN b 1) then 1 else 0)
  else if ok 0 then some 0 else if ok 1 then some 1 else none

/-- The layout of PLL.CFG (R254, R197). -/
def cfgOfWord (w : Nat) : PllCfg :=
  { mode := bits w 0 1, ref := bits w 1 1, rdiv := bits w 2 2, n := bits w 4 9, sdiv := bits w 16 12, fdiv := bits w 32 12,
    bw := bits w 48 2, frac := 0 }

/-- R269 step 4: the PLL of block `b` starts with BOOT_PLL; one that breaks R174, or R254's MODE = 0 and REF = 0, starts nothing
(log 116). -/
def State.bootPll (s : State) (b p : Nat) : State :=
  let c := cfgOfWord (s.plane b p).bootPll
  if !(s.plane b p).bpv || c.bad || c.mode != 0 || c.ref != 0 then s
  else ((s.setActivePll b c).wr (PLL.STATUS_STATE b) pllAcquiring).modBlock b fun x =>
    { x with relock := .acquiring, pll := some c }

/-- R266: frames of planes, named by block and plane, fail their CRC from now on. -/
def State.wearPlanes (s : State) (l : List (Nat × Nat)) : State :=
  (l.filter fun e => decide (e.1 < 32)).foldl (fun t e => t.setPlane e.1 e.2 { t.plane e.1 e.2 with worn := true }) s

/-- R269, R266: block `b` senses plane `p`, or stays unconfigured where there is none; every flip-flop takes its initial
value. -/
def State.senseBlock (s : State) (b : Nat) (p : Option Nat) : State :=
  match p with
  | some p => let t := s.loadPlane b p true; if (s.plane b p).worn then t.planeError b p else t
  | none => ((s.modBlock b fun x => { x with loaded := false }).wrs [(FAB.STATUS_UNCONF b, 1), (FAB.STATUS_RUN b, 0)])

/-! ### Latch protection (R265) -/

/-- R265: the scanner finds a parity error in frame `fa` of block `b`. -/
def State.parityError (s : State) (b fa : Nat) : State :=
  let x := s.block b
  if !x.loaded || x.swap == .running || 2048 ≤ fa then s
  else
    let used := s.rd (FAB.PLANE_TILE_USED b (s.activePlane b))
    let t := fa / 256
    let c := 8 * b + t
    let s1 := s.modBlock b fun y => { y with reload := y.reload ++ [fa] }
    if fa % 256 < 240 then
      if bitOf used t then s1.reportAs 0x09 c 0 (if s.cellBusy c then [s.leadOf c] else []) else s1
    else if used ≠ 0 then s1.reportAs 0x09 (256 + b) 1 [] else s1

/-- LATCH_PARITY_ERROR (R265). -/
def execLatchParityError (b fa : Nat) (s : State) : Host.Outcome State Fault Refusal := .next (s.parityError b fa)

/-- FRAME_RELOAD (R265, R266): frame `fa` is sensed again; `bad` says that its CRC failed twice. -/
def execFrameReload (b fa : Nat) (bad : Bool) (s : State) : Host.Outcome State Fault Refusal :=
  .next (if (s.block b).reload.contains fa then
    let s1 := s.modBlock b fun x => { x with reload := x.reload.filter (· != fa) }
    if bad then s1.planeError b (s.activePlane b)
    else (s1.count (FAB.LATCH_CORR b) 1).wr (FAB.LATCH_LAST_FA b) fa
  else s)

/-! ### Hooks of a tile (R250, R251, R54) -/

/-- R250, R264: the fabric clock of block `b` runs and its tiles are not gated. -/
def State.tilesRun (s : State) (b : Nat) : Bool :=
  s.flag (FAB.STATUS_RUN b) && !s.flag (FAB.STATUS_OVERCLK b) && !s.frozen && (s.block b).swap != .running

/-- R250: the tile of cell `c` pushes a 32-bit word; a push into a full queue is ignored. -/
def State.pushLane (s : State) (c v : Nat) : State :=
  if (s.cell c).laneQ.length < 16 then s.modCell c fun x => { x with laneQ := x.laneQ ++ [v % 2 ^ 32] } else s

/-- FABRIC_PUSH (R250, R248): in its cycles up to a push, the design of the tile of cell `c` makes the uses `v.2` of its
block's hardened units; then it pushes `v.1`. The answer is what the tile sees: the pulse of QOVF, QLEVEL and FULL after the push, and
what the units gave. -/
def execFabricPush (c : Nat) (v : Nat × List UnitOp) (s : State) : Host.Outcome State Fault Refusal :=
  .next (if s.tilesRun (blockOf c) then
    let r := s.useUnits (blockOf c) v.2
    let t := r.2.pushLane c v.1
    let n := (t.cell c).laneQ.length
    { t with answer := [b2n (decide (16 ≤ (s.cell c).laneQ.length)), n, b2n (n == 16)] ++ r.1 }
  else s)

/-- R251: a tap entry as its 51 bits. -/
def TapE.word (e : TapE) : Nat := e.fbits + 2 ^ 32 * e.sc + 2 ^ 48 * b2n e.fc + 2 ^ 49 * b2n e.tmpl + 2 ^ 50 * b2n e.lost

/-- TAP_TAKE (R251): the tile of cell `c` takes the oldest tap entry. -/
def execTapTake (c : Nat) (s : State) : Host.Outcome State Fault Refusal :=
  .next (match (s.cell c).tapQ with
    | [] => s
    | e :: t => if s.tilesRun (blockOf c) then { s.modCell c fun x => { x with tapQ := t } with answer := [e.word] } else s)

/-- R54, R249, R467: output `k` of the tile of cell `c` becomes `v`: 0 to 3 FABk, 4 to 6 user event k - 4, 7 to 9 the level and
10 to 12 the output enable of the block's user I/O (log 118). -/
def State.driveOutput (s : State) (c k : Nat) (v : Bool) : State :=
  if k < 4 then s.driveFab c (putBit (s.cell c).fab k v)
  else if k < 7 then s.modCell c fun x => { x with userEvt := putBit x.userEvt (k - 4) v }
  else if k < 13 then s.modBlock (blockOf c) fun x => { x with userIo := putBit x.userIo (k - 7) v }
  else s

/-- FAB_CONDITION (R54): the tile of cell `c` changes one of its outputs. -/
def execFabCondition (c k : Nat) (v : Bool) (s : State) : Host.Outcome State Fault Refusal :=
  .next (if s.tilesRun (blockOf c) then s.driveOutput c k v else s)

end Sys2Proof.Machine
end

