-- ==== Sys2Proof/Machine/Targets.lean ====
section
/-! DEFINITION. Packets of the network (spec/12): the targets that addresses name, the paths of the tree with their
arbitrated outputs and links, and the waybills and link units that a packet is made of. -/

namespace Sys2Proof.Machine

/-- R378: the memory test modes are reachable. -/
def State.testModes (s : State) : Bool := s.flag LC.STATE_TEST_MODES

/-! ### Records of the ledger (R219, R227) -/

/-- R227: the key of a record without MEMBER. -/
def FailRec.key (r : FailRec) : Nat := r.x % 2 ^ 20 + r.y % 2 ^ 16 * 2 ^ 20 + r.z % 64 * 2 ^ 36 + r.site % 256 * 2 ^ 42

/-- R227: the hash of a key of 50 bits: home in the two low bits, bucket above. -/
def ledgerHash (k salt : Nat) : Nat :=
  Nat.xor (Nat.xor (bits k 0 22) (bits k 22 22)) (Nat.xor (bits k 44 6) salt) % 2 ^ 22

/-- R227: the home of a record. -/
def State.ledgerHome (s : State) (r : FailRec) : Nat := ledgerHash r.key (s.rd (LDG.CTRL_SALT 0)) % 4

/-- R219: the three words of a record. -/
def FailRec.words (r : FailRec) : List Nat :=
  [bits r.sc 0 48 + 2 ^ 48 * (r.site % 256) + 2 ^ 56 * (r.cell % 256) + 2 ^ 64 * b2n r.voidf + 2 ^ 65 * b2n r.bfail
      + 2 ^ 66 * b2n r.rv + 2 ^ 67 * b2n r.av + 2 ^ 68 * b2n r.spill,
    bits r.fbits 0 32 + 2 ^ 32 * (r.tag % 65536) + 2 ^ 48 * (r.acct % 65536),
    r.x % 2 ^ 20 + 2 ^ 20 * (r.y % 65536) + 2 ^ 36 * (r.z % 64) + 2 ^ 42 * (r.member % 64) + 2 ^ 48 * (r.epoch % 256)]

/-- R219: the record of three words. -/
def FailRec.ofWords (ws : List Nat) : FailRec :=
  let w (k : Nat) : Nat := ws.getD k 0
  { sc := bits (w 0) 0 48, site := bits (w 0) 48 8, cell := bits (w 0) 56 8, voidf := bitOf (w 0) 64, bfail := bitOf (w 0) 65,
    rv := bitOf (w 0) 66, av := bitOf (w 0) 67, spill := bitOf (w 0) 68, fbits := bits (w 1) 0 32, tag := bits (w 1) 32 16,
    acct := bits (w 1) 48 16, x := bits (w 2) 0 20, y := bits (w 2) 20 16, z := bits (w 2) 36 6, member := bits (w 2) 42 6,
    epoch := bits (w 2) 48 8 }

/-! ### Targets (R271, R272, R299, R303) -/

/-- R303: berth class and instance. -/
def Target.berth : Target → Nat × Nat
  | .pad c => (0, c)
  | .cellRegs c => (1, c)
  | .depot b => (2, b)
  | .blockRegs b => (3, b)
  | .ddr r => (4 + r, 0)
  | .accounts r => (8, r)
  | .regionRegs r => (9, r)
  | .home r => (10, r)
  | .store => (11, 0)
  | .code => (11, 0)
  | .stewardMem => (12, 0)
  | .oasis => (13, 0)
  | .chipRegs => (14, 0)
  | .nowhere => (14, 0)

/-- R310: the entries of the route table that a route to the target hits, as a mask of 44 bits. -/
def Target.route : Target → Nat
  | .pad c => 2 ^ blockOf c
  | .cellRegs c => 2 ^ blockOf c
  | .depot b => 2 ^ b
  | .blockRegs b => 2 ^ b
  | .ddr r => 2 ^ (32 + 3 * r)
  | .accounts r => 2 ^ (33 + 3 * r)
  | .regionRegs r => 2 ^ (34 + 3 * r)
  | _ => 0

/-- The target of a request: an update names its home in the region field of its address (R228). -/
def Req.target (q : Req) : Target :=
  match q.kind with
  | .lupd => .home (q.addr % 4)
  | _ => targetOf q.addr

/-- R276: kind of an access: 0 read, 1 write, 2 fetch. -/
def Req.access (q : Req) : Nat :=
  match q.kind with
  | .rd => b2n q.fetch * 2
  | .rdp => b2n q.fetch * 2
  | _ => 1

/-- The request reads or writes one word with byte enables. -/
def Req.isPartial (q : Req) : Bool := q.kind == .rdp || q.kind == .wrp

/-- First and last byte of an access. -/
def Req.firstByte (q : Req) : Nat := if q.isPartial then q.addr + ((onesBelow q.bytes 16).headD 0) else q.addr
def Req.lastByte (q : Req) : Nat :=
  if q.isPartial then q.addr + ((onesBelow q.bytes 16).getLastD 0) else q.addr + q.target.slot * q.len - 1

/-- R273: a run of bytes that is naturally aligned and of size 1, 2, 4, 8 or, in a slot, 16. -/
def alignedRun (mask slot : Nat) : Bool :=
  ([1, 2, 4, 8, 16] : List Nat).any fun n => decide (n ≤ slot) && (List.range (slot / n)).any fun k =>
    mask == (2 ^ n - 1) * 2 ^ (n * k)

/-- R300: a write carries as many words as LENGTH says, and outside word-view areas bits [71:64] of each are zero. -/
def Req.dataOk (q : Req) : Bool := q.data.length == q.len && (q.target.slot == 16 || q.data.all fun v => decide (v < 2 ^ 64))

/-- R273, R300: the request is well formed. -/
def Req.wellFormed (q : Req) : Bool :=
  let w := q.target.slot
  let whole := q.addr % w == 0 && decide (1 ≤ q.len) && decide (q.addr / w % 8 + q.len ≤ 8)
  let part := q.addr % w == 0 && q.len == 1 && alignedRun q.bytes w
  match q.kind with
  | .lupd => q.len == 3
  | .rd => whole
  | .wr => whole && q.dataOk
  | .rdp => part
  | .wrp => part && q.dataOk

/-! ### Paths through the tree (R296, R306, R307) -/

/-- Where an initiator joins the tree: a port of the Trunk, a port of a region Waystation, or a block Waystation. -/
inductive Joint where
  | trunk (p : Nat)
  | region (r p : Nat)
  | block (b : Nat)
  deriving DecidableEq, Repr

/-- R307: where initiator `i` joins the tree. -/
def jointOf (i : Nat) : Joint :=
  if i < 4 then .trunk 4
  else if i < 13 then .trunk 5
  else if i < 45 then .block (i - 13)
  else if i < 61 then .region ((i - 45) / 4) 9
  else if i = 61 then .trunk 6
  else .region (i - 64) 10

/-- The block and the region of an initiator. -/
def Joint.block? : Joint → Option Nat
  | .block b => some b
  | _ => none
def Joint.region? : Joint → Option Nat
  | .block b => some (regionOfBlock b)
  | .region r _ => some r
  | .trunk _ => none

/-- The arbitrated outputs (R306): the Trunk's toward region `r` and toward chip unit `u`. -/
abbrev trunkDown (r : Nat) : Nat := r
abbrev trunkUnit (u : Nat) : Nat := 4 + u
/-- Output `o` of the Waystation of region `r`: 0 to 7 its blocks, 8 the channel, 9 the accounts, 10 the region registers,
11 the ledger home, 12 the uplink. -/
abbrev regionOut (r o : Nat) : Nat := 8 + 16 * r + o

/-- The block, the region and the region output, or the chip unit, in which a target lies. -/
def Target.block? : Target → Option Nat
  | .pad c => some (blockOf c)
  | .cellRegs c => some (blockOf c)
  | .depot b => some b
  | .blockRegs b => some b
  | _ => none
def Target.region? : Target → Option (Nat × Nat)
  | .pad c => some (regionOf c, blockOf c % 8)
  | .cellRegs c => some (regionOf c, blockOf c % 8)
  | .depot b => some (regionOfBlock b, b % 8)
  | .blockRegs b => some (regionOfBlock b, b % 8)
  | .ddr r => some (r, 8)
  | .accounts r => some (r, 9)
  | .regionRegs r => some (r, 10)
  | .home r => some (r, 11)
  | _ => none
def Target.chipUnit : Target → Nat
  | .store => 0
  | .code => 0
  | .stewardMem => 1
  | .oasis => 2
  | _ => 3

/-- R296, R306: the arbitrated outputs on the one path of a request, each with the input port at which the packet waits
for it. -/
def hops (i : Nat) (t : Target) : List (Nat × Nat) :=
  let fromRegion (r p : Nat) : List (Nat × Nat) := match t.region? with
    | some (q, o) => if q = r then [(regionOut r o, p)] else [(regionOut r 12, p), (trunkDown q, r), (regionOut q o, 8)]
    | none => [(regionOut r 12, p), (trunkUnit t.chipUnit, r)]
  match jointOf i with
  | .trunk p => match t.region? with
    | some (q, o) => [(trunkDown q, p), (regionOut q o, 8)]
    | none => [(trunkUnit t.chipUnit, p)]
  | .region r p => fromRegion r p
  | .block b => if t.block? = some b then [] else fromRegion (regionOfBlock b) (b % 8)

/-- The outputs that request `q` has still to pass. -/
def Req.toGo (q : Req) : List (Nat × Nat) := (hops q.init q.target).drop q.hop

/-- The cell whose narrow link leads to a target. -/
def Target.cell? : Target → Option Nat
  | .pad c => some c
  | .cellRegs c => some c
  | _ => none

/-- R296, R320: the links of a request's path in order, by their number in NOC.LINKk; its response takes them back. -/
def links (i : Nat) (t : Target) : List Nat :=
  let j := jointOf i
  let tr := t.region?.map (·.1)
  (match j.block? with
    | some b => if t.block? = some b then [] else [256 + b]
    | none => []) ++
  (match j.region? with
    | some r => if tr = some r then [] else [288 + r]
    | none => []) ++
  (match tr with
    | some q => if j.region? = some q then [] else [288 + q]
    | none => []) ++
  (match t.block? with
    | some b => if j.block? = some b then [] else [256 + b]
    | none => []) ++
  t.cell?.toList

/-- R316: link `k` is narrow. -/
def narrowLink (k : Nat) : Bool := decide (k < 256)

/-! ### Waybills and units (R297 to R300) -/

/-- R299: the route of a request: EP, CELL, BLOCK and REGION at their bits. Fields that the table leaves open are 0
(log 119). -/
def Target.routeBits (t : Target) : Nat :=
  let route (ep cell block region : Nat) : Nat := ep + 4 * cell + 32 * block + 1024 * region
  match t with
  | .pad c => route 0 (c % 8) (blockOf c) (regionOf c)
  | .cellRegs c => route 1 (c % 8) (blockOf c) (regionOf c)
  | .depot b => route 2 0 b (regionOfBlock b)
  | .blockRegs b => route 2 1 b (regionOfBlock b)
  | .ddr r => route 3 0 0 r
  | .accounts r => route 3 1 0 r
  | .regionRegs r => route 3 2 0 r
  | .home r => route 3 3 0 r
  | u => route 3 4 u.chipUnit 0

/-- R300: CMD of a request. -/
def ReqKind.cmd : ReqKind → Nat
  | .rd => 0x01
  | .wr => 0x02
  | .rdp => 0x03
  | .wrp => 0x04
  | .lupd => 0x05

/-- R300: CMD of a response with a status to a request of a kind. -/
def rspCmd (k : ReqKind) (status : Nat) : Nat :=
  if status ≠ 0 ∧ status ≠ 8 then 0x23 else if k = .rd ∨ k = .rdp then 0x21 else 0x22

/-- R298: bits [47:0] of a waybill from its route bits, CMD and LENGTH. -/
def Req.waybill (q : Req) (route cmd len : Nat) : Nat :=
  route + 2 ^ 12 * cmd + 2 ^ 18 * q.init + 2 ^ 25 * (q.subid % 32) + 2 ^ 30 * (q.tag % 256) + 2 ^ 38 * len +
    2 ^ 44 * (q.tariff % 16)

/-- R298, R300: a packet: bits [47:0] of its waybill, ADDR and BYTE_EN of a request, its data words. -/
structure Packet where
  waybill : Nat
  request : Bool
  addr : Nat
  en : Nat
  words : List Nat
  deriving DecidableEq, Repr

/-- R300: the packet of a request. An update's ADDR is 0 (log 119). -/
def Req.packet (q : Req) : Packet :=
  { waybill := q.waybill q.target.routeBits q.kind.cmd (if q.isPartial then 1 else q.len), request := true,
    addr := if q.kind = .lupd then 0 else q.addr % 2 ^ 48, en := if q.isPartial then q.bytes % 2 ^ 16 else 0,
    words := if q.kind = .rd ∨ q.kind = .rdp then [] else q.data }

/-- R298 to R300: the packet of a response: route bits [7:0] hold the status and [11:8] are zero. -/
def Rsp.packet (r : Rsp) : Packet :=
  let cmd := rspCmd r.req.kind r.status
  { waybill := r.req.waybill (r.status % 256) cmd (if cmd = 0x21 then r.data.length else 0), request := false, addr := 0, en := 0,
    words := if cmd = 0x21 then r.data else [] }

/-- R297: CRC-5 with polynomial x^5 + x^2 + 1 and initial value all ones over [82:0], the highest bit first (log 120). -/
def crc5 (v : Nat) : Nat :=
  (List.range 83).foldl (fun c k => Nat.xor (c * 2 % 32) (if bitOf c 4 != bitOf v (82 - k) then 5 else 0)) 31

/-- R297: a narrow unit. -/
def narrowUnit (payload type : Nat) (last : Bool) : Nat :=
  let body := payload % 2 ^ 72 + 2 ^ 72 * type + 2 ^ 74 * b2n last
  let v := body + 2 ^ 75 * (Config.linkCheck body % 256)
  v + 2 ^ 83 * crc5 v

/-- R297, R300: the units of a packet on a narrow link: its waybill, the address bale of a request, its data. -/
def Packet.narrow (p : Packet) : List Nat :=
  let bales := (if p.request then [p.addr + 2 ^ 48 * p.en] else []) ++ p.words
  narrowUnit p.waybill 1 bales.isEmpty :: (bales.zipIdx.map fun e => narrowUnit e.1 2 (e.2 + 1 == bales.length))

/-- R297: the third of a wide unit that a code covers with its own bits; TYPE goes with the last (log 120). -/
def thirdOf (v j : Nat) : Nat :=
  bits v (224 * j) 224 + 2 ^ 224 * bits v (672 + 10 * j) 10 + (if j = 2 then 2 ^ 234 * bits v 702 2 else 0)

/-- R297: the unit of a packet on a wide link: the waybill with ADDR, the words, BYTE_EN in word 7, the three codes, TYPE. -/
def Packet.wide (p : Packet) : Nat :=
  let ws := (p.words.zipIdx.map fun e => word72 e.1 * 2 ^ (72 * e.2 + 96)).sum
  let body := p.waybill + 2 ^ 48 * p.addr + ws + 2 ^ (72 * 7 + 96) * p.en + 2 ^ 702
  body + ((List.range 3).map fun j => 2 ^ (672 + 10 * j) * (Config.wideCheck j (thirdOf body j) % 1024)).sum

/-- The units of a packet on link `k`. -/
def Packet.units (p : Packet) (k : Nat) : List Nat := if narrowLink k then p.narrow else [p.wide]

/-- R316: what the check of a unit finds in an error pattern: 0 nothing, 1 corrected, 2 detected. More than two bits under
one code count as detected (log 120). -/
def unitClass (k err : Nat) : Nat :=
  if narrowLink k then
    let n := popCount (bits err 0 83) 83
    if bits err 83 5 ≠ 0 then 2 else min n 2
  else (List.range 3).foldl (fun m j => max m (min 2 (popCount (thirdOf err j) 236))) 0

/-- R318: the waybill lies in the part of unit `u` that `err` makes uncorrectable. -/
def waybillHit (k u err : Nat) : Bool :=
  if narrowLink k then u == 0 else decide (2 ≤ popCount (thirdOf err 0) 236)

end Sys2Proof.Machine
end

