-- ==== Sys2Proof/Machine/Network.lean ====
section
/-! DEFINITION. The network (spec/12) and the region registers (spec/11): the checks of an initiator interface, berths and
responses, arbitration, route tables, link errors, toll counters. What a target does with a request it serves is in
`Serve` and `Bus`. -/

namespace Sys2Proof.Machine

/-! ### Region registers (R272 to R276) -/

/-- R274: the lowest-numbered enabled region of master `m` that holds address `a`. -/
def State.mprOf (s : State) (m a : Nat) : Option Nat :=
  (List.range 16).find? fun n => s.flag (MPR.BASE_EN m n) && decide (4096 * s.rd (MPR.BASE_BASE m n) ≤ a) &&
    decide (a < 4096 * (s.rd (MPR.LIMIT_LIMIT m n) + 1))

/-- R274: why an access of master `m` to bytes `a` to `z` is refused by its region registers; 0 when it is not. -/
def State.mprReason (s : State) (m kind a z : Nat) : Nat :=
  match s.mprOf m a with
  | none => 1
  | some n =>
    let xo := s.flag (MPR.BASE_XO m n)
    if 4096 * (s.rd (MPR.LIMIT_LIMIT m n) + 1) ≤ z then 1
    else if kind = 0 then (if xo then 3 else if s.flag (MPR.BASE_R m n) then 0 else 2)
    else if kind = 1 then (if s.flag (MPR.BASE_W m n) then 0 else 2)
    else if s.flag (MPR.BASE_X m n) && (!xo || decide (m < 4)) then 0 else 2

/-- R272, R6, R412, R274: why an access is refused; 0 when it is not. -/
def State.accessReason (s : State) (m kind a z : Nat) : Nat :=
  let t := targetOf a
  if t.isRegs then (if m < 5 ∨ m = 61 then 0 else 6)
  else if t = .nowhere ∨ targetOf z ≠ t then 4
  else if kind = 1 ∧ t = .code then 5
  else if kind = 1 ∧ t = .oasis ∧ a < oasisBase + 0x24000 then 2
  else match t with
    | .ddr r =>
      if s.rd (DDR.STATUS_STATE r) = 2 ∧ s.rd (DDR.CAP_WORDS r) ≤ (z - ddrBase r) / 16 then 4 else s.mprReason m kind a z
    | _ => s.mprReason m kind a z

/-- R276: a refusal is counted and, when no record is valid, recorded. -/
def State.violation (s : State) (m kind reason a : Nat) : State :=
  let t := s.count MPR.VIOL_COUNT_COUNT 1
  if t.flag MPR.VIOL_INFO_VALID then t
  else t.wrs [(MPR.VIOL_INFO_MASTER, m), (MPR.VIOL_INFO_KIND, kind), (MPR.VIOL_INFO_REASON, reason), (MPR.VIOL_INFO_VALID, 1),
    (MPR.VIOL_ADDR_ADDR, a)]

/-- R393, R276: a host request is refused in freeze. No reason code names freeze: REASON is a free value (log 132). -/
def State.frozenViolation (s : State) (kind a : Nat) : State :=
  ((s.count DBG.REFUSED_HOST 1).drawn).violation 4 kind (s.freeVal 3) a

/-- R275: a write of the bits `mask` of a region register of master `t` by master `m`. -/
def State.writeMpr (s : State) (m t n which mask v : Nat) : State :=
  if s.flag (MPR.BASE_LOCK t n) || !(if t = 61 then m == 61 else decide (m < 4)) then s.wr MPR.STATUS_WR_IGN 1
  else if which = 0 then
    s.wrs (([MPR.BASE_BASE t n, MPR.BASE_EN t n, MPR.BASE_R t n, MPR.BASE_W t n, MPR.BASE_X t n, MPR.BASE_XO t n,
      MPR.BASE_LOCK t n]).map fun f => (f, s.merged f mask v))
  else s.wr (MPR.LIMIT_LIMIT t n) (s.merged (MPR.LIMIT_LIMIT t n) mask v)

/-- MPR_WRITE (R275): master `m` writes BASE (0) or LIMIT (1) of region `n` of master `t`. -/
def execMprWrite (m t n which mask v : Nat) (s : State) : Host.Outcome State Fault Refusal :=
  .next (s.atReg m (MPR.BASE_BASE t n).addr fun s => s.writeMpr m t n which mask v)

/-! ### Ledger updates (R224, R228) -/

/-- R224, R300: the update `u` to home `h` as a request of its engine. -/
def lupReq (h : Nat) (u : Upd) : Req :=
  { init := 64 + u.region, tag := u.eid, subid := 0, kind := .lupd, addr := h, len := 3, bytes := 0, data := u.r.words, fetch := false }

/-- R228, R234: the update that is request `q` ends at its engine; `new` says that the home answered NEW. Its record goes on to its
account. -/
def State.updateAnswered (s : State) (q : Req) (new : Bool) : State :=
  match (s.region (q.init - 64)).sent.find? fun u => u.eid == q.tag with
  | none => s
  | some u => s.modRegion (q.init - 64) fun x =>
      { x with sent := x.sent.erase u, acctQ := if u.acct then x.acctQ ++ [{ u with fresh := new }] else x.acctQ }

/-! ### Berths and response slots (R302 to R305) -/

/-- R305: response slots of an initiator. -/
def responseSlots (i : Nat) : Nat :=
  if i < 4 then 32 else if i = 4 then 64 else if i < 13 then 32 else if i < 45 then 128 else if i < 62 then 16 else 64

/-- R303: the requests whose response may still come or time out: on their way, held by CLOSE, at a target, answered, or
lost. -/
def State.outstanding (s : State) : List Req :=
  s.net.flight ++ s.net.held ++ s.store.waiting ++ s.net.rsps.map (·.req) ++ s.net.lost

/-- R319: a request that is equal to `q` has timed out, and its response is to be discarded. -/
def State.timedOut (s : State) (q : Req) : Bool := s.net.dead.any q.same

/-- R319: some request equal to `q` is outstanding and has not timed out. -/
def State.expected (s : State) (q : Req) : Bool :=
  decide ((s.net.dead.filter q.same).length < (s.outstanding.filter q.same).length)

/-- R303, R318: berths that initiator `i` holds at an instance of a class. -/
def State.held (s : State) (i : Nat) (b : Nat × Nat) : Nat :=
  ((s.outstanding ++ s.net.gone).filter fun q => q.init == i && q.target.berth == b).length

/-- Instances of a berth class. -/
def classInstances (c : Nat) : Nat := ([256, 256, 32, 32, 1, 1, 1, 1, 4, 4, 4, 1, 1, 1, 1] : List Nat).getD c 1

/-- R304: what initiator `i` takes of an instance. -/
def State.berthUse (s : State) (i c n : Nat) : Nat := max (s.rd (NOC.BERTH_GRANT i c)) (s.held i (c, n))

/-- R304: the sum of what all initiators take of an instance. -/
def State.instanceUse (s : State) (c n : Nat) : Nat :=
  (((List.range 68).filter fun i => i != 62 && i != 63).map fun i => s.berthUse i c n).sum

/-- R304: a write of the bits `mask` of NOC.BERTHi_c by master `m`. -/
def State.writeGrant (s : State) (m i c mask v : Nat) : State :=
  let new := s.merged (NOC.BERTH_GRANT i c) mask v
  if c = 10 then s
  else if 4 ≤ m then s.wr NOC.STATUS_WR_IGN 1
  else
    let t := s.wr (NOC.BERTH_GRANT i c) new
    if new ≤ s.rd (NOC.BERTH_GRANT i c) then t
    else if (List.range (classInstances c)).all fun n => decide (t.instanceUse c n ≤ classSlots c) then t
    else s.wr NOC.STATUS_WR_IGN 1

/-- BERTH_GRANT_WRITE (R304). -/
def execBerthGrantWrite (m i c mask v : Nat) (s : State) : Host.Outcome State Fault Refusal :=
  .next (s.atReg m (NOC.BERTH_GRANT i c).addr fun s => s.writeGrant m i c mask v)

/-! ### Toll counters (R309) -/

/-- R309: bytes that one word of a request counts. -/
def Target.tollBytes (t : Target) : Nat := if t.slot = 16 then 9 else 8

/-- R309: the histogram bin of a latency in ns. -/
def tollBin (ns : Nat) : Nat :=
  if ns < 16 then 0 else if 262144 ≤ ns then 15 else ((List.range 14).find? fun k => decide (ns < 8 * 2 ^ (k + 2))).getD 13 + 1

/-- R309: a response counts in the toll of its initiator: `lat` FIO cycles after the request left. -/
def State.tollResponse (s : State) (q : Req) (words status lat : Nat) : State :=
  let i := q.init
  let ns := lat * 5 / 2
  let s1 := ((s.count (NOC.TOLL_A_BYTES i) (q.target.tollBytes * (if q.access = 1 then 0 else words))).wr (NOC.TOLL_C_MAXLAT i)
    (max (s.rd (NOC.TOLL_C_MAXLAT i)) (min ns (2 ^ 32 - 1)))).count (NOC.TOLL_H_HIST i (tollBin ns)) 1
  if status = 0x0A then s1.count (NOC.TOLL_D_NO_ROUTE i) 1
  else if status = 6 ∨ status = 5 then s1.count (NOC.TOLL_D_FAULT i) 1 else s1

/-- R309: a write of NOC.TOLL_CTRL.CLEAR clears every toll counter. -/
def State.tollClear (s : State) : State := s.resetRegs 0x610000 0x614400

/-- TOLL_CLEAR (R309). -/
def execTollClear (s : State) : Host.Outcome State Fault Refusal := .next (s.atReg 0 NOC.TOLL_CTRL_CLEAR.addr State.tollClear)

/-! ### Issue (R302) and completion (R301, R276) -/

/-- R82, R88, R276: an error ends the active descriptor of a stream DMA. -/
def State.streamError (s : State) (c : Nat) : State :=
  match (List.range 4).find? fun n => s.flag (SEQ.SD_CTRL_ACTIVE c n) with
  | some n => (s.stopDma c).wr (SEQ.SD_CTRL_ERR c n) 1
  | none => s

/-- R449, R450: the run of host DMA channel `k` ends. -/
def State.dmaEnd (s : State) (k st kind : Nat) (stopped : Bool) : State :=
  s.wrs [(DMA.STATUS_STATUS k, st), (DMA.STATUS_PEND k, 0), (DMA.STATUS_STOPPED k, b2n stopped), (DMA.STATUS_KIND k, kind),
    (DMA.STATUS_EVT k, 1)]

/-- R445: a host request fails with status `st` on account of an access at `a`: counted, and recorded when no record is
valid. -/
def State.hostError (s : State) (a st : Nat) : State :=
  let t := (s.count PCI.ERR_CA 1).wr PCI.STATUS_ERR_EVT 1
  if t.flag PCI.ERR_VALID then t else t.wrs [(PCI.ERR_ADDR_ADDR, a), (PCI.ERR_ADDR_STATUS, st), (PCI.ERR_VALID, 1)]

/-- R276: what an error response does at initiator of request `q`: a host request fails (R445), a host DMA channel (R449)
and a stream DMA (R88) stop with an error. -/
def State.errorAt (s : State) (q : Req) (status : Nat) : State :=
  let i := q.init
  if i = 4 then s.hostError q.firstByte status
  else if 5 ≤ i ∧ i < 13 then (if s.flag (DMA.STATUS_PEND (i - 5)) then s.dmaEnd (i - 5) 6 2 false else s)
  else if 13 ≤ i ∧ i < 45 then s.streamError (8 * (i - 13) + q.subid % 8)
  else s

/-- A request completes at its initiator; TORN comes with data and is no error (R323). The answer to an update says whether its
record is NEW (R228). -/
def State.finish (s : State) (q : Req) (status : Nat) (data : List Nat) : State :=
  let t := if q.kind = .lupd then s.updateAnswered q (status == 0 && data.headD 0 == 1) else s
  { (if status ≠ 0 ∧ status ≠ 8 then t.errorAt q status else t) with answer := status :: data }

/-- R300: the bytes of a word that BYTE_EN selects, the others zero (log 38). -/
def keepBytes (en v : Nat) : Nat := ((onesBelow en 16).map fun k => bits v (8 * k) 8 * 2 ^ (8 * k)).sum

/-- A response enters the network; that of an RDP holds the bytes that BYTE_EN selects. -/
def State.respond (s : State) (q : Req) (status : Nat) (data : List Nat) : State :=
  let d := if q.kind = .rdp then data.map (keepBytes q.bytes) else data
  { s with net := { s.net with rsps := s.net.rsps ++ [⟨q, status, d⟩] } }

/-- The route table in force reaches the target. -/
def State.routed (s : State) (t : Target) : Bool := Nat.land (s.rd NOC.RT_ACT_V) t.route == t.route

/-- R309: a request counts in the toll of its initiator as it leaves. -/
def State.tollIssue (s : State) (q : Req) : State :=
  let words := if q.access = 1 then (if q.isPartial then 1 else q.len) else 0
  (s.count (NOC.TOLL_B_PACKETS q.init) 1).count (NOC.TOLL_A_BYTES q.init) (q.target.tollBytes * words)

/-- R310: a router holds the request until OPEN. -/
def State.routeHeldBack (s : State) (q : Req) : Bool := s.rd NOC.RECFG_STATE != 0 && Nat.land s.net.affected q.target.route != 0

/-- R298, R320: the tariff that the interface of initiator `i` copies into a waybill. -/
def State.tariffOf (s : State) (i : Nat) : Nat := max 1 (s.rd (NOC.ITARIFF_T i))

/-- R302, R310, R313, R413: a request that passed the checks leaves its interface; IDLE ends with it. -/
def State.launch (s : State) (q0 : Req) : State :=
  let q := { q0 with tariff := s.tariffOf q0.init, hop := 0 }
  let s1 := s.endIdle.tollIssue q
  if s.routeHeldBack q then
    { s1 with net := { s1.net with held := s1.net.held ++ [q] } }
  else if s.routed q.target then { s1 with net := { s1.net with flight := s1.net.flight ++ [q] } }
  else s1.respond q 0x0A []

/-- R378, R383, R515: the request goes to a unit that is served. -/
def State.lcServes (s : State) (q : Req) : Bool := s.lcOpen q.init q.target q.addr

/-- R444: no earlier write of the host is unanswered when its read leaves. -/
def State.inOrder (s : State) (q : Req) : Bool :=
  q.init != 4 || q.access == 1 || !((s.outstanding ++ s.net.waiting).any fun e => e.init == 4 && e.access == 1)

/-- R274: why the region registers and the address map refuse a request; 0 when they do not. A ledger update goes to no
address. -/
def State.refusedWhy (s : State) (q : Req) : Nat :=
  if q.kind = .lupd then 0 else s.accessReason q.init q.access q.firstByte q.lastByte

/-- R302: what an interface decides on a request: it leaves, it waits, or it is answered with a status. -/
inductive Check where
  | pass
  | wait
  | refused (st : Nat) (s : State)

/-- R303, R305, R444: a berth is free at the target instance, a response slot is free, and no read of the host passes a
write. -/
def State.mayIssue (s : State) (q : Req) : Bool :=
  s.inOrder q && decide (s.held q.init q.target.berth < s.rd (NOC.BERTH_GRANT q.init q.target.berth.1)) &&
    decide ((s.outstanding.filter fun e => e.init == q.init).length < responseSlots q.init)

/-- R302, R273, R378: the checks of an initiator interface, in order; an access that a steward's own protection stops does not come to it
(R421). In DOZE and DORMANT a request waits for the Trunk (R406). -/
def State.check (s : State) (q : Req) : Check :=
  let reason := s.refusedWhy q
  if !q.wellFormed then .refused (if 45 ≤ q.init ∧ q.init < 61 then 2 else 4) s
  else if s.pmpStops q.init q.access q.firstByte q.lastByte then .refused 4 s
  else if !s.lcServes q then .refused 4 s
  else if reason ≠ 0 then .refused 4 (s.violation q.init q.access reason q.firstByte)
  else if s.domainOff q.target then
    if s.flag PWR.CTRL_LEGACY_WAKE then .wait else .refused 9 (s.count (NOC.TOLL_D_DOMAIN_OFF q.init) 1)
  else if s.rd (NOC.BERTH_GRANT q.init q.target.berth.1) = 0 then .refused 4 (s.count (NOC.TOLL_D_DENIED q.init) 1)
  else if s.mayIssue q && decide (s.power.sleep < 2) then .pass else .wait

/-- R302: an interface judges a request and sends it where it passes. -/
def State.issue (s : State) (q : Req) : State :=
  match s.check q with
  | .pass => s.launch q
  | .wait => s.waits q
  | .refused st t => t.finish q st []

/-- A request by its initiator and tag. -/
def Req.is (q : Req) (i tag : Nat) : Bool := q.init == i && q.tag == tag

/-- REQUEST_ISSUE (R302): initiator `i` issues a request; a request of that tag that waits at the interface is judged
again instead. `kind` is 0 RD, 1 WR, 2 RDP, 3 WRP. A host access while the device is frozen, and a network access to a
channel under self-test, are served by R393 and R496. A fabric master requests while its block's tiles run (R263), a steward while no
fault holds it (R490). -/
def execRequestIssue (i tag subid kind addr len bytes : Nat) (data : List Nat) (fetch : Bool) (s : State) :
    Host.Outcome State Fault Refusal :=
  let fresh : Req :=
    { init := i, tag := tag, subid := subid,
      kind := if kind = 0 then .rd else if kind = 1 then .wr else if kind = 2 then .rdp else .wrp,
      addr := addr, len := len, bytes := bytes, data := data, fetch := fetch }
  .next (
    if s.frozen then
      if i = 4 then (s.frozenViolation fresh.access fresh.firstByte).finish fresh 4 [] else s
    else if (45 ≤ i ∧ i < 61 ∧ s.tilesRun (masterBlock i) = false) ∨ (i < 4 ∧ bitOf (s.rd FLT.STW_FAULTED) i = true) then s
    else match s.net.waiting.find? (·.is i tag) with
      | some q => (s.waitsNot q).issue q
      | none => s.issue fresh)

/-- R301: responses to one initiator from one target return in completion order: no earlier one of that target stands
before this. -/
def State.mayReturn (s : State) (r : Rsp) : Bool :=
  ((s.net.rsps.takeWhile (· != r)).all fun e => e.req.init != r.req.init || e.req.target.berth != r.req.target.berth)

/-- R301, R303, R309: a response arrives at its interface after `lat` FIO cycles and returns its berth. That to a request that
timed out (R319), or that a fabric master made before a swap (R263), is discarded. -/
def State.arrived (s : State) (r : Rsp) (lat : Nat) : State × Bool :=
  let s1 := { s with net := { s.net with rsps := s.net.rsps.erase r } }
  if s.timedOut r.req then ({ s1 with net := { s1.net with dead := s1.net.dead.eraseP r.req.same } }, false)
  else if s.net.orphans.any r.req.same then
    ({ s1.tollResponse r.req r.data.length r.status lat with
        net := { s1.net with orphans := s1.net.orphans.eraseP r.req.same } }, false)
  else (s1.tollResponse r.req r.data.length r.status lat, true)

/-- R301: a response with one of the statuses that `ok` accepts reaches its initiator after `lat` FIO cycles. -/
def State.deliver (s : State) (i tag lat : Nat) (ok : Rsp → Bool) : State :=
  match s.net.rsps.find? fun r => r.req.is i tag && ok r with
  | none => s
  | some r =>
    if !s.mayReturn r then s
    else
      let p := s.arrived r lat
      if p.2 then p.1.finish r.req r.status r.data else p.1

/-- RSP_DATA (R301): the data response to the read `tag` of initiator `i` arrives. -/
def execRspData (i tag lat : Nat) (s : State) : Host.Outcome State Fault Refusal :=
  .next (if s.frozen then s else s.deliver i tag lat fun r => (r.status == 0 || r.status == 8) && r.req.access != 1)

/-- RSP_ACK (R301): the acknowledgement of the write `tag` of initiator `i` arrives. -/
def execRspAck (i tag lat : Nat) (s : State) : Host.Outcome State Fault Refusal :=
  .next (if s.frozen then s else s.deliver i tag lat fun r => r.status == 0 && r.req.access == 1)

/-- RSP_ERR (R276): an error response to the request `tag` of initiator `i` arrives. -/
def execRspErr (i tag lat : Nat) (s : State) : Host.Outcome State Fault Refusal :=
  .next (if s.frozen then s else s.deliver i tag lat fun r => r.status != 0 && r.status != 8)

/-- RESPONSE_TIMEOUT (R319): the request `tag` of initiator `i` has had no response for RSP_TIMEOUT. -/
def execResponseTimeout (i tag : Nat) (s : State) : Host.Outcome State Fault Refusal :=
  .next (if s.frozen then s
    else match s.outstanding.find? fun q => q.is i tag && s.expected q with
      | none => s
      | some q =>
        let t := s.count (NOC.TOLL_D_FAULT i) 1
        ({ t with net := if t.net.lost.contains q then { t.net with lost := t.net.lost.erase q, gone := t.net.gone ++ [q] }
            else { t.net with dead := t.net.dead ++ [q] } }).finish q 5 [])

/-- COMPAT_WAKE_TIMEOUT (R315): the request `tag` has waited 200 µs for its domain. -/
def execCompatWakeTimeout (i tag : Nat) (s : State) : Host.Outcome State Fault Refusal :=
  .next (match s.net.waiting.find? fun q => q.is i tag && s.domainOff q.target with
    | none => s
    | some q => ((s.count (NOC.TOLL_D_FAULT i) 1).waitsNot q).finish q 5 [])

/-! ### Arbitration (R306 to R308) -/

/-- R307: the weight of input port `p` of an arbitrated output; 0 acts as 1. -/
def State.portWeight (s : State) (o p : Nat) : Nat :=
  max 1 (if o < 8 then s.rd (NOC.TRF_T_W p) else s.rd (NOC.TRF_R_W ((o - 8) / 16) p))

/-- The input ports of the router of an output (R307). -/
def outPorts (o : Nat) : List Nat := List.range (if o < 8 then 7 else 11)

/-- The packets that wait for output `o` at its port `p`, the first to come first. -/
def State.queueAt (s : State) (o p : Nat) : List Req := s.net.flight.filter fun q => q.toGo.head? == some (o, p)

/-- R306: in a round, the port goes on while its offer lasts, then the later ports have their turn. -/
def Round.next (r : Round) (ready : Nat → Bool) (ports : List Nat) : Option Nat :=
  ports.find? fun p => ready p && (if p = r.port then decide (r.used < r.weights.getD p 0) else decide (r.port < p ∧ r.weights ≠ []))

/-- R306, R307: the round of output `o` after the port that is served next; a new round begins with the weights of the
moment. -/
def State.nextRound (s : State) (o : Nat) : Option Round :=
  let r := Tab.get Round.none s.net.rounds o
  let ready (p : Nat) : Bool := !(s.queueAt o p).isEmpty
  match r.next ready (outPorts o) with
  | some p => some { r with port := p, used := if p = r.port then r.used + 1 else 1 }
  | none => ((outPorts o).find? ready).map fun p => ⟨p, 1, (outPorts o).map (s.portWeight o)⟩

/-- R306: the initiators that share an input port: the stewards, the host and its DMA, and a region's fabric masters
(log 119). -/
def sharedPort (o p : Nat) : Bool := if o < 8 then p == 4 || p == 5 else p == 9

/-- R306: the turn among the initiators of `q`, the packets that wait at one port: the initiator goes on for as many packets as
its tariff, then the next higher one has its turn, and after the highest the lowest. -/
def Turn.next (t : Turn) (q : List Req) : Option Turn :=
  let here := q.find? fun e => e.init == t.init
  match here.any fun e => decide (t.used < e.tariff) with
  | true => some { t with used := t.used + 1 }
  | false =>
    let is := q.map (·.init)
    (((List.range 68).filter fun i => decide (t.init < i) && is.contains i) ++
      (List.range 68).filter fun i => is.contains i).head?.map fun i => ⟨i, 1⟩

/-- R306: output `o` passes one packet on. -/
def State.passOne (s : State) (o : Nat) : State :=
  match s.nextRound o with
  | none => s
  | some r =>
    let q := s.queueAt o r.port
    let key := 16 * o + r.port
    let turn := if sharedPort o r.port then (Tab.get ⟨0, 0⟩ s.net.turns key).next q else none
    let pick := match turn with
      | some t => q.find? fun e => e.init == t.init
      | none => q.head?
    match pick with
    | none => s
    | some e =>
      { s with net := { s.net with
        flight := s.net.flight.erase e ++ [{ e with hop := e.hop + 1 }]
        rounds := Tab.set Round.none s.net.rounds o r
        turns := match turn with
          | some t => Tab.set ⟨0, 0⟩ s.net.turns key t
          | none => s.net.turns } }

/-- R306: the outputs on the path of request `tag` of initiator `i` pass packets on until it has arrived; each packet has at
most three to pass. -/
def State.travel (s : State) (i tag : Nat) : Nat → State
  | 0 => s
  | n + 1 => match (s.net.flight.find? (·.is i tag)).bind fun q => q.toGo.head? with
    | some (o, _) => (s.passOne o).travel i tag n
    | none => s

/-- R306: request `tag` of initiator `i` reaches its target. -/
def State.reach (s : State) (i tag : Nat) : State := s.travel i tag (3 * s.net.flight.length)

/-! ### Route tables (R310 to R313) -/

/-- NOC.RT_STAGE as RT_ACT shows it. -/
def State.rtStage (s : State) : Nat := s.rd NOC.RT_STAGE_BLK + 2 ^ 32 * s.rd NOC.RT_STAGE_RUNIT

/-- R310 steps 3 and 4: every affected packet has left the routers. -/
def State.drained (s : State) (cyc : Nat) : State :=
  s.wrs [(NOC.RECFG_STATE, 2), (NOC.RECFG_DRAINED_EVT, 1), (NOC.RECFG_DRAIN_CYC, cyc), (NOC.RT_ACT_V, s.rtStage)]

/-- R310 step 2, R312: a write of RECFG.CLOSE. -/
def State.recfgClose (s : State) : State :=
  if s.rd NOC.RECFG_STATE ≠ 0 then s.wr NOC.STATUS_WR_IGN 1
  else
    let a := Nat.xor s.rtStage (s.rd NOC.RT_ACT_V)
    let t := { s.wr NOC.RECFG_STATE 1 with net := { s.net with affected := a } }
    if a = 0 then t.drained 0 else t

/-- RECFG_CLOSE (R310). -/
def execRecfgClose (s : State) : Host.Outcome State Fault Refusal :=
  .next (s.atReg 0 NOC.RECFG_CLOSE.addr fun s => s.recfgClose)

/-- R310 step 3: the affected packets that routers have taken in reach their targets' buffers. -/
def State.reachAffected (s : State) : State :=
  (s.net.flight.filter fun q => Nat.land s.net.affected q.target.route != 0).foldl (fun t q => t.reach q.init q.tag) s

/-- DRAINED (R310): the drain took `cyc` Trunk cycles. -/
def execDrained (cyc : Nat) (s : State) : Host.Outcome State Fault Refusal :=
  .next (if s.rd NOC.RECFG_STATE = 1 ∧ s.frozen = false then s.reachAffected.drained cyc else s)

/-- R313: each waiting waybill is routed under RT_ACT. -/
def State.routeHeld (s : State) : List Req → State
  | [] => s
  | q :: t =>
    (if s.routed q.target then { s with net := { s.net with flight := s.net.flight ++ [q] } } else s.respond q 0x0A []).routeHeld t

/-- R310 step 5, R312: a write of RECFG.OPEN. -/
def State.recfgOpen (s : State) : State :=
  let st := s.rd NOC.RECFG_STATE
  if st = 1 then s.wr NOC.STATUS_WR_IGN 1
  else if st = 0 then s
  else ({ s.wr NOC.RECFG_STATE 0 with net := { s.net with held := [], affected := 0 } }).routeHeld s.net.held

/-- RECFG_OPEN (R313). -/
def execRecfgOpen (s : State) : Host.Outcome State Fault Refusal :=
  .next (s.atReg 0 NOC.RECFG_OPEN.addr fun s => s.recfgOpen)

/-! ### Link errors (R316 to R318) -/

/-- R317, R484: a poisoned packet on link `k` is counted and reported. -/
def State.poison (s : State) (k : Nat) : State :=
  ((s.count (NOC.LINK_POISON k) 1).wr (NOC.LINK_EVT k) 1).report (if k < 256 then 0x05 else if k < 288 then 0x0B else 0x13) k

/-- A packet on its way: a request or a response. -/
inductive Moving where
  | request (q : Req)
  | response (r : Rsp)
  deriving DecidableEq, Repr

/-- The request that a moving packet belongs to, and its packet. -/
def Moving.req : Moving → Req
  | .request q => q
  | .response r => r.req
def Moving.packet : Moving → Packet
  | .request q => q.packet
  | .response r => r.packet

/-- The packet of request `tag` of initiator `i` that is on its way. -/
def State.moving (s : State) (i tag : Nat) : Option Moving :=
  match s.net.flight.find? (·.is i tag), s.net.rsps.find? (·.req.is i tag) with
  | some q, _ => some (.request q)
  | none, some r => some (.response r)
  | none, none => none

/-- R318: the packet leaves the network. -/
def State.discard (s : State) : Moving → State
  | .request q => { s with net := { s.net with flight := s.net.flight.erase q } }
  | .response r => { s with net := { s.net with rsps := s.net.rsps.erase r } }

/-- R318: a poisoned packet whose waybill is intact (`hit` false) is answered with FAULT; one whose waybill is uncorrectable is
lost, and its berth stays held; no response to it comes any more, if it has timed out (R319). -/
def State.poisoned (s : State) (m : Moving) (hit : Bool) : State :=
  let t := s.discard m
  let q := m.req
  if !hit then t.respond q 6 []
  else
    let u := t.count (NOC.TOLL_E_LOST q.init) 1
    if t.timedOut q then { u with net := { u.net with dead := u.net.dead.eraseP q.same, gone := u.net.gone ++ [q] } }
    else { u with net := { u.net with lost := u.net.lost ++ [q] } }

/-- LINK_REPLAY (R316 to R318): on link `k`, a unit of the packet of request `tag` of initiator `i` is received as `how`
says. The answer is the units of the packet. -/
def execLinkReplay (k i tag : Nat) (how : LinkErr) (s : State) : Host.Outcome State Fault Refusal :=
  .next (if s.frozen then s else match s.moving i tag with
    | none => s
    | some m =>
      let us := m.packet.units k
      if !(links i m.req.target).contains k || decide (us.length ≤ how.u) then s
      else
        let t := { s with answer := us }
        match unitClass k how.e, unitClass k how.e2 with
        | 0, _ => t
        | 1, _ => t.count (NOC.LINK_CORR k) 1
        | _, 0 => t.count (NOC.LINK_RETRY k) 1
        | _, 1 => (t.count (NOC.LINK_RETRY k) 1).count (NOC.LINK_CORR k) 1
        | _, _ => ((t.count (NOC.LINK_RETRY k) 1).poison k).poisoned m (waybillHit k how.u how.e2))

end Sys2Proof.Machine
end

