-- ==== Sys2Proof/Machine/Ddr.lean ====
section
/-! DEFINITION. DDR5 channels and scratchpad port B (spec/11). -/

namespace Sys2Proof.Machine

/-- States of DDR.STATUS.STATE. -/
abbrev ddrOff : Nat := 0
abbrev ddrTraining : Nat := 1
abbrev ddrReady : Nat := 2
abbrev ddrSelfRefresh : Nat := 3
abbrev ddrFailed : Nat := 4

/-- R286: the capacity that DDR.CFG gives, in words. -/
def State.ddrCapacity (s : State) (r : Nat) : Nat :=
  (([2147483648, 3221225472, 4294967296] : List Nat).getD (s.rd (DDR.CFG_DENSITY r)) 0) * (s.rd (DDR.CFG_RANKS r) + 1)

/-- The channel enters a state; DDR.CAP shows the capacity while it is READY. -/
def State.setDdr (s : State) (r st : Nat) : State :=
  s.wrs [(DDR.STATUS_STATE r, st), (DDR.CAP_WORDS r, if st = ddrReady then s.ddrCapacity r else 0)]

/-- R291: the channel enters FAILED. -/
def State.ddrFail (s : State) (r why : Nat) : State := (s.setDdr r ddrFailed).wrs [(DDR.STATUS_WHY r, why), (DDR.STATUS_EVT r, 1)]

/-- R289: a write of DDR.CTRL.TRAIN = 1; a RATE or DENSITY of 3 is refused with WHY 1. -/
def State.ddrTrain (s : State) (r : Nat) : State :=
  let st := s.rd (DDR.STATUS_STATE r)
  if !s.regionOn r then s
  else if st ≠ ddrOff ∧ st ≠ ddrFailed then s.wr (DDR.STATUS_WR_IGN r) 1
  else if s.rd (DDR.CFG_RATE r) = 3 ∨ s.rd (DDR.CFG_DENSITY r) = 3 then s.ddrFail r 1
  else (s.setDdr r ddrTraining).wr (DDR.STATUS_WHY r) 0

/-- DDR_TRAIN (R289). -/
def execDdrTrain (r : Nat) (s : State) : Host.Outcome State Fault Refusal :=
  .next (s.atReg 0 (DDR.CTRL_TRAIN r).addr fun s => s.ddrTrain r)

/-- TRAINING_DONE (R289): training ends; `why` is 0 when it succeeded, else the step that failed. -/
def execTrainingDone (r why : Nat) (s : State) : Host.Outcome State Fault Refusal :=
  .next (if s.rd (DDR.STATUS_STATE r) ≠ ddrTraining then s
    else if why = 0 then s.setDdr r ddrReady else s.ddrFail r why)

/-- DDR_REFRESH (R290): the controller issues a refresh. -/
def execDdrRefresh (r : Nat) (s : State) : Host.Outcome State Fault Refusal :=
  .next (if s.rd (DDR.STATUS_STATE r) = ddrReady then s.modRegion r fun x => { x with refreshes := x.refreshes + 1 } else s)

/-- R287: where a channel with `ranks` ranks holds word `n`. -/
structure DramPlace where
  subchannel : Nat
  bankGroup : Nat
  column : Nat
  bank : Nat
  rank : Nat
  row : Nat
  word : Nat
  deriving DecidableEq, Repr

/-- R287: the map of a channel. -/
def dramPlace (ranks n : Nat) : DramPlace :=
  let k := n / 8
  let j := k / 2
  { subchannel := k % 2, bankGroup := bits j 0 3, column := 16 * bits j 3 6, bank := bits j 9 2,
    rank := if ranks = 2 then bits j 11 1 else 0, row := if ranks = 2 then j / 4096 else j / 2048, word := n % 8 }

/-- R287, R291: DDR.ECC_ADDR.DEVICE of device `dev` of the subchannel of burst `k`; 15 where it is unknown. -/
def deviceCode (k dev : Nat) : Nat := if dev < 5 then 5 * (dramPlace 1 (8 * k)).subchannel + dev else 15

/-- The places of the words of a burst. -/
abbrev wholeBurst : List Nat := List.range 8

/-- R288, R4: the error class of the words `ws` of burst `k` of channel `r`, an upset of the present read included. A word that
has been written whole since an uncorrectable error is good. -/
def State.burstClass (s : State) (r k : Nat) (ws : List Nat) (up : Nat) : Nat :=
  ws.foldl (fun a w => max a (s.eccOf (ddrBase r + 16 * (8 * k + w)) 0)) up

/-- R290, R291: a read of the words `ws` of burst `k`; an error of class `up` in device `dev` arises at it. A corrected burst is
written back; an uncorrectable one stays so. -/
def State.ddrRead (s : State) (r k : Nat) (ws : List Nat) (up dev : Nat) : State :=
  let e := s.burstClass r k ws up
  let put (f : Nat → Nat) : State := wholeBurst.foldl (fun t w =>
    let a := ddrBase r + 16 * (8 * k + w)
    { t with ecc := Tab.set 0 t.ecc a (f (s.eccOf a 0)) }) s
  let note (u : State) (kind : Nat) : State :=
    if u.flag (DDR.ECC_ADDR_VALID r) then u
    else u.wrs [(DDR.ECC_ADDR_WORD r, 8 * k), (DDR.ECC_ADDR_DEVICE r, deviceCode k dev), (DDR.ECC_ADDR_KIND r, kind),
      (DDR.ECC_ADDR_VALID r, 1)]
  if e = 0 then s
  else if e = 1 then
    let t := note ((put fun c => if c = 1 then 0 else c).count (DDR.ECC_CORR r) 1) 0
    let th := s.rd (DDR.EVT_CFG_CORR_THRESH r)
    if th ≠ 0 ∧ t.rd (DDR.ECC_CORR r) = th then t.wr (DDR.STATUS_EVT r) 1 else t
  else note (((put fun c => if 2 ≤ up then 2 else c).count (DDR.ECC_UNCORR r) 1).wr (DDR.STATUS_EVT r) 1) 1

/-- PATROL_SCRUB (R290): the patrol scrubber reads the next burst of channel `r`. -/
def execPatrolScrub (r up dev : Nat) (s : State) : Host.Outcome State Fault Refusal :=
  .next (
    let cap := s.rd (DDR.CAP_WORDS r)
    if s.rd (DDR.STATUS_STATE r) ≠ ddrReady ∨ s.rd (DDR.SCRUB_HOURS r) = 0 ∨ cap = 0 then s
    else
      let k := (s.region r).patrol
      let t := s.ddrRead r k wholeBurst up dev
      if cap ≤ 8 * (k + 1) then (t.modRegion r fun x => { x with patrol := 0 }).wr (DDR.SCRUB_PASSES r) (s.rd (DDR.SCRUB_PASSES r) + 1)
      else t.modRegion r fun x => { x with patrol := k + 1 })

/-- DDR_TEMP_POLL (R290): a device's reading is above 85 °C, or none is. -/
def execDdrTempPoll (r : Nat) (hot : Bool) (s : State) : Host.Outcome State Fault Refusal :=
  .next (if s.rd (DDR.STATUS_STATE r) = ddrReady then s.wr (DDR.STATUS_TEMP_HI r) (b2n hot) else s)

/-- R291: the caravans that stream from channel `r` or have LEN or AEN set. -/
def State.ddrUsers (s : State) (r : Nat) : List Nat :=
  s.allLeads.filter fun l =>
    s.flag (LDG.CVCFG_LEN (regionOf l) (l % 64)) || s.flag (LDG.CVCFG_AEN (regionOf l) (l % 64)) ||
    (s.members l).any fun c => (List.range 4).any fun n => s.flag (SEQ.SD_CTRL_ACTIVE c n) &&
      targetOf (16 * s.rd (SEQ.SD_ADDR_ADDR c n)) == .ddr r

/-- DDR_LINK_ERROR (R291): an access meets `n` successive write-CRC (`kind` 0) or command-parity (1) errors. -/
def execDdrLinkError (r kind n : Nat) (s : State) : Host.Outcome State Fault Refusal :=
  .next (if s.rd (DDR.STATUS_STATE r) ≠ ddrReady then s
    else
      let t := s.count (if kind = 0 then DDR.RETRY_WCRC r else DDR.RETRY_CAPAR r) (min n 2)
      if n < 3 then t else (t.ddrFail r 7).reportAs 0x10 (288 + r) 7 (t.ddrUsers r))

/-! ### Port B (R252, R280 to R284) -/

/-- R252, R280 to R284: an access of the tile of cell `c` to word `a`. `coll`: 0 no collision; 1 and 2 it meets a port A
read, 3 and 4 a port A write, the port B access being the earlier (1, 3) or the later (2, 4). Whatever the kinds, the collision
shows in CEL.COLLIDE. Of a read and a write the later port is warned; of two writes a later port B write is lost, with a
warning (log 121). `up`: an error that arises at a read. The answer is the data, BUSY_B and ECC_ERR. -/
def State.portB (s : State) (c a v coll up : Nat) (write : Bool) : State :=
  let b := blockOf c
  let adr := padBase c + 16 * a
  if !s.tilesRun b then s
  else if (s.xowOf c a).isSome then { s.wr (FAB.TILE_XO_HIT b (c % 8)) 1 with answer := [0, 0, 0] }
  else if write && s.inRing c a then { s.wr (FAB.TILE_RING_HIT b (c % 8)) 1 with answer := [0, 0, 0] }
  else
    let writeA := decide (3 ≤ coll)
    let mixed := write != writeA
    let busyA := b2n (mixed && coll % 2 == 1)
    let busyB := b2n (coll != 0 && coll % 2 == 0 && (mixed || write))
    let s1 := if coll = 0 then s else (s.collide c).wr (CEL.COLLIDE_A_BUSY c) busyA
    if write then
      if coll = 4 then { s1 with answer := [0, busyB, 0] } else { s1.writeWord adr (word72 v) with answer := [0, busyB, 0] }
    else if writeA then { s1.drawn with answer := [s1.freeVal 72, busyB, 0] }
    else
      let e := s.eccOf adr up
      { s1.padErrors c a 1 up with answer := [s.readFixed adr, 0, b2n (decide (2 ≤ e))] }

/-- PORT_B_ACCESS (R249, R252): the address has 13 bits. -/
def execPortBAccess (c a v coll up : Nat) (write : Bool) (s : State) : Host.Outcome State Fault Refusal :=
  .next (s.portB c (a % 8192) v coll up write)

end Sys2Proof.Machine
end

