-- ==== Sys2Proof/Machine/Ledger.lean ====
section
/-! DEFINITION. The fail ledger and the repair accounts (spec/09): the path of a fail record from its cell to its home
and its account, drains and allocation passes, the epochs and the scrubber, flush, lookup and digest. -/

namespace Sys2Proof.Machine

/-! ### Cell fail queue, merger, engine (R221 to R224) -/

/-- R221: a record of stride count `sc` may leave the queue of cell `c`. -/
def State.mayLeave (s : State) (c sc : Nat) : Bool :=
  let stopped := !(s.enabled c && s.cvState c == stRunning)
  match (s.cell c).suspectSC with
  | some v => stopped && decide (sc + 16 ≤ v)
  | none => stopped || decide (sc + 16 ≤ s.rd (SEQ.SC_SC (s.leadOf c)))

/-- FAIL_QUEUE_RELEASE (R221): the oldest item of cell `c` that is still held may leave. -/
def execFailQueueRelease (c : Nat) (s : State) : Host.Outcome State Fault Refusal :=
  let x := s.cell c
  .next (if s.frozen then s else match (x.failQ[x.released]?) with
    | some (.record r) => if s.mayLeave c r.sc then s.setCell c { x with released := x.released + 1 } else s
    | some (.mark _ _) => s.setCell c { x with released := x.released + 1 }
    | none => s)

/-- Markers in a queue. -/
def markerCount (q : List QItem) : Nat := q.length - recordCount q

/-- R216, R223: block `b`'s merger has room for an item. -/
def mergerRoom (q : List QItem) : QItem → Bool
  | .record _ => true
  | .mark _ _ => decide (markerCount q < 8)

/-- R223: the cells of block `b` with an item that the merger can take, from the round-robin position on. -/
def State.mergerPick (s : State) (b : Nat) : Option Nat :=
  let x := s.block b
  ((List.range 8).map fun k => 8 * b + (x.mergerRR + k) % 8).find? fun c =>
    decide (0 < (s.cell c).released) && ((s.cell c).failQ.head?.any (mergerRoom x.merger))

/-- R223: the merger of block `b` takes one record or marker from one of its cell queues. -/
def State.mergerTake (s : State) (b : Nat) : State :=
  if s.frozen || decide (1024 ≤ recordCount (s.block b).merger) then s
  else match s.mergerPick b with
    | none => s
    | some c =>
      match (s.cell c).failQ with
      | [] => s
      | i :: rest =>
        (s.modCell c fun x => { x with failQ := rest, released := x.released - 1 }).modBlock b fun x =>
          { x with merger := x.merger ++ [i], mergerRR := (c + 1) % 8 }

/-- MERGER_TAKE (R223). -/
def execMergerTake (b : Nat) (s : State) : Host.Outcome State Fault Refusal := .next (s.mergerTake b)

/-- R234: account `a` lies in the range of the caravan led by `l`; R236 and R241 use the same range. -/
def State.acctRange (s : State) (l : Nat) : Nat × Nat :=
  let base := s.rd (LDG.CVCFG_ACCT_BASE (regionOf l) (l % 64))
  (base, min (base + min (s.rd (LDG.CVCFG_ACCT_N (regionOf l) (l % 64))) 65536) 65536)

/-- R223: the next merger of region `r` that holds something, from the round-robin position on. -/
def State.enginePick (s : State) (r : Nat) : Option Nat :=
  ((List.range 8).map fun k => 8 * r + ((s.region r).engineRR + k) % 8).find? fun b => !(s.block b).merger.isEmpty

/-- The updates that region `r`'s engine has taken and that are not applied yet. -/
def State.inFlight (s : State) (r : Nat) : List Upd :=
  (s.region r).sent ++ (s.region r).acctQ

/-- R222, R238: the marker of cell `c` reaches the engine: each drain that it answers stops waiting for the cell, and
waits for the cell's updates that are not applied yet. -/
def State.markerArrives (s : State) (r c : Nat) (ids : List Nat) : State :=
  let own := ((s.inFlight r).filter fun u => u.r.cell == c).map (·.eid)
  s.modRegion r fun x =>
    { x with drains := x.drains.map fun d =>
        if ids.contains d.id then { d with waiting := d.waiting.erase c, eids := d.eids ++ own } else d }

/-- R224, R302: the engine of region `r` issues the update `u` to its record's home. One that its interface answers ends there:
the home has not answered NEW (log 119). -/
def State.sendUpdate (s : State) (r : Nat) (u : Upd) : State :=
  (s.modRegion r fun x => { x with sent := x.sent ++ [u] }).issue (lupReq (s.ledgerHome u.r) u)

/-- R224, R234: the engine of region `r` applies a record under the settings of its caravan. -/
def State.engineRecord (s : State) (r : Nat) (x : FailRec) : State :=
  let l := x.cell - x.member
  let rg := s.acctRange l
  let acct := x.av && s.flag (LDG.CVCFG_AEN r (l % 64)) && decide (rg.1 ≤ x.acct) && decide (x.acct < rg.2)
  let s1 := s.count (LDG.RECORDS_COUNT r) 1
  let s2 := if acct then s1 else s1.count (LDG.ACCT_MISS_COUNT r) 1
  let id := (s.region r).nextEid
  let u : Upd := ⟨id, r, x, acct, true⟩
  let s3 := s2.modRegion r fun y => { y with nextEid := id + 1 }
  if s.flag (LDG.CVCFG_LEN r (l % 64)) && s.flag (LDG.CTRL_EN 0) then s3.sendUpdate r u
  else if acct then s3.modRegion r fun y => { y with acctQ := y.acctQ ++ [u] }
  else s3

/-- R223, R302, R315: region `r`'s engine issues the update that waits at its interface, for a berth, a response slot or its
home's domain; else it takes the next item of its mergers. -/
def State.engineApply (s : State) (r : Nat) : State :=
  if s.frozen then s
  else match s.net.waiting.find? fun q => q.init == 64 + r with
  | some q => (s.waitsNot q).issue q
  | none => match s.enginePick r with
    | none => s
    | some b =>
      match (s.block b).merger with
      | [] => s
      | i :: rest =>
        let t := (s.modBlock b fun x => { x with merger := rest }).modRegion r fun x => { x with engineRR := (b + 1) % 8 }
        match i with
        | .record x => t.engineRecord r x
        | .mark c m => t.markerArrives r c m.ids

/-- ENGINE_APPLY (R224). -/
def execEngineApply (r : Nat) (s : State) : Host.Outcome State Fault Refusal := .next (s.engineApply r)

/-! ### Ledger table and cache (R225 to R229) -/

/-- R225: the device address of bucket `b` of home `h`. -/
def State.bucketAddr (s : State) (h b : Nat) : Nat := ddrBase h + 16 * (s.rd (LDG.TBL_BASE_WORD h) + 8 * b)

/-- R226: SITE and EPOCH of an entry's word 0. -/
def entrySite (w0 : Nat) : Nat := bits w0 42 8
def entryEpoch (w0 : Nat) : Nat := bits w0 56 8
def entryValid (w0 : Nat) : Bool := bitOf w0 64

/-- R226: an entry is live: VALID, and of its site's current epoch. -/
def State.live (s : State) (w0 : Nat) : Bool := entryValid w0 && entryEpoch w0 == s.rd (LDG.SITE_EPOCH 0 (entrySite w0))

/-- R241: the hash value of a list of words, each as 9 bytes. -/
def wordsHash (ws : List Nat) : Nat := Config.sha256 (ws.flatMap (toBytes 9))

/-- R241: the set sum of a site at home `h` changes: `old` leaves it and `new` joins it. -/
def State.moveSum (s : State) (h site old new : Nat) : State :=
  let k := 256 * h + site
  { s with esum := Tab.set 0 s.esum k ((Tab.get 0 s.esum k + 2 ^ 256 + new - old % 2 ^ 256) % 2 ^ 256) }

/-- The empty line, which no cached bucket equals (a line has 8 words). -/
def Line.none : Line := ⟨[], false⟩

/-- R229: a dirty line goes back to the channel. -/
def State.writeLine (s : State) (h b : Nat) : State :=
  let ln := Tab.get Line.none (s.region h).cache b
  if ln.dirty then (s.writeWords (s.bucketAddr h b) ln.words).modRegion h fun x =>
      { x with cache := Tab.set Line.none x.cache b { ln with dirty := false } }
  else s

/-- Put a line of home `h`. -/
def State.putLine (s : State) (h b : Nat) (ws : List Nat) (dirty : Bool) : State :=
  s.modRegion h fun x => { x with cache := Tab.set Line.none x.cache b ⟨ws, dirty⟩ }

/-- R245: the caravans that a ledger fault of a bucket contains: those of the sites that the SITE fields name which can still be
read, and, when one cannot (a bit of `lost`), all with LEN set. -/
def State.bucketFaultLeads (s : State) (ws : List Nat) (lost : Nat) : List Nat :=
  let sites := ((List.range 4).filter fun k => !bitOf lost k).map fun k => entrySite (ws.getD (2 * k) 0)
  s.allLeads.filter fun l =>
    sites.contains (s.siteOf l) || (lost % 16 != 0 && s.flag (LDG.CVCFG_LEN (regionOf l) (l % 64)))

/-- R245: a bucket that cannot be corrected is reported and rewritten empty. -/
def State.bucketFault (s : State) (h b : Nat) (lost : Nat) : State :=
  let ws := (Tab.get Line.none (s.region h).cache b).words
  let s1 := (s.count (LDG.ECC_UNCORR h) 1).reportAs 0x11 (288 + h) 7 (s.bucketFaultLeads ws lost)
  let s2 := (List.range 4).foldl (fun t k =>
    let w0 := ws.getD (2 * k) 0
    if s.live w0 then t.moveSum h (entrySite w0) (wordsHash [w0, ws.getD (2 * k + 1) 0]) 0 else t) s1
  s2.putLine h b (List.replicate 8 0) true

/-- R245: an error that a read meets in a memory: its class (0 none, 1 correctable, 2 not), and the entries of the bucket whose
SITE field cannot be read, a bit for each. -/
structure Upset where
  up : Nat
  lost : Nat

/-- R229, R245: the line of bucket `b` is read through its code. -/
def State.checkLine (s : State) (h b : Nat) (e : Upset) : State :=
  if e.up = 0 then s else if e.up = 1 then s.count (LDG.ECC_CORR h) 1 else s.bucketFault h b e.lost

/-- R229, R243: a line that is written back is read through its code first. -/
def State.writeBack (s : State) (h b : Nat) (e : Upset) : State :=
  if (Tab.get Line.none (s.region h).cache b).dirty then (s.checkLine h b e).writeLine h b else s

/-- R229: bucket `b` leaves the cache, written back when dirty. -/
def State.evict (s : State) (h b : Nat) (e : Upset) : State :=
  (s.writeBack h b e).modRegion h fun x => { x with cache := Tab.erase x.cache b }

/-- R229: a full cache gives up the line at place `victim` for another bucket; `e` is an error of that line. -/
def State.makeRoom (s : State) (h victim : Nat) (e : Upset) : State :=
  let c := (s.region h).cache
  if c.length < 4096 then s
  else match (c.drop (victim % 4096)).head? with
    | some (b, _) => s.evict h b e
    | Option.none => s

/-- R229, R245: bucket `b` of home `h` is brought into the cache; an error of class `up` arises at it (in a device `dev`
when it is read from DDR5), and `lost` has a bit for each entry whose SITE field cannot be read; `ve` is an error of the line that is given up. -/
def State.cached (s : State) (h b victim : Nat) (ve : Upset) (up dev : Nat) (lost : Nat) : State :=
  if (Tab.get Line.none (s.region h).cache b).words.isEmpty then
    let s1 := s.makeRoom h victim ve
    let k := (s.rd (LDG.TBL_BASE_WORD h) + 8 * b) / 8
    let e := s1.burstClass h k wholeBurst up
    let s2 := (s1.ddrRead h k wholeBurst up dev).putLine h b (s1.readWords (s1.bucketAddr h b) 8) false
    if 2 ≤ e then s2.bucketFault h b lost else s2
  else s.checkLine h b ⟨up, lost⟩

/-- R228: the entry slot of a bucket with the key: live, and equal in [55:0]. -/
def State.findEntry (s : State) (ws : List Nat) (key : Nat) : Option Nat :=
  (List.range 4).find? fun k => s.live (ws.getD (2 * k) 0) && bits (ws.getD (2 * k) 0) 0 56 == key

/-- R228: the lowest-numbered empty slot of a bucket. -/
def State.freeEntry (s : State) (ws : List Nat) : Option Nat := (List.range 4).find? fun k => !s.live (ws.getD (2 * k) 0)

/-- R230: records in the spill partition of home `h`. -/
def State.spillFill (s : State) (h : Nat) : Nat :=
  (s.rd (LDG.SPILL_TAIL_COUNT h) + 2 ^ 32 - s.rd (LDG.SPILL_HEAD_COUNT h)) % 2 ^ 32

/-- R230: a record spills, or is dropped at a full partition. -/
def State.spill (s : State) (h : Nat) (r : FailRec) : State :=
  if 262144 ≤ s.spillFill h then s.count (LDG.SITE_SPILL_DROP 0 r.site) 1
  else
    let n := s.rd (LDG.SPILL_TAIL_COUNT h)
    let ws := { r with spill := true, epoch := s.rd (LDG.SITE_EPOCH 0 r.site) }.words
    ((s.writeWords (ddrBase h + 16 * (s.rd (LDG.SPILL_BASE_WORD h) + 4 * (n % 262144))) (ws ++ [0])).wrs
      [(LDG.SPILL_TAIL_COUNT h, n + 1), (LDG.STATUS_SPILLED h, 1)]).moveSum h r.site 0 (wordsHash ws)

/-- R228: flags of a record in an entry's word 0. -/
def FailRec.flags (r : FailRec) : Nat := 2 ^ 65 * b2n r.voidf + 2 ^ 66 * b2n r.bfail + 2 ^ 67 * b2n r.rv

/-- R228: the home applies a record to its cached bucket; the answer is NEW or not. -/
def State.applyRecord (s : State) (h b : Nat) (r : FailRec) : State × Bool :=
  let ws := (Tab.get Line.none (s.region h).cache b).words
  let key := r.key + 2 ^ 50 * (r.member % 64)
  match s.findEntry ws key with
  | some k =>
    let w0 := ws.getD (2 * k) 0
    let w1 := ws.getD (2 * k + 1) 0
    let n0 := Nat.lor w0 r.flags
    let n1 := setField (Nat.lor w1 (bits r.fbits 0 32)) 48 16 (satAdd 16 (bits w1 48 16) 1)
    ((s.putLine h b ((ws.set (2 * k) n0).set (2 * k + 1) n1) true).moveSum h r.site (wordsHash [w0, w1])
      (wordsHash [n0, n1]), false)
  | Option.none =>
    match s.freeEntry ws with
    | some k =>
      let n0 := key + 2 ^ 56 * s.rd (LDG.SITE_EPOCH 0 r.site) + 2 ^ 64 + r.flags
      let n1 := bits r.fbits 0 32 + 2 ^ 32 * (r.tag % 65536) + 2 ^ 48
      ((s.putLine h b ((ws.set (2 * k) n0).set (2 * k + 1) n1) true).moveSum h r.site 0 (wordsHash [n0, n1]), true)
    | Option.none => (s.spill h r, true)

/-- The bucket of a record's key. -/
def State.bucketOf (s : State) (key : Nat) : Nat := ledgerHash key (s.rd (LDG.CTRL_SALT 0)) / 4

/-- R229: bucket `b` of home `h` is in its cache. -/
def State.inCache (s : State) (h b : Nat) : Bool := !(Tab.get Line.none (s.region h).cache b).words.isEmpty

/-- R228, R230: an update of record `r` of bucket `b` needs the channel: its bucket is not cached, or it spills. -/
def State.needsChannel (s : State) (h b : Nat) (r : FailRec) : Bool :=
  let ws := (Tab.get Line.none (s.region h).cache b).words
  !s.inCache h b || ((s.findEntry ws (r.key + 2 ^ 50 * (r.member % 64))).isNone && (s.freeEntry ws).isNone)

/-- R306: the update that has arrived first at home `h`. -/
def State.updateAt (s : State) (h : Nat) : Option Req := s.net.flight.find? fun q => q.target == .home h && q.toGo.isEmpty

/-- R306 to R308: where no update has arrived at home `h`, the routers pass packets on until one has. -/
def State.bringUpdate (s : State) (h : Nat) : State :=
  if (s.updateAt h).isSome then s
  else match s.net.flight.find? fun q => q.target == .home h with
    | some q => s.reach q.init q.tag
    | none => s

/-- R228: the update `q`, which has arrived first at home `h`, is applied and answered: 1 for NEW. An update that needs the
channel waits while the channel is not READY (R289). -/
def State.applyAt (s : State) (h : Nat) (q : Req) (victim : Nat) (ve : Upset) (up dev : Nat) (lost : Nat) : State :=
  let x := FailRec.ofWords q.data
  let b := s.bucketOf x.key
  if s.rd (DDR.STATUS_STATE h) ≠ ddrReady ∧ s.needsChannel h b x = true then s
  else
    let s1 := (({ s with net := { s.net with flight := s.net.flight.erase q } }).count
      (if s.inCache h b then LDG.CACHE_HIT_COUNT h else LDG.CACHE_MISS_COUNT h) 1).count (LDG.UPDATES_COUNT h) 1
    let p := (s1.cached h b victim ve up dev lost).applyRecord h b x
    p.1.respond q 0 [b2n p.2]

/-- R228: home `h` applies its oldest ledger update. -/
def State.homeApply (s : State) (h victim : Nat) (ve : Upset) (up dev : Nat) (lost : Nat) : State :=
  if s.frozen then s
  else
    let t := s.bringUpdate h
    match t.updateAt h with
    | some q => t.applyAt h q victim ve up dev lost
    | none => t

/-- LUPD (R228): the home `h` applies its oldest ledger update; its answer goes back to the engine (RSP_ACK). `up`, `dev` and `lost`
tell an error that arises at the bucket (`State.cached`). -/
def execLupd (h : Nat) (victim : Victim) (up dev : Nat) (lost : Nat) (s : State) : Host.Outcome State Fault Refusal :=
  .next (s.homeApply h victim.line ⟨victim.up, victim.lost⟩ up dev lost)

/-! ### Repair accounts (R233 to R236) -/

/-- R233: an account. Rows and columns are (X or Y, COUNT) by slot. -/
structure Acct where
  site : Nat
  spr : Nat
  spc : Nat
  en : Bool
  unrep : Bool
  rovf : Bool
  covf : Bool
  voidhit : Bool
  result : Nat
  rmust : Nat
  cmust : Nat
  rsel : Nat
  csel : Nat
  matrix : Nat
  rows : List (Nat × Nat)
  cols : List (Nat × Nat)
  deriving DecidableEq, Repr

/-- R233: the address of account `a` of region `r`. -/
def acctAddr (r a : Nat) : Nat := accountsBase + 128 * (65536 * r + a)

/-- R233: an account from its eight words. -/
def Acct.ofWords (ws : List Nat) : Acct :=
  let w0 := ws.getD 0 0
  { site := bits w0 0 8, spr := min (bits w0 16 4) 8, spc := min (bits w0 20 4) 8, en := bitOf w0 24, unrep := bitOf w0 25,
    rovf := bitOf w0 26, covf := bitOf w0 27, voidhit := bitOf w0 28, result := bits w0 29 2, rmust := bits w0 32 8,
    cmust := bits w0 40 8, rsel := bits w0 48 8, csel := bits w0 56 8, matrix := bits (ws.getD 1 0) 0 64,
    rows := (List.range 8).map fun i => (bits (ws.getD (2 + i / 3) 0) (24 * (i % 3)) 20, bits (ws.getD (2 + i / 3) 0) (24 * (i % 3) + 20) 4),
    cols := (List.range 8).map fun i => (bits (ws.getD (5 + i / 3) 0) (20 * (i % 3)) 16, bits (ws.getD (5 + i / 3) 0) (20 * (i % 3) + 16) 4) }

/-- R233: the eight words `ws` with the fields of `x` in place; SPR, SPC, EN and what is reserved stand as they were. -/
def Acct.putWords (x : Acct) (ws : List Nat) : List Nat :=
  let w0 := ws.getD 0 0
  let fs : List (Nat × Nat × Nat) := [(25, 1, b2n x.unrep), (26, 1, b2n x.rovf), (27, 1, b2n x.covf), (28, 1, b2n x.voidhit),
    (29, 2, x.result), (32, 8, x.rmust), (40, 8, x.cmust), (48, 8, x.rsel), (56, 8, x.csel)]
  let n0 := fs.foldl (fun w f => setField w f.1 f.2.1 f.2.2) w0
  let row (w j : Nat) : Nat := (List.range 3).foldl (fun v m =>
    if 3 * j + m < 8 then setField (setField v (24 * m) 20 (x.rows.getD (3 * j + m) (0, 0)).1) (24 * m + 20) 4 (x.rows.getD (3 * j + m) (0, 0)).2
    else v) w
  let col (w j : Nat) : Nat := (List.range 3).foldl (fun v m =>
    if 3 * j + m < 8 then setField (setField v (20 * m) 16 (x.cols.getD (3 * j + m) (0, 0)).1) (20 * m + 16) 4 (x.cols.getD (3 * j + m) (0, 0)).2
    else v) w
  [n0, setField (ws.getD 1 0) 0 64 x.matrix, row (ws.getD 2 0) 0, row (ws.getD 3 0) 1, row (ws.getD 4 0) 2,
    col (ws.getD 5 0) 0, col (ws.getD 6 0) 1, col (ws.getD 7 0) 2]

/-- R235: the slot that holds `v`, or the lowest empty slot. -/
def slotFor (t : List (Nat × Nat)) (v : Nat) : Option Nat :=
  match (List.range 8).find? fun i => decide ((t.getD i (0, 0)).2 ≠ 0) && (t.getD i (0, 0)).1 == v with
  | some i => some i
  | Option.none => (List.range 8).find? fun i => (t.getD i (0, 0)).2 == 0

/-- R235: one failure more in slot `i`, which then names `v`; COUNT saturates at 15. -/
def bump (t : List (Nat × Nat)) (i v : Nat) : List (Nat × Nat) := t.set i (v, satAdd 4 (t.getD i (0, 0)).2 1)

/-- R235: must-repair marks of rows and columns, UNREP, and the earlier solution made stale. -/
def Acct.settle (a : Acct) (i j : Option Nat) : Acct :=
  let rm := match i with
    | some k => if a.spc < (a.rows.getD k (0, 0)).2 then setBit a.rmust k else a.rmust
    | Option.none => a.rmust
  let cm := match j with
    | some k => if a.spr < (a.cols.getD k (0, 0)).2 then setBit a.cmust k else a.cmust
    | Option.none => a.cmust
  { a with
    rmust := rm, cmust := cm,
    unrep := a.unrep || decide (a.spr < popCount rm 8) || decide (a.spc < popCount cm 8), result := 0 }

/-- R235: an account after a failure at (x, y). -/
def Acct.update (a : Acct) (x y : Nat) : Acct :=
  match slotFor a.rows x, slotFor a.cols y with
  | Option.none, Option.none => { a with rovf := true, covf := true, unrep := true }
  | Option.none, some j => ({ a with rovf := true, cmust := setBit a.cmust j, cols := bump a.cols j y }).settle Option.none (some j)
  | some i, Option.none => ({ a with covf := true, rmust := setBit a.rmust i, rows := bump a.rows i x }).settle (some i) Option.none
  | some i, some j =>
    ({ a with matrix := setBit a.matrix (8 * i + j), rows := bump a.rows i x, cols := bump a.cols j y }).settle (some i) (some j)

/-- R236: the columns needed with the row set `rs`. -/
def Acct.needCols (a : Acct) (rs : Nat) : Nat :=
  (List.range 64).foldl (fun cs k => if bitOf a.matrix k && !bitOf rs (k / 8) then setBit cs (k % 8) else cs) a.cmust

/-- R236: row set `rs` is a solution with its columns. -/
def Acct.fits (a : Acct) (rs : Nat) : Bool :=
  (List.range 8).all (fun i => !bitOf rs i || decide ((a.rows.getD i (0, 0)).2 ≠ 0)) && Nat.land rs a.rmust == a.rmust &&
    decide (popCount rs 8 ≤ a.spr) && decide (popCount (a.needCols rs) 8 ≤ a.spc)

/-- R236: the key by which the lowest solution wins, as one number. -/
def Acct.solKey (a : Acct) (rs : Nat) : Nat :=
  (popCount rs 8 + popCount (a.needCols rs) 8) * 65536 + popCount rs 8 * 256 + rs

/-- R236: the best row set. -/
def Acct.best (a : Acct) : Option Nat :=
  ((List.range 256).filter a.fits).foldl (fun b rs => match b with
    | Option.none => some rs
    | some p => if a.solKey rs < a.solKey p then some rs else some p) Option.none

/-- R236: the allocation of one account. -/
def Acct.allocate (a : Acct) : Acct :=
  if a.unrep then { a with result := 3 }
  else if (a.rows.all fun e => e.2 == 0) && a.cmust == 0 then { a with rsel := 0, csel := 0, result := 1 }
  else match a.best with
    | some rs => { a with rsel := rs, csel := a.needCols rs, result := 2 }
    | Option.none => { a with unrep := true, result := 3 }

/-- R245: account `a` of region `r` is rewritten with EN = 0. What it held in the words that could not be read, those of `bad`,
is not stated: a free value (log 1). -/
def State.rewriteAcct (s : State) (r a : Nat) (bad : Nat → Bool) : State :=
  (List.range 8).foldl (fun t w =>
    let adr := acctAddr r a + 16 * w
    let v := if bad w then t.freeVal 72 else s.readWord adr
    (if bad w then t.drawn else t).writeWord adr (if w = 0 then clearBit v 24 else v)) s

/-- R245: the words `ws` of account `a` are read; an error of class `up` arises at the first. Single errors are corrected and
counted; else the account is rewritten with EN = 0 and a ledger fault contains the caravans whose range covers it. -/
def State.acctWords (s : State) (r a : Nat) (ws : List Nat) (up : Nat) : State :=
  let cls (w : Nat) : Nat := s.eccOf (acctAddr r a + 16 * w) (if ws.head? = some w then up else 0)
  let e := ws.foldl (fun m w => max m (cls w)) 0
  if e = 0 then s
  else if e = 1 then
    (ws.foldl (fun t w => t.eccAfter (acctAddr r a + 16 * w) 0) s).count (LDG.ECC_CORR r) (ws.filter fun w => cls w == 1).length
  else (((s.rewriteAcct r a fun w => decide (2 ≤ cls w)).count (LDG.ECC_CORR r) (ws.filter fun w => cls w == 1).length).count
      (LDG.ECC_UNCORR r) 1).reportAs 0x11 (288 + r) 7
    ((s.leadsOf r).filter fun l => s.flag (LDG.CVCFG_AEN r (l % 64)) && decide ((s.acctRange l).1 ≤ a) &&
      decide (a < (s.acctRange l).2))

/-- R245: the whole account is read. -/
def State.acctErrors (s : State) (r a up : Nat) : State := s.acctWords r a (List.range 8) up

/-- R234, R235: the oldest record of region `r` that waits for its account updates it, or is refused. -/
def State.acctApply (s : State) (r up : Nat) : State :=
  match (s.region r).acctQ with
  | [] => s
  | u :: rest =>
    if s.frozen then s
    else
      let s1 := (s.modRegion r fun x => { x with acctQ := rest }).acctErrors r u.r.acct up
      let adr := acctAddr r u.r.acct
      let ws := s1.readWords adr 8
      let a := Acct.ofWords ws
      if !a.en || a.site != u.r.site then s1.count (LDG.ACCT_MISS_COUNT r) 1
      else if u.r.voidf then s1.writeWords adr ({ a with voidhit := true }.putWords ws)
      else if u.fresh then s1.writeWords adr ((a.update u.r.x u.r.y).putWords ws)
      else s1

/-- ACCOUNT_UPDATE (R235): `up` is the class of an error that arises at the account. -/
def execAccountUpdate (r up : Nat) (s : State) : Host.Outcome State Fault Refusal := .next (s.acctApply r up)

/-! ### Drains and allocation passes (R222, R237, R238) -/

/-- R222: a steward requests a drain of the caravan led by `l`; the request reaches the stride domain. -/
def State.drainGo (s : State) (l : Nat) : State :=
  if !s.isLead l then s.ldgIgnored (regionOf l) else (s.wr (LDG.CVST_DRAIN (regionOf l) (l % 64)) 1).mark l false

/-- DRAIN (R222). -/
def execDrain (l : Nat) (s : State) : Host.Outcome State Fault Refusal :=
  .next (s.atReg 0 (LDG.CVST_DRAIN (regionOf l) (l % 64)).addr fun s => s.drainGo l)

/-- R237: a pass of the caravan led by `l` starts, or is held while one runs. -/
def State.startPass (s : State) (l : Nat) : State :=
  let r := regionOf l
  if (s.region r).passes.any fun p => p.lead == l then
    s.modRegion r fun x => { x with passes := x.passes.map fun p => if p.lead = l then { p with held := true } else p }
  else
    let g := s.acctRange l
    (s.wr (LDG.CVST_ALLOC_BUSY r (l % 64)) 1).modRegion r fun x =>
      { x with passes := x.passes ++ [⟨l, g.1, g.2, s.siteOf l, 0, 0, false⟩] }

/-- R238: the drain is complete. -/
def State.drainReady (s : State) (r : Nat) (d : Drain) : Bool :=
  d.waiting.isEmpty && d.eids.all fun e => !((s.inFlight r).any fun u => u.eid == e)

/-- R238: the completed drains of the caravan led by `l` are indicated. -/
def State.drainComplete (s : State) (l : Nat) : State :=
  let r := regionOf l
  let done := (s.region r).drains.filter fun d => d.lead == l && s.drainReady r d
  if done.isEmpty then s
  else
    let t := (s.modRegion r fun x => { x with drains := x.drains.filter fun d => !(d.lead == l && s.drainReady r d) }).wrs
      [(LDG.CVST_DRAIN r (l % 64), 0), (LDG.CVST_DRAIN_DONE r (l % 64), 1)]
    (done.filter (·.alloc)).foldl (fun u _ => u.startPass l) t

/-- DRAIN_COMPLETE (R238). -/
def execDrainComplete (l : Nat) (s : State) : Host.Outcome State Fault Refusal := .next (s.drainComplete l)

/-- R237: a steward requests an allocation pass. -/
def State.allocGo (s : State) (l : Nat) : State := if !s.isLead l then s.ldgIgnored (regionOf l) else s.startPass l

/-- ALLOC (R237). -/
def execAlloc (l : Nat) (s : State) : Host.Outcome State Fault Refusal :=
  .next (s.atReg 0 (LDG.CVST_ALLOC (regionOf l) (l % 64)).addr fun s => s.allocGo l)

/-- R236, R237: an allocator finishes the next account of the pass of lead `l`. -/
def State.allocateNext (s : State) (l up : Nat) : State :=
  let r := regionOf l
  match (s.region r).passes.find? fun p => p.lead == l with
  | Option.none => s
  | some p =>
    if s.frozen || decide (p.stop ≤ p.next) then s
    else
      let s1 := s.acctErrors r p.next up
      let ws := s1.readWords (acctAddr r p.next) 8
      let a := Acct.ofWords ws
      let use := a.en && a.site == p.site
      let x := a.allocate
      let s2 := if use then s1.writeWords (acctAddr r p.next) (x.putWords ws) else s1
      s2.modRegion r fun y =>
        { y with passes := y.passes.map fun q =>
            if q.lead = l then
              { q with
                next := q.next + 1, rep := q.rep + b2n (use && x.result == 2),
                unrep := q.unrep + b2n (use && x.result == 3) }
            else q }

/-- ALLOCATE_ACCOUNT (R236). -/
def execAllocateAccount (l up : Nat) (s : State) : Host.Outcome State Fault Refusal := .next (s.allocateNext l up)

/-- ALLOCATION_PASS_END (R237): the pass of lead `l` has done its last account. -/
def execAllocationPassEnd (l : Nat) (s : State) : Host.Outcome State Fault Refusal :=
  let r := regionOf l
  .next (match (s.region r).passes.find? fun p => p.lead == l with
    | Option.none => s
    | some p =>
      if p.next < p.stop then s
      else
        let t := (s.modRegion r fun x => { x with passes := x.passes.filter fun q => q.lead ≠ l }).wrs
          [(LDG.CVST_ALLOC_BUSY r (l % 64), 0), (LDG.CVST_ALLOC_DONE r (l % 64), 1),
            (LDG.CVST_ALLOC_REP r (l % 64), p.rep), (LDG.CVST_ALLOC_UNREP r (l % 64), p.unrep)]
        if p.held then t.startPass l else t)

/-! ### Epochs and the scrubber (R231, R232) -/

/-- A record of a site is in a queue. -/
def hasSite (site : Nat) (q : List QItem) : Bool := q.any fun i => match i with
  | .record r => r.site == site
  | .mark _ _ => false

/-- R231: a record of the site is between a cell fail queue and its home. -/
def State.siteInFlight (s : State) (site : Nat) : Bool :=
  s.cells.any (fun e => hasSite site e.2.failQ) || s.blocks.any (fun e => hasSite site e.2.merger) ||
    (s.net.flight ++ s.net.waiting).any fun q => q.kind == .lupd && (FailRec.ofWords q.data).site == site

/-- R232: epoch value `e` of a site is retired. -/
def State.isRetired (s : State) (site e : Nat) : Bool := s.retired.any fun t => t.site == site && t.epoch == e

/-- R231: CLEAR of a site. -/
def State.clearSite (s : State) (n : Nat) : State :=
  let e := s.rd (LDG.SITE_EPOCH 0 n)
  if (s.allLeads.any fun l => s.busy l && s.rd (CEL.CARAVAN_SITE l) == n) || s.siteInFlight n || s.isRetired n ((e + 1) % 256) then
    s.ldgIgnored 0
  else
    let t := s.wrs [(LDG.SITE_EPOCH 0 n, e + 1), (LDG.SITE_SPILL_DROP 0 n, 0)]
    { t with
      retired := t.retired ++ [⟨n, e, [0, 0, 0, 0]⟩]
      esum := (List.range 4).foldl (fun m h => Tab.set 0 m (256 * h + n) 0) t.esum }

/-- CLEAR (R231): LDG.SITEn.CLEAR is written. -/
def execClear (n : Nat) (s : State) : Host.Outcome State Fault Refusal :=
  .next (s.atReg 0 (LDG.SITE_CLEAR 0 n).addr fun s => s.clearSite n)

/-- R232: entries that are not live lose VALID. -/
def State.scrubbed (s : State) (ws : List Nat) : List Nat :=
  (List.range 8).map fun k =>
    let w := ws.getD k 0
    if k % 2 == 0 && entryValid w && !s.live w then clearBit w 64 else w

/-- R232: the scrubber of home `h` reaches its next bucket. -/
def State.scrubBucket (s : State) (h up dev : Nat) (lost : Nat) : State :=
  let b := (s.region h).scrubPos
  if s.frozen || s.rd (LDG.SCRUB_RATE h) == 0 || decide (1048576 ≤ b) ||
      (s.rd (DDR.STATUS_STATE h) != ddrReady && !s.inCache h b) then s
  else
    let t := s.modRegion h fun x => { x with scrubPos := b + 1 }
    let ln := Tab.get Line.none (s.region h).cache b
    if ln.words.isEmpty then
      let k := (s.rd (LDG.TBL_BASE_WORD h) + 8 * b) / 8
      let e := t.burstClass h k wholeBurst up
      let t1 := t.ddrRead h k wholeBurst up dev
      let ws := s.readWords (s.bucketAddr h b) 8
      if 2 ≤ e then ((t1.putLine h b ws false).bucketFault h b lost).evict h b ⟨0, 0⟩
      else if s.scrubbed ws = ws then t1 else t1.writeWords (s.bucketAddr h b) (s.scrubbed ws)
    else
      let u := t.checkLine h b ⟨up, lost⟩
      let ws := (Tab.get Line.none (u.region h).cache b).words
      if u.scrubbed ws = ws then u else u.putLine h b (u.scrubbed ws) true

/-- SCRUB_BUCKET (R232): `up` and `dev` tell an error that arises at the bucket, in the channel or in its line: class, the
SITE fields that cannot be read, device. -/
def execScrubBucket (h : Nat) (up : Nat × Nat) (dev : Nat) (s : State) : Host.Outcome State Fault Refusal :=
  .next (s.scrubBucket h up.1 dev up.2)

/-- SCRUB_PASS_END (R232): a whole pass of home `h` has completed. -/
def execScrubPassEnd (h : Nat) (s : State) : Host.Outcome State Fault Refusal :=
  .next (if (s.region h).scrubPos < 1048576 then s
    else
      let t := (s.modRegion h fun x => { x with scrubPos := 0 }).wr (LDG.SCRUB_PASSES h) (s.rd (LDG.SCRUB_PASSES h) + 1)
      let moved := t.retired.map fun e => { e with homes := e.homes.set h (min 2 (e.homes.getD h 2 + 1)) }
      { t with retired := moved.filter fun e => e.homes.any fun k => decide (k < 2) })

/-! ### Flush, lookup, digest and the registers (R241, R243, R244, R246) -/

/-- R243: every line that is dirty now is to be written back. -/
def State.ldgFlush (s : State) (r : Nat) : State :=
  let dirty := ((s.region r).cache.filter fun e => e.2.dirty).map (·.1)
  (s.wr (LDG.FLUSH_GO r) 1).modRegion r fun x => { x with flush := some (x.flush.getD [] ++ dirty) }

/-- LDG_FLUSH (R243). -/
def execLdgFlush (r : Nat) (s : State) : Host.Outcome State Fault Refusal :=
  .next (s.atReg 0 (LDG.FLUSH_GO r).addr fun s => s.ldgFlush r)

/-- The error that `ups` names for a bucket: bucket, class, and the SITE fields that cannot be read. -/
def upsetOf (ups : List (Nat × Nat × Nat)) (b : Nat) : Upset :=
  match ups.find? fun e => e.1 == b with
  | some e => ⟨e.2.1, e.2.2⟩
  | none => ⟨0, 0⟩

/-- R243: the write-back of region `r` ends; `ups` are errors that the lines meet. -/
def State.flushDone (s : State) (r : Nat) (ups : List (Nat × Nat × Nat)) : State :=
  match (s.region r).flush with
    | Option.none => s
    | some bs =>
      if s.frozen || (s.rd (DDR.STATUS_STATE r) != ddrReady && !bs.isEmpty) then s
      else ((bs.foldl (fun t b => t.writeBack r b (upsetOf ups b)) s).wr (LDG.FLUSH_GO r) 0).modRegion r fun x =>
        { x with flush := Option.none }

/-- LDG_FLUSH_DONE (R243): a region, and errors that its lines meet. -/
def execLdgFlushDone (r : Nat × List (Nat × Nat × Nat)) (s : State) : Host.Outcome State Fault Refusal :=
  .next (s.flushDone r.1 r.2)

/-- R244: a write of LDG.LK_KEY with GO = 1; GO alone is ignored while BUSY is 1 (log 92). -/
def State.lookupGo (s : State) (r key : Nat) : State :=
  let t := s.wr (LDG.LK_KEY_KEY r) key
  if s.flag (LDG.LK_HI_BUSY r) then t.ldgIgnored r
  else (t.wr (LDG.LK_HI_BUSY r) 1).modRegion r fun x => { x with lookup := some (key % 2 ^ 56) }

/-- LOOKUP (R244). -/
def execLookup (r key : Nat) (s : State) : Host.Outcome State Fault Refusal :=
  .next (s.atReg 0 (LDG.LK_KEY_KEY r).addr fun s => s.lookupGo r key)

/-- LOOKUP_DONE (R244): the lookup of region `r` completes; the bucket comes through the cache as an update's does. -/
def execLookupDone (r : Nat) (victim : Victim) (up dev : Nat) (lost : Nat) (s : State) : Host.Outcome State Fault Refusal :=
  .next (match (s.region r).lookup with
    | Option.none => s
    | some key =>
      let hash := ledgerHash (key % 2 ^ 50) (s.rd (LDG.CTRL_SALT 0))
      let h := hash % 4
      if s.frozen || (s.rd (DDR.STATUS_STATE h) != ddrReady && !s.inCache h (hash / 4)) then s
      else
        let t := (s.cached h (hash / 4) victim.line ⟨victim.up, victim.lost⟩ up dev lost).modRegion r fun x => { x with lookup := Option.none }
        let ws := (Tab.get Line.none (t.region h).cache (hash / 4)).words
        let f := t.findEntry ws key
        let w0 := (f.map fun k => ws.getD (2 * k) 0).getD 0
        let w1 := (f.map fun k => ws.getD (2 * k + 1) 0).getD 0
        t.wrs [(LDG.LK_W0_W0 r, bits w0 0 64), (LDG.LK_W1_W1 r, bits w1 0 64), (LDG.LK_HI_W0_HI r, bits w0 64 8),
          (LDG.LK_HI_W1_HI r, bits w1 64 8), (LDG.LK_HI_FOUND r, b2n f.isSome), (LDG.LK_HI_BUSY r, 0)])

/-- R239: the dropped-record count of the caravan led by `l`. -/
def State.drops (s : State) (l : Nat) : Nat :=
  ((s.members l).map fun c => s.rd (CEL.FQ_DROPS c)).sum + s.rd (LDG.SITE_SPILL_DROP 0 (s.siteOf l))

/-- R241, R245: the accounts of the caravan led by `l` are read through their code; `ups` are errors that arise: account and
class. -/
def State.readAccts (s : State) (l : Nat) (ups : List (Nat × Nat)) : State :=
  let g := s.acctRange l
  (List.range (g.2 - g.1)).foldl (fun t k =>
    t.acctErrors (regionOf l) (g.1 + k) (((ups.find? fun e => e.1 == g.1 + k).map (·.2)).getD 0)) s

/-- R241: the bytes that LD hashes. -/
def State.digestBytes (s : State) (l : Nat) : List Nat :=
  let r := regionOf l
  let site := s.siteOf l
  let g := s.acctRange l
  let e := ((List.range 4).map fun h => Tab.get 0 s.esum (256 * h + site)).sum
  [0x48, 0x58, 0x4C, 0x44, site, s.rd (LDG.SITE_EPOCH 0 site)] ++ toBytes 32 e ++
    (List.range (g.2 - g.1)).flatMap fun k =>
      let ws := s.readWords (acctAddr r (g.1 + k)) 8
      let a := Acct.ofWords ws
      if a.en && a.site == site then ws.flatMap (toBytes 9) else List.replicate 72 0

/-- R241: a write of LDG.DIG_CTRL with GO = 1 and LEAD `i`; where R241 ignores it, GO alone is (log 92). -/
def State.digestGo (s : State) (r i : Nat) : State :=
  let l := 64 * r + i
  let t := s.wr (LDG.DIG_CTRL_LEAD r) i
  if !s.isLead l || s.flag (LDG.STATUS_DIG_BUSY r) || s.busy l || !s.flag (LDG.CVST_DRAIN_DONE r i) ||
      s.flag (LDG.CVST_ALLOC_BUSY r i) then t.ldgIgnored r
  else (t.wr (LDG.STATUS_DIG_BUSY r) 1).modRegion r fun x => { x with digest := some l }

/-- DIGEST (R241). -/
def execDigest (r i : Nat) (s : State) : Host.Outcome State Fault Refusal :=
  .next (s.atReg 0 (LDG.DIG_CTRL_LEAD r).addr fun s => s.digestGo r i)

/-- R365: the seal of the caravan led by `l` takes the digest that it asked for. -/
def State.sealDigest (s : State) (l ld drops : Nat) : State :=
  { s with objor := { s.objor with sealRun := s.objor.sealRun.map fun x =>
    if x.lead = l ∧ x.digested = true ∧ x.digest = none then { x with digest := some (ld, drops) } else x } }

/-- R241: the digest that region `r` computes is ready; `ups` are errors that arise at accounts. -/
def State.digestReady (s : State) (r : Nat) (ups : List (Nat × Nat)) : State :=
  match (s.region r).digest with
    | Option.none => s
    | some l =>
      let t := s.readAccts l ups
      let ld := Config.sha256 (t.digestBytes l)
      ((t.modRegion r fun x => { x with digest := Option.none }).sealDigest l ld (min (s.drops l) (2 ^ 32 - 1))).wrs
        [(LDG.DIG_LD r 0, bits ld 0 64), (LDG.DIG_LD r 1, bits ld 64 64), (LDG.DIG_LD r 2, bits ld 128 64),
          (LDG.DIG_LD r 3, bits ld 192 64), (LDG.DIG_DROPS_COUNT r, min (s.drops l) (2 ^ 32 - 1)), (LDG.STATUS_DIG_BUSY r, 0),
          (LDG.STATUS_DIG_DONE r, 1)]

/-- DIGEST_DONE (R241): a region, and errors that arise at accounts. -/
def execDigestDone (r : Nat × List (Nat × Nat)) (s : State) : Host.Outcome State Fault Refusal := .next (s.digestReady r.1 r.2)

/-- R230: a write of LDG.SPILL_HEAD of region `h`. -/
def State.writeSpillHead (s : State) (h v : Nat) : State :=
  if (s.rd (LDG.SPILL_TAIL_COUNT h) + 2 ^ 32 - v % 2 ^ 32) % 2 ^ 32 ≤ 262144 then s.wr (LDG.SPILL_HEAD_COUNT h) v
  else s.ldgIgnored h

/-- SPILL_HEAD_WRITE (R230). -/
def execSpillHeadWrite (h v : Nat) (s : State) : Host.Outcome State Fault Refusal :=
  .next (s.atReg 0 (LDG.SPILL_HEAD_COUNT h).addr fun s => s.writeSpillHead h v)

/-- R246: some record is in flight. -/
def State.anyInFlight (s : State) : Bool :=
  s.cells.any (fun e => decide (0 < recordCount e.2.failQ)) || s.blocks.any (fun e => decide (0 < recordCount e.2.merger)) ||
    s.regions.any fun e => !e.2.sent.isEmpty || !e.2.acctQ.isEmpty

/-- R246, R289: a write of the bits `mask` of LDG.CTRL. -/
def State.writeLdgCtrl (s : State) (mask v : Nat) : State :=
  let en := s.merged (LDG.CTRL_EN 0) mask v
  let salt := s.merged (LDG.CTRL_SALT 0) mask v
  let enBad := en ≠ s.rd (LDG.CTRL_EN 0) ∧ (s.allLeads.any s.busy = true ∨ s.anyInFlight = true ∨
    (en = 1 ∧ ((List.range 4).any fun r => s.rd (DDR.STATUS_STATE r) != ddrReady) = true))
  let saltBad := salt ≠ s.rd (LDG.CTRL_SALT 0) ∧ s.flag (LDG.CTRL_EN 0) = true
  let s1 := if enBad then s.ldgIgnored 0 else s.wr (LDG.CTRL_EN 0) en
  if saltBad then s1.ldgIgnored 0 else s1.wr (LDG.CTRL_SALT 0) salt

/-- LDG_CTRL_WRITE (R246). -/
def execLdgCtrlWrite (mask v : Nat) (s : State) : Host.Outcome State Fault Refusal :=
  .next (s.atReg 0 (LDG.CTRL_EN 0).addr fun s => s.writeLdgCtrl mask v)

end Sys2Proof.Machine
end

