-- ==== Sys2Proof/Machine/Store.lean ====
section
/-! DEFINITION. The Store (spec/13): code words and their conditions, view reads, the erase journal and its recovery, the
commands of its two ports; and the calibration loader that reads it (R165 to R168). -/

namespace Sys2Proof.Machine

/-! ### The array (R321) -/

/-- The word-view address of code word `k`. -/
def cwAddr (k : Nat) : Nat := storeBase + 64 * k

/-- The condition of code word `k`: 0 erased, 1 programmed, 2 uncorrectable. -/
def State.cwState (s : State) (k : Nat) : Nat := Tab.get 0 s.store.cw k

/-- The four words of code word `k` as they stand in the array. -/
def State.cwRaw (s : State) (k : Nat) : List Nat := s.readWords (cwAddr k) 4

/-- R321: bits in error of code word `k` when `e` bits more are sensed wrong; more than 3 are uncorrectable. -/
def State.cwErrors (s : State) (k e : Nat) : Nat :=
  if s.cwState k = 2 then 4
  else
    let c := Tab.get 0 s.store.chk k
    if c = 0 then e else e + Config.bchErrors (s.cwRaw k) (c - 1)

/-- R321: the payload of code word `k` as it decodes. -/
def State.cwWords (s : State) (k : Nat) : List Nat :=
  let c := Tab.get 0 s.store.chk k
  if c = 0 then s.cwRaw k else (Config.bchCorrect (s.cwRaw k) (c - 1)).map word72

/-- Program code word `k` with fresh check bits. -/
def State.cwProgram (s : State) (k : Nat) (ws : List Nat) : State :=
  let t := s.writeWords (cwAddr k) ((List.range 4).map fun i => word72 (ws.getD i 0))
  { t with store := { t.store with cw := Tab.set 0 t.store.cw k 1, chk := Tab.set 0 t.store.chk k 0 } }

/-- Make code word `k` uncorrectable. -/
def State.cwSpoil (s : State) (k : Nat) : State := { s with store := { s.store with cw := Tab.set 0 s.store.cw k 2 } }

/-- Erase the code words from `lo` to below `hi`. -/
def State.cwErase (s : State) (lo hi : Nat) : State :=
  let t := s.clearMem (cwAddr lo) (cwAddr hi)
  { t with store := { t.store with cw := Tab.drop t.store.cw lo hi, chk := Tab.drop t.store.chk lo hi } }

/-- The sector of code word `k`. -/
def sectorOf (k : Nat) : Nat := k / 4096

/-- R337: sector `x` is torn. -/
def State.torn (s : State) (x : Nat) : Bool := bitOf (s.rd (STO.TORN_SECTORS (x / 64))) (x % 64)

/-- R337: the torn state of a sector. -/
def State.setTorn (s : State) (x : Nat) (b : Bool) : State :=
  s.wr (STO.TORN_SECTORS (x / 64)) (putBit (s.rd (STO.TORN_SECTORS (x / 64))) (x % 64) b)

/-- R330: the code word `k` touches a valid execute-only region. -/
def State.cwXo (s : State) (k : Nat) : Bool :=
  (List.range 16).any fun n => s.flag (STO.XO_VALID n) && decide (s.rd (STO.XO_BASE n) ≤ k / 128) &&
    decide (k / 128 ≤ s.rd (STO.XO_LIMIT n))

/-- R331: a sector touches a valid execute-only region. -/
def State.sectorXo (s : State) (x : Nat) : Bool :=
  (List.range 16).any fun n => s.flag (STO.XO_VALID n) && decide (s.rd (STO.XO_BASE n) ≤ s.rd (STO.XO_LIMIT n)) &&
    decide (s.rd (STO.XO_BASE n) ≤ 32 * x + 31) && decide (32 * x ≤ s.rd (STO.XO_LIMIT n))

/-! ### The erase journal (R334, R335) -/

/-- The first code word of journal half `h`. -/
def halfBase (h : Nat) : Nat := 4096 + 2048 * h

/-- The number of code words of a journal half that are not erased. -/
def State.halfUsed (s : State) (h : Nat) : Nat :=
  (s.store.cw.filter fun e => decide (halfBase h ≤ e.1) && decide (e.1 < halfBase h + 2048)).length

/-- Word 0 of the entries of a journal half, in order; uncorrectable ones are none. -/
def State.entries (s : State) (h : Nat) : List (Option (List Nat)) :=
  (List.range (s.halfUsed h)).map fun i =>
    if s.cwErrors (halfBase h + i) 0 ≤ 3 then some (s.cwWords (halfBase h + i)) else none

/-- R334: word 0 of a journal entry. -/
def entryWord (type sector seq : Nat) : Nat := type + 256 * (sector % 512) + 2 ^ 32 * (seq % 2 ^ 32)
/-- TYPE, SECTOR and SEQ (or GEN) of an entry's word 0. -/
def entType (w : Nat) : Nat := bits w 0 8
def entSector (w : Nat) : Nat := bits w 8 9
def entSeq (w : Nat) : Nat := bits w 32 32

/-- R384: MARK of a life-cycle record. -/
def entMark (w : Nat) : Nat := bits w 24 2

/-- The entries of a half that decode. -/
def State.goodEntries (s : State) (h : Nat) : List (List Nat) := (s.entries h).filterMap id

/-- R335, R336: the half is committed: a HEADER first, a COMMIT after it, and no entry uncorrectable. -/
def State.committed (s : State) (h : Nat) : Bool :=
  (s.entries h).all (·.isSome) && (((s.goodEntries h).head?).any fun e => entType (e.getD 0 0) == 3) &&
    (s.goodEntries h).any fun e => entType (e.getD 0 0) == 4

/-- R335: GEN of a half. -/
def State.genOf (s : State) (h : Nat) : Nat := (((s.goodEntries h).head?).map fun e => entSeq (e.getD 0 0)).getD 0

/-- R336: the committed half with the higher GEN. -/
def State.activeHalf (s : State) : Option Nat :=
  if s.committed 0 then (if s.committed 1 && decide (s.genOf 0 < s.genOf 1) then some 1 else some 0)
  else if s.committed 1 then some 1 else none

/-- R336, R337: the BEGIN entries of which no COMPLETE of their sector follows. -/
def openBegins : List (List Nat) → List (List Nat)
  | [] => []
  | e :: t =>
    let w := e.getD 0 0
    if entType w = 1 ∧ !(t.any fun f => entType (f.getD 0 0) == 2 && entSector (f.getD 0 0) == entSector w) then e :: openBegins t
    else openBegins t

/-- R384: the open life-cycle records: OPEN with no CLOSE of the same SEQ. -/
def openRecords (es : List (List Nat)) : List (List Nat) :=
  es.filter fun e => entType (e.getD 0 0) == 0x10 && entMark (e.getD 0 0) == 1 &&
    !(es.any fun f => entType (f.getD 0 0) == 0x10 && entMark (f.getD 0 0) == 2 && entSeq (f.getD 0 0) == entSeq (e.getD 0 0))

/-- The journal half in force. -/
def State.half (s : State) : Nat := s.rd STO.JSEQ_HALF

/-- JSEQ.FREE shows the free code words of the active half. -/
def State.showFree (s : State) : State := s.wr STO.JSEQ_FREE (2048 - s.halfUsed s.half)

/-- R334: an entry is appended to the active half. -/
def State.journal (s : State) (ws : List Nat) : State :=
  (s.cwProgram (halfBase s.half + s.halfUsed s.half) ws).showFree

/-- R335: a rollover is due. -/
def State.rolloverDue (s : State) : Bool := decide (2048 - s.halfUsed s.half < 8)

/-- R335 steps 1 to 3: the other half takes a HEADER, every open entry, and COMMIT, and becomes the active half. -/
def State.rollIn (s : State) : State :=
  let es := s.goodEntries s.half
  let h := 1 - s.half
  let g := s.genOf s.half
  let s1 := (s.cwErase (halfBase h) (halfBase h + 2048)).wr STO.JSEQ_HALF h
  ((openBegins es ++ openRecords es).foldl (fun t e => t.journal e) (s1.journal [entryWord 3 0 (g + 1)])).journal
    [entryWord 4 0 0]

/-- R335 step 4: the half that is no longer active is erased. -/
def State.rollOut (s : State) : State := s.cwErase (halfBase (1 - s.half)) (halfBase (1 - s.half) + 2048)

/-- R335: a rollover at one instant, where a rule needs the journal at once (Objor's own erases). -/
def State.rollNow (s : State) : State := if s.rolloverDue then s.rollIn.rollOut.showFree else s

/-- R334 steps 1 to 3: sector `x` is erased under the journal. -/
def State.eraseBegin (s : State) (x : Nat) : State :=
  ((s.journal [entryWord 1 x (s.rd STO.JSEQ_SEQ)]).wr STO.JSEQ_SEQ (s.rd STO.JSEQ_SEQ + 1)).cwErase (4096 * x) (4096 * x + 4096)

/-- R326, R334: a sector is erased under the journal at one instant by a command of Objor's private port, which the Store takes
when it is idle (R325). -/
def State.eraseNow (s : State) (x : Nat) : State :=
  ((((s.eraseBegin x).journal [entryWord 2 x (s.rd STO.JSEQ_SEQ)]).setTorn x false).rollNow).wr STO.EVT_DONE 1

/-- R334 step 5: an erase by a command of Objor does not verify: no COMPLETE, and the sector is torn. Which code word still fails is
free (log 1). -/
def State.eraseFails (s : State) (x : Nat) : State :=
  ((((s.drawn.eraseBegin x).cwSpoil (4096 * x + s.freeVal 12)).setTorn x true).rollNow).wr STO.EVT_DONE 1

/-- R334, R327: an entry is appended that does not verify; it reads as good or, where `spoil` says so, as uncorrectable. -/
def State.journalBad (s : State) (ws : List Nat) (spoil : Bool) : State :=
  let k := halfBase s.half + s.halfUsed s.half
  (if spoil then (s.cwProgram k ws).cwSpoil k else s.cwProgram k ws).showFree

/-- R326, R327: blank code word `k` is programmed at one instant by a command of Objor's private port. -/
def State.programNow (s : State) (k : Nat) (ws : List Nat) : State := (s.cwProgram k ws).wr STO.EVT_DONE 1

/-- R327: a program of code word `k` by a command of Objor does not verify: the code word is not blank any more, and reads as good
or, where `spoil` says so, as uncorrectable. -/
def State.programBad (s : State) (k : Nat) (ws : List Nat) (spoil : Bool) : State :=
  if spoil then (s.programNow k ws).cwSpoil k else s.programNow k ws

/-- R327: the same where no operand tells how the code word reads; that is free. -/
def State.programFails (s : State) (k : Nat) (ws : List Nat) : State := s.drawn.programBad k ws (s.freeVal 1 == 1)

/-- R336 steps 1 to 3, and the re-initialisation when neither half is committed: the half 0 then takes a HEADER, COMMIT,
and an open BEGIN for every user sector, so that each stays torn (R337). -/
def State.recoverJournal (s : State) : State :=
  let s0 := (List.range 8).foldl (fun t k => t.wr (STO.TORN_SECTORS k) 0) s
  match s0.activeHalf with
  | some h =>
    let es := s0.goodEntries h
    let s1 := ((openBegins es).map fun e => entSector (e.getD 0 0)).foldl (fun t x => t.setTorn x true) (s0.wr STO.JSEQ_HALF h)
    let s2 := if (openBegins es).isEmpty then s1 else s1.wr STO.EVT_TORN_FOUND 1
    let top := (es ++ s0.goodEntries (1 - h)).foldl (fun m e =>
      if entType (e.getD 0 0) = 3 ∨ entType (e.getD 0 0) = 4 then m else max m (entSeq (e.getD 0 0) + 1)) 0
    (s2.wr STO.JSEQ_SEQ top).showFree
  | none =>
    let users := (List.range 504).map (· + 8)
    let s1 := users.foldl (fun t x => t.setTorn x true) (s0.wrs [(STO.STATUS_JRNL_LOST, 1), (STO.EVT_TORN_FOUND, 1),
      (STO.JSEQ_HALF, 0)])
    let s2 := ((s1.cwErase (halfBase 0) (halfBase 2)).journal [entryWord 3 0 1]).journal [entryWord 4 0 0]
    (users.foldl (fun t x => t.journal [entryWord 1 x (x - 8)]) s2).wr STO.JSEQ_SEQ 504

/-- R336 step 4, R509: an inactive half that is not blank is erased again as an internal operation. -/
def State.recoverErase (s : State) : State :=
  if s.halfUsed (1 - s.half) = 0 then s
  else { s.wrs [(STO.STATUS_BUSY, 1), (STO.STATUS_INTERNAL, 1), (CHIP.START_JRNL_ERASE, 1)] with
    store := { s.store with op := some .recovery } }

/-! ### View reads (R322 to R324, R331, R332) -/

/-- STO.ERR_ADDR takes the first record. -/
def State.storeErr (s : State) (k kind : Nat) : State :=
  if s.flag STO.ERR_ADDR_VALID then s else s.wrs [(STO.ERR_ADDR_CW, k), (STO.ERR_ADDR_KIND, kind), (STO.ERR_ADDR_VALID, 1)]

/-- The first word that a view address names. -/
def viewWord (a : Nat) : Nat := if a < codeBase then (a - storeBase) / 16 else (a - codeBase) / 8

/-- R323, R331: the Store answers a view read. `e` tells for its code words, lowest digit of 16 first, how many bits are sensed
wrong. A data read of execute-only words counts one hit, and those words return zero, to Objor too
(log 123). -/
def State.storeServe (s : State) (q : Req) (e : Nat) : State :=
  let n := viewWord q.addr
  let cnt := if q.isPartial then 1 else q.len
  let ws := (List.range cnt).map (n + ·)
  let ks := (ws.map (· / 4)).eraseDups
  let k := n / 4
  let x := sectorOf k
  let err (c : Nat) : Nat := s.cwErrors c (e / 16 ^ (c - k) % 16)
  let shut (c : Nat) : Bool := s.cwXo c && !q.fetch
  let seen := ks.filter fun c => !shut c
  let bad := seen.filter fun c => decide (3 < err c)
  if 2 ≤ x ∧ x < 8 ∧ q.init ≠ 61 then s.respond q 4 []
  else
    let s1 := match ks.find? shut with
      | some c => ((s.count STO.HITS_XO_HITS 1).storeErr c 3).wr STO.EVT_XO_HIT 1
      | none => s
    let s2 := s1.count STO.ECC_CORR (seen.filter fun c => decide (0 < err c ∧ err c ≤ 3)).length
    match bad with
    | c :: _ => (((s2.count STO.ECC_UNCORR bad.length).storeErr c 1).wr STO.EVT_UNCORR 1).respond q 6 []
    | [] =>
      let data := ws.map fun w =>
        let v := (s.cwWords (w / 4)).getD (w % 4) 0
        if shut (w / 4) then 0 else if q.addr < codeBase then v else bits v 0 64
      if s.torn x && !seen.isEmpty then ((s2.count STO.HITS_TORN_RD 1).storeErr k 2).respond q 8 data else s2.respond q 0 data

/-- R332: a view read waits while an operation runs, else it is served. -/
def State.storeRead (s : State) (q : Req) (e : Nat) : State :=
  if s.store.op.isSome then { s with store := { s.store with waiting := s.store.waiting ++ [q] } } else s.storeServe q e

/-- R332, WAITING_READS_SERVED: the waiting reads are served in order of arrival; `es` tells for each the bits sensed
wrong. -/
def State.serveWaiting (s : State) (es : List Nat) : State :=
  let qs := s.store.waiting
  (qs.zipIdx).foldl (fun t e => t.storeServe e.1 (es.getD e.2 0)) { s with store := { s.store with waiting := [] } }

/-- R324: a write to the word view. -/
def State.storeWrite (s : State) (q : Req) : State := (s.wr STO.STATUS_WV_WR 1).respond q 4 []

/-! ### Commands (R325 to R329, R334, R338) -/

/-- R325: a command cannot be accepted. -/
def State.storeBusy (s : State) : Bool := s.store.op.isSome || s.flag STO.CMD_STATUS_PEND || s.rolloverDue

/-- A refused command of the shared port is counted; the private port has no counters (R325). -/
def State.storeReject (s : State) (obj : Bool) (op st : Nat) : State :=
  if obj then s else s.reject STO.REJECT_COUNT STO.LAST_REJECT_CODE STO.LAST_REJECT_STATUS op st

/-- R326: a command of the shared port completes. A refused one shows its status too, but while another is pending the
status of that one is still to come. -/
def State.storeDone (s : State) (obj : Bool) (op st : Nat) : State :=
  if obj then s.wr STO.EVT_DONE 1
  else s.wrs [(STO.CMD_STATUS_STATUS, st), (STO.CMD_STATUS_OP, op), (STO.CMD_STATUS_PEND, 0), (STO.EVT_DONE, 1)]

/-- R11, R13: a refusal. It shows in CMD_STATUS, but while a command of the shared port is pending the status of that one is
still to come. -/
def State.storeRefuse (s : State) (obj : Bool) (op st : Nat) : State :=
  let t := s.storeReject obj op st
  if obj || s.flag STO.CMD_STATUS_PEND then t else t.wrs [(STO.CMD_STATUS_STATUS, st), (STO.CMD_STATUS_OP, op)]

/-- R322: a master of the port may read sector `x` by command. -/
def mayRead (obj : Bool) (x : Nat) : Bool := obj || decide (x < 2) || decide (8 ≤ x)

/-- R322: a master of the port may program sector `x`; Objor programs sector 0 for a life-cycle transition only. -/
def State.mayProgram (s : State) (obj : Bool) (x : Nat) : Bool :=
  decide (8 ≤ x) || (obj && (decide (2 ≤ x) || (x == 0 && s.rd LC.PROGRESS_PHASE != 0)))

/-- The code word that PBUF holds. -/
def State.pbuf (s : State) : List Nat := (List.range 4).map fun n => s.rd (STO.PBUF_LO_LO n) + 2 ^ 64 * s.rd (STO.PBUF_HI_HI n)

/-- RBUF takes a code word. -/
def State.setRbuf (s : State) (ws : List Nat) : State :=
  (List.range 4).foldl (fun t n => t.wrs [(STO.RBUF_LO_LO n, bits (ws.getD n 0) 0 64), (STO.RBUF_HI_HI n, bits (ws.getD n 0) 64 8)]) s

/-- R326: a Store command comes from the private port of Objor, or from a write of STO.CMD. -/
def State.stoRow (s : State) (obj : Bool) (act : State → State) : State := if obj then act s else s.atReg 0 STO.CMD_OP.addr act

/-- READ_MARGIN (R326, R329): code word `k` is read at a margin; `e` of its bits are sensed wrong at it. `obj` names the
private port. -/
def State.readMargin (s : State) (obj : Bool) (k margin e : Nat) : State :=
  let x := sectorOf k
  let n := s.cwErrors k e
  if s.storeBusy then s.storeRefuse obj 1 1
  else if !mayRead obj x || (s.cwXo k && !obj) then s.storeRefuse obj 1 4
  else
    let s1 := if n ≤ 3 then s.setRbuf (s.cwWords k) else (s.setRbuf [s.freeVal 72, s.drawn.freeVal 72, s.drawn.drawn.freeVal 72,
      s.drawn.drawn.drawn.freeVal 72]).drawn.drawn.drawn.drawn
    let s2 := s1.wrs [(STO.RRES_CORR, if n ≤ 3 then n else 0), (STO.RRES_BLANK, b2n (margin == 2 && n == 0 && s.cwState k == 0)),
      (STO.RRES_TORN, b2n (s.torn x)), (STO.RRES_UNCORR, b2n (decide (3 < n)))]
    s2.storeDone obj 1 (if 3 < n then 6 else if s.torn x then 8 else 0)

/-- READ_MARGIN (R326). -/
def execReadMargin (obj : Bool) (k margin e : Nat) (s : State) : Host.Outcome State Fault Refusal :=
  .next (s.stoRow obj fun s => s.readMargin obj (k % 2097152) (margin % 4) e)

/-- R325: an accepted command runs. -/
def State.storeStart (s : State) (obj : Bool) (op : Nat) (o : StoreOp) : State :=
  let t := { s with store := { s.store with op := some o } }
  if obj then t.wr STO.STATUS_BUSY 1 else t.wrs [(STO.STATUS_BUSY, 1), (STO.CMD_STATUS_PEND, 1), (STO.CMD_STATUS_OP, op)]

/-- PROGRAM (R326, R327): PBUF is to be programmed into code word `k`; `e` bits are sensed wrong by the blank check. -/
def State.storeProgram (s : State) (obj : Bool) (k e : Nat) : State :=
  let x := sectorOf k
  if s.storeBusy then s.storeRefuse obj 2 1
  else if s.torn x then s.storeRefuse obj 2 3
  else if !s.mayProgram obj x || (s.cwXo k && !obj) then s.storeRefuse obj 2 4
  else if s.cwState k ≠ 0 ∨ e ≠ 0 then s.storeRefuse obj 2 7
  else s.storeStart obj 2 (.program obj k s.pbuf)

/-- PROGRAM (R327). -/
def execProgram (obj : Bool) (k e : Nat) (s : State) : Host.Outcome State Fault Refusal := 
  .next (s.stoRow obj fun s => s.storeProgram obj (k % 2097152) e)

/-- The Store is idle again; the waiting reads are served. -/
def State.storeIdle (s : State) (es : List Nat) : State :=
  ({ s.wrs [(STO.STATUS_BUSY, 0), (STO.STATUS_INTERNAL, 0)] with store := { s.store with op := none } }).serveWaiting es

/-- PROGRAM_DONE (R327): programming ends. `res`: 0 it verifies; 1 it does not, and reads as good; 2 it does not, and
reads uncorrectable. `es` is for the waiting reads. -/
def execProgramDone (res : Nat) (es : List Nat) (s : State) : Host.Outcome State Fault Refusal :=
  .next (match s.store.op with
    | some (.program obj k ws) =>
      let t := if res = 2 then (s.cwProgram k ws).cwSpoil k else s.cwProgram k ws
      (t.storeIdle es).storeDone obj 2 (if res = 0 then 0 else 6)
    | _ => s)

/-- ERASE (R326, R334 step 1): INDEX is `index`; the BEGIN entry is appended. -/
def State.storeErase (s : State) (obj : Bool) (index : Nat) : State :=
  let x := index % 512
  if s.storeBusy then s.storeRefuse obj 3 1
  else if x < 2 ∨ (x < 8 ∧ obj = false) ∨ (s.sectorXo x = true ∧ obj = false) then s.storeRefuse obj 3 4
  else if index % 2097152 / 512 ≠ 0 then s.storeRefuse obj 3 2
  else
    let q := s.rd STO.JSEQ_SEQ
    (((s.journal [entryWord 1 x q]).wr STO.JSEQ_SEQ (q + 1))).storeStart obj 3 (.erase obj x q)

/-- ERASE (R334). -/
def execErase (obj : Bool) (index : Nat) (s : State) : Host.Outcome State Fault Refusal := 
  .next (s.stoRow obj fun s => s.storeErase obj index)

/-- ERASE_DONE (R334 steps 2 to 5): `bad` are the code words of the sector, by place, that still do not verify as erased.
`es` is for the waiting reads. -/
def execEraseDone (bad : List Nat) (es : List Nat) (s : State) : Host.Outcome State Fault Refusal :=
  .next (match s.store.op with
    | some (.erase obj x q) =>
      let t := s.cwErase (4096 * x) (4096 * x + 4096)
      if bad.isEmpty then (((t.journal [entryWord 2 x q]).setTorn x false).storeIdle es).storeDone obj 3 0
      else ((bad.foldl (fun u k => u.cwSpoil (4096 * x + k % 4096)) t).setTorn x true |>.storeIdle es).storeDone obj 3 6
    | _ => s)

/-- R338: a raw command passes its checks; the status of its refusal otherwise. -/
def State.rawRefused (s : State) (obj write : Bool) (k : Nat) : Nat :=
  if s.storeBusy then 1
  else if !s.flag LC.STATE_TEST_MODES then 3
  else if (if write then !s.mayProgram obj (sectorOf k) else !mayRead obj (sectorOf k)) || (s.cwXo k && !obj) then 4
  else 0

/-- R338: the 320 physical bits of code word `k`, its check bits in [319:288]. Of one that has become uncorrectable only that is
stated (`Config.upsetBits`, log 1). -/
def State.cwPhysical (s : State) (k : Nat) : Nat :=
  let c := Tab.get 0 s.store.chk k
  let ws := s.cwRaw k
  let chk := if c ≠ 0 then c - 1 else if s.cwState k = 0 then Config.bchErased else Config.bchCheck ws
  let v := ((List.range 4).map fun i => ws.getD i 0 * 2 ^ (72 * i)).sum + 2 ^ 288 * (chk % 2 ^ 32)
  if s.cwState k = 2 then Config.upsetBits (cwAddr k) 4 v % 2 ^ 320 else v

/-- RAW_READ (R338): the physical bits of code word `k`, with the bits of `flip` sensed wrong. -/
def State.rawRead (s : State) (obj : Bool) (k flip : Nat) : State :=
  let st := s.rawRefused obj false k
  if st ≠ 0 then s.storeRefuse obj 8 st
  else
    let v := Nat.xor (s.cwPhysical k) flip
    ((s.setRbuf ((List.range 4).map fun i => bits v (72 * i) 72)).wr STO.RBUF_CHK_CHK (bits v 288 32)).storeDone obj 8 0

/-- RAW_READ (R338). -/
def execRawRead (obj : Bool) (k flip : Nat) (s : State) : Host.Outcome State Fault Refusal := 
  .next (s.stoRow obj fun s => s.rawRead obj (k % 2097152) flip)

/-- RAW_PROGRAM (R338, R321): PBUF and PBUF_CHK go into code word `k` as given; the pattern of an erased code word leaves it
erased. -/
def State.rawProgram (s : State) (obj : Bool) (k : Nat) : State :=
  let st := s.rawRefused obj true k
  if st ≠ 0 then s.storeRefuse obj 9 st
  else
    let chk := s.rd STO.PBUF_CHK_CHK
    let t := s.cwProgram k s.pbuf
    (if s.pbuf = [0, 0, 0, 0] ∧ chk = Config.bchErased % 2 ^ 32 then s.cwErase k (k + 1)
      else { t with store := { t.store with chk := Tab.set 0 t.store.chk k (chk + 1) } }).storeDone obj 9 0

/-- RAW_PROGRAM (R338). -/
def execRawProgram (obj : Bool) (k : Nat) (s : State) : Host.Outcome State Fault Refusal := 
  .next (s.stoRow obj fun s => s.rawProgram obj (k % 2097152))

/-- JOURNAL_ROLLOVER (R335): fewer than 8 code words of the active half are free, and the Store starts a rollover. -/
def execJournalRollover (s : State) : Host.Outcome State Fault Refusal :=
  .next (if s.store.op.isSome || !s.rolloverDue then s
    else { s.wrs [(STO.STATUS_BUSY, 1), (STO.STATUS_INTERNAL, 1)] with store := { s.store with op := some (.rollover false) } })

/-- ROLLOVER_PERIOD_END (R335): a busy period of a rollover ends; reads that wait are served. -/
def execRolloverPeriodEnd (es : List Nat) (s : State) : Host.Outcome State Fault Refusal :=
  .next (match s.store.op with
    | some (.rollover false) =>
      let t := s.rollIn.serveWaiting es
      { t with store := { t.store with op := some (.rollover true) } }
    | some (.rollover true) => s.rollOut.showFree.storeIdle es
    | _ => s)

/-- RECOVERY_ERASE_DONE (R509): the erase of the inactive half ends. -/
def execRecoveryEraseDone (es : List Nat) (s : State) : Host.Outcome State Fault Refusal :=
  .next (match s.store.op with
    | some .recovery => s.rollOut.storeIdle es
    | _ => s)

/-! ### The calibration loader (R165 to R168) -/

/-- CRC-64/XZ: the register after one bit. -/
def crc64Bit (c : Nat) : Nat := if c % 2 = 1 then Nat.xor (c / 2) 0xC96C5795D7870F42 else c / 2
/-- CRC-64/XZ: the register after one byte. -/
def crc64Byte (c x : Nat) : Nat :=
  let r := Nat.xor c (x % 256)
  crc64Bit (crc64Bit (crc64Bit (crc64Bit (crc64Bit (crc64Bit (crc64Bit (crc64Bit r)))))))
/-- R165: CRC-64/XZ of a list of bytes. -/
def crc64 (xs : List Nat) : Nat := Nat.xor (xs.foldl crc64Byte (2 ^ 64 - 1)) (2 ^ 64 - 1)

/-- The first code word of a calibration bank. -/
def bankCw (bank : Nat) : Nat := 4096 * (8 + bank)

/-- R165, R321: word `n` of the image of a bank, as its code word decodes. -/
def State.bankWord (s : State) (bank n : Nat) : Nat := (s.cwWords (bankCw bank + n / 4)).getD (n % 4) 0

/-- R167: why a bank is not valid; 0 when it is. Of several reasons the first in the order of the codes shows, but for TORN and
uncorrectable reads, which come last (log 107). -/
def State.bankWhy (s : State) (bank : Nat) : Nat :=
  let w := s.bankWord bank
  let bytes := (List.range 8464).flatMap fun n => if n = 5 then List.replicate 9 0 else toBytes 9 (w n)
  if bits (w 0) 0 32 ≠ 0x4858434C ∨ bits (w 0) 32 16 ≠ 1 then 1
  else if bits (w 1) 0 64 ≠ s.rd LC.UNIT_ID0_ID ∨ bits (w 2) 0 64 ≠ s.rd LC.UNIT_ID1_ID then 2
  else if bits (w 3) 0 32 = 0 ∨ bits (w 3) 0 32 = 2 ^ 32 - 1 then 3
  else if bits (w 5) 0 64 ≠ crc64 bytes then 4
  else if s.torn (8 + bank) then 5
  else if (List.range 2116).any fun k => decide (3 < s.cwErrors (bankCw bank + k) 0) then 6
  else 0

/-- R165, R166: the trims of the lanes and of the ADC of block `b` from a bank (1 A, 2 B), or none. -/
def State.calBlock (s : State) (bank b : Nat) : State :=
  let w (n : Nat) : Nat := if bank = 0 then 0 else bits (s.bankWord (bank - 1) n) 0 64
  let s1 := (List.range 32).foldl (fun t p =>
    let c := 8 * b + p / 4
    ((List.range 8).foldl (fun u k => u.wr (PIN.TRIM_WORD c (p % 4) k) (w (16 + 8 * (32 * b + p) + k))) t).wr
      (PIN.STATE_CAL_SRC c (p % 4)) bank) s
  let v := w (8208 + 8 * b)
  s1.modBlock b fun x => { x with adcG := bits v 0 16, adcO := bits v 16 16, bgref := bits v 32 16 }

/-- R167: the bank to load: the valid one with the larger SEQ, A when they are equal. -/
def State.calBank (s : State) (a b : Nat) : Nat :=
  if a = 0 then (if b = 0 ∧ bits (s.bankWord 0 3) 0 32 < bits (s.bankWord 1 3) 0 32 then 2 else 1) else if b = 0 then 2 else 0

/-- R168: CHIP.CAL_CTRL.LOAD is written. -/
def State.calLoad (s : State) : State :=
  if !s.cal.isEmpty || (List.range 256).any (fun c => (List.range 4).any fun n => !s.flag (PIN.STATE_SAFE c n)) then
    s.wr CHIP.CAL_STATUS_WR_IGN 1
  else { s.wr CHIP.CAL_STATUS_BUSY 1 with cal := [.full] }

/-- CAL_LOAD (R168). -/
def execCalLoad (s : State) : Host.Outcome State Fault Refusal := .next (s.atReg 0 CHIP.CAL_CTRL_LOAD.addr State.calLoad)

/-- R167: a run of the loader ends; `a` and `b` tell why a bank could not be used beside what the image shows (5 TORN, 6
uncorrectable at this read; 0 nothing). -/
def State.calDone (s : State) (a b : Nat) : State :=
  match s.cal with
  | [] => s
  | r :: rest =>
    let wa := if s.bankWhy 0 = 0 then a else s.bankWhy 0
    let wb := if s.bankWhy 1 = 0 then b else s.bankWhy 1
    let bank := s.calBank wa wb
    let s1 := { s.wr CHIP.CAL_STATUS_BUSY (b2n (!rest.isEmpty)) with cal := rest }
    match r with
    | .block k => if s1.blockOn k then s1.calBlock bank k else s1
    | .full =>
      ((List.range 32).foldl (fun t k => if t.blockOn k then t.calBlock bank k else t) s1).wrs
        [(CHIP.CAL_STATUS_BANK, bank), (CHIP.CAL_STATUS_A_VALID, b2n (wa == 0)), (CHIP.CAL_STATUS_B_VALID, b2n (wb == 0)),
          (CHIP.CAL_STATUS_A_WHY, wa), (CHIP.CAL_STATUS_B_WHY, wb),
          (CHIP.CAL_STATUS_SEQ, if bank = 0 then 0 else bits (s.bankWord (bank - 1) 3) 0 32), (CHIP.START_CAL_DONE, 1)]

/-- CAL_LOAD_DONE (R167). -/
def execCalLoadDone (a b : Nat) (s : State) : Host.Outcome State Fault Refusal :=
  .next (if s.store.op.isSome then s else s.calDone a b)

end Sys2Proof.Machine
end

