-- ==== Sys2Proof/Machine/Serve.lean ====
section
/-! DEFINITION. What a memory does with a request that has reached it (spec/11): reads and writes, with the errors that each
memory reports; and the accesses of a master whose request and response are one command's, those of Objor and the Plane Writer
among them. -/

namespace Sys2Proof.Machine

/-! ### Requests and their words -/

/-- The words that a request names, lowest first: byte addresses of their slots. -/
def Req.slots (q : Req) : List Nat := (List.range (if q.isPartial then 1 else q.len)).map fun i => q.addr + q.target.slot * i

/-- R300: the bytes of the slot at place `i` of a write, and the mask of the bytes that it covers. -/
def Req.cover (q : Req) (slot : Nat) : Nat := if q.isPartial then q.bytes else if slot = 16 then 0x1FF else 0xFF

/-- R4: a word with the bytes of `en` replaced by those of `v`. -/
def mergeBytes (en v old : Nat) : Nat :=
  ((List.range 16).map fun k => bits (if bitOf en k then v else old) (8 * k) 8 * 2 ^ (8 * k)).sum

/-- R4: the write covers bytes 0 to 8. -/
def coversWord (en : Nat) : Bool := Nat.land en 0x1FF == 0x1FF

/-- R81: address `a` is a ring word. -/
def State.ringWord (s : State) (c a : Nat) : Bool := s.inRing c ((a - padBase c) / 16)

/-- R360: address `a` of cell `c`'s scratchpad lies in a valid execute-only window. -/
def State.xoWord (s : State) (c a : Nat) : Bool := (s.xowOf c ((a - padBase c) / 16)).isSome

/-- R285: raw access of a scratchpad or a depot is selected. -/
def State.rawMode (s : State) (t : Target) : Bool :=
  s.testModes && match t with
    | .pad c => s.flag (CEL.RAW_BYPASS c)
    | .depot b => s.flag (DEP.RAW_BYPASS b)
    | _ => false

/-- R285: the check bits that are stored with the word at `a`: those given in raw mode, else those of the code. -/
def State.checkOf (s : State) (a : Nat) : Nat :=
  let c := Tab.get 0 s.rawChk a
  if c = 0 then Config.checkBits (s.readWord a) % 256 else c - 1

/-- R285: the 80 physical bits of the word at `a`. Those of a word in which an error has arisen are not stated but for its
class (`Config.upsetBits`, log 1); a word that was written raw stands as it was written until one arises. -/
def State.physical (s : State) (a : Nat) : Nat :=
  let v := s.readWord a + 2 ^ 72 * s.checkOf a
  let e := Tab.get 0 s.ecc a
  let written := if Tab.get 0 s.rawChk a = 0 then 0 else min 2 (Config.checkClass (s.readWord a) (s.checkOf a))
  if e ≠ written then Config.upsetBits a e v % 2 ^ 80 else v

/-- R285: an error of class `up` arises in the word at `a`, which is read raw: nothing is counted or written back. -/
def State.upset (s : State) (a up : Nat) : State :=
  if up = 0 then s else { s with ecc := Tab.set 0 s.ecc a (if 2 ≤ s.eccOf a up then 3 else 1) }

/-- R285: bytes 0 to 9 are stored as given; a word whose check bits do not fit is in error. -/
def State.writeRaw (s : State) (a v chk : Nat) : State :=
  let t := s.writeWord a v
  let e := min 2 (Config.checkClass v chk)
  { t with ecc := Tab.set 0 t.ecc a e, rawChk := Tab.set 0 t.rawChk a (chk + 1) }

/-! ### Errors of the memories (R284) -/

/-- R284: a network read of the depot word at `a`. -/
def State.depotErrors (s : State) (b a up : Nat) : State :=
  let e := s.eccOf a up
  let t := s.eccAfter a up
  if e = 0 then t
  else if e = 1 then t.count (DEP.ECC_CORR b) 1
  else (t.count (DEP.ECC_UNCORR b) 1).wrs
    [(DEP.ECC_ADDR_ADDR b, (a - depotBase b) / 16), (DEP.ECC_ADDR_APG b, 0), (DEP.ECC_ADDR_VALID b, 1)]

/-- R284, R484: an error of the 64-bit word at `a` of steward memory or Oasis RAM; an uncorrectable one is reported with the
steward that read it. The spec names none for another master (log 39). -/
def State.smErrors (s : State) (m : Nat) (oasis : Bool) (a up : Nat) : State :=
  let e := s.eccOf a up
  let t := s.eccAfter a up
  if e = 0 then t
  else if e = 1 then t.count (if oasis then CHIP.MEM_ECC_OR_CORR else CHIP.MEM_ECC_SM_CORR) 1
  else
    let u := t.count (if oasis then CHIP.MEM_ECC_OR_UNCORR else CHIP.MEM_ECC_SM_UNCORR) 1
    if m < 4 then u.report 0x18 m else u.drawn.report 0x18 (u.freeVal 2)

/-- R233: the region-wide number of the account at word address `a`, and the word's place in it. -/
def acctPlace (a : Nat) : Nat × Nat := ((a - accountsBase) / 128 % 65536, (a - accountsBase) / 16 % 8)

/-- The burst of channel `r` that holds word address `a`, and the word's place in it. -/
def burstPlace (r a : Nat) : Nat × Nat := ((a - ddrBase r) / 128, (a - ddrBase r) / 16 % 8)

/-- R284: a network read of the words `as` through their memory's code; an error of class `up` arises at the first. `dev` is the
DRAM device in error. The words that one request reads of a channel lie in one burst, which is read once. -/
def State.errorsOf (s : State) (q : Req) (up dev : Nat) : List Nat → State
  | [] => s
  | a :: t =>
    let one (u : State) : State := match q.target with
      | .pad c => u.padErrors c ((a - padBase c) / 16) 0 up
      | .depot b => u.depotErrors b a up
      | .accounts r => u.acctWords r (acctPlace a).1 [(acctPlace a).2] up
      | .stewardMem => u.smErrors q.init false a up
      | .oasis => u.smErrors q.init true a up
      | _ => u
    match q.target with
    | .ddr r => s.ddrRead r (burstPlace r a).1 ((a :: t).map fun x => (burstPlace r x).2) up dev
    | _ => (one s).errorsOf q 0 dev t

/-! ### Reads -/

/-- What the word at `a` returns (R3, R285, R360). -/
def State.wordView (s : State) (q : Req) (a : Nat) : Nat :=
  match q.target with
  | .pad c => if s.xoWord c a && q.init != 61 then 0
    else if s.rawMode q.target then (if q.isPartial then s.physical a else s.physical a % 2 ^ 72) else s.readFixed a
  | .depot _ => if s.rawMode q.target then (if q.isPartial then s.physical a else s.physical a % 2 ^ 72) else s.readFixed a
  | .stewardMem => s.read64 a
  | .oasis => s.read64 a
  | _ => s.readWord a

/-- R284, R300: a read of a memory other than the Store is served. -/
def State.serveMemRead (s : State) (q : Req) (up dev : Nat) : State :=
  let seen := q.slots.filter fun a => match q.target with
    | .pad c => !(s.xoWord c a && q.init != 61)
    | _ => true
  let bad := !s.rawMode q.target && (seen.zipIdx).any fun e => decide (2 ≤ s.eccOf e.1 (if e.2 = 0 then up else 0))
  let t := if s.rawMode q.target then s.upset q.addr up else s.errorsOf q up dev seen
  if bad then t.respond q 6 [] else t.respond q 0 (q.slots.map (s.wordView q))

/-! ### Writes -/

/-- R4, R284: the bytes `en` of `v` are merged into the word at `a` of a word-view memory. -/
def State.mergeWord (s : State) (a en v : Nat) : State :=
  if coversWord en then s.writeWord a (word72 v)
  else if Nat.land en 0x1FF = 0 then s else s.writeWord a (word72 (mergeBytes en v (s.readFixed a)))

/-- R273: the bytes `en` of `v` are merged into the 64-bit word at `a`. -/
def State.merge64 (s : State) (a en v : Nat) : State := s.write64 a (mergeBytes en v (s.read64 a) % 2 ^ 64)

/-- Each word of a write with its place. -/
def Req.words (q : Req) : List (Nat × Nat) := (q.slots.zipIdx).map fun e => (e.1, q.data.getD e.2 0)

/-- R243: the word at `a` of channel `r` lies in its home's table or spill partition. -/
def State.ledgerWord (s : State) (r a : Nat) : Bool :=
  let w := (a - ddrBase r) / 16
  let t := s.rd (LDG.TBL_BASE_WORD r)
  let p := s.rd (LDG.SPILL_BASE_WORD r)
  (decide (t ≤ w) && decide (w < t + 8388608)) || (decide (p ≤ w) && decide (w < p + 4 * 262144))

/-- R81, R243, R289, R360: the status with which a write is turned away; 0 when it is served. -/
def State.writeRefused (s : State) (q : Req) : Nat :=
  match q.target with
  | .pad c => if q.slots.any fun a => s.ringWord c a then 4
    else if q.init != 61 && q.slots.any (s.xoWord c) then 4 else 0
  | .ddr r => if s.rd (DDR.STATUS_STATE r) ≠ ddrReady then 6
    else if s.flag (LDG.CTRL_EN 0) && q.slots.any (s.ledgerWord r) then 4 else 0
  | .nowhere => 4
  | .code => 4
  | _ => 0

/-- R285: a raw write, which must cover bytes 0 to 9. -/
def State.serveRawWrite (s : State) (q : Req) : State :=
  if q.isPartial && Nat.land q.bytes 0x3FF == 0x3FF then
    let v := q.data.headD 0
    (s.writeRaw q.addr (word72 v) (bits v 72 8)).respond q 0 []
  else s.respond q 6 []

/-- R4, R273, R284: a write of a memory is served: whole words are replaced; part of a word is merged, unless its stored
content is uncorrectable. An account is then counted, with no further action. -/
def State.serveMemWrite (s : State) (q : Req) (up dev : Nat) : State :=
  let slot := q.target.slot
  let en := q.cover slot
  let whole := if slot = 16 then coversWord en else Nat.land en 0xFF == 0xFF
  let bad := !whole && q.slots.any fun a => decide (2 ≤ s.eccOf a up)
  let t := if whole then s
    else match q.target, bad with
      | .accounts r, true => s.count (LDG.ECC_UNCORR r) 1
      | _, _ => s.errorsOf q up dev q.slots
  if bad then t.respond q 6 []
  else (q.words.foldl (fun u e => if slot = 16 then u.mergeWord e.1 en e.2 else u.merge64 e.1 en e.2) t).respond q 0 []

/-! ### A memory serves a request -/

/-- R300: a memory serves the read `q`. `up`: an error that the first word meets (in the Store: for its code words, lowest digit
of 16 first, the bits sensed wrong); `dev` the DRAM device. -/
def State.serveMemory (s : State) (q : Req) (up dev : Nat) : State :=
  match q.target with
  | .store => s.storeRead q up
  | .code => s.storeRead q up
  | .ddr r => let u := s.abortSlice (s.sliceRegion r)
    if s.rd (DDR.STATUS_STATE r) ≠ ddrReady then u.respond q 6 [] else u.serveMemRead q up dev
  | .nowhere => s.respond q 4 []
  | _ => s.serveMemRead q up dev

/-- R300: a memory serves the write `q`. -/
def State.storeMemory (s : State) (q : Req) (up dev : Nat) : State :=
  let t := q.target
  let u := match t with
    | .ddr r => s.abortSlice (s.sliceRegion r)
    | _ => s
  let st := u.writeRefused q
  if t = .store then s.storeWrite q
  else if st ≠ 0 then u.respond q st []
  else if u.rawMode t then u.serveRawWrite q
  else u.serveMemWrite q up dev

/-! ### An access whose request and response are one command's -/

/-- R301, R309: the response to request `q` is taken, `lat` FIO cycles after the request left: status, data and state. An error
result is the state in which the master waits on. -/
def State.collect (s : State) (q : Req) (lat : Nat) : Except State (Nat × List Nat × State) :=
  match s.net.rsps.find? fun r => r.req.same q with
  | none => .error s
  | some r =>
    if !s.mayReturn r then .error s
    else
      let p := s.arrived r lat
      if p.2 then .ok (r.status, r.data, p.1) else .error p.1

/-- R302 to R315: a master's access from its interface to its response; `serve` is what the target does. Where it has to wait
(at its interface, for its route, in the Store), the master takes the access up again later and finds it where it waits. -/
def State.accessWith (s : State) (serve : State → Req → State) (q : Req) (lat : Nat) : Except State (Nat × List Nat × State) :=
  if s.frozen then .error s
  else if s.outstanding.any fun e => e.same q && !s.timedOut e then s.collect q lat
  else match s.check q with
    | .wait => .error (s.waits q)
    | .refused st t => .ok (st, [], t.waitsNot q)
    | .pass =>
      let t := ((s.waitsNot q).launch q).reach q.init q.tag
      match t.net.flight.find? fun e => e.same q with
      | some e => (serve { t with net := { t.net with flight := t.net.flight.erase e } } e).collect q lat
      | none => t.collect q lat

/-- The tag of the accesses that the composite commands make, above those of a waybill that REQUEST_ISSUE names. -/
abbrev ownTag : Nat := 256

/-- A request of master `i` for the bytes `en` of the word at `a`; `data` is what it writes. -/
def partReq (i a en : Nat) (write : Bool) (data : Nat) : Req :=
  { init := i, tag := ownTag, subid := 0, kind := if write then .wrp else .rdp, addr := a, len := 1, bytes := en, data := [data],
    fetch := false }

/-- A request of master `i` for `n` whole words from `a` up. -/
def wordsReq (i subid a n : Nat) (write : Bool) (data : List Nat) : Req :=
  { init := i, tag := ownTag, subid := subid, kind := if write then .wr else .rd, addr := a, len := n, bytes := 0, data := data,
    fetch := false }

/-- R300, R450: the packets in which a master moves `n` words of `w` bytes from `a` up: addresses and word counts, each within an
aligned group of 8 words. -/
def groupsOf (w : Nat) : Nat → Nat → Nat → List (Nat × Nat)
  | 0, _, _ => []
  | _, _, 0 => []
  | f + 1, a, n + 1 =>
    let k := min (n + 1) (8 - a / w % 8)
    (a, k) :: groupsOf w f (a + w * k) (n + 1 - k)

/-! ### Accesses of Objor and the Plane Writer (R257, R274, R348) -/

/-- R309: the latency of an access that no command tells; nothing constrains it. -/
def State.ownLatency (s : State) : Nat := s.freeVal 16

/-- R274, R348: an access of master 61 to a memory. -/
def State.ownAccess (s : State) (q : Req) (up dev : Nat) : Except State (Nat × List Nat × State) :=
  s.drawn.accessWith (fun t e => if e.access = 1 then t.storeMemory e up dev else t.serveMemory e up dev) q s.ownLatency

/-- R348: master 61 reads the packets `gs`, with an error of class `up` at the first word: the words, none when a response is an
error. -/
def State.ownReads (s : State) (up dev : Nat) : List (Nat × Nat) → Except State (Option (List Nat) × State)
  | [] => .ok (some [], s)
  | (a, n) :: rest =>
    match s.ownAccess (wordsReq 61 0 a n false []) up dev with
    | .error t => .error t
    | .ok (st, ws, t) =>
      if st ≠ 0 ∧ st ≠ 8 then .ok (none, t)
      else match t.ownReads 0 dev rest with
        | .error u => .error u
        | .ok (more, u) => .ok (more.map (ws ++ ·), u)

/-- Master 61 reads `n` words of word-view memory from `a` up. -/
def State.ownWords (s : State) (a n up dev : Nat) : Except State (Option (List Nat) × State) :=
  s.ownReads up dev (groupsOf 16 (n + 1) a n)

/-- Master 61 reads `n` bytes of a byte-addressed memory from `a` up, a multiple of 8. -/
def State.ownBytes (s : State) (a n : Nat) : Except State (Option (List Nat) × State) :=
  match s.ownReads 0 0 (groupsOf 8 (n + 8) a ((n + 7) / 8)) with
  | .error t => .error t
  | .ok (ws, t) => .ok (ws.map fun l => (l.flatMap (toBytes 8)).take n, t)

/-- R273, R348: master 61 writes the bytes `bs` from `a` up, a multiple of 8: words of 8 bytes in packets, then the naturally
aligned accesses of 4, 2 and 1 bytes that the rest takes; whether every response is good. What was written before an error
stands. -/
def State.ownPut (s : State) (a : Nat) : Nat → List Nat → Except State (Bool × State)
  | 0, _ => .ok (true, s)
  | _, [] => .ok (true, s)
  | f + 1, b :: bs =>
    let l := b :: bs
    let n := min (l.length / 8) (8 - a / 8 % 8)
    let k := if n ≠ 0 then 8 * n else if 4 ≤ l.length then 4 else if 2 ≤ l.length then 2 else 1
    let q := if n = 0 then partReq 61 (a / 8 * 8) ((2 ^ k - 1) * 2 ^ (a % 8)) true (ofBytes (l.take k) * 2 ^ (8 * (a % 8)))
      else wordsReq 61 0 a n true ((List.range n).map fun i => ofBytes ((l.drop (8 * i)).take 8))
    match s.ownAccess q 0 0 with
    | .error t => .error t
    | .ok (st, _, t) => if st ≠ 0 then .ok (false, t) else t.ownPut (a + k) f (l.drop k)

end Sys2Proof.Machine
end

