-- ==== Sys2Proof/Machine/PlaneWriter.lean ====
section
/-! DEFINITION. The Plane Writer (R254 to R259), which reads its image as master 61. -/

namespace Sys2Proof.Machine

/-- R258 step 1: H0 of an image gives `n` frames of an image of `len` words. -/
def headerOk (h0 n len : Nat) : Bool :=
  bits h0 0 32 == 0x48584649 && bits h0 32 16 == 1 && decide (1 ≤ n ∧ n ≤ 2048) && len == 16 + 17 * n

/-- R258 steps 1 and 2: the header of the image is read and checked, with an error of class `up` in device `dev` arising at the
read. The writer tries again later where the read has to wait (R332, log 124). -/
def State.pwHeader (s : State) (b up dev : Nat) : State :=
  match (s.block b).pw with
  | none => s
  | some r =>
    match s.ownWords r.src 8 up dev with
    | .error t => t
    | .ok (none, t) => t.pwEnd b 6 0
    | .ok (some h, t) =>
      let n := bits (h.getD 0 0) 48 12
      if !headerOk (h.getD 0 0) n (s.rd (FAB.PW_LEN_WORDS b)) then t.pwEnd b 2 0
      else
        let p := s.inactivePlane b
        (t.wrs [(FAB.PLANE_STATE b p, planeWriting), (FAB.PLANE_BOOT b p, 0)]).modBlock b fun x =>
          { x with pw := some { r with nframes := n, header := h } }

/-- R258: a WRITE of block `b` that is accepted, before the header of its image is read. -/
def State.pwBegin (s : State) (b key : Nat) : State :=
  (s.wrs [(FAB.PW_STATUS_BUSY b, 1), (FAB.PW_STATUS_RESULT b, 0), (FAB.PW_STATUS_FA b, 0), (FAB.PW_STATUS_FRAMES b, 0)]).modBlock b
    fun x => { x with
      committing := false
      pw := some { src := 16 * s.rd (FAB.PW_SRC_ADDR b), nframes := 0, done := 0, lastFa := none, header := [], stored := [],
                   frames := [], key := key } }

/-- R257, R258: WRITE of block `b` by master `m` with the content key `key`. -/
def State.fabWrite (s0 : State) (b m key up dev : Nat) : State :=
  let s := s0.modBlock b fun x => { x with committing := false }
  if !s.blockOn b then s0
  else if m ≠ 61 then s.fabIgnored b ignDenied
  else if s.flag (FAB.PW_STATUS_BUSY b) then s.fabIgnored b ignPwBusy
  else if s.flag (FAB.STATUS_ARMED b) then s.fabIgnored b ignArmed
  else (s0.pwBegin b key).pwHeader b up dev

/-- FAB_WRITE (R258): `err` is the class of an error that arises at the header, and the device in error. -/
def execFabWrite (b m key : Nat) (err : Nat × Nat) (s : State) : Host.Outcome State Fault Refusal :=
  .next (s.atReg m (FAB.CMD_OP b).addr fun s => s.fabWrite b m key err.1 err.2)

/-- H0.ENC of an image. -/
def PwRun.enc (r : PwRun) : Bool := bitOf (r.header.getD 0 0) 60
/-- R254: the 96-bit IV of an image. -/
def PwRun.iv (r : PwRun) : Nat := bits (r.header.getD 5 0) 0 64 + 2 ^ 64 * bits (r.header.getD 6 0) 0 32
/-- R256: the plaintext and the tag of the frame records stored so far. -/
def PwRun.opened (r : PwRun) (stored : List Nat) : List Nat × Nat := Config.gcmOpen r.key r.iv (wordBytes r.header) stored

/-- R255, R258 step 3: a frame record whose stored bytes are `raw` is checked, programmed and verified; `fail` says that the
frame twice failed its verification. -/
def State.pwRecord (s : State) (b : Nat) (r : PwRun) (raw : List Nat) (fail : Bool) : State :=
  let stored := r.stored ++ raw
  let plain := if r.enc then ((r.opened stored).1.drop (153 * r.done)).take 153 else raw
  let ws := bytesWords 17 plain
  let h := ws.getD 0 0
  let fa := bits h 0 11
  if crc32c (toBytes 2 (bits h 0 16) ++ wordBytes (ws.drop 1)) ≠ bits h 32 32 then s.pwFail b 3 fa
  else if r.lastFa.any fun z => decide (fa ≤ z) then s.pwFail b 2 fa
  else if fail then s.pwFail b 7 fa
  else
    let payload := ofBytes (wordBytes (ws.drop 1)) + 2 ^ 1152 * bits h 11 1
    (s.wr (FAB.PW_STATUS_FRAMES b) (r.done + 1)).modBlock b fun x =>
      { x with pw := some { r with done := r.done + 1, lastFa := some fa, stored := stored,
                                   frames := Tab.set 0 r.frames fa payload } }

/-- R258, R259: the next frame record is read, with an error of class `up` in device `dev` arising at the read. Of a record that
could not be read, no frame address is known: PW_STATUS.FA is free (log 1). -/
def State.pwFrame (s : State) (b up dev : Nat) (fail : Bool) : State :=
  match (s.block b).pw with
  | none => s
  | some r =>
    if r.header.isEmpty then s.pwHeader b up dev
    else if r.nframes ≤ r.done then s
    else match s.ownWords (r.src + 16 * (8 + 17 * r.done)) 17 up dev with
      | .error t => t
      | .ok (none, t) => t.drawn.pwFail b 6 (t.freeVal 11)
      | .ok (some ws, t) => t.pwRecord b r (wordBytes ws) fail

/-- PW_FRAME (R258): `err` as for FAB_WRITE; `fail` says that the frame has twice failed its verification. -/
def execPwFrame (b : Nat) (err : Nat × Nat) (fail : Bool) (s : State) : Host.Outcome State Fault Refusal :=
  .next (s.pwFrame b err.1 err.2 fail)

/-- The expected digest in PW_DIG0 to PW_DIG5. -/
def State.pwDigest (s : State) (b : Nat) : Nat := ((List.range 6).map fun n => s.rd (FAB.PW_DIG_DIG b n) * 2 ^ (64 * n)).sum

/-- R258, R259: frame `fa` of the image has no record, so that step 4 programs it blank. -/
def PwRun.isBlank (r : PwRun) (fa : Nat) : Bool := decide (fa < 2048) && !(r.frames.any fun e => e.1 == fa)

/-- R258 steps 5 and 6: the trailer `t` is checked and the header is written. -/
def State.pwTrailer (s : State) (b : Nat) (r : PwRun) (t : List Nat) : State :=
  let digest := Config.sha384 (wordBytes r.header ++ r.stored)
  let shown := ((List.range 6).map fun n => bits (t.getD n 0) 0 64 * 2 ^ (64 * n)).sum
  let tag := bits (t.getD 6 0) 0 64 + 2 ^ 64 * bits (t.getD 7 0) 0 64
  if digest ≠ s.pwDigest b ∨ shown ≠ digest then s.pwFail b 4 0
  else if r.enc = true ∧ (r.opened r.stored).2 ≠ tag then s.pwFail b 5 0
  else
    let p := s.inactivePlane b
    let w n := r.header.getD n 0
    ((s.wrs [(FAB.PLANE_STATE b p, planeValid), (FAB.PLANE_BOOT b p, 0), (FAB.PLANE_GEN b p, 0),
      (FAB.PLANE_XO b p, bits (w 0) 61 1), (FAB.PLANE_MSLOT b p, s.rd (FAB.PW_CTRL_MSLOT b)),
      (FAB.PLANE_TILE_USED b p, bits (w 4) 0 8), (FAB.PIMG_IMAGE_ID b p, bits (w 1) 0 64)]).setPlane b p
        { fmax := bits (w 2) 0 32, bootPll := bits (w 3) 0 50, bpv := bitOf (w 3) 63, frames := r.frames,
          torn := false, worn := false }).pwEnd b 1 0

/-- R258 steps 4 to 6. `blank` is a frame without a record that has twice failed its verification; one that has a record, or is
none, says that no such frame failed. -/
def State.pwComplete (s : State) (b up dev blank : Nat) : State :=
  match (s.block b).pw with
  | none => s
  | some r =>
    if r.header.isEmpty || decide (r.done < r.nframes) then s
    else if r.isBlank blank then s.pwFail b 7 blank
    else match s.ownWords (r.src + 16 * (8 + 17 * r.nframes)) 8 up dev with
      | .error t => t
      | .ok (none, t) => t.pwFail b 6 0
      | .ok (some ws, t) => t.pwTrailer b r ws

/-- PW_COMPLETE (R258): `err` is as for FAB_WRITE, and a frame without a record that fails (`State.pwComplete`). -/
def execPwComplete (b : Nat) (err : Nat × Nat × Nat) (s : State) : Host.Outcome State Fault Refusal :=
  .next (s.pwComplete b err.1 err.2.1 err.2.2)

end Sys2Proof.Machine
end

