-- ==== Sys2Proof/Machine/Objor.lean ====
section
/-! DEFINITION. Objor (spec/14): mailboxes, identity, manifests, bonded sessions, seals, owners, zeroisation and
self-tests. What the standards compute stands in `Config`. -/

namespace Sys2Proof.Machine

/-! ### Mailboxes (R347 to R352) -/

/-- The status of a command body that has accepted its command and goes on in a later step. -/
abbrev runsOn : Nat := 256
/-- The status of a command body that waits: for the network (R393, R315), or for the Store (R325, R332). -/
abbrev waitsOn : Nat := 257

/-- What a command ends with: a status code (R11) or `runsOn`, a reason (R352), the state. -/
structure MbRes where
  st : Nat
  detail : Nat
  s : State

/-- ARGn of mailbox `m`. -/
def State.arg (s : State) (m n : Nat) : Nat := s.rd (OBJ.MB_ARG_ARG m n)

/-- RESn of mailbox `m`. -/
def State.setRes (s : State) (m n v : Nat) : State := s.wr (OBJ.MB_RES_RES m n) v

/-- DONE of mailbox `m`. -/
def doneField (m : Nat) : Fld := if m = 0 then OBJ.EVT_DONE0 else OBJ.EVT_DONE1

/-- A command completes with a status and a reason. -/
def State.mbDone (s : State) (m op st detail : Nat) : State :=
  s.wrs [(OBJ.MB_STATUS_STATUS m, st), (OBJ.MB_STATUS_OP m, op), (OBJ.MB_STATUS_DETAIL m, detail), (OBJ.MB_STATUS_PEND m, 0),
    (doneField m, 1), (OBJ.STATUS_BUSY, b2n (s.objor.install.isSome || s.objor.sealRun.isSome || !s.objor.queue.isEmpty))]

/-- R13, R347: a refused command. -/
def State.mbRefuse (s : State) (m op st detail : Nat) : State :=
  let t := (s.reject OBJ.REJECT_COUNT OBJ.LAST_REJECT_CODE OBJ.LAST_REJECT_STATUS op st).wr OBJ.LAST_REJECT_MB m
  if s.flag (OBJ.MB_STATUS_PEND m) then t else t.mbDone m op st detail

/-- R13: the statuses of a refusal. -/
def isRefusal (st : Nat) : Bool := st == 1 || st == 2 || st == 3 || st == 4 || st == 7

/-- The end of a command body. A refusal (R13) has no effect but those of the reads it took; a command that waits stays the
first of those that do, and starts again when it is taken up (log 122). -/
def MbRes.close (r : MbRes) (m op : Nat) : State :=
  if r.st = runsOn then r.s
  else if r.st = waitsOn then
    { r.s.wrs [(OBJ.MB_STATUS_PEND m, 1), (OBJ.MB_STATUS_OP m, op), (OBJ.STATUS_BUSY, 1)] with
      objor := { r.s.objor with queue := (m, op) :: r.s.objor.queue } }
  else if isRefusal r.st then (r.s.wr (OBJ.MB_STATUS_PEND m) 0).mbRefuse m op r.st r.detail
  else r.s.mbDone m op r.st r.detail

/-- R347: an INSTALL or a seal of another mailbox runs, and the command does not preempt it. -/
def State.preemptWait (s : State) (preempts : Bool) : Bool := s.objor.sealRun.isSome || (s.objor.install.isSome && !preempts)

/-- R347: the command waits for one that runs, or behind those that wait. -/
def State.mustWait (s : State) (preempts : Bool) : Bool :=
  s.preemptWait preempts || (s.objor.install.isNone && !s.objor.queue.isEmpty)

/-- R345, R349: the status of a command that cannot be served now; 0 when it can. -/
def State.mbShut (s : State) (op : Nat) (states : List Nat) : Nat :=
  if !s.flag OBJ.STATUS_READY && !s.flag OBJ.STATUS_ERROR then 1
  else if s.flag OBJ.STATUS_ERROR && op != 9 && op != 0xA then 3
  else if !states.contains (s.rd LC.STATE_STATE) || (s.rd LC.STATE_STATE == 7 && op != 6) then 3
  else 0

/-- The command of mailbox `m` is the first of those that wait. -/
def State.isNext (s : State) (m op : Nat) : Bool := s.flag (OBJ.MB_STATUS_PEND m) && s.objor.queue.head? == some (m, op)

/-- R345, R347, R349: command `op` of mailbox `m` in one of the life-cycle states `states`. The first command that waits is
taken up where it may run; any other while PEND is 1 is refused with BUSY. -/
def State.mailbox (s : State) (m op : Nat) (states : List Nat) (preempts : Bool) (body : State → Nat → MbRes) : State :=
  if s.isNext m op && !s.preemptWait preempts then
    let t := ({ s with objor := { s.objor with queue := s.objor.queue.tail } }).wr (OBJ.MB_STATUS_PEND m) 0
    let st := t.mbShut op states
    if st ≠ 0 then t.mbRefuse m op st 0 else (body t m).close m op
  else if s.flag (OBJ.MB_STATUS_PEND m) then s.mbRefuse m op 1 0
  else
    let st := s.mbShut op states
    if st ≠ 0 then s.mbRefuse m op st 0
    else if s.mustWait preempts then
      { s.wrs [(OBJ.MB_STATUS_PEND m, 1), (OBJ.MB_STATUS_OP m, op)] with
        objor := { s.objor with queue := s.objor.queue ++ [(m, op)] } }
    else (body s m).close m op

/-- R347, R14: command `op` written to mailbox `m`, 0 the stewards', 1 the host's. -/
def State.mbRow (s : State) (m op : Nat) (states : List Nat) (preempts : Bool) (body : State → Nat → MbRes) : State :=
  s.atReg (4 * m) (OBJ.MB_CMD_OP m).addr fun s => s.mailbox m op states preempts body

/-- The states of a command that every state serves. -/
def anyState : List Nat := [0, 1, 2, 3, 7]

/-- R348: a byte buffer is 8-byte aligned and lies wholly in steward memory. -/
def bufOk (a n : Nat) : Bool := a % 8 == 0 && decide (stewardBase ≤ a) && decide (a + n ≤ stewardBase + 0x400000)

/-- R348: the command goes on with the `n` bytes of its buffer at `a`, as master 61 reads them. -/
def State.withBytes (s : State) (a n : Nat) (k : State → List Nat → MbRes) : MbRes :=
  if !bufOk a n then ⟨2, 0, s⟩
  else match s.ownBytes a n with
    | .error t => ⟨waitsOn, 0, t⟩
    | .ok (none, t) => ⟨6, 0, t⟩
    | .ok (some b, t) => k t b

/-- R325: the command goes on when the Store takes a command of the private port. -/
def State.withStore (s : State) (k : State → MbRes) : MbRes := if s.storeBusy then ⟨waitsOn, 0, s⟩ else k s

/-- The unit ID (R376). -/
def State.unitId (s : State) : Nat := s.rd LC.UNIT_ID0_ID + 2 ^ 64 * s.rd LC.UNIT_ID1_ID

/-- R350: the nonce of a mailbox. -/
def State.nonce (s : State) (m : Nat) : Option Nat := if m = 0 then s.objor.nonce0 else s.objor.nonce1
/-- Replace a nonce. -/
def State.setNonce (s : State) (m : Nat) (n : Option Nat) : State :=
  { s with objor := if m = 0 then { s.objor with nonce0 := n } else { s.objor with nonce1 := n } }

/-- The next output of the random bit generator. -/
def State.random (s : State) : Nat := Config.drbg s.objor.seeds s.objor.draws
/-- The generator has given an output. -/
def State.randomDrawn (s : State) : State := { s with objor := { s.objor with draws := s.objor.draws + 1 } }

/-- R349, R350: RES0 and RES1 take the unit ID and RES2 to RES5 a fresh nonce of the mailbox. -/
def State.giveNonce (s : State) (m : Nat) : State :=
  let n := s.random % 2 ^ 256
  let t := ((s.setNonce m (some n)).randomDrawn.setRes m 0 (s.rd LC.UNIT_ID0_ID)).setRes m 1 (s.rd LC.UNIT_ID1_ID)
  (List.range 4).foldl (fun u k => u.setRes m (2 + k) (bits n (64 * k) 64)) t

/-- A number from `n` bytes at an offset, lowest byte first. -/
def le (b : List Nat) (off n : Nat) : Nat := ofBytes ((b.drop off).take n)

/-! ### Identity (R342, R349) -/

/-- GET_IDENTITY READ. -/
def identityRead (s : State) (m : Nat) : MbRes :=
  let a := s.arg m 1
  let n := s.objor.cert.length
  if !bufOk a n then ⟨2, 0, s⟩
  else match s.ownPut a (n + 1) s.objor.cert with
    | .error t => ⟨waitsOn, 0, t⟩
    | .ok (false, t) => ⟨6, 0, t⟩
    | .ok (true, t) => ⟨0, 0, (t.giveNonce m).setRes m 6 n⟩

/-- GET_IDENTITY_READ (R349). -/
def execGetIdentityRead (m : Nat) (s : State) : Host.Outcome State Fault Refusal := .next (s.mbRow m 1 anyState true identityRead)

/-! ### The counter log (R367, R368) -/

/-- R368: an entry of the counter log: SLOT 0 is the seal counter, else a slot's use count under the manifest `mid`. -/
structure LogEnt where
  slot : Nat
  seq : Nat
  ceiling : Nat
  mid : Nat

/-- R368: the words of an entry. -/
def LogEnt.words (e : LogEnt) : List Nat :=
  [(if e.slot = 0 then 1 else 2) + 2 ^ 8 * (e.slot % 16) + 2 ^ 32 * (e.seq % 2 ^ 32), e.ceiling % 2 ^ 64,
    if e.slot = 0 then 0 else e.mid % 2 ^ 64, 0]

/-- R368: the entry that a code word holds. -/
def LogEnt.ofWords (ws : List Nat) : Option LogEnt :=
  let w := ws.getD 0 0
  if bits w 0 8 = 1 ∨ bits w 0 8 = 2 then some ⟨bits w 8 4, bits w 32 32, bits (ws.getD 1 0) 0 64, bits (ws.getD 2 0) 0 64⟩ else none

/-- The code words of a sector that are not erased. -/
def State.usedIn (s : State) (x : Nat) : List Nat := (s.store.cw.map (·.1)).filter fun k => decide (4096 * x ≤ k ∧ k < 4096 * x + 4096)

/-- R368: the decodable entries of a sector of the log, in order. -/
def State.logEntries (s : State) (x : Nat) : List LogEnt :=
  (s.usedIn x).filterMap fun k => if s.cwErrors k 0 ≤ 3 then LogEnt.ofWords (s.cwWords k) else none

/-- One above the highest sequence of a sector of the log; 0 when it has no entry. -/
def State.logTop (s : State) (x : Nat) : Nat := (s.logEntries x).foldl (fun m e => max m (e.seq + 1)) 0

/-- R368: the active sector: it holds the entry with the highest sequence. -/
def State.logActive (s : State) : Nat := if s.logTop 6 < s.logTop 7 then 7 else 6

/-- R368: the next erased code word of sector `x`, and the entry that it is to take. -/
def State.logPlace (s : State) (x : Nat) : Nat := (s.usedIn x).foldl (fun m k => max m (k + 1)) (4096 * x)
def State.logEnt (s : State) (slot ceiling mid : Nat) : LogEnt := ⟨slot, max (s.logTop 6) (s.logTop 7), ceiling, mid⟩

/-- R368: an entry is programmed into the next erased code word of sector `x`. -/
def State.logInto (s : State) (x slot ceiling mid : Nat) : State := s.programNow (s.logPlace x) (s.logEnt slot ceiling mid).words

/-- R368: an entry is added to the log. -/
def State.logCeiling (s : State) (slot ceiling mid : Nat) : State := s.logInto s.logActive slot ceiling mid

/-- R327, R368: the program of an entry does not verify. -/
def State.logFails (s : State) (slot ceiling mid : Nat) : State :=
  s.programFails (s.logPlace s.logActive) (s.logEnt slot ceiling mid).words

/-- R368: the highest logged ceiling of a count. -/
def State.ceiling (s : State) (slot mid : Nat) : Nat :=
  (((s.logEntries s.logActive).filter fun e => e.slot == slot && (slot == 0 || e.mid == mid)).map (·.ceiling)).foldl max 0

/-- R368: the counts that are live: the seal counter, and the use counts of the slots' present manifests. -/
def State.liveCounts (s : State) : List (Nat × Nat) :=
  (((s.logEntries s.logActive).map fun e => (e.slot, e.mid)).eraseDups).filter fun e =>
    e.1 == 0 || (s.rd (OBJ.SLOT_A_STATE e.1) == 2 && s.rd (OBJ.SLOT_B_MANIFEST_ID e.1) == e.2)

/-- R368: the other sector takes one entry for each count of `live`, and the active one is erased. -/
def State.logTurn (s : State) (live : List (Nat × Nat × Nat)) : State :=
  let x := s.logActive
  let t := if (s.usedIn (13 - x)).isEmpty then s else s.eraseNow (13 - x)
  (live.foldl (fun u e => u.logInto (13 - x) e.1 e.2.1 e.2.2) t).eraseNow x

/-- R368: a log whose active sector has fewer than 64 erased code words rolls over. -/
def State.logRoll (s : State) : State :=
  if 4096 - (s.usedIn s.logActive).length < 64 then s.logTurn (s.liveCounts.map fun e => (e.1, s.ceiling e.1 e.2, e.2)) else s

/-- R368: no decodable entry gives the seal counter while the identity key exists. -/
def State.logLost (s : State) : Bool :=
  s.objor.ident.isSome && !((s.logEntries 6 ++ s.logEntries 7).any fun e => e.slot == 0)

/-- R363: bonded sessions close; their bits are overwritten with zero. -/
def State.closeBonds (s : State) (p : BondSession → Bool) : State :=
  (s.bonds.filter p).foldl (fun t b => t.wrs [(OBJ.BOND_OPEN b.k, 0), (OBJ.BOND_LEAD b.k, 0), (OBJ.BOND_SLOT b.k, 0),
    (OBJ.BOND_SECTION b.k, 0), (OBJ.BOND_BITS b.k, 0)]) { s with bonds := s.bonds.filter fun b => !p b }

/-- R345: Objor enters its error state. -/
def State.objorError (s : State) : State :=
  let t := { s with objor := { s.objor with error := true } }
  (t.closeBonds fun _ => true).wrs [(OBJ.STATUS_ERROR, 1), (OBJ.STATUS_READY, 0), (OBJ.STATUS_APPROVED, 0), (OBJ.EVT_ERROR, 1)]

/-- R342, R344: the pairwise-consistency test of a key: what it signs verifies. The message that it signs is not given (log 142). -/
def pairwise (k : Nat) : Bool := Config.ecdsaVerify (Config.publicKey k) [] (Config.ecdsaSign k [])

/-- A Store step of Objor ends, with OK or not (R326). -/
def State.storeStep (s : State) : State := s.wr STO.EVT_DONE 1

/-- GET_IDENTITY GENERATE (R342, R344, R345); `bad` says that a Store step fails, the program of the counter log's first entry
(log 142). -/
def generate (bad : Bool) (s : State) (_m : Nat) : MbRes :=
  if s.objor.ident.isSome then ⟨3, 0, s⟩
  else s.withStore fun s =>
    let k := s.random % 2 ^ 384
    let t := s.randomDrawn
    if !pairwise k then ⟨6, 0, t.objorError⟩
    else if bad then ⟨6, 0xB, t.logFails 0 64 0⟩
    else ⟨0, 0, (({ t with objor := { t.objor with ident := some k } }).logCeiling 0 64 0).wr OBJ.STATUS_IDENT 1⟩

/-- GENERATE (R342). -/
def execGenerate (m : Nat) (bad : Bool) (s : State) : Host.Outcome State Fault Refusal :=
  .next (s.mbRow m 1 [1] false (generate bad))

/-- R342: the length of a DER structure from its header; none when it is not one. -/
def derLength (b : List Nat) : Option Nat :=
  if b.getD 0 0 ≠ 0x30 then none
  else if b.getD 1 0 < 0x80 then some (2 + b.getD 1 0)
  else if b.getD 1 0 = 0x81 then some (3 + b.getD 2 0)
  else if b.getD 1 0 = 0x82 then some (4 + 256 * b.getD 2 0 + b.getD 3 0)
  else none

/-- GET_IDENTITY SET_CERT (R342, R14): a certificate that does not verify is DENIED whatever its form; what is no DER structure
has no length, and its first bytes are judged. -/
def setCert (bad : Bool) (s : State) (m : Nat) : MbRes :=
  let a := s.arg m 1
  s.withBytes a 4 fun s b =>
    let len := derLength b
    s.withBytes a (len.getD 4) fun s c =>
      if !(s.objor.ident.any fun k => Config.certValid c (Config.publicKey k)) then ⟨4, 4, s⟩
      else if len.isNone ∨ 1024 < c.length then ⟨2, 1, s⟩
      else s.withStore fun s =>
        if bad then ⟨6, 0xB, s.storeStep⟩ else ⟨0, 0, { s with objor := { s.objor with cert := c } }.storeStep⟩

/-- SET_CERT (R342). -/
def execSetCert (m : Nat) (bad : Bool) (s : State) : Host.Outcome State Fault Refusal := .next (s.mbRow m 1 [1] false (setCert bad))

/-! ### Self-tests (R344 to R346) -/

/-- R346: OBJ.STATUS.APPROVED as the state gives it; an accepted token that grants internal scan keeps it 0 until reset. -/
def State.approvedNow (s : State) : State :=
  s.wrB OBJ.STATUS_APPROVED (s.rd LC.STATE_STATE == 2 && s.flag OBJ.STATUS_READY && !s.objor.scanToken)


/-- R344: the results of the pre-operational tests. -/
def State.katResult (s : State) (pass : Nat) : State :=
  let t := s.wrs [(OBJ.KAT_PASS, pass), (OBJ.KAT_DONE, 1)]
  if pass % 1024 = 1023 then t else t.objorError

/-- SELF_TEST_FAILURE (R345). -/
def execSelfTestFailure (s : State) : Host.Outcome State Fault Refusal := .next s.objorError

/-- KAT_STATUS (R344, R349). -/
def katStatus (s : State) (m : Nat) : MbRes :=
  ⟨0, 0, s.setRes m 0 (s.rd OBJ.KAT_PASS + 2 ^ 16 * s.rd OBJ.KAT_DONE)⟩

/-- KAT_STATUS (R344). -/
def execKatStatus (m : Nat) (s : State) : Host.Outcome State Fault Refusal := .next (s.mbRow m 9 anyState true katStatus)

/-- KAT_STATUS with RERUN (R344): `pass` are the results of the repeated tests. -/
def katRerun (pass : Nat) (s : State) (m : Nat) : MbRes :=
  if !s.bonds.isEmpty then ⟨3, 0, s⟩
  else ⟨0, 0, (katStatus (s.katResult pass) m).s⟩

/-- KAT_RERUN (R344). -/
def execKatRerun (m pass : Nat) (s : State) : Host.Outcome State Fault Refusal :=
  .next (s.mbRow m 9 anyState false (katRerun pass))

/-! ### Owners and fleet keys (R341, R369) -/

/-- R353: the OWNER_KEY_ID of a public key. -/
def keyId (key : Nat) : Nat := Config.sha384 (toBytes 97 key) % 2 ^ 128

/-- The owner with a key ID and a permission bit. -/
def State.ownerWith (s : State) (id perm : Nat) : Option OwnerX :=
  s.objor.owners.find? fun o => keyId o.key == id && bitOf (s.rd (OBJ.OWNER_A_PERM o.index)) perm

/-- R341: a signature by the vendor (key ID 0) or by an owner with a permission. -/
def State.signedBy (s : State) (id perm : Nat) (msg : List Nat) (sig : Nat) : Bool :=
  if id = 0 then Config.ecdsaVerify Config.romKey msg sig
  else (s.ownerWith id perm).any fun o => Config.ecdsaVerify o.key msg sig

/-- R369: ADD_OWNER puts the key of the request `b` into the table. -/
def State.addOwner (s : State) (b : List Nat) (flags : Nat) : State :=
  let i := le b 5 1
  let key := le b 80 97
  let t := s.wrs [(OBJ.OWNER_A_VALID i, 1), (OBJ.OWNER_A_PERM i, le b 6 1), (OBJ.OWNER_A_MLDSA i, flags % 2),
    (OBJ.OWNER_B_KEY_ID i, keyId key)]
  { t with objor := { t.objor with owners := t.objor.owners ++ [⟨i, key, if flags % 2 = 1 then (b.drop 224).take 1952 else []⟩] } }

/-- R369: REMOVE_OWNER. -/
def State.removeOwner (s : State) (i : Nat) : State :=
  let t := s.wrs [(OBJ.OWNER_A_VALID i, 0), (OBJ.OWNER_A_PERM i, 0), (OBJ.OWNER_A_MLDSA i, 0), (OBJ.OWNER_B_KEY_ID i, 0)]
  { t with objor := { t.objor with owners := t.objor.owners.filter fun o => o.index ≠ i } }

/-- R369, R354: the fleet key that a request carries. -/
def State.fleetKey (s : State) (b : List Nat) : Option Nat :=
  match s.objor.ident with
  | none => none
  | some k =>
    Config.kwUnwrap (Config.kdf (Config.ecdh k (le b 80 97)) [0x48, 0x58, 0x52, 0x4F, 0x2D, 0x4B, 0x45, 0x4B]
      (toBytes 16 s.unitId)) ((b.drop 184).take 40)

/-- R369: REMOVE_FLEET. -/
def State.removeFleet (s : State) (j : Nat) : State :=
  let t := s.wrs [(OBJ.FLEET_VALID j, 0), (OBJ.FLEET_OWNER j, 0), (OBJ.FLEET_GROUP j, 0)]
  { t with objor := { t.objor with fleets := t.objor.fleets.filter fun f => f.1 ≠ j } }

/-- R369: why a request `b` of REGISTER_OWNER, of which the first `n` bytes are signed, is DENIED (R352); 0 when it is not. A
request of another OP than the four names no signer; the one that it names must have signed it. -/
def State.ownerDenied (s : State) (m op : Nat) (b : List Nat) (n : Nat) : Nat :=
  let sid := le b 56 16
  let vendor := op = 1 ∨ op = 2 ∨ (¬(op = 3 ∨ op = 4) ∧ sid = 0)
  if (if vendor then sid ≠ 0 else (s.ownerWith sid 3).isNone) then 3
  else if !s.signedBy sid 3 (b.take n) (le b n 96) then 4
  else if le b 8 16 ≠ s.unitId ∨ s.nonce m ≠ some (le b 24 32) then 0xE
  else if op = 3 ∧ (s.fleetKey b).isNone = true then 6
  else 0

/-- R369: a request keeps its format. -/
def ownerFormat (op : Nat) (b : List Nat) : Bool :=
  le b 0 4 == 0x4F525848 && le b 4 1 == op && decide (1 ≤ op ∧ op ≤ 4) && decide (le b 5 1 < (if op ≤ 2 then 16 else 8)) &&
    decide (le b 6 1 < 16 ∧ le b 7 1 < 2 ∧ (op = 1 ∨ le b 7 1 = 0))

/-- R369: the effect of an accepted request `b`. -/
def State.ownerTake (s : State) (op : Nat) (b : List Nat) : State :=
  let i := le b 5 1
  if op = 1 then s.addOwner b (le b 7 1)
  else if op = 2 then s.removeOwner i
  else if op = 3 then
    let u := s.wrs [(OBJ.FLEET_VALID i, 1), (OBJ.FLEET_OWNER i, ((s.ownerWith (le b 56 16) 3).map (·.index)).getD 0),
      (OBJ.FLEET_GROUP i, le b 72 4)]
    { u with objor := { u.objor with fleets := u.objor.fleets ++ [(i, (s.fleetKey b).getD 0)] } }
  else s.removeFleet i

/-- R369: a request of REGISTER_OWNER whose OP is `op`, that of the request itself where none is named; `bad` says that a Store
step fails. -/
def registerOwner (named : Option Nat) (bad : Bool) (s : State) (m : Nat) : MbRes :=
  let a := s.arg m 1
  s.withBytes a 8 fun s h =>
    let n := if le h 7 1 % 2 = 1 then 224 + 1952 else 224
    s.withBytes a (n + 96) fun s b =>
      let op := named.getD (le b 4 1)
      let i := le b 5 1
      let den := s.ownerDenied m op b n
      if (op = 1 ∧ i < 16 ∧ s.flag (OBJ.OWNER_A_VALID i) = true) ∨ (op = 3 ∧ i < 8 ∧ s.flag (OBJ.FLEET_VALID i) = true) then
        ⟨3, 0, s⟩
      else if den ≠ 0 then ⟨4, den, s⟩
      else if !ownerFormat op b then ⟨2, 1, s⟩
      else s.withStore fun s =>
        let t := (s.setNonce m none).storeStep
        if bad then ⟨6, 0xB, t⟩ else ⟨0, 0, t.ownerTake op b⟩

/-- ADD_OWNER (R369). -/
def execAddOwner (m : Nat) (bad : Bool) (s : State) : Host.Outcome State Fault Refusal :=
  .next (s.mbRow m 8 [1, 2] false (registerOwner (some 1) bad))
/-- REMOVE_OWNER (R369). -/
def execRemoveOwner (m : Nat) (bad : Bool) (s : State) : Host.Outcome State Fault Refusal :=
  .next (s.mbRow m 8 [1, 2] false (registerOwner (some 2) bad))
/-- ADD_FLEET (R369). -/
def execAddFleet (m : Nat) (bad : Bool) (s : State) : Host.Outcome State Fault Refusal :=
  .next (s.mbRow m 8 [1, 2] false (registerOwner (some 3) bad))
/-- REMOVE_FLEET (R369). -/
def execRemoveFleet (m : Nat) (bad : Bool) (s : State) : Host.Outcome State Fault Refusal :=
  .next (s.mbRow m 8 [1, 2] false (registerOwner (some 4) bad))

/-! ### Manifests (R353 to R356) -/

/-- The command goes on with the `n` bytes of a manifest, 9 of each word from address `a` up, as master 61 reads them. -/
def State.withManifest (s : State) (a n : Nat) (k : State → List Nat → MbRes) : MbRes :=
  match s.ownWords a ((n + 8) / 9) 0 0 with
  | .error t => ⟨waitsOn, 0, t⟩
  | .ok (none, t) => ⟨6, 0, t⟩
  | .ok (some ws, t) => k t ((wordBytes ws).take n)

/-- Fields of a manifest `b` (R353). -/
def mfFlags (b : List Nat) : Nat := le b 6 2
def mfEnc (b : List Nat) : Bool := bitOf (mfFlags b) 0
def mfMldsa (b : List Nat) : Bool := bitOf (mfFlags b) 1
def mfId (b : List Nat) : Nat := le b 8 8
def mfOwner (b : List Nat) : Nat := le b 16 16
def mfLen (b : List Nat) : Nat := le b 32 4
def mfNs (b : List Nat) : Nat := le b 36 2
def mfBind (b : List Nat) : Nat := le b 38 1
def mfNu (b : List Nat) : Nat := le b 39 1
def mfPolicy (b : List Nat) : Nat := le b 96 4
/-- R353: the length of the signed part. -/
def mfS (b : List Nat) : Nat := 264 + 16 * mfNu b + 104 * mfNs b

/-- R355: section `i`. -/
def mfSect (b : List Nat) (i : Nat) : Sect :=
  let o := 264 + 16 * mfNu b + 104 * i
  { type := le b o 1, flags := le b (o + 1) 1, off := le b (o + 4) 4, len := le b (o + 8) 4, target := le b (o + 16) 8,
    iv := le b (o + 24) 12, tag := le b (o + 36) 16, digest := le b (o + 52) 48 }

/-- The sections of a manifest. -/
def mfSects (b : List Nat) : List Sect := (List.range (mfNs b)).map (mfSect b)

/-- Flags of a section. -/
def Sect.enc (x : Sect) : Bool := bitOf x.flags 0
def Sect.xo (x : Sect) : Bool := bitOf x.flags 1
def Sect.derive (x : Sect) : Bool := bitOf x.flags 2
/-- Words of a section. -/
def Sect.words (x : Sect) : Nat := x.len / 9
/-- First and last cell of a section that names cells. -/
def Sect.first (x : Sect) : Nat := bits x.target 0 8
def Sect.last (x : Sect) : Nat := bits x.target 8 8
/-- The cells of a section. -/
def Sect.cells (x : Sect) : List Nat := (List.range (x.last + 1 - x.first)).map (x.first + ·)

/-- R356: the flags that a type allows. -/
def allowedFlags (type : Nat) : Nat :=
  if type = 1 ∨ type = 4 then 3 else if type = 5 then 0 else if type = 0xA then 5 else 1

/-- R356: target and content of a section fit its type. -/
def Sect.shapeOk (x : Sect) : Bool :=
  match x.type with
  | 1 => decide (x.first ≤ x.last ∧ bits x.target 16 13 + x.words ≤ 8192 ∧ 0 < x.words)
  | 2 => true
  | 3 => true
  | 4 => decide (bits x.target 0 21 % 4096 = 0 ∧ 40960 ≤ bits x.target 0 21 ∧ x.words % 4 = 0 ∧ 0 < x.words ∧
      bits x.target 0 21 + x.words / 4 ≤ 2097152)
  | 5 => true
  | 6 => decide (x.first ≤ x.last ∧ x.words % 2 = 0 ∧ bits x.target 16 6 + x.words / 2 ≤ 64)
  | 7 => decide (x.first ≤ x.last ∧ x.words = 2)
  | 8 => decide (x.words = 41 ∨ x.words = 41 + 4096)
  | 9 => decide (x.first ≤ x.last ∧ x.words = 64)
  | 0xA => x.enc && decide (1 ≤ bits x.target 0 17 ∧ bits x.target 0 17 ≤ 65536) &&
      decide (if x.derive then 32 ≤ x.len else bits x.target 0 17 ≤ 72 * x.words)
  | _ => false

/-- R355, R356: the entry of a section keeps the format; `lo` is the lowest OFFSET. -/
def Sect.formatOk (x : Sect) (mEnc : Bool) (lo total : Nat) : Bool :=
  decide (1 ≤ x.type ∧ x.type ≤ 0xA) && Nat.land x.flags (allowedFlags x.type) == x.flags && (!x.enc || mEnc) &&
    decide (x.off % 9 = 0 ∧ x.len % 9 = 0 ∧ lo ≤ x.off ∧ x.off + x.len ≤ total) && x.shapeOk

/-- R355: sections do not overlap. -/
def sectsApart : List Sect → Bool
  | [] => true
  | x :: t => (t.all fun y => decide (x.off + x.len ≤ y.off ∨ y.off + y.len ≤ x.off)) && sectsApart t

/-- Every byte of a range is zero. -/
def zeros (b : List Nat) (off n : Nat) : Bool := ((b.drop off).take n).all (· == 0)

/-- R353 to R356: the manifest keeps its format. -/
def formatOk (b : List Nat) : Bool :=
  let lo := mfS b + 96 + (if mfMldsa b then 3309 else 0)
  le b 0 4 == 0x464D5848 && le b 4 2 == 1 && decide (mfFlags b < 4) && mfLen b % 9 == 0 && decide (1 ≤ mfNs b ∧ mfNs b ≤ 1024) &&
    decide (if mfBind b = 0 then 1 ≤ mfNu b ∧ mfNu b ≤ 64 else mfBind b = 1 ∧ mfNu b = 0) && decide (mfPolicy b < 4) &&
    zeros b 100 4 && decide (lo ≤ mfLen b) &&
    (if mfEnc b then (le b 104 1 == 1 || le b 104 1 == 2) && zeros b 105 7 && zeros b 116 4 && zeros b 217 7 else zeros b 104 160) &&
    ((List.range (mfNs b)).all fun i => zeros b (264 + 16 * mfNu b + 104 * i + 2) 2 && zeros b (264 + 16 * mfNu b + 104 * i + 12) 4 &&
      zeros b (264 + 16 * mfNu b + 104 * i + 100) 4) &&
    ((mfSects b).all fun x => x.formatOk (mfEnc b) lo (mfLen b) &&
      (x.type != 5 || mfEnc b || !bitOf (le b x.off 9) 60)) && sectsApart (mfSects b)

/-- R353: the binding names this unit, or a fleet group whose key it holds. -/
def State.boundTo (s : State) (b : List Nat) : Bool :=
  if mfBind b = 0 then (List.range (mfNu b)).any fun i => le b (264 + 16 * i) 16 == s.unitId
  else (List.range 8).any fun j => s.flag (OBJ.FLEET_VALID j) && s.rd (OBJ.FLEET_GROUP j) == le b 40 4

/-- R354: the content key. -/
def State.contentKey (s : State) (b : List Nat) : Option Nat :=
  let w := (b.drop 224).take 40
  if le b 104 1 = 1 then
    match s.objor.ident with
    | none => none
    | some k =>
      Config.kwUnwrap (Config.kdf (Config.ecdh k (le b 120 97)) [0x48, 0x58, 0x4D, 0x46, 0x2D, 0x4B, 0x45, 0x4B]
        (toBytes 16 s.unitId ++ toBytes 8 (mfId b))) w
  else
    match (List.range 8).find? fun j => s.flag (OBJ.FLEET_VALID j) && s.rd (OBJ.FLEET_GROUP j) == le b 112 4 with
    | none => none
    | some j => match s.objor.fleets.find? fun f => f.1 == j with
      | none => none
      | some f => Config.kwUnwrap f.2 w

/-- The stored bytes of a section. -/
def Sect.stored (x : Sect) (b : List Nat) : List Nat := (b.drop x.off).take x.len

/-- R355: the digest of a section: of its bytes as stored, of an image as R256 gives (all but its trailer). -/
def Sect.digestOf (x : Sect) (b : List Nat) : Nat :=
  if x.type = 5 then Config.sha384 ((x.stored b).take (x.len - 72)) else Config.sha384 (x.stored b)

/-- R355: plaintext and tag of the encrypted section `i`, stored as `v`, of the manifest that begins with `b`. -/
def Sect.openBytes (x : Sect) (b : List Nat) (key i : Nat) (v : List Nat) : List Nat × Nat :=
  Config.gcmOpen key x.iv (toBytes 8 (mfId b) ++ toBytes 2 i) v
def Sect.opened (x : Sect) (b : List Nat) (key i : Nat) : List Nat × Nat := x.openBytes b key i (x.stored b)

/-- The content of a section as words. -/
def Sect.content (x : Sect) (b : List Nat) (key i : Nat) : List Nat :=
  bytesWords x.words (if x.enc then (x.opened b key i).1 else x.stored b)

/-- R356: the AREG words of an APG section at unassigned indices are zero. -/
def Sect.contentOk (x : Sect) (ws : List Nat) : Bool :=
  x.type != 8 || (List.range 33).all fun i => aregWidth i != 0 || ws.getD i 0 == 0

/-- R357: why a manifest is DENIED (R352), 0 when it is not. -/
def State.manifestDenied (s : State) (b : List Nat) : Nat :=
  let signed := b.take (mfS b)
  if !s.boundTo b then 2
  else match s.ownerWith (mfOwner b) 0 with
    | none => 3
    | some o =>
      if !Config.ecdsaVerify o.key signed (le b (mfS b) 96) then 4
      else if (mfMldsa b && (o.mldsa.isEmpty || !Config.mldsaVerify o.mldsa signed ((b.drop (mfS b + 96)).take 3309))) ||
          (bitOf (mfPolicy b) 1 && !mfMldsa b) then 5
      else if mfEnc b && (s.contentKey b).isNone then 6
      else if (mfSects b).any fun x => x.digestOf b != x.digest then 7
      else if (mfSects b).zipIdx.any fun e => e.1.enc && (e.1.opened b ((s.contentKey b).getD 0) e.2).2 != e.1.tag then 8
      else 0

/-- The sectors that a STORE section touches. -/
def Sect.sectors (x : Sect) : List Nat :=
  let k := bits x.target 0 21
  (List.range ((x.words / 4 + 4095) / 4096)).map (k / 4096 + ·)

/-- R358: the sector holds a code word that is not erased. -/
def State.sectorUsed (s : State) (x : Nat) : Bool :=
  s.store.cw.any fun e => decide (4096 * x ≤ e.1) && decide (e.1 < 4096 * x + 4096)

/-- R358: a target of slot `n` is not permitted now. -/
def State.targetBad (s : State) (n : Nat) (x : Sect) : Bool :=
  match x.type with
  | 1 =>
    let w := bits x.target 16 13
    x.cells.any fun c =>
      ((List.range 4).any fun k => s.flag (CEL.XOW_VALID c k) && decide (s.rd (CEL.XOW_BASE c k) < w + x.words) &&
        decide (w ≤ s.rd (CEL.XOW_LIMIT c k))) ||
      ((List.range x.words).any fun i => s.inRing c (w + i)) ||
      (x.xo && (List.range 4).all fun k => s.flag (CEL.XOW_VALID c k))
  | 2 => decide (65536 < bits x.target 16 16 + x.words)
  | 3 =>
    match targetOf (bits x.target 0 48), targetOf (bits x.target 0 48 + 16 * x.words - 1) with
    | .ddr r, .ddr q => r != q || (s.rd (DDR.STATUS_STATE r) == ddrReady &&
        decide (s.rd (DDR.CAP_WORDS r) < (bits x.target 0 48 - ddrBase r) / 16 + x.words))
    | _, _ => true
  | 4 =>
    (x.sectors.any fun k => s.sectorUsed k || s.torn k || s.objor.slots.any fun o => o.slot != n &&
      o.sects.any fun y => y.type == 4 && y.sectors.contains k) ||
    (x.xo && (List.range 16).all fun k => s.flag (STO.XO_VALID k))
  | 5 => (onesBelow (bits x.target 0 32) 32).any fun b => s.flag (FAB.PW_STATUS_BUSY b) || s.flag (FAB.STATUS_ARMED b)
  | 7 => x.cells.any fun c => s.cellBusy c && (onesBelow (bits x.target 16 4) 4).any fun k =>
      s.rd (PIN.CTRL_LSEL c k) == bits x.target 20 1
  | 8 => (s.apgHolder (bits x.target 0 5)).any s.busy
  | 9 => x.cells.any s.cellBusy
  | _ => false

/-! ### Installing and zeroising (R357 to R360, R370) -/

/-- R370: the windows of slot `n` in cell `c` are zeroed and invalidated. -/
def State.zeroWindows (s : State) (n c : Nat) : State :=
  (List.range 4).foldl (fun t k =>
    if t.flag (CEL.XOW_VALID c k) && t.rd (CEL.XOW_MSLOT c k) == n then
      (t.clearMem (padBase c + 16 * t.rd (CEL.XOW_BASE c k)) (padBase c + 16 * (t.rd (CEL.XOW_LIMIT c k) + 1))).wrs
        [(CEL.XOW_BASE c k, 0), (CEL.XOW_LIMIT c k, 0), (CEL.XOW_VALID c k, 0), (CEL.XOW_SYS c k, 0), (CEL.XOW_MSLOT c k, 0)]
    else t) s

/-- R370: the sections of slot `n` in a depot or the Store are zeroed or erased; `ok` says that the erases verify. -/
def State.zeroSect (s : State) (ok : Bool) (x : Sect) : State :=
  if x.type = 2 then
    let b := bits x.target 0 5
    s.clearMem (depotBase b + 16 * bits x.target 16 16) (depotBase b + 16 * (bits x.target 16 16 + x.words))
  else if x.type = 4 then x.sectors.foldl (fun t k => if t.sectorUsed k || t.torn k then (if ok then t.eraseNow k else t.eraseFails k) else t) s
  else s

/-- R370: the effects of ZEROISE of slot `n`; `ok` says that its erases verify. -/
def State.zeroiseSlot (s : State) (n : Nat) (ok : Bool) : State :=
  let sects := ((s.objor.slots.find? fun o => o.slot == n).map (·.sects)).getD []
  let s1 := (List.range 256).foldl (fun t c => t.zeroWindows n c) (s.closeBonds fun b => b.slot == n)
  let s2 := sects.foldl (fun t x => t.zeroSect ok x) s1
  let s3 := (List.range 16).foldl (fun t k =>
    if t.flag (STO.XO_VALID k) && t.rd (STO.XO_MSLOT k) == n then
      t.wrs [(STO.XO_BASE k, 0), (STO.XO_LIMIT k, 0), (STO.XO_VALID k, 0), (STO.XO_MSLOT k, 0)] else t) s2
  let s4 := (List.range 32).foldl (fun t b =>
    let p := t.inactivePlane b
    if t.rd (FAB.PLANE_STATE b p) ≠ 0 ∧ t.rd (FAB.PLANE_MSLOT b p) = n then t.wr (FAB.PLANE_STATE b p) planeBad else t) s3
  let s5 := s4.wrs [(OBJ.SLOT_A_STATE n, 0), (OBJ.SLOT_A_OWNER n, 0), (OBJ.SLOT_A_ENC n, 0), (OBJ.SLOT_A_GRANT_SYS n, 0),
    (OBJ.SLOT_A_MLDSA n, 0), (OBJ.SLOT_A_USES n, 0), (OBJ.SLOT_B_MANIFEST_ID n, 0)]
  { s5 with objor := { s5.objor with slots := s5.objor.slots.filter fun o => o.slot ≠ n } }

/-- R370: ZEROISE of slot `n` is refused. -/
def State.zeroiseRefused (s : State) (n : Nat) : Bool :=
  ((List.range 32).any fun b => s.rd (FAB.PLANE_MSLOT b (s.activePlane b)) == n) ||
    s.allLeads.any fun l => s.busy l && (s.run l).provSlot == n

/-- R370: slot `n` has sectors to erase. -/
def State.erases (s : State) (n : Nat) : Bool :=
  s.objor.slots.any fun o => o.slot == n && o.sects.any fun x => x.type == 4 && x.sectors.any fun k => s.sectorUsed k || s.torn k

/-- R325, R370: ZEROISE of slot `n` has sectors to erase, and the Store takes no command now. -/
def State.eraseWaits (s : State) (n : Nat) : Bool := s.storeBusy && s.erases n

/-- ZEROISE ALL (R370, R334): `bad` says that an erase does not verify. It then ends with FAULT, all else done (log 141). -/
def zeroiseAll (bad : Bool) (s : State) (_m : Nat) : MbRes :=
  if (List.range 15).any fun k => s.zeroiseRefused (k + 1) then ⟨3, 0, s⟩
  else s.withStore fun s =>
    let t := (List.range 15).foldl (fun u k => u.zeroiseSlot (k + 1) (!bad)) s
    let t1 := (List.range 16).foldl State.removeOwner t
    let t2 := ((List.range 8).foldl State.removeFleet t1).storeStep
    ⟨if bad then 6 else 0, if bad then 0xB else 0, { t2 with objor := { t2.objor with seeds := t2.objor.seeds + 1, draws := 0 } }⟩

/-- ZEROISE of the slot that ARG0 names; 0 means ALL (R349, R370, log 141). -/
def zeroise (bad : Bool) (s : State) (m : Nat) : MbRes :=
  let n := bits (s.arg m 0) 0 4
  if n = 0 then zeroiseAll bad s m
  else if s.zeroiseRefused n then ⟨3, 0, s⟩
  else if s.eraseWaits n then ⟨waitsOn, 0, s⟩
  else
    let f := bad && s.erases n
    ⟨if f then 6 else 0, if f then 0xB else 0, s.zeroiseSlot n (!f)⟩

/-- ZEROISE (R370): a mailbox, and whether an erase does not verify. -/
def execZeroise (m : Nat × Bool) (s : State) : Host.Outcome State Fault Refusal := .next (s.mbRow m.1 0xA [1, 2] false (zeroise m.2))
/-- ZEROISE_ALL (R370). -/
def execZeroiseAll (m : Nat × Bool) (s : State) : Host.Outcome State Fault Refusal :=
  .next (s.mbRow m.1 0xA [1, 2] false (zeroiseAll m.2))

/-- R359: Objor loads the Plane Writer of block `k` with an image and starts it. -/
def State.startImage (s : State) (addr n : Nat) (b : List Nat) (x : Sect) (k : Nat) : State :=
  let t := s.wrs ([(FAB.PW_SRC_ADDR k, addr / 16 + x.off / 9), (FAB.PW_LEN_WORDS k, x.words), (FAB.PW_CTRL_MSLOT k, n)] ++
    (List.range 6).map fun i => (FAB.PW_DIG_DIG k i, bits x.digest (64 * i) 64))
  t.fabWrite k 61 ((s.contentKey b).getD 0) 0 0

/-- R359: the manifest `b` at address `a` has passed pass 1 for slot `n`: the slot is INSTALLING and the Plane Writers start. -/
def State.startInstall (s : State) (m n a : Nat) (b : List Nat) : State :=
  let x : SlotX :=
    { slot := n, hash := Config.sha384 (b.take (mfS b)), siteMask := le b 64 32, useLimit := le b 44 4, scwLo := le b 48 8,
      scwHi := le b 56 8, sects := mfSects b, head := b.take 264,
      bonds := ((mfSects b).zipIdx.filter fun e => e.1.type == 0xA).map fun e => (e.2, e.1.stored b) }
  let t := s.wrs [(OBJ.SLOT_A_STATE n, 1), (OBJ.SLOT_A_OWNER n, ((s.ownerWith (mfOwner b) 0).map (·.index)).getD 0),
    (OBJ.SLOT_A_ENC n, b2n (mfEnc b)), (OBJ.SLOT_A_GRANT_SYS n, mfPolicy b % 2), (OBJ.SLOT_A_MLDSA n, b2n (mfMldsa b)),
    (OBJ.SLOT_A_USES n, 0), (OBJ.SLOT_B_MANIFEST_ID n, mfId b), (OBJ.MB_STATUS_PEND m, 1), (OBJ.MB_STATUS_OP m, 2),
    (OBJ.STATUS_BUSY, 1)]
  let u := { t with objor := { t.objor with slots := t.objor.slots ++ [x], install := some ⟨m, n, a, b⟩ } }
  ((mfSects b).filter fun y => y.type == 5).foldl (fun v y =>
    (onesBelow (bits y.target 0 32) 32).foldl (fun w k => w.startImage a n b y k) v) u

/-- INSTALL_MANIFEST (R357, R14): pass 1 reads the whole manifest; the refusals come in their order, whatever else is wrong. -/
def installManifest (s : State) (m : Nat) : MbRes :=
  let n := bits (s.arg m 0) 0 4
  let a := s.arg m 1
  if s.rd (OBJ.SLOT_A_STATE n) ≠ 0 then ⟨3, 0, s⟩
  else if a % 16 ≠ 0 ∨ (targetOf a).slot ≠ 16 then ⟨2, 1, s⟩
  else s.withManifest a 108 fun s h => s.withManifest a (mfLen h) fun s b =>
    let den := s.manifestDenied b
    let key := (s.contentKey b).getD 0
    if (mfSects b).any (s.targetBad n) then ⟨3, 9, s⟩
    else if den ≠ 0 then ⟨4, den, s⟩
    else if n = 0 ∨ formatOk b = false ∨ ((mfSects b).zipIdx.all fun e => e.1.contentOk (e.1.content b key e.2)) = false then ⟨2, 1, s⟩
    else ⟨runsOn, 0, s.startInstall m n a b⟩

/-- The first of four windows of a cell, or of 16 Store regions, that is free. -/
def State.freeWindow (s : State) (c : Nat) : Option Nat := (List.range 4).find? fun k => !s.flag (CEL.XOW_VALID c k)

/-- R359: an execute-only section of scratchpad words takes a window of the cell. -/
def State.openWindow (s : State) (n : Nat) (sys : Bool) (x : Sect) (c : Nat) : State :=
  let w := bits x.target 16 13
  match x.xo, s.freeWindow c with
  | true, some k => s.wrs [(CEL.XOW_BASE c k, w), (CEL.XOW_LIMIT c k, w + x.words - 1), (CEL.XOW_SYS c k, b2n sys),
      (CEL.XOW_MSLOT c k, n), (CEL.XOW_VALID c k, 1)]
  | _, _ => s

/-- R274, R359: master 61 writes the words `ws` in packets `gs`; whether every response is good. -/
def State.ownWrites (s : State) : List (Nat × Nat) → List Nat → Except State (Bool × State)
  | [], _ => .ok (true, s)
  | (a, n) :: rest, ws =>
    match s.ownAccess (wordsReq 61 0 a n true (ws.take n)) 0 0 with
    | .error t => .error t
    | .ok (st, _, t) => if st ≠ 0 then .ok (false, t) else t.ownWrites rest (ws.drop n)

/-- R359: the words of a section go to the addresses `as` (one for each cell), as master 61 writes them. -/
def State.putWords (s : State) (ws : List Nat) : List Nat → Except State (Bool × State)
  | [] => .ok (true, s)
  | a :: rest =>
    match s.ownWrites (groupsOf 16 (ws.length + 1) a ws.length) ws with
    | .error t => .error t
    | .ok (false, t) => .ok (false, t)
    | .ok (true, t) => t.putWords ws rest

/-- R359: a section of a memory that the network serves: the state before its words are written, and where they go. -/
def State.memSect (s : State) (n : Nat) (sys : Bool) (x : Sect) : Option (State × List Nat) :=
  match x.type with
  | 1 => some (x.cells.foldl (fun t c => t.openWindow n sys x c) s, x.cells.map fun c => padBase c + 16 * bits x.target 16 13)
  | 2 => some (s, [depotBase (bits x.target 0 5) + 16 * bits x.target 16 16])
  | 3 => some (s, [bits x.target 0 48])
  | _ => none

/-- R359: the content of one section of the Store or of registers goes to its target; `n` is the slot. Bits [71:64] of the words of
a LEVELS section have no effect (R145, log 135). -/
def State.putSect (s : State) (n : Nat) (x : Sect) (ws : List Nat) : State :=
  match x.type with
  | 4 =>
    let k := bits x.target 0 21
    let t := (List.range (x.words / 4)).foldl (fun u i => u.programNow (k + i) ((ws.drop (4 * i)).take 4)) s
    match x.xo, (List.range 16).find? fun j => !s.flag (STO.XO_VALID j) with
    | true, some j => t.wrs [(STO.XO_BASE j, k / 128), (STO.XO_LIMIT j, (k / 4096 + x.sectors.length) * 32 - 1), (STO.XO_MSLOT j, n),
        (STO.XO_VALID j, 1)]
    | _, _ => t
  | 6 =>
    let e := bits x.target 16 6
    x.cells.foldl (fun t c => (List.range (x.words / 2)).foldl (fun u i =>
      (u.putTab c (e + i) 0 (ws.getD (2 * i) 0)).putTab c (e + i) 1 (ws.getD (2 * i + 1) 0)) t) s
  | 7 =>
    x.cells.foldl (fun t c => (onesBelow (bits x.target 16 4) 4).foldl (fun u k =>
      (u.writeLevels c k (bits x.target 20 1) 0 (2 ^ 64 - 1) (bits (ws.getD 0 0) 0 64)).writeLevels c k (bits x.target 20 1) 1
        (2 ^ 64 - 1) (bits (ws.getD 1 0) 0 64)) t) s
  | 8 =>
    let b := bits x.target 0 5
    let t := (List.range 33).foldl (fun u i => u.loadAreg b i (ws.getD i 0)) s
    let t1 := (List.range 6).foldl (fun u i => apgWindowWrite u b (0x40 + 8 * i) (2 ^ 64 - 1) (bits (ws.getD (33 + i) 0) 0 64)) t
    let t2 := (List.range 2).foldl (fun u i => apgWindowWrite u b (0x80 + 8 * i) (2 ^ 64 - 1) (bits (ws.getD (39 + i) 0) 0 64)) t1
    (List.range (x.words - 41)).foldl (fun u i => apgWindowWrite u b (0x8000 + 8 * i) (2 ^ 64 - 1) (bits (ws.getD (41 + i) 0) 0 64)) t2
  | 9 => x.cells.foldl (fun t c => (List.range 64).foldl (fun u i => u.wr (SEQ.PSM_ENTRIES c i) (bits (ws.getD i 0) 0 64)) t) s
  | _ => s

/-- The block domains that a section writes. -/
def Sect.blocks (x : Sect) : List Nat :=
  match x.type with
  | 2 => [bits x.target 0 5]
  | 5 => onesBelow (bits x.target 0 32) 32
  | 8 => [bits x.target 0 5]
  | 3 => []
  | 4 => []
  | 0xA => []
  | _ => (x.cells.map blockOf).eraseDups

/-- R139, R359: the APG window of block `b` ignores a write of `v` at offset `off`. -/
def State.apgIgnores (s : State) (b off v : Nat) : Bool :=
  (apgWindowWrite (s.wr (APG.STATUS_WR_IGN b) 0) b off (2 ^ 64 - 1) (bits v 0 64)).flag (APG.STATUS_WR_IGN b)

/-- R359: the register writes of an APG section: offsets in the window, words. -/
def apgWrites (ws : List Nat) : List (Nat × Nat) :=
  (0x400, ws.getD 32 0) :: ((List.range 6).map fun i => (0x40 + 8 * i, ws.getD (33 + i) 0)) ++
    (List.range 2).map fun i => (0x80 + 8 * i, ws.getD (39 + i) 0)

/-- R359, R358: the register writes of a section are answered with an error or ignored, or its target has become not
permitted by what was written before it. -/
def State.putFails (s : State) (n : Nat) (x : Sect) (ws : List Nat) : Bool :=
  (x.blocks.any fun b => s.domainOff (.blockRegs b)) || (x.type != 5 && s.targetBad n x) ||
    (x.type == 8 && (apgWrites ws).any fun e => s.apgIgnores (bits x.target 0 5) e.1 e.2) ||
    (x.type == 7 && (List.range 4).any fun k =>
      decide (maxCode < bits (ws.getD 0 0) (16 * k) 16) || decide (k = 0 ∧ maxCode < bits (ws.getD 1 0) 0 16))

/-- R359: the sections `xs`, with their words, are written in order; whether none fails. -/
def State.putAll (s : State) (n : Nat) (sys : Bool) : List (Sect × List Nat) → Except State (Bool × State)
  | [] => .ok (true, s)
  | (x, ws) :: rest =>
    if s.putFails n x ws then .ok (false, s)
    else match s.memSect n sys x with
    | some (t, as) => match t.putWords ws as with
      | .error u => .error u
      | .ok (false, u) => .ok (false, u)
      | .ok (true, u) => u.putAll n sys rest
    | none => (s.putSect n x ws).putAll n sys rest

/-- R359: the Plane Writers of an install still run. -/
def State.imagesBusy (s : State) (r : InstallRun) : Bool :=
  (mfSects r.bytes).any fun x => x.type == 5 && x.blocks.any fun b => (s.block b).pw.isSome

/-- R359: the install has failed for a reason: what pass 2 wrote is undone; `ok` says that the erases of the undo verify. -/
def State.installUndo (s : State) (r : InstallRun) (why : Nat) (ok : Bool) : State :=
  (({ s with objor := { s.objor with install := none } }).zeroiseSlot r.slot ok).mbDone r.mb 2 6 why

/-- R327, R359: the Store program of an install that fails: the first code word of its first STORE section. -/
def State.installSpoil (s : State) (b : List Nat) (key : Nat) : State :=
  match (mfSects b).zipIdx.find? fun e => e.1.type == 4 with
  | some e => s.programFails (bits e.1.target 0 21) ((e.1.content b key e.2).take 4)
  | none => s

/-- R359: why pass 2 of an install fails before its writes, where the manifest has been read again as `again`; 0 when it does
not. `bad` says that a Store result is not OK. -/
def State.installWhy (s : State) (r : InstallRun) (again : Option (List Nat)) (bad : Bool) : Nat :=
  let xs := mfSects r.bytes
  if s.flag OBJ.STATUS_ERROR || again != some r.bytes then 0xC
  else if xs.any fun x => x.type != 5 && s.targetBad r.slot x then 9
  else if xs.any fun x => x.type == 5 && x.blocks.any fun k => s.rd (FAB.PW_STATUS_RESULT k) != 1 then 0xA
  else if bad && xs.any fun x => x.type == 4 then 0xB
  else 0

/-- R359: pass 2; bit 0 of `bad` says that a Store program is not OK, bit 1 that an erase of the undo is not. It waits while the Store takes no command for its sectors (R325), and
while an access has to wait, with what it wrote standing. -/
def State.installEnd (s : State) (r : InstallRun) (bad : Nat) : State :=
  let ok := !bitOf bad 1
  let xs := (mfSects r.bytes).zipIdx
  if s.storeBusy && xs.any fun e => e.1.type == 4 then s
  else match s.ownWords r.addr ((r.bytes.length + 8) / 9) 0 0 with
    | .error t => t
    | .ok (again, t) =>
      let why := t.installWhy r (again.map fun ws => (wordBytes ws).take r.bytes.length) (bitOf bad 0)
      let key := (t.contentKey r.bytes).getD 0
      if why ≠ 0 then (if why = 0xB then t.installSpoil r.bytes key else t).installUndo r why ok
      else match t.putAll r.slot (bitOf (mfPolicy r.bytes) 0) (xs.map fun e => (e.1, e.1.content r.bytes key e.2)) with
        | .error _ => t
        | .ok (false, u) => u.installUndo r 9 ok
        | .ok (true, u) =>
          (((({ u with objor := { u.objor with install := none } }).wr (OBJ.SLOT_A_STATE r.slot) 2).setRes r.mb 0
            r.bytes.length).setRes r.mb 1 (mfId r.bytes)).mbDone r.mb 2 0 0

/-! ### Bonded sessions (R362, R363) -/

/-- The bits of bonded data: bit i is bit i mod 72 of word i / 72. -/
def bondBits (ws : List Nat) (len : Nat) : Nat := ofBytes (wordBytes ws) % 2 ^ len

/-- OPEN_BONDED (R362, R340): the section is decrypted now, with the content key that the manifest wraps. Where that key does not
unwrap any more, as after REMOVE_FLEET, the command ends with FAULT (log 143). -/
def openBonded (s : State) (m : Nat) : MbRes :=
  let l := bits (s.arg m 0) 0 8
  let n := bits (s.arg m 0) 8 4
  let k := bits (s.arg m 0) 12 10
  let ctx := (List.range 4).flatMap fun i => toBytes 8 (s.arg m (1 + i))
  let slot := s.objor.slots.find? fun o => o.slot == n
  let data := (slot.bind fun o => o.bonds.find? fun e => e.1 == k).map (·.2)
  let head := (slot.map (·.head)).getD []
  let site := s.siteOf l
  if 32 ≤ s.bonds.length then ⟨1, 0, s⟩
  else if !s.isLead l || (s.bonds.any fun b => b.lead == l) || s.rd (OBJ.SLOT_A_STATE n) != 2 || data.isNone then ⟨3, 0, s⟩
  else if !(slot.any fun o => bitOf o.siteMask site && (o.useLimit == 0 || decide (s.rd (OBJ.SLOT_A_USES n) < o.useLimit))) then
    ⟨4, 0xD, s⟩
  else match s.contentKey head with
  | none => ⟨6, 6, s⟩
  | some key =>
    let x := ((slot.map (·.sects)).getD []).getD k ⟨0, 0, 0, 0, 0, 0, 0, 0⟩
    let ws := bytesWords x.words (x.openBytes head key k (data.getD [])).1
    let len := bits x.target 0 17
    let d := if x.derive then
        Config.kdf (ofBytes (wordBytes ws)) [0x48, 0x58, 0x42, 0x44] (toBytes 16 s.unitId ++ [site] ++ ctx) % 2 ^ len
      else bondBits ws len
    let j := ((List.range 32).find? fun i => !(s.bonds.any fun b => b.k == i)).getD 0
    let t := s.wrs [(OBJ.BOND_OPEN j, 1), (OBJ.BOND_LEAD j, l), (OBJ.BOND_SLOT j, n), (OBJ.BOND_SECTION j, k), (OBJ.BOND_BITS j, len)]
    let b : BondSession := ⟨j, l, n, k, d, len⟩
    ⟨0, 0, State.setRes { t with bonds := t.bonds ++ [b] } m 0 j⟩

/-- OPEN_BONDED (R362). -/
def execOpenBonded (m : Nat) (s : State) : Host.Outcome State Fault Refusal := .next (s.mbRow m 3 [2] true openBonded)

/-- CLOSE_BONDED (R363). -/
def closeBonded (s : State) (m : Nat) : MbRes :=
  let l := bits (s.arg m 0) 0 8
  if !(s.bonds.any fun b => b.lead == l) then ⟨3, 0, s⟩ else ⟨0, 0, s.closeBonds fun b => b.lead == l⟩

/-- CLOSE_BONDED (R363). -/
def execCloseBonded (m : Nat) (s : State) : Host.Outcome State Fault Refusal := .next (s.mbRow m 4 [1, 2] true closeBonded)

/-! ### Seals (R365 to R368) -/

/-- R241: a digest of the caravan led by `l` starts, where the region computes none. -/
def State.startDigest (s : State) (l : Nat) : State :=
  let r := regionOf l
  if s.flag (LDG.STATUS_DIG_BUSY r) then s
  else (s.wrs [(LDG.DIG_CTRL_LEAD r, l % 64), (LDG.STATUS_DIG_BUSY r, 1)]).modRegion r fun x => { x with digest := some l }

/-- ISSUE_SEAL (R365): the checks, and step 1. -/
def issueSeal (s : State) (m : Nat) : MbRes :=
  let l := bits (s.arg m 0) 0 8
  let r := regionOf l
  let a := s.arg m 1
  let n := (s.run l).provSlot % 16
  let slot := s.objor.slots.find? fun o => o.slot == n
  let next := s.rd OBJ.SEAL_CNT_NEXT
  if s.objor.ident.isNone || !s.isLead l || s.cvState l != stHalted || !s.flag (LDG.CVST_DRAIN_DONE r (l % 64)) ||
      s.flag (LDG.CVST_ALLOC_BUSY r (l % 64)) || (s.run l).sealed then ⟨3, 0, s⟩
  else if n ≠ 0 ∧ !(slot.any fun o => bitOf o.siteMask (s.siteOf l) && (o.useLimit == 0 || decide (s.rd (OBJ.SLOT_A_USES n) < o.useLimit)) &&
      decide (o.scwLo ≤ next) && decide (next ≤ o.scwHi)) then ⟨4, 0xD, s⟩
  else if !bufOk a 272 then ⟨2, 0, s⟩
  else
    let d := !s.flag (LDG.STATUS_DIG_BUSY r)
    let t := (s.startDigest l).wrs [(OBJ.MB_STATUS_PEND m, 1), (OBJ.MB_STATUS_OP m, 5), (OBJ.STATUS_BUSY, 1)]
    let x : SealRun := ⟨m, l, a, (List.range 4).flatMap fun i => toBytes 8 (s.arg m (2 + i)), d, none, false⟩
    ⟨runsOn, 0, { t with objor := { t.objor with sealRun := some x } }⟩

/-- R366: bytes 0 to 175 of the seal of the caravan led by `l`, with the digest and the dropped-record count `dig`. -/
def State.sealBody (s : State) (l : Nat) (ctx : List Nat) (dig : Nat × Nat) : List Nat :=
  let r := regionOf l
  let x := s.run l
  let n := x.provSlot % 16
  let slot := s.objor.slots.find? fun o => o.slot == n
  let drops := dig.2
  let anyM (f : Nat → Fld) : Bool := (s.members l).any fun c => s.flag (f c)
  let flags := s.rd (SEQ.VOID_VOID l) + 2 * b2n (drops != 0) + 4 * b2n x.confined + 8 * b2n x.intervened +
    16 * b2n (anyM SEQ.STATUS_BFAILS) + 32 * b2n (anyM SEQ.STATUS_FAILS) + 64 * s.rd OBJ.STATUS_APPROVED
  [0x48, 0x58, 0x53, 0x4C] ++ toBytes 2 1 ++ toBytes 2 flags ++ toBytes 16 s.unitId ++
    toBytes 48 (if n = 0 then 0 else (slot.map (·.hash)).getD 0) ++ toBytes 8 (if n = 0 then 0 else s.rd (OBJ.SLOT_B_MANIFEST_ID n)) ++
    [n, s.siteOf l, s.rd (SEQ.STATUS_CCAUSE l), s.rd (SEQ.STATUS_HCODE l), s.rd (SEQ.VOID_FIRST l), 0] ++
    toBytes 2 (s.rd (SEQ.VOID_COUNT l)) ++ toBytes 4 drops ++ toBytes 4 0 ++ toBytes 8 (s.rd OBJ.SEAL_CNT_NEXT) ++
    toBytes 8 (s.rd (SEQ.SC_SC l)) ++ toBytes 32 dig.1 ++ ctx

/-- R368: the entries of the log that a seal of slot `n` needs: slot, ceiling, MANIFEST_ID. -/
def State.sealEntries (s : State) (n : Nat) : List (Nat × Nat × Nat) :=
  let next := s.rd OBJ.SEAL_CNT_NEXT
  let mid := s.rd (OBJ.SLOT_B_MANIFEST_ID n)
  let uses := s.rd (OBJ.SLOT_A_USES n)
  (if s.ceiling 0 0 ≤ next then [(0, next + 64, 0)] else []) ++
    (if n ≠ 0 ∧ s.ceiling n mid ≤ uses then [(n, uses + 64, mid)] else [])

/-- R368: the ceilings that a seal needs are logged first. -/
def State.logForSeal (s : State) (n : Nat) : State :=
  (s.sealEntries n).foldl (fun t e => t.logRoll.logCeiling e.1 e.2.1 e.2.2) s

/-- R365 step 5: the seal of the caravan led by `l`, of slot `n`, has been written: the counts advance and the caravan's session
closes. -/
def State.sealWritten (s : State) (x : SealRun) (n : Nat) : State :=
  let c := s.rd OBJ.SEAL_CNT_NEXT
  let t := s.wr OBJ.SEAL_CNT_NEXT (c + 1)
  let t1 := if n = 0 then t else t.count (OBJ.SLOT_A_USES n) 1
  (((t1.closeBonds fun b => b.lead == x.lead).modRun x.lead fun y => { y with sealed := true }).setRes x.mb 0 c).mbDone x.mb 5 0 0

/-- R365 steps 2 to 5: the seal is signed, verified and written; `bad` says that the program of the first entry of the log that it
needs fails. It waits while the Store
takes no command for the log (R325), and while the write has to wait. -/
def State.sealEnd (s : State) (x : SealRun) (bad : Bool) : State :=
  let s0 := { s with objor := { s.objor with sealRun := none } }
  let l := x.lead
  let n := (s.run l).provSlot % 16
  let body := s.sealBody l x.context (x.digest.getD (0, 0))
  let sig := Config.ecdsaSign (s.objor.ident.getD 0) body
  if s.cvState l ≠ stHalted ∨ x.left = true then s0.mbDone x.mb 5 6 0xF
  else if !Config.ecdsaVerify (Config.publicKey (s.objor.ident.getD 0)) body sig then s0.objorError.mbDone x.mb 5 6 0
  else if s.storeBusy then s
  else if let (true, e :: _) := (bad, s0.sealEntries n) then (s0.logRoll.logFails e.1 e.2.1 e.2.2).mbDone x.mb 5 6 0xB
  else match (s0.logForSeal n).ownPut x.buf 272 (body ++ toBytes 96 sig) with
    | .error _ => s
    | .ok (false, t) => t.mbDone x.mb 5 6 0
    | .ok (true, t) => t.sealWritten x n

end Sys2Proof.Machine
end

