-- ==== Sys2Proof/Machine/Events.lean ====
section
/-! DEFINITION. The event controller and what it and the fault hub do with the stewards (spec/17). A steward's instructions run
outside the commands; a command that a steward's instruction gives carries what they have done with its registers (log 30). -/

namespace Sys2Proof.Machine

/-- Source `n`. -/
def State.src (s : State) (n : Nat) : SrcX := Tab.get SrcX.reset s.evc.srcs n
/-- Change source `n`. -/
def State.modSrc (s : State) (n : Nat) (f : SrcX → SrcX) : State :=
  { s with evc := { s.evc with srcs := Tab.set SrcX.reset s.evc.srcs n (f (s.src n)) } }

/-! ### Inputs (R424) -/

/-- R89: the stream warning of cell `c`. -/
def State.streamWarning (s : State) (c : Nat) : Bool :=
  s.flag (SEQ.STATUS_STREAMING c) && decide (s.rd (SEQ.RING_STATUS_LEVEL c) < min 4096 (s.rd (SEQ.RING_WARN_LEVEL c)))

/-- R470: the output of pattern-match unit `k`. -/
def State.patternOut (s : State) (k : Nat) : Bool :=
  s.flag (GPIO.PM_CFG_EN k) && (match s.rd (GPIO.PM_CFG_MODE k) with
    | 0 => s.flag (GPIO.PM_STATUS_D k)
    | 1 => !s.flag (GPIO.PM_STATUS_D k)
    | _ => s.flag (GPIO.PM_STATUS_HIT k))

/-- R472: the OR of the interface's events. -/
def State.hpiEvent (s : State) : Bool :=
  s.flag GPIO.HPI_STATUS_SOT || s.flag GPIO.HPI_STATUS_DONE || s.flag GPIO.HPI_STATUS_RDY_TO || s.flag GPIO.HPI_STATUS_CUT

/-- R476: the bits of GPIO.PERIPH_EVT. -/
def State.periphEvents (s : State) : Nat :=
  s.rd GPIO.PERIPH_EVT_I2C + 16 * s.rd GPIO.PERIPH_EVT_SPI + 64 * s.rd GPIO.PERIPH_EVT_UART
    + 256 * s.rd GPIO.PERIPH_EVT_PMB_ALERT + 512 * b2n s.hpiEvent + 1024 * s.rd GPIO.PERIPH_EVT_CAP_EVT

/-- R424: the level of chip source `n`, 1168 to 1190. -/
def State.chipLevel (s : State) (n : Nat) : Bool :=
  match n with
  | 1168 => s.flag CHIP.CLK_STATUS_FALLBACK || s.flag CHIP.CLK_STATUS_REF_FAULT
  | 1169 => s.flag MPR.VIOL_INFO_VALID
  | 1170 => s.flag NOC.RECFG_DRAINED_EVT || (List.range 292).any fun k => s.flag (NOC.LINK_EVT k)
  | 1171 => s.flag STO.EVT_UNCORR || s.flag STO.EVT_TORN_FOUND || s.flag STO.EVT_XO_HIT ||
      (s.flag STO.EVT_DONE && s.flag STO.EVT_DONE_EN)
  | 1172 => s.flag OBJ.EVT_ERROR || (s.flag OBJ.EVT_DONE_EN && (s.flag OBJ.EVT_DONE0 || s.flag OBJ.EVT_DONE1))
  | 1173 => s.flag PWR.EVT_LEVEL_DONE || s.flag PWR.EVT_DOMAIN_DONE || s.flag PWR.EVT_WOKE
  | 1174 => s.flag FLT.STATUS_EVT
  | 1175 => s.flag BST.EVT_ABORTED || s.flag BST.EVT_LATE || (s.flag BST.EVT_DONE && s.flag BST.EVT_DONE_EN)
  | 1176 => s.flag PCI.STATUS_LINK_EVT || s.flag PCI.STATUS_ERR_EVT
  | 1185 => s.flag CVY.STATUS_ALIGN_ERR || s.flag CVY.STATUS_LOCK_LOST || s.flag CVY.STATUS_BAD_EVT
  | 1190 => Nat.land s.periphEvents (s.rd GPIO.PERIPH_EVT_EN) != 0
  | _ => if 1177 ≤ n ∧ n ≤ 1184 then s.flag (DMA.STATUS_EVT (n - 1177))
    else decide (1186 ≤ n ∧ n ≤ 1189) && s.patternOut (n - 1186)

/-- R424: the level that drives source `n`; a pulse source is low outside its pulses. -/
def State.srcLevel (s : State) (n : Nat) : Bool :=
  if n < 1024 then
    match n % 4 with
    | 0 => s.flag (SEQ.STATUS_HALT_PEND (n / 4))
    | 3 => s.streamWarning (n / 4)
    | _ => false
  else if n < 1152 then
    let b := (n - 1024) / 4
    match n % 4 with
    | 0 => s.flag (PLL.EVENT_LOL b) || (s.flag (PLL.EVENT_DONE b) && s.flag (PLL.EVENT_EN_DONE_EN b)) ||
        (s.flag (PLL.EVENT_CLAMP b) && s.flag (PLL.EVENT_EN_CLAMP_EN b))
    | 3 => s.flag (DEP.ECC_ADDR_VALID b)
    | _ => false
  else if n < 1168 then
    let r := (n - 1152) / 4
    match n % 4 with
    | 0 => (List.range 64).any fun i => s.flag (LDG.CVST_DRAIN_DONE r i)
    | 1 => (List.range 64).any fun i => s.flag (LDG.CVST_ALLOC_DONE r i)
    | 2 => s.flag (LDG.STATUS_SPILLED r) || decide (262144 ≤ s.spillFill r)
    | _ => s.flag (DDR.STATUS_EVT r)
  else if n < 1191 then s.chipLevel n
  else if n < 1280 then false
  else bitOf (s.cell ((n - 1280) / 3)).userEvt ((n - 1280) % 3)

/-! ### Pending (R426, R434 to R437) -/

/-- R426: source `n` is judged by edges. -/
def State.edgeSense (s : State) (n : Nat) : Bool := decide (2 ≤ s.rd (EVC.SRC_CFG_SENSE n))

/-- R426: the input of source `n` is at its selected level. -/
def State.atLevel (s : State) (n : Nat) : Bool := (s.src n).inp == (s.rd (EVC.SRC_CFG_SENSE n) == 0)

/-- R426: source `n` is pending to stewards. -/
def State.srcPending (s : State) (n : Nat) : Bool :=
  s.flag (EVC.SRC_CFG_EN n) &&
    (if s.edgeSense n then (s.src n).lat else (s.src n).active.isNone && (s.atLevel n || (s.src n).lat))

/-- R434: COUNT asks for this many firings. -/
def State.wantCount (s : State) (n : Nat) : Nat := max 1 (s.rd (EVC.SRC_CFG_MODVAL n))

/-- R434: moderation holds source `n` back, with the firings and the holdoff of one of its two paths. -/
def State.moderated (s : State) (n count : Nat) (hold : Bool) : Bool :=
  match s.rd (EVC.SRC_CFG_MOD n) with
  | 1 => hold
  | 2 => s.edgeSense n && decide (count < s.wantCount n)
  | _ => false

/-- R434: a delivery starts the holdoff of source `n`. -/
def State.startsHold (s : State) (n : Nat) : Bool := s.rd (EVC.SRC_CFG_MOD n) == 1 && s.rd (EVC.SRC_CFG_MODVAL n) != 0

/-- R437: source `n` has become pending: it is delivered to the host, or waits for its moderation. -/
def State.hostTry (s : State) (n : Nat) : State :=
  let x := s.src n
  if !s.flag (EVC.SRC_CFG_EN n) || !s.flag (EVC.SRC_CFG_HOST n) || x.hpend then s
  else if s.moderated n x.hcount x.hhold then s.modSrc n fun x => { x with hwait := true }
  else s.modSrc n fun x => { x with hpend := true, hsend := true, hwait := false, hcount := 0, hhold := s.startsHold n }

/-- R426, R434: source `n` fires. -/
def State.fire (s : State) (n : Nat) : State :=
  (s.modSrc n fun x => { x with lat := true, count := satAdd 16 x.count 1, hcount := satAdd 16 x.hcount 1 }).hostTry n

/-- R426: a level source is judged: it is pending now and was not before. -/
def State.levelTry (s : State) (n : Nat) (was : Bool) : State :=
  if !s.edgeSense n && !was && s.srcPending n then s.hostTry n else s

/-- R426: the synchronised input of source `n` becomes `v`. -/
def State.setInput (s : State) (n : Nat) (v : Bool) : State :=
  let old := (s.src n).inp
  let was := s.srcPending n
  let t := s.modSrc n fun x => { x with inp := v }
  if old == v then t
  else if s.edgeSense n then
    let hit := s.rd (EVC.SRC_CFG_SENSE n) == 4 || (s.rd (EVC.SRC_CFG_SENSE n) == 2) == v
    if hit && s.flag (EVC.SRC_CFG_EN n) then t.fire n else t
  else t.levelTry n was

/-! ### Candidates (R423, R428, R429) -/

/-- R423, R490: steward `w` is held. -/
def State.stwHeld (s : State) (w : Nat) : Bool :=
  s.flag (EVC.STW_STATE_HELD w) || bitOf (s.rd FLT.STW_FAULTED) w || (s.steward w).stopped

/-- R423: steward `w` is asleep; one that is held is not. -/
def State.stwAsleep (s : State) (w : Nat) : Bool :=
  !s.stwHeld w && ((s.steward w).inReset || (s.steward w).deep || s.power.sleep != 0)

/-- EVLVL of steward `w`: a steward in WFI at thread level is idle. -/
def State.stwLevel (s : State) (w : Nat) : Nat :=
  if s.rd (EVC.STW_STATE_LEVEL w) = 1 ∧ (s.steward w).wfi ∧ !s.stwAsleep w then 0 else s.rd (EVC.STW_STATE_LEVEL w)

/-- Steward `w` executes instructions. -/
def State.stwRuns (s : State) (w : Nat) : Bool :=
  decide (w < 4) && !s.stwHeld w && !s.stwAsleep w && !(s.steward w).wfi && !s.frozen

/-- R428: steward `w` is a candidate for a source of the class. -/
def State.candidate (s : State) (fast : Bool) (w : Nat) : Bool :=
  !s.stwHeld w && !s.stwAsleep w &&
    (if fast then decide (s.stwLevel w ≤ 2) else decide (s.stwLevel w ≤ 1) && (s.steward w).mie)

/-- R430, R438: the choice still stands; its class is that of its arbitration. -/
def State.choiceValid (s : State) (e : Choice) : Bool :=
  s.srcPending e.src && (s.src e.src).active.isNone && bitOf (s.rd (EVC.SRC_CFG_TARGET e.src)) e.stw && s.candidate e.fast e.stw

/-- R430: choices that `p` names are recalled. -/
def State.recall (s : State) (p : Choice → Bool) : State :=
  ({ s with evc := { s.evc with choices := s.evc.choices.filter fun e => !p e } }).count EVC.RECALLS_COUNT
    (s.evc.choices.filter p).length

/-- R430: choices that no longer stand are recalled. -/
def State.revalidate (s : State) : State := s.recall fun e => !s.choiceValid e

/-- R429: the steward that source `n` is delivered to: of the candidates the lowest level, ties going round. -/
def State.chosen (s : State) (n : Nat) : Option Nat :=
  let fast := s.flag (EVC.SRC_CFG_FAST n)
  let last := if fast then s.evc.lastF else s.evc.lastN
  let ws := ((List.range 4).map fun k => (last + 1 + k) % 4).filter fun w =>
    bitOf (s.rd (EVC.SRC_CFG_TARGET n)) w && s.candidate fast w && !s.evc.choices.any (·.stw == w)
  let low := ws.foldl (fun m w => min m (s.stwLevel w)) 3
  ws.find? fun w => s.stwLevel w == low

/-- R429, R435: source `n` can be presented to steward `w`. -/
def State.deliverable (s : State) (n w : Nat) : Bool :=
  s.srcPending n && (s.src n).active.isNone && !s.evc.choices.any (·.src == n) &&
    (s.stwLevel w == 0 || !s.moderated n (s.src n).count (s.src n).hold)

/-- The enabled sources in the order of R429: fast ones first, then by number. -/
def State.srcOrder (s : State) : List Nat :=
  let on := (List.range 2048).filter s.srcPending
  on.filter (fun n => s.flag (EVC.SRC_CFG_FAST n)) ++ on.filter fun n => !s.flag (EVC.SRC_CFG_FAST n)

/-- R429, R438: the first pending source that a steward can take, with that steward, its class and its vector. -/
def State.nextChoice (s : State) : Option Choice :=
  s.srcOrder.findSome? fun n => match s.chosen n with
    | some w => if s.deliverable n w then some ⟨n, w, s.flag (EVC.SRC_CFG_FAST n), s.rd (EVC.SRC_VEC_ADDR n)⟩ else none
    | none => none

/-- R436: were it awake, steward `w` would be a candidate for a source of the class. -/
def State.wouldTake (s : State) (fast : Bool) (w : Nat) : Bool :=
  let lvl := s.rd (EVC.STW_STATE_LEVEL w)
  if fast then decide (lvl ≤ 2) else decide (lvl ≤ 1) && (s.steward w).mie

/-- R436: source `n` is held back only because every steward of its mask that is not held is asleep; the steward that is
woken. -/
def State.sleeper (s : State) (n : Nat) : Option Nat :=
  let ws := (onesBelow (s.rd (EVC.SRC_CFG_TARGET n)) 4).filter fun w => !s.stwHeld w
  if (s.src n).active.isNone && ws.all s.stwAsleep && ws.any (s.wouldTake (s.flag (EVC.SRC_CFG_FAST n))) && !s.moderated n (s.src n).count (s.src n).hold then ws.head? else none

/-- R436: a steward asleep under DEEP is woken and leaves WFI. -/
def State.wakeDeep (s : State) (w : Nat) : State :=
  if (s.steward w).deep then s.modSteward w fun x => { x with deep := false, wfi := false } else s

/-- R437: hold of the MIE bits that the stewards' instructions have left. -/
def State.takeMie (s : State) (mie : Nat) : State :=
  (List.range 4).foldl (fun t w => if t.stwRuns w || t.stwLevel w == 0 then t.modSteward w fun x => { x with mie := bitOf mie w } else t) s

/-! ### Entry and return (R431, R432) -/

/-- R431: steward `w`, at `pc`, enters the normal handler of source `n` at word address `vec`. -/
def State.enterNormal (s : State) (n w pc vec : Nat) : State :=
  (s.modSteward w fun x =>
    { x with
      mepc := pc, mcause := 0x800000000000000B, mpie := x.mie, mie := false, mpp := x.machine, machine := true,
      evsrc := n, evfast := false, wfi := false, pc := 2 * vec }).wrs
    [(EVC.STW_STATE_LEVEL w, 2), (EVC.STW_STATE_NSRC w, n), (EVC.STW_STATE_NACT w, 1)]

/-- R431: steward `w`, at `pc`, enters the fast handler of source `n` at word address `vec`. -/
def State.enterFast (s : State) (n w pc vec : Nat) : State :=
  (s.modSteward w fun x =>
    { x with
      fepc := pc, flevel := s.stwLevel w, fmachine := x.machine, fmie := x.mie, fastBank := true, machine := true,
      evsrc := n, evfast := true, wfi := false, pc := 2 * vec }).wrs
    [(EVC.STW_STATE_LEVEL w, 3), (EVC.STW_STATE_FSRC w, n), (EVC.STW_STATE_FACT w, 1)]

/-- R426, R431, R434: source `n` is delivered to steward `w`. -/
def State.delivered (s : State) (n w : Nat) (fast : Bool) : State :=
  let t := s.modSrc n fun x => { x with lat := false, active := some w, count := 0, hold := s.startsHold n }
  let u := t.count (if fast then EVC.STW_DELIV_FAST w else EVC.STW_DELIV_NORMAL w) 1
  { u with
    evc := { u.evc with
      choices := u.evc.choices.filter fun e => e.stw != w
      lastN := if fast then u.evc.lastN else w
      lastF := if fast then w else u.evc.lastF } }

/-- R432: a synchronous exception of steward `w`. A choice for which it is no candidate any more is recalled (R430). -/
def State.stwException (s : State) (w pc cause tval : Nat) : State :=
  (if s.rd (EVC.STW_STATE_LEVEL w) = 3 then (s.modSteward w fun x => { x with stopped := true, pc := pc }).report 0x18 w
  else s.modSteward w fun x =>
    { x with
      mepc := pc, mcause := cause, mtval := tval, mpie := x.mie, mie := false, mpp := x.machine, machine := true,
      pc := x.mtvec / 4 * 4 }).revalidate

/-- R421, R423: a Zicsr instruction of steward `w` at `pc`. In user mode every register of the stewards is out of reach, and one that does
not exist, or a write to a read-only one, is an illegal instruction too. A debug module (`debug`) accesses as in machine mode and raises
nothing. -/
def State.stwCsr (s : State) (w : Nat) (debug : Bool) (pc a op v rd : Nat) : State :=
  let x := s.steward w
  let bad := (x.csr w (s.stwLevel w) (s.freeVal 64) a).isNone || (op != 0 && decide (0xC00 ≤ a))
  if bad || !(debug || x.machine) then (if debug then { s with answer := [] } else s.drawn.stwException w pc 2 (s.freeVal 64))
  else
    let old := (x.csr w (s.stwLevel w) (s.freeVal 64) a).getD 0
    let new := match op with
      | 1 => v
      | 2 => Nat.lor old v
      | _ => old - Nat.land old v
    let y := if op = 0 then (if a = 0xB00 ∨ a = 0xB02 then x.writeCsr a old else x) else x.writeCsr a (new % 2 ^ 64)
    let t := s.drawn.modSteward w fun _ => if debug then y else y.setX rd old
    (if debug then { t with answer := [old] } else t).revalidate

/-- R421, R423: what an instruction of steward `w`, or its debug module, does with the steward's registers. -/
def State.stwAct (s : State) (w : Nat) (debug : Bool) : StwAct → State
  | .setX n v => s.modSteward w fun x => x.setX n v
  | .getX n => { s with answer := [(s.steward w).getX n] }
  | .csr pc a op v rd => s.stwCsr w debug pc a op v rd
  | .load _ => s
  | .store _ _ => s

/-- R421: what the instructions of steward `w` have done with its registers. -/
def State.stwActs (s : State) (w : Nat) (acts : List StwAct) : State := acts.foldl (fun t e => t.stwAct w false e) s

/-- R431: steward `w` acknowledges the choice presented to it. -/
def State.acknowledge (s0 : State) (w pc : Nat) (acts : Bool × List StwAct) (machine : Bool) : State :=
  let s := (if s0.stwRuns w then (s0.stwActs w acts.2).modSteward w fun x => { x with mie := acts.1, machine := machine } else s0).revalidate
  match s.evc.choices.find? (·.stw == w) with
  | none => s
  | some e =>
    if s.frozen then s
    else
      let t := s.delivered e.src w e.fast
      if e.fast then t.enterFast e.src w pc e.vec else t.enterNormal e.src w pc e.vec

/-- R431: MRET of steward `w`. In user mode it is an illegal instruction. EVSRC names the handler that is then the innermost; at thread
level, where no handler is active, it keeps the number with bit 63 clear (DESIGN CHOICE, log 146). -/
def State.mret (s : State) (w pc : Nat) : State :=
  let x := s.steward w
  let lvl := s.rd (EVC.STW_STATE_LEVEL w)
  if !x.machine then s.stwException w pc 2 0x30200073
  else if lvl = 3 then
    let back := max 1 x.flevel
    (s.modSteward w fun x =>
      { x with
        pc := x.fepc, machine := x.fmachine, mie := x.fmie, fastBank := false,
        evsrc := if back = 2 then s.rd (EVC.STW_STATE_NSRC w) else x.evsrc, evfast := false }).wr
      (EVC.STW_STATE_LEVEL w) back
  else
    (s.modSteward w fun x =>
      { x with pc := x.mepc, mie := x.mpie, mpie := true, machine := x.mpp, mpp := false }).wr (EVC.STW_STATE_LEVEL w) 1

/-! ### Completions (R427, R437) -/

/-- R427: a stray completion. -/
def State.strayEoi (s : State) (n w : Nat) : State :=
  (s.count EVC.STRAY_EOI_COUNT 1).wrs [(EVC.STRAY_EOI_LAST, n), (EVC.STRAY_EOI_STW, w)]

/-- R427: steward `w` completes source `n`. -/
def State.complete (s : State) (n w : Nat) : State :=
  if (s.src n).active != some w then s.strayEoi n w
  else
    let t := s.modSrc n fun x => { x with active := none }
    let u := if t.flag (EVC.STW_STATE_NACT w) && t.rd (EVC.STW_STATE_NSRC w) == n then t.wr (EVC.STW_STATE_NACT w) 0 else t
    let v := if u.flag (EVC.STW_STATE_FACT w) && u.rd (EVC.STW_STATE_FSRC w) == n then u.wr (EVC.STW_STATE_FACT w) 0 else u
    v.levelTry n false

/-- R437: the host completes source `n`. -/
def State.hostEoi (s : State) (n : Nat) : State :=
  if !(s.src n).hpend then s.strayEoi n 4
  else
    let t := s.modSrc n fun x => { x with hpend := false }
    if !t.edgeSense n && (t.atLevel n || (t.src n).lat) then t.hostTry n else t

/-! ### Configuration (R426, R438) -/

/-- R426: a write to SET_PEND. -/
def State.setPend (s : State) (n : Nat) : State :=
  if !s.flag (EVC.SRC_CFG_EN n) then s.wr EVC.STATUS_WR_IGN 1
  else if s.edgeSense n then s.fire n
  else
    let was := s.srcPending n
    (s.modSrc n fun x => { x with lat := true }).levelTry n was

/-- R426: a write to CLR_PEND. -/
def State.clrPend (s : State) (n : Nat) : State :=
  ((s.modSrc n fun x => { x with lat := false, hwait := false }).recall fun e => e.src == n).levelTry n false

/-- R434, R438: a write of the bits `mask` of SRCn_CFG. -/
def State.writeSrcCfg (s : State) (n mask v : Nat) : State :=
  let sense := s.merged (EVC.SRC_CFG_SENSE n) mask v
  let fs := [EVC.SRC_CFG_EN n, EVC.SRC_CFG_SENSE n, EVC.SRC_CFG_FAST n, EVC.SRC_CFG_TARGET n, EVC.SRC_CFG_MOD n,
    EVC.SRC_CFG_MODVAL n, EVC.SRC_CFG_HOST n, EVC.SRC_CFG_MSIX n]
  if 5 ≤ sense ∨ s.merged (EVC.SRC_CFG_MOD n) mask v = 3 then s.wr EVC.STATUS_WR_IGN 1
  else
    let was := s.srcPending n
    let newSense := sense != s.rd (EVC.SRC_CFG_SENSE n)
    let t := s.wrs (fs.map fun f => (f, s.merged f mask v))
    let u := if newSense then t.modSrc n fun x => { x with lat := false, hwait := false } else t
    let w := if u.flag (EVC.SRC_CFG_EN n) then u
      else u.modSrc n fun x => { x with lat := false, hpend := false, hwait := false, hsend := false }
    (w.levelTry n (was && !newSense)).revalidate

/-! ### Commands -/

/-- SOURCE_INPUT (R424 to R426): the input of source `n` reaches the controller: its level as it stands, or the pulses
that wait for it, of which `merge` makes one. In DOZE and DORMANT the controller is stopped (R436). -/
def execSourceInput (n : Nat) (merge : Bool) (s : State) : Host.Outcome State Fault Refusal :=
  if 2048 ≤ n ∨ 2 ≤ s.power.sleep then .next s
  else if s.pulses.contains n then
    let rest := if merge then s.pulses.filter (· != n) else s.pulses.erase n
    .next (((({ s with pulses := rest }).setInput n true).setInput n false).revalidate)
  else .next ((s.setInput n (s.srcLevel n)).revalidate)

/-- SET_PEND (R426). -/
def execSetPend (n : Nat) (s : State) : Host.Outcome State Fault Refusal :=
  .next (s.atReg 0 EVC.SET_PEND_SRC.addr fun s => s.setPend (n % 2048))

/-- CLR_PEND (R426). -/
def execClrPend (n : Nat) (s : State) : Host.Outcome State Fault Refusal :=
  .next (s.atReg 0 EVC.CLR_PEND_SRC.addr fun s => s.clrPend (n % 2048))

/-- DOORBELL (R424). -/
def State.ringDoorbells (s : State) (v : Nat) : State := (onesBelow v 4).foldl (fun t d => t.pulse (1192 + d)) s

/-- DOORBELL (R424). -/
def execDoorbell (v : Nat) (s : State) : Host.Outcome State Fault Refusal :=
  .next (s.atReg 0 EVC.DOORBELL_RING.addr fun s => s.ringDoorbells v)

/-- R438: a write of SRCn_CFG, or of SRCn_VEC. -/
def State.writeSrc (s : State) (n : Nat) (vec : Bool) (mask v : Nat) : State :=
  if vec then s.wr (EVC.SRC_VEC_ADDR n) (s.merged (EVC.SRC_VEC_ADDR n) mask v) else s.writeSrcCfg n mask v

/-- SRC_CONFIG_WRITE (R438). -/
def execSrcConfigWrite (n : Nat) (vec : Bool) (mask v : Nat) (s : State) : Host.Outcome State Fault Refusal :=
  .next (s.atReg 0 (EVC.SRC_CFG_EN n).addr fun s => if n < 2048 then s.writeSrc n vec mask v else s)

/-- R429, R436: the controller makes a choice; `mie` holds the stewards' MIE bits. Sleeping stewards are woken. -/
def State.arbitrate (s0 : State) (mie : Nat) : State :=
  let s := (s0.takeMie mie).revalidate
  let t := match s.nextChoice with
    | some e => { s with evc := { s.evc with choices := s.evc.choices ++ [e] } }
    | none => s
  (s.srcOrder.filterMap s.sleeper).foldl State.wakeDeep t

/-- R436: some source is held back only by the stewards' sleep. -/
def State.anySleeper (s : State) : Bool := s.srcOrder.any fun n => (s.sleeper n).isSome

/-- DELIVERY (R429). In IDLE an event that only the sleep holds back ends the state (R413, R436), and in DOZE and DORMANT the controller
is stopped. -/
def execDelivery (mie : Nat) (s : State) : Host.Outcome State Fault Refusal :=
  .next (if s.frozen || decide (2 ≤ s.power.sleep) then s
    else if s.power.sleep = 1 then (if s.anySleeper then s.endIdle.arbitrate mie else s)
    else s.arbitrate mie)

/-- ACKNOWLEDGE (R431): steward `w` acknowledges at an instruction boundary, with its pc, MIE and privilege; `acts.2` is what its
instructions have done before. -/
def execAcknowledge (w pc : Nat) (acts : Bool × List StwAct) (machine : Bool) (s : State) : Host.Outcome State Fault Refusal :=
  .next (s.acknowledge w pc acts machine)

/-- RECALL (R430): the choice presented to steward `w` is not acknowledged in time. -/
def execRecall (w : Nat) (s : State) : Host.Outcome State Fault Refusal := .next (s.recall fun e => e.stw == w)

/-- R434, R435: a holdoff of source `n` ends, of its steward path or of its host path. -/
def State.holdoffEnd (s : State) (n : Nat) (host : Bool) : State :=
  if !host then s.modSrc n fun x => { x with hold := false }
  else
    let t := s.modSrc n fun x => { x with hhold := false, hwait := false }
    if (s.src n).hwait && (t.edgeSense n || t.atLevel n || (t.src n).lat) then t.hostTry n else t

/-- HOLDOFF_EXPIRY (R434). The timers do not count during freeze. -/
def execHoldoffExpiry (n : Nat) (host : Bool) (s : State) : Host.Outcome State Fault Refusal :=
  .next (if s.frozen then s else s.holdoffEnd n host)

/-- R427: a write of `n` to STWs_EOI of steward `w` by master `m`. -/
def State.writeEoi (s : State) (m w n : Nat) : State := if m = w then s.complete n w else s.wr EVC.STATUS_WR_IGN 1

/-- EOI (R427). -/
def execEoi (m w n : Nat) (s : State) : Host.Outcome State Fault Refusal :=
  .next (s.atReg m (EVC.STW_EOI_SRC w).addr fun s => s.writeEoi m w (n % 2048))

/-- HOST_EOI (R437). -/
def execHostEoi (n : Nat) (s : State) : Host.Outcome State Fault Refusal :=
  .next (s.atReg 4 EVC.HOST_EOI_SRC.addr fun s => s.hostEoi (n % 2048))

/-- MRET (R431): steward `w` executes MRET at `pc`. -/
def execMret (w pc : Nat) (s : State) : Host.Outcome State Fault Refusal := .next (if s.stwRuns w then s.mret w pc else s)

/-- WFI (R423): steward `w` executes WFI; `pc` is the instruction after it, `acts.1` its MIE, `acts.2` what its instructions have done
before. A choice that a steward asleep leaves is recalled (R430). -/
def execWfi (w pc : Nat) (acts : Bool × List StwAct) (s : State) : Host.Outcome State Fault Refusal :=
  .next (if s.stwRuns w then ((s.stwActs w acts.2).modSteward w fun x =>
    { x with wfi := true, pc := pc, mie := acts.1, deep := s.flag (EVC.STW_STATE_DEEP w) }).revalidate else s)

/-- STEWARD_EXCEPTION (R432): a synchronous exception of the instruction at `pc`, with its cause and value; `acts` is what the steward's
instructions have done before. -/
def execStewardException (w pc cause tval : Nat) (acts : List StwAct) (s : State) : Host.Outcome State Fault Refusal :=
  .next (if s.stwRuns w then (s.stwActs w acts).stwException w pc cause tval else s)

end Sys2Proof.Machine
end

