-- ==== Sys2Proof/Machine/LcDebug.lean ====
section
/-! DEFINITION. Life cycle, debug authorisation and freeze (spec/15), and the commands of Objor that run over several
steps (R347, R359, R365). -/

namespace Sys2Proof.Machine

/-! ### The stored state (R372 to R377) -/

/-- R373: the pattern of slot `j` in copy `c`. -/
def slotPattern (c j : Nat) : List Nat :=
  (List.range 4).map fun w => 0x4C435354 + 2 ^ 32 * j + 2 ^ 40 * c + 2 ^ 48 * w + 2 ^ 56 * 0xA55A

/-- R373: the code words of a unit-ID copy. -/
def uidPattern (id : Nat) : List Nat :=
  [bits id 0 64, bits id 64 64, notW (bits id 0 64) 64, notW (bits id 64 64) 64]

/-- R374: the class of slot `j` of copy `c`: 0 BLANK, 1 PATTERN, 2 BAD. -/
def State.slotClass (s : State) (c j : Nat) : Nat :=
  let k := 1024 * c + j
  if s.cwState k = 0 then 0 else if s.cwErrors k 0 ≤ 3 ∧ s.cwWords k = slotPattern c j then 1 else 2

/-- R374: unit-ID copy `c` is good; its value. -/
def State.uidCopy (s : State) (c : Nat) : Option Nat :=
  let ws := (s.cwWords (1024 * c)).map fun w => w % 2 ^ 64
  let id := ws.getD 0 0 + 2 ^ 64 * ws.getD 1 0
  if s.cwState (1024 * c) = 1 ∧ s.cwErrors (1024 * c) 0 ≤ 3 ∧ ws = uidPattern id then some id else none

/-- R375: the state of copy `c`; 7 when it is invalid. -/
def State.copyState (s : State) (c : Nat) : Nat :=
  match s.slotClass c 1, s.slotClass c 2, s.slotClass c 3 with
  | 0, 0, 0 => 0
  | 1, 0, 0 => 1
  | 1, 1, 0 => 2
  | 1, 1, 1 => 3
  | _, _, _ => 7

/-- The value that at least two of three share. -/
def majority (xs : List (Option Nat)) : Option Nat :=
  xs.findSome? fun x => match x with
    | some v => if 2 ≤ (xs.filter (· == some v)).length then some v else none
    | none => none

/-- R376: the state shared by two valid copies. -/
def State.sharedState (s : State) : Option Nat :=
  majority ((List.range 3).map fun c => if s.copyState c = 7 then none else some (s.copyState c))

/-- R376: the unit ID that two good copies share. -/
def State.sharedUid (s : State) : Option Nat := majority ((List.range 3).map s.uidCopy)

/-- R384: the open life-cycle records of the journal. -/
def State.openLc (s : State) : List (List Nat) := openRecords (s.goodEntries s.half)

/-- R376: the device state. -/
def State.lcState (s : State) : Nat :=
  match s.sharedState with
  | none => 7
  | some v =>
    if (v ≠ 0 ∧ s.sharedUid.isNone = true) ∨ s.openLc ≠ [] ∨ s.flag STO.STATUS_JRNL_LOST = true then 7 else v

/-- R377, R378: the decode. LC.STATE, LC.SLOTS, the unit ID and DBG.AUTH become valid. -/
def State.decodeLc (s : State) : State :=
  let v := s.lcState
  let openDbg := v == 0 || v == 1 || v == 3
  let id := if v = 0 then 0 else s.sharedUid.getD 0
  s.wrs [(LC.STATE_STATE, v), (LC.STATE_TEST_MODES, b2n openDbg), (LC.STATE_DEBUG_OPEN, b2n openDbg),
    (LC.STATE_JRNL_OPEN, b2n !s.openLc.isEmpty), (LC.STATE_JRNL_LOST, s.rd STO.STATUS_JRNL_LOST),
    (LC.STATE_COPY0, s.copyState 0), (LC.STATE_UID0, b2n (s.uidCopy 0).isSome),
    (LC.STATE_COPY1, s.copyState 1), (LC.STATE_UID1, b2n (s.uidCopy 1).isSome),
    (LC.STATE_COPY2, s.copyState 2), (LC.STATE_UID2, b2n (s.uidCopy 2).isSome),
    (LC.SLOTS_S0_1, s.slotClass 0 1), (LC.SLOTS_S0_2, s.slotClass 0 2), (LC.SLOTS_S0_3, s.slotClass 0 3),
    (LC.SLOTS_S1_1, s.slotClass 1 1), (LC.SLOTS_S1_2, s.slotClass 1 2), (LC.SLOTS_S1_3, s.slotClass 1 3),
    (LC.SLOTS_S2_1, s.slotClass 2 1), (LC.SLOTS_S2_2, s.slotClass 2 2), (LC.SLOTS_S2_3, s.slotClass 2 3),
    (LC.UNIT_ID0_ID, bits id 0 64), (LC.UNIT_ID1_ID, bits id 64 64), (LC.PROGRESS_PHASE, 0), (LC.PROGRESS_TARGET, 0),
    (LC.PROGRESS_ITEM, 0), (LC.PROGRESS_DDR_SKIPPED, 0), (LC.PROGRESS_SEQ, 0),
    (DBG.AUTH_PERM, if openDbg then 15 else 0), (DBG.AUTH_OPEN, b2n openDbg), (DBG.AUTH_TOKENS, 0)]

/-! ### Transitions (R378 to R386) -/

/-- R384: a life-cycle record; `mark` is 1 OPEN or 2 CLOSE. -/
def lcRecord (target mark seq hash : Nat) : List Nat :=
  [0x10 + 2 ^ 20 * target + 2 ^ 24 * mark + 2 ^ 32 * (seq % 2 ^ 32), bits hash 0 64, bits hash 64 64, bits hash 128 64]

/-- R372: the transitions. -/
def lcAllowed (st target : Nat) : Bool :=
  [(0, 1), (1, 2), (1, 3), (2, 3), (7, 3)].contains (st, target)

/-- R382: item `i` of the table, from 1, is wiped. -/
def State.wipeItem (s : State) (i : Nat) : State :=
  let t := s.wr LC.PROGRESS_ITEM i
  match i with
  | 1 =>
    let u := (((List.range 4).foldl (fun t k => t.eraseNow (2 + k)) t).resetRegs 0x100400 0x100600).resetRegs 0x100800 0x100C00
    { u.wr OBJ.STATUS_IDENT 0 with objor := { u.objor with ident := none, cert := [], slots := [], owners := [], fleets := [] } }
  | 2 => (List.range 504).foldl (fun t k => t.eraseNow (8 + k)) t
  | 3 => t.logTurn [(0, max (t.ceiling 0 0) (t.rd OBJ.SEAL_CNT_NEXT), 0)]
  | 4 => (List.range 32).foldl (fun t b =>
      (t.resetRegs (blockBase b + 0x20010) (blockBase b + 0x20030)).modBlock b fun x =>
        { x with planeA := Plane.blank, planeB := Plane.blank }) t
  | 5 =>
    let u := (List.range 256).foldl (fun t c => t.clearMem (padBase c) (padBase c + 0x20000)) (t.closeBonds fun _ => true)
    let v := (List.range 32).foldl (fun t b => t.clearMem (depotBase b) (depotBase b + 0x100000)) u
    (v.clearMem accountsBase (accountsBase + 0x2000000)).clearMem oasisBase (oasisBase + 0x40000)
  | 6 =>
    let u := (List.range 256).foldl (fun t c => (List.range 4).foldl (fun u k => u.wrs [(CEL.XOW_BASE c k, 0),
      (CEL.XOW_LIMIT c k, 0), (CEL.XOW_SYS c k, 0), (CEL.XOW_MSLOT c k, 0), (CEL.XOW_VALID c k, 0)]) t) t
    let v := (List.range 16).foldl (fun t k => t.wrs [(STO.XO_BASE k, 0), (STO.XO_LIMIT k, 0), (STO.XO_VALID k, 0),
      (STO.XO_MSLOT k, 0)]) u
    { v with objor := { v.objor with nonce0 := none, nonce1 := none, seeds := v.objor.seeds + 1, draws := 0 } }
  | _ => (List.range 4).foldl (fun t r =>
      if t.rd (DDR.STATUS_STATE r) = ddrReady then t.clearMem (ddrBase r) (ddrBase r + 16 * t.ddrCapacity r)
      else t.wr LC.PROGRESS_DDR_SKIPPED 1) t

/-- R382: item `i` is wiped and does not verify. An erase leaves its first sector torn; what a word of another item that
reads back wrong holds, no rule says (log 145). -/
def State.wipeFails (s : State) (i : Nat) : State :=
  match i with
  | 1 => (s.wipeItem 1).eraseFails 2
  | 2 => (s.wipeItem 2).eraseFails 8
  | _ => s.wipeItem i

/-- R382: the items from `i` up are wiped, `n` of them. -/
def State.wipeItems (s : State) (i n : Nat) : State := (List.range n).foldl (fun t j => t.wipeItem (i + j)) s

/-- R381 step 2, R382: the wipe and its verification. Where `bad` names an item, that item does not verify: once, or, with
`third`, three times, which ends the wipe; the answer says whether the wipe is done. -/
def State.wipe (s : State) (bad : Option Nat) (third : Bool) : Bool × State :=
  match bad with
  | none => (true, (s.wipeItems 1 7).wr LC.PROGRESS_PHASE 3)
  | some i =>
    let t := (s.wipeItems 1 (i - 1)).wipeFails i
    if third then (false, ((t.wipeFails i).wipeFails i).wr LC.PROGRESS_PHASE 3)
    else (true, (t.wipeItems i (8 - i)).wr LC.PROGRESS_PHASE 3)

/-- R381 step 2: stewards, caravans and Plane Writers stop, and all lanes go safe. -/
def State.stopAll (s : State) : State :=
  let s1 := (List.range 4).foldl (fun t w => t.modSteward w fun x => { x with inReset := true }) s
  let s2 := (s1.allLeads.foldl State.abortRun s1).safeCells 1 (List.range 256)
  (List.range 32).foldl (fun t b => if (t.block b).pw.isSome then (t.drawn).pwEnd b (t.freeVal 4) 0 else t) s2

/-- R381 step 4: the code words that a transition to `target` still has to program. -/
def State.slotsToWrite (s : State) (target : Nat) : List (Nat × Nat) :=
  (List.range 3).flatMap fun c => ((List.range target).map fun j => (c, j + 1)).filter fun e => s.slotClass e.1 e.2 == 0

/-- R381, R327: the code words of `ws` are programmed in order. The first `k` verify, or all where `fails` is false; the next
is left bad as `spoil` says. A code word that is not blank ends it too, with nothing written. Whether all are programmed. -/
def State.lcProgram (s : State) (fails : Bool) (k : Nat) (spoil : Bool) : List (Nat × List Nat) → Bool × State
  | [] => (true, s)
  | w :: ws =>
    if s.cwState w.1 ≠ 0 then (false, s)
    else match fails, k with
      | true, 0 => (false, s.programBad w.1 w.2 spoil)
      | _, _ => (s.programNow w.1 w.2).lcProgram fails (k - 1) spoil ws

/-- R381 step 5, R384, R386: the closing record of an open record `e`. -/
def closing (e : List Nat) : List Nat := [e.getD 0 0 + 2 ^ 24, e.getD 1 0, e.getD 2 0, e.getD 3 0]

/-- R381 step 5: the records that are open close; where `bad` says so the first closing record does not verify. -/
def State.lcClose (s : State) (bad spoil : Bool) : Bool × State :=
  match bad, s.openLc with
  | true, e :: _ => (false, s.journalBad (closing e) spoil)
  | _, es => (true, (es.foldl (fun t e => t.journal (closing e)) s).rollNow)

/-- R381 steps 2 to 6. `fail` is the step whose Store result is not OK (0: none): of step 2 the item `k` mod 7 + 1, for the
third time where `spoil` says so; of steps 3 and 4 after `k` of its code words; a code word is left bad where `spoil` says so.
`ids` are the copies whose unit-ID code words step 3 programs. -/
def State.runLc (s0 : State) (target uid seq fail k : Nat) (spoil : Bool) (ids : List Nat) : MbRes :=
  let s := s0.wrs [(LC.PROGRESS_PHASE, 1), (LC.PROGRESS_TARGET, target), (LC.PROGRESS_SEQ, seq)]
  match (if target = 3 then (s.stopAll.wr LC.PROGRESS_PHASE 2).wipe (if fail = 2 then some (k % 7 + 1) else none) spoil else (true, s)) with
  | (false, s2) => ⟨6, 0xB, s2⟩
  | (true, s2) => match s2.lcProgram (fail == 3) k spoil (ids.map fun c => (1024 * c, uidPattern uid)) with
    | (false, s3) => ⟨6, 0xB, s3⟩
    | (true, s3) =>
      let s4 := s3.wr LC.PROGRESS_PHASE 4
      match s4.lcProgram (fail == 4) k spoil
          ((s4.slotsToWrite target).map fun e => (1024 * e.1 + e.2, slotPattern e.1 e.2)) with
      | (false, s5) => ⟨6, 0xB, s5⟩
      | (true, s5) => match (s5.wr LC.PROGRESS_PHASE 5).lcClose (fail == 5) spoil with
        | (false, s6) => ⟨6, 0xB, s6⟩
        | (true, s6) => ⟨0, 0, { s6 with rst := { s6.rst with due := some 4 } }⟩

/-- R379 to R381: REQUEST. -/
def lcRequest (fail k : Nat) (spoil : Bool) (s : State) (m : Nat) : MbRes :=
  s.withBytes (s.arg m 1) 168 fun s b =>
    let st := s.rd LC.STATE_STATE
    let target := le b 4 1
    let sid := le b 56 16
    let uid := le b 8 16
    let msg := b.take 72
    if !lcAllowed st target || (target == 2 && (s.objor.ident.isNone || s.objor.cert.isEmpty)) then ⟨3, 0, s⟩
    else if sid ≠ 0 ∧ (st ≠ 2 ∨ target ≠ 3 ∨ (s.ownerWith sid 2).isNone = true) then ⟨4, 3, s⟩
    else if !s.signedBy sid 2 msg (le b 72 96) then ⟨4, 4, s⟩
    else if (st ≠ 0 ∧ uid ≠ s.unitId) ∨ s.nonce m ≠ some (le b 24 32) then ⟨4, 0xE, s⟩
    else if le b 0 4 ≠ 0x434C5848 ∨ le b 5 3 ≠ 0 then ⟨2, 1, s⟩
    else s.withStore fun s =>
      let seq := s.rd STO.JSEQ_SEQ
      let r := lcRecord target 1 seq (Config.sha384 b)
      if fail = 1 then
        ⟨6, 0xB, ((s.setNonce m none).journalBad r spoil).wrs
          [(LC.PROGRESS_PHASE, 1), (LC.PROGRESS_TARGET, target), (LC.PROGRESS_SEQ, seq)]⟩
      else ((s.setNonce m none).journal r).rollNow.runLc target uid seq fail k spoil (if st = 0 then [0, 1, 2] else [])

/-- R385: ROLL_FORWARD; step 1 is not run again. The unit-ID code words that an interrupted step 3 left blank are programmed with
that of a good copy; a unit without one keeps none that the journal could give, so the value is free (log 31). -/
def lcRoll (fail k : Nat) (spoil : Bool) (s : State) (_m : Nat) : MbRes :=
  match s.openLc.getLast? with
  | none => ⟨3, 0, s⟩
  | some e =>
    if s.rd LC.STATE_STATE ≠ 7 then ⟨3, 0, s⟩
    else s.withStore fun s =>
      let target := bits (e.getD 0 0) 20 2
      let uid := ((List.range 3).findSome? s.uidCopy)
      let ids := if target = 1 then (List.range 3).filter fun c => s.cwState (1024 * c) == 0 else []
      let t := if !ids.isEmpty && uid.isNone then s.drawn.drawn else s
      let id := uid.getD (s.freeVal 64 + 2 ^ 64 * s.drawn.freeVal 64)
      t.runLc target id (entSeq (e.getD 0 0)) fail k spoil ids

/-- R378: NONCE, served in every state. -/
def lcNonce (s : State) (m : Nat) : MbRes := ⟨0, 0, s.giveNonce m⟩

/-- LC_REQUEST (R381): the request is carried out; `fail`, `k` and `spoil` tell which Store step fails. -/
def execLcRequest (m fail k : Nat) (spoil : Bool) (s : State) : Host.Outcome State Fault Refusal :=
  .next (s.mbRow m 6 anyState false (lcRequest fail k spoil))

/-- ROLL_FORWARD (R385). -/
def execRollForward (m fail k : Nat) (spoil : Bool) (s : State) : Host.Outcome State Fault Refusal :=
  .next (s.mbRow m 6 anyState false (lcRoll fail k spoil))

/-- NONCE (R350, R378). -/
def execNonce (m : Nat) (s : State) : Host.Outcome State Fault Refusal := .next (s.mbRow m 6 anyState false lcNonce)

/-! ### Debug tokens (R387, R388) -/

/-- DEBUG_AUTH (R387). -/
def debugAuth (s : State) (m : Nat) : MbRes :=
  s.withBytes (s.arg m 1) 168 fun s b =>
    let sid := le b 56 16
    let perm := le b 4 1
    if sid ≠ 0 ∧ (s.ownerWith sid 1).isNone = true then ⟨4, 3, s⟩
    else if !s.signedBy sid 1 (b.take 72) (le b 72 96) then ⟨4, 4, s⟩
    else if le b 8 16 ≠ s.unitId ∨ s.nonce m ≠ some (le b 24 32) then ⟨4, 0xE, s⟩
    else if le b 0 4 ≠ 0x54445848 ∨ 16 ≤ perm ∨ le b 5 3 ≠ 0 then ⟨2, 1, s⟩
    else
      let t := ((s.setNonce m none).wr DBG.AUTH_PERM (Nat.lor (s.rd DBG.AUTH_PERM) perm)).count DBG.AUTH_TOKENS 1
      ⟨0, 0, if bitOf perm 2 then State.approvedNow { t with objor := { t.objor with scanToken := true } } else t⟩

/-- DEBUG_AUTH (R387). -/
def execDebugAuth (m : Nat) (s : State) : Host.Outcome State Fault Refusal := .next (s.mbRow m 7 [2] false debugAuth)

/-! ### Commands of Objor over several steps (R347) -/

/-- R349: the command that a write of OP to a mailbox gives; `bad` says that a Store step, or a self-test, fails. -/
def State.mbCommand (s : State) (m op : Nat) (bad : Bool) : State :=
  let sub := bits (s.arg m 0) 0 2
  match op with
  | 1 => match sub with
    | 0 => s.mailbox m 1 anyState true identityRead
    | 1 => s.mailbox m 1 [1] false (generate bad)
    | 2 => s.mailbox m 1 [1] false (setCert bad)
    | _ => s.mailbox m 1 anyState false fun t _ => ⟨2, 0, t⟩
  | 2 => s.mailbox m 2 [1, 2] false installManifest
  | 3 => s.mailbox m 3 [2] true openBonded
  | 4 => s.mailbox m 4 [1, 2] true closeBonded
  | 5 => s.mailbox m 5 [1, 2] true issueSeal
  | 6 => match sub with
    | 0 => s.drawn.mailbox m 6 anyState false (lcRequest (b2n bad) 0 (s.freeVal 1 == 1))
    | 1 => s.drawn.mailbox m 6 anyState false (lcRoll (5 * b2n bad) 0 (s.freeVal 1 == 1))
    | 2 => s.mailbox m 6 anyState false lcNonce
    | _ => s.mailbox m 6 anyState false fun t _ => ⟨2, 0, t⟩
  | 7 => s.mailbox m 7 [2] false debugAuth
  | 8 => s.mailbox m 8 [1, 2] false (registerOwner none bad)
  | 9 => if bitOf (s.arg m 0) 0 then s.mailbox m 9 anyState false (katRerun (if bad then 0 else 1023))
    else s.mailbox m 9 anyState true katStatus
  | 0xA => s.mailbox m 0xA [1, 2] false (zeroise bad)
  | _ => s.mailbox m op anyState false fun t _ => ⟨2, 0, t⟩

/-- R347: the commands that waited run in order of acceptance until one of them runs on or has to wait; `bads` tells for each
whether a step of it fails. -/
def State.runQueued (s : State) (bads : List Bool) : Nat → State
  | 0 => s
  | n + 1 =>
    match s.objor.queue with
    | [] => s
    | e :: _ =>
      if s.objor.install.isSome || s.objor.sealRun.isSome then s
      else
        let t := s.mbCommand e.1 e.2 (bads.headD false)
        if t.objor.queue.head? = some e then t else t.runQueued bads.tail n

/-- INSTALL_MANIFEST (R357). -/
def execInstallManifest (m : Nat) (s : State) : Host.Outcome State Fault Refusal :=
  .next (s.mbRow m 2 [1, 2] false installManifest)

/-- INSTALL_DONE (R359): pass 2 of the install ends, when its Plane Writers have; bit 0 of `bad` says that a Store program of
it fails, bit 1 that an erase of the undo does; `bads` is for the commands that waited. -/
def execInstallDone (bad : Nat) (bads : List Bool) (s : State) : Host.Outcome State Fault Refusal :=
  .next (match s.objor.install with
    | some r => if s.imagesBusy r || s.objor.sealRun.isSome || s.frozen then s
      else (s.installEnd r bad).runQueued bads s.objor.queue.length
    | none => s)

/-- ISSUE_SEAL (R365). -/
def execIssueSeal (m : Nat) (s : State) : Host.Outcome State Fault Refusal := .next (s.mbRow m 5 [1, 2] true issueSeal)

/-- SEAL_WRITE (R365 to R368): the digest is done, and the seal is signed and written; `bad` says that a Store step
fails, `bads` is for the commands that waited. A digest that another request held up starts now. -/
def execSealWrite (bad : Bool) (bads : List Bool) (s : State) : Host.Outcome State Fault Refusal :=
  .next (match s.objor.sealRun with
    | some x =>
      if s.frozen then s
      else if !x.digested then
        if s.flag (LDG.STATUS_DIG_BUSY (regionOf x.lead)) then s
        else
          let t := s.startDigest x.lead
          { t with objor := { t.objor with sealRun := some { x with digested := true } } }
      else if x.digest.isNone then s
      else (s.sealEnd x bad).runQueued bads s.objor.queue.length
    | none => s)

/-- SELF_TEST_COMPLETE (R344, R359, R368): the pre-operational tests end with the results `pass`; interrupted installs
are undone, which waits while the Store takes no command (R325); the first of `bad` says that Objor senses no seal-counter
entry even where one is programmed, the second that an erase of an undo does not verify (R334). -/
def execSelfTestComplete (pass : Nat) (bad : Bool × Bool) (s : State) : Host.Outcome State Fault Refusal :=
  .next (if s.flag OBJ.STATUS_READY || s.flag OBJ.STATUS_ERROR ||
      ((List.range 15).any fun k => s.rd (OBJ.SLOT_A_STATE (k + 1)) == 1 && s.eraseWaits (k + 1)) then s else
    let s1 := (List.range 15).foldl (fun t k =>
      if t.rd (OBJ.SLOT_A_STATE (k + 1)) = 1 then t.zeroiseSlot (k + 1) (!bad.2) else t) s
    let s2 := s1.katResult pass
    let s3 := if s2.logLost || (bad.1 && s2.objor.ident.isSome) then s2.objorError else s2
    if s3.flag OBJ.STATUS_ERROR then s3
    else (s3.wrs [(OBJ.STATUS_READY, 1), (OBJ.STATUS_IDENT, b2n s3.objor.ident.isSome)]).approvedNow)

/-! ### Freeze (R391 to R397) -/

/-- FREEZE_PIN (R391): FREEZE_N falls. -/
def execFreezePin (s : State) : Host.Outcome State Fault Refusal :=
  .next (if s.flag DBG.FRZ_CTRL_PIN_EN then s.triggerFreeze 1 0 else s)

/-- FREEZE_REGISTER (R391, R394): FRZ_CTRL.FREEZE is written 1. -/
def execFreezeRegister (s : State) : Host.Outcome State Fault Refusal :=
  .next (s.atReg 0 DBG.FRZ_CTRL_FREEZE.addr fun s => s.triggerFreeze 2 0)

/-- R210: the stride clock runs on under a freeze: every scheduled compare edge of the caravan led by `l` is judged. -/
def State.clockRanOn (s : State) (l : Nat) : State :=
  s.modRun l fun x => { x with unresolved := x.unresolved.map fun v =>
    { v with cells := v.cells.map fun m => { m with due := 0 } } }

/-- R392 steps 3 to 5: the last frozen domain has stopped, `fio` cycles after the latch; the transit queues are captured. -/
def State.freezeEntered (s : State) (fio : Nat) : State :=
  if !s.flag DBG.FRZ_STATUS_ENTERING then s
  else
    let s1 := ((s.cells.map (·.1)).filter (· < 256)).foldl State.flushEdges (s.allLeads.foldl State.clockRanOn s)
    let t := (List.range 4).foldl (fun u r =>
      if u.rd (DDR.STATUS_STATE r) = ddrReady then u.setDdr r ddrSelfRefresh else u) s1
    let u := { t.drawn with rst := { t.rst with capture := some t.freeCtr } }
    ((u.wrs [(DBG.FRZ_STATUS_ENTERING, 0), (DBG.FRZ_STATUS_FROZEN, 1), (DBG.FRZ_STATUS_ENTRY_FIO, fio),
      (DBG.TQ_PTR_VALID, 1)]).count DBG.FRZ_COUNT_FREEZES 1).pulse 1191

/-- FREEZE_ENTERED (R392). -/
def execFreezeEntered (fio : Nat) (s : State) : Host.Outcome State Fault Refusal := .next (s.freezeEntered fio)

/-- R396: the freeze ends: channels leave self-refresh, the stopped clocks run again and what waited for them goes on. -/
def State.thaw (s : State) : State :=
  if !s.flag DBG.FRZ_STATUS_FROZEN then s.wr DBG.FRZ_STATUS_WR_IGN 1
  else
    let t := (List.range 4).foldl (fun u r =>
      if u.rd (DDR.STATUS_STATE r) = ddrSelfRefresh ∧ u.regionOn r = true then u.setDdr r ddrReady else u) s
    let u := ({ t with rst := { t.rst with capture := none } }).wrs [(DBG.FRZ_STATUS_FROZEN, 0), (DBG.TQ_PTR_VALID, 0)]
    (List.range 32).foldl (fun v b => if v.clockRuns b then (v.showUi b).clockStarted b else v) u

/-- THAW (R396, R394). -/
def execThaw (s : State) : Host.Outcome State Fault Refusal :=
  .next (s.atReg 0 DBG.FRZ_CTRL_THAW.addr fun s => s.thaw)

/-- R391, R513: the device pulls FREEZE_N low; RESET_N releases it. -/
def State.freezeLow (s : State) : Bool := s.rst.due != some 2 && s.flag DBG.FRZ_STATUS_FROZEN && s.flag DBG.FRZ_CTRL_DRIVE

end Sys2Proof.Machine
end

