-- ==== Sys2Proof/Machine/Pads.lean ====
section
/-! DEFINITION. The pads of the general-purpose pins: what a pin drives and what it shows (R465 to R471). -/

namespace Sys2Proof.Machine

/-- R465: the supply of pin `n`'s bank is absent. -/
def bankAbsent (n : Nat) : Bool := Config.bankSupply (n / 32) % 3 == 0

/-- R468: the hold of pin `n`. -/
def State.pinHold (s : State) (n : Nat) : Option PinHold := s.gpio.holds.find? (·.pin == n)

/-- R467, R468: the function of pin `n` that drives and listens; in a hold that is the old one. -/
def State.pinFunc (s : State) (n : Nat) : Nat := ((s.pinHold n).map (·.func)).getD (s.rd (GPIO.PIN_FUNC n))
/-- R467, R468: its SEL. -/
def State.pinSel (s : State) (n : Nat) : Nat := ((s.pinHold n).map (·.sel)).getD (s.rd (GPIO.PIN_SEL n))

/-- R467: GP32 to GP43 are at function 5. -/
def State.hpiPins (s : State) : Bool := (List.range 12).all fun k => s.pinFunc (32 + k) == 5

/-- R467, R475: what timer `k` drives where that does not change with its count. -/
def State.timerOut (s : State) (k : Nat) : Option (Bool × Bool) :=
  let p := Tab.get (0, 0) s.gpio.pwm k
  if s.flag (GPIO.TMRC_CAPTURE k) then some (false, false)
  else if p.2 = 0 then some (true, false)
  else if p.1 ≤ p.2 then some (true, true) else none

/-- R467 to R469, R471: the output enable and level of pin `n` where its bank, its hold, its function and the state fix them; none where
a bus, a count or the board does. The pulses of GP89 and GP90 are over when the command that gives them ends. -/
def State.pinOut (s : State) (n : Nat) : Option (Bool × Bool) :=
  if bankAbsent n then some (false, false)
  else match s.gpio.pads[n]?, s.pinHold n with
  | some e, _ => some e
  | none, some h => some (h.oe == 1, h.level == 1)
  | none, none =>
    let sel := s.rd (GPIO.PIN_SEL n)
    match s.rd (GPIO.PIN_FUNC n) with
    | 0 => some (bitOf (s.rd (GPIO.OE_OE (n / 32))) (n % 32), bitOf (s.rd (GPIO.OUT_OUT (n / 32))) (n % 32))
    | 5 =>
      if n = 32 ∨ n = 35 then some (false, false)
      else if n = 33 then some (true, !s.gpio.eotLow)
      else if n = 34 then some (true, s.gpio.hpi != .strobe)
      else some (true, bitOf s.gpio.bin (n - 36))
    | 6 =>
      let x := s.block (n / 3)
      if s.blockOn (n / 3) && x.loaded then some (bitOf x.userIo (3 + n % 3), bitOf x.userIo (n % 3)) else some (true, false)
    | 7 => some (true, s.isLead (sel % 256) && bitOf (s.run (sel % 256)).flags (sel / 256))
    | 8 => if n = 88 then (if s.flag CVY.STATUS_FLAG_OUT then some (true, false) else none) else some (true, false)
    | 9 => s.timerOut (sel % 8)
    | 10 => if 64 ≤ n ∧ n < 80 then
        let j := (n - 64) / 4
        let src := s.rd (([GPIO.TRACE_SRC0 j, GPIO.TRACE_SRC1 j, GPIO.TRACE_SRC2 j, GPIO.TRACE_SRC3 j]).getD (n % 4) (GPIO.TRACE_SRC0 j))
        some (true, (s.src src).inp)
      else none
    | _ => none

/-- R465, R469: the level that GPIO.IN shows of pin `n` where the device drives it; none where the board does. -/
def State.pinIn (s : State) (n : Nat) : Option Bool :=
  if bankAbsent n then some false
  else match s.pinOut n with
    | some (true, v) => if s.flag (GPIO.PIN_OD n) && v then none else some v
    | _ => none

/-- R468: an edge at pin `n` reaches the peripheral of its function: the bank has its supply and no hold keeps the input. -/
def State.pinListens (s : State) (n : Nat) : Bool := !bankAbsent n && (s.pinHold n).isNone

/-- R467: the pin that the input of capture timer `k` connects to: the lowest-numbered one that selects it. -/
def State.capturePin (s : State) (k : Nat) : Option Nat :=
  (List.range 96).find? fun n => s.pinFunc n == 9 && s.pinSel n % 8 == k

/-- R468, R470: the level of pin `n` that the pattern-match units see, where the state fixes it. -/
def State.pinSeen (s : State) (n : Nat) : Option Bool :=
  match s.pinHold n with
  | some h => some (h.inp == 1)
  | none => s.pinIn n

/-- R470, R465: the condition C of unit `k` where the state fixes it. The pins of an absent bank take no part. -/
def State.patternCond (s : State) (k : Nat) : Option Bool :=
  let base := s.rd (GPIO.PM_CFG_BASE k)
  let is := (onesBelow (s.rd (GPIO.PM_CFG_MASK k)) 16).filter fun i => !bankAbsent (base + i)
  let differs (i : Nat) : Option Bool := (s.pinSeen (base + i)).map fun v => v != bitOf (s.rd (GPIO.PM_CFG_VALUE k)) i
  if is.any fun i => differs i == some true then some false
  else if is.all fun i => differs i == some false then some true else none

/-- R467, R457: GP89 (`start` false) or GP90 gives a pulse at an acting instant, where it has function 8. -/
def State.auxPulse (s : State) (start : Bool) : State :=
  let n := if start then 90 else 89
  if s.pinFunc n == 8 && !bankAbsent n then
    { s with gpio := if start then { s.gpio with auxStart := s.gpio.auxStart + 1 } else { s.gpio with auxSync := s.gpio.auxSync + 1 } }
  else s

end Sys2Proof.Machine
end

