-- ==== Sys2Proof/Machine/Power.lean ====
section
/-! DEFINITION. Power states and domains (spec/16): performance levels, sleep, domain commands, wakes. The wake that
restores the device is in `Resets`. -/

namespace Sys2Proof.Machine

/-! ### PWR.CMD (R11, R403) -/

/-- A PWR command completes. -/
def State.pwrDone (s : State) (op st : Nat) (aborted : Bool) : State :=
  s.wrs [(PWR.CMD_STATUS_STATUS, st), (PWR.CMD_STATUS_OP, op), (PWR.CMD_STATUS_PEND, 0), (PWR.CMD_STATUS_ABORTED, b2n aborted),
    (if op = 1 then PWR.EVT_LEVEL_DONE else PWR.EVT_DOMAIN_DONE, 1)]

/-- R13: a PWR command is refused. -/
def State.pwrReject (s : State) (op st : Nat) : State :=
  let t := s.reject PWR.REJECT_COUNT PWR.LAST_REJECT_CODE PWR.LAST_REJECT_STATUS op st
  if s.flag PWR.CMD_STATUS_PEND then t else t.wrs [(PWR.CMD_STATUS_STATUS, st), (PWR.CMD_STATUS_OP, op), (PWR.CMD_STATUS_ABORTED, 0)]

/-- A PWR command runs. -/
def State.pwrStart (s : State) (op : Nat) : State :=
  s.wrs [(PWR.CMD_STATUS_PEND, 1), (PWR.CMD_STATUS_OP, op), (PWR.CMD_STATUS_ABORTED, 0)]

/-- R407: a transition of a domain, a sleep state or a level runs. -/
def State.inTransition (s : State) : Bool :=
  s.power.entry.isSome || s.power.levelRun.isSome || s.power.redo || !s.power.rising.isEmpty || s.power.sleep != 0

/-- R407: a command is pending or a transition runs. -/
def State.pwrBusy (s : State) : Bool := s.flag PWR.CMD_STATUS_PEND || s.inTransition

/-! ### Performance levels (R402 to R405) -/

/-- R178: some block PLL that is not OFF, or that is about to relock, has a target above the limits of a level. -/
def State.levelTooLow (s : State) (level : Nat) : Bool :=
  (List.range 32).any fun b => s.blockOn b && (s.rd (PLL.STATUS_STATE b) != pllOff || (s.block b).pll.isSome) &&
    s.overLimit (s.pllTarget b) level

/-- R403 step 3: the domains move to the FIO, the chip PLL relocks and the new limits apply. -/
def State.levelToPll (s : State) (r : LevelRun) : State :=
  let t := { s.wrs [(CHIP.CLK_STATUS_ON_PLL, 0), (CHIP.CLK_STATUS_PLL_LOCK, 0)] with
    power := { s.power with levelRun := some { r with atPll := true } } }
  (List.range 32).foldl (fun u b => if u.blockOn b then u.reclamp b (u.pllTarget b) else u) t

/-- R403 step 6: the level change is complete. -/
def State.levelEnd (s : State) (level st lag : Nat) : State :=
  ({ s with power := { s.power with levelRun := none, redo := false } }).wrs
    [(PWR.STATUS_LEVEL, level), (PWR.STATUS_VOLT_LAG, lag)] |>.pwrDone 1 st false

/-- R403: a SET_LEVEL is judged. -/
def State.changeLevel (s : State) (level : Nat) : State :=
  let now := s.rd PWR.STATUS_LEVEL
  let pmb := s.flag PWR.PMB_EN
  if (decide (now < level ∧ level ≤ 3) && s.levelTooLow level) || (!s.flag CHIP.CLK_STATUS_ON_PLL && s.flag CHIP.CLK_STATUS_FALLBACK)
    then s.pwrReject 1 3
  else if 3 < level then s.pwrReject 1 2
  else if level = now then
    if !s.flag PWR.STATUS_VOLT_LAG || !pmb then s.pwrDone 1 0 false
    else { s.pwrStart 1 with power := { s.power with redo := true } }
  else
    let t := s.pwrStart 1
    let r : LevelRun := ⟨level, decide (level < now), false⟩
    if r.raising && pmb then { t with power := { t.power with levelRun := some r } } else t.levelToPll r

/-! ### Refusers (R408) -/

/-- R408: refuser 0 for the cells and blocks of a list of blocks. -/
def State.refuseCaravan (s : State) (bs : List Nat) : Bool :=
  bs.any fun b => s.blockBusy b || !(s.block b).merger.isEmpty || (blockCells b).any fun c => !(s.cell c).failQ.isEmpty

/-- R408: refuser 1 for the stream descriptors and Plane Writers of a list of blocks. -/
def State.refuseDma (s : State) (bs : List Nat) : Bool :=
  bs.any fun b => (s.block b).pw.isSome ||
    (blockCells b).any fun c => (List.range 4).any fun n => s.flag (SEQ.SD_CTRL_ACTIVE c n)

/-- R408: the link state lets the sleep state be entered. -/
def linkAllows (state l : Nat) : Bool := l == 0 || (if state = 2 then l == 2 || l == 3 || l == 4 else l == 5)

/-- R408: refuser `k` holds against sleep state `state`. -/
def State.refuser (s : State) (state k : Nat) : Bool :=
  let deep := decide (2 ≤ state)
  match k with
  | 0 => s.refuseCaravan (List.range 32)
  | 1 => s.refuseDma (List.range 32) || (List.range 8).any fun i => s.flag (DMA.STATUS_PEND i)
  | 2 => deep && s.flag STO.STATUS_BUSY
  | 3 => deep && (s.flag OBJ.STATUS_BUSY || (List.range 16).any fun n => s.rd (OBJ.SLOT_A_STATE n) == 1)
  | 4 => ((List.range 4).any fun w => s.flag (EVC.STW_STATE_HELD w) || (s.steward w).attached) || (s.rst.ir != 1 && s.rst.ir != 0xFF)
  | 5 => deep && !linkAllows state (s.rd PCI.STATUS_LSTATE)
  | 6 => s.frozen
  | _ => !s.power.wakes.isEmpty

/-- R408: the refusers that hold, lowest first. -/
def State.refusers (s : State) (state : Nat) : List Nat := (List.range 8).filter (s.refuser state)

/-- R418, R419: a request that waits for the compatibility mode to power a domain it needs. -/
def State.legacyWants (s : State) (blocks regions : Nat) : Bool :=
  let wants (t : Target) : Bool := (t.domains.1.any (bitOf blocks)) || (t.domains.2.any (bitOf regions))
  s.flag PWR.CTRL_LEGACY_WAKE && s.net.waiting.any fun q => wants q.target

/-- R408, R411, R416: what stops the entry of a POWER_OFF. -/
def State.offRefusers (s : State) (e : Entry) : List Nat :=
  let bs := onesBelow e.blocks 32
  (if s.refuseCaravan bs then [0] else []) ++ (if s.refuseDma bs then [1] else []) ++ (if s.frozen then [6] else []) ++
    (if s.legacyWants e.blocks e.regions then [7] else [])

/-- R408: refusals are counted and the lowest is recorded. -/
def State.noteRefuse (s : State) (ks : List Nat) (state point : Nat) : State :=
  (ks.foldl (fun t k => t.count (PWR.REFUSE_COUNT k) 1) s).wrs
    [(PWR.LAST_REFUSE_REFUSER, ks.headD 0), (PWR.LAST_REFUSE_STATE, state), (PWR.LAST_REFUSE_POINT, point)]

/-- R409: a wake that stopped a sleep request is consumed (log 33). -/
def State.consumeWakes (s : State) : State := { s with power := { s.power with wakes := [] } }

/-! ### Domain commands (R418) -/

/-- Domain `d` (R418: blocks 0 to 31, regions 32 to 35) is on. -/
def State.domainOn (s : State) (d : Nat) : Bool := if d < 32 then s.blockOn d else s.regionOn (d - 32)

/-- R408, R410 step 1, R418: the refusers that hold against a POWER_OFF of block `d`. -/
def State.blockRefusers (s : State) (d : Nat) : List Nat :=
  (if s.refuseCaravan [d] then [0] else []) ++ (if s.refuseDma [d] then [1] else []) ++ (if s.frozen then [6] else [])

/-- R408: the refusers of a block are counted, where any holds. -/
def State.noteBlock (s : State) (d : Nat) : State :=
  if d < 32 ∧ s.blockRefusers d ≠ [] then s.noteRefuse (s.blockRefusers d) 0 0 else s

/-- R410 step 2: the domains of an entry are revoked. -/
def State.revoke (s : State) (e : Entry) : State :=
  ({ s with power := { s.power with entry := some e } }).wrs
    [(NOC.REVOKE_BLK, Nat.lor (s.rd NOC.REVOKE_BLK) e.blocks), (NOC.REVOKE_RGN, Nat.lor (s.rd NOC.REVOKE_RGN) e.regions),
      (PWR.STATUS_ENTERING, 1)]

/-- R418: POWER_OFF of domain `d` is refused. -/
def State.offBad (s : State) (d : Nat) : Bool :=
  if d < 32 then !(s.blockRefusers d).isEmpty || s.flag (FAB.STATUS_ARMED d)
  else
    let r := d - 32
    decide (d < 36) && (((List.range 8).any fun k => s.blockOn (8 * r + k)) || s.flag (LDG.CTRL_EN 0) ||
      s.rd (DDR.STATUS_STATE r) == ddrTraining)

/-- The entry of a POWER_OFF of domain `d`. -/
def offEntry (d : Nat) (auto : Bool) : Entry := ⟨0, d, if d < 32 then 2 ^ d else 0, if d < 32 then 0 else 2 ^ (d - 32), 2, auto⟩

/-- R418: a POWER_OFF is judged. -/
def State.powerOff (s : State) (d : Nat) : State :=
  if d < 36 ∧ !s.domainOn d then s.pwrDone 2 0 false
  else if s.offBad d then (s.noteBlock d).pwrReject 2 3
  else if 36 ≤ d then s.pwrReject 2 2
  else ((s.abortSlice (if d < 32 then s.sliceBlock d else s.sliceRegion (d - 32))).pwrStart 2).revoke (offEntry d false)

/-- R418: a POWER_ON is judged. -/
def State.powerOn (s : State) (d : Nat) : State :=
  if d < 36 ∧ s.domainOn d = true then s.pwrDone 3 0 false
  else if d < 32 ∧ !s.regionOn (regionOfBlock d) then s.pwrReject 3 3
  else if 36 ≤ d then s.pwrReject 3 2
  else { s.pwrStart 3 with power := { s.power with rising := [d], risingCmd := some d } }

/-! ### PWR.CMD is accepted (R403, R418) -/

/-- A command is judged and starts: 1 SET_LEVEL, 2 POWER_OFF, 3 POWER_ON. -/
def State.pwrRun (s : State) (op arg : Nat) : State :=
  match op with
  | 1 => s.changeLevel arg
  | 2 => s.powerOff arg
  | _ => s.powerOn arg

/-- R403, R418: a write of a command to PWR.CMD. BUSY is for a pending command alone; a command that comes while a transition of another
kind runs is pending until that ends, and is judged then (log 84). -/
def State.pwrCommand (s : State) (op arg : Nat) : State :=
  if s.flag PWR.CMD_STATUS_PEND then s.pwrReject op 1
  else if s.inTransition then { s.pwrStart op with power := { s.power with cmdWait := some (op, arg) } }
  else s.pwrRun op arg

/-- The command that waited for a transition is judged. -/
def State.takeCommand (s : State) : State :=
  match s.power.cmdWait with
  | some e =>
    if s.inTransition then s
    else (({ s with power := { s.power with cmdWait := none } }).wr PWR.CMD_STATUS_PEND 0).pwrRun e.1 e.2
  | none => s

/-- SET_LEVEL (R403). -/
def execSetLevel (level : Nat) (s : State) : Host.Outcome State Fault Refusal :=
  .next (s.atReg 0 PWR.CMD_OP.addr fun s => s.pwrCommand 1 level)

/-- POWER_OFF (R418). -/
def execPowerOff (d : Nat) (s : State) : Host.Outcome State Fault Refusal :=
  .next (s.atReg 0 PWR.CMD_OP.addr fun s => s.pwrCommand 2 (d % 64))

/-- POWER_ON (R418). -/
def execPowerOn (d : Nat) (s : State) : Host.Outcome State Fault Refusal :=
  .next (s.atReg 0 PWR.CMD_OP.addr fun s => s.pwrCommand 3 (d % 64))

/-! ### Sleep requests (R407) -/

/-- R407, R408, R410 step 1: a sleep request is latched and judged. -/
def State.latchSleep (s0 : State) (n : Nat) : State :=
  let s := ({ s0 with power := { s0.power with request := none } }).wrs [(PWR.SLEEP_PEND, 0), (PWR.SLEEP_STATUS_STATE, n)]
  let ks := s.refusers n
  if ks.isEmpty then
    let t := s.abortSlice (decide (2 ≤ n))
    if n = 1 then State.revalidate { t with power := { t.power with sleep := 1 } }
    else
      let bl := s.rd PWR.DOMAINS_BLK_ON
      let rg := s.rd PWR.DOMAINS_RGN_ON
      let u := t.revoke ⟨n, 36, bl, rg, 2, false⟩
      { u with power := { u.power with wasBlocks := bl, wasRegions := rg } }
  else
    ((s.noteRefuse ks n 0).reject PWR.REJECT_COUNT PWR.LAST_REJECT_CODE PWR.LAST_REJECT_STATUS (0x10 + n) 3).wrs
      [(PWR.SLEEP_STATUS_OUTCOME, 3), (PWR.SLEEP_STATUS_POINT, 0)] |>.consumeWakes

/-- R407: a sleep request comes; it waits while a command or a transition runs. -/
def State.requestSleep (s : State) (n : Nat) : State :=
  if s.pwrBusy then ({ s with power := { s.power with request := some n } }).wrs [(PWR.SLEEP_PEND, 1), (PWR.SLEEP_STATUS_STATE, n)]
  else s.latchSleep n

/-- R407: the pending request is judged once nothing runs. -/
def State.judgeSleep (s : State) : State :=
  match s.power.request with
  | some n => if s.pwrBusy then s else s.latchSleep n
  | none => s

/-- R407: a transition has ended: the command that waited for it is judged, then the pending sleep request. -/
def State.pwrSettle (s : State) : State := s.takeCommand.judgeSleep

/-! ### A level change goes on (R403 to R405) -/

/-- R403 step 6, R407: the level change is complete, and a sleep request that waited for it is judged. -/
def State.levelFinish (s : State) (level st lag : Nat) : State := (s.levelEnd level st lag).pwrSettle

/-- LEVEL_PLL_LOCK (R403 step 4): the chip PLL is stable at the new level. -/
def execLevelPllLock (s : State) : Host.Outcome State Fault Refusal :=
  .next (match s.power.levelRun with
    | some r =>
      if !r.atPll then s
      else
        let t := s.wrs [(CHIP.CLK_STATUS_PLL_LOCK, 1), (CHIP.CLK_STATUS_ON_PLL, s.rd CHIP.CLK_CTRL_USE_PLL)]
        if !r.raising && s.flag PWR.PMB_EN then { t with power := { t.power with levelRun := some { r with atPll := false } } }
        else t.levelFinish r.level 0 (if r.raising then 0 else s.rd PWR.STATUS_VOLT_LAG)
    | none => s)

/-- LEVEL_TIMEOUT (R405): the chip PLL has not been stable within 200 µs. -/
def execLevelTimeout (s : State) : Host.Outcome State Fault Refusal :=
  .next (match s.power.levelRun with
    | some r =>
      if !r.atPll then s
      else (s.wr CHIP.CLK_CTRL_USE_PLL 0).levelFinish r.level 5 (b2n (!r.raising && s.flag PWR.PMB_EN))
    | none => s)

/-- R473: the PMBus pins carry the PMBus. -/
def State.pmbusPins (s : State) : Bool := s.pinFunc 20 == 4 && s.pinFunc 21 == 4

/-- R402, R403 step 5: the regulator has taken the VOUT_COMMAND code of level `l`. -/
def State.voltSet (s : State) (l : Nat) : State :=
  { s with power := { s.power with voltLevel := l, vout := some (s.rd PWR.PMB_ADDR, s.rd PWR.PMB_PAGE, s.rd (PWR.VLEVEL_VOUT l)) } }

/-- PMBUS_DONE (R403 step 5, R404): the transfers of VOUT_COMMAND end; `ok` says that POWER_GOOD came in time. -/
def execPmbusDone (ok : Bool) (s : State) : Host.Outcome State Fault Refusal :=
  let good := ok && s.pmbusPins
  .next (match s.power.levelRun with
    | some r =>
      if r.atPll then s
      else
        let t := if good then s.voltSet r.level else s
        if r.raising then (if good then t.levelToPll r else t.levelFinish (s.rd PWR.STATUS_LEVEL) 6 (s.rd PWR.STATUS_VOLT_LAG))
        else t.levelFinish r.level (if good then 0 else 6) (b2n !good)
    | none =>
      if !s.power.redo then s
      else
        let l := s.rd PWR.STATUS_LEVEL
        (if good then s.voltSet l else s).levelFinish l (if good then 0 else 6) (b2n !good))

/-! ### Sleep requests are cancelled and made (R407) -/

/-- SLEEP_CANCEL (R407). -/
def execSleepCancel (s : State) : Host.Outcome State Fault Refusal :=
  .next (s.atReg 0 PWR.SLEEP_REQ.addr fun s => s.cancelSleep)

/-- SLEEP_IDLE (R406). -/
def execSleepIdle (s : State) : Host.Outcome State Fault Refusal :=
  .next (s.atReg 0 PWR.SLEEP_REQ.addr fun s => s.requestSleep 1)

/-- SLEEP_DOZE (R410). -/
def execSleepDoze (s : State) : Host.Outcome State Fault Refusal :=
  .next (s.atReg 0 PWR.SLEEP_REQ.addr fun s => s.requestSleep 2)

/-- SLEEP_DORMANT (R410). -/
def execSleepDormant (s : State) : Host.Outcome State Fault Refusal :=
  .next (s.atReg 0 PWR.SLEEP_REQ.addr fun s => s.requestSleep 3)

/-- R407: a stream DMA or a host DMA channel is active. -/
def State.dmaActive (s : State) : Bool :=
  ((List.range 256).any fun c => s.flag (SEQ.RING_STATUS_DMA_ACTIVE c)) || (List.range 8).any fun i => s.flag (DMA.STATUS_PEND i)

/-- AUTO_SLEEP (R407): the chip idle timer ends. -/
def execAutoSleep (s : State) : Host.Outcome State Fault Refusal :=
  .next (if s.flag PWR.AUTO_EN && ((List.range 4).all fun w => (s.steward w).wfi) && !s.dmaActive then
    s.requestSleep (max 1 (s.rd PWR.AUTO_STATE)) else s)

/-! ### Domains lose power and are reset (R400, R410) -/

/-- R110, R192: the PLL of block `b` has lost power: the other blocks that it clocks have no clock (log 115). -/
def State.sourceGone (s : State) (b : Nat) : State :=
  ((s.clocked b).filter fun k => k != b && s.blockOn k).foldl (fun t k => (t.gateBlock k).judgePending k) s

/-- What a block domain holds besides its caravans is lost; its planes are not (R253). -/
def State.clearBlock (s : State) (b : Nat) : State :=
  let lo := blockBase b
  let x := s.block b
  let s1 := ((s.resetRegs lo (lo + 0x20010)).resetRegs (lo + 0x20030) (lo + 0x80000)).resetRegs (cellBase (8 * b)) (cellBase (8 * b + 8))
  let s2 := (s1.clearMem (padBase (8 * b)) (padBase (8 * b + 8))).clearMem (depotBase b) (depotBase (b + 1))
  let s3 := s2.setBlock b { BlockX.reset with planeA := x.planeA, planeB := x.planeB, lastActive := s.rd (FAB.STATUS_ACTIVE b) }
  { s3 with cells := Tab.drop s3.cells (8 * b) (8 * b + 8), runs := Tab.drop s3.runs (8 * b) (8 * b + 8) }

/-- R107, R110, R168: the block domain loses what it holds: the caravans of its cells lose those members, a gang may lose its
source, a reload of its calibration ends. -/
def State.dropBlock (s : State) (b : Nat) : State :=
  let t := ((((s.leadsInBlock b).foldl State.endMembership s).clearBlock b).reform (regionOfBlock b) (s.cidsOf b)).sourceGone b
  let cal := t.cal.filter (· != .block b)
  { t.wr CHIP.CAL_STATUS_BUSY (b2n !cal.isEmpty) with cal := cal }

/-- The region domain loses what it holds; its DDR5 memory does not. -/
def State.dropRegion (s : State) (r : Nat) : State :=
  let a := accountsBase + 0x800000 * r
  let t := (s.resetRegs (regionBase r) (regionBase r + 0x100000)).clearMem a (a + 0x800000)
  { t with regions := Tab.drop t.regions r (r + 1), esum := Tab.drop t.esum (256 * r) (256 * (r + 1)) }

/-- R503: the chip registers of a reset of the chip domain, but for those that R514 and R420 keep, Objor's records and
the Store's regions (R360); `pcie` says that the PCIe core is reset too. -/
def State.dropChipRegs (s : State) (pcie : Bool) : State :=
  let t := (([(0, 0x18), (0x28, 0x100028), (0x100100, 0x100400), (0x100600, 0x100800), (0x200000, 0x300000),
    (0x400000, 0x500200), (0x500280, 0x900000), (0xA00000, 0x1000000)] : List (Nat × Nat)).foldl
      (fun u e => u.resetRegs e.1 e.2) s)
  if pcie then t.resetRegs 0x900000 0xA00000 else t

/-- The chip domain loses what it holds behind its registers. -/
def State.dropChip (s : State) (pcie : Bool) : State :=
  let t := s.dropChipRegs pcie
  { t with
    evc := EvcX.reset, gpio := GpioX.reset, hub := HubX.reset, cvy := CvyX.reset, bst := BstX.reset, net := NetX.reset
    store := { t.store with op := none, waiting := [] }, pulses := [], faultQ := [], cal := []
    host := if pcie then { HostX.reset with perst := t.host.perst } else { t.host with sent := [], wrote := [] }
    objor := { t.objor with nonce0 := none, nonce1 := none, install := none, sealRun := none, queue := [] } }

/-! ### Saves in Oasis RAM (R410, R412; the places inside an area are the model's, log 34) -/

/-- The fields of a register table that `p` picks. -/
def tableFlds (t : List RegDesc) (p : FInfo → Bool) : List Fld :=
  t.flatMap fun d => (List.range d.n0).flatMap fun i => (List.range d.n1).flatMap fun j =>
    ((d.fields i j).filter p).map (·.fld)

/-- R410: what block `b` saves. -/
def blockSaved (b : Nat) : List Fld :=
  (blockCells b).flatMap fun c => [CEL.CARAVAN_CID c, CEL.CARAVAN_SITE c, CEL.CARAVAN_EN c, SEQ.CFG_STRIDE_UI c,
    SEQ.CFG_FRZ_BRK c, SEQ.RING_EN c, SEQ.RING_HALF c, SEQ.RING_WARN_LEVEL c, SEQ.RING_PAUSE_LEVEL c, SEQ.START_PC_ADDR c]

/-- R410: the registers that region `r` saves. -/
def regionSaved (r : Nat) : List Fld :=
  [RGN.GANG_GID0 r, RGN.GANG_GID1 r, RGN.GANG_GID2 r, RGN.GANG_GID3 r, RGN.GANG_GID4 r, RGN.GANG_GID5 r, RGN.GANG_GID6 r,
    RGN.GANG_GID7 r, RGN.APG_OWN_LEAD0 r, RGN.APG_OWN_V0 r, RGN.APG_OWN_LEAD1 r, RGN.APG_OWN_V1 r, RGN.APG_OWN_LEAD2 r,
    RGN.APG_OWN_V2 r, RGN.APG_OWN_LEAD3 r, RGN.APG_OWN_V3 r, RGN.APG_OWN_LEAD4 r, RGN.APG_OWN_V4 r, RGN.APG_OWN_LEAD5 r,
    RGN.APG_OWN_V5 r, RGN.APG_OWN_LEAD6 r, RGN.APG_OWN_V6 r, RGN.APG_OWN_LEAD7 r, RGN.APG_OWN_V7 r,
    LDG.TBL_BASE_WORD r, LDG.SPILL_BASE_WORD r, LDG.SPILL_HEAD_COUNT r, LDG.SPILL_TAIL_COUNT r, LDG.SCRUB_RATE r,
    DDR.CFG_RATE r, DDR.CFG_DENSITY r, DDR.CFG_RANKS r, DDR.SCRUB_HOURS r, DDR.EVT_CFG_CORR_THRESH r, DDR.STATUS_STATE r] ++
  tableFlds (RGN.regTable r) (fun f => decide (regionBase r + 0x2000 ≤ f.fld.addr) && decide (f.fld.addr < regionBase r + 0x2800)) ++
  (List.range 64).flatMap (fun i => [LDG.CVCFG_ADDR_SRC r i, LDG.CVCFG_LEN r i, LDG.CVCFG_AEN r i, LDG.CVCFG_ACCT_BASE r i,
    LDG.CVCFG_ACCT_N r i]) ++
  (if r = 0 then [LDG.CTRL_EN 0, LDG.CTRL_SALT 0] ++ (List.range 256).flatMap fun k => [LDG.SITE_EPOCH 0 k, LDG.SITE_SPILL_DROP 0 k]
  else [])

/-- R410: what the chip domain saves for DORMANT, LOCK of the region registers included. -/
def chipSaved : List Fld :=
  let rw (f : FInfo) : Bool := decide (f.ty = .rw ∨ f.ty = .rwl)
  tableFlds MPR.regTable rw ++ tableFlds NOC.regTable rw ++ [NOC.RT_ACT_V] ++ tableFlds EVC.regTable rw ++
    tableFlds GPIO.regTable rw ++ [CVY.CFG_HEAD, CVY.CFG_START_EN, CVY.CFG_SYNC_EN, CVY.CFG_AUTO_SYNC, CVY.CFG_KMAX,
    CVY.CFG_ARRIVE_PS, CVY.CFG_BUDGET_PS, CHIP.CLK_CTRL_REF, DBG.FRZ_CTRL_PIN_EN, DBG.FRZ_CTRL_CVY_EN, DBG.FRZ_CTRL_BRK_EN,
    DBG.FRZ_CTRL_FAULT_EN, DBG.FRZ_CTRL_DRIVE, DBG.FRZ_CTRL_CVY_OUT] ++
    (List.range 16).flatMap fun k => [STO.XO_BASE k, STO.XO_LIMIT k, STO.XO_VALID k, STO.XO_MSLOT k]

/-- Fields one after the other, lowest first. -/
def State.packed (s : State) : List Fld → Nat
  | [] => 0
  | f :: t => s.rd f + 2 ^ f.width * s.packed t

/-- The inverse of `packed`. -/
def State.unpack (s : State) : List Fld → Nat → State
  | [], _ => s
  | f :: t, v => (s.wr f (v % 2 ^ f.width)).unpack t (v / 2 ^ f.width)

/-- R412: an area of `n` bytes is written: the data, then the CRC-32C over it. -/
def State.writeArea (s : State) (a n v : Nat) : State :=
  let d := toBytes (n - 4) v
  let t := s.writeBytes a (d ++ toBytes 4 (crc32c d))
  { t with ecc := Tab.drop t.ecc a (a + n) }

/-- R284: the power controller reads `n` bytes of Oasis RAM from `a` up: the errors that stand in them are counted and corrected, or
reported. -/
def State.areaErrors (s : State) (a n : Nat) : State :=
  ((s.ecc.map (·.1)).filter fun k => decide (a ≤ k ∧ k < a + n)).foldl (fun t k => t.smErrors 61 true k 0) s

/-- R412: the data of an area; none when its CRC fails or a word is uncorrectable. -/
def State.readArea (s : State) (a n : Nat) : Option Nat :=
  let d := s.readBytes a (n - 4)
  if crc32c d = ofBytes (s.readBytes (a + n - 4) 4) ∧ !((List.range (n / 8)).any fun k => decide (2 ≤ s.eccOf (a + 8 * k) 0)) then
    some (ofBytes d) else none

/-- Save areas (R412). -/
abbrev blockArea (b : Nat) : Nat := oasisBase + 0x1000 + 0x100 * b
abbrev regionArea (r : Nat) : Nat := oasisBase + 0x4000 + 0x4000 * r
abbrev chipArea : Nat := oasisBase + 0x14000

/-- The save flags of the controller header: bit b a block, 32 + r a region, 36 the chip; none where the word is uncorrectable. -/
def State.saveFlags (s : State) : Nat := if 2 ≤ s.eccOf oasisBase 0 then 0 else s.read64 oasisBase
/-- Write the save flags, with the level and the LAST_WAKE copy. -/
def State.setSaveFlags (s : State) (v : Nat) : State :=
  let t := ((s.write64 oasisBase v).write64 (oasisBase + 8) (s.rd PWR.STATUS_LEVEL)).write64 (oasisBase + 16)
    (s.rd PWR.LAST_WAKE_SRC + 256 * s.rd PWR.LAST_WAKE_INDEX + 65536 * s.rd PWR.LAST_WAKE_TIME)
  { t with ecc := Tab.drop t.ecc oasisBase (oasisBase + 24) }

/-- R412, R284: the save of the domain with flag `k`, in the `n` bytes from `a` up, where there is one that can be restored; and what
reading it leaves. -/
def State.takeArea (s : State) (k a n : Nat) : Option Nat × State :=
  let t := s.areaErrors oasisBase 8
  if bitOf s.saveFlags k then (s.readArea a n, t.areaErrors a n) else (none, t)

/-- R410 step 4: region `r` saves its registers and its set sums. -/
def State.regionImage (s : State) (r : Nat) : Nat :=
  let sums := (List.range 256).foldr (fun k acc => Tab.get 0 s.esum (256 * r + k) + 2 ^ 256 * acc) 0
  sums + 2 ^ 65536 * s.packed (regionSaved r)

/-- R410 step 4: the domains of an entry are saved. -/
def State.saveDomains (s : State) (e : Entry) : State :=
  let s1 := (onesBelow e.blocks 32).foldl (fun t b => t.writeArea (blockArea b) 0x100 (s.packed (blockSaved b))) s
  let s2 := (onesBelow e.regions 4).foldl (fun t r => t.writeArea (regionArea r) 0x4000 (s.regionImage r)) s1
  let s3 := if e.kind = 3 then s2.writeArea chipArea 0x10000 (s.packed chipSaved) else s2
  s3.setSaveFlags (Nat.lor s.saveFlags (e.blocks + 2 ^ 32 * e.regions + (if e.kind = 3 then 2 ^ 36 else 0)))

/-! ### Entry (R410, R411) -/

/-- R411: what holds against the entry at an abort point. -/
def State.entryRefusers (s : State) (e : Entry) : List Nat := if e.kind = 0 then s.offRefusers e else s.refusers e.kind

/-- R411, R215: the entry is abandoned at point `p`: berths are given back, channels leave self-refresh, clocks that had stopped
run. -/
def State.abortEntry (s : State) (e : Entry) (p : Nat) : State :=
  let s1 := ({ s with power := { s.power with entry := none } }).wrs
    [(NOC.REVOKE_BLK, s.rd NOC.REVOKE_BLK - Nat.land (s.rd NOC.REVOKE_BLK) e.blocks),
      (NOC.REVOKE_RGN, s.rd NOC.REVOKE_RGN - Nat.land (s.rd NOC.REVOKE_RGN) e.regions), (PWR.STATUS_ENTERING, 0)]
  let s2 := (onesBelow e.regions 4).foldl (fun t r =>
    if t.rd (DDR.STATUS_STATE r) = ddrSelfRefresh then t.setDdr r ddrReady else t) ((onesBelow e.blocks 32).foldl State.showUi s1)
  let s3 := s2.noteRefuse (s.entryRefusers e) e.kind p
  let s4 := if e.kind ≠ 0 then (s3.wrs [(PWR.SLEEP_STATUS_OUTCOME, 2), (PWR.SLEEP_STATUS_POINT, p)]).consumeWakes
    else if e.auto then s3 else s3.pwrDone 2 0 true
  s4.pwrSettle

/-- R411: abort point `p` is judged; `go` continues the entry. -/
def State.abortPoint (s : State) (e : Entry) (p : Nat) (go : State) : State :=
  if (s.entryRefusers e).isEmpty then go else s.abortEntry e p

/-- R314 step 2: a request to the domains of an entry, or of an initiator inside one, is outstanding. -/
def State.entryTraffic (s : State) (e : Entry) : Bool :=
  s.outstanding.any fun q =>
    (q.target.domains.1.any (bitOf e.blocks)) || (q.target.domains.2.any (bitOf e.regions)) ||
    (decide (13 ≤ q.init ∧ q.init < 45) && bitOf e.blocks (q.init - 13)) ||
    (decide (45 ≤ q.init ∧ q.init < 61) && bitOf e.regions ((q.init - 45) / 4)) ||
    (decide (64 ≤ q.init ∧ q.init < 68) && bitOf e.regions (q.init - 64))

/-- R410 step 2: ledger caches are written back and channels enter self-refresh; errors that the lines meet are free
(log 1). -/
def State.quiesceRegion (s : State) (r : Nat) : State :=
  let t := ((s.region r).cache.map (·.1)).foldl (fun u k => u.drawn.writeBack r k ⟨u.freeVal 2, u.freeVal 6 / 4⟩) s
  if t.rd (DDR.STATUS_STATE r) = ddrReady then t.setDdr r ddrSelfRefresh else t

/-- QUIESCE_DONE (R410 step 2, A1). In freeze the quiesce cannot end; the refuser FREEZE abandons the entry at A1 (R408, R411). -/
def execQuiesceDone (s : State) : Host.Outcome State Fault Refusal :=
  .next (match s.power.entry with
    | some e =>
      if e.stage ≠ 2 then s
      else if s.frozen then s.abortEntry e 1
      else if s.entryTraffic e then s
      else
        let t := (onesBelow e.regions 4).foldl State.quiesceRegion s
        t.abortPoint e 1 { t with power := { t.power with entry := some { e with stage := 3 } } }
    | none => s)

/-- CLOCKS_STOPPED (R410 step 3, A2). -/
def execClocksStopped (s : State) : Host.Outcome State Fault Refusal :=
  .next (match s.power.entry with
    | some e =>
      if e.stage ≠ 3 then s
      else s.abortPoint e 2 { s with power := { s.power with entry := some { e with stage := 4 } } }
    | none => s)

/-- SAVE_DONE (R410 step 4, A3). An abort discards the copies. -/
def execSaveDone (s : State) : Host.Outcome State Fault Refusal :=
  .next (match s.power.entry with
    | some e =>
      if e.stage ≠ 4 then s
      else
        let t := s.saveDomains e
        s.abortPoint e 3 { t with power := { t.power with entry := some { e with stage := 5 } } }
    | none => s)

/-- R471: the configuration and the output of pattern-match unit 0, held in Oasis, are those of `s`. -/
def State.oasisPins (t s : State) : State :=
  t.wrs ([GPIO.PM_CFG_BASE 0, GPIO.PM_CFG_MODE 0, GPIO.PM_CFG_EN 0, GPIO.PM_CFG_DEBOUNCE 0, GPIO.PM_CFG_MASK 0, GPIO.PM_CFG_VALUE 0,
    GPIO.PM_STATUS_D 0, GPIO.PM_STATUS_HIT 0].map fun f => (f, s.rd f))

/-- R471: the enables and levels of the pads, which sleep holds; where no state fixes one it is free. -/
def State.padLevels (s : State) : List (Bool × Bool) :=
  (List.range 96).map fun n => (s.pinOut n).getD (bitOf (s.freeVal 192) (2 * n), bitOf (s.freeVal 192) (2 * n + 1))

/-- R436: what the controller keeps of the sources in DORMANT: which of them are pending. -/
def latched (t : Tab SrcX) : Tab SrcX :=
  t.foldl (fun (u : Tab SrcX) e => Tab.set SrcX.reset u e.1 { SrcX.reset with lat := e.2.lat }) []

/-- R400, R406: the stewards lose their state, and in DORMANT the chip domain and steward memory lose theirs. A pending source stays so
(R436), choices are recalled (R430), pads hold (R471). -/
def State.sleepDown (s : State) (kind : Nat) : State :=
  let s1 := (List.range 4).foldl (fun t w => (t.modSteward w fun _ => Steward.reset).wr (EVC.STW_STATE_LEVEL w) 1) s
  let s2 := s1.wrs [(CHIP.CLK_STATUS_ON_PLL, 0), (CHIP.CLK_CTRL_USE_PLL, 0), (CHIP.CLK_STATUS_PLL_LOCK, 0)]
  let s3 := if kind = 3 then (s2.dropChip true).clearMem stewardBase (stewardBase + 0x400000) else s2
  let kats := [(OBJ.KAT_PASS, s.rd OBJ.KAT_PASS), (OBJ.KAT_DONE, s.rd OBJ.KAT_DONE)]
  let s4 := if kind = 3 then s3.oasisPins s else s3
  State.revalidate { s4.wrs kats with
    power := { s4.power with sleep := kind }
    gpio := { s4.gpio with pads := s.padLevels }
    evc := if kind = 3 then { s4.evc with srcs := latched s.evc.srcs } else s4.evc
    freeCtr := s4.freeCtr + 1 }

/-- R410 step 5: lanes go safe, sessions close, the domains isolate and lose power. -/
def State.isolate (s : State) (e : Entry) : State :=
  let bs := onesBelow e.blocks 32
  let s1 := s.safeCells 0 (bs.flatMap blockCells)
  let s2 := s1.closeBonds fun b => e.kind == 3 || (s.members b.lead).any fun c => bs.contains (blockOf c)
  let s3 := (onesBelow e.regions 4).foldl State.dropRegion (bs.foldl State.dropBlock s2)
  let s4 := ({ s3 with power := { s3.power with entry := none } }).wrs
    [(PWR.DOMAINS_BLK_ON, s.rd PWR.DOMAINS_BLK_ON - Nat.land (s.rd PWR.DOMAINS_BLK_ON) e.blocks),
      (PWR.DOMAINS_RGN_ON, s.rd PWR.DOMAINS_RGN_ON - Nat.land (s.rd PWR.DOMAINS_RGN_ON) e.regions), (PWR.STATUS_ENTERING, 0)]
  if e.kind ≠ 0 then s4.sleepDown e.kind
  else (if e.auto then s4 else s4.pwrDone 2 0 false).pwrSettle

/-- ISOLATE (R410 step 5). -/
def execIsolate (s : State) : Host.Outcome State Fault Refusal :=
  .next (match s.power.entry with
    | some e => if e.stage = 5 then s.isolate e else s
    | none => s)

/-! ### Power-up of a domain (R415, R418, R269) -/

/-- R412, R107, R415: the save of block `b` is put back, or PWR.RESTORE says that it is not; the caravans that its cells belong to
again are IDLE (log 105). -/
def State.restoreBlock (s0 : State) (b : Nat) : State :=
  match s0.takeArea b (blockArea b) 0x100 with
  | (none, s) => s.wr PWR.RESTORE_BLK (setBit (s.rd PWR.RESTORE_BLK) b)
  | (some v, s) =>
    let r := regionOfBlock b
    let cids := (s.unpack (blockSaved b) v).cidsOf b
    ((((s.leadsWith r cids).foldl State.endMembership s).unpack (blockSaved b) v).reform r cids)

/-- R110, R192: a block that powers up in a gang of its region takes the source's clocks at the next boundary. -/
def State.rejoinGang (s : State) (b : Nat) : State :=
  let src := s.gangSource b
  if src = b then s
  else (s.wrs [(PLL.STATUS_GANGED b, 1), (PLL.STATUS_SRC_BLOCK b, src)]).modBlock b fun x => { x with srcSwitch := some src }

/-- R415 step 4, R269: block `b` is powered and starts. In LOCKED no plane is loaded (R378). -/
def State.raiseBlock (s : State) (b : Nat) : State :=
  let s1 := (s.wr PWR.DOMAINS_BLK_ON (setBit (s.rd PWR.DOMAINS_BLK_ON) b)).restoreBlock b
  let p := (s1.block b).lastActive
  let q := if s1.rd LC.STATE_STATE = 7 then none else if s1.rd (FAB.PLANE_STATE b p) = planeValid ∧ !(s1.plane b p).torn then some p else s1.bootPlane b
  let s2 := (s1.senseBlock b q).setSaveFlags (clearBit s1.saveFlags b)
  { (s2.rejoinGang b).wrs [(NOC.REVOKE_BLK, clearBit (s2.rd NOC.REVOKE_BLK) b), (CHIP.CAL_STATUS_BUSY, 1)] with
    cal := s2.cal ++ [.block b] }

/-- R412: the sums of region `r` are those of the save `v`. -/
def State.putSums (s : State) (r v : Nat) : State :=
  { s with esum := (List.range 256).foldl (fun tb k => Tab.set 0 tb (256 * r + k) (bits v (256 * k) 256)) s.esum }
/-- R415 step 4: region `r` is powered and restored. -/
def State.raiseRegion (s : State) (r : Nat) : State :=
  let s1 := s.wr PWR.DOMAINS_RGN_ON (setBit (s.rd PWR.DOMAINS_RGN_ON) r)
  let s2 := match s1.takeArea (32 + r) (regionArea r) 0x4000 with
    | (none, u) => u.wr PWR.RESTORE_RGN (setBit (u.rd PWR.RESTORE_RGN) r)
    | (some v, u) =>
      let u := (u.unpack (regionSaved r) (v / 2 ^ 65536)).putSums r v
      u.setDdr r (if u.rd (DDR.STATUS_STATE r) = ddrSelfRefresh then ddrReady else ddrOff)
  (s2.setSaveFlags (clearBit s2.saveFlags (32 + r))).wr NOC.REVOKE_RGN (clearBit (s2.rd NOC.REVOKE_RGN) r)

/-- Domain `d` is powered and restored. -/
def State.raise (s : State) (d : Nat) : State :=
  if s.domainOn d then s else if d < 32 then s.raiseBlock d else s.raiseRegion (d - 32)

/-! ### Domains that go off and on (R416, R418, R419) -/

/-- POWER_ON_DONE (R418, R416): the next domain being powered on is restored. -/
def execPowerOnDone (s : State) : Host.Outcome State Fault Refusal :=
  .next (match s.power.rising with
    | [] => s
    | d :: rest =>
      let t := ({ s with power := { s.power with rising := rest } }).raise d
      let u := if s.power.risingCmd = some d then
          ({ t with power := { t.power with risingCmd := none } }).pwrDone 3 0 false else t
      u.pwrSettle)

/-- LEGACY_WAKE_REQUEST (R416): in compatibility mode, a request that waits at its interface powers the domain it needs,
a block's region first. -/
def execLegacyWakeRequest (d : Nat) (s : State) : Host.Outcome State Fault Refusal :=
  .next (
    let bl := if d < 32 then 2 ^ d else 0
    let rg := if d < 32 then 0 else 2 ^ (d - 32)
    let need := (if d < 32 ∧ !s.regionOn (regionOfBlock d) then [32 + regionOfBlock d] else []) ++ [d]
    if 36 ≤ d ∨ s.power.entry.isSome = true ∨ s.domainOn d = true ∨ !s.legacyWants bl rg then s
    else { s with power := { s.power with rising := s.power.rising ++ need.filter fun k => !s.power.rising.contains k } })

/-- R419: block `b` has been idle for BLK_AUTO.US. -/
def State.autoOff (s : State) (b : Nat) : State :=
  let used := s.flag (FAB.STATUS_RUN b) && s.rd (FAB.PLANE_TILE_USED b (s.rd (FAB.STATUS_ACTIVE b))) != 0
  if s.rd PWR.BLK_AUTO_US = 0 ∨ !bitOf (s.rd PWR.BLK_AUTO_EN_EN) b ∨ !s.blockOn b ∨ s.refuseCaravan [b] ∨ s.refuseDma [b] ∨
      used ∨ s.pwrBusy ∨ s.flag (FAB.STATUS_ARMED b) then s
  else if s.frozen then s.noteRefuse [6] 0 0
  else (s.abortSlice (s.sliceBlock b)).revoke (offEntry b true)

/-- BLOCK_AUTO_OFF (R419). -/
def execBlockAutoOff (b : Nat) (s : State) : Host.Outcome State Fault Refusal := .next (if b < 32 then s.autoOff b else s)

/-! ### Waking (R413, R414, R417) -/

/-- R417: the domain of event source `n` is powered; in DORMANT, of the chip's sources, the power controller's and that of pattern-match
unit 0 alone. -/
def State.sourceOn (s : State) (n : Nat) : Bool :=
  if n < 1024 then s.blockOn (n / 32)
  else if n < 1152 then s.blockOn ((n - 1024) / 4)
  else if n < 1168 then s.regionOn ((n - 1152) / 4)
  else if n < 1280 then s.power.sleep != 3 || n == 1173 || n == 1186
  else s.blockOn ((n - 1280) / 24)

/-- R417: the source that PWR.WATCHn names is active. -/
def State.watchActive (s : State) (n : Nat) : Bool :=
  let k := s.rd (PWR.WATCH_SRC n)
  s.flag (PWR.WATCH_EN n) && s.sourceOn k && (s.srcLevel k || s.pulses.contains k)

/-- R413, R417, R471: a wake source of code `e.1` and index `e.2` is enabled and can wake the device from its present state. -/
def State.wakeEnabled (s : State) (e : Nat × Nat) : Bool :=
  decide (1 ≤ e.1 ∧ e.1 ≤ 6) && bitOf (s.rd PWR.WAKE_EN_EN) (e.1 - 1) && !(e.1 == 1 && s.power.sleep == 3) &&
    (e.1 != 4 || s.patternOut 0) && (e.1 != 6 || (decide (e.2 < 32) && s.watchActive e.2))

/-- The lower of two sources: by code, then by index. -/
def lowerWake (a b : Nat × Nat) : Nat × Nat := if b.1 < a.1 ∨ (b.1 = a.1 ∧ b.2 < a.2) then b else a

/-- R407, R409, R413, R414: the wake sources `fired` fire at Oasis time `t`. Once a wake is latched in DOZE or DORMANT, LAST_WAKE keeps it. -/
def State.wake (s : State) (fired : List (Nat × Nat)) (t : Nat) : State :=
  match fired.filter s.wakeEnabled with
  | [] => s
  | x :: rest =>
    let low := rest.foldl lowerWake x
    let mask := (x :: rest).foldl (fun m e => setBit m (e.1 - 1)) (s.rd PWR.WAKE_SRCS_FIRED)
    let s0 := (s.wr PWR.WAKE_SRCS_FIRED mask).reached PWR.OTIME_TICKS t
    let s1 := if 2 ≤ s.power.sleep ∧ s.power.wakes ≠ [] then s0
      else s0.wrs [(PWR.LAST_WAKE_SRC, low.1), (PWR.LAST_WAKE_INDEX, if low.1 = 6 then low.2 else 0), (PWR.LAST_WAKE_TIME, t)]
    if s.power.sleep = 1 then
      (({ s1 with power := { s1.power with sleep := 0 } }).wr PWR.SLEEP_STATUS_OUTCOME 1).consumeWakes.cancelSleep.pwrSettle
    else if s.power.sleep = 0 ∧ s.power.entry.isNone ∧ s.power.request.isSome = true then s1.cancelSleep
    else { s1.cancelSleep with power := { s1.cancelSleep.power with wakes := s1.power.wakes ++ (x :: rest) } }

/-- WAKE (R413): enabled wake sources fire in one Oasis cycle at time `t`; the ones that are not enabled do nothing. -/
def execWake (fired : List (Nat × Nat)) (t : Nat) (s : State) : Host.Outcome State Fault Refusal := .next (s.wake fired t)

/-- OTIMER_EXPIRY (R413): OTIME reaches CMP. -/
def execOtimerExpiry (s : State) : Host.Outcome State Fault Refusal :=
  .next (if s.flag PWR.OTIMER_EN then
    ((s.reached PWR.OTIME_TICKS (s.rd PWR.OTIMER_CMP)).wr PWR.OTIMER_EN 0).wake [(5, 0)] (s.rd PWR.OTIMER_CMP) else s)

/-- IDLE_EXIT (R413): an event that a steward would be given, or a request that waits for the Trunk, ends IDLE. -/
def execIdleExit (s : State) : Host.Outcome State Fault Refusal :=
  .next (if s.power.sleep = 1 ∧ (s.anySleeper || !s.net.waiting.isEmpty) = true then s.endIdle.pwrSettle else s)

end Sys2Proof.Machine
end

