-- ==== Sys2Proof/Machine/Host.lean ====
section
/-! DEFINITION. The PCIe endpoint's link and MSI-X, the command interface of host DMA, and the Convoy link (spec/18). What a
host DMA descriptor moves is in `Masters`. -/

namespace Sys2Proof.Machine

/-! ### Identifiers (R441) -/

/-- R441: what the endpoint's configuration space identifies it by. -/
structure PcieId where
  vendor : Nat
  device : Nat
  subVendor : Nat
  subsystem : Nat
  revision : Nat
  class_ : Nat
  serial : Nat
  deriving DecidableEq, Repr

/-- R1, R2: the Device ID of a grade. -/
def Grade.device : Grade → Nat
  | .g48 => 0x0A48
  | .g32 => 0x0A32

/-- R441: the identifiers; the serial number is zero in BLANK. -/
def State.pcieId (s : State) : PcieId :=
  { vendor := 0x1D9E, device := s.grade.device, subVendor := 0x1D9E, subsystem := s.grade.device,
    revision := s.rd CHIP.ID_STEPPING, class_ := 0x118000, serial := if s.rd LC.STATE_STATE = 0 then 0 else s.rd LC.UNIT_ID0_ID }

/-- R442: a BAR: its number, size, and whether it is prefetchable; each is 64-bit. -/
structure Bar where
  n : Nat
  size : Nat
  prefetch : Bool
  deriving DecidableEq, Repr

/-- R442: the BARs. -/
def bars : List Bar := [⟨0, 0x4000000, false⟩, ⟨2, 2 ^ 36, true⟩, ⟨4, 0x100000, false⟩]

/-- R440: what the configuration space says of the endpoint. The capability structures, in the order of the table, with the PCIe
specification's capability numbers (PRESUMED, log 151); extended ones are counted from 0x10000. -/
structure PcieCaps where
  caps : List Nat
  maxSpeed : Nat
  maxWidth : Nat
  maxPayload : Nat
  maxReadRequest : Nat
  readBoundary : Nat
  tagBits : Nat
  readsOutstanding : Nat
  /-- Bit 0 L0s, bit 1 L1. -/
  aspm : Nat
  l1Substates : List Nat
  functions : Nat
  dStates : List Nat
  deriving DecidableEq, Repr

/-- R440: Power Management, PCI Express, MSI-X; AER, L1 PM Substates, Device Serial Number. -/
def pcieCaps : PcieCaps :=
  { caps := [0x01, 0x10, 0x11, 0x10001, 0x1001E, 0x10003], maxSpeed := 5, maxWidth := 4, maxPayload := 512, maxReadRequest := 512,
    readBoundary := 64, tagBits := 10, readsOutstanding := 256, aspm := 2, l1Substates := [1, 2], functions := 1, dStates := [0, 3] }

/-! ### Host DMA: command interface (R449, R450) -/

/-- R13: a refused command of channel `k`. -/
def State.dmaReject (s : State) (k op st : Nat) : State :=
  let t := s.reject (DMA.REJECT_COUNT k) (DMA.LAST_REJECT_CODE k) (DMA.LAST_REJECT_STATUS k) op st
  if s.flag (DMA.STATUS_PEND k) then t else t.wrs [(DMA.STATUS_STATUS k, st), (DMA.STATUS_OP k, op)]

/-- R449: START of channel `k`. -/
def State.dmaStart (s : State) (k : Nat) : State :=
  if s.flag (DMA.STATUS_PEND k) then s.dmaReject k 1 1
  else if s.rd (DMA.DESC_ADDR k) % 32 ≠ 0 then s.dmaReject k 1 2
  else s.wrs [(DMA.STATUS_OP k, 1), (DMA.STATUS_PEND k, 1), (DMA.STATUS_STOPPED k, 0), (DMA.STATUS_KIND k, 0),
    (DMA.CUR_ADDR k, s.rd (DMA.DESC_ADDR k))]

/-- R449: STOP of channel `k`. -/
def State.dmaStop (s : State) (k : Nat) : State :=
  if s.flag (DMA.STATUS_PEND k) then (s.wr (DMA.STATUS_OP k) 2).dmaEnd k 0 0 true else s.dmaReject k 2 3

/-- R449: a write of `op` to DMA.CHk_CMD. -/
def State.dmaCommand (s : State) (k op : Nat) : State :=
  if op = 1 then s.dmaStart k else if op = 2 then s.dmaStop k
  else s.dmaReject k op 2

/-- DMA_START (R449): START is written to DMA.CHk_CMD of channel `k`. -/
def execDmaStart (k : Nat) (s : State) : Host.Outcome State Fault Refusal :=
  .next (s.atReg 4 (DMA.CMD_OP k).addr fun s => s.dmaStart k)

/-- R446, R506: every running channel ends with FAULT of a kind. -/
def State.endChannels (s : State) (kind : Nat) : State :=
  (List.range 8).foldl (fun t k => if t.flag (DMA.STATUS_PEND k) then t.dmaEnd k 6 kind false else t) s

/-! ### Link and device states (R440, R446, R512) -/

/-- R446: the host's requests in flight: their responses are discarded. -/
def State.dropHost (s : State) : State :=
  { s with
    net := { s.net with
      waiting := s.net.waiting.filter fun q => q.init != 4
      dead := s.net.dead ++ s.outstanding.filter fun q => q.init == 4 && !s.net.dead.contains q } }

/-- R446: PERST# is asserted. -/
def State.perstAssert (s : State) : State :=
  { s.dropHost.resetRegs 0x900000 0xA00000 with host := { HostX.reset with perst := true, wakeN := s.host.wakeN } }

/-- R414, R512: PERST# is deasserted: WAKE# is no longer driven. -/
def State.perstDeassert (s : State) : State := { s with host := { s.host with perst := false, wakeN := false } }

/-- PERST_DEASSERT (R512). -/
def execPerstDeassert (s : State) : Host.Outcome State Fault Refusal := .next s.perstDeassert

/-- R440: a speed and a width that the link trains to. -/
def linkTrains (speed width : Nat) : Bool :=
  decide (1 ≤ speed ∧ speed ≤ pcieCaps.maxSpeed) && [1, 2, 4].contains width

/-- LINK_UP (R446, R462): the link trains, or changes its low-power state (log 36). PCIe receiver detection is a service
request of the loop-back slice (R496). -/
def State.linkUp (s : State) (lstate speed width : Nat) : State :=
  if s.host.perst ∨ s.rst.held ∨ !linkTrains speed width then s
  else (s.abortSlice (s.bst.run.any fun r => r.1 == 7)).wrs
    [(PCI.STATUS_LINK_UP, 1), (PCI.STATUS_LSTATE, lstate), (PCI.STATUS_SPEED, speed), (PCI.STATUS_WIDTH, width)]

/-- LINK_UP (R446). -/
def execLinkUp (lstate speed width : Nat) (s : State) : Host.Outcome State Fault Refusal :=
  .next (s.linkUp (if 1 ≤ lstate ∧ lstate ≤ 5 then lstate else 1) speed width)

/-- R446: the link goes down. -/
def State.linkDown (s : State) : State :=
  (s.wrs [(PCI.STATUS_LINK_UP, 0), (PCI.STATUS_LSTATE, 0), (PCI.STATUS_LINK_EVT, 1)]).endChannels 4

/-- R446: entry to D3hot. -/
def State.d3hot (s : State) : State := (s.wr PCI.STATUS_DSTATE 3).endChannels 5

/-- D3HOT_EXIT (R446). -/
def execD3hotExit (s : State) : Host.Outcome State Fault Refusal := .next (s.wr PCI.STATUS_DSTATE 0)

/-- R442, R446: the endpoint decodes its BARs. -/
def State.barsOpen (s : State) : Bool :=
  !s.host.perst && s.flag PCI.STATUS_LINK_UP && s.rd PCI.STATUS_DSTATE != 3 && !s.rst.held && decide (s.power.sleep ≤ 1)

/-! ### MSI-X (R437, R451) -/

/-- R451: messages of vector `v` are blocked. -/
def State.vectorBlocked (s : State) (v : Nat) : Bool :=
  s.flag (MSIX.DATA_MASK v) || s.host.fmask || !s.host.msixOn || !s.host.busMaster

/-- R451: a message for vector `v` is sent, or its PBA bit is set. -/
def State.sendVector (s : State) (v : Nat) : State :=
  if s.vectorBlocked v then s.wr MSIX.PBA_PEND (setBit (s.rd MSIX.PBA_PEND) v)
  else { s with host := { s.host with sent := [(s.rd (MSIX.ADDR_ADDR v), s.rd (MSIX.DATA_DATA v))] } }

/-- R437, R451: source `n` has become host-pending and its message goes. -/
def State.msixSend (s : State) (n : Nat) : State :=
  if (s.src n).hsend then (s.modSrc n fun x => { x with hsend := false }).sendVector (s.rd (EVC.SRC_CFG_MSIX n)) else s

/-- MSIX_SEND (R451). In DOZE and DORMANT the controller is stopped (R436). -/
def execMsixSend (n : Nat) (s : State) : Host.Outcome State Fault Refusal :=
  .next (if 2 ≤ s.power.sleep then s else s.msixSend n)

/-- R451: the vectors whose PBA bits are set and that are no longer blocked are sent. -/
def State.flushVectors (s : State) : State :=
  let vs := (onesBelow (s.rd MSIX.PBA_PEND) 64).filter fun v => !s.vectorBlocked v
  if vs.isEmpty then s
  else
    let t := s.wr MSIX.PBA_PEND (vs.foldl clearBit (s.rd MSIX.PBA_PEND))
    { t with host := { t.host with sent := vs.map fun v => (s.rd (MSIX.ADDR_ADDR v), s.rd (MSIX.DATA_DATA v)) } }

/-- MSIX_UNMASK (R451): a block ends: `kind` 0 the mask of vector `v`, 1 the function mask, 2 MSI-X Enable = 0, 3 Bus
Master Enable = 0. With 4 added, the host starts that block. -/
def State.msixUnmask (s : State) (kind v : Nat) : State :=
  let on := decide (kind < 4)
  (if kind % 4 = 0 then s.wrB (MSIX.DATA_MASK (v % 64)) !on
   else if kind % 4 = 1 then { s with host := { s.host with fmask := !on } }
   else if kind % 4 = 2 then { s with host := { s.host with msixOn := on } }
   else { s with host := { s.host with busMaster := on } }).flushVectors

/-- MSIX_UNMASK (R451). -/
def execMsixUnmask (kind v : Nat) (s : State) : Host.Outcome State Fault Refusal :=
  .next (if s.host.perst then s else s.msixUnmask kind v)

/-! ### Convoy link: frames (R453 to R456, R460, R461) -/

/-- R503, R460: the Convoy receiver and transmitter run. -/
def State.convoyOn (s : State) : Bool := !s.rst.held && decide (s.power.sleep < 2)

/-- R454, R460, R461: the symbols `syms` go on from CVY_IN to CVY_OUT, unless the device is the head or a diagnostic interrupts it. -/
def State.forward (s : State) (syms : List Nat) : State :=
  if s.flag CVY.CFG_HEAD ∨ s.flag CVY.DIAG_PRBS_EN ∨ s.flag CVY.DIAG_LOOP then s
  else s.cvyOut syms

/-- R454, R455: HOP of a forwarded frame: one more, LATE when it waited behind an insertion. -/
def nextHop (hop : Nat) (behind : Bool) : Nat := (hop % 128 + 1) % 128 + (if bitOf hop 7 || behind then 128 else 0)

/-- R460: the device sleeps, and Oasis repeats CVY_IN onto CVY_OUT. -/
def State.convoyRepeats (s : State) : Bool := !s.rst.held && decide (2 ≤ s.power.sleep)

/-- R453, R454, R460, R461: a complete command frame has arrived on CVY_IN. Under the PRBS test its bits are errors of the sequence; under
the internal loopback the receiver does not see it. -/
def State.convoyFrame (s : State) (cmd hop crc : Nat) (behind : Bool) : State :=
  if s.convoyRepeats then s.cvyOut [256 + 0xFB, cmd, hop, crc, 256 + 0xFD]
  else if !s.convoyOn || !s.flag CVY.STATUS_RX_LOCK || s.flag CVY.DIAG_LOOP then s
  else if s.flag CVY.DIAG_PRBS_EN then s.drawn.count CVY.DIAG_ERRS (s.freeVal 5)
  else
    let h := nextHop hop behind
    if crc = crc8 0 [cmd, hop] then (s.forward (frameSyms cmd h)).receiveFrame cmd hop
    else ((s.forward (deadFrame cmd h)).count CVY.COUNT_BAD 1).wr CVY.STATUS_BAD_EVT 1

/-- CONVOY_FRAME (R454): a frame with its CMD, HOP and CRC bytes; `behind` says that this device was inserting a FREEZE frame (R455). -/
def execConvoyFrame (cmd hop crc : Nat) (behind : Bool) (s : State) : Host.Outcome State Fault Refusal :=
  .next (s.convoyFrame (cmd % 256) (hop % 256) (crc % 256) behind)

/-- CONVOY_ALIGN (R456): a good ALIGN frame with HOP arrives. -/
def execConvoyAlign (hop : Nat) (s : State) : Host.Outcome State Fault Refusal :=
  .next (s.convoyFrame 3 (hop % 256) (crc8 0 [3, hop % 256]) false)

/-- SYMBOL_LOCK (R461). -/
def execSymbolLock (s : State) : Host.Outcome State Fault Refusal := .next (if s.convoyOn then s.wr CVY.STATUS_RX_LOCK 1 else s)

/-- SYMBOL_LOCK_LOSS (R461). -/
def execSymbolLockLoss (s : State) : Host.Outcome State Fault Refusal :=
  .next (if s.flag CVY.STATUS_RX_LOCK then
    s.wrs [(CVY.STATUS_RX_LOCK, 0), (CVY.STATUS_ALIGNED, 0), (CVY.STATUS_LOCK_LOST, 1)] else s)

/-- R460: the wake pattern goes on to CVY_OUT. -/
def State.passWake (s : State) : State :=
  if s.convoyRepeats then s.cvyOut wakeSyms else if s.convoyOn then s.forward wakeSyms else s

/-- CONVOY_WAKE_PATTERN (R460, R413): the wake pattern arrives on CVY_IN at Oasis time `t`. An awake device forwards it and takes no other
action on it; in DOZE and DORMANT Oasis repeats it. -/
def execConvoyWakePattern (t : Nat) (s : State) : Host.Outcome State Fault Refusal :=
  .next (if s.power.sleep = 0 ∧ s.power.entry.isNone ∧ s.power.request.isNone then s.passWake else s.passWake.wake [(2, 0)] t)

/-! ### Convoy link: acting instants (R119 to R121, R457, R458) -/

/-- R457: the first command of code `cmd` that waits for its acting instant acts by `f`. -/
def State.actNow (s : State) (cmd : Nat) (f : State → State) : State :=
  match s.cvy.acts.find? (·.1 == cmd) with
  | some e => f { s with cvy := { s.cvy with acts := s.cvy.acts.erase e } }
  | none => s

/-- R119: every ARMED caravan starts at its next stride boundary: now where its clock runs, else when it runs again. -/
def State.convoyStart (s : State) : State :=
  (s.allLeads.filter fun l => s.cvState l == stArmed).foldl (fun t l =>
    if t.clockRuns (blockOf l) then t.convoyGoRun l else t.modRun l fun x => { x with convoyGo := true }) s

/-- CONVOY_START (R119). -/
def execConvoyStart (s : State) : Host.Outcome State Fault Refusal := .next (s.actNow 1 fun t => t.convoyStart.auxPulse true)

/-- R97, R120: a Convoy STOP stops the caravans that a Convoy START began, and the ARMED ones; where the clock stands still it
waits, as a STOP command does. -/
def State.convoyStop (s : State) : State :=
  (s.allLeads.filter fun l => s.cvState l == stArmed || (s.cvState l == stRunning && (s.run l).convoyRun)).foldl (fun t l =>
    if t.clockPaused (blockOf l) then t.modRun l fun x => { x with convoyHalt := true } else t.stopRun l) s

/-- CONVOY_STOP (R120). -/
def execConvoyStop (s : State) : Host.Outcome State Fault Refusal := .next (s.actNow 2 State.convoyStop)

/-- R458: the flag is pulled low until the next Convoy arrival. -/
def State.pullFlag (s : State) : State := s.wrs [(CVY.STATUS_FLAG_OUT, 1), (CVY.STATUS_ARRIVED, 0)]

/-- R121, R457, R458: a SYNC releases the groups that wait for it, or is stray. -/
def State.convoySync (s : State) : State :=
  (if s.convoyWaiting.isEmpty then s.count CVY.COUNT_STRAY_SYNC 1 else s.convoyRelease).pullFlag.signalArrival

/-- CONVOY_SYNC (R121). -/
def execConvoySync (s : State) : Host.Outcome State Fault Refusal := .next (s.actNow 4 fun t => t.convoySync.auxPulse false)

/-- CONVOY_FREEZE (R391, R457). -/
def execConvoyFreeze (s : State) : Host.Outcome State Fault Refusal := .next (s.actNow 5 fun t => t.triggerFreeze 5 0)

/-! ### Convoy link: the head and CVY.CFG (R454, R458 to R460) -/

/-- R454, R460: a write of `cmd` to CVY.TX. -/
def State.convoyTx (s : State) (cmd : Nat) : State :=
  if !s.flag CVY.CFG_HEAD then s.wr CVY.STATUS_WR_IGN 1
  else if cmd = 6 then (if s.flag CVY.DIAG_PRBS_EN then s else s.cvyOut wakeSyms)
  else if 1 ≤ cmd ∧ cmd ≤ 5 then s.sendFrame cmd
  else s

/-- TX_START (R454). -/
def execTxStart (s : State) : Host.Outcome State Fault Refusal :=
  .next (s.atReg 0 CVY.TX_CMD.addr fun s => s.convoyTx 1)
/-- TX_STOP (R454). -/
def execTxStop (s : State) : Host.Outcome State Fault Refusal :=
  .next (s.atReg 0 CVY.TX_CMD.addr fun s => s.convoyTx 2)
/-- TX_ALIGN (R454). -/
def execTxAlign (s : State) : Host.Outcome State Fault Refusal :=
  .next (s.atReg 0 CVY.TX_CMD.addr fun s => s.convoyTx 3)
/-- TX_SYNC (R454). The guard of R459 binds the writer (log 37). -/
def execTxSync (s : State) : Host.Outcome State Fault Refusal :=
  .next (s.atReg 0 CVY.TX_CMD.addr fun s => s.convoyTx 4)
/-- TX_FREEZE (R454). -/
def execTxFreeze (s : State) : Host.Outcome State Fault Refusal :=
  .next (s.atReg 0 CVY.TX_CMD.addr fun s => s.convoyTx 5)
/-- TX_WAKE (R460). -/
def execTxWake (s : State) : Host.Outcome State Fault Refusal :=
  .next (s.atReg 0 CVY.TX_CMD.addr fun s => s.convoyTx 6)

/-- AUTO_SYNC (R459): the flag has been high for 100 ns and GUARD has passed since the last SYNC. -/
def execAutoSync (s : State) : Host.Outcome State Fault Refusal :=
  .next (if s.flag CVY.CFG_HEAD && s.flag CVY.CFG_AUTO_SYNC && !s.flag CVY.STATUS_FLAG_OUT && s.convoyOn then s.sendFrame 4 else s)

/-- R458: a write of the bits `mask` of CVY.CFG. -/
def State.writeCvyCfg (s : State) (mask v : Nat) : State :=
  let old := s.rd CVY.CFG_SYNC_EN
  let new := s.merged CVY.CFG_SYNC_EN mask v
  if old = 1 ∧ new = 0 ∧ !s.convoyWaiting.isEmpty then s.wr CVY.STATUS_WR_IGN 1
  else
    let t := s.wrs (([CVY.CFG_HEAD, CVY.CFG_START_EN, CVY.CFG_SYNC_EN, CVY.CFG_AUTO_SYNC, CVY.CFG_KMAX, CVY.CFG_ARRIVE_PS,
      CVY.CFG_BUDGET_PS]).map fun f => (f, s.merged f mask v))
    if old = 0 ∧ new = 1 then t.pullFlag.signalArrival
    else if old = 1 ∧ new = 0 then t.wrs [(CVY.STATUS_FLAG_OUT, 0), (CVY.STATUS_ARRIVED, 0)]
    else t

/-- CVY_CFG_WRITE (R458). -/
def execCvyCfgWrite (mask v : Nat) (s : State) : Host.Outcome State Fault Refusal :=
  .next (s.atReg 0 CVY.CFG_HEAD.addr fun s => s.writeCvyCfg mask v)

end Sys2Proof.Machine
end

