-- ==== Sys2Proof/Machine/Gpio.lean ====
section
/-! DEFINITION. The general-purpose pins (spec/19): functions and holds, output banks, pattern-match units, the
handler/prober interface, serial controllers and timers. -/

namespace Sys2Proof.Machine

/-! ### Functions (R467, R468) -/

/-- R467: function `f` exists on pin `n`. -/
def funcOk (n f : Nat) : Bool :=
  match f with
  | 1 => decide (n < 8)
  | 2 => decide (8 ≤ n ∧ n < 16)
  | 3 => decide (16 ≤ n ∧ n < 20)
  | 4 => decide (20 ≤ n ∧ n < 23)
  | 5 => decide (32 ≤ n ∧ n < 44)
  | 8 => decide (88 ≤ n ∧ n < 91)
  | _ => decide (f ≤ 10)

/-- R468: a hold of pin `n` starts, or restarts; what it holds stays that of its first start. -/
def State.holdPin (s : State) (n : Nat) : State :=
  if (s.pinHold n).isSome then s
  else
    let o := s.pinOut n
    let h : PinHold :=
      { pin := n, func := s.rd (GPIO.PIN_FUNC n), sel := s.rd (GPIO.PIN_SEL n)
        level := (o.map fun p => b2n p.2).getD (s.freeVal 3 % 2)
        oe := (o.map fun p => b2n p.1).getD (s.freeVal 3 / 2 % 2)
        inp := ((s.pinIn n).map b2n).getD (s.freeVal 3 / 4) }
    let t := s.drawn
    { t.wr (GPIO.PIN_HOLD n) 1 with gpio := { t.gpio with holds := t.gpio.holds ++ [h] } }

/-- R467, R468: a write of the bits `mask` of GPIO.PINn. -/
def State.writePin (s : State) (n mask v : Nat) : State :=
  let f := s.merged (GPIO.PIN_FUNC n) mask v
  let e := s.merged (GPIO.PIN_SEL n) mask v
  if !funcOk n f && bits mask 0 4 != 0 then s.wr GPIO.STATUS_WR_IGN 1
  else
    let t := if f ≠ s.rd (GPIO.PIN_FUNC n) ∨ e ≠ s.rd (GPIO.PIN_SEL n) then s.holdPin n else s
    t.wrs (([GPIO.PIN_FUNC n, GPIO.PIN_SEL n, GPIO.PIN_DRIVE n, GPIO.PIN_PULL n, GPIO.PIN_SLOW n, GPIO.PIN_OD n,
      GPIO.PIN_SCHMITT n]).map fun x => (x, s.merged x mask v))

/-- FUNC_WRITE (R468). -/
def execFuncWrite (n mask v : Nat) (s : State) : Host.Outcome State Fault Refusal :=
  .next (s.atReg 0 (GPIO.PIN_FUNC n).addr fun s => if n < 96 then s.writePin n mask v else s)

/-- R468: the hold of pin `n` has run for 2 GPIO cycles since the last change. -/
def State.endHold (s : State) (n : Nat) : State :=
  { s.wr (GPIO.PIN_HOLD n) 0 with gpio := { s.gpio with holds := s.gpio.holds.filter fun h => h.pin != n } }

/-- FUNC_HOLD_END (R468). -/
def execFuncHoldEnd (n : Nat) (s : State) : Host.Outcome State Fault Refusal := .next (if n < 96 then s.endHold n else s)

/-! ### Output banks (R469) -/

/-- R469: OUTk_SET. -/
def State.outSet (s : State) (k v : Nat) : State := s.wr (GPIO.OUT_OUT k) (Nat.lor (s.rd (GPIO.OUT_OUT k)) (v % 2 ^ 32))
/-- R469: OUTk_CLR. -/
def State.outClr (s : State) (k v : Nat) : State := s.wr (GPIO.OUT_OUT k) (Nat.land (s.rd (GPIO.OUT_OUT k)) (notW v 32))

/-- OUT_SET (R469). -/
def execOutSet (k v : Nat) (s : State) : Host.Outcome State Fault Refusal :=
  .next (s.atReg 0 (GPIO.OUT_SET_OUT k).addr fun s => if k < 3 then s.outSet k v else s)
/-- OUT_CLR (R469). -/
def execOutClr (k v : Nat) (s : State) : Host.Outcome State Fault Refusal :=
  .next (s.atReg 0 (GPIO.OUT_CLR_OUT k).addr fun s => if k < 3 then s.outClr k v else s)

/-! ### Pattern-match units (R470) -/

/-- R470: a write of the bits `mask` of PMk_CFG. D starts again as C stands at its next evaluation, which gives no HIT (log 148); where
the board drives a pin of it, that is free. -/
def State.writePm (s : State) (k mask v : Nat) : State :=
  if 80 < s.merged (GPIO.PM_CFG_BASE k) mask v then s.wr GPIO.STATUS_WR_IGN 1
  else
    let t := (s.wrs (([GPIO.PM_CFG_BASE k, GPIO.PM_CFG_MODE k, GPIO.PM_CFG_EN k, GPIO.PM_CFG_DEBOUNCE k, GPIO.PM_CFG_MASK k,
      GPIO.PM_CFG_VALUE k]).map fun f => (f, s.merged f mask v))).wr (GPIO.PM_STATUS_HIT k) 0
    match t.patternCond k with
    | some c => t.wrB (GPIO.PM_STATUS_D k) c
    | none => t.drawn.wrB (GPIO.PM_STATUS_D k) (t.freeVal 1 == 1)

/-- R470: the debounced condition of unit `k` becomes `c`. -/
def State.patternChange (s : State) (k : Nat) (c : Bool) : State :=
  let rise := c && !s.flag (GPIO.PM_STATUS_D k)
  let fall := !c && s.flag (GPIO.PM_STATUS_D k)
  let hit := (s.rd (GPIO.PM_CFG_MODE k) == 2 && rise) || (s.rd (GPIO.PM_CFG_MODE k) == 3 && fall)
  let t := s.wrB (GPIO.PM_STATUS_D k) c
  if hit then t.wr (GPIO.PM_STATUS_HIT k) 1 else t

/-- PATTERN_MATCH (R470): C of unit `k` has held its value for DEBOUNCE + 1 cycles: `c`, where the board drives a pin that decides it. In
DOZE and DORMANT unit 0 alone is evaluated (R471). -/
def execPatternMatch (k : Nat) (c : Bool) (s : State) : Host.Outcome State Fault Refusal :=
  .next (if 4 ≤ k ∨ (2 ≤ s.power.sleep ∧ k ≠ 0) then s else s.patternChange k ((s.patternCond k).getD c))

/-! ### Handler and prober interface (R472) -/

/-- R472: a debounced start of test. -/
def State.hpiSot (s : State) : State :=
  let t := { s.wr GPIO.HPI_STATUS_SOT 1 with gpio := { s.gpio with hpi := .idle, bin := 0xFF, eotLow := false } }
  if s.gpio.hpi = .idle then t else t.wrs [(GPIO.HPI_STATUS_CUT, 1), (GPIO.HPI_STATUS_BUSY, 0)]

/-- SOT (R472, R468). In DOZE and DORMANT the clocks of the chip domain stand (R406): no row of the pins but PATTERN_MATCH acts. -/
def execSot (s : State) : Host.Outcome State Fault Refusal :=
  .next (if decide (s.power.sleep < 2) && s.hpiPins && s.pinListens 32 then s.hpiSot else s)

/-- R472: HPI.CTRL.EOT is written: the end sequence starts. -/
def State.hpiEot (s : State) : State :=
  if s.flag GPIO.HPI_STATUS_BUSY then s.wr GPIO.STATUS_WR_IGN 1
  else if s.hpiPins then
    { s.wr GPIO.HPI_STATUS_BUSY 1 with gpio := { s.gpio with hpi := .setup, bin := s.rd GPIO.HPI_CTRL_BIN } }
  else s

/-- R472: a write of the bits `mask` of HPI_CTRL. -/
def State.writeHpi (s : State) (mask v : Nat) : State :=
  let fs := [GPIO.HPI_CTRL_WAIT_RDY, GPIO.HPI_CTRL_DEBOUNCE, GPIO.HPI_CTRL_SETUP_US, GPIO.HPI_CTRL_PULSE_US]
  let t := s.wrs (fs.map fun f => (f, s.merged f mask v))
  let u := if bits mask 8 8 = 0 then t
    else if s.flag GPIO.HPI_STATUS_BUSY then t.wr GPIO.STATUS_WR_IGN 1
    else t.wr GPIO.HPI_CTRL_BIN (s.merged GPIO.HPI_CTRL_BIN mask v)
  if bitOf (Nat.land mask v) 0 then u.hpiEot else u

/-- EOT (R472). -/
def execEot (s : State) : Host.Outcome State Fault Refusal :=
  .next (s.atReg 0 GPIO.HPI_CTRL_EOT.addr fun s => s.hpiEot)

/-- R468, R465: RDY_N can be low as the interface sees it. -/
def State.rdySeen (s : State) : Bool := s.pinSeen 35 != some true

/-- BIN_SETUP_END (R472): SETUP_US has passed and, with WAIT_RDY, RDY_N is low. -/
def execBinSetupEnd (s : State) : Host.Outcome State Fault Refusal :=
  .next (if s.power.sleep < 2 ∧ s.gpio.hpi = .setup ∧ (!s.flag GPIO.HPI_CTRL_WAIT_RDY || s.rdySeen) = true then { s with gpio := { s.gpio with hpi := .strobe } } else s)

/-- STROBE_END (R472): PULSE_US has passed. -/
def execStrobeEnd (s : State) : Host.Outcome State Fault Refusal :=
  .next (if s.power.sleep < 2 ∧ s.gpio.hpi = .strobe then
    { s.wrs [(GPIO.HPI_STATUS_DONE, 1), (GPIO.HPI_STATUS_BUSY, 0)] with gpio := { s.gpio with hpi := .idle, eotLow := true } } else s)

/-- RDY_TIMEOUT (R472): 100 ms without RDY_N low. The sequence ends without the strobe; BIN stays until the next start of
test. -/
def execRdyTimeout (s : State) : Host.Outcome State Fault Refusal :=
  .next (if s.power.sleep < 2 ∧ s.gpio.hpi = .setup ∧ s.flag GPIO.HPI_CTRL_WAIT_RDY then
    { s.wrs [(GPIO.HPI_STATUS_RDY_TO, 1), (GPIO.HPI_STATUS_BUSY, 0)] with gpio := { s.gpio with hpi := .idle } } else s)

/-! ### PMBus alert and serial controllers (R473, R474) -/

/-- PMB_ALERT (R473, R468): ALERT_N is low. -/
def execPmbAlert (s : State) : Host.Outcome State Fault Refusal :=
  .next (if s.power.sleep < 2 ∧ s.pinFunc 22 = 4 ∧ s.pinSeen 22 ≠ some true then s.wr GPIO.PERIPH_EVT_PMB_ALERT 1 else s)

/-- Serial controller `i`: I2C 0 to 3, SPI 4 and 5, UART 6 and 7. -/
def State.serial (s : State) (i : Nat) : SerialX := Tab.get SerialX.reset s.gpio.serial i
/-- Replace a serial controller. -/
def State.setSerial (s : State) (i : Nat) (x : SerialX) : State :=
  { s with gpio := { s.gpio with serial := Tab.set SerialX.reset s.gpio.serial i x } }

/-- STATUS.ERR of serial controller `i`. -/
def serialErr (i : Nat) : Fld := if i < 4 then GPIO.I2C_STATUS_ERR i else if i < 6 then GPIO.SPI_STATUS_ERR (i - 4) else GPIO.UART_STATUS_ERR (i - 6)

/-- R476: the event bit of serial controller `i` sets. -/
def State.serialEvent (s : State) (i : Nat) : State :=
  if i < 4 then s.wr GPIO.PERIPH_EVT_I2C (setBit (s.rd GPIO.PERIPH_EVT_I2C) i)
  else if i < 6 then s.wr GPIO.PERIPH_EVT_SPI (setBit (s.rd GPIO.PERIPH_EVT_SPI) (i - 4))
  else s.wr GPIO.PERIPH_EVT_UART (setBit (s.rd GPIO.PERIPH_EVT_UART) (i - 6))

/-- R474, R476: DATA is written: its byte enters the TX FIFO, if it has room. -/
def State.serialPush (s : State) (i v : Nat) : State :=
  let x := s.serial i
  if x.tx.length < 16 then s.setSerial i { x with tx := x.tx ++ [v % 256] } else s

/-- R474: LEN is written to GO of an I2C or SPI controller that is idle. -/
def State.serialGo (s : State) (i len : Nat) : State :=
  let x := s.serial i
  if 6 ≤ i ∨ x.left.isSome then s else s.setSerial i { x with left := some len }

/-- SERIAL_GO (R474). -/
def execSerialGo (i len : Nat) (s : State) : Host.Outcome State Fault Refusal :=
  .next (s.atReg 0 (0x701018) fun s => s.serialGo i (len % 256))

/-- R474: the transfer of controller `i` ends: `sent` bytes have left the TX FIFO and the bytes `got` have come; `err`
says NAK or the timeout of a stretched clock. A UART sends without a GO and has no such event. -/
def State.transferEnd (s : State) (i sent : Nat) (got : List Nat) (err : Bool) : State :=
  let x := s.serial i
  let t := s.setSerial i { x with tx := x.tx.drop sent, rx := (x.rx ++ got.map (· % 256)).take 16, left := none }
  let u := if err then t.wr (serialErr i) 1 else t
  if i < 6 then u.serialEvent i else u

/-- TRANSFER_END (R474). -/
def execTransferEnd (i sent : Nat) (got : List Nat) (err : Bool) (s : State) : Host.Outcome State Fault Refusal :=
  .next (if s.power.sleep < 2 ∧ i < 8 ∧ ((s.serial i).left.isSome ∨ 6 ≤ i) then s.transferEnd i sent got err else s)

/-- UART_RX (R474, R476, R467): UART `i` receives a byte, or a framing or parity error, on its RX pin. -/
def execUartRx (i v : Nat) (err : Bool) (s : State) : Host.Outcome State Fault Refusal :=
  .next (if 2 ≤ s.power.sleep ∨ 2 ≤ i ∨ (s.pinFunc (17 + 2 * i) == 3 && s.pinListens (17 + 2 * i)) = false then s
    else
      let x := s.serial (6 + i)
      let t := if err then s.wr (serialErr (6 + i)) 1
        else if x.rx.length < 16 then s.setSerial (6 + i) { x with rx := x.rx ++ [v % 256] } else s
      t.serialEvent (6 + i))

/-! ### Timers (R475) -/

/-- TIMER_PERIOD_END (R475): the count of PWM timer `k` restarts, with the PERIOD and DUTY written meanwhile. -/
def execTimerPeriodEnd (k : Nat) (s : State) : Host.Outcome State Fault Refusal :=
  .next (if 2 ≤ s.power.sleep ∨ 8 ≤ k ∨ s.flag (GPIO.TMRC_CAPTURE k) then s
    else { s with gpio := { s.gpio with pwm := Tab.set (0, 0) s.gpio.pwm k (s.rd (GPIO.TMR_PERIOD k), s.rd (GPIO.TMR_DUTY k)) } })

/-- CAPTURE (R475, R467): a rising edge, at the pin that timer `k` listens to, when its count is `n`. -/
def execCapture (k n : Nat) (s : State) : Host.Outcome State Fault Refusal :=
  .next (if (decide (s.power.sleep < 2) && decide (k < 8) && s.flag (GPIO.TMRC_CAPTURE k) && (s.capturePin k).any s.pinListens) = true then
    s.wrs [(GPIO.TMRC_CAP k, n), (GPIO.PERIPH_EVT_CAP_EVT, setBit (s.rd GPIO.PERIPH_EVT_CAP_EVT) k)] else s)

end Sys2Proof.Machine
end

