-- ==== Sys2Proof/Machine/Faults.lean ====
section
/-! DEFINITION. Detectors, the fault hub and the self-test slices (spec/20). -/

namespace Sys2Proof.Machine

/-! ### Detectors (R480 to R483, R422)

In DOZE and DORMANT the clocks of the chip domain stand (R406): of the detectors, Oasis alone judges the rails (R517). -/

/-- R480: the check point of the caravan led by `l`: a member's SC against the shadow count of its block, where `shadow`
names the members whose count an error has changed, and its C against the lead's. While the stride clock is frozen or gated no
stride boundary comes. -/
def State.checkPoint (s : State) (l : Nat) (shadow : List (Nat × Nat)) : State :=
  let count c := ((shadow.find? (·.1 == c)).map (·.2)).getD (s.rd (SEQ.SC_SC c))
  if !s.isLead l || s.cvState l != stRunning || s.frozen || !s.flag (PLL.STATUS_CLK_RUN (blockOf l)) then s
  else if (s.members l).any fun c => count c != s.rd (SEQ.SC_SC c) || (s.cell c).chk != (s.cell l).chk then s.report 0x01 l
  else s

/-- CHECK_POINT (R480). -/
def execCheckPoint (l : Nat) (shadow : List (Nat × Nat)) (s : State) : Host.Outcome State Fault Refusal :=
  .next (s.checkPoint l shadow)

/-- SHADOW_MISMATCH (R482): in unit `u` (numbered as R484 does) a copy fails parity, or both pass and differ. -/
def execShadowMismatch (u : Nat) (parity : Bool) (s : State) : Host.Outcome State Fault Refusal :=
  .next (if 2 ≤ s.power.sleep then s else if parity then s.count FLT.ESC_SHADOW_CORR 1 else if u < 293 then s.report 0x04 u else s)

/-- FIO_WINDOW (R483): `n` FIO cycles were counted in a window of 1 µs. -/
def execFioWindow (n : Nat) (s : State) : Host.Outcome State Fault Refusal :=
  .next (
    if 2 ≤ s.power.sleep then s
    else if !s.flag CHIP.CLK_STATUS_TREF_OK && !s.flag CHIP.CLK_STATUS_CVYREF_OK then s.wr FLT.STATUS_FIO_UNCHECKED 1
    else
      let t := s.wr FLT.STATUS_FIO_UNCHECKED 0
      if 388 ≤ n ∧ n ≤ 412 then t else t.report 0x1C 0)

/-- R484: a VDDQ_DDR excursion is a DDR_FAIL of every region. -/
def State.supplyFault (s : State) (rail : Nat) (inj : Bool) : State :=
  if rail = 6 then
    (List.range 4).foldl (fun t r => { t with faultQ := t.faultQ ++ [⟨0x10, 288 + r, inj, 7, t.ddrUsers r⟩] }) s
  else { s with faultQ := s.faultQ ++ [⟨0x1A, rail, inj, 7, []⟩] }

/-- SUPPLY_EXCURSION (R483, R517): rail `rail` (numbered as R484 does) leaves its range for 500 ns or more. -/
def execSupplyExcursion (rail : Nat) (s : State) : Host.Outcome State Fault Refusal :=
  .next (
    if 13 ≤ rail ∨ s.rst.held then s
    else if 2 ≤ s.power.sleep then s.wr PWR.STATUS_SLEEP_SUPPLY 1
    else ({ s with rst := { s.rst with supply := true } }).supplyFault rail false)

/-- R483: what the readings of the 24 sensors, in 1/16 °C, raise at sensor `i`. -/
def State.judgeTemp (s : State) (temps : List Int) (i : Nat) : State :=
  let x := temps.getD i 0
  let y := temps.getD (Config.neighbour i) 0
  let s1 := if 130 * 16 < x ∧ (x - y).natAbs ≤ 160 then s.report 0x1B i else s
  if 240 < (x - y).natAbs then s1.report 0x1E i else s1

/-- TEMP_SAMPLE (R483). -/
def execTempSample (temps : List Int) (s : State) : Host.Outcome State Fault Refusal :=
  .next (if temps.length = 24 ∧ s.power.sleep < 2 then (List.range 24).foldl (fun t i => t.judgeTemp temps i) s else s)

/-- LOCKSTEP_MISMATCH (R422, R490): the cores of steward `u`, or for 4 of Objor, diverge. `present` says that the two still
disagree in reset. A choice presented to the steward is recalled (R430). -/
def execLockstepMismatch (u : Nat) (present : Bool) (s : State) : Host.Outcome State Fault Refusal :=
  .next (
    if 2 ≤ s.power.sleep then s
    else if u < 4 then
      (((s.modSteward u fun x => { x with stopped := true }).wr FLT.STW_PRESENT (putBit (s.rd FLT.STW_PRESENT) u present)).report
        0x18 u).revalidate
    else s.report 0x19 0)

/-! ### The fault hub (R484 to R490) -/

/-- R484: the scope of a code: 0 CARAVAN, 1 BLOCK, 2 REGION, 3 CHIP, 4 STEWARD, 5 OBJOR, 6 LOGGED; none for a code that is
not assigned. -/
def codeScope (code unit : Nat) : Option Nat :=
  if code = 0x04 ∨ code = 0x09 ∨ code = 0x12 then
    some (if unit < 256 then 0 else if unit < 288 then 1 else if unit < 292 then 2 else 3)
  else if code ∈ [0x01, 0x02, 0x03, 0x05, 0x08, 0x10, 0x11] then some 0
  else if code ∈ [0x0A, 0x0B] then some 1
  else if code = 0x13 then some 2
  else if code ∈ [0x1A, 0x1B, 0x1C, 0x1D] then some 3
  else if code = 0x18 then some 4
  else if code = 0x19 then some 5
  else if code ∈ [0x0C, 0x1E] then some 6
  else none

/-- R484: unit `u` is in the range of a code. -/
def unitOk (code u : Nat) : Bool :=
  if code ∈ [0x01, 0x02, 0x03, 0x05, 0x08] then decide (u < 256)
  else if code = 0x04 then decide (u < 293)
  else if code = 0x09 then decide (u < 288)
  else if code ∈ [0x0A, 0x0B, 0x0C] then decide (256 ≤ u ∧ u < 288)
  else if code ∈ [0x10, 0x11, 0x13] then decide (288 ≤ u ∧ u < 292)
  else if code = 0x12 then decide (256 ≤ u ∧ u < 292)
  else if code = 0x18 then decide (u < 4)
  else if code = 0x1A then decide (u < 13)
  else if code = 0x1B ∨ code = 0x1E then decide (u < 24)
  else decide (u = 0)

/-- The blocks of a unit; those of the caravans that a report names where the unit is wider. -/
def unitBlocks (u : Nat) (leads : List Nat) : List Nat :=
  if u < 256 then [blockOf u] else if u < 288 then [u - 256] else (leads.map blockOf).eraseDups

/-- The region of a unit. -/
def unitRegion (u : Nat) : Nat := if u < 256 then regionOf u else if u < 288 then regionOfBlock (u - 256) else (u - 288) % 4

/-- R485: the caravans that a scope contains. -/
def State.scopeLeads (s : State) (scope u : Nat) (leads : List Nat) : List Nat :=
  match scope with
  | 0 => if leads.isEmpty && decide (u < 256) && s.enabled u then [s.leadOf u] else leads
  | 1 => ((unitBlocks u leads).flatMap s.leadsInBlock ++ leads).eraseDups
  | 2 => (s.leadsOf (unitRegion u) ++ leads).eraseDups
  | 3 => s.allLeads
  | 5 => s.allLeads.filter fun l => decide (0 < (s.run l).bondLeft)
  | _ => []

/-- R485: the cells whose lanes a containment puts in the safe state. -/
def State.scopeCells (s : State) (c : Contain) : List Nat :=
  let ms := c.leads.flatMap s.members
  match c.scope with
  | 0 => ms
  | 1 => (unitBlocks c.unit c.leads).flatMap blockCells ++ ms
  | 2 => regionCells (unitRegion c.unit) ++ ms
  | 3 => List.range 256
  | 5 => ms
  | _ => []

/-- R490: steward `w` is held in reset: responses to what it issued are discarded. -/
def State.resetSteward (s : State) (w : Nat) : State :=
  let t := s.modSteward w fun _ => Steward.reset
  { t with
    net := { t.net with
      waiting := t.net.waiting.filter fun q => q.init != w
      dead := t.net.dead ++ t.outstanding.filter fun q => q.init == w && !t.net.dead.contains q } }

/-- R484, R486 step 1: the hub takes a report at FIO time `t`. A LATCH fault contains the ARMED and RUNNING caravans of
its scope (R265). -/
def State.takeReport (s : State) (f : FaultRep) (t : Nat) : State :=
  let scope := if f.scope = 7 then (codeScope f.code f.unit).getD 6 else f.scope
  let id := s.hub.nextId
  let log := s.hub.log ++ [({ id := id, code := f.code, scope := scope, unit := f.unit, inj := f.inj, esc := false, time := t } : FltRec)]
  let full := decide (64 ≤ s.hub.log.length)
  let s1 := ({ s with hub := { s.hub with nextId := id + 1, log := if full then s.hub.log else log } }).count (FLT.CNT_COUNT scope) 1
  let s2 := if full then s1.wr FLT.STATUS_OVF 1 else s1
  if scope = 6 then s2.wr FLT.STATUS_EVT 1
  else
    let all := s.scopeLeads scope f.unit f.leads
    let ls := if f.code = 0x09 then all.filter s.busy else all
    let c : Contain := { id := id, code := f.code, scope := scope, unit := f.unit, leads := ls, halted := false }
    let s3 := { s2 with hub := { s2.hub with contains := s2.hub.contains ++ [c] } }
    if scope = 4 then
      ((s3.resetSteward f.unit).wr FLT.STW_FAULTED (setBit (s3.rd FLT.STW_FAULTED) f.unit)).recall fun e => e.2 == f.unit
    else if scope = 5 then s3.objorError
    else s3

/-- R18, R478: a detector that no other command stands for reports: that of a pin die and its bridge (PIN_DIE, of a region or of
the slices of one block), and the hub's own (HUB). -/
def State.detected (s : State) (e : Nat × Nat) : State :=
  if (e.1 = 0x12 ∨ e.1 = 0x1D) ∧ unitOk e.1 e.2 = true then s.report e.1 e.2 else s

/-- FAULT_REPORT (R484): the hub takes the oldest report, at FIO time `t.1`. `t.2` are reports, code and unit, that the
detectors of `State.detected` make first. -/
def execFaultReport (t : Nat × List (Nat × Nat)) (s : State) : Host.Outcome State Fault Refusal :=
  let u := if 2 ≤ s.power.sleep then s else t.2.foldl State.detected s
  .next (match u.faultQ with
    | [] => u
    | f :: rest => (({ u with faultQ := rest }).takeReport f t.1).reached FLT.TIME_FIO t.1)

/-- R485, R489: containment reaches the caravan led by `l`. -/
def State.containCaravan (s : State) (l : Nat) : State :=
  let st := s.cvState l
  let s1 := if st = stIdle ∨ (s.run l).sealed then s else s.voidRun l 6 0
  (if st = stRunning ∨ st = stArmed then s1.haltCaravan l ((s.members l).map fun c => (c, cContained)) else s1).apgClean l

/-- R485, R488: the running slice holds a resource in a scope. -/
def State.sliceInScope (s : State) (c : Contain) (cells : List Nat) : Bool :=
  c.scope == 3 || cells.any (fun k => s.sliceBlock (blockOf k)) || (c.scope == 2 && s.sliceRegion (unitRegion c.unit))

/-- R486 steps 2 and 3: the caravans of a containment halt, their runs are void and the lanes go safe. -/
def State.contain (s : State) (c : Contain) : State :=
  let cells := s.scopeCells c
  let s1 := s.abortSlice (s.sliceInScope c cells)
  let s2 := (c.leads.foldl State.containCaravan s1).safeCells 2 cells
  { s2 with hub := { s2.hub with contains := s2.hub.contains.map fun e => if e.id = c.id then { e with halted := true } else e } }

/-- CONTAINMENT_HALT (R486 steps 2 and 3): of record `id`. -/
def execContainmentHalt (id : Nat) (s : State) : Host.Outcome State Fault Refusal :=
  .next (match s.hub.contains.find? fun e => e.id == id && !e.halted with
    | some c => s.contain c
    | none => s)

/-- R486 step 4, R391: the scope of a containment confirms. -/
def State.confirm (s : State) (c : Contain) : State :=
  let t := { s.wr FLT.STATUS_EVT 1 with hub := { s.hub with contains := s.hub.contains.filter fun e => e.id != c.id } }
  if bitOf (s.rd FLT.FRZ_SEL_SCOPE) c.scope && s.flag DBG.FRZ_CTRL_FAULT_EN then t.triggerFreeze 4 0 else t

/-- CONTAINMENT_CONFIRM (R486 step 4). -/
def execContainmentConfirm (id : Nat) (s : State) : Host.Outcome State Fault Refusal :=
  .next (match s.hub.contains.find? fun e => e.id == id && e.halted with
    | some c => s.confirm c
    | none => s)

/-- R487: a containment that has not confirmed goes on in the next wider scope. -/
def State.escalate (s : State) (c : Contain) : State :=
  let d : Contain := { c with scope := c.scope + 1, leads := s.scopeLeads (c.scope + 1) c.unit c.leads, halted := false }
  let hub : HubX :=
    { s.hub with
      contains := s.hub.contains.map fun e => if e.id = c.id then d else e
      log := s.hub.log.map fun e => if e.id = c.id then { e with esc := true } else e }
  ({ s with hub := hub }).count FLT.ESC_ESC 1

/-- ESCALATION (R487): record `id` was not confirmed in time. -/
def execEscalation (id : Nat) (s : State) : Host.Outcome State Fault Refusal :=
  .next (match s.hub.contains.find? fun e => e.id == id && decide (e.scope < 3) with
    | some c => s.escalate c
    | none => s)

/-- R500: FLT.INJECT raises a fault at its detector. -/
def State.inject (s : State) (code unit : Nat) : State :=
  if (codeScope code unit).isNone || !unitOk code unit then s.wr FLT.STATUS_WR_IGN 1
  else if code = 0x1A then s.supplyFault unit true
  else
    let leads := if code = 0x10 then s.ddrUsers (unit - 288) else []
    { s with faultQ := s.faultQ ++ [⟨code, unit, true, 7, leads⟩] }

/-- FAULT_INJECT (R500): a write of INJECT with GO = 1. -/
def execFaultInject (code unit : Nat) (s : State) : Host.Outcome State Fault Refusal :=
  .next (s.atReg 0 FLT.INJECT_CODE.addr fun s => s.inject (code % 256) (unit % 4096))

/-- R500: the oldest record leaves the log. -/
def State.popLog (s : State) : State := { s with hub := { s.hub with log := s.hub.log.drop 1 } }

/-- LOG_POP (R500). -/
def execLogPop (s : State) : Host.Outcome State Fault Refusal :=
  .next (s.atReg 0 FLT.LOG_POP_POP.addr fun s => s.popLog)

/-- R490: FLT.STW.RESTART of steward `w`. -/
def State.restartSteward (s : State) (w : Nat) : State :=
  if bitOf (s.rd FLT.STW_PRESENT) w then s.wr FLT.STATUS_WR_IGN 1
  else
    let t := (s.resetSteward w).modSteward w fun x => { x with inReset := false, pc := 2 * s.rd PWR.WAKE_VEC_ADDR }
    (t.wrs [(FLT.STW_FAULTED, clearBit (s.rd FLT.STW_FAULTED) w), (EVC.STW_STATE_LEVEL w, 1)]).recall fun e => e.2 == w

/-- STEWARD_RESTART (R490): a write of the RESTART bits `v`. -/
def execStewardRestart (v : Nat) (s : State) : Host.Outcome State Fault Refusal :=
  .next (s.atReg 0 FLT.STW_RESTART.addr fun s => (onesBelow v 4).foldl State.restartSteward s)

/-! ### Self-test slices (R493 to R498) -/

/-- R494: lane `n` of block `b` is free for a slice. -/
def State.laneFree (s : State) (b n : Nat) : Bool :=
  let c := 8 * b + n / 4
  !s.cellBusy c && !(s.enabled c && s.bonds.any fun d => d.lead == s.leadOf c) && !s.flag (PIN.MEAS_PEND c (n % 4))

/-- R494: no caravan streams from channel `r`. -/
def State.noStream (s : State) (r : Nat) : Bool :=
  !((List.range 256).any fun c => (List.range 4).any fun n => s.flag (SEQ.SD_CTRL_ACTIVE c n) &&
    targetOf (16 * s.rd (SEQ.SD_ADDR_ADDR c n)) == .ddr r)

/-- R494: the resources of a slice are free. -/
def State.sliceFree (s : State) (k target lane : Nat) : Bool :=
  match k with
  | 0 => s.blockOn target && (List.range 32).all (s.laneFree target)
  | 4 => s.rd (PLL.STATUS_STATE target) == pllLocked
  | 5 => true
  | 6 => s.rd (DDR.STATUS_STATE target) == ddrReady && s.noStream target && !s.flag (LDG.CTRL_EN 0)
  | 7 => !s.flag PCI.STATUS_LINK_UP
  | _ => s.blockOn target && s.laneFree target lane && (s.block target).adcQ.isEmpty

/-- R499: TARGET is in range. -/
def targetOk (k target : Nat) : Bool := if k ≤ 4 then decide (target < 32) else if k = 6 then decide (target < 4) else true

/-- R493, R497: the unit that a slice names: its target, 0 for a chip slice. -/
def sliceTarget (k target : Nat) : Nat := if k = 5 ∨ k = 7 then 0 else target

/-- R493, R497: a slice whose resources are free starts. -/
def State.sliceStart (s : State) (k target lane : Nat) : State :=
  (({ s with bst := { s.bst with run := some (k, sliceTarget k target, lane) } }).wrs
    [(BST.RUN_GO, 1), (BST.RESULT_RESULT, 0), (BST.RESULT_DONE, 0), (BST.RESULT_STEPS, 0), (BST.RESULT_EXPECT, sliceExpect k),
      (BST.RESULT_SLICE, k), (BST.SIG_SIG, 256 * k + sliceTarget k target), (BST.DIAG_FAIL_VALID, 0)]).count BST.COUNT_RUNS 1

/-- R494: a slice is requested through BST.RUN. -/
def State.sliceGo (s : State) (k target lane : Nat) : State :=
  if s.bst.run.isSome || !targetOk k target then s.wr BST.EVT_WR_IGN 1
  else if s.rd LC.STATE_STATE != 7 && !s.frozen && s.sliceFree k target lane then s.sliceStart k target lane
  else
    s.wrs [(BST.RESULT_RESULT, 5), (BST.RESULT_DONE, 0), (BST.RESULT_STEPS, 0), (BST.RESULT_EXPECT, sliceExpect k),
      (BST.RESULT_SLICE, k), (BST.EVT_DONE, 1)]

/-- R499: a write of the bits `mask` of BST.RUN. -/
def State.writeRun (s : State) (mask v : Nat) : State :=
  let t := s.wrs (([BST.RUN_SLICE, BST.RUN_TARGET, BST.RUN_LANE]).map fun f => (f, s.merged f mask v))
  if bitOf (Nat.land mask v) 63 then t.sliceGo (t.rd BST.RUN_SLICE) (t.rd BST.RUN_TARGET) (t.rd BST.RUN_LANE) else t

/-- SLICE_GO (R494): BST.RUN is written with GO = 1. -/
def execSliceGo (k target lane : Nat) (s : State) : Host.Outcome State Fault Refusal :=
  .next (s.atReg 0 BST.RUN_GO.addr fun s => s.writeRun (2 ^ 64 - 1) (k % 8 + 256 * (target % 32) + 65536 * (lane % 32) + 2 ^ 63))

/-- R497: the signature takes in 16 bits. -/
def sigTake (c v : Nat) : Nat := crc64Byte (crc64Byte c v) (v / 256)

/-- R497: the record of step `n`. -/
def stepRecord (n : Nat) (pass : Bool) : Nat := n + 2 ^ 15 * b2n pass

/-- R497: the completion path ends a signature. -/
def sigEnd (c steps : Nat) : Nat := sigTake (sigTake c 0x4F4B) steps

/-- R497: the expected signature of slice `k`. -/
def sigExpected (k target : Nat) : Nat :=
  sigEnd ((List.range (sliceExpect k)).foldl (fun c n => sigTake c (stepRecord (n + 1) true)) (256 * k + target)) (sliceExpect k)

/-- R497: a step of the running slice completes. -/
def State.sliceStep (s : State) (pass : Bool) (meas : Nat) : State :=
  let n := s.rd BST.RESULT_STEPS + 1
  let t := s.wrs [(BST.RESULT_STEPS, n), (BST.SIG_SIG, sigTake (s.rd BST.SIG_SIG) (stepRecord n pass))]
  if pass || s.flag BST.DIAG_FAIL_VALID then t
  else t.wrs [(BST.DIAG_FAIL_STEP, n), (BST.DIAG_FAIL_VALID, 1), (BST.DIAG_MEAS, meas)]

/-- SLICE_STEP (R497): `pass` against the step's limits; `meas` is its measurement. -/
def execSliceStep (pass : Bool) (meas : Nat) (s : State) : Host.Outcome State Fault Refusal :=
  .next (if s.bst.run.isSome && decide (s.rd BST.RESULT_STEPS < s.rd BST.RESULT_EXPECT) then s.sliceStep pass meas else s)

/-- R497, R498: the running slice reaches its completion path at Oasis time `t`. -/
def State.sliceComplete (s : State) (k target t : Nat) : State :=
  let steps := s.rd BST.RESULT_STEPS
  let sig := sigEnd (s.rd BST.SIG_SIG) steps
  let res := if steps ≠ sliceExpect k then 3 else if sig = sigExpected k target then 1 else 2
  let s1 := (s.wr BST.SIG_SIG sig).endSlice res true
  let s2 := if res = 3 then (s1.wr BST.EVT_ABORTED 1).count BST.COUNT_ABORTS 1 else s1
  if res = 1 then
    { (s2.wr (BST.AGE_LAST k) t).reached PWR.OTIME_TICKS t with
      bst := { s2.bst with late := (List.range 8).map fun j => if j = k then 0 else s2.bst.late.getD j 0 } }
  else s2

/-- SLICE_COMPLETE (R497). -/
def execSliceComplete (t : Nat) (s : State) : Host.Outcome State Fault Refusal :=
  .next (match s.bst.run with
    | some (k, target, _) => s.sliceComplete k target t
    | none => s)

/-- SLICE_OVERTIME (R495). -/
def execSliceOvertime (s : State) : Host.Outcome State Fault Refusal :=
  .next (if s.bst.run.isSome then (s.endSlice 4 false).count BST.COUNT_OVERTIME 1 else s)

/-- R498: the next enabled entry of the scheduler. -/
def State.nextEntry (s : State) : Option Nat :=
  ((List.range 16).map fun k => (s.bst.next + k) % 16).find? fun k => s.flag (BST.SCHED_EN k)

/-- R498: the scheduler offers entry `e`. -/
def State.offer (s : State) (e : Nat) : State :=
  let k := s.rd (BST.SCHED_SLICE e)
  let target := s.rd (BST.SCHED_TARGET e)
  let lane := s.rd (BST.SCHED_LANE e)
  let t := { s with bst := { s.bst with next := (e + 1) % 16 } }
  if s.bst.run.isNone && targetOk k target && s.rd LC.STATE_STATE != 7 && !s.frozen && s.sliceFree k target lane then
    t.sliceStart k target lane
  else t.count BST.COUNT_SKIPS 1

/-- SCHEDULER_OFFER (R498): GAP_US has passed. -/
def execSchedulerOffer (s : State) : Host.Outcome State Fault Refusal :=
  .next (if s.power.sleep < 2 ∧ s.flag BST.SCHED_CTRL_EN = true then (match s.nextEntry with
    | some e => s.offer e
    | none => s) else s)

/-- R498: slice `j` has not passed for one more LIMIT_S at Oasis time `t`. -/
def State.ageLate (s : State) (j t : Nat) : State :=
  let n := s.bst.late.getD j 0
  let limit := 32768 * s.rd (BST.AGE_LIMIT_S j)
  if limit = 0 ∨ t < s.rd (BST.AGE_LAST j) + limit * (n + 1) then s
  else
    { (s.wr BST.EVT_LATE 1).reached PWR.OTIME_TICKS t with
      bst := { s.bst with late := (List.range 8).map fun i => if i = j then n + 1 else s.bst.late.getD i 0 } }

/-- AGE_LATE (R498). -/
def execAgeLate (j t : Nat) (s : State) : Host.Outcome State Fault Refusal := .next (if j < 8 ∧ s.power.sleep < 2 then s.ageLate j t else s)

end Sys2Proof.Machine
end

