-- ==== Sys2Proof/Machine/Resets.lean ====
section
/-! DEFINITION. Resets and the start-up sequence (spec/21), loss of power, and the wake that restores the device (R415). -/

namespace Sys2Proof.Machine

/-! ### What a reset cuts short (R337, R507) -/

/-- Four code words of 72 free bits. -/
def State.freeWords (s : State) : Nat → State × List Nat
  | 0 => (s, [])
  | n + 1 => let r := s.drawn.freeWords n; (r.1, s.freeVal 72 :: r.2)

/-- R337, R507: the operation that runs in the Store is cut: of the sector, or the journal half, that it erases, the code
words `gone` are erased and the code words `bad` read uncorrectable; a code word being programmed reads as programmed
(`res` 0), as not blank (1) or as uncorrectable (2). -/
def State.storeCut (s : State) (gone bad : List Nat) (res : Nat) : State :=
  let cut (t : State) (lo n : Nat) : State :=
    bad.foldl (fun u k => u.cwSpoil (lo + k % n)) (gone.foldl (fun u k => u.cwErase (lo + k % n) (lo + k % n + 1)) t)
  let t := match s.store.op with
    | some (.program _ k ws) =>
      if res = 0 then s.cwProgram k ws
      else if res = 1 then (let r := s.freeWords 4; r.1.cwProgram k r.2)
      else (s.cwProgram k ws).cwSpoil k
    | some (.erase _ x _) => cut s (4096 * x) 4096
    | some (.rollover _) => cut s (halfBase (1 - s.half)) (halfBase 1 - halfBase 0)
    | some .recovery => cut s (halfBase (1 - s.half)) (halfBase 1 - halfBase 0)
    | none => s
  { t with store := { t.store with op := none, waiting := [] } }

/-! ### Reset of the device (R503, R504, R506) -/

/-- R503, R511: the power controller after a reset of the device: every domain on, level P0, nothing in progress; the
other PWR registers keep their values. -/
def State.powerReset (s : State) : State :=
  { s.wrs [(PWR.DOMAINS_BLK_ON, 2 ^ 32 - 1), (PWR.DOMAINS_RGN_ON, 15), (PWR.STATUS_LEVEL, 0), (PWR.STATUS_VOLT_LAG, 0),
      (PWR.STATUS_ENTERING, 0), (PWR.CMD_STATUS_PEND, 0), (PWR.SLEEP_PEND, 0)] with
    power := { PowerX.reset with voltLevel := s.power.voltLevel, vout := s.power.vout } }

/-- R503, R504: the chip, steward, region and block domains are reset, and with `pcie` the PCIe core; bonded sessions
close, mailbox nonces and debug tokens go, freeze ends, WAKE# is not driven (R508, R513). DDR5 contents are not guaranteed: nothing of them is kept
(log 4). -/
def State.resetDomains (s : State) (pcie : Bool) : State :=
  let s1 := s.closeBonds fun _ => true
  let s2 := (List.range 4).foldl State.dropRegion ((List.range 32).foldl State.dropBlock s1)
  let s3 := (s2.dropChip pcie).clearMem stewardBase (stewardBase + 0x400000)
  let s4 := (s3.clearMem (ddrBase 0) (ddrBase 4)).powerReset
  { s4 with
    objor := { s4.objor with error := false, scanToken := false }
    stewards := [], retired := [], runs := [], bonds := [], answer := []
    host := { s4.host with wakeN := false }
    rst := { s4.rst with scanning := false, due := none, capture := none } }

/-- R506: a device reset ends the running DMA channels with a device error. -/
def State.deviceReset (s : State) : State := (s.endChannels 2).resetDomains false

/-- CHIP.RST_CAUSE bit `k`. -/
def causeFld (k : Nat) : Fld :=
  ([CHIP.RST_CAUSE_POR, CHIP.RST_CAUSE_COLD, CHIP.RST_CAUSE_PIN, CHIP.RST_CAUSE_SOFT, CHIP.RST_CAUSE_LC,
    CHIP.RST_CAUSE_SUPPLY]).getD k CHIP.RST_CAUSE_POR

/-! ### The start-up sequence (R508 to R511) -/

/-- R508 step 5, R495: steward `w` is released at word address `vec` in machine mode, its registers at reset values. -/
def State.releaseSteward (s : State) (vec w : Nat) : State :=
  (s.modSteward w fun _ => { Steward.reset with inReset := false, pc := 2 * vec }).wr (EVC.STW_STATE_LEVEL w) 1

/-- R269: the boot plane of block `b` is loaded, or the block stays unconfigured. -/
def State.instantOn (s : State) (b : Nat) : State :=
  match s.bootPlane b with
  | some p => (s.bootPll b p).senseBlock b (some p)
  | none => s.senseBlock b none

/-- R508 steps 5 to 8, which LOCKED skips (R510). -/
def State.startSteps (s : State) : State :=
  if s.rd LC.STATE_STATE = 7 then (List.range 32).foldl (fun t b => t.senseBlock b none) s
  else
    let s1 := (List.range 4).foldl (fun t w => t.releaseSteward (s.rd CHIP.BOOT_VEC_ADDR) w) s
    let s2 := { s1.wrs [(CHIP.START_STW_REL, 1), (CHIP.START_REL_US, s.freeVal 32), (CHIP.CAL_STATUS_BUSY, 1)] with
      cal := [.full], freeCtr := s1.freeCtr + 1 }
    ((List.range 32).foldl (fun t b => t.instantOn b) s2).wr CHIP.START_MEM_INIT 1

/-- R508 to R511, R412, R504: the start-up sequence from its step 1. Its steps take no time here. The random bit generator
is seeded again. -/
def State.startUp (s : State) : State :=
  let s1 := { s with objor := { s.objor with seeds := s.objor.seeds + 1, draws := 0 } }
  let s2 := ((s1.setSaveFlags 0).recoverJournal.wr CHIP.START_STORE_DONE 1).decodeLc.wr CHIP.START_LC_DONE 1
  s2.recoverErase.startSteps

/-- R503: a reset of cause `k` (bit of RST_CAUSE) has happened and the device starts. -/
def State.started (s : State) (k : Nat) : State :=
  let t := { s with rst := { s.rst with held := false, supply := false } }
  (((if s.rst.supply then t.wr CHIP.RST_CAUSE_SUPPLY 1 else t).wr (causeFld k) 1)).startUp

/-! ### Power (R501 to R503, R368) -/

/-- What is non-volatile: registers that show plane headers, Objor's records, execute-only regions of the Store. -/
def keepsPower (k : Nat) : Bool :=
  let a := k / 64
  (decide (0x1000000 ≤ a) && decide (a < 0x2000000) && decide (0x20010 ≤ a % 0x80000) && decide (a % 0x80000 < 0x20030)) ||
    (decide (0x100028 ≤ a) && decide (a < 0x100030)) || (decide (0x100400 ≤ a) && decide (a < 0x100600)) ||
    (decide (0x100800 ≤ a) && decide (a < 0x101000)) || (decide (0x500200 ≤ a) && decide (a < 0x500280))

/-- A block without power: its planes. -/
def BlockX.planesOnly (x : BlockX) : BlockX := { BlockX.reset with planeA := x.planeA, planeB := x.planeB }

/-- R368: the counts resume at their highest logged ceilings. -/
def State.resumeCounts (s : State) : State :=
  let t := if s.objor.ident.isSome ∧ s.ceiling 0 0 ≠ 0 then s.wr OBJ.SEAL_CNT_NEXT (s.ceiling 0 0) else s
  (List.range 15).foldl (fun u k => u.wr (OBJ.SLOT_A_USES (k + 1)) (u.ceiling (k + 1) (u.rd (OBJ.SLOT_B_MANIFEST_ID (k + 1))))) t

/-- R503: VAUX and the other rails are gone: what is not non-volatile is lost. -/
def State.unpowered (s : State) : State :=
  ({ State.resetOf s.grade with
    regs := s.regs.filter fun e => keepsPower e.1
    mem := s.mem.filter fun e => decide (storeBase ≤ e.1) && decide (e.1 < codeBase)
    blocks := s.blocks.foldl (fun (t : Tab BlockX) (e : Nat × BlockX) => Tab.set BlockX.reset t e.1 e.2.planesOnly) []
    store := { s.store with op := none, waiting := [] }
    objor := { ObjorX.reset with
      ident := s.objor.ident, cert := s.objor.cert, slots := s.objor.slots, owners := s.objor.owners, fleets := s.objor.fleets
      seeds := s.objor.seeds }
    freeCtr := s.freeCtr, pending := s.pending }).resumeCounts

/-- R267, R337, R507: power is lost; `gone` and `bad` say with `c.res` what a Store operation leaves. -/
def State.powerCut (s : State) (gone bad : List Nat) (c : PowerCut) : State :=
  ((c.torn.filter fun b => decide (b < 32)).foldl State.tearHeader (s.storeCut gone bad c.res)).wearPlanes c.worn

/-- POWER_LOSS (R503, R507): the rails are removed. -/
def execPowerLoss (gone bad : List Nat) (res : PowerCut) (s : State) : Host.Outcome State Fault Refusal :=
  .next (s.powerCut gone bad res).unpowered

/-- POWER_ON_RESET (R503): VAUX rises; the device waits for its release. -/
def execPowerOnReset (gone bad : List Nat) (res : PowerCut) (s : State) : Host.Outcome State Fault Refusal :=
  .next (s.powerCut gone bad res).unpowered

/-- PWR_OK_RELEASE (R502, R508): the release of a power-on reset, or a cold start. -/
def execPwrOkRelease (s : State) : Host.Outcome State Fault Refusal :=
  .next (if s.rst.held then (s.started (if s.rst.supply then 1 else 0)) else s)

/-- PWR_OK_FALL (R502): the device returns to reset, VAUX present. -/
def execPwrOkFall (gone bad : List Nat) (res : PowerCut) (s : State) : Host.Outcome State Fault Refusal :=
  .next (if s.rst.held then s
    else
      let t := (s.powerCut gone bad res).resetDomains true
      { t with rst := { t.rst with held := true, supply := true } })

/-! ### Device reset (R503, R506, R514, R515) -/

/-- R513: what the pins do at the assertion of RESET_N: lanes go safe, the general-purpose pins take their reset state (R466), the
Convoy link drives nothing. -/
def State.pinsReset (s : State) : State :=
  let t := (s.safeCells 0 (List.range 256)).resetRegs 0x700000 0x800000
  { t with gpio := GpioX.reset, cvy := { t.cvy with out := [] } }

/-- RESET_N (R503, R513): RESET_N is low for 1 µs and a device reset is due; in DOZE and DORMANT it is a cold start. -/
def execResetN (s : State) : Host.Outcome State Fault Refusal :=
  .next (if s.rst.held then s
    else if 2 ≤ s.power.sleep then (s.resetDomains true).started 2
    else { s.pinsReset with rst := { s.rst with due := some 2 } })

/-- R514, R515: a write of `key` to CHIP.RESET. -/
def State.chipReset (s : State) (key : Nat) : State :=
  if key % 65536 = 0xB007 ∧ !s.rst.held then { s with rst := { s.rst with due := some 3 } } else s

/-- CHIP_RESET (R515). -/
def execChipReset (key : Nat) (s : State) : Host.Outcome State Fault Refusal :=
  .next (s.atReg 0 CHIP.RESET_KEY.addr fun s => s.chipReset key)

/-- DEVICE_RESET (R506): the device reset that is due; `res` is as in `PowerCut`: what is programmed, and the planes worn. -/
def execDeviceReset (gone bad : List Nat) (res : Nat × List (Nat × Nat)) (s : State) : Host.Outcome State Fault Refusal :=
  .next (match s.rst.due with
    | some k => (((s.storeCut gone bad res.1).wearPlanes res.2).deviceReset).started k
    | none => s)

/-! ### The wake that restores the device (R415, R416, R505, R517) -/

/-- R458: a restored SYNC_EN = 1 pulls the flag, as its setting does. -/
def State.flagAgain (s : State) : State := if s.flag CVY.CFG_SYNC_EN then s.pullFlag.signalArrival else s

/-- R415 step 2, R505: the chip domain after DORMANT: journal, life cycle, chip save; Objor is READY where its self-tests
had passed. -/
def State.raiseChip (s : State) : State :=
  let s1 := s.recoverJournal.decodeLc.recoverErase
  let s2 := match s1.takeArea 36 chipArea 0x10000 with
    | (some v, u) => u.unpack chipSaved v
    | (none, u) => u.wr PWR.RESTORE_CHIP 1
  ((s2.setSaveFlags (clearBit s2.saveFlags 36)).wrs [(OBJ.STATUS_READY, b2n (s.flag OBJ.KAT_DONE && !s.objor.error)),
    (OBJ.STATUS_ERROR, b2n s.objor.error), (OBJ.STATUS_IDENT, b2n s.objor.ident.isSome)]).approvedNow.flagAgain

/-- R415: the wake from sleep state `k` (2 DOZE, 3 DORMANT) is restored. -/
def State.restoreWake (s : State) (k : Nat) : State :=
  let s1 := { s with power := { s.power with sleep := 0, wakes := [] }, gpio := { s.gpio with pads := [] } }
  let s2 := if k = 3 then s1.raiseChip else s1
  let s3 := if s2.rd LC.STATE_STATE = 7 then s2
    else (List.range 4).foldl (fun t w => t.releaseSteward (s.rd PWR.WAKE_VEC_ADDR) w) s2
  let s4 := if s.flag PWR.CTRL_LEGACY_WAKE then s3
    else (onesBelow s.power.wasBlocks 32).foldl (fun t b => t.raise b)
      ((onesBelow s.power.wasRegions 4).foldl (fun t r => t.raise (32 + r)) s3)
  let s5 := s4.wrs [(PWR.EVT_WOKE, if s.flag PWR.CTRL_LEGACY_WAKE then s4.rd PWR.EVT_WOKE else 1), (PWR.SLEEP_STATUS_OUTCOME, 1)]
  (if k = 3 ∧ s.rd PWR.LAST_WAKE_SRC ≠ 3 then { s5 with host := { s5.host with wakeN := true } } else s5).pwrSettle

/-- WAKE_RESTORE (R415): the device wakes from DOZE or DORMANT; after a supply excursion it starts cold (R517). -/
def execWakeRestore (s : State) : Host.Outcome State Fault Refusal :=
  .next (if s.power.sleep < 2 ∨ s.power.wakes.isEmpty = true then s
    else if s.flag PWR.STATUS_SLEEP_SUPPLY then (s.resetDomains true).started 5
    else s.restoreWake s.power.sleep)

end Sys2Proof.Machine
end

