-- ==== Sys2Proof/Machine/Registers.lean ====
section
/-! DEFINITION. Register space (R7 to R10, R534, R535): which register an address names, what a read of it returns, and what a
write of it does. A field that a rule gives an effect of its own acts by the operation of that rule. -/

namespace Sys2Proof.Machine

/-! ### Units and headings -/

/-- The units of the register index (R534, R535). -/
inductive RUnit where
  | cel | seq | pin | tim | blk | pll | apg | fab | dep | rgn | ddr | ldg | chip | obj | lc | pwr | evc | sto | noc | mpr
  | gpio | cvy | pci | msix | dma | dbg | bst | flt
  deriving DecidableEq, Repr

/-- A register: its unit, the instance of the unit, the offset of its heading, its two indices, its fields. -/
structure RegRef where
  unit : RUnit
  k : Nat
  off : Nat
  i : Nat
  j : Nat
  fields : List FInfo

/-- R534, R535: the unit, the instance and the offset in its window that an address names, and the unit's headings. -/
def unitAt (a : Nat) : Option (RUnit × Nat × Nat × List RegDesc) :=
  let o := a % 0x100000
  if a < 0x1000000 then
    match a / 0x100000 with
    | 0 => some (.chip, 0, o, CHIP.regTable)
    | 1 => some (.obj, 0, o, OBJ.regTable)
    | 2 => some (.lc, 0, o, LC.regTable)
    | 3 => some (.pwr, 0, o, PWR.regTable)
    | 4 => some (.evc, 0, o, EVC.regTable)
    | 5 => some (.sto, 0, o, STO.regTable)
    | 6 => if o < 0x80000 then some (.noc, 0, o, NOC.regTable) else some (.mpr, 0, o, MPR.regTable)
    | 7 => some (.gpio, 0, o, GPIO.regTable)
    | 8 => some (.cvy, 0, o, CVY.regTable)
    | 9 => if o < 0x10000 then some (.pci, 0, o, PCI.regTable)
      else if o < 0x80000 then some (.msix, 0, o - 0x10000, MSIX.regTable) else some (.dma, 0, o - 0x80000, DMA.regTable)
    | 10 => some (.dbg, 0, o, DBG.regTable)
    | 11 => some (.bst, 0, o, BST.regTable)
    | 12 => some (.flt, 0, o, FLT.regTable)
    | _ => none
  else if a < 0x2000000 then
    let b := (a - 0x1000000) / 0x80000
    let o := a % 0x80000
    if o < 0x8000 then some (.blk, b, o, BLK.regTable b)
    else if o < 0x10000 then some (.pll, b, o, PLL.regTable b)
    else if o < 0x20000 then some (.apg, b, o, APG.regTable b)
    else if o < 0x30000 then some (.fab, b, o, FAB.regTable b)
    else some (.dep, b, o, DEP.regTable b)
  else if a < 0x3000000 then
    let c := (a - 0x2000000) / 0x10000
    let o := a % 0x10000
    if o < 0x1000 then some (.cel, c, o, CEL.regTable c)
    else if o < 0x4000 then some (.seq, c, o, SEQ.regTable c)
    else if o < 0x8000 then some (.pin, c, o, PIN.regTable c)
    else some (.tim, c, o, TIM.regTable c)
  else if a < 0x3400000 then
    let r := (a - 0x3000000) / 0x100000
    if o < 0x40000 then some (.rgn, r, o, RGN.regTable r)
    else if o < 0x80000 then some (.ddr, r, o, DDR.regTable r)
    else some (.ldg, r, o, (LDG.regTable r).filter fun d => r == 0 || (d.off != 0x80000 && d.off != 0x82000))
  else none

/-- The heading among `ds` whose register lies at offset `o`, with its indices. -/
def RegDesc.find (o : Nat) : List RegDesc → Option (RegDesc × Nat × Nat)
  | [] => none
  | d :: t =>
    let x := o - d.off
    let i := x / d.st0
    let j := x % d.st0 / d.st1
    if d.off ≤ o ∧ i < d.n0 ∧ j < d.n1 ∧ x = i * d.st0 + j * d.st1 then some (d, i, j) else RegDesc.find o t

/-- The register at an 8-byte-aligned address; none where no register is assigned. -/
def regAt (a : Nat) : Option RegRef :=
  match unitAt a with
  | none => none
  | some (u, k, o, ds) => (RegDesc.find o ds).map fun e => ⟨u, k, e.1.off, e.2.1, e.2.2, e.1.fields e.2.1 e.2.2⟩

/-- R461: CVY.DIAG is reachable. -/
def State.diagOpen (s : State) : Bool := s.rd LC.STATE_STATE != 2 || bitOf (s.rd DBG.AUTH_PERM) 3

/-! ### What a read returns -/

/-- A field whose value follows from other state: lowest bit, the value, and the bits of it that are free (log 1). -/
abbrev Derived := Nat × Nat × Nat

/-- All bits of a field. -/
abbrev allBits : Nat := 2 ^ 64 - 1

/-- A field with a value. -/
def known (lsb v : Nat) : Derived := (lsb, v, 0)
/-- A field whose value the spec, or a clock that the model leaves out, determines and no state holds (log 1). -/
def unknown (lsb : Nat) : Derived := (lsb, 0, allBits)

/-- R142, R149: PIN.STATEn as the lane stands: CH, CL, PPMU_ON and DCHK_ACT. -/
def State.pinState (s : State) (c n : Nat) : List Derived :=
  (if s.bondedLane c n || s.flag (PIN.STATE_SAFE c n) then [known 9 0, known 10 0] else [unknown 9, unknown 10]) ++
    [known 11 (b2n (s.flag (PIN.CTRL_EN c n) && !s.flag (PIN.STATE_SAFE c n) && s.rd (PIN.PMU_MODE c n) != 0)),
      known 14 (b2n (s.dchkActive c n))]

/-- SEQ.STATUS: SHORT, RING_LOW and IN_XO. -/
def State.seqStatus (s : State) (c : Nat) : List Derived :=
  [known 4 (b2n (s.enabled c && s.isShort (s.leadOf c) c)), known 5 (b2n (s.streamWarning c)),
    known 18 (b2n (s.xowOf c (s.rd (SEQ.PC_PC (if s.enabled c then s.leadOf c else c)))).isSome)]

/-- R304: NOC.SLOTSc.FREE. -/
def State.slotsFree (s : State) (c : Nat) : Nat :=
  classSlots c - ((List.range (classInstances c)).map (s.instanceUse c)).foldl max 0

/-- R303: NOC.BERTHi_c.HELD. -/
def State.berthHeld (s : State) (i c : Nat) : Nat := ((List.range (classInstances c)).map fun n => s.held i (c, n)).foldl max 0

/-- R469: GPIO.INk: the pins that the device drives show their level, the others what the board drives. -/
def State.gpioIn (s : State) (k : Nat) : Derived :=
  (0, fromBits (fun i => (s.pinIn (32 * k + i)).getD false) 32, fromBits (fun i => (s.pinIn (32 * k + i)).isNone) 32)

/-- R474: what DATA of serial controller `i` reads as: the oldest received byte. -/
def State.serialData (s : State) (i : Nat) : List Derived :=
  match (s.serial i).rx with
  | [] => [unknown 0]
  | v :: _ => [known 0 v]

/-- R474: STATUS of serial controller `i`. -/
def State.serialLevels (s : State) (i : Nat) : List Derived :=
  [known 0 (s.serial i).tx.length, known 8 (s.serial i).rx.length]

/-- R484: the oldest record of the fault log, as FLT.LOG_A. -/
def State.logView (s : State) : List Derived :=
  match s.hub.log with
  | [] => []
  | r :: _ => [known 0 r.code, known 8 r.scope, known 12 r.unit, known 24 (b2n r.inj), known 25 (b2n r.esc), known 26 1]

/-- R423 to R437: the event controller's views of source groups and stewards. -/
def State.evcView (s : State) (off i : Nat) : List Derived :=
  match off with
  | 0x100 => [known 0 (s.stwLevel i), known 2 (b2n (s.stwAsleep i))]
  | 0x1000 => [known 0 (fromBits (fun n => (s.src (64 * i + n)).inp) 64)]
  | 0x1100 => [known 0 (fromBits (fun n => s.srcPending (64 * i + n)) 64)]
  | 0x1200 => [known 0 (fromBits (fun n => (s.src (64 * i + n)).active.isSome) 64)]
  | 0x1300 => [known 0 (fromBits (fun n => (s.src (64 * i + n)).hpend) 64)]
  | _ => []

/-- Fields of the cell and block units that follow from other state. -/
def State.derivedLow (s : State) (u : RUnit) (k off i : Nat) : List Derived :=
  match u, off with
  | .cel, 0x28 => if s.testModes then [] else [known 0 0]
  | .cel, 0x30 => [known 0 (recordCount (s.cell k).failQ)]
  | .seq, 0x1020 => s.seqStatus k
  | .seq, 0x1028 => if s.enabled k then [known 0 (s.rd (SEQ.PC_PC (s.leadOf k)))] else []
  | .seq, 0x1068 => let v := s.evqView k; [known 0 v, known 16 (v / 2 ^ 16), known 31 (v / 2 ^ 31)]
  | .seq, 0x1088 => if s.enabled k && s.leadOf k != k then [known 0 0, known 8 0, known 16 0, known 32 0] else []
  | .seq, 0x1308 => [known 48 ((s.headDesc k).getD 0)]
  | .pin, 0x4060 => s.pinState k i
  | .pin, 0x4240 => [known 0 (s.rd (PIN.MEAS_PEND k i))]
  | .pll, 0x8058 => [known 0 (strideLimit s.grade.code s.limitLevel)]
  | .apg, 0x10010 => [known 0 ((s.apgHolder k).getD 0), known 8 (b2n (s.apgHolder k).isSome)]
  | .fab, 0x20008 => if (s.block k).committing then [unknown 7] else []
  | .fab, 0x20100 => [known 0 (s.cell (8 * k + i)).laneQ.length]
  | .dep, 0x30010 => if s.testModes then [] else [known 0 0]
  | _, _ => []

/-- Fields of the region units that follow from other state. -/
def State.derivedRegion (s : State) (u : RUnit) (k off i : Nat) : List Derived :=
  match u, off with
  | .rgn, 0x1018 => [known 1 (b2n (s.convoyWaiting.any fun n => s.rd (RGN.SGRP_MASK k n) != 0))]
  | .ldg, 0x80008 => [known 2 (b2n (s.spillFill k == 262144))]
  | .ldg, 0x82000 => [known 9 (b2n (s.isRetired i ((s.rd (LDG.SITE_EPOCH 0 i) + 1) % 256)))]
  | _, _ => []

/-- R392, R399: the capture and the transit queue that TQ_SEL shows; none before a capture, or beyond COUNT. -/
def State.transitShown (s : State) : Option (Nat × Nat) :=
  match s.rst.capture with
  | some n => if s.rd DBG.TQ_SEL_QUEUE < Config.transitQueues % 4096 then some (n, s.rd DBG.TQ_SEL_QUEUE) else none
  | none => none

/-- R399: TQ_PTR.WR, RD, SRC and DST of the queue that is shown. -/
def State.transitView (s : State) : List Derived :=
  match s.transitShown with
  | some (n, q) => [known 0 (bits (Config.transitPointers n q) 0 16), known 16 (bits (Config.transitPointers n q) 16 16),
      known 32 (Config.transitEnds q % 9), known 40 (Config.transitEnds q / 9 % 9)]
  | none => []

/-- Fields of the chip units that follow from other state. -/
def State.derivedChip (s : State) (u : RUnit) (off i j : Nat) : List Derived :=
  match u, off with
  | .chip, 0x0 => [known 16 s.grade.code]
  | .chip, 0x208 => if s.flag CHIP.CLK_STATUS_TREF_OK then [unknown 32] else [known 32 0]
  | .sto, 0x80 => if s.testModes then [] else [known 0 0]
  | .sto, 0x118 => if s.testModes then [] else [known 0 0]
  | .noc, 0x0 => [known 1 (b2n ((List.range 292).any fun l => s.flag (NOC.LINK_EVT l)))]
  | .noc, 0x1800 => [known 16 (s.slotsFree i)]
  | .noc, 0x2000 => [known 16 (s.berthHeld i j)]
  | .gpio, 0x0 => [known 4 (Config.bankSupply 0 % 3), known 8 (Config.bankSupply 1 % 3), known 12 (Config.bankSupply 2 % 3)]
  | .gpio, 0x8 => [known 9 (b2n s.hpiEvent)]
  | .gpio, 0x100 => [s.gpioIn i]
  | .gpio, 0x110 => [known 0 (s.rd (GPIO.OUT_OUT i))]
  | .gpio, 0x118 => [known 0 (s.rd (GPIO.OUT_OUT i))]
  | .gpio, 0x1008 => s.serialData i
  | .gpio, 0x1010 => s.serialLevels i
  | .gpio, 0x1208 => s.serialData (4 + i)
  | .gpio, 0x1210 => s.serialLevels (4 + i)
  | .gpio, 0x1308 => s.serialData (6 + i)
  | .gpio, 0x1310 => s.serialLevels (6 + i)
  | .cvy, 0x10 => [if s.flag CVY.STATUS_FLAG_OUT then known 5 0 else unknown 5]
  | .cvy, 0x40 => if !s.diagOpen then [known 0 0, known 1 0, known 32 0] else []
  | .dbg, 0x38 => s.transitView ++ [known 48 Config.transitQueues, known 63 (s.rd DBG.FRZ_STATUS_FROZEN)]
  | .dbg, 0x100 => (s.transitShown.map fun e => known 0 (Config.transitData e.1 e.2 i % 2 ^ 64)).toList
  | .evc, _ => s.evcView off i
  | .bst, 0x0 => [known 63 (b2n s.bst.run.isSome)]
  | .flt, 0x0 => [known 8 s.hub.log.length]
  | .flt, 0x8 => s.logView
  | .flt, 0x10 => (s.hub.log.head?.map fun r => known 0 r.time).toList
  | _, _ => []

/-- The fields of a register that follow from other state. -/
def State.derived (s : State) (r : RegRef) : List Derived :=
  s.derivedLow r.unit r.k r.off r.i ++ s.derivedRegion r.unit r.k r.off r.i ++ s.derivedChip r.unit r.off r.i r.j

/-- R9, R21: the counter in a register that a clock, or a link, advances without a command: Oasis time, the hub's time, the passes
of a scanner (R265: it runs while a plane is loaded), the errors of a running bit-error test. -/
def State.clockCounter (s : State) (r : RegRef) : Option Fld :=
  match r.unit, r.off with
  | .pwr, 0x80 => some PWR.OTIME_TICKS
  | .flt, 0x20 => some FLT.TIME_FIO
  | .fab, 0x20098 => if (s.block r.k).loaded then some (FAB.SCAN_PASSES r.k) else none
  | .cvy, 0x40 => if s.diagOpen && s.flag CVY.DIAG_PRBS_EN then some CVY.DIAG_ERRS else none
  | _, _ => none

/-- R9, R21: before a read, the counter of a register has counted on. -/
def State.countOn (s : State) (r : RegRef) : State :=
  match s.clockCounter r with
  | some f => s.counted f
  | none => s

/-- R9: what a field reads as. -/
def State.fieldView (s : State) (ds : List Derived) (f : FInfo) : Nat :=
  if f.ty == .wo then 0
  else match ds.find? fun d => d.1 == f.fld.lsb with
    | none => s.rd f.fld
    | some d => Nat.lor (Nat.land d.2.1 (notW d.2.2 64)) (Nat.land (s.freeVal 64 / 2 ^ f.fld.lsb) d.2.2) % 2 ^ f.fld.width

/-- R8, R9: the 64 bits that a register reads as. -/
def State.regView (s : State) (r : RegRef) : Nat :=
  let ds := s.derived r
  (r.fields.map fun f => s.fieldView ds f * 2 ^ f.fld.lsb).sum

/-- A view that holds a free value draws one. -/
def State.viewDrawn (s : State) (r : RegRef) : State := if (s.derived r).any fun d => d.2.2 != 0 then s.drawn else s

/-- R9, R10: the RC fields that lie wholly in the bits [lo, hi) of a register are cleared. -/
def State.clearRc (s : State) (fs : List FInfo) (lo hi : Nat) : State :=
  (fs.filter fun f => f.ty == .rc && decide (lo ≤ f.fld.lsb) && decide (f.fld.lsb + f.fld.width ≤ hi)).foldl (fun t f => t.wr f.fld 0) s

/-- R67, R474: reads that take an entry out of a queue. -/
def State.popOnRead (s : State) (r : RegRef) : State :=
  let take (i : Nat) : State := s.setSerial i { s.serial i with rx := (s.serial i).rx.drop 1 }
  match r.unit, r.off with
  | .seq, 0x1068 => s.popEvq r.k
  | .gpio, 0x1008 => take r.i
  | .gpio, 0x1208 => take (4 + r.i)
  | .gpio, 0x1308 => take (6 + r.i)
  | _, _ => s

/-- R7, R534: a register access of `n` bytes at `a` is well formed and lies in a unit's window. -/
def regAccessOk (a n : Nat) : Bool := (n == 4 || n == 8) && a % n == 0 && (unitAt (a / 8 * 8)).isSome

/-- R7 to R10: a read of `n` bytes of register space at `a`, and what it leaves. -/
def State.readReg (s : State) (a n : Nat) : Nat × State :=
  match regAt (a / 8 * 8) with
  | none => (0, s)
  | some r =>
    let lo := 8 * (a % 8)
    let t := s.countOn r
    (bits (t.regView r) lo (8 * n), ((if lo = 0 then (t.viewDrawn r).popOnRead r else t.viewDrawn r)).clearRc r.fields lo (lo + 8 * n))

/-- R7, R315: an access of `n` bytes of register space at `a` that master `m` is granted; `act` is what it does where its register
is served. -/
def State.regAccess (s : State) (m a n : Nat) (act : State → State) (k : Nat := 1) : State :=
  if regAccessOk a n then s.atReg m a act k else { s with answer := [4] }

/-- READ_CLEAR (R9, R10): a read of `n` bytes of register space at `a` that its master is granted. -/
def execReadClear (a n : Nat) (s : State) : Host.Outcome State Fault Refusal :=
  .next (s.regAccess 0 a n (fun s => { (s.readReg a n).2 with answer := [0, (s.readReg a n).1] }) 0)

/-! ### What a write does -/

/-- R102: the WR_IGN bit of a cell unit sets. -/
def State.heldIgnored (s : State) (r : RegRef) : State := if r.unit = .pin then s.pinIgnored r.k else s.seqIgnored r.k

/-- R102: the (H) field of cell `c` cannot change now. -/
def State.fieldHeld (s : State) (c : Nat) (f : FInfo) : Bool :=
  f.h && (s.cellBusy c || (f.fld.addr == (SEQ.CTRL_SERVICE c).addr && s.anyXow c))

/-- R9, R102: a write of the bits `mask` reaches one field. -/
def State.putField (s : State) (r : RegRef) (mask v : Nat) (f : FInfo) : State :=
  let old := s.rd f.fld
  let new := s.merged f.fld mask v
  match f.ty with
  | .rw => if new = old then s else if s.fieldHeld r.k f then s.heldIgnored r else s.wr f.fld new
  | .rwl => if old = 1 then s else s.wr f.fld new
  | .w1c => s.wr f.fld (Nat.land old (notW (bits (Nat.land mask v) f.fld.lsb f.fld.width) f.fld.width))
  | _ => s

/-- A write by field type alone; fields that only Objor writes are left to it. -/
def State.putFields (s : State) (m : Nat) (r : RegRef) (mask v : Nat) : State :=
  (r.fields.filter fun f => !f.objorOnly || m == 61).foldl (fun t f => t.putField r mask v f) s

/-- The bits of a write, those of `mask`. -/
abbrev written (mask v : Nat) : Nat := Nat.land mask v

/-- Writes of the SEQ registers that act by a rule of their own. A steward's marks the run (R361), but for a SEQ.CMD that is
refused (log 128). -/
def State.writeSeq (s : State) (m : Nat) (r : RegRef) (mask v : Nat) : State :=
  let c := r.k
  let w := written mask v
  let t := if m < 4 then s.seqTouch c else s
  match r.off with
  | 0x1000 => if bits mask 0 4 = 0 then t else s.seqCommand c (bits w 0 4) (bits w 4 2) (bitOf w 8) (decide (m < 4))
  | 0x1010 =>
    let u := t.putFields m r mask v
    if u.clockRuns (blockOf c) then u.wr (TIM.UI_UI c) (u.tUiHalfPs c) else u
  | 0x1038 => if bits mask 0 13 = 0 then t else t.writeNextPc c (s.merged (SEQ.NEXT_PC_ADDR c) mask v)
  | 0x1060 => t.writeEvt c w
  | 0x1300 => t.writeRing c mask v
  | 0x1340 => if t.flag (SEQ.SD_CTRL_ARMED c r.i) then t.seqIgnored c else t.putFields m r mask v
  | 0x1348 => if t.flag (SEQ.SD_CTRL_ARMED c r.i) then t.seqIgnored c else t.putFields m r mask v
  | 0x1350 =>
    let u := if t.flag (SEQ.SD_CTRL_ARMED c r.i) && bits mask 1 3 != 0 then
        (t.putField r mask v ⟨SEQ.SD_CTRL_ERR c r.i, .w1c, false, false⟩).seqIgnored c
      else t.putFields m r mask v
    if bitOf w 0 then u.armDesc c r.i else u
  | 0x1400 => t.writePsm c r.i mask v
  | _ => t.putFields m r mask v

/-- Writes of the PIN registers that act by a rule of their own; each is a service request of a held lane (R496). -/
def State.writePinReg (s : State) (m : Nat) (r : RegRef) (mask v : Nat) : State :=
  let c := r.k
  match r.off with
  | 0x4040 => s.writePinCtrl c r.i mask v
  | 0x4100 => s.writeLevels c r.i r.j 0 mask v
  | 0x4108 => s.writeLevels c r.i r.j 1 mask v
  | 0x4200 => s.writePmu c r.i mask v
  | 0x4240 => s.writeMeas c r.i mask v
  | 0x4280 => (s.abortSlice (s.sliceLane c r.i)).putFields m r mask v
  | 0x4400 => s.writeTrim c r.i r.j mask v
  | _ => (s.abortSlice ((List.range 4).any (s.sliceLane c))).putFields m r mask v

/-- Writes of the FAB registers (R257 to R267). -/
def State.writeFab (s : State) (m : Nat) (r : RegRef) (mask v : Nat) : State :=
  let b := r.k
  let own := m == 61
  match r.off with
  | 0x20000 =>
    if bits mask 0 4 = 0 then s
    else match bits v 0 4 with
      | 1 => s.fabWrite b m 0 0 0
      | 2 => s.fabArm b
      | 3 => s.fabDisarm b
      | 4 => s.fabSwap b
      | 5 => s.fabCommit b
      | _ => (s.fabIgnored b (s.freeVal 4)).drawn
  | 0x20040 => if own then s.wr (FAB.PW_SRC_ADDR b) (s.merged (FAB.PW_SRC_ADDR b) mask v) else s.fabIgnored b ignDenied
  | 0x20048 => if own then s.wr (FAB.PW_LEN_WORDS b) (s.merged (FAB.PW_LEN_WORDS b) mask v) else s.fabIgnored b ignDenied
  | 0x20050 =>
    let t := s.wr (FAB.PW_CTRL_RATE b) (s.merged (FAB.PW_CTRL_RATE b) mask v)
    let ms := s.merged (FAB.PW_CTRL_MSLOT b) mask v
    if ms = s.rd (FAB.PW_CTRL_MSLOT b) then t else if own then t.wr (FAB.PW_CTRL_MSLOT b) ms else t.fabIgnored b ignDenied
  | 0x20060 => if own then s.wr (FAB.PW_DIG_DIG b r.i) (s.merged (FAB.PW_DIG_DIG b r.i) mask v) else s.fabIgnored b ignDenied
  | _ => s.putFields m r mask v

/-- Writes of the LDG registers (R223 to R246). -/
def State.writeLdg (s : State) (m : Nat) (r : RegRef) (mask v : Nat) : State :=
  let k := r.k
  let w := written mask v
  let base (f : Fld) : State :=
    let n := s.merged f mask v
    if s.flag (LDG.CTRL_EN 0) || n % 8 != 0 then s.ldgIgnored k else s.wr f n
  match r.off with
  | 0x80000 => s.writeLdgCtrl mask v
  | 0x80010 => base (LDG.TBL_BASE_WORD k)
  | 0x80018 => base (LDG.SPILL_BASE_WORD k)
  | 0x80020 => s.writeSpillHead k (s.merged (LDG.SPILL_HEAD_COUNT k) mask v)
  | 0x80038 => if bitOf w 0 then s.ldgFlush k else s
  | 0x80080 =>
    let key := s.merged (LDG.LK_KEY_KEY k) mask v
    if bitOf w 63 then s.lookupGo k key else s.wr (LDG.LK_KEY_KEY k) key
  | 0x800C0 =>
    let i := s.merged (LDG.DIG_CTRL_LEAD k) mask v
    if bitOf w 8 then s.digestGo k i else s.wr (LDG.DIG_CTRL_LEAD k) i
  | 0x81000 =>
    if s.cellBusy (64 * k + r.i) && s.leadOf (64 * k + r.i) == 64 * k + r.i then s.ldgIgnored k
    else if s.merged (LDG.CVCFG_ADDR_SRC k r.i) mask v = 3 then s.ldgIgnored k
    else s.putFields m r mask v
  | 0x81200 =>
    let t := s.putFields m r mask v
    let u := if bitOf w 2 then t.drainGo (64 * k + r.i) else t
    if bitOf w 3 then u.allocGo (64 * k + r.i) else u
  | 0x82000 => if bitOf w 8 then s.clearSite r.i else s
  | _ => s.putFields m r mask v

/-- Writes of the RGN and DDR registers. -/
def State.writeRegion (s : State) (m : Nat) (r : RegRef) (mask v : Nat) : State :=
  match r.unit, r.off with
  | .rgn, 0x1000 => s.writeGang r.k mask v
  | .rgn, 0x1008 => s.writeApgOwn r.k mask v
  | .rgn, 0x2000 => s.writeSgrp r.k r.i mask v
  | .ddr, 0x40000 =>
    let st := s.rd (DDR.STATUS_STATE r.k)
    if st = ddrOff ∨ st = ddrFailed then s.putFields m r mask v else s.wr (DDR.STATUS_WR_IGN r.k) 1
  | .ddr, 0x40008 => if bitOf (written mask v) 0 then s.ddrTrain r.k else s
  | _, _ => s.putFields m r mask v

/-- R394: a write of DBG.FRZ_CTRL. The enable bits are judged first, then FREEZE, then THAW. -/
def State.writeFrzCtrl (s : State) (m : Nat) (r : RegRef) (mask v : Nat) : State :=
  let change := r.fields.any fun f => f.ty == .rw && s.merged f.fld mask v != s.rd f.fld
  let t := if s.flag DBG.FRZ_STATUS_FROZEN then (if change then s.wr DBG.FRZ_STATUS_WR_IGN 1 else s) else s.putFields m r mask v
  let u := if bitOf (written mask v) 0 then t.triggerFreeze 2 0 else t
  if bitOf (written mask v) 1 then u.thaw else u

/-- R326: a write of STO.CMD. Operand bits that a 4-byte write of the half with OP leaves out act as 0 (log 99). -/
def State.writeStoCmd (s : State) (mask v : Nat) : State :=
  let w := written mask v
  let k := bits w 32 21
  if bits mask 0 4 = 0 then s
  else match bits w 0 4 with
    | 1 => s.readMargin false k (bits w 4 2) 0
    | 2 => s.storeProgram false k 0
    | 3 => s.storeErase false k
    | 8 => s.rawRead false k 0
    | 9 => s.rawProgram false k
    | op => s.storeRefuse false op (if s.storeBusy then 1 else 2)

/-- R418: a write of PWR.CMD. -/
def State.writePwrCmd (s : State) (mask v : Nat) : State :=
  let w := written mask v
  if bits mask 0 4 = 0 then s
  else match bits w 0 4 with
    | 1 => s.changeLevel (bits w 8 2)
    | 2 => s.powerOff (bits w 16 6)
    | 3 => s.powerOn (bits w 16 6)
    | op => s.pwrReject op (if s.pwrBusy then 1 else 2)

/-- Writes of the GPIO registers (R467 to R476). -/
def State.writeGpio (s : State) (m : Nat) (r : RegRef) (mask v : Nat) : State :=
  let w := written mask v
  let push (i : Nat) : State := let t := s.putFields m r mask v; if bits mask 0 8 = 0 then t else t.serialPush i (bits w 0 8)
  match r.off with
  | 0x110 => s.outSet r.i w
  | 0x118 => s.outClr r.i w
  | 0x400 => s.writePin r.i mask v
  | 0x800 => s.writePm r.i mask v
  | 0x900 => s.writeHpi mask v
  | 0x1008 => push r.i
  | 0x1208 => push (4 + r.i)
  | 0x1308 => push (6 + r.i)
  | 0x1018 => if bits mask 0 8 = 0 then s else s.serialGo r.i (bits w 0 8)
  | 0x1218 => if bits mask 0 8 = 0 then s else s.serialGo (4 + r.i) (bits w 0 8)
  | _ => s.putFields m r mask v

/-- Writes of the NOC and MPR registers (R275, R304, R309 to R313). -/
def State.writeNoc (s : State) (m : Nat) (r : RegRef) (mask v : Nat) : State :=
  let w := written mask v
  match r.unit, r.off with
  | .noc, 0x8 =>
    let t := s.putFields m r mask v
    let u := if bitOf w 0 then t.recfgClose else t
    if bitOf w 1 then u.recfgOpen else u
  | .noc, 0x10 => if s.rd NOC.RECFG_STATE = 0 then s.putFields m r mask v else s.wr NOC.STATUS_WR_IGN 1
  | .noc, 0x30 => if bitOf w 0 then s.tollClear else s
  | .noc, 0x2000 => s.writeGrant m r.i r.j mask v
  | .mpr, 0x80000 => s.writeMpr m r.i r.j 0 mask v
  | .mpr, 0x80008 => s.writeMpr m r.i r.j 1 mask v
  | _, _ => s.putFields m r mask v

/-- Writes of the EVC registers (R426 to R437). -/
def State.writeEvc (s : State) (m : Nat) (r : RegRef) (mask v : Nat) : State :=
  let w := written mask v
  let n := bits w 0 11
  match r.off with
  | 0x8 => if bits mask 0 11 = 0 then s else s.setPend n
  | 0x10 => if bits mask 0 11 = 0 then s else s.clrPend n
  | 0x18 => if bits mask 0 11 = 0 then s else s.hostEoi n
  | 0x30 => s.ringDoorbells (bits w 0 4)
  | 0x108 => if bits mask 0 11 = 0 then s else s.writeEoi m r.i n
  | 0x10000 => s.writeSrc r.i false mask v
  | 0x10008 => s.writeSrc r.i true mask v
  | _ => s.putFields m r mask v

/-- R347: master `m` may write mailbox `b`. -/
def mailboxOf (m b : Nat) : Bool := if b = 0 then decide (m < 4) else m == 4

/-- Writes of the chip units that act by a rule of their own. -/
def State.writeChip (s : State) (m : Nat) (r : RegRef) (mask v : Nat) : State :=
  let w := written mask v
  match r.unit, r.off with
  | .chip, 0x10 => s.chipReset (bits w 0 16)
  | .chip, 0x100 => if bitOf w 0 then s.calLoad else s
  | .chip, 0x200 => let t := s.putFields m r mask v; if bitOf w 0 then t.usePll else t
  | .obj, 0x100 =>
    if !mailboxOf m r.i then s.wr OBJ.STATUS_WR_IGN 1
    else if bits mask 0 8 = 0 then s
    else if s.flag (OBJ.MB_STATUS_PEND r.i) then s.mbRefuse r.i (bits w 0 8) 1 0
    else s.mbCommand r.i (bits w 0 8) false
  | .obj, 0x140 => if mailboxOf m r.i then s.putFields m r mask v else s.wr OBJ.STATUS_WR_IGN 1
  | .obj, 0x108 => if mailboxOf m r.i then s else s.wr OBJ.STATUS_WR_IGN 1
  | .obj, 0x180 => if mailboxOf m r.i then s else s.wr OBJ.STATUS_WR_IGN 1
  | .dbg, 0x8 => s.writeFrzCtrl m r mask v
  | .pwr, 0x8 => s.writePwrCmd mask v
  | .pwr, 0x30 =>
    if bits mask 0 2 = 0 then s else if bits w 0 2 = 0 then s.cancelSleep else s.requestSleep (bits w 0 2)
  | .sto, 0x0 => s.writeStoCmd mask v
  | .sto, 0x80 => if s.testModes then s.putFields m r mask v else s.wr STO.STATUS_WR_IGN 1
  | .sto, 0x118 => if s.testModes then s.putFields m r mask v else s.wr STO.STATUS_WR_IGN 1
  | .sto, 0x200 =>
    if m = 61 then s.wrs (([STO.XO_BASE r.i, STO.XO_LIMIT r.i, STO.XO_VALID r.i, STO.XO_MSLOT r.i]).map fun f => (f, s.merged f mask v))
    else s.wr STO.STATUS_WR_IGN 1
  | .cvy, 0x0 => s.writeCvyCfg mask v
  | .cvy, 0x8 => if bits mask 0 3 = 0 then s else s.convoyTx (bits w 0 3)
  | .cvy, 0x40 =>
    if !s.diagOpen then s
    else
      let t := (s.countOn r).putFields m r mask v
      t.cvyOut (if t.flag CVY.DIAG_PRBS_EN then [1024] else if s.flag CVY.DIAG_PRBS_EN then [] else t.cvy.out)
  | .msix, 0x8 => (s.putFields m r mask v).flushVectors
  | .dma, 0x0 => if bits mask 0 4 = 0 then s else s.dmaCommand r.i (bits w 0 4)
  | .bst, 0x0 => s.writeRun mask v
  | .flt, 0x18 => if bitOf w 0 then s.popLog else s
  | .flt, 0x30 => (onesBelow (bits w 4 4) 4).foldl State.restartSteward s
  | .flt, 0x80 => if bitOf w 63 then s.inject (bits w 0 8) (bits w 8 12) else s
  | _, _ => s.putFields m r mask v

/-- R139: the block in whose APG window an address lies. -/
def apgWindow (a : Nat) : Option Nat :=
  match unitAt a with
  | some (.apg, b, _, _) => some b
  | _ => none

/-- R7 to R9: master `m` writes the bits `mask` of the register at the 8-byte-aligned address `a`. -/
def State.writeReg (s : State) (m a mask v : Nat) : State :=
  match apgWindow a, regAt a with
  | some b, _ => apgWindowWrite s b (a - blockBase b - 0x10000) mask v
  | none, none => s
  | none, some r => match r.unit with
    | .seq => s.writeSeq m r mask v
    | .cel => if r.off = 0x8 then s.writeCaravan r.k mask v
      else if r.off = 0x28 ∧ s.testModes = false then s else s.putFields m r mask v
    | .pin => s.writePinReg m r mask v
    | .tim => match r.off with
      | 0x8040 => s.writeOfs r.k r.i mask v
      | 0x8400 => s.writeTab r.k r.i 0 mask v
      | 0x8408 => s.writeTab r.k r.i 1 mask v
      | _ => s.putFields m r mask v
    | .pll => if r.off = 0x8000 then (if bits mask 0 4 = 0 then s else s.pllCommand r.k (bits (written mask v) 0 4)) else s.putFields m r mask v
    | .apg => s
    | .fab => s.writeFab m r mask v
    | .dep => if r.off = 0x30010 ∧ s.testModes = false then s else s.putFields m r mask v
    | .ldg => s.writeLdg m r mask v
    | .rgn => s.writeRegion m r mask v
    | .ddr => s.writeRegion m r mask v
    | .noc => s.writeNoc m r mask v
    | .mpr => s.writeNoc m r mask v
    | .evc => s.writeEvc m r mask v
    | .gpio => s.writeGpio m r mask v
    | _ => s.writeChip m r mask v

/-- The mask of the bits that `n` bytes at `a` write in their register. -/
def byteMask (a n : Nat) : Nat := (2 ^ (8 * n) - 1) * 2 ^ (8 * (a % 8))

/-- REGISTER_WRITE (R7 to R9): a write of `n` bytes of register space at `a` by master `m`, which its checks allow. -/
def execRegisterWrite (m a n v : Nat) (s : State) : Host.Outcome State Fault Refusal :=
  .next (s.regAccess m a n fun s =>
    { s.writeReg m (a / 8 * 8) (byteMask a n) (v % 2 ^ (8 * n) * 2 ^ (8 * (a % 8))) with answer := [0] })

end Sys2Proof.Machine
end

