-- ==== Sys2Proof/Machine/Bus.lean ====
section
/-! DEFINITION. What a target does with a request that has reached it (spec/12): reads and writes of register space, and of the
memories as `Serve` gives them. -/

namespace Sys2Proof.Machine

/-- R7, R300: the bytes of register space that a request names: address and number; 0 bytes where they are no access of
R7. -/
def Req.regBytes (q : Req) : Nat × Nat :=
  if q.isPartial then (q.addr + (onesBelow q.bytes 16).headD 0, popCount q.bytes 16)
  else (q.addr, if q.len = 1 then 8 else 0)

/-- R7: a read of register space is served. -/
def State.serveRegRead (s : State) (q : Req) : State :=
  let e := q.regBytes
  if regAccessOk e.1 e.2 then (s.readReg e.1 e.2).2.respond q 0 [(s.readReg e.1 e.2).1 * 2 ^ (8 * (e.1 % 8))] else s.respond q 4 []

/-- R300: the target of request `q` serves its read; `up` and `dev` are the errors that it meets (`State.serveMemory`). -/
def State.serveRead (s : State) (q : Req) (up dev : Nat) : State :=
  if q.target.isRegs then s.serveRegRead q else s.serveMemory q up dev

/-- R7: a write of register space is served. -/
def State.serveRegWrite (s : State) (q : Req) : State :=
  let e := q.regBytes
  if regAccessOk e.1 e.2 then (s.writeReg q.init (e.1 / 8 * 8) (byteMask e.1 e.2) (q.data.headD 0 % 2 ^ 64)).respond q 0 []
  else s.respond q 4 []

/-- R300: the target of request `q` serves its write. -/
def State.serveWrite (s : State) (q : Req) (up dev : Nat) : State :=
  if q.target.isRegs then s.serveRegWrite q else s.storeMemory q up dev

/-- R300: the target of request `q` serves it. -/
def State.serveAny (up dev : Nat) (s : State) (q : Req) : State :=
  if q.access = 1 then s.serveWrite q up dev else s.serveRead q up dev

/-- R302 to R315: a master's access from its interface to its response, `lat` FIO cycles after it left. -/
def State.access (s : State) (q : Req) (up dev lat : Nat) : Except State (Nat × List Nat × State) :=
  s.accessWith (State.serveAny up dev) q lat

/-- A command of several accesses of which `q` has to wait has none of its effects yet: `q` alone waits. -/
def State.stall (s : State) (q : Req) (up dev lat : Nat) : State :=
  match s.access q up dev lat with
  | .error t => t
  | .ok _ => s

/-! ### The commands -/

/-- The request of initiator `i` and tag that is in flight, of one of two kinds. -/
def State.inFlightReq (s : State) (i tag : Nat) (k : ReqKind) : Option Req := s.net.flight.find? fun q => q.is i tag && q.kind == k

/-- R306: the request of initiator `i` and tag goes the rest of its way through the tree, and its target serves it as `f` says; a
router may have answered it on the way (R313, R318). No target serves while the device is frozen (R278, R393). -/
def State.serve (s : State) (i tag : Nat) (k : ReqKind) (f : State → Req → State) : State :=
  if s.frozen || (s.inFlightReq i tag k).isNone then s
  else
    let t := s.reach i tag
    match t.inFlightReq i tag k with
    | none => t
    | some q => f { t with net := { t.net with flight := t.net.flight.erase q } } q

/-- RD (R300): the target of the RD request of initiator `i` and tag serves it. -/
def execRd (i tag up dev : Nat) (s : State) : Host.Outcome State Fault Refusal :=
  .next (s.serve i tag .rd fun t q => t.serveRead q up dev)

/-- WR (R4). -/
def execWr (i tag up dev : Nat) (s : State) : Host.Outcome State Fault Refusal :=
  .next (s.serve i tag .wr fun t q => t.serveWrite q up dev)

/-- RDP (R300). -/
def execRdp (i tag up dev : Nat) (s : State) : Host.Outcome State Fault Refusal :=
  .next (s.serve i tag .rdp fun t q => t.serveRead q up dev)

/-- WRP (R4, R273). -/
def execWrp (i tag up dev : Nat) (s : State) : Host.Outcome State Fault Refusal :=
  .next (s.serve i tag .wrp fun t q => t.serveWrite q up dev)

end Sys2Proof.Machine
end

