-- ==== Sys2Proof/Machine/Masters.lean ====
section
/-! DEFINITION. The masters that move data by themselves: the stream DMA (R82 to R88), the PCIe host (R442 to R446), the host
DMA channels (R447 to R450), and readout by the debug domain (R389, R395, R397). -/

namespace Sys2Proof.Machine

/-! ### Stream DMA -/

/-- What the reads of a refill give: the words that came, whether a read failed, whether one has to wait, the state. -/
structure Refilled where
  words : List Nat
  bad : Bool
  waits : Bool
  s : State

/-- R83: the words that a refill of cell `c` brings in the packets `gs`, until a read fails or has to wait. -/
def State.refillRead (s : State) (c up dev lat : Nat) : List (Nat × Nat) → Refilled
  | [] => ⟨[], false, false, s⟩
  | (a, n) :: rest =>
    match s.access (wordsReq (13 + blockOf c) (c % 8) a n false []) up dev lat with
    | .error t => ⟨[], false, true, t⟩
    | .ok (st, data, t) =>
      if st ≠ 0 ∧ st ≠ 8 then ⟨[], true, false, t⟩
      else let r := t.refillRead c 0 dev lat rest; { r with words := data ++ r.words }

/-- The first packets of a list that hold at most `n` words together. -/
def upTo : Nat → List (Nat × Nat) → List (Nat × Nat)
  | _, [] => []
  | n, e :: t => if e.2 ≤ n then e :: upTo (n - e.2) t else []

/-- R83: words enter the ring of cell `c` at its write index. -/
def State.ringWrite (s : State) (c : Nat) : List Nat → State
  | [] => s
  | v :: t =>
    let w := s.rd (SEQ.RING_STATUS_WR c)
    ((s.writeWord (padBase c + 16 * s.ringAddr c w) v).wrs
      [(SEQ.RING_STATUS_WR c, (w + 1) % 4096), (SEQ.RING_STATUS_LEVEL c, s.ringLevel c + 1)]).ringWrite c t

/-- R83: descriptor `n` of cell `c` has brought `k` words into the ring. -/
def State.ringTook (s : State) (c n k : Nat) : State :=
  s.modCell c fun x =>
    { x with
      sdRead := (List.range 4).map fun j => if j = n then x.sdRead.getD j 0 + k else x.sdRead.getD j 0
      ringDesc := match x.ringDesc.getLast? with
        | some (d, q) => if d = n then x.ringDesc.dropLast ++ [(d, q + k)] else x.ringDesc ++ [(n, k)]
        | none => [(n, k)] }

/-- R82, R83, R88: a refill of at most `n` words, in packets of up to 8; at the first read that fails the DMA stops. -/
def State.refill (s : State) (c n up dev lat : Nat) : State :=
  let d := s.rd (SEQ.RING_STATUS_DMA_DESC c)
  let left := s.descLeft c d
  if s.frozen || !s.flag (SEQ.RING_STATUS_DMA_ACTIVE c) || left == 0 || decide (4032 < s.ringLevel c) then s
  else
    let a := 16 * (s.rd (SEQ.SD_ADDR_ADDR c d) + (s.cell c).sdRead.getD d 0)
    let r := s.refillRead c up dev lat (upTo (min n 64) (groupsOf 16 73 a (min left 72)))
    let u := if r.words.isEmpty then r.s else (r.s.ringWrite c r.words).ringTook c d r.words.length
    if r.bad then u.streamError c else if r.waits then u else u.chainDma c 4

/-- STREAM_DMA_REFILL (R83): the stream DMA of cell `c` requests at most `n` words, and they arrive. -/
def execStreamDmaRefill (c n up dev lat : Nat) (s : State) : Host.Outcome State Fault Refusal := .next (s.refill c n up dev lat)

/-! ### Readout (R389, R395, R397) -/

/-- R397: the device is in PRODUCTION and readout is not granted. -/
def State.readoutShut (s : State) : Bool := s.rd LC.STATE_STATE == 2 && !bitOf (s.rd DBG.AUTH_PERM) 1

/-- R389: no debug path reads the word that holds address `a`. -/
def State.hidden (s : State) (a : Nat) : Bool :=
  match targetOf a with
  | .pad c => s.xoWord c a
  | .store => let k := viewWord a / 4; s.cwXo k || decide (2 ≤ sectorOf k ∧ sectorOf k < 8)
  | .code => let k := viewWord a / 4; s.cwXo k || decide (2 ≤ sectorOf k ∧ sectorOf k < 8)
  | _ => false

/-- R395: one byte of the device address space as the debug domain reads it. An uncorrectable word, or a register field that
no state holds, gives a free value (log 1). -/
def State.peek (s : State) (a : Nat) : Nat :=
  let t := targetOf a
  if t.isRegs then
    match regAt (a / 8 * 8) with
    | some r => bits (s.regView r) (8 * (a % 8)) 8
    | none => 0
  else if s.hidden a then 0
  else match t with
    | .store => let w := viewWord a; if s.cwErrors (w / 4) 0 ≤ 3 then bits ((s.cwWords (w / 4)).getD (w % 4) 0) (8 * (a % 16)) 8 else s.freeVal 8
    | .code => let w := viewWord a; if s.cwErrors (w / 4) 0 ≤ 3 then bits ((s.cwWords (w / 4)).getD (w % 4) 0 % 2 ^ 64) (8 * (a % 8)) 8 else s.freeVal 8
    | .nowhere => 0
    | _ =>
      let base := a / t.slot * t.slot
      if t.slot = 16 ∧ 9 ≤ a % 16 then 0 else if 2 ≤ s.eccOf base 0 then s.freeVal 8 else s.readByte a

/-- R21, R395: the counters among the registers at the addresses `as` have counted on; a readout clears nothing. -/
def State.counting (s : State) (as : List Nat) : State :=
  as.foldl (fun t a => match regAt (a / 8 * 8) with
    | some r => t.countOn r
    | none => t) s

/-- R395: the domain of an address is powered down. -/
def State.peekOff (s : State) (a : Nat) : Bool :=
  (targetOf a).domains.1.any (fun b => !s.blockOn b) || (targetOf a).domains.2.any fun r => !s.regionOn r

/-- R395: `n` bytes from `a` up through the debug domain, which counts the read where it is refused. -/
def State.readout (s : State) (a n : Nat) : State :=
  if !(s.flag DBG.FRZ_STATUS_FROZEN && bitOf (s.rd DBG.AUTH_PERM) 1) then
    { s.count DBG.REFUSED_READOUT 1 with answer := List.replicate n 0 }
  else
    let as := (List.range n).map (a + ·)
    let t := s.counting as
    let u := if as.any s.peekOff then t.wr DBG.FRZ_STATUS_OFF_HIT 1 else t
    { u.drawn with answer := as.map fun x => if s.peekOff x then 0 else t.peek x }

/-- R395: the DBG registers through the debug domain: nothing clears. -/
def State.readDbg (s : State) (off n : Nat) : State :=
  { s.drawn with answer := (List.range n).map fun i => s.peek (0xA00000 + off + i) }

/-- R395: a read of `n` bytes at an offset of BAR4. -/
def State.readBar4 (s : State) (off n : Nat) : State :=
  if off < 0x1000 then s.readDbg off n
  else if 0x10000 ≤ off ∧ off < 0x20000 then s.readout (s.rd DBG.WIN_BASE_BASE * 2 ^ 16 + (off - 0x10000)) n
  else { s with answer := List.replicate n 0 }

/-- R395, R397: a write at an offset of BAR4 reaches the DBG registers alone; where readout is shut, a frozen device takes
THAW only. -/
def State.writeBar4 (s : State) (off n v : Nat) : State :=
  if 0x1000 ≤ off ∨ !regAccessOk (0xA00000 + off) n then s
  else
    let a := 0xA00000 + off
    let mask := byteMask a n
    let w := v % 2 ^ (8 * n) * 2 ^ (8 * (a % 8))
    if s.flag DBG.FRZ_STATUS_FROZEN && s.readoutShut then
      (if a / 8 * 8 = 0xA00008 ∧ bitOf (Nat.land mask w) 1 then s.thaw else s)
    else s.writeReg 4 (a / 8 * 8) mask w

/-- READOUT (R395): a read of `n` bytes of the BAR4 aperture, `off` bytes from its start. -/
def execReadout (off n : Nat) (s : State) : Host.Outcome State Fault Refusal :=
  .next (if !s.barsOpen then s else s.readBar4 (0x10000 + off % 0x10000) n)

/-! ### Test access port (R378, R390, R395, R503) -/

/-- The instruction register takes `code`. -/
def State.setIr (s : State) (code : Nat) : State := { s with rst := { s.rst with ir := code } }

/-- R390: no scan chain holds the register at `a`: Objor's, and those that show what is non-volatile. -/
def offChain (a : Nat) : Bool :=
  (decide (0x100000 ≤ a) && decide (a < 0x200000)) || (decide (0x500200 ≤ a) && decide (a < 0x500280)) ||
    (decide (0x1000000 ≤ a) && decide (a < 0x2000000) && decide (0x20010 ≤ a % 0x80000) && decide (a % 0x80000 < 0x20030))

/-- R390: a scan destroys state: the fields of the registers on the chains take free values. What the units hold behind their registers
stands, but nothing except a reset leaves the scan (log 144). -/
def State.destroyed (s : State) : State :=
  (Config.scanned s.freeCtr).foldl (fun t e => if offChain e.1 then t else match regAt e.1 with
    | some r => t.wrs (r.fields.map fun f => (f.fld, e.2 / 2 ^ f.fld.lsb))
    | none => t) s.drawn

/-- R390: the SCAN instruction is granted or refused. The BLANK to END_OF_LIFE rows of R378 are in DBG.AUTH; a code that
is not granted selects BYPASS (R378, R395; log 51). -/
def State.tapScan (s : State) : State :=
  let busy := ((List.range 15).any fun k => s.rd (OBJ.SLOT_A_STATE (k + 1)) != 0) || !s.bonds.isEmpty
  let t := if busy then s.wr DBG.FRZ_STATUS_WR_IGN 1 else s
  if busy || !bitOf (s.rd DBG.AUTH_PERM) 2 then t.setIr 0xFF
  else if s.rst.scanning then t.setIr 0x30
  else { (t.setIr 0x30).destroyed with rst := { t.rst with ir := 0x30, scanning := true } }

/-- R395, R378: the instruction register is loaded with `code`. In LOCKED it takes IDCODE and BYPASS alone; codes that are no
instruction select BYPASS. -/
def State.tapSelect (s : State) (code : Nat) : State :=
  if code = 0x30 then s.tapScan
  else if code = 1 then s.setIr 1
  else if (code = 0 ∨ code = 2 ∨ code = 0x20) ∧ s.rd LC.STATE_STATE ≠ 7 then s.setIr code
  else s.setIr 0xFF

/-- DBGACC (R395, R378): the test access port takes the code `a.1`; where that is DBGACC, with the read flag, 8 bytes at device
address `a.2` are read. -/
def execDbgacc (a : Nat × Nat) (read : Bool) (s : State) : Host.Outcome State Fault Refusal :=
  .next (
    let t := s.tapSelect a.1
    if !read || t.rst.ir != 0x20 || t.rst.scanning then t
    else if 0xA00000 ≤ a.2 ∧ a.2 < 0xA01000 ∧ !(s.flag DBG.FRZ_STATUS_FROZEN && s.readoutShut) then t.readDbg (a.2 - 0xA00000) 8
    else t.readout (a.2 % 2 ^ 48) 8)

/-- SCAN (R390). -/
def execScan (s : State) : Host.Outcome State Fault Refusal := .next s.tapScan

/-- TAP_RESET (R503): the TAP controller and its instruction are reset; IDCODE is selected (PRESUMED, log 32). -/
def execTapReset (s : State) : Host.Outcome State Fault Refusal := .next (s.setIr 1)

/-! ### Debug modules of the stewards (R388, R389, R423) -/

/-- R388, R389: the debug module of steward `w` accesses the word at `a` as the steward would: R274 judges it (R421), and a word that no
debug path shows reads as zero. -/
def State.debugMem (s : State) (w a : Nat) (write : Bool) (v : Nat) : State :=
  if !write && !(targetOf a).isRegs && s.hidden a then { s with answer := [0, 0] }
  else match s.access (wordsReq w 0 (a / (targetOf a).slot * (targetOf a).slot) 1 write (if write then [v] else [])) 0 0 s.ownLatency with
    | .ok (st, ws, t) => { t with answer := st :: ws }
    | .error t => t

/-- R388: one access of the debug module of steward `w`, made as in machine mode. -/
def State.debugAct (s : State) (w : Nat) : StwAct → State
  | .load a => s.drawn.debugMem w a false 0
  | .store a v => s.drawn.debugMem w a true v
  | e => s.stwAct w true e

/-- DEBUG_HALT (R388, R423): the debug module of steward `w` halts it at `pc.1`, where debug of stewards is permitted, and makes the
accesses `pc.2`. -/
def execDebugHalt (w : Nat) (pc : Nat × List StwAct) (s : State) : Host.Outcome State Fault Refusal :=
  .next (if bitOf (s.rd DBG.AUTH_PERM) 0 && decide (w < 4) && !(s.steward w).inReset then
    pc.2.foldl (fun t e => t.debugAct w e)
      ((s.modSteward w fun x => { x with attached := true, pc := pc.1, wfi := false, deep := false }).wr
        (EVC.STW_STATE_HELD w) 1).revalidate else s)

/-- DEBUG_RESUME (R388, R423): the debug module makes the accesses `pc.2`, and resumes or single-steps steward `w` at `pc.1`; `detach` says
that the debugger leaves. -/
def execDebugResume (w : Nat) (pc : Nat × List StwAct) (detach : Bool) (s : State) : Host.Outcome State Fault Refusal :=
  .next (if bitOf (s.rd DBG.AUTH_PERM) 0 && s.flag (EVC.STW_STATE_HELD w) then
    ((pc.2.foldl (fun t e => t.debugAct w e) s).modSteward w fun x => { x with attached := !detach, pc := pc.1 }).wr
      (EVC.STW_STATE_HELD w) 0 else s)

/-! ### Host requests (R442 to R445) -/

/-- R442, R443: the device address of an offset in BAR0 (0) or BAR2 (2). -/
def State.barAddr (s : State) (bar off : Nat) : Nat :=
  if bar = 0 then off % 0x4000000 else s.rd PCI.WIN_BASE * 2 ^ 36 + off % 2 ^ 36

/-- R444, R7, R273: the size of the next access of a TLP: the largest that address and length allow; 0 where none is. -/
def accessSize (a n : Nat) : Nat :=
  let t := targetOf a
  let fits (z : Nat) : Bool := a % z == 0 && decide (z ≤ n)
  if t.isRegs then (if fits 8 then 8 else if fits 4 then 4 else 0)
  else if t.slot = 16 ∧ fits 16 then 16
  else if fits 8 then 8 else if fits 4 then 4 else if fits 2 then 2 else 1

/-- R444: the accesses of a TLP of `n` bytes at `a`, in ascending order: addresses and sizes; none where it cannot be split. -/
def splitTlp : Nat → Nat → Nat → Option (List (Nat × Nat))
  | _, _, 0 => some []
  | 0, _, _ + 1 => none
  | k + 1, a, n + 1 =>
    let z := accessSize a (n + 1)
    if z = 0 then none else (splitTlp k (a + z) (n + 1 - z)).map fun t => (a, z) :: t

/-- The request of the host for the `z` bytes at `a`. -/
def hostReq (a z : Nat) (write : Bool) (v : Nat) : Req :=
  let w := (targetOf a).slot
  partReq 4 (a / w * w) ((2 ^ z - 1) * 2 ^ (a % w)) write (v % 2 ^ (8 * z) * 2 ^ (8 * (a % w)))

/-- R445: AER logs a Completer Abort with the header of its TLP; the first header stays. -/
def State.aerLog (s : State) (hdr : List Nat) : State :=
  if s.host.aerCa then s else { s with host := { s.host with aerCa := true, aerHeader := hdr } }

/-- R445: a TLP with the header `hdr` is answered with Completer Abort on account of an access. -/
def State.completerAbort (s : State) (hdr : List Nat) (a st : Nat) : State := { (s.hostError a st).aerLog hdr with answer := [4] }

/-- R445: the accesses of a read TLP: the bytes read; the address and status of an access that fails. An error result is the
request that has to wait. -/
def State.hostReads (s : State) (up dev lat : Nat) : List (Nat × Nat) → Except Req (List Nat × Option (Nat × Nat) × State)
  | [] => .ok ([], none, s)
  | (a, z) :: rest =>
    let q := hostReq a z false 0
    match s.access q up dev lat with
    | .error _ => .error q
    | .ok (st, data, t) =>
      if st ≠ 0 ∧ st ≠ 8 then .ok ([], some (a, st), t)
      else match t.hostReads 0 dev lat rest with
        | .error e => .error e
        | .ok (bs, e, u) => .ok (toBytes z (data.headD 0 / 2 ^ (8 * (a % (targetOf a).slot))) ++ bs, e, u)

/-- R445: the accesses of a write TLP; those after one that fails are not issued. -/
def State.hostWrites (s : State) (up dev lat : Nat) : List (Nat × Nat) → List Nat → Except Req (Option (Nat × Nat) × State)
  | [], _ => .ok (none, s)
  | (a, z) :: rest, bs =>
    let q := hostReq a z true (ofBytes (bs.take z))
    match s.access q up dev lat with
    | .error _ => .error q
    | .ok (st, _, t) => if st ≠ 0 then .ok (some (a, st), t) else t.hostWrites 0 dev lat rest (bs.drop z)

/-- R393, R506: freeze, or the reset that RESET_N starts, shuts BAR0 and BAR2. -/
def State.hostShut (s : State) : Bool := s.frozen || s.rst.due == some 2

/-- R393, R445, R506: a host request is refused in freeze or while a reset runs; no rule gives the status code of the latter, which is
free (log 153). -/
def State.hostFrozen (s : State) (hdr : List Nat) (kind a : Nat) : State :=
  if s.frozen then (s.frozenViolation kind a).completerAbort hdr a 4 else s.drawn.completerAbort hdr a (s.freeVal 4)

/-- HOST_READ (R444, R445): a read TLP of `n` bytes at an offset of BAR0 (0), BAR2 (2) or BAR4 (4). The answer is 0 and the
bytes, or 4 for a Completer Abort. -/
def execHostRead (bar off n up dev lat : Nat) (s : State) : Host.Outcome State Fault Refusal :=
  .next (
    if !s.barsOpen then s
    else if bar = 4 then let t := s.readBar4 off n; { t with answer := 0 :: t.answer }
    else
      let a := s.barAddr bar off
      let hdr := [0, bar, off, n]
      if s.hostShut then s.hostFrozen hdr 0 a
      else match splitTlp n a n with
        | none => s.completerAbort hdr a 4
        | some l => match s.hostReads up dev lat l with
          | .error q => s.stall q up dev lat
          | .ok (_, some e, t) => t.completerAbort hdr e.1 e.2
          | .ok (bs, none, t) => { t with answer := 0 :: bs })

/-- HOST_WRITE (R444, R445): a write TLP of the bytes `data`; a poisoned one is discarded. -/
def execHostWrite (bar off : Nat) (data : List Nat) (poisoned : Bool) (up dev lat : Nat) (s : State) :
    Host.Outcome State Fault Refusal :=
  .next (
    if !s.barsOpen then s
    else if poisoned then (s.count PCI.ERR_POISONED 1).wr PCI.STATUS_ERR_EVT 1
    else if bar = 4 then s.writeBar4 off data.length (ofBytes data)
    else
      let a := s.barAddr bar off
      let hdr := [1, bar, off, data.length]
      if s.hostShut then s.hostFrozen hdr 1 a
      else match splitTlp data.length a data.length with
        | none => s.completerAbort hdr a 4
        | some l => match s.hostWrites up dev lat l data with
          | .error q => s.stall q up dev lat
          | .ok (some e, t) => t.completerAbort hdr e.1 e.2
          | .ok (none, t) => { t with answer := [0] })

/-! ### Host DMA (R447 to R450) -/

/-- R447: the fields of a descriptor: HADDR, DADDR, LEN, FLAGS, NEXT. -/
structure DmaDesc where
  haddr : Nat
  daddr : Nat
  len : Nat
  flags : Nat
  next : Nat

/-- R447: a descriptor from its 32 bytes. -/
def DmaDesc.ofBytes (b : List Nat) : DmaDesc := ⟨le b 0 8, le b 8 6, le b 16 4, le b 20 2, le b 24 8⟩

/-- R448: PACK. -/
def DmaDesc.pack (d : DmaDesc) : Nat := bits d.flags 0 2
/-- R447: DIR is device to host. -/
def DmaDesc.toHost (d : DmaDesc) : Bool := bitOf d.flags 2
/-- R448: bytes of a unit of the move on the host side and on the device side. -/
def DmaDesc.hostUnit (d : DmaDesc) : Nat := if d.pack = 1 then 9 else 8
def DmaDesc.devUnit (d : DmaDesc) : Nat := if d.pack = 0 then 8 else 16
/-- Units of the move. -/
def DmaDesc.units (d : DmaDesc) : Nat := if d.pack = 0 then d.len / 8 else d.len

/-- R448: where the word-view area that holds an address ends; 0 where none does. -/
def wordAreaEnd (a : Nat) : Nat :=
  match targetOf a with
  | .store => 0x18000000
  | .pad _ => 0x42000000
  | .depot _ => 0x46000000
  | .accounts _ => 0x4A000000
  | .ddr _ => 0x11000000000
  | _ => 0

/-- R447, R448: the descriptor keeps the rules; a PACK9 or LO8 move lies in one word-view area. -/
def descOk (b : List Nat) : Bool :=
  let d := DmaDesc.ofBytes b
  b.length == 32 && le b 14 2 == 0 && le b 23 1 == 0 && d.flags / 64 == 0 && d.pack != 3 &&
    (if d.pack = 0 then d.len % 8 == 0 && d.daddr % 8 == 0 else d.daddr % 16 == 0 && decide (d.daddr + 16 * max 1 d.len ≤ wordAreaEnd d.daddr))

/-- R448, R450: the units of a move that are whole words of the device, of which a request may name up to 8. -/
def DmaDesc.whole (d : DmaDesc) (a : Nat) : Bool := d.pack == 1 || (d.pack == 0 && (targetOf a).slot == 8)

/-- R450: the network requests of a move of `n` units from device address `a` up: addresses and units. -/
def DmaDesc.packets (d : DmaDesc) : Nat → Nat → Nat → List (Nat × Nat)
  | 0, _, _ => []
  | _, _, 0 => []
  | f + 1, a, n + 1 =>
    let k := if d.whole a then min (n + 1) (8 - a / d.devUnit % 8) else 1
    (a, k) :: d.packets f (a + d.devUnit * k) (n + 1 - k)

/-- R448: the request of channel `k` for `n` units at `a`; `bs` are the host bytes from there on. -/
def DmaDesc.req (d : DmaDesc) (k a n : Nat) (bs : List Nat) : Req :=
  let w := (targetOf a).slot
  if d.whole a then
    wordsReq (5 + k) 0 a n (!d.toHost) ((List.range n).map fun i => Machine.ofBytes ((bs.drop (d.hostUnit * i)).take d.hostUnit))
  else partReq (5 + k) (a / w * w) (0xFF * 2 ^ (a % w)) (!d.toHost) (Machine.ofBytes (bs.take 8) * 2 ^ (8 * (a % w)))

/-- R448: the host bytes of the units that a read at `a` has given. -/
def DmaDesc.hostBytes (d : DmaDesc) (a : Nat) (data : List Nat) : List Nat :=
  if d.whole a then data.flatMap (toBytes d.hostUnit) else toBytes 8 (data.headD 0 / 2 ^ (8 * (a % (targetOf a).slot)))

/-- R448, R450: the network requests `gs` of a move: the bytes for the host, whether a device access failed, the state. An error
result is the request that has to wait. -/
def State.moveUnits (s : State) (k : Nat) (d : DmaDesc) (up dev lat : Nat) :
    List (Nat × Nat) → List Nat → Except Req (List Nat × Bool × State)
  | [], _ => .ok ([], false, s)
  | (a, n) :: rest, bs =>
    let q := d.req k a n bs
    match s.access q up dev lat with
    | .error _ => .error q
    | .ok (st, data, t) =>
      if st ≠ 0 ∧ st ≠ 8 then .ok ([], true, t)
      else match t.moveUnits k d 0 dev lat rest (bs.drop (d.hostUnit * n)) with
        | .error e => .error e
        | .ok (out, bad, u) => .ok ((if d.toHost then d.hostBytes a data else []) ++ out, bad, u)

/-- R450: bytes are written to host memory. -/
def State.toHostMem (s : State) (a : Nat) (bs : List Nat) : State :=
  if bs.isEmpty then s else { s with host := { s.host with wrote := s.host.wrote ++ [(a, bs)] } }

/-- R449, R450: the network requests of the descriptor in progress of channel `k` that hold at most `n` units together; what had
moved stands. Whether a device access failed, and the state. -/
def State.moveData (s : State) (k : Nat) (d : DmaDesc) (n : Nat) (data : List Nat) (up dev lat : Nat) : Except Req (Bool × State) :=
  match ({ s with host := { s.host with wrote := [] } }).moveUnits k d up dev lat (upTo n (d.packets d.units d.daddr d.units)) data with
  | .error q => .error q
  | .ok (out, bad, t) => .ok (bad, t.toHostMem d.haddr out)

/-- R449, R450: the descriptor of channel `k` has moved all its data. -/
def State.descFinish (s : State) (k : Nat) (d : DmaDesc) : State :=
  let s1 := s.count (DMA.STATUS_DONE k) 1
  let s2 := if bitOf d.flags 5 then s1.toHostMem (s.rd (DMA.CUR_ADDR k) + 22) [1] else s1
  let s3 := if bitOf d.flags 3 then s2.wr (DMA.STATUS_EVT k) 1 else s2
  if bitOf d.flags 4 then s3.dmaEnd k 0 0 false else s3.wr (DMA.CUR_ADDR k) d.next

/-- R447 to R450: the descriptor of channel `k` completes or faults. `desc` are its bytes as fetched (none: the fetch failed);
`data` the host bytes that have come; `ok` that the host completed all reads. -/
def State.descriptorDone (s : State) (k : Nat) (desc data : List Nat) (ok : Bool) (up dev lat : Nat) : State :=
  let d := DmaDesc.ofBytes desc
  if !s.flag (DMA.STATUS_PEND k) || s.frozen then s
  else if s.rd (DMA.CUR_ADDR k) % 32 ≠ 0 then s.dmaEnd k 6 3 false
  else if desc = [] then s.dmaEnd k 6 1 false
  else if !descOk desc then s.dmaEnd k 6 3 false
  else
    let ready := if d.toHost then d.units else min d.units (data.length / d.hostUnit)
    match s.moveData k d ready data up dev lat with
    | .error q => s.stall q up dev lat
    | .ok (true, t) => t.dmaEnd k 6 2 false
    | .ok (false, t) => if ready < d.units ∨ !ok then t.dmaEnd k 6 1 false else t.descFinish k d

/-- DESCRIPTOR_DONE (R450). -/
def execDescriptorDone (k : Nat) (desc data : List Nat) (ok : Bool) (up dev lat : Nat) (s : State) :
    Host.Outcome State Fault Refusal := .next (if k < 8 then s.descriptorDone k desc data ok up dev lat else s)

/-- R449: the part of the descriptor in progress that channel `k` has moved when its run ends: `n` units. -/
def State.movePart (s : State) (k n : Nat) (desc data : List Nat) : State :=
  if !s.flag (DMA.STATUS_PEND k) || s.frozen || !descOk desc || s.rd (DMA.CUR_ADDR k) % 32 != 0 then s
  else
    let d := DmaDesc.ofBytes desc
    let ready := min n (if d.toHost then d.units else min d.units (data.length / d.hostUnit))
    match s.moveData k d ready data 0 0 0 with
    | .error _ => s
    | .ok (_, t) => t

/-- R449: parts of descriptors that channels have moved: channel, units, descriptor, host bytes. -/
def State.moveParts (s : State) (parts : List (Nat × Nat × List Nat × List Nat)) : State :=
  parts.foldl (fun t p => if p.1 < 8 then t.movePart p.1 p.2.1 p.2.2.1 p.2.2.2 else t) s

/-- DMA_STOP (R449): STOP is written to channel `k`, which has moved `n` units of its descriptor. -/
def execDmaStop (k n : Nat) (desc data : List Nat) (s : State) : Host.Outcome State Fault Refusal :=
  .next (s.atReg 4 (DMA.CMD_OP k).addr fun s => if k < 8 then (s.movePart k n desc data).dmaStop k else s)

/-- LINK_DOWN (R446); `parts` is what the channels have moved of their descriptors. -/
def execLinkDown (parts : List (Nat × Nat × List Nat × List Nat)) (s : State) : Host.Outcome State Fault Refusal :=
  .next (s.moveParts parts).linkDown

/-- D3HOT (R446). -/
def execD3hot (parts : List (Nat × Nat × List Nat × List Nat)) (s : State) : Host.Outcome State Fault Refusal :=
  .next (s.moveParts parts).d3hot

/-- PERST_ASSERT (R446). -/
def execPerstAssert (parts : List (Nat × Nat × List Nat × List Nat)) (s : State) : Host.Outcome State Fault Refusal :=
  .next (s.moveParts parts).perstAssert

end Sys2Proof.Machine
end

