-- ==== Sys2Proof/Machine/Dispatch.lean ====
section
/-! DEFINITION. One arm per command: each is one direct call of the command's meaning. -/

namespace Sys2Proof.Machine

def exec (i : Instr) (s : State) : Host.Outcome State Fault Refusal :=
  match i with
  | .registerWrite m a n v => Sys2Proof.Machine.execRegisterWrite m a n v s
  | .readClear a n => Sys2Proof.Machine.execReadClear a n s
  | .requestIssue ini tag subid kind addr len bytes data fetch => Sys2Proof.Machine.execRequestIssue ini tag subid kind addr len bytes data fetch s
  | .rd ini tag up dev => Sys2Proof.Machine.execRd ini tag up dev s
  | .wr ini tag up dev => Sys2Proof.Machine.execWr ini tag up dev s
  | .rdp ini tag up dev => Sys2Proof.Machine.execRdp ini tag up dev s
  | .wrp ini tag up dev => Sys2Proof.Machine.execWrp ini tag up dev s
  | .rspData ini tag lat => Sys2Proof.Machine.execRspData ini tag lat s
  | .rspAck ini tag lat => Sys2Proof.Machine.execRspAck ini tag lat s
  | .rspErr ini tag lat => Sys2Proof.Machine.execRspErr ini tag lat s
  | .responseTimeout ini tag => Sys2Proof.Machine.execResponseTimeout ini tag s
  | .linkReplay k ini tag how => Sys2Proof.Machine.execLinkReplay k ini tag how s
  | .recfgClose => Sys2Proof.Machine.execRecfgClose s
  | .drained cyc => Sys2Proof.Machine.execDrained cyc s
  | .recfgOpen => Sys2Proof.Machine.execRecfgOpen s
  | .berthGrantWrite m ini c mask v => Sys2Proof.Machine.execBerthGrantWrite m ini c mask v s
  | .tollClear => Sys2Proof.Machine.execTollClear s
  | .compatWakeTimeout ini tag => Sys2Proof.Machine.execCompatWakeTimeout ini tag s
  | .fetch l ups => Sys2Proof.Machine.execFetch l ups s
  | .underrunHold l => Sys2Proof.Machine.execUnderrunHold l s
  | .scLimit l => Sys2Proof.Machine.execScLimit l s
  | .resolve l obs dual => Sys2Proof.Machine.execResolve l obs dual s
  | .vec l env => Sys2Proof.Machine.execVec l env s
  | .vex l env => Sys2Proof.Machine.execVex l env s
  | .nop l => Sys2Proof.Machine.execNop l s
  | .halt l => Sys2Proof.Machine.execHalt l s
  | .jmp l => Sys2Proof.Machine.execJmp l s
  | .jcc l => Sys2Proof.Machine.execJcc l s
  | .call l => Sys2Proof.Machine.execCall l s
  | .ret l => Sys2Proof.Machine.execRet l s
  | .loopOpen l => Sys2Proof.Machine.execLoopOpen l s
  | .loopClose l => Sys2Proof.Machine.execLoopClose l s
  | .loopDrop l => Sys2Proof.Machine.execLoopDrop l s
  | .matchWord l => Sys2Proof.Machine.execMatch l s
  | .matchCountExpiry l => Sys2Proof.Machine.execMatchCountExpiry l s
  | .matchDrainEnd l => Sys2Proof.Machine.execMatchDrainEnd l s
  | .waitTime l n => Sys2Proof.Machine.execWaitTime l n s
  | .waitCond l n => Sys2Proof.Machine.execWaitCond l n s
  | .waitCountExpiry l => Sys2Proof.Machine.execWaitCountExpiry l s
  | .sync l n => Sys2Proof.Machine.execSync l n s
  | .syncRelease n => Sys2Proof.Machine.execSyncRelease n s
  | .apg l => Sys2Proof.Machine.execApg l s
  | .mode l => Sys2Proof.Machine.execMode l s
  | .tset l => Sys2Proof.Machine.execTset l s
  | .tsetApply c => Sys2Proof.Machine.execTsetApply c s
  | .event l => Sys2Proof.Machine.execEvent l s
  | .stream l => Sys2Proof.Machine.execStream l s
  | .ledgerTag l => Sys2Proof.Machine.execLedgerTag l s
  | .ledgerAcct l => Sys2Proof.Machine.execLedgerAcct l s
  | .ledgerMark l => Sys2Proof.Machine.execLedgerMark l s
  | .ledgerAlloc l => Sys2Proof.Machine.execLedgerAlloc l s
  | .bond l => Sys2Proof.Machine.execBond l s
  | .add l => Sys2Proof.Machine.execAdd l s
  | .sub l => Sys2Proof.Machine.execSub l s
  | .and l => Sys2Proof.Machine.execAnd l s
  | .or l => Sys2Proof.Machine.execOr l s
  | .xor l => Sys2Proof.Machine.execXor l s
  | .shl l => Sys2Proof.Machine.execShl l s
  | .shr l => Sys2Proof.Machine.execShr l s
  | .cmp l => Sys2Proof.Machine.execCmp l s
  | .movi l => Sys2Proof.Machine.execMovi l s
  | .brk l => Sys2Proof.Machine.execBrk l s
  | .tload l => Sys2Proof.Machine.execTload l s
  | .strmPrime l => Sys2Proof.Machine.execStrmPrime l s
  | .strmFlush l => Sys2Proof.Machine.execStrmFlush l s
  | .cvcVoid l => Sys2Proof.Machine.execCvcVoid l s
  | .cvcFlag l => Sys2Proof.Machine.execCvcFlag l s
  | .start c convoy => Sys2Proof.Machine.execStart c convoy s
  | .stop c => Sys2Proof.Machine.execStop c s
  | .resume c => Sys2Proof.Machine.execResume c s
  | .step c => Sys2Proof.Machine.execStep c s
  | .abort c => Sys2Proof.Machine.execAbort c s
  | .void c => Sys2Proof.Machine.execVoid c s
  | .prime c desc => Sys2Proof.Machine.execPrime c desc s
  | .flush c => Sys2Proof.Machine.execFlush c s
  | .nextPcWrite c v => Sys2Proof.Machine.execNextPcWrite c v s
  | .evtSet c v => Sys2Proof.Machine.execEvtSet c v s
  | .evqRead c => Sys2Proof.Machine.execEvqRead c s
  | .armDescriptor c n => Sys2Proof.Machine.execArmDescriptor c n s
  | .ringWrite c mask v => Sys2Proof.Machine.execRingWrite c mask v s
  | .psmWrite c n mask v => Sys2Proof.Machine.execPsmWrite c n mask v s
  | .streamDmaRefill c n up dev lat => Sys2Proof.Machine.execStreamDmaRefill c n up dev lat s
  | .celCaravanWrite c mask v => Sys2Proof.Machine.execCelCaravanWrite c mask v s
  | .gangWrite r mask v => Sys2Proof.Machine.execGangWrite r mask v s
  | .clockSourceSwitch b => Sys2Proof.Machine.execClockSourceSwitch b s
  | .apgOwnWrite r mask v => Sys2Proof.Machine.execApgOwnWrite r mask v s
  | .sgrpWrite r n mask v => Sys2Proof.Machine.execSgrpWrite r n mask v s
  | .apgWrite b off mask value => Sys2Proof.Machine.execApgWrite b off mask value s
  | .laneEnable c n mask v => Sys2Proof.Machine.execLaneEnable c n mask v s
  | .laneDisable c n mask v => Sys2Proof.Machine.execLaneDisable c n mask v s
  | .staticDrive c n mask v => Sys2Proof.Machine.execStaticDrive c n mask v s
  | .levelSetWrite c n m which mask v => Sys2Proof.Machine.execLevelSetWrite c n m which mask v s
  | .lsSettled c n => Sys2Proof.Machine.execLsSettled c n s
  | .pmuWrite c n mask v => Sys2Proof.Machine.execPmuWrite c n mask v s
  | .measGo c n mask v => Sys2Proof.Machine.execMeasGo c n mask v s
  | .measDelayExpiry c n => Sys2Proof.Machine.execMeasDelayExpiry c n s
  | .conversionDone b code clamp sat => Sys2Proof.Machine.execConversionDone b code clamp sat s
  | .safeStateDone c n => Sys2Proof.Machine.execSafeStateDone c n s
  | .heartbeatLoss r => Sys2Proof.Machine.execHeartbeatLoss r s
  | .dchkInterval c n held pin => Sys2Proof.Machine.execDchkInterval c n held pin s
  | .trimWrite c n k mask v => Sys2Proof.Machine.execTrimWrite c n k mask v s
  | .calLoad => Sys2Proof.Machine.execCalLoad s
  | .calLoadDone a b => Sys2Proof.Machine.execCalLoadDone a b s
  | .timTabWrite c e w mask v => Sys2Proof.Machine.execTimTabWrite c e w mask v s
  | .ofsWrite c n mask v => Sys2Proof.Machine.execOfsWrite c n mask v s
  | .pllSet b => Sys2Proof.Machine.execPllSet b s
  | .pllStep b => Sys2Proof.Machine.execPllStep b s
  | .rampEnd b => Sys2Proof.Machine.execRampEnd b s
  | .pllRelock b => Sys2Proof.Machine.execPllRelock b s
  | .pllOff b => Sys2Proof.Machine.execPllOff b s
  | .relockGate b => Sys2Proof.Machine.execRelockGate b s
  | .lockIndicated b => Sys2Proof.Machine.execLockIndicated b s
  | .relockComplete b => Sys2Proof.Machine.execRelockComplete b s
  | .relockTimeout b => Sys2Proof.Machine.execRelockTimeout b s
  | .pllClamp b us on => Sys2Proof.Machine.execPllClamp b us on s
  | .refWindow ref n => Sys2Proof.Machine.execRefWindow ref n s
  | .lockSuspicion b => Sys2Proof.Machine.execLockSuspicion b s
  | .suspicionClear b => Sys2Proof.Machine.execSuspicionClear b s
  | .lossOfLock b cause det => Sys2Proof.Machine.execLossOfLock b cause det s
  | .lockLostGate b => Sys2Proof.Machine.execLockLostGate b s
  | .chipPllFallback => Sys2Proof.Machine.execChipPllFallback s
  | .chipPllLock => Sys2Proof.Machine.execChipPllLock s
  | .usePll => Sys2Proof.Machine.execUsePll s
  | .fabWrite b m key err => Sys2Proof.Machine.execFabWrite b m key err s
  | .pwFrame b err fail => Sys2Proof.Machine.execPwFrame b err fail s
  | .pwComplete b err => Sys2Proof.Machine.execPwComplete b err s
  | .arm b => Sys2Proof.Machine.execArm b s
  | .disarm b => Sys2Proof.Machine.execDisarm b s
  | .swap b => Sys2Proof.Machine.execSwap b s
  | .planeSwap b bad => Sys2Proof.Machine.execPlaneSwap b bad s
  | .swapComplete b => Sys2Proof.Machine.execSwapComplete b s
  | .commit b => Sys2Proof.Machine.execCommit b s
  | .latchParityError b fa => Sys2Proof.Machine.execLatchParityError b fa s
  | .frameReload b fa bad => Sys2Proof.Machine.execFrameReload b fa bad s
  | .fabricPush c v => Sys2Proof.Machine.execFabricPush c v s
  | .tapTake c => Sys2Proof.Machine.execTapTake c s
  | .portBAccess c a v coll up write => Sys2Proof.Machine.execPortBAccess c a v coll up write s
  | .fabCondition c k v => Sys2Proof.Machine.execFabCondition c k v s
  | .mprWrite m t n which mask v => Sys2Proof.Machine.execMprWrite m t n which mask v s
  | .ddrTrain r => Sys2Proof.Machine.execDdrTrain r s
  | .trainingDone r why => Sys2Proof.Machine.execTrainingDone r why s
  | .ddrRefresh r => Sys2Proof.Machine.execDdrRefresh r s
  | .patrolScrub r up dev => Sys2Proof.Machine.execPatrolScrub r up dev s
  | .ddrTempPoll r hot => Sys2Proof.Machine.execDdrTempPoll r hot s
  | .ddrLinkError r kind n => Sys2Proof.Machine.execDdrLinkError r kind n s
  | .failQueueRelease c => Sys2Proof.Machine.execFailQueueRelease c s
  | .mergerTake b => Sys2Proof.Machine.execMergerTake b s
  | .engineApply r => Sys2Proof.Machine.execEngineApply r s
  | .lupd h victim up dev lost => Sys2Proof.Machine.execLupd h victim up dev lost s
  | .accountUpdate r up => Sys2Proof.Machine.execAccountUpdate r up s
  | .drain l => Sys2Proof.Machine.execDrain l s
  | .drainComplete l => Sys2Proof.Machine.execDrainComplete l s
  | .alloc l => Sys2Proof.Machine.execAlloc l s
  | .allocateAccount l up => Sys2Proof.Machine.execAllocateAccount l up s
  | .allocationPassEnd l => Sys2Proof.Machine.execAllocationPassEnd l s
  | .clear n => Sys2Proof.Machine.execClear n s
  | .scrubBucket h up dev => Sys2Proof.Machine.execScrubBucket h up dev s
  | .scrubPassEnd h => Sys2Proof.Machine.execScrubPassEnd h s
  | .ldgFlush r => Sys2Proof.Machine.execLdgFlush r s
  | .ldgFlushDone r => Sys2Proof.Machine.execLdgFlushDone r s
  | .lookup r key => Sys2Proof.Machine.execLookup r key s
  | .lookupDone r victim up dev lost => Sys2Proof.Machine.execLookupDone r victim up dev lost s
  | .digest r ini => Sys2Proof.Machine.execDigest r ini s
  | .digestDone r => Sys2Proof.Machine.execDigestDone r s
  | .spillHeadWrite h v => Sys2Proof.Machine.execSpillHeadWrite h v s
  | .ldgCtrlWrite mask v => Sys2Proof.Machine.execLdgCtrlWrite mask v s
  | .readMargin obj k margin e => Sys2Proof.Machine.execReadMargin obj k margin e s
  | .program obj k e => Sys2Proof.Machine.execProgram obj k e s
  | .programDone res es => Sys2Proof.Machine.execProgramDone res es s
  | .erase obj index => Sys2Proof.Machine.execErase obj index s
  | .eraseDone bad es => Sys2Proof.Machine.execEraseDone bad es s
  | .rawRead obj k flip => Sys2Proof.Machine.execRawRead obj k flip s
  | .rawProgram obj k => Sys2Proof.Machine.execRawProgram obj k s
  | .journalRollover => Sys2Proof.Machine.execJournalRollover s
  | .rolloverPeriodEnd es => Sys2Proof.Machine.execRolloverPeriodEnd es s
  | .getIdentityRead m => Sys2Proof.Machine.execGetIdentityRead m s
  | .generate m bad => Sys2Proof.Machine.execGenerate m bad s
  | .setCert m bad => Sys2Proof.Machine.execSetCert m bad s
  | .installManifest m => Sys2Proof.Machine.execInstallManifest m s
  | .installDone bad bads => Sys2Proof.Machine.execInstallDone bad bads s
  | .openBonded m => Sys2Proof.Machine.execOpenBonded m s
  | .closeBonded m => Sys2Proof.Machine.execCloseBonded m s
  | .issueSeal m => Sys2Proof.Machine.execIssueSeal m s
  | .sealWrite bad bads => Sys2Proof.Machine.execSealWrite bad bads s
  | .lcRequest m fail k spoil => Sys2Proof.Machine.execLcRequest m fail k spoil s
  | .rollForward m fail k spoil => Sys2Proof.Machine.execRollForward m fail k spoil s
  | .nonce m => Sys2Proof.Machine.execNonce m s
  | .debugAuth m => Sys2Proof.Machine.execDebugAuth m s
  | .addOwner m bad => Sys2Proof.Machine.execAddOwner m bad s
  | .removeOwner m bad => Sys2Proof.Machine.execRemoveOwner m bad s
  | .addFleet m bad => Sys2Proof.Machine.execAddFleet m bad s
  | .removeFleet m bad => Sys2Proof.Machine.execRemoveFleet m bad s
  | .katStatus m => Sys2Proof.Machine.execKatStatus m s
  | .katRerun m pass => Sys2Proof.Machine.execKatRerun m pass s
  | .zeroise m => Sys2Proof.Machine.execZeroise m s
  | .zeroiseAll m => Sys2Proof.Machine.execZeroiseAll m s
  | .selfTestComplete pass bad => Sys2Proof.Machine.execSelfTestComplete pass bad s
  | .selfTestFailure => Sys2Proof.Machine.execSelfTestFailure s
  | .freezePin => Sys2Proof.Machine.execFreezePin s
  | .freezeRegister => Sys2Proof.Machine.execFreezeRegister s
  | .freezeEntered fio => Sys2Proof.Machine.execFreezeEntered fio s
  | .thaw => Sys2Proof.Machine.execThaw s
  | .readout off n => Sys2Proof.Machine.execReadout off n s
  | .dbgacc a read => Sys2Proof.Machine.execDbgacc a read s
  | .scan => Sys2Proof.Machine.execScan s
  | .tapReset => Sys2Proof.Machine.execTapReset s
  | .setLevel level => Sys2Proof.Machine.execSetLevel level s
  | .levelPllLock => Sys2Proof.Machine.execLevelPllLock s
  | .levelTimeout => Sys2Proof.Machine.execLevelTimeout s
  | .pmbusDone ok => Sys2Proof.Machine.execPmbusDone ok s
  | .powerOff d => Sys2Proof.Machine.execPowerOff d s
  | .powerOn d => Sys2Proof.Machine.execPowerOn d s
  | .powerOnDone => Sys2Proof.Machine.execPowerOnDone s
  | .sleepCancel => Sys2Proof.Machine.execSleepCancel s
  | .sleepIdle => Sys2Proof.Machine.execSleepIdle s
  | .sleepDoze => Sys2Proof.Machine.execSleepDoze s
  | .sleepDormant => Sys2Proof.Machine.execSleepDormant s
  | .autoSleep => Sys2Proof.Machine.execAutoSleep s
  | .quiesceDone => Sys2Proof.Machine.execQuiesceDone s
  | .clocksStopped => Sys2Proof.Machine.execClocksStopped s
  | .saveDone => Sys2Proof.Machine.execSaveDone s
  | .isolate => Sys2Proof.Machine.execIsolate s
  | .wake fired t => Sys2Proof.Machine.execWake fired t s
  | .otimerExpiry => Sys2Proof.Machine.execOtimerExpiry s
  | .wakeRestore => Sys2Proof.Machine.execWakeRestore s
  | .idleExit => Sys2Proof.Machine.execIdleExit s
  | .legacyWakeRequest d => Sys2Proof.Machine.execLegacyWakeRequest d s
  | .blockAutoOff b => Sys2Proof.Machine.execBlockAutoOff b s
  | .sourceInput n merge => Sys2Proof.Machine.execSourceInput n merge s
  | .setPend n => Sys2Proof.Machine.execSetPend n s
  | .clrPend n => Sys2Proof.Machine.execClrPend n s
  | .doorbell v => Sys2Proof.Machine.execDoorbell v s
  | .srcConfigWrite n vec mask v => Sys2Proof.Machine.execSrcConfigWrite n vec mask v s
  | .delivery mie => Sys2Proof.Machine.execDelivery mie s
  | .acknowledge w pc acts machine => Sys2Proof.Machine.execAcknowledge w pc acts machine s
  | .recall w => Sys2Proof.Machine.execRecall w s
  | .holdoffExpiry n host => Sys2Proof.Machine.execHoldoffExpiry n host s
  | .eoi m w n => Sys2Proof.Machine.execEoi m w n s
  | .hostEoi n => Sys2Proof.Machine.execHostEoi n s
  | .msixSend n => Sys2Proof.Machine.execMsixSend n s
  | .mret w pc => Sys2Proof.Machine.execMret w pc s
  | .wfi w pc acts => Sys2Proof.Machine.execWfi w pc acts s
  | .stewardException w pc cause tval acts => Sys2Proof.Machine.execStewardException w pc cause tval acts s
  | .hostRead bar off n up dev lat => Sys2Proof.Machine.execHostRead bar off n up dev lat s
  | .hostWrite bar off data poisoned up dev lat => Sys2Proof.Machine.execHostWrite bar off data poisoned up dev lat s
  | .perstAssert parts => Sys2Proof.Machine.execPerstAssert parts s
  | .perstDeassert => Sys2Proof.Machine.execPerstDeassert s
  | .d3hot parts => Sys2Proof.Machine.execD3hot parts s
  | .linkDown parts => Sys2Proof.Machine.execLinkDown parts s
  | .dmaStart k => Sys2Proof.Machine.execDmaStart k s
  | .dmaStop k n desc data => Sys2Proof.Machine.execDmaStop k n desc data s
  | .descriptorDone k desc data ok up dev lat => Sys2Proof.Machine.execDescriptorDone k desc data ok up dev lat s
  | .convoyFrame cmd hop crc behind => Sys2Proof.Machine.execConvoyFrame cmd hop crc behind s
  | .convoyStart => Sys2Proof.Machine.execConvoyStart s
  | .convoyStop => Sys2Proof.Machine.execConvoyStop s
  | .convoyAlign hop => Sys2Proof.Machine.execConvoyAlign hop s
  | .convoySync => Sys2Proof.Machine.execConvoySync s
  | .convoyFreeze => Sys2Proof.Machine.execConvoyFreeze s
  | .txStart => Sys2Proof.Machine.execTxStart s
  | .txStop => Sys2Proof.Machine.execTxStop s
  | .txAlign => Sys2Proof.Machine.execTxAlign s
  | .txSync => Sys2Proof.Machine.execTxSync s
  | .txFreeze => Sys2Proof.Machine.execTxFreeze s
  | .txWake => Sys2Proof.Machine.execTxWake s
  | .autoSync => Sys2Proof.Machine.execAutoSync s
  | .convoyWakePattern t => Sys2Proof.Machine.execConvoyWakePattern t s
  | .symbolLockLoss => Sys2Proof.Machine.execSymbolLockLoss s
  | .cvyCfgWrite mask v => Sys2Proof.Machine.execCvyCfgWrite mask v s
  | .funcWrite n mask v => Sys2Proof.Machine.execFuncWrite n mask v s
  | .funcHoldEnd n => Sys2Proof.Machine.execFuncHoldEnd n s
  | .outSet k v => Sys2Proof.Machine.execOutSet k v s
  | .outClr k v => Sys2Proof.Machine.execOutClr k v s
  | .patternMatch k c => Sys2Proof.Machine.execPatternMatch k c s
  | .sot => Sys2Proof.Machine.execSot s
  | .eot => Sys2Proof.Machine.execEot s
  | .binSetupEnd => Sys2Proof.Machine.execBinSetupEnd s
  | .strobeEnd => Sys2Proof.Machine.execStrobeEnd s
  | .rdyTimeout => Sys2Proof.Machine.execRdyTimeout s
  | .pmbAlert => Sys2Proof.Machine.execPmbAlert s
  | .serialGo ini len => Sys2Proof.Machine.execSerialGo ini len s
  | .transferEnd ini sent got err => Sys2Proof.Machine.execTransferEnd ini sent got err s
  | .uartRx ini v err => Sys2Proof.Machine.execUartRx ini v err s
  | .timerPeriodEnd k => Sys2Proof.Machine.execTimerPeriodEnd k s
  | .capture k n => Sys2Proof.Machine.execCapture k n s
  | .checkPoint l shadow => Sys2Proof.Machine.execCheckPoint l shadow s
  | .shadowMismatch u parity => Sys2Proof.Machine.execShadowMismatch u parity s
  | .fioWindow n => Sys2Proof.Machine.execFioWindow n s
  | .supplyExcursion rail => Sys2Proof.Machine.execSupplyExcursion rail s
  | .tempSample temps => Sys2Proof.Machine.execTempSample temps s
  | .lockstepMismatch u present => Sys2Proof.Machine.execLockstepMismatch u present s
  | .faultReport t => Sys2Proof.Machine.execFaultReport t s
  | .containmentHalt id => Sys2Proof.Machine.execContainmentHalt id s
  | .containmentConfirm id => Sys2Proof.Machine.execContainmentConfirm id s
  | .escalation id => Sys2Proof.Machine.execEscalation id s
  | .faultInject code unit => Sys2Proof.Machine.execFaultInject code unit s
  | .logPop => Sys2Proof.Machine.execLogPop s
  | .stewardRestart v => Sys2Proof.Machine.execStewardRestart v s
  | .sliceGo k target lane => Sys2Proof.Machine.execSliceGo k target lane s
  | .sliceStep pass meas => Sys2Proof.Machine.execSliceStep pass meas s
  | .sliceComplete t => Sys2Proof.Machine.execSliceComplete t s
  | .sliceOvertime => Sys2Proof.Machine.execSliceOvertime s
  | .schedulerOffer => Sys2Proof.Machine.execSchedulerOffer s
  | .ageLate j t => Sys2Proof.Machine.execAgeLate j t s
  | .powerOnReset gone bad res => Sys2Proof.Machine.execPowerOnReset gone bad res s
  | .pwrOkRelease => Sys2Proof.Machine.execPwrOkRelease s
  | .pwrOkFall gone bad res => Sys2Proof.Machine.execPwrOkFall gone bad res s
  | .resetN => Sys2Proof.Machine.execResetN s
  | .chipReset key => Sys2Proof.Machine.execChipReset key s
  | .deviceReset gone bad res => Sys2Proof.Machine.execDeviceReset gone bad res s
  | .symbolLock => Sys2Proof.Machine.execSymbolLock s
  | .linkUp lstate speed width => Sys2Proof.Machine.execLinkUp lstate speed width s
  | .d3hotExit => Sys2Proof.Machine.execD3hotExit s
  | .msixUnmask kind v => Sys2Proof.Machine.execMsixUnmask kind v s
  | .debugHalt w pc => Sys2Proof.Machine.execDebugHalt w pc s
  | .debugResume w pc detach => Sys2Proof.Machine.execDebugResume w pc detach s
  | .powerLoss gone bad res => Sys2Proof.Machine.execPowerLoss gone bad res s
  | .uiStale b => Sys2Proof.Machine.execUiStale b s
  | .recoveryEraseDone es => Sys2Proof.Machine.execRecoveryEraseDone es s

end Sys2Proof.Machine
end

