-- ==== Sys2Proof/Safety.lean ====
section
/-! DEFINITION. What the statements call a canonical state, a change of registers alone, and what a stride of a caravan leaves. -/

namespace Sys2Proof.Machine

/-- The canonical form of all storage by key: keys rising, no entry equal to what an absent key reads as. States that
hold the same contents are then equal data. -/
structure State.Canonical (s : State) : Prop where
  regs : Tab.wf 0 s.regs = true
  mem : Tab.wf memDefault s.mem = true
  ecc : Tab.wf 0 s.ecc = true
  rawChk : Tab.wf 0 s.rawChk = true
  cells : Tab.wf CellX.reset s.cells = true
  runs : Tab.wf Run.reset s.runs = true
  blocks : Tab.wf BlockX.reset s.blocks = true
  regions : Tab.wf RegionX.reset s.regions = true
  stewards : Tab.wf Steward.reset s.stewards = true
  srcs : Tab.wf SrcX.reset s.evc.srcs = true
  esum : Tab.wf 0 s.esum = true

/-- `t` is `s` but for registers whose fields have a key in `ks`: no memory, no queue, no other register differs. -/
def OnlyRegs (s t : State) (ks : List Nat) : Prop :=
  t = { s with regs := t.regs } ∧ ∀ f : Fld, f.key ∉ ks → t.rd f = s.rd f

/-- The caravan led by `l` can issue its lead's word `f`, and no member's word raises a cause before the stride (R93). -/
abbrev State.Issues (s : State) (l : Nat) (f : Fetched) : Prop :=
  l < 256 ∧ (s.cell l).word = some f ∧ s.canStride l = true ∧ (s.run l).phase = .ready ∧ s.wordCauses l = [] ∧
    s.atScLimit l = false

/-- A pin of a member of the caravan led by `c` is out of the safe state or marked unused (R98). -/
abbrev State.PinsReady (s : State) (c : Nat) : Prop :=
  ∀ m ∈ s.members c, ∀ n, n < 4 → s.flag (PIN.STATE_SAFE m n) = false ∨ s.flag (PIN.CTRL_UNUSED m n) = true

/-- R98: none of the ILLEGAL_STATE conditions of START holds for cell `c`. -/
abbrev State.MayStart (s : State) (c : Nat) : Prop :=
  s.isLead c = true ∧ s.cvState c ≠ stArmed ∧ s.cvState c ≠ stRunning ∧
  (∀ m ∈ s.members c, s.pllState (blockOf m) = pllLocked ∨ s.pllState (blockOf m) = pllRamping) ∧ s.PinsReady c

/-- R98: none of the BAD_ARG conditions of START holds for cell `c`: STRIDE_UI is 1 to 8 and the same in every member, and
START_PC lies outside the ring half of every member with a ring. -/
abbrev State.StartArgs (s : State) (c : Nat) : Prop :=
  1 ≤ s.nui c ∧ s.nui c ≤ 8 ∧ ∀ m ∈ s.members c, s.nui m = s.nui c ∧
    (s.flag (SEQ.RING_EN m) = false ∨ s.rd (SEQ.START_PC_ADDR c) / 4096 ≠ s.rd (SEQ.RING_HALF m))

/-- R91, R92, R97, R98: none of the ILLEGAL_STATE conditions of RESUME holds for cell `c`. -/
abbrev State.MayResume (s : State) (c : Nat) : Prop :=
  s.isLead c = true ∧ s.cvState c = stHalted ∧ s.rd (SEQ.STATUS_CCAUSE c) ≠ 0x0F ∧ s.rd (SEQ.STATUS_CCAUSE c) ≠ 0x10 ∧
  (s.run c).bondBroken = false ∧ s.flag (SEQ.STATUS_ABORTED c) = false ∧ s.PinsReady c ∧
  (s.pllState (blockOf c) = pllLocked ∨ s.pllState (blockOf c) = pllRamping)

/-- R325, R335: no command of the Store is pending, no operation runs, and no rollover is due. -/
abbrev State.StoreFree (s : State) : Prop :=
  s.store.op = none ∧ s.flag STO.CMD_STATUS_PEND = false ∧ s.rolloverDue = false

/-- R322, R331: a port (Objor's or the shared one) may read code word `k` by command. -/
abbrev State.PortReads (s : State) (obj : Bool) (k : Nat) : Prop :=
  obj = true ∨ ((sectorOf k < 2 ∨ 8 ≤ sectorOf k) ∧ s.cwXo k = false)

/-- R322, R331: a port may program code word `k`. -/
abbrev State.PortPrograms (s : State) (obj : Bool) (k : Nat) : Prop :=
  (obj = true ∧ (2 ≤ sectorOf k ∨ (sectorOf k = 0 ∧ s.rd LC.PROGRESS_PHASE ≠ 0))) ∨
    (obj = false ∧ 8 ≤ sectorOf k ∧ s.cwXo k = false)

/-- R345, R347, R349: Objor serves mailbox `m` at once in one of the life-cycle states `states`: its command register is served, Objor is
ready, and no command of this or the other mailbox runs or waits. -/
abbrev State.Serves (s : State) (m : Nat) (states : List Nat) : Prop :=
  m < 2 ∧ s.regOpen (4 * m) (OBJ.MB_CMD_OP m).addr = true ∧ s.flag (OBJ.MB_STATUS_PEND m) = false ∧ s.flag OBJ.STATUS_READY = true ∧ s.flag OBJ.STATUS_ERROR = false ∧
    states.contains (s.rd LC.STATE_STATE) = true ∧ s.objor.install = none ∧ s.objor.sealRun = none ∧ s.objor.queue = []

/-- Objor reads the `n` bytes `b` of the buffer at `a` (R348), which leaves the state `u`. -/
abbrev State.ObjReads (s : State) (a n : Nat) (b : List Nat) (u : State) : Prop :=
  bufOk a n = true ∧ s.ownBytes a n = .ok (some b, u)

/-- R370: the active plane of a block, or a caravan that runs, uses manifest slot `n`. -/
abbrev State.SlotUsed (s : State) (n : Nat) : Prop :=
  (∃ b, b < 32 ∧ s.rd (FAB.PLANE_MSLOT b (s.activePlane b)) = n) ∨
    ∃ l ∈ s.allLeads, s.busy l = true ∧ (s.run l).provSlot = n

/-- Objor reads the `n` bytes `b` of a manifest at `a` (R348, R357), which leaves the state `u`. -/
abbrev State.ManifestReads (s : State) (a n : Nat) (b : List Nat) (u : State) : Prop :=
  ∃ ws, s.ownWords a ((n + 8) / 9) 0 0 = .ok (some ws, u) ∧ b = (wordBytes ws).take n

/-- R407, R418: no PWR command is pending, and no transition of a domain, a sleep state or a level runs. -/
abbrev State.PwrFree (s : State) : Prop :=
  s.flag PWR.CMD_STATUS_PEND = false ∧ s.power.entry = none ∧ s.power.levelRun = none ∧ s.power.redo = false ∧ s.power.rising = [] ∧
    s.power.sleep = 0

/-- R408, refusers 0 and 1, for block `b`: none of its caravans is ARMED or RUNNING, no fail record waits in it, no stream
descriptor of it is active and its Plane Writer is idle. -/
abbrev State.BlockStill (s : State) (b : Nat) : Prop :=
  s.blockBusy b = false ∧ (s.block b).merger = [] ∧ (s.block b).pw = none ∧
    ∀ c ∈ blockCells b, (s.cell c).failQ = [] ∧ ∀ n, n < 4 → s.flag (SEQ.SD_CTRL_ACTIVE c n) = false

/-- R418: none of the conditions holds under which POWER_OFF of domain `d` is refused. -/
abbrev State.MayPowerOff (s : State) (d : Nat) : Prop :=
  if d < 32 then s.BlockStill d ∧ s.frozen = false ∧ s.flag (FAB.STATUS_ARMED d) = false
  else (∀ k, k < 8 → s.blockOn (8 * (d - 32) + k) = false) ∧ s.flag (LDG.CTRL_EN 0) = false ∧ s.rd (DDR.STATUS_STATE (d - 32)) ≠ ddrTraining

/-- R408: no refuser holds against sleep state `n` (1 IDLE, 2 DOZE, 3 DORMANT). -/
abbrev State.MaySleep (s : State) (n : Nat) : Prop :=
  (∀ b, b < 32 → s.BlockStill b) ∧ (∀ i, i < 8 → s.flag (DMA.STATUS_PEND i) = false) ∧
    (2 ≤ n → s.flag STO.STATUS_BUSY = false ∧ s.flag OBJ.STATUS_BUSY = false ∧ (∀ k, k < 16 → s.rd (OBJ.SLOT_A_STATE k) ≠ 1) ∧
      linkAllows n (s.rd PCI.STATUS_LSTATE) = true) ∧
    (∀ w, w < 4 → s.flag (EVC.STW_STATE_HELD w) = false ∧ (s.steward w).attached = false) ∧ (s.rst.ir = 1 ∨ s.rst.ir = 0xFF) ∧
    s.frozen = false ∧ s.power.wakes = []

/-- R493, R494: the resources of slice `k` are free: for 0 every lane of block `target`, for 1 to 3 one lane and its converter, for 4
a locked PLL, for 6 a channel that nothing uses, for 7 the link down; slice 5 needs none. -/
abbrev State.SliceReady (s : State) (k target lane : Nat) : Prop :=
  (k = 0 → s.blockOn target = true ∧ ∀ n, n < 32 → s.laneFree target n = true) ∧ (k = 4 → s.rd (PLL.STATUS_STATE target) = pllLocked) ∧
    (k = 6 → s.rd (DDR.STATUS_STATE target) = ddrReady ∧ s.noStream target = true ∧ s.flag (LDG.CTRL_EN 0) = false) ∧
    (k = 7 → s.flag PCI.STATUS_LINK_UP = false) ∧
    (k = 1 ∨ k = 2 ∨ k = 3 → s.blockOn target = true ∧ s.laneFree target lane = true ∧ (s.block target).adcQ = [])

/-- R391: a STEP of the caravan led by `l` that ends at an address breakpoint triggers no freeze: the caravan is not
stepping, or one of the two enables is 0. -/
abbrev State.NoStepFreeze (s : State) (l : Nat) : Prop :=
  (s.run l).stepping = false ∨ s.flag (SEQ.CFG_FRZ_BRK l) = false ∨ s.flag DBG.FRZ_CTRL_BRK_EN = false

/-- `n` strides of the caravan led by `l` lead from `s` to `t`: SC of every member counts them (R33), and none leave it; no memory, no
queue and, where the end of a STEP triggers no freeze (R391), no register outside the windows of the members' cells (R535)
differs, but for TIM.UI of other cells on the same clock, which follows the period while a STEP ramps (R184, R215). -/
def Strode (s t : State) (l n : Nat) : Prop :=
  (∀ c ∈ s.members l, t.rd (SEQ.SC_SC c) = if n = 0 then s.rd (SEQ.SC_SC c) else (s.rd (SEQ.SC_SC l) + n) % 2 ^ 48) ∧ t.mem = s.mem ∧ t.pending = s.pending ∧
  (s.NoStepFreeze l → ∀ f : Fld, (∀ c ∈ s.members l, f.key < 64 * cellBase c ∨ 64 * (cellBase c + 0x10000) ≤ f.key) →
    (∀ c, c < 256 → f.key ≠ (TIM.UI_UI c).key) → t.rd f = s.rd f)

end Sys2Proof.Machine
end

