-- ==== Sys2Proof/WellFormed.lean ====
section
/-! DEFINITION. Which commands are well formed: the operands name units that the device has (R16, R303, R424, R465) and
accesses of a size that registers support (R7). `exec` itself is total. -/

namespace Sys2Proof

/-- R248: units 0 to 3, operands of 27 bits, CRC widths 16, 32 and 64, t up to 72. -/
def UnitOp.wf : UnitOp → Bool
  | .mac u a b _ _ op => decide (u < 4) && decide (a < 2 ^ 27) && decide (b < 2 ^ 27) && decide (op < 3)
  | .crc w p i _ _ x _ => (w == 16 || w == 32 || w == 64) && decide (p < 2 ^ w) && decide (i < 2 ^ w) && decide (x < 2 ^ w)
  | .bch t n input => decide (t ≤ 72) && decide (n ≤ 8 * 1024 + 14 * 72) && decide (n ≤ 8 * input.length)

/-- R252: pairs of a block and a plane. -/
def planesOk (l : List (Nat × Nat)) : Bool := l.all fun e => decide (e.1 < 32) && decide (e.2 < 2)

/-- The blocks and planes of a loss of power are those of the device. -/
def PowerCut.wf (c : PowerCut) : Bool := (c.torn.all fun b => decide (b < 32)) && planesOk c.worn

/-- The operands of a command are in range: cells below 256, lanes, regions and stewards below 4, blocks below 32 (R16),
initiators below 68, masters below 62 (R275), mailboxes below 2, sources below 2048 (R424), register accesses of 4 or 8
bytes (R7), and each index of a register array below its count. -/
def Instr.wf : Instr → Bool
  | .registerWrite m _ n _ => decide (m < 62) && (n == 4 || n == 8)
  | .readClear _ n => (n == 4 || n == 8)
  | .requestIssue i _ _ kind _ _ _ _ _ => decide (i < 62) && decide (kind < 4)
  | .rd i _ _ _ => decide (i < 68)
  | .wr i _ _ _ => decide (i < 68)
  | .rdp i _ _ _ => decide (i < 68)
  | .wrp i _ _ _ => decide (i < 68)
  | .rspData i _ _ => decide (i < 68)
  | .rspAck i _ _ => decide (i < 68)
  | .rspErr i _ _ => decide (i < 68)
  | .responseTimeout i _ => decide (i < 68)
  | .linkReplay k i _ how => decide (k < 292) && decide (i < 68) && decide (how.e < 2 ^ 704) && decide (how.e2 < 2 ^ 704)
  | .recfgClose => true
  | .drained _ => true
  | .recfgOpen => true
  | .berthGrantWrite m i c _ _ => decide (m < 62) && decide (i < 68) && decide (c < 15)
  | .tollClear => true
  | .compatWakeTimeout i _ => decide (i < 68)
  | .fetch l _ => decide (l < 256)
  | .underrunHold l => decide (l < 256)
  | .scLimit l => decide (l < 256)
  | .resolve l _ _ => decide (l < 256)
  | .vec l env => decide (l < 256) && env.2.all fun e => decide (e.1 < 1024)
  | .vex l env => decide (l < 256) && env.2.all fun e => decide (e.1 < 1024)
  | .nop l => decide (l < 256)
  | .halt l => decide (l < 256)
  | .jmp l => decide (l < 256)
  | .jcc l => decide (l < 256)
  | .call l => decide (l < 256)
  | .ret l => decide (l < 256)
  | .loopOpen l => decide (l < 256)
  | .loopClose l => decide (l < 256)
  | .loopDrop l => decide (l < 256)
  | .matchWord l => decide (l < 256)
  | .matchCountExpiry l => decide (l < 256)
  | .matchDrainEnd l => decide (l < 256)
  | .waitTime l _ => decide (l < 256)
  | .waitCond l _ => decide (l < 256)
  | .waitCountExpiry l => decide (l < 256)
  | .sync l _ => decide (l < 256)
  | .syncRelease n => decide (n < 256)
  | .apg l => decide (l < 256)
  | .mode l => decide (l < 256)
  | .tset l => decide (l < 256)
  | .tsetApply c => decide (c < 256)
  | .event l => decide (l < 256)
  | .stream l => decide (l < 256)
  | .ledgerTag l => decide (l < 256)
  | .ledgerAcct l => decide (l < 256)
  | .ledgerMark l => decide (l < 256)
  | .ledgerAlloc l => decide (l < 256)
  | .bond l => decide (l < 256)
  | .add l => decide (l < 256)
  | .sub l => decide (l < 256)
  | .and l => decide (l < 256)
  | .or l => decide (l < 256)
  | .xor l => decide (l < 256)
  | .shl l => decide (l < 256)
  | .shr l => decide (l < 256)
  | .cmp l => decide (l < 256)
  | .movi l => decide (l < 256)
  | .brk l => decide (l < 256)
  | .tload l => decide (l < 256)
  | .strmPrime l => decide (l < 256)
  | .strmFlush l => decide (l < 256)
  | .cvcVoid l => decide (l < 256)
  | .cvcFlag l => decide (l < 256)
  | .start c _ => decide (c < 256)
  | .stop c => decide (c < 256)
  | .resume c => decide (c < 256)
  | .step c => decide (c < 256)
  | .abort c => decide (c < 256)
  | .void c => decide (c < 256)
  | .prime c desc => decide (c < 256) && decide (desc < 4)
  | .flush c => decide (c < 256)
  | .nextPcWrite c _ => decide (c < 256)
  | .evtSet c _ => decide (c < 256)
  | .evqRead c => decide (c < 256)
  | .armDescriptor c n => decide (c < 256) && decide (n < 4)
  | .ringWrite c _ _ => decide (c < 256)
  | .psmWrite c n _ _ => decide (c < 256) && decide (n < 64)
  | .streamDmaRefill c _ _ _ _ => decide (c < 256)
  | .celCaravanWrite c _ _ => decide (c < 256)
  | .gangWrite r _ _ => decide (r < 4)
  | .clockSourceSwitch b => decide (b < 32)
  | .apgOwnWrite r _ _ => decide (r < 4)
  | .sgrpWrite r n _ _ => decide (r < 4) && decide (n < 256)
  | .apgWrite b off _ _ => decide (b < 32) && decide (off < 65536)
  | .laneEnable c n _ _ => decide (c < 256) && decide (n < 4)
  | .laneDisable c n _ _ => decide (c < 256) && decide (n < 4)
  | .staticDrive c n _ _ => decide (c < 256) && decide (n < 4)
  | .levelSetWrite c n m which _ _ => decide (c < 256) && decide (n < 4) && decide (m < 2) && decide (which < 3)
  | .lsSettled c n => decide (c < 256) && decide (n < 4)
  | .pmuWrite c n _ _ => decide (c < 256) && decide (n < 4)
  | .measGo c n _ _ => decide (c < 256) && decide (n < 4)
  | .measDelayExpiry c n => decide (c < 256) && decide (n < 4)
  | .conversionDone b _ _ _ => decide (b < 32)
  | .safeStateDone c n => decide (c < 256) && decide (n < 4)
  | .heartbeatLoss r => decide (r < 4)
  | .dchkInterval c n _ _ => decide (c < 256) && decide (n < 4)
  | .trimWrite c n k _ _ => decide (c < 256) && decide (n < 4) && decide (k < 8)
  | .calLoad => true
  | .calLoadDone _ _ => true
  | .timTabWrite c e w _ _ => decide (c < 256) && decide (e < 64) && decide (w < 2)
  | .ofsWrite c n _ _ => decide (c < 256) && decide (n < 4)
  | .pllSet b => decide (b < 32)
  | .pllStep b => decide (b < 32)
  | .rampEnd b => decide (b < 32)
  | .pllRelock b => decide (b < 32)
  | .pllOff b => decide (b < 32)
  | .relockGate b => decide (b < 32)
  | .lockIndicated b => decide (b < 32)
  | .relockComplete b => decide (b < 32)
  | .relockTimeout b => decide (b < 32)
  | .pllClamp b _ _ => decide (b < 32)
  | .refWindow ref _ => decide (ref < 2)
  | .lockSuspicion b => decide (b < 32)
  | .suspicionClear b => decide (b < 32)
  | .lossOfLock b _ _ => decide (b < 32)
  | .lockLostGate b => decide (b < 32)
  | .chipPllFallback => true
  | .chipPllLock => true
  | .usePll => true
  | .fabWrite b m _ _ => decide (b < 32) && decide (m < 62)
  | .pwFrame b _ _ => decide (b < 32)
  | .pwComplete b _ => decide (b < 32)
  | .arm b => decide (b < 32)
  | .disarm b => decide (b < 32)
  | .swap b => decide (b < 32)
  | .planeSwap b _ => decide (b < 32)
  | .swapComplete b => decide (b < 32)
  | .commit b => decide (b < 32)
  | .latchParityError b _ => decide (b < 32)
  | .frameReload b _ _ => decide (b < 32)
  | .fabricPush c v => decide (c < 256) && v.2.all UnitOp.wf
  | .tapTake c => decide (c < 256)
  | .portBAccess c a _ _ _ _ => decide (c < 256 ∧ a < 8192)
  | .fabCondition c k _ => decide (c < 256) && decide (k < 13)
  | .mprWrite m t n which _ _ => decide (m < 62) && decide (t < 62) && decide (n < 16) && decide (which < 2)
  | .ddrTrain r => decide (r < 4)
  | .trainingDone r _ => decide (r < 4)
  | .ddrRefresh r => decide (r < 4)
  | .patrolScrub r _ _ => decide (r < 4)
  | .ddrTempPoll r _ => decide (r < 4)
  | .ddrLinkError r kind _ => decide (r < 4) && decide (kind < 2)
  | .failQueueRelease c => decide (c < 256)
  | .mergerTake b => decide (b < 32)
  | .engineApply r => decide (r < 4)
  | .lupd h _ _ _ _ => decide (h < 4)
  | .accountUpdate r _ => decide (r < 4)
  | .drain l => decide (l < 256)
  | .drainComplete l => decide (l < 256)
  | .alloc l => decide (l < 256)
  | .allocateAccount l _ => decide (l < 256)
  | .allocationPassEnd l => decide (l < 256)
  | .clear n => decide (n < 256)
  | .scrubBucket h _ _ => decide (h < 4)
  | .scrubPassEnd h => decide (h < 4)
  | .ldgFlush r => decide (r < 4)
  | .ldgFlushDone r => decide (r.1 < 4)
  | .lookup r _ => decide (r < 4)
  | .lookupDone r _ _ _ _ => decide (r < 4)
  | .digest r i => decide (r < 4) && decide (i < 64)
  | .digestDone r => decide (r.1 < 4)
  | .spillHeadWrite h _ => decide (h < 4)
  | .ldgCtrlWrite _ _ => true
  | .readMargin _ _ _ _ => true
  | .program _ _ _ => true
  | .programDone _ _ => true
  | .erase _ _ => true
  | .eraseDone _ _ => true
  | .rawRead _ _ _ => true
  | .rawProgram _ _ => true
  | .journalRollover => true
  | .rolloverPeriodEnd _ => true
  | .getIdentityRead m => decide (m < 2)
  | .generate m _ => decide (m < 2)
  | .setCert m _ => decide (m < 2)
  | .installManifest m => decide (m < 2)
  | .installDone _ _ => true
  | .openBonded m => decide (m < 2)
  | .closeBonded m => decide (m < 2)
  | .issueSeal m => decide (m < 2)
  | .sealWrite _ _ => true
  | .lcRequest m _ _ _ => decide (m < 2)
  | .rollForward m _ _ _ => decide (m < 2)
  | .nonce m => decide (m < 2)
  | .debugAuth m => decide (m < 2)
  | .addOwner m _ => decide (m < 2)
  | .removeOwner m _ => decide (m < 2)
  | .addFleet m _ => decide (m < 2)
  | .removeFleet m _ => decide (m < 2)
  | .katStatus m => decide (m < 2)
  | .katRerun m _ => decide (m < 2)
  | .zeroise m => decide (m.1 < 2)
  | .zeroiseAll m => decide (m.1 < 2)
  | .selfTestComplete _ _ => true
  | .selfTestFailure => true
  | .freezePin => true
  | .freezeRegister => true
  | .freezeEntered _ => true
  | .thaw => true
  | .readout _ _ => true
  | .dbgacc _ _ => true
  | .scan => true
  | .tapReset => true
  | .setLevel _ => true
  | .levelPllLock => true
  | .levelTimeout => true
  | .pmbusDone _ => true
  | .powerOff _ => true
  | .powerOn _ => true
  | .powerOnDone => true
  | .sleepCancel => true
  | .sleepIdle => true
  | .sleepDoze => true
  | .sleepDormant => true
  | .autoSleep => true
  | .quiesceDone => true
  | .clocksStopped => true
  | .saveDone => true
  | .isolate => true
  | .wake _ _ => true
  | .otimerExpiry => true
  | .wakeRestore => true
  | .idleExit => true
  | .legacyWakeRequest _ => true
  | .blockAutoOff b => decide (b < 32)
  | .sourceInput n _ => decide (n < 2048)
  | .setPend n => decide (n < 2048)
  | .clrPend n => decide (n < 2048)
  | .doorbell _ => true
  | .srcConfigWrite n _ _ _ => decide (n < 2048)
  | .delivery _ => true
  | .acknowledge w _ _ _ => decide (w < 4)
  | .recall w => decide (w < 4)
  | .holdoffExpiry n _ => decide (n < 2048)
  | .eoi m w n => decide (m < 62) && decide (w < 4) && decide (n < 2048)
  | .hostEoi n => decide (n < 2048)
  | .msixSend n => decide (n < 2048)
  | .mret w _ => decide (w < 4)
  | .wfi w _ _ => decide (w < 4)
  | .stewardException w _ _ _ _ => decide (w < 4)
  | .hostRead bar _ _ _ _ _ => decide (bar < 6)
  | .hostWrite bar _ _ _ _ _ _ => decide (bar < 6)
  | .perstAssert _ => true
  | .perstDeassert => true
  | .d3hot _ => true
  | .linkDown _ => true
  | .dmaStart k => decide (k < 8)
  | .dmaStop k _ _ _ => decide (k < 8)
  | .descriptorDone k _ _ _ _ _ _ => decide (k < 8)
  | .convoyFrame cmd hop crc _ => decide (cmd < 256) && decide (hop < 256) && decide (crc < 256)
  | .convoyStart => true
  | .convoyStop => true
  | .convoyAlign hop => decide (hop < 256)
  | .convoySync => true
  | .convoyFreeze => true
  | .txStart => true
  | .txStop => true
  | .txAlign => true
  | .txSync => true
  | .txFreeze => true
  | .txWake => true
  | .autoSync => true
  | .convoyWakePattern _ => true
  | .symbolLockLoss => true
  | .cvyCfgWrite _ _ => true
  | .funcWrite n _ _ => decide (n < 96)
  | .funcHoldEnd n => decide (n < 96)
  | .outSet k _ => decide (k < 3)
  | .outClr k _ => decide (k < 3)
  | .patternMatch k _ => decide (k < 4)
  | .sot => true
  | .eot => true
  | .binSetupEnd => true
  | .strobeEnd => true
  | .rdyTimeout => true
  | .pmbAlert => true
  | .serialGo i _ => decide (i < 8)
  | .transferEnd i _ _ _ => decide (i < 8)
  | .uartRx i _ _ => decide (i < 2)
  | .timerPeriodEnd k => decide (k < 8)
  | .capture k _ => decide (k < 8)
  | .checkPoint l _ => decide (l < 256)
  | .shadowMismatch u _ => decide (u < 293)
  | .fioWindow _ => true
  | .supplyExcursion rail => decide (rail < 13)
  | .tempSample _ => true
  | .lockstepMismatch u _ => decide (u < 5)
  | .faultReport _ => true
  | .containmentHalt _ => true
  | .containmentConfirm _ => true
  | .escalation _ => true
  | .faultInject _ _ => true
  | .logPop => true
  | .stewardRestart _ => true
  | .sliceGo k _ _ => decide (k < 256)
  | .sliceStep _ _ => true
  | .sliceComplete _ => true
  | .sliceOvertime => true
  | .schedulerOffer => true
  | .ageLate j _ => decide (j < 8)
  | .powerOnReset _ _ res => res.wf
  | .pwrOkRelease => true
  | .pwrOkFall _ _ res => res.wf
  | .resetN => true
  | .chipReset _ => true
  | .deviceReset _ _ res => planesOk res.2
  | .symbolLock => true
  | .linkUp l sp w => decide (1 ≤ l ∧ l ≤ 5) && decide (1 ≤ sp ∧ sp ≤ 5) && [1, 2, 4].contains w
  | .d3hotExit => true
  | .msixUnmask k v => decide (k < 8) && decide (v < 64)
  | .debugHalt w _ => decide (w < 4)
  | .debugResume w _ _ => decide (w < 4)
  | .powerLoss _ _ res => res.wf
  | .uiStale b => decide (b < 32)
  | .recoveryEraseDone _ => true

end Sys2Proof
end

