-- ==== Sys2Proof/Certificates/Slice0/Obligations.lean ====
section
/-! DEFINITION. The statements for the provers. -/

open Sys2Proof Sys2Proof.Machine

/-- For every command c, queue q and state s: the step of s with c in front of q is exec of c on s with queue q. On an
empty queue the step answers the state unchanged: this is the model's choice (log 40), since what a clock does has
rows of its own. -/
def Obligations.StepRunsFrontCommand : Prop :=
  (∀ (c : Instr) (q : List Instr) (s : State), step { s with pending := c :: q } = exec c { s with pending := q }) ∧
  (∀ s : State, s.pending = [] → step s = .next s)

/-- For every command i of the opcode table, with any operands, and every state s, exec i s answers a next state whose
queue is the queue of s: no command ends in a fault or a refusal, and none adds to, removes from or reorders the
commands that wait. With StepRunsFrontCommand a step therefore removes exactly the front command. -/
def Obligations.EveryCommandCompletes : Prop :=
  ∀ (i : Instr) (s : State), ∃ t, exec i s = .next t ∧ t.pending = s.pending

/-- For every state s in canonical form (registers, memory bytes, stored errors, raw check bits, the records of cells,
caravans, blocks, regions, stewards, event sources and ledger set sums: keys strictly rising, no entry equal to what
an absent key reads as): if the step answers s', then s' is in canonical form. Equal contents are thus equal data
after any run. -/
def Obligations.StepKeepsCanonicalForm : Prop :=
  ∀ s s' : State, s.Canonical → step s = .next s' → s'.Canonical

/-- State.reset is in canonical form and its queue is empty. -/
def Obligations.ResetIsCanonical : Prop :=
  State.reset.Canonical ∧ State.reset.pending = []

/-- For every state s, field f and value v: in s.wr f v the field f reads as v cut to the width of f, and nothing else of
the state changes but the register of f (OnlyRegs); s.wrs touches only the registers of its list. After writeWord at a
the slot reads as v modulo 2^72, the stored error class of the slot is cleared, and every byte outside a to a + 8
reads as before. The statements that answer s.wr, s.wrs or a written word rest on this; the keyed store of registers
is the model's own form (log 2). -/
def Obligations.StorageLaws : Prop :=
  (∀ (s : State) (f : Fld) (v : Nat),
    (s.wr f v).rd f = v % 2 ^ f.width ∧ OnlyRegs s (s.wr f v) [f.key] ∧
    ∀ l : List (Fld × Nat), OnlyRegs s (s.wrs l) (l.map fun e => e.1.key)) ∧
  (∀ (s : State) (a v : Nat),
    (s.writeWord a v).readWord a = v % 2 ^ 72 ∧ (s.writeWord a v).eccOf a 0 = 0 ∧
    (∀ b, b < a ∨ a + 9 ≤ b → (s.writeWord a v).readByte b = s.readByte b))

/-- For a lead l that issues word f (R93 raises nothing) whose opcode is that of the command: exec answers t, one stride
after s (SC of every member + 1; no memory and, unless the end of a STEP freezes the device, no register outside the
members' cells differs), the lead's word is gone, and PC is PC + 1 mod 8192 when f came by PC. For every member c with
its own CTL word w: ADD, SUB, AND, OR, XOR, SHL, SHR write G[D] with the value of R73 modulo 2^72 (shifts of 72 or
more give 0) and leave the other G registers, EQ and LT; CMP sets EQ and LT alone; MOVI replaces 36 bits of G[D]; MODE
writes LMODE and ALT where its valid bits are 1; TSET schedules the copy of each valid field's table entry for stride
t + 3 (R66). -/
def Obligations.MemberWords : Prop :=
  ∀ (s : State) (l : Nat) (f : Fetched) (i : Instr) (op : Nat), s.Issues l f →
    (i, op) ∈ [(Instr.nop l, 0x00), (.mode l, 0x0B), (.tset l, 0x0C), (.add l, 0x20), (.sub l, 0x21), (.and l, 0x22),
      (.or l, 0x23), (.xor l, 0x24), (.shl l, 0x25), (.shr l, 0x26), (.cmp l, 0x27), (.movi l, 0x28)] →
    isCtl f.word op = true →
    ∃ t, exec i s = .next t ∧ Strode s t l 1 ∧ (t.cell l).word = none ∧
      (f.ring = false → t.rd (SEQ.PC_PC l) = (s.rd (SEQ.PC_PC l) + 1) % 8192) ∧
      ∀ c ∈ s.members l, ∀ g, (s.cell c).word = some g → wClass g.word = 2 →
        let w := g.word
        let d := bits w 0 3
        let a := s.greg c (bits w 3 3)
        let b := s.aluB c w
        (wOp w = 0x20 → t.greg c d = (a + b) % 2 ^ 72) ∧
        (wOp w = 0x21 → t.greg c d = (a + 2 ^ 72 - b % 2 ^ 72) % 2 ^ 72) ∧
        (wOp w = 0x22 → t.greg c d = Nat.land a b) ∧ (wOp w = 0x23 → t.greg c d = Nat.lor a b) ∧
        (wOp w = 0x24 → t.greg c d = Nat.xor a b) ∧
        (wOp w = 0x25 → t.greg c d = if 72 ≤ b % 128 then 0 else a * 2 ^ (b % 128) % 2 ^ 72) ∧
        (wOp w = 0x26 → t.greg c d = if 72 ≤ b % 128 then 0 else a / 2 ^ (b % 128)) ∧
        (wOp w = 0x28 → t.greg c d = setField (s.greg c d) (if bitOf w 3 then 36 else 0) 36 (bits w 28 36)) ∧
        (wOp w = 0x27 → t.rd (SEQ.STATUS_EQ c) = b2n (a == b) ∧ t.rd (SEQ.STATUS_LT c) = b2n (decide (a < b))) ∧
        (wOp w ≠ 0x27 → t.rd (SEQ.STATUS_EQ c) = s.rd (SEQ.STATUS_EQ c) ∧ t.rd (SEQ.STATUS_LT c) = s.rd (SEQ.STATUS_LT c)) ∧
        (∀ k, k < 8 → (wOp w < 0x20 ∨ wOp w = 0x27 ∨ k ≠ d) → t.greg c k = s.greg c k) ∧
        (wOp w = 0x0B → t.rd (SEQ.LMODE_LMODE c) = (if bitOf w 8 then bits w 0 4 else s.rd (SEQ.LMODE_LMODE c)) ∧
          t.rd (SEQ.LMODE_ALT c) = (if bitOf w 9 then bits w 4 4 else s.rd (SEQ.LMODE_ALT c))) ∧
        (wOp w = 0x0C → ∀ k, k < 4 → bitOf w (16 * k + 15) = true →
          ⟨(s.run l).sn + 3, bits w (16 * k + 8) 3, s.rd (TIM.TAB_W0_WORD c (bits w (16 * k) 6)),
            s.rd (TIM.TAB_W1_WORD c (bits w (16 * k) 6))⟩ ∈ (t.cell c).loads)

/-- For a lead l (below 256) that issues word f by PC (R69 keeps these words out of the ring), w its bits, each answers t
one stride after s. HALT: every member HALTED, CCAUSE HALTED, HCODE = w[7:0], PC at the HALT. JMP: PC = w[12:0]. JCC:
PC = w[12:0] when the condition, as it stands for this stride (R53), differs from NEG, else PC + 1. CALL with D < 8
entries: entry D of every member holds PC + 1, depth D + 1, PC = w[12:0]. RET with 1 to 8 entries: depth D - 1, PC =
entry D - 1. LOOP OPEN: the next level k of every member is active with COUNT = w[63:32] and TOP = PC + 1. CLOSE of
innermost level k: COUNT - 1 mod 2^32; at 0 the level ends and PC goes on, else PC = TOP. DROP: level k inactive, PC +
1. -/
def Obligations.FlowWords : Prop :=
  ∀ (s : State) (l : Nat) (f : Fetched), s.Issues l f → f.ring = false →
    let w := f.word
    let pc1 := (s.rd (SEQ.PC_PC l) + 1) % 8192
    let d := s.rd (SEQ.RSP_DEPTH l)
    (isCtl w 0x01 = true → ∃ t, exec (.halt l) s = .next t ∧ Strode s t l 1 ∧ t.rd (SEQ.PC_PC l) = s.rd (SEQ.PC_PC l) ∧
      (∀ c ∈ s.members l, t.rd (SEQ.STATUS_STATE c) = 3) ∧ t.rd (SEQ.STATUS_CCAUSE l) = 1 ∧
      t.rd (SEQ.STATUS_HCODE l) = bits w 0 8) ∧
    (isCtl w 0x02 = true → ∃ t, exec (.jmp l) s = .next t ∧ Strode s t l 1 ∧ t.rd (SEQ.PC_PC l) = bits w 0 13) ∧
    (isCtl w 0x03 = true → ∃ t, exec (.jcc l) s = .next t ∧ Strode s t l 1 ∧
      t.rd (SEQ.PC_PC l) = if ((s.holdStrides l 1).condition l (bits w 16 5) (s.run l).sn).1 != bitOf w 21 then bits w 0 13 else pc1) ∧
    (isCtl w 0x04 = true → d < 8 → ∃ t, exec (.call l) s = .next t ∧ Strode s t l 1 ∧ t.rd (SEQ.PC_PC l) = bits w 0 13 ∧
      ∀ c ∈ s.members l, t.rd (SEQ.RS_ADDR c d) = pc1 ∧ t.rd (SEQ.RSP_DEPTH c) = d + 1) ∧
    (isCtl w 0x05 = true → 1 ≤ d → d ≤ 8 → ∃ t, exec (.ret l) s = .next t ∧ Strode s t l 1 ∧
      t.rd (SEQ.PC_PC l) = s.rd (SEQ.RS_ADDR l (d - 1)) ∧ ∀ c ∈ s.members l, t.rd (SEQ.RSP_DEPTH c) = d - 1) ∧
    (isCtl w 0x06 = true → bits w 0 2 = 0 → ∃ t, exec (.loopOpen l) s = .next t ∧ Strode s t l 1 ∧
      t.rd (SEQ.PC_PC l) = pc1 ∧ ∀ c ∈ s.members l, let k := ((s.innermost l).map (· + 1)).getD 0
        t.rd (SEQ.L_ACTIVE c k) = 1 ∧ t.rd (SEQ.L_COUNT c k) = bits w 32 32 ∧ t.rd (SEQ.L_TOP c k) = pc1) ∧
    (isCtl w 0x06 = true → bits w 0 2 = 1 → ∀ k, s.innermost l = some k → ∃ t, exec (.loopClose l) s = .next t ∧
      Strode s t l 1 ∧ let n := (s.rd (SEQ.L_COUNT l k) + 2 ^ 32 - 1) % 2 ^ 32
        (∀ c ∈ s.members l, t.rd (SEQ.L_COUNT c k) = n ∧ (n = 0 → t.rd (SEQ.L_ACTIVE c k) = 0)) ∧
        t.rd (SEQ.PC_PC l) = if n = 0 then pc1 else s.rd (SEQ.L_TOP l k)) ∧
    (isCtl w 0x06 = true → bits w 0 2 = 2 → ∀ k, s.innermost l = some k → ∃ t, exec (.loopDrop l) s = .next t ∧
      Strode s t l 1 ∧ t.rd (SEQ.PC_PC l) = pc1 ∧ ∀ c ∈ s.members l, t.rd (SEQ.L_ACTIVE c k) = 0 ∧
        t.rd (SEQ.L_COUNT c k) = s.rd (SEQ.L_COUNT c k))

/-- For a lead l that issues word f, w its bits, each word answers t and SC of every member counts one stride. EVENT: with
fewer than 8 codes queued w[15:0] is appended, else EVQ_DROP is set; source 4l + 1 pulses after what the stride itself
raised (a STEP that ends with it may raise more). STREAM: every member is STREAMING with STREAM_LEFT = w[39:0], PC
stays. LEDGER TAG sets the tag; ACCT the account and AV; MARK and ALLOC, with no stride unresolved, put a marker
behind each member's queued fail records. BOND: each member's LANES and OFFSET are its own word's and NSTR strides are
left (0 means 65536). TSET_APPLY of a cell of a RUNNING caravan on a running clock leaves no copy that is due; a copy
that alone is due is in its slot. -/
def Obligations.QueueAndMarkWords : Prop :=
  (∀ (s : State) (l : Nat) (f : Fetched), s.Issues l f →
    let w := f.word
    (isCtl w 0x0D = true → ∃ t, exec (.event l) s = .next t ∧ Strode s t l 1 ∧
      ((s.run l).stepping = false → t.pulses = (s.holdStrides l 1).pulses ++ [4 * l + 1]) ∧
      ((s.cell l).evq.length < 8 → (t.cell l).evq = (s.cell l).evq ++ [bits w 0 16]) ∧
      (8 ≤ (s.cell l).evq.length → (t.cell l).evq = (s.cell l).evq ∧ t.rd (SEQ.STATUS_EVQ_DROP l) = 1)) ∧
    (isCtl w 0x0E = true → f.ring = false → ∃ t, exec (.stream l) s = .next t ∧ Strode s t l 1 ∧
      t.rd (SEQ.PC_PC l) = s.rd (SEQ.PC_PC l) ∧ (t.run l).pause = bitOf w 42 ∧
      ∀ c ∈ s.members l, t.rd (SEQ.STREAM_LEFT_WORDS c) = bits w 0 40 ∧
        ((s.run l).stepping = false → t.rd (SEQ.STATUS_STREAMING c) = 1)) ∧
    (isCtl w 0x0F = true → bits w 0 2 = 0 → ∃ t, exec (.ledgerTag l) s = .next t ∧ Strode s t l 1 ∧
      (t.run l).tag = bits w 16 16) ∧
    (isCtl w 0x0F = true → bits w 0 2 = 1 → ∃ t, exec (.ledgerAcct l) s = .next t ∧ Strode s t l 1 ∧
      (t.run l).acct = bits w 16 16 ∧ (t.run l).av = true) ∧
    (isCtl w 0x0F = true → bits w 0 2 = 2 → (s.run l).unresolved = [] → (s.run l).marks = [] →
      ∃ t, exec (.ledgerMark l) s = .next t ∧ Strode s t l 1 ∧ ∀ c ∈ s.members l,
        (t.cell c).failQ = ((s.holdStrides l 1).markCell (s.region (regionOf l)).nextEid c |>.cell c).failQ) ∧
    (isCtl w 0x0F = true → bits w 0 2 = 3 → (s.run l).unresolved = [] → (s.run l).marks = [] →
      ∃ t, exec (.ledgerAlloc l) s = .next t ∧ Strode s t l 1 ∧
        ⟨(s.region (regionOf l)).nextEid, l, s.members l, true, []⟩ ∈ (t.region (regionOf l)).drains) ∧
    (isCtl w 0x10 = true → (s.run l).stepping = false → ∃ t, exec (.bond l) s = .next t ∧ Strode s t l 1 ∧
      (t.run l).bondLeft = (if bits w 20 16 = 0 then 65536 else bits w 20 16) ∧
      ∀ c ∈ s.members l, ∀ g, (s.cell c).word = some g → (t.cell c).bondLanes = bits g.word 0 4 ∧
        (t.cell c).bondOff = bits g.word 4 16)) ∧
  (∀ (s : State) (c : Nat), c < 256 → s.enabled c = true → s.cvState c = stRunning → s.clockRuns (blockOf c) = true →
    ∃ t, exec (.tsetApply c) s = .next t ∧
      (t.cell c).loads = ((s.cell c).loads.filter fun e => decide ((s.run (s.leadOf c)).sn < e.due)) ∧
      ∀ e, ((s.cell c).loads.filter fun e => decide (e.due ≤ (s.run (s.leadOf c)).sn)) = [e] → e.slot < 8 →
        t.rd (TIM.SLOT_W0_WORD c e.slot) = e.w0 % 2 ^ 64 ∧ t.rd (TIM.SLOT_W1_WORD c e.slot) = e.w1 % 2 ^ 64)

/-- For a lead l that issues APG word f, w its bits and b the block of l: exec answers t; the generator of b is the one
that LOAD (the low bits of G[N] into register INDEX, before the step) and then step code w[7:0] give; with a step
other than 0 APG.STEPS counts it; all members' SC counts one stride; no memory changes. APG_WRITE to a window that is
served (State.regOpen: the domain is powered, the life cycle, the sleep state and the stewards' protection let it
through, and it does not wait): to offset 0 with bit 0 written 1 clears WR_IGN alone. To another offset while the
caravan that holds the APG is ARMED or RUNNING it sets WR_IGN alone. To APG.X_BASE (0x200) with no such caravan it
writes VALUE alone. -/
def Obligations.ApgWordAndRegisters : Prop :=
  (∀ (s : State) (l : Nat) (f : Fetched), s.Issues l f → isCtl f.word 0x0A = true →
    let w := f.word
    let b := blockOf l
    ∃ t, exec (.apg l) s = .next t ∧
      t.apg b = ((if bitOf w 8 then s.loadAreg b (bits w 16 6) (s.greg l (bits w 12 3)) else s).apg b).step (bits w 0 8) ∧
      (bits w 0 8 ≠ 0 → t.rd (APG.STEPS_COUNT b) = satAdd (APG.STEPS_COUNT b).width (s.rd (APG.STEPS_COUNT b)) 1) ∧
      (∀ c ∈ s.members l, t.rd (SEQ.SC_SC c) = (s.rd (SEQ.SC_SC l) + 1) % 2 ^ 48) ∧ t.mem = s.mem) ∧
  (∀ (s : State) (b mask v : Nat), s.regOpen 0 (blockBase b + 0x10000) = true → bitOf (Nat.land v mask) 0 = true →
    exec (.apgWrite b 0 mask v) s = .next (s.wr (APG.STATUS_WR_IGN b) 0)) ∧
  (∀ (s : State) (b off mask v : Nat), s.regOpen 0 (blockBase b + 0x10000 + off) = true → off ≠ 0 → (s.apgHolder b).any s.busy = true →
    exec (.apgWrite b off mask v) s = .next (s.wr (APG.STATUS_WR_IGN b) 1)) ∧
  (∀ (s : State) (b mask v : Nat), s.regOpen 0 (blockBase b + 0x10200) = true → (s.apgHolder b).any s.busy = false →
    exec (.apgWrite b 0x200 mask v) s = .next (s.wr (APG.X_BASE_VALUE b) (s.merged (APG.X_BASE_VALUE b) mask v)))

/-- For a lead l that issues SYS word f, w its bits. BRK with FRZ_BRK = 0: every member HALTED, CCAUSE BREAK, HCODE =
w[7:0], PC + 1. CVC VOID in a run not void yet: VOID = 1, FIRST PROGRAM (1), REASON = w[15:8], COUNT + 1, STATUS.VOID
of every member. CVC FLAG: flag output k takes w[16 + k] where w[18 + k] is 1, for k 0 and 1. TLOAD of N + 1 entries
with no stride limit and no stored error in any member's sources: SC counts 1 + the longest copy; entry I + j of
member c holds words 2j and 2j + 1 of its even source address. STRM PRIME of a member c with words in descriptor d: it
is ACTIVE and the DMA runs on it. STRM FLUSH: the ring of c is empty, its DMA inactive, all its descriptors disarmed.
All but BRK answer the next PC. -/
def Obligations.ServiceWords : Prop :=
  ∀ (s : State) (l : Nat) (f : Fetched), s.Issues l f → (s.run l).stepping = false →
    let w := f.word
    let pc1 := (s.rd (SEQ.PC_PC l) + 1) % 8192
    (isSys w 0x00 = true → s.flag (SEQ.CFG_FRZ_BRK l) = false → ∃ t, exec (.brk l) s = .next t ∧ Strode s t l 1 ∧
      (∀ c ∈ s.members l, t.rd (SEQ.STATUS_STATE c) = 3) ∧ t.rd (SEQ.STATUS_CCAUSE l) = 2 ∧
      t.rd (SEQ.STATUS_HCODE l) = bits w 0 8 ∧ t.rd (SEQ.PC_PC l) = pc1) ∧
    (isSys w 0x03 = true → bits w 0 2 = 0 → s.flag (SEQ.VOID_VOID l) = false → ∃ t, exec (.cvcVoid l) s = .next t ∧
      Strode s t l 1 ∧ t.rd (SEQ.PC_PC l) = pc1 ∧ t.rd (SEQ.VOID_VOID l) = 1 ∧ t.rd (SEQ.VOID_FIRST l) = 1 ∧
      t.rd (SEQ.VOID_REASON l) = bits w 8 8 ∧
      t.rd (SEQ.VOID_COUNT l) = satAdd (SEQ.VOID_COUNT l).width (s.rd (SEQ.VOID_COUNT l)) 1 ∧
      ∀ c ∈ s.members l, t.rd (SEQ.STATUS_VOID c) = 1) ∧
    (isSys w 0x03 = true → bits w 0 2 = 1 → ∃ t, exec (.cvcFlag l) s = .next t ∧ Strode s t l 1 ∧
      t.rd (SEQ.PC_PC l) = pc1 ∧
      ∀ k, k < 2 → bitOf (t.run l).flags k = if bitOf w (18 + k) then bitOf w (16 + k) else bitOf (s.run l).flags k) ∧
    (isSys w 0x01 = true → s.flag (SEQ.SC_LIMIT_EN l) = false → (∀ c ∈ s.members l, s.tloadBad c = none) →
      ∃ t, exec (.tload l) s = .next t ∧ Strode s t l (1 + ((s.members l).map s.tloadN).foldl max 0) ∧
      t.rd (SEQ.PC_PC l) = pc1 ∧ ∀ c ∈ s.members l, ∀ g, (s.cell c).word = some g → isSys g.word 0x01 = true →
        ∀ j, j ≤ bits g.word 24 3 →
          t.rd (TIM.TAB_W0_WORD c (bits g.word 16 6 + j)) =
            s.readWord (padBase c + 16 * ((bits g.word 0 13 / 2 * 2 + 2 * j) % 8192)) % 2 ^ 64 ∧
          t.rd (TIM.TAB_W1_WORD c (bits g.word 16 6 + j)) =
            s.readWord (padBase c + 16 * ((bits g.word 0 13 / 2 * 2 + 2 * j + 1) % 8192)) % 2 ^ 64) ∧
    (isSys w 0x02 = true → bits w 0 2 = 0 → ∃ t, exec (.strmPrime l) s = .next t ∧ Strode s t l 1 ∧
      t.rd (SEQ.PC_PC l) = pc1 ∧ ∀ c ∈ s.members l, ∀ g, (s.cell c).word = some g → isSys g.word 0x02 = true →
        bits g.word 0 2 = 0 → s.descLeft c (bits g.word 4 2) ≠ 0 →
          t.rd (SEQ.SD_CTRL_ACTIVE c (bits g.word 4 2)) = 1 ∧ t.rd (SEQ.RING_STATUS_DMA_ACTIVE c) = 1 ∧
          t.rd (SEQ.RING_STATUS_DMA_DESC c) = bits g.word 4 2) ∧
    (isSys w 0x02 = true → bits w 0 2 = 1 → ∃ t, exec (.strmFlush l) s = .next t ∧ Strode s t l 1 ∧
      t.rd (SEQ.PC_PC l) = pc1 ∧ ∀ c ∈ s.members l, ∀ g, (s.cell c).word = some g → isSys g.word 0x02 = true →
        bits g.word 0 2 = 1 → t.rd (SEQ.RING_STATUS_LEVEL c) = 0 ∧ t.rd (SEQ.RING_STATUS_DMA_ACTIVE c) = 0 ∧
          ∀ n, n < 4 → t.rd (SEQ.SD_CTRL_ARMED c n) = 0)

/-- For a lead l that issues vector word f of the command's class with no causes: exec answers t. SC of every member
counts one, a stride with number SN, SC as before it and the members in order awaits its comparators, the words are
gone; without LE the PC is PC + 1 (word by PC), with LE it is what closing the innermost loop gives (R45). For every
member c with vector word w: MF exchanges LMODE and ALT; a lane that takes no part (R142) keeps its drive state; with
no bonded stride left, a live lane in D mode of a VEC ends with the drive state that the payload's last code other
than 2 gives, the retained one where all are 2. In a MATCH that may issue template k + 1, the words on hand that raise
no cause give one more unresolved stride with index k + 1. -/
def Obligations.VectorStrides : Prop :=
  (∀ (s : State) (l up : Nat) (pins : List (Nat × Int)) (f : Fetched) (i : Instr) (cls : Nat), s.Issues l f →
    (i, cls) ∈ [(Instr.vec l (up, pins), 0), (.vex l (up, pins), 1)] → wClass f.word = cls →
    ∃ t, exec i s = .next t ∧ (∀ c ∈ s.members l, t.rd (SEQ.SC_SC c) = (s.rd (SEQ.SC_SC l) + 1) % 2 ^ 48) ∧
      (∃ v : Stride, (t.run l).unresolved = (s.run l).unresolved ++ [v] ∧ v.sn = (s.run l).sn ∧ v.tmpl = 0 ∧
        v.sc = s.rd (SEQ.SC_SC l) ∧ v.cells.map (·.cell) = s.members l) ∧
      (t.cell l).word = none ∧ (f.ring = false → wLe f.word = false → t.rd (SEQ.PC_PC l) = (s.rd (SEQ.PC_PC l) + 1) % 8192) ∧
      (f.ring = false → wLe f.word = true → ∀ k, s.innermost l = some k → t.rd (SEQ.PC_PC l) =
        if (s.rd (SEQ.L_COUNT l k) + 2 ^ 32 - 1) % 2 ^ 32 = 0 then (s.rd (SEQ.PC_PC l) + 1) % 8192 else s.rd (SEQ.L_TOP l k)) ∧
      t.mem = s.mem ∧
      ∀ c ∈ s.members l, ∀ g, (s.cell c).word = some g →
        t.rd (SEQ.LMODE_LMODE c) = (if wMf g.word then s.rd (SEQ.LMODE_ALT c) else s.rd (SEQ.LMODE_LMODE c)) ∧
        t.rd (SEQ.LMODE_ALT c) = (if wMf g.word then s.rd (SEQ.LMODE_LMODE c) else s.rd (SEQ.LMODE_ALT c)) ∧
        ∀ n, n < 4 →
          (s.laneLive c n = false → bits (t.cell c).drive (2 * n) 2 = bits (s.cell c).drive (2 * n) 2) ∧
          (s.laneLive c n = true → bitOf (t.rd (SEQ.LMODE_LMODE c)) n = false → wClass g.word = 0 → (s.run l).bondLeft = 0 →
            bits (t.cell c).drive (2 * n) 2 =
              (resolveDrive (bits g.word 0 64) n (List.range (s.nui c)) (bits (s.cell c).drive (2 * n) 2)).2)) ∧
  (∀ (s : State) (l up n k p : Nat) (a : Bool) (pins : List (Nat × Int)) (f : Fetched) (i : Instr) (cls : Nat), l < 256 → s.canStride l = true →
    (s.cell l).word = some f → s.wordCauses l = [] → s.atScLimit l = false → (s.run l).phase = .matching n k a p →
    k < (if p = 0 then n else min n (p + s.latency l)) → (i, cls) ∈ [(Instr.vec l (up, pins), 0), (.vex l (up, pins), 1)] →
    wClass f.word = cls →
    ∃ t, exec i s = .next t ∧ (t.run l).phase = .matching n (k + 1) a p ∧
      ∃ v : Stride, (t.run l).unresolved = (s.run l).unresolved ++ [v] ∧ v.tmpl = k + 1)

/-- Outside freeze, with v the oldest unresolved stride of lead l, its members' cells distinct, and observations obs, each
as the levels of the pins let it be (R147, State.compared). When v is no template: v leaves the list; FAIL of each
member says whether it has a fail bit; a member with one has FAILS = 1 and FAIL_COUNT one more (saturating), the
others keep both; the newest outcome carries v's number with FAIL_ANY (some member fails), FAIL_ALL (some member
compares and all that do fail), MATCH_ALL (none fails) and MATCH_ANY (an unmasked compare passed in some member). When
v is a template: v leaves the list, and FAILS, FAIL_COUNT and the outcomes stay (R60). No unresolved stride: nothing
changes. -/
def Obligations.StrideResults : Prop :=
  (∀ (s : State) (l : Nat) (obs : List (Nat × Nat)) (dual : List Nat) (v : Stride) (rest : List Stride),
    s.frozen = false → (s.run l).unresolved = v :: rest → v.tmpl = 0 → (v.cells.map (·.cell)).Nodup →
    (∀ m ∈ v.cells, m.cell < 256) →
    ∃ t, exec (.resolve l obs dual) s = .next t ∧ (t.run l).unresolved = rest ∧ t.mem = s.mem ∧
      (∀ m ∈ v.cells, (t.cell m.cell).fail = (failBits m.expect m.windows (s.compared m.cell (look obs m.cell)) != 0) ∧
        (failBits m.expect m.windows (s.compared m.cell (look obs m.cell)) ≠ 0 → t.rd (SEQ.STATUS_FAILS m.cell) = 1 ∧ t.rd (SEQ.FAIL_COUNT_COUNT m.cell) =
          satAdd (SEQ.FAIL_COUNT_COUNT m.cell).width (s.rd (SEQ.FAIL_COUNT_COUNT m.cell)) 1) ∧
        (failBits m.expect m.windows (s.compared m.cell (look obs m.cell)) = 0 → t.rd (SEQ.STATUS_FAILS m.cell) = s.rd (SEQ.STATUS_FAILS m.cell) ∧
          t.rd (SEQ.FAIL_COUNT_COUNT m.cell) = s.rd (SEQ.FAIL_COUNT_COUNT m.cell))) ∧
      ∃ o, (t.run l).hist.head? = some o ∧ o.sn = v.sn ∧
        o.failAny = (v.cells.any fun m => failBits m.expect m.windows (s.compared m.cell (look obs m.cell)) != 0) ∧
        o.matchAll = !o.failAny ∧
        o.failAll = ((v.cells.any fun m => hasCompare m.expect) &&
          v.cells.all fun m => !hasCompare m.expect || failBits m.expect m.windows (s.compared m.cell (look obs m.cell)) != 0) ∧
        o.matchAny = (v.cells.any fun m => anyPass m.expect m.windows (s.compared m.cell (look obs m.cell)))) ∧
  (∀ (s : State) (l : Nat) (obs : List (Nat × Nat)) (dual : List Nat) (v : Stride) (rest : List Stride),
    s.frozen = false → (s.run l).unresolved = v :: rest → 1 ≤ v.tmpl → (∀ m ∈ v.cells, m.cell < 256) →
    ∃ t, exec (.resolve l obs dual) s = .next t ∧ (t.run l).unresolved = rest ∧ (t.run l).hist = (s.run l).hist ∧
      ∀ c, c < 256 → t.rd (SEQ.STATUS_FAILS c) = s.rd (SEQ.STATUS_FAILS c) ∧
        t.rd (SEQ.FAIL_COUNT_COUNT c) = s.rd (SEQ.FAIL_COUNT_COUNT c)) ∧
  (∀ (s : State) (l : Nat) (obs : List (Nat × Nat)) (dual : List Nat), (s.run l).unresolved = [] →
    exec (.resolve l obs dual) s = .next s)

/-- For a lead l below 256. FETCH by PC with nothing arising at the reads (no stored error, both breakpoints off): every
member holds its own scratchpad word at the fetch address, with the privilege of that address (R40); no memory and no
register but CEL.COLLIDE of the members differs. FETCH in a run whose lead's word is uncorrectable: every member
HALTED, CCAUSE FETCH_ECC, the run void, PC kept. FETCH of a streaming caravan with a dry member: HALTED, CCAUSE
STREAM_DRY unless the stride limit comes with it. UNDERRUN_HOLD off the stride limit: SC and UNDERRUN of every member
count one, and without PAUSE one of a run not void yet voids it with cause UNDERRUN. SC_LIMIT with a word on hand that
raises no cause: HALTED, CCAUSE SC_LIMIT, the limit's enable cleared, PC and SC kept. -/
def Obligations.FetchesAndLimits : Prop :=
  (∀ (s : State) (l : Nat), l < 256 → s.canFetch l = true → s.streaming l = false →
    (∀ c ∈ s.members l, s.eccOf (padBase c + 16 * s.fetchAddr l c) 0 = 0) →
    s.flag (SEQ.BKPT_EN l 0) = false → s.flag (SEQ.BKPT_EN l 1) = false →
    ∃ t, exec (.fetch l []) s = .next t ∧
      (∀ c ∈ s.members l, (t.cell c).word = some ⟨s.readWord (padBase c + 16 * s.fetchAddr l c), s.fetchAddr l c, false,
        (s.privAt c (s.fetchAddr l c)).1, (s.privAt c (s.fetchAddr l c)).2⟩) ∧ t.mem = s.mem ∧ t.runs = s.runs ∧
      ∀ f : Fld, (∀ c ∈ s.members l, f.key ≠ (CEL.COLLIDE_A_BUSY c).key) → t.rd f = s.rd f) ∧
  (∀ (s : State) (l : Nat) (ups : List (Nat × Nat)), l < 256 → s.canFetch l = true → s.streaming l = false →
    2 ≤ s.eccOf (padBase l + 16 * s.fetchAddr l l) (look ups l % 4) →
    ∃ t, exec (.fetch l ups) s = .next t ∧ (∀ c ∈ s.members l, t.rd (SEQ.STATUS_STATE c) = 3) ∧
      t.rd (SEQ.STATUS_CCAUSE l) = 0x0E ∧ t.rd (SEQ.VOID_VOID l) = 1 ∧ t.rd (SEQ.PC_PC l) = s.rd (SEQ.PC_PC l) ∧
      t.mem = s.mem) ∧
  (∀ (s : State) (l : Nat) (ups : List (Nat × Nat)), l < 256 → s.canFetch l = true → (s.run l).phase = .ready →
    s.streaming l = true → s.dryMembers l ≠ [] → s.atScLimit l = false →
    ∃ t, exec (.fetch l ups) s = .next t ∧ (∀ c ∈ s.members l, t.rd (SEQ.STATUS_STATE c) = 3) ∧
      t.rd (SEQ.STATUS_CCAUSE l) = 0x0D ∧ t.rd (SEQ.PC_PC l) = s.rd (SEQ.PC_PC l) ∧ t.mem = s.mem) ∧
  (∀ (s : State) (l : Nat), l < 256 → s.canStride l = true → (s.cell l).word = none → s.dryMembers l = [] →
    s.underrunNow l = true → s.atScLimit l = false →
    ∃ t, exec (.underrunHold l) s = .next t ∧ Strode s t l 1 ∧ (t.run l).inUnder = true ∧
      (∀ c ∈ s.members l, t.rd (SEQ.UNDERRUN_STRIDES c) =
        satAdd (SEQ.UNDERRUN_STRIDES c).width (s.rd (SEQ.UNDERRUN_STRIDES c)) 1) ∧
      ((s.run l).pause = false → s.flag (SEQ.VOID_VOID l) = false →
        t.rd (SEQ.VOID_VOID l) = 1 ∧ t.rd (SEQ.VOID_FIRST l) = 2)) ∧
  (∀ (s : State) (l : Nat), l < 256 → s.isLead l = true → s.cvState l = stRunning → s.clockRuns (blockOf l) = true →
    s.atScLimit l = true → (s.cell l).word.isSome = true → s.wordCauses l = [] →
    ∃ t, exec (.scLimit l) s = .next t ∧ (∀ c ∈ s.members l, t.rd (SEQ.STATUS_STATE c) = 3) ∧
      t.rd (SEQ.STATUS_CCAUSE l) = 0x0B ∧ t.rd (SEQ.SC_LIMIT_EN l) = 0 ∧ t.rd (SEQ.PC_PC l) = s.rd (SEQ.PC_PC l) ∧
      t.rd (SEQ.SC_SC l) = s.rd (SEQ.SC_SC l) ∧ t.mem = s.mem)

/-- For a lead l below 256 without a stride limit. WAIT_TIME of n strides on an issued WAIT TIME word of COUNT k (0 means
2^32), 1 <= n <= k: SC counts n strides and k - n are left. WAIT_TIME of n more in a WAIT with `left` strides left, n
<= left: SC counts n, left - n are left. WAIT_COND on an issued conditional WAIT on EVT: with EVT = 1 the WAIT ends
after its own stride with EVT cleared, MATCH = 1, MTO = 0; with EVT = 0 and n = 1 it goes on with k - 1 strides left.
WAIT_COUNT_EXPIRY: a timed WAIT passes its `left` strides and ends at the next word; a conditional one on EVT, with
EVT = 0, ends with MATCH = 0 and MTO = 1 after its `left` strides. -/
def Obligations.WaitWords : Prop :=
  (∀ (s : State) (l n : Nat) (f : Fetched), s.Issues l f → isCtl f.word 0x08 = true → bits f.word 32 4 = 0 →
    s.flag (SEQ.SC_LIMIT_EN l) = false → 1 ≤ n → n ≤ count32 (bits f.word 0 32) →
    ∃ t, exec (.waitTime l n) s = .next t ∧ Strode s t l n ∧ (t.run l).phase = .waitTime (count32 (bits f.word 0 32) - n)) ∧
  (∀ (s : State) (l n left : Nat), l < 256 → s.canStride l = true → s.flag (SEQ.SC_LIMIT_EN l) = false →
    (s.run l).phase = .waitTime left → n ≤ left →
    ∃ t, exec (.waitTime l n) s = .next t ∧ Strode s t l n ∧ (t.run l).phase = .waitTime (left - n)) ∧
  (∀ (s : State) (l n : Nat) (f : Fetched), s.Issues l f → isCtl f.word 0x08 = true → bits f.word 32 4 = 5 →
    s.flag (SEQ.SC_LIMIT_EN l) = false → s.flag (SEQ.STATUS_EVT l) = true →
    ∃ t, exec (.waitCond l n) s = .next t ∧ Strode s t l 1 ∧ (t.run l).phase = .ready ∧ t.rd (SEQ.STATUS_EVT l) = 0 ∧
      t.rd (SEQ.STATUS_MATCH l) = 1 ∧ t.rd (SEQ.STATUS_MTO l) = 0) ∧
  (∀ (s : State) (l : Nat) (f : Fetched), s.Issues l f → isCtl f.word 0x08 = true → bits f.word 32 4 = 5 →
    s.flag (SEQ.SC_LIMIT_EN l) = false → s.flag (SEQ.STATUS_EVT l) = false →
    ∃ t, exec (.waitCond l 1) s = .next t ∧ Strode s t l 1 ∧
      (t.run l).phase = .waitCond (count32 (bits f.word 0 32) - 1) 5) ∧
  (∀ (s : State) (l left : Nat), l < 256 → s.canStride l = true → s.flag (SEQ.SC_LIMIT_EN l) = false →
    (s.cell l).word.any (·.ring) = false → (s.run l).phase = .waitTime left →
    ∃ t, exec (.waitCountExpiry l) s = .next t ∧ Strode s t l left ∧ (t.run l).phase = .ready ∧
      t.rd (SEQ.PC_PC l) = (s.rd (SEQ.PC_PC l) + 1) % 8192) ∧
  (∀ (s : State) (l left : Nat), l < 256 → s.canStride l = true → s.flag (SEQ.SC_LIMIT_EN l) = false →
    (s.cell l).word.any (·.ring) = false → (s.run l).phase = .waitCond left 5 → s.flag (SEQ.STATUS_EVT l) = false →
    ∃ t, exec (.waitCountExpiry l) s = .next t ∧ Strode s t l left ∧ (t.run l).phase = .ready ∧
      t.rd (SEQ.STATUS_MATCH l) = 0 ∧ t.rd (SEQ.STATUS_MTO l) = 1 ∧
      t.rd (SEQ.PC_PC l) = (s.rd (SEQ.PC_PC l) + 1) % 8192)

/-- For a lead l below 256. MATCH on an issued MATCH word: one stride passes; COUNT templates (0 means 2^32), policy ANY
and no success yet; every member's word is given up, so the template is fetched next. MATCH_COUNT_EXPIRY with COUNT
templates issued and no success known within the limit: the drain begins and nothing else changes. MATCH_DRAIN_END,
the drain's templates resolved and no stride limit: the latency's strides pass and MATCH ends with MATCH, MTO as the
drain found (success p at or before COUNT: 1, 0; none: 0, 1), the word gone and, for words fetched by PC, PC + 2.
After a success p whose latency's further templates have all been issued it ends at once with MATCH = 1. -/
def Obligations.MatchWords : Prop :=
  (∀ (s : State) (l : Nat) (f : Fetched), s.Issues l f → isCtl f.word 0x07 = true →
    ∃ t, exec (.matchWord l) s = .next t ∧ Strode s t l 1 ∧
      (t.run l).phase = .matching (count32 (bits f.word 0 32)) 0 (bitOf f.word 32) 0 ∧
      ∀ c ∈ s.members l, (t.cell c).word = none) ∧
  (∀ (s : State) (l n k p : Nat) (a : Bool), s.canStride l = true → (s.run l).phase = .matching n k a p → n ≤ k →
    p = 0 ∨ n < p + s.latency l →
    exec (.matchCountExpiry l) s = .next (s.modRun l fun x => { x with phase := .draining a p })) ∧
  (∀ (s : State) (l p : Nat) (a : Bool), l < 256 → s.canStride l = true → (s.run l).phase = .draining a p →
    (s.run l).unresolved = [] → s.flag (SEQ.SC_LIMIT_EN l) = false → (s.cell l).word.any (·.ring) = false →
    ∃ t, exec (.matchDrainEnd l) s = .next t ∧ Strode s t l (s.latency l) ∧ (t.run l).phase = .ready ∧
      t.rd (SEQ.STATUS_MATCH l) = b2n (p != 0) ∧ t.rd (SEQ.STATUS_MTO l) = b2n (p == 0) ∧
      t.rd (SEQ.PC_PC l) = (s.rd (SEQ.PC_PC l) + 2) % 8192) ∧
  (∀ (s : State) (l n k p : Nat) (a : Bool), l < 256 → s.canStride l = true → (s.run l).phase = .matching n k a p →
    1 ≤ p → p + s.latency l ≤ n → k = p + s.latency l → (s.cell l).word.any (·.ring) = false →
    ∃ t, exec (.matchDrainEnd l) s = .next t ∧ (t.run l).phase = .ready ∧ t.rd (SEQ.STATUS_MATCH l) = 1 ∧
      t.rd (SEQ.STATUS_MTO l) = 0 ∧ t.rd (SEQ.PC_PC l) = (s.rd (SEQ.PC_PC l) + 2) % 8192 ∧ t.mem = s.mem)

/-- For a lead l below 256 without a stride limit, r its region. SYNC of one stride on an issued word of group g without
SWITCH and SWAP: SC counts one, the caravan waits at g and bit l mod 64 of RGN.SGARR is 1. SYNC of n more strides at a
barrier it has arrived at: SC counts n and nothing else of its wait changes. SYNC of n strides after a release without
SWAP, with `left` strides left of the 2 + E (R112, R115): for n below left, n pass; for n at or above it, left pass
and the caravan goes on at the next PC. SYNC_RELEASE of a group that is not complete, with no caravan released while
its clock stood and no Convoy arrival to signal, changes nothing. SYNC_RELEASE of a complete group without CONVOY in
which l, on a running clock, is the only arrival and every region's arrival list is empty: the group's bits clear and
l is released: its next PC is the word after its SYNC, with SWITCH NEXT_PC, which is then disarmed, and 2 + E hold
strides are left before it executes. SGRP_WRITE to a register that is served (State.regOpen) that would drop a caravan
waiting at the group sets WR_IGN alone; one that leaves the group incomplete, with CVY_FLAG_N released, writes MASK
alone. -/
def Obligations.Barriers : Prop :=
  (∀ (s : State) (l : Nat) (f : Fetched), s.Issues l f → isCtl f.word 0x09 = true → s.flag (SEQ.SC_LIMIT_EN l) = false →
    bitOf f.word 9 = false → bitOf f.word 10 = false → (s.run l).stepping = false →
    ∃ t, exec (.sync l 1) s = .next t ∧ (t.run l).phase = .atSync (bits f.word 0 8) (bitOf f.word 8) false false true ∧
      bitOf (t.rd (RGN.SGARR_ARRIVED (regionOf l) (bits f.word 0 8))) (l % 64) = true ∧
      (∀ c ∈ s.members l, t.rd (SEQ.SC_SC c) = (s.rd (SEQ.SC_SC l) + 1) % 2 ^ 48) ∧ t.mem = s.mem) ∧
  (∀ (s : State) (l n g : Nat) (cv sw sp : Bool), l < 256 → s.canStride l = true → s.flag (SEQ.SC_LIMIT_EN l) = false →
    (s.run l).phase = .atSync g cv sw sp true →
    ∃ t, exec (.sync l n) s = .next t ∧ Strode s t l n ∧ (t.run l).phase = .atSync g cv sw sp true) ∧
  (∀ (s : State) (l n next left : Nat), l < 256 → s.canStride l = true → s.flag (SEQ.SC_LIMIT_EN l) = false →
    (s.run l).phase = .released next left false → (s.cell l).word.any (·.ring) = false →
    ∃ t, exec (.sync l n) s = .next t ∧ Strode s t l (min n left) ∧
      (n < left → (t.run l).phase = .released next (left - n) false ∧ t.rd (SEQ.PC_PC l) = s.rd (SEQ.PC_PC l)) ∧
      (left ≤ n → (t.run l).phase = .ready ∧ t.rd (SEQ.PC_PC l) = next % 8192)) ∧
  (∀ (s : State) (n : Nat), s.groupComplete n = false → s.flag CVY.STATUS_FLAG_OUT = false →
    (s.allLeads.filter fun l => s.releasePending l && s.clockRuns (blockOf l)) = [] →
    exec (.syncRelease n) s = .next s) ∧
  (∀ (s : State) (l g : Nat) (sw : Bool), l < 256 → g < 256 → s.isLead l = true → s.clockRuns (blockOf l) = true →
    s.groupComplete g = true → (∀ r, r < 4 → (s.region r).cvArrived = []) → s.arrivedAt g = [l] →
    (s.run l).phase = .atSync g false sw false true → s.atScLimit l = false →
    (s.allLeads.filter fun k => s.releasePending k && s.clockRuns (blockOf k)) = [] →
    ∃ t, exec (.syncRelease g) s = .next t ∧ (∀ r, r < 4 → t.rd (RGN.SGARR_ARRIVED r g) = 0) ∧
      (t.run l).phase = .released (if sw then s.rd (SEQ.NEXT_PC_ADDR l) else (s.rd (SEQ.PC_PC l) + 1) % 8192)
        (2 + s.equalise l) false ∧ t.rd (SEQ.PC_PC l) = s.rd (SEQ.PC_PC l) ∧
      (sw = true → t.rd (SEQ.NEXT_PC_ARMED l) = 0) ∧ t.mem = s.mem) ∧
  (∀ (s : State) (r n mask v : Nat), s.regOpen 0 (RGN.SGRP_MASK r n).addr = true →
    ((List.range 64).any fun i => bitOf (s.rd (RGN.SGRP_MASK r n)) i &&
      !bitOf (s.merged (RGN.SGRP_MASK r n) mask v) i && s.waitsAt (64 * r + i) n) = true →
    exec (.sgrpWrite r n mask v) s = .next (s.wr (RGN.CV_STATUS_WR_IGN r) 1)) ∧
  (∀ (s : State) (r n mask v : Nat), s.regOpen 0 (RGN.SGRP_MASK r n).addr = true →
    ((List.range 64).any fun i => bitOf (s.rd (RGN.SGRP_MASK r n)) i &&
      !bitOf (s.merged (RGN.SGRP_MASK r n) mask v) i && s.waitsAt (64 * r + i) n) = false →
    (s.wr (RGN.SGRP_MASK r n) (s.merged (RGN.SGRP_MASK r n) mask v)).groupComplete n = false →
    (s.wr (RGN.SGRP_MASK r n) (s.merged (RGN.SGRP_MASK r n) mask v)).flag CVY.STATUS_FLAG_OUT = false →
    exec (.sgrpWrite r n mask v) s = .next (s.wr (RGN.SGRP_MASK r n) (s.merged (RGN.SGRP_MASK r n) mask v)))

/-- For cell c below 256 whose command register is served (State.regOpen: powered domain, life cycle, sleep state,
protection), with no command pending and a clock that is not merely paused (R97), each command completes in CMD_STATUS
with its OP. START where no condition of R98 refuses it (MayStart, StartArgs): every member's SC, FAILS, FAIL_COUNT
and void state are 0, its event queue is empty, its STATE is RUNNING, or ARMED with CONVOY; PC is START_PC, and the
run's site the lead's SITE. STOP of an ARMED or RUNNING lead: every member HALTED, PC kept; CCAUSE is STOPPED, or of a
RUNNING caravan the highest of STOPPED and the causes of a halt due at the same boundary (R101). RESUME of a HALTED
lead that R91 and R98 let resume (MayResume): every member RUNNING, PC kept; STEP, with PC in no execute-only window,
the same with the run stepping. ABORT of a lead that is not IDLE: ABORTED, and every lane of every member is in the
safe state or enters it. No memory changes. START refused by an ILLEGAL_STATE condition gives status 3, by a BAD_ARG
condition alone 2, RESUME refused 3; LAST_REJECT then holds the OP and the status, and no cell's STATE, PC or SC
differs. -/
def Obligations.SequencerCommands : Prop :=
  (∀ (s : State) (c : Nat) (convoy : Bool), c < 256 → s.regOpen 0 (SEQ.CMD_OP c).addr = true →
    s.flag (SEQ.CMD_STATUS_PEND c) = false → s.clockPaused (blockOf c) = false → s.MayStart c → s.StartArgs c →
    ∃ t, exec (.start c convoy) s = .next t ∧ t.rd (SEQ.CMD_STATUS_STATUS c) = 0 ∧
      t.rd (SEQ.CMD_STATUS_OP c) = 1 ∧ t.rd (SEQ.PC_PC c) = s.rd (SEQ.START_PC_ADDR c) ∧
      (t.run c).site = some (s.rd (CEL.CARAVAN_SITE c)) ∧ ((s.run c).unresolved = [] → t.mem = s.mem) ∧
      ∀ m ∈ s.members c, t.rd (SEQ.STATUS_STATE m) = (if convoy then 1 else 2) ∧ t.rd (SEQ.SC_SC m) = 0 ∧
        t.rd (SEQ.STATUS_FAILS m) = 0 ∧ t.rd (SEQ.FAIL_COUNT_COUNT m) = 0 ∧ t.rd (SEQ.STATUS_VOID m) = 0 ∧
        (t.cell m).evq = []) ∧
  (∀ (s : State) (c : Nat), c < 256 → s.regOpen 0 (SEQ.CMD_OP c).addr = true → s.flag (SEQ.CMD_STATUS_PEND c) = false →
    s.clockPaused (blockOf c) = false → s.isLead c = true → s.cvState c = stArmed ∨ s.cvState c = stRunning →
    ∃ t, exec (.stop c) s = .next t ∧
      t.rd (SEQ.CMD_STATUS_STATUS c) = 0 ∧ t.rd (SEQ.CMD_STATUS_OP c) = 2 ∧
      (s.cvState c = stArmed ∨ ((s.seqTouch c).boundaryCauses c).2 = [] → t.rd (SEQ.STATUS_CCAUSE c) = 9) ∧
      (s.cvState c = stRunning → t.rd (SEQ.STATUS_CCAUSE c) = topCause ((c, 9) :: ((s.seqTouch c).boundaryCauses c).2) % 2 ^ 8) ∧
      t.rd (SEQ.PC_PC c) = s.rd (SEQ.PC_PC c) ∧ t.mem = s.mem ∧ ∀ m ∈ s.members c, t.rd (SEQ.STATUS_STATE m) = 3) ∧
  (∀ (s : State) (c : Nat), c < 256 → s.regOpen 0 (SEQ.CMD_OP c).addr = true → s.flag (SEQ.CMD_STATUS_PEND c) = false →
    s.clockPaused (blockOf c) = false → s.MayResume c →
    ∃ t, exec (.resume c) s = .next t ∧ t.rd (SEQ.CMD_STATUS_STATUS c) = 0 ∧
      t.rd (SEQ.CMD_STATUS_OP c) = 3 ∧ t.rd (SEQ.PC_PC c) = s.rd (SEQ.PC_PC c) ∧ (t.run c).stepping = false ∧
      (t.run c).intervened = true ∧ t.mem = s.mem ∧ ∀ m ∈ s.members c, t.rd (SEQ.STATUS_STATE m) = 2) ∧
  (∀ (s : State) (c : Nat), c < 256 → s.regOpen 0 (SEQ.CMD_OP c).addr = true → s.flag (SEQ.CMD_STATUS_PEND c) = false →
    s.clockPaused (blockOf c) = false → s.MayResume c → s.xowOf c (s.rd (SEQ.PC_PC c)) = none →
    ∃ t, exec (.step c) s = .next t ∧
      t.rd (SEQ.CMD_STATUS_STATUS c) = 0 ∧ t.rd (SEQ.CMD_STATUS_OP c) = 4 ∧ t.rd (SEQ.PC_PC c) = s.rd (SEQ.PC_PC c) ∧
      (t.run c).stepping = true ∧ t.mem = s.mem ∧ ∀ m ∈ s.members c, t.rd (SEQ.STATUS_STATE m) = 2) ∧
  (∀ (s : State) (c : Nat), c < 256 → s.regOpen 0 (SEQ.CMD_OP c).addr = true → s.flag (SEQ.CMD_STATUS_PEND c) = false →
    s.clockPaused (blockOf c) = false → s.isLead c = true → s.cvState c ≠ stIdle →
    ∃ t, exec (.abort c) s = .next t ∧ t.rd (SEQ.CMD_STATUS_STATUS c) = 0 ∧
      t.rd (SEQ.CMD_STATUS_OP c) = 5 ∧ t.rd (SEQ.STATUS_ABORTED c) = 1 ∧ t.mem = s.mem ∧
      ∀ m ∈ s.members c, ∀ n, n < 4 → t.rd (PIN.STATE_SAFE m n) = 1 ∨ bitOf (t.cell m).entering n = true) ∧
  (∀ (s : State) (c : Nat), c < 256 → s.regOpen 0 (SEQ.CMD_OP c).addr = true → s.flag (SEQ.CMD_STATUS_PEND c) = false →
    s.clockPaused (blockOf c) = false → ∀ (i : Instr) (op k : Nat),
    ((∃ v, i = .start c v) ∧ op = 1 ∧ ((¬ s.MayStart c ∧ k = 3) ∨ (s.MayStart c ∧ ¬ s.StartArgs c ∧ k = 2)) ∨
      i = .resume c ∧ op = 3 ∧ ¬ s.MayResume c ∧ k = 3) →
    ∃ t, exec i s = .next t ∧
      t.rd (SEQ.CMD_STATUS_STATUS c) = k ∧ t.rd (SEQ.LAST_REJECT_CODE c) = op ∧ t.rd (SEQ.LAST_REJECT_STATUS c) = k ∧
      ∀ m, m < 256 → t.rd (SEQ.STATUS_STATE m) = s.rd (SEQ.STATUS_STATE m) ∧ t.rd (SEQ.PC_PC m) = s.rd (SEQ.PC_PC m) ∧
        t.rd (SEQ.SC_SC m) = s.rd (SEQ.SC_SC m))

/-- For cell c below 256 and registers that are served (State.regOpen). With no command pending and the clock not paused:
VOID of a lead that is not IDLE in a run not void yet gives VOID = 1 with FIRST STEWARD (7); PRIME of an armed
descriptor with words left, when no other descriptor is active with words left (R82), makes it ACTIVE with the DMA on
it; FLUSH of a cell whose caravan does not stream, or that is in none, empties the ring, stops the DMA, disarms all
descriptors; each with status OK. With the clock paused, PRIME and FLUSH stay pending. ARM_DESCRIPTOR with the ring on
and LEN not 0 arms a disarmed descriptor and starts its counts anew; with LEN 0 or the ring off it sets WR_IGN.
RING_WRITE that leaves EN and HALF writes the two levels and keeps the ring; one that changes EN or HALF of a cell
whose caravan is not ARMED or RUNNING, with EN = 0 or no valid execute-only window in the half, flushes and writes;
one of a busy cell's EN or HALF keeps both and sets WR_IGN. STREAM_DMA_REFILL outside freeze of a running DMA with
words left and 64 free slots: where its reads bring words and none fails, RING_STATUS.LEVEL grows by their number and
the slots from WR on hold them; while frozen nothing changes. -/
def Obligations.SequencerMarksAndRings : Prop :=
  (∀ (s : State) (c : Nat), c < 256 → s.regOpen 0 (SEQ.CMD_OP c).addr = true → s.flag (SEQ.CMD_STATUS_PEND c) = false →
    s.clockPaused (blockOf c) = false → s.isLead c = true → s.cvState c ≠ stIdle → s.flag (SEQ.VOID_VOID c) = false →
    ∃ t, exec (.void c) s = .next t ∧ t.rd (SEQ.CMD_STATUS_STATUS c) = 0 ∧ t.rd (SEQ.VOID_VOID c) = 1 ∧
      t.rd (SEQ.VOID_FIRST c) = 7 ∧ t.mem = s.mem ∧ ∀ m ∈ s.members c, t.rd (SEQ.STATUS_VOID m) = 1) ∧
  (∀ (s : State) (c d : Nat), c < 256 → d < 4 → s.regOpen 0 (SEQ.CMD_OP c).addr = true → s.flag (SEQ.CMD_STATUS_PEND c) = false →
    s.clockPaused (blockOf c) = false → s.flag (SEQ.SD_CTRL_ARMED c d) = true → s.descLeft c d ≠ 0 →
    (s.flag (SEQ.RING_STATUS_DMA_ACTIVE c) = false ∨ s.rd (SEQ.RING_STATUS_DMA_DESC c) = d ∨
      s.descLeft c (s.rd (SEQ.RING_STATUS_DMA_DESC c)) = 0) →
    ∃ t, exec (.prime c d) s = .next t ∧ t.rd (SEQ.CMD_STATUS_STATUS c) = 0 ∧ t.rd (SEQ.SD_CTRL_ACTIVE c d) = 1 ∧
      t.rd (SEQ.RING_STATUS_DMA_ACTIVE c) = 1 ∧ t.rd (SEQ.RING_STATUS_DMA_DESC c) = d ∧ t.mem = s.mem) ∧
  (∀ (s : State) (c : Nat), c < 256 → s.regOpen 0 (SEQ.CMD_OP c).addr = true → s.flag (SEQ.CMD_STATUS_PEND c) = false →
    s.clockPaused (blockOf c) = false → (s.enabled c = false ∨ s.flag (SEQ.STATUS_STREAMING (s.leadOf c)) = false) →
    ∃ t, exec (.flush c) s = .next t ∧ t.rd (SEQ.CMD_STATUS_STATUS c) = 0 ∧ t.rd (SEQ.RING_STATUS_LEVEL c) = 0 ∧
      t.rd (SEQ.RING_STATUS_DMA_ACTIVE c) = 0 ∧ t.mem = s.mem ∧ ∀ n, n < 4 → t.rd (SEQ.SD_CTRL_ARMED c n) = 0) ∧
  (∀ (s : State) (c : Nat), c < 256 → s.regOpen 0 (SEQ.CMD_OP c).addr = true → s.flag (SEQ.CMD_STATUS_PEND c) = false →
    s.clockPaused (blockOf c) = true → ∀ e ∈ [(Instr.prime c 2, (⟨7, 2, false, true⟩ : SeqPend)), (.flush c, ⟨8, 0, false, true⟩)],
    ∃ t, exec e.1 s = .next t ∧ t.rd (SEQ.CMD_STATUS_PEND c) = 1 ∧ (t.cell c).seqCmd = some e.2 ∧ t.mem = s.mem) ∧
  (∀ (s : State) (c n : Nat), c < 256 → n < 4 → s.regOpen 0 (SEQ.SD_CTRL_ARMED c n).addr = true →
    (s.rd (SEQ.SD_LEN_LEN c n) ≠ 0 → s.flag (SEQ.RING_EN c) = true → s.flag (SEQ.SD_CTRL_ARMED c n) = false →
      ∃ t, exec (.armDescriptor c n) s = .next t ∧ t.rd (SEQ.SD_CTRL_ARMED c n) = 1 ∧ (t.cell c).sdRead.getD n 9 = 0 ∧
        (t.cell c).sdUsed.getD n 9 = 0 ∧ t.mem = s.mem) ∧
    (s.rd (SEQ.SD_LEN_LEN c n) = 0 ∨ s.flag (SEQ.RING_EN c) = false → ∃ t, exec (.armDescriptor c n) s = .next t ∧
      t.rd (SEQ.STATUS_WR_IGN c) = 1 ∧ t.rd (SEQ.SD_CTRL_ARMED c n) = s.rd (SEQ.SD_CTRL_ARMED c n) ∧ t.cells = s.cells)) ∧
  (∀ (s : State) (c mask v : Nat), c < 256 → s.regOpen 0 (SEQ.RING_EN c).addr = true →
    let en := s.merged (SEQ.RING_EN c) mask v
    let half := s.merged (SEQ.RING_HALF c) mask v
    let free := en = 0 ∨ ∀ n, n < 4 → s.flag (CEL.XOW_VALID c n) = true →
      half < s.rd (CEL.XOW_BASE c n) / 4096 ∨ s.rd (CEL.XOW_LIMIT c n) / 4096 < half
    ∃ t, exec (.ringWrite c mask v) s = .next t ∧ t.mem = s.mem ∧
      (en = s.rd (SEQ.RING_EN c) ∧ half = s.rd (SEQ.RING_HALF c) ∨ free →
        t.rd (SEQ.RING_WARN_LEVEL c) = s.merged (SEQ.RING_WARN_LEVEL c) mask v ∧
        t.rd (SEQ.RING_PAUSE_LEVEL c) = s.merged (SEQ.RING_PAUSE_LEVEL c) mask v) ∧
      (en = s.rd (SEQ.RING_EN c) → half = s.rd (SEQ.RING_HALF c) →
        t.rd (SEQ.RING_STATUS_LEVEL c) = s.rd (SEQ.RING_STATUS_LEVEL c)) ∧
      (free → s.cellBusy c = false → t.rd (SEQ.RING_EN c) = en ∧ t.rd (SEQ.RING_HALF c) = half ∧
        (en ≠ s.rd (SEQ.RING_EN c) ∨ half ≠ s.rd (SEQ.RING_HALF c) → t.rd (SEQ.RING_STATUS_LEVEL c) = 0)) ∧
      (s.cellBusy c = true → t.rd (SEQ.RING_EN c) = s.rd (SEQ.RING_EN c) ∧ t.rd (SEQ.RING_HALF c) = s.rd (SEQ.RING_HALF c) ∧
        (en ≠ s.rd (SEQ.RING_EN c) ∨ half ≠ s.rd (SEQ.RING_HALF c) → t.rd (SEQ.STATUS_WR_IGN c) = 1))) ∧
  (∀ (s : State) (c n up dev lat : Nat), c < 256 → s.frozen = false → s.flag (SEQ.RING_STATUS_DMA_ACTIVE c) = true →
    let d := s.rd (SEQ.RING_STATUS_DMA_DESC c)
    s.descLeft c d ≠ 0 → s.ringLevel c ≤ 4032 →
    let r := s.refillRead c up dev lat (upTo (min n 64)
      (groupsOf 16 73 (16 * (s.rd (SEQ.SD_ADDR_ADDR c d) + (s.cell c).sdRead.getD d 0)) (min (s.descLeft c d) 72)))
    ∃ t, exec (.streamDmaRefill c n up dev lat) s = .next t ∧ (r.bad = false → r.words ≠ [] → r.words.length ≤ 64 →
      t.ringLevel c = (r.s.ringLevel c + r.words.length) % 2 ^ 13 ∧
      ∀ i, i < r.words.length → t.readWord (padBase c + 16 * r.s.ringAddr c (r.s.rd (SEQ.RING_STATUS_WR c) + i)) =
        r.words.getD i 0 % 2 ^ 72)) ∧
  (∀ (s : State) (c n up dev lat : Nat), s.frozen = true → exec (.streamDmaRefill c n up dev lat) s = .next s)

/-- For cell c below 256, each register being served (State.regOpen). NEXT_PC_WRITE: ADDR = v mod 2^13 and ARMED = 1, no
other register. EVT_SET with bit 0 = 1: EVT = 1 of a lead; another cell's write sets WR_IGN. EVQ_READ of codes v ::
rest answers v with VALID and the count, and rest stays queued; of an empty queue it answers 0. PSM_WRITE merges the
bits of its mask into the register. CEL_CARAVAN_WRITE that keeps CID and EN of a cell that is not busy writes SITE
alone; one that makes a free cell (nobody else has CID) a caravan gives EN 1, LEAD c, IS_LEAD 1, MEMBERS 1, STATE
IDLE; one of a busy cell that changes CID sets WR_IGN alone. GANG_WRITE that moves no block's source writes the fields
alone; one that would move a busy block's sets WR_IGN alone. APG_OWN_WRITE with a holder busy in a changed field sets
WR_IGN alone; with none busy the eight fields read as written. -/
def Obligations.SequencerAndCaravanRegisters : Prop :=
  (∀ (s : State) (c v : Nat), c < 256 → s.regOpen 0 (SEQ.NEXT_PC_ADDR c).addr = true → ∃ t, exec (.nextPcWrite c v) s = .next t ∧ t.rd (SEQ.NEXT_PC_ADDR c) = v % 2 ^ 13 ∧
    t.rd (SEQ.NEXT_PC_ARMED c) = 1 ∧ t.mem = s.mem ∧
    ∀ f : Fld, f.key ≠ (SEQ.NEXT_PC_ADDR c).key → f.key ≠ (SEQ.NEXT_PC_ARMED c).key → t.rd f = s.rd f) ∧
  (∀ (s : State) (c v : Nat), s.regOpen 0 (SEQ.EVT_SET c).addr = true → bitOf v 0 = true → ∃ t, exec (.evtSet c v) s = .next t ∧ t.mem = s.mem ∧
    (s.isLead c = true → t.rd (SEQ.STATUS_EVT c) = 1) ∧ (s.isLead c = false → t.rd (SEQ.STATUS_WR_IGN c) = 1)) ∧
  (∀ (s : State) (c v : Nat) (rest : List Nat), s.regOpen 0 (SEQ.EVQ_CODE c).addr = true → (s.cell c).evq = v :: rest → ∃ t, exec (.evqRead c) s = .next t ∧
    t.answer = [v + 2 ^ 16 * (rest.length + 1) + 2 ^ 31] ∧ (t.cell c).evq = rest ∧ t.regs = s.regs) ∧
  (∀ (s : State) (c : Nat), s.regOpen 0 (SEQ.EVQ_CODE c).addr = true → (s.cell c).evq = [] → ∃ t, exec (.evqRead c) s = .next t ∧ t.answer = [0] ∧ t.regs = s.regs) ∧
  (∀ (s : State) (c n mask v : Nat), s.regOpen 0 (SEQ.PSM_ENTRIES c n).addr = true → ∃ t, exec (.psmWrite c n mask v) s = .next t ∧
    t.rd (SEQ.PSM_ENTRIES c n) = s.merged (SEQ.PSM_ENTRIES c n) mask v % 2 ^ 64 ∧
    ∀ f : Fld, f.key ≠ (SEQ.PSM_ENTRIES c n).key → t.rd f = s.rd f) ∧
  (∀ (s : State) (c mask v : Nat), s.regOpen 0 (CEL.CARAVAN_CID c).addr = true → s.merged (CEL.CARAVAN_CID c) mask v = s.rd (CEL.CARAVAN_CID c) →
    s.merged (CEL.CARAVAN_EN c) mask v = s.rd (CEL.CARAVAN_EN c) →
    s.merged (CEL.CARAVAN_SITE c) mask v ≠ s.rd (CEL.CARAVAN_SITE c) → s.cellBusy c = false →
    exec (.celCaravanWrite c mask v) s = .next (s.wr (CEL.CARAVAN_SITE c) (s.merged (CEL.CARAVAN_SITE c) mask v))) ∧
  (∀ (s : State) (c mask v : Nat), c < 256 → s.regOpen 0 (CEL.CARAVAN_CID c).addr = true → s.enabled c = false → s.merged (CEL.CARAVAN_EN c) mask v = 1 →
    s.sharing (regionOf c) (s.merged (CEL.CARAVAN_CID c) mask v) c = [] →
    s.cidElsewhere (regionOf c) (s.merged (CEL.CARAVAN_CID c) mask v) = false →
    ∃ t, exec (.celCaravanWrite c mask v) s = .next t ∧ t.rd (CEL.CARAVAN_EN c) = 1 ∧ t.rd (CEL.CARAVAN_LEAD c) = c ∧
      t.rd (CEL.CARAVAN_IS_LEAD c) = 1 ∧ t.rd (CEL.CARAVAN_MEMBERS c) = 1 ∧ t.rd (SEQ.STATUS_STATE c) = 0 ∧
      t.rd (CEL.CARAVAN_CID c) = s.merged (CEL.CARAVAN_CID c) mask v) ∧
  (∀ (s : State) (c mask v : Nat), s.regOpen 0 (CEL.CARAVAN_CID c).addr = true → s.merged (CEL.CARAVAN_CID c) mask v ≠ s.rd (CEL.CARAVAN_CID c) → s.cellBusy c = true →
    exec (.celCaravanWrite c mask v) s = .next (s.wr (SEQ.STATUS_WR_IGN c) 1)) ∧
  (∀ (s : State) (r mask v : Nat), s.regOpen 0 (RGN.GANG_GID0 r).addr = true → (List.range 8).filter (fun k => sourceUnder ((List.range 8).map fun j =>
      s.merged (gidF r j) mask v) r k != s.gangSource (8 * r + k)) = [] →
    ((s.leadsOf r).any fun l => (s.members l).any fun c => sourceUnder ((List.range 8).map fun j =>
      s.merged (gidF r j) mask v) r (blockOf c % 8) != sourceUnder ((List.range 8).map fun j =>
      s.merged (gidF r j) mask v) r (blockOf l % 8)) = false →
    exec (.gangWrite r mask v) s = .next (s.wrs ((List.range 8).map fun k => (gidF r k, s.merged (gidF r k) mask v)))) ∧
  (∀ (s : State) (r mask v : Nat), s.regOpen 0 (RGN.GANG_GID0 r).addr = true → ((List.range 8).any fun k => sourceUnder ((List.range 8).map fun j =>
      s.merged (gidF r j) mask v) r k != s.gangSource (8 * r + k) && s.blockBusy (8 * r + k)) = true →
    exec (.gangWrite r mask v) s = .next (s.wr (RGN.CV_STATUS_WR_IGN r) 1)) ∧
  (∀ (s : State) (r mask v : Nat), s.regOpen 0 (apgLeadF r 0).addr = true → ((List.range 8).any fun k => (s.merged (apgLeadF r k) mask v != s.rd (apgLeadF r k) ||
      s.merged (apgValidF r k) mask v != s.rd (apgValidF r k)) && (s.apgHolder (8 * r + k)).any s.busy) = true →
    exec (.apgOwnWrite r mask v) s = .next (s.wr (RGN.CV_STATUS_WR_IGN r) 1)) ∧
  (∀ (s : State) (r mask v : Nat), r < 4 → s.regOpen 0 (apgLeadF r 0).addr = true → (∀ c, c < 256 → s.busy c = false) →
    ∃ t, exec (.apgOwnWrite r mask v) s = .next t ∧ t.mem = s.mem ∧ ∀ k, k < 8 →
      t.rd (apgLeadF r k) = s.merged (apgLeadF r k) mask v ∧ t.rd (apgValidF r k) = s.merged (apgValidF r k) mask v)

/-- For cell c below 256, lane n below 4, an access that is served (regOpen), and a write that names no reserved TERM or
STAT. LANE_ENABLE of a disabled lane in the safe state of a cell that is not ARMED or RUNNING, no reload loading its
block's calibration, outside LOCKED, with UNUSED 0 and calibration 1 or 2 (or UNCAL in service): EN 1, SAFE 0 (R163,
R168, R378). LANE_DISABLE of an enabled lane of a cell that is not busy: EN 0, and the lane is in the safe state or
enters it with cause 4 (R161). STATIC_DRIVE of an enabled lane of such a cell with PMU mode 0 and UNUSED 0 that does
not enter the safe state: STAT_EN 1 and the driver drives STAT. LEVEL_SET_WRITE of codes of at most 41000: the set
reads as written; a change of the set in use sets LS_BUSY; a larger code sets PIN WR_IGN alone (while no self-test
slice runs; so for mode 3 below). LS_SETTLED clears LS_BUSY alone. PMU_WRITE to mode 1 or 2 of an enabled lane of a
cell that is not busy writes the fields and the driver is off; mode 3 sets WR_IGN alone. SAFE_STATE_DONE of a lane
that enters: SAFE 1, EN 0, STAT_EN 0, MODE 0. HEARTBEAT_LOSS of region r: every lane of its 64 cells is in or enters
the safe state. -/
def Obligations.LaneControl : Prop :=
  (∀ (s : State) (c n mask v : Nat), c < 256 → n < 4 →
    let m1 := setBit mask 0
    (s.merged (PIN.CTRL_TERM c n) m1 (setBit v 0) ≠ 3 → s.merged (PIN.CTRL_STAT c n) m1 (setBit v 0) ≠ 2 →
      s.flag (PIN.CTRL_EN c n) = false → s.flag (PIN.STATE_SAFE c n) = true → s.cellBusy c = false →
      s.merged (PIN.CTRL_UNUSED c n) m1 (setBit v 0) = 0 → s.rd LC.STATE_STATE ≠ 7 →
      CalRun.block (blockOf c) ∉ s.cal →
      (s.rd (PIN.STATE_CAL_SRC c n) = 1 ∨ s.rd (PIN.STATE_CAL_SRC c n) = 2 ∨
        (s.merged (PIN.CTRL_UNCAL c n) m1 (setBit v 0) = 1 ∧ s.flag (SEQ.CTRL_SERVICE c) = true)) →
      s.regOpen 0 (PIN.CTRL_EN c n).addr = true →
      ∃ t, exec (.laneEnable c n mask v) s = .next t ∧ t.rd (PIN.CTRL_EN c n) = 1 ∧ t.rd (PIN.STATE_SAFE c n) = 0 ∧
        t.mem = s.mem) ∧
    (s.merged (PIN.CTRL_TERM c n) m1 (clearBit v 0) ≠ 3 → s.merged (PIN.CTRL_STAT c n) m1 (clearBit v 0) ≠ 2 →
      s.flag (PIN.CTRL_EN c n) = true → s.cellBusy c = false →
      s.regOpen 0 (PIN.CTRL_EN c n).addr = true →
      ∃ t, exec (.laneDisable c n mask v) s = .next t ∧ t.rd (PIN.CTRL_EN c n) = 0 ∧ t.mem = s.mem ∧
        (t.rd (PIN.STATE_SAFE c n) = 1 ∨ bitOf (t.cell c).entering n = true) ∧
        (s.flag (PIN.STATE_SAFE c n) = false → bitOf (s.cell c).entering n = false → t.rd (PIN.STATE_SAFE_CAUSE c n) = 4)) ∧
    (s.merged (PIN.CTRL_TERM c n) (setBit mask 6) (setBit v 6) ≠ 3 →
      s.merged (PIN.CTRL_STAT c n) (setBit mask 6) (setBit v 6) ≠ 2 → s.flag (PIN.CTRL_EN c n) = true →
      s.merged (PIN.CTRL_EN c n) (setBit mask 6) (setBit v 6) = 1 → s.cellBusy c = false → s.rd (PIN.PMU_MODE c n) = 0 →
      bitOf (s.cell c).entering n = false → s.merged (PIN.CTRL_UNUSED c n) (setBit mask 6) (setBit v 6) = 0 →
      s.regOpen 0 (PIN.CTRL_EN c n).addr = true →
      ∃ t, exec (.staticDrive c n mask v) s = .next t ∧ t.rd (PIN.CTRL_STAT_EN c n) = 1 ∧
        t.rd (PIN.CTRL_STAT c n) = s.merged (PIN.CTRL_STAT c n) (setBit mask 6) (setBit v 6) ∧
        bits (t.cell c).level (2 * n) 2 = t.rd (PIN.CTRL_STAT c n) ∧ t.mem = s.mem)) ∧
  (∀ (s : State) (c n m which mask v : Nat), c < 256 → n < 4 → m < 2 → which < 2 → s.regOpen 0 (PIN.LSA_VOH c n m).addr = true →
    ((∀ f ∈ levelFields c n m which, s.merged f mask v ≤ 41000) →
      ∃ t, exec (.levelSetWrite c n m which mask v) s = .next t ∧ t.mem = s.mem ∧
        (∀ f ∈ levelFields c n m which, t.rd f = s.merged f mask v) ∧
        (m = s.rd (PIN.CTRL_LSEL c n) → (∃ f ∈ levelFields c n m which, s.merged f mask v ≠ s.rd f) →
          t.rd (PIN.STATE_LS_BUSY c n) = 1)) ∧
    (s.bst.run = none → (∃ f ∈ levelFields c n m which, 41000 < s.merged f mask v) →
      exec (.levelSetWrite c n m which mask v) s = .next (s.wr (PIN.STATUS_WR_IGN c) 1))) ∧
  (∀ (s : State) (c n : Nat), exec (.lsSettled c n) s = .next (s.wr (PIN.STATE_LS_BUSY c n) 0)) ∧
  (∀ (s : State) (c n mask v : Nat), c < 256 → n < 4 → s.regOpen 0 (PIN.PMU_MODE c n).addr = true →
    (s.bst.run = none → s.merged (PIN.PMU_MODE c n) mask v = 3 → exec (.pmuWrite c n mask v) s = .next (s.wr (PIN.STATUS_WR_IGN c) 1)) ∧
    (s.merged (PIN.PMU_MODE c n) mask v ∈ [1, 2] → s.rd (PIN.PMU_MODE c n) = 0 → s.merged (PIN.PMU_VCLH c n) mask v ≤ 41000 →
      s.merged (PIN.PMU_VCLL c n) mask v ≤ 41000 →
      (s.merged (PIN.PMU_MODE c n) mask v = 1 → s.merged (PIN.PMU_FORCE c n) mask v ≤ 41000) → s.cellBusy c = false →
      s.flag (PIN.CTRL_EN c n) = true → s.flag (PIN.CTRL_UNUSED c n) = false →
      ∃ t, exec (.pmuWrite c n mask v) s = .next t ∧ bits (t.cell c).level (2 * n) 2 = 3 ∧ t.mem = s.mem ∧
        ∀ f ∈ [PIN.PMU_MODE c n, PIN.PMU_RANGE c n, PIN.PMU_FORCE c n, PIN.PMU_VCLH c n, PIN.PMU_VCLL c n],
          t.rd f = s.merged f mask v)) ∧
  (∀ (s : State) (c n : Nat), c < 256 → n < 4 → bitOf (s.cell c).entering n = true →
    ∃ t, exec (.safeStateDone c n) s = .next t ∧ t.rd (PIN.STATE_SAFE c n) = 1 ∧ t.rd (PIN.CTRL_EN c n) = 0 ∧
      t.rd (PIN.CTRL_STAT_EN c n) = 0 ∧ t.rd (PIN.PMU_MODE c n) = 0 ∧ bitOf (t.cell c).entering n = false ∧ t.mem = s.mem) ∧
  (∀ (s : State) (r : Nat), r < 4 → ∃ t, exec (.heartbeatLoss r) s = .next t ∧ t.mem = s.mem ∧
    ∀ c ∈ regionCells r, ∀ n, n < 4 → t.flag (PIN.STATE_SAFE c n) = true ∨ bitOf (t.cell c).entering n = true)

/-- For cell c below 256 and lane n below 4, no self-test slice running, an access that is served. MEAS_GO with no
measurement pending: SRC 0 in PMU mode 0 gives a zero result at once, VALID and the block's ADC source pulsed; else
PEND = 1 and the request is last in the block's queue. MEAS_DELAY_EXPIRY alone changes that queue: the lane's requests
have elapsed and a free ADC takes the first elapsed one. CONVERSION_DONE of the last of 2^NAVG conversions of a
request that hides nothing: PEND 0, VALID 1, ABORTED 0, KIND, CLAMP (also where FIMV clamps are crossed, R154) and
DISTURB as found, and the next request is taken. DCHK_INTERVAL of a lane under check that drives 0 or 1: on its level,
RUN is 0 and nothing else changes; off it, MISMATCH and RUN count, and at N the lane trips and enters the safe state
with cause 3. TRIM_WRITE in service writes the word and CAL_SRC 3, else PIN WR_IGN. TIM_TAB_WRITE merges a word, but a
reserved FMT in word 1 sets TIM WR_IGN alone. OFS_WRITE writes both offsets alone. UI_STALE with the clock stopped: UI
of the block's 8 cells is 0. -/
def Obligations.MeasurementsAndTables : Prop :=
  (∀ (s : State) (c n mask v : Nat), c < 256 → n < 4 → s.bst.run = none → s.flag (PIN.MEAS_PEND c n) = false →
    s.regOpen 0 (PIN.MEAS_GO c n).addr = true →
    let src := s.merged (PIN.MEAS_SRC c n) (setBit mask 0) (setBit v 0)
    (src = 0 → s.rd (PIN.PMU_MODE c n) = 0 → ∃ t, exec (.measGo c n mask v) s = .next t ∧ t.rd (PIN.RESULT_VALID c n) = 1 ∧
      t.rd (PIN.RESULT_VALUE c n) = 0 ∧ t.pulses = s.pulses ++ [1024 + 4 * (c / 8) + 2] ∧ t.blocks = s.blocks ∧ t.mem = s.mem) ∧
    (src ≠ 0 ∨ s.rd (PIN.PMU_MODE c n) ≠ 0 → ∃ t q, exec (.measGo c n mask v) s = .next t ∧ t.rd (PIN.MEAS_PEND c n) = 1 ∧
      t.rd (PIN.RESULT_VALID c n) = 0 ∧ (t.block (c / 8)).adcQ = (s.block (c / 8)).adcQ ++ [q] ∧ q.pin = 4 * c + n ∧
      q.src = src ∧ q.elapsed = false ∧ t.mem = s.mem)) ∧
  (∀ (s : State) (c n : Nat), s.bst.run = none → exec (.measDelayExpiry c n) s = .next (s.modBlock (c / 8) fun x =>
    { x with adcQ := takeNext (x.adcQ.map fun q => if q.pin = 4 * c + n then { q with elapsed := true } else q) })) ∧
  (∀ (s : State) (b c n : Nat) (code : Int) (clamp sat : Bool) (q : AdcReq), c < 256 → n < 4 →
    (s.block b).adcQ.find? (·.taken) = some q → q.pin = 4 * c + n → q.done + 1 = 2 ^ q.navg →
    (q.src == 1 && (q.bonded || s.bondedLane c n)) = false →
    ∃ t, exec (.conversionDone b code clamp sat) s = .next t ∧ t.rd (PIN.MEAS_PEND c n) = 0 ∧ t.rd (PIN.RESULT_VALID c n) = 1 ∧
      t.rd (PIN.RESULT_ABORTED c n) = 0 ∧ t.rd (PIN.RESULT_DISTURB c n) = b2n q.disturb ∧
      t.rd (PIN.RESULT_CLAMP c n) = b2n (q.clamp || clamp || (s.rd (PIN.PMU_MODE c n) == 2 &&
        decide (s.rd (PIN.PMU_VCLH c n) < s.rd (PIN.PMU_VCLL c n)))) ∧
      t.rd (PIN.RESULT_KIND c n) = (if q.src = 0 ∧ s.rd (PIN.PMU_MODE c n) = 1 then 1 else 0) ∧
      (t.block b).adcQ = takeNext ((s.block b).adcQ.filter fun e => e.pin != q.pin) ∧
      t.pulses = s.pulses ++ [1024 + 4 * b + 2] ∧ t.mem = s.mem) ∧
  (∀ (s : State) (c n : Nat) (pin : Int), c < 256 → n < 4 → s.dchkMade c n true = true →
    (s.dchkMiss c n pin = false → exec (.dchkInterval c n true pin) s = .next (s.wr (PIN.DCHK_RUN c n) 0)) ∧
    (s.dchkMiss c n pin = true → ∃ t, exec (.dchkInterval c n true pin) s = .next t ∧ t.mem = s.mem ∧
      t.rd (PIN.DCHK_MISMATCH c n) = satAdd (PIN.DCHK_MISMATCH c n).width (s.rd (PIN.DCHK_MISMATCH c n)) 1 ∧
      (max 1 (s.rd (PIN.DCHK_CFG_N c)) ≤ satAdd (PIN.DCHK_RUN c n).width (s.rd (PIN.DCHK_RUN c n)) 1 →
        t.rd (PIN.DCHK_TRIP c n) = 1 ∧ bitOf (t.cell c).entering n = true ∧ t.rd (PIN.STATE_SAFE_CAUSE c n) = 3))) ∧
  (∀ (s : State) (c n k mask v : Nat), s.bst.run = none → s.regOpen 0 (PIN.TRIM_WORD c n k).addr = true →
    exec (.trimWrite c n k mask v) s = .next (if s.flag (SEQ.CTRL_SERVICE c) && !s.flag CHIP.CAL_STATUS_BUSY then
      s.wrs [(PIN.TRIM_WORD c n k, s.merged (PIN.TRIM_WORD c n k) mask v), (PIN.STATE_CAL_SRC c n, 3)]
      else s.wr (PIN.STATUS_WR_IGN c) 1)) ∧
  (∀ (s : State) (c e mask v : Nat), s.regOpen 0 (TIM.TAB_W0_WORD c e).addr = true →
    exec (.timTabWrite c e 0 mask v) s = .next (s.wr (TIM.TAB_W0_WORD c e) (s.merged (TIM.TAB_W0_WORD c e) mask v)) ∧
    ((∀ n, n < 4 → bits mask (42 + 3 * n) 3 = 0 ∨ bits (s.merged (TIM.TAB_W1_WORD c e) mask v) (42 + 3 * n) 3 ≤ 4) →
      exec (.timTabWrite c e 1 mask v) s = .next (s.wr (TIM.TAB_W1_WORD c e) (s.merged (TIM.TAB_W1_WORD c e) mask v))) ∧
    (∀ n, n < 4 → bits mask (42 + 3 * n) 3 ≠ 0 → 5 ≤ bits (s.merged (TIM.TAB_W1_WORD c e) mask v) (42 + 3 * n) 3 →
      exec (.timTabWrite c e 1 mask v) s = .next (s.wr (TIM.STATUS_WR_IGN c) 1))) ∧
  (∀ (s : State) (c n mask v : Nat), s.regOpen 0 (TIM.OFS_DRV c n).addr = true → exec (.ofsWrite c n mask v) s = .next
    (s.wrs [(TIM.OFS_DRV c n, s.merged (TIM.OFS_DRV c n) mask v), (TIM.OFS_CMP c n, s.merged (TIM.OFS_CMP c n) mask v)])) ∧
  (∀ (s : State) (b : Nat), s.clockRuns b = false → ∃ t, exec (.uiStale b) s = .next t ∧ t.mem = s.mem ∧
    ∀ c ∈ blockCells b, t.rd (TIM.UI_UI c) = 0)

/-- For block b below 32, powered, its registers served, no self-test slice running, no PLL command pending and not
ganged. SET of an in-range staged configuration within the limits, no caravan of the gang ARMED or RUNNING: PEND, OP
1, a relock to it waits for its gate. STEP in LOCKED and FRAC mode to a staged configuration that is in range and
within the limits, differs from the one in force in N and FRAC alone and by at most 2,000 ppm, with RAMP 1 to 1,000:
RAMPING, PEND, N and FRAC in force as staged, BW and the rest as they were. RELOCK in OFF, LOST or FAIL: PEND, OP 3, a
relock to the configuration in force. OFF with no caravan busy: state OFF, OK, CLAMPED 0, the clocks of the blocks it
clocks gated. RELOCK_GATE: ACQUIRING, N as given, those clocks gated; of a block that has joined a gang meanwhile its
PLL stays as it is and the command goes on to its timeout (the model's choice, log 21). Where f_clamp does not lie
below its frequency, LOCK_INDICATED starts the stability timer alone and RELOCK_COMPLETE gives LOCKED, a pending
command is OK. RELOCK_TIMEOUT: FAIL, a pending command TIMEOUT. RAMP_END: LOCKED, OK. CLOCK_SOURCE_SWITCH of a block
due for it outside freeze: its clocks run exactly when its new source is LOCKED or RAMPING and it needs no SET. -/
def Obligations.PllCommandsAndRelock : Prop :=
  (∀ (s : State) (b : Nat), b < 32 → s.regOpen 0 (PLL.CMD_OP b).addr = true → s.blockOn b = true → s.bst.run = none → s.flag (PLL.CMD_STATUS_PEND b) = false →
    s.flag (PLL.STATUS_GANGED b) = false →
    (s.gangBusy b = false → (s.pllStaged b).bad = false → s.overLimit (s.pllStaged b) s.limitLevel = false →
      ∃ t, exec (.pllSet b) s = .next t ∧ t.rd (PLL.CMD_STATUS_PEND b) = 1 ∧ t.rd (PLL.CMD_STATUS_OP b) = 1 ∧
        (t.block b).relock = .toGate ∧ (t.block b).pll = some (s.pllStaged b) ∧
        t.rd (PLL.STATUS_STATE b) = s.rd (PLL.STATUS_STATE b) ∧ t.mem = s.mem) ∧
    (s.rd (PLL.ACT_CFG_MODE b) ≠ 0 → s.rd (PLL.STATUS_STATE b) = pllLocked →
      (s.pllStaged b).mode = (s.pllActive b).mode → (s.pllStaged b).ref = (s.pllActive b).ref →
      (s.pllStaged b).rdiv = (s.pllActive b).rdiv → (s.pllStaged b).sdiv = (s.pllActive b).sdiv →
      (s.pllStaged b).fdiv = (s.pllActive b).fdiv → (s.pllStaged b).bad = false →
      (((s.pllStaged b).mult - (s.pllActive b).mult) + ((s.pllActive b).mult - (s.pllStaged b).mult)) * 1000000 ≤
        2000 * (s.pllActive b).mult → 1 ≤ s.rd (PLL.TRACK_RAMP b) → s.rd (PLL.TRACK_RAMP b) ≤ 1000 →
      s.overLimit (s.pllStaged b) s.limitLevel = false →
      ∃ t, exec (.pllStep b) s = .next t ∧ t.rd (PLL.STATUS_STATE b) = pllRamping ∧ t.rd (PLL.CMD_STATUS_PEND b) = 1 ∧
        t.rd (PLL.CMD_STATUS_OP b) = 2 ∧ t.pllActive b = { s.pllActive b with n := (s.pllStaged b).n, frac := (s.pllStaged b).frac } ∧ t.mem = s.mem) ∧
    (s.rd (PLL.STATUS_STATE b) ∈ [pllOff, pllLost, pllFail] → ∃ t, exec (.pllRelock b) s = .next t ∧
      t.rd (PLL.CMD_STATUS_PEND b) = 1 ∧ t.rd (PLL.CMD_STATUS_OP b) = 3 ∧ (t.block b).relock = .toGate ∧
      (t.block b).pll = some (s.pllActive b) ∧ t.mem = s.mem) ∧
    (s.gangBusy b = false → ∃ t, exec (.pllOff b) s = .next t ∧ t.rd (PLL.STATUS_STATE b) = pllOff ∧
      t.rd (PLL.CMD_STATUS_STATUS b) = 0 ∧ t.rd (PLL.CMD_STATUS_OP b) = 4 ∧ t.rd (PLL.EVENT_DONE b) = 1 ∧
      t.rd (PLL.STATUS_CLAMPED b) = 0 ∧
      (∀ k ∈ s.clocked b, t.rd (PLL.STATUS_CLK_RUN k) = 0) ∧ t.mem = s.mem)) ∧
  (∀ (s : State) (b : Nat) (c : PllCfg), b < 32 → (s.block b).relock = .toGate → (s.block b).pll = some c →
    ∃ t, exec (.relockGate b) s = .next t ∧
      t.rd (PLL.ACT_CFG_N b) = c.n % 2 ^ (PLL.ACT_CFG_N b).width ∧ (t.block b).relock = .acquiring ∧ t.mem = s.mem ∧
      (s.flag (PLL.STATUS_GANGED b) = false → t.rd (PLL.STATUS_STATE b) = pllAcquiring ∧
        ∀ k ∈ s.clocked b, t.rd (PLL.STATUS_CLK_RUN k) = 0) ∧
      (s.flag (PLL.STATUS_GANGED b) = true → t.rd (PLL.STATUS_STATE b) = s.rd (PLL.STATUS_STATE b))) ∧
  (∀ (s : State) (b : Nat), (s.block b).relock = .acquiring → s.flag (PLL.STATUS_GANGED b) = false → s.canLock b = true →
    exec (.lockIndicated b) s = .next (s.modBlock b fun x => { x with relock := .stable })) ∧
  (∀ (s : State) (b : Nat), b < 32 → (s.block b).relock = .stable → s.flag (PLL.STATUS_GANGED b) = false → s.canLock b = true →
    ∃ t, exec (.relockComplete b) s = .next t ∧ t.rd (PLL.STATUS_STATE b) = pllLocked ∧ (t.block b).relock = .none ∧
      (s.flag (PLL.CMD_STATUS_PEND b) = true → t.rd (PLL.CMD_STATUS_STATUS b) = 0 ∧ t.rd (PLL.CMD_STATUS_PEND b) = 0) ∧
      t.mem = s.mem) ∧
  (∀ (s : State) (b : Nat), b < 32 → (s.block b).relock ∈ [.acquiring, .stable] → s.flag (PLL.STATUS_GANGED b) = false →
    ∃ t, exec (.relockTimeout b) s = .next t ∧ t.rd (PLL.STATUS_STATE b) = pllFail ∧ (t.block b).relock = .none ∧
      (s.flag (PLL.CMD_STATUS_PEND b) = true → t.rd (PLL.CMD_STATUS_STATUS b) = 5 ∧ t.rd (PLL.CMD_STATUS_PEND b) = 0) ∧
      t.mem = s.mem) ∧
  (∀ (s : State) (b : Nat), b < 32 → s.rd (PLL.STATUS_STATE b) = pllRamping → ∃ t, exec (.rampEnd b) s = .next t ∧
    t.rd (PLL.STATUS_STATE b) = pllLocked ∧ t.rd (PLL.CMD_STATUS_STATUS b) = 0 ∧ t.rd (PLL.EVENT_DONE b) = 1 ∧
    t.mem = s.mem) ∧
  (∀ (s : State) (b src : Nat), b < 32 → s.frozen = false → (s.block b).srcSwitch = some src →
    ∃ t, exec (.clockSourceSwitch b) s = .next t ∧ (t.block b).srcSwitch = none ∧ t.mem = s.mem ∧
      t.rd (PLL.STATUS_CLK_RUN b) = b2n (s.pllGood b && !(s.block b).needSet))

/-- For block b below 32. PLL_CLAMP of a FRAC-mode PLL that is not OFF, in freeze or not: CLAMPED, CLAMP_CNT and, where it
acted, the CLAMP event. LOCK_SUSPICION in LOCKED or RAMPING: each block it clocks is suspected and each of its cells
that had none latches its SC; no register differs. SUSPICION_CLEAR before a declaration: no suspicion and no latch
remains. LOSS_OF_LOCK in LOCKED or RAMPING: LOST; each clocked block has LOL = 1, its cause (4 in the other blocks),
DET, one more count and a loss that waits for its gate. LOCK_LOST_GATE of a waiting loss of a LOST PLL: the clocks are
gated, the loss is done, and every ARMED or RUNNING caravan of those blocks is HALTED with LOCK_LOST and void.
CHIP_PLL_FALLBACK on the PLL: LOCK, ON_PLL and USE_PLL 0, FALLBACK 1, one more fallback; off it: LOCK 0 alone.
CHIP_PLL_LOCK sets LOCK alone. USE_PLL in lock sets USE_PLL and ON_PLL, else WR_IGN alone. REF_WINDOW of 90 to 110
edges: the reference is good; else REF_FAULT and every powered PLL on it that was LOCKED or RAMPING is LOST. -/
def Obligations.LossOfLockAndReferences : Prop :=
  (∀ (s : State) (b us : Nat) (on : Bool), s.rd (PLL.ACT_CFG_MODE b) = 1 →
    s.rd (PLL.STATUS_STATE b) ≠ pllOff →
    ∃ t, exec (.pllClamp b us on) s = .next t ∧ t.rd (PLL.STATUS_CLAMPED b) = b2n on ∧
      t.rd (PLL.CLAMP_CNT_US b) = satAdd (PLL.CLAMP_CNT_US b).width (s.rd (PLL.CLAMP_CNT_US b)) us ∧
      (on = true ∨ 0 < us → t.rd (PLL.EVENT_CLAMP b) = 1) ∧
      OnlyRegs s t [(PLL.STATUS_CLAMPED b).key, (PLL.CLAMP_CNT_US b).key, (PLL.EVENT_CLAMP b).key]) ∧
  (∀ (s : State) (b : Nat), s.rd (PLL.STATUS_STATE b) = pllLocked ∨ s.rd (PLL.STATUS_STATE b) = pllRamping →
    ∃ t, exec (.lockSuspicion b) s = .next t ∧ t.regs = s.regs ∧ t.mem = s.mem ∧ ∀ k ∈ s.clocked b,
      (t.block k).suspicion = true ∧ ∀ c ∈ blockCells k, (s.cell c).suspectSC = none →
        (t.cell c).suspectSC = some (s.rd (SEQ.SC_SC c))) ∧
  (∀ (s : State) (b : Nat), (s.block b).lossPending = false → ∃ t, exec (.suspicionClear b) s = .next t ∧ t.regs = s.regs ∧
    t.mem = s.mem ∧ ∀ k ∈ s.clocked b, (t.block k).suspicion = false ∧ ∀ c ∈ blockCells k, (t.cell c).suspectSC = none) ∧
  (∀ (s : State) (b cause det : Nat), b < 32 → cause < 8 →
    s.rd (PLL.STATUS_STATE b) = pllLocked ∨ s.rd (PLL.STATUS_STATE b) = pllRamping →
    ∃ t, exec (.lossOfLock b cause det) s = .next t ∧ t.rd (PLL.STATUS_STATE b) = pllLost ∧ t.mem = s.mem ∧
      ∀ k ∈ s.clocked b, t.rd (PLL.EVENT_LOL k) = 1 ∧ t.rd (PLL.LOL_CAUSE k) = (if k = b then cause else 4) ∧
        t.rd (PLL.LOL_DET k) = det % 2 ^ (PLL.LOL_DET k).width ∧
        t.rd (PLL.LOL_COUNT k) = satAdd (PLL.LOL_COUNT k).width (s.rd (PLL.LOL_COUNT k)) 1 ∧ (t.block k).lossPending = true) ∧
  (∀ (s : State) (b : Nat), b < 32 → (s.block b).lossPending = true → s.rd (PLL.STATUS_STATE b) = pllLost →
    ∃ t, exec (.lockLostGate b) s = .next t ∧ t.mem = s.mem ∧ ∀ k ∈ s.clocked b, t.rd (PLL.STATUS_CLK_RUN k) = 0 ∧
      (t.block k).lossPending = false ∧ (t.block k).suspicion = false ∧
      ∀ l ∈ s.leadsInBlock k, s.isLead l = true → s.busy l = true → t.rd (SEQ.STATUS_STATE l) = stHalted ∧
        t.rd (SEQ.STATUS_CCAUSE l) = cLockLost ∧ t.rd (SEQ.VOID_VOID l) = 1) ∧
  (∀ s : State, s.flag CHIP.CLK_STATUS_ON_PLL = true → ∃ t, exec .chipPllFallback s = .next t ∧
    t.rd CHIP.CLK_STATUS_PLL_LOCK = 0 ∧ t.rd CHIP.CLK_STATUS_ON_PLL = 0 ∧ t.rd CHIP.CLK_CTRL_USE_PLL = 0 ∧
    t.rd CHIP.CLK_STATUS_FALLBACK = 1 ∧ t.rd CHIP.CLK_FALLBACKS_COUNT =
      satAdd CHIP.CLK_FALLBACKS_COUNT.width (s.rd CHIP.CLK_FALLBACKS_COUNT) 1 ∧ t.mem = s.mem) ∧
  (∀ s : State, s.flag CHIP.CLK_STATUS_ON_PLL = false → exec .chipPllFallback s = .next (s.wr CHIP.CLK_STATUS_PLL_LOCK 0)) ∧
  (∀ s : State, exec .chipPllLock s = .next (s.wr CHIP.CLK_STATUS_PLL_LOCK 1)) ∧
  (∀ s : State, s.regOpen 0 CHIP.CLK_CTRL_USE_PLL.addr = true → exec .usePll s = .next (if s.flag CHIP.CLK_STATUS_PLL_LOCK then
    s.wrs [(CHIP.CLK_CTRL_USE_PLL, 1), (CHIP.CLK_STATUS_ON_PLL, 1)] else s.wr CHIP.CLK_STATUS_WR_IGN 1)) ∧
  (∀ (s : State) (n : Nat), 90 ≤ n → n ≤ 110 → ∃ t, exec (.refWindow 0 n) s = .next t ∧ t.rd CHIP.CLK_STATUS_TREF_OK = 1 ∧
    OnlyRegs s t (CHIP.CLK_STATUS_TREF_OK.key :: (List.range 32).map fun b => (PLL.STATUS_REF_OK b).key)) ∧
  (∀ (s : State) (n : Nat), n < 90 ∨ 110 < n → ∃ t, exec (.refWindow 1 n) s = .next t ∧ t.rd CHIP.CLK_STATUS_CVYREF_OK = 0 ∧
    t.rd CHIP.CLK_STATUS_REF_FAULT = 1 ∧ t.rd CVY.STATUS_REF_TREF = 1 ∧ t.mem = s.mem ∧ ∀ b, b < 32 → s.rd (PLL.ACT_CFG_REF b) = 1 → s.blockOn b = true →
      s.rd (PLL.STATUS_STATE b) = pllLocked ∨ s.rd (PLL.STATUS_STATE b) = pllRamping → t.rd (PLL.STATUS_STATE b) = pllLost)

/-- For a powered block b whose registers are served (regOpen). FAB_WRITE by a master other than Objor sets WR_IGN with
DENIED alone (and ends what a power loss could tear of a COMMIT). By Objor, while not BUSY and not ARMED, BUSY is 1 as
it begins; with a header that is read (leaving state u), is good and has the length that it gives: the inactive plane
is WRITING and no boot plane, no frame stored, no other register or memory differs from u. PW_FRAME of a record that
is read, with a good CRC, a rising address and no failed verification: FRAMES and the frames stored count one more.
PW_COMPLETE with all frames stored, no blank frame failing, a trailer that is read, the digests equal and the tag
good: the inactive plane is VALID, RESULT OK, BUSY 0, the block's plane source pulses. ARM of a VALID inactive plane
that is fast enough, not BUSY and not yet ARMED sets ARMED alone; of a plane that is not VALID it is ignored with
NOT_VALID. DISARM with no swap clears ARMED alone. SWAP of an ARMED block without busy caravan or swap schedules it
alone. COMMIT, not BUSY and not ARMED: the active plane is a boot plane with GEN one above both. -/
def Obligations.PlaneWriterAndPlaneCommands : Prop :=
  ∀ (s : State) (b : Nat), s.blockOn b = true → s.regOpen 0 (FAB.CMD_OP b).addr = true →
    (∀ m key up dev, m ≠ 61 → s.regOpen m (FAB.CMD_OP b).addr = true → exec (.fabWrite b m key (up, dev)) s =
      .next ((s.modBlock b fun x => { x with committing := false }).wrs [(FAB.STATUS_WR_IGN b, 1), (FAB.STATUS_IGN_WHY b, 1)])) ∧
    (∀ key up dev (h : List Nat) (u : State), s.regOpen 61 (FAB.CMD_OP b).addr = true → s.flag (FAB.PW_STATUS_BUSY b) = false → s.flag (FAB.STATUS_ARMED b) = false →
      (s.pwBegin b key).ownWords (16 * s.rd (FAB.PW_SRC_ADDR b)) 8 up dev = .ok (some h, u) →
      bits (h.getD 0 0) 0 32 = 0x48584649 → bits (h.getD 0 0) 32 16 = 1 →
      1 ≤ bits (h.getD 0 0) 48 12 → bits (h.getD 0 0) 48 12 ≤ 2048 →
      s.rd (FAB.PW_LEN_WORDS b) = 16 + 17 * bits (h.getD 0 0) 48 12 →
      (s.pwBegin b key).rd (FAB.PW_STATUS_BUSY b) = 1 ∧ (s.pwBegin b key).rd (FAB.PW_STATUS_FRAMES b) = 0 ∧
      ∃ t, exec (.fabWrite b 61 key (up, dev)) s = .next t ∧
        t.rd (FAB.PLANE_STATE b (s.inactivePlane b)) = 1 ∧ t.rd (FAB.PLANE_BOOT b (s.inactivePlane b)) = 0 ∧
        (t.block b).pw.any (fun r => r.nframes == bits (h.getD 0 0) 48 12 && r.done == 0 && r.key == key) = true ∧
        t.mem = u.mem ∧ ∀ f : Fld, f.key ≠ (FAB.PLANE_STATE b (s.inactivePlane b)).key →
          f.key ≠ (FAB.PLANE_BOOT b (s.inactivePlane b)).key → t.rd f = u.rd f) ∧
    (∀ up dev (r : PwRun) (l : List Nat) (u : State), (s.block b).pw = some r → r.header ≠ [] → r.done < r.nframes →
      s.ownWords (r.src + 16 * (8 + 17 * r.done)) 17 up dev = .ok (some l, u) →
      let raw := wordBytes l
      let ws := bytesWords 17 (if r.enc then ((r.opened (r.stored ++ raw)).1.drop (153 * r.done)).take 153 else raw)
      crc32c (toBytes 2 (bits (ws.getD 0 0) 0 16) ++ wordBytes (ws.drop 1)) = bits (ws.getD 0 0) 32 32 →
      (r.lastFa.all fun z => decide (z < bits (ws.getD 0 0) 0 11)) = true →
      ∃ t, exec (.pwFrame b (up, dev) false) s = .next t ∧
        t.rd (FAB.PW_STATUS_FRAMES b) = (r.done + 1) % 2 ^ (FAB.PW_STATUS_FRAMES b).width ∧
        (t.block b).pw.any (fun q => q.done == r.done + 1 && q.lastFa == some (bits (ws.getD 0 0) 0 11)) = true ∧
        t.mem = u.mem ∧ ∀ f : Fld, f.key ≠ (FAB.PW_STATUS_FRAMES b).key → t.rd f = u.rd f) ∧
    (∀ up dev blank (r : PwRun) (l : List Nat) (u : State), (s.block b).pw = some r → r.header ≠ [] → r.nframes ≤ r.done →
      r.isBlank blank = false → s.ownWords (r.src + 16 * (8 + 17 * r.nframes)) 8 up dev = .ok (some l, u) →
      let digest := Config.sha384 (wordBytes r.header ++ r.stored)
      digest = u.pwDigest b → ((List.range 6).map fun n => bits (l.getD n 0) 0 64 * 2 ^ (64 * n)).sum = digest →
      (r.enc = true → (r.opened r.stored).2 = bits (l.getD 6 0) 0 64 + 2 ^ 64 * bits (l.getD 7 0) 0 64) →
      ∃ t, exec (.pwComplete b (up, dev, blank)) s = .next t ∧ t.rd (FAB.PLANE_STATE b (u.inactivePlane b)) = 2 ∧
        t.rd (FAB.PW_STATUS_RESULT b) = 1 ∧ t.rd (FAB.PW_STATUS_BUSY b) = 0 ∧ (t.plane b (u.inactivePlane b)).frames = r.frames ∧
        t.pulses = u.pulses ++ [1024 + 4 * b + 1] ∧ t.mem = u.mem) ∧
    (s.flag (FAB.STATUS_ARMED b) = false →
      (s.rd (FAB.PLANE_STATE b (s.inactivePlane b)) ≠ 2 →
        exec (.arm b) s = .next (s.wrs [(FAB.STATUS_WR_IGN b, 1), (FAB.STATUS_IGN_WHY b, 2)])) ∧
      (s.rd (FAB.PLANE_STATE b (s.inactivePlane b)) = 2 → s.flag (FAB.PW_STATUS_BUSY b) = false →
        (s.pllActive (s.gangSource b)).above (s.pllActive (s.gangSource b)).fdiv (s.plane b (s.inactivePlane b)).fmax = false →
        exec (.arm b) s = .next (s.wr (FAB.STATUS_ARMED b) 1))) ∧
    ((s.block b).swap = .none → exec (.disarm b) s = .next (s.wr (FAB.STATUS_ARMED b) 0)) ∧
    (s.flag (FAB.STATUS_ARMED b) = true → s.blockBusy b = false → (s.block b).swap = .none →
      exec (.swap b) s = .next (s.modBlock b fun x => { x with swap := .scheduled })) ∧
    (s.flag (FAB.PW_STATUS_BUSY b) = false → s.flag (FAB.STATUS_ARMED b) = false → exec (.commit b) s = .next
      (((s.wrs [(FAB.PLANE_BOOT b (s.activePlane b), 1), (FAB.PLANE_GEN b (s.activePlane b),
        max (s.rd (FAB.PLANE_GEN b 0)) (s.rd (FAB.PLANE_GEN b 1)) + 1)]).modBlock b fun x => { x with committing := true }).pulse
          (1024 + 4 * b + 1)))

/-- Outside freeze. PLANE_SWAP of a scheduled swap with no caravan in the way: it runs, FAB BUSY 1 and RUN 0, the lane and
tap queues of the 8 tiles are empty. SWAP_COMPLETE of a running swap: the other plane is active, ARMED and BUSY 0, the
swap is over. LATCH_PARITY_ERROR of a frame (below 2048) of a loaded block: the frame waits for its reload, no
register differs. FRAME_RELOAD of it, good: it waits no more, CORR counts one, LAST_FA names it; bad: PLANE_ERR and
UNCONF, the plane BAD, the block unconfigured. With the tiles of the block running: FABRIC_PUSH into a queue below 16
appends v mod 2^32 and answers no QOVF, the level and FULL, then what the hardened units gave, into a full queue
nothing and QOVF; a use of a multiply-accumulate unit with ACC = P leaves it with the product of its operands modulo
2^64 and no OVF, one with ACC + P or ACC - P the sum or difference modulo 2^64 with OVF sticky; TAP_TAKE answers and
removes the oldest entry, FAB_CONDITION that changes FABk puts it to v with the old value remembered, of output 4 to 6
it puts user event k - 4 to v, of 7 to 12 the block's user I/O bit k - 7, PORT_B_ACCESS outside windows and ring and
without a collision reads the word with its error class, or replaces it. -/
def Obligations.SwapsAndTileHooks : Prop :=
  (∀ (s : State) (b : Nat), b < 32 → s.frozen = false → (s.block b).swap ∈ [.scheduled, .waiting] → s.swapDeferred b = false →
    ∃ t, exec (.planeSwap b false) s = .next t ∧ (t.block b).swap = .running ∧ t.rd (FAB.STATUS_BUSY b) = 1 ∧
      t.rd (FAB.STATUS_RUN b) = 0 ∧ t.rd (FAB.STATUS_SWAP_WAIT b) = 0 ∧ t.mem = s.mem ∧
      ∀ c ∈ blockCells b, (t.cell c).laneQ = [] ∧ (t.cell c).tapQ = []) ∧
  (∀ (s : State) (b : Nat), b < 32 → s.frozen = false → (s.block b).swap = .running → s.rd (FAB.STATUS_ACTIVE b) < 2 →
    ∃ t, exec (.swapComplete b) s = .next t ∧ t.rd (FAB.STATUS_ACTIVE b) = 1 - s.rd (FAB.STATUS_ACTIVE b) ∧
      t.rd (FAB.STATUS_ARMED b) = 0 ∧ t.rd (FAB.STATUS_BUSY b) = 0 ∧ (t.block b).swap = .none ∧ t.mem = s.mem) ∧
  (∀ (s : State) (b fa : Nat), (s.block b).loaded = true → (s.block b).swap ≠ .running → fa < 2048 →
    ∃ t, exec (.latchParityError b fa) s = .next t ∧ (t.block b).reload = (s.block b).reload ++ [fa] ∧ t.regs = s.regs ∧
      t.mem = s.mem) ∧
  (∀ (s : State) (b fa : Nat), b < 32 → fa ∈ (s.block b).reload →
    (∃ t, exec (.frameReload b fa false) s = .next t ∧ fa ∉ (t.block b).reload ∧
      t.rd (FAB.LATCH_CORR b) = satAdd (FAB.LATCH_CORR b).width (s.rd (FAB.LATCH_CORR b)) 1 ∧
      t.rd (FAB.LATCH_LAST_FA b) = fa % 2 ^ (FAB.LATCH_LAST_FA b).width ∧ t.mem = s.mem) ∧
    (∃ t, exec (.frameReload b fa true) s = .next t ∧ fa ∉ (t.block b).reload ∧ t.rd (FAB.STATUS_PLANE_ERR b) = 1 ∧
      t.rd (FAB.STATUS_UNCONF b) = 1 ∧ t.rd (FAB.PLANE_STATE b (s.activePlane b)) = 3 ∧ (t.block b).loaded = false ∧
      t.mem = s.mem)) ∧
  (∀ (s : State) (c v : Nat) (uses : List UnitOp), s.tilesRun (c / 8) = true →
    ∃ t, exec (.fabricPush c (v, uses)) s = .next t ∧ t.regs = s.regs ∧ t.mem = s.mem ∧
      ((s.cell c).laneQ.length < 16 → (t.cell c).laneQ = (s.cell c).laneQ ++ [v % 2 ^ 32] ∧
        t.answer = [0, (s.cell c).laneQ.length + 1, b2n ((s.cell c).laneQ.length + 1 == 16)] ++ (s.useUnits (c / 8) uses).1) ∧
      ((s.cell c).laneQ.length = 16 → (t.cell c).laneQ = (s.cell c).laneQ ∧
        t.answer = [1, 16, 1] ++ (s.useUnits (c / 8) uses).1)) ∧
  (∀ (s : State) (c v n a b op : Nat) (sa sb : Bool), s.tilesRun (c / 8) = true → n < 4 → op < 3 →
    let m := Tab.get Mac.reset (s.block (c / 8)).macs n
    let p := macOperand sa a * macOperand sb b
    let z := sext m.acc 64 + (if op = 1 then p else -p)
    ∃ t, exec (.fabricPush c (v, [.mac n a b sa sb op])) s = .next t ∧
      Tab.get Mac.reset (t.block (c / 8)).macs n = (if op = 0 then ⟨wrapInt p 64, false⟩
        else ⟨wrapInt z 64, m.ovf || decide (z < -2 ^ 63 ∨ 2 ^ 63 ≤ z)⟩)) ∧
  (∀ (s : State) (c : Nat) (e : TapE) (q : List TapE), s.tilesRun (c / 8) = true → (s.cell c).tapQ = e :: q →
    exec (.tapTake c) s = .next { s.modCell c fun x => { x with tapQ := q } with
      answer := [e.fbits + 2 ^ 32 * e.sc + 2 ^ 48 * b2n e.fc + 2 ^ 49 * b2n e.tmpl + 2 ^ 50 * b2n e.lost] }) ∧
  (∀ (s : State) (c k : Nat) (v : Bool), s.tilesRun (c / 8) = true → 4 ≤ k → k < 13 →
    ∃ t, exec (.fabCondition c k v) s = .next t ∧ t.regs = s.regs ∧ t.mem = s.mem ∧
      (k < 7 → bitOf (t.cell c).userEvt (k - 4) = v) ∧ (7 ≤ k → bitOf (t.block (c / 8)).userIo (k - 7) = v)) ∧
  (∀ (s : State) (c k : Nat) (v : Bool), s.tilesRun (c / 8) = true → k < 4 → bitOf (s.cell c).fab k ≠ v →
    ∃ t e, exec (.fabCondition c k v) s = .next t ∧ bitOf (t.cell c).fab k = v ∧ (t.cell c).fabOld.head? = some e ∧ e.k = k ∧
      e.old = !v ∧ t.regs = s.regs ∧ t.mem = s.mem) ∧
  (∀ (s : State) (c a v up : Nat), c < 256 → a < 8192 → s.tilesRun (c / 8) = true → s.xowOf c a = none → s.inRing c a = false →
    (∃ t, exec (.portBAccess c a v 0 up true) s = .next t ∧ t.readWord (padBase c + 16 * a) = v % 2 ^ 72 ∧
      t.regs = s.regs ∧ ∀ x, x < padBase c + 16 * a ∨ padBase c + 16 * a + 9 ≤ x → t.readByte x = s.readByte x) ∧
    (∃ t, exec (.portBAccess c a v 0 up false) s = .next t ∧ t.mem = s.mem ∧
      t.answer = [s.readFixed (padBase c + 16 * a), 0, b2n (decide (2 ≤ s.eccOf (padBase c + 16 * a) up))]))

/-- An access of register space that is not 4 or 8 aligned bytes in a unit's window answers DENIED (4) and changes nothing
else. So does one that the steward's own protection stops, or that the life-cycle state or a transition closes. In
DOZE and DORMANT it answers DOMAIN_OFF (9) and changes nothing else (the model's choice, log 131). One of a register
whose power domain is off or revoked answers DOMAIN_OFF, counted in the toll of its master; in the compatibility mode
it waits. One that is served: to an address of a window where no register is assigned, a write (outside the APG
window) answers OK and a read OK with 0, and nothing else changes. A write reaches a field by its type: RW takes the
written bits, RWL ignores them once it is 1, W1C clears the bits written 1, RO, RC and WO keep their value. Two
registers in full: an 8-byte write of PLL.TRACK of block 0 puts RAMP and CLAMP_PPM; an 8-byte read of PLL.LOL of block
0 answers COUNT, CAUSE and DET and clears COUNT alone. -/
def Obligations.RegisterAccess : Prop :=
  (∀ (s : State) (m a n v : Nat), regAccessOk a n = false → exec (.registerWrite m a n v) s = .next { s with answer := [4] }) ∧
  (∀ (s : State) (a n : Nat), regAccessOk a n = false → exec (.readClear a n) s = .next { s with answer := [4] }) ∧
  (∀ (s : State) (m k a n v : Nat) (i : Instr), regAccessOk a n = true → (i = .registerWrite m a n v ∧ k = 1 ∨ i = .readClear a n ∧ k = 0 ∧ m = 0) →
    (s.pmpStops m k a (a + 7) = true → exec i s = .next { s with answer := [4] }) ∧
    (s.pmpStops m k a (a + 7) = false → s.power.sleep ≠ 1 →
      (s.lcOpen m (targetOf a) a = false → exec i s = .next { s with answer := [4] }) ∧
      (s.lcOpen m (targetOf a) a = true →
        (2 ≤ s.power.sleep → exec i s = .next { s with answer := [9] }) ∧
        (s.power.sleep = 0 → s.domainOff (targetOf a) = true →
          (s.flag PWR.CTRL_LEGACY_WAKE = false → exec i s =
            .next { s.count (NOC.TOLL_D_DOMAIN_OFF m) 1 with answer := [9] }) ∧
          (s.flag PWR.CTRL_LEGACY_WAKE = true → s.net.waiting.any (regReq m a).same = false →
            exec i s = .next { s with net := { s.net with waiting := s.net.waiting ++ [regReq m a] } }))))) ∧
  (∀ (s : State) (m a n v : Nat), regAccessOk a n = true → regAt (a / 8 * 8) = none →
    (apgWindow (a / 8 * 8) = none → s.regOpen m a = true → exec (.registerWrite m a n v) s = .next { s with answer := [0] }) ∧
    (s.regOpen 0 a 0 = true → exec (.readClear a n) s = .next { s with answer := [0, 0] })) ∧
  (∀ (s : State) (r : RegRef) (mask v : Nat) (f : FInfo), s.fieldHeld r.k f = false →
    (f.ty = .rw → (s.putField r mask v f).rd f.fld = s.merged f.fld mask v % 2 ^ f.fld.width) ∧
    (f.ty = .rwl → s.rd f.fld = 1 → s.putField r mask v f = s) ∧
    (f.ty = .w1c → (s.putField r mask v f).rd f.fld =
      Nat.land (s.rd f.fld) (notW (bits (Nat.land mask v) f.fld.lsb f.fld.width) f.fld.width) % 2 ^ f.fld.width) ∧
    (f.ty ∈ [.ro, .rc, .wo] → s.putField r mask v f = s)) ∧
  (∀ (s : State) (m v : Nat), v < 2 ^ 64 → s.regOpen m (blockBase 0 + 0x8020) = true →
    ∃ t, exec (.registerWrite m (blockBase 0 + 0x8020) 8 v) s = .next t ∧ t.answer = [0] ∧
    t.mem = s.mem ∧ t.rd (PLL.TRACK_RAMP 0) = bits v (PLL.TRACK_RAMP 0).lsb (PLL.TRACK_RAMP 0).width ∧
    t.rd (PLL.TRACK_CLAMP_PPM 0) = bits v (PLL.TRACK_CLAMP_PPM 0).lsb (PLL.TRACK_CLAMP_PPM 0).width) ∧
  (∀ s : State, s.regOpen 0 (blockBase 0 + 0x8060) 0 = true → ∃ t, exec (.readClear (blockBase 0 + 0x8060) 8) s = .next t ∧
    t.answer = [0, s.rd (PLL.LOL_COUNT 0) + s.rd (PLL.LOL_CAUSE 0) * 2 ^ 32 + s.rd (PLL.LOL_DET 0) * 2 ^ 48] ∧
    t.rd (PLL.LOL_COUNT 0) = 0 ∧ t.rd (PLL.LOL_CAUSE 0) = s.rd (PLL.LOL_CAUSE 0) ∧ t.mem = s.mem)

/-- Outside freeze. REQUEST_ISSUE, in a state that is not DOZE or DORMANT, of a request q with no request of its tag
waiting that the steward's own protection lets out and that passes every check of R302 (and, a host read, passes no
host write: R444) with a route (of a fabric master, while its block's tiles run, of a steward, while no fault holds
it; one that is held issues nothing): q is last in flight with its interface's tariff, and its packet is counted. One
that the checks of access refuse: answer DENIED, one more violation, the network as before. For a request in flight:
it goes the rest of its way, which leaves the state u; where it arrives there, well-formed, as q at scratchpad c (no
raw access, no execute-only word, no stored error): RD answers OK with the words of its slots in order, RDP the bytes
that BYTE_EN selects, no memory or register differing; WR that touches no ring word puts each data word modulo 2^72
into its slot and leaves every other byte; WRP puts the selected bytes of bytes 0 to 8 into its slot and leaves the
others. The response waits in u's network and q is in flight no more. -/
def Obligations.NetworkRequests : Prop :=
  (∀ (s : State) (i tag subid kind addr len bytes : Nat) (data : List Nat) (fetch : Bool) (q : Req), s.frozen = false →
    s.net.waiting.find? (·.is i tag) = none →
    q = { init := i, tag := tag, subid := subid, kind := if kind = 0 then .rd else if kind = 1 then .wr else if kind = 2 then .rdp else .wrp,
          addr := addr, len := if 2 ≤ kind then 1 else len, bytes := bytes, data := data, fetch := fetch } →
    q.wellFormed = true → s.pmpStops i q.access q.firstByte q.lastByte = false → s.lcServes q = true → (45 ≤ i → i < 61 → s.tilesRun (masterBlock i) = true) →
    (i < 4 → bitOf (s.rd FLT.STW_FAULTED) i = false) →
    (s.accessReason i q.access q.firstByte q.lastByte = 0 → s.domainOff q.target = false →
      s.held i q.target.berth < s.rd (NOC.BERTH_GRANT i q.target.berth.1) →
      (s.outstanding.filter fun e => e.init == i).length < responseSlots i → s.inOrder q = true → s.power.sleep < 2 → s.routeHeldBack q = false → s.routed q.target = true →
      ∃ t, exec (.requestIssue i tag subid kind addr len bytes data fetch) s = .next t ∧
        t.net.flight = s.net.flight ++ [{ q with tariff := s.tariffOf i, hop := 0 }] ∧
        t.rd (NOC.TOLL_B_PACKETS i) = satAdd (NOC.TOLL_B_PACKETS i).width (s.rd (NOC.TOLL_B_PACKETS i)) 1 ∧
        t.net.rsps = s.net.rsps ∧ t.mem = s.mem) ∧
    (s.accessReason i q.access q.firstByte q.lastByte ≠ 0 → ∃ t,
      exec (.requestIssue i tag subid kind addr len bytes data fetch) s = .next t ∧ t.answer = [4] ∧ t.net = s.net ∧
      t.rd MPR.VIOL_COUNT_COUNT = satAdd MPR.VIOL_COUNT_COUNT.width (s.rd MPR.VIOL_COUNT_COUNT) 1 ∧ t.mem = s.mem)) ∧
  (∀ (s : State) (i tag subid kind addr len bytes : Nat) (data : List Nat) (fetch : Bool), i < 4 → bitOf (s.rd FLT.STW_FAULTED) i = true →
    exec (.requestIssue i tag subid kind addr len bytes data fetch) s = .next s) ∧
  (∀ (s u : State) (i tag dev c : Nat) (k : ReqKind) (q : Req), s.frozen = false → s.reach i tag = u →
    (s.inFlightReq i tag k).isSome = true → u.inFlightReq i tag k = some q →
    q.wellFormed = true → q.target = .pad c → s.rawMode (.pad c) = false → (∀ a ∈ q.slots, s.xoWord c a = false) →
    (∀ a ∈ q.slots, s.eccOf a 0 = 0) →
    (k = .rd → ∃ t, exec (.rd i tag 0 dev) s = .next t ∧ t.net.rsps = u.net.rsps ++ [⟨q, 0, q.slots.map s.readWord⟩] ∧
      t.net.flight = u.net.flight.erase q ∧ t.mem = s.mem ∧ t.regs = s.regs) ∧
    (k = .rdp → ∃ t, exec (.rdp i tag 0 dev) s = .next t ∧
      t.net.rsps = u.net.rsps ++ [⟨q, 0, [keepBytes q.bytes (s.readWord q.addr)]⟩] ∧
      t.net.flight = u.net.flight.erase q ∧ t.mem = s.mem ∧ t.regs = s.regs) ∧
    (k = .wr → (∀ a ∈ q.slots, s.ringWord c a = false) → ∃ t, exec (.wr i tag 0 dev) s = .next t ∧
      t.net.rsps = u.net.rsps ++ [⟨q, 0, []⟩] ∧ t.net.flight = u.net.flight.erase q ∧ t.regs = s.regs ∧
      (∀ j, j < q.len → t.readWord (q.addr + 16 * j) = q.data.getD j 0 % 2 ^ 72) ∧
      ∀ b, b < q.addr ∨ q.addr + 16 * q.len ≤ b → t.readByte b = s.readByte b) ∧
    (k = .wrp → (∀ a ∈ q.slots, s.ringWord c a = false) → ∃ t, exec (.wrp i tag 0 dev) s = .next t ∧
      t.net.rsps = u.net.rsps ++ [⟨q, 0, []⟩] ∧ t.net.flight = u.net.flight.erase q ∧ t.regs = s.regs ∧
      (∀ j, j < 9 → t.readByte (q.addr + j) = if bitOf q.bytes j then bits (q.data.getD 0 0) (8 * j) 8 else s.readByte (q.addr + j)) ∧
      ∀ b, b < q.addr ∨ q.addr + 9 ≤ b → t.readByte b = s.readByte b))

/-- RSP_DATA, RSP_ACK and RSP_ERR outside freeze hand the first response of their kind that its initiator still awaits, no
earlier one of its target outstanding (R301), to it: answer status and data, the response gone. RESPONSE_TIMEOUT of an
outstanding request of a steward or the host: answer FAULT (5), its late response to be discarded, or, where its
packet was lost, its berth alone held on. COMPAT_WAKE_TIMEOUT of a request that waits for its domain: answer FAULT,
and it waits no more. A register row acts where its access is served. LINK_REPLAY outside freeze on a link of a moving
packet, of a unit of it: the answer is the packet's units there, and error-free reception changes nothing else; a
single-bit error counts CORR alone, a detected one whose replay is clean RETRY alone, and one whose replay fails too
counts POISON and answers a request whose waybill is intact with status 6. A narrow unit holds payload, TYPE, LAST
and, in [87:83], the CRC-5 of [82:0]. RECFG_CLOSE in OPEN with differing tables: STATE 1, the differing entries
affected; in another state WR_IGN alone. DRAINED in STATE 1 outside freeze: STATE 2, RT_ACT the staged table, the
affected packets arrived. RECFG_OPEN with none held: STATE 0. BERTH_GRANT_WRITE by a steward that lowers a grant
writes it alone, by a master above 3 sets WR_IGN alone. TOLL_CLEAR resets the toll registers alone. MPR_WRITE of an
unlocked region by a steward merges BASE or LIMIT; of a locked one WR_IGN alone. -/
def Obligations.NetworkResponsesAndRoutes : Prop :=
  (∀ (s : State) (i tag lat : Nat) (r : Rsp) (c : Instr × (Rsp → Bool)), s.frozen = false → i < 13 →
    c ∈ [(Instr.rspData i tag lat, fun r => (r.status == 0 || r.status == 8) && r.req.access != 1),
      (.rspAck i tag lat, fun r => r.status == 0 && r.req.access == 1),
      (.rspErr i tag lat, fun r => r.status != 0 && r.status != 8)] →
    (s.net.rsps.find? fun e => e.req.is i tag && c.2 e) = some r → s.mayReturn r = true →
    s.timedOut r.req = false → s.net.orphans.any r.req.same = false → ∃ t, exec c.1 s = .next t ∧ t.answer = r.status :: r.data ∧ t.net.rsps = s.net.rsps.erase r ∧ t.mem = s.mem) ∧
  (∀ (s : State) (i tag : Nat) (q : Req), s.frozen = false → i < 13 →
    (s.outstanding.find? fun e => e.is i tag && s.expected e) = some q →
    ∃ t, exec (.responseTimeout i tag) s = .next t ∧ t.answer = [5] ∧
      (q ∉ s.net.lost → t.net.dead = s.net.dead ++ [q] ∧ t.net.lost = s.net.lost) ∧
      (q ∈ s.net.lost → t.net.dead = s.net.dead ∧ t.net.lost = s.net.lost.erase q ∧ t.net.gone = s.net.gone ++ [q]) ∧
      t.rd (NOC.TOLL_D_FAULT i) = satAdd (NOC.TOLL_D_FAULT i).width (s.rd (NOC.TOLL_D_FAULT i)) 1 ∧ t.mem = s.mem) ∧
  (∀ (s : State) (i tag : Nat) (q : Req), i < 13 → (s.net.waiting.find? fun e => e.is i tag && s.domainOff e.target) = some q →
    ∃ t, exec (.compatWakeTimeout i tag) s = .next t ∧ t.answer = [5] ∧
      t.net.waiting = (s.net.waiting.filter fun e => !q.same e) ∧ t.mem = s.mem) ∧
  (∀ (s : State) (k i tag u e e2 : Nat) (m : Moving), s.frozen = false → s.moving i tag = some m → k ∈ links i m.req.target →
    u < (m.packet.units k).length → ∃ t, exec (.linkReplay k i tag ⟨u, e, e2⟩) s = .next t ∧ t.answer = m.packet.units k ∧ t.mem = s.mem ∧
    (unitClass k e = 0 → t = { s with answer := m.packet.units k }) ∧
    (unitClass k e = 1 → t = { s.count (NOC.LINK_CORR k) 1 with answer := m.packet.units k }) ∧
    (unitClass k e = 2 → unitClass k e2 = 0 → t = { s.count (NOC.LINK_RETRY k) 1 with answer := m.packet.units k }) ∧
    (unitClass k e = 2 → unitClass k e2 = 2 →
      t.rd (NOC.LINK_POISON k) = satAdd (NOC.LINK_POISON k).width (s.rd (NOC.LINK_POISON k)) 1 ∧
      ∀ q, m = .request q → waybillHit k u e2 = false →
        t.net.flight = s.net.flight.erase q ∧ t.net.rsps = s.net.rsps ++ [⟨q, 6, []⟩])) ∧
  (∀ (p ty : Nat) (last : Bool), p < 2 ^ 72 → ty < 4 →
    bits (narrowUnit p ty last) 0 72 = p ∧ bits (narrowUnit p ty last) 72 2 = ty ∧ bits (narrowUnit p ty last) 74 1 = b2n last ∧
    bits (narrowUnit p ty last) 83 5 = crc5 (bits (narrowUnit p ty last) 0 83)) ∧
  (∀ s : State, s.regOpen 0 NOC.RECFG_CLOSE.addr = true → (s.rd NOC.RECFG_STATE ≠ 0 → exec .recfgClose s = .next (s.wr NOC.STATUS_WR_IGN 1)) ∧
    (s.rd NOC.RECFG_STATE = 0 → s.rtStage ≠ s.rd NOC.RT_ACT_V → ∃ t, exec .recfgClose s = .next t ∧ t.rd NOC.RECFG_STATE = 1 ∧
      t.net.affected = Nat.xor s.rtStage (s.rd NOC.RT_ACT_V) ∧ t.rd NOC.RT_ACT_V = s.rd NOC.RT_ACT_V ∧ t.mem = s.mem)) ∧
  (∀ (s : State) (cyc : Nat), s.frozen = false → s.rd NOC.RECFG_STATE = 1 → ∃ t, exec (.drained cyc) s = .next t ∧ t.rd NOC.RECFG_STATE = 2 ∧
    t.rd NOC.RT_ACT_V = s.rtStage % 2 ^ NOC.RT_ACT_V.width ∧ t.rd NOC.RECFG_DRAINED_EVT = 1 ∧ t.net = s.reachAffected.net ∧ t.mem = s.mem) ∧
  (∀ s : State, s.regOpen 0 NOC.RECFG_OPEN.addr = true → s.rd NOC.RECFG_STATE = 2 → s.net.held = [] → ∃ t, exec .recfgOpen s = .next t ∧ t.rd NOC.RECFG_STATE = 0 ∧
    t.net.affected = 0 ∧ t.net.flight = s.net.flight ∧ t.mem = s.mem) ∧
  (∀ (s : State) (m i c mask v : Nat), c ≠ 10 → s.regOpen m (NOC.BERTH_GRANT i c).addr = true →
    (4 ≤ m → exec (.berthGrantWrite m i c mask v) s = .next (s.wr NOC.STATUS_WR_IGN 1)) ∧
    (m < 4 → s.merged (NOC.BERTH_GRANT i c) mask v ≤ s.rd (NOC.BERTH_GRANT i c) → exec (.berthGrantWrite m i c mask v) s =
      .next (s.wr (NOC.BERTH_GRANT i c) (s.merged (NOC.BERTH_GRANT i c) mask v)))) ∧
  (∀ s : State, s.regOpen 0 NOC.TOLL_CTRL_CLEAR.addr = true → ∃ t, exec .tollClear s = .next t ∧ t = { s with regs := t.regs } ∧
    (∀ f : Fld, 64 * 0x610000 ≤ f.key → f.key < 64 * 0x614400 → t.rd f = f.reset % 2 ^ f.width) ∧
    ∀ f : Fld, f.key < 64 * 0x610000 ∨ 64 * 0x614400 ≤ f.key → t.rd f = s.rd f) ∧
  (∀ (s : State) (m g n mask v : Nat), m < 4 → g ≠ 61 → s.regOpen m (MPR.BASE_BASE g n).addr = true →
    (s.flag (MPR.BASE_LOCK g n) = true → ∀ w, exec (.mprWrite m g n w mask v) s = .next (s.wr MPR.STATUS_WR_IGN 1)) ∧
    (s.flag (MPR.BASE_LOCK g n) = false → exec (.mprWrite m g n 1 mask v) s =
      .next (s.wr (MPR.LIMIT_LIMIT g n) (s.merged (MPR.LIMIT_LIMIT g n) mask v)) ∧
      ∃ t, exec (.mprWrite m g n 0 mask v) s = .next t ∧ t.mem = s.mem ∧ ∀ f ∈ [MPR.BASE_BASE g n, MPR.BASE_EN g n,
        MPR.BASE_R g n, MPR.BASE_W g n, MPR.BASE_X g n, MPR.BASE_XO g n, MPR.BASE_LOCK g n], t.rd f = s.merged f mask v))

/-- For channel r below 4 whose registers are served. DDR_TRAIN of a powered region's channel in OFF or FAILED with a
legal RATE and DENSITY: TRAINING, WHY 0, CAP 0; in another state WR_IGN alone. TRAINING_DONE in TRAINING: with success
READY and CAP the capacity of R286, else FAILED with WHY as given (below 8) and EVT. DDR_REFRESH in READY counts one
refresh alone. PATROL_SCRUB in READY with scrubbing on, the next burst free of error: the position moves on by one
burst, and at the end of the channel returns to 0 with PASSES one more. DDR_TEMP_POLL in READY writes TEMP_HI alone.
DDR_LINK_ERROR in READY: n below 3 errors count n (at most 2) retries alone; 3 or more: FAILED, WHY 7, EVT, and the
fault 0x10 is reported with the caravans that use the channel. -/
def Obligations.DdrChannels : Prop :=
  ∀ (s : State) (r : Nat), r < 4 → s.regOpen 0 (DDR.CTRL_TRAIN r).addr = true →
    (s.regionOn r = true → s.rd (DDR.STATUS_STATE r) = ddrOff ∨ s.rd (DDR.STATUS_STATE r) = ddrFailed → s.rd (DDR.CFG_RATE r) ≠ 3 →
      s.rd (DDR.CFG_DENSITY r) ≠ 3 → exec (.ddrTrain r) s = .next (s.wrs [(DDR.STATUS_STATE r, ddrTraining), (DDR.CAP_WORDS r, 0),
        (DDR.STATUS_WHY r, 0)])) ∧
    (s.regionOn r = true → s.rd (DDR.STATUS_STATE r) ≠ ddrOff → s.rd (DDR.STATUS_STATE r) ≠ ddrFailed →
      exec (.ddrTrain r) s = .next (s.wr (DDR.STATUS_WR_IGN r) 1)) ∧
    (s.rd (DDR.STATUS_STATE r) = ddrTraining → exec (.trainingDone r 0) s =
      .next (s.wrs [(DDR.STATUS_STATE r, ddrReady), (DDR.CAP_WORDS r, s.ddrCapacity r)])) ∧
    (∀ why, s.rd (DDR.STATUS_STATE r) = ddrTraining → why ≠ 0 → exec (.trainingDone r why) s =
      .next (s.wrs [(DDR.STATUS_STATE r, ddrFailed), (DDR.CAP_WORDS r, 0), (DDR.STATUS_WHY r, why), (DDR.STATUS_EVT r, 1)])) ∧
    (s.rd (DDR.STATUS_STATE r) = ddrReady →
      exec (.ddrRefresh r) s = .next (s.modRegion r fun x => { x with refreshes := x.refreshes + 1 }) ∧
      (∀ hot, exec (.ddrTempPoll r hot) s = .next (s.wr (DDR.STATUS_TEMP_HI r) (b2n hot))) ∧
      (∀ dev, s.rd (DDR.SCRUB_HOURS r) ≠ 0 → s.rd (DDR.CAP_WORDS r) ≠ 0 →
          (∀ w, w < 8 → s.eccOf (ddrBase r + 16 * (8 * (s.region r).patrol + w)) 0 = 0) →
        (8 * ((s.region r).patrol + 1) < s.rd (DDR.CAP_WORDS r) →
          exec (.patrolScrub r 0 dev) s = .next (s.modRegion r fun x => { x with patrol := (s.region r).patrol + 1 })) ∧
        (s.rd (DDR.CAP_WORDS r) ≤ 8 * ((s.region r).patrol + 1) → exec (.patrolScrub r 0 dev) s =
          .next ((s.modRegion r fun x => { x with patrol := 0 }).wr (DDR.SCRUB_PASSES r) (s.rd (DDR.SCRUB_PASSES r) + 1)))) ∧
      (∀ kind n, n < 3 → exec (.ddrLinkError r kind n) s =
        .next (s.count (if kind = 0 then DDR.RETRY_WCRC r else DDR.RETRY_CAPAR r) (min n 2))) ∧
      (∀ kind n, 3 ≤ n → ∃ t, exec (.ddrLinkError r kind n) s = .next t ∧ t.rd (DDR.STATUS_STATE r) = ddrFailed ∧
        t.rd (DDR.STATUS_WHY r) = 7 ∧ t.rd (DDR.STATUS_EVT r) = 1 ∧ t.rd (DDR.CAP_WORDS r) = 0 ∧
        (t.faultQ.getLast?.map (·.code)) = some 0x10 ∧ t.mem = s.mem))

/-- Outside freeze. FAIL_QUEUE_RELEASE of a cell without suspicion: the oldest held record leaves exactly when the caravan
is not RUNNING or SC has reached s + 16 (R221). MERGER_TAKE with room: the item at the head of the round-robin choice
moves to the merger. ENGINE_APPLY of a record, no update waiting at the interface: it leaves the merger, RECORDS
counts it; with LEN and CTRL.EN its update is issued to the home of its key: it waits for a berth or slot, or is in
flight; where the home's region is off it ends there and the record goes on to its account, not NEW; else, with AEN,
AV and an account in range, it goes to its account, else no further. LUPD of the update that has arrived first at its
home, of a cached bucket without error: a live entry of the key gains the record's flags and one COUNT; without one,
the lowest empty slot takes the record; the answer tells NEW. RSP_ACK of that answer: the update is over and its
record goes to its account with NEW as told. ACCOUNT_UPDATE without error: a disabled account or another site counts
ACCT_MISS alone; a VOID record sets VOIDHIT; a new failure updates the account as R235 says; another leaves it. -/
def Obligations.LedgerQueuesAndUpdates : Prop :=
  (∀ (s : State) (c : Nat) (r : FailRec), s.frozen = false → (s.cell c).failQ[(s.cell c).released]? = some (.record r) →
    (s.cell c).suspectSC = none → exec (.failQueueRelease c) s =
      .next (if s.enabled c = true ∧ s.cvState c = stRunning ∧ s.rd (SEQ.SC_SC (s.leadOf c)) < r.sc + 16 then s
        else s.modCell c fun x => { x with released := x.released + 1 })) ∧
  (∀ (s : State) (b c : Nat) (i : QItem) (rest : List QItem), s.frozen = false → recordCount (s.block b).merger < 1024 →
    s.mergerPick b = some c → (s.cell c).failQ = i :: rest →
    ∃ t, exec (.mergerTake b) s = .next t ∧ (t.cell c).failQ = rest ∧ (t.block b).merger = (s.block b).merger ++ [i] ∧
      (t.block b).mergerRR = (c + 1) % 8 ∧ t.regs = s.regs ∧ t.mem = s.mem ∧ ∀ d, d ≠ c → t.cell d = s.cell d) ∧
  (∀ (s : State) (r b l : Nat) (x : FailRec) (rest : List QItem) (u : Upd) (q : Req), r < 4 → s.frozen = false →
    s.net.waiting.find? (fun e => e.init == 64 + r) = none → s.enginePick r = some b → (s.block b).merger = .record x :: rest →
    l = x.cell - x.member → q = lupReq (s.ledgerHome x) u →
    u = ⟨(s.region r).nextEid, r, x, x.av && s.flag (LDG.CVCFG_AEN r (l % 64)) && decide ((s.acctRange l).1 ≤ x.acct) &&
      decide (x.acct < (s.acctRange l).2), true⟩ →
    ∃ t, exec (.engineApply r) s = .next t ∧ (t.block b).merger = rest ∧ t.mem = s.mem ∧
      t.rd (LDG.RECORDS_COUNT r) = satAdd (LDG.RECORDS_COUNT r).width (s.rd (LDG.RECORDS_COUNT r)) 1 ∧
      (s.flag (LDG.CVCFG_LEN r (l % 64)) = true → s.flag (LDG.CTRL_EN 0) = true → s.lcServes q = true →
        (s.domainOff q.target = false → s.rd (NOC.BERTH_GRANT q.init q.target.berth.1) ≠ 0 → s.power.sleep < 2 →
          (t.region r).sent = (s.region r).sent ++ [u] ∧ (t.region r).acctQ = (s.region r).acctQ ∧
          (s.mayIssue q = false → t.net.flight = s.net.flight ∧
            (s.net.waiting.any q.same = false → t.net.waiting = s.net.waiting ++ [q])) ∧
          (s.mayIssue q = true → s.routeHeldBack q = false → s.routed q.target = true →
            t.net.flight = s.net.flight ++ [{ q with tariff := s.tariffOf q.init, hop := 0 }])) ∧
        (s.domainOff q.target = true → s.flag PWR.CTRL_LEGACY_WAKE = false → (∀ v ∈ (s.region r).sent, v.eid ≠ u.eid) →
          (t.region r).sent = (s.region r).sent ∧
          (t.region r).acctQ = (s.region r).acctQ ++ (if u.acct then [{ u with fresh := false }] else []))) ∧
      (s.flag (LDG.CVCFG_LEN r (l % 64)) = false ∨ s.flag (LDG.CTRL_EN 0) = false →
        t.net = s.net ∧ (t.region r).sent = (s.region r).sent ∧
        (t.region r).acctQ = (s.region r).acctQ ++ (if u.acct then [u] else []))) ∧
  (∀ (s : State) (h b dev key lost : Nat) (victim : Victim) (q : Req) (x : FailRec) (ws : List Nat), h < 4 →
    s.frozen = false → s.updateAt h = some q → x = FailRec.ofWords q.data → b = s.bucketOf x.key →
    (Tab.get Line.none (s.region h).cache b).words = ws → s.inCache h b = true → key = x.key + 2 ^ 50 * (x.member % 64) →
    (∀ k, s.findEntry ws key = some k → ∃ t, exec (.lupd h victim 0 dev lost) s = .next t ∧ t.mem = s.mem ∧
      Tab.get Line.none (t.region h).cache b = ⟨(ws.set (2 * k) (Nat.lor (ws.getD (2 * k) 0) x.flags)).set (2 * k + 1)
        (setField (Nat.lor (ws.getD (2 * k + 1) 0) (bits x.fbits 0 32)) 48 16
          (satAdd 16 (bits (ws.getD (2 * k + 1) 0) 48 16) 1)), true⟩ ∧
      t.net.flight = s.net.flight.erase q ∧ t.net.rsps = s.net.rsps ++ [⟨q, 0, [0]⟩]) ∧
    (∀ k, s.findEntry ws key = none → s.freeEntry ws = some k → ∃ t, exec (.lupd h victim 0 dev lost) s = .next t ∧
      t.mem = s.mem ∧ Tab.get Line.none (t.region h).cache b =
        ⟨(ws.set (2 * k) (key + 2 ^ 56 * s.rd (LDG.SITE_EPOCH 0 x.site) + 2 ^ 64 + x.flags)).set (2 * k + 1)
          (bits x.fbits 0 32 + 2 ^ 32 * (x.tag % 65536) + 2 ^ 48), true⟩ ∧
      t.net.flight = s.net.flight.erase q ∧ t.net.rsps = s.net.rsps ++ [⟨q, 0, [1]⟩])) ∧
  (∀ (s : State) (r lat new : Nat) (u : Upd) (q : Req), r < 4 → s.frozen = false → q.kind = .lupd → q.init = 64 + r →
    (s.net.rsps.find? fun e => e.req.is (64 + r) u.eid && (e.status == 0 && e.req.access == 1)) = some ⟨q, 0, [new]⟩ →
    s.mayReturn ⟨q, 0, [new]⟩ = true → s.timedOut q = false → s.net.orphans.any q.same = false →
    ((s.region r).sent.find? fun v => v.eid == u.eid) = some u →
    ∃ t, exec (.rspAck (64 + r) u.eid lat) s = .next t ∧ t.mem = s.mem ∧ (t.region r).sent = (s.region r).sent.erase u ∧
      (t.region r).acctQ = (s.region r).acctQ ++ (if u.acct then [{ u with fresh := new == 1 }] else [])) ∧
  (∀ (s p : State) (r : Nat) (u : Upd) (rest : List Upd) (ws : List Nat) (a : Acct), s.frozen = false →
    (s.region r).acctQ = u :: rest → (∀ w, w < 8 → s.eccOf (acctAddr r u.r.acct + 16 * w) 0 = 0) →
    ws = s.readWords (acctAddr r u.r.acct) 8 → a = Acct.ofWords ws → p = s.modRegion r (fun x => { x with acctQ := rest }) →
    (a.en = false ∨ a.site ≠ u.r.site → exec (.accountUpdate r 0) s = .next (p.count (LDG.ACCT_MISS_COUNT r) 1)) ∧
    (a.en = true → a.site = u.r.site →
      (u.r.voidf = true → exec (.accountUpdate r 0) s =
        .next (p.writeWords (acctAddr r u.r.acct) ({ a with voidhit := true }.putWords ws))) ∧
      (u.r.voidf = false → u.fresh = true → exec (.accountUpdate r 0) s =
        .next (p.writeWords (acctAddr r u.r.acct) ((a.update u.r.x u.r.y).putWords ws))) ∧
      (u.r.voidf = false → u.fresh = false → exec (.accountUpdate r 0) s = .next p)))

/-- Of registers that are served: DRAIN or ALLOC of an index that leads no enabled caravan: LDG.STATUS.WR_IGN of the
region sets, nothing else changes. DRAIN of a lead: CVST.DRAIN = 1, and one drain more waits for a marker of every
member. DRAIN_COMPLETE where no drain of the caravan is ready: nothing changes; where one is, and no ready one is an
ALLOC: DRAIN = 0, DRAIN_DONE = 1, the ready drains gone. ALLOC of a lead without a pass: ALLOC_BUSY = 1 and a pass
over the caravan's account range begins; with one: it is held, one deep. ALLOCATE_ACCOUNT of a pass, no error at the
account, outside freeze: an account with EN = 1 and the site of the pass gets the allocation of R236, another is not
touched; the pass moves on. ALLOCATION_PASS_END of a finished pass with none held: ALLOC_BUSY = 0, ALLOC_DONE = 1 and
the two counts. -/
def Obligations.DrainsAndAllocationPasses : Prop :=
  (∀ (s : State) (l : Nat), s.isLead l = false →
    (s.regOpen 0 (LDG.CVST_DRAIN (regionOf l) (l % 64)).addr = true → exec (.drain l) s = .next (s.wr (LDG.STATUS_WR_IGN (regionOf l)) 1)) ∧
    (s.regOpen 0 (LDG.CVST_ALLOC (regionOf l) (l % 64)).addr = true → exec (.alloc l) s = .next (s.wr (LDG.STATUS_WR_IGN (regionOf l)) 1))) ∧
  (∀ (s : State) (l : Nat), s.isLead l = true → s.regOpen 0 (LDG.CVST_DRAIN (regionOf l) (l % 64)).addr = true → ∃ t, exec (.drain l) s = .next t ∧
    t.rd (LDG.CVST_DRAIN (regionOf l) (l % 64)) = 1 ∧ (t.region (regionOf l)).drains = (s.region (regionOf l)).drains ++
      [⟨(s.region (regionOf l)).nextEid, l, s.members l, false, []⟩] ∧ t.mem = s.mem ∧
    ∀ c ∈ s.members l, (s.region (regionOf l)).nextEid ∈ markerIds (t.cell c).failQ ∧
      recordCount (t.cell c).failQ = recordCount (s.cell c).failQ) ∧
  (∀ (s : State) (l : Nat) (done : List Drain),
    done = (s.region (regionOf l)).drains.filter (fun d => d.lead == l && s.drainReady (regionOf l) d) →
    (done = [] → exec (.drainComplete l) s = .next s) ∧
    (done ≠ [] → (∀ d ∈ done, d.alloc = false) → ∃ t, exec (.drainComplete l) s = .next t ∧
      t.rd (LDG.CVST_DRAIN (regionOf l) (l % 64)) = 0 ∧ t.rd (LDG.CVST_DRAIN_DONE (regionOf l) (l % 64)) = 1 ∧
      (∀ d ∈ done, d ∉ (t.region (regionOf l)).drains) ∧ (t.region (regionOf l)).passes = (s.region (regionOf l)).passes ∧ t.mem = s.mem)) ∧
  (∀ (s : State) (l : Nat), s.isLead l = true → s.regOpen 0 (LDG.CVST_ALLOC (regionOf l) (l % 64)).addr = true →
    ((s.region (regionOf l)).passes.any (fun p => p.lead == l) = false → exec (.alloc l) s =
      .next ((s.wr (LDG.CVST_ALLOC_BUSY (regionOf l) (l % 64)) 1).modRegion (regionOf l) fun x =>
        { x with passes := x.passes ++ [⟨l, (s.acctRange l).1, (s.acctRange l).2, s.siteOf l, 0, 0, false⟩] })) ∧
    ((s.region (regionOf l)).passes.any (fun p => p.lead == l) = true → exec (.alloc l) s =
      .next (s.modRegion (regionOf l) fun x => { x with passes := x.passes.map fun p => if p.lead = l then { p with held := true } else p }))) ∧
  (∀ (s : State) (l : Nat) (p : AllocPass) (ws : List Nat), s.frozen = false →
    (s.region (regionOf l)).passes.find? (fun p => p.lead == l) = some p → p.next < p.stop →
    (∀ w, w < 8 → s.eccOf (acctAddr (regionOf l) p.next + 16 * w) 0 = 0) → ws = s.readWords (acctAddr (regionOf l) p.next) 8 →
    ∃ t, exec (.allocateAccount l 0) s = .next t ∧ t.regs = s.regs ∧
      ((t.region (regionOf l)).passes.find? fun p => p.lead == l).map (·.next) = some (p.next + 1) ∧
      ((Acct.ofWords ws).en = true → (Acct.ofWords ws).site = p.site →
        t.mem = (s.writeWords (acctAddr (regionOf l) p.next) ((Acct.ofWords ws).allocate.putWords ws)).mem) ∧
      ((Acct.ofWords ws).en = false ∨ (Acct.ofWords ws).site ≠ p.site → t.mem = s.mem)) ∧
  (∀ (s : State) (l : Nat) (p : AllocPass), (s.region (regionOf l)).passes.find? (fun p => p.lead == l) = some p →
    (p.next < p.stop → exec (.allocationPassEnd l) s = .next s) ∧
    (p.stop ≤ p.next → p.held = false → exec (.allocationPassEnd l) s =
      .next ((s.modRegion (regionOf l) fun x => { x with passes := x.passes.filter fun q => q.lead ≠ l }).wrs
        [(LDG.CVST_ALLOC_BUSY (regionOf l) (l % 64), 0), (LDG.CVST_ALLOC_DONE (regionOf l) (l % 64), 1),
          (LDG.CVST_ALLOC_REP (regionOf l) (l % 64), p.rep), (LDG.CVST_ALLOC_UNREP (regionOf l) (l % 64), p.unrep)])))

/-- Of registers that are served: CLEAR of a site that no caravan runs with, with no record in flight and the next epoch
not retired: EPOCH advances modulo 256, SPILL_DROP = 0, the old epoch is retired, memory unchanged; in those cases
WR_IGN alone. SCRUB_BUCKET at rate 0 or in freeze: nothing; else an error-free cached bucket or, on a READY channel,
an error-free stored one loses VALID of its dead entries. SCRUB_PASS_END restarts a completed pass and counts it.
LDG_FLUSH marks the dirty lines; LDG_FLUSH_DONE without errors writes them back and clears GO. LOOKUP: the key is
written (also where GO is ignored: log 92) and BUSY sets, or WR_IGN while busy; LOOKUP_DONE of a cached bucket: the
entry words and FOUND, BUSY = 0. DIGEST: LEAD is written likewise and DIG_BUSY sets, or WR_IGN where R241 ignores GO;
DIGEST_DONE with no error in the accounts: the four digest words, the drops, DIG_BUSY = 0 and DIG_DONE = 1, a seal
that asked for it taking it. SPILL_HEAD_WRITE: a HEAD within 262,144 of TAIL is written, another sets WR_IGN alone.
LDG_CTRL_WRITE: EN and SALT are written; EN stands with WR_IGN while a caravan is busy or a record in flight, SALT
while EN is 1. -/
def Obligations.LedgerServices : Prop :=
  (∀ (s : State) (n : Nat), n < 256 → s.regOpen 0 (LDG.SITE_CLEAR 0 n).addr = true →
    ((s.allLeads.any fun l => s.busy l && s.rd (CEL.CARAVAN_SITE l) == n) = true ∨ s.siteInFlight n = true ∨
      s.isRetired n ((s.rd (LDG.SITE_EPOCH 0 n) + 1) % 256) = true → exec (.clear n) s = .next (s.wr (LDG.STATUS_WR_IGN 0) 1)) ∧
    ((s.allLeads.any fun l => s.busy l && s.rd (CEL.CARAVAN_SITE l) == n) = false → s.siteInFlight n = false →
      s.isRetired n ((s.rd (LDG.SITE_EPOCH 0 n) + 1) % 256) = false → ∃ t, exec (.clear n) s = .next t ∧
      t.rd (LDG.SITE_EPOCH 0 n) = (s.rd (LDG.SITE_EPOCH 0 n) + 1) % 256 ∧ t.rd (LDG.SITE_SPILL_DROP 0 n) = 0 ∧ t.mem = s.mem ∧
      t.regions = s.regions ∧ t.retired = s.retired ++ [⟨n, s.rd (LDG.SITE_EPOCH 0 n), [0, 0, 0, 0]⟩])) ∧
  (∀ (s : State) (h dev lost : Nat), h < 4 →
    (s.frozen = true ∨ s.rd (LDG.SCRUB_RATE h) = 0 → ∀ up, exec (.scrubBucket h (up, lost) dev) s = .next s) ∧
    (s.frozen = false → s.rd (LDG.SCRUB_RATE h) ≠ 0 → (s.region h).scrubPos < 1048576 →
      (∀ ws, (Tab.get Line.none (s.region h).cache (s.region h).scrubPos).words = ws → ws ≠ [] → ∃ t,
        exec (.scrubBucket h (0, lost) dev) s = .next t ∧ t.mem = s.mem ∧ t.regs = s.regs ∧ (t.region h).scrubPos = (s.region h).scrubPos + 1 ∧
        (s.scrubbed ws ≠ ws → Tab.get Line.none (t.region h).cache (s.region h).scrubPos = ⟨s.scrubbed ws, true⟩)) ∧
      (s.inCache h (s.region h).scrubPos = false → s.rd (DDR.STATUS_STATE h) = ddrReady →
        (∀ w, w < 8 → s.eccOf (ddrBase h + 16 * (8 * ((s.rd (LDG.TBL_BASE_WORD h) + 8 * (s.region h).scrubPos) / 8) + w)) 0 = 0) →
        ∃ t, exec (.scrubBucket h (0, lost) dev) s = .next t ∧
        t.regs = s.regs ∧ (t.region h).scrubPos = (s.region h).scrubPos + 1 ∧
        ∀ k, k < 8 → t.readWord (s.bucketAddr h (s.region h).scrubPos + 16 * k) =
          (s.scrubbed (s.readWords (s.bucketAddr h (s.region h).scrubPos) 8)).getD k 0))) ∧
  (∀ (s : State) (h : Nat),
    ((s.region h).scrubPos < 1048576 → exec (.scrubPassEnd h) s = .next s) ∧
    (1048576 ≤ (s.region h).scrubPos → ∃ t, exec (.scrubPassEnd h) s = .next t ∧ (t.region h).scrubPos = 0 ∧ t.mem = s.mem ∧
      t.rd (LDG.SCRUB_PASSES h) = (s.rd (LDG.SCRUB_PASSES h) + 1) % 2 ^ (LDG.SCRUB_PASSES h).width)) ∧
  (∀ (s : State) (r : Nat), s.regOpen 0 (LDG.FLUSH_GO r).addr = true → exec (.ldgFlush r) s = .next ((s.wr (LDG.FLUSH_GO r) 1).modRegion r fun x =>
    { x with flush := some (x.flush.getD [] ++ ((s.region r).cache.filter fun e => e.2.dirty).map (·.1)) })) ∧
  (∀ (s : State) (r : Nat) (bs : List Nat), (s.region r).flush = some bs → s.frozen = false →
    s.rd (DDR.STATUS_STATE r) = ddrReady ∨ bs = [] → exec (.ldgFlushDone (r, [])) s =
      .next (((bs.foldl (fun t b => t.writeLine r b) s).wr (LDG.FLUSH_GO r) 0).modRegion r fun x => { x with flush := none })) ∧
  (∀ (s : State) (r key : Nat), s.regOpen 0 (LDG.LK_KEY_KEY r).addr = true →
    (s.flag (LDG.LK_HI_BUSY r) = true → exec (.lookup r key) s =
      .next ((s.wr (LDG.LK_KEY_KEY r) key).wr (LDG.STATUS_WR_IGN r) 1)) ∧
    (s.flag (LDG.LK_HI_BUSY r) = false → exec (.lookup r key) s =
      .next ((s.wrs [(LDG.LK_KEY_KEY r, key), (LDG.LK_HI_BUSY r, 1)]).modRegion r fun x => { x with lookup := some (key % 2 ^ 56) }))) ∧
  (∀ (s : State) (r key h b dev : Nat) (victim : Victim) (lost : Nat) (ws : List Nat) (f : Option Nat), (s.region r).lookup = some key → s.frozen = false →
    h = ledgerHash (key % 2 ^ 50) (s.rd (LDG.CTRL_SALT 0)) % 4 → b = ledgerHash (key % 2 ^ 50) (s.rd (LDG.CTRL_SALT 0)) / 4 →
    s.inCache h b = true → ws = (Tab.get Line.none (s.region h).cache b).words → f = s.findEntry ws key →
    exec (.lookupDone r victim 0 dev lost) s = .next ((s.modRegion r fun x => { x with lookup := none }).wrs
      [(LDG.LK_W0_W0 r, bits ((f.map fun k => ws.getD (2 * k) 0).getD 0) 0 64), (LDG.LK_W1_W1 r, bits ((f.map fun k => ws.getD (2 * k + 1) 0).getD 0) 0 64),
        (LDG.LK_HI_W0_HI r, bits ((f.map fun k => ws.getD (2 * k) 0).getD 0) 64 8), (LDG.LK_HI_W1_HI r, bits ((f.map fun k => ws.getD (2 * k + 1) 0).getD 0) 64 8),
        (LDG.LK_HI_FOUND r, b2n f.isSome), (LDG.LK_HI_BUSY r, 0)])) ∧
  (∀ (s : State) (r i : Nat), s.regOpen 0 (LDG.DIG_CTRL_LEAD r).addr = true →
    (s.isLead (64 * r + i) = false ∨ s.flag (LDG.STATUS_DIG_BUSY r) = true ∨ s.busy (64 * r + i) = true ∨
      s.flag (LDG.CVST_DRAIN_DONE r i) = false ∨ s.flag (LDG.CVST_ALLOC_BUSY r i) = true → exec (.digest r i) s =
      .next ((s.wr (LDG.DIG_CTRL_LEAD r) i).wr (LDG.STATUS_WR_IGN r) 1)) ∧
    (s.isLead (64 * r + i) = true → s.flag (LDG.STATUS_DIG_BUSY r) = false → s.busy (64 * r + i) = false →
      s.flag (LDG.CVST_DRAIN_DONE r i) = true → s.flag (LDG.CVST_ALLOC_BUSY r i) = false → exec (.digest r i) s =
      .next ((s.wrs [(LDG.DIG_CTRL_LEAD r, i), (LDG.STATUS_DIG_BUSY r, 1)]).modRegion r fun x => { x with digest := some (64 * r + i) }))) ∧
  (∀ (s : State) (r l ld : Nat), (s.region r).digest = some l → ld = Config.sha256 (s.digestBytes l) →
    (∀ a w, (s.acctRange l).1 ≤ a → a < (s.acctRange l).2 → w < 8 → s.eccOf (acctAddr (regionOf l) a + 16 * w) 0 = 0) →
    exec (.digestDone (r, [])) s =
    .next (((s.modRegion r fun x => { x with digest := none }).sealDigest l ld (min (s.drops l) (2 ^ 32 - 1))).wrs [(LDG.DIG_LD r 0, bits ld 0 64), (LDG.DIG_LD r 1, bits ld 64 64),
      (LDG.DIG_LD r 2, bits ld 128 64), (LDG.DIG_LD r 3, bits ld 192 64), (LDG.DIG_DROPS_COUNT r, min (s.drops l) (2 ^ 32 - 1)),
      (LDG.STATUS_DIG_BUSY r, 0), (LDG.STATUS_DIG_DONE r, 1)])) ∧
  (∀ (s : State) (h v : Nat), v < 2 ^ 32 → s.regOpen 0 (LDG.SPILL_HEAD_COUNT h).addr = true → exec (.spillHeadWrite h v) s =
    .next (if (s.rd (LDG.SPILL_TAIL_COUNT h) + 2 ^ 32 - v) % 2 ^ 32 ≤ 262144 then s.wr (LDG.SPILL_HEAD_COUNT h) v else s.wr (LDG.STATUS_WR_IGN h) 1)) ∧
  (∀ (s : State) (mask v en salt : Nat), s.regOpen 0 (LDG.CTRL_EN 0).addr = true → en = s.merged (LDG.CTRL_EN 0) mask v → salt = s.merged (LDG.CTRL_SALT 0) mask v →
    (en ≠ s.rd (LDG.CTRL_EN 0) → s.allLeads.any s.busy = true ∨ s.anyInFlight = true → ∃ t, exec (.ldgCtrlWrite mask v) s = .next t ∧
      t.rd (LDG.CTRL_EN 0) = s.rd (LDG.CTRL_EN 0) ∧ t.rd (LDG.STATUS_WR_IGN 0) = 1 ∧ t.mem = s.mem) ∧
    (salt ≠ s.rd (LDG.CTRL_SALT 0) → s.flag (LDG.CTRL_EN 0) = true → ∃ t, exec (.ldgCtrlWrite mask v) s = .next t ∧
      t.rd (LDG.CTRL_SALT 0) = s.rd (LDG.CTRL_SALT 0) ∧ t.rd (LDG.STATUS_WR_IGN 0) = 1 ∧ t.mem = s.mem) ∧
    (s.allLeads.any s.busy = false → s.anyInFlight = false → (∀ r, r < 4 → s.rd (DDR.STATUS_STATE r) = ddrReady) ∨ en = 0 →
      s.flag (LDG.CTRL_EN 0) = false ∨ salt = s.rd (LDG.CTRL_SALT 0) →
      exec (.ldgCtrlWrite mask v) s = .next ((s.wr (LDG.CTRL_EN 0) en).wr (LDG.CTRL_SALT 0) salt)))

/-- A Store command, of Objor's port or of a shared port whose STO.CMD is served, while the Store is busy: BUSY, counted
for the shared port, nothing else changes. On an idle Store (R325), a sector that R322 permits the port, no execute-
only region or Objor's port: READ_MARGIN of a correctable word puts it into RBUF and the result into RRES, status OK
or TORN (8). PROGRAM of an erased word of an untorn sector: the program runs (BUSY) with PBUF's word; PROGRAM_DONE
stores it, BUSY = 0, DONE, and PEND = 0 with OK or FAULT on the shared port. PROGRAM of a word not erased:
PROGRAM_TWICE (7). ERASE: BEGIN is appended (bytes outside sector 1 stand), JSEQ.SEQ advances, the erase runs;
ERASE_DONE without bad words: the sector reads 0 and is torn no more; with bad words FAULT and torn. RAW_READ and
RAW_PROGRAM outside TEST_MODES: ILLEGAL_STATE (3); in them RBUF takes the array's words, uncorrected, or the array the
word of PBUF. -/
def Obligations.StoreCommands : Prop :=
  (∀ (s : State) (obj : Bool) (k e : Nat) (c : Instr), (obj = true ∨ s.regOpen 0 STO.CMD_OP.addr = true) → s.store.op ≠ none ∨ s.flag STO.CMD_STATUS_PEND = true →
    c ∈ [.readMargin obj k 0 e, .program obj k e, .erase obj k, .rawRead obj k e, .rawProgram obj k] →
    ∃ t, exec c s = .next t ∧ t.store = s.store ∧ t.mem = s.mem ∧
      (obj = true → t = s) ∧ (obj = false → t.rd STO.LAST_REJECT_STATUS = 1 ∧ t.rd STO.REJECT_COUNT = satAdd STO.REJECT_COUNT.width (s.rd STO.REJECT_COUNT) 1)) ∧
  (∀ (s : State) (obj : Bool) (k margin e : Nat), (obj = true ∨ s.regOpen 0 STO.CMD_OP.addr = true) → k < 2097152 → s.StoreFree → s.PortReads obj k → s.cwErrors k e ≤ 3 → ∃ t, exec (.readMargin obj k margin e) s = .next t ∧ t.mem = s.mem ∧ t.store = s.store ∧
      (∀ j, j < 4 → t.rd (STO.RBUF_LO_LO j) = bits ((s.cwWords k).getD j 0) 0 64 ∧ t.rd (STO.RBUF_HI_HI j) = bits ((s.cwWords k).getD j 0) 64 8) ∧
      t.rd STO.RRES_CORR = s.cwErrors k e ∧ t.rd STO.RRES_UNCORR = 0 ∧ t.rd STO.EVT_DONE = 1 ∧
      (obj = false → t.rd STO.CMD_STATUS_STATUS = (if s.torn (sectorOf k) then 8 else 0) ∧ t.rd STO.CMD_STATUS_PEND = 0)) ∧
  (∀ (s : State) (obj : Bool) (k : Nat), (obj = true ∨ s.regOpen 0 STO.CMD_OP.addr = true) → k < 2097152 → s.StoreFree → s.torn (sectorOf k) = false → s.PortPrograms obj k →
    (s.cwState k = 0 → ∃ t, exec (.program obj k 0) s = .next t ∧ t.store.op = some (.program obj k s.pbuf) ∧ t.rd STO.STATUS_BUSY = 1 ∧
      t.mem = s.mem ∧ (obj = false → t.rd STO.CMD_STATUS_PEND = 1)) ∧
    (s.cwState k ≠ 0 → ∃ t, exec (.program obj k 0) s = .next t ∧ t.store = s.store ∧ t.mem = s.mem ∧
      (obj = false → t.rd STO.LAST_REJECT_STATUS = 7))) ∧
  (∀ (s : State) (obj : Bool) (k res : Nat) (ws : List Nat), s.store.op = some (.program obj k ws) → s.store.waiting = [] →
    ∃ t, exec (.programDone res []) s = .next t ∧ t.store.op = none ∧ t.rd STO.STATUS_BUSY = 0 ∧ t.rd STO.EVT_DONE = 1 ∧
      (∀ j, j < 4 → t.readWord (cwAddr k + 16 * j) = ws.getD j 0 % 2 ^ 72) ∧ t.cwState k = (if res = 2 then 2 else 1) ∧
      (∀ a, a < cwAddr k ∨ cwAddr (k + 1) ≤ a → t.readByte a = s.readByte a) ∧
      (obj = false → t.rd STO.CMD_STATUS_PEND = 0 ∧ t.rd STO.CMD_STATUS_STATUS = if res = 0 then 0 else 6)) ∧
  (∀ (s : State) (obj : Bool) (x : Nat), (obj = true ∨ s.regOpen 0 STO.CMD_OP.addr = true) → x < 512 → s.StoreFree → (if obj then 2 else 8) ≤ x → s.sectorXo x = false ∨ obj = true →
    ∃ t, exec (.erase obj x) s = .next t ∧ t.store.op = some (.erase obj x (s.rd STO.JSEQ_SEQ)) ∧ t.rd STO.STATUS_BUSY = 1 ∧
      t.rd STO.JSEQ_SEQ = (s.rd STO.JSEQ_SEQ + 1) % 2 ^ STO.JSEQ_SEQ.width ∧
      ∀ a, a < cwAddr 4096 ∨ cwAddr 8192 ≤ a → t.readByte a = s.readByte a) ∧
  (∀ (s : State) (obj : Bool) (x q : Nat), s.store.op = some (.erase obj x q) → 2 ≤ x → x < 512 → s.store.waiting = [] → s.rolloverDue = false →
    (∃ t, exec (.eraseDone [] []) s = .next t ∧ t.store.op = none ∧ t.rd STO.STATUS_BUSY = 0 ∧ t.torn x = false ∧
      (∀ a, cwAddr (4096 * x) ≤ a → a < cwAddr (4096 * x + 4096) → t.readByte a = 0) ∧ (obj = false → t.rd STO.CMD_STATUS_STATUS = 0)) ∧
    ∀ k, ∃ t, exec (.eraseDone [k] []) s = .next t ∧ t.store.op = none ∧ t.torn x = true ∧ t.cwState (4096 * x + k % 4096) = 2 ∧
      (obj = false → t.rd STO.CMD_STATUS_STATUS = 6)) ∧
  (∀ (s : State) (obj : Bool) (k flip : Nat), (obj = true ∨ s.regOpen 0 STO.CMD_OP.addr = true) → k < 2097152 → s.StoreFree → s.flag LC.STATE_TEST_MODES = false → ∀ c : Instr,
    c ∈ [.rawRead obj k flip, .rawProgram obj k] → ∃ t, exec c s = .next t ∧ t.store = s.store ∧ t.mem = s.mem ∧
      (obj = false → t.rd STO.LAST_REJECT_STATUS = 3)) ∧
  (∀ (s : State) (obj : Bool) (k : Nat), (obj = true ∨ s.regOpen 0 STO.CMD_OP.addr = true) → k < 2097152 → s.StoreFree → s.flag LC.STATE_TEST_MODES = true →
    (s.PortReads obj k → s.cwState k ≠ 2 → ∃ t, exec (.rawRead obj k 0) s = .next t ∧ t.mem = s.mem ∧ t.rd STO.EVT_DONE = 1 ∧
      ∀ j, j < 4 → t.rd (STO.RBUF_LO_LO j) = bits (s.readWord (cwAddr k + 16 * j)) 0 64) ∧
    (s.PortPrograms obj k → ∃ t, exec (.rawProgram obj k) s = .next t ∧ t.rd STO.EVT_DONE = 1 ∧
      (∀ j, j < 4 → t.readWord (cwAddr k + 16 * j) = s.pbuf.getD j 0 % 2 ^ 72) ∧ (∀ a, a < cwAddr k ∨ cwAddr (k + 1) ≤ a → t.readByte a = s.readByte a)))

/-- JOURNAL_ROLLOVER with fewer than 8 free code words of the active half and no operation: the rollover runs, BUSY and
INTERNAL 1; else nothing changes. ROLLOVER_PERIOD_END, no read waiting: after the first period the other half is
active and the second period runs; after the second the inactive half is blank and BUSY and INTERNAL are 0.
RECOVERY_ERASE_DONE: the inactive half is blank, BUSY 0. CAL_LOAD that is served, with a run in progress or a lane not
in the safe state sets CAL_STATUS.WR_IGN alone; with every lane safe it starts the loader, BUSY 1. CAL_LOAD_DONE of a
full run, the Store idle: BANK, A_WHY and B_WHY and the valid bits tell the choice of R167 and START.CAL_DONE is 1. -/
def Obligations.JournalAndCalibration : Prop :=
  (∀ s : State,
    (s.store.op = none → s.rolloverDue = true → exec .journalRollover s =
      .next { s.wrs [(STO.STATUS_BUSY, 1), (STO.STATUS_INTERNAL, 1)] with store := { s.store with op := some (.rollover false) } }) ∧
    (s.rolloverDue = false → exec .journalRollover s = .next s)) ∧
  (∀ s : State, s.store.waiting = [] →
    (s.store.op = some (.rollover false) → ∃ t, exec (.rolloverPeriodEnd []) s = .next t ∧ t.rd STO.JSEQ_HALF = 1 - s.rd STO.JSEQ_HALF ∧
      t.store.op = some (.rollover true) ∧ t.rd STO.STATUS_BUSY = s.rd STO.STATUS_BUSY) ∧
    (s.store.op = some (.rollover true) → ∃ t, exec (.rolloverPeriodEnd []) s = .next t ∧ t.store.op = none ∧ t.rd STO.STATUS_BUSY = 0 ∧
      t.rd STO.STATUS_INTERNAL = 0 ∧ t.halfUsed (1 - s.half) = 0 ∧ t.rd STO.JSEQ_HALF = s.rd STO.JSEQ_HALF) ∧
    (s.store.op = some .recovery → ∃ t, exec (.recoveryEraseDone []) s = .next t ∧ t.store.op = none ∧ t.rd STO.STATUS_BUSY = 0 ∧
      t.halfUsed (1 - s.half) = 0 ∧ t.rd STO.JSEQ_HALF = s.rd STO.JSEQ_HALF)) ∧
  (∀ s : State, s.regOpen 0 CHIP.CAL_CTRL_LOAD.addr = true →
    (s.cal ≠ [] → exec .calLoad s = .next (s.wr CHIP.CAL_STATUS_WR_IGN 1)) ∧
    (∀ c n, c < 256 → n < 4 → s.flag (PIN.STATE_SAFE c n) = false → exec .calLoad s = .next (s.wr CHIP.CAL_STATUS_WR_IGN 1)) ∧
    (s.cal = [] → (∀ c n, c < 256 → n < 4 → s.flag (PIN.STATE_SAFE c n) = true) → exec .calLoad s =
      .next { s.wr CHIP.CAL_STATUS_BUSY 1 with cal := [.full] })) ∧
  (∀ (s : State) (a b wa wb : Nat), s.store.op = none → s.cal = [.full] → a ≤ 6 → b ≤ 6 → wa = (if s.bankWhy 0 = 0 then a else s.bankWhy 0) →
    wb = (if s.bankWhy 1 = 0 then b else s.bankWhy 1) → ∃ t, exec (.calLoadDone a b) s = .next t ∧ t.cal = [] ∧
      t.rd CHIP.CAL_STATUS_BANK = s.calBank wa wb ∧ t.rd CHIP.CAL_STATUS_A_VALID = b2n (wa == 0) ∧ t.rd CHIP.CAL_STATUS_B_VALID = b2n (wb == 0) ∧
      t.rd CHIP.CAL_STATUS_A_WHY = wa ∧ t.rd CHIP.CAL_STATUS_B_WHY = wb ∧ t.rd CHIP.CAL_STATUS_BUSY = 0 ∧ t.rd CHIP.START_CAL_DONE = 1 ∧
      t.mem = s.mem)

/-- Any mailbox command while its mailbox has PEND = 1, unless it is the first that waits: BUSY (1), Objor and memory
stand. On a mailbox that Objor serves, the Store free; u is the state that Objor's reads or writes of the buffer
(R348) leave. GET_IDENTITY_READ: the certificate written to the buffer, OK, a fresh nonce, the unit ID and the
certificate's length. GENERATE without an identity: where the new key passes its pairwise-consistency test OK with it
and an entry of ceiling 64 in the counter log, or FAULT when that entry's program fails, memory outside sectors 6 and
7 as before; else FAULT and ERROR; with one: ILLEGAL_STATE (3). SET_CERT of a structure that does not certify the
identity key: DENIED (4); else of no DER structure or more than 1,024 bytes BAD_ARG (2), else OK with the new
certificate. KAT_STATUS: RES0 holds the results. KAT_RERUN: with a session open ILLEGAL_STATE; all tests passing OK; a
failing test sets ERROR and clears READY. ADD_OWNER of a well-formed request with the mailbox's nonce and the unit's
ID, the index free: the owner's entry if the vendor's key verifies it, else DENIED; REMOVE_OWNER so clears an entry;
ADD_FLEET and REMOVE_FLEET likewise under an owner's key. SELF_TEST_FAILURE: ERROR 1, READY and APPROVED 0, all
sessions closed, memory unchanged. -/
def Obligations.ObjorMailboxes : Prop :=
  (∀ (s : State) (m a b : Nat) (bad : Bool) (c : Instr), m < 2 → s.regOpen (4 * m) (OBJ.MB_CMD_OP m).addr = true → s.flag (OBJ.MB_STATUS_PEND m) = true →
    (∀ op, s.objor.queue.head? ≠ some (m, op)) →
    c ∈ [.getIdentityRead m, .generate m bad, .setCert m bad, .openBonded m, .closeBonded m, .addOwner m bad, .removeOwner m bad,
      .addFleet m bad, .removeFleet m bad, .katStatus m, .katRerun m a, .zeroise (m, bad), .zeroiseAll (m, bad), .installManifest m, .issueSeal m,
      .lcRequest m a b bad, .rollForward m a b bad, .nonce m, .debugAuth m] →
    ∃ t, exec c s = .next t ∧ t.objor = s.objor ∧ t.mem = s.mem ∧ t.rd OBJ.LAST_REJECT_STATUS = 1 ∧ t.flag (OBJ.MB_STATUS_PEND m) = true) ∧
  (∀ (s u : State) (m n : Nat), s.Serves m [0, 1, 2, 3] → n = s.objor.cert.length → bufOk (s.arg m 1) n = true →
    s.ownPut (s.arg m 1) (n + 1) s.objor.cert = .ok (true, u) →
    ∃ t, exec (.getIdentityRead m) s = .next t ∧ t.rd (OBJ.MB_STATUS_STATUS m) = 0 ∧ t.rd (OBJ.MB_RES_RES m 6) = n % 2 ^ 64 ∧
      t.rd (OBJ.MB_RES_RES m 0) = u.rd LC.UNIT_ID0_ID ∧ t.rd (OBJ.MB_RES_RES m 1) = u.rd LC.UNIT_ID1_ID ∧ t.nonce m = some (u.random % 2 ^ 256) ∧
      t.mem = u.mem) ∧
  (∀ (s : State) (m : Nat) (bad : Bool), s.Serves m [1] →
    (s.objor.ident = none → s.StoreFree →
      (pairwise (s.random % 2 ^ 384) = false → ∃ t, exec (.generate m bad) s = .next t ∧ t.rd (OBJ.MB_STATUS_STATUS m) = 6 ∧
        t.objor.ident = none ∧ t.rd OBJ.STATUS_ERROR = 1 ∧ t.mem = s.mem) ∧
      (pairwise (s.random % 2 ^ 384) = true → ∃ t, exec (.generate m bad) s = .next t ∧
        t.rd (OBJ.MB_STATUS_STATUS m) = (if bad then 6 else 0) ∧ t.objor.ident = (if bad then none else some (s.random % 2 ^ 384)) ∧
        (32767 ∉ s.store.cw.map (·.1) → (∀ a, a < cwAddr 24576 ∨ cwAddr 32768 ≤ a → t.readByte a = s.readByte a)) ∧
        (bad = false → t.rd OBJ.STATUS_IDENT = 1 ∧ (32767 ∉ s.store.cw.map (·.1) → ∃ k, 24576 ≤ k ∧ k < 32768 ∧
          t.cwWords k = [1 + 2 ^ 32 * (max (s.logTop 6) (s.logTop 7) % 2 ^ 32), 64, 0, 0])))) ∧
    (s.objor.ident ≠ none → ∃ t, exec (.generate m bad) s = .next t ∧ t.objor = s.objor ∧ t.mem = s.mem ∧ t.rd (OBJ.MB_STATUS_STATUS m) = 3)) ∧
  (∀ (s u v : State) (m : Nat) (h b : List Nat), s.Serves m [1] → s.ObjReads (s.arg m 1) 4 h v →
    v.ObjReads (s.arg m 1) ((derLength h).getD 4) b u → u.StoreFree → ∃ t, exec (.setCert m false) s = .next t ∧ t.mem = u.mem ∧
      if u.objor.ident.any (fun k => Config.certValid b (Config.publicKey k)) then
        if derLength h = none ∨ 1024 < b.length then t.objor = u.objor ∧ t.rd (OBJ.MB_STATUS_STATUS m) = 2
        else t.objor = { u.objor with cert := b } ∧ t.rd (OBJ.MB_STATUS_STATUS m) = 0
      else t.objor = u.objor ∧ t.rd (OBJ.MB_STATUS_STATUS m) = 4) ∧
  (∀ (s : State) (m pass : Nat), s.Serves m [0, 1, 2, 3] →
    (∃ t, exec (.katStatus m) s = .next t ∧ t.rd (OBJ.MB_STATUS_STATUS m) = 0 ∧ t.objor = s.objor ∧ t.mem = s.mem ∧
      t.rd (OBJ.MB_RES_RES m 0) = s.rd OBJ.KAT_PASS + 2 ^ 16 * s.rd OBJ.KAT_DONE) ∧
    (s.bonds ≠ [] → ∃ t, exec (.katRerun m pass) s = .next t ∧ t.rd (OBJ.MB_STATUS_STATUS m) = 3 ∧ t.bonds = s.bonds ∧ t.mem = s.mem) ∧
    (s.bonds = [] → pass < 1024 → ∃ t, exec (.katRerun m pass) s = .next t ∧ t.rd (OBJ.MB_STATUS_STATUS m) = 0 ∧ t.mem = s.mem ∧
      t.rd OBJ.KAT_PASS = pass ∧ t.rd OBJ.KAT_DONE = 1 ∧ t.rd OBJ.STATUS_READY = (if pass = 1023 then 1 else 0) ∧
      t.rd OBJ.STATUS_ERROR = if pass = 1023 then 0 else 1)) ∧
  (∀ (s u v : State) (m op i n len sid sig : Nat) (h b : List Nat) (c : Instr), s.Serves m [1, 2] → s.ObjReads (s.arg m 1) 8 h v →
    len = (if le h 7 1 % 2 = 1 then 2176 else 224) → v.ObjReads (s.arg m 1) (len + 96) b u → u.StoreFree →
    le b 0 4 = 0x4F525848 → le b 4 1 = op → le b 5 1 = i → le b 6 1 < 16 → le b 7 1 < 2 → (op ≠ 1 → le b 7 1 = 0) →
    le b 8 16 = u.unitId → u.nonce m = some (le b 24 32) → le b 56 16 = sid → le b len 96 = sig →
    (op, c) ∈ [(1, .addOwner m false), (2, .removeOwner m false), (3, .addFleet m false), (4, .removeFleet m false)] →
    (op ≤ 2 → i < 16 → sid = 0 → (op = 1 → u.flag (OBJ.OWNER_A_VALID i) = false) → ∃ t, exec c s = .next t ∧ t.mem = u.mem ∧
      if Config.ecdsaVerify Config.romKey (b.take len) sig then t.rd (OBJ.MB_STATUS_STATUS m) = 0 ∧ t.nonce m = none ∧
        t.rd (OBJ.OWNER_A_VALID i) = b2n (op == 1) ∧ t.rd (OBJ.OWNER_A_PERM i) = (if op = 1 then le b 6 1 else 0)
      else t.rd (OBJ.MB_STATUS_STATUS m) = 4 ∧ t.objor = u.objor) ∧
    (3 ≤ op → i < 8 → sid ≠ 0 → n = ((u.ownerWith sid 3).map (·.index)).getD 0 → n < 16 → (op = 3 → u.flag (OBJ.FLEET_VALID i) = false) →
      ∃ t, exec c s = .next t ∧ t.mem = u.mem ∧
      if (u.ownerWith sid 3).isSome && u.signedBy sid 3 (b.take len) sig && (op == 4 || (u.fleetKey b).isSome) then
        t.rd (OBJ.MB_STATUS_STATUS m) = 0 ∧ t.nonce m = none ∧ t.rd (OBJ.FLEET_VALID i) = b2n (op == 3) ∧
        t.rd (OBJ.FLEET_OWNER i) = (if op = 3 then n else 0) ∧ t.rd (OBJ.FLEET_GROUP i) = (if op = 3 then le b 72 4 else 0)
      else t.rd (OBJ.MB_STATUS_STATUS m) = 4 ∧ t.objor = u.objor)) ∧
  (∀ s : State, ∃ t, exec .selfTestFailure s = .next t ∧ t.rd OBJ.STATUS_ERROR = 1 ∧ t.rd OBJ.STATUS_READY = 0 ∧ t.rd OBJ.STATUS_APPROVED = 0 ∧
    t.rd OBJ.EVT_ERROR = 1 ∧ t.objor.error = true ∧ t.bonds = [] ∧ t.mem = s.mem)

/-- On a mailbox that Objor serves, the Store free where its sectors or log may change; u is the state that Objor's
accesses leave. OPEN_BONDED of a free session by a lead for a BOND section of an installed slot, site and uses
permitted, its key unwrapping: OK, the session in RES0 and in OBJ.BOND; without the section ILLEGAL_STATE (3).
CLOSE_BONDED: the lead's sessions close, or ILLEGAL_STATE where it has none. ZEROISE of a slot that an active plane or
a running caravan uses: ILLEGAL_STATE; else OK, or FAULT where an erase failed, the slot FREE, its sessions and
records gone, none of its windows valid (slot 0 means ALL); ZEROISE_ALL so for all slots, and no owner or fleet key is
left. INSTALL_MANIFEST into a slot not FREE: ILLEGAL_STATE; of a readable manifest without images whose targets are
permitted: DENIED for the first reason of R357, else BAD_ARG where it breaks the format, else the slot is INSTALLING.
INSTALL_DONE: the manifest changed since pass 1 gives FAULT with 0x0C and the slot FREE; unchanged, without images and
every write answered OK: OK and the slot INSTALLED. ISSUE_SEAL of a HALTED, drained, unsealed caravan: the digest
starts; not HALTED: ILLEGAL_STATE. SEAL_WRITE with the digest ready: not HALTED, or not HALTED all along, FAULT with
0x0F; else, the signature verifying and the 272 bytes written, SEAL_CNT advances, the caravan is sealed and its
sessions close; not verifying: the error state. -/
def Obligations.SessionsManifestsAndSeals : Prop :=
  (∀ (s : State) (m l n k len : Nat) (o : SlotX) (d : Nat × List Nat), s.Serves m [2] → bits (s.arg m 0) 0 8 = l → bits (s.arg m 0) 8 4 = n →
    bits (s.arg m 0) 12 10 = k → s.bonds.length < 32 → s.isLead l = true → (∀ b ∈ s.bonds, b.lead ≠ l) → s.rd (OBJ.SLOT_A_STATE n) = 2 →
    s.objor.slots.find? (fun o => o.slot == n) = some o →
    (o.bonds.find? (fun e => e.1 == k) = none → ∃ t, exec (.openBonded m) s = .next t ∧ t.rd (OBJ.MB_STATUS_STATUS m) = 3 ∧ t.bonds = s.bonds) ∧
    (o.bonds.find? (fun e => e.1 == k) = some d → bitOf o.siteMask (s.siteOf l) = true → o.useLimit = 0 ∨ s.rd (OBJ.SLOT_A_USES n) < o.useLimit →
      len = bits (o.sects.getD k ⟨0, 0, 0, 0, 0, 0, 0, 0⟩).target 0 17 → ∃ t, exec (.openBonded m) s = .next t ∧ t.mem = s.mem ∧
      if s.contentKey o.head = none then t.rd (OBJ.MB_STATUS_STATUS m) = 6 ∧ t.bonds = s.bonds
      else ∃ b, t.bonds = s.bonds ++ [b] ∧ b.lead = l ∧ b.slot = n ∧ b.section_ = k ∧ b.len = len ∧ b.k < 32 ∧
        t.rd (OBJ.MB_RES_RES m 0) = b.k ∧ t.rd (OBJ.MB_STATUS_STATUS m) = 0 ∧ (∀ c ∈ s.bonds, c.k ≠ b.k) ∧
        t.rd (OBJ.BOND_OPEN b.k) = 1 ∧ t.rd (OBJ.BOND_LEAD b.k) = l)) ∧
  (∀ (s : State) (m l : Nat), s.Serves m [1, 2] → bits (s.arg m 0) 0 8 = l → ∃ t, exec (.closeBonded m) s = .next t ∧ t.mem = s.mem ∧
    t.bonds = s.bonds.filter (fun b => !(b.lead == l)) ∧ t.rd (OBJ.MB_STATUS_STATUS m) = if s.bonds.any (fun b => b.lead == l) then 0 else 3) ∧
  (∀ (s : State) (m n : Nat) (bad : Bool), s.Serves m [1, 2] → s.StoreFree → n = bits (s.arg m 0) 0 4 →
    (n = 0 → exec (.zeroise (m, bad)) s = exec (.zeroiseAll (m, bad)) s) ∧
    (n ≠ 0 → s.SlotUsed n → ∃ t, exec (.zeroise (m, bad)) s = .next t ∧ t.rd (OBJ.MB_STATUS_STATUS m) = 3 ∧ t.objor = s.objor ∧ t.mem = s.mem) ∧
    (n ≠ 0 → ¬ s.SlotUsed n → ∃ t, exec (.zeroise (m, bad)) s = .next t ∧
      t.rd (OBJ.MB_STATUS_STATUS m) = (if bad && s.erases n then 6 else 0) ∧ t.rd (OBJ.SLOT_A_STATE n) = 0 ∧
      (∀ b ∈ t.bonds, b.slot ≠ n) ∧ (∀ o ∈ t.objor.slots, o.slot ≠ n) ∧
      ∀ c k, c < 256 → k < 4 → ¬ (t.flag (CEL.XOW_VALID c k) = true ∧ t.rd (CEL.XOW_MSLOT c k) = n)) ∧
    ((∀ j, 1 ≤ j → j < 16 → ¬ s.SlotUsed j) → ∃ t, exec (.zeroiseAll (m, bad)) s = .next t ∧ t.rd (OBJ.MB_STATUS_STATUS m) = (if bad then 6 else 0) ∧
      (∀ j, 1 ≤ j → j < 16 → t.rd (OBJ.SLOT_A_STATE j) = 0) ∧ (∀ i, i < 16 → t.rd (OBJ.OWNER_A_VALID i) = 0) ∧
      (∀ i, i < 8 → t.rd (OBJ.FLEET_VALID i) = 0) ∧ t.objor.ident = s.objor.ident)) ∧
  (∀ (s u v : State) (m n a : Nat) (h b : List Nat), s.Serves m [1, 2] → n = bits (s.arg m 0) 0 4 → a = s.arg m 1 →
    (s.rd (OBJ.SLOT_A_STATE n) ≠ 0 → ∃ t, exec (.installManifest m) s = .next t ∧ t.rd (OBJ.MB_STATUS_STATUS m) = 3 ∧ t.objor = s.objor) ∧
    (s.rd (OBJ.SLOT_A_STATE n) = 0 → n ≠ 0 → a % 16 = 0 → (targetOf a).slot = 16 → s.ManifestReads a 108 h v →
      v.ManifestReads a (mfLen h) b u → (∀ x ∈ mfSects b, x.type ≠ 5 ∧ u.targetBad n x = false) →
      ∃ t, exec (.installManifest m) s = .next t ∧ t.mem = u.mem ∧
        if u.manifestDenied b ≠ 0 then
          t.rd (OBJ.MB_STATUS_STATUS m) = 4 ∧ t.rd (OBJ.MB_STATUS_DETAIL m) = u.manifestDenied b ∧ t.objor = u.objor
        else if formatOk b && ((mfSects b).zipIdx.all fun e => e.1.contentOk (e.1.content b ((u.contentKey b).getD 0) e.2)) then t.rd (OBJ.SLOT_A_STATE n) = 1 ∧ t.objor.install = some ⟨m, n, a, b⟩ ∧
          t.rd (OBJ.MB_STATUS_PEND m) = 1 ∧ t.rd (OBJ.SLOT_B_MANIFEST_ID n) = mfId b % 2 ^ 64
        else t.rd (OBJ.MB_STATUS_STATUS m) = 2 ∧ t.objor = u.objor)) ∧
  (∀ (s u v : State) (r : InstallRun) (b : List Nat), s.objor.install = some r → r.mb < 2 → r.slot < 16 → s.objor.queue = [] →
    s.objor.sealRun = none → s.frozen = false → s.StoreFree → (∀ x ∈ mfSects r.bytes, x.type ≠ 5) →
    s.ManifestReads r.addr r.bytes.length b u →
    (b ≠ r.bytes → ∃ t, exec (.installDone 0 []) s = .next t ∧ t.rd (OBJ.MB_STATUS_STATUS r.mb) = 6 ∧ t.rd (OBJ.MB_STATUS_DETAIL r.mb) = 0xC ∧
      t.rd (OBJ.SLOT_A_STATE r.slot) = 0 ∧ t.objor.install = none) ∧
    (b = r.bytes → u.flag OBJ.STATUS_ERROR = false → (∀ x ∈ mfSects b, u.targetBad r.slot x = false) →
      u.putAll r.slot (bitOf (mfPolicy b) 0) ((mfSects b).zipIdx.map fun e => (e.1, e.1.content b ((u.contentKey b).getD 0) e.2)) =
        .ok (true, v) → ∃ t, exec (.installDone 0 []) s = .next t ∧ t.rd (OBJ.MB_STATUS_STATUS r.mb) = 0 ∧
        t.rd (OBJ.MB_STATUS_PEND r.mb) = 0 ∧ t.rd (OBJ.SLOT_A_STATE r.slot) = 2 ∧ t.rd (OBJ.MB_RES_RES r.mb 1) = mfId b % 2 ^ 64 ∧
        t.objor.install = none ∧ t.mem = v.mem)) ∧
  (∀ (s : State) (m l : Nat), s.Serves m [1, 2] → l = bits (s.arg m 0) 0 8 →
    (s.cvState l ≠ stHalted → ∃ t, exec (.issueSeal m) s = .next t ∧ t.rd (OBJ.MB_STATUS_STATUS m) = 3 ∧ t.objor = s.objor ∧ t.mem = s.mem) ∧
    (s.objor.ident ≠ none → s.isLead l = true → s.cvState l = stHalted → s.flag (LDG.CVST_DRAIN_DONE (regionOf l) (l % 64)) = true →
      s.flag (LDG.CVST_ALLOC_BUSY (regionOf l) (l % 64)) = false → (s.run l).sealed = false → (s.run l).provSlot % 16 = 0 → bufOk (s.arg m 1) 272 = true →
      ∃ t x, exec (.issueSeal m) s = .next t ∧ t.objor = { s.objor with sealRun := some x } ∧ x.mb = m ∧ x.lead = l ∧ x.buf = s.arg m 1 ∧ x.digest = none ∧ x.left = false ∧
        t.rd (LDG.STATUS_DIG_BUSY (regionOf l)) = 1 ∧ t.rd (OBJ.MB_STATUS_PEND m) = 1 ∧ t.mem = s.mem)) ∧
  (∀ (s u : State) (x : SealRun) (body : List Nat) (sig : Nat) (d : Nat × Nat), s.objor.sealRun = some x → x.digested = true → x.digest = some d → x.mb < 2 → s.frozen = false →
    s.objor.queue = [] → body = s.sealBody x.lead x.context d →
    sig = Config.ecdsaSign (s.objor.ident.getD 0) body →
    (s.cvState x.lead ≠ stHalted ∨ x.left = true → ∃ t, exec (.sealWrite false []) s = .next t ∧ t.rd (OBJ.MB_STATUS_STATUS x.mb) = 6 ∧
      t.rd (OBJ.MB_STATUS_DETAIL x.mb) = 0xF ∧ t.mem = s.mem ∧ t.rd OBJ.SEAL_CNT_NEXT = s.rd OBJ.SEAL_CNT_NEXT) ∧
    (s.cvState x.lead = stHalted → x.left = false → Config.ecdsaVerify (Config.publicKey (s.objor.ident.getD 0)) body sig = false →
      ∃ t, exec (.sealWrite false []) s = .next t ∧ t.objor.sealRun = none ∧ t.rd OBJ.STATUS_ERROR = 1 ∧ t.rd OBJ.STATUS_READY = 0 ∧
        t.mem = s.mem ∧ t.rd OBJ.SEAL_CNT_NEXT = s.rd OBJ.SEAL_CNT_NEXT) ∧
    (s.cvState x.lead = stHalted → x.left = false → Config.ecdsaVerify (Config.publicKey (s.objor.ident.getD 0)) body sig = true → s.StoreFree →
      (State.logForSeal { s with objor := { s.objor with sealRun := none } } ((s.run x.lead).provSlot % 16)).ownPut x.buf 272
        (body ++ toBytes 96 sig) = .ok (true, u) →
      ∃ t, exec (.sealWrite false []) s = .next t ∧ t.objor = u.objor ∧ t.mem = u.mem ∧ t.rd (OBJ.MB_STATUS_STATUS x.mb) = 0 ∧
        t.rd OBJ.SEAL_CNT_NEXT = (u.rd OBJ.SEAL_CNT_NEXT + 1) % 2 ^ OBJ.SEAL_CNT_NEXT.width ∧ (t.run x.lead).sealed = true ∧
        t.rd (OBJ.MB_RES_RES x.mb 0) = u.rd OBJ.SEAL_CNT_NEXT ∧ ∀ b ∈ t.bonds, b.lead ≠ x.lead))

/-- On a mailbox that Objor serves; u is the state that Objor's read of the buffer leaves. NONCE in every state: OK, a
fresh nonce of the mailbox, the unit ID in RES0 and RES1. LC_REQUEST of a transition that R372 does not allow:
ILLEGAL_STATE (3). Of an allowed one for the vendor: DENIED (4) where the signature fails or the nonce or (but in
BLANK) the unit's ID is another; else BAD_ARG (2) where MAGIC or a reserved byte is wrong; else, the Store free, no
Store step failing and, from BLANK, the unit-ID code words erased, OK, the nonce consumed, every BLANK slot up to the
target programmed in all copies, PHASE 5 and a device reset due; where step 1 fails, FAULT with 0x0B, PHASE 1, no
reset due by it. ROLL_FORWARD: ILLEGAL_STATE with no open record or outside LOCKED; in LOCKED with one, the Store free
and no step failing: OK and a device reset due. DEBUG_AUTH of a well-formed token with the nonce and unit ID: DENIED
where the vendor's signature fails, else PERM is ORed into DBG.AUTH, the token counted, the nonce consumed, and
APPROVED cleared by SCAN. SELF_TEST_COMPLETE with all tests passed, the counter log readable and no slot INSTALLING:
READY 1, IDENT as held, APPROVED in PRODUCTION with no scan token accepted; without a readable log while the identity
exists, or with a failed test, ERROR 1 and READY 0; a slot INSTALLING becomes FREE, the Store being free; once READY
or in ERROR nothing. -/
def Obligations.LifeCycleAndTokens : Prop :=
  (∀ (s : State) (m : Nat), s.Serves m [0, 1, 2, 3, 7] → ∃ t, exec (.nonce m) s = .next t ∧ t.rd (OBJ.MB_STATUS_STATUS m) = 0 ∧
    t.nonce m = some (s.random % 2 ^ 256) ∧ t.rd (OBJ.MB_RES_RES m 0) = s.rd LC.UNIT_ID0_ID ∧ t.rd (OBJ.MB_RES_RES m 1) = s.rd LC.UNIT_ID1_ID ∧
    t.objor.draws = s.objor.draws + 1 ∧ t.mem = s.mem) ∧
  (∀ (s u : State) (m target : Nat) (b : List Nat), s.Serves m [0, 1, 2, 3, 7] → s.ObjReads (s.arg m 1) 168 b u → target = le b 4 1 →
    (lcAllowed (u.rd LC.STATE_STATE) target = false → ∀ fail k spoil, ∃ t, exec (.lcRequest m fail k spoil) s = .next t ∧
      t.rd (OBJ.MB_STATUS_STATUS m) = 3 ∧ t.objor = u.objor ∧ t.mem = u.mem) ∧
    (lcAllowed (u.rd LC.STATE_STATE) target = true → (target = 2 → u.objor.ident ≠ none ∧ u.objor.cert ≠ []) → le b 56 16 = 0 →
      (Config.ecdsaVerify Config.romKey (b.take 72) (le b 72 96) = false ∨ u.nonce m ≠ some (le b 24 32) ∨
          (u.rd LC.STATE_STATE ≠ 0 ∧ le b 8 16 ≠ u.unitId) → ∀ fail k spoil, ∃ t, exec (.lcRequest m fail k spoil) s = .next t ∧
        t.rd (OBJ.MB_STATUS_STATUS m) = 4 ∧ t.objor = u.objor ∧ t.mem = u.mem) ∧
      (Config.ecdsaVerify Config.romKey (b.take 72) (le b 72 96) = true → u.nonce m = some (le b 24 32) →
          u.rd LC.STATE_STATE = 0 ∨ le b 8 16 = u.unitId →
        (le b 0 4 ≠ 0x434C5848 ∨ le b 5 3 ≠ 0 → ∀ fail k spoil, ∃ t, exec (.lcRequest m fail k spoil) s = .next t ∧
          t.rd (OBJ.MB_STATUS_STATUS m) = 2 ∧ t.objor = u.objor ∧ t.mem = u.mem) ∧
        (le b 0 4 = 0x434C5848 → le b 5 3 = 0 → u.StoreFree → ∀ k spoil,
          ((u.rd LC.STATE_STATE = 0 → ∀ c, c < 3 → u.cwState (1024 * c) = 0) → ∃ t, exec (.lcRequest m 0 k spoil) s = .next t ∧ t.rd (OBJ.MB_STATUS_STATUS m) = 0 ∧ t.rd LC.PROGRESS_PHASE = 5 ∧ t.nonce m = none ∧
            t.rst.due = some 4 ∧ ∀ c j, c < 3 → 1 ≤ j → j ≤ target → u.slotClass c j = 0 → t.cwState (1024 * c + j) = 1) ∧
          (∃ t, exec (.lcRequest m 1 k spoil) s = .next t ∧ t.rd (OBJ.MB_STATUS_STATUS m) = 6 ∧ t.rd (OBJ.MB_STATUS_DETAIL m) = 0xB ∧
            t.rd LC.PROGRESS_PHASE = 1 ∧ t.rst = u.rst))))) ∧
  (∀ (s : State) (m k : Nat) (spoil : Bool), s.Serves m [0, 1, 2, 3, 7] →
    (∀ fail, s.openLc = [] ∨ s.rd LC.STATE_STATE ≠ 7 → ∃ t, exec (.rollForward m fail k spoil) s = .next t ∧ t.rd (OBJ.MB_STATUS_STATUS m) = 3 ∧
      t.mem = s.mem ∧ t.store = s.store) ∧
    (s.rd LC.STATE_STATE = 7 → s.openLc ≠ [] → s.StoreFree → ∃ t, exec (.rollForward m 0 k spoil) s = .next t ∧
      t.rd (OBJ.MB_STATUS_STATUS m) = 0 ∧ t.rst.due = some 4)) ∧
  (∀ (s u : State) (m perm : Nat) (b : List Nat), s.Serves m [2] → s.ObjReads (s.arg m 1) 168 b u → perm = le b 4 1 →
    perm < 16 → le b 0 4 = 0x54445848 → le b 5 3 = 0 → le b 8 16 = u.unitId → u.nonce m = some (le b 24 32) → le b 56 16 = 0 →
    ∃ t, exec (.debugAuth m) s = .next t ∧ t.mem = u.mem ∧ if Config.ecdsaVerify Config.romKey (b.take 72) (le b 72 96) then
        t.rd (OBJ.MB_STATUS_STATUS m) = 0 ∧ t.rd DBG.AUTH_PERM = Nat.lor (u.rd DBG.AUTH_PERM) perm ∧
        t.rd DBG.AUTH_TOKENS = satAdd DBG.AUTH_TOKENS.width (u.rd DBG.AUTH_TOKENS) 1 ∧ t.nonce m = none ∧
        (bitOf perm 2 = true → t.rd OBJ.STATUS_APPROVED = 0)
      else t.rd (OBJ.MB_STATUS_STATUS m) = 4 ∧ t.objor = u.objor ∧ t.rd DBG.AUTH_PERM = u.rd DBG.AUTH_PERM) ∧
  (∀ (s : State) (pass : Nat) (lost : Bool × Bool),
    (s.flag OBJ.STATUS_READY = true ∨ s.flag OBJ.STATUS_ERROR = true → exec (.selfTestComplete pass lost) s = .next s) ∧
    (s.flag OBJ.STATUS_READY = false → s.flag OBJ.STATUS_ERROR = false →
      ((∀ k, k < 16 → s.rd (OBJ.SLOT_A_STATE k) ≠ 1) →
        (s.logLost = false → ∀ b, ∃ t, exec (.selfTestComplete 1023 (false, b)) s = .next t ∧ t.rd OBJ.STATUS_READY = 1 ∧ t.rd OBJ.STATUS_ERROR = 0 ∧
          t.rd OBJ.KAT_PASS = 1023 ∧ t.rd OBJ.KAT_DONE = 1 ∧ t.rd OBJ.STATUS_IDENT = b2n s.objor.ident.isSome ∧ t.objor = s.objor ∧ t.mem = s.mem ∧
          t.rd OBJ.STATUS_APPROVED = b2n (s.rd LC.STATE_STATE == 2 && !s.objor.scanToken)) ∧
        (s.logLost = true → ∃ t, exec (.selfTestComplete 1023 lost) s = .next t ∧ t.rd OBJ.STATUS_READY = 0 ∧ t.rd OBJ.STATUS_ERROR = 1) ∧
        (pass < 1023 → ∃ t, exec (.selfTestComplete pass lost) s = .next t ∧ t.rd OBJ.STATUS_READY = 0 ∧ t.rd OBJ.STATUS_ERROR = 1 ∧
          t.rd OBJ.KAT_PASS = pass ∧ t.mem = s.mem)) ∧
      (∀ k, 1 ≤ k → k < 16 → s.rd (OBJ.SLOT_A_STATE k) = 1 → s.StoreFree → ∃ t, exec (.selfTestComplete pass lost) s = .next t ∧
        t.rd (OBJ.SLOT_A_STATE k) = 0 ∧ t.rd OBJ.KAT_DONE = 1)))

/-- No slice running, not LOCKED, no life-cycle transition, the registers served. FREEZE_REGISTER, and FREEZE_PIN with
PIN_EN = 1, while not frozen: ENTERING with the cause (2, 1), memory unchanged; while frozen or entering: RETRIG
counts alone; the pin without PIN_EN, and either in LOCKED: nothing. FREEZE_ENTERED while entering: FROZEN 1, ENTERING
0, ENTRY_FIO, one freeze counted, the transit queues captured, every READY channel in SELF_REFRESH; else nothing. THAW
while not FROZEN: FRZ_STATUS.WR_IGN alone; while FROZEN: FROZEN 0, no capture, channels of powered regions leave
SELF_REFRESH, memory unchanged where no SEQ command waits. READOUT with the BARs decoded and DBGACC outside LOCKED
without permission or freeze: zeros, DBG.REFUSED.READOUT counts one; with both: the bytes of the address space, the
counters among them having counted on (s.counting, log 1), no other register but OFF_HIT and no memory differing. The
instruction register takes, in LOCKED, IDCODE and BYPASS alone, else the codes of R395, and BYPASS for any other code.
SCAN with an occupied slot or a session: WR_IGN and BYPASS (log 51); without permission: BYPASS; else SCAN is
selected, and no memory and nothing of the Store or of Objor is destroyed (log 144). TAP_RESET selects IDCODE (the
model's choice, log 32). -/
def Obligations.FreezeAndReadout : Prop :=
  (∀ s : State,
    (s.rd LC.STATE_STATE = 7 ∨ s.rd LC.PROGRESS_PHASE ≠ 0 → exec .freezePin s = .next s ∧
      (s.regOpen 0 DBG.FRZ_CTRL_FREEZE.addr = true → exec .freezeRegister s = .next s)) ∧
    (s.flag DBG.FRZ_CTRL_PIN_EN = false → exec .freezePin s = .next s) ∧
    (s.rd LC.STATE_STATE ≠ 7 → s.rd LC.PROGRESS_PHASE = 0 → ∀ e ∈ [(Instr.freezeRegister, 2), (Instr.freezePin, 1)],
      (e.2 = 1 → s.flag DBG.FRZ_CTRL_PIN_EN = true) → (e.2 = 2 → s.regOpen 0 DBG.FRZ_CTRL_FREEZE.addr = true) →
      (s.frozen = true → exec e.1 s = .next (s.count DBG.FRZ_COUNT_RETRIG 1)) ∧
      (s.frozen = false → s.bst.run = none → ∃ t, exec e.1 s = .next t ∧ t.rd DBG.FRZ_STATUS_ENTERING = 1 ∧ t.rd DBG.FRZ_STATUS_CAUSE = e.2 ∧
        t.rd DBG.FRZ_STATUS_FROZEN = 0 ∧ t.mem = s.mem ∧ t.stewards = s.stewards))) ∧
  (∀ (s : State) (fio : Nat),
    (s.flag DBG.FRZ_STATUS_ENTERING = false → exec (.freezeEntered fio) s = .next s) ∧
    (s.flag DBG.FRZ_STATUS_ENTERING = true → ∃ t, exec (.freezeEntered fio) s = .next t ∧ t.rd DBG.FRZ_STATUS_FROZEN = 1 ∧
      t.rd DBG.FRZ_STATUS_ENTERING = 0 ∧ t.rd DBG.FRZ_STATUS_ENTRY_FIO = fio % 2 ^ DBG.FRZ_STATUS_ENTRY_FIO.width ∧
      t.rd DBG.FRZ_COUNT_FREEZES = satAdd DBG.FRZ_COUNT_FREEZES.width (s.rd DBG.FRZ_COUNT_FREEZES) 1 ∧ t.mem = s.mem ∧
      t.rd DBG.TQ_PTR_VALID = 1 ∧ t.rst.capture.isSome = true ∧ ∀ r, r < 4 → t.rd (DDR.STATUS_STATE r) = if s.rd (DDR.STATUS_STATE r) = ddrReady then ddrSelfRefresh else s.rd (DDR.STATUS_STATE r))) ∧
  (∀ s : State, s.regOpen 0 DBG.FRZ_CTRL_THAW.addr = true →
    (s.flag DBG.FRZ_STATUS_FROZEN = false → exec .thaw s = .next (s.wr DBG.FRZ_STATUS_WR_IGN 1)) ∧
    (s.flag DBG.FRZ_STATUS_FROZEN = true → ∃ t, exec .thaw s = .next t ∧ t.rd DBG.FRZ_STATUS_FROZEN = 0 ∧ t.rd DBG.TQ_PTR_VALID = 0 ∧ t.rst.capture = none ∧
      ((∀ c, c < 256 → (s.cell c).seqCmd = none) → t.mem = s.mem) ∧ ∀ r, r < 4 → t.rd (DDR.STATUS_STATE r) = if s.rd (DDR.STATUS_STATE r) = ddrSelfRefresh ∧ s.regionOn r = true then ddrReady
        else s.rd (DDR.STATUS_STATE r))) ∧
  (∀ (s z : State) (off n a : Nat) (as : List Nat), as = (List.range n).map (s.rd DBG.WIN_BASE_BASE * 2 ^ 16 + off % 0x10000 + ·) →
    z = { s with rst := { s.rst with ir := 0x20 } } → a < 2 ^ 48 → a < 0xA00000 ∨ 0xA01000 ≤ a →
    (s.flag DBG.FRZ_STATUS_FROZEN = false ∨ bitOf (s.rd DBG.AUTH_PERM) 1 = false →
      (s.barsOpen = true → exec (.readout off n) s = .next { s.count DBG.REFUSED_READOUT 1 with answer := List.replicate n 0 }) ∧
      (s.rst.scanning = false → s.rd LC.STATE_STATE ≠ 7 → exec (.dbgacc (0x20, a) true) s =
        .next { s.count DBG.REFUSED_READOUT 1 with answer := List.replicate 8 0, rst := { s.rst with ir := 0x20 } })) ∧
    (s.flag DBG.FRZ_STATUS_FROZEN = true → bitOf (s.rd DBG.AUTH_PERM) 1 = true →
      (s.barsOpen = true → ∃ t, exec (.readout off n) s = .next t ∧ t.mem = s.mem ∧
        OnlyRegs { s.counting as with freeCtr := t.freeCtr, answer := t.answer } t [DBG.FRZ_STATUS_OFF_HIT.key] ∧
        t.answer = as.map fun x => if s.peekOff x then 0 else (s.counting as).peek x) ∧
      (s.rst.scanning = false → s.rd LC.STATE_STATE ≠ 7 → ∃ t, exec (.dbgacc (0x20, a) true) s = .next t ∧ t.mem = s.mem ∧ t.rst.ir = 0x20 ∧
        t.answer = ((List.range 8).map (a + ·)).map fun x => if s.peekOff x then 0 else (z.counting ((List.range 8).map (a + ·))).peek x))) ∧
  (∀ (s : State) (code a : Nat),
    (s.rd LC.STATE_STATE = 7 → code ≠ 0x30 → ∀ read, exec (.dbgacc (code, a) read) s =
      .next { s with rst := { s.rst with ir := if code = 1 then 1 else 0xFF } }) ∧
    (s.rd LC.STATE_STATE ≠ 7 → code ≠ 0x30 → exec (.dbgacc (code, a) false) s =
      .next { s with rst := { s.rst with ir := if code ∈ [0, 1, 2, 0x20] then code else 0xFF } }) ∧
    exec (.dbgacc (0x30, a) false) s = exec .scan s) ∧
  (∀ s : State,
    (s.bonds ≠ [] ∨ (∃ k, 1 ≤ k ∧ k < 16 ∧ s.rd (OBJ.SLOT_A_STATE k) ≠ 0) →
      exec .scan s = .next { s.wr DBG.FRZ_STATUS_WR_IGN 1 with rst := { s.rst with ir := 0xFF } }) ∧
    (s.bonds = [] → (∀ k, 1 ≤ k → k < 16 → s.rd (OBJ.SLOT_A_STATE k) = 0) →
      (bitOf (s.rd DBG.AUTH_PERM) 2 = false → exec .scan s = .next { s with rst := { s.rst with ir := 0xFF } }) ∧
      (bitOf (s.rd DBG.AUTH_PERM) 2 = true → ∃ t, exec .scan s = .next t ∧ t.rst = { s.rst with ir := 0x30, scanning := true } ∧
        t.mem = s.mem ∧ t.store = s.store ∧ t.objor = s.objor))) ∧
  (∀ s : State, exec .tapReset s = .next { s with rst := { s.rst with ir := 1 } })

/-- PWR.CMD is served. While a PWR command is pending, SET_LEVEL, POWER_OFF and POWER_ON are refused with BUSY; while
another transition runs they are pending (log 84). Otherwise SET_LEVEL: above 3 BAD_ARG; a raising above which some
block PLL's target lies ILLEGAL_STATE; to the present level OK at once, or with VOLT_LAG and PMBus the voltage step
alone; a slower level with PMBus waits for the voltage first, any other change moves the chip off its PLL.
LEVEL_PLL_LOCK, LEVEL_TIMEOUT and PMBUS_DONE end or go on with the change as R403 to R405 say (no request waiting).
POWER_OFF and POWER_ON of D above 35 BAD_ARG; of a domain already so OK at once; where R418 refuses ILLEGAL_STATE;
else POWER_OFF revokes the domain (no slice running) and POWER_ON begins. POWER_ON_DONE: the next domain is on; the
command completes with OK for its domain. LEGACY_WAKE_REQUEST powers a wanted domain that is off, a block's region
first. BLOCK_AUTO_OFF of an idle enabled block begins its power-off; with US = 0 nothing. -/
def Obligations.LevelsAndDomainCommands : Prop :=
  (∀ (s : State) (n : Nat), s.regOpen 0 PWR.CMD_OP.addr = true →
    ∀ e ∈ [(Instr.setLevel n, 1, n), (Instr.powerOff n, 2, n % 64), (Instr.powerOn n, 3, n % 64)],
    (s.flag PWR.CMD_STATUS_PEND = true → ∃ t, exec e.1 s = .next t ∧ t.rd PWR.REJECT_COUNT = satAdd PWR.REJECT_COUNT.width (s.rd PWR.REJECT_COUNT) 1 ∧
      t.rd PWR.LAST_REJECT_CODE = e.2.1 ∧ t.rd PWR.LAST_REJECT_STATUS = 1 ∧ t.rd PWR.CMD_STATUS_PEND = s.rd PWR.CMD_STATUS_PEND ∧ t.power = s.power ∧ t.mem = s.mem) ∧
    (s.flag PWR.CMD_STATUS_PEND = false → s.power.entry ≠ none ∨ s.power.levelRun ≠ none ∨ s.power.redo = true ∨ s.power.rising ≠ [] →
      exec e.1 s = .next { s.wrs [(PWR.CMD_STATUS_PEND, 1), (PWR.CMD_STATUS_OP, e.2.1), (PWR.CMD_STATUS_ABORTED, 0)] with
        power := { s.power with cmdWait := some e.2 } })) ∧
  (∀ (s : State) (l : Nat), s.PwrFree → s.regOpen 0 PWR.CMD_OP.addr = true → s.flag CHIP.CLK_STATUS_ON_PLL = true ∨ s.flag CHIP.CLK_STATUS_FALLBACK = false →
    (3 < l → ∃ t, exec (.setLevel l) s = .next t ∧ t.rd PWR.LAST_REJECT_STATUS = 2 ∧ t.rd PWR.CMD_STATUS_STATUS = 2 ∧ t.power = s.power) ∧
    (s.rd PWR.STATUS_LEVEL < l → l ≤ 3 → (∃ b, b < 32 ∧ s.blockOn b = true ∧ (s.rd (PLL.STATUS_STATE b) ≠ pllOff ∨ (s.block b).pll ≠ none) ∧
        s.overLimit (s.pllTarget b) l = true) →
      ∃ t, exec (.setLevel l) s = .next t ∧ t.rd PWR.LAST_REJECT_STATUS = 3 ∧ t.rd PWR.CMD_STATUS_STATUS = 3 ∧ t.power = s.power) ∧
    (l = s.rd PWR.STATUS_LEVEL → l ≤ 3 →
      (s.flag PWR.STATUS_VOLT_LAG = false ∨ s.flag PWR.PMB_EN = false → exec (.setLevel l) s = .next (s.wrs [(PWR.CMD_STATUS_STATUS, 0),
        (PWR.CMD_STATUS_OP, 1), (PWR.CMD_STATUS_PEND, 0), (PWR.CMD_STATUS_ABORTED, 0), (PWR.EVT_LEVEL_DONE, 1)])) ∧
      (s.flag PWR.STATUS_VOLT_LAG = true → s.flag PWR.PMB_EN = true → ∃ t, exec (.setLevel l) s = .next t ∧ t.rd PWR.CMD_STATUS_PEND = 1 ∧
        t.power = { s.power with redo := true } ∧ t.mem = s.mem)) ∧
    (l ≤ 3 → l ≠ s.rd PWR.STATUS_LEVEL → (s.rd PWR.STATUS_LEVEL < l → ∀ b, b < 32 → s.blockOn b = true →
        s.rd (PLL.STATUS_STATE b) ≠ pllOff ∨ (s.block b).pll ≠ none → s.overLimit (s.pllTarget b) l = false) →
      ∃ t, exec (.setLevel l) s = .next t ∧ t.rd PWR.CMD_STATUS_PEND = 1 ∧ t.rd PWR.STATUS_LEVEL = s.rd PWR.STATUS_LEVEL ∧
      t.mem = s.mem ∧ if l < s.rd PWR.STATUS_LEVEL ∧ s.flag PWR.PMB_EN = true then t.power = { s.power with levelRun := some ⟨l, true, false⟩ } ∧
          t.rd CHIP.CLK_STATUS_ON_PLL = s.rd CHIP.CLK_STATUS_ON_PLL
        else t.power = { s.power with levelRun := some ⟨l, decide (l < s.rd PWR.STATUS_LEVEL), true⟩ } ∧ t.rd CHIP.CLK_STATUS_ON_PLL = 0 ∧
          t.rd CHIP.CLK_STATUS_PLL_LOCK = 0)) ∧
  (∀ (s : State) (l : Nat) (up : Bool), l ≤ 3 → s.power.request = none → s.power.cmdWait = none →
    (s.power.levelRun = some ⟨l, up, true⟩ →
      (∃ t, exec .levelPllLock s = .next t ∧ t.rd CHIP.CLK_STATUS_PLL_LOCK = 1 ∧ t.rd CHIP.CLK_STATUS_ON_PLL = s.rd CHIP.CLK_CTRL_USE_PLL ∧
        if up = false ∧ s.flag PWR.PMB_EN = true then t.power.levelRun = some ⟨l, false, false⟩ else t.power.levelRun = none ∧
          t.rd PWR.STATUS_LEVEL = l ∧ t.rd PWR.CMD_STATUS_STATUS = 0 ∧ t.rd PWR.CMD_STATUS_PEND = 0 ∧ t.rd PWR.EVT_LEVEL_DONE = 1) ∧
      (∃ t, exec .levelTimeout s = .next t ∧ t.power.levelRun = none ∧ t.rd PWR.STATUS_LEVEL = l ∧ t.rd PWR.CMD_STATUS_STATUS = 5 ∧
        t.rd CHIP.CLK_CTRL_USE_PLL = 0 ∧ t.rd PWR.STATUS_VOLT_LAG = b2n (!up && s.flag PWR.PMB_EN) ∧ t.rd PWR.EVT_LEVEL_DONE = 1)) ∧
    (s.power.levelRun = some ⟨l, up, false⟩ →
      (s.pmbusPins = true → ∃ t, exec (.pmbusDone true) s = .next t ∧ t.power.voltLevel = l ∧
        t.power.vout = some (s.rd PWR.PMB_ADDR, s.rd PWR.PMB_PAGE, s.rd (PWR.VLEVEL_VOUT l)) ∧ if up then t.power.levelRun = some ⟨l, true, true⟩ ∧
          t.rd CHIP.CLK_STATUS_ON_PLL = 0 else t.rd PWR.STATUS_LEVEL = l ∧ t.rd PWR.STATUS_VOLT_LAG = 0 ∧ t.rd PWR.CMD_STATUS_STATUS = 0) ∧
      (∀ ok, ok = false ∨ s.pmbusPins = false → ∃ t, exec (.pmbusDone ok) s = .next t ∧ t.power.voltLevel = s.power.voltLevel ∧
        t.power.levelRun = none ∧ t.rd PWR.CMD_STATUS_STATUS = 6 ∧
        if up then t.rd PWR.STATUS_LEVEL = s.rd PWR.STATUS_LEVEL else t.rd PWR.STATUS_LEVEL = l ∧ t.rd PWR.STATUS_VOLT_LAG = 1)) ∧
    (s.power.levelRun = none → s.power.redo = true → ∀ ok, ∃ t, exec (.pmbusDone ok) s = .next t ∧ t.power.redo = false ∧
      t.rd PWR.STATUS_LEVEL = s.rd PWR.STATUS_LEVEL ∧ t.rd PWR.STATUS_VOLT_LAG = b2n (!(ok && s.pmbusPins)) ∧
      t.rd PWR.CMD_STATUS_STATUS = if ok && s.pmbusPins then 0 else 6)) ∧
  (∀ (s : State) (d : Nat), s.PwrFree → s.regOpen 0 PWR.CMD_OP.addr = true → s.bst.run = none → d < 64 →
    (36 ≤ d → ∀ e ∈ [(Instr.powerOff d, 2), (Instr.powerOn d, 3)], ∃ t, exec e.1 s = .next t ∧ t.rd PWR.LAST_REJECT_STATUS = 2 ∧
      t.rd PWR.LAST_REJECT_CODE = e.2 ∧ t.power = s.power) ∧
    (d < 36 → ∀ e ∈ [(Instr.powerOff d, 2, false), (Instr.powerOn d, 3, true)], s.domainOn d = e.2.2 → exec e.1 s =
      .next (s.wrs [(PWR.CMD_STATUS_STATUS, 0), (PWR.CMD_STATUS_OP, e.2.1), (PWR.CMD_STATUS_PEND, 0), (PWR.CMD_STATUS_ABORTED, 0), (PWR.EVT_DOMAIN_DONE, 1)])) ∧
    (d < 36 → s.domainOn d = true →
      (¬ s.MayPowerOff d → ∃ t, exec (.powerOff d) s = .next t ∧ t.rd PWR.LAST_REJECT_STATUS = 3 ∧ t.power = s.power ∧ t.mem = s.mem ∧ t.domainOn d = true) ∧
      (s.MayPowerOff d → ∃ t, exec (.powerOff d) s = .next t ∧ t.power = { s.power with entry := some (offEntry d false) } ∧ t.rd PWR.STATUS_ENTERING = 1 ∧
        t.rd PWR.CMD_STATUS_PEND = 1 ∧ t.domainOn d = true ∧ t.mem = s.mem ∧ (d < 32 → bitOf (t.rd NOC.REVOKE_BLK) d = true))) ∧
    (d < 36 → s.domainOn d = false →
      (d < 32 → s.regionOn (regionOfBlock d) = false → ∃ t, exec (.powerOn d) s = .next t ∧ t.rd PWR.LAST_REJECT_STATUS = 3 ∧ t.power = s.power) ∧
      ((d < 32 → s.regionOn (regionOfBlock d) = true) → ∃ t, exec (.powerOn d) s = .next t ∧ t.rd PWR.CMD_STATUS_PEND = 1 ∧
        t.power = { s.power with rising := [d], risingCmd := some d }))) ∧
  (∀ (s : State) (d : Nat) (rest : List Nat), s.power.rising = d :: rest → d < 36 → s.power.request = none → s.power.cmdWait = none →
    ∃ t, exec .powerOnDone s = .next t ∧
    t.power.rising = rest ∧ t.domainOn d = true ∧ (s.power.risingCmd = some d → t.rd PWR.CMD_STATUS_PEND = 0 ∧ t.rd PWR.CMD_STATUS_STATUS = 0 ∧
      t.power.risingCmd = none)) ∧
  (∀ (s : State) (d : Nat), d < 36 → s.power.entry = none → s.domainOn d = false → s.power.rising = [] →
    (s.flag PWR.CTRL_LEGACY_WAKE = false → exec (.legacyWakeRequest d) s = .next s) ∧
    (s.flag PWR.CTRL_LEGACY_WAKE = true → (∃ q ∈ s.net.waiting, if d < 32 then q.target.domains.1 = some d else q.target.domains.2 = some (d - 32)) →
      exec (.legacyWakeRequest d) s =
      .next { s with power := { s.power with rising := (if d < 32 ∧ s.regionOn (regionOfBlock d) = false then [32 + regionOfBlock d] else []) ++ [d] } })) ∧
  (∀ (s : State) (b : Nat), b < 32 →
    (s.rd PWR.BLK_AUTO_US = 0 → exec (.blockAutoOff b) s = .next s) ∧
    (s.rd PWR.BLK_AUTO_US ≠ 0 → bitOf (s.rd PWR.BLK_AUTO_EN_EN) b = true → s.blockOn b = true → s.BlockStill b →
      s.flag (FAB.STATUS_RUN b) = false ∨ s.rd (FAB.PLANE_TILE_USED b (s.rd (FAB.STATUS_ACTIVE b))) = 0 → s.PwrFree →
      s.flag (FAB.STATUS_ARMED b) = false →
      (s.frozen = false → s.bst.run = none → ∃ t, exec (.blockAutoOff b) s = .next t ∧ t.power = { s.power with entry := some (offEntry b true) } ∧
        t.rd PWR.STATUS_ENTERING = 1 ∧ t.rd PWR.CMD_STATUS_PEND = s.rd PWR.CMD_STATUS_PEND ∧ t.mem = s.mem) ∧
      (s.frozen = true → ∃ t, exec (.blockAutoOff b) s = .next t ∧ t.power = s.power ∧ t.mem = s.mem ∧
        t.rd (PWR.REFUSE_COUNT 6) = satAdd (PWR.REFUSE_COUNT 6).width (s.rd (PWR.REFUSE_COUNT 6)) 1)))

/-- PWR.SLEEP is served, and no PWR command waits for a transition. SLEEP_IDLE, SLEEP_DOZE and SLEEP_DORMANT: while a
command or transition runs the request waits; else a refuser of R408 refuses it, and without one (no slice running)
IDLE is entered, or the entry begins with the domains that are on. SLEEP_CANCEL clears the pending request (OUTCOME
4), or does nothing. AUTO_SLEEP with AUTO.EN = 0, a steward awake or a DMA active: nothing; else the request of
AUTO.STATE. QUIESCE_DONE without traffic and freeze, CLOCKS_STOPPED and SAVE_DONE at their steps move the entry on
where no refuser holds; a held one (in freeze also that of A1) abandons it: OUTCOME 2 with the point, the saved copies
not written at A3. ISOLATE of a DOZE or DORMANT entry: its domains are off, the sleep state holds; of a POWER_OFF: its
domain is off, the command OK. WAKE of an enabled source: LAST_WAKE names it unless a wake is latched in DOZE or
DORMANT, WAKE_SRCS gathers them; IDLE ends, a pending request is cancelled. Sources not enabled do nothing.
OTIMER_EXPIRY wakes with source 5. CONVOY_WAKE_PATTERN is passed on; it wakes no awake device. IDLE_EXIT with an event
for a steward or a request waiting ends IDLE and counts; else nothing. WAKE_RESTORE without a wake, or above DOZE:
nothing; else awake, OUTCOME 1 and, with LEGACY_WAKE = 0, EVT.WOKE and the domains that were on; with LEGACY_WAKE = 1
(out of DOZE) no domain is powered and EVT.WOKE stands. -/
def Obligations.SleepAndWake : Prop :=
  (∀ (s : State) (e : Instr × Nat), e ∈ [(.sleepIdle, 1), (.sleepDoze, 2), (.sleepDormant, 3)] → s.regOpen 0 PWR.SLEEP_REQ.addr = true →
    (¬ s.PwrFree → exec e.1 s = .next (({ s with power := { s.power with request := some e.2 } }).wrs [(PWR.SLEEP_PEND, 1),
      (PWR.SLEEP_STATUS_STATE, e.2)])) ∧
    (s.PwrFree → ¬ s.MaySleep e.2 → ∃ t, exec e.1 s = .next t ∧ t.rd PWR.SLEEP_STATUS_OUTCOME = 3 ∧
      t.rd PWR.LAST_REFUSE_REFUSER = (s.refusers e.2).headD 0 ∧ t.rd PWR.LAST_REJECT_STATUS = 3 ∧ t.power.entry = none ∧ t.power.sleep = 0 ∧ t.mem = s.mem ∧
      ∀ k ∈ s.refusers e.2, t.rd (PWR.REFUSE_COUNT k) = satAdd (PWR.REFUSE_COUNT k).width (s.rd (PWR.REFUSE_COUNT k)) 1) ∧
    (s.PwrFree → s.MaySleep e.2 → s.bst.run = none → ∃ t, exec e.1 s = .next t ∧ t.power.request = none ∧ t.mem = s.mem ∧
      if e.2 = 1 then t.power.sleep = 1 else t.power.entry = some ⟨e.2, 36, s.rd PWR.DOMAINS_BLK_ON, s.rd PWR.DOMAINS_RGN_ON, 2, false⟩ ∧
        t.rd PWR.STATUS_ENTERING = 1 ∧ t.power.wasBlocks = s.rd PWR.DOMAINS_BLK_ON ∧ t.power.wasRegions = s.rd PWR.DOMAINS_RGN_ON)) ∧
  (∀ s : State,
    (s.power.request = none → s.regOpen 0 PWR.SLEEP_REQ.addr = true → exec .sleepCancel s = .next s) ∧
    (s.power.request ≠ none → s.regOpen 0 PWR.SLEEP_REQ.addr = true → exec .sleepCancel s = .next (({ s with power := { s.power with request := none } }).wrs [(PWR.SLEEP_PEND, 0),
      (PWR.SLEEP_STATUS_OUTCOME, 4), (PWR.SLEEP_STATUS_POINT, 0)])) ∧
    (s.flag PWR.AUTO_EN = false ∨ (∃ w, w < 4 ∧ (s.steward w).wfi = false) ∨ (∃ i, i < 8 ∧ s.flag (DMA.STATUS_PEND i) = true) ∨
      (∃ c, c < 256 ∧ s.flag (SEQ.RING_STATUS_DMA_ACTIVE c) = true) → exec .autoSleep s = .next s) ∧
    (s.flag PWR.AUTO_EN = true → (∀ w, w < 4 → (s.steward w).wfi = true) → (∀ i, i < 8 → s.flag (DMA.STATUS_PEND i) = false) →
      (∀ c, c < 256 → s.flag (SEQ.RING_STATUS_DMA_ACTIVE c) = false) → ∀ e ∈ [(Instr.sleepIdle, 1), (.sleepDoze, 2), (.sleepDormant, 3)],
      max 1 (s.rd PWR.AUTO_STATE) = e.2 → s.regOpen 0 PWR.SLEEP_REQ.addr = true → exec .autoSleep s = exec e.1 s)) ∧
  (∀ (s : State) (e : Entry), s.power.entry = some e →
    (∀ q, e.stage = 2 → s.entryTraffic e = false → s.frozen = false → q = (onesBelow e.regions 4).foldl State.quiesceRegion s →
      q.entryRefusers e = [] → exec .quiesceDone s = .next { q with power := { q.power with entry := some { e with stage := 3 } } }) ∧
    (e.stage = 3 → s.entryRefusers e = [] → exec .clocksStopped s = .next { s with power := { s.power with entry := some { e with stage := 4 } } }) ∧
    (e.stage = 4 → s.entryRefusers e = [] → ∃ t, exec .saveDone s = .next t ∧ t.regs = s.regs ∧
      t.power = { s.power with entry := some { e with stage := 5 } } ∧
      (∀ a, a < oasisBase ∨ oasisBase + 0x24000 ≤ a → t.readByte a = s.readByte a) ∧ ∀ b, b < 32 → bitOf e.blocks b = true → bitOf t.saveFlags b = true) ∧
    (e.kind ≠ 0 → s.entryRefusers e ≠ [] → s.power.request = none → s.power.cmdWait = none →
      ∀ i ∈ [(Instr.quiesceDone, 2, 1), (.clocksStopped, 3, 2), (.saveDone, 4, 3)], e.stage = i.2.1 → (i.2.2 = 1 → s.frozen = true) →
      ∃ t, exec i.1 s = .next t ∧ t.power.entry = none ∧ t.rd PWR.STATUS_ENTERING = 0 ∧ t.rd PWR.SLEEP_STATUS_OUTCOME = 2 ∧
        t.rd PWR.SLEEP_STATUS_POINT = i.2.2 ∧ t.rd PWR.DOMAINS_BLK_ON = s.rd PWR.DOMAINS_BLK_ON ∧ t.mem = s.mem) ∧
    (e.stage = 5 → e.kind = 2 ∨ e.kind = 3 → e.blocks < 2 ^ 32 → e.regions < 16 → ∃ t, exec .isolate s = .next t ∧ t.power.sleep = e.kind ∧ t.power.entry = none ∧
      (∀ b, b < 32 → t.blockOn b = (s.blockOn b && !bitOf e.blocks b)) ∧ (∀ r, r < 4 → t.regionOn r = (s.regionOn r && !bitOf e.regions r)) ∧
      t.rd CHIP.CLK_STATUS_ON_PLL = 0) ∧
    (e.stage = 5 → e.kind = 0 → e.auto = false → s.power.request = none → s.power.cmdWait = none → e.blocks < 2 ^ 32 → e.regions < 16 → ∃ t, exec .isolate s = .next t ∧
      t.power.entry = none ∧ (∀ b, b < 32 → t.blockOn b = (s.blockOn b && !bitOf e.blocks b)) ∧
      (∀ r, r < 4 → t.regionOn r = (s.regionOn r && !bitOf e.regions r)) ∧ t.rd PWR.CMD_STATUS_PEND = 0 ∧ t.rd PWR.CMD_STATUS_STATUS = 0 ∧
      t.rd PWR.EVT_DOMAIN_DONE = 1)) ∧
  (∀ (s : State) (fired : List (Nat × Nat)) (t : Nat),
    (fired.filter s.wakeEnabled = [] → exec (.wake fired t) s = .next s) ∧
    (∀ k i, fired.filter s.wakeEnabled = [(k, i)] → i < 32 → s.power.cmdWait = none → ∃ u, exec (.wake fired t) s = .next u ∧
      (if 2 ≤ s.power.sleep ∧ s.power.wakes ≠ [] then u.rd PWR.LAST_WAKE_SRC = s.rd PWR.LAST_WAKE_SRC
        else u.rd PWR.LAST_WAKE_SRC = k ∧ u.rd PWR.LAST_WAKE_INDEX = (if k = 6 then i else 0) ∧ u.rd PWR.LAST_WAKE_TIME = t % 2 ^ 48) ∧
      bitOf (u.rd PWR.WAKE_SRCS_FIRED) (k - 1) = true ∧ u.mem = s.mem ∧ (s.power.sleep ≠ 1 → s.power.request = none → u.power = { s.power with wakes := s.power.wakes ++ [(k, i)] }) ∧
      (s.power.sleep = 0 → s.power.request ≠ none → s.power.entry = none → u.power = { s.power with request := none } ∧ u.rd PWR.SLEEP_STATUS_OUTCOME = 4) ∧
      (2 ≤ s.power.sleep → s.power.request ≠ none → u.power = { s.power with request := none, wakes := s.power.wakes ++ [(k, i)] } ∧ u.rd PWR.SLEEP_STATUS_OUTCOME = 4) ∧
      (s.power.sleep = 1 → s.power.request = none → u.power = { s.power with sleep := 0, wakes := [] } ∧ u.rd PWR.SLEEP_STATUS_OUTCOME = 1)) ∧
    (s.flag PWR.OTIMER_EN = false → exec .otimerExpiry s = .next s) ∧
    (s.flag PWR.OTIMER_EN = true → exec .otimerExpiry s = exec (.wake [(5, 0)] (s.rd PWR.OTIMER_CMP))
      ((s.reached PWR.OTIME_TICKS (s.rd PWR.OTIMER_CMP)).wr PWR.OTIMER_EN 0)) ∧
    (s.power.sleep = 0 → s.power.entry = none → s.power.request = none → exec (.convoyWakePattern t) s = .next s.passWake) ∧
    (s.power.sleep ≠ 0 → exec (.convoyWakePattern t) s = exec (.wake [(2, 0)] t) s.passWake) ∧
    (s.power.sleep ≠ 1 ∨ (s.anySleeper = false ∧ s.net.waiting = []) → exec .idleExit s = .next s) ∧
    (s.power.sleep = 1 → s.anySleeper = true ∨ s.net.waiting ≠ [] → s.power.request = none → s.power.cmdWait = none → exec .idleExit s = .next ((({ s with power := { s.power with sleep := 0 } }).wrs
      [(PWR.SLEEP_STATUS_OUTCOME, 1), (PWR.SLEEP_STATUS_POINT, 0)]).count PWR.IDLE_EXITS_COUNT 1)) ∧
    (s.power.sleep < 2 ∨ s.power.wakes = [] → exec .wakeRestore s = .next s) ∧
    (s.power.sleep = 2 → s.power.wakes ≠ [] → s.flag PWR.STATUS_SLEEP_SUPPLY = false → s.flag PWR.CTRL_LEGACY_WAKE = true → s.rd LC.STATE_STATE ≠ 7 →
      s.power.request = none → s.power.cmdWait = none →
      ∃ u, exec .wakeRestore s = .next u ∧ u.power = { s.power with sleep := 0, wakes := [] } ∧ u.rd PWR.EVT_WOKE = s.rd PWR.EVT_WOKE ∧
        u.rd PWR.SLEEP_STATUS_OUTCOME = 1 ∧ u.mem = s.mem ∧ u.rd PWR.DOMAINS_BLK_ON = s.rd PWR.DOMAINS_BLK_ON ∧
        ∀ w, w < 4 → (u.steward w).pc = 2 * s.rd PWR.WAKE_VEC_ADDR ∧ (u.steward w).inReset = false) ∧
    (2 ≤ s.power.sleep → s.power.wakes ≠ [] → s.flag PWR.STATUS_SLEEP_SUPPLY = false → s.flag PWR.CTRL_LEGACY_WAKE = false →
      s.power.request = none → s.power.cmdWait = none →
      ∃ u, exec .wakeRestore s = .next u ∧ u.power.sleep = 0 ∧ u.power.wakes = [] ∧ u.rd PWR.EVT_WOKE = 1 ∧ u.rd PWR.SLEEP_STATUS_OUTCOME = 1 ∧
        (∀ b, b < 32 → bitOf s.power.wasBlocks b = true → u.blockOn b = true) ∧ ∀ r, r < 4 → bitOf s.power.wasRegions r = true → u.regionOn r = true))

/-- In DOZE and DORMANT the detectors but that of the rails do nothing. CHECK_POINT of a RUNNING caravan in freeze, with
its clock gated, or whose members agree: nothing; where a shadow count differs: fault 0x01 with the lead.
SHADOW_MISMATCH: parity counts SHADOW_CORR, else fault 0x04. FIO_WINDOW without a reference: FIO_UNCHECKED; with one,
a count in 388 to 412 is good, another fault 0x1C. SUPPLY_EXCURSION asleep is kept for the wake; awake fault 0x1A with
the rail, for VDDQ_DDR fault 0x10 of every region. TEMP_SAMPLE, with 24 readings in 1/16 degree: a sensor more than 15
degrees off its neighbour raises 0x1E, one above 130 degrees and within 10 of it 0x1B; all 0: nothing.
LOCKSTEP_MISMATCH stops steward u and reports 0x18, or 0x19 for Objor. FAULT_REPORT: the oldest report, those of
detectors no other command stands for (R18) among them, is logged while the log has room, else OVF; it is counted by
scope, and a scope with caravans is contained; a LOGGED one sets EVT. CONTAINMENT_HALT: the RUNNING and ARMED caravans
named are HALTED, every lane of the scope is safe or entering it. CONTAINMENT_CONFIRM: EVT, the containment ends (no
freeze selected). ESCALATION below CHIP: the next scope, ESC in the record, one more counted. The registers served:
FAULT_INJECT of an unassigned code or unit: WR_IGN alone; else the fault is raised with INJ. LOG_POP drops the oldest
record. STEWARD_RESTART restarts at WAKE_VEC, or sets WR_IGN while the fault is present. -/
def Obligations.FaultDetectorsAndHub : Prop :=
  (∀ (s : State) (l : Nat), (s.frozen = true ∨ s.flag (PLL.STATUS_CLK_RUN (blockOf l)) = false) → exec (.checkPoint l []) s = .next s) ∧
  (∀ (s : State) (l : Nat), s.isLead l = true → s.cvState l = stRunning → s.frozen = false → s.flag (PLL.STATUS_CLK_RUN (blockOf l)) = true →
    ((∀ c ∈ s.members l, (s.cell c).chk = (s.cell l).chk) → exec (.checkPoint l []) s = .next s) ∧
    (∀ c n, c ∈ s.members l → n ≠ s.rd (SEQ.SC_SC c) → exec (.checkPoint l [(c, n)]) s = .next { s with faultQ := s.faultQ ++ [⟨0x01, l, false, 7, []⟩] })) ∧
  (∀ (s : State) (u n : Nat) (b : Bool) (temps : List Int), 2 ≤ s.power.sleep → exec (.shadowMismatch u b) s = .next s ∧
    exec (.fioWindow n) s = .next s ∧ exec (.tempSample temps) s = .next s ∧ exec (.lockstepMismatch u b) s = .next s) ∧
  (∀ (s : State) (u : Nat), s.power.sleep < 2 → exec (.shadowMismatch u true) s = .next (s.count FLT.ESC_SHADOW_CORR 1) ∧
    (u < 293 → exec (.shadowMismatch u false) s = .next { s with faultQ := s.faultQ ++ [⟨0x04, u, false, 7, []⟩] })) ∧
  (∀ (s : State) (n : Nat), s.power.sleep < 2 →
    (s.flag CHIP.CLK_STATUS_TREF_OK = false → s.flag CHIP.CLK_STATUS_CVYREF_OK = false → exec (.fioWindow n) s = .next (s.wr FLT.STATUS_FIO_UNCHECKED 1)) ∧
    (s.flag CHIP.CLK_STATUS_TREF_OK = true ∨ s.flag CHIP.CLK_STATUS_CVYREF_OK = true → exec (.fioWindow n) s =
      .next (if 388 ≤ n ∧ n ≤ 412 then s.wr FLT.STATUS_FIO_UNCHECKED 0 else (s.wr FLT.STATUS_FIO_UNCHECKED 0).report 0x1C 0))) ∧
  (∀ (s : State) (rail : Nat), rail < 13 → s.rst.held = false →
    (2 ≤ s.power.sleep → exec (.supplyExcursion rail) s = .next (s.wr PWR.STATUS_SLEEP_SUPPLY 1)) ∧
    (s.power.sleep < 2 → rail ≠ 6 → exec (.supplyExcursion rail) s =
      .next { s with rst := { s.rst with supply := true }, faultQ := s.faultQ ++ [⟨0x1A, rail, false, 7, []⟩] }) ∧
    (s.power.sleep < 2 → rail = 6 → ∃ t, exec (.supplyExcursion rail) s = .next t ∧ t.rst.supply = true ∧
      ∀ r, r < 4 → ∃ ls, ⟨0x10, 288 + r, false, 7, ls⟩ ∈ t.faultQ)) ∧
  (∀ s : State, exec (.tempSample (List.replicate 24 0)) s = .next s) ∧
  (∀ (s : State) (temps : List Int) (d : Nat → Nat), temps.length = 24 → s.power.sleep < 2 → (∀ i, d i = (temps.getD i 0 - temps.getD (Config.neighbour i) 0).natAbs) →
    ∃ t, exec (.tempSample temps) s = .next t ∧ t.mem = s.mem ∧ ∀ i, i < 24 → (240 < d i → ⟨0x1E, i, false, 7, []⟩ ∈ t.faultQ) ∧
      (130 * 16 < temps.getD i 0 → d i ≤ 160 → ⟨0x1B, i, false, 7, []⟩ ∈ t.faultQ)) ∧
  (∀ (s : State) (u : Nat) (present : Bool), s.power.sleep < 2 →
    (u < 4 → ∃ t, exec (.lockstepMismatch u present) s = .next t ∧ (t.steward u).stopped = true ∧ t.faultQ = s.faultQ ++ [⟨0x18, u, false, 7, []⟩] ∧
      bitOf (t.rd FLT.STW_PRESENT) u = present ∧ t.mem = s.mem) ∧
    (4 ≤ u → exec (.lockstepMismatch u present) s = .next { s with faultQ := s.faultQ ++ [⟨0x19, 0, false, 7, []⟩] })) ∧
  (∀ (s : State) (time : Nat), s.faultQ = [] → exec (.faultReport (time, [])) s = .next s) ∧
  (∀ (s : State) (time scope : Nat) (own : List (Nat × Nat)) (f : FaultRep) (rest : List FaultRep), (s.power.sleep < 2 ∨ own = []) → (own.foldl State.detected s).faultQ = f :: rest → scope = (if f.scope = 7 then (codeScope f.code f.unit).getD 6 else f.scope) →
    scope < 7 → ∃ t, exec (.faultReport (time, own)) s = .next t ∧ t.faultQ = rest ∧ t.mem = s.mem ∧ t.hub.nextId = s.hub.nextId + 1 ∧
      t.rd (FLT.CNT_COUNT scope) = satAdd (FLT.CNT_COUNT scope).width (s.rd (FLT.CNT_COUNT scope)) 1 ∧
      (s.hub.log.length < 64 → t.hub.log = s.hub.log ++ [⟨s.hub.nextId, f.code, scope, f.unit, f.inj, false, time⟩]) ∧
      (64 ≤ s.hub.log.length → t.hub.log = s.hub.log ∧ t.rd FLT.STATUS_OVF = 1) ∧
      (scope = 6 → t.rd FLT.STATUS_EVT = 1 ∧ t.hub.contains = s.hub.contains) ∧
      (scope < 4 → f.code ≠ 0x09 → t.hub.contains = s.hub.contains ++ [⟨s.hub.nextId, f.code, scope, f.unit, s.scopeLeads scope f.unit f.leads, false⟩]) ∧
      (scope = 4 → f.unit < 4 → bitOf (t.rd FLT.STW_FAULTED) f.unit = true ∧ (t.steward f.unit).inReset = true) ∧ (scope = 5 → t.rd OBJ.STATUS_ERROR = 1)) ∧
  (∀ (s : State) (id : Nat) (c : Contain),
    (s.hub.contains.find? (fun e => e.id == id && !e.halted) = some c → s.bst.run = none → (∀ l ∈ c.leads, l < 256 ∧ s.isLead l = true) →
      (∀ k ∈ s.scopeCells c, k < 256) → ∃ t, exec (.containmentHalt id) s = .next t ∧
      (∀ l ∈ c.leads, t.cvState l = if s.busy l then stHalted else s.cvState l) ∧
      (∀ k ∈ s.scopeCells c, ∀ n, n < 4 → t.flag (PIN.STATE_SAFE k n) = true ∨ bitOf (t.cell k).entering n = true) ∧ t.mem = s.mem) ∧
    (s.hub.contains.find? (fun e => e.id == id && e.halted) = some c → bitOf (s.rd FLT.FRZ_SEL_SCOPE) c.scope = false → exec (.containmentConfirm id) s =
      .next { s.wr FLT.STATUS_EVT 1 with hub := { s.hub with contains := s.hub.contains.filter fun e => e.id != c.id } }) ∧
    (s.hub.contains.find? (fun e => e.id == id && decide (e.scope < 3)) = some c → ∃ t, exec (.escalation id) s = .next t ∧ t.mem = s.mem ∧
      t.rd FLT.ESC_ESC = satAdd FLT.ESC_ESC.width (s.rd FLT.ESC_ESC) 1 ∧ t.hub.log = s.hub.log.map (fun e => if e.id = c.id then { e with esc := true } else e) ∧
      ⟨c.id, c.code, c.scope + 1, c.unit, s.scopeLeads (c.scope + 1) c.unit c.leads, false⟩ ∈ t.hub.contains)) ∧
  (∀ (s : State) (code unit : Nat), code < 256 → unit < 4096 → s.regOpen 0 FLT.INJECT_CODE.addr = true →
    (codeScope code unit = none ∨ unitOk code unit = false → exec (.faultInject code unit) s = .next (s.wr FLT.STATUS_WR_IGN 1)) ∧
    (codeScope code unit ≠ none → unitOk code unit = true → code ≠ 0x1A → ∃ leads, exec (.faultInject code unit) s =
      .next { s with faultQ := s.faultQ ++ [⟨code, unit, true, 7, leads⟩] }) ∧
    (code = 0x1A → unit < 13 → unit ≠ 6 → exec (.faultInject code unit) s = .next { s with faultQ := s.faultQ ++ [⟨0x1A, unit, true, 7, []⟩] }) ∧
    (∃ t, exec (.faultInject 0x1A 6) s = .next t ∧ t.mem = s.mem ∧ ∀ r, r < 4 → ∃ ls, ⟨0x10, 288 + r, true, 7, ls⟩ ∈ t.faultQ)) ∧
  (∀ s : State, s.regOpen 0 FLT.LOG_POP_POP.addr = true → exec .logPop s = .next { s with hub := { s.hub with log := s.hub.log.drop 1 } }) ∧
  (∀ (s : State) (w : Nat), w < 4 → s.regOpen 0 FLT.STW_RESTART.addr = true →
    (bitOf (s.rd FLT.STW_PRESENT) w = true → exec (.stewardRestart (2 ^ w)) s = .next (s.wr FLT.STATUS_WR_IGN 1)) ∧
    (bitOf (s.rd FLT.STW_PRESENT) w = false → ∃ t, exec (.stewardRestart (2 ^ w)) s = .next t ∧ (t.steward w).inReset = false ∧ (t.steward w).stopped = false ∧
      (t.steward w).pc = 2 * s.rd PWR.WAKE_VEC_ADDR ∧ bitOf (t.rd FLT.STW_FAULTED) w = false ∧ t.mem = s.mem))

/-- SLICE_GO, BST.RUN served, while a slice runs or with a target out of range: EVT.WR_IGN, no slice starts. With its
resources free, outside freeze and LOCKED: the slice runs, GO 1, STEPS 0, EXPECT the count of R493, the signature
seeded with SLICE times 256 plus target, one run counted; else RESULT NOT_RUN (5) and no slice. SLICE_STEP of a
running slice below EXPECT: STEPS one more and the signature takes the step's record in; the first failing step is
kept. SLICE_COMPLETE with STEPS = EXPECT: DONE, PASS (1) if the signature equals the expected one, else FAIL (2); with
fewer steps INCOMPLETE (3). SLICE_OVERTIME: RESULT 4, not DONE, one counted; with no slice nothing. SCHEDULER_OFFER
with the scheduler off, and both it and AGE_LATE in DOZE and DORMANT: nothing; awake, an entry whose resources are not
free counts SKIPS. AGE_LATE: EVT.LATE when a further LIMIT_S has passed since LAST, else nothing. -/
def Obligations.SelfTestSlices : Prop :=
  (∀ (s : State) (k target lane : Nat), k < 8 → target < 32 → lane < 32 → s.regOpen 0 BST.RUN_GO.addr = true →
    (s.bst.run ≠ none ∨ targetOk k target = false → ∃ t, exec (.sliceGo k target lane) s = .next t ∧ t.rd BST.EVT_WR_IGN = 1 ∧ t.bst = s.bst ∧ t.mem = s.mem) ∧
    (s.bst.run = none → targetOk k target = true → s.rd LC.STATE_STATE ≠ 7 → s.frozen = false → s.SliceReady k target lane →
      ∃ t, exec (.sliceGo k target lane) s = .next t ∧ t.bst.run = some (k, sliceTarget k target, lane) ∧ t.rd BST.RUN_GO = 1 ∧ t.rd BST.RESULT_STEPS = 0 ∧
        t.rd BST.RESULT_EXPECT = sliceExpect k ∧ t.rd BST.SIG_SIG = 256 * k + sliceTarget k target ∧
        t.rd BST.COUNT_RUNS = satAdd BST.COUNT_RUNS.width (s.rd BST.COUNT_RUNS) 1 ∧ t.mem = s.mem) ∧
    (s.bst.run = none → targetOk k target = true → s.rd LC.STATE_STATE = 7 ∨ s.frozen = true ∨ ¬ s.SliceReady k target lane →
      ∃ t, exec (.sliceGo k target lane) s = .next t ∧ t.rd BST.RESULT_RESULT = 5 ∧ t.bst = s.bst ∧ t.mem = s.mem)) ∧
  (∀ (s : State) (pass : Bool) (meas : Nat),
    (s.bst.run = none ∨ s.rd BST.RESULT_EXPECT ≤ s.rd BST.RESULT_STEPS → exec (.sliceStep pass meas) s = .next s) ∧
    (s.bst.run ≠ none → s.rd BST.RESULT_STEPS < s.rd BST.RESULT_EXPECT → ∃ t, exec (.sliceStep pass meas) s = .next t ∧
      t.rd BST.RESULT_STEPS = s.rd BST.RESULT_STEPS + 1 ∧ t.bst = s.bst ∧ t.mem = s.mem ∧
      t.rd BST.SIG_SIG = sigTake (s.rd BST.SIG_SIG) (stepRecord (s.rd BST.RESULT_STEPS + 1) pass) % 2 ^ 64 ∧
      (pass = false → s.flag BST.DIAG_FAIL_VALID = false → t.rd BST.DIAG_FAIL_STEP = s.rd BST.RESULT_STEPS + 1 ∧ t.rd BST.DIAG_FAIL_VALID = 1) ∧
      (pass = true → t.rd BST.DIAG_FAIL_VALID = s.rd BST.DIAG_FAIL_VALID))) ∧
  (∀ (s : State) (k target lane t : Nat), s.bst.run = some (k, target, lane) → k < 8 → ∃ u, exec (.sliceComplete t) s = .next u ∧ u.bst.run = none ∧
    u.rd BST.RUN_GO = 0 ∧ u.rd BST.RESULT_DONE = 1 ∧ u.rd BST.EVT_DONE = 1 ∧ u.mem = s.mem ∧
    u.rd BST.RESULT_RESULT = (if s.rd BST.RESULT_STEPS ≠ sliceExpect k then 3
      else if sigEnd (s.rd BST.SIG_SIG) (sliceExpect k) = sigExpected k target then 1 else 2) ∧
    (u.rd BST.RESULT_RESULT = 1 → u.rd (BST.AGE_LAST k) = t % 2 ^ 48)) ∧
  (∀ s : State, (s.bst.run = none → exec .sliceOvertime s = .next s) ∧
    (s.bst.run ≠ none → ∃ t, exec .sliceOvertime s = .next t ∧ t.bst.run = none ∧ t.rd BST.RESULT_RESULT = 4 ∧ t.rd BST.RESULT_DONE = 0 ∧
      t.rd BST.COUNT_OVERTIME = satAdd BST.COUNT_OVERTIME.width (s.rd BST.COUNT_OVERTIME) 1 ∧ t.mem = s.mem)) ∧
  (∀ s : State,
    (s.flag BST.SCHED_CTRL_EN = false ∨ 2 ≤ s.power.sleep → exec .schedulerOffer s = .next s) ∧
    (∀ e, s.flag BST.SCHED_CTRL_EN = true → s.power.sleep < 2 → s.nextEntry = some e →
      (¬ s.SliceReady (s.rd (BST.SCHED_SLICE e)) (s.rd (BST.SCHED_TARGET e)) (s.rd (BST.SCHED_LANE e)) →
        exec .schedulerOffer s = .next ({ s with bst := { s.bst with next := (e + 1) % 16 } }.count BST.COUNT_SKIPS 1)) ∧
      (s.bst.run = none → targetOk (s.rd (BST.SCHED_SLICE e)) (s.rd (BST.SCHED_TARGET e)) = true → s.rd LC.STATE_STATE ≠ 7 → s.frozen = false →
        s.SliceReady (s.rd (BST.SCHED_SLICE e)) (s.rd (BST.SCHED_TARGET e)) (s.rd (BST.SCHED_LANE e)) → ∃ t, exec .schedulerOffer s = .next t ∧
        t.bst.next = (e + 1) % 16 ∧ t.bst.run = some (s.rd (BST.SCHED_SLICE e), sliceTarget (s.rd (BST.SCHED_SLICE e)) (s.rd (BST.SCHED_TARGET e)),
          s.rd (BST.SCHED_LANE e)) ∧ t.mem = s.mem))) ∧
  (∀ (s : State) (j t n limit : Nat), j < 8 → n = s.bst.late.getD j 0 → limit = 32768 * s.rd (BST.AGE_LIMIT_S j) →
    (limit = 0 ∨ 2 ≤ s.power.sleep ∨ t < s.rd (BST.AGE_LAST j) + limit * (n + 1) → exec (.ageLate j t) s = .next s) ∧
    (limit ≠ 0 → s.power.sleep < 2 → s.rd (BST.AGE_LAST j) + limit * (n + 1) ≤ t → ∃ u, exec (.ageLate j t) s = .next u ∧ u.rd BST.EVT_LATE = 1 ∧
      u.bst.late.getD j 0 = n + 1 ∧ u.bst.run = s.bst.run ∧ u.mem = s.mem))

/-- For a source n below 2048; the registers are served and the device is not in DOZE or DORMANT. SET_PEND of a disabled
source sets EVC.STATUS.WR_IGN and changes nothing else; of an enabled edge source without host delivery it latches a
firing and counts it, and changes nothing else. CLR_PEND of an edge source completes with no firing latched and no
choice presented for n. DOORBELL completes with the pulse of source 1192 + d appended for each bit d of the four that
is 1, in order. SOURCE_INPUT of a pulse that waits for a rising-edge source completes with the pulse taken and the
firing latched. HOLDOFF_EXPIRY of the steward path, outside freeze, ends the holdoff and changes nothing else. -/
def Obligations.EventSourceCommands : Prop :=
  (∀ (s : State) (n : Nat), n < 2048 → s.regOpen 0 EVC.SET_PEND_SRC.addr = true → s.flag (EVC.SRC_CFG_EN n) = false →
    exec (.setPend n) s = .next (s.wr EVC.STATUS_WR_IGN 1)) ∧
  (∀ (s : State) (n : Nat), n < 2048 → s.regOpen 0 EVC.SET_PEND_SRC.addr = true → s.flag (EVC.SRC_CFG_EN n) = true → s.edgeSense n = true →
    s.flag (EVC.SRC_CFG_HOST n) = false →
    exec (.setPend n) s = .next (s.modSrc n fun x =>
      { x with lat := true, count := satAdd 16 x.count 1, hcount := satAdd 16 x.hcount 1 })) ∧
  (∀ (s : State) (n : Nat), n < 2048 → s.regOpen 0 EVC.CLR_PEND_SRC.addr = true → s.edgeSense n = true → ∃ t, exec (.clrPend n) s = .next t ∧
    (t.src n).lat = false ∧ t.evc.choices = s.evc.choices.filter fun e => e.src != n) ∧
  (∀ (s : State) (v : Nat), s.regOpen 0 EVC.DOORBELL_RING.addr = true → exec (.doorbell v) s =
    .next { s with pulses := s.pulses ++ (onesBelow v 4).map fun d => 1192 + d }) ∧
  (∀ (s : State) (n : Nat), n < 2048 → s.power.sleep < 2 → n ∈ s.pulses → (s.src n).inp = false → s.rd (EVC.SRC_CFG_SENSE n) = 2 →
    s.flag (EVC.SRC_CFG_EN n) = true → s.flag (EVC.SRC_CFG_HOST n) = false →
    ∃ t, exec (.sourceInput n false) s = .next t ∧ (t.src n).lat = true ∧ (t.src n).inp = false ∧
      t.pulses = s.pulses.erase n) ∧
  (∀ (s : State) (n : Nat), s.frozen = false →
    exec (.holdoffExpiry n false) s = .next (s.modSrc n fun x => { x with hold := false }))

/-- The registers served: EOI of steward w by itself for an edge source n (below 2048) that is active on w completes: the
source is active nowhere, and NACT clears where NSRC was n. For a source not active on w the completion is stray: it
is counted, and STRAY_EOI.LAST and STW name it; by another master it sets WR_IGN alone. HOST_EOI of a host-pending
edge source clears the pending bit alone; of a source that is not it is stray with STW = 4. SRC_CONFIG_WRITE of
SRCn_VEC writes the vector alone; of SRCn_CFG with SENSE below 5 and MOD other than 3 it completes with TARGET as
written; with SENSE 5 or more it sets WR_IGN alone. -/
def Obligations.EventCompletions : Prop :=
  (∀ (s : State) (w n : Nat), n < 2048 → s.regOpen w (EVC.STW_EOI_SRC w).addr = true → (s.src n).active = some w → s.edgeSense n = true →
    ∃ t, exec (.eoi w w n) s = .next t ∧ (t.src n).active = none ∧
      (s.flag (EVC.STW_STATE_NACT w) = true → s.rd (EVC.STW_STATE_NSRC w) = n → t.rd (EVC.STW_STATE_NACT w) = 0) ∧
      t.mem = s.mem) ∧
  (∀ (s : State) (w n : Nat), n < 2048 → w < 4 → s.regOpen w (EVC.STW_EOI_SRC w).addr = true → (s.src n).active ≠ some w → ∃ t, exec (.eoi w w n) s = .next t ∧
    t.rd EVC.STRAY_EOI_COUNT = satAdd EVC.STRAY_EOI_COUNT.width (s.rd EVC.STRAY_EOI_COUNT) 1 % 2 ^ EVC.STRAY_EOI_COUNT.width ∧
    t.rd EVC.STRAY_EOI_LAST = n ∧ t.rd EVC.STRAY_EOI_STW = w ∧ t.evc = s.evc) ∧
  (∀ (s : State) (m w n : Nat), s.regOpen m (EVC.STW_EOI_SRC w).addr = true → m ≠ w → exec (.eoi m w n) s = .next (s.wr EVC.STATUS_WR_IGN 1)) ∧
  (∀ (s : State) (n : Nat), n < 2048 → s.regOpen 4 EVC.HOST_EOI_SRC.addr = true → (s.src n).hpend = true → s.edgeSense n = true →
    exec (.hostEoi n) s = .next (s.modSrc n fun x => { x with hpend := false })) ∧
  (∀ (s : State) (n : Nat), n < 2048 → s.regOpen 4 EVC.HOST_EOI_SRC.addr = true → (s.src n).hpend = false → ∃ t, exec (.hostEoi n) s = .next t ∧
    t.rd EVC.STRAY_EOI_LAST = n ∧ t.rd EVC.STRAY_EOI_STW = 4 ∧ t.evc = s.evc) ∧
  (∀ (s : State) (n mask v : Nat), n < 2048 → s.regOpen 0 (EVC.SRC_CFG_EN n).addr = true →
    exec (.srcConfigWrite n true mask v) s = .next (s.wr (EVC.SRC_VEC_ADDR n) (s.merged (EVC.SRC_VEC_ADDR n) mask v))) ∧
  (∀ (s : State) (n mask v : Nat), n < 2048 → s.regOpen 0 (EVC.SRC_CFG_EN n).addr = true → s.merged (EVC.SRC_CFG_SENSE n) mask v < 5 →
    s.merged (EVC.SRC_CFG_MOD n) mask v ≠ 3 → ∃ t, exec (.srcConfigWrite n false mask v) s = .next t ∧
      t.rd (EVC.SRC_CFG_TARGET n) = s.merged (EVC.SRC_CFG_TARGET n) mask v % 2 ^ (EVC.SRC_CFG_TARGET n).width ∧
      t.rd (EVC.SRC_CFG_EN n) = s.merged (EVC.SRC_CFG_EN n) mask v % 2) ∧
  (∀ (s : State) (n mask v : Nat), n < 2048 → s.regOpen 0 (EVC.SRC_CFG_EN n).addr = true → 5 ≤ s.merged (EVC.SRC_CFG_SENSE n) mask v →
    exec (.srcConfigWrite n false mask v) s = .next (s.wr EVC.STATUS_WR_IGN 1))

/-- DELIVERY outside freeze in the awake state completes, and the choice (source, steward, class, vector) that R429 makes,
where it makes one, is presented. ACKNOWLEDGE of steward w (below 4) to which source n (below 2048) is presented with
the vector v, outside freeze, completes: a normal choice is entered with MEPC the pc, MCAUSE the event code, MIE 0,
machine privilege, the pc at twice v, LEVEL 2, NSRC n and NACT 1; a fast one with FEPC the pc, the shadow bank, LEVEL
3, FSRC n and FACT 1. The source is then active on w. RECALL of steward w completes with no choice presented to w and
the others as they were. -/
def Obligations.EventDelivery : Prop :=
  (∀ (s : State) (mie : Nat) (e : Choice), s.frozen = false → s.power.sleep = 0 →
    ((s.takeMie mie).revalidate).nextChoice = some e →
    ∃ t, exec (.delivery mie) s = .next t ∧ e ∈ t.evc.choices ∧ t.mem = s.mem) ∧
  (∀ (s u : State) (w pc n v : Nat) (mie : Bool × List StwAct) (machine : Bool), w < 4 → n < 2048 →
    u = (if s.stwRuns w then (s.stwActs w mie.2).modSteward w fun x => { x with mie := mie.1, machine := machine } else s).revalidate →
    u.frozen = false → u.evc.choices.find? (·.stw == w) = some ⟨n, w, false, v⟩ →
    ∃ t, exec (.acknowledge w pc mie machine) s = .next t ∧ (t.steward w).mepc = pc ∧
      (t.steward w).mcause = 0x800000000000000B ∧ (t.steward w).mie = false ∧ (t.steward w).machine = true ∧
      (t.steward w).pc = 2 * v ∧ t.rd (EVC.STW_STATE_LEVEL w) = 2 ∧
      t.rd (EVC.STW_STATE_NSRC w) = n ∧ t.rd (EVC.STW_STATE_NACT w) = 1 ∧ (t.src n).active = some w) ∧
  (∀ (s u : State) (w pc n v : Nat) (mie : Bool × List StwAct) (machine : Bool), w < 4 → n < 2048 →
    u = (if s.stwRuns w then (s.stwActs w mie.2).modSteward w fun x => { x with mie := mie.1, machine := machine } else s).revalidate →
    u.frozen = false → u.evc.choices.find? (·.stw == w) = some ⟨n, w, true, v⟩ →
    ∃ t, exec (.acknowledge w pc mie machine) s = .next t ∧ (t.steward w).fepc = pc ∧ (t.steward w).fastBank = true ∧
      (t.steward w).machine = true ∧ (t.steward w).pc = 2 * v ∧
      t.rd (EVC.STW_STATE_LEVEL w) = 3 ∧ t.rd (EVC.STW_STATE_FSRC w) = n ∧ t.rd (EVC.STW_STATE_FACT w) = 1 ∧
      (t.src n).active = some w) ∧
  (∀ (s : State) (w : Nat), ∃ t, exec (.recall w) s = .next t ∧
    t.evc.choices = (s.evc.choices.filter fun e => !(e.stw == w)) ∧ t.evc.srcs = s.evc.srcs ∧ t.stewards = s.stewards)

/-- For a steward w that runs. MRET at thread or normal level in machine mode completes with the pc at MEPC, MIE as MPIE
and LEVEL 1; at fast level with the pc at FEPC, the main bank and LEVEL the greater of 1 and the interrupted level
(below 4); in user mode with MCAUSE 2 (illegal instruction), MEPC the pc, and the pc at MTVEC. WFI completes with the
steward waiting at pc, and no register but RECALLS differs. STEWARD_EXCEPTION below level 3 completes with MEPC,
MCAUSE and MTVAL as given, MIE 0, machine privilege and the pc at its MTVEC cut to words; at level 3 the steward stops
and fault 0x18 of w is reported. With debug permitted, DEBUG_HALT of a steward out of reset completes with HELD = 1,
reads x1 to x31 as they are and writes them (x0 reads zero), and DEBUG_RESUME of a held one with HELD = 0 and its pc
as given. -/
def Obligations.StewardEntriesAndReturns : Prop :=
  (∀ (s : State) (w pc : Nat), s.stwRuns w = true → (s.steward w).machine = true → s.rd (EVC.STW_STATE_LEVEL w) ≠ 3 →
    ∃ t, exec (.mret w pc) s = .next t ∧ (t.steward w).pc = (s.steward w).mepc ∧ (t.steward w).mie = (s.steward w).mpie ∧
      (t.steward w).machine = (s.steward w).mpp ∧ t.rd (EVC.STW_STATE_LEVEL w) = 1) ∧
  (∀ (s : State) (w pc : Nat), s.stwRuns w = true → (s.steward w).machine = true → s.rd (EVC.STW_STATE_LEVEL w) = 3 →
    (s.steward w).flevel < 4 →
    ∃ t, exec (.mret w pc) s = .next t ∧ (t.steward w).pc = (s.steward w).fepc ∧ (t.steward w).fastBank = false ∧
      (t.steward w).machine = (s.steward w).fmachine ∧ t.rd (EVC.STW_STATE_LEVEL w) = max 1 (s.steward w).flevel) ∧
  (∀ (s : State) (w pc : Nat), s.stwRuns w = true → (s.steward w).machine = false → s.rd (EVC.STW_STATE_LEVEL w) ≠ 3 →
    ∃ t, exec (.mret w pc) s = .next t ∧ (t.steward w).mcause = 2 ∧ (t.steward w).mepc = pc ∧
      (t.steward w).pc = (s.steward w).mtvec / 4 * 4 ∧ t.rd (EVC.STW_STATE_LEVEL w) = s.rd (EVC.STW_STATE_LEVEL w)) ∧
  (∀ (s : State) (w pc : Nat) (mie : Bool), s.stwRuns w = true →
    ∃ t, exec (.wfi w pc (mie, [])) s = .next t ∧ t.steward w = { s.steward w with wfi := true, pc := pc, mie := mie, deep := s.flag (EVC.STW_STATE_DEEP w) } ∧
      t.mem = s.mem ∧ t.evc.srcs = s.evc.srcs ∧ ∀ f : Fld, f.key ≠ EVC.RECALLS_COUNT.key → t.rd f = s.rd f) ∧
  (∀ (s : State) (w pc cause tval : Nat), s.stwRuns w = true → s.rd (EVC.STW_STATE_LEVEL w) ≠ 3 →
    ∃ t, exec (.stewardException w pc cause tval []) s = .next t ∧ (t.steward w).mepc = pc ∧
      (t.steward w).mcause = cause ∧ (t.steward w).mtval = tval ∧ (t.steward w).mie = false ∧
      (t.steward w).mpie = (s.steward w).mie ∧ (t.steward w).machine = true ∧ (t.steward w).pc = (s.steward w).mtvec / 4 * 4 ∧
      t.rd (EVC.STW_STATE_LEVEL w) = s.rd (EVC.STW_STATE_LEVEL w) ∧ t.faultQ = s.faultQ) ∧
  (∀ (s : State) (w pc cause tval : Nat), s.stwRuns w = true → s.rd (EVC.STW_STATE_LEVEL w) = 3 →
    ∃ t, exec (.stewardException w pc cause tval []) s = .next t ∧ (t.steward w).stopped = true ∧
      t.faultQ = s.faultQ ++ [⟨0x18, w, false, 7, []⟩]) ∧
  (∀ (s : State) (w pc : Nat), bitOf (s.rd DBG.AUTH_PERM) 0 = true → w < 4 → (s.steward w).inReset = false →
    ∃ t, exec (.debugHalt w (pc, [])) s = .next t ∧ t.rd (EVC.STW_STATE_HELD w) = 1 ∧ (t.steward w).pc = pc ∧
      (t.steward w).attached = true) ∧
  (∀ (s : State) (w pc n v : Nat), bitOf (s.rd DBG.AUTH_PERM) 0 = true → w < 4 → (s.steward w).inReset = false →
    n < 32 → (s.steward w).fastBank = false → (s.steward w).x.length = 31 →
    (∃ t, exec (.debugHalt w (pc, [.getX n])) s = .next t ∧ t.answer = [(s.steward w).getX n]) ∧
    ∃ t, exec (.debugHalt w (pc, [.setX n v])) s = .next t ∧ (t.steward w).getX n = if n = 0 then 0 else v % 2 ^ 64) ∧
  (∀ (s : State) (w pc : Nat) (detach : Bool), bitOf (s.rd DBG.AUTH_PERM) 0 = true → s.flag (EVC.STW_STATE_HELD w) = true →
    ∃ t, exec (.debugResume w (pc, []) detach) s = .next t ∧ t.rd (EVC.STW_STATE_HELD w) = 0 ∧ (t.steward w).pc = pc ∧
      (t.steward w).attached = !detach ∧ OnlyRegs s { t with stewards := s.stewards } [(EVC.STW_STATE_HELD w).key])

/-- POWER_ON_RESET and POWER_LOSS: the device is held, memory outside the Store reads what nothing has written, identity,
certificate, owners, fleet keys and installed slots of Objor stand, no command is lost from the queue. PWR_OK_RELEASE
of a held device: it is released, with RST_CAUSE.COLD where the hold began by a fall of PWR_OK, else POR; of one not
held: nothing. PWR_OK_FALL of a running device: held, every bonded session closed, memory outside the Store empty; of
a held one: nothing. RESET_N of an awake device: a device reset with cause PIN is due, every lane goes safe, the
general-purpose pins are in their reset state and FREEZE_N is released; of a held one: nothing. CHIP_RESET, CHIP.RESET
served, with key 0xB007 to a device not held: a reset with cause SOFT is due, else nothing. DEVICE_RESET with none
due: nothing; with one due and no Store operation: the cause bit is set, none is due any more, no bonded session is
open, the power level is 0 and every block is on. -/
def Obligations.Resets : Prop :=
  (∀ (s : State) (gone bad : List Nat) (res : PowerCut) (c : Instr), c ∈ [.powerOnReset gone bad res, .powerLoss gone bad res] →
    ∃ t, exec c s = .next t ∧ t.rst.held = true ∧ t.pending = s.pending ∧ (∀ a, a < storeBase ∨ codeBase ≤ a → t.readByte a = 0) ∧
      t.objor.ident = s.objor.ident ∧ t.objor.cert = s.objor.cert ∧ t.objor.owners = s.objor.owners ∧ t.objor.fleets = s.objor.fleets ∧
      t.objor.slots = s.objor.slots ∧ t.cells = [] ∧ t.runs = [] ∧ t.stewards = [] ∧ t.bonds = [] ∧ t.store.op = none) ∧
  (∀ (s : State),
    (s.rst.held = false → exec .pwrOkRelease s = .next s) ∧
    (s.rst.held = true → ∃ t, exec .pwrOkRelease s = .next t ∧ t.rst.held = false ∧ t.rst.supply = false ∧
      t.rd (if s.rst.supply then CHIP.RST_CAUSE_COLD else CHIP.RST_CAUSE_POR) = 1 ∧ t.rd CHIP.START_LC_DONE = 1 ∧
      (t.rd LC.STATE_STATE ≠ 7 → t.rd CHIP.START_STW_REL = 1 ∧ t.rd CHIP.START_MEM_INIT = 1 ∧ ∀ w, w < 4 → (t.steward w).inReset = false ∧ (t.steward w).pc = 2 * s.rd CHIP.BOOT_VEC_ADDR))) ∧
  (∀ (s : State) (gone bad : List Nat) (res : PowerCut),
    (s.rst.held = true → exec (.pwrOkFall gone bad res) s = .next s) ∧
    (s.rst.held = false → ∃ t, exec (.pwrOkFall gone bad res) s = .next t ∧ t.rst.held = true ∧ t.rst.supply = true ∧ t.bonds = [] ∧ t.store.op = none ∧
      t.runs = [] ∧ t.stewards = [] ∧ t.rd PWR.STATUS_LEVEL = 0 ∧ (∀ c, c < 256 → t.cell c = CellX.reset) ∧
      ∀ c x, c < 256 → x < 0x20000 → t.readByte (padBase c + x) = 0)) ∧
  (∀ (s : State),
    (s.rst.held = true → exec .resetN s = .next s) ∧
    (s.rst.held = false → s.power.sleep < 2 → ∃ t, exec .resetN s = .next t ∧ t.rst = { s.rst with due := some 2 } ∧ t.mem = s.mem ∧ t.gpio = GpioX.reset ∧
      (∀ n, n < 96 → t.rd (GPIO.PIN_FUNC n) = 0 ∧ t.rd (GPIO.PIN_PULL n) = 2) ∧ t.cvy.out = [] ∧ t.freezeLow = false ∧
      ∀ c n, c < 256 → n < 4 → t.flag (PIN.STATE_SAFE c n) = true ∨ bitOf (t.cell c).entering n = true) ∧
    (s.rst.held = false → 2 ≤ s.power.sleep → ∃ t, exec .resetN s = .next t ∧ t.rst.held = false ∧ t.rd CHIP.RST_CAUSE_PIN = 1 ∧ t.power.sleep = 0)) ∧
  (∀ (s : State) (key : Nat), s.regOpen 0 CHIP.RESET_KEY.addr = true → exec (.chipReset key) s =
    .next (if key % 65536 = 0xB007 ∧ s.rst.held = false then { s with rst := { s.rst with due := some 3 } } else s)) ∧
  (∀ (s : State) (gone bad : List Nat) (res : Nat × List (Nat × Nat)),
    (s.rst.due = none → exec (.deviceReset gone bad res) s = .next s) ∧
    (∀ k, s.rst.due = some k → k < 6 → s.store.op = none → ∃ t, exec (.deviceReset gone bad res) s = .next t ∧ t.rst.due = none ∧ t.bonds = [] ∧
      t.rd (causeFld k) = 1 ∧ t.rd PWR.STATUS_LEVEL = 0 ∧ t.rd PWR.DOMAINS_BLK_ON = 2 ^ 32 - 1))

/-- For a channel k below 8, its registers served. DMA_START of an idle channel whose descriptor address is 32-byte
aligned completes with PEND = 1, OP = START, STOPPED and KIND 0 and CUR at the address; only these registers change.
DMA_STOP of a running channel that has moved nothing of a descriptor (none fetched) completes with PEND = 0, STATUS
OK, STOPPED = 1 and EVT = 1. DESCRIPTOR_DONE of a running channel whose descriptor could not be fetched ends the run
with FAULT (6), KIND 1 and EVT = 1; of one whose good final descriptor moves no unit, it ends with STATUS OK and PEND
= 0. -/
def Obligations.HostDmaCommands : Prop :=
  (∀ (s : State) (k : Nat), k < 8 → s.regOpen 4 (DMA.CMD_OP k).addr = true → s.flag (DMA.STATUS_PEND k) = false → s.rd (DMA.DESC_ADDR k) % 32 = 0 →
    ∃ t, exec (.dmaStart k) s = .next t ∧ t.rd (DMA.STATUS_PEND k) = 1 ∧ t.rd (DMA.STATUS_OP k) = 1 ∧
      t.rd (DMA.CUR_ADDR k) = s.rd (DMA.DESC_ADDR k) ∧
      OnlyRegs s t [(DMA.STATUS_OP k).key, (DMA.STATUS_PEND k).key, (DMA.STATUS_STOPPED k).key, (DMA.STATUS_KIND k).key,
        (DMA.CUR_ADDR k).key]) ∧
  (∀ (s : State) (k n : Nat), k < 8 → s.regOpen 4 (DMA.CMD_OP k).addr = true → s.flag (DMA.STATUS_PEND k) = true →
    ∃ t, exec (.dmaStop k n [] []) s = .next t ∧ t.rd (DMA.STATUS_PEND k) = 0 ∧ t.rd (DMA.STATUS_STATUS k) = 0 ∧
      t.rd (DMA.STATUS_STOPPED k) = 1 ∧ t.rd (DMA.STATUS_EVT k) = 1 ∧ t.mem = s.mem) ∧
  (∀ (s : State) (k up dev lat : Nat), k < 8 → s.flag (DMA.STATUS_PEND k) = true → s.frozen = false →
    s.rd (DMA.CUR_ADDR k) % 32 = 0 →
    ∃ t, exec (.descriptorDone k [] [] true up dev lat) s = .next t ∧ t.rd (DMA.STATUS_STATUS k) = 6 ∧
      t.rd (DMA.STATUS_KIND k) = 1 ∧ t.rd (DMA.STATUS_PEND k) = 0 ∧ t.rd (DMA.STATUS_EVT k) = 1 ∧ t.mem = s.mem) ∧
  (∀ (s : State) (k up dev lat : Nat) (desc : List Nat), k < 8 → s.flag (DMA.STATUS_PEND k) = true → s.frozen = false →
    s.rd (DMA.CUR_ADDR k) % 32 = 0 → descOk desc = true → (DmaDesc.ofBytes desc).units = 0 →
    bitOf (DmaDesc.ofBytes desc).flags 4 = true →
    ∃ t, exec (.descriptorDone k desc [] true up dev lat) s = .next t ∧ t.rd (DMA.STATUS_STATUS k) = 0 ∧
      t.rd (DMA.STATUS_PEND k) = 0 ∧ t.rd (DMA.STATUS_DONE k) = satAdd 32 (s.rd (DMA.STATUS_DONE k)) 1 ∧ t.mem = s.mem)

/-- LINK_UP with PERST# released and the device out of reset completes with LINK_UP = 1 and LSTATE, SPEED (1 to 5) and
WIDTH (1, 2, 4) as given (no slice running: only these change); no other speed or width trains. LINK_DOWN completes,
and while no channel runs it only clears LINK_UP and LSTATE and sets LINK_EVT. D3HOT completes with DSTATE 3 while no
channel runs; D3HOT_EXIT with DSTATE 0 alone changed. PERST_ASSERT completes with PERST# asserted and every register
of the PCIe core at its reset value; PERST_DEASSERT releases PERST# and WAKE# and changes nothing else. Where DMA
channel k runs, LINK_DOWN (no part of a descriptor moved) ends it with STATUS FAULT (6), KIND 4, PEND 0 and EVT 1, and
D3HOT the same with KIND 5; channels that do not run keep their status, and memory is unchanged. -/
def Obligations.PcieLinkEvents : Prop :=
  (∀ (s : State) (ls sp w : Nat), s.host.perst = false → s.rst.held = false → s.bst.run = none → 1 ≤ ls → ls ≤ 5 →
    1 ≤ sp → sp ≤ 5 → w ∈ [1, 2, 4] → exec (.linkUp ls sp w) s = .next (s.wrs [(PCI.STATUS_LINK_UP, 1), (PCI.STATUS_LSTATE, ls), (PCI.STATUS_SPEED, sp),
      (PCI.STATUS_WIDTH, w)])) ∧
  (∀ (s : State) (ls sp w : Nat), linkTrains sp w = false → exec (.linkUp ls sp w) s = .next s) ∧
  (∀ s : State, (∀ k, k < 8 → s.flag (DMA.STATUS_PEND k) = false) →
    exec (.linkDown []) s = .next (s.wrs [(PCI.STATUS_LINK_UP, 0), (PCI.STATUS_LSTATE, 0), (PCI.STATUS_LINK_EVT, 1)]) ∧
    exec (.d3hot []) s = .next (s.wr PCI.STATUS_DSTATE 3)) ∧
  (∀ s : State, exec .d3hotExit s = .next (s.wr PCI.STATUS_DSTATE 0)) ∧
  (∀ s : State, ∃ t, exec (.perstAssert []) s = .next t ∧ t.host.perst = true ∧ t.mem = s.mem ∧
    ∀ f : Fld, 0x900000 ≤ f.addr → f.addr < 0xA00000 → f.lsb < 64 → t.rd f = f.reset % 2 ^ f.width) ∧
  (∀ s : State, exec .perstDeassert s = .next { s with host := { s.host with perst := false, wakeN := false } }) ∧
  (∀ (s : State) (k : Nat), k < 8 →
      (∃ t, exec (.linkDown []) s = .next t ∧ t.mem = s.mem ∧
        (s.flag (DMA.STATUS_PEND k) = true → t.rd (DMA.STATUS_STATUS k) = 6 ∧ t.rd (DMA.STATUS_KIND k) = 4 ∧
          t.rd (DMA.STATUS_PEND k) = 0 ∧ t.rd (DMA.STATUS_EVT k) = 1) ∧
        (s.flag (DMA.STATUS_PEND k) = false → t.rd (DMA.STATUS_STATUS k) = s.rd (DMA.STATUS_STATUS k))) ∧
      (∃ t, exec (.d3hot []) s = .next t ∧ t.mem = s.mem ∧
        (s.flag (DMA.STATUS_PEND k) = true → t.rd (DMA.STATUS_STATUS k) = 6 ∧ t.rd (DMA.STATUS_KIND k) = 5 ∧
          t.rd (DMA.STATUS_PEND k) = 0 ∧ t.rd (DMA.STATUS_EVT k) = 1) ∧
        (s.flag (DMA.STATUS_PEND k) = false → t.rd (DMA.STATUS_STATUS k) = s.rd (DMA.STATUS_STATUS k))))

/-- MSIX_SEND, not in DOZE or DORMANT, of a source n whose message waits completes: where its vector v is blocked, PBA bit
v is 1 afterwards; where it is not, the message with the vector's address and data has been sent. Either way the
message waits no longer. MSIX_UNMASK with PERST# released completes: kind 0 clears the mask of vector v, kinds 1, 2
and 3 end the function mask, MSI-X Enable = 0 and Bus Master Enable = 0, and kinds 4 to 7 start these blocks; while no
PBA bit is set no message is sent. -/
def Obligations.MsixMessages : Prop :=
  (∀ (s : State) (n : Nat), s.power.sleep < 2 → (s.src n).hsend = true → s.vectorBlocked (s.rd (EVC.SRC_CFG_MSIX n)) = true →
    ∃ t, exec (.msixSend n) s = .next t ∧ bitOf (t.rd MSIX.PBA_PEND) (s.rd (EVC.SRC_CFG_MSIX n)) = true ∧
      (t.src n).hsend = false ∧ t.host = s.host) ∧
  (∀ (s : State) (n : Nat), s.power.sleep < 2 → (s.src n).hsend = true → s.vectorBlocked (s.rd (EVC.SRC_CFG_MSIX n)) = false →
    ∃ t, exec (.msixSend n) s = .next t ∧ (t.src n).hsend = false ∧ t.regs = s.regs ∧
      t.host.sent = [(s.rd (MSIX.ADDR_ADDR (s.rd (EVC.SRC_CFG_MSIX n))), s.rd (MSIX.DATA_DATA (s.rd (EVC.SRC_CFG_MSIX n))))]) ∧
  (∀ (s : State) (v : Nat), s.host.perst = false → v < 64 → s.rd MSIX.PBA_PEND = 0 →
    exec (.msixUnmask 0 v) s = .next (s.wr (MSIX.DATA_MASK v) 0) ∧
    exec (.msixUnmask 1 v) s = .next { s with host := { s.host with fmask := false } } ∧
    exec (.msixUnmask 2 v) s = .next { s with host := { s.host with msixOn := true } } ∧
    exec (.msixUnmask 3 v) s = .next { s with host := { s.host with busMaster := true } } ∧
    exec (.msixUnmask 4 v) s = .next (s.wr (MSIX.DATA_MASK v) 1) ∧
    exec (.msixUnmask 5 v) s = .next { s with host := { s.host with fmask := true } } ∧
    exec (.msixUnmask 6 v) s = .next { s with host := { s.host with msixOn := false } } ∧
    exec (.msixUnmask 7 v) s = .next { s with host := { s.host with busMaster := false } })

/-- With the BARs decoded. HOST_WRITE of a poisoned TLP completes: it is counted in ERR.POISONED, ERR_EVT sets, and no
memory changes. HOST_WRITE and HOST_READ at BAR0 of a TLP whose accesses all succeed complete with the answer 0 and,
for the read, its bytes; HOST_READ of the DBG window of BAR4 answers 0 and the bytes there and changes nothing;
HOST_WRITE of 4 or 8 aligned bytes there writes the DBG register (R395). While the device is frozen, or RESET_N has
started a reset (R506), a BAR0 or BAR2 read TLP is answered with Completer Abort (answer 4), which AER logs, and
memory is unchanged. -/
def Obligations.HostRequests : Prop :=
  (∀ (s : State) (bar off up dev lat : Nat) (data : List Nat), s.barsOpen = true →
    exec (.hostWrite bar off data true up dev lat) s =
      .next ((s.wr PCI.ERR_POISONED (satAdd PCI.ERR_POISONED.width (s.rd PCI.ERR_POISONED) 1)).wr PCI.STATUS_ERR_EVT 1)) ∧
  (∀ (s t : State) (off n up dev lat : Nat) (l : List (Nat × Nat)) (bs : List Nat), s.barsOpen = true → s.hostShut = false →
    splitTlp n (s.barAddr 0 off) n = some l → s.hostReads up dev lat l = .ok (bs, none, t) →
    exec (.hostRead 0 off n up dev lat) s = .next { t with answer := 0 :: bs }) ∧
  (∀ (s t : State) (off up dev lat : Nat) (l : List (Nat × Nat)) (data : List Nat), s.barsOpen = true → s.hostShut = false →
    splitTlp data.length (s.barAddr 0 off) data.length = some l → s.hostWrites up dev lat l data = .ok (none, t) →
    exec (.hostWrite 0 off data false up dev lat) s = .next { t with answer := [0] }) ∧
  (∀ (s : State) (bar off n up dev lat : Nat), s.barsOpen = true → s.frozen = true ∨ s.rst.due = some 2 → bar ≠ 4 →
    ∃ t, exec (.hostRead bar off n up dev lat) s = .next t ∧ t.answer = [4] ∧ t.host.aerCa = true ∧ t.mem = s.mem) ∧
  (∀ (s : State) (off n up dev lat : Nat), s.barsOpen = true → off < 0x1000 →
    ∃ t, exec (.hostRead 4 off n up dev lat) s = .next t ∧ t.answer = 0 :: (List.range n).map (fun i => s.peek (0xA00000 + off + i)) ∧
      t.regs = s.regs ∧ t.mem = s.mem) ∧
  (∀ (s : State) (off up dev lat : Nat) (data : List Nat), s.barsOpen = true → off < 0x1000 → (off % 4 = 0 ∧ data.length = 4 ∨ off % 8 = 0 ∧ data.length = 8) →
    s.flag DBG.FRZ_STATUS_FROZEN = false ∨ s.readoutShut = false →
    exec (.hostWrite 4 off data false up dev lat) s = .next (s.writeReg 4 ((0xA00000 + off) / 8 * 8) (byteMask (0xA00000 + off) data.length)
      (ofBytes data % 2 ^ (8 * data.length) * 2 ^ (8 * ((0xA00000 + off) % 8)))))

/-- With the Convoy receiver on and locked and the device no head (nor in PRBS or loop-back). CONVOY_FRAME with HOP below
127 and the CRC-8 of its CMD and HOP completes: COUNT.FRAMES counts it, LAST holds its CMD and HOP, and the frame is
forwarded with HOP + 1 and the CRC of what it holds. With another CRC: COUNT.BAD counts it, BAD_EVT sets, no command
acts, and the frame goes on with K30.7 (log 149). Asleep, Oasis repeats a frame as it comes; without lock, or under
the internal loopback, nothing. CONVOY_ALIGN completes with the device ALIGNED at position HOP (below 64). SYMBOL_LOCK
sets RX_LOCK alone; SYMBOL_LOCK_LOSS clears RX_LOCK and ALIGNED and sets LOCK_LOST, and changes nothing else. -/
def Obligations.ConvoyFrames : Prop :=
  (∀ (s : State) (cmd hop : Nat), s.convoyOn = true → s.flag CVY.STATUS_RX_LOCK = true → s.flag CVY.CFG_HEAD = false →
    s.flag CVY.DIAG_PRBS_EN = false → s.flag CVY.DIAG_LOOP = false → cmd < 256 → hop < 127 →
    (∃ t, exec (.convoyFrame cmd hop (crc8 0 [cmd, hop]) false) s = .next t ∧
      t.rd CVY.COUNT_FRAMES = satAdd CVY.COUNT_FRAMES.width (s.rd CVY.COUNT_FRAMES) 1 % 2 ^ CVY.COUNT_FRAMES.width ∧
      t.rd CVY.LAST_CMD = cmd % 2 ^ CVY.LAST_CMD.width ∧ t.rd CVY.LAST_HOP = hop ∧ t.cvy.out = frameSyms cmd (hop + 1) ∧ t.mem = s.mem) ∧
    (∀ crc, crc < 256 → crc ≠ crc8 0 [cmd, hop] → ∃ t, exec (.convoyFrame cmd hop crc false) s = .next t ∧ t.cvy.out = deadFrame cmd (hop + 1) ∧ t.rd CVY.STATUS_BAD_EVT = 1 ∧
      t.rd CVY.COUNT_BAD = satAdd CVY.COUNT_BAD.width (s.rd CVY.COUNT_BAD) 1 % 2 ^ CVY.COUNT_BAD.width ∧
      t.rd CVY.COUNT_FRAMES = s.rd CVY.COUNT_FRAMES ∧ t.cvy.acts = s.cvy.acts ∧ t.mem = s.mem)) ∧
  (∀ (s : State) (cmd hop crc : Nat) (b : Bool), cmd < 256 → hop < 256 → crc < 256 → s.rst.held = false →
    (2 ≤ s.power.sleep → exec (.convoyFrame cmd hop crc b) s = .next (s.cvyOut [0x1FB, cmd, hop, crc, 0x1FD])) ∧
    (s.power.sleep < 2 → s.flag CVY.STATUS_RX_LOCK = false ∨ s.flag CVY.DIAG_LOOP = true → exec (.convoyFrame cmd hop crc b) s = .next s)) ∧
  (∀ (s : State) (hop : Nat), s.convoyOn = true → s.flag CVY.STATUS_RX_LOCK = true → s.flag CVY.DIAG_PRBS_EN = false →
    s.flag CVY.DIAG_LOOP = false → hop < 64 →
    ∃ t, exec (.convoyAlign hop) s = .next t ∧ t.rd CVY.STATUS_POS = hop ∧ t.rd CVY.STATUS_ALIGNED = 1 ∧ t.mem = s.mem) ∧
  (∀ s : State, s.convoyOn = true → exec .symbolLock s = .next (s.wr CVY.STATUS_RX_LOCK 1)) ∧
  (∀ s : State, s.flag CVY.STATUS_RX_LOCK = true → exec .symbolLockLoss s =
    .next (s.wrs [(CVY.STATUS_RX_LOCK, 0), (CVY.STATUS_ALIGNED, 0), (CVY.STATUS_LOCK_LOST, 1)]))

/-- Where a command of that code waits for its acting instant, it is taken from the queue of waiting commands and acts.
CONVOY_START: every ARMED caravan whose stride clock runs becomes RUNNING, by Convoy START; one whose clock stands
still stays ARMED and leaves it when the clock runs again (R119, R97); no other caravan changes its state.
CONVOY_STOP, no breakpoint triggering freeze: the ARMED caravans and the RUNNING ones that a Convoy START began halt,
or, where the clock is paused, the STOP waits; no other caravan changes its state. CONVOY_SYNC with one group waiting:
every caravan that arrived at it, its clock running and not at its stride limit, is released to its next word after 2
+ E hold strides; with no group waiting it counts as stray. CONVOY_FREEZE triggers freeze with cause 5. -/
def Obligations.ConvoyActingInstants : Prop :=
  (∀ (s : State) (w : Nat), s.cvy.acts = [(1, w)] → ∃ t, exec .convoyStart s = .next t ∧ t.cvy.acts = [] ∧ t.mem = s.mem ∧ ∀ l ∈ s.allLeads,
    (s.cvState l = stArmed → s.clockRuns (blockOf l) = true → t.cvState l = stRunning ∧ (t.run l).convoyRun = true) ∧
    (s.cvState l = stArmed → s.clockRuns (blockOf l) = false → t.cvState l = stArmed ∧ (t.run l).convoyGo = true) ∧
    (s.cvState l ≠ stArmed → t.cvState l = s.cvState l ∧ t.run l = s.run l)) ∧
  (∀ (s : State) (w : Nat), s.cvy.acts = [(2, w)] → s.flag DBG.FRZ_CTRL_BRK_EN = false → ∃ t, exec .convoyStop s = .next t ∧ t.cvy.acts = [] ∧
    t.mem = s.mem ∧ ∀ l ∈ s.allLeads,
    (s.cvState l = stArmed ∨ (s.cvState l = stRunning ∧ (s.run l).convoyRun = true) →
      (s.clockPaused (blockOf l) = false → t.cvState l = stHalted) ∧
      (s.clockPaused (blockOf l) = true → t.cvState l = s.cvState l ∧ (t.run l).convoyHalt = true)) ∧
    (s.cvState l ≠ stArmed → (s.cvState l ≠ stRunning ∨ (s.run l).convoyRun = false) → t.cvState l = s.cvState l)) ∧
  (∀ (s : State) (w n : Nat), s.cvy.acts = [(4, w)] → s.convoyWaiting = [n] → (∀ l ∈ s.arrivedAt n, s.atScLimit l = false) →
    ∃ t, exec .convoySync s = .next t ∧ t.cvy.acts = [] ∧ t.rd CVY.COUNT_STRAY_SYNC = s.rd CVY.COUNT_STRAY_SYNC ∧ t.mem = s.mem ∧
      (∀ r, r < 4 → t.rd (RGN.SGARR_ARRIVED r n) = 0) ∧
      ∀ l g cv sp, l ∈ s.arrivedAt n → s.clockRuns (blockOf l) = true → (s.run l).phase = .atSync g cv false sp true →
        (t.run l).phase = .released (s.nextPc l) (2 + s.equalise l) sp) ∧
  (∀ (s : State) (w : Nat), s.cvy.acts = [(4, w)] → s.convoyWaiting = [] → ∃ t, exec .convoySync s = .next t ∧
    t.rd CVY.COUNT_STRAY_SYNC = satAdd CVY.COUNT_STRAY_SYNC.width (s.rd CVY.COUNT_STRAY_SYNC) 1 % 2 ^ CVY.COUNT_STRAY_SYNC.width ∧
    t.cvy.acts = []) ∧
  (∀ (s : State) (w : Nat), s.cvy.acts = [(5, w)] → s.rd LC.STATE_STATE ≠ 7 → s.rd LC.PROGRESS_PHASE = 0 →
    s.frozen = false → s.bst.run = none → ∃ t, exec .convoyFreeze s = .next t ∧ t.rd DBG.FRZ_STATUS_ENTERING = 1 ∧
      t.rd DBG.FRZ_STATUS_CAUSE = 5 ∧ t.cvy.acts = [])

/-- The registers served, no PRBS test (under which nothing is sent): on the head, TX_START, TX_STOP, TX_ALIGN, TX_SYNC
and TX_FREEZE complete with a frame of CMD 1, 2, 3, 4 and 5 sent with HOP 1 (and LAST.CMD showing it, since the head
treats it as received), TX_WAKE with the wake pattern sent and nothing else changed. On another device each of the six
sets CVY.STATUS.WR_IGN and changes nothing else. AUTO_SYNC on a head with AUTO_SYNC set and the flag high sends a SYNC
frame. CVY_CFG_WRITE that leaves SYNC_EN as it is completes with HEAD as the write merges it. -/
def Obligations.ConvoyHead : Prop :=
  (∀ (s : State) (i : Instr) (cmd : Nat), s.regOpen 0 CVY.TX_CMD.addr = true → s.flag CVY.CFG_HEAD = true → s.flag CVY.DIAG_PRBS_EN = false →
    (i, cmd) ∈ [(Instr.txStart, 1), (Instr.txStop, 2), (Instr.txAlign, 3), (Instr.txSync, 4), (Instr.txFreeze, 5)] →
    ∃ t, exec i s = .next t ∧ t.cvy.out = frameSyms cmd 1 ∧ t.rd CVY.LAST_CMD = cmd ∧ t.mem = s.mem) ∧
  (∀ s : State, s.regOpen 0 CVY.TX_CMD.addr = true → s.flag CVY.CFG_HEAD = true → s.flag CVY.DIAG_PRBS_EN = false →
    exec (.txWake) s = .next (s.cvyOut wakeSyms)) ∧
  (∀ (s : State) (i : Instr), s.regOpen 0 CVY.TX_CMD.addr = true → s.flag CVY.CFG_HEAD = true → s.flag CVY.DIAG_PRBS_EN = true →
    i ∈ [Instr.txStart, .txStop, .txAlign, .txSync, .txFreeze, .txWake] → exec i s = .next s) ∧
  (∀ s : State, s.regOpen 0 CVY.TX_CMD.addr = true → s.flag CVY.CFG_HEAD = false →
    exec (.txStart) s = .next (s.wr CVY.STATUS_WR_IGN 1) ∧ exec (.txStop) s = .next (s.wr CVY.STATUS_WR_IGN 1) ∧
    exec (.txAlign) s = .next (s.wr CVY.STATUS_WR_IGN 1) ∧ exec (.txSync) s = .next (s.wr CVY.STATUS_WR_IGN 1) ∧
    exec (.txFreeze) s = .next (s.wr CVY.STATUS_WR_IGN 1) ∧ exec (.txWake) s = .next (s.wr CVY.STATUS_WR_IGN 1)) ∧
  (∀ s : State, s.flag CVY.CFG_HEAD = true → s.flag CVY.CFG_AUTO_SYNC = true → s.flag CVY.STATUS_FLAG_OUT = false →
    s.convoyOn = true → s.flag CVY.DIAG_PRBS_EN = false → ∃ t, exec .autoSync s = .next t ∧ t.cvy.out = frameSyms 4 1 ∧ t.mem = s.mem) ∧
  (∀ (s : State) (mask v : Nat), s.regOpen 0 CVY.CFG_HEAD.addr = true → s.merged CVY.CFG_SYNC_EN mask v = s.rd CVY.CFG_SYNC_EN →
    ∃ t, exec (.cvyCfgWrite mask v) s = .next t ∧ t.rd CVY.CFG_HEAD = s.merged CVY.CFG_HEAD mask v % 2 ∧
      t.rd CVY.CFG_KMAX = s.merged CVY.CFG_KMAX mask v % 2 ^ CVY.CFG_KMAX.width ∧ t.mem = s.mem)

/-- The registers served: OUT_SET of bank k below 3 completes, and bit i of OUTk (i below 32) is 1 where it was 1 or bit i
of v is 1; OUT_CLR completes, and bit i is 1 where it was 1 and bit i of v is 0; nothing but OUTk changes. For a pin n
below 96 that is not held and a write of PINn that names a function which exists on the pin and differs from FUNC:
FUNC_WRITE completes with FUNC and SEL as written, HOLD = 1, and one more hold, of pin n, whose output enable and
level are those the pin drove before where the device fixes them; until it ends the pin's old function stands.
FUNC_HOLD_END completes with HOLD = 0 and no hold of pin n. -/
def Obligations.GpioBanksAndPinFunctions : Prop :=
  (∀ (s : State) (k v : Nat), k < 3 →
    (s.regOpen 0 (GPIO.OUT_SET_OUT k).addr = true → ∃ t, exec (.outSet k v) s = .next t ∧ OnlyRegs s t [(GPIO.OUT_OUT k).key] ∧
      ∀ i, i < 32 → bitOf (t.rd (GPIO.OUT_OUT k)) i = (bitOf (s.rd (GPIO.OUT_OUT k)) i || bitOf v i)) ∧
    (s.regOpen 0 (GPIO.OUT_CLR_OUT k).addr = true → ∃ t, exec (.outClr k v) s = .next t ∧ OnlyRegs s t [(GPIO.OUT_OUT k).key] ∧
      ∀ i, i < 32 → bitOf (t.rd (GPIO.OUT_OUT k)) i = (bitOf (s.rd (GPIO.OUT_OUT k)) i && !bitOf v i))) ∧
  (∀ (s : State) (n mask v : Nat), n < 96 →
    (s.regOpen 0 (GPIO.PIN_FUNC n).addr = true → s.gpio.holds.any (·.pin == n) = false → funcOk n (s.merged (GPIO.PIN_FUNC n) mask v) = true →
      s.merged (GPIO.PIN_FUNC n) mask v ≠ s.rd (GPIO.PIN_FUNC n) →
      ∃ t h, exec (.funcWrite n mask v) s = .next t ∧ t.rd (GPIO.PIN_FUNC n) = s.merged (GPIO.PIN_FUNC n) mask v % 16 ∧
        t.rd (GPIO.PIN_SEL n) = s.merged (GPIO.PIN_SEL n) mask v % 512 ∧ t.rd (GPIO.PIN_HOLD n) = 1 ∧
        t.gpio.holds = s.gpio.holds ++ [h] ∧ h.pin = n ∧ h.func = s.rd (GPIO.PIN_FUNC n) ∧ t.pinFunc n = s.rd (GPIO.PIN_FUNC n) ∧ ∀ p, s.pinOut n = some p → h.oe = b2n p.1 ∧ h.level = b2n p.2) ∧
    (∃ t, exec (.funcHoldEnd n) s = .next t ∧ t.rd (GPIO.PIN_HOLD n) = 0 ∧ t.gpio.holds.all (·.pin != n) = true))

/-- PATTERN_MATCH of unit k below 4 (asleep, unit 0 alone) completes with D the condition c, which the state gives where
it fixes the unit's pins (1 with MASK 0), else the board; HIT sets in mode 2 when D rises and in mode 3 when D falls,
and else stays. Awake or in IDLE: TIMER_PERIOD_END of a PWM timer k below 8 makes the written PERIOD and DUTY those in
force. CAPTURE of a capture timer with count n at the lowest-numbered pin that selects it, not held and its bank
supplied, sets CAP to n and bit k of CAP_EVT; only these two registers change. An absent bank's pin gives no edge. -/
def Obligations.GpioPatternAndTimers : Prop :=
  (∀ (s : State) (k : Nat) (v c : Bool), k < 4 → s.power.sleep < 2 ∨ k = 0 → c = (s.patternCond k).getD v → ∃ t, exec (.patternMatch k v) s = .next t ∧
    t.rd (GPIO.PM_STATUS_D k) = b2n c ∧ (s.rd (GPIO.PM_CFG_MASK k) = 0 → c = true) ∧
    t.rd (GPIO.PM_STATUS_HIT k) =
      (if (s.rd (GPIO.PM_CFG_MODE k) = 2 ∧ c = true ∧ s.flag (GPIO.PM_STATUS_D k) = false) ∨
          (s.rd (GPIO.PM_CFG_MODE k) = 3 ∧ c = false ∧ s.flag (GPIO.PM_STATUS_D k) = true)
        then 1 else s.rd (GPIO.PM_STATUS_HIT k)) ∧
    OnlyRegs s t [(GPIO.PM_STATUS_D k).key, (GPIO.PM_STATUS_HIT k).key]) ∧
  (∀ (s : State) (k : Nat), k < 8 → s.power.sleep < 2 → s.flag (GPIO.TMRC_CAPTURE k) = false →
    ∃ t, exec (.timerPeriodEnd k) s = .next t ∧
      Tab.get (0, 0) t.gpio.pwm k = (s.rd (GPIO.TMR_PERIOD k), s.rd (GPIO.TMR_DUTY k)) ∧ t.regs = s.regs) ∧
  (∀ (s : State) (k n p : Nat), k < 8 → n < 2 ^ 32 → s.power.sleep < 2 → s.flag (GPIO.TMRC_CAPTURE k) = true → s.capturePin k = some p → s.pinHold p = none →
    ∃ t, exec (.capture k n) s = .next t ∧ (bankAbsent p = true → t = s) ∧ (bankAbsent p = false → t.rd (GPIO.TMRC_CAP k) = n ∧
      bitOf (t.rd GPIO.PERIPH_EVT_CAP_EVT) k = true) ∧
      OnlyRegs s t [(GPIO.TMRC_CAP k).key, GPIO.PERIPH_EVT_CAP_EVT.key])

/-- Awake or in IDLE (asleep, none of these five but EOT does anything), with GP32 to GP43 at function 5 and the registers
served: SOT, its pin not held and its bank supplied, completes with SOT = 1, BIN high and EOT_N high, and a running
sequence ends with CUT = 1 and BUSY = 0; EOT while BUSY = 0 completes with BUSY = 1 and BIN driven; while BUSY = 1 it
is ignored with WR_IGN. BIN_SETUP_END, RDY_N being low or not waited for, moves a sequence in its setup to the strobe.
STROBE_END ends the strobe with DONE = 1, BUSY = 0 and EOT_N low. RDY_TIMEOUT of a sequence that waits for RDY_N ends
it with RDY_TO = 1 and BUSY = 0. -/
def Obligations.HandlerInterface : Prop :=
  (∀ s : State, s.power.sleep < 2 → s.hpiPins = true → s.pinHold 32 = none → ∃ t, exec .sot s = .next t ∧ (bankAbsent 32 = true → t = s) ∧
    (bankAbsent 32 = false → t.rd GPIO.HPI_STATUS_SOT = 1 ∧ t.gpio.hpi = .idle ∧ t.gpio.bin = 0xFF ∧ t.gpio.eotLow = false ∧
    (s.gpio.hpi ≠ .idle → t.rd GPIO.HPI_STATUS_CUT = 1 ∧ t.rd GPIO.HPI_STATUS_BUSY = 0))) ∧
  (∀ s : State, s.regOpen 0 GPIO.HPI_CTRL_EOT.addr = true → s.hpiPins = true → s.flag GPIO.HPI_STATUS_BUSY = false → ∃ t, exec .eot s = .next t ∧
    t.rd GPIO.HPI_STATUS_BUSY = 1 ∧ t.gpio.hpi = .setup ∧ t.gpio.bin = s.rd GPIO.HPI_CTRL_BIN) ∧
  (∀ s : State, s.regOpen 0 GPIO.HPI_CTRL_EOT.addr = true → s.flag GPIO.HPI_STATUS_BUSY = true → exec .eot s = .next (s.wr GPIO.STATUS_WR_IGN 1)) ∧
  (∀ s : State, s.power.sleep < 2 → s.gpio.hpi = .setup → s.flag GPIO.HPI_CTRL_WAIT_RDY = false ∨ s.rdySeen = true → exec .binSetupEnd s = .next { s with gpio := { s.gpio with hpi := .strobe } }) ∧
  (∀ s : State, s.power.sleep < 2 → s.gpio.hpi = .strobe → ∃ t, exec .strobeEnd s = .next t ∧ t.rd GPIO.HPI_STATUS_DONE = 1 ∧
    t.rd GPIO.HPI_STATUS_BUSY = 0 ∧ t.gpio = { s.gpio with hpi := .idle, eotLow := true }) ∧
  (∀ s : State, s.power.sleep < 2 → s.gpio.hpi = .setup → s.flag GPIO.HPI_CTRL_WAIT_RDY = true → ∃ t, exec .rdyTimeout s = .next t ∧
    t.rd GPIO.HPI_STATUS_RDY_TO = 1 ∧ t.rd GPIO.HPI_STATUS_BUSY = 0 ∧ t.gpio = { s.gpio with hpi := .idle }) ∧
  (∀ s : State, 2 ≤ s.power.sleep → exec .sot s = .next s ∧ exec .binSetupEnd s = .next s ∧ exec .strobeEnd s = .next s ∧ exec .rdyTimeout s = .next s)

/-- Awake or in IDLE: PMB_ALERT with GP22 at function 4 and not held completes with PMB_ALERT = 1 alone changed. SERIAL_GO
of an idle I2C or SPI controller i (below 6) with LEN starts its transfer. TRANSFER_END of a running transfer
completes: the sent bytes have left the TX FIFO, the transfer is over and the event bit of the controller is 1.
UART_RX of a good byte, at an RX pin with function 3, not held and supplied, into an RX FIFO with room appends it and
sets the UART's event bit. -/
def Obligations.SerialControllers : Prop :=
  (∀ s : State, s.power.sleep < 2 → s.rd (GPIO.PIN_FUNC 22) = 4 → s.pinHold 22 = none → s.gpio.pads = [] → exec .pmbAlert s = .next (s.wr GPIO.PERIPH_EVT_PMB_ALERT 1)) ∧
  (∀ (s : State) (i len : Nat), i < 6 → len < 256 → s.regOpen 0 0x701018 = true → (s.serial i).left = none → ∃ t, exec (.serialGo i len) s = .next t ∧
    (t.serial i).left = some len ∧ (t.serial i).tx = (s.serial i).tx ∧ t.regs = s.regs) ∧
  (∀ (s : State) (i sent : Nat) (got : List Nat), i < 4 → s.power.sleep < 2 → (s.serial i).left.isSome = true →
    ∃ t, exec (.transferEnd i sent got false) s = .next t ∧ (t.serial i).left = none ∧
      (t.serial i).tx = (s.serial i).tx.drop sent ∧ bitOf (t.rd GPIO.PERIPH_EVT_I2C) i = true) ∧
  (∀ (s : State) (i v : Nat), i < 2 → v < 256 → s.power.sleep < 2 → s.rd (GPIO.PIN_FUNC (17 + 2 * i)) = 3 → s.pinHold (17 + 2 * i) = none →
    (s.serial (6 + i)).rx.length < 16 → ∃ t, exec (.uartRx i v false) s = .next t ∧ (bankAbsent (17 + 2 * i) = true → t = s) ∧
    (bankAbsent (17 + 2 * i) = false → (t.serial (6 + i)).rx = (s.serial (6 + i)).rx ++ [v] ∧ bitOf (t.rd GPIO.PERIPH_EVT_UART) i = true))

/-- For every APG state a (any carry fields) and every step code whose address operation is XY_INC (7): after the step, X
and Y are each INC of what they were, the wrap records of X and of Y are each their own INC's wrap, Z is unchanged and
records no wrap. The same with DEC for XY_DEC (8). The data operation of the code may be any. -/
def Obligations.ApgXyOperations : Prop :=
  ∀ (a : ApgS) (code : Nat),
    (bits code 0 5 = 7 → (a.step code).x = a.x.inc.1 ∧ (a.step code).y = a.y.inc.1 ∧ (a.step code).z = a.z ∧
      (a.step code).wx = a.x.inc.2 ∧ (a.step code).wy = a.y.inc.2 ∧ (a.step code).wz = false) ∧
    (bits code 0 5 = 8 → (a.step code).x = a.x.dec.1 ∧ (a.step code).y = a.y.dec.1 ∧ (a.step code).z = a.z ∧
      (a.step code).wx = a.x.dec.2 ∧ (a.step code).wy = a.y.dec.2 ∧ (a.step code).wz = false)

/-- For every state s and copy c below 3, with the class of each slot 1 to 3 (0 BLANK, 1 PATTERN, 2 BAD): if a slot is
BAD, or a PATTERN slot lies above a BLANK slot, the copy is invalid (the model answers 7). Otherwise its state is j
where slot j is PATTERN and no higher slot is, and BLANK (0) where all three slots are BLANK. -/
def Obligations.LifeCycleCopyState : Prop :=
  ∀ (s : State) (c : Nat), c < 3 →
    ∀ bad : Prop, (bad ↔ (∃ j, j ∈ [1, 2, 3] ∧ s.slotClass c j = 2) ∨
        (∃ i j, i ∈ [1, 2, 3] ∧ j ∈ [1, 2, 3] ∧ i < j ∧ s.slotClass c i = 0 ∧ s.slotClass c j = 1)) →
    (bad → s.copyState c = 7) ∧
    (¬bad → (∀ j, j ∈ [1, 2, 3] → s.slotClass c j = 1 → (∀ k, k ∈ [1, 2, 3] → j < k → s.slotClass c k ≠ 1) → s.copyState c = j) ∧
        ((∀ j, j ∈ [1, 2, 3] → s.slotClass c j = 0) → s.copyState c = 0))
end

