-- ==== Sys2Proof/Laws/Tab.lean ====
section
/-! SUPPORT. The laws of the sparse tables: reading after a write, and that every table operation keeps the canonical
form. The reading laws hold of every list, canonical or not. -/

namespace Sys2Proof.Machine.Tab

variable {α : Type}

@[simp] theorem get_nil (d : α) (k : Nat) : get d [] k = d := rfl

theorem get_erase_self (d : α) (t : Tab α) (k : Nat) : get d (erase t k) k = d := by
  induction t with
  | nil => rfl
  | cons e t ih => obtain ⟨a, v⟩ := e; by_cases h : a = k <;> simp [erase, get, h, ih]

theorem get_erase_ne (d : α) (t : Tab α) {k j : Nat} (h : k ≠ j) : get d (erase t k) j = get d t j := by
  induction t with
  | nil => rfl
  | cons e t ih =>
    obtain ⟨a, v⟩ := e
    by_cases ha : a = k
    · subst ha; simp [erase, get, h, ih]
    · by_cases hj : a = j
      · subst hj; simp [erase, get, ha]
      · simp [erase, get, ha, hj, ih]

theorem get_insert_self (d : α) (t : Tab α) (k : Nat) (v : α) : get d (insert t k v) k = v := by
  induction t with
  | nil => simp [insert, get]
  | cons e t ih =>
    obtain ⟨a, w⟩ := e
    unfold insert
    split
    · next h => simp [get, Nat.ne_of_lt h, ih]
    · split <;> simp [get]

theorem get_insert_ne (d : α) (t : Tab α) {k j : Nat} (v : α) (h : k ≠ j) : get d (insert t k v) j = get d t j := by
  induction t with
  | nil => simp [insert, get, h]
  | cons e t ih =>
    obtain ⟨a, w⟩ := e
    unfold insert
    split
    · by_cases hj : a = j <;> simp [get, hj, ih]
    · split
      · next ha => subst ha; simp [get, h]
      · simp [get, h]

theorem erase_eq_filter (t : Tab α) (k : Nat) : erase t k = t.filter fun e => decide (e.1 ≠ k) := by
  induction t with
  | nil => rfl
  | cons e t ih => obtain ⟨a, v⟩ := e; by_cases h : a = k <;> simp [erase, h, ih]

/-- A key in the dropped range reads as absent. -/
theorem get_drop_in (d : α) (t : Tab α) {lo hi k : Nat} (h : lo ≤ k ∧ k < hi) : get d (drop t lo hi) k = d := by
  induction t with
  | nil => rfl
  | cons e t ih =>
    obtain ⟨a, v⟩ := e
    unfold drop at ih ⊢
    by_cases hp : a < lo ∨ hi ≤ a
    · have hk : a ≠ k := by omega
      rw [List.filter_cons_of_pos (by simpa using hp)]
      simpa [get, hk] using ih
    · rw [List.filter_cons_of_neg (by simpa using hp)]
      exact ih

/-- A key outside the dropped range is untouched. -/
theorem get_drop_out (d : α) (t : Tab α) {lo hi k : Nat} (h : k < lo ∨ hi ≤ k) : get d (drop t lo hi) k = get d t k := by
  induction t with
  | nil => rfl
  | cons e t ih =>
    obtain ⟨a, v⟩ := e
    unfold drop at ih ⊢
    by_cases hp : a < lo ∨ hi ≤ a
    · rw [List.filter_cons_of_pos (by simpa using hp)]
      by_cases hk : a = k <;> simp [get, hk, ih]
    · have hk : a ≠ k := by omega
      rw [List.filter_cons_of_neg (by simpa using hp)]
      simpa [get, hk] using ih

variable [DecidableEq α]

/-- What was written is read. -/
@[simp] theorem get_set_self (d : α) (t : Tab α) (k : Nat) (v : α) : get d (set d t k v) k = v := by
  unfold set
  split
  · next h => rw [get_erase_self, h]
  · exact get_insert_self d t k v

/-- A write leaves every other key alone. -/
theorem get_set_ne (d : α) (t : Tab α) {k j : Nat} (v : α) (h : k ≠ j) : get d (set d t k v) j = get d t j := by
  unfold set
  split
  · exact get_erase_ne d t h
  · exact get_insert_ne d t v h

/-- Reading any key after a write. -/
theorem get_set (d : α) (t : Tab α) (k j : Nat) (v : α) : get d (set d t k v) j = if k = j then v else get d t j := by
  split
  · next h => subst h; exact get_set_self ..
  · next h => exact get_set_ne d t v h

/-! ### The canonical form -/

theorem wfFrom_mono {d : α} {t : Tab α} {lo lo' : Nat} (h : wfFrom d lo t = true) (hl : lo' ≤ lo) :
    wfFrom d lo' t = true := by
  cases t with
  | nil => rfl
  | cons e t =>
    obtain ⟨a, v⟩ := e
    simp only [wfFrom, Bool.and_eq_true, decide_eq_true_eq] at h ⊢
    exact ⟨⟨Nat.le_trans hl h.1.1, h.1.2⟩, h.2⟩

theorem wfFrom_filter {d : α} (p : Nat × α → Bool) {t : Tab α} {lo : Nat} (h : wfFrom d lo t = true) :
    wfFrom d lo (t.filter p) = true := by
  induction t generalizing lo with
  | nil => rfl
  | cons e t ih =>
    obtain ⟨a, v⟩ := e
    simp only [wfFrom, Bool.and_eq_true, decide_eq_true_eq] at h
    by_cases hp : p (a, v) = true
    · rw [List.filter_cons_of_pos hp]
      simpa [wfFrom, h.1.1, h.1.2] using ih h.2
    · rw [List.filter_cons_of_neg hp]
      exact wfFrom_mono (ih h.2) (by omega)

theorem wfFrom_insert {d : α} {t : Tab α} {lo k : Nat} {v : α} (h : wfFrom d lo t = true) (hk : lo ≤ k) (hv : v ≠ d) :
    wfFrom d lo (insert t k v) = true := by
  induction t generalizing lo with
  | nil => simp [insert, wfFrom, hk, hv]
  | cons e t ih =>
    obtain ⟨a, w⟩ := e
    simp only [wfFrom, Bool.and_eq_true, decide_eq_true_eq] at h
    unfold insert
    split
    · next hlt => simpa [wfFrom, h.1.1, h.1.2] using ih h.2 hlt
    · next hlt =>
      split
      · next he => subst he; simpa [wfFrom, hk, hv] using h.2
      · next he => simpa [wfFrom, hk, hv, h.1.2, h.2] using (by omega : k + 1 ≤ a)

/-- A write keeps the canonical form. -/
theorem wf_set {d : α} {t : Tab α} (k : Nat) (v : α) (h : wf d t = true) : wf d (set d t k v) = true := by
  unfold set
  split
  · rw [erase_eq_filter]; exact wfFrom_filter _ h
  · next hv => exact wfFrom_insert h (Nat.zero_le k) hv

/-- Leaving entries out keeps the canonical form. -/
theorem wf_filter {d : α} {t : Tab α} (p : Nat × α → Bool) (h : wf d t = true) : wf d (t.filter p) = true :=
  wfFrom_filter p h

/-- Dropping a range of keys keeps the canonical form. -/
theorem wf_drop {d : α} {t : Tab α} (lo hi : Nat) (h : wf d t = true) : wf d (drop t lo hi) = true :=
  wfFrom_filter _ h

/-- Any number of writes keep the canonical form. -/
theorem wf_foldl {d : α} {β : Type} (f : Tab α → β → Tab α) (hf : ∀ t x, wf d t = true → wf d (f t x) = true)
    (l : List β) {t : Tab α} (h : wf d t = true) : wf d (l.foldl f t) = true := by
  induction l generalizing t with
  | nil => exact h
  | cons x l ih => exact ih (hf t x h)

end Sys2Proof.Machine.Tab
end

