-- ==== Sys2Proof/Laws/State.lean ====
section
/-! SUPPORT. The laws of State: one lemma per field per update, and what is read after a write of a register, of a
record of a unit and of a byte of memory. -/

namespace Sys2Proof.Machine

/-! ### Registers -/

/-- What was written is read, cut to the width of the field. -/
@[simp] theorem State.rd_wr_self (s : State) (f : Fld) (v : Nat) : (s.wr f v).rd f = v % 2 ^ f.width := by
  unfold State.rd State.wr
  simp only [Tab.get_set_self]
  rw [show Nat.xor (Nat.xor (v % 2 ^ f.width) f.reset) f.reset = v % 2 ^ f.width from Nat.xor_xor_cancel_right _ _,
    Nat.mod_mod]

/-- A write leaves every register field with another key alone. -/
theorem State.rd_wr_ne (s : State) {f g : Fld} (v : Nat) (h : f.key ≠ g.key) : (s.wr f v).rd g = s.rd g := by
  unfold State.rd State.wr
  simp only [Tab.get_set_ne _ _ _ h]

/-- Reading any field after a write. -/
theorem State.rd_wr (s : State) {f g : Fld} (v : Nat) (hr : f.key = g.key → f = g) :
    (s.wr f v).rd g = if f.key = g.key then v % 2 ^ g.width else s.rd g := by
  split
  · next h => rw [← hr h, State.rd_wr_self]
  · next h => exact State.rd_wr_ne s v h

theorem State.rd_lt (s : State) (f : Fld) : s.rd f < 2 ^ f.width := Nat.mod_lt _ (Nat.two_pow_pos _)

@[simp] theorem State.wrs_nil (s : State) : s.wrs [] = s := rfl
@[simp] theorem State.wrs_cons (s : State) (f : Fld) (v : Nat) (l : List (Fld × Nat)) : s.wrs ((f, v) :: l) = (s.wr f v).wrs l := rfl

/-- Writes leave every register field with another key alone. -/
theorem State.rd_wrs_ne (s : State) (l : List (Fld × Nat)) {g : Fld} (h : ∀ e ∈ l, e.1.key ≠ g.key) :
    (s.wrs l).rd g = s.rd g := by
  induction l generalizing s with
  | nil => rfl
  | cons e l ih =>
    obtain ⟨f, v⟩ := e
    rw [State.wrs_cons, ih _ fun e he => h e (List.mem_cons_of_mem _ he)]
    exact State.rd_wr_ne s v (h (f, v) (List.mem_cons_self ..))

/-- A one-bit field written with a Boolean. -/
theorem State.flag_wr_one (s : State) (f : Fld) (h : f.width = 1) : (s.wr f 1).flag f = true := by
  unfold State.flag
  rw [State.rd_wr_self, h]
  rfl

/-- A field written with 0. -/
theorem State.flag_wr_zero (s : State) (f : Fld) : (s.wr f 0).flag f = false := by
  unfold State.flag
  rw [State.rd_wr_self, Nat.zero_mod]
  rfl

/-- Only the registers named by `ks` differ. -/
theorem onlyRegs_wr (s : State) (f : Fld) (v : Nat) : OnlyRegs s (s.wr f v) [f.key] :=
  ⟨rfl, fun _ hg => State.rd_wr_ne s v fun e => hg (e ▸ List.mem_singleton.mpr rfl)⟩

theorem OnlyRegs.refl (s : State) (ks : List Nat) : OnlyRegs s s ks := ⟨rfl, fun _ _ => rfl⟩

theorem OnlyRegs.trans {a b c : State} {k l : List Nat} (h : OnlyRegs a b k) (g : OnlyRegs b c l) :
    OnlyRegs a c (k ++ l) := by
  refine ⟨?_, fun f hf => ?_⟩
  · rw [g.1, h.1]
  · rw [List.mem_append, not_or] at hf
    rw [g.2 f hf.2, h.2 f hf.1]

/-- A list of writes changes only the registers it names. -/
theorem onlyRegs_wrs (s : State) (l : List (Fld × Nat)) : OnlyRegs s (s.wrs l) (l.map fun e => e.1.key) := by
  induction l generalizing s with
  | nil => exact OnlyRegs.refl ..
  | cons e l ih => exact (onlyRegs_wr s e.1 e.2).trans (ih _)

/-! ### Records of the units -/

@[simp] theorem State.cell_setCell_self (s : State) (c : Nat) (x : CellX) : (s.setCell c x).cell c = x := Tab.get_set_self ..
theorem State.cell_setCell_ne (s : State) {c d : Nat} (x : CellX) (h : c ≠ d) : (s.setCell c x).cell d = s.cell d :=
  Tab.get_set_ne _ _ _ h
@[simp] theorem State.cell_modCell_self (s : State) (c : Nat) (g : CellX → CellX) : (s.modCell c g).cell c = g (s.cell c) :=
  Tab.get_set_self ..
theorem State.cell_modCell_ne (s : State) {c d : Nat} (g : CellX → CellX) (h : c ≠ d) : (s.modCell c g).cell d = s.cell d :=
  Tab.get_set_ne _ _ _ h
@[simp] theorem State.run_setRun_self (s : State) (c : Nat) (x : Run) : (s.setRun c x).run c = x := Tab.get_set_self ..
theorem State.run_setRun_ne (s : State) {c d : Nat} (x : Run) (h : c ≠ d) : (s.setRun c x).run d = s.run d :=
  Tab.get_set_ne _ _ _ h
@[simp] theorem State.run_modRun_self (s : State) (c : Nat) (g : Run → Run) : (s.modRun c g).run c = g (s.run c) :=
  Tab.get_set_self ..
theorem State.run_modRun_ne (s : State) {c d : Nat} (g : Run → Run) (h : c ≠ d) : (s.modRun c g).run d = s.run d :=
  Tab.get_set_ne _ _ _ h
@[simp] theorem State.block_setBlock_self (s : State) (c : Nat) (x : BlockX) : (s.setBlock c x).block c = x := Tab.get_set_self ..
@[simp] theorem State.block_modBlock_self (s : State) (c : Nat) (g : BlockX → BlockX) :
    (s.modBlock c g).block c = g (s.block c) := Tab.get_set_self ..
theorem State.block_modBlock_ne (s : State) {c d : Nat} (g : BlockX → BlockX) (h : c ≠ d) :
    (s.modBlock c g).block d = s.block d := Tab.get_set_ne _ _ _ h
@[simp] theorem State.region_setRegion_self (s : State) (c : Nat) (x : RegionX) : (s.setRegion c x).region c = x :=
  Tab.get_set_self ..
@[simp] theorem State.region_modRegion_self (s : State) (c : Nat) (g : RegionX → RegionX) :
    (s.modRegion c g).region c = g (s.region c) := Tab.get_set_self ..
theorem State.region_modRegion_ne (s : State) {c d : Nat} (g : RegionX → RegionX) (h : c ≠ d) :
    (s.modRegion c g).region d = s.region d := Tab.get_set_ne _ _ _ h

/-! ### Reading through a record update -/

@[simp] theorem State.rd_mk (s : State) {grade' mem' ecc' rawChk' cells' runs' blocks' regions' net' store' cal'
  objor' bonds' bst' cvy' stewards' evc' power' host' gpio' hub' rst' esum' retired' pulses' faultQ' answer'
  freeCtr' pending'} (f : Fld) : State.rd ⟨grade', s.regs, mem', ecc', rawChk', cells', runs', blocks', regions',
  net', store', cal', objor', bonds', bst', cvy', stewards', evc', power', host', gpio', hub', rst', esum',
  retired', pulses', faultQ', answer', freeCtr', pending'⟩ f = s.rd f := rfl

@[simp] theorem State.cell_mk (s : State) {grade' regs' mem' ecc' rawChk' runs' blocks' regions' net' store' cal'
  objor' bonds' bst' cvy' stewards' evc' power' host' gpio' hub' rst' esum' retired' pulses' faultQ' answer'
  freeCtr' pending'} (c : Nat) : State.cell ⟨grade', regs', mem', ecc', rawChk', s.cells, runs', blocks', regions',
  net', store', cal', objor', bonds', bst', cvy', stewards', evc', power', host', gpio', hub', rst', esum',
  retired', pulses', faultQ', answer', freeCtr', pending'⟩ c = s.cell c := rfl

@[simp] theorem State.run_mk (s : State) {grade' regs' mem' ecc' rawChk' cells' blocks' regions' net' store' cal'
  objor' bonds' bst' cvy' stewards' evc' power' host' gpio' hub' rst' esum' retired' pulses' faultQ' answer'
  freeCtr' pending'} (c : Nat) : State.run ⟨grade', regs', mem', ecc', rawChk', cells', s.runs, blocks', regions',
  net', store', cal', objor', bonds', bst', cvy', stewards', evc', power', host', gpio', hub', rst', esum',
  retired', pulses', faultQ', answer', freeCtr', pending'⟩ c = s.run c := rfl

@[simp] theorem State.block_mk (s : State) {grade' regs' mem' ecc' rawChk' cells' runs' regions' net' store' cal'
  objor' bonds' bst' cvy' stewards' evc' power' host' gpio' hub' rst' esum' retired' pulses' faultQ' answer'
  freeCtr' pending'} (c : Nat) : State.block ⟨grade', regs', mem', ecc', rawChk', cells', runs', s.blocks, regions',
  net', store', cal', objor', bonds', bst', cvy', stewards', evc', power', host', gpio', hub', rst', esum',
  retired', pulses', faultQ', answer', freeCtr', pending'⟩ c = s.block c := rfl

@[simp] theorem State.region_mk (s : State) {grade' regs' mem' ecc' rawChk' cells' runs' blocks' net' store' cal'
  objor' bonds' bst' cvy' stewards' evc' power' host' gpio' hub' rst' esum' retired' pulses' faultQ' answer'
  freeCtr' pending'} (c : Nat) : State.region ⟨grade', regs', mem', ecc', rawChk', cells', runs', blocks',
  s.regions, net', store', cal', objor', bonds', bst', cvy', stewards', evc', power', host', gpio', hub', rst',
  esum', retired', pulses', faultQ', answer', freeCtr', pending'⟩ c = s.region c := rfl

@[simp] theorem State.readByte_mk (s : State) {grade' regs' ecc' rawChk' cells' runs' blocks' regions' net' store'
  cal' objor' bonds' bst' cvy' stewards' evc' power' host' gpio' hub' rst' esum' retired' pulses' faultQ' answer'
  freeCtr' pending'} (a : Nat) : State.readByte ⟨grade', regs', s.mem, ecc', rawChk', cells', runs', blocks',
  regions', net', store', cal', objor', bonds', bst', cvy', stewards', evc', power', host', gpio', hub', rst',
  esum', retired', pulses', faultQ', answer', freeCtr', pending'⟩ a = s.readByte a := rfl

/-! ### What each update leaves alone -/

@[simp] theorem State.wr_grade (s : State) (f : Fld) (v : Nat) : (s.wr f v).grade = s.grade := rfl
@[simp] theorem State.wr_mem (s : State) (f : Fld) (v : Nat) : (s.wr f v).mem = s.mem := rfl
@[simp] theorem State.wr_ecc (s : State) (f : Fld) (v : Nat) : (s.wr f v).ecc = s.ecc := rfl
@[simp] theorem State.wr_rawChk (s : State) (f : Fld) (v : Nat) : (s.wr f v).rawChk = s.rawChk := rfl
@[simp] theorem State.wr_cells (s : State) (f : Fld) (v : Nat) : (s.wr f v).cells = s.cells := rfl
@[simp] theorem State.wr_runs (s : State) (f : Fld) (v : Nat) : (s.wr f v).runs = s.runs := rfl
@[simp] theorem State.wr_blocks (s : State) (f : Fld) (v : Nat) : (s.wr f v).blocks = s.blocks := rfl
@[simp] theorem State.wr_regions (s : State) (f : Fld) (v : Nat) : (s.wr f v).regions = s.regions := rfl
@[simp] theorem State.wr_net (s : State) (f : Fld) (v : Nat) : (s.wr f v).net = s.net := rfl
@[simp] theorem State.wr_store (s : State) (f : Fld) (v : Nat) : (s.wr f v).store = s.store := rfl
@[simp] theorem State.wr_cal (s : State) (f : Fld) (v : Nat) : (s.wr f v).cal = s.cal := rfl
@[simp] theorem State.wr_objor (s : State) (f : Fld) (v : Nat) : (s.wr f v).objor = s.objor := rfl
@[simp] theorem State.wr_bonds (s : State) (f : Fld) (v : Nat) : (s.wr f v).bonds = s.bonds := rfl
@[simp] theorem State.wr_bst (s : State) (f : Fld) (v : Nat) : (s.wr f v).bst = s.bst := rfl
@[simp] theorem State.wr_cvy (s : State) (f : Fld) (v : Nat) : (s.wr f v).cvy = s.cvy := rfl
@[simp] theorem State.wr_stewards (s : State) (f : Fld) (v : Nat) : (s.wr f v).stewards = s.stewards := rfl
@[simp] theorem State.wr_evc (s : State) (f : Fld) (v : Nat) : (s.wr f v).evc = s.evc := rfl
@[simp] theorem State.wr_power (s : State) (f : Fld) (v : Nat) : (s.wr f v).power = s.power := rfl
@[simp] theorem State.wr_host (s : State) (f : Fld) (v : Nat) : (s.wr f v).host = s.host := rfl
@[simp] theorem State.wr_gpio (s : State) (f : Fld) (v : Nat) : (s.wr f v).gpio = s.gpio := rfl
@[simp] theorem State.wr_hub (s : State) (f : Fld) (v : Nat) : (s.wr f v).hub = s.hub := rfl
@[simp] theorem State.wr_rst (s : State) (f : Fld) (v : Nat) : (s.wr f v).rst = s.rst := rfl
@[simp] theorem State.wr_esum (s : State) (f : Fld) (v : Nat) : (s.wr f v).esum = s.esum := rfl
@[simp] theorem State.wr_retired (s : State) (f : Fld) (v : Nat) : (s.wr f v).retired = s.retired := rfl
@[simp] theorem State.wr_pulses (s : State) (f : Fld) (v : Nat) : (s.wr f v).pulses = s.pulses := rfl
@[simp] theorem State.wr_faultQ (s : State) (f : Fld) (v : Nat) : (s.wr f v).faultQ = s.faultQ := rfl
@[simp] theorem State.wr_answer (s : State) (f : Fld) (v : Nat) : (s.wr f v).answer = s.answer := rfl
@[simp] theorem State.wr_freeCtr (s : State) (f : Fld) (v : Nat) : (s.wr f v).freeCtr = s.freeCtr := rfl
@[simp] theorem State.wr_pending (s : State) (f : Fld) (v : Nat) : (s.wr f v).pending = s.pending := rfl
@[simp] theorem State.cell_wr (s : State) (f : Fld) (v : Nat) (k : Nat) : (s.wr f v).cell k = s.cell k := rfl
@[simp] theorem State.run_wr (s : State) (f : Fld) (v : Nat) (k : Nat) : (s.wr f v).run k = s.run k := rfl
@[simp] theorem State.block_wr (s : State) (f : Fld) (v : Nat) (k : Nat) : (s.wr f v).block k = s.block k := rfl
@[simp] theorem State.region_wr (s : State) (f : Fld) (v : Nat) (k : Nat) : (s.wr f v).region k = s.region k := rfl
@[simp] theorem State.steward_wr (s : State) (f : Fld) (v : Nat) (k : Nat) : (s.wr f v).steward k = s.steward k := rfl
@[simp] theorem State.readByte_wr (s : State) (f : Fld) (v : Nat) (p : Nat) : (s.wr f v).readByte p = s.readByte p := rfl
@[simp] theorem State.setCell_grade (s : State) (c : Nat) (x : CellX) : (s.setCell c x).grade = s.grade := rfl
@[simp] theorem State.setCell_regs (s : State) (c : Nat) (x : CellX) : (s.setCell c x).regs = s.regs := rfl
@[simp] theorem State.setCell_mem (s : State) (c : Nat) (x : CellX) : (s.setCell c x).mem = s.mem := rfl
@[simp] theorem State.setCell_ecc (s : State) (c : Nat) (x : CellX) : (s.setCell c x).ecc = s.ecc := rfl
@[simp] theorem State.setCell_rawChk (s : State) (c : Nat) (x : CellX) : (s.setCell c x).rawChk = s.rawChk := rfl
@[simp] theorem State.setCell_runs (s : State) (c : Nat) (x : CellX) : (s.setCell c x).runs = s.runs := rfl
@[simp] theorem State.setCell_blocks (s : State) (c : Nat) (x : CellX) : (s.setCell c x).blocks = s.blocks := rfl
@[simp] theorem State.setCell_regions (s : State) (c : Nat) (x : CellX) : (s.setCell c x).regions = s.regions := rfl
@[simp] theorem State.setCell_net (s : State) (c : Nat) (x : CellX) : (s.setCell c x).net = s.net := rfl
@[simp] theorem State.setCell_store (s : State) (c : Nat) (x : CellX) : (s.setCell c x).store = s.store := rfl
@[simp] theorem State.setCell_cal (s : State) (c : Nat) (x : CellX) : (s.setCell c x).cal = s.cal := rfl
@[simp] theorem State.setCell_objor (s : State) (c : Nat) (x : CellX) : (s.setCell c x).objor = s.objor := rfl
@[simp] theorem State.setCell_bonds (s : State) (c : Nat) (x : CellX) : (s.setCell c x).bonds = s.bonds := rfl
@[simp] theorem State.setCell_bst (s : State) (c : Nat) (x : CellX) : (s.setCell c x).bst = s.bst := rfl
@[simp] theorem State.setCell_cvy (s : State) (c : Nat) (x : CellX) : (s.setCell c x).cvy = s.cvy := rfl
@[simp] theorem State.setCell_stewards (s : State) (c : Nat) (x : CellX) : (s.setCell c x).stewards = s.stewards := rfl
@[simp] theorem State.setCell_evc (s : State) (c : Nat) (x : CellX) : (s.setCell c x).evc = s.evc := rfl
@[simp] theorem State.setCell_power (s : State) (c : Nat) (x : CellX) : (s.setCell c x).power = s.power := rfl
@[simp] theorem State.setCell_host (s : State) (c : Nat) (x : CellX) : (s.setCell c x).host = s.host := rfl
@[simp] theorem State.setCell_gpio (s : State) (c : Nat) (x : CellX) : (s.setCell c x).gpio = s.gpio := rfl
@[simp] theorem State.setCell_hub (s : State) (c : Nat) (x : CellX) : (s.setCell c x).hub = s.hub := rfl
@[simp] theorem State.setCell_rst (s : State) (c : Nat) (x : CellX) : (s.setCell c x).rst = s.rst := rfl
@[simp] theorem State.setCell_esum (s : State) (c : Nat) (x : CellX) : (s.setCell c x).esum = s.esum := rfl
@[simp] theorem State.setCell_retired (s : State) (c : Nat) (x : CellX) : (s.setCell c x).retired = s.retired := rfl
@[simp] theorem State.setCell_pulses (s : State) (c : Nat) (x : CellX) : (s.setCell c x).pulses = s.pulses := rfl
@[simp] theorem State.setCell_faultQ (s : State) (c : Nat) (x : CellX) : (s.setCell c x).faultQ = s.faultQ := rfl
@[simp] theorem State.setCell_answer (s : State) (c : Nat) (x : CellX) : (s.setCell c x).answer = s.answer := rfl
@[simp] theorem State.setCell_freeCtr (s : State) (c : Nat) (x : CellX) : (s.setCell c x).freeCtr = s.freeCtr := rfl
@[simp] theorem State.setCell_pending (s : State) (c : Nat) (x : CellX) : (s.setCell c x).pending = s.pending := rfl
@[simp] theorem State.run_setCell (s : State) (c : Nat) (x : CellX) (k : Nat) : (s.setCell c x).run k = s.run k := rfl
@[simp] theorem State.block_setCell (s : State) (c : Nat) (x : CellX) (k : Nat) : (s.setCell c x).block k = s.block k := rfl
@[simp] theorem State.region_setCell (s : State) (c : Nat) (x : CellX) (k : Nat) : (s.setCell c x).region k = s.region k := rfl
@[simp] theorem State.steward_setCell (s : State) (c : Nat) (x : CellX) (k : Nat) : (s.setCell c x).steward k = s.steward k := rfl
@[simp] theorem State.rd_setCell (s : State) (c : Nat) (x : CellX) (p : Fld) : (s.setCell c x).rd p = s.rd p := rfl
@[simp] theorem State.readByte_setCell (s : State) (c : Nat) (x : CellX) (p : Nat) : (s.setCell c x).readByte p = s.readByte p := rfl
@[simp] theorem State.setRun_grade (s : State) (c : Nat) (x : Run) : (s.setRun c x).grade = s.grade := rfl
@[simp] theorem State.setRun_regs (s : State) (c : Nat) (x : Run) : (s.setRun c x).regs = s.regs := rfl
@[simp] theorem State.setRun_mem (s : State) (c : Nat) (x : Run) : (s.setRun c x).mem = s.mem := rfl
@[simp] theorem State.setRun_ecc (s : State) (c : Nat) (x : Run) : (s.setRun c x).ecc = s.ecc := rfl
@[simp] theorem State.setRun_rawChk (s : State) (c : Nat) (x : Run) : (s.setRun c x).rawChk = s.rawChk := rfl
@[simp] theorem State.setRun_cells (s : State) (c : Nat) (x : Run) : (s.setRun c x).cells = s.cells := rfl
@[simp] theorem State.setRun_blocks (s : State) (c : Nat) (x : Run) : (s.setRun c x).blocks = s.blocks := rfl
@[simp] theorem State.setRun_regions (s : State) (c : Nat) (x : Run) : (s.setRun c x).regions = s.regions := rfl
@[simp] theorem State.setRun_net (s : State) (c : Nat) (x : Run) : (s.setRun c x).net = s.net := rfl
@[simp] theorem State.setRun_store (s : State) (c : Nat) (x : Run) : (s.setRun c x).store = s.store := rfl
@[simp] theorem State.setRun_cal (s : State) (c : Nat) (x : Run) : (s.setRun c x).cal = s.cal := rfl
@[simp] theorem State.setRun_objor (s : State) (c : Nat) (x : Run) : (s.setRun c x).objor = s.objor := rfl
@[simp] theorem State.setRun_bonds (s : State) (c : Nat) (x : Run) : (s.setRun c x).bonds = s.bonds := rfl
@[simp] theorem State.setRun_bst (s : State) (c : Nat) (x : Run) : (s.setRun c x).bst = s.bst := rfl
@[simp] theorem State.setRun_cvy (s : State) (c : Nat) (x : Run) : (s.setRun c x).cvy = s.cvy := rfl
@[simp] theorem State.setRun_stewards (s : State) (c : Nat) (x : Run) : (s.setRun c x).stewards = s.stewards := rfl
@[simp] theorem State.setRun_evc (s : State) (c : Nat) (x : Run) : (s.setRun c x).evc = s.evc := rfl
@[simp] theorem State.setRun_power (s : State) (c : Nat) (x : Run) : (s.setRun c x).power = s.power := rfl
@[simp] theorem State.setRun_host (s : State) (c : Nat) (x : Run) : (s.setRun c x).host = s.host := rfl
@[simp] theorem State.setRun_gpio (s : State) (c : Nat) (x : Run) : (s.setRun c x).gpio = s.gpio := rfl
@[simp] theorem State.setRun_hub (s : State) (c : Nat) (x : Run) : (s.setRun c x).hub = s.hub := rfl
@[simp] theorem State.setRun_rst (s : State) (c : Nat) (x : Run) : (s.setRun c x).rst = s.rst := rfl
@[simp] theorem State.setRun_esum (s : State) (c : Nat) (x : Run) : (s.setRun c x).esum = s.esum := rfl
@[simp] theorem State.setRun_retired (s : State) (c : Nat) (x : Run) : (s.setRun c x).retired = s.retired := rfl
@[simp] theorem State.setRun_pulses (s : State) (c : Nat) (x : Run) : (s.setRun c x).pulses = s.pulses := rfl
@[simp] theorem State.setRun_faultQ (s : State) (c : Nat) (x : Run) : (s.setRun c x).faultQ = s.faultQ := rfl
@[simp] theorem State.setRun_answer (s : State) (c : Nat) (x : Run) : (s.setRun c x).answer = s.answer := rfl
@[simp] theorem State.setRun_freeCtr (s : State) (c : Nat) (x : Run) : (s.setRun c x).freeCtr = s.freeCtr := rfl
@[simp] theorem State.setRun_pending (s : State) (c : Nat) (x : Run) : (s.setRun c x).pending = s.pending := rfl
@[simp] theorem State.cell_setRun (s : State) (c : Nat) (x : Run) (k : Nat) : (s.setRun c x).cell k = s.cell k := rfl
@[simp] theorem State.block_setRun (s : State) (c : Nat) (x : Run) (k : Nat) : (s.setRun c x).block k = s.block k := rfl
@[simp] theorem State.region_setRun (s : State) (c : Nat) (x : Run) (k : Nat) : (s.setRun c x).region k = s.region k := rfl
@[simp] theorem State.steward_setRun (s : State) (c : Nat) (x : Run) (k : Nat) : (s.setRun c x).steward k = s.steward k := rfl
@[simp] theorem State.rd_setRun (s : State) (c : Nat) (x : Run) (p : Fld) : (s.setRun c x).rd p = s.rd p := rfl
@[simp] theorem State.readByte_setRun (s : State) (c : Nat) (x : Run) (p : Nat) : (s.setRun c x).readByte p = s.readByte p := rfl
@[simp] theorem State.setBlock_grade (s : State) (c : Nat) (x : BlockX) : (s.setBlock c x).grade = s.grade := rfl
@[simp] theorem State.setBlock_regs (s : State) (c : Nat) (x : BlockX) : (s.setBlock c x).regs = s.regs := rfl
@[simp] theorem State.setBlock_mem (s : State) (c : Nat) (x : BlockX) : (s.setBlock c x).mem = s.mem := rfl
@[simp] theorem State.setBlock_ecc (s : State) (c : Nat) (x : BlockX) : (s.setBlock c x).ecc = s.ecc := rfl
@[simp] theorem State.setBlock_rawChk (s : State) (c : Nat) (x : BlockX) : (s.setBlock c x).rawChk = s.rawChk := rfl
@[simp] theorem State.setBlock_cells (s : State) (c : Nat) (x : BlockX) : (s.setBlock c x).cells = s.cells := rfl
@[simp] theorem State.setBlock_runs (s : State) (c : Nat) (x : BlockX) : (s.setBlock c x).runs = s.runs := rfl
@[simp] theorem State.setBlock_regions (s : State) (c : Nat) (x : BlockX) : (s.setBlock c x).regions = s.regions := rfl
@[simp] theorem State.setBlock_net (s : State) (c : Nat) (x : BlockX) : (s.setBlock c x).net = s.net := rfl
@[simp] theorem State.setBlock_store (s : State) (c : Nat) (x : BlockX) : (s.setBlock c x).store = s.store := rfl
@[simp] theorem State.setBlock_cal (s : State) (c : Nat) (x : BlockX) : (s.setBlock c x).cal = s.cal := rfl
@[simp] theorem State.setBlock_objor (s : State) (c : Nat) (x : BlockX) : (s.setBlock c x).objor = s.objor := rfl
@[simp] theorem State.setBlock_bonds (s : State) (c : Nat) (x : BlockX) : (s.setBlock c x).bonds = s.bonds := rfl
@[simp] theorem State.setBlock_bst (s : State) (c : Nat) (x : BlockX) : (s.setBlock c x).bst = s.bst := rfl
@[simp] theorem State.setBlock_cvy (s : State) (c : Nat) (x : BlockX) : (s.setBlock c x).cvy = s.cvy := rfl
@[simp] theorem State.setBlock_stewards (s : State) (c : Nat) (x : BlockX) : (s.setBlock c x).stewards = s.stewards := rfl
@[simp] theorem State.setBlock_evc (s : State) (c : Nat) (x : BlockX) : (s.setBlock c x).evc = s.evc := rfl
@[simp] theorem State.setBlock_power (s : State) (c : Nat) (x : BlockX) : (s.setBlock c x).power = s.power := rfl
@[simp] theorem State.setBlock_host (s : State) (c : Nat) (x : BlockX) : (s.setBlock c x).host = s.host := rfl
@[simp] theorem State.setBlock_gpio (s : State) (c : Nat) (x : BlockX) : (s.setBlock c x).gpio = s.gpio := rfl
@[simp] theorem State.setBlock_hub (s : State) (c : Nat) (x : BlockX) : (s.setBlock c x).hub = s.hub := rfl
@[simp] theorem State.setBlock_rst (s : State) (c : Nat) (x : BlockX) : (s.setBlock c x).rst = s.rst := rfl
@[simp] theorem State.setBlock_esum (s : State) (c : Nat) (x : BlockX) : (s.setBlock c x).esum = s.esum := rfl
@[simp] theorem State.setBlock_retired (s : State) (c : Nat) (x : BlockX) : (s.setBlock c x).retired = s.retired := rfl
@[simp] theorem State.setBlock_pulses (s : State) (c : Nat) (x : BlockX) : (s.setBlock c x).pulses = s.pulses := rfl
@[simp] theorem State.setBlock_faultQ (s : State) (c : Nat) (x : BlockX) : (s.setBlock c x).faultQ = s.faultQ := rfl
@[simp] theorem State.setBlock_answer (s : State) (c : Nat) (x : BlockX) : (s.setBlock c x).answer = s.answer := rfl
@[simp] theorem State.setBlock_freeCtr (s : State) (c : Nat) (x : BlockX) : (s.setBlock c x).freeCtr = s.freeCtr := rfl
@[simp] theorem State.setBlock_pending (s : State) (c : Nat) (x : BlockX) : (s.setBlock c x).pending = s.pending := rfl
@[simp] theorem State.cell_setBlock (s : State) (c : Nat) (x : BlockX) (k : Nat) : (s.setBlock c x).cell k = s.cell k := rfl
@[simp] theorem State.run_setBlock (s : State) (c : Nat) (x : BlockX) (k : Nat) : (s.setBlock c x).run k = s.run k := rfl
@[simp] theorem State.region_setBlock (s : State) (c : Nat) (x : BlockX) (k : Nat) : (s.setBlock c x).region k = s.region k := rfl
@[simp] theorem State.steward_setBlock (s : State) (c : Nat) (x : BlockX) (k : Nat) : (s.setBlock c x).steward k = s.steward k := rfl
@[simp] theorem State.rd_setBlock (s : State) (c : Nat) (x : BlockX) (p : Fld) : (s.setBlock c x).rd p = s.rd p := rfl
@[simp] theorem State.readByte_setBlock (s : State) (c : Nat) (x : BlockX) (p : Nat) : (s.setBlock c x).readByte p = s.readByte p := rfl
@[simp] theorem State.setRegion_grade (s : State) (c : Nat) (x : RegionX) : (s.setRegion c x).grade = s.grade := rfl
@[simp] theorem State.setRegion_regs (s : State) (c : Nat) (x : RegionX) : (s.setRegion c x).regs = s.regs := rfl
@[simp] theorem State.setRegion_mem (s : State) (c : Nat) (x : RegionX) : (s.setRegion c x).mem = s.mem := rfl
@[simp] theorem State.setRegion_ecc (s : State) (c : Nat) (x : RegionX) : (s.setRegion c x).ecc = s.ecc := rfl
@[simp] theorem State.setRegion_rawChk (s : State) (c : Nat) (x : RegionX) : (s.setRegion c x).rawChk = s.rawChk := rfl
@[simp] theorem State.setRegion_cells (s : State) (c : Nat) (x : RegionX) : (s.setRegion c x).cells = s.cells := rfl
@[simp] theorem State.setRegion_runs (s : State) (c : Nat) (x : RegionX) : (s.setRegion c x).runs = s.runs := rfl
@[simp] theorem State.setRegion_blocks (s : State) (c : Nat) (x : RegionX) : (s.setRegion c x).blocks = s.blocks := rfl
@[simp] theorem State.setRegion_net (s : State) (c : Nat) (x : RegionX) : (s.setRegion c x).net = s.net := rfl
@[simp] theorem State.setRegion_store (s : State) (c : Nat) (x : RegionX) : (s.setRegion c x).store = s.store := rfl
@[simp] theorem State.setRegion_cal (s : State) (c : Nat) (x : RegionX) : (s.setRegion c x).cal = s.cal := rfl
@[simp] theorem State.setRegion_objor (s : State) (c : Nat) (x : RegionX) : (s.setRegion c x).objor = s.objor := rfl
@[simp] theorem State.setRegion_bonds (s : State) (c : Nat) (x : RegionX) : (s.setRegion c x).bonds = s.bonds := rfl
@[simp] theorem State.setRegion_bst (s : State) (c : Nat) (x : RegionX) : (s.setRegion c x).bst = s.bst := rfl
@[simp] theorem State.setRegion_cvy (s : State) (c : Nat) (x : RegionX) : (s.setRegion c x).cvy = s.cvy := rfl
@[simp] theorem State.setRegion_stewards (s : State) (c : Nat) (x : RegionX) : (s.setRegion c x).stewards = s.stewards := rfl
@[simp] theorem State.setRegion_evc (s : State) (c : Nat) (x : RegionX) : (s.setRegion c x).evc = s.evc := rfl
@[simp] theorem State.setRegion_power (s : State) (c : Nat) (x : RegionX) : (s.setRegion c x).power = s.power := rfl
@[simp] theorem State.setRegion_host (s : State) (c : Nat) (x : RegionX) : (s.setRegion c x).host = s.host := rfl
@[simp] theorem State.setRegion_gpio (s : State) (c : Nat) (x : RegionX) : (s.setRegion c x).gpio = s.gpio := rfl
@[simp] theorem State.setRegion_hub (s : State) (c : Nat) (x : RegionX) : (s.setRegion c x).hub = s.hub := rfl
@[simp] theorem State.setRegion_rst (s : State) (c : Nat) (x : RegionX) : (s.setRegion c x).rst = s.rst := rfl
@[simp] theorem State.setRegion_esum (s : State) (c : Nat) (x : RegionX) : (s.setRegion c x).esum = s.esum := rfl
@[simp] theorem State.setRegion_retired (s : State) (c : Nat) (x : RegionX) : (s.setRegion c x).retired = s.retired := rfl
@[simp] theorem State.setRegion_pulses (s : State) (c : Nat) (x : RegionX) : (s.setRegion c x).pulses = s.pulses := rfl
@[simp] theorem State.setRegion_faultQ (s : State) (c : Nat) (x : RegionX) : (s.setRegion c x).faultQ = s.faultQ := rfl
@[simp] theorem State.setRegion_answer (s : State) (c : Nat) (x : RegionX) : (s.setRegion c x).answer = s.answer := rfl
@[simp] theorem State.setRegion_freeCtr (s : State) (c : Nat) (x : RegionX) : (s.setRegion c x).freeCtr = s.freeCtr := rfl
@[simp] theorem State.setRegion_pending (s : State) (c : Nat) (x : RegionX) : (s.setRegion c x).pending = s.pending := rfl
@[simp] theorem State.cell_setRegion (s : State) (c : Nat) (x : RegionX) (k : Nat) : (s.setRegion c x).cell k = s.cell k := rfl
@[simp] theorem State.run_setRegion (s : State) (c : Nat) (x : RegionX) (k : Nat) : (s.setRegion c x).run k = s.run k := rfl
@[simp] theorem State.block_setRegion (s : State) (c : Nat) (x : RegionX) (k : Nat) : (s.setRegion c x).block k = s.block k := rfl
@[simp] theorem State.steward_setRegion (s : State) (c : Nat) (x : RegionX) (k : Nat) : (s.setRegion c x).steward k = s.steward k := rfl
@[simp] theorem State.rd_setRegion (s : State) (c : Nat) (x : RegionX) (p : Fld) : (s.setRegion c x).rd p = s.rd p := rfl
@[simp] theorem State.readByte_setRegion (s : State) (c : Nat) (x : RegionX) (p : Nat) : (s.setRegion c x).readByte p = s.readByte p := rfl
@[simp] theorem State.modCell_grade (s : State) (c : Nat) (g : CellX → CellX) : (s.modCell c g).grade = s.grade := rfl
@[simp] theorem State.modCell_regs (s : State) (c : Nat) (g : CellX → CellX) : (s.modCell c g).regs = s.regs := rfl
@[simp] theorem State.modCell_mem (s : State) (c : Nat) (g : CellX → CellX) : (s.modCell c g).mem = s.mem := rfl
@[simp] theorem State.modCell_ecc (s : State) (c : Nat) (g : CellX → CellX) : (s.modCell c g).ecc = s.ecc := rfl
@[simp] theorem State.modCell_rawChk (s : State) (c : Nat) (g : CellX → CellX) : (s.modCell c g).rawChk = s.rawChk := rfl
@[simp] theorem State.modCell_runs (s : State) (c : Nat) (g : CellX → CellX) : (s.modCell c g).runs = s.runs := rfl
@[simp] theorem State.modCell_blocks (s : State) (c : Nat) (g : CellX → CellX) : (s.modCell c g).blocks = s.blocks := rfl
@[simp] theorem State.modCell_regions (s : State) (c : Nat) (g : CellX → CellX) : (s.modCell c g).regions = s.regions := rfl
@[simp] theorem State.modCell_net (s : State) (c : Nat) (g : CellX → CellX) : (s.modCell c g).net = s.net := rfl
@[simp] theorem State.modCell_store (s : State) (c : Nat) (g : CellX → CellX) : (s.modCell c g).store = s.store := rfl
@[simp] theorem State.modCell_cal (s : State) (c : Nat) (g : CellX → CellX) : (s.modCell c g).cal = s.cal := rfl
@[simp] theorem State.modCell_objor (s : State) (c : Nat) (g : CellX → CellX) : (s.modCell c g).objor = s.objor := rfl
@[simp] theorem State.modCell_bonds (s : State) (c : Nat) (g : CellX → CellX) : (s.modCell c g).bonds = s.bonds := rfl
@[simp] theorem State.modCell_bst (s : State) (c : Nat) (g : CellX → CellX) : (s.modCell c g).bst = s.bst := rfl
@[simp] theorem State.modCell_cvy (s : State) (c : Nat) (g : CellX → CellX) : (s.modCell c g).cvy = s.cvy := rfl
@[simp] theorem State.modCell_stewards (s : State) (c : Nat) (g : CellX → CellX) : (s.modCell c g).stewards = s.stewards := rfl
@[simp] theorem State.modCell_evc (s : State) (c : Nat) (g : CellX → CellX) : (s.modCell c g).evc = s.evc := rfl
@[simp] theorem State.modCell_power (s : State) (c : Nat) (g : CellX → CellX) : (s.modCell c g).power = s.power := rfl
@[simp] theorem State.modCell_host (s : State) (c : Nat) (g : CellX → CellX) : (s.modCell c g).host = s.host := rfl
@[simp] theorem State.modCell_gpio (s : State) (c : Nat) (g : CellX → CellX) : (s.modCell c g).gpio = s.gpio := rfl
@[simp] theorem State.modCell_hub (s : State) (c : Nat) (g : CellX → CellX) : (s.modCell c g).hub = s.hub := rfl
@[simp] theorem State.modCell_rst (s : State) (c : Nat) (g : CellX → CellX) : (s.modCell c g).rst = s.rst := rfl
@[simp] theorem State.modCell_esum (s : State) (c : Nat) (g : CellX → CellX) : (s.modCell c g).esum = s.esum := rfl
@[simp] theorem State.modCell_retired (s : State) (c : Nat) (g : CellX → CellX) : (s.modCell c g).retired = s.retired := rfl
@[simp] theorem State.modCell_pulses (s : State) (c : Nat) (g : CellX → CellX) : (s.modCell c g).pulses = s.pulses := rfl
@[simp] theorem State.modCell_faultQ (s : State) (c : Nat) (g : CellX → CellX) : (s.modCell c g).faultQ = s.faultQ := rfl
@[simp] theorem State.modCell_answer (s : State) (c : Nat) (g : CellX → CellX) : (s.modCell c g).answer = s.answer := rfl
@[simp] theorem State.modCell_freeCtr (s : State) (c : Nat) (g : CellX → CellX) : (s.modCell c g).freeCtr = s.freeCtr := rfl
@[simp] theorem State.modCell_pending (s : State) (c : Nat) (g : CellX → CellX) : (s.modCell c g).pending = s.pending := rfl
@[simp] theorem State.run_modCell (s : State) (c : Nat) (g : CellX → CellX) (k : Nat) : (s.modCell c g).run k = s.run k := rfl
@[simp] theorem State.block_modCell (s : State) (c : Nat) (g : CellX → CellX) (k : Nat) : (s.modCell c g).block k = s.block k := rfl
@[simp] theorem State.region_modCell (s : State) (c : Nat) (g : CellX → CellX) (k : Nat) : (s.modCell c g).region k = s.region k := rfl
@[simp] theorem State.steward_modCell (s : State) (c : Nat) (g : CellX → CellX) (k : Nat) : (s.modCell c g).steward k = s.steward k := rfl
@[simp] theorem State.rd_modCell (s : State) (c : Nat) (g : CellX → CellX) (p : Fld) : (s.modCell c g).rd p = s.rd p := rfl
@[simp] theorem State.readByte_modCell (s : State) (c : Nat) (g : CellX → CellX) (p : Nat) : (s.modCell c g).readByte p = s.readByte p := rfl
@[simp] theorem State.modRun_grade (s : State) (c : Nat) (g : Run → Run) : (s.modRun c g).grade = s.grade := rfl
@[simp] theorem State.modRun_regs (s : State) (c : Nat) (g : Run → Run) : (s.modRun c g).regs = s.regs := rfl
@[simp] theorem State.modRun_mem (s : State) (c : Nat) (g : Run → Run) : (s.modRun c g).mem = s.mem := rfl
@[simp] theorem State.modRun_ecc (s : State) (c : Nat) (g : Run → Run) : (s.modRun c g).ecc = s.ecc := rfl
@[simp] theorem State.modRun_rawChk (s : State) (c : Nat) (g : Run → Run) : (s.modRun c g).rawChk = s.rawChk := rfl
@[simp] theorem State.modRun_cells (s : State) (c : Nat) (g : Run → Run) : (s.modRun c g).cells = s.cells := rfl
@[simp] theorem State.modRun_blocks (s : State) (c : Nat) (g : Run → Run) : (s.modRun c g).blocks = s.blocks := rfl
@[simp] theorem State.modRun_regions (s : State) (c : Nat) (g : Run → Run) : (s.modRun c g).regions = s.regions := rfl
@[simp] theorem State.modRun_net (s : State) (c : Nat) (g : Run → Run) : (s.modRun c g).net = s.net := rfl
@[simp] theorem State.modRun_store (s : State) (c : Nat) (g : Run → Run) : (s.modRun c g).store = s.store := rfl
@[simp] theorem State.modRun_cal (s : State) (c : Nat) (g : Run → Run) : (s.modRun c g).cal = s.cal := rfl
@[simp] theorem State.modRun_objor (s : State) (c : Nat) (g : Run → Run) : (s.modRun c g).objor = s.objor := rfl
@[simp] theorem State.modRun_bonds (s : State) (c : Nat) (g : Run → Run) : (s.modRun c g).bonds = s.bonds := rfl
@[simp] theorem State.modRun_bst (s : State) (c : Nat) (g : Run → Run) : (s.modRun c g).bst = s.bst := rfl
@[simp] theorem State.modRun_cvy (s : State) (c : Nat) (g : Run → Run) : (s.modRun c g).cvy = s.cvy := rfl
@[simp] theorem State.modRun_stewards (s : State) (c : Nat) (g : Run → Run) : (s.modRun c g).stewards = s.stewards := rfl
@[simp] theorem State.modRun_evc (s : State) (c : Nat) (g : Run → Run) : (s.modRun c g).evc = s.evc := rfl
@[simp] theorem State.modRun_power (s : State) (c : Nat) (g : Run → Run) : (s.modRun c g).power = s.power := rfl
@[simp] theorem State.modRun_host (s : State) (c : Nat) (g : Run → Run) : (s.modRun c g).host = s.host := rfl
@[simp] theorem State.modRun_gpio (s : State) (c : Nat) (g : Run → Run) : (s.modRun c g).gpio = s.gpio := rfl
@[simp] theorem State.modRun_hub (s : State) (c : Nat) (g : Run → Run) : (s.modRun c g).hub = s.hub := rfl
@[simp] theorem State.modRun_rst (s : State) (c : Nat) (g : Run → Run) : (s.modRun c g).rst = s.rst := rfl
@[simp] theorem State.modRun_esum (s : State) (c : Nat) (g : Run → Run) : (s.modRun c g).esum = s.esum := rfl
@[simp] theorem State.modRun_retired (s : State) (c : Nat) (g : Run → Run) : (s.modRun c g).retired = s.retired := rfl
@[simp] theorem State.modRun_pulses (s : State) (c : Nat) (g : Run → Run) : (s.modRun c g).pulses = s.pulses := rfl
@[simp] theorem State.modRun_faultQ (s : State) (c : Nat) (g : Run → Run) : (s.modRun c g).faultQ = s.faultQ := rfl
@[simp] theorem State.modRun_answer (s : State) (c : Nat) (g : Run → Run) : (s.modRun c g).answer = s.answer := rfl
@[simp] theorem State.modRun_freeCtr (s : State) (c : Nat) (g : Run → Run) : (s.modRun c g).freeCtr = s.freeCtr := rfl
@[simp] theorem State.modRun_pending (s : State) (c : Nat) (g : Run → Run) : (s.modRun c g).pending = s.pending := rfl
@[simp] theorem State.cell_modRun (s : State) (c : Nat) (g : Run → Run) (k : Nat) : (s.modRun c g).cell k = s.cell k := rfl
@[simp] theorem State.block_modRun (s : State) (c : Nat) (g : Run → Run) (k : Nat) : (s.modRun c g).block k = s.block k := rfl
@[simp] theorem State.region_modRun (s : State) (c : Nat) (g : Run → Run) (k : Nat) : (s.modRun c g).region k = s.region k := rfl
@[simp] theorem State.steward_modRun (s : State) (c : Nat) (g : Run → Run) (k : Nat) : (s.modRun c g).steward k = s.steward k := rfl
@[simp] theorem State.rd_modRun (s : State) (c : Nat) (g : Run → Run) (p : Fld) : (s.modRun c g).rd p = s.rd p := rfl
@[simp] theorem State.readByte_modRun (s : State) (c : Nat) (g : Run → Run) (p : Nat) : (s.modRun c g).readByte p = s.readByte p := rfl
@[simp] theorem State.modBlock_grade (s : State) (c : Nat) (g : BlockX → BlockX) : (s.modBlock c g).grade = s.grade := rfl
@[simp] theorem State.modBlock_regs (s : State) (c : Nat) (g : BlockX → BlockX) : (s.modBlock c g).regs = s.regs := rfl
@[simp] theorem State.modBlock_mem (s : State) (c : Nat) (g : BlockX → BlockX) : (s.modBlock c g).mem = s.mem := rfl
@[simp] theorem State.modBlock_ecc (s : State) (c : Nat) (g : BlockX → BlockX) : (s.modBlock c g).ecc = s.ecc := rfl
@[simp] theorem State.modBlock_rawChk (s : State) (c : Nat) (g : BlockX → BlockX) : (s.modBlock c g).rawChk = s.rawChk := rfl
@[simp] theorem State.modBlock_cells (s : State) (c : Nat) (g : BlockX → BlockX) : (s.modBlock c g).cells = s.cells := rfl
@[simp] theorem State.modBlock_runs (s : State) (c : Nat) (g : BlockX → BlockX) : (s.modBlock c g).runs = s.runs := rfl
@[simp] theorem State.modBlock_regions (s : State) (c : Nat) (g : BlockX → BlockX) : (s.modBlock c g).regions = s.regions := rfl
@[simp] theorem State.modBlock_net (s : State) (c : Nat) (g : BlockX → BlockX) : (s.modBlock c g).net = s.net := rfl
@[simp] theorem State.modBlock_store (s : State) (c : Nat) (g : BlockX → BlockX) : (s.modBlock c g).store = s.store := rfl
@[simp] theorem State.modBlock_cal (s : State) (c : Nat) (g : BlockX → BlockX) : (s.modBlock c g).cal = s.cal := rfl
@[simp] theorem State.modBlock_objor (s : State) (c : Nat) (g : BlockX → BlockX) : (s.modBlock c g).objor = s.objor := rfl
@[simp] theorem State.modBlock_bonds (s : State) (c : Nat) (g : BlockX → BlockX) : (s.modBlock c g).bonds = s.bonds := rfl
@[simp] theorem State.modBlock_bst (s : State) (c : Nat) (g : BlockX → BlockX) : (s.modBlock c g).bst = s.bst := rfl
@[simp] theorem State.modBlock_cvy (s : State) (c : Nat) (g : BlockX → BlockX) : (s.modBlock c g).cvy = s.cvy := rfl
@[simp] theorem State.modBlock_stewards (s : State) (c : Nat) (g : BlockX → BlockX) : (s.modBlock c g).stewards = s.stewards := rfl
@[simp] theorem State.modBlock_evc (s : State) (c : Nat) (g : BlockX → BlockX) : (s.modBlock c g).evc = s.evc := rfl
@[simp] theorem State.modBlock_power (s : State) (c : Nat) (g : BlockX → BlockX) : (s.modBlock c g).power = s.power := rfl
@[simp] theorem State.modBlock_host (s : State) (c : Nat) (g : BlockX → BlockX) : (s.modBlock c g).host = s.host := rfl
@[simp] theorem State.modBlock_gpio (s : State) (c : Nat) (g : BlockX → BlockX) : (s.modBlock c g).gpio = s.gpio := rfl
@[simp] theorem State.modBlock_hub (s : State) (c : Nat) (g : BlockX → BlockX) : (s.modBlock c g).hub = s.hub := rfl
@[simp] theorem State.modBlock_rst (s : State) (c : Nat) (g : BlockX → BlockX) : (s.modBlock c g).rst = s.rst := rfl
@[simp] theorem State.modBlock_esum (s : State) (c : Nat) (g : BlockX → BlockX) : (s.modBlock c g).esum = s.esum := rfl
@[simp] theorem State.modBlock_retired (s : State) (c : Nat) (g : BlockX → BlockX) : (s.modBlock c g).retired = s.retired := rfl
@[simp] theorem State.modBlock_pulses (s : State) (c : Nat) (g : BlockX → BlockX) : (s.modBlock c g).pulses = s.pulses := rfl
@[simp] theorem State.modBlock_faultQ (s : State) (c : Nat) (g : BlockX → BlockX) : (s.modBlock c g).faultQ = s.faultQ := rfl
@[simp] theorem State.modBlock_answer (s : State) (c : Nat) (g : BlockX → BlockX) : (s.modBlock c g).answer = s.answer := rfl
@[simp] theorem State.modBlock_freeCtr (s : State) (c : Nat) (g : BlockX → BlockX) : (s.modBlock c g).freeCtr = s.freeCtr := rfl
@[simp] theorem State.modBlock_pending (s : State) (c : Nat) (g : BlockX → BlockX) : (s.modBlock c g).pending = s.pending := rfl
@[simp] theorem State.cell_modBlock (s : State) (c : Nat) (g : BlockX → BlockX) (k : Nat) : (s.modBlock c g).cell k = s.cell k := rfl
@[simp] theorem State.run_modBlock (s : State) (c : Nat) (g : BlockX → BlockX) (k : Nat) : (s.modBlock c g).run k = s.run k := rfl
@[simp] theorem State.region_modBlock (s : State) (c : Nat) (g : BlockX → BlockX) (k : Nat) : (s.modBlock c g).region k = s.region k := rfl
@[simp] theorem State.steward_modBlock (s : State) (c : Nat) (g : BlockX → BlockX) (k : Nat) : (s.modBlock c g).steward k = s.steward k := rfl
@[simp] theorem State.rd_modBlock (s : State) (c : Nat) (g : BlockX → BlockX) (p : Fld) : (s.modBlock c g).rd p = s.rd p := rfl
@[simp] theorem State.readByte_modBlock (s : State) (c : Nat) (g : BlockX → BlockX) (p : Nat) : (s.modBlock c g).readByte p = s.readByte p := rfl
@[simp] theorem State.modRegion_grade (s : State) (c : Nat) (g : RegionX → RegionX) : (s.modRegion c g).grade = s.grade := rfl
@[simp] theorem State.modRegion_regs (s : State) (c : Nat) (g : RegionX → RegionX) : (s.modRegion c g).regs = s.regs := rfl
@[simp] theorem State.modRegion_mem (s : State) (c : Nat) (g : RegionX → RegionX) : (s.modRegion c g).mem = s.mem := rfl
@[simp] theorem State.modRegion_ecc (s : State) (c : Nat) (g : RegionX → RegionX) : (s.modRegion c g).ecc = s.ecc := rfl
@[simp] theorem State.modRegion_rawChk (s : State) (c : Nat) (g : RegionX → RegionX) : (s.modRegion c g).rawChk = s.rawChk := rfl
@[simp] theorem State.modRegion_cells (s : State) (c : Nat) (g : RegionX → RegionX) : (s.modRegion c g).cells = s.cells := rfl
@[simp] theorem State.modRegion_runs (s : State) (c : Nat) (g : RegionX → RegionX) : (s.modRegion c g).runs = s.runs := rfl
@[simp] theorem State.modRegion_blocks (s : State) (c : Nat) (g : RegionX → RegionX) : (s.modRegion c g).blocks = s.blocks := rfl
@[simp] theorem State.modRegion_net (s : State) (c : Nat) (g : RegionX → RegionX) : (s.modRegion c g).net = s.net := rfl
@[simp] theorem State.modRegion_store (s : State) (c : Nat) (g : RegionX → RegionX) : (s.modRegion c g).store = s.store := rfl
@[simp] theorem State.modRegion_cal (s : State) (c : Nat) (g : RegionX → RegionX) : (s.modRegion c g).cal = s.cal := rfl
@[simp] theorem State.modRegion_objor (s : State) (c : Nat) (g : RegionX → RegionX) : (s.modRegion c g).objor = s.objor := rfl
@[simp] theorem State.modRegion_bonds (s : State) (c : Nat) (g : RegionX → RegionX) : (s.modRegion c g).bonds = s.bonds := rfl
@[simp] theorem State.modRegion_bst (s : State) (c : Nat) (g : RegionX → RegionX) : (s.modRegion c g).bst = s.bst := rfl
@[simp] theorem State.modRegion_cvy (s : State) (c : Nat) (g : RegionX → RegionX) : (s.modRegion c g).cvy = s.cvy := rfl
@[simp] theorem State.modRegion_stewards (s : State) (c : Nat) (g : RegionX → RegionX) : (s.modRegion c g).stewards = s.stewards := rfl
@[simp] theorem State.modRegion_evc (s : State) (c : Nat) (g : RegionX → RegionX) : (s.modRegion c g).evc = s.evc := rfl
@[simp] theorem State.modRegion_power (s : State) (c : Nat) (g : RegionX → RegionX) : (s.modRegion c g).power = s.power := rfl
@[simp] theorem State.modRegion_host (s : State) (c : Nat) (g : RegionX → RegionX) : (s.modRegion c g).host = s.host := rfl
@[simp] theorem State.modRegion_gpio (s : State) (c : Nat) (g : RegionX → RegionX) : (s.modRegion c g).gpio = s.gpio := rfl
@[simp] theorem State.modRegion_hub (s : State) (c : Nat) (g : RegionX → RegionX) : (s.modRegion c g).hub = s.hub := rfl
@[simp] theorem State.modRegion_rst (s : State) (c : Nat) (g : RegionX → RegionX) : (s.modRegion c g).rst = s.rst := rfl
@[simp] theorem State.modRegion_esum (s : State) (c : Nat) (g : RegionX → RegionX) : (s.modRegion c g).esum = s.esum := rfl
@[simp] theorem State.modRegion_retired (s : State) (c : Nat) (g : RegionX → RegionX) : (s.modRegion c g).retired = s.retired := rfl
@[simp] theorem State.modRegion_pulses (s : State) (c : Nat) (g : RegionX → RegionX) : (s.modRegion c g).pulses = s.pulses := rfl
@[simp] theorem State.modRegion_faultQ (s : State) (c : Nat) (g : RegionX → RegionX) : (s.modRegion c g).faultQ = s.faultQ := rfl
@[simp] theorem State.modRegion_answer (s : State) (c : Nat) (g : RegionX → RegionX) : (s.modRegion c g).answer = s.answer := rfl
@[simp] theorem State.modRegion_freeCtr (s : State) (c : Nat) (g : RegionX → RegionX) : (s.modRegion c g).freeCtr = s.freeCtr := rfl
@[simp] theorem State.modRegion_pending (s : State) (c : Nat) (g : RegionX → RegionX) : (s.modRegion c g).pending = s.pending := rfl
@[simp] theorem State.cell_modRegion (s : State) (c : Nat) (g : RegionX → RegionX) (k : Nat) : (s.modRegion c g).cell k = s.cell k := rfl
@[simp] theorem State.run_modRegion (s : State) (c : Nat) (g : RegionX → RegionX) (k : Nat) : (s.modRegion c g).run k = s.run k := rfl
@[simp] theorem State.block_modRegion (s : State) (c : Nat) (g : RegionX → RegionX) (k : Nat) : (s.modRegion c g).block k = s.block k := rfl
@[simp] theorem State.steward_modRegion (s : State) (c : Nat) (g : RegionX → RegionX) (k : Nat) : (s.modRegion c g).steward k = s.steward k := rfl
@[simp] theorem State.rd_modRegion (s : State) (c : Nat) (g : RegionX → RegionX) (p : Fld) : (s.modRegion c g).rd p = s.rd p := rfl
@[simp] theorem State.readByte_modRegion (s : State) (c : Nat) (g : RegionX → RegionX) (p : Nat) : (s.modRegion c g).readByte p = s.readByte p := rfl
@[simp] theorem State.writeByte_grade (s : State) (a v : Nat) : (s.writeByte a v).grade = s.grade := rfl
@[simp] theorem State.writeByte_regs (s : State) (a v : Nat) : (s.writeByte a v).regs = s.regs := rfl
@[simp] theorem State.writeByte_ecc (s : State) (a v : Nat) : (s.writeByte a v).ecc = s.ecc := rfl
@[simp] theorem State.writeByte_rawChk (s : State) (a v : Nat) : (s.writeByte a v).rawChk = s.rawChk := rfl
@[simp] theorem State.writeByte_cells (s : State) (a v : Nat) : (s.writeByte a v).cells = s.cells := rfl
@[simp] theorem State.writeByte_runs (s : State) (a v : Nat) : (s.writeByte a v).runs = s.runs := rfl
@[simp] theorem State.writeByte_blocks (s : State) (a v : Nat) : (s.writeByte a v).blocks = s.blocks := rfl
@[simp] theorem State.writeByte_regions (s : State) (a v : Nat) : (s.writeByte a v).regions = s.regions := rfl
@[simp] theorem State.writeByte_net (s : State) (a v : Nat) : (s.writeByte a v).net = s.net := rfl
@[simp] theorem State.writeByte_store (s : State) (a v : Nat) : (s.writeByte a v).store = s.store := rfl
@[simp] theorem State.writeByte_cal (s : State) (a v : Nat) : (s.writeByte a v).cal = s.cal := rfl
@[simp] theorem State.writeByte_objor (s : State) (a v : Nat) : (s.writeByte a v).objor = s.objor := rfl
@[simp] theorem State.writeByte_bonds (s : State) (a v : Nat) : (s.writeByte a v).bonds = s.bonds := rfl
@[simp] theorem State.writeByte_bst (s : State) (a v : Nat) : (s.writeByte a v).bst = s.bst := rfl
@[simp] theorem State.writeByte_cvy (s : State) (a v : Nat) : (s.writeByte a v).cvy = s.cvy := rfl
@[simp] theorem State.writeByte_stewards (s : State) (a v : Nat) : (s.writeByte a v).stewards = s.stewards := rfl
@[simp] theorem State.writeByte_evc (s : State) (a v : Nat) : (s.writeByte a v).evc = s.evc := rfl
@[simp] theorem State.writeByte_power (s : State) (a v : Nat) : (s.writeByte a v).power = s.power := rfl
@[simp] theorem State.writeByte_host (s : State) (a v : Nat) : (s.writeByte a v).host = s.host := rfl
@[simp] theorem State.writeByte_gpio (s : State) (a v : Nat) : (s.writeByte a v).gpio = s.gpio := rfl
@[simp] theorem State.writeByte_hub (s : State) (a v : Nat) : (s.writeByte a v).hub = s.hub := rfl
@[simp] theorem State.writeByte_rst (s : State) (a v : Nat) : (s.writeByte a v).rst = s.rst := rfl
@[simp] theorem State.writeByte_esum (s : State) (a v : Nat) : (s.writeByte a v).esum = s.esum := rfl
@[simp] theorem State.writeByte_retired (s : State) (a v : Nat) : (s.writeByte a v).retired = s.retired := rfl
@[simp] theorem State.writeByte_pulses (s : State) (a v : Nat) : (s.writeByte a v).pulses = s.pulses := rfl
@[simp] theorem State.writeByte_faultQ (s : State) (a v : Nat) : (s.writeByte a v).faultQ = s.faultQ := rfl
@[simp] theorem State.writeByte_answer (s : State) (a v : Nat) : (s.writeByte a v).answer = s.answer := rfl
@[simp] theorem State.writeByte_freeCtr (s : State) (a v : Nat) : (s.writeByte a v).freeCtr = s.freeCtr := rfl
@[simp] theorem State.writeByte_pending (s : State) (a v : Nat) : (s.writeByte a v).pending = s.pending := rfl
@[simp] theorem State.cell_writeByte (s : State) (a v : Nat) (k : Nat) : (s.writeByte a v).cell k = s.cell k := rfl
@[simp] theorem State.run_writeByte (s : State) (a v : Nat) (k : Nat) : (s.writeByte a v).run k = s.run k := rfl
@[simp] theorem State.block_writeByte (s : State) (a v : Nat) (k : Nat) : (s.writeByte a v).block k = s.block k := rfl
@[simp] theorem State.region_writeByte (s : State) (a v : Nat) (k : Nat) : (s.writeByte a v).region k = s.region k := rfl
@[simp] theorem State.steward_writeByte (s : State) (a v : Nat) (k : Nat) : (s.writeByte a v).steward k = s.steward k := rfl
@[simp] theorem State.rd_writeByte (s : State) (a v : Nat) (p : Fld) : (s.writeByte a v).rd p = s.rd p := rfl
@[simp] theorem State.pulse_grade (s : State) (n : Nat) : (s.pulse n).grade = s.grade := rfl
@[simp] theorem State.pulse_regs (s : State) (n : Nat) : (s.pulse n).regs = s.regs := rfl
@[simp] theorem State.pulse_mem (s : State) (n : Nat) : (s.pulse n).mem = s.mem := rfl
@[simp] theorem State.pulse_ecc (s : State) (n : Nat) : (s.pulse n).ecc = s.ecc := rfl
@[simp] theorem State.pulse_rawChk (s : State) (n : Nat) : (s.pulse n).rawChk = s.rawChk := rfl
@[simp] theorem State.pulse_cells (s : State) (n : Nat) : (s.pulse n).cells = s.cells := rfl
@[simp] theorem State.pulse_runs (s : State) (n : Nat) : (s.pulse n).runs = s.runs := rfl
@[simp] theorem State.pulse_blocks (s : State) (n : Nat) : (s.pulse n).blocks = s.blocks := rfl
@[simp] theorem State.pulse_regions (s : State) (n : Nat) : (s.pulse n).regions = s.regions := rfl
@[simp] theorem State.pulse_net (s : State) (n : Nat) : (s.pulse n).net = s.net := rfl
@[simp] theorem State.pulse_store (s : State) (n : Nat) : (s.pulse n).store = s.store := rfl
@[simp] theorem State.pulse_cal (s : State) (n : Nat) : (s.pulse n).cal = s.cal := rfl
@[simp] theorem State.pulse_objor (s : State) (n : Nat) : (s.pulse n).objor = s.objor := rfl
@[simp] theorem State.pulse_bonds (s : State) (n : Nat) : (s.pulse n).bonds = s.bonds := rfl
@[simp] theorem State.pulse_bst (s : State) (n : Nat) : (s.pulse n).bst = s.bst := rfl
@[simp] theorem State.pulse_cvy (s : State) (n : Nat) : (s.pulse n).cvy = s.cvy := rfl
@[simp] theorem State.pulse_stewards (s : State) (n : Nat) : (s.pulse n).stewards = s.stewards := rfl
@[simp] theorem State.pulse_evc (s : State) (n : Nat) : (s.pulse n).evc = s.evc := rfl
@[simp] theorem State.pulse_power (s : State) (n : Nat) : (s.pulse n).power = s.power := rfl
@[simp] theorem State.pulse_host (s : State) (n : Nat) : (s.pulse n).host = s.host := rfl
@[simp] theorem State.pulse_gpio (s : State) (n : Nat) : (s.pulse n).gpio = s.gpio := rfl
@[simp] theorem State.pulse_hub (s : State) (n : Nat) : (s.pulse n).hub = s.hub := rfl
@[simp] theorem State.pulse_rst (s : State) (n : Nat) : (s.pulse n).rst = s.rst := rfl
@[simp] theorem State.pulse_esum (s : State) (n : Nat) : (s.pulse n).esum = s.esum := rfl
@[simp] theorem State.pulse_retired (s : State) (n : Nat) : (s.pulse n).retired = s.retired := rfl
@[simp] theorem State.pulse_faultQ (s : State) (n : Nat) : (s.pulse n).faultQ = s.faultQ := rfl
@[simp] theorem State.pulse_answer (s : State) (n : Nat) : (s.pulse n).answer = s.answer := rfl
@[simp] theorem State.pulse_freeCtr (s : State) (n : Nat) : (s.pulse n).freeCtr = s.freeCtr := rfl
@[simp] theorem State.pulse_pending (s : State) (n : Nat) : (s.pulse n).pending = s.pending := rfl
@[simp] theorem State.cell_pulse (s : State) (n : Nat) (k : Nat) : (s.pulse n).cell k = s.cell k := rfl
@[simp] theorem State.run_pulse (s : State) (n : Nat) (k : Nat) : (s.pulse n).run k = s.run k := rfl
@[simp] theorem State.block_pulse (s : State) (n : Nat) (k : Nat) : (s.pulse n).block k = s.block k := rfl
@[simp] theorem State.region_pulse (s : State) (n : Nat) (k : Nat) : (s.pulse n).region k = s.region k := rfl
@[simp] theorem State.steward_pulse (s : State) (n : Nat) (k : Nat) : (s.pulse n).steward k = s.steward k := rfl
@[simp] theorem State.rd_pulse (s : State) (n : Nat) (p : Fld) : (s.pulse n).rd p = s.rd p := rfl
@[simp] theorem State.readByte_pulse (s : State) (n : Nat) (p : Nat) : (s.pulse n).readByte p = s.readByte p := rfl
@[simp] theorem State.report_grade (s : State) (a b : Nat) : (s.report a b).grade = s.grade := rfl
@[simp] theorem State.report_regs (s : State) (a b : Nat) : (s.report a b).regs = s.regs := rfl
@[simp] theorem State.report_mem (s : State) (a b : Nat) : (s.report a b).mem = s.mem := rfl
@[simp] theorem State.report_ecc (s : State) (a b : Nat) : (s.report a b).ecc = s.ecc := rfl
@[simp] theorem State.report_rawChk (s : State) (a b : Nat) : (s.report a b).rawChk = s.rawChk := rfl
@[simp] theorem State.report_cells (s : State) (a b : Nat) : (s.report a b).cells = s.cells := rfl
@[simp] theorem State.report_runs (s : State) (a b : Nat) : (s.report a b).runs = s.runs := rfl
@[simp] theorem State.report_blocks (s : State) (a b : Nat) : (s.report a b).blocks = s.blocks := rfl
@[simp] theorem State.report_regions (s : State) (a b : Nat) : (s.report a b).regions = s.regions := rfl
@[simp] theorem State.report_net (s : State) (a b : Nat) : (s.report a b).net = s.net := rfl
@[simp] theorem State.report_store (s : State) (a b : Nat) : (s.report a b).store = s.store := rfl
@[simp] theorem State.report_cal (s : State) (a b : Nat) : (s.report a b).cal = s.cal := rfl
@[simp] theorem State.report_objor (s : State) (a b : Nat) : (s.report a b).objor = s.objor := rfl
@[simp] theorem State.report_bonds (s : State) (a b : Nat) : (s.report a b).bonds = s.bonds := rfl
@[simp] theorem State.report_bst (s : State) (a b : Nat) : (s.report a b).bst = s.bst := rfl
@[simp] theorem State.report_cvy (s : State) (a b : Nat) : (s.report a b).cvy = s.cvy := rfl
@[simp] theorem State.report_stewards (s : State) (a b : Nat) : (s.report a b).stewards = s.stewards := rfl
@[simp] theorem State.report_evc (s : State) (a b : Nat) : (s.report a b).evc = s.evc := rfl
@[simp] theorem State.report_power (s : State) (a b : Nat) : (s.report a b).power = s.power := rfl
@[simp] theorem State.report_host (s : State) (a b : Nat) : (s.report a b).host = s.host := rfl
@[simp] theorem State.report_gpio (s : State) (a b : Nat) : (s.report a b).gpio = s.gpio := rfl
@[simp] theorem State.report_hub (s : State) (a b : Nat) : (s.report a b).hub = s.hub := rfl
@[simp] theorem State.report_rst (s : State) (a b : Nat) : (s.report a b).rst = s.rst := rfl
@[simp] theorem State.report_esum (s : State) (a b : Nat) : (s.report a b).esum = s.esum := rfl
@[simp] theorem State.report_retired (s : State) (a b : Nat) : (s.report a b).retired = s.retired := rfl
@[simp] theorem State.report_pulses (s : State) (a b : Nat) : (s.report a b).pulses = s.pulses := rfl
@[simp] theorem State.report_answer (s : State) (a b : Nat) : (s.report a b).answer = s.answer := rfl
@[simp] theorem State.report_freeCtr (s : State) (a b : Nat) : (s.report a b).freeCtr = s.freeCtr := rfl
@[simp] theorem State.report_pending (s : State) (a b : Nat) : (s.report a b).pending = s.pending := rfl
@[simp] theorem State.cell_report (s : State) (a b : Nat) (k : Nat) : (s.report a b).cell k = s.cell k := rfl
@[simp] theorem State.run_report (s : State) (a b : Nat) (k : Nat) : (s.report a b).run k = s.run k := rfl
@[simp] theorem State.block_report (s : State) (a b : Nat) (k : Nat) : (s.report a b).block k = s.block k := rfl
@[simp] theorem State.region_report (s : State) (a b : Nat) (k : Nat) : (s.report a b).region k = s.region k := rfl
@[simp] theorem State.steward_report (s : State) (a b : Nat) (k : Nat) : (s.report a b).steward k = s.steward k := rfl
@[simp] theorem State.rd_report (s : State) (a b : Nat) (p : Fld) : (s.report a b).rd p = s.rd p := rfl
@[simp] theorem State.readByte_report (s : State) (a b : Nat) (p : Nat) : (s.report a b).readByte p = s.readByte p := rfl
@[simp] theorem State.drawn_grade (s : State) : s.drawn.grade = s.grade := rfl
@[simp] theorem State.drawn_regs (s : State) : s.drawn.regs = s.regs := rfl
@[simp] theorem State.drawn_mem (s : State) : s.drawn.mem = s.mem := rfl
@[simp] theorem State.drawn_ecc (s : State) : s.drawn.ecc = s.ecc := rfl
@[simp] theorem State.drawn_rawChk (s : State) : s.drawn.rawChk = s.rawChk := rfl
@[simp] theorem State.drawn_cells (s : State) : s.drawn.cells = s.cells := rfl
@[simp] theorem State.drawn_runs (s : State) : s.drawn.runs = s.runs := rfl
@[simp] theorem State.drawn_blocks (s : State) : s.drawn.blocks = s.blocks := rfl
@[simp] theorem State.drawn_regions (s : State) : s.drawn.regions = s.regions := rfl
@[simp] theorem State.drawn_net (s : State) : s.drawn.net = s.net := rfl
@[simp] theorem State.drawn_store (s : State) : s.drawn.store = s.store := rfl
@[simp] theorem State.drawn_cal (s : State) : s.drawn.cal = s.cal := rfl
@[simp] theorem State.drawn_objor (s : State) : s.drawn.objor = s.objor := rfl
@[simp] theorem State.drawn_bonds (s : State) : s.drawn.bonds = s.bonds := rfl
@[simp] theorem State.drawn_bst (s : State) : s.drawn.bst = s.bst := rfl
@[simp] theorem State.drawn_cvy (s : State) : s.drawn.cvy = s.cvy := rfl
@[simp] theorem State.drawn_stewards (s : State) : s.drawn.stewards = s.stewards := rfl
@[simp] theorem State.drawn_evc (s : State) : s.drawn.evc = s.evc := rfl
@[simp] theorem State.drawn_power (s : State) : s.drawn.power = s.power := rfl
@[simp] theorem State.drawn_host (s : State) : s.drawn.host = s.host := rfl
@[simp] theorem State.drawn_gpio (s : State) : s.drawn.gpio = s.gpio := rfl
@[simp] theorem State.drawn_hub (s : State) : s.drawn.hub = s.hub := rfl
@[simp] theorem State.drawn_rst (s : State) : s.drawn.rst = s.rst := rfl
@[simp] theorem State.drawn_esum (s : State) : s.drawn.esum = s.esum := rfl
@[simp] theorem State.drawn_retired (s : State) : s.drawn.retired = s.retired := rfl
@[simp] theorem State.drawn_pulses (s : State) : s.drawn.pulses = s.pulses := rfl
@[simp] theorem State.drawn_faultQ (s : State) : s.drawn.faultQ = s.faultQ := rfl
@[simp] theorem State.drawn_answer (s : State) : s.drawn.answer = s.answer := rfl
@[simp] theorem State.drawn_pending (s : State) : s.drawn.pending = s.pending := rfl
@[simp] theorem State.cell_drawn (s : State) (k : Nat) : s.drawn.cell k = s.cell k := rfl
@[simp] theorem State.run_drawn (s : State) (k : Nat) : s.drawn.run k = s.run k := rfl
@[simp] theorem State.block_drawn (s : State) (k : Nat) : s.drawn.block k = s.block k := rfl
@[simp] theorem State.region_drawn (s : State) (k : Nat) : s.drawn.region k = s.region k := rfl
@[simp] theorem State.steward_drawn (s : State) (k : Nat) : s.drawn.steward k = s.steward k := rfl
@[simp] theorem State.rd_drawn (s : State)  (p : Fld) : (s.drawn).rd p = s.rd p := rfl
@[simp] theorem State.readByte_drawn (s : State)  (p : Nat) : (s.drawn ).readByte p = s.readByte p := rfl

/-! ### Memory -/

/-- The byte written is read. -/
@[simp] theorem State.readByte_writeByte_self (s : State) (a v : Nat) : (s.writeByte a v).readByte a = v % 256 := by
  unfold State.readByte State.writeByte
  simp only [Tab.get_set_self, BitVec.toNat_ofNat]

/-- A byte write leaves every other byte alone. -/
theorem State.readByte_writeByte_ne (s : State) {a b : Nat} (v : Nat) (h : a ≠ b) :
    (s.writeByte a v).readByte b = s.readByte b := by
  unfold State.readByte State.writeByte
  simp only [Tab.get_set_ne _ _ _ h]

/-- Writing bytes leaves the bytes outside them alone. -/
theorem State.readByte_writeBytes_out (s : State) (a : Nat) (l : List Nat) {b : Nat} (h : b < a ∨ a + l.length ≤ b) :
    (s.writeBytes a l).readByte b = s.readByte b := by
  induction l generalizing s a with
  | nil => rfl
  | cons v l ih =>
    rw [List.length_cons] at h
    rw [State.writeBytes, ih _ _ (by omega), State.readByte_writeByte_ne _ _ (by omega)]

/-- The bytes written are read. -/
theorem State.readBytes_writeBytes (s : State) (a : Nat) (l : List Nat) :
    (s.writeBytes a l).readBytes a l.length = l.map (· % 256) := by
  induction l generalizing s a with
  | nil => rfl
  | cons v l ih =>
    rw [List.length_cons, State.readBytes, State.writeBytes, ih, List.map_cons,
      State.readByte_writeBytes_out _ _ _ (by omega), State.readByte_writeByte_self]

theorem toBytes_length (n v : Nat) : (toBytes n v).length = n := by
  induction n generalizing v with
  | zero => rfl
  | succ n ih => rw [toBytes, List.length_cons, ih]

theorem ofBytes_toBytes (n v : Nat) : ofBytes ((toBytes n v).map (· % 256)) = v % 256 ^ n := by
  induction n generalizing v with
  | zero => rw [Nat.pow_zero, Nat.mod_one]; rfl
  | succ n ih =>
    rw [toBytes, List.map_cons, ofBytes, ih, Nat.mod_mod, Nat.mod_mod, Nat.pow_succ', Nat.mod_mul]

/-- R3, R4: a word written is read, cut to 72 bits. -/
theorem State.readWord_writeWord_self (s : State) (a v : Nat) : (s.writeWord a v).readWord a = v % 2 ^ 72 := by
  have h : (s.writeWord a v).readBytes a 9 = (s.writeBytes a (toBytes 9 v)).readBytes a 9 := rfl
  have k := State.readBytes_writeBytes s a (toBytes 9 v)
  rw [toBytes_length] at k
  rw [State.readWord, h, k, ofBytes_toBytes]
  norm_num

/-- A word write leaves every byte outside its nine bytes alone. -/
theorem State.readByte_writeWord_out (s : State) (a v : Nat) {b : Nat} (h : b < a ∨ a + 9 ≤ b) :
    (s.writeWord a v).readByte b = s.readByte b :=
  State.readByte_writeBytes_out s a (toBytes 9 v) (by rwa [toBytes_length])

end Sys2Proof.Machine
end

