-- ==== Sys2Proof/Laws/Access.lean ====
section
/-! SUPPORT. What a master's access does in a network that holds nothing else (R302 to R306): the request passes its interface,
reaches its target and is answered, and the state it leaves differs in toll counters, rounds of arbitration and the draws of
free values alone, and in what the target stored. -/

namespace Sys2Proof.Machine

/-- The address range of the toll counters (R309), as keys. -/
def isToll (f : Fld) : Prop := 64 * 0x610000 ≤ f.key ∧ f.key < 64 * 0x614400

/-- `u` is `s` but for toll counters, memory with its good words, rounds of arbitration and draws of free values. -/
structure Like (s u : State) : Prop where
  all : u = State.mk s.grade u.regs u.mem u.ecc u.rawChk s.cells s.runs s.blocks s.regions
    { s.net with rounds := u.net.rounds, turns := u.net.turns } s.store s.cal s.objor s.bonds s.bst s.cvy s.stewards s.evc s.power
    s.host s.gpio s.hub s.rst s.esum s.retired s.pulses s.faultQ s.answer u.freeCtr s.pending
  rd : ∀ f, ¬ isToll f → u.rd f = s.rd f
  ecc : ∀ a, Tab.get 0 s.ecc a = 0 → Tab.get 0 u.ecc a = 0

/-- The network and the queues behind it hold no request. -/
structure State.Quiet (s : State) : Prop where
  frozen : s.frozen = false
  flight : s.net.flight = []
  held : s.net.held = []
  rsps : s.net.rsps = []
  lost : s.net.lost = []
  gone : s.net.gone = []
  waiting : s.net.waiting = []
  dead : s.net.dead = []
  orphans : s.net.orphans = []
  store : s.store.waiting = []
  awake : s.power.sleep = 0
  recfg : s.rd NOC.RECFG_STATE = 0

theorem Like.refl (s : State) : Like s s := ⟨rfl, fun _ _ => rfl, fun _ h => h⟩

theorem Like.trans {a b c : State} (h : Like a b) (k : Like b c) : Like a c := by
  refine ⟨?_, fun f hf => (k.rd f hf).trans (h.rd f hf), fun x hx => k.ecc x (h.ecc x hx)⟩
  have h1 := h.all; have k1 := k.all
  rw [h1] at k1
  exact k1

theorem Like.flag {s u : State} (h : Like s u) {f : Fld} (hf : ¬ isToll f) : u.flag f = s.flag f := by
  simp [State.flag, h.rd f hf]

theorem like_wr (s : State) {f : Fld} (v : Nat) (h : isToll f) : Like s (s.wr f v) :=
  ⟨rfl, fun g hg => State.rd_wr_ne s v fun e => hg (by unfold isToll at *; rw [← e]; exact h), fun _ h => h⟩

theorem like_count (s : State) {f : Fld} (n : Nat) (h : isToll f) : Like s (s.count f n) := like_wr s _ h

theorem toll_keys (i k : Nat) (hi : i < 68) (hk : k < 16) : isToll (NOC.TOLL_A_BYTES i) ∧ isToll (NOC.TOLL_B_PACKETS i) ∧
    isToll (NOC.TOLL_C_MAXLAT i) ∧ isToll (NOC.TOLL_H_HIST i k) ∧ isToll (NOC.TOLL_D_NO_ROUTE i) ∧ isToll (NOC.TOLL_D_FAULT i) := by
  simp only [isToll, Fld.key]; omega

theorem tollBin_lt (ns : Nat) : tollBin ns < 16 := by
  unfold tollBin
  split
  · omega
  · split
    · omega
    · cases h : (List.range 14).find? fun k => decide (ns < 8 * 2 ^ (k + 2)) with
      | none => simp
      | some k => have := List.mem_range.mp (List.mem_of_find?_eq_some h); simp; omega

theorem like_tollIssue (s : State) {q : Req} (h : q.init < 68) : Like s (s.tollIssue q) :=
  (like_count _ _ (toll_keys q.init 0 h (by omega)).2.1).trans (like_count _ _ (toll_keys q.init 0 h (by omega)).1)

theorem like_tollResponse (s : State) {q : Req} (n st lat : Nat) (h : q.init < 68) : Like s (s.tollResponse q n st lat) := by
  have k := toll_keys q.init (tollBin (lat * 5 / 2)) h (tollBin_lt _)
  unfold State.tollResponse
  extract_lets i ns s1
  have h1 : Like s s1 := ((like_count _ _ k.1).trans (like_wr _ _ k.2.2.1)).trans (like_count _ _ k.2.2.2.1)
  split
  · exact h1.trans (like_count _ _ k.2.2.2.2.1)
  · split
    · exact h1.trans (like_count _ _ k.2.2.2.2.2)
    · exact h1

/-! ### Arbitration of one packet -/

/-- R306: a packet that is alone in the network passes its next output. -/
theorem passOne_alone (s : State) (q : Req) (o p : Nat) (hf : s.net.flight = [q]) (hi : q.init < 68)
    (hg : q.toGo.head? = some (o, p)) (hp : p ∈ outPorts o) :
    ∃ r u, s.passOne o = { s with net := { s.net with flight := [{ q with hop := q.hop + 1 }], rounds := r, turns := u } } := by
  have hq : ∀ x, s.queueAt o x = if x = p then [q] else [] := by
    intro x
    simp only [State.queueAt, hf, List.filter_cons, hg, List.filter_nil]
    by_cases h : x = p
    · simp [h]
    · have : ¬ p = x := fun e => h e.symm
      simp [h, this]
  have hready : ∀ x, (!(s.queueAt o x).isEmpty) = decide (x = p) := by
    intro x; rw [hq x]; by_cases h : x = p <;> simp [h]
  have hn : ∃ r, s.nextRound o = some r ∧ r.port = p := by
    unfold State.nextRound
    simp only [hready]
    split
    · next x hx =>
      refine ⟨_, rfl, ?_⟩
      have := List.find?_some hx
      simp at this
      exact this.1
    · next hx =>
      cases hz : (outPorts o).find? (fun x => decide (x = p)) with
      | none =>
        have := List.find?_eq_none.mp hz p hp
        simp at this
      | some y =>
        refine ⟨_, rfl, ?_⟩
        have := List.find?_some hz
        simpa using this
  obtain ⟨r, hr, hrp⟩ := hn
  unfold State.passOne
  rw [hr]
  simp only [hrp, hq p, if_true, List.head?_cons]
  have hturn : ∀ t : Turn, ∃ w, t.next [q] = some w ∧ w.init = q.init := by
    intro t
    unfold Turn.next
    extract_lets here is
    have hsel : ∃ w, (((List.range 68).filter fun i => decide (t.init < i) && is.contains i) ++
        (List.range 68).filter fun i => is.contains i).head?.map (fun i => (⟨i, 1⟩ : Turn)) = some w ∧ w.init = q.init := by
      cases hl : (((List.range 68).filter fun i => decide (t.init < i) && is.contains i) ++
        (List.range 68).filter fun i => is.contains i) with
      | nil =>
        have h2 := (List.append_eq_nil_iff.mp hl).2
        rw [List.filter_eq_nil_iff] at h2
        exact absurd (by simp [is]) (h2 q.init (List.mem_range.mpr hi))
      | cons i rest =>
        refine ⟨_, rfl, ?_⟩
        have hm : i ∈ (((List.range 68).filter fun i => decide (t.init < i) && is.contains i) ++
          (List.range 68).filter fun i => is.contains i) := by rw [hl]; exact List.mem_cons_self ..
        rw [List.mem_append, List.mem_filter, List.mem_filter] at hm
        rcases hm with h | h
        · have := h.2; simp [is] at this; exact this.2
        · have := h.2; simpa [is] using this
    by_cases ht : (q.init == t.init) = true
    · have : here = some q := by simp [here, ht]
      rw [this]
      split
      · exact ⟨_, rfl, (beq_iff_eq.mp ht).symm⟩
      · exact hsel
    · have : here = none := by simp [here, ht]
      rw [this]
      exact hsel
  cases hs : sharedPort o p with
  | false =>
    simp only [Bool.false_eq_true, if_false, List.head?_cons, List.erase_cons_head, hf, List.nil_append]
    exact ⟨_, _, rfl⟩
  | true =>
    obtain ⟨w, hw, hwi⟩ := hturn (Tab.get ⟨0, 0⟩ s.net.turns (16 * o + p))
    simp only [if_true, hw, List.find?_cons, hwi, BEq.rfl, hf, List.erase_cons_head, List.nil_append]
    exact ⟨_, _, rfl⟩

/-- The request behind a packet, wherever it is. -/
theorem same_hop (q : Req) (n k : Nat) : ({ q with hop := n, tariff := k } : Req).same q = true := by simp [Req.same]

theorem toGo_next (q : Req) : ({ q with hop := q.hop + 1 } : Req).toGo = q.toGo.tail := by
  have : ({ q with hop := q.hop + 1 } : Req).target = q.target := rfl
  simp only [Req.toGo, this, List.tail_drop]

/-- R306: a packet that is alone in the network arrives. -/
theorem travel_alone (n : Nat) : ∀ (s : State) (q : Req), s.net.flight = [q] → q.init < 68 →
    (∀ e ∈ q.toGo, e.2 ∈ outPorts e.1) → q.toGo.length ≤ n →
    ∃ r u, s.travel q.init q.tag n =
      { s with net := { s.net with flight := [{ q with hop := q.hop + q.toGo.length }], rounds := r, turns := u } } := by
  induction n with
  | zero =>
    intro s q hf _ _ hl
    have : q.toGo = [] := List.eq_nil_of_length_eq_zero (by omega)
    refine ⟨s.net.rounds, s.net.turns, ?_⟩
    simp only [State.travel, this, List.length_nil, Nat.add_zero, ← hf]
  | succ n ih =>
    intro s q hf hi hp hl
    have hfind : s.net.flight.find? (·.is q.init q.tag) = some q := by simp [hf, Req.is]
    cases hg : q.toGo with
    | nil =>
      refine ⟨s.net.rounds, s.net.turns, ?_⟩
      simp only [State.travel, hfind, Option.bind_some, hg, List.head?_nil, List.length_nil, Nat.add_zero, ← hf]
    | cons e rest =>
      obtain ⟨o, p⟩ := e
      obtain ⟨r, u, h⟩ := passOne_alone s q o p hf hi (by simp [hg]) (hp (o, p) (by simp [hg]))
      have hn : ({ q with hop := q.hop + 1 } : Req).toGo = rest := by rw [toGo_next, hg]; rfl
      obtain ⟨r', u', h'⟩ := ih (s.passOne o) { q with hop := q.hop + 1 } (by rw [h]) hi
        (fun e he => hp e (by rw [hg]; exact List.mem_cons_of_mem _ (hn ▸ he))) (by rw [hn]; simp [hg] at hl; omega)
      refine ⟨r', u', ?_⟩
      have e1 : q.hop + 1 + rest.length = q.hop + (rest.length + 1) := by omega
      simp only [State.travel, hfind, Option.bind_some, hg, List.head?_cons, List.length_cons]
      rw [h', hn, h]
      simp only [e1]

/-! ### An access of a quiet network -/

theorem State.Quiet.outstanding {s : State} (h : s.Quiet) : s.outstanding = [] := by
  simp [State.outstanding, h.flight, h.held, h.rsps, h.lost, h.store]

/-- The path of a request that leaves its interface. -/
structure Req.Fresh (q : Req) : Prop where
  init : q.init < 68
  hop : q.hop = 0
  short : q.toGo.length ≤ 3
  ports : ∀ e ∈ q.toGo, e.2 ∈ outPorts e.1

/-- R302 to R306: in a quiet network, a request that passes its interface is what its target serves. -/
theorem access_alone (s : State) (serve : State → Req → State) (q : Req) (lat : Nat) (h : s.Quiet) (hf : q.Fresh)
    (hc : s.check q = .pass) (hr : s.routed q.target = true) :
    ∃ t n k, s.accessWith serve q lat = (serve t { q with tariff := n, hop := k }).collect q lat ∧ Like s t ∧ t.net.rsps = [] ∧
      t.net.flight = [] ∧ t.mem = s.mem ∧ t.ecc = s.ecc ∧ t.rawChk = s.rawChk := by
  have hw : s.waitsNot q = s := by
    simp [State.waitsNot, h.waiting]
  have hb : ∀ n k, s.routeHeldBack { q with tariff := n, hop := k } = false := by
    intro n k; simp [State.routeHeldBack, h.recfg]
  have hti := like_tollIssue s (q := { q with tariff := s.tariffOf q.init, hop := 0 }) hf.init
  have hl : s.launch q = State.mk s.grade (s.launch q).regs s.mem s.ecc s.rawChk s.cells s.runs s.blocks s.regions
      { s.net with flight := [{ q with tariff := s.tariffOf q.init, hop := 0 }] } s.store s.cal s.objor s.bonds s.bst s.cvy s.stewards s.evc
      s.power s.host s.gpio s.hub s.rst s.esum s.retired s.pulses s.faultQ s.answer s.freeCtr s.pending := by
    have hf0 := h.flight
    have hi : s.endIdle = s := by simp [State.endIdle, h.awake]
    unfold State.launch
    simp only [hi, hb, Bool.false_eq_true, if_false]
    rw [if_pos (by
      have := hti.rd NOC.RT_ACT_V (by simp only [isToll, Fld.key]; omega)
      simp only [State.routed] at hr ⊢
      exact hr)]
    simp [State.tollIssue, State.count, State.wr, hf0]
  let q1 : Req := { q with tariff := s.tariffOf q.init, hop := 0 }
  have hgo : q1.toGo = q.toGo := by simp only [Req.toGo, hf.hop]; rfl
  have hfl : (s.launch q).net.flight = [q1] := by rw [hl]
  obtain ⟨r, w, hv⟩ := travel_alone 3 (s.launch q) q1 hfl hf.init (fun e he => hf.ports e (hgo ▸ he)) (hgo ▸ hf.short)
  let t : State := { s.launch q with net := { (s.launch q).net with flight := [], rounds := r, turns := w } }
  refine ⟨t, s.tariffOf q.init, q1.hop + q1.toGo.length, ?_, ?_, ?_, rfl, ?_, ?_, ?_⟩
  · have hout := h.outstanding
    have hre : (s.launch q).reach q.init q.tag =
        { s.launch q with net := { (s.launch q).net with flight := [{ q1 with hop := q1.hop + q1.toGo.length }], rounds := r, turns := w } } := by
      have : 3 * (s.launch q).net.flight.length = 3 := by rw [hfl]; rfl
      unfold State.reach
      rw [this]
      exact hv
    have hsame : ({ q1 with hop := q1.hop + q1.toGo.length } : Req).same q = true := by simp [Req.same, q1]
    unfold State.accessWith
    rw [h.frozen, hout]
    simp only [Bool.false_eq_true, if_false, List.any_nil, hc, hw, hre, List.find?_cons, hsame, List.erase_cons_head]
    rfl
  · refine ⟨?_, fun f hf' => ?_, fun a ha => ?_⟩
    · simp only [t]
      rw [hl, ← h.flight]
    · have hi : s.endIdle = s := by simp [State.endIdle, h.awake]
      have e : (s.launch q).regs = (s.tollIssue { q with tariff := s.tariffOf q.init, hop := 0 }).regs := by
        unfold State.launch
        simp only [hi, hb, Bool.false_eq_true, if_false]
        split <;> rfl
      have := hti.rd f hf'
      simp only [State.rd, t, e] at this ⊢
      exact this
    · simp only [t]; rw [hl]; exact ha
  · simp only [t]; rw [hl]; exact h.rsps
  · simp only [t]; rw [hl]
  · simp only [t]; rw [hl]
  · simp only [t]; rw [hl]

/-- R301: the one response of the network is taken. -/
theorem collect_alone (t : State) (q e : Req) (st lat : Nat) (d : List Nat) (hr : t.net.rsps = [⟨e, st, d⟩]) (hs : e.same q = true)
    (hi : e.init < 68) (hd : t.net.dead = []) (ho : t.net.orphans = []) :
    ∃ u, t.collect q lat = .ok (st, d, u) ∧ Like { t with net := { t.net with rsps := [] } } u ∧ u.mem = t.mem ∧ u.rawChk = t.rawChk := by
  have h1 : t.timedOut e = false := by simp [State.timedOut, hd]
  have h2 : (t.net.orphans.any e.same) = false := by simp [ho]
  have h3 : t.mayReturn ⟨e, st, d⟩ = true := by simp [State.mayReturn, hr]
  refine ⟨_, ?_, like_tollResponse { t with net := { t.net with rsps := [] } } (q := e) d.length st lat hi, ?_, ?_⟩
  · simp only [State.collect, hr, List.find?_cons, hs, h3, State.arrived, h1, ho, List.any_nil, List.erase_cons_head,
      Bool.not_true, Bool.false_eq_true, if_false, if_true]
  · simp only [State.tollResponse]; split
    · rfl
    · split <;> rfl
  · simp only [State.tollResponse]; split
    · rfl
    · split <;> rfl

/-! ### Memories that answer at once -/

/-- The target is steward memory or a depot that shows corrected words. -/
def State.Plain (s : State) (t : Target) : Prop := (t = .stewardMem ∨ ∃ b, t = .depot b) ∧ s.rawMode t = false

/-- R284: words without an error are read as they stand. -/
theorem errorsOf_clean (s : State) (q : Req) (dev : Nat) (hp : q.target = .stewardMem ∨ ∃ b, q.target = .depot b) (as : List Nat)
    (h : ∀ a ∈ as, Tab.get 0 s.ecc a = 0) :
    ∃ c, s.errorsOf q 0 dev as = { s with ecc := c } ∧ ∀ x, Tab.get 0 c x = Tab.get 0 s.ecc x := by
  induction as generalizing s with
  | nil => exact ⟨s.ecc, rfl, fun _ => rfl⟩
  | cons a as ih =>
    have ha := h a (List.mem_cons_self ..)
    have hc : ∀ x, Tab.get 0 (Tab.set 0 s.ecc a 0) x = Tab.get 0 s.ecc x := by
      intro x; rw [Tab.get_set]; split
      · next e => rw [← e, ha]
      · rfl
    have he : s.eccAfter a 0 = { s with ecc := Tab.set 0 s.ecc a 0 } := by simp [State.eccAfter, State.eccOf, ha]
    have h0 : s.eccOf a 0 = 0 := by simp [State.eccOf, ha]
    obtain ⟨c, h1, h2⟩ := ih { s with ecc := Tab.set 0 s.ecc a 0 } (fun x hx => (hc x).trans (h x (List.mem_cons_of_mem _ hx)))
    refine ⟨c, ?_, fun x => (h2 x).trans (hc x)⟩
    rcases hp with hp | ⟨b, hp⟩
    · simp only [State.errorsOf, hp, State.smErrors, h0, he, if_true, h1]
    · simp only [State.errorsOf, hp, State.depotErrors, h0, he, if_true, h1]

theorem like_ecc {s : State} {c : Tab Nat} (h : ∀ x, Tab.get 0 c x = Tab.get 0 s.ecc x) : Like s { s with ecc := c } :=
  ⟨rfl, fun _ _ => rfl, fun a ha => (h a).trans ha⟩

theorem like_writeBytes (s : State) (a : Nat) (l : List Nat) : ∃ m, s.writeBytes a l = { s with mem := m } := by
  induction l generalizing s a with
  | nil => exact ⟨s.mem, rfl⟩
  | cons x l ih =>
    obtain ⟨m, h⟩ := ih (s.writeByte a x) (a + 1)
    exact ⟨m, by unfold State.writeBytes; rw [h]; rfl⟩

theorem get_set_zero {m : Tab Nat} {a x : Nat} (h : Tab.get 0 m x = 0) : Tab.get 0 (Tab.set 0 m a 0) x = 0 := by
  rw [Tab.get_set]; split
  · rfl
  · exact h

theorem like_writeWord (s : State) (a v : Nat) : Like s (s.writeWord a v) := by
  obtain ⟨m, h⟩ := like_writeBytes s a (toBytes 9 v)
  unfold State.writeWord
  rw [h]
  exact ⟨rfl, fun _ _ => rfl, fun x hx => get_set_zero hx⟩

theorem like_write64 (s : State) (a v : Nat) : Like s (s.write64 a v) := by
  obtain ⟨m, h⟩ := like_writeBytes s a (toBytes 8 v)
  unfold State.write64
  rw [h]
  exact ⟨rfl, fun _ _ => rfl, fun x hx => get_set_zero hx⟩

theorem like_mergeWord (s : State) (a en v : Nat) : Like s (s.mergeWord a en v) := by
  unfold State.mergeWord
  split
  · exact like_writeWord ..
  · split
    · exact Like.refl s
    · exact like_writeWord ..

theorem like_foldl {α : Type} {f : State → α → State} (hf : ∀ t x, Like t (f t x)) (l : List α) (s : State) : Like s (l.foldl f s) := by
  induction l generalizing s with
  | nil => exact Like.refl s
  | cons x l ih => exact (hf s x).trans (ih _)

theorem like_ite {s a b : State} {c : Prop} [Decidable c] (ha : Like s a) (hb : Like s b) : Like s (if c then a else b) := by
  split <;> assumption

/-- The response joins an empty network. -/
theorem respond_alone (t : State) (q : Req) (st : Nat) (d : List Nat) (hr : t.net.rsps = []) (hk : q.kind ≠ .rdp) :
    (t.respond q st d) = { t with net := { t.net with rsps := [⟨q, st, d⟩] } } := by
  simp [State.respond, hr, hk]

/-- R274: what master 61 asks of a memory. -/
def ownServe (t : State) (e : Req) : State := if e.access = 1 then t.storeMemory e 0 0 else t.serveMemory e 0 0

theorem Like.rdp {s u : State} (h : Like s u) (hr : s.net.rsps = []) : u.net.rsps = [] := by rw [h.all]; exact hr

/-- R300: a plain memory without errors answers a read with its words. -/
theorem plain_read (t : State) (q : Req) (hp : t.Plain q.target) (hk : q.kind = .rd) (hf : q.fetch = false) (hr : t.net.rsps = [])
    (he : ∀ a ∈ q.slots, Tab.get 0 t.ecc a = 0) :
    ∃ c, ownServe t q = { t with ecc := c, net := { t.net with rsps := [⟨q, 0, q.slots.map (t.wordView q)⟩] } } ∧
      ∀ x, Tab.get 0 c x = Tab.get 0 t.ecc x := by
  have hacc : q.access = 0 := by simp [Req.access, hk, hf, b2n]
  obtain ⟨c, hc, h0⟩ := errorsOf_clean t q 0 hp.1 q.slots he
  refine ⟨c, ?_, h0⟩
  have hbad : ((q.slots.zipIdx).any fun e => decide (2 ≤ t.eccOf e.1 (if e.2 = 0 then 0 else 0))) = false := by
    rw [List.any_eq_false]
    intro e hm
    have : e.1 ∈ q.slots := by
      have := List.mem_map_of_mem (f := Prod.fst) hm
      rwa [List.zipIdx_map_fst] at this
    simp [State.eccOf, he e.1 this]
  have hraw := hp.2
  have hkd : q.kind ≠ .rdp := by simp [hk]
  have hfil : (q.slots.filter fun _ => true) = q.slots := List.filter_true _
  rcases hp.1 with ht | ⟨b, ht⟩
  · rw [ht] at hraw
    simp only [ownServe, hacc, State.serveMemory, State.serveMemRead, ht, hraw, hbad, hfil, hc, Bool.false_eq_true, if_false, Bool.not_false,
      Bool.true_and, if_neg (show ¬ (0 : Nat) = 1 by omega)]
    exact respond_alone _ _ _ _ hr hkd
  · rw [ht] at hraw
    simp only [ownServe, hacc, State.serveMemory, State.serveMemRead, ht, hraw, hbad, hfil, hc, Bool.false_eq_true, if_false, Bool.not_false,
      Bool.true_and, if_neg (show ¬ (0 : Nat) = 1 by omega)]
    exact respond_alone _ _ _ _ hr hkd

/-- R300: a plain memory without errors takes a write. -/
theorem plain_write (t : State) (q : Req) (hp : t.Plain q.target) (hk : q.kind = .wr ∨ q.kind = .wrp) (hr : t.net.rsps = [])
    (he : ∀ a ∈ q.slots, Tab.get 0 t.ecc a = 0) :
    ∃ u, ownServe t q = { u with net := { u.net with rsps := [⟨q, 0, []⟩] } } ∧ Like t u := by
  have hacc : q.access = 1 := by rcases hk with h | h <;> simp [Req.access, h]
  have hkd : q.kind ≠ .rdp := by rcases hk with h | h <;> simp [h]
  obtain ⟨c, hc, h0⟩ := errorsOf_clean t q 0 hp.1 q.slots he
  have hany : (q.slots.any fun a => decide (2 ≤ t.eccOf a 0)) = false := by
    rw [List.any_eq_false]; intro a ha; simp [State.eccOf, he a ha]
  have key : ∀ (v : State) (f : State → Nat × Nat → State), (∀ u x, Like u (f u x)) → Like t v → ∃ u,
      State.respond (q.words.foldl f v) q 0 [] = { u with net := { u.net with rsps := [⟨q, 0, []⟩] } } ∧ Like t u := by
    intro v f hf hv
    have hl : Like t (q.words.foldl f v) := hv.trans (like_foldl hf _ _)
    exact ⟨_, respond_alone _ _ _ _ (hl.rdp hr) hkd, hl⟩
  have hce : Like t { t with ecc := c } := like_ecc h0
  have hraw := hp.2
  rcases hp.1 with ht | ⟨b, ht⟩
  · rw [ht] at hraw
    simp only [ownServe, hacc, State.storeMemory, State.writeRefused, State.serveMemWrite, ht, hraw, hany, hc, Bool.and_false, if_true,
      Bool.false_eq_true, if_false, ne_eq, not_true_eq_false, reduceCtorEq]
    refine key _ _ (fun u x => ?_) ?_
    · exact like_ite (like_mergeWord ..) (like_write64 ..)
    · split <;> exact like_ite (Like.refl t) hce
  · rw [ht] at hraw
    simp only [ownServe, hacc, State.storeMemory, State.writeRefused, State.serveMemWrite, ht, hraw, hany, hc, Bool.and_false, if_true,
      Bool.false_eq_true, if_false, ne_eq, not_true_eq_false, reduceCtorEq]
    refine key _ _ (fun u x => ?_) ?_
    · exact like_ite (like_mergeWord ..) (like_write64 ..)
    · split <;> exact like_ite (Like.refl t) hce

/-! ### Accesses of master 61 -/

/-- Where the parts that stay stand. -/
theorem Like.keep {s u : State} (h : Like s u) {α : Type} (g : State → α)
    (hg : ∀ (m : State) r me e w f a b, g (State.mk m.grade r me e w m.cells m.runs m.blocks m.regions { m.net with rounds := a, turns := b }
      m.store m.cal m.objor m.bonds m.bst m.cvy m.stewards m.evc m.power m.host m.gpio m.hub m.rst m.esum m.retired m.pulses m.faultQ
      m.answer f m.pending) = g m) : g u = g s := by
  rw [h.all]; exact hg s _ _ _ _ _ _ _

theorem Like.quiet {s u : State} (h : Like s u) (q : s.Quiet) : u.Quiet := by
  refine ⟨?_, (h.keep (·.net.flight) fun _ _ _ _ _ _ _ _ => rfl).trans q.flight, (h.keep (·.net.held) fun _ _ _ _ _ _ _ _ => rfl).trans q.held,
    (h.keep (·.net.rsps) fun _ _ _ _ _ _ _ _ => rfl).trans q.rsps, (h.keep (·.net.lost) fun _ _ _ _ _ _ _ _ => rfl).trans q.lost,
    (h.keep (·.net.gone) fun _ _ _ _ _ _ _ _ => rfl).trans q.gone,
    (h.keep (·.net.waiting) fun _ _ _ _ _ _ _ _ => rfl).trans q.waiting, (h.keep (·.net.dead) fun _ _ _ _ _ _ _ _ => rfl).trans q.dead,
    (h.keep (·.net.orphans) fun _ _ _ _ _ _ _ _ => rfl).trans q.orphans, (h.keep (·.store.waiting) fun _ _ _ _ _ _ _ _ => rfl).trans q.store,
    (h.keep (·.power.sleep) fun _ _ _ _ _ _ _ _ => rfl).trans q.awake, ?_⟩
  · have := q.frozen
    unfold State.frozen at this ⊢
    rw [← this]
    simp only [h.flag (f := DBG.FRZ_STATUS_FROZEN) (by simp only [isToll, Fld.key]; omega),
      h.flag (f := DBG.FRZ_STATUS_ENTERING) (by simp only [isToll, Fld.key]; omega)]
  · rw [h.rd _ (by simp only [isToll, Fld.key]; omega)]; exact q.recfg

/-- The request is well formed, whatever words a write carries. -/
def Req.shaped (q : Req) : Bool := ({ q with data := List.replicate q.len 0 } : Req).wellFormed

theorem Req.shaped_wf {q : Req} (h : q.shaped = true) (hd : q.dataOk = true) : q.wellFormed = true := by
  have ht : ({ q with data := List.replicate q.len 0 } : Req).target = q.target := rfl
  simp only [Req.shaped, Req.wellFormed, ht, hd, Bool.and_true] at h ⊢
  split at h <;> simp_all

theorem Req.shaped_read {q : Req} (h : q.shaped = true) (hk : q.kind = .rd) : q.wellFormed = true := by
  have ht : ({ q with data := List.replicate q.len 0 } : Req).target = q.target := rfl
  simp only [Req.shaped, Req.wellFormed, ht] at h
  simp only [Req.wellFormed]
  rw [hk] at h ⊢
  exact h

/-- R302: nothing holds request `q` of master 61 back, and a memory without errors serves it. -/
structure State.Clear (s : State) (q : Req) : Prop where
  init : q.init = 61
  fresh : q.Fresh
  shaped : q.shaped = true
  lc : s.lcServes q = true
  reason : s.accessReason 61 q.access q.firstByte q.lastByte = 0
  grant : 0 < s.rd (NOC.BERTH_GRANT 61 q.target.berth.1)
  dom : s.domainOff q.target = false
  routed : s.routed q.target = true
  plain : s.Plain q.target
  first : targetOf q.firstByte = q.target
  ecc : ∀ a ∈ q.slots, Tab.get 0 s.ecc a = 0

theorem check_clear (s : State) (q : Req) (h : s.Quiet) (k : s.Clear q) (hw : q.wellFormed = true) : s.check q = .pass := by
  have hm : s.mayIssue q = true := by
    simp [State.mayIssue, State.held, State.inOrder, h.outstanding, h.gone, k.init, k.grant, responseSlots]
  have hr : s.refusedWhy q = 0 := by
    have := k.reason
    rw [← k.init] at this
    simp only [State.refusedWhy, this, ite_self]
  have ha := h.awake
  have hg : s.rd (NOC.BERTH_GRANT 61 q.target.berth.1) ≠ 0 := by have := k.grant; omega
  unfold State.check
  simp [State.pmpStops, k.init, hw, k.lc, hr, ha, k.dom, hg, hm]

theorem find?_same {α : Type} {l : List α} {p r : α → Bool} (h : ∀ x ∈ l, p x = r x) : l.find? p = l.find? r := by
  induction l with
  | nil => rfl
  | cons x l ih =>
    rw [List.find?_cons, List.find?_cons, h x (List.mem_cons_self ..), ih fun y hy => h y (List.mem_cons_of_mem _ hy)]

theorem Like.mprReason {s u : State} (h : Like s u) (kind a z : Nat) : u.mprReason 61 kind a z = s.mprReason 61 kind a z := by
  have hf : ∀ n, n < 16 → ∀ f ∈ [MPR.BASE_EN 61 n, MPR.BASE_BASE 61 n, MPR.LIMIT_LIMIT 61 n, MPR.BASE_XO 61 n, MPR.BASE_R 61 n,
      MPR.BASE_W 61 n, MPR.BASE_X 61 n], u.rd f = s.rd f := by
    intro n hn f hm
    refine h.rd f ?_
    simp only [List.mem_cons, List.not_mem_nil, or_false] at hm
    rcases hm with rfl | rfl | rfl | rfl | rfl | rfl | rfl <;> simp only [isToll, Fld.key] <;> omega
  have ho : u.mprOf 61 a = s.mprOf 61 a := by
    unfold State.mprOf
    refine find?_same fun n hn => ?_
    have := hf n (List.mem_range.mp hn)
    simp only [State.flag, this _ (by simp : MPR.BASE_EN 61 n ∈ _), this _ (by simp : MPR.BASE_BASE 61 n ∈ _),
      this _ (by simp : MPR.LIMIT_LIMIT 61 n ∈ _)]
  unfold State.mprReason
  rw [ho]
  cases hm : s.mprOf 61 a with
  | none => rfl
  | some n =>
    have := hf n (List.mem_range.mp (List.mem_of_find?_eq_some hm))
    simp only [State.flag, this _ (by simp : MPR.BASE_XO 61 n ∈ _), this _ (by simp : MPR.LIMIT_LIMIT 61 n ∈ _),
      this _ (by simp : MPR.BASE_R 61 n ∈ _), this _ (by simp : MPR.BASE_W 61 n ∈ _), this _ (by simp : MPR.BASE_X 61 n ∈ _)]
    rfl

theorem Like.clear {s u : State} (h : Like s u) {q : Req} (k : s.Clear q) : u.Clear q := by
  have hr : ∀ f : Fld, ¬ isToll f → u.rd f = s.rd f := h.rd
  have hj : q.target.berth.1 ≤ 14 := by
    rcases k.plain.1 with e | ⟨b, e⟩ <;> rw [e] <;> simp [Target.berth]
  refine ⟨k.init, k.fresh, k.shaped, ?_, ?_, ?_, ?_, ?_, ⟨k.plain.1, ?_⟩, k.first, fun a ha => h.ecc a (k.ecc a ha)⟩
  · have := k.lc
    unfold State.lcServes State.lcOpen at this ⊢
    rwa [hr _ (by simp only [isToll, Fld.key]; omega), hr _ (by simp only [isToll, Fld.key]; omega)]
  · have hk := k.reason
    unfold State.accessReason at hk ⊢
    rw [k.first] at hk ⊢
    rw [h.mprReason]
    rcases k.plain.1 with e | ⟨b, e⟩ <;> rw [e] at hk ⊢ <;> simpa [Target.isRegs] using hk
  · rw [hr _ (by simp only [isToll, Fld.key]; omega)]; exact k.grant
  · have := k.dom
    unfold State.domainOff State.blockOn State.regionOn at this ⊢
    rwa [hr _ (by simp only [isToll, Fld.key]; omega), hr _ (by simp only [isToll, Fld.key]; omega), hr _ (by simp only [isToll, Fld.key]; omega),
      hr _ (by simp only [isToll, Fld.key]; omega)]
  · have := k.routed
    unfold State.routed at this ⊢
    rwa [hr _ (by simp only [isToll, Fld.key]; omega)]
  · have := k.plain.2
    unfold State.rawMode State.testModes at this ⊢
    rcases k.plain.1 with e | ⟨b, e⟩ <;> rw [e] at this ⊢
    · simp only [Bool.and_false]
    · simp only [h.flag (f := LC.STATE_TEST_MODES) (by simp only [isToll, Fld.key]; omega),
        h.flag (f := DEP.RAW_BYPASS b) (by simp only [isToll, Fld.key, blockBase]; omega)]
      exact this

/-- The word at `a` of a plain memory without errors. -/
def State.cleanWord (s : State) (t : Target) (a : Nat) : Nat := if t = .stewardMem then s.read64 a else s.readWord a

theorem wordView_clean (s : State) (q : Req) (hp : s.Plain q.target) {a : Nat} (he : Tab.get 0 s.ecc a = 0) :
    s.wordView q a = s.cleanWord q.target a := by
  have hr := hp.2
  rcases hp.1 with e | ⟨b, e⟩
  · simp only [State.wordView, State.cleanWord, e, if_true]
  · rw [e] at hr
    simp only [State.wordView, State.cleanWord, e, hr, Bool.false_eq_true, if_false, State.readFixed, he, reduceCtorEq]
    simp

theorem readBytes_mem {s u : State} (h : u.mem = s.mem) (a n : Nat) : u.readBytes a n = s.readBytes a n := by
  induction n generalizing a with
  | zero => rfl
  | succ n ih => simp only [State.readBytes, State.readByte, h, ih]

theorem cleanWord_mem {s u : State} (h : u.mem = s.mem) (t : Target) (a : Nat) : u.cleanWord t a = s.cleanWord t a := by
  simp only [State.cleanWord, State.read64, State.readWord, readBytes_mem h]

theorem like_drawn (s : State) : Like s s.drawn := ⟨rfl, fun _ _ => rfl, fun _ h => h⟩

/-- The access of master 61, whose class of a memory error is 0. -/
theorem ownAccess_serve (s : State) (q : Req) : s.ownAccess q 0 0 = s.drawn.accessWith ownServe q s.ownLatency := rfl

theorem rsps_back {t : State} (h : t.net.rsps = []) (l : List Rsp) :
    ({ t with net := { ({ t with net := { t.net with rsps := l } } : State).net with rsps := [] } } : State) = t := by
  have : ({ t.net with rsps := [] } : NetX) = t.net := by rw [← h]
  simp only [this]

/-- R274, R302: master 61 reads words without an error. -/
theorem own_read (s : State) (q : Req) (h : s.Quiet) (k : s.Clear q) (hk : q.kind = .rd) (hf : q.fetch = false) :
    ∃ u, s.ownAccess q 0 0 = .ok (0, q.slots.map (s.cleanWord q.target), u) ∧ Like s u ∧ u.mem = s.mem := by
  have hd := like_drawn s
  have h' := hd.quiet h
  have k' := hd.clear k
  obtain ⟨t, n, j, he, hl, hr, hfl, hm, hec, _⟩ := access_alone s.drawn ownServe q s.ownLatency h' k'.fresh
    (check_clear _ q h' k' (Req.shaped_read k.shaped hk)) k'.routed
  let e : Req := { q with tariff := n, hop := j }
  have ht := hl.clear k'
  obtain ⟨c, hs, hc⟩ := plain_read t e ht.plain hk hf hr ht.ecc
  have hq := hl.quiet h'
  obtain ⟨u, hu, hlu, hmu, _⟩ := collect_alone { t with ecc := c, net := { t.net with rsps := [⟨e, 0, e.slots.map (t.wordView e)⟩] } } q e 0
    s.ownLatency _ rfl (by simp [Req.same, e]) k.fresh.init hq.dead hq.orphans
  refine ⟨u, ?_, ?_, ?_⟩
  · rw [ownAccess_serve, he, hs, hu]
    have : (e.slots.map (t.wordView e)) = q.slots.map (s.cleanWord q.target) := by
      refine List.map_congr_left fun a ha => ?_
      rw [wordView_clean t e ht.plain (ht.ecc a ha)]
      exact cleanWord_mem (s := s) (u := t) hm q.target a
    rw [this]
  · refine (hd.trans hl).trans (Like.trans ?_ hlu)
    refine ⟨?_, fun _ _ => rfl, fun x hx => (hc x).trans hx⟩
    have : ({ t.net with rsps := [] } : NetX) = t.net := by rw [← hr]
    simp only [this]
  · rw [hmu]; exact hm

/-- R274, R302: master 61 writes words without an error. -/
theorem own_write (s : State) (q : Req) (h : s.Quiet) (k : s.Clear q) (hw : q.dataOk = true)
    (hk : q.kind = .wr ∨ q.kind = .wrp) : ∃ u, s.ownAccess q 0 0 = .ok (0, [], u) ∧ Like s u := by
  have hd := like_drawn s
  have h' := hd.quiet h
  have k' := hd.clear k
  obtain ⟨t, n, j, he, hl, hr, hfl, hm, hec, _⟩ := access_alone s.drawn ownServe q s.ownLatency h' k'.fresh
    (check_clear _ q h' k' (Req.shaped_wf k.shaped hw)) k'.routed
  let e : Req := { q with tariff := n, hop := j }
  have ht := hl.clear k'
  obtain ⟨v, hs, hv⟩ := plain_write t e ht.plain hk hr ht.ecc
  have hq := (hl.trans hv).quiet h'
  obtain ⟨u, hu, hlu, _, _⟩ := collect_alone { v with net := { v.net with rsps := [⟨e, 0, []⟩] } } q e 0
    s.ownLatency _ rfl (by simp [Req.same, e]) k.fresh.init hq.dead hq.orphans
  refine ⟨u, ?_, ?_⟩
  · rw [ownAccess_serve, he, hs, hu]
  · refine ((hd.trans hl).trans hv).trans (Like.trans ?_ hlu)
    refine ⟨?_, fun _ _ => rfl, fun x hx => hx⟩
    have : ({ v.net with rsps := [] } : NetX) = v.net := by rw [← hq.rsps]
    simp only [this]

/-- R348: master 61 reads packets without an error. -/
theorem own_reads (gs : List (Nat × Nat)) : ∀ (s : State), s.Quiet → (∀ g ∈ gs, s.Clear (wordsReq 61 0 g.1 g.2 false [])) →
    ∃ u, s.ownReads 0 0 gs = .ok (some (gs.flatMap fun g => (wordsReq 61 0 g.1 g.2 false []).slots.map
      (s.cleanWord (targetOf g.1))), u) ∧ Like s u ∧ u.mem = s.mem := by
  induction gs with
  | nil => exact fun s _ _ => ⟨s, rfl, Like.refl s, rfl⟩
  | cons g gs ih =>
    intro s h k
    obtain ⟨a, n⟩ := g
    obtain ⟨t, h1, hl, hm⟩ := own_read s (wordsReq 61 0 a n false []) h (k (a, n) (List.mem_cons_self ..)) rfl rfl
    obtain ⟨u, h2, hl2, hm2⟩ := ih t (hl.quiet h) fun g hg => hl.clear (k g (List.mem_cons_of_mem _ hg))
    refine ⟨u, ?_, hl.trans hl2, hm2.trans hm⟩
    have hc : ∀ tt, t.cleanWord tt = s.cleanWord tt := fun tt => funext fun x => cleanWord_mem hm tt x
    simp only [State.ownReads, h1, h2, hc, List.flatMap_cons, Option.map_some, ne_eq, not_true_eq_false, false_and, if_false]
    rfl

theorem clear_data {s : State} {i d a n : Nat} {w : Bool} {l m : List Nat} (h : s.Clear (wordsReq i d a n w l)) : s.Clear (wordsReq i d a n w m) :=
  ⟨h.init, ⟨h.fresh.init, h.fresh.hop, h.fresh.short, h.fresh.ports⟩, h.shaped, h.lc, h.reason, h.grant, h.dom, h.routed, h.plain, h.first, h.ecc⟩

/-- R359: master 61 writes packets without an error. -/
theorem own_writes (gs : List (Nat × Nat)) : ∀ (s : State) (ws : List Nat), s.Quiet →
    (∀ g ∈ gs, s.Clear (wordsReq 61 0 g.1 g.2 true []) ∧ (targetOf g.1).slot = 16) → (gs.map (·.2)).sum ≤ ws.length → ∃ u, s.ownWrites gs ws = .ok (true, u) ∧ Like s u := by
  induction gs with
  | nil => exact fun s _ _ _ _ => ⟨s, rfl, Like.refl s⟩
  | cons g gs ih =>
    intro s ws h k hn
    obtain ⟨a, n⟩ := g
    rw [List.map_cons, List.sum_cons] at hn
    obtain ⟨hc, h16⟩ := k (a, n) (List.mem_cons_self ..)
    have hd : (wordsReq 61 0 a n true (ws.take n)).dataOk = true := by
      have : (wordsReq 61 0 a n true (ws.take n)).target = targetOf a := rfl
      simp only [Req.dataOk, this, h16, BEq.rfl, Bool.true_or, Bool.and_true, beq_iff_eq]
      exact List.length_take.trans (Nat.min_eq_left (by omega))
    obtain ⟨t, h1, hl⟩ := own_write s (wordsReq 61 0 a n true (ws.take n)) h (clear_data hc) hd (.inl rfl)
    obtain ⟨u, h2, hl2⟩ := ih t (ws.drop n) (hl.quiet h) (fun g hg => ⟨hl.clear (k g (List.mem_cons_of_mem _ hg)).1, (k g (List.mem_cons_of_mem _ hg)).2⟩)
      (by rw [List.length_drop]; omega)
    exact ⟨u, by simp only [State.ownWrites, h1, h2, ne_eq, not_true_eq_false, if_false], hl.trans hl2⟩

/-! ### The conditions, as a check on a concrete state -/

/-- `State.Quiet`, to be evaluated. -/
def State.quietB (s : State) : Bool :=
  !s.frozen && s.net.flight.isEmpty && s.net.held.isEmpty && s.net.rsps.isEmpty && s.net.lost.isEmpty && s.net.gone.isEmpty && s.net.waiting.isEmpty &&
    s.net.dead.isEmpty && s.net.orphans.isEmpty && s.store.waiting.isEmpty && s.power.sleep == 0 && s.rd NOC.RECFG_STATE == 0

theorem quiet_of {s : State} (h : s.quietB = true) : s.Quiet := by
  simp only [State.quietB, Bool.and_eq_true, Bool.not_eq_true', List.isEmpty_iff, beq_iff_eq] at h
  obtain ⟨⟨⟨⟨⟨⟨⟨⟨⟨⟨⟨a, b⟩, c⟩, d⟩, e⟩, z⟩, f⟩, g⟩, i⟩, j⟩, k⟩, l⟩ := h
  exact ⟨a, b, c, d, e, z, f, g, i, j, k, l⟩

/-- `State.Clear`, to be evaluated. -/
def State.clearB (s : State) (q : Req) : Bool :=
  q.init == 61 && q.hop == 0 && decide (q.toGo.length ≤ 3) && q.toGo.all (fun e => (outPorts e.1).contains e.2) && q.shaped &&
    s.lcServes q && s.accessReason 61 q.access q.firstByte q.lastByte == 0 && decide (0 < s.rd (NOC.BERTH_GRANT 61 q.target.berth.1)) &&
    !s.domainOff q.target && s.routed q.target && (match q.target with
      | .stewardMem => true
      | .depot _ => true
      | _ => false) && !s.rawMode q.target && targetOf q.firstByte == q.target && q.slots.all fun a => Tab.get 0 s.ecc a == 0

theorem clear_of {s : State} {q : Req} (h : s.clearB q = true) : s.Clear q := by
  simp only [State.clearB, Bool.and_eq_true, Bool.not_eq_true', beq_iff_eq, decide_eq_true_eq, List.all_eq_true, List.contains_iff_mem] at h
  obtain ⟨⟨⟨⟨⟨⟨⟨⟨⟨⟨⟨⟨⟨a, b⟩, c⟩, d⟩, e⟩, f⟩, g⟩, i⟩, j⟩, k⟩, l⟩, m⟩, n⟩, o⟩ := h
  refine ⟨a, ⟨by omega, b, c, d⟩, e, f, g, i, j, k, ⟨?_, m⟩, n, o⟩
  cases ht : q.target <;> simp [ht] at l ⊢

theorem ofBytes_lt (l : List Nat) : ofBytes l < 256 ^ l.length := by
  induction l with
  | nil => simp [ofBytes]
  | cons x l ih =>
    rw [ofBytes, List.length_cons, Nat.pow_succ]
    have := Nat.mod_lt x (by decide : 256 > 0)
    omega

theorem ofBytes_take (l : List Nat) : ofBytes (l.take 8) < 2 ^ 64 := by
  refine Nat.lt_of_lt_of_le (ofBytes_lt _) ?_
  have : (l.take 8).length ≤ 8 := List.length_take_le ..
  exact Nat.pow_le_pow_right (n := 256) (by decide) this

/-- R348: master 61 writes whole words of a byte-addressed memory without an error. -/
theorem own_put (f : Nat) : ∀ (p a m : Nat) (bs : List Nat) (s : State), bs.length = 8 * m → m ≤ f → m ≤ p → s.Quiet →
    (∀ g ∈ groupsOf 8 f a m, s.Clear (wordsReq 61 0 g.1 g.2 true [])) → ∃ u, s.ownPut a p bs = .ok (true, u) ∧ Like s u := by
  induction f with
  | zero =>
    intro p a m bs s hb hm _ _ _
    have : bs = [] := List.eq_nil_of_length_eq_zero (by omega)
    subst this
    exact ⟨s, by cases p <;> rfl, Like.refl s⟩
  | succ f ih =>
    intro p a m bs s hb hm hp hq hk
    cases bs with
    | nil => exact ⟨s, by cases p <;> rfl, Like.refl s⟩
    | cons b bs =>
      cases m with
      | zero => simp at hb
      | succ m =>
        cases p with
        | zero => omega
        | succ p =>
          simp only [groupsOf, List.mem_cons, forall_eq_or_imp] at hk
          have hn : min ((b :: bs).length / 8) (8 - a / 8 % 8) = min (m + 1) (8 - a / 8 % 8) := by rw [hb]; congr 1; omega
          have h0 : min (m + 1) (8 - a / 8 % 8) ≠ 0 := by omega
          have hd : (wordsReq 61 0 a (min (m + 1) (8 - a / 8 % 8)) true
              ((List.range (min (m + 1) (8 - a / 8 % 8))).map fun i => ofBytes (((b :: bs).drop (8 * i)).take 8))).dataOk = true := by
            simp only [Req.dataOk, wordsReq, List.length_map, List.length_range, BEq.rfl, Bool.true_and, Bool.or_eq_true, List.all_eq_true,
              List.mem_map, decide_eq_true_eq]
            refine .inr ?_
            rintro v ⟨i, _, rfl⟩
            exact ofBytes_take _
          obtain ⟨t, h1, hl⟩ := own_write s _ hq (clear_data hk.1) hd (.inl rfl)
          obtain ⟨u, h2, hl2⟩ := ih p (a + 8 * min (m + 1) (8 - a / 8 % 8)) (m + 1 - min (m + 1) (8 - a / 8 % 8))
            ((b :: bs).drop (8 * min (m + 1) (8 - a / 8 % 8))) t (by rw [List.length_drop, hb]; omega) (by omega) (by omega) (hl.quiet hq)
            (fun g hg => hl.clear (hk.2 g hg))
          refine ⟨u, ?_, hl.trans hl2⟩
          simp only [State.ownPut, hn, h0, ne_eq, not_false_eq_true, if_true, if_false, h1, not_true_eq_false, h2]

/-! ### Buffers and manifests -/

/-- The `n` bytes of the words that master 61 reads from `a` up in packets `gs`, `w` bytes a word. -/
def State.cleanBytes (s : State) (w : Nat) (gs : List (Nat × Nat)) (n : Nat) : List Nat :=
  ((gs.flatMap fun g => (wordsReq 61 0 g.1 g.2 false []).slots.map (s.cleanWord (targetOf g.1))).flatMap (toBytes w)).take n

/-- The network is quiet and clear for the packets `gs` of master 61. -/
def State.readsB (s : State) (gs : List (Nat × Nat)) : Bool := s.quietB && gs.all fun g => s.clearB (wordsReq 61 0 g.1 g.2 false [])

theorem readsB_reads {s : State} {gs : List (Nat × Nat)} (h : s.readsB gs = true) :
    s.Quiet ∧ ∀ g ∈ gs, s.Clear (wordsReq 61 0 g.1 g.2 false []) := by
  simp only [State.readsB, Bool.and_eq_true, List.all_eq_true] at h
  exact ⟨quiet_of h.1, fun g hg => clear_of (h.2 g hg)⟩

/-- R348: Objor reads a buffer in steward memory. `s` is the state of a first read, `v` that of this one. -/
theorem obj_reads {s v : State} {a n : Nat} (hl : Like s v) (hm : v.mem = s.mem) (hb : bufOk a n = true)
    (h : s.readsB (groupsOf 8 (n + 8) a ((n + 7) / 8)) = true) :
    ∃ u, v.ObjReads a n (s.cleanBytes 8 (groupsOf 8 (n + 8) a ((n + 7) / 8)) n) u ∧ Like s u ∧ u.mem = s.mem := by
  obtain ⟨hq, hc⟩ := readsB_reads h
  obtain ⟨u, h1, h2, h3⟩ := own_reads _ v (hl.quiet hq) fun g hg => hl.clear (hc g hg)
  refine ⟨u, ⟨hb, ?_⟩, hl.trans h2, h3.trans hm⟩
  have : ∀ tt, v.cleanWord tt = s.cleanWord tt := fun tt => funext fun x => cleanWord_mem hm tt x
  simp only [State.ownBytes, h1, Option.map_some, State.cleanBytes, this]

/-- R348, R357: Objor reads a manifest. -/
theorem manifest_reads {s v : State} {a n : Nat} (hl : Like s v) (hm : v.mem = s.mem)
    (h : s.readsB (groupsOf 16 ((n + 8) / 9 + 1) a ((n + 8) / 9)) = true) :
    ∃ u, v.ManifestReads a n (s.cleanBytes 9 (groupsOf 16 ((n + 8) / 9 + 1) a ((n + 8) / 9)) n) u ∧ Like s u ∧ u.mem = s.mem := by
  obtain ⟨hq, hc⟩ := readsB_reads h
  obtain ⟨u, h1, h2, h3⟩ := own_reads _ v (hl.quiet hq) fun g hg => hl.clear (hc g hg)
  refine ⟨u, ⟨_, h1, ?_⟩, hl.trans h2, h3.trans hm⟩
  have : ∀ tt, v.cleanWord tt = s.cleanWord tt := fun tt => funext fun x => cleanWord_mem hm tt x
  simp only [State.cleanBytes, wordBytes, this]

theorem Like.storeFree {s u : State} (h : Like s u) (k : s.StoreFree) : u.StoreFree := by
  refine ⟨(h.keep (·.store.op) fun _ _ _ _ _ _ _ _ => rfl).trans k.1, ?_, ?_⟩
  · rw [h.flag (by simp only [isToll, Fld.key]; omega)]; exact k.2.1
  · have hs : u.store = s.store := h.keep (·.store) fun _ _ _ _ _ _ _ _ => rfl
    have := k.2.2
    unfold State.rolloverDue State.halfUsed State.half at this ⊢
    rwa [hs, h.rd _ (by simp only [isToll, Fld.key]; omega)]

/-- R348: master 61 reads words. -/
theorem words_read {s : State} {a n : Nat} (h : s.readsB (groupsOf 16 (n + 1) a n) = true) :
    ∃ u, s.ownWords a n 0 0 = .ok (some ((groupsOf 16 (n + 1) a n).flatMap fun g => (wordsReq 61 0 g.1 g.2 false []).slots.map
      (s.cleanWord (targetOf g.1))), u) ∧ Like s u ∧ u.mem = s.mem := by
  obtain ⟨hq, hc⟩ := readsB_reads h
  exact own_reads _ s hq hc

/-! ### Words that were written -/

theorem readBytes_apart {s u : State} (n x : Nat) (h : ∀ b, x ≤ b → b < x + n → u.readByte b = s.readByte b) :
    u.readBytes x n = s.readBytes x n := by
  induction n generalizing x with
  | zero => rfl
  | succ n ih => rw [State.readBytes, State.readBytes, h x (by omega) (by omega), ih _ fun b h1 h2 => h b (by omega) (by omega)]

/-- R3: a word write leaves the words of other slots alone. -/
theorem readWord_apart (s : State) (a v x : Nat) (h : x + 9 ≤ a ∨ a + 9 ≤ x) : (s.writeWord a v).readWord x = s.readWord x := by
  have := readBytes_apart (s := s) (u := s.writeWord a v) 9 x fun b h1 h2 => State.readByte_writeWord_out s a v (by omega)
  rw [State.readWord, this, State.readWord]

theorem writeWords_cons (s : State) (a v : Nat) (l : List Nat) : s.writeWords a (v :: l) = (s.writeWord a v).writeWords (a + 16) l := by
  delta State.writeWords
  rfl

theorem readWord_writeWords (l : List Nat) (s : State) (a x : Nat) (h : x + 16 ≤ a) : (s.writeWords a l).readWord x = s.readWord x := by
  induction l generalizing s a with
  | nil => rfl
  | cons v l ih => rw [writeWords_cons, ih _ _ (by omega), readWord_apart s a v x (by omega)]

/-- R3: words written in consecutive slots are read. -/
theorem readWord_written (l : List Nat) (s : State) (a n : Nat) (h : n < l.length) :
    (s.writeWords a l).readWord (a + 16 * n) = l[n] % 2 ^ 72 := by
  induction l generalizing s a n with
  | nil => simp at h
  | cons v l ih =>
    cases n with
    | zero =>
      rw [Nat.mul_zero, Nat.add_zero, writeWords_cons, readWord_writeWords l _ _ a (by omega), State.readWord_writeWord_self]
      simp only [List.getElem_cons_zero]
    | succ n =>
      have e : a + 16 * (n + 1) = a + 16 + 16 * n := by omega
      rw [e, writeWords_cons, ih _ _ n (by simpa using h)]
      simp only [List.getElem_cons_succ]

end Sys2Proof.Machine
end

