-- ==== Sys2Proof/Laws/Keeps.lean ====
section
/-! SUPPORT. What every operation keeps: `Keeps s t` says that `t` is canonical if `s` is and that its queue is that of
`s`. One lemma per basic operation; the files `Keeps1` and so on carry it through every meaning. -/

namespace Sys2Proof.Machine

/-- `t` is canonical if `s` is, and the queue is the same. -/
def Keeps (s t : State) : Prop := (s.Canonical → t.Canonical) ∧ t.pending = s.pending

/-- A meaning completes, and keeps what `Keeps` says. -/
def Runs (s : State) (o : Host.Outcome State Fault Refusal) : Prop := ∃ t, o = .next t ∧ Keeps s t

variable {base s : State}

theorem Keeps.refl (s : State) : Keeps s s := ⟨id, rfl⟩

theorem Keeps.trans {a b c : State} (h : Keeps a b) (k : Keeps b c) : Keeps a c :=
  ⟨fun x => k.1 (h.1 x), k.2.trans h.2⟩

theorem cut {p q : Prop} (hp : p) (hq : p → q) : q := hq hp

theorem Runs.next {t : State} (h : Keeps s t) : Runs s (.next t) := ⟨t, rfl, h⟩

/-- A record update, each table of which stays canonical. -/
theorem keeps_tabs (h : Keeps base s) {t : State}
    (h1 : Tab.wf 0 s.regs = true → Tab.wf 0 t.regs = true)
    (h2 : Tab.wf memDefault s.mem = true → Tab.wf memDefault t.mem = true)
    (h3 : Tab.wf 0 s.ecc = true → Tab.wf 0 t.ecc = true)
    (h4 : Tab.wf 0 s.rawChk = true → Tab.wf 0 t.rawChk = true)
    (h5 : Tab.wf CellX.reset s.cells = true → Tab.wf CellX.reset t.cells = true)
    (h6 : Tab.wf Run.reset s.runs = true → Tab.wf Run.reset t.runs = true)
    (h7 : Tab.wf BlockX.reset s.blocks = true → Tab.wf BlockX.reset t.blocks = true)
    (h8 : Tab.wf RegionX.reset s.regions = true → Tab.wf RegionX.reset t.regions = true)
    (h9 : Tab.wf Steward.reset s.stewards = true → Tab.wf Steward.reset t.stewards = true)
    (h10 : Tab.wf SrcX.reset s.evc.srcs = true → Tab.wf SrcX.reset t.evc.srcs = true)
    (h11 : Tab.wf 0 s.esum = true → Tab.wf 0 t.esum = true) (h12 : t.pending = s.pending) : Keeps base t :=
  ⟨fun c => ⟨h1 (h.1 c).regs, h2 (h.1 c).mem, h3 (h.1 c).ecc, h4 (h.1 c).rawChk, h5 (h.1 c).cells, h6 (h.1 c).runs,
    h7 (h.1 c).blocks, h8 (h.1 c).regions, h9 (h.1 c).stewards, h10 (h.1 c).srcs, h11 (h.1 c).esum⟩, h12.trans h.2⟩

/-- A record update that touches no table and not the queue changes nothing that `Keeps` sees. -/
theorem keeps_mk_iff {grade net store cal objor bonds bst cvy evc power host gpio hub rst retired pulses faultQ answer freeCtr}
    (he : evc.srcs = s.evc.srcs) :
    Keeps base ⟨grade, s.regs, s.mem, s.ecc, s.rawChk, s.cells, s.runs, s.blocks, s.regions, net, store, cal, objor, bonds, bst,
      cvy, s.stewards, evc, power, host, gpio, hub, rst, s.esum, retired, pulses, faultQ, answer, freeCtr, s.pending⟩ ↔
    Keeps base s :=
  ⟨fun h => keeps_tabs h id id id id id id id id id (fun w => he ▸ w) id rfl,
    fun h => keeps_tabs h id id id id id id id id id (fun w => he ▸ w) id rfl⟩

theorem foldl_keeps {α : Type} {f : State → α → State} {l : List α} (hf : ∀ t x, Keeps base t → Keeps base (f t x))
    (h : Keeps base s) : Keeps base (l.foldl f s) := by
  induction l generalizing s with
  | nil => exact h
  | cons x l ih => exact ih (hf s x h)

theorem State.wr_keeps (h : Keeps base s) (f : Fld) (v : Nat) : Keeps base (s.wr f v) :=
  keeps_tabs h (Tab.wf_set _ _) id id id id id id id id id id rfl

theorem State.wrs_keeps (h : Keeps base s) (l : List (Fld × Nat)) : Keeps base (s.wrs l) := by
  induction l generalizing s with
  | nil => exact h
  | cons e l ih => exact ih (State.wr_keeps h _ _)

theorem State.setCell_keeps (h : Keeps base s) (c : Nat) (x : CellX) : Keeps base (s.setCell c x) :=
  keeps_tabs h id id id id (Tab.wf_set _ _) id id id id id id rfl

theorem State.setRun_keeps (h : Keeps base s) (c : Nat) (x : Run) : Keeps base (s.setRun c x) :=
  keeps_tabs h id id id id id (Tab.wf_set _ _) id id id id id rfl

theorem State.setBlock_keeps (h : Keeps base s) (c : Nat) (x : BlockX) : Keeps base (s.setBlock c x) :=
  keeps_tabs h id id id id id id (Tab.wf_set _ _) id id id id rfl

theorem State.setRegion_keeps (h : Keeps base s) (c : Nat) (x : RegionX) : Keeps base (s.setRegion c x) :=
  keeps_tabs h id id id id id id id (Tab.wf_set _ _) id id id rfl

theorem State.writeByte_keeps (h : Keeps base s) (a v : Nat) : Keeps base (s.writeByte a v) :=
  keeps_tabs h id (Tab.wf_set _ _) id id id id id id id id id rfl

theorem State.writeBytes_keeps (h : Keeps base s) (a : Nat) (l : List Nat) : Keeps base (s.writeBytes a l) := by
  induction l generalizing s a with
  | nil => exact h
  | cons e l ih => exact ih (State.writeByte_keeps h _ _) _

theorem ite_keeps {c : Prop} [Decidable c] {a b : State} (ha : Keeps base a) (hb : Keeps base b) :
    Keeps base (if c then a else b) := by
  split <;> assumption

theorem ite_mb_keeps {c : Prop} [Decidable c] {a b : MbRes} (ha : Keeps base a.s) (hb : Keeps base b.s) :
    Keeps base (if c then a else b).s := by
  split <;> assumption

theorem ite_runs {c : Prop} [Decidable c] {a b : Host.Outcome State Fault Refusal} (ha : Runs base a) (hb : Runs base b) :
    Runs base (if c then a else b) := by
  split <;> assumption

theorem State.writeWord_keeps (h : Keeps base s) (a v : Nat) : Keeps base (s.writeWord a v) := by
  have hb := State.writeBytes_keeps h a (toBytes 9 v)
  unfold State.writeWord
  generalize s.writeBytes a (toBytes 9 v) = u at hb
  exact keeps_tabs hb id id (fun w => Tab.wf_set a 0 w) (fun w => Tab.wf_set a 0 w) id id id id id id id rfl

theorem State.writeWords_keeps (h : Keeps base s) (a : Nat) (l : List Nat) : Keeps base (s.writeWords a l) := by
  induction l generalizing s a with
  | nil => exact h
  | cons e l ih =>
    unfold State.writeWords
    exact ih (State.writeWord_keeps h a e) (a + 16)

theorem State.write64_keeps (h : Keeps base s) (a v : Nat) : Keeps base (s.write64 a v) := by
  have hb := State.writeBytes_keeps h a (toBytes 8 v)
  unfold State.write64
  generalize s.writeBytes a (toBytes 8 v) = u at hb
  exact keeps_tabs hb id id (fun w => Tab.wf_set a 0 w) id id id id id id id id rfl

theorem ecc_set_keeps (h : Keeps base s) (a v : Nat) : Keeps base { s with ecc := Tab.set 0 s.ecc a v } :=
  keeps_tabs h id id (fun w => Tab.wf_set _ _ w) id id id id id id id id rfl

theorem ecc_drop_keeps (h : Keeps base s) (a v : Nat) : Keeps base { s with ecc := Tab.drop s.ecc a v } :=
  keeps_tabs h id id (fun w => Tab.wf_drop _ _ w) id id id id id id id id rfl

theorem ecc_raw_keeps (h : Keeps base s) (a v w : Nat) :
    Keeps base { s with ecc := Tab.set 0 s.ecc a v, rawChk := Tab.set 0 s.rawChk a w } :=
  keeps_tabs h id id (fun w => Tab.wf_set _ _ w) (fun w => Tab.wf_set _ _ w) id id id id id id id rfl

theorem units_drop_keeps (h : Keeps base s) (a b c d : Nat) :
    Keeps base { s with cells := Tab.drop s.cells a b, runs := Tab.drop s.runs c d } :=
  keeps_tabs h id id id id (fun w => Tab.wf_drop _ _ w) (fun w => Tab.wf_drop _ _ w) id id id id id rfl

theorem region_drop_keeps (h : Keeps base s) (a b c d : Nat) :
    Keeps base { s with regions := Tab.drop s.regions a b, esum := Tab.drop s.esum c d } :=
  keeps_tabs h id id id id id id id (fun w => Tab.wf_drop _ _ w) id id (fun w => Tab.wf_drop _ _ w) rfl

theorem esum_set_keeps (h : Keeps base s) (k v : Nat) : Keeps base { s with esum := Tab.set 0 s.esum k v } :=
  keeps_tabs h id id id id id id id id id id (fun w => Tab.wf_set _ _ w) rfl

theorem esum_fold_keeps {α : Type} (h : Keeps base s) (l : List α) (k v : α → Nat) (q : List Retired) :
    Keeps base { s with esum := l.foldl (fun m x => Tab.set 0 m (k x) (v x)) s.esum, retired := q } :=
  keeps_tabs h id id id id id id id id id id (fun w => Tab.wf_foldl _ (fun _ _ z => Tab.wf_set _ _ z) _ w) rfl

end Sys2Proof.Machine
end

