-- ==== Sys2Proof/Laws/Keeps/Ops.lean ====
section
/-! SUPPORT. `Keeps` through the operations of Machine/Ops.lean. -/

namespace Sys2Proof.Machine

variable {base : State}

theorem State.wrB_keeps {s : State} (h : Keeps base s) (f : Fld) (b : Bool) : Keeps base (State.wrB s f b) := by
  unfold State.wrB
  repeat' first
    | with_reducible assumption
    | with_reducible apply State.wr_keeps

theorem State.count_keeps {s : State} (h : Keeps base s) (f : Fld) (n : Nat) : Keeps base (State.count s f n) := by
  unfold State.count
  repeat' first
    | with_reducible assumption
    | with_reducible apply State.wr_keeps

theorem State.modCell_keeps {s : State} (h : Keeps base s) (c : Nat) (f : CellX → CellX) : Keeps base (State.modCell s c f) := by
  unfold State.modCell
  repeat' first
    | with_reducible assumption
    | with_reducible apply State.setCell_keeps

theorem State.modRun_keeps {s : State} (h : Keeps base s) (l : Nat) (f : Run → Run) : Keeps base (State.modRun s l f) := by
  unfold State.modRun
  repeat' first
    | with_reducible assumption
    | with_reducible apply State.setRun_keeps

theorem State.modBlock_keeps {s : State} (h : Keeps base s) (b : Nat) (f : BlockX → BlockX) : Keeps base (State.modBlock s b f) := by
  unfold State.modBlock
  repeat' first
    | with_reducible assumption
    | with_reducible apply State.setBlock_keeps

theorem State.modRegion_keeps {s : State} (h : Keeps base s) (r : Nat) (f : RegionX → RegionX) : Keeps base (State.modRegion s r f) := by
  unfold State.modRegion
  repeat' first
    | with_reducible assumption
    | with_reducible apply State.setRegion_keeps

theorem State.drawn_keeps {s : State} (h : Keeps base s)  : Keeps base (State.drawn s) := by
  unfold State.drawn
  repeat' first
    | with_reducible assumption
    | simp only [keeps_mk_iff]

theorem State.pulse_keeps {s : State} (h : Keeps base s) (n : Nat) : Keeps base (State.pulse s n) := by
  unfold State.pulse
  repeat' first
    | with_reducible assumption
    | simp only [keeps_mk_iff]

theorem State.report_keeps {s : State} (h : Keeps base s) (code unit : Nat) : Keeps base (State.report s code unit) := by
  unfold State.report
  repeat' first
    | with_reducible assumption
    | simp only [keeps_mk_iff]

theorem State.reached_keeps {s : State} (h : Keeps base s) (f : Fld) (t : Nat) : Keeps base (State.reached s f t) := by
  unfold State.reached
  repeat' first
    | with_reducible assumption
    | with_reducible apply State.wr_keeps

theorem State.counted_keeps {s : State} (h : Keeps base s) (f : Fld) : Keeps base (State.counted s f) := by
  unfold State.counted
  repeat' first
    | with_reducible assumption
    | with_reducible apply State.wr_keeps
    | simp only [keeps_mk_iff]

theorem State.reportAs_keeps {s : State} (h : Keeps base s) (code unit scope : Nat) (leads : List Nat) : Keeps base (State.reportAs s code unit scope leads) := by
  unfold State.reportAs
  repeat' first
    | with_reducible assumption
    | simp only [keeps_mk_iff]

theorem State.clearMem_keeps {s : State} (h : Keeps base s) (lo hi : Nat) : Keeps base (s.clearMem lo hi) :=
  keeps_tabs h id (fun w => Tab.wf_drop _ _ w) (fun w => Tab.wf_drop _ _ w) (fun w => Tab.wf_drop _ _ w) id id id id id id id rfl


theorem State.resetRegs_keeps {s : State} (h : Keeps base s) (lo hi : Nat) : Keeps base (s.resetRegs lo hi) :=
  keeps_tabs h (fun w => Tab.wf_drop _ _ w) id id id id id id id id id id rfl


theorem State.eccAfter_keeps {s : State} (h : Keeps base s) (a upset : Nat) : Keeps base (State.eccAfter s a upset) := by
  unfold State.eccAfter
  repeat' first
    | with_reducible assumption
    | with_reducible apply State.writeWord_keeps
    | with_reducible apply ite_keeps
    | with_reducible apply ecc_set_keeps
    | simp only [keeps_mk_iff]

theorem State.wrAll_keeps {s : State} (h : Keeps base s) (cs : List Nat) (f : Nat → Fld) (v : Nat) : Keeps base (State.wrAll s cs f v) := by
  unfold State.wrAll
  repeat' first
    | with_reducible assumption
    | with_reducible apply State.wr_keeps
    | with_reducible apply foldl_keeps
    | intro t x ht

theorem State.setCv_keeps {s : State} (h : Keeps base s) (l v : Nat) : Keeps base (State.setCv s l v) := by
  unfold State.setCv
  repeat' first
    | with_reducible assumption
    | with_reducible apply State.wrAll_keeps

theorem State.enterSafe_keeps {s : State} (h : Keeps base s) (c n cause : Nat) : Keeps base (State.enterSafe s c n cause) := by
  unfold State.enterSafe
  repeat' first
    | with_reducible assumption
    | ((fail_if_no_progress extract_lets +onlyGivenNames u); first | (refine cut (p := Keeps base u) ?_ (fun hu => ?_); rotate_left; clear_value u; rotate_right) | (refine cut (p := Keeps base u.1) ?_ (fun hu => ?_); rotate_left; clear_value u; rotate_right) | (refine cut (p := Keeps base u.2) ?_ (fun hu => ?_); rotate_left; clear_value u; rotate_right) | (have := u.srcs; clear this; dsimp only [u]; clear u) | (have := fun x => u x; clear this) | clear_value u)
    | with_reducible apply State.modBlock_keeps
    | with_reducible apply State.modCell_keeps
    | with_reducible apply State.pulse_keeps
    | with_reducible apply State.wr_keeps
    | with_reducible apply State.wrs_keeps
    | with_reducible apply ite_keeps
    | simp only [keeps_mk_iff]
    | simp only [u, keeps_mk_iff]

theorem State.safeCell_keeps {s : State} (h : Keeps base s) (cause c : Nat) : Keeps base (State.safeCell s cause c) := by
  unfold State.safeCell
  repeat' first
    | with_reducible assumption
    | with_reducible apply State.enterSafe_keeps
    | with_reducible apply foldl_keeps
    | intro t x ht

theorem State.safeCells_keeps {s : State} (h : Keeps base s) (cause : Nat) (cs : List Nat) : Keeps base (State.safeCells s cause cs) := by
  unfold State.safeCells
  repeat' first
    | with_reducible assumption
    | with_reducible apply State.safeCell_keeps
    | with_reducible apply foldl_keeps
    | intro t x ht

theorem State.endSlice_keeps {s : State} (h : Keeps base s) (res : Nat) (done : Bool) : Keeps base (State.endSlice s res done) := by
  unfold State.endSlice
  repeat' first
    | with_reducible assumption
    | with_reducible apply State.wrs_keeps
    | simp only [keeps_mk_iff]

theorem State.abortSlice_keeps {s : State} (h : Keeps base s) (hit : Bool) : Keeps base (State.abortSlice s hit) := by
  unfold State.abortSlice
  repeat' first
    | with_reducible assumption
    | with_reducible apply State.count_keeps
    | with_reducible apply State.endSlice_keeps
    | with_reducible apply State.wr_keeps
    | with_reducible apply ite_keeps

theorem State.receiveFrame_keeps {s : State} (h : Keeps base s) (cmd hop : Nat) : Keeps base (State.receiveFrame s cmd hop) := by
  unfold State.receiveFrame
  repeat' first
    | with_reducible assumption
    | ((fail_if_no_progress extract_lets +onlyGivenNames u); first | (refine cut (p := Keeps base u) ?_ (fun hu => ?_); rotate_left; clear_value u; rotate_right) | (refine cut (p := Keeps base u.1) ?_ (fun hu => ?_); rotate_left; clear_value u; rotate_right) | (refine cut (p := Keeps base u.2) ?_ (fun hu => ?_); rotate_left; clear_value u; rotate_right) | (have := u.srcs; clear this; dsimp only [u]; clear u) | (have := fun x => u x; clear this) | clear_value u)
    | with_reducible apply State.count_keeps
    | with_reducible apply State.wr_keeps
    | with_reducible apply State.wrs_keeps
    | with_reducible apply ite_keeps
    | simp only [keeps_mk_iff]
    | simp only [u, keeps_mk_iff]

theorem State.cvyOut_keeps {s : State} (h : Keeps base s) (syms : List Nat) : Keeps base (State.cvyOut s syms) := by
  unfold State.cvyOut
  repeat' first
    | with_reducible assumption
    | simp only [keeps_mk_iff]

theorem State.sendFrame_keeps {s : State} (h : Keeps base s) (cmd : Nat) : Keeps base (State.sendFrame s cmd) := by
  unfold State.sendFrame
  repeat' first
    | with_reducible assumption
    | ((fail_if_no_progress extract_lets +onlyGivenNames u); first | (refine cut (p := Keeps base u) ?_ (fun hu => ?_); rotate_left; clear_value u; rotate_right) | (refine cut (p := Keeps base u.1) ?_ (fun hu => ?_); rotate_left; clear_value u; rotate_right) | (refine cut (p := Keeps base u.2) ?_ (fun hu => ?_); rotate_left; clear_value u; rotate_right) | (have := u.srcs; clear this; dsimp only [u]; clear u) | (have := fun x => u x; clear this) | clear_value u)
    | with_reducible apply State.cvyOut_keeps
    | with_reducible apply State.receiveFrame_keeps
    | with_reducible apply ite_keeps

theorem State.triggerFreeze_keeps {s : State} (h : Keeps base s) (cause cell : Nat) : Keeps base (State.triggerFreeze s cause cell) := by
  unfold State.triggerFreeze
  repeat' first
    | with_reducible assumption
    | ((fail_if_no_progress extract_lets +onlyGivenNames u); first | (refine cut (p := Keeps base u) ?_ (fun hu => ?_); rotate_left; clear_value u; rotate_right) | (refine cut (p := Keeps base u.1) ?_ (fun hu => ?_); rotate_left; clear_value u; rotate_right) | (refine cut (p := Keeps base u.2) ?_ (fun hu => ?_); rotate_left; clear_value u; rotate_right) | (have := u.srcs; clear this; dsimp only [u]; clear u) | (have := fun x => u x; clear this) | clear_value u)
    | with_reducible apply State.abortSlice_keeps
    | with_reducible apply State.count_keeps
    | with_reducible apply State.sendFrame_keeps
    | with_reducible apply State.wrs_keeps
    | with_reducible apply ite_keeps

theorem State.breakFreeze_keeps {s : State} (h : Keeps base s) (l : Nat) : Keeps base (State.breakFreeze s l) := by
  unfold State.breakFreeze
  repeat' first
    | with_reducible assumption
    | with_reducible apply State.triggerFreeze_keeps
    | with_reducible apply ite_keeps

theorem State.voidRun_keeps {s : State} (h : Keeps base s) (l cause reason : Nat) : Keeps base (State.voidRun s l cause reason) := by
  unfold State.voidRun
  repeat' first
    | with_reducible assumption
    | ((fail_if_no_progress extract_lets +onlyGivenNames u); first | (refine cut (p := Keeps base u) ?_ (fun hu => ?_); rotate_left; clear_value u; rotate_right) | (refine cut (p := Keeps base u.1) ?_ (fun hu => ?_); rotate_left; clear_value u; rotate_right) | (refine cut (p := Keeps base u.2) ?_ (fun hu => ?_); rotate_left; clear_value u; rotate_right) | (have := u.srcs; clear this; dsimp only [u]; clear u) | (have := fun x => u x; clear this) | clear_value u)
    | with_reducible apply State.count_keeps
    | with_reducible apply State.modRun_keeps
    | with_reducible apply State.wr_keeps
    | with_reducible apply State.wrAll_keeps
    | with_reducible apply State.wrs_keeps
    | with_reducible apply ite_keeps
    | simp only [keeps_mk_iff]
    | simp only [u, keeps_mk_iff]

theorem State.withdraw_keeps {s : State} (h : Keeps base s) (l : Nat) : Keeps base (State.withdraw s l) := by
  unfold State.withdraw
  repeat' first
    | with_reducible assumption
    | ((fail_if_no_progress extract_lets +onlyGivenNames u); first | (refine cut (p := Keeps base u) ?_ (fun hu => ?_); rotate_left; clear_value u; rotate_right) | (refine cut (p := Keeps base u.1) ?_ (fun hu => ?_); rotate_left; clear_value u; rotate_right) | (refine cut (p := Keeps base u.2) ?_ (fun hu => ?_); rotate_left; clear_value u; rotate_right) | (have := u.srcs; clear this; dsimp only [u]; clear u) | (have := fun x => u x; clear this) | clear_value u)
    | with_reducible apply State.modRegion_keeps
    | with_reducible apply State.wr_keeps
    | simp only [keeps_mk_iff]
    | simp only [u, keeps_mk_iff]
    | split
    | (dsimp only [u]; split)

theorem State.crowded_keeps {s : State} (h : Keeps base s) (c k : Nat) : Keeps base (State.crowded s c k) := by
  unfold State.crowded
  repeat' first
    | with_reducible assumption
    | with_reducible apply State.count_keeps
    | with_reducible apply State.wr_keeps
    | with_reducible apply ite_keeps

theorem State.flushEdges_keeps {s : State} (h : Keeps base s) (c : Nat) : Keeps base (State.flushEdges s c) := by
  unfold State.flushEdges
  repeat' first
    | with_reducible assumption
    | ((fail_if_no_progress extract_lets +onlyGivenNames u); first | (refine cut (p := Keeps base u) ?_ (fun hu => ?_); rotate_left; clear_value u; rotate_right) | (refine cut (p := Keeps base u.1) ?_ (fun hu => ?_); rotate_left; clear_value u; rotate_right) | (refine cut (p := Keeps base u.2) ?_ (fun hu => ?_); rotate_left; clear_value u; rotate_right) | (have := u.srcs; clear this; dsimp only [u]; clear u) | (have := fun x => u x; clear this) | clear_value u)
    | with_reducible apply State.crowded_keeps
    | with_reducible apply State.modCell_keeps
    | with_reducible apply ite_keeps
    | with_reducible apply foldl_keeps
    | intro t x ht
    | simp only [keeps_mk_iff]
    | simp only [u, keeps_mk_iff]

theorem State.dropEdges_keeps {s : State} (h : Keeps base s) (c : Nat) : Keeps base (State.dropEdges s c) := by
  unfold State.dropEdges
  repeat' first
    | with_reducible assumption
    | ((fail_if_no_progress extract_lets +onlyGivenNames u); first | (refine cut (p := Keeps base u) ?_ (fun hu => ?_); rotate_left; clear_value u; rotate_right) | (refine cut (p := Keeps base u.1) ?_ (fun hu => ?_); rotate_left; clear_value u; rotate_right) | (refine cut (p := Keeps base u.2) ?_ (fun hu => ?_); rotate_left; clear_value u; rotate_right) | (have := u.srcs; clear this; dsimp only [u]; clear u) | (have := fun x => u x; clear this) | clear_value u)
    | with_reducible apply State.crowded_keeps
    | with_reducible apply State.modCell_keeps
    | with_reducible apply foldl_keeps
    | intro t x ht
    | simp only [keeps_mk_iff]
    | simp only [u, keeps_mk_iff]

theorem State.leavesHalted_keeps {s : State} (h : Keeps base s) (l : Nat) : Keeps base (State.leavesHalted s l) := by
  unfold State.leavesHalted
  repeat' first
    | with_reducible assumption
    | simp only [keeps_mk_iff]

theorem State.haltCaravan_keeps {s : State} (h : Keeps base s) (l : Nat) (causes : List (Nat × Nat)) : Keeps base (State.haltCaravan s l causes) := by
  unfold State.haltCaravan
  repeat' first
    | with_reducible assumption
    | ((fail_if_no_progress extract_lets +onlyGivenNames u); first | (refine cut (p := Keeps base u) ?_ (fun hu => ?_); rotate_left; clear_value u; rotate_right) | (refine cut (p := Keeps base u.1) ?_ (fun hu => ?_); rotate_left; clear_value u; rotate_right) | (refine cut (p := Keeps base u.2) ?_ (fun hu => ?_); rotate_left; clear_value u; rotate_right) | (have := u.srcs; clear this; dsimp only [u]; clear u) | (have := fun x => u x; clear this) | clear_value u)
    | with_reducible apply State.flushEdges_keeps
    | with_reducible apply State.modCell_keeps
    | with_reducible apply State.modRun_keeps
    | with_reducible apply State.setCv_keeps
    | with_reducible apply State.withdraw_keeps
    | with_reducible apply State.wr_keeps
    | with_reducible apply State.wrAll_keeps
    | with_reducible apply State.wrs_keeps
    | with_reducible apply ite_keeps
    | with_reducible apply foldl_keeps
    | intro t x ht
    | simp only [keeps_mk_iff]
    | simp only [u, keeps_mk_iff]

theorem State.reject_keeps {s : State} (h : Keeps base s) (cnt code status : Fld) (op st : Nat) : Keeps base (State.reject s cnt code status op st) := by
  unfold State.reject
  repeat' first
    | with_reducible assumption
    | with_reducible apply State.count_keeps
    | with_reducible apply State.wrs_keeps

theorem State.rejectWord_keeps {s : State} (h : Keeps base s) (c w st : Nat) : Keeps base (State.rejectWord s c w st) := by
  unfold State.rejectWord
  repeat' first
    | with_reducible assumption
    | with_reducible apply State.reject_keeps
    | with_reducible apply State.wr_keeps

theorem State.seqIgnored_keeps {s : State} (h : Keeps base s) (c : Nat) : Keeps base (State.seqIgnored s c) := by
  unfold State.seqIgnored
  repeat' first
    | with_reducible assumption
    | with_reducible apply State.wr_keeps

theorem State.pinIgnored_keeps {s : State} (h : Keeps base s) (c : Nat) : Keeps base (State.pinIgnored s c) := by
  unfold State.pinIgnored
  repeat' first
    | with_reducible assumption
    | with_reducible apply State.wr_keeps

theorem State.rgnIgnored_keeps {s : State} (h : Keeps base s) (r : Nat) : Keeps base (State.rgnIgnored s r) := by
  unfold State.rgnIgnored
  repeat' first
    | with_reducible assumption
    | with_reducible apply State.wr_keeps

theorem State.ldgIgnored_keeps {s : State} (h : Keeps base s) (r : Nat) : Keeps base (State.ldgIgnored s r) := by
  unfold State.ldgIgnored
  repeat' first
    | with_reducible assumption
    | with_reducible apply State.wr_keeps

theorem State.setGreg_keeps {s : State} (h : Keeps base s) (c n v : Nat) : Keeps base (State.setGreg s c n v) := by
  unfold State.setGreg
  repeat' first
    | with_reducible assumption
    | with_reducible apply State.wrs_keeps

end Sys2Proof.Machine
end

