-- ==== Sys2Proof/Laws/Keeps/Steward.lean ====
section
/-! SUPPORT. `Keeps` through the operations of Machine/Steward.lean. -/

namespace Sys2Proof.Machine

variable {base : State}

theorem State.modSteward_keeps {s : State} (h : Keeps base s) (w : Nat) (f : Steward → Steward) :
    Keeps base (s.modSteward w f) :=
  keeps_tabs h id id id id id id id id (fun w => Tab.wf_set _ _ w) id id rfl


end Sys2Proof.Machine
end

