-- ==== Sys2Proof/Laws/Keeps/Access.lean ====
section
/-! SUPPORT. `Keeps` through the operations of Machine/Access.lean. -/

namespace Sys2Proof.Machine

variable {base : State}

theorem State.waits_keeps {s : State} (h : Keeps base s) (q : Req) : Keeps base (State.waits s q) := by
  unfold State.waits
  repeat' first
    | with_reducible assumption
    | with_reducible apply ite_keeps
    | simp only [keeps_mk_iff]

theorem State.waitsNot_keeps {s : State} (h : Keeps base s) (q : Req) : Keeps base (State.waitsNot s q) := by
  unfold State.waitsNot
  repeat' first
    | with_reducible assumption
    | with_reducible apply ite_keeps
    | simp only [keeps_mk_iff]

theorem State.cancelSleep_keeps {s : State} (h : Keeps base s)  : Keeps base (State.cancelSleep s) := by
  unfold State.cancelSleep
  repeat' first
    | with_reducible assumption
    | with_reducible apply State.wrs_keeps
    | with_reducible apply ite_keeps
    | simp only [keeps_mk_iff]

theorem State.endIdle_keeps {s : State} (h : Keeps base s)  : Keeps base (State.endIdle s) := by
  unfold State.endIdle
  repeat' first
    | with_reducible assumption
    | with_reducible apply State.cancelSleep_keeps
    | with_reducible apply State.count_keeps
    | with_reducible apply State.wrs_keeps
    | with_reducible apply ite_keeps
    | simp only [keeps_mk_iff]

theorem State.atReg_keeps {s : State} (h : Keeps base s) (m a : Nat) {act : State → State} (k : Nat)
    (ha : ∀ t, Keeps base t → Keeps base (act t)) : Keeps base (s.atReg m a act k) := by
  unfold State.atReg
  have he : Keeps base s.endIdle := State.endIdle_keeps h
  dsimp only
  repeat' split
  · simpa only [keeps_mk_iff] using h
  · simpa only [keeps_mk_iff] using he
  · simpa only [keeps_mk_iff] using he
  · exact State.waits_keeps he _
  · simpa only [keeps_mk_iff] using State.count_keeps he _ _
  · exact ha _ (State.waitsNot_keeps he _)


end Sys2Proof.Machine
end

