-- ==== Sys2Proof/Laws/Keeps/Apg.lean ====
section
/-! SUPPORT. `Keeps` through the operations of Machine/Apg.lean. -/

namespace Sys2Proof.Machine

variable {base : State}

theorem State.apgClean_keeps {s : State} (h : Keeps base s) (l : Nat) : Keeps base (State.apgClean s l) := by
  unfold State.apgClean
  repeat' first
    | with_reducible assumption
    | with_reducible apply State.modBlock_keeps
    | simp only [keeps_mk_iff]

theorem State.putApg_keeps {s : State} (h : Keeps base s) (b : Nat) (a : ApgS) : Keeps base (State.putApg s b a) := by
  unfold State.putApg
  repeat' first
    | with_reducible assumption
    | with_reducible apply State.wrs_keeps
    | with_reducible apply foldl_keeps
    | intro t x ht

theorem State.stepApg_keeps {s : State} (h : Keeps base s) (l code : Nat) : Keeps base (State.stepApg s l code) := by
  unfold State.stepApg
  repeat' first
    | with_reducible assumption
    | ((fail_if_no_progress extract_lets +onlyGivenNames u); first | (refine cut (p := Keeps base u) ?_ (fun hu => ?_); rotate_left; clear_value u; rotate_right) | (refine cut (p := Keeps base u.1) ?_ (fun hu => ?_); rotate_left; clear_value u; rotate_right) | (refine cut (p := Keeps base u.2) ?_ (fun hu => ?_); rotate_left; clear_value u; rotate_right) | (have := u.srcs; clear this; dsimp only [u]; clear u) | (have := fun x => u x; clear this) | clear_value u)
    | with_reducible apply State.count_keeps
    | with_reducible apply State.modRun_keeps
    | with_reducible apply State.putApg_keeps
    | with_reducible apply ite_keeps
    | simp only [keeps_mk_iff]
    | simp only [u, keeps_mk_iff]

theorem State.spread_keeps {s : State} (h : Keeps base s) (l : List Fld) (v : Nat) : Keeps base (s.spread l v) := by
  induction l generalizing s v with
  | nil => exact h
  | cons e l ih => exact ih (State.wr_keeps h _ _) _


theorem State.loadAreg_keeps {s : State} (h : Keeps base s) (b n v : Nat) : Keeps base (State.loadAreg s b n v) := by
  unfold State.loadAreg
  repeat' first
    | with_reducible assumption
    | with_reducible apply State.spread_keeps

theorem apgWindowWrite_keeps {s : State} (h : Keeps base s) (b off mask value : Nat) : Keeps base (apgWindowWrite s b off mask value) := by
  unfold apgWindowWrite
  repeat' first
    | with_reducible assumption
    | ((fail_if_no_progress extract_lets +onlyGivenNames u); first | (refine cut (p := Keeps base u) ?_ (fun hu => ?_); rotate_left; clear_value u; rotate_right) | (refine cut (p := Keeps base u.1) ?_ (fun hu => ?_); rotate_left; clear_value u; rotate_right) | (refine cut (p := Keeps base u.2) ?_ (fun hu => ?_); rotate_left; clear_value u; rotate_right) | (have := u.srcs; clear this; dsimp only [u]; clear u) | (have := fun x => u x; clear this) | clear_value u)
    | with_reducible apply State.wr_keeps
    | with_reducible apply ite_keeps
    | with_reducible apply foldl_keeps
    | intro t x ht
    | simp only [keeps_mk_iff]
    | simp only [u, keeps_mk_iff]
    | split
    | (dsimp only [u]; split)

theorem execApgWrite_runs (b off mask value : Nat) (s : State) : Runs s (execApgWrite b off mask value s) := by
  unfold execApgWrite
  repeat' first
    | with_reducible exact Keeps.refl _
    | with_reducible assumption
    | with_reducible apply Runs.next
    | with_reducible apply State.atReg_keeps
    | with_reducible apply apgWindowWrite_keeps
    | intro t x ht
    | intro t ht
    | dsimp only

end Sys2Proof.Machine
end

