-- ==== Sys2Proof/Laws/Keeps/Units.lean ====
section
/-! SUPPORT. `Keeps` through the operations of Machine/Units.lean. -/

namespace Sys2Proof.Machine

variable {base : State}

theorem State.useUnit_keeps {s : State} (h : Keeps base s) (b : Nat) (o : UnitOp) : Keeps base (s.useUnit b o).2 := by
  cases o with
  | mac u x y sx sy op =>
    dsimp only [State.useUnit]
    exact State.modBlock_keeps h _ _
  | crc => exact h
  | bch => exact h


theorem State.useUnits_keeps {s : State} (h : Keeps base s) (b : Nat) (l : List UnitOp) : Keeps base (s.useUnits b l).2 := by
  induction l generalizing s with
  | nil => exact h
  | cons o l ih => exact ih (State.useUnit_keeps h b o)


end Sys2Proof.Machine
end

