-- ==== Sys2Proof/Laws/Keeps/Timing.lean ====
section
/-! SUPPORT. `Keeps` through the operations of Machine/Timing.lean. -/

namespace Sys2Proof.Machine

variable {base : State}

theorem State.showUi_keeps {s : State} (h : Keeps base s) (b : Nat) : Keeps base (State.showUi s b) := by
  unfold State.showUi
  repeat' first
    | with_reducible assumption
    | with_reducible apply State.wr_keeps
    | with_reducible apply ite_keeps
    | with_reducible apply foldl_keeps
    | intro t x ht

theorem State.rescale_keeps {s : State} (h : Keeps base s) (c den : Nat) : Keeps base (State.rescale s c den) := by
  unfold State.rescale
  repeat' first
    | with_reducible assumption
    | ((fail_if_no_progress extract_lets +onlyGivenNames u); first | (refine cut (p := Keeps base u) ?_ (fun hu => ?_); rotate_left; clear_value u; rotate_right) | (refine cut (p := Keeps base u.1) ?_ (fun hu => ?_); rotate_left; clear_value u; rotate_right) | (refine cut (p := Keeps base u.2) ?_ (fun hu => ?_); rotate_left; clear_value u; rotate_right) | (have := u.srcs; clear this; dsimp only [u]; clear u) | (have := fun x => u x; clear this) | clear_value u)
    | with_reducible apply State.modCell_keeps
    | with_reducible apply ite_keeps
    | simp only [keeps_mk_iff]
    | simp only [u, keeps_mk_iff]

theorem State.setMult_keeps {s : State} (h : Keeps base s) (p m : Nat) : Keeps base (State.setMult s p m) := by
  unfold State.setMult
  repeat' first
    | with_reducible assumption
    | ((fail_if_no_progress extract_lets +onlyGivenNames u); first | (refine cut (p := Keeps base u) ?_ (fun hu => ?_); rotate_left; clear_value u; rotate_right) | (refine cut (p := Keeps base u.1) ?_ (fun hu => ?_); rotate_left; clear_value u; rotate_right) | (refine cut (p := Keeps base u.2) ?_ (fun hu => ?_); rotate_left; clear_value u; rotate_right) | (have := u.srcs; clear this; dsimp only [u]; clear u) | (have := fun x => u x; clear this) | clear_value u)
    | with_reducible apply State.modBlock_keeps
    | with_reducible apply State.rescale_keeps
    | with_reducible apply State.showUi_keeps
    | with_reducible apply foldl_keeps
    | intro t x ht
    | simp only [keeps_mk_iff]
    | simp only [u, keeps_mk_iff]

theorem State.rampStride_keeps {s : State} (h : Keeps base s) (l : Nat) : Keeps base (State.rampStride s l) := by
  unfold State.rampStride
  repeat' first
    | with_reducible assumption
    | ((fail_if_no_progress extract_lets +onlyGivenNames u); first | (refine cut (p := Keeps base u) ?_ (fun hu => ?_); rotate_left; clear_value u; rotate_right) | (refine cut (p := Keeps base u.1) ?_ (fun hu => ?_); rotate_left; clear_value u; rotate_right) | (refine cut (p := Keeps base u.2) ?_ (fun hu => ?_); rotate_left; clear_value u; rotate_right) | (have := u.srcs; clear this; dsimp only [u]; clear u) | (have := fun x => u x; clear this) | clear_value u)
    | with_reducible apply State.drawn_keeps
    | with_reducible apply State.setMult_keeps
    | with_reducible apply ite_keeps

theorem State.advance_keeps {s : State} (h : Keeps base s) (c t : Nat) (new : Nat → List Planned) : Keeps base (State.advance s c t new) := by
  unfold State.advance
  repeat' first
    | with_reducible assumption
    | ((fail_if_no_progress extract_lets +onlyGivenNames u); first | (refine cut (p := Keeps base u) ?_ (fun hu => ?_); rotate_left; clear_value u; rotate_right) | (refine cut (p := Keeps base u.1) ?_ (fun hu => ?_); rotate_left; clear_value u; rotate_right) | (refine cut (p := Keeps base u.2) ?_ (fun hu => ?_); rotate_left; clear_value u; rotate_right) | (have := u.srcs; clear this; dsimp only [u]; clear u) | (have := fun x => u x; clear this) | clear_value u)
    | with_reducible apply State.crowded_keeps
    | with_reducible apply State.modCell_keeps
    | with_reducible apply ite_keeps
    | with_reducible apply foldl_keeps
    | intro t x ht
    | simp only [keeps_mk_iff]
    | simp only [u, keeps_mk_iff]

theorem State.driveCheck_keeps {s : State} (h : Keeps base s) (c n : Nat) (held : Bool) (pin : Int) : Keeps base (State.driveCheck s c n held pin) := by
  unfold State.driveCheck
  repeat' first
    | with_reducible assumption
    | ((fail_if_no_progress extract_lets +onlyGivenNames u); first | (refine cut (p := Keeps base u) ?_ (fun hu => ?_); rotate_left; clear_value u; rotate_right) | (refine cut (p := Keeps base u.1) ?_ (fun hu => ?_); rotate_left; clear_value u; rotate_right) | (refine cut (p := Keeps base u.2) ?_ (fun hu => ?_); rotate_left; clear_value u; rotate_right) | (have := u.srcs; clear this; dsimp only [u]; clear u) | (have := fun x => u x; clear this) | clear_value u)
    | with_reducible apply State.count_keeps
    | with_reducible apply State.enterSafe_keeps
    | with_reducible apply State.report_keeps
    | with_reducible apply State.wr_keeps
    | with_reducible apply ite_keeps

theorem State.checkLane_keeps {s : State} (h : Keeps base s) (pins : List (Nat × Int)) (c n : Nat) : Keeps base (State.checkLane s pins c n) := by
  unfold State.checkLane
  repeat' first
    | with_reducible assumption
    | with_reducible apply State.drawn_keeps
    | with_reducible apply State.driveCheck_keeps
    | with_reducible apply ite_keeps
    | simp only [keeps_mk_iff]
    | split

theorem State.boundaryCheck_keeps {s : State} (h : Keeps base s) (cs : List Nat) (pins : List (Nat × Int)) : Keeps base (State.boundaryCheck s cs pins) := by
  unfold State.boundaryCheck
  repeat' first
    | with_reducible assumption
    | with_reducible apply State.checkLane_keeps
    | with_reducible apply foldl_keeps
    | intro t x ht

end Sys2Proof.Machine
end

