-- ==== Sys2Proof/Laws/Keeps/Flags.lean ====
section
/-! SUPPORT. `Keeps` through the operations of Machine/Flags.lean. -/

namespace Sys2Proof.Machine

variable {base : State}

theorem State.fabSeen_keeps {s : State} (h : Keeps base s) (c k t : Nat) : Keeps base (s.fabSeen c k t).2 := by
  unfold State.fabSeen
  dsimp only
  repeat' split
  all_goals first | exact h | exact State.drawn_keeps h


theorem State.condition_keeps {s : State} (h : Keeps base s) (l cond t : Nat) : Keeps base (s.condition l cond t).2 := by
  unfold State.condition
  dsimp only
  repeat' split
  all_goals first | exact h | exact State.drawn_keeps h | exact State.fabSeen_keeps h _ _ _


end Sys2Proof.Machine
end

