-- ==== Sys2Proof/Laws/Keeps/Stride.lean ====
section
/-! SUPPORT. `Keeps` through the operations of Machine/Stride.lean. -/

namespace Sys2Proof.Machine

variable {base : State}

theorem State.closeLoop_keeps {s : State} (h : Keeps base s) (l pc : Nat) : Keeps base (s.closeLoop l pc).1 := by
  unfold State.closeLoop
  dsimp only
  repeat' split
  · exact h
  · exact State.wrAll_keeps (State.wrAll_keeps h _ _ _) _ _ _
  · exact State.wrAll_keeps h _ _ _


theorem State.setActive_keeps {s : State} (h : Keeps base s) (c n : Nat) : Keeps base (State.setActive s c n) := by
  unfold State.setActive
  repeat' first
    | with_reducible assumption
    | with_reducible apply State.modCell_keeps
    | with_reducible apply State.wr_keeps
    | with_reducible apply State.wrs_keeps
    | with_reducible apply foldl_keeps
    | intro t x ht
    | simp only [keeps_mk_iff]

theorem State.stopDma_keeps {s : State} (h : Keeps base s) (c : Nat) : Keeps base (State.stopDma s c) := by
  unfold State.stopDma
  repeat' first
    | with_reducible assumption
    | with_reducible apply State.wr_keeps
    | with_reducible apply State.wrs_keeps
    | with_reducible apply foldl_keeps
    | intro t x ht

theorem State.chainDma_keeps {s : State} (h : Keeps base s) (c k : Nat) : Keeps base (s.chainDma c k) := by
  induction k generalizing s with
  | zero => exact h
  | succ k ih =>
    unfold State.chainDma
    dsimp only
    repeat' split
    all_goals first | exact h | exact ih (State.setActive_keeps h _ _) | exact State.stopDma_keeps h _


theorem State.flushRing_keeps {s : State} (h : Keeps base s) (c : Nat) : Keeps base (State.flushRing s c) := by
  unfold State.flushRing
  repeat' first
    | with_reducible assumption
    | with_reducible apply State.modCell_keeps
    | with_reducible apply State.stopDma_keeps
    | with_reducible apply State.wr_keeps
    | with_reducible apply State.wrs_keeps
    | with_reducible apply foldl_keeps
    | intro t x ht
    | simp only [keeps_mk_iff]

theorem State.primeRing_keeps {s : State} (h : Keeps base s) (c n : Nat) : Keeps base (State.primeRing s c n) := by
  unfold State.primeRing
  repeat' first
    | with_reducible assumption
    | with_reducible apply State.chainDma_keeps
    | with_reducible apply State.setActive_keeps

theorem State.useDesc_keeps {s : State} (h : Keeps base s) (c n : Nat) : Keeps base (State.useDesc s c n) := by
  unfold State.useDesc
  repeat' first
    | with_reducible assumption
    | ((fail_if_no_progress extract_lets +onlyGivenNames u); first | (refine cut (p := Keeps base u) ?_ (fun hu => ?_); rotate_left; clear_value u; rotate_right) | (refine cut (p := Keeps base u.1) ?_ (fun hu => ?_); rotate_left; clear_value u; rotate_right) | (refine cut (p := Keeps base u.2) ?_ (fun hu => ?_); rotate_left; clear_value u; rotate_right) | (have := u.srcs; clear this; dsimp only [u]; clear u) | (have := fun x => u x; clear this) | clear_value u)
    | with_reducible apply State.modCell_keeps
    | with_reducible apply State.wr_keeps
    | with_reducible apply ite_keeps
    | simp only [keeps_mk_iff]
    | simp only [u, keeps_mk_iff]

theorem State.consume_keeps {s : State} (h : Keeps base s) (c k : Nat) : Keeps base (State.consume s c k) := by
  unfold State.consume
  repeat' first
    | with_reducible assumption
    | ((fail_if_no_progress extract_lets +onlyGivenNames u); first | (refine cut (p := Keeps base u) ?_ (fun hu => ?_); rotate_left; clear_value u; rotate_right) | (refine cut (p := Keeps base u.1) ?_ (fun hu => ?_); rotate_left; clear_value u; rotate_right) | (refine cut (p := Keeps base u.2) ?_ (fun hu => ?_); rotate_left; clear_value u; rotate_right) | (have := u.srcs; clear this; dsimp only [u]; clear u) | (have := fun x => u x; clear this) | clear_value u)
    | with_reducible apply State.modCell_keeps
    | with_reducible apply State.useDesc_keeps
    | with_reducible apply State.wrs_keeps
    | with_reducible apply foldl_keeps
    | intro t x ht
    | simp only [keeps_mk_iff]
    | simp only [u, keeps_mk_iff]

theorem State.haltBefore_keeps {s : State} (h : Keeps base s) (l : Nat) (causes : List (Nat × Nat)) : Keeps base (State.haltBefore s l causes) := by
  unfold State.haltBefore
  repeat' first
    | with_reducible assumption
    | ((fail_if_no_progress extract_lets +onlyGivenNames u); first | (refine cut (p := Keeps base u) ?_ (fun hu => ?_); rotate_left; clear_value u; rotate_right) | (refine cut (p := Keeps base u.1) ?_ (fun hu => ?_); rotate_left; clear_value u; rotate_right) | (refine cut (p := Keeps base u.2) ?_ (fun hu => ?_); rotate_left; clear_value u; rotate_right) | (have := u.srcs; clear this; dsimp only [u]; clear u) | (have := fun x => u x; clear this) | clear_value u)
    | with_reducible apply State.breakFreeze_keeps
    | with_reducible apply State.haltCaravan_keeps
    | with_reducible apply State.rejectWord_keeps
    | with_reducible apply State.voidRun_keeps
    | with_reducible apply State.wr_keeps
    | with_reducible apply ite_keeps
    | with_reducible apply foldl_keeps
    | intro t x ht

theorem State.applyLoads_keeps {s : State} (h : Keeps base s) (sn c : Nat) : Keeps base (State.applyLoads s sn c) := by
  unfold State.applyLoads
  repeat' first
    | with_reducible assumption
    | ((fail_if_no_progress extract_lets +onlyGivenNames u); first | (refine cut (p := Keeps base u) ?_ (fun hu => ?_); rotate_left; clear_value u; rotate_right) | (refine cut (p := Keeps base u.1) ?_ (fun hu => ?_); rotate_left; clear_value u; rotate_right) | (refine cut (p := Keeps base u.2) ?_ (fun hu => ?_); rotate_left; clear_value u; rotate_right) | (have := u.srcs; clear this; dsimp only [u]; clear u) | (have := fun x => u x; clear this) | clear_value u)
    | with_reducible apply State.setCell_keeps
    | with_reducible apply State.wrs_keeps
    | with_reducible apply ite_keeps
    | with_reducible apply foldl_keeps
    | intro t x ht
    | simp only [keeps_mk_iff]
    | simp only [u, keeps_mk_iff]

theorem State.passStride_keeps {s : State} (h : Keeps base s) (l : Nat) (pins : List (Nat × Int)) : Keeps base (State.passStride s l pins) := by
  unfold State.passStride
  repeat' first
    | with_reducible assumption
    | ((fail_if_no_progress extract_lets +onlyGivenNames u); first | (refine cut (p := Keeps base u) ?_ (fun hu => ?_); rotate_left; clear_value u; rotate_right) | (refine cut (p := Keeps base u.1) ?_ (fun hu => ?_); rotate_left; clear_value u; rotate_right) | (refine cut (p := Keeps base u.2) ?_ (fun hu => ?_); rotate_left; clear_value u; rotate_right) | (have := u.srcs; clear this; dsimp only [u]; clear u) | (have := fun x => u x; clear this) | clear_value u)
    | with_reducible apply State.boundaryCheck_keeps
    | with_reducible apply State.modCell_keeps
    | with_reducible apply State.modRun_keeps
    | with_reducible apply State.wr_keeps
    | with_reducible apply State.wrAll_keeps
    | with_reducible apply ite_keeps
    | with_reducible apply foldl_keeps
    | intro t x ht
    | simp only [keeps_mk_iff]
    | simp only [u, keeps_mk_iff]

theorem State.holdPins_keeps {s : State} (h : Keeps base s) (c : Nat) : Keeps base (State.holdPins s c) := by
  unfold State.holdPins
  repeat' first
    | with_reducible assumption
    | ((fail_if_no_progress extract_lets +onlyGivenNames u); first | (refine cut (p := Keeps base u) ?_ (fun hu => ?_); rotate_left; clear_value u; rotate_right) | (refine cut (p := Keeps base u.1) ?_ (fun hu => ?_); rotate_left; clear_value u; rotate_right) | (refine cut (p := Keeps base u.2) ?_ (fun hu => ?_); rotate_left; clear_value u; rotate_right) | (have := u.srcs; clear this; dsimp only [u]; clear u) | (have := fun x => u x; clear this) | clear_value u)
    | with_reducible apply State.advance_keeps
    | with_reducible apply ite_keeps

theorem State.holdStride_keeps {s : State} (h : Keeps base s) (l : Nat) : Keeps base (State.holdStride s l) := by
  unfold State.holdStride
  repeat' first
    | with_reducible assumption
    | with_reducible apply State.applyLoads_keeps
    | with_reducible apply State.holdPins_keeps
    | with_reducible apply State.passStride_keeps
    | with_reducible apply State.rampStride_keeps
    | with_reducible apply foldl_keeps
    | intro t x ht

theorem State.holdStrides_keeps {s : State} (h : Keeps base s) (l n : Nat) : Keeps base (s.holdStrides l n) := by
  induction n generalizing s with
  | zero => exact h
  | succ n ih => exact ih (State.holdStride_keeps h l)


theorem State.confine_keeps {s : State} (h : Keeps base s) (l : Nat) : Keeps base (State.confine s l) := by
  unfold State.confine
  repeat' first
    | with_reducible assumption
    | ((fail_if_no_progress extract_lets +onlyGivenNames u); first | (refine cut (p := Keeps base u) ?_ (fun hu => ?_); rotate_left; clear_value u; rotate_right) | (refine cut (p := Keeps base u.1) ?_ (fun hu => ?_); rotate_left; clear_value u; rotate_right) | (refine cut (p := Keeps base u.2) ?_ (fun hu => ?_); rotate_left; clear_value u; rotate_right) | (have := u.srcs; clear this; dsimp only [u]; clear u) | (have := fun x => u x; clear this) | clear_value u)
    | with_reducible apply State.modRun_keeps
    | with_reducible apply ite_keeps
    | simp only [keeps_mk_iff]
    | simp only [u, keeps_mk_iff]

theorem State.collide_keeps {s : State} (h : Keeps base s) (c : Nat) : Keeps base (State.collide s c) := by
  unfold State.collide
  repeat' first
    | with_reducible assumption
    | with_reducible apply State.count_keeps
    | with_reducible apply State.wr_keeps

theorem State.padErrors_keeps {s : State} (h : Keeps base s) (c a port up : Nat) : Keeps base (State.padErrors s c a port up) := by
  unfold State.padErrors
  repeat' first
    | with_reducible assumption
    | ((fail_if_no_progress extract_lets +onlyGivenNames u); first | (refine cut (p := Keeps base u) ?_ (fun hu => ?_); rotate_left; clear_value u; rotate_right) | (refine cut (p := Keeps base u.1) ?_ (fun hu => ?_); rotate_left; clear_value u; rotate_right) | (refine cut (p := Keeps base u.2) ?_ (fun hu => ?_); rotate_left; clear_value u; rotate_right) | (have := u.srcs; clear this; dsimp only [u]; clear u) | (have := fun x => u x; clear this) | clear_value u)
    | with_reducible apply State.count_keeps
    | with_reducible apply State.eccAfter_keeps
    | with_reducible apply State.wrs_keeps
    | with_reducible apply ite_keeps

theorem State.fetchCell_keeps {s : State} (h : Keeps base s) (c a : Nat) (ring : Bool) (up : Nat) : Keeps base (State.fetchCell s c a ring up) := by
  unfold State.fetchCell
  repeat' first
    | with_reducible assumption
    | ((fail_if_no_progress extract_lets +onlyGivenNames u); first | (refine cut (p := Keeps base u) ?_ (fun hu => ?_); rotate_left; clear_value u; rotate_right) | (refine cut (p := Keeps base u.1) ?_ (fun hu => ?_); rotate_left; clear_value u; rotate_right) | (refine cut (p := Keeps base u.2) ?_ (fun hu => ?_); rotate_left; clear_value u; rotate_right) | (have := u.srcs; clear this; dsimp only [u]; clear u) | (have := fun x => u x; clear this) | clear_value u)
    | with_reducible apply State.collide_keeps
    | with_reducible apply State.modCell_keeps
    | with_reducible apply State.padErrors_keeps
    | with_reducible apply State.wr_keeps
    | with_reducible apply ite_keeps
    | simp only [keeps_mk_iff]
    | simp only [u, keeps_mk_iff]

theorem State.fetchAll_keeps {s : State} (h : Keeps base s) (l : Nat) (ups : List (Nat × Nat)) : Keeps base (State.fetchAll s l ups) := by
  unfold State.fetchAll
  repeat' first
    | with_reducible assumption
    | with_reducible apply State.fetchCell_keeps
    | with_reducible apply foldl_keeps
    | intro t x ht

theorem State.fetchNext_keeps {s : State} (h : Keeps base s) (l : Nat) : Keeps base (s.fetchNext l).1 := by
  unfold State.fetchNext
  extract_lets dry bad t
  repeat' split
  · exact h
  · exact h
  · exact State.fetchAll_keeps h _ _


theorem State.boundaryCauses_keeps {s : State} (h : Keeps base s) (l : Nat) : Keeps base (s.boundaryCauses l).1 := by
  unfold State.boundaryCauses
  dsimp only
  split
  · exact State.fetchNext_keeps h l
  · exact h


theorem State.haltAtBoundary_keeps {s : State} (h : Keeps base s) (l : Nat) (causes : List (Nat × Nat)) :
    Keeps base (s.haltAtBoundary l causes) :=
  State.haltBefore_keeps (State.boundaryCauses_keeps h l) _ _


theorem State.haltAfter_keeps {s : State} (h : Keeps base s) (l cause : Nat) : Keeps base (State.haltAfter s l cause) := by
  unfold State.haltAfter
  repeat' first
    | with_reducible assumption
    | with_reducible apply State.haltCaravan_keeps
    | with_reducible apply State.wr_keeps
    | with_reducible apply ite_keeps

theorem State.endWord_keeps {s : State} (h : Keeps base s) (l pc : Nat) (cause : Option Nat) : Keeps base (State.endWord s l pc cause) := by
  unfold State.endWord
  repeat' first
    | with_reducible assumption
    | ((fail_if_no_progress extract_lets +onlyGivenNames u); first | (refine cut (p := Keeps base u) ?_ (fun hu => ?_); rotate_left; clear_value u; rotate_right) | (refine cut (p := Keeps base u.1) ?_ (fun hu => ?_); rotate_left; clear_value u; rotate_right) | (refine cut (p := Keeps base u.2) ?_ (fun hu => ?_); rotate_left; clear_value u; rotate_right) | (have := u.srcs; clear this; dsimp only [u]; clear u) | (have := fun x => u x; clear this) | clear_value u)
    | with_reducible apply State.confine_keeps
    | with_reducible apply State.consume_keeps
    | with_reducible apply State.haltAfter_keeps
    | with_reducible apply State.haltAtBoundary_keeps
    | with_reducible apply State.modCell_keeps
    | with_reducible apply State.modRun_keeps
    | with_reducible apply State.wr_keeps
    | with_reducible apply State.wrAll_keeps
    | with_reducible apply ite_keeps
    | with_reducible apply foldl_keeps
    | intro t x ht
    | simp only [keeps_mk_iff]
    | simp only [u, keeps_mk_iff]
    | split
    | (dsimp only [u]; split)

theorem State.holdThen_keeps {s : State} (h : Keeps base s) (l : Nat) (ok : Nat → Bool) {fin : State → Nat → State}
    (hf : ∀ t w, Keeps base t → Keeps base (fin t w)) : Keeps base (s.holdThen l ok fin) := by
  unfold State.holdThen
  dsimp only
  repeat' split
  · exact h
  · exact h
  · exact State.haltBefore_keeps h _ _
  · exact hf _ _ (State.holdStrides_keeps h _ _)


theorem State.holdWord_keeps {s : State} (h : Keeps base s) (l : Nat) (ok : Nat → Bool)
    {eff : State → Nat → State × Nat × Option Nat} (hf : ∀ t w, Keeps base t → Keeps base (eff t w).1) :
    Keeps base (s.holdWord l ok eff) :=
  State.holdThen_keeps h l ok fun t w ht => State.endWord_keeps (hf t w ht) _ _ _


end Sys2Proof.Machine
end

