-- ==== Sys2Proof/Laws/Keeps/Vector.lean ====
section
/-! SUPPORT. `Keeps` through the operations of Machine/Vector.lean. -/

namespace Sys2Proof.Machine

variable {base : State}

theorem execFetch_runs (l : Nat) (ups : List (Nat × Nat)) (s : State) : Runs s (execFetch l ups s) := by
  unfold execFetch
  repeat' first
    | with_reducible exact Keeps.refl _
    | ((fail_if_no_progress extract_lets +onlyGivenNames u); first | (refine cut (p := Keeps s u) ?_ (fun hu => ?_); rotate_left; clear_value u; rotate_right) | (refine cut (p := Keeps s u.1) ?_ (fun hu => ?_); rotate_left; clear_value u; rotate_right) | (refine cut (p := Keeps s u.2) ?_ (fun hu => ?_); rotate_left; clear_value u; rotate_right) | (have := u.srcs; clear this; dsimp only [u]; clear u) | (have := fun x => u x; clear this) | clear_value u)
    | with_reducible assumption
    | with_reducible apply ite_runs
    | with_reducible apply Runs.next
    | with_reducible apply State.fetchAll_keeps
    | with_reducible apply State.haltBefore_keeps
    | with_reducible apply ite_keeps

theorem execUnderrunHold_runs (l : Nat) (s : State) : Runs s (execUnderrunHold l s) := by
  unfold execUnderrunHold
  repeat' first
    | with_reducible exact Keeps.refl _
    | ((fail_if_no_progress extract_lets +onlyGivenNames u); first | (refine cut (p := Keeps s u) ?_ (fun hu => ?_); rotate_left; clear_value u; rotate_right) | (refine cut (p := Keeps s u.1) ?_ (fun hu => ?_); rotate_left; clear_value u; rotate_right) | (refine cut (p := Keeps s u.2) ?_ (fun hu => ?_); rotate_left; clear_value u; rotate_right) | (have := u.srcs; clear this; dsimp only [u]; clear u) | (have := fun x => u x; clear this) | clear_value u)
    | with_reducible assumption
    | with_reducible apply ite_runs
    | with_reducible apply Runs.next
    | with_reducible apply State.count_keeps
    | with_reducible apply State.haltBefore_keeps
    | with_reducible apply State.holdStrides_keeps
    | with_reducible apply State.modRun_keeps
    | with_reducible apply State.voidRun_keeps
    | with_reducible apply ite_keeps
    | with_reducible apply foldl_keeps
    | intro t x ht
    | simp only [keeps_mk_iff]
    | simp only [u, keeps_mk_iff]

theorem execScLimit_runs (l : Nat) (s : State) : Runs s (execScLimit l s) := by
  unfold execScLimit
  repeat' first
    | with_reducible exact Keeps.refl _
    | with_reducible assumption
    | with_reducible apply ite_runs
    | with_reducible apply Runs.next
    | with_reducible apply State.haltAtBoundary_keeps
    | with_reducible apply ite_keeps

theorem State.memberVector_keeps {s : State} (h : Keeps base s) (l c w : Nat) (o : ApgOut) :
    Keeps base (s.memberVector l c w o).1 := by
  unfold State.memberVector
  extract_lets s1 lm nu p0 bonded p sl ls fab empty s2 flagIf s3 s4 xyz
  have h1 : Keeps base s1 := ite_keeps (State.wrs_keeps h _) h
  have hf : ∀ u f b, Keeps base u → Keeps base (flagIf u f b) := fun u f b hu => ite_keeps (State.wr_keeps hu _ _) hu
  exact State.advance_keeps (hf _ _ _ (hf _ _ _ (hf _ _ _ (hf _ _ _ (State.modCell_keeps h1 _ _))))) _ _ _


theorem State.depotRead_keeps {s : State} (h : Keeps base s) (b up : Nat) (takes : Bool) : Keeps base (State.depotRead s b up takes) := by
  unfold State.depotRead
  repeat' first
    | with_reducible assumption
    | ((fail_if_no_progress extract_lets +onlyGivenNames u); first | (refine cut (p := Keeps base u) ?_ (fun hu => ?_); rotate_left; clear_value u; rotate_right) | (refine cut (p := Keeps base u.1) ?_ (fun hu => ?_); rotate_left; clear_value u; rotate_right) | (refine cut (p := Keeps base u.2) ?_ (fun hu => ?_); rotate_left; clear_value u; rotate_right) | (have := u.srcs; clear this; dsimp only [u]; clear u) | (have := fun x => u x; clear this) | clear_value u)
    | with_reducible apply State.count_keeps
    | with_reducible apply State.eccAfter_keeps
    | with_reducible apply State.modBlock_keeps
    | with_reducible apply State.report_keeps
    | with_reducible apply State.wrs_keeps
    | with_reducible apply ite_keeps
    | simp only [keeps_mk_iff]
    | simp only [u, keeps_mk_iff]

theorem State.memberVectors_keeps {s : State} (h : Keeps base s) (l : Nat) (o : ApgOut) (cs : List Nat) :
    Keeps base (s.memberVectors l o cs).1 := by
  induction cs generalizing s with
  | nil => exact h
  | cons c cs ih => exact ih (State.memberVector_keeps h _ _ _ _)


theorem State.vectorStride_keeps {s : State} (h : Keeps base s) (l cls up : Nat) (pins : List (Nat × Int)) : Keeps base (State.vectorStride s l cls up pins) := by
  unfold State.vectorStride
  repeat' first
    | with_reducible assumption
    | ((fail_if_no_progress extract_lets +onlyGivenNames u); first | (refine cut (p := Keeps base u) ?_ (fun hu => ?_); rotate_left; clear_value u; rotate_right) | (refine cut (p := Keeps base u.1) ?_ (fun hu => ?_); rotate_left; clear_value u; rotate_right) | (refine cut (p := Keeps base u.2) ?_ (fun hu => ?_); rotate_left; clear_value u; rotate_right) | (have := u.srcs; clear this; dsimp only [u]; clear u) | (have := fun x => u x; clear this) | clear_value u)
    | with_reducible apply State.applyLoads_keeps
    | with_reducible apply State.closeLoop_keeps
    | with_reducible apply State.confine_keeps
    | with_reducible apply State.depotRead_keeps
    | with_reducible apply State.endWord_keeps
    | with_reducible apply State.haltBefore_keeps
    | with_reducible apply State.memberVectors_keeps
    | with_reducible apply State.modRun_keeps
    | with_reducible apply State.passStride_keeps
    | with_reducible apply State.rampStride_keeps
    | with_reducible apply State.stepApg_keeps
    | with_reducible apply State.voidRun_keeps
    | with_reducible apply ite_keeps
    | with_reducible apply foldl_keeps
    | intro t x ht
    | simp only [keeps_mk_iff]
    | simp only [u, keeps_mk_iff]
    | split
    | (dsimp only [u]; split)

theorem execVec_runs (l : Nat) (env : Nat × List (Nat × Int)) (s : State) : Runs s (execVec l env s) := by
  unfold execVec
  repeat' first
    | with_reducible exact Keeps.refl _
    | with_reducible assumption
    | with_reducible apply Runs.next
    | with_reducible apply State.vectorStride_keeps

theorem execVex_runs (l : Nat) (env : Nat × List (Nat × Int)) (s : State) : Runs s (execVex l env s) := by
  unfold execVex
  repeat' first
    | with_reducible exact Keeps.refl _
    | with_reducible assumption
    | with_reducible apply Runs.next
    | with_reducible apply State.vectorStride_keeps

theorem State.sendTap_keeps {s : State} (h : Keeps base s) (c : Nat) (fbits sc : Nat) (fc tmpl : Bool) : Keeps base (State.sendTap s c fbits sc fc tmpl) := by
  unfold State.sendTap
  repeat' first
    | with_reducible assumption
    | ((fail_if_no_progress extract_lets +onlyGivenNames u); first | (refine cut (p := Keeps base u) ?_ (fun hu => ?_); rotate_left; clear_value u; rotate_right) | (refine cut (p := Keeps base u.1) ?_ (fun hu => ?_); rotate_left; clear_value u; rotate_right) | (refine cut (p := Keeps base u.2) ?_ (fun hu => ?_); rotate_left; clear_value u; rotate_right) | (have := u.srcs; clear this; dsimp only [u]; clear u) | (have := fun x => u x; clear this) | clear_value u)
    | with_reducible apply State.count_keeps
    | with_reducible apply State.setCell_keeps
    | with_reducible apply State.wr_keeps
    | with_reducible apply ite_keeps
    | simp only [keeps_mk_iff]
    | simp only [u, keeps_mk_iff]

theorem State.pushRecord_keeps {s : State} (h : Keeps base s) (c : Nat) (r : FailRec) : Keeps base (State.pushRecord s c r) := by
  unfold State.pushRecord
  repeat' first
    | with_reducible assumption
    | with_reducible apply State.count_keeps
    | with_reducible apply State.modCell_keeps
    | with_reducible apply ite_keeps
    | simp only [keeps_mk_iff]

theorem State.resolveCell_keeps {s : State} (h : Keeps base s) (l : Nat) (v : Stride) (m : CellStride) (obs : Nat) (dual : Bool) : Keeps base (State.resolveCell s l v m obs dual) := by
  unfold State.resolveCell
  repeat' first
    | with_reducible assumption
    | ((fail_if_no_progress extract_lets +onlyGivenNames u); first | (refine cut (p := Keeps base u) ?_ (fun hu => ?_); rotate_left; clear_value u; rotate_right) | (refine cut (p := Keeps base u.1) ?_ (fun hu => ?_); rotate_left; clear_value u; rotate_right) | (refine cut (p := Keeps base u.2) ?_ (fun hu => ?_); rotate_left; clear_value u; rotate_right) | (have := u.srcs; clear this; dsimp only [u]; clear u) | (have := fun x => u x; clear this) | clear_value u)
    | with_reducible apply State.count_keeps
    | with_reducible apply State.modCell_keeps
    | with_reducible apply State.pulse_keeps
    | with_reducible apply State.pushRecord_keeps
    | with_reducible apply State.report_keeps
    | with_reducible apply State.sendTap_keeps
    | with_reducible apply State.wr_keeps
    | with_reducible apply ite_keeps
    | simp only [keeps_mk_iff]
    | simp only [u, keeps_mk_iff]

theorem State.templatePassed_keeps {s : State} (h : Keeps base s) (l k : Nat) (rs : List MemberResult) : Keeps base (State.templatePassed s l k rs) := by
  unfold State.templatePassed
  repeat' first
    | with_reducible assumption
    | with_reducible apply State.modRun_keeps
    | with_reducible apply ite_keeps
    | simp only [keeps_mk_iff]
    | split

theorem State.markCell_keeps {s : State} (h : Keeps base s) (id c : Nat) : Keeps base (State.markCell s id c) := by
  unfold State.markCell
  repeat' first
    | with_reducible assumption
    | with_reducible apply State.modCell_keeps
    | with_reducible apply ite_keeps
    | simp only [keeps_mk_iff]
    | split

theorem State.mark_keeps {s : State} (h : Keeps base s) (l : Nat) (alloc : Bool) : Keeps base (State.mark s l alloc) := by
  unfold State.mark
  repeat' first
    | with_reducible assumption
    | ((fail_if_no_progress extract_lets +onlyGivenNames u); first | (refine cut (p := Keeps base u) ?_ (fun hu => ?_); rotate_left; clear_value u; rotate_right) | (refine cut (p := Keeps base u.1) ?_ (fun hu => ?_); rotate_left; clear_value u; rotate_right) | (refine cut (p := Keeps base u.2) ?_ (fun hu => ?_); rotate_left; clear_value u; rotate_right) | (have := u.srcs; clear this; dsimp only [u]; clear u) | (have := fun x => u x; clear this) | clear_value u)
    | with_reducible apply State.markCell_keeps
    | with_reducible apply State.modRegion_keeps
    | with_reducible apply foldl_keeps
    | intro t x ht
    | simp only [keeps_mk_iff]
    | simp only [u, keeps_mk_iff]

theorem State.placeMarks_keeps {s : State} (h : Keeps base s) (l : Nat) : Keeps base (State.placeMarks s l) := by
  unfold State.placeMarks
  repeat' first
    | with_reducible assumption
    | ((fail_if_no_progress extract_lets +onlyGivenNames u); first | (refine cut (p := Keeps base u) ?_ (fun hu => ?_); rotate_left; clear_value u; rotate_right) | (refine cut (p := Keeps base u.1) ?_ (fun hu => ?_); rotate_left; clear_value u; rotate_right) | (refine cut (p := Keeps base u.2) ?_ (fun hu => ?_); rotate_left; clear_value u; rotate_right) | (have := u.srcs; clear this; dsimp only [u]; clear u) | (have := fun x => u x; clear this) | clear_value u)
    | with_reducible apply State.mark_keeps
    | with_reducible apply State.setRun_keeps
    | with_reducible apply ite_keeps
    | with_reducible apply foldl_keeps
    | intro t x ht
    | simp only [keeps_mk_iff]
    | simp only [u, keeps_mk_iff]

theorem State.resolveOne_keeps {s : State} (h : Keeps base s) (l : Nat) (obs : List (Nat × Nat)) (dual : List Nat) : Keeps base (State.resolveOne s l obs dual) := by
  unfold State.resolveOne
  repeat' first
    | with_reducible assumption
    | ((fail_if_no_progress extract_lets +onlyGivenNames u); first | (refine cut (p := Keeps base u) ?_ (fun hu => ?_); rotate_left; clear_value u; rotate_right) | (refine cut (p := Keeps base u.1) ?_ (fun hu => ?_); rotate_left; clear_value u; rotate_right) | (refine cut (p := Keeps base u.2) ?_ (fun hu => ?_); rotate_left; clear_value u; rotate_right) | (have := u.srcs; clear this; dsimp only [u]; clear u) | (have := fun x => u x; clear this) | clear_value u)
    | with_reducible apply State.modRun_keeps
    | with_reducible apply State.placeMarks_keeps
    | with_reducible apply State.resolveCell_keeps
    | with_reducible apply State.templatePassed_keeps
    | with_reducible apply ite_keeps
    | with_reducible apply foldl_keeps
    | intro t x ht
    | simp only [keeps_mk_iff]
    | simp only [u, keeps_mk_iff]
    | split
    | (dsimp only [u]; split)

theorem execResolve_runs (l : Nat) (obs : List (Nat × Nat)) (dual : List Nat) (s : State) : Runs s (execResolve l obs dual s) := by
  unfold execResolve
  repeat' first
    | with_reducible exact Keeps.refl _
    | with_reducible assumption
    | with_reducible apply ite_runs
    | with_reducible apply Runs.next
    | with_reducible apply State.resolveOne_keeps
    | with_reducible apply ite_keeps

end Sys2Proof.Machine
end

