-- ==== Sys2Proof/Laws/Keeps/Control.lean ====
section
/-! SUPPORT. `Keeps` through the operations of Machine/Control.lean. -/

namespace Sys2Proof.Machine

variable {base : State}

theorem State.aluWord_keeps {s : State} (h : Keeps base s) (c w : Nat) : Keeps base (State.aluWord s c w) := by
  unfold State.aluWord
  repeat' first
    | with_reducible assumption
    | with_reducible apply State.setGreg_keeps

theorem State.cmpWord_keeps {s : State} (h : Keeps base s) (c w : Nat) : Keeps base (State.cmpWord s c w) := by
  unfold State.cmpWord
  repeat' first
    | with_reducible assumption
    | ((fail_if_no_progress extract_lets +onlyGivenNames u); first | (refine cut (p := Keeps base u) ?_ (fun hu => ?_); rotate_left; clear_value u; rotate_right) | (refine cut (p := Keeps base u.1) ?_ (fun hu => ?_); rotate_left; clear_value u; rotate_right) | (refine cut (p := Keeps base u.2) ?_ (fun hu => ?_); rotate_left; clear_value u; rotate_right) | (have := u.srcs; clear this; dsimp only [u]; clear u) | (have := fun x => u x; clear this) | clear_value u)
    | with_reducible apply State.wrs_keeps

theorem State.moviWord_keeps {s : State} (h : Keeps base s) (c w : Nat) : Keeps base (State.moviWord s c w) := by
  unfold State.moviWord
  repeat' first
    | with_reducible assumption
    | with_reducible apply State.setGreg_keeps
    | with_reducible apply ite_keeps

theorem State.modeWord_keeps {s : State} (h : Keeps base s) (c w : Nat) : Keeps base (State.modeWord s c w) := by
  unfold State.modeWord
  repeat' first
    | with_reducible assumption
    | ((fail_if_no_progress extract_lets +onlyGivenNames u); first | (refine cut (p := Keeps base u) ?_ (fun hu => ?_); rotate_left; clear_value u; rotate_right) | (refine cut (p := Keeps base u.1) ?_ (fun hu => ?_); rotate_left; clear_value u; rotate_right) | (refine cut (p := Keeps base u.2) ?_ (fun hu => ?_); rotate_left; clear_value u; rotate_right) | (have := u.srcs; clear this; dsimp only [u]; clear u) | (have := fun x => u x; clear this) | clear_value u)
    | with_reducible apply State.wr_keeps
    | with_reducible apply ite_keeps

theorem State.tsetWord_keeps {s : State} (h : Keeps base s) (sn c w : Nat) : Keeps base (State.tsetWord s sn c w) := by
  unfold State.tsetWord
  repeat' first
    | with_reducible assumption
    | ((fail_if_no_progress extract_lets +onlyGivenNames u); first | (refine cut (p := Keeps base u) ?_ (fun hu => ?_); rotate_left; clear_value u; rotate_right) | (refine cut (p := Keeps base u.1) ?_ (fun hu => ?_); rotate_left; clear_value u; rotate_right) | (refine cut (p := Keeps base u.2) ?_ (fun hu => ?_); rotate_left; clear_value u; rotate_right) | (have := u.srcs; clear this; dsimp only [u]; clear u) | (have := fun x => u x; clear this) | clear_value u)
    | with_reducible apply State.modCell_keeps
    | simp only [keeps_mk_iff]
    | simp only [u, keeps_mk_iff]

theorem State.strmWord_keeps {s : State} (h : Keeps base s) (c w : Nat) : Keeps base (State.strmWord s c w) := by
  unfold State.strmWord
  repeat' first
    | with_reducible assumption
    | with_reducible apply State.flushRing_keeps
    | with_reducible apply State.primeRing_keeps
    | with_reducible apply ite_keeps

theorem State.memberWord_keeps {s : State} (h : Keeps base s) (sn c : Nat) : Keeps base (State.memberWord s sn c) := by
  unfold State.memberWord
  repeat' first
    | with_reducible assumption
    | ((fail_if_no_progress extract_lets +onlyGivenNames u); first | (refine cut (p := Keeps base u) ?_ (fun hu => ?_); rotate_left; clear_value u; rotate_right) | (refine cut (p := Keeps base u.1) ?_ (fun hu => ?_); rotate_left; clear_value u; rotate_right) | (refine cut (p := Keeps base u.2) ?_ (fun hu => ?_); rotate_left; clear_value u; rotate_right) | (have := u.srcs; clear this; dsimp only [u]; clear u) | (have := fun x => u x; clear this) | clear_value u)
    | with_reducible apply State.aluWord_keeps
    | with_reducible apply State.cmpWord_keeps
    | with_reducible apply State.modeWord_keeps
    | with_reducible apply State.moviWord_keeps
    | with_reducible apply State.strmWord_keeps
    | with_reducible apply State.tsetWord_keeps
    | with_reducible apply ite_keeps
    | simp only [keeps_mk_iff]
    | simp only [u, keeps_mk_iff]
    | split
    | (dsimp only [u]; split)

theorem State.tloadRead_keeps {s : State} (h : Keeps base s) (c j : Nat) : Keeps base (State.tloadRead s c j) := by
  unfold State.tloadRead
  repeat' first
    | with_reducible assumption
    | with_reducible apply State.padErrors_keeps
    | simp only [keeps_mk_iff]
    | split

theorem State.tloadWord_keeps {s : State} (h : Keeps base s) (c n : Nat) : Keeps base (State.tloadWord s c n) := by
  unfold State.tloadWord
  repeat' first
    | with_reducible assumption
    | ((fail_if_no_progress extract_lets +onlyGivenNames u); first | (refine cut (p := Keeps base u) ?_ (fun hu => ?_); rotate_left; clear_value u; rotate_right) | (refine cut (p := Keeps base u.1) ?_ (fun hu => ?_); rotate_left; clear_value u; rotate_right) | (refine cut (p := Keeps base u.2) ?_ (fun hu => ?_); rotate_left; clear_value u; rotate_right) | (have := u.srcs; clear this; dsimp only [u]; clear u) | (have := fun x => u x; clear this) | clear_value u)
    | with_reducible apply State.tloadRead_keeps
    | with_reducible apply State.wrs_keeps
    | with_reducible apply foldl_keeps
    | intro t x ht
    | simp only [keeps_mk_iff]
    | simp only [u, keeps_mk_iff]
    | split
    | (dsimp only [u]; split)

theorem State.memberWords_keeps {s : State} (h : Keeps base s) (l : Nat) : Keeps base (State.memberWords s l) := by
  unfold State.memberWords
  repeat' first
    | with_reducible assumption
    | ((fail_if_no_progress extract_lets +onlyGivenNames u); first | (refine cut (p := Keeps base u) ?_ (fun hu => ?_); rotate_left; clear_value u; rotate_right) | (refine cut (p := Keeps base u.1) ?_ (fun hu => ?_); rotate_left; clear_value u; rotate_right) | (refine cut (p := Keeps base u.2) ?_ (fun hu => ?_); rotate_left; clear_value u; rotate_right) | (have := u.srcs; clear this; dsimp only [u]; clear u) | (have := fun x => u x; clear this) | clear_value u)
    | with_reducible apply State.confine_keeps
    | with_reducible apply State.endWord_keeps
    | with_reducible apply State.haltBefore_keeps
    | with_reducible apply State.holdStrides_keeps
    | with_reducible apply State.memberWord_keeps
    | with_reducible apply State.tloadRead_keeps
    | with_reducible apply State.tloadWord_keeps
    | with_reducible apply ite_keeps
    | with_reducible apply foldl_keeps
    | intro t x ht

theorem State.memberStride_keeps {s : State} (h : Keeps base s) (l : Nat) (ok : Nat → Bool) : Keeps base (State.memberStride s l ok) := by
  unfold State.memberStride
  repeat' first
    | with_reducible assumption
    | with_reducible apply State.holdThen_keeps
    | with_reducible apply State.memberWords_keeps
    | intro t x ht
    | intro t ht
    | dsimp only

theorem execNop_runs (l : Nat) (s : State) : Runs s (execNop l s) := by
  unfold execNop
  repeat' first
    | with_reducible exact Keeps.refl _
    | with_reducible assumption
    | with_reducible apply Runs.next
    | with_reducible apply State.memberStride_keeps

theorem execMode_runs (l : Nat) (s : State) : Runs s (execMode l s) := by
  unfold execMode
  repeat' first
    | with_reducible exact Keeps.refl _
    | with_reducible assumption
    | with_reducible apply Runs.next
    | with_reducible apply State.memberStride_keeps

theorem execTset_runs (l : Nat) (s : State) : Runs s (execTset l s) := by
  unfold execTset
  repeat' first
    | with_reducible exact Keeps.refl _
    | with_reducible assumption
    | with_reducible apply Runs.next
    | with_reducible apply State.memberStride_keeps

theorem execAdd_runs (l : Nat) (s : State) : Runs s (execAdd l s) := by
  unfold execAdd
  repeat' first
    | with_reducible exact Keeps.refl _
    | with_reducible assumption
    | with_reducible apply Runs.next
    | with_reducible apply State.memberStride_keeps

theorem execSub_runs (l : Nat) (s : State) : Runs s (execSub l s) := by
  unfold execSub
  repeat' first
    | with_reducible exact Keeps.refl _
    | with_reducible assumption
    | with_reducible apply Runs.next
    | with_reducible apply State.memberStride_keeps

theorem execAnd_runs (l : Nat) (s : State) : Runs s (execAnd l s) := by
  unfold execAnd
  repeat' first
    | with_reducible exact Keeps.refl _
    | with_reducible assumption
    | with_reducible apply Runs.next
    | with_reducible apply State.memberStride_keeps

theorem execOr_runs (l : Nat) (s : State) : Runs s (execOr l s) := by
  unfold execOr
  repeat' first
    | with_reducible exact Keeps.refl _
    | with_reducible assumption
    | with_reducible apply Runs.next
    | with_reducible apply State.memberStride_keeps

theorem execXor_runs (l : Nat) (s : State) : Runs s (execXor l s) := by
  unfold execXor
  repeat' first
    | with_reducible exact Keeps.refl _
    | with_reducible assumption
    | with_reducible apply Runs.next
    | with_reducible apply State.memberStride_keeps

theorem execShl_runs (l : Nat) (s : State) : Runs s (execShl l s) := by
  unfold execShl
  repeat' first
    | with_reducible exact Keeps.refl _
    | with_reducible assumption
    | with_reducible apply Runs.next
    | with_reducible apply State.memberStride_keeps

theorem execShr_runs (l : Nat) (s : State) : Runs s (execShr l s) := by
  unfold execShr
  repeat' first
    | with_reducible exact Keeps.refl _
    | with_reducible assumption
    | with_reducible apply Runs.next
    | with_reducible apply State.memberStride_keeps

theorem execCmp_runs (l : Nat) (s : State) : Runs s (execCmp l s) := by
  unfold execCmp
  repeat' first
    | with_reducible exact Keeps.refl _
    | with_reducible assumption
    | with_reducible apply Runs.next
    | with_reducible apply State.memberStride_keeps

theorem execMovi_runs (l : Nat) (s : State) : Runs s (execMovi l s) := by
  unfold execMovi
  repeat' first
    | with_reducible exact Keeps.refl _
    | with_reducible assumption
    | with_reducible apply Runs.next
    | with_reducible apply State.memberStride_keeps

theorem execTload_runs (l : Nat) (s : State) : Runs s (execTload l s) := by
  unfold execTload
  repeat' first
    | with_reducible exact Keeps.refl _
    | with_reducible assumption
    | with_reducible apply Runs.next
    | with_reducible apply State.memberStride_keeps

theorem execStrmPrime_runs (l : Nat) (s : State) : Runs s (execStrmPrime l s) := by
  unfold execStrmPrime
  repeat' first
    | with_reducible exact Keeps.refl _
    | with_reducible assumption
    | with_reducible apply Runs.next
    | with_reducible apply State.memberStride_keeps

theorem execStrmFlush_runs (l : Nat) (s : State) : Runs s (execStrmFlush l s) := by
  unfold execStrmFlush
  repeat' first
    | with_reducible exact Keeps.refl _
    | with_reducible assumption
    | with_reducible apply Runs.next
    | with_reducible apply State.memberStride_keeps

theorem execTsetApply_runs (c : Nat) (s : State) : Runs s (execTsetApply c s) := by
  unfold execTsetApply
  repeat' first
    | with_reducible exact Keeps.refl _
    | with_reducible assumption
    | with_reducible apply ite_runs
    | with_reducible apply Runs.next
    | with_reducible apply State.applyLoads_keeps
    | with_reducible apply ite_keeps

theorem execHalt_runs (l : Nat) (s : State) : Runs s (execHalt l s) := by
  unfold execHalt
  repeat' first
    | with_reducible exact Keeps.refl _
    | with_reducible assumption
    | with_reducible apply Runs.next
    | with_reducible apply State.holdWord_keeps
    | with_reducible apply State.wr_keeps
    | intro t x ht
    | intro t ht
    | dsimp only

theorem execJmp_runs (l : Nat) (s : State) : Runs s (execJmp l s) := by
  unfold execJmp
  repeat' first
    | with_reducible exact Keeps.refl _
    | with_reducible assumption
    | with_reducible apply Runs.next
    | with_reducible apply State.holdWord_keeps
    | intro t x ht
    | intro t ht
    | dsimp only

theorem execJcc_runs (l : Nat) (s : State) : Runs s (execJcc l s) := by
  unfold execJcc
  repeat' first
    | with_reducible exact Keeps.refl _
    | ((fail_if_no_progress extract_lets +onlyGivenNames u); first | (refine cut (p := Keeps s u) ?_ (fun hu => ?_); rotate_left; clear_value u; rotate_right) | (refine cut (p := Keeps s u.1) ?_ (fun hu => ?_); rotate_left; clear_value u; rotate_right) | (refine cut (p := Keeps s u.2) ?_ (fun hu => ?_); rotate_left; clear_value u; rotate_right) | (have := u.srcs; clear this; dsimp only [u]; clear u) | (have := fun x => u x; clear this) | clear_value u)
    | with_reducible assumption
    | with_reducible apply ite_runs
    | with_reducible apply Runs.next
    | with_reducible apply State.condition_keeps
    | with_reducible apply State.holdWord_keeps
    | with_reducible apply ite_keeps
    | intro t x ht
    | intro t ht
    | dsimp only

theorem execCall_runs (l : Nat) (s : State) : Runs s (execCall l s) := by
  unfold execCall
  repeat' first
    | with_reducible exact Keeps.refl _
    | ((fail_if_no_progress extract_lets +onlyGivenNames u); first | (refine cut (p := Keeps s u) ?_ (fun hu => ?_); rotate_left; clear_value u; rotate_right) | (refine cut (p := Keeps s u.1) ?_ (fun hu => ?_); rotate_left; clear_value u; rotate_right) | (refine cut (p := Keeps s u.2) ?_ (fun hu => ?_); rotate_left; clear_value u; rotate_right) | (have := u.srcs; clear this; dsimp only [u]; clear u) | (have := fun x => u x; clear this) | clear_value u)
    | with_reducible assumption
    | with_reducible apply Runs.next
    | with_reducible apply State.holdWord_keeps
    | with_reducible apply State.wrAll_keeps
    | intro t x ht
    | intro t ht
    | dsimp only

theorem execRet_runs (l : Nat) (s : State) : Runs s (execRet l s) := by
  unfold execRet
  repeat' first
    | with_reducible exact Keeps.refl _
    | ((fail_if_no_progress extract_lets +onlyGivenNames u); first | (refine cut (p := Keeps s u) ?_ (fun hu => ?_); rotate_left; clear_value u; rotate_right) | (refine cut (p := Keeps s u.1) ?_ (fun hu => ?_); rotate_left; clear_value u; rotate_right) | (refine cut (p := Keeps s u.2) ?_ (fun hu => ?_); rotate_left; clear_value u; rotate_right) | (have := u.srcs; clear this; dsimp only [u]; clear u) | (have := fun x => u x; clear this) | clear_value u)
    | with_reducible assumption
    | with_reducible apply Runs.next
    | with_reducible apply State.holdWord_keeps
    | with_reducible apply State.wrAll_keeps
    | intro t x ht
    | intro t ht
    | dsimp only

theorem execLoopOpen_runs (l : Nat) (s : State) : Runs s (execLoopOpen l s) := by
  unfold execLoopOpen
  repeat' first
    | with_reducible exact Keeps.refl _
    | ((fail_if_no_progress extract_lets +onlyGivenNames u); first | (refine cut (p := Keeps s u) ?_ (fun hu => ?_); rotate_left; clear_value u; rotate_right) | (refine cut (p := Keeps s u.1) ?_ (fun hu => ?_); rotate_left; clear_value u; rotate_right) | (refine cut (p := Keeps s u.2) ?_ (fun hu => ?_); rotate_left; clear_value u; rotate_right) | (have := u.srcs; clear this; dsimp only [u]; clear u) | (have := fun x => u x; clear this) | clear_value u)
    | with_reducible assumption
    | with_reducible apply Runs.next
    | with_reducible apply State.holdWord_keeps
    | with_reducible apply State.wrAll_keeps
    | intro t x ht
    | intro t ht
    | dsimp only

theorem execLoopClose_runs (l : Nat) (s : State) : Runs s (execLoopClose l s) := by
  unfold execLoopClose
  repeat' first
    | with_reducible exact Keeps.refl _
    | ((fail_if_no_progress extract_lets +onlyGivenNames u); first | (refine cut (p := Keeps s u) ?_ (fun hu => ?_); rotate_left; clear_value u; rotate_right) | (refine cut (p := Keeps s u.1) ?_ (fun hu => ?_); rotate_left; clear_value u; rotate_right) | (refine cut (p := Keeps s u.2) ?_ (fun hu => ?_); rotate_left; clear_value u; rotate_right) | (have := u.srcs; clear this; dsimp only [u]; clear u) | (have := fun x => u x; clear this) | clear_value u)
    | with_reducible assumption
    | with_reducible apply Runs.next
    | with_reducible apply State.closeLoop_keeps
    | with_reducible apply State.holdWord_keeps
    | intro t x ht
    | intro t ht
    | dsimp only

theorem execLoopDrop_runs (l : Nat) (s : State) : Runs s (execLoopDrop l s) := by
  unfold execLoopDrop
  repeat' first
    | with_reducible exact Keeps.refl _
    | with_reducible assumption
    | with_reducible apply Runs.next
    | with_reducible apply State.holdWord_keeps
    | with_reducible apply State.wrAll_keeps
    | simp only [keeps_mk_iff]
    | split
    | intro t x ht
    | intro t ht
    | dsimp only

theorem State.clearWords_keeps {s : State} (h : Keeps base s) (l : Nat) : Keeps base (State.clearWords s l) := by
  unfold State.clearWords
  repeat' first
    | with_reducible assumption
    | with_reducible apply State.modCell_keeps
    | with_reducible apply foldl_keeps
    | intro t x ht
    | simp only [keeps_mk_iff]

theorem execMatch_runs (l : Nat) (s : State) : Runs s (execMatch l s) := by
  unfold execMatch
  repeat' first
    | with_reducible exact Keeps.refl _
    | with_reducible assumption
    | with_reducible apply Runs.next
    | with_reducible apply State.clearWords_keeps
    | with_reducible apply State.confine_keeps
    | with_reducible apply State.holdThen_keeps
    | with_reducible apply State.modRun_keeps
    | simp only [keeps_mk_iff]
    | intro t x ht
    | intro t ht
    | dsimp only

theorem State.setMatch_keeps {s : State} (h : Keeps base s) (l : Nat) (ok : Bool) : Keeps base (State.setMatch s l ok) := by
  unfold State.setMatch
  repeat' first
    | with_reducible assumption
    | with_reducible apply State.wrs_keeps

theorem State.endMatch_keeps {s : State} (h : Keeps base s) (l : Nat) (ok : Bool) : Keeps base (State.endMatch s l ok) := by
  unfold State.endMatch
  repeat' first
    | with_reducible assumption
    | with_reducible apply State.endWord_keeps
    | with_reducible apply State.setMatch_keeps

theorem execMatchCountExpiry_runs (l : Nat) (s : State) : Runs s (execMatchCountExpiry l s) := by
  unfold execMatchCountExpiry
  repeat' first
    | with_reducible exact Keeps.refl _
    | with_reducible assumption
    | with_reducible apply ite_runs
    | with_reducible apply Runs.next
    | with_reducible apply State.modRun_keeps
    | with_reducible apply ite_keeps
    | simp only [keeps_mk_iff]
    | split

theorem execMatchDrainEnd_runs (l : Nat) (s : State) : Runs s (execMatchDrainEnd l s) := by
  unfold execMatchDrainEnd
  repeat' first
    | with_reducible exact Keeps.refl _
    | ((fail_if_no_progress extract_lets +onlyGivenNames u); first | (refine cut (p := Keeps s u) ?_ (fun hu => ?_); rotate_left; clear_value u; rotate_right) | (refine cut (p := Keeps s u.1) ?_ (fun hu => ?_); rotate_left; clear_value u; rotate_right) | (refine cut (p := Keeps s u.2) ?_ (fun hu => ?_); rotate_left; clear_value u; rotate_right) | (have := u.srcs; clear this; dsimp only [u]; clear u) | (have := fun x => u x; clear this) | clear_value u)
    | with_reducible assumption
    | with_reducible apply ite_runs
    | with_reducible apply Runs.next
    | with_reducible apply State.endMatch_keeps
    | with_reducible apply State.haltBefore_keeps
    | with_reducible apply State.holdStrides_keeps
    | with_reducible apply ite_keeps
    | simp only [keeps_mk_iff]
    | simp only [u, keeps_mk_iff]
    | split
    | (dsimp only [u]; split)

theorem State.waitMore_keeps {s : State} (h : Keeps base s) (l left n : Nat) : Keeps base (State.waitMore s l left n) := by
  unfold State.waitMore
  repeat' first
    | with_reducible assumption
    | ((fail_if_no_progress extract_lets +onlyGivenNames u); first | (refine cut (p := Keeps base u) ?_ (fun hu => ?_); rotate_left; clear_value u; rotate_right) | (refine cut (p := Keeps base u.1) ?_ (fun hu => ?_); rotate_left; clear_value u; rotate_right) | (refine cut (p := Keeps base u.2) ?_ (fun hu => ?_); rotate_left; clear_value u; rotate_right) | (have := u.srcs; clear this; dsimp only [u]; clear u) | (have := fun x => u x; clear this) | clear_value u)
    | with_reducible apply State.haltBefore_keeps
    | with_reducible apply State.holdStrides_keeps
    | with_reducible apply State.modRun_keeps
    | with_reducible apply ite_keeps
    | simp only [keeps_mk_iff]
    | simp only [u, keeps_mk_iff]

theorem execWaitTime_runs (l n : Nat) (s : State) : Runs s (execWaitTime l n s) := by
  unfold execWaitTime
  repeat' first
    | with_reducible exact Keeps.refl _
    | with_reducible assumption
    | with_reducible apply ite_runs
    | with_reducible apply Runs.next
    | with_reducible apply State.confine_keeps
    | with_reducible apply State.holdThen_keeps
    | with_reducible apply State.modRun_keeps
    | with_reducible apply State.waitMore_keeps
    | with_reducible apply ite_keeps
    | simp only [keeps_mk_iff]
    | split
    | intro t x ht
    | intro t ht
    | dsimp only

theorem State.waitSees_keeps {s : State} (h : Keeps base s) (l cond t : Nat) : Keeps base (s.waitSees l cond t).2 := by
  unfold State.waitSees
  split
  · exact h
  · exact State.fabSeen_keeps h _ _ _


theorem State.endWait_keeps {s : State} (h : Keeps base s) (l cond : Nat) : Keeps base (State.endWait s l cond) := by
  unfold State.endWait
  repeat' first
    | with_reducible assumption
    | ((fail_if_no_progress extract_lets +onlyGivenNames u); first | (refine cut (p := Keeps base u) ?_ (fun hu => ?_); rotate_left; clear_value u; rotate_right) | (refine cut (p := Keeps base u.1) ?_ (fun hu => ?_); rotate_left; clear_value u; rotate_right) | (refine cut (p := Keeps base u.2) ?_ (fun hu => ?_); rotate_left; clear_value u; rotate_right) | (have := u.srcs; clear this; dsimp only [u]; clear u) | (have := fun x => u x; clear this) | clear_value u)
    | with_reducible apply State.endWord_keeps
    | with_reducible apply State.setMatch_keeps
    | with_reducible apply State.wr_keeps
    | with_reducible apply ite_keeps

theorem State.waitSteps_keeps {s : State} (h : Keeps base s) (l cond k left : Nat) :
    Keeps base (s.waitSteps l cond k left) := by
  induction k generalizing s left with
  | zero => cases left <;> exact State.modRun_keeps h _ _
  | succ k ih =>
    cases left with
    | zero => exact State.modRun_keeps h _ _
    | succ left =>
      unfold State.waitSteps
      dsimp only
      have ht := State.holdStrides_keeps (State.waitSees_keeps h l cond (s.run l).sn) l 1
      repeat' split
      · exact State.haltBefore_keeps (State.modRun_keeps h _ _) _ _
      · exact State.endWait_keeps ht _ _
      · exact ih ht _


theorem execWaitCond_runs (l n : Nat) (s : State) : Runs s (execWaitCond l n s) := by
  unfold execWaitCond
  repeat' first
    | with_reducible exact Keeps.refl _
    | ((fail_if_no_progress extract_lets +onlyGivenNames u); first | (refine cut (p := Keeps s u) ?_ (fun hu => ?_); rotate_left; clear_value u; rotate_right) | (refine cut (p := Keeps s u.1) ?_ (fun hu => ?_); rotate_left; clear_value u; rotate_right) | (refine cut (p := Keeps s u.2) ?_ (fun hu => ?_); rotate_left; clear_value u; rotate_right) | (have := u.srcs; clear this; dsimp only [u]; clear u) | (have := fun x => u x; clear this) | clear_value u)
    | with_reducible assumption
    | with_reducible apply ite_runs
    | with_reducible apply Runs.next
    | with_reducible apply State.confine_keeps
    | with_reducible apply State.endWait_keeps
    | with_reducible apply State.holdThen_keeps
    | with_reducible apply State.modRun_keeps
    | with_reducible apply State.waitSees_keeps
    | with_reducible apply State.waitSteps_keeps
    | with_reducible apply ite_keeps
    | simp only [keeps_mk_iff]
    | simp only [u, keeps_mk_iff]
    | split
    | (dsimp only [u]; split)
    | intro t x ht
    | intro t ht
    | dsimp only

theorem execWaitCountExpiry_runs (l : Nat) (s : State) : Runs s (execWaitCountExpiry l s) := by
  unfold execWaitCountExpiry
  repeat' first
    | with_reducible exact Keeps.refl _
    | ((fail_if_no_progress extract_lets +onlyGivenNames u); first | (refine cut (p := Keeps s u) ?_ (fun hu => ?_); rotate_left; clear_value u; rotate_right) | (refine cut (p := Keeps s u.1) ?_ (fun hu => ?_); rotate_left; clear_value u; rotate_right) | (refine cut (p := Keeps s u.2) ?_ (fun hu => ?_); rotate_left; clear_value u; rotate_right) | (have := u.srcs; clear this; dsimp only [u]; clear u) | (have := fun x => u x; clear this) | clear_value u)
    | with_reducible assumption
    | with_reducible apply ite_runs
    | with_reducible apply Runs.next
    | with_reducible apply State.endWord_keeps
    | with_reducible apply State.setMatch_keeps
    | with_reducible apply State.waitMore_keeps
    | with_reducible apply State.waitSteps_keeps
    | with_reducible apply ite_keeps
    | simp only [keeps_mk_iff]
    | simp only [u, keeps_mk_iff]
    | split
    | (dsimp only [u]; split)

theorem State.arrive_keeps {s : State} (h : Keeps base s) (l : Nat) : Keeps base (State.arrive s l) := by
  unfold State.arrive
  repeat' first
    | with_reducible assumption
    | ((fail_if_no_progress extract_lets +onlyGivenNames u); first | (refine cut (p := Keeps base u) ?_ (fun hu => ?_); rotate_left; clear_value u; rotate_right) | (refine cut (p := Keeps base u.1) ?_ (fun hu => ?_); rotate_left; clear_value u; rotate_right) | (refine cut (p := Keeps base u.2) ?_ (fun hu => ?_); rotate_left; clear_value u; rotate_right) | (have := u.srcs; clear this; dsimp only [u]; clear u) | (have := fun x => u x; clear this) | clear_value u)
    | with_reducible apply State.modRegion_keeps
    | with_reducible apply State.modRun_keeps
    | with_reducible apply State.wr_keeps
    | with_reducible apply ite_keeps
    | simp only [keeps_mk_iff]
    | simp only [u, keeps_mk_iff]
    | split
    | (dsimp only [u]; split)

theorem State.endSync_keeps {s : State} (h : Keeps base s) (l next : Nat) : Keeps base (State.endSync s l next) := by
  unfold State.endSync
  repeat' first
    | with_reducible assumption
    | ((fail_if_no_progress extract_lets +onlyGivenNames u); first | (refine cut (p := Keeps base u) ?_ (fun hu => ?_); rotate_left; clear_value u; rotate_right) | (refine cut (p := Keeps base u.1) ?_ (fun hu => ?_); rotate_left; clear_value u; rotate_right) | (refine cut (p := Keeps base u.2) ?_ (fun hu => ?_); rotate_left; clear_value u; rotate_right) | (have := u.srcs; clear this; dsimp only [u]; clear u) | (have := fun x => u x; clear this) | clear_value u)
    | with_reducible apply State.endWord_keeps
    | with_reducible apply State.modRun_keeps
    | simp only [keeps_mk_iff]
    | simp only [u, keeps_mk_iff]

theorem State.releasedMore_keeps {s : State} (h : Keeps base s) (l n : Nat) : Keeps base (State.releasedMore s l n) := by
  unfold State.releasedMore
  repeat' first
    | with_reducible assumption
    | ((fail_if_no_progress extract_lets +onlyGivenNames u); first | (refine cut (p := Keeps base u) ?_ (fun hu => ?_); rotate_left; clear_value u; rotate_right) | (refine cut (p := Keeps base u.1) ?_ (fun hu => ?_); rotate_left; clear_value u; rotate_right) | (refine cut (p := Keeps base u.2) ?_ (fun hu => ?_); rotate_left; clear_value u; rotate_right) | (have := u.srcs; clear this; dsimp only [u]; clear u) | (have := fun x => u x; clear this) | clear_value u)
    | with_reducible apply State.endSync_keeps
    | with_reducible apply State.haltBefore_keeps
    | with_reducible apply State.holdStrides_keeps
    | with_reducible apply State.modRun_keeps
    | with_reducible apply ite_keeps
    | simp only [keeps_mk_iff]
    | simp only [u, keeps_mk_iff]
    | split
    | (dsimp only [u]; split)

theorem State.syncMore_keeps {s : State} (h : Keeps base s) (l n : Nat) : Keeps base (State.syncMore s l n) := by
  unfold State.syncMore
  repeat' first
    | with_reducible assumption
    | ((fail_if_no_progress extract_lets +onlyGivenNames u); first | (refine cut (p := Keeps base u) ?_ (fun hu => ?_); rotate_left; clear_value u; rotate_right) | (refine cut (p := Keeps base u.1) ?_ (fun hu => ?_); rotate_left; clear_value u; rotate_right) | (refine cut (p := Keeps base u.2) ?_ (fun hu => ?_); rotate_left; clear_value u; rotate_right) | (have := u.srcs; clear this; dsimp only [u]; clear u) | (have := fun x => u x; clear this) | clear_value u)
    | with_reducible apply State.arrive_keeps
    | with_reducible apply State.haltBefore_keeps
    | with_reducible apply State.holdStrides_keeps
    | with_reducible apply ite_keeps

theorem execSync_runs (l n : Nat) (s : State) : Runs s (execSync l n s) := by
  unfold execSync
  repeat' first
    | with_reducible exact Keeps.refl _
    | with_reducible assumption
    | with_reducible apply ite_runs
    | with_reducible apply Runs.next
    | with_reducible apply State.confine_keeps
    | with_reducible apply State.holdThen_keeps
    | with_reducible apply State.modRun_keeps
    | with_reducible apply State.releasedMore_keeps
    | with_reducible apply State.syncMore_keeps
    | with_reducible apply ite_keeps
    | simp only [keeps_mk_iff]
    | split
    | intro t x ht
    | intro t ht
    | dsimp only

theorem execApg_runs (l : Nat) (s : State) : Runs s (execApg l s) := by
  unfold execApg
  repeat' first
    | with_reducible exact Keeps.refl _
    | ((fail_if_no_progress extract_lets +onlyGivenNames u); first | (refine cut (p := Keeps s u) ?_ (fun hu => ?_); rotate_left; clear_value u; rotate_right) | (refine cut (p := Keeps s u.1) ?_ (fun hu => ?_); rotate_left; clear_value u; rotate_right) | (refine cut (p := Keeps s u.2) ?_ (fun hu => ?_); rotate_left; clear_value u; rotate_right) | (have := u.srcs; clear this; dsimp only [u]; clear u) | (have := fun x => u x; clear this) | clear_value u)
    | with_reducible assumption
    | with_reducible apply ite_runs
    | with_reducible apply Runs.next
    | with_reducible apply State.endWord_keeps
    | with_reducible apply State.holdThen_keeps
    | with_reducible apply State.loadAreg_keeps
    | with_reducible apply State.modRun_keeps
    | with_reducible apply State.stepApg_keeps
    | with_reducible apply ite_keeps
    | simp only [keeps_mk_iff]
    | simp only [u, keeps_mk_iff]
    | intro t x ht
    | intro t ht
    | dsimp only

theorem State.pushEvent_keeps {s : State} (h : Keeps base s) (l code : Nat) : Keeps base (State.pushEvent s l code) := by
  unfold State.pushEvent
  repeat' first
    | with_reducible assumption
    | ((fail_if_no_progress extract_lets +onlyGivenNames u); first | (refine cut (p := Keeps base u) ?_ (fun hu => ?_); rotate_left; clear_value u; rotate_right) | (refine cut (p := Keeps base u.1) ?_ (fun hu => ?_); rotate_left; clear_value u; rotate_right) | (refine cut (p := Keeps base u.2) ?_ (fun hu => ?_); rotate_left; clear_value u; rotate_right) | (have := u.srcs; clear this; dsimp only [u]; clear u) | (have := fun x => u x; clear this) | clear_value u)
    | with_reducible apply State.count_keeps
    | with_reducible apply State.modCell_keeps
    | with_reducible apply State.pulse_keeps
    | with_reducible apply State.wr_keeps
    | with_reducible apply ite_keeps
    | simp only [keeps_mk_iff]
    | simp only [u, keeps_mk_iff]

theorem execEvent_runs (l : Nat) (s : State) : Runs s (execEvent l s) := by
  unfold execEvent
  repeat' first
    | with_reducible exact Keeps.refl _
    | with_reducible assumption
    | with_reducible apply Runs.next
    | with_reducible apply State.holdWord_keeps
    | with_reducible apply State.pushEvent_keeps
    | intro t x ht
    | intro t ht
    | dsimp only

theorem execStream_runs (l : Nat) (s : State) : Runs s (execStream l s) := by
  unfold execStream
  repeat' first
    | with_reducible exact Keeps.refl _
    | ((fail_if_no_progress extract_lets +onlyGivenNames u); first | (refine cut (p := Keeps s u) ?_ (fun hu => ?_); rotate_left; clear_value u; rotate_right) | (refine cut (p := Keeps s u.1) ?_ (fun hu => ?_); rotate_left; clear_value u; rotate_right) | (refine cut (p := Keeps s u.2) ?_ (fun hu => ?_); rotate_left; clear_value u; rotate_right) | (have := u.srcs; clear this; dsimp only [u]; clear u) | (have := fun x => u x; clear this) | clear_value u)
    | with_reducible assumption
    | with_reducible apply Runs.next
    | with_reducible apply State.holdWord_keeps
    | with_reducible apply State.modRun_keeps
    | with_reducible apply State.wrAll_keeps
    | simp only [keeps_mk_iff]
    | simp only [u, keeps_mk_iff]
    | intro t x ht
    | intro t ht
    | dsimp only

theorem execLedgerTag_runs (l : Nat) (s : State) : Runs s (execLedgerTag l s) := by
  unfold execLedgerTag
  repeat' first
    | with_reducible exact Keeps.refl _
    | with_reducible assumption
    | with_reducible apply Runs.next
    | with_reducible apply State.holdWord_keeps
    | with_reducible apply State.modRun_keeps
    | simp only [keeps_mk_iff]
    | intro t x ht
    | intro t ht
    | dsimp only

theorem execLedgerAcct_runs (l : Nat) (s : State) : Runs s (execLedgerAcct l s) := by
  unfold execLedgerAcct
  repeat' first
    | with_reducible exact Keeps.refl _
    | with_reducible assumption
    | with_reducible apply Runs.next
    | with_reducible apply State.holdWord_keeps
    | with_reducible apply State.modRun_keeps
    | simp only [keeps_mk_iff]
    | intro t x ht
    | intro t ht
    | dsimp only

theorem State.markWord_keeps {s : State} (h : Keeps base s) (l : Nat) (alloc : Bool) : Keeps base (State.markWord s l alloc) := by
  unfold State.markWord
  repeat' first
    | with_reducible assumption
    | with_reducible apply State.modRun_keeps
    | with_reducible apply State.placeMarks_keeps
    | simp only [keeps_mk_iff]

theorem execLedgerMark_runs (l : Nat) (s : State) : Runs s (execLedgerMark l s) := by
  unfold execLedgerMark
  repeat' first
    | with_reducible exact Keeps.refl _
    | with_reducible assumption
    | with_reducible apply Runs.next
    | with_reducible apply State.holdWord_keeps
    | with_reducible apply State.markWord_keeps
    | intro t x ht
    | intro t ht
    | dsimp only

theorem execLedgerAlloc_runs (l : Nat) (s : State) : Runs s (execLedgerAlloc l s) := by
  unfold execLedgerAlloc
  repeat' first
    | with_reducible exact Keeps.refl _
    | with_reducible assumption
    | with_reducible apply Runs.next
    | with_reducible apply State.holdWord_keeps
    | with_reducible apply State.markWord_keeps
    | intro t x ht
    | intro t ht
    | dsimp only

theorem execBond_runs (l : Nat) (s : State) : Runs s (execBond l s) := by
  unfold execBond
  repeat' first
    | with_reducible exact Keeps.refl _
    | ((fail_if_no_progress extract_lets +onlyGivenNames u); first | (refine cut (p := Keeps s u) ?_ (fun hu => ?_); rotate_left; clear_value u; rotate_right) | (refine cut (p := Keeps s u.1) ?_ (fun hu => ?_); rotate_left; clear_value u; rotate_right) | (refine cut (p := Keeps s u.2) ?_ (fun hu => ?_); rotate_left; clear_value u; rotate_right) | (have := u.srcs; clear this; dsimp only [u]; clear u) | (have := fun x => u x; clear this) | clear_value u)
    | with_reducible assumption
    | with_reducible apply ite_runs
    | with_reducible apply Runs.next
    | with_reducible apply State.holdWord_keeps
    | with_reducible apply State.modCell_keeps
    | with_reducible apply State.modRun_keeps
    | with_reducible apply ite_keeps
    | with_reducible apply foldl_keeps
    | intro t x ht
    | simp only [keeps_mk_iff]
    | simp only [u, keeps_mk_iff]
    | intro t x ht
    | intro t ht
    | dsimp only

theorem execBrk_runs (l : Nat) (s : State) : Runs s (execBrk l s) := by
  unfold execBrk
  repeat' first
    | with_reducible exact Keeps.refl _
    | with_reducible assumption
    | with_reducible apply Runs.next
    | with_reducible apply State.breakFreeze_keeps
    | with_reducible apply State.endWord_keeps
    | with_reducible apply State.holdThen_keeps
    | with_reducible apply State.wr_keeps
    | intro t x ht
    | intro t ht
    | dsimp only

theorem execCvcVoid_runs (l : Nat) (s : State) : Runs s (execCvcVoid l s) := by
  unfold execCvcVoid
  repeat' first
    | with_reducible exact Keeps.refl _
    | with_reducible assumption
    | with_reducible apply Runs.next
    | with_reducible apply State.holdWord_keeps
    | with_reducible apply State.voidRun_keeps
    | intro t x ht
    | intro t ht
    | dsimp only

theorem execCvcFlag_runs (l : Nat) (s : State) : Runs s (execCvcFlag l s) := by
  unfold execCvcFlag
  repeat' first
    | with_reducible exact Keeps.refl _
    | with_reducible assumption
    | with_reducible apply ite_runs
    | with_reducible apply Runs.next
    | with_reducible apply State.holdWord_keeps
    | with_reducible apply State.modRun_keeps
    | with_reducible apply ite_keeps
    | with_reducible apply foldl_keeps
    | intro t x ht
    | simp only [keeps_mk_iff]
    | intro t x ht
    | intro t ht
    | dsimp only

end Sys2Proof.Machine
end

