-- ==== Sys2Proof/Laws/Keeps/SeqCmd.lean ====
section
/-! SUPPORT. `Keeps` through the operations of Machine/SeqCmd.lean. -/

namespace Sys2Proof.Machine

variable {base : State}

theorem State.seqTouch_keeps {s : State} (h : Keeps base s) (c : Nat) : Keeps base (State.seqTouch s c) := by
  unfold State.seqTouch
  repeat' first
    | with_reducible assumption
    | with_reducible apply State.modRun_keeps
    | with_reducible apply ite_keeps
    | simp only [keeps_mk_iff]

theorem State.freeObs_keeps {s : State} (h : Keeps base s) (l : List CellStride) : Keeps base (s.freeObs l).1 := by
  induction l generalizing s with
  | nil => exact h
  | cons m l ih => exact ih (State.drawn_keeps h)


theorem State.settle_keeps {s : State} (h : Keeps base s) (l k : Nat) : Keeps base (s.settle l k) := by
  induction k generalizing s with
  | zero => exact h
  | succ k ih =>
    unfold State.settle
    split
    · exact h
    · exact ih (State.resolveOne_keeps (State.freeObs_keeps h _) _ _ _)


theorem State.settleAll_keeps {s : State} (h : Keeps base s) (l : Nat) : Keeps base (State.settleAll s l) := by
  unfold State.settleAll
  repeat' first
    | with_reducible assumption
    | with_reducible apply State.settle_keeps

theorem State.startCell_keeps {s : State} (h : Keeps base s) (c : Nat) : Keeps base (State.startCell s c) := by
  unfold State.startCell
  repeat' first
    | with_reducible assumption
    | ((fail_if_no_progress extract_lets +onlyGivenNames u); first | (refine cut (p := Keeps base u) ?_ (fun hu => ?_); rotate_left; clear_value u; rotate_right) | (refine cut (p := Keeps base u.1) ?_ (fun hu => ?_); rotate_left; clear_value u; rotate_right) | (refine cut (p := Keeps base u.2) ?_ (fun hu => ?_); rotate_left; clear_value u; rotate_right) | (have := u.srcs; clear this; dsimp only [u]; clear u) | (have := fun x => u x; clear this) | clear_value u)
    | with_reducible apply State.modCell_keeps
    | with_reducible apply State.wrs_keeps
    | simp only [keeps_mk_iff]
    | simp only [u, keeps_mk_iff]

theorem State.startPipe_keeps {s : State} (h : Keeps base s) (l c : Nat) : Keeps base (State.startPipe s l c) := by
  unfold State.startPipe
  repeat' first
    | with_reducible assumption
    | with_reducible apply State.applyLoads_keeps
    | with_reducible apply State.modCell_keeps
    | simp only [keeps_mk_iff]

theorem State.startRun_keeps {s : State} (h : Keeps base s) (l : Nat) (convoy : Bool) : Keeps base (State.startRun s l convoy) := by
  unfold State.startRun
  repeat' first
    | with_reducible assumption
    | ((fail_if_no_progress extract_lets +onlyGivenNames u); first | (refine cut (p := Keeps base u) ?_ (fun hu => ?_); rotate_left; clear_value u; rotate_right) | (refine cut (p := Keeps base u.1) ?_ (fun hu => ?_); rotate_left; clear_value u; rotate_right) | (refine cut (p := Keeps base u.2) ?_ (fun hu => ?_); rotate_left; clear_value u; rotate_right) | (have := u.srcs; clear this; dsimp only [u]; clear u) | (have := fun x => u x; clear this) | clear_value u)
    | with_reducible apply State.apgClean_keeps
    | with_reducible apply State.leavesHalted_keeps
    | with_reducible apply State.setCv_keeps
    | with_reducible apply State.setRun_keeps
    | with_reducible apply State.settleAll_keeps
    | with_reducible apply State.startCell_keeps
    | with_reducible apply State.startPipe_keeps
    | with_reducible apply State.wr_keeps
    | with_reducible apply ite_keeps
    | with_reducible apply foldl_keeps
    | intro t x ht
    | simp only [keeps_mk_iff]
    | simp only [u, keeps_mk_iff]

theorem State.convoyGoRun_keeps {s : State} (h : Keeps base s) (l : Nat) : Keeps base (State.convoyGoRun s l) := by
  unfold State.convoyGoRun
  repeat' first
    | with_reducible assumption
    | ((fail_if_no_progress extract_lets +onlyGivenNames u); first | (refine cut (p := Keeps base u) ?_ (fun hu => ?_); rotate_left; clear_value u; rotate_right) | (refine cut (p := Keeps base u.1) ?_ (fun hu => ?_); rotate_left; clear_value u; rotate_right) | (refine cut (p := Keeps base u.2) ?_ (fun hu => ?_); rotate_left; clear_value u; rotate_right) | (have := u.srcs; clear this; dsimp only [u]; clear u) | (have := fun x => u x; clear this) | clear_value u)
    | with_reducible apply State.modCell_keeps
    | with_reducible apply State.modRun_keeps
    | with_reducible apply State.setCv_keeps
    | with_reducible apply foldl_keeps
    | intro t x ht
    | simp only [keeps_mk_iff]
    | simp only [u, keeps_mk_iff]

theorem State.resumeRun_keeps {s : State} (h : Keeps base s) (l : Nat) (step : Bool) : Keeps base (State.resumeRun s l step) := by
  unfold State.resumeRun
  repeat' first
    | with_reducible assumption
    | ((fail_if_no_progress extract_lets +onlyGivenNames u); first | (refine cut (p := Keeps base u) ?_ (fun hu => ?_); rotate_left; clear_value u; rotate_right) | (refine cut (p := Keeps base u.1) ?_ (fun hu => ?_); rotate_left; clear_value u; rotate_right) | (refine cut (p := Keeps base u.2) ?_ (fun hu => ?_); rotate_left; clear_value u; rotate_right) | (have := u.srcs; clear this; dsimp only [u]; clear u) | (have := fun x => u x; clear this) | clear_value u)
    | with_reducible apply State.leavesHalted_keeps
    | with_reducible apply State.modCell_keeps
    | with_reducible apply State.modRun_keeps
    | with_reducible apply State.setCv_keeps
    | with_reducible apply State.wrAll_keeps
    | with_reducible apply ite_keeps
    | with_reducible apply foldl_keeps
    | intro t x ht
    | simp only [keeps_mk_iff]
    | simp only [u, keeps_mk_iff]

theorem State.stopRun_keeps {s : State} (h : Keeps base s) (l : Nat) : Keeps base (State.stopRun s l) := by
  unfold State.stopRun
  repeat' first
    | with_reducible assumption
    | with_reducible apply State.haltAtBoundary_keeps
    | with_reducible apply State.haltCaravan_keeps
    | with_reducible apply ite_keeps

theorem State.abortRun_keeps {s : State} (h : Keeps base s) (l : Nat) : Keeps base (State.abortRun s l) := by
  unfold State.abortRun
  repeat' first
    | with_reducible assumption
    | ((fail_if_no_progress extract_lets +onlyGivenNames u); first | (refine cut (p := Keeps base u) ?_ (fun hu => ?_); rotate_left; clear_value u; rotate_right) | (refine cut (p := Keeps base u.1) ?_ (fun hu => ?_); rotate_left; clear_value u; rotate_right) | (refine cut (p := Keeps base u.2) ?_ (fun hu => ?_); rotate_left; clear_value u; rotate_right) | (have := u.srcs; clear this; dsimp only [u]; clear u) | (have := fun x => u x; clear this) | clear_value u)
    | with_reducible apply State.safeCells_keeps
    | with_reducible apply State.stopRun_keeps
    | with_reducible apply State.wr_keeps
    | with_reducible apply ite_keeps

theorem State.judgeSeq_keeps {s : State} (h : Keeps base s) (c op desc : Nat) (convoy : Bool) :
    Keeps base (s.judgeSeq c op desc convoy).1 := by
  unfold State.judgeSeq
  dsimp only
  have ha := fun b => State.abortSlice_keeps h b
  repeat' split
  all_goals first
    | with_reducible exact h
    | with_reducible exact ha _
    | with_reducible exact State.startRun_keeps (ha _) _ _
    | with_reducible exact State.stopRun_keeps h _
    | with_reducible exact State.resumeRun_keeps (ha _) _ _
    | with_reducible exact State.abortRun_keeps h _
    | with_reducible exact State.voidRun_keeps h _ _ _
    | with_reducible exact State.primeRing_keeps h _ _
    | with_reducible exact State.flushRing_keeps h _


theorem State.rejectSeq_keeps {s : State} (h : Keeps base s) (c op st : Nat) : Keeps base (State.rejectSeq s c op st) := by
  unfold State.rejectSeq
  repeat' first
    | with_reducible assumption
    | with_reducible apply State.reject_keeps
    | with_reducible apply State.wr_keeps

theorem State.runSeq_keeps {s : State} (h : Keeps base s) (c op desc : Nat) (convoy touch : Bool) : Keeps base (State.runSeq s c op desc convoy touch) := by
  unfold State.runSeq
  repeat' first
    | with_reducible assumption
    | ((fail_if_no_progress extract_lets +onlyGivenNames u); first | (refine cut (p := Keeps base u) ?_ (fun hu => ?_); rotate_left; clear_value u; rotate_right) | (refine cut (p := Keeps base u.1) ?_ (fun hu => ?_); rotate_left; clear_value u; rotate_right) | (refine cut (p := Keeps base u.2) ?_ (fun hu => ?_); rotate_left; clear_value u; rotate_right) | (have := u.srcs; clear this; dsimp only [u]; clear u) | (have := fun x => u x; clear this) | clear_value u)
    | with_reducible apply State.judgeSeq_keeps
    | with_reducible apply State.rejectSeq_keeps
    | with_reducible apply State.seqTouch_keeps
    | with_reducible apply State.wrs_keeps
    | with_reducible apply ite_keeps

theorem State.seqCommand_keeps {s : State} (h : Keeps base s) (c op desc : Nat) (convoy touch : Bool) : Keeps base (State.seqCommand s c op desc convoy touch) := by
  unfold State.seqCommand
  repeat' first
    | with_reducible assumption
    | with_reducible apply State.modCell_keeps
    | with_reducible apply State.rejectSeq_keeps
    | with_reducible apply State.runSeq_keeps
    | with_reducible apply State.wr_keeps
    | with_reducible apply ite_keeps
    | simp only [keeps_mk_iff]

theorem State.judgePending_keeps {s : State} (h : Keeps base s) (b : Nat) : Keeps base (State.judgePending s b) := by
  unfold State.judgePending
  repeat' first
    | with_reducible assumption
    | with_reducible apply State.modCell_keeps
    | with_reducible apply State.runSeq_keeps
    | with_reducible apply ite_keeps
    | with_reducible apply foldl_keeps
    | intro t x ht
    | simp only [keeps_mk_iff]
    | split

theorem execStart_runs (c : Nat) (convoy : Bool) (s : State) : Runs s (execStart c convoy s) := by
  unfold execStart
  repeat' first
    | with_reducible exact Keeps.refl _
    | with_reducible assumption
    | with_reducible apply Runs.next
    | with_reducible apply State.atReg_keeps
    | with_reducible apply State.seqCommand_keeps
    | intro t x ht
    | intro t ht
    | dsimp only

theorem execStop_runs (c : Nat) (s : State) : Runs s (execStop c s) := by
  unfold execStop
  repeat' first
    | with_reducible exact Keeps.refl _
    | with_reducible assumption
    | with_reducible apply Runs.next
    | with_reducible apply State.atReg_keeps
    | with_reducible apply State.seqCommand_keeps
    | intro t x ht
    | intro t ht
    | dsimp only

theorem execResume_runs (c : Nat) (s : State) : Runs s (execResume c s) := by
  unfold execResume
  repeat' first
    | with_reducible exact Keeps.refl _
    | with_reducible assumption
    | with_reducible apply Runs.next
    | with_reducible apply State.atReg_keeps
    | with_reducible apply State.seqCommand_keeps
    | intro t x ht
    | intro t ht
    | dsimp only

theorem execStep_runs (c : Nat) (s : State) : Runs s (execStep c s) := by
  unfold execStep
  repeat' first
    | with_reducible exact Keeps.refl _
    | with_reducible assumption
    | with_reducible apply Runs.next
    | with_reducible apply State.atReg_keeps
    | with_reducible apply State.seqCommand_keeps
    | intro t x ht
    | intro t ht
    | dsimp only

theorem execAbort_runs (c : Nat) (s : State) : Runs s (execAbort c s) := by
  unfold execAbort
  repeat' first
    | with_reducible exact Keeps.refl _
    | with_reducible assumption
    | with_reducible apply Runs.next
    | with_reducible apply State.atReg_keeps
    | with_reducible apply State.seqCommand_keeps
    | intro t x ht
    | intro t ht
    | dsimp only

theorem execVoid_runs (c : Nat) (s : State) : Runs s (execVoid c s) := by
  unfold execVoid
  repeat' first
    | with_reducible exact Keeps.refl _
    | with_reducible assumption
    | with_reducible apply Runs.next
    | with_reducible apply State.atReg_keeps
    | with_reducible apply State.seqCommand_keeps
    | intro t x ht
    | intro t ht
    | dsimp only

theorem execPrime_runs (c desc : Nat) (s : State) : Runs s (execPrime c desc s) := by
  unfold execPrime
  repeat' first
    | with_reducible exact Keeps.refl _
    | with_reducible assumption
    | with_reducible apply Runs.next
    | with_reducible apply State.atReg_keeps
    | with_reducible apply State.seqCommand_keeps
    | intro t x ht
    | intro t ht
    | dsimp only

theorem execFlush_runs (c : Nat) (s : State) : Runs s (execFlush c s) := by
  unfold execFlush
  repeat' first
    | with_reducible exact Keeps.refl _
    | with_reducible assumption
    | with_reducible apply Runs.next
    | with_reducible apply State.atReg_keeps
    | with_reducible apply State.seqCommand_keeps
    | intro t x ht
    | intro t ht
    | dsimp only

theorem State.writeNextPc_keeps {s : State} (h : Keeps base s) (c v : Nat) : Keeps base (State.writeNextPc s c v) := by
  unfold State.writeNextPc
  repeat' first
    | with_reducible assumption
    | with_reducible apply State.wrs_keeps

theorem execNextPcWrite_runs (c v : Nat) (s : State) : Runs s (execNextPcWrite c v s) := by
  unfold execNextPcWrite
  repeat' first
    | with_reducible exact Keeps.refl _
    | with_reducible assumption
    | with_reducible apply Runs.next
    | with_reducible apply State.atReg_keeps
    | with_reducible apply State.seqTouch_keeps
    | with_reducible apply State.writeNextPc_keeps
    | intro t x ht
    | intro t ht
    | dsimp only

theorem State.writeEvt_keeps {s : State} (h : Keeps base s) (c v : Nat) : Keeps base (State.writeEvt s c v) := by
  unfold State.writeEvt
  repeat' first
    | with_reducible assumption
    | with_reducible apply State.seqIgnored_keeps
    | with_reducible apply State.wr_keeps
    | with_reducible apply ite_keeps

theorem execEvtSet_runs (c v : Nat) (s : State) : Runs s (execEvtSet c v s) := by
  unfold execEvtSet
  repeat' first
    | with_reducible exact Keeps.refl _
    | with_reducible assumption
    | with_reducible apply Runs.next
    | with_reducible apply State.atReg_keeps
    | with_reducible apply State.seqTouch_keeps
    | with_reducible apply State.writeEvt_keeps
    | intro t x ht
    | intro t ht
    | dsimp only

theorem State.popEvq_keeps {s : State} (h : Keeps base s) (c : Nat) : Keeps base (State.popEvq s c) := by
  unfold State.popEvq
  repeat' first
    | with_reducible assumption
    | with_reducible apply State.modCell_keeps
    | simp only [keeps_mk_iff]

theorem execEvqRead_runs (c : Nat) (s : State) : Runs s (execEvqRead c s) := by
  unfold execEvqRead
  repeat' first
    | with_reducible exact Keeps.refl _
    | with_reducible assumption
    | with_reducible apply Runs.next
    | with_reducible apply State.atReg_keeps
    | with_reducible apply State.popEvq_keeps
    | simp only [keeps_mk_iff]
    | intro t x ht
    | intro t ht
    | dsimp only

theorem State.armDesc_keeps {s : State} (h : Keeps base s) (c n : Nat) : Keeps base (State.armDesc s c n) := by
  unfold State.armDesc
  repeat' first
    | with_reducible assumption
    | with_reducible apply State.modCell_keeps
    | with_reducible apply State.seqIgnored_keeps
    | with_reducible apply State.wr_keeps
    | with_reducible apply ite_keeps
    | simp only [keeps_mk_iff]

theorem execArmDescriptor_runs (c n : Nat) (s : State) : Runs s (execArmDescriptor c n s) := by
  unfold execArmDescriptor
  repeat' first
    | with_reducible exact Keeps.refl _
    | with_reducible assumption
    | with_reducible apply Runs.next
    | with_reducible apply State.armDesc_keeps
    | with_reducible apply State.atReg_keeps
    | with_reducible apply State.seqTouch_keeps
    | intro t x ht
    | intro t ht
    | dsimp only

theorem State.writeRing_keeps {s : State} (h : Keeps base s) (c mask v : Nat) : Keeps base (State.writeRing s c mask v) := by
  unfold State.writeRing
  repeat' first
    | with_reducible assumption
    | ((fail_if_no_progress extract_lets +onlyGivenNames u); first | (refine cut (p := Keeps base u) ?_ (fun hu => ?_); rotate_left; clear_value u; rotate_right) | (refine cut (p := Keeps base u.1) ?_ (fun hu => ?_); rotate_left; clear_value u; rotate_right) | (refine cut (p := Keeps base u.2) ?_ (fun hu => ?_); rotate_left; clear_value u; rotate_right) | (have := u.srcs; clear this; dsimp only [u]; clear u) | (have := fun x => u x; clear this) | clear_value u)
    | with_reducible apply State.flushRing_keeps
    | with_reducible apply State.seqIgnored_keeps
    | with_reducible apply State.wrs_keeps
    | with_reducible apply ite_keeps

theorem execRingWrite_runs (c mask v : Nat) (s : State) : Runs s (execRingWrite c mask v s) := by
  unfold execRingWrite
  repeat' first
    | with_reducible exact Keeps.refl _
    | with_reducible assumption
    | with_reducible apply Runs.next
    | with_reducible apply State.atReg_keeps
    | with_reducible apply State.seqTouch_keeps
    | with_reducible apply State.writeRing_keeps
    | intro t x ht
    | intro t ht
    | dsimp only

theorem State.writePsm_keeps {s : State} (h : Keeps base s) (c n mask v : Nat) : Keeps base (State.writePsm s c n mask v) := by
  unfold State.writePsm
  repeat' first
    | with_reducible assumption
    | with_reducible apply State.wr_keeps

theorem execPsmWrite_runs (c n mask v : Nat) (s : State) : Runs s (execPsmWrite c n mask v s) := by
  unfold execPsmWrite
  repeat' first
    | with_reducible exact Keeps.refl _
    | with_reducible assumption
    | with_reducible apply Runs.next
    | with_reducible apply State.atReg_keeps
    | with_reducible apply State.seqTouch_keeps
    | with_reducible apply State.writePsm_keeps
    | intro t x ht
    | intro t ht
    | dsimp only

end Sys2Proof.Machine
end

