-- ==== Sys2Proof/Laws/Keeps/Caravan.lean ====
section
/-! SUPPORT. `Keeps` through the operations of Machine/Caravan.lean. -/

namespace Sys2Proof.Machine

variable {base : State}

theorem State.restartProvenance_keeps {s : State} (h : Keeps base s) (l next : Nat) : Keeps base (State.restartProvenance s l next) := by
  unfold State.restartProvenance
  repeat' first
    | with_reducible assumption
    | ((fail_if_no_progress extract_lets +onlyGivenNames u); first | (refine cut (p := Keeps base u) ?_ (fun hu => ?_); rotate_left; clear_value u; rotate_right) | (refine cut (p := Keeps base u.1) ?_ (fun hu => ?_); rotate_left; clear_value u; rotate_right) | (refine cut (p := Keeps base u.2) ?_ (fun hu => ?_); rotate_left; clear_value u; rotate_right) | (have := u.srcs; clear this; dsimp only [u]; clear u) | (have := fun x => u x; clear this) | clear_value u)
    | with_reducible apply State.modRun_keeps
    | simp only [keeps_mk_iff]
    | simp only [u, keeps_mk_iff]

theorem State.takeRelease_keeps {s : State} (h : Keeps base s) (l : Nat) : Keeps base (State.takeRelease s l) := by
  unfold State.takeRelease
  repeat' first
    | with_reducible assumption
    | ((fail_if_no_progress extract_lets +onlyGivenNames u); first | (refine cut (p := Keeps base u) ?_ (fun hu => ?_); rotate_left; clear_value u; rotate_right) | (refine cut (p := Keeps base u.1) ?_ (fun hu => ?_); rotate_left; clear_value u; rotate_right) | (refine cut (p := Keeps base u.2) ?_ (fun hu => ?_); rotate_left; clear_value u; rotate_right) | (have := u.srcs; clear this; dsimp only [u]; clear u) | (have := fun x => u x; clear this) | clear_value u)
    | with_reducible apply State.haltBefore_keeps
    | with_reducible apply State.modBlock_keeps
    | with_reducible apply State.modRun_keeps
    | with_reducible apply State.restartProvenance_keeps
    | with_reducible apply State.wr_keeps
    | with_reducible apply ite_keeps
    | with_reducible apply foldl_keeps
    | intro t x ht
    | simp only [keeps_mk_iff]
    | simp only [u, keeps_mk_iff]
    | split
    | (dsimp only [u]; split)

theorem State.showSwapWait_keeps {s : State} (h : Keeps base s) (b : Nat) : Keeps base (State.showSwapWait s b) := by
  unfold State.showSwapWait
  repeat' first
    | with_reducible assumption
    | with_reducible apply State.modBlock_keeps
    | with_reducible apply State.wr_keeps
    | with_reducible apply ite_keeps
    | simp only [keeps_mk_iff]

theorem State.releaseGroup_keeps {s : State} (h : Keeps base s) (n : Nat) : Keeps base (State.releaseGroup s n) := by
  unfold State.releaseGroup
  repeat' first
    | with_reducible assumption
    | ((fail_if_no_progress extract_lets +onlyGivenNames u); first | (refine cut (p := Keeps base u) ?_ (fun hu => ?_); rotate_left; clear_value u; rotate_right) | (refine cut (p := Keeps base u.1) ?_ (fun hu => ?_); rotate_left; clear_value u; rotate_right) | (refine cut (p := Keeps base u.2) ?_ (fun hu => ?_); rotate_left; clear_value u; rotate_right) | (have := u.srcs; clear this; dsimp only [u]; clear u) | (have := fun x => u x; clear this) | clear_value u)
    | with_reducible apply State.modRegion_keeps
    | with_reducible apply State.showSwapWait_keeps
    | with_reducible apply State.takeRelease_keeps
    | with_reducible apply State.wr_keeps
    | with_reducible apply ite_keeps
    | with_reducible apply foldl_keeps
    | intro t x ht
    | simp only [keeps_mk_iff]
    | simp only [u, keeps_mk_iff]

theorem State.judgeGroup_keeps {s : State} (h : Keeps base s) (n : Nat) : Keeps base (State.judgeGroup s n) := by
  unfold State.judgeGroup
  repeat' first
    | with_reducible assumption
    | with_reducible apply State.releaseGroup_keeps
    | with_reducible apply ite_keeps

theorem State.convoyRelease_keeps {s : State} (h : Keeps base s)  : Keeps base (State.convoyRelease s) := by
  unfold State.convoyRelease
  repeat' first
    | with_reducible assumption
    | with_reducible apply State.releaseGroup_keeps
    | with_reducible apply foldl_keeps
    | intro t x ht

theorem State.signalArrival_keeps {s : State} (h : Keeps base s)  : Keeps base (State.signalArrival s) := by
  unfold State.signalArrival
  repeat' first
    | with_reducible assumption
    | with_reducible apply State.wrs_keeps
    | with_reducible apply ite_keeps

theorem execSyncRelease_runs (n : Nat) (s : State) : Runs s (execSyncRelease n s) := by
  unfold execSyncRelease
  repeat' first
    | with_reducible exact Keeps.refl _
    | with_reducible assumption
    | with_reducible apply Runs.next
    | with_reducible apply State.judgeGroup_keeps
    | with_reducible apply State.signalArrival_keeps
    | with_reducible apply State.takeRelease_keeps
    | with_reducible apply foldl_keeps
    | intro t x ht

theorem State.convoyPending_keeps {s : State} (h : Keeps base s) (l : Nat) : Keeps base (State.convoyPending s l) := by
  unfold State.convoyPending
  repeat' first
    | with_reducible assumption
    | ((fail_if_no_progress extract_lets +onlyGivenNames u); first | (refine cut (p := Keeps base u) ?_ (fun hu => ?_); rotate_left; clear_value u; rotate_right) | (refine cut (p := Keeps base u.1) ?_ (fun hu => ?_); rotate_left; clear_value u; rotate_right) | (refine cut (p := Keeps base u.2) ?_ (fun hu => ?_); rotate_left; clear_value u; rotate_right) | (have := u.srcs; clear this; dsimp only [u]; clear u) | (have := fun x => u x; clear this) | clear_value u)
    | with_reducible apply State.convoyGoRun_keeps
    | with_reducible apply State.stopRun_keeps
    | with_reducible apply ite_keeps

theorem State.clockStarted_keeps {s : State} (h : Keeps base s) (b : Nat) : Keeps base (State.clockStarted s b) := by
  unfold State.clockStarted
  repeat' first
    | with_reducible assumption
    | ((fail_if_no_progress extract_lets +onlyGivenNames u); first | (refine cut (p := Keeps base u) ?_ (fun hu => ?_); rotate_left; clear_value u; rotate_right) | (refine cut (p := Keeps base u.1) ?_ (fun hu => ?_); rotate_left; clear_value u; rotate_right) | (refine cut (p := Keeps base u.2) ?_ (fun hu => ?_); rotate_left; clear_value u; rotate_right) | (have := u.srcs; clear this; dsimp only [u]; clear u) | (have := fun x => u x; clear this) | clear_value u)
    | with_reducible apply State.convoyPending_keeps
    | with_reducible apply State.judgePending_keeps
    | with_reducible apply State.takeRelease_keeps
    | with_reducible apply ite_keeps
    | with_reducible apply foldl_keeps
    | intro t x ht

theorem State.deriveCells_keeps {s : State} (h : Keeps base s) (cs : List Nat) : Keeps base (State.deriveCells s cs) := by
  unfold State.deriveCells
  repeat' first
    | with_reducible assumption
    | ((fail_if_no_progress extract_lets +onlyGivenNames u); first | (refine cut (p := Keeps base u) ?_ (fun hu => ?_); rotate_left; clear_value u; rotate_right) | (refine cut (p := Keeps base u.1) ?_ (fun hu => ?_); rotate_left; clear_value u; rotate_right) | (refine cut (p := Keeps base u.2) ?_ (fun hu => ?_); rotate_left; clear_value u; rotate_right) | (have := u.srcs; clear this; dsimp only [u]; clear u) | (have := fun x => u x; clear this) | clear_value u)
    | with_reducible apply State.wrs_keeps
    | with_reducible apply ite_keeps
    | with_reducible apply foldl_keeps
    | intro t x ht

theorem State.endMembership_keeps {s : State} (h : Keeps base s) (l : Nat) : Keeps base (State.endMembership s l) := by
  unfold State.endMembership
  repeat' first
    | with_reducible assumption
    | ((fail_if_no_progress extract_lets +onlyGivenNames u); first | (refine cut (p := Keeps base u) ?_ (fun hu => ?_); rotate_left; clear_value u; rotate_right) | (refine cut (p := Keeps base u.1) ?_ (fun hu => ?_); rotate_left; clear_value u; rotate_right) | (refine cut (p := Keeps base u.2) ?_ (fun hu => ?_); rotate_left; clear_value u; rotate_right) | (have := u.srcs; clear this; dsimp only [u]; clear u) | (have := fun x => u x; clear this) | clear_value u)
    | with_reducible apply State.leavesHalted_keeps
    | with_reducible apply State.modCell_keeps
    | with_reducible apply State.setRun_keeps
    | with_reducible apply State.settleAll_keeps
    | with_reducible apply State.wrs_keeps
    | with_reducible apply foldl_keeps
    | intro t x ht
    | simp only [keeps_mk_iff]
    | simp only [u, keeps_mk_iff]

theorem State.deriveLeads_keeps {s : State} (h : Keeps base s) (r : Nat) : Keeps base (State.deriveLeads s r) := by
  unfold State.deriveLeads
  repeat' first
    | with_reducible assumption
    | with_reducible apply State.wr_keeps
    | with_reducible apply foldl_keeps
    | intro t x ht

theorem State.reform_keeps {s : State} (h : Keeps base s) (r : Nat) (cids : List Nat) : Keeps base (State.reform s r cids) := by
  unfold State.reform
  repeat' first
    | with_reducible assumption
    | ((fail_if_no_progress extract_lets +onlyGivenNames u); first | (refine cut (p := Keeps base u) ?_ (fun hu => ?_); rotate_left; clear_value u; rotate_right) | (refine cut (p := Keeps base u.1) ?_ (fun hu => ?_); rotate_left; clear_value u; rotate_right) | (refine cut (p := Keeps base u.2) ?_ (fun hu => ?_); rotate_left; clear_value u; rotate_right) | (have := u.srcs; clear this; dsimp only [u]; clear u) | (have := fun x => u x; clear this) | clear_value u)
    | with_reducible apply State.deriveCells_keeps
    | with_reducible apply State.deriveLeads_keeps
    | with_reducible apply State.setRun_keeps
    | with_reducible apply foldl_keeps
    | intro t x ht
    | simp only [keeps_mk_iff]
    | simp only [u, keeps_mk_iff]

theorem State.writeCaravan_keeps {s : State} (h : Keeps base s) (c mask v : Nat) : Keeps base (State.writeCaravan s c mask v) := by
  unfold State.writeCaravan
  repeat' first
    | with_reducible assumption
    | ((fail_if_no_progress extract_lets +onlyGivenNames u); first | (refine cut (p := Keeps base u) ?_ (fun hu => ?_); rotate_left; clear_value u; rotate_right) | (refine cut (p := Keeps base u.1) ?_ (fun hu => ?_); rotate_left; clear_value u; rotate_right) | (refine cut (p := Keeps base u.2) ?_ (fun hu => ?_); rotate_left; clear_value u; rotate_right) | (have := u.srcs; clear this; dsimp only [u]; clear u) | (have := fun x => u x; clear this) | clear_value u)
    | with_reducible apply State.deriveCells_keeps
    | with_reducible apply State.deriveLeads_keeps
    | with_reducible apply State.endMembership_keeps
    | with_reducible apply State.seqIgnored_keeps
    | with_reducible apply State.setRun_keeps
    | with_reducible apply State.wr_keeps
    | with_reducible apply State.wrs_keeps
    | with_reducible apply ite_keeps
    | with_reducible apply foldl_keeps
    | intro t x ht
    | simp only [keeps_mk_iff]
    | simp only [u, keeps_mk_iff]

theorem execCelCaravanWrite_runs (c mask v : Nat) (s : State) : Runs s (execCelCaravanWrite c mask v s) := by
  unfold execCelCaravanWrite
  repeat' first
    | with_reducible exact Keeps.refl _
    | with_reducible assumption
    | with_reducible apply Runs.next
    | with_reducible apply State.atReg_keeps
    | with_reducible apply State.writeCaravan_keeps
    | intro t x ht
    | intro t ht
    | dsimp only

theorem State.joinGang_keeps {s : State} (h : Keeps base s) (b src : Nat) : Keeps base (State.joinGang s b src) := by
  unfold State.joinGang
  repeat' first
    | with_reducible assumption
    | ((fail_if_no_progress extract_lets +onlyGivenNames u); first | (refine cut (p := Keeps base u) ?_ (fun hu => ?_); rotate_left; clear_value u; rotate_right) | (refine cut (p := Keeps base u.1) ?_ (fun hu => ?_); rotate_left; clear_value u; rotate_right) | (refine cut (p := Keeps base u.2) ?_ (fun hu => ?_); rotate_left; clear_value u; rotate_right) | (have := u.srcs; clear this; dsimp only [u]; clear u) | (have := fun x => u x; clear this) | clear_value u)
    | with_reducible apply State.modBlock_keeps
    | with_reducible apply State.wrs_keeps
    | with_reducible apply ite_keeps
    | simp only [keeps_mk_iff]
    | simp only [u, keeps_mk_iff]

theorem State.changeSource_keeps {s : State} (h : Keeps base s) (b src : Nat) : Keeps base (State.changeSource s b src) := by
  unfold State.changeSource
  repeat' first
    | with_reducible assumption
    | ((fail_if_no_progress extract_lets +onlyGivenNames u); first | (refine cut (p := Keeps base u) ?_ (fun hu => ?_); rotate_left; clear_value u; rotate_right) | (refine cut (p := Keeps base u.1) ?_ (fun hu => ?_); rotate_left; clear_value u; rotate_right) | (refine cut (p := Keeps base u.2) ?_ (fun hu => ?_); rotate_left; clear_value u; rotate_right) | (have := u.srcs; clear this; dsimp only [u]; clear u) | (have := fun x => u x; clear this) | clear_value u)
    | with_reducible apply State.joinGang_keeps
    | with_reducible apply State.modBlock_keeps
    | with_reducible apply State.wrs_keeps
    | with_reducible apply ite_keeps
    | simp only [keeps_mk_iff]
    | simp only [u, keeps_mk_iff]

theorem State.writeGang_keeps {s : State} (h : Keeps base s) (r mask v : Nat) : Keeps base (State.writeGang s r mask v) := by
  unfold State.writeGang
  repeat' first
    | with_reducible assumption
    | ((fail_if_no_progress extract_lets +onlyGivenNames u); first | (refine cut (p := Keeps base u) ?_ (fun hu => ?_); rotate_left; clear_value u; rotate_right) | (refine cut (p := Keeps base u.1) ?_ (fun hu => ?_); rotate_left; clear_value u; rotate_right) | (refine cut (p := Keeps base u.2) ?_ (fun hu => ?_); rotate_left; clear_value u; rotate_right) | (have := u.srcs; clear this; dsimp only [u]; clear u) | (have := fun x => u x; clear this) | clear_value u)
    | with_reducible apply State.changeSource_keeps
    | with_reducible apply State.rgnIgnored_keeps
    | with_reducible apply State.wrs_keeps
    | with_reducible apply ite_keeps
    | with_reducible apply foldl_keeps
    | intro t x ht

theorem execGangWrite_runs (r mask v : Nat) (s : State) : Runs s (execGangWrite r mask v s) := by
  unfold execGangWrite
  repeat' first
    | with_reducible exact Keeps.refl _
    | with_reducible assumption
    | with_reducible apply Runs.next
    | with_reducible apply State.atReg_keeps
    | with_reducible apply State.writeGang_keeps
    | intro t x ht
    | intro t ht
    | dsimp only

theorem State.writeApgOwn_keeps {s : State} (h : Keeps base s) (r mask v : Nat) : Keeps base (State.writeApgOwn s r mask v) := by
  unfold State.writeApgOwn
  repeat' first
    | with_reducible assumption
    | ((fail_if_no_progress extract_lets +onlyGivenNames u); first | (refine cut (p := Keeps base u) ?_ (fun hu => ?_); rotate_left; clear_value u; rotate_right) | (refine cut (p := Keeps base u.1) ?_ (fun hu => ?_); rotate_left; clear_value u; rotate_right) | (refine cut (p := Keeps base u.2) ?_ (fun hu => ?_); rotate_left; clear_value u; rotate_right) | (have := u.srcs; clear this; dsimp only [u]; clear u) | (have := fun x => u x; clear this) | clear_value u)
    | with_reducible apply State.rgnIgnored_keeps
    | with_reducible apply State.wrs_keeps
    | with_reducible apply ite_keeps
    | with_reducible apply foldl_keeps
    | intro t x ht

theorem execApgOwnWrite_runs (r mask v : Nat) (s : State) : Runs s (execApgOwnWrite r mask v s) := by
  unfold execApgOwnWrite
  repeat' first
    | with_reducible exact Keeps.refl _
    | with_reducible assumption
    | with_reducible apply Runs.next
    | with_reducible apply State.atReg_keeps
    | with_reducible apply State.writeApgOwn_keeps
    | intro t x ht
    | intro t ht
    | dsimp only

theorem State.writeSgrp_keeps {s : State} (h : Keeps base s) (r n mask v : Nat) : Keeps base (State.writeSgrp s r n mask v) := by
  unfold State.writeSgrp
  repeat' first
    | with_reducible assumption
    | ((fail_if_no_progress extract_lets +onlyGivenNames u); first | (refine cut (p := Keeps base u) ?_ (fun hu => ?_); rotate_left; clear_value u; rotate_right) | (refine cut (p := Keeps base u.1) ?_ (fun hu => ?_); rotate_left; clear_value u; rotate_right) | (refine cut (p := Keeps base u.2) ?_ (fun hu => ?_); rotate_left; clear_value u; rotate_right) | (have := u.srcs; clear this; dsimp only [u]; clear u) | (have := fun x => u x; clear this) | clear_value u)
    | with_reducible apply State.judgeGroup_keeps
    | with_reducible apply State.rgnIgnored_keeps
    | with_reducible apply State.signalArrival_keeps
    | with_reducible apply State.wr_keeps
    | with_reducible apply ite_keeps

theorem execSgrpWrite_runs (r n mask v : Nat) (s : State) : Runs s (execSgrpWrite r n mask v s) := by
  unfold execSgrpWrite
  repeat' first
    | with_reducible exact Keeps.refl _
    | with_reducible assumption
    | with_reducible apply Runs.next
    | with_reducible apply State.atReg_keeps
    | with_reducible apply State.writeSgrp_keeps
    | intro t x ht
    | intro t ht
    | dsimp only

end Sys2Proof.Machine
end

