-- ==== Sys2Proof/Laws/Keeps/Pins.lean ====
section
/-! SUPPORT. `Keeps` through the operations of Machine/Pins.lean. -/

namespace Sys2Proof.Machine

variable {base : State}

theorem State.setDrive_keeps {s : State} (h : Keeps base s) (c n v : Nat) : Keeps base (State.setDrive s c n v) := by
  unfold State.setDrive
  repeat' first
    | with_reducible assumption
    | with_reducible apply State.modCell_keeps
    | simp only [keeps_mk_iff]

theorem State.setLevel_keeps {s : State} (h : Keeps base s) (c n v : Nat) : Keeps base (State.setLevel s c n v) := by
  unfold State.setLevel
  repeat' first
    | with_reducible assumption
    | with_reducible apply State.modCell_keeps
    | simp only [keeps_mk_iff]

theorem State.disturb_keeps {s : State} (h : Keeps base s) (c n : Nat) : Keeps base (State.disturb s c n) := by
  unfold State.disturb
  repeat' first
    | with_reducible assumption
    | with_reducible apply State.modBlock_keeps
    | with_reducible apply ite_keeps
    | simp only [keeps_mk_iff]

theorem State.levelsMove_keeps {s : State} (h : Keeps base s) (c n : Nat) : Keeps base (State.levelsMove s c n) := by
  unfold State.levelsMove
  repeat' first
    | with_reducible assumption
    | with_reducible apply State.disturb_keeps
    | with_reducible apply State.wr_keeps

theorem State.staticDrive_keeps {s : State} (h : Keeps base s) (c n : Nat) : Keeps base (State.staticDrive s c n) := by
  unfold State.staticDrive
  repeat' first
    | with_reducible assumption
    | with_reducible apply State.setDrive_keeps
    | with_reducible apply State.setLevel_keeps
    | with_reducible apply ite_keeps

theorem State.enableLane_keeps {s : State} (h : Keeps base s) (c n : Nat) : Keeps base (State.enableLane s c n) := by
  unfold State.enableLane
  repeat' first
    | with_reducible assumption
    | ((fail_if_no_progress extract_lets +onlyGivenNames u); first | (refine cut (p := Keeps base u) ?_ (fun hu => ?_); rotate_left; clear_value u; rotate_right) | (refine cut (p := Keeps base u.1) ?_ (fun hu => ?_); rotate_left; clear_value u; rotate_right) | (refine cut (p := Keeps base u.2) ?_ (fun hu => ?_); rotate_left; clear_value u; rotate_right) | (have := u.srcs; clear this; dsimp only [u]; clear u) | (have := fun x => u x; clear this) | clear_value u)
    | with_reducible apply State.modCell_keeps
    | with_reducible apply State.setDrive_keeps
    | with_reducible apply State.setLevel_keeps
    | with_reducible apply State.wrs_keeps
    | with_reducible apply ite_keeps
    | simp only [keeps_mk_iff]
    | simp only [u, keeps_mk_iff]

theorem State.writePinCtrl_keeps {s0 : State} (h : Keeps base s0) (c n mask v : Nat) : Keeps base (State.writePinCtrl s0 c n mask v) := by
  unfold State.writePinCtrl
  repeat' first
    | with_reducible assumption
    | ((fail_if_no_progress extract_lets +onlyGivenNames u); first | (refine cut (p := Keeps base u) ?_ (fun hu => ?_); rotate_left; clear_value u; rotate_right) | (refine cut (p := Keeps base u.1) ?_ (fun hu => ?_); rotate_left; clear_value u; rotate_right) | (refine cut (p := Keeps base u.2) ?_ (fun hu => ?_); rotate_left; clear_value u; rotate_right) | (have := u.srcs; clear this; dsimp only [u]; clear u) | (have := fun x => u x; clear this) | clear_value u)
    | with_reducible apply State.abortSlice_keeps
    | with_reducible apply State.drawn_keeps
    | with_reducible apply State.enableLane_keeps
    | with_reducible apply State.enterSafe_keeps
    | with_reducible apply State.levelsMove_keeps
    | with_reducible apply State.pinIgnored_keeps
    | with_reducible apply State.setLevel_keeps
    | with_reducible apply State.staticDrive_keeps
    | with_reducible apply State.wr_keeps
    | with_reducible apply State.wrs_keeps
    | with_reducible apply ite_keeps

theorem execLaneEnable_runs (c n mask v : Nat) (s : State) : Runs s (execLaneEnable c n mask v s) := by
  unfold execLaneEnable
  repeat' first
    | with_reducible exact Keeps.refl _
    | with_reducible assumption
    | with_reducible apply Runs.next
    | with_reducible apply State.atReg_keeps
    | with_reducible apply State.writePinCtrl_keeps
    | intro t x ht
    | intro t ht
    | dsimp only

theorem execLaneDisable_runs (c n mask v : Nat) (s : State) : Runs s (execLaneDisable c n mask v s) := by
  unfold execLaneDisable
  repeat' first
    | with_reducible exact Keeps.refl _
    | with_reducible assumption
    | with_reducible apply Runs.next
    | with_reducible apply State.atReg_keeps
    | with_reducible apply State.writePinCtrl_keeps
    | intro t x ht
    | intro t ht
    | dsimp only

theorem execStaticDrive_runs (c n mask v : Nat) (s : State) : Runs s (execStaticDrive c n mask v s) := by
  unfold execStaticDrive
  repeat' first
    | with_reducible exact Keeps.refl _
    | with_reducible assumption
    | with_reducible apply Runs.next
    | with_reducible apply State.atReg_keeps
    | with_reducible apply State.writePinCtrl_keeps
    | intro t x ht
    | intro t ht
    | dsimp only

theorem State.writeLevels_keeps {s0 : State} (h : Keeps base s0) (c n m which mask v : Nat) : Keeps base (State.writeLevels s0 c n m which mask v) := by
  unfold State.writeLevels
  repeat' first
    | with_reducible assumption
    | ((fail_if_no_progress extract_lets +onlyGivenNames u); first | (refine cut (p := Keeps base u) ?_ (fun hu => ?_); rotate_left; clear_value u; rotate_right) | (refine cut (p := Keeps base u.1) ?_ (fun hu => ?_); rotate_left; clear_value u; rotate_right) | (refine cut (p := Keeps base u.2) ?_ (fun hu => ?_); rotate_left; clear_value u; rotate_right) | (have := u.srcs; clear this; dsimp only [u]; clear u) | (have := fun x => u x; clear this) | clear_value u)
    | with_reducible apply State.abortSlice_keeps
    | with_reducible apply State.levelsMove_keeps
    | with_reducible apply State.pinIgnored_keeps
    | with_reducible apply State.wrs_keeps
    | with_reducible apply ite_keeps

theorem execLevelSetWrite_runs (c n m which mask v : Nat) (s : State) : Runs s (execLevelSetWrite c n m which mask v s) := by
  unfold execLevelSetWrite
  repeat' first
    | with_reducible exact Keeps.refl _
    | with_reducible assumption
    | with_reducible apply ite_runs
    | with_reducible apply Runs.next
    | with_reducible apply State.atReg_keeps
    | with_reducible apply State.writeLevels_keeps
    | with_reducible apply State.writePinCtrl_keeps
    | with_reducible apply ite_keeps
    | intro t x ht
    | intro t ht
    | dsimp only

theorem execLsSettled_runs (c n : Nat) (s : State) : Runs s (execLsSettled c n s) := by
  unfold execLsSettled
  repeat' first
    | with_reducible exact Keeps.refl _
    | with_reducible assumption
    | with_reducible apply Runs.next
    | with_reducible apply State.wr_keeps

theorem State.writePmu_keeps {s0 : State} (h : Keeps base s0) (c n mask v : Nat) : Keeps base (State.writePmu s0 c n mask v) := by
  unfold State.writePmu
  repeat' first
    | with_reducible assumption
    | ((fail_if_no_progress extract_lets +onlyGivenNames u); first | (refine cut (p := Keeps base u) ?_ (fun hu => ?_); rotate_left; clear_value u; rotate_right) | (refine cut (p := Keeps base u.1) ?_ (fun hu => ?_); rotate_left; clear_value u; rotate_right) | (refine cut (p := Keeps base u.2) ?_ (fun hu => ?_); rotate_left; clear_value u; rotate_right) | (have := u.srcs; clear this; dsimp only [u]; clear u) | (have := fun x => u x; clear this) | clear_value u)
    | with_reducible apply State.abortSlice_keeps
    | with_reducible apply State.disturb_keeps
    | with_reducible apply State.pinIgnored_keeps
    | with_reducible apply State.setLevel_keeps
    | with_reducible apply State.staticDrive_keeps
    | with_reducible apply State.wrs_keeps
    | with_reducible apply ite_keeps

theorem execPmuWrite_runs (c n mask v : Nat) (s : State) : Runs s (execPmuWrite c n mask v s) := by
  unfold execPmuWrite
  repeat' first
    | with_reducible exact Keeps.refl _
    | with_reducible assumption
    | with_reducible apply Runs.next
    | with_reducible apply State.atReg_keeps
    | with_reducible apply State.writePmu_keeps
    | intro t x ht
    | intro t ht
    | dsimp only

theorem State.writeMeas_keeps {s0 : State} (h : Keeps base s0) (c n mask v : Nat) : Keeps base (State.writeMeas s0 c n mask v) := by
  unfold State.writeMeas
  repeat' first
    | with_reducible assumption
    | ((fail_if_no_progress extract_lets +onlyGivenNames u); first | (refine cut (p := Keeps base u) ?_ (fun hu => ?_); rotate_left; clear_value u; rotate_right) | (refine cut (p := Keeps base u.1) ?_ (fun hu => ?_); rotate_left; clear_value u; rotate_right) | (refine cut (p := Keeps base u.2) ?_ (fun hu => ?_); rotate_left; clear_value u; rotate_right) | (have := u.srcs; clear this; dsimp only [u]; clear u) | (have := fun x => u x; clear this) | clear_value u)
    | with_reducible apply State.abortSlice_keeps
    | with_reducible apply State.disturb_keeps
    | with_reducible apply State.modBlock_keeps
    | with_reducible apply State.pinIgnored_keeps
    | with_reducible apply State.pulse_keeps
    | with_reducible apply State.wr_keeps
    | with_reducible apply State.wrs_keeps
    | with_reducible apply ite_keeps
    | simp only [keeps_mk_iff]
    | simp only [u, keeps_mk_iff]

theorem execMeasGo_runs (c n mask v : Nat) (s : State) : Runs s (execMeasGo c n mask v s) := by
  unfold execMeasGo
  repeat' first
    | with_reducible exact Keeps.refl _
    | with_reducible assumption
    | with_reducible apply Runs.next
    | with_reducible apply State.atReg_keeps
    | with_reducible apply State.writeMeas_keeps
    | intro t x ht
    | intro t ht
    | dsimp only

theorem execMeasDelayExpiry_runs (c n : Nat) (s : State) : Runs s (execMeasDelayExpiry c n s) := by
  unfold execMeasDelayExpiry
  repeat' first
    | with_reducible exact Keeps.refl _
    | ((fail_if_no_progress extract_lets +onlyGivenNames u); first | (refine cut (p := Keeps s u) ?_ (fun hu => ?_); rotate_left; clear_value u; rotate_right) | (refine cut (p := Keeps s u.1) ?_ (fun hu => ?_); rotate_left; clear_value u; rotate_right) | (refine cut (p := Keeps s u.2) ?_ (fun hu => ?_); rotate_left; clear_value u; rotate_right) | (have := u.srcs; clear this; dsimp only [u]; clear u) | (have := fun x => u x; clear this) | clear_value u)
    | with_reducible assumption
    | with_reducible apply ite_runs
    | with_reducible apply Runs.next
    | with_reducible apply State.abortSlice_keeps
    | with_reducible apply State.modBlock_keeps
    | with_reducible apply ite_keeps
    | simp only [keeps_mk_iff]
    | simp only [u, keeps_mk_iff]

theorem State.conversion_keeps {s : State} (h : Keeps base s) (b : Nat) (code : Int) (clamp sat : Bool) : Keeps base (State.conversion s b code clamp sat) := by
  unfold State.conversion
  repeat' first
    | with_reducible assumption
    | ((fail_if_no_progress extract_lets +onlyGivenNames u); first | (refine cut (p := Keeps base u) ?_ (fun hu => ?_); rotate_left; clear_value u; rotate_right) | (refine cut (p := Keeps base u.1) ?_ (fun hu => ?_); rotate_left; clear_value u; rotate_right) | (refine cut (p := Keeps base u.2) ?_ (fun hu => ?_); rotate_left; clear_value u; rotate_right) | (have := u.srcs; clear this; dsimp only [u]; clear u) | (have := fun x => u x; clear this) | clear_value u)
    | with_reducible apply State.disturb_keeps
    | with_reducible apply State.modBlock_keeps
    | with_reducible apply State.pulse_keeps
    | with_reducible apply State.wrs_keeps
    | with_reducible apply ite_keeps
    | simp only [keeps_mk_iff]
    | simp only [u, keeps_mk_iff]
    | split
    | (dsimp only [u]; split)

theorem execConversionDone_runs (b : Nat) (code : Int) (clamp sat : Bool) (s : State) : Runs s (execConversionDone b code clamp sat s) := by
  unfold execConversionDone
  repeat' first
    | with_reducible exact Keeps.refl _
    | with_reducible assumption
    | with_reducible apply Runs.next
    | with_reducible apply State.conversion_keeps

theorem State.finishSafe_keeps {s : State} (h : Keeps base s) (c n : Nat) : Keeps base (State.finishSafe s c n) := by
  unfold State.finishSafe
  repeat' first
    | with_reducible assumption
    | with_reducible apply State.modCell_keeps
    | with_reducible apply State.wrs_keeps
    | with_reducible apply ite_keeps
    | simp only [keeps_mk_iff]

theorem execSafeStateDone_runs (c n : Nat) (s : State) : Runs s (execSafeStateDone c n s) := by
  unfold execSafeStateDone
  repeat' first
    | with_reducible exact Keeps.refl _
    | with_reducible assumption
    | with_reducible apply Runs.next
    | with_reducible apply State.finishSafe_keeps

theorem execHeartbeatLoss_runs (r : Nat) (s : State) : Runs s (execHeartbeatLoss r s) := by
  unfold execHeartbeatLoss
  repeat' first
    | with_reducible exact Keeps.refl _
    | with_reducible assumption
    | with_reducible apply Runs.next
    | with_reducible apply State.report_keeps
    | with_reducible apply State.safeCells_keeps

theorem execDchkInterval_runs (c n : Nat) (held : Bool) (pin : Int) (s : State) : Runs s (execDchkInterval c n held pin s) := by
  unfold execDchkInterval
  repeat' first
    | with_reducible exact Keeps.refl _
    | with_reducible assumption
    | with_reducible apply Runs.next
    | with_reducible apply State.driveCheck_keeps

theorem State.writeTrim_keeps {s0 : State} (h : Keeps base s0) (c n k mask v : Nat) : Keeps base (State.writeTrim s0 c n k mask v) := by
  unfold State.writeTrim
  repeat' first
    | with_reducible assumption
    | ((fail_if_no_progress extract_lets +onlyGivenNames u); first | (refine cut (p := Keeps base u) ?_ (fun hu => ?_); rotate_left; clear_value u; rotate_right) | (refine cut (p := Keeps base u.1) ?_ (fun hu => ?_); rotate_left; clear_value u; rotate_right) | (refine cut (p := Keeps base u.2) ?_ (fun hu => ?_); rotate_left; clear_value u; rotate_right) | (have := u.srcs; clear this; dsimp only [u]; clear u) | (have := fun x => u x; clear this) | clear_value u)
    | with_reducible apply State.abortSlice_keeps
    | with_reducible apply State.pinIgnored_keeps
    | with_reducible apply State.wrs_keeps
    | with_reducible apply ite_keeps

theorem execTrimWrite_runs (c n k mask v : Nat) (s : State) : Runs s (execTrimWrite c n k mask v s) := by
  unfold execTrimWrite
  repeat' first
    | with_reducible exact Keeps.refl _
    | with_reducible assumption
    | with_reducible apply Runs.next
    | with_reducible apply State.atReg_keeps
    | with_reducible apply State.writeTrim_keeps
    | intro t x ht
    | intro t ht
    | dsimp only

theorem State.putTab_keeps {s : State} (h : Keeps base s) (c e w v : Nat) : Keeps base (State.putTab s c e w v) := by
  unfold State.putTab
  repeat' first
    | with_reducible assumption
    | with_reducible apply State.wr_keeps
    | with_reducible apply ite_keeps

theorem State.writeTab_keeps {s : State} (h : Keeps base s) (c e w mask v : Nat) : Keeps base (State.writeTab s c e w mask v) := by
  unfold State.writeTab
  repeat' first
    | with_reducible assumption
    | ((fail_if_no_progress extract_lets +onlyGivenNames u); first | (refine cut (p := Keeps base u) ?_ (fun hu => ?_); rotate_left; clear_value u; rotate_right) | (refine cut (p := Keeps base u.1) ?_ (fun hu => ?_); rotate_left; clear_value u; rotate_right) | (refine cut (p := Keeps base u.2) ?_ (fun hu => ?_); rotate_left; clear_value u; rotate_right) | (have := u.srcs; clear this; dsimp only [u]; clear u) | (have := fun x => u x; clear this) | clear_value u)
    | with_reducible apply State.wr_keeps
    | with_reducible apply ite_keeps

theorem execTimTabWrite_runs (c e w mask v : Nat) (s : State) : Runs s (execTimTabWrite c e w mask v s) := by
  unfold execTimTabWrite
  repeat' first
    | with_reducible exact Keeps.refl _
    | with_reducible assumption
    | with_reducible apply Runs.next
    | with_reducible apply State.atReg_keeps
    | with_reducible apply State.writeTab_keeps
    | intro t x ht
    | intro t ht
    | dsimp only

theorem State.writeOfs_keeps {s : State} (h : Keeps base s) (c n mask v : Nat) : Keeps base (State.writeOfs s c n mask v) := by
  unfold State.writeOfs
  repeat' first
    | with_reducible assumption
    | with_reducible apply State.wrs_keeps

theorem execOfsWrite_runs (c n mask v : Nat) (s : State) : Runs s (execOfsWrite c n mask v s) := by
  unfold execOfsWrite
  repeat' first
    | with_reducible exact Keeps.refl _
    | with_reducible assumption
    | with_reducible apply Runs.next
    | with_reducible apply State.atReg_keeps
    | with_reducible apply State.writeOfs_keeps
    | intro t x ht
    | intro t ht
    | dsimp only

theorem execUiStale_runs (b : Nat) (s : State) : Runs s (execUiStale b s) := by
  unfold execUiStale
  repeat' first
    | with_reducible exact Keeps.refl _
    | with_reducible assumption
    | with_reducible apply ite_runs
    | with_reducible apply Runs.next
    | with_reducible apply State.wrAll_keeps
    | with_reducible apply ite_keeps

end Sys2Proof.Machine
end

