-- ==== Sys2Proof/Laws/Keeps/Pll.lean ====
section
/-! SUPPORT. `Keeps` through the operations of Machine/Pll.lean. -/

namespace Sys2Proof.Machine

variable {base : State}

theorem State.setActivePll_keeps {s : State} (h : Keeps base s) (b : Nat) (c : PllCfg) : Keeps base (State.setActivePll s b c) := by
  unfold State.setActivePll
  repeat' first
    | with_reducible assumption
    | with_reducible apply State.wrs_keeps

theorem State.reclamp_keeps {s : State} (h : Keeps base s) (b : Nat) (c : PllCfg) : Keeps base (State.reclamp s b c) := by
  unfold State.reclamp
  repeat' first
    | with_reducible assumption
    | with_reducible apply State.wr_keeps

theorem State.showFabRun_keeps {s : State} (h : Keeps base s) (b : Nat) : Keeps base (State.showFabRun s b) := by
  unfold State.showFabRun
  repeat' first
    | with_reducible assumption
    | with_reducible apply State.wr_keeps

theorem State.showOverclk_keeps {s : State} (h : Keeps base s) (b : Nat) (c : PllCfg) : Keeps base (State.showOverclk s b c) := by
  unfold State.showOverclk
  repeat' first
    | with_reducible assumption
    | with_reducible apply State.wr_keeps

theorem State.dropUnresolved_keeps {s : State} (h : Keeps base s) (l : Nat) : Keeps base (State.dropUnresolved s l) := by
  unfold State.dropUnresolved
  repeat' first
    | with_reducible assumption
    | ((fail_if_no_progress extract_lets +onlyGivenNames u); first | (refine cut (p := Keeps base u) ?_ (fun hu => ?_); rotate_left; clear_value u; rotate_right) | (refine cut (p := Keeps base u.1) ?_ (fun hu => ?_); rotate_left; clear_value u; rotate_right) | (refine cut (p := Keeps base u.2) ?_ (fun hu => ?_); rotate_left; clear_value u; rotate_right) | (have := u.srcs; clear this; dsimp only [u]; clear u) | (have := fun x => u x; clear this) | clear_value u)
    | with_reducible apply State.dropEdges_keeps
    | with_reducible apply State.modRun_keeps
    | with_reducible apply State.settleAll_keeps
    | with_reducible apply foldl_keeps
    | intro t x ht
    | simp only [keeps_mk_iff]
    | simp only [u, keeps_mk_iff]

theorem State.gateBlock_keeps {s : State} (h : Keeps base s) (b : Nat) : Keeps base (State.gateBlock s b) := by
  unfold State.gateBlock
  repeat' first
    | with_reducible assumption
    | with_reducible apply State.dropUnresolved_keeps
    | with_reducible apply State.modBlock_keeps
    | with_reducible apply State.showFabRun_keeps
    | with_reducible apply State.wrs_keeps
    | with_reducible apply foldl_keeps
    | intro t x ht
    | simp only [keeps_mk_iff]

theorem State.runBlock_keeps {s : State} (h : Keeps base s) (b : Nat) : Keeps base (State.runBlock s b) := by
  unfold State.runBlock
  repeat' first
    | with_reducible assumption
    | ((fail_if_no_progress extract_lets +onlyGivenNames u); first | (refine cut (p := Keeps base u) ?_ (fun hu => ?_); rotate_left; clear_value u; rotate_right) | (refine cut (p := Keeps base u.1) ?_ (fun hu => ?_); rotate_left; clear_value u; rotate_right) | (refine cut (p := Keeps base u.2) ?_ (fun hu => ?_); rotate_left; clear_value u; rotate_right) | (have := u.srcs; clear this; dsimp only [u]; clear u) | (have := fun x => u x; clear this) | clear_value u)
    | with_reducible apply State.clockStarted_keeps
    | with_reducible apply State.showFabRun_keeps
    | with_reducible apply State.showOverclk_keeps
    | with_reducible apply State.showUi_keeps
    | with_reducible apply State.wrs_keeps

theorem State.switchClock_keeps {s : State} (h : Keeps base s) (b : Nat) : Keeps base (State.switchClock s b) := by
  unfold State.switchClock
  repeat' first
    | with_reducible assumption
    | ((fail_if_no_progress extract_lets +onlyGivenNames u); first | (refine cut (p := Keeps base u) ?_ (fun hu => ?_); rotate_left; clear_value u; rotate_right) | (refine cut (p := Keeps base u.1) ?_ (fun hu => ?_); rotate_left; clear_value u; rotate_right) | (refine cut (p := Keeps base u.2) ?_ (fun hu => ?_); rotate_left; clear_value u; rotate_right) | (have := u.srcs; clear this; dsimp only [u]; clear u) | (have := fun x => u x; clear this) | clear_value u)
    | with_reducible apply State.gateBlock_keeps
    | with_reducible apply State.judgePending_keeps
    | with_reducible apply State.runBlock_keeps
    | with_reducible apply ite_keeps
    | simp only [keeps_mk_iff]
    | simp only [u, keeps_mk_iff]
    | split
    | (dsimp only [u]; split)

theorem execClockSourceSwitch_runs (b : Nat) (s : State) : Runs s (execClockSourceSwitch b s) := by
  unfold execClockSourceSwitch
  repeat' first
    | with_reducible exact Keeps.refl _
    | with_reducible assumption
    | with_reducible apply ite_runs
    | with_reducible apply Runs.next
    | with_reducible apply State.switchClock_keeps
    | with_reducible apply ite_keeps

theorem State.pllDone_keeps {s : State} (h : Keeps base s) (b op st : Nat) : Keeps base (State.pllDone s b op st) := by
  unfold State.pllDone
  repeat' first
    | with_reducible assumption
    | with_reducible apply State.wrs_keeps

theorem State.pllReject_keeps {s : State} (h : Keeps base s) (b op st : Nat) : Keeps base (State.pllReject s b op st) := by
  unfold State.pllReject
  repeat' first
    | with_reducible assumption
    | ((fail_if_no_progress extract_lets +onlyGivenNames u); first | (refine cut (p := Keeps base u) ?_ (fun hu => ?_); rotate_left; clear_value u; rotate_right) | (refine cut (p := Keeps base u.1) ?_ (fun hu => ?_); rotate_left; clear_value u; rotate_right) | (refine cut (p := Keeps base u.2) ?_ (fun hu => ?_); rotate_left; clear_value u; rotate_right) | (have := u.srcs; clear this; dsimp only [u]; clear u) | (have := fun x => u x; clear this) | clear_value u)
    | with_reducible apply State.pllDone_keeps
    | with_reducible apply State.reject_keeps
    | with_reducible apply State.wr_keeps
    | with_reducible apply ite_keeps

theorem State.startRelock_keeps {s : State} (h : Keeps base s) (b op : Nat) (c : PllCfg) : Keeps base (State.startRelock s b op c) := by
  unfold State.startRelock
  repeat' first
    | with_reducible assumption
    | with_reducible apply State.modBlock_keeps
    | with_reducible apply State.reclamp_keeps
    | with_reducible apply State.wrs_keeps
    | simp only [keeps_mk_iff]

theorem State.pllCommand_keeps {s0 : State} (h : Keeps base s0) (b op : Nat) : Keeps base (State.pllCommand s0 b op) := by
  unfold State.pllCommand
  repeat' first
    | with_reducible assumption
    | ((fail_if_no_progress extract_lets +onlyGivenNames u); first | (refine cut (p := Keeps base u) ?_ (fun hu => ?_); rotate_left; clear_value u; rotate_right) | (refine cut (p := Keeps base u.1) ?_ (fun hu => ?_); rotate_left; clear_value u; rotate_right) | (refine cut (p := Keeps base u.2) ?_ (fun hu => ?_); rotate_left; clear_value u; rotate_right) | (have := u.srcs; clear this; dsimp only [u]; clear u) | (have := fun x => u x; clear this) | clear_value u)
    | with_reducible apply State.abortSlice_keeps
    | with_reducible apply State.gateBlock_keeps
    | with_reducible apply State.judgePending_keeps
    | with_reducible apply State.modBlock_keeps
    | with_reducible apply State.pllDone_keeps
    | with_reducible apply State.pllReject_keeps
    | with_reducible apply State.reclamp_keeps
    | with_reducible apply State.setActivePll_keeps
    | with_reducible apply State.showOverclk_keeps
    | with_reducible apply State.startRelock_keeps
    | with_reducible apply State.wrs_keeps
    | with_reducible apply ite_keeps
    | with_reducible apply foldl_keeps
    | intro t x ht
    | simp only [keeps_mk_iff]
    | simp only [u, keeps_mk_iff]
    | split
    | (dsimp only [u]; split)

theorem execPllSet_runs (b : Nat) (s : State) : Runs s (execPllSet b s) := by
  unfold execPllSet
  repeat' first
    | with_reducible exact Keeps.refl _
    | with_reducible assumption
    | with_reducible apply Runs.next
    | with_reducible apply State.atReg_keeps
    | with_reducible apply State.pllCommand_keeps
    | intro t x ht
    | intro t ht
    | dsimp only

theorem execPllStep_runs (b : Nat) (s : State) : Runs s (execPllStep b s) := by
  unfold execPllStep
  repeat' first
    | with_reducible exact Keeps.refl _
    | with_reducible assumption
    | with_reducible apply Runs.next
    | with_reducible apply State.atReg_keeps
    | with_reducible apply State.pllCommand_keeps
    | intro t x ht
    | intro t ht
    | dsimp only

theorem execPllRelock_runs (b : Nat) (s : State) : Runs s (execPllRelock b s) := by
  unfold execPllRelock
  repeat' first
    | with_reducible exact Keeps.refl _
    | with_reducible assumption
    | with_reducible apply Runs.next
    | with_reducible apply State.atReg_keeps
    | with_reducible apply State.pllCommand_keeps
    | intro t x ht
    | intro t ht
    | dsimp only

theorem execPllOff_runs (b : Nat) (s : State) : Runs s (execPllOff b s) := by
  unfold execPllOff
  repeat' first
    | with_reducible exact Keeps.refl _
    | with_reducible assumption
    | with_reducible apply Runs.next
    | with_reducible apply State.atReg_keeps
    | with_reducible apply State.pllCommand_keeps
    | intro t x ht
    | intro t ht
    | dsimp only

theorem State.relockGate_keeps {s : State} (h : Keeps base s) (b : Nat) : Keeps base (State.relockGate s b) := by
  unfold State.relockGate
  repeat' first
    | with_reducible assumption
    | ((fail_if_no_progress extract_lets +onlyGivenNames u); first | (refine cut (p := Keeps base u) ?_ (fun hu => ?_); rotate_left; clear_value u; rotate_right) | (refine cut (p := Keeps base u.1) ?_ (fun hu => ?_); rotate_left; clear_value u; rotate_right) | (refine cut (p := Keeps base u.2) ?_ (fun hu => ?_); rotate_left; clear_value u; rotate_right) | (have := u.srcs; clear this; dsimp only [u]; clear u) | (have := fun x => u x; clear this) | clear_value u)
    | with_reducible apply State.gateBlock_keeps
    | with_reducible apply State.modBlock_keeps
    | with_reducible apply State.setActivePll_keeps
    | with_reducible apply State.wrs_keeps
    | with_reducible apply ite_keeps
    | with_reducible apply foldl_keeps
    | intro t x ht
    | simp only [keeps_mk_iff]
    | simp only [u, keeps_mk_iff]
    | split
    | (dsimp only [u]; split)

theorem execRelockGate_runs (b : Nat) (s : State) : Runs s (execRelockGate b s) := by
  unfold execRelockGate
  repeat' first
    | with_reducible exact Keeps.refl _
    | with_reducible assumption
    | with_reducible apply Runs.next
    | with_reducible apply State.relockGate_keeps

theorem execLockIndicated_runs (b : Nat) (s : State) : Runs s (execLockIndicated b s) := by
  unfold execLockIndicated
  repeat' first
    | with_reducible exact Keeps.refl _
    | with_reducible assumption
    | with_reducible apply ite_runs
    | with_reducible apply Runs.next
    | with_reducible apply State.modBlock_keeps
    | with_reducible apply ite_keeps
    | simp only [keeps_mk_iff]

theorem State.relockDone_keeps {s : State} (h : Keeps base s) (b : Nat) : Keeps base (State.relockDone s b) := by
  unfold State.relockDone
  repeat' first
    | with_reducible assumption
    | ((fail_if_no_progress extract_lets +onlyGivenNames u); first | (refine cut (p := Keeps base u) ?_ (fun hu => ?_); rotate_left; clear_value u; rotate_right) | (refine cut (p := Keeps base u.1) ?_ (fun hu => ?_); rotate_left; clear_value u; rotate_right) | (refine cut (p := Keeps base u.2) ?_ (fun hu => ?_); rotate_left; clear_value u; rotate_right) | (have := u.srcs; clear this; dsimp only [u]; clear u) | (have := fun x => u x; clear this) | clear_value u)
    | with_reducible apply State.modBlock_keeps
    | with_reducible apply State.pllDone_keeps
    | with_reducible apply State.reclamp_keeps
    | with_reducible apply State.runBlock_keeps
    | with_reducible apply State.wr_keeps
    | with_reducible apply ite_keeps
    | with_reducible apply foldl_keeps
    | intro t x ht
    | simp only [keeps_mk_iff]
    | simp only [u, keeps_mk_iff]

theorem execRelockComplete_runs (b : Nat) (s : State) : Runs s (execRelockComplete b s) := by
  unfold execRelockComplete
  repeat' first
    | with_reducible exact Keeps.refl _
    | with_reducible assumption
    | with_reducible apply Runs.next
    | with_reducible apply State.relockDone_keeps

theorem State.relockTimeout_keeps {s : State} (h : Keeps base s) (b : Nat) : Keeps base (State.relockTimeout s b) := by
  unfold State.relockTimeout
  repeat' first
    | with_reducible assumption
    | ((fail_if_no_progress extract_lets +onlyGivenNames u); first | (refine cut (p := Keeps base u) ?_ (fun hu => ?_); rotate_left; clear_value u; rotate_right) | (refine cut (p := Keeps base u.1) ?_ (fun hu => ?_); rotate_left; clear_value u; rotate_right) | (refine cut (p := Keeps base u.2) ?_ (fun hu => ?_); rotate_left; clear_value u; rotate_right) | (have := u.srcs; clear this; dsimp only [u]; clear u) | (have := fun x => u x; clear this) | clear_value u)
    | with_reducible apply State.judgePending_keeps
    | with_reducible apply State.modBlock_keeps
    | with_reducible apply State.pllDone_keeps
    | with_reducible apply State.wr_keeps
    | with_reducible apply ite_keeps
    | with_reducible apply foldl_keeps
    | intro t x ht
    | simp only [keeps_mk_iff]
    | simp only [u, keeps_mk_iff]

theorem execRelockTimeout_runs (b : Nat) (s : State) : Runs s (execRelockTimeout b s) := by
  unfold execRelockTimeout
  repeat' first
    | with_reducible exact Keeps.refl _
    | with_reducible assumption
    | with_reducible apply Runs.next
    | with_reducible apply State.relockTimeout_keeps

theorem State.rampEnd_keeps {s : State} (h : Keeps base s) (b : Nat) : Keeps base (State.rampEnd s b) := by
  unfold State.rampEnd
  repeat' first
    | with_reducible assumption
    | ((fail_if_no_progress extract_lets +onlyGivenNames u); first | (refine cut (p := Keeps base u) ?_ (fun hu => ?_); rotate_left; clear_value u; rotate_right) | (refine cut (p := Keeps base u.1) ?_ (fun hu => ?_); rotate_left; clear_value u; rotate_right) | (refine cut (p := Keeps base u.2) ?_ (fun hu => ?_); rotate_left; clear_value u; rotate_right) | (have := u.srcs; clear this; dsimp only [u]; clear u) | (have := fun x => u x; clear this) | clear_value u)
    | with_reducible apply State.pllDone_keeps
    | with_reducible apply State.setMult_keeps
    | with_reducible apply State.showOverclk_keeps
    | with_reducible apply State.wr_keeps
    | with_reducible apply State.wrs_keeps
    | with_reducible apply ite_keeps
    | with_reducible apply foldl_keeps
    | intro t x ht

theorem execRampEnd_runs (b : Nat) (s : State) : Runs s (execRampEnd b s) := by
  unfold execRampEnd
  repeat' first
    | with_reducible exact Keeps.refl _
    | with_reducible assumption
    | with_reducible apply Runs.next
    | with_reducible apply State.rampEnd_keeps

theorem execPllClamp_runs (b us : Nat) (on : Bool) (s : State) : Runs s (execPllClamp b us on s) := by
  unfold execPllClamp
  repeat' first
    | with_reducible exact Keeps.refl _
    | ((fail_if_no_progress extract_lets +onlyGivenNames u); first | (refine cut (p := Keeps s u) ?_ (fun hu => ?_); rotate_left; clear_value u; rotate_right) | (refine cut (p := Keeps s u.1) ?_ (fun hu => ?_); rotate_left; clear_value u; rotate_right) | (refine cut (p := Keeps s u.2) ?_ (fun hu => ?_); rotate_left; clear_value u; rotate_right) | (have := u.srcs; clear this; dsimp only [u]; clear u) | (have := fun x => u x; clear this) | clear_value u)
    | with_reducible assumption
    | with_reducible apply ite_runs
    | with_reducible apply Runs.next
    | with_reducible apply State.count_keeps
    | with_reducible apply State.wr_keeps
    | with_reducible apply ite_keeps

theorem State.suspect_keeps {s : State} (h : Keeps base s) (b : Nat) : Keeps base (State.suspect s b) := by
  unfold State.suspect
  repeat' first
    | with_reducible assumption
    | ((fail_if_no_progress extract_lets +onlyGivenNames u); first | (refine cut (p := Keeps base u) ?_ (fun hu => ?_); rotate_left; clear_value u; rotate_right) | (refine cut (p := Keeps base u.1) ?_ (fun hu => ?_); rotate_left; clear_value u; rotate_right) | (refine cut (p := Keeps base u.2) ?_ (fun hu => ?_); rotate_left; clear_value u; rotate_right) | (have := u.srcs; clear this; dsimp only [u]; clear u) | (have := fun x => u x; clear this) | clear_value u)
    | with_reducible apply State.modBlock_keeps
    | with_reducible apply State.modCell_keeps
    | with_reducible apply ite_keeps
    | with_reducible apply foldl_keeps
    | intro t x ht
    | simp only [keeps_mk_iff]
    | simp only [u, keeps_mk_iff]

theorem execLockSuspicion_runs (b : Nat) (s : State) : Runs s (execLockSuspicion b s) := by
  unfold execLockSuspicion
  repeat' first
    | with_reducible exact Keeps.refl _
    | with_reducible assumption
    | with_reducible apply Runs.next
    | with_reducible apply State.suspect_keeps

theorem State.unsuspect_keeps {s : State} (h : Keeps base s) (ks : List Nat) : Keeps base (State.unsuspect s ks) := by
  unfold State.unsuspect
  repeat' first
    | with_reducible assumption
    | with_reducible apply State.modBlock_keeps
    | with_reducible apply State.modCell_keeps
    | with_reducible apply foldl_keeps
    | intro t x ht
    | simp only [keeps_mk_iff]

theorem execSuspicionClear_runs (b : Nat) (s : State) : Runs s (execSuspicionClear b s) := by
  unfold execSuspicionClear
  repeat' first
    | with_reducible exact Keeps.refl _
    | with_reducible assumption
    | with_reducible apply ite_runs
    | with_reducible apply Runs.next
    | with_reducible apply State.unsuspect_keeps
    | with_reducible apply ite_keeps

theorem State.declareLoss_keeps {s : State} (h : Keeps base s) (b cause det : Nat) : Keeps base (State.declareLoss s b cause det) := by
  unfold State.declareLoss
  repeat' first
    | with_reducible assumption
    | ((fail_if_no_progress extract_lets +onlyGivenNames u); first | (refine cut (p := Keeps base u) ?_ (fun hu => ?_); rotate_left; clear_value u; rotate_right) | (refine cut (p := Keeps base u.1) ?_ (fun hu => ?_); rotate_left; clear_value u; rotate_right) | (refine cut (p := Keeps base u.2) ?_ (fun hu => ?_); rotate_left; clear_value u; rotate_right) | (have := u.srcs; clear this; dsimp only [u]; clear u) | (have := fun x => u x; clear this) | clear_value u)
    | with_reducible apply State.abortSlice_keeps
    | with_reducible apply State.count_keeps
    | with_reducible apply State.modBlock_keeps
    | with_reducible apply State.pllDone_keeps
    | with_reducible apply State.report_keeps
    | with_reducible apply State.wr_keeps
    | with_reducible apply State.wrs_keeps
    | with_reducible apply ite_keeps
    | with_reducible apply foldl_keeps
    | intro t x ht
    | simp only [keeps_mk_iff]
    | simp only [u, keeps_mk_iff]

theorem execLossOfLock_runs (b cause det : Nat) (s : State) : Runs s (execLossOfLock b cause det s) := by
  unfold execLossOfLock
  repeat' first
    | with_reducible exact Keeps.refl _
    | with_reducible assumption
    | with_reducible apply Runs.next
    | with_reducible apply State.declareLoss_keeps

theorem State.lockLost_keeps {s : State} (h : Keeps base s) (l : Nat) : Keeps base (State.lockLost s l) := by
  unfold State.lockLost
  repeat' first
    | with_reducible assumption
    | ((fail_if_no_progress extract_lets +onlyGivenNames u); first | (refine cut (p := Keeps base u) ?_ (fun hu => ?_); rotate_left; clear_value u; rotate_right) | (refine cut (p := Keeps base u.1) ?_ (fun hu => ?_); rotate_left; clear_value u; rotate_right) | (refine cut (p := Keeps base u.2) ?_ (fun hu => ?_); rotate_left; clear_value u; rotate_right) | (have := u.srcs; clear this; dsimp only [u]; clear u) | (have := fun x => u x; clear this) | clear_value u)
    | with_reducible apply State.dropUnresolved_keeps
    | with_reducible apply State.haltCaravan_keeps
    | with_reducible apply State.modCell_keeps
    | with_reducible apply State.voidRun_keeps
    | with_reducible apply State.wrs_keeps
    | with_reducible apply ite_keeps
    | with_reducible apply foldl_keeps
    | intro t x ht
    | simp only [keeps_mk_iff]
    | simp only [u, keeps_mk_iff]

theorem State.lossGate_keeps {s : State} (h : Keeps base s) (b : Nat) : Keeps base (State.lossGate s b) := by
  unfold State.lossGate
  repeat' first
    | with_reducible assumption
    | ((fail_if_no_progress extract_lets +onlyGivenNames u); first | (refine cut (p := Keeps base u) ?_ (fun hu => ?_); rotate_left; clear_value u; rotate_right) | (refine cut (p := Keeps base u.1) ?_ (fun hu => ?_); rotate_left; clear_value u; rotate_right) | (refine cut (p := Keeps base u.2) ?_ (fun hu => ?_); rotate_left; clear_value u; rotate_right) | (have := u.srcs; clear this; dsimp only [u]; clear u) | (have := fun x => u x; clear this) | clear_value u)
    | with_reducible apply State.gateBlock_keeps
    | with_reducible apply State.judgePending_keeps
    | with_reducible apply State.lockLost_keeps
    | with_reducible apply State.modBlock_keeps
    | with_reducible apply State.unsuspect_keeps
    | with_reducible apply ite_keeps
    | with_reducible apply foldl_keeps
    | intro t x ht
    | simp only [keeps_mk_iff]
    | simp only [u, keeps_mk_iff]

theorem execLockLostGate_runs (b : Nat) (s : State) : Runs s (execLockLostGate b s) := by
  unfold execLockLostGate
  repeat' first
    | with_reducible exact Keeps.refl _
    | with_reducible assumption
    | with_reducible apply Runs.next
    | with_reducible apply State.lossGate_keeps

theorem State.fallback_keeps {s : State} (h : Keeps base s)  : Keeps base (State.fallback s) := by
  unfold State.fallback
  repeat' first
    | with_reducible assumption
    | ((fail_if_no_progress extract_lets +onlyGivenNames u); first | (refine cut (p := Keeps base u) ?_ (fun hu => ?_); rotate_left; clear_value u; rotate_right) | (refine cut (p := Keeps base u.1) ?_ (fun hu => ?_); rotate_left; clear_value u; rotate_right) | (refine cut (p := Keeps base u.2) ?_ (fun hu => ?_); rotate_left; clear_value u; rotate_right) | (have := u.srcs; clear this; dsimp only [u]; clear u) | (have := fun x => u x; clear this) | clear_value u)
    | with_reducible apply State.count_keeps
    | with_reducible apply State.wr_keeps
    | with_reducible apply State.wrs_keeps
    | with_reducible apply ite_keeps

theorem execChipPllFallback_runs  (s : State) : Runs s (execChipPllFallback s) := by
  unfold execChipPllFallback
  repeat' first
    | with_reducible exact Keeps.refl _
    | with_reducible assumption
    | with_reducible apply Runs.next
    | with_reducible apply State.fallback_keeps

theorem execChipPllLock_runs  (s : State) : Runs s (execChipPllLock s) := by
  unfold execChipPllLock
  repeat' first
    | with_reducible exact Keeps.refl _
    | with_reducible assumption
    | with_reducible apply Runs.next
    | with_reducible apply State.wr_keeps

theorem State.usePll_keeps {s : State} (h : Keeps base s)  : Keeps base (State.usePll s) := by
  unfold State.usePll
  repeat' first
    | with_reducible assumption
    | with_reducible apply State.wr_keeps
    | with_reducible apply State.wrs_keeps
    | with_reducible apply ite_keeps

theorem execUsePll_runs  (s : State) : Runs s (execUsePll s) := by
  unfold execUsePll
  repeat' first
    | with_reducible exact Keeps.refl _
    | with_reducible assumption
    | with_reducible apply Runs.next
    | with_reducible apply State.atReg_keeps
    | with_reducible apply State.usePll_keeps
    | intro t x ht
    | intro t ht
    | dsimp only

theorem State.refWindow_keeps {s : State} (h : Keeps base s) (ref n : Nat) : Keeps base (State.refWindow s ref n) := by
  unfold State.refWindow
  repeat' first
    | with_reducible assumption
    | ((fail_if_no_progress extract_lets +onlyGivenNames u); first | (refine cut (p := Keeps base u) ?_ (fun hu => ?_); rotate_left; clear_value u; rotate_right) | (refine cut (p := Keeps base u.1) ?_ (fun hu => ?_); rotate_left; clear_value u; rotate_right) | (refine cut (p := Keeps base u.2) ?_ (fun hu => ?_); rotate_left; clear_value u; rotate_right) | (have := u.srcs; clear this; dsimp only [u]; clear u) | (have := fun x => u x; clear this) | clear_value u)
    | with_reducible apply State.declareLoss_keeps
    | with_reducible apply State.fallback_keeps
    | with_reducible apply State.wr_keeps
    | with_reducible apply State.wrB_keeps
    | with_reducible apply ite_keeps
    | with_reducible apply foldl_keeps
    | intro t x ht

theorem execRefWindow_runs (ref n : Nat) (s : State) : Runs s (execRefWindow ref n s) := by
  unfold execRefWindow
  repeat' first
    | with_reducible exact Keeps.refl _
    | with_reducible assumption
    | with_reducible apply Runs.next
    | with_reducible apply State.refWindow_keeps

end Sys2Proof.Machine
end

