-- ==== Sys2Proof/Laws/Keeps/Fabric.lean ====
section
/-! SUPPORT. `Keeps` through the operations of Machine/Fabric.lean. -/

namespace Sys2Proof.Machine

variable {base : State}

theorem State.fabIgnored_keeps {s : State} (h : Keeps base s) (b why : Nat) : Keeps base (State.fabIgnored s b why) := by
  unfold State.fabIgnored
  repeat' first
    | with_reducible assumption
    | with_reducible apply State.wrs_keeps

theorem State.setPlane_keeps {s : State} (h : Keeps base s) (b p : Nat) (x : Plane) : Keeps base (State.setPlane s b p x) := by
  unfold State.setPlane
  repeat' first
    | with_reducible assumption
    | with_reducible apply State.modBlock_keeps
    | with_reducible apply ite_keeps
    | simp only [keeps_mk_iff]

theorem State.pwEnd_keeps {s : State} (h : Keeps base s) (b res fa : Nat) : Keeps base (State.pwEnd s b res fa) := by
  unfold State.pwEnd
  repeat' first
    | with_reducible assumption
    | with_reducible apply State.modBlock_keeps
    | with_reducible apply State.pulse_keeps
    | with_reducible apply State.wrs_keeps
    | simp only [keeps_mk_iff]

theorem State.pwFail_keeps {s : State} (h : Keeps base s) (b res fa : Nat) : Keeps base (State.pwFail s b res fa) := by
  unfold State.pwFail
  repeat' first
    | with_reducible assumption
    | with_reducible apply State.pwEnd_keeps
    | with_reducible apply State.wr_keeps

theorem State.fabArm_keeps {s : State} (h : Keeps base s) (b : Nat) : Keeps base (State.fabArm s b) := by
  unfold State.fabArm
  repeat' first
    | with_reducible assumption
    | ((fail_if_no_progress extract_lets +onlyGivenNames u); first | (refine cut (p := Keeps base u) ?_ (fun hu => ?_); rotate_left; clear_value u; rotate_right) | (refine cut (p := Keeps base u.1) ?_ (fun hu => ?_); rotate_left; clear_value u; rotate_right) | (refine cut (p := Keeps base u.2) ?_ (fun hu => ?_); rotate_left; clear_value u; rotate_right) | (have := u.srcs; clear this; dsimp only [u]; clear u) | (have := fun x => u x; clear this) | clear_value u)
    | with_reducible apply State.fabIgnored_keeps
    | with_reducible apply State.wr_keeps
    | with_reducible apply ite_keeps

theorem execArm_runs (b : Nat) (s : State) : Runs s (execArm b s) := by
  unfold execArm
  repeat' first
    | with_reducible exact Keeps.refl _
    | with_reducible assumption
    | with_reducible apply Runs.next
    | with_reducible apply State.atReg_keeps
    | with_reducible apply State.fabArm_keeps
    | intro t x ht
    | intro t ht
    | dsimp only

theorem State.fabDisarm_keeps {s : State} (h : Keeps base s) (b : Nat) : Keeps base (State.fabDisarm s b) := by
  unfold State.fabDisarm
  repeat' first
    | with_reducible assumption
    | with_reducible apply State.fabIgnored_keeps
    | with_reducible apply State.wr_keeps
    | with_reducible apply ite_keeps

theorem execDisarm_runs (b : Nat) (s : State) : Runs s (execDisarm b s) := by
  unfold execDisarm
  repeat' first
    | with_reducible exact Keeps.refl _
    | with_reducible assumption
    | with_reducible apply Runs.next
    | with_reducible apply State.atReg_keeps
    | with_reducible apply State.fabDisarm_keeps
    | intro t x ht
    | intro t ht
    | dsimp only

theorem State.fabSwap_keeps {s : State} (h : Keeps base s) (b : Nat) : Keeps base (State.fabSwap s b) := by
  unfold State.fabSwap
  repeat' first
    | with_reducible assumption
    | with_reducible apply State.fabIgnored_keeps
    | with_reducible apply State.modBlock_keeps
    | with_reducible apply ite_keeps
    | simp only [keeps_mk_iff]

theorem execSwap_runs (b : Nat) (s : State) : Runs s (execSwap b s) := by
  unfold execSwap
  repeat' first
    | with_reducible exact Keeps.refl _
    | with_reducible assumption
    | with_reducible apply Runs.next
    | with_reducible apply State.atReg_keeps
    | with_reducible apply State.fabSwap_keeps
    | intro t x ht
    | intro t ht
    | dsimp only

theorem State.fabCommit_keeps {s : State} (h : Keeps base s) (b : Nat) : Keeps base (State.fabCommit s b) := by
  unfold State.fabCommit
  repeat' first
    | with_reducible assumption
    | ((fail_if_no_progress extract_lets +onlyGivenNames u); first | (refine cut (p := Keeps base u) ?_ (fun hu => ?_); rotate_left; clear_value u; rotate_right) | (refine cut (p := Keeps base u.1) ?_ (fun hu => ?_); rotate_left; clear_value u; rotate_right) | (refine cut (p := Keeps base u.2) ?_ (fun hu => ?_); rotate_left; clear_value u; rotate_right) | (have := u.srcs; clear this; dsimp only [u]; clear u) | (have := fun x => u x; clear this) | clear_value u)
    | with_reducible apply State.fabIgnored_keeps
    | with_reducible apply State.modBlock_keeps
    | with_reducible apply State.pulse_keeps
    | with_reducible apply State.wrs_keeps
    | with_reducible apply ite_keeps
    | simp only [keeps_mk_iff]
    | simp only [u, keeps_mk_iff]

theorem execCommit_runs (b : Nat) (s : State) : Runs s (execCommit b s) := by
  unfold execCommit
  repeat' first
    | with_reducible exact Keeps.refl _
    | with_reducible assumption
    | with_reducible apply Runs.next
    | with_reducible apply State.atReg_keeps
    | with_reducible apply State.fabCommit_keeps
    | intro t x ht
    | intro t ht
    | dsimp only

theorem State.tearHeader_keeps {s : State} (h : Keeps base s) (b : Nat) : Keeps base (State.tearHeader s b) := by
  unfold State.tearHeader
  repeat' first
    | with_reducible assumption
    | ((fail_if_no_progress extract_lets +onlyGivenNames u); first | (refine cut (p := Keeps base u) ?_ (fun hu => ?_); rotate_left; clear_value u; rotate_right) | (refine cut (p := Keeps base u.1) ?_ (fun hu => ?_); rotate_left; clear_value u; rotate_right) | (refine cut (p := Keeps base u.2) ?_ (fun hu => ?_); rotate_left; clear_value u; rotate_right) | (have := u.srcs; clear this; dsimp only [u]; clear u) | (have := fun x => u x; clear this) | clear_value u)
    | with_reducible apply State.setPlane_keeps
    | with_reducible apply State.wr_keeps
    | with_reducible apply ite_keeps
    | simp only [keeps_mk_iff]
    | simp only [u, keeps_mk_iff]

theorem State.driveFab_keeps {s : State} (h : Keeps base s) (c v : Nat) : Keeps base (State.driveFab s c v) := by
  unfold State.driveFab
  repeat' first
    | with_reducible assumption
    | ((fail_if_no_progress extract_lets +onlyGivenNames u); first | (refine cut (p := Keeps base u) ?_ (fun hu => ?_); rotate_left; clear_value u; rotate_right) | (refine cut (p := Keeps base u.1) ?_ (fun hu => ?_); rotate_left; clear_value u; rotate_right) | (refine cut (p := Keeps base u.2) ?_ (fun hu => ?_); rotate_left; clear_value u; rotate_right) | (have := u.srcs; clear this; dsimp only [u]; clear u) | (have := fun x => u x; clear this) | clear_value u)
    | with_reducible apply State.setCell_keeps
    | simp only [keeps_mk_iff]
    | simp only [u, keeps_mk_iff]

theorem State.blankOutputs_keeps {s : State} (h : Keeps base s) (b : Nat) : Keeps base (State.blankOutputs s b) := by
  unfold State.blankOutputs
  repeat' first
    | with_reducible assumption
    | with_reducible apply State.driveFab_keeps
    | with_reducible apply State.modBlock_keeps
    | with_reducible apply State.modCell_keeps
    | with_reducible apply foldl_keeps
    | intro t x ht
    | simp only [keeps_mk_iff]

theorem State.planeError_keeps {s : State} (h : Keeps base s) (b p : Nat) : Keeps base (State.planeError s b p) := by
  unfold State.planeError
  repeat' first
    | with_reducible assumption
    | ((fail_if_no_progress extract_lets +onlyGivenNames u); first | (refine cut (p := Keeps base u) ?_ (fun hu => ?_); rotate_left; clear_value u; rotate_right) | (refine cut (p := Keeps base u.1) ?_ (fun hu => ?_); rotate_left; clear_value u; rotate_right) | (refine cut (p := Keeps base u.2) ?_ (fun hu => ?_); rotate_left; clear_value u; rotate_right) | (have := u.srcs; clear this; dsimp only [u]; clear u) | (have := fun x => u x; clear this) | clear_value u)
    | with_reducible apply State.blankOutputs_keeps
    | with_reducible apply State.count_keeps
    | with_reducible apply State.modBlock_keeps
    | with_reducible apply State.report_keeps
    | with_reducible apply State.showFabRun_keeps
    | with_reducible apply State.wrs_keeps
    | simp only [keeps_mk_iff]
    | simp only [u, keeps_mk_iff]

theorem State.orphan_keeps {s : State} (h : Keeps base s) (b : Nat) : Keeps base (State.orphan s b) := by
  unfold State.orphan
  repeat' first
    | with_reducible assumption
    | simp only [keeps_mk_iff]

theorem State.planeSwap_keeps {s : State} (h : Keeps base s) (b : Nat) (bad : Bool) : Keeps base (State.planeSwap s b bad) := by
  unfold State.planeSwap
  repeat' first
    | with_reducible assumption
    | ((fail_if_no_progress extract_lets +onlyGivenNames u); first | (refine cut (p := Keeps base u) ?_ (fun hu => ?_); rotate_left; clear_value u; rotate_right) | (refine cut (p := Keeps base u.1) ?_ (fun hu => ?_); rotate_left; clear_value u; rotate_right) | (refine cut (p := Keeps base u.2) ?_ (fun hu => ?_); rotate_left; clear_value u; rotate_right) | (have := u.srcs; clear this; dsimp only [u]; clear u) | (have := fun x => u x; clear this) | clear_value u)
    | with_reducible apply State.modBlock_keeps
    | with_reducible apply State.modCell_keeps
    | with_reducible apply State.orphan_keeps
    | with_reducible apply State.planeError_keeps
    | with_reducible apply State.wr_keeps
    | with_reducible apply State.wrs_keeps
    | with_reducible apply ite_keeps
    | with_reducible apply foldl_keeps
    | intro t x ht
    | simp only [keeps_mk_iff]
    | simp only [u, keeps_mk_iff]

theorem execPlaneSwap_runs (b : Nat) (bad : Bool) (s : State) : Runs s (execPlaneSwap b bad s) := by
  unfold execPlaneSwap
  repeat' first
    | with_reducible exact Keeps.refl _
    | with_reducible assumption
    | with_reducible apply ite_runs
    | with_reducible apply Runs.next
    | with_reducible apply State.planeSwap_keeps
    | with_reducible apply ite_keeps

theorem State.loadPlane_keeps {s : State} (h : Keeps base s) (b p : Nat) (all : Bool) : Keeps base (State.loadPlane s b p all) := by
  unfold State.loadPlane
  repeat' first
    | with_reducible assumption
    | ((fail_if_no_progress extract_lets +onlyGivenNames u); first | (refine cut (p := Keeps base u) ?_ (fun hu => ?_); rotate_left; clear_value u; rotate_right) | (refine cut (p := Keeps base u.1) ?_ (fun hu => ?_); rotate_left; clear_value u; rotate_right) | (refine cut (p := Keeps base u.2) ?_ (fun hu => ?_); rotate_left; clear_value u; rotate_right) | (have := u.srcs; clear this; dsimp only [u]; clear u) | (have := fun x => u x; clear this) | clear_value u)
    | with_reducible apply State.modBlock_keeps
    | with_reducible apply State.showFabRun_keeps
    | with_reducible apply State.showOverclk_keeps
    | with_reducible apply State.wrs_keeps
    | with_reducible apply ite_keeps
    | simp only [keeps_mk_iff]
    | simp only [u, keeps_mk_iff]

theorem State.endSwapHold_keeps {s : State} (h : Keeps base s) (l : Nat) : Keeps base (State.endSwapHold s l) := by
  unfold State.endSwapHold
  repeat' first
    | with_reducible assumption
    | with_reducible apply State.endSync_keeps
    | with_reducible apply State.modRun_keeps
    | with_reducible apply ite_keeps
    | simp only [keeps_mk_iff]
    | split

theorem State.swapComplete_keeps {s : State} (h : Keeps base s) (b : Nat) : Keeps base (State.swapComplete s b) := by
  unfold State.swapComplete
  repeat' first
    | with_reducible assumption
    | ((fail_if_no_progress extract_lets +onlyGivenNames u); first | (refine cut (p := Keeps base u) ?_ (fun hu => ?_); rotate_left; clear_value u; rotate_right) | (refine cut (p := Keeps base u.1) ?_ (fun hu => ?_); rotate_left; clear_value u; rotate_right) | (refine cut (p := Keeps base u.2) ?_ (fun hu => ?_); rotate_left; clear_value u; rotate_right) | (have := u.srcs; clear this; dsimp only [u]; clear u) | (have := fun x => u x; clear this) | clear_value u)
    | with_reducible apply State.endSwapHold_keeps
    | with_reducible apply State.loadPlane_keeps
    | with_reducible apply State.modBlock_keeps
    | with_reducible apply State.pulse_keeps
    | with_reducible apply State.wrs_keeps
    | with_reducible apply ite_keeps
    | with_reducible apply foldl_keeps
    | intro t x ht
    | simp only [keeps_mk_iff]
    | simp only [u, keeps_mk_iff]

theorem execSwapComplete_runs (b : Nat) (s : State) : Runs s (execSwapComplete b s) := by
  unfold execSwapComplete
  repeat' first
    | with_reducible exact Keeps.refl _
    | with_reducible assumption
    | with_reducible apply ite_runs
    | with_reducible apply Runs.next
    | with_reducible apply State.swapComplete_keeps
    | with_reducible apply ite_keeps

theorem State.bootPll_keeps {s : State} (h : Keeps base s) (b p : Nat) : Keeps base (State.bootPll s b p) := by
  unfold State.bootPll
  repeat' first
    | with_reducible assumption
    | ((fail_if_no_progress extract_lets +onlyGivenNames u); first | (refine cut (p := Keeps base u) ?_ (fun hu => ?_); rotate_left; clear_value u; rotate_right) | (refine cut (p := Keeps base u.1) ?_ (fun hu => ?_); rotate_left; clear_value u; rotate_right) | (refine cut (p := Keeps base u.2) ?_ (fun hu => ?_); rotate_left; clear_value u; rotate_right) | (have := u.srcs; clear this; dsimp only [u]; clear u) | (have := fun x => u x; clear this) | clear_value u)
    | with_reducible apply State.modBlock_keeps
    | with_reducible apply State.setActivePll_keeps
    | with_reducible apply State.wr_keeps
    | with_reducible apply ite_keeps
    | simp only [keeps_mk_iff]
    | simp only [u, keeps_mk_iff]

theorem State.wearPlanes_keeps {s : State} (h : Keeps base s) (l : List (Nat × Nat)) : Keeps base (State.wearPlanes s l) := by
  unfold State.wearPlanes
  repeat' first
    | with_reducible assumption
    | with_reducible apply State.setPlane_keeps
    | with_reducible apply foldl_keeps
    | intro t x ht
    | simp only [keeps_mk_iff]

theorem State.senseBlock_keeps {s : State} (h : Keeps base s) (b : Nat) (p : Option Nat) : Keeps base (State.senseBlock s b p) := by
  unfold State.senseBlock
  repeat' first
    | with_reducible assumption
    | ((fail_if_no_progress extract_lets +onlyGivenNames u); first | (refine cut (p := Keeps base u) ?_ (fun hu => ?_); rotate_left; clear_value u; rotate_right) | (refine cut (p := Keeps base u.1) ?_ (fun hu => ?_); rotate_left; clear_value u; rotate_right) | (refine cut (p := Keeps base u.2) ?_ (fun hu => ?_); rotate_left; clear_value u; rotate_right) | (have := u.srcs; clear this; dsimp only [u]; clear u) | (have := fun x => u x; clear this) | clear_value u)
    | with_reducible apply State.loadPlane_keeps
    | with_reducible apply State.modBlock_keeps
    | with_reducible apply State.planeError_keeps
    | with_reducible apply State.wrs_keeps
    | with_reducible apply ite_keeps
    | simp only [keeps_mk_iff]
    | simp only [u, keeps_mk_iff]
    | split
    | (dsimp only [u]; split)

theorem State.parityError_keeps {s : State} (h : Keeps base s) (b fa : Nat) : Keeps base (State.parityError s b fa) := by
  unfold State.parityError
  repeat' first
    | with_reducible assumption
    | ((fail_if_no_progress extract_lets +onlyGivenNames u); first | (refine cut (p := Keeps base u) ?_ (fun hu => ?_); rotate_left; clear_value u; rotate_right) | (refine cut (p := Keeps base u.1) ?_ (fun hu => ?_); rotate_left; clear_value u; rotate_right) | (refine cut (p := Keeps base u.2) ?_ (fun hu => ?_); rotate_left; clear_value u; rotate_right) | (have := u.srcs; clear this; dsimp only [u]; clear u) | (have := fun x => u x; clear this) | clear_value u)
    | with_reducible apply State.modBlock_keeps
    | with_reducible apply State.reportAs_keeps
    | with_reducible apply ite_keeps
    | simp only [keeps_mk_iff]
    | simp only [u, keeps_mk_iff]

theorem execLatchParityError_runs (b fa : Nat) (s : State) : Runs s (execLatchParityError b fa s) := by
  unfold execLatchParityError
  repeat' first
    | with_reducible exact Keeps.refl _
    | with_reducible assumption
    | with_reducible apply Runs.next
    | with_reducible apply State.parityError_keeps

theorem execFrameReload_runs (b fa : Nat) (bad : Bool) (s : State) : Runs s (execFrameReload b fa bad s) := by
  unfold execFrameReload
  repeat' first
    | with_reducible exact Keeps.refl _
    | ((fail_if_no_progress extract_lets +onlyGivenNames u); first | (refine cut (p := Keeps s u) ?_ (fun hu => ?_); rotate_left; clear_value u; rotate_right) | (refine cut (p := Keeps s u.1) ?_ (fun hu => ?_); rotate_left; clear_value u; rotate_right) | (refine cut (p := Keeps s u.2) ?_ (fun hu => ?_); rotate_left; clear_value u; rotate_right) | (have := u.srcs; clear this; dsimp only [u]; clear u) | (have := fun x => u x; clear this) | clear_value u)
    | with_reducible assumption
    | with_reducible apply ite_runs
    | with_reducible apply Runs.next
    | with_reducible apply State.count_keeps
    | with_reducible apply State.modBlock_keeps
    | with_reducible apply State.planeError_keeps
    | with_reducible apply State.wr_keeps
    | with_reducible apply ite_keeps
    | simp only [keeps_mk_iff]
    | simp only [u, keeps_mk_iff]

theorem State.pushLane_keeps {s : State} (h : Keeps base s) (c v : Nat) : Keeps base (State.pushLane s c v) := by
  unfold State.pushLane
  repeat' first
    | with_reducible assumption
    | with_reducible apply State.modCell_keeps
    | with_reducible apply ite_keeps
    | simp only [keeps_mk_iff]

theorem execFabricPush_runs (c : Nat) (v : Nat × List UnitOp) (s : State) : Runs s (execFabricPush c v s) := by
  unfold execFabricPush
  repeat' first
    | with_reducible exact Keeps.refl _
    | ((fail_if_no_progress extract_lets +onlyGivenNames u); first | (refine cut (p := Keeps s u) ?_ (fun hu => ?_); rotate_left; clear_value u; rotate_right) | (refine cut (p := Keeps s u.1) ?_ (fun hu => ?_); rotate_left; clear_value u; rotate_right) | (refine cut (p := Keeps s u.2) ?_ (fun hu => ?_); rotate_left; clear_value u; rotate_right) | (have := u.srcs; clear this; dsimp only [u]; clear u) | (have := fun x => u x; clear this) | clear_value u)
    | with_reducible assumption
    | with_reducible apply ite_runs
    | with_reducible apply Runs.next
    | with_reducible apply State.pushLane_keeps
    | with_reducible apply State.useUnits_keeps
    | with_reducible apply ite_keeps
    | simp only [keeps_mk_iff]
    | simp only [u, keeps_mk_iff]

theorem execTapTake_runs (c : Nat) (s : State) : Runs s (execTapTake c s) := by
  unfold execTapTake
  repeat' first
    | with_reducible exact Keeps.refl _
    | with_reducible assumption
    | with_reducible apply ite_runs
    | with_reducible apply Runs.next
    | with_reducible apply State.modCell_keeps
    | with_reducible apply ite_keeps
    | simp only [keeps_mk_iff]
    | split

theorem State.driveOutput_keeps {s : State} (h : Keeps base s) (c k : Nat) (v : Bool) : Keeps base (State.driveOutput s c k v) := by
  unfold State.driveOutput
  repeat' first
    | with_reducible assumption
    | with_reducible apply State.driveFab_keeps
    | with_reducible apply State.modBlock_keeps
    | with_reducible apply State.modCell_keeps
    | with_reducible apply ite_keeps
    | simp only [keeps_mk_iff]

theorem execFabCondition_runs (c k : Nat) (v : Bool) (s : State) : Runs s (execFabCondition c k v s) := by
  unfold execFabCondition
  repeat' first
    | with_reducible exact Keeps.refl _
    | with_reducible assumption
    | with_reducible apply ite_runs
    | with_reducible apply Runs.next
    | with_reducible apply State.driveOutput_keeps
    | with_reducible apply ite_keeps

end Sys2Proof.Machine
end

