-- ==== Sys2Proof/Laws/Keeps/Network.lean ====
section
/-! SUPPORT. `Keeps` through the operations of Machine/Network.lean. -/

namespace Sys2Proof.Machine

variable {base : State}

theorem State.violation_keeps {s : State} (h : Keeps base s) (m kind reason a : Nat) : Keeps base (State.violation s m kind reason a) := by
  unfold State.violation
  repeat' first
    | with_reducible assumption
    | ((fail_if_no_progress extract_lets +onlyGivenNames u); first | (refine cut (p := Keeps base u) ?_ (fun hu => ?_); rotate_left; clear_value u; rotate_right) | (refine cut (p := Keeps base u.1) ?_ (fun hu => ?_); rotate_left; clear_value u; rotate_right) | (refine cut (p := Keeps base u.2) ?_ (fun hu => ?_); rotate_left; clear_value u; rotate_right) | (have := u.srcs; clear this; dsimp only [u]; clear u) | (have := fun x => u x; clear this) | clear_value u)
    | with_reducible apply State.count_keeps
    | with_reducible apply State.wrs_keeps
    | with_reducible apply ite_keeps

theorem State.frozenViolation_keeps {s : State} (h : Keeps base s) (kind a : Nat) : Keeps base (State.frozenViolation s kind a) := by
  unfold State.frozenViolation
  repeat' first
    | with_reducible assumption
    | with_reducible apply State.count_keeps
    | with_reducible apply State.drawn_keeps
    | with_reducible apply State.violation_keeps

theorem State.writeMpr_keeps {s : State} (h : Keeps base s) (m t n which mask v : Nat) : Keeps base (State.writeMpr s m t n which mask v) := by
  unfold State.writeMpr
  repeat' first
    | with_reducible assumption
    | with_reducible apply State.wr_keeps
    | with_reducible apply State.wrs_keeps
    | with_reducible apply ite_keeps

theorem execMprWrite_runs (m t n which mask v : Nat) (s : State) : Runs s (execMprWrite m t n which mask v s) := by
  unfold execMprWrite
  repeat' first
    | with_reducible exact Keeps.refl _
    | with_reducible assumption
    | with_reducible apply Runs.next
    | with_reducible apply State.atReg_keeps
    | with_reducible apply State.writeMpr_keeps
    | intro t x ht
    | intro t ht
    | dsimp only

theorem State.updateAnswered_keeps {s : State} (h : Keeps base s) (q : Req) (new : Bool) : Keeps base (State.updateAnswered s q new) := by
  unfold State.updateAnswered
  repeat' first
    | with_reducible assumption
    | with_reducible apply State.modRegion_keeps
    | with_reducible apply ite_keeps
    | simp only [keeps_mk_iff]
    | split

theorem State.writeGrant_keeps {s : State} (h : Keeps base s) (m i c mask v : Nat) : Keeps base (State.writeGrant s m i c mask v) := by
  unfold State.writeGrant
  repeat' first
    | with_reducible assumption
    | ((fail_if_no_progress extract_lets +onlyGivenNames u); first | (refine cut (p := Keeps base u) ?_ (fun hu => ?_); rotate_left; clear_value u; rotate_right) | (refine cut (p := Keeps base u.1) ?_ (fun hu => ?_); rotate_left; clear_value u; rotate_right) | (refine cut (p := Keeps base u.2) ?_ (fun hu => ?_); rotate_left; clear_value u; rotate_right) | (have := u.srcs; clear this; dsimp only [u]; clear u) | (have := fun x => u x; clear this) | clear_value u)
    | with_reducible apply State.wr_keeps
    | with_reducible apply ite_keeps

theorem execBerthGrantWrite_runs (m i c mask v : Nat) (s : State) : Runs s (execBerthGrantWrite m i c mask v s) := by
  unfold execBerthGrantWrite
  repeat' first
    | with_reducible exact Keeps.refl _
    | with_reducible assumption
    | with_reducible apply Runs.next
    | with_reducible apply State.atReg_keeps
    | with_reducible apply State.writeGrant_keeps
    | intro t x ht
    | intro t ht
    | dsimp only

theorem State.tollResponse_keeps {s : State} (h : Keeps base s) (q : Req) (words status lat : Nat) : Keeps base (State.tollResponse s q words status lat) := by
  unfold State.tollResponse
  repeat' first
    | with_reducible assumption
    | ((fail_if_no_progress extract_lets +onlyGivenNames u); first | (refine cut (p := Keeps base u) ?_ (fun hu => ?_); rotate_left; clear_value u; rotate_right) | (refine cut (p := Keeps base u.1) ?_ (fun hu => ?_); rotate_left; clear_value u; rotate_right) | (refine cut (p := Keeps base u.2) ?_ (fun hu => ?_); rotate_left; clear_value u; rotate_right) | (have := u.srcs; clear this; dsimp only [u]; clear u) | (have := fun x => u x; clear this) | clear_value u)
    | with_reducible apply State.count_keeps
    | with_reducible apply State.wr_keeps
    | with_reducible apply ite_keeps
    | with_reducible refine (State.access_keeps ?_ _ _ _ _).1 _ (by assumption)
    | with_reducible refine (State.access_keeps ?_ _ _ _ _).2 _ _ _ (by assumption)

theorem State.tollClear_keeps {s : State} (h : Keeps base s)  : Keeps base (State.tollClear s) := by
  unfold State.tollClear
  repeat' first
    | with_reducible assumption
    | with_reducible apply State.resetRegs_keeps

theorem execTollClear_runs  (s : State) : Runs s (execTollClear s) := by
  unfold execTollClear
  repeat' first
    | with_reducible exact Keeps.refl _
    | with_reducible assumption
    | with_reducible apply Runs.next
    | with_reducible apply State.atReg_keeps
    | with_reducible apply State.tollClear_keeps
    | intro t x ht
    | intro t ht
    | dsimp only

theorem State.streamError_keeps {s : State} (h : Keeps base s) (c : Nat) : Keeps base (State.streamError s c) := by
  unfold State.streamError
  repeat' first
    | with_reducible assumption
    | with_reducible apply State.stopDma_keeps
    | with_reducible apply State.wr_keeps
    | simp only [keeps_mk_iff]
    | split

theorem State.dmaEnd_keeps {s : State} (h : Keeps base s) (k st kind : Nat) (stopped : Bool) : Keeps base (State.dmaEnd s k st kind stopped) := by
  unfold State.dmaEnd
  repeat' first
    | with_reducible assumption
    | with_reducible apply State.wrs_keeps

theorem State.hostError_keeps {s : State} (h : Keeps base s) (a st : Nat) : Keeps base (State.hostError s a st) := by
  unfold State.hostError
  repeat' first
    | with_reducible assumption
    | ((fail_if_no_progress extract_lets +onlyGivenNames u); first | (refine cut (p := Keeps base u) ?_ (fun hu => ?_); rotate_left; clear_value u; rotate_right) | (refine cut (p := Keeps base u.1) ?_ (fun hu => ?_); rotate_left; clear_value u; rotate_right) | (refine cut (p := Keeps base u.2) ?_ (fun hu => ?_); rotate_left; clear_value u; rotate_right) | (have := u.srcs; clear this; dsimp only [u]; clear u) | (have := fun x => u x; clear this) | clear_value u)
    | with_reducible apply State.count_keeps
    | with_reducible apply State.wr_keeps
    | with_reducible apply State.wrs_keeps
    | with_reducible apply ite_keeps

theorem State.errorAt_keeps {s : State} (h : Keeps base s) (q : Req) (status : Nat) : Keeps base (State.errorAt s q status) := by
  unfold State.errorAt
  repeat' first
    | with_reducible assumption
    | ((fail_if_no_progress extract_lets +onlyGivenNames u); first | (refine cut (p := Keeps base u) ?_ (fun hu => ?_); rotate_left; clear_value u; rotate_right) | (refine cut (p := Keeps base u.1) ?_ (fun hu => ?_); rotate_left; clear_value u; rotate_right) | (refine cut (p := Keeps base u.2) ?_ (fun hu => ?_); rotate_left; clear_value u; rotate_right) | (have := u.srcs; clear this; dsimp only [u]; clear u) | (have := fun x => u x; clear this) | clear_value u)
    | with_reducible apply State.dmaEnd_keeps
    | with_reducible apply State.hostError_keeps
    | with_reducible apply State.streamError_keeps
    | with_reducible apply ite_keeps

theorem State.finish_keeps {s : State} (h : Keeps base s) (q : Req) (status : Nat) (data : List Nat) : Keeps base (State.finish s q status data) := by
  unfold State.finish
  repeat' first
    | with_reducible assumption
    | ((fail_if_no_progress extract_lets +onlyGivenNames u); first | (refine cut (p := Keeps base u) ?_ (fun hu => ?_); rotate_left; clear_value u; rotate_right) | (refine cut (p := Keeps base u.1) ?_ (fun hu => ?_); rotate_left; clear_value u; rotate_right) | (refine cut (p := Keeps base u.2) ?_ (fun hu => ?_); rotate_left; clear_value u; rotate_right) | (have := u.srcs; clear this; dsimp only [u]; clear u) | (have := fun x => u x; clear this) | clear_value u)
    | with_reducible apply State.errorAt_keeps
    | with_reducible apply State.updateAnswered_keeps
    | with_reducible apply ite_keeps
    | simp only [keeps_mk_iff]
    | simp only [u, keeps_mk_iff]

theorem State.respond_keeps {s : State} (h : Keeps base s) (q : Req) (status : Nat) (data : List Nat) : Keeps base (State.respond s q status data) := by
  unfold State.respond
  repeat' first
    | with_reducible assumption
    | ((fail_if_no_progress extract_lets +onlyGivenNames u); first | (refine cut (p := Keeps base u) ?_ (fun hu => ?_); rotate_left; clear_value u; rotate_right) | (refine cut (p := Keeps base u.1) ?_ (fun hu => ?_); rotate_left; clear_value u; rotate_right) | (refine cut (p := Keeps base u.2) ?_ (fun hu => ?_); rotate_left; clear_value u; rotate_right) | (have := u.srcs; clear this; dsimp only [u]; clear u) | (have := fun x => u x; clear this) | clear_value u)
    | with_reducible apply ite_keeps
    | simp only [keeps_mk_iff]
    | simp only [u, keeps_mk_iff]

theorem State.tollIssue_keeps {s : State} (h : Keeps base s) (q : Req) : Keeps base (State.tollIssue s q) := by
  unfold State.tollIssue
  repeat' first
    | with_reducible assumption
    | ((fail_if_no_progress extract_lets +onlyGivenNames u); first | (refine cut (p := Keeps base u) ?_ (fun hu => ?_); rotate_left; clear_value u; rotate_right) | (refine cut (p := Keeps base u.1) ?_ (fun hu => ?_); rotate_left; clear_value u; rotate_right) | (refine cut (p := Keeps base u.2) ?_ (fun hu => ?_); rotate_left; clear_value u; rotate_right) | (have := u.srcs; clear this; dsimp only [u]; clear u) | (have := fun x => u x; clear this) | clear_value u)
    | with_reducible apply State.count_keeps
    | with_reducible apply ite_keeps
    | with_reducible refine (State.access_keeps ?_ _ _ _ _).1 _ (by assumption)
    | with_reducible refine (State.access_keeps ?_ _ _ _ _).2 _ _ _ (by assumption)

theorem State.launch_keeps {s : State} (h : Keeps base s) (q0 : Req) : Keeps base (State.launch s q0) := by
  unfold State.launch
  repeat' first
    | with_reducible assumption
    | ((fail_if_no_progress extract_lets +onlyGivenNames u); first | (refine cut (p := Keeps base u) ?_ (fun hu => ?_); rotate_left; clear_value u; rotate_right) | (refine cut (p := Keeps base u.1) ?_ (fun hu => ?_); rotate_left; clear_value u; rotate_right) | (refine cut (p := Keeps base u.2) ?_ (fun hu => ?_); rotate_left; clear_value u; rotate_right) | (have := u.srcs; clear this; dsimp only [u]; clear u) | (have := fun x => u x; clear this) | clear_value u)
    | with_reducible apply State.endIdle_keeps
    | with_reducible apply State.respond_keeps
    | with_reducible apply State.tollIssue_keeps
    | with_reducible apply ite_keeps
    | simp only [keeps_mk_iff]
    | simp only [u, keeps_mk_iff]

theorem State.check_keeps {s : State} (h : Keeps base s) (q : Req) {st : Nat} {t : State} (e : s.check q = .refused st t) :
    Keeps base t := by
  unfold State.check at e
  dsimp only at e
  repeat' split at e
  all_goals cases e
  all_goals first
    | exact h
    | exact State.violation_keeps h _ _ _ _
    | exact State.count_keeps h _ _


theorem State.issue_keeps {s : State} (h : Keeps base s) (q : Req) : Keeps base (s.issue q) := by
  unfold State.issue
  split
  · exact State.launch_keeps h _
  · exact State.waits_keeps h _
  · next e => exact State.finish_keeps (State.check_keeps h q e) _ _ _


theorem execRequestIssue_runs (i tag subid kind addr len bytes : Nat) (data : List Nat) (fetch : Bool) (s : State) : Runs s (execRequestIssue i tag subid kind addr len bytes data fetch s) := by
  unfold execRequestIssue
  repeat' first
    | with_reducible exact Keeps.refl _
    | ((fail_if_no_progress extract_lets +onlyGivenNames u); first | (refine cut (p := Keeps s u) ?_ (fun hu => ?_); rotate_left; clear_value u; rotate_right) | (refine cut (p := Keeps s u.1) ?_ (fun hu => ?_); rotate_left; clear_value u; rotate_right) | (refine cut (p := Keeps s u.2) ?_ (fun hu => ?_); rotate_left; clear_value u; rotate_right) | (have := u.srcs; clear this; dsimp only [u]; clear u) | (have := fun x => u x; clear this) | clear_value u)
    | with_reducible assumption
    | with_reducible apply ite_runs
    | with_reducible apply Runs.next
    | with_reducible apply State.finish_keeps
    | with_reducible apply State.frozenViolation_keeps
    | with_reducible apply State.issue_keeps
    | with_reducible apply State.waitsNot_keeps
    | with_reducible apply State.wr_keeps
    | with_reducible apply ite_keeps
    | simp only [keeps_mk_iff]
    | simp only [u, keeps_mk_iff]
    | with_reducible refine (State.access_keeps ?_ _ _ _ _).1 _ (by assumption)
    | with_reducible refine (State.access_keeps ?_ _ _ _ _).2 _ _ _ (by assumption)
    | split
    | (dsimp only [u]; split)

theorem State.arrived_keeps {s : State} (h : Keeps base s) (r : Rsp) (lat : Nat) : Keeps base (s.arrived r lat).1 := by
  unfold State.arrived
  dsimp only
  have h1 : Keeps base { s with net := { s.net with rsps := s.net.rsps.erase r } } := by simpa only [keeps_mk_iff] using h
  repeat' split
  · simpa only [keeps_mk_iff] using h
  · simpa only [keeps_mk_iff] using State.tollResponse_keeps h1 r.req r.data.length r.status lat
  · exact State.tollResponse_keeps h1 _ _ _ _


theorem State.deliver_keeps {s : State} (h : Keeps base s) (i tag lat : Nat) (ok : Rsp → Bool) : Keeps base (State.deliver s i tag lat ok) := by
  unfold State.deliver
  repeat' first
    | with_reducible assumption
    | ((fail_if_no_progress extract_lets +onlyGivenNames u); first | (refine cut (p := Keeps base u) ?_ (fun hu => ?_); rotate_left; clear_value u; rotate_right) | (refine cut (p := Keeps base u.1) ?_ (fun hu => ?_); rotate_left; clear_value u; rotate_right) | (refine cut (p := Keeps base u.2) ?_ (fun hu => ?_); rotate_left; clear_value u; rotate_right) | (have := u.srcs; clear this; dsimp only [u]; clear u) | (have := fun x => u x; clear this) | clear_value u)
    | with_reducible apply State.arrived_keeps
    | with_reducible apply State.finish_keeps
    | with_reducible apply ite_keeps
    | simp only [keeps_mk_iff]
    | simp only [u, keeps_mk_iff]
    | split
    | (dsimp only [u]; split)

theorem execRspData_runs (i tag lat : Nat) (s : State) : Runs s (execRspData i tag lat s) := by
  unfold execRspData
  repeat' first
    | with_reducible exact Keeps.refl _
    | with_reducible assumption
    | with_reducible apply ite_runs
    | with_reducible apply Runs.next
    | with_reducible apply State.deliver_keeps
    | with_reducible apply ite_keeps
    | with_reducible refine (State.access_keeps ?_ _ _ _ _).1 _ (by assumption)
    | with_reducible refine (State.access_keeps ?_ _ _ _ _).2 _ _ _ (by assumption)

theorem execRspAck_runs (i tag lat : Nat) (s : State) : Runs s (execRspAck i tag lat s) := by
  unfold execRspAck
  repeat' first
    | with_reducible exact Keeps.refl _
    | with_reducible assumption
    | with_reducible apply ite_runs
    | with_reducible apply Runs.next
    | with_reducible apply State.deliver_keeps
    | with_reducible apply ite_keeps
    | with_reducible refine (State.access_keeps ?_ _ _ _ _).1 _ (by assumption)
    | with_reducible refine (State.access_keeps ?_ _ _ _ _).2 _ _ _ (by assumption)

theorem execRspErr_runs (i tag lat : Nat) (s : State) : Runs s (execRspErr i tag lat s) := by
  unfold execRspErr
  repeat' first
    | with_reducible exact Keeps.refl _
    | with_reducible assumption
    | with_reducible apply ite_runs
    | with_reducible apply Runs.next
    | with_reducible apply State.deliver_keeps
    | with_reducible apply ite_keeps

theorem execResponseTimeout_runs (i tag : Nat) (s : State) : Runs s (execResponseTimeout i tag s) := by
  unfold execResponseTimeout
  repeat' first
    | with_reducible exact Keeps.refl _
    | ((fail_if_no_progress extract_lets +onlyGivenNames u); first | (refine cut (p := Keeps s u) ?_ (fun hu => ?_); rotate_left; clear_value u; rotate_right) | (refine cut (p := Keeps s u.1) ?_ (fun hu => ?_); rotate_left; clear_value u; rotate_right) | (refine cut (p := Keeps s u.2) ?_ (fun hu => ?_); rotate_left; clear_value u; rotate_right) | (have := u.srcs; clear this; dsimp only [u]; clear u) | (have := fun x => u x; clear this) | clear_value u)
    | with_reducible assumption
    | with_reducible apply ite_runs
    | with_reducible apply Runs.next
    | with_reducible apply State.count_keeps
    | with_reducible apply State.finish_keeps
    | with_reducible apply ite_keeps
    | simp only [keeps_mk_iff]
    | simp only [u, keeps_mk_iff]
    | split
    | (dsimp only [u]; split)

theorem execCompatWakeTimeout_runs (i tag : Nat) (s : State) : Runs s (execCompatWakeTimeout i tag s) := by
  unfold execCompatWakeTimeout
  repeat' first
    | with_reducible exact Keeps.refl _
    | with_reducible assumption
    | with_reducible apply Runs.next
    | with_reducible apply State.count_keeps
    | with_reducible apply State.finish_keeps
    | with_reducible apply State.waitsNot_keeps
    | simp only [keeps_mk_iff]
    | split

theorem State.passOne_keeps {s : State} (h : Keeps base s) (o : Nat) : Keeps base (State.passOne s o) := by
  unfold State.passOne
  repeat' first
    | with_reducible assumption
    | ((fail_if_no_progress extract_lets +onlyGivenNames u); first | (refine cut (p := Keeps base u) ?_ (fun hu => ?_); rotate_left; clear_value u; rotate_right) | (refine cut (p := Keeps base u.1) ?_ (fun hu => ?_); rotate_left; clear_value u; rotate_right) | (refine cut (p := Keeps base u.2) ?_ (fun hu => ?_); rotate_left; clear_value u; rotate_right) | (have := u.srcs; clear this; dsimp only [u]; clear u) | (have := fun x => u x; clear this) | clear_value u)
    | with_reducible apply ite_keeps
    | simp only [keeps_mk_iff]
    | simp only [u, keeps_mk_iff]
    | split
    | (dsimp only [u]; split)

theorem State.travel_keeps {s : State} (h : Keeps base s) (i tag n : Nat) : Keeps base (s.travel i tag n) := by
  induction n generalizing s with
  | zero => exact h
  | succ n ih =>
    unfold State.travel
    split
    · exact ih (State.passOne_keeps h _)
    · exact h


theorem State.reach_keeps {s : State} (h : Keeps base s) (i tag : Nat) : Keeps base (State.reach s i tag) := by
  unfold State.reach
  repeat' first
    | with_reducible assumption
    | with_reducible apply State.travel_keeps

theorem State.drained_keeps {s : State} (h : Keeps base s) (cyc : Nat) : Keeps base (State.drained s cyc) := by
  unfold State.drained
  repeat' first
    | with_reducible assumption
    | with_reducible apply State.wrs_keeps

theorem State.recfgClose_keeps {s : State} (h : Keeps base s)  : Keeps base (State.recfgClose s) := by
  unfold State.recfgClose
  repeat' first
    | with_reducible assumption
    | ((fail_if_no_progress extract_lets +onlyGivenNames u); first | (refine cut (p := Keeps base u) ?_ (fun hu => ?_); rotate_left; clear_value u; rotate_right) | (refine cut (p := Keeps base u.1) ?_ (fun hu => ?_); rotate_left; clear_value u; rotate_right) | (refine cut (p := Keeps base u.2) ?_ (fun hu => ?_); rotate_left; clear_value u; rotate_right) | (have := u.srcs; clear this; dsimp only [u]; clear u) | (have := fun x => u x; clear this) | clear_value u)
    | with_reducible apply State.drained_keeps
    | with_reducible apply State.wr_keeps
    | with_reducible apply ite_keeps
    | simp only [keeps_mk_iff]
    | simp only [u, keeps_mk_iff]

theorem execRecfgClose_runs  (s : State) : Runs s (execRecfgClose s) := by
  unfold execRecfgClose
  repeat' first
    | with_reducible exact Keeps.refl _
    | with_reducible assumption
    | with_reducible apply Runs.next
    | with_reducible apply State.atReg_keeps
    | with_reducible apply State.recfgClose_keeps
    | intro t x ht
    | intro t ht
    | dsimp only

theorem State.reachAffected_keeps {s : State} (h : Keeps base s)  : Keeps base (State.reachAffected s) := by
  unfold State.reachAffected
  repeat' first
    | with_reducible assumption
    | with_reducible apply State.reach_keeps
    | with_reducible apply foldl_keeps
    | intro t x ht

theorem execDrained_runs (cyc : Nat) (s : State) : Runs s (execDrained cyc s) := by
  unfold execDrained
  repeat' first
    | with_reducible exact Keeps.refl _
    | with_reducible assumption
    | with_reducible apply ite_runs
    | with_reducible apply Runs.next
    | with_reducible apply State.drained_keeps
    | with_reducible apply State.reachAffected_keeps
    | with_reducible apply ite_keeps

theorem State.routeHeld_keeps {s : State} (h : Keeps base s) (l : List Req) : Keeps base (s.routeHeld l) := by
  induction l generalizing s with
  | nil => exact h
  | cons q l ih =>
    refine ih (ite_keeps ?_ (State.respond_keeps h _ _ _))
    simpa only [keeps_mk_iff] using h


theorem State.recfgOpen_keeps {s : State} (h : Keeps base s)  : Keeps base (State.recfgOpen s) := by
  unfold State.recfgOpen
  repeat' first
    | with_reducible assumption
    | ((fail_if_no_progress extract_lets +onlyGivenNames u); first | (refine cut (p := Keeps base u) ?_ (fun hu => ?_); rotate_left; clear_value u; rotate_right) | (refine cut (p := Keeps base u.1) ?_ (fun hu => ?_); rotate_left; clear_value u; rotate_right) | (refine cut (p := Keeps base u.2) ?_ (fun hu => ?_); rotate_left; clear_value u; rotate_right) | (have := u.srcs; clear this; dsimp only [u]; clear u) | (have := fun x => u x; clear this) | clear_value u)
    | with_reducible apply State.routeHeld_keeps
    | with_reducible apply State.wr_keeps
    | with_reducible apply ite_keeps
    | simp only [keeps_mk_iff]
    | simp only [u, keeps_mk_iff]

theorem execRecfgOpen_runs  (s : State) : Runs s (execRecfgOpen s) := by
  unfold execRecfgOpen
  repeat' first
    | with_reducible exact Keeps.refl _
    | with_reducible assumption
    | with_reducible apply Runs.next
    | with_reducible apply State.atReg_keeps
    | with_reducible apply State.recfgOpen_keeps
    | intro t x ht
    | intro t ht
    | dsimp only

theorem State.poison_keeps {s : State} (h : Keeps base s) (k : Nat) : Keeps base (State.poison s k) := by
  unfold State.poison
  repeat' first
    | with_reducible assumption
    | with_reducible apply State.count_keeps
    | with_reducible apply State.report_keeps
    | with_reducible apply State.wr_keeps
    | with_reducible apply ite_keeps

theorem State.discard_keeps {s : State} (h : Keeps base s) (m : Moving) : Keeps base (s.discard m) := by
  cases m with
  | request q => simpa only [State.discard, keeps_mk_iff] using h
  | response r => simpa only [State.discard, keeps_mk_iff] using h


theorem State.poisoned_keeps {s : State} (h : Keeps base s) (m : Moving) (hit : Bool) : Keeps base (State.poisoned s m hit) := by
  unfold State.poisoned
  repeat' first
    | with_reducible assumption
    | ((fail_if_no_progress extract_lets +onlyGivenNames u); first | (refine cut (p := Keeps base u) ?_ (fun hu => ?_); rotate_left; clear_value u; rotate_right) | (refine cut (p := Keeps base u.1) ?_ (fun hu => ?_); rotate_left; clear_value u; rotate_right) | (refine cut (p := Keeps base u.2) ?_ (fun hu => ?_); rotate_left; clear_value u; rotate_right) | (have := u.srcs; clear this; dsimp only [u]; clear u) | (have := fun x => u x; clear this) | clear_value u)
    | with_reducible apply State.count_keeps
    | with_reducible apply State.discard_keeps
    | with_reducible apply State.respond_keeps
    | with_reducible apply ite_keeps
    | simp only [keeps_mk_iff]
    | simp only [u, keeps_mk_iff]

theorem execLinkReplay_runs (k i tag : Nat) (how : LinkErr) (s : State) : Runs s (execLinkReplay k i tag how s) := by
  unfold execLinkReplay
  repeat' first
    | with_reducible exact Keeps.refl _
    | ((fail_if_no_progress extract_lets +onlyGivenNames u); first | (refine cut (p := Keeps s u) ?_ (fun hu => ?_); rotate_left; clear_value u; rotate_right) | (refine cut (p := Keeps s u.1) ?_ (fun hu => ?_); rotate_left; clear_value u; rotate_right) | (refine cut (p := Keeps s u.2) ?_ (fun hu => ?_); rotate_left; clear_value u; rotate_right) | (have := u.srcs; clear this; dsimp only [u]; clear u) | (have := fun x => u x; clear this) | clear_value u)
    | with_reducible assumption
    | with_reducible apply ite_runs
    | with_reducible apply Runs.next
    | with_reducible apply State.count_keeps
    | with_reducible apply State.poison_keeps
    | with_reducible apply State.poisoned_keeps
    | with_reducible apply ite_keeps
    | simp only [keeps_mk_iff]
    | simp only [u, keeps_mk_iff]
    | split
    | (dsimp only [u]; split)

end Sys2Proof.Machine
end

