-- ==== Sys2Proof/Laws/Keeps/Ddr.lean ====
section
/-! SUPPORT. `Keeps` through the operations of Machine/Ddr.lean. -/

namespace Sys2Proof.Machine

variable {base : State}

theorem State.setDdr_keeps {s : State} (h : Keeps base s) (r st : Nat) : Keeps base (State.setDdr s r st) := by
  unfold State.setDdr
  repeat' first
    | with_reducible assumption
    | with_reducible apply State.wrs_keeps
    | with_reducible apply ite_keeps

theorem State.ddrFail_keeps {s : State} (h : Keeps base s) (r why : Nat) : Keeps base (State.ddrFail s r why) := by
  unfold State.ddrFail
  repeat' first
    | with_reducible assumption
    | with_reducible apply State.setDdr_keeps
    | with_reducible apply State.wrs_keeps

theorem State.ddrTrain_keeps {s : State} (h : Keeps base s) (r : Nat) : Keeps base (State.ddrTrain s r) := by
  unfold State.ddrTrain
  repeat' first
    | with_reducible assumption
    | ((fail_if_no_progress extract_lets +onlyGivenNames u); first | (refine cut (p := Keeps base u) ?_ (fun hu => ?_); rotate_left; clear_value u; rotate_right) | (refine cut (p := Keeps base u.1) ?_ (fun hu => ?_); rotate_left; clear_value u; rotate_right) | (refine cut (p := Keeps base u.2) ?_ (fun hu => ?_); rotate_left; clear_value u; rotate_right) | (have := u.srcs; clear this; dsimp only [u]; clear u) | (have := fun x => u x; clear this) | clear_value u)
    | with_reducible apply State.ddrFail_keeps
    | with_reducible apply State.setDdr_keeps
    | with_reducible apply State.wr_keeps
    | with_reducible apply ite_keeps

theorem execDdrTrain_runs (r : Nat) (s : State) : Runs s (execDdrTrain r s) := by
  unfold execDdrTrain
  repeat' first
    | with_reducible exact Keeps.refl _
    | with_reducible assumption
    | with_reducible apply Runs.next
    | with_reducible apply State.atReg_keeps
    | with_reducible apply State.ddrTrain_keeps
    | intro t x ht
    | intro t ht
    | dsimp only

theorem execTrainingDone_runs (r why : Nat) (s : State) : Runs s (execTrainingDone r why s) := by
  unfold execTrainingDone
  repeat' first
    | with_reducible exact Keeps.refl _
    | with_reducible assumption
    | with_reducible apply ite_runs
    | with_reducible apply Runs.next
    | with_reducible apply State.ddrFail_keeps
    | with_reducible apply State.setDdr_keeps
    | with_reducible apply ite_keeps

theorem execDdrRefresh_runs (r : Nat) (s : State) : Runs s (execDdrRefresh r s) := by
  unfold execDdrRefresh
  repeat' first
    | with_reducible exact Keeps.refl _
    | with_reducible assumption
    | with_reducible apply ite_runs
    | with_reducible apply Runs.next
    | with_reducible apply State.modRegion_keeps
    | with_reducible apply ite_keeps
    | simp only [keeps_mk_iff]

theorem State.ddrRead_keeps {s : State} (h : Keeps base s) (r k : Nat) (ws : List Nat) (up dev : Nat) : Keeps base (State.ddrRead s r k ws up dev) := by
  unfold State.ddrRead
  repeat' first
    | with_reducible assumption
    | ((fail_if_no_progress extract_lets +onlyGivenNames u); first | (refine cut (p := Keeps base u) ?_ (fun hu => ?_); rotate_left; clear_value u; rotate_right) | (refine cut (p := Keeps base u.1) ?_ (fun hu => ?_); rotate_left; clear_value u; rotate_right) | (refine cut (p := Keeps base u.2) ?_ (fun hu => ?_); rotate_left; clear_value u; rotate_right) | (have := u.srcs; clear this; dsimp only [u]; clear u) | (have := fun x => u x; clear this) | clear_value u)
    | with_reducible apply State.count_keeps
    | with_reducible apply State.wr_keeps
    | with_reducible apply State.wrs_keeps
    | with_reducible apply ite_keeps
    | with_reducible apply foldl_keeps
    | intro t x ht
    | with_reducible apply ecc_set_keeps
    | simp only [keeps_mk_iff]
    | simp only [u, keeps_mk_iff]

theorem execPatrolScrub_runs (r up dev : Nat) (s : State) : Runs s (execPatrolScrub r up dev s) := by
  unfold execPatrolScrub
  repeat' first
    | with_reducible exact Keeps.refl _
    | ((fail_if_no_progress extract_lets +onlyGivenNames u); first | (refine cut (p := Keeps s u) ?_ (fun hu => ?_); rotate_left; clear_value u; rotate_right) | (refine cut (p := Keeps s u.1) ?_ (fun hu => ?_); rotate_left; clear_value u; rotate_right) | (refine cut (p := Keeps s u.2) ?_ (fun hu => ?_); rotate_left; clear_value u; rotate_right) | (have := u.srcs; clear this; dsimp only [u]; clear u) | (have := fun x => u x; clear this) | clear_value u)
    | with_reducible assumption
    | with_reducible apply ite_runs
    | with_reducible apply Runs.next
    | with_reducible apply State.ddrRead_keeps
    | with_reducible apply State.modRegion_keeps
    | with_reducible apply State.wr_keeps
    | with_reducible apply ite_keeps
    | simp only [keeps_mk_iff]
    | simp only [u, keeps_mk_iff]

theorem execDdrTempPoll_runs (r : Nat) (hot : Bool) (s : State) : Runs s (execDdrTempPoll r hot s) := by
  unfold execDdrTempPoll
  repeat' first
    | with_reducible exact Keeps.refl _
    | with_reducible assumption
    | with_reducible apply ite_runs
    | with_reducible apply Runs.next
    | with_reducible apply State.wr_keeps
    | with_reducible apply ite_keeps

theorem execDdrLinkError_runs (r kind n : Nat) (s : State) : Runs s (execDdrLinkError r kind n s) := by
  unfold execDdrLinkError
  repeat' first
    | with_reducible exact Keeps.refl _
    | ((fail_if_no_progress extract_lets +onlyGivenNames u); first | (refine cut (p := Keeps s u) ?_ (fun hu => ?_); rotate_left; clear_value u; rotate_right) | (refine cut (p := Keeps s u.1) ?_ (fun hu => ?_); rotate_left; clear_value u; rotate_right) | (refine cut (p := Keeps s u.2) ?_ (fun hu => ?_); rotate_left; clear_value u; rotate_right) | (have := u.srcs; clear this; dsimp only [u]; clear u) | (have := fun x => u x; clear this) | clear_value u)
    | with_reducible assumption
    | with_reducible apply ite_runs
    | with_reducible apply Runs.next
    | with_reducible apply State.count_keeps
    | with_reducible apply State.ddrFail_keeps
    | with_reducible apply State.reportAs_keeps
    | with_reducible apply ite_keeps

theorem State.portB_keeps {s : State} (h : Keeps base s) (c a v coll up : Nat) (write : Bool) : Keeps base (State.portB s c a v coll up write) := by
  unfold State.portB
  repeat' first
    | with_reducible assumption
    | ((fail_if_no_progress extract_lets +onlyGivenNames u); first | (refine cut (p := Keeps base u) ?_ (fun hu => ?_); rotate_left; clear_value u; rotate_right) | (refine cut (p := Keeps base u.1) ?_ (fun hu => ?_); rotate_left; clear_value u; rotate_right) | (refine cut (p := Keeps base u.2) ?_ (fun hu => ?_); rotate_left; clear_value u; rotate_right) | (have := u.srcs; clear this; dsimp only [u]; clear u) | (have := fun x => u x; clear this) | clear_value u)
    | with_reducible apply State.collide_keeps
    | with_reducible apply State.drawn_keeps
    | with_reducible apply State.padErrors_keeps
    | with_reducible apply State.wr_keeps
    | with_reducible apply State.writeWord_keeps
    | with_reducible apply ite_keeps
    | simp only [keeps_mk_iff]
    | simp only [u, keeps_mk_iff]

theorem execPortBAccess_runs (c a v coll up : Nat) (write : Bool) (s : State) : Runs s (execPortBAccess c a v coll up write s) := by
  unfold execPortBAccess
  repeat' first
    | with_reducible exact Keeps.refl _
    | with_reducible assumption
    | with_reducible apply Runs.next
    | with_reducible apply State.portB_keeps

end Sys2Proof.Machine
end

