-- ==== Sys2Proof/Laws/Keeps/Ledger.lean ====
section
/-! SUPPORT. `Keeps` through the operations of Machine/Ledger.lean. -/

namespace Sys2Proof.Machine

variable {base : State}

theorem execFailQueueRelease_runs (c : Nat) (s : State) : Runs s (execFailQueueRelease c s) := by
  unfold execFailQueueRelease
  repeat' first
    | with_reducible exact Keeps.refl _
    | ((fail_if_no_progress extract_lets +onlyGivenNames u); first | (refine cut (p := Keeps s u) ?_ (fun hu => ?_); rotate_left; clear_value u; rotate_right) | (refine cut (p := Keeps s u.1) ?_ (fun hu => ?_); rotate_left; clear_value u; rotate_right) | (refine cut (p := Keeps s u.2) ?_ (fun hu => ?_); rotate_left; clear_value u; rotate_right) | (have := u.srcs; clear this; dsimp only [u]; clear u) | (have := fun x => u x; clear this) | clear_value u)
    | with_reducible assumption
    | with_reducible apply ite_runs
    | with_reducible apply Runs.next
    | with_reducible apply State.mark_keeps
    | with_reducible apply State.setCell_keeps
    | with_reducible apply ite_keeps
    | simp only [keeps_mk_iff]
    | simp only [u, keeps_mk_iff]
    | split
    | (dsimp only [u]; split)

theorem State.mergerTake_keeps {s : State} (h : Keeps base s) (b : Nat) : Keeps base (State.mergerTake s b) := by
  unfold State.mergerTake
  repeat' first
    | with_reducible assumption
    | with_reducible apply State.modBlock_keeps
    | with_reducible apply State.modCell_keeps
    | with_reducible apply ite_keeps
    | simp only [keeps_mk_iff]
    | split

theorem execMergerTake_runs (b : Nat) (s : State) : Runs s (execMergerTake b s) := by
  unfold execMergerTake
  repeat' first
    | with_reducible exact Keeps.refl _
    | with_reducible assumption
    | with_reducible apply Runs.next
    | with_reducible apply State.mergerTake_keeps

theorem State.markerArrives_keeps {s : State} (h : Keeps base s) (r c : Nat) (ids : List Nat) : Keeps base (State.markerArrives s r c ids) := by
  unfold State.markerArrives
  repeat' first
    | with_reducible assumption
    | ((fail_if_no_progress extract_lets +onlyGivenNames u); first | (refine cut (p := Keeps base u) ?_ (fun hu => ?_); rotate_left; clear_value u; rotate_right) | (refine cut (p := Keeps base u.1) ?_ (fun hu => ?_); rotate_left; clear_value u; rotate_right) | (refine cut (p := Keeps base u.2) ?_ (fun hu => ?_); rotate_left; clear_value u; rotate_right) | (have := u.srcs; clear this; dsimp only [u]; clear u) | (have := fun x => u x; clear this) | clear_value u)
    | with_reducible apply State.modRegion_keeps
    | with_reducible apply ite_keeps
    | simp only [keeps_mk_iff]
    | simp only [u, keeps_mk_iff]

theorem State.sendUpdate_keeps {s : State} (h : Keeps base s) (r : Nat) (u : Upd) : Keeps base (State.sendUpdate s r u) := by
  unfold State.sendUpdate
  repeat' first
    | with_reducible assumption
    | with_reducible apply State.issue_keeps
    | with_reducible apply State.modRegion_keeps
    | simp only [keeps_mk_iff]

theorem State.engineRecord_keeps {s : State} (h : Keeps base s) (r : Nat) (x : FailRec) : Keeps base (State.engineRecord s r x) := by
  unfold State.engineRecord
  repeat' first
    | with_reducible assumption
    | ((fail_if_no_progress extract_lets +onlyGivenNames u); first | (refine cut (p := Keeps base u) ?_ (fun hu => ?_); rotate_left; clear_value u; rotate_right) | (refine cut (p := Keeps base u.1) ?_ (fun hu => ?_); rotate_left; clear_value u; rotate_right) | (refine cut (p := Keeps base u.2) ?_ (fun hu => ?_); rotate_left; clear_value u; rotate_right) | (have := u.srcs; clear this; dsimp only [u]; clear u) | (have := fun x => u x; clear this) | clear_value u)
    | with_reducible apply State.count_keeps
    | with_reducible apply State.modRegion_keeps
    | with_reducible apply State.sendUpdate_keeps
    | with_reducible apply ite_keeps
    | simp only [keeps_mk_iff]
    | simp only [u, keeps_mk_iff]

theorem State.engineApply_keeps {s : State} (h : Keeps base s) (r : Nat) : Keeps base (State.engineApply s r) := by
  unfold State.engineApply
  repeat' first
    | with_reducible assumption
    | ((fail_if_no_progress extract_lets +onlyGivenNames u); first | (refine cut (p := Keeps base u) ?_ (fun hu => ?_); rotate_left; clear_value u; rotate_right) | (refine cut (p := Keeps base u.1) ?_ (fun hu => ?_); rotate_left; clear_value u; rotate_right) | (refine cut (p := Keeps base u.2) ?_ (fun hu => ?_); rotate_left; clear_value u; rotate_right) | (have := u.srcs; clear this; dsimp only [u]; clear u) | (have := fun x => u x; clear this) | clear_value u)
    | with_reducible apply State.engineRecord_keeps
    | with_reducible apply State.issue_keeps
    | with_reducible apply State.mark_keeps
    | with_reducible apply State.markerArrives_keeps
    | with_reducible apply State.modBlock_keeps
    | with_reducible apply State.modRegion_keeps
    | with_reducible apply State.waitsNot_keeps
    | with_reducible apply ite_keeps
    | simp only [keeps_mk_iff]
    | simp only [u, keeps_mk_iff]
    | split
    | (dsimp only [u]; split)

theorem execEngineApply_runs (r : Nat) (s : State) : Runs s (execEngineApply r s) := by
  unfold execEngineApply
  repeat' first
    | with_reducible exact Keeps.refl _
    | with_reducible assumption
    | with_reducible apply Runs.next
    | with_reducible apply State.engineApply_keeps

theorem State.moveSum_keeps {s : State} (h : Keeps base s) (a site old new : Nat) :
    Keeps base (s.moveSum a site old new) := by
  unfold State.moveSum
  exact esum_set_keeps h _ _


theorem State.writeLine_keeps {s : State} (h : Keeps base s) (h b : Nat) : Keeps base (State.writeLine s h b) := by
  unfold State.writeLine
  repeat' first
    | with_reducible assumption
    | ((fail_if_no_progress extract_lets +onlyGivenNames u); first | (refine cut (p := Keeps base u) ?_ (fun hu => ?_); rotate_left; clear_value u; rotate_right) | (refine cut (p := Keeps base u.1) ?_ (fun hu => ?_); rotate_left; clear_value u; rotate_right) | (refine cut (p := Keeps base u.2) ?_ (fun hu => ?_); rotate_left; clear_value u; rotate_right) | (have := u.srcs; clear this; dsimp only [u]; clear u) | (have := fun x => u x; clear this) | clear_value u)
    | with_reducible apply State.modRegion_keeps
    | with_reducible apply State.writeWords_keeps
    | with_reducible apply ite_keeps
    | simp only [keeps_mk_iff]
    | simp only [u, keeps_mk_iff]

theorem State.putLine_keeps {s : State} (h : Keeps base s) (h b : Nat) (ws : List Nat) (dirty : Bool) : Keeps base (State.putLine s h b ws dirty) := by
  unfold State.putLine
  repeat' first
    | with_reducible assumption
    | with_reducible apply State.modRegion_keeps
    | simp only [keeps_mk_iff]

theorem State.bucketFault_keeps {s : State} (h : Keeps base s) (h b : Nat) (lost : Nat) : Keeps base (State.bucketFault s h b lost) := by
  unfold State.bucketFault
  repeat' first
    | with_reducible assumption
    | ((fail_if_no_progress extract_lets +onlyGivenNames u); first | (refine cut (p := Keeps base u) ?_ (fun hu => ?_); rotate_left; clear_value u; rotate_right) | (refine cut (p := Keeps base u.1) ?_ (fun hu => ?_); rotate_left; clear_value u; rotate_right) | (refine cut (p := Keeps base u.2) ?_ (fun hu => ?_); rotate_left; clear_value u; rotate_right) | (have := u.srcs; clear this; dsimp only [u]; clear u) | (have := fun x => u x; clear this) | clear_value u)
    | with_reducible apply State.count_keeps
    | with_reducible apply State.moveSum_keeps
    | with_reducible apply State.putLine_keeps
    | with_reducible apply State.reportAs_keeps
    | with_reducible apply ite_keeps
    | with_reducible apply foldl_keeps
    | intro t x ht

theorem State.checkLine_keeps {s : State} (h : Keeps base s) (h b : Nat) (e : Upset) : Keeps base (State.checkLine s h b e) := by
  unfold State.checkLine
  repeat' first
    | with_reducible assumption
    | with_reducible apply State.bucketFault_keeps
    | with_reducible apply State.count_keeps
    | with_reducible apply ite_keeps

theorem State.writeBack_keeps {s : State} (h : Keeps base s) (h b : Nat) (e : Upset) : Keeps base (State.writeBack s h b e) := by
  unfold State.writeBack
  repeat' first
    | with_reducible assumption
    | with_reducible apply State.checkLine_keeps
    | with_reducible apply State.writeLine_keeps
    | with_reducible apply ite_keeps

theorem State.evict_keeps {s : State} (h : Keeps base s) (h b : Nat) (e : Upset) : Keeps base (State.evict s h b e) := by
  unfold State.evict
  repeat' first
    | with_reducible assumption
    | with_reducible apply State.modRegion_keeps
    | with_reducible apply State.writeBack_keeps
    | simp only [keeps_mk_iff]

theorem State.makeRoom_keeps {s : State} (h : Keeps base s) (h victim : Nat) (e : Upset) : Keeps base (State.makeRoom s h victim e) := by
  unfold State.makeRoom
  repeat' first
    | with_reducible assumption
    | ((fail_if_no_progress extract_lets +onlyGivenNames u); first | (refine cut (p := Keeps base u) ?_ (fun hu => ?_); rotate_left; clear_value u; rotate_right) | (refine cut (p := Keeps base u.1) ?_ (fun hu => ?_); rotate_left; clear_value u; rotate_right) | (refine cut (p := Keeps base u.2) ?_ (fun hu => ?_); rotate_left; clear_value u; rotate_right) | (have := u.srcs; clear this; dsimp only [u]; clear u) | (have := fun x => u x; clear this) | clear_value u)
    | with_reducible apply State.evict_keeps
    | with_reducible apply ite_keeps
    | simp only [keeps_mk_iff]
    | simp only [u, keeps_mk_iff]
    | split
    | (dsimp only [u]; split)

theorem State.cached_keeps {s : State} (h : Keeps base s) (h b victim : Nat) (ve : Upset) (up dev : Nat) (lost : Nat) : Keeps base (State.cached s h b victim ve up dev lost) := by
  unfold State.cached
  repeat' first
    | with_reducible assumption
    | ((fail_if_no_progress extract_lets +onlyGivenNames u); first | (refine cut (p := Keeps base u) ?_ (fun hu => ?_); rotate_left; clear_value u; rotate_right) | (refine cut (p := Keeps base u.1) ?_ (fun hu => ?_); rotate_left; clear_value u; rotate_right) | (refine cut (p := Keeps base u.2) ?_ (fun hu => ?_); rotate_left; clear_value u; rotate_right) | (have := u.srcs; clear this; dsimp only [u]; clear u) | (have := fun x => u x; clear this) | clear_value u)
    | with_reducible apply State.bucketFault_keeps
    | with_reducible apply State.checkLine_keeps
    | with_reducible apply State.ddrRead_keeps
    | with_reducible apply State.makeRoom_keeps
    | with_reducible apply State.putLine_keeps
    | with_reducible apply ite_keeps

theorem State.spill_keeps {s : State} (h : Keeps base s) (h : Nat) (r : FailRec) : Keeps base (State.spill s h r) := by
  unfold State.spill
  repeat' first
    | with_reducible assumption
    | ((fail_if_no_progress extract_lets +onlyGivenNames u); first | (refine cut (p := Keeps base u) ?_ (fun hu => ?_); rotate_left; clear_value u; rotate_right) | (refine cut (p := Keeps base u.1) ?_ (fun hu => ?_); rotate_left; clear_value u; rotate_right) | (refine cut (p := Keeps base u.2) ?_ (fun hu => ?_); rotate_left; clear_value u; rotate_right) | (have := u.srcs; clear this; dsimp only [u]; clear u) | (have := fun x => u x; clear this) | clear_value u)
    | with_reducible apply State.count_keeps
    | with_reducible apply State.moveSum_keeps
    | with_reducible apply State.writeWords_keeps
    | with_reducible apply State.wrs_keeps
    | with_reducible apply ite_keeps
    | simp only [keeps_mk_iff]
    | simp only [u, keeps_mk_iff]

theorem State.applyRecord_keeps {s : State} (h : Keeps base s) (a b : Nat) (r : FailRec) :
    Keeps base (s.applyRecord a b r).1 := by
  unfold State.applyRecord
  dsimp only
  repeat' split
  · exact State.moveSum_keeps (State.putLine_keeps h _ _ _ _) _ _ _ _
  · exact State.moveSum_keeps (State.putLine_keeps h _ _ _ _) _ _ _ _
  · exact State.spill_keeps h _ _


theorem State.bringUpdate_keeps {s : State} (h : Keeps base s) (h : Nat) : Keeps base (State.bringUpdate s h) := by
  unfold State.bringUpdate
  repeat' first
    | with_reducible assumption
    | with_reducible apply State.reach_keeps
    | with_reducible apply ite_keeps
    | simp only [keeps_mk_iff]
    | split

theorem State.applyAt_keeps {s : State} (h : Keeps base s) (h : Nat) (q : Req) (victim : Nat) (ve : Upset) (up dev : Nat) (lost : Nat) : Keeps base (State.applyAt s h q victim ve up dev lost) := by
  unfold State.applyAt
  repeat' first
    | with_reducible assumption
    | ((fail_if_no_progress extract_lets +onlyGivenNames u); first | (refine cut (p := Keeps base u) ?_ (fun hu => ?_); rotate_left; clear_value u; rotate_right) | (refine cut (p := Keeps base u.1) ?_ (fun hu => ?_); rotate_left; clear_value u; rotate_right) | (refine cut (p := Keeps base u.2) ?_ (fun hu => ?_); rotate_left; clear_value u; rotate_right) | (have := u.srcs; clear this; dsimp only [u]; clear u) | (have := fun x => u x; clear this) | clear_value u)
    | with_reducible apply State.applyRecord_keeps
    | with_reducible apply State.cached_keeps
    | with_reducible apply State.count_keeps
    | with_reducible apply State.respond_keeps
    | with_reducible apply ite_keeps
    | simp only [keeps_mk_iff]
    | simp only [u, keeps_mk_iff]

theorem State.homeApply_keeps {s : State} (h : Keeps base s) (h victim : Nat) (ve : Upset) (up dev : Nat) (lost : Nat) : Keeps base (State.homeApply s h victim ve up dev lost) := by
  unfold State.homeApply
  repeat' first
    | with_reducible assumption
    | ((fail_if_no_progress extract_lets +onlyGivenNames u); first | (refine cut (p := Keeps base u) ?_ (fun hu => ?_); rotate_left; clear_value u; rotate_right) | (refine cut (p := Keeps base u.1) ?_ (fun hu => ?_); rotate_left; clear_value u; rotate_right) | (refine cut (p := Keeps base u.2) ?_ (fun hu => ?_); rotate_left; clear_value u; rotate_right) | (have := u.srcs; clear this; dsimp only [u]; clear u) | (have := fun x => u x; clear this) | clear_value u)
    | with_reducible apply State.applyAt_keeps
    | with_reducible apply State.bringUpdate_keeps
    | with_reducible apply ite_keeps
    | simp only [keeps_mk_iff]
    | simp only [u, keeps_mk_iff]
    | split
    | (dsimp only [u]; split)

theorem execLupd_runs (h : Nat) (victim : Victim) (up dev : Nat) (lost : Nat) (s : State) : Runs s (execLupd h victim up dev lost s) := by
  unfold execLupd
  repeat' first
    | with_reducible exact Keeps.refl _
    | with_reducible assumption
    | with_reducible apply Runs.next
    | with_reducible apply State.homeApply_keeps

theorem State.rewriteAcct_keeps {s : State} (h : Keeps base s) (r a : Nat) (bad : Nat → Bool) : Keeps base (State.rewriteAcct s r a bad) := by
  unfold State.rewriteAcct
  repeat' first
    | with_reducible assumption
    | ((fail_if_no_progress extract_lets +onlyGivenNames u); first | (refine cut (p := Keeps base u) ?_ (fun hu => ?_); rotate_left; clear_value u; rotate_right) | (refine cut (p := Keeps base u.1) ?_ (fun hu => ?_); rotate_left; clear_value u; rotate_right) | (refine cut (p := Keeps base u.2) ?_ (fun hu => ?_); rotate_left; clear_value u; rotate_right) | (have := u.srcs; clear this; dsimp only [u]; clear u) | (have := fun x => u x; clear this) | clear_value u)
    | with_reducible apply State.drawn_keeps
    | with_reducible apply State.writeWord_keeps
    | with_reducible apply ite_keeps
    | with_reducible apply foldl_keeps
    | intro t x ht

theorem State.acctWords_keeps {s : State} (h : Keeps base s) (r a : Nat) (ws : List Nat) (up : Nat) : Keeps base (State.acctWords s r a ws up) := by
  unfold State.acctWords
  repeat' first
    | with_reducible assumption
    | ((fail_if_no_progress extract_lets +onlyGivenNames u); first | (refine cut (p := Keeps base u) ?_ (fun hu => ?_); rotate_left; clear_value u; rotate_right) | (refine cut (p := Keeps base u.1) ?_ (fun hu => ?_); rotate_left; clear_value u; rotate_right) | (refine cut (p := Keeps base u.2) ?_ (fun hu => ?_); rotate_left; clear_value u; rotate_right) | (have := u.srcs; clear this; dsimp only [u]; clear u) | (have := fun x => u x; clear this) | clear_value u)
    | with_reducible apply State.count_keeps
    | with_reducible apply State.eccAfter_keeps
    | with_reducible apply State.reportAs_keeps
    | with_reducible apply State.rewriteAcct_keeps
    | with_reducible apply ite_keeps
    | with_reducible apply foldl_keeps
    | intro t x ht

theorem State.acctErrors_keeps {s : State} (h : Keeps base s) (r a up : Nat) : Keeps base (State.acctErrors s r a up) := by
  unfold State.acctErrors
  repeat' first
    | with_reducible assumption
    | with_reducible apply State.acctWords_keeps

theorem State.acctApply_keeps {s : State} (h : Keeps base s) (r up : Nat) : Keeps base (State.acctApply s r up) := by
  unfold State.acctApply
  repeat' first
    | with_reducible assumption
    | ((fail_if_no_progress extract_lets +onlyGivenNames u); first | (refine cut (p := Keeps base u) ?_ (fun hu => ?_); rotate_left; clear_value u; rotate_right) | (refine cut (p := Keeps base u.1) ?_ (fun hu => ?_); rotate_left; clear_value u; rotate_right) | (refine cut (p := Keeps base u.2) ?_ (fun hu => ?_); rotate_left; clear_value u; rotate_right) | (have := u.srcs; clear this; dsimp only [u]; clear u) | (have := fun x => u x; clear this) | clear_value u)
    | with_reducible apply State.acctErrors_keeps
    | with_reducible apply State.count_keeps
    | with_reducible apply State.modRegion_keeps
    | with_reducible apply State.writeWords_keeps
    | with_reducible apply ite_keeps
    | simp only [keeps_mk_iff]
    | simp only [u, keeps_mk_iff]
    | with_reducible refine (State.putWords_keeps ?_ _ _).1 _ (by assumption)
    | with_reducible refine (State.putWords_keeps ?_ _ _).2 _ _ (by assumption)
    | split
    | (dsimp only [u]; split)

theorem execAccountUpdate_runs (r up : Nat) (s : State) : Runs s (execAccountUpdate r up s) := by
  unfold execAccountUpdate
  repeat' first
    | with_reducible exact Keeps.refl _
    | with_reducible assumption
    | with_reducible apply Runs.next
    | with_reducible apply State.acctApply_keeps

theorem State.drainGo_keeps {s : State} (h : Keeps base s) (l : Nat) : Keeps base (State.drainGo s l) := by
  unfold State.drainGo
  repeat' first
    | with_reducible assumption
    | with_reducible apply State.ldgIgnored_keeps
    | with_reducible apply State.mark_keeps
    | with_reducible apply State.wr_keeps
    | with_reducible apply ite_keeps

theorem execDrain_runs (l : Nat) (s : State) : Runs s (execDrain l s) := by
  unfold execDrain
  repeat' first
    | with_reducible exact Keeps.refl _
    | with_reducible assumption
    | with_reducible apply Runs.next
    | with_reducible apply State.atReg_keeps
    | with_reducible apply State.drainGo_keeps
    | intro t x ht
    | intro t ht
    | dsimp only

theorem State.startPass_keeps {s : State} (h : Keeps base s) (l : Nat) : Keeps base (State.startPass s l) := by
  unfold State.startPass
  repeat' first
    | with_reducible assumption
    | ((fail_if_no_progress extract_lets +onlyGivenNames u); first | (refine cut (p := Keeps base u) ?_ (fun hu => ?_); rotate_left; clear_value u; rotate_right) | (refine cut (p := Keeps base u.1) ?_ (fun hu => ?_); rotate_left; clear_value u; rotate_right) | (refine cut (p := Keeps base u.2) ?_ (fun hu => ?_); rotate_left; clear_value u; rotate_right) | (have := u.srcs; clear this; dsimp only [u]; clear u) | (have := fun x => u x; clear this) | clear_value u)
    | with_reducible apply State.modRegion_keeps
    | with_reducible apply State.wr_keeps
    | with_reducible apply ite_keeps
    | simp only [keeps_mk_iff]
    | simp only [u, keeps_mk_iff]

theorem State.drainComplete_keeps {s : State} (h : Keeps base s) (l : Nat) : Keeps base (State.drainComplete s l) := by
  unfold State.drainComplete
  repeat' first
    | with_reducible assumption
    | ((fail_if_no_progress extract_lets +onlyGivenNames u); first | (refine cut (p := Keeps base u) ?_ (fun hu => ?_); rotate_left; clear_value u; rotate_right) | (refine cut (p := Keeps base u.1) ?_ (fun hu => ?_); rotate_left; clear_value u; rotate_right) | (refine cut (p := Keeps base u.2) ?_ (fun hu => ?_); rotate_left; clear_value u; rotate_right) | (have := u.srcs; clear this; dsimp only [u]; clear u) | (have := fun x => u x; clear this) | clear_value u)
    | with_reducible apply State.modRegion_keeps
    | with_reducible apply State.startPass_keeps
    | with_reducible apply State.wrs_keeps
    | with_reducible apply ite_keeps
    | with_reducible apply foldl_keeps
    | intro t x ht
    | simp only [keeps_mk_iff]
    | simp only [u, keeps_mk_iff]

theorem execDrainComplete_runs (l : Nat) (s : State) : Runs s (execDrainComplete l s) := by
  unfold execDrainComplete
  repeat' first
    | with_reducible exact Keeps.refl _
    | with_reducible assumption
    | with_reducible apply Runs.next
    | with_reducible apply State.drainComplete_keeps

theorem State.allocGo_keeps {s : State} (h : Keeps base s) (l : Nat) : Keeps base (State.allocGo s l) := by
  unfold State.allocGo
  repeat' first
    | with_reducible assumption
    | with_reducible apply State.ldgIgnored_keeps
    | with_reducible apply State.startPass_keeps
    | with_reducible apply ite_keeps

theorem execAlloc_runs (l : Nat) (s : State) : Runs s (execAlloc l s) := by
  unfold execAlloc
  repeat' first
    | with_reducible exact Keeps.refl _
    | with_reducible assumption
    | with_reducible apply Runs.next
    | with_reducible apply State.allocGo_keeps
    | with_reducible apply State.atReg_keeps
    | intro t x ht
    | intro t ht
    | dsimp only

theorem State.allocateNext_keeps {s : State} (h : Keeps base s) (l up : Nat) : Keeps base (State.allocateNext s l up) := by
  unfold State.allocateNext
  repeat' first
    | with_reducible assumption
    | ((fail_if_no_progress extract_lets +onlyGivenNames u); first | (refine cut (p := Keeps base u) ?_ (fun hu => ?_); rotate_left; clear_value u; rotate_right) | (refine cut (p := Keeps base u.1) ?_ (fun hu => ?_); rotate_left; clear_value u; rotate_right) | (refine cut (p := Keeps base u.2) ?_ (fun hu => ?_); rotate_left; clear_value u; rotate_right) | (have := u.srcs; clear this; dsimp only [u]; clear u) | (have := fun x => u x; clear this) | clear_value u)
    | with_reducible apply State.acctErrors_keeps
    | with_reducible apply State.modRegion_keeps
    | with_reducible apply State.writeWords_keeps
    | with_reducible apply ite_keeps
    | simp only [keeps_mk_iff]
    | simp only [u, keeps_mk_iff]
    | with_reducible refine (State.putWords_keeps ?_ _ _).1 _ (by assumption)
    | with_reducible refine (State.putWords_keeps ?_ _ _).2 _ _ (by assumption)
    | split
    | (dsimp only [u]; split)

theorem execAllocateAccount_runs (l up : Nat) (s : State) : Runs s (execAllocateAccount l up s) := by
  unfold execAllocateAccount
  repeat' first
    | with_reducible exact Keeps.refl _
    | with_reducible assumption
    | with_reducible apply Runs.next
    | with_reducible apply State.allocateNext_keeps

theorem execAllocationPassEnd_runs (l : Nat) (s : State) : Runs s (execAllocationPassEnd l s) := by
  unfold execAllocationPassEnd
  repeat' first
    | with_reducible exact Keeps.refl _
    | ((fail_if_no_progress extract_lets +onlyGivenNames u); first | (refine cut (p := Keeps s u) ?_ (fun hu => ?_); rotate_left; clear_value u; rotate_right) | (refine cut (p := Keeps s u.1) ?_ (fun hu => ?_); rotate_left; clear_value u; rotate_right) | (refine cut (p := Keeps s u.2) ?_ (fun hu => ?_); rotate_left; clear_value u; rotate_right) | (have := u.srcs; clear this; dsimp only [u]; clear u) | (have := fun x => u x; clear this) | clear_value u)
    | with_reducible assumption
    | with_reducible apply ite_runs
    | with_reducible apply Runs.next
    | with_reducible apply State.modRegion_keeps
    | with_reducible apply State.startPass_keeps
    | with_reducible apply State.wrs_keeps
    | with_reducible apply ite_keeps
    | simp only [keeps_mk_iff]
    | simp only [u, keeps_mk_iff]
    | split
    | (dsimp only [u]; split)

theorem State.clearSite_keeps {s : State} (h : Keeps base s) (n : Nat) : Keeps base (State.clearSite s n) := by
  unfold State.clearSite
  repeat' first
    | with_reducible assumption
    | ((fail_if_no_progress extract_lets +onlyGivenNames u); first | (refine cut (p := Keeps base u) ?_ (fun hu => ?_); rotate_left; clear_value u; rotate_right) | (refine cut (p := Keeps base u.1) ?_ (fun hu => ?_); rotate_left; clear_value u; rotate_right) | (refine cut (p := Keeps base u.2) ?_ (fun hu => ?_); rotate_left; clear_value u; rotate_right) | (have := u.srcs; clear this; dsimp only [u]; clear u) | (have := fun x => u x; clear this) | clear_value u)
    | with_reducible apply State.ldgIgnored_keeps
    | with_reducible apply State.wrs_keeps
    | with_reducible apply ite_keeps
    | with_reducible apply foldl_keeps
    | intro t x ht
    | with_reducible apply esum_fold_keeps
    | simp only [keeps_mk_iff]
    | simp only [u, keeps_mk_iff]

theorem execClear_runs (n : Nat) (s : State) : Runs s (execClear n s) := by
  unfold execClear
  repeat' first
    | with_reducible exact Keeps.refl _
    | with_reducible assumption
    | with_reducible apply Runs.next
    | with_reducible apply State.atReg_keeps
    | with_reducible apply State.clearSite_keeps
    | intro t x ht
    | intro t ht
    | dsimp only

theorem State.scrubBucket_keeps {s : State} (h : Keeps base s) (h up dev : Nat) (lost : Nat) : Keeps base (State.scrubBucket s h up dev lost) := by
  unfold State.scrubBucket
  repeat' first
    | with_reducible assumption
    | ((fail_if_no_progress extract_lets +onlyGivenNames u); first | (refine cut (p := Keeps base u) ?_ (fun hu => ?_); rotate_left; clear_value u; rotate_right) | (refine cut (p := Keeps base u.1) ?_ (fun hu => ?_); rotate_left; clear_value u; rotate_right) | (refine cut (p := Keeps base u.2) ?_ (fun hu => ?_); rotate_left; clear_value u; rotate_right) | (have := u.srcs; clear this; dsimp only [u]; clear u) | (have := fun x => u x; clear this) | clear_value u)
    | with_reducible apply State.bucketFault_keeps
    | with_reducible apply State.checkLine_keeps
    | with_reducible apply State.ddrRead_keeps
    | with_reducible apply State.evict_keeps
    | with_reducible apply State.modRegion_keeps
    | with_reducible apply State.putLine_keeps
    | with_reducible apply State.writeWords_keeps
    | with_reducible apply ite_keeps
    | simp only [keeps_mk_iff]
    | simp only [u, keeps_mk_iff]

theorem execScrubBucket_runs (h : Nat) (up : Nat × Nat) (dev : Nat) (s : State) : Runs s (execScrubBucket h up dev s) := by
  unfold execScrubBucket
  repeat' first
    | with_reducible exact Keeps.refl _
    | with_reducible assumption
    | with_reducible apply Runs.next
    | with_reducible apply State.scrubBucket_keeps

theorem execScrubPassEnd_runs (h : Nat) (s : State) : Runs s (execScrubPassEnd h s) := by
  unfold execScrubPassEnd
  repeat' first
    | with_reducible exact Keeps.refl _
    | ((fail_if_no_progress extract_lets +onlyGivenNames u); first | (refine cut (p := Keeps s u) ?_ (fun hu => ?_); rotate_left; clear_value u; rotate_right) | (refine cut (p := Keeps s u.1) ?_ (fun hu => ?_); rotate_left; clear_value u; rotate_right) | (refine cut (p := Keeps s u.2) ?_ (fun hu => ?_); rotate_left; clear_value u; rotate_right) | (have := u.srcs; clear this; dsimp only [u]; clear u) | (have := fun x => u x; clear this) | clear_value u)
    | with_reducible assumption
    | with_reducible apply ite_runs
    | with_reducible apply Runs.next
    | with_reducible apply State.modRegion_keeps
    | with_reducible apply State.wr_keeps
    | with_reducible apply ite_keeps
    | simp only [keeps_mk_iff]
    | simp only [u, keeps_mk_iff]

theorem State.ldgFlush_keeps {s : State} (h : Keeps base s) (r : Nat) : Keeps base (State.ldgFlush s r) := by
  unfold State.ldgFlush
  repeat' first
    | with_reducible assumption
    | ((fail_if_no_progress extract_lets +onlyGivenNames u); first | (refine cut (p := Keeps base u) ?_ (fun hu => ?_); rotate_left; clear_value u; rotate_right) | (refine cut (p := Keeps base u.1) ?_ (fun hu => ?_); rotate_left; clear_value u; rotate_right) | (refine cut (p := Keeps base u.2) ?_ (fun hu => ?_); rotate_left; clear_value u; rotate_right) | (have := u.srcs; clear this; dsimp only [u]; clear u) | (have := fun x => u x; clear this) | clear_value u)
    | with_reducible apply State.modRegion_keeps
    | with_reducible apply State.wr_keeps
    | simp only [keeps_mk_iff]
    | simp only [u, keeps_mk_iff]

theorem execLdgFlush_runs (r : Nat) (s : State) : Runs s (execLdgFlush r s) := by
  unfold execLdgFlush
  repeat' first
    | with_reducible exact Keeps.refl _
    | with_reducible assumption
    | with_reducible apply Runs.next
    | with_reducible apply State.atReg_keeps
    | with_reducible apply State.ldgFlush_keeps
    | intro t x ht
    | intro t ht
    | dsimp only

theorem State.flushDone_keeps {s : State} (h : Keeps base s) (r : Nat) (ups : List (Nat × Nat × Nat)) : Keeps base (State.flushDone s r ups) := by
  unfold State.flushDone
  repeat' first
    | with_reducible assumption
    | with_reducible apply State.modRegion_keeps
    | with_reducible apply State.wr_keeps
    | with_reducible apply State.writeBack_keeps
    | with_reducible apply ite_keeps
    | with_reducible apply foldl_keeps
    | intro t x ht
    | simp only [keeps_mk_iff]
    | split

theorem execLdgFlushDone_runs (r : Nat × List (Nat × Nat × Nat)) (s : State) : Runs s (execLdgFlushDone r s) := by
  unfold execLdgFlushDone
  repeat' first
    | with_reducible exact Keeps.refl _
    | with_reducible assumption
    | with_reducible apply Runs.next
    | with_reducible apply State.flushDone_keeps

theorem State.lookupGo_keeps {s : State} (h : Keeps base s) (r key : Nat) : Keeps base (State.lookupGo s r key) := by
  unfold State.lookupGo
  repeat' first
    | with_reducible assumption
    | ((fail_if_no_progress extract_lets +onlyGivenNames u); first | (refine cut (p := Keeps base u) ?_ (fun hu => ?_); rotate_left; clear_value u; rotate_right) | (refine cut (p := Keeps base u.1) ?_ (fun hu => ?_); rotate_left; clear_value u; rotate_right) | (refine cut (p := Keeps base u.2) ?_ (fun hu => ?_); rotate_left; clear_value u; rotate_right) | (have := u.srcs; clear this; dsimp only [u]; clear u) | (have := fun x => u x; clear this) | clear_value u)
    | with_reducible apply State.ldgIgnored_keeps
    | with_reducible apply State.modRegion_keeps
    | with_reducible apply State.wr_keeps
    | with_reducible apply ite_keeps
    | simp only [keeps_mk_iff]
    | simp only [u, keeps_mk_iff]

theorem execLookup_runs (r key : Nat) (s : State) : Runs s (execLookup r key s) := by
  unfold execLookup
  repeat' first
    | with_reducible exact Keeps.refl _
    | with_reducible assumption
    | with_reducible apply Runs.next
    | with_reducible apply State.atReg_keeps
    | with_reducible apply State.lookupGo_keeps
    | intro t x ht
    | intro t ht
    | dsimp only

theorem execLookupDone_runs (r : Nat) (victim : Victim) (up dev : Nat) (lost : Nat) (s : State) : Runs s (execLookupDone r victim up dev lost s) := by
  unfold execLookupDone
  repeat' first
    | with_reducible exact Keeps.refl _
    | ((fail_if_no_progress extract_lets +onlyGivenNames u); first | (refine cut (p := Keeps s u) ?_ (fun hu => ?_); rotate_left; clear_value u; rotate_right) | (refine cut (p := Keeps s u.1) ?_ (fun hu => ?_); rotate_left; clear_value u; rotate_right) | (refine cut (p := Keeps s u.2) ?_ (fun hu => ?_); rotate_left; clear_value u; rotate_right) | (have := u.srcs; clear this; dsimp only [u]; clear u) | (have := fun x => u x; clear this) | clear_value u)
    | with_reducible assumption
    | with_reducible apply ite_runs
    | with_reducible apply Runs.next
    | with_reducible apply State.cached_keeps
    | with_reducible apply State.modRegion_keeps
    | with_reducible apply State.wrs_keeps
    | with_reducible apply ite_keeps
    | simp only [keeps_mk_iff]
    | simp only [u, keeps_mk_iff]
    | split
    | (dsimp only [u]; split)

theorem State.readAccts_keeps {s : State} (h : Keeps base s) (l : Nat) (ups : List (Nat × Nat)) : Keeps base (State.readAccts s l ups) := by
  unfold State.readAccts
  repeat' first
    | with_reducible assumption
    | ((fail_if_no_progress extract_lets +onlyGivenNames u); first | (refine cut (p := Keeps base u) ?_ (fun hu => ?_); rotate_left; clear_value u; rotate_right) | (refine cut (p := Keeps base u.1) ?_ (fun hu => ?_); rotate_left; clear_value u; rotate_right) | (refine cut (p := Keeps base u.2) ?_ (fun hu => ?_); rotate_left; clear_value u; rotate_right) | (have := u.srcs; clear this; dsimp only [u]; clear u) | (have := fun x => u x; clear this) | clear_value u)
    | with_reducible apply State.acctErrors_keeps
    | with_reducible apply foldl_keeps
    | intro t x ht

theorem State.digestGo_keeps {s : State} (h : Keeps base s) (r i : Nat) : Keeps base (State.digestGo s r i) := by
  unfold State.digestGo
  repeat' first
    | with_reducible assumption
    | ((fail_if_no_progress extract_lets +onlyGivenNames u); first | (refine cut (p := Keeps base u) ?_ (fun hu => ?_); rotate_left; clear_value u; rotate_right) | (refine cut (p := Keeps base u.1) ?_ (fun hu => ?_); rotate_left; clear_value u; rotate_right) | (refine cut (p := Keeps base u.2) ?_ (fun hu => ?_); rotate_left; clear_value u; rotate_right) | (have := u.srcs; clear this; dsimp only [u]; clear u) | (have := fun x => u x; clear this) | clear_value u)
    | with_reducible apply State.ldgIgnored_keeps
    | with_reducible apply State.modRegion_keeps
    | with_reducible apply State.wr_keeps
    | with_reducible apply ite_keeps
    | simp only [keeps_mk_iff]
    | simp only [u, keeps_mk_iff]

theorem execDigest_runs (r i : Nat) (s : State) : Runs s (execDigest r i s) := by
  unfold execDigest
  repeat' first
    | with_reducible exact Keeps.refl _
    | with_reducible assumption
    | with_reducible apply Runs.next
    | with_reducible apply State.atReg_keeps
    | with_reducible apply State.digestGo_keeps
    | intro t x ht
    | intro t ht
    | dsimp only

theorem State.sealDigest_keeps {s : State} (h : Keeps base s) (l ld drops : Nat) : Keeps base (State.sealDigest s l ld drops) := by
  unfold State.sealDigest
  repeat' first
    | with_reducible assumption
    | with_reducible apply ite_keeps
    | simp only [keeps_mk_iff]

theorem State.digestReady_keeps {s : State} (h : Keeps base s) (r : Nat) (ups : List (Nat × Nat)) : Keeps base (State.digestReady s r ups) := by
  unfold State.digestReady
  repeat' first
    | with_reducible assumption
    | ((fail_if_no_progress extract_lets +onlyGivenNames u); first | (refine cut (p := Keeps base u) ?_ (fun hu => ?_); rotate_left; clear_value u; rotate_right) | (refine cut (p := Keeps base u.1) ?_ (fun hu => ?_); rotate_left; clear_value u; rotate_right) | (refine cut (p := Keeps base u.2) ?_ (fun hu => ?_); rotate_left; clear_value u; rotate_right) | (have := u.srcs; clear this; dsimp only [u]; clear u) | (have := fun x => u x; clear this) | clear_value u)
    | with_reducible apply State.modRegion_keeps
    | with_reducible apply State.readAccts_keeps
    | with_reducible apply State.sealDigest_keeps
    | with_reducible apply State.wrs_keeps
    | simp only [keeps_mk_iff]
    | simp only [u, keeps_mk_iff]
    | split
    | (dsimp only [u]; split)

theorem execDigestDone_runs (r : Nat × List (Nat × Nat)) (s : State) : Runs s (execDigestDone r s) := by
  unfold execDigestDone
  repeat' first
    | with_reducible exact Keeps.refl _
    | with_reducible assumption
    | with_reducible apply Runs.next
    | with_reducible apply State.digestReady_keeps

theorem State.writeSpillHead_keeps {s : State} (h : Keeps base s) (h v : Nat) : Keeps base (State.writeSpillHead s h v) := by
  unfold State.writeSpillHead
  repeat' first
    | with_reducible assumption
    | with_reducible apply State.ldgIgnored_keeps
    | with_reducible apply State.wr_keeps
    | with_reducible apply ite_keeps

theorem execSpillHeadWrite_runs (h v : Nat) (s : State) : Runs s (execSpillHeadWrite h v s) := by
  unfold execSpillHeadWrite
  repeat' first
    | with_reducible exact Keeps.refl _
    | with_reducible assumption
    | with_reducible apply Runs.next
    | with_reducible apply State.atReg_keeps
    | with_reducible apply State.writeSpillHead_keeps
    | intro t x ht
    | intro t ht
    | dsimp only

theorem State.writeLdgCtrl_keeps {s : State} (h : Keeps base s) (mask v : Nat) : Keeps base (State.writeLdgCtrl s mask v) := by
  unfold State.writeLdgCtrl
  repeat' first
    | with_reducible assumption
    | ((fail_if_no_progress extract_lets +onlyGivenNames u); first | (refine cut (p := Keeps base u) ?_ (fun hu => ?_); rotate_left; clear_value u; rotate_right) | (refine cut (p := Keeps base u.1) ?_ (fun hu => ?_); rotate_left; clear_value u; rotate_right) | (refine cut (p := Keeps base u.2) ?_ (fun hu => ?_); rotate_left; clear_value u; rotate_right) | (have := u.srcs; clear this; dsimp only [u]; clear u) | (have := fun x => u x; clear this) | clear_value u)
    | with_reducible apply State.ldgIgnored_keeps
    | with_reducible apply State.wr_keeps
    | with_reducible apply ite_keeps

theorem execLdgCtrlWrite_runs (mask v : Nat) (s : State) : Runs s (execLdgCtrlWrite mask v s) := by
  unfold execLdgCtrlWrite
  repeat' first
    | with_reducible exact Keeps.refl _
    | with_reducible assumption
    | with_reducible apply Runs.next
    | with_reducible apply State.atReg_keeps
    | with_reducible apply State.writeLdgCtrl_keeps
    | intro t x ht
    | intro t ht
    | dsimp only

end Sys2Proof.Machine
end

