-- ==== Sys2Proof/Laws/Keeps/Store.lean ====
section
/-! SUPPORT. `Keeps` through the operations of Machine/Store.lean. -/

namespace Sys2Proof.Machine

variable {base : State}

theorem State.cwProgram_keeps {s : State} (h : Keeps base s) (k : Nat) (ws : List Nat) : Keeps base (State.cwProgram s k ws) := by
  unfold State.cwProgram
  repeat' first
    | with_reducible assumption
    | ((fail_if_no_progress extract_lets +onlyGivenNames u); first | (refine cut (p := Keeps base u) ?_ (fun hu => ?_); rotate_left; clear_value u; rotate_right) | (refine cut (p := Keeps base u.1) ?_ (fun hu => ?_); rotate_left; clear_value u; rotate_right) | (refine cut (p := Keeps base u.2) ?_ (fun hu => ?_); rotate_left; clear_value u; rotate_right) | (have := u.srcs; clear this; dsimp only [u]; clear u) | (have := fun x => u x; clear this) | clear_value u)
    | with_reducible apply State.writeWords_keeps
    | simp only [keeps_mk_iff]
    | simp only [u, keeps_mk_iff]

theorem State.cwSpoil_keeps {s : State} (h : Keeps base s) (k : Nat) : Keeps base (State.cwSpoil s k) := by
  unfold State.cwSpoil
  repeat' first
    | with_reducible assumption
    | simp only [keeps_mk_iff]

theorem State.cwErase_keeps {s : State} (h : Keeps base s) (lo hi : Nat) : Keeps base (State.cwErase s lo hi) := by
  unfold State.cwErase
  repeat' first
    | with_reducible assumption
    | ((fail_if_no_progress extract_lets +onlyGivenNames u); first | (refine cut (p := Keeps base u) ?_ (fun hu => ?_); rotate_left; clear_value u; rotate_right) | (refine cut (p := Keeps base u.1) ?_ (fun hu => ?_); rotate_left; clear_value u; rotate_right) | (refine cut (p := Keeps base u.2) ?_ (fun hu => ?_); rotate_left; clear_value u; rotate_right) | (have := u.srcs; clear this; dsimp only [u]; clear u) | (have := fun x => u x; clear this) | clear_value u)
    | with_reducible apply State.clearMem_keeps
    | simp only [keeps_mk_iff]
    | simp only [u, keeps_mk_iff]

theorem State.setTorn_keeps {s : State} (h : Keeps base s) (x : Nat) (b : Bool) : Keeps base (State.setTorn s x b) := by
  unfold State.setTorn
  repeat' first
    | with_reducible assumption
    | with_reducible apply State.wr_keeps

theorem State.showFree_keeps {s : State} (h : Keeps base s)  : Keeps base (State.showFree s) := by
  unfold State.showFree
  repeat' first
    | with_reducible assumption
    | with_reducible apply State.wr_keeps

theorem State.journal_keeps {s : State} (h : Keeps base s) (ws : List Nat) : Keeps base (State.journal s ws) := by
  unfold State.journal
  repeat' first
    | with_reducible assumption
    | with_reducible apply State.cwProgram_keeps
    | with_reducible apply State.showFree_keeps

theorem State.rollIn_keeps {s : State} (h : Keeps base s)  : Keeps base (State.rollIn s) := by
  unfold State.rollIn
  repeat' first
    | with_reducible assumption
    | ((fail_if_no_progress extract_lets +onlyGivenNames u); first | (refine cut (p := Keeps base u) ?_ (fun hu => ?_); rotate_left; clear_value u; rotate_right) | (refine cut (p := Keeps base u.1) ?_ (fun hu => ?_); rotate_left; clear_value u; rotate_right) | (refine cut (p := Keeps base u.2) ?_ (fun hu => ?_); rotate_left; clear_value u; rotate_right) | (have := u.srcs; clear this; dsimp only [u]; clear u) | (have := fun x => u x; clear this) | clear_value u)
    | with_reducible apply State.cwErase_keeps
    | with_reducible apply State.journal_keeps
    | with_reducible apply State.wr_keeps
    | with_reducible apply foldl_keeps
    | intro t x ht

theorem State.rollOut_keeps {s : State} (h : Keeps base s)  : Keeps base (State.rollOut s) := by
  unfold State.rollOut
  repeat' first
    | with_reducible assumption
    | with_reducible apply State.cwErase_keeps

theorem State.rollNow_keeps {s : State} (h : Keeps base s)  : Keeps base (State.rollNow s) := by
  unfold State.rollNow
  repeat' first
    | with_reducible assumption
    | with_reducible apply State.rollIn_keeps
    | with_reducible apply State.rollOut_keeps
    | with_reducible apply State.showFree_keeps
    | with_reducible apply ite_keeps

theorem State.eraseBegin_keeps {s : State} (h : Keeps base s) (x : Nat) : Keeps base (State.eraseBegin s x) := by
  unfold State.eraseBegin
  repeat' first
    | with_reducible assumption
    | with_reducible apply State.cwErase_keeps
    | with_reducible apply State.journal_keeps
    | with_reducible apply State.wr_keeps

theorem State.eraseNow_keeps {s : State} (h : Keeps base s) (x : Nat) : Keeps base (State.eraseNow s x) := by
  unfold State.eraseNow
  repeat' first
    | with_reducible assumption
    | with_reducible apply State.eraseBegin_keeps
    | with_reducible apply State.journal_keeps
    | with_reducible apply State.rollNow_keeps
    | with_reducible apply State.setTorn_keeps
    | with_reducible apply State.wr_keeps

theorem State.eraseFails_keeps {s : State} (h : Keeps base s) (x : Nat) : Keeps base (State.eraseFails s x) := by
  unfold State.eraseFails
  repeat' first
    | with_reducible assumption
    | with_reducible apply State.cwSpoil_keeps
    | with_reducible apply State.drawn_keeps
    | with_reducible apply State.eraseBegin_keeps
    | with_reducible apply State.rollNow_keeps
    | with_reducible apply State.setTorn_keeps
    | with_reducible apply State.wr_keeps

theorem State.journalBad_keeps {s : State} (h : Keeps base s) (ws : List Nat) (spoil : Bool) : Keeps base (State.journalBad s ws spoil) := by
  unfold State.journalBad
  repeat' first
    | with_reducible assumption
    | ((fail_if_no_progress extract_lets +onlyGivenNames u); first | (refine cut (p := Keeps base u) ?_ (fun hu => ?_); rotate_left; clear_value u; rotate_right) | (refine cut (p := Keeps base u.1) ?_ (fun hu => ?_); rotate_left; clear_value u; rotate_right) | (refine cut (p := Keeps base u.2) ?_ (fun hu => ?_); rotate_left; clear_value u; rotate_right) | (have := u.srcs; clear this; dsimp only [u]; clear u) | (have := fun x => u x; clear this) | clear_value u)
    | with_reducible apply State.cwProgram_keeps
    | with_reducible apply State.cwSpoil_keeps
    | with_reducible apply State.showFree_keeps
    | with_reducible apply ite_keeps

theorem State.programNow_keeps {s : State} (h : Keeps base s) (k : Nat) (ws : List Nat) : Keeps base (State.programNow s k ws) := by
  unfold State.programNow
  repeat' first
    | with_reducible assumption
    | with_reducible apply State.cwProgram_keeps
    | with_reducible apply State.wr_keeps

theorem State.programBad_keeps {s : State} (h : Keeps base s) (k : Nat) (ws : List Nat) (spoil : Bool) : Keeps base (State.programBad s k ws spoil) := by
  unfold State.programBad
  repeat' first
    | with_reducible assumption
    | with_reducible apply State.cwSpoil_keeps
    | with_reducible apply State.programNow_keeps
    | with_reducible apply ite_keeps

theorem State.programFails_keeps {s : State} (h : Keeps base s) (k : Nat) (ws : List Nat) : Keeps base (State.programFails s k ws) := by
  unfold State.programFails
  repeat' first
    | with_reducible assumption
    | with_reducible apply State.drawn_keeps
    | with_reducible apply State.programBad_keeps

theorem State.recoverJournal_keeps {s : State} (h : Keeps base s)  : Keeps base (State.recoverJournal s) := by
  unfold State.recoverJournal
  repeat' first
    | with_reducible assumption
    | ((fail_if_no_progress extract_lets +onlyGivenNames u); first | (refine cut (p := Keeps base u) ?_ (fun hu => ?_); rotate_left; clear_value u; rotate_right) | (refine cut (p := Keeps base u.1) ?_ (fun hu => ?_); rotate_left; clear_value u; rotate_right) | (refine cut (p := Keeps base u.2) ?_ (fun hu => ?_); rotate_left; clear_value u; rotate_right) | (have := u.srcs; clear this; dsimp only [u]; clear u) | (have := fun x => u x; clear this) | clear_value u)
    | with_reducible apply State.cwErase_keeps
    | with_reducible apply State.journal_keeps
    | with_reducible apply State.setTorn_keeps
    | with_reducible apply State.showFree_keeps
    | with_reducible apply State.wr_keeps
    | with_reducible apply State.wrs_keeps
    | with_reducible apply ite_keeps
    | with_reducible apply foldl_keeps
    | intro t x ht
    | simp only [keeps_mk_iff]
    | simp only [u, keeps_mk_iff]
    | split
    | (dsimp only [u]; split)

theorem State.recoverErase_keeps {s : State} (h : Keeps base s)  : Keeps base (State.recoverErase s) := by
  unfold State.recoverErase
  repeat' first
    | with_reducible assumption
    | with_reducible apply State.wrs_keeps
    | with_reducible apply ite_keeps
    | simp only [keeps_mk_iff]

theorem State.storeErr_keeps {s : State} (h : Keeps base s) (k kind : Nat) : Keeps base (State.storeErr s k kind) := by
  unfold State.storeErr
  repeat' first
    | with_reducible assumption
    | with_reducible apply State.wrs_keeps
    | with_reducible apply ite_keeps

theorem State.storeServe_keeps {s : State} (h : Keeps base s) (q : Req) (e : Nat) : Keeps base (State.storeServe s q e) := by
  unfold State.storeServe
  repeat' first
    | with_reducible assumption
    | ((fail_if_no_progress extract_lets +onlyGivenNames u); first | (refine cut (p := Keeps base u) ?_ (fun hu => ?_); rotate_left; clear_value u; rotate_right) | (refine cut (p := Keeps base u.1) ?_ (fun hu => ?_); rotate_left; clear_value u; rotate_right) | (refine cut (p := Keeps base u.2) ?_ (fun hu => ?_); rotate_left; clear_value u; rotate_right) | (have := u.srcs; clear this; dsimp only [u]; clear u) | (have := fun x => u x; clear this) | clear_value u)
    | with_reducible apply State.count_keeps
    | with_reducible apply State.respond_keeps
    | with_reducible apply State.storeErr_keeps
    | with_reducible apply State.wr_keeps
    | with_reducible apply ite_keeps
    | simp only [keeps_mk_iff]
    | simp only [u, keeps_mk_iff]
    | split
    | (dsimp only [u]; split)

theorem State.storeRead_keeps {s : State} (h : Keeps base s) (q : Req) (e : Nat) : Keeps base (State.storeRead s q e) := by
  unfold State.storeRead
  repeat' first
    | with_reducible assumption
    | with_reducible apply State.storeServe_keeps
    | with_reducible apply ite_keeps
    | simp only [keeps_mk_iff]

theorem State.serveWaiting_keeps {s : State} (h : Keeps base s) (es : List Nat) : Keeps base (State.serveWaiting s es) := by
  unfold State.serveWaiting
  repeat' first
    | with_reducible assumption
    | ((fail_if_no_progress extract_lets +onlyGivenNames u); first | (refine cut (p := Keeps base u) ?_ (fun hu => ?_); rotate_left; clear_value u; rotate_right) | (refine cut (p := Keeps base u.1) ?_ (fun hu => ?_); rotate_left; clear_value u; rotate_right) | (refine cut (p := Keeps base u.2) ?_ (fun hu => ?_); rotate_left; clear_value u; rotate_right) | (have := u.srcs; clear this; dsimp only [u]; clear u) | (have := fun x => u x; clear this) | clear_value u)
    | with_reducible apply State.storeServe_keeps
    | with_reducible apply foldl_keeps
    | intro t x ht
    | simp only [keeps_mk_iff]
    | simp only [u, keeps_mk_iff]

theorem State.storeWrite_keeps {s : State} (h : Keeps base s) (q : Req) : Keeps base (State.storeWrite s q) := by
  unfold State.storeWrite
  repeat' first
    | with_reducible assumption
    | with_reducible apply State.respond_keeps
    | with_reducible apply State.wr_keeps

theorem State.storeReject_keeps {s : State} (h : Keeps base s) (obj : Bool) (op st : Nat) : Keeps base (State.storeReject s obj op st) := by
  unfold State.storeReject
  repeat' first
    | with_reducible assumption
    | with_reducible apply State.reject_keeps
    | with_reducible apply ite_keeps

theorem State.storeDone_keeps {s : State} (h : Keeps base s) (obj : Bool) (op st : Nat) : Keeps base (State.storeDone s obj op st) := by
  unfold State.storeDone
  repeat' first
    | with_reducible assumption
    | with_reducible apply State.wr_keeps
    | with_reducible apply State.wrs_keeps
    | with_reducible apply ite_keeps

theorem State.storeRefuse_keeps {s : State} (h : Keeps base s) (obj : Bool) (op st : Nat) : Keeps base (State.storeRefuse s obj op st) := by
  unfold State.storeRefuse
  repeat' first
    | with_reducible assumption
    | ((fail_if_no_progress extract_lets +onlyGivenNames u); first | (refine cut (p := Keeps base u) ?_ (fun hu => ?_); rotate_left; clear_value u; rotate_right) | (refine cut (p := Keeps base u.1) ?_ (fun hu => ?_); rotate_left; clear_value u; rotate_right) | (refine cut (p := Keeps base u.2) ?_ (fun hu => ?_); rotate_left; clear_value u; rotate_right) | (have := u.srcs; clear this; dsimp only [u]; clear u) | (have := fun x => u x; clear this) | clear_value u)
    | with_reducible apply State.storeReject_keeps
    | with_reducible apply State.wrs_keeps
    | with_reducible apply ite_keeps

theorem State.setRbuf_keeps {s : State} (h : Keeps base s) (ws : List Nat) : Keeps base (State.setRbuf s ws) := by
  unfold State.setRbuf
  repeat' first
    | with_reducible assumption
    | with_reducible apply State.wrs_keeps
    | with_reducible apply foldl_keeps
    | intro t x ht

theorem State.stoRow_keeps {s : State} (h : Keeps base s) (obj : Bool) {act : State → State}
    (ha : ∀ t, Keeps base t → Keeps base (act t)) : Keeps base (s.stoRow obj act) :=
  ite_keeps (ha _ h) (State.atReg_keeps h _ _ _ ha)


theorem State.readMargin_keeps {s : State} (h : Keeps base s) (obj : Bool) (k margin e : Nat) : Keeps base (State.readMargin s obj k margin e) := by
  unfold State.readMargin
  repeat' first
    | with_reducible assumption
    | ((fail_if_no_progress extract_lets +onlyGivenNames u); first | (refine cut (p := Keeps base u) ?_ (fun hu => ?_); rotate_left; clear_value u; rotate_right) | (refine cut (p := Keeps base u.1) ?_ (fun hu => ?_); rotate_left; clear_value u; rotate_right) | (refine cut (p := Keeps base u.2) ?_ (fun hu => ?_); rotate_left; clear_value u; rotate_right) | (have := u.srcs; clear this; dsimp only [u]; clear u) | (have := fun x => u x; clear this) | clear_value u)
    | with_reducible apply State.drawn_keeps
    | with_reducible apply State.setRbuf_keeps
    | with_reducible apply State.storeDone_keeps
    | with_reducible apply State.storeRefuse_keeps
    | with_reducible apply State.wrs_keeps
    | with_reducible apply ite_keeps

theorem execReadMargin_runs (obj : Bool) (k margin e : Nat) (s : State) : Runs s (execReadMargin obj k margin e s) := by
  unfold execReadMargin
  repeat' first
    | with_reducible exact Keeps.refl _
    | with_reducible assumption
    | with_reducible apply Runs.next
    | with_reducible apply State.readMargin_keeps
    | with_reducible apply State.stoRow_keeps
    | intro t x ht
    | intro t ht
    | dsimp only

theorem State.storeStart_keeps {s : State} (h : Keeps base s) (obj : Bool) (op : Nat) (o : StoreOp) : Keeps base (State.storeStart s obj op o) := by
  unfold State.storeStart
  repeat' first
    | with_reducible assumption
    | ((fail_if_no_progress extract_lets +onlyGivenNames u); first | (refine cut (p := Keeps base u) ?_ (fun hu => ?_); rotate_left; clear_value u; rotate_right) | (refine cut (p := Keeps base u.1) ?_ (fun hu => ?_); rotate_left; clear_value u; rotate_right) | (refine cut (p := Keeps base u.2) ?_ (fun hu => ?_); rotate_left; clear_value u; rotate_right) | (have := u.srcs; clear this; dsimp only [u]; clear u) | (have := fun x => u x; clear this) | clear_value u)
    | with_reducible apply State.wr_keeps
    | with_reducible apply State.wrs_keeps
    | with_reducible apply ite_keeps
    | simp only [keeps_mk_iff]
    | simp only [u, keeps_mk_iff]

theorem State.storeProgram_keeps {s : State} (h : Keeps base s) (obj : Bool) (k e : Nat) : Keeps base (State.storeProgram s obj k e) := by
  unfold State.storeProgram
  repeat' first
    | with_reducible assumption
    | ((fail_if_no_progress extract_lets +onlyGivenNames u); first | (refine cut (p := Keeps base u) ?_ (fun hu => ?_); rotate_left; clear_value u; rotate_right) | (refine cut (p := Keeps base u.1) ?_ (fun hu => ?_); rotate_left; clear_value u; rotate_right) | (refine cut (p := Keeps base u.2) ?_ (fun hu => ?_); rotate_left; clear_value u; rotate_right) | (have := u.srcs; clear this; dsimp only [u]; clear u) | (have := fun x => u x; clear this) | clear_value u)
    | with_reducible apply State.storeRefuse_keeps
    | with_reducible apply State.storeStart_keeps
    | with_reducible apply ite_keeps

theorem execProgram_runs (obj : Bool) (k e : Nat) (s : State) : Runs s (execProgram obj k e s) := by
  unfold execProgram
  repeat' first
    | with_reducible exact Keeps.refl _
    | with_reducible assumption
    | with_reducible apply Runs.next
    | with_reducible apply State.stoRow_keeps
    | with_reducible apply State.storeProgram_keeps
    | intro t x ht
    | intro t ht
    | dsimp only

theorem State.storeIdle_keeps {s : State} (h : Keeps base s) (es : List Nat) : Keeps base (State.storeIdle s es) := by
  unfold State.storeIdle
  repeat' first
    | with_reducible assumption
    | with_reducible apply State.serveWaiting_keeps
    | with_reducible apply State.wrs_keeps
    | simp only [keeps_mk_iff]

theorem execProgramDone_runs (res : Nat) (es : List Nat) (s : State) : Runs s (execProgramDone res es s) := by
  unfold execProgramDone
  repeat' first
    | with_reducible exact Keeps.refl _
    | ((fail_if_no_progress extract_lets +onlyGivenNames u); first | (refine cut (p := Keeps s u) ?_ (fun hu => ?_); rotate_left; clear_value u; rotate_right) | (refine cut (p := Keeps s u.1) ?_ (fun hu => ?_); rotate_left; clear_value u; rotate_right) | (refine cut (p := Keeps s u.2) ?_ (fun hu => ?_); rotate_left; clear_value u; rotate_right) | (have := u.srcs; clear this; dsimp only [u]; clear u) | (have := fun x => u x; clear this) | clear_value u)
    | with_reducible assumption
    | with_reducible apply ite_runs
    | with_reducible apply Runs.next
    | with_reducible apply State.cwProgram_keeps
    | with_reducible apply State.cwSpoil_keeps
    | with_reducible apply State.storeDone_keeps
    | with_reducible apply State.storeIdle_keeps
    | with_reducible apply ite_keeps
    | simp only [keeps_mk_iff]
    | simp only [u, keeps_mk_iff]
    | split
    | (dsimp only [u]; split)

theorem State.storeErase_keeps {s : State} (h : Keeps base s) (obj : Bool) (index : Nat) : Keeps base (State.storeErase s obj index) := by
  unfold State.storeErase
  repeat' first
    | with_reducible assumption
    | ((fail_if_no_progress extract_lets +onlyGivenNames u); first | (refine cut (p := Keeps base u) ?_ (fun hu => ?_); rotate_left; clear_value u; rotate_right) | (refine cut (p := Keeps base u.1) ?_ (fun hu => ?_); rotate_left; clear_value u; rotate_right) | (refine cut (p := Keeps base u.2) ?_ (fun hu => ?_); rotate_left; clear_value u; rotate_right) | (have := u.srcs; clear this; dsimp only [u]; clear u) | (have := fun x => u x; clear this) | clear_value u)
    | with_reducible apply State.journal_keeps
    | with_reducible apply State.storeRefuse_keeps
    | with_reducible apply State.storeStart_keeps
    | with_reducible apply State.wr_keeps
    | with_reducible apply ite_keeps

theorem execErase_runs (obj : Bool) (index : Nat) (s : State) : Runs s (execErase obj index s) := by
  unfold execErase
  repeat' first
    | with_reducible exact Keeps.refl _
    | with_reducible assumption
    | with_reducible apply Runs.next
    | with_reducible apply State.stoRow_keeps
    | with_reducible apply State.storeErase_keeps
    | intro t x ht
    | intro t ht
    | dsimp only

theorem execEraseDone_runs (bad : List Nat) (es : List Nat) (s : State) : Runs s (execEraseDone bad es s) := by
  unfold execEraseDone
  repeat' first
    | with_reducible exact Keeps.refl _
    | ((fail_if_no_progress extract_lets +onlyGivenNames u); first | (refine cut (p := Keeps s u) ?_ (fun hu => ?_); rotate_left; clear_value u; rotate_right) | (refine cut (p := Keeps s u.1) ?_ (fun hu => ?_); rotate_left; clear_value u; rotate_right) | (refine cut (p := Keeps s u.2) ?_ (fun hu => ?_); rotate_left; clear_value u; rotate_right) | (have := u.srcs; clear this; dsimp only [u]; clear u) | (have := fun x => u x; clear this) | clear_value u)
    | with_reducible assumption
    | with_reducible apply ite_runs
    | with_reducible apply Runs.next
    | with_reducible apply State.cwErase_keeps
    | with_reducible apply State.cwSpoil_keeps
    | with_reducible apply State.journal_keeps
    | with_reducible apply State.setTorn_keeps
    | with_reducible apply State.storeDone_keeps
    | with_reducible apply State.storeIdle_keeps
    | with_reducible apply ite_keeps
    | with_reducible apply foldl_keeps
    | intro t x ht
    | simp only [keeps_mk_iff]
    | simp only [u, keeps_mk_iff]
    | split
    | (dsimp only [u]; split)

theorem State.rawRead_keeps {s : State} (h : Keeps base s) (obj : Bool) (k flip : Nat) : Keeps base (State.rawRead s obj k flip) := by
  unfold State.rawRead
  repeat' first
    | with_reducible assumption
    | ((fail_if_no_progress extract_lets +onlyGivenNames u); first | (refine cut (p := Keeps base u) ?_ (fun hu => ?_); rotate_left; clear_value u; rotate_right) | (refine cut (p := Keeps base u.1) ?_ (fun hu => ?_); rotate_left; clear_value u; rotate_right) | (refine cut (p := Keeps base u.2) ?_ (fun hu => ?_); rotate_left; clear_value u; rotate_right) | (have := u.srcs; clear this; dsimp only [u]; clear u) | (have := fun x => u x; clear this) | clear_value u)
    | with_reducible apply State.setRbuf_keeps
    | with_reducible apply State.storeDone_keeps
    | with_reducible apply State.storeRefuse_keeps
    | with_reducible apply State.wr_keeps
    | with_reducible apply ite_keeps

theorem execRawRead_runs (obj : Bool) (k flip : Nat) (s : State) : Runs s (execRawRead obj k flip s) := by
  unfold execRawRead
  repeat' first
    | with_reducible exact Keeps.refl _
    | with_reducible assumption
    | with_reducible apply Runs.next
    | with_reducible apply State.rawRead_keeps
    | with_reducible apply State.stoRow_keeps
    | intro t x ht
    | intro t ht
    | dsimp only

theorem State.rawProgram_keeps {s : State} (h : Keeps base s) (obj : Bool) (k : Nat) : Keeps base (State.rawProgram s obj k) := by
  unfold State.rawProgram
  repeat' first
    | with_reducible assumption
    | ((fail_if_no_progress extract_lets +onlyGivenNames u); first | (refine cut (p := Keeps base u) ?_ (fun hu => ?_); rotate_left; clear_value u; rotate_right) | (refine cut (p := Keeps base u.1) ?_ (fun hu => ?_); rotate_left; clear_value u; rotate_right) | (refine cut (p := Keeps base u.2) ?_ (fun hu => ?_); rotate_left; clear_value u; rotate_right) | (have := u.srcs; clear this; dsimp only [u]; clear u) | (have := fun x => u x; clear this) | clear_value u)
    | with_reducible apply State.cwErase_keeps
    | with_reducible apply State.cwProgram_keeps
    | with_reducible apply State.storeDone_keeps
    | with_reducible apply State.storeRefuse_keeps
    | with_reducible apply ite_keeps
    | simp only [keeps_mk_iff]
    | simp only [u, keeps_mk_iff]

theorem execRawProgram_runs (obj : Bool) (k : Nat) (s : State) : Runs s (execRawProgram obj k s) := by
  unfold execRawProgram
  repeat' first
    | with_reducible exact Keeps.refl _
    | with_reducible assumption
    | with_reducible apply Runs.next
    | with_reducible apply State.rawProgram_keeps
    | with_reducible apply State.stoRow_keeps
    | intro t x ht
    | intro t ht
    | dsimp only

theorem execJournalRollover_runs  (s : State) : Runs s (execJournalRollover s) := by
  unfold execJournalRollover
  repeat' first
    | with_reducible exact Keeps.refl _
    | with_reducible assumption
    | with_reducible apply ite_runs
    | with_reducible apply Runs.next
    | with_reducible apply State.wrs_keeps
    | with_reducible apply ite_keeps
    | simp only [keeps_mk_iff]

theorem execRolloverPeriodEnd_runs (es : List Nat) (s : State) : Runs s (execRolloverPeriodEnd es s) := by
  unfold execRolloverPeriodEnd
  repeat' first
    | with_reducible exact Keeps.refl _
    | ((fail_if_no_progress extract_lets +onlyGivenNames u); first | (refine cut (p := Keeps s u) ?_ (fun hu => ?_); rotate_left; clear_value u; rotate_right) | (refine cut (p := Keeps s u.1) ?_ (fun hu => ?_); rotate_left; clear_value u; rotate_right) | (refine cut (p := Keeps s u.2) ?_ (fun hu => ?_); rotate_left; clear_value u; rotate_right) | (have := u.srcs; clear this; dsimp only [u]; clear u) | (have := fun x => u x; clear this) | clear_value u)
    | with_reducible assumption
    | with_reducible apply Runs.next
    | with_reducible apply State.rollIn_keeps
    | with_reducible apply State.rollOut_keeps
    | with_reducible apply State.serveWaiting_keeps
    | with_reducible apply State.showFree_keeps
    | with_reducible apply State.storeIdle_keeps
    | simp only [keeps_mk_iff]
    | simp only [u, keeps_mk_iff]
    | split
    | (dsimp only [u]; split)

theorem execRecoveryEraseDone_runs (es : List Nat) (s : State) : Runs s (execRecoveryEraseDone es s) := by
  unfold execRecoveryEraseDone
  repeat' first
    | with_reducible exact Keeps.refl _
    | with_reducible assumption
    | with_reducible apply Runs.next
    | with_reducible apply State.rollOut_keeps
    | with_reducible apply State.storeIdle_keeps
    | simp only [keeps_mk_iff]
    | split

theorem State.calBlock_keeps {s : State} (h : Keeps base s) (bank b : Nat) : Keeps base (State.calBlock s bank b) := by
  unfold State.calBlock
  repeat' first
    | with_reducible assumption
    | ((fail_if_no_progress extract_lets +onlyGivenNames u); first | (refine cut (p := Keeps base u) ?_ (fun hu => ?_); rotate_left; clear_value u; rotate_right) | (refine cut (p := Keeps base u.1) ?_ (fun hu => ?_); rotate_left; clear_value u; rotate_right) | (refine cut (p := Keeps base u.2) ?_ (fun hu => ?_); rotate_left; clear_value u; rotate_right) | (have := u.srcs; clear this; dsimp only [u]; clear u) | (have := fun x => u x; clear this) | clear_value u)
    | with_reducible apply State.modBlock_keeps
    | with_reducible apply State.wr_keeps
    | with_reducible apply ite_keeps
    | with_reducible apply foldl_keeps
    | intro t x ht
    | simp only [keeps_mk_iff]
    | simp only [u, keeps_mk_iff]

theorem State.calLoad_keeps {s : State} (h : Keeps base s)  : Keeps base (State.calLoad s) := by
  unfold State.calLoad
  repeat' first
    | with_reducible assumption
    | with_reducible apply State.wr_keeps
    | with_reducible apply ite_keeps
    | simp only [keeps_mk_iff]

theorem execCalLoad_runs  (s : State) : Runs s (execCalLoad s) := by
  unfold execCalLoad
  repeat' first
    | with_reducible exact Keeps.refl _
    | with_reducible assumption
    | with_reducible apply Runs.next
    | with_reducible apply State.atReg_keeps
    | with_reducible apply State.calLoad_keeps
    | intro t x ht
    | intro t ht
    | dsimp only

theorem State.calDone_keeps {s : State} (h : Keeps base s) (a b : Nat) : Keeps base (State.calDone s a b) := by
  unfold State.calDone
  repeat' first
    | with_reducible assumption
    | ((fail_if_no_progress extract_lets +onlyGivenNames u); first | (refine cut (p := Keeps base u) ?_ (fun hu => ?_); rotate_left; clear_value u; rotate_right) | (refine cut (p := Keeps base u.1) ?_ (fun hu => ?_); rotate_left; clear_value u; rotate_right) | (refine cut (p := Keeps base u.2) ?_ (fun hu => ?_); rotate_left; clear_value u; rotate_right) | (have := u.srcs; clear this; dsimp only [u]; clear u) | (have := fun x => u x; clear this) | clear_value u)
    | with_reducible apply State.calBlock_keeps
    | with_reducible apply State.wr_keeps
    | with_reducible apply State.wrs_keeps
    | with_reducible apply ite_keeps
    | with_reducible apply foldl_keeps
    | intro t x ht
    | simp only [keeps_mk_iff]
    | simp only [u, keeps_mk_iff]
    | split
    | (dsimp only [u]; split)

theorem execCalLoadDone_runs (a b : Nat) (s : State) : Runs s (execCalLoadDone a b s) := by
  unfold execCalLoadDone
  repeat' first
    | with_reducible exact Keeps.refl _
    | with_reducible assumption
    | with_reducible apply ite_runs
    | with_reducible apply Runs.next
    | with_reducible apply State.calDone_keeps
    | with_reducible apply ite_keeps

end Sys2Proof.Machine
end

