-- ==== Sys2Proof/Laws/Keeps/Serve.lean ====
section
/-! SUPPORT. `Keeps` through the operations of Machine/Serve.lean. -/

namespace Sys2Proof.Machine

variable {base : State}

theorem State.upset_keeps {s : State} (h : Keeps base s) (a up : Nat) : Keeps base (State.upset s a up) := by
  unfold State.upset
  repeat' first
    | with_reducible assumption
    | with_reducible apply ite_keeps
    | with_reducible apply ecc_set_keeps
    | simp only [keeps_mk_iff]

theorem State.writeRaw_keeps {s : State} (h : Keeps base s) (a v chk : Nat) : Keeps base (State.writeRaw s a v chk) := by
  unfold State.writeRaw
  repeat' first
    | with_reducible assumption
    | ((fail_if_no_progress extract_lets +onlyGivenNames u); first | (refine cut (p := Keeps base u) ?_ (fun hu => ?_); rotate_left; clear_value u; rotate_right) | (refine cut (p := Keeps base u.1) ?_ (fun hu => ?_); rotate_left; clear_value u; rotate_right) | (refine cut (p := Keeps base u.2) ?_ (fun hu => ?_); rotate_left; clear_value u; rotate_right) | (have := u.srcs; clear this; dsimp only [u]; clear u) | (have := fun x => u x; clear this) | clear_value u)
    | with_reducible apply State.writeWord_keeps
    | with_reducible apply ecc_set_keeps
    | with_reducible apply ecc_raw_keeps
    | simp only [keeps_mk_iff]
    | simp only [u, keeps_mk_iff]

theorem State.depotErrors_keeps {s : State} (h : Keeps base s) (b a up : Nat) : Keeps base (State.depotErrors s b a up) := by
  unfold State.depotErrors
  repeat' first
    | with_reducible assumption
    | ((fail_if_no_progress extract_lets +onlyGivenNames u); first | (refine cut (p := Keeps base u) ?_ (fun hu => ?_); rotate_left; clear_value u; rotate_right) | (refine cut (p := Keeps base u.1) ?_ (fun hu => ?_); rotate_left; clear_value u; rotate_right) | (refine cut (p := Keeps base u.2) ?_ (fun hu => ?_); rotate_left; clear_value u; rotate_right) | (have := u.srcs; clear this; dsimp only [u]; clear u) | (have := fun x => u x; clear this) | clear_value u)
    | with_reducible apply State.count_keeps
    | with_reducible apply State.eccAfter_keeps
    | with_reducible apply State.wrs_keeps
    | with_reducible apply ite_keeps

theorem State.smErrors_keeps {s : State} (h : Keeps base s) (m : Nat) (oasis : Bool) (a up : Nat) : Keeps base (State.smErrors s m oasis a up) := by
  unfold State.smErrors
  repeat' first
    | with_reducible assumption
    | ((fail_if_no_progress extract_lets +onlyGivenNames u); first | (refine cut (p := Keeps base u) ?_ (fun hu => ?_); rotate_left; clear_value u; rotate_right) | (refine cut (p := Keeps base u.1) ?_ (fun hu => ?_); rotate_left; clear_value u; rotate_right) | (refine cut (p := Keeps base u.2) ?_ (fun hu => ?_); rotate_left; clear_value u; rotate_right) | (have := u.srcs; clear this; dsimp only [u]; clear u) | (have := fun x => u x; clear this) | clear_value u)
    | with_reducible apply State.count_keeps
    | with_reducible apply State.drawn_keeps
    | with_reducible apply State.eccAfter_keeps
    | with_reducible apply State.report_keeps
    | with_reducible apply ite_keeps

theorem State.errorsOf_keeps {s : State} (h : Keeps base s) (q : Req) (up dev : Nat) (l : List Nat) :
    Keeps base (s.errorsOf q up dev l) := by
  induction l generalizing s up with
  | nil => exact h
  | cons a l ih =>
    unfold State.errorsOf
    extract_lets one
    have h1 : Keeps base (one s) := by
      simp only [one]
      split
      · exact State.padErrors_keeps h _ _ _ _
      · exact State.depotErrors_keeps h _ _ _
      · exact State.acctWords_keeps h _ _ _ _
      · exact State.smErrors_keeps h _ _ _ _
      · exact State.smErrors_keeps h _ _ _ _
      · exact h
    split
    · exact State.ddrRead_keeps h _ _ _ _ _
    · exact ih h1 0


theorem State.serveMemRead_keeps {s : State} (h : Keeps base s) (q : Req) (up dev : Nat) : Keeps base (State.serveMemRead s q up dev) := by
  unfold State.serveMemRead
  repeat' first
    | with_reducible assumption
    | ((fail_if_no_progress extract_lets +onlyGivenNames u); first | (refine cut (p := Keeps base u) ?_ (fun hu => ?_); rotate_left; clear_value u; rotate_right) | (refine cut (p := Keeps base u.1) ?_ (fun hu => ?_); rotate_left; clear_value u; rotate_right) | (refine cut (p := Keeps base u.2) ?_ (fun hu => ?_); rotate_left; clear_value u; rotate_right) | (have := u.srcs; clear this; dsimp only [u]; clear u) | (have := fun x => u x; clear this) | clear_value u)
    | with_reducible apply State.errorsOf_keeps
    | with_reducible apply State.respond_keeps
    | with_reducible apply State.upset_keeps
    | with_reducible apply ite_keeps
    | simp only [keeps_mk_iff]
    | simp only [u, keeps_mk_iff]
    | split
    | (dsimp only [u]; split)

theorem State.mergeWord_keeps {s : State} (h : Keeps base s) (a en v : Nat) : Keeps base (State.mergeWord s a en v) := by
  unfold State.mergeWord
  repeat' first
    | with_reducible assumption
    | with_reducible apply State.writeWord_keeps
    | with_reducible apply ite_keeps

theorem State.merge64_keeps {s : State} (h : Keeps base s) (a en v : Nat) : Keeps base (State.merge64 s a en v) := by
  unfold State.merge64
  repeat' first
    | with_reducible assumption
    | with_reducible apply State.write64_keeps

theorem State.serveRawWrite_keeps {s : State} (h : Keeps base s) (q : Req) : Keeps base (State.serveRawWrite s q) := by
  unfold State.serveRawWrite
  repeat' first
    | with_reducible assumption
    | ((fail_if_no_progress extract_lets +onlyGivenNames u); first | (refine cut (p := Keeps base u) ?_ (fun hu => ?_); rotate_left; clear_value u; rotate_right) | (refine cut (p := Keeps base u.1) ?_ (fun hu => ?_); rotate_left; clear_value u; rotate_right) | (refine cut (p := Keeps base u.2) ?_ (fun hu => ?_); rotate_left; clear_value u; rotate_right) | (have := u.srcs; clear this; dsimp only [u]; clear u) | (have := fun x => u x; clear this) | clear_value u)
    | with_reducible apply State.respond_keeps
    | with_reducible apply State.writeRaw_keeps
    | with_reducible apply ite_keeps

theorem State.serveMemWrite_keeps {s : State} (h : Keeps base s) (q : Req) (up dev : Nat) : Keeps base (State.serveMemWrite s q up dev) := by
  unfold State.serveMemWrite
  repeat' first
    | with_reducible assumption
    | ((fail_if_no_progress extract_lets +onlyGivenNames u); first | (refine cut (p := Keeps base u) ?_ (fun hu => ?_); rotate_left; clear_value u; rotate_right) | (refine cut (p := Keeps base u.1) ?_ (fun hu => ?_); rotate_left; clear_value u; rotate_right) | (refine cut (p := Keeps base u.2) ?_ (fun hu => ?_); rotate_left; clear_value u; rotate_right) | (have := u.srcs; clear this; dsimp only [u]; clear u) | (have := fun x => u x; clear this) | clear_value u)
    | with_reducible apply State.count_keeps
    | with_reducible apply State.errorsOf_keeps
    | with_reducible apply State.merge64_keeps
    | with_reducible apply State.mergeWord_keeps
    | with_reducible apply State.respond_keeps
    | with_reducible apply ite_keeps
    | with_reducible apply foldl_keeps
    | intro t x ht
    | simp only [keeps_mk_iff]
    | simp only [u, keeps_mk_iff]
    | split
    | (dsimp only [u]; split)

theorem State.serveMemory_keeps {s : State} (h : Keeps base s) (q : Req) (up dev : Nat) : Keeps base (State.serveMemory s q up dev) := by
  unfold State.serveMemory
  repeat' first
    | with_reducible assumption
    | ((fail_if_no_progress extract_lets +onlyGivenNames u); first | (refine cut (p := Keeps base u) ?_ (fun hu => ?_); rotate_left; clear_value u; rotate_right) | (refine cut (p := Keeps base u.1) ?_ (fun hu => ?_); rotate_left; clear_value u; rotate_right) | (refine cut (p := Keeps base u.2) ?_ (fun hu => ?_); rotate_left; clear_value u; rotate_right) | (have := u.srcs; clear this; dsimp only [u]; clear u) | (have := fun x => u x; clear this) | clear_value u)
    | with_reducible apply State.abortSlice_keeps
    | with_reducible apply State.respond_keeps
    | with_reducible apply State.serveMemRead_keeps
    | with_reducible apply State.storeRead_keeps
    | with_reducible apply ite_keeps
    | simp only [keeps_mk_iff]
    | simp only [u, keeps_mk_iff]
    | split
    | (dsimp only [u]; split)

theorem State.storeMemory_keeps {s : State} (h : Keeps base s) (q : Req) (up dev : Nat) : Keeps base (State.storeMemory s q up dev) := by
  unfold State.storeMemory
  repeat' first
    | with_reducible assumption
    | ((fail_if_no_progress extract_lets +onlyGivenNames u); first | (refine cut (p := Keeps base u) ?_ (fun hu => ?_); rotate_left; clear_value u; rotate_right) | (refine cut (p := Keeps base u.1) ?_ (fun hu => ?_); rotate_left; clear_value u; rotate_right) | (refine cut (p := Keeps base u.2) ?_ (fun hu => ?_); rotate_left; clear_value u; rotate_right) | (have := u.srcs; clear this; dsimp only [u]; clear u) | (have := fun x => u x; clear this) | clear_value u)
    | with_reducible apply State.abortSlice_keeps
    | with_reducible apply State.respond_keeps
    | with_reducible apply State.serveMemWrite_keeps
    | with_reducible apply State.serveRawWrite_keeps
    | with_reducible apply State.storeWrite_keeps
    | with_reducible apply ite_keeps
    | simp only [keeps_mk_iff]
    | simp only [u, keeps_mk_iff]
    | split
    | (dsimp only [u]; split)

theorem State.collect_keeps {s : State} (h : Keeps base s) (q : Req) (lat : Nat) :
    (∀ t, s.collect q lat = .error t → Keeps base t) ∧ ∀ st d t, s.collect q lat = .ok (st, d, t) → Keeps base t := by
  unfold State.collect
  split
  · exact ⟨fun t e => by cases e; exact h, fun st d t e => by cases e⟩
  · split
    · exact ⟨fun t e => by cases e; exact h, fun st d t e => by cases e⟩
    · dsimp only
      have ha := State.arrived_keeps h ‹Rsp› lat
      split
      · exact ⟨fun t e => (by cases e), fun st d t e => by cases e; exact ha⟩
      · exact ⟨fun t e => by cases e; exact ha, fun st d t e => by cases e⟩


theorem State.accessWith_keeps {s : State} (h : Keeps base s) {f : State → Req → State}
    (hf : ∀ t e, Keeps base t → Keeps base (f t e)) (q : Req) (lat : Nat) :
    (∀ t, s.accessWith f q lat = .error t → Keeps base t) ∧
    ∀ st d t, s.accessWith f q lat = .ok (st, d, t) → Keeps base t := by
  unfold State.accessWith
  split
  · exact ⟨fun t e => by cases e; exact h, fun st d t e => by cases e⟩
  split
  · exact State.collect_keeps h q lat
  split
  · exact ⟨fun t e => by cases e; exact State.waits_keeps h q, fun st d t e => by cases e⟩
  · next hc => exact ⟨fun t e => by (cases e), fun st d t e => by
      cases e; exact State.waitsNot_keeps (State.check_keeps h q hc) q⟩
  · dsimp only
    have ht : Keeps base (((s.waitsNot q).launch q).reach q.init q.tag) :=
      State.reach_keeps (State.launch_keeps (State.waitsNot_keeps h q) q) _ _
    generalize ((s.waitsNot q).launch q).reach q.init q.tag = u at ht
    split
    · exact State.collect_keeps (hf _ _ (by simpa only [keeps_mk_iff] using ht)) q lat
    · exact State.collect_keeps ht q lat


theorem State.ownAccess_keeps {s : State} (h : Keeps base s) (q : Req) (up dev : Nat) :
    (∀ t, s.ownAccess q up dev = .error t → Keeps base t) ∧ ∀ st d t, s.ownAccess q up dev = .ok (st, d, t) → Keeps base t :=
  State.accessWith_keeps (State.drawn_keeps h)
    (fun _ _ ht => ite_keeps (State.storeMemory_keeps ht _ _ _) (State.serveMemory_keeps ht _ _ _)) q _


theorem State.ownReads_keeps {s : State} (h : Keeps base s) (up dev : Nat) (l : List (Nat × Nat)) :
    (∀ t, s.ownReads up dev l = .error t → Keeps base t) ∧ ∀ x t, s.ownReads up dev l = .ok (x, t) → Keeps base t := by
  induction l generalizing s up with
  | nil => exact ⟨fun t e => (by cases e), fun x t e => by cases e; exact h⟩
  | cons g l ih =>
    have ha := State.ownAccess_keeps h (wordsReq 61 0 g.1 g.2 false []) up dev
    unfold State.ownReads
    split
    · next hs => exact ⟨fun t e => by cases e; exact ha.1 _ hs, fun x t e => by cases e⟩
    · next hs =>
      have ht := ha.2 _ _ _ hs
      split
      · exact ⟨fun t e => (by cases e), fun x t e => by cases e; exact ht⟩
      · split
        · next hu => exact ⟨fun t e => by cases e; exact (ih ht 0).1 _ hu, fun x t e => by cases e⟩
        · next hu => exact ⟨fun t e => (by cases e), fun x t e => by cases e; exact (ih ht 0).2 _ _ hu⟩


theorem State.ownWords_keeps {s : State} (h : Keeps base s) (a n up dev : Nat) :
    (∀ t, s.ownWords a n up dev = .error t → Keeps base t) ∧ ∀ x t, s.ownWords a n up dev = .ok (x, t) → Keeps base t :=
  State.ownReads_keeps h up dev _


theorem State.ownBytes_keeps {s : State} (h : Keeps base s) (a n : Nat) :
    (∀ t, s.ownBytes a n = .error t → Keeps base t) ∧ ∀ x t, s.ownBytes a n = .ok (x, t) → Keeps base t := by
  have hr := State.ownReads_keeps h 0 0 (groupsOf 8 (n + 8) a ((n + 7) / 8))
  unfold State.ownBytes
  split
  · next hs => exact ⟨fun t e => by cases e; exact hr.1 _ hs, fun x t e => by cases e⟩
  · next hs => exact ⟨fun t e => (by cases e), fun x t e => by cases e; exact hr.2 _ _ hs⟩


theorem State.ownPut_keeps {s : State} (h : Keeps base s) (a f : Nat) (l : List Nat) :
    (∀ t, s.ownPut a f l = .error t → Keeps base t) ∧ ∀ x t, s.ownPut a f l = .ok (x, t) → Keeps base t := by
  induction f generalizing s a l with
  | zero => exact ⟨fun t e => (by cases e), fun x t e => by cases e; exact h⟩
  | succ f ih =>
    cases l with
    | nil => exact ⟨fun t e => (by cases e), fun x t e => by cases e; exact h⟩
    | cons b bs =>
      unfold State.ownPut
      extract_lets l n k q
      have ha := State.ownAccess_keeps h q 0 0
      split
      · next hs => exact ⟨fun t e => by cases e; exact ha.1 _ hs, fun x t e => by cases e⟩
      · next hs =>
        have ht := ha.2 _ _ _ hs
        split
        · exact ⟨fun t e => (by cases e), fun x t e => by cases e; exact ht⟩
        · exact ih ht _ _


end Sys2Proof.Machine
end

