-- ==== Sys2Proof/Laws/Keeps/PlaneWriter.lean ====
section
/-! SUPPORT. `Keeps` through the operations of Machine/PlaneWriter.lean. -/

namespace Sys2Proof.Machine

variable {base : State}

theorem State.pwHeader_keeps {s : State} (h : Keeps base s) (b up dev : Nat) : Keeps base (State.pwHeader s b up dev) := by
  unfold State.pwHeader
  repeat' first
    | with_reducible assumption
    | ((fail_if_no_progress extract_lets +onlyGivenNames u); first | (refine cut (p := Keeps base u) ?_ (fun hu => ?_); rotate_left; clear_value u; rotate_right) | (refine cut (p := Keeps base u.1) ?_ (fun hu => ?_); rotate_left; clear_value u; rotate_right) | (refine cut (p := Keeps base u.2) ?_ (fun hu => ?_); rotate_left; clear_value u; rotate_right) | (have := u.srcs; clear this; dsimp only [u]; clear u) | (have := fun x => u x; clear this) | clear_value u)
    | with_reducible apply State.modBlock_keeps
    | with_reducible apply State.pwEnd_keeps
    | with_reducible apply State.wrs_keeps
    | with_reducible apply ite_keeps
    | simp only [keeps_mk_iff]
    | simp only [u, keeps_mk_iff]
    | with_reducible refine (State.ownWords_keeps ?_ _ _ _ _).1 _ (by assumption)
    | with_reducible refine (State.ownWords_keeps ?_ _ _ _ _).2 _ _ (by assumption)
    | split
    | (dsimp only [u]; split)

theorem State.pwBegin_keeps {s : State} (h : Keeps base s) (b key : Nat) : Keeps base (State.pwBegin s b key) := by
  unfold State.pwBegin
  repeat' first
    | with_reducible assumption
    | with_reducible apply State.modBlock_keeps
    | with_reducible apply State.wrs_keeps
    | simp only [keeps_mk_iff]

theorem State.fabWrite_keeps {s0 : State} (h : Keeps base s0) (b m key up dev : Nat) : Keeps base (State.fabWrite s0 b m key up dev) := by
  unfold State.fabWrite
  repeat' first
    | with_reducible assumption
    | ((fail_if_no_progress extract_lets +onlyGivenNames u); first | (refine cut (p := Keeps base u) ?_ (fun hu => ?_); rotate_left; clear_value u; rotate_right) | (refine cut (p := Keeps base u.1) ?_ (fun hu => ?_); rotate_left; clear_value u; rotate_right) | (refine cut (p := Keeps base u.2) ?_ (fun hu => ?_); rotate_left; clear_value u; rotate_right) | (have := u.srcs; clear this; dsimp only [u]; clear u) | (have := fun x => u x; clear this) | clear_value u)
    | with_reducible apply State.fabIgnored_keeps
    | with_reducible apply State.modBlock_keeps
    | with_reducible apply State.pwBegin_keeps
    | with_reducible apply State.pwHeader_keeps
    | with_reducible apply ite_keeps
    | simp only [keeps_mk_iff]
    | simp only [u, keeps_mk_iff]

theorem execFabWrite_runs (b m key : Nat) (err : Nat × Nat) (s : State) : Runs s (execFabWrite b m key err s) := by
  unfold execFabWrite
  repeat' first
    | with_reducible exact Keeps.refl _
    | with_reducible assumption
    | with_reducible apply Runs.next
    | with_reducible apply State.atReg_keeps
    | with_reducible apply State.fabWrite_keeps
    | intro t x ht
    | intro t ht
    | dsimp only

theorem State.pwRecord_keeps {s : State} (h : Keeps base s) (b : Nat) (r : PwRun) (raw : List Nat) (fail : Bool) : Keeps base (State.pwRecord s b r raw fail) := by
  unfold State.pwRecord
  repeat' first
    | with_reducible assumption
    | ((fail_if_no_progress extract_lets +onlyGivenNames u); first | (refine cut (p := Keeps base u) ?_ (fun hu => ?_); rotate_left; clear_value u; rotate_right) | (refine cut (p := Keeps base u.1) ?_ (fun hu => ?_); rotate_left; clear_value u; rotate_right) | (refine cut (p := Keeps base u.2) ?_ (fun hu => ?_); rotate_left; clear_value u; rotate_right) | (have := u.srcs; clear this; dsimp only [u]; clear u) | (have := fun x => u x; clear this) | clear_value u)
    | with_reducible apply State.modBlock_keeps
    | with_reducible apply State.pwFail_keeps
    | with_reducible apply State.wr_keeps
    | with_reducible apply ite_keeps
    | simp only [keeps_mk_iff]
    | simp only [u, keeps_mk_iff]

theorem State.pwFrame_keeps {s : State} (h : Keeps base s) (b up dev : Nat) (fail : Bool) : Keeps base (State.pwFrame s b up dev fail) := by
  unfold State.pwFrame
  repeat' first
    | with_reducible assumption
    | with_reducible apply State.drawn_keeps
    | with_reducible apply State.pwFail_keeps
    | with_reducible apply State.pwHeader_keeps
    | with_reducible apply State.pwRecord_keeps
    | with_reducible apply ite_keeps
    | simp only [keeps_mk_iff]
    | with_reducible refine (State.ownWords_keeps ?_ _ _ _ _).1 _ (by assumption)
    | with_reducible refine (State.ownWords_keeps ?_ _ _ _ _).2 _ _ (by assumption)
    | split

theorem execPwFrame_runs (b : Nat) (err : Nat × Nat) (fail : Bool) (s : State) : Runs s (execPwFrame b err fail s) := by
  unfold execPwFrame
  repeat' first
    | with_reducible exact Keeps.refl _
    | with_reducible assumption
    | with_reducible apply Runs.next
    | with_reducible apply State.pwFrame_keeps

theorem State.pwTrailer_keeps {s : State} (h : Keeps base s) (b : Nat) (r : PwRun) (t : List Nat) : Keeps base (State.pwTrailer s b r t) := by
  unfold State.pwTrailer
  repeat' first
    | with_reducible assumption
    | ((fail_if_no_progress extract_lets +onlyGivenNames u); first | (refine cut (p := Keeps base u) ?_ (fun hu => ?_); rotate_left; clear_value u; rotate_right) | (refine cut (p := Keeps base u.1) ?_ (fun hu => ?_); rotate_left; clear_value u; rotate_right) | (refine cut (p := Keeps base u.2) ?_ (fun hu => ?_); rotate_left; clear_value u; rotate_right) | (have := u.srcs; clear this; dsimp only [u]; clear u) | (have := fun x => u x; clear this) | clear_value u)
    | with_reducible apply State.bootPll_keeps
    | with_reducible apply State.pwEnd_keeps
    | with_reducible apply State.pwFail_keeps
    | with_reducible apply State.setPlane_keeps
    | with_reducible apply State.wrs_keeps
    | with_reducible apply ite_keeps

theorem State.pwComplete_keeps {s : State} (h : Keeps base s) (b up dev blank : Nat) : Keeps base (State.pwComplete s b up dev blank) := by
  unfold State.pwComplete
  repeat' first
    | with_reducible assumption
    | with_reducible apply State.pwFail_keeps
    | with_reducible apply State.pwTrailer_keeps
    | with_reducible apply ite_keeps
    | simp only [keeps_mk_iff]
    | with_reducible refine (State.ownWords_keeps ?_ _ _ _ _).1 _ (by assumption)
    | with_reducible refine (State.ownWords_keeps ?_ _ _ _ _).2 _ _ (by assumption)
    | split

theorem execPwComplete_runs (b : Nat) (err : Nat × Nat × Nat) (s : State) : Runs s (execPwComplete b err s) := by
  unfold execPwComplete
  repeat' first
    | with_reducible exact Keeps.refl _
    | with_reducible assumption
    | with_reducible apply Runs.next
    | with_reducible apply State.pwComplete_keeps

end Sys2Proof.Machine
end

