-- ==== Sys2Proof/Laws/Keeps/Objor.lean ====
section
/-! SUPPORT. `Keeps` through the operations of Machine/Objor.lean. -/

namespace Sys2Proof.Machine

variable {base : State}

theorem State.setRes_keeps {s : State} (h : Keeps base s) (m n v : Nat) : Keeps base (State.setRes s m n v) := by
  unfold State.setRes
  repeat' first
    | with_reducible assumption
    | with_reducible apply State.wr_keeps

theorem State.mbDone_keeps {s : State} (h : Keeps base s) (m op st detail : Nat) : Keeps base (State.mbDone s m op st detail) := by
  unfold State.mbDone
  repeat' first
    | with_reducible assumption
    | with_reducible apply State.wrs_keeps

theorem State.mbRefuse_keeps {s : State} (h : Keeps base s) (m op st detail : Nat) : Keeps base (State.mbRefuse s m op st detail) := by
  unfold State.mbRefuse
  repeat' first
    | with_reducible assumption
    | ((fail_if_no_progress extract_lets +onlyGivenNames u); first | (refine cut (p := Keeps base u) ?_ (fun hu => ?_); rotate_left; clear_value u; rotate_right) | (refine cut (p := Keeps base u.1) ?_ (fun hu => ?_); rotate_left; clear_value u; rotate_right) | (refine cut (p := Keeps base u.2) ?_ (fun hu => ?_); rotate_left; clear_value u; rotate_right) | (have := u.srcs; clear this; dsimp only [u]; clear u) | (have := fun x => u x; clear this) | clear_value u)
    | with_reducible apply State.mbDone_keeps
    | with_reducible apply State.reject_keeps
    | with_reducible apply State.wr_keeps
    | with_reducible apply ite_keeps

theorem MbRes.close_keeps {r : MbRes} (hr : Keeps base r.s) (m op : Nat) : Keeps base (r.close m op) := by
  unfold MbRes.close
  repeat' split
  · exact hr
  · simpa only [keeps_mk_iff] using State.wrs_keeps hr _
  · exact State.mbRefuse_keeps (State.wr_keeps hr _ _) _ _ _ _
  · exact State.mbDone_keeps hr _ _ _ _


theorem State.mailbox_keeps {s : State} (h : Keeps base s) (m op : Nat) (states : List Nat) (preempts : Bool)
    {body : State → Nat → MbRes} (hb : ∀ t k, Keeps base t → Keeps base (body t k).s) :
    Keeps base (s.mailbox m op states preempts body) := by
  unfold State.mailbox
  split
  · have ht : Keeps base (({ s with objor := { s.objor with queue := s.objor.queue.tail } }).wr (OBJ.MB_STATUS_PEND m) 0) :=
      State.wr_keeps (by simpa only [keeps_mk_iff] using h) _ _
    dsimp only
    split
    · exact State.mbRefuse_keeps ht _ _ _ _
    · exact MbRes.close_keeps (hb _ _ ht) _ _
  · dsimp only
    repeat' split
    all_goals first
      | exact State.mbRefuse_keeps h _ _ _ _
      | exact MbRes.close_keeps (hb _ _ h) _ _
      | simpa only [keeps_mk_iff] using State.wrs_keeps h _


theorem State.mbRow_keeps {s : State} (h : Keeps base s) (m op : Nat) (states : List Nat) (preempts : Bool)
    {body : State → Nat → MbRes} (hb : ∀ t k, Keeps base t → Keeps base (body t k).s) :
    Keeps base (s.mbRow m op states preempts body) := by
  unfold State.mbRow
  exact State.atReg_keeps h _ _ _ fun t ht => State.mailbox_keeps ht _ _ _ _ hb


theorem State.withBytes_keeps {s : State} (h : Keeps base s) (a n : Nat) {k : State → List Nat → MbRes}
    (hk : ∀ t b, Keeps base t → Keeps base (k t b).s) : Keeps base (s.withBytes a n k).s := by
  unfold State.withBytes
  split
  · exact h
  split
  · next e => exact (State.ownBytes_keeps h a n).1 _ e
  · next e => exact (State.ownBytes_keeps h a n).2 _ _ e
  · next e => exact hk _ _ ((State.ownBytes_keeps h a n).2 _ _ e)


theorem State.withStore_keeps {s : State} (h : Keeps base s) {k : State → MbRes} (hk : ∀ t, Keeps base t → Keeps base (k t).s) :
    Keeps base (s.withStore k).s := by
  unfold State.withStore
  split
  · exact h
  · exact hk _ h


theorem State.setNonce_keeps {s : State} (h : Keeps base s) (m : Nat) (n : Option Nat) : Keeps base (State.setNonce s m n) := by
  unfold State.setNonce
  repeat' first
    | with_reducible assumption
    | with_reducible apply ite_keeps
    | simp only [keeps_mk_iff]

theorem State.randomDrawn_keeps {s : State} (h : Keeps base s)  : Keeps base (State.randomDrawn s) := by
  unfold State.randomDrawn
  repeat' first
    | with_reducible assumption
    | simp only [keeps_mk_iff]

theorem State.giveNonce_keeps {s : State} (h : Keeps base s) (m : Nat) : Keeps base (State.giveNonce s m) := by
  unfold State.giveNonce
  repeat' first
    | with_reducible assumption
    | ((fail_if_no_progress extract_lets +onlyGivenNames u); first | (refine cut (p := Keeps base u) ?_ (fun hu => ?_); rotate_left; clear_value u; rotate_right) | (refine cut (p := Keeps base u.1) ?_ (fun hu => ?_); rotate_left; clear_value u; rotate_right) | (refine cut (p := Keeps base u.2) ?_ (fun hu => ?_); rotate_left; clear_value u; rotate_right) | (have := u.srcs; clear this; dsimp only [u]; clear u) | (have := fun x => u x; clear this) | clear_value u)
    | with_reducible apply State.randomDrawn_keeps
    | with_reducible apply State.setNonce_keeps
    | with_reducible apply State.setRes_keeps
    | with_reducible apply foldl_keeps
    | intro t x ht

theorem identityRead_keeps {s : State} (h : Keeps base s) (m : Nat) : Keeps base (identityRead s m).s := by
  unfold identityRead
  repeat' first
    | with_reducible assumption
    | ((fail_if_no_progress extract_lets +onlyGivenNames u); first | (refine cut (p := Keeps base u) ?_ (fun hu => ?_); rotate_left; clear_value u; rotate_right) | (refine cut (p := Keeps base u.1) ?_ (fun hu => ?_); rotate_left; clear_value u; rotate_right) | (refine cut (p := Keeps base u.2) ?_ (fun hu => ?_); rotate_left; clear_value u; rotate_right) | (have := u.srcs; clear this; dsimp only [u]; clear u) | (have := fun x => u x; clear this) | clear_value u)
    | with_reducible apply State.giveNonce_keeps
    | with_reducible apply State.setRes_keeps
    | with_reducible apply ite_keeps
    | simp only [keeps_mk_iff]
    | simp only [u, keeps_mk_iff]
    | with_reducible refine (State.ownPut_keeps ?_ _ _ _).1 _ (by assumption)
    | with_reducible refine (State.ownPut_keeps ?_ _ _ _).2 _ _ (by assumption)
    | split
    | (dsimp only [u]; split)
    | with_reducible apply ite_mb_keeps
    | split
    | dsimp only

theorem execGetIdentityRead_runs (m : Nat) (s : State) : Runs s (execGetIdentityRead m s) := by
  unfold execGetIdentityRead
  repeat' first
    | with_reducible exact Keeps.refl _
    | with_reducible assumption
    | with_reducible apply Runs.next
    | with_reducible apply State.mbRow_keeps
    | with_reducible apply identityRead_keeps
    | intro t x ht
    | intro t ht
    | dsimp only

theorem State.logInto_keeps {s : State} (h : Keeps base s) (x slot ceiling mid : Nat) : Keeps base (State.logInto s x slot ceiling mid) := by
  unfold State.logInto
  repeat' first
    | with_reducible assumption
    | with_reducible apply State.programNow_keeps

theorem State.logCeiling_keeps {s : State} (h : Keeps base s) (slot ceiling mid : Nat) : Keeps base (State.logCeiling s slot ceiling mid) := by
  unfold State.logCeiling
  repeat' first
    | with_reducible assumption
    | with_reducible apply State.logInto_keeps

theorem State.logFails_keeps {s : State} (h : Keeps base s) (slot ceiling mid : Nat) : Keeps base (State.logFails s slot ceiling mid) := by
  unfold State.logFails
  repeat' first
    | with_reducible assumption
    | with_reducible apply State.programFails_keeps

theorem State.logTurn_keeps {s : State} (h : Keeps base s) (live : List (Nat × Nat × Nat)) : Keeps base (State.logTurn s live) := by
  unfold State.logTurn
  repeat' first
    | with_reducible assumption
    | ((fail_if_no_progress extract_lets +onlyGivenNames u); first | (refine cut (p := Keeps base u) ?_ (fun hu => ?_); rotate_left; clear_value u; rotate_right) | (refine cut (p := Keeps base u.1) ?_ (fun hu => ?_); rotate_left; clear_value u; rotate_right) | (refine cut (p := Keeps base u.2) ?_ (fun hu => ?_); rotate_left; clear_value u; rotate_right) | (have := u.srcs; clear this; dsimp only [u]; clear u) | (have := fun x => u x; clear this) | clear_value u)
    | with_reducible apply State.eraseNow_keeps
    | with_reducible apply State.logInto_keeps
    | with_reducible apply ite_keeps
    | with_reducible apply foldl_keeps
    | intro t x ht

theorem State.logRoll_keeps {s : State} (h : Keeps base s)  : Keeps base (State.logRoll s) := by
  unfold State.logRoll
  repeat' first
    | with_reducible assumption
    | with_reducible apply State.logTurn_keeps
    | with_reducible apply ite_keeps

theorem State.closeBonds_keeps {s : State} (h : Keeps base s) (p : BondSession → Bool) : Keeps base (State.closeBonds s p) := by
  unfold State.closeBonds
  repeat' first
    | with_reducible assumption
    | with_reducible apply State.wrs_keeps
    | with_reducible apply foldl_keeps
    | intro t x ht
    | simp only [keeps_mk_iff]

theorem State.objorError_keeps {s : State} (h : Keeps base s)  : Keeps base (State.objorError s) := by
  unfold State.objorError
  repeat' first
    | with_reducible assumption
    | ((fail_if_no_progress extract_lets +onlyGivenNames u); first | (refine cut (p := Keeps base u) ?_ (fun hu => ?_); rotate_left; clear_value u; rotate_right) | (refine cut (p := Keeps base u.1) ?_ (fun hu => ?_); rotate_left; clear_value u; rotate_right) | (refine cut (p := Keeps base u.2) ?_ (fun hu => ?_); rotate_left; clear_value u; rotate_right) | (have := u.srcs; clear this; dsimp only [u]; clear u) | (have := fun x => u x; clear this) | clear_value u)
    | with_reducible apply State.closeBonds_keeps
    | with_reducible apply State.wrs_keeps
    | simp only [keeps_mk_iff]
    | simp only [u, keeps_mk_iff]

theorem State.storeStep_keeps {s : State} (h : Keeps base s)  : Keeps base (State.storeStep s) := by
  unfold State.storeStep
  repeat' first
    | with_reducible assumption
    | with_reducible apply State.wr_keeps

theorem generate_keeps {s : State} (h : Keeps base s) (bad : Bool) (_m : Nat) : Keeps base (generate bad s _m).s := by
  unfold generate
  repeat' first
    | with_reducible assumption
    | ((fail_if_no_progress extract_lets +onlyGivenNames u); first | (refine cut (p := Keeps base u) ?_ (fun hu => ?_); rotate_left; clear_value u; rotate_right) | (refine cut (p := Keeps base u.1) ?_ (fun hu => ?_); rotate_left; clear_value u; rotate_right) | (refine cut (p := Keeps base u.2) ?_ (fun hu => ?_); rotate_left; clear_value u; rotate_right) | (have := u.srcs; clear this; dsimp only [u]; clear u) | (have := fun x => u x; clear this) | clear_value u)
    | with_reducible apply State.logCeiling_keeps
    | with_reducible apply State.logFails_keeps
    | with_reducible apply State.objorError_keeps
    | with_reducible apply State.randomDrawn_keeps
    | with_reducible apply State.withStore_keeps
    | with_reducible apply State.wr_keeps
    | with_reducible apply ite_keeps
    | simp only [keeps_mk_iff]
    | simp only [u, keeps_mk_iff]
    | with_reducible apply ite_mb_keeps
    | split
    | dsimp only
    | intro t x ht
    | intro t ht
    | dsimp only

theorem execGenerate_runs (m : Nat) (bad : Bool) (s : State) : Runs s (execGenerate m bad s) := by
  unfold execGenerate
  repeat' first
    | with_reducible exact Keeps.refl _
    | with_reducible assumption
    | with_reducible apply Runs.next
    | with_reducible apply State.mbRow_keeps
    | with_reducible apply generate_keeps
    | intro t x ht
    | intro t ht
    | dsimp only

theorem setCert_keeps {s : State} (h : Keeps base s) (bad : Bool) (m : Nat) : Keeps base (setCert bad s m).s := by
  unfold setCert
  repeat' first
    | with_reducible assumption
    | ((fail_if_no_progress extract_lets +onlyGivenNames u); first | (refine cut (p := Keeps base u) ?_ (fun hu => ?_); rotate_left; clear_value u; rotate_right) | (refine cut (p := Keeps base u.1) ?_ (fun hu => ?_); rotate_left; clear_value u; rotate_right) | (refine cut (p := Keeps base u.2) ?_ (fun hu => ?_); rotate_left; clear_value u; rotate_right) | (have := u.srcs; clear this; dsimp only [u]; clear u) | (have := fun x => u x; clear this) | clear_value u)
    | with_reducible apply State.storeStep_keeps
    | with_reducible apply State.withBytes_keeps
    | with_reducible apply State.withStore_keeps
    | with_reducible apply ite_keeps
    | simp only [keeps_mk_iff]
    | simp only [u, keeps_mk_iff]
    | with_reducible apply ite_mb_keeps
    | split
    | dsimp only
    | intro t x ht
    | intro t ht
    | dsimp only

theorem execSetCert_runs (m : Nat) (bad : Bool) (s : State) : Runs s (execSetCert m bad s) := by
  unfold execSetCert
  repeat' first
    | with_reducible exact Keeps.refl _
    | with_reducible assumption
    | with_reducible apply Runs.next
    | with_reducible apply State.mbRow_keeps
    | with_reducible apply setCert_keeps
    | intro t x ht
    | intro t ht
    | dsimp only

theorem State.approvedNow_keeps {s : State} (h : Keeps base s)  : Keeps base (State.approvedNow s) := by
  unfold State.approvedNow
  repeat' first
    | with_reducible assumption
    | with_reducible apply State.wrB_keeps

theorem State.katResult_keeps {s : State} (h : Keeps base s) (pass : Nat) : Keeps base (State.katResult s pass) := by
  unfold State.katResult
  repeat' first
    | with_reducible assumption
    | ((fail_if_no_progress extract_lets +onlyGivenNames u); first | (refine cut (p := Keeps base u) ?_ (fun hu => ?_); rotate_left; clear_value u; rotate_right) | (refine cut (p := Keeps base u.1) ?_ (fun hu => ?_); rotate_left; clear_value u; rotate_right) | (refine cut (p := Keeps base u.2) ?_ (fun hu => ?_); rotate_left; clear_value u; rotate_right) | (have := u.srcs; clear this; dsimp only [u]; clear u) | (have := fun x => u x; clear this) | clear_value u)
    | with_reducible apply State.objorError_keeps
    | with_reducible apply State.wrs_keeps
    | with_reducible apply ite_keeps

theorem execSelfTestFailure_runs  (s : State) : Runs s (execSelfTestFailure s) := by
  unfold execSelfTestFailure
  repeat' first
    | with_reducible exact Keeps.refl _
    | with_reducible assumption
    | with_reducible apply Runs.next
    | with_reducible apply State.objorError_keeps

theorem katStatus_keeps {s : State} (h : Keeps base s) (m : Nat) : Keeps base (katStatus s m).s := by
  unfold katStatus
  repeat' first
    | with_reducible assumption
    | with_reducible apply State.setRes_keeps
    | with_reducible apply ite_mb_keeps
    | split
    | dsimp only

theorem execKatStatus_runs (m : Nat) (s : State) : Runs s (execKatStatus m s) := by
  unfold execKatStatus
  repeat' first
    | with_reducible exact Keeps.refl _
    | with_reducible assumption
    | with_reducible apply Runs.next
    | with_reducible apply State.mbRow_keeps
    | with_reducible apply katStatus_keeps
    | intro t x ht
    | intro t ht
    | dsimp only

theorem katRerun_keeps {s : State} (h : Keeps base s) (pass : Nat) (m : Nat) : Keeps base (katRerun pass s m).s := by
  unfold katRerun
  repeat' first
    | with_reducible assumption
    | with_reducible apply State.katResult_keeps
    | with_reducible apply katStatus_keeps
    | with_reducible apply ite_keeps
    | with_reducible apply ite_mb_keeps
    | split
    | dsimp only

theorem execKatRerun_runs (m pass : Nat) (s : State) : Runs s (execKatRerun m pass s) := by
  unfold execKatRerun
  repeat' first
    | with_reducible exact Keeps.refl _
    | with_reducible assumption
    | with_reducible apply Runs.next
    | with_reducible apply State.mbRow_keeps
    | with_reducible apply katRerun_keeps
    | intro t x ht
    | intro t ht
    | dsimp only

theorem State.addOwner_keeps {s : State} (h : Keeps base s) (b : List Nat) (flags : Nat) : Keeps base (State.addOwner s b flags) := by
  unfold State.addOwner
  repeat' first
    | with_reducible assumption
    | ((fail_if_no_progress extract_lets +onlyGivenNames u); first | (refine cut (p := Keeps base u) ?_ (fun hu => ?_); rotate_left; clear_value u; rotate_right) | (refine cut (p := Keeps base u.1) ?_ (fun hu => ?_); rotate_left; clear_value u; rotate_right) | (refine cut (p := Keeps base u.2) ?_ (fun hu => ?_); rotate_left; clear_value u; rotate_right) | (have := u.srcs; clear this; dsimp only [u]; clear u) | (have := fun x => u x; clear this) | clear_value u)
    | with_reducible apply State.wrs_keeps
    | with_reducible apply ite_keeps
    | simp only [keeps_mk_iff]
    | simp only [u, keeps_mk_iff]

theorem State.removeOwner_keeps {s : State} (h : Keeps base s) (i : Nat) : Keeps base (State.removeOwner s i) := by
  unfold State.removeOwner
  repeat' first
    | with_reducible assumption
    | ((fail_if_no_progress extract_lets +onlyGivenNames u); first | (refine cut (p := Keeps base u) ?_ (fun hu => ?_); rotate_left; clear_value u; rotate_right) | (refine cut (p := Keeps base u.1) ?_ (fun hu => ?_); rotate_left; clear_value u; rotate_right) | (refine cut (p := Keeps base u.2) ?_ (fun hu => ?_); rotate_left; clear_value u; rotate_right) | (have := u.srcs; clear this; dsimp only [u]; clear u) | (have := fun x => u x; clear this) | clear_value u)
    | with_reducible apply State.wrs_keeps
    | simp only [keeps_mk_iff]
    | simp only [u, keeps_mk_iff]

theorem State.removeFleet_keeps {s : State} (h : Keeps base s) (j : Nat) : Keeps base (State.removeFleet s j) := by
  unfold State.removeFleet
  repeat' first
    | with_reducible assumption
    | ((fail_if_no_progress extract_lets +onlyGivenNames u); first | (refine cut (p := Keeps base u) ?_ (fun hu => ?_); rotate_left; clear_value u; rotate_right) | (refine cut (p := Keeps base u.1) ?_ (fun hu => ?_); rotate_left; clear_value u; rotate_right) | (refine cut (p := Keeps base u.2) ?_ (fun hu => ?_); rotate_left; clear_value u; rotate_right) | (have := u.srcs; clear this; dsimp only [u]; clear u) | (have := fun x => u x; clear this) | clear_value u)
    | with_reducible apply State.wrs_keeps
    | simp only [keeps_mk_iff]
    | simp only [u, keeps_mk_iff]

theorem State.ownerTake_keeps {s : State} (h : Keeps base s) (op : Nat) (b : List Nat) : Keeps base (State.ownerTake s op b) := by
  unfold State.ownerTake
  repeat' first
    | with_reducible assumption
    | ((fail_if_no_progress extract_lets +onlyGivenNames u); first | (refine cut (p := Keeps base u) ?_ (fun hu => ?_); rotate_left; clear_value u; rotate_right) | (refine cut (p := Keeps base u.1) ?_ (fun hu => ?_); rotate_left; clear_value u; rotate_right) | (refine cut (p := Keeps base u.2) ?_ (fun hu => ?_); rotate_left; clear_value u; rotate_right) | (have := u.srcs; clear this; dsimp only [u]; clear u) | (have := fun x => u x; clear this) | clear_value u)
    | with_reducible apply State.addOwner_keeps
    | with_reducible apply State.removeFleet_keeps
    | with_reducible apply State.removeOwner_keeps
    | with_reducible apply State.wrs_keeps
    | with_reducible apply ite_keeps
    | simp only [keeps_mk_iff]
    | simp only [u, keeps_mk_iff]

theorem registerOwner_keeps {s : State} (h : Keeps base s) (named : Option Nat) (bad : Bool) (m : Nat) : Keeps base (registerOwner named bad s m).s := by
  unfold registerOwner
  repeat' first
    | with_reducible assumption
    | ((fail_if_no_progress extract_lets +onlyGivenNames u); first | (refine cut (p := Keeps base u) ?_ (fun hu => ?_); rotate_left; clear_value u; rotate_right) | (refine cut (p := Keeps base u.1) ?_ (fun hu => ?_); rotate_left; clear_value u; rotate_right) | (refine cut (p := Keeps base u.2) ?_ (fun hu => ?_); rotate_left; clear_value u; rotate_right) | (have := u.srcs; clear this; dsimp only [u]; clear u) | (have := fun x => u x; clear this) | clear_value u)
    | with_reducible apply State.ownerTake_keeps
    | with_reducible apply State.setNonce_keeps
    | with_reducible apply State.storeStep_keeps
    | with_reducible apply State.withBytes_keeps
    | with_reducible apply State.withStore_keeps
    | with_reducible apply ite_keeps
    | with_reducible apply ite_mb_keeps
    | split
    | dsimp only
    | intro t x ht
    | intro t ht
    | dsimp only

theorem execAddOwner_runs (m : Nat) (bad : Bool) (s : State) : Runs s (execAddOwner m bad s) := by
  unfold execAddOwner
  repeat' first
    | with_reducible exact Keeps.refl _
    | with_reducible assumption
    | with_reducible apply Runs.next
    | with_reducible apply State.mbRow_keeps
    | with_reducible apply registerOwner_keeps
    | intro t x ht
    | intro t ht
    | dsimp only

theorem execRemoveOwner_runs (m : Nat) (bad : Bool) (s : State) : Runs s (execRemoveOwner m bad s) := by
  unfold execRemoveOwner
  repeat' first
    | with_reducible exact Keeps.refl _
    | with_reducible assumption
    | with_reducible apply Runs.next
    | with_reducible apply State.mbRow_keeps
    | with_reducible apply registerOwner_keeps
    | intro t x ht
    | intro t ht
    | dsimp only

theorem execAddFleet_runs (m : Nat) (bad : Bool) (s : State) : Runs s (execAddFleet m bad s) := by
  unfold execAddFleet
  repeat' first
    | with_reducible exact Keeps.refl _
    | with_reducible assumption
    | with_reducible apply Runs.next
    | with_reducible apply State.mbRow_keeps
    | with_reducible apply registerOwner_keeps
    | intro t x ht
    | intro t ht
    | dsimp only

theorem execRemoveFleet_runs (m : Nat) (bad : Bool) (s : State) : Runs s (execRemoveFleet m bad s) := by
  unfold execRemoveFleet
  repeat' first
    | with_reducible exact Keeps.refl _
    | with_reducible assumption
    | with_reducible apply Runs.next
    | with_reducible apply State.mbRow_keeps
    | with_reducible apply registerOwner_keeps
    | intro t x ht
    | intro t ht
    | dsimp only

theorem State.withManifest_keeps {s : State} (h : Keeps base s) (a n : Nat) {k : State → List Nat → MbRes}
    (hk : ∀ t b, Keeps base t → Keeps base (k t b).s) : Keeps base (s.withManifest a n k).s := by
  unfold State.withManifest
  split
  · next e => exact (State.ownWords_keeps h _ _ _ _).1 _ e
  · next e => exact (State.ownWords_keeps h _ _ _ _).2 _ _ e
  · next e => exact hk _ _ ((State.ownWords_keeps h _ _ _ _).2 _ _ e)


theorem State.zeroWindows_keeps {s : State} (h : Keeps base s) (n c : Nat) : Keeps base (State.zeroWindows s n c) := by
  unfold State.zeroWindows
  repeat' first
    | with_reducible assumption
    | with_reducible apply State.clearMem_keeps
    | with_reducible apply State.wrs_keeps
    | with_reducible apply ite_keeps
    | with_reducible apply foldl_keeps
    | intro t x ht

theorem State.zeroSect_keeps {s : State} (h : Keeps base s) (ok : Bool) (x : Sect) : Keeps base (State.zeroSect s ok x) := by
  unfold State.zeroSect
  repeat' first
    | with_reducible assumption
    | ((fail_if_no_progress extract_lets +onlyGivenNames u); first | (refine cut (p := Keeps base u) ?_ (fun hu => ?_); rotate_left; clear_value u; rotate_right) | (refine cut (p := Keeps base u.1) ?_ (fun hu => ?_); rotate_left; clear_value u; rotate_right) | (refine cut (p := Keeps base u.2) ?_ (fun hu => ?_); rotate_left; clear_value u; rotate_right) | (have := u.srcs; clear this; dsimp only [u]; clear u) | (have := fun x => u x; clear this) | clear_value u)
    | with_reducible apply State.clearMem_keeps
    | with_reducible apply State.eraseFails_keeps
    | with_reducible apply State.eraseNow_keeps
    | with_reducible apply ite_keeps
    | with_reducible apply foldl_keeps
    | intro t x ht

theorem State.zeroiseSlot_keeps {s : State} (h : Keeps base s) (n : Nat) (ok : Bool) : Keeps base (State.zeroiseSlot s n ok) := by
  unfold State.zeroiseSlot
  repeat' first
    | with_reducible assumption
    | ((fail_if_no_progress extract_lets +onlyGivenNames u); first | (refine cut (p := Keeps base u) ?_ (fun hu => ?_); rotate_left; clear_value u; rotate_right) | (refine cut (p := Keeps base u.1) ?_ (fun hu => ?_); rotate_left; clear_value u; rotate_right) | (refine cut (p := Keeps base u.2) ?_ (fun hu => ?_); rotate_left; clear_value u; rotate_right) | (have := u.srcs; clear this; dsimp only [u]; clear u) | (have := fun x => u x; clear this) | clear_value u)
    | with_reducible apply State.closeBonds_keeps
    | with_reducible apply State.wr_keeps
    | with_reducible apply State.wrs_keeps
    | with_reducible apply State.zeroSect_keeps
    | with_reducible apply State.zeroWindows_keeps
    | with_reducible apply ite_keeps
    | with_reducible apply foldl_keeps
    | intro t x ht
    | simp only [keeps_mk_iff]
    | simp only [u, keeps_mk_iff]

theorem zeroiseAll_keeps {s : State} (h : Keeps base s) (bad : Bool) (_m : Nat) : Keeps base (zeroiseAll bad s _m).s := by
  unfold zeroiseAll
  repeat' first
    | with_reducible assumption
    | ((fail_if_no_progress extract_lets +onlyGivenNames u); first | (refine cut (p := Keeps base u) ?_ (fun hu => ?_); rotate_left; clear_value u; rotate_right) | (refine cut (p := Keeps base u.1) ?_ (fun hu => ?_); rotate_left; clear_value u; rotate_right) | (refine cut (p := Keeps base u.2) ?_ (fun hu => ?_); rotate_left; clear_value u; rotate_right) | (have := u.srcs; clear this; dsimp only [u]; clear u) | (have := fun x => u x; clear this) | clear_value u)
    | with_reducible apply State.removeFleet_keeps
    | with_reducible apply State.removeOwner_keeps
    | with_reducible apply State.storeStep_keeps
    | with_reducible apply State.withStore_keeps
    | with_reducible apply State.zeroiseSlot_keeps
    | with_reducible apply ite_keeps
    | with_reducible apply foldl_keeps
    | intro t x ht
    | simp only [keeps_mk_iff]
    | simp only [u, keeps_mk_iff]
    | with_reducible apply ite_mb_keeps
    | split
    | dsimp only
    | intro t x ht
    | intro t ht
    | dsimp only

theorem zeroise_keeps {s : State} (h : Keeps base s) (bad : Bool) (m : Nat) : Keeps base (zeroise bad s m).s := by
  unfold zeroise
  repeat' first
    | with_reducible assumption
    | ((fail_if_no_progress extract_lets +onlyGivenNames u); first | (refine cut (p := Keeps base u) ?_ (fun hu => ?_); rotate_left; clear_value u; rotate_right) | (refine cut (p := Keeps base u.1) ?_ (fun hu => ?_); rotate_left; clear_value u; rotate_right) | (refine cut (p := Keeps base u.2) ?_ (fun hu => ?_); rotate_left; clear_value u; rotate_right) | (have := u.srcs; clear this; dsimp only [u]; clear u) | (have := fun x => u x; clear this) | clear_value u)
    | with_reducible apply State.zeroiseSlot_keeps
    | with_reducible apply zeroiseAll_keeps
    | with_reducible apply ite_keeps
    | with_reducible apply ite_mb_keeps
    | split
    | dsimp only

theorem execZeroise_runs (m : Nat × Bool) (s : State) : Runs s (execZeroise m s) := by
  unfold execZeroise
  repeat' first
    | with_reducible exact Keeps.refl _
    | with_reducible assumption
    | with_reducible apply Runs.next
    | with_reducible apply State.mbRow_keeps
    | with_reducible apply zeroise_keeps
    | intro t x ht
    | intro t ht
    | dsimp only

theorem execZeroiseAll_runs (m : Nat × Bool) (s : State) : Runs s (execZeroiseAll m s) := by
  unfold execZeroiseAll
  repeat' first
    | with_reducible exact Keeps.refl _
    | with_reducible assumption
    | with_reducible apply Runs.next
    | with_reducible apply State.mbRow_keeps
    | with_reducible apply zeroiseAll_keeps
    | intro t x ht
    | intro t ht
    | dsimp only

theorem State.startImage_keeps {s : State} (h : Keeps base s) (addr n : Nat) (b : List Nat) (x : Sect) (k : Nat) : Keeps base (State.startImage s addr n b x k) := by
  unfold State.startImage
  repeat' first
    | with_reducible assumption
    | ((fail_if_no_progress extract_lets +onlyGivenNames u); first | (refine cut (p := Keeps base u) ?_ (fun hu => ?_); rotate_left; clear_value u; rotate_right) | (refine cut (p := Keeps base u.1) ?_ (fun hu => ?_); rotate_left; clear_value u; rotate_right) | (refine cut (p := Keeps base u.2) ?_ (fun hu => ?_); rotate_left; clear_value u; rotate_right) | (have := u.srcs; clear this; dsimp only [u]; clear u) | (have := fun x => u x; clear this) | clear_value u)
    | with_reducible apply State.fabWrite_keeps
    | with_reducible apply State.wrs_keeps

theorem State.startInstall_keeps {s : State} (h : Keeps base s) (m n a : Nat) (b : List Nat) : Keeps base (State.startInstall s m n a b) := by
  unfold State.startInstall
  repeat' first
    | with_reducible assumption
    | ((fail_if_no_progress extract_lets +onlyGivenNames u); first | (refine cut (p := Keeps base u) ?_ (fun hu => ?_); rotate_left; clear_value u; rotate_right) | (refine cut (p := Keeps base u.1) ?_ (fun hu => ?_); rotate_left; clear_value u; rotate_right) | (refine cut (p := Keeps base u.2) ?_ (fun hu => ?_); rotate_left; clear_value u; rotate_right) | (have := u.srcs; clear this; dsimp only [u]; clear u) | (have := fun x => u x; clear this) | clear_value u)
    | with_reducible apply State.startImage_keeps
    | with_reducible apply State.wrs_keeps
    | with_reducible apply foldl_keeps
    | intro t x ht
    | simp only [keeps_mk_iff]
    | simp only [u, keeps_mk_iff]

theorem installManifest_keeps {s : State} (h : Keeps base s) (m : Nat) : Keeps base (installManifest s m).s := by
  unfold installManifest
  repeat' first
    | with_reducible assumption
    | ((fail_if_no_progress extract_lets +onlyGivenNames u); first | (refine cut (p := Keeps base u) ?_ (fun hu => ?_); rotate_left; clear_value u; rotate_right) | (refine cut (p := Keeps base u.1) ?_ (fun hu => ?_); rotate_left; clear_value u; rotate_right) | (refine cut (p := Keeps base u.2) ?_ (fun hu => ?_); rotate_left; clear_value u; rotate_right) | (have := u.srcs; clear this; dsimp only [u]; clear u) | (have := fun x => u x; clear this) | clear_value u)
    | with_reducible apply State.startInstall_keeps
    | with_reducible apply State.withManifest_keeps
    | with_reducible apply ite_keeps
    | with_reducible apply ite_mb_keeps
    | split
    | dsimp only
    | intro t x ht
    | intro t ht
    | dsimp only

theorem State.openWindow_keeps {s : State} (h : Keeps base s) (n : Nat) (sys : Bool) (x : Sect) (c : Nat) : Keeps base (State.openWindow s n sys x c) := by
  unfold State.openWindow
  repeat' first
    | with_reducible assumption
    | ((fail_if_no_progress extract_lets +onlyGivenNames u); first | (refine cut (p := Keeps base u) ?_ (fun hu => ?_); rotate_left; clear_value u; rotate_right) | (refine cut (p := Keeps base u.1) ?_ (fun hu => ?_); rotate_left; clear_value u; rotate_right) | (refine cut (p := Keeps base u.2) ?_ (fun hu => ?_); rotate_left; clear_value u; rotate_right) | (have := u.srcs; clear this; dsimp only [u]; clear u) | (have := fun x => u x; clear this) | clear_value u)
    | with_reducible apply State.wrs_keeps
    | simp only [keeps_mk_iff]
    | simp only [u, keeps_mk_iff]
    | split
    | (dsimp only [u]; split)

theorem State.ownWrites_keeps {s : State} (h : Keeps base s) (l : List (Nat × Nat)) (ws : List Nat) :
    (∀ t, s.ownWrites l ws = .error t → Keeps base t) ∧ ∀ x t, s.ownWrites l ws = .ok (x, t) → Keeps base t := by
  induction l generalizing s ws with
  | nil => exact ⟨fun t e => (by cases e), fun x t e => by cases e; exact h⟩
  | cons g l ih =>
    have ha := State.ownAccess_keeps h (wordsReq 61 0 g.1 g.2 true (ws.take g.2)) 0 0
    unfold State.ownWrites
    split
    · next hs => exact ⟨fun t e => by cases e; exact ha.1 _ hs, fun x t e => by cases e⟩
    · next hs =>
      have ht := ha.2 _ _ _ hs
      split
      · exact ⟨fun t e => (by cases e), fun x t e => by cases e; exact ht⟩
      · exact ih ht _


theorem State.putWords_keeps {s : State} (h : Keeps base s) (ws l : List Nat) :
    (∀ t, s.putWords ws l = .error t → Keeps base t) ∧ ∀ x t, s.putWords ws l = .ok (x, t) → Keeps base t := by
  induction l generalizing s with
  | nil => exact ⟨fun t e => (by cases e), fun x t e => by cases e; exact h⟩
  | cons a l ih =>
    have ha := State.ownWrites_keeps h (groupsOf 16 (ws.length + 1) a ws.length) ws
    unfold State.putWords
    split
    · next hs => exact ⟨fun t e => by cases e; exact ha.1 _ hs, fun x t e => by cases e⟩
    · next hs => exact ⟨fun t e => (by cases e), fun x t e => by cases e; exact ha.2 _ _ hs⟩
    · next hs => exact ih (ha.2 _ _ hs)


theorem State.memSect_keeps {s : State} (h : Keeps base s) (n : Nat) (sys : Bool) (x : Sect) {t : State} {l : List Nat}
    (e : s.memSect n sys x = some (t, l)) : Keeps base t := by
  unfold State.memSect at e
  split at e
  · cases e; exact foldl_keeps (fun _ _ ht => State.openWindow_keeps ht _ _ _ _) h
  · cases e; exact h
  · cases e; exact h
  · cases e


theorem State.putSect_keeps {s : State} (h : Keeps base s) (n : Nat) (x : Sect) (ws : List Nat) : Keeps base (State.putSect s n x ws) := by
  unfold State.putSect
  repeat' first
    | with_reducible assumption
    | ((fail_if_no_progress extract_lets +onlyGivenNames u); first | (refine cut (p := Keeps base u) ?_ (fun hu => ?_); rotate_left; clear_value u; rotate_right) | (refine cut (p := Keeps base u.1) ?_ (fun hu => ?_); rotate_left; clear_value u; rotate_right) | (refine cut (p := Keeps base u.2) ?_ (fun hu => ?_); rotate_left; clear_value u; rotate_right) | (have := u.srcs; clear this; dsimp only [u]; clear u) | (have := fun x => u x; clear this) | clear_value u)
    | with_reducible apply State.loadAreg_keeps
    | with_reducible apply State.programNow_keeps
    | with_reducible apply State.putTab_keeps
    | with_reducible apply State.wr_keeps
    | with_reducible apply State.writeLevels_keeps
    | with_reducible apply State.wrs_keeps
    | with_reducible apply apgWindowWrite_keeps
    | with_reducible apply foldl_keeps
    | intro t x ht
    | simp only [keeps_mk_iff]
    | simp only [u, keeps_mk_iff]
    | split
    | (dsimp only [u]; split)

theorem State.putAll_keeps {s : State} (h : Keeps base s) (n : Nat) (sys : Bool) (l : List (Sect × List Nat)) :
    (∀ t, s.putAll n sys l = .error t → Keeps base t) ∧ ∀ x t, s.putAll n sys l = .ok (x, t) → Keeps base t := by
  induction l generalizing s with
  | nil => exact ⟨fun t e => (by cases e), fun x t e => by cases e; exact h⟩
  | cons g l ih =>
    unfold State.putAll
    split
    · exact ⟨fun t e => (by cases e), fun x t e => by cases e; exact h⟩
    split
    · next hm =>
      have hp := State.putWords_keeps (State.memSect_keeps h n sys g.1 hm) g.2 ‹List Nat›
      split
      · next hs => exact ⟨fun t e => by cases e; exact hp.1 _ hs, fun x t e => by cases e⟩
      · next hs => exact ⟨fun t e => (by cases e), fun x t e => by cases e; exact hp.2 _ _ hs⟩
      · next hs => exact ih (hp.2 _ _ hs)
    · exact ih (State.putSect_keeps h _ _ _)


theorem State.installUndo_keeps {s : State} (h : Keeps base s) (r : InstallRun) (why : Nat) (ok : Bool) : Keeps base (State.installUndo s r why ok) := by
  unfold State.installUndo
  repeat' first
    | with_reducible assumption
    | with_reducible apply State.mbDone_keeps
    | with_reducible apply State.zeroiseSlot_keeps
    | simp only [keeps_mk_iff]

theorem State.installSpoil_keeps {s : State} (h : Keeps base s) (b : List Nat) (key : Nat) : Keeps base (State.installSpoil s b key) := by
  unfold State.installSpoil
  repeat' first
    | with_reducible assumption
    | with_reducible apply State.programFails_keeps
    | simp only [keeps_mk_iff]
    | split

theorem State.installEnd_keeps {s : State} (h : Keeps base s) (r : InstallRun) (bad : Nat) : Keeps base (State.installEnd s r bad) := by
  unfold State.installEnd
  repeat' first
    | with_reducible assumption
    | ((fail_if_no_progress extract_lets +onlyGivenNames u); first | (refine cut (p := Keeps base u) ?_ (fun hu => ?_); rotate_left; clear_value u; rotate_right) | (refine cut (p := Keeps base u.1) ?_ (fun hu => ?_); rotate_left; clear_value u; rotate_right) | (refine cut (p := Keeps base u.2) ?_ (fun hu => ?_); rotate_left; clear_value u; rotate_right) | (have := u.srcs; clear this; dsimp only [u]; clear u) | (have := fun x => u x; clear this) | clear_value u)
    | with_reducible apply State.installSpoil_keeps
    | with_reducible apply State.installUndo_keeps
    | with_reducible apply State.mbDone_keeps
    | with_reducible apply State.setRes_keeps
    | with_reducible apply State.wr_keeps
    | with_reducible apply ite_keeps
    | simp only [keeps_mk_iff]
    | simp only [u, keeps_mk_iff]
    | with_reducible refine (State.ownWords_keeps ?_ _ _ _ _).1 _ (by assumption)
    | with_reducible refine (State.ownWords_keeps ?_ _ _ _ _).2 _ _ (by assumption)
    | with_reducible refine (State.putAll_keeps ?_ _ _ _).1 _ (by assumption)
    | with_reducible refine (State.putAll_keeps ?_ _ _ _).2 _ _ (by assumption)
    | split
    | (dsimp only [u]; split)

theorem openBonded_keeps {s : State} (h : Keeps base s) (m : Nat) : Keeps base (openBonded s m).s := by
  unfold openBonded
  repeat' first
    | with_reducible assumption
    | ((fail_if_no_progress extract_lets +onlyGivenNames u); first | (refine cut (p := Keeps base u) ?_ (fun hu => ?_); rotate_left; clear_value u; rotate_right) | (refine cut (p := Keeps base u.1) ?_ (fun hu => ?_); rotate_left; clear_value u; rotate_right) | (refine cut (p := Keeps base u.2) ?_ (fun hu => ?_); rotate_left; clear_value u; rotate_right) | (have := u.srcs; clear this; dsimp only [u]; clear u) | (have := fun x => u x; clear this) | clear_value u)
    | with_reducible apply State.setRes_keeps
    | with_reducible apply State.wrs_keeps
    | with_reducible apply ite_keeps
    | simp only [keeps_mk_iff]
    | simp only [u, keeps_mk_iff]
    | split
    | (dsimp only [u]; split)
    | with_reducible apply ite_mb_keeps
    | split
    | dsimp only

theorem execOpenBonded_runs (m : Nat) (s : State) : Runs s (execOpenBonded m s) := by
  unfold execOpenBonded
  repeat' first
    | with_reducible exact Keeps.refl _
    | with_reducible assumption
    | with_reducible apply Runs.next
    | with_reducible apply State.mbRow_keeps
    | with_reducible apply openBonded_keeps
    | intro t x ht
    | intro t ht
    | dsimp only

theorem closeBonded_keeps {s : State} (h : Keeps base s) (m : Nat) : Keeps base (closeBonded s m).s := by
  unfold closeBonded
  repeat' first
    | with_reducible assumption
    | ((fail_if_no_progress extract_lets +onlyGivenNames u); first | (refine cut (p := Keeps base u) ?_ (fun hu => ?_); rotate_left; clear_value u; rotate_right) | (refine cut (p := Keeps base u.1) ?_ (fun hu => ?_); rotate_left; clear_value u; rotate_right) | (refine cut (p := Keeps base u.2) ?_ (fun hu => ?_); rotate_left; clear_value u; rotate_right) | (have := u.srcs; clear this; dsimp only [u]; clear u) | (have := fun x => u x; clear this) | clear_value u)
    | with_reducible apply State.closeBonds_keeps
    | with_reducible apply ite_keeps
    | with_reducible apply ite_mb_keeps
    | split
    | dsimp only

theorem execCloseBonded_runs (m : Nat) (s : State) : Runs s (execCloseBonded m s) := by
  unfold execCloseBonded
  repeat' first
    | with_reducible exact Keeps.refl _
    | with_reducible assumption
    | with_reducible apply Runs.next
    | with_reducible apply State.mbRow_keeps
    | with_reducible apply closeBonded_keeps
    | intro t x ht
    | intro t ht
    | dsimp only

theorem State.startDigest_keeps {s : State} (h : Keeps base s) (l : Nat) : Keeps base (State.startDigest s l) := by
  unfold State.startDigest
  repeat' first
    | with_reducible assumption
    | ((fail_if_no_progress extract_lets +onlyGivenNames u); first | (refine cut (p := Keeps base u) ?_ (fun hu => ?_); rotate_left; clear_value u; rotate_right) | (refine cut (p := Keeps base u.1) ?_ (fun hu => ?_); rotate_left; clear_value u; rotate_right) | (refine cut (p := Keeps base u.2) ?_ (fun hu => ?_); rotate_left; clear_value u; rotate_right) | (have := u.srcs; clear this; dsimp only [u]; clear u) | (have := fun x => u x; clear this) | clear_value u)
    | with_reducible apply State.modRegion_keeps
    | with_reducible apply State.wrs_keeps
    | with_reducible apply ite_keeps
    | simp only [keeps_mk_iff]
    | simp only [u, keeps_mk_iff]

theorem issueSeal_keeps {s : State} (h : Keeps base s) (m : Nat) : Keeps base (issueSeal s m).s := by
  unfold issueSeal
  repeat' first
    | with_reducible assumption
    | ((fail_if_no_progress extract_lets +onlyGivenNames u); first | (refine cut (p := Keeps base u) ?_ (fun hu => ?_); rotate_left; clear_value u; rotate_right) | (refine cut (p := Keeps base u.1) ?_ (fun hu => ?_); rotate_left; clear_value u; rotate_right) | (refine cut (p := Keeps base u.2) ?_ (fun hu => ?_); rotate_left; clear_value u; rotate_right) | (have := u.srcs; clear this; dsimp only [u]; clear u) | (have := fun x => u x; clear this) | clear_value u)
    | with_reducible apply State.startDigest_keeps
    | with_reducible apply State.wrs_keeps
    | with_reducible apply ite_keeps
    | simp only [keeps_mk_iff]
    | simp only [u, keeps_mk_iff]
    | with_reducible apply ite_mb_keeps
    | split
    | dsimp only

theorem State.logForSeal_keeps {s : State} (h : Keeps base s) (n : Nat) : Keeps base (State.logForSeal s n) := by
  unfold State.logForSeal
  repeat' first
    | with_reducible assumption
    | with_reducible apply State.logCeiling_keeps
    | with_reducible apply State.logRoll_keeps
    | with_reducible apply foldl_keeps
    | intro t x ht

theorem State.sealWritten_keeps {s : State} (h : Keeps base s) (x : SealRun) (n : Nat) : Keeps base (State.sealWritten s x n) := by
  unfold State.sealWritten
  repeat' first
    | with_reducible assumption
    | ((fail_if_no_progress extract_lets +onlyGivenNames u); first | (refine cut (p := Keeps base u) ?_ (fun hu => ?_); rotate_left; clear_value u; rotate_right) | (refine cut (p := Keeps base u.1) ?_ (fun hu => ?_); rotate_left; clear_value u; rotate_right) | (refine cut (p := Keeps base u.2) ?_ (fun hu => ?_); rotate_left; clear_value u; rotate_right) | (have := u.srcs; clear this; dsimp only [u]; clear u) | (have := fun x => u x; clear this) | clear_value u)
    | with_reducible apply State.closeBonds_keeps
    | with_reducible apply State.count_keeps
    | with_reducible apply State.mbDone_keeps
    | with_reducible apply State.modRun_keeps
    | with_reducible apply State.setRes_keeps
    | with_reducible apply State.wr_keeps
    | with_reducible apply ite_keeps
    | simp only [keeps_mk_iff]
    | simp only [u, keeps_mk_iff]

theorem State.sealEnd_keeps {s : State} (h : Keeps base s) (x : SealRun) (bad : Bool) : Keeps base (State.sealEnd s x bad) := by
  unfold State.sealEnd
  repeat' first
    | with_reducible assumption
    | ((fail_if_no_progress extract_lets +onlyGivenNames u); first | (refine cut (p := Keeps base u) ?_ (fun hu => ?_); rotate_left; clear_value u; rotate_right) | (refine cut (p := Keeps base u.1) ?_ (fun hu => ?_); rotate_left; clear_value u; rotate_right) | (refine cut (p := Keeps base u.2) ?_ (fun hu => ?_); rotate_left; clear_value u; rotate_right) | (have := u.srcs; clear this; dsimp only [u]; clear u) | (have := fun x => u x; clear this) | clear_value u)
    | with_reducible apply State.logFails_keeps
    | with_reducible apply State.logForSeal_keeps
    | with_reducible apply State.logRoll_keeps
    | with_reducible apply State.mbDone_keeps
    | with_reducible apply State.objorError_keeps
    | with_reducible apply State.sealWritten_keeps
    | with_reducible apply ite_keeps
    | simp only [keeps_mk_iff]
    | simp only [u, keeps_mk_iff]
    | with_reducible refine (State.ownPut_keeps ?_ _ _ _).1 _ (by assumption)
    | with_reducible refine (State.ownPut_keeps ?_ _ _ _).2 _ _ (by assumption)
    | split
    | (dsimp only [u]; split)

end Sys2Proof.Machine
end

