-- ==== Sys2Proof/Laws/Keeps/Events.lean ====
section
/-! SUPPORT. `Keeps` through the operations of Machine/Events.lean. -/

namespace Sys2Proof.Machine

variable {base : State}

theorem State.modSrc_keeps {s : State} (h : Keeps base s) (n : Nat) (f : SrcX → SrcX) : Keeps base (s.modSrc n f) :=
  keeps_tabs h id id id id id id id id id (fun w => Tab.wf_set _ _ w) id rfl


theorem State.hostTry_keeps {s : State} (h : Keeps base s) (n : Nat) : Keeps base (State.hostTry s n) := by
  unfold State.hostTry
  repeat' first
    | with_reducible assumption
    | ((fail_if_no_progress extract_lets +onlyGivenNames u); first | (refine cut (p := Keeps base u) ?_ (fun hu => ?_); rotate_left; clear_value u; rotate_right) | (refine cut (p := Keeps base u.1) ?_ (fun hu => ?_); rotate_left; clear_value u; rotate_right) | (refine cut (p := Keeps base u.2) ?_ (fun hu => ?_); rotate_left; clear_value u; rotate_right) | (have := u.srcs; clear this; dsimp only [u]; clear u) | (have := fun x => u x; clear this) | clear_value u)
    | with_reducible apply State.modSrc_keeps
    | with_reducible apply ite_keeps
    | simp only [keeps_mk_iff]
    | simp only [u, keeps_mk_iff]

theorem State.fire_keeps {s : State} (h : Keeps base s) (n : Nat) : Keeps base (State.fire s n) := by
  unfold State.fire
  repeat' first
    | with_reducible assumption
    | with_reducible apply State.count_keeps
    | with_reducible apply State.hostTry_keeps
    | with_reducible apply State.modSrc_keeps
    | simp only [keeps_mk_iff]

theorem State.levelTry_keeps {s : State} (h : Keeps base s) (n : Nat) (was : Bool) : Keeps base (State.levelTry s n was) := by
  unfold State.levelTry
  repeat' first
    | with_reducible assumption
    | with_reducible apply State.hostTry_keeps
    | with_reducible apply ite_keeps

theorem State.setInput_keeps {s : State} (h : Keeps base s) (n : Nat) (v : Bool) : Keeps base (State.setInput s n v) := by
  unfold State.setInput
  repeat' first
    | with_reducible assumption
    | ((fail_if_no_progress extract_lets +onlyGivenNames u); first | (refine cut (p := Keeps base u) ?_ (fun hu => ?_); rotate_left; clear_value u; rotate_right) | (refine cut (p := Keeps base u.1) ?_ (fun hu => ?_); rotate_left; clear_value u; rotate_right) | (refine cut (p := Keeps base u.2) ?_ (fun hu => ?_); rotate_left; clear_value u; rotate_right) | (have := u.srcs; clear this; dsimp only [u]; clear u) | (have := fun x => u x; clear this) | clear_value u)
    | with_reducible apply State.fire_keeps
    | with_reducible apply State.levelTry_keeps
    | with_reducible apply State.modSrc_keeps
    | with_reducible apply ite_keeps
    | simp only [keeps_mk_iff]
    | simp only [u, keeps_mk_iff]

theorem State.recall_keeps {s : State} (h : Keeps base s) (p : Choice → Bool) : Keeps base (State.recall s p) := by
  unfold State.recall
  repeat' first
    | with_reducible assumption
    | with_reducible apply State.count_keeps
    | simp only [keeps_mk_iff]

theorem State.revalidate_keeps {s : State} (h : Keeps base s)  : Keeps base (State.revalidate s) := by
  unfold State.revalidate
  repeat' first
    | with_reducible assumption
    | with_reducible apply State.recall_keeps

theorem State.wakeDeep_keeps {s : State} (h : Keeps base s) (w : Nat) : Keeps base (State.wakeDeep s w) := by
  unfold State.wakeDeep
  repeat' first
    | with_reducible assumption
    | with_reducible apply State.modSteward_keeps
    | with_reducible apply ite_keeps
    | simp only [keeps_mk_iff]

theorem State.takeMie_keeps {s : State} (h : Keeps base s) (mie : Nat) : Keeps base (State.takeMie s mie) := by
  unfold State.takeMie
  repeat' first
    | with_reducible assumption
    | with_reducible apply State.modSteward_keeps
    | with_reducible apply ite_keeps
    | with_reducible apply foldl_keeps
    | intro t x ht
    | simp only [keeps_mk_iff]

theorem State.enterNormal_keeps {s : State} (h : Keeps base s) (n w pc vec : Nat) : Keeps base (State.enterNormal s n w pc vec) := by
  unfold State.enterNormal
  repeat' first
    | with_reducible assumption
    | with_reducible apply State.modSteward_keeps
    | with_reducible apply State.wrs_keeps
    | simp only [keeps_mk_iff]

theorem State.enterFast_keeps {s : State} (h : Keeps base s) (n w pc vec : Nat) : Keeps base (State.enterFast s n w pc vec) := by
  unfold State.enterFast
  repeat' first
    | with_reducible assumption
    | with_reducible apply State.modSteward_keeps
    | with_reducible apply State.wrs_keeps
    | simp only [keeps_mk_iff]

theorem State.delivered_keeps {s : State} (h : Keeps base s) (n w : Nat) (fast : Bool) : Keeps base (State.delivered s n w fast) := by
  unfold State.delivered
  repeat' first
    | with_reducible assumption
    | ((fail_if_no_progress extract_lets +onlyGivenNames u); first | (refine cut (p := Keeps base u) ?_ (fun hu => ?_); rotate_left; clear_value u; rotate_right) | (refine cut (p := Keeps base u.1) ?_ (fun hu => ?_); rotate_left; clear_value u; rotate_right) | (refine cut (p := Keeps base u.2) ?_ (fun hu => ?_); rotate_left; clear_value u; rotate_right) | (have := u.srcs; clear this; dsimp only [u]; clear u) | (have := fun x => u x; clear this) | clear_value u)
    | with_reducible apply State.count_keeps
    | with_reducible apply State.modSrc_keeps
    | with_reducible apply ite_keeps
    | simp only [keeps_mk_iff]
    | simp only [u, keeps_mk_iff]

theorem State.stwException_keeps {s : State} (h : Keeps base s) (w pc cause tval : Nat) : Keeps base (State.stwException s w pc cause tval) := by
  unfold State.stwException
  repeat' first
    | with_reducible assumption
    | with_reducible apply State.modSteward_keeps
    | with_reducible apply State.report_keeps
    | with_reducible apply State.revalidate_keeps
    | with_reducible apply ite_keeps
    | simp only [keeps_mk_iff]

theorem State.stwCsr_keeps {s : State} (h : Keeps base s) (w : Nat) (debug : Bool) (pc a op v rd : Nat) : Keeps base (State.stwCsr s w debug pc a op v rd) := by
  unfold State.stwCsr
  repeat' first
    | with_reducible assumption
    | ((fail_if_no_progress extract_lets +onlyGivenNames u); first | (refine cut (p := Keeps base u) ?_ (fun hu => ?_); rotate_left; clear_value u; rotate_right) | (refine cut (p := Keeps base u.1) ?_ (fun hu => ?_); rotate_left; clear_value u; rotate_right) | (refine cut (p := Keeps base u.2) ?_ (fun hu => ?_); rotate_left; clear_value u; rotate_right) | (have := u.srcs; clear this; dsimp only [u]; clear u) | (have := fun x => u x; clear this) | clear_value u)
    | with_reducible apply State.drawn_keeps
    | with_reducible apply State.modSteward_keeps
    | with_reducible apply State.revalidate_keeps
    | with_reducible apply State.stwException_keeps
    | with_reducible apply ite_keeps
    | simp only [keeps_mk_iff]
    | simp only [u, keeps_mk_iff]
    | split
    | (dsimp only [u]; split)

theorem State.stwAct_keeps {s : State} (h : Keeps base s) (w : Nat) (debug : Bool) (a : StwAct) :
    Keeps base (s.stwAct w debug a) := by
  cases a with
  | setX n v => exact State.modSteward_keeps h w (·.setX n v)
  | getX n => simpa only [State.stwAct, keeps_mk_iff] using h
  | csr pc a op v rd => exact State.stwCsr_keeps h _ _ _ _ _ _ _
  | load a => exact h
  | store a b => exact h


theorem State.stwActs_keeps {s : State} (h : Keeps base s) (w : Nat) (acts : List StwAct) : Keeps base (State.stwActs s w acts) := by
  unfold State.stwActs
  repeat' first
    | with_reducible assumption
    | with_reducible apply State.stwAct_keeps
    | with_reducible apply foldl_keeps
    | intro t x ht

theorem State.acknowledge_keeps {s0 : State} (h : Keeps base s0) (w pc : Nat) (acts : Bool × List StwAct) (machine : Bool) : Keeps base (State.acknowledge s0 w pc acts machine) := by
  unfold State.acknowledge
  repeat' first
    | with_reducible assumption
    | ((fail_if_no_progress extract_lets +onlyGivenNames u); first | (refine cut (p := Keeps base u) ?_ (fun hu => ?_); rotate_left; clear_value u; rotate_right) | (refine cut (p := Keeps base u.1) ?_ (fun hu => ?_); rotate_left; clear_value u; rotate_right) | (refine cut (p := Keeps base u.2) ?_ (fun hu => ?_); rotate_left; clear_value u; rotate_right) | (have := u.srcs; clear this; dsimp only [u]; clear u) | (have := fun x => u x; clear this) | clear_value u)
    | with_reducible apply State.delivered_keeps
    | with_reducible apply State.enterFast_keeps
    | with_reducible apply State.enterNormal_keeps
    | with_reducible apply State.modSteward_keeps
    | with_reducible apply State.revalidate_keeps
    | with_reducible apply State.stwActs_keeps
    | with_reducible apply ite_keeps
    | simp only [keeps_mk_iff]
    | simp only [u, keeps_mk_iff]
    | split
    | (dsimp only [u]; split)

theorem State.mret_keeps {s : State} (h : Keeps base s) (w pc : Nat) : Keeps base (State.mret s w pc) := by
  unfold State.mret
  repeat' first
    | with_reducible assumption
    | ((fail_if_no_progress extract_lets +onlyGivenNames u); first | (refine cut (p := Keeps base u) ?_ (fun hu => ?_); rotate_left; clear_value u; rotate_right) | (refine cut (p := Keeps base u.1) ?_ (fun hu => ?_); rotate_left; clear_value u; rotate_right) | (refine cut (p := Keeps base u.2) ?_ (fun hu => ?_); rotate_left; clear_value u; rotate_right) | (have := u.srcs; clear this; dsimp only [u]; clear u) | (have := fun x => u x; clear this) | clear_value u)
    | with_reducible apply State.modSteward_keeps
    | with_reducible apply State.stwException_keeps
    | with_reducible apply State.wr_keeps
    | with_reducible apply ite_keeps
    | simp only [keeps_mk_iff]
    | simp only [u, keeps_mk_iff]

theorem State.strayEoi_keeps {s : State} (h : Keeps base s) (n w : Nat) : Keeps base (State.strayEoi s n w) := by
  unfold State.strayEoi
  repeat' first
    | with_reducible assumption
    | with_reducible apply State.count_keeps
    | with_reducible apply State.wrs_keeps

theorem State.complete_keeps {s : State} (h : Keeps base s) (n w : Nat) : Keeps base (State.complete s n w) := by
  unfold State.complete
  repeat' first
    | with_reducible assumption
    | ((fail_if_no_progress extract_lets +onlyGivenNames u); first | (refine cut (p := Keeps base u) ?_ (fun hu => ?_); rotate_left; clear_value u; rotate_right) | (refine cut (p := Keeps base u.1) ?_ (fun hu => ?_); rotate_left; clear_value u; rotate_right) | (refine cut (p := Keeps base u.2) ?_ (fun hu => ?_); rotate_left; clear_value u; rotate_right) | (have := u.srcs; clear this; dsimp only [u]; clear u) | (have := fun x => u x; clear this) | clear_value u)
    | with_reducible apply State.levelTry_keeps
    | with_reducible apply State.modSrc_keeps
    | with_reducible apply State.strayEoi_keeps
    | with_reducible apply State.wr_keeps
    | with_reducible apply ite_keeps
    | simp only [keeps_mk_iff]
    | simp only [u, keeps_mk_iff]

theorem State.hostEoi_keeps {s : State} (h : Keeps base s) (n : Nat) : Keeps base (State.hostEoi s n) := by
  unfold State.hostEoi
  repeat' first
    | with_reducible assumption
    | ((fail_if_no_progress extract_lets +onlyGivenNames u); first | (refine cut (p := Keeps base u) ?_ (fun hu => ?_); rotate_left; clear_value u; rotate_right) | (refine cut (p := Keeps base u.1) ?_ (fun hu => ?_); rotate_left; clear_value u; rotate_right) | (refine cut (p := Keeps base u.2) ?_ (fun hu => ?_); rotate_left; clear_value u; rotate_right) | (have := u.srcs; clear this; dsimp only [u]; clear u) | (have := fun x => u x; clear this) | clear_value u)
    | with_reducible apply State.hostTry_keeps
    | with_reducible apply State.modSrc_keeps
    | with_reducible apply State.strayEoi_keeps
    | with_reducible apply ite_keeps
    | simp only [keeps_mk_iff]
    | simp only [u, keeps_mk_iff]

theorem State.setPend_keeps {s : State} (h : Keeps base s) (n : Nat) : Keeps base (State.setPend s n) := by
  unfold State.setPend
  repeat' first
    | with_reducible assumption
    | ((fail_if_no_progress extract_lets +onlyGivenNames u); first | (refine cut (p := Keeps base u) ?_ (fun hu => ?_); rotate_left; clear_value u; rotate_right) | (refine cut (p := Keeps base u.1) ?_ (fun hu => ?_); rotate_left; clear_value u; rotate_right) | (refine cut (p := Keeps base u.2) ?_ (fun hu => ?_); rotate_left; clear_value u; rotate_right) | (have := u.srcs; clear this; dsimp only [u]; clear u) | (have := fun x => u x; clear this) | clear_value u)
    | with_reducible apply State.fire_keeps
    | with_reducible apply State.levelTry_keeps
    | with_reducible apply State.modSrc_keeps
    | with_reducible apply State.wr_keeps
    | with_reducible apply ite_keeps
    | simp only [keeps_mk_iff]
    | simp only [u, keeps_mk_iff]

theorem State.clrPend_keeps {s : State} (h : Keeps base s) (n : Nat) : Keeps base (State.clrPend s n) := by
  unfold State.clrPend
  repeat' first
    | with_reducible assumption
    | with_reducible apply State.levelTry_keeps
    | with_reducible apply State.modSrc_keeps
    | with_reducible apply State.recall_keeps
    | simp only [keeps_mk_iff]

theorem State.writeSrcCfg_keeps {s : State} (h : Keeps base s) (n mask v : Nat) : Keeps base (State.writeSrcCfg s n mask v) := by
  unfold State.writeSrcCfg
  repeat' first
    | with_reducible assumption
    | ((fail_if_no_progress extract_lets +onlyGivenNames u); first | (refine cut (p := Keeps base u) ?_ (fun hu => ?_); rotate_left; clear_value u; rotate_right) | (refine cut (p := Keeps base u.1) ?_ (fun hu => ?_); rotate_left; clear_value u; rotate_right) | (refine cut (p := Keeps base u.2) ?_ (fun hu => ?_); rotate_left; clear_value u; rotate_right) | (have := u.srcs; clear this; dsimp only [u]; clear u) | (have := fun x => u x; clear this) | clear_value u)
    | with_reducible apply State.levelTry_keeps
    | with_reducible apply State.modSrc_keeps
    | with_reducible apply State.revalidate_keeps
    | with_reducible apply State.wr_keeps
    | with_reducible apply State.wrs_keeps
    | with_reducible apply ite_keeps
    | simp only [keeps_mk_iff]
    | simp only [u, keeps_mk_iff]

theorem execSourceInput_runs (n : Nat) (merge : Bool) (s : State) : Runs s (execSourceInput n merge s) := by
  unfold execSourceInput
  repeat' first
    | with_reducible exact Keeps.refl _
    | ((fail_if_no_progress extract_lets +onlyGivenNames u); first | (refine cut (p := Keeps s u) ?_ (fun hu => ?_); rotate_left; clear_value u; rotate_right) | (refine cut (p := Keeps s u.1) ?_ (fun hu => ?_); rotate_left; clear_value u; rotate_right) | (refine cut (p := Keeps s u.2) ?_ (fun hu => ?_); rotate_left; clear_value u; rotate_right) | (have := u.srcs; clear this; dsimp only [u]; clear u) | (have := fun x => u x; clear this) | clear_value u)
    | with_reducible assumption
    | with_reducible apply ite_runs
    | with_reducible apply Runs.next
    | with_reducible apply State.revalidate_keeps
    | with_reducible apply State.setInput_keeps
    | with_reducible apply ite_keeps
    | simp only [keeps_mk_iff]
    | simp only [u, keeps_mk_iff]

theorem execSetPend_runs (n : Nat) (s : State) : Runs s (execSetPend n s) := by
  unfold execSetPend
  repeat' first
    | with_reducible exact Keeps.refl _
    | with_reducible assumption
    | with_reducible apply Runs.next
    | with_reducible apply State.atReg_keeps
    | with_reducible apply State.setPend_keeps
    | intro t x ht
    | intro t ht
    | dsimp only

theorem execClrPend_runs (n : Nat) (s : State) : Runs s (execClrPend n s) := by
  unfold execClrPend
  repeat' first
    | with_reducible exact Keeps.refl _
    | with_reducible assumption
    | with_reducible apply Runs.next
    | with_reducible apply State.atReg_keeps
    | with_reducible apply State.clrPend_keeps
    | intro t x ht
    | intro t ht
    | dsimp only

theorem State.ringDoorbells_keeps {s : State} (h : Keeps base s) (v : Nat) : Keeps base (State.ringDoorbells s v) := by
  unfold State.ringDoorbells
  repeat' first
    | with_reducible assumption
    | with_reducible apply State.pulse_keeps
    | with_reducible apply foldl_keeps
    | intro t x ht

theorem execDoorbell_runs (v : Nat) (s : State) : Runs s (execDoorbell v s) := by
  unfold execDoorbell
  repeat' first
    | with_reducible exact Keeps.refl _
    | with_reducible assumption
    | with_reducible apply Runs.next
    | with_reducible apply State.atReg_keeps
    | with_reducible apply State.ringDoorbells_keeps
    | intro t x ht
    | intro t ht
    | dsimp only

theorem State.writeSrc_keeps {s : State} (h : Keeps base s) (n : Nat) (vec : Bool) (mask v : Nat) : Keeps base (State.writeSrc s n vec mask v) := by
  unfold State.writeSrc
  repeat' first
    | with_reducible assumption
    | with_reducible apply State.wr_keeps
    | with_reducible apply State.writeSrcCfg_keeps
    | with_reducible apply ite_keeps

theorem execSrcConfigWrite_runs (n : Nat) (vec : Bool) (mask v : Nat) (s : State) : Runs s (execSrcConfigWrite n vec mask v s) := by
  unfold execSrcConfigWrite
  repeat' first
    | with_reducible exact Keeps.refl _
    | with_reducible assumption
    | with_reducible apply ite_runs
    | with_reducible apply Runs.next
    | with_reducible apply State.atReg_keeps
    | with_reducible apply State.writeSrc_keeps
    | with_reducible apply ite_keeps
    | intro t x ht
    | intro t ht
    | dsimp only

theorem State.arbitrate_keeps {s0 : State} (h : Keeps base s0) (mie : Nat) : Keeps base (State.arbitrate s0 mie) := by
  unfold State.arbitrate
  repeat' first
    | with_reducible assumption
    | ((fail_if_no_progress extract_lets +onlyGivenNames u); first | (refine cut (p := Keeps base u) ?_ (fun hu => ?_); rotate_left; clear_value u; rotate_right) | (refine cut (p := Keeps base u.1) ?_ (fun hu => ?_); rotate_left; clear_value u; rotate_right) | (refine cut (p := Keeps base u.2) ?_ (fun hu => ?_); rotate_left; clear_value u; rotate_right) | (have := u.srcs; clear this; dsimp only [u]; clear u) | (have := fun x => u x; clear this) | clear_value u)
    | with_reducible apply State.revalidate_keeps
    | with_reducible apply State.takeMie_keeps
    | with_reducible apply State.wakeDeep_keeps
    | with_reducible apply foldl_keeps
    | intro t x ht
    | simp only [keeps_mk_iff]
    | simp only [u, keeps_mk_iff]
    | split
    | (dsimp only [u]; split)

theorem execDelivery_runs (mie : Nat) (s : State) : Runs s (execDelivery mie s) := by
  unfold execDelivery
  repeat' first
    | with_reducible exact Keeps.refl _
    | with_reducible assumption
    | with_reducible apply ite_runs
    | with_reducible apply Runs.next
    | with_reducible apply State.arbitrate_keeps
    | with_reducible apply State.endIdle_keeps
    | with_reducible apply ite_keeps

theorem execAcknowledge_runs (w pc : Nat) (acts : Bool × List StwAct) (machine : Bool) (s : State) : Runs s (execAcknowledge w pc acts machine s) := by
  unfold execAcknowledge
  repeat' first
    | with_reducible exact Keeps.refl _
    | with_reducible assumption
    | with_reducible apply Runs.next
    | with_reducible apply State.acknowledge_keeps

theorem execRecall_runs (w : Nat) (s : State) : Runs s (execRecall w s) := by
  unfold execRecall
  repeat' first
    | with_reducible exact Keeps.refl _
    | with_reducible assumption
    | with_reducible apply Runs.next
    | with_reducible apply State.recall_keeps

theorem State.holdoffEnd_keeps {s : State} (h : Keeps base s) (n : Nat) (host : Bool) : Keeps base (State.holdoffEnd s n host) := by
  unfold State.holdoffEnd
  repeat' first
    | with_reducible assumption
    | ((fail_if_no_progress extract_lets +onlyGivenNames u); first | (refine cut (p := Keeps base u) ?_ (fun hu => ?_); rotate_left; clear_value u; rotate_right) | (refine cut (p := Keeps base u.1) ?_ (fun hu => ?_); rotate_left; clear_value u; rotate_right) | (refine cut (p := Keeps base u.2) ?_ (fun hu => ?_); rotate_left; clear_value u; rotate_right) | (have := u.srcs; clear this; dsimp only [u]; clear u) | (have := fun x => u x; clear this) | clear_value u)
    | with_reducible apply State.hostTry_keeps
    | with_reducible apply State.modSrc_keeps
    | with_reducible apply ite_keeps
    | simp only [keeps_mk_iff]
    | simp only [u, keeps_mk_iff]

theorem execHoldoffExpiry_runs (n : Nat) (host : Bool) (s : State) : Runs s (execHoldoffExpiry n host s) := by
  unfold execHoldoffExpiry
  repeat' first
    | with_reducible exact Keeps.refl _
    | with_reducible assumption
    | with_reducible apply ite_runs
    | with_reducible apply Runs.next
    | with_reducible apply State.holdoffEnd_keeps
    | with_reducible apply ite_keeps

theorem State.writeEoi_keeps {s : State} (h : Keeps base s) (m w n : Nat) : Keeps base (State.writeEoi s m w n) := by
  unfold State.writeEoi
  repeat' first
    | with_reducible assumption
    | with_reducible apply State.complete_keeps
    | with_reducible apply State.wr_keeps
    | with_reducible apply ite_keeps

theorem execEoi_runs (m w n : Nat) (s : State) : Runs s (execEoi m w n s) := by
  unfold execEoi
  repeat' first
    | with_reducible exact Keeps.refl _
    | with_reducible assumption
    | with_reducible apply Runs.next
    | with_reducible apply State.atReg_keeps
    | with_reducible apply State.writeEoi_keeps
    | intro t x ht
    | intro t ht
    | dsimp only

theorem execHostEoi_runs (n : Nat) (s : State) : Runs s (execHostEoi n s) := by
  unfold execHostEoi
  repeat' first
    | with_reducible exact Keeps.refl _
    | with_reducible assumption
    | with_reducible apply Runs.next
    | with_reducible apply State.atReg_keeps
    | with_reducible apply State.hostEoi_keeps
    | intro t x ht
    | intro t ht
    | dsimp only

theorem execMret_runs (w pc : Nat) (s : State) : Runs s (execMret w pc s) := by
  unfold execMret
  repeat' first
    | with_reducible exact Keeps.refl _
    | with_reducible assumption
    | with_reducible apply ite_runs
    | with_reducible apply Runs.next
    | with_reducible apply State.mret_keeps
    | with_reducible apply ite_keeps

theorem execWfi_runs (w pc : Nat) (acts : Bool × List StwAct) (s : State) : Runs s (execWfi w pc acts s) := by
  unfold execWfi
  repeat' first
    | with_reducible exact Keeps.refl _
    | with_reducible assumption
    | with_reducible apply ite_runs
    | with_reducible apply Runs.next
    | with_reducible apply State.modSteward_keeps
    | with_reducible apply State.revalidate_keeps
    | with_reducible apply State.stwActs_keeps
    | with_reducible apply ite_keeps
    | simp only [keeps_mk_iff]

theorem execStewardException_runs (w pc cause tval : Nat) (acts : List StwAct) (s : State) : Runs s (execStewardException w pc cause tval acts s) := by
  unfold execStewardException
  repeat' first
    | with_reducible exact Keeps.refl _
    | with_reducible assumption
    | with_reducible apply ite_runs
    | with_reducible apply Runs.next
    | with_reducible apply State.stwActs_keeps
    | with_reducible apply State.stwException_keeps
    | with_reducible apply ite_keeps

end Sys2Proof.Machine
end

