-- ==== Sys2Proof/Laws/Keeps/LcDebug.lean ====
section
/-! SUPPORT. `Keeps` through the operations of Machine/LcDebug.lean. -/

namespace Sys2Proof.Machine

variable {base : State}

theorem State.decodeLc_keeps {s : State} (h : Keeps base s)  : Keeps base (State.decodeLc s) := by
  unfold State.decodeLc
  repeat' first
    | with_reducible assumption
    | ((fail_if_no_progress extract_lets +onlyGivenNames u); first | (refine cut (p := Keeps base u) ?_ (fun hu => ?_); rotate_left; clear_value u; rotate_right) | (refine cut (p := Keeps base u.1) ?_ (fun hu => ?_); rotate_left; clear_value u; rotate_right) | (refine cut (p := Keeps base u.2) ?_ (fun hu => ?_); rotate_left; clear_value u; rotate_right) | (have := u.srcs; clear this; dsimp only [u]; clear u) | (have := fun x => u x; clear this) | clear_value u)
    | with_reducible apply State.wrs_keeps
    | with_reducible apply ite_keeps

theorem State.wipeItem_keeps {s : State} (h : Keeps base s) (i : Nat) : Keeps base (State.wipeItem s i) := by
  unfold State.wipeItem
  repeat' first
    | with_reducible assumption
    | ((fail_if_no_progress extract_lets +onlyGivenNames u); first | (refine cut (p := Keeps base u) ?_ (fun hu => ?_); rotate_left; clear_value u; rotate_right) | (refine cut (p := Keeps base u.1) ?_ (fun hu => ?_); rotate_left; clear_value u; rotate_right) | (refine cut (p := Keeps base u.2) ?_ (fun hu => ?_); rotate_left; clear_value u; rotate_right) | (have := u.srcs; clear this; dsimp only [u]; clear u) | (have := fun x => u x; clear this) | clear_value u)
    | with_reducible apply State.clearMem_keeps
    | with_reducible apply State.closeBonds_keeps
    | with_reducible apply State.eraseNow_keeps
    | with_reducible apply State.logTurn_keeps
    | with_reducible apply State.modBlock_keeps
    | with_reducible apply State.resetRegs_keeps
    | with_reducible apply State.wr_keeps
    | with_reducible apply State.wrs_keeps
    | with_reducible apply ite_keeps
    | with_reducible apply foldl_keeps
    | intro t x ht
    | simp only [keeps_mk_iff]
    | simp only [u, keeps_mk_iff]
    | split
    | (dsimp only [u]; split)

theorem State.wipeFails_keeps {s : State} (h : Keeps base s) (i : Nat) : Keeps base (State.wipeFails s i) := by
  unfold State.wipeFails
  repeat' first
    | with_reducible assumption
    | with_reducible apply State.eraseFails_keeps
    | with_reducible apply State.wipeItem_keeps
    | simp only [keeps_mk_iff]
    | split

theorem State.wipeItems_keeps {s : State} (h : Keeps base s) (i n : Nat) : Keeps base (State.wipeItems s i n) := by
  unfold State.wipeItems
  repeat' first
    | with_reducible assumption
    | with_reducible apply State.wipeItem_keeps
    | with_reducible apply foldl_keeps
    | intro t x ht

theorem State.wipe_keeps {s : State} (h : Keeps base s) (bad : Option Nat) (third : Bool) : Keeps base (s.wipe bad third).2 := by
  have ht := fun i => State.wipeFails_keeps (State.wipeItems_keeps h 1 (i - 1)) i
  unfold State.wipe
  dsimp only
  repeat' split
  · exact State.wr_keeps (State.wipeItems_keeps h _ _) _ _
  · exact State.wr_keeps (State.wipeFails_keeps (State.wipeFails_keeps (ht _) _) _) _ _
  · exact State.wr_keeps (State.wipeItems_keeps (ht _) _ _) _ _


theorem State.stopAll_keeps {s : State} (h : Keeps base s)  : Keeps base (State.stopAll s) := by
  unfold State.stopAll
  repeat' first
    | with_reducible assumption
    | ((fail_if_no_progress extract_lets +onlyGivenNames u); first | (refine cut (p := Keeps base u) ?_ (fun hu => ?_); rotate_left; clear_value u; rotate_right) | (refine cut (p := Keeps base u.1) ?_ (fun hu => ?_); rotate_left; clear_value u; rotate_right) | (refine cut (p := Keeps base u.2) ?_ (fun hu => ?_); rotate_left; clear_value u; rotate_right) | (have := u.srcs; clear this; dsimp only [u]; clear u) | (have := fun x => u x; clear this) | clear_value u)
    | with_reducible apply State.abortRun_keeps
    | with_reducible apply State.drawn_keeps
    | with_reducible apply State.modSteward_keeps
    | with_reducible apply State.pwEnd_keeps
    | with_reducible apply State.safeCells_keeps
    | with_reducible apply ite_keeps
    | with_reducible apply foldl_keeps
    | intro t x ht
    | simp only [keeps_mk_iff]
    | simp only [u, keeps_mk_iff]

theorem State.lcProgram_keeps {s : State} (h : Keeps base s) (fails : Bool) (k : Nat) (spoil : Bool) (l : List (Nat × List Nat)) :
    Keeps base (s.lcProgram fails k spoil l).2 := by
  induction l generalizing s k with
  | nil => exact h
  | cons w l ih =>
    unfold State.lcProgram
    repeat' split
    · exact h
    · exact State.programBad_keeps h _ _ _
    · exact ih (State.programNow_keeps h _ _) _


theorem State.lcClose_keeps {s : State} (h : Keeps base s) (bad spoil : Bool) : Keeps base (s.lcClose bad spoil).2 := by
  unfold State.lcClose
  repeat' split
  · exact State.journalBad_keeps h _ _
  · exact State.rollNow_keeps (foldl_keeps (fun _ _ ht => State.journal_keeps ht _) h)


theorem State.runLc_keeps {s0 : State} (h : Keeps base s0) (target uid seq fail k : Nat) (spoil : Bool) (ids : List Nat) :
    Keeps base (s0.runLc target uid seq fail k spoil ids).s := by
  have out : ∀ {b : Bool} {t : State} {p : Bool × State}, Keeps base p.2 → p = (b, t) → Keeps base t :=
    fun hp e => by subst e; exact hp
  have h1 := State.wrs_keeps h [(LC.PROGRESS_PHASE, 1), (LC.PROGRESS_TARGET, target), (LC.PROGRESS_SEQ, seq)]
  unfold State.runLc
  dsimp only
  generalize s0.wrs _ = u at h1
  have h2 : Keeps base (if target = 3 then (u.stopAll.wr LC.PROGRESS_PHASE 2).wipe (if fail = 2 then some (k % 7 + 1) else none) spoil
      else (true, u)).2 := by
    split
    · exact State.wipe_keeps (State.wr_keeps (State.stopAll_keeps h1) _ _) _ _
    · exact h1
  split
  · next e => exact out h2 e
  next e =>
  have h3 := out h2 e
  split
  · next e => exact out (State.lcProgram_keeps h3 _ _ _ _) e
  next e =>
  have h4 := State.wr_keeps (out (State.lcProgram_keeps h3 _ _ _ _) e) LC.PROGRESS_PHASE 4
  split
  · next e => exact out (State.lcProgram_keeps h4 _ _ _ _) e
  next e =>
  have h5 := State.wr_keeps (out (State.lcProgram_keeps h4 _ _ _ _) e) LC.PROGRESS_PHASE 5
  split
  · next e => exact out (State.lcClose_keeps h5 _ _) e
  next e =>
  simpa only [keeps_mk_iff] using out (State.lcClose_keeps h5 _ _) e


theorem lcRequest_keeps {s : State} (h : Keeps base s) (fail k : Nat) (spoil : Bool) (m : Nat) : Keeps base (lcRequest fail k spoil s m).s := by
  unfold lcRequest
  repeat' first
    | with_reducible assumption
    | ((fail_if_no_progress extract_lets +onlyGivenNames u); first | (refine cut (p := Keeps base u) ?_ (fun hu => ?_); rotate_left; clear_value u; rotate_right) | (refine cut (p := Keeps base u.1) ?_ (fun hu => ?_); rotate_left; clear_value u; rotate_right) | (refine cut (p := Keeps base u.2) ?_ (fun hu => ?_); rotate_left; clear_value u; rotate_right) | (have := u.srcs; clear this; dsimp only [u]; clear u) | (have := fun x => u x; clear this) | clear_value u)
    | with_reducible apply State.journal_keeps
    | with_reducible apply State.journalBad_keeps
    | with_reducible apply State.rollNow_keeps
    | with_reducible apply State.runLc_keeps
    | with_reducible apply State.setNonce_keeps
    | with_reducible apply State.withBytes_keeps
    | with_reducible apply State.withStore_keeps
    | with_reducible apply State.wrs_keeps
    | with_reducible apply ite_keeps
    | with_reducible apply ite_mb_keeps
    | split
    | dsimp only
    | intro t x ht
    | intro t ht
    | dsimp only

theorem lcRoll_keeps {s : State} (h : Keeps base s) (fail k : Nat) (spoil : Bool) (_m : Nat) : Keeps base (lcRoll fail k spoil s _m).s := by
  unfold lcRoll
  repeat' first
    | with_reducible assumption
    | ((fail_if_no_progress extract_lets +onlyGivenNames u); first | (refine cut (p := Keeps base u) ?_ (fun hu => ?_); rotate_left; clear_value u; rotate_right) | (refine cut (p := Keeps base u.1) ?_ (fun hu => ?_); rotate_left; clear_value u; rotate_right) | (refine cut (p := Keeps base u.2) ?_ (fun hu => ?_); rotate_left; clear_value u; rotate_right) | (have := u.srcs; clear this; dsimp only [u]; clear u) | (have := fun x => u x; clear this) | clear_value u)
    | with_reducible apply State.drawn_keeps
    | with_reducible apply State.runLc_keeps
    | with_reducible apply State.withStore_keeps
    | with_reducible apply ite_keeps
    | simp only [keeps_mk_iff]
    | simp only [u, keeps_mk_iff]
    | split
    | (dsimp only [u]; split)
    | with_reducible apply ite_mb_keeps
    | split
    | dsimp only
    | intro t x ht
    | intro t ht
    | dsimp only

theorem lcNonce_keeps {s : State} (h : Keeps base s) (m : Nat) : Keeps base (lcNonce s m).s := by
  unfold lcNonce
  repeat' first
    | with_reducible assumption
    | with_reducible apply State.giveNonce_keeps
    | with_reducible apply ite_mb_keeps
    | split
    | dsimp only

theorem execLcRequest_runs (m fail k : Nat) (spoil : Bool) (s : State) : Runs s (execLcRequest m fail k spoil s) := by
  unfold execLcRequest
  repeat' first
    | with_reducible exact Keeps.refl _
    | with_reducible assumption
    | with_reducible apply Runs.next
    | with_reducible apply State.mbRow_keeps
    | with_reducible apply lcRequest_keeps
    | intro t x ht
    | intro t ht
    | dsimp only

theorem execRollForward_runs (m fail k : Nat) (spoil : Bool) (s : State) : Runs s (execRollForward m fail k spoil s) := by
  unfold execRollForward
  repeat' first
    | with_reducible exact Keeps.refl _
    | with_reducible assumption
    | with_reducible apply Runs.next
    | with_reducible apply State.mbRow_keeps
    | with_reducible apply lcRoll_keeps
    | intro t x ht
    | intro t ht
    | dsimp only

theorem execNonce_runs (m : Nat) (s : State) : Runs s (execNonce m s) := by
  unfold execNonce
  repeat' first
    | with_reducible exact Keeps.refl _
    | with_reducible assumption
    | with_reducible apply Runs.next
    | with_reducible apply State.mbRow_keeps
    | with_reducible apply lcNonce_keeps
    | intro t x ht
    | intro t ht
    | dsimp only

theorem debugAuth_keeps {s : State} (h : Keeps base s) (m : Nat) : Keeps base (debugAuth s m).s := by
  unfold debugAuth
  repeat' first
    | with_reducible assumption
    | ((fail_if_no_progress extract_lets +onlyGivenNames u); first | (refine cut (p := Keeps base u) ?_ (fun hu => ?_); rotate_left; clear_value u; rotate_right) | (refine cut (p := Keeps base u.1) ?_ (fun hu => ?_); rotate_left; clear_value u; rotate_right) | (refine cut (p := Keeps base u.2) ?_ (fun hu => ?_); rotate_left; clear_value u; rotate_right) | (have := u.srcs; clear this; dsimp only [u]; clear u) | (have := fun x => u x; clear this) | clear_value u)
    | with_reducible apply State.approvedNow_keeps
    | with_reducible apply State.count_keeps
    | with_reducible apply State.setNonce_keeps
    | with_reducible apply State.withBytes_keeps
    | with_reducible apply State.wr_keeps
    | with_reducible apply ite_keeps
    | simp only [keeps_mk_iff]
    | simp only [u, keeps_mk_iff]
    | with_reducible apply ite_mb_keeps
    | split
    | dsimp only
    | intro t x ht
    | intro t ht
    | dsimp only

theorem execDebugAuth_runs (m : Nat) (s : State) : Runs s (execDebugAuth m s) := by
  unfold execDebugAuth
  repeat' first
    | with_reducible exact Keeps.refl _
    | with_reducible assumption
    | with_reducible apply Runs.next
    | with_reducible apply State.mbRow_keeps
    | with_reducible apply debugAuth_keeps
    | intro t x ht
    | intro t ht
    | dsimp only

theorem State.mbCommand_keeps {s : State} (h : Keeps base s) (m op : Nat) (bad : Bool) : Keeps base (State.mbCommand s m op bad) := by
  unfold State.mbCommand
  repeat' first
    | with_reducible assumption
    | ((fail_if_no_progress extract_lets +onlyGivenNames u); first | (refine cut (p := Keeps base u) ?_ (fun hu => ?_); rotate_left; clear_value u; rotate_right) | (refine cut (p := Keeps base u.1) ?_ (fun hu => ?_); rotate_left; clear_value u; rotate_right) | (refine cut (p := Keeps base u.2) ?_ (fun hu => ?_); rotate_left; clear_value u; rotate_right) | (have := u.srcs; clear this; dsimp only [u]; clear u) | (have := fun x => u x; clear this) | clear_value u)
    | with_reducible apply State.drawn_keeps
    | with_reducible apply State.mailbox_keeps
    | with_reducible apply closeBonded_keeps
    | with_reducible apply debugAuth_keeps
    | with_reducible apply generate_keeps
    | with_reducible apply identityRead_keeps
    | with_reducible apply installManifest_keeps
    | with_reducible apply issueSeal_keeps
    | with_reducible apply katRerun_keeps
    | with_reducible apply katStatus_keeps
    | with_reducible apply lcNonce_keeps
    | with_reducible apply lcRequest_keeps
    | with_reducible apply lcRoll_keeps
    | with_reducible apply openBonded_keeps
    | with_reducible apply registerOwner_keeps
    | with_reducible apply setCert_keeps
    | with_reducible apply zeroise_keeps
    | with_reducible apply ite_keeps
    | simp only [keeps_mk_iff]
    | simp only [u, keeps_mk_iff]
    | split
    | (dsimp only [u]; split)
    | intro t x ht
    | intro t ht
    | dsimp only

theorem State.runQueued_keeps {s : State} (h : Keeps base s) (bads : List Bool) (n : Nat) :
    Keeps base (s.runQueued bads n) := by
  induction n generalizing s bads with
  | zero => exact h
  | succ n ih =>
    unfold State.runQueued
    split
    · exact h
    · split
      · exact h
      · have ht := State.mbCommand_keeps h
        dsimp only
        split
        · exact ht _ _ _
        · exact ih (ht _ _ _) _


theorem execInstallManifest_runs (m : Nat) (s : State) : Runs s (execInstallManifest m s) := by
  unfold execInstallManifest
  repeat' first
    | with_reducible exact Keeps.refl _
    | with_reducible assumption
    | with_reducible apply Runs.next
    | with_reducible apply State.mbRow_keeps
    | with_reducible apply installManifest_keeps
    | intro t x ht
    | intro t ht
    | dsimp only

theorem execInstallDone_runs (bad : Nat) (bads : List Bool) (s : State) : Runs s (execInstallDone bad bads s) := by
  unfold execInstallDone
  repeat' first
    | with_reducible exact Keeps.refl _
    | with_reducible assumption
    | with_reducible apply ite_runs
    | with_reducible apply Runs.next
    | with_reducible apply State.installEnd_keeps
    | with_reducible apply State.runQueued_keeps
    | with_reducible apply ite_keeps
    | simp only [keeps_mk_iff]
    | split

theorem execIssueSeal_runs (m : Nat) (s : State) : Runs s (execIssueSeal m s) := by
  unfold execIssueSeal
  repeat' first
    | with_reducible exact Keeps.refl _
    | with_reducible assumption
    | with_reducible apply Runs.next
    | with_reducible apply State.mbRow_keeps
    | with_reducible apply issueSeal_keeps
    | intro t x ht
    | intro t ht
    | dsimp only

theorem execSealWrite_runs (bad : Bool) (bads : List Bool) (s : State) : Runs s (execSealWrite bad bads s) := by
  unfold execSealWrite
  repeat' first
    | with_reducible exact Keeps.refl _
    | ((fail_if_no_progress extract_lets +onlyGivenNames u); first | (refine cut (p := Keeps s u) ?_ (fun hu => ?_); rotate_left; clear_value u; rotate_right) | (refine cut (p := Keeps s u.1) ?_ (fun hu => ?_); rotate_left; clear_value u; rotate_right) | (refine cut (p := Keeps s u.2) ?_ (fun hu => ?_); rotate_left; clear_value u; rotate_right) | (have := u.srcs; clear this; dsimp only [u]; clear u) | (have := fun x => u x; clear this) | clear_value u)
    | with_reducible assumption
    | with_reducible apply ite_runs
    | with_reducible apply Runs.next
    | with_reducible apply State.runQueued_keeps
    | with_reducible apply State.sealEnd_keeps
    | with_reducible apply State.startDigest_keeps
    | with_reducible apply ite_keeps
    | simp only [keeps_mk_iff]
    | simp only [u, keeps_mk_iff]
    | split
    | (dsimp only [u]; split)

theorem execSelfTestComplete_runs (pass : Nat) (bad : Bool × Bool) (s : State) : Runs s (execSelfTestComplete pass bad s) := by
  unfold execSelfTestComplete
  repeat' first
    | with_reducible exact Keeps.refl _
    | ((fail_if_no_progress extract_lets +onlyGivenNames u); first | (refine cut (p := Keeps s u) ?_ (fun hu => ?_); rotate_left; clear_value u; rotate_right) | (refine cut (p := Keeps s u.1) ?_ (fun hu => ?_); rotate_left; clear_value u; rotate_right) | (refine cut (p := Keeps s u.2) ?_ (fun hu => ?_); rotate_left; clear_value u; rotate_right) | (have := u.srcs; clear this; dsimp only [u]; clear u) | (have := fun x => u x; clear this) | clear_value u)
    | with_reducible assumption
    | with_reducible apply ite_runs
    | with_reducible apply Runs.next
    | with_reducible apply State.approvedNow_keeps
    | with_reducible apply State.katResult_keeps
    | with_reducible apply State.objorError_keeps
    | with_reducible apply State.wrs_keeps
    | with_reducible apply State.zeroiseSlot_keeps
    | with_reducible apply ite_keeps
    | with_reducible apply foldl_keeps
    | intro t x ht

theorem execFreezePin_runs  (s : State) : Runs s (execFreezePin s) := by
  unfold execFreezePin
  repeat' first
    | with_reducible exact Keeps.refl _
    | with_reducible assumption
    | with_reducible apply ite_runs
    | with_reducible apply Runs.next
    | with_reducible apply State.triggerFreeze_keeps
    | with_reducible apply ite_keeps

theorem execFreezeRegister_runs  (s : State) : Runs s (execFreezeRegister s) := by
  unfold execFreezeRegister
  repeat' first
    | with_reducible exact Keeps.refl _
    | with_reducible assumption
    | with_reducible apply Runs.next
    | with_reducible apply State.atReg_keeps
    | with_reducible apply State.triggerFreeze_keeps
    | intro t x ht
    | intro t ht
    | dsimp only

theorem State.clockRanOn_keeps {s : State} (h : Keeps base s) (l : Nat) : Keeps base (State.clockRanOn s l) := by
  unfold State.clockRanOn
  repeat' first
    | with_reducible assumption
    | with_reducible apply State.modRun_keeps
    | simp only [keeps_mk_iff]

theorem State.freezeEntered_keeps {s : State} (h : Keeps base s) (fio : Nat) : Keeps base (State.freezeEntered s fio) := by
  unfold State.freezeEntered
  repeat' first
    | with_reducible assumption
    | ((fail_if_no_progress extract_lets +onlyGivenNames u); first | (refine cut (p := Keeps base u) ?_ (fun hu => ?_); rotate_left; clear_value u; rotate_right) | (refine cut (p := Keeps base u.1) ?_ (fun hu => ?_); rotate_left; clear_value u; rotate_right) | (refine cut (p := Keeps base u.2) ?_ (fun hu => ?_); rotate_left; clear_value u; rotate_right) | (have := u.srcs; clear this; dsimp only [u]; clear u) | (have := fun x => u x; clear this) | clear_value u)
    | with_reducible apply State.clockRanOn_keeps
    | with_reducible apply State.count_keeps
    | with_reducible apply State.drawn_keeps
    | with_reducible apply State.flushEdges_keeps
    | with_reducible apply State.pulse_keeps
    | with_reducible apply State.setDdr_keeps
    | with_reducible apply State.wrs_keeps
    | with_reducible apply ite_keeps
    | with_reducible apply foldl_keeps
    | intro t x ht
    | simp only [keeps_mk_iff]
    | simp only [u, keeps_mk_iff]

theorem execFreezeEntered_runs (fio : Nat) (s : State) : Runs s (execFreezeEntered fio s) := by
  unfold execFreezeEntered
  repeat' first
    | with_reducible exact Keeps.refl _
    | with_reducible assumption
    | with_reducible apply Runs.next
    | with_reducible apply State.freezeEntered_keeps

theorem State.thaw_keeps {s : State} (h : Keeps base s)  : Keeps base (State.thaw s) := by
  unfold State.thaw
  repeat' first
    | with_reducible assumption
    | ((fail_if_no_progress extract_lets +onlyGivenNames u); first | (refine cut (p := Keeps base u) ?_ (fun hu => ?_); rotate_left; clear_value u; rotate_right) | (refine cut (p := Keeps base u.1) ?_ (fun hu => ?_); rotate_left; clear_value u; rotate_right) | (refine cut (p := Keeps base u.2) ?_ (fun hu => ?_); rotate_left; clear_value u; rotate_right) | (have := u.srcs; clear this; dsimp only [u]; clear u) | (have := fun x => u x; clear this) | clear_value u)
    | with_reducible apply State.clockStarted_keeps
    | with_reducible apply State.setDdr_keeps
    | with_reducible apply State.showUi_keeps
    | with_reducible apply State.wr_keeps
    | with_reducible apply State.wrs_keeps
    | with_reducible apply ite_keeps
    | with_reducible apply foldl_keeps
    | intro t x ht
    | simp only [keeps_mk_iff]
    | simp only [u, keeps_mk_iff]

theorem execThaw_runs  (s : State) : Runs s (execThaw s) := by
  unfold execThaw
  repeat' first
    | with_reducible exact Keeps.refl _
    | with_reducible assumption
    | with_reducible apply Runs.next
    | with_reducible apply State.atReg_keeps
    | with_reducible apply State.thaw_keeps
    | intro t x ht
    | intro t ht
    | dsimp only

end Sys2Proof.Machine
end

