-- ==== Sys2Proof/Laws/Keeps/Pads.lean ====
section
/-! SUPPORT. `Keeps` through the operations of Machine/Pads.lean. -/

namespace Sys2Proof.Machine

variable {base : State}

theorem State.auxPulse_keeps {s : State} (h : Keeps base s) (start : Bool) : Keeps base (State.auxPulse s start) := by
  unfold State.auxPulse
  repeat' first
    | with_reducible assumption
    | ((fail_if_no_progress extract_lets +onlyGivenNames u); first | (refine cut (p := Keeps base u) ?_ (fun hu => ?_); rotate_left; clear_value u; rotate_right) | (refine cut (p := Keeps base u.1) ?_ (fun hu => ?_); rotate_left; clear_value u; rotate_right) | (refine cut (p := Keeps base u.2) ?_ (fun hu => ?_); rotate_left; clear_value u; rotate_right) | (have := u.srcs; clear this; dsimp only [u]; clear u) | (have := fun x => u x; clear this) | clear_value u)
    | with_reducible apply ite_keeps
    | simp only [keeps_mk_iff]
    | simp only [u, keeps_mk_iff]

end Sys2Proof.Machine
end

