-- ==== Sys2Proof/Laws/Keeps/Power.lean ====
section
/-! SUPPORT. `Keeps` through the operations of Machine/Power.lean. -/

namespace Sys2Proof.Machine

variable {base : State}

theorem State.pwrDone_keeps {s : State} (h : Keeps base s) (op st : Nat) (aborted : Bool) : Keeps base (State.pwrDone s op st aborted) := by
  unfold State.pwrDone
  repeat' first
    | with_reducible assumption
    | with_reducible apply State.wrs_keeps
    | with_reducible apply ite_keeps

theorem State.pwrReject_keeps {s : State} (h : Keeps base s) (op st : Nat) : Keeps base (State.pwrReject s op st) := by
  unfold State.pwrReject
  repeat' first
    | with_reducible assumption
    | ((fail_if_no_progress extract_lets +onlyGivenNames u); first | (refine cut (p := Keeps base u) ?_ (fun hu => ?_); rotate_left; clear_value u; rotate_right) | (refine cut (p := Keeps base u.1) ?_ (fun hu => ?_); rotate_left; clear_value u; rotate_right) | (refine cut (p := Keeps base u.2) ?_ (fun hu => ?_); rotate_left; clear_value u; rotate_right) | (have := u.srcs; clear this; dsimp only [u]; clear u) | (have := fun x => u x; clear this) | clear_value u)
    | with_reducible apply State.reject_keeps
    | with_reducible apply State.wrs_keeps
    | with_reducible apply ite_keeps

theorem State.pwrStart_keeps {s : State} (h : Keeps base s) (op : Nat) : Keeps base (State.pwrStart s op) := by
  unfold State.pwrStart
  repeat' first
    | with_reducible assumption
    | with_reducible apply State.wrs_keeps

theorem State.levelToPll_keeps {s : State} (h : Keeps base s) (r : LevelRun) : Keeps base (State.levelToPll s r) := by
  unfold State.levelToPll
  repeat' first
    | with_reducible assumption
    | ((fail_if_no_progress extract_lets +onlyGivenNames u); first | (refine cut (p := Keeps base u) ?_ (fun hu => ?_); rotate_left; clear_value u; rotate_right) | (refine cut (p := Keeps base u.1) ?_ (fun hu => ?_); rotate_left; clear_value u; rotate_right) | (refine cut (p := Keeps base u.2) ?_ (fun hu => ?_); rotate_left; clear_value u; rotate_right) | (have := u.srcs; clear this; dsimp only [u]; clear u) | (have := fun x => u x; clear this) | clear_value u)
    | with_reducible apply State.reclamp_keeps
    | with_reducible apply State.wrs_keeps
    | with_reducible apply ite_keeps
    | with_reducible apply foldl_keeps
    | intro t x ht
    | simp only [keeps_mk_iff]
    | simp only [u, keeps_mk_iff]

theorem State.levelEnd_keeps {s : State} (h : Keeps base s) (level st lag : Nat) : Keeps base (State.levelEnd s level st lag) := by
  unfold State.levelEnd
  repeat' first
    | with_reducible assumption
    | with_reducible apply State.pwrDone_keeps
    | with_reducible apply State.wrs_keeps
    | simp only [keeps_mk_iff]

theorem State.changeLevel_keeps {s : State} (h : Keeps base s) (level : Nat) : Keeps base (State.changeLevel s level) := by
  unfold State.changeLevel
  repeat' first
    | with_reducible assumption
    | ((fail_if_no_progress extract_lets +onlyGivenNames u); first | (refine cut (p := Keeps base u) ?_ (fun hu => ?_); rotate_left; clear_value u; rotate_right) | (refine cut (p := Keeps base u.1) ?_ (fun hu => ?_); rotate_left; clear_value u; rotate_right) | (refine cut (p := Keeps base u.2) ?_ (fun hu => ?_); rotate_left; clear_value u; rotate_right) | (have := u.srcs; clear this; dsimp only [u]; clear u) | (have := fun x => u x; clear this) | clear_value u)
    | with_reducible apply State.levelToPll_keeps
    | with_reducible apply State.pwrDone_keeps
    | with_reducible apply State.pwrReject_keeps
    | with_reducible apply State.pwrStart_keeps
    | with_reducible apply ite_keeps
    | simp only [keeps_mk_iff]
    | simp only [u, keeps_mk_iff]

theorem State.noteRefuse_keeps {s : State} (h : Keeps base s) (ks : List Nat) (state point : Nat) : Keeps base (State.noteRefuse s ks state point) := by
  unfold State.noteRefuse
  repeat' first
    | with_reducible assumption
    | with_reducible apply State.count_keeps
    | with_reducible apply State.wrs_keeps
    | with_reducible apply foldl_keeps
    | intro t x ht

theorem State.consumeWakes_keeps {s : State} (h : Keeps base s)  : Keeps base (State.consumeWakes s) := by
  unfold State.consumeWakes
  repeat' first
    | with_reducible assumption
    | simp only [keeps_mk_iff]

theorem State.noteBlock_keeps {s : State} (h : Keeps base s) (d : Nat) : Keeps base (State.noteBlock s d) := by
  unfold State.noteBlock
  repeat' first
    | with_reducible assumption
    | with_reducible apply State.noteRefuse_keeps
    | with_reducible apply ite_keeps

theorem State.revoke_keeps {s : State} (h : Keeps base s) (e : Entry) : Keeps base (State.revoke s e) := by
  unfold State.revoke
  repeat' first
    | with_reducible assumption
    | with_reducible apply State.wrs_keeps
    | simp only [keeps_mk_iff]

theorem State.powerOff_keeps {s : State} (h : Keeps base s) (d : Nat) : Keeps base (State.powerOff s d) := by
  unfold State.powerOff
  repeat' first
    | with_reducible assumption
    | with_reducible apply State.abortSlice_keeps
    | with_reducible apply State.noteBlock_keeps
    | with_reducible apply State.pwrDone_keeps
    | with_reducible apply State.pwrReject_keeps
    | with_reducible apply State.pwrStart_keeps
    | with_reducible apply State.revoke_keeps
    | with_reducible apply ite_keeps

theorem State.powerOn_keeps {s : State} (h : Keeps base s) (d : Nat) : Keeps base (State.powerOn s d) := by
  unfold State.powerOn
  repeat' first
    | with_reducible assumption
    | with_reducible apply State.pwrDone_keeps
    | with_reducible apply State.pwrReject_keeps
    | with_reducible apply State.pwrStart_keeps
    | with_reducible apply ite_keeps
    | simp only [keeps_mk_iff]

theorem State.pwrRun_keeps {s : State} (h : Keeps base s) (op arg : Nat) : Keeps base (State.pwrRun s op arg) := by
  unfold State.pwrRun
  repeat' first
    | with_reducible assumption
    | with_reducible apply State.changeLevel_keeps
    | with_reducible apply State.powerOff_keeps
    | with_reducible apply State.powerOn_keeps
    | simp only [keeps_mk_iff]
    | split

theorem State.pwrCommand_keeps {s : State} (h : Keeps base s) (op arg : Nat) : Keeps base (State.pwrCommand s op arg) := by
  unfold State.pwrCommand
  repeat' first
    | with_reducible assumption
    | with_reducible apply State.pwrReject_keeps
    | with_reducible apply State.pwrRun_keeps
    | with_reducible apply State.pwrStart_keeps
    | with_reducible apply ite_keeps
    | simp only [keeps_mk_iff]

theorem State.takeCommand_keeps {s : State} (h : Keeps base s)  : Keeps base (State.takeCommand s) := by
  unfold State.takeCommand
  repeat' first
    | with_reducible assumption
    | with_reducible apply State.pwrRun_keeps
    | with_reducible apply State.wr_keeps
    | with_reducible apply ite_keeps
    | simp only [keeps_mk_iff]
    | split

theorem execSetLevel_runs (level : Nat) (s : State) : Runs s (execSetLevel level s) := by
  unfold execSetLevel
  repeat' first
    | with_reducible exact Keeps.refl _
    | with_reducible assumption
    | with_reducible apply Runs.next
    | with_reducible apply State.atReg_keeps
    | with_reducible apply State.pwrCommand_keeps
    | intro t x ht
    | intro t ht
    | dsimp only

theorem execPowerOff_runs (d : Nat) (s : State) : Runs s (execPowerOff d s) := by
  unfold execPowerOff
  repeat' first
    | with_reducible exact Keeps.refl _
    | with_reducible assumption
    | with_reducible apply Runs.next
    | with_reducible apply State.atReg_keeps
    | with_reducible apply State.pwrCommand_keeps
    | intro t x ht
    | intro t ht
    | dsimp only

theorem execPowerOn_runs (d : Nat) (s : State) : Runs s (execPowerOn d s) := by
  unfold execPowerOn
  repeat' first
    | with_reducible exact Keeps.refl _
    | with_reducible assumption
    | with_reducible apply Runs.next
    | with_reducible apply State.atReg_keeps
    | with_reducible apply State.pwrCommand_keeps
    | intro t x ht
    | intro t ht
    | dsimp only

theorem State.latchSleep_keeps {s0 : State} (h : Keeps base s0) (n : Nat) : Keeps base (State.latchSleep s0 n) := by
  unfold State.latchSleep
  repeat' first
    | with_reducible assumption
    | ((fail_if_no_progress extract_lets +onlyGivenNames u); first | (refine cut (p := Keeps base u) ?_ (fun hu => ?_); rotate_left; clear_value u; rotate_right) | (refine cut (p := Keeps base u.1) ?_ (fun hu => ?_); rotate_left; clear_value u; rotate_right) | (refine cut (p := Keeps base u.2) ?_ (fun hu => ?_); rotate_left; clear_value u; rotate_right) | (have := u.srcs; clear this; dsimp only [u]; clear u) | (have := fun x => u x; clear this) | clear_value u)
    | with_reducible apply State.abortSlice_keeps
    | with_reducible apply State.consumeWakes_keeps
    | with_reducible apply State.noteRefuse_keeps
    | with_reducible apply State.reject_keeps
    | with_reducible apply State.revalidate_keeps
    | with_reducible apply State.revoke_keeps
    | with_reducible apply State.wrs_keeps
    | with_reducible apply ite_keeps
    | simp only [keeps_mk_iff]
    | simp only [u, keeps_mk_iff]

theorem State.requestSleep_keeps {s : State} (h : Keeps base s) (n : Nat) : Keeps base (State.requestSleep s n) := by
  unfold State.requestSleep
  repeat' first
    | with_reducible assumption
    | with_reducible apply State.latchSleep_keeps
    | with_reducible apply State.wrs_keeps
    | with_reducible apply ite_keeps
    | simp only [keeps_mk_iff]

theorem State.judgeSleep_keeps {s : State} (h : Keeps base s)  : Keeps base (State.judgeSleep s) := by
  unfold State.judgeSleep
  repeat' first
    | with_reducible assumption
    | with_reducible apply State.latchSleep_keeps
    | with_reducible apply ite_keeps
    | simp only [keeps_mk_iff]
    | split

theorem State.pwrSettle_keeps {s : State} (h : Keeps base s)  : Keeps base (State.pwrSettle s) := by
  unfold State.pwrSettle
  repeat' first
    | with_reducible assumption
    | with_reducible apply State.judgeSleep_keeps
    | with_reducible apply State.takeCommand_keeps

theorem State.levelFinish_keeps {s : State} (h : Keeps base s) (level st lag : Nat) : Keeps base (State.levelFinish s level st lag) := by
  unfold State.levelFinish
  repeat' first
    | with_reducible assumption
    | with_reducible apply State.levelEnd_keeps
    | with_reducible apply State.pwrSettle_keeps

theorem execLevelPllLock_runs  (s : State) : Runs s (execLevelPllLock s) := by
  unfold execLevelPllLock
  repeat' first
    | with_reducible exact Keeps.refl _
    | ((fail_if_no_progress extract_lets +onlyGivenNames u); first | (refine cut (p := Keeps s u) ?_ (fun hu => ?_); rotate_left; clear_value u; rotate_right) | (refine cut (p := Keeps s u.1) ?_ (fun hu => ?_); rotate_left; clear_value u; rotate_right) | (refine cut (p := Keeps s u.2) ?_ (fun hu => ?_); rotate_left; clear_value u; rotate_right) | (have := u.srcs; clear this; dsimp only [u]; clear u) | (have := fun x => u x; clear this) | clear_value u)
    | with_reducible assumption
    | with_reducible apply ite_runs
    | with_reducible apply Runs.next
    | with_reducible apply State.levelFinish_keeps
    | with_reducible apply State.wrs_keeps
    | with_reducible apply ite_keeps
    | simp only [keeps_mk_iff]
    | simp only [u, keeps_mk_iff]
    | split
    | (dsimp only [u]; split)

theorem execLevelTimeout_runs  (s : State) : Runs s (execLevelTimeout s) := by
  unfold execLevelTimeout
  repeat' first
    | with_reducible exact Keeps.refl _
    | with_reducible assumption
    | with_reducible apply ite_runs
    | with_reducible apply Runs.next
    | with_reducible apply State.levelFinish_keeps
    | with_reducible apply State.wr_keeps
    | with_reducible apply ite_keeps
    | simp only [keeps_mk_iff]
    | split

theorem State.voltSet_keeps {s : State} (h : Keeps base s) (l : Nat) : Keeps base (State.voltSet s l) := by
  unfold State.voltSet
  repeat' first
    | with_reducible assumption
    | simp only [keeps_mk_iff]

theorem execPmbusDone_runs (ok : Bool) (s : State) : Runs s (execPmbusDone ok s) := by
  unfold execPmbusDone
  repeat' first
    | with_reducible exact Keeps.refl _
    | ((fail_if_no_progress extract_lets +onlyGivenNames u); first | (refine cut (p := Keeps s u) ?_ (fun hu => ?_); rotate_left; clear_value u; rotate_right) | (refine cut (p := Keeps s u.1) ?_ (fun hu => ?_); rotate_left; clear_value u; rotate_right) | (refine cut (p := Keeps s u.2) ?_ (fun hu => ?_); rotate_left; clear_value u; rotate_right) | (have := u.srcs; clear this; dsimp only [u]; clear u) | (have := fun x => u x; clear this) | clear_value u)
    | with_reducible assumption
    | with_reducible apply ite_runs
    | with_reducible apply Runs.next
    | with_reducible apply State.levelFinish_keeps
    | with_reducible apply State.levelToPll_keeps
    | with_reducible apply State.voltSet_keeps
    | with_reducible apply ite_keeps
    | simp only [keeps_mk_iff]
    | simp only [u, keeps_mk_iff]
    | split
    | (dsimp only [u]; split)

theorem execSleepCancel_runs  (s : State) : Runs s (execSleepCancel s) := by
  unfold execSleepCancel
  repeat' first
    | with_reducible exact Keeps.refl _
    | with_reducible assumption
    | with_reducible apply Runs.next
    | with_reducible apply State.atReg_keeps
    | with_reducible apply State.cancelSleep_keeps
    | intro t x ht
    | intro t ht
    | dsimp only

theorem execSleepIdle_runs  (s : State) : Runs s (execSleepIdle s) := by
  unfold execSleepIdle
  repeat' first
    | with_reducible exact Keeps.refl _
    | with_reducible assumption
    | with_reducible apply Runs.next
    | with_reducible apply State.atReg_keeps
    | with_reducible apply State.requestSleep_keeps
    | intro t x ht
    | intro t ht
    | dsimp only

theorem execSleepDoze_runs  (s : State) : Runs s (execSleepDoze s) := by
  unfold execSleepDoze
  repeat' first
    | with_reducible exact Keeps.refl _
    | with_reducible assumption
    | with_reducible apply Runs.next
    | with_reducible apply State.atReg_keeps
    | with_reducible apply State.requestSleep_keeps
    | intro t x ht
    | intro t ht
    | dsimp only

theorem execSleepDormant_runs  (s : State) : Runs s (execSleepDormant s) := by
  unfold execSleepDormant
  repeat' first
    | with_reducible exact Keeps.refl _
    | with_reducible assumption
    | with_reducible apply Runs.next
    | with_reducible apply State.atReg_keeps
    | with_reducible apply State.requestSleep_keeps
    | intro t x ht
    | intro t ht
    | dsimp only

theorem execAutoSleep_runs  (s : State) : Runs s (execAutoSleep s) := by
  unfold execAutoSleep
  repeat' first
    | with_reducible exact Keeps.refl _
    | with_reducible assumption
    | with_reducible apply ite_runs
    | with_reducible apply Runs.next
    | with_reducible apply State.requestSleep_keeps
    | with_reducible apply ite_keeps

theorem State.sourceGone_keeps {s : State} (h : Keeps base s) (b : Nat) : Keeps base (State.sourceGone s b) := by
  unfold State.sourceGone
  repeat' first
    | with_reducible assumption
    | with_reducible apply State.gateBlock_keeps
    | with_reducible apply State.judgePending_keeps
    | with_reducible apply foldl_keeps
    | intro t x ht

theorem State.clearBlock_keeps {s : State} (h : Keeps base s) (b : Nat) : Keeps base (State.clearBlock s b) := by
  unfold State.clearBlock
  repeat' first
    | with_reducible assumption
    | ((fail_if_no_progress extract_lets +onlyGivenNames u); first | (refine cut (p := Keeps base u) ?_ (fun hu => ?_); rotate_left; clear_value u; rotate_right) | (refine cut (p := Keeps base u.1) ?_ (fun hu => ?_); rotate_left; clear_value u; rotate_right) | (refine cut (p := Keeps base u.2) ?_ (fun hu => ?_); rotate_left; clear_value u; rotate_right) | (have := u.srcs; clear this; dsimp only [u]; clear u) | (have := fun x => u x; clear this) | clear_value u)
    | with_reducible apply State.clearMem_keeps
    | with_reducible apply State.resetRegs_keeps
    | with_reducible apply State.setBlock_keeps
    | with_reducible apply units_drop_keeps
    | simp only [keeps_mk_iff]
    | simp only [u, keeps_mk_iff]

theorem State.dropBlock_keeps {s : State} (h : Keeps base s) (b : Nat) : Keeps base (State.dropBlock s b) := by
  unfold State.dropBlock
  repeat' first
    | with_reducible assumption
    | ((fail_if_no_progress extract_lets +onlyGivenNames u); first | (refine cut (p := Keeps base u) ?_ (fun hu => ?_); rotate_left; clear_value u; rotate_right) | (refine cut (p := Keeps base u.1) ?_ (fun hu => ?_); rotate_left; clear_value u; rotate_right) | (refine cut (p := Keeps base u.2) ?_ (fun hu => ?_); rotate_left; clear_value u; rotate_right) | (have := u.srcs; clear this; dsimp only [u]; clear u) | (have := fun x => u x; clear this) | clear_value u)
    | with_reducible apply State.clearBlock_keeps
    | with_reducible apply State.endMembership_keeps
    | with_reducible apply State.reform_keeps
    | with_reducible apply State.sourceGone_keeps
    | with_reducible apply State.wr_keeps
    | with_reducible apply foldl_keeps
    | intro t x ht
    | simp only [keeps_mk_iff]
    | simp only [u, keeps_mk_iff]

theorem State.dropRegion_keeps {s : State} (h : Keeps base s) (r : Nat) : Keeps base (State.dropRegion s r) := by
  unfold State.dropRegion
  repeat' first
    | with_reducible assumption
    | ((fail_if_no_progress extract_lets +onlyGivenNames u); first | (refine cut (p := Keeps base u) ?_ (fun hu => ?_); rotate_left; clear_value u; rotate_right) | (refine cut (p := Keeps base u.1) ?_ (fun hu => ?_); rotate_left; clear_value u; rotate_right) | (refine cut (p := Keeps base u.2) ?_ (fun hu => ?_); rotate_left; clear_value u; rotate_right) | (have := u.srcs; clear this; dsimp only [u]; clear u) | (have := fun x => u x; clear this) | clear_value u)
    | with_reducible apply State.clearMem_keeps
    | with_reducible apply State.resetRegs_keeps
    | with_reducible apply region_drop_keeps
    | simp only [keeps_mk_iff]
    | simp only [u, keeps_mk_iff]

theorem State.dropChipRegs_keeps {s : State} (h : Keeps base s) (pcie : Bool) : Keeps base (State.dropChipRegs s pcie) := by
  unfold State.dropChipRegs
  repeat' first
    | with_reducible assumption
    | ((fail_if_no_progress extract_lets +onlyGivenNames u); first | (refine cut (p := Keeps base u) ?_ (fun hu => ?_); rotate_left; clear_value u; rotate_right) | (refine cut (p := Keeps base u.1) ?_ (fun hu => ?_); rotate_left; clear_value u; rotate_right) | (refine cut (p := Keeps base u.2) ?_ (fun hu => ?_); rotate_left; clear_value u; rotate_right) | (have := u.srcs; clear this; dsimp only [u]; clear u) | (have := fun x => u x; clear this) | clear_value u)
    | with_reducible apply State.resetRegs_keeps
    | with_reducible apply ite_keeps
    | with_reducible apply foldl_keeps
    | intro t x ht

theorem State.dropChip_keeps {s : State} (h : Keeps base s) (pcie : Bool) : Keeps base (s.dropChip pcie) := by
  unfold State.dropChip
  exact keeps_tabs (State.dropChipRegs_keeps h pcie) id id id id id id id id id (fun _ => rfl) id rfl


theorem State.unpack_keeps {s : State} (h : Keeps base s) (l : List Fld) (v : Nat) : Keeps base (s.unpack l v) := by
  induction l generalizing s v with
  | nil => exact h
  | cons e l ih => exact ih (State.wr_keeps h _ _) _


theorem State.writeArea_keeps {s : State} (h : Keeps base s) (a n v : Nat) : Keeps base (State.writeArea s a n v) := by
  unfold State.writeArea
  repeat' first
    | with_reducible assumption
    | ((fail_if_no_progress extract_lets +onlyGivenNames u); first | (refine cut (p := Keeps base u) ?_ (fun hu => ?_); rotate_left; clear_value u; rotate_right) | (refine cut (p := Keeps base u.1) ?_ (fun hu => ?_); rotate_left; clear_value u; rotate_right) | (refine cut (p := Keeps base u.2) ?_ (fun hu => ?_); rotate_left; clear_value u; rotate_right) | (have := u.srcs; clear this; dsimp only [u]; clear u) | (have := fun x => u x; clear this) | clear_value u)
    | with_reducible apply State.writeBytes_keeps
    | with_reducible apply ecc_drop_keeps
    | simp only [keeps_mk_iff]
    | simp only [u, keeps_mk_iff]

theorem State.areaErrors_keeps {s : State} (h : Keeps base s) (a n : Nat) : Keeps base (State.areaErrors s a n) := by
  unfold State.areaErrors
  repeat' first
    | with_reducible assumption
    | with_reducible apply State.smErrors_keeps
    | with_reducible apply foldl_keeps
    | intro t x ht

theorem State.setSaveFlags_keeps {s : State} (h : Keeps base s) (v : Nat) : Keeps base (State.setSaveFlags s v) := by
  unfold State.setSaveFlags
  repeat' first
    | with_reducible assumption
    | ((fail_if_no_progress extract_lets +onlyGivenNames u); first | (refine cut (p := Keeps base u) ?_ (fun hu => ?_); rotate_left; clear_value u; rotate_right) | (refine cut (p := Keeps base u.1) ?_ (fun hu => ?_); rotate_left; clear_value u; rotate_right) | (refine cut (p := Keeps base u.2) ?_ (fun hu => ?_); rotate_left; clear_value u; rotate_right) | (have := u.srcs; clear this; dsimp only [u]; clear u) | (have := fun x => u x; clear this) | clear_value u)
    | with_reducible apply State.write64_keeps
    | with_reducible apply ecc_drop_keeps
    | simp only [keeps_mk_iff]
    | simp only [u, keeps_mk_iff]

theorem State.takeArea_keeps {s : State} (h : Keeps base s) (k a n : Nat) : Keeps base (s.takeArea k a n).2 := by
  unfold State.takeArea
  dsimp only
  split
  · exact State.areaErrors_keeps (State.areaErrors_keeps h _ _) _ _
  · exact State.areaErrors_keeps h _ _


theorem State.saveDomains_keeps {s : State} (h : Keeps base s) (e : Entry) : Keeps base (State.saveDomains s e) := by
  unfold State.saveDomains
  repeat' first
    | with_reducible assumption
    | ((fail_if_no_progress extract_lets +onlyGivenNames u); first | (refine cut (p := Keeps base u) ?_ (fun hu => ?_); rotate_left; clear_value u; rotate_right) | (refine cut (p := Keeps base u.1) ?_ (fun hu => ?_); rotate_left; clear_value u; rotate_right) | (refine cut (p := Keeps base u.2) ?_ (fun hu => ?_); rotate_left; clear_value u; rotate_right) | (have := u.srcs; clear this; dsimp only [u]; clear u) | (have := fun x => u x; clear this) | clear_value u)
    | with_reducible apply State.setSaveFlags_keeps
    | with_reducible apply State.writeArea_keeps
    | with_reducible apply ite_keeps
    | with_reducible apply foldl_keeps
    | intro t x ht

theorem State.abortEntry_keeps {s : State} (h : Keeps base s) (e : Entry) (p : Nat) : Keeps base (State.abortEntry s e p) := by
  unfold State.abortEntry
  repeat' first
    | with_reducible assumption
    | ((fail_if_no_progress extract_lets +onlyGivenNames u); first | (refine cut (p := Keeps base u) ?_ (fun hu => ?_); rotate_left; clear_value u; rotate_right) | (refine cut (p := Keeps base u.1) ?_ (fun hu => ?_); rotate_left; clear_value u; rotate_right) | (refine cut (p := Keeps base u.2) ?_ (fun hu => ?_); rotate_left; clear_value u; rotate_right) | (have := u.srcs; clear this; dsimp only [u]; clear u) | (have := fun x => u x; clear this) | clear_value u)
    | with_reducible apply State.consumeWakes_keeps
    | with_reducible apply State.noteRefuse_keeps
    | with_reducible apply State.pwrDone_keeps
    | with_reducible apply State.pwrSettle_keeps
    | with_reducible apply State.setDdr_keeps
    | with_reducible apply State.showUi_keeps
    | with_reducible apply State.wrs_keeps
    | with_reducible apply ite_keeps
    | with_reducible apply foldl_keeps
    | intro t x ht
    | simp only [keeps_mk_iff]
    | simp only [u, keeps_mk_iff]

theorem State.abortPoint_keeps {s : State} (h : Keeps base s) (e : Entry) (p : Nat) {go : State}
    (hg : Keeps base go) : Keeps base (s.abortPoint e p go) :=
  ite_keeps hg (State.abortEntry_keeps h _ _)


theorem State.quiesceRegion_keeps {s : State} (h : Keeps base s) (r : Nat) : Keeps base (State.quiesceRegion s r) := by
  unfold State.quiesceRegion
  repeat' first
    | with_reducible assumption
    | ((fail_if_no_progress extract_lets +onlyGivenNames u); first | (refine cut (p := Keeps base u) ?_ (fun hu => ?_); rotate_left; clear_value u; rotate_right) | (refine cut (p := Keeps base u.1) ?_ (fun hu => ?_); rotate_left; clear_value u; rotate_right) | (refine cut (p := Keeps base u.2) ?_ (fun hu => ?_); rotate_left; clear_value u; rotate_right) | (have := u.srcs; clear this; dsimp only [u]; clear u) | (have := fun x => u x; clear this) | clear_value u)
    | with_reducible apply State.drawn_keeps
    | with_reducible apply State.setDdr_keeps
    | with_reducible apply State.writeBack_keeps
    | with_reducible apply ite_keeps
    | with_reducible apply foldl_keeps
    | intro t x ht

theorem execQuiesceDone_runs  (s : State) : Runs s (execQuiesceDone s) := by
  unfold execQuiesceDone
  repeat' first
    | with_reducible exact Keeps.refl _
    | ((fail_if_no_progress extract_lets +onlyGivenNames u); first | (refine cut (p := Keeps s u) ?_ (fun hu => ?_); rotate_left; clear_value u; rotate_right) | (refine cut (p := Keeps s u.1) ?_ (fun hu => ?_); rotate_left; clear_value u; rotate_right) | (refine cut (p := Keeps s u.2) ?_ (fun hu => ?_); rotate_left; clear_value u; rotate_right) | (have := u.srcs; clear this; dsimp only [u]; clear u) | (have := fun x => u x; clear this) | clear_value u)
    | with_reducible assumption
    | with_reducible apply ite_runs
    | with_reducible apply Runs.next
    | with_reducible apply State.abortEntry_keeps
    | with_reducible apply State.abortPoint_keeps
    | with_reducible apply State.quiesceRegion_keeps
    | with_reducible apply ite_keeps
    | with_reducible apply foldl_keeps
    | intro t x ht
    | simp only [keeps_mk_iff]
    | simp only [u, keeps_mk_iff]
    | split
    | (dsimp only [u]; split)

theorem execClocksStopped_runs  (s : State) : Runs s (execClocksStopped s) := by
  unfold execClocksStopped
  repeat' first
    | with_reducible exact Keeps.refl _
    | with_reducible assumption
    | with_reducible apply ite_runs
    | with_reducible apply Runs.next
    | with_reducible apply State.abortPoint_keeps
    | with_reducible apply ite_keeps
    | simp only [keeps_mk_iff]
    | split

theorem execSaveDone_runs  (s : State) : Runs s (execSaveDone s) := by
  unfold execSaveDone
  repeat' first
    | with_reducible exact Keeps.refl _
    | ((fail_if_no_progress extract_lets +onlyGivenNames u); first | (refine cut (p := Keeps s u) ?_ (fun hu => ?_); rotate_left; clear_value u; rotate_right) | (refine cut (p := Keeps s u.1) ?_ (fun hu => ?_); rotate_left; clear_value u; rotate_right) | (refine cut (p := Keeps s u.2) ?_ (fun hu => ?_); rotate_left; clear_value u; rotate_right) | (have := u.srcs; clear this; dsimp only [u]; clear u) | (have := fun x => u x; clear this) | clear_value u)
    | with_reducible assumption
    | with_reducible apply ite_runs
    | with_reducible apply Runs.next
    | with_reducible apply State.abortPoint_keeps
    | with_reducible apply State.saveDomains_keeps
    | with_reducible apply ite_keeps
    | simp only [keeps_mk_iff]
    | simp only [u, keeps_mk_iff]
    | split
    | (dsimp only [u]; split)

theorem State.oasisPins_keeps {t : State} (h : Keeps base t) (s : State) : Keeps base (t.oasisPins s) := by
  unfold State.oasisPins
  repeat' first
    | with_reducible assumption
    | with_reducible apply State.wr_keeps
    | with_reducible apply State.wrs_keeps
    | with_reducible apply foldl_keeps
    | intro t x ht


theorem latched_keeps (t : Tab SrcX) : Tab.wf SrcX.reset (latched t) = true :=
  Tab.wf_foldl _ (fun _ _ z => Tab.wf_set _ _ z) _ rfl


theorem State.sleepDown_keeps {s : State} (h : Keeps base s) (kind : Nat) : Keeps base (s.sleepDown kind) := by
  unfold State.sleepDown
  extract_lets s1 s2 s3 kats s4
  have h1 : Keeps base s1 := foldl_keeps (fun _ _ ht => State.wr_keeps (State.modSteward_keeps ht _ _) _ _) h
  have h2 : Keeps base s2 := State.wrs_keeps h1 _
  have h3 : Keeps base s3 := ite_keeps (State.clearMem_keeps (State.dropChip_keeps h2 _) _ _) h2
  have hs : s4.evc.srcs = (s4.wrs kats).evc.srcs := rfl
  have h4 : Keeps base (s4.wrs kats) := State.wrs_keeps (ite_keeps (State.oasisPins_keeps h3 _) h3) _
  clear_value s4
  refine State.revalidate_keeps ?_
  by_cases e : kind = 3
  · exact keeps_tabs h4 id id id id id id id id id (fun _ => by simpa only [if_pos e] using latched_keeps _) id rfl
  · exact keeps_tabs h4 id id id id id id id id id (fun w => by simpa only [if_neg e, hs] using w) id rfl


theorem State.isolate_keeps {s : State} (h : Keeps base s) (e : Entry) : Keeps base (State.isolate s e) := by
  unfold State.isolate
  repeat' first
    | with_reducible assumption
    | ((fail_if_no_progress extract_lets +onlyGivenNames u); first | (refine cut (p := Keeps base u) ?_ (fun hu => ?_); rotate_left; clear_value u; rotate_right) | (refine cut (p := Keeps base u.1) ?_ (fun hu => ?_); rotate_left; clear_value u; rotate_right) | (refine cut (p := Keeps base u.2) ?_ (fun hu => ?_); rotate_left; clear_value u; rotate_right) | (have := u.srcs; clear this; dsimp only [u]; clear u) | (have := fun x => u x; clear this) | clear_value u)
    | with_reducible apply State.closeBonds_keeps
    | with_reducible apply State.dropBlock_keeps
    | with_reducible apply State.dropRegion_keeps
    | with_reducible apply State.pwrDone_keeps
    | with_reducible apply State.pwrSettle_keeps
    | with_reducible apply State.safeCells_keeps
    | with_reducible apply State.sleepDown_keeps
    | with_reducible apply State.wrs_keeps
    | with_reducible apply ite_keeps
    | with_reducible apply foldl_keeps
    | intro t x ht
    | simp only [keeps_mk_iff]
    | simp only [u, keeps_mk_iff]

theorem execIsolate_runs  (s : State) : Runs s (execIsolate s) := by
  unfold execIsolate
  repeat' first
    | with_reducible exact Keeps.refl _
    | with_reducible assumption
    | with_reducible apply ite_runs
    | with_reducible apply Runs.next
    | with_reducible apply State.isolate_keeps
    | with_reducible apply ite_keeps
    | simp only [keeps_mk_iff]
    | split

theorem State.restoreBlock_keeps {s0 : State} (h : Keeps base s0) (b : Nat) : Keeps base (s0.restoreBlock b) := by
  have ha := State.takeArea_keeps h b (blockArea b) 0x100
  unfold State.restoreBlock
  split
  · next e => rw [e] at ha; exact State.wr_keeps ha _ _
  · next e =>
    rw [e] at ha
    exact State.reform_keeps (State.unpack_keeps (foldl_keeps (fun _ _ ht => State.endMembership_keeps ht _) ha) _ _) _ _


theorem State.rejoinGang_keeps {s : State} (h : Keeps base s) (b : Nat) : Keeps base (State.rejoinGang s b) := by
  unfold State.rejoinGang
  repeat' first
    | with_reducible assumption
    | ((fail_if_no_progress extract_lets +onlyGivenNames u); first | (refine cut (p := Keeps base u) ?_ (fun hu => ?_); rotate_left; clear_value u; rotate_right) | (refine cut (p := Keeps base u.1) ?_ (fun hu => ?_); rotate_left; clear_value u; rotate_right) | (refine cut (p := Keeps base u.2) ?_ (fun hu => ?_); rotate_left; clear_value u; rotate_right) | (have := u.srcs; clear this; dsimp only [u]; clear u) | (have := fun x => u x; clear this) | clear_value u)
    | with_reducible apply State.modBlock_keeps
    | with_reducible apply State.wrs_keeps
    | with_reducible apply ite_keeps
    | simp only [keeps_mk_iff]
    | simp only [u, keeps_mk_iff]

theorem State.raiseBlock_keeps {s : State} (h : Keeps base s) (b : Nat) : Keeps base (State.raiseBlock s b) := by
  unfold State.raiseBlock
  repeat' first
    | with_reducible assumption
    | ((fail_if_no_progress extract_lets +onlyGivenNames u); first | (refine cut (p := Keeps base u) ?_ (fun hu => ?_); rotate_left; clear_value u; rotate_right) | (refine cut (p := Keeps base u.1) ?_ (fun hu => ?_); rotate_left; clear_value u; rotate_right) | (refine cut (p := Keeps base u.2) ?_ (fun hu => ?_); rotate_left; clear_value u; rotate_right) | (have := u.srcs; clear this; dsimp only [u]; clear u) | (have := fun x => u x; clear this) | clear_value u)
    | with_reducible apply State.rejoinGang_keeps
    | with_reducible apply State.restoreBlock_keeps
    | with_reducible apply State.senseBlock_keeps
    | with_reducible apply State.setSaveFlags_keeps
    | with_reducible apply State.wr_keeps
    | with_reducible apply State.wrs_keeps
    | with_reducible apply ite_keeps
    | simp only [keeps_mk_iff]
    | simp only [u, keeps_mk_iff]

theorem State.putSums_keeps {s : State} (h : Keeps base s) (r v : Nat) : Keeps base (s.putSums r v) :=
  esum_fold_keeps h (List.range 256) (fun k => 256 * r + k) (fun k => bits v (256 * k) 256) s.retired


theorem State.raiseRegion_keeps {s : State} (h : Keeps base s) (r : Nat) : Keeps base (s.raiseRegion r) := by
  unfold State.raiseRegion
  extract_lets s1 s2
  have h1 : Keeps base s1 := State.wr_keeps h _ _
  have h2 : Keeps base s2 := by
    have ha := State.takeArea_keeps h1 (32 + r) (regionArea r) 0x4000
    simp only [s2]
    split
    · next e => rw [e] at ha; exact State.wr_keeps ha _ _
    · next e =>
      rw [e] at ha
      exact State.setDdr_keeps (State.putSums_keeps (State.unpack_keeps ha _ _) _ _) _ _
  exact State.wr_keeps (State.setSaveFlags_keeps h2 _) _ _


theorem State.raise_keeps {s : State} (h : Keeps base s) (d : Nat) : Keeps base (State.raise s d) := by
  unfold State.raise
  repeat' first
    | with_reducible assumption
    | with_reducible apply State.raiseBlock_keeps
    | with_reducible apply State.raiseRegion_keeps
    | with_reducible apply ite_keeps

theorem execPowerOnDone_runs  (s : State) : Runs s (execPowerOnDone s) := by
  unfold execPowerOnDone
  repeat' first
    | with_reducible exact Keeps.refl _
    | ((fail_if_no_progress extract_lets +onlyGivenNames u); first | (refine cut (p := Keeps s u) ?_ (fun hu => ?_); rotate_left; clear_value u; rotate_right) | (refine cut (p := Keeps s u.1) ?_ (fun hu => ?_); rotate_left; clear_value u; rotate_right) | (refine cut (p := Keeps s u.2) ?_ (fun hu => ?_); rotate_left; clear_value u; rotate_right) | (have := u.srcs; clear this; dsimp only [u]; clear u) | (have := fun x => u x; clear this) | clear_value u)
    | with_reducible assumption
    | with_reducible apply ite_runs
    | with_reducible apply Runs.next
    | with_reducible apply State.pwrDone_keeps
    | with_reducible apply State.pwrSettle_keeps
    | with_reducible apply State.raise_keeps
    | with_reducible apply ite_keeps
    | simp only [keeps_mk_iff]
    | simp only [u, keeps_mk_iff]
    | split
    | (dsimp only [u]; split)

theorem execLegacyWakeRequest_runs (d : Nat) (s : State) : Runs s (execLegacyWakeRequest d s) := by
  unfold execLegacyWakeRequest
  repeat' first
    | with_reducible exact Keeps.refl _
    | ((fail_if_no_progress extract_lets +onlyGivenNames u); first | (refine cut (p := Keeps s u) ?_ (fun hu => ?_); rotate_left; clear_value u; rotate_right) | (refine cut (p := Keeps s u.1) ?_ (fun hu => ?_); rotate_left; clear_value u; rotate_right) | (refine cut (p := Keeps s u.2) ?_ (fun hu => ?_); rotate_left; clear_value u; rotate_right) | (have := u.srcs; clear this; dsimp only [u]; clear u) | (have := fun x => u x; clear this) | clear_value u)
    | with_reducible assumption
    | with_reducible apply ite_runs
    | with_reducible apply Runs.next
    | with_reducible apply ite_keeps
    | simp only [keeps_mk_iff]
    | simp only [u, keeps_mk_iff]

theorem State.autoOff_keeps {s : State} (h : Keeps base s) (b : Nat) : Keeps base (State.autoOff s b) := by
  unfold State.autoOff
  repeat' first
    | with_reducible assumption
    | ((fail_if_no_progress extract_lets +onlyGivenNames u); first | (refine cut (p := Keeps base u) ?_ (fun hu => ?_); rotate_left; clear_value u; rotate_right) | (refine cut (p := Keeps base u.1) ?_ (fun hu => ?_); rotate_left; clear_value u; rotate_right) | (refine cut (p := Keeps base u.2) ?_ (fun hu => ?_); rotate_left; clear_value u; rotate_right) | (have := u.srcs; clear this; dsimp only [u]; clear u) | (have := fun x => u x; clear this) | clear_value u)
    | with_reducible apply State.abortSlice_keeps
    | with_reducible apply State.noteRefuse_keeps
    | with_reducible apply State.revoke_keeps
    | with_reducible apply ite_keeps

theorem execBlockAutoOff_runs (b : Nat) (s : State) : Runs s (execBlockAutoOff b s) := by
  unfold execBlockAutoOff
  repeat' first
    | with_reducible exact Keeps.refl _
    | with_reducible assumption
    | with_reducible apply ite_runs
    | with_reducible apply Runs.next
    | with_reducible apply State.autoOff_keeps
    | with_reducible apply ite_keeps

theorem State.wake_keeps {s : State} (h : Keeps base s) (fired : List (Nat × Nat)) (t : Nat) : Keeps base (State.wake s fired t) := by
  unfold State.wake
  repeat' first
    | with_reducible assumption
    | ((fail_if_no_progress extract_lets +onlyGivenNames u); first | (refine cut (p := Keeps base u) ?_ (fun hu => ?_); rotate_left; clear_value u; rotate_right) | (refine cut (p := Keeps base u.1) ?_ (fun hu => ?_); rotate_left; clear_value u; rotate_right) | (refine cut (p := Keeps base u.2) ?_ (fun hu => ?_); rotate_left; clear_value u; rotate_right) | (have := u.srcs; clear this; dsimp only [u]; clear u) | (have := fun x => u x; clear this) | clear_value u)
    | with_reducible apply State.cancelSleep_keeps
    | with_reducible apply State.consumeWakes_keeps
    | with_reducible apply State.pwrSettle_keeps
    | with_reducible apply State.reached_keeps
    | with_reducible apply State.wr_keeps
    | with_reducible apply State.wrs_keeps
    | with_reducible apply ite_keeps
    | with_reducible apply foldl_keeps
    | intro t x ht
    | simp only [keeps_mk_iff]
    | simp only [u, keeps_mk_iff]
    | split
    | (dsimp only [u]; split)

theorem execWake_runs (fired : List (Nat × Nat)) (t : Nat) (s : State) : Runs s (execWake fired t s) := by
  unfold execWake
  repeat' first
    | with_reducible exact Keeps.refl _
    | with_reducible assumption
    | with_reducible apply Runs.next
    | with_reducible apply State.wake_keeps

theorem execOtimerExpiry_runs  (s : State) : Runs s (execOtimerExpiry s) := by
  unfold execOtimerExpiry
  repeat' first
    | with_reducible exact Keeps.refl _
    | with_reducible assumption
    | with_reducible apply ite_runs
    | with_reducible apply Runs.next
    | with_reducible apply State.reached_keeps
    | with_reducible apply State.wake_keeps
    | with_reducible apply State.wr_keeps
    | with_reducible apply ite_keeps

theorem execIdleExit_runs  (s : State) : Runs s (execIdleExit s) := by
  unfold execIdleExit
  repeat' first
    | with_reducible exact Keeps.refl _
    | with_reducible assumption
    | with_reducible apply ite_runs
    | with_reducible apply Runs.next
    | with_reducible apply State.endIdle_keeps
    | with_reducible apply State.pwrSettle_keeps
    | with_reducible apply ite_keeps

end Sys2Proof.Machine
end

