-- ==== Sys2Proof/Laws/Keeps/Host.lean ====
section
/-! SUPPORT. `Keeps` through the operations of Machine/Host.lean. -/

namespace Sys2Proof.Machine

variable {base : State}

theorem State.dmaReject_keeps {s : State} (h : Keeps base s) (k op st : Nat) : Keeps base (State.dmaReject s k op st) := by
  unfold State.dmaReject
  repeat' first
    | with_reducible assumption
    | ((fail_if_no_progress extract_lets +onlyGivenNames u); first | (refine cut (p := Keeps base u) ?_ (fun hu => ?_); rotate_left; clear_value u; rotate_right) | (refine cut (p := Keeps base u.1) ?_ (fun hu => ?_); rotate_left; clear_value u; rotate_right) | (refine cut (p := Keeps base u.2) ?_ (fun hu => ?_); rotate_left; clear_value u; rotate_right) | (have := u.srcs; clear this; dsimp only [u]; clear u) | (have := fun x => u x; clear this) | clear_value u)
    | with_reducible apply State.reject_keeps
    | with_reducible apply State.wrs_keeps
    | with_reducible apply ite_keeps

theorem State.dmaStart_keeps {s : State} (h : Keeps base s) (k : Nat) : Keeps base (State.dmaStart s k) := by
  unfold State.dmaStart
  repeat' first
    | with_reducible assumption
    | with_reducible apply State.dmaReject_keeps
    | with_reducible apply State.wrs_keeps
    | with_reducible apply ite_keeps

theorem State.dmaStop_keeps {s : State} (h : Keeps base s) (k : Nat) : Keeps base (State.dmaStop s k) := by
  unfold State.dmaStop
  repeat' first
    | with_reducible assumption
    | with_reducible apply State.dmaEnd_keeps
    | with_reducible apply State.dmaReject_keeps
    | with_reducible apply State.wr_keeps
    | with_reducible apply ite_keeps

theorem State.dmaCommand_keeps {s : State} (h : Keeps base s) (k op : Nat) : Keeps base (State.dmaCommand s k op) := by
  unfold State.dmaCommand
  repeat' first
    | with_reducible assumption
    | with_reducible apply State.dmaReject_keeps
    | with_reducible apply State.dmaStart_keeps
    | with_reducible apply State.dmaStop_keeps
    | with_reducible apply ite_keeps

theorem execDmaStart_runs (k : Nat) (s : State) : Runs s (execDmaStart k s) := by
  unfold execDmaStart
  repeat' first
    | with_reducible exact Keeps.refl _
    | with_reducible assumption
    | with_reducible apply Runs.next
    | with_reducible apply State.atReg_keeps
    | with_reducible apply State.dmaStart_keeps
    | intro t x ht
    | intro t ht
    | dsimp only

theorem State.endChannels_keeps {s : State} (h : Keeps base s) (kind : Nat) : Keeps base (State.endChannels s kind) := by
  unfold State.endChannels
  repeat' first
    | with_reducible assumption
    | with_reducible apply State.dmaEnd_keeps
    | with_reducible apply ite_keeps
    | with_reducible apply foldl_keeps
    | intro t x ht

theorem State.dropHost_keeps {s : State} (h : Keeps base s)  : Keeps base (State.dropHost s) := by
  unfold State.dropHost
  repeat' first
    | with_reducible assumption
    | simp only [keeps_mk_iff]

theorem State.perstAssert_keeps {s : State} (h : Keeps base s)  : Keeps base (State.perstAssert s) := by
  unfold State.perstAssert
  repeat' first
    | with_reducible assumption
    | with_reducible apply State.dropHost_keeps
    | with_reducible apply State.resetRegs_keeps
    | simp only [keeps_mk_iff]

theorem State.perstDeassert_keeps {s : State} (h : Keeps base s)  : Keeps base (State.perstDeassert s) := by
  unfold State.perstDeassert
  repeat' first
    | with_reducible assumption
    | simp only [keeps_mk_iff]

theorem execPerstDeassert_runs  (s : State) : Runs s (execPerstDeassert s) := by
  unfold execPerstDeassert
  repeat' first
    | with_reducible exact Keeps.refl _
    | with_reducible assumption
    | with_reducible apply Runs.next
    | with_reducible apply State.perstDeassert_keeps

theorem State.linkUp_keeps {s : State} (h : Keeps base s) (lstate speed width : Nat) : Keeps base (State.linkUp s lstate speed width) := by
  unfold State.linkUp
  repeat' first
    | with_reducible assumption
    | with_reducible apply State.abortSlice_keeps
    | with_reducible apply State.wrs_keeps
    | with_reducible apply ite_keeps

theorem execLinkUp_runs (lstate speed width : Nat) (s : State) : Runs s (execLinkUp lstate speed width s) := by
  unfold execLinkUp
  repeat' first
    | with_reducible exact Keeps.refl _
    | with_reducible assumption
    | with_reducible apply ite_runs
    | with_reducible apply Runs.next
    | with_reducible apply State.linkUp_keeps
    | with_reducible apply ite_keeps

theorem State.linkDown_keeps {s : State} (h : Keeps base s)  : Keeps base (State.linkDown s) := by
  unfold State.linkDown
  repeat' first
    | with_reducible assumption
    | with_reducible apply State.endChannels_keeps
    | with_reducible apply State.wrs_keeps

theorem State.d3hot_keeps {s : State} (h : Keeps base s)  : Keeps base (State.d3hot s) := by
  unfold State.d3hot
  repeat' first
    | with_reducible assumption
    | with_reducible apply State.endChannels_keeps
    | with_reducible apply State.wr_keeps

theorem execD3hotExit_runs  (s : State) : Runs s (execD3hotExit s) := by
  unfold execD3hotExit
  repeat' first
    | with_reducible exact Keeps.refl _
    | with_reducible assumption
    | with_reducible apply Runs.next
    | with_reducible apply State.wr_keeps

theorem State.sendVector_keeps {s : State} (h : Keeps base s) (v : Nat) : Keeps base (State.sendVector s v) := by
  unfold State.sendVector
  repeat' first
    | with_reducible assumption
    | with_reducible apply State.wr_keeps
    | with_reducible apply ite_keeps
    | simp only [keeps_mk_iff]

theorem State.msixSend_keeps {s : State} (h : Keeps base s) (n : Nat) : Keeps base (State.msixSend s n) := by
  unfold State.msixSend
  repeat' first
    | with_reducible assumption
    | with_reducible apply State.modSrc_keeps
    | with_reducible apply State.sendVector_keeps
    | with_reducible apply ite_keeps
    | simp only [keeps_mk_iff]

theorem execMsixSend_runs (n : Nat) (s : State) : Runs s (execMsixSend n s) := by
  unfold execMsixSend
  repeat' first
    | with_reducible exact Keeps.refl _
    | with_reducible assumption
    | with_reducible apply ite_runs
    | with_reducible apply Runs.next
    | with_reducible apply State.msixSend_keeps
    | with_reducible apply ite_keeps

theorem State.flushVectors_keeps {s : State} (h : Keeps base s)  : Keeps base (State.flushVectors s) := by
  unfold State.flushVectors
  repeat' first
    | with_reducible assumption
    | ((fail_if_no_progress extract_lets +onlyGivenNames u); first | (refine cut (p := Keeps base u) ?_ (fun hu => ?_); rotate_left; clear_value u; rotate_right) | (refine cut (p := Keeps base u.1) ?_ (fun hu => ?_); rotate_left; clear_value u; rotate_right) | (refine cut (p := Keeps base u.2) ?_ (fun hu => ?_); rotate_left; clear_value u; rotate_right) | (have := u.srcs; clear this; dsimp only [u]; clear u) | (have := fun x => u x; clear this) | clear_value u)
    | with_reducible apply State.wr_keeps
    | with_reducible apply ite_keeps
    | with_reducible apply foldl_keeps
    | intro t x ht
    | simp only [keeps_mk_iff]
    | simp only [u, keeps_mk_iff]

theorem State.msixUnmask_keeps {s : State} (h : Keeps base s) (kind v : Nat) : Keeps base (State.msixUnmask s kind v) := by
  unfold State.msixUnmask
  repeat' first
    | with_reducible assumption
    | ((fail_if_no_progress extract_lets +onlyGivenNames u); first | (refine cut (p := Keeps base u) ?_ (fun hu => ?_); rotate_left; clear_value u; rotate_right) | (refine cut (p := Keeps base u.1) ?_ (fun hu => ?_); rotate_left; clear_value u; rotate_right) | (refine cut (p := Keeps base u.2) ?_ (fun hu => ?_); rotate_left; clear_value u; rotate_right) | (have := u.srcs; clear this; dsimp only [u]; clear u) | (have := fun x => u x; clear this) | clear_value u)
    | with_reducible apply State.flushVectors_keeps
    | with_reducible apply State.wrB_keeps
    | with_reducible apply ite_keeps
    | simp only [keeps_mk_iff]
    | simp only [u, keeps_mk_iff]

theorem execMsixUnmask_runs (kind v : Nat) (s : State) : Runs s (execMsixUnmask kind v s) := by
  unfold execMsixUnmask
  repeat' first
    | with_reducible exact Keeps.refl _
    | with_reducible assumption
    | with_reducible apply ite_runs
    | with_reducible apply Runs.next
    | with_reducible apply State.msixUnmask_keeps
    | with_reducible apply ite_keeps

theorem State.forward_keeps {s : State} (h : Keeps base s) (syms : List Nat) : Keeps base (State.forward s syms) := by
  unfold State.forward
  repeat' first
    | with_reducible assumption
    | with_reducible apply State.cvyOut_keeps
    | with_reducible apply ite_keeps

theorem State.convoyFrame_keeps {s : State} (h : Keeps base s) (cmd hop crc : Nat) (behind : Bool) : Keeps base (State.convoyFrame s cmd hop crc behind) := by
  unfold State.convoyFrame
  repeat' first
    | with_reducible assumption
    | ((fail_if_no_progress extract_lets +onlyGivenNames u); first | (refine cut (p := Keeps base u) ?_ (fun hu => ?_); rotate_left; clear_value u; rotate_right) | (refine cut (p := Keeps base u.1) ?_ (fun hu => ?_); rotate_left; clear_value u; rotate_right) | (refine cut (p := Keeps base u.2) ?_ (fun hu => ?_); rotate_left; clear_value u; rotate_right) | (have := u.srcs; clear this; dsimp only [u]; clear u) | (have := fun x => u x; clear this) | clear_value u)
    | with_reducible apply State.count_keeps
    | with_reducible apply State.cvyOut_keeps
    | with_reducible apply State.drawn_keeps
    | with_reducible apply State.forward_keeps
    | with_reducible apply State.receiveFrame_keeps
    | with_reducible apply State.wr_keeps
    | with_reducible apply ite_keeps

theorem execConvoyFrame_runs (cmd hop crc : Nat) (behind : Bool) (s : State) : Runs s (execConvoyFrame cmd hop crc behind s) := by
  unfold execConvoyFrame
  repeat' first
    | with_reducible exact Keeps.refl _
    | with_reducible assumption
    | with_reducible apply Runs.next
    | with_reducible apply State.convoyFrame_keeps

theorem execConvoyAlign_runs (hop : Nat) (s : State) : Runs s (execConvoyAlign hop s) := by
  unfold execConvoyAlign
  repeat' first
    | with_reducible exact Keeps.refl _
    | with_reducible assumption
    | with_reducible apply Runs.next
    | with_reducible apply State.convoyFrame_keeps

theorem execSymbolLock_runs  (s : State) : Runs s (execSymbolLock s) := by
  unfold execSymbolLock
  repeat' first
    | with_reducible exact Keeps.refl _
    | with_reducible assumption
    | with_reducible apply ite_runs
    | with_reducible apply Runs.next
    | with_reducible apply State.wr_keeps
    | with_reducible apply ite_keeps

theorem execSymbolLockLoss_runs  (s : State) : Runs s (execSymbolLockLoss s) := by
  unfold execSymbolLockLoss
  repeat' first
    | with_reducible exact Keeps.refl _
    | with_reducible assumption
    | with_reducible apply ite_runs
    | with_reducible apply Runs.next
    | with_reducible apply State.wrs_keeps
    | with_reducible apply ite_keeps

theorem State.passWake_keeps {s : State} (h : Keeps base s)  : Keeps base (State.passWake s) := by
  unfold State.passWake
  repeat' first
    | with_reducible assumption
    | with_reducible apply State.cvyOut_keeps
    | with_reducible apply State.forward_keeps
    | with_reducible apply ite_keeps

theorem execConvoyWakePattern_runs (t : Nat) (s : State) : Runs s (execConvoyWakePattern t s) := by
  unfold execConvoyWakePattern
  repeat' first
    | with_reducible exact Keeps.refl _
    | with_reducible assumption
    | with_reducible apply ite_runs
    | with_reducible apply Runs.next
    | with_reducible apply State.passWake_keeps
    | with_reducible apply State.wake_keeps
    | with_reducible apply ite_keeps

theorem State.actNow_keeps {s : State} (h : Keeps base s) (cmd : Nat) {f : State → State}
    (hf : ∀ t, Keeps base t → Keeps base (f t)) : Keeps base (s.actNow cmd f) := by
  unfold State.actNow
  split
  · refine hf _ ?_
    simpa only [keeps_mk_iff] using h
  · exact h


theorem State.convoyStart_keeps {s : State} (h : Keeps base s)  : Keeps base (State.convoyStart s) := by
  unfold State.convoyStart
  repeat' first
    | with_reducible assumption
    | with_reducible apply State.convoyGoRun_keeps
    | with_reducible apply State.modRun_keeps
    | with_reducible apply ite_keeps
    | with_reducible apply foldl_keeps
    | intro t x ht
    | simp only [keeps_mk_iff]

theorem execConvoyStart_runs  (s : State) : Runs s (execConvoyStart s) := by
  unfold execConvoyStart
  repeat' first
    | with_reducible exact Keeps.refl _
    | with_reducible assumption
    | with_reducible apply Runs.next
    | with_reducible apply State.actNow_keeps
    | with_reducible apply State.auxPulse_keeps
    | with_reducible apply State.convoyStart_keeps
    | intro t x ht
    | intro t ht
    | dsimp only

theorem State.convoyStop_keeps {s : State} (h : Keeps base s)  : Keeps base (State.convoyStop s) := by
  unfold State.convoyStop
  repeat' first
    | with_reducible assumption
    | with_reducible apply State.modRun_keeps
    | with_reducible apply State.stopRun_keeps
    | with_reducible apply ite_keeps
    | with_reducible apply foldl_keeps
    | intro t x ht
    | simp only [keeps_mk_iff]

theorem execConvoyStop_runs  (s : State) : Runs s (execConvoyStop s) := by
  unfold execConvoyStop
  repeat' first
    | with_reducible exact Keeps.refl _
    | with_reducible assumption
    | with_reducible apply Runs.next
    | with_reducible apply State.actNow_keeps
    | with_reducible apply State.convoyStop_keeps
    | intro t x ht
    | intro t ht
    | dsimp only

theorem State.pullFlag_keeps {s : State} (h : Keeps base s)  : Keeps base (State.pullFlag s) := by
  unfold State.pullFlag
  repeat' first
    | with_reducible assumption
    | with_reducible apply State.wrs_keeps

theorem State.convoySync_keeps {s : State} (h : Keeps base s)  : Keeps base (State.convoySync s) := by
  unfold State.convoySync
  repeat' first
    | with_reducible assumption
    | with_reducible apply State.convoyRelease_keeps
    | with_reducible apply State.count_keeps
    | with_reducible apply State.pullFlag_keeps
    | with_reducible apply State.signalArrival_keeps
    | with_reducible apply ite_keeps

theorem execConvoySync_runs  (s : State) : Runs s (execConvoySync s) := by
  unfold execConvoySync
  repeat' first
    | with_reducible exact Keeps.refl _
    | with_reducible assumption
    | with_reducible apply Runs.next
    | with_reducible apply State.actNow_keeps
    | with_reducible apply State.auxPulse_keeps
    | with_reducible apply State.convoySync_keeps
    | intro t x ht
    | intro t ht
    | dsimp only

theorem execConvoyFreeze_runs  (s : State) : Runs s (execConvoyFreeze s) := by
  unfold execConvoyFreeze
  repeat' first
    | with_reducible exact Keeps.refl _
    | with_reducible assumption
    | with_reducible apply Runs.next
    | with_reducible apply State.actNow_keeps
    | with_reducible apply State.triggerFreeze_keeps
    | intro t x ht
    | intro t ht
    | dsimp only

theorem State.convoyTx_keeps {s : State} (h : Keeps base s) (cmd : Nat) : Keeps base (State.convoyTx s cmd) := by
  unfold State.convoyTx
  repeat' first
    | with_reducible assumption
    | with_reducible apply State.cvyOut_keeps
    | with_reducible apply State.sendFrame_keeps
    | with_reducible apply State.wr_keeps
    | with_reducible apply ite_keeps

theorem execTxStart_runs  (s : State) : Runs s (execTxStart s) := by
  unfold execTxStart
  repeat' first
    | with_reducible exact Keeps.refl _
    | with_reducible assumption
    | with_reducible apply Runs.next
    | with_reducible apply State.atReg_keeps
    | with_reducible apply State.convoyTx_keeps
    | intro t x ht
    | intro t ht
    | dsimp only

theorem execTxStop_runs  (s : State) : Runs s (execTxStop s) := by
  unfold execTxStop
  repeat' first
    | with_reducible exact Keeps.refl _
    | with_reducible assumption
    | with_reducible apply Runs.next
    | with_reducible apply State.atReg_keeps
    | with_reducible apply State.convoyTx_keeps
    | intro t x ht
    | intro t ht
    | dsimp only

theorem execTxAlign_runs  (s : State) : Runs s (execTxAlign s) := by
  unfold execTxAlign
  repeat' first
    | with_reducible exact Keeps.refl _
    | with_reducible assumption
    | with_reducible apply Runs.next
    | with_reducible apply State.atReg_keeps
    | with_reducible apply State.convoyTx_keeps
    | intro t x ht
    | intro t ht
    | dsimp only

theorem execTxSync_runs  (s : State) : Runs s (execTxSync s) := by
  unfold execTxSync
  repeat' first
    | with_reducible exact Keeps.refl _
    | with_reducible assumption
    | with_reducible apply Runs.next
    | with_reducible apply State.atReg_keeps
    | with_reducible apply State.convoyTx_keeps
    | intro t x ht
    | intro t ht
    | dsimp only

theorem execTxFreeze_runs  (s : State) : Runs s (execTxFreeze s) := by
  unfold execTxFreeze
  repeat' first
    | with_reducible exact Keeps.refl _
    | with_reducible assumption
    | with_reducible apply Runs.next
    | with_reducible apply State.atReg_keeps
    | with_reducible apply State.convoyTx_keeps
    | intro t x ht
    | intro t ht
    | dsimp only

theorem execTxWake_runs  (s : State) : Runs s (execTxWake s) := by
  unfold execTxWake
  repeat' first
    | with_reducible exact Keeps.refl _
    | with_reducible assumption
    | with_reducible apply Runs.next
    | with_reducible apply State.atReg_keeps
    | with_reducible apply State.convoyTx_keeps
    | intro t x ht
    | intro t ht
    | dsimp only

theorem execAutoSync_runs  (s : State) : Runs s (execAutoSync s) := by
  unfold execAutoSync
  repeat' first
    | with_reducible exact Keeps.refl _
    | with_reducible assumption
    | with_reducible apply ite_runs
    | with_reducible apply Runs.next
    | with_reducible apply State.sendFrame_keeps
    | with_reducible apply ite_keeps

theorem State.writeCvyCfg_keeps {s : State} (h : Keeps base s) (mask v : Nat) : Keeps base (State.writeCvyCfg s mask v) := by
  unfold State.writeCvyCfg
  repeat' first
    | with_reducible assumption
    | ((fail_if_no_progress extract_lets +onlyGivenNames u); first | (refine cut (p := Keeps base u) ?_ (fun hu => ?_); rotate_left; clear_value u; rotate_right) | (refine cut (p := Keeps base u.1) ?_ (fun hu => ?_); rotate_left; clear_value u; rotate_right) | (refine cut (p := Keeps base u.2) ?_ (fun hu => ?_); rotate_left; clear_value u; rotate_right) | (have := u.srcs; clear this; dsimp only [u]; clear u) | (have := fun x => u x; clear this) | clear_value u)
    | with_reducible apply State.pullFlag_keeps
    | with_reducible apply State.signalArrival_keeps
    | with_reducible apply State.wr_keeps
    | with_reducible apply State.wrs_keeps
    | with_reducible apply ite_keeps

theorem execCvyCfgWrite_runs (mask v : Nat) (s : State) : Runs s (execCvyCfgWrite mask v s) := by
  unfold execCvyCfgWrite
  repeat' first
    | with_reducible exact Keeps.refl _
    | with_reducible assumption
    | with_reducible apply Runs.next
    | with_reducible apply State.atReg_keeps
    | with_reducible apply State.writeCvyCfg_keeps
    | intro t x ht
    | intro t ht
    | dsimp only

end Sys2Proof.Machine
end

