-- ==== Sys2Proof/Laws/Keeps/Gpio.lean ====
section
/-! SUPPORT. `Keeps` through the operations of Machine/Gpio.lean. -/

namespace Sys2Proof.Machine

variable {base : State}

theorem State.holdPin_keeps {s : State} (h : Keeps base s) (n : Nat) : Keeps base (State.holdPin s n) := by
  unfold State.holdPin
  repeat' first
    | with_reducible assumption
    | ((fail_if_no_progress extract_lets +onlyGivenNames u); first | (refine cut (p := Keeps base u) ?_ (fun hu => ?_); rotate_left; clear_value u; rotate_right) | (refine cut (p := Keeps base u.1) ?_ (fun hu => ?_); rotate_left; clear_value u; rotate_right) | (refine cut (p := Keeps base u.2) ?_ (fun hu => ?_); rotate_left; clear_value u; rotate_right) | (have := u.srcs; clear this; dsimp only [u]; clear u) | (have := fun x => u x; clear this) | clear_value u)
    | with_reducible apply State.drawn_keeps
    | with_reducible apply State.wr_keeps
    | with_reducible apply ite_keeps
    | simp only [keeps_mk_iff]
    | simp only [u, keeps_mk_iff]

theorem State.writePin_keeps {s : State} (h : Keeps base s) (n mask v : Nat) : Keeps base (State.writePin s n mask v) := by
  unfold State.writePin
  repeat' first
    | with_reducible assumption
    | ((fail_if_no_progress extract_lets +onlyGivenNames u); first | (refine cut (p := Keeps base u) ?_ (fun hu => ?_); rotate_left; clear_value u; rotate_right) | (refine cut (p := Keeps base u.1) ?_ (fun hu => ?_); rotate_left; clear_value u; rotate_right) | (refine cut (p := Keeps base u.2) ?_ (fun hu => ?_); rotate_left; clear_value u; rotate_right) | (have := u.srcs; clear this; dsimp only [u]; clear u) | (have := fun x => u x; clear this) | clear_value u)
    | with_reducible apply State.holdPin_keeps
    | with_reducible apply State.wr_keeps
    | with_reducible apply State.wrs_keeps
    | with_reducible apply ite_keeps

theorem execFuncWrite_runs (n mask v : Nat) (s : State) : Runs s (execFuncWrite n mask v s) := by
  unfold execFuncWrite
  repeat' first
    | with_reducible exact Keeps.refl _
    | with_reducible assumption
    | with_reducible apply ite_runs
    | with_reducible apply Runs.next
    | with_reducible apply State.atReg_keeps
    | with_reducible apply State.writePin_keeps
    | with_reducible apply ite_keeps
    | intro t x ht
    | intro t ht
    | dsimp only

theorem State.endHold_keeps {s : State} (h : Keeps base s) (n : Nat) : Keeps base (State.endHold s n) := by
  unfold State.endHold
  repeat' first
    | with_reducible assumption
    | with_reducible apply State.wr_keeps
    | simp only [keeps_mk_iff]

theorem execFuncHoldEnd_runs (n : Nat) (s : State) : Runs s (execFuncHoldEnd n s) := by
  unfold execFuncHoldEnd
  repeat' first
    | with_reducible exact Keeps.refl _
    | with_reducible assumption
    | with_reducible apply ite_runs
    | with_reducible apply Runs.next
    | with_reducible apply State.endHold_keeps
    | with_reducible apply ite_keeps

theorem State.outSet_keeps {s : State} (h : Keeps base s) (k v : Nat) : Keeps base (State.outSet s k v) := by
  unfold State.outSet
  repeat' first
    | with_reducible assumption
    | with_reducible apply State.wr_keeps

theorem State.outClr_keeps {s : State} (h : Keeps base s) (k v : Nat) : Keeps base (State.outClr s k v) := by
  unfold State.outClr
  repeat' first
    | with_reducible assumption
    | with_reducible apply State.wr_keeps

theorem execOutSet_runs (k v : Nat) (s : State) : Runs s (execOutSet k v s) := by
  unfold execOutSet
  repeat' first
    | with_reducible exact Keeps.refl _
    | with_reducible assumption
    | with_reducible apply ite_runs
    | with_reducible apply Runs.next
    | with_reducible apply State.atReg_keeps
    | with_reducible apply State.outSet_keeps
    | with_reducible apply ite_keeps
    | intro t x ht
    | intro t ht
    | dsimp only

theorem execOutClr_runs (k v : Nat) (s : State) : Runs s (execOutClr k v s) := by
  unfold execOutClr
  repeat' first
    | with_reducible exact Keeps.refl _
    | with_reducible assumption
    | with_reducible apply ite_runs
    | with_reducible apply Runs.next
    | with_reducible apply State.atReg_keeps
    | with_reducible apply State.outClr_keeps
    | with_reducible apply ite_keeps
    | intro t x ht
    | intro t ht
    | dsimp only

theorem State.writePm_keeps {s : State} (h : Keeps base s) (k mask v : Nat) : Keeps base (State.writePm s k mask v) := by
  unfold State.writePm
  repeat' first
    | with_reducible assumption
    | ((fail_if_no_progress extract_lets +onlyGivenNames u); first | (refine cut (p := Keeps base u) ?_ (fun hu => ?_); rotate_left; clear_value u; rotate_right) | (refine cut (p := Keeps base u.1) ?_ (fun hu => ?_); rotate_left; clear_value u; rotate_right) | (refine cut (p := Keeps base u.2) ?_ (fun hu => ?_); rotate_left; clear_value u; rotate_right) | (have := u.srcs; clear this; dsimp only [u]; clear u) | (have := fun x => u x; clear this) | clear_value u)
    | with_reducible apply State.drawn_keeps
    | with_reducible apply State.wr_keeps
    | with_reducible apply State.wrB_keeps
    | with_reducible apply State.wrs_keeps
    | with_reducible apply ite_keeps
    | simp only [keeps_mk_iff]
    | simp only [u, keeps_mk_iff]
    | split
    | (dsimp only [u]; split)

theorem State.patternChange_keeps {s : State} (h : Keeps base s) (k : Nat) (c : Bool) : Keeps base (State.patternChange s k c) := by
  unfold State.patternChange
  repeat' first
    | with_reducible assumption
    | ((fail_if_no_progress extract_lets +onlyGivenNames u); first | (refine cut (p := Keeps base u) ?_ (fun hu => ?_); rotate_left; clear_value u; rotate_right) | (refine cut (p := Keeps base u.1) ?_ (fun hu => ?_); rotate_left; clear_value u; rotate_right) | (refine cut (p := Keeps base u.2) ?_ (fun hu => ?_); rotate_left; clear_value u; rotate_right) | (have := u.srcs; clear this; dsimp only [u]; clear u) | (have := fun x => u x; clear this) | clear_value u)
    | with_reducible apply State.wr_keeps
    | with_reducible apply State.wrB_keeps
    | with_reducible apply ite_keeps

theorem execPatternMatch_runs (k : Nat) (c : Bool) (s : State) : Runs s (execPatternMatch k c s) := by
  unfold execPatternMatch
  repeat' first
    | with_reducible exact Keeps.refl _
    | with_reducible assumption
    | with_reducible apply ite_runs
    | with_reducible apply Runs.next
    | with_reducible apply State.patternChange_keeps
    | with_reducible apply ite_keeps

theorem State.hpiSot_keeps {s : State} (h : Keeps base s)  : Keeps base (State.hpiSot s) := by
  unfold State.hpiSot
  repeat' first
    | with_reducible assumption
    | ((fail_if_no_progress extract_lets +onlyGivenNames u); first | (refine cut (p := Keeps base u) ?_ (fun hu => ?_); rotate_left; clear_value u; rotate_right) | (refine cut (p := Keeps base u.1) ?_ (fun hu => ?_); rotate_left; clear_value u; rotate_right) | (refine cut (p := Keeps base u.2) ?_ (fun hu => ?_); rotate_left; clear_value u; rotate_right) | (have := u.srcs; clear this; dsimp only [u]; clear u) | (have := fun x => u x; clear this) | clear_value u)
    | with_reducible apply State.wr_keeps
    | with_reducible apply State.wrs_keeps
    | with_reducible apply ite_keeps
    | simp only [keeps_mk_iff]
    | simp only [u, keeps_mk_iff]

theorem execSot_runs  (s : State) : Runs s (execSot s) := by
  unfold execSot
  repeat' first
    | with_reducible exact Keeps.refl _
    | with_reducible assumption
    | with_reducible apply ite_runs
    | with_reducible apply Runs.next
    | with_reducible apply State.hpiSot_keeps
    | with_reducible apply ite_keeps

theorem State.hpiEot_keeps {s : State} (h : Keeps base s)  : Keeps base (State.hpiEot s) := by
  unfold State.hpiEot
  repeat' first
    | with_reducible assumption
    | with_reducible apply State.wr_keeps
    | with_reducible apply ite_keeps
    | simp only [keeps_mk_iff]

theorem State.writeHpi_keeps {s : State} (h : Keeps base s) (mask v : Nat) : Keeps base (State.writeHpi s mask v) := by
  unfold State.writeHpi
  repeat' first
    | with_reducible assumption
    | ((fail_if_no_progress extract_lets +onlyGivenNames u); first | (refine cut (p := Keeps base u) ?_ (fun hu => ?_); rotate_left; clear_value u; rotate_right) | (refine cut (p := Keeps base u.1) ?_ (fun hu => ?_); rotate_left; clear_value u; rotate_right) | (refine cut (p := Keeps base u.2) ?_ (fun hu => ?_); rotate_left; clear_value u; rotate_right) | (have := u.srcs; clear this; dsimp only [u]; clear u) | (have := fun x => u x; clear this) | clear_value u)
    | with_reducible apply State.hpiEot_keeps
    | with_reducible apply State.wr_keeps
    | with_reducible apply State.wrs_keeps
    | with_reducible apply ite_keeps

theorem execEot_runs  (s : State) : Runs s (execEot s) := by
  unfold execEot
  repeat' first
    | with_reducible exact Keeps.refl _
    | with_reducible assumption
    | with_reducible apply Runs.next
    | with_reducible apply State.atReg_keeps
    | with_reducible apply State.hpiEot_keeps
    | intro t x ht
    | intro t ht
    | dsimp only

theorem execBinSetupEnd_runs  (s : State) : Runs s (execBinSetupEnd s) := by
  unfold execBinSetupEnd
  repeat' first
    | with_reducible exact Keeps.refl _
    | with_reducible assumption
    | with_reducible apply ite_runs
    | with_reducible apply Runs.next
    | with_reducible apply ite_keeps
    | simp only [keeps_mk_iff]

theorem execStrobeEnd_runs  (s : State) : Runs s (execStrobeEnd s) := by
  unfold execStrobeEnd
  repeat' first
    | with_reducible exact Keeps.refl _
    | with_reducible assumption
    | with_reducible apply ite_runs
    | with_reducible apply Runs.next
    | with_reducible apply State.wrs_keeps
    | with_reducible apply ite_keeps
    | simp only [keeps_mk_iff]

theorem execRdyTimeout_runs  (s : State) : Runs s (execRdyTimeout s) := by
  unfold execRdyTimeout
  repeat' first
    | with_reducible exact Keeps.refl _
    | with_reducible assumption
    | with_reducible apply ite_runs
    | with_reducible apply Runs.next
    | with_reducible apply State.wrs_keeps
    | with_reducible apply ite_keeps
    | simp only [keeps_mk_iff]

theorem execPmbAlert_runs  (s : State) : Runs s (execPmbAlert s) := by
  unfold execPmbAlert
  repeat' first
    | with_reducible exact Keeps.refl _
    | with_reducible assumption
    | with_reducible apply ite_runs
    | with_reducible apply Runs.next
    | with_reducible apply State.wr_keeps
    | with_reducible apply ite_keeps

theorem State.setSerial_keeps {s : State} (h : Keeps base s) (i : Nat) (x : SerialX) : Keeps base (State.setSerial s i x) := by
  unfold State.setSerial
  repeat' first
    | with_reducible assumption
    | simp only [keeps_mk_iff]

theorem State.serialEvent_keeps {s : State} (h : Keeps base s) (i : Nat) : Keeps base (State.serialEvent s i) := by
  unfold State.serialEvent
  repeat' first
    | with_reducible assumption
    | with_reducible apply State.wr_keeps
    | with_reducible apply ite_keeps

theorem State.serialPush_keeps {s : State} (h : Keeps base s) (i v : Nat) : Keeps base (State.serialPush s i v) := by
  unfold State.serialPush
  repeat' first
    | with_reducible assumption
    | ((fail_if_no_progress extract_lets +onlyGivenNames u); first | (refine cut (p := Keeps base u) ?_ (fun hu => ?_); rotate_left; clear_value u; rotate_right) | (refine cut (p := Keeps base u.1) ?_ (fun hu => ?_); rotate_left; clear_value u; rotate_right) | (refine cut (p := Keeps base u.2) ?_ (fun hu => ?_); rotate_left; clear_value u; rotate_right) | (have := u.srcs; clear this; dsimp only [u]; clear u) | (have := fun x => u x; clear this) | clear_value u)
    | with_reducible apply State.setSerial_keeps
    | with_reducible apply ite_keeps
    | simp only [keeps_mk_iff]
    | simp only [u, keeps_mk_iff]

theorem State.serialGo_keeps {s : State} (h : Keeps base s) (i len : Nat) : Keeps base (State.serialGo s i len) := by
  unfold State.serialGo
  repeat' first
    | with_reducible assumption
    | ((fail_if_no_progress extract_lets +onlyGivenNames u); first | (refine cut (p := Keeps base u) ?_ (fun hu => ?_); rotate_left; clear_value u; rotate_right) | (refine cut (p := Keeps base u.1) ?_ (fun hu => ?_); rotate_left; clear_value u; rotate_right) | (refine cut (p := Keeps base u.2) ?_ (fun hu => ?_); rotate_left; clear_value u; rotate_right) | (have := u.srcs; clear this; dsimp only [u]; clear u) | (have := fun x => u x; clear this) | clear_value u)
    | with_reducible apply State.setSerial_keeps
    | with_reducible apply ite_keeps
    | simp only [keeps_mk_iff]
    | simp only [u, keeps_mk_iff]

theorem execSerialGo_runs (i len : Nat) (s : State) : Runs s (execSerialGo i len s) := by
  unfold execSerialGo
  repeat' first
    | with_reducible exact Keeps.refl _
    | with_reducible assumption
    | with_reducible apply Runs.next
    | with_reducible apply State.atReg_keeps
    | with_reducible apply State.serialGo_keeps
    | intro t x ht
    | intro t ht
    | dsimp only

theorem State.transferEnd_keeps {s : State} (h : Keeps base s) (i sent : Nat) (got : List Nat) (err : Bool) : Keeps base (State.transferEnd s i sent got err) := by
  unfold State.transferEnd
  repeat' first
    | with_reducible assumption
    | ((fail_if_no_progress extract_lets +onlyGivenNames u); first | (refine cut (p := Keeps base u) ?_ (fun hu => ?_); rotate_left; clear_value u; rotate_right) | (refine cut (p := Keeps base u.1) ?_ (fun hu => ?_); rotate_left; clear_value u; rotate_right) | (refine cut (p := Keeps base u.2) ?_ (fun hu => ?_); rotate_left; clear_value u; rotate_right) | (have := u.srcs; clear this; dsimp only [u]; clear u) | (have := fun x => u x; clear this) | clear_value u)
    | with_reducible apply State.serialEvent_keeps
    | with_reducible apply State.setSerial_keeps
    | with_reducible apply State.wr_keeps
    | with_reducible apply ite_keeps
    | simp only [keeps_mk_iff]
    | simp only [u, keeps_mk_iff]

theorem execTransferEnd_runs (i sent : Nat) (got : List Nat) (err : Bool) (s : State) : Runs s (execTransferEnd i sent got err s) := by
  unfold execTransferEnd
  repeat' first
    | with_reducible exact Keeps.refl _
    | with_reducible assumption
    | with_reducible apply ite_runs
    | with_reducible apply Runs.next
    | with_reducible apply State.transferEnd_keeps
    | with_reducible apply ite_keeps

theorem execUartRx_runs (i v : Nat) (err : Bool) (s : State) : Runs s (execUartRx i v err s) := by
  unfold execUartRx
  repeat' first
    | with_reducible exact Keeps.refl _
    | ((fail_if_no_progress extract_lets +onlyGivenNames u); first | (refine cut (p := Keeps s u) ?_ (fun hu => ?_); rotate_left; clear_value u; rotate_right) | (refine cut (p := Keeps s u.1) ?_ (fun hu => ?_); rotate_left; clear_value u; rotate_right) | (refine cut (p := Keeps s u.2) ?_ (fun hu => ?_); rotate_left; clear_value u; rotate_right) | (have := u.srcs; clear this; dsimp only [u]; clear u) | (have := fun x => u x; clear this) | clear_value u)
    | with_reducible assumption
    | with_reducible apply ite_runs
    | with_reducible apply Runs.next
    | with_reducible apply State.serialEvent_keeps
    | with_reducible apply State.setSerial_keeps
    | with_reducible apply State.wr_keeps
    | with_reducible apply ite_keeps
    | simp only [keeps_mk_iff]
    | simp only [u, keeps_mk_iff]

theorem execTimerPeriodEnd_runs (k : Nat) (s : State) : Runs s (execTimerPeriodEnd k s) := by
  unfold execTimerPeriodEnd
  repeat' first
    | with_reducible exact Keeps.refl _
    | with_reducible assumption
    | with_reducible apply ite_runs
    | with_reducible apply Runs.next
    | with_reducible apply ite_keeps
    | simp only [keeps_mk_iff]

theorem execCapture_runs (k n : Nat) (s : State) : Runs s (execCapture k n s) := by
  unfold execCapture
  repeat' first
    | with_reducible exact Keeps.refl _
    | with_reducible assumption
    | with_reducible apply ite_runs
    | with_reducible apply Runs.next
    | with_reducible apply State.wrs_keeps
    | with_reducible apply ite_keeps

end Sys2Proof.Machine
end

