-- ==== Sys2Proof/Laws/Keeps/Faults.lean ====
section
/-! SUPPORT. `Keeps` through the operations of Machine/Faults.lean. -/

namespace Sys2Proof.Machine

variable {base : State}

theorem State.checkPoint_keeps {s : State} (h : Keeps base s) (l : Nat) (shadow : List (Nat × Nat)) : Keeps base (State.checkPoint s l shadow) := by
  unfold State.checkPoint
  repeat' first
    | with_reducible assumption
    | ((fail_if_no_progress extract_lets +onlyGivenNames u); first | (refine cut (p := Keeps base u) ?_ (fun hu => ?_); rotate_left; clear_value u; rotate_right) | (refine cut (p := Keeps base u.1) ?_ (fun hu => ?_); rotate_left; clear_value u; rotate_right) | (refine cut (p := Keeps base u.2) ?_ (fun hu => ?_); rotate_left; clear_value u; rotate_right) | (have := u.srcs; clear this; dsimp only [u]; clear u) | (have := fun x => u x; clear this) | clear_value u)
    | with_reducible apply State.count_keeps
    | with_reducible apply State.report_keeps
    | with_reducible apply ite_keeps

theorem execCheckPoint_runs (l : Nat) (shadow : List (Nat × Nat)) (s : State) : Runs s (execCheckPoint l shadow s) := by
  unfold execCheckPoint
  repeat' first
    | with_reducible exact Keeps.refl _
    | with_reducible assumption
    | with_reducible apply Runs.next
    | with_reducible apply State.checkPoint_keeps

theorem execShadowMismatch_runs (u : Nat) (parity : Bool) (s : State) : Runs s (execShadowMismatch u parity s) := by
  unfold execShadowMismatch
  repeat' first
    | with_reducible exact Keeps.refl _
    | with_reducible assumption
    | with_reducible apply ite_runs
    | with_reducible apply Runs.next
    | with_reducible apply State.count_keeps
    | with_reducible apply State.report_keeps
    | with_reducible apply ite_keeps

theorem execFioWindow_runs (n : Nat) (s : State) : Runs s (execFioWindow n s) := by
  unfold execFioWindow
  repeat' first
    | with_reducible exact Keeps.refl _
    | ((fail_if_no_progress extract_lets +onlyGivenNames u); first | (refine cut (p := Keeps s u) ?_ (fun hu => ?_); rotate_left; clear_value u; rotate_right) | (refine cut (p := Keeps s u.1) ?_ (fun hu => ?_); rotate_left; clear_value u; rotate_right) | (refine cut (p := Keeps s u.2) ?_ (fun hu => ?_); rotate_left; clear_value u; rotate_right) | (have := u.srcs; clear this; dsimp only [u]; clear u) | (have := fun x => u x; clear this) | clear_value u)
    | with_reducible assumption
    | with_reducible apply ite_runs
    | with_reducible apply Runs.next
    | with_reducible apply State.report_keeps
    | with_reducible apply State.wr_keeps
    | with_reducible apply ite_keeps

theorem State.supplyFault_keeps {s : State} (h : Keeps base s) (rail : Nat) (inj : Bool) : Keeps base (State.supplyFault s rail inj) := by
  unfold State.supplyFault
  repeat' first
    | with_reducible assumption
    | with_reducible apply ite_keeps
    | with_reducible apply foldl_keeps
    | intro t x ht
    | simp only [keeps_mk_iff]

theorem execSupplyExcursion_runs (rail : Nat) (s : State) : Runs s (execSupplyExcursion rail s) := by
  unfold execSupplyExcursion
  repeat' first
    | with_reducible exact Keeps.refl _
    | with_reducible assumption
    | with_reducible apply ite_runs
    | with_reducible apply Runs.next
    | with_reducible apply State.supplyFault_keeps
    | with_reducible apply State.wr_keeps
    | with_reducible apply ite_keeps
    | simp only [keeps_mk_iff]

theorem State.judgeTemp_keeps {s : State} (h : Keeps base s) (temps : List Int) (i : Nat) : Keeps base (State.judgeTemp s temps i) := by
  unfold State.judgeTemp
  repeat' first
    | with_reducible assumption
    | ((fail_if_no_progress extract_lets +onlyGivenNames u); first | (refine cut (p := Keeps base u) ?_ (fun hu => ?_); rotate_left; clear_value u; rotate_right) | (refine cut (p := Keeps base u.1) ?_ (fun hu => ?_); rotate_left; clear_value u; rotate_right) | (refine cut (p := Keeps base u.2) ?_ (fun hu => ?_); rotate_left; clear_value u; rotate_right) | (have := u.srcs; clear this; dsimp only [u]; clear u) | (have := fun x => u x; clear this) | clear_value u)
    | with_reducible apply State.report_keeps
    | with_reducible apply ite_keeps

theorem execTempSample_runs (temps : List Int) (s : State) : Runs s (execTempSample temps s) := by
  unfold execTempSample
  repeat' first
    | with_reducible exact Keeps.refl _
    | with_reducible assumption
    | with_reducible apply ite_runs
    | with_reducible apply Runs.next
    | with_reducible apply State.judgeTemp_keeps
    | with_reducible apply ite_keeps
    | with_reducible apply foldl_keeps
    | intro t x ht

theorem execLockstepMismatch_runs (u : Nat) (present : Bool) (s : State) : Runs s (execLockstepMismatch u present s) := by
  unfold execLockstepMismatch
  repeat' first
    | with_reducible exact Keeps.refl _
    | with_reducible assumption
    | with_reducible apply ite_runs
    | with_reducible apply Runs.next
    | with_reducible apply State.modSteward_keeps
    | with_reducible apply State.report_keeps
    | with_reducible apply State.revalidate_keeps
    | with_reducible apply State.wr_keeps
    | with_reducible apply ite_keeps
    | simp only [keeps_mk_iff]

theorem State.resetSteward_keeps {s : State} (h : Keeps base s) (w : Nat) : Keeps base (State.resetSteward s w) := by
  unfold State.resetSteward
  repeat' first
    | with_reducible assumption
    | ((fail_if_no_progress extract_lets +onlyGivenNames u); first | (refine cut (p := Keeps base u) ?_ (fun hu => ?_); rotate_left; clear_value u; rotate_right) | (refine cut (p := Keeps base u.1) ?_ (fun hu => ?_); rotate_left; clear_value u; rotate_right) | (refine cut (p := Keeps base u.2) ?_ (fun hu => ?_); rotate_left; clear_value u; rotate_right) | (have := u.srcs; clear this; dsimp only [u]; clear u) | (have := fun x => u x; clear this) | clear_value u)
    | with_reducible apply State.modSteward_keeps
    | simp only [keeps_mk_iff]
    | simp only [u, keeps_mk_iff]

theorem State.takeReport_keeps {s : State} (h : Keeps base s) (f : FaultRep) (t : Nat) : Keeps base (State.takeReport s f t) := by
  unfold State.takeReport
  repeat' first
    | with_reducible assumption
    | ((fail_if_no_progress extract_lets +onlyGivenNames u); first | (refine cut (p := Keeps base u) ?_ (fun hu => ?_); rotate_left; clear_value u; rotate_right) | (refine cut (p := Keeps base u.1) ?_ (fun hu => ?_); rotate_left; clear_value u; rotate_right) | (refine cut (p := Keeps base u.2) ?_ (fun hu => ?_); rotate_left; clear_value u; rotate_right) | (have := u.srcs; clear this; dsimp only [u]; clear u) | (have := fun x => u x; clear this) | clear_value u)
    | with_reducible apply State.count_keeps
    | with_reducible apply State.objorError_keeps
    | with_reducible apply State.recall_keeps
    | with_reducible apply State.resetSteward_keeps
    | with_reducible apply State.wr_keeps
    | with_reducible apply ite_keeps
    | simp only [keeps_mk_iff]
    | simp only [u, keeps_mk_iff]

theorem State.detected_keeps {s : State} (h : Keeps base s) (e : Nat × Nat) : Keeps base (State.detected s e) := by
  unfold State.detected
  repeat' first
    | with_reducible assumption
    | with_reducible apply State.report_keeps
    | with_reducible apply ite_keeps

theorem execFaultReport_runs (t : Nat × List (Nat × Nat)) (s : State) : Runs s (execFaultReport t s) := by
  unfold execFaultReport
  repeat' first
    | with_reducible exact Keeps.refl _
    | ((fail_if_no_progress extract_lets +onlyGivenNames u); first | (refine cut (p := Keeps s u) ?_ (fun hu => ?_); rotate_left; clear_value u; rotate_right) | (refine cut (p := Keeps s u.1) ?_ (fun hu => ?_); rotate_left; clear_value u; rotate_right) | (refine cut (p := Keeps s u.2) ?_ (fun hu => ?_); rotate_left; clear_value u; rotate_right) | (have := u.srcs; clear this; dsimp only [u]; clear u) | (have := fun x => u x; clear this) | clear_value u)
    | with_reducible assumption
    | with_reducible apply Runs.next
    | with_reducible apply State.detected_keeps
    | with_reducible apply State.reached_keeps
    | with_reducible apply State.takeReport_keeps
    | with_reducible apply foldl_keeps
    | intro t x ht
    | simp only [keeps_mk_iff]
    | simp only [u, keeps_mk_iff]
    | split
    | (dsimp only [u]; split)

theorem State.containCaravan_keeps {s : State} (h : Keeps base s) (l : Nat) : Keeps base (State.containCaravan s l) := by
  unfold State.containCaravan
  repeat' first
    | with_reducible assumption
    | ((fail_if_no_progress extract_lets +onlyGivenNames u); first | (refine cut (p := Keeps base u) ?_ (fun hu => ?_); rotate_left; clear_value u; rotate_right) | (refine cut (p := Keeps base u.1) ?_ (fun hu => ?_); rotate_left; clear_value u; rotate_right) | (refine cut (p := Keeps base u.2) ?_ (fun hu => ?_); rotate_left; clear_value u; rotate_right) | (have := u.srcs; clear this; dsimp only [u]; clear u) | (have := fun x => u x; clear this) | clear_value u)
    | with_reducible apply State.apgClean_keeps
    | with_reducible apply State.haltCaravan_keeps
    | with_reducible apply State.voidRun_keeps
    | with_reducible apply ite_keeps

theorem State.contain_keeps {s : State} (h : Keeps base s) (c : Contain) : Keeps base (State.contain s c) := by
  unfold State.contain
  repeat' first
    | with_reducible assumption
    | ((fail_if_no_progress extract_lets +onlyGivenNames u); first | (refine cut (p := Keeps base u) ?_ (fun hu => ?_); rotate_left; clear_value u; rotate_right) | (refine cut (p := Keeps base u.1) ?_ (fun hu => ?_); rotate_left; clear_value u; rotate_right) | (refine cut (p := Keeps base u.2) ?_ (fun hu => ?_); rotate_left; clear_value u; rotate_right) | (have := u.srcs; clear this; dsimp only [u]; clear u) | (have := fun x => u x; clear this) | clear_value u)
    | with_reducible apply State.abortSlice_keeps
    | with_reducible apply State.containCaravan_keeps
    | with_reducible apply State.safeCells_keeps
    | with_reducible apply ite_keeps
    | with_reducible apply foldl_keeps
    | intro t x ht
    | simp only [keeps_mk_iff]
    | simp only [u, keeps_mk_iff]

theorem execContainmentHalt_runs (id : Nat) (s : State) : Runs s (execContainmentHalt id s) := by
  unfold execContainmentHalt
  repeat' first
    | with_reducible exact Keeps.refl _
    | with_reducible assumption
    | with_reducible apply Runs.next
    | with_reducible apply State.contain_keeps
    | simp only [keeps_mk_iff]
    | split

theorem State.confirm_keeps {s : State} (h : Keeps base s) (c : Contain) : Keeps base (State.confirm s c) := by
  unfold State.confirm
  repeat' first
    | with_reducible assumption
    | ((fail_if_no_progress extract_lets +onlyGivenNames u); first | (refine cut (p := Keeps base u) ?_ (fun hu => ?_); rotate_left; clear_value u; rotate_right) | (refine cut (p := Keeps base u.1) ?_ (fun hu => ?_); rotate_left; clear_value u; rotate_right) | (refine cut (p := Keeps base u.2) ?_ (fun hu => ?_); rotate_left; clear_value u; rotate_right) | (have := u.srcs; clear this; dsimp only [u]; clear u) | (have := fun x => u x; clear this) | clear_value u)
    | with_reducible apply State.triggerFreeze_keeps
    | with_reducible apply State.wr_keeps
    | with_reducible apply ite_keeps
    | simp only [keeps_mk_iff]
    | simp only [u, keeps_mk_iff]

theorem execContainmentConfirm_runs (id : Nat) (s : State) : Runs s (execContainmentConfirm id s) := by
  unfold execContainmentConfirm
  repeat' first
    | with_reducible exact Keeps.refl _
    | with_reducible assumption
    | with_reducible apply Runs.next
    | with_reducible apply State.confirm_keeps
    | simp only [keeps_mk_iff]
    | split

theorem State.escalate_keeps {s : State} (h : Keeps base s) (c : Contain) : Keeps base (State.escalate s c) := by
  unfold State.escalate
  repeat' first
    | with_reducible assumption
    | ((fail_if_no_progress extract_lets +onlyGivenNames u); first | (refine cut (p := Keeps base u) ?_ (fun hu => ?_); rotate_left; clear_value u; rotate_right) | (refine cut (p := Keeps base u.1) ?_ (fun hu => ?_); rotate_left; clear_value u; rotate_right) | (refine cut (p := Keeps base u.2) ?_ (fun hu => ?_); rotate_left; clear_value u; rotate_right) | (have := u.srcs; clear this; dsimp only [u]; clear u) | (have := fun x => u x; clear this) | clear_value u)
    | with_reducible apply State.count_keeps
    | with_reducible apply ite_keeps
    | simp only [keeps_mk_iff]
    | simp only [u, keeps_mk_iff]

theorem execEscalation_runs (id : Nat) (s : State) : Runs s (execEscalation id s) := by
  unfold execEscalation
  repeat' first
    | with_reducible exact Keeps.refl _
    | with_reducible assumption
    | with_reducible apply Runs.next
    | with_reducible apply State.escalate_keeps
    | simp only [keeps_mk_iff]
    | split

theorem State.inject_keeps {s : State} (h : Keeps base s) (code unit : Nat) : Keeps base (State.inject s code unit) := by
  unfold State.inject
  repeat' first
    | with_reducible assumption
    | ((fail_if_no_progress extract_lets +onlyGivenNames u); first | (refine cut (p := Keeps base u) ?_ (fun hu => ?_); rotate_left; clear_value u; rotate_right) | (refine cut (p := Keeps base u.1) ?_ (fun hu => ?_); rotate_left; clear_value u; rotate_right) | (refine cut (p := Keeps base u.2) ?_ (fun hu => ?_); rotate_left; clear_value u; rotate_right) | (have := u.srcs; clear this; dsimp only [u]; clear u) | (have := fun x => u x; clear this) | clear_value u)
    | with_reducible apply State.supplyFault_keeps
    | with_reducible apply State.wr_keeps
    | with_reducible apply ite_keeps
    | simp only [keeps_mk_iff]
    | simp only [u, keeps_mk_iff]

theorem execFaultInject_runs (code unit : Nat) (s : State) : Runs s (execFaultInject code unit s) := by
  unfold execFaultInject
  repeat' first
    | with_reducible exact Keeps.refl _
    | with_reducible assumption
    | with_reducible apply Runs.next
    | with_reducible apply State.atReg_keeps
    | with_reducible apply State.inject_keeps
    | intro t x ht
    | intro t ht
    | dsimp only

theorem State.popLog_keeps {s : State} (h : Keeps base s)  : Keeps base (State.popLog s) := by
  unfold State.popLog
  repeat' first
    | with_reducible assumption
    | simp only [keeps_mk_iff]

theorem execLogPop_runs  (s : State) : Runs s (execLogPop s) := by
  unfold execLogPop
  repeat' first
    | with_reducible exact Keeps.refl _
    | with_reducible assumption
    | with_reducible apply Runs.next
    | with_reducible apply State.atReg_keeps
    | with_reducible apply State.popLog_keeps
    | intro t x ht
    | intro t ht
    | dsimp only

theorem State.restartSteward_keeps {s : State} (h : Keeps base s) (w : Nat) : Keeps base (State.restartSteward s w) := by
  unfold State.restartSteward
  repeat' first
    | with_reducible assumption
    | ((fail_if_no_progress extract_lets +onlyGivenNames u); first | (refine cut (p := Keeps base u) ?_ (fun hu => ?_); rotate_left; clear_value u; rotate_right) | (refine cut (p := Keeps base u.1) ?_ (fun hu => ?_); rotate_left; clear_value u; rotate_right) | (refine cut (p := Keeps base u.2) ?_ (fun hu => ?_); rotate_left; clear_value u; rotate_right) | (have := u.srcs; clear this; dsimp only [u]; clear u) | (have := fun x => u x; clear this) | clear_value u)
    | with_reducible apply State.modSteward_keeps
    | with_reducible apply State.recall_keeps
    | with_reducible apply State.resetSteward_keeps
    | with_reducible apply State.wr_keeps
    | with_reducible apply State.wrs_keeps
    | with_reducible apply ite_keeps
    | simp only [keeps_mk_iff]
    | simp only [u, keeps_mk_iff]

theorem execStewardRestart_runs (v : Nat) (s : State) : Runs s (execStewardRestart v s) := by
  unfold execStewardRestart
  repeat' first
    | with_reducible exact Keeps.refl _
    | with_reducible assumption
    | with_reducible apply Runs.next
    | with_reducible apply State.atReg_keeps
    | with_reducible apply State.restartSteward_keeps
    | with_reducible apply foldl_keeps
    | intro t x ht
    | intro t x ht
    | intro t ht
    | dsimp only

theorem State.sliceStart_keeps {s : State} (h : Keeps base s) (k target lane : Nat) : Keeps base (State.sliceStart s k target lane) := by
  unfold State.sliceStart
  repeat' first
    | with_reducible assumption
    | with_reducible apply State.count_keeps
    | with_reducible apply State.wrs_keeps
    | simp only [keeps_mk_iff]

theorem State.sliceGo_keeps {s : State} (h : Keeps base s) (k target lane : Nat) : Keeps base (State.sliceGo s k target lane) := by
  unfold State.sliceGo
  repeat' first
    | with_reducible assumption
    | with_reducible apply State.sliceStart_keeps
    | with_reducible apply State.wr_keeps
    | with_reducible apply State.wrs_keeps
    | with_reducible apply ite_keeps

theorem State.writeRun_keeps {s : State} (h : Keeps base s) (mask v : Nat) : Keeps base (State.writeRun s mask v) := by
  unfold State.writeRun
  repeat' first
    | with_reducible assumption
    | ((fail_if_no_progress extract_lets +onlyGivenNames u); first | (refine cut (p := Keeps base u) ?_ (fun hu => ?_); rotate_left; clear_value u; rotate_right) | (refine cut (p := Keeps base u.1) ?_ (fun hu => ?_); rotate_left; clear_value u; rotate_right) | (refine cut (p := Keeps base u.2) ?_ (fun hu => ?_); rotate_left; clear_value u; rotate_right) | (have := u.srcs; clear this; dsimp only [u]; clear u) | (have := fun x => u x; clear this) | clear_value u)
    | with_reducible apply State.sliceGo_keeps
    | with_reducible apply State.wrs_keeps
    | with_reducible apply ite_keeps

theorem execSliceGo_runs (k target lane : Nat) (s : State) : Runs s (execSliceGo k target lane s) := by
  unfold execSliceGo
  repeat' first
    | with_reducible exact Keeps.refl _
    | with_reducible assumption
    | with_reducible apply Runs.next
    | with_reducible apply State.atReg_keeps
    | with_reducible apply State.writeRun_keeps
    | intro t x ht
    | intro t ht
    | dsimp only

theorem State.sliceStep_keeps {s : State} (h : Keeps base s) (pass : Bool) (meas : Nat) : Keeps base (State.sliceStep s pass meas) := by
  unfold State.sliceStep
  repeat' first
    | with_reducible assumption
    | ((fail_if_no_progress extract_lets +onlyGivenNames u); first | (refine cut (p := Keeps base u) ?_ (fun hu => ?_); rotate_left; clear_value u; rotate_right) | (refine cut (p := Keeps base u.1) ?_ (fun hu => ?_); rotate_left; clear_value u; rotate_right) | (refine cut (p := Keeps base u.2) ?_ (fun hu => ?_); rotate_left; clear_value u; rotate_right) | (have := u.srcs; clear this; dsimp only [u]; clear u) | (have := fun x => u x; clear this) | clear_value u)
    | with_reducible apply State.wrs_keeps
    | with_reducible apply ite_keeps

theorem execSliceStep_runs (pass : Bool) (meas : Nat) (s : State) : Runs s (execSliceStep pass meas s) := by
  unfold execSliceStep
  repeat' first
    | with_reducible exact Keeps.refl _
    | with_reducible assumption
    | with_reducible apply ite_runs
    | with_reducible apply Runs.next
    | with_reducible apply State.sliceStep_keeps
    | with_reducible apply ite_keeps

theorem State.sliceComplete_keeps {s : State} (h : Keeps base s) (k target t : Nat) : Keeps base (State.sliceComplete s k target t) := by
  unfold State.sliceComplete
  repeat' first
    | with_reducible assumption
    | ((fail_if_no_progress extract_lets +onlyGivenNames u); first | (refine cut (p := Keeps base u) ?_ (fun hu => ?_); rotate_left; clear_value u; rotate_right) | (refine cut (p := Keeps base u.1) ?_ (fun hu => ?_); rotate_left; clear_value u; rotate_right) | (refine cut (p := Keeps base u.2) ?_ (fun hu => ?_); rotate_left; clear_value u; rotate_right) | (have := u.srcs; clear this; dsimp only [u]; clear u) | (have := fun x => u x; clear this) | clear_value u)
    | with_reducible apply State.count_keeps
    | with_reducible apply State.endSlice_keeps
    | with_reducible apply State.reached_keeps
    | with_reducible apply State.wr_keeps
    | with_reducible apply ite_keeps
    | simp only [keeps_mk_iff]
    | simp only [u, keeps_mk_iff]

theorem execSliceComplete_runs (t : Nat) (s : State) : Runs s (execSliceComplete t s) := by
  unfold execSliceComplete
  repeat' first
    | with_reducible exact Keeps.refl _
    | with_reducible assumption
    | with_reducible apply Runs.next
    | with_reducible apply State.sliceComplete_keeps
    | simp only [keeps_mk_iff]
    | split

theorem execSliceOvertime_runs  (s : State) : Runs s (execSliceOvertime s) := by
  unfold execSliceOvertime
  repeat' first
    | with_reducible exact Keeps.refl _
    | with_reducible assumption
    | with_reducible apply ite_runs
    | with_reducible apply Runs.next
    | with_reducible apply State.count_keeps
    | with_reducible apply State.endSlice_keeps
    | with_reducible apply ite_keeps

theorem State.offer_keeps {s : State} (h : Keeps base s) (e : Nat) : Keeps base (State.offer s e) := by
  unfold State.offer
  repeat' first
    | with_reducible assumption
    | ((fail_if_no_progress extract_lets +onlyGivenNames u); first | (refine cut (p := Keeps base u) ?_ (fun hu => ?_); rotate_left; clear_value u; rotate_right) | (refine cut (p := Keeps base u.1) ?_ (fun hu => ?_); rotate_left; clear_value u; rotate_right) | (refine cut (p := Keeps base u.2) ?_ (fun hu => ?_); rotate_left; clear_value u; rotate_right) | (have := u.srcs; clear this; dsimp only [u]; clear u) | (have := fun x => u x; clear this) | clear_value u)
    | with_reducible apply State.count_keeps
    | with_reducible apply State.sliceStart_keeps
    | with_reducible apply ite_keeps
    | simp only [keeps_mk_iff]
    | simp only [u, keeps_mk_iff]

theorem execSchedulerOffer_runs  (s : State) : Runs s (execSchedulerOffer s) := by
  unfold execSchedulerOffer
  repeat' first
    | with_reducible exact Keeps.refl _
    | with_reducible assumption
    | with_reducible apply ite_runs
    | with_reducible apply Runs.next
    | with_reducible apply State.offer_keeps
    | with_reducible apply ite_keeps
    | simp only [keeps_mk_iff]
    | split

theorem State.ageLate_keeps {s : State} (h : Keeps base s) (j t : Nat) : Keeps base (State.ageLate s j t) := by
  unfold State.ageLate
  repeat' first
    | with_reducible assumption
    | ((fail_if_no_progress extract_lets +onlyGivenNames u); first | (refine cut (p := Keeps base u) ?_ (fun hu => ?_); rotate_left; clear_value u; rotate_right) | (refine cut (p := Keeps base u.1) ?_ (fun hu => ?_); rotate_left; clear_value u; rotate_right) | (refine cut (p := Keeps base u.2) ?_ (fun hu => ?_); rotate_left; clear_value u; rotate_right) | (have := u.srcs; clear this; dsimp only [u]; clear u) | (have := fun x => u x; clear this) | clear_value u)
    | with_reducible apply State.reached_keeps
    | with_reducible apply State.wr_keeps
    | with_reducible apply ite_keeps
    | simp only [keeps_mk_iff]
    | simp only [u, keeps_mk_iff]

theorem execAgeLate_runs (j t : Nat) (s : State) : Runs s (execAgeLate j t s) := by
  unfold execAgeLate
  repeat' first
    | with_reducible exact Keeps.refl _
    | with_reducible assumption
    | with_reducible apply ite_runs
    | with_reducible apply Runs.next
    | with_reducible apply State.ageLate_keeps
    | with_reducible apply ite_keeps

end Sys2Proof.Machine
end

