-- ==== Sys2Proof/Laws/Keeps/Resets.lean ====
section
/-! SUPPORT. `Keeps` through the operations of Machine/Resets.lean. -/

namespace Sys2Proof.Machine

variable {base : State}

theorem State.freeWords_keeps {s : State} (h : Keeps base s) (n : Nat) : Keeps base (s.freeWords n).1 := by
  induction n generalizing s with
  | zero => exact h
  | succ n ih => exact ih (State.drawn_keeps h)


theorem State.storeCut_keeps {s : State} (h : Keeps base s) (gone bad : List Nat) (res : Nat) : Keeps base (State.storeCut s gone bad res) := by
  unfold State.storeCut
  repeat' first
    | with_reducible assumption
    | ((fail_if_no_progress extract_lets +onlyGivenNames u); first | (refine cut (p := Keeps base u) ?_ (fun hu => ?_); rotate_left; clear_value u; rotate_right) | (refine cut (p := Keeps base u.1) ?_ (fun hu => ?_); rotate_left; clear_value u; rotate_right) | (refine cut (p := Keeps base u.2) ?_ (fun hu => ?_); rotate_left; clear_value u; rotate_right) | (have := u.srcs; clear this; dsimp only [u]; clear u) | (have := fun x => u x; clear this) | clear_value u)
    | with_reducible apply State.cwErase_keeps
    | with_reducible apply State.cwProgram_keeps
    | with_reducible apply State.cwSpoil_keeps
    | with_reducible apply State.freeWords_keeps
    | with_reducible apply ite_keeps
    | with_reducible apply foldl_keeps
    | intro t x ht
    | simp only [keeps_mk_iff]
    | simp only [u, keeps_mk_iff]
    | split
    | (dsimp only [u]; split)

theorem State.powerReset_keeps {s : State} (h : Keeps base s)  : Keeps base (State.powerReset s) := by
  unfold State.powerReset
  repeat' first
    | with_reducible assumption
    | with_reducible apply State.wrs_keeps
    | simp only [keeps_mk_iff]

theorem State.resetDomains_keeps {s : State} (h : Keeps base s) (pcie : Bool) : Keeps base (s.resetDomains pcie) := by
  unfold State.resetDomains
  extract_lets s1 s2 s3 s4
  have h1 : Keeps base s1 := State.closeBonds_keeps h _
  have h2 : Keeps base s2 := foldl_keeps (fun _ _ ht => State.dropRegion_keeps ht _)
    (foldl_keeps (fun _ _ ht => State.dropBlock_keeps ht _) h1)
  have h4 : Keeps base s4 := State.powerReset_keeps (State.clearMem_keeps (State.clearMem_keeps
    (State.dropChip_keeps h2 _) _ _) _ _)
  clear_value s4
  exact keeps_tabs h4 id id id id id (fun _ => rfl) id id (fun _ => rfl) id id rfl


theorem State.deviceReset_keeps {s : State} (h : Keeps base s)  : Keeps base (State.deviceReset s) := by
  unfold State.deviceReset
  repeat' first
    | with_reducible assumption
    | with_reducible apply State.endChannels_keeps
    | with_reducible apply State.resetDomains_keeps

theorem State.releaseSteward_keeps {s : State} (h : Keeps base s) (vec w : Nat) : Keeps base (State.releaseSteward s vec w) := by
  unfold State.releaseSteward
  repeat' first
    | with_reducible assumption
    | with_reducible apply State.modSteward_keeps
    | with_reducible apply State.wr_keeps
    | simp only [keeps_mk_iff]

theorem State.instantOn_keeps {s : State} (h : Keeps base s) (b : Nat) : Keeps base (State.instantOn s b) := by
  unfold State.instantOn
  repeat' first
    | with_reducible assumption
    | with_reducible apply State.bootPll_keeps
    | with_reducible apply State.senseBlock_keeps
    | simp only [keeps_mk_iff]
    | split

theorem State.startSteps_keeps {s : State} (h : Keeps base s)  : Keeps base (State.startSteps s) := by
  unfold State.startSteps
  repeat' first
    | with_reducible assumption
    | ((fail_if_no_progress extract_lets +onlyGivenNames u); first | (refine cut (p := Keeps base u) ?_ (fun hu => ?_); rotate_left; clear_value u; rotate_right) | (refine cut (p := Keeps base u.1) ?_ (fun hu => ?_); rotate_left; clear_value u; rotate_right) | (refine cut (p := Keeps base u.2) ?_ (fun hu => ?_); rotate_left; clear_value u; rotate_right) | (have := u.srcs; clear this; dsimp only [u]; clear u) | (have := fun x => u x; clear this) | clear_value u)
    | with_reducible apply State.instantOn_keeps
    | with_reducible apply State.releaseSteward_keeps
    | with_reducible apply State.senseBlock_keeps
    | with_reducible apply State.wr_keeps
    | with_reducible apply State.wrs_keeps
    | with_reducible apply ite_keeps
    | with_reducible apply foldl_keeps
    | intro t x ht
    | simp only [keeps_mk_iff]
    | simp only [u, keeps_mk_iff]

theorem State.startUp_keeps {s : State} (h : Keeps base s)  : Keeps base (State.startUp s) := by
  unfold State.startUp
  repeat' first
    | with_reducible assumption
    | ((fail_if_no_progress extract_lets +onlyGivenNames u); first | (refine cut (p := Keeps base u) ?_ (fun hu => ?_); rotate_left; clear_value u; rotate_right) | (refine cut (p := Keeps base u.1) ?_ (fun hu => ?_); rotate_left; clear_value u; rotate_right) | (refine cut (p := Keeps base u.2) ?_ (fun hu => ?_); rotate_left; clear_value u; rotate_right) | (have := u.srcs; clear this; dsimp only [u]; clear u) | (have := fun x => u x; clear this) | clear_value u)
    | with_reducible apply State.decodeLc_keeps
    | with_reducible apply State.recoverErase_keeps
    | with_reducible apply State.recoverJournal_keeps
    | with_reducible apply State.setSaveFlags_keeps
    | with_reducible apply State.startSteps_keeps
    | with_reducible apply State.wr_keeps
    | simp only [keeps_mk_iff]
    | simp only [u, keeps_mk_iff]

theorem State.started_keeps {s : State} (h : Keeps base s) (k : Nat) : Keeps base (State.started s k) := by
  unfold State.started
  repeat' first
    | with_reducible assumption
    | ((fail_if_no_progress extract_lets +onlyGivenNames u); first | (refine cut (p := Keeps base u) ?_ (fun hu => ?_); rotate_left; clear_value u; rotate_right) | (refine cut (p := Keeps base u.1) ?_ (fun hu => ?_); rotate_left; clear_value u; rotate_right) | (refine cut (p := Keeps base u.2) ?_ (fun hu => ?_); rotate_left; clear_value u; rotate_right) | (have := u.srcs; clear this; dsimp only [u]; clear u) | (have := fun x => u x; clear this) | clear_value u)
    | with_reducible apply State.startUp_keeps
    | with_reducible apply State.wr_keeps
    | with_reducible apply ite_keeps
    | simp only [keeps_mk_iff]
    | simp only [u, keeps_mk_iff]

theorem State.resumeCounts_keeps {s : State} (h : Keeps base s)  : Keeps base (State.resumeCounts s) := by
  unfold State.resumeCounts
  repeat' first
    | with_reducible assumption
    | ((fail_if_no_progress extract_lets +onlyGivenNames u); first | (refine cut (p := Keeps base u) ?_ (fun hu => ?_); rotate_left; clear_value u; rotate_right) | (refine cut (p := Keeps base u.1) ?_ (fun hu => ?_); rotate_left; clear_value u; rotate_right) | (refine cut (p := Keeps base u.2) ?_ (fun hu => ?_); rotate_left; clear_value u; rotate_right) | (have := u.srcs; clear this; dsimp only [u]; clear u) | (have := fun x => u x; clear this) | clear_value u)
    | with_reducible apply State.wr_keeps
    | with_reducible apply ite_keeps
    | with_reducible apply foldl_keeps
    | intro t x ht

theorem State.unpowered_keeps {s : State} (h : Keeps base s) : Keeps base s.unpowered := by
  unfold State.unpowered
  refine State.resumeCounts_keeps ?_
  exact keeps_tabs h (fun w => Tab.wf_filter _ w) (fun w => Tab.wf_filter _ w) (fun _ => rfl) (fun _ => rfl) (fun _ => rfl)
    (fun _ => rfl) (fun _ => Tab.wf_foldl _ (fun _ _ z => Tab.wf_set _ _ z) _ rfl) (fun _ => rfl) (fun _ => rfl)
    (fun _ => rfl) (fun _ => rfl) rfl


theorem State.powerCut_keeps {s : State} (h : Keeps base s) (gone bad : List Nat) (c : PowerCut) : Keeps base (State.powerCut s gone bad c) := by
  unfold State.powerCut
  repeat' first
    | with_reducible assumption
    | with_reducible apply State.storeCut_keeps
    | with_reducible apply State.tearHeader_keeps
    | with_reducible apply State.wearPlanes_keeps
    | with_reducible apply foldl_keeps
    | intro t x ht

theorem execPowerLoss_runs (gone bad : List Nat) (res : PowerCut) (s : State) : Runs s (execPowerLoss gone bad res s) := by
  unfold execPowerLoss
  repeat' first
    | with_reducible exact Keeps.refl _
    | with_reducible assumption
    | with_reducible apply Runs.next
    | with_reducible apply State.powerCut_keeps
    | with_reducible apply State.unpowered_keeps

theorem execPowerOnReset_runs (gone bad : List Nat) (res : PowerCut) (s : State) : Runs s (execPowerOnReset gone bad res s) := by
  unfold execPowerOnReset
  repeat' first
    | with_reducible exact Keeps.refl _
    | with_reducible assumption
    | with_reducible apply Runs.next
    | with_reducible apply State.powerCut_keeps
    | with_reducible apply State.unpowered_keeps

theorem execPwrOkRelease_runs  (s : State) : Runs s (execPwrOkRelease s) := by
  unfold execPwrOkRelease
  repeat' first
    | with_reducible exact Keeps.refl _
    | with_reducible assumption
    | with_reducible apply ite_runs
    | with_reducible apply Runs.next
    | with_reducible apply State.started_keeps
    | with_reducible apply ite_keeps

theorem execPwrOkFall_runs (gone bad : List Nat) (res : PowerCut) (s : State) : Runs s (execPwrOkFall gone bad res s) := by
  unfold execPwrOkFall
  repeat' first
    | with_reducible exact Keeps.refl _
    | ((fail_if_no_progress extract_lets +onlyGivenNames u); first | (refine cut (p := Keeps s u) ?_ (fun hu => ?_); rotate_left; clear_value u; rotate_right) | (refine cut (p := Keeps s u.1) ?_ (fun hu => ?_); rotate_left; clear_value u; rotate_right) | (refine cut (p := Keeps s u.2) ?_ (fun hu => ?_); rotate_left; clear_value u; rotate_right) | (have := u.srcs; clear this; dsimp only [u]; clear u) | (have := fun x => u x; clear this) | clear_value u)
    | with_reducible assumption
    | with_reducible apply ite_runs
    | with_reducible apply Runs.next
    | with_reducible apply State.powerCut_keeps
    | with_reducible apply State.resetDomains_keeps
    | with_reducible apply ite_keeps
    | simp only [keeps_mk_iff]
    | simp only [u, keeps_mk_iff]

theorem State.pinsReset_keeps {s : State} (h : Keeps base s) : Keeps base s.pinsReset := by
  unfold State.pinsReset
  extract_lets t
  have ht : Keeps base t := State.resetRegs_keeps (State.safeCells_keeps h _ _) _ _
  clear_value t
  simp only [keeps_mk_iff]
  exact ht

theorem execResetN_runs  (s : State) : Runs s (execResetN s) := by
  unfold execResetN
  repeat' first
    | with_reducible exact Keeps.refl _
    | with_reducible assumption
    | with_reducible apply ite_runs
    | with_reducible apply Runs.next
    | with_reducible apply State.resetDomains_keeps
    | with_reducible apply State.pinsReset_keeps
    | with_reducible apply State.started_keeps
    | with_reducible apply ite_keeps
    | simp only [keeps_mk_iff]

theorem State.chipReset_keeps {s : State} (h : Keeps base s) (key : Nat) : Keeps base (State.chipReset s key) := by
  unfold State.chipReset
  repeat' first
    | with_reducible assumption
    | with_reducible apply ite_keeps
    | simp only [keeps_mk_iff]

theorem execChipReset_runs (key : Nat) (s : State) : Runs s (execChipReset key s) := by
  unfold execChipReset
  repeat' first
    | with_reducible exact Keeps.refl _
    | with_reducible assumption
    | with_reducible apply Runs.next
    | with_reducible apply State.atReg_keeps
    | with_reducible apply State.chipReset_keeps
    | intro t x ht
    | intro t ht
    | dsimp only

theorem execDeviceReset_runs (gone bad : List Nat) (res : Nat × List (Nat × Nat)) (s : State) : Runs s (execDeviceReset gone bad res s) := by
  unfold execDeviceReset
  repeat' first
    | with_reducible exact Keeps.refl _
    | with_reducible assumption
    | with_reducible apply Runs.next
    | with_reducible apply State.deviceReset_keeps
    | with_reducible apply State.started_keeps
    | with_reducible apply State.storeCut_keeps
    | with_reducible apply State.wearPlanes_keeps
    | simp only [keeps_mk_iff]
    | split

theorem State.flagAgain_keeps {s : State} (h : Keeps base s)  : Keeps base (State.flagAgain s) := by
  unfold State.flagAgain
  repeat' first
    | with_reducible assumption
    | with_reducible apply State.pullFlag_keeps
    | with_reducible apply State.signalArrival_keeps
    | with_reducible apply ite_keeps

theorem State.raiseChip_keeps {s : State} (h : Keeps base s) : Keeps base s.raiseChip := by
  unfold State.raiseChip
  extract_lets s1 s2
  have h1 : Keeps base s1 := State.recoverErase_keeps (State.decodeLc_keeps (State.recoverJournal_keeps h))
  have h2 : Keeps base s2 := by
    have ha := State.takeArea_keeps h1 36 chipArea 0x10000
    simp only [s2]
    split
    · next e => rw [e] at ha; exact State.unpack_keeps ha _ _
    · next e => rw [e] at ha; exact State.wr_keeps ha _ _
  exact State.flagAgain_keeps (State.approvedNow_keeps (State.wrs_keeps (State.setSaveFlags_keeps h2 _) _))


theorem State.restoreWake_keeps {s : State} (h : Keeps base s) (k : Nat) :
    Keeps base (State.restoreWake s k) := by
  unfold State.restoreWake
  extract_lets p g s1 s2 s3 s4 s5
  have h1 : Keeps base s1 := by simpa only [s1, keeps_mk_iff] using h
  have h2 : Keeps base s2 := ite_keeps (State.raiseChip_keeps h1) h1
  have h3 : Keeps base s3 := ite_keeps h2 (foldl_keeps (fun _ _ ht => State.releaseSteward_keeps ht _ _) h2)
  have h4 : Keeps base s4 := ite_keeps h3 (foldl_keeps (fun _ _ ht => State.raise_keeps ht _)
    (foldl_keeps (fun _ _ ht => State.raise_keeps ht _) h3))
  have h5 : Keeps base s5 := State.wrs_keeps h4 _
  clear_value s5
  refine State.pwrSettle_keeps (ite_keeps ?_ h5)
  simpa only [keeps_mk_iff] using h5


theorem execWakeRestore_runs  (s : State) : Runs s (execWakeRestore s) := by
  unfold execWakeRestore
  repeat' first
    | with_reducible exact Keeps.refl _
    | with_reducible assumption
    | with_reducible apply ite_runs
    | with_reducible apply Runs.next
    | with_reducible apply State.resetDomains_keeps
    | with_reducible apply State.restoreWake_keeps
    | with_reducible apply State.started_keeps
    | with_reducible apply ite_keeps

end Sys2Proof.Machine
end

