-- ==== Sys2Proof/Laws/Keeps/Registers.lean ====
section
/-! SUPPORT. `Keeps` through the operations of Machine/Registers.lean. -/

namespace Sys2Proof.Machine

variable {base : State}

theorem State.countOn_keeps {s : State} (h : Keeps base s) (r : RegRef) : Keeps base (State.countOn s r) := by
  unfold State.countOn
  repeat' first
    | with_reducible assumption
    | with_reducible apply State.counted_keeps
    | simp only [keeps_mk_iff]
    | split

theorem State.viewDrawn_keeps {s : State} (h : Keeps base s) (r : RegRef) : Keeps base (State.viewDrawn s r) := by
  unfold State.viewDrawn
  repeat' first
    | with_reducible assumption
    | with_reducible apply State.drawn_keeps
    | with_reducible apply ite_keeps

theorem State.clearRc_keeps {s : State} (h : Keeps base s) (fs : List FInfo) (lo hi : Nat) : Keeps base (State.clearRc s fs lo hi) := by
  unfold State.clearRc
  repeat' first
    | with_reducible assumption
    | with_reducible apply State.wr_keeps
    | with_reducible apply foldl_keeps
    | intro t x ht

theorem State.popOnRead_keeps {s : State} (h : Keeps base s) (r : RegRef) : Keeps base (State.popOnRead s r) := by
  unfold State.popOnRead
  repeat' first
    | with_reducible assumption
    | ((fail_if_no_progress extract_lets +onlyGivenNames u); first | (refine cut (p := Keeps base u) ?_ (fun hu => ?_); rotate_left; clear_value u; rotate_right) | (refine cut (p := Keeps base u.1) ?_ (fun hu => ?_); rotate_left; clear_value u; rotate_right) | (refine cut (p := Keeps base u.2) ?_ (fun hu => ?_); rotate_left; clear_value u; rotate_right) | (have := u.srcs; clear this; dsimp only [u]; clear u) | (have := fun x => u x; clear this) | clear_value u)
    | with_reducible apply State.popEvq_keeps
    | with_reducible apply State.setSerial_keeps
    | simp only [keeps_mk_iff]
    | simp only [u, keeps_mk_iff]
    | split
    | (dsimp only [u]; split)

theorem State.readReg_keeps {s : State} (h : Keeps base s) (a n : Nat) : Keeps base (s.readReg a n).2 := by
  unfold State.readReg
  split
  · exact h
  · extract_lets lo t
    have ht : Keeps base t := State.countOn_keeps h _
    exact State.clearRc_keeps (ite_keeps (State.popOnRead_keeps (State.viewDrawn_keeps ht _) _) (State.viewDrawn_keeps ht _)) _ _ _


theorem State.regAccess_keeps {s : State} (h : Keeps base s) (m a n : Nat) {act : State → State} (k : Nat)
    (ha : ∀ t, Keeps base t → Keeps base (act t)) : Keeps base (s.regAccess m a n act k) := by
  unfold State.regAccess
  split
  · exact State.atReg_keeps h _ _ _ ha
  · simpa only [keeps_mk_iff] using h


theorem execReadClear_runs (a n : Nat) (s : State) : Runs s (execReadClear a n s) := by
  unfold execReadClear
  repeat' first
    | with_reducible exact Keeps.refl _
    | with_reducible assumption
    | with_reducible apply Runs.next
    | with_reducible apply State.readReg_keeps
    | with_reducible apply State.regAccess_keeps
    | simp only [keeps_mk_iff]
    | intro t x ht
    | intro t ht
    | dsimp only

theorem State.heldIgnored_keeps {s : State} (h : Keeps base s) (r : RegRef) : Keeps base (State.heldIgnored s r) := by
  unfold State.heldIgnored
  repeat' first
    | with_reducible assumption
    | with_reducible apply State.pinIgnored_keeps
    | with_reducible apply State.seqIgnored_keeps
    | with_reducible apply ite_keeps

theorem State.putField_keeps {s : State} (h : Keeps base s) (r : RegRef) (mask v : Nat) (f : FInfo) : Keeps base (State.putField s r mask v f) := by
  unfold State.putField
  repeat' first
    | with_reducible assumption
    | ((fail_if_no_progress extract_lets +onlyGivenNames u); first | (refine cut (p := Keeps base u) ?_ (fun hu => ?_); rotate_left; clear_value u; rotate_right) | (refine cut (p := Keeps base u.1) ?_ (fun hu => ?_); rotate_left; clear_value u; rotate_right) | (refine cut (p := Keeps base u.2) ?_ (fun hu => ?_); rotate_left; clear_value u; rotate_right) | (have := u.srcs; clear this; dsimp only [u]; clear u) | (have := fun x => u x; clear this) | clear_value u)
    | with_reducible apply State.heldIgnored_keeps
    | with_reducible apply State.wr_keeps
    | with_reducible apply ite_keeps
    | simp only [keeps_mk_iff]
    | simp only [u, keeps_mk_iff]
    | split
    | (dsimp only [u]; split)

theorem State.putFields_keeps {s : State} (h : Keeps base s) (m : Nat) (r : RegRef) (mask v : Nat) : Keeps base (State.putFields s m r mask v) := by
  unfold State.putFields
  repeat' first
    | with_reducible assumption
    | with_reducible apply State.putField_keeps
    | with_reducible apply foldl_keeps
    | intro t x ht

theorem State.writeSeq_keeps {s : State} (h : Keeps base s) (m : Nat) (r : RegRef) (mask v : Nat) : Keeps base (State.writeSeq s m r mask v) := by
  unfold State.writeSeq
  repeat' first
    | with_reducible assumption
    | ((fail_if_no_progress extract_lets +onlyGivenNames u); first | (refine cut (p := Keeps base u) ?_ (fun hu => ?_); rotate_left; clear_value u; rotate_right) | (refine cut (p := Keeps base u.1) ?_ (fun hu => ?_); rotate_left; clear_value u; rotate_right) | (refine cut (p := Keeps base u.2) ?_ (fun hu => ?_); rotate_left; clear_value u; rotate_right) | (have := u.srcs; clear this; dsimp only [u]; clear u) | (have := fun x => u x; clear this) | clear_value u)
    | with_reducible apply State.armDesc_keeps
    | with_reducible apply State.putField_keeps
    | with_reducible apply State.putFields_keeps
    | with_reducible apply State.seqCommand_keeps
    | with_reducible apply State.seqIgnored_keeps
    | with_reducible apply State.seqTouch_keeps
    | with_reducible apply State.wr_keeps
    | with_reducible apply State.writeEvt_keeps
    | with_reducible apply State.writeNextPc_keeps
    | with_reducible apply State.writePsm_keeps
    | with_reducible apply State.writeRing_keeps
    | with_reducible apply ite_keeps
    | simp only [keeps_mk_iff]
    | simp only [u, keeps_mk_iff]
    | split
    | (dsimp only [u]; split)

theorem State.writePinReg_keeps {s : State} (h : Keeps base s) (m : Nat) (r : RegRef) (mask v : Nat) : Keeps base (State.writePinReg s m r mask v) := by
  unfold State.writePinReg
  repeat' first
    | with_reducible assumption
    | ((fail_if_no_progress extract_lets +onlyGivenNames u); first | (refine cut (p := Keeps base u) ?_ (fun hu => ?_); rotate_left; clear_value u; rotate_right) | (refine cut (p := Keeps base u.1) ?_ (fun hu => ?_); rotate_left; clear_value u; rotate_right) | (refine cut (p := Keeps base u.2) ?_ (fun hu => ?_); rotate_left; clear_value u; rotate_right) | (have := u.srcs; clear this; dsimp only [u]; clear u) | (have := fun x => u x; clear this) | clear_value u)
    | with_reducible apply State.abortSlice_keeps
    | with_reducible apply State.putFields_keeps
    | with_reducible apply State.writeLevels_keeps
    | with_reducible apply State.writeMeas_keeps
    | with_reducible apply State.writePinCtrl_keeps
    | with_reducible apply State.writePmu_keeps
    | with_reducible apply State.writeTrim_keeps
    | simp only [keeps_mk_iff]
    | simp only [u, keeps_mk_iff]
    | split
    | (dsimp only [u]; split)

theorem State.writeFab_keeps {s : State} (h : Keeps base s) (m : Nat) (r : RegRef) (mask v : Nat) : Keeps base (State.writeFab s m r mask v) := by
  unfold State.writeFab
  repeat' first
    | with_reducible assumption
    | ((fail_if_no_progress extract_lets +onlyGivenNames u); first | (refine cut (p := Keeps base u) ?_ (fun hu => ?_); rotate_left; clear_value u; rotate_right) | (refine cut (p := Keeps base u.1) ?_ (fun hu => ?_); rotate_left; clear_value u; rotate_right) | (refine cut (p := Keeps base u.2) ?_ (fun hu => ?_); rotate_left; clear_value u; rotate_right) | (have := u.srcs; clear this; dsimp only [u]; clear u) | (have := fun x => u x; clear this) | clear_value u)
    | with_reducible apply State.drawn_keeps
    | with_reducible apply State.fabArm_keeps
    | with_reducible apply State.fabCommit_keeps
    | with_reducible apply State.fabDisarm_keeps
    | with_reducible apply State.fabIgnored_keeps
    | with_reducible apply State.fabSwap_keeps
    | with_reducible apply State.fabWrite_keeps
    | with_reducible apply State.putFields_keeps
    | with_reducible apply State.wr_keeps
    | with_reducible apply ite_keeps
    | simp only [keeps_mk_iff]
    | simp only [u, keeps_mk_iff]
    | split
    | (dsimp only [u]; split)

theorem State.writeLdg_keeps {s : State} (h : Keeps base s) (m : Nat) (r : RegRef) (mask v : Nat) : Keeps base (State.writeLdg s m r mask v) := by
  unfold State.writeLdg
  repeat' first
    | with_reducible assumption
    | ((fail_if_no_progress extract_lets +onlyGivenNames u); first | (refine cut (p := Keeps base u) ?_ (fun hu => ?_); rotate_left; clear_value u; rotate_right) | (refine cut (p := Keeps base u.1) ?_ (fun hu => ?_); rotate_left; clear_value u; rotate_right) | (refine cut (p := Keeps base u.2) ?_ (fun hu => ?_); rotate_left; clear_value u; rotate_right) | (have := u.srcs; clear this; dsimp only [u]; clear u) | (have := fun x => u x; clear this) | clear_value u)
    | with_reducible apply State.allocGo_keeps
    | with_reducible apply State.clearSite_keeps
    | with_reducible apply State.digestGo_keeps
    | with_reducible apply State.drainGo_keeps
    | with_reducible apply State.ldgFlush_keeps
    | with_reducible apply State.ldgIgnored_keeps
    | with_reducible apply State.lookupGo_keeps
    | with_reducible apply State.putFields_keeps
    | with_reducible apply State.wr_keeps
    | with_reducible apply State.writeLdgCtrl_keeps
    | with_reducible apply State.writeSpillHead_keeps
    | with_reducible apply ite_keeps
    | simp only [keeps_mk_iff]
    | simp only [u, keeps_mk_iff]
    | split
    | (dsimp only [u]; split)

theorem State.writeRegion_keeps {s : State} (h : Keeps base s) (m : Nat) (r : RegRef) (mask v : Nat) : Keeps base (State.writeRegion s m r mask v) := by
  unfold State.writeRegion
  repeat' first
    | with_reducible assumption
    | ((fail_if_no_progress extract_lets +onlyGivenNames u); first | (refine cut (p := Keeps base u) ?_ (fun hu => ?_); rotate_left; clear_value u; rotate_right) | (refine cut (p := Keeps base u.1) ?_ (fun hu => ?_); rotate_left; clear_value u; rotate_right) | (refine cut (p := Keeps base u.2) ?_ (fun hu => ?_); rotate_left; clear_value u; rotate_right) | (have := u.srcs; clear this; dsimp only [u]; clear u) | (have := fun x => u x; clear this) | clear_value u)
    | with_reducible apply State.ddrTrain_keeps
    | with_reducible apply State.putFields_keeps
    | with_reducible apply State.wr_keeps
    | with_reducible apply State.writeApgOwn_keeps
    | with_reducible apply State.writeGang_keeps
    | with_reducible apply State.writeSgrp_keeps
    | with_reducible apply ite_keeps
    | simp only [keeps_mk_iff]
    | simp only [u, keeps_mk_iff]
    | split
    | (dsimp only [u]; split)

theorem State.writeFrzCtrl_keeps {s : State} (h : Keeps base s) (m : Nat) (r : RegRef) (mask v : Nat) : Keeps base (State.writeFrzCtrl s m r mask v) := by
  unfold State.writeFrzCtrl
  repeat' first
    | with_reducible assumption
    | ((fail_if_no_progress extract_lets +onlyGivenNames u); first | (refine cut (p := Keeps base u) ?_ (fun hu => ?_); rotate_left; clear_value u; rotate_right) | (refine cut (p := Keeps base u.1) ?_ (fun hu => ?_); rotate_left; clear_value u; rotate_right) | (refine cut (p := Keeps base u.2) ?_ (fun hu => ?_); rotate_left; clear_value u; rotate_right) | (have := u.srcs; clear this; dsimp only [u]; clear u) | (have := fun x => u x; clear this) | clear_value u)
    | with_reducible apply State.putFields_keeps
    | with_reducible apply State.thaw_keeps
    | with_reducible apply State.triggerFreeze_keeps
    | with_reducible apply State.wr_keeps
    | with_reducible apply ite_keeps

theorem State.writeStoCmd_keeps {s : State} (h : Keeps base s) (mask v : Nat) : Keeps base (State.writeStoCmd s mask v) := by
  unfold State.writeStoCmd
  repeat' first
    | with_reducible assumption
    | ((fail_if_no_progress extract_lets +onlyGivenNames u); first | (refine cut (p := Keeps base u) ?_ (fun hu => ?_); rotate_left; clear_value u; rotate_right) | (refine cut (p := Keeps base u.1) ?_ (fun hu => ?_); rotate_left; clear_value u; rotate_right) | (refine cut (p := Keeps base u.2) ?_ (fun hu => ?_); rotate_left; clear_value u; rotate_right) | (have := u.srcs; clear this; dsimp only [u]; clear u) | (have := fun x => u x; clear this) | clear_value u)
    | with_reducible apply State.rawProgram_keeps
    | with_reducible apply State.rawRead_keeps
    | with_reducible apply State.readMargin_keeps
    | with_reducible apply State.storeErase_keeps
    | with_reducible apply State.storeProgram_keeps
    | with_reducible apply State.storeRefuse_keeps
    | with_reducible apply ite_keeps
    | simp only [keeps_mk_iff]
    | simp only [u, keeps_mk_iff]
    | split
    | (dsimp only [u]; split)

theorem State.writePwrCmd_keeps {s : State} (h : Keeps base s) (mask v : Nat) : Keeps base (State.writePwrCmd s mask v) := by
  unfold State.writePwrCmd
  repeat' first
    | with_reducible assumption
    | ((fail_if_no_progress extract_lets +onlyGivenNames u); first | (refine cut (p := Keeps base u) ?_ (fun hu => ?_); rotate_left; clear_value u; rotate_right) | (refine cut (p := Keeps base u.1) ?_ (fun hu => ?_); rotate_left; clear_value u; rotate_right) | (refine cut (p := Keeps base u.2) ?_ (fun hu => ?_); rotate_left; clear_value u; rotate_right) | (have := u.srcs; clear this; dsimp only [u]; clear u) | (have := fun x => u x; clear this) | clear_value u)
    | with_reducible apply State.changeLevel_keeps
    | with_reducible apply State.powerOff_keeps
    | with_reducible apply State.powerOn_keeps
    | with_reducible apply State.pwrReject_keeps
    | with_reducible apply ite_keeps
    | simp only [keeps_mk_iff]
    | simp only [u, keeps_mk_iff]
    | split
    | (dsimp only [u]; split)

theorem State.writeGpio_keeps {s : State} (h : Keeps base s) (m : Nat) (r : RegRef) (mask v : Nat) : Keeps base (State.writeGpio s m r mask v) := by
  unfold State.writeGpio
  repeat' first
    | with_reducible assumption
    | ((fail_if_no_progress extract_lets +onlyGivenNames u); first | (refine cut (p := Keeps base u) ?_ (fun hu => ?_); rotate_left; clear_value u; rotate_right) | (refine cut (p := Keeps base u.1) ?_ (fun hu => ?_); rotate_left; clear_value u; rotate_right) | (refine cut (p := Keeps base u.2) ?_ (fun hu => ?_); rotate_left; clear_value u; rotate_right) | (have := u.srcs; clear this; dsimp only [u]; clear u) | (have := fun x => u x; clear this) | clear_value u)
    | with_reducible apply State.outClr_keeps
    | with_reducible apply State.outSet_keeps
    | with_reducible apply State.putFields_keeps
    | with_reducible apply State.serialGo_keeps
    | with_reducible apply State.serialPush_keeps
    | with_reducible apply State.writeHpi_keeps
    | with_reducible apply State.writePin_keeps
    | with_reducible apply State.writePm_keeps
    | with_reducible apply ite_keeps
    | simp only [keeps_mk_iff]
    | simp only [u, keeps_mk_iff]
    | split
    | (dsimp only [u]; split)

theorem State.writeNoc_keeps {s : State} (h : Keeps base s) (m : Nat) (r : RegRef) (mask v : Nat) : Keeps base (State.writeNoc s m r mask v) := by
  unfold State.writeNoc
  repeat' first
    | with_reducible assumption
    | ((fail_if_no_progress extract_lets +onlyGivenNames u); first | (refine cut (p := Keeps base u) ?_ (fun hu => ?_); rotate_left; clear_value u; rotate_right) | (refine cut (p := Keeps base u.1) ?_ (fun hu => ?_); rotate_left; clear_value u; rotate_right) | (refine cut (p := Keeps base u.2) ?_ (fun hu => ?_); rotate_left; clear_value u; rotate_right) | (have := u.srcs; clear this; dsimp only [u]; clear u) | (have := fun x => u x; clear this) | clear_value u)
    | with_reducible apply State.putFields_keeps
    | with_reducible apply State.recfgClose_keeps
    | with_reducible apply State.recfgOpen_keeps
    | with_reducible apply State.tollClear_keeps
    | with_reducible apply State.wr_keeps
    | with_reducible apply State.writeGrant_keeps
    | with_reducible apply State.writeMpr_keeps
    | with_reducible apply ite_keeps
    | simp only [keeps_mk_iff]
    | simp only [u, keeps_mk_iff]
    | split
    | (dsimp only [u]; split)

theorem State.writeEvc_keeps {s : State} (h : Keeps base s) (m : Nat) (r : RegRef) (mask v : Nat) : Keeps base (State.writeEvc s m r mask v) := by
  unfold State.writeEvc
  repeat' first
    | with_reducible assumption
    | ((fail_if_no_progress extract_lets +onlyGivenNames u); first | (refine cut (p := Keeps base u) ?_ (fun hu => ?_); rotate_left; clear_value u; rotate_right) | (refine cut (p := Keeps base u.1) ?_ (fun hu => ?_); rotate_left; clear_value u; rotate_right) | (refine cut (p := Keeps base u.2) ?_ (fun hu => ?_); rotate_left; clear_value u; rotate_right) | (have := u.srcs; clear this; dsimp only [u]; clear u) | (have := fun x => u x; clear this) | clear_value u)
    | with_reducible apply State.clrPend_keeps
    | with_reducible apply State.hostEoi_keeps
    | with_reducible apply State.putFields_keeps
    | with_reducible apply State.ringDoorbells_keeps
    | with_reducible apply State.setPend_keeps
    | with_reducible apply State.writeEoi_keeps
    | with_reducible apply State.writeSrc_keeps
    | with_reducible apply ite_keeps
    | simp only [keeps_mk_iff]
    | simp only [u, keeps_mk_iff]
    | split
    | (dsimp only [u]; split)

theorem State.writeChip_keeps {s : State} (h : Keeps base s) (m : Nat) (r : RegRef) (mask v : Nat) : Keeps base (State.writeChip s m r mask v) := by
  unfold State.writeChip
  repeat' first
    | with_reducible assumption
    | ((fail_if_no_progress extract_lets +onlyGivenNames u); first | (refine cut (p := Keeps base u) ?_ (fun hu => ?_); rotate_left; clear_value u; rotate_right) | (refine cut (p := Keeps base u.1) ?_ (fun hu => ?_); rotate_left; clear_value u; rotate_right) | (refine cut (p := Keeps base u.2) ?_ (fun hu => ?_); rotate_left; clear_value u; rotate_right) | (have := u.srcs; clear this; dsimp only [u]; clear u) | (have := fun x => u x; clear this) | clear_value u)
    | with_reducible apply State.calLoad_keeps
    | with_reducible apply State.cancelSleep_keeps
    | with_reducible apply State.chipReset_keeps
    | with_reducible apply State.convoyTx_keeps
    | with_reducible apply State.countOn_keeps
    | with_reducible apply State.cvyOut_keeps
    | with_reducible apply State.dmaCommand_keeps
    | with_reducible apply State.flushVectors_keeps
    | with_reducible apply State.inject_keeps
    | with_reducible apply State.mbCommand_keeps
    | with_reducible apply State.mbRefuse_keeps
    | with_reducible apply State.popLog_keeps
    | with_reducible apply State.putFields_keeps
    | with_reducible apply State.requestSleep_keeps
    | with_reducible apply State.restartSteward_keeps
    | with_reducible apply State.usePll_keeps
    | with_reducible apply State.wr_keeps
    | with_reducible apply State.writeCvyCfg_keeps
    | with_reducible apply State.writeFrzCtrl_keeps
    | with_reducible apply State.writePwrCmd_keeps
    | with_reducible apply State.writeRun_keeps
    | with_reducible apply State.writeStoCmd_keeps
    | with_reducible apply State.wrs_keeps
    | with_reducible apply ite_keeps
    | with_reducible apply foldl_keeps
    | intro t x ht
    | simp only [keeps_mk_iff]
    | simp only [u, keeps_mk_iff]
    | split
    | (dsimp only [u]; split)
    | intro t x ht
    | intro t ht
    | dsimp only

theorem State.writeReg_keeps {s : State} (h : Keeps base s) (m a mask v : Nat) : Keeps base (State.writeReg s m a mask v) := by
  unfold State.writeReg
  repeat' first
    | with_reducible assumption
    | with_reducible apply State.pllCommand_keeps
    | with_reducible apply State.putFields_keeps
    | with_reducible apply State.writeCaravan_keeps
    | with_reducible apply State.writeChip_keeps
    | with_reducible apply State.writeEvc_keeps
    | with_reducible apply State.writeFab_keeps
    | with_reducible apply State.writeGpio_keeps
    | with_reducible apply State.writeLdg_keeps
    | with_reducible apply State.writeNoc_keeps
    | with_reducible apply State.writeOfs_keeps
    | with_reducible apply State.writePinReg_keeps
    | with_reducible apply State.writeRegion_keeps
    | with_reducible apply State.writeSeq_keeps
    | with_reducible apply State.writeTab_keeps
    | with_reducible apply apgWindowWrite_keeps
    | with_reducible apply ite_keeps
    | simp only [keeps_mk_iff]
    | split

theorem execRegisterWrite_runs (m a n v : Nat) (s : State) : Runs s (execRegisterWrite m a n v s) := by
  unfold execRegisterWrite
  repeat' first
    | with_reducible exact Keeps.refl _
    | with_reducible assumption
    | with_reducible apply Runs.next
    | with_reducible apply State.regAccess_keeps
    | with_reducible apply State.writeReg_keeps
    | simp only [keeps_mk_iff]
    | intro t x ht
    | intro t ht
    | dsimp only

end Sys2Proof.Machine
end

