-- ==== Sys2Proof/Laws/Keeps/Bus.lean ====
section
/-! SUPPORT. `Keeps` through the operations of Machine/Bus.lean. -/

namespace Sys2Proof.Machine

variable {base : State}

theorem State.serveRegRead_keeps {s : State} (h : Keeps base s) (q : Req) : Keeps base (State.serveRegRead s q) := by
  unfold State.serveRegRead
  repeat' first
    | with_reducible assumption
    | ((fail_if_no_progress extract_lets +onlyGivenNames u); first | (refine cut (p := Keeps base u) ?_ (fun hu => ?_); rotate_left; clear_value u; rotate_right) | (refine cut (p := Keeps base u.1) ?_ (fun hu => ?_); rotate_left; clear_value u; rotate_right) | (refine cut (p := Keeps base u.2) ?_ (fun hu => ?_); rotate_left; clear_value u; rotate_right) | (have := u.srcs; clear this; dsimp only [u]; clear u) | (have := fun x => u x; clear this) | clear_value u)
    | with_reducible apply State.readReg_keeps
    | with_reducible apply State.respond_keeps
    | with_reducible apply ite_keeps
    | intro t x ht
    | intro t ht
    | dsimp only

theorem State.serveRead_keeps {s : State} (h : Keeps base s) (q : Req) (up dev : Nat) : Keeps base (State.serveRead s q up dev) := by
  unfold State.serveRead
  repeat' first
    | with_reducible assumption
    | with_reducible apply State.serveMemory_keeps
    | with_reducible apply State.serveRegRead_keeps
    | with_reducible apply ite_keeps

theorem State.serveRegWrite_keeps {s : State} (h : Keeps base s) (q : Req) : Keeps base (State.serveRegWrite s q) := by
  unfold State.serveRegWrite
  repeat' first
    | with_reducible assumption
    | ((fail_if_no_progress extract_lets +onlyGivenNames u); first | (refine cut (p := Keeps base u) ?_ (fun hu => ?_); rotate_left; clear_value u; rotate_right) | (refine cut (p := Keeps base u.1) ?_ (fun hu => ?_); rotate_left; clear_value u; rotate_right) | (refine cut (p := Keeps base u.2) ?_ (fun hu => ?_); rotate_left; clear_value u; rotate_right) | (have := u.srcs; clear this; dsimp only [u]; clear u) | (have := fun x => u x; clear this) | clear_value u)
    | with_reducible apply State.respond_keeps
    | with_reducible apply State.writeReg_keeps
    | with_reducible apply ite_keeps
    | intro t x ht
    | intro t ht
    | dsimp only

theorem State.serveWrite_keeps {s : State} (h : Keeps base s) (q : Req) (up dev : Nat) : Keeps base (State.serveWrite s q up dev) := by
  unfold State.serveWrite
  repeat' first
    | with_reducible assumption
    | with_reducible apply State.serveRegWrite_keeps
    | with_reducible apply State.storeMemory_keeps
    | with_reducible apply ite_keeps

theorem State.serveAny_keeps {s : State} (h : Keeps base s) (up dev : Nat) (q : Req) : Keeps base (State.serveAny up dev s q) := by
  unfold State.serveAny
  repeat' first
    | with_reducible assumption
    | with_reducible apply State.serveRead_keeps
    | with_reducible apply State.serveWrite_keeps
    | with_reducible apply ite_keeps
    | with_reducible refine (State.access_keeps ?_ _ _ _ _).1 _ (by assumption)
    | with_reducible refine (State.access_keeps ?_ _ _ _ _).2 _ _ _ (by assumption)

theorem State.access_keeps {s : State} (h : Keeps base s) (q : Req) (up dev lat : Nat) :
    (∀ t, s.access q up dev lat = .error t → Keeps base t) ∧
    ∀ st d t, s.access q up dev lat = .ok (st, d, t) → Keeps base t :=
  State.accessWith_keeps h (fun _ _ ht => ite_keeps (State.serveWrite_keeps ht _ _ _) (State.serveRead_keeps ht _ _ _)) q lat


theorem State.stall_keeps {s : State} (h : Keeps base s) (q : Req) (up dev lat : Nat) : Keeps base (State.stall s q up dev lat) := by
  unfold State.stall
  repeat' first
    | with_reducible assumption
    | simp only [keeps_mk_iff]
    | with_reducible refine (State.access_keeps ?_ _ _ _ _).1 _ (by assumption)
    | with_reducible refine (State.access_keeps ?_ _ _ _ _).2 _ _ _ (by assumption)
    | split

theorem State.serve_keeps {s : State} (h : Keeps base s) (i tag : Nat) (k : ReqKind) {f : State → Req → State}
    (hf : ∀ t q, Keeps base t → Keeps base (f t q)) : Keeps base (s.serve i tag k f) := by
  have ht := State.reach_keeps h i tag
  unfold State.serve
  split
  · exact h
  · dsimp only
    generalize s.reach i tag = u at ht
    split
    · exact ht
    · refine hf _ _ ?_
      simpa only [keeps_mk_iff] using ht


theorem execRd_runs (i tag up dev : Nat) (s : State) : Runs s (execRd i tag up dev s) := by
  unfold execRd
  repeat' first
    | with_reducible exact Keeps.refl _
    | with_reducible assumption
    | with_reducible apply Runs.next
    | with_reducible apply State.serve_keeps
    | with_reducible apply State.serveRead_keeps
    | intro t x ht
    | intro t ht
    | dsimp only

theorem execWr_runs (i tag up dev : Nat) (s : State) : Runs s (execWr i tag up dev s) := by
  unfold execWr
  repeat' first
    | with_reducible exact Keeps.refl _
    | with_reducible assumption
    | with_reducible apply Runs.next
    | with_reducible apply State.serve_keeps
    | with_reducible apply State.serveWrite_keeps
    | with_reducible apply State.wr_keeps
    | intro t x ht
    | intro t ht
    | dsimp only

theorem execRdp_runs (i tag up dev : Nat) (s : State) : Runs s (execRdp i tag up dev s) := by
  unfold execRdp
  repeat' first
    | with_reducible exact Keeps.refl _
    | with_reducible assumption
    | with_reducible apply Runs.next
    | with_reducible apply State.serve_keeps
    | with_reducible apply State.serveRead_keeps
    | intro t x ht
    | intro t ht
    | dsimp only

theorem execWrp_runs (i tag up dev : Nat) (s : State) : Runs s (execWrp i tag up dev s) := by
  unfold execWrp
  repeat' first
    | with_reducible exact Keeps.refl _
    | with_reducible assumption
    | with_reducible apply Runs.next
    | with_reducible apply State.serve_keeps
    | with_reducible apply State.serveWrite_keeps
    | intro t x ht
    | intro t ht
    | dsimp only

end Sys2Proof.Machine
end

