-- ==== Sys2Proof/Laws/Keeps/Masters.lean ====
section
/-! SUPPORT. `Keeps` through the operations of Machine/Masters.lean. -/

namespace Sys2Proof.Machine

variable {base : State}

theorem State.refillRead_keeps {s : State} (h : Keeps base s) (c up dev lat : Nat) (l : List (Nat × Nat)) :
    Keeps base (s.refillRead c up dev lat l).s := by
  induction l generalizing s up with
  | nil => exact h
  | cons g l ih =>
    have ha := State.access_keeps h (wordsReq (13 + blockOf c) (c % 8) g.1 g.2 false []) up dev lat
    unfold State.refillRead
    split
    · next hs => exact ha.1 _ hs
    · next hs =>
      have ht := ha.2 _ _ _ hs
      split
      · exact ht
      · exact ih ht 0


theorem State.ringWrite_keeps {s : State} (h : Keeps base s) (c : Nat) (l : List Nat) : Keeps base (s.ringWrite c l) := by
  induction l generalizing s with
  | nil => exact h
  | cons v l ih =>
    unfold State.ringWrite
    dsimp only
    exact ih (State.wrs_keeps (State.writeWord_keeps h _ _) _)


theorem State.ringTook_keeps {s : State} (h : Keeps base s) (c n k : Nat) : Keeps base (State.ringTook s c n k) := by
  unfold State.ringTook
  repeat' first
    | with_reducible assumption
    | with_reducible apply State.modCell_keeps
    | with_reducible apply ite_keeps
    | simp only [keeps_mk_iff]
    | split

theorem State.refill_keeps {s : State} (h : Keeps base s) (c n up dev lat : Nat) : Keeps base (s.refill c n up dev lat) := by
  unfold State.refill
  extract_lets d left a r u
  split
  · exact h
  · have hr : Keeps base r.s := State.refillRead_keeps h _ _ _ _ _
    have hu : Keeps base u := ite_keeps hr (State.ringTook_keeps (State.ringWrite_keeps hr _ _) _ _ _)
    exact ite_keeps (State.streamError_keeps hu _) (ite_keeps hu (State.chainDma_keeps hu _ _))


theorem execStreamDmaRefill_runs (c n up dev lat : Nat) (s : State) : Runs s (execStreamDmaRefill c n up dev lat s) := by
  unfold execStreamDmaRefill
  repeat' first
    | with_reducible exact Keeps.refl _
    | with_reducible assumption
    | with_reducible apply Runs.next
    | with_reducible apply State.refill_keeps

theorem State.counting_keeps {s : State} (h : Keeps base s) (as : List Nat) : Keeps base (State.counting s as) := by
  unfold State.counting
  repeat' first
    | with_reducible assumption
    | with_reducible apply State.countOn_keeps
    | with_reducible apply foldl_keeps
    | intro t x ht
    | simp only [keeps_mk_iff]
    | split

theorem State.readout_keeps {s : State} (h : Keeps base s) (a n : Nat) : Keeps base (State.readout s a n) := by
  unfold State.readout
  repeat' first
    | with_reducible assumption
    | ((fail_if_no_progress extract_lets +onlyGivenNames u); first | (refine cut (p := Keeps base u) ?_ (fun hu => ?_); rotate_left; clear_value u; rotate_right) | (refine cut (p := Keeps base u.1) ?_ (fun hu => ?_); rotate_left; clear_value u; rotate_right) | (refine cut (p := Keeps base u.2) ?_ (fun hu => ?_); rotate_left; clear_value u; rotate_right) | (have := u.srcs; clear this; dsimp only [u]; clear u) | (have := fun x => u x; clear this) | clear_value u)
    | with_reducible apply State.count_keeps
    | with_reducible apply State.counting_keeps
    | with_reducible apply State.drawn_keeps
    | with_reducible apply State.wr_keeps
    | with_reducible apply ite_keeps
    | simp only [keeps_mk_iff]
    | simp only [u, keeps_mk_iff]

theorem State.readDbg_keeps {s : State} (h : Keeps base s) (off n : Nat) : Keeps base (State.readDbg s off n) := by
  unfold State.readDbg
  repeat' first
    | with_reducible assumption
    | with_reducible apply State.drawn_keeps
    | simp only [keeps_mk_iff]

theorem State.readBar4_keeps {s : State} (h : Keeps base s) (off n : Nat) : Keeps base (State.readBar4 s off n) := by
  unfold State.readBar4
  repeat' first
    | with_reducible assumption
    | with_reducible apply State.readDbg_keeps
    | with_reducible apply State.readout_keeps
    | with_reducible apply ite_keeps
    | simp only [keeps_mk_iff]

theorem State.writeBar4_keeps {s : State} (h : Keeps base s) (off n v : Nat) : Keeps base (State.writeBar4 s off n v) := by
  unfold State.writeBar4
  repeat' first
    | with_reducible assumption
    | ((fail_if_no_progress extract_lets +onlyGivenNames u); first | (refine cut (p := Keeps base u) ?_ (fun hu => ?_); rotate_left; clear_value u; rotate_right) | (refine cut (p := Keeps base u.1) ?_ (fun hu => ?_); rotate_left; clear_value u; rotate_right) | (refine cut (p := Keeps base u.2) ?_ (fun hu => ?_); rotate_left; clear_value u; rotate_right) | (have := u.srcs; clear this; dsimp only [u]; clear u) | (have := fun x => u x; clear this) | clear_value u)
    | with_reducible apply State.thaw_keeps
    | with_reducible apply State.writeReg_keeps
    | with_reducible apply ite_keeps
    | intro t x ht
    | intro t ht
    | dsimp only

theorem execReadout_runs (off n : Nat) (s : State) : Runs s (execReadout off n s) := by
  unfold execReadout
  repeat' first
    | with_reducible exact Keeps.refl _
    | with_reducible assumption
    | with_reducible apply ite_runs
    | with_reducible apply Runs.next
    | with_reducible apply State.readBar4_keeps
    | with_reducible apply ite_keeps

theorem State.setIr_keeps {s : State} (h : Keeps base s) (code : Nat) : Keeps base (State.setIr s code) := by
  unfold State.setIr
  repeat' first
    | with_reducible assumption
    | simp only [keeps_mk_iff]

theorem State.destroyed_keeps {s : State} (h : Keeps base s)  : Keeps base (State.destroyed s) := by
  unfold State.destroyed
  repeat' first
    | with_reducible assumption
    | with_reducible apply State.drawn_keeps
    | with_reducible apply State.wrs_keeps
    | with_reducible apply ite_keeps
    | with_reducible apply foldl_keeps
    | intro t x ht
    | simp only [keeps_mk_iff]
    | split

theorem State.tapScan_keeps {s : State} (h : Keeps base s)  : Keeps base (State.tapScan s) := by
  unfold State.tapScan
  repeat' first
    | with_reducible assumption
    | ((fail_if_no_progress extract_lets +onlyGivenNames u); first | (refine cut (p := Keeps base u) ?_ (fun hu => ?_); rotate_left; clear_value u; rotate_right) | (refine cut (p := Keeps base u.1) ?_ (fun hu => ?_); rotate_left; clear_value u; rotate_right) | (refine cut (p := Keeps base u.2) ?_ (fun hu => ?_); rotate_left; clear_value u; rotate_right) | (have := u.srcs; clear this; dsimp only [u]; clear u) | (have := fun x => u x; clear this) | clear_value u)
    | with_reducible apply State.destroyed_keeps
    | with_reducible apply State.setIr_keeps
    | with_reducible apply State.wr_keeps
    | with_reducible apply ite_keeps
    | simp only [keeps_mk_iff]
    | simp only [u, keeps_mk_iff]

theorem State.tapSelect_keeps {s : State} (h : Keeps base s) (code : Nat) : Keeps base (State.tapSelect s code) := by
  unfold State.tapSelect
  repeat' first
    | with_reducible assumption
    | with_reducible apply State.setIr_keeps
    | with_reducible apply State.tapScan_keeps
    | with_reducible apply ite_keeps

theorem execDbgacc_runs (a : Nat × Nat) (read : Bool) (s : State) : Runs s (execDbgacc a read s) := by
  unfold execDbgacc
  repeat' first
    | with_reducible exact Keeps.refl _
    | ((fail_if_no_progress extract_lets +onlyGivenNames u); first | (refine cut (p := Keeps s u) ?_ (fun hu => ?_); rotate_left; clear_value u; rotate_right) | (refine cut (p := Keeps s u.1) ?_ (fun hu => ?_); rotate_left; clear_value u; rotate_right) | (refine cut (p := Keeps s u.2) ?_ (fun hu => ?_); rotate_left; clear_value u; rotate_right) | (have := u.srcs; clear this; dsimp only [u]; clear u) | (have := fun x => u x; clear this) | clear_value u)
    | with_reducible assumption
    | with_reducible apply ite_runs
    | with_reducible apply Runs.next
    | with_reducible apply State.readDbg_keeps
    | with_reducible apply State.readout_keeps
    | with_reducible apply State.tapSelect_keeps
    | with_reducible apply ite_keeps

theorem execScan_runs  (s : State) : Runs s (execScan s) := by
  unfold execScan
  repeat' first
    | with_reducible exact Keeps.refl _
    | with_reducible assumption
    | with_reducible apply Runs.next
    | with_reducible apply State.tapScan_keeps

theorem execTapReset_runs  (s : State) : Runs s (execTapReset s) := by
  unfold execTapReset
  repeat' first
    | with_reducible exact Keeps.refl _
    | with_reducible assumption
    | with_reducible apply Runs.next
    | with_reducible apply State.setIr_keeps

theorem State.debugMem_keeps {s : State} (h : Keeps base s) (w a : Nat) (write : Bool) (v : Nat) : Keeps base (State.debugMem s w a write v) := by
  unfold State.debugMem
  repeat' first
    | with_reducible assumption
    | with_reducible apply ite_keeps
    | simp only [keeps_mk_iff]
    | with_reducible refine (State.access_keeps ?_ _ _ _ _).1 _ (by assumption)
    | with_reducible refine (State.access_keeps ?_ _ _ _ _).2 _ _ _ (by assumption)
    | split

theorem State.debugAct_keeps {s : State} (h : Keeps base s) (w : Nat) (a : StwAct) : Keeps base (s.debugAct w a) := by
  cases a with
  | load a => exact State.debugMem_keeps (State.drawn_keeps h) w a false 0
  | store a b => exact State.debugMem_keeps (State.drawn_keeps h) w a true b
  | setX n v => exact State.stwAct_keeps h w true (.setX n v)
  | getX n => exact State.stwAct_keeps h w true (.getX n)
  | csr pc a op v rd => exact State.stwAct_keeps h w true (.csr pc a op v rd)


theorem execDebugHalt_runs (w : Nat) (pc : Nat × List StwAct) (s : State) : Runs s (execDebugHalt w pc s) := by
  unfold execDebugHalt
  repeat' first
    | with_reducible exact Keeps.refl _
    | with_reducible assumption
    | with_reducible apply ite_runs
    | with_reducible apply Runs.next
    | with_reducible apply State.debugAct_keeps
    | with_reducible apply State.modSteward_keeps
    | with_reducible apply State.revalidate_keeps
    | with_reducible apply State.wr_keeps
    | with_reducible apply ite_keeps
    | with_reducible apply foldl_keeps
    | intro t x ht
    | simp only [keeps_mk_iff]

theorem execDebugResume_runs (w : Nat) (pc : Nat × List StwAct) (detach : Bool) (s : State) : Runs s (execDebugResume w pc detach s) := by
  unfold execDebugResume
  repeat' first
    | with_reducible exact Keeps.refl _
    | with_reducible assumption
    | with_reducible apply ite_runs
    | with_reducible apply Runs.next
    | with_reducible apply State.debugAct_keeps
    | with_reducible apply State.modSteward_keeps
    | with_reducible apply State.wr_keeps
    | with_reducible apply ite_keeps
    | with_reducible apply foldl_keeps
    | intro t x ht
    | simp only [keeps_mk_iff]

theorem State.aerLog_keeps {s : State} (h : Keeps base s) (hdr : List Nat) : Keeps base (State.aerLog s hdr) := by
  unfold State.aerLog
  repeat' first
    | with_reducible assumption
    | with_reducible apply ite_keeps
    | simp only [keeps_mk_iff]

theorem State.completerAbort_keeps {s : State} (h : Keeps base s) (hdr : List Nat) (a st : Nat) : Keeps base (State.completerAbort s hdr a st) := by
  unfold State.completerAbort
  repeat' first
    | with_reducible assumption
    | with_reducible apply State.aerLog_keeps
    | with_reducible apply State.hostError_keeps
    | simp only [keeps_mk_iff]

theorem State.hostReads_keeps {s : State} (h : Keeps base s) (up dev lat : Nat) (l : List (Nat × Nat))
    {bs : List Nat} {x : Option (Nat × Nat)} {t : State} (e : s.hostReads up dev lat l = .ok (bs, x, t)) : Keeps base t := by
  induction l generalizing s up bs x t with
  | nil => cases e; exact h
  | cons g l ih =>
    have ha := State.access_keeps h (hostReq g.1 g.2 false 0) up dev lat
    unfold State.hostReads at e
    dsimp only at e
    split at e
    · cases e
    · next hs =>
      have ht := ha.2 _ _ _ hs
      split at e
      · cases e; exact ht
      · split at e
        · cases e
        · next hu => cases e; exact ih ht _ hu


theorem State.hostWrites_keeps {s : State} (h : Keeps base s) (up dev lat : Nat) (l : List (Nat × Nat)) (bs : List Nat)
    {x : Option (Nat × Nat)} {t : State} (e : s.hostWrites up dev lat l bs = .ok (x, t)) : Keeps base t := by
  induction l generalizing s up bs x t with
  | nil => cases e; exact h
  | cons g l ih =>
    have ha := State.access_keeps h (hostReq g.1 g.2 true (ofBytes (bs.take g.2))) up dev lat
    unfold State.hostWrites at e
    dsimp only at e
    split at e
    · cases e
    · next hs =>
      have ht := ha.2 _ _ _ hs
      split at e
      · cases e; exact ht
      · exact ih ht _ _ e


theorem State.hostFrozen_keeps {s : State} (h : Keeps base s) (hdr : List Nat) (kind a : Nat) : Keeps base (State.hostFrozen s hdr kind a) := by
  unfold State.hostFrozen
  repeat' first
    | with_reducible assumption
    | with_reducible apply ite_keeps
    | with_reducible apply State.completerAbort_keeps
    | with_reducible apply State.frozenViolation_keeps
    | with_reducible apply State.drawn_keeps

theorem execHostRead_runs (bar off n up dev lat : Nat) (s : State) : Runs s (execHostRead bar off n up dev lat s) := by
  unfold execHostRead
  repeat' first
    | with_reducible exact Keeps.refl _
    | ((fail_if_no_progress extract_lets +onlyGivenNames u); first | (refine cut (p := Keeps s u) ?_ (fun hu => ?_); rotate_left; clear_value u; rotate_right) | (refine cut (p := Keeps s u.1) ?_ (fun hu => ?_); rotate_left; clear_value u; rotate_right) | (refine cut (p := Keeps s u.2) ?_ (fun hu => ?_); rotate_left; clear_value u; rotate_right) | (have := u.srcs; clear this; dsimp only [u]; clear u) | (have := fun x => u x; clear this) | clear_value u)
    | with_reducible assumption
    | with_reducible apply ite_runs
    | with_reducible apply Runs.next
    | with_reducible apply State.completerAbort_keeps
    | with_reducible apply State.hostFrozen_keeps
    | with_reducible apply State.readBar4_keeps
    | with_reducible apply State.stall_keeps
    | with_reducible apply ite_keeps
    | simp only [keeps_mk_iff]
    | simp only [u, keeps_mk_iff]
    | with_reducible refine State.hostReads_keeps ?_ _ _ _ _ (by assumption)
    | split
    | (dsimp only [u]; split)

theorem execHostWrite_runs (bar off : Nat) (data : List Nat) (poisoned : Bool) (up dev lat : Nat) (s : State) : Runs s (execHostWrite bar off data poisoned up dev lat s) := by
  unfold execHostWrite
  repeat' first
    | with_reducible exact Keeps.refl _
    | ((fail_if_no_progress extract_lets +onlyGivenNames u); first | (refine cut (p := Keeps s u) ?_ (fun hu => ?_); rotate_left; clear_value u; rotate_right) | (refine cut (p := Keeps s u.1) ?_ (fun hu => ?_); rotate_left; clear_value u; rotate_right) | (refine cut (p := Keeps s u.2) ?_ (fun hu => ?_); rotate_left; clear_value u; rotate_right) | (have := u.srcs; clear this; dsimp only [u]; clear u) | (have := fun x => u x; clear this) | clear_value u)
    | with_reducible assumption
    | with_reducible apply ite_runs
    | with_reducible apply Runs.next
    | with_reducible apply State.completerAbort_keeps
    | with_reducible apply State.count_keeps
    | with_reducible apply State.hostFrozen_keeps
    | with_reducible apply State.poisoned_keeps
    | with_reducible apply State.stall_keeps
    | with_reducible apply State.wr_keeps
    | with_reducible apply State.writeBar4_keeps
    | with_reducible apply ite_keeps
    | simp only [keeps_mk_iff]
    | simp only [u, keeps_mk_iff]
    | with_reducible refine State.hostWrites_keeps ?_ _ _ _ _ _ (by assumption)
    | split
    | (dsimp only [u]; split)

theorem State.moveUnits_keeps {s : State} (h : Keeps base s) (k : Nat) (d : DmaDesc) (up dev lat : Nat) (l : List (Nat × Nat))
    (bs : List Nat) {out : List Nat} {bad : Bool} {t : State} (e : s.moveUnits k d up dev lat l bs = .ok (out, bad, t)) :
    Keeps base t := by
  induction l generalizing s up bs out bad t with
  | nil => cases e; exact h
  | cons g l ih =>
    have ha := State.access_keeps h (d.req k g.1 g.2 bs) up dev lat
    unfold State.moveUnits at e
    dsimp only at e
    split at e
    · cases e
    · next hs =>
      have ht := ha.2 _ _ _ hs
      split at e
      · cases e; exact ht
      · split at e
        · cases e
        · next hu => cases e; exact ih ht _ _ hu


theorem State.toHostMem_keeps {s : State} (h : Keeps base s) (a : Nat) (bs : List Nat) : Keeps base (State.toHostMem s a bs) := by
  unfold State.toHostMem
  repeat' first
    | with_reducible assumption
    | with_reducible apply ite_keeps
    | simp only [keeps_mk_iff]

theorem State.moveData_keeps {s : State} (h : Keeps base s) (k : Nat) (d : DmaDesc) (n : Nat) (data : List Nat)
    (up dev lat : Nat) {bad : Bool} {t : State} (e : s.moveData k d n data up dev lat = .ok (bad, t)) : Keeps base t := by
  unfold State.moveData at e
  split at e
  · cases e
  · next hu =>
    cases e
    exact State.toHostMem_keeps (State.moveUnits_keeps (by simpa only [keeps_mk_iff] using h) _ _ _ _ _ _ _ hu) _ _


theorem State.descFinish_keeps {s : State} (h : Keeps base s) (k : Nat) (d : DmaDesc) : Keeps base (State.descFinish s k d) := by
  unfold State.descFinish
  repeat' first
    | with_reducible assumption
    | ((fail_if_no_progress extract_lets +onlyGivenNames u); first | (refine cut (p := Keeps base u) ?_ (fun hu => ?_); rotate_left; clear_value u; rotate_right) | (refine cut (p := Keeps base u.1) ?_ (fun hu => ?_); rotate_left; clear_value u; rotate_right) | (refine cut (p := Keeps base u.2) ?_ (fun hu => ?_); rotate_left; clear_value u; rotate_right) | (have := u.srcs; clear this; dsimp only [u]; clear u) | (have := fun x => u x; clear this) | clear_value u)
    | with_reducible apply State.count_keeps
    | with_reducible apply State.dmaEnd_keeps
    | with_reducible apply State.toHostMem_keeps
    | with_reducible apply State.wr_keeps
    | with_reducible apply ite_keeps

theorem State.descriptorDone_keeps {s : State} (h : Keeps base s) (k : Nat) (desc data : List Nat) (ok : Bool) (up dev lat : Nat) : Keeps base (State.descriptorDone s k desc data ok up dev lat) := by
  unfold State.descriptorDone
  repeat' first
    | with_reducible assumption
    | ((fail_if_no_progress extract_lets +onlyGivenNames u); first | (refine cut (p := Keeps base u) ?_ (fun hu => ?_); rotate_left; clear_value u; rotate_right) | (refine cut (p := Keeps base u.1) ?_ (fun hu => ?_); rotate_left; clear_value u; rotate_right) | (refine cut (p := Keeps base u.2) ?_ (fun hu => ?_); rotate_left; clear_value u; rotate_right) | (have := u.srcs; clear this; dsimp only [u]; clear u) | (have := fun x => u x; clear this) | clear_value u)
    | with_reducible apply State.descFinish_keeps
    | with_reducible apply State.dmaEnd_keeps
    | with_reducible apply State.stall_keeps
    | with_reducible apply ite_keeps
    | simp only [keeps_mk_iff]
    | simp only [u, keeps_mk_iff]
    | with_reducible refine State.moveData_keeps ?_ _ _ _ _ _ _ _ (by assumption)
    | split
    | (dsimp only [u]; split)

theorem execDescriptorDone_runs (k : Nat) (desc data : List Nat) (ok : Bool) (up dev lat : Nat) (s : State) : Runs s (execDescriptorDone k desc data ok up dev lat s) := by
  unfold execDescriptorDone
  repeat' first
    | with_reducible exact Keeps.refl _
    | with_reducible assumption
    | with_reducible apply ite_runs
    | with_reducible apply Runs.next
    | with_reducible apply State.descriptorDone_keeps
    | with_reducible apply ite_keeps

theorem State.movePart_keeps {s : State} (h : Keeps base s) (k n : Nat) (desc data : List Nat) : Keeps base (State.movePart s k n desc data) := by
  unfold State.movePart
  repeat' first
    | with_reducible assumption
    | ((fail_if_no_progress extract_lets +onlyGivenNames u); first | (refine cut (p := Keeps base u) ?_ (fun hu => ?_); rotate_left; clear_value u; rotate_right) | (refine cut (p := Keeps base u.1) ?_ (fun hu => ?_); rotate_left; clear_value u; rotate_right) | (refine cut (p := Keeps base u.2) ?_ (fun hu => ?_); rotate_left; clear_value u; rotate_right) | (have := u.srcs; clear this; dsimp only [u]; clear u) | (have := fun x => u x; clear this) | clear_value u)
    | with_reducible apply ite_keeps
    | simp only [keeps_mk_iff]
    | simp only [u, keeps_mk_iff]
    | with_reducible refine State.moveData_keeps ?_ _ _ _ _ _ _ _ (by assumption)
    | split
    | (dsimp only [u]; split)

theorem State.moveParts_keeps {s : State} (h : Keeps base s) (parts : List (Nat × Nat × List Nat × List Nat)) : Keeps base (State.moveParts s parts) := by
  unfold State.moveParts
  repeat' first
    | with_reducible assumption
    | with_reducible apply State.movePart_keeps
    | with_reducible apply ite_keeps
    | with_reducible apply foldl_keeps
    | intro t x ht

theorem execDmaStop_runs (k n : Nat) (desc data : List Nat) (s : State) : Runs s (execDmaStop k n desc data s) := by
  unfold execDmaStop
  repeat' first
    | with_reducible exact Keeps.refl _
    | with_reducible assumption
    | with_reducible apply ite_runs
    | with_reducible apply Runs.next
    | with_reducible apply State.atReg_keeps
    | with_reducible apply State.dmaStop_keeps
    | with_reducible apply State.movePart_keeps
    | with_reducible apply ite_keeps
    | intro t x ht
    | intro t ht
    | dsimp only

theorem execLinkDown_runs (parts : List (Nat × Nat × List Nat × List Nat)) (s : State) : Runs s (execLinkDown parts s) := by
  unfold execLinkDown
  repeat' first
    | with_reducible exact Keeps.refl _
    | with_reducible assumption
    | with_reducible apply Runs.next
    | with_reducible apply State.linkDown_keeps
    | with_reducible apply State.moveParts_keeps

theorem execD3hot_runs (parts : List (Nat × Nat × List Nat × List Nat)) (s : State) : Runs s (execD3hot parts s) := by
  unfold execD3hot
  repeat' first
    | with_reducible exact Keeps.refl _
    | with_reducible assumption
    | with_reducible apply Runs.next
    | with_reducible apply State.d3hot_keeps
    | with_reducible apply State.moveParts_keeps

theorem execPerstAssert_runs (parts : List (Nat × Nat × List Nat × List Nat)) (s : State) : Runs s (execPerstAssert parts s) := by
  unfold execPerstAssert
  repeat' first
    | with_reducible exact Keeps.refl _
    | with_reducible assumption
    | with_reducible apply Runs.next
    | with_reducible apply State.moveParts_keeps
    | with_reducible apply State.perstAssert_keeps

end Sys2Proof.Machine
end

