-- ==== Sys2Proof/Machine/Package.lean ====
section
/-! DEFINITION. Where the signals lie on the package (R528 to R531) and how the device is ordered and marked (R533). -/

namespace Sys2Proof.Machine

/-- R528: a ball by its row, 1 to 69, and its column, 1 to 69. -/
structure Ball where
  row : Nat
  col : Nat
  deriving DecidableEq, Repr

/-- R528: the letters of rows 1 to 19; the rows from 20 on take them behind A, B and C. -/
def rowLetters : List Char := ['A', 'B', 'C', 'D', 'E', 'F', 'G', 'H', 'J', 'K', 'L', 'M', 'N', 'P', 'T', 'U', 'V', 'W', 'Y']

/-- R528: the letters of row `n`. -/
def rowName (n : Nat) : List Char :=
  let last := (rowLetters[(n - 1) % 19]?).toList
  match (n - 1) / 19 with
  | 0 => last
  | 1 => 'A' :: last
  | 2 => 'B' :: last
  | _ => 'C' :: last

/-- R528: the nine positions of the grid that carry no ball. -/
def noBall : List Ball := [⟨1, 1⟩, ⟨1, 2⟩, ⟨1, 3⟩, ⟨2, 1⟩, ⟨2, 2⟩, ⟨3, 1⟩, ⟨1, 69⟩, ⟨69, 1⟩, ⟨69, 69⟩]

/-- R528: the grid has a ball here. -/
def Ball.exists_ (b : Ball) : Bool :=
  decide (1 ≤ b.row ∧ b.row ≤ 69 ∧ 1 ≤ b.col ∧ b.col ≤ 69) && !noBall.contains b

/-- R529: the ball of DUT pin DPp, `p` below 1,024. -/
def dutBall (p : Nat) : Ball :=
  let k := p % 256 / 32
  ⟨if p / 256 < 2 then 1 + 2 * k else 69 - 2 * k, (if p / 256 % 2 = 0 then 4 else 36) + p % 32⟩

/-- R530: the ball of signal `s`, 0 to 138, of DDR5 channel `r`. -/
def ddrBall (r s : Nat) : Ball := ⟨18 + s % 35, [1, 9, 54, 62].getD r 1 + 2 * (s / 35)⟩

/-- R531: the ball of general-purpose pin GPn, `n` below 96. -/
def gpioBall (n : Nat) : Ball := ⟨20 + n % 32, 18 + 2 * (n / 32)⟩

/-- R531: the balls of PETp, PETn, PERp and PERn of lane `k`. -/
def pcieBalls (k : Nat) : List Ball := [⟨20 + 3 * k, 48⟩, ⟨20 + 3 * k, 49⟩, ⟨20 + 3 * k, 51⟩, ⟨20 + 3 * k, 52⟩]

end Sys2Proof.Machine
end

