-- ==== Sys2Proof/Tests/Slice0.lean ====
section
/-! SUPPORT. The model's own tests: ill-formed commands are refused by `Instr.wf`, a few single steps against the worked
examples of the spec, and a witness for the hypotheses of each statement. -/

namespace Sys2Proof.Tests

open Sys2Proof Sys2Proof.Machine

set_option maxRecDepth 4000

/-! ### Well-formedness: one ill-formed term for each bound that `Instr.wf` checks -/

theorem test_illFormed_1 :
    (([.registerWrite 62 0 4 0, .registerWrite 0 0 5 0, .requestIssue 68 0 0 0 0 0 0 [] false, .requestIssue 0 0 0 4 0 0 0 [] false,
      .linkReplay 292 0 0 ⟨0, 0, 0⟩, .linkReplay 0 68 0 ⟨0, 0, 0⟩, .berthGrantWrite 0 0 15 0 0, .fetch 256 [],
      .syncRelease 256, .tsetApply 256, .prime 0 4, .armDescriptor 0 4,
      .psmWrite 0 64 0 0, .gangWrite 4 0 0, .clockSourceSwitch 32, .apgWrite 0 65536 0 0,
      .levelSetWrite 0 0 2 0 0 0, .levelSetWrite 0 0 0 3 0 0, .trimWrite 0 0 8 0 0, .timTabWrite 0 64 0 0 0,
      .timTabWrite 0 0 2 0 0, .refWindow 2 0, .fabCondition 0 13 false, .mprWrite 0 62 0 0 0 0] : List Instr).all fun i => !i.wf) = true := by decide

theorem test_illFormed_2 :
    (([.mprWrite 0 0 16 0 0 0, .mprWrite 0 0 0 2 0 0, .ddrLinkError 0 2 0, .lupd 4 ⟨0, 0, 0⟩ 0 0 0,
      .digest 0 64, .sourceInput 2048 false, .acknowledge 4 0 (false, []) false, .hostRead 6 0 0 0 0 0,
      .convoyFrame 256 0 0 false, .convoyFrame 0 256 0 false, .convoyFrame 0 0 256 false,
      .linkUp 1 6 4, .linkUp 6 1 4, .linkUp 1 1 3, .msixUnmask 8 0, .msixUnmask 0 64, .portBAccess 0 8192 0 0 0 false, .zeroise (2, false), .funcWrite 96 0 0, .outSet 3 0,
      .serialGo 8 0, .uartRx 2 0 false, .shadowMismatch 293 false, .supplyExcursion 13,
      .lockstepMismatch 5 false, .sliceGo 256 0 0, .ageLate 8 0] : List Instr).all fun i => !i.wf) = true := by decide

theorem test_wellFormed : (([.outSet 2 5, .fetch 255 [], .registerWrite 61 0 8 0, .hostRead 5 0 0 0 0 0] : List Instr).all Instr.wf) = true := by
  decide

/-- The table gives no row a word, so no word spells a command. -/
theorem test_noWords : decodeTableWord 8 0 = none ∧ State.reset.withFetchWord 8 0 = State.reset := by decide

/-! ### Worked examples of the spec -/

/-- Reset with registers written. -/
def st (l : List (Fld × Nat)) : State := State.reset.wrs l

/-- 23_register_index.md, "Decoding an address": LDG.CVST of the caravan of cell 148, and APG.CFG of block 22. -/
theorem test_decodeAddress : (LDG.CVST_DRAIN_DONE 2 20).addr = 0x32812A0 ∧ (LDG.CVST_DRAIN_DONE 2 20).lsb = 0 ∧
    ((regAt 0x32812A0).map fun r => (r.k, r.i)) = some (2, 20) ∧ (APG.CFG_AFUNC 22).addr = 0x1B10400 ∧
    ((regAt 0x1B10400).map fun r => r.k) = some 22 := by decide

/-- The same example: 0x1B4_0000 lies in a window and reads zero; 0x340_0000 lies in none. -/
theorem test_holesAndWindows : regAccessOk 0x1B40000 8 = true ∧ (State.reset.readReg 0x1B40000 8).1 = 0 ∧
    regAccessOk 0x3400000 8 = false := by decide

/-- 15_life_cycle_debug_and_freeze.md, "the TEST state as stored": word 0 of slot 2 of copy 1. -/
theorem test_slotPattern : (slotPattern 1 2).getD 0 0 = 0xA55A0001024C435354 := by decide

/-- The settings of the 4 by 4 checkerboard of 05_algorithmic_pattern_generator.md, block 1, X and Y as given. -/
def board (x y : Nat) : State :=
  st [(APG.X_LIM_VALUE 1, 3), (APG.Y_LIM_VALUE 1, 3), (APG.X_IDX_VALUE 1, x), (APG.Y_IDX_VALUE 1, y), (APG.CFG_AFUNC 1, 1),
    (APG.CFG_XEN 1, 1), (APG.CFG_CY 1, 1), (APG.TMASK_VALUE 1, 2), (apgPermF 1 0, 20), (apgPermF 1 1, 21), (apgPermF 1 2, 0),
    (apgPermF 1 3, 1), (apgXselF 1 0, 1), (APG.XTAB_MASK 1 1, 1)]

/-- Body stride 9: row 2, column 0 gives A = 0x9 and data 1. -/
theorem test_checkerboardStride9 : Nat.land ((board 2 0).scrambled 1 ((board 2 0).apg 1)) 15 = 9 ∧
    Nat.land (((board 2 0).apg 1).dataOut 0) 15 = 15 := by decide

/-- Body stride 16: A = 0xE, data 1, and the step wraps Y and X, sets END and comes back to (0, 0). -/
theorem test_checkerboardStride16 : Nat.land ((board 3 3).scrambled 1 ((board 3 3).apg 1)) 15 = 14 ∧
    Nat.land (((board 3 3).apg 1).dataOut 0) 15 = 15 ∧
    (let t := ((board 3 3).apg 1).step 3; (t.x.idx, t.y.idx, t.wx, t.wy, t.wz, t.fin)) = (0, 0, true, true, false, true) := by
  decide

/-- Account 0x0100 of 09_fail_ledger.md, "allocation of one account", after its five failures. -/
def deadRows : Acct :=
  ([(0x100, 0x10), (0x100, 0x11), (0x100, 0x12), (0x200, 0x10), (0x300, 0x40)] : List (Nat × Nat)).foldl
    (fun a f => a.update f.1 f.2) (Acct.ofWords [0x0122001D, 0, 0, 0, 0, 0, 0, 0])

theorem test_accountAfterFailures : deadRows.matrix = 0x80107 ∧ deadRows.rmust = 1 ∧ deadRows.unrep = false ∧
    deadRows.rows.take 3 = [(0x100, 3), (0x200, 1), (0x300, 1)] ∧
    deadRows.cols.take 4 = [(0x10, 2), (0x11, 1), (0x12, 1), (0x40, 1)] ∧ acctAddr 2 0x100 = 0x49008000 := by decide

/-- The row sets of the example's table, and the words that the chosen one leaves. -/
theorem test_accountSolution : deadRows.fits 1 = true ∧ deadRows.needCols 1 = 9 ∧ deadRows.needCols 3 = 8 ∧
    deadRows.needCols 5 = 1 ∧ deadRows.solKey 1 < deadRows.solKey 3 ∧ deadRows.solKey 1 < deadRows.solKey 5 ∧
    (let ws := ({ deadRows with rsel := 1, csel := 9, result := 2 } : Acct).putWords [0x0122001D, 0, 0, 0, 0, 0, 0, 0]
     (ws.getD 0 0, ws.getD 2 0)) = (0x00090100014122001D, 0x100300100200300100) := by decide

/-- R469: OUT_CLR clears only the bits written with 1. -/
theorem test_outClr : ∃ t, exec (.outClr 1 5) (st [(GPIO.OUT_OUT 1, 0xF)]) = .next t ∧ t.rd (GPIO.OUT_OUT 1) = 0xA :=
  ⟨_, rfl, by decide⟩

/-- R515: CHIP_RESET takes only the key 0xB007. -/
theorem test_chipReset : (match exec (.chipReset 0xB007) { State.reset with rst := { RstX.reset with held := false } } with
      | .next t => t.rst.due | _ => none) = some 3 ∧
    (match exec (.chipReset 0xB008) { State.reset with rst := { RstX.reset with held := false } } with
      | .next t => t.rst.due | _ => none) = none := by decide

/-- R529's worked example, and R530's: DP0587 is CH15, DP0000 A4, DP1023 BV67, CK_t of subchannel B of channel 2 BJ60. -/
theorem test_balls : dutBall 587 = ⟨65, 15⟩ ∧ rowName 65 = ['C', 'H'] ∧ dutBall 0 = ⟨1, 4⟩ ∧ rowName 1 = ['A'] ∧
    dutBall 1023 = ⟨55, 67⟩ ∧ rowName 55 = ['B', 'V'] ∧ ddrBall 2 134 = ⟨47, 60⟩ ∧ rowName 47 = ['B', 'J'] ∧
    (gpioBall 0).row = 20 ∧ rowName 20 = ['A', 'A'] ∧ (gpioBall 95).row = 51 ∧ rowName 51 = ['B', 'N'] ∧ (gpioBall 95).col = 22 := by decide

/-! Witnesses of `Obligations.StepRunsFrontCommand`. -/

theorem witness_idle : State.reset.pending = [] := by decide

/-! Witnesses of `Obligations.StepKeepsCanonicalForm`. -/

theorem witness_canonical : State.reset.Canonical ∧ ∃ t, step State.reset = .next t :=
  ⟨⟨rfl, rfl, rfl, rfl, rfl, rfl, rfl, rfl, rfl, rfl, rfl⟩, _, rfl⟩

/-! Witnesses of `Obligations.MemberWords`. -/

/-- A caravan of cell 0 alone, RUNNING on a running clock in a powered block, whose sequencer holds word `w`, fetched
by PC from word 5 in service. -/
def issuing (w : Nat) (l : List (Fld × Nat)) : State :=
  (st ([(CEL.CARAVAN_EN 0, 1), (CEL.CARAVAN_LEAD 0, 0), (SEQ.STATUS_STATE 0, 2), (PLL.STATUS_CLK_RUN 0, 1),
    (SEQ.PC_PC 0, 5)] ++ l)).modCell 0 fun x => { x with word := some ⟨w, 5, false, .service, 16⟩ }
/-- A word of class `k` and opcode `op` with operand bits `x`. -/
def wordOf (k op x : Nat) : Nat := k * 2 ^ 70 + op * 2 ^ 64 + x
/-- The operand bits that the words of the member words' witness carry. -/
def memberOperands (op : Nat) : Nat :=
  if op = 0 then 0 else if op = 0x0B then 0x3A5 else if op = 0x0C then 0x8000 else if op = 0x28 then 5 * 2 ^ 28 + 1
  else if op = 0x27 then 7 * 2 ^ 32 + 0x200 else 7 * 2 ^ 32 + 0x201
theorem witness_member_words :
    ∀ op ∈ [0x00, 0x0B, 0x0C, 0x20, 0x21, 0x22, 0x23, 0x24, 0x25, 0x26, 0x27, 0x28],
      (issuing (wordOf 2 op (memberOperands op)) []).Issues 0 ⟨wordOf 2 op (memberOperands op), 5, false, .service, 16⟩ ∧
      isCtl (wordOf 2 op (memberOperands op)) op = true ∧ 0 ∈ (issuing (wordOf 2 op (memberOperands op)) []).members 0 := by
  decide

/-! Witnesses of `Obligations.FlowWords`. -/

theorem witness_flow : ∀ e ∈ ([(0x01, 0xFF, []), (0x02, 0x1FFF, []), (0x03, 0x2F1FFF, []), (0x04, 0x1FFF, [(SEQ.RSP_DEPTH 0, 7)]),
    (0x05, 0, [(SEQ.RSP_DEPTH 0, 8)]), (0x05, 0, [(SEQ.RSP_DEPTH 0, 1)]), (0x06, 2 ^ 32, [(SEQ.L_ACTIVE 0 2, 1)]), (0x06, 0, []),
    (0x06, 1, [(SEQ.L_ACTIVE 0 3, 1), (SEQ.L_COUNT 0 3, 1)]), (0x06, 1, [(SEQ.L_ACTIVE 0 0, 1)]),
    (0x06, 2, [(SEQ.L_ACTIVE 0 1, 1)])] : List (Nat × Nat × List (Fld × Nat))),
    (issuing (wordOf 2 e.1 e.2.1) e.2.2).Issues 0 ⟨wordOf 2 e.1 e.2.1, 5, false, .service, 16⟩ ∧
      isCtl (wordOf 2 e.1 e.2.1) e.1 = true := by decide

/-! Witnesses of `Obligations.QueueAndMarkWords`. -/

/-- Descriptor 0 of cell 0 is armed and active. -/
def primed : List (Fld × Nat) :=
  [(SEQ.RING_EN 0, 1), (SEQ.RING_HALF 0, 1), (SEQ.SD_LEN_LEN 0 0, 9), (SEQ.SD_CTRL_ARMED 0 0, 1), (SEQ.SD_CTRL_ACTIVE 0 0, 1),
    (SEQ.RING_STATUS_DMA_ACTIVE 0, 1)]
theorem witness_queue_words : ∀ e ∈ ([(0x0D, 0xFFFF, []), (0x0E, 2 ^ 40 - 1 + 2 ^ 42, primed), (0x0F, 0xFFFF0000, []),
    (0x0F, 0xFFFF0001, []), (0x0F, 2, []), (0x0F, 3, [])] : List (Nat × Nat × List (Fld × Nat))),
    (issuing (wordOf 2 e.1 e.2.1) e.2.2).Issues 0 ⟨wordOf 2 e.1 e.2.1, 5, false, .service, 16⟩ ∧
      isCtl (wordOf 2 e.1 e.2.1) e.1 = true := by decide
theorem witness_no_marks (w : Nat) : ((issuing w []).run 0).unresolved = [] ∧ ((issuing w []).run 0).marks = [] ∧
    ((issuing w []).run 0).stepping = false := ⟨rfl, rfl, rfl⟩
theorem witness_full_queue : ((issuing (wordOf 2 0x0D 1) []).modCell 0 fun x => { x with evq := List.replicate 8 1 }).Issues 0
    ⟨wordOf 2 0x0D 1, 5, false, .service, 16⟩ := by decide
/-- A bonded session of lead 0 over 16 bits, and a BOND word of one lane for one stride from its execute-only window. -/
def bonding : State :=
  { (issuing 0 [(PIN.CTRL_EN 0 0, 0)]).modCell 0 fun x => { x with word := some ⟨wordOf 2 0x10 (1 + 2 ^ 20), 5, false, .xo, 3⟩ } with
    bonds := [⟨0, 0, 3, 0, 0xFFFF, 16⟩] }
theorem witness_bond : bonding.Issues 0 ⟨wordOf 2 0x10 (1 + 2 ^ 20), 5, false, .xo, 3⟩ ∧
    (bonding.run 0).stepping = false := by decide
/-- A slot copy that is due. -/
def copying : State := (issuing 0 []).modCell 0 fun x => { x with loads := [⟨0, 7, 1, 2⟩] }
theorem witness_tset_apply : copying.enabled 0 = true ∧ copying.cvState 0 = stRunning ∧
    copying.clockRuns (blockOf 0) = true ∧
    ((copying.cell 0).loads.filter fun e => decide (e.due ≤ (copying.run (copying.leadOf 0)).sn)) = [⟨0, 7, 1, 2⟩] := by decide

/-! Witnesses of `Obligations.ApgWordAndRegisters`. -/

theorem witness_apg : ∀ x ∈ [0x21, 0x1 + 2 ^ 8 + 2 ^ 16],
    (issuing (wordOf 2 0x0A x) [(RGN.APG_OWN_V0 0, 1)]).Issues 0 ⟨wordOf 2 0x0A x, 5, false, .service, 16⟩ ∧
    isCtl (wordOf 2 0x0A x) 0x0A = true ∧
    ((issuing (wordOf 2 0x0A x) [(RGN.APG_OWN_V0 0, 1)]).apgHolder 0).any
      (issuing (wordOf 2 0x0A x) [(RGN.APG_OWN_V0 0, 1)]).busy = true ∧
    (∀ o ∈ [0, 0x200, 0x7FF8], State.reset.regOpen 0 (blockBase 31 + 0x10000 + o) = true) ∧
    (State.reset.apgHolder 31).any State.reset.busy = false ∧ bitOf (Nat.land 1 1) 0 = true := by decide

/-! Witnesses of `Obligations.ServiceWords`. -/

theorem witness_service_words : ∀ e ∈ ([(0x00, 0x55), (0x03, 0x1200), (0x03, 0xF0001), (0x01, 0x3F0000), (0x02, 0x30),
    (0x02, 1)] : List (Nat × Nat)),
    (issuing (wordOf 3 e.1 e.2) [(SEQ.RING_EN 0, 1), (SEQ.RING_HALF 0, 1), (SEQ.SD_LEN_LEN 0 3, 9),
      (SEQ.SD_CTRL_ARMED 0 3, 1)]).Issues 0 ⟨wordOf 3 e.1 e.2, 5, false, .service, 16⟩ ∧
      isSys (wordOf 3 e.1 e.2) e.1 = true := by decide
theorem witness_tload : (issuing (wordOf 3 0x01 0x3F0000) []).members 0 = [0] ∧
    (issuing (wordOf 3 0x01 0x3F0000) []).tloadBad 0 = none ∧
    (issuing (wordOf 3 0x01 0x3F0000) []).flag (SEQ.SC_LIMIT_EN 0) = false ∧
    (issuing 0 [(SEQ.SD_LEN_LEN 0 3, 9)]).descLeft 0 3 ≠ 0 ∧ (issuing 0 []).flag (SEQ.VOID_VOID 0) = false := by decide

/-! Witnesses of `Obligations.VectorStrides`. -/

theorem witness_vectors : ∀ e ∈ ([(0, 0, 0x2A, []), (1, 0, 3, []), (0, 0x05, 0, [(SEQ.L_ACTIVE 0 1, 1)])] : List (Nat × Nat × Nat × List (Fld × Nat))),
    (issuing (wordOf e.1 e.2.1 e.2.2.1) e.2.2.2).Issues 0 ⟨wordOf e.1 e.2.1 e.2.2.1, 5, false, .service, 16⟩ ∧
    wClass (wordOf e.1 e.2.1 e.2.2.1) = e.1 := by decide
theorem witness_lanes : (issuing 0 [(PIN.CTRL_EN 0 3, 1), (PIN.STATE_SAFE 0 3, 0)]).laneLive 0 3 = true ∧ State.reset.laneLive 0 0 = false ∧
    ((issuing 0 []).run 0).bondLeft = 0 := by decide
theorem witness_template : ∀ e ∈ ([(0, 0), (1, 0), (0, 3)] : List (Nat × Nat)),
    let s := (issuing (wordOf e.1 0 0) []).modRun 0 fun x => { x with phase := .matching 9 7 true e.2 }
    s.canStride 0 = true ∧ s.wordCauses 0 = [] ∧ s.atScLimit 0 = false ∧
      7 < (if e.2 = 0 then 9 else min 9 (e.2 + s.latency 0)) := by decide

/-! Witnesses of `Obligations.StrideResults`. -/

/-- A stride of cell 0 that expects a 1 on lane 0, UI 0, and masks the rest; a template where `k` is not 0. -/
def resolving (k : Nat) : State := (issuing 0 []).modRun 0 fun x =>
  { x with unresolved := [⟨4, 9, k, false, 0, 0, false, [⟨0, 1, true, 0xAAAAAAAAAAAAAAA9, 0, 0, 0, 0, 0, 0⟩]⟩] }
theorem witness_resolve : (resolving 0).frozen = false ∧ ((resolving 0).run 0).unresolved.length = 1 ∧
    (((resolving 0).run 0).unresolved.all fun v => (v.cells.map (·.cell)) == [0] && v.tmpl == 0) = true ∧
    failBits 0xAAAAAAAAAAAAAAA9 0 0 ≠ 0 ∧ failBits 0xAAAAAAAAAAAAAAA9 0 2 = 0 ∧
    (((resolving 3).run 0).unresolved.all fun v => v.tmpl == 3) = true := by decide

/-! Witnesses of `Obligations.FetchesAndLimits`. -/

/-- The caravan of cell 0, RUNNING, before a fetch. -/
def fetching (l : List (Fld × Nat)) : State := (issuing 0 l).modCell 0 fun x => { x with word := none }
theorem witness_fetch : (fetching []).canFetch 0 = true ∧ (fetching []).streaming 0 = false ∧
    (∀ c ∈ (fetching []).members 0, (fetching []).eccOf (padBase c + 16 * (fetching []).fetchAddr 0 c) 0 = 0) ∧
    (fetching []).flag (SEQ.BKPT_EN 0 0) = false ∧ (fetching []).flag (SEQ.BKPT_EN 0 1) = false ∧
    2 ≤ (fetching []).eccOf (padBase 0 + 16 * (fetching []).fetchAddr 0 0) (look [(0, 2)] 0 % 4) := by decide
/-- The same caravan, streaming from a ring that is empty, with words left to write where `d` is 1. -/
def dry (d : Nat) : State := fetching [(SEQ.STATUS_STREAMING 0, 1), (SEQ.STREAM_LEFT_WORDS 0, 9), (SEQ.RING_EN 0, 1),
  (SEQ.SD_LEN_LEN 0 0, 9), (SEQ.RING_STATUS_DMA_ACTIVE 0, d)]
theorem witness_dry : (dry 0).canFetch 0 = true ∧ (dry 0).streaming 0 = true ∧ (dry 0).dryMembers 0 ≠ [] ∧
    (dry 0).atScLimit 0 = false ∧ ((dry 0).run 0).phase = .ready ∧ (dry 1).canStride 0 = true ∧
    ((dry 1).cell 0).word = none ∧ (dry 1).dryMembers 0 = [] ∧ (dry 1).underrunNow 0 = true ∧
    (dry 1).atScLimit 0 = false ∧ ((dry 1).run 0).pause = false := by decide
theorem witness_sc_limit : (issuing (wordOf 2 0 0) [(SEQ.SC_LIMIT_EN 0, 1)]).atScLimit 0 = true ∧
    (issuing (wordOf 2 0 0) [(SEQ.SC_LIMIT_EN 0, 1)]).isLead 0 = true ∧
    (issuing (wordOf 2 0 0) [(SEQ.SC_LIMIT_EN 0, 1)]).wordCauses 0 = [] := by decide

/-! Witnesses of `Obligations.WaitWords`. -/

theorem witness_waits : ∀ e ∈ ([(3, []), (5 * 2 ^ 32, []), (5 * 2 ^ 32 + 9, [(SEQ.STATUS_EVT 0, 1)])] : List (Nat × List (Fld × Nat))),
    (issuing (wordOf 2 0x08 e.1) e.2).Issues 0 ⟨wordOf 2 0x08 e.1, 5, false, .service, 16⟩ ∧
    isCtl (wordOf 2 0x08 e.1) 0x08 = true ∧ (issuing (wordOf 2 0x08 e.1) e.2).flag (SEQ.SC_LIMIT_EN 0) = false := by decide
/-- A WAIT in progress. -/
def waiting (p : Phase) : State := (issuing (wordOf 2 0x08 3) []).modRun 0 fun x => { x with phase := p }
theorem witness_wait_goes_on : ∀ p ∈ [Phase.waitTime 2, Phase.waitCond 2 5],
    (waiting p).canStride 0 = true ∧ ((waiting p).run 0).phase = p ∧ (waiting p).flag (SEQ.STATUS_EVT 0) = false ∧
    ((waiting p).cell 0).word.any (·.ring) = false := by decide

/-! Witnesses of `Obligations.MatchWords`. -/

theorem witness_match : (issuing (wordOf 2 0x07 (9 + 2 ^ 32)) []).Issues 0 ⟨wordOf 2 0x07 (9 + 2 ^ 32), 5, false, .service, 16⟩ ∧
    isCtl (wordOf 2 0x07 9) 0x07 = true := by decide
theorem witness_match_ends : ∀ p ∈ [Phase.draining true 0, Phase.draining false 3, Phase.matching 8 8 true 0,
    Phase.matching 8 8 true 3, Phase.matching 8 7 true 1],
    (waiting p).canStride 0 = true ∧ ((waiting p).run 0).phase = p ∧ ((waiting p).run 0).unresolved = [] ∧
    (waiting p).latency 0 = 6 ∧ ((waiting p).cell 0).word.any (·.ring) = false ∧
    (waiting p).flag (SEQ.SC_LIMIT_EN 0) = false := by decide

/-! Witnesses of `Obligations.Barriers`. -/

theorem witness_sync : (issuing (wordOf 2 0x09 255) [(RGN.SGRP_MASK 0 255, 1)]).Issues 0
      ⟨wordOf 2 0x09 255, 5, false, .service, 16⟩ ∧ isCtl (wordOf 2 0x09 255) 0x09 = true ∧
    State.reset.groupComplete 0 = false ∧ State.reset.flag CVY.STATUS_FLAG_OUT = false ∧
    (State.reset.allLeads.filter fun l => State.reset.releasePending l && State.reset.clockRuns (blockOf l)) = [] := by decide
/-- Lead 0 has arrived at group 7 of which it is the only member. -/
def arrived (sw : Bool) : State :=
  (issuing (wordOf 2 0x09 7) [(RGN.SGRP_MASK 0 7, 1), (RGN.SGARR_ARRIVED 0 7, 1)]).modRun 0 fun x =>
    { x with phase := .atSync 7 false sw false true }
theorem witness_release : ∀ sw ∈ [false, true], (arrived sw).canStride 0 = true ∧ (arrived sw).groupComplete 7 = true ∧
    (∀ r, r < 4 → ((arrived sw).region r).cvArrived = []) ∧ (arrived sw).arrivedAt 7 = [0] ∧ (arrived sw).isLead 0 = true ∧
    ((arrived sw).run 0).phase = .atSync 7 false sw false true ∧ (arrived sw).clockRuns (blockOf 0) = true ∧
    ((arrived sw).cell 0).word.any (·.ring) = false ∧ (arrived sw).atScLimit 0 = false := by decide
theorem witness_released : (waiting (.released 9 3 false)).canStride 0 = true ∧
    ((waiting (.released 9 3 false)).run 0).phase = .released 9 3 false ∧
    ((waiting (.released 9 3 false)).cell 0).word.any (·.ring) = false ∧
    (waiting (.released 9 3 false)).flag (SEQ.SC_LIMIT_EN 0) = false := by decide
theorem witness_release_leads : ((arrived true).allLeads.filter fun k =>
    (arrived true).releasePending k && (arrived true).clockRuns (blockOf k)) = [] ∧
    ((arrived false).allLeads.filter fun k =>
    (arrived false).releasePending k && (arrived false).clockRuns (blockOf k)) = [] := by decide
theorem witness_sgrp : ((List.range 64).any fun i => bitOf ((arrived true).rd (RGN.SGRP_MASK 0 7)) i &&
      !bitOf ((arrived true).merged (RGN.SGRP_MASK 0 7) 1 0) i && (arrived true).waitsAt (64 * 0 + i) 7) = true ∧
    (arrived true).regOpen 0 (RGN.SGRP_MASK 0 7).addr = true ∧ State.reset.regOpen 0 (RGN.SGRP_MASK 3 255).addr = true ∧
    ((List.range 64).any fun i => bitOf (State.reset.rd (RGN.SGRP_MASK 3 255)) i &&
      !bitOf (State.reset.merged (RGN.SGRP_MASK 3 255) 0 0) i && State.reset.waitsAt (64 * 3 + i) 255) = false ∧
    (State.reset.wr (RGN.SGRP_MASK 3 255) (State.reset.merged (RGN.SGRP_MASK 3 255) 0 0)).groupComplete 255 = false := by
  decide

/-! Witnesses of `Obligations.SequencerCommands`. -/

/-- A caravan of cell 0 in state `v`, its PLL locked, its pins out of the safe state. -/
def commanded (v : Nat) : State := st ([(CEL.CARAVAN_EN 0, 1), (CEL.CARAVAN_LEAD 0, 0), (SEQ.STATUS_STATE 0, v),
  (PLL.STATUS_CLK_RUN 0, 1), (PLL.STATUS_STATE 0, 2), (PWR.DOMAINS_BLK_ON, 1), (TIM.UI_UI 0, 1)] ++
  (List.range 4).map fun n => (PIN.STATE_SAFE 0 n, 0))
theorem witness_commands : ∀ v ∈ [0, 1, 2, 3], (commanded v).regOpen 0 (SEQ.CMD_OP 0).addr = true ∧
    (commanded v).flag (SEQ.CMD_STATUS_PEND 0) = false ∧ (commanded v).clockPaused (blockOf 0) = false ∧
    (commanded v).isLead 0 = true ∧ (commanded v).cvState 0 = v ∧ (((commanded v).seqTouch 0).boundaryCauses 0).2 = [] := by decide
theorem witness_resume : (commanded 3).MayResume 0 ∧ ¬ (commanded 2).MayResume 0 ∧
    (commanded 3).xowOf 0 ((commanded 3).rd (SEQ.PC_PC 0)) = none := by decide
theorem witness_start : ((commanded 3).wrs [(SEQ.CFG_STRIDE_UI 0, 4)]).MayStart 0 ∧
    ((commanded 3).wrs [(SEQ.CFG_STRIDE_UI 0, 4)]).StartArgs 0 ∧ ¬ ((commanded 3).wrs [(SEQ.CFG_STRIDE_UI 0, 0)]).StartArgs 0 ∧
    ¬ (commanded 2).MayStart 0 := by decide

/-! Witnesses of `Obligations.SequencerMarksAndRings`. -/

theorem witness_ring_commands : (commanded 3).flag (SEQ.VOID_VOID 0) = false ∧
    (let s := (commanded 3).wrs [(SEQ.SD_CTRL_ARMED 0 3, 1), (SEQ.SD_LEN_LEN 0 3, 1)]
     s.flag (SEQ.SD_CTRL_ARMED 0 3) = true ∧ s.descLeft 0 3 ≠ 0 ∧ s.flag (SEQ.RING_STATUS_DMA_ACTIVE 0) = false) ∧
    (commanded 3).flag (SEQ.STATUS_STREAMING ((commanded 3).leadOf 0)) = false ∧
    ((commanded 3).wr DBG.FRZ_STATUS_FROZEN 1).clockPaused (blockOf 0) = true ∧
    (commanded 3).flag (SEQ.SD_CTRL_ARMED 0 3) = false ∧ (commanded 3).rd (SEQ.SD_LEN_LEN 0 3) = 0 ∧
    (commanded 3).cellBusy 0 = false ∧ (commanded 2).cellBusy 0 = true ∧
    (commanded 3).merged (SEQ.RING_EN 0) 1 1 ≠ (commanded 3).rd (SEQ.RING_EN 0) ∧
    (∀ n, n < 4 → (commanded 3).flag (CEL.XOW_VALID 0 n) = false) ∧
    ((commanded 3).wr DBG.FRZ_STATUS_FROZEN 1).frozen = true := by decide
/-- A stream DMA with one word left to bring from Oasis RAM into an empty ring of cell 0 in region 0. -/
def refilling : State := (commanded 3).wrs [(SEQ.RING_EN 0, 1), (SEQ.SD_CTRL_ARMED 0 0, 1), (SEQ.SD_LEN_LEN 0 0, 1),
  (SEQ.RING_STATUS_DMA_ACTIVE 0, 1), (SEQ.SD_ADDR_ADDR 0 0, 0x2100000), (MPR.BASE_EN 13 0, 1), (MPR.BASE_R 13 0, 1),
  (MPR.LIMIT_LIMIT 13 0, 0xFFFFF), (NOC.BERTH_GRANT 13 13, 1)]
theorem witness_refill :
    (let r := refilling.refillRead 0 0 0 0 (upTo (min 1 64) (groupsOf 16 73 (16 * (refilling.rd (SEQ.SD_ADDR_ADDR 0 0) +
        (refilling.cell 0).sdRead.getD 0 0)) (min (refilling.descLeft 0 0) 72)))
     r.words = [0] ∧ r.bad = false) ∧ refilling.rd (SEQ.RING_STATUS_DMA_DESC 0) = 0 ∧
    refilling.frozen = false ∧ refilling.ringLevel 0 ≤ 4032 := by decide

/-! Witnesses of `Obligations.SequencerAndCaravanRegisters`. -/

theorem witness_open_cell : ∀ a ∈ [(SEQ.NEXT_PC_ADDR 255).addr, (SEQ.EVT_SET 0).addr, (SEQ.EVQ_CODE 7).addr, (SEQ.PSM_ENTRIES 200 7).addr,
    (CEL.CARAVAN_CID 255).addr, (RGN.GANG_GID0 3).addr, (apgLeadF 0 0).addr, (SEQ.SD_CTRL_ARMED 9 3).addr, (SEQ.RING_EN 1).addr],
    State.reset.regOpen 0 a = true := by decide
theorem witness_evq : ((State.reset.modCell 0 fun x => { x with evq := [7, 8] }).cell 0).evq = [7, 8] ∧
    (State.reset.cell 255).evq = [] ∧ (commanded 2).isLead 0 = true ∧ State.reset.isLead 255 = false := by decide
theorem witness_caravan_write : State.reset.merged (CEL.CARAVAN_SITE 3) (2 ^ 64 - 1) 0xFF00 ≠ State.reset.rd (CEL.CARAVAN_SITE 3) ∧
    State.reset.merged (CEL.CARAVAN_CID 3) 0xFF00 0xFF00 = State.reset.rd (CEL.CARAVAN_CID 3) ∧
    State.reset.merged (CEL.CARAVAN_EN 3) 0xFF00 0xFF00 = State.reset.rd (CEL.CARAVAN_EN 3) ∧
    State.reset.cellBusy 3 = false ∧ State.reset.enabled 255 = false ∧
    State.reset.merged (CEL.CARAVAN_EN 255) (2 ^ 64 - 1) (2 ^ 64 - 1) = 1 ∧ State.reset.sharing 3 255 255 = [] ∧
    State.reset.cidElsewhere 3 255 = false ∧ (commanded 2).cellBusy 0 = true ∧
    (commanded 2).merged (CEL.CARAVAN_CID 0) 255 9 ≠ (commanded 2).rd (CEL.CARAVAN_CID 0) := by decide
/-- A RUNNING caravan of cell 8. -/
def inBlock1 : State := st [(CEL.CARAVAN_EN 8, 1), (CEL.CARAVAN_LEAD 8, 8), (SEQ.STATUS_STATE 8, 2)]
theorem witness_gangs : (List.range 8).filter (fun k => sourceUnder ((List.range 8).map fun j =>
      State.reset.merged (gidF 3 j) 0 0) 3 k != State.reset.gangSource (8 * 3 + k)) = [] ∧
    ((List.range 8).any fun k => sourceUnder ((List.range 8).map fun j =>
      inBlock1.merged (gidF 0 j) 7 1) 0 k != inBlock1.gangSource (8 * 0 + k) && inBlock1.blockBusy (8 * 0 + k)) = true ∧
    ((List.range 8).any fun k => (((commanded 2).wr (apgValidF 0 0) 1).merged (apgLeadF 0 k) 63 1 != ((commanded 2).wr (apgValidF 0 0) 1).rd (apgLeadF 0 k) ||
      ((commanded 2).wr (apgValidF 0 0) 1).merged (apgValidF 0 k) 63 1 != ((commanded 2).wr (apgValidF 0 0) 1).rd (apgValidF 0 k)) &&
        (((commanded 2).wr (apgValidF 0 0) 1).apgHolder (8 * 0 + k)).any ((commanded 2).wr (apgValidF 0 0) 1).busy) = true := by decide
theorem witness_idle_cells : ∀ c, c < 256 → State.reset.busy c = false := by
  intro c h; simp [State.busy, State.cvState, State.rd, Tab.get, State.reset]

/-! Witnesses of `Obligations.LaneControl`. -/

/-- Lane 1 of cell 3, enabled, out of the safe state and not marked unused. -/
def lane : State := st [(PIN.CTRL_EN 3 1, 1), (PIN.STATE_SAFE 3 1, 0), (PIN.CTRL_UNUSED 3 1, 0), (PIN.STATE_CAL_SRC 3 1, 1),
  (PWR.DOMAINS_BLK_ON, 1)]
/-- The same lane in the safe state. -/
def laneSafe : State := lane.wrs [(PIN.CTRL_EN 3 1, 0), (PIN.STATE_SAFE 3 1, 1)]
theorem witness_lane_enable : laneSafe.bst.run = none ∧
    laneSafe.merged (PIN.CTRL_TERM 3 1) (setBit 0 0) (setBit 0 0) ≠ 3 ∧
    laneSafe.merged (PIN.CTRL_STAT 3 1) (setBit 0 0) (setBit 0 0) ≠ 2 ∧ laneSafe.flag (PIN.CTRL_EN 3 1) = false ∧
    laneSafe.flag (PIN.STATE_SAFE 3 1) = true ∧ laneSafe.cellBusy 3 = false ∧
    laneSafe.merged (PIN.CTRL_UNUSED 3 1) (setBit 0 0) (setBit 0 0) = 0 ∧ laneSafe.rd LC.STATE_STATE ≠ 7 ∧
    laneSafe.regOpen 0 (PIN.CTRL_EN 3 1).addr = true ∧ CalRun.block (blockOf 3) ∉ laneSafe.cal ∧
    laneSafe.rd (PIN.STATE_CAL_SRC 3 1) = 1 := by decide
theorem witness_lane_disable : lane.regOpen 0 (PIN.CTRL_EN 3 1).addr = true ∧ lane.flag (PIN.CTRL_EN 3 1) = true ∧ lane.cellBusy 3 = false ∧
    lane.merged (PIN.CTRL_TERM 3 1) (setBit 0 0) (clearBit 0 0) ≠ 3 ∧ lane.rd (PIN.PMU_MODE 3 1) = 0 ∧
    lane.merged (PIN.CTRL_STAT 3 1) (setBit 0 0) (clearBit 0 0) ≠ 2 ∧
    lane.flag (PIN.STATE_SAFE 3 1) = false ∧ bitOf (lane.cell 3).entering 1 = false := by decide
theorem witness_static_drive : lane.merged (PIN.CTRL_TERM 3 1) (setBit 0 6) (setBit 0 6) ≠ 3 ∧
    lane.merged (PIN.CTRL_STAT 3 1) (setBit 0 6) (setBit 0 6) ≠ 2 ∧ lane.merged (PIN.CTRL_EN 3 1) (setBit 0 6) (setBit 0 6) = 1 ∧
    lane.merged (PIN.CTRL_UNUSED 3 1) (setBit 0 6) (setBit 0 6) = 0 := by decide
theorem witness_levels : lane.regOpen 0 (PIN.LSA_VOH 3 1 0).addr = true ∧ (∀ f ∈ levelFields 3 1 0 0, lane.merged f 65535 41000 ≤ 41000) ∧
    (∃ f ∈ levelFields 3 1 0 0, lane.merged f 65535 41000 ≠ lane.rd f) ∧ 0 = lane.rd (PIN.CTRL_LSEL 3 1) ∧
    (∃ f ∈ levelFields 3 1 0 0, 41000 < lane.merged f 65535 41001) := by decide
theorem witness_pmu : lane.regOpen 0 (PIN.PMU_MODE 3 1).addr = true ∧ lane.merged (PIN.PMU_MODE 3 1) 3 3 = 3 ∧ lane.merged (PIN.PMU_MODE 3 1) 3 1 ∈ [1, 2] ∧
    lane.merged (PIN.PMU_VCLH 3 1) 3 1 ≤ 41000 ∧ lane.merged (PIN.PMU_VCLL 3 1) 3 1 ≤ 41000 ∧
    lane.merged (PIN.PMU_FORCE 3 1) 3 1 ≤ 41000 ∧ lane.flag (PIN.CTRL_UNUSED 3 1) = false ∧
    bitOf ((lane.modCell 3 fun x => { x with entering := 2 }).cell 3).entering 1 = true := by decide

/-! Witnesses of `Obligations.MeasurementsAndTables`. -/

theorem witness_meas : lane.regOpen 0 (PIN.MEAS_GO 3 1).addr = true ∧ lane.flag (PIN.MEAS_PEND 3 1) = false ∧ lane.merged (PIN.MEAS_SRC 3 1) (setBit 0 0) (setBit 0 0) = 0 ∧
    lane.merged (PIN.MEAS_SRC 3 1) (setBit 6 0) (setBit 2 0) ≠ 0 ∧ lane.bst.run = none := by decide
/-- Block 0 converts the last code of a request of lane 1 of cell 3. -/
def converting : State := lane.modBlock 0 fun x =>
  { x with adcQ := [{ pin := 13, src := 0, navg := 0, elapsed := true, taken := true, done := 0, sum := 0, clamp := false,
                      saturated := false, disturb := true, bonded := false }] }
theorem witness_conversion : ((converting.block 0).adcQ.find? (·.taken)).any (fun q =>
    q.pin == 4 * 3 + 1 && q.done + 1 == 2 ^ q.navg && !(q.src == 1 && (q.bonded || converting.bondedLane 3 1))) = true := by decide
/-- Lane 1 of cell 3 drives 1 over a swing of 2 V. -/
def driving : State := (lane.wrs [(PIN.LSA_VIH 3 1 0, 30000), (PIN.LSA_VIL 3 1 0, 10000)]).modCell 3 fun x =>
  { x with level := setField x.level 2 2 1 }
theorem witness_dchk : driving.dchkMade 3 1 true = true ∧
    driving.dchkMiss 3 1 30000 = false ∧ driving.dchkMiss 3 1 10000 = true ∧
    max 1 ((driving.wr (PIN.DCHK_CFG_N 3) 0).rd (PIN.DCHK_CFG_N 3)) ≤
      satAdd (PIN.DCHK_RUN 3 1).width ((driving.wr (PIN.DCHK_CFG_N 3) 0).rd (PIN.DCHK_RUN 3 1)) 1 := by decide
theorem witness_tables : lane.regOpen 0 (PIN.TRIM_WORD 3 1 4).addr = true ∧
    lane.regOpen 0 (TIM.TAB_W0_WORD 3 63).addr = true ∧ lane.regOpen 0 (TIM.OFS_DRV 3 1).addr = true ∧ (∀ n, n < 4 → bits (2 ^ 64 - 1) (42 + 3 * n) 3 = 0 ∨
      bits (lane.merged (TIM.TAB_W1_WORD 3 63) (2 ^ 64 - 1) 0) (42 + 3 * n) 3 ≤ 4) ∧
    bits (2 ^ 64 - 1) (42 + 3 * 3) 3 ≠ 0 ∧ 5 ≤ bits (lane.merged (TIM.TAB_W1_WORD 3 63) (2 ^ 64 - 1) (2 ^ 64 - 1)) (42 + 3 * 3) 3 ∧
    lane.clockRuns 0 = false := by decide

/-! Witnesses of `Obligations.PllCommandsAndRelock`. -/

/-- Block 0 powered, its PLL in state `v` with the configuration that reset leaves made legal: 64 times TREF, dividers 16. -/
def pllIn (v : Nat) (l : List (Fld × Nat)) : State := st ([(PWR.DOMAINS_BLK_ON, 1), (PLL.STATUS_STATE 0, v),
  (PLL.STATUS_GANGED 0, 0), (PLL.CFG_MODE 0, 1), (PLL.CFG_RDIV 0, 0), (PLL.CFG_N 0, 64), (PLL.CFG_SDIV 0, 32), (PLL.CFG_FDIV 0, 32),
  (PLL.CFG_BW 0, 0), (PLL.FRAC_FRAC 0, 0), (PLL.ACT_CFG_MODE 0, 1), (PLL.ACT_CFG_RDIV 0, 0), (PLL.ACT_CFG_N 0, 64),
  (PLL.ACT_CFG_SDIV 0, 32), (PLL.ACT_CFG_FDIV 0, 32), (PLL.ACT_CFG_BW 0, 0), (PLL.ACT_FRAC_FRAC 0, 1),
  (PLL.TRACK_RAMP 0, 1000)] ++ l)
theorem witness_pll_commands : (pllIn 2 []).regOpen 0 (PLL.CMD_OP 0).addr = true ∧ (pllIn 2 []).blockOn 0 = true ∧ (pllIn 2 []).bst.run = none ∧
    (pllIn 2 []).flag (PLL.CMD_STATUS_PEND 0) = false ∧ (pllIn 2 []).flag (PLL.STATUS_GANGED 0) = false ∧
    (pllIn 2 []).gangBusy 0 = false ∧ ((pllIn 2 []).pllStaged 0).bad = false ∧
    (pllIn 2 []).overLimit ((pllIn 2 []).pllStaged 0) (pllIn 2 []).limitLevel = false ∧
    (pllIn 2 []).rd (PLL.ACT_CFG_MODE 0) ≠ 0 ∧
    (let a := (pllIn 2 []).pllActive 0; let c := (pllIn 2 []).pllStaged 0
     c.mode = a.mode ∧ c.ref = a.ref ∧ c.rdiv = a.rdiv ∧ c.sdiv = a.sdiv ∧ c.fdiv = a.fdiv ∧
       ((c.mult - a.mult) + (a.mult - c.mult)) * 1000000 ≤ 2000 * a.mult ∧
       1 ≤ (pllIn 2 []).rd (PLL.TRACK_RAMP 0) ∧ (pllIn 2 []).rd (PLL.TRACK_RAMP 0) ≤ 1000) := by decide
/-- The same PLL with a relock at step `r`. -/
def relocking (r : Relock) : State := (pllIn 1 [(PLL.CMD_STATUS_PEND 0, 1)]).modBlock 0 fun x =>
  { x with relock := r, pll := some ((pllIn 1 []).pllStaged 0), srcSwitch := some 0 }
theorem witness_relock : ∀ r ∈ [Relock.toGate, .acquiring, .stable], ((relocking r).block 0).relock = r ∧
    ((relocking r).block 0).pll.isSome = true ∧ (relocking r).flag (PLL.STATUS_GANGED 0) = false ∧ (relocking r).canLock 0 = true ∧
    (relocking r).flag (PLL.CMD_STATUS_PEND 0) = true ∧ ((relocking r).block 0).srcSwitch = some 0 ∧
    (relocking r).frozen = false ∧ (pllIn 3 []).rd (PLL.STATUS_STATE 0) = pllRamping := by decide

/-! Witnesses of `Obligations.LossOfLockAndReferences`. -/

theorem witness_loss : State.reset.regOpen 0 CHIP.CLK_CTRL_USE_PLL.addr = true ∧ (pllIn 2 []).rd (PLL.STATUS_STATE 0) = pllLocked ∧ (pllIn 2 []).rd (PLL.ACT_CFG_MODE 0) = 1 ∧
    0 ∈ (pllIn 2 []).clocked 0 ∧ ((pllIn 2 []).block 0).lossPending = false ∧
    (((pllIn 4 []).modBlock 0 fun x => { x with lossPending := true }).block 0).lossPending = true ∧
    (pllIn 4 []).rd (PLL.STATUS_STATE 0) = pllLost ∧
    0 ∈ (pllIn 4 [(CEL.CARAVAN_EN 0, 1), (CEL.CARAVAN_LEAD 0, 0), (SEQ.STATUS_STATE 0, 2)]).leadsInBlock 0 ∧
    (pllIn 4 [(CEL.CARAVAN_EN 0, 1), (CEL.CARAVAN_LEAD 0, 0), (SEQ.STATUS_STATE 0, 2)]).busy 0 = true ∧
    (st [(CHIP.CLK_STATUS_ON_PLL, 1)]).flag CHIP.CLK_STATUS_ON_PLL = true ∧
    State.reset.flag CHIP.CLK_STATUS_ON_PLL = false ∧ (pllIn 3 [(PLL.ACT_CFG_REF 0, 1)]).rd (PLL.ACT_CFG_REF 0) = 1 := by decide

/-! Witnesses of `Obligations.PlaneWriterAndPlaneCommands`. -/

/-- Block 0 and region 0 powered, memory open to master 61, an image of one frame in the depot of block 0 whose header is good. -/
def imaged : State := (st [(PWR.DOMAINS_BLK_ON, 1), (PWR.DOMAINS_RGN_ON, 1), (NOC.RT_ACT_V, 2 ^ 44 - 1), (FAB.PW_SRC_ADDR 0, depotBase 0 / 16),
  (FAB.PW_LEN_WORDS 0, 33), (MPR.BASE_EN 61 0, 1), (MPR.BASE_R 61 0, 1), (MPR.LIMIT_LIMIT 61 0, 2 ^ 36 - 1)]).writeWord
  (depotBase 0) (0x48584649 + 2 ^ 32 + 2 ^ 48)
set_option maxRecDepth 100000 in
theorem witness_fabHeader : ∀ s ∈ [imaged.pwBegin 0 7], imaged.blockOn 0 = true ∧ imaged.flag (FAB.PW_STATUS_BUSY 0) = false ∧
    (∀ m ∈ [0, 5, 61], imaged.regOpen m (FAB.CMD_OP 0).addr = true) ∧
    imaged.flag (FAB.STATUS_ARMED 0) = false ∧ 16 * imaged.rd (FAB.PW_SRC_ADDR 0) = depotBase 0 ∧
    s.readsB (groupsOf 16 9 (depotBase 0) 8) = true ∧ (∀ w ∈ [s.readWord (depotBase 0)], bits w 0 32 = 0x48584649 ∧ bits w 32 16 = 1 ∧
      bits w 48 12 = 1) ∧ groupsOf 16 9 (depotBase 0) 8 = [(depotBase 0, 8)] ∧ imaged.rd (FAB.PW_LEN_WORDS 0) = 16 + 17 * 1 := by
  decide
theorem witness_fabWrite : ∃ h u, (imaged.pwBegin 0 7).ownWords (16 * imaged.rd (FAB.PW_SRC_ADDR 0)) 8 0 0 = .ok (some h, u) ∧
    bits (h.getD 0 0) 0 32 = 0x48584649 ∧ bits (h.getD 0 0) 32 16 = 1 ∧ bits (h.getD 0 0) 48 12 = 1 := by
  obtain ⟨_, _, _, _, ha, r, hw, hg, _⟩ := witness_fabHeader _ (List.mem_singleton.mpr rfl)
  obtain ⟨u, h, _, _⟩ := words_read (n := 8) (a := depotBase 0) r
  refine ⟨_, u, by rw [ha]; exact h, ?_⟩
  simp only [hg]
  exact hw _ (List.mem_singleton.mpr rfl)
/-- A plane write of one unencrypted frame of zeros, whose CRC stands in its first word. -/
def framing : State := (imaged.modBlock 0 fun x =>
  { x with pw := some { src := depotBase 0, nframes := 1, done := 0, lastFa := none, header := [1], stored := [], frames := [],
                        key := 0 } }).writeWord (depotBase 0 + 16 * 8)
    (2 ^ 32 * crc32c (toBytes 2 0 ++ wordBytes (List.replicate 16 0)))
/-- The 17 words of its record. -/
def recordWords : List Nat := (groupsOf 16 18 (depotBase 0 + 16 * 8) 17).flatMap fun g =>
  (wordsReq 61 0 g.1 g.2 false []).slots.map (framing.cleanWord (targetOf g.1))
set_option maxRecDepth 100000 in
theorem witness_recordWords : framing.readsB (groupsOf 16 18 (depotBase 0 + 16 * 8) 17) = true ∧
    (framing.block 0).pw.any (fun r => decide (r.done < r.nframes) && !r.enc && r.lastFa.isNone && !r.header.isEmpty && r.src == depotBase 0) = true ∧
    crc32c (toBytes 2 (bits ((bytesWords 17 (wordBytes recordWords)).getD 0 0) 0 16) ++ wordBytes ((bytesWords 17 (wordBytes recordWords)).drop 1)) =
      bits ((bytesWords 17 (wordBytes recordWords)).getD 0 0) 32 32 := by decide
theorem witness_pwFrame : ∃ u, framing.ownWords (depotBase 0 + 16 * (8 + 17 * 0)) 17 0 0 = .ok (some recordWords, u) := by
  obtain ⟨u, h, _, _⟩ := words_read (n := 17) (a := depotBase 0 + 16 * 8) witness_recordWords.1
  exact ⟨u, h⟩
theorem witness_planes : State.reset.rd (FAB.PLANE_STATE 0 (State.reset.inactivePlane 0)) ≠ 2 ∧
    (imaged.wr (FAB.PLANE_STATE 0 1) 2).rd (FAB.PLANE_STATE 0 (imaged.inactivePlane 0)) = 2 ∧
    (imaged.block 0).swap = .none ∧ (imaged.wr (FAB.STATUS_ARMED 0) 1).flag (FAB.STATUS_ARMED 0) = true ∧
    (imaged.wr (FAB.STATUS_ARMED 0) 1).blockBusy 0 = false ∧
    ((imaged.setPlane 0 1 { Plane.blank with fmax := 400000 }).pllActive ((imaged.setPlane 0 1 { Plane.blank with fmax := 400000 }).gangSource 0)).above
      ((imaged.setPlane 0 1 { Plane.blank with fmax := 400000 }).pllActive ((imaged.setPlane 0 1 { Plane.blank with fmax := 400000 }).gangSource 0)).fdiv
      ((imaged.setPlane 0 1 { Plane.blank with fmax := 400000 }).plane 0 1).fmax = false := by decide
/-- The parts of a digest. -/
def parts (d : Nat) : List Nat := [bits d 0 64, bits d 64 64, bits d 128 64, bits d 192 64, bits d 256 64, bits d 320 64]
/-- A plane write with all frames stored. Its digest registers hold the digest `d`. -/
def completing (d : Nat) : State :=
  let u := imaged.modBlock 0 fun x =>
    { x with pw := some { src := depotBase 0, nframes := 0, done := 0, lastFa := none, header := [1], stored := [], frames := [], key := 0 } }
  let k := (FAB.PW_DIG_DIG 0 0).key
  { u with regs := u.regs.takeWhile (fun e => e.1 < k) ++ ((List.range 6).zip (parts d)).map (fun e => ((FAB.PW_DIG_DIG 0 e.1).key, e.2)) ++
      u.regs.dropWhile (fun e => e.1 < k) }
/-- With its trailer written. -/
def trailed (d : Nat) : State := (completing d).writeWords (depotBase 0 + 16 * 8) (parts d)
theorem digits_sum (B d : Nat) (h : d < B ^ 6) : ((List.range 6).map fun n => d / B ^ n % B * B ^ n).sum = d := by
  have step : ∀ n, d / B ^ n * B ^ n = d / B ^ n % B * B ^ n + d / B ^ (n + 1) * B ^ (n + 1) := fun n => by
    conv_lhs => rw [← Nat.mod_add_div (d / B ^ n) B]
    rw [Nat.div_div_eq_div_mul, ← Nat.pow_succ, Nat.add_mul, Nat.pow_succ, Nat.mul_comm B, Nat.mul_assoc, Nat.mul_comm B]
  have e0 := step 0; have e1 := step 1; have e2 := step 2; have e3 := step 3; have e4 := step 4; have e5 := step 5
  have h6 : d / B ^ (5 + 1) = 0 := Nat.div_eq_of_lt h
  rw [h6] at e5
  simp only [Nat.pow_zero, Nat.div_one, Nat.mul_one, Nat.reduceAdd, Nat.zero_mul] at e0 e1 e2 e3 e4 e5
  simp only [List.range, List.range.loop, List.map_cons, List.map_nil, List.sum_cons, List.sum_nil, Nat.pow_zero, Nat.div_one, Nat.mul_one]
  omega
/-- The digest of an image whose header is one word and which holds no frame. -/
def digest : Nat := Config.sha384 (wordBytes [1] ++ [])
theorem parts_sum : ((List.range 6).map fun n => (parts digest).getD n 0 * 2 ^ (64 * n)).sum = digest := by
  have h : digest < (2 ^ 64) ^ 6 := by
    rw [← Nat.pow_mul]
    exact (Config.sha384Bits _).isLt
  refine Eq.trans (congrArg List.sum (List.map_congr_left fun n hn => ?_)) (digits_sum (2 ^ 64) digest h)
  have : n = 0 ∨ n = 1 ∨ n = 2 ∨ n = 3 ∨ n = 4 ∨ n = 5 := by simpa [List.range, List.range.loop] using hn
  rcases this with rfl | rfl | rfl | rfl | rfl | rfl <;> simp only [parts, bits, ← Nat.pow_mul, Nat.mul_zero, Nat.mul_one] <;> rfl
set_option maxRecDepth 100000 in
theorem trailed_clear : (trailed digest).readsB (groupsOf 16 9 (depotBase 0 + 16 * 8) 8) = true := by rfl
set_option maxRecDepth 100000 in
theorem trailed_parts : ∀ n ∈ List.range 6, (trailed digest).rd (FAB.PW_DIG_DIG 0 n) = (parts digest).getD n 0 ∧
    (parts digest).getD n 0 < 2 ^ 64 := by
  have key : ∀ (s : State) (f : Fld) (v : Nat), Tab.get 0 s.regs f.key = v → f.reset = 0 → f.width = 64 → v < 2 ^ 64 → s.rd f = v := by
    intro s f v h1 h2 h3 h4
    rw [State.rd, h1, h2, h3]
    exact (congrArg (· % 2 ^ 64) (Nat.xor_zero v)).trans (Nat.mod_eq_of_lt h4)
  have lt : ∀ k, bits digest k 64 < 2 ^ 64 := fun k => Nat.mod_lt _ (by decide)
  intro n hn
  have : n = 0 ∨ n = 1 ∨ n = 2 ∨ n = 3 ∨ n = 4 ∨ n = 5 := by simpa [List.range, List.range.loop] using hn
  rcases this with rfl | rfl | rfl | rfl | rfl | rfl <;> exact ⟨key _ _ _ rfl rfl rfl (lt _), lt _⟩
/-- The words of the trailer. -/
def trailerWords : List Nat := (groupsOf 16 9 (depotBase 0 + 16 * 8) 8).flatMap fun g =>
  (wordsReq 61 0 g.1 g.2 false []).slots.map ((trailed digest).cleanWord (targetOf g.1))
set_option maxRecDepth 100000 in
theorem trailer_words : ∀ n ∈ List.range 6, trailerWords.getD n 0 = (trailed digest).readWord (depotBase 0 + 16 * 8 + 16 * n) := by
  have h : groupsOf 16 9 (depotBase 0 + 16 * 8) 8 = [(depotBase 0 + 16 * 8, 8)] ∧ targetOf (depotBase 0 + 16 * 8) = .depot 0 ∧
      (wordsReq 61 0 (depotBase 0 + 16 * 8) 8 false []).slots = (List.range 8).map fun n => depotBase 0 + 16 * 8 + 16 * n := by decide
  intro n hn
  simp only [trailerWords, h, List.flatMap_cons, List.flatMap_nil, List.append_nil, State.cleanWord, reduceCtorEq, if_false, List.map_map]
  rw [List.mem_range] at hn
  rw [List.getD_eq_getElem _ _ (by simp; omega), List.getElem_map, List.getElem_range]
  rfl
theorem witness_pwComplete : ∃ u, ((trailed digest).block 0).pw.any (fun r => decide (r.nframes ≤ r.done) && !r.enc && !r.header.isEmpty &&
      !r.isBlank 2048 && r.header == [1] && r.stored == []) = true ∧
    (trailed digest).ownWords (depotBase 0 + 16 * (8 + 17 * 0)) 8 0 0 = .ok (some trailerWords, u) ∧ digest = u.pwDigest 0 ∧
    ((List.range 6).map fun n => bits (trailerWords.getD n 0) 0 64 * 2 ^ (64 * n)).sum = digest := by
  obtain ⟨u, h, hu, _⟩ := words_read trailed_clear
  refine ⟨u, ?_, h, ?_, ?_⟩
  · decide
  · refine parts_sum.symm.trans (congrArg List.sum (List.map_congr_left fun n hn => ?_))
    have hk := List.mem_range.mp hn
    rw [hu.rd _ (by simp only [isToll, Fld.key, blockBase]; omega), (trailed_parts n hn).1]
  · refine Eq.trans (congrArg List.sum (List.map_congr_left fun n hn => ?_)) parts_sum
    have hk : n < (parts digest).length := List.mem_range.mp hn
    have lt := (trailed_parts n hn).2
    rw [trailer_words n hn, trailed, readWord_written _ _ _ n hk]
    rw [List.getD_eq_getElem _ _ hk] at lt ⊢
    rw [bits, Nat.pow_zero, Nat.div_one, Nat.mod_mod_of_dvd _ (Nat.pow_dvd_pow 2 (by decide : 64 ≤ 72)), Nat.mod_eq_of_lt lt]

/-! Witnesses of `Obligations.SwapsAndTileHooks`. -/

/-- Block 0 with its tiles running, a swap at phase `p`, frame 7 to reload, a tap entry and a latched FAB0. -/
def tiles (p : SwapPhase) : State := ((st [(FAB.STATUS_RUN 0, 1)]).modBlock 0 fun x =>
  { x with loaded := true, swap := p, reload := [7] }).modCell 0 fun x => { x with fab := 1, tapQ := [⟨1, 2, true, false, false⟩] }
theorem witness_swaps : (∀ p ∈ [SwapPhase.scheduled, .waiting], ((tiles p).block 0).swap = p ∧ (tiles p).swapDeferred 0 = false) ∧
    ((tiles .running).block 0).swap = .running ∧ (tiles .running).rd (FAB.STATUS_ACTIVE 0) < 2 ∧
    (tiles .none).frozen = false ∧ ((tiles .none).block 0).loaded = true ∧ 7 ∈ ((tiles .none).block 0).reload ∧
    (tiles .none).tilesRun 0 = true ∧ ((tiles .none).cell 0).laneQ.length < 16 ∧
    ((tiles .none).cell 0).tapQ = [⟨1, 2, true, false, false⟩] ∧ bitOf ((tiles .none).cell 0).fab 0 ≠ false ∧
    (tiles .none).xowOf 0 8191 = none ∧ (tiles .none).inRing 0 8191 = false := by decide

/-! Witnesses of `Obligations.RegisterAccess`. -/

theorem witness_register_access : regAccessOk 0x1000001 8 = false ∧ regAccessOk 0x1000FF8 8 = true ∧
    (apgWindow (0x1000FF8 / 8 * 8)).isNone = true ∧ (∀ m ∈ [0, 4], State.reset.regOpen m 0x1000FF8 = true) ∧
    (∀ m ∈ [0, 4], State.reset.regOpen m (blockBase 0 + 0x8020) = true) ∧ State.reset.regOpen 0 (blockBase 0 + 0x8060) 0 = true ∧
    State.reset.regOpen 0 0x1000FF8 0 = true ∧ (∀ m ∈ [0, 4], ∀ k ∈ [0, 1], State.reset.pmpStops m k 0x1000FF8 0x1000FFF = false) ∧
    ({ State.reset with stewards := [(0, { Steward.reset with machine := false })] } : State).pmpStops 0 1 0x1000FF8 0x1000FFF = true ∧
    (st [(LC.STATE_STATE, 7)]).lcOpen 0 (targetOf 0x1000FF8) 0x1000FF8 = false ∧
    State.reset.lcOpen 0 (targetOf 0x1000FF8) 0x1000FF8 = true ∧ State.reset.power.sleep = 0 ∧
    (regAt (0x1000FF8 / 8 * 8)).isNone = true ∧ (st [(PWR.DOMAINS_BLK_ON, 0)]).domainOff (targetOf 0x1000FF8) = true ∧
    State.reset.flag PWR.CTRL_LEGACY_WAKE = false ∧ (st [(PWR.CTRL_LEGACY_WAKE, 1)]).flag PWR.CTRL_LEGACY_WAKE = true ∧
    State.reset.net.waiting.any (regReq 0 0x1000FF8).same = false ∧
    State.reset.fieldHeld 0 ⟨PLL.TRACK_RAMP 0, .rw, false, false⟩ = false := by decide

/-! Witnesses of `Obligations.NetworkRequests`. -/

/-- Steward 0 may reach scratchpad 0 of a powered region. -/
def stewarded (q : List Req) : State :=
  { st [(PWR.DOMAINS_BLK_ON, 1), (PWR.DOMAINS_RGN_ON, 1), (MPR.LIMIT_LIMIT 0 0, 2 ^ 36 - 1), (MPR.BASE_R 0 0, 1), (MPR.BASE_W 0 0, 1)] with
    net := { NetX.reset with flight := q } }
/-- A request of steward 0 for word 3 of scratchpad 0. -/
def padReq (k : ReqKind) : Req :=
  { init := 0, tag := 7, subid := 0, kind := k, addr := 0x40000030, len := 1, bytes := 0x0F, data := [5], fetch := false }
theorem witness_issue : (stewarded []).frozen = false ∧ bitOf ((stewarded []).rd FLT.STW_FAULTED) 0 = false ∧ bitOf ((st [(FLT.STW_FAULTED, 8)]).rd FLT.STW_FAULTED) 3 = true ∧ (stewarded []).pmpStops 0 (padReq .rd).access (padReq .rd).firstByte (padReq .rd).lastByte = false ∧
    (stewarded []).inOrder (padReq .rd) = true ∧ (stewarded []).power.sleep < 2 ∧ (padReq .rd).wellFormed = true ∧ (stewarded []).lcServes (padReq .rd) = true ∧
    (stewarded []).accessReason 0 (padReq .rd).access (padReq .rd).firstByte (padReq .rd).lastByte = 0 ∧
    (stewarded []).domainOff (padReq .rd).target = false ∧
    (stewarded []).held 0 (padReq .rd).target.berth < (stewarded []).rd (NOC.BERTH_GRANT 0 (padReq .rd).target.berth.1) ∧
    ((stewarded []).outstanding.filter fun e => e.init == 0).length < responseSlots 0 ∧
    (stewarded []).routeHeldBack (padReq .rd) = false ∧
    ((stewarded []).wr NOC.RT_ACT_V (2 ^ 44 - 1)).routed (padReq .rd).target = true ∧
    ((stewarded []).wr (MPR.BASE_R 0 0) 0).accessReason 0 (padReq .rd).access (padReq .rd).firstByte (padReq .rd).lastByte ≠ 0 := by decide
theorem witness_served : ∀ k ∈ [ReqKind.rd, .wr, .rdp, .wrp], ((stewarded [padReq k]).inFlightReq 0 7 k).isSome = true ∧
    ((stewarded [padReq k]).reach 0 7).inFlightReq 0 7 k = some { padReq k with hop := 2 } ∧
    { padReq k with hop := 2 }.wellFormed = true ∧ (padReq k).target = .pad 0 ∧ (stewarded [padReq k]).rawMode (.pad 0) = false ∧
    (∀ a ∈ (padReq k).slots, (stewarded [padReq k]).xoWord 0 a = false ∧ (stewarded [padReq k]).eccOf a 0 = 0 ∧
      (stewarded [padReq k]).ringWord 0 a = false) := by decide

/-! Witnesses of `Obligations.NetworkResponsesAndRoutes`. -/

/-- Steward 0 awaits the response `r`. -/
def answered (k : ReqKind) (status : Nat) : State :=
  { stewarded [] with net := { NetX.reset with rsps := [⟨padReq k, status, []⟩] } }
theorem witness_responses : (answered .rd 0).frozen = false ∧
    ((answered .rd 0).net.rsps.any fun e => e.req.is 0 7 && ((e.status == 0 || e.status == 8) && e.req.access != 1)) = true ∧
    ((answered .wr 0).net.rsps.any fun e => e.req.is 0 7 && (e.status == 0 && e.req.access == 1)) = true ∧
    ((answered .wr 6).net.rsps.any fun e => e.req.is 0 7 && (e.status != 0 && e.status != 8)) = true ∧
    (answered .rd 0).mayReturn ⟨padReq .rd, 0, []⟩ = true ∧ (answered .rd 0).timedOut (padReq .rd) = false ∧
    (answered .rd 0).net.orphans.any (padReq .rd).same = false ∧
    ((answered .rd 0).outstanding.find? fun e => e.is 0 7 && (answered .rd 0).expected e) = some (padReq .rd) ∧ padReq .rd ∉ (answered .rd 0).net.lost ∧
    (({ stewarded [] with net := { NetX.reset with lost := [padReq .rd] } } : State).outstanding.find? fun e => e.is 0 7 &&
      ({ stewarded [] with net := { NetX.reset with lost := [padReq .rd] } } : State).expected e) = some (padReq .rd) ∧
    ∀ a ∈ [NOC.RECFG_CLOSE.addr, NOC.RECFG_OPEN.addr, NOC.TOLL_CTRL_CLEAR.addr, (NOC.BERTH_GRANT 0 0).addr, (MPR.BASE_BASE 3 15).addr],
      State.reset.regOpen 0 a = true := by decide
theorem witness_link : (stewarded [padReq .wr]).moving 0 7 = some (.request (padReq .wr)) ∧ 256 ∈ links 0 (padReq .wr).target ∧
    0 ∈ links 0 (padReq .wr).target ∧ unitClass 0 0 = 0 ∧ unitClass 0 1 = 1 ∧ unitClass 0 3 = 2 ∧ unitClass 256 0 = 0 ∧
    unitClass 256 1 = 1 ∧ unitClass 256 3 = 2 ∧ waybillHit 0 1 3 = false := by decide
theorem witness_units : ((Moving.request (padReq .wr)).packet.units 0).length = 3 := by rfl
theorem witness_compat_wake : ([padReq .rd].find? fun e => e.is 0 7 && (st [(PWR.DOMAINS_BLK_ON, 0)]).domainOff e.target) = some (padReq .rd) := by decide
theorem witness_recfg : (st [(NOC.RECFG_STATE, 1)]).rd NOC.RECFG_STATE ≠ 0 ∧ State.reset.rd NOC.RECFG_STATE = 0 ∧
    (st [(NOC.RT_STAGE_BLK, 5)]).rtStage ≠ (st [(NOC.RT_STAGE_BLK, 5)]).rd NOC.RT_ACT_V ∧
    (st [(NOC.RECFG_STATE, 2)]).rd NOC.RECFG_STATE = 2 ∧ State.reset.net.held = [] ∧
    State.reset.merged (NOC.BERTH_GRANT 0 0) 1023 0 ≤ State.reset.rd (NOC.BERTH_GRANT 0 0) ∧
    (st [(MPR.BASE_LOCK 3 15, 1)]).flag (MPR.BASE_LOCK 3 15) = true ∧ State.reset.flag (MPR.BASE_LOCK 3 15) = false := by decide

/-! Witnesses of `Obligations.DdrChannels`. -/

theorem witness_ddr : State.reset.regOpen 0 (DDR.CTRL_TRAIN 3).addr = true ∧ (st [(PWR.DOMAINS_RGN_ON, 15)]).regionOn 3 = true ∧ State.reset.rd (DDR.STATUS_STATE 3) = ddrOff ∧
    State.reset.rd (DDR.CFG_RATE 3) ≠ 3 ∧ State.reset.rd (DDR.CFG_DENSITY 3) ≠ 3 ∧
    (st [(DDR.STATUS_STATE 3, 1)]).rd (DDR.STATUS_STATE 3) = ddrTraining ∧
    (st [(DDR.STATUS_STATE 3, 2)]).rd (DDR.STATUS_STATE 3) = ddrReady ∧
    (st [(DDR.SCRUB_HOURS 3, 1), (DDR.CAP_WORDS 3, 16)]).rd (DDR.SCRUB_HOURS 3) ≠ 0 ∧
    (st [(DDR.SCRUB_HOURS 3, 1), (DDR.CAP_WORDS 3, 16)]).rd (DDR.CAP_WORDS 3) = 16 ∧
    (∀ w, w < 8 → State.reset.eccOf (ddrBase 3 + 16 * (8 * (State.reset.region 3).patrol + w)) 0 = 0) ∧
    (State.reset.region 3).patrol = 0 := by decide

/-! Witnesses of `Obligations.LedgerQueuesAndUpdates`. -/

/-- A record of cell 0 formed in stride 5, of site 3 at account 2. -/
def aRecord : FailRec := ⟨5, 3, 0, false, false, false, true, false, 1, 0, 2, 1, 1, 0, 0, 0⟩
/-- Region 0 with ledger, accounts 0 to 7 and the record of cell 0 at its queue, its merger, its home and its account. -/
def ledgerState (l : List (Fld × Nat)) : State :=
  let h := ledgerHash aRecord.key 0
  ((((st ([(CEL.CARAVAN_EN 0, 1), (CEL.CARAVAN_LEAD 0, 0), (SEQ.STATUS_STATE 0, stRunning), (SEQ.SC_SC 0, 20), (LDG.CTRL_EN 0, 1),
    (LDG.CVCFG_LEN 0 0, 1), (LDG.CVCFG_AEN 0 0, 1), (LDG.CVCFG_ACCT_N 0 0, 8), (PWR.DOMAINS_RGN_ON, 15), (NOC.RT_ACT_V, 2 ^ 44 - 1)] ++ l)).modCell 0 fun x =>
      { x with failQ := [.record aRecord, .record aRecord], released := 1 }).modBlock 0 fun x => { x with merger := [.record aRecord] }).modRegion
    (h % 4) fun x => { x with cache := Tab.set Line.none [] (h / 4) ⟨List.replicate 8 0, false⟩ })
theorem witness_queues : (ledgerState []).frozen = false ∧ ((ledgerState []).cell 0).failQ[1]? = some (.record aRecord) ∧
    ((ledgerState []).cell 0).suspectSC = none ∧ recordCount ((ledgerState []).block 0).merger < 1024 ∧
    (ledgerState []).mergerPick 0 = some 0 ∧ (∀ q ∈ [lupReq ((ledgerState []).ledgerHome aRecord) ⟨0, 0, aRecord, true, true⟩],
      (ledgerState []).lcServes q = true ∧ (ledgerState []).domainOff q.target = false ∧
      (ledgerState []).rd (NOC.BERTH_GRANT q.init q.target.berth.1) ≠ 0 ∧ (ledgerState []).mayIssue q = true ∧
      (ledgerState []).routeHeldBack q = false ∧ (ledgerState []).routed q.target = true ∧
      (ledgerState [(PWR.DOMAINS_RGN_ON, 0)]).domainOff q.target = true) ∧ (ledgerState []).power.sleep < 2 ∧
    ((ledgerState []).region 0).sent = [] ∧ (ledgerState []).flag PWR.CTRL_LEGACY_WAKE = false ∧
    ((ledgerState []).net.waiting.find? fun e => e.init == 64 + 0) = none ∧ (ledgerState []).enginePick 0 = some 0 ∧
    (ledgerState []).flag (LDG.CVCFG_LEN 0 0) = true ∧ (ledgerState []).flag (LDG.CTRL_EN 0) = true ∧
    (ledgerState [(LDG.CTRL_EN 0, 0)]).flag (LDG.CTRL_EN 0) = false ∧ (ledgerState []).flag (LDG.CVCFG_AEN 0 0) = true ∧
    ((ledgerState []).acctRange 0).1 ≤ aRecord.acct ∧ aRecord.acct < ((ledgerState []).acctRange 0).2 := by decide
/-- The update of the record, at its home. -/
def theUpdate : Req := { lupReq (ledgerHash aRecord.key 0 % 4) ⟨7, 0, aRecord, true, true⟩ with hop := 3 }
/-- The home has answered it. -/
def updated : State := { ledgerState [] with
  net := { NetX.reset with rsps := [⟨theUpdate, 0, [1]⟩] }, regions := [(0, { RegionX.reset with sent := [⟨7, 0, aRecord, true, true⟩] })] }
theorem witness_update_answered : theUpdate.kind = .lupd ∧ theUpdate.init = 64 ∧
    (updated.net.rsps.find? fun e => e.req.is (64 + 0) 7 && (e.status == 0 && e.req.access == 1)) = some ⟨theUpdate, 0, [1]⟩ ∧
    updated.mayReturn ⟨theUpdate, 0, [1]⟩ = true ∧ updated.timedOut theUpdate = false ∧ updated.net.orphans.any theUpdate.same = false ∧
    ((updated.region 0).sent.find? fun v => v.eid == 7) = some ⟨7, 0, aRecord, true, true⟩ := by decide
theorem witness_lupd : ({ ledgerState [] with net := { NetX.reset with flight := [theUpdate] } } : State).updateAt (ledgerHash aRecord.key 0 % 4) =
      some theUpdate ∧ FailRec.ofWords theUpdate.data = aRecord ∧ ∀ h ∈ [ledgerHash aRecord.key 0 % 4],
    (ledgerState []).inCache h ((ledgerState []).bucketOf aRecord.key) = true ∧
    (ledgerState []).findEntry (List.replicate 8 0) aRecord.key = none ∧ (ledgerState []).freeEntry (List.replicate 8 0) = some 0 ∧
    (ledgerState []).findEntry [aRecord.key + 2 ^ 64, 0, 0, 0, 0, 0, 0, 0] aRecord.key = some 0 := by decide
set_option maxRecDepth 100000 in
theorem witness_accounts : (∀ w, w < 8 → State.reset.eccOf (acctAddr 3 2 + 16 * w) 0 = 0) ∧ (Acct.ofWords []).en = false ∧
    (Acct.ofWords [2 ^ 24 + 3]).en = true ∧ (Acct.ofWords [2 ^ 24 + 3]).site = aRecord.site := by decide

/-! Witnesses of `Obligations.DrainsAndAllocationPasses`. -/

/-- Cell 65 leads a caravan of cells 65 and 66, with a drain that has nothing left to wait for and a pass. -/
def drainState (p : List AllocPass) : State :=
  (st [(CEL.CARAVAN_EN 65, 1), (CEL.CARAVAN_LEAD 65, 65), (CEL.CARAVAN_EN 66, 1), (CEL.CARAVAN_LEAD 66, 65)]).modRegion 1 fun x =>
    { x with drains := [⟨3, 65, [], false, []⟩], passes := p }
theorem witness_drains : (drainState []).regOpen 0 (LDG.CVST_DRAIN 1 1).addr = true ∧
    (drainState []).regOpen 0 (LDG.CVST_ALLOC 1 1).addr = true ∧ (drainState []).isLead 65 = true ∧ (drainState []).isLead 66 = false ∧ (drainState []).members 65 = [65, 66] ∧
    (((drainState []).region 1).drains.filter fun d => d.lead == 65 && (drainState []).drainReady 1 d) = [⟨3, 65, [], false, []⟩] ∧
    (State.reset.region 1).drains = [] ∧ ((drainState []).region 1).passes.any (fun p => p.lead == 65) = false ∧
    ((drainState [⟨65, 0, 1, 3, 0, 0, false⟩]).region 1).passes.any (fun p => p.lead == 65) = true ∧ (drainState []).frozen = false := by decide
set_option maxRecDepth 100000 in
theorem witness_passes : ∀ n ∈ [0, 1], ((drainState [⟨65, n, 1, 3, 0, 0, false⟩]).region 1).passes.find? (fun p => p.lead == 65) =
    some ⟨65, n, 1, 3, 0, 0, false⟩ ∧ ∀ w, w < 8 → (drainState []).eccOf (acctAddr 1 0 + 16 * w) 0 = 0 := by decide

/-! Witnesses of `Obligations.LedgerServices`. -/

theorem witness_clear : (∀ a ∈ [(LDG.SITE_CLEAR 0 255).addr, (LDG.FLUSH_GO 3).addr, (LDG.LK_KEY_KEY 3).addr, (LDG.DIG_CTRL_LEAD 3).addr,
      (LDG.SPILL_HEAD_COUNT 3).addr, (LDG.CTRL_EN 0).addr], State.reset.regOpen 0 a = true) ∧ (State.reset.allLeads.any fun l => State.reset.busy l && State.reset.rd (CEL.CARAVAN_SITE l) == 255) = false ∧
    State.reset.siteInFlight 255 = false ∧ State.reset.isRetired 255 ((State.reset.rd (LDG.SITE_EPOCH 0 255) + 1) % 256) = false ∧
    (ledgerState []).siteInFlight 3 = true ∧ State.reset.frozen = false ∧ (st [(LDG.SCRUB_RATE 3, 0)]).rd (LDG.SCRUB_RATE 3) = 0 ∧
    State.reset.rd (LDG.SCRUB_RATE 3) ≠ 0 ∧ (State.reset.region 3).scrubPos < 1048576 ∧ State.reset.inCache 3 0 = false ∧
    (st [(DDR.STATUS_STATE 3, 2)]).rd (DDR.STATUS_STATE 3) = ddrReady ∧
    (∀ w, w < 8 → State.reset.eccOf (ddrBase 3 + 16 * (8 * ((State.reset.rd (LDG.TBL_BASE_WORD 3) + 8 * (State.reset.region 3).scrubPos) / 8) + w)) 0 = 0) ∧
    ((State.reset.modRegion 3 fun x => { x with cache := [(0, ⟨List.replicate 8 0, false⟩)] }).inCache 3 0) = true ∧
    1048576 ≤ ((State.reset.modRegion 0 fun x => { x with scrubPos := 1048576 }).region 0).scrubPos := by decide
/-- Region 2 with a flush, a lookup and a digest in progress, bucket 0 of home 0 cached. -/
def servicesState : State :=
  ((st [(DDR.STATUS_STATE 2, 2)]).modRegion 0 fun x => { x with cache := [(0, ⟨List.replicate 8 0, false⟩)] }).modRegion 2 fun x =>
    { x with flush := some [5], lookup := some 0, digest := some 128 }
theorem witness_services : (servicesState.region 2).flush = some [5] ∧ servicesState.rd (DDR.STATUS_STATE 2) = ddrReady ∧
    (servicesState.region 2).lookup = some 0 ∧ servicesState.inCache (ledgerHash 0 0 % 4) (ledgerHash 0 0 / 4) = true ∧
    (servicesState.region 2).digest = some 128 ∧ servicesState.acctRange 128 = (0, 0) ∧ (st [(LDG.LK_HI_BUSY 3, 1)]).flag (LDG.LK_HI_BUSY 3) = true ∧
    State.reset.flag (LDG.LK_HI_BUSY 3) = false ∧ State.reset.isLead 64 = false ∧ (drainState []).isLead (64 * 1 + 1) = true ∧
    (drainState []).busy 65 = false ∧ ((drainState []).wr (LDG.CVST_DRAIN_DONE 1 1) 1).flag (LDG.CVST_DRAIN_DONE 1 1) = true ∧
    (drainState []).flag (LDG.CVST_ALLOC_BUSY 1 1) = false ∧ (drainState []).flag (LDG.STATUS_DIG_BUSY 1) = false := by decide
theorem witness_ledgerCtrl : State.reset.merged (LDG.CTRL_EN 0) 1 1 ≠ State.reset.rd (LDG.CTRL_EN 0) ∧ (ledgerState []).anyInFlight = true ∧
    (ledgerState []).merged (LDG.CTRL_EN 0) 1 0 ≠ (ledgerState []).rd (LDG.CTRL_EN 0) ∧
    (ledgerState []).flag (LDG.CTRL_EN 0) = true ∧ (ledgerState []).merged (LDG.CTRL_SALT 0) (2 ^ 64 - 1) (2 ^ 64 - 1) ≠ (ledgerState []).rd (LDG.CTRL_SALT 0) ∧
    State.reset.allLeads.any State.reset.busy = false ∧ State.reset.anyInFlight = false := by decide

/-! Witnesses of `Obligations.StoreCommands`. -/

/-- The Store programs code word 4 * 4096 * 10, or erases sector 10. -/
def storeState (op : StoreOp) : State := { State.reset with store := { State.reset.store with op := some op } }
theorem witness_store : State.reset.regOpen 0 STO.CMD_OP.addr = true ∧ State.reset.StoreFree ∧ (storeState .recovery).store.op ≠ none ∧ State.reset.PortReads false 2097151 ∧
    State.reset.PortPrograms false 2097151 ∧ State.reset.PortPrograms true 8192 ∧ State.reset.cwErrors 2097151 3 ≤ 3 ∧ State.reset.torn (sectorOf 2097151) = false ∧
    State.reset.cwState 2097151 = 0 ∧
    (State.reset.cwProgram 40960 [1, 2, 3, 4]).cwState 40960 ≠ 0 ∧ (State.reset.cwProgram 40960 [1, 2, 3, 4]).StoreFree ∧
    (storeState (.program false 40960 [1])).store.op = some (.program false 40960 [1]) ∧
    (storeState (.erase false 511 3)).store.op = some (.erase false 511 3) ∧ State.reset.store.waiting = [] ∧ State.reset.rolloverDue = false ∧
    State.reset.sectorXo 511 = false ∧ (st [(LC.STATE_TEST_MODES, 0)]).flag LC.STATE_TEST_MODES = false ∧
    (st [(LC.STATE_TEST_MODES, 0)]).StoreFree ∧ (st [(LC.STATE_TEST_MODES, 1)]).StoreFree ∧
    (st [(LC.STATE_TEST_MODES, 1)]).flag LC.STATE_TEST_MODES = true ∧ (st [(LC.STATE_TEST_MODES, 1)]).PortReads false 40960 ∧
    (st [(LC.STATE_TEST_MODES, 1)]).PortPrograms false 40960 := by decide

/-! Witnesses of `Obligations.JournalAndCalibration`. -/

/-- The active half of the journal holds 2041 code words. -/
def fullJournal : State := { State.reset with store := { State.reset.store with cw := (List.range 2041).map fun i => (4096 + i, 1) } }
set_option maxRecDepth 100000 in
theorem witness_journal : fullJournal.rolloverDue = true ∧ fullJournal.store.op = none := by decide
theorem witness_loader : State.reset.regOpen 0 CHIP.CAL_CTRL_LOAD.addr = true ∧ State.reset.rolloverDue = false ∧ (storeState (.rollover false)).store.op = some (.rollover false) ∧
    (storeState (.rollover true)).store.op = some (.rollover true) ∧ (storeState .recovery).store.op = some .recovery ∧
    (storeState .recovery).store.waiting = [] ∧ ({ State.reset with cal := [.full] } : State).cal ≠ [] ∧ State.reset.store.op = none ∧
    State.reset.cal = [] ∧ (st [(PIN.STATE_SAFE 255 3, 0)]).flag (PIN.STATE_SAFE 255 3) = false := by decide
theorem witness_lanesSafe : ∀ c n, c < 256 → n < 4 → State.reset.flag (PIN.STATE_SAFE c n) = true := by
  intro c n _ _
  simp [State.flag, State.rd, State.reset, Tab.get, PIN.STATE_SAFE]

/-! Witnesses of `Obligations.ObjorMailboxes`. -/

/-- Objor serves mailbox 0 in the life-cycle state `k`; its buffers lie at the start of steward memory, where `bs` stands. -/
def served (k : Nat) (l : List (Fld × Nat)) (bs : List (Nat × Nat)) : State :=
  bs.foldl (fun t e => t.writeByte (stewardBase + e.1) e.2) (st ([(OBJ.STATUS_READY, 1), (LC.STATE_STATE, k), (OBJ.MB_ARG_ARG 0 1, stewardBase),
    (MPR.BASE_EN 61 0, 1), (MPR.BASE_R 61 0, 1), (MPR.BASE_W 61 0, 1), (MPR.LIMIT_LIMIT 61 0, 2 ^ 36 - 1), (NOC.RT_ACT_V, 2 ^ 44 - 1)] ++ l))
/-- A request of REGISTER_OWNER for index 3, with key ID `sid`. -/
def ownerRequest (op sid : Nat) : List (Nat × Nat) := [(0, 0x48), (1, 0x58), (2, 0x52), (3, 0x4F), (4, op), (5, 3), (6, 5), (56, sid)]
theorem witness_mailbox : (∀ m ∈ [0, 1], (served 1 [(OBJ.MB_STATUS_PEND 1, 1)] []).regOpen (4 * m) (OBJ.MB_CMD_OP m).addr = true) ∧ (served 1 [(OBJ.MB_STATUS_PEND 1, 1)] []).flag (OBJ.MB_STATUS_PEND 1) = true ∧
    (served 1 [(OBJ.MB_STATUS_PEND 1, 1)] []).objor.queue = [] ∧ (served 1 [] []).Serves 0 [1] ∧ (served 1 [] []).StoreFree ∧
    (served 1 [] []).objor.ident = none ∧ bufOk ((served 1 [] []).arg 0 1) 0 = true ∧ (served 1 [] []).objor.cert = [] ∧
    32767 ∉ (served 1 [] []).store.cw.map (·.1) ∧ (served 1 [] []).bonds = [] := by decide
theorem witness_put : (served 1 [] []).ownPut stewardBase 1 [] = .ok (true, served 1 [] []) := rfl
theorem witness_certificate : ∃ h v b u, (served 1 [] [(0, 0x30)]).ObjReads stewardBase 4 h v ∧ v.ObjReads stewardBase ((derLength h).getD 4) b u ∧
    u.StoreFree := by
  obtain ⟨v, h1, hl, hm⟩ := obj_reads (s := served 1 [] [(0, 0x30)]) (a := stewardBase) (n := 4) (Like.refl _) rfl (by decide) (by decide)
  have hd : (derLength ((served 1 [] [(0, 0x30)]).cleanBytes 8 (groupsOf 8 12 stewardBase 1) 4)).getD 4 = 2 := by decide
  obtain ⟨u, h2, hl2, _⟩ := obj_reads (n := 2) (a := stewardBase) hl hm (by decide) (by decide)
  exact ⟨_, v, _, u, h1, hd ▸ h2, hl2.storeFree (by decide)⟩
theorem witness_identityHeld : ({ served 1 [] [] with objor := { ObjorX.reset with ident := some 5 } } : State).objor.ident ≠ none ∧
    ({ served 1 [] [] with objor := { ObjorX.reset with ident := some 5 } } : State).Serves 0 [1] := by decide
/-- The state in which `ownerRequest` stands, with nonce 0. -/
def ownerState (op sid : Nat) : State := (served 2 [] (ownerRequest op sid)).setNonce 0 (some 0)
/-- The bytes of the request. -/
def ownerBytes (op sid : Nat) : List Nat := (ownerState op sid).cleanBytes 8 (groupsOf 8 328 stewardBase 40) 320
set_option maxRecDepth 100000 in
theorem witness_ownerBytes : ∀ e ∈ [(1, 0), (2, 0), (3, 9), (4, 9)], ∀ s ∈ [ownerState e.1 e.2], ∀ b ∈ [ownerBytes e.1 e.2], s.Serves 0 [1, 2] ∧
    s.StoreFree ∧ le (s.cleanBytes 8 (groupsOf 8 16 stewardBase 1) 8) 7 1 = 0 ∧ le b 0 4 = 0x4F525848 ∧ le b 4 1 = e.1 ∧ le b 5 1 = 3 ∧
    le b 6 1 < 16 ∧ le b 7 1 = 0 ∧ le b 8 16 = 0 ∧ s.rd LC.UNIT_ID0_ID = 0 ∧ s.rd LC.UNIT_ID1_ID = 0 ∧ s.nonce 0 = some (le b 24 32) ∧
    le b 56 16 = e.2 ∧ s.flag (OBJ.OWNER_A_VALID 3) = false ∧ s.flag (OBJ.FLEET_VALID 3) = false ∧
    s.readsB (groupsOf 8 16 stewardBase 1) = true ∧ s.readsB (groupsOf 8 328 stewardBase 40) = true := by decide
theorem witness_owners : ∀ e ∈ [(1, 0), (2, 0), (3, 9), (4, 9)], ∃ h v b u, (ownerState e.1 e.2).ObjReads stewardBase 8 h v ∧
    v.ObjReads stewardBase (224 + 96) b u ∧ b = ownerBytes e.1 e.2 ∧ u.StoreFree ∧ u.unitId = 0 ∧ u.nonce 0 = (ownerState e.1 e.2).nonce 0 ∧
    u.flag (OBJ.OWNER_A_VALID 3) = false ∧ u.flag (OBJ.FLEET_VALID 3) = false := by
  intro e he
  obtain ⟨_, hf, _, _, _, _, _, _, _, h0, h1, _, _, hv, hw, r1, r2⟩ := witness_ownerBytes e he _ (List.mem_singleton.mpr rfl) _ (List.mem_singleton.mpr rfl)
  obtain ⟨v, k1, hl, hm⟩ := obj_reads (n := 8) (a := stewardBase) (Like.refl _) rfl (by decide) r1
  obtain ⟨u, k2, hu, _⟩ := obj_reads (n := 224 + 96) (a := stewardBase) hl hm (by decide) r2
  refine ⟨_, v, _, u, k1, k2, rfl, hu.storeFree hf, ?_, hu.keep (·.nonce 0) fun _ _ _ _ _ _ _ _ => rfl, ?_, ?_⟩
  · unfold State.unitId
    rw [hu.rd _ (by simp only [isToll, Fld.key]; omega), hu.rd _ (by simp only [isToll, Fld.key]; omega), h0, h1]
    rfl
  · rw [hu.flag (by simp only [isToll, Fld.key]; omega)]; exact hv
  · rw [hu.flag (by simp only [isToll, Fld.key]; omega)]; exact hw

/-! Witnesses of `Obligations.SessionsManifestsAndSeals`. -/

/-- The caravan of cell 0 is HALTED and drained, and the unit has an identity. -/
def sealable (x : Option SealRun) (o : List SlotX) : State :=
  let t := served 2 [(CEL.CARAVAN_EN 0, 1), (SEQ.STATUS_STATE 0, stHalted), (LDG.CVST_DRAIN_DONE 0 0, 1), (OBJ.SLOT_A_STATE 3, 2),
    (OBJ.MB_ARG_ARG 0 0, 256 * 3)] []
  { t with objor := { ObjorX.reset with ident := some 5, sealRun := x, slots := o } }
/-- What Objor keeps of a manifest in slot 3 with one BOND section. -/
def bondSlot : SlotX := ⟨3, 0, 1, 0, 0, 0, [⟨10, 1, 0, 9, 16, 0, 0, 0⟩], [], [(0, [7])]⟩
theorem witness_sessions : ∀ s ∈ [sealable none [bondSlot]], s.Serves 0 [2] ∧ bits (s.arg 0 0) 0 8 = 0 ∧ bits (s.arg 0 0) 8 4 = 3 ∧
    bits (s.arg 0 0) 12 10 = 0 ∧ s.bonds = [] ∧ s.isLead 0 = true ∧ s.rd (OBJ.SLOT_A_STATE 3) = 2 ∧
    s.objor.slots.find? (fun o => o.slot == 3) = some bondSlot ∧ bondSlot.bonds.find? (fun e => e.1 == 0) = some (0, [7]) ∧
    bondSlot.bonds.find? (fun e => e.1 == 1) = none ∧ bitOf bondSlot.siteMask (s.siteOf 0) = true := by decide
set_option maxRecDepth 100000 in
theorem witness_zeroise : (∀ j, 1 ≤ j → j < 16 → ¬ (served 1 [] []).SlotUsed j) ∧ (served 1 [] []).StoreFree ∧
    (served 1 [(FAB.PLANE_MSLOT 0 0, 7), (OBJ.MB_ARG_ARG 0 0, 7)] []).SlotUsed 7 := by
  have h : ∀ s ∈ [served 1 [] []], (∀ b ∈ List.range 32, s.rd (FAB.PLANE_MSLOT b (s.activePlane b)) = 0) ∧
      s.allLeads.all (fun l => !s.busy l) = true := by decide
  obtain ⟨hp, hb⟩ := h _ (List.mem_singleton.mpr rfl)
  refine ⟨fun j h1 h2 => ?_, by decide, .inl ⟨0, by decide, by decide⟩⟩
  rintro (⟨b, hb1, hb2⟩ | ⟨l, hl, hl2, _⟩)
  · have := hp b (List.mem_range.mpr hb1)
    omega
  · have := List.all_eq_true.mp hb l hl
    simp [hl2] at this
/-- A manifest of one DEPOT section of one word, for the depot of block 0, in its 55 words from depot 0 up. -/
def manifestState (l : List (Fld × Nat)) : State :=
  ([(0, 0x48), (1, 0x58), (2, 0x4D), (3, 0x46), (4, 1), (32, 0xEF), (33, 1), (36, 1), (39, 1), (280, 2),
    (284, 0xE6), (285, 1), (288, 9)].foldl (fun t e => t.writeByte (depotBase 0 + 16 * (e.1 / 9) + e.1 % 9) e.2)
    (served 1 ([(OBJ.MB_ARG_ARG 0 0, 5), (OBJ.MB_ARG_ARG 0 1, depotBase 0), (PWR.DOMAINS_BLK_ON, 1), (PWR.DOMAINS_RGN_ON, 1)] ++ l) []))
/-- Its 495 bytes. -/
def manifestOf (s : State) : List Nat := s.cleanBytes 9 (groupsOf 16 56 (depotBase 0) 55) 495
set_option maxRecDepth 1000000 in
theorem witness_manifestBytes : ∀ s ∈ [manifestState []], s.Serves 0 [1, 2] ∧ bits (s.arg 0 0) 0 4 = 5 ∧ s.rd (OBJ.SLOT_A_STATE 5) = 0 ∧
    (s.arg 0 1) % 16 = 0 ∧ (targetOf (s.arg 0 1)).slot = 16 ∧ mfLen (s.cleanBytes 9 (groupsOf 16 13 (depotBase 0) 12) 108) = 495 ∧
    formatOk (manifestOf s) = true ∧ (mfSects (manifestOf s)).length = 1 ∧ (∀ x ∈ mfSects (manifestOf s), x.type = 2 ∧ bits x.target 16 16 + x.words ≤ 65536) ∧
    s.readsB (groupsOf 16 13 (depotBase 0) 12) = true ∧ s.readsB (groupsOf 16 56 (depotBase 0) 55) = true := by decide
theorem depot_fits (s : State) (n : Nat) (x : Sect) (h : x.type = 2 ∧ bits x.target 16 16 + x.words ≤ 65536) : s.targetBad n x = false := by
  unfold State.targetBad
  rw [h.1]
  simp
  omega
theorem witness_manifest : ∃ h v b u, (manifestState []).ManifestReads (depotBase 0) 108 h v ∧ v.ManifestReads (depotBase 0) (mfLen h) b u ∧
    b = manifestOf (manifestState []) ∧ ∀ x ∈ mfSects b, x.type ≠ 5 ∧ u.targetBad 5 x = false := by
  obtain ⟨_, _, _, _, _, hl, _, _, hx, r1, r2⟩ := witness_manifestBytes _ (List.mem_singleton.mpr rfl)
  obtain ⟨v, k1, h1, m1⟩ := manifest_reads (n := 108) (a := depotBase 0) (Like.refl _) rfl r1
  obtain ⟨u, k2, _, _⟩ := manifest_reads (n := 495) (a := depotBase 0) h1 m1 r2
  exact ⟨_, v, _, u, k1, hl ▸ k2, rfl, fun x h => ⟨by rw [(hx x h).1]; decide, depot_fits u 5 x (hx x h)⟩⟩
/-- The same manifest between the two passes of its install. -/
def installing (bs : List Nat) : State :=
  { manifestState [(OBJ.SLOT_A_STATE 5, 1)] with objor := { ObjorX.reset with install := some ⟨0, 5, depotBase 0, bs⟩ } }
/-- Objor reads the manifest `b` again and writes its one DEPOT word. -/
theorem installs (s : State) (b : List Nat) (hn : b.length = 495) (he : s.flag OBJ.STATUS_ERROR = false) (hb : manifestOf s = b)
    (r : s.readsB (groupsOf 16 56 (depotBase 0) 55) = true) (hx : ∀ x ∈ mfSects b, x.type = 2 ∧ bits x.target 16 16 + x.words ≤ 65536)
    (hs : (mfSects b).map (fun x => (x.enc, x.words, bits x.target 0 5, bits x.target 16 16)) = [(false, 1, 0, 0)])
    (hd : s.domainOff (.blockRegs 0) = false) (hc : s.clearB (wordsReq 61 0 (depotBase 0) 1 true []) = true) :
    ∃ u v, s.ManifestReads (depotBase 0) b.length b u ∧ u.flag OBJ.STATUS_ERROR = false ∧ (∀ x ∈ mfSects b, x.type ≠ 5 ∧ u.targetBad 5 x = false) ∧
    u.putAll 5 false ((mfSects b).zipIdx.map fun e => (e.1, e.1.content b ((u.contentKey b).getD 0) e.2)) = .ok (true, v) := by
  obtain ⟨u, k, hu, _⟩ := manifest_reads (n := 495) (a := depotBase 0) (Like.refl _) rfl r
  obtain ⟨hq, _⟩ := readsB_reads r
  have hw : ∀ ws : List Nat, ws.length = 1 → ∃ v, u.putWords ws [depotBase 0] = .ok (true, v) := by
    intro ws hl
    obtain ⟨v, h, _⟩ := own_writes [(depotBase 0, 1)] u ws (hu.quiet hq) (by intro g hg; rw [List.mem_singleton] at hg; subst hg; exact ⟨hu.clear (clear_of hc), by decide⟩) (by simp [hl])
    refine ⟨v, ?_⟩
    have : groupsOf 16 (ws.length + 1) (depotBase 0) ws.length = [(depotBase 0, 1)] := by rw [hl]; decide
    simp only [State.putWords, this, h]
  have hp : ∀ x : Sect, (x.type = 2 ∧ bits x.target 16 16 + x.words ≤ 65536) → bits x.target 0 5 = 0 → bits x.target 16 16 = 0 → ∀ ws : List Nat, ws.length = 1 →
      ∃ v, u.putAll 5 false [(x, ws)] = .ok (true, v) := by
    intro x h0 h2 h3 ws hl
    have h1 := h0.1
    obtain ⟨v, h⟩ := hw ws hl
    have ho : u.domainOff (.blockRegs 0) = false := by
      unfold State.domainOff State.blockOn State.regionOn at hd ⊢
      simp only [Target.domains] at hd ⊢
      rwa [hu.rd _ (by simp only [isToll, Fld.key]; omega), hu.rd _ (by simp only [isToll, Fld.key]; omega),
        hu.rd _ (by simp only [isToll, Fld.key]; omega), hu.rd _ (by simp only [isToll, Fld.key]; omega)]
    have hf : u.putFails 5 x ws = false := by
      simp [State.putFails, Sect.blocks, h1, h2, ho, depot_fits u 5 x h0]
    exact ⟨v, by simp only [State.putAll, hf, Bool.false_eq_true, if_false, State.memSect, h1, h2, h3, Nat.mul_zero, Nat.add_zero, h]⟩
  obtain ⟨x, hm, hr⟩ := List.map_eq_singleton_iff.mp hs
  simp only [Prod.mk.injEq] at hr
  obtain ⟨v, hv⟩ := hp x (hx x (by simp [hm])) hr.2.2.1 hr.2.2.2 (x.content b ((u.contentKey b).getD 0) 0) (by simp [Sect.content, hr.1, hr.2.1, bytesWords])
  refine ⟨u, v, by rw [hn]; exact hb ▸ k, ?_, fun x h => ⟨by rw [(hx x h).1]; decide, depot_fits u 5 x (hx x h)⟩, ?_⟩
  · rw [hu.flag (by simp only [isToll, Fld.key]; omega)]; exact he
  · rw [hm]; exact hv
set_option maxRecDepth 1000000 in
theorem witness_installQuiet : ∀ s ∈ [installing []], s.objor.queue = [] ∧ s.objor.sealRun = none ∧ s.frozen = false ∧ s.StoreFree := by decide
set_option maxRecDepth 1000000 in
theorem witness_installBytes : ∀ b ∈ [manifestOf (manifestState [])], ∀ s ∈ [installing b], b.length = 495 ∧ s.flag OBJ.STATUS_ERROR = false ∧
    manifestOf s = b ∧ s.readsB (groupsOf 16 56 (depotBase 0) 55) = true ∧ (∀ x ∈ mfSects b, x.type = 2 ∧ bits x.target 16 16 + x.words ≤ 65536) ∧
    (mfSects b).map (fun x => (x.enc, x.words, bits x.target 0 5, bits x.target 16 16)) = [(false, 1, 0, 0)] ∧
    s.domainOff (.blockRegs 0) = false ∧ s.clearB (wordsReq 61 0 (depotBase 0) 1 true []) = true ∧ bitOf (mfPolicy b) 0 = false := by decide
theorem witness_install : ∃ b u v, (installing b).ManifestReads (depotBase 0) b.length b u ∧ u.flag OBJ.STATUS_ERROR = false ∧
    (∀ x ∈ mfSects b, x.type ≠ 5 ∧ u.targetBad 5 x = false) ∧ bitOf (mfPolicy b) 0 = false ∧
    u.putAll 5 false ((mfSects b).zipIdx.map fun e => (e.1, e.1.content b ((u.contentKey b).getD 0) e.2)) = .ok (true, v) := by
  obtain ⟨hn, he, hb, r, hx, hs, hd, hc, h0⟩ := witness_installBytes _ (List.mem_singleton.mpr rfl) _ (List.mem_singleton.mpr rfl)
  obtain ⟨u, v, k1, k2, k3, k4⟩ := installs _ _ hn he hb r hx hs hd hc
  exact ⟨_, u, v, k1, k2, k3, h0, k4⟩
theorem witness_seal : (sealable none []).Serves 0 [1, 2] ∧ (sealable none []).cvState 0 = stHalted ∧ (served 1 [] []).cvState 0 ≠ stHalted ∧
    (sealable none []).objor.ident ≠ none ∧ (sealable none []).isLead 0 = true ∧ (sealable none []).flag (LDG.CVST_DRAIN_DONE 0 0) = true ∧
    (sealable none []).flag (LDG.CVST_ALLOC_BUSY 0 0) = false ∧ ((sealable none []).run 0).sealed = false ∧
    ((sealable none []).run 0).provSlot % 16 = 0 ∧ bufOk ((sealable none []).arg 0 1) 272 = true ∧
    (∀ z ∈ [false, true], (sealable (some ⟨0, 0, stewardBase, List.replicate 32 0, true, some (0, 0), z⟩) []).objor.sealRun =
      some ⟨0, 0, stewardBase, List.replicate 32 0, true, some (0, 0), z⟩) ∧ (sealable none []).frozen = false ∧
    (sealable none []).flag (LDG.STATUS_DIG_BUSY 0) = false ∧ (sealable none []).objor.queue = [] ∧
    (sealable none []).StoreFree := by decide
/-- The state in which the seal is written. -/
def sealing : State := State.logForSeal (sealable none []) 0
set_option maxRecDepth 1000000 in
theorem witness_sealClear : sealing.readsB [] = true ∧ (groupsOf 8 34 stewardBase 34).all (fun g => sealing.clearB (wordsReq 61 0 g.1 g.2 true [])) = true := by
  decide
theorem witness_sealPut (sig : Nat) : ∃ u, sealing.ownPut stewardBase 272 ((sealable none []).sealBody 0 (List.replicate 32 0) (0, 0) ++ toBytes 96 sig) =
    .ok (true, u) := by
  obtain ⟨h1, h2⟩ := witness_sealClear
  obtain ⟨u, h, _⟩ := own_put 34 272 stewardBase 34 ((sealable none []).sealBody 0 (List.replicate 32 0) (0, 0) ++ toBytes 96 sig) sealing
    (by simp [State.sealBody, toBytes_length, List.range, List.range.loop]) (by decide) (by decide) (readsB_reads h1).1
    (fun g hg => clear_of (List.all_eq_true.mp h2 g hg))
  exact ⟨u, h⟩

/-! Witnesses of `Obligations.LifeCycleAndTokens`. -/

/-- A request of 168 bytes that begins with `magic`, byte 4 being `v`. -/
def asks (magic : List Nat) (v : Nat) : List (Nat × Nat) := [(0, magic.getD 0 0), (1, magic.getD 1 0), (2, magic.getD 2 0), (3, magic.getD 3 0), (4, v)]
/-- The state in which such a request stands at the buffer, with nonce 0. -/
def askState (lc : Nat) (magic : List Nat) (v : Nat) : State := (served lc [] (asks magic v)).setNonce 0 (some 0)
/-- The bytes that Objor reads there. -/
def askBytes (s : State) : List Nat := s.cleanBytes 8 (groupsOf 8 176 stewardBase 21) 168
set_option maxRecDepth 100000 in
theorem witness_lifeCycleBytes : ∀ s ∈ [askState 0 [0x48, 0x58, 0x4C, 0x43] 1], ∀ b ∈ [askBytes s], s.Serves 0 [0, 1, 2, 3, 7] ∧ s.StoreFree ∧
    s.arg 0 1 = stewardBase ∧ le b 4 1 = 1 ∧ s.rd LC.STATE_STATE = 0 ∧ lcAllowed 0 1 = true ∧ lcAllowed 0 2 = false ∧ le b 56 16 = 0 ∧
    le b 0 4 = 0x434C5848 ∧ le b 5 3 = 0 ∧ s.nonce 0 = some (le b 24 32) ∧ s.slotClass 2 1 = 0 ∧ s.openLc = [] ∧
    s.readsB (groupsOf 8 176 stewardBase 21) = true ∧ (∀ c, c < 3 → s.cwState (1024 * c) = 0) := by decide
theorem witness_lifeCycle : ∀ s ∈ [askState 0 [0x48, 0x58, 0x4C, 0x43] 1], ∃ u, s.ObjReads (s.arg 0 1) 168 (askBytes s) u ∧
    u.rd LC.STATE_STATE = 0 ∧ u.nonce 0 = s.nonce 0 ∧ u.StoreFree := by
  intro s hs
  obtain ⟨_, hf, ha, _, h0, _, _, _, _, _, _, _, _, r, _⟩ := witness_lifeCycleBytes s hs _ (List.mem_singleton.mpr rfl)
  obtain ⟨u, k, hu, _⟩ := obj_reads (n := 168) (a := stewardBase) (Like.refl s) rfl (by decide) r
  refine ⟨u, by rw [ha]; exact k, ?_, hu.keep (·.nonce 0) fun _ _ _ _ _ _ _ _ => rfl, hu.storeFree hf⟩
  rw [hu.rd _ (by simp only [isToll, Fld.key]; omega)]; exact h0
/-- Requests that LC_REQUEST refuses. -/
theorem witness_lifeCycleWrong : ∀ e ∈ [(askState 0 [] 1, 1), (askState 0 [] 2, 2)], e.1.Serves 0 [0, 1, 2, 3, 7] ∧ le (askBytes e.1) 4 1 = e.2 ∧
    le (askBytes e.1) 0 4 ≠ 0x434C5848 ∧ e.1.readsB (groupsOf 8 176 stewardBase 21) = true := by decide
set_option maxRecDepth 100000 in
theorem witness_rollForward : ((served 7 [] []).journal (lcRecord 1 1 0 0)).openLc ≠ [] ∧ ((served 7 [] []).journal (lcRecord 1 1 0 0)).StoreFree ∧
    ((served 7 [] []).journal (lcRecord 1 1 0 0)).Serves 0 [0, 1, 2, 3, 7] ∧ ((served 7 [] []).journal (lcRecord 1 1 0 0)).rd LC.STATE_STATE = 7 := by decide
set_option maxRecDepth 100000 in
theorem witness_tokenBytes : ∀ s ∈ [askState 2 [0x48, 0x58, 0x44, 0x54] 15], ∀ b ∈ [askBytes s], s.Serves 0 [2] ∧ s.arg 0 1 = stewardBase ∧
    le b 4 1 = 15 ∧ le b 0 4 = 0x54445848 ∧ le b 5 3 = 0 ∧ le b 8 16 = 0 ∧ s.rd LC.UNIT_ID0_ID = 0 ∧ s.rd LC.UNIT_ID1_ID = 0 ∧
    s.nonce 0 = some (le b 24 32) ∧ le b 56 16 = 0 ∧ s.readsB (groupsOf 8 176 stewardBase 21) = true := by decide
theorem witness_token : ∀ s ∈ [askState 2 [0x48, 0x58, 0x44, 0x54] 15], ∃ u, s.ObjReads (s.arg 0 1) 168 (askBytes s) u ∧
    u.unitId = 0 ∧ u.nonce 0 = s.nonce 0 := by
  intro s hs
  obtain ⟨_, ha, _, _, _, _, h0, h1, _, _, r⟩ := witness_tokenBytes s hs _ (List.mem_singleton.mpr rfl)
  obtain ⟨u, k, hu, _⟩ := obj_reads (n := 168) (a := stewardBase) (Like.refl s) rfl (by decide) r
  refine ⟨u, by rw [ha]; exact k, ?_, hu.keep (·.nonce 0) fun _ _ _ _ _ _ _ _ => rfl⟩
  unfold State.unitId
  rw [hu.rd _ (by simp only [isToll, Fld.key]; omega), hu.rd _ (by simp only [isToll, Fld.key]; omega), h0, h1]
  rfl
theorem witness_selfTest : State.reset.flag OBJ.STATUS_READY = false ∧ State.reset.flag OBJ.STATUS_ERROR = false ∧ State.reset.logLost = false ∧
    (∀ k, k < 16 → State.reset.rd (OBJ.SLOT_A_STATE k) ≠ 1) ∧ (served 1 [] []).flag OBJ.STATUS_READY = true ∧
    ({ State.reset with objor := { ObjorX.reset with ident := some 5 } } : State).logLost = true ∧
    (st [(OBJ.SLOT_A_STATE 15, 1)]).rd (OBJ.SLOT_A_STATE 15) = 1 ∧ (st [(OBJ.SLOT_A_STATE 15, 1)]).StoreFree := by decide

/-! Witnesses of `Obligations.FreezeAndReadout`. -/

/-- Frozen with readout granted, the link up. -/
def frozenState (l : List (Fld × Nat)) : State :=
  { st ([(DBG.FRZ_STATUS_FROZEN, 1), (DBG.AUTH_PERM, 15), (PCI.STATUS_LINK_UP, 1)] ++ l) with
    host := { HostX.reset with perst := false }, rst := { RstX.reset with held := false } }
theorem witness_freeze : (st [(LC.STATE_STATE, 7)]).rd LC.STATE_STATE = 7 ∧ State.reset.flag DBG.FRZ_CTRL_PIN_EN = false ∧
    (st [(DBG.FRZ_CTRL_PIN_EN, 1), (LC.STATE_STATE, 2)]).flag DBG.FRZ_CTRL_PIN_EN = true ∧ (st [(LC.STATE_STATE, 2)]).rd LC.STATE_STATE ≠ 7 ∧
    (st [(LC.STATE_STATE, 2)]).rd LC.PROGRESS_PHASE = 0 ∧ (st [(LC.STATE_STATE, 2)]).frozen = false ∧ State.reset.bst.run = none ∧
    (frozenState []).frozen = true ∧ State.reset.flag DBG.FRZ_STATUS_ENTERING = false ∧ State.reset.regOpen 0 DBG.FRZ_CTRL_FREEZE.addr = true ∧ (st [(LC.STATE_STATE, 7)]).regOpen 0 DBG.FRZ_CTRL_FREEZE.addr = true ∧
    (frozenState []).regOpen 0 DBG.FRZ_CTRL_THAW.addr = true ∧ State.reset.regOpen 0 DBG.FRZ_CTRL_THAW.addr = true ∧
    (st [(DBG.FRZ_STATUS_ENTERING, 1)]).flag DBG.FRZ_STATUS_ENTERING = true ∧ (frozenState []).flag DBG.FRZ_STATUS_FROZEN = true := by decide
theorem witness_readout : (frozenState []).barsOpen = true ∧ bitOf ((frozenState []).rd DBG.AUTH_PERM) 1 = true ∧
    (frozenState [(DBG.FRZ_STATUS_FROZEN, 0)]).barsOpen = true ∧ (frozenState [(DBG.FRZ_STATUS_FROZEN, 0)]).flag DBG.FRZ_STATUS_FROZEN = false ∧ (frozenState []).rst.scanning = false ∧
    (frozenState [(LC.STATE_STATE, 2)]).rd LC.STATE_STATE ≠ 7 ∧ bitOf ((frozenState []).rd DBG.AUTH_PERM) 2 = true ∧
    bitOf (State.reset.rd DBG.AUTH_PERM) 2 = false ∧ (frozenState []).bonds = [] ∧ (∀ k, 1 ≤ k → k < 16 → (frozenState []).rd (OBJ.SLOT_A_STATE k) = 0) ∧
    (frozenState [(OBJ.SLOT_A_STATE 15, 2)]).rd (OBJ.SLOT_A_STATE 15) ≠ 0 := by decide

/-! Witnesses of `Obligations.LevelsAndDomainCommands`. -/

/-- The power controller in the state `p`. -/
def powered (p : PowerX) (l : List (Fld × Nat)) : State := { st l with power := p }
theorem witness_powerLevels : (st [(PWR.CMD_STATUS_PEND, 1)]).flag PWR.CMD_STATUS_PEND = true ∧ (st [(PWR.CMD_STATUS_PEND, 1)]).regOpen 0 PWR.CMD_OP.addr = true ∧
    (powered { PowerX.reset with redo := true } []).regOpen 0 PWR.CMD_OP.addr = true ∧ (powered { PowerX.reset with redo := true } []).flag PWR.CMD_STATUS_PEND = false ∧
    State.reset.regOpen 0 PWR.CMD_OP.addr = true ∧ State.reset.power.cmdWait = none ∧ State.reset.PwrFree ∧
    (∀ b, b < 32 → State.reset.rd (PLL.STATUS_STATE b) = pllOff ∧ (State.reset.block b).pll = none) ∧
    (∀ s ∈ [st [(PLL.STATUS_STATE 31, pllLocked), (PLL.ACT_CFG_SDIV 31, 12)]], s.PwrFree ∧ s.blockOn 31 = true ∧
      s.rd (PLL.STATUS_STATE 31) ≠ pllOff ∧ s.overLimit (s.pllTarget 31) 3 = true ∧ s.rd PWR.STATUS_LEVEL < 3 ∧ s.regOpen 0 PWR.CMD_OP.addr = true) ∧
    (st [(PWR.STATUS_VOLT_LAG, 1), (PWR.PMB_EN, 1)]).flag PWR.STATUS_VOLT_LAG = true ∧ (st [(PWR.STATUS_VOLT_LAG, 1), (PWR.PMB_EN, 1)]).PwrFree ∧
    (powered { PowerX.reset with redo := true } []).power.redo = true ∧ (powered { PowerX.reset with redo := true } []).power.levelRun = none ∧
    State.reset.power.request = none ∧ State.reset.pmbusPins = false ∧
    State.reset.flag CHIP.CLK_STATUS_FALLBACK = false ∧ State.reset.rd PWR.STATUS_LEVEL = 0 ∧ State.reset.flag PWR.STATUS_VOLT_LAG = false ∧
    (st [(PWR.STATUS_LEVEL, 3), (PWR.PMB_EN, 1)]).flag PWR.PMB_EN = true ∧ (st [(PWR.STATUS_LEVEL, 3), (PWR.PMB_EN, 1)]).PwrFree ∧ (st [(PWR.STATUS_LEVEL, 3), (PWR.PMB_EN, 1)]).regOpen 0 PWR.CMD_OP.addr = true ∧
    (powered { PowerX.reset with levelRun := some ⟨3, false, true⟩ } []).power.levelRun = some ⟨3, false, true⟩ ∧
    (st [(GPIO.PIN_FUNC 20, 4), (GPIO.PIN_FUNC 21, 4)]).pmbusPins = true := by decide
theorem witness_powerDomains : State.reset.bst.run = none ∧ State.reset.domainOn 35 = true ∧ (st [(PWR.DOMAINS_RGN_ON, 7)]).domainOn 35 = false ∧
    (st [(PWR.DOMAINS_RGN_ON, 7)]).PwrFree ∧ (st [(PWR.DOMAINS_RGN_ON, 7)]).regOpen 0 PWR.CMD_OP.addr = true ∧ ¬ State.reset.MayPowerOff 35 ∧ State.reset.MayPowerOff 31 ∧ (st [(PWR.DOMAINS_BLK_ON, 1)]).MayPowerOff 35 ∧
    ¬ (st [(FAB.STATUS_ARMED 31, 1)]).MayPowerOff 31 ∧
    (st [(PWR.DOMAINS_BLK_ON, 1), (PWR.DOMAINS_RGN_ON, 7)]).regionOn (regionOfBlock 31) = false ∧
    (st [(PWR.DOMAINS_BLK_ON, 1)]).regionOn (regionOfBlock 31) = true ∧ (st [(PWR.DOMAINS_BLK_ON, 1)]).domainOn 31 = false ∧
    (powered { PowerX.reset with rising := [31], risingCmd := some 31 } []).power.rising = [31] := by and_intros <;> decide
/-- Steward 0 waits for scratchpad 0 in compatibility mode, its block off. -/
def legacyState : State :=
  { st [(PWR.CTRL_LEGACY_WAKE, 1), (PWR.DOMAINS_BLK_ON, 2)] with net := { NetX.reset with waiting := [padReq .rd] } }
theorem witness_legacy : legacyState.flag PWR.CTRL_LEGACY_WAKE = true ∧ (∃ q ∈ legacyState.net.waiting, q.target.domains.1 = some 0) ∧ legacyState.power.entry = none ∧ legacyState.domainOn 0 = false ∧
    legacyState.power.rising = [] ∧ (st [(PWR.DOMAINS_BLK_ON, 2)]).flag PWR.CTRL_LEGACY_WAKE = false ∧ State.reset.rd PWR.BLK_AUTO_US = 0 ∧
    (st [(PWR.BLK_AUTO_US, 9), (PWR.BLK_AUTO_EN_EN, 2 ^ 31)]).rd PWR.BLK_AUTO_US ≠ 0 ∧
    bitOf ((st [(PWR.BLK_AUTO_US, 9), (PWR.BLK_AUTO_EN_EN, 2 ^ 31)]).rd PWR.BLK_AUTO_EN_EN) 31 = true ∧ State.reset.blockOn 31 = true ∧
    State.reset.BlockStill 31 ∧ State.reset.flag (FAB.STATUS_RUN 31) = false ∧
    State.reset.flag (FAB.STATUS_ARMED 31) = false ∧ State.reset.frozen = false ∧ (st [(DBG.FRZ_STATUS_FROZEN, 1)]).frozen = true := by decide

/-! Witnesses of `Obligations.SleepAndWake`. -/

/-- An entry to DOZE at a stage. -/
def entering (stage : Nat) (p : PowerX) : State := { st [] with power := { p with entry := some ⟨2, 36, 0, 0, stage, false⟩ } }
/-- Every steward waits. -/
def allWaiting : State := (List.range 4).foldl (fun t w => t.modSteward w fun x => { x with wfi := true }) State.reset
set_option maxRecDepth 100000 in
theorem witness_sleep : ¬ (powered { PowerX.reset with redo := true } []).PwrFree ∧ (powered { PowerX.reset with redo := true } []).regOpen 0 PWR.SLEEP_REQ.addr = true ∧
    State.reset.regOpen 0 PWR.SLEEP_REQ.addr = true ∧ State.reset.PwrFree ∧ State.reset.MaySleep 3 ∧
    (st [(DBG.FRZ_STATUS_FROZEN, 1)]).regOpen 0 PWR.SLEEP_REQ.addr = true ∧ allWaiting.regOpen 0 PWR.SLEEP_REQ.addr = true ∧
    ¬ (st [(DBG.FRZ_STATUS_FROZEN, 1)]).MaySleep 1 ∧ (st [(DBG.FRZ_STATUS_FROZEN, 1)]).PwrFree ∧ (∀ i, i < 8 → State.reset.flag (DMA.STATUS_PEND i) = false) ∧
    (∀ c, c < 256 → allWaiting.flag (SEQ.RING_STATUS_DMA_ACTIVE c) = false) ∧ (powered { PowerX.reset with request := some 2 } []).power.request ≠ none ∧
    (powered { PowerX.reset with request := some 2 } []).regOpen 0 PWR.SLEEP_REQ.addr = true ∧
    State.reset.power.request = none ∧ State.reset.bst.run = none ∧ State.reset.flag PWR.AUTO_EN = false ∧
    (∀ w, w < 4 → (allWaiting.steward w).wfi = true) ∧
    (st [(PWR.AUTO_EN, 1)]).flag PWR.AUTO_EN = true := by and_intros <;> decide
theorem witness_entry : (∀ k ∈ [2, 3, 4, 5], (entering k PowerX.reset).power.entry = some ⟨2, 36, 0, 0, k, false⟩) ∧
    (entering 2 PowerX.reset).entryTraffic ⟨2, 36, 0, 0, 2, false⟩ = false ∧ (entering 2 PowerX.reset).frozen = false ∧
    (entering 2 PowerX.reset).entryRefusers ⟨2, 36, 0, 0, 2, false⟩ = [] ∧
    (entering 3 { PowerX.reset with wakes := [(5, 0)] }).entryRefusers ⟨2, 36, 0, 0, 3, false⟩ = [7] := by decide
theorem witness_wake : ([(2, 0), (5, 0)].filter (powered { PowerX.reset with sleep := 2, request := some 2 } [(PWR.WAKE_EN_EN, 16)]).wakeEnabled) = [(5, 0)] ∧
    ([(2, 0), (5, 0)].filter (powered { PowerX.reset with sleep := 2, wakes := [(2, 0)] } [(PWR.WAKE_EN_EN, 16)]).wakeEnabled) = [(5, 0)] ∧
    (powered { PowerX.reset with sleep := 1 } []).power.cmdWait = none ∧ legacyState.net.waiting ≠ [] ∧
    ({ legacyState with power := { PowerX.reset with sleep := 1 } } : State).power.sleep = 1 ∧ ([(2, 0), (5, 0)].filter State.reset.wakeEnabled) = [] ∧
    ([(2, 0), (5, 0)].filter (powered { PowerX.reset with sleep := 3 } [(PWR.WAKE_EN_EN, 16)]).wakeEnabled) = [(5, 0)] ∧
    (st [(PWR.OTIMER_EN, 1)]).flag PWR.OTIMER_EN = true ∧ State.reset.flag PWR.OTIMER_EN = false ∧ State.reset.power.sleep = 0 ∧ State.reset.power.entry = none ∧
    (powered { PowerX.reset with sleep := 2, wakes := [(2, 0)] } [(PWR.CTRL_LEGACY_WAKE, 1)]).flag PWR.STATUS_SLEEP_SUPPLY = false ∧
    (powered { PowerX.reset with sleep := 3, wakes := [(2, 0)] } []).flag PWR.STATUS_SLEEP_SUPPLY = false ∧
    (powered { PowerX.reset with sleep := 3, wakes := [(2, 0)] } []).flag PWR.CTRL_LEGACY_WAKE = false ∧
    ({ State.reset with power := { PowerX.reset with entry := some ⟨0, 35, 0, 8, 5, false⟩ } } : State).power.entry = some ⟨0, 35, 0, 8, 5, false⟩ ∧
    (powered { PowerX.reset with sleep := 2, wakes := [(2, 0)] } [(PWR.CTRL_LEGACY_WAKE, 1)]).rd LC.STATE_STATE ≠ 7 := by decide

/-! Witnesses of `Obligations.FaultDetectorsAndHub`. -/

/-- A hub with containment 4 of the caravan of cell 0 in progress, its caravans halted or not. -/
def containing (halted : Bool) (l : List (Fld × Nat)) : State :=
  { st ([(CEL.CARAVAN_EN 0, 1), (SEQ.STATUS_STATE 0, stRunning)] ++ l) with hub := { HubX.reset with contains := [⟨4, 1, 0, 0, [0], halted⟩] } }
theorem witness_detectors : (containing false [(PLL.STATUS_CLK_RUN 0, 1)]).isLead 0 = true ∧ (containing false [(PLL.STATUS_CLK_RUN 0, 1)]).cvState 0 = stRunning ∧
    (containing false [(PLL.STATUS_CLK_RUN 0, 1)]).members 0 = [0] ∧
    State.reset.flag CHIP.CLK_STATUS_TREF_OK = false ∧ State.reset.flag CHIP.CLK_STATUS_CVYREF_OK = false ∧
    (st [(CHIP.CLK_STATUS_CVYREF_OK, 1)]).flag CHIP.CLK_STATUS_CVYREF_OK = true ∧ (frozenState []).rst.held = false ∧
    (frozenState []).power.sleep < 2 ∧ State.reset.power.sleep < 2 ∧ (containing false []).frozen = false ∧ (frozenState []).frozen = true ∧
    (containing false [(PLL.STATUS_CLK_RUN 0, 1)]).flag (PLL.STATUS_CLK_RUN 0) = true ∧ State.reset.flag (PLL.STATUS_CLK_RUN 0) = false ∧ 2 ≤ (powered { PowerX.reset with sleep := 3 } []).power.sleep := by decide
theorem witness_hub : (∀ f ∈ [(⟨0x1E, 3, false, 7, []⟩ : FaultRep), ⟨0x01, 0, false, 7, []⟩, ⟨0x18, 3, true, 7, []⟩, ⟨0x19, 0, true, 7, []⟩],
      ({ State.reset with faultQ := [f] } : State).faultQ = f :: [] ∧ (codeScope f.code f.unit).getD 6 < 7) ∧ State.reset.hub.log.length < 64 ∧
    ((containing false []).hub.contains.find? fun e => e.id == 4 && !e.halted) = some ⟨4, 1, 0, 0, [0], false⟩ ∧
    (containing false []).bst.run = none ∧ (containing false []).scopeCells ⟨4, 1, 0, 0, [0], false⟩ = [0] ∧
    ((containing true []).hub.contains.find? fun e => e.id == 4 && e.halted) = some ⟨4, 1, 0, 0, [0], true⟩ ∧
    bitOf ((containing true []).rd FLT.FRZ_SEL_SCOPE) 0 = false ∧
    ((containing true []).hub.contains.find? fun e => e.id == 4 && decide (e.scope < 3)) = some ⟨4, 1, 0, 0, [0], true⟩ := by decide
theorem witness_inject : (∀ f ∈ [FLT.INJECT_CODE, FLT.LOG_POP_POP, FLT.STW_RESTART], State.reset.regOpen 0 f.addr = true) ∧
    (st [(FLT.STW_PRESENT, 8)]).regOpen 0 FLT.STW_RESTART.addr = true ∧ codeScope 0x20 0 = none ∧ unitOk 0x1B 24 = false ∧ codeScope 0x1B 23 ≠ none ∧ unitOk 0x1B 23 = true ∧
    bitOf ((st [(FLT.STW_PRESENT, 8)]).rd FLT.STW_PRESENT) 3 = true ∧ bitOf (State.reset.rd FLT.STW_PRESENT) 3 = false := by decide

/-! Witnesses of `Obligations.SelfTestSlices`. -/

/-- The slice 5 runs, with some of its steps done. -/
def slicing (l : List (Fld × Nat)) : State := { st l with bst := { BstX.reset with run := some (5, 0, 0) } }
theorem witness_slices : (slicing []).bst.run ≠ none ∧ targetOk 6 4 = false ∧ State.reset.bst.run = none ∧ targetOk 5 31 = true ∧
    State.reset.rd LC.STATE_STATE ≠ 7 ∧ State.reset.frozen = false ∧ State.reset.SliceReady 5 31 31 ∧ ¬ State.reset.SliceReady 4 31 0 ∧
    (slicing [(BST.RESULT_EXPECT, 24), (BST.RESULT_STEPS, 23)]).rd BST.RESULT_STEPS < (slicing [(BST.RESULT_EXPECT, 24), (BST.RESULT_STEPS, 23)]).rd BST.RESULT_EXPECT ∧
    (slicing []).bst.run = some (5, 0, 0) ∧ State.reset.flag BST.SCHED_CTRL_EN = false := by decide
theorem witness_sliceOpen : (slicing []).regOpen 0 BST.RUN_GO.addr = true ∧ State.reset.regOpen 0 BST.RUN_GO.addr = true ∧
    (st [(DBG.FRZ_STATUS_FROZEN, 1)]).regOpen 0 BST.RUN_GO.addr = true := by decide
theorem witness_scheduler : (st [(BST.SCHED_CTRL_EN, 1)]).power.sleep < 2 ∧ 2 ≤ (powered { PowerX.reset with sleep := 2 } []).power.sleep ∧ (st [(BST.SCHED_CTRL_EN, 1), (BST.SCHED_EN 15, 1), (BST.SCHED_SLICE 15, 4)]).nextEntry = some 15 ∧
    ¬ (st [(BST.SCHED_CTRL_EN, 1), (BST.SCHED_EN 15, 1), (BST.SCHED_SLICE 15, 4)]).SliceReady 4 0 0 ∧
    (st [(BST.SCHED_CTRL_EN, 1), (BST.SCHED_EN 15, 1), (BST.SCHED_SLICE 15, 5)]).nextEntry = some 15 ∧
    (st [(BST.SCHED_CTRL_EN, 1), (BST.SCHED_EN 15, 1), (BST.SCHED_SLICE 15, 5)]).rd (BST.SCHED_SLICE 15) = 5 ∧
    32768 * (st [(BST.AGE_LIMIT_S 7, 1)]).rd (BST.AGE_LIMIT_S 7) ≠ 0 ∧ (st [(BST.AGE_LIMIT_S 7, 1)]).rd (BST.AGE_LAST 7) = 0 := by decide

/-! Witnesses of `Obligations.EventSourceCommands`. -/

/-- Source 1192, rising edge, enabled, with a pulse that waits. -/
def sourceState : State := { st [(EVC.SRC_CFG_EN 1192, 1), (EVC.SRC_CFG_SENSE 1192, 2)] with pulses := [1192] }
theorem witness_sources : (∀ f ∈ [EVC.SET_PEND_SRC, EVC.CLR_PEND_SRC, EVC.DOORBELL_RING], State.reset.regOpen 0 f.addr = true ∧ sourceState.regOpen 0 f.addr = true) ∧
    sourceState.power.sleep < 2 ∧ State.reset.flag (EVC.SRC_CFG_EN 2047) = false ∧
    sourceState.flag (EVC.SRC_CFG_EN 1192) = true ∧ sourceState.edgeSense 1192 = true ∧
    sourceState.flag (EVC.SRC_CFG_HOST 1192) = false ∧ 1192 ∈ sourceState.pulses ∧
    (sourceState.src 1192).inp = false ∧ sourceState.rd (EVC.SRC_CFG_SENSE 1192) = 2 ∧
    sourceState.frozen = false := by decide

/-! Witnesses of `Obligations.EventCompletions`. -/

/-- Source 8, rising edge, active on steward 1 and pending to the host. -/
def activeState : State :=
  (st [(EVC.SRC_CFG_SENSE 8, 2), (EVC.STW_STATE_NACT 1, 1), (EVC.STW_STATE_NSRC 1, 8)]).modSrc 8 fun x =>
    { x with active := some 1, hpend := true }
theorem witness_eoi : activeState.regOpen 1 (EVC.STW_EOI_SRC 1).addr = true ∧ State.reset.regOpen 1 (EVC.STW_EOI_SRC 1).addr = true ∧
    State.reset.regOpen 0 (EVC.STW_EOI_SRC 1).addr = true ∧ activeState.regOpen 4 EVC.HOST_EOI_SRC.addr = true ∧
    State.reset.regOpen 4 EVC.HOST_EOI_SRC.addr = true ∧ State.reset.regOpen 0 (EVC.SRC_CFG_EN 8).addr = true ∧ (activeState.src 8).active = some 1 ∧ activeState.edgeSense 8 = true ∧
    activeState.flag (EVC.STW_STATE_NACT 1) = true ∧ activeState.rd (EVC.STW_STATE_NSRC 1) = 8 ∧
    (State.reset.src 8).active ≠ some 1 ∧ (activeState.src 8).hpend = true ∧ (State.reset.src 8).hpend = false ∧
    State.reset.merged (EVC.SRC_CFG_SENSE 8) 0 0 < 5 ∧ State.reset.merged (EVC.SRC_CFG_MOD 8) 0 0 ≠ 3 ∧
    5 ≤ State.reset.merged (EVC.SRC_CFG_SENSE 8) (2 ^ 64 - 1) (2 ^ 64 - 1) := by decide

/-! Witnesses of `Obligations.EventDelivery`. -/

/-- Source 1200, pending on a rising edge, with steward 0 released at thread level; presented where `p` holds. -/
def presented (fast : Nat) (p : Bool) : State :=
  let s := (st [(EVC.SRC_CFG_EN 1200, 1), (EVC.SRC_CFG_SENSE 1200, 2), (EVC.SRC_CFG_TARGET 1200, 1),
    (EVC.SRC_CFG_FAST 1200, fast), (EVC.STW_STATE_LEVEL 0, 1)]).modSrc 1200 fun x => { x with lat := true }
  let t := s.modSteward 0 fun x => { x with inReset := false, mie := true }
  if p then { t with evc := { t.evc with choices := [⟨1200, 0, fast == 1, 0⟩] } } else t
theorem witness_acknowledge (f : Nat) (hf : f = 0 ∨ f = 1) :
    (State.revalidate (if (presented f true).stwRuns 0 then
      (presented f true).modSteward 0 fun x => { x with mie := true, machine := true } else presented f true)).frozen = false ∧
    (State.revalidate (if (presented f true).stwRuns 0 then
      (presented f true).modSteward 0 fun x => { x with mie := true, machine := true } else presented f true)).evc.choices.find?
        (·.stw == 0) = some ⟨1200, 0, f == 1, 0⟩ := by
  rcases hf with rfl | rfl <;> decide
theorem witness_deliverable : (presented 0 false).frozen = false ∧ (presented 0 false).power.sleep = 0 ∧
    (presented 0 false).srcPending 1200 = true ∧ (presented 0 false).chosen 1200 = some 0 ∧
    (presented 0 false).deliverable 1200 0 = true := by decide

/-! Witnesses of `Obligations.StewardEntriesAndReturns`. -/

/-- Steward 2 released, at a level, in machine or user mode. -/
def stewardState (lvl : Nat) (m : Bool) : State :=
  (st [(EVC.STW_STATE_LEVEL 2, lvl), (DBG.AUTH_PERM, 1)]).modSteward 2 fun x => { x with inReset := false, machine := m }
theorem witness_stewards : (stewardState 2 true).stwRuns 2 = true ∧ ((stewardState 2 true).steward 2).machine = true ∧
    (stewardState 2 true).rd (EVC.STW_STATE_LEVEL 2) ≠ 3 ∧ (stewardState 3 true).stwRuns 2 = true ∧
    ((stewardState 3 true).steward 2).machine = true ∧ (stewardState 3 true).rd (EVC.STW_STATE_LEVEL 2) = 3 ∧
    ((stewardState 3 true).steward 2).flevel < 4 ∧ (stewardState 1 false).stwRuns 2 = true ∧
    ((stewardState 1 false).steward 2).machine = false ∧ bitOf ((stewardState 1 true).rd DBG.AUTH_PERM) 0 = true ∧
    ((stewardState 1 true).steward 2).inReset = false ∧ ((stewardState 1 true).steward 2).fastBank = false ∧
    ((stewardState 1 true).steward 2).x.length = 31 ∧
    ((stewardState 1 true).wr (EVC.STW_STATE_HELD 2) 1).flag (EVC.STW_STATE_HELD 2) = true := by decide

/-! Witnesses of `Obligations.Resets`. -/

theorem witness_resets : State.reset.rst.held = true ∧ State.reset.rst.supply = false ∧
    ({ State.reset with rst := { RstX.reset with supply := true } } : State).rst.supply = true ∧ (frozenState []).rst.held = false ∧ (frozenState []).regOpen 0 CHIP.RESET_KEY.addr = true ∧
    (frozenState []).power.sleep < 2 ∧ 2 ≤ ({ frozenState [] with power := { PowerX.reset with sleep := 2 } } : State).power.sleep ∧
    (frozenState []).rst.due = none ∧ ({ frozenState [] with rst := { RstX.reset with held := false, due := some 5 } } : State).rst.due = some 5 ∧
    (frozenState []).store.op = none := by decide

/-! Witnesses of `Obligations.HostDmaCommands`. -/

/-- Channel 2 with a run in progress. -/
def dmaState : State := st [(DMA.STATUS_PEND 2, 1), (DMA.CUR_ADDR 2, 64)]
theorem witness_dma : State.reset.regOpen 4 (DMA.CMD_OP 7).addr = true ∧ dmaState.regOpen 4 (DMA.CMD_OP 2).addr = true ∧ State.reset.flag (DMA.STATUS_PEND 7) = false ∧ State.reset.rd (DMA.DESC_ADDR 7) % 32 = 0 ∧
    dmaState.flag (DMA.STATUS_PEND 2) = true ∧ dmaState.frozen = false ∧ dmaState.rd (DMA.CUR_ADDR 2) % 32 = 0 ∧
    descOk (List.replicate 20 0 ++ [16] ++ List.replicate 11 0) = true ∧
    (DmaDesc.ofBytes (List.replicate 20 0 ++ [16] ++ List.replicate 11 0)).units = 0 ∧
    bitOf (DmaDesc.ofBytes (List.replicate 20 0 ++ [16] ++ List.replicate 11 0)).flags 4 = true := by decide

/-! Witnesses of `Obligations.PcieLinkEvents`. -/

theorem witness_pcieLink : linkTrains 6 4 = false ∧ (∃ s : State, s.host.perst = false ∧ s.rst.held = false ∧ s.bst.run = none) ∧
    (∀ k, k < 8 → State.reset.flag (DMA.STATUS_PEND k) = false) :=
  ⟨by decide, ⟨{ State.reset with host := { HostX.reset with perst := false }, rst := { RstX.reset with held := false } },
    by decide⟩, by decide⟩
theorem witness_running : (st [(DMA.STATUS_PEND 7, 1)]).flag (DMA.STATUS_PEND 7) = true ∧
    (st [(DMA.STATUS_PEND 7, 1)]).flag (DMA.STATUS_PEND 0) = false := by decide

/-! Witnesses of `Obligations.MsixMessages`. -/

/-- Source 5 with a message that waits, and the host able to take it. -/
def msixState (on : Bool) : State :=
  { (State.reset.wr (MSIX.DATA_MASK 0) 0).modSrc 5 (fun x => { x with hsend := true }) with
    host := { HostX.reset with perst := false, msixOn := on, busMaster := true } }
theorem witness_msix : (msixState true).power.sleep < 2 ∧ (msixState false).power.sleep < 2 ∧ ((msixState true).src 5).hsend = true ∧
    (msixState true).vectorBlocked ((msixState true).rd (EVC.SRC_CFG_MSIX 5)) = false ∧
    ((msixState false).src 5).hsend = true ∧
    (msixState false).vectorBlocked ((msixState false).rd (EVC.SRC_CFG_MSIX 5)) = true ∧
    (msixState true).host.perst = false ∧ (msixState true).rd MSIX.PBA_PEND = 0 := by decide

/-! Witnesses of `Obligations.HostRequests`. -/

/-- The link is up, and the host may access every region. -/
def hostState (frozen : Nat) : State :=
  { st [(PCI.STATUS_LINK_UP, 1), (DBG.FRZ_STATUS_FROZEN, frozen)] with
    host := { HostX.reset with perst := false }, rst := { RstX.reset with held := false } }
theorem witness_hostRequests : (hostState 0).barsOpen = true ∧ (hostState 0).hostShut = false ∧
    (hostState 1).barsOpen = true ∧ (hostState 1).frozen = true := by decide
theorem witness_hostReads : splitTlp 8 ((hostState 0).barAddr 0 0) 8 = some [(0, 8)] ∧ splitTlp 0 ((hostState 0).barAddr 0 0) 0 = some [] ∧
    (hostState 0).hostReads 0 0 0 [] = .ok ([], none, hostState 0) ∧
    (hostState 0).hostWrites 0 0 0 [] [] = .ok (none, hostState 0) := ⟨by decide, rfl, rfl, rfl⟩
theorem witness_bar4 : (hostState 1).flag DBG.FRZ_STATUS_FROZEN = true ∧ (hostState 1).readoutShut = false ∧ (hostState 0).flag DBG.FRZ_STATUS_FROZEN = false := by
  decide

/-! Witnesses of `Obligations.ConvoyFrames`. -/

/-- An awake device whose Convoy receiver is locked. -/
def convoyState (l : List (Fld × Nat)) : State :=
  { st ((CVY.STATUS_RX_LOCK, 1) :: l) with rst := { RstX.reset with held := false } }
theorem witness_convoyFrames : crc8 0 [1, 0] ≠ 0 ∧ 2 ≤ ({ convoyState [] with power := { PowerX.reset with sleep := 2 } } : State).power.sleep ∧
    ({ convoyState [] with power := { PowerX.reset with sleep := 2 } } : State).rst.held = false ∧ (convoyState [(CVY.DIAG_LOOP, 1)]).flag CVY.DIAG_LOOP = true ∧ (convoyState []).convoyOn = true ∧ (convoyState []).flag CVY.STATUS_RX_LOCK = true ∧
    (convoyState []).flag CVY.CFG_HEAD = false ∧ (convoyState []).flag CVY.DIAG_PRBS_EN = false ∧
    (convoyState []).flag CVY.DIAG_LOOP = false := by decide

/-! Witnesses of `Obligations.ConvoyActingInstants`. -/

theorem witness_acts : ∃ s : State, s.cvy.acts = [(5, 0)] ∧ s.rd LC.STATE_STATE ≠ 7 ∧ s.rd LC.PROGRESS_PHASE = 0 ∧
    s.frozen = false ∧ s.bst.run = none ∧ s.convoyWaiting = [] :=
  ⟨{ State.reset with cvy := { CvyX.reset with acts := [(5, 0)] } }, by decide⟩
/-- The caravan of cell 64 in the caravan state `v`, a Convoy command `k` waiting; `p` is where it stands. -/
def actState (v k : Nat) (p : Phase) (l : List (Fld × Nat)) : State :=
  let s := ({ st ([(CEL.CARAVAN_EN 64, 1), (CEL.CARAVAN_LEAD 64, 64), (SEQ.STATUS_STATE 64, v), (RGN.SGRP_MASK 1 7, 1), (RGN.SGARR_ARRIVED 1 7, 1)] ++ l) with
    cvy := { CvyX.reset with acts := [(k, 0)] } }).modRegion 1 fun x => { x with cvArrived := [(7, 64)] }
  s.modRun 64 fun x => { x with phase := p, convoyRun := true }
set_option maxRecDepth 100000 in
theorem witness_convoyRuns : ∀ s ∈ [actState stArmed 1 .ready [(PLL.STATUS_CLK_RUN 8, 1)], actState stArmed 1 .ready []], s.cvy.acts = [(1, 0)] ∧
    64 ∈ s.allLeads ∧ s.cvState 64 = stArmed ∧ s.flag DBG.FRZ_CTRL_BRK_EN = false := by decide
set_option maxRecDepth 100000 in
theorem witness_convoyClocks : (actState stArmed 1 .ready [(PLL.STATUS_CLK_RUN 8, 1)]).clockRuns 8 = true ∧ (actState stArmed 1 .ready []).clockRuns 8 = false ∧
    (actState stRunning 2 .ready []).cvy.acts = [(2, 0)] ∧ (actState stRunning 2 .ready []).cvState 64 = stRunning ∧
    ((actState stRunning 2 .ready []).run 64).convoyRun = true ∧ (actState stRunning 2 .ready []).clockPaused 8 = false ∧
    (actState stRunning 2 .ready [(PLL.STATUS_STATE 8, pllAcquiring)]).clockPaused 8 = true := by decide
set_option maxRecDepth 100000 in
theorem witness_convoySync : ∀ s ∈ [actState stRunning 4 (.atSync 7 true false false true) [(PLL.STATUS_CLK_RUN 8, 1)]], s.cvy.acts = [(4, 0)] ∧
    s.convoyWaiting = [7] ∧ s.arrivedAt 7 = [64] ∧ s.atScLimit 64 = false ∧ s.clockRuns (blockOf 64) = true ∧
    (s.run 64).phase = .atSync 7 true false false true := by decide

/-! Witnesses of `Obligations.ConvoyHead`. -/

theorem witness_head : (convoyState [(CVY.CFG_HEAD, 1), (CVY.CFG_AUTO_SYNC, 1)]).regOpen 0 CVY.TX_CMD.addr = true ∧
    (convoyState [(CVY.CFG_HEAD, 1), (CVY.DIAG_PRBS_EN, 1)]).regOpen 0 CVY.TX_CMD.addr = true ∧
    State.reset.regOpen 0 CVY.TX_CMD.addr = true ∧ State.reset.regOpen 0 CVY.CFG_HEAD.addr = true ∧ (convoyState [(CVY.CFG_HEAD, 1), (CVY.CFG_AUTO_SYNC, 1)]).flag CVY.CFG_HEAD = true ∧
    (convoyState [(CVY.CFG_HEAD, 1), (CVY.CFG_AUTO_SYNC, 1)]).flag CVY.CFG_AUTO_SYNC = true ∧
    (convoyState [(CVY.CFG_HEAD, 1), (CVY.CFG_AUTO_SYNC, 1)]).flag CVY.STATUS_FLAG_OUT = false ∧
    (convoyState [(CVY.CFG_HEAD, 1), (CVY.CFG_AUTO_SYNC, 1)]).convoyOn = true ∧
    State.reset.flag CVY.CFG_HEAD = false ∧
    State.reset.merged CVY.CFG_SYNC_EN 1 1 = State.reset.rd CVY.CFG_SYNC_EN := by decide

/-! Witnesses of `Obligations.GpioBanksAndPinFunctions`. -/

theorem witness_funcWrite : State.reset.regOpen 0 (GPIO.PIN_FUNC 3).addr = true ∧ State.reset.regOpen 0 (GPIO.OUT_SET_OUT 2).addr = true ∧
    State.reset.regOpen 0 (GPIO.OUT_CLR_OUT 2).addr = true ∧ State.reset.gpio.holds.any (·.pin == 3) = false ∧
    funcOk 3 (State.reset.merged (GPIO.PIN_FUNC 3) 15 1) = true ∧
    State.reset.merged (GPIO.PIN_FUNC 3) 15 1 ≠ State.reset.rd (GPIO.PIN_FUNC 3) := by decide

/-! Witnesses of `Obligations.GpioPatternAndTimers`. -/

theorem witness_timers : State.reset.power.sleep < 2 ∧ (st [(GPIO.PIN_FUNC 95, 9), (GPIO.PIN_SEL 95, 7)]).capturePin 7 = some 95 ∧
    (st [(GPIO.PIN_FUNC 95, 9), (GPIO.PIN_SEL 95, 7)]).pinHold 95 = none ∧ State.reset.flag (GPIO.TMRC_CAPTURE 7) = false ∧
    (st [(GPIO.TMRC_CAPTURE 7, 1)]).flag (GPIO.TMRC_CAPTURE 7) = true := by decide

/-! Witnesses of `Obligations.HandlerInterface`. -/

/-- The handler interface's pins at function 5. -/
def hpiState : State := st ((List.range 12).map fun k => (GPIO.PIN_FUNC (32 + k), 5))
theorem witness_hpi : hpiState.power.sleep < 2 ∧ 2 ≤ (powered { PowerX.reset with sleep := 2 } []).power.sleep ∧ hpiState.pinHold 32 = none ∧ hpiState.regOpen 0 GPIO.HPI_CTRL_EOT.addr = true ∧ (hpiState.wr GPIO.HPI_STATUS_BUSY 1).regOpen 0 GPIO.HPI_CTRL_EOT.addr = true ∧
    hpiState.flag GPIO.HPI_CTRL_WAIT_RDY = false ∧ hpiState.hpiPins = true ∧ hpiState.flag GPIO.HPI_STATUS_BUSY = false ∧
    (hpiState.wr GPIO.HPI_STATUS_BUSY 1).flag GPIO.HPI_STATUS_BUSY = true := by decide
theorem witness_hpi_phase : ∃ s u : State, s.gpio.hpi = .setup ∧ s.flag GPIO.HPI_CTRL_WAIT_RDY = true ∧
    u.gpio.hpi = .strobe ∧ s.power.sleep < 2 ∧ u.power.sleep < 2 :=
  ⟨{ st [(GPIO.HPI_CTRL_WAIT_RDY, 1)] with gpio := { GpioX.reset with hpi := .setup } },
    { State.reset with gpio := { GpioX.reset with hpi := .strobe } }, by decide, by decide, by decide, by decide, by decide⟩

/-! Witnesses of `Obligations.SerialControllers`. -/

theorem witness_serial : State.reset.power.sleep < 2 ∧ (st [(GPIO.PIN_FUNC 22, 4)]).rd (GPIO.PIN_FUNC 22) = 4 ∧ (st [(GPIO.PIN_FUNC 22, 4)]).pinHold 22 = none ∧ (st [(GPIO.PIN_FUNC 22, 4)]).gpio.pads = [] ∧ State.reset.regOpen 0 0x701018 = true ∧
    (st [(GPIO.PIN_FUNC 19, 3)]).rd (GPIO.PIN_FUNC 19) = 3 ∧ (st [(GPIO.PIN_FUNC 19, 3)]).pinHold 19 = none ∧ (State.reset.serial 5).left = none ∧
    ((State.reset.setSerial 3 { SerialX.reset with left := some 0 }).serial 3).left.isSome = true ∧
    (State.reset.serial 7).rx.length < 16 := by decide

/-! Witnesses of `Obligations.ApgXyOperations`. -/

theorem witness_xy : bits 7 0 5 = 7 ∧ bits (8 + 32 * 6) 0 5 = 8 := by decide

/-! Witnesses of `Obligations.LifeCycleCopyState`. -/

theorem witness_copy : State.reset.slotClass 2 1 = 0 ∧ State.reset.copyState 2 = 0 := by decide

end Sys2Proof.Tests
end

namespace Sys2Proof.Machine

/-! ## Storage: registers and 72-bit words (R3, R4) -/

/-- R4: fresh check bits clear the stored error of a word. -/
@[simp] theorem State.eccOf_writeWord_self (s : State) (a v : Nat) : (s.writeWord a v).eccOf a 0 = 0 := by
  simp [State.eccOf, State.writeWord]

/-- Settles O5, by the laws of the sparse tables: one for the key written, one for every other key. -/
theorem storageLaws : Obligations.StorageLaws :=
  ⟨fun s f v => ⟨s.rd_wr_self f v, onlyRegs_wr s f v, onlyRegs_wrs s⟩,
    fun s a v => ⟨s.readWord_writeWord_self a v, s.eccOf_writeWord_self a v, fun _ hb => s.readByte_writeWord_out a v hb⟩⟩

/-! ## Register space

Accesses of register space: what stands between a command and the register (R7, R315, R378, R406, R421), what a write does to
a field of each type (R9), and two registers of block 0. -/

/-! ### The two commands -/

theorem exec_registerWrite (m a n v : Nat) (s : State) :
    exec (.registerWrite m a n v) s = .next (s.regAccess m a n fun s =>
      { s.writeReg m (a / 8 * 8) (byteMask a n) (v % 2 ^ (8 * n) * 2 ^ (8 * (a % 8))) with answer := [0] }) := rfl

theorem exec_readClear (a n : Nat) (s : State) :
    exec (.readClear a n) s =
      .next (s.regAccess 0 a n (fun s => { (s.readReg a n).2 with answer := [0, (s.readReg a n).1] }) 0) := rfl

theorem State.regAccess_bad {s : State} {m a n k : Nat} {act : State → State} (h : regAccessOk a n = false) :
    s.regAccess m a n act k = { s with answer := [4] } := by
  simp [State.regAccess, h]

theorem State.regAccess_ok {s : State} {m a n k : Nat} {act : State → State} (h : regAccessOk a n = true) :
    s.regAccess m a n act k = s.atReg m a act k := by
  simp [State.regAccess, h]

/-- An assigned or empty address of a window that is served: the access acts. -/
theorem State.regAccess_open {s : State} {m a n k : Nat} {act : State → State} (h : regAccessOk a n = true)
    (ho : s.regOpen m a k = true) : s.regAccess m a n act k = act s := by
  rw [State.regAccess_ok h, State.atReg_open act ho]

/-- Either command on a well-formed access is an access of its register. -/
theorem exec_regAccess {s : State} {m k a n v : Nat} {i : Instr} (h : regAccessOk a n = true)
    (hi : i = .registerWrite m a n v ∧ k = 1 ∨ i = .readClear a n ∧ k = 0 ∧ m = 0) :
    ∃ act, exec i s = .next (s.atReg m a act k) := by
  rcases hi with ⟨rfl, rfl⟩ | ⟨rfl, rfl, rfl⟩
  · exact ⟨_, by rw [exec_registerWrite, State.regAccess_ok h]⟩
  · exact ⟨_, by rw [exec_readClear, State.regAccess_ok h]⟩

/-! ### What stops an access -/

theorem State.endIdle_of_ne {s : State} (h : s.power.sleep ≠ 1) : s.endIdle = s := by
  simp [State.endIdle, h]

theorem State.atReg_pmpStops {s : State} {m a k : Nat} (act : State → State) (h : s.pmpStops m k a (a + 7) = true) :
    s.atReg m a act k = { s with answer := [4] } := by
  simp [State.atReg, h]

section
variable {s : State} {m a k : Nat} (act : State → State) (hp : s.pmpStops m k a (a + 7) = false)
include hp

theorem State.atReg_closed (hs : s.power.sleep ≠ 1) (hl : s.lcOpen m (targetOf a) a = false) :
    s.atReg m a act k = { s with answer := [4] } := by
  simp [State.atReg, State.endIdle_of_ne hs, hp, hl]

theorem State.atReg_asleep (hl : s.lcOpen m (targetOf a) a = true) (hs : 2 ≤ s.power.sleep) :
    s.atReg m a act k = { s with answer := [9] } := by
  simp [State.atReg, State.endIdle_of_ne (s := s) (by omega), hp, hl, hs]

theorem State.atReg_off (hl : s.lcOpen m (targetOf a) a = true) (hs : s.power.sleep = 0) (hd : s.domainOff (targetOf a) = true)
    (hw : s.flag PWR.CTRL_LEGACY_WAKE = false) :
    s.atReg m a act k = { s.count (NOC.TOLL_D_DOMAIN_OFF m) 1 with answer := [9] } := by
  simp [State.atReg, State.endIdle, hp, hl, hs, hd, hw]

theorem State.atReg_waits (hl : s.lcOpen m (targetOf a) a = true) (hs : s.power.sleep = 0) (hd : s.domainOff (targetOf a) = true)
    (hw : s.flag PWR.CTRL_LEGACY_WAKE = true) : s.atReg m a act k = s.waits (regReq m a) := by
  simp [State.atReg, State.endIdle, hp, hl, hs, hd, hw]

end

theorem State.waits_new {s : State} {q : Req} (h : s.net.waiting.any q.same = false) :
    s.waits q = { s with net := { s.net with waiting := s.net.waiting ++ [q] } } := by
  simp [State.waits, h]

/-! ### Addresses without a register -/

theorem State.writeReg_unassigned {s : State} {m a mask v : Nat} (hw : apgWindow a = none) (hr : regAt a = none) :
    s.writeReg m a mask v = s := by
  simp [State.writeReg, hw, hr]

theorem State.readReg_unassigned {s : State} {a n : Nat} (h : regAt (a / 8 * 8) = none) : s.readReg a n = (0, s) := by
  simp [State.readReg, h]

/-! ### Fields by type (R9) -/

theorem OnlyRegs.mem {s t : State} {ks : List Nat} (h : OnlyRegs s t ks) : t.mem = s.mem := by
  rw [h.1]

section
variable (s : State) (r : RegRef) (mask v : Nat) {f : FInfo}

/-- An RW field that is not held takes the merged value. -/
theorem State.rd_putField_rw (ht : f.ty = .rw) (hh : s.fieldHeld r.k f = false) :
    (s.putField r mask v f).rd f.fld = s.merged f.fld mask v % 2 ^ f.fld.width := by
  by_cases hn : s.merged f.fld mask v = s.rd f.fld
  · simp [State.putField, ht, hn, Nat.mod_eq_of_lt (s.rd_lt f.fld)]
  · simp [State.putField, ht, hh, hn]

/-- A write of an RW field that is not held touches no other register. -/
theorem State.onlyRegs_putField_rw (ht : f.ty = .rw) (hh : s.fieldHeld r.k f = false) :
    OnlyRegs s (s.putField r mask v f) [f.fld.key] := by
  by_cases hn : s.merged f.fld mask v = s.rd f.fld
  · simpa [State.putField, ht, hn] using OnlyRegs.refl s _
  · simpa [State.putField, ht, hh, hn] using onlyRegs_wr s f.fld _

theorem State.putField_rwl_set (ht : f.ty = .rwl) (h1 : s.rd f.fld = 1) : s.putField r mask v f = s := by
  simp [State.putField, ht, h1]

theorem State.rd_putField_w1c (ht : f.ty = .w1c) :
    (s.putField r mask v f).rd f.fld =
      Nat.land (s.rd f.fld) (notW (bits (Nat.land mask v) f.fld.lsb f.fld.width) f.fld.width) % 2 ^ f.fld.width := by
  simp only [State.putField, ht, State.rd_wr_self]

theorem State.putField_kept (ht : f.ty ∈ [FTy.ro, .rc, .wo]) : s.putField r mask v f = s := by
  simp only [List.mem_cons, List.not_mem_nil, or_false] at ht
  rcases ht with ht | ht | ht <;> simp only [State.putField, ht]

end

/-- A field that the mask covers takes its bits of the value. -/
theorem State.merged_covered (s : State) (f : Fld) {mask : Nat} (v : Nat) (h : bits mask f.lsb f.width = 2 ^ f.width - 1) :
    s.merged f mask v = bits v f.lsb f.width := by
  have hb : bits v f.lsb f.width < 2 ^ f.width := Nat.mod_lt _ (Nat.two_pow_pos _)
  have hp := Nat.two_pow_pos f.width
  have h0 : notW (2 ^ f.width - 1) f.width = 0 := by
    rw [notW, Nat.mod_eq_of_lt (by omega), Nat.sub_self]
  have hl : Nat.land (bits v f.lsb f.width) (2 ^ f.width - 1) = bits v f.lsb f.width :=
    (Nat.and_two_pow_sub_one_eq_mod _ _).trans (Nat.mod_eq_of_lt hb)
  rw [State.merged, h, h0, hl]
  exact (congrArg (Nat.lor · _) (Nat.and_zero _)).trans (Nat.zero_or _)

/-- A register of three readable fields, none of which follows from other state, reads as what they hold. -/
theorem State.regView_three (s : State) {r : RegRef} {a b c : FInfo} (hd : s.derived r = []) (hf : r.fields = [a, b, c])
    (hw : ∀ f ∈ [a, b, c], f.ty ≠ .wo) :
    s.regView r = s.rd a.fld * 2 ^ a.fld.lsb + s.rd b.fld * 2 ^ b.fld.lsb + s.rd c.fld * 2 ^ c.fld.lsb := by
  simp only [List.forall_mem_cons] at hw
  obtain ⟨ha, hb, hc, -⟩ := hw
  simp [State.regView, State.fieldView, hd, hf, ha, hb, hc, Nat.add_assoc]

/-! ### PLL.TRACK and PLL.LOL of block 0 (R198) -/

/-- R198: RAMP of PLL.TRACK. -/
def trackRamp : FInfo := ⟨PLL.TRACK_RAMP 0, .rw, false, false⟩
/-- R198: CLAMP_PPM of PLL.TRACK. -/
def trackClamp : FInfo := ⟨PLL.TRACK_CLAMP_PPM 0, .rw, false, false⟩
/-- R198: COUNT of PLL.LOL, which a read clears. -/
def lolCount : FInfo := ⟨PLL.LOL_COUNT 0, .rc, false, false⟩
/-- R198: CAUSE of PLL.LOL. -/
def lolCause : FInfo := ⟨PLL.LOL_CAUSE 0, .ro, false, false⟩
/-- R198: DET of PLL.LOL. -/
def lolDet : FInfo := ⟨PLL.LOL_DET 0, .ro, false, false⟩

/-- PLL.TRACK of block 0 as the register index gives it. -/
def trackRef : RegRef := ⟨.pll, 0, 0x8020, 0, 0, [trackRamp, trackClamp]⟩
/-- PLL.LOL of block 0 as the register index gives it. -/
def lolRef : RegRef := ⟨.pll, 0, 0x8060, 0, 0, [lolCount, lolCause, lolDet]⟩

theorem regAt_track : regAt (blockBase 0 + 0x8020) = some trackRef := rfl

theorem State.fieldHeld_plain {s : State} {c : Nat} {f : FInfo} (h : f.h = false) : s.fieldHeld c f = false := by
  simp [State.fieldHeld, h]

theorem State.writeReg_track (s : State) (m mask v : Nat) :
    s.writeReg m (blockBase 0 + 0x8020) mask v = (s.putField trackRef mask v trackRamp).putField trackRef mask v trackClamp := by
  have hw : apgWindow (blockBase 0 + 0x8020) = none := rfl
  simp only [State.writeReg, hw, regAt_track]
  rfl

/-- A write of all 64 bits of PLL.TRACK. -/
theorem State.write_track (s : State) (v : Nat) :
    let t := (s.putField trackRef (2 ^ 64 - 1) v trackRamp).putField trackRef (2 ^ 64 - 1) v trackClamp
    t.mem = s.mem ∧ t.rd (PLL.TRACK_RAMP 0) = bits v (PLL.TRACK_RAMP 0).lsb (PLL.TRACK_RAMP 0).width ∧
      t.rd (PLL.TRACK_CLAMP_PPM 0) = bits v (PLL.TRACK_CLAMP_PPM 0).lsb (PLL.TRACK_CLAMP_PPM 0).width := by
  extract_lets t
  let u := s.putField trackRef (2 ^ 64 - 1) v trackRamp
  have hu := s.onlyRegs_putField_rw trackRef (2 ^ 64 - 1) v (f := trackRamp) rfl (State.fieldHeld_plain rfl)
  have ht := u.onlyRegs_putField_rw trackRef (2 ^ 64 - 1) v (f := trackClamp) rfl (State.fieldHeld_plain rfl)
  refine ⟨?_, ?_, ?_⟩
  · exact ht.mem.trans hu.mem
  · have hk : (PLL.TRACK_RAMP 0).key ∉ [trackClamp.fld.key] := by decide
    have hr := s.rd_putField_rw trackRef (2 ^ 64 - 1) v (f := trackRamp) rfl (State.fieldHeld_plain rfl)
    rw [s.merged_covered _ v (by decide)] at hr
    exact (ht.2 _ hk).trans (hr.trans (Nat.mod_mod _ _))
  · have hr := u.rd_putField_rw trackRef (2 ^ 64 - 1) v (f := trackClamp) rfl (State.fieldHeld_plain rfl)
    rw [u.merged_covered _ v (by decide)] at hr
    exact hr.trans (Nat.mod_mod _ _)

/-- What PLL.LOL of block 0 reads as. -/
theorem State.regView_lol (s : State) :
    s.regView lolRef = s.rd (PLL.LOL_COUNT 0) + s.rd (PLL.LOL_CAUSE 0) * 2 ^ 32 + s.rd (PLL.LOL_DET 0) * 2 ^ 48 := by
  have h : s.regView lolRef =
      s.rd (PLL.LOL_COUNT 0) * 2 ^ 0 + s.rd (PLL.LOL_CAUSE 0) * 2 ^ 32 + s.rd (PLL.LOL_DET 0) * 2 ^ 48 :=
    s.regView_three (a := lolCount) (b := lolCause) (c := lolDet) rfl rfl (by decide)
  rw [h, Nat.pow_zero, Nat.mul_one]

/-- A read of all 64 bits of PLL.LOL clears COUNT, its one RC field. -/
theorem State.readReg_lol (s : State) :
    s.readReg (blockBase 0 + 0x8060) 8 =
      (s.rd (PLL.LOL_COUNT 0) + s.rd (PLL.LOL_CAUSE 0) * 2 ^ 32 + s.rd (PLL.LOL_DET 0) * 2 ^ 48, s.wr (PLL.LOL_COUNT 0) 0) := by
  have hc : s.rd (PLL.LOL_COUNT 0) < 2 ^ 32 := s.rd_lt _
  have ha : s.rd (PLL.LOL_CAUSE 0) < 2 ^ 4 := s.rd_lt _
  have hd : s.rd (PLL.LOL_DET 0) < 2 ^ 12 := s.rd_lt _
  have hr : s.readReg (blockBase 0 + 0x8060) 8 = (bits (s.regView lolRef) 0 64, s.wr (PLL.LOL_COUNT 0) 0) := rfl
  rw [hr, s.regView_lol, bits, Nat.pow_zero, Nat.div_one, Nat.mod_eq_of_lt (by omega)]

theorem exec_registerWrite_track {s : State} {m v : Nat} (hv : v < 2 ^ 64) (ho : s.regOpen m (blockBase 0 + 0x8020) = true) :
    ∃ t, exec (.registerWrite m (blockBase 0 + 0x8020) 8 v) s = .next t ∧ t.answer = [0] ∧ t.mem = s.mem ∧
      t.rd (PLL.TRACK_RAMP 0) = bits v (PLL.TRACK_RAMP 0).lsb (PLL.TRACK_RAMP 0).width ∧
      t.rd (PLL.TRACK_CLAMP_PPM 0) = bits v (PLL.TRACK_CLAMP_PPM 0).lsb (PLL.TRACK_CLAMP_PPM 0).width := by
  have hm : v % 2 ^ (8 * 8) * 2 ^ (8 * ((blockBase 0 + 0x8020) % 8)) = v := (Nat.mul_one _).trans (Nat.mod_eq_of_lt hv)
  have hx : exec (.registerWrite m (blockBase 0 + 0x8020) 8 v) s =
      .next { s.writeReg m (blockBase 0 + 0x8020) (2 ^ 64 - 1) v with answer := [0] } := by
    rw [exec_registerWrite, State.regAccess_open (by rfl) ho, hm]
    rfl
  rw [s.writeReg_track] at hx
  exact ⟨_, hx, rfl, s.write_track v⟩

theorem exec_readClear_lol {s : State} (ho : s.regOpen 0 (blockBase 0 + 0x8060) 0 = true) :
    ∃ t, exec (.readClear (blockBase 0 + 0x8060) 8) s = .next t ∧
      t.answer = [0, s.rd (PLL.LOL_COUNT 0) + s.rd (PLL.LOL_CAUSE 0) * 2 ^ 32 + s.rd (PLL.LOL_DET 0) * 2 ^ 48] ∧
      t.rd (PLL.LOL_COUNT 0) = 0 ∧ t.rd (PLL.LOL_CAUSE 0) = s.rd (PLL.LOL_CAUSE 0) ∧ t.mem = s.mem := by
  refine ⟨_, by rw [exec_readClear, State.regAccess_open (by rfl) ho], ?_⟩
  rw [s.readReg_lol]
  exact ⟨rfl, (s.rd_wr_self (PLL.LOL_COUNT 0) 0).trans (Nat.zero_mod _),
    s.rd_wr_ne (f := PLL.LOL_COUNT 0) (g := PLL.LOL_CAUSE 0) 0 (by decide), rfl⟩

/-- Settles O26: the conditions of an access in the order in which they are judged, the types of fields one by one, and the
two registers by their headings. -/
theorem registerAccess : Obligations.RegisterAccess := by
  unfold Obligations.RegisterAccess
  refine ⟨fun s m a n v h => ?_, fun s a n h => ?_, fun s m k a n v i h hi => ?_, fun s m a n v h hr => ?_,
    fun s r mask v f hh => ?_, fun s m v hv ho => ?_, fun s ho => ?_⟩
  · rw [exec_registerWrite, State.regAccess_bad h]
  · rw [exec_readClear, State.regAccess_bad h]
  · obtain ⟨act, hx⟩ := exec_regAccess (s := s) h hi
    rw [hx]
    refine ⟨fun hp => by rw [State.atReg_pmpStops act hp], fun hp hs => ⟨fun hl => by rw [State.atReg_closed act hp hs hl],
      fun hl => ⟨fun h2 => by rw [State.atReg_asleep act hp hl h2], fun h0 hd => ⟨fun hw => ?_, fun hw hn => ?_⟩⟩⟩⟩
    · rw [State.atReg_off act hp hl h0 hd hw]
    · rw [State.atReg_waits act hp hl h0 hd hw, State.waits_new hn]
  · refine ⟨fun hw ho => ?_, fun ho => ?_⟩
    · rw [exec_registerWrite, State.regAccess_open h ho, State.writeReg_unassigned hw hr]
    · rw [exec_readClear, State.regAccess_open h ho, State.readReg_unassigned hr]
  · exact ⟨fun ht => s.rd_putField_rw r mask v ht hh, fun ht h1 => s.putField_rwl_set r mask v ht h1,
      fun ht => s.rd_putField_w1c r mask v ht, fun ht => s.putField_kept r mask v ht⟩
  · exact exec_registerWrite_track hv ho
  · exact exec_readClear_lol ho

/-! ## Requests

Why the statement about requests fails: it takes the LENGTH of a request of one word (R300: 1 for RDP and WRP) to be 1, whatever
length REQUEST_ISSUE names, but the interface judges the length that the command names. -/

/-- An RDP of steward 0 for bytes 0 to 3 of word 3 of scratchpad 0, with a LENGTH. -/
def rdpOfLength (n : Nat) : Req :=
  { init := 0, tag := 7, subid := 0, kind := .rdp, addr := 0x40000030, len := n, bytes := 0x0F, data := [], fetch := false }

/-- R300: the LENGTH of an RDP or a WRP that is well formed is 1. -/
theorem Req.len_of_wellFormed {q : Req} (hk : q.isPartial = true) (h : q.wellFormed = true) : q.len = 1 := by
  simp only [Req.isPartial, Bool.or_eq_true, beq_iff_eq] at hk
  rcases hk with hk | hk <;> simp only [Req.wellFormed, hk, Bool.and_eq_true, beq_iff_eq] at h
  · obtain ⟨⟨_, hlen⟩, _⟩ := h
    exact hlen
  · obtain ⟨⟨⟨_, hlen⟩, _⟩, _⟩ := h
    exact hlen

/-- R302: a steward's request that is not well formed is answered DENIED at its interface, and no packet leaves. -/
theorem State.issue_malformed {s : State} {q : Req} (h : q.wellFormed = false) (hi : q.init < 4) :
    s.issue q = s.finish q 4 [] := by
  have hs : ¬ (45 ≤ q.init ∧ q.init < 61) := by omega
  simp [State.issue, State.check, h, hs]

/-- REQUEST_ISSUE at reset of the RDP with a LENGTH of 2. -/
theorem exec_issue_rdpOfLength_two :
    exec (.requestIssue 0 7 0 2 0x40000030 2 0x0F [] false) State.reset = .next (State.reset.finish (rdpOfLength 2) 4 []) := by
  have hm : (rdpOfLength 2).wellFormed = false :=
    Bool.eq_false_iff.mpr fun h => absurd (Req.len_of_wellFormed rfl h) (by decide)
  have hx : exec (.requestIssue 0 7 0 2 0x40000030 2 0x0F [] false) State.reset = .next (State.reset.issue (rdpOfLength 2)) :=
    rfl
  rw [hx, State.issue_malformed hm (by decide)]

/-- Refutes O27: at reset steward 0 issues an RDP for bytes 0 to 3 of word 3 of scratchpad 0 and names LENGTH 2. The request of the
statement has LENGTH 1, meets every hypothesis and would be in flight; the model answers DENIED, and none is. -/
theorem not_networkRequests : ¬ Obligations.NetworkRequests := by
  unfold Obligations.NetworkRequests
  intro ⟨hissue, _⟩
  obtain ⟨hpass, _⟩ := hissue State.reset 0 7 0 2 0x40000030 2 0x0F [] false (rdpOfLength 1) (by decide) (by decide) (by decide)
    (by decide) (by decide) (by decide) (by decide) (by decide)
  obtain ⟨t, hx, hflight, _⟩ := hpass (by decide) (by decide) (by decide) (by decide) (by decide) (by decide) (by decide) (by decide)
  rw [exec_issue_rdpOfLength_two] at hx
  obtain rfl : State.reset.finish (rdpOfLength 2) 4 [] = t := Host.Outcome.next.inj hx
  have hnone : (State.reset.finish (rdpOfLength 2) 4 []).net.flight = [] := rfl
  have hone := congrArg List.length (hnone.symm.trans hflight)
  exact absurd hone (by decide)

end Sys2Proof.Machine

namespace Sys2Proof.Machine

/-! ## What a halt leaves alone in memory

A halt (R91 to R96) writes registers and the records of its cells; the memories stay. -/

/-- A fold of updates, each of which leaves `g` alone, leaves it alone. -/
theorem State.foldl_same {α β : Type} (g : State → β) {f : State → α → State} {l : List α} {s : State}
    (h : ∀ t, ∀ x ∈ l, g (f t x) = g t) : g (l.foldl f s) = g s := by
  induction l generalizing s with
  | nil => rfl
  | cons x l ih =>
    rw [List.foldl_cons, ih fun t y hy => h t y (List.mem_cons_of_mem _ hy)]
    exact h s x List.mem_cons_self

@[simp] theorem State.count_mem (s : State) (f : Fld) (n : Nat) : (s.count f n).mem = s.mem := rfl

@[simp] theorem State.wrs_mem (s : State) (l : List (Fld × Nat)) : (s.wrs l).mem = s.mem := (onlyRegs_wrs s l).mem

@[simp] theorem State.wrAll_mem (s : State) (cs : List Nat) (f : Nat → Fld) (v : Nat) : (s.wrAll cs f v).mem = s.mem :=
  State.foldl_same State.mem fun _ _ _ => rfl

@[simp] theorem State.setCv_mem (s : State) (l v : Nat) : (s.setCv l v).mem = s.mem := State.wrAll_mem ..

@[simp] theorem State.endSlice_mem (s : State) (res : Nat) (done : Bool) : (s.endSlice res done).mem = s.mem := rfl

@[simp] theorem State.abortSlice_mem (s : State) (hit : Bool) : (s.abortSlice hit).mem = s.mem := by
  unfold State.abortSlice; split <;> simp

@[simp] theorem State.receiveFrame_mem (s : State) (cmd hop : Nat) : (s.receiveFrame cmd hop).mem = s.mem := by
  simp only [State.receiveFrame]; repeat' split
  all_goals simp

@[simp] theorem State.sendFrame_mem (s : State) (cmd : Nat) : (s.sendFrame cmd).mem = s.mem := by
  simp only [State.sendFrame]; repeat' split
  all_goals simp [State.cvyOut]

@[simp] theorem State.breakFreeze_mem (s : State) (l : Nat) : (s.breakFreeze l).mem = s.mem := by
  simp only [State.breakFreeze, State.triggerFreeze]; repeat' split
  all_goals simp

@[simp] theorem State.voidRun_mem (s : State) (l cause reason : Nat) : (s.voidRun l cause reason).mem = s.mem := by
  simp only [State.voidRun]; repeat' split
  all_goals simp

@[simp] theorem State.withdraw_mem (s : State) (l : Nat) : (s.withdraw l).mem = s.mem := by
  unfold State.withdraw; split <;> simp

@[simp] theorem State.crowded_mem (s : State) (c k : Nat) : (s.crowded c k).mem = s.mem := by
  unfold State.crowded; split <;> simp

@[simp] theorem State.flushEdges_mem (s : State) (c : Nat) : (s.flushEdges c).mem = s.mem := by
  simp [State.flushEdges]

@[simp] theorem State.haltCaravan_mem (s : State) (l : Nat) (causes : List (Nat × Nat)) : (s.haltCaravan l causes).mem = s.mem := by
  have hcells (u : State) : ((s.members l).foldl (fun t c =>
      let k := ownCause causes c
      let t1 := (t.wr (SEQ.STATUS_CAUSE c) k).modCell c fun x => { x with word := none }
      if k = cMember then t1 else t1.wr (SEQ.STATUS_HALT_PEND c) 1) u).mem = u.mem :=
    State.foldl_same State.mem fun t c _ => by dsimp only; split <;> simp
  have hedges (u : State) : ((s.members l).foldl State.flushEdges u).mem = u.mem :=
    State.foldl_same State.mem fun t c _ => t.flushEdges_mem c
  simp only [State.haltCaravan, State.modRun_mem, State.wrAll_mem, State.setCv_mem, State.wrs_mem, hcells, hedges, State.withdraw_mem]

@[simp] theorem State.rejectWord_mem (s : State) (c w st : Nat) : (s.rejectWord c w st).mem = s.mem := rfl

/-- R36, R91 to R95. -/
@[simp] theorem State.haltBefore_mem (s : State) (l : Nat) (causes : List (Nat × Nat)) : (s.haltBefore l causes).mem = s.mem := by
  have hrejects : (causes.foldl (fun t e =>
      if e.2 = cBadInstr then t.rejectWord e.1 (((t.cell e.1).word.map (·.word)).getD 0) 2
      else if e.2 = cIllegal then t.rejectWord e.1 (((t.cell e.1).word.map (·.word)).getD 0) 3 else t) s).mem = s.mem :=
    State.foldl_same State.mem fun t e _ => by split <;> [skip; split] <;> simp
  simp only [State.haltBefore]
  repeat' split
  all_goals simp [hrejects]

/-! ## A STEP reads its next word, and a read may write memory

After a STEP the word of the next stride is fetched before the caravan halts (R93, R98), and a read writes a word that was stored
raw with a correctable error back corrected (R284). -/

/-- R284: a read writes the word back where its stored check bits let the error be corrected, and leaves memory else. -/
theorem State.eccAfter_mem (s : State) (a up : Nat) : (s.eccAfter a up).mem =
    if ¬ 2 ≤ s.eccOf a up ∧ Tab.get 0 s.rawChk a ≠ 0 ∧ Tab.get 0 s.ecc a = 1 then (s.writeWord a (s.readFixed a)).mem else s.mem := by
  by_cases h2 : 2 ≤ s.eccOf a up
  · simp [State.eccAfter, h2]
  · by_cases h1 : Tab.get 0 s.rawChk a ≠ 0 ∧ Tab.get 0 s.ecc a = 1 <;> simp [State.eccAfter, h2, h1]

/-- What a read leaves in memory depends on memory, stored errors and raw check bits alone. -/
theorem State.eccAfter_mem_congr {s u : State} (a up : Nat) (hm : u.mem = s.mem) (he : u.ecc = s.ecc) (hr : u.rawChk = s.rawChk) :
    (u.eccAfter a up).mem = (s.eccAfter a up).mem := by
  have hbytes (v : List Nat) : (u.writeBytes a v).mem = (s.writeBytes a v).mem := by
    suffices h : ∀ (x y : State) (b : Nat), x.mem = y.mem → (x.writeBytes b v).mem = (y.writeBytes b v).mem from h u s a hm
    induction v with
    | nil => exact fun _ _ _ h => h
    | cons e v ih => exact fun x y b h => ih _ _ _ (by rw [State.writeByte, State.writeByte, h])
  have hword : u.readWord a = s.readWord a := by rw [State.readWord, State.readWord, readBytes_mem hm]
  have hfixed : u.readFixed a = s.readFixed a := by rw [State.readFixed, State.readFixed, hword, he, hr]
  have hecc : u.eccOf a up = s.eccOf a up := by rw [State.eccOf, State.eccOf, he]
  rw [State.eccAfter_mem, State.eccAfter_mem, hecc, he, hr, hfixed, hm, State.writeWord, State.writeWord, hbytes]

/-- R78, R284: a read of a scratchpad word leaves in memory what the correction of the word leaves. -/
theorem State.padErrors_mem (s : State) (c a port up : Nat) :
    (s.padErrors c a port up).mem = (s.eccAfter (padBase c + 16 * a) up).mem := by
  simp only [State.padErrors]
  repeat' split
  all_goals simp

/-- R77, R78: so does a fetch at which no error arises. -/
theorem State.fetchCell_mem (s : State) (c k : Nat) (ring : Bool) :
    (s.fetchCell c k ring 0).mem = (s.eccAfter (padBase c + 16 * k) 0).mem := by
  have hb : bitOf 0 2 = false := rfl
  simp only [State.fetchCell, hb, State.modCell_mem, Bool.false_eq_true, if_false, State.padErrors_mem]
  exact State.eccAfter_mem_congr _ _ rfl rfl rfl

/-- Who leads whom is in CEL.CARAVAN alone (R107). -/
theorem State.members_wr {s : State} {f : Fld} (v l : Nat)
    (h : ∀ c, f.key ≠ (CEL.CARAVAN_EN c).key ∧ f.key ≠ (CEL.CARAVAN_LEAD c).key) : (s.wr f v).members l = s.members l := by
  simp [State.members, State.enabled, State.leadOf, State.flag, State.rd_wr_ne s v (h _).1, State.rd_wr_ne s v (h _).2]

/-- R78: a caravan of one cell that does not stream fetches its next word by PC. -/
theorem State.boundaryCauses_mem {s : State} {l : Nat} (hd : s.fetchDue l = true) (hp : (s.run l).phase = .ready)
    (hs : s.streaming l = false) (hm : s.members l = [l]) :
    (s.boundaryCauses l).1.mem = (s.eccAfter (padBase l + 16 * s.rd (SEQ.PC_PC l)) 0).mem := by
  have ha : s.fetchAddr l l = s.rd (SEQ.PC_PC l) := by
    simp [State.fetchAddr, hp, hs, Nat.mod_eq_of_lt (show s.rd (SEQ.PC_PC l) < 8192 from s.rd_lt (SEQ.PC_PC l))]
  simp [State.boundaryCauses, hd, State.fetchNext, hs, State.underrunNow, State.fetchAll, hm, ha, look, State.fetchCell_mem]

/-- CONFINED is all that `State.confine` touches (R361). -/
theorem State.confine_eq (s : State) (l : Nat) : ∃ r, s.confine l = { s with runs := r } := by
  simp only [State.confine]
  split
  · exact ⟨_, rfl⟩
  · exact ⟨s.runs, rfl⟩

/-- The caravan of cell `l` alone is in a STEP (R98), its word fetched by PC. -/
abbrev State.Steps (s : State) (l : Nat) : Prop :=
  (s.run l).stepping = true ∧ (s.cell l).word.any (·.ring) = false ∧ s.streaming l = false ∧ s.members l = [l]

/-- R93, R98, R284: where a STEP ends with PC at `k`, the read of word `k` is what changes memory. -/
theorem State.endWord_mem_of_steps {s : State} {l k : Nat} (hs : s.Steps l) (hk : k < 8192) :
    (s.endWord l k none).mem = (s.eccAfter (padBase l + 16 * k) 0).mem := by
  obtain ⟨hstep, hword, hstream, hmem⟩ := hs
  obtain ⟨r, hc⟩ := s.confine_eq l
  let u : State := (({ s with runs := r }.wr (SEQ.PC_PC l) (k % 8192)).modCell l fun x => { x with word := none }).modRun l fun x =>
    { x with phase := .ready, skipBkpt := false, inUnder := false }
  have hend : s.endWord l k none = u.haltAtBoundary l [(l, cStepped)] := by
    simp [State.endWord, hstep, hword, hmem, hc, u]
  have hpc : u.rd (SEQ.PC_PC l) = k := by
    simp [u, Nat.mod_eq_of_lt hk]
  have hst : u.streaming l = false := by
    rw [← hstream]
    simp only [State.streaming, State.flag, u, State.rd_modRun, State.rd_modCell]
    rw [State.rd_wr_ne _ _ (by simp only [Fld.key]; omega), State.rd_mk]
  have hms : u.members l = [l] := by
    rw [← hmem]
    exact State.members_wr _ _ fun c => by simp only [Fld.key]; omega
  have hdue : u.fetchDue l = true := by simp [State.fetchDue, u]
  rw [hend, State.haltAtBoundary, State.haltBefore_mem, State.boundaryCauses_mem hdue (by simp [u]) hst hms, hpc]
  exact State.eccAfter_mem_congr _ _ rfl rfl rfl

/-! ## Memory that a write back changes

The statements speak of every state and of memory as data, a list of bytes by address. What the correction makes of a word is the
unit's code (`Config.checkFix`, log 17), which has no body; so the byte of the counterexamples is one that no write leaves, whatever
the code: an explicit zero, where a write of zero leaves no entry. (Where the code changes a word, any memory that holds it does.) -/

/-- Memory stores an explicit zero byte at `a` and nothing else; the word there was stored raw, with a correctable error. -/
abbrev State.Raw (s : State) (a : Nat) : Prop := s.mem = [(a, 0)] ∧ s.ecc = [(a, 1)] ∧ s.rawChk = [(a, 1)]

/-- Written bytes leave no explicit zero. -/
theorem State.wf_writeBytes {s : State} (h : Tab.wf memDefault s.mem = true) (a : Nat) (l : List Nat) :
    Tab.wf memDefault (s.writeBytes a l).mem = true := by
  induction l generalizing s a with
  | nil => exact h
  | cons v l ih => exact ih (Tab.wf_set _ _ h) _

/-- A byte written over the one entry leaves none or one that is not zero. -/
theorem State.wf_writeByte_of_raw {s : State} {a : Nat} (h : s.Raw a) (v : Nat) :
    Tab.wf memDefault (s.writeByte a v).mem = true := by
  obtain ⟨hmem, -⟩ := h
  simp only [State.writeByte, hmem, Tab.set]
  split
  · simp [Tab.erase, Tab.wf, Tab.wfFrom]
  · next hv => simpa [Tab.insert, Tab.wf, Tab.wfFrom] using hv

/-- R284: a read of the word changes memory. -/
theorem State.eccAfter_mem_of_raw {s : State} {a : Nat} (h : s.Raw a) : (s.eccAfter a 0).mem ≠ s.mem := by
  have ⟨hmem, hecc, hraw⟩ := h
  have hback : s.eccAfter a 0 = s.writeWord a (s.readFixed a) := by
    simp [State.eccAfter, State.eccOf, hecc, hraw, Tab.get]
  have hw : Tab.wf memDefault (s.writeWord a (s.readFixed a)).mem = true := State.wf_writeBytes (State.wf_writeByte_of_raw h _) _ _
  rw [hback]
  intro he
  rw [he, hmem] at hw
  simp [Tab.wf, Tab.wfFrom, memDefault] at hw

/-- A STEP of the caravan of cell 0 alone, RUNNING on a running clock in phase `p`: its word `w` came by PC from scratchpad word 0, and
word `k` was stored raw with a correctable error. Its lead holds the APG of block 0, whose tiles run. -/
def stepOver (k w : Nat) (p : Phase) : State :=
  { State.reset.wrs [(CEL.CARAVAN_EN 0, 1), (SEQ.STATUS_STATE 0, stRunning), (PLL.STATUS_CLK_RUN 0, 1), (RGN.APG_OWN_V0 0, 1),
      (FAB.STATUS_RUN 0, 1)] with
    mem := [(padBase 0 + 16 * k, 0)], ecc := [(padBase 0 + 16 * k, 1)], rawChk := [(padBase 0 + 16 * k, 1)]
    cells := [(0, { CellX.reset with word := some ⟨w, 0, false, .service, 16⟩ })]
    runs := [(0, { Run.reset with stepping := true, phase := p })] }

theorem stepOver_raw (k w : Nat) (p : Phase) : (stepOver k w p).Raw (padBase 0 + 16 * k) := ⟨rfl, rfl, rfl⟩

/-- The CTL word with opcode `op` and operand bits `x`. -/
def ctlWord (op x : Nat) : Nat := 2 * 2 ^ 70 + op * 2 ^ 64 + x

/-- A command that ends the word of the STEP, PC at `k`, changes memory. -/
theorem exec_stepOver_mem {i : Instr} {k w : Nat} {p : Phase} {u v t : State} (hx : exec i (stepOver k w p) = .next v)
    (hv : v.mem = (u.endWord 0 k none).mem) (hk : k < 8192) (hu : u.Steps 0 ∧ u.Raw (padBase 0 + 16 * k))
    (ht : exec i (stepOver k w p) = .next t) : t.mem ≠ (stepOver k w p).mem := by
  obtain rfl : v = t := Host.Outcome.next.inj (hx.symm.trans ht)
  obtain ⟨hsteps, hraw⟩ := hu
  have hsame : u.mem = (stepOver k w p).mem := hraw.1
  rw [hv, ← hsame, State.endWord_mem_of_steps hsteps hk]
  exact State.eccAfter_mem_of_raw hraw

/-! ### Member-scoped words -/

theorem exec_nop_stepOver : exec (.nop 0) (stepOver 1 (ctlWord 0x00 0) .ready) =
    .next (((stepOver 1 (ctlWord 0x00 0) .ready).holdStrides 0 1).endWord 0 1 none) := by rfl

/-- Refutes O6: a STEP over a NOP reads word 1, corrects it and writes it back, so that memory differs. -/
theorem not_memberWords : ¬ Obligations.MemberWords := by
  unfold Obligations.MemberWords
  intro h
  obtain ⟨t, hx, ⟨-, hmem, -⟩, -⟩ := h (stepOver 1 (ctlWord 0x00 0) .ready) 0 ⟨ctlWord 0x00 0, 0, false, .service, 16⟩ (.nop 0) 0x00
    (by decide) (by decide) (by decide)
  exact exec_stepOver_mem exec_nop_stepOver rfl (by decide) (by decide) hx hmem

/-! ### Flow -/

theorem exec_jmp_stepOver : exec (.jmp 0) (stepOver 1 (ctlWord 0x02 1) .ready) =
    .next (((stepOver 1 (ctlWord 0x02 1) .ready).holdStrides 0 1).endWord 0 1 none) := by rfl

/-- Refutes O7: a STEP over a JMP to word 1 reads it, corrects it and writes it back, so that memory differs. -/
theorem not_flowWords : ¬ Obligations.FlowWords := by
  unfold Obligations.FlowWords
  intro h
  obtain ⟨-, hjmp, -⟩ := h (stepOver 1 (ctlWord 0x02 1) .ready) 0 ⟨ctlWord 0x02 1, 0, false, .service, 16⟩ (by decide) (by decide)
  obtain ⟨t, hx, ⟨-, hmem, -⟩, -⟩ := hjmp (by decide)
  exact exec_stepOver_mem exec_jmp_stepOver rfl (by decide) (by decide) hx hmem

/-! ### Event codes and markers -/

theorem exec_event_stepOver : exec (.event 0) (stepOver 1 (ctlWord 0x0D 0) .ready) =
    .next ((((stepOver 1 (ctlWord 0x0D 0) .ready).holdStrides 0 1).pushEvent 0 0).endWord 0 1 none) := by rfl

/-- Refutes O8: a STEP over an EVENT reads word 1, corrects it and writes it back, so that memory differs. -/
theorem not_queueAndMarkWords : ¬ Obligations.QueueAndMarkWords := by
  unfold Obligations.QueueAndMarkWords
  rintro ⟨h, -⟩
  obtain ⟨hevent, -⟩ := h (stepOver 1 (ctlWord 0x0D 0) .ready) 0 ⟨ctlWord 0x0D 0, 0, false, .service, 16⟩ (by decide)
  obtain ⟨t, hx, ⟨-, hmem, -⟩, -⟩ := hevent (by decide)
  exact exec_stepOver_mem exec_event_stepOver rfl (by decide) (by decide) hx hmem

/-! ### APG -/

theorem exec_apg_stepOver : exec (.apg 0) (stepOver 1 (ctlWord 0x0A 0) .ready) =
    .next (((((stepOver 1 (ctlWord 0x0A 0) .ready).holdStrides 0 1).modRun 0 fun x => { x with sn := x.sn - 1 }).modRun 0 fun x =>
      { x with sn := x.sn + 1 }).endWord 0 1 none) := by rfl

/-- Refutes O9: a STEP over an APG word without load and step reads word 1, corrects it and writes it back, so that memory differs. -/
theorem not_apgWordAndRegisters : ¬ Obligations.ApgWordAndRegisters := by
  unfold Obligations.ApgWordAndRegisters
  rintro ⟨h, -⟩
  obtain ⟨t, hx, -, -, -, hmem⟩ := h (stepOver 1 (ctlWord 0x0A 0) .ready) 0 ⟨ctlWord 0x0A 0, 0, false, .service, 16⟩ (by decide)
    (by decide)
  exact exec_stepOver_mem exec_apg_stepOver rfl (by decide) (by decide) hx hmem

/-! ### Vector words -/

/-- What cell 0 does in the stride of a VEC whose payload is 0. -/
def vecMembers : State × List CellStride := (stepOver 1 0 .ready).memberVectors 0 ((stepOver 1 0 .ready).apgOut 0) [0]

/-- The state after that stride, before its word ends. -/
def vecDone : State := (vecMembers.1.passStride 0 []).modRun 0 fun x =>
  { x with unresolved := x.unresolved ++ [⟨0, 0, 0, false, 0, 0, false, vecMembers.2⟩], bondLeft := x.bondLeft - 1 }

theorem exec_vec_stepOver : exec (.vec 0 (0, [])) (stepOver 1 0 .ready) = .next (vecDone.endWord 0 1 none) := by rfl

/-- Refutes O11: a STEP over a VEC reads word 1, corrects it and writes it back, so that memory differs. -/
theorem not_vectorStrides : ¬ Obligations.VectorStrides := by
  unfold Obligations.VectorStrides
  rintro ⟨h, -⟩
  obtain ⟨t, hx, -, -, -, -, -, hmem, -⟩ := h (stepOver 1 0 .ready) 0 0 [] ⟨0, 0, false, .service, 16⟩ (.vec 0 (0, [])) 0
    (by decide) (by decide) (by decide)
  exact exec_stepOver_mem exec_vec_stepOver rfl (by decide) (by decide) hx hmem

/-! ### WAIT -/

theorem exec_waitCountExpiry_stepOver : exec (.waitCountExpiry 0) (stepOver 1 0 (.waitTime 0)) =
    .next (((stepOver 1 0 (.waitTime 0)).modRun 0 fun x => { x with phase := .waitTime 0 }).endWord 0 1 none) := by rfl

/-- Refutes O14: a STEP over a timed WAIT ends with no stride left; it reads word 1, corrects it and writes it back, so that memory
differs. -/
theorem not_waitWords : ¬ Obligations.WaitWords := by
  unfold Obligations.WaitWords
  rintro ⟨-, -, -, -, h, -⟩
  obtain ⟨t, hx, ⟨-, hmem, -⟩, -⟩ := h (stepOver 1 0 (.waitTime 0)) 0 0 (by decide) (by decide) (by decide) (by decide) (by rfl)
  exact exec_stepOver_mem exec_waitCountExpiry_stepOver rfl (by decide) (by decide) hx hmem

/-! ### MATCH -/

theorem exec_matchDrainEnd_stepOver : exec (.matchDrainEnd 0) (stepOver 2 0 (.matching 7 7 false 1)) =
    .next (((stepOver 2 0 (.matching 7 7 false 1)).setMatch 0 true).endWord 0 2 none) := by rfl

/-- Refutes O15: a STEP over a MATCH whose template 1 passed ends after template 7; it reads word 2, corrects it and writes it back,
so that memory differs. -/
theorem not_matchWords : ¬ Obligations.MatchWords := by
  unfold Obligations.MatchWords
  rintro ⟨-, -, -, h⟩
  obtain ⟨t, hx, -, -, -, -, hmem⟩ := h (stepOver 2 0 (.matching 7 7 false 1)) 0 7 7 1 false (by decide) (by decide) (by rfl)
    (by decide) (by decide) (by decide) (by decide)
  exact exec_stepOver_mem exec_matchDrainEnd_stepOver rfl (by decide) (by decide) hx hmem

/-! ### SYNC -/

theorem exec_sync_stepOver : exec (.sync 0 0) (stepOver 1 0 (.released 1 0 false)) =
    .next (((stepOver 1 0 (.released 1 0 false)).modRun 0 fun x => { x with phase := .released 1 0 false }).endSync 0 1) := by rfl

/-- Refutes O16: a STEP over a released SYNC ends with no hold stride left; it reads word 1, corrects it and writes it back, so that
memory differs. -/
theorem not_barriers : ¬ Obligations.Barriers := by
  unfold Obligations.Barriers
  rintro ⟨-, -, h, -⟩
  obtain ⟨t, hx, ⟨-, hmem, -⟩, -⟩ := h (stepOver 1 0 (.released 1 0 false)) 0 0 1 0 (by decide) (by decide) (by decide) (by rfl)
    (by decide)
  exact exec_stepOver_mem exec_sync_stepOver rfl (by decide) (by decide) hx hmem

/-! ### Port B of a tile -/

theorem exec_portBAccess_stepOver : ∃ t, exec (.portBAccess 0 1 0 0 0 false) (stepOver 1 0 .ready) = .next t ∧
    t.mem = ((stepOver 1 0 .ready).eccAfter (padBase 0 + 16 * 1) 0).mem :=
  ⟨_, rfl, rfl⟩

/-- Refutes O25: the tile of cell 0 reads word 1 through port B; the read corrects the word and writes it back, so that memory
differs. -/
theorem not_swapsAndTileHooks : ¬ Obligations.SwapsAndTileHooks := by
  unfold Obligations.SwapsAndTileHooks
  rintro ⟨-, -, -, -, -, -, -, -, -, h⟩
  obtain ⟨-, t, hx, hmem, -⟩ := h (stepOver 1 0 .ready) 0 1 0 0 (by decide) (by decide) (by decide) (by decide) (by decide)
  obtain ⟨u, hu, hr⟩ := exec_portBAccess_stepOver
  obtain rfl : u = t := Host.Outcome.next.inj (hu.symm.trans hx)
  exact State.eccAfter_mem_of_raw (stepOver_raw 1 0 .ready) (hr.symm.trans hmem)

end Sys2Proof.Machine

namespace Sys2Proof.Machine

/-! ## What the results of one cell leave of another (R44, R217, R251) -/

/-- The registers of cell `c` that a RESOLVE reads or reports in: FAILS, FAIL_COUNT and the levels of the comparators (R147). -/
def Watched (c k : Nat) : Prop :=
  k = (SEQ.STATUS_FAILS c).key ∨ k = (SEQ.FAIL_COUNT_COUNT c).key ∨ ∃ n < 4, k = (PIN.CTRL_LSEL c n).key ∨
    ∃ m < 2, k = (PIN.LSA_VOH c n m).key ∨ k = (PIN.LSA_VOL c n m).key

/-- From `s` to `t` nothing of cell `c` differs that a RESOLVE judges by or reports in, and no memory and no run record. -/
structure State.Keeps (c : Nat) (s t : State) : Prop where
  mem : t.mem = s.mem
  runs : t.runs = s.runs
  fail : (t.cell c).fail = (s.cell c).fail
  rd : ∀ f : Fld, Watched c f.key → t.rd f = s.rd f

/-- The registers that a RESOLVE counts in beside FAILS and FAIL_COUNT, none of them a watched one. -/
theorem not_watched {c d b i : Nat} (_ : c < 256) (_ : d < 256) (_ : b < 32) (_ : i < 8) :
    ¬ Watched c (SEQ.STATUS_BFAILS d).key ∧ ¬ Watched c (CEL.FQ_DROPS d).key ∧
      ¬ Watched c (FAB.TILE_TAP_DROP b i).key ∧ ¬ Watched c (FAB.TILE_TAP_LOST b i).key := by
  refine ⟨?_, ?_, ?_, ?_⟩ <;>
  · rintro (h | h | ⟨n, hn, h | ⟨m, hm, h | h⟩⟩) <;> simp only [Fld.key, cellBase, blockBase] at h <;> omega

/-- The windows of two cells are apart (R535). -/
theorem not_watched_of_ne {c d : Nat} (_ : c ≠ d) (_ : c < 256) (_ : d < 256) :
    ¬ Watched c (SEQ.STATUS_FAILS d).key ∧ ¬ Watched c (SEQ.FAIL_COUNT_COUNT d).key := by
  constructor <;>
  · rintro (h | h | ⟨n, hn, h | ⟨m, hm, h | h⟩⟩) <;> simp only [Fld.key, cellBase] at h <;> omega

namespace State.Keeps

variable {c d : Nat} {s t u : State}

theorem refl (s : State) : State.Keeps c s s := ⟨rfl, rfl, rfl, fun _ _ => rfl⟩

theorem trans (h : State.Keeps c s t) (g : State.Keeps c t u) : State.Keeps c s u :=
  ⟨g.mem.trans h.mem, g.runs.trans h.runs, g.fail.trans h.fail, fun f hf => (g.rd f hf).trans (h.rd f hf)⟩

/-- A fold of updates, each of which keeps cell `c`, keeps it. -/
theorem foldl {α : Type} {f : State → α → State} (l : List α) (h : ∀ t, ∀ x ∈ l, State.Keeps c t (f t x)) (s : State) :
    State.Keeps c s (l.foldl f s) := by
  induction l generalizing s with
  | nil => exact refl s
  | cons x l ih =>
    exact (h s x List.mem_cons_self).trans (ih (fun t y hy => h t y (List.mem_cons_of_mem _ hy)) _)

theorem wr {f : Fld} (v : Nat) (h : ¬ Watched c f.key) (s : State) : State.Keeps c s (s.wr f v) :=
  ⟨rfl, rfl, rfl, fun _ hg => s.rd_wr_ne v fun e => h (e ▸ hg)⟩

theorem count {f : Fld} (n : Nat) (h : ¬ Watched c f.key) (s : State) : State.Keeps c s (s.count f n) := wr _ h s

theorem setCell {x : CellX} (h : d = c → x.fail = (s.cell c).fail) : State.Keeps c s (s.setCell d x) where
  mem := rfl
  runs := rfl
  fail := by
    by_cases e : d = c
    · rw [e, s.cell_setCell_self, h e]
    · rw [s.cell_setCell_ne x e]
  rd _ _ := rfl

theorem modCell {g : CellX → CellX} (h : ∀ x, (g x).fail = x.fail) : State.Keeps c s (s.modCell d g) :=
  setCell fun e => by rw [h, e]

/-- What the comparators of a kept cell can have shown is judged alike. -/
theorem compared_eq (h : State.Keeps c s t) (o : Nat) : t.compared c o = s.compared c o := by
  unfold State.compared
  refine List.foldl_ext _ _ _ fun v i hi => ?_
  have hn : i / 8 < 4 := by have := List.mem_range.mp hi; omega
  have hm : s.rd (PIN.CTRL_LSEL c (i / 8)) < 2 := s.rd_lt (PIN.CTRL_LSEL c (i / 8))
  have hl := h.rd (PIN.CTRL_LSEL c (i / 8)) (.inr (.inr ⟨_, hn, .inl rfl⟩))
  have hoh := h.rd (PIN.LSA_VOH c (i / 8) (s.rd (PIN.CTRL_LSEL c (i / 8)))) (.inr (.inr ⟨_, hn, .inr ⟨_, hm, .inl rfl⟩⟩))
  have hol := h.rd (PIN.LSA_VOL c (i / 8) (s.rd (PIN.CTRL_LSEL c (i / 8)))) (.inr (.inr ⟨_, hn, .inr ⟨_, hm, .inr rfl⟩⟩))
  simp only [hl, hoh, hol]

variable (hc : c < 256) (hd : d < 256)
include hc hd

theorem sendTap (fb sc : Nat) (fc tmpl : Bool) (s : State) : State.Keeps c s (s.sendTap d fb sc fc tmpl) := by
  obtain ⟨-, -, hdrop, hlost⟩ := not_watched hc hd (b := blockOf d) (i := d % 8)
    (Nat.div_lt_of_lt_mul hd) (Nat.mod_lt _ (by omega))
  unfold State.sendTap
  dsimp only
  split
  · exact setCell fun e => by rw [e]
  · exact ((setCell fun e => by rw [e]).trans (count 1 hdrop _)).trans (wr 1 hlost _)

theorem pushRecord (r : FailRec) (s : State) : State.Keeps c s (s.pushRecord d r) := by
  unfold State.pushRecord
  split
  · exact modCell fun _ => rfl
  · exact count 1 (not_watched hc hd (b := 0) (i := 0) (by omega) (by omega)).2.1 s

end State.Keeps

/-- R222: markers enter the cell fail queues alone. -/
theorem State.keeps_mark (c : Nat) (s : State) (l : Nat) (alloc : Bool) : State.Keeps c s (s.mark l alloc) := by
  unfold State.mark
  dsimp only
  refine State.Keeps.trans ?_ (State.Keeps.foldl _ (fun t d _ => ?_) _)
  · exact ⟨rfl, rfl, rfl, fun _ _ => rfl⟩
  · exact State.Keeps.modCell fun _ => rfl

/-- R222: where markers are due, placing them takes them from the run record of the caravan. -/
theorem State.keeps_placeMarks (s : State) (l : Nat) :
    s.placeMarks l = s ∨ ∃ ms, ∀ c, State.Keeps c (s.setRun l { s.run l with marks := ms }) (s.placeMarks l) := by
  unfold State.placeMarks
  dsimp only
  split
  · exact .inl rfl
  · exact .inr ⟨_, fun c => State.Keeps.foldl _ (fun t m _ => State.keeps_mark c t l m.2) _⟩

/-! ## One member's results (R44, R72, R217) -/

/-- What RESOLVE leaves of cell `c` for the fail bits `fb`: FAIL, FAILS and FAIL_COUNT (R44, R72). -/
def State.Verdict (s t : State) (c fb : Nat) : Prop :=
  (t.cell c).fail = (fb != 0) ∧
    (fb ≠ 0 → t.rd (SEQ.STATUS_FAILS c) = 1 ∧ t.rd (SEQ.FAIL_COUNT_COUNT c) =
      satAdd (SEQ.FAIL_COUNT_COUNT c).width (s.rd (SEQ.FAIL_COUNT_COUNT c)) 1) ∧
    (fb = 0 → t.rd (SEQ.STATUS_FAILS c) = s.rd (SEQ.STATUS_FAILS c) ∧
      t.rd (SEQ.FAIL_COUNT_COUNT c) = s.rd (SEQ.FAIL_COUNT_COUNT c))

/-- The fail bits of one member's part of a stride, its comparators having shown `o` (R147, R208). -/
def State.judged (s : State) (m : CellStride) (o : Nat) : Nat := failBits m.expect m.windows (s.compared m.cell o)

section
variable {c fb : Nat} {s t u : State}

/-- FAILS and FAIL_COUNT of a kept cell. -/
theorem State.Keeps.results (h : State.Keeps c s t) :
    t.rd (SEQ.STATUS_FAILS c) = s.rd (SEQ.STATUS_FAILS c) ∧ t.rd (SEQ.FAIL_COUNT_COUNT c) = s.rd (SEQ.FAIL_COUNT_COUNT c) :=
  ⟨h.rd _ (.inl rfl), h.rd _ (.inr (.inl rfl))⟩

theorem State.Keeps.judged_eq {m : CellStride} (h : State.Keeps m.cell s t) (o : Nat) : t.judged m o = s.judged m o := by
  rw [State.judged, State.judged, h.compared_eq]

theorem State.Verdict.of_keeps (h : State.Keeps c s t) (g : State.Verdict t u c fb) : State.Verdict s u c fb := by
  rw [State.Verdict, h.results.1, h.results.2] at g
  exact g

theorem State.Verdict.keeps (h : State.Verdict s t c fb) (g : State.Keeps c t u) : State.Verdict s u c fb := by
  rw [State.Verdict, ← g.fail, ← g.results.1, ← g.results.2] at h
  exact h
end

/-- A counter field of its width counts one, saturating (R21). -/
theorem State.rd_count_self (s : State) (f : Fld) (n : Nat) : (s.count f n).rd f = satAdd f.width (s.rd f) n := by
  have hp := Nat.two_pow_pos f.width
  rw [State.count, State.rd_wr_self, Nat.mod_eq_of_lt]
  unfold satAdd
  omega

/-- A report waits in the queue of reports; no cell differs. -/
theorem State.keeps_report (c code unit : Nat) (s : State) : State.Keeps c s (s.report code unit) := ⟨rfl, rfl, rfl, fun _ _ => rfl⟩

/-- What RESOLVE does to a failing cell beside FAIL, FAILS and FAIL_COUNT: BFAILS, the threshold's event and the fail record. -/
theorem State.keeps_failTail {c d : Nat} (hc : c < 256) (hd : d < 256) (s : State) (bonded hit rec : Prop) [Decidable bonded]
    [Decidable hit] [Decidable rec] (r : FailRec) (n : Nat) :
    let s5 := if bonded then s else s.wr (SEQ.STATUS_BFAILS d) 1
    let s6 := if hit then (s5.modCell d fun x => { x with threshHit := true }).pulse n else s5
    State.Keeps c s (if rec then s6.pushRecord d r else s6) := by
  intro s5 s6
  have h5 : State.Keeps c s s5 := by
    by_cases h : bonded
    · simpa only [s5, if_pos h] using State.Keeps.refl s
    · simpa only [s5, if_neg h] using State.Keeps.wr 1 (not_watched hc hd (b := 0) (i := 0) (by omega) (by omega)).1 s
  have h6 : State.Keeps c s s6 := by
    by_cases h : hit
    · simp only [s6, if_pos h]
      refine h5.trans (State.Keeps.trans (State.Keeps.modCell (d := d) (g := fun x => { x with threshHit := true }) fun _ => rfl) ?_)
      exact ⟨rfl, rfl, rfl, fun _ _ => rfl⟩
    · simpa only [s6, if_neg h] using h5
  by_cases h : rec
  · simpa only [if_pos h] using h6.trans (State.Keeps.pushRecord hc hd r s6)
  · simpa only [if_neg h] using h6

section
variable {s : State} {l : Nat} {v : Stride} {m : CellStride} {o : Nat} {dual : Bool}

/-- R60: a template's results stay out of the cells' registers. -/
theorem State.keeps_resolveCell_template {c : Nat} (hc : c < 256) (hm : m.cell < 256) (ht : 0 < v.tmpl) :
    State.Keeps c s (s.resolveCell l v m o dual) := by
  unfold State.resolveCell
  dsimp only
  rw [if_pos ht]
  split
  · exact (State.Keeps.sendTap hc hm ..).trans (State.keeps_report ..)
  · exact State.Keeps.sendTap hc hm ..

/-- R44, R72: a vector stride's results: the tap entry and the report first, FAIL, and of a failing cell FAILS and the count. -/
theorem State.resolveCell_cases (hm : m.cell < 256) (ht : v.tmpl = 0) :
    ∃ u : State, (∀ c < 256, State.Keeps c s u) ∧
      (s.judged m o = 0 → s.resolveCell l v m o dual = u.modCell m.cell fun x => { x with fail := false }) ∧
      (s.judged m o ≠ 0 → ∀ c < 256, State.Keeps c
        (((u.modCell m.cell fun x => { x with fail := true }).wr (SEQ.STATUS_FAILS m.cell) 1).count
          (SEQ.FAIL_COUNT_COUNT m.cell) 1) (s.resolveCell l v m o dual)) := by
  let tapped := s.sendTap m.cell (s.judged m o - Nat.land (s.judged m o) (laneBits m.bonded)) v.sc m.fc (decide (0 < v.tmpl))
  refine ⟨if dual then tapped.report 0x03 m.cell else tapped, fun c hc => ?_, fun h => ?_, fun h c hc => ?_⟩
  · have htap : State.Keeps c s tapped := State.Keeps.sendTap hc hm ..
    split
    · exact htap.trans (State.keeps_report ..)
    · exact htap
  · unfold State.judged at h
    simp [State.resolveCell, h, ht, tapped, State.judged]
  · unfold State.judged at h
    simp only [State.resolveCell, h, ht, tapped, State.judged, lt_irrefl, if_false, bne_iff_ne.mpr h]
    exact State.keeps_failTail hc hm ..

/-- R44, R72: the results of member `m` in its own registers. -/
theorem State.verdict_resolveCell (hm : m.cell < 256) (ht : v.tmpl = 0) :
    State.Verdict s (s.resolveCell l v m o dual) m.cell (s.judged m o) := by
  obtain ⟨u, hu, hpass, hfail⟩ := State.resolveCell_cases (s := s) (l := l) (o := o) (dual := dual) hm ht
  refine State.Verdict.of_keeps (hu _ hm) ?_
  by_cases h : s.judged m o = 0
  · simp [State.Verdict, hpass h, h, State.modCell]
  · refine State.Verdict.keeps ?_ (hfail h _ hm)
    have hk : (SEQ.STATUS_FAILS m.cell).key ≠ (SEQ.FAIL_COUNT_COUNT m.cell).key := by simp only [Fld.key]; omega
    refine ⟨by simp [h, State.count], fun _ => ⟨?_, ?_⟩, fun e => absurd e h⟩
    · rw [State.count, State.rd_wr_ne _ _ hk.symm, State.rd_wr_self]
      rfl
    · rw [State.rd_count_self, State.rd_wr_ne _ _ hk]
      rfl

/-- R44: the results of member `m` leave the other cells alone. -/
theorem State.keeps_resolveCell_ne {c : Nat} (hc : c < 256) (hm : m.cell < 256) (ht : v.tmpl = 0) (h : m.cell ≠ c) :
    State.Keeps c s (s.resolveCell l v m o dual) := by
  obtain ⟨u, hu, hpass, hfail⟩ := State.resolveCell_cases (s := s) (l := l) (o := o) (dual := dual) hm ht
  have hf (b : Bool) : State.Keeps c s (u.modCell m.cell fun x => { x with fail := b }) :=
    (hu c hc).trans (State.Keeps.setCell fun e => absurd e h)
  by_cases hj : s.judged m o = 0
  · rw [hpass hj]
    exact hf false
  · obtain ⟨h1, h2⟩ := not_watched_of_ne (Ne.symm h) hc hm
    exact (((hf true).trans (State.Keeps.wr 1 h1 _)).trans (State.Keeps.count 1 h2 _)).trans (hfail hj c hc)

/-- The results of one member leave memory and the run records. -/
theorem State.resolveCell_mem_runs (hm : m.cell < 256) :
    (s.resolveCell l v m o dual).mem = s.mem ∧ (s.resolveCell l v m o dual).runs = s.runs := by
  obtain ht | ht := Nat.eq_zero_or_pos v.tmpl
  · have h : State.Keeps ((m.cell + 1) % 256) s (s.resolveCell l v m o dual) :=
      State.keeps_resolveCell_ne (Nat.mod_lt _ (by decide)) hm ht (by omega)
    exact ⟨h.mem, h.runs⟩
  · have h : State.Keeps 0 s (s.resolveCell l v m o dual) := State.keeps_resolveCell_template (by decide) hm ht
    exact ⟨h.mem, h.runs⟩

end

/-! ## The stride's results (R51, R52, R60, R96) -/

/-- Every member of stride `v` of lead `l` reports its results. -/
def State.resolveCells (s : State) (l : Nat) (v : Stride) (obs : List (Nat × Nat)) (dual : List Nat) (cs : List CellStride) : State :=
  cs.foldl (fun t m => t.resolveCell l v m (look obs m.cell) (dual.contains m.cell)) s

section
variable {l : Nat} {v : Stride} {obs : List (Nat × Nat)} {dual : List Nat} {cs : List CellStride}

theorem State.resolveCells_mem_runs (s : State) (hc : ∀ m ∈ cs, m.cell < 256) :
    (s.resolveCells l v obs dual cs).mem = s.mem ∧ (s.resolveCells l v obs dual cs).runs = s.runs :=
  ⟨State.foldl_same State.mem fun _ m hm => (State.resolveCell_mem_runs (hc m hm)).1,
    State.foldl_same State.runs fun _ m hm => (State.resolveCell_mem_runs (hc m hm)).2⟩

/-- A stride's members, each a cell of its own, report each in its own registers. -/
theorem State.verdict_resolveCells (s : State) (ht : v.tmpl = 0) (hn : (cs.map (·.cell)).Nodup) (hc : ∀ m ∈ cs, m.cell < 256) :
    ∀ m ∈ cs, State.Verdict s (s.resolveCells l v obs dual cs) m.cell (s.judged m (look obs m.cell)) := by
  induction cs generalizing s with
  | nil => exact fun m hm => absurd hm List.not_mem_nil
  | cons x cs ih =>
    obtain ⟨hx, hn⟩ := List.nodup_cons.mp hn
    obtain ⟨hx256, hc⟩ := List.forall_mem_cons.mp hc
    have hne : ∀ m ∈ cs, m.cell ≠ x.cell := fun m hm e => hx (List.mem_map.mpr ⟨m, hm, e⟩)
    refine List.forall_mem_cons.mpr ⟨?_, fun m hm => ?_⟩
    · refine (State.verdict_resolveCell hx256 ht).keeps (State.Keeps.foldl cs (fun t m hm => ?_) _)
      exact State.keeps_resolveCell_ne hx256 (hc m hm) ht (hne m hm)
    · have hkeep : State.Keeps m.cell s (s.resolveCell l v x (look obs x.cell) (dual.contains x.cell)) :=
        State.keeps_resolveCell_ne (hc m hm) hx256 ht (hne m hm).symm
      rw [← hkeep.judged_eq]
      exact State.Verdict.of_keeps hkeep (ih _ hn hc m hm)

end

/-- R44, R222: the oldest stride leaves the list, its members have reported and the markers behind it are placed. -/
def State.resolved (s : State) (l : Nat) (v : Stride) (rest : List Stride) (obs : List (Nat × Nat)) (dual : List Nat) : State :=
  ((s.resolveCells l v obs dual v.cells).modRun l fun x => { x with unresolved := rest }).placeMarks l

/-- R51: what each member of a stride adds to the caravan's aggregates. -/
def State.memberResults (s : State) (v : Stride) (obs : List (Nat × Nat)) : List MemberResult :=
  v.cells.map fun m =>
    { f := s.judged m (look obs m.cell) != 0, compares := hasCompare m.expect,
      passAny := anyPass m.expect m.windows (s.compared m.cell (look obs m.cell)) }

/-- R51: MATCH_ALL says that no member fails. -/
theorem matchAll_eq (ms : List MemberResult) : matchAll ms = !failAny ms := List.not_any_eq_all_not.symm

section
variable {s : State} {l : Nat} {v : Stride} {rest : List Stride} {obs : List (Nat × Nat)} {dual : List Nat}

/-- The results leave memory, and of the caravan's record the outcomes. -/
theorem State.resolved_frame (hc : ∀ m ∈ v.cells, m.cell < 256) :
    (s.resolved l v rest obs dual).mem = s.mem ∧ ((s.resolved l v rest obs dual).run l).unresolved = rest ∧
      ((s.resolved l v rest obs dual).run l).hist = (s.run l).hist := by
  obtain ⟨hmem, hruns⟩ := s.resolveCells_mem_runs (l := l) (v := v) (obs := obs) (dual := dual) hc
  have hrun : (s.resolveCells l v obs dual v.cells).run l = s.run l := by rw [State.run, hruns, ← State.run]
  obtain h | ⟨ms, h⟩ := State.keeps_placeMarks ((s.resolveCells l v obs dual v.cells).modRun l fun x => { x with unresolved := rest }) l
  · rw [State.resolved, h]
    simp [State.modRun, hmem, hrun]
  · have hk := h 0
    have hr : (s.resolved l v rest obs dual).run l = { s.run l with unresolved := rest, marks := ms } := by
      rw [State.resolved, State.run, hk.runs, ← State.run]
      simp [State.modRun, hrun]
    exact ⟨hk.mem.trans hmem, by rw [hr], by rw [hr]⟩

/-- Placing the markers leaves every member's own results. -/
theorem State.keeps_resolved (c : Nat) : ((s.resolved l v rest obs dual).cell c).fail = ((s.resolveCells l v obs dual v.cells).cell c).fail ∧
    ∀ f : Fld, Watched c f.key → (s.resolved l v rest obs dual).rd f = (s.resolveCells l v obs dual v.cells).rd f := by
  obtain h | ⟨ms, h⟩ := State.keeps_placeMarks ((s.resolveCells l v obs dual v.cells).modRun l fun x => { x with unresolved := rest }) l
  · rw [State.resolved, h]
    exact ⟨rfl, fun _ _ => rfl⟩
  · exact ⟨(h c).fail, (h c).rd⟩

/-- RESOLVE on a stride at hand (R44): `resolved`, and then the outcome of a stride or the success of a template. -/
theorem State.resolveOne_eq (hu : (s.run l).unresolved = v :: rest) (hc : ∀ m ∈ v.cells, m.cell < 256) :
    ∃ o : Outcome, (o.sn = v.sn ∧ o.failAny = failAny (s.memberResults v obs) ∧ o.failAll = failAll (s.memberResults v obs) ∧
        o.matchAny = matchAny (s.memberResults v obs) ∧ o.matchAll = matchAll (s.memberResults v obs)) ∧
      s.resolveOne l obs dual =
        if 0 < v.tmpl then (s.resolved l v rest obs dual).templatePassed l v.tmpl (s.memberResults v obs)
        else (s.resolved l v rest obs dual).modRun l fun x => { x with hist := (o :: x.hist).take 16 } := by
  have hcells : (v.cells.filter fun m => decide (m.cell < 256)) = v.cells :=
    List.filter_eq_self.mpr fun m hm => decide_eq_true (hc m hm)
  refine ⟨⟨v.sn, _, _, _, _, (s.members l).any fun c => (s.resolved l v rest obs dual).flag (SEQ.STATUS_FAILS c),
    (s.members l).any fun c => (s.resolved l v rest obs dual).flag (SEQ.STATUS_BFAILS c)⟩, ⟨rfl, rfl, rfl, rfl, rfl⟩, ?_⟩
  unfold State.resolveOne
  rw [hu]
  dsimp only
  rw [hcells]
  rfl

end

/-- Settles O12: by the cases of one member's results and the frame of the other cells, member after member (R44, R51, R60). -/
theorem strideResults : Obligations.StrideResults := by
  unfold Obligations.StrideResults
  refine ⟨fun s l obs dual v rest hf hu ht hn hc => ?_, fun s l obs dual v rest hf hu ht hc => ?_, fun s l obs dual hu => ?_⟩
  · obtain ⟨o, ⟨hsn, hany, hall, hmany, hmall⟩, heq⟩ := State.resolveOne_eq (obs := obs) (dual := dual) hu hc
    rw [if_neg (by omega)] at heq
    obtain ⟨hmem, hrest, -⟩ := State.resolved_frame (s := s) (l := l) (rest := rest) (obs := obs) (dual := dual) hc
    refine ⟨_, congrArg Host.Outcome.next ((if_neg (by simp [hf])).trans heq), by simpa using hrest, hmem, fun m hm => ?_, o, ?_, hsn, ?_⟩
    · obtain ⟨hfail, hrd⟩ := State.keeps_resolved (s := s) (l := l) (v := v) (rest := rest) (obs := obs) (dual := dual) m.cell
      have h := State.verdict_resolveCells (l := l) (obs := obs) (dual := dual) s ht hn hc m hm
      rw [State.Verdict, ← hfail, ← hrd _ (.inl rfl), ← hrd _ (.inr (.inl rfl))] at h
      exact h
    · simp
    · rw [hany, hall, hmany, hmall]
      exact ⟨List.any_map, matchAll_eq _, congrArg₂ _ List.any_map List.all_map, List.any_map⟩
  · obtain ⟨o, -, heq⟩ := State.resolveOne_eq (obs := obs) (dual := dual) hu hc
    rw [if_pos (show 0 < v.tmpl from ht)] at heq
    obtain ⟨-, hrest, hhist⟩ := State.resolved_frame (s := s) (l := l) (rest := rest) (obs := obs) (dual := dual) hc
    refine ⟨_, congrArg Host.Outcome.next ((if_neg (by simp [hf])).trans heq), by simpa [State.templatePassed] using hrest,
      by simpa [State.templatePassed] using hhist, fun c hc256 => ?_⟩
    obtain ⟨-, hrd⟩ := State.keeps_resolved (s := s) (l := l) (v := v) (rest := rest) (obs := obs) (dual := dual) c
    have h : State.Keeps c s (s.resolveCells l v obs dual v.cells) :=
      State.Keeps.foldl _ (fun t m hm => State.keeps_resolveCell_template hc256 (hc m hm) ht) _
    exact ⟨(hrd _ (.inl rfl)).trans h.results.1, (hrd _ (.inr (.inl rfl))).trans h.results.2⟩
  · have h : s.resolveOne l obs dual = s := by simp [State.resolveOne, hu]
    change Host.Outcome.next (if s.frozen then s else s.resolveOne l obs dual) = .next s
    rw [h, ite_self]

end Sys2Proof.Machine

namespace Sys2Proof.Machine

/-! ## Writes of a cell's and a region's registers (R103 to R111) -/

/-- A field written in a list of writes to registers apart reads as its entry. -/
theorem State.rd_wrs_of_mem (s : State) {l : List (Fld × Nat)} {f : Fld} {v : Nat} (hn : (l.map fun e => e.1.key).Nodup)
    (h : (f, v) ∈ l) : (s.wrs l).rd f = v % 2 ^ f.width := by
  induction l generalizing s with
  | nil => exact absurd h List.not_mem_nil
  | cons e l ih =>
    obtain ⟨hnew, hn⟩ := List.nodup_cons.mp hn
    obtain h | h := List.mem_cons.mp h
    · subst h
      rw [State.wrs_cons, State.rd_wrs_ne _ _ fun e he hk => hnew (List.mem_map.mpr ⟨e, he, hk⟩), State.rd_wr_self]
    · exact ih _ hn h

/-- A field has no bits beyond its own after a write of the bits of a mask. -/
theorem State.merged_lt (s : State) (f : Fld) (mask v : Nat) : s.merged f mask v < 2 ^ f.width :=
  Nat.or_lt_two_pow (lt_of_le_of_lt Nat.and_le_left (s.rd_lt f))
    (lt_of_le_of_lt Nat.and_le_left (Nat.mod_lt _ (Nat.two_pow_pos _)))

/-- R361: a steward's access to a cell shows in the run record of its caravan alone. -/
@[simp] theorem State.rd_seqTouch (s : State) (c : Nat) (f : Fld) : (s.seqTouch c).rd f = s.rd f := by
  unfold State.seqTouch
  split <;> rfl

@[simp] theorem State.seqTouch_mem (s : State) (c : Nat) : (s.seqTouch c).mem = s.mem := by
  unfold State.seqTouch
  split <;> rfl

/-- R107: what a caravan of the cell `c` alone shows, `cid` its identifier (R105); `void` is its void bit. -/
def loneCaravan (c cid site void : Nat) : List (Fld × Nat) :=
  [(CEL.CARAVAN_CID c, cid), (CEL.CARAVAN_SITE c, site), (CEL.CARAVAN_EN c, 1), (CEL.CARAVAN_LEAD c, c), (CEL.CARAVAN_IS_LEAD c, 1),
    (CEL.CARAVAN_SPAN c, 0), (CEL.CARAVAN_MEMBERS c, 1), (SEQ.STATUS_STATE c, stIdle), (SEQ.STATUS_VOID c, void)]

theorem nodup_loneCaravan (c cid site void : Nat) : ((loneCaravan c cid site void).map fun e => e.1.key).Nodup := by
  simp [loneCaravan, Fld.key]
  omega

/-- These registers lie in the cell's window. -/
theorem key_loneCaravan {c cid site void : Nat} (hc : c < 256) : ∀ e ∈ loneCaravan c cid site void, e.1.key < 64 * regionBase 0 := by
  simp [loneCaravan, Fld.key, cellBase, regionBase]
  omega

/-- R107: a caravan that is formed of one cell. -/
theorem State.deriveCells_single (s : State) {c : Nat} (hc : c < 256) (cid site : Nat) :
    ∃ void, (s.wrs [(CEL.CARAVAN_CID c, cid), (CEL.CARAVAN_SITE c, site), (CEL.CARAVAN_EN c, 1)]).deriveCells [c] =
      s.wrs (loneCaravan c cid site void) := by
  have hl : min 255 c = c := by omega
  have hd : [blockOf c].eraseDups.length = 1 := by simp [List.eraseDups_cons]
  refine ⟨(s.wrs [(CEL.CARAVAN_CID c, cid), (CEL.CARAVAN_SITE c, site), (CEL.CARAVAN_EN c, 1)]).rd (SEQ.VOID_VOID c), ?_⟩
  simp only [State.deriveCells, List.map_cons, List.map_nil, hd]
  simp [hl, loneCaravan, b2n]

/-- R105, R107: where nobody else has the identifier, enabling a free cell forms a caravan of that cell alone. -/
theorem State.writeCaravan_alone {s : State} {c mask v : Nat} (hc : c < 256) (hoff : s.enabled c = false)
    (hen : s.merged (CEL.CARAVAN_EN c) mask v = 1) (hshare : s.sharing (regionOf c) (s.merged (CEL.CARAVAN_CID c) mask v) c = [])
    (helse : s.cidElsewhere (regionOf c) (s.merged (CEL.CARAVAN_CID c) mask v) = false) :
    ∃ site void, ∀ e ∈ loneCaravan c (s.merged (CEL.CARAVAN_CID c) mask v) site void,
      (s.writeCaravan c mask v).rd e.1 = e.2 % 2 ^ e.1.width := by
  have hne : s.rd (CEL.CARAVAN_EN c) ≠ 1 := by simpa [State.enabled, State.flag] using hoff
  have hbusy : s.cellBusy c = false := by simp [State.cellBusy, hoff]
  obtain ⟨void, hv⟩ := State.deriveCells_single (s.endMembership (s.leadOf c)) hc
    (s.merged (CEL.CARAVAN_CID c) mask v) (s.merged (CEL.CARAVAN_SITE c) mask v)
  have hlead : [s.leadOf c].eraseDups = [s.leadOf c] := by simp [List.eraseDups_cons]
  refine ⟨s.merged (CEL.CARAVAN_SITE c) mask v, void, fun e he => ?_⟩
  have hleads : (RGN.LEADS_LEADS (regionOf c)).key ≠ e.1.key := by
    have := key_loneCaravan hc e he
    simp only [Fld.key, regionBase] at this ⊢
    omega
  refine Eq.trans ?_ (State.rd_wrs_of_mem (s.endMembership (s.leadOf c)) (nodup_loneCaravan ..) he)
  rw [← hv]
  simp only [State.writeCaravan, hen, hoff, hshare, helse, hbusy, hne.symm, State.deriveLeads, and_false, if_false, if_true,
    Bool.false_eq_true, List.append_nil, List.map_cons, List.map_nil, hlead, List.foldl_cons, List.foldl_nil, List.any_nil,
    List.isEmpty_nil, Bool.true_or, Bool.and_false, Bool.or_false]
  rw [State.rd_wr_ne _ _ hleads]
  exact State.foldl_same (fun u => u.rd e.1) fun _ _ _ => rfl

/-- R110: a write that moves no block's source and splits no caravan stands in the gang fields. -/
theorem State.writeGang_same {s : State} {r mask v : Nat}
    (hsame : (List.range 8).filter (fun k => sourceUnder ((List.range 8).map fun j => s.merged (gidF r j) mask v) r k !=
      s.gangSource (8 * r + k)) = [])
    (hsplit : ((s.leadsOf r).any fun l => (s.members l).any fun c =>
      sourceUnder ((List.range 8).map fun j => s.merged (gidF r j) mask v) r (blockOf c % 8) !=
        sourceUnder ((List.range 8).map fun j => s.merged (gidF r j) mask v) r (blockOf l % 8)) = false) :
    s.writeGang r mask v = s.wrs ((List.range 8).map fun k => (gidF r k, s.merged (gidF r k) mask v)) := by
  have hnew : ((List.range 8).map fun k => (gidF r k, ((List.range 8).map fun j => s.merged (gidF r j) mask v).getD k 0)) =
      (List.range 8).map fun k => (gidF r k, s.merged (gidF r k) mask v) :=
    List.map_congr_left fun k hk => by simp [List.mem_range.mp hk]
  simp only [State.writeGang, hsame, hsplit, hnew]
  rfl

/-- R110: a write that would move the source of a busy block is ignored. -/
theorem State.writeGang_busy {s : State} {r mask v : Nat}
    (h : ((List.range 8).any fun k => sourceUnder ((List.range 8).map fun j => s.merged (gidF r j) mask v) r k !=
      s.gangSource (8 * r + k) && s.blockBusy (8 * r + k)) = true) : s.writeGang r mask v = s.rgnIgnored r := by
  simp only [State.writeGang, List.any_filter, h, Bool.true_or, if_true]

/-- R111: block `k` of region `r` has the APG fields of a write. -/
def State.ApgOwned (s t : State) (r mask v k : Nat) : Prop :=
  t.rd (apgLeadF r k) = s.merged (apgLeadF r k) mask v ∧ t.rd (apgValidF r k) = s.merged (apgValidF r k) mask v

/-- R111: a write of the fields of block `j`. -/
def State.ownApg (s : State) (r mask v : Nat) (t : State) (j : Nat) : State :=
  t.wrs [(apgLeadF r j, s.merged (apgLeadF r j) mask v), (apgValidF r j, s.merged (apgValidF r j) mask v)]

theorem State.ownApg_self (s t : State) (r mask v k : Nat) : s.ApgOwned (s.ownApg r mask v t k) r mask v k := by
  have hk : (apgValidF r k).key ≠ (apgLeadF r k).key := by simp only [Fld.key, apgValidF, apgLeadF]; omega
  constructor
  · rw [State.ownApg, State.wrs_cons, State.wrs_cons, State.wrs_nil, State.rd_wr_ne _ _ hk, State.rd_wr_self,
      Nat.mod_eq_of_lt (s.merged_lt ..)]
  · rw [State.ownApg, State.wrs_cons, State.wrs_cons, State.wrs_nil, State.rd_wr_self, Nat.mod_eq_of_lt (s.merged_lt ..)]

theorem State.ownApg_ne (s t : State) (r mask v : Nat) {j k : Nat} (h : j ≠ k) (ht : s.ApgOwned t r mask v k) :
    s.ApgOwned (s.ownApg r mask v t j) r mask v k := by
  have hne : ∀ g, g = apgLeadF r k ∨ g = apgValidF r k → (s.ownApg r mask v t j).rd g = t.rd g := by
    intro g hg
    refine State.rd_wrs_ne _ _ fun e he => ?_
    obtain rfl | rfl := hg <;> simp only [List.mem_cons, List.not_mem_nil, or_false] at he <;> obtain rfl | rfl := he <;>
      simp only [Fld.key, apgValidF, apgLeadF] <;> omega
  rw [State.ApgOwned, hne _ (.inl rfl), hne _ (.inr rfl)]
  exact ht

/-- R111: with the fields of every block of a list written, the others standing as the write has them, all eight read as written. -/
theorem State.foldl_ownApg (s t : State) (r mask v k : Nat) {ks : List Nat} (h : k ∈ ks ∨ s.ApgOwned t r mask v k) :
    s.ApgOwned (ks.foldl (s.ownApg r mask v) t) r mask v k := by
  induction ks generalizing t with
  | nil => exact h.resolve_left List.not_mem_nil
  | cons j ks ih =>
    refine ih _ ?_
    by_cases hj : j = k
    · exact .inr (hj ▸ s.ownApg_self t r mask v j)
    · exact h.imp (fun hm => (List.mem_cons.mp hm).resolve_left (Ne.symm hj)) (s.ownApg_ne t r mask v hj)

/-- R111: a write that would take an APG from a busy holder is ignored. -/
theorem State.writeApgOwn_busy {s : State} {r mask v : Nat}
    (h : ((List.range 8).any fun k => (s.merged (apgLeadF r k) mask v != s.rd (apgLeadF r k) ||
      s.merged (apgValidF r k) mask v != s.rd (apgValidF r k)) && (s.apgHolder (8 * r + k)).any s.busy) = true) :
    s.writeApgOwn r mask v = s.rgnIgnored r := by
  obtain ⟨k, hk, h⟩ := List.any_eq_true.mp h
  refine if_pos ?_
  rw [List.any_filter]
  refine List.any_eq_true.mpr ⟨k, hk, ?_⟩
  rw [Bool.and_eq_true] at h ⊢
  exact ⟨h.1, by rw [h.2, Bool.true_or]⟩

/-- R111: with no caravan busy the write acts on the fields that change. -/
theorem State.writeApgOwn_idle {s : State} {r mask v : Nat} (hr : r < 4) (h : ∀ c, c < 256 → s.busy c = false) :
    s.writeApgOwn r mask v = ((List.range 8).filter fun k => s.merged (apgLeadF r k) mask v != s.rd (apgLeadF r k) ||
      s.merged (apgValidF r k) mask v != s.rd (apgValidF r k)).foldl (s.ownApg r mask v) s := by
  refine if_neg ?_
  rw [Bool.not_eq_true, List.any_eq_false]
  intro k hk
  have hk8 : k < 8 := List.mem_range.mp (List.mem_filter.mp hk).1
  have hnew : s.busy (64 * r + s.merged (apgLeadF r k) mask v) = false :=
    h _ (by have : s.merged (apgLeadF r k) mask v < 64 := s.merged_lt (apgLeadF r k) mask v; omega)
  have hold : (s.apgHolder (8 * r + k)).any s.busy = false := by
    unfold State.apgHolder
    dsimp only
    split
    · refine h _ ?_
      have : s.rd (apgLeadF (regionOfBlock (8 * r + k)) ((8 * r + k) % 8)) < 64 := s.rd_lt _
      simp only [regionOfBlock] at this ⊢
      omega
    · rfl
  simp [hold, hnew]

/-- Settles O19: register by register, an access that is served (R23) acting on the state as it is. -/
theorem sequencerAndCaravanRegisters : Obligations.SequencerAndCaravanRegisters := by
  unfold Obligations.SequencerAndCaravanRegisters
  refine ⟨fun s c v _ ho => ?_, fun s c v ho hv => ?_, fun s c v rest ho hq => ?_, fun s c ho hq => ?_, fun s c n mask v ho => ?_,
    fun s c mask v ho hcid hen hsite hb => ?_, fun s c mask v hc ho hoff hen hshare helse => ?_, fun s c mask v ho hcid hb => ?_,
    fun s r mask v ho hsame hsplit => ?_, fun s r mask v ho hb => ?_, fun s r mask v ho hb => ?_, fun s r mask v hr ho hidle => ?_⟩
  · have hk : (SEQ.NEXT_PC_ARMED c).key ≠ (SEQ.NEXT_PC_ADDR c).key := by simp only [Fld.key]; omega
    refine ⟨_, congrArg Host.Outcome.next (State.atReg_open _ ho), ?_, ?_, ?_, fun f h1 h2 => ?_⟩
    · simp [State.writeNextPc, State.rd_wr_ne _ _ hk]
    · simp [State.writeNextPc]
    · simp [State.writeNextPc]
    · simp [State.writeNextPc, State.rd_wr_ne _ _ h1.symm, State.rd_wr_ne _ _ h2.symm]
  · have hl : (s.seqTouch c).isLead c = s.isLead c := by simp [State.isLead, State.enabled, State.leadOf, State.flag]
    refine ⟨_, congrArg Host.Outcome.next (State.atReg_open _ ho), ?_, fun h => ?_, fun h => ?_⟩
    · cases h : s.isLead c <;> simp [State.writeEvt, hv, hl, h, State.seqIgnored]
    · simp [State.writeEvt, hv, hl, h]
    · simp [State.writeEvt, hv, hl, h, State.seqIgnored]
  · exact ⟨_, congrArg Host.Outcome.next (State.atReg_open _ ho), by simp [State.evqView, hq], by simp [State.popEvq, hq], rfl⟩
  · exact ⟨_, congrArg Host.Outcome.next (State.atReg_open _ ho), by simp [State.evqView, hq], rfl⟩
  · refine ⟨_, congrArg Host.Outcome.next (State.atReg_open _ ho), ?_, fun f hf => ?_⟩
    · simp [State.writePsm, State.merged]
    · simp [State.writePsm, State.rd_wr_ne _ _ hf.symm]
  · refine congrArg Host.Outcome.next ((State.atReg_open _ ho).trans ?_)
    simp [State.writeCaravan, hcid, hen, hsite, hb]
  · obtain ⟨site, void, h⟩ := State.writeCaravan_alone hc hoff hen hshare helse
    have hread (f : Fld) (x : Nat) (hm : (f, x) ∈ loneCaravan c (s.merged (CEL.CARAVAN_CID c) mask v) site void)
        (hx : x < 2 ^ f.width) : (s.writeCaravan c mask v).rd f = x := (h (f, x) hm).trans (Nat.mod_eq_of_lt hx)
    exact ⟨_, congrArg Host.Outcome.next (State.atReg_open _ ho), hread _ 1 (by simp [loneCaravan]) (by simp),
      hread _ c (by simp [loneCaravan]) hc, hread _ 1 (by simp [loneCaravan]) (by simp), hread _ 1 (by simp [loneCaravan]) (by simp),
      hread _ 0 (by simp [loneCaravan, stIdle]) (by simp), hread _ _ (by simp [loneCaravan]) (s.merged_lt ..)⟩
  · refine congrArg Host.Outcome.next ((State.atReg_open _ ho).trans ?_)
    simp [State.writeCaravan, hcid, hb, State.seqIgnored]
  · exact congrArg Host.Outcome.next ((State.atReg_open _ ho).trans (State.writeGang_same hsame hsplit))
  · exact congrArg Host.Outcome.next ((State.atReg_open _ ho).trans (State.writeGang_busy hb))
  · exact congrArg Host.Outcome.next ((State.atReg_open _ ho).trans (State.writeApgOwn_busy hb))
  · refine ⟨_, congrArg Host.Outcome.next ((State.atReg_open _ ho).trans (State.writeApgOwn_idle hr hidle)), ?_, fun k hk => ?_⟩
    · exact State.foldl_same State.mem fun t j _ => State.wrs_mem t _
    · refine s.foldl_ownApg s r mask v k ?_
      by_cases h : s.ApgOwned s r mask v k
      · exact .inr h
      · refine .inl (List.mem_filter.mpr ⟨List.mem_range.mpr hk, ?_⟩)
        rw [Bool.or_eq_true, bne_iff_ne, bne_iff_ne, ← not_and_or]
        exact fun e => h ⟨e.1.symm, e.2.symm⟩

end Sys2Proof.Machine

namespace Sys2Proof.Machine

/-! ## Lists of register writes -/

theorem State.wrs_append (s : State) (k l : List (Fld × Nat)) : s.wrs (k ++ l) = (s.wrs k).wrs l := by
  induction k generalizing s with
  | nil => rfl
  | cons e k ih => exact ih _

/-- Writes of one field per number are a list of writes. -/
theorem State.foldl_wr (s : State) (l : List Nat) (f : Nat → Fld) (v : Nat → Nat) :
    l.foldl (fun t k => t.wr (f k) (v k)) s = s.wrs (l.map fun k => (f k, v k)) := by
  induction l generalizing s with
  | nil => rfl
  | cons k l ih => exact ih _

theorem State.rd_wrAll_ne (s : State) {cs : List Nat} {f : Nat → Fld} {g : Fld} (v : Nat) (h : ∀ c, (f c).key ≠ g.key) :
    (s.wrAll cs f v).rd g = s.rd g :=
  State.foldl_same (fun t => t.rd g) fun t c _ => t.rd_wr_ne v (h c)

/-- A field written in every cell of a list reads as written in each of them. -/
theorem State.rd_wrAll_of_mem (s : State) {cs : List Nat} {f : Nat → Fld} {m : Nat} (v : Nat) (hm : m ∈ cs)
    (hf : ∀ c, (f c).key = (f m).key → c = m) : (s.wrAll cs f v).rd (f m) = v % 2 ^ (f m).width := by
  induction cs generalizing s with
  | nil => exact absurd hm List.not_mem_nil
  | cons c cs ih =>
    by_cases h : m ∈ cs
    · exact ih _ h
    · obtain rfl : m = c := (List.mem_cons.mp hm).resolve_right h
      have hrest : ((s.wr (f m) v).wrAll cs f v).rd (f m) = (s.wr (f m) v).rd (f m) :=
        State.foldl_same (fun t => t.rd (f m)) fun t d hd => t.rd_wr_ne v fun e => h (hf d e ▸ hd)
      exact hrest.trans (s.rd_wr_self ..)

/-! ## Commands of the sequencer (R97, R98) -/

section
variable (s : State) (c : Nat)

@[simp] theorem State.seqTouch_cells : (s.seqTouch c).cells = s.cells := by
  unfold State.seqTouch
  split <;> rfl

@[simp] theorem State.cell_seqTouch (d : Nat) : (s.seqTouch c).cell d = s.cell d := by
  rw [State.cell, State.cell, s.seqTouch_cells]

@[simp] theorem State.flag_seqTouch (f : Fld) : (s.seqTouch c).flag f = s.flag f := by simp [State.flag]

@[simp] theorem State.enabled_seqTouch (d : Nat) : (s.seqTouch c).enabled d = s.enabled d := s.flag_seqTouch ..

@[simp] theorem State.leadOf_seqTouch (d : Nat) : (s.seqTouch c).leadOf d = s.leadOf d := s.rd_seqTouch ..

@[simp] theorem State.isLead_seqTouch (l : Nat) : (s.seqTouch c).isLead l = s.isLead l := by simp [State.isLead]

@[simp] theorem State.members_seqTouch (l : Nat) : (s.seqTouch c).members l = s.members l := by simp [State.members]

@[simp] theorem State.cvState_seqTouch (l : Nat) : (s.seqTouch c).cvState l = s.cvState l := s.rd_seqTouch ..

@[simp] theorem State.streaming_seqTouch (l : Nat) : (s.seqTouch c).streaming l = s.streaming l := s.flag_seqTouch ..

@[simp] theorem State.cellBusy_seqTouch (d : Nat) : (s.seqTouch c).cellBusy d = s.cellBusy d := by simp [State.cellBusy, State.busy]

@[simp] theorem State.descLeft_seqTouch (d n : Nat) : (s.seqTouch c).descLeft d n = s.descLeft d n := by simp [State.descLeft]

@[simp] theorem State.primeBad_seqTouch (d n : Nat) : (s.seqTouch c).primeBad d n = s.primeBad d n := by simp [State.primeBad]

@[simp] theorem State.merged_seqTouch (f : Fld) (mask v : Nat) : (s.seqTouch c).merged f mask v = s.merged f mask v := by
  simp [State.merged]

@[simp] theorem State.windowInHalf_seqTouch (d h : Nat) : (s.seqTouch c).windowInHalf d h = s.windowInHalf d h := by
  simp [State.windowInHalf]
end

/-- What CMD_STATUS shows of an accepted command. -/
def seqDone (c op : Nat) : List (Fld × Nat) :=
  [(SEQ.CMD_STATUS_STATUS c, 0), (SEQ.CMD_STATUS_OP c, op), (SEQ.CMD_STATUS_PEND c, 0)]

theorem State.rd_seqDone_status (s : State) (c op : Nat) : (s.wrs (seqDone c op)).rd (SEQ.CMD_STATUS_STATUS c) = 0 :=
  (s.rd_wrs_of_mem (v := 0) (by simp [seqDone, Fld.key]) (by simp [seqDone])).trans (Nat.zero_mod _)

/-- Only CMD_STATUS shows it. -/
theorem State.rd_seqDone (s : State) {c op : Nat} {f : Fld} (ha : f.addr ≠ cellBase c + 0x1008) (hl : f.lsb < 64) :
    (s.wrs (seqDone c op)).rd f = s.rd f :=
  (onlyRegs_wrs s _).2 f (by simp [seqDone, Fld.key]; omega)

section
variable {s t u : State} {c op desc : Nat} {convoy : Bool} (ho : s.regOpen 0 (SEQ.CMD_OP c).addr = true)
  (hp : s.flag (SEQ.CMD_STATUS_PEND c) = false)
include ho hp

/-- R97, R98: a command that is accepted acts on the run it has marked (R361) and completes. -/
theorem State.seq_accepted (hclk : s.clockPaused (blockOf c) = false) (hs : s.judgeSeq c op desc convoy = (u, 0))
    (ht : (s.seqTouch c).judgeSeq c op desc convoy = (t, 0)) :
    s.atReg 0 (SEQ.CMD_OP c).addr (fun s => s.seqCommand c op desc convoy true) = t.wrs (seqDone c op) := by
  rw [State.atReg_open _ ho]
  simp [State.seqCommand, hp, hclk, State.runSeq, hs, ht, seqDone]

/-- R97: a command that comes while the clock is paused stays pending. -/
theorem State.seq_paused (hclk : s.clockPaused (blockOf c) = true) :
    s.atReg 0 (SEQ.CMD_OP c).addr (fun s => s.seqCommand c op desc convoy true) =
      (s.wr (SEQ.CMD_STATUS_PEND c) 1).modCell c fun x => { x with seqCmd := some ⟨op, desc, convoy, true⟩ } := by
  rw [State.atReg_open _ ho]
  simp [State.seqCommand, hp, hclk]
end

/-! ### VOID (R94) -/

theorem State.judgeSeq_void {s : State} {c : Nat} (hl : s.isLead c = true) (hi : s.cvState c ≠ stIdle) :
    s.judgeSeq c 6 0 false = (s.voidRun c 7 0, 0) := by
  simp [State.judgeSeq, hl, hi]

/-- R94: the first void event of a run other than CVC VOID. -/
theorem State.voidRun_first {s : State} {l cause reason : Nat} (hv : s.flag (SEQ.VOID_VOID l) = false) (hc : cause ≠ 1) :
    s.voidRun l cause reason = ((s.count (SEQ.VOID_COUNT l) 1).wrs [(SEQ.VOID_VOID l, 1), (SEQ.VOID_FIRST l, cause)]).wrAll
      (s.members l) SEQ.STATUS_VOID 1 := by
  simp [State.voidRun, hv, hc]

/-- R94: what a void run shows. -/
theorem State.rd_voidRun_first {s : State} {l cause reason : Nat} (hv : s.flag (SEQ.VOID_VOID l) = false) (hc : cause ≠ 1) :
    (s.voidRun l cause reason).rd (SEQ.VOID_VOID l) = 1 ∧ (s.voidRun l cause reason).rd (SEQ.VOID_FIRST l) = cause % 2 ^ 4 ∧
      ∀ m ∈ s.members l, (s.voidRun l cause reason).rd (SEQ.STATUS_VOID m) = 1 := by
  have hn : (([(SEQ.VOID_VOID l, 1), (SEQ.VOID_FIRST l, cause)] : List (Fld × Nat)).map fun e => e.1.key).Nodup := by
    simp [Fld.key]
  rw [State.voidRun_first hv hc]
  refine ⟨?_, ?_, fun m hm => ?_⟩
  · rw [State.rd_wrAll_ne _ _ fun c => by simp only [Fld.key]; omega, State.rd_wrs_of_mem _ hn (v := 1) (by simp)]; rfl
  · rw [State.rd_wrAll_ne _ _ fun c => by simp only [Fld.key]; omega, State.rd_wrs_of_mem _ hn (v := cause) (by simp)]
  · rw [State.rd_wrAll_of_mem _ _ hm fun c => by simp only [Fld.key, cellBase]; omega]; rfl

/-! ### The ring and the stream DMA (R82) -/

/-- What says which descriptor the stream DMA of cell `c` is on. -/
def dmaWrites (c : Nat) (active : Nat → Nat) (on desc : Nat) : List (Fld × Nat) :=
  (List.range 4).map (fun k => (SEQ.SD_CTRL_ACTIVE c k, active k)) ++ [(SEQ.RING_STATUS_DMA_ACTIVE c, on), (SEQ.RING_STATUS_DMA_DESC c, desc)]

/-- What a FLUSH of cell `c` writes, the read index becoming `rd`. -/
def flushWrites (c rd : Nat) : List (Fld × Nat) :=
  dmaWrites c (fun _ => 0) 0 0 ++ (List.range 4).map (fun k => (SEQ.SD_CTRL_ARMED c k, 0)) ++
    [(SEQ.RING_STATUS_LEVEL c, 0), (SEQ.RING_STATUS_RD c, rd)]

theorem State.setActive_eq (s : State) (c n : Nat) : s.setActive c n =
    (s.wrs (dmaWrites c (fun k => b2n (k == n)) 1 n)).modCell c fun x => { x with sdSpent := setBit x.sdSpent n } := by
  rw [State.setActive, State.foldl_wr, dmaWrites, State.wrs_append]

theorem State.stopDma_eq (s : State) (c : Nat) : s.stopDma c = s.wrs (dmaWrites c (fun _ => 0) 0 0) := by
  rw [State.stopDma, State.foldl_wr s _ (SEQ.SD_CTRL_ACTIVE c) fun _ => 0, dmaWrites, State.wrs_append]

theorem State.flushRing_eq (s : State) (c : Nat) : s.flushRing c = (s.wrs (flushWrites c (s.rd (SEQ.RING_STATUS_WR c)))).modCell c fun x =>
    { x with ringDesc := [], sdRead := [], sdUsed := [], sdSpent := 0 } := by
  rw [State.flushRing, State.foldl_wr _ _ (SEQ.SD_CTRL_ARMED c) fun _ => 0, State.stopDma_eq, flushWrites, State.wrs_append, State.wrs_append]

theorem nodup_flushWrites (c rd : Nat) : ((flushWrites c rd).map fun e => e.1.key).Nodup := by
  simp [flushWrites, dmaWrites, List.range, List.range.loop, Fld.key]
  omega

theorem nodup_dmaWrites (c : Nat) (active : Nat → Nat) (on desc : Nat) : ((dmaWrites c active on desc).map fun e => e.1.key).Nodup := by
  simp [dmaWrites, List.range, List.range.loop, Fld.key]
  omega

/-- The keys of the registers in which the stream DMA of cell `c` shows. -/
def dmaKeys (c : Nat) : List Nat :=
  (List.range 4).map (fun k => (SEQ.SD_CTRL_ACTIVE c k).key) ++ [(SEQ.RING_STATUS_DMA_ACTIVE c).key, (SEQ.RING_STATUS_DMA_DESC c).key]

theorem dmaWrites_keys (c : Nat) (active : Nat → Nat) (on desc : Nat) : (dmaWrites c active on desc).map (fun e => e.1.key) = dmaKeys c := rfl

section
variable {f : Fld} {c : Nat} (h : f.key ∉ dmaKeys c) (s : State)
include h

theorem State.rd_setActive (n : Nat) : (s.setActive c n).rd f = s.rd f := by
  rw [State.setActive_eq, State.rd_modCell, (onlyRegs_wrs s _).2 f (dmaWrites_keys .. ▸ h)]

theorem State.rd_stopDma : (s.stopDma c).rd f = s.rd f := by
  rw [State.stopDma_eq, (onlyRegs_wrs s _).2 f (dmaWrites_keys .. ▸ h)]

theorem State.rd_chainDma (k : Nat) : (s.chainDma c k).rd f = s.rd f := by
  induction k generalizing s with
  | zero => rfl
  | succ k ih =>
    simp only [State.chainDma]
    repeat' split
    · rfl
    · rfl
    · rw [ih, s.rd_setActive h]
    · exact s.rd_stopDma h
end

@[simp] theorem State.setActive_mem (s : State) (c n : Nat) : (s.setActive c n).mem = s.mem := by
  rw [State.setActive_eq, State.modCell_mem, State.wrs_mem]

@[simp] theorem State.stopDma_mem (s : State) (c : Nat) : (s.stopDma c).mem = s.mem := by
  rw [State.stopDma_eq, State.wrs_mem]

@[simp] theorem State.flushRing_mem (s : State) (c : Nat) : (s.flushRing c).mem = s.mem := by
  rw [State.flushRing_eq, State.modCell_mem, State.wrs_mem]

@[simp] theorem State.chainDma_mem (s : State) (c k : Nat) : (s.chainDma c k).mem = s.mem := by
  induction k generalizing s with
  | zero => rfl
  | succ k ih =>
    simp only [State.chainDma]
    repeat' split
    all_goals simp [ih]

/-- R82: PRIME of a descriptor with words left makes it the one that the stream DMA is on. -/
theorem State.primeRing_eq {s : State} {c d : Nat} (hd : d < 4) (hl : s.descLeft c d ≠ 0) : s.primeRing c d = s.setActive c d := by
  have hdesc : (s.setActive c d).rd (SEQ.RING_STATUS_DMA_DESC c) = d := by
    rw [State.setActive_eq, State.rd_modCell, s.rd_wrs_of_mem (v := d) (nodup_dmaWrites ..) (by simp [dmaWrites])]
    exact Nat.mod_eq_of_lt hd
  have hleft : (s.setActive c d).descLeft c d = s.descLeft c d := by
    have hlen : (s.setActive c d).rd (SEQ.SD_LEN_LEN c d) = s.rd (SEQ.SD_LEN_LEN c d) :=
      s.rd_setActive (by simp [dmaKeys, List.range, List.range.loop, Fld.key]; omega) d
    have hread : ((s.setActive c d).cell c).sdRead = (s.cell c).sdRead := by
      rw [State.setActive_eq, State.cell_modCell_self, State.cell, (onlyRegs_wrs s _).1]; rfl
    rw [State.descLeft, State.descLeft, hlen, hread]
  simp [State.primeRing, State.chainDma, hdesc, hleft, hl]

/-- R82: what PRIME shows. -/
theorem State.rd_setActive_dma (s : State) {c d : Nat} (hd : d < 4) : (s.setActive c d).rd (SEQ.SD_CTRL_ACTIVE c d) = 1 ∧
    (s.setActive c d).rd (SEQ.RING_STATUS_DMA_ACTIVE c) = 1 ∧ (s.setActive c d).rd (SEQ.RING_STATUS_DMA_DESC c) = d := by
  have hread (f : Fld) (v : Nat) (hm : (f, v) ∈ dmaWrites c (fun k => b2n (k == d)) 1 d) : (s.setActive c d).rd f = v % 2 ^ f.width := by
    rw [State.setActive_eq, State.rd_modCell, s.rd_wrs_of_mem (nodup_dmaWrites ..) hm]
  exact ⟨hread _ 1 (by simp [dmaWrites, hd, b2n]), hread _ 1 (by simp [dmaWrites]),
    (hread _ d (by simp [dmaWrites])).trans (Nat.mod_eq_of_lt hd)⟩

/-- R82: what FLUSH shows. -/
theorem State.rd_flushRing (s : State) (c : Nat) : (s.flushRing c).rd (SEQ.RING_STATUS_LEVEL c) = 0 ∧
    (s.flushRing c).rd (SEQ.RING_STATUS_DMA_ACTIVE c) = 0 ∧ ∀ n, n < 4 → (s.flushRing c).rd (SEQ.SD_CTRL_ARMED c n) = 0 := by
  have hread (f : Fld) (hm : (f, 0) ∈ flushWrites c (s.rd (SEQ.RING_STATUS_WR c))) : (s.flushRing c).rd f = 0 := by
    rw [State.flushRing_eq, State.rd_modCell, s.rd_wrs_of_mem (nodup_flushWrites ..) hm, Nat.zero_mod]
  exact ⟨hread _ (by simp [flushWrites]), hread _ (by simp [flushWrites, dmaWrites]),
    fun n hn => hread _ (by simp [flushWrites, hn])⟩

/-- R82, R98: PRIME is accepted of an armed descriptor where no other one is active with words left. -/
theorem State.judgeSeq_prime {s : State} {c d : Nat} (ha : s.flag (SEQ.SD_CTRL_ARMED c d) = true)
    (h : s.flag (SEQ.RING_STATUS_DMA_ACTIVE c) = false ∨ s.rd (SEQ.RING_STATUS_DMA_DESC c) = d ∨
      s.descLeft c (s.rd (SEQ.RING_STATUS_DMA_DESC c)) = 0) : s.judgeSeq c 7 d false = (s.primeRing c d, 0) := by
  have hbad : s.primeBad c d = false := by
    obtain h | h | h := h <;> simp [State.primeBad, ha, h]
  simp [State.judgeSeq, hbad]

/-- R82, R98: FLUSH is accepted where the caravan does not stream. -/
theorem State.judgeSeq_flush {s : State} {c : Nat} (h : s.enabled c = false ∨ s.flag (SEQ.STATUS_STREAMING (s.leadOf c)) = false) :
    s.judgeSeq c 8 0 false = (s.flushRing c, 0) := by
  have hno : (s.enabled c && s.streaming (s.leadOf c)) = false := by
    obtain h | h := h <;> simp [State.streaming, h]
  simp [State.judgeSeq, hno]

/-! ### SDn_CTRL and RING -/

/-- R82: an accepted ARM. -/
theorem State.armDesc_eq {s : State} {c n : Nat} (hlen : s.rd (SEQ.SD_LEN_LEN c n) ≠ 0) (hen : s.flag (SEQ.RING_EN c) = true)
    (ha : s.flag (SEQ.SD_CTRL_ARMED c n) = false) : s.armDesc c n = (s.wr (SEQ.SD_CTRL_ARMED c n) 1).modCell c fun x =>
      { x with
        sdSpent := clearBit x.sdSpent n
        sdRead := (List.range 4).map fun k => if k = n then 0 else x.sdRead.getD k 0
        sdUsed := (List.range 4).map fun k => if k = n then 0 else x.sdUsed.getD k 0 } := by
  simp [State.armDesc, hlen, hen, ha]

theorem State.armDesc_ignored {s : State} {c n : Nat} (h : s.rd (SEQ.SD_LEN_LEN c n) = 0 ∨ s.flag (SEQ.RING_EN c) = false) :
    s.armDesc c n = s.seqIgnored c := if_pos h

section
variable (s : State) (c mask v : Nat)

/-- A write of RING changes EN or HALF. -/
def State.ringMoves : Bool :=
  s.merged (SEQ.RING_EN c) mask v != s.rd (SEQ.RING_EN c) || s.merged (SEQ.RING_HALF c) mask v != s.rd (SEQ.RING_HALF c)

/-- R360: a write of RING enables the ring in a half that a valid execute-only window reaches into. -/
def State.ringMeetsWindow : Bool :=
  s.merged (SEQ.RING_EN c) mask v == 1 && s.windowInHalf c (s.merged (SEQ.RING_HALF c) mask v)

/-- The two levels as a write of RING leaves them. -/
def State.ringLevels : List (Fld × Nat) :=
  [(SEQ.RING_WARN_LEVEL c, s.merged (SEQ.RING_WARN_LEVEL c) mask v), (SEQ.RING_PAUSE_LEVEL c, s.merged (SEQ.RING_PAUSE_LEVEL c) mask v)]

/-- EN and HALF as an accepted write of RING leaves them. -/
def State.ringPlace : List (Fld × Nat) :=
  [(SEQ.RING_EN c, s.merged (SEQ.RING_EN c) mask v), (SEQ.RING_HALF c, s.merged (SEQ.RING_HALF c) mask v)]
end

/-- R81, R102, R360: the four cases of a write of RING. -/
theorem State.writeRing_eq (s : State) (c mask v : Nat) : s.writeRing c mask v =
    if s.ringMoves c mask v && s.ringMeetsWindow c mask v then s.seqIgnored c
    else if !s.ringMoves c mask v then s.wrs (s.ringLevels c mask v)
    else if s.cellBusy c then (s.wrs (s.ringLevels c mask v)).seqIgnored c
    else ((s.wrs (s.ringLevels c mask v)).flushRing c).wrs (s.ringPlace c mask v) := by
  simp only [State.ringMoves, State.ringMeetsWindow, ← Bool.and_assoc]
  rfl

section
variable {s : State} {c mask v : Nat}

theorem State.writeRing_kept (hm : s.ringMoves c mask v = false) : s.writeRing c mask v = s.wrs (s.ringLevels c mask v) := by
  rw [State.writeRing_eq, hm]; rfl

theorem State.writeRing_window (hm : s.ringMoves c mask v = true) (hw : s.ringMeetsWindow c mask v = true) :
    s.writeRing c mask v = s.seqIgnored c := by
  rw [State.writeRing_eq, hm, hw]; rfl

theorem State.writeRing_busy (hm : s.ringMoves c mask v = true) (hw : s.ringMeetsWindow c mask v = false) (hb : s.cellBusy c = true) :
    s.writeRing c mask v = (s.wrs (s.ringLevels c mask v)).seqIgnored c := by
  rw [State.writeRing_eq, hm, hw, hb]; rfl

theorem State.writeRing_moved (hm : s.ringMoves c mask v = true) (hw : s.ringMeetsWindow c mask v = false) (hb : s.cellBusy c = false) :
    s.writeRing c mask v = ((s.wrs (s.ringLevels c mask v)).flushRing c).wrs (s.ringPlace c mask v) := by
  rw [State.writeRing_eq, hm, hw, hb]; rfl

theorem State.ringMoves_eq_false_iff : s.ringMoves c mask v = false ↔
    s.merged (SEQ.RING_EN c) mask v = s.rd (SEQ.RING_EN c) ∧ s.merged (SEQ.RING_HALF c) mask v = s.rd (SEQ.RING_HALF c) := by
  simp [State.ringMoves]

theorem State.ringMoves_eq_true_iff : s.ringMoves c mask v = true ↔
    s.merged (SEQ.RING_EN c) mask v ≠ s.rd (SEQ.RING_EN c) ∨ s.merged (SEQ.RING_HALF c) mask v ≠ s.rd (SEQ.RING_HALF c) := by
  simp [State.ringMoves]

/-- R360: no valid execute-only window reaches into the half, or the ring is off. -/
theorem State.ringMeetsWindow_eq_false (h : s.merged (SEQ.RING_EN c) mask v = 0 ∨ ∀ n, n < 4 → s.flag (CEL.XOW_VALID c n) = true →
      s.merged (SEQ.RING_HALF c) mask v < s.rd (CEL.XOW_BASE c n) / 4096 ∨ s.rd (CEL.XOW_LIMIT c n) / 4096 < s.merged (SEQ.RING_HALF c) mask v) :
    s.ringMeetsWindow c mask v = false := by
  obtain h | h := h
  · simp [State.ringMeetsWindow, h]
  · have hno : s.windowInHalf c (s.merged (SEQ.RING_HALF c) mask v) = false := by
      refine List.any_eq_false.mpr fun n hn hw => ?_
      simp only [Bool.and_eq_true, decide_eq_true_eq] at hw
      obtain ⟨⟨hv, hbase⟩, hlimit⟩ := hw
      have := h n (List.mem_range.mp hn) hv
      omega
    simp [State.ringMeetsWindow, hno]

/-- The levels after a write of RING that is not ignored. -/
theorem State.rd_ringLevels (t : State) : (t.wrs (s.ringLevels c mask v)).rd (SEQ.RING_WARN_LEVEL c) = s.merged (SEQ.RING_WARN_LEVEL c) mask v ∧
    (t.wrs (s.ringLevels c mask v)).rd (SEQ.RING_PAUSE_LEVEL c) = s.merged (SEQ.RING_PAUSE_LEVEL c) mask v := by
  have hn : ((s.ringLevels c mask v).map fun e => e.1.key).Nodup := by simp [State.ringLevels, Fld.key]
  exact ⟨(t.rd_wrs_of_mem hn (by simp [State.ringLevels])).trans (Nat.mod_eq_of_lt (s.merged_lt ..)),
    (t.rd_wrs_of_mem hn (by simp [State.ringLevels])).trans (Nat.mod_eq_of_lt (s.merged_lt ..))⟩

/-- EN and HALF after a write of RING that moves the ring. -/
theorem State.rd_ringPlace (t : State) : (t.wrs (s.ringPlace c mask v)).rd (SEQ.RING_EN c) = s.merged (SEQ.RING_EN c) mask v ∧
    (t.wrs (s.ringPlace c mask v)).rd (SEQ.RING_HALF c) = s.merged (SEQ.RING_HALF c) mask v := by
  have hn : ((s.ringPlace c mask v).map fun e => e.1.key).Nodup := by simp [State.ringPlace, Fld.key]
  exact ⟨(t.rd_wrs_of_mem hn (by simp [State.ringPlace])).trans (Nat.mod_eq_of_lt (s.merged_lt ..)),
    (t.rd_wrs_of_mem hn (by simp [State.ringPlace])).trans (Nat.mod_eq_of_lt (s.merged_lt ..))⟩

theorem State.rd_ringLevels_ne (t : State) {f : Fld} (h : f.key ∉ [(SEQ.RING_WARN_LEVEL c).key, (SEQ.RING_PAUSE_LEVEL c).key]) :
    (t.wrs (s.ringLevels c mask v)).rd f = t.rd f := (onlyRegs_wrs t _).2 f h

theorem State.rd_ringPlace_ne (t : State) {f : Fld} (h : f.key ∉ [(SEQ.RING_EN c).key, (SEQ.RING_HALF c).key]) :
    (t.wrs (s.ringPlace c mask v)).rd f = t.rd f := (onlyRegs_wrs t _).2 f h
end

@[simp] theorem State.writeRing_mem (s : State) (c mask v : Nat) : (s.writeRing c mask v).mem = s.mem := by
  cases hm : s.ringMoves c mask v
  · rw [State.writeRing_kept hm, State.wrs_mem]
  · cases hw : s.ringMeetsWindow c mask v
    · cases hb : s.cellBusy c
      · rw [State.writeRing_moved hm hw hb, State.wrs_mem, State.flushRing_mem, State.wrs_mem]
      · rw [State.writeRing_busy hm hw hb, State.seqIgnored, State.wr_mem, State.wrs_mem]
    · rw [State.writeRing_window hm hw, State.seqIgnored, State.wr_mem]

/-! ### STREAM_DMA_REFILL (R83) -/

/-- The slot of the ring of cell `c`, `i` words from where its next word enters. -/
def State.ringSlot (s : State) (c i : Nat) : Nat := padBase c + 16 * s.ringAddr c (s.rd (SEQ.RING_STATUS_WR c) + i)

/-- The state after the first word has entered the ring. -/
def State.ringPut (s : State) (c v : Nat) : State :=
  (s.writeWord (padBase c + 16 * s.ringAddr c (s.rd (SEQ.RING_STATUS_WR c))) v).wrs
    [(SEQ.RING_STATUS_WR c, (s.rd (SEQ.RING_STATUS_WR c) + 1) % 4096), (SEQ.RING_STATUS_LEVEL c, s.ringLevel c + 1)]

theorem State.ringWrite_cons (s : State) (c v : Nat) (l : List Nat) : s.ringWrite c (v :: l) = (s.ringPut c v).ringWrite c l := by
  delta State.ringWrite
  rfl

section
variable (s : State) (c v : Nat)

theorem State.ringLevel_ringPut : (s.ringPut c v).ringLevel c = (s.ringLevel c + 1) % 2 ^ 13 :=
  State.rd_wrs_of_mem _ (v := s.ringLevel c + 1) (by simp [Fld.key]) (by simp)

theorem State.rd_writeWord (a : Nat) (f : Fld) : (s.writeWord a v).rd f = s.rd f := by
  suffices h : ∀ (l : List Nat) (t : State) (b : Nat), (t.writeBytes b l).regs = t.regs by
    simp only [State.rd, State.writeWord, h]
  intro l
  induction l with
  | nil => exact fun _ _ => rfl
  | cons e l ih => exact fun t b => ih _ _

/-- The next word enters one slot on. -/
theorem State.ringSlot_ringPut (i : Nat) : (s.ringPut c v).ringSlot c i = s.ringSlot c (i + 1) := by
  have hwr : (s.ringPut c v).rd (SEQ.RING_STATUS_WR c) = (s.rd (SEQ.RING_STATUS_WR c) + 1) % 4096 := by
    rw [State.ringPut, State.rd_wrs_of_mem _ (v := (s.rd (SEQ.RING_STATUS_WR c) + 1) % 4096) (by simp [Fld.key]) (by simp)]
    exact Nat.mod_mod _ _
  have hhalf : (s.ringPut c v).rd (SEQ.RING_HALF c) = s.rd (SEQ.RING_HALF c) := by
    rw [State.ringPut, (onlyRegs_wrs _ _).2 _ (by simp [Fld.key]; omega), State.rd_writeWord]
  rw [State.ringSlot, State.ringSlot, State.ringAddr, State.ringAddr, hwr, hhalf]
  omega

theorem State.readWord_ringPut (a : Nat) : (s.ringPut c v).readWord a = (s.writeWord (s.ringSlot c 0) v).readWord a := by
  rw [State.readWord, State.readWord, readBytes_mem (u := s.ringPut c v) (State.wrs_mem ..)]
  rfl

/-- A word that enters the ring leaves every other slot alone. -/
theorem State.readWord_ringPut_ne {a : Nat} (h : a + 9 ≤ s.ringSlot c 0 ∨ s.ringSlot c 0 + 9 ≤ a) :
    (s.ringPut c v).readWord a = s.readWord a := by
  rw [State.readWord_ringPut, readWord_apart _ _ _ _ h]

theorem State.readWord_ringPut_self : (s.ringPut c v).readWord (s.ringSlot c 0) = v % 2 ^ 72 := by
  rw [State.readWord_ringPut, State.readWord_writeWord_self]

/-- Slots less than a ring apart are apart. -/
theorem State.ringSlot_apart {i j : Nat} (hij : i < j) (hj : j < i + 4096) :
    s.ringSlot c i + 16 ≤ s.ringSlot c j ∨ s.ringSlot c j + 16 ≤ s.ringSlot c i := by
  simp only [State.ringSlot, State.ringAddr]
  omega
end

/-- R83: the level counts the words that enter. -/
theorem State.ringLevel_ringWrite (s : State) (c : Nat) (l : List Nat) :
    (s.ringWrite c l).ringLevel c = (s.ringLevel c + l.length) % 2 ^ 13 := by
  induction l generalizing s with
  | nil => exact (Nat.mod_eq_of_lt (s.rd_lt (SEQ.RING_STATUS_LEVEL c))).symm
  | cons v l ih =>
    rw [State.ringWrite_cons, ih, State.ringLevel_ringPut, List.length_cons]
    omega

/-- Words that enter the ring leave the other slots alone. -/
theorem State.readWord_ringWrite_ne (s : State) (c : Nat) (l : List Nat) {a : Nat}
    (h : ∀ i, i < l.length → a + 9 ≤ s.ringSlot c i ∨ s.ringSlot c i + 9 ≤ a) : (s.ringWrite c l).readWord a = s.readWord a := by
  induction l generalizing s with
  | nil => rfl
  | cons v l ih =>
    rw [State.ringWrite_cons, ih, State.readWord_ringPut_ne _ _ _ (h 0 (by simp))]
    intro i hi
    rw [State.ringSlot_ringPut]
    exact h (i + 1) (by simpa using hi)

/-- R83: the words that enter stand in the slots from the write index on. -/
theorem State.readWord_ringWrite (s : State) (c : Nat) (l : List Nat) (hl : l.length ≤ 4096) {i : Nat} (hi : i < l.length) :
    (s.ringWrite c l).readWord (s.ringSlot c i) = l.getD i 0 % 2 ^ 72 := by
  induction l generalizing s i with
  | nil => exact absurd hi (Nat.not_lt_zero i)
  | cons v l ih =>
    rw [List.length_cons] at hl hi
    rw [State.ringWrite_cons]
    cases i with
    | zero =>
      rw [State.readWord_ringWrite_ne, State.readWord_ringPut_self, List.getD_cons_zero]
      intro j hj
      rw [State.ringSlot_ringPut]
      have := s.ringSlot_apart c (i := 0) (j := j + 1) (by omega) (by omega)
      omega
    | succ i =>
      rw [← State.ringSlot_ringPut, ih _ (by omega) (by omega), List.getD_cons_succ]

/-- R83: a refill whose reads bring words, none of them failing. -/
theorem State.refill_words {s : State} {c n up dev lat : Nat} {r : Refilled} (hf : s.frozen = false)
    (ha : s.flag (SEQ.RING_STATUS_DMA_ACTIVE c) = true) (hl : s.descLeft c (s.rd (SEQ.RING_STATUS_DMA_DESC c)) ≠ 0)
    (hroom : s.ringLevel c ≤ 4032)
    (hr : r = s.refillRead c up dev lat (upTo (min n 64) (groupsOf 16 73 (16 * (s.rd (SEQ.SD_ADDR_ADDR c
      (s.rd (SEQ.RING_STATUS_DMA_DESC c))) + (s.cell c).sdRead.getD (s.rd (SEQ.RING_STATUS_DMA_DESC c)) 0))
      (min (s.descLeft c (s.rd (SEQ.RING_STATUS_DMA_DESC c))) 72)))) (hbad : r.bad = false) (hw : r.words ≠ []) :
    (s.refill c n up dev lat).mem = (r.s.ringWrite c r.words).mem ∧
      (s.refill c n up dev lat).ringLevel c = (r.s.ringWrite c r.words).ringLevel c := by
  have heq : s.refill c n up dev lat =
      let u := (r.s.ringWrite c r.words).ringTook c (s.rd (SEQ.RING_STATUS_DMA_DESC c)) r.words.length
      if r.waits then u else u.chainDma c 4 := by
    have hroom' : ¬ 4032 < s.ringLevel c := Nat.not_lt.mpr hroom
    simp only [State.refill, hf, ha, hroom', ← hr, hbad]
    simp [hl, hw]
  have hlevel : (SEQ.RING_STATUS_LEVEL c).key ∉ dmaKeys c := by simp [dmaKeys, List.range, List.range.loop, Fld.key]; omega
  rw [heq]
  cases r.waits
  · exact ⟨State.chainDma_mem .., State.rd_chainDma hlevel _ _⟩
  · exact ⟨rfl, rfl⟩

/-! ### What a write of RING shows (R81, R102, R360) -/

theorem State.rd_flushRing_ne (s : State) {c : Nat} {f : Fld} (h : f.key ∉ (flushWrites c 0).map fun e => e.1.key) :
    (s.flushRing c).rd f = s.rd f := by
  rw [State.flushRing_eq, State.rd_modCell]
  exact (onlyRegs_wrs s (flushWrites c (s.rd (SEQ.RING_STATUS_WR c)))).2 f h

section
variable {s : State} {c mask v : Nat}

@[simp] theorem State.ringMoves_seqTouch : (s.seqTouch c).ringMoves c mask v = s.ringMoves c mask v := by simp [State.ringMoves]

@[simp] theorem State.ringMeetsWindow_seqTouch : (s.seqTouch c).ringMeetsWindow c mask v = s.ringMeetsWindow c mask v := by
  simp [State.ringMeetsWindow]

/-- The levels are written unless the write is refused by an execute-only window. -/
theorem State.rd_writeRing_levels (h : s.ringMoves c mask v = false ∨ s.ringMeetsWindow c mask v = false) :
    (s.writeRing c mask v).rd (SEQ.RING_WARN_LEVEL c) = s.merged (SEQ.RING_WARN_LEVEL c) mask v ∧
      (s.writeRing c mask v).rd (SEQ.RING_PAUSE_LEVEL c) = s.merged (SEQ.RING_PAUSE_LEVEL c) mask v := by
  suffices hkeep : ∀ f ∈ [SEQ.RING_WARN_LEVEL c, SEQ.RING_PAUSE_LEVEL c], (s.writeRing c mask v).rd f = (s.wrs (s.ringLevels c mask v)).rd f by
    rw [hkeep _ (by simp), hkeep _ (by simp)]
    exact s.rd_ringLevels s
  intro f hf
  have hkey : f.key ≠ (SEQ.STATUS_WR_IGN c).key ∧ f.key ∉ [(SEQ.RING_EN c).key, (SEQ.RING_HALF c).key] ∧
      f.key ∉ (flushWrites c 0).map fun e => e.1.key := by
    obtain rfl | rfl : f = SEQ.RING_WARN_LEVEL c ∨ f = SEQ.RING_PAUSE_LEVEL c := by simpa using hf
    all_goals
      simp [flushWrites, dmaWrites, List.range, List.range.loop, Fld.key]
      omega
  obtain ⟨hign, hplace, hflush⟩ := hkey
  cases hm : s.ringMoves c mask v
  · rw [State.writeRing_kept hm]
  · have hw := h.resolve_left (by simp [hm])
    cases hb : s.cellBusy c
    · rw [State.writeRing_moved hm hw hb, State.rd_ringPlace_ne _ hplace, State.rd_flushRing_ne _ hflush]
    · rw [State.writeRing_busy hm hw hb, State.seqIgnored, State.rd_wr_ne _ _ hign.symm]

/-- A write of the levels leaves the place and the level of the ring. -/
theorem State.rd_ringLevels_place (t : State) {f : Fld} (hf : f ∈ [SEQ.RING_EN c, SEQ.RING_HALF c, SEQ.RING_STATUS_LEVEL c]) :
    (t.wrs (s.ringLevels c mask v)).rd f = t.rd f := by
  refine State.rd_ringLevels_ne t ?_
  obtain rfl | rfl | rfl : f = SEQ.RING_EN c ∨ f = SEQ.RING_HALF c ∨ f = SEQ.RING_STATUS_LEVEL c := by simpa using hf
  · simp [Fld.key]
  · simp [Fld.key]
  · simp [Fld.key]
    omega

theorem State.rd_writeRing_kept (hm : s.ringMoves c mask v = false) :
    (s.writeRing c mask v).rd (SEQ.RING_STATUS_LEVEL c) = s.rd (SEQ.RING_STATUS_LEVEL c) := by
  rw [State.writeRing_kept hm, State.rd_ringLevels_place _ (by simp)]

/-- A cell whose caravan is not busy takes the new place; a ring that moves is flushed. -/
theorem State.rd_writeRing_idle (hw : s.ringMeetsWindow c mask v = false) (hb : s.cellBusy c = false) :
    (s.writeRing c mask v).rd (SEQ.RING_EN c) = s.merged (SEQ.RING_EN c) mask v ∧
      (s.writeRing c mask v).rd (SEQ.RING_HALF c) = s.merged (SEQ.RING_HALF c) mask v ∧
      (s.ringMoves c mask v = true → (s.writeRing c mask v).rd (SEQ.RING_STATUS_LEVEL c) = 0) := by
  cases hm : s.ringMoves c mask v
  · obtain ⟨hen, hhalf⟩ := State.ringMoves_eq_false_iff.mp hm
    rw [State.writeRing_kept hm, State.rd_ringLevels_place _ (by simp), State.rd_ringLevels_place _ (by simp)]
    exact ⟨hen.symm, hhalf.symm, fun h => absurd h (by simp)⟩
  · obtain ⟨hen, hhalf⟩ := s.rd_ringPlace (c := c) (mask := mask) (v := v) ((s.wrs (s.ringLevels c mask v)).flushRing c)
    rw [State.writeRing_moved hm hw hb]
    refine ⟨hen, hhalf, fun _ => ?_⟩
    rw [State.rd_ringPlace_ne _ (by simp [Fld.key]; omega)]
    exact (State.rd_flushRing _ c).1

/-- A busy cell keeps EN and HALF. -/
theorem State.rd_writeRing_busy (hb : s.cellBusy c = true) :
    (s.writeRing c mask v).rd (SEQ.RING_EN c) = s.rd (SEQ.RING_EN c) ∧ (s.writeRing c mask v).rd (SEQ.RING_HALF c) = s.rd (SEQ.RING_HALF c) ∧
      (s.ringMoves c mask v = true → (s.writeRing c mask v).rd (SEQ.STATUS_WR_IGN c) = 1) := by
  have hign (t : State) {f : Fld} (hf : f ∈ [SEQ.RING_EN c, SEQ.RING_HALF c]) : (t.seqIgnored c).rd f = t.rd f := by
    refine t.rd_wr_ne 1 ?_
    obtain rfl | rfl : f = SEQ.RING_EN c ∨ f = SEQ.RING_HALF c := by simpa using hf
    all_goals
      simp only [Fld.key]
      omega
  have hset (t : State) : (t.seqIgnored c).rd (SEQ.STATUS_WR_IGN c) = 1 := t.rd_wr_self ..
  cases hm : s.ringMoves c mask v
  · rw [State.writeRing_kept hm, State.rd_ringLevels_place _ (by simp), State.rd_ringLevels_place _ (by simp)]
    exact ⟨rfl, rfl, fun h => absurd h (by simp)⟩
  · cases hw : s.ringMeetsWindow c mask v
    · rw [State.writeRing_busy hm hw hb, hign _ (by simp), hign _ (by simp), State.rd_ringLevels_place _ (by simp),
        State.rd_ringLevels_place _ (by simp)]
      exact ⟨rfl, rfl, fun _ => hset _⟩
    · rw [State.writeRing_window hm hw, hign _ (by simp), hign _ (by simp)]
      exact ⟨rfl, rfl, fun _ => hset _⟩
end

/-- Settles O18: the commands by their judgement (R98), RING by its four cases, a refill word by word. -/
theorem sequencerMarksAndRings : Obligations.SequencerMarksAndRings := by
  unfold Obligations.SequencerMarksAndRings
  refine ⟨fun s c _ ho hp hclk hl hi hv => ?_, fun s c d _ hd ho hp hclk ha hleft hother => ?_, fun s c _ ho hp hclk hs => ?_,
    fun s c _ ho hp hclk e he => ?_, fun s c n _ hn ho => ⟨fun hlen hen ha => ?_, fun h => ?_⟩, fun s c mask v _ ho => ?_,
    fun s c n up dev lat _ hf ha => ?_, fun s c n up dev lat hf => ?_⟩
  · obtain ⟨hvoid, hfirst, hmembers⟩ := State.rd_voidRun_first (s := s.seqTouch c) (cause := 7) (reason := 0) (by simpa using hv) (by decide)
    refine ⟨_, congrArg Host.Outcome.next (State.seq_accepted ho hp hclk (State.judgeSeq_void hl hi)
      (State.judgeSeq_void (by simpa using hl) (by simpa using hi))), State.rd_seqDone_status .., ?_, ?_, by simp, fun m hm => ?_⟩
    · rw [State.rd_seqDone _ (by simp only [cellBase]; omega) (by simp), hvoid]
    · rw [State.rd_seqDone _ (by simp only [cellBase]; omega) (by simp), hfirst]; rfl
    · rw [State.rd_seqDone _ (by simp only [cellBase]; omega) (by simp), hmembers m (by simpa using hm)]
  · obtain ⟨hactive, hon, hdesc⟩ := (s.seqTouch c).rd_setActive_dma (c := c) hd
    rw [← State.primeRing_eq (s := s.seqTouch c) hd (by simpa using hleft)] at hactive hon hdesc
    refine ⟨_, congrArg Host.Outcome.next (State.seq_accepted ho hp hclk (State.judgeSeq_prime ha hother)
      (State.judgeSeq_prime (by simpa using ha) (by simpa using hother))), State.rd_seqDone_status .., ?_, ?_, ?_, by simp [State.primeRing]⟩
    · rw [State.rd_seqDone _ (by simp only [cellBase]; omega) (by simp), hactive]
    · rw [State.rd_seqDone _ (by simp only [cellBase]; omega) (by simp), hon]
    · rw [State.rd_seqDone _ (by simp only [cellBase]; omega) (by simp), hdesc]
  · obtain ⟨hlevel, hoff, harmed⟩ := (s.seqTouch c).rd_flushRing c
    refine ⟨_, congrArg Host.Outcome.next (State.seq_accepted ho hp hclk (State.judgeSeq_flush hs)
      (State.judgeSeq_flush (by simpa using hs))), State.rd_seqDone_status .., ?_, ?_, by simp, fun n hn => ?_⟩
    · rw [State.rd_seqDone _ (by simp only [cellBase]; omega) (by simp), hlevel]
    · rw [State.rd_seqDone _ (by simp only [cellBase]; omega) (by simp), hoff]
    · rw [State.rd_seqDone _ (by simp only [cellBase]; omega) (by simp), harmed n hn]
  · obtain rfl | rfl : e = (.prime c 2, ⟨7, 2, false, true⟩) ∨ e = (.flush c, ⟨8, 0, false, true⟩) := by simpa using he
    all_goals exact ⟨_, congrArg Host.Outcome.next (State.seq_paused ho hp hclk), by simp, by simp, rfl⟩
  · refine ⟨_, congrArg Host.Outcome.next ((State.atReg_open _ ho).trans (State.armDesc_eq (by simpa using hlen) (by simpa using hen)
      (by simpa using ha))), by simp, ?_, ?_, by simp⟩
    · simp [hn]
    · simp [hn]
  · refine ⟨_, congrArg Host.Outcome.next ((State.atReg_open _ ho).trans (State.armDesc_ignored (by simpa using h))), ?_, ?_, ?_⟩
    · simp [State.seqIgnored]
    · rw [State.seqIgnored, State.rd_wr_ne _ _ (by simp only [Fld.key]; omega), State.rd_seqTouch]
    · rw [State.seqIgnored, State.wr_cells, State.seqTouch_cells]
  · intro en half free
    have hfree (h : free) : (s.seqTouch c).ringMeetsWindow c mask v = false := by
      rw [State.ringMeetsWindow_seqTouch]
      exact State.ringMeetsWindow_eq_false h
    have hmoves (h : en ≠ s.rd (SEQ.RING_EN c) ∨ half ≠ s.rd (SEQ.RING_HALF c)) : (s.seqTouch c).ringMoves c mask v = true := by
      rw [State.ringMoves_seqTouch]
      exact State.ringMoves_eq_true_iff.mpr h
    have hstays (h : en = s.rd (SEQ.RING_EN c) ∧ half = s.rd (SEQ.RING_HALF c)) : (s.seqTouch c).ringMoves c mask v = false := by
      rw [State.ringMoves_seqTouch]
      exact State.ringMoves_eq_false_iff.mpr h
    refine ⟨_, congrArg Host.Outcome.next (State.atReg_open _ ho), by simp, fun h => ?_, fun he hh => ?_, fun h hb => ?_, fun hb => ?_⟩
    · simpa using State.rd_writeRing_levels (h.imp hstays hfree)
    · simpa using State.rd_writeRing_kept (hstays ⟨he, hh⟩)
    · obtain ⟨hen, hhalf, hlevel⟩ := State.rd_writeRing_idle (hfree h) (by simpa using hb)
      exact ⟨by simpa using hen, by simpa using hhalf, fun h => hlevel (hmoves h)⟩
    · obtain ⟨hen, hhalf, hign⟩ := State.rd_writeRing_busy (s := s.seqTouch c) (mask := mask) (v := v) (by simpa using hb)
      exact ⟨by simpa using hen, by simpa using hhalf, fun h => hign (hmoves h)⟩
  · intro d hl hroom r
    refine ⟨_, rfl, fun hbad hw hlen => ?_⟩
    obtain ⟨hmem, hlevel⟩ := State.refill_words hf ha hl hroom rfl hbad hw
    refine ⟨hlevel.trans (State.ringLevel_ringWrite ..), fun i hi => ?_⟩
    rw [State.readWord, readBytes_mem hmem]
    exact State.readWord_ringWrite r.s c r.words (by omega) hi
  · simp [exec, execStreamDmaRefill, State.refill, hf]

end Sys2Proof.Machine

namespace Sys2Proof.Machine

/-! ## What a hold stride leaves alone (R33, R206)

A hold stride counts in registers, in the records of cells and in the stride number of its run; memory stays, and so does whether the
run is in a STEP. -/

/-- Memory and the run records. -/
def State.memRuns (s : State) : Tab (BitVec 8) × Tab Run := (s.mem, s.runs)

section
variable (s : State)

theorem State.memRuns_foldl {α : Type} {f : State → α → State} {l : List α} (h : ∀ t x, (f t x).memRuns = t.memRuns) :
    (l.foldl f s).memRuns = s.memRuns :=
  State.foldl_same State.memRuns fun t x _ => h t x

@[simp] theorem State.memRuns_wr (f : Fld) (v : Nat) : (s.wr f v).memRuns = s.memRuns := rfl

@[simp] theorem State.memRuns_count (f : Fld) (n : Nat) : (s.count f n).memRuns = s.memRuns := rfl

@[simp] theorem State.memRuns_wrs (l : List (Fld × Nat)) : (s.wrs l).memRuns = s.memRuns := by
  rw [(onlyRegs_wrs s l).1]; rfl

@[simp] theorem State.memRuns_modCell (c : Nat) (g : CellX → CellX) : (s.modCell c g).memRuns = s.memRuns := rfl

@[simp] theorem State.memRuns_modBlock (b : Nat) (g : BlockX → BlockX) : (s.modBlock b g).memRuns = s.memRuns := rfl

@[simp] theorem State.memRuns_pulse (n : Nat) : (s.pulse n).memRuns = s.memRuns := rfl

@[simp] theorem State.memRuns_report (code unit : Nat) : (s.report code unit).memRuns = s.memRuns := rfl

@[simp] theorem State.memRuns_drawn : s.drawn.memRuns = s.memRuns := rfl

@[simp] theorem State.memRuns_crowded (c k : Nat) : (s.crowded c k).memRuns = s.memRuns := by
  unfold State.crowded
  split <;> simp

@[simp] theorem State.memRuns_enterSafe (c n cause : Nat) : (s.enterSafe c n cause).memRuns = s.memRuns := by
  simp only [State.enterSafe]
  repeat' split
  all_goals simp

@[simp] theorem State.memRuns_driveCheck (c n : Nat) (held : Bool) (pin : Int) : (s.driveCheck c n held pin).memRuns = s.memRuns := by
  simp only [State.driveCheck]
  repeat' split
  all_goals simp

@[simp] theorem State.memRuns_checkLane (pins : List (Nat × Int)) (c n : Nat) : (s.checkLane pins c n).memRuns = s.memRuns := by
  simp only [State.checkLane]
  repeat' split
  all_goals simp

@[simp] theorem State.memRuns_boundaryCheck (cs : List Nat) (pins : List (Nat × Int)) : (s.boundaryCheck cs pins).memRuns = s.memRuns :=
  s.memRuns_foldl fun t c => t.memRuns_foldl fun u n => u.memRuns_checkLane pins c n

@[simp] theorem State.memRuns_applyLoads (sn c : Nat) : (s.applyLoads sn c).memRuns = s.memRuns := by
  simp only [State.applyLoads]
  rw [State.memRuns_foldl _ fun t e => t.memRuns_wrs _]
  split
  · rfl
  · rfl

@[simp] theorem State.memRuns_holdPins (c : Nat) : (s.holdPins c).memRuns = s.memRuns := by
  simp [State.holdPins, State.advance]

@[simp] theorem State.memRuns_setMult (p m : Nat) : (s.setMult p m).memRuns = s.memRuns := by
  have hui (t : State) (b : Nat) : (t.showUi b).memRuns = t.memRuns := by
    unfold State.showUi
    split
    · exact t.memRuns_foldl fun u c => u.memRuns_wr ..
    · rfl
  have hscale (t : State) (c : Nat) : (t.rescale c (s.unitDen c)).memRuns = t.memRuns := by
    simp only [State.rescale]
    split
    · rfl
    · rfl
  simp only [State.setMult]
  rw [State.memRuns_foldl _ hui, State.memRuns_foldl _ hscale, State.memRuns_modBlock]

@[simp] theorem State.memRuns_rampStride (l : Nat) : (s.rampStride l).memRuns = s.memRuns := by
  simp only [State.rampStride]
  split <;> simp
end

/-- From `s` to `t` memory stays, and so does whether the run of lead `l` is in a STEP. -/
def State.KeepsStep (l : Nat) (s t : State) : Prop := t.mem = s.mem ∧ (t.run l).stepping = (s.run l).stepping

theorem State.KeepsStep.trans {l : Nat} {s t u : State} (h : s.KeepsStep l t) (g : t.KeepsStep l u) : s.KeepsStep l u :=
  ⟨g.1.trans h.1, g.2.trans h.2⟩

theorem State.keepsStep_of_memRuns {l : Nat} {s t : State} (h : t.memRuns = s.memRuns) : s.KeepsStep l t := by
  obtain ⟨hmem, hruns⟩ := Prod.mk.inj h
  exact ⟨hmem, by rw [State.run, State.run, hruns]⟩

theorem State.keepsStep_modRun (s : State) (l : Nat) {g : Run → Run} (h : ∀ x, (g x).stepping = x.stepping) :
    s.KeepsStep l (s.modRun l g) :=
  ⟨rfl, by rw [State.run_modRun_self, h]⟩

theorem State.keepsStep_passStride (s : State) (l : Nat) (pins : List (Nat × Int)) : s.KeepsStep l (s.passStride l pins) := by
  unfold State.passStride
  extract_lets ms tok s1 s2 short
  have h1 : s1.memRuns = s.memRuns := s.memRuns_foldl fun t c => t.memRuns_wr ..
  have h2 : s2.memRuns = s.memRuns := (s1.memRuns_foldl fun t c => by simp).trans h1
  refine State.KeepsStep.trans ?_ (State.keepsStep_of_memRuns (State.memRuns_boundaryCheck ..))
  exact (State.keepsStep_of_memRuns h2).trans (s2.keepsStep_modRun l fun _ => rfl)

theorem State.keepsStep_holdStrides (s : State) (l n : Nat) : s.KeepsStep l (s.holdStrides l n) := by
  induction n generalizing s with
  | zero => exact ⟨rfl, rfl⟩
  | succ n ih =>
    refine State.KeepsStep.trans (State.keepsStep_of_memRuns ?_) ((State.keepsStep_passStride _ l []).trans (ih _))
    rw [State.memRuns_foldl _ fun t c => by simp, State.memRuns_rampStride]

/-! ## Where a word ends without a STEP -/

@[simp] theorem State.consume_mem (s : State) (c k : Nat) : (s.consume c k).mem = s.mem := by
  have huse (t : State) (n : Nat) : (t.useDesc c n).mem = t.mem := by
    simp only [State.useDesc]
    split <;> simp
  exact (State.foldl_same State.mem fun t n _ => huse t n).trans (by simp)

/-- The end of a word reads no word unless the run is in a STEP (R98). -/
theorem State.endWord_mem_of_run {s : State} {l pc : Nat} (h : (s.run l).stepping = false) : (s.endWord l pc none).mem = s.mem := by
  obtain ⟨r, hc⟩ := s.confine_eq l
  have hwords (t : State) (ms : List Nat) : (ms.foldl (fun t c => t.modCell c fun x => { x with word := none }) t).mem = t.mem :=
    State.foldl_same State.mem fun _ _ _ => rfl
  have hring (t : State) (ms : List Nat) (k : Nat) : (ms.foldl (fun t c => t.consume c k) t).mem = t.mem :=
    State.foldl_same State.mem fun t c _ => t.consume_mem c k
  simp only [State.endWord, h, hc, Bool.false_eq_true, if_false, State.modRun_mem, hwords]
  repeat' split
  all_goals simp [hring]

/-! ## Reads that come with a FETCH, a STOP and a TLOAD (R78, R101, R203)

Each of these reads scratchpad words, and a read writes a word that was stored raw with a correctable error back corrected (R284); so
memory does not stay. The counterexamples hold the explicit zero byte of `State.Raw`, for the reason given there: what the correction
makes of a word is the unit's code, which has no body. -/

/-- Memory, stored errors and raw check bits that hold only the word at `a`, stored raw with a correctable error. -/
def State.withRaw (s : State) (a : Nat) : State := { s with mem := [(a, 0)], ecc := [(a, 1)], rawChk := [(a, 1)] }

theorem State.withRaw_raw (s : State) (a : Nat) : (s.withRaw a).Raw a := ⟨rfl, rfl, rfl⟩

/-! ### FETCH -/

/-- R284: a fetch that meets an uncorrectable error, one that arises at the read, leaves memory alone. -/
theorem State.fetchCell_mem_uncorrectable (s : State) (c k : Nat) (ring : Bool) {up : Nat} (h : 2 ≤ up % 4) :
    (s.fetchCell c k ring up).mem = s.mem := by
  simp only [State.fetchCell, State.modCell_mem, State.padErrors_mem]
  rw [State.eccAfter_mem, if_neg fun hn => hn.1 (le_trans h (Nat.le_max_right _ _))]
  split
  · rfl
  · rfl

/-- R78: a caravan that does not stream halts at a fetch that meets an uncorrectable word, and the words read are what changes memory. -/
theorem exec_fetch_mem {s : State} {l : Nat} {ups : List (Nat × Nat)} (hc : s.canFetch l = true) (hs : s.streaming l = false)
    (hb : s.fetchBad l ups ≠ []) : ∃ t, exec (.fetch l ups) s = .next t ∧ t.mem = (s.fetchAll l ups).mem := by
  have hu : s.underrunNow l = false := by simp [State.underrunNow, hs]
  refine ⟨(s.fetchAll l ups).haltBefore l (s.fetchBad l ups ++ (s.fetchAll l ups).breakCauses l ++
    (s.fetchAll l ups).readableCauses l (s.fetchBad l ups) ++ (s.fetchAll l ups).limitCauses l), ?_, State.haltBefore_mem ..⟩
  simp [exec, execFetch, hc, hs, hu, hb]

/-- The caravan of cells 0 and 1, led by cell 1, RUNNING on a running clock, PC at 0; word 0 of cell 0 was stored raw with a correctable
error. -/
def twoCells : State :=
  (State.reset.wrs [(CEL.CARAVAN_EN 0, 1), (CEL.CARAVAN_EN 1, 1), (CEL.CARAVAN_LEAD 0, 1), (SEQ.STATUS_STATE 0, stRunning),
    (SEQ.STATUS_STATE 1, stRunning), (PLL.STATUS_CLK_RUN 0, 1)]).withRaw (padBase 0 + 16 * 0)

theorem twoCells_fetchAll : twoCells.fetchAll 1 [(1, 2)] = (twoCells.fetchCell 0 0 false 0).fetchCell 1 0 false 2 := by rfl

/-- Refutes O13: the lead's word is uncorrectable, the other member's is corrected and written back, so that memory differs. -/
theorem not_fetchesAndLimits : ¬ Obligations.FetchesAndLimits := by
  unfold Obligations.FetchesAndLimits
  rintro ⟨-, h, -⟩
  obtain ⟨t, hx, -, -, -, -, hmem⟩ := h twoCells 1 [(1, 2)] (by decide) (by decide) (by decide) (by decide)
  obtain ⟨u, hu, hr⟩ := exec_fetch_mem (s := twoCells) (l := 1) (ups := [(1, 2)]) (by decide) (by decide) (by decide)
  obtain rfl : u = t := Host.Outcome.next.inj (hu.symm.trans hx)
  rw [twoCells_fetchAll, State.fetchCell_mem_uncorrectable _ _ _ _ (by decide), State.fetchCell_mem] at hr
  exact State.eccAfter_mem_of_raw (State.withRaw_raw ..) (hr.symm.trans hmem)

/-! ### STOP -/

/-- R98, R101: STOP is accepted of a RUNNING lead. -/
theorem State.judgeSeq_stop {s : State} {c : Nat} (hl : s.isLead c = true) (hr : s.cvState c = stRunning) :
    s.judgeSeq c 2 0 false = (s.haltAtBoundary c [(c, cStopped)], 0) := by
  simp [State.judgeSeq, hl, hr, State.stopRun]

/-- The caravan of cell 0 alone, RUNNING on a running clock, before the fetch of word 0, which was stored raw with a correctable error. -/
def beforeFetch : State :=
  (State.reset.wrs [(CEL.CARAVAN_EN 0, 1), (SEQ.STATUS_STATE 0, stRunning), (PLL.STATUS_CLK_RUN 0, 1), (PWR.DOMAINS_BLK_ON, 1)]).withRaw
    (padBase 0 + 16 * 0)

/-- Refutes O17: a STOP of a RUNNING caravan whose next word is not fetched yet fetches it, corrects it and writes it back, so that memory
differs. -/
theorem not_sequencerCommands : ¬ Obligations.SequencerCommands := by
  unfold Obligations.SequencerCommands
  rintro ⟨-, h, -⟩
  have ho : beforeFetch.regOpen 0 (SEQ.CMD_OP 0).addr = true := by decide
  have hp : beforeFetch.flag (SEQ.CMD_STATUS_PEND 0) = false := by decide
  have hclk : beforeFetch.clockPaused (blockOf 0) = false := by decide
  obtain ⟨t, hx, -, -, -, -, -, hmem, -⟩ := h beforeFetch 0 (by decide) ho hp hclk (by decide) (by decide)
  have hu := State.seq_accepted ho hp hclk (State.judgeSeq_stop (by decide) (by decide)) (State.judgeSeq_stop (by decide) (by decide))
  obtain rfl := Host.Outcome.next.inj ((congrArg Host.Outcome.next hu).symm.trans hx)
  rw [State.wrs_mem, State.haltAtBoundary, State.haltBefore_mem,
    State.boundaryCauses_mem (by decide) (by decide) (by decide) (by decide)] at hmem
  exact State.eccAfter_mem_of_raw (s := beforeFetch.seqTouch 0) (a := padBase 0 + 16 * 0) ⟨rfl, rfl, rfl⟩ hmem

/-! ### TLOAD -/

/-- The TLOAD word that copies words 0 and 1 into entry 0, fetched by PC. -/
def tloadFetched : Fetched := ⟨3 * 2 ^ 70 + 0x01 * 2 ^ 64, 5, false, .service, 16⟩

/-- The caravan of cell 0 alone, RUNNING on a running clock; its TLOAD word of one entry copies words 0 and 1, and word 1 was stored raw
with a correctable error. -/
def loading : State :=
  ((State.reset.wrs [(CEL.CARAVAN_EN 0, 1), (SEQ.STATUS_STATE 0, stRunning), (PLL.STATUS_CLK_RUN 0, 1)]).modCell 0 fun x =>
    { x with word := some tloadFetched }).withRaw (padBase 0 + 16 * 1)

/-- R203: the TLOAD of a lead alone, no source word of it uncorrectable and no stride limit set. -/
theorem State.memberWords_tload {s : State} {l : Nat} {f : Fetched} (hm : s.members l = [l]) (hw : (s.cell l).word = some f)
    (hf : isSys f.word 0x01 = true) (hb : s.tloadBad l = none) (hlimit : s.flag (SEQ.SC_LIMIT_EN l) = false) :
    s.memberWords l = ((s.tloadWord l (s.tloadN l)).holdStrides l (s.tloadN l)).endWord l (s.nextPc l) none := by
  have hword : s.memberWord (s.run l).sn l = s := by
    simp only [isSys, Bool.and_eq_true, beq_iff_eq] at hf
    simp [State.memberWord, hw, isSys, hf]
  simp [State.memberWords, hm, hword, hb, State.stridesAllowed, hlimit]

theorem exec_tload_loading : exec (.tload 0) loading =
    .next ((((loading.holdStrides 0 1).tloadWord 0 1).holdStrides 0 1).endWord 0 1 none) := by
  have hissue : exec (.tload 0) loading = .next ((loading.holdStrides 0 1).memberWords 0) := by rfl
  rw [hissue, State.memberWords_tload (f := tloadFetched) (by decide) (by rfl) (by decide) (by decide) (by decide)]
  rfl

/-- R203: a TLOAD of one entry reads two words. -/
theorem State.tloadWord_mem_one {s : State} {c : Nat} {f : Fetched} (hw : (s.cell c).word = some f) (hn : s.tloadN c = 1) :
    (s.tloadWord c 1).mem = ((s.padErrors c (tloadSrc f.word 0).1 0 0).eccAfter (padBase c + 16 * (tloadSrc f.word 0).2) 0).mem := by
  simp [State.tloadWord, State.tloadRead, hw, hn, State.padErrors_mem]

theorem loading_tloadWord : ((loading.holdStrides 0 1).tloadWord 0 1).mem =
    (((loading.holdStrides 0 1).padErrors 0 0 0 0).eccAfter (padBase 0 + 16 * 1) 0).mem :=
  State.tloadWord_mem_one (f := tloadFetched) (by rfl) (by rfl)

/-- Refutes O10: a TLOAD reads word 1, corrects it and writes it back, so that memory differs. -/
theorem not_serviceWords : ¬ Obligations.ServiceWords := by
  unfold Obligations.ServiceWords
  intro h
  obtain ⟨-, -, -, htload, -⟩ := h loading 0 tloadFetched (by decide) (by decide)
  obtain ⟨t, hx, ⟨-, hmem, -⟩, -⟩ := htload (by decide) (by decide) (by decide)
  obtain rfl := Host.Outcome.next.inj (exec_tload_loading.symm.trans hx)
  have hrun : ((((loading.holdStrides 0 1).tloadWord 0 1).holdStrides 0 1).run 0).stepping = false :=
    (State.keepsStep_holdStrides _ 0 1).2.trans (by rfl)
  rw [State.endWord_mem_of_run hrun, (State.keepsStep_holdStrides _ 0 1).1, loading_tloadWord] at hmem
  exact State.eccAfter_mem_of_raw (s := (loading.holdStrides 0 1).padErrors 0 0 0 0) ⟨rfl, rfl, rfl⟩ hmem

end Sys2Proof.Machine

namespace Sys2Proof.Machine

/-! ## A STOP that takes effect at a stride boundary (R93, R101)

By then the words of the next stride have been fetched, and a fetch corrects a word that was stored raw with a correctable error and
writes it back (R284): whatever lets such a STOP take effect may change memory. -/

/-- The caravan of cell `l` alone is RUNNING, does not stream and has yet to fetch the word at PC, which was stored raw with a correctable
error. -/
structure State.FetchesRaw (s : State) (l : Nat) : Prop where
  lead : s.isLead l = true
  alone : s.members l = [l]
  running : s.cvState l = stRunning
  plain : s.streaming l = false
  due : s.fetchDue l = true
  ready : (s.run l).phase = .ready
  raw : s.Raw (padBase l + 16 * s.rd (SEQ.PC_PC l))

/-- R93, R284: its halt at the next stride boundary changes memory. -/
theorem State.FetchesRaw.haltAtBoundary_mem {s : State} {l : Nat} (h : s.FetchesRaw l) (causes : List (Nat × Nat)) :
    (s.haltAtBoundary l causes).mem ≠ s.mem := by
  rw [State.haltAtBoundary, State.haltBefore_mem, State.boundaryCauses_mem h.due h.ready h.plain h.alone]
  exact State.eccAfter_mem_of_raw h.raw

/-! ### A STOP of a steward that waited for the clock (R97) -/

/-- R97, R361: a command of a steward that waited and is accepted acts on the run it has marked and completes. -/
theorem State.runSeq_accepted {s t u : State} {c op desc : Nat} {convoy : Bool} (hs : s.judgeSeq c op desc convoy = (u, 0))
    (ht : (s.seqTouch c).judgeSeq c op desc convoy = (t, 0)) : s.runSeq c op desc convoy true = t.wrs (seqDone c op) := by
  simp [State.runSeq, hs, ht, seqDone]

/-- R98, R101: a STOP that waited changes memory where the caravan has yet to fetch its raw word. -/
theorem State.FetchesRaw.runSeq_stop_mem {s : State} {l : Nat} (h : (s.seqTouch l).FetchesRaw l) :
    (s.runSeq l 2 0 false true).mem ≠ s.mem := by
  have hs : s.judgeSeq l 2 0 false = (s.haltAtBoundary l [(l, cStopped)], 0) :=
    State.judgeSeq_stop (by simpa using h.lead) (by simpa using h.running)
  rw [State.runSeq_accepted hs (State.judgeSeq_stop h.lead h.running), State.wrs_mem, ← s.seqTouch_mem l]
  exact h.haltAtBoundary_mem _

/-- The caravan of cell 7 alone, RUNNING before the fetch of word 0, which was stored raw with a correctable error. A relock of the PLL of
its block has stopped its clock, and a STOP of a steward waits. -/
def stopWaits : State :=
  (((State.reset.wrs [(CEL.CARAVAN_EN 7, 1), (CEL.CARAVAN_LEAD 7, 7), (SEQ.STATUS_STATE 7, stRunning), (SEQ.CMD_STATUS_PEND 7, 1),
    (PWR.DOMAINS_BLK_ON, 1), (PLL.STATUS_STATE 0, pllAcquiring)]).modCell 7 fun x => { x with seqCmd := some ⟨2, 0, false, true⟩ }).modBlock 0
      fun x => { x with relock := .acquiring }).withRaw (padBase 7 + 16 * 0)

/-- The PLL has failed, and the STOP is judged. -/
def stopDue : State :=
  ((stopWaits.modBlock 0 fun x => { x with relock := .none, pll := none }).wr (PLL.STATUS_STATE 0) pllFail).modCell 7
    fun x => { x with seqCmd := none }

theorem stopDue_fetchesRaw : (stopDue.seqTouch 7).FetchesRaw 7 := by
  constructor <;> decide

theorem exec_relockTimeout_stopWaits : exec (.relockTimeout 0) stopWaits = .next (stopDue.runSeq 7 2 0 false true) := by rfl

/-- Refutes O22: RELOCK_TIMEOUT stops the clock for good, so that a STOP that waited for it is judged (R97); it fetches the next word of its
caravan, corrects it and writes it back, so that memory differs. -/
theorem not_pllCommandsAndRelock : ¬ Obligations.PllCommandsAndRelock := by
  unfold Obligations.PllCommandsAndRelock
  rintro ⟨-, -, -, -, h, -⟩
  obtain ⟨t, hx, -, -, -, hmem⟩ := h stopWaits 0 (by decide) (by decide) (by decide)
  obtain rfl := Host.Outcome.next.inj (exec_relockTimeout_stopWaits.symm.trans hx)
  exact stopDue_fetchesRaw.runSeq_stop_mem hmem

/-! ### A Convoy STOP (R120) -/

/-- R120: a Convoy STOP that finds one caravan to stop, a RUNNING one whose clock is not paused. -/
theorem State.convoyStop_single {s : State} {l : Nat}
    (h : (s.allLeads.filter fun l => s.cvState l == stArmed || (s.cvState l == stRunning && (s.run l).convoyRun)) = [l])
    (hclk : s.clockPaused (blockOf l) = false) (hr : s.cvState l = stRunning) :
    s.convoyStop = s.haltAtBoundary l [(l, cStopped)] := by
  simp [State.convoyStop, h, hclk, State.stopRun, hr]

/-- A Convoy STOP whose acting instant has come: the caravan of cell 0 alone was begun by a Convoy START and is before the fetch of word 0,
which was stored raw with a correctable error. -/
def convoyStopping : State := { beforeFetch with runs := [(0, { Run.reset with convoyRun := true })] }

theorem convoyStopping_fetchesRaw : convoyStopping.FetchesRaw 0 := by
  constructor <;> decide

theorem exec_convoyStop_convoyStopping :
    exec .convoyStop { convoyStopping with cvy := { CvyX.reset with acts := [(2, 0)] } } = .next convoyStopping.convoyStop := by rfl

/-- Refutes O53: a Convoy STOP of a RUNNING caravan fetches its next word, corrects it and writes it back, so that memory differs. -/
theorem not_convoyActingInstants : ¬ Obligations.ConvoyActingInstants := by
  unfold Obligations.ConvoyActingInstants
  rintro ⟨-, h, -⟩
  obtain ⟨t, hx, -, hmem, -⟩ := h { convoyStopping with cvy := { CvyX.reset with acts := [(2, 0)] } } 0 rfl (by decide)
  obtain rfl := Host.Outcome.next.inj (exec_convoyStop_convoyStopping.symm.trans hx)
  rw [State.convoyStop_single (l := 0) (by rfl) (by decide) (by decide)] at hmem
  exact convoyStopping_fetchesRaw.haltAtBoundary_mem _ hmem

end Sys2Proof.Machine

namespace Sys2Proof.Machine

/-! ## One step of the algorithmic pattern generator

A step clears the wrap records, moves the generators by its address operation, then acts on the data by its data operation (R136,
R137). The two operations act on disjoint parts of the state, so that what a step does to X, Y and Z and to their wrap records is
told by its address operation alone. -/

/-- R137: the state a step starts from, without the wrap records of the step before. -/
def ApgS.clearWraps (a : ApgS) : ApgS := { a with wx := false, wy := false, wz := false, wd := false }

/-- R130: a data operation acts on the backgrounds, the inversion, the data pointer and its wrap record only. -/
theorem ApgS.dataOp_frame (a : ApgS) (op : Nat) :
    ∃ bg bgsel inv dptr wd, a.dataOp op = { a with bg := bg, bgsel := bgsel, inv := inv, dptr := dptr, wd := wd } := by
  unfold ApgS.dataOp
  split <;> exact ⟨_, _, _, _, _, rfl⟩

/-- R136, R137: outside the data state, PHASE and END, a step other than code 0 is its address operation on cleared wrap records. -/
theorem ApgS.step_eq_addrOp (a : ApgS) {code : Nat} (h : code ≠ 0) :
    ∃ bg bgsel inv dptr wd phase fin, a.step code =
      { a.clearWraps.addrOp (bits code 0 5) with
        bg := bg, bgsel := bgsel, inv := inv, dptr := dptr, wd := wd, phase := phase, fin := fin } := by
  obtain ⟨bg, bgsel, inv, dptr, wd, hd⟩ := (a.clearWraps.addrOp (bits code 0 5)).dataOp_frame (bits code 5 3)
  unfold ApgS.clearWraps at hd ⊢
  simp only [ApgS.step, if_neg h, hd]
  exact ⟨_, _, _, _, _, _, _, rfl⟩

/-- R134: 7 is the address operation XY_INC, 8 is XY_DEC. -/
theorem ApgS.addrOp_xy (a : ApgS) (up : Bool) : a.addrOp (if up then 7 else 8) = a.stepXY up := by
  cases up <;> rfl

/-- A code with a nonzero address operation is not code 0. -/
theorem ne_zero_of_bits_ne_zero {code i n : Nat} (h : bits code i n ≠ 0) : code ≠ 0 := by
  rintro rfl
  exact h (by simp [bits])

/-- R126: after a step by XY_INC or XY_DEC, each of X and Y has moved and records its own wrap alone; Z has done neither. -/
theorem ApgS.step_xy (a : ApgS) {code : Nat} (up : Bool) (h : bits code 0 5 = if up then 7 else 8) :
    (a.step code).x = (a.x.move up).1 ∧ (a.step code).y = (a.y.move up).1 ∧ (a.step code).z = a.z ∧
      (a.step code).wx = (a.x.move up).2 ∧ (a.step code).wy = (a.y.move up).2 ∧ (a.step code).wz = false := by
  have hcode : code ≠ 0 := ne_zero_of_bits_ne_zero (i := 0) (n := 5) (by cases up <;> simp [h])
  obtain ⟨bg, bgsel, inv, dptr, wd, phase, fin, hs⟩ := a.step_eq_addrOp hcode
  rw [hs, h, ApgS.addrOp_xy]
  simp [ApgS.stepXY, ApgS.clearWraps]

/-- Settles O59: XY_INC is the step that moves X and Y upwards, XY_DEC the one that moves them downwards (R126). -/
theorem apgXyOperations : Obligations.ApgXyOperations :=
  fun a _ => ⟨fun h => a.step_xy true h, fun h => a.step_xy false h⟩

end Sys2Proof.Machine

namespace Sys2Proof.Machine

/-! ## Bits and bit fields -/

/-- A bit as Mathlib tests it. -/
theorem bitOf_eq_testBit (v i : Nat) : bitOf v i = v.testBit i := by
  rw [bitOf, Nat.testBit_eq_decide_div_mod_eq]
  exact (Bool.beq_eq_decide_eq _ _)

/-- A one-bit field that is set. -/
theorem bits_setBit_self (v i : Nat) : bits (setBit v i) i 1 = 1 := by
  unfold setBit
  split
  · next h => simpa [bitOf, bits] using h
  · next h =>
    have h0 : v / 2 ^ i % 2 = 0 := by simpa [bitOf] using h
    rw [bits, Nat.add_div_right _ (Nat.two_pow_pos i)]
    omega

/-- A one-bit field that is cleared. -/
theorem bits_clearBit_self (v i : Nat) : bits (clearBit v i) i 1 = 0 := by
  unfold clearBit
  split
  · next h =>
    have h1 : v / 2 ^ i % 2 = 1 := by simpa [bitOf] using h
    have := Nat.sub_mul_div v (2 ^ i) 1
    rw [Nat.mul_one] at this
    rw [bits, this]
    omega
  · next h => simpa [bitOf, bits] using h

@[simp] theorem bitOf_setBit_self (v i : Nat) : bitOf (setBit v i) i = true :=
  beq_iff_eq.mpr (bits_setBit_self v i)

@[simp] theorem bitOf_clearBit_self (v i : Nat) : bitOf (clearBit v i) i = false :=
  beq_eq_false_iff_ne.mpr (ne_of_eq_of_ne (bits_clearBit_self v i) Nat.zero_ne_one)

/-- Setting a bit leaves every other. -/
theorem bitOf_setBit_ne (v : Nat) {i j : Nat} (h : i ≠ j) : bitOf (setBit v i) j = bitOf v j := by
  unfold setBit
  split
  · rfl
  next hi =>
  have hr : v % 2 ^ i < 2 ^ i := Nat.mod_lt _ (Nat.two_pow_pos i)
  have hq : v / 2 ^ i % 2 = 0 := by simpa [bitOf] using hi
  have hv : v = 2 ^ i * (v / 2 ^ i) + v % 2 ^ i := (Nat.div_add_mod ..).symm
  generalize v / 2 ^ i = q at hv hq
  generalize v % 2 ^ i = r at hv hr
  have hv' : v + 2 ^ i = 2 ^ i * (q + 1) + r := by rw [hv, Nat.mul_add]; omega
  rw [bitOf_eq_testBit, bitOf_eq_testBit, hv', hv, Nat.testBit_two_pow_mul_add _ hr, Nat.testBit_two_pow_mul_add _ hr]
  split
  · rfl
  · obtain ⟨k, hk⟩ : ∃ k, j - i = k + 1 := ⟨j - i - 1, by omega⟩
    rw [hk, Nat.testBit_succ, Nat.testBit_succ, show (q + 1) / 2 = q / 2 by omega]
/-- Setting a bit clears none. -/
theorem bitOf_setBit_of_bitOf {v i j : Nat} (h : bitOf v j = true) : bitOf (setBit v i) j = true := by
  obtain rfl | hij := eq_or_ne i j
  · exact bitOf_setBit_self v i
  · rw [bitOf_setBit_ne v hij, h]

/-- A bit field that is replaced reads as written. -/
theorem bits_setField_self (v lsb w n : Nat) : bits (setField v lsb w n) lsb w = n % 2 ^ w := by
  have hp := Nat.two_pow_pos lsb
  have hv : v - v / 2 ^ lsb % 2 ^ w * 2 ^ lsb = v % 2 ^ lsb + 2 ^ lsb * (2 ^ w * (v / 2 ^ lsb / 2 ^ w)) := by
    have h1 := Nat.div_add_mod v (2 ^ lsb)
    have h2 := Nat.div_add_mod (v / 2 ^ lsb) (2 ^ w)
    have h3 : 2 ^ lsb * (v / 2 ^ lsb) = 2 ^ lsb * (2 ^ w * (v / 2 ^ lsb / 2 ^ w)) + v / 2 ^ lsb % 2 ^ w * 2 ^ lsb := by
      rw [Nat.mul_comm (_ % _), ← Nat.mul_add, h2]
    omega
  rw [bits, setField, bits, hv, Nat.mul_comm (n % 2 ^ w), Nat.add_assoc, ← Nat.mul_add, Nat.add_mul_div_left _ _ hp,
    Nat.div_eq_of_lt (Nat.mod_lt _ hp), Nat.zero_add, Nat.mul_add_mod, Nat.mod_mod]

end Sys2Proof.Machine

namespace Sys2Proof.Machine

/-! ## What an aborted self-test slice leaves (R496) -/

/-- The registers of the self-test unit, by key. -/
def IsSelfTest (f : Fld) : Prop := 64 * 0xB00000 ≤ f.key ∧ f.key < 64 * 0xB00040

section
variable (s : State) (hit : Bool)

/-- R496: it shows in the self-test unit alone. -/
theorem State.rd_abortSlice {f : Fld} (h : ¬ IsSelfTest f) : (s.abortSlice hit).rd f = s.rd f := by
  unfold State.abortSlice
  split
  · simp only [IsSelfTest, Fld.key] at h
    rw [State.count, State.rd_wr_ne _ _ (by simp only [Fld.key]; omega), State.rd_wr_ne _ _ (by simp only [Fld.key]; omega),
      State.endSlice, State.rd_wrs_ne _ _ (by simp [Fld.key]; omega)]
    rfl
  · rfl

@[simp] theorem State.cells_abortSlice : (s.abortSlice hit).cells = s.cells := by
  unfold State.abortSlice
  split <;> rfl

@[simp] theorem State.cell_abortSlice (c : Nat) : (s.abortSlice hit).cell c = s.cell c := by
  rw [State.cell, State.cell, s.cells_abortSlice]

@[simp] theorem State.cal_abortSlice : (s.abortSlice hit).cal = s.cal := by
  unfold State.abortSlice
  split <;> rfl

variable {s}

/-- No slice runs that could be aborted. -/
theorem State.abortSlice_idle (h : s.bst.run = none) : s.abortSlice hit = s := by
  simp [State.abortSlice, h]

/-- The registers of cells (R535) are not among those of the self-test unit. -/
theorem not_isSelfTest {f : Fld} (h : 0x2000000 ≤ f.addr) : ¬ IsSelfTest f := by
  simp only [IsSelfTest, Fld.key]
  omega

/-- Those of one lane of a cell lie a stride apart. -/
theorem not_isSelfTest_lane {c k j lsb w r : Nat} : ¬ IsSelfTest ⟨cellBase c + k + j, lsb, w, r⟩ :=
  not_isSelfTest (by simp only [cellBase]; omega)

theorem State.flag_abortSlice {f : Fld} (h : ¬ IsSelfTest f) : (s.abortSlice hit).flag f = s.flag f := by
  rw [State.flag, State.flag, s.rd_abortSlice hit h]

theorem State.merged_abortSlice {f : Fld} (mask v : Nat) (h : ¬ IsSelfTest f) :
    (s.abortSlice hit).merged f mask v = s.merged f mask v := by
  rw [State.merged, State.merged, s.rd_abortSlice hit h]

/-- Whether a cell is busy stands in three registers: EN and LEAD of the cell and the state that its lead shows. -/
theorem State.cellBusy_congr {t : State} {c : Nat} (hen : t.rd (CEL.CARAVAN_EN c) = s.rd (CEL.CARAVAN_EN c))
    (hlead : t.rd (CEL.CARAVAN_LEAD c) = s.rd (CEL.CARAVAN_LEAD c)) (hstate : ∀ l, t.rd (SEQ.STATUS_STATE l) = s.rd (SEQ.STATUS_STATE l)) :
    t.cellBusy c = s.cellBusy c := by
  simp only [State.cellBusy, State.enabled, State.busy, State.cvState, State.leadOf, State.flag, hen, hlead, hstate]

@[simp] theorem State.cellBusy_abortSlice (c : Nat) : (s.abortSlice hit).cellBusy c = s.cellBusy c := by
  have hcell (f : Fld) (h : 0x2000000 ≤ f.addr) := s.rd_abortSlice hit (not_isSelfTest h)
  exact State.cellBusy_congr (hcell _ (by simp only [cellBase]; omega)) (hcell _ (by simp only [cellBase]; omega))
    fun l => hcell _ (by simp only [cellBase]; omega)

end

/-! ## Operations of a lane (R142 to R146, R160 to R163) -/

/-- Writes of registers leave the records of the units. -/
@[simp] theorem State.cell_wrs (s : State) (l : List (Fld × Nat)) (c : Nat) : (s.wrs l).cell c = s.cell c := by
  rw [State.cell, (onlyRegs_wrs s l).1]
  rfl

@[simp] theorem State.block_wrs (s : State) (l : List (Fld × Nat)) (b : Nat) : (s.wrs l).block b = s.block b := by
  rw [State.block, (onlyRegs_wrs s l).1]
  rfl

section
variable (s : State) (c n x : Nat)

@[simp] theorem State.rd_setLevel (f : Fld) : (s.setLevel c n x).rd f = s.rd f := rfl
@[simp] theorem State.setLevel_mem : (s.setLevel c n x).mem = s.mem := rfl
@[simp] theorem State.entering_setLevel : ((s.setLevel c n x).cell c).entering = (s.cell c).entering := by simp [State.setLevel]
@[simp] theorem State.level_setLevel : bits ((s.setLevel c n x).cell c).level (2 * n) 2 = x % 4 := by
  rw [State.setLevel, State.cell_modCell_self]
  exact bits_setField_self ..

@[simp] theorem State.rd_setDrive (f : Fld) : (s.setDrive c n x).rd f = s.rd f := rfl
@[simp] theorem State.setDrive_mem : (s.setDrive c n x).mem = s.mem := rfl
@[simp] theorem State.entering_setDrive : ((s.setDrive c n x).cell c).entering = (s.cell c).entering := by simp [State.setDrive]

/-- R157: a disturbed measurement shows in the block's queue alone. -/
@[simp] theorem State.rd_disturb (f : Fld) : (s.disturb c n).rd f = s.rd f := rfl
@[simp] theorem State.disturb_mem : (s.disturb c n).mem = s.mem := rfl
@[simp] theorem State.cell_disturb (d : Nat) : (s.disturb c n).cell d = s.cell d := rfl

/-- R160: static drive shows in the record of the cell alone. -/
@[simp] theorem State.rd_staticDrive (f : Fld) : (s.staticDrive c n).rd f = s.rd f := by
  unfold State.staticDrive
  split <;> simp

@[simp] theorem State.staticDrive_mem : (s.staticDrive c n).mem = s.mem := by
  unfold State.staticDrive
  split <;> simp

@[simp] theorem State.entering_staticDrive : ((s.staticDrive c n).cell c).entering = (s.cell c).entering := by
  unfold State.staticDrive
  split <;> simp

/-- R163: what an enable shows. -/
theorem State.rd_enableLane : (s.enableLane c n).rd (PIN.CTRL_EN c n) = 1 ∧ (s.enableLane c n).rd (PIN.STATE_SAFE c n) = 0 := by
  have hn : ([(PIN.CTRL_EN c n, 1), (PIN.STATE_SAFE c n, 0)].map fun e => e.1.key).Nodup := by
    simp [Fld.key]
  have hrd (f : Fld) : (s.enableLane c n).rd f = (s.wrs [(PIN.CTRL_EN c n, 1), (PIN.STATE_SAFE c n, 0)]).rd f := by
    unfold State.enableLane
    dsimp only
    split <;> simp
  exact ⟨(hrd _).trans (s.rd_wrs_of_mem hn (v := 1) (by simp)), (hrd _).trans (s.rd_wrs_of_mem hn (v := 0) (by simp))⟩

@[simp] theorem State.enableLane_mem : (s.enableLane c n).mem = s.mem := by
  unfold State.enableLane
  dsimp only
  split <;> simp
end

/-! ### Safe-state entry (R161, R162) -/

/-- Lane `n` of cell `c` is in the safe state or enters it. -/
def State.Safing (s : State) (c n : Nat) : Prop := s.flag (PIN.STATE_SAFE c n) = true ∨ bitOf (s.cell c).entering n = true

/-- R158: what a measurement that ends without a result shows. -/
def noResult (c n : Nat) : List (Fld × Nat) := [(PIN.MEAS_PEND c n, 0), (PIN.RESULT_VALID c n, 0), (PIN.RESULT_ABORTED c n, 1)]

/-- The registers in which an entry of lane `n` of cell `c` shows. -/
def safeKeys (c n : Nat) : List Nat := (PIN.STATE_SAFE_CAUSE c n).key :: (noResult c n).map fun e => e.1.key

/-- R161: the first step of an entry: the driver goes off and the cause is recorded. -/
def State.safeBegun (s : State) (c n cause : Nat) : State :=
  (s.modCell c fun x =>
    { x with
      entering := setBit x.entering n, level := setField x.level (2 * n) 2 3
      plan := x.plan.filter fun e => e.lane != n }).wr (PIN.STATE_SAFE_CAUSE c n) cause

/-- R158: a pending measurement ends without a result. -/
def State.measAborted (s : State) (c n : Nat) : State :=
  ((s.modBlock (blockOf c) fun x => { x with adcQ := takeNext (x.adcQ.filter fun q => q.pin ≠ 4 * c + n) }).wrs
    (noResult c n)).pulse (1024 + 4 * blockOf c + 2)

section
variable (s : State) (c n cause : Nat)

theorem State.safing_iff :
    s.Safing c n ↔ (s.flag (PIN.STATE_SAFE c n) || bitOf (s.cell c).entering n) = true := by
  rw [State.Safing, Bool.or_eq_true]

/-- R161: a lane that is safe or entering keeps its first cause; else it begins to enter, and its measurement ends. -/
theorem State.enterSafe_cases : s.Safing c n ∧ s.enterSafe c n cause = s ∨
    ¬ s.Safing c n ∧ s.enterSafe c n cause =
      if s.flag (PIN.MEAS_PEND c n) then (s.safeBegun c n cause).measAborted c n else s.safeBegun c n cause := by
  have hpend : (s.safeBegun c n cause).flag (PIN.MEAS_PEND c n) = s.flag (PIN.MEAS_PEND c n) := by
    rw [State.flag, State.safeBegun, State.rd_wr_ne _ _ (by simp only [Fld.key]; omega)]
    rfl
  rw [State.safing_iff, ← hpend]
  by_cases h : (s.flag (PIN.STATE_SAFE c n) || bitOf (s.cell c).entering n) = true
  · exact .inl ⟨h, if_pos h⟩
  · exact .inr ⟨h, if_neg h⟩

@[simp] theorem State.enterSafe_mem : (s.enterSafe c n cause).mem = s.mem := (Prod.mk.inj (s.memRuns_enterSafe c n cause)).1

@[simp] theorem State.cell_measAborted (d : Nat) : (s.measAborted c n).cell d = s.cell d := by
  rw [State.measAborted, State.cell_pulse, State.cell_wrs, State.cell_modBlock]

theorem State.rd_measAborted {f : Fld} (h : f.key ∉ (noResult c n).map fun e => e.1.key) : (s.measAborted c n).rd f = s.rd f := by
  rw [State.measAborted, State.rd_pulse, (onlyRegs_wrs _ _).2 f h, State.rd_modBlock]

variable {s}

/-- An entry shows in its own registers alone. -/
theorem State.rd_enterSafe {f : Fld} (h : f.key ∉ safeKeys c n) : (s.enterSafe c n cause).rd f = s.rd f := by
  obtain ⟨hcause, hmeas⟩ := List.ne_and_not_mem_of_not_mem_cons h
  have hbegun : (s.safeBegun c n cause).rd f = s.rd f := State.rd_wr_ne _ _ hcause.symm
  obtain ⟨-, heq⟩ | ⟨-, heq⟩ := s.enterSafe_cases c n cause
  · rw [heq]
  · rw [heq]
    split
    · rw [State.rd_measAborted _ _ _ hmeas, hbegun]
    · exact hbegun

/-- What the first step leaves. -/
theorem State.enterSafe_begun (h : ¬ s.Safing c n) :
    (s.enterSafe c n cause).rd (PIN.STATE_SAFE_CAUSE c n) = cause % 16 ∧
      ∀ d, (s.enterSafe c n cause).cell d = (s.safeBegun c n cause).cell d := by
  obtain ⟨hs, -⟩ | ⟨-, heq⟩ := s.enterSafe_cases c n cause
  · exact absurd hs h
  have hcause : (s.safeBegun c n cause).rd (PIN.STATE_SAFE_CAUSE c n) = cause % 16 := State.rd_wr_self ..
  rw [heq]
  split
  · refine ⟨?_, fun d => State.cell_measAborted ..⟩
    rw [State.rd_measAborted _ _ _ (by simp [noResult, Fld.key]; omega), hcause]
  · exact ⟨hcause, fun _ => rfl⟩

/-- R161: the lane is then safe or entering. -/
theorem State.safing_enterSafe : (s.enterSafe c n cause).Safing c n := by
  by_cases h : s.Safing c n
  · obtain ⟨-, heq⟩ | ⟨hn, -⟩ := s.enterSafe_cases c n cause
    · rwa [heq]
    · exact absurd h hn
  · refine .inr ?_
    rw [(State.enterSafe_begun c n cause h).2]
    simp [State.safeBegun]

/-- A lane that is safe or entering stays so when another one enters. -/
theorem State.Safing.enterSafe {d k : Nat} (h : s.Safing d k) : (s.enterSafe c n cause).Safing d k := by
  obtain hsafe | hent := h
  · refine .inl ?_
    rw [State.flag, State.rd_enterSafe c n cause (by simp [safeKeys, noResult, Fld.key]; omega)]
    exact hsafe
  · by_cases hs : s.Safing c n
    · obtain ⟨-, heq⟩ | ⟨hn, -⟩ := s.enterSafe_cases c n cause
      · rw [heq]
        exact .inr hent
      · exact absurd hs hn
    · refine .inr ?_
      rw [(State.enterSafe_begun c n cause hs).2]
      by_cases hd : c = d
      · subst hd
        simpa [State.safeBegun] using bitOf_setBit_of_bitOf hent
      · rw [State.safeBegun, State.cell_wr, State.cell_modCell_ne _ _ hd]
        exact hent
end

/-- What every step of a fold keeps and the step of one entry brings about holds after the fold. -/
theorem State.foldl_reaches {α : Type} {f : State → α → State} {P : State → Prop} {l : List α} {x : α} (hx : x ∈ l)
    (hkeep : ∀ t y, P t → P (f t y)) (hset : ∀ t, P (f t x)) (s : State) : P (l.foldl f s) := by
  induction l generalizing s with
  | nil => exact absurd hx List.not_mem_nil
  | cons y l ih =>
    by_cases h : x ∈ l
    · exact ih h _
    · obtain rfl : x = y := (List.mem_cons.mp hx).resolve_right h
      exact List.foldlRecOn l f (hset s) fun t ht z _ => hkeep t z ht

section
variable {s : State} {cs : List Nat} {c d k : Nat} (cause : Nat)

theorem State.Safing.safeCell (h : s.Safing d k) : (s.safeCell cause c).Safing d k :=
  List.foldlRecOn (motive := fun t : State => t.Safing d k) _ _ h fun _ ht n _ => ht.enterSafe c n cause

/-- R161: every lane of a cell is then safe or entering. -/
theorem State.safing_safeCell (s : State) (hk : k < 4) : (s.safeCell cause c).Safing c k :=
  State.foldl_reaches (P := fun t : State => t.Safing c k) (f := fun t n => t.enterSafe c n cause) (List.mem_range.mpr hk)
    (fun _ n h => h.enterSafe c n cause) (fun _ => State.safing_enterSafe c k cause) s

/-- R161: every lane of the cells is then safe or entering. -/
theorem State.safing_safeCells (hd : d ∈ cs) (hk : k < 4) : (s.safeCells cause cs).Safing d k :=
  State.foldl_reaches (P := fun t : State => t.Safing d k) (f := fun t c => t.safeCell cause c) hd (fun _ _ h => h.safeCell cause)
    (fun t => t.safing_safeCell cause hk) s

@[simp] theorem State.safeCells_mem : (s.safeCells cause cs).mem = s.mem :=
  State.foldl_same State.mem fun _ _ _ => State.foldl_same State.mem fun _ _ _ => State.enterSafe_mem ..
end

/-- R162: what the end of an entry shows. -/
theorem State.finishSafe_entering {s : State} {c n : Nat} (h : bitOf (s.cell c).entering n = true) :
    s.finishSafe c n = (s.wrs [(PIN.STATE_SAFE c n, 1), (PIN.CTRL_EN c n, 0), (PIN.CTRL_STAT_EN c n, 0), (PIN.PMU_MODE c n, 0)]).modCell c
      fun x => { x with entering := clearBit x.entering n } := by
  simp [State.finishSafe, h]

end Sys2Proof.Machine

namespace Sys2Proof.Machine

/-! ## Writes of CTRL (R143, R160, R161, R163) -/

/-- R535: an address in the window of a cell. -/
theorem targetOf_cell {a c : Nat} (hc : c < 256) (hlo : cellBase c ≤ a) (hhi : a < cellBase c + 0x10000) : targetOf a = .cellRegs c := by
  simp only [cellBase] at hlo hhi
  unfold targetOf
  rw [if_neg (by omega), if_neg (by omega), if_pos (by omega), show (a - 0x2000000) / 0x10000 = c by omega]

/-- R23, R315: a register of a cell is served only with the block of the cell powered. -/
theorem State.blockOn_of_regOpen {s : State} {m a k c : Nat} (h : s.regOpen m a k = true) (ht : targetOf a = .cellRegs c) :
    s.blockOn (blockOf c) = true := by
  simp only [State.regOpen, Bool.and_eq_true, Bool.not_eq_true'] at h
  obtain ⟨⟨-, hon⟩, -⟩ := h
  simp only [ht, State.domainOff, Target.domains, Option.any_some, Bool.or_eq_false_iff, Bool.not_eq_false'] at hon
  obtain ⟨⟨hblk, -⟩, -⟩ := hon
  exact hblk

/-- The fields of CTRL besides EN. -/
def ctrlFields (c n : Nat) : List Fld :=
  [PIN.CTRL_UNUSED c n, PIN.CTRL_UNCAL c n, PIN.CTRL_LSEL c n, PIN.CTRL_TERM c n, PIN.CTRL_STAT_EN c n, PIN.CTRL_STAT c n]

theorem nodup_ctrlFields (c n : Nat) : ((ctrlFields c n).map Fld.key).Nodup := by
  simp [ctrlFields, Fld.key]

section
variable (s : State) (c n mask v : Nat)

/-- A write of the bits of a mask, in each of some fields. -/
def State.mergedAll (fs : List Fld) : List (Fld × Nat) := fs.map fun f => (f, s.merged f mask v)

/-- R146: these fields are written; a change of LSEL changes levels in use. -/
def State.ctrlWritten : State :=
  if s.merged (PIN.CTRL_LSEL c n) mask v != s.rd (PIN.CTRL_LSEL c n) then (s.wrs (s.mergedAll mask v (ctrlFields c n))).levelsMove c n
  else s.wrs (s.mergedAll mask v (ctrlFields c n))

/-- R143, R160, R161: a write of CTRL that is taken: the cell is not busy, and no field takes a reserved value. -/
structure State.CtrlTaken : Prop where
  term : s.merged (PIN.CTRL_TERM c n) mask v ≠ 3
  stat : s.merged (PIN.CTRL_STAT c n) mask v ≠ 2
  idle : s.cellBusy c = false

@[simp] theorem State.ctrlWritten_mem : (s.ctrlWritten c n mask v).mem = s.mem := by
  unfold State.ctrlWritten
  split <;> simp [State.levelsMove]

@[simp] theorem State.cell_ctrlWritten (d : Nat) : (s.ctrlWritten c n mask v).cell d = s.cell d := by
  unfold State.ctrlWritten
  split <;> simp [State.levelsMove]

variable {s c n mask v}

/-- Fields apart read as the write has them. -/
theorem State.rd_wrs_mergedAll {t : State} {fs : List Fld} {f : Fld} (hn : (fs.map Fld.key).Nodup) (hf : f ∈ fs) :
    (t.wrs (s.mergedAll mask v fs)).rd f = s.merged f mask v := by
  have hkeys : (s.mergedAll mask v fs).map (fun e => e.1.key) = fs.map Fld.key := by simp [State.mergedAll]
  have hm : (f, s.merged f mask v) ∈ s.mergedAll mask v fs := List.mem_map_of_mem hf
  rw [t.rd_wrs_of_mem (hkeys ▸ hn) hm, Nat.mod_eq_of_lt (s.merged_lt ..)]

/-- The other registers stay. -/
theorem State.rd_wrs_mergedAll_ne {t : State} {fs : List Fld} {f : Fld} (hf : f.key ∉ fs.map Fld.key) :
    (t.wrs (s.mergedAll mask v fs)).rd f = t.rd f := by
  have hkeys : (s.mergedAll mask v fs).map (fun e => e.1.key) = fs.map Fld.key := by simp [State.mergedAll]
  exact (onlyRegs_wrs t _).2 f (hkeys ▸ hf)

/-- LS_BUSY aside, the fields of CTRL alone differ. -/
theorem State.rd_ctrlWritten_wrs {f : Fld} (h : f.key ≠ (PIN.STATE_LS_BUSY c n).key) :
    (s.ctrlWritten c n mask v).rd f = (s.wrs (s.mergedAll mask v (ctrlFields c n))).rd f := by
  unfold State.ctrlWritten
  split
  · rw [State.levelsMove, State.rd_wr_ne _ _ h.symm, State.rd_disturb]
  · rfl

/-- These fields read as the write has them. -/
theorem State.rd_ctrlWritten_of_mem {f : Fld} (hf : f ∈ ctrlFields c n) : (s.ctrlWritten c n mask v).rd f = s.merged f mask v := by
  have hk : f.key ≠ (PIN.STATE_LS_BUSY c n).key := by
    simp only [ctrlFields, List.mem_cons, List.not_mem_nil, or_false] at hf
    rcases hf with rfl | rfl | rfl | rfl | rfl | rfl <;> simp only [Fld.key] <;> omega
  rw [State.rd_ctrlWritten_wrs hk, State.rd_wrs_mergedAll (nodup_ctrlFields c n) hf]

/-- Registers other than CTRL and LS_BUSY stay. -/
theorem State.rd_ctrlWritten {f : Fld} (h : f.key ∉ (PIN.STATE_LS_BUSY c n).key :: (ctrlFields c n).map Fld.key) :
    (s.ctrlWritten c n mask v).rd f = s.rd f := by
  obtain ⟨hbusy, hctrl⟩ := List.ne_and_not_mem_of_not_mem_cons h
  rw [State.rd_ctrlWritten_wrs hbusy, State.rd_wrs_mergedAll_ne hctrl]

/-- An aborted slice (R496) does not change whether the write is taken. -/
theorem State.CtrlTaken.abortSlice (h : s.CtrlTaken c n mask v) (hit : Bool) : (s.abortSlice hit).CtrlTaken c n mask v where
  term := by rw [State.merged_abortSlice _ _ _ not_isSelfTest_lane]; exact h.term
  stat := by rw [State.merged_abortSlice _ _ _ not_isSelfTest_lane]; exact h.stat
  idle := by rw [State.cellBusy_abortSlice]; exact h.idle

/-- R496: nor whether a lane may be enabled. -/
@[simp] theorem State.mayEnable_abortSlice (hit : Bool) (unused uncal : Nat) :
    (s.abortSlice hit).mayEnable c n unused uncal = s.mayEnable c n unused uncal := by
  simp (disch := (simp only [IsSelfTest, Fld.key, cellBase]; omega)) only [State.mayEnable, State.blockOn, State.rd_abortSlice,
    State.flag_abortSlice, State.cellBusy_abortSlice, State.cal_abortSlice]

variable {t : State} (ht : t = s.abortSlice (s.sliceLane c n)) (h : t.CtrlTaken c n mask v)
include ht h

/-- R163: the write enables the lane. -/
theorem State.writePinCtrl_enable (hon : t.flag (PIN.CTRL_EN c n) = false) (hen : t.merged (PIN.CTRL_EN c n) mask v = 1)
    (hmay : t.mayEnable c n (t.merged (PIN.CTRL_UNUSED c n) mask v) (t.merged (PIN.CTRL_UNCAL c n) mask v) = true) :
    s.writePinCtrl c n mask v = ((t.ctrlWritten c n mask v).enableLane c n).staticDrive c n := by
  simp only [State.writePinCtrl, ← ht]
  simp [h.term, h.stat, h.idle, hon, hen, hmay, State.ctrlWritten, State.mergedAll, ctrlFields]

/-- R161: the write disables the lane. -/
theorem State.writePinCtrl_disable (hon : t.flag (PIN.CTRL_EN c n) = true) (hen : t.merged (PIN.CTRL_EN c n) mask v = 0) :
    s.writePinCtrl c n mask v = (((t.ctrlWritten c n mask v).enterSafe c n 4).wr (PIN.CTRL_EN c n) 0).staticDrive c n := by
  simp only [State.writePinCtrl, ← ht]
  simp [h.term, h.stat, h.idle, hon, hen, State.ctrlWritten, State.mergedAll, ctrlFields]

/-- R160: the write puts an enabled lane under static drive. -/
theorem State.writePinCtrl_static (hon : t.flag (PIN.CTRL_EN c n) = true) (hen : t.merged (PIN.CTRL_EN c n) mask v = 1)
    (hunused : t.merged (PIN.CTRL_UNUSED c n) mask v = 0) (hsen : t.merged (PIN.CTRL_STAT_EN c n) mask v = 1) :
    s.writePinCtrl c n mask v = (t.ctrlWritten c n mask v).staticDrive c n := by
  simp only [State.writePinCtrl, ← ht]
  simp [h.term, h.stat, h.idle, hon, hen, hunused, hsen, State.ctrlWritten, State.mergedAll, ctrlFields]
end

/-! ### The three commands -/

section
variable {s : State} {c n mask v : Nat} (ho : s.regOpen 0 (PIN.CTRL_EN c n).addr = true)
include ho

/-- R163, R168, R378: LANE_ENABLE of a lane that may be enabled. -/
theorem exec_laneEnable_taken (hc : c < 256) (hn : n < 4) (h : s.CtrlTaken c n (setBit mask 0) (setBit v 0))
    (hoff : s.flag (PIN.CTRL_EN c n) = false) (hsafe : s.flag (PIN.STATE_SAFE c n) = true)
    (hunused : s.merged (PIN.CTRL_UNUSED c n) (setBit mask 0) (setBit v 0) = 0) (hlc : s.rd LC.STATE_STATE ≠ 7)
    (hcal : CalRun.block (blockOf c) ∉ s.cal)
    (hsrc : s.rd (PIN.STATE_CAL_SRC c n) = 1 ∨ s.rd (PIN.STATE_CAL_SRC c n) = 2 ∨
      (s.merged (PIN.CTRL_UNCAL c n) (setBit mask 0) (setBit v 0) = 1 ∧ s.flag (SEQ.CTRL_SERVICE c) = true)) :
    ∃ t, exec (.laneEnable c n mask v) s = .next t ∧ t.rd (PIN.CTRL_EN c n) = 1 ∧ t.rd (PIN.STATE_SAFE c n) = 0 ∧ t.mem = s.mem := by
  have hblk : s.blockOn (blockOf c) = true :=
    State.blockOn_of_regOpen ho (targetOf_cell hc (by simp only [cellBase]; omega) (by simp only [cellBase]; omega))
  have hen : s.merged (PIN.CTRL_EN c n) (setBit mask 0) (setBit v 0) = 1 := by
    rw [State.merged_covered _ _ _ (bits_setBit_self mask 0)]
    exact bits_setBit_self v 0
  have hw : s.writePinCtrl c n (setBit mask 0) (setBit v 0) =
      (((s.abortSlice (s.sliceLane c n)).ctrlWritten c n (setBit mask 0) (setBit v 0)).enableLane c n).staticDrive c n := by
    refine State.writePinCtrl_enable rfl (h.abortSlice _) ?_ ?_ ?_
    · rw [State.flag_abortSlice _ not_isSelfTest_lane, hoff]
    · rw [State.merged_abortSlice _ _ _ not_isSelfTest_lane, hen]
    · rw [State.mayEnable_abortSlice, State.merged_abortSlice _ _ _ not_isSelfTest_lane,
        State.merged_abortSlice _ _ _ not_isSelfTest_lane, hunused]
      simp [State.mayEnable, hsafe, h.idle, hlc, hblk, hcal, hsrc, or_assoc]
  refine ⟨_, congrArg Host.Outcome.next ((State.atReg_open _ ho).trans hw), ?_, ?_, by simp⟩
  · rw [State.rd_staticDrive, (State.rd_enableLane ..).1]
  · rw [State.rd_staticDrive, (State.rd_enableLane ..).2]
end
end Sys2Proof.Machine

namespace Sys2Proof.Machine

/-- R160: what static drive does to a lane that may drive. -/
theorem State.level_staticDrive {s : State} {c n : Nat} (hsen : s.flag (PIN.CTRL_STAT_EN c n) = true)
    (hen : s.flag (PIN.CTRL_EN c n) = true) (hpmu : s.rd (PIN.PMU_MODE c n) = 0) (hidle : s.cellBusy c = false)
    (hent : bitOf (s.cell c).entering n = false) :
    bits ((s.staticDrive c n).cell c).level (2 * n) 2 = s.rd (PIN.CTRL_STAT c n) := by
  have hlt : s.rd (PIN.CTRL_STAT c n) < 4 := s.rd_lt _
  simp [State.staticDrive, hsen, hen, hpmu, hidle, hent, Nat.mod_eq_of_lt hlt]

theorem State.Safing.congr {s t : State} {c n : Nat} (h : s.Safing c n) (hrd : t.rd (PIN.STATE_SAFE c n) = s.rd (PIN.STATE_SAFE c n))
    (hent : (t.cell c).entering = (s.cell c).entering) : t.Safing c n := by
  rw [State.Safing, State.flag, hrd, hent]
  exact h

section
variable {s : State} {c n mask v : Nat} (ho : s.regOpen 0 (PIN.CTRL_EN c n).addr = true)
include ho

/-- R161: LANE_DISABLE of an enabled lane. -/
theorem exec_laneDisable_taken (h : s.CtrlTaken c n (setBit mask 0) (clearBit v 0)) (hon : s.flag (PIN.CTRL_EN c n) = true) :
    ∃ t, exec (.laneDisable c n mask v) s = .next t ∧ t.rd (PIN.CTRL_EN c n) = 0 ∧ t.mem = s.mem ∧ t.Safing c n ∧
      (¬ s.Safing c n → t.rd (PIN.STATE_SAFE_CAUSE c n) = 4) := by
  have hen : s.merged (PIN.CTRL_EN c n) (setBit mask 0) (clearBit v 0) = 0 := by
    rw [State.merged_covered _ _ _ (bits_setBit_self mask 0)]
    exact bits_clearBit_self v 0
  let u := (s.abortSlice (s.sliceLane c n)).ctrlWritten c n (setBit mask 0) (clearBit v 0)
  have hw : s.writePinCtrl c n (setBit mask 0) (clearBit v 0) = ((u.enterSafe c n 4).wr (PIN.CTRL_EN c n) 0).staticDrive c n := by
    refine State.writePinCtrl_disable rfl (h.abortSlice _) ?_ ?_
    · rw [State.flag_abortSlice _ not_isSelfTest_lane, hon]
    · rw [State.merged_abortSlice _ _ _ not_isSelfTest_lane, hen]
  refine ⟨_, congrArg Host.Outcome.next ((State.atReg_open _ ho).trans hw), ?_, by simp [u], ?_, fun hs => ?_⟩
  · rw [State.rd_staticDrive, State.rd_wr_self, Nat.zero_mod]
  · refine (State.safing_enterSafe c n 4 (s := u)).congr ?_ (by rw [State.entering_staticDrive, State.cell_wr])
    rw [State.rd_staticDrive, State.rd_wr_ne _ _ (by simp only [Fld.key]; omega)]
  · have hu : ¬ u.Safing c n := by
      refine fun hu => hs (hu.congr ?_ (by simp [u]))
      rw [State.rd_ctrlWritten (by simp [ctrlFields, Fld.key]; omega), State.rd_abortSlice _ _ not_isSelfTest_lane]
    rw [State.rd_staticDrive, State.rd_wr_ne _ _ (by simp only [Fld.key]; omega), (State.enterSafe_begun c n 4 hu).1]

/-- R160: STATIC_DRIVE of an enabled lane that may drive. -/
theorem exec_staticDrive_taken (hn : n < 4) (h : s.CtrlTaken c n (setBit mask 6) (setBit v 6)) (hon : s.flag (PIN.CTRL_EN c n) = true)
    (hen : s.merged (PIN.CTRL_EN c n) (setBit mask 6) (setBit v 6) = 1) (hpmu : s.rd (PIN.PMU_MODE c n) = 0)
    (hent : bitOf (s.cell c).entering n = false) (hunused : s.merged (PIN.CTRL_UNUSED c n) (setBit mask 6) (setBit v 6) = 0) :
    ∃ t, exec (.staticDrive c n mask v) s = .next t ∧ t.rd (PIN.CTRL_STAT_EN c n) = 1 ∧
      t.rd (PIN.CTRL_STAT c n) = s.merged (PIN.CTRL_STAT c n) (setBit mask 6) (setBit v 6) ∧
      bits (t.cell c).level (2 * n) 2 = t.rd (PIN.CTRL_STAT c n) ∧ t.mem = s.mem := by
  have hsen : s.merged (PIN.CTRL_STAT_EN c n) (setBit mask 6) (setBit v 6) = 1 := by
    rw [State.merged_covered _ _ _ (bits_setBit_self mask 6)]
    exact bits_setBit_self v 6
  let u := (s.abortSlice (s.sliceLane c n)).ctrlWritten c n (setBit mask 6) (setBit v 6)
  have hw : s.writePinCtrl c n (setBit mask 6) (setBit v 6) = u.staticDrive c n := by
    refine State.writePinCtrl_static rfl (h.abortSlice _) ?_ ?_ ?_ ?_
    · rw [State.flag_abortSlice _ not_isSelfTest_lane, hon]
    · rw [State.merged_abortSlice _ _ _ not_isSelfTest_lane, hen]
    · rw [State.merged_abortSlice _ _ _ not_isSelfTest_lane, hunused]
    · rw [State.merged_abortSlice _ _ _ not_isSelfTest_lane, hsen]
  have hkeep {f : Fld} (hf : f.key ∉ (PIN.STATE_LS_BUSY c n).key :: (ctrlFields c n).map Fld.key) (ha : 0x2000000 ≤ f.addr) :
      u.rd f = s.rd f := by
    rw [State.rd_ctrlWritten hf, State.rd_abortSlice _ _ (not_isSelfTest ha)]
  have husen : u.rd (PIN.CTRL_STAT_EN c n) = 1 := by
    rw [State.rd_ctrlWritten_of_mem (by simp [ctrlFields]), State.merged_abortSlice _ _ _ not_isSelfTest_lane, hsen]
  refine ⟨_, congrArg Host.Outcome.next ((State.atReg_open _ ho).trans hw), ?_, ?_, ?_, by simp [u]⟩
  · rw [State.rd_staticDrive, husen]
  · rw [State.rd_staticDrive, State.rd_ctrlWritten_of_mem (by simp [ctrlFields]), State.merged_abortSlice _ _ _ not_isSelfTest_lane]
  · rw [State.rd_staticDrive]
    refine State.level_staticDrive (beq_iff_eq.mpr husen) ?_ ?_ ?_ (by simpa [u] using hent)
    · rw [State.flag, hkeep (by simp [ctrlFields, Fld.key]; omega) (by simp only [cellBase]; omega)]
      exact hon
    · rw [hkeep (by simp [ctrlFields, Fld.key]; omega) (by simp only [cellBase]; omega), hpmu]
    · rw [← h.idle]
      exact State.cellBusy_congr (hkeep (by simp [ctrlFields, Fld.key]; omega) (by simp only [cellBase]; omega))
        (hkeep (by simp [ctrlFields, Fld.key]; omega) (by simp only [cellBase]; omega))
        fun l => hkeep (by simp [ctrlFields, Fld.key]; omega) (by simp only [cellBase]; omega)
end

end Sys2Proof.Machine

namespace Sys2Proof.Machine

/-! ## Level sets (R144 to R146) and the PPMU (R153) -/

theorem nodup_levelFields (c n m which : Nat) : ((levelFields c n m which).map Fld.key).Nodup := by
  unfold levelFields
  split <;> simp [Fld.key]

/-- The level fields lie in the window of their cell, apart from LS_BUSY. -/
theorem levelFields_addr {c n m which : Nat} (hn : n < 4) : ∀ f ∈ levelFields c n m which,
    0x2000000 ≤ f.addr ∧ (PIN.STATE_LS_BUSY c n).key ≠ f.key := by
  unfold levelFields
  split <;> simp [Fld.key, cellBase] <;> omega

section
variable {s : State} {c n m which mask v : Nat}

/-- R144: a code that is too large makes the write ignored. -/
theorem State.writeLevels_large (hbst : s.bst.run = none) (h : ∃ f ∈ levelFields c n m which, 41000 < s.merged f mask v) :
    s.writeLevels c n m which mask v = s.pinIgnored c := by
  simp only [State.writeLevels, State.abortSlice_idle _ hbst]
  refine if_pos (List.any_eq_true.mpr ?_)
  obtain ⟨f, hf, hlarge⟩ := h
  exact ⟨f, hf, decide_eq_true hlarge⟩

/-- R146: a set of legal codes is written; a change of the set in use starts the settling of the levels. -/
theorem State.writeLevels_legal {t : State} (ht : t = s.abortSlice (s.sliceLane c n))
    (h : ∀ f ∈ levelFields c n m which, t.merged f mask v ≤ 41000) : s.writeLevels c n m which mask v =
      if (levelFields c n m which).any (fun f => t.merged f mask v != t.rd f) && m == t.rd (PIN.CTRL_LSEL c n) then
        (t.wrs (t.mergedAll mask v (levelFields c n m which))).levelsMove c n
      else t.wrs (t.mergedAll mask v (levelFields c n m which)) := by
  simp only [State.writeLevels, ← ht, State.mergedAll]
  refine if_neg ?_
  rw [Bool.not_eq_true, List.any_eq_false]
  intro f hf
  rw [decide_eq_true_iff]
  exact Nat.not_lt.mpr (h f hf)

/-- R146: LEVEL_SET_WRITE of legal codes. -/
theorem exec_levelSetWrite_legal (hn : n < 4) (hwhich : which < 2) (ho : s.regOpen 0 (PIN.LSA_VOH c n m).addr = true)
    (h : ∀ f ∈ levelFields c n m which, s.merged f mask v ≤ 41000) :
    ∃ t, exec (.levelSetWrite c n m which mask v) s = .next t ∧ t.mem = s.mem ∧
      (∀ f ∈ levelFields c n m which, t.rd f = s.merged f mask v) ∧
      (m = s.rd (PIN.CTRL_LSEL c n) → (∃ f ∈ levelFields c n m which, s.merged f mask v ≠ s.rd f) →
        t.rd (PIN.STATE_LS_BUSY c n) = 1) := by
  let u := s.abortSlice (s.sliceLane c n)
  have hu (f : Fld) (ha : 0x2000000 ≤ f.addr) : u.rd f = s.rd f ∧ u.merged f mask v = s.merged f mask v :=
    ⟨s.rd_abortSlice _ (not_isSelfTest ha), s.merged_abortSlice _ _ _ (not_isSelfTest ha)⟩
  have hfields (f : Fld) (hf : f ∈ levelFields c n m which) := hu f (levelFields_addr hn f hf).1
  have hlsel : u.rd (PIN.CTRL_LSEL c n) = s.rd (PIN.CTRL_LSEL c n) := (hu _ (by simp only [cellBase]; omega)).1
  have hw := State.writeLevels_legal (s := s) (t := u) rfl fun f hf => (hfields f hf).2 ▸ h f hf
  have hread (f : Fld) (hf : f ∈ levelFields c n m which) :
      (u.wrs (u.mergedAll mask v (levelFields c n m which))).rd f = s.merged f mask v := by
    rw [State.rd_wrs_mergedAll (nodup_levelFields ..) hf, (hfields f hf).2]
  refine ⟨s.writeLevels c n m which mask v, congrArg Host.Outcome.next ((State.atReg_open _ ho).trans (if_neg (by omega))), ?_,
    fun f hf => ?_, fun hm hchange => ?_⟩
  · rw [hw]
    split <;> simp [State.levelsMove, u]
  · rw [hw]
    split
    · rw [State.levelsMove, State.rd_wr_ne _ _ (levelFields_addr hn f hf).2, State.rd_disturb, hread f hf]
    · exact hread f hf
  · obtain ⟨f, hf, hne⟩ := hchange
    rw [hw, if_pos]
    · exact State.rd_wr_self ..
    · rw [Bool.and_eq_true, List.any_eq_true, beq_iff_eq, hlsel]
      exact ⟨⟨f, hf, by rw [bne_iff_ne, (hfields f hf).1, (hfields f hf).2]; exact hne⟩, hm⟩
end

/-! ### PMU -/

/-- The fields of PMU. -/
def pmuFields (c n : Nat) : List Fld := [PIN.PMU_MODE c n, PIN.PMU_RANGE c n, PIN.PMU_FORCE c n, PIN.PMU_VCLH c n, PIN.PMU_VCLL c n]

theorem nodup_pmuFields (c n : Nat) : ((pmuFields c n).map Fld.key).Nodup := by
  simp [pmuFields, Fld.key]

section
variable {s : State} {c n mask v : Nat}

/-- R153: mode 3 is reserved. -/
theorem State.writePmu_reserved (hbst : s.bst.run = none) (h : s.merged (PIN.PMU_MODE c n) mask v = 3) :
    s.writePmu c n mask v = s.pinIgnored c := by
  simp [State.writePmu, State.abortSlice_idle _ hbst, h]

/-- The fields of PMU as a write leaves them; a write that changes what is forced or clamped disturbs a measurement (R157). -/
def State.pmuWritten (s : State) (c n mask v : Nat) : State :=
  let t := s.wrs (s.mergedAll mask v (pmuFields c n))
  if [PIN.PMU_RANGE c n, PIN.PMU_FORCE c n, PIN.PMU_VCLH c n, PIN.PMU_VCLL c n].any fun f => s.merged f mask v != s.rd f then
    t.disturb c n
  else t

theorem State.rd_pmuWritten (f : Fld) : (s.pmuWritten c n mask v).rd f = (s.wrs (s.mergedAll mask v (pmuFields c n))).rd f := by
  unfold State.pmuWritten
  dsimp only
  split <;> simp

@[simp] theorem State.pmuWritten_mem : (s.pmuWritten c n mask v).mem = s.mem := by
  unfold State.pmuWritten
  dsimp only
  split <;> simp

/-- R153: a write of PMU to a force or measure mode is taken: its codes are legal and the lane may change its mode. -/
structure State.PmuTaken (s : State) (c n mask v : Nat) : Prop where
  mode : s.merged (PIN.PMU_MODE c n) mask v ∈ [1, 2]
  off : s.rd (PIN.PMU_MODE c n) = 0
  high : s.merged (PIN.PMU_VCLH c n) mask v ≤ 41000
  low : s.merged (PIN.PMU_VCLL c n) mask v ≤ 41000
  force : s.merged (PIN.PMU_MODE c n) mask v = 1 → s.merged (PIN.PMU_FORCE c n) mask v ≤ 41000
  idle : s.cellBusy c = false
  on : s.flag (PIN.CTRL_EN c n) = true
  used : s.flag (PIN.CTRL_UNUSED c n) = false

theorem State.PmuTaken.abortSlice (h : s.PmuTaken c n mask v) (hit : Bool) : (s.abortSlice hit).PmuTaken c n mask v := by
  obtain ⟨mode, off, high, low, force, idle, on, used⟩ := h
  constructor <;>
  simp (disch := (simp only [IsSelfTest, Fld.key, cellBase]; omega)) only [State.rd_abortSlice, State.flag_abortSlice,
    State.merged_abortSlice, State.cellBusy_abortSlice] <;> assumption

/-- R153: the PPMU takes over; the driver goes off. -/
theorem State.writePmu_taken {t : State} (ht : t = s.abortSlice (s.sliceLane c n)) (h : t.PmuTaken c n mask v) :
    s.writePmu c n mask v = (t.pmuWritten c n mask v).setLevel c n 3 := by
  obtain ⟨mode, off, high, low, force, idle, on, used⟩ := h
  have hmode : t.merged (PIN.PMU_MODE c n) mask v = 1 ∨ t.merged (PIN.PMU_MODE c n) mask v = 2 := by simpa using mode
  simp only [State.writePmu, ← ht, State.pmuWritten, State.mergedAll, pmuFields]
  rw [if_neg, if_neg, if_neg]
  · omega
  · omega
  · rintro (h | h | h | ⟨h1, h⟩ | ⟨-, h⟩)
    · omega
    · exact absurd high (Nat.not_le.mpr h)
    · exact absurd low (Nat.not_le.mpr h)
    · exact absurd (force h1) (Nat.not_le.mpr h)
    · simp [idle, on, used] at h

/-- R153: PMU_WRITE to a force or measure mode. -/
theorem exec_pmuWrite_taken (ho : s.regOpen 0 (PIN.PMU_MODE c n).addr = true) (h : s.PmuTaken c n mask v) :
    ∃ t, exec (.pmuWrite c n mask v) s = .next t ∧ bits (t.cell c).level (2 * n) 2 = 3 ∧ t.mem = s.mem ∧
      ∀ f ∈ pmuFields c n, t.rd f = s.merged f mask v := by
  refine ⟨_, congrArg Host.Outcome.next ((State.atReg_open _ ho).trans (State.writePmu_taken rfl (h.abortSlice _))),
    State.level_setLevel .., by simp, fun f hf => ?_⟩
  have ha : 0x2000000 ≤ f.addr := by
    simp only [pmuFields, List.mem_cons, List.not_mem_nil, or_false] at hf
    rcases hf with rfl | rfl | rfl | rfl | rfl <;> simp only [cellBase] <;> omega
  rw [State.rd_setLevel, State.rd_pmuWritten, State.rd_wrs_mergedAll (nodup_pmuFields c n) hf,
    State.merged_abortSlice _ _ _ (not_isSelfTest ha)]
end

/-! ## The end of an entry (R162) -/

/-- R162: SAFE_STATE_DONE of a lane that enters the safe state. -/
theorem exec_safeStateDone_entering {s : State} {c n : Nat} (h : bitOf (s.cell c).entering n = true) :
    ∃ t, exec (.safeStateDone c n) s = .next t ∧ t.rd (PIN.STATE_SAFE c n) = 1 ∧ t.rd (PIN.CTRL_EN c n) = 0 ∧
      t.rd (PIN.CTRL_STAT_EN c n) = 0 ∧ t.rd (PIN.PMU_MODE c n) = 0 ∧ bitOf (t.cell c).entering n = false ∧ t.mem = s.mem := by
  let l : List (Fld × Nat) := [(PIN.STATE_SAFE c n, 1), (PIN.CTRL_EN c n, 0), (PIN.CTRL_STAT_EN c n, 0), (PIN.PMU_MODE c n, 0)]
  have hn : (l.map fun e => e.1.key).Nodup := by
    simp [l, Fld.key]
    omega
  have hread {f : Fld} {v : Nat} (hm : (f, v) ∈ l) (hv : v < 2 ^ f.width) :
      ((s.wrs l).modCell c fun x => { x with entering := clearBit x.entering n }).rd f = v := by
    rw [State.rd_modCell, s.rd_wrs_of_mem hn hm, Nat.mod_eq_of_lt hv]
  exact ⟨_, congrArg Host.Outcome.next (State.finishSafe_entering h), hread (by simp [l]) (by simp), hread (by simp [l]) (by simp),
    hread (by simp [l]) (by simp), hread (by simp [l]) (by simp), by simp, by simp⟩

/-- Settles O20: command by command, on the rules of the lane's operations. -/
theorem laneControl : Obligations.LaneControl := by
  unfold Obligations.LaneControl
  refine ⟨fun s c n mask v hc hn => ⟨fun hterm hstat hoff hsafe hidle hunused hlc hcal hsrc ho => ?_, fun hterm hstat hon hidle ho => ?_,
    fun hterm hstat hon hen hidle hpmu hent hunused ho => ?_⟩, fun s c n m which mask v _ hn _ hwhich ho => ⟨fun h => ?_, fun hbst h => ?_⟩,
    fun s c n => rfl, fun s c n mask v _ _ ho => ⟨fun hbst h => ?_, fun hmode hoff hhigh hlow hforce hidle hon hused => ?_⟩,
    fun s c n _ _ h => exec_safeStateDone_entering h, fun s r _ => ⟨_, rfl, ?_, fun c hc n hn => ?_⟩⟩
  · exact exec_laneEnable_taken ho hc hn ⟨hterm, hstat, hidle⟩ hoff hsafe hunused hlc hcal hsrc
  · obtain ⟨t, hx, hen, hmem, hsafing, hcause⟩ := exec_laneDisable_taken ho ⟨hterm, hstat, hidle⟩ hon
    refine ⟨t, hx, hen, hmem, hsafing.imp_left beq_iff_eq.mp, fun hsafe hent => hcause ?_⟩
    rw [State.safing_iff, hsafe, hent]
    decide
  · exact exec_staticDrive_taken ho hn ⟨hterm, hstat, hidle⟩ hon hen hpmu hent hunused
  · exact exec_levelSetWrite_legal hn hwhich ho h
  · exact congrArg Host.Outcome.next ((State.atReg_open _ ho).trans ((if_neg (by omega)).trans (State.writeLevels_large hbst h)))
  · exact congrArg Host.Outcome.next ((State.atReg_open _ ho).trans (State.writePmu_reserved hbst h))
  · exact exec_pmuWrite_taken ho ⟨hmode, hoff, hhigh, hlow, hforce, hidle, hon, hused⟩
  · exact State.safeCells_mem ..
  · exact State.safing_safeCells 5 hc hn

end Sys2Proof.Machine

namespace Sys2Proof.Machine

/-! ## Measurements (R156 to R158) -/

/-- Writes of registers leave the rest of the state. -/
@[simp] theorem State.wrs_blocks (s : State) (l : List (Fld × Nat)) : (s.wrs l).blocks = s.blocks := by
  rw [(onlyRegs_wrs s l).1]

@[simp] theorem State.wrs_pulses (s : State) (l : List (Fld × Nat)) : (s.wrs l).pulses = s.pulses := by
  rw [(onlyRegs_wrs s l).1]

/-- R425: a source that fires. -/
theorem State.pulses_pulse (s : State) (n : Nat) : (s.pulse n).pulses = s.pulses ++ [n] := rfl

/-- The fields of MEAS that a request takes. -/
def measFields (c n : Nat) : List Fld := [PIN.MEAS_SRC c n, PIN.MEAS_NAVG c n, PIN.MEAS_DELAY c n]

theorem nodup_measFields (c n : Nat) : ((measFields c n).map Fld.key).Nodup := by
  simp [measFields, Fld.key]

/-- PEND and the fields of RESULT lie apart. -/
theorem nodup_resultFields (c n pend value valid kind clamp ovr disturb aborted : Nat) :
    (((PIN.MEAS_PEND c n, pend) :: resultFields c n [value, valid, kind, clamp, ovr, disturb, aborted]).map fun e => e.1.key).Nodup := by
  simp [resultFields, Fld.key]
  omega

section
variable {s : State} {c n mask v : Nat}

/-- R156: the state after MEAS has taken a request and RESULT is cleared. -/
def State.measAsked (s : State) (c n mask v : Nat) : State :=
  (s.wrs (s.mergedAll mask v (measFields c n))).wrs (resultFields c n [0, 0, 0, 0, 0, 0, 0])

theorem State.measAsked_onlyRegs : OnlyRegs s (s.measAsked c n mask v) (((s.mergedAll mask v (measFields c n)).map fun e => e.1.key) ++
    (resultFields c n [0, 0, 0, 0, 0, 0, 0]).map fun e => e.1.key) :=
  (onlyRegs_wrs s _).trans (onlyRegs_wrs _ _)

theorem State.rd_measAsked_src : (s.measAsked c n mask v).rd (PIN.MEAS_SRC c n) = s.merged (PIN.MEAS_SRC c n) mask v := by
  rw [State.measAsked, State.rd_wrs_ne _ _ (by simp [resultFields, Fld.key]; omega),
    State.rd_wrs_mergedAll (nodup_measFields c n) (by simp [measFields])]

theorem State.rd_measAsked_mode : (s.measAsked c n mask v).rd (PIN.PMU_MODE c n) = s.rd (PIN.PMU_MODE c n) := by
  refine State.measAsked_onlyRegs.2 _ ?_
  simp [State.mergedAll, measFields, resultFields, Fld.key]
  omega

/-- R156: RESULT is cleared. -/
theorem State.rd_measAsked_result {f : Fld} (hm : (f, 0) ∈ resultFields c n [0, 0, 0, 0, 0, 0, 0]) :
    (s.measAsked c n mask v).rd f = 0 := by
  have hn : ((resultFields c n [0, 0, 0, 0, 0, 0, 0]).map fun e => e.1.key).Nodup := (nodup_resultFields c n 0 0 0 0 0 0 0 0).tail
  rw [State.measAsked, State.rd_wrs_of_mem _ hn hm, Nat.zero_mod]

/-- R156: a request as it enters the queue of its block's ADC. -/
def State.measRequest (s : State) (c n : Nat) : AdcReq :=
  { pin := 4 * c + n, src := s.rd (PIN.MEAS_SRC c n), navg := s.rd (PIN.MEAS_NAVG c n), elapsed := false, taken := false, done := 0,
    sum := 0, clamp := false, saturated := false, disturb := false, bonded := false }

variable (hbst : s.bst.run = none) (hpend : s.flag (PIN.MEAS_PEND c n) = false)
include hbst hpend

/-- R156: GO with no measurement pending: there is nothing to measure, or the request joins the queue. -/
theorem State.writeMeas_go : s.writeMeas c n (setBit mask 0) (setBit v 0) =
    let u := s.measAsked c n (setBit mask 0) (setBit v 0)
    if u.rd (PIN.MEAS_SRC c n) = 0 ∧ u.rd (PIN.PMU_MODE c n) = 0 then (u.wr (PIN.RESULT_VALID c n) 1).pulse (adcSource (blockOf c))
    else (u.wr (PIN.MEAS_PEND c n) 1).modBlock (blockOf c) fun x => { x with adcQ := x.adcQ ++ [u.measRequest c n] } := by
  simp only [State.writeMeas, State.abortSlice_idle _ hbst, bitOf_setBit_self, hpend]
  rfl

variable (ho : s.regOpen 0 (PIN.MEAS_GO c n).addr = true)
include ho

/-- R156: a pin-force measurement without a PPMU mode has a zero result at once. -/
theorem exec_measGo_zero (hsrc : s.merged (PIN.MEAS_SRC c n) (setBit mask 0) (setBit v 0) = 0) (hmode : s.rd (PIN.PMU_MODE c n) = 0) :
    ∃ t, exec (.measGo c n mask v) s = .next t ∧ t.rd (PIN.RESULT_VALID c n) = 1 ∧ t.rd (PIN.RESULT_VALUE c n) = 0 ∧
      t.pulses = s.pulses ++ [1024 + 4 * (c / 8) + 2] ∧ t.blocks = s.blocks ∧ t.mem = s.mem := by
  let u := s.measAsked c n (setBit mask 0) (setBit v 0)
  have hw : s.writeMeas c n (setBit mask 0) (setBit v 0) = (u.wr (PIN.RESULT_VALID c n) 1).pulse (adcSource (blockOf c)) := by
    rw [State.writeMeas_go hbst hpend]
    exact if_pos ⟨State.rd_measAsked_src.trans hsrc, State.rd_measAsked_mode.trans hmode⟩
  have hpulses : u.pulses = s.pulses := by simp [u, State.measAsked]
  have hblocks : u.blocks = s.blocks := by simp [u, State.measAsked]
  refine ⟨_, congrArg Host.Outcome.next ((State.atReg_open _ ho).trans hw), ?_, ?_, ?_, ?_, ?_⟩
  · rw [State.rd_pulse]
    exact State.rd_wr_self ..
  · rw [State.rd_pulse, State.rd_wr_ne _ _ (by simp [Fld.key])]
    exact State.rd_measAsked_result (by simp [resultFields])
  · rw [State.pulses_pulse, State.wr_pulses, hpulses, adcSource]
  · rw [State.pulse_blocks, State.wr_blocks, hblocks]
  · simp [u, State.measAsked]

/-- R156: any other request waits, last in the queue of the block's ADC. -/
theorem exec_measGo_queued (h : s.merged (PIN.MEAS_SRC c n) (setBit mask 0) (setBit v 0) ≠ 0 ∨ s.rd (PIN.PMU_MODE c n) ≠ 0) :
    ∃ t q, exec (.measGo c n mask v) s = .next t ∧ t.rd (PIN.MEAS_PEND c n) = 1 ∧ t.rd (PIN.RESULT_VALID c n) = 0 ∧
      (t.block (c / 8)).adcQ = (s.block (c / 8)).adcQ ++ [q] ∧ q.pin = 4 * c + n ∧
      q.src = s.merged (PIN.MEAS_SRC c n) (setBit mask 0) (setBit v 0) ∧ q.elapsed = false ∧ t.mem = s.mem := by
  let u := s.measAsked c n (setBit mask 0) (setBit v 0)
  have hw : s.writeMeas c n (setBit mask 0) (setBit v 0) =
      (u.wr (PIN.MEAS_PEND c n) 1).modBlock (blockOf c) fun x => { x with adcQ := x.adcQ ++ [u.measRequest c n] } := by
    rw [State.writeMeas_go hbst hpend]
    refine if_neg fun hno => ?_
    rw [State.rd_measAsked_src, State.rd_measAsked_mode] at hno
    exact h.elim (absurd hno.1) (absurd hno.2)
  have hblock : u.block (c / 8) = s.block (c / 8) := by simp [u, State.measAsked]
  refine ⟨_, u.measRequest c n, congrArg Host.Outcome.next ((State.atReg_open _ ho).trans hw), ?_, ?_, ?_, rfl,
    State.rd_measAsked_src, rfl, by simp [u, State.measAsked]⟩
  · rw [State.rd_modBlock]
    exact State.rd_wr_self ..
  · rw [State.rd_modBlock, State.rd_wr_ne _ _ (by simp only [Fld.key]; omega)]
    exact State.rd_measAsked_result (by simp [resultFields])
  · rw [State.block_modBlock_self, State.block_wr, hblock]
end

/-! ### Conversions -/

section
variable {s : State} {b c n : Nat} {code : Int} {clamp sat : Bool} {q : AdcReq}

/-- R156, R157: the last conversion of a request that hides nothing gives its result; the ADC takes the next request. -/
theorem State.conversion_last (hq : (s.block b).adcQ.find? (·.taken) = some q) (hn : n < 4) (hpin : q.pin = 4 * c + n)
    (hlast : q.done + 1 = 2 ^ q.navg) (hseen : (q.src == 1 && (q.bonded || s.bondedLane c n)) = false) :
    ∃ value ovr, s.conversion b code clamp sat =
      ((s.modBlock b fun x => { x with adcQ := takeNext (x.adcQ.filter fun e => e.pin != q.pin) }).wrs
        ((PIN.MEAS_PEND c n, 0) :: resultFields c n [value, 1, if q.src = 0 ∧ s.rd (PIN.PMU_MODE c n) = 1 then 1 else 0,
          b2n (q.clamp || clamp || s.clampCrossed c n), ovr, b2n q.disturb, 0])).pulse (adcSource b) := by
  have hcell : q.pin / 4 = c := by omega
  have hlane : q.pin % 4 = n := by omega
  simp only [State.conversion, hq, hcell, hlane, hlast, lt_irrefl, if_false, hseen, Bool.false_eq_true]
  exact ⟨_, _, rfl⟩

theorem b2n_lt (x : Bool) : b2n x < 2 := by
  cases x <;> decide

/-- What CONVERSION_DONE shows then. -/
theorem exec_conversionDone_last (hq : (s.block b).adcQ.find? (·.taken) = some q) (hn : n < 4) (hpin : q.pin = 4 * c + n)
    (hlast : q.done + 1 = 2 ^ q.navg) (hseen : (q.src == 1 && (q.bonded || s.bondedLane c n)) = false) :
    ∃ t, exec (.conversionDone b code clamp sat) s = .next t ∧ t.rd (PIN.MEAS_PEND c n) = 0 ∧ t.rd (PIN.RESULT_VALID c n) = 1 ∧
      t.rd (PIN.RESULT_ABORTED c n) = 0 ∧ t.rd (PIN.RESULT_DISTURB c n) = b2n q.disturb ∧
      t.rd (PIN.RESULT_CLAMP c n) = b2n (q.clamp || clamp || s.clampCrossed c n) ∧
      t.rd (PIN.RESULT_KIND c n) = (if q.src = 0 ∧ s.rd (PIN.PMU_MODE c n) = 1 then 1 else 0) ∧
      (t.block b).adcQ = takeNext ((s.block b).adcQ.filter fun e => e.pin != q.pin) ∧
      t.pulses = s.pulses ++ [1024 + 4 * b + 2] ∧ t.mem = s.mem := by
  obtain ⟨value, ovr, hw⟩ := State.conversion_last (code := code) (clamp := clamp) (sat := sat) hq hn hpin hlast hseen
  have hkind : (if q.src = 0 ∧ s.rd (PIN.PMU_MODE c n) = 1 then 1 else 0) < 2 := by split <;> decide
  have hread {f : Fld} {x : Nat} (hm : (f, x) ∈ (PIN.MEAS_PEND c n, 0) :: resultFields c n [value, 1,
      if q.src = 0 ∧ s.rd (PIN.PMU_MODE c n) = 1 then 1 else 0, b2n (q.clamp || clamp || s.clampCrossed c n), ovr, b2n q.disturb, 0])
      (hx : x < 2 ^ f.width) : (s.conversion b code clamp sat).rd f = x := by
    rw [hw, State.rd_pulse, State.rd_wrs_of_mem _ (nodup_resultFields ..) hm, Nat.mod_eq_of_lt hx]
  refine ⟨_, rfl, hread (by simp) (by simp), hread (by simp [resultFields]) (by simp), hread (by simp [resultFields]) (by simp),
    hread (by simp [resultFields]) (b2n_lt _), hread (by simp [resultFields]) (b2n_lt _), hread (by simp [resultFields]) hkind, ?_, ?_, ?_⟩
  · rw [hw]
    simp
  · rw [hw, State.pulses_pulse, State.wrs_pulses, State.modBlock_pulses, adcSource]
  · rw [hw]
    simp
end
end Sys2Proof.Machine

namespace Sys2Proof.Machine

/-- A count leaves every register field with another key alone. -/
theorem State.rd_count_ne (s : State) {f g : Fld} (n : Nat) (h : f.key ≠ g.key) : (s.count f n).rd g = s.rd g :=
  s.rd_wr_ne _ h

/-! ## Drive check (R150 to R152) -/

section
variable {s : State} {c n : Nat} {pin : Int} (hmade : s.dchkMade c n true = true)
include hmade

/-- R150: a lane under check is neither safe nor entering the safe state. -/
theorem State.not_safing_of_dchkMade : ¬ s.Safing c n := by
  simp only [State.dchkMade, Bool.and_eq_true, Bool.not_eq_true'] at hmade
  obtain ⟨⟨⟨⟨⟨⟨⟨-, hsafe⟩, hent⟩, -⟩, -⟩, -⟩, -⟩, -⟩ := hmade
  rw [State.safing_iff, hsafe, hent]
  decide

theorem State.driveCheck_hit (h : s.dchkMiss c n pin = false) : s.driveCheck c n true pin = s.wr (PIN.DCHK_RUN c n) 0 := by
  simp [State.driveCheck, hmade, h]

/-- R151: a pin off its level is counted; with N in a row the lane trips. -/
theorem State.driveCheck_miss (h : s.dchkMiss c n pin = true) : s.driveCheck c n true pin =
    let u := (s.count (PIN.DCHK_MISMATCH c n) 1).count (PIN.DCHK_RUN c n) 1
    if u.rd (PIN.DCHK_RUN c n) < max 1 (s.rd (PIN.DCHK_CFG_N c)) then u
    else ((u.wr (PIN.DCHK_TRIP c n) 1).enterSafe c n 3).report 0x02 c := by
  simp [State.driveCheck, hmade, h]

/-- R151, R152: DCHK_INTERVAL with the pin off its level. -/
theorem exec_dchkInterval_miss (h : s.dchkMiss c n pin = true) :
    ∃ t, exec (.dchkInterval c n true pin) s = .next t ∧ t.mem = s.mem ∧
      t.rd (PIN.DCHK_MISMATCH c n) = satAdd (PIN.DCHK_MISMATCH c n).width (s.rd (PIN.DCHK_MISMATCH c n)) 1 ∧
      (max 1 (s.rd (PIN.DCHK_CFG_N c)) ≤ satAdd (PIN.DCHK_RUN c n).width (s.rd (PIN.DCHK_RUN c n)) 1 →
        t.rd (PIN.DCHK_TRIP c n) = 1 ∧ bitOf (t.cell c).entering n = true ∧ t.rd (PIN.STATE_SAFE_CAUSE c n) = 3) := by
  let u := (s.count (PIN.DCHK_MISMATCH c n) 1).count (PIN.DCHK_RUN c n) 1
  have hrun : u.rd (PIN.DCHK_RUN c n) = satAdd (PIN.DCHK_RUN c n).width (s.rd (PIN.DCHK_RUN c n)) 1 := by
    rw [State.rd_count_self, State.rd_count_ne _ _ (by simp [Fld.key])]
  have hmiss : u.rd (PIN.DCHK_MISMATCH c n) = satAdd (PIN.DCHK_MISMATCH c n).width (s.rd (PIN.DCHK_MISMATCH c n)) 1 := by
    rw [State.rd_count_ne _ _ (by simp [Fld.key]), State.rd_count_self]
  let x := u.wr (PIN.DCHK_TRIP c n) 1
  have hsafing : ¬ x.Safing c n := by
    refine fun hx => State.not_safing_of_dchkMade hmade (hx.congr ?_ rfl)
    rw [State.rd_wr_ne _ _ (by simp only [Fld.key]; omega), State.rd_count_ne _ _ (by simp only [Fld.key]; omega),
      State.rd_count_ne _ _ (by simp only [Fld.key]; omega)]
  obtain ⟨hcause, hcell⟩ := State.enterSafe_begun c n 3 hsafing
  refine ⟨_, congrArg Host.Outcome.next (State.driveCheck_miss hmade h), ?_, ?_, fun hlimit => ?_⟩
  · dsimp only
    split <;> simp
  · dsimp only
    split
    · exact hmiss
    · rw [State.rd_report, State.rd_enterSafe _ _ _ (by simp [safeKeys, noResult, Fld.key]; omega), State.rd_wr_ne _ _ (by simp [Fld.key])]
      exact hmiss
  · have hno : ¬ u.rd (PIN.DCHK_RUN c n) < max 1 (s.rd (PIN.DCHK_CFG_N c)) := by
      rw [hrun]
      exact Nat.not_lt.mpr hlimit
    rw [if_neg hno]
    refine ⟨?_, ?_, ?_⟩
    · rw [State.rd_report, State.rd_enterSafe _ _ _ (by simp [safeKeys, noResult, Fld.key]; omega)]
      exact State.rd_wr_self ..
    · rw [State.cell_report, hcell]
      simp [State.safeBegun]
    · rw [State.rd_report]
      exact hcause
end

/-! ## Trims, timing table, UI (R169, R202, R204, R215) -/

theorem State.writeTrim_eq {s : State} {c n k mask v : Nat} (hbst : s.bst.run = none) : s.writeTrim c n k mask v =
    if s.flag (SEQ.CTRL_SERVICE c) && !s.flag CHIP.CAL_STATUS_BUSY then
      s.wrs [(PIN.TRIM_WORD c n k, s.merged (PIN.TRIM_WORD c n k) mask v), (PIN.STATE_CAL_SRC c n, 3)]
    else s.wr (PIN.STATUS_WR_IGN c) 1 := by
  simp only [State.writeTrim, State.abortSlice_idle _ hbst]
  rfl

section
variable {s : State} {c e mask v : Nat}

/-- R204: word 1 without a reserved format. -/
theorem State.writeTab_legal (h : ∀ n, n < 4 → bits mask (42 + 3 * n) 3 = 0 ∨ bits (s.merged (TIM.TAB_W1_WORD c e) mask v) (42 + 3 * n) 3 ≤ 4) :
    s.writeTab c e 1 mask v = s.wr (TIM.TAB_W1_WORD c e) (s.merged (TIM.TAB_W1_WORD c e) mask v) := by
  refine if_neg ?_
  rintro ⟨-, hany⟩
  obtain ⟨n, hn, hbad⟩ := List.any_eq_true.mp hany
  rw [Bool.and_eq_true, bne_iff_ne, decide_eq_true_iff] at hbad
  exact (h n (List.mem_range.mp hn)).elim hbad.1 (Nat.not_le.mpr hbad.2)

/-- R204: word 1 with a reserved format in a field that the write reaches. -/
theorem State.writeTab_reserved {n : Nat} (hn : n < 4) (hmask : bits mask (42 + 3 * n) 3 ≠ 0)
    (hfmt : 5 ≤ bits (s.merged (TIM.TAB_W1_WORD c e) mask v) (42 + 3 * n) 3) :
    s.writeTab c e 1 mask v = s.wr (TIM.STATUS_WR_IGN c) 1 := by
  refine if_pos ⟨by decide, List.any_eq_true.mpr ⟨n, List.mem_range.mpr hn, ?_⟩⟩
  rw [Bool.and_eq_true, bne_iff_ne, decide_eq_true_iff]
  exact ⟨hmask, hfmt⟩
end

/-- R215: UI_STALE of a block whose clock is stopped. -/
theorem exec_uiStale_stopped {s : State} {b : Nat} (h : s.clockRuns b = false) :
    exec (.uiStale b) s = .next (s.wrAll (blockCells b) TIM.UI_UI 0) := by
  simp [exec, execUiStale, h]

/-- Settles O21: a request by its two cases, a conversion as the last of its request, the tables word by word. -/
theorem measurementsAndTables : Obligations.MeasurementsAndTables := by
  unfold Obligations.MeasurementsAndTables
  refine ⟨fun s c n mask v _ _ hbst hpend ho => ⟨fun hsrc hmode => ?_, fun h => ?_⟩, fun s c n hbst => ?_,
    fun s b c n code clamp sat q _ hn hq hpin hlast hseen => ?_,
    fun s c n pin _ _ hmade => ⟨fun h => ?_, fun h => ?_⟩, fun s c n k mask v hbst ho => ?_,
    fun s c e mask v ho => ⟨?_, fun h => ?_, fun n hn hmask hfmt => ?_⟩, fun s c n mask v ho => ?_, fun s b hclk => ?_⟩
  · exact exec_measGo_zero hbst hpend ho hsrc hmode
  · exact exec_measGo_queued hbst hpend ho h
  · simp only [exec, execMeasDelayExpiry, State.abortSlice_idle _ hbst]
  · exact exec_conversionDone_last hq hn hpin hlast hseen
  · exact congrArg Host.Outcome.next (State.driveCheck_hit hmade h)
  · exact exec_dchkInterval_miss hmade h
  · exact congrArg Host.Outcome.next ((State.atReg_open _ ho).trans (State.writeTrim_eq hbst))
  · exact congrArg Host.Outcome.next (State.atReg_open _ ho)
  · exact congrArg Host.Outcome.next ((State.atReg_open _ ho).trans (State.writeTab_legal h))
  · exact congrArg Host.Outcome.next ((State.atReg_open _ ho).trans (State.writeTab_reserved hn hmask hfmt))
  · exact congrArg Host.Outcome.next (State.atReg_open _ ho)
  · refine ⟨_, exec_uiStale_stopped hclk, State.wrAll_mem .., fun c hc => ?_⟩
    rw [State.rd_wrAll_of_mem _ _ hc fun d => by simp only [Fld.key, cellBase]; omega, Nat.zero_mod]

end Sys2Proof.Machine

namespace Sys2Proof.Machine

/-! ## What entries of the journal leave alone (R334, R335) -/

/-- From `s` to `t` code words have been programmed and erased: of the registers JSEQ.FREE alone differs, and the Store's operation and its
waiting reads stay. -/
structure State.JournalStep (s t : State) : Prop where
  rd : ∀ f : Fld, f.key ≠ STO.JSEQ_FREE.key → t.rd f = s.rd f
  op : t.store.op = s.store.op
  waiting : t.store.waiting = s.store.waiting

namespace State.JournalStep

variable {s t u : State}

theorem refl (s : State) : s.JournalStep s := ⟨fun _ _ => rfl, rfl, rfl⟩

theorem trans (h : s.JournalStep t) (g : t.JournalStep u) : s.JournalStep u :=
  ⟨fun f hf => (g.rd f hf).trans (h.rd f hf), g.op.trans h.op, g.waiting.trans h.waiting⟩

end State.JournalStep

/-- Words written to the array show in no register and in no record of the Store. -/
theorem State.writeWords_frame (s : State) (a : Nat) (l : List Nat) :
    (∀ f, (s.writeWords a l).rd f = s.rd f) ∧ (s.writeWords a l).store = s.store := by
  induction l generalizing s a with
  | nil => exact ⟨fun _ => rfl, rfl⟩
  | cons v l ih =>
    obtain ⟨hrd, hstore⟩ := ih (s.writeWord a v) (a + 16)
    have hword : (s.writeWord a v).store = s.store := by
      obtain ⟨m, hm⟩ := like_writeBytes s a (toBytes 9 v)
      simp only [State.writeWord, hm]
    rw [writeWords_cons]
    exact ⟨fun f => (hrd f).trans (s.rd_writeWord v a f), hstore.trans hword⟩

theorem State.journalStep_cwProgram (s : State) (k : Nat) (ws : List Nat) : s.JournalStep (s.cwProgram k ws) := by
  obtain ⟨hrd, hstore⟩ := s.writeWords_frame (cwAddr k) ((List.range 4).map fun i => word72 (ws.getD i 0))
  constructor
  case rd => exact fun f _ => hrd f
  case op => simp only [State.cwProgram, hstore]
  case waiting => simp only [State.cwProgram, hstore]

theorem State.journalStep_cwErase (s : State) (lo hi : Nat) : s.JournalStep (s.cwErase lo hi) := ⟨fun _ _ => rfl, rfl, rfl⟩

theorem State.journalStep_showFree (s : State) : s.JournalStep s.showFree := ⟨fun _ hf => s.rd_wr_ne _ hf.symm, rfl, rfl⟩

theorem State.journalStep_journal (s : State) (ws : List Nat) : s.JournalStep (s.journal ws) :=
  (s.journalStep_cwProgram _ ws).trans (State.journalStep_showFree _)

theorem State.journalStep_journals (s : State) (l : List (List Nat)) : s.JournalStep (l.foldl (fun t e => t.journal e) s) :=
  List.foldlRecOn (motive := fun t : State => s.JournalStep t) l _ (.refl s) fun t ht e _ => ht.trans (t.journalStep_journal e)

/-- R335 steps 1 to 3: the other half becomes the active one. -/
theorem State.rollIn_step (s : State) :
    ((s.cwErase (halfBase (1 - s.half)) (halfBase (1 - s.half) + 2048)).wr STO.JSEQ_HALF (1 - s.half)).JournalStep s.rollIn :=
  ((State.journalStep_journal _ _).trans (State.journalStep_journals _ _)).trans (State.journalStep_journal _ _)

/-- R335 step 4: the inactive half is blank. -/
theorem State.halfUsed_erased (s : State) (h : Nat) : (s.cwErase (halfBase h) (halfBase h + 2048)).halfUsed h = 0 := by
  simp only [State.halfUsed, State.cwErase, Tab.drop, List.length_eq_zero_iff, List.filter_eq_nil_iff, List.mem_filter, Bool.or_eq_true,
    Bool.and_eq_true, decide_eq_true_eq]
  omega

/-- R332: no read waits. -/
theorem State.serveWaiting_none {s : State} (h : s.store.waiting = []) (es : List Nat) :
    s.serveWaiting es = { s with store := { s.store with waiting := [] } } := by
  simp [State.serveWaiting, h]

theorem State.rd_serveWaiting_none {s : State} (h : s.store.waiting = []) (es : List Nat) (f : Fld) : (s.serveWaiting es).rd f = s.rd f := by
  rw [State.serveWaiting_none h, State.rd_mk]

/-- The Store is idle with no read waiting. -/
theorem State.storeIdle_none {s : State} (h : s.store.waiting = []) (es : List Nat) : s.storeIdle es =
    { s.wrs [(STO.STATUS_BUSY, 0), (STO.STATUS_INTERNAL, 0)] with store := { s.store with op := none, waiting := [] } } :=
  State.serveWaiting_none (by exact h) es

/-- R335, R509: an erase of the inactive half ends: the Store is idle and the half blank. -/
theorem State.storeIdle_erased {s t : State} (h : s.store.waiting = []) (hstep : s.JournalStep t) (hblank : t.halfUsed (1 - s.half) = 0) :
    (t.storeIdle []).store.op = none ∧ (t.storeIdle []).rd STO.STATUS_BUSY = 0 ∧ (t.storeIdle []).rd STO.STATUS_INTERNAL = 0 ∧
      (t.storeIdle []).halfUsed (1 - s.half) = 0 ∧ (t.storeIdle []).rd STO.JSEQ_HALF = s.rd STO.JSEQ_HALF := by
  rw [State.storeIdle_none (hstep.waiting.trans h)]
  have hn : (([(STO.STATUS_BUSY, 0), (STO.STATUS_INTERNAL, 0)] : List (Fld × Nat)).map fun e => e.1.key).Nodup := by decide
  refine ⟨rfl, ?_, ?_, hblank, ?_⟩
  · rw [State.rd_mk, State.rd_wrs_of_mem _ hn (v := 0) (by simp), Nat.zero_mod]
  · rw [State.rd_mk, State.rd_wrs_of_mem _ hn (v := 0) (by simp), Nat.zero_mod]
  · rw [State.rd_mk, State.rd_wrs_ne _ _ (by decide), hstep.rd _ (by decide)]

/-! ## The calibration loader (R165 to R168) -/

/-- R167: the codes of WHY. -/
theorem State.bankWhy_le (s : State) (bank : Nat) : s.bankWhy bank ≤ 6 := by
  unfold State.bankWhy
  extract_lets w bytes
  repeat' split
  all_goals decide

/-- R167: the codes of BANK. -/
theorem State.calBank_lt (s : State) (a b : Nat) : s.calBank a b < 4 := by
  unfold State.calBank
  repeat' split
  all_goals decide

/-- From `s` to `t` trims have been loaded: memory, the runs of the loader and every register below the blocks' windows (R535) stay. -/
structure State.TrimStep (s t : State) : Prop where
  mem : t.mem = s.mem
  cal : t.cal = s.cal
  rd : ∀ f : Fld, f.key < 64 * 0x1000000 → t.rd f = s.rd f

namespace State.TrimStep

variable {s t u : State}

theorem refl (s : State) : s.TrimStep s := ⟨rfl, rfl, fun _ _ => rfl⟩

theorem trans (h : s.TrimStep t) (g : t.TrimStep u) : s.TrimStep u :=
  ⟨g.mem.trans h.mem, g.cal.trans h.cal, fun f hf => (g.rd f hf).trans (h.rd f hf)⟩

theorem foldl {α : Type} {f : State → α → State} (l : List α) (s : State) (h : ∀ t : State, ∀ x ∈ l, t.TrimStep (f t x)) :
    s.TrimStep (l.foldl f s) :=
  List.foldlRecOn (motive := fun t : State => s.TrimStep t) l f (refl s) fun t ht x hx => ht.trans (h t x hx)

theorem wr (s : State) {f : Fld} (v : Nat) (h : 64 * 0x1000000 ≤ f.key) : s.TrimStep (s.wr f v) :=
  ⟨rfl, rfl, fun _ hg => s.rd_wr_ne v (Nat.ne_of_gt (Nat.lt_of_lt_of_le hg h))⟩

theorem modBlock (s : State) (b : Nat) (g : BlockX → BlockX) : s.TrimStep (s.modBlock b g) := ⟨rfl, rfl, fun _ _ => rfl⟩

end State.TrimStep

/-- R165, R166: the trims of a block are registers of its cells. -/
theorem State.trimStep_calBlock (s : State) (bank b : Nat) : s.TrimStep (s.calBlock bank b) := by
  unfold State.calBlock
  dsimp only
  refine State.TrimStep.trans (State.TrimStep.foldl _ s fun t p _ => ?_) (State.TrimStep.modBlock ..)
  refine State.TrimStep.trans ?_ (State.TrimStep.wr _ bank (by simp only [Fld.key, cellBase]; omega))
  exact State.TrimStep.foldl _ t fun u k _ => State.TrimStep.wr u _ (by simp only [Fld.key, cellBase]; omega)

/-- R167: what the end of a full run writes, `wa` and `wb` telling why a bank cannot be used. -/
def State.calWrites (s : State) (wa wb : Nat) : List (Fld × Nat) :=
  [(CHIP.CAL_STATUS_BANK, s.calBank wa wb), (CHIP.CAL_STATUS_A_VALID, b2n (wa == 0)), (CHIP.CAL_STATUS_B_VALID, b2n (wb == 0)),
    (CHIP.CAL_STATUS_A_WHY, wa), (CHIP.CAL_STATUS_B_WHY, wb),
    (CHIP.CAL_STATUS_SEQ, if s.calBank wa wb = 0 then 0 else bits (s.bankWord (s.calBank wa wb - 1) 3) 0 32), (CHIP.START_CAL_DONE, 1)]

theorem State.nodup_calWrites (s : State) (wa wb : Nat) : ((s.calWrites wa wb).map fun e => e.1.key).Nodup := by
  simp [State.calWrites, Fld.key]

/-- R167: the end of a full run: trims are loaded, and CAL_STATUS tells the choice. -/
theorem State.calDone_full {s : State} {a b wa wb : Nat} (hcal : s.cal = [.full]) (ha : wa = if s.bankWhy 0 = 0 then a else s.bankWhy 0)
    (hb : wb = if s.bankWhy 1 = 0 then b else s.bankWhy 1) :
    ∃ u, ({ s.wr CHIP.CAL_STATUS_BUSY 0 with cal := [] } : State).TrimStep u ∧ s.calDone a b = u.wrs (s.calWrites wa wb) := by
  subst ha hb
  refine ⟨(List.range 32).foldl (fun t k => if t.blockOn k then t.calBlock (s.calBank (if s.bankWhy 0 = 0 then a else s.bankWhy 0)
      (if s.bankWhy 1 = 0 then b else s.bankWhy 1)) k else t) { s.wr CHIP.CAL_STATUS_BUSY 0 with cal := [] },
    State.TrimStep.foldl _ _ fun t k _ => ?_, ?_⟩
  · split
    · exact State.trimStep_calBlock ..
    · exact .refl t
  · simp only [State.calDone, hcal]
    rfl

/-- R167: what CAL_LOAD_DONE of a full run shows. -/
theorem exec_calLoadDone_full {s : State} {a b wa wb : Nat} (hop : s.store.op = none) (hcal : s.cal = [.full]) (ha6 : a ≤ 6) (hb6 : b ≤ 6)
    (ha : wa = if s.bankWhy 0 = 0 then a else s.bankWhy 0) (hb : wb = if s.bankWhy 1 = 0 then b else s.bankWhy 1) :
    ∃ t, exec (.calLoadDone a b) s = .next t ∧ t.cal = [] ∧ t.rd CHIP.CAL_STATUS_BANK = s.calBank wa wb ∧
      t.rd CHIP.CAL_STATUS_A_VALID = b2n (wa == 0) ∧ t.rd CHIP.CAL_STATUS_B_VALID = b2n (wb == 0) ∧ t.rd CHIP.CAL_STATUS_A_WHY = wa ∧
      t.rd CHIP.CAL_STATUS_B_WHY = wb ∧ t.rd CHIP.CAL_STATUS_BUSY = 0 ∧ t.rd CHIP.START_CAL_DONE = 1 ∧ t.mem = s.mem := by
  obtain ⟨u, hu, hw⟩ := State.calDone_full (a := a) (b := b) hcal ha hb
  have hwhy (x bank : Nat) (hx : x ≤ 6) : (if s.bankWhy bank = 0 then x else s.bankWhy bank) < 16 := by
    have := s.bankWhy_le bank
    split <;> omega
  have hread {f : Fld} {v : Nat} (hm : (f, v) ∈ s.calWrites wa wb) (hv : v < 2 ^ f.width) : (u.wrs (s.calWrites wa wb)).rd f = v := by
    rw [State.rd_wrs_of_mem _ (s.nodup_calWrites wa wb) hm, Nat.mod_eq_of_lt hv]
  refine ⟨u.wrs (s.calWrites wa wb), ?_, ?_, hread (by simp [State.calWrites]) (s.calBank_lt ..), hread (by simp [State.calWrites]) (b2n_lt _),
    hread (by simp [State.calWrites]) (b2n_lt _), hread (by simp [State.calWrites]) (ha ▸ hwhy a 0 ha6),
    hread (by simp [State.calWrites]) (hb ▸ hwhy b 1 hb6), ?_, hread (by simp [State.calWrites]) (by decide), ?_⟩
  · rw [← hw]
    simp [exec, execCalLoadDone, hop]
  · rw [(onlyRegs_wrs u _).1]
    exact hu.cal
  · rw [State.rd_wrs_ne _ _ (by simp [State.calWrites, Fld.key]), hu.rd _ (by decide)]
    simp
  · rw [State.wrs_mem]
    exact hu.mem

/-- R168: a lane that is not safe makes LOAD ignored. -/
theorem State.calLoad_unsafe {s : State} {c n : Nat} (hc : c < 256) (hn : n < 4) (h : s.flag (PIN.STATE_SAFE c n) = false) :
    s.calLoad = s.wr CHIP.CAL_STATUS_WR_IGN 1 := by
  refine if_pos (Bool.or_eq_true_iff.mpr (.inr ?_))
  exact List.any_eq_true.mpr ⟨c, List.mem_range.mpr hc, List.any_eq_true.mpr ⟨n, List.mem_range.mpr hn, by rw [h]; rfl⟩⟩

/-- R168: LOAD with a run in progress is ignored. -/
theorem State.calLoad_running {s : State} (h : s.cal ≠ []) : s.calLoad = s.wr CHIP.CAL_STATUS_WR_IGN 1 := by
  refine if_pos (Bool.or_eq_true_iff.mpr (.inl ?_))
  simpa using h

/-- R168: LOAD with every lane safe starts a full run. -/
theorem State.calLoad_starts {s : State} (hcal : s.cal = []) (h : ∀ c n, c < 256 → n < 4 → s.flag (PIN.STATE_SAFE c n) = true) :
    s.calLoad = { s.wr CHIP.CAL_STATUS_BUSY 1 with cal := [.full] } := by
  refine if_neg ?_
  rw [hcal, List.isEmpty_nil, Bool.not_true, Bool.false_or, Bool.not_eq_true, List.any_eq_false]
  intro c hc
  rw [Bool.not_eq_true, List.any_eq_false]
  intro n hn
  rw [h c n (List.mem_range.mp hc) (List.mem_range.mp hn)]
  decide

/-- Settles O34: the journal's steps by what they leave of the registers, the loader by its frame and its last writes. -/
theorem journalAndCalibration : Obligations.JournalAndCalibration := by
  unfold Obligations.JournalAndCalibration
  refine ⟨fun s => ⟨fun hop hdue => ?_, fun hdue => ?_⟩, fun s hq => ⟨fun hop => ?_, fun hop => ?_, fun hop => ?_⟩,
    fun s ho => ⟨fun h => ?_, fun c n hc hn h => ?_, fun hcal h => ?_⟩, fun s a b wa wb hop hcal ha6 hb6 ha hb => ?_⟩
  · simp [exec, execJournalRollover, hop, hdue]
  · simp [exec, execJournalRollover, hdue]
  · have hroll : s.rollIn.store.waiting = [] := (State.rollIn_step s).waiting.trans hq
    refine ⟨{ s.rollIn.serveWaiting [] with store := { (s.rollIn.serveWaiting []).store with op := some (.rollover true) } }, ?_, ?_, rfl, ?_⟩
    · simp only [exec, execRolloverPeriodEnd, hop]
    · rw [State.rd_mk, State.rd_serveWaiting_none hroll]
      exact ((State.rollIn_step s).rd _ (by decide)).trans ((State.rd_wr_self ..).trans (Nat.mod_eq_of_lt (Nat.lt_of_le_of_lt (Nat.sub_le ..) (by decide))))
    · rw [State.rd_mk, State.rd_serveWaiting_none hroll, (State.rollIn_step s).rd _ (by decide), State.rd_wr_ne _ _ (by decide)]
      rfl
  · refine ⟨s.rollOut.showFree.storeIdle [], ?_, ?_⟩
    · simp only [exec, execRolloverPeriodEnd, hop]
    · exact State.storeIdle_erased hq ((s.journalStep_cwErase _ _).trans (State.journalStep_showFree _)) (s.halfUsed_erased _)
  · obtain ⟨hidle, hbusy, -, hblank, hhalf⟩ := State.storeIdle_erased hq (s.journalStep_cwErase _ _) (s.halfUsed_erased _)
    refine ⟨s.rollOut.storeIdle [], ?_, hidle, hbusy, hblank, hhalf⟩
    simp only [exec, execRecoveryEraseDone, hop]
  · exact congrArg Host.Outcome.next ((State.atReg_open _ ho).trans (State.calLoad_running h))
  · exact congrArg Host.Outcome.next ((State.atReg_open _ ho).trans (State.calLoad_unsafe hc hn h))
  · exact congrArg Host.Outcome.next ((State.atReg_open _ ho).trans (State.calLoad_starts hcal h))
  · exact exec_calLoadDone_full hop hcal ha6 hb6 ha hb

end Sys2Proof.Machine

namespace Sys2Proof.Machine

/-! ## Commands that are judged while a loss of lock ends (R97, R189) -/

/-- R97: the command that waits in cell `c` is judged. -/
def State.judgeCell (s : State) (c : Nat) : State :=
  match (s.cell c).seqCmd with
  | none => s
  | some q => (s.modCell c fun x => { x with seqCmd := none }).runSeq c q.op q.desc q.convoy q.touch

theorem State.judgePending_eq (s : State) (b : Nat) :
    s.judgePending b = if s.clockPaused b then s else (blockCells b).foldl State.judgeCell s := by rfl

theorem State.foldl_judgeCell_none {s : State} {cs : List Nat} (h : ∀ c ∈ cs, (s.cell c).seqCmd = none) :
    cs.foldl State.judgeCell s = s := by
  induction cs with
  | nil => rfl
  | cons c cs ih =>
    obtain ⟨hc, hcs⟩ := List.forall_mem_cons.mp h
    rw [List.foldl_cons, show s.judgeCell c = s by simp [State.judgeCell, hc], ih hcs]

/-- A block in which nothing waits. -/
theorem State.judgePending_none {s : State} {b : Nat} (h : ∀ c ∈ blockCells b, (s.cell c).seqCmd = none) : s.judgePending b = s := by
  rw [s.judgePending_eq, State.foldl_judgeCell_none h, ite_self]

/-- A block in which the last cell alone waits, on a clock that is not paused. -/
theorem State.judgePending_last {s : State} {b c : Nat} {cs : List Nat} {q : SeqPend} (hclk : s.clockPaused b = false)
    (hb : blockCells b = cs ++ [c]) (hcs : ∀ d ∈ cs, (s.cell d).seqCmd = none) (hc : (s.cell c).seqCmd = some q) :
    s.judgePending b = (s.modCell c fun x => { x with seqCmd := none }).runSeq c q.op q.desc q.convoy q.touch := by
  rw [s.judgePending_eq, hb, List.foldl_append, State.foldl_judgeCell_none hcs]
  simp [hclk, State.judgeCell, hc]

/-- R98, R100: START is accepted where no condition refuses it and no self-test slice runs. -/
theorem State.judgeSeq_start {s : State} {c : Nat} (hb : s.bst.run = none) (hs : s.startStatus c = 0) :
    s.judgeSeq c 1 0 false = (s.startRun c false, 0) := by
  simp [State.judgeSeq, State.abortSlice_idle _ hb, hs]

/-- R189: the caravans led by `ls` have halted, the clocks of the blocks `ks` are gated, and their loss is done. -/
def State.lossEnded (s : State) (ks ls : List Nat) : State :=
  (ks.foldl (fun t k => t.modBlock k fun x => { x with lossPending := false, rampMult := 0 })
    (ks.foldl State.gateBlock (ls.foldl State.lockLost s))).unsuspect ks

/-- R97, R189: only then are the commands that wait judged. -/
theorem State.lossGate_eq {s : State} {b : Nat} {ks ls : List Nat} (h : (s.block b).lossPending = true) (hk : s.clocked b = ks)
    (hl : (ks.flatMap s.leadsInBlock).eraseDups.filter s.busy = ls) :
    s.lossGate b = ks.foldl State.judgePending (s.lossEnded ks ls) := by
  subst hk hl
  simp [State.lossGate, State.lossEnded, h]

/-! ### A barrier that no SYNC word names (R16, R105, R117)

Why the statement about LOCK_LOST_GATE fails: it speaks of every state, and a state may hold numbers that no command leaves in it, here a
run that has arrived at a barrier above 255 and a cell whose LEAD lies in another region. The halt takes back an arrival at the address
that the barrier's number gives, and that of barrier 0x1FD00 of region 0 is the address of the gang register of region 1. A block of the
gang then has another source, which is in lock, and a START that waits in it is accepted while the loss of lock ends. -/

/-- Blocks 8 and 9 of region 1 are a gang, whose source, PLL 8, has lost lock; PLL 9 is in lock. The caravan of cell 79, in block 9, is
RUNNING, and a START of it waits. Cell 64, in block 8, names cell 0 of region 0 as its lead, whose run has arrived at barrier 0x1FD00. -/
def strayBarrier : State :=
  (((State.reset.wrs ([(RGN.GANG_GID0 1, 1), (PLL.STATUS_STATE 8, pllLost), (PLL.STATUS_STATE 9, pllLocked),
    (CEL.CARAVAN_EN 64, 1), (CEL.CARAVAN_LEAD 64, 0), (SEQ.STATUS_STATE 0, stRunning),
    (CEL.CARAVAN_EN 79, 1), (SEQ.STATUS_STATE 79, stRunning)] ++ (List.range 4).map fun n => (PIN.STATE_SAFE 79 n, 0))).modBlock 8
      fun x => { x with lossPending := true }).modRun 0
        fun x => { x with phase := .atSync 0x1FD00 false false false true }).modCell 79
          fun x => { x with seqCmd := some ⟨1, 0, false, true⟩ }

/-- Both caravans of the gang have halted, and the loss is done. -/
def strayEnded : State := strayBarrier.lossEnded [8, 9] [0, 79]

/-- The START is judged. -/
def startDue : State := strayEnded.modCell 79 fun x => { x with seqCmd := none }

set_option maxRecDepth 10000 in
theorem strayEnded_waiting : (∀ c ∈ blockCells 8 ++ [72, 73, 74, 75, 76, 77, 78], (strayEnded.cell c).seqCmd = none) ∧
    (strayEnded.cell 79).seqCmd = some ⟨1, 0, false, true⟩ ∧ strayEnded.clockPaused 9 = false := by decide

set_option maxRecDepth 10000 in
/-- R98, R117: block 9 has left the gang and is its own source, in lock, so that no condition refuses the START, whether or not it has
marked its run. -/
theorem startDue_startStatus : ∀ s ∈ [startDue, startDue.seqTouch 79],
    s.gangSource 9 = 9 ∧ s.bst.run = none ∧ s.startStatus 79 = 0 := by decide

set_option maxRecDepth 10000 in
theorem startDue_startRun : ((startDue.seqTouch 79).startRun 79 false).rd (SEQ.STATUS_STATE 79) = stRunning := by decide

theorem strayBarrier_lossGate : strayBarrier.lossGate 8 = startDue.runSeq 79 1 0 false true := by
  obtain ⟨hnone, hwaits, hclk⟩ := strayEnded_waiting
  obtain ⟨hnone8, hnone9⟩ := List.forall_mem_append.mp hnone
  have hgate : strayBarrier.lossGate 8 = [8, 9].foldl State.judgePending strayEnded :=
    State.lossGate_eq (by decide) (by decide) (by decide)
  rw [hgate, List.foldl_cons, State.judgePending_none hnone8, List.foldl_cons, List.foldl_nil,
    State.judgePending_last hclk (by rfl) hnone9 hwaits, startDue]

/-- R98: the START is accepted, and the caravan leaves HALTED. -/
theorem strayBarrier_lossGate_running : (strayBarrier.lossGate 8).rd (SEQ.STATUS_STATE 79) = stRunning := by
  obtain ⟨-, hidle, hstart⟩ := startDue_startStatus startDue (by simp)
  obtain ⟨-, hidle', hstart'⟩ := startDue_startStatus (startDue.seqTouch 79) (by simp)
  rw [strayBarrier_lossGate, State.runSeq_accepted (State.judgeSeq_start hidle hstart) (State.judgeSeq_start hidle' hstart'),
    State.rd_seqDone _ (by decide) (by decide), startDue_startRun]

/-- Refutes O23: LOCK_LOST_GATE of PLL 8 halts the caravan of cell 79, but a START that waits is judged after the gang has come apart, and
leaves the caravan RUNNING, where the statement has it HALTED. -/
theorem not_lossOfLockAndReferences : ¬ Obligations.LossOfLockAndReferences := by
  unfold Obligations.LossOfLockAndReferences
  rintro ⟨-, -, -, -, h, -⟩
  obtain ⟨t, hx, -, hblocks⟩ := h strayBarrier 8 (by decide) (by decide) (by decide)
  obtain ⟨-, -, -, hleads⟩ := hblocks 9 (by decide)
  obtain ⟨hhalted, -, -⟩ := hleads 79 (by decide) (by decide) (by decide)
  obtain rfl : strayBarrier.lossGate 8 = t := Host.Outcome.next.inj hx
  exact absurd (strayBarrier_lossGate_running.symm.trans hhalted) (by decide)

end Sys2Proof.Machine

namespace Sys2Proof.Machine

/-! ## From the cell fail queue to the merger (R221, R223) -/

/-- R221: with no suspicion, a record stays while its caravan is RUNNING and has done fewer than 16 strides since. -/
theorem State.mayLeave_unsuspected {s : State} {c sc : Nat} (h : (s.cell c).suspectSC = none) :
    s.mayLeave c sc = !decide (s.enabled c = true ∧ s.cvState c = stRunning ∧ s.rd (SEQ.SC_SC (s.leadOf c)) < sc + 16) := by
  rw [Bool.eq_iff_iff]
  simp only [State.mayLeave, h, Bool.or_eq_true, Bool.not_eq_true', Bool.and_eq_false_iff, beq_eq_false_iff_ne, decide_eq_true_eq,
    decide_eq_false_iff_not, ← not_lt, not_and_or, Bool.not_eq_true, or_assoc, ne_eq]

/-- FAIL_QUEUE_RELEASE of a record. -/
theorem exec_failQueueRelease_record {s : State} {c : Nat} {r : FailRec} (hf : s.frozen = false)
    (hq : (s.cell c).failQ[(s.cell c).released]? = some (.record r)) : exec (.failQueueRelease c) s =
      .next (if s.mayLeave c r.sc then s.modCell c fun x => { x with released := x.released + 1 } else s) := by
  simp only [exec, execFailQueueRelease, hf, hq, State.modCell, Bool.false_eq_true, if_false]

/-- R223: a merger with room takes the first item of the queue whose turn it is. -/
theorem State.mergerTake_pick {s : State} {b c : Nat} {i : QItem} {rest : List QItem} (hf : s.frozen = false)
    (hroom : recordCount (s.block b).merger < 1024) (hpick : s.mergerPick b = some c) (hq : (s.cell c).failQ = i :: rest) :
    s.mergerTake b = (s.modCell c fun x => { x with failQ := rest, released := x.released - 1 }).modBlock b fun x =>
      { x with merger := x.merger ++ [i], mergerRR := (c + 1) % 8 } := by
  have hfull : (s.frozen || decide (1024 ≤ recordCount (s.block b).merger)) = false := by simp [hf, hroom]
  simp only [State.mergerTake, hfull, hpick, hq, Bool.false_eq_true, if_false]

/-! ## Accounts that are read without an error (R245) -/

/-- The greatest of values that are all 0. -/
theorem foldl_max_zero {α : Type} {f : α → Nat} {l : List α} (h : ∀ x ∈ l, f x = 0) (n : Nat) :
    l.foldl (fun m x => max m (f x)) n = n := by
  induction l with
  | nil => rfl
  | cons x l ih => rw [List.foldl_cons, h x List.mem_cons_self, Nat.max_zero, ih fun y hy => h y (List.mem_cons_of_mem _ hy)]

/-- R245: no word of account `a` of region `r` has an error. -/
def State.AcctClean (s : State) (r a : Nat) : Prop := ∀ w, w < 8 → s.eccOf (acctAddr r a + 16 * w) 0 = 0

theorem State.acctErrors_clean {s : State} {r a : Nat} (h : s.AcctClean r a) : s.acctErrors r a 0 = s := by
  have hmax : (List.range 8).foldl (fun m w => max m (s.eccOf (acctAddr r a + 16 * w) 0)) 0 = 0 :=
    foldl_max_zero (fun w hw => h w (List.mem_range.mp hw)) 0
  simp only [State.acctErrors, State.acctWords, ite_self, hmax, if_true]

theorem State.readWord_mem {s u : State} (h : u.mem = s.mem) (a : Nat) : u.readWord a = s.readWord a := by
  rw [State.readWord, readBytes_mem h, State.readWord]

theorem State.readWords_mem {s u : State} (h : u.mem = s.mem) (a n : Nat) : u.readWords a n = s.readWords a n := by
  induction n generalizing a with
  | zero => rfl
  | succ n ih => rw [State.readWords, State.readWords, ih, State.readWord_mem h]

/-- R234, R235: the oldest record that waits for its account, which is read without an error. -/
theorem State.acctApply_clean {s p : State} {r : Nat} {u : Upd} {rest : List Upd} {ws : List Nat} {a : Acct} (hf : s.frozen = false)
    (hq : (s.region r).acctQ = u :: rest) (hc : s.AcctClean r u.r.acct) (hw : ws = s.readWords (acctAddr r u.r.acct) 8)
    (ha : a = Acct.ofWords ws) (hp : p = s.modRegion r fun x => { x with acctQ := rest }) :
    s.acctApply r 0 = if !a.en || a.site != u.r.site then p.count (LDG.ACCT_MISS_COUNT r) 1
      else if u.r.voidf then p.writeWords (acctAddr r u.r.acct) ({ a with voidhit := true }.putWords ws)
      else if u.fresh then p.writeWords (acctAddr r u.r.acct) ((a.update u.r.x u.r.y).putWords ws) else p := by
  have hclean : p.acctErrors r u.r.acct 0 = p := State.acctErrors_clean (by rw [hp]; exact hc)
  have hread : p.readWords (acctAddr r u.r.acct) 8 = ws := by rw [hw, hp]; exact State.readWords_mem rfl ..
  simp only [State.acctApply, hq, hf, Bool.false_eq_true, if_false, ← hp, hclean, hread, ← ha]

/-! ## A ledger update at the interface of its engine (R224, R302) -/

/-- R302: from `s` to `t` an interface has acted: memory, the records of the blocks and the registers of the blocks, the cells and the
regions stand. -/
structure State.IssueStep (s t : State) : Prop where
  mem : t.mem = s.mem
  blocks : t.blocks = s.blocks
  rd : ∀ f : Fld, 64 * 0x1000000 ≤ f.key → t.rd f = s.rd f

namespace State.IssueStep

variable {s t u : State}

theorem refl (s : State) : s.IssueStep s := ⟨rfl, rfl, fun _ _ => rfl⟩

theorem trans (h : s.IssueStep t) (g : t.IssueStep u) : s.IssueStep u :=
  ⟨g.mem.trans h.mem, g.blocks.trans h.blocks, fun f hf => (g.rd f hf).trans (h.rd f hf)⟩

theorem wr (s : State) {f : Fld} (v : Nat) (h : f.key < 64 * 0x1000000) : s.IssueStep (s.wr f v) :=
  ⟨rfl, rfl, fun _ hg => s.rd_wr_ne v (Nat.ne_of_lt (Nat.lt_of_lt_of_le h hg))⟩

theorem count (s : State) {f : Fld} (n : Nat) (h : f.key < 64 * 0x1000000) : s.IssueStep (s.count f n) := wr s _ h

theorem wrs (s : State) (l : List (Fld × Nat)) (h : ∀ e ∈ l, e.1.key < 64 * 0x1000000) : s.IssueStep (s.wrs l) where
  mem := s.wrs_mem l
  blocks := s.wrs_blocks l
  rd := fun _ hf => s.rd_wrs_ne l fun e he => Nat.ne_of_lt (Nat.lt_of_lt_of_le (h e he) hf)

theorem withPower (s : State) (p : PowerX) : s.IssueStep { s with power := p } := ⟨rfl, rfl, fun _ _ => rfl⟩

end State.IssueStep

/-- The toll counters of an engine (R309) lie in the window of the chip. -/
theorem toll_engine_keys {r : Nat} (hr : r < 4) : (NOC.TOLL_A_BYTES (64 + r)).key < 64 * 0x1000000 ∧
    (NOC.TOLL_B_PACKETS (64 + r)).key < 64 * 0x1000000 ∧ (NOC.TOLL_D_DOMAIN_OFF (64 + r)).key < 64 * 0x1000000 ∧
    (NOC.TOLL_D_DENIED (64 + r)).key < 64 * 0x1000000 := by
  simp only [Fld.key]; omega

/-- R407, R413: the end of IDLE. -/
theorem State.endIdle_frame (s : State) : s.IssueStep s.endIdle ∧ s.endIdle.net = s.net ∧ s.endIdle.regions = s.regions := by
  have hcancel (t : State) : t.IssueStep t.cancelSleep ∧ t.cancelSleep.net = t.net ∧ t.cancelSleep.regions = t.regions := by
    unfold State.cancelSleep
    split
    · exact ⟨.refl t, rfl, rfl⟩
    · exact ⟨(State.IssueStep.withPower t _).trans (.wrs _ _ (by decide)), rfl, rfl⟩
  unfold State.endIdle
  split
  · obtain ⟨hstep, hnet, hregions⟩ := hcancel ((({ s with power := { s.power with sleep := 0 } }).wrs
      [(PWR.SLEEP_STATUS_OUTCOME, 1), (PWR.SLEEP_STATUS_POINT, 0)]).count PWR.IDLE_EXITS_COUNT 1)
    exact ⟨(((State.IssueStep.withPower s _).trans (.wrs _ _ (by decide))).trans (.count _ _ (by decide))).trans hstep, hnet, hregions⟩
  · exact ⟨.refl s, rfl, rfl⟩

theorem State.waits_frame (s : State) (q : Req) : s.IssueStep (s.waits q) ∧ (s.waits q).net.flight = s.net.flight ∧
    (s.waits q).regions = s.regions := by
  unfold State.waits
  split <;> exact ⟨⟨rfl, rfl, fun _ _ => rfl⟩, rfl, rfl⟩

section
variable {s : State} {q : Req} {r : Nat} (hr : r < 4) (hi : q.init = 64 + r)
include hr hi

theorem State.tollIssue_step (s : State) : s.IssueStep (s.tollIssue q) := by
  obtain ⟨ha, hb, -, -⟩ := toll_engine_keys hr
  rw [← hi] at ha hb
  exact (State.IssueStep.count s _ hb).trans (.count _ _ ha)

/-- R302, R310: an update leaves its interface: a router holds it, it is on its way, or the route table does not reach its home. -/
theorem State.launch_frame : s.IssueStep (s.launch q) ∧ (s.launch q).regions = s.regions ∧
    (s.routeHeldBack q = false → s.routed q.target = true →
      (s.launch q).net.flight = s.net.flight ++ [{ q with tariff := s.tariffOf q.init, hop := 0 }]) := by
  obtain ⟨hidle, hnet, hregions⟩ := s.endIdle_frame
  obtain ⟨hmem, hblocks, hrd⟩ := hidle.trans (State.tollIssue_step (q := { q with tariff := s.tariffOf q.init, hop := 0 }) hr hi _)
  have hheld : s.routeHeldBack { q with tariff := s.tariffOf q.init, hop := 0 } = s.routeHeldBack q := rfl
  have hto : s.routed ({ q with tariff := s.tariffOf q.init, hop := 0 } : Req).target = s.routed q.target := rfl
  simp only [State.launch, hheld, hto]
  split
  · next h => exact ⟨⟨hmem, hblocks, hrd⟩, hregions, fun h' => absurd h' (by simp [h])⟩
  · split
    · exact ⟨⟨hmem, hblocks, hrd⟩, hregions, fun _ _ => congrArg (fun n : NetX => n.flight ++ _) hnet⟩
    · next h => exact ⟨⟨hmem, hblocks, hrd⟩, hregions, fun _ h' => absurd h' h⟩

/-- R276: an engine does nothing more with an error. -/
theorem State.errorAt_engine (s : State) (st : Nat) : s.errorAt q st = s := by
  have h4 : q.init ≠ 4 := by omega
  have h13 : ¬ (5 ≤ q.init ∧ q.init < 13) := by omega
  have h45 : ¬ (13 ≤ q.init ∧ q.init < 45) := by omega
  simp only [State.errorAt, h4, h13, h45, if_false]

end

/-- R228, R234: an update that its engine has sent ends there. -/
theorem State.updateAnswered_sent {s : State} {q : Req} {u : Upd} {r : Nat} (hi : q.init = 64 + r)
    (h : ((s.region r).sent.find? fun v => v.eid == q.tag) = some u) (new : Bool) : s.updateAnswered q new = s.modRegion r fun x =>
      { x with sent := x.sent.erase u, acctQ := x.acctQ ++ (if u.acct then [{ u with fresh := new }] else []) } := by
  have hreg : q.init - 64 = r := by omega
  cases ha : u.acct <;> simp only [State.updateAnswered, hreg, h, ha, Bool.false_eq_true, if_false, if_true, List.append_nil]

theorem State.updateAnswered_step (s : State) (q : Req) (new : Bool) : s.IssueStep (s.updateAnswered q new) := by
  unfold State.updateAnswered
  split
  · exact .refl s
  · exact ⟨rfl, rfl, fun _ _ => rfl⟩

section
variable {s : State} {q : Req} {r : Nat} (hr : r < 4) (hi : q.init = 64 + r) (hk : q.kind = .lupd)
include hr hi hk

theorem State.finish_update (s : State) (st : Nat) (data : List Nat) : s.finish q st data =
    { s.updateAnswered q (st == 0 && data.headD 0 == 1) with answer := st :: data } := by
  simp only [State.finish, hk, if_true, State.errorAt_engine hr hi, ite_self]

theorem State.finish_step (s : State) (st : Nat) (data : List Nat) : s.IssueStep (s.finish q st data) := by
  rw [State.finish_update hr hi hk]
  obtain ⟨hmem, hblocks, hrd⟩ := s.updateAnswered_step q (st == 0 && data.headD 0 == 1)
  exact ⟨hmem, hblocks, hrd⟩

variable (hlen : q.len = 3)
include hlen

/-- R302: the checks that a ledger update meets. It goes to no address, so that the region registers and the address map do not judge it. -/
theorem State.check_update (s : State) : s.check q =
    if s.lcServes q = false then .refused 4 s
    else if s.domainOff q.target then
      if s.flag PWR.CTRL_LEGACY_WAKE then .wait else .refused 9 (s.count (NOC.TOLL_D_DOMAIN_OFF q.init) 1)
    else if s.rd (NOC.BERTH_GRANT q.init q.target.berth.1) = 0 then .refused 4 (s.count (NOC.TOLL_D_DENIED q.init) 1)
    else if s.mayIssue q && decide (s.power.sleep < 2) then .pass else .wait := by
  have hwell : q.wellFormed = true := by simp [Req.wellFormed, hk, hlen]
  have hpmp : s.pmpStops q.init q.access q.firstByte q.lastByte = false := by
    have : ¬ q.init < 4 := by omega
    simp [State.pmpStops, this]
  have hwhy : s.refusedWhy q = 0 := by simp [State.refusedWhy, hk]
  simp only [State.check, hwell, hpmp, hwhy, Bool.not_true, Bool.false_eq_true, if_false, ne_eq, not_true_eq_false, Bool.not_eq_true']

/-- R302: whatever the checks find. -/
theorem State.issue_step (s : State) : s.IssueStep (s.issue q) := by
  obtain ⟨-, -, hoff, hdenied⟩ := toll_engine_keys hr
  rw [← hi] at hoff hdenied
  rw [State.issue, State.check_update hr hi hk hlen]
  split_ifs
  · exact State.finish_step hr hi hk s 4 []
  · exact (s.waits_frame q).1
  · exact (State.IssueStep.count s 1 hoff).trans (State.finish_step hr hi hk _ 9 [])
  · exact (State.IssueStep.count s 1 hdenied).trans (State.finish_step hr hi hk _ 4 [])
  · exact (State.launch_frame hr hi).1
  · exact (s.waits_frame q).1

section
variable (hl : s.lcServes q = true)
include hl

/-- R315: the domain of the home is off, and the interface does not wait for it. -/
theorem State.issue_off (hd : s.domainOff q.target = true) (hw : s.flag PWR.CTRL_LEGACY_WAKE = false) :
    s.issue q = (s.count (NOC.TOLL_D_DOMAIN_OFF q.init) 1).finish q 9 [] := by
  simp only [State.issue, State.check_update hr hi hk hlen, hl, hd, hw, Bool.true_eq_false, Bool.false_eq_true, if_false, if_true]

variable (hd : s.domainOff q.target = false) (hg : s.rd (NOC.BERTH_GRANT q.init q.target.berth.1) ≠ 0)
include hd hg

theorem State.issue_waits (hm : s.mayIssue q = false) : s.issue q = s.waits q := by
  simp only [State.issue, State.check_update hr hi hk hlen, hl, hd, hg, hm, Bool.true_eq_false, Bool.false_eq_true, if_false,
    Bool.false_and]

theorem State.issue_launch (hs : s.power.sleep < 2) (hm : s.mayIssue q = true) : s.issue q = s.launch q := by
  simp only [State.issue, State.check_update hr hi hk hlen, hl, hd, hg, hm, hs, Bool.true_eq_false, Bool.false_eq_true, if_false,
    if_true, decide_true, Bool.true_and]

end

end


/-! ## The engine of a region (R223, R224) -/

/-- What an interface reads is the same in `s` and `t`: the network, the Store's queue, the sleep state and the registers of the chip. -/
structure State.SameNet (s t : State) : Prop where
  net : t.net = s.net
  store : t.store = s.store
  power : t.power = s.power
  rd : ∀ f : Fld, f.key < 64 * 0x1000000 → t.rd f = s.rd f

namespace State.SameNet

variable {s t : State} (h : s.SameNet t)
include h

theorem flag {f : Fld} (hf : f.key < 64 * 0x1000000) : t.flag f = s.flag f := by simp only [State.flag, h.rd f hf]

theorem lcServes (q : Req) : t.lcServes q = s.lcServes q := by
  simp only [State.lcServes, State.lcOpen, h.rd LC.PROGRESS_PHASE (by decide), h.rd LC.STATE_STATE (by decide)]

theorem domainOff (x : Target) : t.domainOff x = s.domainOff x := by
  simp only [State.domainOff, State.blockOn, State.regionOn, h.rd PWR.DOMAINS_BLK_ON (by decide), h.rd PWR.DOMAINS_RGN_ON (by decide),
    h.rd NOC.REVOKE_BLK (by decide), h.rd NOC.REVOKE_RGN (by decide)]

theorem routed (x : Target) : t.routed x = s.routed x := by simp only [State.routed, h.rd NOC.RT_ACT_V (by decide)]

theorem routeHeldBack (q : Req) : t.routeHeldBack q = s.routeHeldBack q := by
  simp only [State.routeHeldBack, h.net, h.rd NOC.RECFG_STATE (by decide)]

theorem outstanding : t.outstanding = s.outstanding := by simp only [State.outstanding, h.net, h.store]

/-- R303: the grant of an engine for the homes. -/
theorem grant {q : Req} {r : Nat} (hr : r < 4) (hi : q.init = 64 + r) (hk : q.kind = .lupd) :
    t.rd (NOC.BERTH_GRANT q.init q.target.berth.1) = s.rd (NOC.BERTH_GRANT q.init q.target.berth.1) :=
  h.rd _ (by simp only [Req.target, hk, Target.berth, hi, Fld.key]; omega)

theorem mayIssue {q : Req} {r : Nat} (hr : r < 4) (hi : q.init = 64 + r) (hk : q.kind = .lupd) : t.mayIssue q = s.mayIssue q := by
  simp only [State.mayIssue, State.inOrder, State.held, h.outstanding, h.net, h.grant hr hi hk]
  rfl

theorem tariffOf {i : Nat} (hi : i < 68) : t.tariffOf i = s.tariffOf i := by
  simp only [State.tariffOf, h.rd (NOC.ITARIFF_T i) (by simp only [Fld.key]; omega)]

end State.SameNet

@[simp] theorem State.count_net (s : State) (f : Fld) (n : Nat) : (s.count f n).net = s.net := rfl
@[simp] theorem State.count_store (s : State) (f : Fld) (n : Nat) : (s.count f n).store = s.store := rfl
@[simp] theorem State.count_power (s : State) (f : Fld) (n : Nat) : (s.count f n).power = s.power := rfl
@[simp] theorem State.region_count (s : State) (f : Fld) (n r : Nat) : (s.count f n).region r = s.region r := rfl
@[simp] theorem State.block_count (s : State) (f : Fld) (n b : Nat) : (s.count f n).block b = s.block b := rfl

/-- R224: the update that the engine of region `r` makes of the record `x`. -/
def State.recordUpd (s : State) (r : Nat) (x : FailRec) : Upd :=
  ⟨(s.region r).nextEid, r, x, x.av && s.flag (LDG.CVCFG_AEN r ((x.cell - x.member) % 64)) &&
    decide ((s.acctRange (x.cell - x.member)).1 ≤ x.acct) && decide (x.acct < (s.acctRange (x.cell - x.member)).2), true⟩

/-- R224, R234: the engine of region `r` has counted the record of the update `u`, and a miss where it goes to no account. -/
def State.recordCounted (s : State) (r : Nat) (u : Upd) : State :=
  (if u.acct then s.count (LDG.RECORDS_COUNT r) 1 else (s.count (LDG.RECORDS_COUNT r) 1).count (LDG.ACCT_MISS_COUNT r) 1).modRegion r
    fun x => { x with nextEid := u.eid + 1 }

/-- R223: the engine of region `r` has taken the first item of the merger of block `b`; `rest` is left. -/
def State.headTaken (s : State) (r b : Nat) (rest : List QItem) : State :=
  (s.modBlock b fun x => { x with merger := rest }).modRegion r fun x => { x with engineRR := (b + 1) % 8 }

/-- A record has been taken and counted. -/
def State.recordTaken (s : State) (r b : Nat) (rest : List QItem) (u : Upd) : State := (s.headTaken r b rest).recordCounted r u

theorem State.engineRecord_eq (s : State) (r : Nat) (x : FailRec) : s.engineRecord r x =
    if s.flag (LDG.CVCFG_LEN r ((x.cell - x.member) % 64)) && s.flag (LDG.CTRL_EN 0) then
      (s.recordCounted r (s.recordUpd r x)).sendUpdate r (s.recordUpd r x)
    else if (s.recordUpd r x).acct then
      (s.recordCounted r (s.recordUpd r x)).modRegion r fun y => { y with acctQ := y.acctQ ++ [s.recordUpd r x] }
    else s.recordCounted r (s.recordUpd r x) := rfl

theorem State.recordUpd_headTaken (s : State) (r b : Nat) (rest : List QItem) (x : FailRec) :
    (s.headTaken r b rest).recordUpd r x = s.recordUpd r x := by
  simp only [State.recordUpd, State.headTaken, State.region_modRegion_self, State.region_modBlock]
  rfl

/-- ENGINE_APPLY of a record, where no update waits at the engine's interface. -/
theorem State.engineApply_record {s : State} {r b : Nat} {x : FailRec} {rest : List QItem} (hf : s.frozen = false)
    (hwait : s.net.waiting.find? (fun e => e.init == 64 + r) = none) (hpick : s.enginePick r = some b)
    (hm : (s.block b).merger = .record x :: rest) : s.engineApply r =
      if s.flag (LDG.CVCFG_LEN r ((x.cell - x.member) % 64)) && s.flag (LDG.CTRL_EN 0) then
        (s.recordTaken r b rest (s.recordUpd r x)).sendUpdate r (s.recordUpd r x)
      else if (s.recordUpd r x).acct then
        (s.recordTaken r b rest (s.recordUpd r x)).modRegion r fun y => { y with acctQ := y.acctQ ++ [s.recordUpd r x] }
      else s.recordTaken r b rest (s.recordUpd r x) := by
  simp only [State.engineApply, hf, hwait, hpick, hm, Bool.false_eq_true, if_false]
  refine (State.engineRecord_eq (s.headTaken r b rest) r x).trans ?_
  rw [State.recordUpd_headTaken]
  rfl

@[simp] theorem State.rd_headTaken (s : State) (r b : Nat) (rest : List QItem) (f : Fld) : (s.headTaken r b rest).rd f = s.rd f := rfl

theorem State.rd_recordCounted_ne (s : State) {r : Nat} (u : Upd) {f : Fld} (hrec : (LDG.RECORDS_COUNT r).key ≠ f.key)
    (hmiss : (LDG.ACCT_MISS_COUNT r).key ≠ f.key) : (s.recordCounted r u).rd f = s.rd f := by
  rw [State.recordCounted, State.rd_modRegion]
  split
  · exact s.rd_count_ne 1 hrec
  · exact ((s.count _ 1).rd_count_ne 1 hmiss).trans (s.rd_count_ne 1 hrec)

theorem State.rd_recordCounted_self (s : State) (r : Nat) (u : Upd) : (s.recordCounted r u).rd (LDG.RECORDS_COUNT r) =
    satAdd (LDG.RECORDS_COUNT r).width (s.rd (LDG.RECORDS_COUNT r)) 1 := by
  have hmiss : (LDG.ACCT_MISS_COUNT r).key ≠ (LDG.RECORDS_COUNT r).key := by simp only [Fld.key]; omega
  rw [State.recordCounted, State.rd_modRegion]
  split
  · exact s.rd_count_self _ 1
  · exact ((s.count _ 1).rd_count_ne 1 hmiss).trans (s.rd_count_self _ 1)

/-- Only the registers, the block of the merger and the region of the engine change with a record that is taken. -/
theorem State.recordTaken_frame (s : State) (r b : Nat) (rest : List QItem) (u : Upd) :
    (s.recordTaken r b rest u).mem = s.mem ∧ (s.recordTaken r b rest u).net = s.net ∧ (s.recordTaken r b rest u).store = s.store ∧
      (s.recordTaken r b rest u).power = s.power ∧ (s.recordTaken r b rest u).block b = { s.block b with merger := rest } ∧
      (s.recordTaken r b rest u).region r = { s.region r with engineRR := (b + 1) % 8, nextEid := u.eid + 1 } := by
  cases ha : u.acct <;> simp [State.recordTaken, State.recordCounted, State.headTaken, ha]

/-- The registers that an interface and a home read keep their values. -/
theorem State.rd_recordTaken (s : State) (r b : Nat) (rest : List QItem) (u : Upd) {f : Fld}
    (hf : f.key < 64 * 0x1000000 ∨ f.key = (LDG.CTRL_SALT 0).key) : (s.recordTaken r b rest u).rd f = s.rd f :=
  (s.headTaken r b rest).rd_recordCounted_ne u (by simp only [Fld.key, regionBase] at hf ⊢; omega)
    (by simp only [Fld.key, regionBase] at hf ⊢; omega)

theorem State.ledgerHome_recordTaken (s : State) (r b : Nat) (rest : List QItem) (u : Upd) (x : FailRec) :
    (s.recordTaken r b rest u).ledgerHome x = s.ledgerHome x := by
  rw [State.ledgerHome, s.rd_recordTaken r b rest u (.inr rfl), State.ledgerHome]

theorem State.sameNet_recordTaken (s : State) (r b : Nat) (rest : List QItem) (u : Upd) : s.SameNet (s.recordTaken r b rest u) := by
  obtain ⟨-, hnet, hstore, hpower, -, -⟩ := s.recordTaken_frame r b rest u
  exact ⟨hnet, hstore, hpower, fun f hf => s.rd_recordTaken r b rest u (.inl hf)⟩

/-! ### The update is issued -/

/-- R228: an update is a request of its engine to the home of its key. -/
theorem lupReq_spec (h : Nat) {u : Upd} {r : Nat} (hu : u.region = r) : (lupReq h u).init = 64 + r ∧ (lupReq h u).kind = .lupd ∧
    (lupReq h u).len = 3 ∧ (lupReq h u).tag = u.eid := ⟨congrArg (64 + ·) hu, rfl, rfl, rfl⟩

theorem State.region_of_regions {s t : State} (h : t.regions = s.regions) (r : Nat) : t.region r = s.region r := by
  rw [State.region, h, State.region]

section
variable {s : State} {r : Nat} {u : Upd} {q : Req} (hr : r < 4) (hu : u.region = r) (hq : q = lupReq (s.ledgerHome u.r) u)
include hr hu

theorem State.sendUpdate_step : s.IssueStep (s.sendUpdate r u) := by
  obtain ⟨hi, hk, hlen, -⟩ := lupReq_spec (s.ledgerHome u.r) hu
  obtain ⟨hmem, hblocks, hrd⟩ := State.issue_step hr hi hk hlen (s.modRegion r fun x => { x with sent := x.sent ++ [u] })
  exact ⟨hmem, hblocks, hrd⟩

include hq
variable (hl : s.lcServes q = true)
include hl

/-- R302, R303: the home's domain is on and its engine has berths there: the update waits for a berth or a slot, or leaves. -/
theorem State.sendUpdate_served (hd : s.domainOff q.target = false) (hg : s.rd (NOC.BERTH_GRANT q.init q.target.berth.1) ≠ 0)
    (hs : s.power.sleep < 2) :
    ((s.sendUpdate r u).region r).sent = (s.region r).sent ++ [u] ∧ ((s.sendUpdate r u).region r).acctQ = (s.region r).acctQ ∧
      (s.mayIssue q = false → (s.sendUpdate r u).net.flight = s.net.flight ∧
        (s.net.waiting.any q.same = false → (s.sendUpdate r u).net.waiting = s.net.waiting ++ [q])) ∧
      (s.mayIssue q = true → s.routeHeldBack q = false → s.routed q.target = true →
        (s.sendUpdate r u).net.flight = s.net.flight ++ [{ q with tariff := s.tariffOf q.init, hop := 0 }]) := by
  obtain ⟨hi, hk, hlen, -⟩ := lupReq_spec (s.ledgerHome u.r) hu
  rw [← hq] at hi hk hlen
  let v := s.modRegion r fun x => { x with sent := x.sent ++ [u] }
  have hsend : s.sendUpdate r u = v.issue q := by rw [hq]; rfl
  have hsent : (v.region r).sent = (s.region r).sent ++ [u] := by rw [State.region_modRegion_self]
  have hacct : (v.region r).acctQ = (s.region r).acctQ := by rw [State.region_modRegion_self]
  rw [hsend]
  cases hm : s.mayIssue q
  case false =>
    obtain ⟨-, hflight, hregions⟩ := v.waits_frame q
    rw [State.issue_waits hr hi hk hlen (s := v) hl hd hg hm, State.region_of_regions hregions]
    refine ⟨hsent, hacct, fun _ => ⟨hflight, fun hnew => ?_⟩, fun h => absurd h (by simp)⟩
    rw [State.waits_new (s := v) hnew]
    rfl
  case true =>
    obtain ⟨-, hregions, hflight⟩ := State.launch_frame (s := v) hr hi
    rw [State.issue_launch hr hi hk hlen (s := v) hl hd hg hs hm, State.region_of_regions hregions]
    exact ⟨hsent, hacct, fun h => absurd h (by simp), fun _ => hflight⟩

/-- R234, R315: the home's domain is off: the update ends at its engine, and its record goes on to its account, not NEW. -/
theorem State.sendUpdate_off (hd : s.domainOff q.target = true) (hw : s.flag PWR.CTRL_LEGACY_WAKE = false)
    (hnew : ∀ v ∈ (s.region r).sent, v.eid ≠ u.eid) : ((s.sendUpdate r u).region r).sent = (s.region r).sent ∧
      ((s.sendUpdate r u).region r).acctQ = (s.region r).acctQ ++ (if u.acct then [{ u with fresh := false }] else []) := by
  obtain ⟨hi, hk, hlen, htag⟩ := lupReq_spec (s.ledgerHome u.r) hu
  rw [← hq] at hi hk hlen htag
  let v := s.modRegion r fun x => { x with sent := x.sent ++ [u] }
  let w := v.count (NOC.TOLL_D_DOMAIN_OFF q.init) 1
  have hsend : s.sendUpdate r u = v.issue q := by rw [hq]; rfl
  have hregion : w.region r = { s.region r with sent := (s.region r).sent ++ [u] } := by
    simp only [w, v, State.region_count, State.region_modRegion_self]
  have hfind : (w.region r).sent.find? (fun v => v.eid == q.tag) = some u := by
    rw [hregion, htag, List.find?_append, List.find?_eq_none.mpr fun v hv => by simpa using hnew v hv]
    simp
  have hmem : u ∉ (s.region r).sent := fun h => hnew u h rfl
  have herase : ((s.region r).sent ++ [u]).erase u = (s.region r).sent := by
    rw [List.erase_append_right _ hmem]; simp
  rw [hsend, State.issue_off hr hi hk hlen (s := v) hl hd hw, State.finish_update hr hi hk, State.region_mk,
    State.updateAnswered_sent hi hfind, State.region_modRegion_self, hregion]
  exact ⟨herase, rfl⟩

end

section
variable {s : State} {r b : Nat} {x : FailRec} {rest : List QItem} {u : Upd} (hr : r < 4) (hf : s.frozen = false)
  (hwait : s.net.waiting.find? (fun e => e.init == 64 + r) = none) (hpick : s.enginePick r = some b)
  (hm : (s.block b).merger = .record x :: rest) (hu : u = s.recordUpd r x)
include hf hwait hpick hm hu

/-- R224: with LEN and CTRL.EN the engine sends the update. -/
theorem State.engineApply_sends (hlen : s.flag (LDG.CVCFG_LEN r ((x.cell - x.member) % 64)) = true) (hen : s.flag (LDG.CTRL_EN 0) = true) :
    s.engineApply r = (s.recordTaken r b rest u).sendUpdate r u := by
  rw [State.engineApply_record hf hwait hpick hm, hlen, hen, hu]
  rfl

/-- R224, R234: without LEN or CTRL.EN the record goes to its account, if to anywhere. -/
theorem State.engineApply_keeps_net (h : s.flag (LDG.CVCFG_LEN r ((x.cell - x.member) % 64)) = false ∨ s.flag (LDG.CTRL_EN 0) = false) :
    (s.recordTaken r b rest u).IssueStep (s.engineApply r) ∧ (s.engineApply r).net = s.net ∧
      ((s.engineApply r).region r).sent = (s.region r).sent ∧
      ((s.engineApply r).region r).acctQ = (s.region r).acctQ ++ (if u.acct then [u] else []) := by
  obtain ⟨-, hnet, -, -, -, hregion⟩ := s.recordTaken_frame r b rest u
  have hoff : (s.flag (LDG.CVCFG_LEN r ((x.cell - x.member) % 64)) && s.flag (LDG.CTRL_EN 0)) = false := Bool.and_eq_false_iff.mpr h
  rw [State.engineApply_record hf hwait hpick hm, hoff, ← hu]
  cases ha : u.acct
  · exact ⟨.refl _, hnet, by simp [hregion], by simp [hregion]⟩
  · exact ⟨⟨rfl, rfl, fun _ _ => rfl⟩, hnet, by simp [hregion], by simp [hregion]⟩

include hr

/-- Where the record goes shows in no memory, no block and no register of a region. -/
theorem State.engineApply_step : (s.recordTaken r b rest u).IssueStep (s.engineApply r) := by
  by_cases h : s.flag (LDG.CVCFG_LEN r ((x.cell - x.member) % 64)) = true ∧ s.flag (LDG.CTRL_EN 0) = true
  · rw [State.engineApply_sends hf hwait hpick hm hu h.1 h.2]
    exact State.sendUpdate_step hr (by rw [hu]; rfl)
  · exact (State.engineApply_keeps_net hf hwait hpick hm hu (by simpa only [not_and_or, Bool.not_eq_true] using h)).1

/-- R224: the record leaves the merger, and RECORDS counts it. -/
theorem State.engineApply_counts : ((s.engineApply r).block b).merger = rest ∧ (s.engineApply r).mem = s.mem ∧
    (s.engineApply r).rd (LDG.RECORDS_COUNT r) = satAdd (LDG.RECORDS_COUNT r).width (s.rd (LDG.RECORDS_COUNT r)) 1 := by
  obtain ⟨hmem, -, -, -, hblock, -⟩ := s.recordTaken_frame r b rest u
  obtain ⟨hmem', hblocks, hrd⟩ := State.engineApply_step hr hf hwait hpick hm hu
  have hb : (s.engineApply r).block b = (s.recordTaken r b rest u).block b := by rw [State.block, hblocks, State.block]
  refine ⟨by rw [hb, hblock], hmem'.trans hmem, (hrd _ ?_).trans ((s.headTaken r b rest).rd_recordCounted_self r u)⟩
  simp only [Fld.key, regionBase]
  omega

variable {q : Req} (hq : q = lupReq (s.ledgerHome x) u) (hlen : s.flag (LDG.CVCFG_LEN r ((x.cell - x.member) % 64)) = true)
  (hen : s.flag (LDG.CTRL_EN 0) = true) (hl : s.lcServes q = true)
include hq hlen hen hl

/-- R224, R302: the update of a home whose domain is on. -/
theorem State.engineApply_served (hd : s.domainOff q.target = false) (hg : s.rd (NOC.BERTH_GRANT q.init q.target.berth.1) ≠ 0)
    (hs : s.power.sleep < 2) : ((s.engineApply r).region r).sent = (s.region r).sent ++ [u] ∧
      ((s.engineApply r).region r).acctQ = (s.region r).acctQ ∧
      (s.mayIssue q = false → (s.engineApply r).net.flight = s.net.flight ∧
        (s.net.waiting.any q.same = false → (s.engineApply r).net.waiting = s.net.waiting ++ [q])) ∧
      (s.mayIssue q = true → s.routeHeldBack q = false → s.routed q.target = true →
        (s.engineApply r).net.flight = s.net.flight ++ [{ q with tariff := s.tariffOf q.init, hop := 0 }]) := by
  have hreg : u.region = r := by rw [hu]; rfl
  have hrec : u.r = x := by rw [hu]; rfl
  obtain ⟨hi, hk, -, -⟩ := lupReq_spec (s.ledgerHome x) hreg
  rw [← hq] at hi hk
  obtain ⟨-, hnet, -, hpower, -, hregion⟩ := s.recordTaken_frame r b rest u
  have hsame := s.sameNet_recordTaken r b rest u
  have hhome : (s.recordTaken r b rest u).ledgerHome u.r = s.ledgerHome x := by rw [s.ledgerHome_recordTaken, hrec]
  have h := State.sendUpdate_served (s := s.recordTaken r b rest u) hr hreg (hhome ▸ hq) ((hsame.lcServes q).trans hl)
    ((hsame.domainOff q.target).trans hd) (by rwa [hsame.grant hr hi hk]) (by rwa [hpower])
  rw [State.engineApply_sends hf hwait hpick hm hu hlen hen]
  rwa [hregion, hsame.mayIssue hr hi hk, hsame.routeHeldBack, hsame.routed, hsame.tariffOf (by omega), hnet] at h

/-- R234, R315: the update of a home whose domain is off ends at once. -/
theorem State.engineApply_off (hd : s.domainOff q.target = true) (hw : s.flag PWR.CTRL_LEGACY_WAKE = false)
    (hnew : ∀ v ∈ (s.region r).sent, v.eid ≠ u.eid) : ((s.engineApply r).region r).sent = (s.region r).sent ∧
      ((s.engineApply r).region r).acctQ = (s.region r).acctQ ++ (if u.acct then [{ u with fresh := false }] else []) := by
  have hreg : u.region = r := by rw [hu]; rfl
  have hrec : u.r = x := by rw [hu]; rfl
  obtain ⟨-, -, -, -, -, hregion⟩ := s.recordTaken_frame r b rest u
  have hsame := s.sameNet_recordTaken r b rest u
  have hhome : (s.recordTaken r b rest u).ledgerHome u.r = s.ledgerHome x := by rw [s.ledgerHome_recordTaken, hrec]
  have h := State.sendUpdate_off (s := s.recordTaken r b rest u) hr hreg (hhome ▸ hq) ((hsame.lcServes q).trans hl)
    ((hsame.domainOff q.target).trans hd) ((hsame.flag (by decide)).trans hw) (by rwa [hregion])
  rw [State.engineApply_sends hf hwait hpick hm hu hlen hen]
  rwa [hregion] at h

end

/-! ## The home of an update (R228, R229) -/

theorem ite_ne {α : Type} {p : Prop} [Decidable p] {a b c : α} (ha : a ≠ c) (hb : b ≠ c) : (if p then a else b) ≠ c := by
  split <;> assumption

/-- R271: no address is a ledger home. -/
theorem targetOf_ne_home (a h : Nat) : targetOf a ≠ .home h := by
  unfold targetOf
  repeat refine ite_ne Target.noConfusion ?_
  exact Target.noConfusion

/-- R228: what goes to a home is a ledger update. -/
theorem Req.kind_of_home {q : Req} {h : Nat} (ht : q.target = .home h) : q.kind = .lupd := by
  cases hk : q.kind
  case lupd => rfl
  all_goals exact absurd (by simpa only [Req.target, hk] using ht) (targetOf_ne_home q.addr h)

theorem State.kind_of_updateAt {s : State} {h : Nat} {q : Req} (hq : s.updateAt h = some q) : q.kind = .lupd := by
  have := List.find?_some hq
  simp only [Bool.and_eq_true, beq_iff_eq] at this
  exact Req.kind_of_home this.1

/-- R228: the home takes the update that has arrived first. -/
theorem State.homeApply_arrived {s : State} {h : Nat} {q : Req} (hf : s.frozen = false) (hq : s.updateAt h = some q) (victim : Nat)
    (ve : Upset) (up dev lost : Nat) : s.homeApply h victim ve up dev lost = s.applyAt h q victim ve up dev lost := by
  have hbring : s.bringUpdate h = s := by simp [State.bringUpdate, hq]
  simp only [State.homeApply, hf, hbring, hq, Bool.false_eq_true, if_false]

/-- R229, R245: a cached bucket without an error is at hand as it stands. -/
theorem State.cached_clean {s : State} {h b : Nat} (hc : s.inCache h b = true) (victim : Nat) (ve : Upset) (dev lost : Nat) :
    s.cached h b victim ve 0 dev lost = s := by
  have : (Tab.get Line.none (s.region h).cache b).words.isEmpty = false := by simpa [State.inCache] using hc
  simp only [State.cached, this, Bool.false_eq_true, if_false, State.checkLine, if_true]

/-- R228: the home `h` has taken the update `q` of a cached bucket, and counted it. -/
def State.updateTaken (s : State) (h : Nat) (q : Req) : State :=
  (({ s with net := { s.net with flight := s.net.flight.erase q } }).count (LDG.CACHE_HIT_COUNT h) 1).count (LDG.UPDATES_COUNT h) 1

@[simp] theorem State.region_updateTaken (s : State) (h : Nat) (q : Req) (r : Nat) : (s.updateTaken h q).region r = s.region r := rfl

theorem State.applyAt_cached {s : State} {h b : Nat} {q : Req} {x : FailRec} (hx : x = FailRec.ofWords q.data) (hb : b = s.bucketOf x.key)
    (hc : s.inCache h b = true) (hn : s.needsChannel h b x = false) (victim : Nat) (ve : Upset) (dev lost : Nat) :
    s.applyAt h q victim ve 0 dev lost = (((s.updateTaken h q).applyRecord h b x).1).respond q 0 [b2n ((s.updateTaken h q).applyRecord h b x).2] := by
  have hcached : (s.updateTaken h q).cached h b victim ve 0 dev lost = s.updateTaken h q :=
    State.cached_clean (by rwa [State.inCache, State.region_updateTaken]) ..
  have htaken : (({ s with net := { s.net with flight := s.net.flight.erase q } }).count (LDG.CACHE_HIT_COUNT h) 1).count
      (LDG.UPDATES_COUNT h) 1 = s.updateTaken h q := rfl
  simp only [State.applyAt, ← hx, ← hb, hn, hc, Bool.false_eq_true, and_false, if_false, if_true, htaken, hcached]

/-- R226: which entries are live depends on the epochs alone. -/
theorem State.live_congr {s t : State} (h : ∀ n, n < 256 → t.rd (LDG.SITE_EPOCH 0 n) = s.rd (LDG.SITE_EPOCH 0 n)) : t.live = s.live := by
  funext w
  rw [State.live, State.live, h (entrySite w) (Nat.mod_lt _ (by decide))]

theorem State.epoch_updateTaken (s : State) {h n : Nat} (q : Req) (hn : n < 256) :
    (s.updateTaken h q).rd (LDG.SITE_EPOCH 0 n) = s.rd (LDG.SITE_EPOCH 0 n) := by
  have h1 : (LDG.CACHE_HIT_COUNT h).key ≠ (LDG.SITE_EPOCH 0 n).key := by simp only [Fld.key, regionBase]; omega
  have h2 : (LDG.UPDATES_COUNT h).key ≠ (LDG.SITE_EPOCH 0 n).key := by simp only [Fld.key, regionBase]; omega
  rw [State.updateTaken, State.rd_count_ne _ 1 h2, State.rd_count_ne _ 1 h1, State.rd_mk]

theorem State.findEntry_congr {s t : State} (h : t.live = s.live) : t.findEntry = s.findEntry := by
  funext ws key
  rw [State.findEntry, State.findEntry, h]

theorem State.freeEntry_congr {s t : State} (h : t.live = s.live) : t.freeEntry = s.freeEntry := by
  funext ws
  rw [State.freeEntry, State.freeEntry, h]

theorem State.live_updateTaken (s : State) (h : Nat) (q : Req) : (s.updateTaken h q).live = s.live :=
  State.live_congr fun _ hn => s.epoch_updateTaken q hn

/-- R228, R241: the words `new` have taken the place of a bucket's words, and the set sum has moved; the answer is `fresh`. -/
def State.updateDone (s : State) (h b site old sum : Nat) (q : Req) (new : List Nat) (fresh : Nat) : State :=
  (((s.updateTaken h q).putLine h b new true).moveSum h site old sum).respond q 0 [fresh]

theorem State.updateDone_frame (s : State) (h b site old sum : Nat) {q : Req} (new : List Nat) (fresh : Nat) (hk : q.kind = .lupd) :
    (s.updateDone h b site old sum q new fresh).mem = s.mem ∧
      Tab.get Line.none ((s.updateDone h b site old sum q new fresh).region h).cache b = ⟨new, true⟩ ∧
      (s.updateDone h b site old sum q new fresh).net.flight = s.net.flight.erase q ∧
      (s.updateDone h b site old sum q new fresh).net.rsps = s.net.rsps ++ [⟨q, 0, [fresh]⟩] := by
  refine ⟨rfl, ?_, rfl, ?_⟩
  · simp only [State.updateDone, State.respond, State.moveSum, State.putLine, State.region_mk, State.region_modRegion_self,
      Tab.get_set_self]
  · simp only [State.updateDone, State.respond, hk, reduceCtorEq, if_false]
    rfl

section
variable {s : State} {h b key k : Nat} {q : Req} {x : FailRec} {ws : List Nat} (hf : s.frozen = false) (hq : s.updateAt h = some q)
  (hx : x = FailRec.ofWords q.data) (hb : b = s.bucketOf x.key) (hw : (Tab.get Line.none (s.region h).cache b).words = ws)
  (hc : s.inCache h b = true) (hkey : key = x.key + 2 ^ 50 * (x.member % 64))
include hf hq hx hb hw hc hkey

/-- R228: an update of a cached bucket with a live entry of its key or an empty slot needs no channel. -/
theorem exec_lupd_cached (hslot : (s.findEntry ws key).isSome = true ∨ (s.freeEntry ws).isSome = true) (victim : Victim) (dev lost : Nat) :
    exec (.lupd h victim 0 dev lost) s = .next ((((s.updateTaken h q).applyRecord h b x).1).respond q 0
      [b2n ((s.updateTaken h q).applyRecord h b x).2]) := by
  have hn : s.needsChannel h b x = false := by
    simp only [State.needsChannel, hw, hc, ← hkey, Bool.not_true, Bool.false_or, Bool.and_eq_false_iff, Option.isNone_eq_false_iff]
    exact hslot
  exact congrArg Host.Outcome.next ((State.homeApply_arrived hf hq ..).trans (State.applyAt_cached hx hb hc hn ..))

/-- R228: a live entry of the key gains the flags and the fail bits of the record, and counts it. -/
theorem exec_lupd_found (hfind : s.findEntry ws key = some k) (victim : Victim) (dev lost : Nat) :
    ∃ site old sum, exec (.lupd h victim 0 dev lost) s = .next (s.updateDone h b site old sum q
      ((ws.set (2 * k) (Nat.lor (ws.getD (2 * k) 0) x.flags)).set (2 * k + 1)
        (setField (Nat.lor (ws.getD (2 * k + 1) 0) (bits x.fbits 0 32)) 48 16 (satAdd 16 (bits (ws.getD (2 * k + 1) 0) 48 16) 1))) 0) := by
  have hfind' : (s.updateTaken h q).findEntry ws key = some k := by rw [State.findEntry_congr (s.live_updateTaken h q), hfind]
  have h := exec_lupd_cached hf hq hx hb hw hc hkey (.inl (by rw [hfind]; rfl)) victim dev lost
  simp only [State.applyRecord, State.region_updateTaken, hw, ← hkey, hfind'] at h
  exact ⟨_, _, _, h⟩

/-- R228: without a live entry of the key, the lowest empty slot takes the record. -/
theorem exec_lupd_new (hfind : s.findEntry ws key = none) (hfree : s.freeEntry ws = some k) (victim : Victim) (dev lost : Nat) :
    ∃ site old sum, exec (.lupd h victim 0 dev lost) s = .next (s.updateDone h b site old sum q
      ((ws.set (2 * k) (key + 2 ^ 56 * s.rd (LDG.SITE_EPOCH 0 x.site) + 2 ^ 64 + x.flags)).set (2 * k + 1)
        (bits x.fbits 0 32 + 2 ^ 32 * (x.tag % 65536) + 2 ^ 48)) 1) := by
  have hfind' : (s.updateTaken h q).findEntry ws key = none := by rw [State.findEntry_congr (s.live_updateTaken h q), hfind]
  have hfree' : (s.updateTaken h q).freeEntry ws = some k := by rw [State.freeEntry_congr (s.live_updateTaken h q), hfree]
  have hsite : x.site < 256 := by rw [hx]; exact Nat.mod_lt _ (by decide)
  have h := exec_lupd_cached hf hq hx hb hw hc hkey (.inr (by rw [hfree]; rfl)) victim dev lost
  simp only [State.applyRecord, State.region_updateTaken, hw, ← hkey, hfind', hfree', s.epoch_updateTaken q hsite] at h
  exact ⟨_, _, _, h⟩

end

/-! ## The answer to an update (R228, R301) -/

theorem State.tollResponse_frame (s : State) (q : Req) (words st lat : Nat) : (s.tollResponse q words st lat).mem = s.mem ∧
    (s.tollResponse q words st lat).regions = s.regions := by
  unfold State.tollResponse
  extract_lets i ns t
  split
  · exact ⟨rfl, rfl⟩
  · split <;> exact ⟨rfl, rfl⟩

/-- R228, R234: the answer to an update, in its turn, ends the update; its record goes on with NEW as told. -/
theorem exec_rspAck_update {s : State} {r lat new : Nat} {u : Upd} {q : Req} (hr : r < 4) (hf : s.frozen = false) (hk : q.kind = .lupd)
    (hi : q.init = 64 + r)
    (hrsp : (s.net.rsps.find? fun e => e.req.is (64 + r) u.eid && (e.status == 0 && e.req.access == 1)) = some ⟨q, 0, [new]⟩)
    (hmay : s.mayReturn ⟨q, 0, [new]⟩ = true) (htime : s.timedOut q = false) (horphan : s.net.orphans.any q.same = false)
    (hsent : ((s.region r).sent.find? fun v => v.eid == u.eid) = some u) :
    ∃ t, exec (.rspAck (64 + r) u.eid lat) s = .next t ∧ t.mem = s.mem ∧ (t.region r).sent = (s.region r).sent.erase u ∧
      (t.region r).acctQ = (s.region r).acctQ ++ (if u.acct then [{ u with fresh := new == 1 }] else []) := by
  have htag : q.tag = u.eid := by
    have := List.find?_some hrsp
    simp only [Req.is, Bool.and_eq_true, beq_iff_eq] at this
    exact this.1.2
  let v := ({ s with net := { s.net with rsps := s.net.rsps.erase ⟨q, 0, [new]⟩ } } : State).tollResponse q 1 0 lat
  obtain ⟨hmem, hregions⟩ := ({ s with net := { s.net with rsps := s.net.rsps.erase ⟨q, 0, [new]⟩ } } : State).tollResponse_frame q 1 0 lat
  have hregion : v.region r = s.region r := State.region_of_regions hregions r
  have hx : exec (.rspAck (64 + r) u.eid lat) s = .next (v.finish q 0 [new]) := by
    simp only [exec, execRspAck, hf, State.deliver, hrsp, hmay, State.arrived, htime, horphan, Bool.false_eq_true, if_false, if_true,
      Bool.not_true]
    rfl
  refine ⟨v.finish q 0 [new], hx, ?_, ?_⟩
  · exact (State.finish_step hr hi hk v 0 [new]).mem.trans hmem
  · rw [State.finish_update hr hi hk, State.region_mk, State.updateAnswered_sent hi (by rw [hregion, htag]; exact hsent),
      State.region_modRegion_self, hregion]
    exact ⟨rfl, rfl⟩

/-- Settles O30, clause by clause along the path of a record: each clause is the rule of its step. -/
theorem ledgerQueuesAndUpdates : Obligations.LedgerQueuesAndUpdates := by
  unfold Obligations.LedgerQueuesAndUpdates
  refine ⟨fun s c r hf hq hsus => ?release, fun s b c i rest hf hroom hpick hq => ?take,
    fun s r b l x rest u q hr hf hwait hpick hm hl hq hu => ?engine,
    fun s h b dev key lost victim q x ws hh hf hq hx hb hw hc hkey => ⟨fun k hfind => ?found, fun k hfind hfree => ?new⟩,
    fun s r lat new u q hr hf hk hi hrsp hmay htime horphan hsent =>
      exec_rspAck_update hr hf hk hi hrsp hmay htime horphan hsent,
    fun s p r u rest ws a hf hq hc hw ha hp => ?account⟩
  case release =>
    rw [exec_failQueueRelease_record hf hq, State.mayLeave_unsuspected hsus]
    simp only [Bool.not_eq_true', decide_eq_false_iff_not, ite_not]
  case take =>
    refine ⟨_, congrArg Host.Outcome.next (State.mergerTake_pick hf hroom hpick hq), ?_, ?_, ?_, rfl, rfl, fun d hd => ?_⟩
    · rw [State.cell_modBlock, State.cell_modCell_self]
    · rw [State.block_modBlock_self, State.block_modCell]
    · rw [State.block_modBlock_self]
    · rw [State.cell_modBlock, State.cell_modCell_ne _ _ hd.symm]
  case engine =>
    subst hl
    have hu : u = s.recordUpd r x := hu
    obtain ⟨hmerger, hmem, hrecords⟩ := State.engineApply_counts hr hf hwait hpick hm hu
    refine ⟨s.engineApply r, rfl, hmerger, hmem, hrecords, fun hlen hen hl => ⟨?_, ?_⟩, fun hoff => ?_⟩
    · exact State.engineApply_served hr hf hwait hpick hm hu hq hlen hen hl
    · exact State.engineApply_off hr hf hwait hpick hm hu hq hlen hen hl
    · exact (State.engineApply_keeps_net hf hwait hpick hm hu hoff).2
  case found =>
    obtain ⟨site, old, sum, hx⟩ := exec_lupd_found hf hq hx hb hw hc hkey hfind victim dev lost
    exact ⟨_, hx, s.updateDone_frame h b site old sum _ 0 (State.kind_of_updateAt hq)⟩
  case new =>
    obtain ⟨site, old, sum, hx⟩ := exec_lupd_new hf hq hx hb hw hc hkey hfind hfree victim dev lost
    exact ⟨_, hx, s.updateDone_frame h b site old sum _ 1 (State.kind_of_updateAt hq)⟩
  case account =>
    have hx : exec (.accountUpdate r 0) s = .next (s.acctApply r 0) := rfl
    rw [hx, State.acctApply_clean hf hq hc hw ha hp]
    refine ⟨fun h => ?_, fun hen hsite => ⟨fun hv => ?_, fun hv hn => ?_, fun hv hn => ?_⟩⟩
    · have : (!a.en || a.site != u.r.site) = true := by simpa using h
      rw [if_pos this]
    all_goals simp [hen, hsite, hv]
    all_goals simp [hn]

end Sys2Proof.Machine

namespace Sys2Proof.Machine

/-! ## Markers and drains (R222, R238) -/

theorem recordCount_append (p q : List QItem) : recordCount (p ++ q) = recordCount p + recordCount q := by
  simp only [recordCount, List.filter_append, List.length_append]

theorem recordCount_cons_record (r : FailRec) (q : List QItem) : recordCount (.record r :: q) = recordCount q + 1 := rfl

theorem recordCount_cons_mark (c : Nat) (m : Marker) (q : List QItem) : recordCount (.mark c m :: q) = recordCount q := rfl

/-- Keeping every record keeps their number. -/
theorem recordCount_filter {p : QItem → Bool} (h : ∀ r, p (.record r) = true) (q : List QItem) : recordCount (q.filter p) = recordCount q := by
  induction q with
  | nil => rfl
  | cons i q ih =>
    cases i with
    | record r => rw [List.filter_cons_of_pos (h r), recordCount_cons_record, recordCount_cons_record, ih]
    | mark c m =>
      rw [List.filter_cons, recordCount_cons_mark]
      split
      · rw [recordCount_cons_mark, ih]
      · exact ih

/-- The marker of a queue is its first. -/
theorem markerIds_filter_append {p : QItem → Bool} (h : ∀ c m, p (.mark c m) = false) (q : List QItem) (c : Nat) (m : Marker) :
    markerIds (q.filter p ++ [.mark c m]) = m.ids := by
  induction q with
  | nil => rfl
  | cons i q ih =>
    cases i with
    | record r =>
      rw [List.filter_cons]
      split
      · exact ih
      · exact ih
    | mark d n => rw [List.filter_cons_of_neg (by simp [h])]; exact ih

/-- R222: a cell's queue after a marker of drain `id`: the marker names the drain, and no record has left. -/
theorem State.markCell_failQ (s : State) (id c : Nat) : id ∈ markerIds ((s.markCell id c).cell c).failQ ∧
    recordCount ((s.markCell id c).cell c).failQ = recordCount (s.cell c).failQ := by
  rw [State.markCell, State.cell_modCell_self]
  constructor
  · rw [markerIds_filter_append fun _ _ => rfl]
    exact List.mem_append_right _ (List.mem_singleton_self id)
  · rw [recordCount_append, recordCount_filter fun _ => rfl]
    rfl

/-- A marker of drain `id` that is in a cell's queue stays there with the records while further cells get theirs. -/
theorem State.foldl_markCell (s t : State) (id c : Nat) {cs : List Nat}
    (h : c ∈ cs ∨ id ∈ markerIds (t.cell c).failQ) (hn : recordCount (t.cell c).failQ = recordCount (s.cell c).failQ) :
    id ∈ markerIds ((cs.foldl (fun u d => u.markCell id d) t).cell c).failQ ∧
      recordCount ((cs.foldl (fun u d => u.markCell id d) t).cell c).failQ = recordCount (s.cell c).failQ := by
  induction cs generalizing t with
  | nil => exact ⟨h.resolve_left List.not_mem_nil, hn⟩
  | cons d cs ih =>
    by_cases hd : d = c
    · subst hd
      obtain ⟨hid, hcount⟩ := t.markCell_failQ id d
      exact ih _ (.inr hid) (hcount.trans hn)
    · have hcell : (t.markCell id d).cell c = t.cell c := t.cell_modCell_ne _ hd
      refine ih _ ?_ (by rw [hcell]; exact hn)
      rw [hcell]
      exact h.imp_left fun hm => (List.mem_cons.mp hm).resolve_left (Ne.symm hd)

/-- R222: what a drain request leaves: one drain more of the region, a marker in the queue of each member. -/
theorem State.mark_spec (s : State) (l : Nat) : (s.mark l false).regs = s.regs ∧ (s.mark l false).mem = s.mem ∧
    ((s.mark l false).region (regionOf l)).drains = (s.region (regionOf l)).drains ++
      [⟨(s.region (regionOf l)).nextEid, l, s.members l, false, []⟩] ∧
    ∀ c ∈ s.members l, (s.region (regionOf l)).nextEid ∈ markerIds ((s.mark l false).cell c).failQ ∧
      recordCount ((s.mark l false).cell c).failQ = recordCount (s.cell c).failQ := by
  refine ⟨State.foldl_same State.regs fun _ _ _ => rfl, State.foldl_same State.mem fun _ _ _ => rfl, ?_, fun c hc => ?_⟩
  · refine (congrArg RegionX.drains (State.foldl_same (f := fun t c => t.markCell (s.region (regionOf l)).nextEid c)
      (fun t => t.region (regionOf l)) fun _ _ _ => rfl)).trans ?_
    rw [State.region_modRegion_self]
  · exact State.foldl_markCell s _ _ c (.inl hc) rfl

/-- R238: the region's drains without those of the caravan led by `l` that are ready. -/
def State.drainsLeft (s : State) (l : Nat) : State := s.modRegion (regionOf l) fun x =>
  { x with drains := x.drains.filter fun d => !(d.lead == l && s.drainReady (regionOf l) d) }

/-- R238: ready drains, none of an ALLOC, are indicated and leave. -/
theorem State.drainComplete_plain {s : State} {l : Nat} {done : List Drain}
    (hd : done = (s.region (regionOf l)).drains.filter fun d => d.lead == l && s.drainReady (regionOf l) d) (hne : done ≠ [])
    (hplain : ∀ d ∈ done, d.alloc = false) : s.drainComplete l =
      (s.drainsLeft l).wrs [(LDG.CVST_DRAIN (regionOf l) (l % 64), 0), (LDG.CVST_DRAIN_DONE (regionOf l) (l % 64), 1)] := by
  have hnone : done.filter (·.alloc) = [] := List.filter_eq_nil_iff.mpr fun d hm => by rw [hplain d hm]; decide
  have hsome : done.isEmpty = false := by simpa using hne
  simp only [State.drainComplete, ← hd, hsome, hnone, Bool.false_eq_true, if_false, List.foldl_nil]
  rfl

/-! ## Allocation passes (R236, R237) -/

/-- The pass of lead `l` moves on to its next account. -/
theorem find?_passes_next {ps : List AllocPass} {p : AllocPass} {l : Nat} (hp : ps.find? (fun q => q.lead == l) = some p) (rep unrep : Nat) :
    ((ps.map fun q => if q.lead = l then { q with next := q.next + 1, rep := q.rep + rep, unrep := q.unrep + unrep } else q).find?
      fun q => q.lead == l).map (·.next) = some (p.next + 1) := by
  have hlead : p.lead = l := by simpa using List.find?_some hp
  have hsame : (fun q : AllocPass => q.lead == l) ∘ (fun q => if q.lead = l then
      { q with next := q.next + 1, rep := q.rep + rep, unrep := q.unrep + unrep } else q) = fun q => q.lead == l := by
    funext q
    by_cases h : q.lead = l <;> simp [h]
  rw [List.find?_map, hsame, hp]
  simp [hlead]


/-- R236: the account that the pass of lead `l` has reached, read without an error. -/
theorem State.allocateNext_clean {s : State} {l : Nat} {p : AllocPass} {ws : List Nat}
    (hp : (s.region (regionOf l)).passes.find? (fun p => p.lead == l) = some p) (hf : s.frozen = false)
    (hlt : p.next < p.stop) (hc : s.AcctClean (regionOf l) p.next)
    (hw : ws = s.readWords (acctAddr (regionOf l) p.next) 8) : ∃ rep unrep,
    s.allocateNext l 0 = (if (Acct.ofWords ws).en && (Acct.ofWords ws).site == p.site then
        s.writeWords (acctAddr (regionOf l) p.next) ((Acct.ofWords ws).allocate.putWords ws) else s).modRegion (regionOf l) fun y =>
      { y with passes := y.passes.map fun q =>
        if q.lead = l then { q with next := q.next + 1, rep := q.rep + rep, unrep := q.unrep + unrep } else q } := by
  have hrun : (s.frozen || decide (p.stop ≤ p.next)) = false := by simp [hf, hlt]
  simp only [State.allocateNext, hp, hrun, Bool.false_eq_true, if_false, State.acctErrors_clean hc, ← hw]
  exact ⟨_, _, rfl⟩

theorem State.regions_writeWords (s : State) (a : Nat) (l : List Nat) : (s.writeWords a l).regions = s.regions ∧
    (s.writeWords a l).regs = s.regs := by
  induction l generalizing s a with
  | nil => exact ⟨rfl, rfl⟩
  | cons v l ih =>
    obtain ⟨m, hm⟩ := like_writeBytes s a (toBytes 9 v)
    obtain ⟨hregions, hregs⟩ := ih (s.writeWord a v) (a + 16)
    rw [writeWords_cons]
    exact ⟨hregions.trans (by simp only [State.writeWord, hm]), hregs.trans (by simp only [State.writeWord, hm])⟩

/-- Settles O31, clause by clause: what a marker, a drain and a pass do. -/
theorem drainsAndAllocationPasses : Obligations.DrainsAndAllocationPasses := by
  unfold Obligations.DrainsAndAllocationPasses
  refine ⟨fun s l hl => ⟨fun ho => ?drainIgnored, fun ho => ?allocIgnored⟩, fun s l hl ho => ?drain,
    fun s l done hd => ⟨fun h => ?noneReady, fun hne hplain => ?ready⟩, fun s l hl ho => ⟨fun h => ?passStarts, fun h => ?passHeld⟩,
    fun s l p ws hf hp hlt hc hw => ?allocate, fun s l p hp => ⟨fun h => ?passRuns, fun h hheld => ?passEnds⟩⟩
  case drainIgnored =>
    exact congrArg Host.Outcome.next ((State.atReg_open _ ho).trans (by simp only [State.drainGo, hl, Bool.not_false, if_true]; rfl))
  case allocIgnored =>
    exact congrArg Host.Outcome.next ((State.atReg_open _ ho).trans (by simp only [State.allocGo, hl, Bool.not_false, if_true]; rfl))
  case drain =>
    let v := s.wr (LDG.CVST_DRAIN (regionOf l) (l % 64)) 1
    have hmembers : v.members l = s.members l := s.members_wr 1 l fun c => by simp only [Fld.key]; omega
    obtain ⟨hregs, hmem, hdrains, hcells⟩ := v.mark_spec l
    rw [hmembers] at hdrains hcells
    refine ⟨v.mark l false, congrArg Host.Outcome.next ((State.atReg_open _ ho).trans ?_), ?_, hdrains, hmem, hcells⟩
    · simp only [State.drainGo, hl, Bool.not_true, Bool.false_eq_true, if_false]
      rfl
    · rw [State.rd, hregs]
      exact s.rd_wr_self ..
  case noneReady =>
    simp only [exec, execDrainComplete, State.drainComplete, ← hd, h, List.isEmpty_nil, if_true]
  case ready =>
    have hkey : (LDG.CVST_DRAIN_DONE (regionOf l) (l % 64)).key ≠ (LDG.CVST_DRAIN (regionOf l) (l % 64)).key := by simp [Fld.key]
    refine ⟨_, congrArg Host.Outcome.next (State.drainComplete_plain hd hne hplain), ?_, ?_, fun d hm => ?_, ?_, ?_⟩
    · rw [State.wrs_cons, State.wrs_cons, State.wrs_nil, State.rd_wr_ne _ _ hkey, State.rd_wr_self, Nat.zero_mod]
    · simp
    · rw [hd, List.mem_filter, Bool.and_eq_true, beq_iff_eq] at hm
      simp [State.drainsLeft, hm]
    · simp [State.drainsLeft]
    · simp [State.drainsLeft]
  case passStarts =>
    refine congrArg Host.Outcome.next ((State.atReg_open _ ho).trans ?_)
    simp only [State.allocGo, hl, State.startPass, h, Bool.not_true, Bool.false_eq_true, if_false]
  case passHeld =>
    refine congrArg Host.Outcome.next ((State.atReg_open _ ho).trans ?_)
    simp only [State.allocGo, hl, State.startPass, h, Bool.not_true, Bool.false_eq_true, if_false, if_true]
  case allocate =>
    obtain ⟨rep, unrep, h⟩ := State.allocateNext_clean hp hf hlt hc hw
    obtain ⟨hregions, hregs⟩ := s.regions_writeWords (acctAddr (regionOf l) p.next) ((Acct.ofWords ws).allocate.putWords ws)
    refine ⟨_, congrArg Host.Outcome.next h, ?_, ?_, fun hen hsite => ?_, fun hno => ?_⟩
    · rw [State.modRegion_regs]
      split
      · exact hregs
      · rfl
    · rw [State.region_modRegion_self]
      refine find?_passes_next ?_ rep unrep
      split
      · rwa [State.region_of_regions hregions]
      · exact hp
    · rw [State.modRegion_mem, if_pos (by simp [hen, hsite])]
    · rw [State.modRegion_mem, if_neg (by rcases hno with h | h <;> simp [h])]
  case passRuns =>
    simp only [exec, execAllocationPassEnd, hp, h, if_true]
  case passEnds =>
    simp only [exec, execAllocationPassEnd, hp, Nat.not_lt.mpr h, hheld, Bool.false_eq_true, if_false]

end Sys2Proof.Machine

namespace Sys2Proof.Machine

/-! ## Words of memory as lists -/

theorem State.length_readBytes (s : State) (a n : Nat) : (s.readBytes a n).length = n := by
  induction n generalizing a with
  | zero => rfl
  | succ n ih => rw [State.readBytes, List.length_cons, ih]

/-- R3: a word has 72 bits. -/
theorem State.readWord_lt (s : State) (a : Nat) : s.readWord a < 2 ^ 72 := by
  have h := ofBytes_lt (s.readBytes a 9)
  rwa [State.length_readBytes] at h

theorem State.getD_readWords (s : State) {a n k : Nat} (h : k < n) : (s.readWords a n).getD k 0 = s.readWord (a + 16 * k) := by
  induction n generalizing a k with
  | zero => omega
  | succ n ih =>
    cases k with
    | zero => rfl
    | succ k =>
      rw [State.readWords, List.getD_cons_succ, ih (by omega)]
      congr 1
      omega

/-! ## The scrubber (R232) -/

theorem State.length_scrubbed (s : State) (ws : List Nat) : (s.scrubbed ws).length = 8 := by simp [State.scrubbed]

/-- R232: a scrubbed word has no bits that it did not have. -/
theorem State.getD_scrubbed_le (s : State) (ws : List Nat) {k : Nat} (h : k < 8) : (s.scrubbed ws).getD k 0 ≤ ws.getD k 0 := by
  have hclear (w i : Nat) : clearBit w i ≤ w := by unfold clearBit; split <;> simp
  simp only [State.scrubbed, List.getD_eq_getElem?_getD, List.getElem?_map, List.getElem?_range h, Option.map_some, Option.getD_some]
  split
  · exact hclear ..
  · exact le_rfl

/-- R226, R232: which entries are scrubbed depends on the registers alone. -/
theorem State.scrubbed_regs {s t : State} (h : t.regs = s.regs) : t.scrubbed = s.scrubbed := by
  have hlive : t.live = s.live := State.live_congr fun n _ => by rw [State.rd, h, State.rd]
  funext ws
  rw [State.scrubbed, State.scrubbed, hlive]

/-- R288: no word of burst `k` of channel `r` has an error. -/
def State.BurstClean (s : State) (r k : Nat) : Prop := ∀ w, w < 8 → s.eccOf (ddrBase r + 16 * (8 * k + w)) 0 = 0

theorem State.burstClass_clean {s : State} {r k : Nat} (h : s.BurstClean r k) : s.burstClass r k wholeBurst 0 = 0 :=
  foldl_max_zero (fun w hw => h w (List.mem_range.mp hw)) 0

/-- R290: reading a burst without an error changes nothing. -/
theorem State.ddrRead_clean {s : State} {r k : Nat} (h : s.BurstClean r k) (dev : Nat) : s.ddrRead r k wholeBurst 0 dev = s := by
  simp only [State.ddrRead, State.burstClass_clean h, if_true]

section
variable {s : State} {h : Nat}

theorem State.scrubBucket_idle (hoff : s.frozen = true ∨ s.rd (LDG.SCRUB_RATE h) = 0) (up dev lost : Nat) :
    s.scrubBucket h up dev lost = s := by
  rcases hoff with hoff | hoff <;> simp [State.scrubBucket, hoff]

variable (hf : s.frozen = false) (hrate : s.rd (LDG.SCRUB_RATE h) ≠ 0) (hpos : (s.region h).scrubPos < 1048576)
include hf hrate hpos

/-- R232: an entry of a cached bucket that is not live loses VALID in the cache. -/
theorem State.scrubBucket_cached (hc : s.inCache h (s.region h).scrubPos = true) (dev lost : Nat) : s.scrubBucket h 0 dev lost =
    if s.scrubbed (Tab.get Line.none (s.region h).cache (s.region h).scrubPos).words =
        (Tab.get Line.none (s.region h).cache (s.region h).scrubPos).words then
      s.modRegion h fun x => { x with scrubPos := (s.region h).scrubPos + 1 }
    else (s.modRegion h fun x => { x with scrubPos := (s.region h).scrubPos + 1 }).putLine h (s.region h).scrubPos
      (s.scrubbed (Tab.get Line.none (s.region h).cache (s.region h).scrubPos).words) true := by
  have hwords : (Tab.get Line.none (s.region h).cache (s.region h).scrubPos).words.isEmpty = false := by simpa [State.inCache] using hc
  have hruns : (s.frozen || s.rd (LDG.SCRUB_RATE h) == 0 || decide (1048576 ≤ (s.region h).scrubPos) ||
      (s.rd (DDR.STATUS_STATE h) != ddrReady && !s.inCache h (s.region h).scrubPos)) = false := by simp [hf, hrate, hpos, hc]
  have hscrub : (s.modRegion h fun x => { x with scrubPos := (s.region h).scrubPos + 1 }).scrubbed = s.scrubbed := State.scrubbed_regs rfl
  simp only [State.scrubBucket, hruns, hwords, Bool.false_eq_true, if_false, State.checkLine, if_true, State.region_modRegion_self, hscrub]

/-- R232: an entry of a stored bucket that is not live loses VALID in the channel. -/
theorem State.scrubBucket_stored (hc : s.inCache h (s.region h).scrubPos = false) (hready : s.rd (DDR.STATUS_STATE h) = ddrReady)
    (hclean : s.BurstClean h ((s.rd (LDG.TBL_BASE_WORD h) + 8 * (s.region h).scrubPos) / 8)) (dev lost : Nat) :
    s.scrubBucket h 0 dev lost =
      if s.scrubbed (s.readWords (s.bucketAddr h (s.region h).scrubPos) 8) = s.readWords (s.bucketAddr h (s.region h).scrubPos) 8 then
        s.modRegion h fun x => { x with scrubPos := (s.region h).scrubPos + 1 }
      else (s.modRegion h fun x => { x with scrubPos := (s.region h).scrubPos + 1 }).writeWords (s.bucketAddr h (s.region h).scrubPos)
        (s.scrubbed (s.readWords (s.bucketAddr h (s.region h).scrubPos) 8)) := by
  have hwords : (Tab.get Line.none (s.region h).cache (s.region h).scrubPos).words.isEmpty = true := by simpa [State.inCache] using hc
  have hruns : (s.frozen || s.rd (LDG.SCRUB_RATE h) == 0 || decide (1048576 ≤ (s.region h).scrubPos) ||
      (s.rd (DDR.STATUS_STATE h) != ddrReady && !s.inCache h (s.region h).scrubPos)) = false := by simp [hf, hrate, hpos, hready]
  have hclean' : (s.modRegion h fun x => { x with scrubPos := (s.region h).scrubPos + 1 }).BurstClean h
      ((s.rd (LDG.TBL_BASE_WORD h) + 8 * (s.region h).scrubPos) / 8) := hclean
  simp only [State.scrubBucket, hruns, hwords, Bool.false_eq_true, if_false, if_true, State.burstClass_clean hclean', State.ddrRead_clean hclean',
    nonpos_iff_eq_zero, OfNat.ofNat_ne_zero]

/-- R232: the stored words after a visit of the scrubber. -/
theorem State.readWord_scrubBucket (hc : s.inCache h (s.region h).scrubPos = false) (hready : s.rd (DDR.STATUS_STATE h) = ddrReady)
    (hclean : s.BurstClean h ((s.rd (LDG.TBL_BASE_WORD h) + 8 * (s.region h).scrubPos) / 8)) (dev lost : Nat) {k : Nat} (hk : k < 8) :
    (s.scrubBucket h 0 dev lost).readWord (s.bucketAddr h (s.region h).scrubPos + 16 * k) =
      (s.scrubbed (s.readWords (s.bucketAddr h (s.region h).scrubPos) 8)).getD k 0 := by
  rw [State.scrubBucket_stored hf hrate hpos hc hready hclean]
  split
  · next heq =>
    rw [heq, State.getD_readWords s hk]
    exact State.readWord_mem rfl _
  · have hlen : k < (s.scrubbed (s.readWords (s.bucketAddr h (s.region h).scrubPos) 8)).length := by rwa [State.length_scrubbed]
    have hle := s.getD_scrubbed_le (s.readWords (s.bucketAddr h (s.region h).scrubPos) 8) hk
    rw [State.getD_readWords s hk] at hle
    rw [readWord_written _ _ _ _ hlen, ← List.getD_eq_getElem _ 0 hlen]
    exact Nat.mod_eq_of_lt (Nat.lt_of_le_of_lt hle (s.readWord_lt _))

end

/-! ## Flush, lookup and digest (R241, R243, R244) -/

/-- R243: a line without an error is written back as it stands. -/
theorem State.writeBack_clean (s : State) (r b : Nat) : s.writeBack r b ⟨0, 0⟩ = s.writeLine r b := by
  simp only [State.writeBack, State.checkLine, if_true]
  split
  · rfl
  · next h => simp only [State.writeLine, h, Bool.false_eq_true, if_false]

theorem exec_ldgFlushDone_clean {s : State} {r : Nat} {bs : List Nat} (hb : (s.region r).flush = some bs) (hf : s.frozen = false)
    (hready : s.rd (DDR.STATUS_STATE r) = ddrReady ∨ bs = []) : exec (.ldgFlushDone (r, [])) s =
      .next (((bs.foldl (fun t b => t.writeLine r b) s).wr (LDG.FLUSH_GO r) 0).modRegion r fun x => { x with flush := none }) := by
  have hruns : (s.frozen || (s.rd (DDR.STATUS_STATE r) != ddrReady && !bs.isEmpty)) = false := by
    rcases hready with h | h <;> simp [hf, h]
  have hups (b : Nat) : upsetOf [] b = ⟨0, 0⟩ := rfl
  simp only [exec, execLdgFlushDone, State.flushDone, hb, hruns, hups, State.writeBack_clean, Bool.false_eq_true, if_false]

/-- R244: the lookup of a cached bucket shows the entry of its key, if there is one. -/
theorem exec_lookupDone_cached {s : State} {r key h b : Nat} {ws : List Nat} {f : Option Nat} (hl : (s.region r).lookup = some key)
    (hf : s.frozen = false) (hh : h = ledgerHash (key % 2 ^ 50) (s.rd (LDG.CTRL_SALT 0)) % 4)
    (hb : b = ledgerHash (key % 2 ^ 50) (s.rd (LDG.CTRL_SALT 0)) / 4) (hc : s.inCache h b = true)
    (hw : ws = (Tab.get Line.none (s.region h).cache b).words) (hfind : f = s.findEntry ws key) (victim : Victim) (dev lost : Nat) :
    exec (.lookupDone r victim 0 dev lost) s = .next ((s.modRegion r fun x => { x with lookup := none }).wrs
      [(LDG.LK_W0_W0 r, bits ((f.map fun k => ws.getD (2 * k) 0).getD 0) 0 64),
        (LDG.LK_W1_W1 r, bits ((f.map fun k => ws.getD (2 * k + 1) 0).getD 0) 0 64),
        (LDG.LK_HI_W0_HI r, bits ((f.map fun k => ws.getD (2 * k) 0).getD 0) 64 8),
        (LDG.LK_HI_W1_HI r, bits ((f.map fun k => ws.getD (2 * k + 1) 0).getD 0) 64 8),
        (LDG.LK_HI_FOUND r, b2n f.isSome), (LDG.LK_HI_BUSY r, 0)]) := by
  have hruns : (s.frozen || (s.rd (DDR.STATUS_STATE h) != ddrReady && !s.inCache h b)) = false := by simp [hf, hc]
  have hcache : ((s.modRegion r fun x => { x with lookup := none }).region h).cache = (s.region h).cache := by
    by_cases e : r = h
    · rw [e, State.region_modRegion_self]
    · rw [State.region_modRegion_ne _ _ e]
  have hentry : (s.modRegion r fun x => { x with lookup := none }).findEntry = s.findEntry := State.findEntry_congr rfl
  simp only [exec, execLookupDone, hl, ← hh, ← hb, hruns, State.cached_clean hc, hcache, ← hw, hentry, ← hfind, Bool.false_eq_true, if_false]

/-- R241, R245: the accounts of the caravan led by `l` are read without an error. -/
theorem State.readAccts_clean {s : State} {l : Nat}
    (h : ∀ a, (s.acctRange l).1 ≤ a → a < (s.acctRange l).2 → s.AcctClean (regionOf l) a) : s.readAccts l [] = s := by
  refine List.foldlRecOn (motive := fun t => t = s) _ _ rfl fun t ht k hk => ?_
  have hk := List.mem_range.mp hk
  rw [ht]
  exact State.acctErrors_clean (h _ (by omega) (by omega))

theorem exec_digestDone_clean {s : State} {r l : Nat} (hl : (s.region r).digest = some l)
    (h : ∀ a, (s.acctRange l).1 ≤ a → a < (s.acctRange l).2 → s.AcctClean (regionOf l) a) : exec (.digestDone (r, [])) s =
    .next (((s.modRegion r fun x => { x with digest := none }).sealDigest l (Config.sha256 (s.digestBytes l)) (min (s.drops l) (2 ^ 32 - 1))).wrs
      [(LDG.DIG_LD r 0, bits (Config.sha256 (s.digestBytes l)) 0 64), (LDG.DIG_LD r 1, bits (Config.sha256 (s.digestBytes l)) 64 64),
        (LDG.DIG_LD r 2, bits (Config.sha256 (s.digestBytes l)) 128 64), (LDG.DIG_LD r 3, bits (Config.sha256 (s.digestBytes l)) 192 64),
        (LDG.DIG_DROPS_COUNT r, min (s.drops l) (2 ^ 32 - 1)), (LDG.STATUS_DIG_BUSY r, 0), (LDG.STATUS_DIG_DONE r, 1)]) := by
  simp only [exec, execDigestDone, State.digestReady, hl, State.readAccts_clean h]

/-! ## LDG.CTRL (R246) -/

/-- R246: a write may not change EN. -/
def State.enHeld (s : State) (mask v : Nat) : Prop :=
  s.merged (LDG.CTRL_EN 0) mask v ≠ s.rd (LDG.CTRL_EN 0) ∧ (s.allLeads.any s.busy = true ∨ s.anyInFlight = true ∨
    (s.merged (LDG.CTRL_EN 0) mask v = 1 ∧ ((List.range 4).any fun r => s.rd (DDR.STATUS_STATE r) != ddrReady) = true))

/-- R246: a write may not change SALT. -/
def State.saltHeld (s : State) (mask v : Nat) : Prop :=
  s.merged (LDG.CTRL_SALT 0) mask v ≠ s.rd (LDG.CTRL_SALT 0) ∧ s.flag (LDG.CTRL_EN 0) = true

/-- R246: what a write of LDG.CTRL does with EN, and then with SALT. -/
theorem State.writeLdgCtrl_cases (s : State) (mask v : Nat) : ∃ t : State,
    (s.enHeld mask v ∧ t = s.wr (LDG.STATUS_WR_IGN 0) 1 ∨
      ¬ s.enHeld mask v ∧ t = s.wr (LDG.CTRL_EN 0) (s.merged (LDG.CTRL_EN 0) mask v)) ∧
    (s.saltHeld mask v ∧ s.writeLdgCtrl mask v = t.wr (LDG.STATUS_WR_IGN 0) 1 ∨
      ¬ s.saltHeld mask v ∧ s.writeLdgCtrl mask v = t.wr (LDG.CTRL_SALT 0) (s.merged (LDG.CTRL_SALT 0) mask v)) := by
  unfold State.writeLdgCtrl
  extract_lets en salt enBad saltBad t
  refine ⟨t, ?_, ?_⟩
  · by_cases h : enBad
    · exact .inl ⟨h, if_pos h⟩
    · exact .inr ⟨h, if_neg h⟩
  · by_cases h : saltBad
    · exact .inl ⟨h, if_pos h⟩
    · exact .inr ⟨h, if_neg h⟩

section
variable {s : State} {mask v : Nat}

theorem State.writeLdgCtrl_enHeld (h : s.enHeld mask v) : (s.writeLdgCtrl mask v).rd (LDG.CTRL_EN 0) = s.rd (LDG.CTRL_EN 0) ∧
    (s.writeLdgCtrl mask v).rd (LDG.STATUS_WR_IGN 0) = 1 ∧ (s.writeLdgCtrl mask v).mem = s.mem := by
  obtain ⟨t, ht, hx⟩ := s.writeLdgCtrl_cases mask v
  obtain ⟨-, rfl⟩ := ht.resolve_right fun hn => hn.1 h
  rcases hx with ⟨-, hx⟩ | ⟨-, hx⟩ <;> rw [hx]
  · exact ⟨(State.rd_wr_ne _ _ (by decide)).trans (s.rd_wr_ne _ (by decide)), State.rd_wr_self .., rfl⟩
  · exact ⟨(State.rd_wr_ne _ _ (by decide)).trans (s.rd_wr_ne _ (by decide)),
      (State.rd_wr_ne _ _ (by decide)).trans (s.rd_wr_self ..), rfl⟩

theorem State.writeLdgCtrl_saltHeld (h : s.saltHeld mask v) :
    (s.writeLdgCtrl mask v).rd (LDG.CTRL_SALT 0) = s.rd (LDG.CTRL_SALT 0) ∧
      (s.writeLdgCtrl mask v).rd (LDG.STATUS_WR_IGN 0) = 1 ∧ (s.writeLdgCtrl mask v).mem = s.mem := by
  obtain ⟨t, ht, hx⟩ := s.writeLdgCtrl_cases mask v
  obtain ⟨-, hx⟩ := hx.resolve_right fun hn => hn.1 h
  rw [hx]
  rcases ht with ⟨-, rfl⟩ | ⟨-, rfl⟩ <;>
    exact ⟨(State.rd_wr_ne _ _ (by decide)).trans (s.rd_wr_ne _ (by decide)), State.rd_wr_self .., rfl⟩

theorem State.writeLdgCtrl_free (hen : ¬ s.enHeld mask v) (hsalt : ¬ s.saltHeld mask v) : s.writeLdgCtrl mask v =
    (s.wr (LDG.CTRL_EN 0) (s.merged (LDG.CTRL_EN 0) mask v)).wr (LDG.CTRL_SALT 0) (s.merged (LDG.CTRL_SALT 0) mask v) := by
  obtain ⟨t, ht, hx⟩ := s.writeLdgCtrl_cases mask v
  obtain ⟨-, rfl⟩ := ht.resolve_left fun hn => hen hn.1
  exact (hx.resolve_left fun hn => hsalt hn.1).2

end

/-- Settles O32, service by service. -/
theorem ledgerServices : Obligations.LedgerServices := by
  unfold Obligations.LedgerServices
  refine ⟨fun s n hn ho => ⟨fun h => ?clearIgnored, fun hidle hflight hretired => ?clear⟩,
    fun s h dev lost hh => ⟨fun hoff up => ?scrubIdle, fun hf hrate hpos =>
      ⟨fun ws hw hne => ?scrubCached, fun hc hready hclean => ?scrubStored⟩⟩,
    fun s h => ⟨fun hpos => ?passRuns, fun hpos => ?passEnds⟩, fun s r ho => ?flush, fun s r bs hb hf hready => ?flushDone,
    fun s r key ho => ⟨fun hbusy => ?lookupIgnored, fun hbusy => ?lookup⟩,
    fun s r key h b dev victim lost ws f hl hf hh hb hc hw hfind => ?lookupDone,
    fun s r i ho => ⟨fun h => ?digestIgnored, fun hlead hdig hbusy hdrain halloc => ?digest⟩,
    fun s r l ld hl hld hclean => ?digestDone, fun s h v hv ho => ?spillHead,
    fun s mask v en salt ho hen hsalt => ⟨fun hne h => ?enHeld, fun hne h => ?saltHeld, fun hidle hflight hready hfree => ?ctrl⟩⟩
  case clearIgnored =>
    refine congrArg Host.Outcome.next ((State.atReg_open _ ho).trans (if_pos ?_))
    simpa [or_assoc] using h
  case clear =>
    have hkey : (LDG.SITE_SPILL_DROP 0 n).key ≠ (LDG.SITE_EPOCH 0 n).key := by simp [Fld.key]
    refine ⟨_, congrArg Host.Outcome.next ((State.atReg_open _ ho).trans (if_neg ?_)), ?_, ?_, rfl, rfl, rfl⟩
    · simp [hidle, hflight, hretired]
    · rw [State.rd_mk, State.wrs_cons, State.wrs_cons, State.wrs_nil, State.rd_wr_ne _ _ hkey, State.rd_wr_self]
      rfl
    · rw [State.rd_mk, State.wrs_cons, State.wrs_cons, State.wrs_nil, State.rd_wr_self, Nat.zero_mod]
  case scrubIdle =>
    exact congrArg Host.Outcome.next (State.scrubBucket_idle hoff up dev lost)
  case scrubCached =>
    have hc : s.inCache h (s.region h).scrubPos = true := by simpa [State.inCache, hw] using hne
    refine ⟨_, congrArg Host.Outcome.next (State.scrubBucket_cached hf hrate hpos hc dev lost), ?_⟩
    rw [hw]
    split
    · next heq => exact ⟨rfl, rfl, by rw [State.region_modRegion_self], fun hdead => absurd heq hdead⟩
    · exact ⟨rfl, rfl, by simp only [State.putLine, State.region_modRegion_self],
        fun _ => by simp only [State.putLine, State.region_modRegion_self, Tab.get_set_self]⟩
  case scrubStored =>
    refine ⟨_, rfl, ?_, ?_, fun k hk => State.readWord_scrubBucket hf hrate hpos hc hready hclean dev lost hk⟩
    all_goals
      rw [State.scrubBucket_stored hf hrate hpos hc hready hclean]
      split
    · rfl
    · exact (State.regions_writeWords _ _ _).2
    · rw [State.region_modRegion_self]
    · rw [State.region_of_regions (State.regions_writeWords _ _ _).1, State.region_modRegion_self]
  case passRuns =>
    exact congrArg Host.Outcome.next (if_pos hpos)
  case passEnds =>
    refine ⟨_, congrArg Host.Outcome.next (if_neg (Nat.not_lt.mpr hpos)), ?_, rfl, ?_⟩
    · rw [State.region_mk, State.region_wr, State.region_modRegion_self]
    · rw [State.rd_mk, State.rd_wr_self]
  case flush =>
    exact congrArg Host.Outcome.next (State.atReg_open _ ho)
  case flushDone =>
    exact exec_ldgFlushDone_clean hb hf hready
  case lookupIgnored =>
    refine congrArg Host.Outcome.next ((State.atReg_open _ ho).trans ?_)
    simp only [State.lookupGo, hbusy, if_true]
    rfl
  case lookup =>
    refine congrArg Host.Outcome.next ((State.atReg_open _ ho).trans ?_)
    simp only [State.lookupGo, hbusy, Bool.false_eq_true, if_false]
    rfl
  case lookupDone =>
    exact exec_lookupDone_cached hl hf hh hb hc hw hfind victim dev lost
  case digestIgnored =>
    refine congrArg Host.Outcome.next ((State.atReg_open _ ho).trans (if_pos ?_))
    simpa [or_assoc] using h
  case digest =>
    refine congrArg Host.Outcome.next ((State.atReg_open _ ho).trans (if_neg ?_))
    simp [hlead, hdig, hbusy, hdrain, halloc]
  case digestDone =>
    subst hld
    exact exec_digestDone_clean hl fun a h1 h2 w => hclean a w h1 h2
  case spillHead =>
    refine congrArg Host.Outcome.next ((State.atReg_open _ ho).trans ?_)
    simp only [State.writeSpillHead, Nat.mod_eq_of_lt hv]
    rfl
  case enHeld =>
    subst hen
    exact ⟨_, congrArg Host.Outcome.next (State.atReg_open _ ho), State.writeLdgCtrl_enHeld ⟨hne, h.imp_right .inl⟩⟩
  case saltHeld =>
    subst hsalt
    exact ⟨_, congrArg Host.Outcome.next (State.atReg_open _ ho), State.writeLdgCtrl_saltHeld ⟨hne, h⟩⟩
  case ctrl =>
    subst hen hsalt
    refine congrArg Host.Outcome.next ((State.atReg_open _ ho).trans (State.writeLdgCtrl_free (fun h => ?_) fun h => ?_))
    · obtain ⟨-, hbusy | hfly | ⟨hone, hwait⟩⟩ := h
      · simp [hidle] at hbusy
      · simp [hflight] at hfly
      · obtain ⟨r, hr, hnot⟩ := List.any_eq_true.mp hwait
        rcases hready with hready | hzero
        · simp [hready r (List.mem_range.mp hr)] at hnot
        · omega
    · obtain ⟨hne, hon⟩ := h
      rcases hfree with hoff | hsame
      · simp [hoff] at hon
      · exact hne hsame

end Sys2Proof.Machine

namespace Sys2Proof.Machine

/-! ## The planes of a block (R253, R270) -/

section
variable (s : State) (b p : Nat)

theorem State.inactivePlane_le : s.inactivePlane b ≤ 1 := Nat.sub_le ..

@[simp] theorem State.blockOn_modBlock (c : Nat) (g : BlockX → BlockX) : (s.modBlock c g).blockOn b = s.blockOn b := rfl
@[simp] theorem State.flag_modBlock (c : Nat) (g : BlockX → BlockX) (f : Fld) : (s.modBlock c g).flag f = s.flag f := rfl
@[simp] theorem State.rd_setPlane (x : Plane) (f : Fld) : (s.setPlane b p x).rd f = s.rd f := rfl
@[simp] theorem State.setPlane_mem (x : Plane) : (s.setPlane b p x).mem = s.mem := rfl
@[simp] theorem State.setPlane_pulses (x : Plane) : (s.setPlane b p x).pulses = s.pulses := rfl

@[simp] theorem State.plane_setPlane_self (x : Plane) : (s.setPlane b p x).plane b p = x := by
  unfold State.plane State.setPlane
  split <;> simp only [State.block_modBlock_self]

end

/-! ## The end of a plane write (R258, R259) -/

section
variable (s : State) (b res fa : Nat)

/-- What PW_STATUS shows at the end. -/
def pwEndWrites : List (Fld × Nat) := [(FAB.PW_STATUS_BUSY b, 0), (FAB.PW_STATUS_RESULT b, res), (FAB.PW_STATUS_FA b, fa)]

theorem nodup_pwEndWrites : ((pwEndWrites b res fa).map fun e => e.1.key).Nodup := by simp [pwEndWrites, Fld.key]

theorem State.rd_pwEnd (f : Fld) : (s.pwEnd b res fa).rd f = (s.wrs (pwEndWrites b res fa)).rd f := rfl

theorem State.rd_pwEnd_busy : (s.pwEnd b res fa).rd (FAB.PW_STATUS_BUSY b) = 0 := by
  rw [State.rd_pwEnd, State.rd_wrs_of_mem s (nodup_pwEndWrites b res fa) (.head _), Nat.zero_mod]

theorem State.rd_pwEnd_result : (s.pwEnd b res fa).rd (FAB.PW_STATUS_RESULT b) = res % 2 ^ (FAB.PW_STATUS_RESULT b).width := by
  rw [State.rd_pwEnd, State.rd_wrs_of_mem s (nodup_pwEndWrites b res fa) (.tail _ (.head _))]

/-- The header of a plane stands below PW_STATUS. -/
theorem State.rd_pwEnd_planeState {p : Nat} (hp : p ≤ 1) : (s.pwEnd b res fa).rd (FAB.PLANE_STATE b p) = s.rd (FAB.PLANE_STATE b p) := by
  refine (s.rd_pwEnd b res fa _).trans (State.rd_wrs_ne _ _ ?_)
  simp [pwEndWrites, Fld.key]
  omega

@[simp] theorem State.pwEnd_mem : (s.pwEnd b res fa).mem = s.mem := rfl
@[simp] theorem State.pwEnd_pulses : (s.pwEnd b res fa).pulses = s.pulses ++ [fabSource b] := rfl

@[simp] theorem State.plane_pwEnd (p : Nat) : (s.pwEnd b res fa).plane b p = s.plane b p := by
  simp only [State.plane, State.pwEnd, State.block_pulse, State.block_modBlock_self, State.block_wrs]

end

/-! ## WRITE (R257, R258 steps 1 and 2) -/

section
variable {s : State} {b key : Nat}

/-- What PW_STATUS shows as a WRITE begins. -/
def pwBeginWrites (b : Nat) : List (Fld × Nat) :=
  [(FAB.PW_STATUS_BUSY b, 1), (FAB.PW_STATUS_RESULT b, 0), (FAB.PW_STATUS_FA b, 0), (FAB.PW_STATUS_FRAMES b, 0)]

theorem nodup_pwBeginWrites (b : Nat) : ((pwBeginWrites b).map fun e => e.1.key).Nodup := by simp [pwBeginWrites, Fld.key]

theorem State.rd_pwBegin (f : Fld) : (s.pwBegin b key).rd f = (s.wrs (pwBeginWrites b)).rd f := rfl

theorem State.rd_pwBegin_busy : (s.pwBegin b key).rd (FAB.PW_STATUS_BUSY b) = 1 := by
  rw [State.rd_pwBegin, State.rd_wrs_of_mem s (nodup_pwBeginWrites b) (.head _)]
  rfl

theorem State.rd_pwBegin_frames : (s.pwBegin b key).rd (FAB.PW_STATUS_FRAMES b) = 0 := by
  rw [State.rd_pwBegin, State.rd_wrs_of_mem s (v := 0) (nodup_pwBeginWrites b) (by simp [pwBeginWrites]), Nat.zero_mod]

/-- Only PW_STATUS differs as a WRITE begins. -/
theorem State.rd_pwBegin_ne {f : Fld} (h : f.addr ≠ blockBase b + 0x20058) (hl : f.lsb < 64) : (s.pwBegin b key).rd f = s.rd f := by
  refine State.rd_pwBegin f |>.trans (State.rd_wrs_ne _ _ ?_)
  simp [pwBeginWrites, Fld.key]
  omega

theorem State.inactivePlane_pwBegin : (s.pwBegin b key).inactivePlane b = s.inactivePlane b := by
  rw [State.inactivePlane, State.activePlane, State.rd_pwBegin_ne (by simp) (by simp)]
  rfl

/-- The run of a WRITE that begins: its header is not read yet. -/
def State.pwFresh (s : State) (b key : Nat) : PwRun :=
  { src := 16 * s.rd (FAB.PW_SRC_ADDR b), nframes := 0, done := 0, lastFa := none, header := [], stored := [], frames := [], key := key }

theorem State.pw_pwBegin : ((s.pwBegin b key).block b).pw = some (s.pwFresh b key) := by
  rw [State.pwBegin, State.block_modBlock_self]
  rfl

/-- R258 steps 1 and 2: a good header makes the inactive plane WRITING and no boot plane. -/
theorem State.pwHeader_good {r : PwRun} {h : List Nat} {u : State} {up dev : Nat} (hr : (s.block b).pw = some r)
    (hread : s.ownWords r.src 8 up dev = .ok (some h, u))
    (hok : headerOk (h.getD 0 0) (bits (h.getD 0 0) 48 12) (s.rd (FAB.PW_LEN_WORDS b)) = true) :
    s.pwHeader b up dev = (u.wrs [(FAB.PLANE_STATE b (s.inactivePlane b), planeWriting), (FAB.PLANE_BOOT b (s.inactivePlane b), 0)]).modBlock b
      fun x => { x with pw := some { r with nframes := bits (h.getD 0 0) 48 12, header := h } } := by
  simp only [State.pwHeader, hr, hread, hok, Bool.not_true, Bool.false_eq_true, if_false]

/-- R257: a WRITE of another master than Objor is ignored. -/
theorem State.fabWrite_denied (hon : s.blockOn b = true) {m : Nat} (hm : m ≠ 61) (up dev : Nat) :
    s.fabWrite b m key up dev = (s.modBlock b fun x => { x with committing := false }).fabIgnored b ignDenied := by
  simp [State.fabWrite, hon, hm]

/-- R257, R258: Objor's WRITE is accepted while the block is neither BUSY nor ARMED. -/
theorem State.fabWrite_accepted (hon : s.blockOn b = true) (hbusy : s.flag (FAB.PW_STATUS_BUSY b) = false)
    (harmed : s.flag (FAB.STATUS_ARMED b) = false) (up dev : Nat) :
    s.fabWrite b 61 key up dev = (s.pwBegin b key).pwHeader b up dev := by
  simp [State.fabWrite, hon, hbusy, harmed]

end

/-! ## Frames (R255, R258 step 3) -/

/-- R255: the words of the frame record whose stored bytes are `raw`, deciphered where the image is encrypted. -/
def PwRun.recordWords (r : PwRun) (raw : List Nat) : List Nat :=
  bytesWords 17 (if r.enc then ((r.opened (r.stored ++ raw)).1.drop (153 * r.done)).take 153 else raw)

section
variable {s : State} {b : Nat} {r : PwRun}

/-- R258 step 3: a record with a good CRC and a rising address whose frame is verified is stored. -/
theorem State.pwRecord_good {raw ws : List Nat} (hws : ws = r.recordWords raw)
    (hcrc : crc32c (toBytes 2 (bits (ws.getD 0 0) 0 16) ++ wordBytes (ws.drop 1)) = bits (ws.getD 0 0) 32 32)
    (hrise : (r.lastFa.all fun z => decide (z < bits (ws.getD 0 0) 0 11)) = true) :
    s.pwRecord b r raw false = (s.wr (FAB.PW_STATUS_FRAMES b) (r.done + 1)).modBlock b fun x =>
      { x with pw := some { r with
          done := r.done + 1
          lastFa := some (bits (ws.getD 0 0) 0 11)
          stored := r.stored ++ raw
          frames := Tab.set 0 r.frames (bits (ws.getD 0 0) 0 11)
            (ofBytes (wordBytes (ws.drop 1)) + 2 ^ 1152 * bits (ws.getD 0 0) 11 1) } } := by
  have hfresh : (r.lastFa.any fun z => decide (bits (ws.getD 0 0) 0 11 ≤ z)) = false := by
    cases h : r.lastFa with
    | none => rfl
    | some z => simpa [h] using hrise
  subst hws
  unfold PwRun.recordWords at hcrc hfresh ⊢
  simp only [State.pwRecord, hcrc, hfresh, ne_eq, not_true_eq_false, Bool.false_eq_true, if_false]

/-- R258: while frames are missing, the next record is read. -/
theorem State.pwFrame_record {l : List Nat} {u : State} {up dev : Nat} (hr : (s.block b).pw = some r) (hh : r.header ≠ [])
    (hmore : r.done < r.nframes) (hread : s.ownWords (r.src + 16 * (8 + 17 * r.done)) 17 up dev = .ok (some l, u)) (fail : Bool) :
    s.pwFrame b up dev fail = u.pwRecord b r (wordBytes l) fail := by
  have hempty : r.header.isEmpty = false := by simpa using hh
  simp only [State.pwFrame, hr, hempty, hread, Nat.not_le.mpr hmore, Bool.false_eq_true, if_false]

/-! ## The trailer (R258 steps 4 to 6) -/

/-- R253: the header that is written for the plane `p`, with its measurement slot. -/
def PwRun.headerWrites (r : PwRun) (b p mslot : Nat) : List (Fld × Nat) :=
  [(FAB.PLANE_STATE b p, planeValid), (FAB.PLANE_BOOT b p, 0), (FAB.PLANE_GEN b p, 0), (FAB.PLANE_XO b p, bits (r.header.getD 0 0) 61 1),
    (FAB.PLANE_MSLOT b p, mslot), (FAB.PLANE_TILE_USED b p, bits (r.header.getD 4 0) 0 8), (FAB.PIMG_IMAGE_ID b p, bits (r.header.getD 1 0) 0 64)]

theorem PwRun.nodup_headerWrites (r : PwRun) (b p mslot : Nat) : ((r.headerWrites b p mslot).map fun e => e.1.key).Nodup := by
  simp [PwRun.headerWrites, Fld.key]
  omega

/-- R253: what a plane holds once the image is written. -/
def PwRun.plane (r : PwRun) : Plane :=
  { fmax := bits (r.header.getD 2 0) 0 32, bootPll := bits (r.header.getD 3 0) 0 50, bpv := bitOf (r.header.getD 3 0) 63,
    frames := r.frames, torn := false, worn := false }

/-- R258 steps 5 and 6: with equal digests and a good tag the header is written. -/
theorem State.pwTrailer_good {t : List Nat} (hdig : Config.sha384 (wordBytes r.header ++ r.stored) = s.pwDigest b)
    (hshown : ((List.range 6).map fun n => bits (t.getD n 0) 0 64 * 2 ^ (64 * n)).sum = Config.sha384 (wordBytes r.header ++ r.stored))
    (htag : r.enc = true → (r.opened r.stored).2 = bits (t.getD 6 0) 0 64 + 2 ^ 64 * bits (t.getD 7 0) 0 64) :
    s.pwTrailer b r t = ((s.wrs (r.headerWrites b (s.inactivePlane b) (s.rd (FAB.PW_CTRL_MSLOT b)))).setPlane b (s.inactivePlane b)
      r.plane).pwEnd b 1 0 := by
  unfold State.pwTrailer
  extract_lets digest shown tag p w
  rw [if_neg (not_or.mpr ⟨not_not.mpr hdig, not_not.mpr hshown⟩), if_neg fun h => h.2 (htag h.1)]
  rfl

/-- R258: with all frames stored and no blank frame failing, the trailer is read. -/
theorem State.pwComplete_trailer {l : List Nat} {u : State} {up dev blank : Nat} (hr : (s.block b).pw = some r) (hh : r.header ≠ [])
    (hall : r.nframes ≤ r.done) (hblank : r.isBlank blank = false)
    (hread : s.ownWords (r.src + 16 * (8 + 17 * r.nframes)) 8 up dev = .ok (some l, u)) :
    s.pwComplete b up dev blank = u.pwTrailer b r l := by
  have hruns : (r.header.isEmpty || decide (r.done < r.nframes)) = false := by simpa [hall] using hh
  simp only [State.pwComplete, hr, hruns, hblank, hread, Bool.false_eq_true, if_false]

end

/-! ## Commands of the planes (R260, R262, R267) -/

section
variable {s : State} {b : Nat}

theorem State.fabArm_notValid (hon : s.blockOn b = true) (harmed : s.flag (FAB.STATUS_ARMED b) = false)
    (hstate : s.rd (FAB.PLANE_STATE b (s.inactivePlane b)) ≠ planeValid) : s.fabArm b = s.fabIgnored b ignNotValid := by
  simp only [State.fabArm, hon, harmed, hstate, Bool.not_true, Bool.or_false, Bool.false_eq_true, ne_eq, not_false_eq_true, if_false, if_true]

theorem State.fabArm_valid (hon : s.blockOn b = true) (harmed : s.flag (FAB.STATUS_ARMED b) = false)
    (hstate : s.rd (FAB.PLANE_STATE b (s.inactivePlane b)) = planeValid) (hbusy : s.flag (FAB.PW_STATUS_BUSY b) = false)
    (hfast : (s.pllActive (s.gangSource b)).above (s.pllActive (s.gangSource b)).fdiv (s.plane b (s.inactivePlane b)).fmax = false) :
    s.fabArm b = s.wr (FAB.STATUS_ARMED b) 1 := by
  simp only [State.fabArm, hon, harmed, hstate, hbusy, hfast, Bool.not_true, Bool.or_false, Bool.false_eq_true, ne_eq, not_true_eq_false, if_false]

theorem State.fabDisarm_idle (hon : s.blockOn b = true) (hswap : (s.block b).swap = .none) :
    s.fabDisarm b = s.wr (FAB.STATUS_ARMED b) 0 := by
  simp [State.fabDisarm, hon, hswap]

theorem State.fabSwap_armed (hon : s.blockOn b = true) (harmed : s.flag (FAB.STATUS_ARMED b) = true) (hbusy : s.blockBusy b = false)
    (hswap : (s.block b).swap = .none) : s.fabSwap b = s.modBlock b fun x => { x with swap := .scheduled } := by
  simp [State.fabSwap, hon, harmed, hbusy, hswap]

theorem State.fabCommit_idle (hon : s.blockOn b = true) (hbusy : s.flag (FAB.PW_STATUS_BUSY b) = false)
    (harmed : s.flag (FAB.STATUS_ARMED b) = false) : s.fabCommit b =
      ((s.wrs [(FAB.PLANE_BOOT b (s.activePlane b), 1), (FAB.PLANE_GEN b (s.activePlane b),
        max (s.rd (FAB.PLANE_GEN b 0)) (s.rd (FAB.PLANE_GEN b 1)) + 1)]).modBlock b fun x => { x with committing := true }).pulse (fabSource b) := by
  simp [State.fabCommit, hon, hbusy, harmed]

end

/-- Settles O24, command by command. That a COMMIT stays in progress until another command of the block's planes is log 13. -/
theorem planeWriterAndPlaneCommands : Obligations.PlaneWriterAndPlaneCommands := by
  unfold Obligations.PlaneWriterAndPlaneCommands
  intro s b hon hopen
  refine ⟨fun m key up dev hm ho => ?writeDenied, fun key up dev h u ho hbusy harmed hread hmagic hversion hmin hmax hlen => ?write,
    fun up dev r l u hr hh hmore hread => ?frame, fun up dev blank r l u hr hh hall hblank hread => ?complete,
    fun harmed => ⟨fun hstate => ?armNotValid, fun hstate hbusy hfast => ?arm⟩, fun hswap => ?disarm,
    fun harmed hbusy hswap => ?swap, fun hbusy harmed => ?commit⟩
  case writeDenied =>
    exact congrArg Host.Outcome.next ((State.atReg_open _ ho).trans (State.fabWrite_denied hon hm up dev))
  case write =>
    have hok : headerOk (h.getD 0 0) (bits (h.getD 0 0) 48 12) ((s.pwBegin b key).rd (FAB.PW_LEN_WORDS b)) = true := by
      rw [State.rd_pwBegin_ne (by simp) (by simp)]
      simp only [headerOk, hmagic, hversion, hlen, hmin, hmax, BEq.rfl, and_self, decide_true, Bool.and_self]
    refine ⟨State.rd_pwBegin_busy, State.rd_pwBegin_frames, _, congrArg Host.Outcome.next ((State.atReg_open _ ho).trans
      ((State.fabWrite_accepted hon hbusy harmed up dev).trans (State.pwHeader_good State.pw_pwBegin hread hok))), ?_⟩
    rw [State.inactivePlane_pwBegin]
    have hn : ([(FAB.PLANE_STATE b (s.inactivePlane b), planeWriting), (FAB.PLANE_BOOT b (s.inactivePlane b), 0)].map
        fun e => e.1.key).Nodup := by simp [Fld.key]
    refine ⟨?_, ?_, ?_, State.wrs_mem .., fun f hstate hboot => ?_⟩
    · exact State.rd_wrs_of_mem u hn (.head _)
    · exact State.rd_wrs_of_mem u hn (.tail _ (.head _))
    · simp [State.pwFresh]
    · refine State.rd_wrs_ne u _ ?_
      simp [hstate.symm, hboot.symm]
  case frame =>
    intro raw ws hcrc hrise
    refine ⟨_, congrArg Host.Outcome.next ((State.pwFrame_record hr hh hmore hread false).trans (State.pwRecord_good (ws := ws) rfl hcrc hrise)), ?_, ?_, rfl,
      fun f hf => State.rd_wr_ne _ _ hf.symm⟩
    · exact State.rd_wr_self ..
    · simp only [State.block_modBlock_self, Option.any_some, BEq.rfl, Bool.and_self]
  case complete =>
    intro digest hdig hshown htag
    have hp := u.inactivePlane_le b
    refine ⟨_, congrArg Host.Outcome.next ((State.pwComplete_trailer hr hh hall hblank hread).trans (State.pwTrailer_good hdig hshown htag)),
      ?_, State.rd_pwEnd_result .., State.rd_pwEnd_busy .., ?_, ?_, ?_⟩
    · rw [State.rd_pwEnd_planeState _ _ _ _ hp, State.rd_setPlane, State.rd_wrs_of_mem u (r.nodup_headerWrites ..) (.head _)]
      rfl
    · rw [State.plane_pwEnd, State.plane_setPlane_self]
      rfl
    · rw [State.pwEnd_pulses, State.setPlane_pulses, State.wrs_pulses]
      rfl
    · rw [State.pwEnd_mem, State.setPlane_mem, State.wrs_mem]
  case armNotValid =>
    exact congrArg Host.Outcome.next ((State.atReg_open _ hopen).trans (State.fabArm_notValid hon harmed hstate))
  case arm =>
    exact congrArg Host.Outcome.next ((State.atReg_open _ hopen).trans (State.fabArm_valid hon harmed hstate hbusy hfast))
  case disarm =>
    exact congrArg Host.Outcome.next ((State.atReg_open _ hopen).trans (State.fabDisarm_idle hon hswap))
  case swap =>
    exact congrArg Host.Outcome.next ((State.atReg_open _ hopen).trans (State.fabSwap_armed hon harmed hbusy hswap))
  case commit =>
    exact congrArg Host.Outcome.next ((State.atReg_open _ hopen).trans (State.fabCommit_idle hon hbusy harmed))

end Sys2Proof.Machine

namespace Sys2Proof.Machine

/-! ## DDR5 channels (R286, R288 to R291) -/

section
variable {s : State} {r : Nat}

/-- R289: training starts, from OFF or FAILED, with a legal RATE and DENSITY. -/
theorem State.ddrTrain_starts (hon : s.regionOn r = true) (hst : s.rd (DDR.STATUS_STATE r) = ddrOff ∨ s.rd (DDR.STATUS_STATE r) = ddrFailed)
    (hrate : s.rd (DDR.CFG_RATE r) ≠ 3) (hdens : s.rd (DDR.CFG_DENSITY r) ≠ 3) : s.ddrTrain r =
      s.wrs [(DDR.STATUS_STATE r, ddrTraining), (DDR.CAP_WORDS r, 0), (DDR.STATUS_WHY r, 0)] := by
  have hidle : ¬ (s.rd (DDR.STATUS_STATE r) ≠ ddrOff ∧ s.rd (DDR.STATUS_STATE r) ≠ ddrFailed) :=
    fun h => hst.elim h.1 h.2
  simp only [State.ddrTrain, hon, hidle, hrate, hdens, Bool.not_true, Bool.false_eq_true, or_self, if_false]
  rfl

/-- R289: TRAIN is ignored in the other states. -/
theorem State.ddrTrain_ignored (hon : s.regionOn r = true) (hoff : s.rd (DDR.STATUS_STATE r) ≠ ddrOff)
    (hfailed : s.rd (DDR.STATUS_STATE r) ≠ ddrFailed) : s.ddrTrain r = s.wr (DDR.STATUS_WR_IGN r) 1 := by
  simp only [State.ddrTrain, hon, Bool.not_true, Bool.false_eq_true, if_false, if_pos (And.intro hoff hfailed)]

/-- What a channel that fails writes. -/
def ddrFailWrites (r why : Nat) : List (Fld × Nat) :=
  [(DDR.STATUS_STATE r, ddrFailed), (DDR.CAP_WORDS r, 0), (DDR.STATUS_WHY r, why), (DDR.STATUS_EVT r, 1)]

theorem nodup_ddrFailWrites (r why : Nat) : ((ddrFailWrites r why).map fun e => e.1.key).Nodup := by
  simp [ddrFailWrites, Fld.key]
  omega

theorem State.ddrFail_eq (s : State) (r why : Nat) : s.ddrFail r why = s.wrs (ddrFailWrites r why) := rfl

theorem State.rd_ddrFail (s : State) {r why : Nat} {f : Fld} {v : Nat} (h : (f, v) ∈ ddrFailWrites r why) :
    (s.ddrFail r why).rd f = v % 2 ^ f.width := by
  rw [State.ddrFail_eq, s.rd_wrs_of_mem (nodup_ddrFailWrites r why) h]

theorem exec_trainingDone_good (h : s.rd (DDR.STATUS_STATE r) = ddrTraining) : exec (.trainingDone r 0) s =
    .next (s.wrs [(DDR.STATUS_STATE r, ddrReady), (DDR.CAP_WORDS r, s.ddrCapacity r)]) := by
  simp only [exec, execTrainingDone, h, ne_eq, not_true_eq_false, if_false, if_true]
  rfl

theorem exec_trainingDone_failed {why : Nat} (h : s.rd (DDR.STATUS_STATE r) = ddrTraining) (hwhy : why ≠ 0) :
    exec (.trainingDone r why) s = .next (s.ddrFail r why) := by
  simp only [exec, execTrainingDone, h, hwhy, ne_eq, not_true_eq_false, if_false]

section
variable (h : s.rd (DDR.STATUS_STATE r) = ddrReady)
include h

theorem exec_ddrRefresh_ready :
    exec (.ddrRefresh r) s = .next (s.modRegion r fun x => { x with refreshes := x.refreshes + 1 }) := by
  simp only [exec, execDdrRefresh, h, if_true]

theorem exec_ddrTempPoll_ready (hot : Bool) : exec (.ddrTempPoll r hot) s = .next (s.wr (DDR.STATUS_TEMP_HI r) (b2n hot)) := by
  simp only [exec, execDdrTempPoll, h, if_true]

/-- R290: the patrol scrubber passes a burst without an error. -/
theorem exec_patrolScrub_clean (hhours : s.rd (DDR.SCRUB_HOURS r) ≠ 0) (hcap : s.rd (DDR.CAP_WORDS r) ≠ 0)
    (hclean : s.BurstClean r (s.region r).patrol) (dev : Nat) : exec (.patrolScrub r 0 dev) s =
      .next (if s.rd (DDR.CAP_WORDS r) ≤ 8 * ((s.region r).patrol + 1) then
        (s.modRegion r fun x => { x with patrol := 0 }).wr (DDR.SCRUB_PASSES r) (s.rd (DDR.SCRUB_PASSES r) + 1)
      else s.modRegion r fun x => { x with patrol := (s.region r).patrol + 1 }) := by
  simp only [exec, execPatrolScrub, h, hhours, hcap, State.ddrRead_clean hclean, ne_eq, not_true_eq_false, or_self, if_false]

/-- R291: at most two retries settle the access. -/
theorem exec_ddrLinkError_retried (kind : Nat) {n : Nat} (hn : n < 3) : exec (.ddrLinkError r kind n) s =
    .next (s.count (if kind = 0 then DDR.RETRY_WCRC r else DDR.RETRY_CAPAR r) (min n 2)) := by
  simp only [exec, execDdrLinkError, h, hn, ne_eq, not_true_eq_false, if_false, if_true]

/-- R291: a third error fails the channel and is reported with the caravans that use it. -/
theorem exec_ddrLinkError_failed (kind : Nat) {n : Nat} (hn : 3 ≤ n) : ∃ t : State, exec (.ddrLinkError r kind n) s =
    .next ((t.ddrFail r 7).reportAs 0x10 (288 + r) 7 (t.ddrUsers r)) ∧ t.mem = s.mem := by
  refine ⟨s.count (if kind = 0 then DDR.RETRY_WCRC r else DDR.RETRY_CAPAR r) (min n 2), ?_, rfl⟩
  simp only [exec, execDdrLinkError, h, Nat.not_lt.mpr hn, ne_eq, not_true_eq_false, if_false]

end

end

/-- Settles O29, clause by clause: each command in the state that its rule names. -/
theorem ddrChannels : Obligations.DdrChannels := by
  unfold Obligations.DdrChannels
  intro s r _ ho
  refine ⟨fun hon hst hrate hdens => ?_, fun hon hoff hfailed => ?_, exec_trainingDone_good,
    fun why h hwhy => exec_trainingDone_failed h hwhy,
    fun h => ⟨exec_ddrRefresh_ready h, exec_ddrTempPoll_ready h, fun dev hhours hcap hclean => ⟨fun hmore => ?_, fun hend => ?_⟩,
      fun kind n => exec_ddrLinkError_retried h kind, fun kind n hn => ?_⟩⟩
  · exact congrArg Host.Outcome.next ((State.atReg_open _ ho).trans (State.ddrTrain_starts hon hst hrate hdens))
  · exact congrArg Host.Outcome.next ((State.atReg_open _ ho).trans (State.ddrTrain_ignored hon hoff hfailed))
  · rw [exec_patrolScrub_clean h hhours hcap hclean, if_neg (Nat.not_le.mpr hmore)]
  · rw [exec_patrolScrub_clean h hhours hcap hclean, if_pos hend]
  · obtain ⟨t, hx, hmem⟩ := exec_ddrLinkError_failed h kind hn
    refine ⟨_, hx, t.rd_ddrFail (.head _), t.rd_ddrFail (.tail _ (.tail _ (.head _))), t.rd_ddrFail (.tail _ (.tail _ (.tail _ (.head _)))),
      t.rd_ddrFail (.tail _ (.head _)), ?_, ?_⟩
    · rw [State.reportAs, List.getLast?_concat]
      rfl
    · rw [← hmem, State.reportAs, State.ddrFail_eq, State.wrs_mem]

end Sys2Proof.Machine

namespace Sys2Proof.Machine

/-! ## What ends at an initiator of the Trunk (R276, R301, R319) -/

/-- What is found by initiator and tag is of that initiator. -/
theorem init_of_find?_is {α : Type} {l : List α} {g : α → Req} {ok : α → Bool} {i tag : Nat} {a : α}
    (h : (l.find? fun e => (g e).is i tag && ok e) = some a) : (g a).init = i := by
  have := List.find?_some h
  simp only [Req.is, Bool.and_eq_true, beq_iff_eq] at this
  exact this.1.1

theorem Req.same_self (q : Req) : q.same q = true := beq_self_eq_true _

@[simp] theorem State.updateAnswered_net (s : State) (q : Req) (new : Bool) : (s.updateAnswered q new).net = s.net := by
  unfold State.updateAnswered
  split <;> rfl

@[simp] theorem State.updateAnswered_regs (s : State) (q : Req) (new : Bool) : (s.updateAnswered q new).regs = s.regs := by
  unfold State.updateAnswered
  split <;> rfl

theorem State.rd_of_regs {s t : State} (h : t.regs = s.regs) (f : Fld) : t.rd f = s.rd f := by rw [State.rd, h, State.rd]

/-- The keys from the host's registers on. -/
abbrev IsHostKey (k : Nat) : Prop := 64 * 0x900000 ≤ k

/-- What an error that is recorded writes. -/
def hostErrorWrites (a st : Nat) : List (Fld × Nat) := [(PCI.ERR_ADDR_ADDR, a), (PCI.ERR_ADDR_STATUS, st), (PCI.ERR_VALID, 1)]

theorem keys_hostErrorWrites (a st : Nat) : (hostErrorWrites a st).map (fun e => e.1.key) =
    [PCI.ERR_ADDR_ADDR.key, PCI.ERR_ADDR_STATUS.key, PCI.ERR_VALID.key] := rfl

/-- R445: an error at the host. -/
theorem State.onlyRegs_hostError (s : State) (a st : Nat) : ∃ ks, (∀ k ∈ ks, IsHostKey k) ∧ OnlyRegs s (s.hostError a st) ks := by
  unfold State.hostError
  extract_lets t
  have ht : OnlyRegs s t ([PCI.ERR_CA.key] ++ [PCI.STATUS_ERR_EVT.key]) := (onlyRegs_wr ..).trans (onlyRegs_wr ..)
  split
  · exact ⟨_, by decide, ht⟩
  · have hrec := onlyRegs_wrs t (hostErrorWrites a st)
    rw [keys_hostErrorWrites] at hrec
    exact ⟨_, by decide, ht.trans hrec⟩

/-- R449: an error at a channel of the host's DMA. -/
theorem State.onlyRegs_dmaEnd (s : State) (c st kind : Nat) (stopped : Bool) :
    ∃ ks, (∀ k ∈ ks, IsHostKey k) ∧ OnlyRegs s (s.dmaEnd c st kind stopped) ks := by
  unfold State.dmaEnd
  exact ⟨_, by simp [Fld.key]; omega, onlyRegs_wrs ..⟩

/-- R276: what an error does at an initiator of the Trunk, it does to registers of the host and of its DMA. -/
theorem State.errorAt_trunk (s : State) {q : Req} (hi : q.init < 13) (st : Nat) :
    ∃ ks, (∀ k ∈ ks, IsHostKey k) ∧ OnlyRegs s (s.errorAt q st) ks := by
  have hstays : ∃ ks, (∀ k ∈ ks, IsHostKey k) ∧ OnlyRegs s s ks := ⟨[], List.forall_mem_nil _, .refl ..⟩
  unfold State.errorAt
  extract_lets i
  have hi : i < 13 := hi
  split_ifs with hhost hdma hpend hstream
  · exact s.onlyRegs_hostError ..
  · exact s.onlyRegs_dmaEnd ..
  · exact hstays
  · omega
  · exact hstays

/-- From `s` to `t` a request has ended at an initiator of the Trunk: it has its answer, and memory, network and the registers below the
host's stand. -/
structure State.EndsWith (s t : State) (answer : List Nat) : Prop where
  answer : t.answer = answer
  mem : t.mem = s.mem
  net : t.net = s.net
  rd : ∀ f : Fld, f.key < 64 * 0x900000 → t.rd f = s.rd f

theorem State.finish_trunk (s : State) {q : Req} (hi : q.init < 13) (st : Nat) (data : List Nat) :
    s.EndsWith (s.finish q st data) (st :: data) := by
  unfold State.finish
  extract_lets u v
  have hu : u.mem = s.mem ∧ u.net = s.net ∧ ∀ f, u.rd f = s.rd f := by
    simp only [u]
    split
    · exact ⟨(s.updateAnswered_step q _).mem, s.updateAnswered_net q _, State.rd_of_regs (s.updateAnswered_regs q _)⟩
    · exact ⟨rfl, rfl, fun _ => rfl⟩
  obtain ⟨humem, hunet, hurd⟩ := hu
  have hv : v.mem = s.mem ∧ v.net = s.net ∧ ∀ f : Fld, f.key < 64 * 0x900000 → v.rd f = s.rd f := by
    simp only [v]
    split
    · obtain ⟨ks, hks, heq, hrd⟩ := u.errorAt_trunk hi st
      refine ⟨(congrArg State.mem heq).trans humem, (congrArg State.net heq).trans hunet, fun f hf => ?_⟩
      exact (hrd f fun h => absurd (hks _ h) (Nat.not_le.mpr hf)).trans (hurd f)
    · exact ⟨humem, hunet, fun f _ => hurd f⟩
  obtain ⟨hmem, hnet, hrd⟩ := hv
  exact ⟨rfl, hmem, hnet, hrd⟩

/-! ### Responses (R301) -/

theorem State.tollResponse_net (s : State) (q : Req) (words st lat : Nat) : (s.tollResponse q words st lat).net = s.net := by
  unfold State.tollResponse
  extract_lets i ns t
  split
  · rfl
  · split <;> rfl

/-- R301: a response that may return, to a request that is still awaited, ends it. -/
theorem State.deliver_awaited {s : State} {i tag : Nat} {ok : Rsp → Bool} {r : Rsp}
    (hrsp : (s.net.rsps.find? fun e => e.req.is i tag && ok e) = some r) (hmay : s.mayReturn r = true) (htime : s.timedOut r.req = false)
    (horphan : s.net.orphans.any r.req.same = false) (lat : Nat) : s.deliver i tag lat ok =
      (({ s with net := { s.net with rsps := s.net.rsps.erase r } } : State).tollResponse r.req r.data.length r.status lat).finish
        r.req r.status r.data := by
  simp only [State.deliver, hrsp, State.arrived, hmay, htime, horphan, Bool.not_true, Bool.false_eq_true, if_false, if_true]

theorem State.deliver_trunk {s : State} {i tag : Nat} {ok : Rsp → Bool} {r : Rsp} (hi : i < 13)
    (hrsp : (s.net.rsps.find? fun e => e.req.is i tag && ok e) = some r) (hmay : s.mayReturn r = true) (htime : s.timedOut r.req = false)
    (horphan : s.net.orphans.any r.req.same = false) (lat : Nat) : (s.deliver i tag lat ok).answer = r.status :: r.data ∧
      (s.deliver i tag lat ok).net.rsps = s.net.rsps.erase r ∧ (s.deliver i tag lat ok).mem = s.mem := by
  have hinit : r.req.init = i := init_of_find?_is (g := Rsp.req) hrsp
  let u : State := { s with net := { s.net with rsps := s.net.rsps.erase r } }
  obtain ⟨hans, hmem, hnet, -⟩ := (u.tollResponse r.req r.data.length r.status lat).finish_trunk (hinit ▸ hi) r.status r.data
  rw [State.deliver_awaited hrsp hmay htime horphan]
  exact ⟨hans, by rw [hnet, u.tollResponse_net], hmem.trans (u.tollResponse_frame ..).1⟩

/-! ### Time-outs (R315, R319) -/

/-- R319: the response to `q` is to be discarded; where its packet was lost, the berth stays held. -/
def NetX.timeOut (n : NetX) (q : Req) : NetX :=
  if n.lost.contains q then { n with lost := n.lost.erase q, gone := n.gone ++ [q] } else { n with dead := n.dead ++ [q] }

theorem NetX.timeOut_sent {n : NetX} {q : Req} (h : q ∉ n.lost) : n.timeOut q = { n with dead := n.dead ++ [q] } :=
  if_neg (by simpa using h)

theorem NetX.timeOut_lost {n : NetX} {q : Req} (h : q ∈ n.lost) :
    n.timeOut q = { n with lost := n.lost.erase q, gone := n.gone ++ [q] } :=
  if_pos (by simpa using h)

theorem exec_responseTimeout_expected {s : State} {i tag : Nat} {q : Req} (hf : s.frozen = false)
    (hq : (s.outstanding.find? fun e => e.is i tag && s.expected e) = some q) : exec (.responseTimeout i tag) s =
      .next (({ s.count (NOC.TOLL_D_FAULT i) 1 with net := s.net.timeOut q } : State).finish q 5 []) := by
  simp only [exec, execResponseTimeout, hf, hq, Bool.false_eq_true, if_false]
  rfl

theorem exec_compatWakeTimeout_waiting {s : State} {i tag : Nat} {q : Req}
    (hq : (s.net.waiting.find? fun e => e.is i tag && s.domainOff e.target) = some q) : exec (.compatWakeTimeout i tag) s =
      .next (((s.count (NOC.TOLL_D_FAULT i) 1).waitsNot q).finish q 5 []) := by
  simp only [exec, execCompatWakeTimeout, hq]

theorem State.waitsNot_of_mem {s : State} {q : Req} (h : q ∈ s.net.waiting) : s.waitsNot q =
    { s with net := { s.net with waiting := s.net.waiting.filter fun e => !q.same e } } :=
  if_pos (List.any_eq_true.mpr ⟨q, h, q.same_self⟩)

/-! ## Link errors (R316 to R318) -/

/-- R316: nothing found, corrected, or detected. -/
theorem unitClass_cases (k err : Nat) : unitClass k err = 0 ∨ unitClass k err = 1 ∨ unitClass k err = 2 := by
  have : unitClass k err ≤ 2 := by
    unfold unitClass
    split
    · extract_lets n
      split <;> omega
    · simp only [List.range, List.range.loop, List.foldl_cons, List.foldl_nil]
      omega
  omega

section
variable {s : State} {k i tag : Nat} {m : Moving} {how : LinkErr} (hf : s.frozen = false) (hm : s.moving i tag = some m)
  (hk : k ∈ links i m.req.target) (hu : how.u < (m.packet.units k).length)
include hf hm hk hu

theorem exec_linkReplay_good (h : unitClass k how.e = 0) : exec (.linkReplay k i tag how) s =
    .next { s with answer := m.packet.units k } := by
  simp [exec, execLinkReplay, hf, hm, hk, Nat.not_le.mpr hu, h]

theorem exec_linkReplay_corrected (h : unitClass k how.e = 1) : exec (.linkReplay k i tag how) s =
    .next (({ s with answer := m.packet.units k } : State).count (NOC.LINK_CORR k) 1) := by
  simp [exec, execLinkReplay, hf, hm, hk, Nat.not_le.mpr hu, h]

variable (h : unitClass k how.e = 2)
include h

theorem exec_linkReplay_replayed (h2 : unitClass k how.e2 = 0) : exec (.linkReplay k i tag how) s =
    .next (({ s with answer := m.packet.units k } : State).count (NOC.LINK_RETRY k) 1) := by
  simp [exec, execLinkReplay, hf, hm, hk, Nat.not_le.mpr hu, h, h2]

theorem exec_linkReplay_replayCorrected (h2 : unitClass k how.e2 = 1) : exec (.linkReplay k i tag how) s =
    .next ((({ s with answer := m.packet.units k } : State).count (NOC.LINK_RETRY k) 1).count (NOC.LINK_CORR k) 1) := by
  simp [exec, execLinkReplay, hf, hm, hk, Nat.not_le.mpr hu, h, h2]

theorem exec_linkReplay_poisoned (h2 : unitClass k how.e2 = 2) : exec (.linkReplay k i tag how) s =
    .next (((({ s with answer := m.packet.units k } : State).count (NOC.LINK_RETRY k) 1).poison k).poisoned m
      (waybillHit k how.u how.e2)) := by
  simp [exec, execLinkReplay, hf, hm, hk, Nat.not_le.mpr hu, h, h2]

end

@[simp] theorem State.discard_regs (s : State) (m : Moving) : (s.discard m).regs = s.regs := by cases m <;> rfl
@[simp] theorem State.discard_mem (s : State) (m : Moving) : (s.discard m).mem = s.mem := by cases m <;> rfl
@[simp] theorem State.discard_answer (s : State) (m : Moving) : (s.discard m).answer = s.answer := by cases m <;> rfl

/-- R317, R318: whatever becomes of a poisoned packet, the counts of the links stay. -/
theorem State.poisoned_frame (s : State) (m : Moving) (hit : Bool) : (s.poisoned m hit).answer = s.answer ∧
    (s.poisoned m hit).mem = s.mem ∧ ∀ k, (s.poisoned m hit).rd (NOC.LINK_POISON k) = s.rd (NOC.LINK_POISON k) := by
  unfold State.poisoned
  extract_lets t q u
  have hrd (f : Fld) : t.rd f = s.rd f := State.rd_of_regs (s.discard_regs m) f
  have hurd (k : Nat) : u.rd (NOC.LINK_POISON k) = s.rd (NOC.LINK_POISON k) :=
    (t.rd_count_ne 1 (by simp only [Fld.key]; omega)).trans (hrd _)
  split_ifs
  · exact ⟨s.discard_answer m, s.discard_mem m, fun k => hrd _⟩
  · exact ⟨s.discard_answer m, s.discard_mem m, hurd⟩
  · exact ⟨s.discard_answer m, s.discard_mem m, hurd⟩

/-- R317: a poisoned packet counts once at its link, the retries before it aside. -/
theorem State.rd_poison_retried (s : State) (k : Nat) : ((s.count (NOC.LINK_RETRY k) 1).poison k).rd (NOC.LINK_POISON k) =
    satAdd (NOC.LINK_POISON k).width (s.rd (NOC.LINK_POISON k)) 1 := by
  rw [State.poison, State.rd_report, State.rd_wr_ne _ _ (by simp [Fld.key]), State.rd_count_self, State.rd_count_ne _ _ (by simp [Fld.key])]

/-- R318: with an intact waybill the request is answered with FAULT. -/
theorem State.poisoned_request (s : State) (q : Req) : (s.poisoned (.request q) false).net.flight = s.net.flight.erase q ∧
    (s.poisoned (.request q) false).net.rsps = s.net.rsps ++ [⟨q, 6, []⟩] := by
  refine ⟨rfl, ?_⟩
  change s.net.rsps ++ [⟨q, 6, if q.kind = .rdp then [] else []⟩] = _
  rw [ite_self]

/-! ### Narrow units (R297) -/

theorem crc5_lt (v : Nat) : crc5 v < 32 := by
  refine List.foldlRecOn (motive := fun c => c < 32) (List.range 83) _ (by decide) fun c _ k _ => ?_
  refine Nat.xor_lt_two_pow (n := 5) (Nat.mod_lt _ (by decide)) ?_
  split <;> decide

theorem narrowUnit_fields {p ty : Nat} (last : Bool) (hp : p < 2 ^ 72) (hty : ty < 4) :
    bits (narrowUnit p ty last) 0 72 = p ∧ bits (narrowUnit p ty last) 72 2 = ty ∧ bits (narrowUnit p ty last) 74 1 = b2n last ∧
      bits (narrowUnit p ty last) 83 5 = crc5 (bits (narrowUnit p ty last) 0 83) := by
  have hlast := b2n_lt last
  unfold narrowUnit
  extract_lets body v
  have hcheck : Config.linkCheck body % 256 < 256 := Nat.mod_lt _ (by decide)
  have hv : v = p + 2 ^ 72 * ty + 2 ^ 74 * b2n last + 2 ^ 75 * (Config.linkCheck body % 256) := by
    simp only [v, body, Nat.mod_eq_of_lt hp]
  have hcrc := crc5_lt v
  have hlow : bits (v + 2 ^ 83 * crc5 v) 0 83 = v := by
    simp only [bits]
    omega
  rw [hlow]
  simp only [bits]
  omega

/-! ## Route tables (R310 to R313) -/

section
variable {s : State}

theorem State.recfgClose_ignored (h : s.rd NOC.RECFG_STATE ≠ 0) : s.recfgClose = s.wr NOC.STATUS_WR_IGN 1 := if_pos h

theorem State.recfgClose_differing (h : s.rd NOC.RECFG_STATE = 0) (hd : s.rtStage ≠ s.rd NOC.RT_ACT_V) : s.recfgClose =
    { s.wr NOC.RECFG_STATE 1 with net := { s.net with affected := Nat.xor s.rtStage (s.rd NOC.RT_ACT_V) } } := by
  have hx : Nat.xor s.rtStage (s.rd NOC.RT_ACT_V) ≠ 0 := fun hx => hd (Nat.xor_eq_zero_iff.mp hx)
  simp only [State.recfgClose, h, hx, ne_eq, not_true_eq_false, if_false]

theorem State.recfgOpen_none (h : s.rd NOC.RECFG_STATE = 2) (hheld : s.net.held = []) : s.recfgOpen =
    { s.wr NOC.RECFG_STATE 0 with net := { s.net with held := [], affected := 0 } } := by
  simp only [State.recfgOpen, h, hheld]
  rfl

end

/-- From `s` to `t` the network alone has moved. -/
def State.OnlyNet (s t : State) : Prop := t = { s with net := t.net }

theorem State.OnlyNet.trans {s t u : State} (h : s.OnlyNet t) (g : t.OnlyNet u) : s.OnlyNet u := by
  unfold State.OnlyNet at *
  rw [g, h]

theorem State.onlyNet_passOne (s : State) (o : Nat) : s.OnlyNet (s.passOne o) := by
  unfold State.passOne
  split
  · rfl
  · extract_lets q key turn pick
    cases pick <;> rfl

theorem State.onlyNet_travel (s : State) (i tag n : Nat) : s.OnlyNet (s.travel i tag n) := by
  induction n generalizing s with
  | zero => rfl
  | succ n ih =>
    unfold State.travel
    split
    · exact (s.onlyNet_passOne _).trans (ih _)
    · rfl

/-- R310: what the affected packets do before the drain ends is a matter of the network. -/
theorem State.onlyNet_reachAffected (s : State) : s.OnlyNet s.reachAffected :=
  List.foldlRecOn (motive := fun t => s.OnlyNet t) _ _ rfl fun t h q _ => h.trans (t.onlyNet_travel q.init q.tag _)

/-- What the end of a drain writes. -/
def State.drainWrites (s : State) (cyc : Nat) : List (Fld × Nat) :=
  [(NOC.RECFG_STATE, 2), (NOC.RECFG_DRAINED_EVT, 1), (NOC.RECFG_DRAIN_CYC, cyc), (NOC.RT_ACT_V, s.rtStage)]

theorem State.nodup_drainWrites (s : State) (cyc : Nat) : ((s.drainWrites cyc).map fun e => e.1.key).Nodup := by
  simp only [State.drainWrites, List.map_cons, List.map_nil]
  decide

theorem State.drained_eq (s : State) (cyc : Nat) : s.drained cyc = s.wrs (s.drainWrites cyc) := rfl

theorem State.rd_drained (s : State) {cyc : Nat} {f : Fld} {v : Nat} (h : (f, v) ∈ s.drainWrites cyc) :
    (s.drained cyc).rd f = v % 2 ^ f.width := by
  rw [State.drained_eq, s.rd_wrs_of_mem (s.nodup_drainWrites cyc) h]

theorem exec_drained_closing {s : State} (hf : s.frozen = false) (h : s.rd NOC.RECFG_STATE = 1) (cyc : Nat) :
    exec (.drained cyc) s = .next (s.reachAffected.drained cyc) := by
  simp only [exec, execDrained, hf, h, and_self, if_true]

/-! ## Grants, toll counters and region registers (R275, R304, R309) -/

section
variable {s : State} {m i c mask v : Nat} (hc : c ≠ 10)
include hc

theorem State.writeGrant_foreign (hm : 4 ≤ m) : s.writeGrant m i c mask v = s.wr NOC.STATUS_WR_IGN 1 := by
  simp only [State.writeGrant, hc, hm, if_false, if_true]

theorem State.writeGrant_lower (hm : m < 4) (hle : s.merged (NOC.BERTH_GRANT i c) mask v ≤ s.rd (NOC.BERTH_GRANT i c)) :
    s.writeGrant m i c mask v = s.wr (NOC.BERTH_GRANT i c) (s.merged (NOC.BERTH_GRANT i c) mask v) := by
  simp only [State.writeGrant, hc, Nat.not_le.mpr hm, hle, if_false, if_true]

end

/-- A register in the range reads as after reset. -/
theorem State.rd_resetRegs_in (s : State) {lo hi : Nat} {f : Fld} (h : 64 * lo ≤ f.key) (h' : f.key < 64 * hi) :
    (s.resetRegs lo hi).rd f = f.reset % 2 ^ f.width := by
  rw [State.rd, State.resetRegs, Tab.get_drop_in 0 s.regs ⟨h, h'⟩]
  exact congrArg (· % 2 ^ f.width) (Nat.zero_xor f.reset)

theorem State.rd_resetRegs_out (s : State) {lo hi : Nat} {f : Fld} (h : f.key < 64 * lo ∨ 64 * hi ≤ f.key) :
    (s.resetRegs lo hi).rd f = s.rd f := by
  rw [State.rd, State.resetRegs, Tab.get_drop_out 0 s.regs h, State.rd]

/-- The fields of BASE. -/
def baseFields (g n : Nat) : List Fld :=
  [MPR.BASE_BASE g n, MPR.BASE_EN g n, MPR.BASE_R g n, MPR.BASE_W g n, MPR.BASE_X g n, MPR.BASE_XO g n, MPR.BASE_LOCK g n]

theorem nodup_baseFields (g n : Nat) : ((baseFields g n).map Fld.key).Nodup := by simp [baseFields, Fld.key]

theorem State.writeMpr_locked {s : State} {m g n : Nat} (h : s.flag (MPR.BASE_LOCK g n) = true) (which mask v : Nat) :
    s.writeMpr m g n which mask v = s.wr MPR.STATUS_WR_IGN 1 := by
  simp only [State.writeMpr, h, Bool.true_or, if_true]

section
variable {s : State} {m g n : Nat} (hm : m < 4) (hg : g ≠ 61) (h : s.flag (MPR.BASE_LOCK g n) = false)
include hm hg h

theorem State.writeMpr_base (mask v : Nat) : s.writeMpr m g n 0 mask v = s.wrs (s.mergedAll mask v (baseFields g n)) := by
  simp only [State.writeMpr, h, hg, hm, decide_true, Bool.not_true, Bool.or_self, Bool.false_eq_true, if_false, if_true]
  rfl

theorem State.writeMpr_limit (mask v : Nat) :
    s.writeMpr m g n 1 mask v = s.wr (MPR.LIMIT_LIMIT g n) (s.merged (MPR.LIMIT_LIMIT g n) mask v) := by
  simp only [State.writeMpr, h, hg, hm, decide_true, Bool.not_true, Bool.or_self, Bool.false_eq_true, if_false, one_ne_zero]

end

/-- Settles O28, clause by clause: what ends at an initiator, what a link does to a unit, and the registers of the network. -/
theorem networkResponsesAndRoutes : Obligations.NetworkResponsesAndRoutes := by
  unfold Obligations.NetworkResponsesAndRoutes
  refine ⟨fun s i tag lat r c hf hi hc hrsp hmay htime horphan => ?response, fun s i tag q hf hi hq => ?timeout,
    fun s i tag q hi hq => ?wake, fun s k i tag u e e2 m hf hm hk hu => ?link, fun p ty last hp hty => narrowUnit_fields last hp hty,
    fun s ho => ⟨fun h => ?closeIgnored, fun h hd => ?close⟩, fun s cyc hf h => ?drained, fun s ho h hheld => ?reopen,
    fun s m i c mask v hc ho => ⟨fun hm => ?grantForeign, fun hm hle => ?grant⟩, fun s ho => ?toll,
    fun s m g n mask v hm hg ho => ⟨fun hlock w => ?locked, fun hlock => ⟨?limit, ?base⟩⟩⟩
  case response =>
    have hx : exec c.1 s = .next (s.deliver i tag lat c.2) := by
      simp only [List.mem_cons, List.not_mem_nil, or_false] at hc
      rcases hc with rfl | rfl | rfl
      · simp only [exec, execRspData, hf, Bool.false_eq_true, if_false]
      · simp only [exec, execRspAck, hf, Bool.false_eq_true, if_false]
      · simp only [exec, execRspErr, hf, Bool.false_eq_true, if_false]
    exact ⟨_, hx, State.deliver_trunk hi hrsp hmay htime horphan lat⟩
  case timeout =>
    have hinit : q.init = i := init_of_find?_is (g := id) hq
    obtain ⟨hans, hmem, hnet, hrd⟩ :=
      ({ s.count (NOC.TOLL_D_FAULT i) 1 with net := s.net.timeOut q } : State).finish_trunk (hinit ▸ hi) 5 []
    refine ⟨_, exec_responseTimeout_expected hf hq, hans, fun hsent => ?_, fun hlost => ?_, ?_, hmem⟩
    · rw [hnet, NetX.timeOut_sent hsent]
      exact ⟨rfl, rfl⟩
    · rw [hnet, NetX.timeOut_lost hlost]
      exact ⟨rfl, rfl, rfl⟩
    · rw [hrd _ (by simp only [Fld.key]; omega), State.rd_mk, State.rd_count_self]
  case wake =>
    have hinit : q.init = i := init_of_find?_is (g := id) hq
    have hwait : q ∈ (s.count (NOC.TOLL_D_FAULT i) 1).net.waiting := List.mem_of_find?_eq_some hq
    obtain ⟨hans, hmem, hnet, -⟩ := ((s.count (NOC.TOLL_D_FAULT i) 1).waitsNot q).finish_trunk (hinit ▸ hi) 5 []
    refine ⟨_, exec_compatWakeTimeout_waiting hq, hans, ?_, ?_⟩
    · rw [hnet, State.waitsNot_of_mem hwait, State.count_net]
    · rw [hmem, State.waitsNot_of_mem hwait, State.count_mem]
  case link =>
    rcases unitClass_cases k e with he | he | he
    · exact ⟨_, exec_linkReplay_good hf hm hk hu he, rfl, rfl, fun _ => rfl, by simp [he], by simp [he], by simp [he]⟩
    · exact ⟨_, exec_linkReplay_corrected hf hm hk hu he, rfl, rfl, by simp [he], fun _ => rfl, by simp [he], by simp [he]⟩
    rcases unitClass_cases k e2 with he2 | he2 | he2
    · exact ⟨_, exec_linkReplay_replayed hf hm hk hu he he2, rfl, rfl, by simp [he], by simp [he], fun _ _ => rfl, by simp [he2]⟩
    · exact ⟨_, exec_linkReplay_replayCorrected hf hm hk hu he he2, rfl, rfl, by simp [he], by simp [he], by simp [he2], by simp [he2]⟩
    · let t := (({ s with answer := m.packet.units k } : State).count (NOC.LINK_RETRY k) 1).poison k
      obtain ⟨hans, hmem, hrd⟩ := t.poisoned_frame m (waybillHit k u e2)
      refine ⟨_, exec_linkReplay_poisoned hf hm hk hu he he2, hans, hmem, by simp [he], by simp [he], by simp [he2], fun _ _ => ⟨?_, ?_⟩⟩
      · exact (hrd k).trans (State.rd_poison_retried ..)
      · rintro q rfl hhit
        rw [hhit]
        exact t.poisoned_request q
  case closeIgnored =>
    exact congrArg Host.Outcome.next ((State.atReg_open _ ho).trans (State.recfgClose_ignored h))
  case close =>
    refine ⟨_, congrArg Host.Outcome.next ((State.atReg_open _ ho).trans (State.recfgClose_differing h hd)), ?_, rfl, ?_, rfl⟩
    · exact (State.rd_mk ..).trans (State.rd_wr_self ..)
    · exact (State.rd_mk ..).trans (State.rd_wr_ne _ _ (by decide))
  case drained =>
    have honly := s.onlyNet_reachAffected
    have hstage : s.reachAffected.rtStage = s.rtStage := by rw [honly]; rfl
    refine ⟨_, exec_drained_closing hf h cyc, State.rd_drained _ (.head _), ?_, State.rd_drained _ (.tail _ (.head _)), rfl, ?_⟩
    · rw [← hstage]
      exact State.rd_drained _ (.tail _ (.tail _ (.tail _ (.head _))))
    · rw [State.drained_eq, State.wrs_mem, honly]
  case reopen =>
    refine ⟨_, congrArg Host.Outcome.next ((State.atReg_open _ ho).trans (State.recfgOpen_none h hheld)), ?_, rfl, rfl, rfl⟩
    exact (State.rd_mk ..).trans (State.rd_wr_self ..)
  case grantForeign =>
    exact congrArg Host.Outcome.next ((State.atReg_open _ ho).trans (State.writeGrant_foreign hc hm))
  case grant =>
    exact congrArg Host.Outcome.next ((State.atReg_open _ ho).trans (State.writeGrant_lower hc hm hle))
  case toll =>
    exact ⟨_, congrArg Host.Outcome.next (State.atReg_open _ ho), rfl, fun f hlo hhi => s.rd_resetRegs_in hlo hhi,
      fun f h => s.rd_resetRegs_out h⟩
  case locked =>
    exact congrArg Host.Outcome.next ((State.atReg_open _ ho).trans (State.writeMpr_locked hlock w mask v))
  case limit =>
    exact congrArg Host.Outcome.next ((State.atReg_open _ ho).trans (State.writeMpr_limit hm hg hlock mask v))
  case base =>
    exact ⟨_, congrArg Host.Outcome.next ((State.atReg_open _ ho).trans (State.writeMpr_base hm hg hlock mask v)), State.wrs_mem ..,
      fun f hf => State.rd_wrs_mergedAll (nodup_baseFields g n) hf⟩

end Sys2Proof.Machine

namespace Sys2Proof.Machine

/-! ## The array of the Store (R321, R327, R334) -/

section
variable (s : State) (k : Nat)

/-- R327: the four words of a code word that is programmed. -/
theorem State.readWord_cwProgram (ws : List Nat) {j : Nat} (hj : j < 4) :
    (s.cwProgram k ws).readWord (cwAddr k + 16 * j) = ws.getD j 0 % 2 ^ 72 := by
  have h := readWord_written ((List.range 4).map fun i => word72 (ws.getD i 0)) s (cwAddr k) j (by simpa using hj)
  rw [List.getElem_map, List.getElem_range, word72, Nat.mod_mod] at h
  exact h

theorem State.readByte_mem {s u : State} (h : u.mem = s.mem) (a : Nat) : u.readByte a = s.readByte a := by
  rw [State.readByte, h, State.readByte]

theorem State.readByte_writeWords_out (a : Nat) (l : List Nat) {b : Nat} (h : b < a ∨ a + 16 * l.length ≤ b) :
    (s.writeWords a l).readByte b = s.readByte b := by
  induction l generalizing s a with
  | nil => rfl
  | cons v l ih =>
    rw [List.length_cons] at h
    rw [writeWords_cons, ih _ _ (by omega), State.readByte_writeWord_out _ _ _ (by omega)]

/-- R327: programming a code word leaves the bytes of the others. -/
theorem State.readByte_cwProgram_out (ws : List Nat) {b : Nat} (h : b < cwAddr k ∨ cwAddr (k + 1) ≤ b) :
    (s.cwProgram k ws).readByte b = s.readByte b := by
  refine s.readByte_writeWords_out _ _ ?_
  rw [List.length_map, List.length_range]
  unfold cwAddr at h ⊢
  omega

@[simp] theorem State.cwState_cwProgram (ws : List Nat) : (s.cwProgram k ws).cwState k = 1 := by
  simp [State.cwProgram, State.cwState]

@[simp] theorem State.cwState_cwSpoil : (s.cwSpoil k).cwState k = 2 := by
  simp [State.cwSpoil, State.cwState]

theorem State.journalStep_cwSpoil : s.JournalStep (s.cwSpoil k) := ⟨fun _ _ => rfl, rfl, rfl⟩

/-- R334: an erased byte reads 0. -/
theorem State.readByte_cwErase_in {lo hi a : Nat} (h : cwAddr lo ≤ a ∧ a < cwAddr hi) : (s.cwErase lo hi).readByte a = 0 := by
  have hget : Tab.get memDefault (Tab.drop s.mem (cwAddr lo) (cwAddr hi)) a = memDefault := Tab.get_drop_in _ _ h
  exact congrArg BitVec.toNat hget

theorem State.readByte_cwErase_out {lo hi a : Nat} (h : a < cwAddr lo ∨ cwAddr hi ≤ a) :
    (s.cwErase lo hi).readByte a = s.readByte a := congrArg BitVec.toNat (Tab.get_drop_out _ _ h)

/-- R334: an erased word reads 0. -/
theorem State.readWord_cwErase_in {lo hi a : Nat} (h : cwAddr lo ≤ a ∧ a + 9 ≤ cwAddr hi) : (s.cwErase lo hi).readWord a = 0 := by
  have hbyte (i : Nat) (h9 : i < 9) : (s.cwErase lo hi).readByte (a + i) = 0 := s.readByte_cwErase_in ⟨by omega, by omega⟩
  have hfirst : (s.cwErase lo hi).readByte a = 0 := hbyte 0 (by decide)
  simp [State.readWord, State.readBytes, ofBytes, Nat.add_assoc, hbyte, hfirst]

/-- R334: an erase of other code words leaves no more of a journal half used. -/
theorem State.halfUsed_cwErase_le (lo hi h : Nat) : (s.cwErase lo hi).halfUsed h ≤ s.halfUsed h :=
  (List.filter_sublist.filter _).length_le

/-- R334: where no rollover is due, an entry goes into sector 1. -/
theorem State.readByte_journal_out {s : State} (hdue : s.rolloverDue = false) (ws : List Nat) {a : Nat}
    (h : a < cwAddr 4096 ∨ cwAddr 8192 ≤ a) : (s.journal ws).readByte a = s.readByte a := by
  have hhalf : s.half < 2 := s.rd_lt STO.JSEQ_HALF
  have hused : 8 ≤ 2048 - s.halfUsed s.half := Nat.not_lt.mp (of_decide_eq_false hdue)
  rw [State.journal, State.showFree, State.readByte_wr]
  refine s.readByte_cwProgram_out _ ws ?_
  generalize s.halfUsed s.half = used at hused ⊢
  generalize s.half = half at hhalf ⊢
  unfold cwAddr at h ⊢
  unfold halfBase
  omega

/-- R335: an erase makes no rollover due. -/
theorem State.rolloverDue_cwErase {s : State} (hdue : s.rolloverDue = false) (lo hi : Nat) : (s.cwErase lo hi).rolloverDue = false := by
  have hle := s.halfUsed_cwErase_le lo hi s.half
  have hhalf : (s.cwErase lo hi).half = s.half := rfl
  simp only [State.rolloverDue, decide_eq_false_iff_not, Nat.not_lt, hhalf] at hdue ⊢
  omega

end

/-- The lowest digit of 72 bits, and those above it. -/
theorem bits_digit_zero {w : Nat} (hw : w < 2 ^ 72) (y : Nat) : bits (w + 2 ^ 72 * y) 0 72 = w := by
  rw [bits, Nat.pow_zero, Nat.div_one, Nat.add_mul_mod_self_left, Nat.mod_eq_of_lt hw]

theorem bits_digit_succ {w : Nat} (hw : w < 2 ^ 72) (y j : Nat) : bits (w + 2 ^ 72 * y) (72 * (j + 1)) 72 = bits y (72 * j) 72 := by
  have hdiv : (w + 2 ^ 72 * y) / 2 ^ 72 = y := by
    rw [Nat.add_mul_div_left _ _ (Nat.two_pow_pos 72), Nat.div_eq_of_lt hw, Nat.zero_add]
  rw [bits, bits, Nat.mul_add, Nat.mul_one, Nat.add_comm (72 * j), Nat.pow_add, ← Nat.div_div_eq_div_mul, hdiv]

theorem sum_digits (base : Nat) (w : Nat → Nat) (x : Nat) : ((List.range 4).map fun i => w i * base ^ i).sum + base ^ 4 * x =
    w 0 + base * (w 1 + base * (w 2 + base * (w 3 + base * x))) := by
  simp only [List.range, List.range.loop, List.map_cons, List.map_nil, List.sum_cons, List.sum_nil]
  ring

/-- Four words side by side, `x` above them. -/
theorem bits_packed {w : Nat → Nat} (hw : ∀ i, w i < 2 ^ 72) (x : Nat) {j : Nat} (hj : j < 4) :
    bits (((List.range 4).map fun i => w i * 2 ^ (72 * i)).sum + 2 ^ 288 * x) (72 * j) 72 = w j := by
  have hdigits : ((List.range 4).map fun i => w i * 2 ^ (72 * i)).sum + 2 ^ 288 * x =
      w 0 + 2 ^ 72 * (w 1 + 2 ^ 72 * (w 2 + 2 ^ 72 * (w 3 + 2 ^ 72 * x))) := by
    simp only [← sum_digits, ← Nat.pow_mul]
  rw [hdigits]
  match j, hj with
  | 0, _ => exact bits_digit_zero (hw 0) _
  | 1, _ => exact (bits_digit_succ (hw 0) _ 0).trans (bits_digit_zero (hw 1) _)
  | 2, _ => exact (bits_digit_succ (hw 0) _ 1).trans ((bits_digit_succ (hw 1) _ 0).trans (bits_digit_zero (hw 2) _))
  | 3, _ =>
    exact (bits_digit_succ (hw 0) _ 2).trans
      ((bits_digit_succ (hw 1) _ 1).trans ((bits_digit_succ (hw 2) _ 0).trans (bits_digit_zero (hw 3) _)))

theorem State.getD_cwRaw_lt (s : State) (k i : Nat) : (s.cwRaw k).getD i 0 < 2 ^ 72 := by
  by_cases hi : i < 4
  · rw [State.cwRaw, State.getD_readWords s hi]
    exact s.readWord_lt _
  · rw [List.getD_eq_default _ _ (Nat.not_lt.mp hi)]
    exact Nat.two_pow_pos 72

/-- R338: the physical bits hold the words of the array as they stand. -/
theorem State.bits_cwPhysical {s : State} {k : Nat} (h : s.cwState k ≠ 2) {j : Nat} (hj : j < 4) :
    bits (s.cwPhysical k) (72 * j) 72 = s.readWord (cwAddr k + 16 * j) := by
  simp only [State.cwPhysical, if_neg h]
  exact (bits_packed (s.getD_cwRaw_lt k) _ hj).trans (s.getD_readWords hj)

/-! ### Torn sectors (R337) -/

theorem bitOf_putBit_self (v i : Nat) (b : Bool) : bitOf (putBit v i b) i = b := by
  cases b
  · exact bitOf_clearBit_self v i
  · exact bitOf_setBit_self v i

@[simp] theorem State.torn_setTorn_self (s : State) (x : Nat) (b : Bool) : (s.setTorn x b).torn x = b := by
  have hx : x % 64 < 64 := Nat.mod_lt _ (by decide)
  rw [State.torn, State.setTorn, State.rd_wr_self, bitOf_eq_testBit, Nat.testBit_mod_two_pow, decide_eq_true hx, Bool.true_and,
    ← bitOf_eq_testBit, bitOf_putBit_self]

@[simp] theorem State.setTorn_mem (s : State) (x : Nat) (b : Bool) : (s.setTorn x b).mem = s.mem := rfl

@[simp] theorem State.setTorn_store (s : State) (x : Nat) (b : Bool) : (s.setTorn x b).store = s.store := rfl

/-! ## The commands of the two ports (R325, R326) -/

/-- A list of writes to the fields `fs`, which are apart: a value that fits its field is read. -/
theorem State.rd_wrs_entry (s : State) {l : List (Fld × Nat)} {fs : List Fld} (hn : (fs.map Fld.key).Nodup) (hl : l.map Prod.fst = fs)
    {f : Fld} {v : Nat} (h : (f, v) ∈ l) (hv : v < 2 ^ f.width) : (s.wrs l).rd f = v := by
  rw [← hl, List.map_map] at hn
  exact (s.rd_wrs_of_mem hn h).trans (Nat.mod_eq_of_lt hv)

theorem OnlyRegs.store {s t : State} {ks : List Nat} (h : OnlyRegs s t ks) : t.store = s.store := by
  rw [h.1]

/-- R326: a command that its port can give is judged in the state as it stands. -/
theorem State.stoRow_open {s : State} {obj : Bool} (h : obj = true ∨ s.regOpen 0 STO.CMD_OP.addr = true) (act : State → State) :
    s.stoRow obj act = act s := by
  cases obj
  · exact State.atReg_open act (h.resolve_left Bool.false_ne_true)
  · rfl

/-- R325: the Store takes a command. -/
theorem State.storeBusy_free {s : State} (h : s.StoreFree) : s.storeBusy = false := by
  obtain ⟨hop, hpend, hdue⟩ := h
  simp [State.storeBusy, hop, hpend, hdue]

/-- R325: the Store takes no command. -/
theorem State.storeBusy_running {s : State} (h : s.store.op ≠ none ∨ s.flag STO.CMD_STATUS_PEND = true) : s.storeBusy = true := by
  rcases h with h | h
  · simp [State.storeBusy, Option.isSome_iff_ne_none.mpr h]
  · simp [State.storeBusy, h]

/-- R322, R331: READ_MARGIN and RAW_READ of a code word that the port may read pass their checks. -/
theorem State.PortReads.checks {s : State} {obj : Bool} {k : Nat} (h : s.PortReads obj k) :
    (!mayRead obj (sectorOf k) || (s.cwXo k && !obj)) = false := by
  rcases h with rfl | ⟨hx, hxo⟩
  · simp [mayRead]
  · rcases hx with hx | hx <;> simp [mayRead, hx, hxo]

/-- R322, R331: PROGRAM and RAW_PROGRAM of a code word that the port may program pass their checks. -/
theorem State.PortPrograms.checks {s : State} {obj : Bool} {k : Nat} (h : s.PortPrograms obj k) :
    (!s.mayProgram obj (sectorOf k) || (s.cwXo k && !obj)) = false := by
  rcases h with ⟨rfl, hx | ⟨hx, hphase⟩⟩ | ⟨rfl, hx, hxo⟩
  · simp [State.mayProgram, hx]
  · simp [State.mayProgram, hx, hphase]
  · simp [State.mayProgram, hx, hxo]

/-- R13, R325: from `s` to `t` a Store command is refused with status `st`: the Store and memory stand, and the shared port alone
counts it. -/
structure State.StoreRefused (s t : State) (obj : Bool) (st : Nat) : Prop where
  store : t.store = s.store
  mem : t.mem = s.mem
  own : obj = true → t = s
  status : obj = false → t.rd STO.LAST_REJECT_STATUS = st
  count : obj = false → t.rd STO.REJECT_COUNT = satAdd STO.REJECT_COUNT.width (s.rd STO.REJECT_COUNT) 1

theorem State.storeReject_shared (s : State) (op st : Nat) : s.storeReject false op st =
    (s.count STO.REJECT_COUNT 1).wrs [(STO.LAST_REJECT_CODE, op), (STO.LAST_REJECT_STATUS, st)] := rfl

theorem State.status_storeReject (s : State) (op : Nat) {st : Nat} (h : st < 2 ^ 8) :
    (s.storeReject false op st).rd STO.LAST_REJECT_STATUS = st := by
  rw [State.storeReject_shared]
  exact State.rd_wrs_entry _ (fs := [STO.LAST_REJECT_CODE, STO.LAST_REJECT_STATUS]) (by decide) rfl (by simp) h

theorem State.count_storeReject (s : State) (op st : Nat) :
    (s.storeReject false op st).rd STO.REJECT_COUNT = satAdd STO.REJECT_COUNT.width (s.rd STO.REJECT_COUNT) 1 := by
  have hother : STO.REJECT_COUNT.key ∉ [STO.LAST_REJECT_CODE, STO.LAST_REJECT_STATUS].map Fld.key := by decide
  rw [State.storeReject_shared, (onlyRegs_wrs _ _).2 _ hother, State.rd_count_self]

/-- R11, R13: what a refusal of the shared port shows in CMD_STATUS, if anything, is not what it counts. -/
theorem State.onlyRegs_storeRefuse (s : State) (op st : Nat) : OnlyRegs (s.storeReject false op st) (s.storeRefuse false op st)
    ([STO.CMD_STATUS_STATUS, STO.CMD_STATUS_OP].map Fld.key) := by
  rw [State.storeRefuse, Bool.false_or]
  split
  · exact OnlyRegs.refl ..
  · exact onlyRegs_wrs ..

theorem State.storeRefused_storeRefuse (s : State) (obj : Bool) (op : Nat) {st : Nat} (h : st < 2 ^ 8) :
    s.StoreRefused (s.storeRefuse obj op st) obj st := by
  cases obj
  case true => exact ⟨rfl, rfl, fun _ => rfl, nofun, nofun⟩
  case false =>
    have honly := s.onlyRegs_storeRefuse op st
    refine ⟨honly.store, honly.mem, nofun, fun _ => ?_, fun _ => ?_⟩
    · rw [honly.2 _ (by decide), s.status_storeReject op h]
    · rw [honly.2 _ (by decide), s.count_storeReject]

/-- The registers that the end of a command writes. -/
def storeDoneFields : List Fld := [STO.CMD_STATUS_STATUS, STO.CMD_STATUS_OP, STO.CMD_STATUS_PEND, STO.EVT_DONE]

/-- The registers that the start of an operation writes. -/
def storeStartFields : List Fld := [STO.STATUS_BUSY, STO.CMD_STATUS_PEND, STO.CMD_STATUS_OP]

/-- R326: from `s` to `t` a command of port `obj` completes with status `st`. -/
structure State.StoreCompleted (s t : State) (obj : Bool) (st : Nat) : Prop where
  only : OnlyRegs s t (storeDoneFields.map Fld.key)
  done : t.rd STO.EVT_DONE = 1
  pend : obj = false → t.rd STO.CMD_STATUS_PEND = 0
  status : obj = false → t.rd STO.CMD_STATUS_STATUS = st

theorem State.storeDone_shared (s : State) (op st : Nat) : s.storeDone false op st =
    s.wrs [(STO.CMD_STATUS_STATUS, st), (STO.CMD_STATUS_OP, op), (STO.CMD_STATUS_PEND, 0), (STO.EVT_DONE, 1)] := rfl

theorem State.onlyRegs_storeDone (s : State) (obj : Bool) (op st : Nat) : OnlyRegs s (s.storeDone obj op st) (storeDoneFields.map Fld.key) := by
  cases obj
  · exact onlyRegs_wrs ..
  · have honly := onlyRegs_wr s STO.EVT_DONE 1
    refine ⟨honly.1, fun f hf => honly.2 f fun he => hf ?_⟩
    rw [List.mem_singleton.mp he]
    decide

theorem State.storeCompleted_storeDone (s : State) (obj : Bool) (op : Nat) {st : Nat} (h : st < 2 ^ 8) :
    s.StoreCompleted (s.storeDone obj op st) obj st := by
  have honly := s.onlyRegs_storeDone obj op st
  cases obj
  case true => exact ⟨honly, s.rd_wr_self .., nofun, nofun⟩
  case false =>
    have hn : (storeDoneFields.map Fld.key).Nodup := by decide
    rw [State.storeDone_shared] at honly ⊢
    exact ⟨honly, s.rd_wrs_entry hn rfl (by simp) (by decide), fun _ => s.rd_wrs_entry hn rfl (by simp) (by decide),
      fun _ => s.rd_wrs_entry hn rfl (by simp) h⟩

/-- R325: from `s` to `t` a command of port `obj` is accepted and the operation `o` runs. -/
structure State.StoreStarted (s t : State) (obj : Bool) (o : StoreOp) : Prop where
  op : t.store.op = some o
  busy : t.rd STO.STATUS_BUSY = 1
  pend : obj = false → t.rd STO.CMD_STATUS_PEND = 1
  mem : t.mem = s.mem
  rd : ∀ f : Fld, f.key ∉ storeStartFields.map Fld.key → t.rd f = s.rd f

theorem State.storeStarted_storeStart (s : State) (obj : Bool) (op : Nat) (o : StoreOp) :
    s.StoreStarted (s.storeStart obj op o) obj o := by
  let u : State := { s with store := { s.store with op := some o } }
  cases obj
  case true => exact ⟨rfl, u.rd_wr_self .., nofun, rfl, fun f hf => u.rd_wr_ne 1 fun he => hf (he ▸ List.mem_cons_self ..)⟩
  case false =>
    have hn : (storeStartFields.map Fld.key).Nodup := by decide
    have hstart : s.storeStart false op o = u.wrs [(STO.STATUS_BUSY, 1), (STO.CMD_STATUS_PEND, 1), (STO.CMD_STATUS_OP, op)] := rfl
    rw [hstart]
    exact ⟨rfl, u.rd_wrs_entry hn rfl (by simp) (by decide), fun _ => u.rd_wrs_entry hn rfl (by simp) (by decide), rfl,
      fun f hf => (onlyRegs_wrs u _).2 f hf⟩

/-- R327, R334, R332: from `s` to `t` an operation of port `obj` ends with status `st` and no read waits. -/
structure State.StoreEnded (s t : State) (obj : Bool) (st : Nat) : Prop where
  op : t.store.op = none
  cw : t.store.cw = s.store.cw
  mem : t.mem = s.mem
  busy : t.rd STO.STATUS_BUSY = 0
  done : t.rd STO.EVT_DONE = 1
  pend : obj = false → t.rd STO.CMD_STATUS_PEND = 0
  status : obj = false → t.rd STO.CMD_STATUS_STATUS = st
  torn : ∀ x, t.torn x = s.torn x

theorem State.storeEnded {s : State} (h : s.store.waiting = []) (obj : Bool) (op : Nat) {st : Nat} (hst : st < 2 ^ 8) :
    s.StoreEnded ((s.storeIdle []).storeDone obj op st) obj st := by
  obtain ⟨honly, hdone, hpend, hstatus⟩ := (s.storeIdle []).storeCompleted_storeDone obj op hst
  have hidle := State.storeIdle_none h []
  refine ⟨?_, ?_, ?_, ?_, hdone, hpend, hstatus, fun x => ?_⟩
  · rw [honly.store, hidle]
  · rw [honly.store, hidle]
  · rw [honly.mem, hidle]
    rfl
  · rw [honly.2 _ (by decide), hidle, State.rd_mk]
    exact s.rd_wrs_entry (fs := [STO.STATUS_BUSY, STO.STATUS_INTERNAL]) (by decide) rfl (by simp) (by decide)
  · rw [State.torn, honly.2 _ (by simp [storeDoneFields, Fld.key]; omega), hidle, State.rd_mk,
      State.rd_wrs_ne _ _ (by simp [Fld.key]; omega), State.torn]

/-! ### RBUF (R326, R338) -/

/-- The registers of RBUF. -/
def rbufFields : List Fld := (List.range 4).flatMap fun n => [STO.RBUF_LO_LO n, STO.RBUF_HI_HI n]

/-- The registers of RRES. -/
def rresFields : List Fld := [STO.RRES_CORR, STO.RRES_BLANK, STO.RRES_TORN, STO.RRES_UNCORR]

/-- What RBUF takes. -/
def rbufWrites (ws : List Nat) : List (Fld × Nat) :=
  (List.range 4).flatMap fun n => [(STO.RBUF_LO_LO n, bits (ws.getD n 0) 0 64), (STO.RBUF_HI_HI n, bits (ws.getD n 0) 64 8)]

theorem State.setRbuf_eq (s : State) (ws : List Nat) : s.setRbuf ws = s.wrs (rbufWrites ws) := rfl

/-- R326: a read and its result are registers. -/
theorem State.onlyRegs_setRbuf (s : State) (ws : List Nat) (l : List (Fld × Nat)) :
    OnlyRegs s ((s.setRbuf ws).wrs l) (((rbufWrites ws).map fun e => e.1.key) ++ l.map fun e => e.1.key) := by
  rw [State.setRbuf_eq]
  exact (onlyRegs_wrs ..).trans (onlyRegs_wrs ..)

theorem State.rd_setRbuf (s : State) (ws : List Nat) {j : Nat} (hj : j < 4) :
    (s.setRbuf ws).rd (STO.RBUF_LO_LO j) = bits (ws.getD j 0) 0 64 ∧ (s.setRbuf ws).rd (STO.RBUF_HI_HI j) = bits (ws.getD j 0) 64 8 := by
  have hn : (rbufFields.map Fld.key).Nodup := by decide
  have hmem {e : Fld × Nat} (he : e ∈ [(STO.RBUF_LO_LO j, bits (ws.getD j 0) 0 64), (STO.RBUF_HI_HI j, bits (ws.getD j 0) 64 8)]) :
      e ∈ rbufWrites ws := List.mem_flatMap.mpr ⟨j, List.mem_range.mpr hj, he⟩
  rw [State.setRbuf_eq]
  exact ⟨s.rd_wrs_entry hn rfl (hmem (.head _)) (Nat.mod_lt _ (Nat.two_pow_pos 64)),
    s.rd_wrs_entry hn rfl (hmem (.tail _ (.head _))) (Nat.mod_lt _ (Nat.two_pow_pos 8))⟩

/-- R326: RBUF stands once it is read: neither the result of the read nor the end of the command writes it. -/
theorem State.rd_rbuf_storeDone (s : State) (ws : List Nat) {l : List (Fld × Nat)} (hl : l.map Prod.fst ∈ [rresFields, [STO.RBUF_CHK_CHK]])
    (obj : Bool) (op st : Nat) {j : Nat} (hj : j < 4) :
    (((s.setRbuf ws).wrs l).storeDone obj op st).rd (STO.RBUF_LO_LO j) = bits (ws.getD j 0) 0 64 ∧
      (((s.setRbuf ws).wrs l).storeDone obj op st).rd (STO.RBUF_HI_HI j) = bits (ws.getD j 0) 64 8 := by
  have hapart : ∀ i < 4, ∀ f ∈ [STO.RBUF_LO_LO i, STO.RBUF_HI_HI i],
      f.key ∉ storeDoneFields.map Fld.key ∧ ∀ fs ∈ [rresFields, [STO.RBUF_CHK_CHK]], f.key ∉ fs.map Fld.key := by decide
  have hkeep {f : Fld} (hf : f ∈ [STO.RBUF_LO_LO j, STO.RBUF_HI_HI j]) :
      (((s.setRbuf ws).wrs l).storeDone obj op st).rd f = (s.setRbuf ws).rd f := by
    obtain ⟨hdone, hres⟩ := hapart j hj f hf
    have hres := hres _ hl
    rw [List.map_map] at hres
    rw [(State.onlyRegs_storeDone ..).2 f hdone, (onlyRegs_wrs _ l).2 f hres]
  obtain ⟨hlo, hhi⟩ := s.rd_setRbuf ws hj
  exact ⟨(hkeep (.head _)).trans hlo, (hkeep (.tail _ (.head _))).trans hhi⟩

/-! ## What each command does -/

section
variable {s : State} {obj : Bool} {k : Nat} (hport : obj = true ∨ s.regOpen 0 STO.CMD_OP.addr = true)
include hport

theorem State.stoRow_codeWord (hk : k < 2097152) (act : Nat → State → State) : s.stoRow obj (act (k % 2097152)) = act k s := by
  rw [Nat.mod_eq_of_lt hk, State.stoRow_open hport]

theorem exec_readMargin_judged (hk : k < 2097152) (margin e : Nat) :
    exec (.readMargin obj k margin e) s = .next (s.readMargin obj k (margin % 4) e) :=
  congrArg Host.Outcome.next (State.stoRow_codeWord hport hk fun k s => s.readMargin obj k (margin % 4) e)

theorem exec_program_judged (hk : k < 2097152) (e : Nat) : exec (.program obj k e) s = .next (s.storeProgram obj k e) :=
  congrArg Host.Outcome.next (State.stoRow_codeWord hport hk fun k s => s.storeProgram obj k e)

theorem exec_rawRead_judged (hk : k < 2097152) (flip : Nat) : exec (.rawRead obj k flip) s = .next (s.rawRead obj k flip) :=
  congrArg Host.Outcome.next (State.stoRow_codeWord hport hk fun k s => s.rawRead obj k flip)

theorem exec_rawProgram_judged (hk : k < 2097152) : exec (.rawProgram obj k) s = .next (s.rawProgram obj k) :=
  congrArg Host.Outcome.next (State.stoRow_codeWord hport hk fun k s => s.rawProgram obj k)

theorem exec_erase_judged (index : Nat) : exec (.erase obj index) s = .next (s.storeErase obj index) :=
  congrArg Host.Outcome.next (State.stoRow_open hport _)

/-- R325: any command is refused with BUSY. -/
theorem exec_store_busy (hbusy : s.storeBusy = true) (e : Nat) {c : Instr}
    (hc : c ∈ [.readMargin obj k 0 e, .program obj k e, .erase obj k, .rawRead obj k e, .rawProgram obj k]) :
    ∃ op, exec c s = .next (s.storeRefuse obj op 1) := by
  have hrow {act : State → State} {op : Nat} (h : act s = s.storeRefuse obj op 1) :
      (.next (s.stoRow obj act) : Host.Outcome State Fault Refusal) = .next (s.storeRefuse obj op 1) :=
    congrArg Host.Outcome.next ((State.stoRow_open hport _).trans h)
  simp only [List.mem_cons, List.not_mem_nil, or_false] at hc
  rcases hc with rfl | rfl | rfl | rfl | rfl
  · exact ⟨1, hrow (if_pos hbusy)⟩
  · exact ⟨2, hrow (if_pos hbusy)⟩
  · exact ⟨3, hrow (if_pos hbusy)⟩
  · exact ⟨8, hrow (by simp [State.rawRead, State.rawRefused, hbusy])⟩
  · exact ⟨9, hrow (by simp [State.rawProgram, State.rawRefused, hbusy])⟩

end

section
variable {s : State} {obj : Bool} {k : Nat} (hfree : s.StoreFree)
include hfree

/-- R326: READ_MARGIN of a correctable word. -/
theorem State.readMargin_correctable (hreads : s.PortReads obj k) {e : Nat} (he : s.cwErrors k e ≤ 3) (margin : Nat) :
    ∃ blank, s.readMargin obj k margin e =
      ((s.setRbuf (s.cwWords k)).wrs [(STO.RRES_CORR, s.cwErrors k e), (STO.RRES_BLANK, blank), (STO.RRES_TORN, b2n (s.torn (sectorOf k))),
        (STO.RRES_UNCORR, 0)]).storeDone obj 1 (if s.torn (sectorOf k) then 8 else 0) := by
  have hlt : ¬ 3 < s.cwErrors k e := Nat.not_lt.mpr he
  simp only [State.readMargin, State.storeBusy_free hfree, hreads.checks, he, hlt, Bool.false_eq_true, if_false, if_true, decide_false]
  exact ⟨_, rfl⟩

section
variable (htorn : s.torn (sectorOf k) = false) (hprog : s.PortPrograms obj k)
include htorn hprog

/-- R327: PROGRAM of an erased word starts. -/
theorem State.storeProgram_erased (hcw : s.cwState k = 0) : s.storeProgram obj k 0 = s.storeStart obj 2 (.program obj k s.pbuf) := by
  simp [State.storeProgram, State.storeBusy_free hfree, htorn, hprog.checks, hcw]

/-- R327: PROGRAM of a word that is not erased. -/
theorem State.storeProgram_twice (hcw : s.cwState k ≠ 0) : s.storeProgram obj k 0 = s.storeRefuse obj 2 7 := by
  simp [State.storeProgram, State.storeBusy_free hfree, htorn, hprog.checks, hcw]

end

/-- R334 step 1: ERASE of a sector that the port may erase starts. -/
theorem State.storeErase_starts {x : Nat} (hx : x < 512) (hlo : (if obj then 2 else 8) ≤ x) (hxo : s.sectorXo x = false ∨ obj = true) :
    s.storeErase obj x = ((s.journal [entryWord 1 x (s.rd STO.JSEQ_SEQ)]).wr STO.JSEQ_SEQ (s.rd STO.JSEQ_SEQ + 1)).storeStart obj 3
      (.erase obj x (s.rd STO.JSEQ_SEQ)) := by
  have hmod : x % 512 = x := Nat.mod_eq_of_lt hx
  have hindex : x % 2097152 / 512 = 0 := by omega
  have hmay : ¬ (x < 2 ∨ (x < 8 ∧ obj = false) ∨ (s.sectorXo x = true ∧ obj = false)) := by
    cases obj
    · simp only [Bool.false_eq_true, if_false, or_false] at hlo hxo
      simp only [hxo, Bool.false_eq_true, and_true, or_false]
      omega
    · simpa using Nat.not_lt.mpr hlo
  simp only [State.storeErase, State.storeBusy_free hfree, hmod, hmay, hindex, ne_eq, not_true_eq_false, Bool.false_eq_true, if_false]

/-- R338: outside the test modes no raw command is accepted. -/
theorem State.rawRefused_closed (h : s.flag LC.STATE_TEST_MODES = false) (write : Bool) : s.rawRefused obj write k = 3 := by
  simp [State.rawRefused, State.storeBusy_free hfree, h]

section
variable (htest : s.flag LC.STATE_TEST_MODES = true)
include htest

/-- R338: RAW_READ in the test modes. -/
theorem State.rawRead_accepted (h : s.PortReads obj k) : s.rawRead obj k 0 =
    ((s.setRbuf ((List.range 4).map fun i => bits (s.cwPhysical k) (72 * i) 72)).wrs [(STO.RBUF_CHK_CHK, bits (s.cwPhysical k) 288 32)]).storeDone
      obj 8 0 := by
  have hst : s.rawRefused obj false k = 0 := by
    simp only [State.rawRefused, State.storeBusy_free hfree, htest, h.checks, Bool.false_eq_true, if_false, Bool.not_true]
  have hxor : Nat.xor (s.cwPhysical k) 0 = s.cwPhysical k := Nat.xor_zero _
  simp only [State.rawRead, hst, hxor, ne_eq, not_true_eq_false, if_false, State.wrs_cons, State.wrs_nil]

/-- R338: RAW_PROGRAM in the test modes programs, or leaves the word erased where it gives the pattern of an erased word. -/
theorem State.rawProgram_accepted (h : s.PortPrograms obj k) : ∃ t, s.rawProgram obj k = t.storeDone obj 9 0 ∧
    (t.mem = (s.cwProgram k s.pbuf).mem ∨ s.pbuf = [0, 0, 0, 0] ∧ t = s.cwErase k (k + 1)) := by
  have hst : s.rawRefused obj true k = 0 := by
    simp only [State.rawRefused, State.storeBusy_free hfree, htest, h.checks, Bool.false_eq_true, if_false, if_true, Bool.not_true]
  simp only [State.rawProgram, hst, ne_eq, not_true_eq_false, if_false]
  refine ⟨_, rfl, ?_⟩
  split
  · next hblank => exact .inr ⟨hblank.1, rfl⟩
  · exact .inl rfl

end

end

/-! ### What the commands show and what stands -/

section
variable {s : State} {obj : Bool} {k : Nat} (hport : obj = true ∨ s.regOpen 0 STO.CMD_OP.addr = true) (hk : k < 2097152) (hfree : s.StoreFree)
include hport hk hfree

/-- R326: what READ_MARGIN of a correctable word shows. -/
theorem exec_readMargin_correctable (hreads : s.PortReads obj k) {e : Nat} (he : s.cwErrors k e ≤ 3) (margin : Nat) :
    ∃ t, exec (.readMargin obj k margin e) s = .next t ∧ t.mem = s.mem ∧ t.store = s.store ∧
      (∀ j, j < 4 → t.rd (STO.RBUF_LO_LO j) = bits ((s.cwWords k).getD j 0) 0 64 ∧ t.rd (STO.RBUF_HI_HI j) = bits ((s.cwWords k).getD j 0) 64 8) ∧
      t.rd STO.RRES_CORR = s.cwErrors k e ∧ t.rd STO.RRES_UNCORR = 0 ∧ t.rd STO.EVT_DONE = 1 ∧
      (obj = false → t.rd STO.CMD_STATUS_STATUS = (if s.torn (sectorOf k) then 8 else 0) ∧ t.rd STO.CMD_STATUS_PEND = 0) := by
  obtain ⟨blank, heq⟩ := State.readMargin_correctable hfree hreads he (margin % 4)
  have hst : (if s.torn (sectorOf k) then 8 else 0) < 2 ^ 8 := by split <;> decide
  have hn : (rresFields.map Fld.key).Nodup := by decide
  have hapart : ∀ f ∈ rresFields, f.key ∉ storeDoneFields.map Fld.key := by decide
  let l := [(STO.RRES_CORR, s.cwErrors k e), (STO.RRES_BLANK, blank), (STO.RRES_TORN, b2n (s.torn (sectorOf k))), (STO.RRES_UNCORR, 0)]
  have hread := s.onlyRegs_setRbuf (s.cwWords k) l
  have hcompleted := ((s.setRbuf (s.cwWords k)).wrs l).storeCompleted_storeDone obj 1 hst
  refine ⟨_, (exec_readMargin_judged hport hk margin e).trans (congrArg Host.Outcome.next heq), hcompleted.only.mem.trans hread.mem,
    hcompleted.only.store.trans hread.store, fun j hj => s.rd_rbuf_storeDone _ (l := l) (.head _) obj 1 _ hj, ?_, ?_, hcompleted.done,
    fun hobj => ⟨hcompleted.status hobj, hcompleted.pend hobj⟩⟩
  · rw [hcompleted.only.2 _ (hapart _ (by decide))]
    exact State.rd_wrs_entry _ hn rfl (by simp [l]) (Nat.lt_succ_of_le he)
  · rw [hcompleted.only.2 _ (hapart _ (by decide))]
    exact State.rd_wrs_entry _ hn rfl (by simp [l]) (by decide)

/-- R338: outside the test modes the raw commands are refused. -/
theorem exec_raw_closed (htest : s.flag LC.STATE_TEST_MODES = false) (flip : Nat) {c : Instr}
    (hc : c ∈ [.rawRead obj k flip, .rawProgram obj k]) : ∃ op, exec c s = .next (s.storeRefuse obj op 3) := by
  have hst := State.rawRefused_closed (obj := obj) (k := k) hfree htest
  simp only [List.mem_cons, List.not_mem_nil, or_false] at hc
  rcases hc with rfl | rfl
  · exact ⟨8, (exec_rawRead_judged hport hk flip).trans (by simp [State.rawRead, hst])⟩
  · exact ⟨9, (exec_rawProgram_judged hport hk).trans (by simp [State.rawProgram, hst])⟩

/-- R338: what RAW_READ in the test modes shows. -/
theorem exec_rawRead_accepted (htest : s.flag LC.STATE_TEST_MODES = true) (hreads : s.PortReads obj k) (hcw : s.cwState k ≠ 2) :
    ∃ t, exec (.rawRead obj k 0) s = .next t ∧ t.mem = s.mem ∧ t.rd STO.EVT_DONE = 1 ∧
      ∀ j, j < 4 → t.rd (STO.RBUF_LO_LO j) = bits (s.readWord (cwAddr k + 16 * j)) 0 64 := by
  let ws := (List.range 4).map fun i => bits (s.cwPhysical k) (72 * i) 72
  let l := [(STO.RBUF_CHK_CHK, bits (s.cwPhysical k) 288 32)]
  have hcompleted := ((s.setRbuf ws).wrs l).storeCompleted_storeDone obj 8 (st := 0) (by decide)
  refine ⟨_, (exec_rawRead_judged hport hk 0).trans (congrArg Host.Outcome.next (State.rawRead_accepted hfree htest hreads)),
    hcompleted.only.mem.trans (s.onlyRegs_setRbuf ws l).mem, hcompleted.done, fun j hj => ?_⟩
  have hword : ws.getD j 0 = s.readWord (cwAddr k + 16 * j) := by
    rw [← State.bits_cwPhysical hcw hj]
    simp [ws, hj]
  rw [← hword]
  exact (s.rd_rbuf_storeDone ws (l := l) (.tail _ (.head _)) obj 8 0 hj).1

/-- R338: what RAW_PROGRAM in the test modes leaves. -/
theorem exec_rawProgram_accepted (htest : s.flag LC.STATE_TEST_MODES = true) (hprog : s.PortPrograms obj k) :
    ∃ t, exec (.rawProgram obj k) s = .next t ∧ t.rd STO.EVT_DONE = 1 ∧
      (∀ j, j < 4 → t.readWord (cwAddr k + 16 * j) = s.pbuf.getD j 0 % 2 ^ 72) ∧
      ∀ a, a < cwAddr k ∨ cwAddr (k + 1) ≤ a → t.readByte a = s.readByte a := by
  obtain ⟨u, heq, hu⟩ := State.rawProgram_accepted hfree htest hprog
  have hcompleted := u.storeCompleted_storeDone obj 9 (st := 0) (by decide)
  refine ⟨_, (exec_rawProgram_judged hport hk).trans (congrArg Host.Outcome.next heq), hcompleted.done, fun j hj => ?_, fun a ha => ?_⟩
  · rw [State.readWord_mem hcompleted.only.mem]
    rcases hu with hmem | ⟨hblank, rfl⟩
    · rw [State.readWord_mem hmem, s.readWord_cwProgram k _ hj]
    · have hzero : ([0, 0, 0, 0] : List Nat).getD j 0 = 0 := by interval_cases j <;> rfl
      rw [hblank, hzero, s.readWord_cwErase_in (by unfold cwAddr; omega), Nat.zero_mod]
  · rw [State.readByte_mem hcompleted.only.mem]
    rcases hu with hmem | ⟨-, rfl⟩
    · rw [State.readByte_mem hmem, s.readByte_cwProgram_out k _ ha]
    · exact s.readByte_cwErase_out ha

end

/-- R327: what the end of a program leaves. -/
theorem exec_programDone_ends {s : State} {obj : Bool} {k : Nat} {ws : List Nat} (hop : s.store.op = some (.program obj k ws))
    (hwait : s.store.waiting = []) (res : Nat) : ∃ t, exec (.programDone res []) s = .next t ∧ t.store.op = none ∧ t.rd STO.STATUS_BUSY = 0 ∧
      t.rd STO.EVT_DONE = 1 ∧ (∀ j, j < 4 → t.readWord (cwAddr k + 16 * j) = ws.getD j 0 % 2 ^ 72) ∧
      t.cwState k = (if res = 2 then 2 else 1) ∧ (∀ a, a < cwAddr k ∨ cwAddr (k + 1) ≤ a → t.readByte a = s.readByte a) ∧
      (obj = false → t.rd STO.CMD_STATUS_PEND = 0 ∧ t.rd STO.CMD_STATUS_STATUS = if res = 0 then 0 else 6) := by
  let u := if res = 2 then (s.cwProgram k ws).cwSpoil k else s.cwProgram k ws
  have hstep : s.JournalStep u := by
    unfold u
    split
    · exact (s.journalStep_cwProgram k ws).trans (State.journalStep_cwSpoil ..)
    · exact s.journalStep_cwProgram k ws
  have hmem : u.mem = (s.cwProgram k ws).mem := by unfold u; split <;> rfl
  have hcw : u.cwState k = if res = 2 then 2 else 1 := by unfold u; split <;> simp
  have hst : (if res = 0 then 0 else 6) < 2 ^ 8 := by split <;> decide
  have hended := State.storeEnded (hstep.waiting.trans hwait) obj 2 hst
  refine ⟨_, ?_, hended.op, hended.busy, hended.done, fun j hj => ?_, ?_, fun a ha => ?_, fun hobj => ⟨hended.pend hobj, hended.status hobj⟩⟩
  · simp only [exec, execProgramDone, hop]
    rfl
  · rw [State.readWord_mem (hended.mem.trans hmem), s.readWord_cwProgram k ws hj]
  · rw [State.cwState, hended.cw, ← State.cwState, hcw]
  · rw [State.readByte_mem (hended.mem.trans hmem), s.readByte_cwProgram_out k ws ha]

section
variable {s : State} {obj : Bool} {x q : Nat} (hop : s.store.op = some (.erase obj x q)) (hwait : s.store.waiting = [])
include hop hwait

/-- R334 steps 3 and 4: an erase that verifies. -/
theorem exec_eraseDone_verified (hx : 2 ≤ x) (hdue : s.rolloverDue = false) : ∃ t, exec (.eraseDone [] []) s = .next t ∧ t.store.op = none ∧
    t.rd STO.STATUS_BUSY = 0 ∧ t.torn x = false ∧ (∀ a, cwAddr (4096 * x) ≤ a → a < cwAddr (4096 * x + 4096) → t.readByte a = 0) ∧
    (obj = false → t.rd STO.CMD_STATUS_STATUS = 0) := by
  let v := s.cwErase (4096 * x) (4096 * x + 4096)
  let u := (v.journal [entryWord 2 x q]).setTorn x false
  have hu : u.store.waiting = [] := by rw [State.setTorn_store, (v.journalStep_journal _).waiting, (s.journalStep_cwErase _ _).waiting, hwait]
  have hended := State.storeEnded hu obj 3 (st := 0) (by decide)
  refine ⟨_, ?_, hended.op, hended.busy, ?_, fun a hlo hhi => ?_, hended.status⟩
  · simp only [exec, execEraseDone, hop]
    rfl
  · rw [hended.torn]
    exact State.torn_setTorn_self ..
  · have hout : cwAddr 8192 ≤ a := Nat.le_trans (by unfold cwAddr; omega) hlo
    calc
      _ = (v.journal [entryWord 2 x q]).readByte a := State.readByte_mem (hended.mem.trans (State.setTorn_mem ..)) a
      _ = v.readByte a := State.readByte_journal_out (State.rolloverDue_cwErase hdue _ _) _ (.inr hout)
      _ = 0 := s.readByte_cwErase_in ⟨hlo, hhi⟩

/-- R334 step 5: an erase of which a code word does not verify. -/
theorem exec_eraseDone_fails (k : Nat) : ∃ t, exec (.eraseDone [k] []) s = .next t ∧ t.store.op = none ∧ t.torn x = true ∧
    t.cwState (4096 * x + k % 4096) = 2 ∧ (obj = false → t.rd STO.CMD_STATUS_STATUS = 6) := by
  let u := ((s.cwErase (4096 * x) (4096 * x + 4096)).cwSpoil (4096 * x + k % 4096)).setTorn x true
  have hu : u.store.waiting = [] := hwait
  have hended := State.storeEnded hu obj 3 (st := 6) (by decide)
  refine ⟨_, ?_, hended.op, ?_, ?_, hended.status⟩
  · simp only [exec, execEraseDone, hop]
    rfl
  · rw [hended.torn]
    exact State.torn_setTorn_self ..
  · rw [State.cwState, hended.cw]
    exact State.cwState_cwSpoil ..

end

/-- R334 step 1: what the start of an erase leaves. -/
theorem exec_erase_starts {s : State} {obj : Bool} {x : Nat} (hport : obj = true ∨ s.regOpen 0 STO.CMD_OP.addr = true) (hx : x < 512)
    (hfree : s.StoreFree) (hlo : (if obj then 2 else 8) ≤ x) (hxo : s.sectorXo x = false ∨ obj = true) :
    ∃ t, exec (.erase obj x) s = .next t ∧ t.store.op = some (.erase obj x (s.rd STO.JSEQ_SEQ)) ∧ t.rd STO.STATUS_BUSY = 1 ∧
      t.rd STO.JSEQ_SEQ = (s.rd STO.JSEQ_SEQ + 1) % 2 ^ STO.JSEQ_SEQ.width ∧
      ∀ a, a < cwAddr 4096 ∨ cwAddr 8192 ≤ a → t.readByte a = s.readByte a := by
  have hstarted := State.storeStarted_storeStart ((s.journal [entryWord 1 x (s.rd STO.JSEQ_SEQ)]).wr STO.JSEQ_SEQ (s.rd STO.JSEQ_SEQ + 1)) obj 3
    (.erase obj x (s.rd STO.JSEQ_SEQ))
  refine ⟨_, (exec_erase_judged hport x).trans (congrArg Host.Outcome.next (State.storeErase_starts hfree hx hlo hxo)), hstarted.op,
    hstarted.busy, ?_, fun a ha => ?_⟩
  · rw [hstarted.rd _ (by decide), State.rd_wr_self]
  · rw [State.readByte_mem hstarted.mem, State.readByte_wr, State.readByte_journal_out hfree.2.2 _ ha]

/-- Settles O33, command by command: refusals by what they leave, the others by the checks they pass and what their end shows. -/
theorem storeCommands : Obligations.StoreCommands := by
  unfold Obligations.StoreCommands
  refine ⟨fun s obj k e c hport hbusy hc => ?busy, fun s obj k margin e hport hk hfree hreads he => ?readMargin,
    fun s obj k hport hk hfree htorn hprog => ⟨fun hcw => ?program, fun hcw => ?twice⟩, fun s obj k res ws hop hwait => ?programDone,
    fun s obj x hport hx hfree hlo hxo => ?erase, fun s obj x q hop hx _ hwait hdue => ⟨?verified, fun k => ?fails⟩,
    fun s obj k flip hport hk hfree htest c hc => ?closed,
    fun s obj k hport hk hfree htest => ⟨fun hreads hcw => ?rawRead, fun hprog => ?rawProgram⟩⟩
  case busy =>
    obtain ⟨op, hexec⟩ := exec_store_busy hport (State.storeBusy_running hbusy) e hc
    obtain ⟨hstore, hmem, hown, hstatus, hcount⟩ := s.storeRefused_storeRefuse obj op (st := 1) (by decide)
    exact ⟨_, hexec, hstore, hmem, hown, fun hobj => ⟨hstatus hobj, hcount hobj⟩⟩
  case readMargin => exact exec_readMargin_correctable hport hk hfree hreads he margin
  case program =>
    obtain ⟨hop, hbusy, hpend, hmem, -⟩ := s.storeStarted_storeStart obj 2 (.program obj k s.pbuf)
    exact ⟨_, (exec_program_judged hport hk 0).trans (congrArg Host.Outcome.next (State.storeProgram_erased hfree htorn hprog hcw)), hop, hbusy,
      hmem, hpend⟩
  case twice =>
    obtain ⟨hstore, hmem, -, hstatus, -⟩ := s.storeRefused_storeRefuse obj 2 (st := 7) (by decide)
    exact ⟨_, (exec_program_judged hport hk 0).trans (congrArg Host.Outcome.next (State.storeProgram_twice hfree htorn hprog hcw)), hstore, hmem,
      hstatus⟩
  case programDone => exact exec_programDone_ends hop hwait res
  case erase => exact exec_erase_starts hport hx hfree hlo hxo
  case verified => exact exec_eraseDone_verified hop hwait hx hdue
  case fails => exact exec_eraseDone_fails hop hwait k
  case closed =>
    obtain ⟨op, hexec⟩ := exec_raw_closed hport hk hfree htest flip hc
    obtain ⟨hstore, hmem, -, hstatus, -⟩ := s.storeRefused_storeRefuse obj op (st := 3) (by decide)
    exact ⟨_, hexec, hstore, hmem, hstatus⟩
  case rawRead => exact exec_rawRead_accepted hport hk hfree htest hreads hcw
  case rawProgram => exact exec_rawProgram_accepted hport hk hfree htest hprog

end Sys2Proof.Machine

namespace Sys2Proof.Machine

/-! ## Every command completes and keeps the canonical form -/

/-- Each meaning answers a next state, canonical where it began canonical, and leaves the queue (Laws/Keeps). -/
theorem exec_runs (i : Instr) (s : State) : Runs s (exec i s) :=
  match i with
  | .registerWrite .. => execRegisterWrite_runs ..
  | .readClear .. => execReadClear_runs ..
  | .requestIssue .. => execRequestIssue_runs ..
  | .rd .. => execRd_runs ..
  | .wr .. => execWr_runs ..
  | .rdp .. => execRdp_runs ..
  | .wrp .. => execWrp_runs ..
  | .rspData .. => execRspData_runs ..
  | .rspAck .. => execRspAck_runs ..
  | .rspErr .. => execRspErr_runs ..
  | .responseTimeout .. => execResponseTimeout_runs ..
  | .linkReplay .. => execLinkReplay_runs ..
  | .recfgClose => execRecfgClose_runs ..
  | .drained .. => execDrained_runs ..
  | .recfgOpen => execRecfgOpen_runs ..
  | .berthGrantWrite .. => execBerthGrantWrite_runs ..
  | .tollClear => execTollClear_runs ..
  | .compatWakeTimeout .. => execCompatWakeTimeout_runs ..
  | .fetch .. => execFetch_runs ..
  | .underrunHold .. => execUnderrunHold_runs ..
  | .scLimit .. => execScLimit_runs ..
  | .resolve .. => execResolve_runs ..
  | .vec .. => execVec_runs ..
  | .vex .. => execVex_runs ..
  | .nop .. => execNop_runs ..
  | .halt .. => execHalt_runs ..
  | .jmp .. => execJmp_runs ..
  | .jcc .. => execJcc_runs ..
  | .call .. => execCall_runs ..
  | .ret .. => execRet_runs ..
  | .loopOpen .. => execLoopOpen_runs ..
  | .loopClose .. => execLoopClose_runs ..
  | .loopDrop .. => execLoopDrop_runs ..
  | .matchWord .. => execMatch_runs ..
  | .matchCountExpiry .. => execMatchCountExpiry_runs ..
  | .matchDrainEnd .. => execMatchDrainEnd_runs ..
  | .waitTime .. => execWaitTime_runs ..
  | .waitCond .. => execWaitCond_runs ..
  | .waitCountExpiry .. => execWaitCountExpiry_runs ..
  | .sync .. => execSync_runs ..
  | .syncRelease .. => execSyncRelease_runs ..
  | .apg .. => execApg_runs ..
  | .mode .. => execMode_runs ..
  | .tset .. => execTset_runs ..
  | .tsetApply .. => execTsetApply_runs ..
  | .event .. => execEvent_runs ..
  | .stream .. => execStream_runs ..
  | .ledgerTag .. => execLedgerTag_runs ..
  | .ledgerAcct .. => execLedgerAcct_runs ..
  | .ledgerMark .. => execLedgerMark_runs ..
  | .ledgerAlloc .. => execLedgerAlloc_runs ..
  | .bond .. => execBond_runs ..
  | .add .. => execAdd_runs ..
  | .sub .. => execSub_runs ..
  | .and .. => execAnd_runs ..
  | .or .. => execOr_runs ..
  | .xor .. => execXor_runs ..
  | .shl .. => execShl_runs ..
  | .shr .. => execShr_runs ..
  | .cmp .. => execCmp_runs ..
  | .movi .. => execMovi_runs ..
  | .brk .. => execBrk_runs ..
  | .tload .. => execTload_runs ..
  | .strmPrime .. => execStrmPrime_runs ..
  | .strmFlush .. => execStrmFlush_runs ..
  | .cvcVoid .. => execCvcVoid_runs ..
  | .cvcFlag .. => execCvcFlag_runs ..
  | .start .. => execStart_runs ..
  | .stop .. => execStop_runs ..
  | .resume .. => execResume_runs ..
  | .step .. => execStep_runs ..
  | .abort .. => execAbort_runs ..
  | .void .. => execVoid_runs ..
  | .prime .. => execPrime_runs ..
  | .flush .. => execFlush_runs ..
  | .nextPcWrite .. => execNextPcWrite_runs ..
  | .evtSet .. => execEvtSet_runs ..
  | .evqRead .. => execEvqRead_runs ..
  | .armDescriptor .. => execArmDescriptor_runs ..
  | .ringWrite .. => execRingWrite_runs ..
  | .psmWrite .. => execPsmWrite_runs ..
  | .streamDmaRefill .. => execStreamDmaRefill_runs ..
  | .celCaravanWrite .. => execCelCaravanWrite_runs ..
  | .gangWrite .. => execGangWrite_runs ..
  | .clockSourceSwitch .. => execClockSourceSwitch_runs ..
  | .apgOwnWrite .. => execApgOwnWrite_runs ..
  | .sgrpWrite .. => execSgrpWrite_runs ..
  | .apgWrite .. => execApgWrite_runs ..
  | .laneEnable .. => execLaneEnable_runs ..
  | .laneDisable .. => execLaneDisable_runs ..
  | .staticDrive .. => execStaticDrive_runs ..
  | .levelSetWrite .. => execLevelSetWrite_runs ..
  | .lsSettled .. => execLsSettled_runs ..
  | .pmuWrite .. => execPmuWrite_runs ..
  | .measGo .. => execMeasGo_runs ..
  | .measDelayExpiry .. => execMeasDelayExpiry_runs ..
  | .conversionDone .. => execConversionDone_runs ..
  | .safeStateDone .. => execSafeStateDone_runs ..
  | .heartbeatLoss .. => execHeartbeatLoss_runs ..
  | .dchkInterval .. => execDchkInterval_runs ..
  | .trimWrite .. => execTrimWrite_runs ..
  | .calLoad => execCalLoad_runs ..
  | .calLoadDone .. => execCalLoadDone_runs ..
  | .timTabWrite .. => execTimTabWrite_runs ..
  | .ofsWrite .. => execOfsWrite_runs ..
  | .pllSet .. => execPllSet_runs ..
  | .pllStep .. => execPllStep_runs ..
  | .rampEnd .. => execRampEnd_runs ..
  | .pllRelock .. => execPllRelock_runs ..
  | .pllOff .. => execPllOff_runs ..
  | .relockGate .. => execRelockGate_runs ..
  | .lockIndicated .. => execLockIndicated_runs ..
  | .relockComplete .. => execRelockComplete_runs ..
  | .relockTimeout .. => execRelockTimeout_runs ..
  | .pllClamp .. => execPllClamp_runs ..
  | .refWindow .. => execRefWindow_runs ..
  | .lockSuspicion .. => execLockSuspicion_runs ..
  | .suspicionClear .. => execSuspicionClear_runs ..
  | .lossOfLock .. => execLossOfLock_runs ..
  | .lockLostGate .. => execLockLostGate_runs ..
  | .chipPllFallback => execChipPllFallback_runs ..
  | .chipPllLock => execChipPllLock_runs ..
  | .usePll => execUsePll_runs ..
  | .fabWrite .. => execFabWrite_runs ..
  | .pwFrame .. => execPwFrame_runs ..
  | .pwComplete .. => execPwComplete_runs ..
  | .arm .. => execArm_runs ..
  | .disarm .. => execDisarm_runs ..
  | .swap .. => execSwap_runs ..
  | .planeSwap .. => execPlaneSwap_runs ..
  | .swapComplete .. => execSwapComplete_runs ..
  | .commit .. => execCommit_runs ..
  | .latchParityError .. => execLatchParityError_runs ..
  | .frameReload .. => execFrameReload_runs ..
  | .fabricPush .. => execFabricPush_runs ..
  | .tapTake .. => execTapTake_runs ..
  | .portBAccess .. => execPortBAccess_runs ..
  | .fabCondition .. => execFabCondition_runs ..
  | .mprWrite .. => execMprWrite_runs ..
  | .ddrTrain .. => execDdrTrain_runs ..
  | .trainingDone .. => execTrainingDone_runs ..
  | .ddrRefresh .. => execDdrRefresh_runs ..
  | .patrolScrub .. => execPatrolScrub_runs ..
  | .ddrTempPoll .. => execDdrTempPoll_runs ..
  | .ddrLinkError .. => execDdrLinkError_runs ..
  | .failQueueRelease .. => execFailQueueRelease_runs ..
  | .mergerTake .. => execMergerTake_runs ..
  | .engineApply .. => execEngineApply_runs ..
  | .lupd .. => execLupd_runs ..
  | .accountUpdate .. => execAccountUpdate_runs ..
  | .drain .. => execDrain_runs ..
  | .drainComplete .. => execDrainComplete_runs ..
  | .alloc .. => execAlloc_runs ..
  | .allocateAccount .. => execAllocateAccount_runs ..
  | .allocationPassEnd .. => execAllocationPassEnd_runs ..
  | .clear .. => execClear_runs ..
  | .scrubBucket .. => execScrubBucket_runs ..
  | .scrubPassEnd .. => execScrubPassEnd_runs ..
  | .ldgFlush .. => execLdgFlush_runs ..
  | .ldgFlushDone .. => execLdgFlushDone_runs ..
  | .lookup .. => execLookup_runs ..
  | .lookupDone .. => execLookupDone_runs ..
  | .digest .. => execDigest_runs ..
  | .digestDone .. => execDigestDone_runs ..
  | .spillHeadWrite .. => execSpillHeadWrite_runs ..
  | .ldgCtrlWrite .. => execLdgCtrlWrite_runs ..
  | .readMargin .. => execReadMargin_runs ..
  | .program .. => execProgram_runs ..
  | .programDone .. => execProgramDone_runs ..
  | .erase .. => execErase_runs ..
  | .eraseDone .. => execEraseDone_runs ..
  | .rawRead .. => execRawRead_runs ..
  | .rawProgram .. => execRawProgram_runs ..
  | .journalRollover => execJournalRollover_runs ..
  | .rolloverPeriodEnd .. => execRolloverPeriodEnd_runs ..
  | .getIdentityRead .. => execGetIdentityRead_runs ..
  | .generate .. => execGenerate_runs ..
  | .setCert .. => execSetCert_runs ..
  | .installManifest .. => execInstallManifest_runs ..
  | .installDone .. => execInstallDone_runs ..
  | .openBonded .. => execOpenBonded_runs ..
  | .closeBonded .. => execCloseBonded_runs ..
  | .issueSeal .. => execIssueSeal_runs ..
  | .sealWrite .. => execSealWrite_runs ..
  | .lcRequest .. => execLcRequest_runs ..
  | .rollForward .. => execRollForward_runs ..
  | .nonce .. => execNonce_runs ..
  | .debugAuth .. => execDebugAuth_runs ..
  | .addOwner .. => execAddOwner_runs ..
  | .removeOwner .. => execRemoveOwner_runs ..
  | .addFleet .. => execAddFleet_runs ..
  | .removeFleet .. => execRemoveFleet_runs ..
  | .katStatus .. => execKatStatus_runs ..
  | .katRerun .. => execKatRerun_runs ..
  | .zeroise .. => execZeroise_runs ..
  | .zeroiseAll .. => execZeroiseAll_runs ..
  | .selfTestComplete .. => execSelfTestComplete_runs ..
  | .selfTestFailure => execSelfTestFailure_runs ..
  | .freezePin => execFreezePin_runs ..
  | .freezeRegister => execFreezeRegister_runs ..
  | .freezeEntered .. => execFreezeEntered_runs ..
  | .thaw => execThaw_runs ..
  | .readout .. => execReadout_runs ..
  | .dbgacc .. => execDbgacc_runs ..
  | .scan => execScan_runs ..
  | .tapReset => execTapReset_runs ..
  | .setLevel .. => execSetLevel_runs ..
  | .levelPllLock => execLevelPllLock_runs ..
  | .levelTimeout => execLevelTimeout_runs ..
  | .pmbusDone .. => execPmbusDone_runs ..
  | .powerOff .. => execPowerOff_runs ..
  | .powerOn .. => execPowerOn_runs ..
  | .powerOnDone => execPowerOnDone_runs ..
  | .sleepCancel => execSleepCancel_runs ..
  | .sleepIdle => execSleepIdle_runs ..
  | .sleepDoze => execSleepDoze_runs ..
  | .sleepDormant => execSleepDormant_runs ..
  | .autoSleep => execAutoSleep_runs ..
  | .quiesceDone => execQuiesceDone_runs ..
  | .clocksStopped => execClocksStopped_runs ..
  | .saveDone => execSaveDone_runs ..
  | .isolate => execIsolate_runs ..
  | .wake .. => execWake_runs ..
  | .otimerExpiry => execOtimerExpiry_runs ..
  | .wakeRestore => execWakeRestore_runs ..
  | .idleExit => execIdleExit_runs ..
  | .legacyWakeRequest .. => execLegacyWakeRequest_runs ..
  | .blockAutoOff .. => execBlockAutoOff_runs ..
  | .sourceInput .. => execSourceInput_runs ..
  | .setPend .. => execSetPend_runs ..
  | .clrPend .. => execClrPend_runs ..
  | .doorbell .. => execDoorbell_runs ..
  | .srcConfigWrite .. => execSrcConfigWrite_runs ..
  | .delivery .. => execDelivery_runs ..
  | .acknowledge .. => execAcknowledge_runs ..
  | .recall .. => execRecall_runs ..
  | .holdoffExpiry .. => execHoldoffExpiry_runs ..
  | .eoi .. => execEoi_runs ..
  | .hostEoi .. => execHostEoi_runs ..
  | .msixSend .. => execMsixSend_runs ..
  | .mret .. => execMret_runs ..
  | .wfi .. => execWfi_runs ..
  | .stewardException .. => execStewardException_runs ..
  | .hostRead .. => execHostRead_runs ..
  | .hostWrite .. => execHostWrite_runs ..
  | .perstAssert .. => execPerstAssert_runs ..
  | .perstDeassert => execPerstDeassert_runs ..
  | .d3hot .. => execD3hot_runs ..
  | .linkDown .. => execLinkDown_runs ..
  | .dmaStart .. => execDmaStart_runs ..
  | .dmaStop .. => execDmaStop_runs ..
  | .descriptorDone .. => execDescriptorDone_runs ..
  | .convoyFrame .. => execConvoyFrame_runs ..
  | .convoyStart => execConvoyStart_runs ..
  | .convoyStop => execConvoyStop_runs ..
  | .convoyAlign .. => execConvoyAlign_runs ..
  | .convoySync => execConvoySync_runs ..
  | .convoyFreeze => execConvoyFreeze_runs ..
  | .txStart => execTxStart_runs ..
  | .txStop => execTxStop_runs ..
  | .txAlign => execTxAlign_runs ..
  | .txSync => execTxSync_runs ..
  | .txFreeze => execTxFreeze_runs ..
  | .txWake => execTxWake_runs ..
  | .autoSync => execAutoSync_runs ..
  | .convoyWakePattern .. => execConvoyWakePattern_runs ..
  | .symbolLockLoss => execSymbolLockLoss_runs ..
  | .cvyCfgWrite .. => execCvyCfgWrite_runs ..
  | .funcWrite .. => execFuncWrite_runs ..
  | .funcHoldEnd .. => execFuncHoldEnd_runs ..
  | .outSet .. => execOutSet_runs ..
  | .outClr .. => execOutClr_runs ..
  | .patternMatch .. => execPatternMatch_runs ..
  | .sot => execSot_runs ..
  | .eot => execEot_runs ..
  | .binSetupEnd => execBinSetupEnd_runs ..
  | .strobeEnd => execStrobeEnd_runs ..
  | .rdyTimeout => execRdyTimeout_runs ..
  | .pmbAlert => execPmbAlert_runs ..
  | .serialGo .. => execSerialGo_runs ..
  | .transferEnd .. => execTransferEnd_runs ..
  | .uartRx .. => execUartRx_runs ..
  | .timerPeriodEnd .. => execTimerPeriodEnd_runs ..
  | .capture .. => execCapture_runs ..
  | .checkPoint .. => execCheckPoint_runs ..
  | .shadowMismatch .. => execShadowMismatch_runs ..
  | .fioWindow .. => execFioWindow_runs ..
  | .supplyExcursion .. => execSupplyExcursion_runs ..
  | .tempSample .. => execTempSample_runs ..
  | .lockstepMismatch .. => execLockstepMismatch_runs ..
  | .faultReport .. => execFaultReport_runs ..
  | .containmentHalt .. => execContainmentHalt_runs ..
  | .containmentConfirm .. => execContainmentConfirm_runs ..
  | .escalation .. => execEscalation_runs ..
  | .faultInject .. => execFaultInject_runs ..
  | .logPop => execLogPop_runs ..
  | .stewardRestart .. => execStewardRestart_runs ..
  | .sliceGo .. => execSliceGo_runs ..
  | .sliceStep .. => execSliceStep_runs ..
  | .sliceComplete .. => execSliceComplete_runs ..
  | .sliceOvertime => execSliceOvertime_runs ..
  | .schedulerOffer => execSchedulerOffer_runs ..
  | .ageLate .. => execAgeLate_runs ..
  | .powerOnReset .. => execPowerOnReset_runs ..
  | .pwrOkRelease => execPwrOkRelease_runs ..
  | .pwrOkFall .. => execPwrOkFall_runs ..
  | .resetN => execResetN_runs ..
  | .chipReset .. => execChipReset_runs ..
  | .deviceReset .. => execDeviceReset_runs ..
  | .symbolLock => execSymbolLock_runs ..
  | .linkUp .. => execLinkUp_runs ..
  | .d3hotExit => execD3hotExit_runs ..
  | .msixUnmask .. => execMsixUnmask_runs ..
  | .debugHalt .. => execDebugHalt_runs ..
  | .debugResume .. => execDebugResume_runs ..
  | .powerLoss .. => execPowerLoss_runs ..
  | .uiStale .. => execUiStale_runs ..
  | .recoveryEraseDone .. => execRecoveryEraseDone_runs ..

theorem step_queue {c : Instr} {q : List Instr} (s : State) : step { s with pending := c :: q } = exec c { s with pending := q } := rfl

theorem step_idle {s : State} (h : s.pending = []) : step s = .next s := by
  rw [step, h]

theorem step_cons {s : State} {c : Instr} {q : List Instr} (h : s.pending = c :: q) : step s = exec c { s with pending := q } := by
  rw [step, h]

/-- The canonical form does not speak of the queue. -/
theorem State.Canonical.withQueue {s : State} (h : s.Canonical) (q : List Instr) : { s with pending := q }.Canonical :=
  ⟨h.regs, h.mem, h.ecc, h.rawChk, h.cells, h.runs, h.blocks, h.regions, h.stewards, h.srcs, h.esum⟩

/-- Settles O3: the command at the front keeps the canonical form, whichever it is. -/
theorem stepKeepsCanonicalForm : Obligations.StepKeepsCanonicalForm := by
  intro s s' hs hstep
  cases hq : s.pending with
  | nil =>
    obtain rfl := Host.Outcome.next.inj ((step_idle hq).symm.trans hstep)
    exact hs
  | cons c q =>
    obtain ⟨t, ht, hkeeps, -⟩ := exec_runs c { s with pending := q }
    obtain rfl := Host.Outcome.next.inj (ht.symm.trans ((step_cons hq).symm.trans hstep))
    exact hkeeps (hs.withQueue q)

/-- Settles O2: the two halves of `exec_runs` that the statement speaks of. -/
theorem everyCommandCompletes : Obligations.EveryCommandCompletes := fun i s =>
  have ⟨t, ht, _, hq⟩ := exec_runs i s
  ⟨t, ht, hq⟩

/-- Settles O1, by the two cases of `step`. -/
theorem stepRunsFrontCommand : Obligations.StepRunsFrontCommand := ⟨fun _ _ s => step_queue s, fun _ h => step_idle h⟩

/-- Settles O4: every table of the reset state is empty. -/
theorem resetIsCanonical : Obligations.ResetIsCanonical := ⟨⟨rfl, rfl, rfl, rfl, rfl, rfl, rfl, rfl, rfl, rfl, rfl⟩, rfl⟩

end Sys2Proof.Machine

namespace Sys2Proof.Machine

/-! ## Sources, choices and stewards: what each operation leaves alone (R423 to R438) -/

section
variable (s : State) (n : Nat) (g : SrcX → SrcX) (f : Fld)

@[simp] theorem State.src_modSrc_self : (s.modSrc n g).src n = g (s.src n) := Tab.get_set_self ..
@[simp] theorem State.rd_modSrc : (s.modSrc n g).rd f = s.rd f := rfl
@[simp] theorem State.flag_modSrc : (s.modSrc n g).flag f = s.flag f := rfl
@[simp] theorem State.modSrc_mem : (s.modSrc n g).mem = s.mem := rfl
@[simp] theorem State.modSrc_pulses : (s.modSrc n g).pulses = s.pulses := rfl
@[simp] theorem State.modSrc_choices : (s.modSrc n g).evc.choices = s.evc.choices := rfl
@[simp] theorem State.edgeSense_modSrc (k : Nat) : (s.modSrc n g).edgeSense k = s.edgeSense k := rfl
@[simp] theorem State.src_wr (v k : Nat) : (s.wr f v).src k = s.src k := rfl
@[simp] theorem State.src_wrs (l : List (Fld × Nat)) (k : Nat) : (s.wrs l).src k = s.src k := by
  rw [(onlyRegs_wrs s l).1]; rfl

end

section
variable (s : State) (p : Choice → Bool)

@[simp] theorem State.recall_choices : (s.recall p).evc.choices = s.evc.choices.filter fun e => !p e := rfl
@[simp] theorem State.recall_srcs : (s.recall p).evc.srcs = s.evc.srcs := rfl
@[simp] theorem State.src_recall (n : Nat) : (s.recall p).src n = s.src n := rfl
@[simp] theorem State.recall_stewards : (s.recall p).stewards = s.stewards := rfl
@[simp] theorem State.steward_recall (w : Nat) : (s.recall p).steward w = s.steward w := rfl
@[simp] theorem State.recall_mem : (s.recall p).mem = s.mem := rfl
@[simp] theorem State.recall_pulses : (s.recall p).pulses = s.pulses := rfl
@[simp] theorem State.recall_faultQ : (s.recall p).faultQ = s.faultQ := rfl

/-- R430: a recall counts in RECALLS alone. -/
theorem State.rd_recall {f : Fld} (h : f.key ≠ EVC.RECALLS_COUNT.key) : (s.recall p).rd f = s.rd f :=
  State.rd_wr_ne _ _ h.symm

@[simp] theorem State.edgeSense_recall (n : Nat) : (s.recall p).edgeSense n = s.edgeSense n := by
  rw [State.edgeSense, State.rd_recall _ _ (by simp only [Fld.key]; omega), State.edgeSense]

end

/-- R430: a revalidation is a recall. -/
theorem State.revalidate_eq (s : State) : s.revalidate = s.recall fun e => !s.choiceValid e := rfl

@[simp] theorem State.revalidate_srcs (s : State) : s.revalidate.evc.srcs = s.evc.srcs := rfl
@[simp] theorem State.src_revalidate (s : State) (n : Nat) : s.revalidate.src n = s.src n := rfl
@[simp] theorem State.steward_revalidate (s : State) (w : Nat) : s.revalidate.steward w = s.steward w := rfl
@[simp] theorem State.revalidate_mem (s : State) : s.revalidate.mem = s.mem := rfl
@[simp] theorem State.revalidate_pulses (s : State) : s.revalidate.pulses = s.pulses := rfl
@[simp] theorem State.revalidate_faultQ (s : State) : s.revalidate.faultQ = s.faultQ := rfl
theorem State.rd_revalidate (s : State) {f : Fld} (h : f.key ≠ EVC.RECALLS_COUNT.key) : s.revalidate.rd f = s.rd f :=
  s.rd_recall _ h

section
variable (s : State) (w : Nat) (g : Steward → Steward)

@[simp] theorem State.steward_modSteward_self : (s.modSteward w g).steward w = g (s.steward w) := Tab.get_set_self ..
theorem State.steward_modSteward_ne {v : Nat} (h : w ≠ v) : (s.modSteward w g).steward v = s.steward v := Tab.get_set_ne _ _ _ h
@[simp] theorem State.rd_modSteward (f : Fld) : (s.modSteward w g).rd f = s.rd f := rfl
@[simp] theorem State.flag_modSteward (f : Fld) : (s.modSteward w g).flag f = s.flag f := rfl
@[simp] theorem State.src_modSteward (n : Nat) : (s.modSteward w g).src n = s.src n := rfl
@[simp] theorem State.modSteward_mem : (s.modSteward w g).mem = s.mem := rfl
@[simp] theorem State.modSteward_evc : (s.modSteward w g).evc = s.evc := rfl
@[simp] theorem State.modSteward_faultQ : (s.modSteward w g).faultQ = s.faultQ := rfl
@[simp] theorem State.steward_wrs (l : List (Fld × Nat)) (k : Nat) : (s.wrs l).steward k = s.steward k := by
  rw [(onlyRegs_wrs s l).1]; rfl

end

/-! ### Pending to the host or to a level (R426, R437) -/

theorem State.hostTry_off {s : State} {n : Nat} (h : s.flag (EVC.SRC_CFG_HOST n) = false) : s.hostTry n = s := by
  simp [State.hostTry, h]

/-- R437: what the host path does is in the record of the source. -/
theorem State.hostTry_modSrc (s : State) (n : Nat) : ∃ g : SrcX → SrcX, (∀ x, (g x).active = x.active ∧ (g x).lat = x.lat) ∧
    (s.hostTry n = s ∨ s.hostTry n = s.modSrc n g) := by
  unfold State.hostTry
  extract_lets x
  split
  · exact ⟨id, fun _ => ⟨rfl, rfl⟩, .inl rfl⟩
  · split
    · exact ⟨fun x => { x with hwait := true }, fun _ => ⟨rfl, rfl⟩, .inr rfl⟩
    · exact ⟨fun x => { x with hpend := true, hsend := true, hwait := false, hcount := 0, hhold := s.startsHold n },
        fun _ => ⟨rfl, rfl⟩, .inr rfl⟩

theorem State.levelTry_edge {s : State} {n : Nat} (h : s.edgeSense n = true) (was : Bool) : s.levelTry n was = s := by
  simp [State.levelTry, h]

theorem State.rd_levelTry (s : State) (n : Nat) (was : Bool) (f : Fld) : (s.levelTry n was).rd f = s.rd f := by
  obtain ⟨g, -, h | h⟩ := s.hostTry_modSrc n <;> simp only [State.levelTry, h] <;> split <;> simp

/-- R426: a firing of a source without host delivery. -/
theorem State.fire_plain {s : State} {n : Nat} (h : s.flag (EVC.SRC_CFG_HOST n) = false) : s.fire n =
    s.modSrc n fun x => { x with lat := true, count := satAdd 16 x.count 1, hcount := satAdd 16 x.hcount 1 } :=
  State.hostTry_off h

/-! ### Inputs and requests (R424 to R426) -/

theorem State.ringDoorbells_eq (s : State) (v : Nat) :
    s.ringDoorbells v = { s with pulses := s.pulses ++ (onesBelow v 4).map fun d => 1192 + d } := by
  unfold State.ringDoorbells
  induction onesBelow v 4 generalizing s with
  | nil => simp
  | cons d ds ih => rw [List.foldl_cons, ih]; simp [State.pulse]

/-- R426: the rising half of a pulse fires a rising-edge source, the falling half does nothing. -/
theorem State.setInput_pulse {s : State} {n : Nat} (hin : (s.src n).inp = false) (hsense : s.rd (EVC.SRC_CFG_SENSE n) = 2)
    (hen : s.flag (EVC.SRC_CFG_EN n) = true) (hhost : s.flag (EVC.SRC_CFG_HOST n) = false) :
    (((s.setInput n true).setInput n false).src n).lat = true ∧ (((s.setInput n true).setInput n false).src n).inp = false ∧
      ((s.setInput n true).setInput n false).pulses = s.pulses := by
  have hup : s.setInput n true = (s.modSrc n fun x => { x with inp := true }).modSrc n fun x =>
      { x with lat := true, count := satAdd 16 x.count 1, hcount := satAdd 16 x.hcount 1 } := by
    simp [State.setInput, hin, State.edgeSense, hsense, hen, State.fire_plain, hhost]
  rw [hup]
  generalize ht : (s.modSrc n fun x => { x with inp := true }).modSrc n (fun x =>
    { x with lat := true, count := satAdd 16 x.count 1, hcount := satAdd 16 x.hcount 1 }) = t
  have hs : t.rd (EVC.SRC_CFG_SENSE n) = 2 := by rw [← ht]; simpa using hsense
  have hi : (t.src n).inp = true := by rw [← ht]; simp
  have hl : (t.src n).lat = true := by rw [← ht]; simp
  have hdown : t.setInput n false = t.modSrc n fun x => { x with inp := false } := by
    simp [State.setInput, hi, State.edgeSense, hs]
  rw [hdown]
  refine ⟨by simpa using hl, by simp, ?_⟩
  rw [← ht]; rfl

/-- Settles O43: each command by the equation of its operation on a source of the given kind. -/
theorem eventSourceCommands : Obligations.EventSourceCommands := by
  refine ⟨fun s n hn ho hen => ?_, fun s n hn ho hen hedge hhost => ?_, fun s n hn ho hedge => ?_, fun s v ho => ?_,
    fun s n hn hsleep hp hin hsense hen hhost => ?_, fun s n hf => ?_⟩
  · show Host.Outcome.next (s.atReg 0 EVC.SET_PEND_SRC.addr fun s => s.setPend (n % 2048)) = _
    rw [State.atReg_open _ ho, Nat.mod_eq_of_lt hn, State.setPend, hen]
    rfl
  · show Host.Outcome.next (s.atReg 0 EVC.SET_PEND_SRC.addr fun s => s.setPend (n % 2048)) = _
    rw [State.atReg_open _ ho, Nat.mod_eq_of_lt hn, State.setPend, hen, hedge, State.fire_plain hhost]
    rfl
  · refine ⟨(s.atReg 0 EVC.CLR_PEND_SRC.addr fun s => s.clrPend (n % 2048)), rfl, ?_⟩
    rw [State.atReg_open _ ho, Nat.mod_eq_of_lt hn, State.clrPend, State.levelTry_edge (by simpa using hedge)]
    exact ⟨by simp, rfl⟩
  · show Host.Outcome.next (s.atReg 0 EVC.DOORBELL_RING.addr fun s => s.ringDoorbells v) = _
    rw [State.atReg_open _ ho, State.ringDoorbells_eq]
  · have hx : exec (.sourceInput n false) s =
        .next ((({ s with pulses := s.pulses.erase n } : State).setInput n true).setInput n false).revalidate := by
      show execSourceInput n false s = _
      have : ¬ (2048 ≤ n ∨ 2 ≤ s.power.sleep) := by omega
      simp [execSourceInput, this, hp]
    obtain ⟨hlat, hinp, hpulses⟩ := State.setInput_pulse (s := { s with pulses := s.pulses.erase n }) hin hsense hen hhost
    exact ⟨_, hx, hlat, hinp, hpulses⟩
  · show Host.Outcome.next (if s.frozen then s else s.holdoffEnd n false) = _
    rw [hf]
    rfl

/-! ## Completions and configuration (R427, R437, R438) -/

theorem exec_eoi {s : State} {m w n : Nat} (hn : n < 2048) (ho : s.regOpen m (EVC.STW_EOI_SRC w).addr = true) :
    exec (.eoi m w n) s = .next (s.writeEoi m w n) := by
  show Host.Outcome.next (s.atReg m (EVC.STW_EOI_SRC w).addr fun s => s.writeEoi m w (n % 2048)) = _
  rw [State.atReg_open _ ho, Nat.mod_eq_of_lt hn]

theorem exec_hostEoi {s : State} {n : Nat} (hn : n < 2048) (ho : s.regOpen 4 EVC.HOST_EOI_SRC.addr = true) :
    exec (.hostEoi n) s = .next (s.hostEoi n) := by
  show Host.Outcome.next (s.atReg 4 EVC.HOST_EOI_SRC.addr fun s => s.hostEoi (n % 2048)) = _
  rw [State.atReg_open _ ho, Nat.mod_eq_of_lt hn]

theorem exec_srcConfigWrite {s : State} {n : Nat} (hn : n < 2048) (ho : s.regOpen 0 (EVC.SRC_CFG_EN n).addr = true) (vec : Bool)
    (mask v : Nat) : exec (.srcConfigWrite n vec mask v) s = .next (s.writeSrc n vec mask v) := by
  show Host.Outcome.next (s.atReg 0 (EVC.SRC_CFG_EN n).addr fun s => if n < 2048 then s.writeSrc n vec mask v else s) = _
  rw [State.atReg_open _ ho, if_pos hn]

theorem satAdd_lt (w v n : Nat) : satAdd w v n < 2 ^ w :=
  Nat.lt_of_le_of_lt (Nat.min_le_right ..) (Nat.sub_lt (Nat.two_pow_pos w) Nat.one_pos)

/-- R427: what a stray completion shows. -/
theorem State.rd_strayEoi (s : State) {n w : Nat} (hn : n < 2048) (hw : w < 8) :
    (s.strayEoi n w).rd EVC.STRAY_EOI_COUNT = satAdd EVC.STRAY_EOI_COUNT.width (s.rd EVC.STRAY_EOI_COUNT) 1 ∧
      (s.strayEoi n w).rd EVC.STRAY_EOI_LAST = n ∧ (s.strayEoi n w).rd EVC.STRAY_EOI_STW = w := by
  simp (disch := (simp only [Fld.key]; omega)) only [State.strayEoi, State.wrs_cons, State.wrs_nil, State.rd_wr_ne, State.rd_wr_self,
    State.rd_count_self, true_and]
  exact ⟨Nat.mod_eq_of_lt hn, Nat.mod_eq_of_lt hw⟩

theorem State.strayEoi_evc (s : State) (n w : Nat) : (s.strayEoi n w).evc = s.evc := rfl


/-- R427: what the completion of an active source leaves of the handlers' records. -/
theorem State.complete_active {s : State} {n w : Nat} (ha : (s.src n).active = some w) :
    ∃ t : State, s.complete n w = t.levelTry n false ∧ (t.src n).active = none ∧ t.mem = s.mem ∧
      (s.flag (EVC.STW_STATE_NACT w) = true → s.rd (EVC.STW_STATE_NSRC w) = n → t.rd (EVC.STW_STATE_NACT w) = 0) := by
  unfold State.complete
  rw [if_neg (by simp [ha])]
  extract_lets t u v
  have ht : (t.src n).active = none ∧ t.mem = s.mem := ⟨by simp [t], rfl⟩
  have hu : (u.src n).active = none ∧ u.mem = s.mem := by
    simp only [u]; split <;> exact ht
  have hv : (v.src n).active = none ∧ v.mem = s.mem := by
    simp only [v]; split <;> exact hu
  refine ⟨v, rfl, hv.1, hv.2, fun hact hsrc => ?_⟩
  have hzero : u.rd (EVC.STW_STATE_NACT w) = 0 := by
    simp [u, t, hact, hsrc]
  simp only [v]
  split
  · rw [State.rd_wr_ne _ _ (by simp [Fld.key]), hzero]
  · exact hzero

theorem State.levelTry_active (s : State) (n : Nat) (was : Bool) :
    ((s.levelTry n was).src n).active = (s.src n).active ∧ (s.levelTry n was).mem = s.mem := by
  obtain ⟨g, hg, h | h⟩ := s.hostTry_modSrc n <;> simp only [State.levelTry, h] <;> split <;> simp [hg]

/-- The fields of SRCn_CFG, in the order in which a write takes them. -/
def srcCfgFields (n : Nat) : List Fld :=
  [EVC.SRC_CFG_EN n, EVC.SRC_CFG_SENSE n, EVC.SRC_CFG_FAST n, EVC.SRC_CFG_TARGET n, EVC.SRC_CFG_MOD n, EVC.SRC_CFG_MODVAL n,
    EVC.SRC_CFG_HOST n, EVC.SRC_CFG_MSIX n]

theorem nodup_srcCfgFields (n : Nat) : ((srcCfgFields n).map Fld.key).Nodup := by simp [srcCfgFields, Fld.key]

/-- R438: a write of SRCn_CFG with values that exist takes every field as merged. -/
theorem State.rd_writeSrcCfg {s : State} {n mask v : Nat} (hsense : s.merged (EVC.SRC_CFG_SENSE n) mask v < 5)
    (hmod : s.merged (EVC.SRC_CFG_MOD n) mask v ≠ 3) {f : Fld} (hf : f ∈ srcCfgFields n) :
    (s.writeSrcCfg n mask v).rd f = s.merged f mask v := by
  have hk : f.key ≠ EVC.RECALLS_COUNT.key := by
    simp only [srcCfgFields, List.mem_cons, List.not_mem_nil, or_false] at hf
    rcases hf with rfl | rfl | rfl | rfl | rfl | rfl | rfl | rfl <;> simp only [Fld.key] <;> omega
  unfold State.writeSrcCfg
  extract_lets sense fs was newSense t u w
  rw [if_neg (by omega), State.rd_revalidate _ hk, State.rd_levelTry]
  have ht : t.rd f = s.merged f mask v := State.rd_wrs_mergedAll (nodup_srcCfgFields n) hf
  have hu : u.rd f = s.merged f mask v := by
    simp only [u]; split
    · rw [State.rd_modSrc, ht]
    · exact ht
  simp only [w]; split
  · exact hu
  · rw [State.rd_modSrc, hu]

/-- Settles O44: what a completion does to the record of the source and to NACT, and what a write of SRCn_CFG leaves. -/
theorem eventCompletions : Obligations.EventCompletions := by
  refine ⟨fun s w n hn ho ha hedge => ?_, fun s w n hn hw ho ha => ?_, fun s m w n ho hne => ?_, fun s n hn ho hp hedge => ?_,
    fun s n hn ho hp => ?_, fun s n mask v hn ho => exec_srcConfigWrite hn ho true mask v, fun s n mask v hn ho hsense hmod => ?_,
    fun s n mask v hn ho hsense => ?_⟩
  · obtain ⟨t, ht, hactive, hmem, hnact⟩ := State.complete_active ha
    refine ⟨_, exec_eoi hn ho, ?_⟩
    rw [State.writeEoi, if_pos rfl, ht, (t.levelTry_active n false).1, (t.levelTry_active n false).2, State.rd_levelTry]
    exact ⟨hactive, hnact, hmem⟩
  · obtain ⟨hcount, hlast, hstw⟩ := s.rd_strayEoi hn (w := w) (by omega)
    refine ⟨_, exec_eoi hn ho, ?_⟩
    rw [State.writeEoi, if_pos rfl, State.complete, if_pos (by simpa using ha), hcount, hlast, hstw]
    exact ⟨(Nat.mod_eq_of_lt (satAdd_lt ..)).symm, rfl, rfl, rfl⟩
  · show Host.Outcome.next (s.atReg m (EVC.STW_EOI_SRC w).addr fun s => s.writeEoi m w (n % 2048)) = _
    rw [State.atReg_open _ ho, State.writeEoi, if_neg hne]
  · rw [exec_hostEoi hn ho, State.hostEoi, hp]
    simp [hedge]
  · obtain ⟨-, hlast, hstw⟩ := s.rd_strayEoi hn (w := 4) (by omega)
    refine ⟨_, exec_hostEoi hn ho, ?_⟩
    rw [State.hostEoi, hp]
    exact ⟨hlast, hstw, rfl⟩
  · refine ⟨_, exec_srcConfigWrite hn ho false mask v, ?_, ?_⟩
    all_goals rw [State.writeSrc, if_neg Bool.false_ne_true, State.rd_writeSrcCfg hsense hmod (by simp [srcCfgFields])]
    · exact (Nat.mod_eq_of_lt (s.merged_lt _ mask v)).symm
    · exact (Nat.mod_eq_of_lt (s.merged_lt (EVC.SRC_CFG_EN n) mask v)).symm
  · rw [exec_srcConfigWrite hn ho, State.writeSrc, if_neg Bool.false_ne_true, State.writeSrcCfg, if_pos (.inl hsense)]

end Sys2Proof.Machine

namespace Sys2Proof.Machine

/-! ## Delivery (R428 to R431, R436) -/

@[simp] theorem State.wakeDeep_evc (s : State) (w : Nat) : (s.wakeDeep w).evc = s.evc := by
  unfold State.wakeDeep; split <;> rfl

@[simp] theorem State.wakeDeep_mem (s : State) (w : Nat) : (s.wakeDeep w).mem = s.mem := by
  unfold State.wakeDeep; split <;> rfl

@[simp] theorem State.takeMie_mem (s : State) (mie : Nat) : (s.takeMie mie).mem = s.mem :=
  State.foldl_same (·.mem) fun t w _ => by split <;> rfl

/-- R429: the choice that an arbitration makes is presented. -/
theorem State.arbitrate_presents {s : State} {mie : Nat} {e : Choice} (h : (s.takeMie mie).revalidate.nextChoice = some e) :
    e ∈ (s.arbitrate mie).evc.choices ∧ (s.arbitrate mie).mem = s.mem := by
  have hevc (t : State) (ws : List Nat) : (ws.foldl State.wakeDeep t).evc = t.evc := State.foldl_same (·.evc) fun t w _ => t.wakeDeep_evc w
  have hmem (t : State) (ws : List Nat) : (ws.foldl State.wakeDeep t).mem = t.mem := State.foldl_same (·.mem) fun t w _ => t.wakeDeep_mem w
  unfold State.arbitrate
  dsimp only
  rw [h, hevc, hmem]
  exact ⟨List.mem_append_right _ (List.mem_singleton.mpr rfl), by simp⟩

/-- R431: the state in which an ACKNOWLEDGE looks for the choice presented. -/
theorem exec_acknowledge {s u : State} {w pc n v : Nat} {fast : Bool} {acts : Bool × List StwAct} {machine : Bool}
    (hu : u = (if s.stwRuns w then (s.stwActs w acts.2).modSteward w fun x => { x with mie := acts.1, machine := machine } else s).revalidate)
    (hf : u.frozen = false) (hc : u.evc.choices.find? (·.stw == w) = some ⟨n, w, fast, v⟩) :
    exec (.acknowledge w pc acts machine) s =
      .next (if fast then (u.delivered n w fast).enterFast n w pc v else (u.delivered n w fast).enterNormal n w pc v) := by
  show Host.Outcome.next (s.acknowledge w pc acts machine) = _
  unfold State.acknowledge
  rw [← hu]
  simp [hc, hf]

@[simp] theorem State.active_delivered (s : State) (n w : Nat) (fast : Bool) : ((s.delivered n w fast).src n).active = some w := by
  have : (s.delivered n w fast).src n = (s.modSrc n fun x =>
    { x with lat := false, active := some w, count := 0, hold := s.startsHold n }).src n := rfl
  rw [this, State.src_modSrc_self]

/-- R431: what entering the normal handler shows. -/
theorem State.rd_enterNormal (s : State) {n : Nat} (w pc vec : Nat) (hn : n < 2048) :
    (s.enterNormal n w pc vec).rd (EVC.STW_STATE_LEVEL w) = 2 ∧ (s.enterNormal n w pc vec).rd (EVC.STW_STATE_NSRC w) = n ∧
      (s.enterNormal n w pc vec).rd (EVC.STW_STATE_NACT w) = 1 := by
  simp (disch := (simp only [Fld.key]; omega)) only [State.enterNormal, State.wrs_cons, State.wrs_nil, State.rd_wr_ne, State.rd_wr_self]
  exact ⟨rfl, Nat.mod_eq_of_lt hn, rfl⟩

/-- R431: what entering the fast handler shows. -/
theorem State.rd_enterFast (s : State) {n : Nat} (w pc vec : Nat) (hn : n < 2048) :
    (s.enterFast n w pc vec).rd (EVC.STW_STATE_LEVEL w) = 3 ∧ (s.enterFast n w pc vec).rd (EVC.STW_STATE_FSRC w) = n ∧
      (s.enterFast n w pc vec).rd (EVC.STW_STATE_FACT w) = 1 := by
  simp (disch := (simp only [Fld.key]; omega)) only [State.enterFast, State.wrs_cons, State.wrs_nil, State.rd_wr_ne, State.rd_wr_self]
  exact ⟨rfl, Nat.mod_eq_of_lt hn, rfl⟩

/-- Settles O45: the state that each command leaves, from the equations of an arbitration, an acknowledgement and a recall. -/
theorem eventDelivery : Obligations.EventDelivery := by
  refine ⟨fun s mie e hf hs he => ⟨s.arbitrate mie, ?_, State.arbitrate_presents he⟩,
    fun s u w pc n v mie machine hw hn hu hf hc => ⟨_, exec_acknowledge hu hf hc, ?_⟩,
    fun s u w pc n v mie machine hw hn hu hf hc => ⟨_, exec_acknowledge hu hf hc, ?_⟩, fun s w => ⟨_, rfl, rfl, rfl, rfl⟩⟩
  · show execDelivery mie s = _
    simp [execDelivery, hf, hs]
  · obtain ⟨hlevel, hsrc, hact⟩ := (u.delivered n w false).rd_enterNormal w pc v hn
    rw [if_neg Bool.false_ne_true, hlevel, hsrc, hact]
    simp [State.enterNormal]
  · obtain ⟨hlevel, hsrc, hact⟩ := (u.delivered n w true).rd_enterFast w pc v hn
    rw [if_pos rfl, hlevel, hsrc, hact]
    simp [State.enterFast]

/-! ## Handlers, exceptions, debug modules (R388, R423, R431, R432) -/

theorem exec_mret {s : State} {w : Nat} (pc : Nat) (h : s.stwRuns w = true) : exec (.mret w pc) s = .next (s.mret w pc) := by
  show Host.Outcome.next (if s.stwRuns w then s.mret w pc else s) = _
  rw [if_pos h]

theorem exec_stewardException {s : State} {w : Nat} (pc cause tval : Nat) (h : s.stwRuns w = true) :
    exec (.stewardException w pc cause tval []) s = .next (s.stwException w pc cause tval) := by
  show Host.Outcome.next (if s.stwRuns w then s.stwException w pc cause tval else s) = _
  rw [if_pos h]

/-- R431: a return from the normal handler, or of the thread. -/
theorem State.mret_normal {s : State} {w pc : Nat} (hm : (s.steward w).machine = true) (hl : s.rd (EVC.STW_STATE_LEVEL w) ≠ 3) :
    s.mret w pc = (s.modSteward w fun x =>
      { x with pc := x.mepc, mie := x.mpie, mpie := true, machine := x.mpp, mpp := false }).wr (EVC.STW_STATE_LEVEL w) 1 := by
  simp [State.mret, hm, hl]

/-- R431: a return from the fast handler. -/
theorem State.mret_fast {s : State} {w pc : Nat} (hm : (s.steward w).machine = true) (hl : s.rd (EVC.STW_STATE_LEVEL w) = 3) :
    ∃ e, s.mret w pc = (s.modSteward w fun x =>
      { x with pc := x.fepc, machine := x.fmachine, mie := x.fmie, fastBank := false, evsrc := e, evfast := false }).wr
        (EVC.STW_STATE_LEVEL w) (max 1 (s.steward w).flevel) := by
  refine ⟨if max 1 (s.steward w).flevel = 2 then s.rd (EVC.STW_STATE_NSRC w) else (s.steward w).evsrc, ?_⟩
  simp [State.mret, hm, hl, State.modSteward]

/-- R432: an exception below fast level enters the trap handler. -/
theorem State.stwException_low {s : State} {w : Nat} (pc cause tval : Nat) (hl : s.rd (EVC.STW_STATE_LEVEL w) ≠ 3) :
    s.stwException w pc cause tval = (s.modSteward w fun x =>
      { x with mepc := pc, mcause := cause, mtval := tval, mpie := x.mie, mie := false, mpp := x.machine, machine := true
               pc := x.mtvec / 4 * 4 }).revalidate := by
  rw [State.stwException, if_neg hl]

/-- R432: an exception at fast level stops the steward. -/
theorem State.stwException_fast {s : State} {w : Nat} (pc cause tval : Nat) (hl : s.rd (EVC.STW_STATE_LEVEL w) = 3) :
    s.stwException w pc cause tval = ((s.modSteward w fun x => { x with stopped := true, pc := pc }).report 0x18 w).revalidate := by
  rw [State.stwException, if_pos hl]

/-- The level of a steward is no counter of recalls. -/
theorem State.rd_level_revalidate (s : State) (w : Nat) :
    s.revalidate.rd (EVC.STW_STATE_LEVEL w) = s.rd (EVC.STW_STATE_LEVEL w) :=
  s.rd_revalidate (by simp only [Fld.key]; omega)

/-- R388: the steward's registers after its debug module has halted it. -/
def State.debugHalted (s : State) (w pc : Nat) : State :=
  ((s.modSteward w fun x => { x with attached := true, pc := pc, wfi := false, deep := false }).wr (EVC.STW_STATE_HELD w) 1).revalidate

theorem exec_debugHalt {s : State} {w : Nat} (pc : Nat) (acts : List StwAct) (hp : bitOf (s.rd DBG.AUTH_PERM) 0 = true) (hw : w < 4)
    (hr : (s.steward w).inReset = false) :
    exec (.debugHalt w (pc, acts)) s = .next (acts.foldl (fun t e => t.debugAct w e) (s.debugHalted w pc)) := by
  show Host.Outcome.next _ = _
  rw [hp, hr]
  simp [hw, State.debugHalted]

theorem State.steward_debugHalted (s : State) (w pc : Nat) : (s.debugHalted w pc).steward w =
    { s.steward w with attached := true, pc := pc, wfi := false, deep := false } := by
  simp [State.debugHalted]

/-- R423: a register of the main bank reads what was written to it; x0 reads zero. -/
theorem Steward.getX_setX {x : Steward} {n : Nat} (v : Nat) (hn : n < 32) (hb : x.fastBank = false) (hl : x.x.length = 31) :
    (x.setX n v).getX n = if n = 0 then 0 else v % 2 ^ 64 := by
  by_cases h0 : n = 0
  · simp [Steward.getX, h0]
  · have : n - 1 < x.x.length := by omega
    simp [Steward.getX, Steward.setX, h0, hb, this]

theorem exec_debugResume {s : State} {w : Nat} (pc : Nat) (detach : Bool) (hp : bitOf (s.rd DBG.AUTH_PERM) 0 = true)
    (hh : s.flag (EVC.STW_STATE_HELD w) = true) : exec (.debugResume w (pc, []) detach) s =
      .next ((s.modSteward w fun x => { x with attached := !detach, pc := pc }).wr (EVC.STW_STATE_HELD w) 0) := by
  show Host.Outcome.next (if bitOf (s.rd DBG.AUTH_PERM) 0 && s.flag (EVC.STW_STATE_HELD w) then _ else s) = _
  rw [hp, hh]
  rfl

/-- Settles O46: one equation for each way a steward leaves or enters a handler, then its registers are read off. -/
theorem stewardEntriesAndReturns : Obligations.StewardEntriesAndReturns := by
  refine ⟨fun s w pc hr hm hl => ⟨_, exec_mret pc hr, ?_⟩, fun s w pc hr hm hl hf => ⟨_, exec_mret pc hr, ?_⟩,
    fun s w pc hr hm hl => ⟨_, exec_mret pc hr, ?_⟩, fun s w pc mie hr => ?_,
    fun s w pc cause tval hr hl => ⟨_, exec_stewardException pc cause tval hr, ?_⟩,
    fun s w pc cause tval hr hl => ⟨_, exec_stewardException pc cause tval hr, ?_⟩,
    fun s w pc hp hw hr => ⟨_, exec_debugHalt pc [] hp hw hr, ?_⟩,
    fun s w pc n v hp hw hr hn hb hx => ⟨⟨_, exec_debugHalt pc _ hp hw hr, ?_⟩, _, exec_debugHalt pc _ hp hw hr, ?_⟩,
    fun s w pc detach hp hh => ⟨_, exec_debugResume pc detach hp hh, ?_⟩⟩
  · rw [State.mret_normal hm hl]
    exact ⟨by simp, by simp, by simp, by rw [State.rd_wr_self]; rfl⟩
  · obtain ⟨e, he⟩ := State.mret_fast (pc := pc) hm hl
    rw [he]
    have hmax : max 1 (s.steward w).flevel < 4 := by omega
    exact ⟨by simp, by simp, by simp, (State.rd_wr_self ..).trans (Nat.mod_eq_of_lt hmax)⟩
  · have : s.mret w pc = s.stwException w pc 2 0x30200073 := by simp [State.mret, hm]
    rw [this, State.stwException_low _ _ _ hl, State.rd_level_revalidate]
    simp
  · have hx : exec (.wfi w pc (mie, [])) s = .next ((s.modSteward w fun x =>
        { x with wfi := true, pc := pc, mie := mie, deep := s.flag (EVC.STW_STATE_DEEP w) }).revalidate) := by
      show Host.Outcome.next (if s.stwRuns w then _ else s) = _
      rw [if_pos hr]; rfl
    exact ⟨_, hx, by simp, by simp, by simp, fun f hf => State.rd_revalidate _ hf⟩
  · rw [State.stwException_low _ _ _ hl, State.rd_level_revalidate]
    simp
  · rw [State.stwException_fast _ _ _ hl]
    exact ⟨by simp, rfl⟩
  · rw [List.foldl_nil, s.steward_debugHalted]
    refine ⟨?_, rfl, rfl⟩
    rw [State.debugHalted, State.rd_revalidate _ (by simp only [Fld.key]; omega), State.rd_wr_self]
    rfl
  · show [((s.debugHalted w pc).steward w).getX n] = _
    rw [s.steward_debugHalted]
    rfl
  · show (((s.debugHalted w pc).modSteward w fun x => x.setX n v).steward w).getX n = _
    rw [State.steward_modSteward_self, s.steward_debugHalted]
    exact Steward.getX_setX v hn hb hx
  · refine ⟨(State.rd_wr_self ..).trans rfl, by simp, by simp, rfl, fun f hf => ?_⟩
    exact State.rd_wr_ne _ _ fun h => hf (List.mem_singleton.mpr h.symm)

end Sys2Proof.Machine

namespace Sys2Proof.Machine

/-! ## The stored life cycle (R374, R375) -/

theorem State.slotClass_lt (s : State) (c j : Nat) : s.slotClass c j < 3 := by
  unfold State.slotClass
  dsimp only
  split_ifs <;> decide

/-- R375: a PATTERN slot above a BLANK one. -/
theorem exists_pattern_above_blank (f : Nat → Nat) :
    (∃ i j, i ∈ [1, 2, 3] ∧ j ∈ [1, 2, 3] ∧ i < j ∧ f i = 0 ∧ f j = 1) ↔
      f 1 = 0 ∧ f 2 = 1 ∨ f 1 = 0 ∧ f 3 = 1 ∨ f 2 = 0 ∧ f 3 = 1 := by
  simp only [List.mem_cons, List.not_mem_nil, or_false]
  constructor
  · rintro ⟨i, j, hi3, hj3, hij, hi, hj⟩
    obtain ⟨rfl, rfl⟩ | ⟨rfl, rfl⟩ | ⟨rfl, rfl⟩ : (i = 1 ∧ j = 2) ∨ (i = 1 ∧ j = 3) ∨ (i = 2 ∧ j = 3) := by omega
    exacts [.inl ⟨hi, hj⟩, .inr (.inl ⟨hi, hj⟩), .inr (.inr ⟨hi, hj⟩)]
  · rintro (⟨hi, hj⟩ | ⟨hi, hj⟩ | ⟨hi, hj⟩)
    · exact ⟨1, 2, .inl rfl, .inr (.inl rfl), by decide, hi, hj⟩
    · exact ⟨1, 3, .inl rfl, .inr (.inr rfl), by decide, hi, hj⟩
    · exact ⟨2, 3, .inr (.inl rfl), .inr (.inr rfl), by decide, hi, hj⟩

/-- Settles O60: by the classes of the three slots, each 0, 1 or 2. -/
theorem lifeCycleCopyState : Obligations.LifeCycleCopyState := by
  intro s c _ bad hbad
  have h1 := s.slotClass_lt c 1
  have h2 := s.slotClass_lt c 2
  have h3 := s.slotClass_lt c 3
  rw [hbad, exists_pattern_above_blank]
  simp only [List.mem_cons, List.not_mem_nil, or_false, forall_eq_or_imp, forall_eq, exists_eq_or_imp, exists_eq_left]
  unfold State.copyState
  generalize s.slotClass c 1 = a at h1 ⊢
  generalize s.slotClass c 2 = b at h2 ⊢
  generalize s.slotClass c 3 = d at h3 ⊢
  interval_cases a <;> interval_cases b <;> interval_cases d <;> simp

/-! ## Channels of the host's DMA (R446, R449, R450) -/

/-- A property that one step of a fold turns into another, which every step keeps. -/
theorem State.foldl_turns {α : Type} {f : State → α → State} {P Q : State → Prop} {l : List α} {x : α} (hx : x ∈ l)
    (hstay : ∀ t y, y ≠ x → P t → P (f t y)) (hturn : ∀ t, P t → Q (f t x)) (hkeep : ∀ t y, Q t → Q (f t y)) {s : State} (h : P s) :
    Q (l.foldl f s) := by
  induction l generalizing s with
  | nil => exact absurd hx List.not_mem_nil
  | cons y l ih =>
    by_cases hy : y = x
    · exact List.foldlRecOn l f (hy ▸ hturn s h) fun t ht z _ => hkeep t z ht
    · exact ih ((List.mem_cons.mp hx).resolve_left fun e => hy e.symm) (hstay s y hy h)

@[simp] theorem State.dmaEnd_mem (s : State) (k st kind : Nat) (stopped : Bool) : (s.dmaEnd k st kind stopped).mem = s.mem := rfl

/-- R449, R450: what the end of a run leaves in STATUS. -/
theorem State.rd_dmaEnd (s : State) (k st kind : Nat) (stopped : Bool) :
    (s.dmaEnd k st kind stopped).rd (DMA.STATUS_STATUS k) = st % 256 ∧ (s.dmaEnd k st kind stopped).rd (DMA.STATUS_PEND k) = 0 ∧
      (s.dmaEnd k st kind stopped).rd (DMA.STATUS_STOPPED k) = b2n stopped % 2 ∧
      (s.dmaEnd k st kind stopped).rd (DMA.STATUS_KIND k) = kind % 16 ∧ (s.dmaEnd k st kind stopped).rd (DMA.STATUS_EVT k) = 1 := by
  simp (disch := (simp only [Fld.key]; omega)) only [State.dmaEnd, State.wrs_cons, State.wrs_nil, State.rd_wr_ne, State.rd_wr_self]
  exact ⟨rfl, rfl, rfl, rfl, rfl⟩

/-- The end of a run writes STATUS of its channel below DONE. -/
theorem State.rd_dmaEnd_ne (s : State) {k : Nat} (st kind : Nat) (stopped : Bool) {f : Fld}
    (h : f.key < 64 * (0x980010 + 0x40 * k) ∨ 64 * (0x980010 + 0x40 * k) + 32 ≤ f.key) :
    (s.dmaEnd k st kind stopped).rd f = s.rd f := by
  simp only [Fld.key] at h
  simp (disch := (simp only [Fld.key]; omega)) only [State.dmaEnd, State.wrs_cons, State.wrs_nil, State.rd_wr_ne]

theorem State.dmaStart_idle {s : State} {k : Nat} (hp : s.flag (DMA.STATUS_PEND k) = false) (ha : s.rd (DMA.DESC_ADDR k) % 32 = 0) :
    s.dmaStart k = s.wrs [(DMA.STATUS_OP k, 1), (DMA.STATUS_PEND k, 1), (DMA.STATUS_STOPPED k, 0), (DMA.STATUS_KIND k, 0),
      (DMA.CUR_ADDR k, s.rd (DMA.DESC_ADDR k))] := by
  simp [State.dmaStart, hp, ha]

theorem descOk_nil : descOk [] = false := rfl

/-- R449: a channel without a fetched descriptor has moved nothing of one. -/
theorem State.movePart_nil (s : State) (k n : Nat) (data : List Nat) : s.movePart k n [] data = s := by
  simp [State.movePart, descOk_nil]

@[simp] theorem State.toHostMem_mem (s : State) (a : Nat) (bs : List Nat) : (s.toHostMem a bs).mem = s.mem := by
  unfold State.toHostMem; split <;> rfl

@[simp] theorem State.toHostMem_regs (s : State) (a : Nat) (bs : List Nat) : (s.toHostMem a bs).regs = s.regs := by
  unfold State.toHostMem; split <;> rfl

theorem upTo_nil (n : Nat) : upTo n [] = [] := by unfold upTo; rfl

/-- R449: a descriptor of no units makes no request. -/
theorem State.moveData_empty (s : State) (k : Nat) {d : DmaDesc} (n : Nat) (data : List Nat) (up dev lat : Nat) (h : d.units = 0) :
    s.moveData k d n data up dev lat = .ok (false, { s with host := { s.host with wrote := [] } }) := by
  simp [State.moveData, h, DmaDesc.packets, upTo_nil, State.moveUnits, State.toHostMem]

/-- R450: a final descriptor that has moved all its data ends the run, and is counted. -/
theorem State.descFinish_final (s : State) (k : Nat) {d : DmaDesc} (h : bitOf d.flags 4 = true) :
    (s.descFinish k d).rd (DMA.STATUS_STATUS k) = 0 ∧ (s.descFinish k d).rd (DMA.STATUS_PEND k) = 0 ∧
      (s.descFinish k d).rd (DMA.STATUS_DONE k) = satAdd 32 (s.rd (DMA.STATUS_DONE k)) 1 ∧ (s.descFinish k d).mem = s.mem := by
  unfold State.descFinish
  extract_lets s1 s2 s3
  have h2 : s2.regs = s1.regs ∧ s2.mem = s.mem := by
    simp only [s2]; split <;> simp [s1]
  obtain ⟨hregs, hmem⟩ := h2
  have h3 : s3.rd (DMA.STATUS_DONE k) = s2.rd (DMA.STATUS_DONE k) ∧ s3.mem = s2.mem := by
    simp only [s3]
    split
    · exact ⟨State.rd_wr_ne _ _ (by simp only [Fld.key]; omega), rfl⟩
    · exact ⟨rfl, rfl⟩
  obtain ⟨hdone, hmem3⟩ := h3
  rw [if_pos h]
  obtain ⟨hst, hpend, -⟩ := s3.rd_dmaEnd k 0 0 false
  refine ⟨hst, hpend, ?_, hmem3.trans hmem⟩
  rw [State.rd_dmaEnd_ne _ _ _ _ (.inr (by simp only [Fld.key]; omega)), hdone, State.rd_of_regs hregs, State.rd_count_self]

theorem exec_descriptorDone {s : State} {k : Nat} (hk : k < 8) (desc data : List Nat) (ok : Bool) (up dev lat : Nat) :
    exec (.descriptorDone k desc data ok up dev lat) s = .next (s.descriptorDone k desc data ok up dev lat) := by
  show Host.Outcome.next (if k < 8 then _ else s) = _
  rw [if_pos hk]

theorem State.descriptorDone_unfetched {s : State} {k : Nat} (data : List Nat) (ok : Bool) (up dev lat : Nat)
    (hp : s.flag (DMA.STATUS_PEND k) = true) (hf : s.frozen = false) (hc : s.rd (DMA.CUR_ADDR k) % 32 = 0) :
    s.descriptorDone k [] data ok up dev lat = s.dmaEnd k 6 1 false := by
  simp [State.descriptorDone, hp, hf, hc]

theorem State.descriptorDone_empty {s : State} {k : Nat} {desc : List Nat} (data : List Nat) (up dev lat : Nat)
    (hp : s.flag (DMA.STATUS_PEND k) = true) (hf : s.frozen = false) (hc : s.rd (DMA.CUR_ADDR k) % 32 = 0) (hok : descOk desc = true)
    (hu : (DmaDesc.ofBytes desc).units = 0) :
    s.descriptorDone k desc data true up dev lat =
      ({ s with host := { s.host with wrote := [] } }).descFinish k (DmaDesc.ofBytes desc) := by
  have hne : desc ≠ [] := fun h => by rw [h, descOk_nil] at hok; exact Bool.false_ne_true hok
  simp only [State.descriptorDone, hp, hf, hc, hok, hne, hu, State.moveData_empty]
  simp

/-- Settles O48: each command leaves the state that the equations of START, of a run's end and of a descriptor name. -/
theorem hostDmaCommands : Obligations.HostDmaCommands := by
  refine ⟨fun s k hk ho hp ha => ?_, fun s k n hk ho hp => ?_, fun s k up dev lat hk hp hf hc => ?_,
    fun s k up dev lat desc hk hp hf hc hok hu hfinal => ?_⟩
  · have hexec : exec (.dmaStart k) s = .next (s.dmaStart k) := by
      show Host.Outcome.next (s.atReg 4 (DMA.CMD_OP k).addr fun s => s.dmaStart k) = _
      rw [State.atReg_open _ ho]
    refine ⟨_, hexec, ?_⟩
    rw [State.dmaStart_idle hp ha]
    refine ⟨?_, ?_, ?_, onlyRegs_wrs ..⟩
    · simp (disch := (simp only [Fld.key]; omega)) only [State.wrs_cons, State.wrs_nil, State.rd_wr_ne, State.rd_wr_self]; rfl
    · simp (disch := (simp only [Fld.key]; omega)) only [State.wrs_cons, State.wrs_nil, State.rd_wr_ne, State.rd_wr_self]; rfl
    · simp only [State.wrs_cons, State.wrs_nil, State.rd_wr_self]
      exact Nat.mod_eq_of_lt (s.rd_lt (DMA.DESC_ADDR k))
  · have hexec : exec (.dmaStop k n [] []) s = .next ((s.wr (DMA.STATUS_OP k) 2).dmaEnd k 0 0 true) := by
      show Host.Outcome.next (s.atReg 4 (DMA.CMD_OP k).addr fun s => if k < 8 then (s.movePart k n [] []).dmaStop k else s) = _
      rw [State.atReg_open _ ho, if_pos hk, State.movePart_nil, State.dmaStop, if_pos hp]
    obtain ⟨hst, hpend, hstop, -, hevt⟩ := (s.wr (DMA.STATUS_OP k) 2).rd_dmaEnd k 0 0 true
    exact ⟨_, hexec, hpend, hst, hstop, hevt, rfl⟩
  · obtain ⟨hst, hpend, -, hkind, hevt⟩ := s.rd_dmaEnd k 6 1 false
    exact ⟨_, (exec_descriptorDone hk ..).trans (congrArg _ (State.descriptorDone_unfetched _ _ _ _ _ hp hf hc)), hst, hkind, hpend, hevt, rfl⟩
  · exact ⟨_, (exec_descriptorDone hk ..).trans (congrArg _ (State.descriptorDone_empty _ _ _ _ hp hf hc hok hu)),
      State.descFinish_final _ k hfinal⟩

/-! ## The PCIe link (R446, R512) -/

theorem State.endChannels_idle {s : State} (kind : Nat) (h : ∀ k, k < 8 → s.flag (DMA.STATUS_PEND k) = false) : s.endChannels kind = s :=
  List.foldlRecOn (motive := fun t => t = s) _ _ rfl fun t ht k hk => by
    subst ht
    rw [if_neg (by rw [h k (List.mem_range.mp hk)]; exact Bool.false_ne_true)]

@[simp] theorem State.endChannels_mem (s : State) (kind : Nat) : (s.endChannels kind).mem = s.mem :=
  State.foldl_same (·.mem) fun t k _ => by split <;> rfl

theorem State.flag_eq_true {s : State} {f : Fld} : s.flag f = true ↔ s.rd f = 1 := beq_iff_eq

/-- R446: every running channel ends with FAULT and the kind given. -/
theorem State.endChannels_running {s : State} {kind k : Nat} (hk : k < 8) (hkind : kind < 16) (hp : s.flag (DMA.STATUS_PEND k) = true) :
    (s.endChannels kind).rd (DMA.STATUS_STATUS k) = 6 ∧ (s.endChannels kind).rd (DMA.STATUS_KIND k) = kind ∧
      (s.endChannels kind).rd (DMA.STATUS_PEND k) = 0 ∧ (s.endChannels kind).rd (DMA.STATUS_EVT k) = 1 := by
  refine State.foldl_turns (P := fun t => t.rd (DMA.STATUS_PEND k) = 1)
    (Q := fun t => t.rd (DMA.STATUS_STATUS k) = 6 ∧ t.rd (DMA.STATUS_KIND k) = kind ∧ t.rd (DMA.STATUS_PEND k) = 0 ∧
      t.rd (DMA.STATUS_EVT k) = 1) (List.mem_range.mpr hk) (fun t j hj ht => ?_) (fun t ht => ?_) (fun t j ht => ?_) (State.flag_eq_true.mp hp)
  · split
    · rwa [State.rd_dmaEnd_ne _ _ _ _ (by simp only [Fld.key]; omega)]
    · exact ht
  · rw [if_pos (State.flag_eq_true.mpr ht)]
    obtain ⟨hst, hpend, -, hkd, hevt⟩ := t.rd_dmaEnd k 6 kind false
    exact ⟨hst, hkd.trans (Nat.mod_eq_of_lt hkind), hpend, hevt⟩
  · split
    next hj =>
      have hne : j ≠ k := fun e => absurd (State.flag_eq_true.mp (e ▸ hj)) (by omega)
      simpa (disch := (simp only [Fld.key]; omega)) only [State.rd_dmaEnd_ne] using ht
    · exact ht

/-- R446: a channel that does not run keeps its status. -/
theorem State.rd_endChannels_stopped {s : State} (kind : Nat) {k : Nat} (hp : s.flag (DMA.STATUS_PEND k) = false) :
    (s.endChannels kind).rd (DMA.STATUS_STATUS k) = s.rd (DMA.STATUS_STATUS k) := by
  refine (List.foldlRecOn (motive := fun t : State => t.rd (DMA.STATUS_PEND k) ≠ 1 ∧ t.rd (DMA.STATUS_STATUS k) = s.rd (DMA.STATUS_STATUS k))
    _ _ ⟨beq_eq_false_iff_ne.mp hp, rfl⟩ fun t ht j _ => ?_).2
  split
  next hj =>
    have hne : j ≠ k := fun e => ht.1 (State.flag_eq_true.mp (e ▸ hj))
    simpa (disch := (simp only [Fld.key]; omega)) only [State.rd_dmaEnd_ne] using ht
  · exact ht

/-- The fields of the link's STATUS are not those of a channel of the DMA. -/
theorem State.rd_linkDown_writes (s : State) {f : Fld} (h : 64 * 0x980000 ≤ f.key) :
    (s.wrs [(PCI.STATUS_LINK_UP, 0), (PCI.STATUS_LSTATE, 0), (PCI.STATUS_LINK_EVT, 1)]).rd f = s.rd f := by
  simp only [Fld.key] at h
  simp (disch := (simp only [Fld.key]; omega)) only [State.wrs_cons, State.wrs_nil, State.rd_wr_ne]

theorem State.linkUp_trains {s : State} {ls sp w : Nat} (hperst : s.host.perst = false) (hheld : s.rst.held = false)
    (hslice : s.bst.run = none) (ht : linkTrains sp w = true) :
    s.linkUp ls sp w = s.wrs [(PCI.STATUS_LINK_UP, 1), (PCI.STATUS_LSTATE, ls), (PCI.STATUS_SPEED, sp), (PCI.STATUS_WIDTH, w)] := by
  simp [State.linkUp, hperst, hheld, ht, State.abortSlice_idle _ hslice]

theorem linkTrains_of {sp w : Nat} (h1 : 1 ≤ sp) (h5 : sp ≤ 5) (hw : w ∈ [1, 2, 4]) : linkTrains sp w = true := by
  have hwidth : [1, 2, 4].contains w = true := List.contains_iff_mem.mpr hw
  rw [linkTrains, hwidth, decide_eq_true ⟨h1, h5⟩, Bool.and_true]

/-- Settles O49: each event of the link leaves the state that its equation names; the channels end one by one. -/
theorem pcieLinkEvents : Obligations.PcieLinkEvents := by
  have hdown (s : State) : exec (.linkDown []) s =
      .next ((s.wrs [(PCI.STATUS_LINK_UP, 0), (PCI.STATUS_LSTATE, 0), (PCI.STATUS_LINK_EVT, 1)]).endChannels 4) := rfl
  have hhot (s : State) : exec (.d3hot []) s = .next ((s.wr PCI.STATUS_DSTATE 3).endChannels 5) := rfl
  have hrdDown (s : State) {k : Nat} {f : Fld} (hf : f.addr = 0x980010 + 0x40 * k) := s.rd_linkDown_writes (f := f) (by rw [Fld.key, hf]; omega)
  have hrdHot (s : State) {k : Nat} {f : Fld} (hf : f.addr = 0x980010 + 0x40 * k) : (s.wr PCI.STATUS_DSTATE 3).rd f = s.rd f :=
    State.rd_wr_ne _ _ (by simp only [Fld.key, hf]; omega)
  refine ⟨fun s ls sp w hperst hheld hslice hl1 hl5 h1 h5 hw => ?_, fun s ls sp w ht => ?_, fun s h => ⟨?_, ?_⟩, fun s => rfl,
    fun s => ⟨_, rfl, rfl, rfl, fun f hlo hhi hlsb => ?_⟩, fun s => rfl, fun s k hk => ⟨⟨_, hdown s, ?_, fun hp => ?_, fun hp => ?_⟩,
      ⟨_, hhot s, ?_, fun hp => ?_, fun hp => ?_⟩⟩⟩
  · show Host.Outcome.next (s.linkUp (if 1 ≤ ls ∧ ls ≤ 5 then ls else 1) sp w) = _
    rw [if_pos ⟨hl1, hl5⟩, State.linkUp_trains hperst hheld hslice (linkTrains_of h1 h5 hw)]
  · show Host.Outcome.next (s.linkUp _ sp w) = _
    simp [State.linkUp, ht]
  · rw [hdown, State.endChannels_idle _ fun k hk => ?_]
    rw [State.flag, hrdDown s rfl]
    exact h k hk
  · rw [hhot, State.endChannels_idle _ fun k hk => ?_]
    rw [State.flag, hrdHot s rfl]
    exact h k hk
  · exact State.rd_resetRegs_in (s.moveParts []).dropHost (by simp only [Fld.key]; omega) (by simp only [Fld.key]; omega)
  · simp only [State.endChannels_mem, State.wrs_cons, State.wrs_nil, State.wr_mem]
  · exact State.endChannels_running hk (by decide) (by rwa [State.flag, hrdDown s rfl])
  · rw [State.rd_endChannels_stopped _ (by rwa [State.flag, hrdDown s rfl]), hrdDown s rfl]
  · simp only [State.endChannels_mem, State.wr_mem]
  · exact State.endChannels_running hk (by decide) (by rwa [State.flag, hrdHot s rfl])
  · rw [State.rd_endChannels_stopped _ (by rwa [State.flag, hrdHot s rfl]), hrdHot s rfl]

/-! ## MSI-X (R437, R451) -/

theorem exec_msixSend {s : State} {n : Nat} (hs : s.power.sleep < 2) (hh : (s.src n).hsend = true) :
    exec (.msixSend n) s = .next ((s.modSrc n fun x => { x with hsend := false }).sendVector (s.rd (EVC.SRC_CFG_MSIX n))) := by
  show Host.Outcome.next (if 2 ≤ s.power.sleep then s else s.msixSend n) = _
  rw [if_neg (Nat.not_le.mpr hs), State.msixSend, if_pos hh]

/-- R451: without a PBA bit there is nothing to send. -/
theorem State.flushVectors_none {s : State} (h : s.rd MSIX.PBA_PEND = 0) : s.flushVectors = s := by
  have hb (v : Nat) : bitOf 0 v = false := by simp [bitOf]
  simp [State.flushVectors, h, onesBelow, hb]

theorem exec_msixUnmask {s : State} (kind v : Nat) (hperst : s.host.perst = false) :
    exec (.msixUnmask kind v) s = .next (s.msixUnmask kind v) := by
  show Host.Outcome.next (if s.host.perst then s else s.msixUnmask kind v) = _
  rw [hperst, if_neg Bool.false_ne_true]

theorem State.rd_pba_mask (s : State) (v x : Nat) : (s.wr (MSIX.DATA_MASK (v % 64)) x).rd MSIX.PBA_PEND = s.rd MSIX.PBA_PEND :=
  State.rd_wr_ne _ _ (by simp only [Fld.key]; omega)

/-- Settles O50: the message's fate by the block of its vector; with an empty PBA an UNMASK changes the block alone. -/
theorem msixMessages : Obligations.MsixMessages := by
  refine ⟨fun s n hs hh hb => ⟨_, exec_msixSend hs hh, ?_⟩, fun s n hs hh hb => ⟨_, exec_msixSend hs hh, ?_⟩, fun s v hperst hv hpba => ?_⟩
  · have hb : (s.modSrc n fun x => { x with hsend := false }).vectorBlocked (s.rd (EVC.SRC_CFG_MSIX n)) = true := hb
    rw [State.sendVector, if_pos hb]
    refine ⟨?_, by rw [State.src_wr, State.src_modSrc_self], rfl⟩
    have hv : s.rd (EVC.SRC_CFG_MSIX n) < 64 := s.rd_lt (EVC.SRC_CFG_MSIX n)
    rw [State.rd_wr_self, bitOf_eq_testBit, Nat.testBit_mod_two_pow, ← bitOf_eq_testBit, bitOf_setBit_self, Bool.and_true, decide_eq_true hv]
  · have hb : (s.modSrc n fun x => { x with hsend := false }).vectorBlocked (s.rd (EVC.SRC_CFG_MSIX n)) = false := hb
    rw [State.sendVector, if_neg (by rw [hb]; exact Bool.false_ne_true)]
    refine ⟨?_, rfl, rfl⟩
    show ((s.modSrc n fun x => { x with hsend := false }).src n).hsend = false
    rw [State.src_modSrc_self]
  · have hmask (x : Nat) : (s.wr (MSIX.DATA_MASK (v % 64)) x).flushVectors = s.wr (MSIX.DATA_MASK v) x := by
      rw [State.flushVectors_none ((s.rd_pba_mask v x).trans hpba), Nat.mod_eq_of_lt hv]
    have hhost (x : HostX) : ({ s with host := x } : State).flushVectors = { s with host := x } := State.flushVectors_none hpba
    refine ⟨?_, ?_, ?_, ?_, ?_, ?_, ?_, ?_⟩ <;> rw [exec_msixUnmask _ _ hperst]
    · exact congrArg _ (hmask 0)
    · exact congrArg _ (hhost _)
    · exact congrArg _ (hhost _)
    · exact congrArg _ (hhost _)
    · exact congrArg _ (hmask 1)
    · exact congrArg _ (hhost _)
    · exact congrArg _ (hhost _)
    · exact congrArg _ (hhost _)

end Sys2Proof.Machine

namespace Sys2Proof.Machine

/-! ## Requests of the host (R393, R395, R444, R445, R506) -/

@[simp] theorem State.violation_mem (s : State) (m kind reason a : Nat) : (s.violation m kind reason a).mem = s.mem := by
  unfold State.violation; dsimp only; split <;> simp

@[simp] theorem State.frozenViolation_mem (s : State) (kind a : Nat) : (s.frozenViolation kind a).mem = s.mem := by
  simp [State.frozenViolation, State.drawn]

@[simp] theorem State.hostError_mem (s : State) (a st : Nat) : (s.hostError a st).mem = s.mem := by
  unfold State.hostError; dsimp only; split <;> simp

@[simp] theorem State.aerLog_mem (s : State) (hdr : List Nat) : (s.aerLog hdr).mem = s.mem := by
  unfold State.aerLog; split <;> rfl

/-- R445: AER holds a Completer Abort from then on. -/
@[simp] theorem State.aerLog_aerCa (s : State) (hdr : List Nat) : (s.aerLog hdr).host.aerCa = true := by
  unfold State.aerLog
  split
  · assumption
  · rfl

/-- R445: a Completer Abort. -/
theorem State.completerAbort_answers (s : State) (hdr : List Nat) (a st : Nat) :
    (s.completerAbort hdr a st).answer = [4] ∧ (s.completerAbort hdr a st).host.aerCa = true ∧ (s.completerAbort hdr a st).mem = s.mem := by
  simp [State.completerAbort]

/-- R393, R506: a request that freeze or a reset shuts out. -/
theorem State.hostFrozen_answers (s : State) (hdr : List Nat) (kind a : Nat) :
    (s.hostFrozen hdr kind a).answer = [4] ∧ (s.hostFrozen hdr kind a).host.aerCa = true ∧ (s.hostFrozen hdr kind a).mem = s.mem := by
  unfold State.hostFrozen
  split
  · obtain ⟨hans, haer, hmem⟩ := (s.frozenViolation kind a).completerAbort_answers hdr a 4
    exact ⟨hans, haer, hmem.trans (s.frozenViolation_mem kind a)⟩
  · exact s.drawn.completerAbort_answers hdr a (s.freeVal 4)

theorem exec_hostRead_bar4 {s : State} (off n up dev lat : Nat) (hopen : s.barsOpen = true) (hoff : off < 0x1000) :
    exec (.hostRead 4 off n up dev lat) s = .next { s.readDbg off n with answer := 0 :: (s.readDbg off n).answer } := by
  show execHostRead 4 off n up dev lat s = _
  simp [execHostRead, hopen, State.readBar4, hoff]

/-- R7: 4 or 8 aligned bytes of the DBG registers can be accessed. -/
theorem regAccessOk_dbg {off n : Nat} (hoff : off < 0x1000) (hn : off % 4 = 0 ∧ n = 4 ∨ off % 8 = 0 ∧ n = 8) :
    regAccessOk (0xA00000 + off) n = true := by
  have hunit : (unitAt ((0xA00000 + off) / 8 * 8)).isSome = true := by
    have hlt : (0xA00000 + off) / 8 * 8 < 0x1000000 := by omega
    have hdiv : (0xA00000 + off) / 8 * 8 / 0x100000 = 10 := by omega
    unfold unitAt
    dsimp only
    rw [if_pos hlt, hdiv]
    rfl
  rw [regAccessOk, hunit, Bool.and_true]
  obtain ⟨hal, rfl⟩ | ⟨hal, rfl⟩ := hn
  · rw [show (0xA00000 + off) % 4 = 0 by omega]; rfl
  · rw [show (0xA00000 + off) % 8 = 0 by omega]; rfl

/-- Settles O51: each request by the branch of its BAR that serves it. -/
theorem hostRequests : Obligations.HostRequests := by
  refine ⟨fun s bar off up dev lat data hopen => ?_, fun s t off n up dev lat l bs hopen hshut hl hr => ?_,
    fun s t off up dev lat l data hopen hshut hl hw => ?_, fun s bar off n up dev lat hopen hshut hbar => ?_,
    fun s off n up dev lat hopen hoff => ⟨_, exec_hostRead_bar4 off n up dev lat hopen hoff, rfl, rfl, rfl⟩,
    fun s off up dev lat data hopen hoff hn hfree => ?_⟩
  · show execHostWrite bar off data true up dev lat s = _
    simp [execHostWrite, hopen, State.count]
  · show execHostRead 0 off n up dev lat s = _
    simp [execHostRead, hopen, hshut, hl, hr]
  · show execHostWrite 0 off data false up dev lat s = _
    simp [execHostWrite, hopen, hshut, hl, hw]
  · have hshut : s.hostShut = true := by
      obtain h | h := hshut <;> simp [State.hostShut, h]
    refine ⟨s.hostFrozen [0, bar, off, n] 0 (s.barAddr bar off), ?_, s.hostFrozen_answers ..⟩
    show execHostRead bar off n up dev lat s = _
    simp [execHostRead, hopen, hshut, hbar]
  · have hok := regAccessOk_dbg hoff hn
    have hfree : (s.flag DBG.FRZ_STATUS_FROZEN && s.readoutShut) = false := by
      obtain h | h := hfree <;> simp [h]
    show execHostWrite 4 off data false up dev lat s = _
    simp [execHostWrite, hopen, State.writeBar4, hok, hfree, Nat.not_le.mpr hoff]

/-! ## Frames of the Convoy link (R453 to R461) -/

theorem crc8Step_lt {c : Nat} (h : c < 256) : crc8Step c < 256 := by
  unfold crc8Step
  split
  · exact Nat.xor_lt_two_pow (n := 8) (Nat.mod_lt _ (by decide)) (by decide)
  · omega

/-- CRC-8 over any step, whose reduction no proof has to follow. -/
def crcBy (f : Nat → Nat) (c : Nat) : List Nat → Nat
  | [] => c
  | b :: bs => crcBy f (f (f (f (f (f (f (f (f (Nat.xor c b))))))))) bs

theorem crc8_eq_crcBy : crc8 = crcBy crc8Step := by
  delta crc8 crcBy
  rfl

theorem crcBy_lt {f : Nat → Nat} (hf : ∀ c, c < 256 → f c < 256) {c : Nat} {bs : List Nat} (hc : c < 256) (hbs : ∀ b ∈ bs, b < 256) :
    crcBy f c bs < 256 := by
  induction bs generalizing c with
  | nil => exact hc
  | cons b bs ih =>
    have hb : Nat.xor c b < 256 := Nat.xor_lt_two_pow (n := 8) hc (hbs b List.mem_cons_self)
    exact ih (hf _ <| hf _ <| hf _ <| hf _ <| hf _ <| hf _ <| hf _ <| hf _ hb) fun b hb => hbs b (List.mem_cons_of_mem _ hb)

theorem crc8_lt {c : Nat} {bs : List Nat} (hc : c < 256) (hbs : ∀ b ∈ bs, b < 256) : crc8 c bs < 256 := by
  rw [crc8_eq_crcBy]
  exact crcBy_lt (fun _ => crc8Step_lt) hc hbs

theorem crc8_pair_mod {cmd hop : Nat} (hc : cmd < 256) (hh : hop < 256) : crc8 0 [cmd, hop] % 256 = crc8 0 [cmd, hop] :=
  Nat.mod_eq_of_lt (crc8_lt (by decide) (by simp [hc, hh]))

theorem exec_convoyFrame {cmd hop crc : Nat} (hc : cmd < 256) (hh : hop < 256) (hcrc : crc < 256) (b : Bool) (s : State) :
    exec (.convoyFrame cmd hop crc b) s = .next (s.convoyFrame cmd hop crc b) := by
  show Host.Outcome.next (s.convoyFrame (cmd % 256) (hop % 256) (crc % 256) b) = _
  rw [Nat.mod_eq_of_lt hc, Nat.mod_eq_of_lt hh, Nat.mod_eq_of_lt hcrc]

/-- R454: a frame that did not wait goes on with HOP one more. -/
theorem nextHop_prompt {hop : Nat} (h : hop < 127) : nextHop hop false = hop + 1 := by
  have hlate : bitOf hop 7 = false := by
    rw [bitOf, show hop / 2 ^ 7 = 0 by omega]; rfl
  rw [nextHop, hlate, Bool.or_false, if_neg Bool.false_ne_true]
  omega

theorem State.convoyRepeats_on {s : State} (h : s.convoyOn = true) : s.convoyRepeats = false := by
  simp only [State.convoyOn, State.convoyRepeats, Bool.and_eq_true, decide_eq_true_eq, Bool.not_eq_true'] at h ⊢
  rw [h.1, decide_eq_false (by omega), Bool.and_false]

/-- R453: a frame that a locked receiver takes, by its CRC. -/
theorem State.convoyFrame_received {s : State} {cmd hop crc : Nat} (b : Bool) (hon : s.convoyOn = true)
    (hlock : s.flag CVY.STATUS_RX_LOCK = true) (hprbs : s.flag CVY.DIAG_PRBS_EN = false) (hloop : s.flag CVY.DIAG_LOOP = false) :
    s.convoyFrame cmd hop crc b =
      if crc = crc8 0 [cmd, hop] then (s.forward (frameSyms cmd (nextHop hop b))).receiveFrame cmd hop
      else ((s.forward (deadFrame cmd (nextHop hop b))).count CVY.COUNT_BAD 1).wr CVY.STATUS_BAD_EVT 1 := by
  simp [State.convoyFrame, State.convoyRepeats_on hon, hon, hlock, hprbs, hloop]

theorem State.forward_through {s : State} (syms : List Nat) (hhead : s.flag CVY.CFG_HEAD = false)
    (hprbs : s.flag CVY.DIAG_PRBS_EN = false) (hloop : s.flag CVY.DIAG_LOOP = false) : s.forward syms = s.cvyOut syms := by
  simp [State.forward, hhead, hprbs, hloop]

/-- What every received frame writes. -/
def State.frameTaken (s : State) (cmd hop : Nat) : State :=
  (s.count CVY.COUNT_FRAMES 1).wrs [(CVY.LAST_CMD, cmd), (CVY.LAST_HOP, hop)]

/-- The fields that a received frame may write beyond those. -/
def frameFlags : List Nat := [CVY.COUNT_LATE.key, CVY.STATUS_POS.key, CVY.STATUS_ALIGNED.key, CVY.STATUS_ALIGN_ERR.key]

/-- Reads of other fields pass by the writes of the list. -/
theorem State.rd_wr_of_notMem {s : State} {f g : Fld} {v : Nat} {l : List Nat} (hf : f.key ∈ l) (hg : g.key ∉ l) : (s.wr f v).rd g = s.rd g :=
  State.rd_wr_ne _ _ fun h => hg (h ▸ hf)

theorem State.receiveFrame_taken (s : State) (cmd hop : Nat) {f : Fld} (hf : f.key ∉ frameFlags) :
    (s.receiveFrame cmd hop).rd f = (s.frameTaken cmd hop).rd f ∧ (s.receiveFrame cmd hop).cvy.out = s.cvy.out := by
  have hlate : CVY.COUNT_LATE.key ∈ frameFlags := List.mem_cons_self
  have hpos : CVY.STATUS_POS.key ∈ frameFlags := by decide
  have hal : CVY.STATUS_ALIGNED.key ∈ frameFlags := by decide
  have herr : CVY.STATUS_ALIGN_ERR.key ∈ frameFlags := by decide
  unfold State.receiveFrame
  extract_lets late s1 s2 s3 miss bad s4 s5
  have h2 : s2.rd f = s1.rd f ∧ s2.cvy.out = s.cvy.out := by
    simp only [s2]
    split
    · exact ⟨State.rd_wr_of_notMem hlate hf, rfl⟩
    · exact ⟨rfl, rfl⟩
  have h3 : s3.rd f = s1.rd f ∧ s3.cvy.out = s.cvy.out := by
    simp only [s3]
    split
    · exact ⟨((State.rd_wr_of_notMem hal hf).trans (State.rd_wr_of_notMem hpos hf)).trans h2.1, h2.2⟩
    · exact h2
  have h4 : s4.rd f = s1.rd f ∧ s4.cvy.out = s.cvy.out := by
    simp only [s4]
    split
    · exact ⟨(State.rd_wr_of_notMem herr hf).trans h3.1, h3.2⟩
    · exact h3
  have h5 : s5.rd f = s1.rd f ∧ s5.cvy.out = s.cvy.out := by
    simp only [s5]
    split
    · exact ⟨(State.rd_wr_of_notMem hal hf).trans h4.1, h4.2⟩
    · exact h4
  have hs1 : s1 = s.frameTaken cmd hop := rfl
  clear_value s5 s3
  rw [← hs1]
  split
  · exact h3
  · split
    · exact h5
    · exact ⟨(State.rd_of_regs rfl f).trans h5.1, h5.2⟩

theorem State.rd_frameTaken (s : State) (cmd hop : Nat) :
    (s.frameTaken cmd hop).rd CVY.COUNT_FRAMES = satAdd 16 (s.rd CVY.COUNT_FRAMES) 1 ∧
      (s.frameTaken cmd hop).rd CVY.LAST_CMD = cmd % 8 ∧ (s.frameTaken cmd hop).rd CVY.LAST_HOP = hop % 256 := by
  simp (disch := (simp only [Fld.key]; omega)) only [State.frameTaken, State.wrs_cons, State.wrs_nil, State.rd_wr_ne, State.rd_wr_self,
    State.rd_count_self]
  exact ⟨trivial, rfl, rfl⟩

/-- R456: an ALIGN frame aligns the device at the position of its HOP. -/
theorem State.receiveFrame_align (s : State) {hop : Nat} (h : hop < 64) :
    (s.receiveFrame 3 hop).rd CVY.STATUS_POS = hop ∧ (s.receiveFrame 3 hop).rd CVY.STATUS_ALIGNED = 1 := by
  unfold State.receiveFrame
  extract_lets late s1 s2 s3 miss bad s4 s5
  have hs3 : s3 = s2.wrs [(CVY.STATUS_POS, hop % 64), (CVY.STATUS_ALIGNED, 1)] := if_pos rfl
  have hpos : s3.rd CVY.STATUS_POS = hop := by
    simp (disch := (simp only [Fld.key]; omega)) only [hs3, State.wrs_cons, State.wrs_nil, State.rd_wr_ne, State.rd_wr_self]
    omega
  have hal : s3.rd CVY.STATUS_ALIGNED = 1 := by
    simp only [hs3, State.wrs_cons, State.wrs_nil, State.rd_wr_self]
    rfl
  have hmiss : miss = false := by
    simp only [miss, hpos, bne_eq_false_iff_eq]
    omega
  have hs5 : s5 = s4 := by
    simp only [s5, hmiss]
    rfl
  have h4 {f : Fld} (hf : CVY.STATUS_ALIGN_ERR.key ≠ f.key) : s4.rd f = s3.rd f := by
    simp only [s4]
    split
    · exact State.rd_wr_ne _ _ hf
    · rfl
  clear_value s3
  rw [if_neg (by simp), if_pos rfl, hs5, h4 (by decide), h4 (by decide)]
  exact ⟨hpos, hal⟩

/-- R454: forwarding leaves memory alone. -/
@[simp] theorem State.forward_mem (s : State) (syms : List Nat) : (s.forward syms).mem = s.mem := by
  unfold State.forward; split <;> rfl

theorem State.satAdd16_mod (v : Nat) : satAdd 16 v 1 = satAdd 16 v 1 % 2 ^ 16 := (Nat.mod_eq_of_lt (satAdd_lt 16 v 1)).symm

/-- Settles O52: by the CRC of the frame, and the equations of reception and forwarding. -/
theorem convoyFrames : Obligations.ConvoyFrames := by
  refine ⟨fun s cmd hop hon hlock hhead hprbs hloop hc hh => ⟨?_, fun crc hcrc hbad => ?_⟩,
    fun s cmd hop crc b hc hh hcrc hheld => ⟨fun hdeep => ?_, fun hs hdeaf => ?_⟩,
    fun s hop hon hlock hprbs hloop hh => ?_, fun s hon => ?_, fun s hlock => ?_⟩
  · have hexec : exec (.convoyFrame cmd hop (crc8 0 [cmd, hop]) false) s = .next ((s.cvyOut (frameSyms cmd (hop + 1))).receiveFrame cmd hop) := by
      rw [exec_convoyFrame hc (by omega) (crc8_lt (by decide) (by simp [hc]; omega)), State.convoyFrame_received false hon hlock hprbs hloop,
        if_pos rfl, nextHop_prompt hh, State.forward_through _ hhead hprbs hloop]
    have hrd {f : Fld} (hf : f.key ∉ frameFlags) := (s.cvyOut (frameSyms cmd (hop + 1))).receiveFrame_taken cmd hop hf
    obtain ⟨hcount, hcmd, hhop⟩ := (s.cvyOut (frameSyms cmd (hop + 1))).rd_frameTaken cmd hop
    refine ⟨_, hexec, ?_, ?_, ?_, (hrd (f := CVY.LAST_CMD) (by decide)).2, State.receiveFrame_mem ..⟩
    · rw [(hrd (by decide)).1, hcount]
      exact State.satAdd16_mod _
    · exact (hrd (by decide)).1.trans hcmd
    · rw [(hrd (by decide)).1, hhop]
      omega
  · have hexec : exec (.convoyFrame cmd hop crc false) s =
        .next (((s.cvyOut (deadFrame cmd (hop + 1))).count CVY.COUNT_BAD 1).wr CVY.STATUS_BAD_EVT 1) := by
      rw [exec_convoyFrame hc (by omega) hcrc, State.convoyFrame_received false hon hlock hprbs hloop, if_neg hbad, nextHop_prompt hh,
        State.forward_through _ hhead hprbs hloop]
    refine ⟨_, hexec, rfl, State.rd_wr_self .., ?_, ?_, rfl, rfl⟩
    · rw [State.rd_wr_ne _ _ (by decide), State.rd_count_self]
      exact State.satAdd16_mod _
    · rw [State.rd_wr_ne _ _ (by decide), State.rd_count_ne _ _ (by decide)]
      rfl
  · rw [exec_convoyFrame hc hh hcrc]
    simp [State.convoyFrame, State.convoyRepeats, hheld, hdeep]
  · rw [exec_convoyFrame hc hh hcrc]
    have hon : s.convoyOn = true := by simp [State.convoyOn, hheld, hs]
    obtain h | h := hdeaf <;> simp [State.convoyFrame, State.convoyRepeats_on hon, h]
  · have hexec : exec (.convoyAlign hop) s = .next ((s.forward (frameSyms 3 (nextHop hop false))).receiveFrame 3 hop) := by
      show Host.Outcome.next (s.convoyFrame 3 (hop % 256) (crc8 0 [3, hop % 256]) false) = _
      rw [Nat.mod_eq_of_lt (by omega), State.convoyFrame_received false hon hlock hprbs hloop, if_pos rfl]
    obtain ⟨hpos, hal⟩ := (s.forward (frameSyms 3 (nextHop hop false))).receiveFrame_align hh
    exact ⟨_, hexec, hpos, hal, (State.receiveFrame_mem ..).trans (State.forward_mem ..)⟩
  · show Host.Outcome.next (if s.convoyOn then _ else s) = _
    rw [if_pos hon]
  · show Host.Outcome.next (if s.flag CVY.STATUS_RX_LOCK then _ else s) = _
    rw [if_pos hlock]

/-! ## The head of the Convoy (R454, R458 to R460) -/

/-- The six commands that a write of CVY.TX gives. -/
def txCommands : List (Instr × Nat) :=
  [(.txStart, 1), (.txStop, 2), (.txAlign, 3), (.txSync, 4), (.txFreeze, 5), (.txWake, 6)]

theorem exec_tx {s : State} {i : Instr} {cmd : Nat} (ho : s.regOpen 0 CVY.TX_CMD.addr = true) (hi : (i, cmd) ∈ txCommands) :
    exec i s = .next (s.convoyTx cmd) := by
  have hat (c : Nat) : Host.Outcome.next (s.atReg 0 CVY.TX_CMD.addr fun s => s.convoyTx c) = (.next (s.convoyTx c) : Host.Outcome State Fault Refusal) := by
    rw [State.atReg_open _ ho]
  simp only [txCommands, List.mem_cons, List.not_mem_nil, or_false, Prod.mk.injEq] at hi
  obtain ⟨rfl, rfl⟩ | ⟨rfl, rfl⟩ | ⟨rfl, rfl⟩ | ⟨rfl, rfl⟩ | ⟨rfl, rfl⟩ | ⟨rfl, rfl⟩ := hi
  exacts [hat 1, hat 2, hat 3, hat 4, hat 5, hat 6]

/-- R454: what the head sends it also takes, at position 0. -/
theorem State.sendFrame_head {s : State} (cmd : Nat) (hhead : s.flag CVY.CFG_HEAD = true) (hprbs : s.flag CVY.DIAG_PRBS_EN = false) :
    s.sendFrame cmd = (s.cvyOut (frameSyms cmd 1)).receiveFrame cmd 0 := by
  simp [State.sendFrame, hhead, hprbs]

theorem State.sendFrame_prbs {s : State} (cmd : Nat) (hprbs : s.flag CVY.DIAG_PRBS_EN = true) : s.sendFrame cmd = s := by
  simp [State.sendFrame, hprbs]

theorem State.convoyTx_frame {s : State} {cmd : Nat} (hhead : s.flag CVY.CFG_HEAD = true) (h : 1 ≤ cmd ∧ cmd ≤ 5) :
    s.convoyTx cmd = s.sendFrame cmd := by
  simp [State.convoyTx, hhead, show cmd ≠ 6 by omega, h]

theorem State.convoyTx_wake {s : State} (hhead : s.flag CVY.CFG_HEAD = true) :
    s.convoyTx 6 = if s.flag CVY.DIAG_PRBS_EN then s else s.cvyOut wakeSyms := by
  simp [State.convoyTx, hhead]

theorem State.convoyTx_noHead {s : State} (cmd : Nat) (hhead : s.flag CVY.CFG_HEAD = false) :
    s.convoyTx cmd = s.wr CVY.STATUS_WR_IGN 1 := by
  simp [State.convoyTx, hhead]

/-- The fields of CVY.CFG. -/
def cvyCfgFields : List Fld :=
  [CVY.CFG_HEAD, CVY.CFG_START_EN, CVY.CFG_SYNC_EN, CVY.CFG_AUTO_SYNC, CVY.CFG_KMAX, CVY.CFG_ARRIVE_PS, CVY.CFG_BUDGET_PS]

/-- R458: a write that leaves SYNC_EN as it is takes every field of CVY.CFG. -/
theorem State.writeCvyCfg_same {s : State} {mask v : Nat} (h : s.merged CVY.CFG_SYNC_EN mask v = s.rd CVY.CFG_SYNC_EN) :
    s.writeCvyCfg mask v = s.wrs (s.mergedAll mask v cvyCfgFields) := by
  unfold State.writeCvyCfg
  extract_lets old new t
  have hnew : new = old := h
  rw [if_neg (by omega), if_neg (by omega), if_neg (by omega)]
  rfl

/-- Settles O54: the six commands through the one write of CVY.TX that gives them. -/
theorem convoyHead : Obligations.ConvoyHead := by
  have hsent (s : State) (cmd : Nat) (hhead : s.flag CVY.CFG_HEAD = true) (hprbs : s.flag CVY.DIAG_PRBS_EN = false) (hc : cmd < 8) :
      (s.sendFrame cmd).cvy.out = frameSyms cmd 1 ∧ (s.sendFrame cmd).rd CVY.LAST_CMD = cmd ∧ (s.sendFrame cmd).mem = s.mem := by
    rw [State.sendFrame_head cmd hhead hprbs]
    obtain ⟨hrd, hout⟩ := (s.cvyOut (frameSyms cmd 1)).receiveFrame_taken cmd 0 (f := CVY.LAST_CMD) (by decide)
    obtain ⟨-, hcmd, -⟩ := (s.cvyOut (frameSyms cmd 1)).rd_frameTaken cmd 0
    exact ⟨hout, by rw [hrd, hcmd, Nat.mod_eq_of_lt hc], State.receiveFrame_mem ..⟩
  refine ⟨fun s i cmd ho hhead hprbs hi => ?_, fun s ho hhead hprbs => ?_, fun s i ho hhead hprbs hi => ?_, fun s ho hhead => ?_,
    fun s hhead hauto hflag hon hprbs => ?_, fun s mask v ho h => ?_⟩
  · have htx : (i, cmd) ∈ txCommands := List.mem_append_left [(Instr.txWake, 6)] hi
    have hcmd : 1 ≤ cmd ∧ cmd ≤ 5 := by
      have hmap : cmd ∈ [1, 2, 3, 4, 5] := List.mem_map_of_mem (f := Prod.snd) hi
      simp only [List.mem_cons, List.not_mem_nil, or_false] at hmap
      omega
    exact ⟨_, (exec_tx ho htx).trans (congrArg _ (State.convoyTx_frame hhead hcmd)), hsent s cmd hhead hprbs (by omega)⟩
  · rw [exec_tx ho (cmd := 6) (by simp [txCommands]), State.convoyTx_wake hhead, hprbs, if_neg Bool.false_ne_true]
  · have hall {cmd : Nat} (hi : (i, cmd) ∈ txCommands) (hc : cmd ≠ 6 → 1 ≤ cmd ∧ cmd ≤ 5) : exec i s = .next s := by
      rw [exec_tx ho hi]
      by_cases h6 : cmd = 6
      · rw [h6, State.convoyTx_wake hhead, if_pos hprbs]
      · rw [State.convoyTx_frame hhead (hc h6), State.sendFrame_prbs _ hprbs]
    simp only [List.mem_cons, List.not_mem_nil, or_false] at hi
    obtain rfl | rfl | rfl | rfl | rfl | rfl := hi
    · exact hall (cmd := 1) (by simp [txCommands]) (by omega)
    · exact hall (cmd := 2) (by simp [txCommands]) (by omega)
    · exact hall (cmd := 3) (by simp [txCommands]) (by omega)
    · exact hall (cmd := 4) (by simp [txCommands]) (by omega)
    · exact hall (cmd := 5) (by simp [txCommands]) (by omega)
    · exact hall (cmd := 6) (by simp [txCommands]) (by omega)
  · have hign {i : Instr} {cmd : Nat} (hi : (i, cmd) ∈ txCommands) : exec i s = .next (s.wr CVY.STATUS_WR_IGN 1) := by
      rw [exec_tx ho hi, State.convoyTx_noHead cmd hhead]
    exact ⟨hign (cmd := 1) (by simp [txCommands]), hign (cmd := 2) (by simp [txCommands]), hign (cmd := 3) (by simp [txCommands]),
      hign (cmd := 4) (by simp [txCommands]), hign (cmd := 5) (by simp [txCommands]), hign (cmd := 6) (by simp [txCommands])⟩
  · obtain ⟨hout, -, hmem⟩ := hsent s 4 hhead hprbs (by decide)
    refine ⟨_, ?_, hout, hmem⟩
    show Host.Outcome.next (if s.flag CVY.CFG_HEAD && s.flag CVY.CFG_AUTO_SYNC && !s.flag CVY.STATUS_FLAG_OUT && s.convoyOn then s.sendFrame 4
      else s) = _
    simp [hhead, hauto, hflag, hon]
  · have hexec : exec (.cvyCfgWrite mask v) s = .next (s.wrs (s.mergedAll mask v cvyCfgFields)) := by
      show Host.Outcome.next (s.atReg 0 CVY.CFG_HEAD.addr fun s => s.writeCvyCfg mask v) = _
      rw [State.atReg_open _ ho, State.writeCvyCfg_same h]
    have hnodup : (cvyCfgFields.map Fld.key).Nodup := by decide
    refine ⟨_, hexec, ?_, ?_, State.wrs_mem ..⟩
    · rw [State.rd_wrs_mergedAll hnodup (by simp [cvyCfgFields])]
      exact (Nat.mod_eq_of_lt (s.merged_lt CVY.CFG_HEAD mask v)).symm
    · rw [State.rd_wrs_mergedAll hnodup (by simp [cvyCfgFields])]
      exact (Nat.mod_eq_of_lt (s.merged_lt ..)).symm

end Sys2Proof.Machine

namespace Sys2Proof.Machine

/-! ## Output banks and functions of the general-purpose pins (R467 to R469) -/

theorem bitOf_lor (v w i : Nat) : bitOf (Nat.lor v w) i = (bitOf v i || bitOf w i) := by
  simp only [bitOf_eq_testBit]; exact Nat.testBit_or ..

theorem bitOf_land (v w i : Nat) : bitOf (Nat.land v w) i = (bitOf v i && bitOf w i) := by
  simp only [bitOf_eq_testBit]; exact Nat.testBit_and ..

theorem bitOf_mod_two_pow (v : Nat) {w i : Nat} (h : i < w) : bitOf (v % 2 ^ w) i = bitOf v i := by
  rw [bitOf_eq_testBit, Nat.testBit_mod_two_pow, decide_eq_true h, Bool.true_and, bitOf_eq_testBit]

theorem bitOf_notW (v : Nat) {w i : Nat} (h : i < w) : bitOf (notW v w) i = !bitOf v i := by
  rw [← bitOf_mod_two_pow v h, bitOf_eq_testBit, bitOf_eq_testBit, notW, Nat.sub_sub, Nat.add_comm 1,
    Nat.testBit_two_pow_sub_succ (Nat.mod_lt _ (Nat.two_pow_pos _)), decide_eq_true h, Bool.true_and]

theorem State.pinHold_none {s : State} {n : Nat} (h : s.gpio.holds.any (·.pin == n) = false) : s.pinHold n = none :=
  List.find?_eq_none.mpr (List.any_eq_false.mp h)

/-- What a hold of pin `n` that starts in `s` keeps (R468). -/
def State.newHold (s : State) (n : Nat) : PinHold :=
  { pin := n, func := s.rd (GPIO.PIN_FUNC n), sel := s.rd (GPIO.PIN_SEL n)
    level := ((s.pinOut n).map fun p => b2n p.2).getD (s.freeVal 3 % 2)
    oe := ((s.pinOut n).map fun p => b2n p.1).getD (s.freeVal 3 / 2 % 2)
    inp := ((s.pinIn n).map b2n).getD (s.freeVal 3 / 4) }

theorem State.newHold_drives {s : State} {n : Nat} {p : Bool × Bool} (h : s.pinOut n = some p) :
    (s.newHold n).oe = b2n p.1 ∧ (s.newHold n).level = b2n p.2 := by
  simp [State.newHold, h]

/-- R468: the hold of a pin that has none. -/
theorem State.holdPin_starts {s : State} {n : Nat} (h : s.pinHold n = none) :
    (s.holdPin n).rd (GPIO.PIN_HOLD n) = 1 ∧ (s.holdPin n).gpio.holds = s.gpio.holds ++ [s.newHold n] := by
  have hnew : s.holdPin n = { s.drawn.wr (GPIO.PIN_HOLD n) 1 with gpio := { s.gpio with holds := s.gpio.holds ++ [s.newHold n] } } := by
    simp only [State.holdPin, h]; rfl
  rw [hnew]
  exact ⟨State.rd_wr_self s.drawn (GPIO.PIN_HOLD n) 1, rfl⟩

/-- The fields of PINn that a write takes. -/
def pinFields (n : Nat) : List Fld :=
  [GPIO.PIN_FUNC n, GPIO.PIN_SEL n, GPIO.PIN_DRIVE n, GPIO.PIN_PULL n, GPIO.PIN_SLOW n, GPIO.PIN_OD n, GPIO.PIN_SCHMITT n]

theorem keys_pinFields (n : Nat) : (pinFields n).map Fld.key = [0, 4, 16, 18, 20, 21, 22].map (64 * (0x700400 + 0x8 * n) + ·) := rfl

theorem nodup_pinFields (n : Nat) : ((pinFields n).map Fld.key).Nodup := by
  rw [keys_pinFields]
  exact List.Nodup.map (fun _ _ h => Nat.add_left_cancel h) (by decide)

theorem hold_notMem_pinFields (n : Nat) : (GPIO.PIN_HOLD n).key ∉ (pinFields n).map Fld.key := by
  rw [keys_pinFields, List.mem_map]
  rintro ⟨x, hx, h⟩
  have : x = 24 := Nat.add_left_cancel h
  subst this
  exact absurd hx (by decide)

theorem State.writePin_change {s : State} {n mask v : Nat} (hok : funcOk n (s.merged (GPIO.PIN_FUNC n) mask v) = true)
    (hne : s.merged (GPIO.PIN_FUNC n) mask v ≠ s.rd (GPIO.PIN_FUNC n)) :
    s.writePin n mask v = (s.holdPin n).wrs (s.mergedAll mask v (pinFields n)) := by
  simp only [State.writePin, hok, Bool.not_true, Bool.false_and, if_neg Bool.false_ne_true, if_pos (Or.inl hne : _ ∨ _)]
  rfl

@[simp] theorem State.wrs_gpio (s : State) (l : List (Fld × Nat)) : (s.wrs l).gpio = s.gpio := by
  rw [(onlyRegs_wrs s l).1]

/-- R468: in a hold the old function stands. -/
theorem State.pinFunc_held {s : State} {n : Nat} {h : PinHold} {hs : List PinHold} (hn : hs.find? (·.pin == n) = none)
    (hholds : s.gpio.holds = hs ++ [h]) (hpin : h.pin = n) : s.pinFunc n = h.func := by
  have hfind : s.pinHold n = some h := by
    rw [State.pinHold, hholds, List.find?_append, hn]
    simp [hpin]
  rw [State.pinFunc, hfind]
  rfl

theorem State.rd_outSet (s : State) (k v : Nat) {i : Nat} (hi : i < 32) :
    bitOf ((s.outSet k v).rd (GPIO.OUT_OUT k)) i = (bitOf (s.rd (GPIO.OUT_OUT k)) i || bitOf v i) := by
  rw [State.outSet, State.rd_wr_self, bitOf_mod_two_pow _ hi, bitOf_lor, bitOf_mod_two_pow _ hi]

theorem State.rd_outClr (s : State) (k v : Nat) {i : Nat} (hi : i < 32) :
    bitOf ((s.outClr k v).rd (GPIO.OUT_OUT k)) i = (bitOf (s.rd (GPIO.OUT_OUT k)) i && !bitOf v i) := by
  rw [State.outClr, State.rd_wr_self, bitOf_mod_two_pow _ hi, bitOf_land, bitOf_notW _ hi]

/-- Settles O55: the bits of a bank by those of the two words; a change of function by the hold that it starts. -/
theorem gpioBanksAndPinFunctions : Obligations.GpioBanksAndPinFunctions := by
  refine ⟨fun s k v hk => ⟨fun ho => ⟨s.outSet k v, ?_, onlyRegs_wr .., fun i hi => s.rd_outSet k v hi⟩,
      fun ho => ⟨s.outClr k v, ?_, onlyRegs_wr .., fun i hi => s.rd_outClr k v hi⟩⟩,
    fun s n mask v hn => ⟨fun ho hfree hok hne => ?_, s.endHold n, ?_, State.rd_wr_self .., ?_⟩⟩
  · show Host.Outcome.next (s.atReg 0 (GPIO.OUT_SET_OUT k).addr fun s => if k < 3 then s.outSet k v else s) = _
    rw [State.atReg_open _ ho, if_pos hk]
  · show Host.Outcome.next (s.atReg 0 (GPIO.OUT_CLR_OUT k).addr fun s => if k < 3 then s.outClr k v else s) = _
    rw [State.atReg_open _ ho, if_pos hk]
  · have hnone := State.pinHold_none hfree
    obtain ⟨hhold, hholds⟩ := State.holdPin_starts hnone
    have hholds' : ((s.holdPin n).wrs (s.mergedAll mask v (pinFields n))).gpio.holds = s.gpio.holds ++ [s.newHold n] := by
      rw [State.wrs_gpio, hholds]
    refine ⟨(s.holdPin n).wrs (s.mergedAll mask v (pinFields n)), s.newHold n, ?_, ?_, ?_, ?_, hholds', rfl, rfl,
      State.pinFunc_held hnone hholds' rfl, fun p hp => State.newHold_drives hp⟩
    · show Host.Outcome.next (s.atReg 0 (GPIO.PIN_FUNC n).addr fun s => if n < 96 then s.writePin n mask v else s) = _
      rw [State.atReg_open _ ho, if_pos hn, State.writePin_change hok hne]
    · rw [State.rd_wrs_mergedAll (nodup_pinFields n) List.mem_cons_self]
      exact (Nat.mod_eq_of_lt (s.merged_lt (GPIO.PIN_FUNC n) mask v)).symm
    · rw [State.rd_wrs_mergedAll (nodup_pinFields n) (by simp [pinFields])]
      exact (Nat.mod_eq_of_lt (s.merged_lt (GPIO.PIN_SEL n) mask v)).symm
    · rw [State.rd_wrs_mergedAll_ne (hold_notMem_pinFields n), hhold]
  · show Host.Outcome.next (if n < 96 then s.endHold n else s) = _
    rw [if_pos hn]
  · simp [State.endHold, List.all_filter]

/-! ## Pattern-match units and timers (R470, R475) -/

theorem OnlyRegs.mono {s t : State} {ks ls : List Nat} (h : OnlyRegs s t ks) (hsub : ks ⊆ ls) : OnlyRegs s t ls :=
  ⟨h.1, fun f hf => h.2 f fun hk => hf (hsub hk)⟩

/-- R470: with no pin in the mask the condition holds. -/
theorem State.patternCond_unmasked {s : State} {k : Nat} (h : s.rd (GPIO.PM_CFG_MASK k) = 0) : s.patternCond k = some true := by
  have hb (v : Nat) : bitOf 0 v = false := by simp [bitOf]
  simp [State.patternCond, h, onesBelow, hb]

theorem b2n_mod_two (b : Bool) : b2n b % 2 = b2n b := by cases b <;> rfl

/-- R470: HIT by the mode and the edge of D. -/
theorem State.rd_patternChange (s : State) (k : Nat) (c : Bool) :
    (s.patternChange k c).rd (GPIO.PM_STATUS_D k) = b2n c ∧
    (s.patternChange k c).rd (GPIO.PM_STATUS_HIT k) =
      (if (s.rd (GPIO.PM_CFG_MODE k) = 2 ∧ c = true ∧ s.flag (GPIO.PM_STATUS_D k) = false) ∨
          (s.rd (GPIO.PM_CFG_MODE k) = 3 ∧ c = false ∧ s.flag (GPIO.PM_STATUS_D k) = true)
        then 1 else s.rd (GPIO.PM_STATUS_HIT k)) ∧
    OnlyRegs s (s.patternChange k c) [(GPIO.PM_STATUS_D k).key, (GPIO.PM_STATUS_HIT k).key] := by
  unfold State.patternChange
  extract_lets rise fall hit t
  have hhit : hit = true ↔ (s.rd (GPIO.PM_CFG_MODE k) = 2 ∧ c = true ∧ s.flag (GPIO.PM_STATUS_D k) = false) ∨
      (s.rd (GPIO.PM_CFG_MODE k) = 3 ∧ c = false ∧ s.flag (GPIO.PM_STATUS_D k) = true) := by
    simp [hit, rise, fall]
  have hd : t.rd (GPIO.PM_STATUS_D k) = b2n c := (State.rd_wr_self ..).trans (b2n_mod_two c)
  have ht : OnlyRegs s t [(GPIO.PM_STATUS_D k).key] := onlyRegs_wr ..
  simp only [← hhit]
  split
  · refine ⟨?_, State.rd_wr_self .., ht.trans (onlyRegs_wr ..)⟩
    rw [State.rd_wr_ne _ _ (by simp only [Fld.key]; omega), hd]
  · exact ⟨hd, State.rd_wr_ne _ _ (by simp only [Fld.key]; omega), ht.mono (by simp)⟩

theorem State.capture_writes (s : State) {k n : Nat} (hk : k < 8) (hn : n < 2 ^ 32) :
    let t := s.wrs [(GPIO.TMRC_CAP k, n), (GPIO.PERIPH_EVT_CAP_EVT, setBit (s.rd GPIO.PERIPH_EVT_CAP_EVT) k)]
    t.rd (GPIO.TMRC_CAP k) = n ∧ bitOf (t.rd GPIO.PERIPH_EVT_CAP_EVT) k = true := by
  simp (disch := (simp only [Fld.key]; omega)) only [State.wrs_cons, State.wrs_nil, State.rd_wr_ne, State.rd_wr_self]
  exact ⟨Nat.mod_eq_of_lt hn, (bitOf_mod_two_pow _ hk).trans (bitOf_setBit_self ..)⟩

/-- Settles O56: the change of D and the edge of a capture by their equations. -/
theorem gpioPatternAndTimers : Obligations.GpioPatternAndTimers := by
  refine ⟨fun s k v c hk hs hc => ?_, fun s k hk hs hcap => ?_, fun s k n p hk hn hs hcap hp hfree => ?_⟩
  · obtain ⟨hd, hhit, honly⟩ := s.rd_patternChange k c
    refine ⟨s.patternChange k c, ?_, hd, fun hm => ?_, hhit, honly⟩
    · show Host.Outcome.next (if 4 ≤ k ∨ (2 ≤ s.power.sleep ∧ k ≠ 0) then s else s.patternChange k ((s.patternCond k).getD v)) = _
      rw [if_neg (by omega), hc]
    · rw [hc, State.patternCond_unmasked hm]
      rfl
  · refine ⟨{ s with gpio := { s.gpio with pwm := Tab.set (0, 0) s.gpio.pwm k (s.rd (GPIO.TMR_PERIOD k), s.rd (GPIO.TMR_DUTY k)) } },
      ?_, Tab.get_set_self .., rfl⟩
    show execTimerPeriodEnd k s = _
    simp [execTimerPeriodEnd, hcap, Nat.not_le.mpr hs, Nat.not_le.mpr hk]
  · have hexec : exec (.capture k n) s = .next (if bankAbsent p = true then s
        else s.wrs [(GPIO.TMRC_CAP k, n), (GPIO.PERIPH_EVT_CAP_EVT, setBit (s.rd GPIO.PERIPH_EVT_CAP_EVT) k)]) := by
      show execCapture k n s = _
      cases hb : bankAbsent p <;> simp [execCapture, hcap, hs, hk, hp, State.pinListens, hfree, hb]
    refine ⟨_, hexec, fun hb => if_pos hb, fun hb => ?_, ?_⟩
    · rw [if_neg (by rw [hb]; exact Bool.false_ne_true)]
      exact s.capture_writes hk hn
    · split
      · exact ⟨rfl, fun _ _ => rfl⟩
      · exact onlyRegs_wrs ..

/-! ## The handler interface (R472) -/

/-- R472: what a start of test leaves. -/
theorem State.hpiSot_starts (s : State) :
    s.hpiSot.rd GPIO.HPI_STATUS_SOT = 1 ∧ s.hpiSot.gpio = { s.gpio with hpi := .idle, bin := 0xFF, eotLow := false } ∧
      (s.gpio.hpi ≠ .idle → s.hpiSot.rd GPIO.HPI_STATUS_CUT = 1 ∧ s.hpiSot.rd GPIO.HPI_STATUS_BUSY = 0) := by
  unfold State.hpiSot
  extract_lets _ _ t
  have ht : t.rd GPIO.HPI_STATUS_SOT = 1 := State.rd_wr_self s GPIO.HPI_STATUS_SOT 1
  split
  next h => exact ⟨ht, rfl, fun hne => absurd h hne⟩
  next h =>
    refine ⟨?_, rfl, fun _ => ?_⟩
    · rw [State.wrs_cons, State.wrs_cons, State.wrs_nil, State.rd_wr_ne _ _ (by decide), State.rd_wr_ne _ _ (by decide), ht]
    · rw [State.wrs_cons, State.wrs_cons, State.wrs_nil, State.rd_wr_self, State.rd_wr_ne _ _ (by decide), State.rd_wr_self]
      exact ⟨rfl, rfl⟩

/-- Settles O57: each event of the interface by its guard. -/
theorem handlerInterface : Obligations.HandlerInterface := by
  refine ⟨fun s hs hpins hhold => ?_, fun s ho hpins hbusy => ?_, fun s ho hbusy => ?_, fun s hs hset hrdy => ?_, fun s hs hstrobe => ?_,
    fun s hs hset hwait => ?_, fun s hs => ?_⟩
  · have hexec : exec .sot s = .next (if bankAbsent 32 = true then s else s.hpiSot) := by
      show execSot s = _
      cases hb : bankAbsent 32 <;> simp [execSot, hs, hpins, State.pinListens, hhold, hb]
    obtain ⟨hsot, hgpio, hcut⟩ := s.hpiSot_starts
    refine ⟨_, hexec, fun hb => if_pos hb, fun hb => ?_⟩
    rw [if_neg (by rw [hb]; exact Bool.false_ne_true), hgpio]
    exact ⟨hsot, rfl, rfl, rfl, hcut⟩
  · refine ⟨{ s.wr GPIO.HPI_STATUS_BUSY 1 with gpio := { s.gpio with hpi := .setup, bin := s.rd GPIO.HPI_CTRL_BIN } }, ?_,
      State.rd_wr_self s GPIO.HPI_STATUS_BUSY 1, rfl, rfl⟩
    show Host.Outcome.next (s.atReg 0 GPIO.HPI_CTRL_EOT.addr fun s => s.hpiEot) = _
    rw [State.atReg_open _ ho, State.hpiEot, if_neg (by rw [hbusy]; exact Bool.false_ne_true), if_pos hpins]
  · show Host.Outcome.next (s.atReg 0 GPIO.HPI_CTRL_EOT.addr fun s => s.hpiEot) = _
    rw [State.atReg_open _ ho, State.hpiEot, if_pos hbusy]
  · show execBinSetupEnd s = _
    obtain h | h := hrdy <;> simp [execBinSetupEnd, hs, hset, h]
  · refine ⟨{ s.wrs [(GPIO.HPI_STATUS_DONE, 1), (GPIO.HPI_STATUS_BUSY, 0)] with gpio := { s.gpio with hpi := .idle, eotLow := true } },
      ?_, ?_, ?_, rfl⟩
    · show execStrobeEnd s = _
      simp [execStrobeEnd, hs, hstrobe]
    · rw [State.rd_mk, State.wrs_cons, State.wrs_cons, State.wrs_nil, State.rd_wr_ne _ _ (by decide), State.rd_wr_self]
      rfl
    · rw [State.rd_mk, State.wrs_cons, State.wrs_cons, State.wrs_nil, State.rd_wr_self]
      rfl
  · refine ⟨{ s.wrs [(GPIO.HPI_STATUS_RDY_TO, 1), (GPIO.HPI_STATUS_BUSY, 0)] with gpio := { s.gpio with hpi := .idle } }, ?_, ?_, ?_, rfl⟩
    · show execRdyTimeout s = _
      simp [execRdyTimeout, hs, hset, hwait]
    · rw [State.rd_mk, State.wrs_cons, State.wrs_cons, State.wrs_nil, State.rd_wr_ne _ _ (by decide), State.rd_wr_self]
      rfl
    · rw [State.rd_mk, State.wrs_cons, State.wrs_cons, State.wrs_nil, State.rd_wr_self]
      rfl
  · have hdeep : ¬ s.power.sleep < 2 := Nat.not_lt.mpr hs
    refine ⟨?_, ?_, ?_, ?_⟩
    · show execSot s = _
      simp [execSot, hdeep]
    · show execBinSetupEnd s = _
      simp [execBinSetupEnd, hdeep]
    · show execStrobeEnd s = _
      simp [execStrobeEnd, hdeep]
    · show execRdyTimeout s = _
      simp [execRdyTimeout, hdeep]

/-! ## PMBus alert and the serial controllers (R473, R474, R476) -/

@[simp] theorem State.serial_setSerial_self (s : State) (i : Nat) (x : SerialX) : (s.setSerial i x).serial i = x := Tab.get_set_self ..

@[simp] theorem State.setSerial_regs (s : State) (i : Nat) (x : SerialX) : (s.setSerial i x).regs = s.regs := rfl

@[simp] theorem State.serial_wr (s : State) (f : Fld) (v i : Nat) : (s.wr f v).serial i = s.serial i := rfl

theorem State.pinFunc_free {s : State} {n : Nat} (h : s.pinHold n = none) : s.pinFunc n = s.rd (GPIO.PIN_FUNC n) := by
  rw [State.pinFunc, h]
  rfl

/-- R465: a pin whose function leaves it to a bus shows no level that the device fixes. -/
theorem State.pinSeen_bus {s : State} {n : Nat} (hhold : s.pinHold n = none) (hpads : s.gpio.pads = []) (hf : s.rd (GPIO.PIN_FUNC n) = 4) :
    s.pinSeen n ≠ some true := by
  have hout : s.pinOut n = if bankAbsent n then some (false, false) else none := by
    simp only [State.pinOut, hpads, List.getElem?_nil, hhold, hf]
  cases hb : bankAbsent n <;> simp [State.pinSeen, hhold, State.pinIn, hb, hout]

/-- Settles O58: each event of a controller by the equation of its record. -/
theorem serialControllers : Obligations.SerialControllers := by
  refine ⟨fun s hs hf hhold hpads => ?_, fun s i len hi hlen ho hidle => ?_, fun s i sent got hi hs hrun => ?_,
    fun s i v hi hv hs hf hhold hroom => ?_⟩
  · show execPmbAlert s = _
    simp [execPmbAlert, hs, State.pinFunc_free hhold, hf, State.pinSeen_bus hhold hpads hf]
  · refine ⟨s.setSerial i { s.serial i with left := some len }, ?_, by rw [State.serial_setSerial_self], by rw [State.serial_setSerial_self], rfl⟩
    show Host.Outcome.next (s.atReg 0 0x701018 fun s => s.serialGo i (len % 256)) = _
    rw [State.atReg_open _ ho, Nat.mod_eq_of_lt hlen]
    simp [State.serialGo, hidle, Nat.not_le.mpr hi]
  · have hexec : exec (.transferEnd i sent got false) s = .next ((s.setSerial i
        { s.serial i with tx := (s.serial i).tx.drop sent, rx := ((s.serial i).rx ++ got.map (· % 256)).take 16, left := none }).serialEvent i) := by
      show execTransferEnd i sent got false s = _
      simp [execTransferEnd, hs, hrun, show i < 8 by omega, State.transferEnd, show i < 6 by omega]
    refine ⟨_, hexec, ?_⟩
    rw [State.serialEvent, if_pos hi, State.serial_wr, State.serial_setSerial_self, State.rd_wr_self]
    exact ⟨rfl, rfl, (bitOf_mod_two_pow _ hi).trans (bitOf_setBit_self ..)⟩
  · have hexec : exec (.uartRx i v false) s = .next (if bankAbsent (17 + 2 * i) = true then s
        else (s.setSerial (6 + i) { s.serial (6 + i) with rx := (s.serial (6 + i)).rx ++ [v] }).serialEvent (6 + i)) := by
      show execUartRx i v false s = _
      cases hb : bankAbsent (17 + 2 * i) <;>
        simp [execUartRx, Nat.not_le.mpr hs, Nat.not_le.mpr hi, State.pinFunc_free hhold, hf, State.pinListens, hhold, hb, hroom,
          Nat.mod_eq_of_lt hv]
    refine ⟨_, hexec, fun hb => if_pos hb, fun hb => ?_⟩
    rw [if_neg (by rw [hb]; exact Bool.false_ne_true), State.serialEvent, if_neg (by omega), if_neg (by omega), Nat.add_sub_cancel_left,
      State.serial_wr, State.serial_setSerial_self, State.rd_wr_self]
    exact ⟨rfl, (bitOf_mod_two_pow _ hi).trans (bitOf_setBit_self ..)⟩

end Sys2Proof.Machine

namespace Sys2Proof.Machine

/-! ## The resources of a slice (R493, R494) -/

/-- R494: whether the resources of a slice are free stands outside the registers of the self-test unit. -/
theorem State.sliceFree_congr {s t : State} (hrd : ∀ f : Fld, ¬ IsSelfTest f → t.rd f = s.rd f) (hblocks : t.blocks = s.blocks)
    (hbonds : t.bonds = s.bonds) (k target lane : Nat) : t.sliceFree k target lane = s.sliceFree k target lane := by
  have hwin (f : Fld) (h : 0x1000000 ≤ f.addr) : t.rd f = s.rd f :=
    hrd f (by simp only [IsSelfTest, Fld.key]; omega)
  have hbusy (c : Nat) : t.cellBusy c = s.cellBusy c :=
    State.cellBusy_congr (hwin _ (by simp only [cellBase]; omega)) (hwin _ (by simp only [cellBase]; omega))
      fun l => hwin _ (by simp only [cellBase]; omega)
  have hlane (b n : Nat) : t.laneFree b n = s.laneFree b n := by
    simp (disch := (simp only [cellBase]; omega)) only [State.laneFree, hbusy, State.enabled, State.leadOf, State.flag, hbonds, hwin]
  have hon (b : Nat) : t.blockOn b = s.blockOn b := by
    rw [State.blockOn, hrd _ (by simp only [IsSelfTest, Fld.key]; omega), State.blockOn]
  have hstream (r : Nat) : t.noStream r = s.noStream r := by
    simp (disch := (simp only [cellBase]; omega)) only [State.noStream, State.flag, hwin]
  have hlink : t.rd PCI.STATUS_LINK_UP = s.rd PCI.STATUS_LINK_UP := hrd _ (by simp only [IsSelfTest, Fld.key]; omega)
  unfold State.sliceFree
  simp (disch := (simp only [blockBase, regionBase]; omega)) only [hon, hstream, funext (hlane target), State.flag, State.block, hblocks, hwin, hlink]

theorem State.sliceFree_iff (s : State) {k : Nat} (hk : k < 8) (target lane : Nat) :
    s.sliceFree k target lane = true ↔ s.SliceReady k target lane := by
  unfold State.SliceReady
  interval_cases k <;> simp [State.sliceFree, and_assoc]

theorem sliceExpect_lt (k : Nat) : sliceExpect k < 2 ^ 13 := by
  unfold sliceExpect
  rcases Nat.lt_or_ge k 8 with hk | hk
  · interval_cases k <;> decide
  · rw [List.getD_eq_default _ _ hk]
    decide

/-! ## Requests of a slice (R494, R499) -/

/-- The word that SLICE_GO writes. -/
theorem runWord_fields {k target lane : Nat} (hk : k < 8) (ht : target < 32) (hl : lane < 32) :
    bits (k + 256 * target + 65536 * lane + 2 ^ 63) 0 3 = k ∧ bits (k + 256 * target + 65536 * lane + 2 ^ 63) 8 5 = target ∧
      bits (k + 256 * target + 65536 * lane + 2 ^ 63) 16 5 = lane ∧ bitOf (k + 256 * target + 65536 * lane + 2 ^ 63) 63 = true := by
  simp only [bits, bitOf, beq_iff_eq]
  omega

/-- The state in which the hub judges the request: RUN holds its fields. -/
def State.runAsked (s : State) (k target lane : Nat) : State :=
  s.wrs [(BST.RUN_SLICE, k), (BST.RUN_TARGET, target), (BST.RUN_LANE, lane)]

theorem State.rd_runAsked (s : State) (k target lane : Nat) {f : Fld} (h : 64 * 0xB00000 + 63 ≤ f.key ∨ f.key < 64 * 0xB00000) :
    (s.runAsked k target lane).rd f = s.rd f := by
  simp only [Fld.key] at h
  simp (disch := (simp only [Fld.key]; omega)) only [State.runAsked, State.wrs_cons, State.wrs_nil, State.rd_wr_ne]

theorem exec_sliceGo {s : State} {k target lane : Nat} (hk : k < 8) (ht : target < 32) (hl : lane < 32)
    (ho : s.regOpen 0 BST.RUN_GO.addr = true) : exec (.sliceGo k target lane) s = .next ((s.runAsked k target lane).sliceGo k target lane) := by
  obtain ⟨hfk, hft, hfl, hgo⟩ := runWord_fields hk ht hl
  have hmask : bitOf (Nat.land (2 ^ 64 - 1) (k + 256 * target + 65536 * lane + 2 ^ 63)) 63 = true := by
    rw [bitOf_land, hgo]
    rfl
  show Host.Outcome.next (s.atReg 0 BST.RUN_GO.addr fun s =>
    s.writeRun (2 ^ 64 - 1) (k % 8 + 256 * (target % 32) + 65536 * (lane % 32) + 2 ^ 63)) = _
  rw [State.atReg_open _ ho, Nat.mod_eq_of_lt hk, Nat.mod_eq_of_lt ht, Nat.mod_eq_of_lt hl, State.writeRun]
  simp only [List.map_cons, List.map_nil, State.merged_covered _ BST.RUN_SLICE _ (mask := 2 ^ 64 - 1) (by decide),
    State.merged_covered _ BST.RUN_TARGET _ (mask := 2 ^ 64 - 1) (by decide), State.merged_covered _ BST.RUN_LANE _ (mask := 2 ^ 64 - 1) (by decide),
    hfk, hft, hfl, hmask, if_true]
  have hrd : (s.runAsked k target lane).rd BST.RUN_SLICE = k ∧ (s.runAsked k target lane).rd BST.RUN_TARGET = target ∧
      (s.runAsked k target lane).rd BST.RUN_LANE = lane := by
    simp (disch := (simp only [Fld.key]; omega)) only [State.runAsked, State.wrs_cons, State.wrs_nil, State.rd_wr_ne, State.rd_wr_self]
    exact ⟨Nat.mod_eq_of_lt hk, Nat.mod_eq_of_lt ht, Nat.mod_eq_of_lt hl⟩
  obtain ⟨hrk, hrt, hrl⟩ := hrd
  show Host.Outcome.next ((s.runAsked k target lane).sliceGo ((s.runAsked k target lane).rd BST.RUN_SLICE)
    ((s.runAsked k target lane).rd BST.RUN_TARGET) ((s.runAsked k target lane).rd BST.RUN_LANE)) = _
  rw [hrk, hrt, hrl]

/-- R493, R497: what a slice that starts shows. -/
theorem State.sliceStart_shows (s : State) {k target : Nat} (hk : k < 8) (ht : target < 32) (lane : Nat) :
    (s.sliceStart k target lane).bst.run = some (k, sliceTarget k target, lane) ∧ (s.sliceStart k target lane).rd BST.RUN_GO = 1 ∧
      (s.sliceStart k target lane).rd BST.RESULT_STEPS = 0 ∧ (s.sliceStart k target lane).rd BST.RESULT_EXPECT = sliceExpect k ∧
      (s.sliceStart k target lane).rd BST.SIG_SIG = 256 * k + sliceTarget k target ∧
      (s.sliceStart k target lane).rd BST.COUNT_RUNS = satAdd 16 (s.rd BST.COUNT_RUNS) 1 ∧ (s.sliceStart k target lane).mem = s.mem := by
  have hsig : 256 * k + sliceTarget k target < 2 ^ 64 := by
    unfold sliceTarget
    split <;> omega
  unfold State.sliceStart
  refine ⟨by rw [State.count, State.wr_bst, (onlyRegs_wrs _ _).1], ?_⟩
  simp (disch := (simp only [Fld.key]; omega)) only [State.wrs_cons, State.wrs_nil, State.rd_count_self, State.rd_count_ne, State.rd_wr_ne,
    State.rd_wr_self]
  exact ⟨rfl, rfl, Nat.mod_eq_of_lt (sliceExpect_lt k), Nat.mod_eq_of_lt hsig, rfl, rfl⟩

/-- R494: the state of a request that finds its resources taken. -/
theorem State.sliceGo_notRun {s : State} {k target lane : Nat} (hrun : s.bst.run = none) (ht : targetOk k target = true)
    (h : (s.rd LC.STATE_STATE != 7 && !s.frozen && s.sliceFree k target lane) = false) :
    (s.sliceGo k target lane).rd BST.RESULT_RESULT = 5 ∧ (s.sliceGo k target lane).bst = s.bst ∧ (s.sliceGo k target lane).mem = s.mem := by
  have hgo : s.sliceGo k target lane = s.wrs [(BST.RESULT_RESULT, 5), (BST.RESULT_DONE, 0), (BST.RESULT_STEPS, 0),
      (BST.RESULT_EXPECT, sliceExpect k), (BST.RESULT_SLICE, k), (BST.EVT_DONE, 1)] := by
    simp only [State.sliceGo, hrun, ht, h]
    rfl
  rw [hgo]
  refine ⟨?_, by rw [(onlyRegs_wrs _ _).1], State.wrs_mem ..⟩
  simp (disch := (simp only [Fld.key]; omega)) only [State.wrs_cons, State.wrs_nil, State.rd_wr_ne, State.rd_wr_self]
  rfl

/-! ## Steps and ends of a slice (R495, R497, R498) -/

theorem exec_sliceStep_idle {s : State} (pass : Bool) (meas : Nat) (h : s.bst.run = none ∨ s.rd BST.RESULT_EXPECT ≤ s.rd BST.RESULT_STEPS) :
    exec (.sliceStep pass meas) s = .next s := by
  show execSliceStep pass meas s = _
  obtain h | h := h
  · simp [execSliceStep, h]
  · simp [execSliceStep, Nat.not_lt.mpr h]

theorem exec_sliceStep {s : State} (pass : Bool) (meas : Nat) (hrun : s.bst.run ≠ none) (h : s.rd BST.RESULT_STEPS < s.rd BST.RESULT_EXPECT) :
    exec (.sliceStep pass meas) s = .next (s.sliceStep pass meas) := by
  show execSliceStep pass meas s = _
  simp [execSliceStep, Option.isSome_iff_ne_none.mpr hrun, h]

/-- R497: the count and the signature after a step, and where the first failing step stands. -/
theorem State.rd_sliceStep (s : State) (pass : Bool) (meas : Nat) (h : s.rd BST.RESULT_STEPS < s.rd BST.RESULT_EXPECT) :
    (s.sliceStep pass meas).rd BST.RESULT_STEPS = s.rd BST.RESULT_STEPS + 1 ∧ (s.sliceStep pass meas).bst = s.bst ∧
      (s.sliceStep pass meas).mem = s.mem ∧
      (s.sliceStep pass meas).rd BST.SIG_SIG = sigTake (s.rd BST.SIG_SIG) (stepRecord (s.rd BST.RESULT_STEPS + 1) pass) % 2 ^ 64 ∧
      (pass = false → s.flag BST.DIAG_FAIL_VALID = false →
        (s.sliceStep pass meas).rd BST.DIAG_FAIL_STEP = s.rd BST.RESULT_STEPS + 1 ∧ (s.sliceStep pass meas).rd BST.DIAG_FAIL_VALID = 1) ∧
      (pass = true → (s.sliceStep pass meas).rd BST.DIAG_FAIL_VALID = s.rd BST.DIAG_FAIL_VALID) := by
  have hn : (s.rd BST.RESULT_STEPS + 1) % 2 ^ 13 = s.rd BST.RESULT_STEPS + 1 := by
    have hexpect : s.rd BST.RESULT_EXPECT < 2 ^ 13 := s.rd_lt BST.RESULT_EXPECT
    exact Nat.mod_eq_of_lt (by omega)
  unfold State.sliceStep
  extract_lets n t
  split
  next hpass =>
    refine ⟨?_, by simp only [t]; rw [(onlyRegs_wrs _ _).1], State.wrs_mem .., ?_, fun hp hv => ?_, fun _ => ?_⟩
    · simp (disch := (simp only [Fld.key]; omega)) only [t, State.wrs_cons, State.wrs_nil, State.rd_wr_ne, State.rd_wr_self]
      exact hn
    · simp only [t, State.wrs_cons, State.wrs_nil, State.rd_wr_self]
      rfl
    · simp [hp, hv] at hpass
    · simp (disch := (simp only [Fld.key]; omega)) only [t, State.wrs_cons, State.wrs_nil, State.rd_wr_ne]
  next hpass =>
    refine ⟨?_, by simp only [t]; rw [(onlyRegs_wrs _ _).1, (onlyRegs_wrs _ _).1], ?_, ?_, fun _ _ => ⟨?_, ?_⟩, fun hp => ?_⟩
    · simp (disch := (simp only [Fld.key]; omega)) only [t, State.wrs_cons, State.wrs_nil, State.rd_wr_ne, State.rd_wr_self]
      exact hn
    · simp only [t, State.wrs_mem]
    · simp (disch := (simp only [Fld.key]; omega)) only [t, State.wrs_cons, State.wrs_nil, State.rd_wr_ne, State.rd_wr_self]
      rfl
    · simp (disch := (simp only [Fld.key]; omega)) only [t, State.wrs_cons, State.wrs_nil, State.rd_wr_ne, State.rd_wr_self]
      exact hn
    · simp (disch := (simp only [Fld.key]; omega)) only [t, State.wrs_cons, State.wrs_nil, State.rd_wr_ne, State.rd_wr_self]
      rfl
    · simp [hp] at hpass

/-- R495 to R497: what the end of a slice leaves. -/
theorem State.rd_endSlice (s : State) (res : Nat) (done : Bool) :
    (s.endSlice res done).bst.run = none ∧ (s.endSlice res done).rd BST.RUN_GO = 0 ∧ (s.endSlice res done).rd BST.RESULT_RESULT = res % 16 ∧
      (s.endSlice res done).rd BST.RESULT_DONE = b2n done ∧ (s.endSlice res done).rd BST.EVT_DONE = 1 := by
  unfold State.endSlice
  refine ⟨by rw [(onlyRegs_wrs _ _).1], ?_⟩
  simp (disch := (simp only [Fld.key]; omega)) only [State.wrs_cons, State.wrs_nil, State.rd_wr_ne, State.rd_wr_self]
  exact ⟨rfl, rfl, b2n_mod_two done, rfl⟩

/-- The end of a slice leaves the registers outside RUN, RESULT and EVT. -/
theorem State.rd_endSlice_ne (s : State) (res : Nat) (done : Bool) {f : Fld} (h : 64 * 0xB00020 < f.key) : (s.endSlice res done).rd f = s.rd f := by
  simp only [Fld.key] at h
  unfold State.endSlice
  simp (disch := (simp only [Fld.key]; omega)) only [State.wrs_cons, State.wrs_nil, State.rd_wr_ne]
  rfl

/-- R497: the signature counts only where all the steps were made. -/
theorem sliceResult_eq (f : Nat → Nat) (steps expect sig : Nat) :
    (if steps ≠ expect then 3 else if f steps = sig then 1 else 2) = if steps ≠ expect then 3 else if f expect = sig then 1 else 2 := by
  by_cases h : steps = expect
  · rw [h]
  · rw [if_pos h, if_pos h]

/-- R497, R498: the result of a completed slice. -/
theorem State.sliceComplete_shows (s : State) {k : Nat} (hk : k < 8) (target time : Nat) :
    (s.sliceComplete k target time).bst.run = none ∧ (s.sliceComplete k target time).rd BST.RUN_GO = 0 ∧
      (s.sliceComplete k target time).rd BST.RESULT_DONE = 1 ∧ (s.sliceComplete k target time).rd BST.EVT_DONE = 1 ∧
      (s.sliceComplete k target time).mem = s.mem ∧
      (s.sliceComplete k target time).rd BST.RESULT_RESULT = (if s.rd BST.RESULT_STEPS ≠ sliceExpect k then 3
        else if sigEnd (s.rd BST.SIG_SIG) (sliceExpect k) = sigExpected k target then 1 else 2) ∧
      ((s.sliceComplete k target time).rd BST.RESULT_RESULT = 1 → (s.sliceComplete k target time).rd (BST.AGE_LAST k) = time % 2 ^ 48) := by
  unfold State.sliceComplete
  extract_lets steps sig res s1 s2
  have hres : res = (if s.rd BST.RESULT_STEPS ≠ sliceExpect k then 3
      else if sigEnd (s.rd BST.SIG_SIG) (sliceExpect k) = sigExpected k target then 1 else 2) :=
    sliceResult_eq (sigEnd (s.rd BST.SIG_SIG)) ..
  have hlt : res % 16 = res := by
    rw [hres]
    split_ifs <;> rfl
  obtain ⟨hrun, hgo, hrd, hdone, hevt⟩ := (s.wr BST.SIG_SIG sig).rd_endSlice res true
  rw [hlt] at hrd
  have h2 (f : Fld) (h : f.key ≠ BST.EVT_ABORTED.key) (h' : f.key ≠ BST.COUNT_ABORTS.key) : s2.rd f = s1.rd f := by
    simp only [s2]
    split
    · rw [State.rd_count_ne _ _ h'.symm, State.rd_wr_ne _ _ h.symm]
    · rfl
  have h2run : s2.bst.run = none ∧ s2.mem = s.mem := by
    simp only [s2]
    split <;> exact ⟨hrun, rfl⟩
  have hs2 : s2.rd BST.RUN_GO = 0 ∧ s2.rd BST.RESULT_DONE = 1 ∧ s2.rd BST.EVT_DONE = 1 ∧ s2.rd BST.RESULT_RESULT = res :=
    ⟨(h2 _ (by decide) (by decide)).trans hgo, (h2 _ (by decide) (by decide)).trans hdone, (h2 _ (by decide) (by decide)).trans hevt,
      (h2 _ (by decide) (by decide)).trans hrd⟩
  obtain ⟨h2run, h2mem⟩ := h2run
  obtain ⟨h2go, h2done, h2evt, h2res⟩ := hs2
  clear_value s2 res
  split
  next h1 =>
    have hlow {f : Fld} (h : f.key < 64 * 0xB00200 ∧ 64 * 0xB00000 ≤ f.key) :
        ((s2.wr (BST.AGE_LAST k) time).reached PWR.OTIME_TICKS time).rd f = s2.rd f := by
      simp only [Fld.key] at h
      simp (disch := (simp only [Fld.key]; omega)) only [State.reached, State.rd_wr_ne]
    refine ⟨h2run, ?_, ?_, ?_, h2mem, ?_, fun _ => ?_⟩
    · exact (hlow (f := BST.RUN_GO) (by decide)).trans h2go
    · exact (hlow (f := BST.RESULT_DONE) (by decide)).trans h2done
    · exact (hlow (f := BST.EVT_DONE) (by decide)).trans h2evt
    · exact ((hlow (f := BST.RESULT_RESULT) (by decide)).trans h2res).trans hres
    · show ((s2.wr (BST.AGE_LAST k) time).wr PWR.OTIME_TICKS _).rd (BST.AGE_LAST k) = _
      rw [State.rd_wr_ne _ _ (by simp only [Fld.key]; omega), State.rd_wr_self]
  next h1 => exact ⟨h2run, h2go, h2done, h2evt, h2mem, h2res.trans hres, fun h => absurd (h2res.symm.trans h) h1⟩

theorem exec_sliceComplete {s : State} {k target lane : Nat} (time : Nat) (h : s.bst.run = some (k, target, lane)) :
    exec (.sliceComplete time) s = .next (s.sliceComplete k target time) := by
  show execSliceComplete time s = _
  simp [execSliceComplete, h]

/-! ## The scheduler (R498) -/

theorem exec_schedulerOffer {s : State} {e : Nat} (hen : s.flag BST.SCHED_CTRL_EN = true) (hs : s.power.sleep < 2) (he : s.nextEntry = some e) :
    exec .schedulerOffer s = .next (s.offer e) := by
  show execSchedulerOffer s = _
  simp [execSchedulerOffer, hen, hs, he]

theorem State.offer_skips {s : State} {e : Nat}
    (h : s.sliceFree (s.rd (BST.SCHED_SLICE e)) (s.rd (BST.SCHED_TARGET e)) (s.rd (BST.SCHED_LANE e)) = false) :
    s.offer e = { s with bst := { s.bst with next := (e + 1) % 16 } }.count BST.COUNT_SKIPS 1 := by
  simp only [State.offer, h, Bool.and_false, if_neg Bool.false_ne_true]

theorem State.offer_starts {s : State} {e : Nat} (hrun : s.bst.run = none)
    (ht : targetOk (s.rd (BST.SCHED_SLICE e)) (s.rd (BST.SCHED_TARGET e)) = true) (hl : s.rd LC.STATE_STATE ≠ 7) (hf : s.frozen = false)
    (h : s.sliceFree (s.rd (BST.SCHED_SLICE e)) (s.rd (BST.SCHED_TARGET e)) (s.rd (BST.SCHED_LANE e)) = true) :
    s.offer e = ({ s with bst := { s.bst with next := (e + 1) % 16 } } : State).sliceStart (s.rd (BST.SCHED_SLICE e))
      (s.rd (BST.SCHED_TARGET e)) (s.rd (BST.SCHED_LANE e)) := by
  simp [State.offer, h, hrun, ht, hl, hf]

@[simp] theorem State.sliceStart_next (s : State) (k target lane : Nat) : (s.sliceStart k target lane).bst.next = s.bst.next := by
  rw [State.sliceStart, State.count, State.wr_bst, (onlyRegs_wrs _ _).1]

/-- R498: a slice that has not passed for one more LIMIT_S. -/
theorem State.ageLate_late {s : State} {j t n limit : Nat} (hj : j < 8) (hn : n = s.bst.late.getD j 0) (hl : limit = 32768 * s.rd (BST.AGE_LIMIT_S j))
    (h0 : limit ≠ 0) (ht : s.rd (BST.AGE_LAST j) + limit * (n + 1) ≤ t) :
    (s.ageLate j t).rd BST.EVT_LATE = 1 ∧ (s.ageLate j t).bst.late.getD j 0 = n + 1 ∧ (s.ageLate j t).bst.run = s.bst.run ∧
      (s.ageLate j t).mem = s.mem := by
  subst hn hl
  have hlate : s.ageLate j t = { (s.wr BST.EVT_LATE 1).reached PWR.OTIME_TICKS t with
      bst := { s.bst with late := (List.range 8).map fun i => if i = j then s.bst.late.getD j 0 + 1 else s.bst.late.getD i 0 } } := by
    simp only [State.ageLate]
    rw [if_neg (by omega)]
  rw [hlate]
  refine ⟨?_, by simp [List.getD, hj], rfl, rfl⟩
  rw [State.rd_mk, State.reached, State.rd_wr_ne _ _ (by decide), State.rd_wr_self]
  rfl

/-- Settles O42: each command of a slice by its equation. -/
theorem selfTestSlices : Obligations.SelfTestSlices := by
  refine ⟨fun s k target lane hk ht hl ho => ?_, fun s pass meas => ⟨exec_sliceStep_idle pass meas, fun hrun h => ?_⟩,
    fun s k target lane t hrun hk => ⟨_, exec_sliceComplete t hrun, s.sliceComplete_shows hk target t⟩, fun s => ⟨fun hrun => ?_, fun hrun => ?_⟩,
    fun s => ⟨fun h => ?_, fun e hen hs he => ⟨fun hnot => ?_, fun hrun ht hlc hf hready => ?_⟩⟩,
    fun s j t n limit hj hn hl => ⟨fun h => ?_, fun h0 hs ht => ?_⟩⟩
  · have hexec := exec_sliceGo hk ht hl ho
    have hbst : (s.runAsked k target lane).bst = s.bst := by rw [State.runAsked, (onlyRegs_wrs _ _).1]
    have hmem : (s.runAsked k target lane).mem = s.mem := State.wrs_mem ..
    have hother {f : Fld} (hf : ¬ IsSelfTest f) : (s.runAsked k target lane).rd f = s.rd f := by
      refine s.rd_runAsked k target lane ?_
      simp only [IsSelfTest] at hf
      omega
    have hfree : (s.runAsked k target lane).sliceFree k target lane = s.sliceFree k target lane :=
      State.sliceFree_congr (fun f hf => hother hf) (by rw [State.runAsked, (onlyRegs_wrs _ _).1]) (by rw [State.runAsked, (onlyRegs_wrs _ _).1]) ..
    have hlc : (s.runAsked k target lane).rd LC.STATE_STATE = s.rd LC.STATE_STATE := hother (by simp only [IsSelfTest, Fld.key]; omega)
    have hfrozen : (s.runAsked k target lane).frozen = s.frozen := by
      rw [State.frozen, State.flag, State.flag, hother (by simp only [IsSelfTest, Fld.key]; omega),
        hother (by simp only [IsSelfTest, Fld.key]; omega)]
      rfl
    refine ⟨fun h => ⟨_, hexec, ?_⟩, fun hrun hok hne hf hready => ⟨_, hexec, ?_⟩, fun hrun hok h => ⟨_, hexec, ?_⟩⟩
    · have hgo : (s.runAsked k target lane).sliceGo k target lane = (s.runAsked k target lane).wr BST.EVT_WR_IGN 1 := by
        rw [State.sliceGo, hbst, if_pos]
        obtain h | h := h
        · simp [Option.isSome_iff_ne_none.mpr h]
        · simp [h]
      rw [hgo]
      exact ⟨State.rd_wr_self .., hbst, hmem⟩
    · have hgo : (s.runAsked k target lane).sliceGo k target lane = (s.runAsked k target lane).sliceStart k target lane := by
        simp [State.sliceGo, hbst, hrun, hok, hlc, hne, hfrozen, hf, hfree, (s.sliceFree_iff hk target lane).mpr hready]
      rw [hgo]
      obtain ⟨h1, h2, h3, h4, h5, h6, h7⟩ := (s.runAsked k target lane).sliceStart_shows hk ht lane
      exact ⟨h1, h2, h3, h4, h5, by rw [h6, State.rd_runAsked _ _ _ _ (.inl (by decide))], h7.trans hmem⟩
    · have hno : (s.rd LC.STATE_STATE != 7 && !s.frozen && s.sliceFree k target lane) = false := by
        obtain h | h | h := h
        · simp [h]
        · simp [h]
        · simp [Bool.eq_false_iff.mpr fun hf => h ((s.sliceFree_iff hk target lane).mp hf)]
      rw [← hfree, ← hlc, ← hfrozen] at hno
      obtain ⟨hres, hb, hm⟩ := State.sliceGo_notRun (by rw [hbst, hrun]) hok hno
      exact ⟨hres, hb.trans hbst, hm.trans hmem⟩
  · exact ⟨_, exec_sliceStep pass meas hrun h, s.rd_sliceStep pass meas h⟩
  · show execSliceOvertime s = _
    simp [execSliceOvertime, hrun]
  · have hexec : exec .sliceOvertime s = .next ((s.endSlice 4 false).count BST.COUNT_OVERTIME 1) := by
      show execSliceOvertime s = _
      simp [execSliceOvertime, Option.isSome_iff_ne_none.mpr hrun]
    obtain ⟨hend, -, hres, hdone, -⟩ := s.rd_endSlice 4 false
    refine ⟨_, hexec, hend, ?_, ?_, ?_, rfl⟩
    · rw [State.rd_count_ne _ _ (by decide), hres]
    · rw [State.rd_count_ne _ _ (by decide), hdone]
      rfl
    · rw [State.rd_count_self, s.rd_endSlice_ne 4 false (by decide)]
  · show execSchedulerOffer s = _
    obtain h | h := h
    · simp [execSchedulerOffer, h]
    · simp [execSchedulerOffer, Nat.not_lt.mpr h]
  · rw [exec_schedulerOffer hen hs he, State.offer_skips]
    exact Bool.eq_false_iff.mpr fun hf => hnot ((s.sliceFree_iff (s.rd_lt (BST.SCHED_SLICE e)) _ _).mp hf)
  · refine ⟨_, exec_schedulerOffer hen hs he, ?_⟩
    rw [State.offer_starts hrun ht hlc hf ((s.sliceFree_iff (s.rd_lt (BST.SCHED_SLICE e)) _ _).mpr hready), State.sliceStart_next]
    obtain ⟨hr, -, -, -, -, -, hm⟩ := ({ s with bst := { s.bst with next := (e + 1) % 16 } } : State).sliceStart_shows
      (s.rd_lt (BST.SCHED_SLICE e)) (s.rd_lt (BST.SCHED_TARGET e)) (s.rd (BST.SCHED_LANE e))
    exact ⟨rfl, hr, hm⟩
  · show Host.Outcome.next (if j < 8 ∧ s.power.sleep < 2 then s.ageLate j t else s) = _
    split
    next hin =>
      subst hn hl
      simp only [State.ageLate]
      rw [if_pos (by omega)]
    · rfl
  · have hexec : exec (.ageLate j t) s = .next (s.ageLate j t) := by
      show Host.Outcome.next (if j < 8 ∧ s.power.sleep < 2 then s.ageLate j t else s) = _
      rw [if_pos ⟨hj, hs⟩]
    exact ⟨_, hexec, State.ageLate_late hj hn hl h0 ht⟩

end Sys2Proof.Machine

namespace Sys2Proof.Machine

/-! ## Resets (R502, R503) -/

/-- A stride of the caravan of cell 8 that has driven cell 0, of another block, and waits for its comparator results. -/
def crossingStride : Stride := ⟨0, 0, 1, false, 0, 0, false, [⟨0, 1, false, 0, 0, 0, 0, 0, 0, 0⟩]⟩

/-- The caravan of cell 8 with that stride, in a device that is not held. -/
def crossingState : State :=
  { ((State.reset.wr (CEL.CARAVAN_EN 8) 1).wr (CEL.CARAVAN_LEAD 8) 8) with
    rst := { RstX.reset with held := false }, runs := [(8, { Run.reset with unresolved := [crossingStride] })] }

/-- PWR_OK falls in that state, and no Store operation is cut. -/
def crossingFallen : State := (crossingState.powerCut [] [] ⟨0, [], []⟩).resetDomains true

/-- R502: a fall of PWR_OK where the device is not held. -/
theorem exec_pwrOkFall {s : State} (gone bad : List Nat) (res : PowerCut) (h : s.rst.held = false) :
    exec (.pwrOkFall gone bad res) s = .next { (s.powerCut gone bad res).resetDomains true with
      rst := { ((s.powerCut gone bad res).resetDomains true).rst with held := true, supply := true } } := by
  show execPwrOkFall gone bad res s = _
  rw [execPwrOkFall, h, if_neg Bool.false_ne_true]

set_option maxRecDepth 20000 in
/-- R251: block 0 is reset first; then block 1 ends its caravan, whose stride resolves and leaves a tap entry in cell 0. -/
theorem crossingFallen_tap : (crossingFallen.cell 0).tapQ ≠ [] := by decide

/-- Refutes O47: PWR_OK falls while the caravan of cell 8, in block 1, has an unresolved stride that names cell 0. The block domains are
reset in turn, and the stride resolves when block 1 is reset: its tap entry stays in cell 0, of block 0, which was cleared before, where
the statement has every cell at its reset record. -/
theorem not_resets : ¬ Obligations.Resets := by
  unfold Obligations.Resets
  rintro ⟨-, -, hfall, -⟩
  obtain ⟨-, hrunning⟩ := hfall crossingState [] [] ⟨0, [], []⟩
  obtain ⟨t, hx, -, -, -, -, -, -, -, hcells, -⟩ := hrunning rfl
  rw [exec_pwrOkFall [] [] ⟨0, [], []⟩ rfl] at hx
  have hcell := hcells 0 (by decide)
  rw [← Host.Outcome.next.inj hx, State.cell_mk] at hcell
  have htap := crossingFallen_tap
  rw [crossingFallen, hcell] at htap
  exact htap rfl

end Sys2Proof.Machine

namespace Sys2Proof.Machine

/-! ## The fault hub (R345, R484) -/

/-- A bonded session under a number whose register would stand where the hub counts the faults of scope OBJOR. -/
def strayBond : BondSession := { k := (0xC00068 - 0x100600) / 8, lead := 0, slot := 0, section_ := 0, data := 0, len := 0 }

/-- Objor's fault waits for the hub, and that session is open. -/
def strayFault : State := { State.reset with bonds := [strayBond], faultQ := [⟨0x19, 0, false, 7, []⟩] }

theorem exec_faultReport_strayFault : exec (.faultReport (0, [])) strayFault =
    .next ((({ strayFault with faultQ := [] } : State).takeReport ⟨0x19, 0, false, 7, []⟩ 0).reached FLT.TIME_FIO 0) := rfl

set_option maxRecDepth 10000 in
theorem strayFault_count :
    ((({ strayFault with faultQ := [] } : State).takeReport ⟨0x19, 0, false, 7, []⟩ 0).reached FLT.TIME_FIO 0).rd (FLT.CNT_COUNT 5) = 0 := by
  decide

/-- Refutes O41: the hub takes the fault of Objor while a bonded session is open whose number, 0x15FF4D, no register window holds. Objor's
error state closes it and writes its BOND register, which stands at the address of CNT5: the count of the fault reads 0, where the
statement has it one more. -/
theorem not_faultDetectorsAndHub : ¬ Obligations.FaultDetectorsAndHub := by
  unfold Obligations.FaultDetectorsAndHub
  rintro ⟨-, -, -, -, -, -, -, -, -, -, hreport, -⟩
  obtain ⟨t, hx, -, -, -, hcount, -⟩ := hreport strayFault 0 5 [] ⟨0x19, 0, false, 7, []⟩ [] (.inr rfl) rfl rfl (by decide)
  rw [exec_faultReport_strayFault] at hx
  rw [← Host.Outcome.next.inj hx, strayFault_count] at hcount
  exact absurd hcount (by decide)

end Sys2Proof.Machine

namespace Sys2Proof.Machine

/-! ## Freeze (R396) -/

/-- A frozen device: channel 0 is in self-refresh, and the ARMED caravan of cell 1 has arrived at a barrier of group 0x7B02, whose
register would stand where DDR.STATUS of channel 0 does; a Convoy STOP waits for its clock. -/
def strayArrival : State :=
  { State.reset.wrs [(DBG.FRZ_STATUS_FROZEN, 1), (DDR.STATUS_STATE 0, ddrSelfRefresh), (CEL.CARAVAN_EN 1, 1), (CEL.CARAVAN_LEAD 1, 1),
      (SEQ.STATUS_STATE 1, stArmed), (PLL.STATUS_CLK_RUN 0, 1)] with
    runs := [(1, { Run.reset with phase := .atSync 0x7B02 false false false true, convoyHalt := true })] }

theorem exec_thaw {s : State} (h : s.regOpen 0 DBG.FRZ_CTRL_THAW.addr = true) : exec .thaw s = .next s.thaw := by
  show Host.Outcome.next (s.atReg 0 DBG.FRZ_CTRL_THAW.addr fun s => s.thaw) = _
  rw [State.atReg_open _ h]

set_option maxRecDepth 20000 in
/-- R117, R120: the STOP takes effect, and the caravan withdraws its arrival. -/
theorem strayArrival_thaw : strayArrival.thaw.rd (DDR.STATUS_STATE 0) = 0 := by decide

/-- Refutes O38: THAW lets the waiting Convoy STOP of the caravan of cell 1 take effect. It withdraws its arrival at group 0x7B02, a
group that no register window holds: the write clears bit 1 of DDR.STATUS of channel 0, which has just become READY (2) and now
reads 0. -/
theorem not_freezeAndReadout : ¬ Obligations.FreezeAndReadout := by
  unfold Obligations.FreezeAndReadout
  rintro ⟨-, -, hthaw, -⟩
  have ho : strayArrival.regOpen 0 DBG.FRZ_CTRL_THAW.addr = true := by decide
  obtain ⟨-, hfrozen⟩ := hthaw strayArrival ho
  obtain ⟨t, hx, -, -, -, -, hddr⟩ := hfrozen (by decide)
  rw [exec_thaw ho] at hx
  have hstate := hddr 0 (by decide)
  rw [← Host.Outcome.next.inj hx, strayArrival_thaw, if_pos ⟨by decide, by decide⟩] at hstate
  exact absurd hstate (by decide)

end Sys2Proof.Machine

namespace Sys2Proof.Machine

/-! ## What leaves the power state alone (R415, R418)

The restore of a domain touches registers, records and memory of many units. None of it changes the record of the power
controller, and a domain that is on stays on. -/

/-- From `s` to `t` the record of the power controller stands and no domain loses power. -/
structure State.PowerStays (s t : State) : Prop where
  power : t.power = s.power
  block : ∀ b, b < 32 → s.blockOn b = true → t.blockOn b = true
  region : ∀ r, r < 4 → s.regionOn r = true → t.regionOn r = true

namespace State.PowerStays

variable {s t u : State}

theorem refl (s : State) : s.PowerStays s := ⟨rfl, fun _ _ h => h, fun _ _ h => h⟩

theorem trans (h : s.PowerStays t) (g : t.PowerStays u) : s.PowerStays u :=
  ⟨g.power.trans h.power, fun b hb hs => g.block b hb (h.block b hb hs), fun r hr hs => g.region r hr (h.region r hr hs)⟩

/-- An update of other records. -/
theorem same (h : s.PowerStays t) (hu : u.power = t.power ∧ u.regs = t.regs) : s.PowerStays u := by
  obtain ⟨hp, hr⟩ := hu
  exact h.trans ⟨hp, fun b _ hb => by simpa only [State.blockOn, State.rd, hr] using hb,
    fun r _ hb => by simpa only [State.regionOn, State.rd, hr] using hb⟩

theorem foldl {α : Type} {f : State → α → State} {l : List α} (hf : ∀ v, ∀ x ∈ l, s.PowerStays v → s.PowerStays (f v x))
    (h : s.PowerStays t) : s.PowerStays (l.foldl f t) :=
  List.foldlRecOn (motive := s.PowerStays) l f h fun v hv x hx => hf v x hx hv

/-- A write outside PWR.DOMAINS. -/
theorem wr (h : s.PowerStays t) {f : Fld} (v : Nat) (hf : 64 * 0x300021 ≤ f.key ∨ f.key < 64 * 0x300020) : s.PowerStays (t.wr f v) := by
  refine h.trans ⟨rfl, fun b _ hb => ?_, fun r _ hb => ?_⟩
  · rwa [State.blockOn, State.rd_wr_ne _ _ (by simp only [Fld.key] at hf ⊢; omega)]
  · rwa [State.regionOn, State.rd_wr_ne _ _ (by simp only [Fld.key] at hf ⊢; omega)]

theorem count (h : s.PowerStays t) {f : Fld} (n : Nat) (hf : 64 * 0x300021 ≤ f.key ∨ f.key < 64 * 0x300020) : s.PowerStays (t.count f n) :=
  h.wr _ hf

theorem wrs (h : s.PowerStays t) {l : List (Fld × Nat)} (hl : ∀ e ∈ l, 64 * 0x300021 ≤ e.1.key ∨ e.1.key < 64 * 0x300020) :
    s.PowerStays (t.wrs l) := by
  induction l generalizing t with
  | nil => exact h
  | cons e l ih => exact ih (h.wr _ (hl e List.mem_cons_self)) fun x hx => hl x (List.mem_cons_of_mem _ hx)

/-- A field without a reset value that is cleared: where its place is that of PWR.DOMAINS, that reads as after reset, all on. -/
theorem clear (h : s.PowerStays t) {f : Fld} (hf : f.reset = 0) : s.PowerStays (t.wr f 0) := by
  have hrd (g : Fld) (hk : f.key = g.key) : (t.wr f 0).rd g = g.reset % 2 ^ g.width := by
    simp only [State.rd, State.wr, hk, Tab.get_set_self, hf, Nat.zero_mod]
    rw [show Nat.xor 0 0 = 0 from rfl, show Nat.xor 0 g.reset = g.reset from Nat.zero_xor _]
  refine h.trans ⟨rfl, fun b hb hon => ?_, fun r hr hon => ?_⟩
  · by_cases hk : f.key = PWR.DOMAINS_BLK_ON.key
    · rw [State.blockOn, hrd _ hk]
      interval_cases b <;> rfl
    · rwa [State.blockOn, State.rd_wr_ne _ _ hk]
  · by_cases hk : f.key = PWR.DOMAINS_RGN_ON.key
    · rw [State.regionOn, hrd _ hk]
      interval_cases r <;> rfl
    · rwa [State.regionOn, State.rd_wr_ne _ _ hk]

theorem setCell (h : s.PowerStays t) (c : Nat) (x : CellX) : s.PowerStays (t.setCell c x) := h.same ⟨rfl, rfl⟩
theorem modCell (h : s.PowerStays t) (c : Nat) (g : CellX → CellX) : s.PowerStays (t.modCell c g) := h.same ⟨rfl, rfl⟩
theorem setRun (h : s.PowerStays t) (c : Nat) (x : Run) : s.PowerStays (t.setRun c x) := h.same ⟨rfl, rfl⟩
theorem modRun (h : s.PowerStays t) (c : Nat) (g : Run → Run) : s.PowerStays (t.modRun c g) := h.same ⟨rfl, rfl⟩
theorem modBlock (h : s.PowerStays t) (b : Nat) (g : BlockX → BlockX) : s.PowerStays (t.modBlock b g) := h.same ⟨rfl, rfl⟩
theorem modRegion (h : s.PowerStays t) (r : Nat) (g : RegionX → RegionX) : s.PowerStays (t.modRegion r g) := h.same ⟨rfl, rfl⟩
theorem drawn (h : s.PowerStays t) : s.PowerStays t.drawn := h.same ⟨rfl, rfl⟩
theorem report (h : s.PowerStays t) (code unit : Nat) : s.PowerStays (t.report code unit) := h.same ⟨rfl, rfl⟩
theorem pulse (h : s.PowerStays t) (n : Nat) : s.PowerStays (t.pulse n) := h.same ⟨rfl, rfl⟩

end State.PowerStays

/-! ### Strides that resolve and memberships that end -/

namespace State.PowerStays

variable {s t : State}

theorem sendTap (h : s.PowerStays t) (c fbits sc : Nat) (fc tmpl : Bool) : s.PowerStays (t.sendTap c fbits sc fc tmpl) := by
  unfold State.sendTap
  dsimp only
  split
  · exact h.setCell ..
  · exact ((h.setCell ..).count _ (by simp only [Fld.key, blockBase]; omega)).wr _ (by simp only [Fld.key, blockBase]; omega)

theorem pushRecord (h : s.PowerStays t) (c : Nat) (r : FailRec) : s.PowerStays (t.pushRecord c r) := by
  unfold State.pushRecord
  split
  · exact h.modCell ..
  · exact h.count _ (by simp only [Fld.key, cellBase]; omega)

theorem resolveCell (h : s.PowerStays t) (l : Nat) (v : Stride) (m : CellStride) (obs : Nat) (dual : Bool) :
    s.PowerStays (t.resolveCell l v m obs dual) := by
  unfold State.resolveCell
  extract_lets c fb hidden shown s1 s2 s3 s4 s5 th s6
  have h1 : s.PowerStays s1 := h.sendTap ..
  have h2 : s.PowerStays s2 := by
    simp only [s2]
    split
    · exact h1.report ..
    · exact h1
  have h3 : s.PowerStays s3 := h2.modCell ..
  have h4 : s.PowerStays s4 := (h3.wr _ (by simp only [Fld.key, cellBase]; omega)).count _ (by simp only [Fld.key, cellBase]; omega)
  have h5 : s.PowerStays s5 := by
    simp only [s5]
    split
    · exact h4
    · exact h4.wr _ (by simp only [Fld.key, cellBase]; omega)
  have h6 : s.PowerStays s6 := by
    simp only [s6]
    split
    · exact (h5.modCell ..).pulse _
    · exact h5
  split
  · exact h2
  · split
    · exact h3
    · split
      · exact h6.pushRecord ..
      · exact h6

theorem mark (h : s.PowerStays t) (l : Nat) (alloc : Bool) : s.PowerStays (t.mark l alloc) :=
  (h.modRegion ..).foldl fun _ _ _ hv => hv.modCell ..

theorem placeMarks (h : s.PowerStays t) (l : Nat) : s.PowerStays (t.placeMarks l) := by
  unfold State.placeMarks
  dsimp only
  split
  · exact h
  · exact (h.setRun ..).foldl fun _ _ _ hv => hv.mark ..

theorem resolveOne (h : s.PowerStays t) (l : Nat) (obs : List (Nat × Nat)) (dual : List Nat) : s.PowerStays (t.resolveOne l obs dual) := by
  unfold State.resolveOne
  split
  · exact h
  · extract_lets cs s1 rs s2 ms
    have h2 : s.PowerStays s2 := ((h.foldl fun _ _ _ hv => hv.resolveCell ..).modRun ..).placeMarks _
    split
    · exact h2.modRun ..
    · exact h2.modRun ..

theorem freeObs (h : s.PowerStays t) (l : List CellStride) : s.PowerStays (t.freeObs l).1 := by
  induction l generalizing t with
  | nil => exact h
  | cons m l ih => exact ih (h.same ⟨rfl, rfl⟩)

theorem settle (h : s.PowerStays t) (l n : Nat) : s.PowerStays (t.settle l n) := by
  induction n generalizing t with
  | zero => exact h
  | succ k ih =>
    unfold State.settle
    split
    · exact h
    · exact ih ((h.freeObs _).resolveOne ..)

theorem endMembership (h : s.PowerStays t) (l : Nat) : s.PowerStays (t.endMembership l) := by
  unfold State.endMembership
  extract_lets v sn src u open_
  have hv : s.PowerStays v := (h.settle l _).same ⟨rfl, rfl⟩
  have hu : s.PowerStays u := (hv.foldl (l := t.members l) fun _ _ _ hw => hw.modCell ..).same ⟨rfl, rfl⟩
  have hb : s.PowerStays { u with bonds := u.bonds.filter fun b => b.lead != l } := hu.same ⟨rfl, rfl⟩
  refine hb.foldl fun v b _ hv => ?_
  exact ((((hv.clear rfl).clear rfl).clear rfl).clear rfl).clear rfl

theorem deriveCells (h : s.PowerStays t) (cs : List Nat) : s.PowerStays (t.deriveCells cs) := by
  refine h.foldl fun v c _ hv => hv.wrs fun e he => ?_
  simp only [List.mem_append, List.mem_cons, List.not_mem_nil, or_false] at he
  rcases he with (rfl | rfl | rfl | rfl | rfl | rfl) | he
  case inr =>
    split at he
    · exact absurd he List.not_mem_nil
    · simp only [List.mem_cons, List.not_mem_nil, or_false] at he
      rcases he with rfl | rfl | rfl | rfl | rfl | rfl <;> (simp only [Fld.key, cellBase]; omega)
  all_goals simp only [Fld.key, cellBase]; omega

theorem reform (h : s.PowerStays t) (r : Nat) (cids : List Nat) : s.PowerStays (t.reform r cids) := by
  unfold State.reform State.deriveLeads
  exact ((h.foldl fun _ _ _ hv => hv.deriveCells _).foldl fun _ _ _ hv => hv.setRun ..).wr _ (by simp only [Fld.key, regionBase]; omega)

/-! ### Saves that are read back -/

theorem writeBytes (h : s.PowerStays t) (a : Nat) (l : List Nat) : s.PowerStays (t.writeBytes a l) := by
  induction l generalizing t a with
  | nil => exact h
  | cons v l ih => exact ih (h.same (u := t.writeByte a v) ⟨rfl, rfl⟩) _

theorem eccAfter (h : s.PowerStays t) (a up : Nat) : s.PowerStays (t.eccAfter a up) := by
  unfold State.eccAfter
  split
  · exact h.same ⟨rfl, rfl⟩
  · split
    · exact (h.writeBytes a _).same ⟨rfl, rfl⟩
    · exact h.same ⟨rfl, rfl⟩

theorem smErrors (h : s.PowerStays t) (m : Nat) (oasis : Bool) (a up : Nat) : s.PowerStays (t.smErrors m oasis a up) := by
  have h1 := h.eccAfter a up
  have hcnt (n : Nat) (f g : Fld) (hf : f.key < 64 * 0x300020) (hg : g.key < 64 * 0x300020) {v : State} (hv : s.PowerStays v) :
      s.PowerStays (v.count (if oasis then f else g) n) := by
    cases oasis
    · exact hv.count _ (.inr hg)
    · exact hv.count _ (.inr hf)
  unfold State.smErrors
  dsimp only
  split
  · exact h1
  · split
    · exact hcnt _ _ _ (by decide) (by decide) h1
    · have h2 := hcnt 1 CHIP.MEM_ECC_OR_UNCORR CHIP.MEM_ECC_SM_UNCORR (by decide) (by decide) h1
      split
      · exact h2.report ..
      · exact h2.drawn.report ..

theorem takeArea (h : s.PowerStays t) (k a n : Nat) : s.PowerStays (t.takeArea k a n).2 := by
  have herr {v : State} (hv : s.PowerStays v) (a n : Nat) : s.PowerStays (v.areaErrors a n) := hv.foldl fun _ _ _ hw => hw.smErrors ..
  unfold State.takeArea
  dsimp only
  split
  · exact herr (herr h _ _) _ _
  · exact herr h _ _

theorem unpack (h : s.PowerStays t) {l : List Fld} (hl : ∀ f ∈ l, 64 * 0x300021 ≤ f.key ∨ f.key < 64 * 0x300020) (v : Nat) :
    s.PowerStays (t.unpack l v) := by
  induction l generalizing t v with
  | nil => exact h
  | cons f l ih => exact ih (h.wr _ (hl f List.mem_cons_self)) (fun g hg => hl g (List.mem_cons_of_mem _ hg)) _

theorem setSaveFlags (h : s.PowerStays t) (v : Nat) : s.PowerStays (t.setSaveFlags v) := by
  have h64 {w : State} (hw : s.PowerStays w) (a v : Nat) : s.PowerStays (w.write64 a v) := by
    unfold State.write64
    exact (hw.writeBytes a (toBytes 8 v)).same ⟨rfl, rfl⟩
  unfold State.setSaveFlags
  extract_lets w
  have hw : s.PowerStays w := h64 (h64 (h64 h _ _) _ _) _ _
  clear_value w
  exact hw.same ⟨rfl, rfl⟩

end State.PowerStays

/-- The registers that a block saves lie in its cells' windows. -/
theorem key_blockSaved {b : Nat} {f : Fld} (hf : f ∈ blockSaved b) : 64 * 0x300021 ≤ f.key := by
  simp only [blockSaved, List.mem_flatMap, List.mem_cons, List.not_mem_nil, or_false] at hf
  obtain ⟨c, -, rfl | rfl | rfl | rfl | rfl | rfl | rfl | rfl | rfl | rfl⟩ := hf <;> (simp only [Fld.key, cellBase]; omega)

theorem mem_tableFlds {t : List RegDesc} {p : FInfo → Bool} {f : Fld} (hf : f ∈ tableFlds t p) : ∃ i : FInfo, p i = true ∧ i.fld = f := by
  simp only [tableFlds, List.mem_flatMap, List.mem_map, List.mem_filter] at hf
  obtain ⟨d, -, i, -, j, -, x, ⟨-, hp⟩, rfl⟩ := hf
  exact ⟨x, hp, rfl⟩

/-- The registers that a region saves lie in its window. -/
theorem key_regionSaved {r : Nat} {f : Fld} (hf : f ∈ regionSaved r) : 64 * 0x300021 ≤ f.key := by
  simp only [regionSaved, List.mem_append, List.mem_flatMap] at hf
  rcases hf with ((hf | hf) | ⟨i, -, hf⟩) | hf
  · fin_cases hf <;> (simp only [Fld.key, regionBase]; omega)
  · obtain ⟨i, hi, rfl⟩ := mem_tableFlds hf
    rw [Bool.and_eq_true, decide_eq_true_eq] at hi
    simp only [Fld.key, regionBase] at hi ⊢
    omega
  · fin_cases hf <;> (simp only [Fld.key, regionBase]; omega)
  · split at hf
    · simp only [List.mem_append, List.mem_flatMap, List.mem_cons, List.not_mem_nil, or_false] at hf
      rcases hf with (rfl | rfl) | ⟨k, -, rfl | rfl⟩ <;> (simp only [Fld.key, regionBase]; omega)
    · exact absurd hf List.not_mem_nil

end Sys2Proof.Machine

namespace Sys2Proof.Machine

/-! ## A domain is powered and restored (R269, R415) -/

namespace State.PowerStays

variable {s t : State}

theorem blankOutputs (h : s.PowerStays t) (b : Nat) : s.PowerStays (t.blankOutputs b) := by
  unfold State.blankOutputs
  refine (h.foldl fun v c _ hv => ?_).modBlock ..
  have hd : s.PowerStays (v.driveFab c 0) := hv.setCell ..
  exact hd.modCell ..

theorem showFabRun (h : s.PowerStays t) (b : Nat) : s.PowerStays (t.showFabRun b) :=
  h.wr _ (by simp only [Fld.key, blockBase]; omega)

theorem planeError (h : s.PowerStays t) (b p : Nat) : s.PowerStays (t.planeError b p) := by
  unfold State.planeError
  refine (State.PowerStays.blankOutputs (State.PowerStays.showFabRun (State.PowerStays.modBlock (State.PowerStays.wrs (h.count _ ?_) ?_) ..) b) b).report ..
  · simp only [Fld.key, blockBase]
    omega
  · simp only [List.mem_cons, List.not_mem_nil, or_false, forall_eq_or_imp, forall_eq, Fld.key, blockBase]
    omega

theorem loadPlane (h : s.PowerStays t) (b p : Nat) (all : Bool) : s.PowerStays (t.loadPlane b p all) := by
  unfold State.loadPlane
  extract_lets pl good s1 s2
  have h1 : s.PowerStays s1 := by
    refine (h.modBlock ..).wrs ?_
    simp only [List.mem_cons, List.not_mem_nil, or_false, forall_eq_or_imp, forall_eq, Fld.key, blockBase]
    omega
  have h2 : s.PowerStays s2 := h1.showFabRun b
  split
  · exact h2.wr _ (by simp only [Fld.key, blockBase]; omega)
  · exact h2

theorem senseBlock (h : s.PowerStays t) (b : Nat) (p : Option Nat) : s.PowerStays (t.senseBlock b p) := by
  unfold State.senseBlock
  split
  · dsimp only
    split
    · exact (h.loadPlane ..).planeError ..
    · exact h.loadPlane ..
  · refine (h.modBlock ..).wrs ?_
    simp only [List.mem_cons, List.not_mem_nil, or_false, forall_eq_or_imp, forall_eq, Fld.key, blockBase]
    omega

theorem rejoinGang (h : s.PowerStays t) (b : Nat) : s.PowerStays (t.rejoinGang b) := by
  unfold State.rejoinGang
  dsimp only
  split
  · exact h
  · refine (h.wrs ?_).modBlock ..
    simp only [List.mem_cons, List.not_mem_nil, or_false, forall_eq_or_imp, forall_eq, Fld.key, blockBase]
    omega

theorem restoreBlock (h : s.PowerStays t) (b : Nat) : s.PowerStays (t.restoreBlock b) := by
  have hsave := h.takeArea b (blockArea b) 0x100
  unfold State.restoreBlock
  split
  · next u heq =>
    rw [heq] at hsave
    exact hsave.wr _ (.inl (by decide))
  · next v u heq =>
    rw [heq] at hsave
    exact ((hsave.foldl fun _ _ _ hw => hw.endMembership _).unpack (fun f hf => .inl (key_blockSaved hf)) _).reform ..

end State.PowerStays

/-- A write of a bit of PWR.DOMAINS that is 1: its domain is on, and no other goes off. -/
theorem bitOf_setBit_mod {v i j w : Nat} (hj : j < w) : bitOf (setBit v i % 2 ^ w) j = (bitOf v j || decide (i = j)) := by
  rw [bitOf_mod_two_pow _ hj]
  by_cases h : i = j
  · subst h
    simp
  · simp [bitOf_setBit_ne v h, h]

/-- Block domain `b` is switched on. -/
def State.blockSwitched (s : State) (b : Nat) : State := s.wr PWR.DOMAINS_BLK_ON (setBit (s.rd PWR.DOMAINS_BLK_ON) b)
/-- Region domain `r` is switched on. -/
def State.regionSwitched (s : State) (r : Nat) : State := s.wr PWR.DOMAINS_RGN_ON (setBit (s.rd PWR.DOMAINS_RGN_ON) r)

theorem State.blockOn_blockSwitched (s : State) (b : Nat) {k : Nat} (hk : k < 32) :
    (s.blockSwitched b).blockOn k = (s.blockOn k || decide (b = k)) := by
  rw [State.blockOn, State.blockSwitched, State.rd_wr_self]
  exact bitOf_setBit_mod hk

theorem State.regionOn_regionSwitched (s : State) (r : Nat) {k : Nat} (hk : k < 4) :
    (s.regionSwitched r).regionOn k = (s.regionOn k || decide (r = k)) := by
  rw [State.regionOn, State.regionSwitched, State.rd_wr_self]
  exact bitOf_setBit_mod hk

theorem State.powerStays_blockSwitched (s : State) (b : Nat) : s.PowerStays (s.blockSwitched b) where
  power := rfl
  block k hk h := by rw [s.blockOn_blockSwitched b hk, h, Bool.true_or]
  region r _ h := by rwa [State.regionOn, State.blockSwitched, State.rd_wr_ne _ _ (by decide)]

theorem State.powerStays_regionSwitched (s : State) (r : Nat) : s.PowerStays (s.regionSwitched r) where
  power := rfl
  block k _ h := by rwa [State.blockOn, State.regionSwitched, State.rd_wr_ne _ _ (by decide)]
  region k hk h := by rw [s.regionOn_regionSwitched r hk, h, Bool.true_or]

/-- R415: what follows the switching on of a block. -/
theorem State.powerStays_raiseBlock (s : State) (b : Nat) : (s.blockSwitched b).PowerStays (s.raiseBlock b) := by
  unfold State.raiseBlock
  extract_lets s1 p q s2
  have h1 : (s.blockSwitched b).PowerStays s1 := (State.PowerStays.refl _).restoreBlock b
  have h2 : (s.blockSwitched b).PowerStays s2 := (h1.senseBlock b q).setSaveFlags _
  clear_value s2
  refine State.PowerStays.same (State.PowerStays.wrs (h2.rejoinGang b) (l := [(NOC.REVOKE_BLK, clearBit (s2.rd NOC.REVOKE_BLK) b),
    (CHIP.CAL_STATUS_BUSY, 1)]) ?_) ⟨rfl, rfl⟩
  simp only [List.mem_cons, List.not_mem_nil, or_false, forall_eq_or_imp, forall_eq]
  decide

/-- R415: what follows the switching on of a region. -/
theorem State.powerStays_raiseRegion (s : State) (r : Nat) : (s.regionSwitched r).PowerStays (s.raiseRegion r) := by
  unfold State.raiseRegion
  extract_lets s1 s2
  have h1 : (s.regionSwitched r).PowerStays s1 := .refl _
  have hsave := h1.takeArea (32 + r) (regionArea r) 0x4000
  have h2 : (s.regionSwitched r).PowerStays s2 := by
    simp only [s2]
    split
    · next u heq =>
      rw [heq] at hsave
      exact hsave.wr _ (.inl (by decide))
    · next v u heq =>
      rw [heq] at hsave
      generalize v / 2 ^ 65536 = x
      have h3 : (s.regionSwitched r).PowerStays (u.unpack (regionSaved r) x) := hsave.unpack (fun f hf => .inl (key_regionSaved hf)) x
      generalize u.unpack (regionSaved r) x = w at h3
      have h4 : (s.regionSwitched r).PowerStays (w.putSums r v) := h3.same ⟨rfl, rfl⟩
      refine h4.wrs ?_
      simp only [List.mem_cons, List.not_mem_nil, or_false, forall_eq_or_imp, forall_eq, Fld.key, regionBase]
      omega
  clear_value s2
  exact (h2.setSaveFlags _).wr _ (by decide)

/-- R415: no domain goes off where one is raised, and the record of the power controller stands. -/
theorem State.powerStays_raise (s : State) (d : Nat) : s.PowerStays (s.raise d) := by
  unfold State.raise
  split_ifs
  · exact .refl s
  · exact (s.powerStays_blockSwitched d).trans (s.powerStays_raiseBlock d)
  · exact (s.powerStays_regionSwitched (d - 32)).trans (s.powerStays_raiseRegion (d - 32))

/-- R415: a raised domain is on. -/
theorem State.domainOn_raise (s : State) {d : Nat} (hd : d < 36) : (s.raise d).domainOn d = true := by
  unfold State.raise
  split_ifs with hon hb
  · exact hon
  · rw [State.domainOn, if_pos hb]
    exact (s.powerStays_raiseBlock d).block d hb (by simp [s.blockOn_blockSwitched d hb])
  · rw [State.domainOn, if_neg hb]
    exact (s.powerStays_raiseRegion (d - 32)).region (d - 32) (by omega) (by simp [s.regionOn_regionSwitched (d - 32) (by omega : d - 32 < 4)])

end Sys2Proof.Machine

namespace Sys2Proof.Machine

/-! ## Commands of the power controller (R403, R418) -/

section

variable {s : State}

theorem State.inTransition_of {s : State} (h : s.power.entry = none ∧ s.power.levelRun = none ∧ s.power.redo = false ∧ s.power.rising = [] ∧
    s.power.sleep = 0) : s.inTransition = false := by
  obtain ⟨he, hl, hr, hu, hs⟩ := h
  simp [State.inTransition, he, hl, hr, hu, hs]

/-- R407: nothing runs and nothing is pending. -/
theorem State.PwrFree.idle (h : s.PwrFree) : s.pwrBusy = false ∧ s.inTransition = false ∧ s.flag PWR.CMD_STATUS_PEND = false := by
  obtain ⟨hp, ht⟩ := h
  have hi := State.inTransition_of ht
  exact ⟨by rw [State.pwrBusy, hp, hi, Bool.or_false], hi, hp⟩

theorem State.pwrBusy_of_not_pwrFree (h : ¬ s.PwrFree) : s.pwrBusy = true := by
  by_contra hb
  simp only [State.pwrBusy, State.inTransition, Bool.not_eq_true, Bool.or_eq_false_iff, Option.isSome_eq_false_iff, Option.isNone_iff_eq_none,
    Bool.not_eq_false', List.isEmpty_iff, bne_eq_false_iff_eq] at hb
  obtain ⟨hp, ⟨⟨⟨he, hl⟩, hr⟩, hu⟩, hs⟩ := hb
  exact h ⟨hp, he, hl, hr, hu, hs⟩

/-- R407: no command and no sleep request waits for the end of a transition. -/
theorem State.pwrSettle_none (hr : s.power.request = none) (hc : s.power.cmdWait = none) : s.pwrSettle = s := by
  simp only [State.pwrSettle, State.takeCommand, hc, State.judgeSleep, hr]

theorem exec_pwrCommand {e : Instr × Nat × Nat} {n : Nat} (ho : s.regOpen 0 PWR.CMD_OP.addr = true)
    (he : e ∈ [(Instr.setLevel n, 1, n), (Instr.powerOff n, 2, n % 64), (Instr.powerOn n, 3, n % 64)]) :
    exec e.1 s = .next (s.pwrCommand e.2.1 e.2.2) := by
  simp only [List.mem_cons, List.not_mem_nil, or_false] at he
  rcases he with rfl | rfl | rfl <;> exact congrArg Host.Outcome.next (State.atReg_open _ ho)

theorem State.pwrCommand_free (h : s.PwrFree) (op arg : Nat) : s.pwrCommand op arg = s.pwrRun op arg := by
  obtain ⟨-, hi, hp⟩ := h.idle
  simp [State.pwrCommand, hp, hi]

theorem exec_setLevel (h : s.PwrFree) (ho : s.regOpen 0 PWR.CMD_OP.addr = true) (l : Nat) : exec (.setLevel l) s = .next (s.changeLevel l) := by
  rw [← show s.pwrCommand 1 l = s.changeLevel l from s.pwrCommand_free h 1 l]
  exact exec_pwrCommand ho (e := (Instr.setLevel l, 1, l)) (n := l) (by simp)

theorem exec_powerOff (h : s.PwrFree) (ho : s.regOpen 0 PWR.CMD_OP.addr = true) {d : Nat} (hd : d < 64) :
    exec (.powerOff d) s = .next (s.powerOff d) := by
  rw [← show s.pwrCommand 2 (d % 64) = s.powerOff d by rw [Nat.mod_eq_of_lt hd]; exact s.pwrCommand_free h 2 d]
  exact exec_pwrCommand ho (e := (Instr.powerOff d, 2, d % 64)) (n := d) (by simp)

theorem exec_powerOn (h : s.PwrFree) (ho : s.regOpen 0 PWR.CMD_OP.addr = true) {d : Nat} (hd : d < 64) :
    exec (.powerOn d) s = .next (s.powerOn d) := by
  rw [← show s.pwrCommand 3 (d % 64) = s.powerOn d by rw [Nat.mod_eq_of_lt hd]; exact s.pwrCommand_free h 3 d]
  exact exec_pwrCommand ho (e := (Instr.powerOn d, 3, d % 64)) (n := d) (by simp)

/-! ### What a refusal, an end and a start write (R11, R13) -/

@[simp] theorem State.pwrReject_power (op st : Nat) : (s.pwrReject op st).power = s.power := by
  unfold State.pwrReject State.reject
  dsimp only
  split <;> rfl

@[simp] theorem State.pwrReject_mem (op st : Nat) : (s.pwrReject op st).mem = s.mem := by
  unfold State.pwrReject State.reject
  dsimp only
  split <;> rfl

theorem State.rd_pwrReject (op st : Nat) :
    (s.pwrReject op st).rd PWR.REJECT_COUNT = satAdd PWR.REJECT_COUNT.width (s.rd PWR.REJECT_COUNT) 1 ∧
      (s.pwrReject op st).rd PWR.LAST_REJECT_CODE = op % 256 ∧ (s.pwrReject op st).rd PWR.LAST_REJECT_STATUS = st % 256 ∧
      (s.pwrReject op st).rd PWR.CMD_STATUS_PEND = s.rd PWR.CMD_STATUS_PEND ∧
      (s.flag PWR.CMD_STATUS_PEND = false → (s.pwrReject op st).rd PWR.CMD_STATUS_STATUS = st % 256) ∧
      (s.pwrReject op st).rd PWR.DOMAINS_BLK_ON = s.rd PWR.DOMAINS_BLK_ON ∧
      (s.pwrReject op st).rd PWR.DOMAINS_RGN_ON = s.rd PWR.DOMAINS_RGN_ON := by
  unfold State.pwrReject State.reject State.count
  dsimp only
  split
  · next h =>
    simp (disch := decide) only [State.wrs_cons, State.wrs_nil, State.rd_wr_ne, State.rd_wr_self, h]
    refine ⟨Nat.mod_eq_of_lt (satAdd_lt _ _ _), rfl, rfl, trivial, fun hf => absurd hf (by decide), trivial, trivial⟩
  · simp (disch := decide) only [State.wrs_cons, State.wrs_nil, State.rd_wr_ne, State.rd_wr_self]
    exact ⟨Nat.mod_eq_of_lt (satAdd_lt _ _ _), rfl, rfl, trivial, fun _ => rfl, trivial, trivial⟩

@[simp] theorem State.pwrDone_power (op st : Nat) (a : Bool) : (s.pwrDone op st a).power = s.power := rfl

theorem State.rd_pwrDone (op st : Nat) (a : Bool) :
    (s.pwrDone op st a).rd PWR.CMD_STATUS_STATUS = st % 256 ∧ (s.pwrDone op st a).rd PWR.CMD_STATUS_PEND = 0 ∧
      (s.pwrDone op st a).rd (if op = 1 then PWR.EVT_LEVEL_DONE else PWR.EVT_DOMAIN_DONE) = 1 := by
  unfold State.pwrDone
  split_ifs <;> simp (disch := decide) only [State.wrs_cons, State.wrs_nil, State.rd_wr_ne, State.rd_wr_self] <;> exact ⟨rfl, rfl, rfl⟩

/-- An end of a PWR command writes CMD_STATUS and EVT alone. -/
theorem State.rd_pwrDone_ne (op st : Nat) (a : Bool) {f : Fld} (h : f.addr ∉ [0x300010, 0x300028] ∧ f.lsb < 64) :
    (s.pwrDone op st a).rd f = s.rd f := by
  obtain ⟨ha, hl⟩ := h
  simp only [List.mem_cons, List.not_mem_nil, or_false, not_or] at ha
  refine s.rd_wrs_ne _ fun e he => ?_
  simp only [List.mem_cons, List.not_mem_nil, or_false] at he
  rcases he with rfl | rfl | rfl | rfl | rfl
  case inr.inr.inr.inr => split <;> (simp only [Fld.key]; omega)
  all_goals simp only [Fld.key]; omega

/-! ### Changes of the performance level (R403 to R405) -/

/-- R403 step 3: the new limits apply to the PLLs of the blocks `bs` that are on. -/
theorem State.reclampAll_frame (s : State) (bs : List Nat) :
    (bs.foldl (fun u b => if u.blockOn b then u.reclamp b (u.pllTarget b) else u) s).power = s.power ∧
      (bs.foldl (fun u b => if u.blockOn b then u.reclamp b (u.pllTarget b) else u) s).mem = s.mem ∧
      ∀ f : Fld, f.key < 64 * 0x1000000 →
        (bs.foldl (fun u b => if u.blockOn b then u.reclamp b (u.pllTarget b) else u) s).rd f = s.rd f := by
  induction bs generalizing s with
  | nil => exact ⟨rfl, rfl, fun _ _ => rfl⟩
  | cons b bs ih =>
    rw [List.foldl_cons]
    cases s.blockOn b with
    | false => exact ih s
    | true =>
      obtain ⟨hp, hm, hrd⟩ := ih (s.reclamp b (s.pllTarget b))
      refine ⟨hp.trans (s.wr_power _ _), hm.trans (s.wr_mem _ _), fun f hf => (hrd f hf).trans (s.rd_wr_ne _ ?_)⟩
      simp only [Fld.key, blockBase] at hf ⊢
      omega

/-- R403 step 3: what the move to the FIO leaves. -/
theorem State.levelToPll_frame (s : State) (r : LevelRun) :
    (s.levelToPll r).power = { s.power with levelRun := some { r with atPll := true } } ∧ (s.levelToPll r).mem = s.mem ∧
      ∀ f : Fld, f.key < 64 * 0x1000000 →
        (s.levelToPll r).rd f = (s.wrs [(CHIP.CLK_STATUS_ON_PLL, 0), (CHIP.CLK_STATUS_PLL_LOCK, 0)]).rd f :=
  State.reclampAll_frame _ _

/-- R403: what the move to the chip PLL shows. -/
theorem State.levelToPll_shows (s : State) (r : LevelRun) :
    (s.levelToPll r).rd CHIP.CLK_STATUS_ON_PLL = 0 ∧ (s.levelToPll r).rd CHIP.CLK_STATUS_PLL_LOCK = 0 ∧
      (s.levelToPll r).rd PWR.STATUS_LEVEL = s.rd PWR.STATUS_LEVEL ∧
      (s.levelToPll r).rd PWR.CMD_STATUS_PEND = s.rd PWR.CMD_STATUS_PEND := by
  obtain ⟨-, -, hrd⟩ := s.levelToPll_frame r
  rw [hrd _ (by decide), hrd _ (by decide), hrd _ (by decide), hrd _ (by decide)]
  simp (disch := decide) only [State.wrs_cons, State.wrs_nil, State.rd_wr_ne, State.rd_wr_self]
  exact ⟨rfl, rfl, trivial, trivial⟩

/-- R178: some block PLL that runs has a target above the limits of a level. -/
theorem State.levelTooLow_iff (l : Nat) : s.levelTooLow l = true ↔
    ∃ b, b < 32 ∧ s.blockOn b = true ∧ (s.rd (PLL.STATUS_STATE b) ≠ pllOff ∨ (s.block b).pll ≠ none) ∧ s.overLimit (s.pllTarget b) l = true := by
  simp only [State.levelTooLow, List.any_eq_true, List.mem_range, Bool.and_eq_true, Bool.or_eq_true, bne_iff_ne, ne_eq, Option.isSome_iff_ne_none,
    and_assoc]

/-- R403: a level change that nothing refuses. -/
theorem State.changeLevel_starts {l : Nat} (hclk : s.flag CHIP.CLK_STATUS_ON_PLL = true ∨ s.flag CHIP.CLK_STATUS_FALLBACK = false) (hl : l ≤ 3)
    (hne : l ≠ s.rd PWR.STATUS_LEVEL) (hlow : s.rd PWR.STATUS_LEVEL < l → s.levelTooLow l = false) : s.changeLevel l =
      if l < s.rd PWR.STATUS_LEVEL ∧ s.flag PWR.PMB_EN = true then
        { s.pwrStart 1 with power := { s.power with levelRun := some ⟨l, true, false⟩ } }
      else (s.pwrStart 1).levelToPll ⟨l, decide (l < s.rd PWR.STATUS_LEVEL), false⟩ := by
  have hfall : (!s.flag CHIP.CLK_STATUS_ON_PLL && s.flag CHIP.CLK_STATUS_FALLBACK) = false := by
    rcases hclk with h | h <;> simp [h]
  have hbad : ((decide (s.rd PWR.STATUS_LEVEL < l ∧ l ≤ 3) && s.levelTooLow l) || (!s.flag CHIP.CLK_STATUS_ON_PLL &&
      s.flag CHIP.CLK_STATUS_FALLBACK)) = false := by
    rw [hfall, Bool.or_false]
    by_cases h : s.rd PWR.STATUS_LEVEL < l
    · rw [hlow h, Bool.and_false]
    · simp [h]
  simp only [State.changeLevel, hbad, Bool.false_eq_true, if_false, Nat.not_lt.mpr hl, hne, Bool.and_eq_true, decide_eq_true_eq]
  split
  · next h =>
    simp only [h.1, decide_true]
    rfl
  · rfl

/-- R403 step 6: a level change ends, and nothing waited for it. -/
theorem State.levelFinish_none (hr : s.power.request = none) (hc : s.power.cmdWait = none) (l st lag : Nat) :
    s.levelFinish l st lag = s.levelEnd l st lag := State.pwrSettle_none hr hc

theorem State.rd_levelEnd {l : Nat} (hl : l ≤ 3) (st lag : Nat) :
    (s.levelEnd l st lag).rd PWR.STATUS_LEVEL = l ∧ (s.levelEnd l st lag).rd PWR.STATUS_VOLT_LAG = lag % 2 ∧
      (s.levelEnd l st lag).rd PWR.CMD_STATUS_STATUS = st % 256 ∧ (s.levelEnd l st lag).rd PWR.CMD_STATUS_PEND = 0 ∧
      (s.levelEnd l st lag).rd PWR.EVT_LEVEL_DONE = 1 := by
  obtain ⟨hst, hpend, hevt⟩ := State.rd_pwrDone (s := ({ s with power := { s.power with levelRun := none, redo := false } }).wrs
    [(PWR.STATUS_LEVEL, l), (PWR.STATUS_VOLT_LAG, lag)]) 1 st false
  refine ⟨?_, ?_, hst, hpend, hevt⟩
  · rw [State.levelEnd, State.rd_pwrDone_ne _ _ _ (by decide)]
    simp (disch := decide) only [State.wrs_cons, State.wrs_nil, State.rd_wr_ne, State.rd_wr_self]
    exact Nat.mod_eq_of_lt (by omega)
  · rw [State.levelEnd, State.rd_pwrDone_ne _ _ _ (by decide)]
    simp only [State.wrs_cons, State.wrs_nil, State.rd_wr_self, pow_one]

/-- An end of a level change writes STATUS, CMD_STATUS and EVT alone. -/
theorem State.rd_levelEnd_ne (l st lag : Nat) {f : Fld} (h : f.addr ∉ [0x300010, 0x300018, 0x300028] ∧ f.lsb < 64) :
    (s.levelEnd l st lag).rd f = s.rd f := by
  obtain ⟨ha, hl⟩ := h
  simp only [List.mem_cons, List.not_mem_nil, or_false, not_or] at ha
  rw [State.levelEnd, State.rd_pwrDone_ne _ _ _ ⟨by simp [ha], hl⟩]
  refine (State.rd_wrs_ne _ _ fun e he => ?_).trans rfl
  simp only [List.mem_cons, List.not_mem_nil, or_false] at he
  rcases he with rfl | rfl <;> (simp only [Fld.key]; omega)

theorem State.levelEnd_power (l st lag : Nat) : (s.levelEnd l st lag).power = { s.power with levelRun := none, redo := false } := rfl

/-! ### Domains that go off and on (R408, R418) -/

/-- R408: no refuser that POWER_OFF of a block looks at holds. -/
theorem State.blockStill_iff (b : Nat) : s.BlockStill b ↔ s.refuseCaravan [b] = false ∧ s.refuseDma [b] = false := by
  simp only [State.BlockStill, State.refuseCaravan, State.refuseDma, List.any_cons, List.any_nil, Bool.or_false, Bool.or_eq_false_iff,
    Bool.not_eq_false', List.isEmpty_iff, List.any_eq_false, Option.isSome_eq_false_iff, Option.isNone_iff_eq_none, Bool.not_eq_true,
    List.mem_range]
  constructor
  · rintro ⟨hbusy, hm, hpw, hc⟩
    exact ⟨⟨⟨hbusy, hm⟩, fun c hcb => (hc c hcb).1⟩, hpw, fun c hcb => (hc c hcb).2⟩
  · rintro ⟨⟨⟨hbusy, hm⟩, hq⟩, hpw, hsd⟩
    exact ⟨hbusy, hm, hpw, fun c hcb => ⟨hq c hcb, hsd c hcb⟩⟩

theorem State.blockRefusers_nil_iff (b : Nat) : s.blockRefusers b = [] ↔ s.BlockStill b ∧ s.frozen = false := by
  rw [State.blockStill_iff]
  unfold State.blockRefusers
  cases s.refuseCaravan [b] <;> cases s.refuseDma [b] <;> cases s.frozen <;> simp

/-- R418: POWER_OFF of a domain is refused where one of its conditions holds. -/
theorem State.offBad_eq_false_iff {d : Nat} (hd : d < 36) : s.offBad d = false ↔ s.MayPowerOff d := by
  unfold State.offBad State.MayPowerOff
  split
  · rw [Bool.or_eq_false_iff, Bool.not_eq_false', List.isEmpty_iff, State.blockRefusers_nil_iff, and_assoc]
  · simp only [hd, decide_true, Bool.true_and, Bool.or_eq_false_iff, List.any_eq_false, List.mem_range, Bool.not_eq_true, beq_eq_false_iff_ne,
      and_assoc, ne_eq]

end

end Sys2Proof.Machine

namespace Sys2Proof.Machine

/-! ## Levels and domains as commands show them (R403 to R405, R416, R418, R419) -/

section

variable {s : State}

/-- R403: LEVEL_PLL_LOCK. -/
theorem exec_levelPllLock {l : Nat} {up : Bool} (h : s.power.levelRun = some ⟨l, up, true⟩) : exec .levelPllLock s = .next
    (let t := s.wrs [(CHIP.CLK_STATUS_PLL_LOCK, 1), (CHIP.CLK_STATUS_ON_PLL, s.rd CHIP.CLK_CTRL_USE_PLL)]
      if up = false ∧ s.flag PWR.PMB_EN = true then { t with power := { t.power with levelRun := some ⟨l, up, false⟩ } }
      else t.levelFinish l 0 (if up then 0 else s.rd PWR.STATUS_VOLT_LAG)) := by
  show Host.Outcome.next (match s.power.levelRun with
    | some r => _
    | none => s) = _
  rw [h]
  cases up <;> cases s.flag PWR.PMB_EN <;> simp

/-- R405: LEVEL_TIMEOUT. -/
theorem exec_levelTimeout {l : Nat} {up : Bool} (h : s.power.levelRun = some ⟨l, up, true⟩) : exec .levelTimeout s =
    .next ((s.wr CHIP.CLK_CTRL_USE_PLL 0).levelFinish l 5 (b2n (!up && s.flag PWR.PMB_EN))) := by
  show Host.Outcome.next (match s.power.levelRun with
    | some r => _
    | none => s) = _
  rw [h]
  rfl

/-- R403 step 5, R404: PMBUS_DONE of a level change. -/
theorem exec_pmbusDone {l : Nat} {up : Bool} (h : s.power.levelRun = some ⟨l, up, false⟩) (ok : Bool) : exec (.pmbusDone ok) s = .next
    (if ok && s.pmbusPins then
      if up then (s.voltSet l).levelToPll ⟨l, up, false⟩ else (s.voltSet l).levelFinish l 0 0
    else if up then s.levelFinish (s.rd PWR.STATUS_LEVEL) 6 (s.rd PWR.STATUS_VOLT_LAG) else s.levelFinish l 6 1) := by
  show Host.Outcome.next (match s.power.levelRun with
    | some r => _
    | none => _) = _
  rw [h]
  cases up <;> cases ok && s.pmbusPins <;> rfl

/-- R404: PMBUS_DONE of a voltage step alone. -/
theorem exec_pmbusDone_redo (h : s.power.levelRun = none) (hredo : s.power.redo = true) (ok : Bool) : exec (.pmbusDone ok) s = .next
    ((if ok && s.pmbusPins then s.voltSet (s.rd PWR.STATUS_LEVEL) else s).levelFinish (s.rd PWR.STATUS_LEVEL)
      (if ok && s.pmbusPins then 0 else 6) (b2n !(ok && s.pmbusPins))) := by
  show Host.Outcome.next (match s.power.levelRun with
    | some r => _
    | none => _) = _
  rw [h]
  simp [hredo]

theorem State.rd_voltSet (l : Nat) (f : Fld) : (s.voltSet l).rd f = s.rd f := rfl

/-- R403: a level change has ended; `l` is in force. -/
theorem State.rd_levelFinish (hr : s.power.request = none) (hc : s.power.cmdWait = none) {l : Nat} (hl : l ≤ 3) (st lag : Nat) :
    (s.levelFinish l st lag).power = { s.power with levelRun := none, redo := false } ∧ (s.levelFinish l st lag).rd PWR.STATUS_LEVEL = l ∧
      (s.levelFinish l st lag).rd PWR.STATUS_VOLT_LAG = lag % 2 ∧ (s.levelFinish l st lag).rd PWR.CMD_STATUS_STATUS = st % 256 ∧
      (s.levelFinish l st lag).rd PWR.CMD_STATUS_PEND = 0 ∧ (s.levelFinish l st lag).rd PWR.EVT_LEVEL_DONE = 1 ∧
      ∀ f : Fld, f.addr ∉ [0x300010, 0x300018, 0x300028] ∧ f.lsb < 64 → (s.levelFinish l st lag).rd f = s.rd f := by
  rw [State.levelFinish_none hr hc]
  obtain ⟨h1, h2, h3, h4, h5⟩ := s.rd_levelEnd hl st lag
  exact ⟨rfl, h1, h2, h3, h4, h5, fun f hf => s.rd_levelEnd_ne l st lag hf⟩

/-- R403: the clauses of SET_LEVEL, which nothing else of the power controller disturbs. -/
theorem State.changeLevel_shows {l : Nat}
    (hclk : s.flag CHIP.CLK_STATUS_ON_PLL = true ∨ s.flag CHIP.CLK_STATUS_FALLBACK = false) :
    (3 < l → s.changeLevel l = s.pwrReject 1 2) ∧
    (s.rd PWR.STATUS_LEVEL < l → l ≤ 3 → s.levelTooLow l = true → s.changeLevel l = s.pwrReject 1 3) ∧
    (l = s.rd PWR.STATUS_LEVEL → l ≤ 3 → s.changeLevel l = if !s.flag PWR.STATUS_VOLT_LAG || !s.flag PWR.PMB_EN then s.pwrDone 1 0 false
      else { s.pwrStart 1 with power := { s.power with redo := true } }) := by
  have hfall : (!s.flag CHIP.CLK_STATUS_ON_PLL && s.flag CHIP.CLK_STATUS_FALLBACK) = false := by
    rcases hclk with h | h <;> simp [h]
  refine ⟨fun h => ?_, fun h h3 hlow => ?_, fun h h3 => ?_⟩
  · simp [State.changeLevel, hfall, Nat.not_le.mpr h, h]
  · simp [State.changeLevel, hfall, h, h3, hlow]
  · simp only [State.changeLevel, ← h, Nat.lt_irrefl, false_and, decide_false, Bool.false_and, hfall, Bool.or_self, Bool.false_eq_true, if_false,
      Nat.not_lt.mpr h3, if_true]

/-- R403: an accepted SET_LEVEL to another level is pending, and the level in force stands. -/
theorem State.changeLevel_runs {l : Nat} (hclk : s.flag CHIP.CLK_STATUS_ON_PLL = true ∨ s.flag CHIP.CLK_STATUS_FALLBACK = false) (hl : l ≤ 3)
    (hne : l ≠ s.rd PWR.STATUS_LEVEL) (hlow : s.rd PWR.STATUS_LEVEL < l → s.levelTooLow l = false) :
    (s.changeLevel l).rd PWR.CMD_STATUS_PEND = 1 ∧ (s.changeLevel l).rd PWR.STATUS_LEVEL = s.rd PWR.STATUS_LEVEL ∧
      (s.changeLevel l).mem = s.mem ∧
      if l < s.rd PWR.STATUS_LEVEL ∧ s.flag PWR.PMB_EN = true then (s.changeLevel l).power = { s.power with levelRun := some ⟨l, true, false⟩ } ∧
        (s.changeLevel l).rd CHIP.CLK_STATUS_ON_PLL = s.rd CHIP.CLK_STATUS_ON_PLL
      else (s.changeLevel l).power = { s.power with levelRun := some ⟨l, decide (l < s.rd PWR.STATUS_LEVEL), true⟩ } ∧
        (s.changeLevel l).rd CHIP.CLK_STATUS_ON_PLL = 0 ∧ (s.changeLevel l).rd CHIP.CLK_STATUS_PLL_LOCK = 0 := by
  have hstart : (s.pwrStart 1).rd PWR.CMD_STATUS_PEND = 1 ∧ (s.pwrStart 1).rd PWR.STATUS_LEVEL = s.rd PWR.STATUS_LEVEL ∧
      (s.pwrStart 1).rd CHIP.CLK_STATUS_ON_PLL = s.rd CHIP.CLK_STATUS_ON_PLL := by
    simp (disch := decide) only [State.pwrStart, State.wrs_cons, State.wrs_nil, State.rd_wr_ne, State.rd_wr_self]
    exact ⟨rfl, trivial, trivial⟩
  obtain ⟨hpend, hlev, hon⟩ := hstart
  rw [State.changeLevel_starts hclk hl hne hlow]
  split
  · exact ⟨hpend, hlev, rfl, rfl, hon⟩
  · obtain ⟨hp, hm, -⟩ := (s.pwrStart 1).levelToPll_frame ⟨l, decide (l < s.rd PWR.STATUS_LEVEL), false⟩
    obtain ⟨h1, h2, h3, h4⟩ := (s.pwrStart 1).levelToPll_shows ⟨l, decide (l < s.rd PWR.STATUS_LEVEL), false⟩
    exact ⟨h4.trans hpend, h3.trans hlev, hm, hp, h1, h2⟩

/-- R403 to R405: the ends of the steps of a level change. -/
theorem levelSteps (s : State) (l : Nat) (up : Bool) (hl : l ≤ 3) (hr : s.power.request = none) (hc : s.power.cmdWait = none) :
    (s.power.levelRun = some ⟨l, up, true⟩ →
      (∃ t, exec .levelPllLock s = .next t ∧ t.rd CHIP.CLK_STATUS_PLL_LOCK = 1 ∧ t.rd CHIP.CLK_STATUS_ON_PLL = s.rd CHIP.CLK_CTRL_USE_PLL ∧
        if up = false ∧ s.flag PWR.PMB_EN = true then t.power.levelRun = some ⟨l, false, false⟩ else t.power.levelRun = none ∧
          t.rd PWR.STATUS_LEVEL = l ∧ t.rd PWR.CMD_STATUS_STATUS = 0 ∧ t.rd PWR.CMD_STATUS_PEND = 0 ∧ t.rd PWR.EVT_LEVEL_DONE = 1) ∧
      (∃ t, exec .levelTimeout s = .next t ∧ t.power.levelRun = none ∧ t.rd PWR.STATUS_LEVEL = l ∧ t.rd PWR.CMD_STATUS_STATUS = 5 ∧
        t.rd CHIP.CLK_CTRL_USE_PLL = 0 ∧ t.rd PWR.STATUS_VOLT_LAG = b2n (!up && s.flag PWR.PMB_EN) ∧ t.rd PWR.EVT_LEVEL_DONE = 1)) ∧
    (s.power.levelRun = some ⟨l, up, false⟩ →
      (s.pmbusPins = true → ∃ t, exec (.pmbusDone true) s = .next t ∧ t.power.voltLevel = l ∧
        t.power.vout = some (s.rd PWR.PMB_ADDR, s.rd PWR.PMB_PAGE, s.rd (PWR.VLEVEL_VOUT l)) ∧ if up then t.power.levelRun = some ⟨l, true, true⟩ ∧
          t.rd CHIP.CLK_STATUS_ON_PLL = 0 else t.rd PWR.STATUS_LEVEL = l ∧ t.rd PWR.STATUS_VOLT_LAG = 0 ∧ t.rd PWR.CMD_STATUS_STATUS = 0) ∧
      (∀ ok, ok = false ∨ s.pmbusPins = false → ∃ t, exec (.pmbusDone ok) s = .next t ∧ t.power.voltLevel = s.power.voltLevel ∧
        t.power.levelRun = none ∧ t.rd PWR.CMD_STATUS_STATUS = 6 ∧
        if up then t.rd PWR.STATUS_LEVEL = s.rd PWR.STATUS_LEVEL else t.rd PWR.STATUS_LEVEL = l ∧ t.rd PWR.STATUS_VOLT_LAG = 1)) ∧
    (s.power.levelRun = none → s.power.redo = true → ∀ ok, ∃ t, exec (.pmbusDone ok) s = .next t ∧ t.power.redo = false ∧
      t.rd PWR.STATUS_LEVEL = s.rd PWR.STATUS_LEVEL ∧ t.rd PWR.STATUS_VOLT_LAG = b2n (!(ok && s.pmbusPins)) ∧
      t.rd PWR.CMD_STATUS_STATUS = if ok && s.pmbusPins then 0 else 6) := by
  have hnow : s.rd PWR.STATUS_LEVEL ≤ 3 := Nat.le_of_lt_succ (s.rd_lt PWR.STATUS_LEVEL)
  refine ⟨fun h => ⟨⟨_, exec_levelPllLock h, ?_⟩, ⟨_, exec_levelTimeout h, ?_⟩⟩, fun h => ⟨fun hpins => ⟨_, exec_pmbusDone h true, ?_⟩,
    fun ok hok => ⟨_, exec_pmbusDone h ok, ?_⟩⟩, fun h hredo ok => ⟨_, exec_pmbusDone_redo h hredo ok, ?_⟩⟩
  · dsimp only
    have hclk : (s.wrs [(CHIP.CLK_STATUS_PLL_LOCK, 1), (CHIP.CLK_STATUS_ON_PLL, s.rd CHIP.CLK_CTRL_USE_PLL)]).rd CHIP.CLK_STATUS_PLL_LOCK = 1 ∧
        (s.wrs [(CHIP.CLK_STATUS_PLL_LOCK, 1), (CHIP.CLK_STATUS_ON_PLL, s.rd CHIP.CLK_CTRL_USE_PLL)]).rd CHIP.CLK_STATUS_ON_PLL =
          s.rd CHIP.CLK_CTRL_USE_PLL := by
      simp (disch := decide) only [State.wrs_cons, State.wrs_nil, State.rd_wr_ne, State.rd_wr_self]
      exact ⟨rfl, Nat.mod_eq_of_lt (s.rd_lt CHIP.CLK_CTRL_USE_PLL)⟩
    split
    · next hup =>
      exact ⟨hclk.1, hclk.2, by rw [hup.1]⟩
    · obtain ⟨hp, h1, -, h3, h4, h5, hrd⟩ := State.rd_levelFinish (s := s.wrs [(CHIP.CLK_STATUS_PLL_LOCK, 1),
        (CHIP.CLK_STATUS_ON_PLL, s.rd CHIP.CLK_CTRL_USE_PLL)]) hr hc hl 0 (if up then 0 else s.rd PWR.STATUS_VOLT_LAG)
      exact ⟨(hrd _ (by decide)).trans hclk.1, (hrd _ (by decide)).trans hclk.2, by rw [hp], h1, h3, h4, h5⟩
  · obtain ⟨hp, h1, h2, h3, -, h5, hrd⟩ := State.rd_levelFinish (s := s.wr CHIP.CLK_CTRL_USE_PLL 0) hr hc hl 5 (b2n (!up && s.flag PWR.PMB_EN))
    exact ⟨by rw [hp], h1, h3, (hrd _ (by decide)).trans (s.rd_wr_self _ _), h2.trans (b2n_mod_two _), h5⟩
  · rw [hpins, Bool.and_true, if_pos rfl]
    cases up
    · obtain ⟨hp, h1, h2, h3, -⟩ := State.rd_levelFinish (s := s.voltSet l) hr hc hl 0 0
      simp only [Bool.false_eq_true, if_false]
      exact ⟨by rw [hp]; rfl, by rw [hp]; rfl, h1, h2, h3⟩
    · obtain ⟨hp, -, -⟩ := (s.voltSet l).levelToPll_frame ⟨l, true, false⟩
      obtain ⟨hon, -⟩ := (s.voltSet l).levelToPll_shows ⟨l, true, false⟩
      simp only [if_true]
      exact ⟨by rw [hp]; rfl, by rw [hp]; rfl, by rw [hp], hon⟩
  · have hgood : (ok && s.pmbusPins) = false := by rcases hok with h | h <;> simp [h]
    rw [hgood, if_neg Bool.false_ne_true]
    cases up
    · obtain ⟨hp, h1, h2, h3, -⟩ := State.rd_levelFinish hr hc hl 6 1
      simp only [Bool.false_eq_true, if_false]
      exact ⟨by rw [hp], by rw [hp], h3, h1, h2⟩
    · obtain ⟨hp, h1, -, h3, -⟩ := State.rd_levelFinish hr hc hnow 6 (s.rd PWR.STATUS_VOLT_LAG)
      simp only [if_true]
      exact ⟨by rw [hp], by rw [hp], h3, h1⟩
  · generalize (ok && s.pmbusPins) = good
    cases good
    · obtain ⟨hp, h1, h2, h3, -⟩ := State.rd_levelFinish hr hc hnow 6 1
      exact ⟨by rw [if_neg Bool.false_ne_true]; exact congrArg PowerX.redo hp, h1, h2, h3⟩
    · obtain ⟨hp, h1, h2, h3, -⟩ := State.rd_levelFinish (s := s.voltSet (s.rd PWR.STATUS_LEVEL)) hr hc hnow 0 0
      exact ⟨congrArg PowerX.redo hp, h1, h2, h3⟩

/-- R403: SET_LEVEL while nothing runs. -/
theorem setLevelClauses (s : State) (l : Nat) (hfree : s.PwrFree) (ho : s.regOpen 0 PWR.CMD_OP.addr = true)
    (hclk : s.flag CHIP.CLK_STATUS_ON_PLL = true ∨ s.flag CHIP.CLK_STATUS_FALLBACK = false) :
    (3 < l → ∃ t, exec (.setLevel l) s = .next t ∧ t.rd PWR.LAST_REJECT_STATUS = 2 ∧ t.rd PWR.CMD_STATUS_STATUS = 2 ∧ t.power = s.power) ∧
    (s.rd PWR.STATUS_LEVEL < l → l ≤ 3 → (∃ b, b < 32 ∧ s.blockOn b = true ∧ (s.rd (PLL.STATUS_STATE b) ≠ pllOff ∨ (s.block b).pll ≠ none) ∧
        s.overLimit (s.pllTarget b) l = true) →
      ∃ t, exec (.setLevel l) s = .next t ∧ t.rd PWR.LAST_REJECT_STATUS = 3 ∧ t.rd PWR.CMD_STATUS_STATUS = 3 ∧ t.power = s.power) ∧
    (l = s.rd PWR.STATUS_LEVEL → l ≤ 3 →
      (s.flag PWR.STATUS_VOLT_LAG = false ∨ s.flag PWR.PMB_EN = false → exec (.setLevel l) s = .next (s.wrs [(PWR.CMD_STATUS_STATUS, 0),
        (PWR.CMD_STATUS_OP, 1), (PWR.CMD_STATUS_PEND, 0), (PWR.CMD_STATUS_ABORTED, 0), (PWR.EVT_LEVEL_DONE, 1)])) ∧
      (s.flag PWR.STATUS_VOLT_LAG = true → s.flag PWR.PMB_EN = true → ∃ t, exec (.setLevel l) s = .next t ∧ t.rd PWR.CMD_STATUS_PEND = 1 ∧
        t.power = { s.power with redo := true } ∧ t.mem = s.mem)) := by
  obtain ⟨hbig, htoo, hsame⟩ := State.changeLevel_shows (s := s) (l := l) hclk
  have hpend := hfree.idle.2.2
  rw [exec_setLevel hfree ho l]
  refine ⟨fun h => ⟨_, rfl, ?_⟩, fun hlt h3 hlow => ⟨_, rfl, ?_⟩, fun h h3 => ⟨fun hlag => ?_, fun hlag hen => ⟨_, rfl, ?_⟩⟩⟩
  · rw [hbig h]
    obtain ⟨-, -, h1, -, h2, -⟩ := s.rd_pwrReject 1 2
    exact ⟨h1, h2 hpend, s.pwrReject_power 1 2⟩
  · rw [htoo hlt h3 (State.levelTooLow_iff l |>.mpr hlow)]
    obtain ⟨-, -, h1, -, h2, -⟩ := s.rd_pwrReject 1 3
    exact ⟨h1, h2 hpend, s.pwrReject_power 1 3⟩
  · rw [hsame h h3, if_pos (by rcases hlag with h | h <;> simp [h])]
    rfl
  · rw [hsame h h3, if_neg (by simp [hlag, hen])]
    refine ⟨?_, rfl, rfl⟩
    show (s.pwrStart 1).rd PWR.CMD_STATUS_PEND = 1
    simp (disch := decide) only [State.pwrStart, State.wrs_cons, State.wrs_nil, State.rd_wr_ne, State.rd_wr_self]
    rfl

/-! ### Domain commands -/

theorem State.noteBlock_frame (s : State) (d : Nat) : (s.noteBlock d).power = s.power ∧ (s.noteBlock d).mem = s.mem ∧
    (s.noteBlock d).rd PWR.DOMAINS_BLK_ON = s.rd PWR.DOMAINS_BLK_ON ∧ (s.noteBlock d).rd PWR.DOMAINS_RGN_ON = s.rd PWR.DOMAINS_RGN_ON := by
  have hcount (ks : List Nat) (f : Fld) (hf : f.key < 64 * 0x300200) :
      (ks.foldl (fun t k => t.count (PWR.REFUSE_COUNT k) 1) s).rd f = s.rd f :=
    State.foldl_same (fun t => t.rd f) fun t k _ => t.rd_wr_ne _ (by simp only [Fld.key] at hf ⊢; omega)
  unfold State.noteBlock
  split
  · refine ⟨?_, ?_, ?_, ?_⟩
    · exact State.foldl_same State.power fun _ _ _ => rfl
    · exact State.foldl_same State.mem fun _ _ _ => rfl
    · unfold State.noteRefuse
      simp (disch := decide) only [State.wrs_cons, State.wrs_nil, State.rd_wr_ne, hcount]
    · unfold State.noteRefuse
      simp (disch := decide) only [State.wrs_cons, State.wrs_nil, State.rd_wr_ne, hcount]
  · exact ⟨rfl, rfl, rfl, rfl⟩

theorem State.domainOn_congr {s t : State} (hb : t.rd PWR.DOMAINS_BLK_ON = s.rd PWR.DOMAINS_BLK_ON)
    (hr : t.rd PWR.DOMAINS_RGN_ON = s.rd PWR.DOMAINS_RGN_ON) (d : Nat) : t.domainOn d = s.domainOn d := by
  simp only [State.domainOn, State.blockOn, State.regionOn, hb, hr]

/-- R410, R418: a power-off begins: its domain is revoked and stays on. -/
theorem State.revoke_shows (s : State) (e : Entry) : (s.revoke e).power = { s.power with entry := some e } ∧ (s.revoke e).mem = s.mem ∧
    (s.revoke e).rd PWR.STATUS_ENTERING = 1 ∧ (s.revoke e).rd PWR.CMD_STATUS_PEND = s.rd PWR.CMD_STATUS_PEND ∧
    (s.revoke e).rd PWR.DOMAINS_BLK_ON = s.rd PWR.DOMAINS_BLK_ON ∧ (s.revoke e).rd PWR.DOMAINS_RGN_ON = s.rd PWR.DOMAINS_RGN_ON ∧
    (s.revoke e).rd NOC.REVOKE_BLK = Nat.lor (s.rd NOC.REVOKE_BLK) e.blocks % 2 ^ 32 := by
  unfold State.revoke
  simp (disch := decide) only [State.wrs_cons, State.wrs_nil, State.rd_wr_ne, State.rd_wr_self, State.rd_mk]
  exact ⟨rfl, rfl, rfl, trivial, trivial, trivial, trivial⟩

theorem State.rd_pwrStart (op : Nat) : (s.pwrStart op).rd PWR.CMD_STATUS_PEND = 1 ∧
    (s.pwrStart op).rd PWR.DOMAINS_BLK_ON = s.rd PWR.DOMAINS_BLK_ON ∧ (s.pwrStart op).rd PWR.DOMAINS_RGN_ON = s.rd PWR.DOMAINS_RGN_ON := by
  simp (disch := decide) only [State.pwrStart, State.wrs_cons, State.wrs_nil, State.rd_wr_ne, State.rd_wr_self]
  exact ⟨rfl, trivial, trivial⟩

theorem bitOf_two_pow_self (d : Nat) : bitOf (2 ^ d) d = true := by
  simp [bitOf]

theorem bitOf_two_pow (d k : Nat) : bitOf (2 ^ d) k = decide (d = k) := by
  rw [bitOf, show (2 ^ d / 2 ^ k % 2 == 1) = (2 ^ d).testBit k by rw [Nat.testBit_eq_decide_div_mod_eq]; rfl, Nat.testBit_two_pow]

/-- R418: POWER_OFF of a domain that is on. -/
theorem State.powerOff_on {d : Nat} (hd : d < 36) (hon : s.domainOn d = true) (hbst : s.bst.run = none) : s.powerOff d =
    if s.offBad d then (s.noteBlock d).pwrReject 2 3 else (s.pwrStart 2).revoke (offEntry d false) := by
  simp only [State.powerOff, hon, Bool.not_true, Bool.false_eq_true, and_false, if_false, Nat.not_le.mpr hd, State.abortSlice_idle _ hbst]

/-- R418: POWER_OFF and POWER_ON while nothing runs. -/
theorem domainClauses (s : State) (d : Nat) (hfree : s.PwrFree) (ho : s.regOpen 0 PWR.CMD_OP.addr = true) (hbst : s.bst.run = none) (hd64 : d < 64) :
    (36 ≤ d → ∀ e ∈ [(Instr.powerOff d, 2), (Instr.powerOn d, 3)], ∃ t, exec e.1 s = .next t ∧ t.rd PWR.LAST_REJECT_STATUS = 2 ∧
      t.rd PWR.LAST_REJECT_CODE = e.2 ∧ t.power = s.power) ∧
    (d < 36 → ∀ e ∈ [(Instr.powerOff d, 2, false), (Instr.powerOn d, 3, true)], s.domainOn d = e.2.2 → exec e.1 s =
      .next (s.wrs [(PWR.CMD_STATUS_STATUS, 0), (PWR.CMD_STATUS_OP, e.2.1), (PWR.CMD_STATUS_PEND, 0), (PWR.CMD_STATUS_ABORTED, 0), (PWR.EVT_DOMAIN_DONE, 1)])) ∧
    (d < 36 → s.domainOn d = true →
      (¬ s.MayPowerOff d → ∃ t, exec (.powerOff d) s = .next t ∧ t.rd PWR.LAST_REJECT_STATUS = 3 ∧ t.power = s.power ∧ t.mem = s.mem ∧ t.domainOn d = true) ∧
      (s.MayPowerOff d → ∃ t, exec (.powerOff d) s = .next t ∧ t.power = { s.power with entry := some (offEntry d false) } ∧ t.rd PWR.STATUS_ENTERING = 1 ∧
        t.rd PWR.CMD_STATUS_PEND = 1 ∧ t.domainOn d = true ∧ t.mem = s.mem ∧ (d < 32 → bitOf (t.rd NOC.REVOKE_BLK) d = true))) ∧
    (d < 36 → s.domainOn d = false →
      (d < 32 → s.regionOn (regionOfBlock d) = false → ∃ t, exec (.powerOn d) s = .next t ∧ t.rd PWR.LAST_REJECT_STATUS = 3 ∧ t.power = s.power) ∧
      ((d < 32 → s.regionOn (regionOfBlock d) = true) → ∃ t, exec (.powerOn d) s = .next t ∧ t.rd PWR.CMD_STATUS_PEND = 1 ∧
        t.power = { s.power with rising := [d], risingCmd := some d })) := by
  have hoff := exec_powerOff hfree ho hd64
  have hup := exec_powerOn hfree ho hd64
  refine ⟨fun h36 e he => ?_, fun h36 e he hon => ?_, fun h36 hon => ⟨fun hmay => ⟨_, hoff, ?_⟩, fun hmay => ⟨_, hoff, ?_⟩⟩,
    fun h36 hon => ⟨fun hd hreg => ⟨_, hup, ?_⟩, fun hreg => ⟨_, hup, ?_⟩⟩⟩
  · have hlt : ¬ d < 36 := Nat.not_lt.mpr h36
    have hlt' : ¬ d < 32 := by omega
    simp only [List.mem_cons, List.not_mem_nil, or_false] at he
    rcases he with rfl | rfl
    · refine ⟨_, hoff, ?_⟩
      rw [show s.powerOff d = s.pwrReject 2 2 by simp [State.powerOff, hlt, State.offBad, hlt', h36]]
      obtain ⟨-, h1, h2, -⟩ := s.rd_pwrReject 2 2
      exact ⟨h2, h1, s.pwrReject_power 2 2⟩
    · refine ⟨_, hup, ?_⟩
      rw [show s.powerOn d = s.pwrReject 3 2 by simp [State.powerOn, hlt, hlt', h36]]
      obtain ⟨-, h1, h2, -⟩ := s.rd_pwrReject 3 2
      exact ⟨h2, h1, s.pwrReject_power 3 2⟩
  · simp only [List.mem_cons, List.not_mem_nil, or_false] at he
    rcases he with rfl | rfl
    · exact hoff.trans (by rw [State.powerOff, if_pos ⟨h36, by simpa using hon⟩]; rfl)
    · exact hup.trans (by rw [State.powerOn, if_pos ⟨h36, hon⟩]; rfl)
  · have hbad : s.offBad d = true := by
      rwa [← State.offBad_eq_false_iff h36, Bool.not_eq_false] at hmay
    rw [State.powerOff_on h36 hon hbst, if_pos hbad]
    obtain ⟨-, -, h2, -, -, hb, hr⟩ := (s.noteBlock d).rd_pwrReject 2 3
    obtain ⟨hnp, hnm, hnb, hnr⟩ := s.noteBlock_frame d
    exact ⟨h2, (State.pwrReject_power 2 3).trans hnp, (State.pwrReject_mem 2 3).trans hnm,
      (State.domainOn_congr (hb.trans hnb) (hr.trans hnr) d).trans hon⟩
  · have hbad : s.offBad d = false := (State.offBad_eq_false_iff h36).mpr hmay
    rw [State.powerOff_on h36 hon hbst, if_neg (by simp [hbad])]
    obtain ⟨hp, hm, hent, hpend, hb, hr, hrev⟩ := (s.pwrStart 2).revoke_shows (offEntry d false)
    obtain ⟨hspend, hsb, hsr⟩ := s.rd_pwrStart 2
    refine ⟨hp, hent, hpend.trans hspend, (State.domainOn_congr (hb.trans hsb) (hr.trans hsr) d).trans hon, hm, fun hd => ?_⟩
    rw [hrev, bitOf_mod_two_pow _ hd, bitOf_lor, offEntry, if_pos hd, bitOf_two_pow_self, Bool.or_true]
  · rw [State.powerOn, if_neg (by simp [hon]), if_pos ⟨hd, by simp [hreg]⟩]
    obtain ⟨-, -, h2, -⟩ := s.rd_pwrReject 3 3
    exact ⟨h2, s.pwrReject_power 3 3⟩
  · rw [State.powerOn, if_neg (by simp [hon]), if_neg (by simpa using hreg), if_neg (Nat.not_le.mpr h36)]
    exact ⟨(s.rd_pwrStart 3).1, rfl⟩

/-- R416, R418: POWER_ON_DONE. -/
theorem powerOnDone_shows (s : State) (d : Nat) (rest : List Nat) (h : s.power.rising = d :: rest) (hd : d < 36) (hr : s.power.request = none)
    (hc : s.power.cmdWait = none) : ∃ t, exec .powerOnDone s = .next t ∧ t.power.rising = rest ∧ t.domainOn d = true ∧
      (s.power.risingCmd = some d → t.rd PWR.CMD_STATUS_PEND = 0 ∧ t.rd PWR.CMD_STATUS_STATUS = 0 ∧ t.power.risingCmd = none) := by
  obtain ⟨u, hu⟩ : ∃ u, u = State.raise { s with power := { s.power with rising := rest } } d := ⟨_, rfl⟩
  have hexec : exec .powerOnDone s = .next (State.pwrSettle (if s.power.risingCmd = some d then
      State.pwrDone { u with power := { u.power with risingCmd := none } } 3 0 false else u)) := by
    show Host.Outcome.next (match s.power.rising with
      | [] => s
      | d :: rest => _) = _
    rw [h, hu]
  have hp : u.power = { s.power with rising := rest } := by
    rw [hu]
    exact (State.powerStays_raise _ d).power
  have hon : u.domainOn d = true := by
    rw [hu]
    exact State.domainOn_raise _ hd
  clear hu
  have hreq : u.power.request = none := by rw [hp]; exact hr
  have hwait : u.power.cmdWait = none := by rw [hp]; exact hc
  refine ⟨_, hexec, ?_⟩
  by_cases hcmd : s.power.risingCmd = some d
  · rw [if_pos hcmd, State.pwrSettle_none (by exact hreq) (by exact hwait)]
    obtain ⟨h1, h2, -⟩ := State.rd_pwrDone (s := { u with power := { u.power with risingCmd := none } }) 3 0 false
    refine ⟨congrArg PowerX.rising hp, (State.domainOn_congr ?_ ?_ d).trans hon, fun _ => ⟨h2, h1, rfl⟩⟩
    · exact State.rd_pwrDone_ne _ _ _ (by decide)
    · exact State.rd_pwrDone_ne _ _ _ (by decide)
  · rw [if_neg hcmd, State.pwrSettle_none (by exact hreq) (by exact hwait)]
    exact ⟨congrArg PowerX.rising hp, hon, fun h => absurd h hcmd⟩

/-- R416: LEGACY_WAKE_REQUEST of a domain that is off. -/
theorem legacyWakeRequest_shows (s : State) (d : Nat) (hd : d < 36) (he : s.power.entry = none) (hoff : s.domainOn d = false)
    (hr : s.power.rising = []) :
    (s.flag PWR.CTRL_LEGACY_WAKE = false → exec (.legacyWakeRequest d) s = .next s) ∧
    (s.flag PWR.CTRL_LEGACY_WAKE = true → (∃ q ∈ s.net.waiting, if d < 32 then q.target.domains.1 = some d else q.target.domains.2 = some (d - 32)) →
      exec (.legacyWakeRequest d) s =
      .next { s with power := { s.power with rising := (if d < 32 ∧ s.regionOn (regionOfBlock d) = false then [32 + regionOfBlock d] else []) ++ [d] } }) := by
  refine ⟨fun h => ?_, fun h ⟨q, hq, hdom⟩ => ?_⟩
  · show Host.Outcome.next _ = _
    rw [if_pos (by simp [State.legacyWants, h])]
  · have hwants : s.legacyWants (if d < 32 then 2 ^ d else 0) (if d < 32 then 0 else 2 ^ (d - 32)) = true := by
      simp only [State.legacyWants, h, Bool.true_and, List.any_eq_true]
      refine ⟨q, hq, ?_⟩
      split at hdom
      · next hb => simp [hdom, hb, bitOf_two_pow_self]
      · next hb => simp [hdom, hb, bitOf_two_pow_self]
    show Host.Outcome.next (if _ then _ else _) = _
    rw [if_neg (by simp [hwants, he, hoff, Nat.not_le.mpr hd]), hr]
    simp

/-- R419: BLOCK_AUTO_OFF. -/
theorem blockAutoOff_shows (s : State) (b : Nat) (hb : b < 32) :
    (s.rd PWR.BLK_AUTO_US = 0 → exec (.blockAutoOff b) s = .next s) ∧
    (s.rd PWR.BLK_AUTO_US ≠ 0 → bitOf (s.rd PWR.BLK_AUTO_EN_EN) b = true → s.blockOn b = true → s.BlockStill b →
      s.flag (FAB.STATUS_RUN b) = false ∨ s.rd (FAB.PLANE_TILE_USED b (s.rd (FAB.STATUS_ACTIVE b))) = 0 → s.PwrFree →
      s.flag (FAB.STATUS_ARMED b) = false →
      (s.frozen = false → s.bst.run = none → ∃ t, exec (.blockAutoOff b) s = .next t ∧ t.power = { s.power with entry := some (offEntry b true) } ∧
        t.rd PWR.STATUS_ENTERING = 1 ∧ t.rd PWR.CMD_STATUS_PEND = s.rd PWR.CMD_STATUS_PEND ∧ t.mem = s.mem) ∧
      (s.frozen = true → ∃ t, exec (.blockAutoOff b) s = .next t ∧ t.power = s.power ∧ t.mem = s.mem ∧
        t.rd (PWR.REFUSE_COUNT 6) = satAdd (PWR.REFUSE_COUNT 6).width (s.rd (PWR.REFUSE_COUNT 6)) 1)) := by
  have hexec : exec (.blockAutoOff b) s = .next (s.autoOff b) := congrArg Host.Outcome.next (if_pos hb)
  rw [hexec]
  refine ⟨fun h => by rw [State.autoOff, if_pos (.inl h)], fun hus hen hon hstill hused hfree harm => ?_⟩
  obtain ⟨hcar, hdma⟩ := (State.blockStill_iff b).mp hstill
  have hgo : s.autoOff b = if s.frozen then s.noteRefuse [6] 0 0 else (s.abortSlice (s.sliceBlock b)).revoke (offEntry b true) := by
    unfold State.autoOff
    refine if_neg ?_
    have hbusy := hfree.idle.1
    rcases hused with h | h <;> simp [hus, hen, hon, hcar, hdma, harm, h, hbusy]
  rw [hgo]
  refine ⟨fun hf hbst => ⟨_, rfl, ?_⟩, fun hf => ⟨_, rfl, ?_⟩⟩
  · rw [hf, if_neg Bool.false_ne_true, State.abortSlice_idle _ hbst]
    obtain ⟨hp, hm, hent, hpend, -⟩ := s.revoke_shows (offEntry b true)
    exact ⟨hp, hent, hpend, hm⟩
  · rw [hf, if_pos rfl]
    refine ⟨rfl, rfl, ?_⟩
    simp (disch := decide) only [State.noteRefuse, List.foldl_cons, List.foldl_nil, State.wrs_cons, State.wrs_nil, State.rd_wr_ne]
    exact (State.rd_wr_self ..).trans (Nat.mod_eq_of_lt (satAdd_lt _ _ _))

end

/-- Settles O39: SET_LEVEL by the cases of `State.changeLevel` and the steps of `levelSteps`; a restored domain is on and the record of the
power controller stands (`State.powerStays_raise`). -/
theorem levelsAndDomainCommands : Obligations.LevelsAndDomainCommands := by
  refine ⟨fun s n ho e he => ?_, fun s l hfree ho hclk => ?_, fun s l up hl hr hc => levelSteps s l up hl hr hc,
    fun s d hfree ho hbst hd => domainClauses s d hfree ho hbst hd, fun s d rest h hd hr hc => powerOnDone_shows s d rest h hd hr hc,
    fun s d hd hent hoff hr => legacyWakeRequest_shows s d hd hent hoff hr, fun s b hb => blockAutoOff_shows s b hb⟩
  · rw [exec_pwrCommand ho he]
    refine ⟨fun hpend => ⟨_, rfl, ?_⟩, fun hpend hbusy => ?_⟩
    · obtain ⟨h0, h1, h2, h3, -⟩ := s.rd_pwrReject e.2.1 1
      rw [State.pwrCommand, if_pos hpend]
      refine ⟨h0, h1.trans ?_, h2, h3, s.pwrReject_power _ _, s.pwrReject_mem _ _⟩
      fin_cases he <;> rfl
    · have hin : s.inTransition = true := by
        rcases hbusy with h | h | h | h <;>
          simp [State.inTransition, h, Option.isSome_iff_ne_none.mpr, Option.isSome_iff_ne_none]
      rw [State.pwrCommand, if_neg (by simp [hpend]), if_pos hin]
      rfl
  · obtain ⟨h1, h2, h3⟩ := setLevelClauses s l hfree ho hclk
    refine ⟨h1, h2, h3, fun hl hne hlow => ⟨_, exec_setLevel hfree ho l, State.changeLevel_runs hclk hl hne fun hlt => ?_⟩⟩
    rw [← Bool.not_eq_true, State.levelTooLow_iff]
    rintro ⟨b, hb, hon, hrun, hover⟩
    exact absurd (hlow hlt b hb hon hrun) (by simp [hover])

end Sys2Proof.Machine

namespace Sys2Proof.Machine

/-! ## What leaves the power controller and the Store alone (R97, R105, R210, R410)

Runs that end, strides that resolve and SEQ commands that are judged change cells, caravans and registers. The records of the power
controller and of the Store stand. -/

/-- The power controller and the Store behind their registers. -/
def State.apart (s : State) : PowerX × StoreX := (s.power, s.store)

@[simp] theorem State.apart_mk (s : State) {grade' regs' mem' ecc' rawChk' cells' runs' blocks' regions' net' cal'
  objor' bonds' bst' cvy' stewards' evc' host' gpio' hub' rst' esum' retired' pulses' faultQ' answer'
  freeCtr' pending'} : State.apart ⟨grade', regs', mem', ecc', rawChk', cells', runs', blocks', regions',
  net', s.store, cal', objor', bonds', bst', cvy', stewards', evc', s.power, host', gpio', hub', rst', esum',
  retired', pulses', faultQ', answer', freeCtr', pending'⟩ = s.apart := (rfl)

/-- A fold of updates that leave the records alone. -/
theorem State.apart_foldl {α : Type} {f : State → α → State} {l : List α} {s : State} (h : ∀ t x, (f t x).apart = t.apart) :
    (l.foldl f s).apart = s.apart := State.foldl_same State.apart fun t x _ => h t x

/-- The records where an update is made under a condition. -/
theorem State.apart_ite (c : Prop) [Decidable c] (a b : State) : (if c then a else b).apart = if c then a.apart else b.apart := apply_ite ..

section

variable (s : State)

@[simp] theorem State.apart_wr (f : Fld) (v : Nat) : (s.wr f v).apart = s.apart := (rfl)
@[simp] theorem State.apart_wrs (l : List (Fld × Nat)) : (s.wrs l).apart = s.apart := by
  induction l generalizing s with
  | nil => rfl
  | cons e l ih => exact ih _
@[simp] theorem State.apart_count (f : Fld) (v : Nat) : (s.count f v).apart = s.apart := (rfl)
@[simp] theorem State.apart_setCell (c : Nat) (x : CellX) : (s.setCell c x).apart = s.apart := (rfl)
@[simp] theorem State.apart_modCell (c : Nat) (x : CellX → CellX) : (s.modCell c x).apart = s.apart := (rfl)
@[simp] theorem State.apart_setRun (c : Nat) (x : Run) : (s.setRun c x).apart = s.apart := (rfl)
@[simp] theorem State.apart_modRun (c : Nat) (x : Run → Run) : (s.modRun c x).apart = s.apart := (rfl)
@[simp] theorem State.apart_setBlock (c : Nat) (x : BlockX) : (s.setBlock c x).apart = s.apart := (rfl)
@[simp] theorem State.apart_modBlock (c : Nat) (x : BlockX → BlockX) : (s.modBlock c x).apart = s.apart := (rfl)
@[simp] theorem State.apart_setRegion (c : Nat) (x : RegionX) : (s.setRegion c x).apart = s.apart := (rfl)
@[simp] theorem State.apart_modRegion (c : Nat) (x : RegionX → RegionX) : (s.modRegion c x).apart = s.apart := (rfl)
@[simp] theorem State.apart_modSteward (c : Nat) (x : Steward → Steward) : (s.modSteward c x).apart = s.apart := (rfl)
@[simp] theorem State.apart_drawn : s.drawn.apart = s.apart := (rfl)
@[simp] theorem State.apart_pulse (n : Nat) : (s.pulse n).apart = s.apart := (rfl)
@[simp] theorem State.apart_report (a b : Nat) : (s.report a b).apart = s.apart := (rfl)
@[simp] theorem State.apart_reportAs (a b c : Nat) (l : List Nat) : (s.reportAs a b c l).apart = s.apart := (rfl)
@[simp] theorem State.apart_writeByte (a b : Nat) : (s.writeByte a b).apart = s.apart := (rfl)
@[simp] theorem State.apart_clearMem (a b : Nat) : (s.clearMem a b).apart = s.apart := (rfl)
@[simp] theorem State.apart_resetRegs (a b : Nat) : (s.resetRegs a b).apart = s.apart := (rfl)
@[simp] theorem State.apart_leavesHalted (a : Nat) : (s.leavesHalted a).apart = s.apart := (rfl)
@[simp] theorem State.apart_cvyOut (a : List Nat) : (s.cvyOut a).apart = s.apart := (rfl)
@[simp] theorem State.apart_writeBytes (a : Nat) (l : List Nat) : (s.writeBytes a l).apart = s.apart := by
  induction l generalizing s a with
  | nil => rfl
  | cons v l ih => exact ih _ _

@[simp] theorem State.apart_writeWord (a v : Nat) : (s.writeWord a v).apart = s.apart := by
  simp [State.writeWord]

@[simp] theorem State.apart_eccAfter (a upset : Nat) : (s.eccAfter a upset).apart = s.apart := by
  simp [State.eccAfter, State.apart_ite]

@[simp] theorem State.apart_wrAll (cs : List Nat) (f : Nat → Fld) (v : Nat) : (s.wrAll cs f v).apart = s.apart := by
  simp [State.wrAll, State.apart_foldl]

@[simp] theorem State.apart_setCv (l v : Nat) : (s.setCv l v).apart = s.apart := by
  simp [State.setCv]

@[simp] theorem State.apart_enterSafe (c n cause : Nat) : (s.enterSafe c n cause).apart = s.apart := by
  simp [State.enterSafe, State.apart_ite]

@[simp] theorem State.apart_safeCell (cause c : Nat) : (s.safeCell cause c).apart = s.apart := by
  simp [State.safeCell, State.apart_foldl]

@[simp] theorem State.apart_safeCells (cause : Nat) (cs : List Nat) : (s.safeCells cause cs).apart = s.apart := by
  simp [State.safeCells, State.apart_foldl]

@[simp] theorem State.apart_endSlice (res : Nat) (done : Bool) : (s.endSlice res done).apart = s.apart := by
  simp [State.endSlice]

@[simp] theorem State.apart_abortSlice (hit : Bool) : (s.abortSlice hit).apart = s.apart := by
  simp [State.abortSlice, State.apart_ite]

@[simp] theorem State.apart_receiveFrame (cmd hop : Nat) : (s.receiveFrame cmd hop).apart = s.apart := by
  simp [State.receiveFrame, State.apart_ite]

@[simp] theorem State.apart_sendFrame (cmd : Nat) : (s.sendFrame cmd).apart = s.apart := by
  simp [State.sendFrame, State.apart_ite]

@[simp] theorem State.apart_triggerFreeze (cause cell : Nat) : (s.triggerFreeze cause cell).apart = s.apart := by
  simp [State.triggerFreeze, State.apart_ite]

@[simp] theorem State.apart_breakFreeze (l : Nat) : (s.breakFreeze l).apart = s.apart := by
  simp [State.breakFreeze, State.apart_ite]

@[simp] theorem State.apart_voidRun (l cause reason : Nat) : (s.voidRun l cause reason).apart = s.apart := by
  simp [State.voidRun, State.apart_ite]

@[simp] theorem State.apart_withdraw (l : Nat) : (s.withdraw l).apart = s.apart := by
  simp only [State.withdraw]
  split <;> simp

@[simp] theorem State.apart_crowded (c k : Nat) : (s.crowded c k).apart = s.apart := by
  simp [State.crowded, State.apart_ite]

@[simp] theorem State.apart_flushEdges (c : Nat) : (s.flushEdges c).apart = s.apart := by
  simp [State.flushEdges]

@[simp] theorem State.apart_dropEdges (c : Nat) : (s.dropEdges c).apart = s.apart := by
  simp [State.dropEdges]

@[simp] theorem State.apart_haltCaravan (l : Nat) (causes : List (Nat × Nat)) : (s.haltCaravan l causes).apart = s.apart := by
  simp [State.haltCaravan, State.apart_foldl, State.apart_ite]

@[simp] theorem State.apart_reject (cnt code status : Fld) (op st : Nat) : (s.reject cnt code status op st).apart = s.apart := by
  simp [State.reject]

@[simp] theorem State.apart_rejectWord (c w st : Nat) : (s.rejectWord c w st).apart = s.apart := by
  simp [State.rejectWord]

@[simp] theorem State.apart_apgClean (l : Nat) : (s.apgClean l).apart = s.apart := by
  simp [State.apgClean]

@[simp] theorem State.apart_setActive (c n : Nat) : (s.setActive c n).apart = s.apart := by
  simp [State.setActive, State.apart_foldl]

@[simp] theorem State.apart_stopDma (c : Nat) : (s.stopDma c).apart = s.apart := by
  simp [State.stopDma, State.apart_foldl]

@[simp] theorem State.apart_flushRing (c : Nat) : (s.flushRing c).apart = s.apart := by
  simp [State.flushRing, State.apart_foldl]

@[simp] theorem State.apart_chainDma (c k : Nat) : (s.chainDma c k).apart = s.apart := by
  induction k generalizing s with
  | zero => rfl
  | succ k ih =>
    simp only [State.chainDma]
    (repeat' split) <;> simp [ih]

@[simp] theorem State.apart_primeRing (c n : Nat) : (s.primeRing c n).apart = s.apart := by
  simp [State.primeRing]

@[simp] theorem State.apart_haltBefore (l : Nat) (causes : List (Nat × Nat)) : (s.haltBefore l causes).apart = s.apart := by
  simp [State.haltBefore, State.apart_foldl, State.apart_ite]

@[simp] theorem State.apart_applyLoads (sn c : Nat) : (s.applyLoads sn c).apart = s.apart := by
  simp [State.applyLoads, State.apart_foldl, State.apart_ite]

@[simp] theorem State.apart_collide (c : Nat) : (s.collide c).apart = s.apart := by
  simp [State.collide]

@[simp] theorem State.apart_padErrors (c a port up : Nat) : (s.padErrors c a port up).apart = s.apart := by
  simp [State.padErrors, State.apart_ite]

@[simp] theorem State.apart_fetchCell (c a : Nat) (ring : Bool) (up : Nat) : (s.fetchCell c a ring up).apart = s.apart := by
  simp [State.fetchCell, State.apart_ite]

@[simp] theorem State.apart_fetchAll (l : Nat) (ups : List (Nat × Nat)) : (s.fetchAll l ups).apart = s.apart := by
  simp [State.fetchAll, State.apart_foldl]

@[simp] theorem State.apart_fetchNext (l : Nat) : (s.fetchNext l).1.apart = s.apart := by
  simp only [State.fetchNext]
  (repeat' split) <;> simp

@[simp] theorem State.apart_boundaryCauses (l : Nat) : (s.boundaryCauses l).1.apart = s.apart := by
  simp only [State.boundaryCauses]
  split <;> simp

@[simp] theorem State.apart_haltAtBoundary (l : Nat) (causes : List (Nat × Nat)) : (s.haltAtBoundary l causes).apart = s.apart := by
  simp [State.haltAtBoundary]

@[simp] theorem State.apart_sendTap (c : Nat) (fbits sc : Nat) (fc tmpl : Bool) : (s.sendTap c fbits sc fc tmpl).apart = s.apart := by
  simp [State.sendTap, State.apart_ite]

@[simp] theorem State.apart_pushRecord (c : Nat) (r : FailRec) : (s.pushRecord c r).apart = s.apart := by
  simp [State.pushRecord, State.apart_ite]

@[simp] theorem State.apart_resolveCell (l : Nat) (v : Stride) (m : CellStride) (obs : Nat) (dual : Bool) : (s.resolveCell l v m obs dual).apart = s.apart := by
  simp [State.resolveCell, State.apart_ite]

@[simp] theorem State.apart_templatePassed (l k : Nat) (rs : List MemberResult) : (s.templatePassed l k rs).apart = s.apart := by
  simp [State.templatePassed]

@[simp] theorem State.apart_markCell (id c : Nat) : (s.markCell id c).apart = s.apart := by
  simp [State.markCell]

@[simp] theorem State.apart_mark (l : Nat) (alloc : Bool) : (s.mark l alloc).apart = s.apart := by
  simp [State.mark, State.apart_foldl]

@[simp] theorem State.apart_placeMarks (l : Nat) : (s.placeMarks l).apart = s.apart := by
  simp [State.placeMarks, State.apart_foldl, State.apart_ite]

@[simp] theorem State.apart_resolveOne (l : Nat) (obs : List (Nat × Nat)) (dual : List Nat) : (s.resolveOne l obs dual).apart = s.apart := by
  simp only [State.resolveOne]
  (repeat' split) <;> simp [State.apart_foldl]

@[simp] theorem State.apart_seqTouch (c : Nat) : (s.seqTouch c).apart = s.apart := by
  simp [State.seqTouch, State.apart_ite]

@[simp] theorem State.apart_freeObs (l : List CellStride) : (s.freeObs l).1.apart = s.apart := by
  induction l generalizing s with
  | nil => rfl
  | cons m l ih => exact (ih s.drawn).trans s.apart_drawn

@[simp] theorem State.apart_settle (l k : Nat) : (s.settle l k).apart = s.apart := by
  induction k generalizing s with
  | zero => rfl
  | succ k ih =>
    simp only [State.settle]
    split <;> simp [ih]

@[simp] theorem State.apart_settleAll (l : Nat) : (s.settleAll l).apart = s.apart := s.apart_settle l _

@[simp] theorem State.apart_startCell (c : Nat) : (s.startCell c).apart = s.apart := by
  simp [State.startCell]

@[simp] theorem State.apart_startPipe (l c : Nat) : (s.startPipe l c).apart = s.apart := by
  simp [State.startPipe]

@[simp] theorem State.apart_startRun (l : Nat) (convoy : Bool) : (s.startRun l convoy).apart = s.apart := by
  simp [State.startRun, State.apart_foldl]

@[simp] theorem State.apart_resumeRun (l : Nat) (step : Bool) : (s.resumeRun l step).apart = s.apart := by
  simp [State.resumeRun, State.apart_foldl, State.apart_ite]

@[simp] theorem State.apart_stopRun (l : Nat) : (s.stopRun l).apart = s.apart := by
  simp [State.stopRun, State.apart_ite]

@[simp] theorem State.apart_abortRun (l : Nat) : (s.abortRun l).apart = s.apart := by
  simp [State.abortRun, State.apart_ite]

@[simp] theorem State.apart_judgeSeq (c op desc : Nat) (convoy : Bool) : (s.judgeSeq c op desc convoy).1.apart = s.apart := by
  simp only [State.judgeSeq]
  (repeat' split) <;> simp

@[simp] theorem State.apart_rejectSeq (c op st : Nat) : (s.rejectSeq c op st).apart = s.apart := by
  simp [State.rejectSeq]

@[simp] theorem State.apart_runSeq (c op desc : Nat) (convoy touch : Bool) : (s.runSeq c op desc convoy touch).apart = s.apart := by
  simp [State.runSeq, State.apart_ite]

@[simp] theorem State.apart_judgePending (b : Nat) : (s.judgePending b).apart = s.apart := by
  have hcell (t : State) (c : Nat) : (match (t.cell c).seqCmd with
      | none => t
      | some q => (t.modCell c fun x => { x with seqCmd := none }).runSeq c q.op q.desc q.convoy q.touch).apart = t.apart := by
    split <;> simp
  simp only [State.judgePending]
  split
  · rfl
  · exact State.apart_foldl hcell

@[simp] theorem State.apart_deriveCells (cs : List Nat) : (s.deriveCells cs).apart = s.apart := by
  simp [State.deriveCells, State.apart_foldl]

@[simp] theorem State.apart_endMembership (l : Nat) : (s.endMembership l).apart = s.apart := by
  simp [State.endMembership, State.apart_foldl]

@[simp] theorem State.apart_deriveLeads (r : Nat) : (s.deriveLeads r).apart = s.apart := by
  simp [State.deriveLeads]

@[simp] theorem State.apart_reform (r : Nat) (cids : List Nat) : (s.reform r cids).apart = s.apart := by
  simp [State.reform, State.apart_foldl]

@[simp] theorem State.apart_showFabRun (b : Nat) : (s.showFabRun b).apart = s.apart := by
  simp [State.showFabRun]

@[simp] theorem State.apart_dropUnresolved (l : Nat) : (s.dropUnresolved l).apart = s.apart := by
  simp [State.dropUnresolved, State.apart_foldl]

@[simp] theorem State.apart_gateBlock (b : Nat) : (s.gateBlock b).apart = s.apart := by
  simp [State.gateBlock, State.apart_foldl]

@[simp] theorem State.apart_pwEnd (b res fa : Nat) : (s.pwEnd b res fa).apart = s.apart := by
  simp [State.pwEnd]

@[simp] theorem State.apart_closeBonds (p : BondSession → Bool) : (s.closeBonds p).apart = s.apart := by
  simp [State.closeBonds, State.apart_foldl]

@[simp] theorem State.apart_stopAll : (s.stopAll).apart = s.apart := by
  simp [State.stopAll, State.apart_foldl, State.apart_ite]

@[simp] theorem State.apart_sourceGone (b : Nat) : (s.sourceGone b).apart = s.apart := by
  simp [State.sourceGone, State.apart_foldl]

@[simp] theorem State.apart_clearBlock (b : Nat) : (s.clearBlock b).apart = s.apart := by
  unfold State.clearBlock
  extract_lets lo x s1 s2 blank s3
  have h1 : s1.apart = s.apart := by simp [s1]
  have h2 : s2.apart = s.apart := by simp [s2, h1]
  have h3 : s3.apart = s.apart := by simp [s3, h2]
  exact s3.apart_mk.trans h3

@[simp] theorem State.apart_dropBlock (b : Nat) : (s.dropBlock b).apart = s.apart := by
  simp [State.dropBlock, State.apart_foldl]

@[simp] theorem State.apart_dropRegion (r : Nat) : (s.dropRegion r).apart = s.apart := by
  simp [State.dropRegion]

end

end Sys2Proof.Machine

namespace Sys2Proof.Machine

/-! ## Requests of a sleep state (R407, R408) -/

section

variable {s t : State}

/-- R408: the refusers read no register of the sleep request. -/
theorem State.refuser_congr (hrd : ∀ f : Fld, f.key < 64 * 0x300030 ∨ 64 * 0x300039 ≤ f.key → t.rd f = s.rd f) (hcells : t.cells = s.cells)
    (hblocks : t.blocks = s.blocks) (hstw : t.stewards = s.stewards) (hrst : t.rst = s.rst) (hwakes : t.power.wakes = s.power.wakes)
    (n k : Nat) : t.refuser n k = s.refuser n k := by
  have hcell (c : Nat) : t.cell c = s.cell c := by rw [State.cell, hcells, State.cell]
  have hblock (b : Nat) : t.block b = s.block b := by rw [State.block, hblocks, State.block]
  have hst (w : Nat) : t.steward w = s.steward w := by rw [State.steward, hstw, State.steward]
  have hhigh (f : Fld) (h : 0x400000 ≤ f.addr) : t.rd f = s.rd f := hrd f (.inr (by simp only [Fld.key]; omega))
  have hbusy (l : Nat) : t.busy l = s.busy l := by
    simp (disch := (simp only [cellBase]; omega)) only [State.busy, State.cvState, hhigh]
  have hin (b : Nat) : t.blockBusy b = s.blockBusy b := by
    have hen : t.enabled = s.enabled := by
      funext c
      simp (disch := (simp only [cellBase]; omega)) only [State.enabled, State.flag, hhigh]
    have hlead : t.leadOf = s.leadOf := by
      funext c
      simp (disch := (simp only [cellBase]; omega)) only [State.leadOf, hhigh]
    simp only [State.blockBusy, State.leadsInBlock, hen, hlead, show t.busy = s.busy from funext hbusy]
  have hcar (bs : List Nat) : t.refuseCaravan bs = s.refuseCaravan bs := by
    simp only [State.refuseCaravan, hin, hblock, hcell]
  have hdma (bs : List Nat) : t.refuseDma bs = s.refuseDma bs := by
    simp (disch := (simp only [cellBase]; omega)) only [State.refuseDma, State.flag, hblock, hhigh]
  have hslot : ((List.range 16).any fun k => t.rd (OBJ.SLOT_A_STATE k) == 1) = (List.range 16).any fun k => s.rd (OBJ.SLOT_A_STATE k) == 1 := by
    rw [Bool.eq_iff_iff, List.any_eq_true, List.any_eq_true]
    refine exists_congr fun k => and_congr_right fun hk => ?_
    rw [hrd _ (.inl (by have := List.mem_range.mp hk; simp only [Fld.key]; omega))]
  unfold State.refuser
  split <;> simp (disch := (simp only [Fld.key]; omega)) only [hcar, hdma, State.flag, State.frozen, hslot, hrd, hst, hrst, hwakes]

theorem State.refusers_congr (hrd : ∀ f : Fld, f.key < 64 * 0x300030 ∨ 64 * 0x300039 ≤ f.key → t.rd f = s.rd f) (hcells : t.cells = s.cells)
    (hblocks : t.blocks = s.blocks) (hstw : t.stewards = s.stewards) (hrst : t.rst = s.rst) (hwakes : t.power.wakes = s.power.wakes)
    (n : Nat) : t.refusers n = s.refusers n := by
  simp only [State.refusers, show t.refuser n = s.refuser n from funext (State.refuser_congr hrd hcells hblocks hstw hrst hwakes n)]

/-- R408: no refuser holds. -/
theorem State.maySleep_iff (n : Nat) : s.MaySleep n ↔ s.refusers n = [] := by
  have hstill : (∀ b, b < 32 → s.BlockStill b) ↔ s.refuseCaravan (List.range 32) = false ∧ s.refuseDma (List.range 32) = false := by
    simp only [State.blockStill_iff, State.refuseCaravan, State.refuseDma, List.any_cons, List.any_nil, Bool.or_false, List.any_eq_false,
      List.mem_range, Bool.not_eq_true]
    exact forall₂_and
  have hlist : s.refusers n = [] ↔ s.refuser n 0 = false ∧ s.refuser n 1 = false ∧ s.refuser n 2 = false ∧ s.refuser n 3 = false ∧
      s.refuser n 4 = false ∧ s.refuser n 5 = false ∧ s.refuser n 6 = false ∧ s.refuser n 7 = false := by
    simp [State.refusers, List.filter_eq_nil_iff, List.range_succ]
  rw [hlist]
  unfold State.MaySleep
  rw [hstill]
  simp only [State.refuser, Bool.or_eq_false_iff, Bool.and_eq_false_iff, List.any_eq_false, List.mem_range, Bool.not_eq_true, decide_eq_false_iff_not,
    bne_eq_false_iff_eq, Bool.not_eq_false', List.isEmpty_iff, beq_eq_false_iff_ne]
  by_cases hn : 2 ≤ n
  · simp only [hn, not_true, false_or, true_imp_iff, and_assoc]
    refine and_congr_right fun _ => and_congr_right fun _ => and_congr_right fun _ => and_congr_right fun _ => and_congr_right fun _ =>
      and_congr_right fun _ => ⟨?_, ?_⟩
    · rintro ⟨hlink, hheld, hir, hrest⟩
      exact ⟨hheld, hir, hlink, hrest⟩
    · rintro ⟨hheld, hir, hlink, hrest⟩
      exact ⟨hlink, hheld, hir, hrest⟩
  · simp only [hn, false_imp_iff, not_false_eq_true, true_or, true_and, and_assoc]

/-- R408: each refuser that holds is counted once. -/
theorem State.rd_refuseCounts (s : State) {ks : List Nat} (hn : ks.Nodup) (k : Nat) :
    (ks.foldl (fun t k => t.count (PWR.REFUSE_COUNT k) 1) s).rd (PWR.REFUSE_COUNT k) =
      if k ∈ ks then satAdd (PWR.REFUSE_COUNT k).width (s.rd (PWR.REFUSE_COUNT k)) 1 else s.rd (PWR.REFUSE_COUNT k) := by
  induction ks generalizing s with
  | nil => rfl
  | cons j ks ih =>
    obtain ⟨hj, hn⟩ := List.nodup_cons.mp hn
    rw [List.foldl_cons, ih _ hn]
    by_cases hk : k = j
    · subst hk
      rw [if_neg hj, if_pos List.mem_cons_self]
      exact (State.rd_wr_self ..).trans (Nat.mod_eq_of_lt (satAdd_lt _ _ _))
    · rw [State.count, State.rd_wr_ne _ _ (by simp only [Fld.key]; omega)]
      simp [hk]

/-- The counts of refusals leave the other registers. -/
theorem State.rd_refuseCounts_ne (s : State) (ks : List Nat) {f : Fld} (hf : f.key < 64 * 0x300200 ∨ 64 * 0x300240 ≤ f.key)
    (hks : ∀ k ∈ ks, k < 8) : (ks.foldl (fun t k => t.count (PWR.REFUSE_COUNT k) 1) s).rd f = s.rd f :=
  State.foldl_same (fun t => t.rd f) fun t k hk => t.rd_wr_ne _ (by have := hks k hk; simp only [Fld.key] at hf ⊢; omega)

theorem State.refuseCounts_frame (s : State) (ks : List Nat) :
    (ks.foldl (fun t k => t.count (PWR.REFUSE_COUNT k) 1) s).power = s.power ∧ (ks.foldl (fun t k => t.count (PWR.REFUSE_COUNT k) 1) s).mem = s.mem :=
  ⟨State.foldl_same State.power fun _ _ _ => rfl, State.foldl_same State.mem fun _ _ _ => rfl⟩

theorem State.mem_refusers_lt {n k : Nat} (h : k ∈ s.refusers n) : k < 8 := List.mem_range.mp (List.mem_filter.mp h).1

theorem State.nodup_refusers (n : Nat) : (s.refusers n).Nodup := List.nodup_range.filter _

/-- R408: what a refusal records. -/
theorem State.rd_noteRefuse (s : State) {ks : List Nat} (hn : ks.Nodup) (hks : ∀ k ∈ ks, k < 8) (state point : Nat) :
    (s.noteRefuse ks state point).rd PWR.LAST_REFUSE_REFUSER = ks.headD 0 ∧
      (∀ k ∈ ks, (s.noteRefuse ks state point).rd (PWR.REFUSE_COUNT k) = satAdd (PWR.REFUSE_COUNT k).width (s.rd (PWR.REFUSE_COUNT k)) 1) ∧
      ∀ f : Fld, f.key < 64 * 0x300200 ∨ 64 * 0x300241 ≤ f.key → (s.noteRefuse ks state point).rd f = s.rd f := by
  have hhead : ks.headD 0 < 8 := by
    cases ks with
    | nil => decide
    | cons k ks => exact hks k List.mem_cons_self
  unfold State.noteRefuse
  refine ⟨?_, fun k hk => ?_, fun f hf => ?_⟩
  · simp (disch := decide) only [State.wrs_cons, State.wrs_nil, State.rd_wr_ne, State.rd_wr_self]
    exact Nat.mod_eq_of_lt hhead
  · have := hks k hk
    simp (disch := (simp only [Fld.key]; omega)) only [State.wrs_cons, State.wrs_nil, State.rd_wr_ne]
    rw [State.rd_refuseCounts s hn k, if_pos hk]
  · refine (State.rd_wrs_ne _ _ fun e he => ?_).trans (State.rd_refuseCounts_ne s ks (hf.imp_right fun h => le_trans (by decide) h) hks)
    simp only [List.mem_cons, List.not_mem_nil, or_false] at he
    rcases he with rfl | rfl | rfl <;> (simp only [Fld.key] at hf ⊢; omega)

/-- R407: the request that is judged. -/
def State.sleepLatched (s : State) (n : Nat) : State :=
  ({ s with power := { s.power with request := none } }).wrs [(PWR.SLEEP_PEND, 0), (PWR.SLEEP_STATUS_STATE, n)]

theorem State.rd_sleepLatched (n : Nat) {f : Fld} (hf : f.key < 64 * 0x300030 ∨ 64 * 0x300039 ≤ f.key) : (s.sleepLatched n).rd f = s.rd f := by
  refine (State.rd_wrs_ne _ _ fun e he => ?_).trans rfl
  simp only [List.mem_cons, List.not_mem_nil, or_false] at he
  rcases he with rfl | rfl <;> (simp only [Fld.key] at hf ⊢; omega)

theorem State.refusers_sleepLatched (n : Nat) : (s.sleepLatched n).refusers n = s.refusers n :=
  State.refusers_congr (fun _ hf => State.rd_sleepLatched n hf) rfl rfl rfl rfl rfl n

/-- R408: a request that a refuser stops. -/
theorem State.latchSleep_refused {n : Nat} (h : s.refusers n ≠ []) : s.latchSleep n =
    ((((s.sleepLatched n).noteRefuse (s.refusers n) n 0).reject PWR.REJECT_COUNT PWR.LAST_REJECT_CODE PWR.LAST_REJECT_STATUS (0x10 + n) 3).wrs
      [(PWR.SLEEP_STATUS_OUTCOME, 3), (PWR.SLEEP_STATUS_POINT, 0)]).consumeWakes := by
  have hks := State.refusers_sleepLatched (s := s) n
  unfold State.latchSleep
  rw [show ({ s with power := { s.power with request := none } } : State).wrs [(PWR.SLEEP_PEND, 0), (PWR.SLEEP_STATUS_STATE, n)] =
    s.sleepLatched n from rfl]
  dsimp only
  rw [hks, if_neg (by rwa [List.isEmpty_iff])]

@[simp] theorem State.consumeWakes_rd (s : State) (f : Fld) : s.consumeWakes.rd f = s.rd f := rfl

theorem State.noteRefuse_frame (s : State) (ks : List Nat) (state point : Nat) :
    (s.noteRefuse ks state point).power = s.power ∧ (s.noteRefuse ks state point).mem = s.mem := s.refuseCounts_frame ks

/-- R408, R409: what a refused request shows. -/
theorem State.latchSleep_refused_shows {n : Nat} (h : s.refusers n ≠ []) :
    (s.latchSleep n).rd PWR.SLEEP_STATUS_OUTCOME = 3 ∧ (s.latchSleep n).rd PWR.LAST_REFUSE_REFUSER = (s.refusers n).headD 0 ∧
      (s.latchSleep n).rd PWR.LAST_REJECT_STATUS = 3 ∧ (s.latchSleep n).power = { s.power with request := none, wakes := [] } ∧
      (s.latchSleep n).mem = s.mem ∧ ∀ k ∈ s.refusers n, (s.latchSleep n).rd (PWR.REFUSE_COUNT k) =
        satAdd (PWR.REFUSE_COUNT k).width (s.rd (PWR.REFUSE_COUNT k)) 1 := by
  have hlt : ∀ k ∈ s.refusers n, k < 8 := fun k hk => State.mem_refusers_lt hk
  obtain ⟨hhead, hcount, -⟩ := (s.sleepLatched n).rd_noteRefuse (State.nodup_refusers n) hlt n 0
  obtain ⟨hpower, hmem⟩ := (s.sleepLatched n).noteRefuse_frame (s.refusers n) n 0
  rw [State.latchSleep_refused h]
  generalize (s.sleepLatched n).noteRefuse (s.refusers n) n 0 = v at hhead hcount hpower hmem
  dsimp only [State.reject, State.count]
  simp (disch := decide) only [State.consumeWakes_rd, State.wrs_cons, State.wrs_nil, State.rd_wr_ne, State.rd_wr_self]
  refine ⟨rfl, hhead, rfl, ?_, hmem, fun k hk => ?_⟩
  · exact congrArg (fun p : PowerX => { p with wakes := [] }) hpower
  · have := hlt k hk
    simp (disch := (simp only [Fld.key]; omega)) only [State.rd_wr_ne]
    rw [hcount k hk, State.rd_sleepLatched n (by simp only [Fld.key]; omega)]

/-- R408, R410 step 1: a request that nothing refuses. -/
theorem State.latchSleep_goes {n : Nat} (h : s.refusers n = []) (hbst : s.bst.run = none) : s.latchSleep n =
    if n = 1 then State.revalidate { s.sleepLatched n with power := { s.power with request := none, sleep := 1 } }
    else { (s.sleepLatched n).revoke ⟨n, 36, s.rd PWR.DOMAINS_BLK_ON, s.rd PWR.DOMAINS_RGN_ON, 2, false⟩ with
      power := { s.power with
        request := none
        entry := some ⟨n, 36, s.rd PWR.DOMAINS_BLK_ON, s.rd PWR.DOMAINS_RGN_ON, 2, false⟩
        wasBlocks := s.rd PWR.DOMAINS_BLK_ON
        wasRegions := s.rd PWR.DOMAINS_RGN_ON } } := by
  have hks := (State.refusers_sleepLatched (s := s) n).trans h
  have hidle : (s.sleepLatched n).bst.run = none := hbst
  unfold State.latchSleep
  rw [show ({ s with power := { s.power with request := none } } : State).wrs [(PWR.SLEEP_PEND, 0), (PWR.SLEEP_STATUS_STATE, n)] =
    s.sleepLatched n from rfl]
  dsimp only
  rw [hks, if_pos List.isEmpty_nil, State.abortSlice_idle _ hidle, State.rd_sleepLatched n (by decide), State.rd_sleepLatched n (by decide)]
  rfl

theorem exec_sleep {e : Instr × Nat} (he : e ∈ [(.sleepIdle, 1), (.sleepDoze, 2), (.sleepDormant, 3)])
    (ho : s.regOpen 0 PWR.SLEEP_REQ.addr = true) : exec e.1 s = .next (s.requestSleep e.2) := by
  simp only [List.mem_cons, List.not_mem_nil, or_false] at he
  rcases he with rfl | rfl | rfl <;> exact congrArg Host.Outcome.next (State.atReg_open _ ho)

/-- R407 to R410: SLEEP_IDLE, SLEEP_DOZE and SLEEP_DORMANT. -/
theorem sleepClauses (s : State) (e : Instr × Nat) (he : e ∈ [(.sleepIdle, 1), (.sleepDoze, 2), (.sleepDormant, 3)])
    (ho : s.regOpen 0 PWR.SLEEP_REQ.addr = true) :
    (¬ s.PwrFree → exec e.1 s = .next (({ s with power := { s.power with request := some e.2 } }).wrs [(PWR.SLEEP_PEND, 1),
      (PWR.SLEEP_STATUS_STATE, e.2)])) ∧
    (s.PwrFree → ¬ s.MaySleep e.2 → ∃ t, exec e.1 s = .next t ∧ t.rd PWR.SLEEP_STATUS_OUTCOME = 3 ∧
      t.rd PWR.LAST_REFUSE_REFUSER = (s.refusers e.2).headD 0 ∧ t.rd PWR.LAST_REJECT_STATUS = 3 ∧ t.power.entry = none ∧ t.power.sleep = 0 ∧ t.mem = s.mem ∧
      ∀ k ∈ s.refusers e.2, t.rd (PWR.REFUSE_COUNT k) = satAdd (PWR.REFUSE_COUNT k).width (s.rd (PWR.REFUSE_COUNT k)) 1) ∧
    (s.PwrFree → s.MaySleep e.2 → s.bst.run = none → ∃ t, exec e.1 s = .next t ∧ t.power.request = none ∧ t.mem = s.mem ∧
      if e.2 = 1 then t.power.sleep = 1 else t.power.entry = some ⟨e.2, 36, s.rd PWR.DOMAINS_BLK_ON, s.rd PWR.DOMAINS_RGN_ON, 2, false⟩ ∧
        t.rd PWR.STATUS_ENTERING = 1 ∧ t.power.wasBlocks = s.rd PWR.DOMAINS_BLK_ON ∧ t.power.wasRegions = s.rd PWR.DOMAINS_RGN_ON) := by
  rw [exec_sleep he ho]
  obtain ⟨i, n⟩ := e
  refine ⟨fun hfree => ?_, fun hfree hmay => ⟨_, rfl, ?_⟩, fun hfree hmay hbst => ⟨_, rfl, ?_⟩⟩
  · rw [State.requestSleep, if_pos (State.pwrBusy_of_not_pwrFree hfree)]
  · rw [State.maySleep_iff] at hmay
    have hbusy := hfree.idle.1
    obtain ⟨-, hentry, -, -, -, hsleep⟩ := hfree
    obtain ⟨hout, hwho, hrej, hpower, hmem, hcount⟩ := State.latchSleep_refused_shows hmay
    rw [State.requestSleep, if_neg (by rw [hbusy]; decide)]
    exact ⟨hout, hwho, hrej, hpower ▸ hentry, hpower ▸ hsleep, hmem, hcount⟩
  · rw [State.requestSleep, if_neg (by rw [hfree.idle.1]; decide), State.latchSleep_goes ((State.maySleep_iff n).mp hmay) hbst]
    dsimp only
    split
    · exact ⟨rfl, rfl, rfl⟩
    · exact ⟨rfl, rfl, rfl, (State.revoke_shows _ _).2.2.1, rfl, rfl⟩

end

end Sys2Proof.Machine

namespace Sys2Proof.Machine

/-! ## Cancelled and automatic requests (R407), wakes (R413) and the end of IDLE -/

section

variable {s : State}

theorem State.cancelSleep_none (h : s.power.request = none) : s.cancelSleep = s := by
  rw [State.cancelSleep, h, Option.isNone_none, if_pos rfl]

theorem State.cancelSleep_some (h : s.power.request ≠ none) : s.cancelSleep = ({ s with power := { s.power with request := none } }).wrs
    [(PWR.SLEEP_PEND, 0), (PWR.SLEEP_STATUS_OUTCOME, 4), (PWR.SLEEP_STATUS_POINT, 0)] := by
  rw [State.cancelSleep, if_neg (by simpa using h)]

theorem State.dmaActive_iff : s.dmaActive = true ↔ (∃ c, c < 256 ∧ s.flag (SEQ.RING_STATUS_DMA_ACTIVE c) = true) ∨
    ∃ i, i < 8 ∧ s.flag (DMA.STATUS_PEND i) = true := by
  simp only [State.dmaActive, Bool.or_eq_true, List.any_eq_true, List.mem_range]

/-- R407: what keeps the chip idle timer from ending. -/
theorem State.stewards_asleep_iff : ((List.range 4).all fun w => (s.steward w).wfi) = true ↔ ∀ w, w < 4 → (s.steward w).wfi = true := by
  simp only [List.all_eq_true, List.mem_range]

/-- R407: SLEEP_CANCEL and AUTO_SLEEP. -/
theorem sleepCancelClauses (s : State) :
    (s.power.request = none → s.regOpen 0 PWR.SLEEP_REQ.addr = true → exec .sleepCancel s = .next s) ∧
    (s.power.request ≠ none → s.regOpen 0 PWR.SLEEP_REQ.addr = true → exec .sleepCancel s = .next (({ s with power := { s.power with request := none } }).wrs [(PWR.SLEEP_PEND, 0),
      (PWR.SLEEP_STATUS_OUTCOME, 4), (PWR.SLEEP_STATUS_POINT, 0)])) ∧
    (s.flag PWR.AUTO_EN = false ∨ (∃ w, w < 4 ∧ (s.steward w).wfi = false) ∨ (∃ i, i < 8 ∧ s.flag (DMA.STATUS_PEND i) = true) ∨
      (∃ c, c < 256 ∧ s.flag (SEQ.RING_STATUS_DMA_ACTIVE c) = true) → exec .autoSleep s = .next s) ∧
    (s.flag PWR.AUTO_EN = true → (∀ w, w < 4 → (s.steward w).wfi = true) → (∀ i, i < 8 → s.flag (DMA.STATUS_PEND i) = false) →
      (∀ c, c < 256 → s.flag (SEQ.RING_STATUS_DMA_ACTIVE c) = false) → ∀ e ∈ [(Instr.sleepIdle, 1), (.sleepDoze, 2), (.sleepDormant, 3)],
      max 1 (s.rd PWR.AUTO_STATE) = e.2 → s.regOpen 0 PWR.SLEEP_REQ.addr = true → exec .autoSleep s = exec e.1 s) := by
  have hcancel (ho : s.regOpen 0 PWR.SLEEP_REQ.addr = true) : exec .sleepCancel s = .next s.cancelSleep :=
    congrArg Host.Outcome.next (State.atReg_open _ ho)
  have hauto : exec .autoSleep s = .next (if s.flag PWR.AUTO_EN && ((List.range 4).all fun w => (s.steward w).wfi) && !s.dmaActive then
    s.requestSleep (max 1 (s.rd PWR.AUTO_STATE)) else s) := rfl
  refine ⟨fun h ho => ?_, fun h ho => ?_, fun h => ?_, fun hen hw hi hc e he hn ho => ?_⟩
  · rw [hcancel ho, State.cancelSleep_none h]
  · rw [hcancel ho, State.cancelSleep_some h]
  · rw [hauto, if_neg]
    simp only [Bool.and_eq_true, State.stewards_asleep_iff, Bool.not_eq_true', ← Bool.not_eq_true, State.dmaActive_iff]
    rintro ⟨⟨hen, hw⟩, hdma⟩
    rcases h with h | ⟨w, hw4, h⟩ | h | h
    · exact absurd (h.symm.trans hen) (by decide)
    · exact absurd (h.symm.trans (hw w hw4)) (by decide)
    · exact hdma (.inr h)
    · exact hdma (.inl h)
  · have hdma : s.dmaActive = false := by
      rw [← Bool.not_eq_true, State.dmaActive_iff]
      rintro (⟨c, hc4, h⟩ | ⟨i, hi8, h⟩)
      · exact absurd (h.symm.trans (hc c hc4)) (by decide)
      · exact absurd (h.symm.trans (hi i hi8)) (by decide)
    rw [hauto, exec_sleep he ho, hen, State.stewards_asleep_iff.mpr hw, hdma, hn]
    rfl

/-! ### Wakes -/

@[simp] theorem State.cancelSleep_power (s : State) : s.cancelSleep.power = { s.power with request := none } := by
  by_cases h : s.power.request = none
  · rw [State.cancelSleep_none h, ← h]
  · rw [State.cancelSleep_some h]
    rfl

@[simp] theorem State.cancelSleep_mem (s : State) : s.cancelSleep.mem = s.mem := by
  unfold State.cancelSleep
  split <;> rfl

theorem State.rd_cancelSleep (s : State) {f : Fld} (hf : f.key < 64 * 0x300030 ∨ 64 * 0x300039 ≤ f.key) : s.cancelSleep.rd f = s.rd f := by
  unfold State.cancelSleep
  split
  · rfl
  · refine (State.rd_wrs_ne _ _ fun e he => ?_).trans rfl
    simp only [List.mem_cons, List.not_mem_nil, or_false] at he
    rcases he with rfl | rfl | rfl <;> (simp only [Fld.key] at hf ⊢; omega)

theorem State.rd_cancelSleep_outcome (s : State) : s.cancelSleep.rd PWR.SLEEP_STATUS_OUTCOME =
    if s.power.request = none then s.rd PWR.SLEEP_STATUS_OUTCOME else 4 := by
  split
  · next h => rw [State.cancelSleep_none h]
  · next h =>
    rw [State.cancelSleep_some h]
    simp (disch := decide) only [State.wrs_cons, State.wrs_nil, State.rd_wr_ne, State.rd_wr_self]
    rfl

/-- R413, R414: what records source `k` with index `i` at time `t`. -/
def State.wakeNoted (s : State) (k i t : Nat) : State :=
  let s0 := (s.wr PWR.WAKE_SRCS_FIRED (setBit (s.rd PWR.WAKE_SRCS_FIRED) (k - 1))).reached PWR.OTIME_TICKS t
  if 2 ≤ s.power.sleep ∧ s.power.wakes ≠ [] then s0
  else s0.wrs [(PWR.LAST_WAKE_SRC, k), (PWR.LAST_WAKE_INDEX, if k = 6 then i else 0), (PWR.LAST_WAKE_TIME, t)]

@[simp] theorem State.wakeNoted_power (s : State) (k i t : Nat) : (s.wakeNoted k i t).power = s.power := by
  unfold State.wakeNoted
  dsimp only
  split <;> rfl

@[simp] theorem State.wakeNoted_mem (s : State) (k i t : Nat) : (s.wakeNoted k i t).mem = s.mem := by
  unfold State.wakeNoted
  dsimp only
  split <;> rfl

theorem State.wakeNoted_shows (s : State) {k i : Nat} (hk : 1 ≤ k ∧ k ≤ 6) (hi : i < 32) (t : Nat) :
    (if 2 ≤ s.power.sleep ∧ s.power.wakes ≠ [] then (s.wakeNoted k i t).rd PWR.LAST_WAKE_SRC = s.rd PWR.LAST_WAKE_SRC
      else (s.wakeNoted k i t).rd PWR.LAST_WAKE_SRC = k ∧ (s.wakeNoted k i t).rd PWR.LAST_WAKE_INDEX = (if k = 6 then i else 0) ∧
        (s.wakeNoted k i t).rd PWR.LAST_WAKE_TIME = t % 2 ^ 48) ∧
      bitOf ((s.wakeNoted k i t).rd PWR.WAKE_SRCS_FIRED) (k - 1) = true := by
  obtain ⟨hk1, hk6⟩ := hk
  have hbit : bitOf (setBit (s.rd PWR.WAKE_SRCS_FIRED) (k - 1) % 2 ^ 6) (k - 1) = true := by
    rw [bitOf_setBit_mod (by omega), decide_eq_true rfl, Bool.or_true]
  unfold State.wakeNoted State.reached
  dsimp only
  split
  · next h =>
    simp (disch := decide) only [State.rd_wr_ne, State.rd_wr_self]
    exact ⟨trivial, hbit⟩
  · next h =>
    simp (disch := decide) only [State.wrs_cons, State.wrs_nil, State.rd_wr_ne, State.rd_wr_self]
    refine ⟨⟨Nat.mod_eq_of_lt (by omega), Nat.mod_eq_of_lt ?_, trivial⟩, hbit⟩
    split
    · exact hi
    · decide

/-- R413: one enabled source has fired. -/
theorem State.wake_one {fired : List (Nat × Nat)} {k i : Nat} (h : fired.filter s.wakeEnabled = [(k, i)]) (t : Nat) :
    s.wake fired t =
      if s.power.sleep = 1 then
        (({ s.wakeNoted k i t with power := { (s.wakeNoted k i t).power with sleep := 0 } }).wr PWR.SLEEP_STATUS_OUTCOME
          1).consumeWakes.cancelSleep.pwrSettle
      else if s.power.sleep = 0 ∧ s.power.entry.isNone ∧ s.power.request.isSome = true then (s.wakeNoted k i t).cancelSleep
      else { (s.wakeNoted k i t).cancelSleep with
        power := { (s.wakeNoted k i t).cancelSleep.power with wakes := (s.wakeNoted k i t).power.wakes ++ [(k, i)] } } := by
  rw [State.wake, h]
  rfl

/-- R413: only the six wake sources are enabled. -/
theorem State.wakeEnabled_code {e : Nat × Nat} (h : s.wakeEnabled e = true) : 1 ≤ e.1 ∧ e.1 ≤ 6 := by
  simp only [State.wakeEnabled, Bool.and_eq_true, decide_eq_true_eq] at h
  exact h.1.1.1.1

/-- R413: the wake that ends IDLE. -/
def State.wakeIdle (v : State) : State :=
  (({ v with power := { v.power with sleep := 0 } }).wr PWR.SLEEP_STATUS_OUTCOME 1).consumeWakes.cancelSleep

theorem State.rd_wakeIdle (v : State) {f : Fld} (hf : 64 * 0x300039 ≤ f.key) : v.wakeIdle.rd f = v.rd f := by
  unfold State.wakeIdle
  rw [State.rd_cancelSleep _ (.inr hf), State.consumeWakes_rd, State.rd_wr_ne _ _ (by simp only [Fld.key] at hf ⊢; omega)]
  rfl

theorem State.rd_wakeIdle_outcome {v : State} (h : v.power.request = none) : v.wakeIdle.rd PWR.SLEEP_STATUS_OUTCOME = 1 := by
  unfold State.wakeIdle
  rw [State.rd_cancelSleep_outcome, if_pos (by exact h), State.consumeWakes_rd, State.rd_wr_self]
  rfl

theorem State.wakeIdle_power (v : State) : v.wakeIdle.power = { v.power with sleep := 0, wakes := [], request := none } :=
  (State.cancelSleep_power _).trans rfl

theorem State.wakeIdle_mem (v : State) : v.wakeIdle.mem = v.mem := (State.cancelSleep_mem _).trans rfl

theorem State.wake_idle {fired : List (Nat × Nat)} {k i : Nat} (h : fired.filter s.wakeEnabled = [(k, i)]) (t : Nat) (hs : s.power.sleep = 1)
    (hc : s.power.cmdWait = none) : s.wake fired t = (s.wakeNoted k i t).wakeIdle := by
  rw [State.wake_one h, if_pos hs]
  have hp := (s.wakeNoted k i t).wakeIdle_power
  exact State.pwrSettle_none (congrArg PowerX.request hp) ((congrArg PowerX.cmdWait hp).trans ((congrArg PowerX.cmdWait (s.wakeNoted_power k i t)).trans hc))

/-- R413: a wake touches the records of wakes and of the sleep request alone. -/
theorem State.rd_wake_one {fired : List (Nat × Nat)} {k i : Nat} (h : fired.filter s.wakeEnabled = [(k, i)]) (t : Nat)
    (hc : s.power.cmdWait = none) : (s.wake fired t).mem = s.mem ∧
      ∀ f : Fld, 64 * 0x300039 ≤ f.key → (s.wake fired t).rd f = (s.wakeNoted k i t).rd f := by
  by_cases hs : s.power.sleep = 1
  · rw [State.wake_idle h t hs hc]
    exact ⟨(State.wakeIdle_mem _).trans (s.wakeNoted_mem k i t), fun f hf => State.rd_wakeIdle _ hf⟩
  · rw [State.wake_one h, if_neg hs]
    split
    · exact ⟨(State.cancelSleep_mem _).trans (s.wakeNoted_mem k i t), fun f hf => State.rd_cancelSleep _ (.inr hf)⟩
    · exact ⟨(State.cancelSleep_mem _).trans (s.wakeNoted_mem k i t), fun f hf => State.rd_cancelSleep _ (.inr hf)⟩

theorem wakeClauses (s : State) (fired : List (Nat × Nat)) (t : Nat) :
    (fired.filter s.wakeEnabled = [] → exec (.wake fired t) s = .next s) ∧
    (∀ k i, fired.filter s.wakeEnabled = [(k, i)] → i < 32 → s.power.cmdWait = none → ∃ u, exec (.wake fired t) s = .next u ∧
      (if 2 ≤ s.power.sleep ∧ s.power.wakes ≠ [] then u.rd PWR.LAST_WAKE_SRC = s.rd PWR.LAST_WAKE_SRC
        else u.rd PWR.LAST_WAKE_SRC = k ∧ u.rd PWR.LAST_WAKE_INDEX = (if k = 6 then i else 0) ∧ u.rd PWR.LAST_WAKE_TIME = t % 2 ^ 48) ∧
      bitOf (u.rd PWR.WAKE_SRCS_FIRED) (k - 1) = true ∧ u.mem = s.mem ∧ (s.power.sleep ≠ 1 → s.power.request = none → u.power = { s.power with wakes := s.power.wakes ++ [(k, i)] }) ∧
      (s.power.sleep = 0 → s.power.request ≠ none → s.power.entry = none → u.power = { s.power with request := none } ∧ u.rd PWR.SLEEP_STATUS_OUTCOME = 4) ∧
      (2 ≤ s.power.sleep → s.power.request ≠ none → u.power = { s.power with request := none, wakes := s.power.wakes ++ [(k, i)] } ∧ u.rd PWR.SLEEP_STATUS_OUTCOME = 4) ∧
      (s.power.sleep = 1 → s.power.request = none → u.power = { s.power with sleep := 0, wakes := [] } ∧ u.rd PWR.SLEEP_STATUS_OUTCOME = 1)) := by
  have hexec : exec (.wake fired t) s = .next (s.wake fired t) := rfl
  refine ⟨fun h => ?_, fun k i h hi hc => ⟨_, hexec, ?_⟩⟩
  · rw [hexec, State.wake, h]
  have hk := s.wakeEnabled_code (e := (k, i)) (List.mem_filter.mp (h ▸ List.mem_singleton_self _ : (k, i) ∈ fired.filter s.wakeEnabled)).2
  have hshows := s.wakeNoted_shows hk hi t
  obtain ⟨hmem, hrd⟩ := State.rd_wake_one h t hc
  have hpower := s.wakeNoted_power k i t
  refine ⟨?_, ?_, hmem, fun hs hr => ?_, fun hs hr he => ?_, fun hs hr => ?_, fun hs hr => ?_⟩
  · rw [hrd _ (by decide), hrd _ (by decide), hrd _ (by decide)]
    exact hshows.1
  · rw [hrd _ (by decide)]
    exact hshows.2
  · rw [State.wake_one h, if_neg hs, if_neg (by rw [hr]; simp)]
    simp only [State.cancelSleep_power, hpower, ← hr]
  · rw [State.wake_one h, if_neg (by omega), if_pos ⟨hs, by rw [he]; rfl, by simpa using Option.ne_none_iff_isSome.mp hr⟩]
    exact ⟨by rw [State.cancelSleep_power, hpower], by rw [State.rd_cancelSleep_outcome, hpower, if_neg hr]⟩
  · rw [State.wake_one h, if_neg (by omega), if_neg (by omega)]
    refine ⟨by simp only [State.cancelSleep_power, hpower], ?_⟩
    exact (State.rd_cancelSleep_outcome _).trans (if_neg (by rwa [hpower]))
  · rw [State.wake_idle h t hs hc]
    refine ⟨by rw [State.wakeIdle_power, hpower, ← hr], ?_⟩
    exact State.rd_wakeIdle_outcome ((congrArg PowerX.request hpower).trans hr)

/-! ### The timer, the Convoy and the end of IDLE -/

theorem wakeSourceClauses (s : State) (t : Nat) :
    (s.flag PWR.OTIMER_EN = false → exec .otimerExpiry s = .next s) ∧
    (s.flag PWR.OTIMER_EN = true → exec .otimerExpiry s = exec (.wake [(5, 0)] (s.rd PWR.OTIMER_CMP))
      ((s.reached PWR.OTIME_TICKS (s.rd PWR.OTIMER_CMP)).wr PWR.OTIMER_EN 0)) ∧
    (s.power.sleep = 0 → s.power.entry = none → s.power.request = none → exec (.convoyWakePattern t) s = .next s.passWake) ∧
    (s.power.sleep ≠ 0 → exec (.convoyWakePattern t) s = exec (.wake [(2, 0)] t) s.passWake) := by
  have htimer : exec .otimerExpiry s = .next (if s.flag PWR.OTIMER_EN then
    ((s.reached PWR.OTIME_TICKS (s.rd PWR.OTIMER_CMP)).wr PWR.OTIMER_EN 0).wake [(5, 0)] (s.rd PWR.OTIMER_CMP) else s) := rfl
  have hpattern : exec (.convoyWakePattern t) s = .next (if s.power.sleep = 0 ∧ s.power.entry.isNone ∧ s.power.request.isNone then s.passWake
    else s.passWake.wake [(2, 0)] t) := rfl
  refine ⟨fun h => ?_, fun h => ?_, fun hs he hr => ?_, fun hs => ?_⟩
  · rw [htimer, h]
    rfl
  · rw [htimer, if_pos h]
    rfl
  · rw [hpattern, if_pos ⟨hs, by rw [he]; rfl, by rw [hr]; rfl⟩]
  · rw [hpattern, if_neg fun h => hs h.1]
    rfl

theorem idleExitClauses (s : State) :
    (s.power.sleep ≠ 1 ∨ (s.anySleeper = false ∧ s.net.waiting = []) → exec .idleExit s = .next s) ∧
    (s.power.sleep = 1 → s.anySleeper = true ∨ s.net.waiting ≠ [] → s.power.request = none → s.power.cmdWait = none → exec .idleExit s = .next ((({ s with power := { s.power with sleep := 0 } }).wrs
      [(PWR.SLEEP_STATUS_OUTCOME, 1), (PWR.SLEEP_STATUS_POINT, 0)]).count PWR.IDLE_EXITS_COUNT 1)) := by
  have hexec : exec .idleExit s = .next (if s.power.sleep = 1 ∧ (s.anySleeper || !s.net.waiting.isEmpty) = true then s.endIdle.pwrSettle
    else s) := rfl
  refine ⟨fun h => ?_, fun hs h hr hc => ?_⟩
  · rw [hexec, if_neg]
    rintro ⟨hs, hev⟩
    rcases h with h | ⟨hev', hnet⟩
    · exact h hs
    · rw [hev', hnet] at hev
      exact absurd hev (by decide)
  · rw [hexec, if_pos ⟨hs, by simpa using h⟩, State.endIdle, if_pos hs, State.cancelSleep_none (by exact hr),
      State.pwrSettle_none (by exact hr) (by exact hc)]

end

end Sys2Proof.Machine

namespace Sys2Proof.Machine

/-! ## The steps of an entry up to the save (R410, R411) -/

section

variable {s t : State}

/-! ### The save areas of Oasis RAM (R410 step 4, R412) -/

theorem State.writeBytes_regs_same (s : State) (a : Nat) (l : List Nat) : (s.writeBytes a l).regs = s.regs := by
  induction l generalizing s a with
  | nil => rfl
  | cons v l ih => exact ih _ _

/-- The save areas alone have been written. -/
structure State.SavesOnly (s t : State) : Prop where
  regs : t.regs = s.regs
  power : t.power = s.power
  bytes : ∀ a, a < oasisBase ∨ oasisBase + 0x24000 ≤ a → t.readByte a = s.readByte a

namespace State.SavesOnly

theorem refl (s : State) : s.SavesOnly s := ⟨rfl, rfl, fun _ _ => rfl⟩

theorem foldl {α : Type} {f : State → α → State} {l : List α} (hf : ∀ t, ∀ x ∈ l, s.SavesOnly t → s.SavesOnly (f t x)) (h : s.SavesOnly t) :
    s.SavesOnly (l.foldl f t) := by
  induction l generalizing t with
  | nil => exact h
  | cons x l ih => exact ih (fun u y hy => hf u y (List.mem_cons_of_mem x hy)) (hf t x List.mem_cons_self h)

theorem writeBytes (h : s.SavesOnly t) {a : Nat} {l : List Nat} (ha : oasisBase ≤ a ∧ a + l.length ≤ oasisBase + 0x24000) :
    s.SavesOnly (t.writeBytes a l) where
  regs := (t.writeBytes_regs_same a l).trans h.regs
  power := (congrArg Prod.fst (t.apart_writeBytes a l)).trans h.power
  bytes b hb := (t.readByte_writeBytes_out a l (by omega)).trans (h.bytes b hb)

theorem writeArea (h : s.SavesOnly t) {a n : Nat} (v : Nat) (hn : 4 ≤ n) (ha : oasisBase ≤ a ∧ a + n ≤ oasisBase + 0x24000) :
    s.SavesOnly (t.writeArea a n v) := by
  obtain ⟨hregs, hpower, hbytes⟩ := h.writeBytes (a := a) (l := toBytes (n - 4) v ++ toBytes 4 (crc32c (toBytes (n - 4) v)))
    (by rw [List.length_append, toBytes_length, toBytes_length]; omega)
  exact ⟨hregs, hpower, hbytes⟩

theorem write64 (h : s.SavesOnly t) {a : Nat} (v : Nat) (ha : oasisBase ≤ a ∧ a + 8 ≤ oasisBase + 0x24000) : s.SavesOnly (t.write64 a v) := by
  obtain ⟨hregs, hpower, hbytes⟩ := h.writeBytes (a := a) (l := toBytes 8 v) (by rw [toBytes_length]; exact ha)
  exact ⟨hregs, hpower, hbytes⟩

theorem setSaveFlags (h : s.SavesOnly t) (v : Nat) : s.SavesOnly (t.setSaveFlags v) := by
  have h3 (l w : Nat) := ((h.write64 (a := oasisBase) v (by decide)).write64 (a := oasisBase + 8) l (by decide)).write64 (a := oasisBase + 16) w (by decide)
  unfold State.setSaveFlags
  dsimp only
  generalize t.rd PWR.LAST_WAKE_SRC + 256 * t.rd PWR.LAST_WAKE_INDEX + 65536 * t.rd PWR.LAST_WAKE_TIME = w
  generalize t.rd PWR.STATUS_LEVEL = l
  obtain ⟨hregs, hpower, hbytes⟩ := h3 l w
  generalize ((t.write64 oasisBase v).write64 (oasisBase + 8) l).write64 (oasisBase + 16) w = u at hregs hpower hbytes
  exact ⟨hregs, hpower, hbytes⟩

end State.SavesOnly

theorem mem_onesBelow {v n k : Nat} : k ∈ onesBelow v n ↔ k < n ∧ bitOf v k = true := by
  rw [onesBelow, List.mem_filter, List.mem_range]

/-- R410 step 4: the save of the domains writes their areas and the header. -/
theorem State.savesOnly_saveDomains (s : State) (e : Entry) : s.SavesOnly (s.saveDomains e) := by
  have hblocks : s.SavesOnly ((onesBelow e.blocks 32).foldl (fun t b => t.writeArea (blockArea b) 0x100 (s.packed (blockSaved b))) s) :=
    State.SavesOnly.foldl (fun _ b hb h => h.writeArea _ (by decide)
      (by have := (mem_onesBelow.mp hb).1; simp only [blockArea, oasisBase]; omega)) (.refl s)
  unfold State.saveDomains
  extract_lets s1 s2 s3
  have h2 : s.SavesOnly s2 := State.SavesOnly.foldl (fun _ r hr h => h.writeArea _ (by decide)
    (by have := (mem_onesBelow.mp hr).1; simp only [regionArea, oasisBase]; omega)) hblocks
  have h3 : s.SavesOnly s3 := by
    unfold s3
    split
    · exact h2.writeArea _ (by decide) (by decide)
    · exact h2
  exact h3.setSaveFlags _

theorem State.readBytes_writeBytes_out (s : State) {a b : Nat} {l : List Nat} (n : Nat) (h : b + n ≤ a ∨ a + l.length ≤ b) :
    (s.writeBytes a l).readBytes b n = s.readBytes b n := by
  induction n generalizing b with
  | zero => rfl
  | succ n ih => rw [State.readBytes, State.readBytes, ih (by omega), s.readByte_writeBytes_out a l (by omega)]

theorem State.read64_write64_self (s : State) (a v : Nat) : (s.write64 a v).read64 a = v % 2 ^ 64 := by
  have h : (s.writeBytes a (toBytes 8 v)).readBytes a 8 = (toBytes 8 v).map (· % 256) := by
    simpa [toBytes_length] using s.readBytes_writeBytes a (toBytes 8 v)
  exact (congrArg ofBytes h).trans (ofBytes_toBytes 8 v)

theorem State.read64_write64_out (s : State) {a b : Nat} (v : Nat) (h : b + 8 ≤ a ∨ a + 8 ≤ b) : (s.write64 a v).read64 b = s.read64 b :=
  congrArg ofBytes (s.readBytes_writeBytes_out 8 (by rwa [toBytes_length]))

/-- A read of memory does not see what stands against its words. -/
theorem State.read64_mk (s : State) (ecc : Tab Nat) (a : Nat) : ({ s with ecc } : State).read64 a = s.read64 a := by
  have h (a n : Nat) : ({ s with ecc } : State).readBytes a n = s.readBytes a n := by
    induction n generalizing a with
    | zero => rfl
    | succ n ih => exact congrArg (s.readByte a :: ·) (ih (a + 1))
  exact congrArg ofBytes (h a 8)

theorem State.saveFlags_setSaveFlags (s : State) (v : Nat) : (s.setSaveFlags v).saveFlags = v % 2 ^ 64 := by
  have hecc : (s.setSaveFlags v).eccOf oasisBase 0 = 0 := by
    rw [State.eccOf, Nat.max_zero]
    exact Tab.get_drop_in 0 _ (by decide)
  rw [State.saveFlags, hecc, if_neg (by decide)]
  have hread (l w : Nat) : (((s.write64 oasisBase v).write64 (oasisBase + 8) l).write64 (oasisBase + 16) w).read64 oasisBase = v % 2 ^ 64 := by
    rw [State.read64_write64_out _ _ (.inl (by decide)), State.read64_write64_out _ _ (.inl (by decide)), State.read64_write64_self]
  refine Eq.trans ?_ (hread (s.rd PWR.STATUS_LEVEL) (s.rd PWR.LAST_WAKE_SRC + 256 * s.rd PWR.LAST_WAKE_INDEX + 65536 * s.rd PWR.LAST_WAKE_TIME))
  unfold State.setSaveFlags
  dsimp only
  generalize ((s.write64 oasisBase v).write64 (oasisBase + 8) _).write64 (oasisBase + 16) _ = u
  exact u.read64_mk _ _

theorem State.bitOf_saveFlags_saveDomains (s : State) (e : Entry) {b : Nat} (hb : b < 32) (h : bitOf e.blocks b = true) :
    bitOf (s.saveDomains e).saveFlags b = true := by
  have hflag (x : Nat) : bitOf (e.blocks + 2 ^ 32 * x) b = true := by
    rw [← bitOf_mod_two_pow _ hb, Nat.add_mul_mod_self_left, bitOf_mod_two_pow _ hb, h]
  unfold State.saveDomains
  dsimp only
  rw [State.saveFlags_setSaveFlags, bitOf_mod_two_pow _ (by omega), bitOf_lor, Bool.or_eq_true]
  right
  split
  · rw [show e.blocks + 2 ^ 32 * e.regions + 2 ^ 36 = e.blocks + 2 ^ 32 * (e.regions + 16) by ring]
    exact hflag _
  · exact hflag _

/-! ### An entry that is abandoned (R411) -/

/-- R411: the entry `e` is no longer running, and its berths are given back. -/
def State.entryEnded (s : State) (e : Entry) : State :=
  ({ s with power := { s.power with entry := none } }).wrs
    [(NOC.REVOKE_BLK, s.rd NOC.REVOKE_BLK - Nat.land (s.rd NOC.REVOKE_BLK) e.blocks),
      (NOC.REVOKE_RGN, s.rd NOC.REVOKE_RGN - Nat.land (s.rd NOC.REVOKE_RGN) e.regions), (PWR.STATUS_ENTERING, 0)]

/-- R411, R215: the clocks of the blocks `bs` run again and the channels of the regions `rs` leave self-refresh. -/
def State.runAgain (s : State) (bs rs : List Nat) : State :=
  rs.foldl (fun t r => if t.rd (DDR.STATUS_STATE r) = ddrSelfRefresh then t.setDdr r ddrReady else t) (bs.foldl State.showUi s)

/-- What runs again leaves the registers of the chip alone. -/
theorem State.runAgain_frame (s : State) (bs rs : List Nat) : (s.runAgain bs rs).power = s.power ∧ (s.runAgain bs rs).mem = s.mem ∧
    ∀ f : Fld, f.key < 64 * 0x1000000 → (s.runAgain bs rs).rd f = s.rd f := by
  have hui (t : State) (b : Nat) : (t.showUi b).power = t.power ∧ (t.showUi b).mem = t.mem ∧
      ∀ f : Fld, f.key < 64 * 0x1000000 → (t.showUi b).rd f = t.rd f := by
    unfold State.showUi
    split
    · refine ⟨State.foldl_same State.power fun _ _ _ => rfl, State.foldl_same State.mem fun _ _ _ => rfl, fun f hf => ?_⟩
      exact State.foldl_same (fun t => t.rd f) fun u c _ => u.rd_wr_ne _ (by simp only [Fld.key, cellBase] at hf ⊢; omega)
    · exact ⟨rfl, rfl, fun _ _ => rfl⟩
  have hddr (t : State) (r : Nat) (f : Fld) (hf : f.key < 64 * 0x1000000) : (t.setDdr r ddrReady).rd f = t.rd f := by
    refine State.rd_wrs_ne _ _ fun e he => ?_
    simp only [List.mem_cons, List.not_mem_nil, or_false] at he
    rcases he with rfl | rfl <;> (simp only [Fld.key, regionBase] at hf ⊢; omega)
  refine ⟨?_, ?_, fun f hf => ?_⟩
  · refine (State.foldl_same State.power fun t r _ => ?_).trans (State.foldl_same State.power fun t b _ => (hui t b).1)
    split <;> rfl
  · refine (State.foldl_same State.mem fun t r _ => ?_).trans (State.foldl_same State.mem fun t b _ => (hui t b).2.1)
    split <;> rfl
  · refine (State.foldl_same (fun t => t.rd f) fun t r _ => ?_).trans (State.foldl_same (fun t => t.rd f) fun t b _ => (hui t b).2.2 f hf)
    split
    · exact hddr t r f hf
    · rfl

/-- R411: what the end of a sleep entry at abort point `p` shows. -/
theorem State.abortEntry_shows {e : Entry} {p : Nat} (hk : e.kind ≠ 0) (hp : p < 4) (hr : s.power.request = none) (hc : s.power.cmdWait = none) :
    (s.abortEntry e p).power.entry = none ∧ (s.abortEntry e p).rd PWR.STATUS_ENTERING = 0 ∧ (s.abortEntry e p).rd PWR.SLEEP_STATUS_OUTCOME = 2 ∧
      (s.abortEntry e p).rd PWR.SLEEP_STATUS_POINT = p ∧ (s.abortEntry e p).rd PWR.DOMAINS_BLK_ON = s.rd PWR.DOMAINS_BLK_ON ∧
      (s.abortEntry e p).mem = s.mem := by
  have hlt : ∀ k ∈ s.refusers e.kind, k < 8 := fun k hk => State.mem_refusers_lt hk
  have heq : s.abortEntry e p = ((((s.entryEnded e).runAgain (onesBelow e.blocks 32) (onesBelow e.regions 4)).noteRefuse
      (s.refusers e.kind) e.kind p).wrs [(PWR.SLEEP_STATUS_OUTCOME, 2), (PWR.SLEEP_STATUS_POINT, p)]).consumeWakes.pwrSettle := by
    unfold State.abortEntry
    rw [show s.entryRefusers e = s.refusers e.kind from if_neg hk]
    exact congrArg State.pwrSettle (if_pos hk)
  obtain ⟨hp2, hm2, hrd2⟩ := (s.entryEnded e).runAgain_frame (onesBelow e.blocks 32) (onesBelow e.regions 4)
  generalize (s.entryEnded e).runAgain (onesBelow e.blocks 32) (onesBelow e.regions 4) = u at heq hp2 hm2 hrd2
  obtain ⟨-, -, hrd3⟩ := u.rd_noteRefuse (State.nodup_refusers e.kind) hlt e.kind p
  obtain ⟨hp3, hm3⟩ := u.noteRefuse_frame (s.refusers e.kind) e.kind p
  generalize u.noteRefuse (s.refusers e.kind) e.kind p = v at heq hrd3 hp3 hm3
  have hpower : v.power = { s.power with entry := none } := hp3.trans hp2
  rw [heq, State.pwrSettle_none (by exact (congrArg PowerX.request hpower).trans hr) (by exact (congrArg PowerX.cmdWait hpower).trans hc)]
  simp (disch := decide) only [State.consumeWakes_rd, State.wrs_cons, State.wrs_nil, State.rd_wr_ne, State.rd_wr_self, hrd3, hrd2]
  refine ⟨congrArg PowerX.entry hpower, State.rd_wr_self .., rfl, Nat.mod_eq_of_lt hp, ?_, hm3.trans hm2⟩
  unfold State.entryEnded
  simp (disch := decide) only [State.wrs_cons, State.wrs_nil, State.rd_wr_ne]
  rfl

/-! ### The steps (R410) -/

theorem exec_quiesceDone {e : Entry} (h : s.power.entry = some e) (hst : e.stage = 2) : exec .quiesceDone s = .next
    (if s.frozen then s.abortEntry e 1 else if s.entryTraffic e then s
      else ((onesBelow e.regions 4).foldl State.quiesceRegion s).abortPoint e 1 { (onesBelow e.regions 4).foldl State.quiesceRegion s with
        power := { ((onesBelow e.regions 4).foldl State.quiesceRegion s).power with entry := some { e with stage := 3 } } }) := by
  show Host.Outcome.next (match s.power.entry with | some _ => _ | none => _) = _
  rw [h]
  exact congrArg Host.Outcome.next (if_neg fun hne => hne hst)

theorem exec_clocksStopped {e : Entry} (h : s.power.entry = some e) (hst : e.stage = 3) : exec .clocksStopped s = .next
    (s.abortPoint e 2 { s with power := { s.power with entry := some { e with stage := 4 } } }) := by
  show Host.Outcome.next (match s.power.entry with | some _ => _ | none => _) = _
  rw [h]
  exact congrArg Host.Outcome.next (if_neg fun hne => hne hst)

theorem exec_saveDone {e : Entry} (h : s.power.entry = some e) (hst : e.stage = 4) : exec .saveDone s = .next
    (s.abortPoint e 3 { s.saveDomains e with power := { (s.saveDomains e).power with entry := some { e with stage := 5 } } }) := by
  show Host.Outcome.next (match s.power.entry with | some _ => _ | none => _) = _
  rw [h]
  exact congrArg Host.Outcome.next (if_neg fun hne => hne hst)

theorem State.abortPoint_goes {e : Entry} (h : s.entryRefusers e = []) (p : Nat) (go : State) : s.abortPoint e p go = go := by
  rw [State.abortPoint, h, if_pos List.isEmpty_nil]

theorem State.abortPoint_aborts {e : Entry} (h : s.entryRefusers e ≠ []) (p : Nat) (go : State) : s.abortPoint e p go = s.abortEntry e p := by
  rw [State.abortPoint, if_neg (by rwa [List.isEmpty_iff])]

/-- R410 steps 2 to 4: the entry moves on. -/
theorem entryGoesClauses (s : State) (e : Entry) (he : s.power.entry = some e) :
    (∀ q, e.stage = 2 → s.entryTraffic e = false → s.frozen = false → q = (onesBelow e.regions 4).foldl State.quiesceRegion s →
      q.entryRefusers e = [] → exec .quiesceDone s = .next { q with power := { q.power with entry := some { e with stage := 3 } } }) ∧
    (e.stage = 3 → s.entryRefusers e = [] → exec .clocksStopped s = .next { s with power := { s.power with entry := some { e with stage := 4 } } }) ∧
    (e.stage = 4 → s.entryRefusers e = [] → ∃ t, exec .saveDone s = .next t ∧ t.regs = s.regs ∧
      t.power = { s.power with entry := some { e with stage := 5 } } ∧
      (∀ a, a < oasisBase ∨ oasisBase + 0x24000 ≤ a → t.readByte a = s.readByte a) ∧ ∀ b, b < 32 → bitOf e.blocks b = true → bitOf t.saveFlags b = true) := by
  refine ⟨fun q hst ht hf hq hr => ?_, fun hst hr => ?_, fun hst hr => ⟨_, exec_saveDone he hst, ?_⟩⟩
  · subst hq
    rw [exec_quiesceDone he hst, hf, ht, State.abortPoint_goes hr]
    rfl
  · rw [exec_clocksStopped he hst, State.abortPoint_goes hr]
  · rw [State.abortPoint_goes hr]
    obtain ⟨hregs, hpower, hbytes⟩ := s.savesOnly_saveDomains e
    have hflags := fun b hb h => s.bitOf_saveFlags_saveDomains e (b := b) hb h
    generalize s.saveDomains e = t at hregs hpower hbytes hflags
    exact ⟨hregs, by rw [hpower], hbytes, hflags⟩

/-- R411: the entry of a sleep state is abandoned at its abort points. -/
theorem entryAbortClause (s : State) (e : Entry) (he : s.power.entry = some e) (hk : e.kind ≠ 0) (hrefuse : s.entryRefusers e ≠ [])
    (hr : s.power.request = none) (hc : s.power.cmdWait = none) :
    ∀ i ∈ [(Instr.quiesceDone, 2, 1), (.clocksStopped, 3, 2), (.saveDone, 4, 3)], e.stage = i.2.1 → (i.2.2 = 1 → s.frozen = true) →
      ∃ t, exec i.1 s = .next t ∧ t.power.entry = none ∧ t.rd PWR.STATUS_ENTERING = 0 ∧ t.rd PWR.SLEEP_STATUS_OUTCOME = 2 ∧
        t.rd PWR.SLEEP_STATUS_POINT = i.2.2 ∧ t.rd PWR.DOMAINS_BLK_ON = s.rd PWR.DOMAINS_BLK_ON ∧ t.mem = s.mem := by
  intro i hi hst hfrozen
  simp only [List.mem_cons, List.not_mem_nil, or_false] at hi
  rcases hi with rfl | rfl | rfl
  · exact ⟨_, (exec_quiesceDone he hst).trans (congrArg Host.Outcome.next (if_pos (hfrozen rfl))), State.abortEntry_shows hk (by decide) hr hc⟩
  · exact ⟨_, (exec_clocksStopped he hst).trans (congrArg Host.Outcome.next (State.abortPoint_aborts hrefuse ..)),
      State.abortEntry_shows hk (by decide) hr hc⟩
  · exact ⟨_, (exec_saveDone he hst).trans (congrArg Host.Outcome.next (State.abortPoint_aborts hrefuse ..)),
      State.abortEntry_shows hk (by decide) hr hc⟩

end

end Sys2Proof.Machine

namespace Sys2Proof.Machine

/-! ## The end of an entry (R410 step 5) -/

theorem bitOf_sub_land (v e i : Nat) : bitOf (v - Nat.land v e) i = (bitOf v i && !bitOf e i) := by
  simp only [bitOf_eq_testBit]
  show (v - (v &&& e)).testBit i = _
  induction i generalizing v e with
  | zero =>
    have hle : v &&& e ≤ v := Nat.and_le_left
    have hodd : (v &&& e) % 2 = 1 ↔ v % 2 = 1 ∧ e % 2 = 1 := Nat.and_mod_two_eq_one
    rw [Nat.testBit_zero, Nat.testBit_zero, Nat.testBit_zero, Bool.eq_iff_iff]
    simp only [Bool.and_eq_true, Bool.not_eq_true', decide_eq_true_eq, decide_eq_false_iff_not]
    omega
  | succ i ih =>
    have hle : v &&& e ≤ v := Nat.and_le_left
    have hodd : (v &&& e) % 2 = 1 ↔ v % 2 = 1 ∧ e % 2 = 1 := Nat.and_mod_two_eq_one
    have hhalf : (v &&& e) / 2 = v / 2 &&& e / 2 := Nat.and_div_two_pow (n := 1)
    rw [Nat.testBit_succ, Nat.testBit_succ, Nat.testBit_succ, ← ih, ← hhalf]
    congr 1
    omega

section

variable {s : State}

/-! ### The chip domain loses power (R400, R406) -/

theorem State.wrs_power (s : State) (l : List (Fld × Nat)) : (s.wrs l).power = s.power := by
  induction l generalizing s with
  | nil => rfl
  | cons e l ih => exact ih _

@[simp] theorem State.clearMem_power (s : State) (lo hi : Nat) : (s.clearMem lo hi).power = s.power := (rfl)
@[simp] theorem State.clearMem_rd (s : State) (lo hi : Nat) (f : Fld) : (s.clearMem lo hi).rd f = s.rd f := (rfl)

/-- The registers of the address ranges `l` return to their reset values. -/
def State.resetRanges (s : State) (l : List (Nat × Nat)) : State := l.foldl (fun u e => u.resetRegs e.1 e.2) s

theorem State.resetRanges_power (s : State) (l : List (Nat × Nat)) : (s.resetRanges l).power = s.power :=
  State.foldl_same State.power fun _ _ _ => rfl

theorem State.rd_resetRanges_out (s : State) {l : List (Nat × Nat)} {f : Fld} (h : ∀ e ∈ l, f.key < 64 * e.1 ∨ 64 * e.2 ≤ f.key) :
    (s.resetRanges l).rd f = s.rd f :=
  State.foldl_same (fun u => u.rd f) fun u e he => u.rd_resetRegs_out (h e he)

theorem State.rd_resetRanges_zero (s : State) (l : List (Nat × Nat)) {f : Fld} (hf : f.reset = 0) (h : s.rd f = 0) :
    (s.resetRanges l).rd f = 0 := by
  refine List.foldlRecOn l _ (motive := fun u : State => u.rd f = 0) h fun u hu e _ => ?_
  by_cases hin : 64 * e.1 ≤ f.key ∧ f.key < 64 * e.2
  · rw [u.rd_resetRegs_in hin.1 hin.2, hf, Nat.zero_mod]
  · rw [u.rd_resetRegs_out (by omega), hu]

/-- R503: the ranges that a reset of the chip domain resets. -/
def chipRanges (pcie : Bool) : List (Nat × Nat) :=
  [(0, 0x18), (0x28, 0x100028), (0x100100, 0x100400), (0x100600, 0x100800), (0x200000, 0x300000), (0x400000, 0x500200), (0x500280, 0x900000),
    (0xA00000, 0x1000000)] ++ if pcie then [(0x900000, 0xA00000)] else []

theorem State.dropChipRegs_eq (s : State) (pcie : Bool) : s.dropChipRegs pcie = s.resetRanges (chipRanges pcie) := by
  cases pcie <;> rfl

theorem chipRanges_out {pcie : Bool} {e : Nat × Nat} (he : e ∈ chipRanges pcie) : e.2 ≤ 0x300000 ∨ 0x400000 ≤ e.1 := by
  revert e
  cases pcie <;> decide

/-- The registers of the power controller stand, and `f` still reads 0 where it is 0 after reset. -/
theorem State.rd_dropChipRegs (s : State) (pcie : Bool) :
    (∀ f : Fld, 64 * 0x300000 ≤ f.key → f.key < 64 * 0x400000 → (s.dropChipRegs pcie).rd f = s.rd f) ∧
      ∀ f : Fld, f.reset = 0 → s.rd f = 0 → (s.dropChipRegs pcie).rd f = 0 := by
  rw [State.dropChipRegs_eq]
  exact ⟨fun f hf hf' => s.rd_resetRanges_out fun e he => by have := chipRanges_out he; omega, fun f hf h => s.rd_resetRanges_zero _ hf h⟩

theorem State.dropChipRegs_power (s : State) (pcie : Bool) : (s.dropChipRegs pcie).power = s.power := by
  rw [State.dropChipRegs_eq, State.resetRanges_power]

theorem State.dropChip_shows (s : State) (pcie : Bool) : (s.dropChip pcie).power = s.power ∧
    (∀ f : Fld, 64 * 0x300000 ≤ f.key → f.key < 64 * 0x400000 → (s.dropChip pcie).rd f = s.rd f) ∧
      ∀ f : Fld, f.reset = 0 → s.rd f = 0 → (s.dropChip pcie).rd f = 0 := by
  obtain ⟨hout, hzero⟩ := s.rd_dropChipRegs pcie
  have hp := s.dropChipRegs_power pcie
  unfold State.dropChip
  generalize s.dropChipRegs pcie = t at hout hzero hp
  exact ⟨hp, hout, hzero⟩

/-- R400: the stewards lose their state, and the chip runs from the FIO. -/
def State.stewardsDown (s : State) : State :=
  ((List.range 4).foldl (fun t w => (t.modSteward w fun _ => Steward.reset).wr (EVC.STW_STATE_LEVEL w) 1) s).wrs
    [(CHIP.CLK_STATUS_ON_PLL, 0), (CHIP.CLK_CTRL_USE_PLL, 0), (CHIP.CLK_STATUS_PLL_LOCK, 0)]

theorem State.stewardsDown_shows (s : State) : s.stewardsDown.power = s.power ∧
    (∀ f : Fld, 64 * 0x300000 ≤ f.key → f.key < 64 * 0x400000 → s.stewardsDown.rd f = s.rd f) ∧
      s.stewardsDown.rd CHIP.CLK_STATUS_ON_PLL = 0 := by
  refine ⟨?_, fun f hf hf' => ?_, ?_⟩
  · exact (State.wrs_power _ _).trans (State.foldl_same State.power fun _ _ _ => rfl)
  · unfold State.stewardsDown
    simp (disch := (simp only [Fld.key] at hf ⊢; omega)) only [State.wrs_cons, State.wrs_nil, State.rd_wr_ne]
    exact State.foldl_same (fun u => u.rd f) fun u w _ => (State.rd_wr_ne _ _ (by simp only [Fld.key] at hf' ⊢; omega)).trans rfl
  · unfold State.stewardsDown
    simp (disch := decide) only [State.wrs_cons, State.wrs_nil, State.rd_wr_ne, State.rd_wr_self]
    rfl

/-- R406: in DORMANT the chip domain and the memories of the stewards lose their state. -/
def State.dormantDown (s : State) : State := (s.dropChip true).clearMem stewardBase (stewardBase + 0x400000)

theorem State.dormantDown_shows (s : State) : s.dormantDown.power = s.power ∧
    (∀ f : Fld, 64 * 0x300000 ≤ f.key → f.key < 64 * 0x400000 → s.dormantDown.rd f = s.rd f) ∧
      ∀ f : Fld, f.reset = 0 → s.rd f = 0 → s.dormantDown.rd f = 0 := by
  simp only [State.dormantDown, State.clearMem_power, State.clearMem_rd]
  exact s.dropChip_shows true

/-- R471: the pads of pattern-match unit 0 that Oasis holds. -/
theorem State.oasisPins_shows (t s : State) : (t.oasisPins s).power = t.power ∧
    ∀ f : Fld, f.key < 64 * 0x700000 → (t.oasisPins s).rd f = t.rd f := by
  unfold State.oasisPins
  refine ⟨State.wrs_power t _, fun f hf => State.rd_wrs_ne _ _ fun e he => ?_⟩
  simp only [List.map_cons, List.map_nil, List.mem_cons, List.not_mem_nil, or_false] at he
  rcases he with rfl | rfl | rfl | rfl | rfl | rfl | rfl | rfl <;> (simp only [Fld.key] at hf ⊢; omega)

/-- R400, R406: the device is in sleep state `kind` with what `t` has kept of `s`. -/
def State.fallAsleep (t s : State) (kind : Nat) : State :=
  State.revalidate { t.wrs [(OBJ.KAT_PASS, s.rd OBJ.KAT_PASS), (OBJ.KAT_DONE, s.rd OBJ.KAT_DONE)] with
    power := { t.power with sleep := kind }
    gpio := { t.gpio with pads := s.padLevels }
    evc := if kind = 3 then { t.evc with srcs := latched s.evc.srcs } else t.evc
    freeCtr := t.freeCtr + 1 }

theorem State.rd_fallAsleep (t s : State) (kind : Nat) {f : Fld} (h : f.key < 64 * 0x100020 ∨ (64 * 0x100021 ≤ f.key ∧ f.key < 64 * 0x400000)) :
    (t.fallAsleep s kind).rd f = t.rd f := by
  unfold State.fallAsleep
  rw [State.rd_revalidate _ (by simp only [Fld.key] at h ⊢; omega)]
  simp (disch := (simp only [Fld.key] at h ⊢; omega)) only [State.wrs_cons, State.wrs_nil, State.rd_wr_ne, State.rd_mk]

theorem State.sleepDown_eq (s : State) (kind : Nat) : s.sleepDown kind =
    (if kind = 3 then s.stewardsDown.dormantDown.oasisPins s else s.stewardsDown).fallAsleep s kind := by
  by_cases hk : kind = 3
  · rw [if_pos hk, State.sleepDown, State.fallAsleep]
    simp only [if_pos hk]
    rfl
  · rw [if_neg hk, State.sleepDown, State.fallAsleep]
    simp only [if_neg hk]
    rfl

/-- R400, R406: what the sleep state that is reached shows. -/
theorem State.sleepDown_shows (s : State) (kind : Nat) : (s.sleepDown kind).power = { s.power with sleep := kind } ∧
    (∀ f : Fld, 64 * 0x300000 ≤ f.key → f.key < 64 * 0x400000 → (s.sleepDown kind).rd f = s.rd f) ∧
      (s.sleepDown kind).rd CHIP.CLK_STATUS_ON_PLL = 0 := by
  obtain ⟨hp1, hrd1, hoff1⟩ := s.stewardsDown_shows
  obtain ⟨hp2, hrd2, hoff2⟩ := s.stewardsDown.dormantDown_shows
  obtain ⟨hp3, hrd3⟩ := s.stewardsDown.dormantDown.oasisPins_shows s
  have hasleep (t : State) (ht : t.power = s.power) (hrd : ∀ f : Fld, 64 * 0x300000 ≤ f.key → f.key < 64 * 0x400000 → t.rd f = s.rd f)
      (hoff : t.rd CHIP.CLK_STATUS_ON_PLL = 0) : (t.fallAsleep s kind).power = { s.power with sleep := kind } ∧
        (∀ f : Fld, 64 * 0x300000 ≤ f.key → f.key < 64 * 0x400000 → (t.fallAsleep s kind).rd f = s.rd f) ∧
        (t.fallAsleep s kind).rd CHIP.CLK_STATUS_ON_PLL = 0 :=
    ⟨ht ▸ rfl, fun f hf hf' => (t.rd_fallAsleep s kind (.inr ⟨by omega, hf'⟩)).trans (hrd f hf hf'),
      (t.rd_fallAsleep s kind (.inl (by decide))).trans hoff⟩
  rw [State.sleepDown_eq]
  split
  · exact hasleep _ (hp3.trans (hp2.trans hp1)) (fun f hf hf' => (hrd3 f (by omega)).trans ((hrd2 f hf hf').trans (hrd1 f hf hf')))
      ((hrd3 _ (by decide)).trans (hoff2 _ rfl hoff1))
  · exact hasleep _ hp1 hrd1 hoff1

/-! ### The domains of the entry lose power (R410 step 5) -/

/-- R410 step 5: lanes are safe, sessions are closed, and the domains of `e` have lost what they hold. -/
def State.domainsDropped (s : State) (e : Entry) : State :=
  let bs := onesBelow e.blocks 32
  (onesBelow e.regions 4).foldl State.dropRegion (bs.foldl State.dropBlock ((s.safeCells 0 (bs.flatMap blockCells)).closeBonds fun b =>
    e.kind == 3 || (s.members b.lead).any fun c => bs.contains (blockOf c)))

/-- R410 step 5: the domains of `e` are off. -/
def State.isolated (s : State) (e : Entry) : State :=
  ({ s.domainsDropped e with power := { (s.domainsDropped e).power with entry := none } }).wrs
    [(PWR.DOMAINS_BLK_ON, s.rd PWR.DOMAINS_BLK_ON - Nat.land (s.rd PWR.DOMAINS_BLK_ON) e.blocks),
      (PWR.DOMAINS_RGN_ON, s.rd PWR.DOMAINS_RGN_ON - Nat.land (s.rd PWR.DOMAINS_RGN_ON) e.regions), (PWR.STATUS_ENTERING, 0)]

theorem State.isolate_eq (s : State) (e : Entry) : s.isolate e = if e.kind ≠ 0 then (s.isolated e).sleepDown e.kind
    else (if e.auto then s.isolated e else (s.isolated e).pwrDone 2 0 false).pwrSettle := rfl

theorem State.domainsDropped_power (s : State) (e : Entry) : (s.domainsDropped e).power = s.power := by
  have h : (s.domainsDropped e).apart = s.apart := by
    simp [State.domainsDropped, State.apart_foldl]
  exact congrArg Prod.fst h

theorem State.isolated_power (s : State) (e : Entry) : (s.isolated e).power = { s.power with entry := none } :=
  (State.wrs_power _ _).trans (congrArg (fun p : PowerX => { p with entry := none }) (s.domainsDropped_power e))

theorem State.rd_isolated (s : State) (e : Entry) :
    (s.isolated e).rd PWR.DOMAINS_BLK_ON = (s.rd PWR.DOMAINS_BLK_ON - Nat.land (s.rd PWR.DOMAINS_BLK_ON) e.blocks) % 2 ^ 32 ∧
      (s.isolated e).rd PWR.DOMAINS_RGN_ON = (s.rd PWR.DOMAINS_RGN_ON - Nat.land (s.rd PWR.DOMAINS_RGN_ON) e.regions) % 2 ^ 4 := by
  unfold State.isolated
  simp (disch := decide) only [State.wrs_cons, State.wrs_nil, State.rd_wr_ne, State.rd_wr_self]
  exact ⟨trivial, trivial⟩

/-- The domains of `e` are off in a state that shows the domains of the isolated one. -/
theorem State.domains_of_isolated {t : State} {e : Entry} (hb : t.rd PWR.DOMAINS_BLK_ON = (s.isolated e).rd PWR.DOMAINS_BLK_ON)
    (hr : t.rd PWR.DOMAINS_RGN_ON = (s.isolated e).rd PWR.DOMAINS_RGN_ON) :
    (∀ b, b < 32 → t.blockOn b = (s.blockOn b && !bitOf e.blocks b)) ∧ ∀ r, r < 4 → t.regionOn r = (s.regionOn r && !bitOf e.regions r) := by
  obtain ⟨hblk, hrgn⟩ := s.rd_isolated e
  refine ⟨fun b hb32 => ?_, fun r hr4 => ?_⟩
  · rw [State.blockOn, hb, hblk, bitOf_mod_two_pow _ hb32, bitOf_sub_land]
    rfl
  · rw [State.regionOn, hr, hrgn, bitOf_mod_two_pow _ hr4, bitOf_sub_land]
    rfl

theorem exec_isolate {e : Entry} (h : s.power.entry = some e) (hst : e.stage = 5) : exec .isolate s = .next (s.isolate e) := by
  show Host.Outcome.next (match s.power.entry with | some _ => _ | none => _) = _
  rw [h]
  exact congrArg Host.Outcome.next (if_pos hst)

/-- R410 step 5: ISOLATE of a sleep entry. -/
theorem isolateSleepClause (s : State) (e : Entry) (he : s.power.entry = some e) (hst : e.stage = 5) (hk : e.kind = 2 ∨ e.kind = 3) :
    ∃ t, exec .isolate s = .next t ∧ t.power.sleep = e.kind ∧ t.power.entry = none ∧
      (∀ b, b < 32 → t.blockOn b = (s.blockOn b && !bitOf e.blocks b)) ∧ (∀ r, r < 4 → t.regionOn r = (s.regionOn r && !bitOf e.regions r)) ∧
      t.rd CHIP.CLK_STATUS_ON_PLL = 0 := by
  obtain ⟨hpower, hrd, hoff⟩ := (s.isolated e).sleepDown_shows e.kind
  obtain ⟨hblocks, hregions⟩ := State.domains_of_isolated (s := s) (e := e) (hrd PWR.DOMAINS_BLK_ON (by decide) (by decide))
    (hrd PWR.DOMAINS_RGN_ON (by decide) (by decide))
  refine ⟨_, exec_isolate he hst, ?_⟩
  rw [State.isolate_eq, if_pos (by omega)]
  exact ⟨congrArg PowerX.sleep hpower, (congrArg PowerX.entry hpower).trans (congrArg PowerX.entry (s.isolated_power e)), hblocks, hregions, hoff⟩

/-- R410 step 5, R418: ISOLATE of a POWER_OFF. -/
theorem isolateOffClause (s : State) (e : Entry) (he : s.power.entry = some e) (hst : e.stage = 5) (hk : e.kind = 0) (ha : e.auto = false)
    (hr : s.power.request = none) (hc : s.power.cmdWait = none) : ∃ t, exec .isolate s = .next t ∧
      t.power.entry = none ∧ (∀ b, b < 32 → t.blockOn b = (s.blockOn b && !bitOf e.blocks b)) ∧
      (∀ r, r < 4 → t.regionOn r = (s.regionOn r && !bitOf e.regions r)) ∧ t.rd PWR.CMD_STATUS_PEND = 0 ∧ t.rd PWR.CMD_STATUS_STATUS = 0 ∧
      t.rd PWR.EVT_DOMAIN_DONE = 1 := by
  have hpower := s.isolated_power e
  obtain ⟨hblocks, hregions⟩ := State.domains_of_isolated (s := s) (e := e) ((s.isolated e).rd_pwrDone_ne 2 0 false (by decide))
    ((s.isolated e).rd_pwrDone_ne 2 0 false (by decide))
  obtain ⟨hst', hpend, hevt⟩ := (s.isolated e).rd_pwrDone 2 0 false
  refine ⟨_, exec_isolate he hst, ?_⟩
  rw [State.isolate_eq, if_neg (by omega), ha, if_neg (by decide), State.pwrSettle_none (by exact (congrArg PowerX.request hpower).trans hr)
    (by exact (congrArg PowerX.cmdWait hpower).trans hc)]
  exact ⟨congrArg PowerX.entry hpower, hblocks, hregions, hpend, hst', hevt⟩

end

end Sys2Proof.Machine

namespace Sys2Proof.Machine

/-! ## The wake that restores the device (R415, R416) -/

section

variable {s t : State}

/-! ### What stands in the power controller while the chip is restored (R505) -/

@[simp] theorem State.writeWord_power (s : State) (a v : Nat) : (s.writeWord a v).power = s.power := congrArg Prod.fst (s.apart_writeWord a v)

@[simp] theorem State.writeWords_power (s : State) (a : Nat) (l : List Nat) : (s.writeWords a l).power = s.power := by
  induction l generalizing s a with
  | nil => rfl
  | cons v l ih => rw [writeWords_cons, ih, State.writeWord_power]

@[simp] theorem State.cwProgram_power (s : State) (k : Nat) (ws : List Nat) : (s.cwProgram k ws).power = s.power := by
  unfold State.cwProgram
  dsimp only
  exact State.writeWords_power ..
@[simp] theorem State.cwErase_power (s : State) (lo hi : Nat) : (s.cwErase lo hi).power = s.power := rfl
@[simp] theorem State.setTorn_power (s : State) (x : Nat) (b : Bool) : (s.setTorn x b).power = s.power := rfl
@[simp] theorem State.showFree_power (s : State) : s.showFree.power = s.power := rfl
@[simp] theorem State.journal_power (s : State) (ws : List Nat) : (s.journal ws).power = s.power := by
  rw [State.journal, State.showFree_power, State.cwProgram_power]

/-- A fold of updates that leave the power controller alone. -/
theorem State.foldl_power {α : Type} {f : State → α → State} (h : ∀ t x, (f t x).power = t.power) (s : State) (l : List α) :
    (l.foldl f s).power = s.power := State.foldl_same State.power fun t x _ => h t x

theorem State.setTorns_power (s : State) (l : List Nat) : (l.foldl (fun t x => t.setTorn x true) s).power = s.power :=
  State.foldl_power (fun t x => t.setTorn_power x true) s l

theorem State.recoverJournal_power (s : State) : s.recoverJournal.power = s.power := by
  have hclear (l : List Nat) : (l.foldl (fun t k => t.wr (STO.TORN_SECTORS k) 0) s).power = s.power :=
    State.foldl_power (fun t k => t.wr_power (STO.TORN_SECTORS k) 0) s l
  unfold State.recoverJournal
  extract_lets s0
  have h0 : s0.power = s.power := hclear _
  clear_value s0
  split
  · extract_lets es s1 s2 top
    have h1 : s1.power = s.power := by
      unfold s1
      rw [State.setTorns_power, State.wr_power, h0]
    clear_value s1
    have h2 : s2.power = s.power := by
      unfold s2
      split
      · exact h1
      · rw [State.wr_power, h1]
    clear_value s2 top
    rw [State.showFree_power, State.wr_power, h2]
  · next users s1 s2 _ _ =>
    have h1 : s1.power = s.power := by
      unfold s1
      rw [State.setTorns_power, State.wrs_power, h0]
    clear_value s1 users
    have h2 : s2.power = s.power := by
      unfold s2
      rw [State.journal_power, State.journal_power, State.cwErase_power, h1]
    clear_value s2
    rw [State.wr_power, State.foldl_power (fun t x => t.journal_power [entryWord 1 x (x - 8)]), h2]

theorem State.decodeLc_power (s : State) : s.decodeLc.power = s.power := State.wrs_power ..

theorem State.recoverErase_power (s : State) : s.recoverErase.power = s.power := by
  unfold State.recoverErase
  split
  · rfl
  · exact State.wrs_power ..

theorem State.unpack_power (s : State) (l : List Fld) (v : Nat) : (s.unpack l v).power = s.power := by
  induction l generalizing s v with
  | nil => rfl
  | cons f l ih => exact (ih _ _).trans (State.wr_power ..)

theorem State.flagAgain_power (s : State) : s.flagAgain.power = s.power := by
  have hflag (t : State) : t.pullFlag.power = t.power := State.wrs_power ..
  have hsignal (t : State) : t.signalArrival.power = t.power := by
    unfold State.signalArrival
    split
    · exact State.wrs_power ..
    · rfl
  unfold State.flagAgain
  split
  · rw [hsignal, hflag]
  · rfl

/-- R412: what is put back of the save of the chip, where there is one. -/
def State.chipRestored (s : State) : State :=
  match s.takeArea 36 chipArea 0x10000 with
  | (some v, u) => u.unpack chipSaved v
  | (none, u) => u.wr PWR.RESTORE_CHIP 1

theorem State.chipRestored_power (s : State) : s.chipRestored.power = s.power := by
  have ha := ((State.PowerStays.refl s).takeArea 36 chipArea 0x10000).power
  unfold State.chipRestored
  generalize s.takeArea 36 chipArea 0x10000 = p at ha
  obtain ⟨_ | v, u⟩ := p
  · dsimp only at ha ⊢
    rw [State.wr_power, ha]
  · dsimp only at ha ⊢
    rw [State.unpack_power, ha]

theorem State.raiseChip_eq (s : State) : s.raiseChip =
    ((s.recoverJournal.decodeLc.recoverErase.chipRestored.setSaveFlags (clearBit s.recoverJournal.decodeLc.recoverErase.chipRestored.saveFlags 36)).wrs
      [(OBJ.STATUS_READY, b2n (s.flag OBJ.KAT_DONE && !s.objor.error)), (OBJ.STATUS_ERROR, b2n s.objor.error),
        (OBJ.STATUS_IDENT, b2n s.objor.ident.isSome)]).approvedNow.flagAgain := by
  unfold State.raiseChip State.chipRestored
  rfl

theorem State.raiseChip_power (s : State) : s.raiseChip.power = s.power := by
  rw [State.raiseChip_eq]
  have h : s.recoverJournal.decodeLc.recoverErase.chipRestored.power = s.power := by
    rw [State.chipRestored_power, State.recoverErase_power, State.decodeLc_power, State.recoverJournal_power]
  generalize s.recoverJournal.decodeLc.recoverErase.chipRestored = t at h
  have hsave := ((State.SavesOnly.refl t).setSaveFlags (clearBit t.saveFlags 36)).power
  rw [State.flagAgain_power, State.approvedNow, State.wrB, State.wr_power, State.wrs_power, hsave, h]

/-! ### WAKE_RESTORE (R415) -/

theorem exec_wakeRestore (hs : 2 ≤ s.power.sleep) (hw : s.power.wakes ≠ []) (hsup : s.flag PWR.STATUS_SLEEP_SUPPLY = false) :
    exec .wakeRestore s = .next (s.restoreWake s.power.sleep) := by
  refine congrArg Host.Outcome.next ((if_neg ?_).trans (if_neg ?_))
  · rintro (h | h)
    · omega
    · exact hw (List.isEmpty_iff.mp h)
  · rw [hsup]
    decide

/-- R415 step 1: the device is awake. -/
def State.woken (s : State) : State :=
  { s with power := { s.power with sleep := 0, wakes := [] }, gpio := { s.gpio with pads := [] } }

/-- R415 step 3: the stewards start at `vec`. -/
def State.stewardsUp (s : State) (vec : Nat) : State := (List.range 4).foldl (fun t w => t.releaseSteward vec w) s

theorem State.stewardsUp_frame (s : State) (vec : Nat) : (s.stewardsUp vec).power = s.power ∧ (s.stewardsUp vec).mem = s.mem ∧
    ∀ f : Fld, f.key < 64 * 0x400000 → (s.stewardsUp vec).rd f = s.rd f :=
  ⟨State.foldl_same State.power fun _ _ _ => rfl, State.foldl_same State.mem fun _ _ _ => rfl, fun f hf =>
    State.foldl_same (fun t => t.rd f) fun _ _ _ => (State.rd_wr_ne _ _ (by simp only [Fld.key] at hf ⊢; omega)).trans rfl⟩

theorem State.steward_stewardsUp (s : State) (vec : Nat) {w : Nat} (hw : w < 4) :
    (s.stewardsUp vec).steward w = { Steward.reset with inReset := false, pc := 2 * vec } := by
  have hself (t : State) (k : Nat) : (t.releaseSteward vec k).steward k = { Steward.reset with inReset := false, pc := 2 * vec } :=
    t.steward_modSteward_self k (fun _ => { Steward.reset with inReset := false, pc := 2 * vec })
  have hne (t : State) {k : Nat} (h : k ≠ w) : (t.releaseSteward vec k).steward w = t.steward w := 
    t.steward_modSteward_ne k (fun _ => { Steward.reset with inReset := false, pc := 2 * vec }) h
  obtain rfl | rfl | rfl | rfl : w = 0 ∨ w = 1 ∨ w = 2 ∨ w = 3 := by omega
  · exact (hne _ (k := 3) (by decide)).trans ((hne _ (k := 2) (by decide)).trans ((hne _ (k := 1) (by decide)).trans (hself ..)))
  · exact (hne _ (k := 3) (by decide)).trans ((hne _ (k := 2) (by decide)).trans (hself ..))
  · exact (hne _ (k := 3) (by decide)).trans (hself ..)
  · exact hself ..

/-- R416: WAKE_RESTORE out of DOZE in compatibility mode. -/
theorem wakeLegacyClause (s : State) (hs : s.power.sleep = 2) (hw : s.power.wakes ≠ []) (hsup : s.flag PWR.STATUS_SLEEP_SUPPLY = false)
    (hleg : s.flag PWR.CTRL_LEGACY_WAKE = true) (hlc : s.rd LC.STATE_STATE ≠ 7) (hr : s.power.request = none) (hc : s.power.cmdWait = none) :
    ∃ u, exec .wakeRestore s = .next u ∧ u.power = { s.power with sleep := 0, wakes := [] } ∧ u.rd PWR.EVT_WOKE = s.rd PWR.EVT_WOKE ∧
      u.rd PWR.SLEEP_STATUS_OUTCOME = 1 ∧ u.mem = s.mem ∧ u.rd PWR.DOMAINS_BLK_ON = s.rd PWR.DOMAINS_BLK_ON ∧
      ∀ w, w < 4 → (u.steward w).pc = 2 * s.rd PWR.WAKE_VEC_ADDR ∧ (u.steward w).inReset = false := by
  refine ⟨_, exec_wakeRestore (by omega) hw hsup, ?_⟩
  have heq : s.restoreWake s.power.sleep = ((s.woken.stewardsUp (s.rd PWR.WAKE_VEC_ADDR)).wrs
      [(PWR.EVT_WOKE, (s.woken.stewardsUp (s.rd PWR.WAKE_VEC_ADDR)).rd PWR.EVT_WOKE), (PWR.SLEEP_STATUS_OUTCOME, 1)]).pwrSettle := by
    rw [hs, State.restoreWake]
    simp only [hleg, if_true, show ¬ (2 : Nat) = 3 by decide, false_and, if_false]
    rw [if_neg (by exact hlc)]
    rfl
  obtain ⟨hpower, hmem, hrd⟩ := s.woken.stewardsUp_frame (s.rd PWR.WAKE_VEC_ADDR)
  have hstw := fun w hw => s.woken.steward_stewardsUp (s.rd PWR.WAKE_VEC_ADDR) (w := w) hw
  rw [heq]
  generalize s.woken.stewardsUp (s.rd PWR.WAKE_VEC_ADDR) = v at hpower hmem hrd hstw
  rw [State.pwrSettle_none (by exact (congrArg PowerX.request hpower).trans hr) (by exact (congrArg PowerX.cmdWait hpower).trans hc)]
  simp (disch := decide) only [State.wrs_cons, State.wrs_nil, State.rd_wr_ne, State.rd_wr_self]
  refine ⟨hpower, ?_, rfl, hmem, hrd _ (by decide), fun w hw4 => ?_⟩
  · exact (Nat.mod_eq_of_lt (v.rd_lt _)).trans (hrd _ (by decide))
  · have h := hstw w hw4
    exact ⟨congrArg Steward.pc h, congrArg Steward.inReset h⟩

/-- R415 step 4: the domains `ds` are powered in their order. -/
def State.raises (s : State) (ds : List Nat) : State := ds.foldl State.raise s

theorem State.powerStays_raises (s : State) (ds : List Nat) : s.PowerStays (s.raises ds) :=
  State.PowerStays.foldl (fun t d _ h => h.trans (t.powerStays_raise d)) (.refl s)

theorem State.PowerStays.domainOn (h : s.PowerStays t) {d : Nat} (hd : d < 36) (hon : s.domainOn d = true) : t.domainOn d = true := by
  unfold State.domainOn at hon ⊢
  split at hon
  · next hb => exact (if_pos hb).trans (h.block d hb hon)
  · next hb => exact (if_neg hb).trans (h.region (d - 32) (by omega) hon)

theorem State.domainOn_raises (s : State) {ds : List Nat} (hds : ∀ d ∈ ds, d < 36) {d : Nat} (hd : d ∈ ds) : (s.raises ds).domainOn d = true := by
  induction ds generalizing s with
  | nil => cases hd
  | cons e ds ih =>
    rcases List.mem_cons.mp hd with rfl | hd
    · exact ((s.raise d).powerStays_raises ds).domainOn (hds d List.mem_cons_self) (s.domainOn_raise (hds d List.mem_cons_self))
    · exact ih (s.raise e) (fun k hk => hds k (List.mem_cons_of_mem e hk)) hd

/-- R415 steps 1 to 3: the chip is restored, and the stewards start where the device is not LOCKED. -/
def State.chipAwake (s : State) (k : Nat) : State :=
  if (if k = 3 then s.woken.raiseChip else s.woken).rd LC.STATE_STATE = 7 then if k = 3 then s.woken.raiseChip else s.woken
  else (if k = 3 then s.woken.raiseChip else s.woken).stewardsUp (s.rd PWR.WAKE_VEC_ADDR)

theorem State.chipAwake_power (s : State) (k : Nat) : (s.chipAwake k).power = { s.power with sleep := 0, wakes := [] } := by
  have h : (if k = 3 then s.woken.raiseChip else s.woken).power = { s.power with sleep := 0, wakes := [] } := by
    split
    · exact s.woken.raiseChip_power
    · rfl
  unfold State.chipAwake
  generalize (if k = 3 then s.woken.raiseChip else s.woken) = v at h
  split
  · exact h
  · exact (v.stewardsUp_frame _).1.trans h

/-- R415 step 4: the domains that were on when the entry began. -/
def wereOn (p : PowerX) : List Nat := (onesBelow p.wasRegions 4).map (32 + ·) ++ onesBelow p.wasBlocks 32

theorem mem_wereOn {p : PowerX} {d : Nat} : d ∈ wereOn p ↔
    (∃ r, r < 4 ∧ bitOf p.wasRegions r = true ∧ 32 + r = d) ∨ (d < 32 ∧ bitOf p.wasBlocks d = true) := by
  simp only [wereOn, List.mem_append, List.mem_map, mem_onesBelow, and_assoc]

theorem State.restoreWake_eq (s : State) (k : Nat) (hleg : s.flag PWR.CTRL_LEGACY_WAKE = false) : s.restoreWake k =
    (if k = 3 ∧ s.rd PWR.LAST_WAKE_SRC ≠ 3 then
      { ((s.chipAwake k).raises (wereOn s.power)).wrs [(PWR.EVT_WOKE, 1), (PWR.SLEEP_STATUS_OUTCOME, 1)] with
        host := { (((s.chipAwake k).raises (wereOn s.power)).wrs [(PWR.EVT_WOKE, 1), (PWR.SLEEP_STATUS_OUTCOME, 1)]).host with wakeN := true } }
    else ((s.chipAwake k).raises (wereOn s.power)).wrs [(PWR.EVT_WOKE, 1), (PWR.SLEEP_STATUS_OUTCOME, 1)]).pwrSettle := by
  rw [State.raises, wereOn, List.foldl_append, List.foldl_map, State.restoreWake]
  simp only [hleg, Bool.false_eq_true, if_false]
  rfl

/-- R415: WAKE_RESTORE where the compatibility mode is off. -/
theorem wakeRestoreClause (s : State) (hs : 2 ≤ s.power.sleep) (hw : s.power.wakes ≠ []) (hsup : s.flag PWR.STATUS_SLEEP_SUPPLY = false)
    (hleg : s.flag PWR.CTRL_LEGACY_WAKE = false) (hr : s.power.request = none) (hc : s.power.cmdWait = none) :
    ∃ u, exec .wakeRestore s = .next u ∧ u.power.sleep = 0 ∧ u.power.wakes = [] ∧ u.rd PWR.EVT_WOKE = 1 ∧ u.rd PWR.SLEEP_STATUS_OUTCOME = 1 ∧
      (∀ b, b < 32 → bitOf s.power.wasBlocks b = true → u.blockOn b = true) ∧ ∀ r, r < 4 → bitOf s.power.wasRegions r = true → u.regionOn r = true := by
  refine ⟨_, exec_wakeRestore hs hw hsup, ?_⟩
  rw [s.restoreWake_eq s.power.sleep hleg]
  have hlt : ∀ d ∈ wereOn s.power, d < 36 := by
    intro d hd
    rcases mem_wereOn.mp hd with ⟨r, hr4, -, rfl⟩ | ⟨hd32, -⟩ <;> omega
  have hpower := ((s.chipAwake s.power.sleep).powerStays_raises (wereOn s.power)).power.trans (s.chipAwake_power s.power.sleep)
  have hon := fun d hd => (s.chipAwake s.power.sleep).domainOn_raises hlt (d := d) hd
  generalize (s.chipAwake s.power.sleep).raises (wereOn s.power) = v at hpower hon
  have hshown : ∀ u : State, u.power = v.power → (∀ f, u.rd f = (v.wrs [(PWR.EVT_WOKE, 1), (PWR.SLEEP_STATUS_OUTCOME, 1)]).rd f) →
      u.pwrSettle.power.sleep = 0 ∧ u.pwrSettle.power.wakes = [] ∧ u.pwrSettle.rd PWR.EVT_WOKE = 1 ∧ u.pwrSettle.rd PWR.SLEEP_STATUS_OUTCOME = 1 ∧
        (∀ b, b < 32 → bitOf s.power.wasBlocks b = true → u.pwrSettle.blockOn b = true) ∧
        ∀ r, r < 4 → bitOf s.power.wasRegions r = true → u.pwrSettle.regionOn r = true := by
    intro u hu hrd
    have hup := hu.trans hpower
    rw [State.pwrSettle_none ((congrArg PowerX.request hup).trans hr) ((congrArg PowerX.cmdWait hup).trans hc)]
    simp (disch := decide) only [State.blockOn, State.regionOn, hrd, State.wrs_cons, State.wrs_nil, State.rd_wr_ne, State.rd_wr_self]
    refine ⟨congrArg PowerX.sleep hup, congrArg PowerX.wakes hup, rfl, rfl, fun b hb hbit => ?_, fun r hr4 hbit => ?_⟩
    · have h := hon b (mem_wereOn.mpr (.inr ⟨hb, hbit⟩))
      rwa [State.domainOn, if_pos hb] at h
    · have h := hon (32 + r) (mem_wereOn.mpr (.inl ⟨r, hr4, hbit, rfl⟩))
      rwa [State.domainOn, if_neg (by omega), Nat.add_sub_cancel_left] at h
  split
  · exact hshown _ (State.wrs_power v _) fun _ => rfl
  · exact hshown _ (State.wrs_power v _) fun _ => rfl

end

/-- Settles O40: each clause is the step of the sleep controller that it names. An entry keeps what its refusers do not see, the
domains that are dropped leave the power controller alone (`State.apart`), and a domain that a wake has powered stays on
(`State.PowerStays`). -/
theorem sleepAndWake : Obligations.SleepAndWake := by
  refine ⟨sleepClauses, sleepCancelClauses, fun s e he => ?_, fun s fired t => ?_⟩
  · obtain ⟨hquiesce, hclocks, hsave⟩ := entryGoesClauses s e he
    exact ⟨hquiesce, hclocks, hsave, entryAbortClause s e he, fun hst hk _ _ => isolateSleepClause s e he hst hk,
      fun hst hk ha hr hc _ _ => isolateOffClause s e he hst hk ha hr hc⟩
  · obtain ⟨hnone, hone⟩ := wakeClauses s fired t
    obtain ⟨hoff, hon, hpass, hdeep⟩ := wakeSourceClauses s t
    obtain ⟨hstay, hexit⟩ := idleExitClauses s
    refine ⟨hnone, hone, hoff, hon, hpass, hdeep, hstay, hexit, fun h => ?_, wakeLegacyClause s, wakeRestoreClause s⟩
    exact congrArg Host.Outcome.next (if_pos (h.imp_right List.isEmpty_iff.mpr))

end Sys2Proof.Machine

namespace Sys2Proof.Machine

/-! ## Mailboxes of Objor (R345, R347, R349) -/

section

variable {s u : State} {m op : Nat}

/-! ### A command is served -/

/-- R345, R347, R349: a mailbox that Objor serves runs the body of the command at once. -/
theorem State.Serves.mbRow {states : List Nat} (h : s.Serves m states) {served : List Nat}
    (hst : ∀ x ∈ states, served.contains x = true ∧ (x = 7 → op = 6)) (preempts : Bool) (body : State → Nat → MbRes) :
    s.mbRow m op served preempts body = (body s m).close m op := by
  obtain ⟨hm, ho, hpend, hready, herror, hstate, hinstall, hseal, hqueue⟩ := h
  obtain ⟨hin, hlocked⟩ := hst _ (List.contains_iff_mem.mp hstate)
  have hshut : s.mbShut op served = 0 := by
    rw [State.mbShut, hready, herror, hin, if_neg (by decide), if_neg (by simp), if_neg]
    by_cases h7 : s.rd LC.STATE_STATE = 7
    · simp [hlocked h7]
    · simp [h7]
  have hnext : s.isNext m op = false := by rw [State.isNext, hpend, Bool.false_and]
  have hwait : s.mustWait preempts = false := by
    simp [State.mustWait, State.preemptWait, hinstall, hseal, hqueue]
  rw [State.mbRow, State.atReg_open _ ho, State.mailbox, hnext, hpend]
  simp [hshut, hwait]

/-! ### How a command ends (R11, R13, R352) -/

theorem key_doneField (hm : m < 2) : (doneField m).key = 64 * 0x100008 + m := by
  obtain rfl | rfl : m = 0 ∨ m = 1 := by omega
  · rfl
  · rfl

/-- What an end of a command leaves alone: all but BUSY, DONE and MBm_STATUS. -/
theorem State.rd_mbDone_ne (hm : m < 2) (st d : Nat) {f : Fld} (hbusy : f.key ≠ OBJ.STATUS_BUSY.key)
    (hdone : f.key < 64 * 0x100008 ∨ 64 * 0x100008 + 2 ≤ f.key)
    (hstatus : f.key < 64 * (0x100108 + 0x100 * m) ∨ 64 * (0x100109 + 0x100 * m) ≤ f.key) : (s.mbDone m op st d).rd f = s.rd f := by
  refine s.rd_wrs_ne _ fun e he => ?_
  simp only [List.mem_cons, List.not_mem_nil, or_false] at he
  rcases he with rfl | rfl | rfl | rfl | rfl | rfl
  case inr.inr.inr.inr.inl => rw [key_doneField hm]; omega
  all_goals simp only [Fld.key] at hbusy hstatus ⊢; omega

theorem State.rd_mbDone (hm : m < 2) (st d : Nat) : (s.mbDone m op st d).rd (OBJ.MB_STATUS_STATUS m) = st % 256 ∧
    (s.mbDone m op st d).rd (OBJ.MB_STATUS_DETAIL m) = d % 256 ∧ (s.mbDone m op st d).rd (OBJ.MB_STATUS_PEND m) = 0 := by
  have hdone := key_doneField hm
  unfold State.mbDone
  generalize doneField m = g at hdone
  simp (disch := (simp only [Fld.key] at hdone ⊢; omega)) only [State.wrs_cons, State.wrs_nil, State.rd_wr_ne, State.rd_wr_self]
  exact ⟨rfl, rfl, rfl⟩

theorem MbRes.close_ends {st : Nat} (h : st = 0 ∨ st = 6) (d : Nat) (s : State) (m op : Nat) : (⟨st, d, s⟩ : MbRes).close m op = s.mbDone m op st d := by
  rcases h with rfl | rfl <;> rfl

/-- R13: what a refusal counts. -/
def State.mbCounted (s : State) (m op st : Nat) : State :=
  ((s.wr (OBJ.MB_STATUS_PEND m) 0).reject OBJ.REJECT_COUNT OBJ.LAST_REJECT_CODE OBJ.LAST_REJECT_STATUS op st).wr OBJ.LAST_REJECT_MB m

theorem MbRes.close_refused {st : Nat} (h : st ∈ [2, 3, 4]) (d : Nat) (s : State) (m op : Nat) :
    (⟨st, d, s⟩ : MbRes).close m op = (s.mbCounted m op st).mbDone m op st d := by
  have hpend : (s.wr (OBJ.MB_STATUS_PEND m) 0).flag (OBJ.MB_STATUS_PEND m) = false := by
    rw [State.flag, State.rd_wr_self]
    rfl
  have hrefuse : (s.wr (OBJ.MB_STATUS_PEND m) 0).mbRefuse m op st d = (s.mbCounted m op st).mbDone m op st d := by
    rw [State.mbRefuse, hpend]
    rfl
  simp only [List.mem_cons, List.not_mem_nil, or_false] at h
  rcases h with rfl | rfl | rfl <;> exact hrefuse

/-- What the end of a command shows of the state `s` that its body has left. -/
structure State.Ends (s t : State) (m st d : Nat) : Prop where
  status : t.rd (OBJ.MB_STATUS_STATUS m) = st
  detail : t.rd (OBJ.MB_STATUS_DETAIL m) = d
  pend : t.rd (OBJ.MB_STATUS_PEND m) = 0
  objor : t.objor = s.objor
  mem : t.mem = s.mem
  store : t.store = s.store
  bonds : t.bonds = s.bonds
  rst : t.rst = s.rst
  runs : t.runs = s.runs
  rd : ∀ f : Fld, f.key ≠ OBJ.STATUS_BUSY.key → f.key < 64 * 0x100008 ∨ 64 * 0x100019 ≤ f.key →
    f.key < 64 * (0x100108 + 0x100 * m) ∨ 64 * (0x100109 + 0x100 * m) ≤ f.key → t.rd f = s.rd f

theorem State.ends_mbDone (hm : m < 2) (op : Nat) {st d : Nat} (hst : st < 256) (hd : d < 256) (s : State) : s.Ends (s.mbDone m op st d) m st d := by
  obtain ⟨hstatus, hdetail, hpend⟩ := s.rd_mbDone (op := op) hm st d
  exact ⟨hstatus.trans (Nat.mod_eq_of_lt hst), hdetail.trans (Nat.mod_eq_of_lt hd), hpend, rfl, rfl, rfl, rfl, rfl, rfl,
    fun f hbusy hlow hmb => s.rd_mbDone_ne hm st d hbusy (by omega) hmb⟩

theorem State.rd_mbCounted_ne (hm : m < 2) (op st : Nat) {f : Fld} (hlow : f.key < 64 * 0x100010 ∨ 64 * 0x100019 ≤ f.key)
    (hstatus : f.key < 64 * (0x100108 + 0x100 * m) ∨ 64 * (0x100109 + 0x100 * m) ≤ f.key) : (s.mbCounted m op st).rd f = s.rd f := by
  unfold State.mbCounted State.reject State.count
  simp (disch := (simp only [Fld.key] at hlow hstatus ⊢; omega)) only [State.wrs_cons, State.wrs_nil, State.rd_wr_ne]

/-- A command that completes. -/
theorem MbRes.ends_close (hm : m < 2) (op : Nat) {st d : Nat} (h : st = 0 ∨ st = 6) (hd : d < 256) (s : State) :
    s.Ends ((⟨st, d, s⟩ : MbRes).close m op) m st d := by
  rw [MbRes.close_ends h]
  exact State.ends_mbDone hm op (by omega) hd s

/-- A command that is refused. -/
theorem MbRes.ends_close_refused (hm : m < 2) (op : Nat) {st d : Nat} (h : st ∈ [2, 3, 4]) (hd : d < 256) (s : State) :
    s.Ends ((⟨st, d, s⟩ : MbRes).close m op) m st d := by
  rw [MbRes.close_refused h d s m op]
  have hst : st < 256 := by
    simp only [List.mem_cons, List.not_mem_nil, or_false] at h
    omega
  obtain ⟨hstatus, hdetail, hpend, hobjor, hmem, hstore, hbonds, hrst, hruns, hrd⟩ := State.ends_mbDone hm op hst hd (s.mbCounted m op st)
  exact ⟨hstatus, hdetail, hpend, hobjor, hmem, hstore, hbonds, hrst, hruns, fun f hbusy hlow hmb =>
    (hrd f hbusy hlow hmb).trans (s.rd_mbCounted_ne hm op st (by omega) hmb)⟩

/-! ### What a command body takes first (R325, R348) -/

theorem State.withStore_free (h : s.StoreFree) (k : State → MbRes) : s.withStore k = k s := by
  rw [State.withStore, State.storeBusy_free h, if_neg (by decide)]

theorem State.ObjReads.withBytes {a n : Nat} {b : List Nat} (h : s.ObjReads a n b u) (k : State → List Nat → MbRes) : s.withBytes a n k = k u b := by
  obtain ⟨hok, hread⟩ := h
  rw [State.withBytes, hok, hread]
  rfl

theorem State.ManifestReads.withManifest {a n : Nat} {b : List Nat} (h : s.ManifestReads a n b u) (k : State → List Nat → MbRes) :
    s.withManifest a n k = k u b := by
  obtain ⟨ws, hread, rfl⟩ := h
  rw [State.withManifest, hread]

end

end Sys2Proof.Machine

namespace Sys2Proof.Machine

/-! ## Identity, self-tests, owners and fleet keys (R342 to R345, R349, R368, R369) -/

section

variable {s u v : State} {m : Nat}

/-! ### A mailbox that is busy (R347) -/

theorem State.mailbox_busy (op : Nat) (ho : s.regOpen (4 * m) (OBJ.MB_CMD_OP m).addr = true) (hp : s.flag (OBJ.MB_STATUS_PEND m) = true)
    (hq : ∀ op, s.objor.queue.head? ≠ some (m, op)) (served : List Nat) (preempts : Bool) (body : State → Nat → MbRes) :
    let t := s.mbRow m op served preempts body
    t.objor = s.objor ∧ t.mem = s.mem ∧ t.rd OBJ.LAST_REJECT_STATUS = 1 ∧ t.flag (OBJ.MB_STATUS_PEND m) = true := by
  have hnext : s.isNext m op = false := by
    rw [State.isNext, hp, Bool.true_and, beq_eq_false_iff_ne]
    exact hq op
  have heq : s.mbRow m op served preempts body =
      (s.reject OBJ.REJECT_COUNT OBJ.LAST_REJECT_CODE OBJ.LAST_REJECT_STATUS op 1).wr OBJ.LAST_REJECT_MB m := by
    rw [State.mbRow, State.atReg_open _ ho, State.mailbox, hnext, Bool.false_and, if_neg (by decide), if_pos hp, State.mbRefuse, if_pos hp]
  rw [heq]
  unfold State.reject State.count
  refine ⟨rfl, rfl, ?_, ?_⟩
  · simp (disch := decide) only [State.wrs_cons, State.wrs_nil, State.rd_wr_ne, State.rd_wr_self]
    rfl
  · rw [State.flag] at hp ⊢
    simp (disch := (simp only [Fld.key]; omega)) only [State.wrs_cons, State.wrs_nil, State.rd_wr_ne, hp]

theorem mailboxBusyClause (s : State) (m a b : Nat) (bad : Bool) (c : Instr) (ho : s.regOpen (4 * m) (OBJ.MB_CMD_OP m).addr = true)
    (hp : s.flag (OBJ.MB_STATUS_PEND m) = true) (hq : ∀ op, s.objor.queue.head? ≠ some (m, op))
    (hc : c ∈ [.getIdentityRead m, .generate m bad, .setCert m bad, .openBonded m, .closeBonded m, .addOwner m bad, .removeOwner m bad,
      .addFleet m bad, .removeFleet m bad, .katStatus m, .katRerun m a, .zeroise (m, bad), .zeroiseAll (m, bad), .installManifest m, .issueSeal m,
      .lcRequest m a b bad, .rollForward m a b bad, .nonce m, .debugAuth m]) :
    ∃ t, exec c s = .next t ∧ t.objor = s.objor ∧ t.mem = s.mem ∧ t.rd OBJ.LAST_REJECT_STATUS = 1 ∧ t.flag (OBJ.MB_STATUS_PEND m) = true := by
  have hrow (op : Nat) (served : List Nat) (preempts : Bool) (body : State → Nat → MbRes) (hexec : exec c s = .next (s.mbRow m op served preempts body)) :
      ∃ t, exec c s = .next t ∧ t.objor = s.objor ∧ t.mem = s.mem ∧ t.rd OBJ.LAST_REJECT_STATUS = 1 ∧ t.flag (OBJ.MB_STATUS_PEND m) = true :=
    ⟨_, hexec, s.mailbox_busy op ho hp hq served preempts body⟩
  simp only [List.mem_cons, List.not_mem_nil, or_false] at hc
  rcases hc with rfl | rfl | rfl | rfl | rfl | rfl | rfl | rfl | rfl | rfl | rfl | rfl | rfl | rfl | rfl | rfl | rfl | rfl | rfl <;>
    exact hrow _ _ _ _ rfl

/-! ### The nonce of a mailbox (R350) -/

@[simp] theorem State.nonce_setNonce (s : State) (m : Nat) (n : Option Nat) : (s.setNonce m n).nonce m = n := by
  unfold State.nonce State.setNonce
  split <;> rfl

theorem State.nonce_congr {t : State} (h : t.objor = s.objor) (m : Nat) : t.nonce m = s.nonce m := by
  rw [State.nonce, h, State.nonce]

/-- R349, R350: the registers and the nonce that a fresh nonce leaves. -/
theorem State.giveNonce_shows (s : State) (m : Nat) : (s.giveNonce m).nonce m = some (s.random % 2 ^ 256) ∧ (s.giveNonce m).mem = s.mem ∧
    (s.giveNonce m).objor.draws = s.objor.draws + 1 ∧ (s.giveNonce m).rd (OBJ.MB_RES_RES m 0) = s.rd LC.UNIT_ID0_ID ∧
    (s.giveNonce m).rd (OBJ.MB_RES_RES m 1) = s.rd LC.UNIT_ID1_ID := by
  unfold State.giveNonce
  extract_lets n t
  have hres (u : State) : ((List.range 4).foldl (fun u k => u.setRes m (2 + k) (bits n (64 * k) 64)) u).objor = u.objor ∧
      ((List.range 4).foldl (fun u k => u.setRes m (2 + k) (bits n (64 * k) 64)) u).mem = u.mem ∧
      ∀ f : Fld, f.key < 64 * (0x100190 + 0x100 * m) → ((List.range 4).foldl (fun u k => u.setRes m (2 + k) (bits n (64 * k) 64)) u).rd f = u.rd f :=
    ⟨State.foldl_same State.objor fun _ _ _ => rfl, State.foldl_same State.mem fun _ _ _ => rfl,
      fun f hf => State.foldl_same (fun t => t.rd f) fun u k _ => u.rd_wr_ne _ (by simp only [Fld.key] at hf ⊢; omega)⟩
  obtain ⟨hobjor, hmem, hrd⟩ := hres t
  have hnonce : t.nonce m = some n := s.nonce_setNonce m (some n)
  have hdraws : t.objor.draws = s.objor.draws + 1 := by
    show (s.setNonce m (some n)).objor.draws + 1 = _
    unfold State.setNonce
    split <;> rfl
  have h0 : t.rd (OBJ.MB_RES_RES m 0) = s.rd LC.UNIT_ID0_ID := by
    unfold t State.setRes
    rw [State.rd_wr_ne _ _ (by simp only [Fld.key]; omega), State.rd_wr_self]
    exact Nat.mod_eq_of_lt (s.rd_lt LC.UNIT_ID0_ID)
  have h1 : t.rd (OBJ.MB_RES_RES m 1) = s.rd LC.UNIT_ID1_ID := by
    unfold t State.setRes
    rw [State.rd_wr_self]
    exact Nat.mod_eq_of_lt (s.rd_lt LC.UNIT_ID1_ID)
  have hmem' : t.mem = s.mem := rfl
  clear_value t
  exact ⟨(State.nonce_congr hobjor m).trans hnonce, hmem.trans hmem', (congrArg ObjorX.draws hobjor).trans hdraws,
    (hrd _ (by simp only [Fld.key]; omega)).trans h0, (hrd _ (by simp only [Fld.key]; omega)).trans h1⟩

theorem State.nonce_wr (s : State) (f : Fld) (v m : Nat) : (s.wr f v).nonce m = s.nonce m := rfl

/-! ### GET_IDENTITY (R342, R349) -/

theorem identityReadClause (s u : State) (m n : Nat) (h : s.Serves m [0, 1, 2, 3]) (hn : n = s.objor.cert.length) (hbuf : bufOk (s.arg m 1) n = true)
    (hput : s.ownPut (s.arg m 1) (n + 1) s.objor.cert = .ok (true, u)) :
    ∃ t, exec (.getIdentityRead m) s = .next t ∧ t.rd (OBJ.MB_STATUS_STATUS m) = 0 ∧ t.rd (OBJ.MB_RES_RES m 6) = n % 2 ^ 64 ∧
      t.rd (OBJ.MB_RES_RES m 0) = u.rd LC.UNIT_ID0_ID ∧ t.rd (OBJ.MB_RES_RES m 1) = u.rd LC.UNIT_ID1_ID ∧ t.nonce m = some (u.random % 2 ^ 256) ∧
      t.mem = u.mem := by
  have hm := h.1
  have hbody : identityRead s m = ⟨0, 0, (u.giveNonce m).setRes m 6 n⟩ := by
    unfold identityRead
    dsimp only
    rw [← hn, hbuf, hput]
    rfl
  obtain ⟨hnonce, hmem, -, h0, h1⟩ := u.giveNonce_shows m
  refine ⟨_, congrArg Host.Outcome.next ((h.mbRow (op := 1) (by decide) true identityRead).trans (congrArg (MbRes.close · m 1) hbody)), ?_⟩
  generalize u.giveNonce m = g at hnonce hmem h0 h1
  obtain ⟨hst, -, -, hobjor, hmem', -, -, -, -, hrd⟩ := MbRes.ends_close hm 1 (.inl rfl) (by decide : 0 < 256) (g.setRes m 6 n)
  generalize (⟨0, 0, g.setRes m 6 n⟩ : MbRes).close m 1 = t at hst hobjor hmem' hrd
  refine ⟨hst, ?_, ?_, ?_, (State.nonce_congr hobjor m).trans hnonce, hmem'.trans hmem⟩
  · rw [hrd _ (by simp only [Fld.key]; omega) (by simp only [Fld.key]; omega) (by simp only [Fld.key]; omega), State.setRes, State.rd_wr_self]
  · rw [hrd _ (by simp only [Fld.key]; omega) (by simp only [Fld.key]; omega) (by simp only [Fld.key]; omega), State.setRes,
      State.rd_wr_ne _ _ (by simp only [Fld.key]; omega), h0]
  · rw [hrd _ (by simp only [Fld.key]; omega) (by simp only [Fld.key]; omega) (by simp only [Fld.key]; omega), State.setRes,
      State.rd_wr_ne _ _ (by simp only [Fld.key]; omega), h1]

/-! ### The error state (R345) -/

theorem State.closeBonds_frame (s : State) (p : BondSession → Bool) : (s.closeBonds p).bonds = s.bonds.filter (fun b => !p b) ∧
    (s.closeBonds p).mem = s.mem ∧ (s.closeBonds p).objor = s.objor ∧ (s.closeBonds p).store = s.store ∧ (s.closeBonds p).runs = s.runs ∧
    (s.closeBonds p).rst = s.rst ∧ ∀ f : Fld, f.key < 64 * 0x100600 → (s.closeBonds p).rd f = s.rd f := by
  unfold State.closeBonds
  refine ⟨?_, ?_, ?_, ?_, ?_, ?_, fun f hf => ?_⟩
  · exact State.foldl_same State.bonds fun _ _ _ => rfl
  · exact State.foldl_same State.mem fun _ _ _ => rfl
  · exact State.foldl_same State.objor fun _ _ _ => rfl
  · exact State.foldl_same State.store fun _ _ _ => rfl
  · exact State.foldl_same State.runs fun _ _ _ => rfl
  · exact State.foldl_same State.rst fun _ _ _ => rfl
  · refine State.foldl_same (fun t => t.rd f) fun t b _ => State.rd_wrs_ne _ _ fun e he => ?_
    simp only [List.mem_cons, List.not_mem_nil, or_false] at he
    rcases he with rfl | rfl | rfl | rfl | rfl <;> (simp only [Fld.key] at hf ⊢; omega)

/-- R345: what the error state shows. -/
theorem State.objorError_shows (s : State) : s.objorError.rd OBJ.STATUS_ERROR = 1 ∧ s.objorError.rd OBJ.STATUS_READY = 0 ∧
    s.objorError.rd OBJ.STATUS_APPROVED = 0 ∧ s.objorError.rd OBJ.EVT_ERROR = 1 ∧ s.objorError.objor = { s.objor with error := true } ∧
    s.objorError.bonds = [] ∧ s.objorError.mem = s.mem ∧ s.objorError.store = s.store ∧
    ∀ f : Fld, 64 * 0x100009 ≤ f.key → f.key < 64 * 0x100600 → s.objorError.rd f = s.rd f := by
  obtain ⟨hbonds, hmem, hobjor, hstore, -, -, hrd⟩ := State.closeBonds_frame { s with objor := { s.objor with error := true } } fun _ => true
  unfold State.objorError
  dsimp only
  generalize State.closeBonds { s with objor := { s.objor with error := true } } (fun _ => true) = t at hbonds hmem hobjor hstore hrd
  refine ⟨?_, ?_, ?_, ?_, hobjor, hbonds.trans (by simp), hmem, hstore, fun f hlo hhi => ?_⟩
  all_goals simp (disch := (simp only [Fld.key] at *; omega)) only [State.wrs_cons, State.wrs_nil, State.rd_wr_ne, State.rd_wr_self]
  · rfl
  · rfl
  · rfl
  · rfl
  · exact (hrd f hhi).trans rfl

theorem selfTestFailureClause (s : State) : ∃ t, exec .selfTestFailure s = .next t ∧ t.rd OBJ.STATUS_ERROR = 1 ∧ t.rd OBJ.STATUS_READY = 0 ∧
    t.rd OBJ.STATUS_APPROVED = 0 ∧ t.rd OBJ.EVT_ERROR = 1 ∧ t.objor.error = true ∧ t.bonds = [] ∧ t.mem = s.mem := by
  obtain ⟨herror, hready, happroved, hevt, hobjor, hbonds, hmem, -, -⟩ := s.objorError_shows
  exact ⟨_, rfl, herror, hready, happroved, hevt, congrArg ObjorX.error hobjor, hbonds, hmem⟩

/-! ### The counter log (R367, R368) -/

theorem foldl_max_succ_bounds (l : List Nat) (a b : Nat) (hab : a ≤ b) (h : ∀ k ∈ l, k < b) :
    a ≤ l.foldl (fun m k => max m (k + 1)) a ∧ l.foldl (fun m k => max m (k + 1)) a ≤ b := by
  induction l generalizing a with
  | nil => exact ⟨le_rfl, hab⟩
  | cons k l ih =>
    have hk := h k List.mem_cons_self
    obtain ⟨hlo, hhi⟩ := ih (max a (k + 1)) (by omega) fun j hj => h j (List.mem_cons_of_mem k hj)
    exact ⟨le_trans (le_max_left a (k + 1)) hlo, hhi⟩

theorem State.mem_usedIn {x k : Nat} : k ∈ s.usedIn x ↔ k ∈ s.store.cw.map (·.1) ∧ 4096 * x ≤ k ∧ k < 4096 * x + 4096 := by
  simp only [State.usedIn, List.mem_filter, decide_eq_true_eq]

theorem State.logPlace_bounds (s : State) (x : Nat) : 4096 * x ≤ s.logPlace x ∧ s.logPlace x ≤ 4096 * x + 4096 :=
  foldl_max_succ_bounds _ _ _ (Nat.le_add_right ..) fun _ hk => (State.mem_usedIn.mp hk).2.2

theorem State.logActive_eq (s : State) : s.logActive = 6 ∨ s.logActive = 7 := by
  unfold State.logActive
  split
  · exact .inr rfl
  · exact .inl rfl

/-- R368: the next entry stands in sector 6 or 7, where the last code word of 7 is erased. -/
theorem State.logPlace_active (s : State) (h : 32767 ∉ s.store.cw.map (·.1)) : 24576 ≤ s.logPlace s.logActive ∧ s.logPlace s.logActive < 32768 := by
  rcases s.logActive_eq with hx | hx <;> rw [hx]
  · have := s.logPlace_bounds 6
    omega
  · have h7 := foldl_max_succ_bounds (s.usedIn 7) (4096 * 7) 32767 (by decide) fun k hk => by
      obtain ⟨hmem, -, hhi⟩ := State.mem_usedIn.mp hk
      have : k ≠ 32767 := fun heq => h (heq ▸ hmem)
      omega
    unfold State.logPlace
    omega

theorem State.readByte_programNow_out (s : State) (k : Nat) (ws : List Nat) {a : Nat} (h : a < cwAddr k ∨ cwAddr (k + 1) ≤ a) :
    (s.programNow k ws).readByte a = s.readByte a :=
  (State.readByte_wr ..).trans (s.readByte_cwProgram_out k ws h)

theorem State.readByte_programBad_out (s : State) (k : Nat) (ws : List Nat) (spoil : Bool) {a : Nat} (h : a < cwAddr k ∨ cwAddr (k + 1) ≤ a) :
    (s.programBad k ws spoil).readByte a = s.readByte a := by
  unfold State.programBad
  split <;> exact s.readByte_programNow_out k ws h

/-- R321: a code word that is programmed with four words decodes to them. -/
theorem State.cwWords_cwProgram (s : State) (k : Nat) {a b c d : Nat} (ha : a < 2 ^ 72) (hb : b < 2 ^ 72) (hc : c < 2 ^ 72) (hd : d < 2 ^ 72) :
    (s.cwProgram k [a, b, c, d]).cwWords k = [a, b, c, d] := by
  have hword {j : Nat} (hj : j < 4) := s.readWord_cwProgram k [a, b, c, d] hj
  have hchk : Tab.get 0 (s.cwProgram k [a, b, c, d]).store.chk k = 0 := by simp [State.cwProgram]
  have h0 := hword (j := 0) (by decide)
  have h1 := hword (j := 1) (by decide)
  have h2 := hword (j := 2) (by decide)
  have h3 := hword (j := 3) (by decide)
  rw [State.cwWords, hchk, if_pos rfl, State.cwRaw]
  generalize s.cwProgram k [a, b, c, d] = t at h0 h1 h2 h3
  simp only [State.readWords]
  rw [show cwAddr k = cwAddr k + 16 * 0 by rfl, h0]
  simp only [Nat.mul_zero, Nat.add_zero, Nat.add_assoc, Nat.reduceAdd, Nat.reduceMul] at h1 h2 h3 ⊢
  rw [h1, h2, h3]
  simp only [List.getD_cons_zero, List.getD_cons_succ, Nat.mod_eq_of_lt ha, Nat.mod_eq_of_lt hb, Nat.mod_eq_of_lt hc, Nat.mod_eq_of_lt hd]

/-! What is read of the array depends on memory and on the Store's records. -/

theorem State.cwWords_congr {t : State} (hm : t.mem = s.mem) (hs : t.store = s.store) (k : Nat) : t.cwWords k = s.cwWords k := by
  simp only [State.cwWords, State.cwRaw, State.readWords_mem hm, hs]

theorem State.cwErrors_congr {t : State} (hm : t.mem = s.mem) (hs : t.store = s.store) (k e : Nat) : t.cwErrors k e = s.cwErrors k e := by
  rw [State.cwErrors, State.cwState, State.cwRaw, State.readWords_mem hm, hs]
  rfl

theorem State.usedIn_congr {t : State} (hs : t.store = s.store) : t.usedIn = s.usedIn := by
  funext x
  rw [State.usedIn, hs, State.usedIn]

theorem State.logTop_congr {t : State} (hm : t.mem = s.mem) (hs : t.store = s.store) (x : Nat) : t.logTop x = s.logTop x := by
  have hwords : t.cwWords = s.cwWords := funext (State.cwWords_congr hm hs)
  have herrors : t.cwErrors = s.cwErrors := funext fun k => funext (State.cwErrors_congr hm hs k)
  rw [State.logTop, State.logEntries, hwords, herrors, State.usedIn_congr hs]
  rfl

theorem State.logPlace_congr {t : State} (hm : t.mem = s.mem) (hs : t.store = s.store) : t.logPlace t.logActive = s.logPlace s.logActive := by
  rw [State.logActive, State.logTop_congr hm hs, State.logTop_congr hm hs, State.logPlace, State.usedIn_congr hs]
  rfl

theorem State.cwProgram_objor (s : State) (k : Nat) (ws : List Nat) : (s.cwProgram k ws).objor = s.objor := by
  have h (s : State) (a : Nat) (l : List Nat) : (s.writeWords a l).objor = s.objor := by
    induction l generalizing s a with
    | nil => rfl
    | cons v l ih =>
      obtain ⟨m, hm⟩ := like_writeBytes s a (toBytes 9 v)
      rw [writeWords_cons, ih]
      simp only [State.writeWord, hm]
  unfold State.cwProgram
  dsimp only
  exact h ..

theorem State.programNow_objor (s : State) (k : Nat) (ws : List Nat) : (s.programNow k ws).objor = s.objor := s.cwProgram_objor k ws

theorem State.programBad_objor (s : State) (k : Nat) (ws : List Nat) (spoil : Bool) : (s.programBad k ws spoil).objor = s.objor := by
  unfold State.programBad
  split <;> exact s.programNow_objor k ws

/-- R368: the first entry of the seal counter. -/
theorem State.logCeiling_first {t : State} (hm : t.mem = s.mem) (hs : t.store = s.store) : t.logCeiling 0 64 0 =
    t.programNow (s.logPlace s.logActive) [1 + 2 ^ 32 * (max (s.logTop 6) (s.logTop 7) % 2 ^ 32), 64, 0, 0] := by
  rw [State.logCeiling, State.logInto, State.logPlace_congr hm hs, State.logEnt, State.logTop_congr hm hs, State.logTop_congr hm hs]
  rfl

/-- R342, R368: the end of GENERATE where the code word `k` has taken the entry. -/
theorem State.ends_logged (hm : m < 2) (s : State) (k : Nat) {w : Nat} (hw : w < 2 ^ 72) :
    let t := (⟨0, 0, (s.programNow k [w, 64, 0, 0]).wr OBJ.STATUS_IDENT 1⟩ : MbRes).close m 1
    t.rd (OBJ.MB_STATUS_STATUS m) = 0 ∧ t.objor = s.objor ∧ t.rd OBJ.STATUS_IDENT = 1 ∧ t.cwWords k = [w, 64, 0, 0] ∧
      ∀ a, a < cwAddr k ∨ cwAddr (k + 1) ≤ a → t.readByte a = s.readByte a := by
  have hobjor' := s.programNow_objor k [w, 64, 0, 0]
  have hwords : (s.programNow k [w, 64, 0, 0]).cwWords k = [w, 64, 0, 0] :=
    (State.cwWords_congr (s := s.cwProgram k [w, 64, 0, 0]) rfl rfl k).trans (s.cwWords_cwProgram k hw (by decide) (by decide) (by decide))
  have hbytes := fun a ha => s.readByte_programNow_out k [w, 64, 0, 0] (a := a) ha
  generalize s.programNow k [w, 64, 0, 0] = g at hobjor' hwords hbytes
  obtain ⟨hst, -, -, hobjor, hmem, hstore, -, -, -, hrd⟩ := MbRes.ends_close hm 1 (.inl rfl) (by decide : 0 < 256) (g.wr OBJ.STATUS_IDENT 1)
  exact ⟨hst, hobjor.trans hobjor', (hrd _ (by decide) (by decide) (by simp only [Fld.key]; omega)).trans (State.rd_wr_self ..),
    (State.cwWords_congr (s := g) hmem hstore k).trans hwords, fun a ha => (State.readByte_mem (s := g) hmem a).trans (hbytes a ha)⟩

/-! ### GENERATE (R342, R344, R368) -/

theorem exec_generate (h : s.Serves m [1]) (bad : Bool) : exec (.generate m bad) s = .next ((generate bad s m).close m 1) :=
  congrArg Host.Outcome.next (h.mbRow (op := 1) (by decide) false (generate bad))

theorem generate_fails (hi : s.objor.ident = none) (hf : s.StoreFree) (hp : pairwise (s.random % 2 ^ 384) = false) (bad : Bool) :
    generate bad s m = ⟨6, 0, s.randomDrawn.objorError⟩ := by
  unfold generate
  rw [hi, Option.isSome_none, if_neg (by decide), State.withStore_free hf]
  dsimp only
  rw [hp]
  rfl

/-- R342, R368: a key that passes its test: the entry of the counter log comes after it. -/
theorem generate_passes (hi : s.objor.ident = none) (hf : s.StoreFree) (hp : pairwise (s.random % 2 ^ 384) = true) (bad : Bool) :
    generate bad s m = if bad then ⟨6, 0xB, s.randomDrawn.logFails 0 64 0⟩ else
      ⟨0, 0, (State.logCeiling { s.randomDrawn with objor := { s.randomDrawn.objor with ident := some (s.random % 2 ^ 384) } } 0 64 0).wr OBJ.STATUS_IDENT 1⟩ := by
  unfold generate
  rw [hi, Option.isSome_none, if_neg (by decide), State.withStore_free hf]
  dsimp only
  rw [hp]
  cases bad <;> rfl

theorem cwAddr_mono {i j : Nat} (h : i ≤ j) : cwAddr i ≤ cwAddr j := by
  unfold cwAddr
  omega

theorem generateClause (s : State) (m : Nat) (bad : Bool) (h : s.Serves m [1]) :
    (s.objor.ident = none → s.StoreFree →
      (pairwise (s.random % 2 ^ 384) = false → ∃ t, exec (.generate m bad) s = .next t ∧ t.rd (OBJ.MB_STATUS_STATUS m) = 6 ∧
        t.objor.ident = none ∧ t.rd OBJ.STATUS_ERROR = 1 ∧ t.mem = s.mem) ∧
      (pairwise (s.random % 2 ^ 384) = true → ∃ t, exec (.generate m bad) s = .next t ∧
        t.rd (OBJ.MB_STATUS_STATUS m) = (if bad then 6 else 0) ∧ t.objor.ident = (if bad then none else some (s.random % 2 ^ 384)) ∧
        (32767 ∉ s.store.cw.map (·.1) → (∀ a, a < cwAddr 24576 ∨ cwAddr 32768 ≤ a → t.readByte a = s.readByte a)) ∧
        (bad = false → t.rd OBJ.STATUS_IDENT = 1 ∧ (32767 ∉ s.store.cw.map (·.1) → ∃ k, 24576 ≤ k ∧ k < 32768 ∧
          t.cwWords k = [1 + 2 ^ 32 * (max (s.logTop 6) (s.logTop 7) % 2 ^ 32), 64, 0, 0])))) ∧
    (s.objor.ident ≠ none → ∃ t, exec (.generate m bad) s = .next t ∧ t.objor = s.objor ∧ t.mem = s.mem ∧ t.rd (OBJ.MB_STATUS_STATUS m) = 3) := by
  have hm := h.1
  refine ⟨fun hi hf => ⟨fun hp => ⟨_, exec_generate h bad, ?_⟩, fun hp => ⟨_, exec_generate h bad, ?_⟩⟩, fun hi => ⟨_, exec_generate h bad, ?_⟩⟩
  · rw [generate_fails hi hf hp]
    obtain ⟨herror, -, -, -, hobjor, -, hmem, -, -⟩ := s.randomDrawn.objorError_shows
    obtain ⟨hst, -, -, hobjor', hmem', -, -, -, -, hrd⟩ := MbRes.ends_close hm 1 (.inr rfl) (by decide : 0 < 256) s.randomDrawn.objorError
    exact ⟨hst, (congrArg ObjorX.ident (hobjor'.trans hobjor)).trans hi,
      (hrd _ (by decide) (by decide) (by simp only [Fld.key]; omega)).trans herror, hmem'.trans hmem⟩
  · have hplace := fun hlast => s.logPlace_active hlast
    rw [generate_passes hi hf hp]
    cases bad with
    | true =>
      rw [if_pos rfl, if_pos rfl, if_pos rfl]
      obtain ⟨hst, -, -, hobjor', hmem', -, -, -, -, -⟩ := MbRes.ends_close hm 1 (.inr rfl) (by decide : 0xB < 256) (s.randomDrawn.logFails 0 64 0)
      have hobjor : (s.randomDrawn.logFails 0 64 0).objor = s.randomDrawn.objor := State.programBad_objor ..
      refine ⟨hst, (congrArg ObjorX.ident (hobjor'.trans hobjor)).trans hi, fun hlast a ha => ?_, fun hb => absurd hb (by decide)⟩
      obtain ⟨hlo, hhi⟩ := hplace hlast
      refine (State.readByte_mem hmem' a).trans (State.readByte_programBad_out _ _ _ _ ?_)
      have hlo' := cwAddr_mono hlo
      have hhi' := cwAddr_mono (Nat.succ_le_of_lt hhi)
      exact ha.imp (fun hlt => lt_of_lt_of_le hlt hlo') (fun hle => le_trans hhi' hle)
    | false =>
      rw [if_neg (by decide), if_neg (by decide), if_neg (by decide),
        State.logCeiling_first (s := s) (by rfl) (by rfl)]
      obtain ⟨hst, hobjor, hident, hwords, hbytes⟩ := State.ends_logged hm { s.randomDrawn with objor := { s.randomDrawn.objor with
        ident := some (s.random % 2 ^ 384) } } (s.logPlace s.logActive) (w := 1 + 2 ^ 32 * (max (s.logTop 6) (s.logTop 7) % 2 ^ 32)) (by omega)
      refine ⟨hst, congrArg ObjorX.ident hobjor, fun hlast a ha => hbytes a ?_, fun _ => ⟨hident, fun hlast => ⟨_, (hplace hlast).1, (hplace hlast).2, hwords⟩⟩⟩
      obtain ⟨hlo, hhi⟩ := hplace hlast
      exact ha.imp (fun hlt => lt_of_lt_of_le hlt (cwAddr_mono hlo)) (fun hle => le_trans (cwAddr_mono (Nat.succ_le_of_lt hhi)) hle)
  · have hbody : generate bad s m = ⟨3, 0, s⟩ := by
      unfold generate
      rw [if_pos (Option.isSome_iff_ne_none.mpr hi)]
    rw [hbody]
    obtain ⟨hst, -, -, hobjor, hmem, -, -, -, -, -⟩ := MbRes.ends_close_refused hm 1 (st := 3) (by decide) (by decide : 0 < 256) s
    exact ⟨hobjor, hmem, hst⟩

end

end Sys2Proof.Machine

namespace Sys2Proof.Machine

section

variable {s u v : State} {m : Nat}

theorem State.rd_of_flag_false {f : Fld} (hw : f.width = 1) (h : s.flag f = false) : s.rd f = 0 := by
  have hlt := s.rd_lt f
  have hne : s.rd f ≠ 1 := fun h1 => absurd (State.flag_eq_true.mpr h1) (by rw [h]; decide)
  rw [hw] at hlt
  omega

/-! ### SET_CERT (R342) -/

theorem setCertClause (s u v : State) (m : Nat) (h b : List Nat) (hserve : s.Serves m [1]) (hhead : s.ObjReads (s.arg m 1) 4 h v)
    (hread : v.ObjReads (s.arg m 1) ((derLength h).getD 4) b u) (hf : u.StoreFree) : ∃ t, exec (.setCert m false) s = .next t ∧ t.mem = u.mem ∧
      if u.objor.ident.any (fun k => Config.certValid b (Config.publicKey k)) then
        if derLength h = none ∨ 1024 < b.length then t.objor = u.objor ∧ t.rd (OBJ.MB_STATUS_STATUS m) = 2
        else t.objor = { u.objor with cert := b } ∧ t.rd (OBJ.MB_STATUS_STATUS m) = 0
      else t.objor = u.objor ∧ t.rd (OBJ.MB_STATUS_STATUS m) = 4 := by
  have hm := hserve.1
  have hbody : setCert false s m = if !(u.objor.ident.any fun k => Config.certValid b (Config.publicKey k)) then ⟨4, 4, u⟩
      else if (derLength h).isNone ∨ 1024 < b.length then ⟨2, 1, u⟩
      else ⟨0, 0, ({ u with objor := { u.objor with cert := b } } : State).storeStep⟩ := by
    unfold setCert
    rw [hhead.withBytes, hread.withBytes, State.withStore_free hf]
    rfl
  refine ⟨_, congrArg Host.Outcome.next ((hserve.mbRow (op := 1) (by decide) false (setCert false)).trans (congrArg (MbRes.close · m 1) hbody)), ?_⟩
  cases hvalid : u.objor.ident.any fun k => Config.certValid b (Config.publicKey k) with
  | false =>
    obtain ⟨hst, -, -, hobjor, hmem, -, -, -, -, -⟩ := MbRes.ends_close_refused hm 1 (st := 4) (by decide) (by decide : 4 < 256) u
    exact ⟨hmem, hobjor, hst⟩
  | true =>
    by_cases hform : derLength h = none ∨ 1024 < b.length
    · obtain ⟨hst, -, -, hobjor, hmem, -, -, -, -, -⟩ := MbRes.ends_close_refused hm 1 (st := 2) (by decide) (by decide : 1 < 256) u
      rw [if_pos rfl, if_pos hform, if_neg (by decide), if_pos (by simpa using hform)]
      exact ⟨hmem, hobjor, hst⟩
    · obtain ⟨hst, -, -, hobjor, hmem, -, -, -, -, -⟩ := MbRes.ends_close hm 1 (.inl rfl) (by decide : 0 < 256)
        ({ u with objor := { u.objor with cert := b } } : State).storeStep
      rw [if_pos rfl, if_neg hform, if_neg (by decide), if_neg (by simpa using hform)]
      exact ⟨hmem, hobjor, hst⟩

/-! ### KAT_STATUS and KAT_RERUN (R344) -/

/-- R344: the results of the tests. -/
theorem State.katResult_shows (s : State) {pass : Nat} (hp : pass < 1024) : (s.katResult pass).rd OBJ.KAT_PASS = pass ∧
    (s.katResult pass).rd OBJ.KAT_DONE = 1 ∧ (s.katResult pass).mem = s.mem ∧ (s.katResult pass).store = s.store ∧
    (s.katResult pass).rd OBJ.STATUS_READY = (if pass = 1023 then s.rd OBJ.STATUS_READY else 0) ∧
    (s.katResult pass).rd OBJ.STATUS_ERROR = (if pass = 1023 then s.rd OBJ.STATUS_ERROR else 1) := by
  have hpass : (s.wrs [(OBJ.KAT_PASS, pass), (OBJ.KAT_DONE, 1)]).rd OBJ.KAT_PASS = pass := by
    simp (disch := decide) only [State.wrs_cons, State.wrs_nil, State.rd_wr_ne, State.rd_wr_self]
    exact Nat.mod_eq_of_lt hp
  have hdone : (s.wrs [(OBJ.KAT_PASS, pass), (OBJ.KAT_DONE, 1)]).rd OBJ.KAT_DONE = 1 := by
    simp (disch := decide) only [State.wrs_cons, State.wrs_nil, State.rd_wr_self]
    rfl
  have hne (f : Fld) (hf : f.key < 64 * 0x100020) : (s.wrs [(OBJ.KAT_PASS, pass), (OBJ.KAT_DONE, 1)]).rd f = s.rd f := by
    simp (disch := (simp only [Fld.key] at hf ⊢; omega)) only [State.wrs_cons, State.wrs_nil, State.rd_wr_ne]
  have hframe : (s.wrs [(OBJ.KAT_PASS, pass), (OBJ.KAT_DONE, 1)]).mem = s.mem ∧ (s.wrs [(OBJ.KAT_PASS, pass), (OBJ.KAT_DONE, 1)]).store = s.store :=
    ⟨rfl, rfl⟩
  unfold State.katResult
  dsimp only
  generalize s.wrs [(OBJ.KAT_PASS, pass), (OBJ.KAT_DONE, 1)] = t at hpass hdone hne hframe
  obtain ⟨hmem, hstore⟩ := hframe
  rw [Nat.mod_eq_of_lt hp]
  split_ifs with hall
  · exact ⟨hpass, hdone, hmem, hstore, hne _ (by decide), hne _ (by decide)⟩
  · obtain ⟨herror, hready, -, -, -, -, hmem', hstore', hrd⟩ := t.objorError_shows
    exact ⟨(hrd _ (by decide) (by decide)).trans hpass, (hrd _ (by decide) (by decide)).trans hdone, hmem'.trans hmem, hstore'.trans hstore,
      hready, herror⟩

theorem katClause (s : State) (m pass : Nat) (h : s.Serves m [0, 1, 2, 3]) :
    (∃ t, exec (.katStatus m) s = .next t ∧ t.rd (OBJ.MB_STATUS_STATUS m) = 0 ∧ t.objor = s.objor ∧ t.mem = s.mem ∧
      t.rd (OBJ.MB_RES_RES m 0) = s.rd OBJ.KAT_PASS + 2 ^ 16 * s.rd OBJ.KAT_DONE) ∧
    (s.bonds ≠ [] → ∃ t, exec (.katRerun m pass) s = .next t ∧ t.rd (OBJ.MB_STATUS_STATUS m) = 3 ∧ t.bonds = s.bonds ∧ t.mem = s.mem) ∧
    (s.bonds = [] → pass < 1024 → ∃ t, exec (.katRerun m pass) s = .next t ∧ t.rd (OBJ.MB_STATUS_STATUS m) = 0 ∧ t.mem = s.mem ∧
      t.rd OBJ.KAT_PASS = pass ∧ t.rd OBJ.KAT_DONE = 1 ∧ t.rd OBJ.STATUS_READY = (if pass = 1023 then 1 else 0) ∧
      t.rd OBJ.STATUS_ERROR = if pass = 1023 then 0 else 1) := by
  obtain ⟨hm, -, -, hready, herror, -⟩ := id h
  have hrerun : exec (.katRerun m pass) s = .next ((katRerun pass s m).close m 9) :=
    congrArg Host.Outcome.next (h.mbRow (op := 9) (by decide) false (katRerun pass))
  refine ⟨⟨_, congrArg Host.Outcome.next (h.mbRow (op := 9) (by decide) true katStatus), ?_⟩, fun hb => ⟨_, hrerun, ?_⟩, fun hb hp => ⟨_, hrerun, ?_⟩⟩
  · obtain ⟨hst, -, -, hobjor, hmem, -, -, -, -, hrd⟩ := MbRes.ends_close hm 9 (.inl rfl) (by decide : 0 < 256)
      (s.setRes m 0 (s.rd OBJ.KAT_PASS + 2 ^ 16 * s.rd OBJ.KAT_DONE))
    refine ⟨hst, hobjor, hmem, ?_⟩
    refine (hrd _ (by simp only [Fld.key]; omega) (by simp only [Fld.key]; omega) (by simp only [Fld.key]; omega)).trans
      ((State.rd_wr_self ..).trans (Nat.mod_eq_of_lt ?_))
    have := s.rd_lt OBJ.KAT_PASS
    have := s.rd_lt OBJ.KAT_DONE
    simp only at *
    omega
  · rw [katRerun, if_pos (by simpa using hb)]
    obtain ⟨hst, -, -, -, hmem, -, hbonds, -, -, -⟩ := MbRes.ends_close_refused hm 9 (st := 3) (by decide) (by decide : 0 < 256) s
    exact ⟨hst, hbonds, hmem⟩
  · rw [katRerun, hb, if_neg (by decide)]
    obtain ⟨hpass, hdone, hmem, -, hready', herror'⟩ := s.katResult_shows hp
    have hr : s.rd OBJ.STATUS_READY = 1 := State.flag_eq_true.mp hready
    have he : s.rd OBJ.STATUS_ERROR = 0 := State.rd_of_flag_false (by decide) herror
    rw [hr] at hready'
    rw [he] at herror'
    generalize s.katResult pass = k at hpass hdone hmem hready' herror'
    obtain ⟨hst, -, -, -, hmem', -, -, -, -, hrd⟩ := MbRes.ends_close hm 9 (.inl rfl) (by decide : 0 < 256)
      (k.setRes m 0 (k.rd OBJ.KAT_PASS + 2 ^ 16 * k.rd OBJ.KAT_DONE))
    have hkeep (f : Fld) (hbusy : f.key ≠ OBJ.STATUS_BUSY.key) (hf : f.key < 64 * 0x100008 ∨ 64 * 0x100019 ≤ f.key) (hf' : f.key < 64 * 0x100100) :
        ((katStatus k m).close m 9).rd f = k.rd f :=
      (hrd f hbusy hf (by omega)).trans (State.rd_wr_ne _ _ (by simp only [Fld.key] at hf' ⊢; omega))
    exact ⟨hst, hmem'.trans hmem, (hkeep _ (by decide) (by decide) (by decide)).trans hpass, (hkeep _ (by decide) (by decide) (by decide)).trans hdone,
      (hkeep _ (by decide) (by decide) (by decide)).trans hready', (hkeep _ (by decide) (by decide) (by decide)).trans herror'⟩

/-! ### Owners and fleet keys (R369) -/

/-- R369: the effect of an accepted request, of which the first `n` bytes are signed. -/
def ownerJudged (u : State) (m op : Nat) (b : List Nat) (n : Nat) : MbRes :=
  if u.ownerDenied m op b n ≠ 0 then ⟨4, u.ownerDenied m op b n, u⟩ else ⟨0, 0, (u.setNonce m none).storeStep.ownerTake op b⟩

/-- R369: a request of which the format is kept and the entry is free is judged by its signature. -/
theorem registerOwner_judged {op len : Nat} {h b : List Nat} (hhead : s.ObjReads (s.arg m 1) 8 h v) (hlen : len = if le h 7 1 % 2 = 1 then 2176 else 224)
    (hread : v.ObjReads (s.arg m 1) (len + 96) b u) (hf : u.StoreFree) (hformat : ownerFormat op b = true)
    (hfree : ¬((op = 1 ∧ le b 5 1 < 16 ∧ u.flag (OBJ.OWNER_A_VALID (le b 5 1)) = true) ∨
      (op = 3 ∧ le b 5 1 < 8 ∧ u.flag (OBJ.FLEET_VALID (le b 5 1)) = true))) : registerOwner (some op) false s m = ownerJudged u m op b len := by
  unfold registerOwner
  dsimp only
  rw [hhead.withBytes]
  rw [show (if le h 7 1 % 2 = 1 then 224 + 1952 else 224) = len from hlen.symm, hread.withBytes]
  simp only [Option.getD_some]
  rw [if_neg hfree, hformat, State.withStore_free hf]
  rfl

theorem State.ownerDenied_lt (s : State) (m op : Nat) (b : List Nat) (n : Nat) : s.ownerDenied m op b n < 256 := by
  unfold State.ownerDenied
  dsimp only
  split_ifs <;> decide

theorem exec_registerOwner {op : Nat} {c : Instr} (h : s.Serves m [1, 2])
    (hc : (op, c) ∈ [(1, .addOwner m false), (2, .removeOwner m false), (3, .addFleet m false), (4, .removeFleet m false)]) :
    exec c s = .next ((registerOwner (some op) false s m).close m 8) := by
  have hrow (k : Nat) := h.mbRow (op := 8) (served := [1, 2]) (by decide) false (registerOwner (some k) false)
  simp only [List.mem_cons, Prod.mk.injEq, List.not_mem_nil, or_false] at hc
  rcases hc with ⟨rfl, rfl⟩ | ⟨rfl, rfl⟩ | ⟨rfl, rfl⟩ | ⟨rfl, rfl⟩ <;>
    exact congrArg Host.Outcome.next (hrow _)

/-- R369: a request that is denied leaves Objor's tables and memory. -/
theorem ownerJudged_denied (hm : m < 2) {op n : Nat} {b : List Nat} (h : u.ownerDenied m op b n ≠ 0) :
    ((ownerJudged u m op b n).close m 8).mem = u.mem ∧ ((ownerJudged u m op b n).close m 8).rd (OBJ.MB_STATUS_STATUS m) = 4 ∧
      ((ownerJudged u m op b n).close m 8).objor = u.objor := by
  rw [ownerJudged, if_pos h]
  obtain ⟨hst, -, -, hobjor, hmem, -, -, -, -, -⟩ := MbRes.ends_close_refused hm 8 (st := 4) (by decide) (u.ownerDenied_lt m op b n) u
  exact ⟨hmem, hst, hobjor⟩

/-- R369: the state in which an accepted request takes effect. -/
def State.ownerReady (u : State) (m : Nat) : State := (u.setNonce m none).storeStep

theorem State.ownerReady_shows (u : State) (m : Nat) : (u.ownerReady m).nonce m = none ∧ (u.ownerReady m).mem = u.mem ∧
    (u.ownerReady m).objor.owners = u.objor.owners ∧ ∀ f : Fld, f.key ≠ STO.EVT_DONE.key → (u.ownerReady m).rd f = u.rd f := by
  refine ⟨u.nonce_setNonce m none, rfl, ?_, fun f hf => (State.rd_wr_ne _ _ hf.symm).trans rfl⟩
  show (u.setNonce m none).objor.owners = _
  unfold State.setNonce
  split <;> rfl

/-- R369: an accepted request, the effect of which keeps memory and the nonces. -/
theorem ownerJudged_taken (hm : m < 2) {op n : Nat} {b : List Nat} (h : u.ownerDenied m op b n = 0)
    (hmem : ((u.ownerReady m).ownerTake op b).mem = (u.ownerReady m).mem)
    (hnonce : ((u.ownerReady m).ownerTake op b).nonce m = (u.ownerReady m).nonce m) :
    ((ownerJudged u m op b n).close m 8).mem = u.mem ∧ ((ownerJudged u m op b n).close m 8).rd (OBJ.MB_STATUS_STATUS m) = 0 ∧
      ((ownerJudged u m op b n).close m 8).nonce m = none ∧
      ∀ f : Fld, 64 * 0x100800 ≤ f.key → ((ownerJudged u m op b n).close m 8).rd f = ((u.ownerReady m).ownerTake op b).rd f := by
  obtain ⟨hready, hmem', -, -⟩ := u.ownerReady_shows m
  rw [ownerJudged, if_neg (not_not.mpr h), show (u.setNonce m none).storeStep = u.ownerReady m from rfl]
  obtain ⟨hst, -, -, hobjor, hmem'', -, -, -, -, hrd⟩ := MbRes.ends_close hm 8 (.inl rfl) (by decide : 0 < 256) ((u.ownerReady m).ownerTake op b)
  exact ⟨hmem''.trans (hmem.trans hmem'), hst, (State.nonce_congr hobjor m).trans (hnonce.trans hready),
    fun f hf => hrd f (by simp only [Fld.key] at hf ⊢; omega) (by omega) (by omega)⟩

theorem State.addOwner_shows (s : State) (b : List Nat) (flags : Nat) (hp : le b 6 1 < 16) :
    (s.addOwner b flags).mem = s.mem ∧ (s.addOwner b flags).nonce m = s.nonce m ∧ (s.addOwner b flags).rd (OBJ.OWNER_A_VALID (le b 5 1)) = 1 ∧
      (s.addOwner b flags).rd (OBJ.OWNER_A_PERM (le b 5 1)) = le b 6 1 := by
  unfold State.addOwner
  dsimp only
  generalize le b 5 1 = i
  generalize keyId (le b 80 97) = key
  refine ⟨rfl, rfl, ?_, ?_⟩ <;>
    simp (disch := (simp only [Fld.key]; omega)) only [State.rd_mk, State.wrs_cons, State.wrs_nil, State.rd_wr_ne, State.rd_wr_self]
  · rfl
  · exact Nat.mod_eq_of_lt hp

theorem State.removeOwner_shows (s : State) (i m : Nat) : (s.removeOwner i).mem = s.mem ∧ (s.removeOwner i).nonce m = s.nonce m ∧
    (s.removeOwner i).rd (OBJ.OWNER_A_VALID i) = 0 ∧ (s.removeOwner i).rd (OBJ.OWNER_A_PERM i) = 0 := by
  unfold State.removeOwner
  refine ⟨rfl, rfl, ?_, ?_⟩ <;>
    simp (disch := (simp only [Fld.key]; omega)) only [State.rd_mk, State.wrs_cons, State.wrs_nil, State.rd_wr_ne, State.rd_wr_self, Nat.zero_mod]

theorem State.removeFleet_shows (s : State) (j m : Nat) : (s.removeFleet j).mem = s.mem ∧ (s.removeFleet j).nonce m = s.nonce m ∧
    (s.removeFleet j).rd (OBJ.FLEET_VALID j) = 0 ∧ (s.removeFleet j).rd (OBJ.FLEET_OWNER j) = 0 ∧ (s.removeFleet j).rd (OBJ.FLEET_GROUP j) = 0 := by
  unfold State.removeFleet
  refine ⟨rfl, rfl, ?_, ?_, ?_⟩ <;>
    simp (disch := (simp only [Fld.key]; omega)) only [State.rd_mk, State.wrs_cons, State.wrs_nil, State.rd_wr_ne, State.rd_wr_self, Nat.zero_mod]

/-- R369: a request of the vendor, of which the nonce and the unit's ID hold, is denied where its signature fails. -/
theorem State.ownerDenied_vendor {op n : Nat} {b : List Nat} (hop : op = 1 ∨ op = 2) (hsid : le b 56 16 = 0) (huid : le b 8 16 = u.unitId)
    (hnonce : u.nonce m = some (le b 24 32)) :
    u.ownerDenied m op b n = if Config.ecdsaVerify Config.romKey (b.take n) (le b n 96) then 0 else 4 := by
  have hvendor : op = 1 ∨ op = 2 ∨ (¬(op = 3 ∨ op = 4) ∧ (0 : Nat) = 0) := by omega
  have hsame : ¬(le b 8 16 ≠ u.unitId ∨ u.nonce m ≠ some (le b 24 32)) := by rintro (h | h); exacts [h huid, h hnonce]
  rw [State.ownerDenied, hsid, State.signedBy, if_pos rfl, if_neg (by rw [if_pos hvendor]; exact not_not.mpr rfl), if_neg hsame]
  cases Config.ecdsaVerify Config.romKey (b.take n) (le b n 96) with
  | false => rfl
  | true =>
    rw [if_neg (by decide), if_neg (by rintro ⟨rfl, -⟩; omega)]
    rfl

/-- R369: a request of an owner, of which the nonce and the unit's ID hold, is accepted where the owner may sign it, its signature holds and
it carries a fleet key. -/
theorem State.ownerDenied_owner {op n : Nat} {b : List Nat} (hop : op = 3 ∨ op = 4) (huid : le b 8 16 = u.unitId)
    (hnonce : u.nonce m = some (le b 24 32)) : u.ownerDenied m op b n = 0 ↔
      ((u.ownerWith (le b 56 16) 3).isSome && u.signedBy (le b 56 16) 3 (b.take n) (le b n 96) && (op == 4 || (u.fleetKey b).isSome)) = true := by
  have hvendor : ¬(op = 1 ∨ op = 2 ∨ (¬(op = 3 ∨ op = 4) ∧ le b 56 16 = 0)) := by omega
  have hsame : ¬(le b 8 16 ≠ u.unitId ∨ u.nonce m ≠ some (le b 24 32)) := by rintro (h | h); exacts [h huid, h hnonce]
  simp only [State.ownerDenied, if_neg hvendor, if_neg hsame]
  cases hwith : u.ownerWith (le b 56 16) 3 with
  | none => simp
  | some o =>
    cases u.signedBy (le b 56 16) 3 (b.take n) (le b n 96) with
    | false => simp
    | true => rcases hop with rfl | rfl <;> cases u.fleetKey b <;> simp

theorem State.ownerReady_ownerWith (u : State) (m sid perm : Nat) : (u.ownerReady m).ownerWith sid perm = u.ownerWith sid perm := by
  obtain ⟨-, -, howners, hrd⟩ := u.ownerReady_shows m
  have hperm (o : OwnerX) : (u.ownerReady m).rd (OBJ.OWNER_A_PERM o.index) = u.rd (OBJ.OWNER_A_PERM o.index) :=
    hrd _ (by simp only [Fld.key]; omega)
  simp only [State.ownerWith, howners, hperm]

theorem le_four_lt (b : List Nat) (off : Nat) : le b off 4 < 2 ^ 32 :=
  Nat.lt_of_lt_of_le (ofBytes_lt _) (Nat.pow_le_pow_right (by decide) (List.length_take_le ..) |>.trans (by decide))

/-- R369: the fleet key that ADD_FLEET puts into the table. -/
theorem State.addFleet_shows (s : State) (b : List Nat) (m : Nat) (hn : ((s.ownerWith (le b 56 16) 3).map (·.index)).getD 0 < 16) :
    (s.ownerTake 3 b).mem = s.mem ∧ (s.ownerTake 3 b).nonce m = s.nonce m ∧ (s.ownerTake 3 b).rd (OBJ.FLEET_VALID (le b 5 1)) = 1 ∧
      (s.ownerTake 3 b).rd (OBJ.FLEET_OWNER (le b 5 1)) = ((s.ownerWith (le b 56 16) 3).map (·.index)).getD 0 ∧
      (s.ownerTake 3 b).rd (OBJ.FLEET_GROUP (le b 5 1)) = le b 72 4 := by
  have hgroup := le_four_lt b 72
  unfold State.ownerTake
  dsimp only
  rw [if_neg (by decide), if_neg (by decide), if_pos rfl]
  generalize ((s.ownerWith (le b 56 16) 3).map (·.index)).getD 0 = n at hn
  generalize le b 5 1 = i
  generalize le b 72 4 = g at hgroup
  refine ⟨rfl, rfl, ?_, ?_, ?_⟩ <;>
    simp (disch := (simp only [Fld.key]; omega)) only [State.rd_mk, State.wrs_cons, State.wrs_nil, State.rd_wr_ne, State.rd_wr_self]
  · rfl
  · exact Nat.mod_eq_of_lt hn
  · exact Nat.mod_eq_of_lt hgroup

/-- R369: a request to which Objor's reads lead, and the state in which it is judged. -/
theorem ownerClause (s u v : State) (m op i n len sid sig : Nat) (h b : List Nat) (c : Instr) (hserve : s.Serves m [1, 2])
    (hhead : s.ObjReads (s.arg m 1) 8 h v) (hlen : len = if le h 7 1 % 2 = 1 then 2176 else 224)
    (hread : v.ObjReads (s.arg m 1) (len + 96) b u) (hf : u.StoreFree) (hmagic : le b 0 4 = 0x4F525848) (hop : le b 4 1 = op) (hi : le b 5 1 = i)
    (hperm : le b 6 1 < 16) (hflags : le b 7 1 < 2) (hplain : op ≠ 1 → le b 7 1 = 0) (huid : le b 8 16 = u.unitId)
    (hnonce : u.nonce m = some (le b 24 32)) (hsid : le b 56 16 = sid) (hsig : le b len 96 = sig)
    (hc : (op, c) ∈ [(1, Instr.addOwner m false), (2, Instr.removeOwner m false), (3, Instr.addFleet m false), (4, Instr.removeFleet m false)]) :
    (op ≤ 2 → i < 16 → sid = 0 → (op = 1 → u.flag (OBJ.OWNER_A_VALID i) = false) → ∃ t, exec c s = .next t ∧ t.mem = u.mem ∧
      if Config.ecdsaVerify Config.romKey (b.take len) sig then t.rd (OBJ.MB_STATUS_STATUS m) = 0 ∧ t.nonce m = none ∧
        t.rd (OBJ.OWNER_A_VALID i) = b2n (op == 1) ∧ t.rd (OBJ.OWNER_A_PERM i) = (if op = 1 then le b 6 1 else 0)
      else t.rd (OBJ.MB_STATUS_STATUS m) = 4 ∧ t.objor = u.objor) ∧
    (3 ≤ op → i < 8 → sid ≠ 0 → n = ((u.ownerWith sid 3).map (·.index)).getD 0 → n < 16 → (op = 3 → u.flag (OBJ.FLEET_VALID i) = false) →
      ∃ t, exec c s = .next t ∧ t.mem = u.mem ∧
      if (u.ownerWith sid 3).isSome && u.signedBy sid 3 (b.take len) sig && (op == 4 || (u.fleetKey b).isSome) then
        t.rd (OBJ.MB_STATUS_STATUS m) = 0 ∧ t.nonce m = none ∧ t.rd (OBJ.FLEET_VALID i) = b2n (op == 3) ∧
        t.rd (OBJ.FLEET_OWNER i) = (if op = 3 then n else 0) ∧ t.rd (OBJ.FLEET_GROUP i) = (if op = 3 then le b 72 4 else 0)
      else t.rd (OBJ.MB_STATUS_STATUS m) = 4 ∧ t.objor = u.objor) := by
  subst hi hsid hsig
  have hm := hserve.1
  have hexec := exec_registerOwner hserve hc
  have hfour : op = 1 ∨ op = 2 ∨ op = 3 ∨ op = 4 := by
    simp only [List.mem_cons, Prod.mk.injEq, List.not_mem_nil, or_false] at hc
    omega
  have hformat (hi : le b 5 1 < if op ≤ 2 then 16 else 8) : ownerFormat op b = true := by
    simp only [ownerFormat, hmagic, hop, hperm, hflags, hi, beq_self_eq_true, Bool.true_and, Bool.and_eq_true, decide_eq_true_eq, true_and]
    exact ⟨⟨by omega, trivial⟩, by by_cases h1 : op = 1; exacts [.inl h1, .inr (hplain h1)]⟩
  refine ⟨fun hlow hi hsid hfree => ⟨_, hexec, ?_⟩, fun hhigh hi hsid hn hn16 hfree => ⟨_, hexec, ?_⟩⟩
  · have hop2 : op = 1 ∨ op = 2 := by omega
    rw [registerOwner_judged hhead hlen hread hf (hformat (by rwa [if_pos hlow])) (by
      rintro (⟨h1, -, hv⟩ | ⟨h3, -⟩)
      · rw [hfree h1] at hv; cases hv
      · omega)]
    have hden := u.ownerDenied_vendor (n := len) hop2 hsid huid hnonce
    cases hver : Config.ecdsaVerify Config.romKey (b.take len) (le b len 96) with
    | false =>
      rw [hver] at hden
      exact ownerJudged_denied hm (by rw [hden]; decide)
    | true =>
      rw [hver] at hden
      obtain ⟨hmem', hnonce', hvalid, hpermT⟩ : ((u.ownerReady m).ownerTake op b).mem = (u.ownerReady m).mem ∧
          ((u.ownerReady m).ownerTake op b).nonce m = (u.ownerReady m).nonce m ∧
          ((u.ownerReady m).ownerTake op b).rd (OBJ.OWNER_A_VALID (le b 5 1)) = b2n (op == 1) ∧
          ((u.ownerReady m).ownerTake op b).rd (OBJ.OWNER_A_PERM (le b 5 1)) = if op = 1 then le b 6 1 else 0 := by
        rcases hop2 with rfl | rfl
        · exact State.addOwner_shows _ b _ hperm
        · exact State.removeOwner_shows _ _ m
      obtain ⟨hmem, hst, hnone, hrd⟩ := ownerJudged_taken (n := len) hm hden hmem' hnonce'
      exact ⟨hmem, hst, hnone, (hrd _ (by simp only [Fld.key]; omega)).trans hvalid, (hrd _ (by simp only [Fld.key]; omega)).trans hpermT⟩
  · have hop4 : op = 3 ∨ op = 4 := by omega
    rw [registerOwner_judged hhead hlen hread hf (hformat (by rwa [if_neg (by omega)])) (by
      rintro (⟨h1, -⟩ | ⟨h3, -, hv⟩)
      · omega
      · rw [hfree h3] at hv; cases hv)]
    have hden := u.ownerDenied_owner (n := len) hop4 huid hnonce
    split
    next hok =>
      obtain ⟨hmem', hnonce', hvalid, hown, hgroup⟩ : ((u.ownerReady m).ownerTake op b).mem = (u.ownerReady m).mem ∧
          ((u.ownerReady m).ownerTake op b).nonce m = (u.ownerReady m).nonce m ∧
          ((u.ownerReady m).ownerTake op b).rd (OBJ.FLEET_VALID (le b 5 1)) = b2n (op == 3) ∧
          ((u.ownerReady m).ownerTake op b).rd (OBJ.FLEET_OWNER (le b 5 1)) = (if op = 3 then n else 0) ∧
          ((u.ownerReady m).ownerTake op b).rd (OBJ.FLEET_GROUP (le b 5 1)) = if op = 3 then le b 72 4 else 0 := by
        rcases hop4 with rfl | rfl
        · have hindex : (((u.ownerReady m).ownerWith (le b 56 16) 3).map (·.index)).getD 0 = n := by rw [State.ownerReady_ownerWith, hn]
          have hshow := State.addFleet_shows (u.ownerReady m) b m (by omega)
          rwa [hindex] at hshow
        · exact State.removeFleet_shows _ _ m
      obtain ⟨hmem, hst, hnone, hrd⟩ := ownerJudged_taken (n := len) hm (hden.mpr hok) hmem' hnonce'
      exact ⟨hmem, hst, hnone, (hrd _ (by simp only [Fld.key]; omega)).trans hvalid, (hrd _ (by simp only [Fld.key]; omega)).trans hown,
        (hrd _ (by simp only [Fld.key]; omega)).trans hgroup⟩
    next hno => exact ownerJudged_denied hm fun h0 => hno (hden.mp h0)

end

/-- Settles O35: a clause per command, each the end of its body on a mailbox that is served at once. -/
theorem objorMailboxes : Obligations.ObjorMailboxes :=
  ⟨fun s m a b bad c _ => mailboxBusyClause s m a b bad c, identityReadClause, generateClause, setCertClause, katClause, ownerClause, selfTestFailureClause⟩

end Sys2Proof.Machine

namespace Sys2Proof.Machine

/-! ## Erases and programs of Objor, and ZEROISE (R326, R334, R370) -/

section

variable {s t u : State}

/-- From `s` to `t` the Store has programmed code words and erased sectors of `X`: of the registers EVT, JSEQ and the torn bits of these sectors
alone may differ, and Objor's records, its sessions and the resets stay. -/
structure State.StoreWork (X : Nat → Prop) (s t : State) : Prop where
  rd : ∀ f : Fld, (f.key < 64 * 0x5000F8 ∨ 64 * 0x500140 ≤ f.key) → (∀ x, X x → f.key ≠ (STO.TORN_SECTORS (x / 64)).key) → t.rd f = s.rd f
  objor : t.objor = s.objor
  bonds : t.bonds = s.bonds
  rst : t.rst = s.rst

namespace State.StoreWork

variable {X : Nat → Prop}

theorem refl (s : State) : s.StoreWork X s := ⟨fun _ _ _ => rfl, rfl, rfl, rfl⟩

theorem trans (h : s.StoreWork X t) (g : t.StoreWork X u) : s.StoreWork X u :=
  ⟨fun f hf hx => (g.rd f hf hx).trans (h.rd f hf hx), g.objor.trans h.objor, g.bonds.trans h.bonds, g.rst.trans h.rst⟩

theorem foldl {α : Type} {f : State → α → State} {l : List α} (hf : ∀ t, ∀ x ∈ l, State.StoreWork X t (f t x)) (s : State) :
    s.StoreWork X (l.foldl f s) :=
  List.foldlRecOn (motive := fun t : State => s.StoreWork X t) l f (.refl s) fun t ht x hx => ht.trans (hf t x hx)

end State.StoreWork

variable {X : Nat → Prop}

theorem State.storeWork_wr (s : State) {f : Fld} (v : Nat) (hf : 64 * 0x5000F8 ≤ f.key ∧ f.key < 64 * 0x500140) : s.StoreWork X (s.wr f v) :=
  ⟨fun g hg _ => s.rd_wr_ne v (by omega), rfl, rfl, rfl⟩

theorem State.storeWork_setTorn (s : State) {x : Nat} (hx : X x) (b : Bool) : s.StoreWork X (s.setTorn x b) :=
  ⟨fun _ _ ht => s.rd_wr_ne _ (ht x hx).symm, rfl, rfl, rfl⟩

theorem State.writeWords_records (s : State) (a : Nat) (l : List Nat) :
    (s.writeWords a l).objor = s.objor ∧ (s.writeWords a l).bonds = s.bonds ∧ (s.writeWords a l).rst = s.rst := by
  induction l generalizing s a with
  | nil => exact ⟨rfl, rfl, rfl⟩
  | cons v l ih =>
    obtain ⟨m, hm⟩ := like_writeBytes s a (toBytes 9 v)
    obtain ⟨hobjor, hbonds, hrst⟩ := ih (s.writeWord a v) (a + 16)
    rw [writeWords_cons]
    refine ⟨hobjor.trans ?_, hbonds.trans ?_, hrst.trans ?_⟩ <;> simp only [State.writeWord, hm]

theorem State.storeWork_cwProgram (s : State) (k : Nat) (ws : List Nat) : s.StoreWork X (s.cwProgram k ws) := by
  obtain ⟨hrd, -⟩ := s.writeWords_frame (cwAddr k) ((List.range 4).map fun i => word72 (ws.getD i 0))
  obtain ⟨hobjor, hbonds, hrst⟩ := s.writeWords_records (cwAddr k) ((List.range 4).map fun i => word72 (ws.getD i 0))
  exact ⟨fun f _ _ => hrd f, hobjor, hbonds, hrst⟩

theorem State.storeWork_cwErase (s : State) (lo hi : Nat) : s.StoreWork X (s.cwErase lo hi) := ⟨fun _ _ _ => rfl, rfl, rfl, rfl⟩

theorem State.storeWork_cwSpoil (s : State) (k : Nat) : s.StoreWork X (s.cwSpoil k) := ⟨fun _ _ _ => rfl, rfl, rfl, rfl⟩

theorem State.storeWork_showFree (s : State) : s.StoreWork X s.showFree := s.storeWork_wr _ (by decide)

theorem State.storeWork_journal (s : State) (ws : List Nat) : s.StoreWork X (s.journal ws) :=
  (s.storeWork_cwProgram _ ws).trans (State.storeWork_showFree _)

theorem State.storeWork_rollIn (s : State) : s.StoreWork X s.rollIn :=
  (((((s.storeWork_cwErase _ _).trans (State.storeWork_wr _ _ (by decide))).trans (State.storeWork_journal _ _)).trans
    (State.StoreWork.foldl (fun t e _ => t.storeWork_journal e) _))).trans (State.storeWork_journal _ _)

theorem State.storeWork_rollNow (s : State) : s.StoreWork X s.rollNow := by
  unfold State.rollNow
  split
  · exact (s.storeWork_rollIn.trans (State.storeWork_cwErase _ _ _)).trans (State.storeWork_showFree _)
  · exact .refl s

theorem State.storeWork_eraseBegin (s : State) (x : Nat) : s.StoreWork X (s.eraseBegin x) :=
  ((s.storeWork_journal _).trans (State.storeWork_wr _ _ (by decide))).trans (State.storeWork_cwErase _ _ _)

theorem State.storeWork_eraseNow (s : State) {x : Nat} (hx : X x) : s.StoreWork X (s.eraseNow x) :=
  ((((s.storeWork_eraseBegin x).trans (State.storeWork_journal _ _)).trans (State.storeWork_setTorn _ hx _)).trans
    (State.storeWork_rollNow _)).trans (State.storeWork_wr _ _ (by decide))

theorem State.storeWork_eraseFails (s : State) {x : Nat} (hx : X x) : s.StoreWork X (s.eraseFails x) := by
  have hdrawn : s.StoreWork X s.drawn := ⟨fun _ _ _ => rfl, rfl, rfl, rfl⟩
  exact ((((hdrawn.trans (State.storeWork_eraseBegin _ x)).trans (State.storeWork_cwSpoil _ _)).trans (State.storeWork_setTorn _ hx _)).trans
    (State.storeWork_rollNow _)).trans (State.storeWork_wr _ _ (by decide))

theorem State.storeWork_programNow (s : State) (k : Nat) (ws : List Nat) : s.StoreWork X (s.programNow k ws) :=
  (s.storeWork_cwProgram k ws).trans (State.storeWork_wr _ _ (by decide))

/-! ### Execute-only windows of a cell -/

/-- R370: the step of `State.zeroWindows` at window `k`. -/
def State.zeroWindow (s : State) (n c k : Nat) : State :=
  if s.flag (CEL.XOW_VALID c k) && s.rd (CEL.XOW_MSLOT c k) == n then
    (s.clearMem (padBase c + 16 * s.rd (CEL.XOW_BASE c k)) (padBase c + 16 * (s.rd (CEL.XOW_LIMIT c k) + 1))).wrs
      [(CEL.XOW_BASE c k, 0), (CEL.XOW_LIMIT c k, 0), (CEL.XOW_VALID c k, 0), (CEL.XOW_SYS c k, 0), (CEL.XOW_MSLOT c k, 0)]
  else s

theorem State.zeroWindows_eq (s : State) (n c : Nat) : s.zeroWindows n c = (List.range 4).foldl (fun t k => t.zeroWindow n c k) s := rfl

/-- Window `k` of cell `c` is valid for slot `n`. -/
abbrev State.WindowOf (s : State) (n c k : Nat) : Prop := s.flag (CEL.XOW_VALID c k) = true ∧ s.rd (CEL.XOW_MSLOT c k) = n

theorem State.windowOf_congr {n c k : Nat} (hv : t.rd (CEL.XOW_VALID c k) = s.rd (CEL.XOW_VALID c k))
    (hm : t.rd (CEL.XOW_MSLOT c k) = s.rd (CEL.XOW_MSLOT c k)) : t.WindowOf n c k ↔ s.WindowOf n c k := by
  simp only [State.WindowOf, State.flag, hv, hm]

/-- The writes that invalidate window `k` of cell `c`. -/
theorem State.rd_zeroWindow (s : State) (n c k : Nat) :
    ¬(s.zeroWindow n c k).WindowOf n c k ∧ (s.zeroWindow n c k).objor = s.objor ∧ (s.zeroWindow n c k).bonds = s.bonds ∧
      ∀ f : Fld, f.key < 64 * 0x2000000 ∨ f.key / 64 ≠ cellBase c + 0x40 + 8 * k → (s.zeroWindow n c k).rd f = s.rd f := by
  unfold State.zeroWindow
  split
  next =>
    refine ⟨fun h => ?_, rfl, rfl, fun f hf => (State.rd_wrs_ne _ _ fun e he => ?_).trans rfl⟩
    · obtain ⟨hv, -⟩ := h
      rw [State.flag] at hv
      simp (disch := (simp only [Fld.key]; omega)) only [State.wrs_cons, State.wrs_nil, State.rd_wr_ne, State.rd_wr_self] at hv
      exact absurd hv (by decide)
    · simp only [List.mem_cons, List.not_mem_nil, or_false] at he
      rcases he with rfl | rfl | rfl | rfl | rfl <;> (simp only [Fld.key, cellBase] at hf ⊢; omega)
  next hno => exact ⟨fun h => hno (by simpa [State.WindowOf] using h), rfl, rfl, fun _ _ => rfl⟩

theorem State.windowOf_zeroWindow {n d j : Nat} (s : State) (c k : Nat) (h : ¬s.WindowOf n d j) : ¬(s.zeroWindow n c k).WindowOf n d j := by
  obtain ⟨hown, -, -, hrd⟩ := s.rd_zeroWindow n c k
  by_cases ha : cellBase d + 0x40 + 8 * j = cellBase c + 0x40 + 8 * k
  · have hv : CEL.XOW_VALID d j = CEL.XOW_VALID c k := congrArg (fun a => (⟨a, 32, 1, 0⟩ : Fld)) ha
    have hm : CEL.XOW_MSLOT d j = CEL.XOW_MSLOT c k := congrArg (fun a => (⟨a, 36, 4, 0⟩ : Fld)) ha
    rwa [State.WindowOf, hv, hm]
  · refine fun hw => h ((State.windowOf_congr (hrd _ (.inr ?_)) (hrd _ (.inr ?_))).mp hw) <;> (simp only [Fld.key]; omega)

/-- R370: no window of the cell is valid for the slot any more. -/
theorem State.zeroWindows_shows (s : State) (n c : Nat) : (∀ k, k < 4 → ¬(s.zeroWindows n c).WindowOf n c k) ∧
    (∀ d j, ¬s.WindowOf n d j → ¬(s.zeroWindows n c).WindowOf n d j) ∧ (s.zeroWindows n c).objor = s.objor ∧ (s.zeroWindows n c).bonds = s.bonds ∧
    ∀ f : Fld, f.key < 64 * 0x2000000 → (s.zeroWindows n c).rd f = s.rd f := by
  rw [State.zeroWindows_eq]
  refine ⟨fun k hk => ?_, fun d j h => ?_, ?_, ?_, fun f hf => ?_⟩
  · exact State.foldl_reaches (P := fun t : State => ¬t.WindowOf n c k) (f := fun t i => t.zeroWindow n c i) (List.mem_range.mpr hk)
      (fun t i => t.windowOf_zeroWindow c i) (fun t => (t.rd_zeroWindow n c k).1) s
  · exact List.foldlRecOn (motive := fun t : State => ¬t.WindowOf n d j) _ _ h fun t ht i _ => t.windowOf_zeroWindow c i ht
  · exact State.foldl_same State.objor fun t i _ => (t.rd_zeroWindow n c i).2.1
  · exact State.foldl_same State.bonds fun t i _ => (t.rd_zeroWindow n c i).2.2.1
  · exact State.foldl_same (fun t => t.rd f) fun t i _ => (t.rd_zeroWindow n c i).2.2.2 f (.inl hf)

/-! ### ZEROISE of a slot (R363, R370) -/

/-- R370: the erases of a slot's sections are work of the Store. -/
theorem State.storeWork_zeroSect (s : State) (ok : Bool) (x : Sect) : s.StoreWork (fun _ => True) (s.zeroSect ok x) := by
  unfold State.zeroSect
  split
  · exact ⟨fun _ _ _ => rfl, rfl, rfl, rfl⟩
  split
  · refine State.StoreWork.foldl (fun t k _ => ?_) s
    split
    · split
      · exact t.storeWork_eraseNow trivial
      · exact t.storeWork_eraseFails trivial
    · exact .refl t
  · exact .refl s

/-- R363, R370: the first part of ZEROISE: the sessions of the slot close, and its windows are zeroed. -/
def State.zeroCells (s : State) (n : Nat) : State := (List.range 256).foldl (fun t c => t.zeroWindows n c) (s.closeBonds fun b => b.slot == n)

/-- R370: the second part: the sections of the slot in depots and the Store. -/
def State.zeroSects (s : State) (xs : List Sect) (ok : Bool) : State := xs.foldl (fun t x => t.zeroSect ok x) s

/-- R370: the third part: its regions of the Store. -/
def State.zeroRegions (s : State) (n : Nat) : State := (List.range 16).foldl (fun t k =>
    if t.flag (STO.XO_VALID k) && t.rd (STO.XO_MSLOT k) == n then
      t.wrs [(STO.XO_BASE k, 0), (STO.XO_LIMIT k, 0), (STO.XO_VALID k, 0), (STO.XO_MSLOT k, 0)] else t) s

/-- R370: the fourth part: inactive planes that it has filled. -/
def State.zeroPlanes (s : State) (n : Nat) : State := (List.range 32).foldl (fun t b =>
    let p := t.inactivePlane b
    if t.rd (FAB.PLANE_STATE b p) ≠ 0 ∧ t.rd (FAB.PLANE_MSLOT b p) = n then t.wr (FAB.PLANE_STATE b p) planeBad else t) s

/-- R370: the last part: its record. -/
def State.zeroRecord (s : State) (n : Nat) : State :=
  let t := s.wrs [(OBJ.SLOT_A_STATE n, 0), (OBJ.SLOT_A_OWNER n, 0), (OBJ.SLOT_A_ENC n, 0), (OBJ.SLOT_A_GRANT_SYS n, 0),
    (OBJ.SLOT_A_MLDSA n, 0), (OBJ.SLOT_A_USES n, 0), (OBJ.SLOT_B_MANIFEST_ID n, 0)]
  { t with objor := { t.objor with slots := t.objor.slots.filter fun o => o.slot ≠ n } }

theorem State.zeroiseSlot_eq (s : State) (n : Nat) (ok : Bool) : s.zeroiseSlot n ok =
    ((((s.zeroCells n).zeroSects (((s.objor.slots.find? fun o => o.slot == n).map (·.sects)).getD []) ok).zeroRegions n).zeroPlanes n).zeroRecord n :=
  rfl

/-- What the parts of ZEROISE before the last leave alone: registers below the sessions', Objor's records, and windows that are not valid for the slot. -/
structure State.ZeroStep (n : Nat) (s t : State) : Prop where
  rd : ∀ f : Fld, f.key < 64 * 0x100600 → t.rd f = s.rd f
  windows : ∀ c k, c < 256 → k < 4 → ¬s.WindowOf n c k → ¬t.WindowOf n c k
  objor : t.objor = s.objor
  bonds : t.bonds = s.bonds

theorem State.ZeroStep.trans {n : Nat} (h : s.ZeroStep n t) (g : t.ZeroStep n u) : s.ZeroStep n u :=
  ⟨fun f hf => (g.rd f hf).trans (h.rd f hf), fun c k hc hk hw => g.windows c k hc hk (h.windows c k hc hk hw), g.objor.trans h.objor,
    g.bonds.trans h.bonds⟩

/-- Windows stand where their registers do. -/
theorem State.ZeroStep.of_rd {n : Nat} (hrd : ∀ f : Fld, f.key < 64 * 0x100600 ∨ (64 * 0x2000040 ≤ f.key ∧ f.key % 64 ≠ 0) → t.rd f = s.rd f)
    (hobjor : t.objor = s.objor) (hbonds : t.bonds = s.bonds) : s.ZeroStep n t := by
  refine ⟨fun f hf => hrd f (.inl hf), fun c k _ _ hw h => hw ((State.windowOf_congr (hrd _ (.inr ?_)) (hrd _ (.inr ?_))).mp h), hobjor, hbonds⟩ <;>
    (simp only [Fld.key, cellBase]; omega)

theorem State.zeroStep_zeroSects (s : State) (n : Nat) (xs : List Sect) (ok : Bool) : s.ZeroStep n (s.zeroSects xs ok) := by
  obtain ⟨hrd, hobjor, hbonds, -⟩ := State.StoreWork.foldl (f := fun t x => State.zeroSect t ok x) (l := xs) (fun t x _ => t.storeWork_zeroSect ok x) s
  refine .of_rd (fun f hf => hrd f (by omega) fun x _ => ?_) hobjor hbonds
  simp only [Fld.key] at hf ⊢
  omega

theorem State.zeroStep_zeroRegions (s : State) (n : Nat) : s.ZeroStep n (s.zeroRegions n) := by
  refine .of_rd (fun f hf => State.foldl_same (fun t => t.rd f) fun t k hk => ?_) (State.foldl_same State.objor fun t k _ => ?_)
    (State.foldl_same State.bonds fun t k _ => ?_) <;> split
  · have hk16 := List.mem_range.mp hk
    refine State.rd_wrs_ne _ _ fun e he => ?_
    simp only [List.mem_cons, List.not_mem_nil, or_false] at he
    rcases he with rfl | rfl | rfl | rfl <;> (simp only [Fld.key] at hf ⊢; omega)
  all_goals rfl

theorem State.zeroStep_zeroPlanes (s : State) (n : Nat) : s.ZeroStep n (s.zeroPlanes n) := by
  refine .of_rd (fun f hf => State.foldl_same (fun t => t.rd f) fun t b _ => ?_) (State.foldl_same State.objor fun t b _ => ?_)
    (State.foldl_same State.bonds fun t b _ => ?_) <;> dsimp only <;> split
  · refine State.rd_wr_ne _ _ ?_
    simp only [Fld.key, blockBase] at hf ⊢
    omega
  all_goals rfl

/-- R363, R370: what ZEROISE of slot `n` leaves. -/
structure State.Zeroised (s t : State) (n : Nat) : Prop where
  rd : ∀ f : Fld, f.key < 64 * 0x100600 → (f.key < 64 * (0x100400 + 0x10 * n) ∨ 64 * (0x100410 + 0x10 * n) ≤ f.key) → t.rd f = s.rd f
  state : t.rd (OBJ.SLOT_A_STATE n) = 0
  windows : n < 16 → ∀ c k, c < 256 → k < 4 → ¬t.WindowOf n c k
  objor : t.objor = { s.objor with slots := s.objor.slots.filter fun o => o.slot ≠ n }
  bonds : t.bonds = s.bonds.filter fun b => !(b.slot == n)

theorem State.zeroCells_shows (s : State) (n : Nat) : (∀ f : Fld, f.key < 64 * 0x100600 → (s.zeroCells n).rd f = s.rd f) ∧
    (∀ c k, c < 256 → k < 4 → ¬(s.zeroCells n).WindowOf n c k) ∧ (s.zeroCells n).objor = s.objor ∧
    (s.zeroCells n).bonds = s.bonds.filter fun b => !(b.slot == n) := by
  obtain ⟨hbonds, -, hobjor, -, -, -, hrd⟩ := s.closeBonds_frame fun b => b.slot == n
  unfold State.zeroCells
  generalize s.closeBonds (fun b => b.slot == n) = t at hbonds hobjor hrd
  refine ⟨fun f hf => ?_, fun c k hc hk => ?_, ?_, ?_⟩
  · exact (State.foldl_same (fun t => t.rd f) fun t c _ => (t.zeroWindows_shows n c).2.2.2.2 f (by omega)).trans (hrd f hf)
  · exact State.foldl_reaches (P := fun t : State => ¬t.WindowOf n c k) (f := fun t c => t.zeroWindows n c) (List.mem_range.mpr hc)
      (fun t d => (t.zeroWindows_shows n d).2.1 c k) (fun t => (t.zeroWindows_shows n c).1 k hk) t
  · exact (State.foldl_same State.objor fun t c _ => (t.zeroWindows_shows n c).2.2.1).trans hobjor
  · exact (State.foldl_same State.bonds fun t c _ => (t.zeroWindows_shows n c).2.2.2.1).trans hbonds

theorem State.zeroised_zeroiseSlot (s : State) (n : Nat) (ok : Bool) : s.Zeroised (s.zeroiseSlot n ok) n := by
  rw [State.zeroiseSlot_eq]
  obtain ⟨hrd, hwindows, hobjor, hbonds⟩ := s.zeroCells_shows n
  generalize ((s.objor.slots.find? fun o => o.slot == n).map (·.sects)).getD [] = xs
  have hstep := (((s.zeroCells n).zeroStep_zeroSects n xs ok).trans (State.zeroStep_zeroRegions _ n)).trans (State.zeroStep_zeroPlanes _ n)
  generalize s.zeroCells n = c at hrd hwindows hobjor hbonds hstep
  generalize ((c.zeroSects xs ok).zeroRegions n).zeroPlanes n = t at hstep
  obtain ⟨hrd', hwindows', hobjor', hbonds'⟩ := hstep
  have hout (f : Fld) (hf : f.key < 64 * (0x100400 + 0x10 * n) ∨ 64 * (0x100410 + 0x10 * n) ≤ f.key) : (t.zeroRecord n).rd f = t.rd f := by
    unfold State.zeroRecord
    dsimp only
    refine State.rd_wrs_ne _ _ fun e he => ?_
    simp only [List.mem_cons, List.not_mem_nil, or_false] at he
    rcases he with rfl | rfl | rfl | rfl | rfl | rfl | rfl <;> (simp only [Fld.key] at hf ⊢; omega)
  refine ⟨fun f hf hn => (hout f hn).trans ((hrd' f hf).trans (hrd f hf)), ?_, fun hn c' k hc hk h => hwindows' c' k hc hk (hwindows c' k hc hk) ?_,
    ?_, hbonds'.trans hbonds⟩
  · unfold State.zeroRecord
    simp (disch := (simp only [Fld.key]; omega)) only [State.wrs_cons, State.wrs_nil, State.rd_mk, State.rd_wr_ne, State.rd_wr_self]
    rfl
  · refine (State.windowOf_congr (hout _ (.inr ?_)) (hout _ (.inr ?_))).mp h <;> (simp only [Fld.key, cellBase]; omega)
  · show ({ t.objor with slots := t.objor.slots.filter fun o => o.slot ≠ n } : ObjorX) = _
    rw [hobjor', hobjor]

/-! ### ZEROISE and ZEROISE_ALL -/

theorem State.zeroiseRefused_iff (s : State) (n : Nat) : s.zeroiseRefused n = true ↔ s.SlotUsed n := by
  simp only [State.zeroiseRefused, Bool.or_eq_true, List.any_eq_true, List.mem_range, beq_iff_eq, Bool.and_eq_true]

theorem State.eraseWaits_free (h : s.StoreFree) (n : Nat) : s.eraseWaits n = false := by
  rw [State.eraseWaits, State.storeBusy_free h, Bool.false_and]

/-- The slots from 1 to 15, zeroised one after another. -/
def State.zeroiseSlots (s : State) (ok : Bool) : State := (List.range 15).foldl (fun u k => u.zeroiseSlot (k + 1) ok) s

theorem State.zeroiseSlots_shows (s : State) (ok : Bool) : (∀ j, 1 ≤ j → j < 16 → (s.zeroiseSlots ok).rd (OBJ.SLOT_A_STATE j) = 0) ∧
    (s.zeroiseSlots ok).objor.ident = s.objor.ident := by
  have hstep (t : State) (k : Nat) := t.zeroised_zeroiseSlot (k + 1) ok
  refine ⟨fun j hj hj16 => ?_, State.foldl_same (fun t => t.objor.ident) fun t k _ => (congrArg ObjorX.ident (hstep t k).objor).trans rfl⟩
  refine State.foldl_reaches (P := fun t : State => t.rd (OBJ.SLOT_A_STATE j) = 0) (f := fun u k => u.zeroiseSlot (k + 1) ok) (x := j - 1)
    (List.mem_range.mpr (by omega)) (fun t k h => ?_) (fun t => ?_) s
  · by_cases hkj : k + 1 = j
    · exact hkj ▸ (hstep t k).state
    · exact ((hstep t k).rd _ (by simp only [Fld.key]; omega) (by simp only [Fld.key]; omega)).trans h
  · have hzero := (hstep t (j - 1)).state
    have hj1 : j - 1 + 1 = j := Nat.sub_add_cancel hj
    generalize t.zeroiseSlot (j - 1 + 1) ok = z at hzero
    exact hj1 ▸ hzero

theorem State.rd_removeOwner_ne (s : State) (i : Nat) {f : Fld} (h : f.key < 64 * 0x100800) : (s.removeOwner i).rd f = s.rd f := by
  unfold State.removeOwner
  refine State.rd_wrs_ne _ _ fun e he => ?_
  simp only [List.mem_cons, List.not_mem_nil, or_false] at he
  rcases he with rfl | rfl | rfl | rfl <;> (simp only [Fld.key] at h ⊢; omega)

theorem State.rd_removeFleet_ne (s : State) (i : Nat) {f : Fld} (h : f.key < 64 * 0x100A00) : (s.removeFleet i).rd f = s.rd f := by
  unfold State.removeFleet
  refine State.rd_wrs_ne _ _ fun e he => ?_
  simp only [List.mem_cons, List.not_mem_nil, or_false] at he
  rcases he with rfl | rfl | rfl <;> (simp only [Fld.key] at h ⊢; omega)

theorem State.ownerValid_removeOwner {i : Nat} (s : State) (j : Nat) (h : s.rd (OBJ.OWNER_A_VALID i) = 0) :
    (s.removeOwner j).rd (OBJ.OWNER_A_VALID i) = 0 := by
  by_cases hij : j = i
  · exact hij ▸ (s.removeOwner_shows j 0).2.2.1
  · refine Eq.trans ?_ h
    unfold State.removeOwner
    refine State.rd_wrs_ne _ _ fun e he => ?_
    simp only [List.mem_cons, List.not_mem_nil, or_false] at he
    rcases he with rfl | rfl | rfl | rfl <;> (simp only [Fld.key]; omega)

theorem State.fleetValid_removeFleet {i : Nat} (s : State) (j : Nat) (h : s.rd (OBJ.FLEET_VALID i) = 0) :
    (s.removeFleet j).rd (OBJ.FLEET_VALID i) = 0 := by
  by_cases hij : j = i
  · exact hij ▸ (s.removeFleet_shows j 0).2.2.1
  · refine Eq.trans ?_ h
    unfold State.removeFleet
    refine State.rd_wrs_ne _ _ fun e he => ?_
    simp only [List.mem_cons, List.not_mem_nil, or_false] at he
    rcases he with rfl | rfl | rfl <;> (simp only [Fld.key]; omega)

theorem State.removeOwners_shows (s : State) (l : List Nat) : (∀ i ∈ l, (l.foldl State.removeOwner s).rd (OBJ.OWNER_A_VALID i) = 0) ∧
    (l.foldl State.removeOwner s).objor.ident = s.objor.ident ∧ ∀ f : Fld, f.key < 64 * 0x100800 → (l.foldl State.removeOwner s).rd f = s.rd f :=
  ⟨fun i hi => State.foldl_reaches (P := fun t : State => t.rd (OBJ.OWNER_A_VALID i) = 0) hi (fun t j => t.ownerValid_removeOwner j)
      (fun t => (t.removeOwner_shows i 0).2.2.1) s,
    State.foldl_same (fun t => t.objor.ident) fun _ _ _ => rfl, fun f hf => State.foldl_same (fun t => t.rd f) fun t j _ => t.rd_removeOwner_ne j hf⟩

theorem State.removeFleets_shows (s : State) (l : List Nat) : (∀ i ∈ l, (l.foldl State.removeFleet s).rd (OBJ.FLEET_VALID i) = 0) ∧
    (l.foldl State.removeFleet s).objor.ident = s.objor.ident ∧ ∀ f : Fld, f.key < 64 * 0x100A00 → (l.foldl State.removeFleet s).rd f = s.rd f :=
  ⟨fun i hi => State.foldl_reaches (P := fun t : State => t.rd (OBJ.FLEET_VALID i) = 0) hi (fun t j => t.fleetValid_removeFleet j)
      (fun t => (t.removeFleet_shows i 0).2.2.1) s,
    State.foldl_same (fun t => t.objor.ident) fun _ _ _ => rfl, fun f hf => State.foldl_same (fun t => t.rd f) fun t j _ => t.rd_removeFleet_ne j hf⟩

/-- R369, R370: every owner and every fleet key is removed. -/
def State.removeAll (s : State) : State := (List.range 8).foldl State.removeFleet ((List.range 16).foldl State.removeOwner s)

theorem State.removeAll_shows (s : State) : (∀ i, i < 16 → s.removeAll.rd (OBJ.OWNER_A_VALID i) = 0) ∧
    (∀ i, i < 8 → s.removeAll.rd (OBJ.FLEET_VALID i) = 0) ∧ s.removeAll.objor.ident = s.objor.ident ∧
    ∀ f : Fld, f.key < 64 * 0x100800 → s.removeAll.rd f = s.rd f := by
  have h16 (i : Nat) (hi : i < 16) := List.mem_range.mpr hi
  have h8 (i : Nat) (hi : i < 8) := List.mem_range.mpr hi
  unfold State.removeAll
  generalize List.range 16 = owners at h16
  generalize List.range 8 = fleets at h8
  obtain ⟨howner, hident, hrd⟩ := s.removeOwners_shows owners
  generalize owners.foldl State.removeOwner s = t at howner hident hrd
  obtain ⟨hfleet, hident', hrd'⟩ := t.removeFleets_shows fleets
  exact ⟨fun i hi => (hrd' _ (by simp only [Fld.key]; omega)).trans (howner i (h16 i hi)), fun i hi => hfleet i (h8 i hi), hident'.trans hident,
    fun f hf => (hrd' f (by omega)).trans (hrd f hf)⟩

/-- R334, R370: the end of ZEROISE_ALL: the generator is seeded again. -/
def State.reseeded (s : State) : State := { s.storeStep with objor := { s.storeStep.objor with seeds := s.storeStep.objor.seeds + 1, draws := 0 } }

theorem State.rd_reseeded (s : State) {f : Fld} (h : f.key < 64 * 0x500000) : s.reseeded.rd f = s.rd f := by
  unfold State.reseeded
  rw [State.rd_mk]
  exact State.rd_wr_ne _ _ (by simp only [Fld.key] at h ⊢; omega)

theorem State.reseeded_ident (s : State) : s.reseeded.objor.ident = s.objor.ident := by
  have hstep : s.storeStep.objor = s.objor := rfl
  have hobjor : s.reseeded.objor = { s.storeStep.objor with seeds := s.storeStep.objor.seeds + 1, draws := 0 } := rfl
  rw [hobjor, hstep]

/-- R370: what ZEROISE_ALL leaves before its command ends. -/
def State.zeroisedAll (s : State) (ok : Bool) : State := (s.zeroiseSlots ok).removeAll.reseeded

theorem State.zeroisedAll_shows (s : State) (ok : Bool) : (∀ j, 1 ≤ j → j < 16 → (s.zeroisedAll ok).rd (OBJ.SLOT_A_STATE j) = 0) ∧
    (∀ i, i < 16 → (s.zeroisedAll ok).rd (OBJ.OWNER_A_VALID i) = 0) ∧ (∀ i, i < 8 → (s.zeroisedAll ok).rd (OBJ.FLEET_VALID i) = 0) ∧
    (s.zeroisedAll ok).objor.ident = s.objor.ident := by
  unfold State.zeroisedAll
  obtain ⟨hslots, hident⟩ := s.zeroiseSlots_shows ok
  generalize s.zeroiseSlots ok = z at hslots hident
  obtain ⟨howner, hfleet, hident', hrd⟩ := z.removeAll_shows
  generalize z.removeAll = r at howner hfleet hident' hrd
  refine ⟨fun j hj hj16 => ?_, fun i hi => ?_, fun i hi => ?_, r.reseeded_ident.trans (hident'.trans hident)⟩
  · exact (r.rd_reseeded (by simp only [Fld.key]; omega)).trans ((hrd _ (by simp only [Fld.key]; omega)).trans (hslots j hj hj16))
  · exact (r.rd_reseeded (by simp only [Fld.key]; omega)).trans (howner i hi)
  · exact (r.rd_reseeded (by simp only [Fld.key]; omega)).trans (hfleet i hi)

variable {m n : Nat} {bad : Bool}

theorem zeroiseAll_free (hf : s.StoreFree) (hunused : ∀ j, 1 ≤ j → j < 16 → ¬s.SlotUsed j) (m : Nat) :
    zeroiseAll bad s m = ⟨if bad then 6 else 0, if bad then 0xB else 0, s.zeroisedAll (!bad)⟩ := by
  have hrefused : ((List.range 15).any fun k => s.zeroiseRefused (k + 1)) = false := by
    refine List.any_eq_false.mpr fun k hk h => ?_
    have := List.mem_range.mp hk
    exact hunused (k + 1) (by omega) (by omega) ((s.zeroiseRefused_iff _).mp h)
  rw [zeroiseAll, hrefused, State.withStore_free hf]
  rfl

theorem zeroiseClause (s : State) (m n : Nat) (bad : Bool) (h : s.Serves m [1, 2]) (hf : s.StoreFree) (hn : n = bits (s.arg m 0) 0 4) :
    (n = 0 → exec (.zeroise (m, bad)) s = exec (.zeroiseAll (m, bad)) s) ∧
    (n ≠ 0 → s.SlotUsed n → ∃ t, exec (.zeroise (m, bad)) s = .next t ∧ t.rd (OBJ.MB_STATUS_STATUS m) = 3 ∧ t.objor = s.objor ∧ t.mem = s.mem) ∧
    (n ≠ 0 → ¬ s.SlotUsed n → ∃ t, exec (.zeroise (m, bad)) s = .next t ∧
      t.rd (OBJ.MB_STATUS_STATUS m) = (if bad && s.erases n then 6 else 0) ∧ t.rd (OBJ.SLOT_A_STATE n) = 0 ∧
      (∀ b ∈ t.bonds, b.slot ≠ n) ∧ (∀ o ∈ t.objor.slots, o.slot ≠ n) ∧
      ∀ c k, c < 256 → k < 4 → ¬ (t.flag (CEL.XOW_VALID c k) = true ∧ t.rd (CEL.XOW_MSLOT c k) = n)) ∧
    ((∀ j, 1 ≤ j → j < 16 → ¬ s.SlotUsed j) → ∃ t, exec (.zeroiseAll (m, bad)) s = .next t ∧ t.rd (OBJ.MB_STATUS_STATUS m) = (if bad then 6 else 0) ∧
      (∀ j, 1 ≤ j → j < 16 → t.rd (OBJ.SLOT_A_STATE j) = 0) ∧ (∀ i, i < 16 → t.rd (OBJ.OWNER_A_VALID i) = 0) ∧
      (∀ i, i < 8 → t.rd (OBJ.FLEET_VALID i) = 0) ∧ t.objor.ident = s.objor.ident) := by
  have hm := h.1
  have hexec : exec (.zeroise (m, bad)) s = .next ((zeroise bad s m).close m 0xA) :=
    congrArg Host.Outcome.next (h.mbRow (op := 0xA) (by decide) false (zeroise bad))
  have hall : exec (.zeroiseAll (m, bad)) s = .next ((zeroiseAll bad s m).close m 0xA) :=
    congrArg Host.Outcome.next (h.mbRow (op := 0xA) (by decide) false (zeroiseAll bad))
  have hn16 : n < 16 := hn ▸ Nat.mod_lt _ (by decide)
  refine ⟨fun h0 => ?_, fun h0 hused => ⟨_, hexec, ?_⟩, fun h0 hused => ⟨_, hexec, ?_⟩, fun hunused => ⟨_, hall, ?_⟩⟩
  · rw [hexec, hall, zeroise, ← hn, if_pos h0]
  · rw [zeroise, ← hn, if_neg h0, if_pos ((s.zeroiseRefused_iff n).mpr hused)]
    obtain ⟨hst, -, -, hobjor, hmem, -⟩ := MbRes.ends_close_refused hm 0xA (st := 3) (by decide) (by decide : 0 < 256) s
    exact ⟨hst, hobjor, hmem⟩
  · rw [zeroise, ← hn, if_neg h0, if_neg fun hr => hused ((s.zeroiseRefused_iff n).mp hr), s.eraseWaits_free hf, if_neg (by decide)]
    dsimp only
    generalize (bad && s.erases n) = b
    obtain ⟨-, hstate, hwindows, hobjor, hbonds⟩ := s.zeroised_zeroiseSlot n (!b)
    generalize s.zeroiseSlot n (!b) = z at hstate hwindows hobjor hbonds
    obtain ⟨hst, -, -, hobjor', -, -, hbonds', -, -, hrd⟩ := MbRes.ends_close hm 0xA (st := if b then 6 else 0) (by cases b <;> decide)
      (d := if b then 0xB else 0) (by cases b <;> decide) z
    refine ⟨hst, ?_, ?_, ?_, fun c k hc hk hw => hwindows hn16 c k hc hk ((State.windowOf_congr (hrd _ ?_ ?_ ?_) (hrd _ ?_ ?_ ?_)).mp hw)⟩
    · exact (hrd _ (by simp only [Fld.key]; omega) (by simp only [Fld.key]; omega) (by simp only [Fld.key]; omega)).trans hstate
    · rw [hbonds', hbonds]
      simp
    · rw [hobjor', hobjor]
      simp
    all_goals simp only [Fld.key, cellBase]; omega
  · rw [zeroiseAll_free hf hunused]
    obtain ⟨hslots, howner, hfleet, hident⟩ := s.zeroisedAll_shows (!bad)
    generalize s.zeroisedAll (!bad) = z at hslots howner hfleet hident
    obtain ⟨hst, -, -, hobjor, -, -, -, -, -, hrd⟩ := MbRes.ends_close hm 0xA (st := if bad then 6 else 0) (by cases bad <;> decide)
      (d := if bad then 0xB else 0) (by cases bad <;> decide) z
    refine ⟨hst, fun j hj hj16 => ?_, fun i hi => ?_, fun i hi => ?_, (congrArg ObjorX.ident hobjor).trans hident⟩
    · exact (hrd _ (by simp only [Fld.key]; omega) (by simp only [Fld.key]; omega) (by simp only [Fld.key]; omega)).trans (hslots j hj hj16)
    · exact (hrd _ (by simp only [Fld.key]; omega) (by simp only [Fld.key]; omega) (by simp only [Fld.key]; omega)).trans (howner i hi)
    · exact (hrd _ (by simp only [Fld.key]; omega) (by simp only [Fld.key]; omega) (by simp only [Fld.key]; omega)).trans (hfleet i hi)

end

end Sys2Proof.Machine

namespace Sys2Proof.Machine

/-! ## Bonded sessions (R362, R363) -/

section

variable {s : State} {m l n k : Nat} {o : SlotX}

/-- Of 32 sessions one is free while fewer are open. -/
theorem exists_free_bond {bonds : List BondSession} (h : bonds.length < 32) :
    ∃ j, (List.range 32).find? (fun i => !(bonds.any fun b => b.k == i)) = some j ∧ j < 32 ∧ ∀ b ∈ bonds, b.k ≠ j := by
  cases hfind : (List.range 32).find? fun i => !(bonds.any fun b => b.k == i) with
  | none =>
    have hall : List.range 32 ⊆ bonds.map (·.k) := fun i hi => by
      have hused := List.find?_eq_none.mp hfind i hi
      simpa using hused
    have hle := (List.nodup_range.subperm hall).length_le
    rw [List.length_range, List.length_map] at hle
    omega
  | some j =>
    have hfree := List.find?_some hfind
    exact ⟨j, rfl, List.mem_range.mp (List.mem_of_find?_eq_some hfind), by simpa using hfree⟩

/-- R362: the state in which session `b` has been opened. -/
def State.bondOpened (s : State) (b : BondSession) (m : Nat) : State :=
  State.setRes { s.wrs [(OBJ.BOND_OPEN b.k, 1), (OBJ.BOND_LEAD b.k, b.lead), (OBJ.BOND_SLOT b.k, b.slot), (OBJ.BOND_SECTION b.k, b.section_),
    (OBJ.BOND_BITS b.k, b.len)] with bonds := s.bonds ++ [b] } m 0 b.k

theorem State.bondOpened_shows (s : State) {b : BondSession} (hm : m < 2) (hk : b.k < 32) (hl : b.lead < 256) :
    (s.bondOpened b m).rd (OBJ.MB_RES_RES m 0) = b.k ∧ (s.bondOpened b m).rd (OBJ.BOND_OPEN b.k) = 1 ∧
      (s.bondOpened b m).rd (OBJ.BOND_LEAD b.k) = b.lead := by
  unfold State.bondOpened State.setRes
  refine ⟨?_, ?_, ?_⟩ <;>
    simp (disch := (simp only [Fld.key]; omega)) only [State.wrs_cons, State.wrs_nil, State.rd_mk, State.rd_wr_ne, State.rd_wr_self]
  · exact Nat.mod_eq_of_lt (hk.trans (by decide))
  · rfl
  · exact Nat.mod_eq_of_lt hl

section

variable (hl : bits (s.arg m 0) 0 8 = l) (hn : bits (s.arg m 0) 8 4 = n) (hk : bits (s.arg m 0) 12 10 = k) (hfew : s.bonds.length < 32)
  (hlead : s.isLead l = true) (hnone : ∀ b ∈ s.bonds, b.lead ≠ l) (hslot : s.rd (OBJ.SLOT_A_STATE n) = 2)
  (hfind : s.objor.slots.find? (fun o => o.slot == n) = some o)

include hl hn hk hfew hfind

/-- R362: no BOND section. -/
theorem openBonded_missing (hsect : o.bonds.find? (fun e => e.1 == k) = none) : openBonded s m = ⟨3, 0, s⟩ := by
  unfold openBonded
  simp [hl, hn, hk, hfind, hsect, hfew]

include hlead hnone hslot

/-- R362, R340: a section whose key unwraps, or does not. -/
theorem openBonded_permitted {d : Nat × List Nat} (hsect : o.bonds.find? (fun e => e.1 == k) = some d)
    (hsite : bitOf o.siteMask (s.siteOf l) = true) (huses : o.useLimit = 0 ∨ s.rd (OBJ.SLOT_A_USES n) < o.useLimit) :
    if s.contentKey o.head = none then openBonded s m = ⟨6, 6, s⟩
    else ∃ b, openBonded s m = ⟨0, 0, s.bondOpened b m⟩ ∧ b.lead = l ∧ b.slot = n ∧ b.section_ = k ∧
      b.len = bits (o.sects.getD k ⟨0, 0, 0, 0, 0, 0, 0, 0⟩).target 0 17 ∧ b.k < 32 ∧ ∀ c ∈ s.bonds, c.k ≠ b.k := by
  obtain ⟨j, hj, hj32, hfree⟩ := exists_free_bond hfew
  have hany : (s.bonds.any fun b => b.lead == l) = false := by simpa using hnone
  have hmay : (o.useLimit == 0 || decide (s.rd (OBJ.SLOT_A_USES n) < o.useLimit)) = true := by simpa using huses
  unfold openBonded
  simp only [hl, hn, hk, hfind, hsect, hlead, hany, hslot, hsite, hmay, hj, Option.bind_some, Option.map_some, Option.isNone_some, Option.any_some,
    Option.getD_some, if_neg (Nat.not_le.mpr hfew)]
  cases hkey : s.contentKey o.head with
  | none => rfl
  | some key => exact ⟨⟨j, l, n, k, _, _⟩, rfl, rfl, rfl, rfl, rfl, hj32, hfree⟩

end

theorem openBondedClause (s : State) (m l n k len : Nat) (o : SlotX) (d : Nat × List Nat) (h : s.Serves m [2]) (hl : bits (s.arg m 0) 0 8 = l)
    (hn : bits (s.arg m 0) 8 4 = n) (hk : bits (s.arg m 0) 12 10 = k) (hfew : s.bonds.length < 32) (hlead : s.isLead l = true)
    (hnone : ∀ b ∈ s.bonds, b.lead ≠ l) (hslot : s.rd (OBJ.SLOT_A_STATE n) = 2)
    (hfind : s.objor.slots.find? (fun o => o.slot == n) = some o) :
    (o.bonds.find? (fun e => e.1 == k) = none → ∃ t, exec (.openBonded m) s = .next t ∧ t.rd (OBJ.MB_STATUS_STATUS m) = 3 ∧ t.bonds = s.bonds) ∧
    (o.bonds.find? (fun e => e.1 == k) = some d → bitOf o.siteMask (s.siteOf l) = true → o.useLimit = 0 ∨ s.rd (OBJ.SLOT_A_USES n) < o.useLimit →
      len = bits (o.sects.getD k ⟨0, 0, 0, 0, 0, 0, 0, 0⟩).target 0 17 → ∃ t, exec (.openBonded m) s = .next t ∧ t.mem = s.mem ∧
      if s.contentKey o.head = none then t.rd (OBJ.MB_STATUS_STATUS m) = 6 ∧ t.bonds = s.bonds
      else ∃ b, t.bonds = s.bonds ++ [b] ∧ b.lead = l ∧ b.slot = n ∧ b.section_ = k ∧ b.len = len ∧ b.k < 32 ∧
        t.rd (OBJ.MB_RES_RES m 0) = b.k ∧ t.rd (OBJ.MB_STATUS_STATUS m) = 0 ∧ (∀ c ∈ s.bonds, c.k ≠ b.k) ∧
        t.rd (OBJ.BOND_OPEN b.k) = 1 ∧ t.rd (OBJ.BOND_LEAD b.k) = l) := by
  have hm := h.1
  have hexec : exec (.openBonded m) s = .next ((openBonded s m).close m 3) :=
    congrArg Host.Outcome.next (h.mbRow (op := 3) (by decide) true openBonded)
  refine ⟨fun hsect => ⟨_, hexec, ?_⟩, fun hsect hsite huses hlen => ⟨_, hexec, ?_⟩⟩
  · rw [openBonded_missing hl hn hk hfew hfind hsect]
    obtain ⟨hst, -, -, -, -, -, hbonds, -⟩ := MbRes.ends_close_refused hm 3 (st := 3) (by decide) (by decide : 0 < 256) s
    exact ⟨hst, hbonds⟩
  · have hbody := openBonded_permitted hl hn hk hfew hlead hnone hslot hfind hsect hsite huses
    split at hbody
    next hkey =>
      rw [if_pos hkey, hbody]
      obtain ⟨hst, -, -, -, hmem, -, hbonds, -⟩ := MbRes.ends_close hm 3 (.inr rfl) (by decide : 6 < 256) s
      exact ⟨hmem, hst, hbonds⟩
    next hkey =>
      obtain ⟨b, hbody, rfl, hbn, hbk, hblen, hb32, hfree⟩ := hbody
      have hl256 : b.lead < 256 := hl ▸ Nat.mod_lt _ (by decide)
      obtain ⟨hres, hopen, hleadr⟩ := s.bondOpened_shows hm hb32 hl256
      have hbmem : (s.bondOpened b m).mem = s.mem ∧ (s.bondOpened b m).bonds = s.bonds ++ [b] := ⟨rfl, rfl⟩
      rw [if_neg hkey, hbody]
      generalize s.bondOpened b m = z at hres hopen hleadr hbmem
      obtain ⟨hst, -, -, -, hmem, -, hbonds, -, -, hrd⟩ := MbRes.ends_close hm 3 (.inl rfl) (by decide : 0 < 256) z
      refine ⟨hmem.trans hbmem.1, b, hbonds.trans hbmem.2, rfl, hbn, hbk, hblen.trans hlen.symm, hb32, ?_, hst, hfree, ?_, ?_⟩
      · exact (hrd _ (by simp only [Fld.key]; omega) (by simp only [Fld.key]; omega) (by simp only [Fld.key]; omega)).trans hres
      · exact (hrd _ (by simp only [Fld.key]; omega) (by simp only [Fld.key]; omega) (by simp only [Fld.key]; omega)).trans hopen
      · exact (hrd _ (by simp only [Fld.key]; omega) (by simp only [Fld.key]; omega) (by simp only [Fld.key]; omega)).trans hleadr

theorem closeBondedClause (s : State) (m l : Nat) (h : s.Serves m [1, 2]) (hl : bits (s.arg m 0) 0 8 = l) :
    ∃ t, exec (.closeBonded m) s = .next t ∧ t.mem = s.mem ∧ t.bonds = s.bonds.filter (fun b => !(b.lead == l)) ∧
      t.rd (OBJ.MB_STATUS_STATUS m) = if s.bonds.any (fun b => b.lead == l) then 0 else 3 := by
  have hm := h.1
  refine ⟨_, congrArg Host.Outcome.next (h.mbRow (op := 4) (by decide) true closeBonded), ?_⟩
  simp only [closeBonded, hl]
  cases hany : s.bonds.any fun b => b.lead == l with
  | false =>
    obtain ⟨hst, -, -, -, hmem, -, hbonds, -⟩ := MbRes.ends_close_refused hm 4 (st := 3) (by decide) (by decide : 0 < 256) s
    refine ⟨hmem, hbonds.trans (List.filter_eq_self.mpr fun b hb => ?_).symm, hst⟩
    simpa using List.any_eq_false.mp hany b hb
  | true =>
    obtain ⟨hcbonds, hcmem, -⟩ := s.closeBonds_frame fun b => b.lead == l
    obtain ⟨hst, -, -, -, hmem, -, hbonds, -⟩ := MbRes.ends_close hm 4 (.inl rfl) (by decide : 0 < 256) (s.closeBonds fun b => b.lead == l)
    exact ⟨hmem.trans hcmem, hbonds.trans hcbonds, hst⟩

end

end Sys2Proof.Machine

namespace Sys2Proof.Machine

/-! ## Manifests (R353 to R360) -/

section

variable {s u v : State} {m n a : Nat} {b h : List Nat} {r : InstallRun}

/-! ### INSTALL_MANIFEST (R357) -/

theorem State.manifestDenied_lt (s : State) (b : List Nat) : s.manifestDenied b < 256 := by
  unfold State.manifestDenied
  dsimp only
  cases s.ownerWith (mfOwner b) 0 <;> dsimp only <;> split_ifs <;> decide

/-- R357: the content of every section keeps its format. -/
def State.contentsOk (s : State) (b : List Nat) : Bool :=
  (mfSects b).zipIdx.all fun e => e.1.contentOk (e.1.content b ((s.contentKey b).getD 0) e.2)

/-- R357: a manifest that is read, whose targets are permitted, is denied, is refused or begins its install. -/
theorem installManifest_read (hn : bits (s.arg m 0) 0 4 = n) (ha : s.arg m 1 = a) (hfree : s.rd (OBJ.SLOT_A_STATE n) = 0) (hn0 : n ≠ 0)
    (halign : a % 16 = 0) (hslot : (targetOf a).slot = 16) (hhead : s.ManifestReads a 108 h v) (hread : v.ManifestReads a (mfLen h) b u)
    (htargets : ∀ x ∈ mfSects b, u.targetBad n x = false) : installManifest s m =
      if u.manifestDenied b ≠ 0 then ⟨4, u.manifestDenied b, u⟩
      else if formatOk b && u.contentsOk b then ⟨runsOn, 0, u.startInstall m n a b⟩ else ⟨2, 1, u⟩ := by
  have hnone : ((mfSects b).any (u.targetBad n)) = false := List.any_eq_false.mpr fun x hx => by simp [htargets x hx]
  unfold installManifest
  simp only [hn, ha, hfree, halign, hslot, hhead.withManifest, hread.withManifest, hnone, hn0, ne_eq, not_true_eq_false, or_self, if_false,
    false_or, Bool.false_eq_true]
  rw [show ((mfSects b).zipIdx.all fun e => e.1.contentOk (e.1.content b ((u.contentKey b).getD 0) e.2)) = u.contentsOk b from rfl]
  cases formatOk b <;> cases u.contentsOk b <;> simp

/-- R359: what the beginning of an install without images shows. -/
theorem State.startInstall_shows (s : State) (hm : m < 2) (hn : n < 16) (a : Nat) (himages : ∀ x ∈ mfSects b, x.type ≠ 5) :
    (s.startInstall m n a b).mem = s.mem ∧ (s.startInstall m n a b).rd (OBJ.SLOT_A_STATE n) = 1 ∧
      (s.startInstall m n a b).objor.install = some ⟨m, n, a, b⟩ ∧ (s.startInstall m n a b).rd (OBJ.MB_STATUS_PEND m) = 1 ∧
      (s.startInstall m n a b).rd (OBJ.SLOT_B_MANIFEST_ID n) = mfId b % 2 ^ 64 := by
  have hnone : (mfSects b).filter (fun y => y.type == 5) = [] := List.filter_eq_nil_iff.mpr fun x hx => by simpa using himages x hx
  unfold State.startInstall
  dsimp only
  rw [hnone, List.foldl_nil]
  refine ⟨rfl, ?_, rfl, ?_, ?_⟩ <;>
    simp (disch := (simp only [Fld.key]; omega)) only [State.wrs_cons, State.wrs_nil, State.rd_mk, State.rd_wr_ne, State.rd_wr_self]
  · rfl
  · rfl

theorem installManifestClause (s u v : State) (m n a : Nat) (h b : List Nat) (hs : s.Serves m [1, 2]) (hn : n = bits (s.arg m 0) 0 4)
    (ha : a = s.arg m 1) :
    (s.rd (OBJ.SLOT_A_STATE n) ≠ 0 → ∃ t, exec (.installManifest m) s = .next t ∧ t.rd (OBJ.MB_STATUS_STATUS m) = 3 ∧ t.objor = s.objor) ∧
    (s.rd (OBJ.SLOT_A_STATE n) = 0 → n ≠ 0 → a % 16 = 0 → (targetOf a).slot = 16 → s.ManifestReads a 108 h v →
      v.ManifestReads a (mfLen h) b u → (∀ x ∈ mfSects b, x.type ≠ 5 ∧ u.targetBad n x = false) →
      ∃ t, exec (.installManifest m) s = .next t ∧ t.mem = u.mem ∧
        if u.manifestDenied b ≠ 0 then
          t.rd (OBJ.MB_STATUS_STATUS m) = 4 ∧ t.rd (OBJ.MB_STATUS_DETAIL m) = u.manifestDenied b ∧ t.objor = u.objor
        else if formatOk b && ((mfSects b).zipIdx.all fun e => e.1.contentOk (e.1.content b ((u.contentKey b).getD 0) e.2)) then t.rd (OBJ.SLOT_A_STATE n) = 1 ∧ t.objor.install = some ⟨m, n, a, b⟩ ∧
          t.rd (OBJ.MB_STATUS_PEND m) = 1 ∧ t.rd (OBJ.SLOT_B_MANIFEST_ID n) = mfId b % 2 ^ 64
        else t.rd (OBJ.MB_STATUS_STATUS m) = 2 ∧ t.objor = u.objor) := by
  have hm := hs.1
  have hexec : exec (.installManifest m) s = .next ((installManifest s m).close m 2) :=
    congrArg Host.Outcome.next (hs.mbRow (op := 2) (by decide) false installManifest)
  refine ⟨fun hused => ⟨_, hexec, ?_⟩, fun hfree hn0 halign hslot hhead hread hsects => ⟨_, hexec, ?_⟩⟩
  · rw [installManifest, ← hn, if_pos hused]
    obtain ⟨hst, -, -, hobjor, -⟩ := MbRes.ends_close_refused hm 2 (st := 3) (by decide) (by decide : 0 < 256) s
    exact ⟨hst, hobjor⟩
  · rw [installManifest_read hn.symm ha.symm hfree hn0 halign hslot hhead hread fun x hx => (hsects x hx).2]
    change _ ∧ if _ then _ else if (formatOk b && u.contentsOk b) = true then _ else _
    split
    · obtain ⟨hst, hd, -, hobjor, hmem, -⟩ := MbRes.ends_close_refused hm 2 (st := 4) (by decide) (u.manifestDenied_lt b) u
      exact ⟨hmem, hst, hd, hobjor⟩
    split
    · exact u.startInstall_shows hm (hn ▸ Nat.mod_lt _ (by decide)) a fun x hx => (hsects x hx).1
    · obtain ⟨hst, -, -, hobjor, hmem, -⟩ := MbRes.ends_close_refused hm 2 (st := 2) (by decide) (by decide : 1 < 256) u
      exact ⟨hmem, hst, hobjor⟩

/-! ### INSTALL_DONE (R359) -/

/-- R359: an install without images ends when its command comes. -/
theorem exec_installDone (hrun : s.objor.install = some r) (hqueue : s.objor.queue = []) (hseal : s.objor.sealRun = none) (hfrozen : s.frozen = false)
    (himages : ∀ x ∈ mfSects r.bytes, x.type ≠ 5) : exec (.installDone 0 []) s = .next (s.installEnd r 0) := by
  have hidle : s.imagesBusy r = false := List.any_eq_false.mpr fun x hx => by simp [himages x hx]
  show execInstallDone 0 [] s = _
  rw [execInstallDone, hrun]
  simp only [hidle, hseal, hfrozen, hqueue, List.length_nil, State.runQueued, Option.isSome_none, Bool.or_self, Bool.false_eq_true, if_false]

/-- R359: what pass 2 finds before its writes. -/
theorem State.installEnd_read (hf : s.StoreFree) (hread : s.ManifestReads r.addr r.bytes.length b u) : s.installEnd r 0 =
    if u.installWhy r (some b) false ≠ 0 then
      (if u.installWhy r (some b) false = 0xB then u.installSpoil r.bytes ((u.contentKey r.bytes).getD 0) else u).installUndo r
        (u.installWhy r (some b) false) true
    else match u.putAll r.slot (bitOf (mfPolicy r.bytes) 0)
        ((mfSects r.bytes).zipIdx.map fun e => (e.1, e.1.content r.bytes ((u.contentKey r.bytes).getD 0) e.2)) with
      | .error _ => u
      | .ok (false, v) => v.installUndo r 9 true
      | .ok (true, v) =>
        (((({ v with objor := { v.objor with install := none } }).wr (OBJ.SLOT_A_STATE r.slot) 2).setRes r.mb 0
          r.bytes.length).setRes r.mb 1 (mfId r.bytes)).mbDone r.mb 2 0 0 := by
  obtain ⟨ws, hws, rfl⟩ := hread
  rw [State.installEnd, State.storeBusy_free hf, hws]
  rfl

/-- R359: an install that fails leaves the slot FREE. -/
theorem State.installUndo_shows (s : State) (hmb : r.mb < 2) (hslot : r.slot < 16) (ok : Bool) :
    (s.installUndo r 0xC ok).rd (OBJ.MB_STATUS_STATUS r.mb) = 6 ∧ (s.installUndo r 0xC ok).rd (OBJ.MB_STATUS_DETAIL r.mb) = 0xC ∧
      (s.installUndo r 0xC ok).rd (OBJ.SLOT_A_STATE r.slot) = 0 ∧ (s.installUndo r 0xC ok).objor.install = none := by
  obtain ⟨-, hstate, -, hobjor, -⟩ := ({ s with objor := { s.objor with install := none } } : State).zeroised_zeroiseSlot r.slot ok
  unfold State.installUndo
  generalize State.zeroiseSlot { s with objor := { s.objor with install := none } } r.slot ok = z at hstate hobjor
  obtain ⟨hst, hd, -, hobjor', -, -, -, -, -, hrd⟩ := State.ends_mbDone hmb 2 (st := 6) (d := 0xC) (by decide) (by decide) z
  refine ⟨hst, hd, ?_, ?_⟩
  · exact (hrd _ (by simp only [Fld.key]; omega) (by simp only [Fld.key]; omega) (by simp only [Fld.key]; omega)).trans hstate
  · rw [hobjor', hobjor]

/-- R359: an install that succeeds. -/
theorem State.installed_shows (s : State) (hmb : r.mb < 2) (hslot : r.slot < 16) (len id : Nat) :
    let t := (((({ s with objor := { s.objor with install := none } }).wr (OBJ.SLOT_A_STATE r.slot) 2).setRes r.mb 0 len).setRes r.mb 1 id).mbDone
      r.mb 2 0 0
    t.rd (OBJ.MB_STATUS_STATUS r.mb) = 0 ∧ t.rd (OBJ.MB_STATUS_PEND r.mb) = 0 ∧ t.rd (OBJ.SLOT_A_STATE r.slot) = 2 ∧
      t.rd (OBJ.MB_RES_RES r.mb 1) = id % 2 ^ 64 ∧ t.objor.install = none ∧ t.mem = s.mem := by
  generalize hz : ((({ s with objor := { s.objor with install := none } }).wr (OBJ.SLOT_A_STATE r.slot) 2).setRes r.mb 0 len).setRes r.mb 1 id = z
  have hinstall : z.objor.install = none ∧ z.mem = s.mem := by rw [← hz]; exact ⟨rfl, rfl⟩
  have hstate : z.rd (OBJ.SLOT_A_STATE r.slot) = 2 := by
    rw [← hz]
    unfold State.setRes
    simp (disch := (simp only [Fld.key]; omega)) only [State.rd_wr_ne, State.rd_wr_self]
    rfl
  have hres : z.rd (OBJ.MB_RES_RES r.mb 1) = id % 2 ^ 64 := by
    rw [← hz]
    exact State.rd_wr_self ..
  obtain ⟨hst, -, hpend, hobjor, hmem, -, -, -, -, hrd⟩ := State.ends_mbDone hmb 2 (st := 0) (d := 0) (by decide) (by decide) z
  refine ⟨hst, hpend, ?_, ?_, (congrArg ObjorX.install hobjor).trans hinstall.1, hmem.trans hinstall.2⟩
  · exact (hrd _ (by simp only [Fld.key]; omega) (by simp only [Fld.key]; omega) (by simp only [Fld.key]; omega)).trans hstate
  · exact (hrd _ (by simp only [Fld.key]; omega) (by simp only [Fld.key]; omega) (by simp only [Fld.key]; omega)).trans hres

theorem installDoneClause (s u v : State) (r : InstallRun) (b : List Nat) (hrun : s.objor.install = some r) (hmb : r.mb < 2) (hslot : r.slot < 16)
    (hqueue : s.objor.queue = []) (hseal : s.objor.sealRun = none) (hfrozen : s.frozen = false) (hf : s.StoreFree)
    (himages : ∀ x ∈ mfSects r.bytes, x.type ≠ 5) (hread : s.ManifestReads r.addr r.bytes.length b u) :
    (b ≠ r.bytes → ∃ t, exec (.installDone 0 []) s = .next t ∧ t.rd (OBJ.MB_STATUS_STATUS r.mb) = 6 ∧ t.rd (OBJ.MB_STATUS_DETAIL r.mb) = 0xC ∧
      t.rd (OBJ.SLOT_A_STATE r.slot) = 0 ∧ t.objor.install = none) ∧
    (b = r.bytes → u.flag OBJ.STATUS_ERROR = false → (∀ x ∈ mfSects b, u.targetBad r.slot x = false) →
      u.putAll r.slot (bitOf (mfPolicy b) 0) ((mfSects b).zipIdx.map fun e => (e.1, e.1.content b ((u.contentKey b).getD 0) e.2)) =
        .ok (true, v) → ∃ t, exec (.installDone 0 []) s = .next t ∧ t.rd (OBJ.MB_STATUS_STATUS r.mb) = 0 ∧
        t.rd (OBJ.MB_STATUS_PEND r.mb) = 0 ∧ t.rd (OBJ.SLOT_A_STATE r.slot) = 2 ∧ t.rd (OBJ.MB_RES_RES r.mb 1) = mfId b % 2 ^ 64 ∧
        t.objor.install = none ∧ t.mem = v.mem) := by
  have hexec := exec_installDone hrun hqueue hseal hfrozen himages
  have hend := State.installEnd_read hf hread
  refine ⟨fun hne => ⟨_, hexec, ?_⟩, fun hsame herror htargets hput => ⟨_, hexec, ?_⟩⟩
  · have hwhy : u.installWhy r (some b) false = 0xC := by
      unfold State.installWhy
      exact if_pos (by simp [hne])
    rw [hend, hwhy, if_pos (by decide), if_neg (by decide)]
    exact u.installUndo_shows hmb hslot true
  · subst hsame
    have hany : ((mfSects r.bytes).any fun x => x.type != 5 && u.targetBad r.slot x) = false :=
      List.any_eq_false.mpr fun x hx => by simp [htargets x hx]
    have hwriters : ((mfSects r.bytes).any fun x => x.type == 5 && x.blocks.any fun k => u.rd (FAB.PW_STATUS_RESULT k) != 1) = false :=
      List.any_eq_false.mpr fun x hx => by simp [himages x hx]
    have hwhy : u.installWhy r (some r.bytes) false = 0 := by
      simp [State.installWhy, herror, hany, hwriters]
    rw [hend, hwhy, if_neg (by decide), hput]
    exact v.installed_shows hmb hslot _ _

end

end Sys2Proof.Machine

namespace Sys2Proof.Machine

/-! ## Seals (R365 to R368) -/

section

variable {s u : State} {m l : Nat} {x : SealRun}

/-! ### ISSUE_SEAL (R365) -/

/-- R365: the state in which a seal has been asked for. -/
def State.sealBegun (s : State) (m l : Nat) : State := (s.startDigest l).wrs [(OBJ.MB_STATUS_PEND m, 1), (OBJ.MB_STATUS_OP m, 5), (OBJ.STATUS_BUSY, 1)]

theorem State.startDigest_shows (s : State) (l : Nat) : (s.startDigest l).objor = s.objor ∧ (s.startDigest l).mem = s.mem ∧
    (s.startDigest l).rd (LDG.STATUS_DIG_BUSY (regionOf l)) = 1 := by
  unfold State.startDigest
  dsimp only
  split
  next hbusy => exact ⟨rfl, rfl, State.flag_eq_true.mp hbusy⟩
  next => exact ⟨rfl, rfl, State.rd_wr_self ..⟩

theorem State.sealBegun_shows (s : State) (hm : m < 2) (l : Nat) : (s.sealBegun m l).objor = s.objor ∧ (s.sealBegun m l).mem = s.mem ∧
    (s.sealBegun m l).rd (LDG.STATUS_DIG_BUSY (regionOf l)) = 1 ∧ (s.sealBegun m l).rd (OBJ.MB_STATUS_PEND m) = 1 := by
  obtain ⟨hobjor, hmem, hbusy⟩ := s.startDigest_shows l
  unfold State.sealBegun
  generalize s.startDigest l = t at hobjor hmem hbusy
  refine ⟨hobjor, hmem, ?_, ?_⟩ <;>
    simp (disch := (simp only [Fld.key, regionBase]; omega)) only [State.wrs_cons, State.wrs_nil, State.rd_wr_ne, State.rd_wr_self]
  · exact hbusy
  · rfl

theorem issueSealClause (s : State) (m l : Nat) (h : s.Serves m [1, 2]) (hl : l = bits (s.arg m 0) 0 8) :
    (s.cvState l ≠ stHalted → ∃ t, exec (.issueSeal m) s = .next t ∧ t.rd (OBJ.MB_STATUS_STATUS m) = 3 ∧ t.objor = s.objor ∧ t.mem = s.mem) ∧
    (s.objor.ident ≠ none → s.isLead l = true → s.cvState l = stHalted → s.flag (LDG.CVST_DRAIN_DONE (regionOf l) (l % 64)) = true →
      s.flag (LDG.CVST_ALLOC_BUSY (regionOf l) (l % 64)) = false → (s.run l).sealed = false → (s.run l).provSlot % 16 = 0 → bufOk (s.arg m 1) 272 = true →
      ∃ t x, exec (.issueSeal m) s = .next t ∧ t.objor = { s.objor with sealRun := some x } ∧ x.mb = m ∧ x.lead = l ∧ x.buf = s.arg m 1 ∧ x.digest = none ∧ x.left = false ∧
        t.rd (LDG.STATUS_DIG_BUSY (regionOf l)) = 1 ∧ t.rd (OBJ.MB_STATUS_PEND m) = 1 ∧ t.mem = s.mem) := by
  have hm := h.1
  have hexec : exec (.issueSeal m) s = .next ((issueSeal s m).close m 5) :=
    congrArg Host.Outcome.next (h.mbRow (op := 5) (by decide) true issueSeal)
  refine ⟨fun hrun => ⟨_, hexec, ?_⟩, fun hident hlead hhalted hdrained halloc hunsealed hprov hbuf => ?_⟩
  · have hbody : issueSeal s m = ⟨3, 0, s⟩ := by
      unfold issueSeal
      simp [← hl, hrun]
    obtain ⟨hst, -, -, hobjor, hmem, -⟩ := MbRes.ends_close_refused hm 5 (st := 3) (by decide) (by decide : 0 < 256) s
    rw [hbody]
    exact ⟨hst, hobjor, hmem⟩
  · have hbody : ∃ x : SealRun, issueSeal s m =
        ⟨runsOn, 0, { s.sealBegun m l with objor := { (s.sealBegun m l).objor with sealRun := some x } }⟩ ∧ x.mb = m ∧ x.lead = l ∧
          x.buf = s.arg m 1 ∧ x.digest = none ∧ x.left = false := by
      have hident' : s.objor.ident.isNone = false := by
        obtain ⟨k, hk⟩ := Option.ne_none_iff_exists'.mp hident
        rw [hk, Option.isNone_some]
      unfold issueSeal
      simp only [← hl, hident', hlead, hhalted, hdrained, halloc, hunsealed, hprov, hbuf]
      exact ⟨⟨m, l, s.arg m 1, _, _, none, false⟩, rfl, rfl, rfl, rfl, rfl, rfl⟩
    obtain ⟨x, hbody, hx⟩ := hbody
    obtain ⟨hxm, hxl, hxb, hxd, hxf⟩ := hx
    obtain ⟨hobjor, hmem, hbusy, hpend⟩ := s.sealBegun_shows hm l
    rw [hbody] at hexec
    generalize s.sealBegun m l = t at hobjor hmem hbusy hpend hexec
    refine ⟨_, x, hexec, ?_, hxm, hxl, hxb, hxd, hxf, hbusy, hpend, hmem⟩
    exact congrArg (fun o : ObjorX => { o with sealRun := some x }) hobjor

/-! ### SEAL_WRITE (R365 to R368) -/

/-- R365: a seal whose digest is ready is signed when its command comes. -/
theorem exec_sealWrite (hrun : s.objor.sealRun = some x) (hdigested : x.digested = true) {d : Nat × Nat} (hd : x.digest = some d)
    (hfrozen : s.frozen = false) (hqueue : s.objor.queue = []) : exec (.sealWrite false []) s = .next (s.sealEnd x false) := by
  show execSealWrite false [] s = _
  rw [execSealWrite, hrun]
  simp only [hdigested, hd, hfrozen, hqueue, List.length_nil, State.runQueued, Option.isNone_some, Bool.not_true, Bool.false_eq_true, if_false]

/-- The state in which no seal runs. -/
def State.sealLeft (s : State) : State := { s with objor := { s.objor with sealRun := none } }

/-- R365 to R368: what the end of a seal judges, with no Store step that fails. -/
theorem State.sealEnd_eq {d : Nat × Nat} (hd : x.digest = some d) {body : List Nat} (hbody : body = s.sealBody x.lead x.context d) {sig : Nat}
    (hsig : sig = Config.ecdsaSign (s.objor.ident.getD 0) body) : s.sealEnd x false =
      if s.cvState x.lead ≠ stHalted ∨ x.left = true then s.sealLeft.mbDone x.mb 5 6 0xF
      else if !Config.ecdsaVerify (Config.publicKey (s.objor.ident.getD 0)) body sig then s.sealLeft.objorError.mbDone x.mb 5 6 0
      else if s.storeBusy then s
      else match (s.sealLeft.logForSeal ((s.run x.lead).provSlot % 16)).ownPut x.buf 272 (body ++ toBytes 96 sig) with
        | .error _ => s
        | .ok (false, t) => t.mbDone x.mb 5 6 0
        | .ok (true, t) => t.sealWritten x ((s.run x.lead).provSlot % 16) := by
  subst hsig hbody
  rw [State.sealEnd, hd]
  rfl

/-- R365 step 5: what a seal that has been written leaves. -/
theorem State.sealWritten_shows (s : State) (hmb : x.mb < 2) {n : Nat} (hn : n < 16) : (s.sealWritten x n).objor = s.objor ∧
    (s.sealWritten x n).mem = s.mem ∧ (s.sealWritten x n).rd (OBJ.MB_STATUS_STATUS x.mb) = 0 ∧
    (s.sealWritten x n).rd OBJ.SEAL_CNT_NEXT = (s.rd OBJ.SEAL_CNT_NEXT + 1) % 2 ^ OBJ.SEAL_CNT_NEXT.width ∧
    ((s.sealWritten x n).run x.lead).sealed = true ∧ (s.sealWritten x n).rd (OBJ.MB_RES_RES x.mb 0) = s.rd OBJ.SEAL_CNT_NEXT ∧
    ∀ b ∈ (s.sealWritten x n).bonds, b.lead ≠ x.lead := by
  unfold State.sealWritten
  extract_lets c t t1
  have hc : c < 2 ^ 64 := s.rd_lt OBJ.SEAL_CNT_NEXT
  have hnext : t1.rd OBJ.SEAL_CNT_NEXT = (c + 1) % 2 ^ OBJ.SEAL_CNT_NEXT.width := by
    unfold t1
    split
    · exact State.rd_wr_self ..
    · exact (State.rd_wr_ne _ _ (by simp only [Fld.key]; omega)).trans (State.rd_wr_self ..)
  have hframe : t1.objor = s.objor ∧ t1.mem = s.mem := by
    unfold t1
    split <;> exact ⟨rfl, rfl⟩
  clear_value t1
  obtain ⟨hobjor, hmem⟩ := hframe
  obtain ⟨hbonds, hcmem, hcobjor, -, -, -, hcrd⟩ := t1.closeBonds_frame fun b => b.lead == x.lead
  generalize t1.closeBonds (fun b => b.lead == x.lead) = g at hbonds hcmem hcobjor hcrd
  obtain ⟨hst, -, -, hobjor', hmem', -, hbonds', -, hruns, hrd⟩ := State.ends_mbDone hmb 5 (st := 0) (d := 0) (by decide) (by decide)
    ((g.modRun x.lead fun y => { y with sealed := true }).setRes x.mb 0 c)
  refine ⟨hobjor'.trans (hcobjor.trans hobjor), hmem'.trans (hcmem.trans hmem), hst, ?_, ?_, ?_, ?_⟩
  · refine (hrd _ (by simp only [Fld.key]; omega) (by simp only [Fld.key]; omega) (by simp only [Fld.key]; omega)).trans
      ((State.rd_wr_ne _ _ (by simp only [Fld.key]; omega)).trans ((hcrd _ (by decide)).trans hnext))
  · have hrun : (State.mbDone ((g.modRun x.lead fun y => { y with sealed := true }).setRes x.mb 0 c) x.mb 5 0 0).run x.lead =
        (g.modRun x.lead fun y => { y with sealed := true }).run x.lead := congrArg (Tab.get Run.reset · x.lead) hruns
    rw [hrun]
    simp [State.modRun]
  · refine (hrd _ (by simp only [Fld.key]; omega) (by simp only [Fld.key]; omega) (by simp only [Fld.key]; omega)).trans
      ((State.rd_wr_self ..).trans (Nat.mod_eq_of_lt hc))
  · rw [hbonds']
    intro b hb
    have hb' : b ∈ g.bonds := hb
    rw [hbonds] at hb'
    simpa using (List.mem_filter.mp hb').2

theorem sealWriteClause (s u : State) (x : SealRun) (body : List Nat) (sig : Nat) (d : Nat × Nat) (hrun : s.objor.sealRun = some x)
    (hdigested : x.digested = true) (hd : x.digest = some d) (hmb : x.mb < 2) (hfrozen : s.frozen = false) (hqueue : s.objor.queue = [])
    (hbody : body = s.sealBody x.lead x.context d) (hsig : sig = Config.ecdsaSign (s.objor.ident.getD 0) body) :
    (s.cvState x.lead ≠ stHalted ∨ x.left = true → ∃ t, exec (.sealWrite false []) s = .next t ∧ t.rd (OBJ.MB_STATUS_STATUS x.mb) = 6 ∧
      t.rd (OBJ.MB_STATUS_DETAIL x.mb) = 0xF ∧ t.mem = s.mem ∧ t.rd OBJ.SEAL_CNT_NEXT = s.rd OBJ.SEAL_CNT_NEXT) ∧
    (s.cvState x.lead = stHalted → x.left = false → Config.ecdsaVerify (Config.publicKey (s.objor.ident.getD 0)) body sig = false →
      ∃ t, exec (.sealWrite false []) s = .next t ∧ t.objor.sealRun = none ∧ t.rd OBJ.STATUS_ERROR = 1 ∧ t.rd OBJ.STATUS_READY = 0 ∧
        t.mem = s.mem ∧ t.rd OBJ.SEAL_CNT_NEXT = s.rd OBJ.SEAL_CNT_NEXT) ∧
    (s.cvState x.lead = stHalted → x.left = false → Config.ecdsaVerify (Config.publicKey (s.objor.ident.getD 0)) body sig = true → s.StoreFree →
      (State.logForSeal { s with objor := { s.objor with sealRun := none } } ((s.run x.lead).provSlot % 16)).ownPut x.buf 272
        (body ++ toBytes 96 sig) = .ok (true, u) →
      ∃ t, exec (.sealWrite false []) s = .next t ∧ t.objor = u.objor ∧ t.mem = u.mem ∧ t.rd (OBJ.MB_STATUS_STATUS x.mb) = 0 ∧
        t.rd OBJ.SEAL_CNT_NEXT = (u.rd OBJ.SEAL_CNT_NEXT + 1) % 2 ^ OBJ.SEAL_CNT_NEXT.width ∧ (t.run x.lead).sealed = true ∧
        t.rd (OBJ.MB_RES_RES x.mb 0) = u.rd OBJ.SEAL_CNT_NEXT ∧ ∀ b ∈ t.bonds, b.lead ≠ x.lead) := by
  have hexec := exec_sealWrite hrun hdigested hd hfrozen hqueue
  rw [State.sealEnd_eq hd hbody hsig] at hexec
  have hleft : s.sealLeft.mem = s.mem ∧ s.sealLeft.rd OBJ.SEAL_CNT_NEXT = s.rd OBJ.SEAL_CNT_NEXT ∧ s.sealLeft.objor.sealRun = none := ⟨rfl, rfl, rfl⟩
  obtain ⟨hlmem, hlrd, hlseal⟩ := hleft
  refine ⟨fun hno => ⟨_, hexec, ?_⟩, fun hhalted hstay hver => ⟨_, hexec, ?_⟩, fun hhalted hstay hver hf hput => ⟨_, hexec, ?_⟩⟩
  · rw [if_pos hno]
    generalize s.sealLeft = t at hlmem hlrd
    obtain ⟨hst, hdet, -, -, hmem, -, -, -, -, hrd⟩ := State.ends_mbDone hmb 5 (st := 6) (d := 0xF) (by decide) (by decide) t
    exact ⟨hst, hdet, hmem.trans hlmem,
      (hrd _ (by simp only [Fld.key]; omega) (by simp only [Fld.key]; omega) (by simp only [Fld.key]; omega)).trans hlrd⟩
  · rw [if_neg (by simp [hhalted, hstay]), hver, if_pos (by decide)]
    obtain ⟨herror, hready, -, -, heobjor, -, hemem, -, herd⟩ := s.sealLeft.objorError_shows
    have heseal : s.sealLeft.objorError.objor.sealRun = none := (congrArg ObjorX.sealRun heobjor).trans hlseal
    replace herd := (herd OBJ.SEAL_CNT_NEXT (by decide) (by decide)).trans hlrd
    replace hemem := hemem.trans hlmem
    generalize s.sealLeft.objorError = t at herror hready hemem heseal herd
    obtain ⟨-, -, -, hobjor, hmem, -, -, -, -, hrd⟩ := State.ends_mbDone hmb 5 (st := 6) (d := 0) (by decide) (by decide) t
    refine ⟨(congrArg ObjorX.sealRun hobjor).trans heseal, ?_, ?_, hmem.trans hemem, ?_⟩
    · exact (hrd _ (by decide) (by decide) (by simp only [Fld.key]; omega)).trans herror
    · exact (hrd _ (by decide) (by decide) (by simp only [Fld.key]; omega)).trans hready
    · exact (hrd _ (by decide) (by decide) (by simp only [Fld.key]; omega)).trans herd
  · have hput' : (s.sealLeft.logForSeal ((s.run x.lead).provSlot % 16)).ownPut x.buf 272 (body ++ toBytes 96 sig) = .ok (true, u) := hput
    rw [if_neg (by simp [hhalted, hstay]), hver, if_neg (by decide), State.storeBusy_free hf, if_neg (by decide), hput']
    exact u.sealWritten_shows hmb (Nat.mod_lt _ (by decide))

end

/-- Settles O36: a clause per command. -/
theorem sessionsManifestsAndSeals : Obligations.SessionsManifestsAndSeals :=
  ⟨openBondedClause, closeBondedClause, zeroiseClause, installManifestClause, installDoneClause, issueSealClause, sealWriteClause⟩

end Sys2Proof.Machine

namespace Sys2Proof.Machine

/-! ## Sector 0 and the stored life-cycle state (R373, R374, R381) -/

section

variable {s t u : State}

/-! ### What leaves the code words of sector 0 alone -/

/-- The conditions of the code words of sector 0 stand. -/
def State.FirstStands (s t : State) : Prop := ∀ k < 4096, t.cwState k = s.cwState k

namespace State.FirstStands

theorem refl (s : State) : s.FirstStands s := fun _ _ => rfl

theorem trans (h : s.FirstStands t) (g : t.FirstStands u) : s.FirstStands u := fun k hk => (g k hk).trans (h k hk)

theorem of_store (h : t.store = s.store) : s.FirstStands t := fun k _ => congrArg (fun x : StoreX => Tab.get 0 x.cw k) h

theorem foldl {α : Type} {f : State → α → State} {l : List α} (hf : ∀ t, ∀ x ∈ l, State.FirstStands t (f t x)) (s : State) :
    s.FirstStands (l.foldl f s) :=
  List.foldlRecOn (motive := fun t : State => s.FirstStands t) l f (.refl s) fun t ht x hx => ht.trans (hf t x hx)

end State.FirstStands

theorem State.firstStands_wr (s : State) (f : Fld) (v : Nat) : s.FirstStands (s.wr f v) := .of_store rfl

theorem State.cwState_cwProgram_ne (s : State) {k i : Nat} (ws : List Nat) (h : k ≠ i) : (s.cwProgram k ws).cwState i = s.cwState i := by
  obtain ⟨-, hstore⟩ := s.writeWords_frame (cwAddr k) ((List.range 4).map fun j => word72 (ws.getD j 0))
  unfold State.cwProgram State.cwState
  dsimp only
  rw [hstore]
  exact Tab.get_set_ne 0 _ 1 h

theorem State.firstStands_cwProgram (s : State) {k : Nat} (ws : List Nat) (hk : 4096 ≤ k) : s.FirstStands (s.cwProgram k ws) :=
  fun i hi => s.cwState_cwProgram_ne ws (by omega)

theorem State.firstStands_cwErase (s : State) {lo : Nat} (hlo : 4096 ≤ lo) (hi : Nat) : s.FirstStands (s.cwErase lo hi) :=
  fun _ hk => Tab.get_drop_out _ _ (.inl (by omega))

theorem le_halfBase (h : Nat) : 4096 ≤ halfBase h := Nat.le_add_right ..

theorem State.firstStands_journal (s : State) (ws : List Nat) : s.FirstStands (s.journal ws) :=
  (s.firstStands_cwProgram ws (Nat.le_add_right_of_le (le_halfBase _))).trans (State.firstStands_wr _ _ _)

theorem State.firstStands_journals (s : State) (f : List Nat → List Nat) (l : List (List Nat)) :
    s.FirstStands (l.foldl (fun t e => t.journal (f e)) s) := State.FirstStands.foldl (fun t e _ => t.firstStands_journal (f e)) s

theorem State.firstStands_rollNow (s : State) : s.FirstStands s.rollNow := by
  unfold State.rollNow
  split
  · have hin : s.FirstStands s.rollIn :=
      ((((s.firstStands_cwErase (le_halfBase _) _).trans (State.firstStands_wr _ _ _)).trans (State.firstStands_journal _ _)).trans
        (State.firstStands_journals _ id _)).trans (State.firstStands_journal _ _)
    exact (hin.trans (State.firstStands_cwErase _ (le_halfBase _) _)).trans (State.firstStands_wr _ _ _)
  · exact .refl s

theorem State.firstStands_eraseNow (s : State) {x : Nat} (hx : 1 ≤ x) : s.FirstStands (s.eraseNow x) := by
  have hbegin : s.FirstStands (s.eraseBegin x) :=
    ((s.firstStands_journal _).trans (State.firstStands_wr _ _ _)).trans (State.firstStands_cwErase _ (by omega) _)
  exact (((hbegin.trans (State.firstStands_journal _ _)).trans (State.firstStands_wr _ _ _)).trans (State.firstStands_rollNow _)).trans
    (State.firstStands_wr _ _ _)

theorem State.firstStands_logInto (s : State) {x : Nat} (hx : 1 ≤ x) (slot ceiling mid : Nat) : s.FirstStands (s.logInto x slot ceiling mid) := by
  have hplace := (s.logPlace_bounds x).1
  exact (s.firstStands_cwProgram _ (by omega)).trans (State.firstStands_wr _ _ _)

theorem State.firstStands_logTurn (s : State) (live : List (Nat × Nat × Nat)) : s.FirstStands (s.logTurn live) := by
  have hactive : 1 ≤ s.logActive ∧ 1 ≤ 13 - s.logActive := by
    rcases s.logActive_eq with h | h <;> rw [h] <;> decide
  unfold State.logTurn
  extract_lets x t
  have ht : s.FirstStands t := by
    unfold t
    split
    · exact .refl s
    · exact s.firstStands_eraseNow hactive.2
  clear_value t
  exact (ht.trans (State.FirstStands.foldl (fun u e _ => u.firstStands_logInto hactive.2 _ _ _) t)).trans (State.firstStands_eraseNow _ hactive.1)

/-! ### The wipe (R381 step 2, R382) -/

theorem State.resetRegs_store (s : State) (lo hi : Nat) : (s.resetRegs lo hi).store = s.store := congrArg Prod.snd (s.apart_resetRegs lo hi)

/-- R382, item 1: the keys. -/
def State.wipeKeys (s : State) : State :=
  let u := (((List.range 4).foldl (fun t k => t.eraseNow (2 + k)) s).resetRegs 0x100400 0x100600).resetRegs 0x100800 0x100C00
  { u.wr OBJ.STATUS_IDENT 0 with objor := { u.objor with ident := none, cert := [], slots := [], owners := [], fleets := [] } }

/-- R382, item 4: the planes. -/
def State.wipePlanes (s : State) : State := (List.range 32).foldl (fun t b =>
  (t.resetRegs (blockBase b + 0x20010) (blockBase b + 0x20030)).modBlock b fun x => { x with planeA := Plane.blank, planeB := Plane.blank }) s

/-- R382, item 5: the memories of the chip. -/
def State.wipeMemories (s : State) : State :=
  let u := (List.range 256).foldl (fun t c => t.clearMem (padBase c) (padBase c + 0x20000)) (s.closeBonds fun _ => true)
  let v := (List.range 32).foldl (fun t b => t.clearMem (depotBase b) (depotBase b + 0x100000)) u
  (v.clearMem accountsBase (accountsBase + 0x2000000)).clearMem oasisBase (oasisBase + 0x40000)

/-- R382, item 6: what is execute-only, the nonces and the generator. -/
def State.wipeWindows (s : State) : State :=
  let u := (List.range 256).foldl (fun t c => (List.range 4).foldl (fun u k => u.wrs [(CEL.XOW_BASE c k, 0),
    (CEL.XOW_LIMIT c k, 0), (CEL.XOW_SYS c k, 0), (CEL.XOW_MSLOT c k, 0), (CEL.XOW_VALID c k, 0)]) t) s
  let v := (List.range 16).foldl (fun t k => t.wrs [(STO.XO_BASE k, 0), (STO.XO_LIMIT k, 0), (STO.XO_VALID k, 0),
    (STO.XO_MSLOT k, 0)]) u
  { v with objor := { v.objor with nonce0 := none, nonce1 := none, seeds := v.objor.seeds + 1, draws := 0 } }

/-- R382, item 7: DDR5. -/
def State.wipeDdr (s : State) : State := (List.range 4).foldl (fun t r =>
  if t.rd (DDR.STATUS_STATE r) = ddrReady then t.clearMem (ddrBase r) (ddrBase r + 16 * t.ddrCapacity r)
  else t.wr LC.PROGRESS_DDR_SKIPPED 1) s

/-- R382: the items of the table. -/
theorem State.wipeItem_cases (s : State) (i : Nat) : s.wipeItem i ∈ [(s.wr LC.PROGRESS_ITEM i).wipeKeys,
    (List.range 504).foldl (fun t k => t.eraseNow (8 + k)) (s.wr LC.PROGRESS_ITEM i),
    (s.wr LC.PROGRESS_ITEM i).logTurn
      [(0, max ((s.wr LC.PROGRESS_ITEM i).ceiling 0 0) ((s.wr LC.PROGRESS_ITEM i).rd OBJ.SEAL_CNT_NEXT), 0)],
    (s.wr LC.PROGRESS_ITEM i).wipePlanes, (s.wr LC.PROGRESS_ITEM i).wipeMemories, (s.wr LC.PROGRESS_ITEM i).wipeWindows,
    (s.wr LC.PROGRESS_ITEM i).wipeDdr] := by
  simp only [List.mem_cons, List.not_mem_nil, or_false]
  match i with
  | 1 => exact .inl rfl
  | 2 => exact .inr (.inl rfl)
  | 3 => exact .inr (.inr (.inl rfl))
  | 4 => exact .inr (.inr (.inr (.inl rfl)))
  | 5 => exact .inr (.inr (.inr (.inr (.inl rfl))))
  | 6 => exact .inr (.inr (.inr (.inr (.inr (.inl rfl)))))
  | 0 | _ + 7 => exact .inr (.inr (.inr (.inr (.inr (.inr rfl)))))

theorem State.wipePlanes_store (s : State) : s.wipePlanes.store = s.store := State.foldl_same State.store fun _ _ _ => rfl

theorem State.clearMem_store (s : State) (lo hi : Nat) : (s.clearMem lo hi).store = s.store := rfl

theorem State.foldl_clearMem_store (s : State) (l : List Nat) (lo hi : Nat → Nat) :
    (l.foldl (fun t c => State.clearMem t (lo c) (hi c)) s).store = s.store := State.foldl_same State.store fun _ _ _ => rfl

theorem State.wipeMemories_store (s : State) : s.wipeMemories.store = s.store := by
  have hbonds : (s.closeBonds fun _ => true).store = s.store := congrArg Prod.snd (s.apart_closeBonds _)
  unfold State.wipeMemories
  dsimp only
  generalize s.closeBonds (fun _ => true) = t at hbonds
  have hpads := t.foldl_clearMem_store (List.range 256) padBase fun c => padBase c + 0x20000
  generalize (List.range 256).foldl (fun t c => State.clearMem t (padBase c) (padBase c + 0x20000)) t = u at hpads
  have hdepots := u.foldl_clearMem_store (List.range 32) depotBase fun c => depotBase c + 0x100000
  generalize (List.range 32).foldl (fun t c => State.clearMem t (depotBase c) (depotBase c + 0x100000)) u = v at hdepots
  rw [State.clearMem_store, State.clearMem_store, hdepots, hpads, hbonds]

theorem State.foldl_wrs_store (s : State) (l : List Nat) (f : Nat → List (Fld × Nat)) : (l.foldl (fun t k => State.wrs t (f k)) s).store = s.store :=
  State.foldl_same State.store fun t k _ => congrArg Prod.snd (t.apart_wrs (f k))

theorem State.wipeWindows_shows (s : State) : s.wipeWindows.store = s.store ∧ ∀ m, s.wipeWindows.nonce m = none := by
  unfold State.wipeWindows
  extract_lets u v
  have hu : u.store = s.store := State.foldl_same State.store fun t c _ => t.foldl_wrs_store _ fun k => [(CEL.XOW_BASE c k, 0),
    (CEL.XOW_LIMIT c k, 0), (CEL.XOW_SYS c k, 0), (CEL.XOW_MSLOT c k, 0), (CEL.XOW_VALID c k, 0)]
  have hv : v.store = u.store := u.foldl_wrs_store _ fun k => [(STO.XO_BASE k, 0), (STO.XO_LIMIT k, 0), (STO.XO_VALID k, 0), (STO.XO_MSLOT k, 0)]
  clear_value v u
  exact ⟨hv.trans hu, fun m => ite_self _⟩

theorem State.wipeDdr_shows (s : State) : s.wipeDdr.store = s.store ∧ s.wipeDdr.objor = s.objor := by
  constructor
  · exact State.foldl_same State.store fun _ _ _ => by split <;> rfl
  · exact State.foldl_same State.objor fun _ _ _ => by split <;> rfl

theorem State.firstStands_erases (s : State) (l : List Nat) {x : Nat} (hx : 1 ≤ x) :
    s.FirstStands (l.foldl (fun u k => State.eraseNow u (x + k)) s) := State.FirstStands.foldl (fun u k _ => u.firstStands_eraseNow (by omega)) s

theorem State.firstStands_wipeKeys (s : State) : s.FirstStands s.wipeKeys := by
  have hkeys := s.firstStands_erases (List.range 4) (x := 2) (by decide)
  unfold State.wipeKeys
  generalize (List.range 4).foldl (fun u k => State.eraseNow u (2 + k)) s = t at hkeys
  extract_lets u
  have hu : u.store = t.store := (State.resetRegs_store _ _ _).trans (State.resetRegs_store _ _ _)
  clear_value u
  exact hkeys.trans (.of_store ((rfl : _ = u.store).trans hu))

theorem State.firstStands_wipeItem (s : State) (i : Nat) : s.FirstStands (s.wipeItem i) := by
  have hitem := s.firstStands_wr LC.PROGRESS_ITEM i
  have hcases := s.wipeItem_cases i
  generalize s.wr LC.PROGRESS_ITEM i = t at hitem hcases
  refine hitem.trans ?_
  simp only [List.mem_cons, List.not_mem_nil, or_false] at hcases
  rcases hcases with h | h | h | h | h | h | h <;> rw [h]
  · exact t.firstStands_wipeKeys
  · exact t.firstStands_erases _ (by decide)
  · exact t.firstStands_logTurn _
  · exact .of_store t.wipePlanes_store
  · exact .of_store t.wipeMemories_store
  · exact .of_store t.wipeWindows_shows.1
  · exact .of_store t.wipeDdr_shows.1

theorem State.wipeItem_six (s : State) : s.wipeItem 6 = (s.wr LC.PROGRESS_ITEM 6).wipeWindows := rfl

theorem State.wipeItem_seven (s : State) : s.wipeItem 7 = (s.wr LC.PROGRESS_ITEM 7).wipeDdr := rfl

theorem State.nonce_wipeItem_six (s : State) (m : Nat) : (s.wipeItem 6).nonce m = none := by
  rw [State.wipeItem_six]
  exact (State.wipeWindows_shows _).2 m

theorem State.nonce_wipeItem_seven (s : State) (m : Nat) : (s.wipeItem 7).nonce m = s.nonce m := by
  rw [State.wipeItem_seven, State.nonce_congr (State.wipeDdr_shows _).2, State.nonce_wr]

theorem State.wipeItems_succ (s : State) (i n : Nat) : s.wipeItems i (n + 1) = (s.wipeItems i n).wipeItem (i + n) := by
  rw [State.wipeItems, List.range_succ, List.foldl_append, List.foldl_cons, List.foldl_nil, State.wipeItems]

/-- R382: no nonce is left. -/
theorem State.nonce_wipeItems (s : State) (m : Nat) : (s.wipeItems 1 7).nonce m = none := by
  rw [State.wipeItems_succ, State.wipeItems_succ, State.nonce_wipeItem_seven, State.nonce_wipeItem_six]

theorem State.wipe_none (s : State) (third : Bool) : s.wipe none third = (true, (s.wipeItems 1 7).wr LC.PROGRESS_PHASE 3) := by
  rw [State.wipe]

/-- R382: a wipe that verifies leaves sector 0 and no nonce. -/
theorem State.wipe_shows (s : State) (third : Bool) : ∃ t, s.wipe none third = (true, t) ∧ s.FirstStands t ∧ ∀ m, t.nonce m = none := by
  have hstands : s.FirstStands (s.wipeItems 1 7) := State.FirstStands.foldl (fun t j _ => t.firstStands_wipeItem _) s
  have hnonce := s.nonce_wipeItems
  refine ⟨_, s.wipe_none third, ?_⟩
  generalize s.wipeItems 1 7 = t at hstands hnonce
  exact ⟨hstands.trans (t.firstStands_wr _ _), fun m => (t.nonce_wr _ _ m).trans (hnonce m)⟩

end

end Sys2Proof.Machine

namespace Sys2Proof.Machine

/-! ## Steps 3 to 6 of a transition (R381, R384) -/

section

variable {s t u : State} {k target uid seq : Nat} {spoil : Bool}

theorem State.slotClass_eq_zero (s : State) (c j : Nat) : s.slotClass c j = 0 ↔ s.cwState (1024 * c + j) = 0 := by
  unfold State.slotClass
  dsimp only
  split_ifs with hblank <;> simp [hblank]

theorem State.cwState_wr (s : State) (f : Fld) (v i : Nat) : (s.wr f v).cwState i = s.cwState i := rfl

theorem State.cwState_programNow (s : State) (k : Nat) (ws : List Nat) : (s.programNow k ws).cwState k = 1 := by
  rw [State.programNow, State.cwState_wr, State.cwState_cwProgram]

theorem State.cwState_programNow_ne (s : State) {k i : Nat} (ws : List Nat) (h : k ≠ i) : (s.programNow k ws).cwState i = s.cwState i := by
  rw [State.programNow, State.cwState_wr, State.cwState_cwProgram_ne _ _ h]

theorem State.store_of_apart (h : t.apart = s.apart) : t.store = s.store := congrArg Prod.snd h

/-- R381: what programs of blank code words bring about. -/
theorem State.lcProgram_shows (l : List (Nat × List Nat)) (s : State) (k : Nat) (spoil : Bool) (hdistinct : (l.map (·.1)).Nodup)
    (hblank : ∀ w ∈ l, s.cwState w.1 = 0) : ∃ t, s.lcProgram false k spoil l = (true, t) ∧ (∀ w ∈ l, t.cwState w.1 = 1) ∧
      (∀ i, i ∉ l.map (·.1) → t.cwState i = s.cwState i) ∧ s.StoreWork (fun _ => False) t := by
  induction l generalizing s k with
  | nil => exact ⟨s, rfl, fun _ h => absurd h List.not_mem_nil, fun _ _ => rfl, .refl s⟩
  | cons w l ih =>
    obtain ⟨hw, hl⟩ := List.nodup_cons.mp hdistinct
    have hself : (s.programNow w.1 w.2).cwState w.1 = 1 := s.cwState_programNow _ w.2
    have hother (i : Nat) (hi : w.1 ≠ i) : (s.programNow w.1 w.2).cwState i = s.cwState i := s.cwState_programNow_ne w.2 hi
    have hwork := s.storeWork_programNow (X := fun _ => False) w.1 w.2
    have hstep : s.lcProgram false k spoil (w :: l) = (s.programNow w.1 w.2).lcProgram false (k - 1) spoil l := by
      rw [State.lcProgram, if_neg (not_not.mpr (hblank w List.mem_cons_self))]
      simp
    rw [hstep]
    generalize s.programNow w.1 w.2 = p at hself hother hwork
    have hne (x : Nat × List Nat) (hx : x ∈ l) : w.1 ≠ x.1 := fun h => hw (List.mem_map.mpr ⟨x, hx, h.symm⟩)
    obtain ⟨t, ht, hset, hkeep, hwork'⟩ := ih p (k - 1) hl fun x hx => (hother _ (hne x hx)).trans (hblank x (List.mem_cons_of_mem _ hx))
    refine ⟨t, ht, fun x hx => ?_, fun i hi => ?_, hwork.trans hwork'⟩
    · rcases List.mem_cons.mp hx with rfl | hx
      · exact (hkeep _ hw).trans hself
      · exact hset x hx
    · rw [List.map_cons, List.mem_cons, not_or] at hi
      exact (hkeep i hi.2).trans (hother i (Ne.symm hi.1))

/-! ### The slots that a transition programs -/

theorem State.mem_slotsToWrite {e : Nat × Nat} : e ∈ s.slotsToWrite target ↔ e.1 < 3 ∧ 1 ≤ e.2 ∧ e.2 ≤ target ∧ s.slotClass e.1 e.2 = 0 := by
  obtain ⟨c, j⟩ := e
  simp only [State.slotsToWrite, List.mem_flatMap, List.mem_filter, List.mem_map, List.mem_range, Prod.mk.injEq, beq_iff_eq]
  constructor
  · rintro ⟨a, ha, ⟨i, hi, rfl, rfl⟩, hclass⟩
    exact ⟨ha, by omega, by omega, hclass⟩
  · rintro ⟨hc, hj, hjt, hclass⟩
    exact ⟨c, hc, ⟨j - 1, by omega, rfl, by omega⟩, hclass⟩

/-- The code words of step 4. -/
def State.slotWords (s : State) (target : Nat) : List (Nat × List Nat) :=
  (s.slotsToWrite target).map fun e => (1024 * e.1 + e.2, slotPattern e.1 e.2)

theorem State.mem_slotWords {w : Nat × List Nat} (h : w ∈ s.slotWords target) : s.cwState w.1 = 0 := by
  obtain ⟨e, he, rfl⟩ := List.mem_map.mp h
  exact (s.slotClass_eq_zero e.1 e.2).mp (State.mem_slotsToWrite.mp he).2.2.2

theorem State.slotWords_nodup (s : State) (ht : target < 4) : ((s.slotWords target).map (·.1)).Nodup := by
  have hfilter : s.slotsToWrite target =
      ((List.range 3).flatMap fun c => (List.range target).map fun j => (c, j + 1)).filter fun e => s.slotClass e.1 e.2 == 0 := by
    rw [State.slotsToWrite, List.filter_flatMap]
  have hall : (((List.range 3).flatMap fun c => (List.range target).map fun j => (c, j + 1)).map fun e => 1024 * e.1 + e.2).Nodup := by
    obtain rfl | rfl | rfl | rfl : target = 0 ∨ target = 1 ∨ target = 2 ∨ target = 3 := by omega
    all_goals decide
  have hmap : (s.slotWords target).map (·.1) = (s.slotsToWrite target).map fun e => 1024 * e.1 + e.2 := by
    rw [State.slotWords, List.map_map]
    rfl
  rw [hmap, hfilter]
  exact hall.sublist (List.filter_sublist.map _)

/-! ### The closing of the records (R384) -/

theorem State.lcClose_false (s : State) (spoil : Bool) :
    s.lcClose false spoil = (true, (s.openLc.foldl (fun t e => t.journal (closing e)) s).rollNow) := by
  unfold State.lcClose
  generalize s.openLc = es
  cases es <;> rfl

/-- R381 step 5: where every closing record verifies. -/
theorem State.lcClose_shows (s : State) (spoil : Bool) :
    ∃ t, s.lcClose false spoil = (true, t) ∧ s.FirstStands t ∧ s.StoreWork (fun _ => False) t := by
  have hfirst := s.firstStands_journals closing s.openLc
  have hwork : s.StoreWork (fun _ => False) (s.openLc.foldl (fun t e => t.journal (closing e)) s) :=
    State.StoreWork.foldl (fun t e _ => t.storeWork_journal (closing e)) s
  refine ⟨_, s.lcClose_false spoil, ?_⟩
  generalize s.openLc.foldl (fun t e => t.journal (closing e)) s = t at hfirst hwork
  exact ⟨hfirst.trans t.firstStands_rollNow, hwork.trans t.storeWork_rollNow⟩

/-! ### Steps 2 to 6 together -/

/-- R381: what the steps before the programs leave: `s` is the state before them. -/
structure State.LcReady (target : Nat) (s t : State) : Prop where
  first : s.FirstStands t
  objor : target ≠ 3 → t.objor = s.objor
  nonce : target = 3 → ∀ m, t.nonce m = none

/-- R381 step 2. -/
theorem State.lcReady_wipe (s : State) (target : Nat) (third : Bool) : ∃ t,
    (if target = 3 then (s.stopAll.wr LC.PROGRESS_PHASE 2).wipe none third else (true, s)) = (true, t) ∧ State.LcReady target s t := by
  split
  next h3 =>
    obtain ⟨t, ht, hfirst, hnonce⟩ := (s.stopAll.wr LC.PROGRESS_PHASE 2).wipe_shows third
    have hstop : s.FirstStands s.stopAll := .of_store (State.store_of_apart s.apart_stopAll)
    exact ⟨t, ht, (hstop.trans (State.firstStands_wr _ _ _)).trans hfirst, fun h => absurd h3 h, fun _ => hnonce⟩
  next h3 => exact ⟨s, rfl, .refl s, fun _ => rfl, fun h => absurd h h3⟩

/-- R381: a transition of which every Store step succeeds. -/
theorem State.runLc_shows (s : State) (ht : target < 4) (uid seq k : Nat) (spoil : Bool) {ids : List Nat} (hids : ids.Nodup) (hids3 : ∀ c ∈ ids, c < 3)
    (hblank : ∀ c ∈ ids, s.cwState (1024 * c) = 0) : ∃ t, s.runLc target uid seq 0 k spoil ids = ⟨0, 0, t⟩ ∧ t.rst.due = some 4 ∧
      t.rd LC.PROGRESS_PHASE = 5 ∧ (target ≠ 3 → t.objor = s.objor) ∧ (target = 3 → ∀ m, t.nonce m = none) ∧
      ∀ c j, c < 3 → 1 ≤ j → j ≤ target → s.slotClass c j = 0 → t.cwState (1024 * c + j) = 1 := by
  obtain ⟨w, hw, hfirst, hobjor, hnonce⟩ := (s.wrs [(LC.PROGRESS_PHASE, 1), (LC.PROGRESS_TARGET, target), (LC.PROGRESS_SEQ, seq)]).lcReady_wipe target spoil
  have hwrs : (s.wrs [(LC.PROGRESS_PHASE, 1), (LC.PROGRESS_TARGET, target), (LC.PROGRESS_SEQ, seq)]).FirstStands w := hfirst
  replace hfirst : s.FirstStands w := State.FirstStands.trans (.of_store (State.store_of_apart (s.apart_wrs _))) hwrs
  have hcopies : (ids.map fun c => (1024 * c, uidPattern uid)).map (·.1) = ids.map (1024 * ·) := by
    rw [List.map_map]
    rfl
  obtain ⟨p, hp, -, hpkeep, hpwork⟩ := State.lcProgram_shows (ids.map fun c => (1024 * c, uidPattern uid)) w k spoil
    (by
      rw [hcopies]
      exact hids.map fun a b h => by simpa using h)
    (fun e he => by
      obtain ⟨c, hc, rfl⟩ := List.mem_map.mp he
      exact (hfirst _ (by have := hids3 c hc; show 1024 * c < 4096; omega)).trans (hblank c hc))
  obtain ⟨q, hq, hqset, -, hqwork⟩ := State.lcProgram_shows ((p.wr LC.PROGRESS_PHASE 4).slotWords target) (p.wr LC.PROGRESS_PHASE 4) k spoil
    (State.slotWords_nodup _ ht) (fun e he => State.mem_slotWords he)
  obtain ⟨z, hz, hzfirst, hzwork⟩ := (q.wr LC.PROGRESS_PHASE 5).lcClose_shows spoil
  have hobjorz : z.objor = w.objor := hzwork.objor.trans (hqwork.objor.trans hpwork.objor)
  refine ⟨{ z with rst := { z.rst with due := some 4 } }, ?_, rfl, ?_, fun h3 => hobjorz.trans (hobjor h3),
    fun h3 m => (State.nonce_congr hobjorz m).trans (hnonce h3 m), fun c j hc hj hjt hclass => ?_⟩
  · unfold State.runLc
    dsimp only
    rw [if_neg (by decide : ¬(0 : Nat) = 2), hw]
    dsimp only
    rw [show ((0 : Nat) == 3) = false from rfl, hp]
    dsimp only
    rw [show ((0 : Nat) == 4) = false from rfl, show ((p.wr LC.PROGRESS_PHASE 4).slotsToWrite target).map
      (fun e => (1024 * e.1 + e.2, slotPattern e.1 e.2)) = (p.wr LC.PROGRESS_PHASE 4).slotWords target from rfl, hq]
    dsimp only
    rw [show ((0 : Nat) == 5) = false from rfl, hz]
  · rw [State.rd_mk, hzwork.rd _ (.inl (by decide)) fun _ h => h.elim, State.rd_wr_self]
    rfl
  · have hp0 : (p.wr LC.PROGRESS_PHASE 4).cwState (1024 * c + j) = 0 := by
      rw [State.cwState_wr, hpkeep, hfirst _ (by omega), (s.slotClass_eq_zero c j).mp hclass]
      rw [hcopies, List.mem_map]
      rintro ⟨a, -, ha⟩
      omega
    have hmem : (1024 * c + j, slotPattern c j) ∈ (p.wr LC.PROGRESS_PHASE 4).slotWords target :=
      List.mem_map.mpr ⟨(c, j), State.mem_slotsToWrite.mpr ⟨hc, hj, hjt, (State.slotClass_eq_zero _ c j).mpr hp0⟩, rfl⟩
    have hset : q.cwState (1024 * c + j) = 1 := hqset _ hmem
    exact (hzfirst _ (by omega)).trans ((q.cwState_wr _ _ _).trans hset)

end

end Sys2Proof.Machine

namespace Sys2Proof.Machine

/-! ## NONCE, LC_REQUEST and ROLL_FORWARD (R350, R372, R379 to R385) -/

section

variable {s u : State} {m target fail k : Nat} {spoil : Bool} {b : List Nat}

theorem nonceClause (s : State) (m : Nat) (h : s.Serves m [0, 1, 2, 3, 7]) : ∃ t, exec (.nonce m) s = .next t ∧ t.rd (OBJ.MB_STATUS_STATUS m) = 0 ∧
    t.nonce m = some (s.random % 2 ^ 256) ∧ t.rd (OBJ.MB_RES_RES m 0) = s.rd LC.UNIT_ID0_ID ∧ t.rd (OBJ.MB_RES_RES m 1) = s.rd LC.UNIT_ID1_ID ∧
    t.objor.draws = s.objor.draws + 1 ∧ t.mem = s.mem := by
  have hm := h.1
  have hexec : exec (.nonce m) s = .next ((lcNonce s m).close m 6) :=
    congrArg Host.Outcome.next (h.mbRow (op := 6) (by decide) false lcNonce)
  obtain ⟨hnonce, hmem, hdraws, h0, h1⟩ := s.giveNonce_shows m
  refine ⟨_, hexec, ?_⟩
  unfold lcNonce
  generalize s.giveNonce m = g at hnonce hmem hdraws h0 h1
  obtain ⟨hst, -, -, hobjor, hmem', -, -, -, -, hrd⟩ := MbRes.ends_close hm 6 (.inl rfl) (by decide : 0 < 256) g
  refine ⟨hst, (State.nonce_congr hobjor m).trans hnonce, ?_, ?_, (congrArg ObjorX.draws hobjor).trans hdraws, hmem'.trans hmem⟩
  · exact (hrd _ (by simp only [Fld.key]; omega) (by simp only [Fld.key]; omega) (by simp only [Fld.key]; omega)).trans h0
  · exact (hrd _ (by simp only [Fld.key]; omega) (by simp only [Fld.key]; omega) (by simp only [Fld.key]; omega)).trans h1

/-! ### LC_REQUEST -/

theorem exec_lcRequest (h : s.Serves m [0, 1, 2, 3, 7]) (fail k : Nat) (spoil : Bool) :
    exec (.lcRequest m fail k spoil) s = .next ((lcRequest fail k spoil s m).close m 6) :=
  congrArg Host.Outcome.next (h.mbRow (op := 6) (by decide) false (lcRequest fail k spoil))

theorem lcAllowed_lt {st : Nat} (h : lcAllowed st target = true) : target < 4 := by
  simp only [lcAllowed, List.contains_iff_mem, List.mem_cons, Prod.mk.injEq, List.not_mem_nil, or_false] at h
  omega

/-- R372: a transition that is not allowed. -/
theorem lcRequest_closed (hread : s.ObjReads (s.arg m 1) 168 b u) (hno : lcAllowed (u.rd LC.STATE_STATE) (le b 4 1) = false) :
    lcRequest fail k spoil s m = ⟨3, 0, u⟩ := by
  rw [lcRequest, hread.withBytes]
  exact if_pos (by rw [hno]; rfl)

/-- R379: a request of the vendor is judged by its signature, its nonce and the unit's ID, and then by its format. -/
theorem lcRequest_judged (hread : s.ObjReads (s.arg m 1) 168 b u) (hallowed : lcAllowed (u.rd LC.STATE_STATE) (le b 4 1) = true)
    (hident : le b 4 1 = 2 → u.objor.ident ≠ none ∧ u.objor.cert ≠ []) (hsid : le b 56 16 = 0) : lcRequest fail k spoil s m =
      if !Config.ecdsaVerify Config.romKey (b.take 72) (le b 72 96) then ⟨4, 4, u⟩
      else if (u.rd LC.STATE_STATE ≠ 0 ∧ le b 8 16 ≠ u.unitId) ∨ u.nonce m ≠ some (le b 24 32) then ⟨4, 0xE, u⟩
      else if le b 0 4 ≠ 0x434C5848 ∨ le b 5 3 ≠ 0 then ⟨2, 1, u⟩
      else u.withStore fun s =>
        if fail = 1 then
          ⟨6, 0xB, ((s.setNonce m none).journalBad (lcRecord (le b 4 1) 1 (s.rd STO.JSEQ_SEQ) (Config.sha384 b)) spoil).wrs
            [(LC.PROGRESS_PHASE, 1), (LC.PROGRESS_TARGET, le b 4 1), (LC.PROGRESS_SEQ, s.rd STO.JSEQ_SEQ)]⟩
        else ((s.setNonce m none).journal (lcRecord (le b 4 1) 1 (s.rd STO.JSEQ_SEQ) (Config.sha384 b))).rollNow.runLc (le b 4 1) (le b 8 16)
          (s.rd STO.JSEQ_SEQ) fail k spoil (if u.rd LC.STATE_STATE = 0 then [0, 1, 2] else []) := by
  have hready : (!lcAllowed (u.rd LC.STATE_STATE) (le b 4 1) || (le b 4 1 == 2 && (u.objor.ident.isNone || u.objor.cert.isEmpty))) = false := by
    rw [hallowed]
    by_cases h2 : le b 4 1 = 2
    · obtain ⟨hi, hc⟩ := hident h2
      obtain ⟨i, hi⟩ := Option.ne_none_iff_exists'.mp hi
      simp [h2, hi, hc]
    · simp [h2]
  rw [lcRequest, hread.withBytes]
  dsimp only
  rw [hready, hsid, if_neg (by decide), if_neg (fun h => h.1 rfl), State.signedBy, if_pos rfl]

theorem lcRequest_same (hnonce : u.nonce m = some (le b 24 32)) (huid : u.rd LC.STATE_STATE = 0 ∨ le b 8 16 = u.unitId) :
    ¬((u.rd LC.STATE_STATE ≠ 0 ∧ le b 8 16 ≠ u.unitId) ∨ u.nonce m ≠ some (le b 24 32)) := by
  rintro (⟨h0, hid⟩ | hn)
  · exact huid.elim h0 hid
  · exact hn hnonce

/-- R381 step 1: what the record of a transition leaves. -/
theorem State.lcRecorded_shows (s : State) (m : Nat) (r : List Nat) : s.FirstStands ((s.setNonce m none).journal r).rollNow ∧
    (((s.setNonce m none).journal r).rollNow).nonce m = none := by
  have hset : (s.setNonce m none).nonce m = none := s.nonce_setNonce m none
  have hstore : (s.setNonce m none).store = s.store := rfl
  generalize s.setNonce m none = t at hset hstore
  have hwork : t.StoreWork (fun _ => False) (t.journal r).rollNow := (t.storeWork_journal r).trans (State.storeWork_rollNow _)
  have hfirst : t.FirstStands (t.journal r).rollNow := (t.firstStands_journal r).trans (State.firstStands_rollNow _)
  exact ⟨State.FirstStands.trans (.of_store hstore) hfirst, (State.nonce_congr hwork.objor m).trans hset⟩

/-- R381: a request that is carried out, and no Store step fails. -/
theorem lcRequest_done (hread : s.ObjReads (s.arg m 1) 168 b u) (hallowed : lcAllowed (u.rd LC.STATE_STATE) (le b 4 1) = true)
    (hident : le b 4 1 = 2 → u.objor.ident ≠ none ∧ u.objor.cert ≠ []) (hsid : le b 56 16 = 0)
    (hver : Config.ecdsaVerify Config.romKey (b.take 72) (le b 72 96) = true) (hnonce : u.nonce m = some (le b 24 32))
    (huid : u.rd LC.STATE_STATE = 0 ∨ le b 8 16 = u.unitId) (hmagic : le b 0 4 = 0x434C5848) (hzero : le b 5 3 = 0) (hf : u.StoreFree)
    (hblank : u.rd LC.STATE_STATE = 0 → ∀ c, c < 3 → u.cwState (1024 * c) = 0) : ∃ z, lcRequest 0 k spoil s m = ⟨0, 0, z⟩ ∧
      z.rd LC.PROGRESS_PHASE = 5 ∧ z.nonce m = none ∧ z.rst.due = some 4 ∧
      ∀ c j, c < 3 → 1 ≤ j → j ≤ le b 4 1 → u.slotClass c j = 0 → z.cwState (1024 * c + j) = 1 := by
  have hformat : ¬(le b 0 4 ≠ 0x434C5848 ∨ le b 5 3 ≠ 0) := not_or.mpr ⟨not_not.mpr hmagic, not_not.mpr hzero⟩
  obtain ⟨hfirst, hnone⟩ := u.lcRecorded_shows m (lcRecord (le b 4 1) 1 (u.rd STO.JSEQ_SEQ) (Config.sha384 b))
  have hbody : lcRequest 0 k spoil s m = ((u.setNonce m none).journal (lcRecord (le b 4 1) 1 (u.rd STO.JSEQ_SEQ) (Config.sha384 b))).rollNow.runLc
      (le b 4 1) (le b 8 16) (u.rd STO.JSEQ_SEQ) 0 k spoil (if u.rd LC.STATE_STATE = 0 then [0, 1, 2] else []) := by
    rw [lcRequest_judged hread hallowed hident hsid, hver, if_neg (by decide), if_neg (lcRequest_same hnonce huid), if_neg hformat,
      State.withStore_free hf, if_neg (by decide)]
  rw [hbody]
  generalize ((u.setNonce m none).journal (lcRecord (le b 4 1) 1 (u.rd STO.JSEQ_SEQ) (Config.sha384 b))).rollNow = v at hfirst hnone
  have hids : (if u.rd LC.STATE_STATE = 0 then [0, 1, 2] else []).Nodup ∧ ∀ c ∈ (if u.rd LC.STATE_STATE = 0 then [0, 1, 2] else []),
      c < 3 ∧ u.rd LC.STATE_STATE = 0 := by
    split
    next h0 => exact ⟨by decide, fun c hc => ⟨by simp at hc; omega, h0⟩⟩
    next => exact ⟨List.nodup_nil, fun c hc => absurd hc List.not_mem_nil⟩
  obtain ⟨hnodup, hids⟩ := hids
  obtain ⟨z, hz, hdue, hphase, hobjor, hgone, hslots⟩ := v.runLc_shows (lcAllowed_lt hallowed) (le b 8 16) (u.rd STO.JSEQ_SEQ) k spoil hnodup
    (fun c hc => (hids c hc).1) fun c hc => (hfirst _ (by have := (hids c hc).1; omega)).trans (hblank (hids c hc).2 c (hids c hc).1)
  refine ⟨z, hz, hphase, ?_, hdue, fun c j hc hj hjt hclass => hslots c j hc hj hjt ?_⟩
  · by_cases h3 : le b 4 1 = 3
    · exact hgone h3 m
    · exact (State.nonce_congr (hobjor h3) m).trans hnone
  · exact (v.slotClass_eq_zero c j).mpr ((hfirst _ (by have := lcAllowed_lt hallowed; omega)).trans ((u.slotClass_eq_zero c j).mp hclass))

/-- R379 to R381: a request whose record does not verify. -/
theorem State.lcFailed_shows (s : State) (m : Nat) (r : List Nat) (spoil : Bool) (seq : Nat) :
    (((s.setNonce m none).journalBad r spoil).wrs [(LC.PROGRESS_PHASE, 1), (LC.PROGRESS_TARGET, target), (LC.PROGRESS_SEQ, seq)]).rd
      LC.PROGRESS_PHASE = 1 ∧
    (((s.setNonce m none).journalBad r spoil).wrs [(LC.PROGRESS_PHASE, 1), (LC.PROGRESS_TARGET, target), (LC.PROGRESS_SEQ, seq)]).rst = s.rst := by
  have hset : (s.setNonce m none).rst = s.rst := rfl
  generalize s.setNonce m none = t at hset
  have hwork : t.StoreWork (fun _ => False) (t.journalBad r spoil) := by
    unfold State.journalBad
    split
    · exact ((t.storeWork_cwProgram _ r).trans (State.storeWork_cwSpoil _ _)).trans (State.storeWork_showFree _)
    · exact (t.storeWork_cwProgram _ r).trans (State.storeWork_showFree _)
  have hrst : (t.journalBad r spoil).rst = s.rst := hwork.rst.trans hset
  generalize t.journalBad r spoil = z at hrst
  refine ⟨?_, hrst⟩
  simp (disch := decide) only [State.wrs_cons, State.wrs_nil, State.rd_wr_ne, State.rd_wr_self]
  rfl

theorem lcRequestClause (s u : State) (m target : Nat) (b : List Nat) (h : s.Serves m [0, 1, 2, 3, 7]) (hread : s.ObjReads (s.arg m 1) 168 b u)
    (htarget : target = le b 4 1) :
    (lcAllowed (u.rd LC.STATE_STATE) target = false → ∀ fail k spoil, ∃ t, exec (.lcRequest m fail k spoil) s = .next t ∧
      t.rd (OBJ.MB_STATUS_STATUS m) = 3 ∧ t.objor = u.objor ∧ t.mem = u.mem) ∧
    (lcAllowed (u.rd LC.STATE_STATE) target = true → (target = 2 → u.objor.ident ≠ none ∧ u.objor.cert ≠ []) → le b 56 16 = 0 →
      (Config.ecdsaVerify Config.romKey (b.take 72) (le b 72 96) = false ∨ u.nonce m ≠ some (le b 24 32) ∨
          (u.rd LC.STATE_STATE ≠ 0 ∧ le b 8 16 ≠ u.unitId) → ∀ fail k spoil, ∃ t, exec (.lcRequest m fail k spoil) s = .next t ∧
        t.rd (OBJ.MB_STATUS_STATUS m) = 4 ∧ t.objor = u.objor ∧ t.mem = u.mem) ∧
      (Config.ecdsaVerify Config.romKey (b.take 72) (le b 72 96) = true → u.nonce m = some (le b 24 32) →
          u.rd LC.STATE_STATE = 0 ∨ le b 8 16 = u.unitId →
        (le b 0 4 ≠ 0x434C5848 ∨ le b 5 3 ≠ 0 → ∀ fail k spoil, ∃ t, exec (.lcRequest m fail k spoil) s = .next t ∧
          t.rd (OBJ.MB_STATUS_STATUS m) = 2 ∧ t.objor = u.objor ∧ t.mem = u.mem) ∧
        (le b 0 4 = 0x434C5848 → le b 5 3 = 0 → u.StoreFree → ∀ k spoil,
          ((u.rd LC.STATE_STATE = 0 → ∀ c, c < 3 → u.cwState (1024 * c) = 0) → ∃ t, exec (.lcRequest m 0 k spoil) s = .next t ∧ t.rd (OBJ.MB_STATUS_STATUS m) = 0 ∧ t.rd LC.PROGRESS_PHASE = 5 ∧ t.nonce m = none ∧
            t.rst.due = some 4 ∧ ∀ c j, c < 3 → 1 ≤ j → j ≤ target → u.slotClass c j = 0 → t.cwState (1024 * c + j) = 1) ∧
          (∃ t, exec (.lcRequest m 1 k spoil) s = .next t ∧ t.rd (OBJ.MB_STATUS_STATUS m) = 6 ∧ t.rd (OBJ.MB_STATUS_DETAIL m) = 0xB ∧
            t.rd LC.PROGRESS_PHASE = 1 ∧ t.rst = u.rst)))) := by
  subst htarget
  have hm := h.1
  have hrefused {st d : Nat} (fail k : Nat) (spoil : Bool) (hbody : lcRequest fail k spoil s m = ⟨st, d, u⟩) (hst : st ∈ [2, 3, 4]) (hd : d < 256) :
      ∃ t, exec (.lcRequest m fail k spoil) s = .next t ∧ t.rd (OBJ.MB_STATUS_STATUS m) = st ∧ t.objor = u.objor ∧ t.mem = u.mem := by
    refine ⟨_, exec_lcRequest h fail k spoil, ?_⟩
    rw [hbody]
    obtain ⟨hst, -, -, hobjor, hmem, -⟩ := MbRes.ends_close_refused hm 6 hst hd u
    exact ⟨hst, hobjor, hmem⟩
  refine ⟨fun hno fail k spoil => hrefused fail k spoil (lcRequest_closed hread hno) (by decide) (by decide),
    fun hallowed hident hsid => ⟨fun hwhy fail k spoil => ?_, fun hver hnonce huid => ⟨fun hformat fail k spoil => ?_, fun hmagic hzero hf k spoil =>
      ⟨fun hblank => ?_, ?_⟩⟩⟩⟩
  · have hbody := lcRequest_judged (fail := fail) (k := k) (spoil := spoil) hread hallowed hident hsid
    cases hver : Config.ecdsaVerify Config.romKey (b.take 72) (le b 72 96) with
    | false =>
      rw [hver, if_pos (by decide)] at hbody
      exact hrefused fail k spoil hbody (by decide) (by decide)
    | true =>
      have hother : (u.rd LC.STATE_STATE ≠ 0 ∧ le b 8 16 ≠ u.unitId) ∨ u.nonce m ≠ some (le b 24 32) := by
        rw [hver] at hwhy
        rcases hwhy with h | h | h
        exacts [absurd h (by decide), .inr h, .inl h]
      rw [hver, if_neg (by decide), if_pos hother] at hbody
      exact hrefused fail k spoil hbody (by decide) (by decide)
  · have hbody := lcRequest_judged (fail := fail) (k := k) (spoil := spoil) hread hallowed hident hsid
    rw [hver, if_neg (by decide), if_neg (lcRequest_same hnonce huid), if_pos hformat] at hbody
    exact hrefused fail k spoil hbody (by decide) (by decide)
  · obtain ⟨z, hz, hphase, hnone, hdue, hslots⟩ := lcRequest_done (k := k) (spoil := spoil) hread hallowed hident hsid hver hnonce huid hmagic hzero hf hblank
    refine ⟨_, exec_lcRequest h 0 k spoil, ?_⟩
    rw [hz]
    obtain ⟨hst, -, -, hobjor, -, hstore, -, hrst, -, hrd⟩ := MbRes.ends_close hm 6 (.inl rfl) (by decide : 0 < 256) z
    refine ⟨hst, (hrd _ (by decide) (by decide) (by simp only [Fld.key]; omega)).trans hphase, (State.nonce_congr hobjor m).trans hnone,
      (congrArg RstX.due hrst).trans hdue, fun c j hc hj hjt hclass => ?_⟩
    exact (State.FirstStands.of_store hstore _ (by have := lcAllowed_lt hallowed; omega)).trans (hslots c j hc hj hjt hclass)
  · have hbody := lcRequest_judged (fail := 1) (k := k) (spoil := spoil) hread hallowed hident hsid
    have hformat : ¬(le b 0 4 ≠ 0x434C5848 ∨ le b 5 3 ≠ 0) := not_or.mpr ⟨not_not.mpr hmagic, not_not.mpr hzero⟩
    rw [hver, if_neg (by decide), if_neg (lcRequest_same hnonce huid), if_neg hformat, State.withStore_free hf, if_pos rfl] at hbody
    obtain ⟨hphase, hrst⟩ := u.lcFailed_shows (target := le b 4 1) m (lcRecord (le b 4 1) 1 (u.rd STO.JSEQ_SEQ) (Config.sha384 b)) spoil (u.rd STO.JSEQ_SEQ)
    refine ⟨_, exec_lcRequest h 1 k spoil, ?_⟩
    rw [hbody]
    generalize State.wrs _ [(LC.PROGRESS_PHASE, 1), (LC.PROGRESS_TARGET, le b 4 1), (LC.PROGRESS_SEQ, u.rd STO.JSEQ_SEQ)] = z at hphase hrst
    obtain ⟨hst, hd, -, -, -, -, -, hrst', -, hrd⟩ := MbRes.ends_close hm 6 (.inr rfl) (by decide : 0xB < 256) z
    exact ⟨hst, hd, (hrd _ (by decide) (by decide) (by simp only [Fld.key]; omega)).trans hphase, hrst'.trans hrst⟩

/-! ### ROLL_FORWARD -/

/-- R385: a transition that is carried on, and no Store step fails. -/
theorem lcRoll_done (hlocked : s.rd LC.STATE_STATE = 7) (hopen : s.openLc ≠ []) (hf : s.StoreFree) (m : Nat) :
    ∃ z, lcRoll 0 k spoil s m = ⟨0, 0, z⟩ ∧ z.rst.due = some 4 := by
  unfold lcRoll
  rw [List.getLast?_eq_some_getLast hopen]
  dsimp only
  rw [if_neg (not_not.mpr hlocked), State.withStore_free hf]
  generalize s.openLc.getLast hopen = e
  generalize hids : (if bits (e.getD 0 0) 20 2 = 1 then (List.range 3).filter fun c => s.cwState (1024 * c) == 0 else []) = ids
  have hsub : ids.Nodup ∧ ∀ c ∈ ids, c < 3 ∧ s.cwState (1024 * c) = 0 := by
    rw [← hids]
    split
    · exact ⟨List.nodup_range.filter _, fun c hc => by simpa using hc⟩
    · exact ⟨List.nodup_nil, fun c hc => absurd hc List.not_mem_nil⟩
  obtain ⟨hnodup, hids⟩ := hsub
  have hdrawn : (if (!ids.isEmpty && ((List.range 3).findSome? s.uidCopy).isNone) = true then s.drawn.drawn else s).store = s.store := by
    split <;> rfl
  generalize (if (!ids.isEmpty && ((List.range 3).findSome? s.uidCopy).isNone) = true then s.drawn.drawn else s) = t at hdrawn
  obtain ⟨z, hz, hdue, -⟩ := t.runLc_shows (target := bits (e.getD 0 0) 20 2) (Nat.mod_lt _ (by decide))
    (((List.range 3).findSome? s.uidCopy).getD (s.freeVal 64 + 2 ^ 64 * s.drawn.freeVal 64)) (entSeq (e.getD 0 0)) k spoil hnodup
    (fun c hc => (hids c hc).1) fun c hc => (State.FirstStands.of_store hdrawn _ (by have := (hids c hc).1; omega)).trans (hids c hc).2
  exact ⟨z, hz, hdue⟩

theorem rollForwardClause (s : State) (m k : Nat) (spoil : Bool) (h : s.Serves m [0, 1, 2, 3, 7]) :
    (∀ fail, s.openLc = [] ∨ s.rd LC.STATE_STATE ≠ 7 → ∃ t, exec (.rollForward m fail k spoil) s = .next t ∧ t.rd (OBJ.MB_STATUS_STATUS m) = 3 ∧
      t.mem = s.mem ∧ t.store = s.store) ∧
    (s.rd LC.STATE_STATE = 7 → s.openLc ≠ [] → s.StoreFree → ∃ t, exec (.rollForward m 0 k spoil) s = .next t ∧
      t.rd (OBJ.MB_STATUS_STATUS m) = 0 ∧ t.rst.due = some 4) := by
  have hm := h.1
  have hexec (fail : Nat) : exec (.rollForward m fail k spoil) s = .next ((lcRoll fail k spoil s m).close m 6) :=
    congrArg Host.Outcome.next (h.mbRow (op := 6) (by decide) false (lcRoll fail k spoil))
  refine ⟨fun fail hno => ⟨_, hexec fail, ?_⟩, fun hlocked hopen hf => ⟨_, hexec 0, ?_⟩⟩
  · have hbody : lcRoll fail k spoil s m = ⟨3, 0, s⟩ := by
      unfold lcRoll
      cases hlast : s.openLc.getLast? with
      | none => rfl
      | some e =>
        have hlocked : s.rd LC.STATE_STATE ≠ 7 := hno.resolve_left fun hnil => by rw [hnil] at hlast; cases hlast
        exact if_pos hlocked
    rw [hbody]
    obtain ⟨hst, -, -, -, hmem, hstore, -⟩ := MbRes.ends_close_refused hm 6 (st := 3) (by decide) (by decide : 0 < 256) s
    exact ⟨hst, hmem, hstore⟩
  · obtain ⟨z, hz, hdue⟩ := lcRoll_done (k := k) (spoil := spoil) hlocked hopen hf m
    rw [hz]
    obtain ⟨hst, -, -, -, -, -, -, hrst, -⟩ := MbRes.ends_close hm 6 (.inl rfl) (by decide : 0 < 256) z
    exact ⟨hst, (congrArg RstX.due hrst).trans hdue⟩

end

end Sys2Proof.Machine

namespace Sys2Proof.Machine

/-! ## DEBUG_AUTH and SELF_TEST_COMPLETE (R344, R346, R359, R387) -/

section

variable {s u : State} {m perm pass : Nat} {b : List Nat} {lost : Bool × Bool}

/-! ### DEBUG_AUTH -/

/-- R387: what an accepted token grants. -/
def State.granted (s : State) (m perm : Nat) : State :=
  ((s.setNonce m none).wr DBG.AUTH_PERM (Nat.lor (s.rd DBG.AUTH_PERM) perm)).count DBG.AUTH_TOKENS 1

/-- R346, R387: the grant of internal scan. -/
def State.scanGranted (s : State) : State := State.approvedNow { s with objor := { s.objor with scanToken := true } }

theorem State.granted_shows (s : State) (m : Nat) (hp : perm < 16) : (s.granted m perm).mem = s.mem ∧
    (s.granted m perm).rd DBG.AUTH_PERM = Nat.lor (s.rd DBG.AUTH_PERM) perm ∧
    (s.granted m perm).rd DBG.AUTH_TOKENS = satAdd DBG.AUTH_TOKENS.width (s.rd DBG.AUTH_TOKENS) 1 ∧ (s.granted m perm).nonce m = none := by
  have hset : (s.setNonce m none).nonce m = none := s.nonce_setNonce m none
  have hrd : (s.setNonce m none).rd DBG.AUTH_TOKENS = s.rd DBG.AUTH_TOKENS := rfl
  have hmem : (s.setNonce m none).mem = s.mem := rfl
  unfold State.granted State.count
  generalize s.setNonce m none = t at hset hrd hmem
  refine ⟨hmem, ?_, ?_, hset⟩
  · rw [State.rd_wr_ne _ _ (by decide), State.rd_wr_self]
    exact Nat.mod_eq_of_lt (Nat.or_lt_two_pow (n := 4) (s.rd_lt DBG.AUTH_PERM) hp)
  · rw [State.rd_wr_self, State.rd_wr_ne _ _ (by decide), hrd]
    refine Nat.mod_eq_of_lt (Nat.lt_of_le_of_lt (Nat.min_le_right _ _) (by decide))

theorem State.scanGranted_shows (s : State) : s.scanGranted.rd OBJ.STATUS_APPROVED = 0 ∧ s.scanGranted.mem = s.mem ∧
    (∀ m, s.scanGranted.nonce m = s.nonce m) ∧ ∀ f : Fld, f.key ≠ OBJ.STATUS_APPROVED.key → s.scanGranted.rd f = s.rd f := by
  unfold State.scanGranted State.approvedNow State.wrB
  refine ⟨?_, rfl, fun _ => rfl, fun f hf => State.rd_wr_ne _ _ hf.symm⟩
  rw [State.rd_wr_self]
  simp [b2n]

/-- R387: a token of the vendor. -/
theorem debugAuth_judged (hread : s.ObjReads (s.arg m 1) 168 b u) (hperm : le b 4 1 < 16) (hmagic : le b 0 4 = 0x54445848) (hzero : le b 5 3 = 0)
    (huid : le b 8 16 = u.unitId) (hnonce : u.nonce m = some (le b 24 32)) (hsid : le b 56 16 = 0) : debugAuth s m =
      if Config.ecdsaVerify Config.romKey (b.take 72) (le b 72 96) then
        ⟨0, 0, if bitOf (le b 4 1) 2 then (u.granted m (le b 4 1)).scanGranted else u.granted m (le b 4 1)⟩
      else ⟨4, 4, u⟩ := by
  have hsame : ¬(le b 8 16 ≠ u.unitId ∨ u.nonce m ≠ some (le b 24 32)) := not_or.mpr ⟨not_not.mpr huid, not_not.mpr hnonce⟩
  have hformat : ¬(le b 0 4 ≠ 0x54445848 ∨ 16 ≤ le b 4 1 ∨ le b 5 3 ≠ 0) := by omega
  rw [debugAuth, hread.withBytes]
  dsimp only
  rw [hsid, if_neg (fun h => h.1 rfl), State.signedBy, if_pos rfl, if_neg hsame, if_neg hformat]
  cases Config.ecdsaVerify Config.romKey (b.take 72) (le b 72 96) <;> rfl

theorem debugAuthClause (s u : State) (m perm : Nat) (b : List Nat) (h : s.Serves m [2]) (hread : s.ObjReads (s.arg m 1) 168 b u)
    (hperm : perm = le b 4 1) (hp : perm < 16) (hmagic : le b 0 4 = 0x54445848) (hzero : le b 5 3 = 0) (huid : le b 8 16 = u.unitId)
    (hnonce : u.nonce m = some (le b 24 32)) (hsid : le b 56 16 = 0) :
    ∃ t, exec (.debugAuth m) s = .next t ∧ t.mem = u.mem ∧ if Config.ecdsaVerify Config.romKey (b.take 72) (le b 72 96) then
        t.rd (OBJ.MB_STATUS_STATUS m) = 0 ∧ t.rd DBG.AUTH_PERM = Nat.lor (u.rd DBG.AUTH_PERM) perm ∧
        t.rd DBG.AUTH_TOKENS = satAdd DBG.AUTH_TOKENS.width (u.rd DBG.AUTH_TOKENS) 1 ∧ t.nonce m = none ∧
        (bitOf perm 2 = true → t.rd OBJ.STATUS_APPROVED = 0)
      else t.rd (OBJ.MB_STATUS_STATUS m) = 4 ∧ t.objor = u.objor ∧ t.rd DBG.AUTH_PERM = u.rd DBG.AUTH_PERM := by
  subst hperm
  have hm := h.1
  refine ⟨_, congrArg Host.Outcome.next (h.mbRow (op := 7) (by decide) false debugAuth), ?_⟩
  rw [debugAuth_judged hread hp hmagic hzero huid hnonce hsid]
  split
  next =>
    obtain ⟨hgmem, hgperm, hgtok, hgnonce⟩ := u.granted_shows m hp
    generalize u.granted m (le b 4 1) = g at hgmem hgperm hgtok hgnonce
    obtain ⟨happroved, hsmem, hsnonce, hsrd⟩ := g.scanGranted_shows
    generalize hz : (if bitOf (le b 4 1) 2 = true then g.scanGranted else g) = z
    have hzmem : z.mem = g.mem := by rw [← hz]; split; exacts [hsmem, rfl]
    have hznonce : z.nonce m = g.nonce m := by rw [← hz]; split; exacts [hsnonce m, rfl]
    have hzrd (f : Fld) (hf : f.key ≠ OBJ.STATUS_APPROVED.key) : z.rd f = g.rd f := by rw [← hz]; split; exacts [hsrd f hf, rfl]
    have hzapproved (hscan : bitOf (le b 4 1) 2 = true) : z.rd OBJ.STATUS_APPROVED = 0 := by rw [← hz, if_pos hscan]; exact happroved
    obtain ⟨hst, -, -, hobjor, hmem, -, -, -, -, hrd⟩ := MbRes.ends_close hm 7 (.inl rfl) (by decide : 0 < 256) z
    refine ⟨hmem.trans (hzmem.trans hgmem), hst, ?_, ?_, (State.nonce_congr hobjor m).trans (hznonce.trans hgnonce), fun hscan => ?_⟩
    · exact (hrd _ (by decide) (by decide) (by simp only [Fld.key]; omega)).trans ((hzrd _ (by decide)).trans hgperm)
    · exact (hrd _ (by decide) (by decide) (by simp only [Fld.key]; omega)).trans ((hzrd _ (by decide)).trans hgtok)
    · exact (hrd _ (by decide) (by decide) (by simp only [Fld.key]; omega)).trans (hzapproved hscan)
  next =>
    obtain ⟨hst, -, -, hobjor, hmem, -, -, -, -, hrd⟩ := MbRes.ends_close_refused hm 7 (st := 4) (by decide) (by decide : 4 < 256) u
    exact ⟨hmem, hst, hobjor, hrd _ (by decide) (by decide) (by simp only [Fld.key]; omega)⟩

/-! ### SELF_TEST_COMPLETE -/

/-- R359: the installs that a reset interrupted are undone. -/
def State.installsUndone (s : State) (ok : Bool) : State := (List.range 15).foldl (fun t k =>
  if t.rd (OBJ.SLOT_A_STATE (k + 1)) = 1 then t.zeroiseSlot (k + 1) ok else t) s

/-- R345, R368: the loss of the counter log, `bad` where Objor does not sense it. -/
def State.logJudged (s : State) (bad : Bool) : State := if s.logLost || (bad && s.objor.ident.isSome) then s.objorError else s

/-- R344, R346: the tests have passed. -/
def State.testsPassed (s : State) : State := (s.wrs [(OBJ.STATUS_READY, 1), (OBJ.STATUS_IDENT, b2n s.objor.ident.isSome)]).approvedNow

/-- R344: the state that the pre-operational tests leave. -/
def State.testsDone (s : State) : State := if s.flag OBJ.STATUS_ERROR then s else s.testsPassed

theorem exec_selfTestComplete (hready : s.flag OBJ.STATUS_READY = false) (herror : s.flag OBJ.STATUS_ERROR = false)
    (hwait : ∀ k, s.rd (OBJ.SLOT_A_STATE (k + 1)) = 1 → k < 15 → s.eraseWaits (k + 1) = false) : exec (.selfTestComplete pass lost) s =
      .next (((s.installsUndone (!lost.2)).katResult pass).logJudged lost.1).testsDone := by
  have hany : ((List.range 15).any fun k => s.rd (OBJ.SLOT_A_STATE (k + 1)) == 1 && s.eraseWaits (k + 1)) = false := by
    refine List.any_eq_false.mpr fun k hk => ?_
    by_cases h1 : s.rd (OBJ.SLOT_A_STATE (k + 1)) = 1
    · simp [hwait k h1 (List.mem_range.mp hk)]
    · simp [h1]
  show execSelfTestComplete pass lost s = _
  rw [execSelfTestComplete, hready, herror, hany]
  rfl

theorem State.installsUndone_none (h : ∀ k, k < 16 → s.rd (OBJ.SLOT_A_STATE k) ≠ 1) (ok : Bool) : s.installsUndone ok = s := by
  refine List.foldlRecOn (motive := fun t : State => t = s) _ _ rfl fun t ht k hk => ?_
  subst ht
  exact if_neg (h (k + 1) (by have := List.mem_range.mp hk; omega))

/-- R359: an install that a reset interrupted leaves its slot FREE. -/
theorem State.installsUndone_slot {k : Nat} (hk : 1 ≤ k) (hk16 : k < 16) (h : s.rd (OBJ.SLOT_A_STATE k) = 1) (ok : Bool) :
    (s.installsUndone ok).rd (OBJ.SLOT_A_STATE k) = 0 := by
  have hstep (t : State) (y : Nat) := t.zeroised_zeroiseSlot (y + 1) ok
  have hkeep (t : State) (y : Nat) (hy : y ≠ k - 1) {v : Nat} (hv : t.rd (OBJ.SLOT_A_STATE k) = v) :
      (if t.rd (OBJ.SLOT_A_STATE (y + 1)) = 1 then t.zeroiseSlot (y + 1) ok else t).rd (OBJ.SLOT_A_STATE k) = v := by
    split
    · exact ((hstep t y).rd _ (by simp only [Fld.key]; omega) (by simp only [Fld.key]; omega)).trans hv
    · exact hv
  have hself : k - 1 + 1 = k := Nat.sub_add_cancel hk
  refine State.foldl_turns (P := fun t : State => t.rd (OBJ.SLOT_A_STATE k) = 1) (Q := fun t : State => t.rd (OBJ.SLOT_A_STATE k) = 0) (x := k - 1)
    (List.mem_range.mpr (by omega)) (fun t y hy h1 => hkeep t y hy h1) (fun t h1 => ?_) (fun t y h0 => ?_) h
  · have hzero := (hstep t (k - 1)).state
    rw [hself] at hzero ⊢
    rw [if_pos h1]
    exact hzero
  · by_cases hy : y = k - 1
    · rw [hy, hself, if_neg (by rw [h0]; decide)]
      exact h0
    · exact hkeep t y hy h0

/-- R344: what the results of the tests change. -/
theorem State.katResult_frame (s : State) (pass : Nat) : (s.katResult pass).rd OBJ.KAT_DONE = 1 ∧
    ∀ f : Fld, 64 * 0x100021 ≤ f.key → f.key < 64 * 0x100600 → (s.katResult pass).rd f = s.rd f := by
  have hdone : (s.wrs [(OBJ.KAT_PASS, pass), (OBJ.KAT_DONE, 1)]).rd OBJ.KAT_DONE = 1 := by
    simp (disch := decide) only [State.wrs_cons, State.wrs_nil, State.rd_wr_self]
    rfl
  have hne (f : Fld) (hf : 64 * 0x100021 ≤ f.key) : (s.wrs [(OBJ.KAT_PASS, pass), (OBJ.KAT_DONE, 1)]).rd f = s.rd f := by
    simp (disch := (simp only [Fld.key] at hf ⊢; omega)) only [State.wrs_cons, State.wrs_nil, State.rd_wr_ne]
  unfold State.katResult
  dsimp only
  generalize s.wrs [(OBJ.KAT_PASS, pass), (OBJ.KAT_DONE, 1)] = t at hdone hne
  split
  · exact ⟨hdone, fun f hlo _ => hne f hlo⟩
  · obtain ⟨-, -, -, -, -, -, -, -, hrd⟩ := t.objorError_shows
    exact ⟨(hrd _ (by decide) (by decide)).trans hdone, fun f hlo hhi => (hrd f (by omega) hhi).trans (hne f hlo)⟩

/-- R344 to R346, R368: what is judged after the tests leaves their results and the slots. -/
theorem State.rd_testsDone (s : State) (bad : Bool) {f : Fld} (hlo : 64 * 0x100009 ≤ f.key) (hhi : f.key < 64 * 0x100600) :
    (s.logJudged bad).testsDone.rd f = s.rd f := by
  have hjudged : (s.logJudged bad).rd f = s.rd f := by
    unfold State.logJudged
    split
    · obtain ⟨-, -, -, -, -, -, -, -, hrd⟩ := s.objorError_shows
      exact hrd f hlo hhi
    · rfl
  generalize s.logJudged bad = t at hjudged
  refine Eq.trans ?_ hjudged
  unfold State.testsDone State.testsPassed State.approvedNow State.wrB
  split
  · rfl
  · simp (disch := (simp only [Fld.key] at hlo ⊢; omega)) only [State.wrs_cons, State.wrs_nil, State.rd_wr_ne]

theorem State.logLost_congr {t : State} (hm : t.mem = s.mem) (hs : t.store = s.store) (hi : t.objor.ident = s.objor.ident) : t.logLost = s.logLost := by
  have hwords : t.cwWords = s.cwWords := funext (State.cwWords_congr hm hs)
  have herrors : t.cwErrors = s.cwErrors := funext fun k => funext (State.cwErrors_congr hm hs k)
  have hentries : t.logEntries = s.logEntries := funext fun x => by
    rw [State.logEntries, hwords, herrors, State.usedIn_congr hs]
    rfl
  rw [State.logLost, hi, hentries, State.logLost]

/-- R344, R346: what passed tests show. -/
theorem State.testsPassed_shows (s : State) : s.testsPassed.rd OBJ.STATUS_READY = 1 ∧ s.testsPassed.rd OBJ.STATUS_ERROR = s.rd OBJ.STATUS_ERROR ∧
    s.testsPassed.rd OBJ.STATUS_IDENT = b2n s.objor.ident.isSome ∧ s.testsPassed.objor = s.objor ∧ s.testsPassed.mem = s.mem ∧
    s.testsPassed.rd OBJ.STATUS_APPROVED = b2n (s.rd LC.STATE_STATE == 2 && !s.objor.scanToken) := by
  have hbit (b : Bool) : b2n b % 2 ^ 1 = b2n b := by cases b <;> rfl
  unfold State.testsPassed State.approvedNow State.wrB State.flag
  refine ⟨?_, ?_, ?_, rfl, rfl, ?_⟩ <;>
    simp (disch := decide) only [State.wrs_cons, State.wrs_nil, State.rd_wr_ne, State.rd_wr_self]
  · rfl
  · exact hbit _
  · refine (hbit _).trans (congrArg b2n ?_)
    rw [show (1 % 2 ^ (1 : Nat) == 1) = true from rfl, Bool.and_true]
    rfl

theorem State.katResult_ident (s : State) (pass : Nat) : (s.katResult pass).objor.ident = s.objor.ident := by
  unfold State.katResult
  dsimp only
  have hwrs : (s.wrs [(OBJ.KAT_PASS, pass), (OBJ.KAT_DONE, 1)]).objor = s.objor := rfl
  generalize s.wrs [(OBJ.KAT_PASS, pass), (OBJ.KAT_DONE, 1)] = t at hwrs
  split
  · rw [hwrs]
  · obtain ⟨-, -, -, -, hobjor, -⟩ := t.objorError_shows
    rw [hobjor, hwrs]

/-- R345: what is judged after a test has failed, or without a readable log. -/
theorem State.logJudged_error (h : s.logLost = true ∨ (s.rd OBJ.STATUS_ERROR = 1 ∧ s.rd OBJ.STATUS_READY = 0)) (bad : Bool) :
    (s.logJudged bad).testsDone.rd OBJ.STATUS_ERROR = 1 ∧ (s.logJudged bad).testsDone.rd OBJ.STATUS_READY = 0 ∧
      (s.logJudged bad).testsDone.mem = s.mem := by
  have hjudged : (s.logJudged bad).rd OBJ.STATUS_ERROR = 1 ∧ (s.logJudged bad).rd OBJ.STATUS_READY = 0 ∧ (s.logJudged bad).mem = s.mem := by
    unfold State.logJudged
    split
    next =>
      obtain ⟨herror, hready, -, -, -, -, hmem, -⟩ := s.objorError_shows
      exact ⟨herror, hready, hmem⟩
    next hno =>
      obtain ⟨herror, hready⟩ := h.resolve_left fun hlost => hno (by rw [hlost, Bool.true_or])
      exact ⟨herror, hready, rfl⟩
  rw [State.testsDone, if_pos (State.flag_eq_true.mpr hjudged.1)]
  exact hjudged

theorem selfTestCompleteClause (s : State) (pass : Nat) (lost : Bool × Bool) :
    (s.flag OBJ.STATUS_READY = true ∨ s.flag OBJ.STATUS_ERROR = true → exec (.selfTestComplete pass lost) s = .next s) ∧
    (s.flag OBJ.STATUS_READY = false → s.flag OBJ.STATUS_ERROR = false →
      ((∀ k, k < 16 → s.rd (OBJ.SLOT_A_STATE k) ≠ 1) →
        (s.logLost = false → ∀ b, ∃ t, exec (.selfTestComplete 1023 (false, b)) s = .next t ∧ t.rd OBJ.STATUS_READY = 1 ∧ t.rd OBJ.STATUS_ERROR = 0 ∧
          t.rd OBJ.KAT_PASS = 1023 ∧ t.rd OBJ.KAT_DONE = 1 ∧ t.rd OBJ.STATUS_IDENT = b2n s.objor.ident.isSome ∧ t.objor = s.objor ∧ t.mem = s.mem ∧
          t.rd OBJ.STATUS_APPROVED = b2n (s.rd LC.STATE_STATE == 2 && !s.objor.scanToken)) ∧
        (s.logLost = true → ∃ t, exec (.selfTestComplete 1023 lost) s = .next t ∧ t.rd OBJ.STATUS_READY = 0 ∧ t.rd OBJ.STATUS_ERROR = 1) ∧
        (pass < 1023 → ∃ t, exec (.selfTestComplete pass lost) s = .next t ∧ t.rd OBJ.STATUS_READY = 0 ∧ t.rd OBJ.STATUS_ERROR = 1 ∧
          t.rd OBJ.KAT_PASS = pass ∧ t.mem = s.mem)) ∧
      (∀ k, 1 ≤ k → k < 16 → s.rd (OBJ.SLOT_A_STATE k) = 1 → s.StoreFree → ∃ t, exec (.selfTestComplete pass lost) s = .next t ∧
        t.rd (OBJ.SLOT_A_STATE k) = 0 ∧ t.rd OBJ.KAT_DONE = 1)) := by
  refine ⟨fun hdone => ?_, fun hready herror => ⟨fun hslots => ?_, fun k hk hk16 h1 hf => ⟨_, exec_selfTestComplete hready herror
    fun k _ _ => s.eraseWaits_free hf _, ?_, ?_⟩⟩⟩
  · refine congrArg Host.Outcome.next (if_pos ?_)
    rw [Bool.or_eq_true, Bool.or_eq_true]
    exact .inl hdone
  · have hexec (pass : Nat) (lost : Bool × Bool) : exec (.selfTestComplete pass lost) s =
        .next (((s.katResult pass).logJudged lost.1).testsDone) := by
      rw [exec_selfTestComplete hready herror fun k h1 hk => absurd h1 (hslots (k + 1) (by omega)), State.installsUndone_none hslots]
    have he : s.rd OBJ.STATUS_ERROR = 0 := State.rd_of_flag_false (by decide) herror
    refine ⟨fun hlog b => ⟨_, hexec 1023 (false, b), ?_⟩, fun hlog => ⟨_, hexec 1023 lost, ?_⟩, fun hpass => ⟨_, hexec pass lost, ?_⟩⟩
    · obtain ⟨hkpass, hkdone, hkmem, hkstore, -, hkerror⟩ := s.katResult_shows (pass := 1023) (by decide)
      have hk : s.katResult 1023 = s.wrs [(OBJ.KAT_PASS, 1023), (OBJ.KAT_DONE, 1)] := rfl
      have hkobjor : (s.katResult 1023).objor = s.objor := rfl
      have hkstate : (s.katResult 1023).rd LC.STATE_STATE = s.rd LC.STATE_STATE := by
        rw [hk, State.rd_wrs_ne _ _ (by decide)]
      rw [if_pos rfl, he] at hkerror
      clear hk
      generalize s.katResult 1023 = g at hkpass hkdone hkmem hkstore hkerror hkobjor hkstate
      have hglog : g.logLost = false := (State.logLost_congr hkmem hkstore (congrArg ObjorX.ident hkobjor)).trans hlog
      have hjudged : g.logJudged false = g := by
        rw [State.logJudged, hglog]
        rfl
      have hdone : g.testsDone = g.testsPassed := if_neg (by rw [State.flag_eq_true, hkerror]; decide)
      obtain ⟨htready, hterror, htident, htobjor, htmem, htapproved⟩ := g.testsPassed_shows
      have hp := g.rd_testsDone false (f := OBJ.KAT_PASS) (by decide) (by decide)
      have hd := g.rd_testsDone false (f := OBJ.KAT_DONE) (by decide) (by decide)
      rw [hjudged] at hp hd
      rw [hjudged]
      rw [hdone] at hp hd ⊢
      rw [hkobjor] at htident htapproved htobjor
      exact ⟨htready, hterror.trans hkerror, hp.trans hkpass, hd.trans hkdone, htident, htobjor, htmem.trans hkmem, by rw [htapproved, hkstate]⟩
    · obtain ⟨-, -, hkmem, hkstore, -, -⟩ := s.katResult_shows (pass := 1023) (by decide)
      obtain ⟨herror', hready', -⟩ := State.logJudged_error (.inl ((State.logLost_congr hkmem hkstore (s.katResult_ident 1023)).trans hlog)) lost.1
      exact ⟨hready', herror'⟩
    · obtain ⟨hkpass, -, hkmem, -, hkready, hkerror⟩ := s.katResult_shows (pass := pass) (by omega)
      rw [if_neg (by omega)] at hkready hkerror
      obtain ⟨herror', hready', hmem⟩ := State.logJudged_error (.inr ⟨hkerror, hkready⟩) lost.1
      exact ⟨hready', herror', (State.rd_testsDone _ _ (by decide) (by decide)).trans hkpass, hmem.trans hkmem⟩
  · obtain ⟨-, hkrd⟩ := (s.installsUndone (!lost.2)).katResult_frame pass
    exact (State.rd_testsDone _ _ (by simp only [Fld.key]; omega) (by simp only [Fld.key]; omega)).trans
      ((hkrd _ (by simp only [Fld.key]; omega) (by simp only [Fld.key]; omega)).trans (State.installsUndone_slot hk hk16 h1 _))
  · exact (State.rd_testsDone _ _ (by decide) (by decide)).trans ((s.installsUndone (!lost.2)).katResult_frame pass).1

end

/-- Settles O37: a clause per command; the transitions by what every step of one leaves of sector 0. -/
theorem lifeCycleAndTokens : Obligations.LifeCycleAndTokens :=
  ⟨nonceClause, lcRequestClause, rollForwardClause, debugAuthClause, selfTestCompleteClause⟩

end Sys2Proof.Machine
